-- ==== Sys2Proof/Word.lean ====
section
/-!
DEFINITION. Sys2Proof/Word.lean: the two word types of the part. Register space is 32 bits wide
(00_scope.md, "Conventions"); memory and frames are bytes.
-/
namespace Sys2Proof

/-- A word of register space: 32 bits. -/
abbrev Word := BitVec 32

/-- A byte of a frame, of Hearth SRAM or of host memory. -/
abbrev Byte := BitVec 8

end Sys2Proof
end

