-- ==== Sys2Proof/Syntax.lean ====
section
/-!
DEFINITION. Sys2Proof/Syntax.lean: the commands the block takes, one constructor per row of the table of
operations (spec/opcode_table.json). A command is an access an agent makes, or an event the part's
surroundings or its own clocks bring about; analogue quantities and other values the spec takes from outside
are the command's operands (log 2).
-/
namespace Sys2Proof

/-- Who makes a register access (R76, R99): the two PCIe functions, the Hearth cores, the test port. -/
inductive Agent where
  | pf0
  | pf1
  | hearth (core : Fin 4)
  | test
deriving DecidableEq, Repr

/-- A lane: data lane 0 to 767, or auxiliary lane 0 to 31 (R109). -/
inductive LaneId where
  | data (n : Fin 768)
  | aux (n : Fin 32)
deriving DecidableEq, Repr

/-- A register of an indirect window that takes writes (R78). -/
inductive WinReg where
  | addr
  | data
  | ctrl
deriving DecidableEq, Repr

/-- The values one update leaves in a data lane's adaptation settings: the measurement of the signal is
outside the model, so each update brings the values it computed (log 2). -/
structure Adapt where
  ctle : Int
  vga : Int
  dfe1 : Int
  fpre1 : Int
  fpost1 : Int
  fpost2 : Int
deriving DecidableEq, Repr

/-- Where a stop edge of the external channel comes from (R228, R575): TMEAS_STOP, TMEAS_REF, or the on-die edge of the self-test. -/
inductive StopSrc where
  | stop
  | ref
  | onDie
deriving DecidableEq, Repr

/-- What the ECC of a word that is read shows (R545, R547). -/
inductive EccErr where
  | none
  | single
  | double
deriving DecidableEq, Repr

/-- What reads the word: the scrubber, a Hearth core, the lookup of a frame, or another access (R545, R547). -/
inductive EccBy where
  | scrubber
  | core (c : Fin 4)
  | lookup (id : Nat)
  | access
deriving DecidableEq, Repr

/-- The flops of the time base that fail parity, with what they now hold (R550): the value in 2^−48 ns, the active or the staged
increment, EPOCH, OUTAGE, the pending command's increment, amount and ARM time, the offset of an output in 2^−48 ns. -/
inductive TbFlops where
  | value (v : Nat)
  | active (inc : BitVec 56)
  | staged (inc : BitVec 56)
  | epoch (e : BitVec 2)
  | outage (b : Bool)
  | pending (inc : BitVec 56) (amount : Int) (arm : Nat)
  | offset (k : Fin 5) (v : Int)
deriving DecidableEq, Repr

/-- A cycle of TCK (R564): TMS and TDI at its rising edge, the level that each cell of the boundary register would capture at its pin, and
the differential edges that the RX balls have brought since the cycle before, by cell, in mV (R570). -/
structure TapClock where
  tms : Bool
  tdi : Bool
  pins : BitVec 1670
  edges : List (Fin 1670 × Int)
deriving DecidableEq, Repr

/-- What MSIX_MASK masks or clears (R95). -/
inductive MsixWhat where
  | vector (v : Fin 64)
  | function
  | enable
  | busMaster
deriving DecidableEq, Repr

/-- Where in a port's stream the timestamp point of a frame lies (R175): on a logical port the bits of its stream from the alignment markers
on, on a timing port the characters from the start of a lane word on; and how many word-clock edges after a marker edge of the metrology (R204) the
edge of the word lies that begins there. -/
structure Stamp where
  off : Nat
  j : Nat
deriving DecidableEq, Repr

/-- What the part takes with the first slice of a frame (R473 to R476): the draw that may tag it, the fill of its receive FIFO in
units of 64 bytes, where its timestamp point lies, how many TCLK before the present edge its reference edge E came (R175), and how many
PCLK before the present cycle that slice was complete (R474; 0 for a frame shorter than it). `begun` is looked at only where the port is
down as the frame ends: whether it was up as the frame began (R418). -/
structure Arrival where
  draw : BitVec 32
  fill : BitVec 8
  stamp : Stamp
  ago : Nat
  slice : Nat
  begun : Bool
deriving DecidableEq, Repr

/-- The commands and events of the part: one constructor per row of the table of operations. -/
inductive Instr where
  /-- STAGE_START (R24): VIN rises above 5.9 V from below the reset level, and the power stage starts with limited inrush. -/
  | stageStart (vin : Nat)
  /-- RAILS_GOOD (R24): The internal rails become good after the stage starts. -/
  | railsGood
  /-- INTERNAL_RESET_RELEASE (R24): The internal reset releases once the rails are good and RESET_N is high, whichever is later. -/
  | internalResetRelease (twinPref : Bool) (boot : Bool) (enumHead : Bool)
  /-- RESET_N_ASSERT (R39): An assertion of RESET_N resets every domain, the oven island included, unless it is a trip restart. -/
  | resetNAssert (tj : BitVec 12)
  /-- KEEPER_LOCK (R524): The keeper PLL locks on XO_IN, OCLK runs, the HOLDUP charger starts, and LEAD_OUT_N and enumeration start. -/
  | keeperLock
  /-- MAIN_DOMAIN_RELEASE (R524): The main domain leaves reset with TCLK on the keeper and the lane reference on the backup, LOOP STATE 6, and the band search starts. -/
  | mainDomainRelease
  /-- WARN_ASSERT (R32): The supply monitor acts on VIN below the warning level: PWR_WARN_N goes low, the flags set, and any proofing run is abandoned. -/
  | warnAssert (vin : Nat)
  /-- WARN_CLEAR (R34): The warning releases when VIN rises above the warning level plus 0.2 V, PWR_WARN_N is released, and a type 1 or type 2 entry is logged. -/
  | warnClear (vin : Nat) (vinMin : Nat) (oclk : Nat)
  /-- EVT_FLAG_CLEAR (R33): PWR_LIVE.EVT_FLAG clears 1 ms after the last warning release. -/
  | evtFlagClear
  /-- SUPPLY_RESET (R35): VIN falls below the reset level, every domain except the oven island is held in reset, and the oven island runs on HOLDUP. -/
  | supplyReset (vin : Nat)
  /-- SUPPLY_RESTART (R36): VIN returns above 5.9 V while the oven island still runs, and the rest of the device restarts with the oven state retained. -/
  | supplyRestart (vin : Nat)
  /-- OVEN_ISLAND_STOP (R37): HOLDUP falls below 3.0 V before VIN returns, and the oven island stops and loses its state. -/
  | ovenIslandStop (holdup : Nat)
  /-- HOLDUP_READY (R26): HOLDUP first reaches 11.5 V and PWR_LIVE.HOLDUP_READY sets. -/
  | holdupReady (holdup : Nat)
  /-- HOLDUP_CAP_ESTIMATE (R26): At the end of charging, the device estimates the capacitance and raises HOLDUP_LOW if it is below 4,700 uF. -/
  | holdupCapEstimate (uF : Nat)
  /-- HOLDUP_LOW (R26): HOLDUP falls below 11.5 V while VIN is above the warning level, and HOLDUP_LOW is raised. -/
  | holdupLow (holdup : Nat)
  /-- PWR_WARN_LEVEL_WRITE (R30): A write of PWR_WARN_LEVEL is clamped and stored, and the change of level is treated as a crossing. -/
  | pwrWarnLevelWrite (ag : Agent) (d : Word)
  /-- PWR_MEASURE_UPDATE (R47): Every 100 us, the VIN, current, power and rail voltage readings are updated. -/
  | pwrMeasureUpdate (vin : BitVec 16) (iin : BitVec 16) (pin : BitVec 16) (holdup : BitVec 16) (rails : List (BitVec 16))
  /-- TEMP_UPDATE (R43): Every 100 us, PWR_TEMP is updated and TEMP_WARN is raised on a rise through PWR_TEMP_WARN. -/
  | tempUpdate (sensors : List (BitVec 12))
  /-- THERMAL_TRIP (R44): A sensor reads 125 degC or more: THERMTRIP_N goes low and every rail except the oven island shuts down. -/
  | thermalTrip (tj : BitVec 12)
  /-- TRIP_RESTART (R44): RESET_N is asserted with Tj below 100 degC during a trip, and the device restarts with the oven island kept. -/
  | tripRestart (tj : BitVec 12)
  /-- PCIE_PERST (R60): PCIE_PERST_N resets the PCIe core, the MSI-X state, the HOST page and the PF0 and PF1 windows, and nothing else. -/
  | pciePerst
  /-- LINK_TRAINING_START (R579): PCIe link training starts at the later of the PCIE_PERST_N rise and the main domain release. -/
  | linkTrainingStart
  /-- REGISTER_WRITE (R59): A write to a register that has no row of its own is applied, subject to the byte-enable, mapping, PF1 and lock checks. -/
  | registerWrite (ag : Agent) (addr : BitVec 26) (be : BitVec 4) (d : Word)
  /-- RC_READ (R66): A read of a register with RC bits returns them and clears exactly the bits it returned as 1. -/
  | rcRead (ag : Agent) (addr : BitVec 26) (be : BitVec 4)
  /-- ALIAS_WRITE (R75): An alias write sets or clears a single bit atomically. -/
  | aliasWrite (ag : Agent) (page : BitVec 12) (bit : BitVec 11) (d : Word)
  /-- ALIAS_READ (R74): An alias read returns a single bit, and clears it if it is an RC bit. -/
  | aliasRead (ag : Agent) (page : BitVec 12) (bit : BitVec 11)
  /-- LOCK_WRITE (R69): A write of 1 to LOCK.LOCKED locks every RWL field in the page. -/
  | lockWrite (ag : Agent) (page : BitVec 12) (d : Word)
  /-- INT_FORCE (R68): Writing INT_FORCE sets the matching INT_STATUS bits. -/
  | intForce (ag : Agent) (page : BitVec 12) (d : Word)
  /-- COUNTER_LO_READ (R86): A read of a counter _LO word latches a per-agent snapshot of _HI. -/
  | counterLoRead (ag : Agent) (addr : BitVec 26)
  /-- COUNTER_HI_READ (R86): A read of a counter _HI word returns the snapshot if the agent's previous counter read was the _LO of the same counter. -/
  | counterHiRead (ag : Agent) (addr : BitVec 26)
  /-- COUNTER_HI_WRITE (R89): A write of a counter _HI word is held in the agent's staging register. -/
  | counterHiWrite (ag : Agent) (addr : BitVec 26) (d : Word)
  /-- COUNTER_LO_WRITE (R89): A write of a counter _LO word writes the staged high word and the low word together, then clears the staging register. -/
  | counterLoWrite (ag : Agent) (addr : BitVec 26) (d : Word)
  /-- INTERRUPT_LINE_UPDATE (R94): INT_N or a Hearth interrupt line follows its routed sources 4 HCLK after they change. -/
  | interruptLineUpdate
  /-- MSIX_MESSAGE (R95): An MSI-X vector becomes asserted and its message is issued, or its PBA bit is set if it is masked. -/
  | msixMessage (fn : Fin 2) (vec : Fin 64)
  /-- MSIX_UNMASK (R95): A vector or function is unmasked, and the message is sent if the vector is still asserted. -/
  | msixUnmask (fn : Fin 2) (vec : Option (Fin 64))
  /-- MSIX_ENABLE (R95): MSI-X Enable and Bus Master Enable both become 1, and every asserted vector is treated as newly asserted. -/
  | msixEnable (fn : Fin 2)
  /-- IRQ_EOI (R95): An end-of-interrupt for a vector resends its message at once if the vector is still asserted. -/
  | irqEoi (ag : Agent) (d : Word)
  /-- IND_WRITE (R78): A write to a window register enters the 16-entry window FIFO, or is dropped with OVERRUN when the FIFO is full. -/
  | indWrite (ag : Agent) (win : Fin 4) (reg : WinReg) (d : Word)
  /-- IND_ADDR_APPLY (R79): An applied IND_ADDR write launches a read of the addressed word when DIR is 0, and discards any launched word. -/
  | indAddrApply (win : Fin 4)
  /-- IND_DATA_APPLY (R80): An applied IND_DATA write is written to the target when DIR is 1, or only stores DATA when DIR is 0. -/
  | indDataApply (win : Fin 4)
  /-- IND_CTRL_APPLY (R85): An applied IND_CTRL write sets STRIDE and DIR, and a change of DIR discards any launched word. -/
  | indCtrlApply (win : Fin 4)
  /-- IND_TARGET_TAKEN (R80): The target takes a window write, and the next FIFO entry may then be applied. -/
  | indTargetTaken (win : Fin 4)
  /-- IND_READ_READY (R79): A launched read's fetched word becomes ready, 12 HCLK plus the target latency after the launch. -/
  | indReadReady (win : Fin 4)
  /-- IND_DATA_READ (R79): A read of IND_DATA returns the fetched word with its deferred side effects, and advances WADDR under STRIDE. -/
  | indDataRead (ag : Agent) (win : Fin 4) (again : Word)
  /-- IND_STATUS_READ (R78): A read of IND_STATUS waits for every earlier window write to be applied, and clears its RC bits. -/
  | indStatusRead (ag : Agent) (win : Fin 4)
  /-- IND_TIMEOUT (R83): The target does not answer within 4,096 HCLK, and the access fails with TIMEOUT. -/
  | indTimeout (win : Fin 4)
  /-- MBOX_Q_WR (R101): A write to MBOX_Q_WR claims an idle queue or appends a word, with SENDER stamped in word 0. -/
  | mboxQWr (ag : Agent) (ch : Fin 8) (q : Fin 2) (d : Word)
  /-- POST (R101): POST makes the queued message visible to the receiver and increments MSG_SEQ. -/
  | post (ag : Agent) (ch : Fin 8) (q : Fin 2) (d : Word)
  /-- ABORT (R101): ABORT discards an unposted message and releases the claim. -/
  | abort (ag : Agent) (ch : Fin 8) (q : Fin 2) (d : Word)
  /-- DISCARD (R103): The receiver issues DISCARD, which drops the remaining words and empties the queue. -/
  | discard (ag : Agent) (ch : Fin 8) (q : Fin 2) (d : Word)
  /-- MBOX_Q_RD (R103): A read of MBOX_Q_RD removes and returns the next word, and the last removal empties the queue. -/
  | mboxQRd (ag : Agent) (ch : Fin 8) (q : Fin 2)
  /-- MBOX_ARRIVED (R104): ARRIVED sets 8 HCLK after POST, and the receiver's interrupt follows 12 HCLK after POST. -/
  | mboxArrived (ch : Fin 8) (q : Fin 2)
  /-- MBOX_EMPTIED (R104): EMPTIED sets 8 HCLK after the last removal, and the sender's interrupt follows at 12 HCLK. -/
  | mboxEmptied (ch : Fin 8) (q : Fin 2)
  /-- MBOX_INT_STATUS_READ (R106): A read of MBOX_INT_STATUS returns every bit but clears only the bits of the reader's side. -/
  | mboxIntStatusRead (ag : Agent) (n : Fin 4)
  /-- DLN_LANE_ENABLE (R125): A rise of a data lane's EN samples RATE, powers up the transmitter and starts coarse adaptation from the bound midpoints. -/
  | dlnLaneEnable (ag : Agent) (lane : Fin 768) (d : Word)
  /-- LANE_DISABLE (R114): A lane's EN falls, and the transmitter is held at common mode with no recovered clock. -/
  | laneDisable (ag : Agent) (lane : LaneId) (d : Word)
  /-- TX_READY (R126): A data lane's transmitter is running at the board-table preset. -/
  | txReady (lane : Fin 768)
  /-- SIGNAL (R126): A lane's input has exceeded 80 mVppd for 1 us, and SIGNAL sets. -/
  | signal (lane : LaneId)
  /-- CDR_LOCK (R116): A lane's CDR locks, and its recovered word clock is presented to the Leaven. -/
  | cdrLock (lane : LaneId)
  /-- COARSE_DONE (R126): The coarse adaptation state ends, and ADAPT_STATE becomes tracking. -/
  | coarseDone (lane : Fin 768) (vals : Adapt)
  /-- ALIGNED (R134): The data-lane aligner finds an alignment marker, slips by SLIP, re-phases the word clock and sets ALIGNED. -/
  | aligned (lane : Fin 768) (slip : BitVec 6)
  /-- LOS (R127): The input stays below 50 mVppd for 1 us, or the CDR loses lock; the lane clears its status, sets LOS and ALIGN_LOST, and holds its adapted values. -/
  | los (lane : LaneId) (cdrLost : Bool)
  /-- ALIGN_LOST (R135): The PCS declares loss of alignment-marker lock, and the lane clears ALIGNED and starts aligning again. -/
  | alignLost (lane : Fin 768)
  /-- ADAPT_RESTART (R126): ADAPT_RESTART restarts coarse adaptation from the bound midpoints. -/
  | adaptRestart (ag : Agent) (lane : Fin 768) (d : Word)
  /-- DENSITY_WINDOW_END (R130): At the end of each 256-word window, DENSITY is recorded and the lane applies an update, freezes, or counts towards resuming. -/
  | densityWindowEnd (lane : Fin 768) (transitions : Nat) (vals : Adapt)
  /-- ADAPT_HOLD_WRITE (R132): A write of ADAPT_HOLD stops adaptation updates, or resumes them when RESUME_COUNT is complete. -/
  | adaptHoldWrite (ag : Agent) (lane : Fin 768) (d : Word)
  /-- DLN_PRESET_STAGE (R121): A write of data-lane word 0 stages the transmit preset. -/
  | dlnPresetStage (win : Fin 4) (lane : Fin 768) (d : Word)
  /-- DLN_PRESET_APPLY (R121): A write of data-lane word 1 applies the whole preset, or rejects it with CFG_REJECT when its tap magnitudes exceed 128. -/
  | dlnPresetApply (win : Fin 4) (lane : Fin 768) (d : Word)
  /-- ALN_PRESET_WRITE (R121): A write of auxiliary-lane word 0 applies the preset, or rejects it. -/
  | alnPresetWrite (win : Fin 4) (lane : Fin 32) (d : Word)
  /-- BOUND_WRITE (R122): A write of receive bounds or fixed receive settings applies the valid pairs and rejects the others with CFG_REJECT. -/
  | boundWrite (win : Fin 4) (lane : LaneId) (word : Fin 3) (d : Word)
  /-- LOOPBACK_CHANGE (R149): A change of LOOPBACK applies at the next word boundary, and may drop alignment. -/
  | loopbackChange (ag : Agent) (lane : LaneId) (d : Word)
  /-- TXPLL_LOCK (R586): A chiplet or auxiliary transmit PLL locks to the lane reference after the main domain release. -/
  | txpllLock (pll : Fin 7)
  /-- TXPLL_UNLOCK (R586): A transmit PLL loses lock by a fault and sets TXPLL_UNLOCK. -/
  | txpllUnlock (pll : Fin 7)
  /-- PRBS_GEN_SET (R146): A generator pattern replaces the lane's traffic at the next word boundary and takes its port down. -/
  | prbsGenSet (ag : Agent) (lane : LaneId) (d : Word)
  /-- PRBS_CHECKER_LOCK (R147): After 256 error-free words the checker locks and starts counting. -/
  | prbsCheckerLock (lane : LaneId) (hist : (BitVec 128)) (words : (List (BitVec 128)))
  /-- PRBS_LOST (R147): After 64 consecutive errored words the checker loses lock and searches again. -/
  | prbsLost (lane : LaneId) (words : List (BitVec 128))
  /-- CHK_RESEED (R147): CHK_RESEED forces the checker to search again, without setting PRBS_LOST. -/
  | chkReseed (ag : Agent) (lane : LaneId) (d : Word)
  /-- INJ_ONE (R148): INJ_ONE flips one transmitted bit at the next word boundary. -/
  | injOne (ag : Agent) (lane : LaneId) (d : Word)
  /-- ERR_INJ_PERIOD_EXPIRE (R148): The injection period of PERIOD x 1,024 words elapses, and one error is injected. -/
  | errInjPeriodExpire (lane : LaneId)
  /-- FE_SLIP (R150): The far-end FIFO fill reaches 2 or 30 words, and whole words are repeated or dropped. -/
  | feSlip (lane : LaneId) (fill : Nat)
  /-- ALN_LANE_ENABLE (R142): A rise of an auxiliary lane's EN samples MODE and RATE, and the lane stays disabled on an invalid combination. -/
  | alnLaneEnable (ag : Agent) (lane : Fin 32) (d : Word)
  /-- SYNC_ACQ (R138): An auxiliary lane acquires synchronisation on K28.5, and the word boundary is fixed. -/
  | syncAcq (lane : Fin 32) (bitSlip : Fin 20)
  /-- SYNC_LOST (R138): An auxiliary lane loses synchronisation under Clause 36. -/
  | syncLost (lane : Fin 32)
  /-- RESYNC (R138): RESYNC forces a loss of synchronisation. -/
  | resync (ag : Agent) (lane : Fin 32) (d : Word)
  /-- ALN_CODE_GROUP_RECEIVE (R141): A received 10-bit group is decoded, counting code errors, disparity errors and misplaced commas. -/
  | alnCodeGroupReceive (lane : Fin 32) (slot : Fin 2) (atBoundary : Bool) (group : BitVec 10)
  /-- AN_DONE (R142): Clause 37 auto-negotiation completes on a timing port. -/
  | anDone (lane : Fin 32)
  /-- FORMAT_WRITE (R160): The one write of TBASE_CTRL.FORMAT fixes the format and starts the time base counting. -/
  | formatWrite (ag : Agent) (d : Word)
  /-- APPLY_INC (R165): APPLY_INC takes the staged increment at acceptance, or is rejected with INC_REJECT when out of range. -/
  | applyInc (ag : Agent) (d : Word)
  /-- STEP (R168): STEP takes its amount at acceptance, or is rejected when its result would be negative. -/
  | step (ag : Agent) (d : Word)
  /-- LOAD (R168): LOAD takes a new value at acceptance, or is rejected when NS is invalid. -/
  | load (ag : Agent) (d : Word)
  /-- SNAP (R170): SNAP is accepted for capture at least 8 TCLK later. -/
  | snap (ag : Agent) (d : Word)
  /-- SNAP_DONE (R170): The time base value is captured into TBASE_SNAP, and SNAP_DONE sets. -/
  | snapDone
  /-- CANCEL (R167): CANCEL withdraws the pending command if it is accepted at least one TCLK before the apply edge. -/
  | cancel (ag : Agent) (d : Word)
  /-- CLR_OUTAGE (R172): CLR_OUTAGE clears TBASE_LIVE.OUTAGE and CMD_LOST. -/
  | clrOutage (ag : Agent) (d : Word)
  /-- CMD_DONE (R166): At the apply edge the pending command takes effect: EPOCH, build-outs and output offsets are adjusted and TBASE_APPLIED is latched. -/
  | cmdDone
  /-- TXTS_RECORD_WRITE (R558): A transmit record is written to the FIFO after the frame's last word, or dropped when the FIFO is full. -/
  | txtsRecordWrite (id : Nat)
  /-- TXTS_POP (R195): POP removes the oldest transmit record. -/
  | txtsPop (ag : Agent) (d : Word)
  /-- OUTPUT_EDGE (R186): A pulse output reaches an instant that meets its period and phase, and drives its active edge for WIDTH. -/
  | outputEdge (k : Fin 5)
  /-- OUTPUT_ENABLE (R188): A rise of a pulse output's EN aligns it and schedules its first edge. -/
  | outputEnable (ag : Agent) (k : Fin 5) (d : Word)
  /-- OUTPUT_DISABLE (R189): A fall of EN lets the pulse in progress complete, then holds the output inactive. -/
  | outputDisable (ag : Agent) (k : Fin 5) (d : Word)
  /-- REALIGN (R188): REALIGN sets OFFSET to 0 and takes up the new PERIOD, PHASE and WIDTH. -/
  | realign (ag : Agent) (k : Fin 5) (d : Word)
  /-- OUT_PARAM_WRITE (R189): A write of PERIOD or WIDTH out of range is ignored and sets OUT_REJECT. -/
  | outParamWrite (ag : Agent) (k : Fin 5) (which : Fin 3) (d : Word)
  /-- MET_RESULT (R202): A cell conversion delivers its result to the source slot, and the running mean is updated. -/
  | metResult (cell : Fin 32) (code : Option (BitVec 12)) (coarse : Nat)
  /-- CHECK_WINDOW_END (R214): At the end of each 1 ms window, the pair means and pilots are compared, and pairs or cells are declared. -/
  | checkWindowEnd
  /-- MEAN_VALID_TIMEOUT (R218): A source slot has no valid result for 100 us, and MET_SRC_MEAN.VALID clears. -/
  | meanValidTimeout (slot : Fin 1024)
  /-- MET_COMMIT (R208): COMMIT copies and checks the shadow schedule, or refuses it with SCHED_REJECT. -/
  | metCommit (ag : Agent) (d : Word)
  /-- SCHED_COMMIT (R208): At a round boundary, a committed schedule or an external-channel EN change comes into use. -/
  | schedCommit
  /-- MET_SRC_CFG_WRITE (R220): A write to a source slot's configuration clears its running mean and check sums. -/
  | metSrcCfgWrite (ag : Agent) (slot : Fin 1024) (d : Word)
  /-- TABLE_LOAD (R222): A staged table is submitted and checked, or rejected with TABLE_REJECT. -/
  | tableLoad (ag : Agent) (d : Word)
  /-- TABLE_EXCHANGE (R222): An accepted table exchanges with the active table at the cell's next slot boundary. -/
  | tableExchange (cell : Fin 32)
  /-- CD_START (R223): A code-density run starts on a cell and clears its histogram. -/
  | cdStart (ag : Agent) (d : Word)
  /-- CD_DONE (R225): A cell's run reaches 2^22 hits, and its table is built and accepted or rejected. -/
  | cdDone (cell : Fin 32)
  /-- CELL_RETURN (R216): A write of MET_CELL_RETURN returns an out cell to service if its last run was accepted. -/
  | cellReturn (ag : Agent) (d : Word)
  /-- MET_EXT_EN_WRITE (R226): A write of MET_EXT_CTRL.EN claims or frees pair 15, or is refused with EXT_REJECT. -/
  | metExtEnWrite (ag : Agent) (d : Word)
  /-- EXT_REF_UP (R227): TMEAS_REF becomes present after 16 in-range periods. -/
  | extRefUp (periods : List Nat)
  /-- EXT_REF_DOWN (R227): TMEAS_REF becomes absent, and a measurement that uses it ends with REF_LOST. -/
  | extRefDown (since : Nat) (edge : Bool)
  /-- ARM (R228): ARM readies the external channel for one measurement, or is refused with EXT_REJECT. -/
  | arm (ag : Agent) (d : Word)
  /-- EXT_GATE_EDGE (R228): A TMEAS_GATE rise arms the channel in gate mode. -/
  | extGateEdge (rising : Bool)
  /-- EXT_START_EDGE (R228): The start cell takes the first TMEAS_START edge after arming, and the stop cell arms after it. -/
  | extStartEdge (onDie : Bool) (rising : Bool) (code : BitVec 12) (coarse : Nat)
  /-- EXT_STOP_EDGE (R229): The stop cell takes the first stop-source edge after it is armed, noting any early stop. -/
  | extStopEdge (src : StopSrc) (rising : Bool) (code : BitVec 12) (coarse : Nat)
  /-- EXT_DONE (R231): A result with start and stop records and the interval is pushed into the FIFO. -/
  | extDone
  /-- EXT_TIMEOUT (R230): The measurement timeout elapses before the stop, and the measurement ends with TIMEOUT. -/
  | extTimeout
  /-- ABANDON (R237): ABANDON ends the measurement in progress, and nothing is pushed. -/
  | abandon (ag : Agent) (d : Word)
  /-- MET_EXT_POP (R237): POP removes the oldest external result. -/
  | metExtPop (ag : Agent) (d : Word)
  /-- ASYM_UPDATE (R232): A write to COEF or MPD updates the asymmetry product, saturating with ASYM_SAT. -/
  | asymUpdate (ag : Agent) (slot : Fin 416) (mpd : Bool) (d : Word)
  /-- MPLL_LOCK (R243): A band search ends with the multiplying PLL locked, and BAND and VTUNE are recorded. -/
  | mpllLock (counts : List Nat) (vtune : BitVec 8)
  /-- MPLL_SEARCH_TIMEOUT (R244): A search has not locked by 20 us; the PLL searches again, or stops with MPLL_FAIL. -/
  | mpllSearchTimeout
  /-- MPLL_LOL (R246): A loss of lock is declared: TCLK moves to the keeper DCO, the lane reference to the backup, STATE 6, and a band search starts. -/
  | mpllLol
  /-- MPLL_RELOCK (R585): MPLL_RELOCK runs the relock sequence without a loss of lock and clears the stop. -/
  | mpllRelock (ag : Agent) (d : Word)
  /-- HANDBACK (R246): At lock plus GUARD, TCLK and the lane reference return to the MPLL, STATE leaves 6 or 7, and a relock trigger follows. -/
  | handback
  /-- XO_LOSS (R247): XO_IN is lost: the PLLs hold their tuning and STATE becomes 7. -/
  | xoLoss
  /-- XO_RETURN (R247): XO_IN is back after 1 ms of valid periods, and the keeper PLL relocks. -/
  | xoReturn
  /-- KEEPER_ALIGN_DONE (R247): The keeper finishes aligning its DCO to the held TCLK after XO_IN returns, and the relock sequence starts. -/
  | keeperAlignDone
  /-- REF_SAMPLE (R252): A reference delivers a phase sample; the jump test runs and, if it is selected, the loop filter and slope are updated. -/
  | refSample (i : Fin 23) (x : Int)
  /-- REF_PRESENCE_CHANGE (R256): A reference becomes present or absent, and its STATE changes. -/
  | refPresenceChange (i : Fin 23) (present : Bool)
  /-- REFIN_WINDOW_END (R256): A 10 us REFIN edge-count window ends and is judged. -/
  | refinWindowEnd (k : Fin 4) (edges : Nat)
  /-- REF_FREQ_WINDOW_END (R257): A 1 s frequency window of a reference ends and is checked against its tolerance. -/
  | refFreqWindowEnd (i : Fin 23) (freq : Int)
  /-- REF_QUALIFIED (R257): A reference's qualification timer expires, and it becomes QUALIFIED. -/
  | refQualified (i : Fin 23)
  /-- REF_CFG_WRITE (R257): A write of a reference's EN, SLOT or FREQ_HZ returns it to ABSENT with CAUSE 6, or is refused. -/
  | refCfgWrite (ag : Agent) (i : Fin 23) (which : Fin 2) (d : Word)
  /-- SELECTION_EVAL (R260): The selection is re-evaluated, on a change or once per second, and the loop state is moved. -/
  | selectionEval
  /-- LOCKED (R262): |e| stays within 1 ns for 1 s in ACQUIRE or SWITCHING, and the loop enters state 2. -/
  | locked
  /-- HO_HISTORY_APPEND (R265): Once per second in state 2, the mean y is appended to the holdover history. -/
  | hoHistoryAppend
  /-- HOLDOVER_TICK (R265): Each second in holdover, y is advanced by the drift estimate. -/
  | holdoverTick
  /-- DISPUTE_SLOPE (R268): In state 5, DISPUTE_SLOPE slews towards the disputed reference. -/
  | disputeSlope (ag : Agent) (d : Word)
  /-- DISPUTE_STEP (R268): In state 5, DISPUTE_STEP steps the time base, or the clock build-out, by e. -/
  | disputeStep (ag : Agent) (d : Word)
  /-- DISPUTE_REJECT (R268): In state 5, DISPUTE_REJECT locks out the disputed reference and returns the loop to holdover. -/
  | disputeReject (ag : Agent) (d : Word)
  /-- ADJ_GO (R269): ADJ_GO moves the local clock by LOOP_PHASE_ADJ at the slope limit. -/
  | adjGo (ag : Agent) (d : Word)
  /-- CLR_HISTORY (R278): CLR_HISTORY empties the holdover history. -/
  | clrHistory (ag : Agent) (d : Word)
  /-- DISQUALIFY (R279): DISQUALIFY moves a reference to LOCKED_OUT with CAUSE 4. -/
  | disqualify (ag : Agent) (i : Fin 23) (d : Word)
  /-- RESTORE (R279): RESTORE moves a reference from LOCKED_OUT to ABSENT. -/
  | restore (ag : Agent) (i : Fin 23) (d : Word)
  /-- CLKOUT_ENABLE (R273): A rise of a CLKOUT's EN turns its driver on, held low until its alignment instant. -/
  | clkoutEnable (ag : Agent) (k : Fin 4) (d : Word)
  /-- CLKOUT_DISABLE (R273): A fall of a CLKOUT's EN stops the output low, without runts. -/
  | clkoutDisable (ag : Agent) (k : Fin 4) (d : Word)
  /-- CLKOUT_REALIGN (R272): REALIGN holds the output low until the new alignment instant. -/
  | clkoutRealign (ag : Agent) (k : Fin 4) (d : Word)
  /-- CLKOUT_ALIGN_EDGE (R272): A CLKOUT's first rising edge falls at its alignment instant, taking up DIV and PHASE, or the setting is refused. -/
  | clkoutAlignEdge (k : Fin 4)
  /-- LOCK_A_UPDATE (R275): Every 100 us, the LOCK_A pulse density n is updated from the loop state. -/
  | lockAUpdate
  /-- LOCK_A_EN_WRITE (R275): A write of LOOP_LOCK_A.EN holds LOCK_A low, or lets it resume at the next update. -/
  | lockAEnWrite (ag : Agent) (d : Word)
  /-- SKY_EN_WRITE (R283): A rise of SKY_CTRL.EN starts the sample count; a fall stops every channel and clears TIME_VALID. -/
  | skyEnWrite (ag : Agent) (d : Word)
  /-- SKY_CLK_MEAS (R284): Every 1 ms, SKY_CLK is measured against TCLK; CLK_OK clears or returns. -/
  | skyClkMeas (hz : Nat)
  /-- CLK_FAULT (R284): No SKY_CLK edge arrives for 1 us; CLK_OK and TIME_VALID clear. -/
  | clkFault
  /-- SKY_EPOCH_STAMP (R285): A sample count reaches a multiple of SKY_EPOCH_SAMPLES, and an epoch record is stamped. -/
  | skyEpochStamp (count : BitVec 32)
  /-- AUX_EDGE (R286): A SKY_PPS_AUX rising edge is stamped. -/
  | auxEdge
  /-- SKY_CHANNEL_START (R289): A channel's EN rise samples its signal and sets its code phase, or rejects it with CFG_REJECT. -/
  | skyChannelStart (win : Fin 4) (ch : Fin 64) (d : Word) (count : BitVec 32)
  /-- SKY_CHANNEL_STOP (R306): A write of word 0 with EN 0 stops the channel and clears its navigation state. -/
  | skyChannelStop (win : Fin 4) (ch : Fin 64) (d : Word)
  /-- SKY_NCO_WRITE (R291): A write of CODE_INC, CARR_INC or the spacing is applied at the next accumulation boundary. -/
  | skyNcoWrite (win : Fin 4) (ch : Fin 64) (which : Fin 3) (d : Word)
  /-- SKY_DUMP (R290): At a dump boundary, the channel writes a dump record and clears its accumulators. -/
  | skyDump (ch : Fin 64) (count : BitVec 32) (samples : List (BitVec 8))
  /-- BIT_SYNC (R293): A channel finds bit or symbol sync. -/
  | bitSync (ch : Fin 64)
  /-- SKY_LNAV_WORD (R293): An LNAV word completes and is parity-checked and reported; frame sync is kept or lost. -/
  | skyLnavWord (ch : Fin 64)
  /-- SKY_INAV_PAGE (R294): An I/NAV even-odd page completes and is CRC-checked and reported. -/
  | skyInavPage (ch : Fin 64)
  /-- RING_TICK (R296): RING_TICK sets every TICK_MS of sample count. -/
  | ringTick (count : BitVec 32)
  /-- SKY_SNAP_GO (R292): GO starts a capture of one band into Hearth SRAM. -/
  | skySnapGo (ag : Agent) (d : Word)
  /-- SKY_SNAP_DONE (R292): A capture ends, recording its first sample count and setting SNAP_DONE. -/
  | skySnapDone (first : BitVec 32) (samples : List (BitVec 4))
  /-- SUBMIT (R298): SUBMIT copies and judges a fix, which passes, fails or is discarded, and may set TIME_VALID. -/
  | submit (ag : Agent) (d : Word)
  /-- SKY_FIX_TIMEOUT (R299): No passing fix arrives for SKY_FIX_TIMEOUT, and TIME_VALID clears. -/
  | skyFixTimeout
  /-- SKY_LOCK_SHORTFALL (R299): LOCKED_COUNT stays below MIN_SATS, or at 0, for 100 ms; TIME_VALID clears, or ALL_LOST sets. -/
  | skyLockShortfall
  /-- SKY_DELIVERY (R300): While TIME_VALID, at each 500,000 ns instant, the sky time is delivered to reference 20. -/
  | skyDelivery
  /-- PRF_TEMP_UPDATE (R310): Every 10 ms, PRF_TEMP.NOW is updated and the temperature trigger is tested. -/
  | prfTempUpdate (now : Int)
  /-- PRF_START (R309): PRF_CMD.START triggers a proofing run. -/
  | prfStart (ag : Agent) (d : Word)
  /-- PRF_INTERVAL (R309): MAX_INTERVAL_S elapses, and a proofing run is triggered. -/
  | prfInterval
  /-- RUN_START (R312): A pending run starts once no blocking condition holds; it chooses its mode and starts code-density runs. -/
  | runStart
  /-- PRF_ABORT (R320): ABORT abandons the run in progress. -/
  | prfAbort (ag : Agent) (d : Word)
  /-- CLR_PENDING (R311): CLR_PENDING withdraws the pending run. -/
  | clrPending (ag : Agent) (d : Word)
  /-- PORT_ENABLE (R327): A rise of PORT_CFG.EN checks the configuration and binds the lanes, or rejects it with CFG_REJECT. -/
  | portEnable (ag : Agent) (p : Fin 384) (d : Word)
  /-- MAC_FRAME_RECEIVE (R330): A frame is received whole by the MAC and filtered for runts, oversize, FCS and overflow. -/
  | macFrameReceive (src : Fin 416) (id : Nat) (bytes : List Byte) (overflow : Bool) (arr : Arrival)
  /-- PAUSE_RECEIVE (R335): A received PAUSE frame pauses queues 0 to 14. -/
  | pauseReceive (p : Fin 384) (bytes : List Byte)
  /-- PFC_RECEIVE (R336): A received PFC frame pauses or releases the mapped queues per priority. -/
  | pfcReceive (p : Fin 384) (bytes : List Byte)
  /-- PAUSE_EXPIRE (R336): A pause time runs out, and the queues are released. -/
  | pauseExpire (p : Fin 384) (pri : Fin 8)
  /-- PFC_REFRESH (R338): While XOFF holds, a PFC frame is refreshed every QUANTA / 2. -/
  | pfcRefresh (p : Fin 384) (pri : Fin 8)
  /-- LINK_UP (R342): All up conditions hold for UP_HOLD_US; the port comes up, admission is restored and profile B recovery starts. -/
  | linkUp (p : Fin 384)
  /-- LINK_DOWN (R343): The port goes down: admission falls, the frame in transmission aborts and the linger window starts. -/
  | linkDown (p : Fin 384) (cause : BitVec 4)
  /-- LANE_FAIL (R344): The lane timeout elapses with lanes unaligned, or deskew failed, and LANES_FAILED is written. -/
  | laneFail (p : Fin 384)
  /-- LINGER_EXPIRED (R348): The linger window expires, and every queue of the port is flushed. -/
  | lingerExpired (p : Fin 384)
  /-- RECOVERY_END (R350): The profile B recovery time ends, and the configured profile applies. -/
  | recoveryEnd (p : Fin 384)
  /-- PORT_DISABLE (R349): A fall of EN takes the port down at once and flushes its queues. -/
  | portDisable (ag : Agent) (p : Fin 384) (d : Word)
  /-- PIPELINE_LOOKUP (R360): A frame takes a pipeline slot and passes parser, classifier, L2, LPM, ECMP, ACL, queue choice and rewrite. -/
  | pipelineLookup (src : Fin 417) (id : Nat) (head : Option (List Byte × Arrival)) (slot : Fin 2)
  /-- INJ_DESCRIPTOR (R381): The device takes an injection descriptor from the Hearth ring and injects the frame, or drops it as bad. -/
  | injDescriptor
  /-- FWD_HINJ_DATA_WRITE (R382): A write of FWD_HINJ_DATA appends 4 bytes of a host-injected frame. -/
  | fwdHinjDataWrite (ag : Agent) (d : Word)
  /-- SEND (R382): SEND injects the host frame, or refuses it with INJ_BAD, and clears the data. -/
  | send (ag : Agent) (d : Word)
  /-- TRAP_WRITE (R383): A trapped or copied frame is written into the trap ring, or dropped when it is full. -/
  | trapWrite (id : Nat)
  /-- FWD_STAGE_WRITE (R385): A write to domain 0x06 gathers an entry's words and stages the entry, or drops it when the staging set is full. -/
  | fwdStageWrite (win : Fin 4) (waddr : BitVec 24) (d : Word)
  /-- COMMIT (R387): COMMIT starts a check of the staging set in every pipeline. -/
  | commit (ag : Agent) (d : Word)
  /-- COMMIT_CHECK_END (R389): The slowest pipeline check ends, and the commit is either scheduled or withdrawn with COMMIT_FAIL. -/
  | commitCheckEnd (ecc : List (Nat × Nat)) (devs : List Word)
  /-- COMMIT_CYCLE (R388): At the commit cycle, all pipelines make the staging set live. -/
  | commitCycle
  /-- COMMIT_DONE (R388): COMMIT_DONE sets 200 PCLK after the commit cycle. -/
  | commitDone
  /-- FWD_DISCARD (R389): DISCARD empties the staging set. -/
  | fwdDiscard (ag : Agent) (d : Word)
  /-- ADMISSION_DECISION (R407): A frame's forwarding result reaches the buffer; stream recovery, metering and admission are decided. -/
  | admissionDecision (id : Nat)
  /-- SLICE_WRITE (R409): A slice of an admitted frame is written, or the whole frame is dropped when the free list is empty. -/
  | sliceWrite (id : Nat) (slice : Fin 1048576) (bytes : List Byte)
  /-- QUARANTINE_END (R421): A port's quarantine time ends, and QUARANTINED clears. -/
  | quarantineEnd (p : Fin 384)
  /-- ALLOC_RECOMPUTE (R405): The allocation total is recomputed after a write that changes it, and OVERCOMMIT is updated. -/
  | allocRecompute
  /-- AUDIT_PASS (R424): An audit pass ends; unseen slices are marked suspect, or reported and reclaimed. -/
  | auditPass (xlinks : List (Nat × Nat))
  /-- RECLAIM_ALL (R425): RECLAIM_ALL pushes every leaked slice back onto the free list within one pass. -/
  | reclaimAll (ag : Agent) (d : Word)
  /-- SELECTION (R438): At a selection point, the scheduler selects a frame by profile A or B, charges the shapers and carries out insertion. -/
  | selection (p : Fin 416) (corrupt : Bool) (stamp : Stamp)
  /-- EGRESS_HANDOVER (R557): A selected frame's first word is handed to the egress MAC 539 PCLK after selection. -/
  | egressHandover (id : Nat)
  /-- FRAME_TRANSMIT_END (R419): A frame's last word, or the complemented FCS of a stomp, is handed to the MAC, and the frame is counted. -/
  | frameTransmitEnd (id : Nat) (corrupt : Bool)
  /-- SHAPER_REFRESH (R445): Every 64 PCLK, each enabled shaper's LEVEL is refilled. -/
  | shaperRefresh
  /-- FORGIVE (R448): A forgive sets a shaper's negative LEVEL to 0 at its next refresh. -/
  | forgive (ag : Agent) (d : Word)
  /-- POLICER_REFRESH (R451): Every 64 PCLK, the policer buckets are refilled. -/
  | policerRefresh
  /-- POL_CFG_WRITE (R453): A write of POL_CFG applies the staged policer values at the next refresh, or is refused. -/
  | polCfgWrite (ag : Agent) (i : Fin 4096) (d : Word)
  /-- WALK_START (R455): At a period boundary a sampling walk starts, or is skipped as an overrun. -/
  | walkStart
  /-- SAMPLE_QUEUE_RECORD (R456): Every 64 PCLK of a walk, one queue record is written to the sampling ring. -/
  | sampleQueueRecord
  /-- EVT_COUNTER_RELOAD (R465): An event counter that has wrapped with RELOAD is reloaded in the next cycle. -/
  | evtCounterReload (k : Fin 64)
  /-- SLOT_EN_WRITE (R470): A write of TLM_SLOT_CMD.EN starts or stops slot accounting in all pipelines. -/
  | slotEnWrite (ag : Agent) (d : Word)
  /-- SLOT_SNAP (R470): SNAP copies the live slot counters and the time base. -/
  | slotSnap (ag : Agent) (d : Word)
  /-- SLOT_CLEAR (R470): CLEAR sets the live slot counters to 0. -/
  | slotClear (ag : Agent) (d : Word)
  /-- DUMP (R479): At each period a counter dump is DMAed to the host ring, or skipped. -/
  | dump
  /-- TAG_RECORD_COPY (R481): A closed tag record is copied to the host tag ring, or dropped when it is full. -/
  | tagRecordCopy (r : Nat)
  /-- DMA_RESUME (R478): Bus Master Enable is set, and the blocked DMA engine resumes its work. -/
  | dmaResume (fn : Fin 2)
  /-- HELLO_SEND (R489): Every 1 ms, each Plahus link sends a HELLO. -/
  | helloSend (k : Fin 3)
  /-- SYNC_SEND (R489): At each 100,000 ns instant, a SYNC is sent with T_TX inserted on the fly. -/
  | syncSend (k : Fin 3) (j : Nat)
  /-- HELLO_RECEIVE (R490): A HELLO is received and checked, updating peer role, stack position and conflicts. -/
  | helloReceive (k : Fin 3) (bytes : List Byte) (codeErr : Bool)
  /-- SYNC_RECEIVE (R493): A SYNC is received and stamped; a completed exchange gives D and O, delivered to reference 21 or 22. -/
  | syncReceive (k : Fin 3) (bytes : List Byte) (codeErr : Bool) (j : Nat) (ago : Nat)
  /-- STATE_RECEIVE (R505): A STATE frame is stored in the received image, and IMAGE_AGE is reset. -/
  | stateReceive (k : Fin 3) (bytes : List Byte) (codeErr : Bool)
  /-- PREPARE (R515): A received PREPARE checks the entry conditions, stages a local STEP and forwards PREPARE, or answers REFUSE. -/
  | prepare (k : Fin 3) (bytes : List Byte) (codeErr : Bool)
  /-- READY (R515): A received READY is collected and passed up, or at the initiator leads to COMMIT or ABORT. -/
  | ready (k : Fin 3) (bytes : List Byte) (codeErr : Bool)
  /-- REFUSE (R515): A received REFUSE is passed up at once. -/
  | refuse (k : Fin 3) (bytes : List Byte) (codeErr : Bool)
  /-- XSTEP_COMMIT (R515): A received COMMIT is forwarded and keeps the staged STEP. -/
  | xstepCommit (k : Fin 3) (bytes : List Byte) (codeErr : Bool)
  /-- XSTEP_ABORT (R515): A received ABORT is forwarded and cancels the staged STEP. -/
  | xstepAbort (k : Fin 3) (bytes : List Byte) (codeErr : Bool)
  /-- LINK_SILENT (R491): No valid frame has arrived for LINK_TIMEOUT_US, and the link goes silent. -/
  | linkSilent (k : Fin 3)
  /-- LINK_CHECK_LOSS (R491): No valid HELLO for 3 ms or no SYNC sample for 300 us, and the link stops passing its checks. -/
  | linkCheckLoss (k : Fin 3) (hello : Bool) (sync : Bool)
  /-- INTERLOCK_PERIOD (R497): A LEAD_IN_N period is classified, and the peer pattern and roles are updated. -/
  | interlockPeriod (period : Nat) (low : Nat)
  /-- HB_LOST (R497): No valid period for 64 OCLK, and the heartbeat is lost. -/
  | hbLost
  /-- TWIN_OBSERVE_DONE (R501): After 64 OCLK of observation following EN, SOLO becomes SHADOW. -/
  | twinObserveDone
  /-- SPLIT_HOLDOFF_EXPIRE (R501): Both paths stay silent for SPLIT_HOLDOFF_MS, and CLAIMING becomes SPLIT_LEAD. -/
  | splitHoldoffExpire
  /-- YIELD (R498): YIELD sets YIELDING, and a part in LEAD yields. -/
  | yield (ag : Agent) (d : Word)
  /-- RESUME (R498): RESUME clears YIELDING. -/
  | resume (ag : Agent) (d : Word)
  /-- IMAGE_LOAD (R508): IMAGE_LOAD seeds the holdover estimate from the load image, or is rejected. -/
  | imageLoad (ag : Agent) (d : Word)
  /-- TWIN_CYCLE_END (R505): At each 1 ms instant, a lead captures its image and sends a STATE frame. -/
  | twinCycleEnd
  /-- TWIN_XCHK_WINDOW (R509): A 100 ms shadow cross-check window ends and is judged. -/
  | twinXchkWindow
  /-- XSTEP_GO (R515): GO starts a two-phase step: it checks conditions, stages the local STEP and sends PREPARE. -/
  | xstepGo (ag : Agent) (d : Word)
  /-- XSTEP_ABORT_CMD (R520): The initiator's ABORT command sends ABORT before COMMIT. -/
  | xstepAbortCmd (ag : Agent) (d : Word)
  /-- XSTEP_ORPHAN (R515): Neither COMMIT nor ABORT has arrived 10 us before ARM, and the STEP is cancelled. -/
  | xstepOrphan
  /-- SID_RESET_CHECK (R511): Every ms, a stream with no frame passed for RESET_MS sets take_any. -/
  | sidResetCheck
  /-- ENUM_FRAME_SEND (R526): Every 100 us, a part with an address sends an enumeration frame carrying u + 1. -/
  | enumFrameSend
  /-- ENUM_FRAME_RECEIVE (R528): An accepted enumeration frame updates HEARD and may give the part its address or set ENUM_MISMATCH. -/
  | enumFrameReceive (startNs : Nat) (pulses : List (Nat × Nat))
  /-- ENUM_TIMEOUT (R528): No address 10 ms after OCLK starts, and ENUM_TIMEOUT sets. -/
  | enumTimeout
  /-- REENUM (R529): REENUM clears the address and stops the part's frames. -/
  | reenum (ag : Agent) (d : Word)
  /-- HRTH_LOAD_DATA_WRITE (R532): A write of HRTH_LOAD_DATA stores an image word and advances the address, or is denied. -/
  | hrthLoadDataWrite (ag : Agent) (d : Word)
  /-- GO (R531): HRTH_BOOT_CMD.GO starts verification of the image. -/
  | go (ag : Agent) (d : Word)
  /-- BOOT_VERIFY_DONE (R531): Verification ends; the cores run, or BOOT_FAIL is set with a CODE. -/
  | bootVerifyDone
  /-- RESTART (R534): RESTART halts the cores, clears Hearth SRAM, resets the MBOX pages and returns STATE to waiting. -/
  | restart (ag : Agent) (d : Word)
  /-- FUSE_CMD_GO (R536): A fuse command revokes slots or advances SECVER, or is refused. -/
  | fuseCmdGo (ag : Agent) (d : Word)
  /-- MGMT_BUS_TRANSACTION (R533): An I2C transaction addressed by UNIT reads or writes one of the boot registers. -/
  | mgmtBusTransaction (bytes : List Byte) (read : Bool)
  /-- SCRUB_READ (R546): The scrubber reads a word of a protected SRAM in its reserved cycle and corrects or reports errors. -/
  | scrubRead (mem : Nat) (addr : Nat) (err : EccErr) (who : EccBy)
  /-- REG_PARITY (R549): A register parity error is found; the field is restored from its copy or kept faulty, and the error is reported. -/
  | regParity (addr : BitVec 26) (bit : Fin 32)
  /-- TBASE_PARITY (R550): A parity error in the time-base flops is detected and counted in class 4. -/
  | tbaseParity (flops : TbFlops)
  /-- WDOG_KICK (R551): A core kicks its watchdog bit. -/
  | wdogKick (ag : Agent) (d : Word)
  /-- WDOG_EXPIRE (R551): A core has not kicked for TIMEOUT_MS; it is halted and reported as hung. -/
  | wdogExpire (core : Fin 4)
  /-- TAP_RESET (R564): TRST_N or Test-Logic-Reset resets the TAP and makes IDCODE current. -/
  | tapReset
  /-- TAP_INSTRUCTION_UPDATE (R566): A new instruction becomes current at Update-IR, possibly taking the pins for board test. -/
  | tapInstructionUpdate (clocks : List TapClock)
  /-- TST_ACCESS (R571): At Update-DR with GO, a test-port window register read or write is issued. -/
  | tstAccess (dr : BitVec 36)
  /-- FUSE_PROG (R572): At Update-DR with GO, a key hash is blown into a slot, or the command is refused. -/
  | fuseProg (dr : BitVec 390)
  /-- FUSE_DONE (R576): A FUSE_PROG command completes. -/
  | fuseDone
  /-- PCS_LOCK (R342): The PCS deskews the port's lanes and gains marker and FEC lock, or the RS stops seeing a fault, so PORT_LIVE.PCS_LOCK, FEC_LOCK or the fault bits change and the up hold-off starts. -/
  | pcsLock (p : Fin 384) (pcs : Bool) (fec : Bool) (localFault : Bool) (remoteFault : Bool)
  /-- OUTPUT_PULSE_END (R186): A pulse output's WIDTH elapses after its active edge, and the output returns to its inactive level. -/
  | outputPulseEnd (k : Fin 5)
  /-- MSIX_MASK (R95): A vector or a function is masked, or MSI-X Enable or Bus Master Enable is cleared, so that later assertions set PBA bits or send nothing. -/
  | msixMask (fn : Fin 2) (what : MsixWhat)
deriving DecidableEq, Repr

end Sys2Proof
end

