-- ==== Sys2Proof/Decode.lean ====
section
/-!
DEFINITION. Sys2Proof/Decode.lean: commands spelled by words. No row of the table of operations gives its command bits
(spec/opcode_table.json: "fields" is empty in every row): commands reach the part as register accesses and as events, never as encoded
words, so no word spells one (log 41).
-/
namespace Sys2Proof

/-- The command that a word spells by the table's bits: none. -/
def decodeTableWord (_nbits _w : Nat) : Option Instr := none

end Sys2Proof
end

