-- ==== Sys2Proof/Machine/Regs.lean ====
section
/-!
DEFINITION. Sys2Proof/Machine/Regs.lean: the addresses of the direct registers, as word addresses in BAR0 (BAR0 offset ÷ 4,
R55), under the names of the chapters, and their fields. An array register is a function of its index.
-/
namespace Sys2Proof.Machine

/-- A field of a register: word address, lowest bit, width. -/
structure Fld where
  addr : Nat
  lo : Nat
  w : Nat
deriving DecidableEq, Repr

def Reg.CHIP_INT_STATUS : Nat := 0x4
def Reg.CHIP_ID : Nat := 0x10
def Reg.CHIP_MFR : Nat := 0x11
def Reg.CHIP_UNIT : Nat := 0x12
def Reg.CHIP_STRAPS : Nat := 0x13
def Reg.CHIP_ENUM_CMD : Nat := 0x14
def Reg.PWR_INT_STATUS : Nat := 0x4004
def Reg.PWR_VIN : Nat := 0x4010
def Reg.PWR_IIN : Nat := 0x4011
def Reg.PWR_PIN : Nat := 0x4012
def Reg.PWR_LIVE : Nat := 0x4013
def Reg.PWR_WARN_LEVEL : Nat := 0x4014
def Reg.PWR_TEMP : Nat := 0x4015
def Reg.PWR_TEMP_WARN : Nat := 0x4016
def Reg.PWR_HOLDUP : Nat := 0x4017
def Reg.PWR_RAIL_V (i : Nat) : Nat := 0x4410 + 1 * i
def Reg.IND_ADDR (i : Nat) : Nat := 0x420 + 4 * i
def Reg.IND_DATA (i : Nat) : Nat := 0x421 + 4 * i
def Reg.IND_CTRL (i : Nat) : Nat := 0x422 + 4 * i
def Reg.IND_STATUS (i : Nat) : Nat := 0x423 + 4 * i
def Reg.HOST_INT_STATUS : Nat := 0x404
def Reg.HOST_PF1_WRITE_EN : Nat := 0x410
def Reg.HOST_ERR_ADDR : Nat := 0x411
def Reg.IRQ_BLOCK_STATUS : Nat := 0x810
def Reg.IRQ_ROUTE (i : Nat) : Nat := 0x820 + 1 * i
def Reg.IRQ_MBOX_ROUTE (i : Nat) : Nat := 0x840 + 1 * i
def Reg.IRQ_EOI : Nat := 0x850
def Reg.IRQ_PAGE_PEND (i : Nat) : Nat := 0xc10 + 1 * i
def Reg.MBOX_INT_STATUS (i : Nat) : Nat := 0x1004 + 1024 * i
def Reg.MBOX_Q_WR (i : Nat) : Nat := 0x1010 + 1024 * (i / 4) + 16 * (i % 4)
def Reg.MBOX_Q_RD (i : Nat) : Nat := 0x1011 + 1024 * (i / 4) + 16 * (i % 4)
def Reg.MBOX_Q_CMD (i : Nat) : Nat := 0x1012 + 1024 * (i / 4) + 16 * (i % 4)
def Reg.MBOX_Q_STATE (i : Nat) : Nat := 0x1013 + 1024 * (i / 4) + 16 * (i % 4)
def Reg.MBOX_Q_MASK (i : Nat) : Nat := 0x1014 + 1024 * (i / 4) + 16 * (i % 4)
def Reg.DLN_INT_STATUS (i : Nat) : Nat := 0x40004 + 1024 * i
def Reg.DLN_QUAD_STATUS (i : Nat) : Nat := 0x40010 + 1024 * i
def Reg.DLN_ADAPT_ENTROPY_MIN (i : Nat) : Nat := 0x40011 + 1024 * i
def Reg.DLN_LANE_CTRL (i : Nat) : Nat := 0x40040 + 1024 * (i / 4) + 32 * (i % 4)
def Reg.DLN_LANE_STATUS (i : Nat) : Nat := 0x40041 + 1024 * (i / 4) + 32 * (i % 4)
def Reg.DLN_DENSITY (i : Nat) : Nat := 0x40042 + 1024 * (i / 4) + 32 * (i % 4)
def Reg.DLN_PRBS_CTRL (i : Nat) : Nat := 0x40043 + 1024 * (i / 4) + 32 * (i % 4)
def Reg.DLN_ERR_INJ (i : Nat) : Nat := 0x40044 + 1024 * (i / 4) + 32 * (i % 4)
def Reg.DLN_PRBS_ERR_LO (i : Nat) : Nat := 0x40046 + 1024 * (i / 4) + 32 * (i % 4)
def Reg.DLN_PRBS_ERR_HI (i : Nat) : Nat := 0x40047 + 1024 * (i / 4) + 32 * (i % 4)
def Reg.DLN_PRBS_BITS_LO (i : Nat) : Nat := 0x40048 + 1024 * (i / 4) + 32 * (i % 4)
def Reg.DLN_PRBS_BITS_HI (i : Nat) : Nat := 0x40049 + 1024 * (i / 4) + 32 * (i % 4)
def Reg.DLN_FE_SLIP (i : Nat) : Nat := 0x4004a + 1024 * (i / 4) + 32 * (i % 4)
def Reg.ALN_INT_STATUS (i : Nat) : Nat := 0x70004 + 1024 * i
def Reg.ALN_CTRL (i : Nat) : Nat := 0x70010 + 1024 * i
def Reg.ALN_LANE_STATUS (i : Nat) : Nat := 0x70011 + 1024 * i
def Reg.ALN_PRBS_CTRL (i : Nat) : Nat := 0x70012 + 1024 * i
def Reg.ALN_ERR_INJ (i : Nat) : Nat := 0x70013 + 1024 * i
def Reg.ALN_CODE_ERR_LO (i : Nat) : Nat := 0x70014 + 1024 * i
def Reg.ALN_CODE_ERR_HI (i : Nat) : Nat := 0x70015 + 1024 * i
def Reg.ALN_DISP_ERR_LO (i : Nat) : Nat := 0x70016 + 1024 * i
def Reg.ALN_DISP_ERR_HI (i : Nat) : Nat := 0x70017 + 1024 * i
def Reg.ALN_PRBS_ERR_LO (i : Nat) : Nat := 0x70018 + 1024 * i
def Reg.ALN_PRBS_ERR_HI (i : Nat) : Nat := 0x70019 + 1024 * i
def Reg.ALN_PRBS_BITS_LO (i : Nat) : Nat := 0x7001a + 1024 * i
def Reg.ALN_PRBS_BITS_HI (i : Nat) : Nat := 0x7001b + 1024 * i
def Reg.ALN_COMMA_MISPLACED (i : Nat) : Nat := 0x7001c + 1024 * i
def Reg.TBASE_CTRL : Nat := 0x180002
def Reg.TBASE_INT_STATUS : Nat := 0x180004
def Reg.TBASE_LIVE : Nat := 0x180010
def Reg.TBASE_INC_LO : Nat := 0x180011
def Reg.TBASE_INC_HI : Nat := 0x180012
def Reg.TBASE_INC_CUR_LO : Nat := 0x180013
def Reg.TBASE_INC_CUR_HI : Nat := 0x180014
def Reg.TBASE_STEP_LO : Nat := 0x180015
def Reg.TBASE_STEP_HI : Nat := 0x180016
def Reg.TBASE_STEP_SUB : Nat := 0x180017
def Reg.TBASE_LOAD0 : Nat := 0x180018
def Reg.TBASE_LOAD1 : Nat := 0x180019
def Reg.TBASE_LOAD2 : Nat := 0x18001a
def Reg.TBASE_LOAD3 : Nat := 0x18001b
def Reg.TBASE_ARM0 : Nat := 0x18001c
def Reg.TBASE_ARM1 : Nat := 0x18001d
def Reg.TBASE_ARM2 : Nat := 0x18001e
def Reg.TBASE_ARM3 : Nat := 0x18001f
def Reg.TBASE_CMD : Nat := 0x180020
def Reg.TBASE_SNAP_REC (i : Nat) : Nat := 0x180024 + 1 * i
def Reg.TBASE_APPLIED_REC (i : Nat) : Nat := 0x180028 + 1 * i
def Reg.TBASE_TXTS_STATUS : Nat := 0x18002c
def Reg.TBASE_TXTS_REC (i : Nat) : Nat := 0x18002d + 1 * i
def Reg.TBASE_TXTS4 : Nat := 0x180031
def Reg.TBASE_TXTS_POP : Nat := 0x180032
def Reg.TBASE_TXTS_OVF : Nat := 0x180033
def Reg.TBASE_OUT_CTRL (i : Nat) : Nat := 0x180040 + 8 * i
def Reg.TBASE_OUT_PERIOD (i : Nat) : Nat := 0x180041 + 8 * i
def Reg.TBASE_OUT_PHASE (i : Nat) : Nat := 0x180042 + 8 * i
def Reg.TBASE_OUT_WIDTH (i : Nat) : Nat := 0x180043 + 8 * i
def Reg.TBASE_OUT_DELAY (i : Nat) : Nat := 0x180044 + 8 * i
def Reg.TBASE_OUT_OFFSET_LO (i : Nat) : Nat := 0x180045 + 8 * i
def Reg.TBASE_OUT_OFFSET_HI (i : Nat) : Nat := 0x180046 + 8 * i
def Reg.TBASE_OUT_CMD (i : Nat) : Nat := 0x180047 + 8 * i
def Reg.TBASE_PORT_TS_CTRL (i : Nat) : Nat := 0x180810 + 1024 * (i / 128) + 4 * (i % 128)
def Reg.TBASE_PORT_RXFIX (i : Nat) : Nat := 0x180811 + 1024 * (i / 128) + 4 * (i % 128)
def Reg.TBASE_PORT_TXFIX (i : Nat) : Nat := 0x180812 + 1024 * (i / 128) + 4 * (i % 128)
def Reg.MET_INT_STATUS : Nat := 0x184004
def Reg.MET_BANK_CTRL : Nat := 0x184010
def Reg.MET_BANK_STATUS : Nat := 0x184011
def Reg.MET_TCNT : Nat := 0x184012
def Reg.MET_XCHK_CTRL : Nat := 0x184013
def Reg.MET_XCHK_STATUS : Nat := 0x184014
def Reg.MET_CELL_OUT : Nat := 0x184015
def Reg.MET_CELL_PROOF : Nat := 0x184016
def Reg.MET_CELL_RETURN : Nat := 0x184017
def Reg.MET_CD_START : Nat := 0x184018
def Reg.MET_CD_BUSY : Nat := 0x184019
def Reg.MET_CD_SPAN : Nat := 0x18401a
def Reg.MET_CD_MAXSHIFT : Nat := 0x18401b
def Reg.MET_TABLE_LOAD : Nat := 0x18401c
def Reg.MET_EXT_CTRL : Nat := 0x184020
def Reg.MET_EXT_REF : Nat := 0x184021
def Reg.MET_EXT_TIMEOUT : Nat := 0x184022
def Reg.MET_EXT_STATUS : Nat := 0x184023
def Reg.MET_EXT_CMD : Nat := 0x184024
def Reg.MET_EXT_RES (i : Nat) : Nat := 0x184028 + 1 * i
def Reg.MET_CELL_STATUS (i : Nat) : Nat := 0x184410 + 8 * i
def Reg.MET_CELL_FLOOR (i : Nat) : Nat := 0x184411 + 8 * i
def Reg.MET_CELL_RESULTS_LO (i : Nat) : Nat := 0x184412 + 8 * i
def Reg.MET_CELL_RESULTS_HI (i : Nat) : Nat := 0x184413 + 8 * i
def Reg.MET_CELL_INVALID (i : Nat) : Nat := 0x184414 + 8 * i
def Reg.MET_CELL_PILOT (i : Nat) : Nat := 0x184415 + 8 * i
def Reg.MET_CELL_CD (i : Nat) : Nat := 0x184416 + 8 * i
def Reg.MET_SRC_CFG (i : Nat) : Nat := 0x184810 + 1024 * (i / 128) + 4 * (i % 128)
def Reg.MET_SRC_LAST (i : Nat) : Nat := 0x184811 + 1024 * (i / 128) + 4 * (i % 128)
def Reg.MET_SRC_COARSE (i : Nat) : Nat := 0x184812 + 1024 * (i / 128) + 4 * (i % 128)
def Reg.MET_SRC_MEAN (i : Nat) : Nat := 0x184813 + 1024 * (i / 128) + 4 * (i % 128)
def Reg.MET_SCHED (i : Nat) : Nat := 0x186810 + 1 * i
def Reg.MET_PORT_ASYM_COEF (i : Nat) : Nat := 0x187010 + 1024 * (i / 128) + 4 * (i % 128)
def Reg.MET_PORT_MPD (i : Nat) : Nat := 0x187011 + 1024 * (i / 128) + 4 * (i % 128)
def Reg.MET_PORT_ASYM (i : Nat) : Nat := 0x187012 + 1024 * (i / 128) + 4 * (i % 128)
def Reg.LOOP_INT_STATUS : Nat := 0x198004
def Reg.LOOP_CTRL : Nat := 0x198010
def Reg.LOOP_STATUS : Nat := 0x198011
def Reg.LOOP_BW : Nat := 0x198012
def Reg.LOOP_SLOPE : Nat := 0x198013
def Reg.LOOP_PHASE_ACCEPT : Nat := 0x198014
def Reg.LOOP_FREQ_DISAGREE : Nat := 0x198015
def Reg.LOOP_FREQ_LIMIT : Nat := 0x198016
def Reg.LOOP_JUMP_LIMIT : Nat := 0x198017
def Reg.LOOP_FREQ_LO : Nat := 0x198018
def Reg.LOOP_FREQ_HI : Nat := 0x198019
def Reg.LOOP_HO_CTRL : Nat := 0x19801a
def Reg.LOOP_HO_FREQ_LO : Nat := 0x19801b
def Reg.LOOP_HO_FREQ_HI : Nat := 0x19801c
def Reg.LOOP_HO_DRIFT : Nat := 0x19801d
def Reg.LOOP_HO_TIME : Nat := 0x19801e
def Reg.LOOP_PHASE_ADJ : Nat := 0x19801f
def Reg.LOOP_CMD : Nat := 0x198020
def Reg.LOOP_MPLL_CTRL : Nat := 0x198021
def Reg.LOOP_MPLL_STATUS : Nat := 0x198022
def Reg.LOOP_LOL_COUNT : Nat := 0x198023
def Reg.LOOP_LOCK_A : Nat := 0x198024
def Reg.LOOP_BT_LO : Nat := 0x198025
def Reg.LOOP_BT_HI : Nat := 0x198026
def Reg.LOOP_BT_SUB : Nat := 0x198027
def Reg.LOOP_BC : Nat := 0x198028
def Reg.LOOP_REF_INT_STATUS : Nat := 0x198404
def Reg.LOOP_REF_CFG (i : Nat) : Nat := 0x198410 + 16 * i
def Reg.LOOP_REF_FREQ_HZ (i : Nat) : Nat := 0x198411 + 16 * i
def Reg.LOOP_REF_DELAY (i : Nat) : Nat := 0x198412 + 16 * i
def Reg.LOOP_REF_TOL (i : Nat) : Nat := 0x198413 + 16 * i
def Reg.LOOP_REF_STATUS (i : Nat) : Nat := 0x198414 + 16 * i
def Reg.LOOP_REF_PHASE (i : Nat) : Nat := 0x198415 + 16 * i
def Reg.LOOP_REF_FREQ (i : Nat) : Nat := 0x198416 + 16 * i
def Reg.LOOP_REF_JUMP (i : Nat) : Nat := 0x198417 + 16 * i
def Reg.LOOP_REF_ENTRY_PHASE (i : Nat) : Nat := 0x198418 + 16 * i
def Reg.LOOP_REF_CMD (i : Nat) : Nat := 0x198419 + 16 * i
def Reg.LOOP_CLKOUT_CTRL (i : Nat) : Nat := 0x198810 + 4 * i
def Reg.LOOP_CLKOUT_DIV (i : Nat) : Nat := 0x198811 + 4 * i
def Reg.LOOP_CLKOUT_PHASE (i : Nat) : Nat := 0x198812 + 4 * i
def Reg.SKY_CTRL : Nat := 0x1a0002
def Reg.SKY_INT_STATUS : Nat := 0x1a0004
def Reg.SKY_LIVE : Nat := 0x1a0010
def Reg.SKY_CLK_HZ : Nat := 0x1a0011
def Reg.SKY_CLK_MEAS : Nat := 0x1a0012
def Reg.SKY_SAMPLE_COUNT : Nat := 0x1a0013
def Reg.SKY_EPOCH_SAMPLES : Nat := 0x1a0014
def Reg.SKY_RING_BASE : Nat := 0x1a0015
def Reg.SKY_RING_LEN : Nat := 0x1a0016
def Reg.SKY_RING_WR : Nat := 0x1a0017
def Reg.SKY_RING_RD : Nat := 0x1a0018
def Reg.SKY_RING_IRQ : Nat := 0x1a0019
def Reg.SKY_RING_DROP : Nat := 0x1a001a
def Reg.SKY_FIX_FAIL : Nat := 0x1a001b
def Reg.SKY_SNAP_CTRL : Nat := 0x1a001c
def Reg.SKY_SNAP_BASE : Nat := 0x1a001d
def Reg.SKY_SNAP_START : Nat := 0x1a001e
def Reg.SKY_CHECK : Nat := 0x1a0020
def Reg.SKY_CLK_LIMIT : Nat := 0x1a0021
def Reg.SKY_TUNC_MAX : Nat := 0x1a0022
def Reg.SKY_FIX_TIMEOUT : Nat := 0x1a0023
def Reg.SKY_REQUAL : Nat := 0x1a0024
def Reg.SKY_FIX_T (i : Nat) : Nat := 0x1a0028 + 1 * i
def Reg.SKY_FIX_OFFSET_LO : Nat := 0x1a002c
def Reg.SKY_FIX_OFFSET_HI : Nat := 0x1a002d
def Reg.SKY_FIX_RATE : Nat := 0x1a002e
def Reg.SKY_FIX_INFO : Nat := 0x1a002f
def Reg.SKY_FIX_CMD : Nat := 0x1a0030
def Reg.SKY_FIX_STATUS : Nat := 0x1a0031
def Reg.SKY_TIME (i : Nat) : Nat := 0x1a0034 + 1 * i
def Reg.SKY_AUX_STAMP (i : Nat) : Nat := 0x1a0038 + 1 * i
def Reg.PRF_CTRL : Nat := 0x1a8002
def Reg.PRF_INT_STATUS : Nat := 0x1a8004
def Reg.PRF_TRIG : Nat := 0x1a8010
def Reg.PRF_CMD : Nat := 0x1a8011
def Reg.PRF_LIVE : Nat := 0x1a8012
def Reg.PRF_TEMP : Nat := 0x1a8013
def Reg.PRF_DONE_MASK : Nat := 0x1a8014
def Reg.PRF_REJECT_MASK : Nat := 0x1a8015
def Reg.PRF_SKIP_MASK : Nat := 0x1a8016
def Reg.PRF_LAST_MS : Nat := 0x1a8017
def Reg.PRF_RUN_COUNT : Nat := 0x1a8018
def Reg.PRF_ABANDON_COUNT : Nat := 0x1a8019
def Reg.PRF_LAST_DONE (i : Nat) : Nat := 0x1a801c + 1 * i
def Reg.ALN_RX_FRAMES (i : Nat) : Nat := 0x70020 + 1024 * i
def Reg.ALN_RX_RUNT (i : Nat) : Nat := 0x70021 + 1024 * i
def Reg.ALN_RX_FCS_ERR (i : Nat) : Nat := 0x70022 + 1024 * i
def Reg.ALN_RX_OVERSIZE (i : Nat) : Nat := 0x70023 + 1024 * i
def Reg.ALN_TX_FRAMES (i : Nat) : Nat := 0x70024 + 1024 * i
def Reg.ALN_TX_DOWN_DROP (i : Nat) : Nat := 0x70025 + 1024 * i
def Reg.PORT_INT_STATUS (i : Nat) : Nat := 0x80004 + 1024 * i
def Reg.PORT_CFG (i : Nat) : Nat := 0x80010 + 1024 * i
def Reg.PORT_LIVE (i : Nat) : Nat := 0x80011 + 1024 * i
def Reg.PORT_MAX_FRAME (i : Nat) : Nat := 0x80012 + 1024 * i
def Reg.PORT_TIMERS (i : Nat) : Nat := 0x80013 + 1024 * i
def Reg.PORT_LINGER (i : Nat) : Nat := 0x80014 + 1024 * i
def Reg.PORT_RECOVERY (i : Nat) : Nat := 0x80015 + 1024 * i
def Reg.PORT_PFC_MAP (i : Nat) : Nat := 0x80018 + 1024 * (i / 8) + 1 * (i % 8)
def Reg.PORT_PFC_TX (i : Nat) : Nat := 0x80020 + 1024 * i
def Reg.PORT_RX_FRAMES_LO (i : Nat) : Nat := 0x80040 + 1024 * i
def Reg.PORT_RX_FRAMES_HI (i : Nat) : Nat := 0x80041 + 1024 * i
def Reg.PORT_RX_BYTES_LO (i : Nat) : Nat := 0x80042 + 1024 * i
def Reg.PORT_RX_BYTES_HI (i : Nat) : Nat := 0x80043 + 1024 * i
def Reg.PORT_RX_RUNT_LO (i : Nat) : Nat := 0x80044 + 1024 * i
def Reg.PORT_RX_RUNT_HI (i : Nat) : Nat := 0x80045 + 1024 * i
def Reg.PORT_RX_FCS_ERR_LO (i : Nat) : Nat := 0x80046 + 1024 * i
def Reg.PORT_RX_FCS_ERR_HI (i : Nat) : Nat := 0x80047 + 1024 * i
def Reg.PORT_RX_OVERSIZE_LO (i : Nat) : Nat := 0x80048 + 1024 * i
def Reg.PORT_RX_OVERSIZE_HI (i : Nat) : Nat := 0x80049 + 1024 * i
def Reg.PORT_RX_OVERFLOW_DROP_LO (i : Nat) : Nat := 0x8004a + 1024 * i
def Reg.PORT_RX_OVERFLOW_DROP_HI (i : Nat) : Nat := 0x8004b + 1024 * i
def Reg.PORT_RX_MAC_CTRL_LO (i : Nat) : Nat := 0x8004c + 1024 * i
def Reg.PORT_RX_MAC_CTRL_HI (i : Nat) : Nat := 0x8004d + 1024 * i
def Reg.PORT_TX_FRAMES_LO (i : Nat) : Nat := 0x8004e + 1024 * i
def Reg.PORT_TX_FRAMES_HI (i : Nat) : Nat := 0x8004f + 1024 * i
def Reg.PORT_TX_BYTES_LO (i : Nat) : Nat := 0x80050 + 1024 * i
def Reg.PORT_TX_BYTES_HI (i : Nat) : Nat := 0x80051 + 1024 * i
def Reg.PORT_TX_FCS_DROP_LO (i : Nat) : Nat := 0x80052 + 1024 * i
def Reg.PORT_TX_FCS_DROP_HI (i : Nat) : Nat := 0x80053 + 1024 * i
def Reg.PORT_TX_ABORT_LO (i : Nat) : Nat := 0x80054 + 1024 * i
def Reg.PORT_TX_ABORT_HI (i : Nat) : Nat := 0x80055 + 1024 * i
def Reg.PORT_TX_PFC_LO (i : Nat) : Nat := 0x80056 + 1024 * i
def Reg.PORT_TX_PFC_HI (i : Nat) : Nat := 0x80057 + 1024 * i
def Reg.PORT_DOWN_DROP_LO (i : Nat) : Nat := 0x80058 + 1024 * i
def Reg.PORT_DOWN_DROP_HI (i : Nat) : Nat := 0x80059 + 1024 * i
def Reg.PORT_LINGER_FLUSH_LO (i : Nat) : Nat := 0x8005a + 1024 * i
def Reg.PORT_LINGER_FLUSH_HI (i : Nat) : Nat := 0x8005b + 1024 * i
def Reg.PORT_CT_STOMPED_LO (i : Nat) : Nat := 0x8005c + 1024 * i
def Reg.PORT_CT_STOMPED_HI (i : Nat) : Nat := 0x8005d + 1024 * i
def Reg.PORT_CT_BAD_SRC_LO (i : Nat) : Nat := 0x8005e + 1024 * i
def Reg.PORT_CT_BAD_SRC_HI (i : Nat) : Nat := 0x8005f + 1024 * i
def Reg.PORT_LINK_DOWN_COUNT_LO (i : Nat) : Nat := 0x80060 + 1024 * i
def Reg.PORT_LINK_DOWN_COUNT_HI (i : Nat) : Nat := 0x80061 + 1024 * i
def Reg.FWD_CTRL : Nat := 0x100002
def Reg.FWD_INT_STATUS : Nat := 0x100004
def Reg.FWD_COMMIT_CMD : Nat := 0x100010
def Reg.FWD_STAGE : Nat := 0x100011
def Reg.FWD_COMMIT_FAIL : Nat := 0x100012
def Reg.FWD_COMMIT_FAIL_MASK : Nat := 0x100013
def Reg.FWD_COMMIT_FAIL_ADDR : Nat := 0x100014
def Reg.FWD_HASH_SEED : Nat := 0x100015
def Reg.FWD_DSCP_MAP (i : Nat) : Nat := 0x100018 + 1 * i
def Reg.FWD_READ_SEL (i : Nat) : Nat := 0x100020 + 1 * i
def Reg.FWD_INJ_BASE : Nat := 0x100028
def Reg.FWD_INJ_RING : Nat := 0x100029
def Reg.FWD_INJ_WR : Nat := 0x10002a
def Reg.FWD_INJ_RD : Nat := 0x10002b
def Reg.FWD_TRAP_BASE : Nat := 0x10002c
def Reg.FWD_TRAP_RING : Nat := 0x10002d
def Reg.FWD_TRAP_WR : Nat := 0x10002e
def Reg.FWD_TRAP_RD : Nat := 0x10002f
def Reg.FWD_INJ_BAD : Nat := 0x100030
def Reg.FWD_TRAP_DROP : Nat := 0x100031
def Reg.FWD_HINJ_DESC (i : Nat) : Nat := 0x100038 + 1 * i
def Reg.FWD_HINJ_DATA : Nat := 0x100040
def Reg.FWD_HINJ_CMD : Nat := 0x100041
def Reg.FWD_PIPE_INT_STATUS (i : Nat) : Nat := 0x100404 + 1024 * i
def Reg.FWD_L2_MISS_LO (i : Nat) : Nat := 0x100440 + 1024 * i
def Reg.FWD_L2_MISS_HI (i : Nat) : Nat := 0x100441 + 1024 * i
def Reg.FWD_LPM_MISS_LO (i : Nat) : Nat := 0x100442 + 1024 * i
def Reg.FWD_LPM_MISS_HI (i : Nat) : Nat := 0x100443 + 1024 * i
def Reg.FWD_TTL_EXP_LO (i : Nat) : Nat := 0x100444 + 1024 * i
def Reg.FWD_TTL_EXP_HI (i : Nat) : Nat := 0x100445 + 1024 * i
def Reg.FWD_HDR_ERR_LO (i : Nat) : Nat := 0x100446 + 1024 * i
def Reg.FWD_HDR_ERR_HI (i : Nat) : Nat := 0x100447 + 1024 * i
def Reg.FWD_ACL_DROP_LO (i : Nat) : Nat := 0x100448 + 1024 * i
def Reg.FWD_ACL_DROP_HI (i : Nat) : Nat := 0x100449 + 1024 * i
def Reg.FWD_HAIRPIN_DROP_LO (i : Nat) : Nat := 0x10044a + 1024 * i
def Reg.FWD_HAIRPIN_DROP_HI (i : Nat) : Nat := 0x10044b + 1024 * i
def Reg.FWD_TRAP_LO (i : Nat) : Nat := 0x10044c + 1024 * i
def Reg.FWD_TRAP_HI (i : Nat) : Nat := 0x10044d + 1024 * i
def Reg.FWD_TC_NO_RXTS_LO (i : Nat) : Nat := 0x10044e + 1024 * i
def Reg.FWD_TC_NO_RXTS_HI (i : Nat) : Nat := 0x10044f + 1024 * i
def Reg.FWD_PORT_CFG (i : Nat) : Nat := 0x108010 + 1024 * (i / 128) + 4 * (i % 128)
def Reg.FWD_PORT_PCP_MAP (i : Nat) : Nat := 0x108011 + 1024 * (i / 128) + 4 * (i % 128)
def Reg.FWD_PORT_LINK_DELAY (i : Nat) : Nat := 0x108012 + 1024 * (i / 128) + 4 * (i % 128)
def Reg.BUF_INT_STATUS : Nat := 0x120004
def Reg.BUF_POOL_SIZE (i : Nat) : Nat := 0x120010 + 1 * i
def Reg.BUF_POOL_USED (i : Nat) : Nat := 0x120014 + 1 * i
def Reg.BUF_FREE : Nat := 0x120018
def Reg.BUF_ALLOC : Nat := 0x120019
def Reg.BUF_FREE_LOW : Nat := 0x12001a
def Reg.BUF_CT_QUARANTINE : Nat := 0x12001b
def Reg.BUF_AUDIT : Nat := 0x12001c
def Reg.BUF_AUDIT_STATUS : Nat := 0x12001d
def Reg.BUF_LEAK_LAST : Nat := 0x12001e
def Reg.BUF_XLINK_LAST : Nat := 0x12001f
def Reg.BUF_LEAK_COUNT_LO : Nat := 0x120020
def Reg.BUF_LEAK_COUNT_HI : Nat := 0x120021
def Reg.BUF_XLINK_COUNT_LO : Nat := 0x120022
def Reg.BUF_XLINK_COUNT_HI : Nat := 0x120023
def Reg.BUF_AUDIT_PASSES_LO : Nat := 0x120024
def Reg.BUF_AUDIT_PASSES_HI : Nat := 0x120025
def Reg.BUF_NOFREE_DROP_LO : Nat := 0x120026
def Reg.BUF_NOFREE_DROP_HI : Nat := 0x120027
def Reg.BUF_STOMP_RX_LO : Nat := 0x120028
def Reg.BUF_STOMP_RX_HI : Nat := 0x120029
def Reg.BUF_STOMP_CORRUPT_LO : Nat := 0x12002a
def Reg.BUF_STOMP_CORRUPT_HI : Nat := 0x12002b
def Reg.BUF_AUX_DROP_LO : Nat := 0x12002c
def Reg.BUF_AUX_DROP_HI : Nat := 0x12002d
def Reg.BUF_QPROF (i : Nat) : Nat := 0x120410 + 1 * i
def Reg.BUF_PGPROF_XOFF (i : Nat) : Nat := 0x120440 + 4 * i
def Reg.BUF_PGPROF_HEADROOM (i : Nat) : Nat := 0x120441 + 4 * i
def Reg.BUF_PGPROF_XON_DELTA (i : Nat) : Nat := 0x120442 + 4 * i
def Reg.BUF_PORT_INT_STATUS (i : Nat) : Nat := 0x122004 + 1024 * i
def Reg.BUF_PORT_CFG (i : Nat) : Nat := 0x122010 + 1024 * (i / 16) + 60 * (i % 16)
def Reg.BUF_PORT_QPROF0 (i : Nat) : Nat := 0x122011 + 1024 * (i / 16) + 60 * (i % 16)
def Reg.BUF_PORT_QPROF1 (i : Nat) : Nat := 0x122012 + 1024 * (i / 16) + 60 * (i % 16)
def Reg.BUF_PORT_QPROF2 (i : Nat) : Nat := 0x122013 + 1024 * (i / 16) + 60 * (i % 16)
def Reg.BUF_PORT_PG_MAP0 (i : Nat) : Nat := 0x122014 + 1024 * (i / 16) + 60 * (i % 16)
def Reg.BUF_PORT_PG_MAP1 (i : Nat) : Nat := 0x122015 + 1024 * (i / 16) + 60 * (i % 16)
def Reg.BUF_PORT_PG_STATUS (i : Nat) : Nat := 0x122016 + 1024 * (i / 16) + 60 * (i % 16)
def Reg.BUF_PORT_RX_TRUNC_LO (i : Nat) : Nat := 0x122018 + 1024 * (i / 16) + 60 * (i % 16)
def Reg.BUF_PORT_RX_TRUNC_HI (i : Nat) : Nat := 0x122019 + 1024 * (i / 16) + 60 * (i % 16)
def Reg.BUF_PORT_HEADROOM_DROP_LO (i : Nat) : Nat := 0x12201a + 1024 * (i / 16) + 60 * (i % 16)
def Reg.BUF_PORT_HEADROOM_DROP_HI (i : Nat) : Nat := 0x12201b + 1024 * (i / 16) + 60 * (i % 16)
def Reg.BUF_Q_OCC (i : Nat) : Nat := 0x12201c + 1024 * (i / 256) + 60 * (i % 256 / 16) + 1 * (i % 16)
def Reg.BUF_Q_DROP_LO (i : Nat) : Nat := 0x12202c + 1024 * (i / 256) + 60 * (i % 256 / 16) + 2 * (i % 16)
def Reg.BUF_Q_DROP_HI (i : Nat) : Nat := 0x12202d + 1024 * (i / 256) + 60 * (i % 256 / 16) + 2 * (i % 16)
def Reg.SCHD_INT_STATUS : Nat := 0x130004
def Reg.SCHD_SHAPER_FORGIVE : Nat := 0x130010
def Reg.SCHD_SAMPLE_CTRL : Nat := 0x130011
def Reg.SCHD_SAMPLE_BASE : Nat := 0x130012
def Reg.SCHD_SAMPLE_RING : Nat := 0x130013
def Reg.SCHD_SAMPLE_WR : Nat := 0x130014
def Reg.SCHD_SAMPLE_RD : Nat := 0x130015
def Reg.SCHD_SAMPLE_DROP : Nat := 0x130016
def Reg.SCHD_SAMPLE_OVERRUN : Nat := 0x130017
def Reg.SCHD_PORT_CFG (i : Nat) : Nat := 0x130410 + 1024 * (i / 128) + 4 * (i % 128)
def Reg.SCHD_PORT_STATUS (i : Nat) : Nat := 0x130411 + 1024 * (i / 128) + 4 * (i % 128)
def Reg.SCHD_PORT_QSTATE (i : Nat) : Nat := 0x130412 + 1024 * (i / 128) + 4 * (i % 128)
def Reg.POL_INT_STATUS (i : Nat) : Nat := 0x134004 + 1024 * i
def Reg.POL_CFG (i : Nat) : Nat := 0x134010 + 1024 * (i / 126) + 8 * (i % 126)
def Reg.POL_CIR (i : Nat) : Nat := 0x134011 + 1024 * (i / 126) + 8 * (i % 126)
def Reg.POL_PIR (i : Nat) : Nat := 0x134012 + 1024 * (i / 126) + 8 * (i % 126)
def Reg.POL_CBS (i : Nat) : Nat := 0x134013 + 1024 * (i / 126) + 8 * (i % 126)
def Reg.POL_PBS (i : Nat) : Nat := 0x134014 + 1024 * (i / 126) + 8 * (i % 126)
def Reg.POL_GREEN (i : Nat) : Nat := 0x134015 + 1024 * (i / 126) + 8 * (i % 126)
def Reg.POL_YELLOW (i : Nat) : Nat := 0x134016 + 1024 * (i / 126) + 8 * (i % 126)
def Reg.POL_RED (i : Nat) : Nat := 0x134017 + 1024 * (i / 126) + 8 * (i % 126)
def Reg.TLM_INT_STATUS : Nat := 0x140004
def Reg.TLM_PCLK_LO : Nat := 0x140010
def Reg.TLM_PCLK_HI : Nat := 0x140011
def Reg.TLM_TAG_CTRL : Nat := 0x140012
def Reg.TLM_TAG_STATUS : Nat := 0x140013
def Reg.TLM_TAG_SKIP : Nat := 0x140014
def Reg.TLM_TAG_COUNT_LO : Nat := 0x140016
def Reg.TLM_TAG_COUNT_HI : Nat := 0x140017
def Reg.TLM_DMA_CTRL : Nat := 0x140018
def Reg.TLM_DMA_CBASE_LO : Nat := 0x140019
def Reg.TLM_DMA_CBASE_HI : Nat := 0x14001a
def Reg.TLM_DMA_TBASE_LO : Nat := 0x14001b
def Reg.TLM_DMA_TBASE_HI : Nat := 0x14001c
def Reg.TLM_DMA_RING : Nat := 0x14001d
def Reg.TLM_DMA_CRD : Nat := 0x14001e
def Reg.TLM_DMA_TRD : Nat := 0x14001f
def Reg.TLM_DMA_CWR : Nat := 0x140020
def Reg.TLM_DMA_TWR : Nat := 0x140021
def Reg.TLM_DMA_WB_LO : Nat := 0x140022
def Reg.TLM_DMA_WB_HI : Nat := 0x140023
def Reg.TLM_DMA_SKIP : Nat := 0x140024
def Reg.TLM_DMA_TDROP : Nat := 0x140025
def Reg.TLM_DMA_LIST (i : Nat) : Nat := 0x140040 + 1 * i
def Reg.TLM_EVT_INT_STATUS : Nat := 0x140404
def Reg.TLM_EVT_CFG (i : Nat) : Nat := 0x140410 + 8 * i
def Reg.TLM_EVT_LO (i : Nat) : Nat := 0x140412 + 8 * i
def Reg.TLM_EVT_HI (i : Nat) : Nat := 0x140413 + 8 * i
def Reg.TLM_EVT_RELOAD_LO (i : Nat) : Nat := 0x140414 + 8 * i
def Reg.TLM_EVT_RELOAD_HI (i : Nat) : Nat := 0x140415 + 8 * i
def Reg.TLM_EVT_OVF0 : Nat := 0x140610
def Reg.TLM_EVT_OVF1 : Nat := 0x140611
def Reg.TLM_THR_INT_STATUS (i : Nat) : Nat := 0x140804 + 1024 * i
def Reg.TLM_THR_CFG (i : Nat) : Nat := 0x140810 + 1024 * (i / 128) + 4 * (i % 128)
def Reg.TLM_THR_N (i : Nat) : Nat := 0x140811 + 1024 * (i / 128) + 4 * (i % 128)
def Reg.TLM_THR_LO (i : Nat) : Nat := 0x140812 + 1024 * (i / 128) + 4 * (i % 128)
def Reg.TLM_THR_HI (i : Nat) : Nat := 0x140813 + 1024 * (i / 128) + 4 * (i % 128)
def Reg.TLM_SLOT_INT_STATUS : Nat := 0x141004
def Reg.TLM_SLOT_CYCLES_LO (i : Nat) : Nat := 0x141010 + 16 * i
def Reg.TLM_SLOT_CYCLES_HI (i : Nat) : Nat := 0x141011 + 16 * i
def Reg.TLM_SLOT_FWD_LO (i : Nat) : Nat := 0x141012 + 16 * i
def Reg.TLM_SLOT_FWD_HI (i : Nat) : Nat := 0x141013 + 16 * i
def Reg.TLM_SLOT_DISC_LO (i : Nat) : Nat := 0x141014 + 16 * i
def Reg.TLM_SLOT_DISC_HI (i : Nat) : Nat := 0x141015 + 16 * i
def Reg.TLM_SLOT_SB_LO (i : Nat) : Nat := 0x141016 + 16 * i
def Reg.TLM_SLOT_SB_HI (i : Nat) : Nat := 0x141017 + 16 * i
def Reg.TLM_SLOT_SF_LO (i : Nat) : Nat := 0x141018 + 16 * i
def Reg.TLM_SLOT_SF_HI (i : Nat) : Nat := 0x141019 + 16 * i
def Reg.TLM_SLOT_FRONT_LOST_LO (i : Nat) : Nat := 0x14101a + 16 * i
def Reg.TLM_SLOT_FRONT_LOST_HI (i : Nat) : Nat := 0x14101b + 16 * i
def Reg.TLM_SLOT_CMD : Nat := 0x141190
def Reg.TLM_SLOT_SNAP_TIME (i : Nat) : Nat := 0x141194 + 1 * i
def Reg.TLM_SNAP_CYCLES_LO (i : Nat) : Nat := 0x141200 + 16 * i
def Reg.TLM_SNAP_CYCLES_HI (i : Nat) : Nat := 0x141201 + 16 * i
def Reg.TLM_SNAP_FWD_LO (i : Nat) : Nat := 0x141202 + 16 * i
def Reg.TLM_SNAP_FWD_HI (i : Nat) : Nat := 0x141203 + 16 * i
def Reg.TLM_SNAP_DISC_LO (i : Nat) : Nat := 0x141204 + 16 * i
def Reg.TLM_SNAP_DISC_HI (i : Nat) : Nat := 0x141205 + 16 * i
def Reg.TLM_SNAP_SB_LO (i : Nat) : Nat := 0x141206 + 16 * i
def Reg.TLM_SNAP_SB_HI (i : Nat) : Nat := 0x141207 + 16 * i
def Reg.TLM_SNAP_SF_LO (i : Nat) : Nat := 0x141208 + 16 * i
def Reg.TLM_SNAP_SF_HI (i : Nat) : Nat := 0x141209 + 16 * i
def Reg.TLM_SNAP_FRONT_LOST_LO (i : Nat) : Nat := 0x14120a + 16 * i
def Reg.TLM_SNAP_FRONT_LOST_HI (i : Nat) : Nat := 0x14120b + 16 * i
def Reg.TWIN_CTRL : Nat := 0x1ac002
def Reg.TWIN_INT_STATUS : Nat := 0x1ac004
def Reg.TWIN_PAIR_CFG : Nat := 0x1ac010
def Reg.TWIN_LIVE : Nat := 0x1ac011
def Reg.TWIN_TIMERS : Nat := 0x1ac012
def Reg.TWIN_ROLE_GATE : Nat := 0x1ac013
def Reg.TWIN_CMD : Nat := 0x1ac014
def Reg.TWIN_XCHK : Nat := 0x1ac015
def Reg.TWIN_XCHK_STATUS : Nat := 0x1ac016
def Reg.TWIN_STEP_SUM_LO : Nat := 0x1ac017
def Reg.TWIN_STEP_SUM_HI : Nat := 0x1ac018
def Reg.TWIN_STEP_SUM_SUB : Nat := 0x1ac019
def Reg.TWIN_CLOCK_ID_LO : Nat := 0x1ac01a
def Reg.TWIN_CLOCK_ID_HI : Nat := 0x1ac01b
def Reg.TWIN_PEER_ID_LO : Nat := 0x1ac01c
def Reg.TWIN_PEER_ID_HI : Nat := 0x1ac01d
def Reg.TWIN_TX_PAYLOAD (i : Nat) : Nat := 0x1ac020 + 1 * i
def Reg.TWIN_LNK_INT_STATUS : Nat := 0x1ac404
def Reg.TWIN_LNK_STATUS (i : Nat) : Nat := 0x1ac410 + 16 * i
def Reg.TWIN_LNK_RX_FRAMES_LO (i : Nat) : Nat := 0x1ac412 + 16 * i
def Reg.TWIN_LNK_RX_FRAMES_HI (i : Nat) : Nat := 0x1ac413 + 16 * i
def Reg.TWIN_LNK_FRAME_ERR (i : Nat) : Nat := 0x1ac414 + 16 * i
def Reg.TWIN_LNK_SYNC_DISCARD (i : Nat) : Nat := 0x1ac415 + 16 * i
def Reg.TWIN_LNK_OFFSET (i : Nat) : Nat := 0x1ac416 + 16 * i
def Reg.TWIN_LNK_DELAY (i : Nat) : Nat := 0x1ac417 + 16 * i
def Reg.TWIN_STK_INT_STATUS : Nat := 0x1ac804
def Reg.TWIN_STACK_CFG : Nat := 0x1ac810
def Reg.TWIN_STACK_STATUS : Nat := 0x1ac811
def Reg.TWIN_XSTEP_AMT_LO : Nat := 0x1ac812
def Reg.TWIN_XSTEP_AMT_HI : Nat := 0x1ac813
def Reg.TWIN_XSTEP_AMT_SUB : Nat := 0x1ac814
def Reg.TWIN_XSTEP_ARM0 : Nat := 0x1ac818
def Reg.TWIN_XSTEP_ARM1 : Nat := 0x1ac819
def Reg.TWIN_XSTEP_ARM2 : Nat := 0x1ac81a
def Reg.TWIN_XSTEP_ARM3 : Nat := 0x1ac81b
def Reg.TWIN_XSTEP_CMD : Nat := 0x1ac81c
def Reg.TWIN_XSTEP_STATUS : Nat := 0x1ac81d
def Reg.TWIN_XSTEP_GUARD : Nat := 0x1ac81e
def Reg.TWIN_SID_INT_STATUS (i : Nat) : Nat := 0x1ad004 + 1024 * i
def Reg.TWIN_SID_CFG (i : Nat) : Nat := 0x1ad010 + 1024 * (i / 84) + 12 * (i % 84)
def Reg.TWIN_SID_DA_LO (i : Nat) : Nat := 0x1ad011 + 1024 * (i / 84) + 12 * (i % 84)
def Reg.TWIN_SID_DA_HI (i : Nat) : Nat := 0x1ad012 + 1024 * (i / 84) + 12 * (i % 84)
def Reg.TWIN_SID_STATE (i : Nat) : Nat := 0x1ad013 + 1024 * (i / 84) + 12 * (i % 84)
def Reg.TWIN_SID_PASSED (i : Nat) : Nat := 0x1ad014 + 1024 * (i / 84) + 12 * (i % 84)
def Reg.TWIN_SID_DISCARDED (i : Nat) : Nat := 0x1ad015 + 1024 * (i / 84) + 12 * (i % 84)
def Reg.TWIN_SID_OOO (i : Nat) : Nat := 0x1ad016 + 1024 * (i / 84) + 12 * (i % 84)
def Reg.TWIN_SID_ROGUE (i : Nat) : Nat := 0x1ad017 + 1024 * (i / 84) + 12 * (i % 84)
def Reg.TWIN_SID_LOST (i : Nat) : Nat := 0x1ad018 + 1024 * (i / 84) + 12 * (i % 84)
def Reg.TWIN_SID_TAGLESS (i : Nat) : Nat := 0x1ad019 + 1024 * (i / 84) + 12 * (i % 84)
def Reg.TWIN_SID_RESETS (i : Nat) : Nat := 0x1ad01a + 1024 * (i / 84) + 12 * (i % 84)
def Reg.HRTH_INT_STATUS : Nat := 0x8004
def Reg.HRTH_BOOT_STATUS : Nat := 0x8010
def Reg.HRTH_LOAD_ADDR : Nat := 0x8011
def Reg.HRTH_LOAD_DATA : Nat := 0x8012
def Reg.HRTH_BOOT_CMD : Nat := 0x8013
def Reg.HRTH_FUSE : Nat := 0x8014
def Reg.HRTH_FW_STATUS : Nat := 0x8015
def Reg.HRTH_FUSE_CMD : Nat := 0x8016
def Reg.FLT_CTRL : Nat := 0x1b0002
def Reg.FLT_INT_STATUS : Nat := 0x1b0004
def Reg.FLT_LIVE : Nat := 0x1b0010
def Reg.FLT_SCRUB : Nat := 0x1b0011
def Reg.FLT_WDOG : Nat := 0x1b0012
def Reg.FLT_WDOG_KICK : Nat := 0x1b0013
def Reg.FLT_CLASS_PEND : Nat := 0x1b0014
def Reg.FLT_CLASS_CFG (i : Nat) : Nat := 0x1b0021 + 1 * i
def Reg.FLT_CLASS_COUNT (i : Nat) : Nat := 0x1b0041 + 1 * i
def Reg.FLT_LOG_HEAD : Nat := 0x1b0410
def Reg.FLT_LOG (i : Nat) : Nat := 0x1b0440 + 1 * i
def Reg.TST_INT_STATUS : Nat := 0x1fc004
def Reg.TST_PORT_CTRL : Nat := 0x1fc010
def Reg.TST_TAP_STATUS : Nat := 0x1fc011
def Reg.TST_MET_CTRL : Nat := 0x1fc012
def Reg.TST_RAW_TX (i : Nat) : Nat := 0x1fc410 + 2 * i
def Reg.TST_RAW_RX (i : Nat) : Nat := 0x1fc411 + 2 * i

def F.CHIP_INT_STATUS_ENUM_DONE : Fld := ⟨Reg.CHIP_INT_STATUS, 0, 1⟩
def F.CHIP_INT_STATUS_ENUM_TIMEOUT : Fld := ⟨Reg.CHIP_INT_STATUS, 1, 1⟩
def F.CHIP_INT_STATUS_ENUM_MISMATCH : Fld := ⟨Reg.CHIP_INT_STATUS, 2, 1⟩
def F.CHIP_ID_PART : Fld := ⟨Reg.CHIP_ID, 16, 16⟩
def F.CHIP_ID_REV : Fld := ⟨Reg.CHIP_ID, 8, 8⟩
def F.CHIP_MFR_BANK : Fld := ⟨Reg.CHIP_MFR, 12, 4⟩
def F.CHIP_MFR_CODE : Fld := ⟨Reg.CHIP_MFR, 0, 12⟩
def F.CHIP_UNIT_UNIT : Fld := ⟨Reg.CHIP_UNIT, 0, 6⟩
def F.CHIP_UNIT_VALID : Fld := ⟨Reg.CHIP_UNIT, 8, 1⟩
def F.CHIP_UNIT_HEARD : Fld := ⟨Reg.CHIP_UNIT, 16, 6⟩
def F.CHIP_UNIT_HEARD_VALID : Fld := ⟨Reg.CHIP_UNIT, 22, 1⟩
def F.CHIP_STRAPS_TWIN_PREF : Fld := ⟨Reg.CHIP_STRAPS, 0, 1⟩
def F.CHIP_STRAPS_BOOT : Fld := ⟨Reg.CHIP_STRAPS, 1, 1⟩
def F.CHIP_STRAPS_ENUM_HEAD : Fld := ⟨Reg.CHIP_STRAPS, 2, 1⟩
def F.CHIP_ENUM_CMD_REENUM : Fld := ⟨Reg.CHIP_ENUM_CMD, 0, 1⟩
def F.PWR_INT_STATUS_WARN_ASSERT : Fld := ⟨Reg.PWR_INT_STATUS, 0, 1⟩
def F.PWR_INT_STATUS_WARN_CLEAR : Fld := ⟨Reg.PWR_INT_STATUS, 1, 1⟩
def F.PWR_INT_STATUS_EVT_LOGGED : Fld := ⟨Reg.PWR_INT_STATUS, 2, 1⟩
def F.PWR_INT_STATUS_EVT_OVERWRITE : Fld := ⟨Reg.PWR_INT_STATUS, 3, 1⟩
def F.PWR_INT_STATUS_TEMP_WARN : Fld := ⟨Reg.PWR_INT_STATUS, 4, 1⟩
def F.PWR_INT_STATUS_HOLDUP_LOW : Fld := ⟨Reg.PWR_INT_STATUS, 5, 1⟩
def F.PWR_INT_STATUS_SUPPLY_RESET : Fld := ⟨Reg.PWR_INT_STATUS, 6, 1⟩
def F.PWR_INT_STATUS_CNT_OVF : Fld := ⟨Reg.PWR_INT_STATUS, 7, 1⟩
def F.PWR_INT_STATUS_TRIP_RESTART : Fld := ⟨Reg.PWR_INT_STATUS, 8, 1⟩
def F.PWR_VIN_VALUE : Fld := ⟨Reg.PWR_VIN, 0, 16⟩
def F.PWR_IIN_VALUE : Fld := ⟨Reg.PWR_IIN, 0, 16⟩
def F.PWR_PIN_VALUE : Fld := ⟨Reg.PWR_PIN, 0, 16⟩
def F.PWR_LIVE_WARN_ACTIVE : Fld := ⟨Reg.PWR_LIVE, 0, 1⟩
def F.PWR_LIVE_EVT_FLAG : Fld := ⟨Reg.PWR_LIVE, 1, 1⟩
def F.PWR_LIVE_HOLDUP_READY : Fld := ⟨Reg.PWR_LIVE, 2, 1⟩
def F.PWR_LIVE_TEMP_WARN_ACTIVE : Fld := ⟨Reg.PWR_LIVE, 3, 1⟩
def F.PWR_LIVE_OVEN_RETAINED : Fld := ⟨Reg.PWR_LIVE, 4, 1⟩
def F.PWR_WARN_LEVEL_LEVEL_MV : Fld := ⟨Reg.PWR_WARN_LEVEL, 0, 16⟩
def F.PWR_TEMP_TJ : Fld := ⟨Reg.PWR_TEMP, 0, 12⟩
def F.PWR_TEMP_SENSOR : Fld := ⟨Reg.PWR_TEMP, 12, 4⟩
def F.PWR_TEMP_WARN_TJ : Fld := ⟨Reg.PWR_TEMP_WARN, 0, 12⟩
def F.PWR_HOLDUP_VOLT : Fld := ⟨Reg.PWR_HOLDUP, 0, 16⟩
def F.PWR_HOLDUP_CAP : Fld := ⟨Reg.PWR_HOLDUP, 16, 16⟩
def F.PWR_RAIL_V_VALUE (i : Nat) : Fld := ⟨Reg.PWR_RAIL_V i, 0, 16⟩
def F.IND_ADDR_WADDR (i : Nat) : Fld := ⟨Reg.IND_ADDR i, 0, 24⟩
def F.IND_ADDR_DOMAIN (i : Nat) : Fld := ⟨Reg.IND_ADDR i, 24, 8⟩
def F.IND_DATA_DATA (i : Nat) : Fld := ⟨Reg.IND_DATA i, 0, 32⟩
def F.IND_CTRL_STRIDE (i : Nat) : Fld := ⟨Reg.IND_CTRL i, 0, 2⟩
def F.IND_CTRL_DIR (i : Nat) : Fld := ⟨Reg.IND_CTRL i, 8, 1⟩
def F.IND_STATUS_BUSY (i : Nat) : Fld := ⟨Reg.IND_STATUS i, 0, 1⟩
def F.IND_STATUS_ERR (i : Nat) : Fld := ⟨Reg.IND_STATUS i, 1, 1⟩
def F.IND_STATUS_BAD_DOMAIN (i : Nat) : Fld := ⟨Reg.IND_STATUS i, 2, 1⟩
def F.IND_STATUS_BAD_ADDR (i : Nat) : Fld := ⟨Reg.IND_STATUS i, 3, 1⟩
def F.IND_STATUS_TIMEOUT (i : Nat) : Fld := ⟨Reg.IND_STATUS i, 4, 1⟩
def F.IND_STATUS_OVERRUN (i : Nat) : Fld := ⟨Reg.IND_STATUS i, 5, 1⟩
def F.IND_STATUS_FIFO_LEVEL (i : Nat) : Fld := ⟨Reg.IND_STATUS i, 8, 5⟩
def F.HOST_INT_STATUS_UNMAPPED : Fld := ⟨Reg.HOST_INT_STATUS, 0, 1⟩
def F.HOST_INT_STATUS_PARTIAL_WRITE : Fld := ⟨Reg.HOST_INT_STATUS, 1, 1⟩
def F.HOST_INT_STATUS_WIN_FOREIGN : Fld := ⟨Reg.HOST_INT_STATUS, 2, 1⟩
def F.HOST_INT_STATUS_PF1_DENIED : Fld := ⟨Reg.HOST_INT_STATUS, 3, 1⟩
def F.HOST_INT_STATUS_IND_ERR : Fld := ⟨Reg.HOST_INT_STATUS, 4, 1⟩
def F.HOST_PF1_WRITE_EN_BLOCK_EN : Fld := ⟨Reg.HOST_PF1_WRITE_EN, 0, 22⟩
def F.HOST_ERR_ADDR_OFFSET : Fld := ⟨Reg.HOST_ERR_ADDR, 0, 26⟩
def F.HOST_ERR_ADDR_AGENT : Fld := ⟨Reg.HOST_ERR_ADDR, 26, 3⟩
def F.IRQ_BLOCK_STATUS_BLOCK : Fld := ⟨Reg.IRQ_BLOCK_STATUS, 0, 22⟩
def F.IRQ_ROUTE_VEC (i : Nat) : Fld := ⟨Reg.IRQ_ROUTE i, 0, 6⟩
def F.IRQ_ROUTE_DEST (i : Nat) : Fld := ⟨Reg.IRQ_ROUTE i, 8, 2⟩
def F.IRQ_ROUTE_EN (i : Nat) : Fld := ⟨Reg.IRQ_ROUTE i, 16, 1⟩
def F.IRQ_MBOX_ROUTE_VEC (i : Nat) : Fld := ⟨Reg.IRQ_MBOX_ROUTE i, 0, 6⟩
def F.IRQ_MBOX_ROUTE_DEST (i : Nat) : Fld := ⟨Reg.IRQ_MBOX_ROUTE i, 8, 2⟩
def F.IRQ_MBOX_ROUTE_EN (i : Nat) : Fld := ⟨Reg.IRQ_MBOX_ROUTE i, 16, 1⟩
def F.IRQ_EOI_VEC : Fld := ⟨Reg.IRQ_EOI, 0, 6⟩
def F.IRQ_EOI_FUNC : Fld := ⟨Reg.IRQ_EOI, 8, 1⟩
def F.IRQ_EOI_GO : Fld := ⟨Reg.IRQ_EOI, 31, 1⟩
def F.IRQ_PAGE_PEND_PEND (i : Nat) : Fld := ⟨Reg.IRQ_PAGE_PEND i, 0, 32⟩
def F.MBOX_INT_STATUS_ARRIVED00 (i : Nat) : Fld := ⟨Reg.MBOX_INT_STATUS i, 0, 1⟩
def F.MBOX_INT_STATUS_EMPTIED00 (i : Nat) : Fld := ⟨Reg.MBOX_INT_STATUS i, 1, 1⟩
def F.MBOX_INT_STATUS_ARRIVED01 (i : Nat) : Fld := ⟨Reg.MBOX_INT_STATUS i, 2, 1⟩
def F.MBOX_INT_STATUS_EMPTIED01 (i : Nat) : Fld := ⟨Reg.MBOX_INT_STATUS i, 3, 1⟩
def F.MBOX_INT_STATUS_ARRIVED10 (i : Nat) : Fld := ⟨Reg.MBOX_INT_STATUS i, 4, 1⟩
def F.MBOX_INT_STATUS_EMPTIED10 (i : Nat) : Fld := ⟨Reg.MBOX_INT_STATUS i, 5, 1⟩
def F.MBOX_INT_STATUS_ARRIVED11 (i : Nat) : Fld := ⟨Reg.MBOX_INT_STATUS i, 6, 1⟩
def F.MBOX_INT_STATUS_EMPTIED11 (i : Nat) : Fld := ⟨Reg.MBOX_INT_STATUS i, 7, 1⟩
def F.MBOX_INT_STATUS_SENDER_DENIED (i : Nat) : Fld := ⟨Reg.MBOX_INT_STATUS i, 8, 1⟩
def F.MBOX_INT_STATUS_CLAIM_CONFLICT (i : Nat) : Fld := ⟨Reg.MBOX_INT_STATUS i, 9, 1⟩
def F.MBOX_INT_STATUS_Q_OVERFLOW (i : Nat) : Fld := ⟨Reg.MBOX_INT_STATUS i, 10, 1⟩
def F.MBOX_INT_STATUS_WRITE_WHILE_POSTED (i : Nat) : Fld := ⟨Reg.MBOX_INT_STATUS i, 11, 1⟩
def F.MBOX_Q_WR_DATA (i : Nat) : Fld := ⟨Reg.MBOX_Q_WR i, 0, 32⟩
def F.MBOX_Q_RD_DATA (i : Nat) : Fld := ⟨Reg.MBOX_Q_RD i, 0, 32⟩
def F.MBOX_Q_CMD_POST (i : Nat) : Fld := ⟨Reg.MBOX_Q_CMD i, 0, 1⟩
def F.MBOX_Q_CMD_DISCARD (i : Nat) : Fld := ⟨Reg.MBOX_Q_CMD i, 1, 1⟩
def F.MBOX_Q_CMD_ABORT (i : Nat) : Fld := ⟨Reg.MBOX_Q_CMD i, 2, 1⟩
def F.MBOX_Q_STATE_COUNT (i : Nat) : Fld := ⟨Reg.MBOX_Q_STATE i, 0, 5⟩
def F.MBOX_Q_STATE_POSTED (i : Nat) : Fld := ⟨Reg.MBOX_Q_STATE i, 8, 1⟩
def F.MBOX_Q_STATE_CLAIMED (i : Nat) : Fld := ⟨Reg.MBOX_Q_STATE i, 9, 1⟩
def F.MBOX_Q_STATE_OWNER (i : Nat) : Fld := ⟨Reg.MBOX_Q_STATE i, 16, 8⟩
def F.MBOX_Q_STATE_MSG_SEQ (i : Nat) : Fld := ⟨Reg.MBOX_Q_STATE i, 24, 8⟩
def F.MBOX_Q_MASK_SENDERS (i : Nat) : Fld := ⟨Reg.MBOX_Q_MASK i, 0, 8⟩
def F.DLN_INT_STATUS_LOS (i : Nat) : Fld := ⟨Reg.DLN_INT_STATUS i, 0, 4⟩
def F.DLN_INT_STATUS_ALIGN_LOST (i : Nat) : Fld := ⟨Reg.DLN_INT_STATUS i, 4, 4⟩
def F.DLN_INT_STATUS_ADAPT_CLAMP (i : Nat) : Fld := ⟨Reg.DLN_INT_STATUS i, 8, 4⟩
def F.DLN_INT_STATUS_FREEZE (i : Nat) : Fld := ⟨Reg.DLN_INT_STATUS i, 12, 4⟩
def F.DLN_INT_STATUS_PRBS_LOST (i : Nat) : Fld := ⟨Reg.DLN_INT_STATUS i, 16, 4⟩
def F.DLN_INT_STATUS_CFG_REJECT (i : Nat) : Fld := ⟨Reg.DLN_INT_STATUS i, 20, 4⟩
def F.DLN_INT_STATUS_CNT_OVF (i : Nat) : Fld := ⟨Reg.DLN_INT_STATUS i, 24, 1⟩
def F.DLN_INT_STATUS_TX_REF_CHANGE (i : Nat) : Fld := ⟨Reg.DLN_INT_STATUS i, 25, 1⟩
def F.DLN_INT_STATUS_TXPLL_UNLOCK (i : Nat) : Fld := ⟨Reg.DLN_INT_STATUS i, 26, 1⟩
def F.DLN_QUAD_STATUS_TXPLL_LOCK (i : Nat) : Fld := ⟨Reg.DLN_QUAD_STATUS i, 0, 1⟩
def F.DLN_QUAD_STATUS_TX_REF_BACKUP (i : Nat) : Fld := ⟨Reg.DLN_QUAD_STATUS i, 1, 1⟩
def F.DLN_QUAD_STATUS_CHIPLET (i : Nat) : Fld := ⟨Reg.DLN_QUAD_STATUS i, 8, 3⟩
def F.DLN_ADAPT_ENTROPY_MIN_MIN (i : Nat) : Fld := ⟨Reg.DLN_ADAPT_ENTROPY_MIN i, 0, 8⟩
def F.DLN_LANE_CTRL_EN (i : Nat) : Fld := ⟨Reg.DLN_LANE_CTRL i, 0, 1⟩
def F.DLN_LANE_CTRL_RATE (i : Nat) : Fld := ⟨Reg.DLN_LANE_CTRL i, 1, 1⟩
def F.DLN_LANE_CTRL_TX_INV (i : Nat) : Fld := ⟨Reg.DLN_LANE_CTRL i, 2, 1⟩
def F.DLN_LANE_CTRL_RX_INV (i : Nat) : Fld := ⟨Reg.DLN_LANE_CTRL i, 3, 1⟩
def F.DLN_LANE_CTRL_LOOPBACK (i : Nat) : Fld := ⟨Reg.DLN_LANE_CTRL i, 4, 2⟩
def F.DLN_LANE_CTRL_ADAPT_HOLD (i : Nat) : Fld := ⟨Reg.DLN_LANE_CTRL i, 6, 1⟩
def F.DLN_LANE_CTRL_ADAPT_RESTART (i : Nat) : Fld := ⟨Reg.DLN_LANE_CTRL i, 7, 1⟩
def F.DLN_LANE_CTRL_TX_SQUELCH (i : Nat) : Fld := ⟨Reg.DLN_LANE_CTRL i, 8, 1⟩
def F.DLN_LANE_STATUS_SIGNAL (i : Nat) : Fld := ⟨Reg.DLN_LANE_STATUS i, 0, 1⟩
def F.DLN_LANE_STATUS_CDR_LOCK (i : Nat) : Fld := ⟨Reg.DLN_LANE_STATUS i, 1, 1⟩
def F.DLN_LANE_STATUS_ALIGNED (i : Nat) : Fld := ⟨Reg.DLN_LANE_STATUS i, 2, 1⟩
def F.DLN_LANE_STATUS_ADAPT_STATE (i : Nat) : Fld := ⟨Reg.DLN_LANE_STATUS i, 3, 3⟩
def F.DLN_LANE_STATUS_TX_READY (i : Nat) : Fld := ⟨Reg.DLN_LANE_STATUS i, 6, 1⟩
def F.DLN_LANE_STATUS_PRBS_LOCKED (i : Nat) : Fld := ⟨Reg.DLN_LANE_STATUS i, 7, 1⟩
def F.DLN_LANE_STATUS_SLIP (i : Nat) : Fld := ⟨Reg.DLN_LANE_STATUS i, 8, 6⟩
def F.DLN_LANE_STATUS_TX_REF_BACKUP (i : Nat) : Fld := ⟨Reg.DLN_LANE_STATUS i, 14, 1⟩
def F.DLN_DENSITY_LAST (i : Nat) : Fld := ⟨Reg.DLN_DENSITY i, 0, 8⟩
def F.DLN_DENSITY_RESUME_COUNT (i : Nat) : Fld := ⟨Reg.DLN_DENSITY i, 8, 9⟩
def F.DLN_PRBS_CTRL_GEN_PAT (i : Nat) : Fld := ⟨Reg.DLN_PRBS_CTRL i, 0, 4⟩
def F.DLN_PRBS_CTRL_CHK_PAT (i : Nat) : Fld := ⟨Reg.DLN_PRBS_CTRL i, 8, 4⟩
def F.DLN_PRBS_CTRL_CHK_RESEED (i : Nat) : Fld := ⟨Reg.DLN_PRBS_CTRL i, 16, 1⟩
def F.DLN_ERR_INJ_PERIOD (i : Nat) : Fld := ⟨Reg.DLN_ERR_INJ i, 0, 16⟩
def F.DLN_ERR_INJ_INJ_ONE (i : Nat) : Fld := ⟨Reg.DLN_ERR_INJ i, 31, 1⟩
def F.DLN_PRBS_ERR_LO_COUNT_L (i : Nat) : Fld := ⟨Reg.DLN_PRBS_ERR_LO i, 0, 32⟩
def F.DLN_PRBS_ERR_HI_COUNT_H (i : Nat) : Fld := ⟨Reg.DLN_PRBS_ERR_HI i, 0, 32⟩
def F.DLN_PRBS_BITS_LO_COUNT_L (i : Nat) : Fld := ⟨Reg.DLN_PRBS_BITS_LO i, 0, 32⟩
def F.DLN_PRBS_BITS_HI_COUNT_H (i : Nat) : Fld := ⟨Reg.DLN_PRBS_BITS_HI i, 0, 32⟩
def F.DLN_FE_SLIP_COUNT (i : Nat) : Fld := ⟨Reg.DLN_FE_SLIP i, 0, 32⟩
def F.ALN_INT_STATUS_LOS (i : Nat) : Fld := ⟨Reg.ALN_INT_STATUS i, 0, 1⟩
def F.ALN_INT_STATUS_SYNC_LOST (i : Nat) : Fld := ⟨Reg.ALN_INT_STATUS i, 1, 1⟩
def F.ALN_INT_STATUS_SYNC_ACQ (i : Nat) : Fld := ⟨Reg.ALN_INT_STATUS i, 2, 1⟩
def F.ALN_INT_STATUS_COMMA_MISPLACED (i : Nat) : Fld := ⟨Reg.ALN_INT_STATUS i, 3, 1⟩
def F.ALN_INT_STATUS_PRBS_LOST (i : Nat) : Fld := ⟨Reg.ALN_INT_STATUS i, 4, 1⟩
def F.ALN_INT_STATUS_CFG_REJECT (i : Nat) : Fld := ⟨Reg.ALN_INT_STATUS i, 5, 1⟩
def F.ALN_INT_STATUS_CNT_OVF (i : Nat) : Fld := ⟨Reg.ALN_INT_STATUS i, 6, 1⟩
def F.ALN_INT_STATUS_AN_DONE (i : Nat) : Fld := ⟨Reg.ALN_INT_STATUS i, 7, 1⟩
def F.ALN_INT_STATUS_TX_REF_CHANGE (i : Nat) : Fld := ⟨Reg.ALN_INT_STATUS i, 8, 1⟩
def F.ALN_CTRL_EN (i : Nat) : Fld := ⟨Reg.ALN_CTRL i, 0, 1⟩
def F.ALN_CTRL_RATE (i : Nat) : Fld := ⟨Reg.ALN_CTRL i, 1, 2⟩
def F.ALN_CTRL_MODE (i : Nat) : Fld := ⟨Reg.ALN_CTRL i, 4, 2⟩
def F.ALN_CTRL_TX_INV (i : Nat) : Fld := ⟨Reg.ALN_CTRL i, 6, 1⟩
def F.ALN_CTRL_RX_INV (i : Nat) : Fld := ⟨Reg.ALN_CTRL i, 7, 1⟩
def F.ALN_CTRL_LOOPBACK (i : Nat) : Fld := ⟨Reg.ALN_CTRL i, 8, 2⟩
def F.ALN_CTRL_AN_EN (i : Nat) : Fld := ⟨Reg.ALN_CTRL i, 10, 1⟩
def F.ALN_CTRL_TX_SQUELCH (i : Nat) : Fld := ⟨Reg.ALN_CTRL i, 11, 1⟩
def F.ALN_CTRL_RESYNC (i : Nat) : Fld := ⟨Reg.ALN_CTRL i, 12, 1⟩
def F.ALN_LANE_STATUS_SIGNAL (i : Nat) : Fld := ⟨Reg.ALN_LANE_STATUS i, 0, 1⟩
def F.ALN_LANE_STATUS_CDR_LOCK (i : Nat) : Fld := ⟨Reg.ALN_LANE_STATUS i, 1, 1⟩
def F.ALN_LANE_STATUS_SYNC (i : Nat) : Fld := ⟨Reg.ALN_LANE_STATUS i, 2, 1⟩
def F.ALN_LANE_STATUS_RD (i : Nat) : Fld := ⟨Reg.ALN_LANE_STATUS i, 3, 1⟩
def F.ALN_LANE_STATUS_BIT_SLIP (i : Nat) : Fld := ⟨Reg.ALN_LANE_STATUS i, 4, 5⟩
def F.ALN_LANE_STATUS_TXPLL_LOCK (i : Nat) : Fld := ⟨Reg.ALN_LANE_STATUS i, 9, 1⟩
def F.ALN_LANE_STATUS_TX_REF_BACKUP (i : Nat) : Fld := ⟨Reg.ALN_LANE_STATUS i, 10, 1⟩
def F.ALN_LANE_STATUS_PRBS_LOCKED (i : Nat) : Fld := ⟨Reg.ALN_LANE_STATUS i, 11, 1⟩
def F.ALN_LANE_STATUS_AN_COMPLETE (i : Nat) : Fld := ⟨Reg.ALN_LANE_STATUS i, 12, 1⟩
def F.ALN_PRBS_CTRL_GEN_PAT (i : Nat) : Fld := ⟨Reg.ALN_PRBS_CTRL i, 0, 4⟩
def F.ALN_PRBS_CTRL_CHK_PAT (i : Nat) : Fld := ⟨Reg.ALN_PRBS_CTRL i, 8, 4⟩
def F.ALN_PRBS_CTRL_CHK_RESEED (i : Nat) : Fld := ⟨Reg.ALN_PRBS_CTRL i, 16, 1⟩
def F.ALN_ERR_INJ_PERIOD (i : Nat) : Fld := ⟨Reg.ALN_ERR_INJ i, 0, 16⟩
def F.ALN_ERR_INJ_INJ_ONE (i : Nat) : Fld := ⟨Reg.ALN_ERR_INJ i, 31, 1⟩
def F.ALN_CODE_ERR_LO_COUNT_L (i : Nat) : Fld := ⟨Reg.ALN_CODE_ERR_LO i, 0, 32⟩
def F.ALN_CODE_ERR_HI_COUNT_H (i : Nat) : Fld := ⟨Reg.ALN_CODE_ERR_HI i, 0, 32⟩
def F.ALN_DISP_ERR_LO_COUNT_L (i : Nat) : Fld := ⟨Reg.ALN_DISP_ERR_LO i, 0, 32⟩
def F.ALN_DISP_ERR_HI_COUNT_H (i : Nat) : Fld := ⟨Reg.ALN_DISP_ERR_HI i, 0, 32⟩
def F.ALN_PRBS_ERR_LO_COUNT_L (i : Nat) : Fld := ⟨Reg.ALN_PRBS_ERR_LO i, 0, 32⟩
def F.ALN_PRBS_ERR_HI_COUNT_H (i : Nat) : Fld := ⟨Reg.ALN_PRBS_ERR_HI i, 0, 32⟩
def F.ALN_PRBS_BITS_LO_COUNT_L (i : Nat) : Fld := ⟨Reg.ALN_PRBS_BITS_LO i, 0, 32⟩
def F.ALN_PRBS_BITS_HI_COUNT_H (i : Nat) : Fld := ⟨Reg.ALN_PRBS_BITS_HI i, 0, 32⟩
def F.ALN_COMMA_MISPLACED_COUNT (i : Nat) : Fld := ⟨Reg.ALN_COMMA_MISPLACED i, 0, 32⟩
def F.TBASE_CTRL_FORMAT : Fld := ⟨Reg.TBASE_CTRL, 0, 2⟩
def F.TBASE_CTRL_HDR_IE : Fld := ⟨Reg.TBASE_CTRL, 31, 1⟩
def F.TBASE_INT_STATUS_CMD_DONE : Fld := ⟨Reg.TBASE_INT_STATUS, 0, 1⟩
def F.TBASE_INT_STATUS_CMD_LATE : Fld := ⟨Reg.TBASE_INT_STATUS, 1, 1⟩
def F.TBASE_INT_STATUS_CMD_BUSY : Fld := ⟨Reg.TBASE_INT_STATUS, 2, 1⟩
def F.TBASE_INT_STATUS_CMD_REJECT : Fld := ⟨Reg.TBASE_INT_STATUS, 3, 1⟩
def F.TBASE_INT_STATUS_INC_REJECT : Fld := ⟨Reg.TBASE_INT_STATUS, 4, 1⟩
def F.TBASE_INT_STATUS_SNAP_DONE : Fld := ⟨Reg.TBASE_INT_STATUS, 5, 1⟩
def F.TBASE_INT_STATUS_TXTS_AVAIL : Fld := ⟨Reg.TBASE_INT_STATUS, 6, 1⟩
def F.TBASE_INT_STATUS_TXTS_OVF : Fld := ⟨Reg.TBASE_INT_STATUS, 7, 1⟩
def F.TBASE_INT_STATUS_CNT_OVF : Fld := ⟨Reg.TBASE_INT_STATUS, 8, 1⟩
def F.TBASE_INT_STATUS_PPS_EDGE : Fld := ⟨Reg.TBASE_INT_STATUS, 9, 1⟩
def F.TBASE_INT_STATUS_OUT_REJECT : Fld := ⟨Reg.TBASE_INT_STATUS, 10, 1⟩
def F.TBASE_INT_STATUS_CF_SAT : Fld := ⟨Reg.TBASE_INT_STATUS, 11, 1⟩
def F.TBASE_INT_STATUS_NO_TRAILER : Fld := ⟨Reg.TBASE_INT_STATUS, 12, 1⟩
def F.TBASE_INT_STATUS_NOT_RUNNING : Fld := ⟨Reg.TBASE_INT_STATUS, 13, 1⟩
def F.TBASE_LIVE_RUNNING : Fld := ⟨Reg.TBASE_LIVE, 0, 1⟩
def F.TBASE_LIVE_DEGRADED : Fld := ⟨Reg.TBASE_LIVE, 1, 1⟩
def F.TBASE_LIVE_HOLDOVER : Fld := ⟨Reg.TBASE_LIVE, 2, 1⟩
def F.TBASE_LIVE_OUTAGE : Fld := ⟨Reg.TBASE_LIVE, 3, 1⟩
def F.TBASE_LIVE_EPOCH : Fld := ⟨Reg.TBASE_LIVE, 4, 2⟩
def F.TBASE_LIVE_CMD_PENDING : Fld := ⟨Reg.TBASE_LIVE, 6, 1⟩
def F.TBASE_LIVE_CMD_LOST : Fld := ⟨Reg.TBASE_LIVE, 7, 1⟩
def F.TBASE_INC_LO_INC_L : Fld := ⟨Reg.TBASE_INC_LO, 0, 32⟩
def F.TBASE_INC_HI_INC_H : Fld := ⟨Reg.TBASE_INC_HI, 0, 24⟩
def F.TBASE_INC_CUR_LO_INC_L : Fld := ⟨Reg.TBASE_INC_CUR_LO, 0, 32⟩
def F.TBASE_INC_CUR_HI_INC_H : Fld := ⟨Reg.TBASE_INC_CUR_HI, 0, 32⟩
def F.TBASE_STEP_LO_NS_L : Fld := ⟨Reg.TBASE_STEP_LO, 0, 32⟩
def F.TBASE_STEP_HI_NS_H : Fld := ⟨Reg.TBASE_STEP_HI, 0, 32⟩
def F.TBASE_STEP_SUB_SUBNS : Fld := ⟨Reg.TBASE_STEP_SUB, 0, 20⟩
def F.TBASE_LOAD0_SUBNS : Fld := ⟨Reg.TBASE_LOAD0, 0, 20⟩
def F.TBASE_LOAD1_W : Fld := ⟨Reg.TBASE_LOAD1, 0, 32⟩
def F.TBASE_LOAD2_W : Fld := ⟨Reg.TBASE_LOAD2, 0, 32⟩
def F.TBASE_LOAD3_W : Fld := ⟨Reg.TBASE_LOAD3, 0, 16⟩
def F.TBASE_ARM0_SUBNS : Fld := ⟨Reg.TBASE_ARM0, 0, 20⟩
def F.TBASE_ARM1_W : Fld := ⟨Reg.TBASE_ARM1, 0, 32⟩
def F.TBASE_ARM2_W : Fld := ⟨Reg.TBASE_ARM2, 0, 32⟩
def F.TBASE_ARM3_W : Fld := ⟨Reg.TBASE_ARM3, 0, 16⟩
def F.TBASE_CMD_APPLY_INC : Fld := ⟨Reg.TBASE_CMD, 0, 1⟩
def F.TBASE_CMD_STEP : Fld := ⟨Reg.TBASE_CMD, 1, 1⟩
def F.TBASE_CMD_LOAD : Fld := ⟨Reg.TBASE_CMD, 2, 1⟩
def F.TBASE_CMD_SNAP : Fld := ⟨Reg.TBASE_CMD, 3, 1⟩
def F.TBASE_CMD_CANCEL : Fld := ⟨Reg.TBASE_CMD, 4, 1⟩
def F.TBASE_CMD_CLR_OUTAGE : Fld := ⟨Reg.TBASE_CMD, 5, 1⟩
def F.TBASE_CMD_AT : Fld := ⟨Reg.TBASE_CMD, 8, 1⟩
def F.TBASE_SNAP_REC_REC (i : Nat) : Fld := ⟨Reg.TBASE_SNAP_REC i, 0, 32⟩
def F.TBASE_APPLIED_REC_REC (i : Nat) : Fld := ⟨Reg.TBASE_APPLIED_REC i, 0, 32⟩
def F.TBASE_TXTS_STATUS_LEVEL : Fld := ⟨Reg.TBASE_TXTS_STATUS, 0, 10⟩
def F.TBASE_TXTS_REC_REC (i : Nat) : Fld := ⟨Reg.TBASE_TXTS_REC i, 0, 32⟩
def F.TBASE_TXTS4_TAG : Fld := ⟨Reg.TBASE_TXTS4, 0, 16⟩
def F.TBASE_TXTS4_PORT : Fld := ⟨Reg.TBASE_TXTS4, 16, 9⟩
def F.TBASE_TXTS_POP_POP : Fld := ⟨Reg.TBASE_TXTS_POP, 0, 1⟩
def F.TBASE_TXTS_OVF_COUNT : Fld := ⟨Reg.TBASE_TXTS_OVF, 0, 32⟩
def F.TBASE_OUT_CTRL_EN (i : Nat) : Fld := ⟨Reg.TBASE_OUT_CTRL i, 0, 1⟩
def F.TBASE_OUT_CTRL_POL (i : Nat) : Fld := ⟨Reg.TBASE_OUT_CTRL i, 1, 1⟩
def F.TBASE_OUT_PERIOD_PERIOD (i : Nat) : Fld := ⟨Reg.TBASE_OUT_PERIOD i, 0, 32⟩
def F.TBASE_OUT_PHASE_PHASE (i : Nat) : Fld := ⟨Reg.TBASE_OUT_PHASE i, 0, 32⟩
def F.TBASE_OUT_WIDTH_WIDTH (i : Nat) : Fld := ⟨Reg.TBASE_OUT_WIDTH i, 0, 32⟩
def F.TBASE_OUT_DELAY_DELAY_PS (i : Nat) : Fld := ⟨Reg.TBASE_OUT_DELAY i, 0, 16⟩
def F.TBASE_OUT_OFFSET_LO_OFFSET_L (i : Nat) : Fld := ⟨Reg.TBASE_OUT_OFFSET_LO i, 0, 32⟩
def F.TBASE_OUT_OFFSET_HI_OFFSET_H (i : Nat) : Fld := ⟨Reg.TBASE_OUT_OFFSET_HI i, 0, 32⟩
def F.TBASE_OUT_CMD_REALIGN (i : Nat) : Fld := ⟨Reg.TBASE_OUT_CMD i, 0, 1⟩
def F.TBASE_PORT_TS_CTRL_RX_EN (i : Nat) : Fld := ⟨Reg.TBASE_PORT_TS_CTRL i, 0, 1⟩
def F.TBASE_PORT_TS_CTRL_TX_EN (i : Nat) : Fld := ⟨Reg.TBASE_PORT_TS_CTRL i, 1, 1⟩
def F.TBASE_PORT_TS_CTRL_ONESTEP_EN (i : Nat) : Fld := ⟨Reg.TBASE_PORT_TS_CTRL i, 2, 1⟩
def F.TBASE_PORT_RXFIX_RXFIX (i : Nat) : Fld := ⟨Reg.TBASE_PORT_RXFIX i, 0, 32⟩
def F.TBASE_PORT_TXFIX_TXFIX (i : Nat) : Fld := ⟨Reg.TBASE_PORT_TXFIX i, 0, 32⟩
def F.MET_INT_STATUS_XCHK_FAIL : Fld := ⟨Reg.MET_INT_STATUS, 0, 1⟩
def F.MET_INT_STATUS_PILOT_FAIL : Fld := ⟨Reg.MET_INT_STATUS, 1, 1⟩
def F.MET_INT_STATUS_CELL_OUT : Fld := ⟨Reg.MET_INT_STATUS, 2, 1⟩
def F.MET_INT_STATUS_UNRESOLVED : Fld := ⟨Reg.MET_INT_STATUS, 3, 1⟩
def F.MET_INT_STATUS_CD_DONE : Fld := ⟨Reg.MET_INT_STATUS, 4, 1⟩
def F.MET_INT_STATUS_CD_REJECT : Fld := ⟨Reg.MET_INT_STATUS, 5, 1⟩
def F.MET_INT_STATUS_TABLE_REJECT : Fld := ⟨Reg.MET_INT_STATUS, 6, 1⟩
def F.MET_INT_STATUS_SCHED_COMMIT : Fld := ⟨Reg.MET_INT_STATUS, 7, 1⟩
def F.MET_INT_STATUS_SCHED_REJECT : Fld := ⟨Reg.MET_INT_STATUS, 8, 1⟩
def F.MET_INT_STATUS_INVALIDATED : Fld := ⟨Reg.MET_INT_STATUS, 9, 1⟩
def F.MET_INT_STATUS_EXT_DONE : Fld := ⟨Reg.MET_INT_STATUS, 10, 1⟩
def F.MET_INT_STATUS_EXT_TIMEOUT : Fld := ⟨Reg.MET_INT_STATUS, 11, 1⟩
def F.MET_INT_STATUS_EXT_REJECT : Fld := ⟨Reg.MET_INT_STATUS, 12, 1⟩
def F.MET_INT_STATUS_EXT_REF_UP : Fld := ⟨Reg.MET_INT_STATUS, 13, 1⟩
def F.MET_INT_STATUS_EXT_REF_DOWN : Fld := ⟨Reg.MET_INT_STATUS, 14, 1⟩
def F.MET_INT_STATUS_TABLE_BUSY : Fld := ⟨Reg.MET_INT_STATUS, 15, 1⟩
def F.MET_INT_STATUS_FLOOR_ERR : Fld := ⟨Reg.MET_INT_STATUS, 16, 1⟩
def F.MET_INT_STATUS_ASYM_SAT : Fld := ⟨Reg.MET_INT_STATUS, 17, 1⟩
def F.MET_INT_STATUS_CNT_OVF : Fld := ⟨Reg.MET_INT_STATUS, 18, 1⟩
def F.MET_BANK_CTRL_ROUND_LEN : Fld := ⟨Reg.MET_BANK_CTRL, 0, 10⟩
def F.MET_BANK_CTRL_COMMIT : Fld := ⟨Reg.MET_BANK_CTRL, 16, 1⟩
def F.MET_BANK_STATUS_ROUND_ACTIVE : Fld := ⟨Reg.MET_BANK_STATUS, 0, 10⟩
def F.MET_BANK_STATUS_LOAD : Fld := ⟨Reg.MET_BANK_STATUS, 16, 8⟩
def F.MET_BANK_STATUS_COMMIT_PENDING : Fld := ⟨Reg.MET_BANK_STATUS, 24, 1⟩
def F.MET_TCNT_COUNT : Fld := ⟨Reg.MET_TCNT, 0, 32⟩
def F.MET_XCHK_CTRL_LIMIT_PS : Fld := ⟨Reg.MET_XCHK_CTRL, 0, 8⟩
def F.MET_XCHK_CTRL_PILOT_LIMIT_PS : Fld := ⟨Reg.MET_XCHK_CTRL, 8, 8⟩
def F.MET_XCHK_CTRL_COUNT : Fld := ⟨Reg.MET_XCHK_CTRL, 16, 4⟩
def F.MET_XCHK_STATUS_PAIR : Fld := ⟨Reg.MET_XCHK_STATUS, 0, 4⟩
def F.MET_XCHK_STATUS_CELL : Fld := ⟨Reg.MET_XCHK_STATUS, 4, 5⟩
def F.MET_CELL_OUT_OUT : Fld := ⟨Reg.MET_CELL_OUT, 0, 32⟩
def F.MET_CELL_PROOF_PROOF : Fld := ⟨Reg.MET_CELL_PROOF, 0, 32⟩
def F.MET_CELL_RETURN_RETURN : Fld := ⟨Reg.MET_CELL_RETURN, 0, 32⟩
def F.MET_CD_START_START : Fld := ⟨Reg.MET_CD_START, 0, 32⟩
def F.MET_CD_BUSY_BUSY : Fld := ⟨Reg.MET_CD_BUSY, 0, 32⟩
def F.MET_CD_SPAN_SPAN : Fld := ⟨Reg.MET_CD_SPAN, 0, 21⟩
def F.MET_CD_MAXSHIFT_MAXSHIFT : Fld := ⟨Reg.MET_CD_MAXSHIFT, 0, 20⟩
def F.MET_TABLE_LOAD_LOAD : Fld := ⟨Reg.MET_TABLE_LOAD, 0, 32⟩
def F.MET_EXT_CTRL_EN : Fld := ⟨Reg.MET_EXT_CTRL, 0, 1⟩
def F.MET_EXT_CTRL_GATE_MODE : Fld := ⟨Reg.MET_EXT_CTRL, 1, 1⟩
def F.MET_EXT_CTRL_START_POL : Fld := ⟨Reg.MET_EXT_CTRL, 2, 1⟩
def F.MET_EXT_CTRL_STOP_POL : Fld := ⟨Reg.MET_EXT_CTRL, 3, 1⟩
def F.MET_EXT_CTRL_STOP_SRC : Fld := ⟨Reg.MET_EXT_CTRL, 4, 1⟩
def F.MET_EXT_REF_PMIN : Fld := ⟨Reg.MET_EXT_REF, 0, 16⟩
def F.MET_EXT_REF_PMAX : Fld := ⟨Reg.MET_EXT_REF, 16, 16⟩
def F.MET_EXT_TIMEOUT_US : Fld := ⟨Reg.MET_EXT_TIMEOUT, 0, 16⟩
def F.MET_EXT_STATUS_REF_PRESENT : Fld := ⟨Reg.MET_EXT_STATUS, 0, 1⟩
def F.MET_EXT_STATUS_ARMED : Fld := ⟨Reg.MET_EXT_STATUS, 1, 1⟩
def F.MET_EXT_STATUS_LEVEL : Fld := ⟨Reg.MET_EXT_STATUS, 2, 5⟩
def F.MET_EXT_CMD_ARM : Fld := ⟨Reg.MET_EXT_CMD, 0, 1⟩
def F.MET_EXT_CMD_ABANDON : Fld := ⟨Reg.MET_EXT_CMD, 1, 1⟩
def F.MET_EXT_CMD_POP : Fld := ⟨Reg.MET_EXT_CMD, 2, 1⟩
def F.MET_EXT_RES_REC (i : Nat) : Fld := ⟨Reg.MET_EXT_RES i, 0, 32⟩
def F.MET_CELL_STATUS_STATE (i : Nat) : Fld := ⟨Reg.MET_CELL_STATUS i, 0, 2⟩
def F.MET_CELL_STATUS_NOMINAL (i : Nat) : Fld := ⟨Reg.MET_CELL_STATUS i, 2, 1⟩
def F.MET_CELL_STATUS_CD_ACCEPT (i : Nat) : Fld := ⟨Reg.MET_CELL_STATUS i, 3, 1⟩
def F.MET_CELL_FLOOR_FLOOR (i : Nat) : Fld := ⟨Reg.MET_CELL_FLOOR i, 0, 12⟩
def F.MET_CELL_RESULTS_LO_COUNT_L (i : Nat) : Fld := ⟨Reg.MET_CELL_RESULTS_LO i, 0, 32⟩
def F.MET_CELL_RESULTS_HI_COUNT_H (i : Nat) : Fld := ⟨Reg.MET_CELL_RESULTS_HI i, 0, 32⟩
def F.MET_CELL_INVALID_COUNT (i : Nat) : Fld := ⟨Reg.MET_CELL_INVALID i, 0, 32⟩
def F.MET_CELL_PILOT_MEAN (i : Nat) : Fld := ⟨Reg.MET_CELL_PILOT i, 0, 31⟩
def F.MET_CELL_CD_CD_RESULT (i : Nat) : Fld := ⟨Reg.MET_CELL_CD i, 0, 3⟩
def F.MET_CELL_CD_LO (i : Nat) : Fld := ⟨Reg.MET_CELL_CD i, 4, 12⟩
def F.MET_CELL_CD_HI (i : Nat) : Fld := ⟨Reg.MET_CELL_CD i, 16, 12⟩
def F.MET_CELL_CD_MISSING (i : Nat) : Fld := ⟨Reg.MET_CELL_CD i, 28, 4⟩
def F.MET_SRC_CFG_TYPE (i : Nat) : Fld := ⟨Reg.MET_SRC_CFG i, 0, 3⟩
def F.MET_SRC_CFG_LANE (i : Nat) : Fld := ⟨Reg.MET_SRC_CFG i, 16, 10⟩
def F.MET_SRC_LAST_PHASE (i : Nat) : Fld := ⟨Reg.MET_SRC_LAST i, 0, 20⟩
def F.MET_SRC_LAST_CELL (i : Nat) : Fld := ⟨Reg.MET_SRC_LAST i, 20, 5⟩
def F.MET_SRC_LAST_VALID (i : Nat) : Fld := ⟨Reg.MET_SRC_LAST i, 25, 1⟩
def F.MET_SRC_LAST_SOLO (i : Nat) : Fld := ⟨Reg.MET_SRC_LAST i, 26, 1⟩
def F.MET_SRC_LAST_SUSPECT (i : Nat) : Fld := ⟨Reg.MET_SRC_LAST i, 27, 1⟩
def F.MET_SRC_LAST_NO_EDGE (i : Nat) : Fld := ⟨Reg.MET_SRC_LAST i, 28, 1⟩
def F.MET_SRC_LAST_UNCAL (i : Nat) : Fld := ⟨Reg.MET_SRC_LAST i, 29, 1⟩
def F.MET_SRC_LAST_STALE (i : Nat) : Fld := ⟨Reg.MET_SRC_LAST i, 30, 1⟩
def F.MET_SRC_COARSE_COARSE (i : Nat) : Fld := ⟨Reg.MET_SRC_COARSE i, 0, 32⟩
def F.MET_SRC_MEAN_MEAN (i : Nat) : Fld := ⟨Reg.MET_SRC_MEAN i, 0, 31⟩
def F.MET_SRC_MEAN_VALID (i : Nat) : Fld := ⟨Reg.MET_SRC_MEAN i, 31, 1⟩
def F.MET_SCHED_SLOT (i : Nat) : Fld := ⟨Reg.MET_SCHED i, 0, 10⟩
def F.MET_SCHED_USE (i : Nat) : Fld := ⟨Reg.MET_SCHED i, 31, 1⟩
def F.MET_PORT_ASYM_COEF_COEF (i : Nat) : Fld := ⟨Reg.MET_PORT_ASYM_COEF i, 0, 32⟩
def F.MET_PORT_MPD_MPD (i : Nat) : Fld := ⟨Reg.MET_PORT_MPD i, 0, 32⟩
def F.MET_PORT_ASYM_ASYM (i : Nat) : Fld := ⟨Reg.MET_PORT_ASYM i, 0, 32⟩
def F.LOOP_INT_STATUS_MPLL_LOL : Fld := ⟨Reg.LOOP_INT_STATUS, 0, 1⟩
def F.LOOP_INT_STATUS_MPLL_LOCK : Fld := ⟨Reg.LOOP_INT_STATUS, 1, 1⟩
def F.LOOP_INT_STATUS_MPLL_FAIL : Fld := ⟨Reg.LOOP_INT_STATUS, 2, 1⟩
def F.LOOP_INT_STATUS_BAND_MARGIN : Fld := ⟨Reg.LOOP_INT_STATUS, 3, 1⟩
def F.LOOP_INT_STATUS_XO_LOSS : Fld := ⟨Reg.LOOP_INT_STATUS, 4, 1⟩
def F.LOOP_INT_STATUS_XO_RETURN : Fld := ⟨Reg.LOOP_INT_STATUS, 5, 1⟩
def F.LOOP_INT_STATUS_HANDBACK : Fld := ⟨Reg.LOOP_INT_STATUS, 6, 1⟩
def F.LOOP_INT_STATUS_REF_SWITCH : Fld := ⟨Reg.LOOP_INT_STATUS, 7, 1⟩
def F.LOOP_INT_STATUS_HOLDOVER_ENTER : Fld := ⟨Reg.LOOP_INT_STATUS, 8, 1⟩
def F.LOOP_INT_STATUS_HOLDOVER_EXIT : Fld := ⟨Reg.LOOP_INT_STATUS, 9, 1⟩
def F.LOOP_INT_STATUS_LOCKED : Fld := ⟨Reg.LOOP_INT_STATUS, 10, 1⟩
def F.LOOP_INT_STATUS_REF_DISPUTE : Fld := ⟨Reg.LOOP_INT_STATUS, 11, 1⟩
def F.LOOP_INT_STATUS_REF_PHASE_DISPUTE : Fld := ⟨Reg.LOOP_INT_STATUS, 12, 1⟩
def F.LOOP_INT_STATUS_QUALITY_CHANGE : Fld := ⟨Reg.LOOP_INT_STATUS, 13, 1⟩
def F.LOOP_INT_STATUS_SLEW_DONE : Fld := ⟨Reg.LOOP_INT_STATUS, 14, 1⟩
def F.LOOP_INT_STATUS_CMD_REFUSED : Fld := ⟨Reg.LOOP_INT_STATUS, 15, 1⟩
def F.LOOP_INT_STATUS_FREQ_CLAMP : Fld := ⟨Reg.LOOP_INT_STATUS, 16, 1⟩
def F.LOOP_INT_STATUS_CFG_REJECT : Fld := ⟨Reg.LOOP_INT_STATUS, 17, 1⟩
def F.LOOP_INT_STATUS_CLKOUT_REJECT : Fld := ⟨Reg.LOOP_INT_STATUS, 18, 1⟩
def F.LOOP_INT_STATUS_CNT_OVF : Fld := ⟨Reg.LOOP_INT_STATUS, 19, 1⟩
def F.LOOP_CTRL_MODE : Fld := ⟨Reg.LOOP_CTRL, 0, 2⟩
def F.LOOP_CTRL_REVERTIVE : Fld := ⟨Reg.LOOP_CTRL, 2, 1⟩
def F.LOOP_CTRL_FAST_ACQ : Fld := ⟨Reg.LOOP_CTRL, 3, 1⟩
def F.LOOP_CTRL_FORCE_REF : Fld := ⟨Reg.LOOP_CTRL, 4, 5⟩
def F.LOOP_STATUS_STATE : Fld := ⟨Reg.LOOP_STATUS, 0, 3⟩
def F.LOOP_STATUS_SELECTED : Fld := ⟨Reg.LOOP_STATUS, 3, 5⟩
def F.LOOP_STATUS_TARGET : Fld := ⟨Reg.LOOP_STATUS, 8, 5⟩
def F.LOOP_STATUS_ADV_QUALITY : Fld := ⟨Reg.LOOP_STATUS, 13, 3⟩
def F.LOOP_STATUS_HO_READY : Fld := ⟨Reg.LOOP_STATUS, 16, 1⟩
def F.LOOP_STATUS_DISPUTE : Fld := ⟨Reg.LOOP_STATUS, 17, 1⟩
def F.LOOP_STATUS_DISPUTE_REF : Fld := ⟨Reg.LOOP_STATUS, 18, 5⟩
def F.LOOP_STATUS_FREQ_CLAMP : Fld := ⟨Reg.LOOP_STATUS, 23, 1⟩
def F.LOOP_STATUS_TCLK_KEEPER : Fld := ⟨Reg.LOOP_STATUS, 24, 1⟩
def F.LOOP_STATUS_LANE_BACKUP : Fld := ⟨Reg.LOOP_STATUS, 25, 1⟩
def F.LOOP_BW_BW : Fld := ⟨Reg.LOOP_BW, 0, 17⟩
def F.LOOP_BW_DAMP : Fld := ⟨Reg.LOOP_BW, 17, 7⟩
def F.LOOP_BW_ACQ_BW : Fld := ⟨Reg.LOOP_BW, 24, 8⟩
def F.LOOP_SLOPE_SLOPE : Fld := ⟨Reg.LOOP_SLOPE, 0, 20⟩
def F.LOOP_PHASE_ACCEPT_ACCEPT : Fld := ⟨Reg.LOOP_PHASE_ACCEPT, 0, 32⟩
def F.LOOP_FREQ_DISAGREE_DISAGREE : Fld := ⟨Reg.LOOP_FREQ_DISAGREE, 0, 16⟩
def F.LOOP_FREQ_LIMIT_LIMIT : Fld := ⟨Reg.LOOP_FREQ_LIMIT, 0, 18⟩
def F.LOOP_JUMP_LIMIT_LIMIT : Fld := ⟨Reg.LOOP_JUMP_LIMIT, 0, 16⟩
def F.LOOP_FREQ_LO_Y_L : Fld := ⟨Reg.LOOP_FREQ_LO, 0, 32⟩
def F.LOOP_FREQ_HI_Y_H : Fld := ⟨Reg.LOOP_FREQ_HI, 0, 8⟩
def F.LOOP_HO_CTRL_AVG_S : Fld := ⟨Reg.LOOP_HO_CTRL, 0, 14⟩
def F.LOOP_HO_CTRL_GUARD_S : Fld := ⟨Reg.LOOP_HO_CTRL, 16, 8⟩
def F.LOOP_HO_CTRL_DRIFT_EN : Fld := ⟨Reg.LOOP_HO_CTRL, 24, 1⟩
def F.LOOP_HO_FREQ_LO_Y_L : Fld := ⟨Reg.LOOP_HO_FREQ_LO, 0, 32⟩
def F.LOOP_HO_FREQ_HI_Y_H : Fld := ⟨Reg.LOOP_HO_FREQ_HI, 0, 8⟩
def F.LOOP_HO_DRIFT_A : Fld := ⟨Reg.LOOP_HO_DRIFT, 0, 32⟩
def F.LOOP_HO_TIME_SECONDS : Fld := ⟨Reg.LOOP_HO_TIME, 0, 32⟩
def F.LOOP_PHASE_ADJ_A : Fld := ⟨Reg.LOOP_PHASE_ADJ, 0, 32⟩
def F.LOOP_CMD_DISPUTE_SLOPE : Fld := ⟨Reg.LOOP_CMD, 0, 1⟩
def F.LOOP_CMD_DISPUTE_STEP : Fld := ⟨Reg.LOOP_CMD, 1, 1⟩
def F.LOOP_CMD_DISPUTE_REJECT : Fld := ⟨Reg.LOOP_CMD, 2, 1⟩
def F.LOOP_CMD_ADJ_GO : Fld := ⟨Reg.LOOP_CMD, 3, 1⟩
def F.LOOP_CMD_MPLL_RELOCK : Fld := ⟨Reg.LOOP_CMD, 4, 1⟩
def F.LOOP_CMD_CLR_HISTORY : Fld := ⟨Reg.LOOP_CMD, 5, 1⟩
def F.LOOP_MPLL_CTRL_GUARD_US : Fld := ⟨Reg.LOOP_MPLL_CTRL, 0, 16⟩
def F.LOOP_MPLL_STATUS_LOCKED : Fld := ⟨Reg.LOOP_MPLL_STATUS, 0, 1⟩
def F.LOOP_MPLL_STATUS_SEARCHING : Fld := ⟨Reg.LOOP_MPLL_STATUS, 1, 1⟩
def F.LOOP_MPLL_STATUS_FAILED : Fld := ⟨Reg.LOOP_MPLL_STATUS, 2, 1⟩
def F.LOOP_MPLL_STATUS_BAND : Fld := ⟨Reg.LOOP_MPLL_STATUS, 4, 6⟩
def F.LOOP_MPLL_STATUS_VTUNE : Fld := ⟨Reg.LOOP_MPLL_STATUS, 16, 8⟩
def F.LOOP_LOL_COUNT_COUNT : Fld := ⟨Reg.LOOP_LOL_COUNT, 0, 32⟩
def F.LOOP_LOCK_A_EN : Fld := ⟨Reg.LOOP_LOCK_A, 0, 1⟩
def F.LOOP_LOCK_A_DENSITY : Fld := ⟨Reg.LOOP_LOCK_A, 4, 4⟩
def F.LOOP_LOCK_A_FULL_PS : Fld := ⟨Reg.LOOP_LOCK_A, 8, 24⟩
def F.LOOP_BT_LO_NS_L : Fld := ⟨Reg.LOOP_BT_LO, 0, 32⟩
def F.LOOP_BT_HI_NS_H : Fld := ⟨Reg.LOOP_BT_HI, 0, 32⟩
def F.LOOP_BT_SUB_SUB : Fld := ⟨Reg.LOOP_BT_SUB, 0, 16⟩
def F.LOOP_BC_BC : Fld := ⟨Reg.LOOP_BC, 0, 32⟩
def F.LOOP_REF_INT_STATUS_REF_CHANGE : Fld := ⟨Reg.LOOP_REF_INT_STATUS, 0, 23⟩
def F.LOOP_REF_INT_STATUS_REF_JUMP : Fld := ⟨Reg.LOOP_REF_INT_STATUS, 23, 1⟩
def F.LOOP_REF_CFG_EN (i : Nat) : Fld := ⟨Reg.LOOP_REF_CFG i, 0, 1⟩
def F.LOOP_REF_CFG_RANK (i : Nat) : Fld := ⟨Reg.LOOP_REF_CFG i, 1, 4⟩
def F.LOOP_REF_CFG_SLOT (i : Nat) : Fld := ⟨Reg.LOOP_REF_CFG i, 6, 10⟩
def F.LOOP_REF_CFG_QUAL_S (i : Nat) : Fld := ⟨Reg.LOOP_REF_CFG i, 16, 10⟩
def F.LOOP_REF_FREQ_HZ_HZ (i : Nat) : Fld := ⟨Reg.LOOP_REF_FREQ_HZ i, 0, 29⟩
def F.LOOP_REF_DELAY_DELAY (i : Nat) : Fld := ⟨Reg.LOOP_REF_DELAY i, 0, 32⟩
def F.LOOP_REF_TOL_TOL (i : Nat) : Fld := ⟨Reg.LOOP_REF_TOL i, 0, 17⟩
def F.LOOP_REF_STATUS_STATE (i : Nat) : Fld := ⟨Reg.LOOP_REF_STATUS i, 0, 3⟩
def F.LOOP_REF_STATUS_PRESENT (i : Nat) : Fld := ⟨Reg.LOOP_REF_STATUS i, 3, 1⟩
def F.LOOP_REF_STATUS_CAUSE (i : Nat) : Fld := ⟨Reg.LOOP_REF_STATUS i, 4, 3⟩
def F.LOOP_REF_STATUS_QUAL_LEFT_S (i : Nat) : Fld := ⟨Reg.LOOP_REF_STATUS i, 8, 12⟩
def F.LOOP_REF_PHASE_E (i : Nat) : Fld := ⟨Reg.LOOP_REF_PHASE i, 0, 32⟩
def F.LOOP_REF_FREQ_Y (i : Nat) : Fld := ⟨Reg.LOOP_REF_FREQ i, 0, 32⟩
def F.LOOP_REF_JUMP_DEV (i : Nat) : Fld := ⟨Reg.LOOP_REF_JUMP i, 0, 32⟩
def F.LOOP_REF_ENTRY_PHASE_E (i : Nat) : Fld := ⟨Reg.LOOP_REF_ENTRY_PHASE i, 0, 32⟩
def F.LOOP_REF_CMD_DISQUALIFY (i : Nat) : Fld := ⟨Reg.LOOP_REF_CMD i, 0, 1⟩
def F.LOOP_REF_CMD_RESTORE (i : Nat) : Fld := ⟨Reg.LOOP_REF_CMD i, 1, 1⟩
def F.LOOP_CLKOUT_CTRL_EN (i : Nat) : Fld := ⟨Reg.LOOP_CLKOUT_CTRL i, 0, 1⟩
def F.LOOP_CLKOUT_CTRL_ON_UNLOCK (i : Nat) : Fld := ⟨Reg.LOOP_CLKOUT_CTRL i, 1, 1⟩
def F.LOOP_CLKOUT_CTRL_REALIGN (i : Nat) : Fld := ⟨Reg.LOOP_CLKOUT_CTRL i, 2, 1⟩
def F.LOOP_CLKOUT_DIV_DIV (i : Nat) : Fld := ⟨Reg.LOOP_CLKOUT_DIV i, 0, 16⟩
def F.LOOP_CLKOUT_PHASE_PHASE_PS (i : Nat) : Fld := ⟨Reg.LOOP_CLKOUT_PHASE i, 0, 32⟩
def F.SKY_CTRL_EN : Fld := ⟨Reg.SKY_CTRL, 0, 1⟩
def F.SKY_CTRL_L1_EN : Fld := ⟨Reg.SKY_CTRL, 1, 1⟩
def F.SKY_CTRL_L5_EN : Fld := ⟨Reg.SKY_CTRL, 2, 1⟩
def F.SKY_CTRL_Q_INV1 : Fld := ⟨Reg.SKY_CTRL, 3, 1⟩
def F.SKY_CTRL_Q_INV5 : Fld := ⟨Reg.SKY_CTRL, 4, 1⟩
def F.SKY_CTRL_HDR_IE : Fld := ⟨Reg.SKY_CTRL, 31, 1⟩
def F.SKY_INT_STATUS_TIME_VALID_SET : Fld := ⟨Reg.SKY_INT_STATUS, 0, 1⟩
def F.SKY_INT_STATUS_TIME_VALID_LOST : Fld := ⟨Reg.SKY_INT_STATUS, 1, 1⟩
def F.SKY_INT_STATUS_ALL_LOST : Fld := ⟨Reg.SKY_INT_STATUS, 2, 1⟩
def F.SKY_INT_STATUS_FIX_FAIL : Fld := ⟨Reg.SKY_INT_STATUS, 3, 1⟩
def F.SKY_INT_STATUS_FIX_DISCARD : Fld := ⟨Reg.SKY_INT_STATUS, 4, 1⟩
def F.SKY_INT_STATUS_RING_TICK : Fld := ⟨Reg.SKY_INT_STATUS, 5, 1⟩
def F.SKY_INT_STATUS_RING_FULL : Fld := ⟨Reg.SKY_INT_STATUS, 6, 1⟩
def F.SKY_INT_STATUS_NAV_FAIL : Fld := ⟨Reg.SKY_INT_STATUS, 7, 1⟩
def F.SKY_INT_STATUS_SNAP_DONE : Fld := ⟨Reg.SKY_INT_STATUS, 8, 1⟩
def F.SKY_INT_STATUS_CLK_FAULT : Fld := ⟨Reg.SKY_INT_STATUS, 9, 1⟩
def F.SKY_INT_STATUS_AUX_EDGE : Fld := ⟨Reg.SKY_INT_STATUS, 10, 1⟩
def F.SKY_INT_STATUS_CNT_OVF : Fld := ⟨Reg.SKY_INT_STATUS, 11, 1⟩
def F.SKY_INT_STATUS_CFG_REJECT : Fld := ⟨Reg.SKY_INT_STATUS, 12, 1⟩
def F.SKY_LIVE_TIME_VALID : Fld := ⟨Reg.SKY_LIVE, 0, 1⟩
def F.SKY_LIVE_TIME_STALE : Fld := ⟨Reg.SKY_LIVE, 1, 1⟩
def F.SKY_LIVE_CLK_OK : Fld := ⟨Reg.SKY_LIVE, 2, 1⟩
def F.SKY_LIVE_SNAP_BUSY : Fld := ⟨Reg.SKY_LIVE, 3, 1⟩
def F.SKY_LIVE_LOCKED_COUNT : Fld := ⟨Reg.SKY_LIVE, 8, 8⟩
def F.SKY_CLK_HZ_HZ : Fld := ⟨Reg.SKY_CLK_HZ, 0, 32⟩
def F.SKY_CLK_MEAS_HZ : Fld := ⟨Reg.SKY_CLK_MEAS, 0, 32⟩
def F.SKY_SAMPLE_COUNT_COUNT : Fld := ⟨Reg.SKY_SAMPLE_COUNT, 0, 32⟩
def F.SKY_EPOCH_SAMPLES_SAMPLES : Fld := ⟨Reg.SKY_EPOCH_SAMPLES, 0, 24⟩
def F.SKY_RING_BASE_BASE : Fld := ⟨Reg.SKY_RING_BASE, 0, 22⟩
def F.SKY_RING_LEN_LOG2 : Fld := ⟨Reg.SKY_RING_LEN, 0, 4⟩
def F.SKY_RING_WR_WR : Fld := ⟨Reg.SKY_RING_WR, 0, 14⟩
def F.SKY_RING_RD_RD : Fld := ⟨Reg.SKY_RING_RD, 0, 14⟩
def F.SKY_RING_IRQ_TICK_MS : Fld := ⟨Reg.SKY_RING_IRQ, 0, 8⟩
def F.SKY_RING_DROP_COUNT : Fld := ⟨Reg.SKY_RING_DROP, 0, 32⟩
def F.SKY_FIX_FAIL_COUNT : Fld := ⟨Reg.SKY_FIX_FAIL, 0, 32⟩
def F.SKY_SNAP_CTRL_BAND : Fld := ⟨Reg.SKY_SNAP_CTRL, 0, 1⟩
def F.SKY_SNAP_CTRL_LEN_MS : Fld := ⟨Reg.SKY_SNAP_CTRL, 8, 5⟩
def F.SKY_SNAP_CTRL_GO : Fld := ⟨Reg.SKY_SNAP_CTRL, 31, 1⟩
def F.SKY_SNAP_BASE_BASE : Fld := ⟨Reg.SKY_SNAP_BASE, 0, 22⟩
def F.SKY_SNAP_START_COUNT : Fld := ⟨Reg.SKY_SNAP_START, 0, 32⟩
def F.SKY_CHECK_MIN_SATS : Fld := ⟨Reg.SKY_CHECK, 0, 6⟩
def F.SKY_CHECK_PASS_RUN : Fld := ⟨Reg.SKY_CHECK, 8, 4⟩
def F.SKY_CHECK_RATE_LIMIT : Fld := ⟨Reg.SKY_CHECK, 16, 16⟩
def F.SKY_CLK_LIMIT_PS : Fld := ⟨Reg.SKY_CLK_LIMIT, 0, 32⟩
def F.SKY_TUNC_MAX_PS : Fld := ⟨Reg.SKY_TUNC_MAX, 0, 32⟩
def F.SKY_FIX_TIMEOUT_MS : Fld := ⟨Reg.SKY_FIX_TIMEOUT, 0, 16⟩
def F.SKY_REQUAL_SECONDS : Fld := ⟨Reg.SKY_REQUAL, 0, 12⟩
def F.SKY_FIX_T_REC (i : Nat) : Fld := ⟨Reg.SKY_FIX_T i, 0, 32⟩
def F.SKY_FIX_OFFSET_LO_O_L : Fld := ⟨Reg.SKY_FIX_OFFSET_LO, 0, 32⟩
def F.SKY_FIX_OFFSET_HI_O_H : Fld := ⟨Reg.SKY_FIX_OFFSET_HI, 0, 32⟩
def F.SKY_FIX_RATE_R : Fld := ⟨Reg.SKY_FIX_RATE, 0, 32⟩
def F.SKY_FIX_INFO_NSAT : Fld := ⟨Reg.SKY_FIX_INFO, 0, 6⟩
def F.SKY_FIX_INFO_RAIM_OK : Fld := ⟨Reg.SKY_FIX_INFO, 8, 1⟩
def F.SKY_FIX_INFO_XSIG_OK : Fld := ⟨Reg.SKY_FIX_INFO, 9, 1⟩
def F.SKY_FIX_INFO_GPS : Fld := ⟨Reg.SKY_FIX_INFO, 10, 1⟩
def F.SKY_FIX_INFO_GAL : Fld := ⟨Reg.SKY_FIX_INFO, 11, 1⟩
def F.SKY_FIX_INFO_TUNC : Fld := ⟨Reg.SKY_FIX_INFO, 12, 20⟩
def F.SKY_FIX_CMD_SUBMIT : Fld := ⟨Reg.SKY_FIX_CMD, 0, 1⟩
def F.SKY_FIX_STATUS_RESULT : Fld := ⟨Reg.SKY_FIX_STATUS, 0, 4⟩
def F.SKY_FIX_STATUS_RUN : Fld := ⟨Reg.SKY_FIX_STATUS, 4, 4⟩
def F.SKY_FIX_STATUS_PRED : Fld := ⟨Reg.SKY_FIX_STATUS, 8, 1⟩
def F.SKY_TIME_REC (i : Nat) : Fld := ⟨Reg.SKY_TIME i, 0, 32⟩
def F.SKY_AUX_STAMP_REC (i : Nat) : Fld := ⟨Reg.SKY_AUX_STAMP i, 0, 32⟩
def F.PRF_CTRL_EN : Fld := ⟨Reg.PRF_CTRL, 0, 1⟩
def F.PRF_CTRL_TEMP_EN : Fld := ⟨Reg.PRF_CTRL, 1, 1⟩
def F.PRF_CTRL_TRACE : Fld := ⟨Reg.PRF_CTRL, 2, 1⟩
def F.PRF_CTRL_FORCE_MODE : Fld := ⟨Reg.PRF_CTRL, 3, 2⟩
def F.PRF_CTRL_HOLD_PAIRS : Fld := ⟨Reg.PRF_CTRL, 5, 5⟩
def F.PRF_CTRL_RETRY : Fld := ⟨Reg.PRF_CTRL, 10, 2⟩
def F.PRF_CTRL_HDR_IE : Fld := ⟨Reg.PRF_CTRL, 31, 1⟩
def F.PRF_INT_STATUS_RUN_START : Fld := ⟨Reg.PRF_INT_STATUS, 0, 1⟩
def F.PRF_INT_STATUS_RUN_DONE : Fld := ⟨Reg.PRF_INT_STATUS, 1, 1⟩
def F.PRF_INT_STATUS_RUN_ABANDON : Fld := ⟨Reg.PRF_INT_STATUS, 2, 1⟩
def F.PRF_INT_STATUS_CELL_REJECT : Fld := ⟨Reg.PRF_INT_STATUS, 3, 1⟩
def F.PRF_INT_STATUS_CELL_FAIL : Fld := ⟨Reg.PRF_INT_STATUS, 4, 1⟩
def F.PRF_INT_STATUS_HOST_CONFLICT : Fld := ⟨Reg.PRF_INT_STATUS, 5, 1⟩
def F.PRF_INT_STATUS_CNT_OVF : Fld := ⟨Reg.PRF_INT_STATUS, 6, 1⟩
def F.PRF_TRIG_DELTA_T : Fld := ⟨Reg.PRF_TRIG, 0, 8⟩
def F.PRF_TRIG_MAX_INTERVAL_S : Fld := ⟨Reg.PRF_TRIG, 16, 16⟩
def F.PRF_CMD_START : Fld := ⟨Reg.PRF_CMD, 0, 1⟩
def F.PRF_CMD_ABORT : Fld := ⟨Reg.PRF_CMD, 1, 1⟩
def F.PRF_CMD_CLR_PENDING : Fld := ⟨Reg.PRF_CMD, 2, 1⟩
def F.PRF_LIVE_STATE : Fld := ⟨Reg.PRF_LIVE, 0, 2⟩
def F.PRF_LIVE_PENDING : Fld := ⟨Reg.PRF_LIVE, 2, 1⟩
def F.PRF_LIVE_LAST_OK : Fld := ⟨Reg.PRF_LIVE, 3, 1⟩
def F.PRF_LIVE_CAUSE : Fld := ⟨Reg.PRF_LIVE, 8, 5⟩
def F.PRF_LIVE_PAIRS_DONE : Fld := ⟨Reg.PRF_LIVE, 16, 5⟩
def F.PRF_TEMP_NOW : Fld := ⟨Reg.PRF_TEMP, 0, 12⟩
def F.PRF_TEMP_REF : Fld := ⟨Reg.PRF_TEMP, 16, 12⟩
def F.PRF_TEMP_REF_VALID : Fld := ⟨Reg.PRF_TEMP, 28, 1⟩
def F.PRF_DONE_MASK_CELLS : Fld := ⟨Reg.PRF_DONE_MASK, 0, 32⟩
def F.PRF_REJECT_MASK_CELLS : Fld := ⟨Reg.PRF_REJECT_MASK, 0, 32⟩
def F.PRF_SKIP_MASK_CELLS : Fld := ⟨Reg.PRF_SKIP_MASK, 0, 32⟩
def F.PRF_LAST_MS_MS : Fld := ⟨Reg.PRF_LAST_MS, 0, 32⟩
def F.PRF_RUN_COUNT_COUNT : Fld := ⟨Reg.PRF_RUN_COUNT, 0, 32⟩
def F.PRF_ABANDON_COUNT_COUNT : Fld := ⟨Reg.PRF_ABANDON_COUNT, 0, 32⟩
def F.PRF_LAST_DONE_REC (i : Nat) : Fld := ⟨Reg.PRF_LAST_DONE i, 0, 32⟩
def F.ALN_RX_FRAMES_COUNT (i : Nat) : Fld := ⟨Reg.ALN_RX_FRAMES i, 0, 32⟩
def F.ALN_RX_RUNT_COUNT (i : Nat) : Fld := ⟨Reg.ALN_RX_RUNT i, 0, 32⟩
def F.ALN_RX_FCS_ERR_COUNT (i : Nat) : Fld := ⟨Reg.ALN_RX_FCS_ERR i, 0, 32⟩
def F.ALN_RX_OVERSIZE_COUNT (i : Nat) : Fld := ⟨Reg.ALN_RX_OVERSIZE i, 0, 32⟩
def F.ALN_TX_FRAMES_COUNT (i : Nat) : Fld := ⟨Reg.ALN_TX_FRAMES i, 0, 32⟩
def F.ALN_TX_DOWN_DROP_COUNT (i : Nat) : Fld := ⟨Reg.ALN_TX_DOWN_DROP i, 0, 32⟩
def F.PORT_INT_STATUS_LINK_UP (i : Nat) : Fld := ⟨Reg.PORT_INT_STATUS i, 0, 1⟩
def F.PORT_INT_STATUS_LINK_DOWN (i : Nat) : Fld := ⟨Reg.PORT_INT_STATUS i, 1, 1⟩
def F.PORT_INT_STATUS_LANE_FAIL (i : Nat) : Fld := ⟨Reg.PORT_INT_STATUS i, 2, 1⟩
def F.PORT_INT_STATUS_DESKEW_FAIL (i : Nat) : Fld := ⟨Reg.PORT_INT_STATUS i, 3, 1⟩
def F.PORT_INT_STATUS_RECOVERED (i : Nat) : Fld := ⟨Reg.PORT_INT_STATUS i, 4, 1⟩
def F.PORT_INT_STATUS_LINGER_EXPIRED (i : Nat) : Fld := ⟨Reg.PORT_INT_STATUS i, 5, 1⟩
def F.PORT_INT_STATUS_RECOVERY_END (i : Nat) : Fld := ⟨Reg.PORT_INT_STATUS i, 6, 1⟩
def F.PORT_INT_STATUS_REMOTE_FAULT (i : Nat) : Fld := ⟨Reg.PORT_INT_STATUS i, 7, 1⟩
def F.PORT_INT_STATUS_TX_FCS_DROP (i : Nat) : Fld := ⟨Reg.PORT_INT_STATUS i, 8, 1⟩
def F.PORT_INT_STATUS_CFG_REJECT (i : Nat) : Fld := ⟨Reg.PORT_INT_STATUS i, 9, 1⟩
def F.PORT_INT_STATUS_CNT_OVF (i : Nat) : Fld := ⟨Reg.PORT_INT_STATUS i, 10, 1⟩
def F.PORT_CFG_EN (i : Nat) : Fld := ⟨Reg.PORT_CFG i, 0, 1⟩
def F.PORT_CFG_WIDTH (i : Nat) : Fld := ⟨Reg.PORT_CFG i, 1, 2⟩
def F.PORT_CFG_LANE_RATE (i : Nat) : Fld := ⟨Reg.PORT_CFG i, 3, 1⟩
def F.PORT_CFG_FIRST_LANE (i : Nat) : Fld := ⟨Reg.PORT_CFG i, 4, 10⟩
def F.PORT_CFG_PAUSE_EN (i : Nat) : Fld := ⟨Reg.PORT_CFG i, 14, 1⟩
def F.PORT_CFG_PFC_EN (i : Nat) : Fld := ⟨Reg.PORT_CFG i, 15, 1⟩
def F.PORT_LIVE_UP (i : Nat) : Fld := ⟨Reg.PORT_LIVE i, 0, 1⟩
def F.PORT_LIVE_LINGER (i : Nat) : Fld := ⟨Reg.PORT_LIVE i, 1, 1⟩
def F.PORT_LIVE_RECOVERY (i : Nat) : Fld := ⟨Reg.PORT_LIVE i, 2, 1⟩
def F.PORT_LIVE_CFG_OK (i : Nat) : Fld := ⟨Reg.PORT_LIVE i, 3, 1⟩
def F.PORT_LIVE_PCS_LOCK (i : Nat) : Fld := ⟨Reg.PORT_LIVE i, 4, 1⟩
def F.PORT_LIVE_FEC_LOCK (i : Nat) : Fld := ⟨Reg.PORT_LIVE i, 5, 1⟩
def F.PORT_LIVE_LOCAL_FAULT (i : Nat) : Fld := ⟨Reg.PORT_LIVE i, 6, 1⟩
def F.PORT_LIVE_REMOTE_FAULT (i : Nat) : Fld := ⟨Reg.PORT_LIVE i, 7, 1⟩
def F.PORT_LIVE_LANES_ALIGNED (i : Nat) : Fld := ⟨Reg.PORT_LIVE i, 8, 8⟩
def F.PORT_LIVE_LANES_FAILED (i : Nat) : Fld := ⟨Reg.PORT_LIVE i, 16, 8⟩
def F.PORT_LIVE_PAUSED (i : Nat) : Fld := ⟨Reg.PORT_LIVE i, 24, 8⟩
def F.PORT_MAX_FRAME_BYTES (i : Nat) : Fld := ⟨Reg.PORT_MAX_FRAME i, 0, 14⟩
def F.PORT_TIMERS_UP_HOLD_US (i : Nat) : Fld := ⟨Reg.PORT_TIMERS i, 0, 16⟩
def F.PORT_TIMERS_LANE_TIMEOUT_US (i : Nat) : Fld := ⟨Reg.PORT_TIMERS i, 16, 16⟩
def F.PORT_LINGER_US (i : Nat) : Fld := ⟨Reg.PORT_LINGER i, 0, 16⟩
def F.PORT_RECOVERY_US (i : Nat) : Fld := ⟨Reg.PORT_RECOVERY i, 0, 16⟩
def F.PORT_PFC_MAP_QUEUES (i : Nat) : Fld := ⟨Reg.PORT_PFC_MAP i, 0, 15⟩
def F.PORT_PFC_TX_QUANTA (i : Nat) : Fld := ⟨Reg.PORT_PFC_TX i, 0, 16⟩
def F.PORT_PFC_TX_PRIO_EN (i : Nat) : Fld := ⟨Reg.PORT_PFC_TX i, 16, 8⟩
def F.PORT_RX_FRAMES_LO_COUNT_L (i : Nat) : Fld := ⟨Reg.PORT_RX_FRAMES_LO i, 0, 32⟩
def F.PORT_RX_FRAMES_HI_COUNT_H (i : Nat) : Fld := ⟨Reg.PORT_RX_FRAMES_HI i, 0, 32⟩
def F.PORT_RX_BYTES_LO_COUNT_L (i : Nat) : Fld := ⟨Reg.PORT_RX_BYTES_LO i, 0, 32⟩
def F.PORT_RX_BYTES_HI_COUNT_H (i : Nat) : Fld := ⟨Reg.PORT_RX_BYTES_HI i, 0, 32⟩
def F.PORT_RX_RUNT_LO_COUNT_L (i : Nat) : Fld := ⟨Reg.PORT_RX_RUNT_LO i, 0, 32⟩
def F.PORT_RX_RUNT_HI_COUNT_H (i : Nat) : Fld := ⟨Reg.PORT_RX_RUNT_HI i, 0, 32⟩
def F.PORT_RX_FCS_ERR_LO_COUNT_L (i : Nat) : Fld := ⟨Reg.PORT_RX_FCS_ERR_LO i, 0, 32⟩
def F.PORT_RX_FCS_ERR_HI_COUNT_H (i : Nat) : Fld := ⟨Reg.PORT_RX_FCS_ERR_HI i, 0, 32⟩
def F.PORT_RX_OVERSIZE_LO_COUNT_L (i : Nat) : Fld := ⟨Reg.PORT_RX_OVERSIZE_LO i, 0, 32⟩
def F.PORT_RX_OVERSIZE_HI_COUNT_H (i : Nat) : Fld := ⟨Reg.PORT_RX_OVERSIZE_HI i, 0, 32⟩
def F.PORT_RX_OVERFLOW_DROP_LO_COUNT_L (i : Nat) : Fld := ⟨Reg.PORT_RX_OVERFLOW_DROP_LO i, 0, 32⟩
def F.PORT_RX_OVERFLOW_DROP_HI_COUNT_H (i : Nat) : Fld := ⟨Reg.PORT_RX_OVERFLOW_DROP_HI i, 0, 32⟩
def F.PORT_RX_MAC_CTRL_LO_COUNT_L (i : Nat) : Fld := ⟨Reg.PORT_RX_MAC_CTRL_LO i, 0, 32⟩
def F.PORT_RX_MAC_CTRL_HI_COUNT_H (i : Nat) : Fld := ⟨Reg.PORT_RX_MAC_CTRL_HI i, 0, 32⟩
def F.PORT_TX_FRAMES_LO_COUNT_L (i : Nat) : Fld := ⟨Reg.PORT_TX_FRAMES_LO i, 0, 32⟩
def F.PORT_TX_FRAMES_HI_COUNT_H (i : Nat) : Fld := ⟨Reg.PORT_TX_FRAMES_HI i, 0, 32⟩
def F.PORT_TX_BYTES_LO_COUNT_L (i : Nat) : Fld := ⟨Reg.PORT_TX_BYTES_LO i, 0, 32⟩
def F.PORT_TX_BYTES_HI_COUNT_H (i : Nat) : Fld := ⟨Reg.PORT_TX_BYTES_HI i, 0, 32⟩
def F.PORT_TX_FCS_DROP_LO_COUNT_L (i : Nat) : Fld := ⟨Reg.PORT_TX_FCS_DROP_LO i, 0, 32⟩
def F.PORT_TX_FCS_DROP_HI_COUNT_H (i : Nat) : Fld := ⟨Reg.PORT_TX_FCS_DROP_HI i, 0, 32⟩
def F.PORT_TX_ABORT_LO_COUNT_L (i : Nat) : Fld := ⟨Reg.PORT_TX_ABORT_LO i, 0, 32⟩
def F.PORT_TX_ABORT_HI_COUNT_H (i : Nat) : Fld := ⟨Reg.PORT_TX_ABORT_HI i, 0, 32⟩
def F.PORT_TX_PFC_LO_COUNT_L (i : Nat) : Fld := ⟨Reg.PORT_TX_PFC_LO i, 0, 32⟩
def F.PORT_TX_PFC_HI_COUNT_H (i : Nat) : Fld := ⟨Reg.PORT_TX_PFC_HI i, 0, 32⟩
def F.PORT_DOWN_DROP_LO_COUNT_L (i : Nat) : Fld := ⟨Reg.PORT_DOWN_DROP_LO i, 0, 32⟩
def F.PORT_DOWN_DROP_HI_COUNT_H (i : Nat) : Fld := ⟨Reg.PORT_DOWN_DROP_HI i, 0, 32⟩
def F.PORT_LINGER_FLUSH_LO_COUNT_L (i : Nat) : Fld := ⟨Reg.PORT_LINGER_FLUSH_LO i, 0, 32⟩
def F.PORT_LINGER_FLUSH_HI_COUNT_H (i : Nat) : Fld := ⟨Reg.PORT_LINGER_FLUSH_HI i, 0, 32⟩
def F.PORT_CT_STOMPED_LO_COUNT_L (i : Nat) : Fld := ⟨Reg.PORT_CT_STOMPED_LO i, 0, 32⟩
def F.PORT_CT_STOMPED_HI_COUNT_H (i : Nat) : Fld := ⟨Reg.PORT_CT_STOMPED_HI i, 0, 32⟩
def F.PORT_CT_BAD_SRC_LO_COUNT_L (i : Nat) : Fld := ⟨Reg.PORT_CT_BAD_SRC_LO i, 0, 32⟩
def F.PORT_CT_BAD_SRC_HI_COUNT_H (i : Nat) : Fld := ⟨Reg.PORT_CT_BAD_SRC_HI i, 0, 32⟩
def F.PORT_LINK_DOWN_COUNT_LO_COUNT_L (i : Nat) : Fld := ⟨Reg.PORT_LINK_DOWN_COUNT_LO i, 0, 32⟩
def F.PORT_LINK_DOWN_COUNT_HI_COUNT_H (i : Nat) : Fld := ⟨Reg.PORT_LINK_DOWN_COUNT_HI i, 0, 32⟩
def F.FWD_CTRL_ESMC_TRAP : Fld := ⟨Reg.FWD_CTRL, 0, 1⟩
def F.FWD_CTRL_TTL_TRAP : Fld := ⟨Reg.FWD_CTRL, 1, 1⟩
def F.FWD_CTRL_HDR_IE : Fld := ⟨Reg.FWD_CTRL, 31, 1⟩
def F.FWD_INT_STATUS_COMMIT_DONE : Fld := ⟨Reg.FWD_INT_STATUS, 0, 1⟩
def F.FWD_INT_STATUS_COMMIT_FAIL : Fld := ⟨Reg.FWD_INT_STATUS, 1, 1⟩
def F.FWD_INT_STATUS_COMMIT_BUSY : Fld := ⟨Reg.FWD_INT_STATUS, 2, 1⟩
def F.FWD_INT_STATUS_STAGE_FULL : Fld := ⟨Reg.FWD_INT_STATUS, 3, 1⟩
def F.FWD_INT_STATUS_TRAP_FULL : Fld := ⟨Reg.FWD_INT_STATUS, 4, 1⟩
def F.FWD_INT_STATUS_INJ_BAD : Fld := ⟨Reg.FWD_INT_STATUS, 5, 1⟩
def F.FWD_INT_STATUS_CNT_OVF : Fld := ⟨Reg.FWD_INT_STATUS, 6, 1⟩
def F.FWD_COMMIT_CMD_COMMIT : Fld := ⟨Reg.FWD_COMMIT_CMD, 0, 1⟩
def F.FWD_COMMIT_CMD_DISCARD : Fld := ⟨Reg.FWD_COMMIT_CMD, 1, 1⟩
def F.FWD_STAGE_COUNT : Fld := ⟨Reg.FWD_STAGE, 0, 13⟩
def F.FWD_STAGE_BUSY : Fld := ⟨Reg.FWD_STAGE, 16, 1⟩
def F.FWD_COMMIT_FAIL_PIPE : Fld := ⟨Reg.FWD_COMMIT_FAIL, 0, 5⟩
def F.FWD_COMMIT_FAIL_CAUSE : Fld := ⟨Reg.FWD_COMMIT_FAIL, 8, 3⟩
def F.FWD_COMMIT_FAIL_MASK_PIPES : Fld := ⟨Reg.FWD_COMMIT_FAIL_MASK, 0, 24⟩
def F.FWD_COMMIT_FAIL_ADDR_WADDR : Fld := ⟨Reg.FWD_COMMIT_FAIL_ADDR, 0, 24⟩
def F.FWD_HASH_SEED_SEED : Fld := ⟨Reg.FWD_HASH_SEED, 0, 32⟩
def F.FWD_DSCP_MAP_QUEUE (i : Nat) : Fld := ⟨Reg.FWD_DSCP_MAP i, 0, 32⟩
def F.FWD_READ_SEL_PIPE (i : Nat) : Fld := ⟨Reg.FWD_READ_SEL i, 0, 5⟩
def F.FWD_READ_SEL_VIEW (i : Nat) : Fld := ⟨Reg.FWD_READ_SEL i, 8, 1⟩
def F.FWD_INJ_BASE_BASE : Fld := ⟨Reg.FWD_INJ_BASE, 0, 22⟩
def F.FWD_INJ_RING_LOG2 : Fld := ⟨Reg.FWD_INJ_RING, 0, 4⟩
def F.FWD_INJ_WR_WR : Fld := ⟨Reg.FWD_INJ_WR, 0, 10⟩
def F.FWD_INJ_RD_RD : Fld := ⟨Reg.FWD_INJ_RD, 0, 10⟩
def F.FWD_TRAP_BASE_BASE : Fld := ⟨Reg.FWD_TRAP_BASE, 0, 22⟩
def F.FWD_TRAP_RING_LOG2 : Fld := ⟨Reg.FWD_TRAP_RING, 0, 4⟩
def F.FWD_TRAP_WR_WR : Fld := ⟨Reg.FWD_TRAP_WR, 0, 10⟩
def F.FWD_TRAP_RD_RD : Fld := ⟨Reg.FWD_TRAP_RD, 0, 10⟩
def F.FWD_INJ_BAD_COUNT : Fld := ⟨Reg.FWD_INJ_BAD, 0, 32⟩
def F.FWD_TRAP_DROP_COUNT : Fld := ⟨Reg.FWD_TRAP_DROP, 0, 32⟩
def F.FWD_HINJ_DESC_DESC (i : Nat) : Fld := ⟨Reg.FWD_HINJ_DESC i, 0, 32⟩
def F.FWD_HINJ_DATA_DATA : Fld := ⟨Reg.FWD_HINJ_DATA, 0, 32⟩
def F.FWD_HINJ_CMD_SEND : Fld := ⟨Reg.FWD_HINJ_CMD, 0, 1⟩
def F.FWD_HINJ_CMD_BUSY : Fld := ⟨Reg.FWD_HINJ_CMD, 1, 1⟩
def F.FWD_HINJ_CMD_BYTES : Fld := ⟨Reg.FWD_HINJ_CMD, 2, 12⟩
def F.FWD_PIPE_INT_STATUS_CNT_OVF (i : Nat) : Fld := ⟨Reg.FWD_PIPE_INT_STATUS i, 0, 1⟩
def F.FWD_L2_MISS_LO_COUNT_L (i : Nat) : Fld := ⟨Reg.FWD_L2_MISS_LO i, 0, 32⟩
def F.FWD_L2_MISS_HI_COUNT_H (i : Nat) : Fld := ⟨Reg.FWD_L2_MISS_HI i, 0, 32⟩
def F.FWD_LPM_MISS_LO_COUNT_L (i : Nat) : Fld := ⟨Reg.FWD_LPM_MISS_LO i, 0, 32⟩
def F.FWD_LPM_MISS_HI_COUNT_H (i : Nat) : Fld := ⟨Reg.FWD_LPM_MISS_HI i, 0, 32⟩
def F.FWD_TTL_EXP_LO_COUNT_L (i : Nat) : Fld := ⟨Reg.FWD_TTL_EXP_LO i, 0, 32⟩
def F.FWD_TTL_EXP_HI_COUNT_H (i : Nat) : Fld := ⟨Reg.FWD_TTL_EXP_HI i, 0, 32⟩
def F.FWD_HDR_ERR_LO_COUNT_L (i : Nat) : Fld := ⟨Reg.FWD_HDR_ERR_LO i, 0, 32⟩
def F.FWD_HDR_ERR_HI_COUNT_H (i : Nat) : Fld := ⟨Reg.FWD_HDR_ERR_HI i, 0, 32⟩
def F.FWD_ACL_DROP_LO_COUNT_L (i : Nat) : Fld := ⟨Reg.FWD_ACL_DROP_LO i, 0, 32⟩
def F.FWD_ACL_DROP_HI_COUNT_H (i : Nat) : Fld := ⟨Reg.FWD_ACL_DROP_HI i, 0, 32⟩
def F.FWD_HAIRPIN_DROP_LO_COUNT_L (i : Nat) : Fld := ⟨Reg.FWD_HAIRPIN_DROP_LO i, 0, 32⟩
def F.FWD_HAIRPIN_DROP_HI_COUNT_H (i : Nat) : Fld := ⟨Reg.FWD_HAIRPIN_DROP_HI i, 0, 32⟩
def F.FWD_TRAP_LO_COUNT_L (i : Nat) : Fld := ⟨Reg.FWD_TRAP_LO i, 0, 32⟩
def F.FWD_TRAP_HI_COUNT_H (i : Nat) : Fld := ⟨Reg.FWD_TRAP_HI i, 0, 32⟩
def F.FWD_TC_NO_RXTS_LO_COUNT_L (i : Nat) : Fld := ⟨Reg.FWD_TC_NO_RXTS_LO i, 0, 32⟩
def F.FWD_TC_NO_RXTS_HI_COUNT_H (i : Nat) : Fld := ⟨Reg.FWD_TC_NO_RXTS_HI i, 0, 32⟩
def F.FWD_PORT_CFG_PVID (i : Nat) : Fld := ⟨Reg.FWD_PORT_CFG i, 0, 12⟩
def F.FWD_PORT_CFG_VRF (i : Nat) : Fld := ⟨Reg.FWD_PORT_CFG i, 12, 7⟩
def F.FWD_PORT_CFG_TCLASS (i : Nat) : Fld := ⟨Reg.FWD_PORT_CFG i, 19, 3⟩
def F.FWD_PORT_CFG_TRUST (i : Nat) : Fld := ⟨Reg.FWD_PORT_CFG i, 22, 2⟩
def F.FWD_PORT_CFG_DEFQ (i : Nat) : Fld := ⟨Reg.FWD_PORT_CFG i, 24, 4⟩
def F.FWD_PORT_CFG_L2_MISS (i : Nat) : Fld := ⟨Reg.FWD_PORT_CFG i, 28, 1⟩
def F.FWD_PORT_CFG_HAIRPIN (i : Nat) : Fld := ⟨Reg.FWD_PORT_CFG i, 29, 1⟩
def F.FWD_PORT_PCP_MAP_QUEUE (i : Nat) : Fld := ⟨Reg.FWD_PORT_PCP_MAP i, 0, 32⟩
def F.FWD_PORT_LINK_DELAY_DELAY (i : Nat) : Fld := ⟨Reg.FWD_PORT_LINK_DELAY i, 0, 32⟩
def F.BUF_INT_STATUS_LEAK : Fld := ⟨Reg.BUF_INT_STATUS, 0, 1⟩
def F.BUF_INT_STATUS_XLINK : Fld := ⟨Reg.BUF_INT_STATUS, 1, 1⟩
def F.BUF_INT_STATUS_AUDIT_PASS : Fld := ⟨Reg.BUF_INT_STATUS, 2, 1⟩
def F.BUF_INT_STATUS_NOFREE : Fld := ⟨Reg.BUF_INT_STATUS, 3, 1⟩
def F.BUF_INT_STATUS_FREE_LOW : Fld := ⟨Reg.BUF_INT_STATUS, 4, 1⟩
def F.BUF_INT_STATUS_OVERCOMMIT : Fld := ⟨Reg.BUF_INT_STATUS, 5, 1⟩
def F.BUF_INT_STATUS_CT_QUARANTINE : Fld := ⟨Reg.BUF_INT_STATUS, 6, 1⟩
def F.BUF_INT_STATUS_STOMP_CORRUPT : Fld := ⟨Reg.BUF_INT_STATUS, 7, 1⟩
def F.BUF_INT_STATUS_CNT_OVF : Fld := ⟨Reg.BUF_INT_STATUS, 8, 1⟩
def F.BUF_POOL_SIZE_SLICES (i : Nat) : Fld := ⟨Reg.BUF_POOL_SIZE i, 0, 21⟩
def F.BUF_POOL_USED_SLICES (i : Nat) : Fld := ⟨Reg.BUF_POOL_USED i, 0, 21⟩
def F.BUF_FREE_FREE : Fld := ⟨Reg.BUF_FREE, 0, 21⟩
def F.BUF_ALLOC_TOTAL : Fld := ⟨Reg.BUF_ALLOC, 0, 21⟩
def F.BUF_ALLOC_OVERCOMMIT : Fld := ⟨Reg.BUF_ALLOC, 31, 1⟩
def F.BUF_FREE_LOW_SLICES : Fld := ⟨Reg.BUF_FREE_LOW, 0, 21⟩
def F.BUF_CT_QUARANTINE_US : Fld := ⟨Reg.BUF_CT_QUARANTINE, 0, 16⟩
def F.BUF_AUDIT_PASS_MS : Fld := ⟨Reg.BUF_AUDIT, 0, 10⟩
def F.BUF_AUDIT_EN : Fld := ⟨Reg.BUF_AUDIT, 16, 1⟩
def F.BUF_AUDIT_RECLAIM : Fld := ⟨Reg.BUF_AUDIT, 17, 1⟩
def F.BUF_AUDIT_RECLAIM_ALL : Fld := ⟨Reg.BUF_AUDIT, 18, 1⟩
def F.BUF_AUDIT_STATUS_LEAKED : Fld := ⟨Reg.BUF_AUDIT_STATUS, 0, 21⟩
def F.BUF_AUDIT_STATUS_SUSPECTS : Fld := ⟨Reg.BUF_AUDIT_STATUS, 21, 1⟩
def F.BUF_LEAK_LAST_SLICE : Fld := ⟨Reg.BUF_LEAK_LAST, 0, 20⟩
def F.BUF_LEAK_LAST_RECLAIMED : Fld := ⟨Reg.BUF_LEAK_LAST, 31, 1⟩
def F.BUF_XLINK_LAST_SLICE : Fld := ⟨Reg.BUF_XLINK_LAST, 0, 20⟩
def F.BUF_XLINK_LAST_KIND : Fld := ⟨Reg.BUF_XLINK_LAST, 24, 2⟩
def F.BUF_LEAK_COUNT_LO_COUNT_L : Fld := ⟨Reg.BUF_LEAK_COUNT_LO, 0, 32⟩
def F.BUF_LEAK_COUNT_HI_COUNT_H : Fld := ⟨Reg.BUF_LEAK_COUNT_HI, 0, 32⟩
def F.BUF_XLINK_COUNT_LO_COUNT_L : Fld := ⟨Reg.BUF_XLINK_COUNT_LO, 0, 32⟩
def F.BUF_XLINK_COUNT_HI_COUNT_H : Fld := ⟨Reg.BUF_XLINK_COUNT_HI, 0, 32⟩
def F.BUF_AUDIT_PASSES_LO_COUNT_L : Fld := ⟨Reg.BUF_AUDIT_PASSES_LO, 0, 32⟩
def F.BUF_AUDIT_PASSES_HI_COUNT_H : Fld := ⟨Reg.BUF_AUDIT_PASSES_HI, 0, 32⟩
def F.BUF_NOFREE_DROP_LO_COUNT_L : Fld := ⟨Reg.BUF_NOFREE_DROP_LO, 0, 32⟩
def F.BUF_NOFREE_DROP_HI_COUNT_H : Fld := ⟨Reg.BUF_NOFREE_DROP_HI, 0, 32⟩
def F.BUF_STOMP_RX_LO_COUNT_L : Fld := ⟨Reg.BUF_STOMP_RX_LO, 0, 32⟩
def F.BUF_STOMP_RX_HI_COUNT_H : Fld := ⟨Reg.BUF_STOMP_RX_HI, 0, 32⟩
def F.BUF_STOMP_CORRUPT_LO_COUNT_L : Fld := ⟨Reg.BUF_STOMP_CORRUPT_LO, 0, 32⟩
def F.BUF_STOMP_CORRUPT_HI_COUNT_H : Fld := ⟨Reg.BUF_STOMP_CORRUPT_HI, 0, 32⟩
def F.BUF_AUX_DROP_LO_COUNT_L : Fld := ⟨Reg.BUF_AUX_DROP_LO, 0, 32⟩
def F.BUF_AUX_DROP_HI_COUNT_H : Fld := ⟨Reg.BUF_AUX_DROP_HI, 0, 32⟩
def F.BUF_QPROF_MIN (i : Nat) : Fld := ⟨Reg.BUF_QPROF i, 0, 20⟩
def F.BUF_QPROF_ALPHA (i : Nat) : Fld := ⟨Reg.BUF_QPROF i, 20, 4⟩
def F.BUF_QPROF_POOL (i : Nat) : Fld := ⟨Reg.BUF_QPROF i, 24, 2⟩
def F.BUF_QPROF_LOSSLESS (i : Nat) : Fld := ⟨Reg.BUF_QPROF i, 26, 1⟩
def F.BUF_PGPROF_XOFF_XOFF_TH (i : Nat) : Fld := ⟨Reg.BUF_PGPROF_XOFF i, 0, 20⟩
def F.BUF_PGPROF_HEADROOM_HEADROOM (i : Nat) : Fld := ⟨Reg.BUF_PGPROF_HEADROOM i, 0, 20⟩
def F.BUF_PGPROF_XON_DELTA_XON_DELTA (i : Nat) : Fld := ⟨Reg.BUF_PGPROF_XON_DELTA i, 0, 20⟩
def F.BUF_PORT_INT_STATUS_CNT_OVF (i : Nat) : Fld := ⟨Reg.BUF_PORT_INT_STATUS i, 0, 1⟩
def F.BUF_PORT_CFG_CT_EN (i : Nat) : Fld := ⟨Reg.BUF_PORT_CFG i, 0, 16⟩
def F.BUF_PORT_CFG_PGSET (i : Nat) : Fld := ⟨Reg.BUF_PORT_CFG i, 16, 4⟩
def F.BUF_PORT_CFG_QUARANTINED (i : Nat) : Fld := ⟨Reg.BUF_PORT_CFG i, 31, 1⟩
def F.BUF_PORT_QPROF0_PROF (i : Nat) : Fld := ⟨Reg.BUF_PORT_QPROF0 i, 0, 30⟩
def F.BUF_PORT_QPROF1_PROF (i : Nat) : Fld := ⟨Reg.BUF_PORT_QPROF1 i, 0, 30⟩
def F.BUF_PORT_QPROF2_PROF (i : Nat) : Fld := ⟨Reg.BUF_PORT_QPROF2 i, 0, 20⟩
def F.BUF_PORT_PG_MAP0_PG0 (i : Nat) : Fld := ⟨Reg.BUF_PORT_PG_MAP0 i, 0, 3⟩
def F.BUF_PORT_PG_MAP0_PG1 (i : Nat) : Fld := ⟨Reg.BUF_PORT_PG_MAP0 i, 4, 3⟩
def F.BUF_PORT_PG_MAP0_PG2 (i : Nat) : Fld := ⟨Reg.BUF_PORT_PG_MAP0 i, 8, 3⟩
def F.BUF_PORT_PG_MAP0_PG3 (i : Nat) : Fld := ⟨Reg.BUF_PORT_PG_MAP0 i, 12, 3⟩
def F.BUF_PORT_PG_MAP0_PG4 (i : Nat) : Fld := ⟨Reg.BUF_PORT_PG_MAP0 i, 16, 3⟩
def F.BUF_PORT_PG_MAP0_PG5 (i : Nat) : Fld := ⟨Reg.BUF_PORT_PG_MAP0 i, 20, 3⟩
def F.BUF_PORT_PG_MAP0_PG6 (i : Nat) : Fld := ⟨Reg.BUF_PORT_PG_MAP0 i, 24, 3⟩
def F.BUF_PORT_PG_MAP0_PG7 (i : Nat) : Fld := ⟨Reg.BUF_PORT_PG_MAP0 i, 28, 3⟩
def F.BUF_PORT_PG_MAP1_PG8 (i : Nat) : Fld := ⟨Reg.BUF_PORT_PG_MAP1 i, 0, 3⟩
def F.BUF_PORT_PG_MAP1_PG9 (i : Nat) : Fld := ⟨Reg.BUF_PORT_PG_MAP1 i, 4, 3⟩
def F.BUF_PORT_PG_MAP1_PG10 (i : Nat) : Fld := ⟨Reg.BUF_PORT_PG_MAP1 i, 8, 3⟩
def F.BUF_PORT_PG_MAP1_PG11 (i : Nat) : Fld := ⟨Reg.BUF_PORT_PG_MAP1 i, 12, 3⟩
def F.BUF_PORT_PG_MAP1_PG12 (i : Nat) : Fld := ⟨Reg.BUF_PORT_PG_MAP1 i, 16, 3⟩
def F.BUF_PORT_PG_MAP1_PG13 (i : Nat) : Fld := ⟨Reg.BUF_PORT_PG_MAP1 i, 20, 3⟩
def F.BUF_PORT_PG_MAP1_PG14 (i : Nat) : Fld := ⟨Reg.BUF_PORT_PG_MAP1 i, 24, 3⟩
def F.BUF_PORT_PG_MAP1_PG15 (i : Nat) : Fld := ⟨Reg.BUF_PORT_PG_MAP1 i, 28, 3⟩
def F.BUF_PORT_PG_STATUS_XOFF (i : Nat) : Fld := ⟨Reg.BUF_PORT_PG_STATUS i, 0, 8⟩
def F.BUF_PORT_RX_TRUNC_LO_COUNT_L (i : Nat) : Fld := ⟨Reg.BUF_PORT_RX_TRUNC_LO i, 0, 32⟩
def F.BUF_PORT_RX_TRUNC_HI_COUNT_H (i : Nat) : Fld := ⟨Reg.BUF_PORT_RX_TRUNC_HI i, 0, 32⟩
def F.BUF_PORT_HEADROOM_DROP_LO_COUNT_L (i : Nat) : Fld := ⟨Reg.BUF_PORT_HEADROOM_DROP_LO i, 0, 32⟩
def F.BUF_PORT_HEADROOM_DROP_HI_COUNT_H (i : Nat) : Fld := ⟨Reg.BUF_PORT_HEADROOM_DROP_HI i, 0, 32⟩
def F.BUF_Q_OCC_SLICES (i : Nat) : Fld := ⟨Reg.BUF_Q_OCC i, 0, 21⟩
def F.BUF_Q_DROP_LO_COUNT_L (i : Nat) : Fld := ⟨Reg.BUF_Q_DROP_LO i, 0, 32⟩
def F.BUF_Q_DROP_HI_COUNT_H (i : Nat) : Fld := ⟨Reg.BUF_Q_DROP_HI i, 0, 32⟩
def F.SCHD_INT_STATUS_WALK_DONE : Fld := ⟨Reg.SCHD_INT_STATUS, 0, 1⟩
def F.SCHD_INT_STATUS_RING_FULL : Fld := ⟨Reg.SCHD_INT_STATUS, 1, 1⟩
def F.SCHD_INT_STATUS_SAMPLE_OVERRUN : Fld := ⟨Reg.SCHD_INT_STATUS, 2, 1⟩
def F.SCHD_INT_STATUS_CNT_OVF : Fld := ⟨Reg.SCHD_INT_STATUS, 3, 1⟩
def F.SCHD_SHAPER_FORGIVE_INDEX : Fld := ⟨Reg.SCHD_SHAPER_FORGIVE, 0, 13⟩
def F.SCHD_SHAPER_FORGIVE_GO : Fld := ⟨Reg.SCHD_SHAPER_FORGIVE, 31, 1⟩
def F.SCHD_SAMPLE_CTRL_PERIOD_US : Fld := ⟨Reg.SCHD_SAMPLE_CTRL, 0, 16⟩
def F.SCHD_SAMPLE_CTRL_EN : Fld := ⟨Reg.SCHD_SAMPLE_CTRL, 16, 1⟩
def F.SCHD_SAMPLE_BASE_BASE : Fld := ⟨Reg.SCHD_SAMPLE_BASE, 0, 22⟩
def F.SCHD_SAMPLE_RING_LOG2 : Fld := ⟨Reg.SCHD_SAMPLE_RING, 0, 4⟩
def F.SCHD_SAMPLE_WR_WR : Fld := ⟨Reg.SCHD_SAMPLE_WR, 0, 14⟩
def F.SCHD_SAMPLE_RD_RD : Fld := ⟨Reg.SCHD_SAMPLE_RD, 0, 14⟩
def F.SCHD_SAMPLE_DROP_COUNT : Fld := ⟨Reg.SCHD_SAMPLE_DROP, 0, 32⟩
def F.SCHD_SAMPLE_OVERRUN_COUNT : Fld := ⟨Reg.SCHD_SAMPLE_OVERRUN, 0, 32⟩
def F.SCHD_PORT_CFG_PROFILE (i : Nat) : Fld := ⟨Reg.SCHD_PORT_CFG i, 0, 1⟩
def F.SCHD_PORT_CFG_FORCE_B (i : Nat) : Fld := ⟨Reg.SCHD_PORT_CFG i, 1, 1⟩
def F.SCHD_PORT_CFG_STRICT_N (i : Nat) : Fld := ⟨Reg.SCHD_PORT_CFG i, 2, 3⟩
def F.SCHD_PORT_CFG_OVERHEAD (i : Nat) : Fld := ⟨Reg.SCHD_PORT_CFG i, 8, 8⟩
def F.SCHD_PORT_STATUS_ACTIVE_B (i : Nat) : Fld := ⟨Reg.SCHD_PORT_STATUS i, 0, 1⟩
def F.SCHD_PORT_STATUS_RR_NEXT (i : Nat) : Fld := ⟨Reg.SCHD_PORT_STATUS i, 4, 4⟩
def F.SCHD_PORT_QSTATE_NONEMPTY (i : Nat) : Fld := ⟨Reg.SCHD_PORT_QSTATE i, 0, 16⟩
def F.SCHD_PORT_QSTATE_BLOCKED (i : Nat) : Fld := ⟨Reg.SCHD_PORT_QSTATE i, 16, 16⟩
def F.POL_INT_STATUS_CFG_REJECT (i : Nat) : Fld := ⟨Reg.POL_INT_STATUS i, 0, 1⟩
def F.POL_INT_STATUS_CNT_OVF (i : Nat) : Fld := ⟨Reg.POL_INT_STATUS i, 1, 1⟩
def F.POL_CFG_EN (i : Nat) : Fld := ⟨Reg.POL_CFG i, 0, 1⟩
def F.POL_CFG_COLOR_AWARE (i : Nat) : Fld := ⟨Reg.POL_CFG i, 1, 1⟩
def F.POL_CFG_YELLOW_ACT (i : Nat) : Fld := ⟨Reg.POL_CFG i, 2, 2⟩
def F.POL_CFG_RED_ACT (i : Nat) : Fld := ⟨Reg.POL_CFG i, 4, 2⟩
def F.POL_CFG_YELLOW_DSCP (i : Nat) : Fld := ⟨Reg.POL_CFG i, 6, 6⟩
def F.POL_CFG_RED_DSCP (i : Nat) : Fld := ⟨Reg.POL_CFG i, 12, 6⟩
def F.POL_CIR_CIR (i : Nat) : Fld := ⟨Reg.POL_CIR i, 0, 32⟩
def F.POL_PIR_PIR (i : Nat) : Fld := ⟨Reg.POL_PIR i, 0, 32⟩
def F.POL_CBS_CBS (i : Nat) : Fld := ⟨Reg.POL_CBS i, 0, 24⟩
def F.POL_PBS_PBS (i : Nat) : Fld := ⟨Reg.POL_PBS i, 0, 24⟩
def F.POL_GREEN_COUNT (i : Nat) : Fld := ⟨Reg.POL_GREEN i, 0, 32⟩
def F.POL_YELLOW_COUNT (i : Nat) : Fld := ⟨Reg.POL_YELLOW i, 0, 32⟩
def F.POL_RED_COUNT (i : Nat) : Fld := ⟨Reg.POL_RED i, 0, 32⟩
def F.TLM_INT_STATUS_TAG_SKIP : Fld := ⟨Reg.TLM_INT_STATUS, 0, 1⟩
def F.TLM_INT_STATUS_DUMP_DONE : Fld := ⟨Reg.TLM_INT_STATUS, 1, 1⟩
def F.TLM_INT_STATUS_DUMP_SKIP : Fld := ⟨Reg.TLM_INT_STATUS, 2, 1⟩
def F.TLM_INT_STATUS_TAG_RING_FULL : Fld := ⟨Reg.TLM_INT_STATUS, 3, 1⟩
def F.TLM_INT_STATUS_DMA_BLOCKED : Fld := ⟨Reg.TLM_INT_STATUS, 4, 1⟩
def F.TLM_INT_STATUS_CNT_OVF : Fld := ⟨Reg.TLM_INT_STATUS, 5, 1⟩
def F.TLM_PCLK_LO_COUNT_L : Fld := ⟨Reg.TLM_PCLK_LO, 0, 32⟩
def F.TLM_PCLK_HI_COUNT_H : Fld := ⟨Reg.TLM_PCLK_HI, 0, 32⟩
def F.TLM_TAG_CTRL_EN : Fld := ⟨Reg.TLM_TAG_CTRL, 0, 1⟩
def F.TLM_TAG_CTRL_RATE_LOG2 : Fld := ⟨Reg.TLM_TAG_CTRL, 1, 5⟩
def F.TLM_TAG_CTRL_PORT_SEL : Fld := ⟨Reg.TLM_TAG_CTRL, 16, 9⟩
def F.TLM_TAG_STATUS_NEXT : Fld := ⟨Reg.TLM_TAG_STATUS, 0, 10⟩
def F.TLM_TAG_STATUS_OPEN : Fld := ⟨Reg.TLM_TAG_STATUS, 16, 11⟩
def F.TLM_TAG_SKIP_COUNT : Fld := ⟨Reg.TLM_TAG_SKIP, 0, 32⟩
def F.TLM_TAG_COUNT_LO_COUNT_L : Fld := ⟨Reg.TLM_TAG_COUNT_LO, 0, 32⟩
def F.TLM_TAG_COUNT_HI_COUNT_H : Fld := ⟨Reg.TLM_TAG_COUNT_HI, 0, 32⟩
def F.TLM_DMA_CTRL_PERIOD_US : Fld := ⟨Reg.TLM_DMA_CTRL, 0, 16⟩
def F.TLM_DMA_CTRL_DUMP_EN : Fld := ⟨Reg.TLM_DMA_CTRL, 16, 1⟩
def F.TLM_DMA_CTRL_TAG_EN : Fld := ⟨Reg.TLM_DMA_CTRL, 17, 1⟩
def F.TLM_DMA_CTRL_SNAP_EN : Fld := ⟨Reg.TLM_DMA_CTRL, 18, 1⟩
def F.TLM_DMA_CTRL_FUNC : Fld := ⟨Reg.TLM_DMA_CTRL, 19, 1⟩
def F.TLM_DMA_CBASE_LO_ADDR_L : Fld := ⟨Reg.TLM_DMA_CBASE_LO, 0, 32⟩
def F.TLM_DMA_CBASE_HI_ADDR_H : Fld := ⟨Reg.TLM_DMA_CBASE_HI, 0, 32⟩
def F.TLM_DMA_TBASE_LO_ADDR_L : Fld := ⟨Reg.TLM_DMA_TBASE_LO, 0, 32⟩
def F.TLM_DMA_TBASE_HI_ADDR_H : Fld := ⟨Reg.TLM_DMA_TBASE_HI, 0, 32⟩
def F.TLM_DMA_RING_CLOG2 : Fld := ⟨Reg.TLM_DMA_RING, 0, 4⟩
def F.TLM_DMA_RING_TLOG2 : Fld := ⟨Reg.TLM_DMA_RING, 8, 4⟩
def F.TLM_DMA_CRD_RD : Fld := ⟨Reg.TLM_DMA_CRD, 0, 14⟩
def F.TLM_DMA_TRD_RD : Fld := ⟨Reg.TLM_DMA_TRD, 0, 14⟩
def F.TLM_DMA_CWR_WR : Fld := ⟨Reg.TLM_DMA_CWR, 0, 14⟩
def F.TLM_DMA_TWR_WR : Fld := ⟨Reg.TLM_DMA_TWR, 0, 14⟩
def F.TLM_DMA_WB_LO_ADDR_L : Fld := ⟨Reg.TLM_DMA_WB_LO, 0, 32⟩
def F.TLM_DMA_WB_HI_ADDR_H : Fld := ⟨Reg.TLM_DMA_WB_HI, 0, 32⟩
def F.TLM_DMA_SKIP_COUNT : Fld := ⟨Reg.TLM_DMA_SKIP, 0, 32⟩
def F.TLM_DMA_TDROP_COUNT : Fld := ⟨Reg.TLM_DMA_TDROP, 0, 32⟩
def F.TLM_DMA_LIST_PAGE (i : Nat) : Fld := ⟨Reg.TLM_DMA_LIST i, 0, 12⟩
def F.TLM_DMA_LIST_FIRST (i : Nat) : Fld := ⟨Reg.TLM_DMA_LIST i, 12, 10⟩
def F.TLM_DMA_LIST_COUNT (i : Nat) : Fld := ⟨Reg.TLM_DMA_LIST i, 22, 10⟩
def F.TLM_EVT_INT_STATUS_CNT_OVF : Fld := ⟨Reg.TLM_EVT_INT_STATUS, 0, 1⟩
def F.TLM_EVT_CFG_EVENT (i : Nat) : Fld := ⟨Reg.TLM_EVT_CFG i, 0, 5⟩
def F.TLM_EVT_CFG_RELOAD (i : Nat) : Fld := ⟨Reg.TLM_EVT_CFG i, 8, 1⟩
def F.TLM_EVT_CFG_TAG_ON_WRAP (i : Nat) : Fld := ⟨Reg.TLM_EVT_CFG i, 9, 1⟩
def F.TLM_EVT_CFG_INDEX (i : Nat) : Fld := ⟨Reg.TLM_EVT_CFG i, 16, 13⟩
def F.TLM_EVT_LO_COUNT_L (i : Nat) : Fld := ⟨Reg.TLM_EVT_LO i, 0, 32⟩
def F.TLM_EVT_HI_COUNT_H (i : Nat) : Fld := ⟨Reg.TLM_EVT_HI i, 0, 32⟩
def F.TLM_EVT_RELOAD_LO_VALUE_L (i : Nat) : Fld := ⟨Reg.TLM_EVT_RELOAD_LO i, 0, 32⟩
def F.TLM_EVT_RELOAD_HI_VALUE_H (i : Nat) : Fld := ⟨Reg.TLM_EVT_RELOAD_HI i, 0, 32⟩
def F.TLM_EVT_OVF0_OVF : Fld := ⟨Reg.TLM_EVT_OVF0, 0, 32⟩
def F.TLM_EVT_OVF1_OVF : Fld := ⟨Reg.TLM_EVT_OVF1, 0, 32⟩
def F.TLM_THR_INT_STATUS_CNT_OVF (i : Nat) : Fld := ⟨Reg.TLM_THR_INT_STATUS i, 0, 1⟩
def F.TLM_THR_CFG_SRC (i : Nat) : Fld := ⟨Reg.TLM_THR_CFG i, 0, 3⟩
def F.TLM_THR_CFG_INDEX (i : Nat) : Fld := ⟨Reg.TLM_THR_CFG i, 16, 13⟩
def F.TLM_THR_N_N (i : Nat) : Fld := ⟨Reg.TLM_THR_N i, 0, 21⟩
def F.TLM_THR_LO_COUNT_L (i : Nat) : Fld := ⟨Reg.TLM_THR_LO i, 0, 32⟩
def F.TLM_THR_HI_COUNT_H (i : Nat) : Fld := ⟨Reg.TLM_THR_HI i, 0, 32⟩
def F.TLM_SLOT_INT_STATUS_CNT_OVF : Fld := ⟨Reg.TLM_SLOT_INT_STATUS, 0, 1⟩
def F.TLM_SLOT_INT_STATUS_SNAP_DONE : Fld := ⟨Reg.TLM_SLOT_INT_STATUS, 1, 1⟩
def F.TLM_SLOT_CYCLES_LO_COUNT_L (i : Nat) : Fld := ⟨Reg.TLM_SLOT_CYCLES_LO i, 0, 32⟩
def F.TLM_SLOT_CYCLES_HI_COUNT_H (i : Nat) : Fld := ⟨Reg.TLM_SLOT_CYCLES_HI i, 0, 32⟩
def F.TLM_SLOT_FWD_LO_COUNT_L (i : Nat) : Fld := ⟨Reg.TLM_SLOT_FWD_LO i, 0, 32⟩
def F.TLM_SLOT_FWD_HI_COUNT_H (i : Nat) : Fld := ⟨Reg.TLM_SLOT_FWD_HI i, 0, 32⟩
def F.TLM_SLOT_DISC_LO_COUNT_L (i : Nat) : Fld := ⟨Reg.TLM_SLOT_DISC_LO i, 0, 32⟩
def F.TLM_SLOT_DISC_HI_COUNT_H (i : Nat) : Fld := ⟨Reg.TLM_SLOT_DISC_HI i, 0, 32⟩
def F.TLM_SLOT_SB_LO_COUNT_L (i : Nat) : Fld := ⟨Reg.TLM_SLOT_SB_LO i, 0, 32⟩
def F.TLM_SLOT_SB_HI_COUNT_H (i : Nat) : Fld := ⟨Reg.TLM_SLOT_SB_HI i, 0, 32⟩
def F.TLM_SLOT_SF_LO_COUNT_L (i : Nat) : Fld := ⟨Reg.TLM_SLOT_SF_LO i, 0, 32⟩
def F.TLM_SLOT_SF_HI_COUNT_H (i : Nat) : Fld := ⟨Reg.TLM_SLOT_SF_HI i, 0, 32⟩
def F.TLM_SLOT_FRONT_LOST_LO_COUNT_L (i : Nat) : Fld := ⟨Reg.TLM_SLOT_FRONT_LOST_LO i, 0, 32⟩
def F.TLM_SLOT_FRONT_LOST_HI_COUNT_H (i : Nat) : Fld := ⟨Reg.TLM_SLOT_FRONT_LOST_HI i, 0, 32⟩
def F.TLM_SLOT_CMD_EN : Fld := ⟨Reg.TLM_SLOT_CMD, 0, 1⟩
def F.TLM_SLOT_CMD_SNAP : Fld := ⟨Reg.TLM_SLOT_CMD, 1, 1⟩
def F.TLM_SLOT_CMD_CLEAR : Fld := ⟨Reg.TLM_SLOT_CMD, 2, 1⟩
def F.TLM_SLOT_SNAP_TIME_REC (i : Nat) : Fld := ⟨Reg.TLM_SLOT_SNAP_TIME i, 0, 32⟩
def F.TLM_SNAP_CYCLES_LO_COUNT_L (i : Nat) : Fld := ⟨Reg.TLM_SNAP_CYCLES_LO i, 0, 32⟩
def F.TLM_SNAP_CYCLES_HI_COUNT_H (i : Nat) : Fld := ⟨Reg.TLM_SNAP_CYCLES_HI i, 0, 32⟩
def F.TLM_SNAP_FWD_LO_COUNT_L (i : Nat) : Fld := ⟨Reg.TLM_SNAP_FWD_LO i, 0, 32⟩
def F.TLM_SNAP_FWD_HI_COUNT_H (i : Nat) : Fld := ⟨Reg.TLM_SNAP_FWD_HI i, 0, 32⟩
def F.TLM_SNAP_DISC_LO_COUNT_L (i : Nat) : Fld := ⟨Reg.TLM_SNAP_DISC_LO i, 0, 32⟩
def F.TLM_SNAP_DISC_HI_COUNT_H (i : Nat) : Fld := ⟨Reg.TLM_SNAP_DISC_HI i, 0, 32⟩
def F.TLM_SNAP_SB_LO_COUNT_L (i : Nat) : Fld := ⟨Reg.TLM_SNAP_SB_LO i, 0, 32⟩
def F.TLM_SNAP_SB_HI_COUNT_H (i : Nat) : Fld := ⟨Reg.TLM_SNAP_SB_HI i, 0, 32⟩
def F.TLM_SNAP_SF_LO_COUNT_L (i : Nat) : Fld := ⟨Reg.TLM_SNAP_SF_LO i, 0, 32⟩
def F.TLM_SNAP_SF_HI_COUNT_H (i : Nat) : Fld := ⟨Reg.TLM_SNAP_SF_HI i, 0, 32⟩
def F.TLM_SNAP_FRONT_LOST_LO_COUNT_L (i : Nat) : Fld := ⟨Reg.TLM_SNAP_FRONT_LOST_LO i, 0, 32⟩
def F.TLM_SNAP_FRONT_LOST_HI_COUNT_H (i : Nat) : Fld := ⟨Reg.TLM_SNAP_FRONT_LOST_HI i, 0, 32⟩
def F.TWIN_CTRL_EN : Fld := ⟨Reg.TWIN_CTRL, 0, 1⟩
def F.TWIN_CTRL_FOLLOW : Fld := ⟨Reg.TWIN_CTRL, 1, 1⟩
def F.TWIN_CTRL_HDR_IE : Fld := ⟨Reg.TWIN_CTRL, 31, 1⟩
def F.TWIN_INT_STATUS_ROLE_CHANGE : Fld := ⟨Reg.TWIN_INT_STATUS, 0, 1⟩
def F.TWIN_INT_STATUS_HB_LOST : Fld := ⟨Reg.TWIN_INT_STATUS, 1, 1⟩
def F.TWIN_INT_STATUS_HB_BACK : Fld := ⟨Reg.TWIN_INT_STATUS, 2, 1⟩
def F.TWIN_INT_STATUS_INTERLOCK_FAULT : Fld := ⟨Reg.TWIN_INT_STATUS, 3, 1⟩
def F.TWIN_INT_STATUS_LINK_UP : Fld := ⟨Reg.TWIN_INT_STATUS, 4, 1⟩
def F.TWIN_INT_STATUS_LINK_DOWN : Fld := ⟨Reg.TWIN_INT_STATUS, 5, 1⟩
def F.TWIN_INT_STATUS_IMAGE_NEW : Fld := ⟨Reg.TWIN_INT_STATUS, 6, 1⟩
def F.TWIN_INT_STATUS_XCHK_FAIL : Fld := ⟨Reg.TWIN_INT_STATUS, 7, 1⟩
def F.TWIN_INT_STATUS_SPLIT : Fld := ⟨Reg.TWIN_INT_STATUS, 8, 1⟩
def F.TWIN_INT_STATUS_DUAL_LEAD : Fld := ⟨Reg.TWIN_INT_STATUS, 9, 1⟩
def F.TWIN_INT_STATUS_PREF_CONFLICT : Fld := ⟨Reg.TWIN_INT_STATUS, 10, 1⟩
def F.TWIN_INT_STATUS_IMAGE_REJECT : Fld := ⟨Reg.TWIN_INT_STATUS, 11, 1⟩
def F.TWIN_INT_STATUS_ID_MISMATCH : Fld := ⟨Reg.TWIN_INT_STATUS, 12, 1⟩
def F.TWIN_INT_STATUS_LINK_CFG_REJECT : Fld := ⟨Reg.TWIN_INT_STATUS, 13, 1⟩
def F.TWIN_PAIR_CFG_PREF : Fld := ⟨Reg.TWIN_PAIR_CFG, 0, 1⟩
def F.TWIN_PAIR_CFG_LANE : Fld := ⟨Reg.TWIN_PAIR_CFG, 8, 5⟩
def F.TWIN_PAIR_CFG_PAIR_ID : Fld := ⟨Reg.TWIN_PAIR_CFG, 16, 16⟩
def F.TWIN_LIVE_ROLE : Fld := ⟨Reg.TWIN_LIVE, 0, 3⟩
def F.TWIN_LIVE_ADV : Fld := ⟨Reg.TWIN_LIVE, 3, 2⟩
def F.TWIN_LIVE_PEER_PATTERN : Fld := ⟨Reg.TWIN_LIVE, 5, 2⟩
def F.TWIN_LIVE_HB_OK : Fld := ⟨Reg.TWIN_LIVE, 7, 1⟩
def F.TWIN_LIVE_LINK_OK : Fld := ⟨Reg.TWIN_LIVE, 8, 1⟩
def F.TWIN_LIVE_YIELDING : Fld := ⟨Reg.TWIN_LIVE, 9, 1⟩
def F.TWIN_LIVE_IMAGE_AGE : Fld := ⟨Reg.TWIN_LIVE, 16, 8⟩
def F.TWIN_LIVE_PEER_ROLE : Fld := ⟨Reg.TWIN_LIVE, 24, 3⟩
def F.TWIN_TIMERS_SPLIT_HOLDOFF_MS : Fld := ⟨Reg.TWIN_TIMERS, 0, 16⟩
def F.TWIN_TIMERS_LINK_TIMEOUT_US : Fld := ⟨Reg.TWIN_TIMERS, 16, 16⟩
def F.TWIN_ROLE_GATE_PULSE : Fld := ⟨Reg.TWIN_ROLE_GATE, 0, 5⟩
def F.TWIN_ROLE_GATE_CLKOUT : Fld := ⟨Reg.TWIN_ROLE_GATE, 8, 4⟩
def F.TWIN_CMD_YIELD : Fld := ⟨Reg.TWIN_CMD, 0, 1⟩
def F.TWIN_CMD_RESUME : Fld := ⟨Reg.TWIN_CMD, 1, 1⟩
def F.TWIN_CMD_IMAGE_LOAD : Fld := ⟨Reg.TWIN_CMD, 2, 1⟩
def F.TWIN_XCHK_LIMIT_PS : Fld := ⟨Reg.TWIN_XCHK, 0, 16⟩
def F.TWIN_XCHK_COUNT : Fld := ⟨Reg.TWIN_XCHK, 16, 4⟩
def F.TWIN_XCHK_STATUS_MEAN : Fld := ⟨Reg.TWIN_XCHK_STATUS, 0, 32⟩
def F.TWIN_STEP_SUM_LO_NS_L : Fld := ⟨Reg.TWIN_STEP_SUM_LO, 0, 32⟩
def F.TWIN_STEP_SUM_HI_NS_H : Fld := ⟨Reg.TWIN_STEP_SUM_HI, 0, 32⟩
def F.TWIN_STEP_SUM_SUB_SUBNS : Fld := ⟨Reg.TWIN_STEP_SUM_SUB, 0, 20⟩
def F.TWIN_CLOCK_ID_LO_ID_L : Fld := ⟨Reg.TWIN_CLOCK_ID_LO, 0, 32⟩
def F.TWIN_CLOCK_ID_HI_ID_H : Fld := ⟨Reg.TWIN_CLOCK_ID_HI, 0, 32⟩
def F.TWIN_PEER_ID_LO_ID_L : Fld := ⟨Reg.TWIN_PEER_ID_LO, 0, 32⟩
def F.TWIN_PEER_ID_HI_ID_H : Fld := ⟨Reg.TWIN_PEER_ID_HI, 0, 32⟩
def F.TWIN_TX_PAYLOAD_DATA (i : Nat) : Fld := ⟨Reg.TWIN_TX_PAYLOAD i, 0, 32⟩
def F.TWIN_LNK_INT_STATUS_CNT_OVF : Fld := ⟨Reg.TWIN_LNK_INT_STATUS, 0, 1⟩
def F.TWIN_LNK_STATUS_OK (i : Nat) : Fld := ⟨Reg.TWIN_LNK_STATUS i, 0, 1⟩
def F.TWIN_LNK_STATUS_SILENT (i : Nat) : Fld := ⟨Reg.TWIN_LNK_STATUS i, 1, 1⟩
def F.TWIN_LNK_STATUS_PEER_HOP (i : Nat) : Fld := ⟨Reg.TWIN_LNK_STATUS i, 8, 3⟩
def F.TWIN_LNK_RX_FRAMES_LO_COUNT_L (i : Nat) : Fld := ⟨Reg.TWIN_LNK_RX_FRAMES_LO i, 0, 32⟩
def F.TWIN_LNK_RX_FRAMES_HI_COUNT_H (i : Nat) : Fld := ⟨Reg.TWIN_LNK_RX_FRAMES_HI i, 0, 32⟩
def F.TWIN_LNK_FRAME_ERR_COUNT (i : Nat) : Fld := ⟨Reg.TWIN_LNK_FRAME_ERR i, 0, 32⟩
def F.TWIN_LNK_SYNC_DISCARD_COUNT (i : Nat) : Fld := ⟨Reg.TWIN_LNK_SYNC_DISCARD i, 0, 32⟩
def F.TWIN_LNK_OFFSET_O (i : Nat) : Fld := ⟨Reg.TWIN_LNK_OFFSET i, 0, 32⟩
def F.TWIN_LNK_DELAY_D (i : Nat) : Fld := ⟨Reg.TWIN_LNK_DELAY i, 0, 32⟩
def F.TWIN_STK_INT_STATUS_STACK_UP : Fld := ⟨Reg.TWIN_STK_INT_STATUS, 0, 1⟩
def F.TWIN_STK_INT_STATUS_STACK_DOWN : Fld := ⟨Reg.TWIN_STK_INT_STATUS, 1, 1⟩
def F.TWIN_STK_INT_STATUS_MASTER_CONFLICT : Fld := ⟨Reg.TWIN_STK_INT_STATUS, 2, 1⟩
def F.TWIN_STK_INT_STATUS_STACK_TOO_LONG : Fld := ⟨Reg.TWIN_STK_INT_STATUS, 3, 1⟩
def F.TWIN_STK_INT_STATUS_XSTEP_DONE : Fld := ⟨Reg.TWIN_STK_INT_STATUS, 4, 1⟩
def F.TWIN_STK_INT_STATUS_XSTEP_FAIL : Fld := ⟨Reg.TWIN_STK_INT_STATUS, 5, 1⟩
def F.TWIN_STK_INT_STATUS_XSTEP_ORPHAN : Fld := ⟨Reg.TWIN_STK_INT_STATUS, 6, 1⟩
def F.TWIN_STACK_CFG_EN : Fld := ⟨Reg.TWIN_STACK_CFG, 0, 1⟩
def F.TWIN_STACK_CFG_MASTER : Fld := ⟨Reg.TWIN_STACK_CFG, 1, 1⟩
def F.TWIN_STACK_CFG_LANE_UP : Fld := ⟨Reg.TWIN_STACK_CFG, 2, 5⟩
def F.TWIN_STACK_CFG_UP_EN : Fld := ⟨Reg.TWIN_STACK_CFG, 7, 1⟩
def F.TWIN_STACK_CFG_LANE_DOWN : Fld := ⟨Reg.TWIN_STACK_CFG, 8, 5⟩
def F.TWIN_STACK_CFG_DOWN_EN : Fld := ⟨Reg.TWIN_STACK_CFG, 13, 1⟩
def F.TWIN_STACK_CFG_STACK_ID : Fld := ⟨Reg.TWIN_STACK_CFG, 16, 16⟩
def F.TWIN_STACK_STATUS_POS : Fld := ⟨Reg.TWIN_STACK_STATUS, 0, 3⟩
def F.TWIN_STACK_STATUS_POS_VALID : Fld := ⟨Reg.TWIN_STACK_STATUS, 3, 1⟩
def F.TWIN_XSTEP_AMT_LO_NS_L : Fld := ⟨Reg.TWIN_XSTEP_AMT_LO, 0, 32⟩
def F.TWIN_XSTEP_AMT_HI_NS_H : Fld := ⟨Reg.TWIN_XSTEP_AMT_HI, 0, 32⟩
def F.TWIN_XSTEP_AMT_SUB_FRAC : Fld := ⟨Reg.TWIN_XSTEP_AMT_SUB, 0, 32⟩
def F.TWIN_XSTEP_ARM0_SUBNS : Fld := ⟨Reg.TWIN_XSTEP_ARM0, 0, 20⟩
def F.TWIN_XSTEP_ARM0_FLAGS : Fld := ⟨Reg.TWIN_XSTEP_ARM0, 20, 10⟩
def F.TWIN_XSTEP_ARM1_W : Fld := ⟨Reg.TWIN_XSTEP_ARM1, 0, 32⟩
def F.TWIN_XSTEP_ARM2_W : Fld := ⟨Reg.TWIN_XSTEP_ARM2, 0, 32⟩
def F.TWIN_XSTEP_ARM3_W : Fld := ⟨Reg.TWIN_XSTEP_ARM3, 0, 16⟩
def F.TWIN_XSTEP_CMD_GO : Fld := ⟨Reg.TWIN_XSTEP_CMD, 0, 1⟩
def F.TWIN_XSTEP_CMD_ABORT : Fld := ⟨Reg.TWIN_XSTEP_CMD, 1, 1⟩
def F.TWIN_XSTEP_STATUS_STATE : Fld := ⟨Reg.TWIN_XSTEP_STATUS, 0, 2⟩
def F.TWIN_XSTEP_STATUS_RESULT : Fld := ⟨Reg.TWIN_XSTEP_STATUS, 2, 3⟩
def F.TWIN_XSTEP_STATUS_POS : Fld := ⟨Reg.TWIN_XSTEP_STATUS, 5, 3⟩
def F.TWIN_XSTEP_STATUS_CAUSE : Fld := ⟨Reg.TWIN_XSTEP_STATUS, 8, 3⟩
def F.TWIN_XSTEP_STATUS_XID : Fld := ⟨Reg.TWIN_XSTEP_STATUS, 16, 16⟩
def F.TWIN_XSTEP_GUARD_US : Fld := ⟨Reg.TWIN_XSTEP_GUARD, 0, 16⟩
def F.TWIN_SID_INT_STATUS_CNT_OVF (i : Nat) : Fld := ⟨Reg.TWIN_SID_INT_STATUS i, 0, 1⟩
def F.TWIN_SID_CFG_VALID (i : Nat) : Fld := ⟨Reg.TWIN_SID_CFG i, 0, 1⟩
def F.TWIN_SID_CFG_HIST_LEN (i : Nat) : Fld := ⟨Reg.TWIN_SID_CFG i, 1, 6⟩
def F.TWIN_SID_CFG_RESET_MS (i : Nat) : Fld := ⟨Reg.TWIN_SID_CFG i, 16, 16⟩
def F.TWIN_SID_DA_LO_MAC_L (i : Nat) : Fld := ⟨Reg.TWIN_SID_DA_LO i, 0, 32⟩
def F.TWIN_SID_DA_HI_MAC_H (i : Nat) : Fld := ⟨Reg.TWIN_SID_DA_HI i, 0, 16⟩
def F.TWIN_SID_DA_HI_VID (i : Nat) : Fld := ⟨Reg.TWIN_SID_DA_HI i, 16, 12⟩
def F.TWIN_SID_STATE_RECOV_SEQ (i : Nat) : Fld := ⟨Reg.TWIN_SID_STATE i, 0, 16⟩
def F.TWIN_SID_STATE_TAKE_ANY (i : Nat) : Fld := ⟨Reg.TWIN_SID_STATE i, 16, 1⟩
def F.TWIN_SID_PASSED_COUNT (i : Nat) : Fld := ⟨Reg.TWIN_SID_PASSED i, 0, 32⟩
def F.TWIN_SID_DISCARDED_COUNT (i : Nat) : Fld := ⟨Reg.TWIN_SID_DISCARDED i, 0, 32⟩
def F.TWIN_SID_OOO_COUNT (i : Nat) : Fld := ⟨Reg.TWIN_SID_OOO i, 0, 32⟩
def F.TWIN_SID_ROGUE_COUNT (i : Nat) : Fld := ⟨Reg.TWIN_SID_ROGUE i, 0, 32⟩
def F.TWIN_SID_LOST_COUNT (i : Nat) : Fld := ⟨Reg.TWIN_SID_LOST i, 0, 32⟩
def F.TWIN_SID_TAGLESS_COUNT (i : Nat) : Fld := ⟨Reg.TWIN_SID_TAGLESS i, 0, 32⟩
def F.TWIN_SID_RESETS_COUNT (i : Nat) : Fld := ⟨Reg.TWIN_SID_RESETS i, 0, 32⟩
def F.HRTH_INT_STATUS_BOOT_FAIL : Fld := ⟨Reg.HRTH_INT_STATUS, 0, 1⟩
def F.HRTH_INT_STATUS_RUNNING : Fld := ⟨Reg.HRTH_INT_STATUS, 1, 1⟩
def F.HRTH_INT_STATUS_LOAD_DENIED : Fld := ⟨Reg.HRTH_INT_STATUS, 2, 1⟩
def F.HRTH_INT_STATUS_FW_READY : Fld := ⟨Reg.HRTH_INT_STATUS, 3, 1⟩
def F.HRTH_INT_STATUS_FUSE_REFUSED : Fld := ⟨Reg.HRTH_INT_STATUS, 4, 1⟩
def F.HRTH_BOOT_STATUS_STATE : Fld := ⟨Reg.HRTH_BOOT_STATUS, 0, 3⟩
def F.HRTH_BOOT_STATUS_CODE : Fld := ⟨Reg.HRTH_BOOT_STATUS, 8, 3⟩
def F.HRTH_BOOT_STATUS_SLOT : Fld := ⟨Reg.HRTH_BOOT_STATUS, 12, 2⟩
def F.HRTH_LOAD_ADDR_ADDR : Fld := ⟨Reg.HRTH_LOAD_ADDR, 0, 22⟩
def F.HRTH_LOAD_DATA_DATA : Fld := ⟨Reg.HRTH_LOAD_DATA, 0, 32⟩
def F.HRTH_BOOT_CMD_GO : Fld := ⟨Reg.HRTH_BOOT_CMD, 0, 1⟩
def F.HRTH_BOOT_CMD_RESTART : Fld := ⟨Reg.HRTH_BOOT_CMD, 1, 1⟩
def F.HRTH_FUSE_SLOT_VALID : Fld := ⟨Reg.HRTH_FUSE, 0, 4⟩
def F.HRTH_FUSE_SLOT_REVOKED : Fld := ⟨Reg.HRTH_FUSE, 4, 4⟩
def F.HRTH_FUSE_SECVER : Fld := ⟨Reg.HRTH_FUSE, 8, 7⟩
def F.HRTH_FW_STATUS_READY : Fld := ⟨Reg.HRTH_FW_STATUS, 0, 1⟩
def F.HRTH_FW_STATUS_VERSION : Fld := ⟨Reg.HRTH_FW_STATUS, 16, 16⟩
def F.HRTH_FUSE_CMD_REVOKE : Fld := ⟨Reg.HRTH_FUSE_CMD, 0, 4⟩
def F.HRTH_FUSE_CMD_SECVER_INC : Fld := ⟨Reg.HRTH_FUSE_CMD, 8, 1⟩
def F.HRTH_FUSE_CMD_GO : Fld := ⟨Reg.HRTH_FUSE_CMD, 31, 1⟩
def F.FLT_CTRL_ECC_EN : Fld := ⟨Reg.FLT_CTRL, 0, 1⟩
def F.FLT_CTRL_SCRUB_EN : Fld := ⟨Reg.FLT_CTRL, 1, 1⟩
def F.FLT_CTRL_HDR_IE : Fld := ⟨Reg.FLT_CTRL, 31, 1⟩
def F.FLT_INT_STATUS_FAULT : Fld := ⟨Reg.FLT_INT_STATUS, 0, 1⟩
def F.FLT_INT_STATUS_LOG_OVERWRITE : Fld := ⟨Reg.FLT_INT_STATUS, 1, 1⟩
def F.FLT_INT_STATUS_WDOG_EXPIRE : Fld := ⟨Reg.FLT_INT_STATUS, 2, 1⟩
def F.FLT_INT_STATUS_COVER_LOST : Fld := ⟨Reg.FLT_INT_STATUS, 3, 1⟩
def F.FLT_INT_STATUS_CNT_OVF : Fld := ⟨Reg.FLT_INT_STATUS, 4, 1⟩
def F.FLT_LIVE_COVERED : Fld := ⟨Reg.FLT_LIVE, 0, 1⟩
def F.FLT_LIVE_ECC_SCRUB_OK : Fld := ⟨Reg.FLT_LIVE, 1, 1⟩
def F.FLT_LIVE_AUDIT_OK : Fld := ⟨Reg.FLT_LIVE, 2, 1⟩
def F.FLT_LIVE_WDOG_OK : Fld := ⟨Reg.FLT_LIVE, 3, 1⟩
def F.FLT_LIVE_TWIN_OK : Fld := ⟨Reg.FLT_LIVE, 4, 1⟩
def F.FLT_LIVE_HUNG : Fld := ⟨Reg.FLT_LIVE, 8, 4⟩
def F.FLT_SCRUB_PERIOD_MS : Fld := ⟨Reg.FLT_SCRUB, 0, 6⟩
def F.FLT_WDOG_TIMEOUT_MS : Fld := ⟨Reg.FLT_WDOG, 0, 4⟩
def F.FLT_WDOG_CORE_EN : Fld := ⟨Reg.FLT_WDOG, 8, 4⟩
def F.FLT_WDOG_INT_N_EN : Fld := ⟨Reg.FLT_WDOG, 12, 1⟩
def F.FLT_WDOG_KICK_KICK : Fld := ⟨Reg.FLT_WDOG_KICK, 0, 4⟩
def F.FLT_CLASS_PEND_PEND : Fld := ⟨Reg.FLT_CLASS_PEND, 1, 18⟩
def F.FLT_CLASS_CFG_LOG_EN (i : Nat) : Fld := ⟨Reg.FLT_CLASS_CFG i, 0, 1⟩
def F.FLT_CLASS_CFG_INT_EN (i : Nat) : Fld := ⟨Reg.FLT_CLASS_CFG i, 1, 1⟩
def F.FLT_CLASS_CFG_YIELD (i : Nat) : Fld := ⟨Reg.FLT_CLASS_CFG i, 2, 1⟩
def F.FLT_CLASS_COUNT_COUNT (i : Nat) : Fld := ⟨Reg.FLT_CLASS_COUNT i, 0, 32⟩
def F.FLT_LOG_HEAD_NEXT : Fld := ⟨Reg.FLT_LOG_HEAD, 0, 6⟩
def F.FLT_LOG_HEAD_SEQ_NEXT : Fld := ⟨Reg.FLT_LOG_HEAD, 16, 16⟩
def F.FLT_LOG_W (i : Nat) : Fld := ⟨Reg.FLT_LOG i, 0, 32⟩
def F.TST_INT_STATUS_FUSE_DONE : Fld := ⟨Reg.TST_INT_STATUS, 0, 1⟩
def F.TST_INT_STATUS_FUSE_REFUSED : Fld := ⟨Reg.TST_INT_STATUS, 1, 1⟩
def F.TST_INT_STATUS_ACCESS_LOCKED : Fld := ⟨Reg.TST_INT_STATUS, 2, 1⟩
def F.TST_PORT_CTRL_LOCK : Fld := ⟨Reg.TST_PORT_CTRL, 0, 1⟩
def F.TST_TAP_STATUS_IR : Fld := ⟨Reg.TST_TAP_STATUS, 0, 8⟩
def F.TST_TAP_STATUS_BOARD_TEST : Fld := ⟨Reg.TST_TAP_STATUS, 8, 1⟩
def F.TST_MET_CTRL_EXT_SELF : Fld := ⟨Reg.TST_MET_CTRL, 0, 1⟩
def F.TST_RAW_TX_SLOT0 (i : Nat) : Fld := ⟨Reg.TST_RAW_TX i, 0, 9⟩
def F.TST_RAW_TX_SLOT1 (i : Nat) : Fld := ⟨Reg.TST_RAW_TX i, 10, 9⟩
def F.TST_RAW_RX_SLOT0 (i : Nat) : Fld := ⟨Reg.TST_RAW_RX i, 0, 9⟩
def F.TST_RAW_RX_ERR0 (i : Nat) : Fld := ⟨Reg.TST_RAW_RX i, 9, 1⟩
def F.TST_RAW_RX_SLOT1 (i : Nat) : Fld := ⟨Reg.TST_RAW_RX i, 10, 9⟩
def F.TST_RAW_RX_ERR1 (i : Nat) : Fld := ⟨Reg.TST_RAW_RX i, 19, 1⟩
def F.TST_RAW_RX_VALID (i : Nat) : Fld := ⟨Reg.TST_RAW_RX i, 31, 1⟩

end Sys2Proof.Machine
end

