-- ==== Sys2Proof/Machine/RegTable.lean ====
section
/-!
DEFINITION. Sys2Proof/Machine/RegTable.lean: the access classes and reset values of the direct registers, from the
field tables of the chapters (R9 gives the classes), and the populated pages with their block codes (R63). The common
page header (R61 to R69) is made by rule for every populated page.
-/
namespace Sys2Proof.Machine

/-- What a write of a register sets off beyond storing its fields; each chapter gives it. -/
inductive Act where
  | none
  | intForce
  | enumCmd
  | warnLevel
  | tempWarn
  | window
  | irqEoi
  | mboxWr
  | mboxCmd
  | dlnLaneCtrl
  | dlnPrbs
  | dlnErrInj
  | alnCtrl
  | alnPrbs
  | alnErrInj
  | tbaseCtrl
  | tbaseCmd
  | txtsPop
  | outCtrl
  | outPeriod
  | outWidth
  | outCmd
  | bankCtrl
  | cellProof
  | cellReturn
  | cdStart
  | tableLoad
  | extCtrl
  | extCmd
  | srcCfg
  | asym
  | hoCtrl
  | loopCmd
  | lockA
  | refCfg
  | refFreqHz
  | refDelay
  | refCmd
  | clkoutCtrl
  | skyCtrl
  | skyClkHz
  | skySnap
  | recWord
  | skyFix
  | prfCmd
  | portCfg
  | commitCmd
  | hinjDesc
  | hinjData
  | hinjCmd
  | bufAudit
  | bufUsed
  | bufXoff
  | bufPortCfg
  | forgive
  | sampleCtrl
  | polCfg
  | tagCtrl
  | dmaCtrl
  | slotCmd
  | twinCtrl
  | pairCfg
  | roleGate
  | twinCmd
  | stackCfg
  | xstepCmd
  | sidCfg
  | loadAddr
  | loadData
  | bootCmd
  | fuseCmd
  | fltCfg
  | wdogKick
  | rawTx
deriving DecidableEq, Repr

/-- A register whose value is formed when it is read. -/
inductive Live where
  | none
  | indStatus
  | irqBlock
  | irqPend
  | mboxRd
  | mboxState
  | quadStatus
  | laneStatus
  | alnStatus
  | tbLive
  | txtsLevel
  | txtsRec
  | txtsTag
  | metTcnt
  | extStatus
  | extRes
  | portLive
  | fwdStage
  | hinjCmd
  | schdStatus
  | schdQstate
  | pclk
  | hrthFuse
  | tapStatus
deriving DecidableEq, Repr

/-- A field that holds values from `min` to `max` only: what a write below and above them stores. -/
structure FitRule where
  lo : Nat
  w : Nat
  min : Nat
  max : Nat
  below : Nat
  above : Nat
deriving DecidableEq, Repr

/-- A rule that changes the value a write stores. -/
inductive Norm where
  | none
  | lockBit
  | format
  | warnLevel
  | indCtrl
  | prbsDln
  | alnCtrl
  | prbsAln
  | xchkCtrl
  | cdSpan
  | srcCfg
  | tagCtrl
  | evtCfg
  | thrCfg
  | fit (rules : List FitRule)
deriving DecidableEq, Repr

/-- Whether a register is a counter word, and which (R86 to R91). -/
inductive Ctr where
  | none
  | w32
  | lo
  | hi
deriving DecidableEq, Repr

/-- One register: the bits of each access class of R9, its reset value by index, its counter kind with the overflow
bit of its own page's INT_STATUS (or of another page's, given by address), and what reads and writes of it set off. -/
structure RegDef where
  rw : Word := 0
  rwl : Word := 0
  wo : Word := 0
  rc : Word := 0
  w1p : Word := 0
  reset : Nat → Word := fun _ => 0
  act : Act := .none
  live : Live := .none
  norm : Norm := .none
  ctr : Ctr := .none
  ovfBit : Option Nat := none
  ovf : Option (Nat × Nat) := none

/-- A register or register array in a page: word offset, count and stride inside the page, count and stride inside each of
those, how many instances there are in all, and the first of the run of pages it is on with how many pages carry it. -/
structure RegRow where
  off : Nat
  n : Nat
  s : Nat
  n2 : Nat
  s2 : Nat
  max : Nat
  firstPg : Nat
  pgs : Nat
  rd : RegDef

/-- A run of populated pages of one layout. -/
structure PageRow where
  first : Nat
  n : Nat
  code : Nat
  blockFirst : Nat
  rows : List RegRow

def Rd.CHIP_INT_STATUS : RegDef := { rc := 0x7#32 }
def Rd.CHIP_ID : RegDef := { reset := fun _ => 0x7680b000#32 }
def Rd.CHIP_MFR : RegDef := { reset := fun _ => 0x75a3#32 }
def Rd.CHIP_UNIT : RegDef := { }
def Rd.CHIP_STRAPS : RegDef := { }
def Rd.CHIP_ENUM_CMD : RegDef := { w1p := 0x1#32, act := .enumCmd }
def Rd.PWR_INT_STATUS : RegDef := { rc := 0x1ff#32 }
def Rd.PWR_VIN : RegDef := { }
def Rd.PWR_IIN : RegDef := { }
def Rd.PWR_PIN : RegDef := { }
def Rd.PWR_LIVE : RegDef := { }
def Rd.PWR_WARN_LEVEL : RegDef := { rwl := 0xffff#32, reset := fun _ => 0x15e0#32, act := .warnLevel, norm := .warnLevel }
def Rd.PWR_TEMP : RegDef := { }
def Rd.PWR_TEMP_WARN : RegDef := { rw := 0xfff#32, reset := fun _ => 0x190#32, act := .tempWarn }
def Rd.PWR_HOLDUP : RegDef := { }
def Rd.PWR_RAIL_V : RegDef := { }
def Rd.IND_ADDR : RegDef := { rw := 0xffffffff#32, act := .window }
def Rd.IND_DATA : RegDef := { rw := 0xffffffff#32, act := .window }
def Rd.IND_CTRL : RegDef := { rw := 0x103#32, act := .window, norm := .indCtrl }
def Rd.IND_STATUS : RegDef := { rc := 0x3e#32, live := .indStatus }
def Rd.HOST_INT_STATUS : RegDef := { rc := 0x1f#32 }
def Rd.HOST_PF1_WRITE_EN : RegDef := { rwl := 0x3fffff#32, reset := fun _ => 0x3fffff#32 }
def Rd.HOST_ERR_ADDR : RegDef := { }
def Rd.IRQ_BLOCK_STATUS : RegDef := { live := .irqBlock }
def Rd.IRQ_ROUTE : RegDef := { rw := 0x1033f#32 }
def Rd.IRQ_MBOX_ROUTE : RegDef := { rw := 0x1033f#32 }
def Rd.IRQ_EOI : RegDef := { rw := 0x13f#32, w1p := 0x80000000#32, act := .irqEoi }
def Rd.IRQ_PAGE_PEND : RegDef := { live := .irqPend }
def Rd.MBOX_INT_STATUS : RegDef := { rc := 0xfff#32 }
def Rd.MBOX_Q_WR : RegDef := { w1p := 0xffffffff#32, act := .mboxWr }
def Rd.MBOX_Q_RD : RegDef := { live := .mboxRd }
def Rd.MBOX_Q_CMD : RegDef := { w1p := 0x7#32, act := .mboxCmd }
def Rd.MBOX_Q_STATE : RegDef := { live := .mboxState }
def Rd.MBOX_Q_MASK : RegDef := { wo := 0xff#32, reset := fun i => if i%2=0 then 0x07 else 0xF0 }
def Rd.DLN_INT_STATUS : RegDef := { rc := 0x7ffffff#32 }
def Rd.DLN_QUAD_STATUS : RegDef := { reset := fun i => BitVec.ofNat 32 (2 + 256 * (i / 32)), live := .quadStatus }
def Rd.DLN_ADAPT_ENTROPY_MIN : RegDef := { rw := 0xff#32, reset := fun _ => 0x60#32 }
def Rd.DLN_LANE_CTRL : RegDef := { rw := 0x17f#32, w1p := 0x80#32, act := .dlnLaneCtrl }
def Rd.DLN_LANE_STATUS : RegDef := { reset := fun _ => 0x4000#32, live := .laneStatus }
def Rd.DLN_DENSITY : RegDef := { }
def Rd.DLN_PRBS_CTRL : RegDef := { rw := 0xf0f#32, w1p := 0x10000#32, act := .dlnPrbs, norm := .prbsDln }
def Rd.DLN_ERR_INJ : RegDef := { rw := 0xffff#32, w1p := 0x80000000#32, act := .dlnErrInj }
def Rd.DLN_PRBS_ERR_LO : RegDef := { rw := 0xffffffff#32, ctr := .lo, ovfBit := some 24 }
def Rd.DLN_PRBS_ERR_HI : RegDef := { rw := 0xffffffff#32, ctr := .hi, ovfBit := some 24 }
def Rd.DLN_PRBS_BITS_LO : RegDef := { rw := 0xffffffff#32, ctr := .lo, ovfBit := some 24 }
def Rd.DLN_PRBS_BITS_HI : RegDef := { rw := 0xffffffff#32, ctr := .hi, ovfBit := some 24 }
def Rd.DLN_FE_SLIP : RegDef := { rw := 0xffffffff#32, ctr := .w32, ovfBit := some 24 }
def Rd.ALN_INT_STATUS : RegDef := { rc := 0x1ff#32 }
def Rd.ALN_CTRL : RegDef := { rw := 0xff7#32, w1p := 0x1000#32, act := .alnCtrl, norm := .alnCtrl }
def Rd.ALN_LANE_STATUS : RegDef := { reset := fun _ => 0x400#32, live := .alnStatus }
def Rd.ALN_PRBS_CTRL : RegDef := { rw := 0xf0f#32, w1p := 0x10000#32, act := .alnPrbs, norm := .prbsAln }
def Rd.ALN_ERR_INJ : RegDef := { rw := 0xffff#32, w1p := 0x80000000#32, act := .alnErrInj }
def Rd.ALN_CODE_ERR_LO : RegDef := { rw := 0xffffffff#32, ctr := .lo, ovfBit := some 6 }
def Rd.ALN_CODE_ERR_HI : RegDef := { rw := 0xffffffff#32, ctr := .hi, ovfBit := some 6 }
def Rd.ALN_DISP_ERR_LO : RegDef := { rw := 0xffffffff#32, ctr := .lo, ovfBit := some 6 }
def Rd.ALN_DISP_ERR_HI : RegDef := { rw := 0xffffffff#32, ctr := .hi, ovfBit := some 6 }
def Rd.ALN_PRBS_ERR_LO : RegDef := { rw := 0xffffffff#32, ctr := .lo, ovfBit := some 6 }
def Rd.ALN_PRBS_ERR_HI : RegDef := { rw := 0xffffffff#32, ctr := .hi, ovfBit := some 6 }
def Rd.ALN_PRBS_BITS_LO : RegDef := { rw := 0xffffffff#32, ctr := .lo, ovfBit := some 6 }
def Rd.ALN_PRBS_BITS_HI : RegDef := { rw := 0xffffffff#32, ctr := .hi, ovfBit := some 6 }
def Rd.ALN_COMMA_MISPLACED : RegDef := { rw := 0xffffffff#32, ctr := .w32, ovfBit := some 6 }
def Rd.TBASE_CTRL : RegDef := { rw := 0x80000000#32, wo := 0x3#32, reset := fun _ => 0x80000000#32, act := .tbaseCtrl, norm := .format }
def Rd.TBASE_INT_STATUS : RegDef := { rc := 0x3fff#32 }
def Rd.TBASE_LIVE : RegDef := { live := .tbLive }
def Rd.TBASE_INC_LO : RegDef := { rw := 0xffffffff#32, reset := fun _ => 0x147ae148#32 }
def Rd.TBASE_INC_HI : RegDef := { rw := 0xffffff#32, reset := fun _ => 0x147ae#32 }
def Rd.TBASE_INC_CUR_LO : RegDef := { reset := fun _ => 0x147ae148#32 }
def Rd.TBASE_INC_CUR_HI : RegDef := { reset := fun _ => 0x147ae#32 }
def Rd.TBASE_STEP_LO : RegDef := { rw := 0xffffffff#32 }
def Rd.TBASE_STEP_HI : RegDef := { rw := 0xffffffff#32 }
def Rd.TBASE_STEP_SUB : RegDef := { rw := 0xfffff#32 }
def Rd.TBASE_LOAD0 : RegDef := { rw := 0xfffff#32 }
def Rd.TBASE_LOAD1 : RegDef := { rw := 0xffffffff#32 }
def Rd.TBASE_LOAD2 : RegDef := { rw := 0xffffffff#32 }
def Rd.TBASE_LOAD3 : RegDef := { rw := 0xffff#32 }
def Rd.TBASE_ARM0 : RegDef := { rw := 0xfffff#32 }
def Rd.TBASE_ARM1 : RegDef := { rw := 0xffffffff#32 }
def Rd.TBASE_ARM2 : RegDef := { rw := 0xffffffff#32 }
def Rd.TBASE_ARM3 : RegDef := { rw := 0xffff#32 }
def Rd.TBASE_CMD : RegDef := { rw := 0x100#32, w1p := 0x3f#32, act := .tbaseCmd }
def Rd.TBASE_SNAP_REC : RegDef := { }
def Rd.TBASE_APPLIED_REC : RegDef := { }
def Rd.TBASE_TXTS_STATUS : RegDef := { live := .txtsLevel }
def Rd.TBASE_TXTS_REC : RegDef := { live := .txtsRec }
def Rd.TBASE_TXTS4 : RegDef := { live := .txtsTag }
def Rd.TBASE_TXTS_POP : RegDef := { w1p := 0x1#32, act := .txtsPop }
def Rd.TBASE_TXTS_OVF : RegDef := { rw := 0xffffffff#32, ctr := .w32, ovfBit := some 8 }
def Rd.TBASE_OUT_CTRL : RegDef := { rw := 0x3#32, act := .outCtrl }
def Rd.TBASE_OUT_PERIOD : RegDef := { rw := 0xffffffff#32, reset := fun _ => 0x3b9aca00#32, act := .outPeriod }
def Rd.TBASE_OUT_PHASE : RegDef := { rw := 0xffffffff#32 }
def Rd.TBASE_OUT_WIDTH : RegDef := { rw := 0xffffffff#32, reset := fun _ => 0x64#32, act := .outWidth }
def Rd.TBASE_OUT_DELAY : RegDef := { rw := 0xffff#32 }
def Rd.TBASE_OUT_OFFSET_LO : RegDef := { }
def Rd.TBASE_OUT_OFFSET_HI : RegDef := { }
def Rd.TBASE_OUT_CMD : RegDef := { w1p := 0x1#32, act := .outCmd }
def Rd.TBASE_PORT_TS_CTRL : RegDef := { rw := 0x7#32 }
def Rd.TBASE_PORT_RXFIX : RegDef := { }
def Rd.TBASE_PORT_TXFIX : RegDef := { }
def Rd.MET_INT_STATUS : RegDef := { rc := 0x7ffff#32 }
def Rd.MET_BANK_CTRL : RegDef := { rw := 0x3ff#32, w1p := 0x10000#32, reset := fun _ => 0x10#32, act := .bankCtrl }
def Rd.MET_BANK_STATUS : RegDef := { reset := fun _ => 0x10#32 }
def Rd.MET_TCNT : RegDef := { live := .metTcnt }
def Rd.MET_XCHK_CTRL : RegDef := { rwl := 0xfffff#32, reset := fun _ => 0x20606#32, norm := .xchkCtrl }
def Rd.MET_XCHK_STATUS : RegDef := { }
def Rd.MET_CELL_OUT : RegDef := { }
def Rd.MET_CELL_PROOF : RegDef := { rw := 0xffffffff#32, act := .cellProof }
def Rd.MET_CELL_RETURN : RegDef := { w1p := 0xffffffff#32, act := .cellReturn }
def Rd.MET_CD_START : RegDef := { w1p := 0xffffffff#32, act := .cdStart }
def Rd.MET_CD_BUSY : RegDef := { }
def Rd.MET_CD_SPAN : RegDef := { rw := 0x1fffff#32, reset := fun _ => 0x80000#32, norm := .cdSpan }
def Rd.MET_CD_MAXSHIFT : RegDef := { rw := 0xfffff#32, reset := fun _ => 0x1000#32 }
def Rd.MET_TABLE_LOAD : RegDef := { w1p := 0xffffffff#32, act := .tableLoad }
def Rd.MET_EXT_CTRL : RegDef := { rw := 0x1f#32, act := .extCtrl }
def Rd.MET_EXT_REF : RegDef := { rw := 0xffffffff#32, reset := fun _ => 0x3200003#32 }
def Rd.MET_EXT_TIMEOUT : RegDef := { rw := 0xffff#32 }
def Rd.MET_EXT_STATUS : RegDef := { live := .extStatus }
def Rd.MET_EXT_CMD : RegDef := { w1p := 0x7#32, act := .extCmd }
def Rd.MET_EXT_RES : RegDef := { live := .extRes }
def Rd.MET_CELL_STATUS : RegDef := { reset := fun _ => 0x4#32 }
def Rd.MET_CELL_FLOOR : RegDef := { rw := 0xfff#32, reset := fun _ => 0x700#32 }
def Rd.MET_CELL_RESULTS_LO : RegDef := { rw := 0xffffffff#32, ctr := .lo, ovf := some (0x184004, 18) }
def Rd.MET_CELL_RESULTS_HI : RegDef := { rw := 0xffffffff#32, ctr := .hi, ovf := some (0x184004, 18) }
def Rd.MET_CELL_INVALID : RegDef := { rw := 0xffffffff#32, ctr := .w32, ovf := some (0x184004, 18) }
def Rd.MET_CELL_PILOT : RegDef := { }
def Rd.MET_CELL_CD : RegDef := { reset := fun _ => 0x6#32 }
def Rd.MET_SRC_CFG : RegDef := { rw := 0x3ff0007#32, act := .srcCfg, norm := .srcCfg }
def Rd.MET_SRC_LAST : RegDef := { }
def Rd.MET_SRC_COARSE : RegDef := { }
def Rd.MET_SRC_MEAN : RegDef := { }
def Rd.MET_SCHED : RegDef := { rw := 0x800003ff#32 }
def Rd.MET_PORT_ASYM_COEF : RegDef := { rw := 0xffffffff#32, act := .asym }
def Rd.MET_PORT_MPD : RegDef := { rw := 0xffffffff#32, act := .asym }
def Rd.MET_PORT_ASYM : RegDef := { }
def Rd.LOOP_INT_STATUS : RegDef := { rc := 0xfffff#32 }
def Rd.LOOP_CTRL : RegDef := { rw := 0x1ff#32, reset := fun _ => 0xc#32, norm := .fit [⟨0, 2, 0, 2, 0, 0⟩, ⟨4, 5, 0, 22, 0, 0⟩] }
def Rd.LOOP_STATUS : RegDef := { reset := fun _ => 0x37c7ffe#32 }
def Rd.LOOP_BW : RegDef := { rw := 0xffffffff#32, reset := fun _ => 0xaa003e8#32, norm := .fit [⟨0, 17, 1, 100000, 1, 100000⟩, ⟨17, 7, 8, 127, 8, 127⟩, ⟨24, 8, 1, 100, 1, 100⟩] }
def Rd.LOOP_SLOPE : RegDef := { rw := 0xfffff#32, reset := fun _ => 0x3e8#32, norm := .fit [⟨0, 20, 1000, 1000000, 1000, 1000000⟩] }
def Rd.LOOP_PHASE_ACCEPT : RegDef := { rw := 0xffffffff#32, reset := fun _ => 0x186a0#32 }
def Rd.LOOP_FREQ_DISAGREE : RegDef := { rw := 0xffff#32, reset := fun _ => 0xa00#32 }
def Rd.LOOP_FREQ_LIMIT : RegDef := { rwl := 0x3ffff#32, reset := fun _ => 0xc350#32, norm := .fit [⟨0, 18, 0, 200000, 0, 200000⟩] }
def Rd.LOOP_JUMP_LIMIT : RegDef := { rw := 0xffff#32, reset := fun _ => 0x7d0#32, norm := .fit [⟨0, 16, 100, 65535, 100, 65535⟩] }
def Rd.LOOP_FREQ_LO : RegDef := { }
def Rd.LOOP_FREQ_HI : RegDef := { }
def Rd.LOOP_HO_CTRL : RegDef := { rw := 0x1ff3fff#32, reset := fun _ => 0x102012c#32, act := .hoCtrl, norm := .fit [⟨0, 14, 1, 16128, 1, 16128⟩] }
def Rd.LOOP_HO_FREQ_LO : RegDef := { }
def Rd.LOOP_HO_FREQ_HI : RegDef := { }
def Rd.LOOP_HO_DRIFT : RegDef := { }
def Rd.LOOP_HO_TIME : RegDef := { }
def Rd.LOOP_PHASE_ADJ : RegDef := { rw := 0xffffffff#32 }
def Rd.LOOP_CMD : RegDef := { w1p := 0x3f#32, act := .loopCmd }
def Rd.LOOP_MPLL_CTRL : RegDef := { rwl := 0xffff#32, reset := fun _ => 0x3e8#32, norm := .fit [⟨0, 16, 100, 65535, 100, 65535⟩] }
def Rd.LOOP_MPLL_STATUS : RegDef := { }
def Rd.LOOP_LOL_COUNT : RegDef := { rw := 0xffffffff#32, ctr := .w32, ovfBit := some 19 }
def Rd.LOOP_LOCK_A : RegDef := { rw := 0xffffff01#32, reset := fun _ => 0x3e801#32, act := .lockA, norm := .fit [⟨8, 24, 1, 16777215, 1, 16777215⟩] }
def Rd.LOOP_BT_LO : RegDef := { }
def Rd.LOOP_BT_HI : RegDef := { }
def Rd.LOOP_BT_SUB : RegDef := { }
def Rd.LOOP_BC : RegDef := { }
def Rd.LOOP_REF_INT_STATUS : RegDef := { rc := 0xffffff#32 }
def Rd.LOOP_REF_CFG : RegDef := { rw := 0x3ffffdf#32, reset := fun _ => 0xa0000#32, act := .refCfg, norm := .fit [⟨16, 10, 1, 1023, 1, 1023⟩] }
def Rd.LOOP_REF_FREQ_HZ : RegDef := { rw := 0x1fffffff#32, reset := fun i => if i<4 then 10000000 else 0, act := .refFreqHz }
def Rd.LOOP_REF_DELAY : RegDef := { rw := 0xffffffff#32, act := .refDelay }
def Rd.LOOP_REF_TOL : RegDef := { rw := 0x1ffff#32, reset := fun _ => 0x11f8#32 }
def Rd.LOOP_REF_STATUS : RegDef := { }
def Rd.LOOP_REF_PHASE : RegDef := { }
def Rd.LOOP_REF_FREQ : RegDef := { }
def Rd.LOOP_REF_JUMP : RegDef := { }
def Rd.LOOP_REF_ENTRY_PHASE : RegDef := { }
def Rd.LOOP_REF_CMD : RegDef := { w1p := 0x3#32, act := .refCmd }
def Rd.LOOP_CLKOUT_CTRL : RegDef := { rw := 0x3#32, w1p := 0x4#32, act := .clkoutCtrl }
def Rd.LOOP_CLKOUT_DIV : RegDef := { rw := 0xffff#32, reset := fun _ => 0x4e2#32 }
def Rd.LOOP_CLKOUT_PHASE : RegDef := { rw := 0xffffffff#32 }
def Rd.SKY_CTRL : RegDef := { rw := 0x8000001f#32, reset := fun _ => 0x80000000#32, act := .skyCtrl }
def Rd.SKY_INT_STATUS : RegDef := { rc := 0x1fff#32 }
def Rd.SKY_LIVE : RegDef := { }
def Rd.SKY_CLK_HZ : RegDef := { rw := 0xffffffff#32, reset := fun _ => 0x4e0c780#32, act := .skyClkHz }
def Rd.SKY_CLK_MEAS : RegDef := { }
def Rd.SKY_SAMPLE_COUNT : RegDef := { }
def Rd.SKY_EPOCH_SAMPLES : RegDef := { rw := 0xffffff#32, reset := fun _ => 0x13faf#32 }
def Rd.SKY_RING_BASE : RegDef := { rw := 0x3fffff#32 }
def Rd.SKY_RING_LEN : RegDef := { rw := 0xf#32, reset := fun _ => 0x8#32, norm := .fit [⟨0, 4, 8, 14, 8, 8⟩] }
def Rd.SKY_RING_WR : RegDef := { }
def Rd.SKY_RING_RD : RegDef := { rw := 0x3fff#32 }
def Rd.SKY_RING_IRQ : RegDef := { rw := 0xff#32, reset := fun _ => 0x1#32 }
def Rd.SKY_RING_DROP : RegDef := { rw := 0xffffffff#32, ctr := .w32, ovfBit := some 11 }
def Rd.SKY_FIX_FAIL : RegDef := { rw := 0xffffffff#32, ctr := .w32, ovfBit := some 11 }
def Rd.SKY_SNAP_CTRL : RegDef := { rw := 0x1f01#32, w1p := 0x80000000#32, reset := fun _ => 0xa00#32, act := .skySnap, norm := .fit [⟨8, 5, 1, 20, 1, 20⟩] }
def Rd.SKY_SNAP_BASE : RegDef := { rw := 0x3fffff#32 }
def Rd.SKY_SNAP_START : RegDef := { }
def Rd.SKY_CHECK : RegDef := { rw := 0xffff0f3f#32, reset := fun _ => 0x27100304#32, norm := .fit [⟨0, 6, 1, 63, 1, 63⟩, ⟨8, 4, 1, 15, 1, 15⟩] }
def Rd.SKY_CLK_LIMIT : RegDef := { rw := 0xffffffff#32, reset := fun _ => 0xc350#32 }
def Rd.SKY_TUNC_MAX : RegDef := { rw := 0xffffffff#32, reset := fun _ => 0x186a0#32 }
def Rd.SKY_FIX_TIMEOUT : RegDef := { rw := 0xffff#32, reset := fun _ => 0x7d0#32, norm := .fit [⟨0, 16, 1, 65535, 1, 65535⟩] }
def Rd.SKY_REQUAL : RegDef := { rw := 0xfff#32, reset := fun _ => 0x1e#32, norm := .fit [⟨0, 12, 1, 3600, 1, 3600⟩] }
def Rd.SKY_FIX_T : RegDef := { rw := 0xffffffff#32, act := .recWord }
def Rd.SKY_FIX_OFFSET_LO : RegDef := { rw := 0xffffffff#32 }
def Rd.SKY_FIX_OFFSET_HI : RegDef := { rw := 0xffffffff#32 }
def Rd.SKY_FIX_RATE : RegDef := { rw := 0xffffffff#32 }
def Rd.SKY_FIX_INFO : RegDef := { rw := 0xffffff3f#32 }
def Rd.SKY_FIX_CMD : RegDef := { w1p := 0x1#32, act := .skyFix }
def Rd.SKY_FIX_STATUS : RegDef := { }
def Rd.SKY_TIME : RegDef := { }
def Rd.SKY_AUX_STAMP : RegDef := { }
def Rd.PRF_CTRL : RegDef := { rw := 0x80000ffb#32, rwl := 0x4#32, reset := fun _ => 0x80000422#32, norm := .fit [⟨3, 2, 0, 2, 0, 0⟩, ⟨5, 5, 1, 16, 1, 16⟩] }
def Rd.PRF_INT_STATUS : RegDef := { rc := 0x7f#32 }
def Rd.PRF_TRIG : RegDef := { rw := 0xffff00ff#32, reset := fun _ => 0x8#32, norm := .fit [⟨0, 8, 1, 255, 1, 255⟩] }
def Rd.PRF_CMD : RegDef := { w1p := 0x7#32, act := .prfCmd }
def Rd.PRF_LIVE : RegDef := { }
def Rd.PRF_TEMP : RegDef := { }
def Rd.PRF_DONE_MASK : RegDef := { }
def Rd.PRF_REJECT_MASK : RegDef := { }
def Rd.PRF_SKIP_MASK : RegDef := { }
def Rd.PRF_LAST_MS : RegDef := { }
def Rd.PRF_RUN_COUNT : RegDef := { rw := 0xffffffff#32, ctr := .w32, ovfBit := some 6 }
def Rd.PRF_ABANDON_COUNT : RegDef := { rw := 0xffffffff#32, ctr := .w32, ovfBit := some 6 }
def Rd.PRF_LAST_DONE : RegDef := { }
def Rd.ALN_RX_FRAMES : RegDef := { rw := 0xffffffff#32, ctr := .w32, ovfBit := some 6 }
def Rd.ALN_RX_RUNT : RegDef := { rw := 0xffffffff#32, ctr := .w32, ovfBit := some 6 }
def Rd.ALN_RX_FCS_ERR : RegDef := { rw := 0xffffffff#32, ctr := .w32, ovfBit := some 6 }
def Rd.ALN_RX_OVERSIZE : RegDef := { rw := 0xffffffff#32, ctr := .w32, ovfBit := some 6 }
def Rd.ALN_TX_FRAMES : RegDef := { rw := 0xffffffff#32, ctr := .w32, ovfBit := some 6 }
def Rd.ALN_TX_DOWN_DROP : RegDef := { rw := 0xffffffff#32, ctr := .w32, ovfBit := some 6 }
def Rd.PORT_INT_STATUS : RegDef := { rc := 0x7ff#32 }
def Rd.PORT_CFG : RegDef := { rw := 0xffff#32, act := .portCfg, norm := .fit [⟨4, 10, 0, 767, 0, 0⟩] }
def Rd.PORT_LIVE : RegDef := { live := .portLive }
def Rd.PORT_MAX_FRAME : RegDef := { rw := 0x3fff#32, reset := fun _ => 0x2400#32, norm := .fit [⟨0, 14, 1518, 16360, 1518, 16360⟩] }
def Rd.PORT_TIMERS : RegDef := { rw := 0xffffffff#32, reset := fun _ => 0x1388000a#32, norm := .fit [⟨16, 16, 1, 65535, 1, 65535⟩] }
def Rd.PORT_LINGER : RegDef := { rw := 0xffff#32, reset := fun _ => 0xc8#32 }
def Rd.PORT_RECOVERY : RegDef := { rw := 0xffff#32, reset := fun _ => 0x3e8#32 }
def Rd.PORT_PFC_MAP : RegDef := { rw := 0x7fff#32, reset := fun i => if i%8=7 then 0x4000 else BitVec.ofNat 32 (3*2^(2*(i%8))) }
def Rd.PORT_PFC_TX : RegDef := { rw := 0xffffff#32, reset := fun _ => 0xffff#32 }
def Rd.PORT_RX_FRAMES_LO : RegDef := { rw := 0xffffffff#32, ctr := .lo, ovfBit := some 10 }
def Rd.PORT_RX_FRAMES_HI : RegDef := { rw := 0xffffffff#32, ctr := .hi, ovfBit := some 10 }
def Rd.PORT_RX_BYTES_LO : RegDef := { rw := 0xffffffff#32, ctr := .lo, ovfBit := some 10 }
def Rd.PORT_RX_BYTES_HI : RegDef := { rw := 0xffffffff#32, ctr := .hi, ovfBit := some 10 }
def Rd.PORT_RX_RUNT_LO : RegDef := { rw := 0xffffffff#32, ctr := .lo, ovfBit := some 10 }
def Rd.PORT_RX_RUNT_HI : RegDef := { rw := 0xffffffff#32, ctr := .hi, ovfBit := some 10 }
def Rd.PORT_RX_FCS_ERR_LO : RegDef := { rw := 0xffffffff#32, ctr := .lo, ovfBit := some 10 }
def Rd.PORT_RX_FCS_ERR_HI : RegDef := { rw := 0xffffffff#32, ctr := .hi, ovfBit := some 10 }
def Rd.PORT_RX_OVERSIZE_LO : RegDef := { rw := 0xffffffff#32, ctr := .lo, ovfBit := some 10 }
def Rd.PORT_RX_OVERSIZE_HI : RegDef := { rw := 0xffffffff#32, ctr := .hi, ovfBit := some 10 }
def Rd.PORT_RX_OVERFLOW_DROP_LO : RegDef := { rw := 0xffffffff#32, ctr := .lo, ovfBit := some 10 }
def Rd.PORT_RX_OVERFLOW_DROP_HI : RegDef := { rw := 0xffffffff#32, ctr := .hi, ovfBit := some 10 }
def Rd.PORT_RX_MAC_CTRL_LO : RegDef := { rw := 0xffffffff#32, ctr := .lo, ovfBit := some 10 }
def Rd.PORT_RX_MAC_CTRL_HI : RegDef := { rw := 0xffffffff#32, ctr := .hi, ovfBit := some 10 }
def Rd.PORT_TX_FRAMES_LO : RegDef := { rw := 0xffffffff#32, ctr := .lo, ovfBit := some 10 }
def Rd.PORT_TX_FRAMES_HI : RegDef := { rw := 0xffffffff#32, ctr := .hi, ovfBit := some 10 }
def Rd.PORT_TX_BYTES_LO : RegDef := { rw := 0xffffffff#32, ctr := .lo, ovfBit := some 10 }
def Rd.PORT_TX_BYTES_HI : RegDef := { rw := 0xffffffff#32, ctr := .hi, ovfBit := some 10 }
def Rd.PORT_TX_FCS_DROP_LO : RegDef := { rw := 0xffffffff#32, ctr := .lo, ovfBit := some 10 }
def Rd.PORT_TX_FCS_DROP_HI : RegDef := { rw := 0xffffffff#32, ctr := .hi, ovfBit := some 10 }
def Rd.PORT_TX_ABORT_LO : RegDef := { rw := 0xffffffff#32, ctr := .lo, ovfBit := some 10 }
def Rd.PORT_TX_ABORT_HI : RegDef := { rw := 0xffffffff#32, ctr := .hi, ovfBit := some 10 }
def Rd.PORT_TX_PFC_LO : RegDef := { rw := 0xffffffff#32, ctr := .lo, ovfBit := some 10 }
def Rd.PORT_TX_PFC_HI : RegDef := { rw := 0xffffffff#32, ctr := .hi, ovfBit := some 10 }
def Rd.PORT_DOWN_DROP_LO : RegDef := { rw := 0xffffffff#32, ctr := .lo, ovfBit := some 10 }
def Rd.PORT_DOWN_DROP_HI : RegDef := { rw := 0xffffffff#32, ctr := .hi, ovfBit := some 10 }
def Rd.PORT_LINGER_FLUSH_LO : RegDef := { rw := 0xffffffff#32, ctr := .lo, ovfBit := some 10 }
def Rd.PORT_LINGER_FLUSH_HI : RegDef := { rw := 0xffffffff#32, ctr := .hi, ovfBit := some 10 }
def Rd.PORT_CT_STOMPED_LO : RegDef := { rw := 0xffffffff#32, ctr := .lo, ovfBit := some 10 }
def Rd.PORT_CT_STOMPED_HI : RegDef := { rw := 0xffffffff#32, ctr := .hi, ovfBit := some 10 }
def Rd.PORT_CT_BAD_SRC_LO : RegDef := { rw := 0xffffffff#32, ctr := .lo, ovfBit := some 10 }
def Rd.PORT_CT_BAD_SRC_HI : RegDef := { rw := 0xffffffff#32, ctr := .hi, ovfBit := some 10 }
def Rd.PORT_LINK_DOWN_COUNT_LO : RegDef := { rw := 0xffffffff#32, ctr := .lo, ovfBit := some 10 }
def Rd.PORT_LINK_DOWN_COUNT_HI : RegDef := { rw := 0xffffffff#32, ctr := .hi, ovfBit := some 10 }
def Rd.FWD_CTRL : RegDef := { rw := 0x80000003#32, reset := fun _ => 0x80000001#32 }
def Rd.FWD_INT_STATUS : RegDef := { rc := 0x7f#32 }
def Rd.FWD_COMMIT_CMD : RegDef := { w1p := 0x3#32, act := .commitCmd }
def Rd.FWD_STAGE : RegDef := { live := .fwdStage }
def Rd.FWD_COMMIT_FAIL : RegDef := { }
def Rd.FWD_COMMIT_FAIL_MASK : RegDef := { }
def Rd.FWD_COMMIT_FAIL_ADDR : RegDef := { }
def Rd.FWD_HASH_SEED : RegDef := { rwl := 0xffffffff#32 }
def Rd.FWD_DSCP_MAP : RegDef := { rw := 0xffffffff#32, norm := .fit [⟨0, 4, 0, 14, 0, 14⟩, ⟨4, 4, 0, 14, 0, 14⟩, ⟨8, 4, 0, 14, 0, 14⟩, ⟨12, 4, 0, 14, 0, 14⟩, ⟨16, 4, 0, 14, 0, 14⟩, ⟨20, 4, 0, 14, 0, 14⟩, ⟨24, 4, 0, 14, 0, 14⟩, ⟨28, 4, 0, 14, 0, 14⟩] }
def Rd.FWD_READ_SEL : RegDef := { rw := 0x11f#32, norm := .fit [⟨0, 5, 0, 23, 0, 0⟩] }
def Rd.FWD_INJ_BASE : RegDef := { rw := 0x3fffff#32 }
def Rd.FWD_INJ_RING : RegDef := { rw := 0xf#32, reset := fun _ => 0x6#32, norm := .fit [⟨0, 4, 4, 10, 6, 6⟩] }
def Rd.FWD_INJ_WR : RegDef := { rw := 0x3ff#32 }
def Rd.FWD_INJ_RD : RegDef := { }
def Rd.FWD_TRAP_BASE : RegDef := { rw := 0x3fffff#32 }
def Rd.FWD_TRAP_RING : RegDef := { rw := 0xf#32, reset := fun _ => 0x6#32, norm := .fit [⟨0, 4, 4, 10, 6, 6⟩] }
def Rd.FWD_TRAP_WR : RegDef := { }
def Rd.FWD_TRAP_RD : RegDef := { rw := 0x3ff#32 }
def Rd.FWD_INJ_BAD : RegDef := { rw := 0xffffffff#32, ctr := .w32, ovfBit := some 6 }
def Rd.FWD_TRAP_DROP : RegDef := { rw := 0xffffffff#32, ctr := .w32, ovfBit := some 6 }
def Rd.FWD_HINJ_DESC : RegDef := { rw := 0xffffffff#32, act := .hinjDesc }
def Rd.FWD_HINJ_DATA : RegDef := { w1p := 0xffffffff#32, act := .hinjData }
def Rd.FWD_HINJ_CMD : RegDef := { w1p := 0x1#32, act := .hinjCmd, live := .hinjCmd }
def Rd.FWD_PIPE_INT_STATUS : RegDef := { rc := 0x1#32 }
def Rd.FWD_L2_MISS_LO : RegDef := { rw := 0xffffffff#32, ctr := .lo, ovfBit := some 0 }
def Rd.FWD_L2_MISS_HI : RegDef := { rw := 0xffffffff#32, ctr := .hi, ovfBit := some 0 }
def Rd.FWD_LPM_MISS_LO : RegDef := { rw := 0xffffffff#32, ctr := .lo, ovfBit := some 0 }
def Rd.FWD_LPM_MISS_HI : RegDef := { rw := 0xffffffff#32, ctr := .hi, ovfBit := some 0 }
def Rd.FWD_TTL_EXP_LO : RegDef := { rw := 0xffffffff#32, ctr := .lo, ovfBit := some 0 }
def Rd.FWD_TTL_EXP_HI : RegDef := { rw := 0xffffffff#32, ctr := .hi, ovfBit := some 0 }
def Rd.FWD_HDR_ERR_LO : RegDef := { rw := 0xffffffff#32, ctr := .lo, ovfBit := some 0 }
def Rd.FWD_HDR_ERR_HI : RegDef := { rw := 0xffffffff#32, ctr := .hi, ovfBit := some 0 }
def Rd.FWD_ACL_DROP_LO : RegDef := { rw := 0xffffffff#32, ctr := .lo, ovfBit := some 0 }
def Rd.FWD_ACL_DROP_HI : RegDef := { rw := 0xffffffff#32, ctr := .hi, ovfBit := some 0 }
def Rd.FWD_HAIRPIN_DROP_LO : RegDef := { rw := 0xffffffff#32, ctr := .lo, ovfBit := some 0 }
def Rd.FWD_HAIRPIN_DROP_HI : RegDef := { rw := 0xffffffff#32, ctr := .hi, ovfBit := some 0 }
def Rd.FWD_TRAP_LO : RegDef := { rw := 0xffffffff#32, ctr := .lo, ovfBit := some 0 }
def Rd.FWD_TRAP_HI : RegDef := { rw := 0xffffffff#32, ctr := .hi, ovfBit := some 0 }
def Rd.FWD_TC_NO_RXTS_LO : RegDef := { rw := 0xffffffff#32, ctr := .lo, ovfBit := some 0 }
def Rd.FWD_TC_NO_RXTS_HI : RegDef := { rw := 0xffffffff#32, ctr := .hi, ovfBit := some 0 }
def Rd.FWD_PORT_CFG : RegDef := { rw := 0x3fffffff#32, reset := fun _ => 0x1#32, norm := .fit [⟨22, 2, 0, 2, 0, 0⟩, ⟨24, 4, 0, 14, 0, 14⟩] }
def Rd.FWD_PORT_PCP_MAP : RegDef := { rw := 0xffffffff#32, reset := fun _ => 0x76543210#32, norm := .fit [⟨0, 4, 0, 14, 0, 14⟩, ⟨4, 4, 0, 14, 0, 14⟩, ⟨8, 4, 0, 14, 0, 14⟩, ⟨12, 4, 0, 14, 0, 14⟩, ⟨16, 4, 0, 14, 0, 14⟩, ⟨20, 4, 0, 14, 0, 14⟩, ⟨24, 4, 0, 14, 0, 14⟩, ⟨28, 4, 0, 14, 0, 14⟩] }
def Rd.FWD_PORT_LINK_DELAY : RegDef := { rw := 0xffffffff#32 }
def Rd.BUF_INT_STATUS : RegDef := { rc := 0x1ff#32 }
def Rd.BUF_POOL_SIZE : RegDef := { rw := 0x1fffff#32, reset := fun i => if i=0 then 0xF1200 else 0, norm := .fit [⟨0, 21, 0, 1048576, 0, 1048576⟩] }
def Rd.BUF_POOL_USED : RegDef := { }
def Rd.BUF_FREE : RegDef := { reset := fun _ => 0x100000#32 }
def Rd.BUF_ALLOC : RegDef := { reset := fun _ => 0x100000#32 }
def Rd.BUF_FREE_LOW : RegDef := { rw := 0x1fffff#32, reset := fun _ => 0x4000#32 }
def Rd.BUF_CT_QUARANTINE : RegDef := { rw := 0xffff#32 }
def Rd.BUF_AUDIT : RegDef := { rw := 0x20000#32, rwl := 0x103ff#32, w1p := 0x40000#32, reset := fun _ => 0x30040#32, act := .bufAudit, norm := .fit [⟨0, 10, 16, 1000, 16, 1000⟩] }
def Rd.BUF_AUDIT_STATUS : RegDef := { }
def Rd.BUF_LEAK_LAST : RegDef := { }
def Rd.BUF_XLINK_LAST : RegDef := { }
def Rd.BUF_LEAK_COUNT_LO : RegDef := { rw := 0xffffffff#32, ctr := .lo, ovfBit := some 8 }
def Rd.BUF_LEAK_COUNT_HI : RegDef := { rw := 0xffffffff#32, ctr := .hi, ovfBit := some 8 }
def Rd.BUF_XLINK_COUNT_LO : RegDef := { rw := 0xffffffff#32, ctr := .lo, ovfBit := some 8 }
def Rd.BUF_XLINK_COUNT_HI : RegDef := { rw := 0xffffffff#32, ctr := .hi, ovfBit := some 8 }
def Rd.BUF_AUDIT_PASSES_LO : RegDef := { rw := 0xffffffff#32, ctr := .lo, ovfBit := some 8 }
def Rd.BUF_AUDIT_PASSES_HI : RegDef := { rw := 0xffffffff#32, ctr := .hi, ovfBit := some 8 }
def Rd.BUF_NOFREE_DROP_LO : RegDef := { rw := 0xffffffff#32, ctr := .lo, ovfBit := some 8 }
def Rd.BUF_NOFREE_DROP_HI : RegDef := { rw := 0xffffffff#32, ctr := .hi, ovfBit := some 8 }
def Rd.BUF_STOMP_RX_LO : RegDef := { rw := 0xffffffff#32, ctr := .lo, ovfBit := some 8 }
def Rd.BUF_STOMP_RX_HI : RegDef := { rw := 0xffffffff#32, ctr := .hi, ovfBit := some 8 }
def Rd.BUF_STOMP_CORRUPT_LO : RegDef := { rw := 0xffffffff#32, ctr := .lo, ovfBit := some 8 }
def Rd.BUF_STOMP_CORRUPT_HI : RegDef := { rw := 0xffffffff#32, ctr := .hi, ovfBit := some 8 }
def Rd.BUF_AUX_DROP_LO : RegDef := { rw := 0xffffffff#32, ctr := .lo, ovfBit := some 8 }
def Rd.BUF_AUX_DROP_HI : RegDef := { rw := 0xffffffff#32, ctr := .hi, ovfBit := some 8 }
def Rd.BUF_QPROF : RegDef := { rw := 0x7ffffff#32, reset := fun i => if i<31 then 0x700008 else 0x20, act := .bufUsed }
def Rd.BUF_PGPROF_XOFF : RegDef := { rw := 0xfffff#32, reset := fun _ => 0x4000#32, act := .bufXoff }
def Rd.BUF_PGPROF_HEADROOM : RegDef := { rw := 0xfffff#32 }
def Rd.BUF_PGPROF_XON_DELTA : RegDef := { rw := 0xfffff#32, reset := fun _ => 0x100#32, act := .bufXoff }
def Rd.BUF_PORT_INT_STATUS : RegDef := { rc := 0x1#32 }
def Rd.BUF_PORT_CFG : RegDef := { rw := 0xfffff#32, act := .bufPortCfg }
def Rd.BUF_PORT_QPROF0 : RegDef := { rw := 0x3fffffff#32, act := .bufUsed }
def Rd.BUF_PORT_QPROF1 : RegDef := { rw := 0x3fffffff#32, act := .bufUsed }
def Rd.BUF_PORT_QPROF2 : RegDef := { rw := 0xfffff#32, reset := fun _ => 0xf8000#32, act := .bufUsed }
def Rd.BUF_PORT_PG_MAP0 : RegDef := { rw := 0x77777777#32, reset := fun _ => 0x33221100#32 }
def Rd.BUF_PORT_PG_MAP1 : RegDef := { rw := 0x77777777#32, reset := fun _ => 0x7665544#32 }
def Rd.BUF_PORT_PG_STATUS : RegDef := { }
def Rd.BUF_PORT_RX_TRUNC_LO : RegDef := { rw := 0xffffffff#32, ctr := .lo, ovfBit := some 0 }
def Rd.BUF_PORT_RX_TRUNC_HI : RegDef := { rw := 0xffffffff#32, ctr := .hi, ovfBit := some 0 }
def Rd.BUF_PORT_HEADROOM_DROP_LO : RegDef := { rw := 0xffffffff#32, ctr := .lo, ovfBit := some 0 }
def Rd.BUF_PORT_HEADROOM_DROP_HI : RegDef := { rw := 0xffffffff#32, ctr := .hi, ovfBit := some 0 }
def Rd.BUF_Q_OCC : RegDef := { }
def Rd.BUF_Q_DROP_LO : RegDef := { rw := 0xffffffff#32, ctr := .lo, ovfBit := some 0 }
def Rd.BUF_Q_DROP_HI : RegDef := { rw := 0xffffffff#32, ctr := .hi, ovfBit := some 0 }
def Rd.SCHD_INT_STATUS : RegDef := { rc := 0xf#32 }
def Rd.SCHD_SHAPER_FORGIVE : RegDef := { rw := 0x1fff#32, w1p := 0x80000000#32, act := .forgive, norm := .fit [⟨0, 13, 0, 6527, 0, 0⟩] }
def Rd.SCHD_SAMPLE_CTRL : RegDef := { rw := 0x1ffff#32, reset := fun _ => 0x3e8#32, act := .sampleCtrl, norm := .fit [⟨0, 16, 1, 65535, 1, 65535⟩] }
def Rd.SCHD_SAMPLE_BASE : RegDef := { rw := 0x3fffff#32 }
def Rd.SCHD_SAMPLE_RING : RegDef := { rw := 0xf#32, reset := fun _ => 0x8#32, norm := .fit [⟨0, 4, 8, 14, 8, 8⟩] }
def Rd.SCHD_SAMPLE_WR : RegDef := { }
def Rd.SCHD_SAMPLE_RD : RegDef := { rw := 0x3fff#32 }
def Rd.SCHD_SAMPLE_DROP : RegDef := { rw := 0xffffffff#32, ctr := .w32, ovfBit := some 3 }
def Rd.SCHD_SAMPLE_OVERRUN : RegDef := { rw := 0xffffffff#32, ctr := .w32, ovfBit := some 3 }
def Rd.SCHD_PORT_CFG : RegDef := { rw := 0xff1f#32, reset := fun _ => 0x1405#32, norm := .fit [⟨2, 3, 1, 4, 1, 4⟩] }
def Rd.SCHD_PORT_STATUS : RegDef := { reset := fun _ => 0xe1#32, live := .schdStatus }
def Rd.SCHD_PORT_QSTATE : RegDef := { live := .schdQstate }
def Rd.POL_INT_STATUS : RegDef := { rc := 0x3#32 }
def Rd.POL_CFG : RegDef := { rw := 0x3ffff#32, reset := fun _ => 0x10#32, act := .polCfg, norm := .fit [⟨2, 2, 0, 2, 0, 0⟩, ⟨4, 2, 0, 2, 0, 1⟩] }
def Rd.POL_CIR : RegDef := { rw := 0xffffffff#32 }
def Rd.POL_PIR : RegDef := { rw := 0xffffffff#32 }
def Rd.POL_CBS : RegDef := { rw := 0xffffff#32, reset := fun _ => 0x4000#32 }
def Rd.POL_PBS : RegDef := { rw := 0xffffff#32, reset := fun _ => 0x4000#32 }
def Rd.POL_GREEN : RegDef := { rw := 0xffffffff#32, ctr := .w32, ovfBit := some 1 }
def Rd.POL_YELLOW : RegDef := { rw := 0xffffffff#32, ctr := .w32, ovfBit := some 1 }
def Rd.POL_RED : RegDef := { rw := 0xffffffff#32, ctr := .w32, ovfBit := some 1 }
def Rd.TLM_INT_STATUS : RegDef := { rc := 0x3f#32 }
def Rd.TLM_PCLK_LO : RegDef := { live := .pclk }
def Rd.TLM_PCLK_HI : RegDef := { live := .pclk }
def Rd.TLM_TAG_CTRL : RegDef := { rw := 0x1ff003f#32, reset := fun _ => 0x1ff0020#32, act := .tagCtrl, norm := .tagCtrl }
def Rd.TLM_TAG_STATUS : RegDef := { }
def Rd.TLM_TAG_SKIP : RegDef := { rw := 0xffffffff#32, ctr := .w32, ovfBit := some 5 }
def Rd.TLM_TAG_COUNT_LO : RegDef := { rw := 0xffffffff#32, ctr := .lo, ovfBit := some 5 }
def Rd.TLM_TAG_COUNT_HI : RegDef := { rw := 0xffffffff#32, ctr := .hi, ovfBit := some 5 }
def Rd.TLM_DMA_CTRL : RegDef := { rw := 0xfffff#32, reset := fun _ => 0x3e8#32, act := .dmaCtrl, norm := .fit [⟨0, 16, 1, 65535, 1, 65535⟩] }
def Rd.TLM_DMA_CBASE_LO : RegDef := { rw := 0xffffffff#32 }
def Rd.TLM_DMA_CBASE_HI : RegDef := { rw := 0xffffffff#32 }
def Rd.TLM_DMA_TBASE_LO : RegDef := { rw := 0xffffffff#32 }
def Rd.TLM_DMA_TBASE_HI : RegDef := { rw := 0xffffffff#32 }
def Rd.TLM_DMA_RING : RegDef := { rw := 0xf0f#32, reset := fun _ => 0x804#32, norm := .fit [⟨0, 4, 2, 12, 4, 4⟩, ⟨8, 4, 4, 14, 8, 8⟩] }
def Rd.TLM_DMA_CRD : RegDef := { rw := 0x3fff#32 }
def Rd.TLM_DMA_TRD : RegDef := { rw := 0x3fff#32 }
def Rd.TLM_DMA_CWR : RegDef := { }
def Rd.TLM_DMA_TWR : RegDef := { }
def Rd.TLM_DMA_WB_LO : RegDef := { rw := 0xffffffff#32 }
def Rd.TLM_DMA_WB_HI : RegDef := { rw := 0xffffffff#32 }
def Rd.TLM_DMA_SKIP : RegDef := { rw := 0xffffffff#32, ctr := .w32, ovfBit := some 5 }
def Rd.TLM_DMA_TDROP : RegDef := { rw := 0xffffffff#32, ctr := .w32, ovfBit := some 5 }
def Rd.TLM_DMA_LIST : RegDef := { rw := 0xffffffff#32 }
def Rd.TLM_EVT_INT_STATUS : RegDef := { rc := 0x1#32 }
def Rd.TLM_EVT_CFG : RegDef := { rw := 0x1fff031f#32, norm := .evtCfg }
def Rd.TLM_EVT_LO : RegDef := { rw := 0xffffffff#32, ctr := .lo, ovfBit := some 0 }
def Rd.TLM_EVT_HI : RegDef := { rw := 0xffffffff#32, ctr := .hi, ovfBit := some 0 }
def Rd.TLM_EVT_RELOAD_LO : RegDef := { rw := 0xffffffff#32 }
def Rd.TLM_EVT_RELOAD_HI : RegDef := { rw := 0xffffffff#32 }
def Rd.TLM_EVT_OVF0 : RegDef := { rc := 0xffffffff#32 }
def Rd.TLM_EVT_OVF1 : RegDef := { rc := 0xffffffff#32 }
def Rd.TLM_THR_INT_STATUS : RegDef := { rc := 0x1#32 }
def Rd.TLM_THR_CFG : RegDef := { rw := 0x1fff0007#32, norm := .thrCfg }
def Rd.TLM_THR_N : RegDef := { rw := 0x1fffff#32 }
def Rd.TLM_THR_LO : RegDef := { rw := 0xffffffff#32, ctr := .lo, ovfBit := some 0 }
def Rd.TLM_THR_HI : RegDef := { rw := 0xffffffff#32, ctr := .hi, ovfBit := some 0 }
def Rd.TLM_SLOT_INT_STATUS : RegDef := { rc := 0x3#32 }
def Rd.TLM_SLOT_CYCLES_LO : RegDef := { rw := 0xffffffff#32, ctr := .lo, ovfBit := some 0 }
def Rd.TLM_SLOT_CYCLES_HI : RegDef := { rw := 0xffffffff#32, ctr := .hi, ovfBit := some 0 }
def Rd.TLM_SLOT_FWD_LO : RegDef := { rw := 0xffffffff#32, ctr := .lo, ovfBit := some 0 }
def Rd.TLM_SLOT_FWD_HI : RegDef := { rw := 0xffffffff#32, ctr := .hi, ovfBit := some 0 }
def Rd.TLM_SLOT_DISC_LO : RegDef := { rw := 0xffffffff#32, ctr := .lo, ovfBit := some 0 }
def Rd.TLM_SLOT_DISC_HI : RegDef := { rw := 0xffffffff#32, ctr := .hi, ovfBit := some 0 }
def Rd.TLM_SLOT_SB_LO : RegDef := { rw := 0xffffffff#32, ctr := .lo, ovfBit := some 0 }
def Rd.TLM_SLOT_SB_HI : RegDef := { rw := 0xffffffff#32, ctr := .hi, ovfBit := some 0 }
def Rd.TLM_SLOT_SF_LO : RegDef := { rw := 0xffffffff#32, ctr := .lo, ovfBit := some 0 }
def Rd.TLM_SLOT_SF_HI : RegDef := { rw := 0xffffffff#32, ctr := .hi, ovfBit := some 0 }
def Rd.TLM_SLOT_FRONT_LOST_LO : RegDef := { rw := 0xffffffff#32, ctr := .lo, ovfBit := some 0 }
def Rd.TLM_SLOT_FRONT_LOST_HI : RegDef := { rw := 0xffffffff#32, ctr := .hi, ovfBit := some 0 }
def Rd.TLM_SLOT_CMD : RegDef := { rw := 0x1#32, w1p := 0x6#32, act := .slotCmd }
def Rd.TLM_SLOT_SNAP_TIME : RegDef := { }
def Rd.TLM_SNAP_CYCLES_LO : RegDef := { }
def Rd.TLM_SNAP_CYCLES_HI : RegDef := { }
def Rd.TLM_SNAP_FWD_LO : RegDef := { }
def Rd.TLM_SNAP_FWD_HI : RegDef := { }
def Rd.TLM_SNAP_DISC_LO : RegDef := { }
def Rd.TLM_SNAP_DISC_HI : RegDef := { }
def Rd.TLM_SNAP_SB_LO : RegDef := { }
def Rd.TLM_SNAP_SB_HI : RegDef := { }
def Rd.TLM_SNAP_SF_LO : RegDef := { }
def Rd.TLM_SNAP_SF_HI : RegDef := { }
def Rd.TLM_SNAP_FRONT_LOST_LO : RegDef := { }
def Rd.TLM_SNAP_FRONT_LOST_HI : RegDef := { }
def Rd.TWIN_CTRL : RegDef := { rw := 0x80000003#32, reset := fun _ => 0x80000002#32, act := .twinCtrl }
def Rd.TWIN_INT_STATUS : RegDef := { rc := 0x3fff#32 }
def Rd.TWIN_PAIR_CFG : RegDef := { rwl := 0xffff1f00#32, wo := 0x1#32, act := .pairCfg }
def Rd.TWIN_LIVE : RegDef := { reset := fun _ => 0xff0000#32 }
def Rd.TWIN_TIMERS : RegDef := { rwl := 0xffffffff#32, reset := fun _ => 0x7d007d0#32, norm := .fit [⟨0, 16, 1, 65535, 1, 65535⟩, ⟨16, 16, 300, 65535, 300, 65535⟩] }
def Rd.TWIN_ROLE_GATE : RegDef := { rw := 0xf1f#32, act := .roleGate }
def Rd.TWIN_CMD : RegDef := { w1p := 0x7#32, act := .twinCmd }
def Rd.TWIN_XCHK : RegDef := { rwl := 0xfffff#32, reset := fun _ => 0x30064#32, norm := .fit [⟨16, 4, 1, 9, 1, 9⟩] }
def Rd.TWIN_XCHK_STATUS : RegDef := { }
def Rd.TWIN_STEP_SUM_LO : RegDef := { }
def Rd.TWIN_STEP_SUM_HI : RegDef := { }
def Rd.TWIN_STEP_SUM_SUB : RegDef := { }
def Rd.TWIN_CLOCK_ID_LO : RegDef := { rwl := 0xffffffff#32 }
def Rd.TWIN_CLOCK_ID_HI : RegDef := { rwl := 0xffffffff#32 }
def Rd.TWIN_PEER_ID_LO : RegDef := { }
def Rd.TWIN_PEER_ID_HI : RegDef := { }
def Rd.TWIN_TX_PAYLOAD : RegDef := { rw := 0xffffffff#32 }
def Rd.TWIN_LNK_INT_STATUS : RegDef := { rc := 0x1#32 }
def Rd.TWIN_LNK_STATUS : RegDef := { reset := fun _ => 0x2#32 }
def Rd.TWIN_LNK_RX_FRAMES_LO : RegDef := { rw := 0xffffffff#32, ctr := .lo, ovfBit := some 0 }
def Rd.TWIN_LNK_RX_FRAMES_HI : RegDef := { rw := 0xffffffff#32, ctr := .hi, ovfBit := some 0 }
def Rd.TWIN_LNK_FRAME_ERR : RegDef := { rw := 0xffffffff#32, ctr := .w32, ovfBit := some 0 }
def Rd.TWIN_LNK_SYNC_DISCARD : RegDef := { rw := 0xffffffff#32, ctr := .w32, ovfBit := some 0 }
def Rd.TWIN_LNK_OFFSET : RegDef := { }
def Rd.TWIN_LNK_DELAY : RegDef := { }
def Rd.TWIN_STK_INT_STATUS : RegDef := { rc := 0x7f#32 }
def Rd.TWIN_STACK_CFG : RegDef := { rw := 0x1#32, rwl := 0xffff3ffe#32, act := .stackCfg }
def Rd.TWIN_STACK_STATUS : RegDef := { }
def Rd.TWIN_XSTEP_AMT_LO : RegDef := { rw := 0xffffffff#32 }
def Rd.TWIN_XSTEP_AMT_HI : RegDef := { rw := 0xffffffff#32 }
def Rd.TWIN_XSTEP_AMT_SUB : RegDef := { rw := 0xffffffff#32 }
def Rd.TWIN_XSTEP_ARM0 : RegDef := { rw := 0x3fffffff#32 }
def Rd.TWIN_XSTEP_ARM1 : RegDef := { rw := 0xffffffff#32 }
def Rd.TWIN_XSTEP_ARM2 : RegDef := { rw := 0xffffffff#32 }
def Rd.TWIN_XSTEP_ARM3 : RegDef := { rw := 0xffff#32 }
def Rd.TWIN_XSTEP_CMD : RegDef := { w1p := 0x3#32, act := .xstepCmd }
def Rd.TWIN_XSTEP_STATUS : RegDef := { }
def Rd.TWIN_XSTEP_GUARD : RegDef := { rw := 0xffff#32, reset := fun _ => 0x32#32, norm := .fit [⟨0, 16, 20, 65535, 20, 65535⟩] }
def Rd.TWIN_SID_INT_STATUS : RegDef := { rc := 0x1#32 }
def Rd.TWIN_SID_CFG : RegDef := { rw := 0xffff007f#32, reset := fun _ => 0x40#32, act := .sidCfg, norm := .fit [⟨1, 6, 1, 32, 1, 32⟩] }
def Rd.TWIN_SID_DA_LO : RegDef := { rw := 0xffffffff#32 }
def Rd.TWIN_SID_DA_HI : RegDef := { rw := 0xfffffff#32 }
def Rd.TWIN_SID_STATE : RegDef := { reset := fun _ => 0x10000#32 }
def Rd.TWIN_SID_PASSED : RegDef := { rw := 0xffffffff#32, ctr := .w32, ovfBit := some 0 }
def Rd.TWIN_SID_DISCARDED : RegDef := { rw := 0xffffffff#32, ctr := .w32, ovfBit := some 0 }
def Rd.TWIN_SID_OOO : RegDef := { rw := 0xffffffff#32, ctr := .w32, ovfBit := some 0 }
def Rd.TWIN_SID_ROGUE : RegDef := { rw := 0xffffffff#32, ctr := .w32, ovfBit := some 0 }
def Rd.TWIN_SID_LOST : RegDef := { rw := 0xffffffff#32, ctr := .w32, ovfBit := some 0 }
def Rd.TWIN_SID_TAGLESS : RegDef := { rw := 0xffffffff#32, ctr := .w32, ovfBit := some 0 }
def Rd.TWIN_SID_RESETS : RegDef := { rw := 0xffffffff#32, ctr := .w32, ovfBit := some 0 }
def Rd.HRTH_INT_STATUS : RegDef := { rc := 0x1f#32 }
def Rd.HRTH_BOOT_STATUS : RegDef := { }
def Rd.HRTH_LOAD_ADDR : RegDef := { rw := 0x3fffff#32, act := .loadAddr }
def Rd.HRTH_LOAD_DATA : RegDef := { rw := 0xffffffff#32, act := .loadData }
def Rd.HRTH_BOOT_CMD : RegDef := { w1p := 0x3#32, act := .bootCmd }
def Rd.HRTH_FUSE : RegDef := { live := .hrthFuse }
def Rd.HRTH_FW_STATUS : RegDef := { }
def Rd.HRTH_FUSE_CMD : RegDef := { rw := 0x10f#32, w1p := 0x80000000#32, act := .fuseCmd }
def Rd.FLT_CTRL : RegDef := { rw := 0x80000000#32, rwl := 0x3#32, reset := fun _ => 0x80000003#32, act := .fltCfg }
def Rd.FLT_INT_STATUS : RegDef := { rc := 0x1f#32 }
def Rd.FLT_LIVE : RegDef := { reset := fun _ => 0x16#32 }
def Rd.FLT_SCRUB : RegDef := { rwl := 0x3f#32, reset := fun _ => 0x28#32, norm := .fit [⟨0, 6, 8, 48, 8, 48⟩] }
def Rd.FLT_WDOG : RegDef := { rw := 0x1000#32, rwl := 0xf0f#32, reset := fun _ => 0x1008#32, act := .fltCfg, norm := .fit [⟨0, 4, 1, 9, 1, 9⟩] }
def Rd.FLT_WDOG_KICK : RegDef := { w1p := 0xf#32, act := .wdogKick }
def Rd.FLT_CLASS_PEND : RegDef := { rc := 0x7fffe#32 }
def Rd.FLT_CLASS_CFG : RegDef := { rw := 0x7#32, reset := fun i => if i=0 then 0 else if i=3∨i=9∨i=10∨i=14 then 7 else 3 }
def Rd.FLT_CLASS_COUNT : RegDef := { rw := 0xffffffff#32, ctr := .w32, ovfBit := some 4 }
def Rd.FLT_LOG_HEAD : RegDef := { }
def Rd.FLT_LOG : RegDef := { }
def Rd.TST_INT_STATUS : RegDef := { rc := 0x7#32 }
def Rd.TST_PORT_CTRL : RegDef := { wo := 0x1#32 }
def Rd.TST_TAP_STATUS : RegDef := { reset := fun _ => 0x2#32, live := .tapStatus }
def Rd.TST_MET_CTRL : RegDef := { rw := 0x1#32 }
def Rd.TST_RAW_TX : RegDef := { rw := 0x7fdff#32, reset := fun _ => 0x141bc#32, act := .rawTx }
def Rd.TST_RAW_RX : RegDef := { }

def rowsOf000 : List RegRow :=
  [⟨0x4, 1, 1, 1, 1, 1, 0, 1, Rd.CHIP_INT_STATUS⟩, ⟨0x10, 1, 1, 1, 1, 1, 0, 1, Rd.CHIP_ID⟩, ⟨0x11, 1, 1, 1, 1, 1, 0, 1, Rd.CHIP_MFR⟩, ⟨0x12, 1, 1, 1, 1, 1, 0, 1, Rd.CHIP_UNIT⟩, ⟨0x13, 1, 1, 1, 1, 1, 0, 1, Rd.CHIP_STRAPS⟩, ⟨0x14, 1, 1, 1, 1, 1, 0, 1, Rd.CHIP_ENUM_CMD⟩]

def rowsOf001 : List RegRow :=
  [⟨0x20, 4, 4, 1, 1, 4, 0, 1, Rd.IND_ADDR⟩, ⟨0x21, 4, 4, 1, 1, 4, 0, 1, Rd.IND_DATA⟩, ⟨0x22, 4, 4, 1, 1, 4, 0, 1, Rd.IND_CTRL⟩, ⟨0x23, 4, 4, 1, 1, 4, 0, 1, Rd.IND_STATUS⟩, ⟨0x4, 1, 1, 1, 1, 1, 0, 1, Rd.HOST_INT_STATUS⟩, ⟨0x10, 1, 1, 1, 1, 1, 0, 1, Rd.HOST_PF1_WRITE_EN⟩, ⟨0x11, 1, 1, 1, 1, 1, 0, 1, Rd.HOST_ERR_ADDR⟩]

def rowsOf002 : List RegRow :=
  [⟨0x10, 1, 1, 1, 1, 1, 0, 1, Rd.IRQ_BLOCK_STATUS⟩, ⟨0x20, 22, 1, 1, 1, 22, 0, 1, Rd.IRQ_ROUTE⟩, ⟨0x40, 8, 1, 1, 1, 8, 0, 1, Rd.IRQ_MBOX_ROUTE⟩, ⟨0x50, 1, 1, 1, 1, 1, 0, 1, Rd.IRQ_EOI⟩]

def rowsOf003 : List RegRow :=
  [⟨0x10, 128, 1, 1, 1, 128, 0, 1, Rd.IRQ_PAGE_PEND⟩]

def rowsOf004 : List RegRow :=
  [⟨0x4, 1, 1, 1, 1, 4, 0, 4, Rd.MBOX_INT_STATUS⟩, ⟨0x10, 4, 16, 1, 1, 16, 0, 4, Rd.MBOX_Q_WR⟩, ⟨0x11, 4, 16, 1, 1, 16, 0, 4, Rd.MBOX_Q_RD⟩, ⟨0x12, 4, 16, 1, 1, 16, 0, 4, Rd.MBOX_Q_CMD⟩, ⟨0x13, 4, 16, 1, 1, 16, 0, 4, Rd.MBOX_Q_STATE⟩, ⟨0x14, 4, 16, 1, 1, 16, 0, 4, Rd.MBOX_Q_MASK⟩]

def rowsOf010 : List RegRow :=
  [⟨0x4, 1, 1, 1, 1, 1, 0, 1, Rd.PWR_INT_STATUS⟩, ⟨0x10, 1, 1, 1, 1, 1, 0, 1, Rd.PWR_VIN⟩, ⟨0x11, 1, 1, 1, 1, 1, 0, 1, Rd.PWR_IIN⟩, ⟨0x12, 1, 1, 1, 1, 1, 0, 1, Rd.PWR_PIN⟩, ⟨0x13, 1, 1, 1, 1, 1, 0, 1, Rd.PWR_LIVE⟩, ⟨0x14, 1, 1, 1, 1, 1, 0, 1, Rd.PWR_WARN_LEVEL⟩, ⟨0x15, 1, 1, 1, 1, 1, 0, 1, Rd.PWR_TEMP⟩, ⟨0x16, 1, 1, 1, 1, 1, 0, 1, Rd.PWR_TEMP_WARN⟩, ⟨0x17, 1, 1, 1, 1, 1, 0, 1, Rd.PWR_HOLDUP⟩]

def rowsOf011 : List RegRow :=
  [⟨0x10, 16, 1, 1, 1, 16, 0, 1, Rd.PWR_RAIL_V⟩]

def rowsOf020 : List RegRow :=
  [⟨0x4, 1, 1, 1, 1, 1, 0, 1, Rd.HRTH_INT_STATUS⟩, ⟨0x10, 1, 1, 1, 1, 1, 0, 1, Rd.HRTH_BOOT_STATUS⟩, ⟨0x11, 1, 1, 1, 1, 1, 0, 1, Rd.HRTH_LOAD_ADDR⟩, ⟨0x12, 1, 1, 1, 1, 1, 0, 1, Rd.HRTH_LOAD_DATA⟩, ⟨0x13, 1, 1, 1, 1, 1, 0, 1, Rd.HRTH_BOOT_CMD⟩, ⟨0x14, 1, 1, 1, 1, 1, 0, 1, Rd.HRTH_FUSE⟩, ⟨0x15, 1, 1, 1, 1, 1, 0, 1, Rd.HRTH_FW_STATUS⟩, ⟨0x16, 1, 1, 1, 1, 1, 0, 1, Rd.HRTH_FUSE_CMD⟩]

def rowsOf100 : List RegRow :=
  [⟨0x4, 1, 1, 1, 1, 192, 0, 192, Rd.DLN_INT_STATUS⟩, ⟨0x10, 1, 1, 1, 1, 192, 0, 192, Rd.DLN_QUAD_STATUS⟩, ⟨0x11, 1, 1, 1, 1, 192, 0, 192, Rd.DLN_ADAPT_ENTROPY_MIN⟩, ⟨0x40, 4, 32, 1, 1, 768, 0, 192, Rd.DLN_LANE_CTRL⟩, ⟨0x41, 4, 32, 1, 1, 768, 0, 192, Rd.DLN_LANE_STATUS⟩, ⟨0x42, 4, 32, 1, 1, 768, 0, 192, Rd.DLN_DENSITY⟩, ⟨0x43, 4, 32, 1, 1, 768, 0, 192, Rd.DLN_PRBS_CTRL⟩, ⟨0x44, 4, 32, 1, 1, 768, 0, 192, Rd.DLN_ERR_INJ⟩, ⟨0x46, 4, 32, 1, 1, 768, 0, 192, Rd.DLN_PRBS_ERR_LO⟩, ⟨0x47, 4, 32, 1, 1, 768, 0, 192, Rd.DLN_PRBS_ERR_HI⟩, ⟨0x48, 4, 32, 1, 1, 768, 0, 192, Rd.DLN_PRBS_BITS_LO⟩, ⟨0x49, 4, 32, 1, 1, 768, 0, 192, Rd.DLN_PRBS_BITS_HI⟩, ⟨0x4a, 4, 32, 1, 1, 768, 0, 192, Rd.DLN_FE_SLIP⟩]

def rowsOf1C0 : List RegRow :=
  [⟨0x4, 1, 1, 1, 1, 32, 0, 32, Rd.ALN_INT_STATUS⟩, ⟨0x10, 1, 1, 1, 1, 32, 0, 32, Rd.ALN_CTRL⟩, ⟨0x11, 1, 1, 1, 1, 32, 0, 32, Rd.ALN_LANE_STATUS⟩, ⟨0x12, 1, 1, 1, 1, 32, 0, 32, Rd.ALN_PRBS_CTRL⟩, ⟨0x13, 1, 1, 1, 1, 32, 0, 32, Rd.ALN_ERR_INJ⟩, ⟨0x14, 1, 1, 1, 1, 32, 0, 32, Rd.ALN_CODE_ERR_LO⟩, ⟨0x15, 1, 1, 1, 1, 32, 0, 32, Rd.ALN_CODE_ERR_HI⟩, ⟨0x16, 1, 1, 1, 1, 32, 0, 32, Rd.ALN_DISP_ERR_LO⟩, ⟨0x17, 1, 1, 1, 1, 32, 0, 32, Rd.ALN_DISP_ERR_HI⟩, ⟨0x18, 1, 1, 1, 1, 32, 0, 32, Rd.ALN_PRBS_ERR_LO⟩, ⟨0x19, 1, 1, 1, 1, 32, 0, 32, Rd.ALN_PRBS_ERR_HI⟩, ⟨0x1a, 1, 1, 1, 1, 32, 0, 32, Rd.ALN_PRBS_BITS_LO⟩, ⟨0x1b, 1, 1, 1, 1, 32, 0, 32, Rd.ALN_PRBS_BITS_HI⟩, ⟨0x1c, 1, 1, 1, 1, 32, 0, 32, Rd.ALN_COMMA_MISPLACED⟩, ⟨0x20, 1, 1, 1, 1, 32, 0, 32, Rd.ALN_RX_FRAMES⟩, ⟨0x21, 1, 1, 1, 1, 32, 0, 32, Rd.ALN_RX_RUNT⟩, ⟨0x22, 1, 1, 1, 1, 32, 0, 32, Rd.ALN_RX_FCS_ERR⟩, ⟨0x23, 1, 1, 1, 1, 32, 0, 32, Rd.ALN_RX_OVERSIZE⟩, ⟨0x24, 1, 1, 1, 1, 32, 0, 32, Rd.ALN_TX_FRAMES⟩, ⟨0x25, 1, 1, 1, 1, 32, 0, 32, Rd.ALN_TX_DOWN_DROP⟩]

def rowsOf200 : List RegRow :=
  [⟨0x4, 1, 1, 1, 1, 384, 0, 384, Rd.PORT_INT_STATUS⟩, ⟨0x10, 1, 1, 1, 1, 384, 0, 384, Rd.PORT_CFG⟩, ⟨0x11, 1, 1, 1, 1, 384, 0, 384, Rd.PORT_LIVE⟩, ⟨0x12, 1, 1, 1, 1, 384, 0, 384, Rd.PORT_MAX_FRAME⟩, ⟨0x13, 1, 1, 1, 1, 384, 0, 384, Rd.PORT_TIMERS⟩, ⟨0x14, 1, 1, 1, 1, 384, 0, 384, Rd.PORT_LINGER⟩, ⟨0x15, 1, 1, 1, 1, 384, 0, 384, Rd.PORT_RECOVERY⟩, ⟨0x18, 8, 1, 1, 1, 3072, 0, 384, Rd.PORT_PFC_MAP⟩, ⟨0x20, 1, 1, 1, 1, 384, 0, 384, Rd.PORT_PFC_TX⟩, ⟨0x40, 1, 1, 1, 1, 384, 0, 384, Rd.PORT_RX_FRAMES_LO⟩, ⟨0x41, 1, 1, 1, 1, 384, 0, 384, Rd.PORT_RX_FRAMES_HI⟩, ⟨0x42, 1, 1, 1, 1, 384, 0, 384, Rd.PORT_RX_BYTES_LO⟩, ⟨0x43, 1, 1, 1, 1, 384, 0, 384, Rd.PORT_RX_BYTES_HI⟩, ⟨0x44, 1, 1, 1, 1, 384, 0, 384, Rd.PORT_RX_RUNT_LO⟩, ⟨0x45, 1, 1, 1, 1, 384, 0, 384, Rd.PORT_RX_RUNT_HI⟩, ⟨0x46, 1, 1, 1, 1, 384, 0, 384, Rd.PORT_RX_FCS_ERR_LO⟩, ⟨0x47, 1, 1, 1, 1, 384, 0, 384, Rd.PORT_RX_FCS_ERR_HI⟩, ⟨0x48, 1, 1, 1, 1, 384, 0, 384, Rd.PORT_RX_OVERSIZE_LO⟩, ⟨0x49, 1, 1, 1, 1, 384, 0, 384, Rd.PORT_RX_OVERSIZE_HI⟩, ⟨0x4a, 1, 1, 1, 1, 384, 0, 384, Rd.PORT_RX_OVERFLOW_DROP_LO⟩] ++
  [⟨0x4b, 1, 1, 1, 1, 384, 0, 384, Rd.PORT_RX_OVERFLOW_DROP_HI⟩, ⟨0x4c, 1, 1, 1, 1, 384, 0, 384, Rd.PORT_RX_MAC_CTRL_LO⟩, ⟨0x4d, 1, 1, 1, 1, 384, 0, 384, Rd.PORT_RX_MAC_CTRL_HI⟩, ⟨0x4e, 1, 1, 1, 1, 384, 0, 384, Rd.PORT_TX_FRAMES_LO⟩, ⟨0x4f, 1, 1, 1, 1, 384, 0, 384, Rd.PORT_TX_FRAMES_HI⟩, ⟨0x50, 1, 1, 1, 1, 384, 0, 384, Rd.PORT_TX_BYTES_LO⟩, ⟨0x51, 1, 1, 1, 1, 384, 0, 384, Rd.PORT_TX_BYTES_HI⟩, ⟨0x52, 1, 1, 1, 1, 384, 0, 384, Rd.PORT_TX_FCS_DROP_LO⟩, ⟨0x53, 1, 1, 1, 1, 384, 0, 384, Rd.PORT_TX_FCS_DROP_HI⟩, ⟨0x54, 1, 1, 1, 1, 384, 0, 384, Rd.PORT_TX_ABORT_LO⟩, ⟨0x55, 1, 1, 1, 1, 384, 0, 384, Rd.PORT_TX_ABORT_HI⟩, ⟨0x56, 1, 1, 1, 1, 384, 0, 384, Rd.PORT_TX_PFC_LO⟩, ⟨0x57, 1, 1, 1, 1, 384, 0, 384, Rd.PORT_TX_PFC_HI⟩, ⟨0x58, 1, 1, 1, 1, 384, 0, 384, Rd.PORT_DOWN_DROP_LO⟩, ⟨0x59, 1, 1, 1, 1, 384, 0, 384, Rd.PORT_DOWN_DROP_HI⟩, ⟨0x5a, 1, 1, 1, 1, 384, 0, 384, Rd.PORT_LINGER_FLUSH_LO⟩, ⟨0x5b, 1, 1, 1, 1, 384, 0, 384, Rd.PORT_LINGER_FLUSH_HI⟩, ⟨0x5c, 1, 1, 1, 1, 384, 0, 384, Rd.PORT_CT_STOMPED_LO⟩, ⟨0x5d, 1, 1, 1, 1, 384, 0, 384, Rd.PORT_CT_STOMPED_HI⟩, ⟨0x5e, 1, 1, 1, 1, 384, 0, 384, Rd.PORT_CT_BAD_SRC_LO⟩] ++
  [⟨0x5f, 1, 1, 1, 1, 384, 0, 384, Rd.PORT_CT_BAD_SRC_HI⟩, ⟨0x60, 1, 1, 1, 1, 384, 0, 384, Rd.PORT_LINK_DOWN_COUNT_LO⟩, ⟨0x61, 1, 1, 1, 1, 384, 0, 384, Rd.PORT_LINK_DOWN_COUNT_HI⟩]

def rowsOf400 : List RegRow :=
  [⟨0x2, 1, 1, 1, 1, 1, 0, 1, Rd.FWD_CTRL⟩, ⟨0x4, 1, 1, 1, 1, 1, 0, 1, Rd.FWD_INT_STATUS⟩, ⟨0x10, 1, 1, 1, 1, 1, 0, 1, Rd.FWD_COMMIT_CMD⟩, ⟨0x11, 1, 1, 1, 1, 1, 0, 1, Rd.FWD_STAGE⟩, ⟨0x12, 1, 1, 1, 1, 1, 0, 1, Rd.FWD_COMMIT_FAIL⟩, ⟨0x13, 1, 1, 1, 1, 1, 0, 1, Rd.FWD_COMMIT_FAIL_MASK⟩, ⟨0x14, 1, 1, 1, 1, 1, 0, 1, Rd.FWD_COMMIT_FAIL_ADDR⟩, ⟨0x15, 1, 1, 1, 1, 1, 0, 1, Rd.FWD_HASH_SEED⟩, ⟨0x18, 8, 1, 1, 1, 8, 0, 1, Rd.FWD_DSCP_MAP⟩, ⟨0x20, 4, 1, 1, 1, 4, 0, 1, Rd.FWD_READ_SEL⟩, ⟨0x28, 1, 1, 1, 1, 1, 0, 1, Rd.FWD_INJ_BASE⟩, ⟨0x29, 1, 1, 1, 1, 1, 0, 1, Rd.FWD_INJ_RING⟩, ⟨0x2a, 1, 1, 1, 1, 1, 0, 1, Rd.FWD_INJ_WR⟩, ⟨0x2b, 1, 1, 1, 1, 1, 0, 1, Rd.FWD_INJ_RD⟩, ⟨0x2c, 1, 1, 1, 1, 1, 0, 1, Rd.FWD_TRAP_BASE⟩, ⟨0x2d, 1, 1, 1, 1, 1, 0, 1, Rd.FWD_TRAP_RING⟩, ⟨0x2e, 1, 1, 1, 1, 1, 0, 1, Rd.FWD_TRAP_WR⟩, ⟨0x2f, 1, 1, 1, 1, 1, 0, 1, Rd.FWD_TRAP_RD⟩, ⟨0x30, 1, 1, 1, 1, 1, 0, 1, Rd.FWD_INJ_BAD⟩, ⟨0x31, 1, 1, 1, 1, 1, 0, 1, Rd.FWD_TRAP_DROP⟩] ++
  [⟨0x38, 8, 1, 1, 1, 8, 0, 1, Rd.FWD_HINJ_DESC⟩, ⟨0x40, 1, 1, 1, 1, 1, 0, 1, Rd.FWD_HINJ_DATA⟩, ⟨0x41, 1, 1, 1, 1, 1, 0, 1, Rd.FWD_HINJ_CMD⟩]

def rowsOf401 : List RegRow :=
  [⟨0x4, 1, 1, 1, 1, 24, 0, 24, Rd.FWD_PIPE_INT_STATUS⟩, ⟨0x40, 1, 1, 1, 1, 24, 0, 24, Rd.FWD_L2_MISS_LO⟩, ⟨0x41, 1, 1, 1, 1, 24, 0, 24, Rd.FWD_L2_MISS_HI⟩, ⟨0x42, 1, 1, 1, 1, 24, 0, 24, Rd.FWD_LPM_MISS_LO⟩, ⟨0x43, 1, 1, 1, 1, 24, 0, 24, Rd.FWD_LPM_MISS_HI⟩, ⟨0x44, 1, 1, 1, 1, 24, 0, 24, Rd.FWD_TTL_EXP_LO⟩, ⟨0x45, 1, 1, 1, 1, 24, 0, 24, Rd.FWD_TTL_EXP_HI⟩, ⟨0x46, 1, 1, 1, 1, 24, 0, 24, Rd.FWD_HDR_ERR_LO⟩, ⟨0x47, 1, 1, 1, 1, 24, 0, 24, Rd.FWD_HDR_ERR_HI⟩, ⟨0x48, 1, 1, 1, 1, 24, 0, 24, Rd.FWD_ACL_DROP_LO⟩, ⟨0x49, 1, 1, 1, 1, 24, 0, 24, Rd.FWD_ACL_DROP_HI⟩, ⟨0x4a, 1, 1, 1, 1, 24, 0, 24, Rd.FWD_HAIRPIN_DROP_LO⟩, ⟨0x4b, 1, 1, 1, 1, 24, 0, 24, Rd.FWD_HAIRPIN_DROP_HI⟩, ⟨0x4c, 1, 1, 1, 1, 24, 0, 24, Rd.FWD_TRAP_LO⟩, ⟨0x4d, 1, 1, 1, 1, 24, 0, 24, Rd.FWD_TRAP_HI⟩, ⟨0x4e, 1, 1, 1, 1, 24, 0, 24, Rd.FWD_TC_NO_RXTS_LO⟩, ⟨0x4f, 1, 1, 1, 1, 24, 0, 24, Rd.FWD_TC_NO_RXTS_HI⟩]

def rowsOf420 : List RegRow :=
  [⟨0x10, 128, 4, 1, 1, 417, 0, 4, Rd.FWD_PORT_CFG⟩, ⟨0x11, 128, 4, 1, 1, 417, 0, 4, Rd.FWD_PORT_PCP_MAP⟩, ⟨0x12, 128, 4, 1, 1, 417, 0, 4, Rd.FWD_PORT_LINK_DELAY⟩]

def rowsOf480 : List RegRow :=
  [⟨0x4, 1, 1, 1, 1, 1, 0, 1, Rd.BUF_INT_STATUS⟩, ⟨0x10, 4, 1, 1, 1, 4, 0, 1, Rd.BUF_POOL_SIZE⟩, ⟨0x14, 4, 1, 1, 1, 4, 0, 1, Rd.BUF_POOL_USED⟩, ⟨0x18, 1, 1, 1, 1, 1, 0, 1, Rd.BUF_FREE⟩, ⟨0x19, 1, 1, 1, 1, 1, 0, 1, Rd.BUF_ALLOC⟩, ⟨0x1a, 1, 1, 1, 1, 1, 0, 1, Rd.BUF_FREE_LOW⟩, ⟨0x1b, 1, 1, 1, 1, 1, 0, 1, Rd.BUF_CT_QUARANTINE⟩, ⟨0x1c, 1, 1, 1, 1, 1, 0, 1, Rd.BUF_AUDIT⟩, ⟨0x1d, 1, 1, 1, 1, 1, 0, 1, Rd.BUF_AUDIT_STATUS⟩, ⟨0x1e, 1, 1, 1, 1, 1, 0, 1, Rd.BUF_LEAK_LAST⟩, ⟨0x1f, 1, 1, 1, 1, 1, 0, 1, Rd.BUF_XLINK_LAST⟩, ⟨0x20, 1, 1, 1, 1, 1, 0, 1, Rd.BUF_LEAK_COUNT_LO⟩, ⟨0x21, 1, 1, 1, 1, 1, 0, 1, Rd.BUF_LEAK_COUNT_HI⟩, ⟨0x22, 1, 1, 1, 1, 1, 0, 1, Rd.BUF_XLINK_COUNT_LO⟩, ⟨0x23, 1, 1, 1, 1, 1, 0, 1, Rd.BUF_XLINK_COUNT_HI⟩, ⟨0x24, 1, 1, 1, 1, 1, 0, 1, Rd.BUF_AUDIT_PASSES_LO⟩, ⟨0x25, 1, 1, 1, 1, 1, 0, 1, Rd.BUF_AUDIT_PASSES_HI⟩, ⟨0x26, 1, 1, 1, 1, 1, 0, 1, Rd.BUF_NOFREE_DROP_LO⟩, ⟨0x27, 1, 1, 1, 1, 1, 0, 1, Rd.BUF_NOFREE_DROP_HI⟩, ⟨0x28, 1, 1, 1, 1, 1, 0, 1, Rd.BUF_STOMP_RX_LO⟩] ++
  [⟨0x29, 1, 1, 1, 1, 1, 0, 1, Rd.BUF_STOMP_RX_HI⟩, ⟨0x2a, 1, 1, 1, 1, 1, 0, 1, Rd.BUF_STOMP_CORRUPT_LO⟩, ⟨0x2b, 1, 1, 1, 1, 1, 0, 1, Rd.BUF_STOMP_CORRUPT_HI⟩, ⟨0x2c, 1, 1, 1, 1, 1, 0, 1, Rd.BUF_AUX_DROP_LO⟩, ⟨0x2d, 1, 1, 1, 1, 1, 0, 1, Rd.BUF_AUX_DROP_HI⟩]

def rowsOf481 : List RegRow :=
  [⟨0x10, 32, 1, 1, 1, 32, 0, 1, Rd.BUF_QPROF⟩, ⟨0x40, 128, 4, 1, 1, 128, 0, 1, Rd.BUF_PGPROF_XOFF⟩, ⟨0x41, 128, 4, 1, 1, 128, 0, 1, Rd.BUF_PGPROF_HEADROOM⟩, ⟨0x42, 128, 4, 1, 1, 128, 0, 1, Rd.BUF_PGPROF_XON_DELTA⟩]

def rowsOf488 : List RegRow :=
  [⟨0x4, 1, 1, 1, 1, 24, 0, 24, Rd.BUF_PORT_INT_STATUS⟩, ⟨0x10, 16, 60, 1, 1, 384, 0, 24, Rd.BUF_PORT_CFG⟩, ⟨0x11, 16, 60, 1, 1, 384, 0, 24, Rd.BUF_PORT_QPROF0⟩, ⟨0x12, 16, 60, 1, 1, 384, 0, 24, Rd.BUF_PORT_QPROF1⟩, ⟨0x13, 16, 60, 1, 1, 384, 0, 24, Rd.BUF_PORT_QPROF2⟩, ⟨0x14, 16, 60, 1, 1, 384, 0, 24, Rd.BUF_PORT_PG_MAP0⟩, ⟨0x15, 16, 60, 1, 1, 384, 0, 24, Rd.BUF_PORT_PG_MAP1⟩, ⟨0x16, 16, 60, 1, 1, 384, 0, 24, Rd.BUF_PORT_PG_STATUS⟩, ⟨0x18, 16, 60, 1, 1, 384, 0, 24, Rd.BUF_PORT_RX_TRUNC_LO⟩, ⟨0x19, 16, 60, 1, 1, 384, 0, 24, Rd.BUF_PORT_RX_TRUNC_HI⟩, ⟨0x1a, 16, 60, 1, 1, 384, 0, 24, Rd.BUF_PORT_HEADROOM_DROP_LO⟩, ⟨0x1b, 16, 60, 1, 1, 384, 0, 24, Rd.BUF_PORT_HEADROOM_DROP_HI⟩, ⟨0x1c, 16, 60, 16, 1, 6144, 0, 24, Rd.BUF_Q_OCC⟩, ⟨0x2c, 16, 60, 16, 2, 6144, 0, 24, Rd.BUF_Q_DROP_LO⟩, ⟨0x2d, 16, 60, 16, 2, 6144, 0, 24, Rd.BUF_Q_DROP_HI⟩]

def rowsOf4C0 : List RegRow :=
  [⟨0x4, 1, 1, 1, 1, 1, 0, 1, Rd.SCHD_INT_STATUS⟩, ⟨0x10, 1, 1, 1, 1, 1, 0, 1, Rd.SCHD_SHAPER_FORGIVE⟩, ⟨0x11, 1, 1, 1, 1, 1, 0, 1, Rd.SCHD_SAMPLE_CTRL⟩, ⟨0x12, 1, 1, 1, 1, 1, 0, 1, Rd.SCHD_SAMPLE_BASE⟩, ⟨0x13, 1, 1, 1, 1, 1, 0, 1, Rd.SCHD_SAMPLE_RING⟩, ⟨0x14, 1, 1, 1, 1, 1, 0, 1, Rd.SCHD_SAMPLE_WR⟩, ⟨0x15, 1, 1, 1, 1, 1, 0, 1, Rd.SCHD_SAMPLE_RD⟩, ⟨0x16, 1, 1, 1, 1, 1, 0, 1, Rd.SCHD_SAMPLE_DROP⟩, ⟨0x17, 1, 1, 1, 1, 1, 0, 1, Rd.SCHD_SAMPLE_OVERRUN⟩]

def rowsOf4C1 : List RegRow :=
  [⟨0x10, 128, 4, 1, 1, 384, 0, 3, Rd.SCHD_PORT_CFG⟩, ⟨0x11, 128, 4, 1, 1, 384, 0, 3, Rd.SCHD_PORT_STATUS⟩, ⟨0x12, 128, 4, 1, 1, 384, 0, 3, Rd.SCHD_PORT_QSTATE⟩]

def rowsOf4D0 : List RegRow :=
  [⟨0x4, 1, 1, 1, 1, 33, 0, 33, Rd.POL_INT_STATUS⟩, ⟨0x10, 126, 8, 1, 1, 4096, 0, 33, Rd.POL_CFG⟩, ⟨0x11, 126, 8, 1, 1, 4096, 0, 33, Rd.POL_CIR⟩, ⟨0x12, 126, 8, 1, 1, 4096, 0, 33, Rd.POL_PIR⟩, ⟨0x13, 126, 8, 1, 1, 4096, 0, 33, Rd.POL_CBS⟩, ⟨0x14, 126, 8, 1, 1, 4096, 0, 33, Rd.POL_PBS⟩, ⟨0x15, 126, 8, 1, 1, 4096, 0, 33, Rd.POL_GREEN⟩, ⟨0x16, 126, 8, 1, 1, 4096, 0, 33, Rd.POL_YELLOW⟩, ⟨0x17, 126, 8, 1, 1, 4096, 0, 33, Rd.POL_RED⟩]

def rowsOf500 : List RegRow :=
  [⟨0x4, 1, 1, 1, 1, 1, 0, 1, Rd.TLM_INT_STATUS⟩, ⟨0x10, 1, 1, 1, 1, 1, 0, 1, Rd.TLM_PCLK_LO⟩, ⟨0x11, 1, 1, 1, 1, 1, 0, 1, Rd.TLM_PCLK_HI⟩, ⟨0x12, 1, 1, 1, 1, 1, 0, 1, Rd.TLM_TAG_CTRL⟩, ⟨0x13, 1, 1, 1, 1, 1, 0, 1, Rd.TLM_TAG_STATUS⟩, ⟨0x14, 1, 1, 1, 1, 1, 0, 1, Rd.TLM_TAG_SKIP⟩, ⟨0x16, 1, 1, 1, 1, 1, 0, 1, Rd.TLM_TAG_COUNT_LO⟩, ⟨0x17, 1, 1, 1, 1, 1, 0, 1, Rd.TLM_TAG_COUNT_HI⟩, ⟨0x18, 1, 1, 1, 1, 1, 0, 1, Rd.TLM_DMA_CTRL⟩, ⟨0x19, 1, 1, 1, 1, 1, 0, 1, Rd.TLM_DMA_CBASE_LO⟩, ⟨0x1a, 1, 1, 1, 1, 1, 0, 1, Rd.TLM_DMA_CBASE_HI⟩, ⟨0x1b, 1, 1, 1, 1, 1, 0, 1, Rd.TLM_DMA_TBASE_LO⟩, ⟨0x1c, 1, 1, 1, 1, 1, 0, 1, Rd.TLM_DMA_TBASE_HI⟩, ⟨0x1d, 1, 1, 1, 1, 1, 0, 1, Rd.TLM_DMA_RING⟩, ⟨0x1e, 1, 1, 1, 1, 1, 0, 1, Rd.TLM_DMA_CRD⟩, ⟨0x1f, 1, 1, 1, 1, 1, 0, 1, Rd.TLM_DMA_TRD⟩, ⟨0x20, 1, 1, 1, 1, 1, 0, 1, Rd.TLM_DMA_CWR⟩, ⟨0x21, 1, 1, 1, 1, 1, 0, 1, Rd.TLM_DMA_TWR⟩, ⟨0x22, 1, 1, 1, 1, 1, 0, 1, Rd.TLM_DMA_WB_LO⟩, ⟨0x23, 1, 1, 1, 1, 1, 0, 1, Rd.TLM_DMA_WB_HI⟩] ++
  [⟨0x24, 1, 1, 1, 1, 1, 0, 1, Rd.TLM_DMA_SKIP⟩, ⟨0x25, 1, 1, 1, 1, 1, 0, 1, Rd.TLM_DMA_TDROP⟩, ⟨0x40, 32, 1, 1, 1, 32, 0, 1, Rd.TLM_DMA_LIST⟩]

def rowsOf501 : List RegRow :=
  [⟨0x4, 1, 1, 1, 1, 1, 0, 1, Rd.TLM_EVT_INT_STATUS⟩, ⟨0x10, 64, 8, 1, 1, 64, 0, 1, Rd.TLM_EVT_CFG⟩, ⟨0x12, 64, 8, 1, 1, 64, 0, 1, Rd.TLM_EVT_LO⟩, ⟨0x13, 64, 8, 1, 1, 64, 0, 1, Rd.TLM_EVT_HI⟩, ⟨0x14, 64, 8, 1, 1, 64, 0, 1, Rd.TLM_EVT_RELOAD_LO⟩, ⟨0x15, 64, 8, 1, 1, 64, 0, 1, Rd.TLM_EVT_RELOAD_HI⟩, ⟨0x210, 1, 1, 1, 1, 1, 0, 1, Rd.TLM_EVT_OVF0⟩, ⟨0x211, 1, 1, 1, 1, 1, 0, 1, Rd.TLM_EVT_OVF1⟩]

def rowsOf502 : List RegRow :=
  [⟨0x4, 1, 1, 1, 1, 2, 0, 2, Rd.TLM_THR_INT_STATUS⟩, ⟨0x10, 128, 4, 1, 1, 256, 0, 2, Rd.TLM_THR_CFG⟩, ⟨0x11, 128, 4, 1, 1, 256, 0, 2, Rd.TLM_THR_N⟩, ⟨0x12, 128, 4, 1, 1, 256, 0, 2, Rd.TLM_THR_LO⟩, ⟨0x13, 128, 4, 1, 1, 256, 0, 2, Rd.TLM_THR_HI⟩]

def rowsOf504 : List RegRow :=
  [⟨0x4, 1, 1, 1, 1, 1, 0, 1, Rd.TLM_SLOT_INT_STATUS⟩, ⟨0x10, 24, 16, 1, 1, 24, 0, 1, Rd.TLM_SLOT_CYCLES_LO⟩, ⟨0x11, 24, 16, 1, 1, 24, 0, 1, Rd.TLM_SLOT_CYCLES_HI⟩, ⟨0x12, 24, 16, 1, 1, 24, 0, 1, Rd.TLM_SLOT_FWD_LO⟩, ⟨0x13, 24, 16, 1, 1, 24, 0, 1, Rd.TLM_SLOT_FWD_HI⟩, ⟨0x14, 24, 16, 1, 1, 24, 0, 1, Rd.TLM_SLOT_DISC_LO⟩, ⟨0x15, 24, 16, 1, 1, 24, 0, 1, Rd.TLM_SLOT_DISC_HI⟩, ⟨0x16, 24, 16, 1, 1, 24, 0, 1, Rd.TLM_SLOT_SB_LO⟩, ⟨0x17, 24, 16, 1, 1, 24, 0, 1, Rd.TLM_SLOT_SB_HI⟩, ⟨0x18, 24, 16, 1, 1, 24, 0, 1, Rd.TLM_SLOT_SF_LO⟩, ⟨0x19, 24, 16, 1, 1, 24, 0, 1, Rd.TLM_SLOT_SF_HI⟩, ⟨0x1a, 24, 16, 1, 1, 24, 0, 1, Rd.TLM_SLOT_FRONT_LOST_LO⟩, ⟨0x1b, 24, 16, 1, 1, 24, 0, 1, Rd.TLM_SLOT_FRONT_LOST_HI⟩, ⟨0x190, 1, 1, 1, 1, 1, 0, 1, Rd.TLM_SLOT_CMD⟩, ⟨0x194, 4, 1, 1, 1, 4, 0, 1, Rd.TLM_SLOT_SNAP_TIME⟩, ⟨0x200, 24, 16, 1, 1, 24, 0, 1, Rd.TLM_SNAP_CYCLES_LO⟩, ⟨0x201, 24, 16, 1, 1, 24, 0, 1, Rd.TLM_SNAP_CYCLES_HI⟩, ⟨0x202, 24, 16, 1, 1, 24, 0, 1, Rd.TLM_SNAP_FWD_LO⟩, ⟨0x203, 24, 16, 1, 1, 24, 0, 1, Rd.TLM_SNAP_FWD_HI⟩, ⟨0x204, 24, 16, 1, 1, 24, 0, 1, Rd.TLM_SNAP_DISC_LO⟩] ++
  [⟨0x205, 24, 16, 1, 1, 24, 0, 1, Rd.TLM_SNAP_DISC_HI⟩, ⟨0x206, 24, 16, 1, 1, 24, 0, 1, Rd.TLM_SNAP_SB_LO⟩, ⟨0x207, 24, 16, 1, 1, 24, 0, 1, Rd.TLM_SNAP_SB_HI⟩, ⟨0x208, 24, 16, 1, 1, 24, 0, 1, Rd.TLM_SNAP_SF_LO⟩, ⟨0x209, 24, 16, 1, 1, 24, 0, 1, Rd.TLM_SNAP_SF_HI⟩, ⟨0x20a, 24, 16, 1, 1, 24, 0, 1, Rd.TLM_SNAP_FRONT_LOST_LO⟩, ⟨0x20b, 24, 16, 1, 1, 24, 0, 1, Rd.TLM_SNAP_FRONT_LOST_HI⟩]

def rowsOf600 : List RegRow :=
  [⟨0x2, 1, 1, 1, 1, 1, 0, 1, Rd.TBASE_CTRL⟩, ⟨0x4, 1, 1, 1, 1, 1, 0, 1, Rd.TBASE_INT_STATUS⟩, ⟨0x10, 1, 1, 1, 1, 1, 0, 1, Rd.TBASE_LIVE⟩, ⟨0x11, 1, 1, 1, 1, 1, 0, 1, Rd.TBASE_INC_LO⟩, ⟨0x12, 1, 1, 1, 1, 1, 0, 1, Rd.TBASE_INC_HI⟩, ⟨0x13, 1, 1, 1, 1, 1, 0, 1, Rd.TBASE_INC_CUR_LO⟩, ⟨0x14, 1, 1, 1, 1, 1, 0, 1, Rd.TBASE_INC_CUR_HI⟩, ⟨0x15, 1, 1, 1, 1, 1, 0, 1, Rd.TBASE_STEP_LO⟩, ⟨0x16, 1, 1, 1, 1, 1, 0, 1, Rd.TBASE_STEP_HI⟩, ⟨0x17, 1, 1, 1, 1, 1, 0, 1, Rd.TBASE_STEP_SUB⟩, ⟨0x18, 1, 1, 1, 1, 1, 0, 1, Rd.TBASE_LOAD0⟩, ⟨0x19, 1, 1, 1, 1, 1, 0, 1, Rd.TBASE_LOAD1⟩, ⟨0x1a, 1, 1, 1, 1, 1, 0, 1, Rd.TBASE_LOAD2⟩, ⟨0x1b, 1, 1, 1, 1, 1, 0, 1, Rd.TBASE_LOAD3⟩, ⟨0x1c, 1, 1, 1, 1, 1, 0, 1, Rd.TBASE_ARM0⟩, ⟨0x1d, 1, 1, 1, 1, 1, 0, 1, Rd.TBASE_ARM1⟩, ⟨0x1e, 1, 1, 1, 1, 1, 0, 1, Rd.TBASE_ARM2⟩, ⟨0x1f, 1, 1, 1, 1, 1, 0, 1, Rd.TBASE_ARM3⟩, ⟨0x20, 1, 1, 1, 1, 1, 0, 1, Rd.TBASE_CMD⟩, ⟨0x24, 4, 1, 1, 1, 4, 0, 1, Rd.TBASE_SNAP_REC⟩] ++
  [⟨0x28, 4, 1, 1, 1, 4, 0, 1, Rd.TBASE_APPLIED_REC⟩, ⟨0x2c, 1, 1, 1, 1, 1, 0, 1, Rd.TBASE_TXTS_STATUS⟩, ⟨0x2d, 4, 1, 1, 1, 4, 0, 1, Rd.TBASE_TXTS_REC⟩, ⟨0x31, 1, 1, 1, 1, 1, 0, 1, Rd.TBASE_TXTS4⟩, ⟨0x32, 1, 1, 1, 1, 1, 0, 1, Rd.TBASE_TXTS_POP⟩, ⟨0x33, 1, 1, 1, 1, 1, 0, 1, Rd.TBASE_TXTS_OVF⟩, ⟨0x40, 5, 8, 1, 1, 5, 0, 1, Rd.TBASE_OUT_CTRL⟩, ⟨0x41, 5, 8, 1, 1, 5, 0, 1, Rd.TBASE_OUT_PERIOD⟩, ⟨0x42, 5, 8, 1, 1, 5, 0, 1, Rd.TBASE_OUT_PHASE⟩, ⟨0x43, 5, 8, 1, 1, 5, 0, 1, Rd.TBASE_OUT_WIDTH⟩, ⟨0x44, 5, 8, 1, 1, 5, 0, 1, Rd.TBASE_OUT_DELAY⟩, ⟨0x45, 5, 8, 1, 1, 5, 0, 1, Rd.TBASE_OUT_OFFSET_LO⟩, ⟨0x46, 5, 8, 1, 1, 5, 0, 1, Rd.TBASE_OUT_OFFSET_HI⟩, ⟨0x47, 5, 8, 1, 1, 5, 0, 1, Rd.TBASE_OUT_CMD⟩]

def rowsOf602 : List RegRow :=
  [⟨0x10, 128, 4, 1, 1, 416, 0, 4, Rd.TBASE_PORT_TS_CTRL⟩, ⟨0x11, 128, 4, 1, 1, 416, 0, 4, Rd.TBASE_PORT_RXFIX⟩, ⟨0x12, 128, 4, 1, 1, 416, 0, 4, Rd.TBASE_PORT_TXFIX⟩]

def rowsOf610 : List RegRow :=
  [⟨0x4, 1, 1, 1, 1, 1, 0, 1, Rd.MET_INT_STATUS⟩, ⟨0x10, 1, 1, 1, 1, 1, 0, 1, Rd.MET_BANK_CTRL⟩, ⟨0x11, 1, 1, 1, 1, 1, 0, 1, Rd.MET_BANK_STATUS⟩, ⟨0x12, 1, 1, 1, 1, 1, 0, 1, Rd.MET_TCNT⟩, ⟨0x13, 1, 1, 1, 1, 1, 0, 1, Rd.MET_XCHK_CTRL⟩, ⟨0x14, 1, 1, 1, 1, 1, 0, 1, Rd.MET_XCHK_STATUS⟩, ⟨0x15, 1, 1, 1, 1, 1, 0, 1, Rd.MET_CELL_OUT⟩, ⟨0x16, 1, 1, 1, 1, 1, 0, 1, Rd.MET_CELL_PROOF⟩, ⟨0x17, 1, 1, 1, 1, 1, 0, 1, Rd.MET_CELL_RETURN⟩, ⟨0x18, 1, 1, 1, 1, 1, 0, 1, Rd.MET_CD_START⟩, ⟨0x19, 1, 1, 1, 1, 1, 0, 1, Rd.MET_CD_BUSY⟩, ⟨0x1a, 1, 1, 1, 1, 1, 0, 1, Rd.MET_CD_SPAN⟩, ⟨0x1b, 1, 1, 1, 1, 1, 0, 1, Rd.MET_CD_MAXSHIFT⟩, ⟨0x1c, 1, 1, 1, 1, 1, 0, 1, Rd.MET_TABLE_LOAD⟩, ⟨0x20, 1, 1, 1, 1, 1, 0, 1, Rd.MET_EXT_CTRL⟩, ⟨0x21, 1, 1, 1, 1, 1, 0, 1, Rd.MET_EXT_REF⟩, ⟨0x22, 1, 1, 1, 1, 1, 0, 1, Rd.MET_EXT_TIMEOUT⟩, ⟨0x23, 1, 1, 1, 1, 1, 0, 1, Rd.MET_EXT_STATUS⟩, ⟨0x24, 1, 1, 1, 1, 1, 0, 1, Rd.MET_EXT_CMD⟩, ⟨0x28, 11, 1, 1, 1, 11, 0, 1, Rd.MET_EXT_RES⟩]

def rowsOf611 : List RegRow :=
  [⟨0x10, 32, 8, 1, 1, 32, 0, 1, Rd.MET_CELL_STATUS⟩, ⟨0x11, 32, 8, 1, 1, 32, 0, 1, Rd.MET_CELL_FLOOR⟩, ⟨0x12, 32, 8, 1, 1, 32, 0, 1, Rd.MET_CELL_RESULTS_LO⟩, ⟨0x13, 32, 8, 1, 1, 32, 0, 1, Rd.MET_CELL_RESULTS_HI⟩, ⟨0x14, 32, 8, 1, 1, 32, 0, 1, Rd.MET_CELL_INVALID⟩, ⟨0x15, 32, 8, 1, 1, 32, 0, 1, Rd.MET_CELL_PILOT⟩, ⟨0x16, 32, 8, 1, 1, 32, 0, 1, Rd.MET_CELL_CD⟩]

def rowsOf612 : List RegRow :=
  [⟨0x10, 128, 4, 1, 1, 1024, 0, 8, Rd.MET_SRC_CFG⟩, ⟨0x11, 128, 4, 1, 1, 1024, 0, 8, Rd.MET_SRC_LAST⟩, ⟨0x12, 128, 4, 1, 1, 1024, 0, 8, Rd.MET_SRC_COARSE⟩, ⟨0x13, 128, 4, 1, 1, 1024, 0, 8, Rd.MET_SRC_MEAN⟩]

def rowsOf61A : List RegRow :=
  [⟨0x10, 1008, 1, 1, 1, 1008, 0, 1, Rd.MET_SCHED⟩]

def rowsOf61C : List RegRow :=
  [⟨0x10, 128, 4, 1, 1, 416, 0, 4, Rd.MET_PORT_ASYM_COEF⟩, ⟨0x11, 128, 4, 1, 1, 416, 0, 4, Rd.MET_PORT_MPD⟩, ⟨0x12, 128, 4, 1, 1, 416, 0, 4, Rd.MET_PORT_ASYM⟩]

def rowsOf660 : List RegRow :=
  [⟨0x4, 1, 1, 1, 1, 1, 0, 1, Rd.LOOP_INT_STATUS⟩, ⟨0x10, 1, 1, 1, 1, 1, 0, 1, Rd.LOOP_CTRL⟩, ⟨0x11, 1, 1, 1, 1, 1, 0, 1, Rd.LOOP_STATUS⟩, ⟨0x12, 1, 1, 1, 1, 1, 0, 1, Rd.LOOP_BW⟩, ⟨0x13, 1, 1, 1, 1, 1, 0, 1, Rd.LOOP_SLOPE⟩, ⟨0x14, 1, 1, 1, 1, 1, 0, 1, Rd.LOOP_PHASE_ACCEPT⟩, ⟨0x15, 1, 1, 1, 1, 1, 0, 1, Rd.LOOP_FREQ_DISAGREE⟩, ⟨0x16, 1, 1, 1, 1, 1, 0, 1, Rd.LOOP_FREQ_LIMIT⟩, ⟨0x17, 1, 1, 1, 1, 1, 0, 1, Rd.LOOP_JUMP_LIMIT⟩, ⟨0x18, 1, 1, 1, 1, 1, 0, 1, Rd.LOOP_FREQ_LO⟩, ⟨0x19, 1, 1, 1, 1, 1, 0, 1, Rd.LOOP_FREQ_HI⟩, ⟨0x1a, 1, 1, 1, 1, 1, 0, 1, Rd.LOOP_HO_CTRL⟩, ⟨0x1b, 1, 1, 1, 1, 1, 0, 1, Rd.LOOP_HO_FREQ_LO⟩, ⟨0x1c, 1, 1, 1, 1, 1, 0, 1, Rd.LOOP_HO_FREQ_HI⟩, ⟨0x1d, 1, 1, 1, 1, 1, 0, 1, Rd.LOOP_HO_DRIFT⟩, ⟨0x1e, 1, 1, 1, 1, 1, 0, 1, Rd.LOOP_HO_TIME⟩, ⟨0x1f, 1, 1, 1, 1, 1, 0, 1, Rd.LOOP_PHASE_ADJ⟩, ⟨0x20, 1, 1, 1, 1, 1, 0, 1, Rd.LOOP_CMD⟩, ⟨0x21, 1, 1, 1, 1, 1, 0, 1, Rd.LOOP_MPLL_CTRL⟩, ⟨0x22, 1, 1, 1, 1, 1, 0, 1, Rd.LOOP_MPLL_STATUS⟩] ++
  [⟨0x23, 1, 1, 1, 1, 1, 0, 1, Rd.LOOP_LOL_COUNT⟩, ⟨0x24, 1, 1, 1, 1, 1, 0, 1, Rd.LOOP_LOCK_A⟩, ⟨0x25, 1, 1, 1, 1, 1, 0, 1, Rd.LOOP_BT_LO⟩, ⟨0x26, 1, 1, 1, 1, 1, 0, 1, Rd.LOOP_BT_HI⟩, ⟨0x27, 1, 1, 1, 1, 1, 0, 1, Rd.LOOP_BT_SUB⟩, ⟨0x28, 1, 1, 1, 1, 1, 0, 1, Rd.LOOP_BC⟩]

def rowsOf661 : List RegRow :=
  [⟨0x4, 1, 1, 1, 1, 1, 0, 1, Rd.LOOP_REF_INT_STATUS⟩, ⟨0x10, 23, 16, 1, 1, 23, 0, 1, Rd.LOOP_REF_CFG⟩, ⟨0x11, 23, 16, 1, 1, 23, 0, 1, Rd.LOOP_REF_FREQ_HZ⟩, ⟨0x12, 23, 16, 1, 1, 23, 0, 1, Rd.LOOP_REF_DELAY⟩, ⟨0x13, 23, 16, 1, 1, 23, 0, 1, Rd.LOOP_REF_TOL⟩, ⟨0x14, 23, 16, 1, 1, 23, 0, 1, Rd.LOOP_REF_STATUS⟩, ⟨0x15, 23, 16, 1, 1, 23, 0, 1, Rd.LOOP_REF_PHASE⟩, ⟨0x16, 23, 16, 1, 1, 23, 0, 1, Rd.LOOP_REF_FREQ⟩, ⟨0x17, 23, 16, 1, 1, 23, 0, 1, Rd.LOOP_REF_JUMP⟩, ⟨0x18, 23, 16, 1, 1, 23, 0, 1, Rd.LOOP_REF_ENTRY_PHASE⟩, ⟨0x19, 23, 16, 1, 1, 23, 0, 1, Rd.LOOP_REF_CMD⟩]

def rowsOf662 : List RegRow :=
  [⟨0x10, 4, 4, 1, 1, 4, 0, 1, Rd.LOOP_CLKOUT_CTRL⟩, ⟨0x11, 4, 4, 1, 1, 4, 0, 1, Rd.LOOP_CLKOUT_DIV⟩, ⟨0x12, 4, 4, 1, 1, 4, 0, 1, Rd.LOOP_CLKOUT_PHASE⟩]

def rowsOf680 : List RegRow :=
  [⟨0x2, 1, 1, 1, 1, 1, 0, 1, Rd.SKY_CTRL⟩, ⟨0x4, 1, 1, 1, 1, 1, 0, 1, Rd.SKY_INT_STATUS⟩, ⟨0x10, 1, 1, 1, 1, 1, 0, 1, Rd.SKY_LIVE⟩, ⟨0x11, 1, 1, 1, 1, 1, 0, 1, Rd.SKY_CLK_HZ⟩, ⟨0x12, 1, 1, 1, 1, 1, 0, 1, Rd.SKY_CLK_MEAS⟩, ⟨0x13, 1, 1, 1, 1, 1, 0, 1, Rd.SKY_SAMPLE_COUNT⟩, ⟨0x14, 1, 1, 1, 1, 1, 0, 1, Rd.SKY_EPOCH_SAMPLES⟩, ⟨0x15, 1, 1, 1, 1, 1, 0, 1, Rd.SKY_RING_BASE⟩, ⟨0x16, 1, 1, 1, 1, 1, 0, 1, Rd.SKY_RING_LEN⟩, ⟨0x17, 1, 1, 1, 1, 1, 0, 1, Rd.SKY_RING_WR⟩, ⟨0x18, 1, 1, 1, 1, 1, 0, 1, Rd.SKY_RING_RD⟩, ⟨0x19, 1, 1, 1, 1, 1, 0, 1, Rd.SKY_RING_IRQ⟩, ⟨0x1a, 1, 1, 1, 1, 1, 0, 1, Rd.SKY_RING_DROP⟩, ⟨0x1b, 1, 1, 1, 1, 1, 0, 1, Rd.SKY_FIX_FAIL⟩, ⟨0x1c, 1, 1, 1, 1, 1, 0, 1, Rd.SKY_SNAP_CTRL⟩, ⟨0x1d, 1, 1, 1, 1, 1, 0, 1, Rd.SKY_SNAP_BASE⟩, ⟨0x1e, 1, 1, 1, 1, 1, 0, 1, Rd.SKY_SNAP_START⟩, ⟨0x20, 1, 1, 1, 1, 1, 0, 1, Rd.SKY_CHECK⟩, ⟨0x21, 1, 1, 1, 1, 1, 0, 1, Rd.SKY_CLK_LIMIT⟩, ⟨0x22, 1, 1, 1, 1, 1, 0, 1, Rd.SKY_TUNC_MAX⟩] ++
  [⟨0x23, 1, 1, 1, 1, 1, 0, 1, Rd.SKY_FIX_TIMEOUT⟩, ⟨0x24, 1, 1, 1, 1, 1, 0, 1, Rd.SKY_REQUAL⟩, ⟨0x28, 4, 1, 1, 1, 4, 0, 1, Rd.SKY_FIX_T⟩, ⟨0x2c, 1, 1, 1, 1, 1, 0, 1, Rd.SKY_FIX_OFFSET_LO⟩, ⟨0x2d, 1, 1, 1, 1, 1, 0, 1, Rd.SKY_FIX_OFFSET_HI⟩, ⟨0x2e, 1, 1, 1, 1, 1, 0, 1, Rd.SKY_FIX_RATE⟩, ⟨0x2f, 1, 1, 1, 1, 1, 0, 1, Rd.SKY_FIX_INFO⟩, ⟨0x30, 1, 1, 1, 1, 1, 0, 1, Rd.SKY_FIX_CMD⟩, ⟨0x31, 1, 1, 1, 1, 1, 0, 1, Rd.SKY_FIX_STATUS⟩, ⟨0x34, 4, 1, 1, 1, 4, 0, 1, Rd.SKY_TIME⟩, ⟨0x38, 4, 1, 1, 1, 4, 0, 1, Rd.SKY_AUX_STAMP⟩]

def rowsOf6A0 : List RegRow :=
  [⟨0x2, 1, 1, 1, 1, 1, 0, 1, Rd.PRF_CTRL⟩, ⟨0x4, 1, 1, 1, 1, 1, 0, 1, Rd.PRF_INT_STATUS⟩, ⟨0x10, 1, 1, 1, 1, 1, 0, 1, Rd.PRF_TRIG⟩, ⟨0x11, 1, 1, 1, 1, 1, 0, 1, Rd.PRF_CMD⟩, ⟨0x12, 1, 1, 1, 1, 1, 0, 1, Rd.PRF_LIVE⟩, ⟨0x13, 1, 1, 1, 1, 1, 0, 1, Rd.PRF_TEMP⟩, ⟨0x14, 1, 1, 1, 1, 1, 0, 1, Rd.PRF_DONE_MASK⟩, ⟨0x15, 1, 1, 1, 1, 1, 0, 1, Rd.PRF_REJECT_MASK⟩, ⟨0x16, 1, 1, 1, 1, 1, 0, 1, Rd.PRF_SKIP_MASK⟩, ⟨0x17, 1, 1, 1, 1, 1, 0, 1, Rd.PRF_LAST_MS⟩, ⟨0x18, 1, 1, 1, 1, 1, 0, 1, Rd.PRF_RUN_COUNT⟩, ⟨0x19, 1, 1, 1, 1, 1, 0, 1, Rd.PRF_ABANDON_COUNT⟩, ⟨0x1c, 4, 1, 1, 1, 4, 0, 1, Rd.PRF_LAST_DONE⟩]

def rowsOf6B0 : List RegRow :=
  [⟨0x2, 1, 1, 1, 1, 1, 0, 1, Rd.TWIN_CTRL⟩, ⟨0x4, 1, 1, 1, 1, 1, 0, 1, Rd.TWIN_INT_STATUS⟩, ⟨0x10, 1, 1, 1, 1, 1, 0, 1, Rd.TWIN_PAIR_CFG⟩, ⟨0x11, 1, 1, 1, 1, 1, 0, 1, Rd.TWIN_LIVE⟩, ⟨0x12, 1, 1, 1, 1, 1, 0, 1, Rd.TWIN_TIMERS⟩, ⟨0x13, 1, 1, 1, 1, 1, 0, 1, Rd.TWIN_ROLE_GATE⟩, ⟨0x14, 1, 1, 1, 1, 1, 0, 1, Rd.TWIN_CMD⟩, ⟨0x15, 1, 1, 1, 1, 1, 0, 1, Rd.TWIN_XCHK⟩, ⟨0x16, 1, 1, 1, 1, 1, 0, 1, Rd.TWIN_XCHK_STATUS⟩, ⟨0x17, 1, 1, 1, 1, 1, 0, 1, Rd.TWIN_STEP_SUM_LO⟩, ⟨0x18, 1, 1, 1, 1, 1, 0, 1, Rd.TWIN_STEP_SUM_HI⟩, ⟨0x19, 1, 1, 1, 1, 1, 0, 1, Rd.TWIN_STEP_SUM_SUB⟩, ⟨0x1a, 1, 1, 1, 1, 1, 0, 1, Rd.TWIN_CLOCK_ID_LO⟩, ⟨0x1b, 1, 1, 1, 1, 1, 0, 1, Rd.TWIN_CLOCK_ID_HI⟩, ⟨0x1c, 1, 1, 1, 1, 1, 0, 1, Rd.TWIN_PEER_ID_LO⟩, ⟨0x1d, 1, 1, 1, 1, 1, 0, 1, Rd.TWIN_PEER_ID_HI⟩, ⟨0x20, 16, 1, 1, 1, 16, 0, 1, Rd.TWIN_TX_PAYLOAD⟩]

def rowsOf6B1 : List RegRow :=
  [⟨0x4, 1, 1, 1, 1, 1, 0, 1, Rd.TWIN_LNK_INT_STATUS⟩, ⟨0x10, 3, 16, 1, 1, 3, 0, 1, Rd.TWIN_LNK_STATUS⟩, ⟨0x12, 3, 16, 1, 1, 3, 0, 1, Rd.TWIN_LNK_RX_FRAMES_LO⟩, ⟨0x13, 3, 16, 1, 1, 3, 0, 1, Rd.TWIN_LNK_RX_FRAMES_HI⟩, ⟨0x14, 3, 16, 1, 1, 3, 0, 1, Rd.TWIN_LNK_FRAME_ERR⟩, ⟨0x15, 3, 16, 1, 1, 3, 0, 1, Rd.TWIN_LNK_SYNC_DISCARD⟩, ⟨0x16, 3, 16, 1, 1, 3, 0, 1, Rd.TWIN_LNK_OFFSET⟩, ⟨0x17, 3, 16, 1, 1, 3, 0, 1, Rd.TWIN_LNK_DELAY⟩]

def rowsOf6B2 : List RegRow :=
  [⟨0x4, 1, 1, 1, 1, 1, 0, 1, Rd.TWIN_STK_INT_STATUS⟩, ⟨0x10, 1, 1, 1, 1, 1, 0, 1, Rd.TWIN_STACK_CFG⟩, ⟨0x11, 1, 1, 1, 1, 1, 0, 1, Rd.TWIN_STACK_STATUS⟩, ⟨0x12, 1, 1, 1, 1, 1, 0, 1, Rd.TWIN_XSTEP_AMT_LO⟩, ⟨0x13, 1, 1, 1, 1, 1, 0, 1, Rd.TWIN_XSTEP_AMT_HI⟩, ⟨0x14, 1, 1, 1, 1, 1, 0, 1, Rd.TWIN_XSTEP_AMT_SUB⟩, ⟨0x18, 1, 1, 1, 1, 1, 0, 1, Rd.TWIN_XSTEP_ARM0⟩, ⟨0x19, 1, 1, 1, 1, 1, 0, 1, Rd.TWIN_XSTEP_ARM1⟩, ⟨0x1a, 1, 1, 1, 1, 1, 0, 1, Rd.TWIN_XSTEP_ARM2⟩, ⟨0x1b, 1, 1, 1, 1, 1, 0, 1, Rd.TWIN_XSTEP_ARM3⟩, ⟨0x1c, 1, 1, 1, 1, 1, 0, 1, Rd.TWIN_XSTEP_CMD⟩, ⟨0x1d, 1, 1, 1, 1, 1, 0, 1, Rd.TWIN_XSTEP_STATUS⟩, ⟨0x1e, 1, 1, 1, 1, 1, 0, 1, Rd.TWIN_XSTEP_GUARD⟩]

def rowsOf6B4 : List RegRow :=
  [⟨0x4, 1, 1, 1, 1, 4, 0, 4, Rd.TWIN_SID_INT_STATUS⟩, ⟨0x10, 84, 12, 1, 1, 256, 0, 4, Rd.TWIN_SID_CFG⟩, ⟨0x11, 84, 12, 1, 1, 256, 0, 4, Rd.TWIN_SID_DA_LO⟩, ⟨0x12, 84, 12, 1, 1, 256, 0, 4, Rd.TWIN_SID_DA_HI⟩, ⟨0x13, 84, 12, 1, 1, 256, 0, 4, Rd.TWIN_SID_STATE⟩, ⟨0x14, 84, 12, 1, 1, 256, 0, 4, Rd.TWIN_SID_PASSED⟩, ⟨0x15, 84, 12, 1, 1, 256, 0, 4, Rd.TWIN_SID_DISCARDED⟩, ⟨0x16, 84, 12, 1, 1, 256, 0, 4, Rd.TWIN_SID_OOO⟩, ⟨0x17, 84, 12, 1, 1, 256, 0, 4, Rd.TWIN_SID_ROGUE⟩, ⟨0x18, 84, 12, 1, 1, 256, 0, 4, Rd.TWIN_SID_LOST⟩, ⟨0x19, 84, 12, 1, 1, 256, 0, 4, Rd.TWIN_SID_TAGLESS⟩, ⟨0x1a, 84, 12, 1, 1, 256, 0, 4, Rd.TWIN_SID_RESETS⟩]

def rowsOf6C0 : List RegRow :=
  [⟨0x2, 1, 1, 1, 1, 1, 0, 1, Rd.FLT_CTRL⟩, ⟨0x4, 1, 1, 1, 1, 1, 0, 1, Rd.FLT_INT_STATUS⟩, ⟨0x10, 1, 1, 1, 1, 1, 0, 1, Rd.FLT_LIVE⟩, ⟨0x11, 1, 1, 1, 1, 1, 0, 1, Rd.FLT_SCRUB⟩, ⟨0x12, 1, 1, 1, 1, 1, 0, 1, Rd.FLT_WDOG⟩, ⟨0x13, 1, 1, 1, 1, 1, 0, 1, Rd.FLT_WDOG_KICK⟩, ⟨0x14, 1, 1, 1, 1, 1, 0, 1, Rd.FLT_CLASS_PEND⟩, ⟨0x21, 18, 1, 1, 1, 18, 0, 1, Rd.FLT_CLASS_CFG⟩, ⟨0x41, 18, 1, 1, 1, 18, 0, 1, Rd.FLT_CLASS_COUNT⟩]

def rowsOf6C1 : List RegRow :=
  [⟨0x10, 1, 1, 1, 1, 1, 0, 1, Rd.FLT_LOG_HEAD⟩, ⟨0x40, 256, 1, 1, 1, 256, 0, 1, Rd.FLT_LOG⟩]

def rowsOf7F0 : List RegRow :=
  [⟨0x4, 1, 1, 1, 1, 1, 0, 1, Rd.TST_INT_STATUS⟩, ⟨0x10, 1, 1, 1, 1, 1, 0, 1, Rd.TST_PORT_CTRL⟩, ⟨0x11, 1, 1, 1, 1, 1, 0, 1, Rd.TST_TAP_STATUS⟩, ⟨0x12, 1, 1, 1, 1, 1, 0, 1, Rd.TST_MET_CTRL⟩]

def rowsOf7F1 : List RegRow :=
  [⟨0x10, 32, 2, 1, 1, 32, 0, 1, Rd.TST_RAW_TX⟩, ⟨0x11, 32, 2, 1, 1, 32, 0, 1, Rd.TST_RAW_RX⟩]

/-- The populated pages: first page, how many, block code, first page of the block, registers (R55, R62, R63). -/
def pageRows : List PageRow :=
  [⟨0x0, 1, 0x1, 0x0, rowsOf000⟩,
   ⟨0x1, 1, 0x2, 0x1, rowsOf001⟩,
   ⟨0x2, 1, 0x3, 0x2, rowsOf002⟩,
   ⟨0x3, 1, 0x3, 0x2, rowsOf003⟩,
   ⟨0x4, 4, 0x4, 0x4, rowsOf004⟩,
   ⟨0x10, 1, 0x5, 0x10, rowsOf010⟩,
   ⟨0x11, 1, 0x5, 0x10, rowsOf011⟩,
   ⟨0x20, 1, 0x6, 0x20, rowsOf020⟩,
   ⟨0x100, 192, 0x7, 0x100, rowsOf100⟩,
   ⟨0x1c0, 32, 0x8, 0x1c0, rowsOf1C0⟩] ++
  [⟨0x200, 384, 0x9, 0x200, rowsOf200⟩,
   ⟨0x400, 1, 0xa, 0x400, rowsOf400⟩,
   ⟨0x401, 24, 0xa, 0x400, rowsOf401⟩,
   ⟨0x420, 4, 0xa, 0x400, rowsOf420⟩,
   ⟨0x480, 1, 0xb, 0x480, rowsOf480⟩,
   ⟨0x481, 1, 0xb, 0x480, rowsOf481⟩,
   ⟨0x488, 24, 0xb, 0x480, rowsOf488⟩,
   ⟨0x4c0, 1, 0xc, 0x4c0, rowsOf4C0⟩,
   ⟨0x4c1, 3, 0xc, 0x4c0, rowsOf4C1⟩,
   ⟨0x4d0, 33, 0xd, 0x4d0, rowsOf4D0⟩] ++
  [⟨0x500, 1, 0xe, 0x500, rowsOf500⟩,
   ⟨0x501, 1, 0xe, 0x500, rowsOf501⟩,
   ⟨0x502, 2, 0xe, 0x500, rowsOf502⟩,
   ⟨0x504, 1, 0xe, 0x500, rowsOf504⟩,
   ⟨0x600, 1, 0xf, 0x600, rowsOf600⟩,
   ⟨0x602, 4, 0xf, 0x600, rowsOf602⟩,
   ⟨0x610, 1, 0x10, 0x610, rowsOf610⟩,
   ⟨0x611, 1, 0x10, 0x610, rowsOf611⟩,
   ⟨0x612, 8, 0x10, 0x610, rowsOf612⟩,
   ⟨0x61a, 1, 0x10, 0x610, rowsOf61A⟩] ++
  [⟨0x61c, 4, 0x10, 0x610, rowsOf61C⟩,
   ⟨0x660, 1, 0x11, 0x660, rowsOf660⟩,
   ⟨0x661, 1, 0x11, 0x660, rowsOf661⟩,
   ⟨0x662, 1, 0x11, 0x660, rowsOf662⟩,
   ⟨0x680, 1, 0x12, 0x680, rowsOf680⟩,
   ⟨0x6a0, 1, 0x13, 0x6a0, rowsOf6A0⟩,
   ⟨0x6b0, 1, 0x14, 0x6b0, rowsOf6B0⟩,
   ⟨0x6b1, 1, 0x14, 0x6b0, rowsOf6B1⟩,
   ⟨0x6b2, 1, 0x14, 0x6b0, rowsOf6B2⟩,
   ⟨0x6b4, 4, 0x14, 0x6b0, rowsOf6B4⟩] ++
  [⟨0x6c0, 1, 0x15, 0x6c0, rowsOf6C0⟩,
   ⟨0x6c1, 1, 0x15, 0x6c0, rowsOf6C1⟩,
   ⟨0x7f0, 1, 0x16, 0x7f0, rowsOf7F0⟩,
   ⟨0x7f1, 1, 0x16, 0x7f0, rowsOf7F1⟩]

/-- The run of pages that a page belongs to; none where the page is not populated. -/
def pageRow (page : Nat) : Option PageRow :=
  pageRows.find? (fun p => decide (p.first ≤ page) && decide (page < p.first + p.n))

/-- The block code of a populated page (R63). -/
def blockOfPage (page : Nat) : Option Nat := (pageRow page).map (·.code)

/-- The register at a word offset of a page, with its index within its array. -/
def findRow (pg off : Nat) : List RegRow → Option (RegDef × Nat)
  | [] => none
  | r :: rs =>
    let o := off - r.off
    let k := o / r.s
    let j := o % r.s / r.s2
    let i := ((pg - r.firstPg) * r.n + k) * r.n2 + j
    if r.off ≤ off ∧ r.firstPg ≤ pg ∧ pg < r.firstPg + r.pgs ∧ k < r.n ∧ j < r.n2 ∧ o % r.s % r.s2 = 0 ∧ i < r.max then
      some (r.rd, i)
    else findRow pg off rs

/-- The bits of a page's INT_STATUS, which INT_ENABLE and INT_FORCE share (R61, R68). -/
def causesOf (p : PageRow) (pg : Nat) : Word :=
  match findRow pg 4 p.rows with
  | some (d, _) => d.rc
  | none => 0

/-- The registers of the common page header (R61 to R65, R69, R578). -/
def headerDef (p : PageRow) (pg off : Nat) : Option (RegDef × Nat) :=
  match off with
  | 0 => some ({ reset := fun i => BitVec.ofNat 32 (p.code + 256 * (p.first + i - p.blockFirst)) }, pg)
  | 1 => some ({ reset := fun _ => 1 }, pg)
  | 2 => some ({ rw := 0x80000000#32, reset := fun _ => 0x80000000#32 }, pg)
  | 3 => some ({ rc := 3 }, pg)
  | 4 => some ({ }, pg)
  | 5 => some ({ rw := causesOf p pg }, pg)
  | 6 => some ({ w1p := causesOf p pg, act := .intForce }, pg)
  | 7 => some ({ wo := 1, norm := .lockBit }, pg)
  | _ => none

/-- The register at a word address of direct page space, with its index; none where the address is reserved or its
page is not populated (R57). -/
def regDef? (a : Nat) : Option (RegDef × Nat) :=
  match pageRow (a / 1024) with
  | none => none
  | some p =>
    match findRow (a / 1024 - p.first) (a % 1024) p.rows with
    | some r => some r
    | none => headerDef p (a / 1024 - p.first) (a % 1024)

/-- What a register reads as until something changes it: its reset value (R11). -/
def regReset (a : Nat) : Word :=
  match regDef? a with
  | some (d, i) => d.reset i
  | none => 0

/-- The range of the index of an event (R464), and of an occupancy (R467). -/
def evtIndexOk (e i : Nat) : Bool :=
  if e = 1 ∨ e = 2 ∨ e = 3 ∨ e = 4 then decide (i < 6144)
  else if e = 5 ∨ e = 6 then decide (i < 416)
  else if e = 7 then decide (i < 24)
  else if e = 8 then decide (i < 4096)
  else true
def thrIndexOk (c i : Nat) : Bool :=
  if c = 1 then decide (i < 6144) else if c = 2 then decide (i < 4) else if c = 4 ∨ c = 5 then decide (i < 3072) else true

/-- A pattern register with generator codes up to `g` and checker codes up to `c`; other codes become 0 (R145). -/
def prbsCodes (g c : Nat) (v : Word) : Word :=
  let v1 := if g < v.toNat % 16 then v &&& ~~~0xF else v
  if c < v.toNat / 256 % 16 then v1 &&& ~~~0xF00 else v1

/-- The value that a write of `v` to a register that held `old` stores, under the register's own rule. -/
def normWord (n : Norm) (old v : Word) : Word :=
  match n with
  | .none => v
  -- R69: a write of 0 to LOCKED is ignored
  | .lockBit => if v.toNat % 2 = 0 then old else v
  -- R160: a write of 0 or 3 to FORMAT never counts as a write
  | .format => if v.toNat % 4 = 1 ∨ v.toNat % 4 = 2 then v else (old &&& 3) ||| (v &&& ~~~3)
  -- R30: the warning level is held within 5,000 mV and 59,000 mV
  | .warnLevel =>
    let x := v.toNat % 65536
    BitVec.ofNat 32 (if x < 5000 then 5000 else if 59000 < x then 59000 else x)
  -- R85: a STRIDE of 3 is stored as 0
  | .indCtrl => if v.toNat % 4 = 3 then v &&& ~~~3 else v
  -- R145: pattern codes that a lane kind does not have are stored as 0; so is a generator-only code of a checker
  | .prbsDln => prbsCodes 7 7 v
  | .prbsAln => prbsCodes 6 4 v
  -- R156: MODE 3 is stored as 2
  | .alnCtrl => if v.toNat / 16 % 4 = 3 then v &&& ~~~0x10 else v
  -- R215: COUNT 0 is stored as 1, 9 to 15 as 8
  | .xchkCtrl =>
    let c := v.toNat / 65536 % 16
    (v &&& ~~~0xF0000) ||| BitVec.ofNat 32 ((if c = 0 then 1 else if 8 < c then 8 else c) * 65536)
  -- R236: SPAN 0 is stored as 0x08_0000, above 0x10_0000 as 0x10_0000
  | .cdSpan =>
    let x := v.toNat % 2 ^ 21
    BitVec.ofNat 32 (if x = 0 then 0x80000 else if 0x100000 < x then 0x100000 else x)
  -- R239: TYPE 5 to 7 is stored as 0; a LANE out of range as 0 with TYPE 0
  | .srcCfg =>
    let t := v.toNat % 8
    let l := v.toNat / 65536 % 1024
    if (t = 3 ∨ t = 4) ∧ 31 < l then 0
    else if 767 < l then 0
    else if 4 < t then v &&& ~~~7
    else v
  -- R483: RATE_LOG2 above 24 is stored as 24; a PORT_SEL that names no source port as 511
  | .tagCtrl =>
    let r := v.toNat / 2 % 32
    let p := v.toNat / 65536 % 512
    (v &&& ~~~0x1FF003E) ||| BitVec.ofNat 32 ((if 24 < r then 24 else r) * 2 + (if 415 < p then 511 else p) * 65536)
  -- R464: an event or an index out of range is stored as 0, both
  | .evtCfg =>
    let e := v.toNat % 32
    let i := v.toNat / 65536 % 8192
    if 10 < e then v &&& ~~~0x1F
    else if evtIndexOk e i then v else v &&& ~~~0x1FFF001F
  -- R467: a source or an index out of range is stored as 0, both
  | .thrCfg =>
    let c := v.toNat % 8
    let i := v.toNat / 65536 % 8192
    if 5 < c then v &&& ~~~7
    else if thrIndexOk c i then v else v &&& ~~~0x1FFF0007
  -- fields that hold a range of values, by the field tables
  | .fit rs => rs.foldl (fun v r =>
      let x := v.toNat / 2 ^ r.lo % 2 ^ r.w
      let y := if x < r.min then r.below else if r.max < x then r.above else x
      (v &&& ~~~(BitVec.ofNat 32 ((2 ^ r.w - 1) * 2 ^ r.lo))) ||| BitVec.ofNat 32 (y * 2 ^ r.lo)) v

end Sys2Proof.Machine
end

