-- ==== Sys2Proof/Machine/SMap.lean ====
section
/-!
DEFINITION. Sys2Proof/Machine/SMap.lean: the one form in which sparse storage is held, for registers, indirect
words, memories and per-instance records: a list of (key, value) pairs with the keys strictly rising and no entry
equal to what an unlisted key reads as. What an unlisted key reads as is the function `d`.
-/
namespace Sys2Proof.Machine

/-- Sparse storage by key. -/
abbrev SMap (α : Type) := List (Nat × α)

/-- The value at a key; an unlisted key reads as `d` gives it. -/
def smapGet {α : Type} (d : Nat → α) : SMap α → Nat → α
  | [], k => d k
  | (j, v) :: m, k => if k = j then v else smapGet d m k

/-- Insert or replace the value at a key, keeping the keys rising. -/
def smapIns {α : Type} : SMap α → Nat → α → SMap α
  | [], k, v => [(k, v)]
  | (j, w) :: m, k, v =>
    if k < j then (k, v) :: (j, w) :: m
    else if k = j then (k, v) :: m
    else (j, w) :: smapIns m k v

/-- Remove the entry of a key. -/
def smapErase {α : Type} : SMap α → Nat → SMap α
  | [], _ => []
  | (j, w) :: m, k => if k = j then smapErase m k else (j, w) :: smapErase m k

/-- Write the value at a key; writing what an unlisted key reads as removes the entry. -/
def smapSet {α : Type} [DecidableEq α] (d : Nat → α) (m : SMap α) (k : Nat) (v : α) : SMap α :=
  if v = d k then smapErase m k else smapIns m k v

/-- The canonical form: keys strictly rising, no entry equal to what its key reads as unlisted. -/
abbrev SMapWf {α : Type} (d : Nat → α) (m : SMap α) : Prop :=
  m.Pairwise (fun p q => p.1 < q.1) ∧ ∀ p ∈ m, p.2 ≠ d p.1

end Sys2Proof.Machine
end

