-- ==== Sys2Proof/Machine/State.lean ====
section
/-!
DEFINITION. Sys2Proof/Machine/State.lean: the state of the part as plain data. The fields of the numbered registers live
in `regs` (direct page space) and `ind` (indirect domains 0x01 to 0x08), each read and written under the names of
Machine/Regs.lean; the records below hold what the chapters give the part beside them. INVENTORY.md lists every piece with
the rule that names it.
-/
namespace Sys2Proof.Machine

/-- No command of this block stops the machine: every command answers a next state, so no fault has a name. -/
inductive Fault where
deriving DecidableEq, Repr

/-- Why a command has no meaning. -/
inductive Refusal where
  /-- A command whose meaning is not written yet, by its mnemonic; raised by its arm of `exec` alone. Safe. -/
  | notModelled (mnemonic : String)
deriving DecidableEq, Repr

/-- The count of TCLK cycles that the machine has passed (log 1), and the count at which the main domain last left
reset, where `MET_TCNT` (R236) and `TLM_PCLK` (R464) start. -/
structure ClkSt where
  tclk : Nat := 0
  mainAt : Nat := 0
deriving DecidableEq, Repr

/-- What the last reset of the main domain was (R36, R44, R584). -/
inductive ResetCause where
  | cold
  | supply
  | trip
deriving DecidableEq, Repr

/-- A dip in progress (R35, R52): whether VIN reached the reset level, the TCLK count at the detection of the
warning, TB_START, and the lowest VIN so far in mV. -/
structure DipSt where
  reset : Bool
  start : Nat
  tb : Word
  min : Nat
deriving DecidableEq, Repr

/-- Package, power stage and supply events beyond the PWR registers (R24 to R44, R524, R584). `warnN` is the level of PWR_WARN_N
(R32 to R35); THERMTRIP_N is low while `tripped`; `low` holds from a fall of VIN below the reset level until it exceeds the start level
(R24). `xoIn` holds while XO_IN is valid (R247, R524). -/
structure PwrSt where
  stageOn : Bool := false
  railsGood : Bool := false
  resetN : Bool := true
  released : Bool := false
  ovenUp : Bool := false
  oclkUp : Bool := false
  mainUp : Bool := false
  vin : Nat := 0
  low : Bool := false
  warnN : Bool := true
  tripped : Bool := false
  dip : Option DipSt := none
  lastCause : ResetCause := .cold
  latched : Word := 0
  tempArmed : Bool := true
  xoIn : Bool := true
deriving DecidableEq, Repr

/-- What an indirect window has launched (R79, R82): the domain and word address, the word once it is ready; for a sample of domain 0x00,
the posts of the mailbox queue it was taken from with the words left of it, and the register it was taken from. -/
structure Launch where
  domain : Nat
  waddr : Nat
  word : Option Word := none
  mark : Nat × Nat := (0, 0)
  sampled : Option Nat := none
deriving DecidableEq, Repr

/-- An access of a window's registers in arrival order (R78): a write of its agent in the FIFO; a read, which keeps its place and takes no
FIFO entry, of the register at offset 4 × `r`, with the bits that an event sets in the very cycle of its return (R82). -/
inductive WinEntry where
  | write (ag : Agent) (r : WinReg) (d : Word)
  | read (ag : Agent) (r : Fin 4) (same : Word)
deriving DecidableEq, Repr

/-- One indirect window beyond its four registers (R78 to R82, R581): the accesses that wait in arrival order, the launched or fetched
read, the write that its target has yet to take, and the Hearth core whose write was applied last. -/
structure WinSt where
  fifo : List WinEntry := []
  launch : Option Launch := none
  taking : Bool := false
  core : Fin 4 := 0
deriving DecidableEq, Repr

/-- The MSI-X state of a function (R54, R95): vector masks, pending bits, MSI-X Enable, Function Mask, Bus Master Enable,
the vectors that stand asserted, the table words, and the last message sent (vector, address and data words) with the count of
messages. -/
structure MsixSt where
  masked : BitVec 64 := BitVec.allOnes 64
  pba : BitVec 64 := 0
  enable : Bool := false
  fnMask : Bool := false
  busMaster : Bool := false
  asserted : BitVec 64 := 0
  table : SMap Word := []
  lastMsg : Option (Nat × List Word) := none
  sent : Nat := 0
deriving DecidableEq, Repr

/-- One mailbox queue (R98 to R108): the words, POSTED, the claiming sender, MSG_SEQ; the posts and the last removals whose ARRIVED and
EMPTIED are still to set (R104). -/
structure MboxSt where
  words : List Word := []
  posted : Bool := false
  owner : Option Nat := none
  seq : BitVec 8 := 0
  arriving : Nat := 0
  emptying : Nat := 0
deriving DecidableEq, Repr

/-- Register pages, host interface and mailboxes beyond the registers. `snap` and `stage` are by counter agent: PF0, PF1,
cores 0 to 3, windows 0 to 3 (R86, R89); `woDone` marks the write-once registers that have taken their write (R70);
`posts` counts the POSTs applied to each queue, so that a sampled mailbox head is told from any later one (R82); `completions` are the
read completions that left the part at the last access or window command, in order (R59); `intN` and `hearthLines` are INT_N and the Hearth interrupt
lines (R94); `linkTraining` holds from the start of PCIe link training to the next PCIE_PERST_N (R579). -/
structure HstSt where
  win : SMap WinSt := []
  snap : SMap (Option (Nat × List Word)) := []
  stage : SMap Word := []
  woDone : SMap Bool := []
  msix : SMap MsixSt := []
  mbox : SMap MboxSt := []
  intN : Bool := true
  hearthLines : Word := 0
  posts : SMap Nat := []
  completions : List (Agent × Word) := []
  linkTraining : Bool := false
deriving DecidableEq, Repr

/-- One lane beyond its registers (R114 to R150). `on` is an EN rise that the lane took, with the sampled `rate` and
`mode`; `phase` is the adaptation state 0 idle, 1 coarse, 2 tracking, under `frozen`; `lost` marks a loss that no relock has followed (R127), and
`restarted` a coarse start since it; `atBound` says at which bound each adapted value is held (0 none, 1 MIN, 2 MAX); `preset0` and `preset1` are the
preset in force (R121); `injected` counts injected errors, `injFrom` is the word at which the period was written and `injAt` the words
that INJ_ONE hits (R148); `genFrom` is the word at which the generator pattern started (R146); `fill` is the far-end FIFO and `rxWords` are the
last 32 words received, newest first (R149, R150); `txPlus` is the encoder's running disparity before word `plusAt`, and `misplaced` marks
the first misplaced K28.5 since SYNC set (R139, R140); `wait` is an EN rise that waits for its transmit PLL (R586). `badGroups` is how many
invalid code groups stand against the synchronisation, and `goodGroups` how many valid ones in a row since; `acq` is how far the synchronisation
process has come while SYNC is 0 (R138). `chkRef` are the bits of the checker's own generator, the latest in bit 0, `chkGood` the error-free
words in a row before its lock and `chkBad` the errored ones since (R147). `line` are the Plahus frames of a lane in MODE 1 with the word at which
each starts, in order (R487, R489). -/
structure LaneSt where
  on : Bool := false
  rate : Nat := 0
  mode : Nat := 0
  phase : Nat := 0
  frozen : Bool := false
  lost : Bool := false
  restarted : Bool := false
  atBound : List Nat := [0, 0, 0, 0, 0, 0]
  preset0 : Word := 0
  preset1 : Word := 0
  injected : Nat := 0
  injFrom : Nat := 0
  injAt : List Nat := []
  genFrom : Nat := 0
  fill : Nat := 16
  rxWords : List (BitVec 128) := []
  txPlus : Bool := false
  plusAt : Nat := 0
  misplaced : Bool := false
  wait : Bool := false
  badGroups : Nat := 0
  goodGroups : Nat := 0
  acq : Nat := 0
  chkRef : BitVec 128 := 0
  chkGood : Nat := 0
  chkBad : Nat := 0
  line : List (Nat × List Byte) := []
deriving DecidableEq, Repr

/-- What a pending time-base command does to the value (R165): an amount added, or a value that replaces it, both in
2^−48 ns. -/
inductive TbOp where
  | step (amount : Int)
  | load (value : Nat)
deriving DecidableEq, Repr

/-- The pending command with its operands (R165 to R167): a new increment, a STEP or LOAD, whether it waits for an ARM
time and which, the TCLK count at acceptance, whether ARM lay too near, and whether it is the local part of a two-phase
step (R515), or a DISPUTE_STEP (R268). -/
structure TbPend where
  inc : Option Nat
  op : Option TbOp
  arm : Option Nat
  acc : Nat
  late : Bool
  xstep : Bool
  dispute : Bool
deriving DecidableEq, Repr

/-- A transmit record with its tag and port (R195). -/
structure TxtsRec where
  words : List Word
  tag : Nat
  port : Nat
deriving DecidableEq, Repr

/-- A pulse output beyond its registers (R186 to R189): the values in force, OFFSET in 2^−48 ns, the polarity taken, whether
a pulse is in progress and whether the output's gate was open as it began (R502), the TCLK count before which it has no edge, and the end
of the pulse in progress as a time-base value. -/
structure OutSt where
  on : Bool := false
  period : Nat := 1000000000
  phase : Nat := 0
  width : Nat := 100
  offset : Int := 0
  pol : Bool := false
  active : Bool := false
  driven : Bool := false
  earliest : Nat := 0
  pulseEnd : Int := 0
  again : Bool := false
  edge : Nat := 0
deriving DecidableEq, Repr

/-- A timeline that an apply edge ended (R178): the TCLK count of that edge, the value that it found there, the increment that led
there, the EPOCH, and the sum of the steps before it. -/
structure TbPast where
  edge : Nat
  value : Nat
  inc : Nat
  epoch : Nat
  moved : Int
deriving DecidableEq, Repr

/-- The time base and timestamps beyond the registers. `value` counts 2^−48 ns (R158, R159); `starting` is the first edge
after FORMAT is written (R160); `snaps` are the TCLK counts at which waiting SNAPs were accepted (R170); `moved` is the sum of
all STEPs and LOADs applied, which RESIDENCE removes (R180); `past` holds the timelines before, the latest first, for events whose
reference edge lies before an apply edge (R178); `txWait` are records whose frame's last word has yet to leave. -/
structure TbSt where
  value : Nat := 0
  starting : Bool := false
  pend : Option TbPend := none
  snaps : List Nat := []
  moved : Int := 0
  past : List TbPast := []
  fifo : List TxtsRec := []
  txWait : List (Nat × TxtsRec) := []
  outs : SMap OutSt := []
deriving DecidableEq, Repr

/-- A source slot beyond its registers (R211, R218, R315): the last 64 valid phases in fine units, unwrapped; the sums of the
check window by cell (cell, count, sum); whether its mean is held stale, and the results gathered since its release. -/
structure MetSlot where
  vals : List Int := []
  win : List (Nat × Nat × Int) := []
  stale : Bool := false
  fresh : Nat := 0
deriving DecidableEq, Repr

/-- A cell beyond its registers (R206, R212, R214, R222, R223): the number of its present cycle, which of its two table banks is active, an exchange waiting for the
slot boundary, the hits of the run, the pilot sums of the window, and the windows in a row that failed the pilot. -/
structure MetCell where
  cycle : Nat := 0
  swapped : Bool := false
  exch : Bool := false
  hits : Nat := 0
  pilotN : Nat := 0
  pilotSum : Int := 0
  pilotFails : Nat := 0
deriving DecidableEq, Repr

/-- One result of the external channel (R231): start and stop records, INTERVAL, flags. -/
structure ExtRes where
  start : List Word
  stop : List Word
  interval : Nat
  flags : Nat
deriving DecidableEq, Repr

/-- An edge that the external channel took: the TCLK count of edge E, P and COARSE, its record, and whether the cell used the nominal table. -/
structure ExtEdge where
  edge : Nat
  p : Nat
  coarse : Nat
  words : List Word
  uncal : Bool
deriving DecidableEq, Repr

/-- Where the external channel stands (R228). -/
inductive ExtPhase where
  | idle
  | gate
  | armed
  | started
deriving DecidableEq, Repr

/-- The external channel (R226 to R231): whether it owns pair 15, its phase, the edges taken, the guard latch, results. -/
structure ExtSt where
  own : Bool := false
  phase : ExtPhase := .idle
  start : Option ExtEdge := none
  stop : Option ExtEdge := none
  early : Bool := false
  fifo : List ExtRes := []
deriving DecidableEq, Repr

/-- The metrology bank beyond the registers: slots, cells, the schedule in use, the slot whose round was its first, and the copy that
waits (length and entries, R206 to R208), failing windows in a row by pair, the pairs that carry SUSPECT, whether TCLK changed over in this check window. -/
structure MetSt where
  slots : SMap MetSlot := []
  cells : SMap MetCell := []
  sched : Nat × List Word := (16, [])
  origin : Nat := 0
  waiting : Option (Nat × List Word) := none
  pairFails : List Nat := [0, 0, 0, 0, 0, 0, 0, 0, 0, 0, 0, 0, 0, 0, 0, 0]
  suspect : BitVec 16 := 0
  switched : Bool := false
  ext : ExtSt := {}
deriving DecidableEq, Repr

/-- A reference beyond its registers (R256 to R258, R275, R279, R317): the latest phase samples, newest first, as measured plus
`LOOP_REF_DELAY`, in 2^−20 ns; the phase errors of the samples of the last 100 ms, each as it was at its sample; how many samples the
frequency window in progress has, and whether it lost one to STALE; the reference time that a sky fix or a Plahus link has delivered (R300, R495), less the time
base, in the same unit; good REFIN windows in a row. -/
structure RefSt where
  raws : List Int := []
  errs : List Int := []
  taken : Nat := 0
  skipped : Bool := false
  given : Option Int := none
  windows : Nat := 0
deriving DecidableEq, Repr

/-- A clock output beyond its registers (R271 to R274): driven, waiting for its alignment instant, running, the DIV and PHASE in force, and
the TCLK count at which the waiting command was accepted. `rise` is the VCO cycle of the first rising edge, 16 cycles to TCLK, `fell` the
one of the falling edge that ends the run before, and maybe has yet to come. `gate` is the output's gate (R502); it drives from VCO cycle
`gateOn`, and where it is shut until `gateOff`. -/
structure ClkoutSt where
  on : Bool := false
  waiting : Bool := false
  running : Bool := false
  div : Nat := 1250
  phase : Nat := 0
  accept : Nat := 0
  rise : Nat := 0
  fell : Nat := 0
  gate : Bool := true
  gateOn : Nat := 0
  gateOff : Nat := 0
deriving DecidableEq, Repr

/-- The loop beyond its registers (R244 to R275). `integ`, `y0`, `drift` and `hist` (newest first) count 2^−96; `r` counts
2^−20 × 10^−7 ns; `bt` 2^−48 ns, `bc` 2^−20 ns; `ySum` over `ySamples` is the second in progress, `y2` the last y of state 2;
`hoT` the seconds in holdover; `lastTime` and `lastFreq` the last selected reference of each kind (R266); `sel` is SEL of R260; `hadSel` whether one was
selected before state 6 or 7; `seeded` whether the estimate is that of an image (R508); `fails` and `lols` count for R244; `guard` is GUARD_US at the last lock; `lockA` is the pulse density at
the pin. -/
structure LoopSt where
  integ : Int := 0
  r : Int := 0
  bt : Int := 0
  bc : Int := 0
  hist : List Int := []
  ySum : Int := 0
  ySamples : Nat := 0
  y2 : Int := 0
  y0 : Int := 0
  drift : Int := 0
  hoT : Nat := 0
  lastTime : Option Nat := none
  lastFreq : Option Nat := none
  sel : Option Nat := none
  hadSel : Bool := false
  seeded : Bool := false
  fails : Nat := 0
  lols : List Nat := []
  guard : Nat := 0
  aligning : Bool := false
  refs : SMap RefSt := []
  outs : SMap ClkoutSt := []
  lockA : Nat := 0
deriving DecidableEq, Repr

/-- A sky channel beyond its indirect words (R287 to R294): what it took at the rise of EN; code phase in 2^−32 chips and
carrier phase in 2^−32 cycles after sample `count`; the increments and spacing in force, whether writes wait for the
boundary and whether this accumulation took new ones; dumps so far. `prompts` are the prompt I sums since the search for bit sync
began, newest first; `bitPos` the dump position at which bits begin; `acc` over `accN` dumps the bit or symbol in progress; `bits`
and `syms` what is formed and not yet used, newest first, each with the count of its last sample; `skip` the sync symbols before the
next page part, `even` the even part that waits; for LNAV the word number and failing words in a row. -/
structure ChanSt where
  on : Bool := false
  signal : Nat := 0
  prn : Nat := 0
  code : Nat := 0
  carr : Nat := 0
  count : Nat := 0
  codeInc : Nat := 0
  carrInc : Int := 0
  eSp : Nat := 8
  veSp : Nat := 16
  dirty : Bool := false
  ncoNew : Bool := false
  dumps : Nat := 0
  prompts : List Int := []
  bitPos : Nat := 0
  acc : Int := 0
  accN : Nat := 0
  bits : List (Bool × Nat) := []
  syms : List (Int × Nat) := []
  skip : Nat := 0
  even : Option Nat := none
  word : Nat := 0
  fails : Nat := 0
deriving DecidableEq, Repr

/-- A capture in progress (R292): the least count that its first sample can have, samples wanted, band. -/
structure SnapSt where
  least : Nat
  len : Nat
  band : Bool
deriving DecidableEq, Repr

/-- The last passing fix (R298): O and T in 2^−48 ns, R in 2^−16 ppb. -/
structure FixSt where
  o : Int
  t : Int
  r : Int
deriving DecidableEq, Repr

/-- The sky receiver beyond its registers: channels, capture, last passing fix, good clock measurements in a row, whether
SKY_CLK is stopped (R284), and the values of SKY_CTRL before the present one, the latest first, each with the sample count up to which
it stood (R281, R283). -/
structure SkySt where
  chans : SMap ChanSt := []
  snap : Option SnapSt := none
  fix : Option FixSt := none
  good : Nat := 0
  stopped : Bool := false
  gates : List (Nat × Word) := []
deriving DecidableEq, Repr

/-- A proofing run (R307 to R321): the mode (0 none, 2 gap-squeeze, 3 stale-hold) and whether it is a signal-statistics run;
HOLD_PAIRS and RETRY as taken at the start; whether the cells that need no hold are still being filled; the pairs still to
be held, and those held; the cells whose runs it has in progress, whose proof bits it set, and which it took out; retries used by cell;
the TCLK count at its start; a pending run; the causes of the run, of the pending run and of the last run; and whether a dip
abandoned a run (R32, R34). -/
structure PrfSt where
  mode : Nat := 0
  trace : Bool := false
  hold : Nat := 0
  retry : Nat := 0
  first : Bool := false
  todo : List Nat := []
  held : List Nat := []
  run : BitVec 32 := 0
  proofs : BitVec 32 := 0
  failed : BitVec 32 := 0
  tries : List Nat := List.replicate 32 0
  start : Nat := 0
  pend : Bool := false
  causeRun : Nat := 0
  causePend : Nat := 0
  causeLast : Nat := 0
  restart : Bool := false
deriving DecidableEq, Repr

/-- A logical port beyond its registers (R326 to R351): `PORT_CFG` as sampled at the last rise of EN, the fixed receive and transmit
parts of each of its lanes as it came up (R174, R197), the PFC frames that its
MAC holds (priority and quanta, in order), the pause times last received in quanta, the profile at the last selection point, the
DWRR queues that have their quantum, and whether the last ingress stomp decision quarantines it. -/
structure PortSt where
  cfg : Word := 0
  fixes : List (Word × Word) := []
  pfcHold : List (Nat × Nat) := []
  deficit : Nat := 0
  gap : Nat := 0
  times : List Nat := [0, 0, 0, 0, 0, 0, 0, 0]
  lastB : Bool := true
  opened : BitVec 16 := 0
deriving DecidableEq, Repr

/-- The receive timestamp of a frame (R175, R180): its value in 2^−20 ns, its flags, and the sum of the time base's steps so far. -/
structure RxStamp where
  v20 : Nat
  flags : Nat
  moved : Int
deriving DecidableEq, Repr

/-- What an insertion writes (R179): a new originTimestamp where there is one, and what is added to correctionField, in
2^−16 ns. -/
structure InsertVal where
  origin : Option (Nat × Nat)
  cf : Int
deriving DecidableEq, Repr

/-- Where a frame stands: received and waiting for a slot; looked up and waiting for admission; in its egress queue; selected; its
first word handed over; kept for its trap write only; gone, with its end still to be received. -/
inductive FrPhase where
  | arrived
  | looked
  | queued
  | selected
  | handed
  | trapOnly
  | gone
deriving DecidableEq, Repr

/-- Why a frame was found bad (R418): a receive check, a cut at PORT_MAX_FRAME, an overflow, its ingress port going down, an empty
free list, the egress check. -/
inductive BadCause where
  | fcs
  | oversize
  | overflow
  | down
  | nofree
  | egress
deriving DecidableEq, Repr

/-- What a routed frame is rewritten with (R379): the addresses, first byte in the highest bits, and the VID that replaces the outer one. -/
structure Rewrite where
  dmac : Nat
  smac : Nat
  vid : Option Nat
deriving DecidableEq, Repr

/-- A frame in the part (R397, R398): source port, bytes received so far, whether its end is received, why it is bad, its tag record;
the result of its pipeline; its admission; its slices; what was charged with its known length; its transmission. `inj` is 1 for
a frame from the Hearth ring, 2 for one from the host; `trap` the reason of a trap write that it still waits for; `aborted` that its
egress went down while it was sent (R422); `beyond` the slices that it can no longer reach (R547). -/
structure Frame where
  src : Nat
  bytes : List Byte
  ended : Bool
  bad : Option BadCause := none
  phase : FrPhase := .arrived
  tag : Option Nat := none
  rx : Option RxStamp := none
  inj : Nat := 0
  bypass : Bool := false
  pipe : Nat := 0
  egress : Nat := 511
  queue : Nat := 0
  ins : Nat := 0
  record : Bool := false
  txTag : Nat := 0
  p2p : Bool := false
  tref : List Word := []
  next : Option Rewrite := none
  policer : Option Nat := none
  drop : Bool := false
  trap : Option Nat := none
  hash : Nat := 0
  known : Nat := 0
  kind : Nat := 0
  pool : Nat := 0
  pg : Option Nat := none
  ct : Bool := false
  admAt : Nat := 0
  slices : List Nat := []
  beyond : List Nat := []
  dscp : Option Nat := none
  polChg : Option (Nat × Int × Bool) := none
  schChg : List Nat := []
  defChg : Option Nat := none
  schOver : Int := 0
  cut : Bool := false
  aborted : Bool := false
  insVal : Option InsertVal := none
  txRec : Option TxtsRec := none
deriving DecidableEq, Repr

/-- The free-list stack of a bank (R401): what has been pushed, the latest first, above what has never been taken, the bank's slices from
number `taken` of it on. -/
structure BankSt where
  pushed : List Nat := []
  taken : Nat := 0
deriving DecidableEq, Repr

/-- A shaper beyond its words (R445 to R448): LEVEL and the BURST in force in 2^−24 bytes, and a forgiveness that waits for the next
refresh. -/
structure ShaperSt where
  level : Int := 0
  burst : Int := 0
  forgive : Bool := false
deriving DecidableEq, Repr

/-- What a queue's samples hold (R456): the last and greatest sojourn, whether one saturated, and the frames selected. -/
structure SampleSt where
  last : Nat := 0
  max : Nat := 0
  sat : Bool := false
  deq : Nat := 0
deriving DecidableEq, Repr

/-- A policer beyond its registers (R450 to R453): the values in force and those that wait for the next refresh, as CFG, CIR, PIR,
CBS, PBS; the buckets in 2^−24 bytes. -/
structure PolSt where
  now : List Word := [0x10, 0, 0, 0x4000, 0x4000]
  next : Option (List Word) := none
  tc : Int := 0
  tp : Int := 0
deriving DecidableEq, Repr

/-- A stream beyond its registers (R511): the history, and the checks since a frame of it last passed. -/
structure SidSt where
  hist : Nat := 0
  idle : Nat := 0
deriving DecidableEq, Repr

/-- Ports, pipelines, buffer, scheduler and policers beyond the registers. `frames` is keyed by the frame's number; `queues` holds
the frames of queue g, and of timing port m at 6144 + m, in order of admission (R435); `sent` the bytes of the last frame that
left each egress; `looped` the frames that a port in near-end loopback has sent and not yet received (R149). Forwarding: the entries each window gathers (entry, words) and the staged entries by first word address (R385,
R386), whether one was dropped, the pipelines and entries whose copy an uncorrectable error spoils (`eccBad`, R547), the commit in progress (0 none, 1 check, 2 scheduled, 3 live), the host's frame so far, the PCLK of
each pipeline's last injected frame (R359). Buffer: `qpool` counts slices by queue and pool as 4g + p (R404, R410), `pgShared` and
`pgHead` by port and group as 8p + k (R412); `lost` holds the slices neither free nor owned with their standing (0 seen in this pass,
1 not seen, 2 suspect, 3 reported), `auditOn` whether the auditor runs. Scheduling: shapers by index, samples by queue, policers, streams; the walk
in progress as the next queue to look at, walks since EN rose. -/
structure NetSt where
  ports : SMap PortSt := []
  frames : SMap (Option Frame) := []
  queues : SMap (List Nat) := []
  sent : SMap (List Byte) := []
  looped : SMap (List (List Byte)) := []
  gather : SMap (Option (Nat × List (Nat × Word))) := []
  staged : List (Nat × List Word) := []
  stageLost : Option Nat := none
  commit : Nat := 0
  hostData : List Byte := []
  injAt : SMap (Option Nat) := []
  qpool : SMap Nat := []
  pgShared : SMap Nat := []
  pgHead : SMap Nat := []
  banks : SMap BankSt := []
  lost : SMap (Option Nat) := []
  auditOn : Bool := true
  shapers : SMap ShaperSt := []
  samples : SMap SampleSt := []
  pols : SMap PolSt := []
  sids : SMap SidSt := []
  eccBad : List (Nat × Nat) := []
  walk : Option Nat := none
  walks : Nat := 0
deriving DecidableEq, Repr

/-- Telemetry beyond the registers (R464 to R481): counters that wait for their reload; open tag records and closed ones that
wait to be copied; tags and dumps since their EN rose; the slots that frames have taken and that are still to leave the
rewrite stage, by pipeline (true: forwarded); the PCLK cycle of the last candidate drawn for a tag (R473); the block of a dump that waits for Bus Master Enable, and the records that do. -/
structure TlmSt where
  reload : BitVec 64 := 0
  opened : List Nat := []
  closed : List Nat := []
  seq : Nat := 0
  dumps : Nat := 0
  slots : SMap (List Bool) := []
  tagAt : Option Nat := none
  held : List Word := []
  waiting : List Nat := []
deriving DecidableEq, Repr

/-- A Plahus link beyond its registers (R489 to R493): whether a HELLO and a SYNC sample are recent; SEQ and T_TX of the last two
SYNC frames sent, newest first; SEQ and receive stamp of the last one received; FORMAT of the last HELLO, the HELLO frames in a row that
showed the peer leading, and YIELDING, and its PREF; the bytes of the last frame sent, with its CRC. -/
structure LinkSt where
  hello : Bool := false
  sync : Bool := false
  seq : Nat := 0
  txs : List (Nat × List Word) := []
  rx : Option (Nat × List Word) := none
  fmt : Nat := 0
  leads : Nat := 0
  yields : Nat := 0
  pref : Option Bool := none
  sent : List Byte := []
deriving DecidableEq, Repr

/-- A two-phase step at this part (R515): initiated here or prepared from a link; its XID; the links that PREPARE went to, those whose
READY is awaited; whether COMMIT has passed; ARM as a value. -/
structure XstepSt where
  from' : Option Nat
  xid : Nat
  targets : List Nat
  waits : List Nat
  committed : Bool := false
  arm : Nat
deriving DecidableEq, Repr

/-- Twin pair and stack beyond the registers. `stepSum` counts 2^−48 ns exactly (R494). Interlock: the class of the last period (0 invalid or
none, 1 LEAD, 2 SHADOW, 3 YIELD), and `shown`, the pattern of LEAD_OUT_N in this period (R496; 0 none). `prefs` and `dual` hold while
PREF_CONFLICT and DUAL_LEAD have been shown; `masters` are the links on which a HELLO with MASTER stands against this part (R514). `cycles` counts twin cycles. Cross-check: sum of O + VIEW in 2^−48 ns, samples, whether the
conditions have held, failing windows in a row. -/
structure TwinSt where
  stepSum : Int := 0
  links : SMap LinkSt := []
  last : Nat := 0
  shown : Nat := 0
  prefs : Bool := false
  dual : Bool := false
  masters : List Nat := []
  cycles : Nat := 0
  xsum : Int := 0
  xn : Nat := 0
  xok : Bool := true
  xfails : Nat := 0
  xstep : Option XstepSt := none
deriving DecidableEq, Repr

/-- The fuses of secure boot: valid and revoked slots, the security version, the key hashes of slots 1 to 3. -/
structure Fuses where
  valid : BitVec 4 := 1
  revoked : BitVec 4 := 0
  secver : Nat := 0
  hash : SMap (BitVec 384) := []
deriving DecidableEq, Repr

/-- Enumeration, boot and fuses (R522 to R541). `strapBoot` and `enumHead` are the straps in effect, as sampled at the last cold
start (R523); `enumOut` the levels of ENUM_OUT from the start of its last frame on, with their durations in ns, low after them (R526). Fuses: valid and revoked slots, the security version, the key hashes
of slots 1 to 3; `seen` those that the last GO found, by which the verification judges (R536). `cores` are the cores that run an image,
`entry` the address at which they were last released (R531), `busErr` those that have taken a bus error since (R547), `kicks` the TCLK count at which each watchdog last restarted (R551); `mgmtAck`
and `mgmtOut` what the last management-bus transaction got: whether the part acknowledged REG, and the bytes read. -/
structure BootSt where
  strapBoot : Bool := false
  enumHead : Bool := false
  enumOut : List (Bool × Nat) := []
  valid : BitVec 4 := 1
  revoked : BitVec 4 := 0
  secver : Nat := 0
  hash : SMap (BitVec 384) := []
  seen : Fuses := {}
  cores : BitVec 4 := 0
  entry : Nat := 0
  busErr : BitVec 4 := 0
  kicks : List Nat := [0, 0, 0, 0]
  mgmtAck : Bool := false
  mgmtOut : List Byte := []
deriving DecidableEq, Repr

/-- The states of the TAP controller (R564). -/
inductive TapPhase where
  | reset
  | idle
  | selectDr
  | captureDr
  | shiftDr
  | exit1Dr
  | pauseDr
  | exit2Dr
  | updateDr
  | selectIr
  | captureIr
  | shiftIr
  | exit1Ir
  | pauseIr
  | exit2Ir
  | updateIr
deriving DecidableEq, Repr

/-- The TAP (R564 to R573): the controller, the current instruction, the boundary register as last updated; the instruction and data shift
registers, and the bits shifted out since the last capture, the latest first; the falling edges of TCK in this stay in Run-Test/Idle;
the test receivers, by cell; the result of the last TST_ACCESS read with its VALID, and the count of issued reads that have not completed;
the slot and hash that FUSE_PROG is blowing, REFUSED. -/
structure TapSt where
  phase : TapPhase := .reset
  ir : BitVec 8 := 2
  boundary : BitVec 1670 := 0
  irShift : BitVec 8 := 0
  drShift : BitVec 1670 := 0
  tdo : List Bool := []
  falls : Nat := 0
  receivers : BitVec 1670 := 0
  result : Word := 0
  valid : Bool := false
  reading : Nat := 0
  blowing : Option (Fin 4 × BitVec 384) := none
  refused : Bool := false
deriving DecidableEq, Repr

/-- The state of the part. `lanes` holds the data lanes at 0 to 767 and the auxiliary lanes at 768 to 799; `lanePll` the lock of
the six chiplet transmit PLLs and the auxiliary one (R586). Each record belongs to one chapter; `sram` is Hearth SRAM (R534), `hostMem` the host memory
that the part reads and writes as a bus master (R54, R478), `again` the bits that events have set in a register since a window sampled it (R82; at 4 × address + window), and `pending` the
commands that wait, first in, first out. -/
structure State where
  regs : SMap Word := []
  ind : SMap Word := []
  sram : SMap Byte := []
  hostMem : SMap Byte := []
  clk : ClkSt := {}
  pwr : PwrSt := {}
  hst : HstSt := {}
  lanes : SMap LaneSt := []
  tb : TbSt := {}
  met : MetSt := {}
  loop : LoopSt := {}
  sky : SkySt := {}
  prf : PrfSt := {}
  net : NetSt := {}
  tlm : TlmSt := {}
  twin : TwinSt := {}
  boot : BootSt := {}
  tap : TapSt := {}
  lanePll : BitVec 7 := 0
  free : Nat := 0
  again : SMap Word := []
  pending : List Instr := []
deriving DecidableEq, Repr

/-- The part before it is powered for the first time: no feed, nothing running, every register at the reset value of its
table, nothing listed in any memory, no command waiting. The power-on commands bring it to service (log 7). -/
def State.reset : State := { }

end Sys2Proof.Machine
end

