-- ==== Sys2Proof/Machine/Ops.lean ====
section
/-!
DEFINITION. Sys2Proof/Machine/Ops.lean: the named operations over registers, indirect words and memories that every
meaning uses: fields, causes, counters (R86 to R91), and the one write path of a direct register (R9, R58, R68 to R72).
-/
namespace Sys2Proof.Machine

/-! ### Bits of a word -/

/-- The `w` bits of `v` from bit `lo` up, as a number. -/
def bits (v : Word) (lo w : Nat) : Nat := (v.toNat >>> lo) % 2 ^ w

/-- `v` with its `w` bits from bit `lo` up replaced by those of `x`. -/
def putBits (v : Word) (lo w x : Nat) : Word :=
  (v &&& ~~~(BitVec.ofNat 32 ((2 ^ w - 1) <<< lo))) ||| BitVec.ofNat 32 ((x % 2 ^ w) <<< lo)

/-- Bit `i` of `v`. -/
def bit (v : Word) (i : Nat) : Bool := v.toNat.testBit i

/-- A number of `w` bits read as two's complement. -/
def signed (w x : Nat) : Int := if x < 2 ^ (w - 1) then (x : Int) else (x : Int) - (2 ^ w : Nat)

/-- The two's complement of an integer in `w` bits. -/
def toBits (w : Nat) (x : Int) : Nat := (x % (2 ^ w : Nat)).toNat

/-- `x` held within `lo` to `hi`. -/
def clampInt (lo hi x : Int) : Int := if x < lo then lo else if hi < x then hi else x

/-- The quotient of the nearest whole number, halves up. -/
def divRound (a b : Nat) : Nat := (2 * a + b) / (2 * b)

/-- The element of a list at an index, with a default. -/
def nth {α : Type} (d : α) : List α → Nat → α
  | [], _ => d
  | x :: _, 0 => x
  | _ :: xs, n + 1 => nth d xs n

/-- A list with the element at an index replaced (unchanged beyond its end). -/
def setNth {α : Type} : List α → Nat → α → List α
  | [], _, _ => []
  | _ :: xs, 0, v => v :: xs
  | x :: xs, n + 1, v => x :: setNth xs n v

/-- The numbers below `n`, rising. -/
def upto (n : Nat) : List Nat := List.range n

/-- Apply `f` for each index below `n`, rising. -/
def forUpto {σ : Type} (n : Nat) (f : Nat → σ → σ) (s : σ) : σ := (upto n).foldl (fun s i => f i s) s

/-! ### Registers -/

/-- The stored value of a direct register. -/
def State.reg (s : State) (a : Nat) : Word := smapGet regReset s.regs a

/-- Store a direct register. -/
def State.setReg (s : State) (a : Nat) (v : Word) : State :=
  { s with regs := smapSet regReset s.regs a v }

/-- The value of a field. -/
def State.fld (s : State) (f : Fld) : Nat := bits (s.reg f.addr) f.lo f.w

/-- Store a field, the rest of its register unchanged. -/
def State.setFld (s : State) (f : Fld) (x : Nat) : State :=
  s.setReg f.addr (putBits (s.reg f.addr) f.lo f.w x)

/-- A field read as a yes or no: not zero. -/
def State.flag (s : State) (f : Fld) : Bool := decide (s.fld f ≠ 0)

/-- Store a one-bit field. -/
def State.setFlag (s : State) (f : Fld) (b : Bool) : State := s.setFld f (if b then 1 else 0)

/-- The bits of a register that events have set since window `k` sampled it (R82). -/
def noBits (_ : Nat) : Word := 0
def State.againAt (s : State) (k a : Nat) : Word := smapGet noBits s.again (4 * a + k)

/-- Window `k` starts to watch a register: no event has set a bit of it since. -/
def State.watch (s : State) (k a : Nat) : State := { s with again := smapSet noBits s.again (4 * a + k) 0 }

/-- The record of a window. -/
def winReset (_ : Nat) : WinSt := {}
def State.win (s : State) (k : Nat) : WinSt := smapGet winReset s.hst.win k

/-- Whether window `k` holds a sample of a register. -/
def State.watches (s : State) (a k : Nat) : Bool := ((s.win k).launch.bind fun l => l.sampled) == some a

/-- An event sets a bit: each of the four windows that holds a sample of its register notes it. -/
def State.noteAgain (s : State) (f : Fld) : State :=
  { s with again := ((upto 4).filter fun k => s.watches f.addr k).foldl (fun m k =>
      smapSet noBits m (4 * f.addr + k) (putBits (smapGet noBits m (4 * f.addr + k)) f.lo f.w 1)) s.again }

/-- Set a cause or status bit (R66: a bit set stays until a read clears it). -/
def State.raise (s : State) (f : Fld) : State := (s.setFld f 1).noteAgain f

/-- Set a cause where a condition holds. -/
def State.raiseIf (s : State) (c : Bool) (f : Fld) : State := if c then s.raise f else s

/-- Change the record of the test access port. -/
def State.updTap (s : State) (f : TapSt → TapSt) : State := { s with tap := f s.tap }

/-- The 64-bit value of a register pair, low word first. -/
def State.reg64 (s : State) (lo hi : Nat) : Nat := (s.reg lo).toNat + 2 ^ 32 * (s.reg hi).toNat

/-- Store a 64-bit value in a register pair. -/
def State.setReg64 (s : State) (lo hi : Nat) (x : Nat) : State :=
  (s.setReg lo (BitVec.ofNat 32 x)).setReg hi (BitVec.ofNat 32 (x / 2 ^ 32))

/-- Bit `i` of a register. -/
def State.rbit (s : State) (a i : Nat) : Bool := bit (s.reg a) i

/-- Store bit `i` of a register. -/
def State.setRbit (s : State) (a i : Nat) (b : Bool) : State :=
  s.setReg a (putBits (s.reg a) i 1 (if b then 1 else 0))

/-! ### Indirect words, Hearth SRAM and host memory -/

/-- The key of a word of an indirect domain. -/
def indKey (domain waddr : Nat) : Nat := domain * 2 ^ 24 + waddr

/-- The stored value of an indirect word whose reset value is `r`. -/
def State.indOr (s : State) (r : Word) (domain waddr : Nat) : Word := smapGet (fun _ => r) s.ind (indKey domain waddr)

/-- What an unlisted byte of Hearth SRAM or of host memory reads as (log 3). -/
def memReset (_ : Nat) : Byte := 0

/-- The bytes of Hearth SRAM; an address beyond its end wraps (log 3). -/
def sramSize : Nat := 2 ^ 22

/-- A byte of Hearth SRAM. -/
def State.sramByte (s : State) (a : Nat) : Byte := smapGet memReset s.sram (a % sramSize)

/-- A byte of host memory. -/
def State.hostByte (s : State) (a : Nat) : Byte := smapGet memReset s.hostMem a

/-- Write a byte of Hearth SRAM. -/
def State.setSramByte (s : State) (a : Nat) (v : Byte) : State := { s with sram := smapSet memReset s.sram (a % sramSize) v }

/-- Write a byte of host memory. -/
def State.setHostByte (s : State) (a : Nat) (v : Byte) : State := { s with hostMem := smapSet memReset s.hostMem a v }

/-- Write bytes of Hearth SRAM from an address up. -/
def State.setSramBytes (s : State) (a : Nat) : List Byte → State
  | [] => s
  | b :: bs => (s.setSramByte a b).setSramBytes (a + 1) bs

/-- Write bytes of host memory from an address up. -/
def State.setHostBytes (s : State) (a : Nat) : List Byte → State
  | [] => s
  | b :: bs => (s.setHostByte a b).setHostBytes (a + 1) bs

/-- `n` bytes of Hearth SRAM from an address up. -/
def State.sramBytes (s : State) (a n : Nat) : List Byte := (upto n).map (fun i => s.sramByte (a + i))

/-- `n` bytes of host memory from an address up. -/
def State.hostBytes (s : State) (a n : Nat) : List Byte := (upto n).map (fun i => s.hostByte (a + i))

/-- The bytes of a number, low byte first (log 4). -/
def leBytes : Nat → Nat → List Byte
  | 0, _ => []
  | n + 1, x => BitVec.ofNat 8 x :: leBytes n (x / 256)

/-- The number that bytes spell, low byte first (log 4). -/
def leNat : List Byte → Nat
  | [] => 0
  | b :: bs => b.toNat + 256 * leNat bs

/-- The number that bytes spell, high byte first: the order of fields in frames. -/
def beNat (bs : List Byte) : Nat := bs.foldl (fun x b => 256 * x + b.toNat) 0

/-- The bytes of a number, high byte first. -/
def beBytes (n x : Nat) : List Byte := (leBytes n x).reverse

/-- The bytes of 32-bit words, each low byte first (log 4). -/
def wordBytes (ws : List Word) : List Byte := ws.flatMap (fun w => leBytes 4 w.toNat)

/-! ### Counters (R86 to R91) -/

/-- The cause bit that a counter's wrap sets: one of the INT_STATUS of its own page, or of another page. -/
def ovfFld (a : Nat) (d : RegDef) : Option Fld :=
  match d.ovf with
  | some (p, b) => some ⟨p, b, 1⟩
  | none => d.ovfBit.map (fun b => ⟨a / 1024 * 1024 + 4, b, 1⟩)

/-- Set a cause where there is one. -/
def State.raise? (s : State) : Option Fld → State
  | some f => s.raise f
  | none => s

/-- Advance a 32-bit counter by `n`; a wrap sets `ovf` (R88). -/
def State.bump32 (s : State) (a n : Nat) (ovf : Option Fld) : State :=
  let x := (s.reg a).toNat + n
  let t := s.setReg a (BitVec.ofNat 32 x)
  if x < 2 ^ 32 then t else t.raise? ovf

/-- Advance a 64-bit counter whose `_LO` word is at `a`; a wrap sets `ovf` (R88). -/
def State.bump64 (s : State) (a n : Nat) (ovf : Option Fld) : State :=
  let x := s.reg64 a (a + 1) + n
  let t := s.setReg64 a (a + 1) x
  if x < 2 ^ 64 then t else t.raise? ovf

/-! ### The write path of a direct register -/

/-- The common header registers of a page, by word address (R61). -/
def pageStatus (page : Nat) : Nat := page * 1024 + 3
def pageLock (page : Nat) : Nat := page * 1024 + 7
def lockViol (page : Nat) : Fld := ⟨pageStatus page, 0, 1⟩

/-- Whether RWL fields of a page are locked (R69). -/
def State.locked (s : State) (page : Nat) : Bool := s.rbit (pageLock page) 0

/-- Whether PF1 may not write a page (R58): its block's bit is 0, or the register is `HOST_PF1_WRITE_EN` itself. -/
def pf1Denied (ag : Agent) (a : Nat) (s : State) : Bool :=
  match ag with
  | .pf1 =>
    decide (a = Reg.HOST_PF1_WRITE_EN) ||
      (match blockOfPage (a / 1024) with
       | some c => !s.rbit Reg.HOST_PF1_WRITE_EN (c - 1)
       | none => false)
  | _ => false

/-- Whether a write-once register has taken its one write (R70). `LOCK` and `TBASE_CTRL.FORMAT` have when they are
not 0; the others are marked. -/
def woDoneAt (s : State) (a : Nat) (d : RegDef) : Bool :=
  if a % 1024 = 7 ∨ a % 1024 = 2 then decide (s.reg a &&& d.wo ≠ 0) else smapGet (fun _ => false) s.hst.woDone a

/-- Mark a write-once register as written. -/
def State.markWo (s : State) (a : Nat) : State :=
  { s with hst := { s.hst with woDone := smapSet (fun _ => false) s.hst.woDone a true } }

/-- The bits of a register that a write may not change at present: RWL bits after LOCK, WO bits after their write. -/
def lockedBits (s : State) (a : Nat) (d : RegDef) : Word :=
  (if s.locked (a / 1024) then d.rwl else 0) ||| (if woDoneAt s a d then d.wo else 0)

/-- A write of the bits `m` of a register that its agent may make (R9, R70, R72, R73): locked fields ignored with LOCK_VIOL where
they would have changed, the rest stored under the register's own rule, and what the write sets off. -/
def regStore (a : Nat) (d : RegDef) (act : Word → Word → State → State) (m data : Word) (s : State) : State :=
  let old := s.reg a
  let raw := (old &&& ~~~m) ||| (data &&& m)
  let v := normWord d.norm old raw
  let lk := lockedBits s a d
  let ok := (d.rw ||| d.rwl ||| d.wo) &&& ~~~lk
  let s1 := s.setReg a ((old &&& ~~~ok) ||| (v &&& ok))
  let s2 := if d.wo &&& m ≠ 0 ∧ lk &&& d.wo = 0 ∧ d.norm ≠ .lockBit ∧ d.norm ≠ .format then s1.markWo a else s1
  let s3 := s2.raiseIf (decide ((v ^^^ old) &&& lk ≠ 0)) (lockViol (a / 1024))
  act old raw s3

/-- A write of a register by an agent: PF1 is refused where it may not write (R58). -/
def regWrite (ag : Agent) (a : Nat) (d : RegDef) (act : Word → Word → State → State) (m data : Word)
    (s : State) : State :=
  if pf1Denied ag a s then s.raise F.HOST_INT_STATUS_PF1_DENIED else regStore a d act m data s

/-- The mask of a whole-word write. -/
def allBits : Word := 0xFFFFFFFF#32

/-- No action beyond storing the fields. -/
def noAct (_ _ : Word) (s : State) : State := s

/-- The main domain is out of reset: only then do its blocks act and its registers answer. -/
def whenMain (s : State) (f : State → State) : Host.Outcome State Fault Refusal :=
  .next (if s.pwr.mainUp then f s else s)

/-- The oven island is up. -/
def whenOven (s : State) (f : State → State) : Host.Outcome State Fault Refusal :=
  .next (if s.pwr.ovenUp then f s else s)

end Sys2Proof.Machine
end

