-- ==== Sys2Proof/Machine/Insert.lean ====
section
/-!
DEFINITION. Sys2Proof/Machine/Insert.lean: frame bytes and the one-step insertion (04_time_base_and_stamps.md, R179 to R184):
where a PTP message lies, the changed fields, the UDP checksum or trailer, and the incremental FCS.
-/
namespace Sys2Proof.Machine

/-- A byte of a frame, 0 beyond its end. -/
def byteAt (bs : List Byte) (i : Nat) : Nat := (nth 0 bs i).toNat

/-- A 16-bit and a 32-bit field of a frame, high byte first. -/
def half (bs : List Byte) (i : Nat) : Nat := 256 * byteAt bs i + byteAt bs (i + 1)
def quad (bs : List Byte) (i : Nat) : Nat := 65536 * half bs i + half bs (i + 2)

/-- `n` bytes from offset `i`. -/
def slice (bs : List Byte) (i n : Nat) : List Byte := (bs.drop i).take n

/-- `bs` with the bytes from offset `i` replaced. -/
def overlay (bs : List Byte) (i : Nat) (new : List Byte) : List Byte :=
  if i + new.length ≤ bs.length then bs.take i ++ new ++ bs.drop (i + new.length) else bs

/-- One bit step, then one byte step, of the reflected CRC-32 of IEEE 802.3 (R184). -/
def crcBit (c : BitVec 32) : BitVec 32 :=
  if c.toNat % 2 = 1 then (c >>> 1) ^^^ 0xEDB88320#32 else c >>> 1
def crcByte (c : BitVec 32) (b : Byte) : BitVec 32 :=
  let x := c ^^^ BitVec.ofNat 32 b.toNat
  crcBit (crcBit (crcBit (crcBit (crcBit (crcBit (crcBit (crcBit x)))))))

/-- `crc_raw` of R184: initial value 0, no final inversion. -/
def crcRaw (bs : List Byte) : BitVec 32 := bs.foldl crcByte 0

/-- The FCS of a frame without its last four bytes: initial value and final inversion of ones, as IEEE 802.3 has it. -/
def fcsOf (bs : List Byte) : BitVec 32 := bs.foldl crcByte 0xFFFFFFFF#32 ^^^ 0xFFFFFFFF#32

/-- Whether the last four bytes of a frame are its FCS, low byte first. -/
def fcsOk (bs : List Byte) : Bool :=
  decide (4 ≤ bs.length ∧ leNat (bs.drop (bs.length - 4)) = (fcsOf (bs.take (bs.length - 4))).toNat)

/-- Byte-wise exclusive or. -/
def xorBytes : List Byte → List Byte → List Byte
  | a :: as, b :: bs => (a ^^^ b) :: xorBytes as bs
  | _, _ => []

/-- The frame with changed contents and its FCS updated from the changed bytes (R184): `new` and `old` are whole frames of
one length. A crc of leading zeros is 0, so the CRC runs over the whole difference. -/
def updateFcs (old new : List Byte) : List Byte :=
  let n := new.length - 4
  let d := crcRaw (xorBytes (old.take n) (new.take n))
  new.take n ++ leBytes 4 (BitVec.ofNat 32 (leNat (old.drop n)) ^^^ d).toNat

/-- A frame whose length changed on rewrite: the FCS is the old one with the difference between the two bodies' FCS, so that a
frame that arrived bad leaves bad (R1, R184). -/
def rewriteFcs (old newBody : List Byte) : List Byte :=
  let n := old.length - 4
  newBody ++ leBytes 4 (BitVec.ofNat 32 (leNat (old.drop n)) ^^^ fcsOf (old.take n) ^^^ fcsOf newBody).toNat

/-- One's-complement addition of 16-bit words. -/
def ocAdd (a b : Nat) : Nat :=
  let x := a + b
  if x < 65536 then x else x - 65535

/-- The one's-complement sum d of R182 over the changed 16-bit words of a datagram. -/
def ocDelta : List Byte → List Byte → Nat
  | a :: b :: as, c :: d :: cs =>
    let o := 256 * a.toNat + b.toNat
    let n := 256 * c.toNat + d.toNat
    if o = n then ocDelta as cs else ocAdd (ocAdd n (65535 - o)) (ocDelta as cs)
  | [a], [c] => if a = c then 0 else ocAdd (256 * c.toNat) (65535 - 256 * a.toNat)
  | _, _ => 0

/-- Where a PTP message lies in a frame (R181): its offset, and the UDP header's offset and whether it is over IPv6. -/
structure PtpLoc where
  msg : Nat
  udp : Option (Nat × Bool)
deriving DecidableEq, Repr

/-- The offset of the EtherType after up to two tags. -/
def etypeAt (bs : List Byte) : Nat :=
  let tag (i : Nat) : Bool := half bs i == 0x8100 || half bs i == 0x88A8
  if tag 12 then (if tag 16 then 20 else 16) else 12

/-- The shapes of R181. -/
def ptpLoc (bs : List Byte) : Option PtpLoc :=
  let t := etypeAt bs
  let ip := t + 2
  if half bs t = 0x88F7 then some ⟨ip, none⟩
  else if half bs t = 0x0800 then
    let ihl := byteAt bs ip % 16
    let udp := ip + 4 * ihl
    if byteAt bs ip / 16 = 4 ∧ 5 ≤ ihl ∧ half bs (ip + 6) % 0x4000 = 0 ∧ byteAt bs (ip + 9) = 17 ∧
        half bs (udp + 2) = 319 then some ⟨udp + 8, some (udp, false)⟩ else none
  else if half bs t = 0x86DD then
    let udp := ip + 40
    if byteAt bs ip / 16 = 6 ∧ byteAt bs (ip + 6) = 17 ∧ half bs (udp + 2) = 319 then
      some ⟨udp + 8, some (udp, true)⟩ else none
  else none

/-- The frame after an insertion, with whether correctionField saturated and whether an IPv6 frame lacked its trailer
(R180 to R184). -/
def insertPtp (bs : List Byte) (v : InsertVal) : List Byte × Bool × Bool :=
  match ptpLoc bs with
  | none => (bs, false, false)
  | some l =>
    let cf := signed 64 (beNat (slice bs (l.msg + 8) 8)) + v.cf
    let sat := decide (cf < -(2 ^ 63 : Nat) ∨ ((2 ^ 63 : Nat) : Int) ≤ cf)
    let b1 := overlay bs (l.msg + 8) (beBytes 8 (if sat then 2 ^ 63 - 1 else toBits 64 cf))
    let b2 := match v.origin with
      | some (sec, ns) => overlay b1 (l.msg + 34) (beBytes 6 sec ++ beBytes 4 ns)
      | none => b1
    match l.udp with
    | none => (updateFcs bs b2, sat, false)
    | some (udp, v6) =>
      let len := half bs (udp + 4)
      let d := ocDelta (slice bs udp len) (slice b2 udp len)
      let ml := half bs (l.msg + 2)
      let ck := half bs (udp + 6)
      let ckNew := 65535 - ocAdd (65535 - ck) d
      let withCk := overlay b2 (udp + 6) (beBytes 2 (if ckNew = 0 then 65535 else ckNew))
      if v6 then
        if ml + 2 ≤ len - 8 then
          let tr := ocAdd (half bs (l.msg + ml)) (65535 - d)
          (updateFcs bs (overlay b2 (l.msg + ml) (beBytes 2 tr)), sat, false)
        else (updateFcs bs withCk, sat, true)
      else if ck = 0 then (updateFcs bs b2, sat, false)
      else (updateFcs bs withCk, sat, false)

end Sys2Proof.Machine
end

