-- ==== Sys2Proof/Machine/Parse.lean ====
section
/-!
DEFINITION. Sys2Proof/Machine/Parse.lean: the parser, the known length, the flow hash, the rewrite and the remark of a frame
(10_forwarding_pipeline.md, R361, R362, R374, R379; 12_queues_scheduling_shaping.md, R437, R452). The places of the header fields are
those of IEEE 802.3, IEEE 802.1Q, RFC 791, RFC 8200 and IEEE 1588 (log 22).
-/
namespace Sys2Proof.Machine

/-- What the parser extracts (R361). `ver` is 4, 6 or 0; `ptp` the offset of a PTP message with its ENCAP bit; `l4` whether ports were
extracted. -/
structure Hdr where
  tags : Nat := 0
  vid : Nat := 0
  pcp : Nat := 0
  dei : Bool := false
  etype : Nat := 0
  l3 : Nat := 14
  ver : Nat := 0
  ipSrc : List Byte := []
  ipDst : List Byte := []
  proto : Nat := 0
  dscp : Nat := 0
  ecn : Nat := 0
  ttl : Nat := 0
  frag : Bool := false
  sport : Nat := 0
  dport : Nat := 0
  flags : Nat := 0
  ptp : Option (Nat × Nat) := none
  esmc : Bool := false
  err : Bool := false
deriving DecidableEq, Repr

/-- One's-complement sum of 16-bit words. -/
def ocSum : List Byte → Nat
  | a :: b :: r => ocAdd (256 * a.toNat + b.toNat) (ocSum r)
  | [a] => 256 * a.toNat
  | [] => 0

/-- Layer 4 of protocol `proto` at offset `o` of the `n` bytes that the parser has. -/
def parseL4 (bs : List Byte) (n o proto encap : Nat) (h : Hdr) : Hdr :=
  if proto = 6 ∧ o + max 20 (byteAt bs (o + 12) / 16 * 4) ≤ n then { h with sport := half bs o, dport := half bs (o + 2), flags := byteAt bs (o + 13) }
  else if proto = 17 ∧ o + 8 ≤ n then
    let d := half bs (o + 2)
    { h with sport := half bs o, dport := d,
             ptp := if (d = 319 ∨ d = 320) ∧ o + 8 + 34 ≤ n then some (o + 8, encap) else none }
  else h

/-- IPv4 at offset `o` (R361, R362). -/
def parseV4 (bs : List Byte) (n o : Nat) (h : Hdr) : Hdr :=
  let ihl := byteAt bs o % 16
  if n < o + 20 ∨ byteAt bs o / 16 ≠ 4 ∨ ihl < 5 ∨ n < o + 4 * ihl ∨ ocSum (slice bs o (4 * ihl)) ≠ 65535 then
    { h with err := true }
  else
    let fr := half bs (o + 6)
    let p := byteAt bs (o + 9)
    let h1 := { h with ver := 4, ipSrc := slice bs (o + 12) 4, ipDst := slice bs (o + 16) 4, proto := p,
                       dscp := byteAt bs (o + 1) / 4, ecn := byteAt bs (o + 1) % 4, ttl := byteAt bs (o + 8),
                       frag := decide (fr % 0x4000 ≠ 0) }
    if fr % 0x2000 = 0 then parseL4 bs n (o + 4 * ihl) p 1 h1 else h1

/-- Up to two extension headers of IPv6 from offset `o`: the next header found, its offset, whether it is a fragment, and whether
layer 4 follows there. -/
def walkExt (bs : List Byte) (n : Nat) : Nat → Nat → Nat → Bool → Bool → Nat × Nat × Bool × Bool
  | k, nh, o, fr, ok =>
    let ext := decide (nh = 0 ∨ nh = 43 ∨ nh = 44 ∨ nh = 60)
    match k with
    | 0 => (nh, o, fr, ok && !ext)
    | k + 1 =>
      if ext then
        let len := if nh = 44 then 8 else 8 * (byteAt bs (o + 1) + 1)
        if n < o + len then (nh, o, fr, false)
        else if nh = 44 then
          walkExt bs n k (byteAt bs o) (o + 8) (fr || decide (half bs (o + 2) / 8 ≠ 0 ∨ half bs (o + 2) % 2 = 1))
            (ok && decide (half bs (o + 2) / 8 = 0))
        else walkExt bs n k (byteAt bs o) (o + len) fr ok
      else (nh, o, fr, ok)

/-- IPv6 at offset `o` (R361, R362). -/
def parseV6 (bs : List Byte) (n o : Nat) (h : Hdr) : Hdr :=
  if n < o + 40 then { h with err := true }
  else
    let tc := quad bs o / 2 ^ 20 % 256
    let (nh, l4, fr, ok) := walkExt bs n 2 (byteAt bs (o + 6)) (o + 40) false true
    let h1 := { h with ver := 6, ipSrc := slice bs (o + 8) 16, ipDst := slice bs (o + 24) 16, proto := nh, dscp := tc / 4,
                       ecn := tc % 4, ttl := byteAt bs (o + 7), frag := fr }
    if ok then parseL4 bs n l4 nh 2 h1 else h1

/-- The parser: `bs` the first bytes of a frame, `n` how many of them are data and lie within the first 256. -/
def parse (bs : List Byte) (n : Nat) : Hdr :=
  let t := etypeAt bs
  let tci := half bs 14
  let h : Hdr := { tags := (t - 12) / 4, etype := half bs t, l3 := t + 2 }
  let h1 := if t = 12 then h else { h with vid := tci % 4096, pcp := tci / 8192, dei := decide (tci / 4096 % 2 = 1) }
  if h1.etype = 0x0800 then parseV4 bs n (t + 2) h1
  else if h1.etype = 0x86DD then parseV6 bs n (t + 2) h1
  else if h1.etype = 0x88F7 then { h1 with ptp := if t + 2 + 34 ≤ n then some (t + 2, 0) else none }
  else if h1.etype = 0x8809 then { h1 with esmc := decide (byteAt bs (t + 2) = 0x0A) }
  else h1

/-- How many bytes of a frame the parser has: its data without the FCS, of its first slice. -/
def parseLen (bs : List Byte) (ended : Bool) : Nat := min 256 (if ended then bs.length - 4 else bs.length)

/-- The known length of a frame whose end has not come (R437). -/
def knownLen (bs : List Byte) (h : Hdr) (max' : Nat) : Nat :=
  if h.ver = 4 then max 64 (14 + 4 * h.tags + half bs (h.l3 + 2) + 4)
  else if h.ver = 6 then max 64 (14 + 4 * h.tags + 40 + half bs (h.l3 + 4) + 4)
  else max'

/-! ### The flow hash (R374) -/

/-- One bit step and one byte step of the reflected CRC-32C. -/
def crcCBit (c : BitVec 32) : BitVec 32 := if c.toNat % 2 = 1 then (c >>> 1) ^^^ 0x82F63B78#32 else c >>> 1
def crcCByte (c : BitVec 32) (b : Byte) : BitVec 32 :=
  let x := c ^^^ BitVec.ofNat 32 b.toNat
  crcCBit (crcCBit (crcCBit (crcCBit (crcCBit (crcCBit (crcCBit (crcCBit x)))))))

/-- The flow hash of a frame from source port `src`. -/
def flowHash (bs : List Byte) (h : Hdr) (src : Nat) (seed : Word) : Nat :=
  let key := if h.ver ≠ 0 then
      h.ipSrc ++ h.ipDst ++ [BitVec.ofNat 8 h.proto] ++ beBytes 2 h.sport ++ beBytes 2 h.dport ++ beBytes 2 src
    else slice bs 0 12 ++ beBytes 2 h.etype ++ beBytes 2 src
  ((key ++ leBytes 4 seed.toNat).foldl crcCByte 0xFFFFFFFF#32 ^^^ 0xFFFFFFFF#32).toNat

/-! ### Rewrite and remark (R379, R452) -/

/-- A frame with the 16-bit word at `i` changed, and the header checksum at `ck` updated by RFC 1624. -/
def putHalf (bs : List Byte) (i x ck : Nat) : List Byte :=
  let old := half bs i
  let c := 65535 - ocAdd (ocAdd (65535 - half bs ck) (65535 - old)) x
  overlay (overlay bs i (beBytes 2 x)) ck (beBytes 2 c)

/-- The insertion action that a frame carries out of one it is given: none on a PTP message that is no event message (R365). -/
def eventIns (bs : List Byte) (ins : Nat) : Nat :=
  match (parse bs (parseLen bs true)).ptp with
  | some (o, _) => if byteAt bs o % 16 ≤ 3 then ins else 0
  | none => ins

/-- The body of a routed frame (R379). -/
def routeBytes (bs : List Byte) (h : Hdr) (r : Rewrite) : List Byte :=
  let b1 := overlay bs 0 (beBytes 6 r.dmac ++ beBytes 6 r.smac)
  let b2 := match r.vid with
    | some v => if h.tags = 0 then b1 else overlay b1 14 (beBytes 2 (half b1 14 / 4096 * 4096 + v))
    | none => b1
  if h.ver = 4 then putHalf b2 (h.l3 + 8) ((half b2 (h.l3 + 8) + (65536 - 256)) % 65536) (h.l3 + 10)
  else if h.ver = 6 then overlay b2 (h.l3 + 7) [BitVec.ofNat 8 (byteAt b2 (h.l3 + 7) + 255)]
  else b2

/-- A frame with its DSCP set, the ECN bits kept (R452). -/
def remarkBytes (bs : List Byte) (h : Hdr) (dscp : Nat) : List Byte :=
  if h.ver = 4 then putHalf bs h.l3 (half bs h.l3 / 256 * 256 + 4 * dscp + byteAt bs (h.l3 + 1) % 4) (h.l3 + 10)
  else if h.ver = 6 then
    overlay bs h.l3 (beBytes 2 (half bs h.l3 / 4096 * 4096 + dscp * 64 + half bs h.l3 % 64))
  else bs

end Sys2Proof.Machine
end

