-- ==== Sys2Proof/Config.lean ====
section
/-!
DEFINITION. Sys2Proof/Config.lean: the values that the spec leaves free, as constants without a body: no proof can see what
they are. Each is named in the assumption log.
-/
namespace Sys2Proof

/-- Free values: the n-th value that the spec leaves open on a run. `State.free` counts them (log 20). -/
opaque Config.freeValue : Nat → BitVec 64

/-- SHA-384 of bytes, the standard function that R530 names without giving it (log 24). -/
opaque Config.sha384 : List Byte → BitVec 384

/-- Whether an ECDSA P-384 signature verifies: public key, hash, signature (R530, R531; log 24). -/
opaque Config.ecdsaVerify : List Byte → BitVec 384 → List Byte → Bool

/-- The hash of Yelud's own key in slot 0 of every part, which the spec does not give (log 24). -/
opaque Config.keyHash0 : BitVec 384

/-- How many slices one word of the ownership map covers, which the spec does not give (R547; log 20). -/
opaque Config.ownWordSlices : Nat

/-- What a data lane carries when it sends traffic, word by word: the PCS and the FEC of IEEE 802.3 form it (log 31). -/
opaque Config.traffic : Nat → Nat → BitVec 128

/-- The two characters of a word that the PCS of a timing port sends, each a byte with its K flag as bit 8: IEEE 802.3 Clause 36 forms them
(R142; log 31). -/
opaque Config.pcsChars : Nat → Nat → Nat × Nat

/-- Which of a port's lanes carries a bit of its stream, counted from the alignment markers, and the symbol of that lane since its marker, for
a number of lanes at the full or the half rate: the bit ordering of IEEE 802.3 for the port's rate (R175; log 10). -/
opaque Config.bitOrder : Nat → Bool → Nat → Nat × Nat

/-- The words that arrive at a lane where no command has brought any (R149; log 31). -/
opaque Config.received : Nat → Nat → BitVec 128

/-- The bits before the first word of a generator pattern: no rule gives where a generator starts (R145; log 9). -/
opaque Config.prbsStart : Nat → BitVec 128

/-- The bits of SSPRQ one word after some of its bits, the latest in bit 0: the pattern is IEEE 802.3's (R145; log 9). -/
opaque Config.ssprqNext : BitVec 128 → BitVec 128

/-- The chips of the primary code of a signal and a satellite: those of IS-GPS-200, IS-GPS-705 and the Galileo OS SIS ICD, which the spec
names without giving them (R287; log 21). -/
opaque Config.primaryCode : Nat → Nat → Nat → Bool

/-- Sign and magnitude of the in-phase and of the quadrature part of the carrier replica at a phase of 3 bits (R290; log 21). -/
opaque Config.carrierBits : Nat → BitVec 4

/-- The 4-bit soft symbol of a sum of four prompts (R294; log 21). -/
opaque Config.softSymbol : Int → BitVec 4

/-- What a capture stores for the sample of a count at which its band was not enabled: R281 takes no sample then (log 16). -/
opaque Config.gatedSample : Nat → BitVec 4

/-- The source address of the PFC frames of a port, which no register holds (R338; log 18). -/
opaque Config.pfcSource : Nat → BitVec 48

end Sys2Proof
end

