-- ==== Sys2Proof/Machine/IndTable.lean ====
section
/-!
DEFINITION. Sys2Proof/Machine/IndTable.lean: the words of the indirect domains 0x02 and 0x03 at reset (R119, R120), and the
access to stored words of every indirect domain. Domains 0x04 to 0x08 are laid out by their chapters, and a word of theirs
that nothing has written reads as 0.
-/
namespace Sys2Proof.Machine

/-- A data lane's analogue word at reset (R119). -/
def dlnWordReset (w : Nat) : Word :=
  match w with
  | 0 => 0x00F80000#32
  | 1 => 0x00000078#32
  | 2 => 0x3F001F00#32
  | 3 => 0x3FC03FC0#32
  | 4 => 0x3FC03FC0#32
  | _ => 0

/-- An auxiliary lane's analogue word at reset (R120). -/
def alnWordReset (w : Nat) : Word :=
  match w with
  | 0 => 0x00F07000#32
  | 1 => 0x00002004#32
  | _ => 0

/-- What an indirect word reads as until something changes it, by key. In domain 0x04 the first bank of each cell's table is
the nominal table (R221); in domain 0x05 word 1 of a channel holds its spacing (R306);
in domain 0x07 words 2 and 4 hold BURST and QUANTUM (R461). -/
def indReset (key : Nat) : Word :=
  if key / 2 ^ 24 = 2 then dlnWordReset (key % 32)
  else if key / 2 ^ 24 = 3 then alnWordReset (key % 16)
  else if key / 2 ^ 24 = 5 ∧ key % 16 = 1 ∧ key % 2 ^ 24 < 1024 then 0x00001008#32
  else if key / 2 ^ 24 = 7 ∧ key % 8 = 2 ∧ key % 2 ^ 24 < 0xCC00 then 0x00004000#32
  else if key / 2 ^ 24 = 7 ∧ key % 8 = 4 ∧ key % 2 ^ 24 < 0xC000 then 0x00002414#32
  else if key / 2 ^ 24 = 4 ∧ key % 2 ^ 24 / 0x1000 % 4 = 0 then BitVec.ofNat 32 (256 * (key % 0x1000))
  else 0

/-- The stored value of an indirect word. -/
def State.indw (s : State) (domain waddr : Nat) : Word := smapGet indReset s.ind (indKey domain waddr)

/-- Store an indirect word. -/
def State.setIndw (s : State) (domain waddr : Nat) (v : Word) : State :=
  { s with ind := smapSet indReset s.ind (indKey domain waddr) v }

/-- A field of an indirect word. -/
def State.ifld (s : State) (domain waddr lo w : Nat) : Nat := bits (s.indw domain waddr) lo w

/-- Store a field of an indirect word. -/
def State.setIfld (s : State) (domain waddr lo w x : Nat) : State :=
  s.setIndw domain waddr (putBits (s.indw domain waddr) lo w x)

/-- The agent that a window's accesses act as (R76, R582); the Hearth cores share window 2 (log 8). -/
def winOwner (k : Fin 4) (s : State) : Agent :=
  match k with
  | 0 => .pf0
  | 1 => .pf1
  | 2 => .hearth (smapGet (fun _ => ({} : WinSt)) s.hst.win 2).core
  | 3 => .test

/-- A window's write reaches its target only where PF1 may write the block that owns the word (R58). -/
def targetWrite (ag : Agent) (code : Nat) (f : State → State) (s : State) : State :=
  if ag = .pf1 ∧ s.rbit Reg.HOST_PF1_WRITE_EN (code - 1) = false then s.raise F.HOST_INT_STATUS_PF1_DENIED else f s

/-- A write of an indirect word with RW bits `rw` and RWL bits `rwl`, which the LOCK of page `pg` governs (R71). -/
def indStore (pg : Nat) (rw rwl : Word) (domain waddr : Nat) (d : Word) (s : State) : State :=
  let old := s.indw domain waddr
  let lk := if s.locked pg then rwl else 0
  let ok := (rw ||| rwl) &&& ~~~lk
  (s.setIndw domain waddr ((old &&& ~~~ok) ||| (d &&& ok))).raiseIf (decide ((d ^^^ old) &&& lk ≠ 0)) (lockViol pg)

end Sys2Proof.Machine
end

