-- ==== Sys2Proof/Machine/Tbase.lean ====
section
/-!
DEFINITION. Sys2Proof/Machine/Tbase.lean: the Leaven time base (04_time_base_and_stamps.md, R158 to R173, R186 to R197): the
counter, its commands, snapshots, the record layout, the transmit FIFO, the pulse outputs. CMD_DONE itself, which also tells
the loop, the sky receiver and the twin, is in Machine/TimeApply.lean.
-/
namespace Sys2Proof.Machine

/-! ### The value (R158, R159) -/

/-- One nanosecond in 2^−48 ns. -/
def nsUnit : Nat := 2 ^ 48

/-- TBASE_CTRL.FORMAT: 0 not set, 1 PTP, 2 flat. -/
def tbFormat (s : State) : Nat := s.fld F.TBASE_CTRL_FORMAT

/-- Where the value wraps: 2^48 seconds in PTP format, 2^80 ns in flat format. -/
def tbWrap (fmt : Nat) : Nat := if fmt = 1 then 2 ^ 48 * 1000000000 * nsUnit else 2 ^ 80 * nsUnit

/-- The active increment, TBASE_INC_CUR, and the staged one. -/
def incCur (s : State) : Nat := s.reg64 Reg.TBASE_INC_CUR_LO Reg.TBASE_INC_CUR_HI
def incStaged (s : State) : Nat := s.reg64 Reg.TBASE_INC_LO Reg.TBASE_INC_HI

/-- Change the time-base record. -/
def State.updTb (s : State) (f : TbSt → TbSt) : State := { s with tb := f s.tb }

/-- The record of a pulse output (R186 to R190). -/
def outReset (_ : Nat) : OutSt := {}
def State.out (s : State) (k : Nat) : OutSt := smapGet outReset s.tb.outs k
def State.updOut (s : State) (k : Nat) (f : OutSt → OutSt) : State :=
  s.updTb fun t => { t with outs := smapSet outReset t.outs k (f (s.out k)) }

/-- `k` increments are added. Where that wraps the value, the end of a pulse in progress keeps its place (R159, R186). -/
def tbAdvance (k : Nat) (s : State) : State :=
  let x := s.tb.value + k * incCur s
  let w := tbWrap (tbFormat s)
  let s1 := s.updTb fun t => { t with value := x % w }
  if x < w then s1 else forUpto 5 (fun i s => s.updOut i fun o => { o with pulseEnd := o.pulseEnd - ((x / w * w : Nat) : Int) }) s1

/-- One TCLK edge of the counter (R158, R160): 0 at the first edge after FORMAT is written, then one increment an edge. -/
def tbEdge (s : State) : State :=
  if tbFormat s = 0 ∨ ¬s.pwr.ovenUp then s
  else if s.tb.starting then (s.updTb fun t => { t with starting := false, value := 0 }).setFlag F.TBASE_LIVE_RUNNING true
  else tbAdvance 1 s

/-- `n` TCLK edges of the counter at once. -/
def tbEdges (n : Nat) (s : State) : State :=
  if n = 0 then s
  else if s.tb.starting then
    let t := tbEdge s
    if tbFormat s = 0 ∨ ¬s.pwr.ovenUp then s else tbAdvance (n - 1) t
  else if tbFormat s = 0 ∨ ¬s.pwr.ovenUp then s
  else tbAdvance n s

/-! ### Records (R171) -/

/-- A value rounded to the nearest 2^−20 ns, halves up (log 10), in units of 2^−20 ns. -/
def round20 (v : Nat) : Nat := divRound v (2 ^ 28)

/-- The four words of a record of a value in 2^−20 ns, with the flag bits of word 0. -/
def recordWords (fmt v20 flags : Nat) : List Word :=
  let ns := v20 / 2 ^ 20
  let sub := v20 % 2 ^ 20
  if fmt = 1 then
    let sec := ns / 1000000000 % 2 ^ 48
    [BitVec.ofNat 32 (sub + flags), BitVec.ofNat 32 (ns % 1000000000), BitVec.ofNat 32 sec, BitVec.ofNat 32 (sec / 2 ^ 32)]
  else
    let c := ns % 2 ^ 80
    [BitVec.ofNat 32 (sub + flags), BitVec.ofNat 32 c, BitVec.ofNat 32 (c / 2 ^ 32), BitVec.ofNat 32 (c / 2 ^ 64)]

/-- The value that a record states, in 2^−48 ns. -/
def recordValue (fmt : Nat) (w0 w1 w2 w3 : Word) : Nat :=
  let ns := if fmt = 1 then (w2.toNat + 2 ^ 32 * (w3.toNat % 2 ^ 16)) * 1000000000 + w1.toNat
    else w1.toNat + 2 ^ 32 * w2.toNat + 2 ^ 64 * (w3.toNat % 2 ^ 16)
  ns * nsUnit + (w0.toNat % 2 ^ 20) * 2 ^ 28

/-- A bit flag at a place. -/
def flagAt (b : Bool) (i : Nat) : Nat := if b then 2 ^ i else 0

/-- TBASE_LIVE.HOLDOVER (R262): LOOP_STATUS.STATE 4 to 7. -/
def inHoldover (s : State) : Bool := decide (4 ≤ s.fld F.LOOP_STATUS_STATE)

/-- TBASE_LIVE.DEGRADED (R246, R247): TCLK on the keeper, or XO_IN lost. -/
def degraded (s : State) : Bool := s.flag F.LOOP_STATUS_TCLK_KEEPER || decide (s.fld F.LOOP_STATUS_STATE = 7)

/-- The flags of word 0 that the part's own state gives a record taken now on the timeline `epoch` (R33, R171). -/
def recordFlags (epoch : Nat) (s : State) : Nat :=
  flagAt (s.flag F.PWR_LIVE_EVT_FLAG) 20 + flagAt (degraded s) 21 + flagAt (inHoldover s) 22 +
    epoch % 4 * 2 ^ 26 + flagAt (s.flag F.TBASE_LIVE_OUTAGE) 28

/-- EPOCH of the present timeline. -/
def epochNow (s : State) : Nat := s.fld F.TBASE_LIVE_EPOCH

/-- A record of the present value. -/
def recordNow (s : State) : List Word :=
  recordWords (tbFormat s) (round20 s.tb.value) (recordFlags (epochNow s) s)

/-- Store words in consecutive registers. -/
def State.setRegs (s : State) (a : Nat) : List Word → State
  | [] => s
  | w :: ws => (s.setReg a w).setRegs (a + 1) ws

/-! ### Commands (R163, R165 to R170) -/

/-- R163: within ±500 ppm of nominal. -/
def incOk (x : Nat) : Bool := decide (0x014784230FCF81 ≤ x ∧ x ≤ 0x0147D805E5F30F)

/-- The STEP amount of the registers, in 2^−48 ns. -/
def stepAmount (s : State) : Int :=
  signed 64 (s.reg64 Reg.TBASE_STEP_LO Reg.TBASE_STEP_HI) * (nsUnit : Int) +
    ((s.fld F.TBASE_STEP_SUB_SUBNS * 2 ^ 28 : Nat) : Int)

/-- TBASE_LOAD and TBASE_ARM as values. -/
def loadValue (s : State) : Nat :=
  recordValue (tbFormat s) (s.reg Reg.TBASE_LOAD0) (s.reg Reg.TBASE_LOAD1) (s.reg Reg.TBASE_LOAD2) (s.reg Reg.TBASE_LOAD3)
def armValue (s : State) : Nat :=
  recordValue (tbFormat s) (s.reg Reg.TBASE_ARM0) (s.reg Reg.TBASE_ARM1) (s.reg Reg.TBASE_ARM2) (s.reg Reg.TBASE_ARM3)

/-- The TCLK edges from now until the value is at or past `a`; before the first edge after FORMAT, that edge brings 0 (R160). -/
def edgesTo (a : Nat) (s : State) : Nat :=
  if s.tb.starting then (a + incCur s - 1) / incCur s + 1 else (a - s.tb.value + incCur s - 1) / incCur s

/-- How many TCLK from now the pending command's apply edge lies (R166). -/
def tbDue (p : TbPend) (s : State) : Nat :=
  match p.arm with
  | some a => if p.late then p.acc + 1024 - s.clk.tclk else edgesTo a s
  | none => p.acc + 1024 - s.clk.tclk

/-- A command accepted now: ARM nearer than 1,024 TCLK makes it late (R166). -/
def mkPend (inc : Option Nat) (op : Option TbOp) (arm : Option Nat) (xstep dispute : Bool) (s : State) : TbPend :=
  { inc := inc, op := op, arm := arm, acc := s.clk.tclk,
    late := match arm with
      | some a => decide (a < s.tb.value + (if s.tb.starting then 1023 else 1024) * incCur s)
      | none => false,
    xstep := xstep, dispute := dispute }

/-- Make a command the pending one. -/
def tbPending (p : TbPend) (s : State) : State :=
  (s.updTb fun t => { t with pend := some p }).setFlag F.TBASE_LIVE_CMD_PENDING true

/-- Nothing pends. -/
def tbNoPending (s : State) : State :=
  (s.updTb fun t => { t with pend := none }).setFlag F.TBASE_LIVE_CMD_PENDING false

/-- APPLY_INC, STEP and LOAD of a write, with nothing pending (R163, R165, R168). -/
def tbAccept (inc step load at' : Bool) (s : State) : State :=
  let arm := if at' then some (armValue s) else none
  let base := if at' then armValue s else s.tb.value
  let incV := if inc ∧ incOk (incStaged s) then some (incStaged s) else none
  let stepBad := decide ((base : Int) + stepAmount s < 0)
  let loadBad := decide (tbFormat s = 1 ∧ 1000000000 ≤ (s.reg Reg.TBASE_LOAD1).toNat)
  let op := if step ∧ ¬stepBad then some (TbOp.step (stepAmount s))
    else if load ∧ ¬loadBad then some (TbOp.load (loadValue s)) else none
  let s1 := s.raiseIf (inc && incV.isNone) F.TBASE_INT_STATUS_INC_REJECT
  let s2 := s1.raiseIf ((step && stepBad) || (load && loadBad)) F.TBASE_INT_STATUS_CMD_REJECT
  if incV.isSome ∨ op.isSome then tbPending (mkPend incV op arm false false s) s2 else s2

/-- CANCEL (R167): withdraws the pending command if its apply edge is at least one TCLK away. -/
def tbCancel (s : State) : State :=
  match s.tb.pend with
  | some p => if tbDue p s = 0 then s else tbNoPending s
  | none => s

/-- What a write of `TBASE_CMD` sets off. -/
def actTbaseCmd (old raw : Word) (s : State) : State :=
  let inc := bit raw 0
  let step := bit raw 1
  let load := bit raw 2
  if tbFormat s = 0 then
    if bits raw 0 6 = 0 then s else s.raise F.TBASE_INT_STATUS_NOT_RUNNING
  else if step ∧ load then (s.setFlag F.TBASE_CMD_AT (bit old 8)).raise F.TBASE_INT_STATUS_CMD_REJECT
  else
    let s1 := if bit raw 5 then (s.setFlag F.TBASE_LIVE_OUTAGE false).setFlag F.TBASE_LIVE_CMD_LOST false else s
    let s2 := if bit raw 3 then s1.updTb fun t => { t with snaps := t.snaps ++ [s1.clk.tclk] } else s1
    let s3 := if bit raw 4 then tbCancel s2 else s2
    if inc ∨ step ∨ load then
      if s3.tb.pend.isSome then s3.raise F.TBASE_INT_STATUS_CMD_BUSY else tbAccept inc step load (bit raw 8) s3
    else s3

/-- What a write of `TBASE_CTRL` sets off (R160): the one write of FORMAT starts the time base. -/
def actTbaseCtrl (old _raw : Word) (s : State) : State :=
  if bits old 0 2 = 0 ∧ tbFormat s ≠ 0 then s.updTb fun t => { t with starting := true, value := 0 } else s

/-! ### Pulse outputs (R186 to R190) -/

/-- OFFSET as its registers show it: whole nanoseconds, signed; a fraction that a step has left in it is not shown (rounded down, DESIGN
CHOICE, log 10). -/
def showOffset (k : Nat) (s : State) : State :=
  s.setReg64 (Reg.TBASE_OUT_OFFSET_LO k) (Reg.TBASE_OUT_OFFSET_HI k)
    (toBits 64 (Int.fdiv (s.out k).offset (nsUnit : Int)))

/-- An alignment (R188): OFFSET 0, the written values taken up, and no edge for 1,024 TCLK. -/
def outAlign (k : Nat) (s : State) : State :=
  showOffset k (s.updOut k fun o =>
    { o with offset := 0, period := s.fld (F.TBASE_OUT_PERIOD_PERIOD k), phase := s.fld (F.TBASE_OUT_PHASE_PHASE k),
             width := s.fld (F.TBASE_OUT_WIDTH_WIDTH k), earliest := s.clk.tclk + 1024, again := o.active })

/-- What a write of `TBASE_OUT_CTRL` sets off (R188, R189, R196). -/
def actOutCtrl (k : Nat) (old raw : Word) (s : State) : State :=
  if bit raw 0 ∧ ¬bit old 0 then
    outAlign k (s.updOut k fun o => { o with on := true, pol := bit raw 1 })
  else if bit old 0 ∧ ¬bit raw 0 then s.updOut k fun o => { o with on := false }
  else s

/-- The level of output k at its ball (R189, R196, R502). -/
def outLevel (k : Nat) (s : State) : Bool := ((s.out k).active && (s.out k).driven) != (s.out k).pol

/-- What a write of `TBASE_OUT_CMD` sets off (R188). -/
def actOutCmd (k : Nat) (_old raw : Word) (s : State) : State := if bit raw 0 then outAlign k s else s

/-- R189, R196: PERIOD within 20 ns to 2^32 − 1 ns; that of output 4 is read-only. One that leaves the written WIDTH above PERIOD − 8 is
taken (DESIGN CHOICE, log 10). -/
def actOutPeriod (k : Nat) (old raw : Word) (s : State) : State :=
  if k = 4 then s.setReg (Reg.TBASE_OUT_PERIOD k) old
  else if raw.toNat < 20 then (s.setReg (Reg.TBASE_OUT_PERIOD k) old).raise F.TBASE_INT_STATUS_OUT_REJECT
  else s

/-- R189: WIDTH within 8 ns to PERIOD − 8 ns, of the PERIOD last written (DESIGN CHOICE, log 10). -/
def actOutWidth (k : Nat) (old raw : Word) (s : State) : State :=
  if raw.toNat < 8 ∨ s.fld (F.TBASE_OUT_PERIOD_PERIOD k) < raw.toNat + 8 then
    (s.setReg (Reg.TBASE_OUT_WIDTH k) old).raise F.TBASE_INT_STATUS_OUT_REJECT
  else s

/-- A step of the time base moves every OFFSET by as much, so that no edge moves (R187), nor the end of a pulse, which moves with the
value. -/
def outsMoved (d moved : Int) (s : State) : State :=
  forUpto 5 (fun k s => showOffset k (s.updOut k fun o =>
    { o with offset := o.offset + d, pulseEnd := o.pulseEnd + moved })) s

/-- The first instant of output k at or after a value `v` (R186), in 2^−48 ns. -/
def outInstant (o : OutSt) (v : Int) : Int :=
  v + (o.offset + ((o.phase * nsUnit : Nat) : Int) - v) % ((o.period * nsUnit : Nat) : Int)

/-- `TBASE_OUT_DELAY` of output k, in 2^−48 ns: by so much its edges lead their instants. -/
def outLead (k : Nat) (s : State) : Int := Int.fdiv (signed 16 (s.fld (F.TBASE_OUT_DELAY_DELAY_PS k)) * (nsUnit : Int)) 1000

/-- The next instant of output k that it has yet to drive: no sooner than 1,024 TCLK after an alignment (R188), than the end of the last
pulse, or than an edge could still lead it; past the wrap of the value it is an instant of the value that starts again from 0 (R159). -/
def nextInstant (k : Nat) (s : State) : Int :=
  let o := s.out k
  let aligned := (s.tb.value : Int) + ((o.earliest : Int) - s.clk.tclk) * incCur s
  let w : Int := (tbWrap (tbFormat s) : Nat)
  let from' := max (max aligned o.pulseEnd) ((s.tb.value : Int) + outLead k s)
  let v := outInstant o from'
  if v < w then v else w + outInstant o (max 0 (from' - w))

/-- Where the edge for a value `v` of output k lies, in 1/256 TCLK from now, to the nearest (R186). -/
def edgePlace (k : Nat) (v : Int) (s : State) : Nat :=
  (Int.fdiv ((v - outLead k s - s.tb.value) * 512 + incCur s) (2 * incCur s)).toNat

/-! ### The reference edge (R178) -/

/-- The timeline of the TCLK edge `ago` cycles back, and its value there: where an apply edge has come since, the one that the first
such edge ended. -/
def timeAt (ago : Nat) (s : State) : TbPast :=
  let e := s.clk.tclk - ago
  let back (value edge inc : Nat) : Nat :=
    (((value : Int) - (((edge - e) * inc : Nat) : Int)) % (tbWrap (tbFormat s) : Int)).toNat
  match s.tb.past.reverse.find? fun p => decide (e < p.edge) with
  | some p => { p with value := back p.value p.edge p.inc }
  | none => { edge := s.clk.tclk, value := back s.tb.value s.clk.tclk (incCur s), inc := incCur s, epoch := epochNow s, moved := s.tb.moved }

/-! ### The transmit FIFO (R195) -/

/-- A record enters the FIFO, or is dropped and counted on a full one. -/
def txtsPush (r : TxtsRec) (s : State) : State :=
  if s.tb.fifo.length < 512 then
    (s.updTb fun t => { t with fifo := t.fifo ++ [r] }).raiseIf s.tb.fifo.isEmpty F.TBASE_INT_STATUS_TXTS_AVAIL
  else (s.bump32 Reg.TBASE_TXTS_OVF 1 (some F.TBASE_INT_STATUS_CNT_OVF)).raise F.TBASE_INT_STATUS_TXTS_OVF

def actTxtsPop (_old raw : Word) (s : State) : State :=
  if bit raw 0 then s.updTb fun t => { t with fifo := t.fifo.drop 1 } else s

/-! ### Commands of the time base -/

/-- A write of `TBASE_CMD`. -/
def tbaseCmdWrite (ag : Agent) (d : Word) (s : State) : Host.Outcome State Fault Refusal :=
  whenMain s (regWrite ag Reg.TBASE_CMD Rd.TBASE_CMD actTbaseCmd allBits d)

def execApplyInc (ag : Agent) (d : Word) (s : State) : Host.Outcome State Fault Refusal :=
  tbaseCmdWrite ag (d ||| 1) s
def execStep (ag : Agent) (d : Word) (s : State) : Host.Outcome State Fault Refusal := tbaseCmdWrite ag (d ||| 2) s
def execLoad (ag : Agent) (d : Word) (s : State) : Host.Outcome State Fault Refusal := tbaseCmdWrite ag (d ||| 4) s
def execSnap (ag : Agent) (d : Word) (s : State) : Host.Outcome State Fault Refusal := tbaseCmdWrite ag (d ||| 8) s
def execCancel (ag : Agent) (d : Word) (s : State) : Host.Outcome State Fault Refusal := tbaseCmdWrite ag (d ||| 16) s
def execClrOutage (ag : Agent) (d : Word) (s : State) : Host.Outcome State Fault Refusal :=
  tbaseCmdWrite ag (d ||| 32) s

/-- R558: the record of a frame enters the FIFO after the frame's last word. -/
def execTxtsRecordWrite (id : Nat) (s : State) : Host.Outcome State Fault Refusal :=
  whenMain s fun s =>
    match s.tb.txWait.find? (fun p => p.1 == id) with
    | some (_, r) => txtsPush r (s.updTb fun t => { t with txWait := t.txWait.filter (fun p => p.1 != id) })
    | none => s

def execTxtsPop (ag : Agent) (d : Word) (s : State) : Host.Outcome State Fault Refusal :=
  whenMain s (regWrite ag Reg.TBASE_TXTS_POP Rd.TBASE_TXTS_POP actTxtsPop allBits (d ||| 1))
def execOutputEnable (ag : Agent) (k : Fin 5) (d : Word) (s : State) : Host.Outcome State Fault Refusal :=
  whenMain s (regWrite ag (Reg.TBASE_OUT_CTRL k) Rd.TBASE_OUT_CTRL (actOutCtrl k) allBits (d ||| 1))
def execOutputDisable (ag : Agent) (k : Fin 5) (d : Word) (s : State) : Host.Outcome State Fault Refusal :=
  whenMain s (regWrite ag (Reg.TBASE_OUT_CTRL k) Rd.TBASE_OUT_CTRL (actOutCtrl k) allBits (d &&& ~~~1))
def execRealign (ag : Agent) (k : Fin 5) (d : Word) (s : State) : Host.Outcome State Fault Refusal :=
  whenMain s (regWrite ag (Reg.TBASE_OUT_CMD k) Rd.TBASE_OUT_CMD (actOutCmd k) allBits (d ||| 1))

/-- R189: a write of PERIOD, PHASE or WIDTH. -/
def execOutParamWrite (ag : Agent) (k : Fin 5) (which : Fin 3) (d : Word) (s : State) :
    Host.Outcome State Fault Refusal :=
  whenMain s (match which with
    | 0 => regWrite ag (Reg.TBASE_OUT_PERIOD k) Rd.TBASE_OUT_PERIOD (actOutPeriod k) allBits d
    | 1 => regWrite ag (Reg.TBASE_OUT_PHASE k) Rd.TBASE_OUT_PHASE noAct allBits d
    | 2 => regWrite ag (Reg.TBASE_OUT_WIDTH k) Rd.TBASE_OUT_WIDTH (actOutWidth k) allBits d)

end Sys2Proof.Machine
end

