-- ==== Sys2Proof/Machine/Faults.lean ====
section
/-!
DEFINITION. Sys2Proof/Machine/Faults.lean: the counting, logging and yield of a fault (16_fault_coverage_and_exact_latencies.md, R543,
R553 to R555), which every block that informs the fault supervisor uses, with the part of the role table that a yield needs
(R498, R500, R501) and the gates that a role opens and shuts (R502).
-/
namespace Sys2Proof.Machine

/-- ROLE: 0 SOLO, 1 SHADOW, 2 LEAD, 3 ISOLATED, 4 CLAIMING, 5 SPLIT_LEAD. -/
def roleOf (s : State) : Nat := s.fld F.TWIN_LIVE_ROLE

/-- TWIN_OK (R561). -/
def twinOk (s : State) : Bool :=
  !(decide (roleOf s = 2 ∨ roleOf s = 5) &&
    (!s.flag F.TWIN_LIVE_LINK_OK || decide (s.fld F.TWIN_LIVE_PEER_ROLE ≠ 1)))

/-- The conditions of `FLT_LIVE` are shown anew; COVERED falling sets COVER_LOST (R543). -/
def settleCover (s : State) : State :=
  let ecc := s.flag F.FLT_CTRL_ECC_EN && s.flag F.FLT_CTRL_SCRUB_EN
  let audit := s.flag F.BUF_AUDIT_EN && decide (s.fld F.BUF_AUDIT_PASS_MS ≤ 64)
  let wdog := decide (s.fld F.FLT_WDOG_CORE_EN ≠ 0 ∧ s.fld F.FLT_LIVE_HUNG = 0)
  let twin := twinOk s
  let cov := ecc && audit && wdog && twin
  let s1 := (((s.setFlag F.FLT_LIVE_ECC_SCRUB_OK ecc).setFlag F.FLT_LIVE_AUDIT_OK audit).setFlag F.FLT_LIVE_WDOG_OK
    wdog).setFlag F.FLT_LIVE_TWIN_OK twin |>.setFlag F.FLT_LIVE_COVERED cov
  s1.raiseIf (s.flag F.FLT_LIVE_COVERED && !cov) F.FLT_INT_STATUS_COVER_LOST

/-- ADV of a role (R500), that of SOLO, which the rule leaves open, at its reset value (DESIGN CHOICE, log 28). -/
def advOf (r : Nat) : Nat :=
  match r with
  | 1 => 1
  | 3 => 2
  | 4 => 2
  | 5 => 3
  | _ => 0

/-! ### Clock outputs and gates (R271, R273, R502) -/

def clkoutReset (_ : Nat) : ClkoutSt := {}
def State.updLoop (s : State) (f : LoopSt → LoopSt) : State := { s with loop := f s.loop }
def State.clkout (s : State) (k : Nat) : ClkoutSt := smapGet clkoutReset s.loop.outs k
def State.updClkout (s : State) (k : Nat) (f : ClkoutSt → ClkoutSt) : State :=
  s.updLoop fun l => { l with outs := smapSet clkoutReset l.outs k (f (s.clkout k)) }

/-- The high time of an output in VCO cycles of 80 ps: of an odd DIV one longer than the low time (R271). -/
def clkHigh (o : ClkoutSt) : Nat := (o.div + 1) / 2

/-- The first falling edge at or after VCO cycle `x` of an output that runs. -/
def clkFall (o : ClkoutSt) (x : Nat) : Nat :=
  let f := o.rise + clkHigh o
  f + (x - f + o.div - 1) / o.div * o.div

/-- The level of CLKOUT k_P in VCO cycle `x` (R271, R273): high for `clkHigh` cycles of each DIV from its first rising edge on. -/
def clkLevel (o : ClkoutSt) (x : Nat) : Bool :=
  (o.running || decide (x < o.fell)) && decide (o.rise ≤ x ∧ (x - o.rise) % o.div < clkHigh o)

/-- The first rising edge at or after VCO cycle `x` of an output that runs. -/
def clkRise (o : ClkoutSt) (x : Nat) : Nat := o.rise + (x - o.rise + o.div - 1) / o.div * o.div

/-- What CLKOUT k_P is driven to in VCO cycle `x`: its level while its gate is open, else low (R502). -/
def clkPin (o : ClkoutSt) (x : Nat) : Bool := clkLevel o x && ((o.gate && decide (o.gateOn ≤ x)) || decide (x < o.gateOff))

/-- The gate of an output opens, from its next rising edge on, or shuts, after the high time in progress; its alignment stays (R502). -/
def clkGate (x : Nat) (up : Bool) (o : ClkoutSt) : ClkoutSt :=
  if o.gate = up then o
  else if up then { o with gate := true, gateOn := if clkLevel o x then clkRise o x else x }
  else { o with gate := false, gateOff := if clkPin o x then clkFall o x else x }

/-- Whether an output's gate is open (R502): pulse output k, or clock output k − 8. -/
def gateOpen (k : Nat) (s : State) : Bool := !s.rbit Reg.TWIN_ROLE_GATE k || decide (roleOf s = 2 ∨ roleOf s = 5)

/-- The gates of the clock outputs follow the role and `TWIN_ROLE_GATE`; a pulse output asks for its gate at each active edge. -/
def settleGates (s : State) : State :=
  forUpto 4 (fun k s => s.updClkout k (clkGate (16 * s.clk.tclk) (gateOpen (8 + k) s))) s

/-- What a write of `TWIN_ROLE_GATE` sets off. -/
def actRoleGate (_old _raw : Word) (s : State) : State := settleGates s

/-! ### Roles (R501) -/

def State.updTwin (s : State) (f : TwinSt → TwinSt) : State := { s with twin := f s.twin }

def linkReset (_ : Nat) : LinkSt := {}
def State.link (s : State) (k : Nat) : LinkSt := smapGet linkReset s.twin.links k
def State.updLink (s : State) (k : Nat) (f : LinkSt → LinkSt) : State :=
  s.updTwin fun t => { t with links := smapSet linkReset t.links k (f (s.link k)) }

/-- A condition of the cross-check changes: it does not hold throughout this window (R509). -/
def xchkBreak (s : State) : State := s.updTwin fun t => { t with xok := false }

/-- The HELLO frames in a row that showed the peer leading count from the entry into a role that leads (R501, log 28). -/
def leadsAnew (r : Nat) (s : State) : State := if r = 2 ∨ r = 5 then s.updLink 0 fun l => { l with leads := 0 } else s

/-- A change of ROLE (R501). -/
def setRole (r : Nat) (s : State) : State :=
  if roleOf s = r then s
  else leadsAnew r <|
    let s1 := settleGates (xchkBreak
      (((s.setFld F.TWIN_LIVE_ROLE r).setFld F.TWIN_LIVE_ADV (advOf r)).raise F.TWIN_INT_STATUS_ROLE_CHANGE))
    settleCover (s1.raiseIf (decide (r = 4 ∨ r = 5)) F.TWIN_INT_STATUS_SPLIT)

/-- The YIELD command (R498, R501): YIELDING sets, and a part in LEAD becomes SHADOW. -/
def yieldPart (s : State) : State :=
  let s1 := s.setFlag F.TWIN_LIVE_YIELDING true
  if roleOf s = 2 then setRole 1 s1 else s1

/-- The time base as a log shows it: seconds and nanoseconds, or count [61:30] and [29:0] (R563). -/
def logTime (s : State) : Nat × Nat :=
  let ns := s.tb.value / nsUnit
  if tbFormat s = 1 then (ns / 1000000000 % 2 ^ 32, ns % 1000000000) else (ns / 2 ^ 30 % 2 ^ 32, ns % 2 ^ 30)

/-- Write one entry of the log (R554, R563). -/
def logEntry (cls block sub addr : Nat) (s : State) : State :=
  let i := s.fld F.FLT_LOG_HEAD_NEXT
  let seq := s.fld F.FLT_LOG_HEAD_SEQ_NEXT
  let used := decide ((s.reg (Reg.FLT_LOG (4 * i))).toNat % 256 ≠ 0)
  let t := logTime s
  let s1 := s.setRegs (Reg.FLT_LOG (4 * i))
    [BitVec.ofNat 32 (cls + block * 2 ^ 8 + seq * 2 ^ 16), BitVec.ofNat 32 (addr % 2 ^ 24 + sub * 2 ^ 24),
     BitVec.ofNat 32 t.1, BitVec.ofNat 32 t.2]
  ((s1.setFld F.FLT_LOG_HEAD_NEXT (i + 1)).setFld F.FLT_LOG_HEAD_SEQ_NEXT (seq + 1)).raiseIf used
    F.FLT_INT_STATUS_LOG_OVERWRITE

/-- A fault of a class is counted, logged and raised, with a yield where configured (R553, R555). -/
def faultLog (cls block sub addr : Nat) (s : State) : State :=
  let k := cls - 1
  let s1 := (s.bump32 (Reg.FLT_CLASS_COUNT k) 1 (some F.FLT_INT_STATUS_CNT_OVF)).raise ⟨Reg.FLT_CLASS_PEND, cls, 1⟩
  let s2 := if s.flag (F.FLT_CLASS_CFG_LOG_EN k) then logEntry cls block sub addr s1 else s1
  let s3 := s2.raiseIf (s.flag (F.FLT_CLASS_CFG_INT_EN k)) F.FLT_INT_STATUS_FAULT
  if s.flag (F.FLT_CLASS_CFG_YIELD k) ∧ (roleOf s = 2 ∨ roleOf s = 5) then yieldPart s3 else s3

/-- The next free value (log 20). -/
def State.draw (s : State) : Nat × State := ((Config.freeValue s.free).toNat, { s with free := s.free + 1 })

/-- A fault of a class for which no rule gives the SUB, and perhaps not the ADDR: they are free (log 20). -/
def faultOpen (cls block : Nat) (addr : Option Nat) (s : State) : State :=
  let (v, s1) := s.draw
  faultLog cls block (v % 256) (addr.getD (v / 256)) s1

end Sys2Proof.Machine
end

