-- ==== Sys2Proof/Machine/Code8b10b.lean ====
section
/-!
DEFINITION. Sys2Proof/Machine/Code8b10b.lean: the 8b/10b code of IEEE 802.3 Clause 36, which the auxiliary lanes follow (R138
to R141). The spec names the tables without printing them; they are taken from the standard (PRESUMED, log 9).
-/
namespace Sys2Proof.Machine

/-- The six bits abcdei of a data value 0 to 31 at negative running disparity, a first. -/
def code6 : List Nat :=
  [0b100111, 0b011101, 0b101101, 0b110001, 0b110101, 0b101001, 0b011001, 0b111000] ++
  [0b111001, 0b100101, 0b010101, 0b110100, 0b001101, 0b101100, 0b011100, 0b010111] ++
  [0b011011, 0b100011, 0b010011, 0b110010, 0b001011, 0b101010, 0b011010, 0b111010] ++
  [0b110011, 0b100110, 0b010110, 0b110110, 0b001110, 0b101110, 0b011110, 0b101011]

/-- The four bits fghj of a data value 0 to 7 at negative running disparity. -/
def code4 : List Nat := [0b1011, 0b1001, 0b0101, 0b1100, 0b1101, 0b1010, 0b0110, 0b1110]

/-- The four bits fghj of K28.y after 001111. -/
def code4K : List Nat := [0b0100, 0b1001, 0b0101, 0b0011, 0b0010, 0b1010, 0b0110, 0b1000]

/-- How many of the low `n` bits are 1. -/
def onesIn : Nat → Nat → Nat
  | 0, _ => 0
  | n + 1, x => x % 2 + onesIn n (x / 2)

/-- The disparity after a sub-block of `n` bits, starting from `plus`. -/
def rdAfter (n x : Nat) (plus : Bool) : Bool := if 2 * onesIn n x = n then plus else !plus

/-- A six-bit sub-block at the running disparity: the complement at positive disparity where it is not balanced, and for
D.7. -/
def six (x : Nat) (plus : Bool) : Nat :=
  let c := code6.getD x 0
  if plus ∧ (2 * onesIn 6 c ≠ 6 ∨ x = 7) then 63 - c else c

/-- A four-bit sub-block of a data character, after the six-bit sub-block; the alternate of x.7 where it applies. -/
def four (x y : Nat) (plus : Bool) : Nat :=
  let alt := y = 7 ∧ ((plus = false ∧ (x = 17 ∨ x = 18 ∨ x = 20)) ∨ (plus = true ∧ (x = 11 ∨ x = 13 ∨ x = 14)))
  let c := if alt then (if plus then 0b1000 else 0b0111) else code4.getD y 0
  if alt then c else if plus ∧ (2 * onesIn 4 c ≠ 4 ∨ y = 3) then 15 - c else c

/-- The ten bits of a data character, a first. -/
def codeD (x y : Nat) (plus : Bool) : Nat :=
  let s := six x plus
  16 * s + four x y (rdAfter 6 s plus)

/-- The ten bits of a K-character: K28.y, and x.7 for x of 23, 27, 29 and 30. -/
def codeK (x y : Nat) (plus : Bool) : Nat :=
  let c := if x = 28 then 16 * 0b001111 + code4K.getD y 0 else 16 * code6.getD x 0 + 0b1000
  if plus then 1023 - c else c

/-- The valid K-characters: (x, y). -/
def kChars : List (Nat × Nat) :=
  [(28, 0), (28, 1), (28, 2), (28, 3), (28, 4), (28, 5), (28, 6), (28, 7), (23, 7), (27, 7), (29, 7), (30, 7)]

/-- The character of a ten-bit code (a first) at a running disparity: the byte with the K flag as bit 8; none where no
character has this code at this disparity. -/
def decodeAt (plus : Bool) (c : Nat) : Option Nat :=
  match kChars.find? (fun p => codeK p.1 p.2 plus == c) with
  | some (x, y) => some (256 + 32 * y + x)
  | none => (List.range 256).find? (fun b => codeD (b % 32) (b / 32) plus == c)

/-- The ten received bits, first bit in bit 0 (R137), as a code with its first bit highest. -/
def rev10 (g : Nat) : Nat :=
  (List.range 10).foldl (fun a i => 2 * a + g / 2 ^ i % 2) 0

/-- The disparity that a code ends on, from the running disparity before it. -/
def endPlus (c : Nat) (plus : Bool) : Bool := rdAfter 4 (c % 16) (rdAfter 6 (c / 16) plus)

/-- Whether a ten-bit code is K28.5 in either disparity (R137). -/
def isK285 (c : Nat) : Bool := c == 0b0011111010 || c == 0b1100000101

end Sys2Proof.Machine
end

