-- ==== Sys2Proof/Machine/LaneWords.lean ====
section
/-!
DEFINITION. Sys2Proof/Machine/LaneWords.lean: the records of the lanes, and what a lane sends, word by word (03_serial_lanes.md, R109,
R114, R140, R142, R145 to R149, R153, R156; 17_test_access.md, R574). A lane's words are not stepped: the word of an index is a function of the
state (log 9).
-/
namespace Sys2Proof.Machine

/-! ### Records and per-lane fields -/

/-- A lane before anything has happened to it: the preset in force is the reset value of its words. -/
def laneReset (n : Nat) : LaneSt :=
  if n < 768 then { preset0 := dlnWordReset 0, preset1 := dlnWordReset 1 } else { preset0 := alnWordReset 0 }

/-- The record of a lane: data lanes 0 to 767, auxiliary lanes 768 to 799. -/
def State.lane (s : State) (n : Nat) : LaneSt := smapGet laneReset s.lanes n

/-- Change the record of a lane. -/
def State.updLane (s : State) (n : Nat) (f : LaneSt → LaneSt) : State :=
  { s with lanes := smapSet laneReset s.lanes n (f (s.lane n)) }

/-- A lane's place among all lanes. -/
def laneIdx : LaneId → Nat
  | .data n => n.val
  | .aux m => 768 + m.val

/-- A per-lane cause of DLN_INT_STATUS, from the cause's lane 0 bit (R151). -/
def dlnCause (n base : Nat) : Fld := ⟨Reg.DLN_INT_STATUS (n / 4), base + n % 4, 1⟩

/-- SIGNAL, CDR_LOCK, PRBS_LOCKED of a lane of either kind (R153, R156). -/
def sigFld : LaneId → Fld
  | .data n => F.DLN_LANE_STATUS_SIGNAL n
  | .aux m => F.ALN_LANE_STATUS_SIGNAL m
def cdrFld : LaneId → Fld
  | .data n => F.DLN_LANE_STATUS_CDR_LOCK n
  | .aux m => F.ALN_LANE_STATUS_CDR_LOCK m
def prbsLockedFld : LaneId → Fld
  | .data n => F.DLN_LANE_STATUS_PRBS_LOCKED n
  | .aux m => F.ALN_LANE_STATUS_PRBS_LOCKED m

/-- CFG_REJECT and PRBS_LOST of a lane, and LOS. -/
def cfgRejectFld : LaneId → Fld
  | .data n => dlnCause n 20
  | .aux m => F.ALN_INT_STATUS_CFG_REJECT m
def prbsLostFld : LaneId → Fld
  | .data n => dlnCause n 16
  | .aux m => F.ALN_INT_STATUS_PRBS_LOST m
def losFld : LaneId → Fld
  | .data n => dlnCause n 0
  | .aux m => F.ALN_INT_STATUS_LOS m

/-- Fields of a lane's controls: LOOPBACK, TX_INV, RX_INV, TX_SQUELCH, GEN_PAT, CHK_PAT, PERIOD. -/
def loopFld : LaneId → Fld
  | .data n => F.DLN_LANE_CTRL_LOOPBACK n
  | .aux m => F.ALN_CTRL_LOOPBACK m
def txInvFld : LaneId → Fld
  | .data n => F.DLN_LANE_CTRL_TX_INV n
  | .aux m => F.ALN_CTRL_TX_INV m
def rxInvFld : LaneId → Fld
  | .data n => F.DLN_LANE_CTRL_RX_INV n
  | .aux m => F.ALN_CTRL_RX_INV m
def squelchFld : LaneId → Fld
  | .data n => F.DLN_LANE_CTRL_TX_SQUELCH n
  | .aux m => F.ALN_CTRL_TX_SQUELCH m
def genPatFld : LaneId → Fld
  | .data n => F.DLN_PRBS_CTRL_GEN_PAT n
  | .aux m => F.ALN_PRBS_CTRL_GEN_PAT m
def chkPatFld : LaneId → Fld
  | .data n => F.DLN_PRBS_CTRL_CHK_PAT n
  | .aux m => F.ALN_PRBS_CTRL_CHK_PAT m
def injPeriodFld : LaneId → Fld
  | .data n => F.DLN_ERR_INJ_PERIOD n
  | .aux m => F.ALN_ERR_INJ_PERIOD m

/-- The transmit PLL of a lane: that of its chiplet, or the auxiliary one (R110, R586). -/
def pllOf : LaneId → Nat
  | .data n => n.val / 128
  | .aux _ => 6

/-- The number of an auxiliary or data lane as a lane: 0 to 767, and from 768 the auxiliary ones. -/
def laneAt (n : Nat) : LaneId := if h : n < 768 then .data ⟨n, h⟩ else .aux (Fin.ofNat 32 (n - 768))

/-- Whether a transmit PLL is locked. -/
def State.pllLocked (s : State) (k : Nat) : Bool := s.lanePll.toNat.testBit k

/-! ### Words and bits (R109) -/

/-- The word-clock period of a lane in units of 1/425 ns: 64 symbols of a data lane; 20 bits of an auxiliary lane. -/
def wordPeriod (l : LaneId) (rate : Nat) : Nat :=
  match l with
  | .data _ => if rate = 0 then 256 else 512
  | .aux _ => nth 6800 [6800, 2720, 1360, 680] rate

/-- The lane words since TCLK began, one TCLK cycle being 544/425 ns. -/
def wordIndex (s : State) (l : LaneId) : Nat := s.clk.tclk * 544 / wordPeriod l (s.lane (laneIdx l)).rate

/-- The bits of a lane word. A data lane's symbol i has bit 2i, sent first, the more significant of its Gray-coded pair, and 2i + 1. -/
def wordBits : LaneId → Nat
  | .data _ => 128
  | .aux _ => 20

/-- The low bits of a 128-bit value that make a lane word. -/
def wordMask (l : LaneId) : BitVec 128 := BitVec.ofNat 128 (2 ^ wordBits l - 1)

/-- What inverts a word's polarity: a PAM4 level L becomes 3 − L, which flips the more significant Gray-coded bit; a bit is flipped. -/
def invMask : LaneId → BitVec 128
  | .data _ => 0x55555555555555555555555555555555#128
  | .aux _ => 0xFFFFF#128

/-- The bit that an injected error flips (R148). -/
def injMask : LaneId → BitVec 128
  | .data _ => 2
  | .aux _ => 1

/-! ### Patterns (R145) -/

/-- The exponents of a pattern's polynomial beside 0, and whether its sequence is inverted; none for the codes that are no PRBS
(PRESUMED from IEEE 802.3, log 9). -/
def prbsTaps (l : LaneId) (code : Nat) : Option (List Nat × Bool) :=
  match l, code with
  | .data _, 1 | .aux _, 1 => some ([7, 6], false)
  | .data _, 2 => some ([9, 5], false)
  | .data _, 3 => some ([13, 12, 2, 1], false)
  | .data _, 4 | .aux _, 2 => some ([15, 14], false)
  | .data _, 5 | .aux _, 3 => some ([23, 18], false)
  | .data _, 6 | .aux _, 4 => some ([31, 28], true)
  | _, _ => none

/-- The next bit of a sequence from those before it, the latest in bit 0. -/
def prbsBit (taps : List Nat) (inv : Bool) (hist : Nat) : Bool := taps.foldl (fun b k => b ^^ hist.testBit (k - 1)) inv

/-- `n` more bits of a sequence: the history after them, the latest in bit 0. -/
def prbsRun (taps : List Nat) (inv : Bool) : Nat → Nat → Nat
  | 0, h => h
  | n + 1, h => prbsRun taps inv n ((2 * h + (if prbsBit taps inv h then 1 else 0)) % 2 ^ 128)

/-- The `w` latest bits of a history as a word, the first of them in bit 0. -/
def histWord (w : Nat) (hist : BitVec 128) : BitVec 128 :=
  BitVec.ofNat 128 ((upto w).map fun i => if hist.getLsbD (w - 1 - i) then 2 ^ i else 0).sum

/-- A history of 128 bits, the latest in bit 0, one word of a pattern later. -/
def nextPattern (l : LaneId) (code : Nat) (hist : BitVec 128) : BitVec 128 :=
  match prbsTaps l code with
  | some (taps, inv) => BitVec.ofNat 128 (prbsRun taps inv (wordBits l) hist.toNat)
  | none => Config.ssprqNext hist

/-- A history `n` words of a pattern later. -/
def patternAfter (l : LaneId) (code : Nat) : Nat → BitVec 128 → BitVec 128
  | 0, x => x
  | n + 1, x => patternAfter l code n (nextPattern l code x)

/-- How many bits of a received word differ from the word that a checker's own generator forms next from a history (R147). -/
def wordErrors (l : LaneId) (code : Nat) (hist x : BitVec 128) : Nat :=
  let d := histWord (wordBits l) (nextPattern l code hist) ^^^ x
  ((upto (wordBits l)).filter fun i => d.getLsbD i).length

/-! ### Characters (R140, R142, R574) -/

/-- The ten bits of a character slot, first bit in bit 0, and the disparity after it: a byte with its K flag as bit 8. A K flag on a byte
that is no K-character gives K28.5. -/
def encodeChar (c : Nat) (plus : Bool) : Nat × Bool :=
  let k := decide (256 ≤ c % 512)
  let x := c % 32
  let y := c / 32 % 8
  let code := if k then (if kChars.contains (x, y) then codeK x y plus else codeK 28 5 plus) else codeD x y plus
  (rev10 code, endPlus code plus)

/-- Two characters as a word of 20 bits, and the disparity after them. -/
def encodeWord (c0 c1 : Nat) (plus : Bool) : BitVec 128 × Bool :=
  let a := encodeChar c0 plus
  let b := encodeChar c1 a.2
  (BitVec.ofNat 128 (a.1 + b.1 * 2 ^ 10), b.2)

/-! ### The words of a Plahus link (R487) -/

/-- The words from the start word to the end word of a frame: TYPE, body and CRC. -/
def lineWords (bs : List Byte) : Nat := (bs.length - 1) / 2 + 2

/-- The characters of word `i` of a frame: K27.7 with TYPE, two bytes at a time, K29.7 D21.5. -/
def frameChars (bs : List Byte) (i : Nat) : Nat × Nat :=
  if i = 0 then (0x1FB, (nth 0 bs 0).toNat)
  else if i + 1 = lineWords bs then (0x1FD, 0xB5)
  else ((nth 0 bs (2 * i - 1)).toNat, (nth 0 bs (2 * i)).toNat)

/-- The characters of word `n`: those of the frame that it falls in, or idle, K28.5 D16.2. -/
def lineChars (line : List (Nat × List Byte)) (n : Nat) : Nat × Nat :=
  match line.find? fun f => decide (f.1 ≤ n ∧ n < f.1 + lineWords f.2) with
  | some f => frameChars f.2 (n - f.1)
  | none => (0x1BC, 0x50)

/-- A frame joins those that wait: a SYNC goes ahead of every one that is no SYNC (R489). -/
def enqueue (bs : List Byte) (waiting : List (List Byte)) : List (List Byte) :=
  if nth 0 bs 0 = 2 then waiting.takeWhile (fun w => nth 0 w 0 == 2) ++ bs :: waiting.dropWhile (fun w => nth 0 w 0 == 2)
  else waiting ++ [bs]

/-- The frames that have yet to start at word `now`, and the first word from which another may start. -/
def lineWaiting (now : Nat) (line : List (Nat × List Byte)) : List (List Byte) :=
  (line.filter fun f => decide (now < f.1)).map (·.2)
def lineFree (now : Nat) (line : List (Nat × List Byte)) : Nat :=
  (line.filter fun f => decide (f.1 ≤ now)).foldl (fun k f => max k (f.1 + lineWords f.2 + 1)) (now + 1)

/-- Frames one after the other from word `first` on, an idle word between two. -/
def placeFrames : Nat → List (List Byte) → List (Nat × List Byte)
  | _, [] => []
  | first, bs :: rest => (first, bs) :: placeFrames (first + lineWords bs + 1) rest

/-- The line once a frame is handed over at word `now`: the frames that have started stay, and end before any other starts; those that have
ended are forgotten. -/
def lineWith (now : Nat) (bs : List Byte) (line : List (Nat × List Byte)) : List (Nat × List Byte) :=
  line.filter (fun f => decide (f.1 ≤ now ∧ now < f.1 + lineWords f.2)) ++ placeFrames (lineFree now line) (enqueue bs (lineWaiting now line))

/-- The word at which a SYNC handed over at word `now` starts. -/
def syncPlace (now : Nat) (line : List (Nat × List Byte)) : Nat :=
  ((lineWaiting now line).takeWhile fun w => nth 0 w 0 == 2).foldl (fun k w => k + lineWords w + 1) (lineFree now line)

/-! ### The encoder (R140, R142) -/

/-- `n` applications of a function of the disparity. -/
def disparityAfter (f : Bool → Bool) (n : Nat) (b : Bool) : Bool := if n = 0 then b else if n % 2 = 1 then f b else f (f b)

/-- The two characters that an auxiliary lane repeats, where it repeats any: K28.5, K28.7, or the raw word of MODE 2. -/
def repeated (s : State) (m : Fin 32) : Option (Nat × Nat) :=
  let g := s.fld (F.ALN_PRBS_CTRL_GEN_PAT m)
  if g = 5 then some (0x1BC, 0x1BC)
  else if g = 6 then some (0x1FC, 0x1FC)
  else if g = 0 ∧ (s.lane (768 + m)).mode = 2 then some (bits (s.reg (Reg.TST_RAW_TX m)) 0 9, bits (s.reg (Reg.TST_RAW_TX m)) 10 9)
  else none

/-- The characters of word `n` of an auxiliary lane's traffic: of a Plahus link, or of a timing port's PCS, which are free. -/
def trafficChars (s : State) (m : Fin 32) (n : Nat) : Nat × Nat :=
  if (s.lane (768 + m)).mode = 1 then lineChars (s.lane (768 + m)).line n else Config.pcsChars m n

/-- The disparity after `k` words of characters from word `n` on. -/
def disparityOver (chars : Nat → Nat × Nat) : Nat → Nat → Bool → Bool
  | 0, _, p => p
  | k + 1, n, p => disparityOver chars k (n + 1) (encodeWord (chars n).1 (chars n).2 p).2

/-- The encoder's running disparity before the word `n`. Patterns bypass the encoder. -/
def encoderPlus (s : State) (m : Fin 32) (n : Nat) : Bool :=
  let l := s.lane (768 + m)
  match repeated s m with
  | some (a, b) => disparityAfter (fun p => (encodeWord a b p).2) (n - l.plusAt) l.txPlus
  | none =>
    if s.fld (F.ALN_PRBS_CTRL_GEN_PAT m) ≠ 0 then l.txPlus
    else disparityOver (trafficChars s m) (n - l.plusAt) l.plusAt l.txPlus

/-! ### The words of a lane (R146, R148, R149) -/

/-- BOARD_TEST: an instruction of R567 is current, and the pins are not the core's. -/
def boardTest (s : State) : Bool := [0x00#8, 0x03#8, 0x04#8, 0x05#8, 0x06#8].contains s.tap.ir

/-- The word that a lane forms for index `n`: a pattern, characters, or a data lane's traffic, which the PCS and the FEC give it (log 31). -/
def formedWord (s : State) (l : LaneId) (n : Nat) : BitVec 128 :=
  let code := s.fld (genPatFld l)
  let pattern := histWord (wordBits l) (patternAfter l code (n + 1 - (s.lane (laneIdx l)).genFrom) (Config.prbsStart code))
  match l with
  | .data d => if code = 0 then Config.traffic d n else pattern
  | .aux m =>
    match repeated s m with
    | some (a, b) => (encodeWord a b (encoderPlus s m n)).1
    | none =>
      if code = 0 then (encodeWord (trafficChars s m n).1 (trafficChars s m n).2 (encoderPlus s m n)).1 else pattern

/-- Whether an injected error falls on word `n` (R148). -/
def injHit (s : State) (l : LaneId) (n : Nat) : Bool :=
  let r := s.lane (laneIdx l)
  let p := s.fld (injPeriodFld l) * 1024
  (r.injAt.contains n) ^^ decide (p ≠ 0 ∧ r.injFrom < n ∧ (n - r.injFrom) % p = 0)

/-- The word that a lane re-sends in far-end loopback: the one that leaves its FIFO, `fill` words behind the latest received. -/
def resentWord (s : State) (l : LaneId) (n : Nat) : BitVec 128 :=
  let r := s.lane (laneIdx l)
  nth (Config.received (laneIdx l) n &&& wordMask l) r.rxWords (r.fill - 1)

/-- The word `n` that a lane hands to its transmitter. -/
def txWord (s : State) (l : LaneId) (n : Nat) : BitVec 128 :=
  let w := if s.fld (loopFld l) = 3 then resentWord s l n else formedWord s l n
  if injHit s l n then w ^^^ injMask l else w

/-- Whether a lane drives its TX balls: enabled, its transmitter running, not squelched, in no board test (R114, R153, R156, R567, R586). -/
def txOn (s : State) (l : LaneId) : Bool :=
  !boardTest s && (s.lane (laneIdx l)).on && s.pllLocked (pllOf l) && !s.flag (squelchFld l) &&
    (match l with
     | .data n => s.flag (F.DLN_LANE_STATUS_TX_READY n)
     | .aux _ => true)

/-- The word `n` at the TX balls; none is zero differential output. -/
def txBalls (s : State) (l : LaneId) (n : Nat) : Option (BitVec 128) :=
  if txOn s l then some (if s.flag (txInvFld l) then txWord s l n ^^^ invMask l else txWord s l n) else none

/-- Whether the words offered to a lane reach its balls: no pattern, no far-end loopback, a transmitter that drives (R146, R149). -/
def laneCarries (s : State) (l : LaneId) : Bool := txOn s l && decide (s.fld (genPatFld l) = 0 ∧ s.fld (loopFld l) ≠ 3)

/-- Whether a lane's receiver is presented with what the lane itself sends (R149): near-end loopback, serial or digital. -/
def hearsSelf (s : State) (l : LaneId) : Bool := decide (s.fld (loopFld l) = 1 ∨ s.fld (loopFld l) = 2)

/-- The word `n` that the receiver is presented with (R149): its own in near-end loopback; else what the RX balls brought. -/
def heardWord (s : State) (l : LaneId) (n : Nat) (balls : BitVec 128) : BitVec 128 :=
  let inv (w : BitVec 128) : BitVec 128 := if s.flag (rxInvFld l) then w ^^^ invMask l else w
  if s.fld (loopFld l) = 1 then inv (if s.flag (txInvFld l) then txWord s l n ^^^ invMask l else txWord s l n)
  else if s.fld (loopFld l) = 2 then txWord s l n
  else inv balls

/-- The encoder's disparity is kept as it stands: what it encodes is about to change. -/
def keepPlus (m : Fin 32) (s : State) : State :=
  s.updLane (768 + m) fun l => { l with txPlus := encoderPlus s m (wordIndex s (.aux m)), plusAt := wordIndex s (.aux m) }

end Sys2Proof.Machine
end

