-- ==== Sys2Proof/Machine/Lanes.lean ====
section
/-!
DEFINITION. Sys2Proof/Machine/Lanes.lean: data lanes and auxiliary lanes (03_serial_lanes.md, R114 to R157, R574, R586):
board-table words, bring-up, adaptation and its freeze, alignment, 8b/10b reception, PRBS, error injection, loopbacks, the lanes of links (R486). The
PRBS generator, which takes a port down, and the two events that bring a timing port up are in Machine/Port.lean.
-/
namespace Sys2Proof.Machine

/-! ### Adaptation (R125 to R132) -/

/-- The word, low bit and signedness of the bound pair of each of the six parameters (R119): CTLE, VGA, DFE1, FPRE1,
FPOST1, FPOST2; and the range of its values. -/
def boundAt (i : Nat) : Nat × Nat := nth (2, 0) [(2, 0), (2, 16), (3, 0), (3, 16), (4, 0), (4, 16)] i
def paramRange (i : Nat) : Int × Int :=
  nth (0, 0) [(0, 31), (0, 63), (-64, 63), (-64, 63), (-64, 63), (-64, 63)] i

/-- A value of a parameter as its byte is read: unsigned for CTLE and VGA, signed for the taps. -/
def paramVal (i byte : Nat) : Int := if i < 2 then (byte : Int) else signed 8 byte

/-- MIN and MAX of a parameter of a data lane, as its board-table words hold them. -/
def boundMin (s : State) (n i : Nat) : Int :=
  paramVal i (s.ifld 2 (n * 32 + (boundAt i).1) (boundAt i).2 8)
def boundMax (s : State) (n i : Nat) : Int :=
  paramVal i (s.ifld 2 (n * 32 + (boundAt i).1) ((boundAt i).2 + 8) 8)

/-- Store a live adapted value: words 16 and 17 of the lane (R119). -/
def setLive (n i : Nat) (x : Int) (s : State) : State :=
  s.setIfld 2 (n * 32 + 16 + i / 4) (8 * (i % 4)) 8 (toBits 8 x)

/-- Show ADAPT_STATE: held while ADAPT_HOLD is 1, else frozen, else the state itself (R130, R132). -/
def showAdapt (n : Nat) (s : State) : State :=
  s.setFld (F.DLN_LANE_STATUS_ADAPT_STATE n)
    (if s.flag (F.DLN_LANE_CTRL_ADAPT_HOLD n) then 4
     else if (s.lane n).frozen then 3 else (s.lane n).phase)

/-- Every value at the midpoint of its bounds, rounded towards zero; coarse state (R125, R126). -/
def startCoarse (n : Nat) (s : State) : State :=
  let s1 := forUpto 6 (fun i s => setLive n i (Int.tdiv (boundMin s n i + boundMax s n i) 2) s) s
  showAdapt n (s1.updLane n fun l =>
    { l with phase := 1, frozen := false, restarted := true, atBound := [0, 0, 0, 0, 0, 0] })

/-- A live adapted value (R119). -/
def liveVal (s : State) (n i : Nat) : Int := paramVal i (s.ifld 2 (n * 32 + 16 + i / 4) (8 * (i % 4)) 8)

/-- A value taken within its bounds. Each arrival at a bound sets ADAPT_CLAMP: a value that stays where it is held does not
arrive again, one that a new bound moves does (R128). -/
def adaptTo (n i : Nat) (x : Int) (s : State) : State :=
  let lo := boundMin s n i
  let hi := boundMax s n i
  let b := if x < lo then 1 else if hi < x then 2 else 0
  let y := clampInt lo hi x
  let was := nth 0 (s.lane n).atBound i
  let stays := decide (liveVal s n i = y)
  let s2 := (setLive n i y s).raiseIf (decide (b ≠ 0) && !(stays && decide (was = b))) (dlnCause n 8)
  s2.updLane n fun l => { l with atBound := setNth l.atBound i (if b ≠ 0 then b else if stays then was else 0) }

/-- One value of an update in the tracking state: one that lies outside new bounds moves to the nearer of them in that update (R128). -/
def adaptOne (n i : Nat) (x : Int) (s : State) : State :=
  let live := liveVal s n i
  adaptTo n i (if boundMin s n i ≤ live ∧ live ≤ boundMax s n i then x else live) s

/-- The values that adaptation has come to, each taken by `one`. -/
def adaptAll (one : Nat → Int → State → State) (v : Adapt) (s : State) : State :=
  one 5 v.fpost2 <| one 4 v.fpost1 <| one 3 v.fpre1 <| one 2 v.dfe1 <| one 1 v.vga <| one 0 v.ctle s

/-- One adaptation update (R128). -/
def adaptUpdate (n : Nat) (v : Adapt) (s : State) : State := adaptAll (adaptOne n) v s

/-- The end of a density window with T transitions (R128 to R132). -/
def densityWindow (n t : Nat) (v : Adapt) (s : State) : State :=
  let d := min (t / 64) 255
  let s1 := s.setFld (F.DLN_DENSITY_LAST n) d
  if d < s.fld (F.DLN_ADAPT_ENTROPY_MIN_MIN (n / 4)) then
    let s2 := s1.setFld (F.DLN_DENSITY_RESUME_COUNT n) 0
    if (s.lane n).frozen then s2
    else showAdapt n ((s2.raise (dlnCause n 12)).updLane n fun l => { l with frozen := true })
  else if (s.lane n).frozen then
    let c := s.fld (F.DLN_DENSITY_RESUME_COUNT n) + 1
    let s2 := s1.setFld (F.DLN_DENSITY_RESUME_COUNT n) c
    if 256 ≤ c then showAdapt n (s2.updLane n fun l => { l with frozen := false }) else s2
  else if (s.lane n).phase = 2 ∧ ¬(s.lane n).lost ∧ s.flag (F.DLN_LANE_CTRL_ADAPT_HOLD n) = false then adaptUpdate n v s1
  else s1

/-! ### Bring-up and loss -/

/-- A lane's word counts start afresh at the rate that its rise of EN took, that of PERIOD with them, and an INJ_ONE that has not fallen on a word
is forgotten (log 14); a rise before the transmit PLL has locked waits for it (R586). -/
def laneStarts (n : Nat) (s : State) : State :=
  let k := wordIndex s (laneAt n)
  s.updLane n fun l =>
    { l with wait := !s.pllLocked (pllOf (laneAt n)), injFrom := k, injAt := [], genFrom := k, plusAt := k, acq := 0, chkGood := 0, line := [] }

/-- A rise of a data lane's EN: RATE sampled, coarse adaptation from the midpoints (R125). -/
def dlnRise (n : Nat) (s : State) : State :=
  startCoarse n (laneStarts n (s.updLane n fun l => { l with on := true, rate := s.fld (F.DLN_LANE_CTRL_RATE n), lost := false }))

/-- A fall of a data lane's EN: no transmitter, no recovered clock, adaptation idle (R114). -/
def dlnFall (n : Nat) (s : State) : State :=
  let s1 := (((s.setFlag (F.DLN_LANE_STATUS_SIGNAL n) false).setFlag (F.DLN_LANE_STATUS_CDR_LOCK n) false).setFlag
    (F.DLN_LANE_STATUS_ALIGNED n) false).setFlag (F.DLN_LANE_STATUS_TX_READY n) false
  showAdapt n ((s1.setFlag (F.DLN_LANE_STATUS_PRBS_LOCKED n) false).updLane n fun l =>
    { l with on := false, phase := 0, frozen := false })

/-- Alignment lost (R127, R135). -/
def loseAlign (n : Nat) (s : State) : State :=
  (s.setFlag (F.DLN_LANE_STATUS_ALIGNED n) false).raise (dlnCause n 4)

/-- A change of LOOPBACK: any but one between modes 0 and 3 drops alignment; far-end loopback starts its FIFO half
full (R135, R149, R150). -/
def dlnLoopback (n o v : Nat) (s : State) : State :=
  let s1 := if v = 3 ∧ o ≠ 3 then s.updLane n fun l => { l with fill := 16 } else s
  if o = v ∨ ((o = 0 ∨ o = 3) ∧ (v = 0 ∨ v = 3)) ∨ (s.lane n).on = false then s1 else loseAlign n s1

/-- What a write of `DLN_LANE_CTRL` sets off (R114, R125, R126, R132, R149). -/
def actDlnLaneCtrl (n : Nat) (old raw : Word) (s : State) : State :=
  let en0 := bit old 0
  let en1 := bit raw 0
  let s1 := if en1 ∧ ¬en0 then dlnRise n s else if en0 ∧ ¬en1 then dlnFall n s else s
  let s2 := dlnLoopback n (bits old 4 2) (bits raw 4 2) s1
  let s3 := if bit raw 7 ∧ en1 ∧ en0 then startCoarse n s2 else s2
  showAdapt n s3

/-! ### The lanes of Plahus links (R486) -/

/-- The auxiliary lane of a link: 0 twin, 1 up, 2 down; and whether the link is in use. -/
def linkLane (s : State) (k : Nat) : Nat :=
  match k with
  | 0 => s.fld F.TWIN_PAIR_CFG_LANE
  | 1 => s.fld F.TWIN_STACK_CFG_LANE_UP
  | _ => s.fld F.TWIN_STACK_CFG_LANE_DOWN
def linkUsed (s : State) (k : Nat) : Bool :=
  match k with
  | 0 => s.flag F.TWIN_CTRL_EN
  | 1 => s.flag F.TWIN_STACK_CFG_EN && s.flag F.TWIN_STACK_CFG_UP_EN
  | _ => s.flag F.TWIN_STACK_CFG_EN && s.flag F.TWIN_STACK_CFG_DOWN_EN

/-- A link's lane is named for no other link and is in MODE 1, as sampled at the last rise of its EN. -/
def linkFits (s : State) (k : Nat) : Bool :=
  decide ((s.lane (768 + linkLane s k)).mode = 1) &&
    (upto 3).all fun j => decide (j = k) || !linkUsed s j || decide (linkLane s j ≠ linkLane s k)

/-- A link that can carry frames; one that fits no lane stays silent. -/
def linkUsable (s : State) (k : Nat) : Bool := linkUsed s k && (s.lane (768 + linkLane s k)).on && linkFits s k

/-- What a change of a link's configuration or of a lane's MODE sets off. -/
def linkCfgCheck (s : State) : State :=
  s.raiseIf ((upto 3).any fun k => linkUsed s k && !linkFits s k) F.TWIN_INT_STATUS_LINK_CFG_REJECT

/-! ### Auxiliary lanes -/

/-- A rise of an auxiliary lane's EN: MODE and RATE sampled; MODE 0 needs 1.25 GBd, and the lane stays disabled (R140, R142, R486). -/
def alnRise (m : Nat) (s : State) : State :=
  let mode := s.fld (F.ALN_CTRL_MODE m)
  let rate := s.fld (F.ALN_CTRL_RATE m)
  if mode = 0 ∧ rate ≠ 0 then
    linkCfgCheck ((s.raise (F.ALN_INT_STATUS_CFG_REJECT m)).updLane (768 + m) fun l => { l with mode := 0 })
  else linkCfgCheck (laneStarts (768 + m) (s.updLane (768 + m) fun l =>
    { l with on := true, mode := mode, rate := rate, txPlus := false, misplaced := false, lost := false }))

/-- Synchronisation lost: SYNC_LOST, and auto-negotiation starts again (R138). -/
def syncLost (m : Nat) (s : State) : State :=
  if s.flag (F.ALN_LANE_STATUS_SYNC m) then
    ((s.setFlag (F.ALN_LANE_STATUS_SYNC m) false).setFlag (F.ALN_LANE_STATUS_AN_COMPLETE m) false).raise
      (F.ALN_INT_STATUS_SYNC_LOST m)
  else s

/-- A fall of an auxiliary lane's EN (R114). -/
def alnFall (m : Nat) (s : State) : State :=
  let s1 := ((s.setFlag (F.ALN_LANE_STATUS_SIGNAL m) false).setFlag (F.ALN_LANE_STATUS_CDR_LOCK m) false).setFlag
    (F.ALN_LANE_STATUS_SYNC m) false
  ((s1.setFlag (F.ALN_LANE_STATUS_PRBS_LOCKED m) false).setFlag (F.ALN_LANE_STATUS_AN_COMPLETE m) false).updLane
    (768 + m) fun l => { l with on := false }

/-- What a write of `ALN_CTRL` sets off (R114, R138, R140, R142, R149). -/
def actAlnCtrl (m : Nat) (old raw : Word) (s : State) : State :=
  let en0 := bit old 0
  let en1 := bit raw 0
  let s1 := if en1 ∧ ¬en0 then alnRise m s else if en0 ∧ ¬en1 then alnFall m s else s
  let s2 := if bits raw 8 2 = 3 ∧ bits old 8 2 ≠ 3 then s1.updLane (768 + m) fun l => { l with fill := 16 } else s1
  if bit raw 12 then syncLost m s2 else s2

/-- Whether board test holds a lane's RX pair from the core (R567); a lane in near-end loopback needs none. -/
def rxTaken (s : State) (l : LaneId) : Bool := boardTest s && !hearsSelf s l

/-- The input exceeded 80 mVppd (R126). -/
def laneSignal (l : LaneId) (s : State) : State :=
  if (s.lane (laneIdx l)).on ∧ ¬(s.lane (laneIdx l)).wait ∧ ¬rxTaken s l then s.setFlag (sigFld l) true else s

/-- The CDR locks; after a loss, adaptation resumes in the tracking state from the held values, unless it was restarted since (R116, R126,
R127). A lane that was frozen at the loss is still frozen (log 14). -/
def laneCdrLock (l : LaneId) (s : State) : State :=
  if (s.lane (laneIdx l)).on ∧ s.flag (sigFld l) then
    let s1 := s.setFlag (cdrFld l) true
    match l with
    | .data n => if (s.lane n).lost then showAdapt n (s1.updLane n fun l =>
      { l with phase := if l.restarted then l.phase else 2, lost := false }) else s1
    | .aux _ => s1
  else s

/-- Loss of signal or of CDR lock (R127); an auxiliary lane's synchronisation fails with it (R138; log 9). -/
def laneLos (l : LaneId) (cdr : Bool) (s : State) : State :=
  let f := if cdr then cdrFld l else sigFld l
  if s.flag f then
    let s1 := ((s.setFlag f false).raise (losFld l)).updLane (laneIdx l) fun l =>
      { l with lost := true, restarted := false, acq := 0 }
    match l with
    | .data n => loseAlign n s1
    | .aux m => syncLost m s1
  else s

/-! ### Board-table words (R119 to R124) -/

/-- The magnitude of a signed tap. -/
def tapMag (b : Nat) : Nat := (signed 8 b).natAbs

/-- Word 1 of a data lane: the whole preset applies where its taps sum to 128 or less (R121). -/
def dlnPresetApply (n : Nat) (d : Word) (s : State) : State :=
  let w0 := s.indw 2 (n * 32)
  let s1 := s.setIndw 2 (n * 32 + 1) (d &&& 0xFF#32)
  if tapMag (bits w0 0 8) + tapMag (bits w0 8 8) + tapMag (bits w0 16 8) + tapMag (bits w0 24 8) + bits d 0 8 ≤ 128 then
    s1.updLane n fun l => { l with preset0 := w0, preset1 := d &&& 0xFF#32 }
  else s1.raise (dlnCause n 20)

/-- Word 0 of an auxiliary lane (R121). -/
def alnPreset (m : Nat) (d : Word) (s : State) : State :=
  let v := d &&& 0xFFFFFF#32
  let s1 := s.setIndw 3 (m * 16) v
  if tapMag (bits v 0 8) + bits v 8 8 + tapMag (bits v 16 8) ≤ 128 then
    s1.updLane (768 + m) fun l => { l with preset0 := v }
  else s1.raise (F.ALN_INT_STATUS_CFG_REJECT m)

/-- One bound pair of a written word: kept where MIN exceeds MAX or a value is out of its range (R122). -/
def boundPair (n i : Nat) (d : Word) (s : State) : State :=
  let (w, lo) := boundAt i
  let mn := paramVal i (bits d lo 8)
  let mx := paramVal i (bits d (lo + 8) 8)
  let (rl, rh) := paramRange i
  if mn ≤ mx ∧ rl ≤ mn ∧ mx ≤ rh then s.setIfld 2 (n * 32 + w) lo 16 (bits d lo 16)
  else s.raise (dlnCause n 20)

/-- One fixed receive setting of an auxiliary lane, in its range or rejected (R122). -/
def alnSetting (m lo hi : Nat) (d : Word) (s : State) : State :=
  if bits d lo 8 ≤ hi then s.setIfld 3 (m * 16 + 1) lo 8 (bits d lo 8) else s.raise (F.ALN_INT_STATUS_CFG_REJECT m)

/-- A write of a data lane's word (R119, R121 to R123). -/
def dlnWordWrite (n w : Nat) (d : Word) (s : State) : State :=
  match w with
  | 0 => s.setIndw 2 (n * 32) d
  | 1 => dlnPresetApply n d s
  | 2 => boundPair n 1 d (boundPair n 0 d s)
  | 3 => boundPair n 3 d (boundPair n 2 d s)
  | 4 => boundPair n 5 d (boundPair n 4 d s)
  | 8 => indStore (0x100 + n / 4) 0 0xFFFFFF#32 2 (n * 32 + 8) d s
  | 9 => indStore (0x100 + n / 4) 0 0xFFFFFF#32 2 (n * 32 + 9) d s
  | _ => s

/-- A write of an auxiliary lane's word (R120 to R123). -/
def alnWordWrite (m w : Nat) (d : Word) (s : State) : State :=
  match w with
  | 0 => alnPreset m d s
  | 1 => alnSetting m 8 63 d (alnSetting m 0 15 d s)
  | 8 => indStore (0x1C0 + m) 0 0xFFFFFF#32 3 (m * 16 + 8) d s
  | 9 => indStore (0x1C0 + m) 0 0xFFFFFF#32 3 (m * 16 + 9) d s
  | _ => s

/-! ### Checkers and injection (R147, R148) -/

/-- The checker has nothing to compare: it is off, or searches again. -/
def checkerSearch (l : LaneId) (s : State) : State :=
  (s.setFlag (prbsLockedFld l) false).updLane (laneIdx l) fun r => { r with chkGood := 0, chkBad := 0 }

/-- The `_LO` words of a lane's bit and error counters, with their overflow. -/
def prbsBitsAt : LaneId → Nat
  | .data n => Reg.DLN_PRBS_BITS_LO n
  | .aux m => Reg.ALN_PRBS_BITS_LO m
def prbsErrAt : LaneId → Nat
  | .data n => Reg.DLN_PRBS_ERR_LO n
  | .aux m => Reg.ALN_PRBS_ERR_LO m
def laneOvf : LaneId → Fld
  | .data n => F.DLN_INT_STATUS_CNT_OVF (n / 4)
  | .aux m => F.ALN_INT_STATUS_CNT_OVF m

/-- The checker part of a write of a PRBS control register: a new checker pattern and CHK_RESEED both make the checker
search again, without PRBS_LOST (R147). -/
def actChecker (l : LaneId) (old raw : Word) (s : State) : State :=
  if bit raw 16 ∨ s.fld (chkPatFld l) ≠ bits old 8 4 then checkerSearch l s else s

/-- What a write of an ERR_INJ register sets off (R148): INJ_ONE hits the next word; the period counts from the write. A lane whose EN is 0
transmits nothing that could be hit. -/
def actErrInj (l : LaneId) (_old raw : Word) (s : State) : State :=
  let k := wordIndex s l
  let one := bit raw 31 && (s.lane (laneIdx l)).on
  s.updLane (laneIdx l) fun r =>
    { r with injected := r.injected + (if one then 1 else 0), injFrom := k,
             injAt := (r.injAt.filter fun i => decide (k < i)) ++ (if one then [k + 1] else []) }

/-! ### The commands of the lanes -/

def execDlnLaneEnable (ag : Agent) (n : Fin 768) (d : Word) (s : State) : Host.Outcome State Fault Refusal :=
  whenMain s (regWrite ag (Reg.DLN_LANE_CTRL n) Rd.DLN_LANE_CTRL (actDlnLaneCtrl n) allBits (d ||| 1))

/-- R126, R586: the transmitter runs once its transmit PLL has locked. -/
def execTxReady (n : Fin 768) (s : State) : Host.Outcome State Fault Refusal :=
  whenMain s fun s =>
    if (s.lane n).on ∧ s.pllLocked (n / 128) then s.setFlag (F.DLN_LANE_STATUS_TX_READY n) true else s

def execSignal (l : LaneId) (s : State) : Host.Outcome State Fault Refusal := whenMain s (laneSignal l)

def execCdrLock (l : LaneId) (s : State) : Host.Outcome State Fault Refusal := whenMain s (laneCdrLock l)

/-- R126: the coarse state ends with the values it reached, held within the bounds. -/
def execCoarseDone (n : Fin 768) (v : Adapt) (s : State) : Host.Outcome State Fault Refusal :=
  whenMain s fun s =>
    let l := s.lane n
    if l.on ∧ l.phase = 1 ∧ ¬l.frozen ∧ ¬l.lost ∧ s.flag (F.DLN_LANE_STATUS_CDR_LOCK n) ∧
        s.flag (F.DLN_LANE_CTRL_ADAPT_HOLD n) = false then
      showAdapt n ((adaptAll (adaptTo n) v s).updLane n fun l => { l with phase := 2 })
    else s

/-- R134: a marker is found, and the latency is fixed. -/
def execAligned (n : Fin 768) (slip : BitVec 6) (s : State) : Host.Outcome State Fault Refusal :=
  whenMain s fun s =>
    if (s.lane n).on ∧ (s.lane n).phase = 2 ∧ ¬(s.lane n).lost ∧ s.flag (F.DLN_LANE_STATUS_CDR_LOCK n) then
      (s.setFld (F.DLN_LANE_STATUS_SLIP n) slip.toNat).setFlag (F.DLN_LANE_STATUS_ALIGNED n) true
    else s

def execLos (l : LaneId) (cdr : Bool) (s : State) : Host.Outcome State Fault Refusal := whenMain s (laneLos l cdr)

/-- R135: the PCS declares loss of marker lock. -/
def execAlignLost (n : Fin 768) (s : State) : Host.Outcome State Fault Refusal :=
  whenMain s fun s => if (s.lane n).on then loseAlign n s else s

def execAdaptRestart (ag : Agent) (n : Fin 768) (d : Word) (s : State) : Host.Outcome State Fault Refusal :=
  whenMain s (regWrite ag (Reg.DLN_LANE_CTRL n) Rd.DLN_LANE_CTRL (actDlnLaneCtrl n) allBits (d ||| 0x80#32))

/-- R129 to R131: the end of a density window of a lane that receives. -/
def execDensityWindowEnd (n : Fin 768) (t : Nat) (v : Adapt) (s : State) : Host.Outcome State Fault Refusal :=
  whenMain s fun s =>
    if (s.lane n).on ∧ s.flag (F.DLN_LANE_STATUS_CDR_LOCK n) then densityWindow n t v s else s

def execAdaptHoldWrite (ag : Agent) (n : Fin 768) (d : Word) (s : State) : Host.Outcome State Fault Refusal :=
  whenMain s (regWrite ag (Reg.DLN_LANE_CTRL n) Rd.DLN_LANE_CTRL (actDlnLaneCtrl n) allBits d)

def execDlnPresetStage (k : Fin 4) (n : Fin 768) (d : Word) (s : State) : Host.Outcome State Fault Refusal :=
  whenMain s fun s => targetWrite (winOwner k s) 7 (dlnWordWrite n 0 d) s

def execDlnPresetApply (k : Fin 4) (n : Fin 768) (d : Word) (s : State) : Host.Outcome State Fault Refusal :=
  whenMain s fun s => targetWrite (winOwner k s) 7 (dlnWordWrite n 1 d) s

def execAlnPresetWrite (k : Fin 4) (m : Fin 32) (d : Word) (s : State) : Host.Outcome State Fault Refusal :=
  whenMain s fun s => targetWrite (winOwner k s) 8 (alnWordWrite m 0 d) s

/-- R122: words 2 to 4 of a data lane, word 1 of an auxiliary lane. -/
def execBoundWrite (k : Fin 4) (l : LaneId) (w : Fin 3) (d : Word) (s : State) : Host.Outcome State Fault Refusal :=
  whenMain s fun s =>
    match l with
    | .data n => targetWrite (winOwner k s) 7 (dlnWordWrite n (2 + w) d) s
    | .aux m => targetWrite (winOwner k s) 8 (alnWordWrite m 1 d) s

/-- A transmit PLL locks to the lane reference, and the lanes that waited for it start (R586). -/
def txpllLock (k : Nat) (s : State) : State :=
  let s1 := { s with lanePll := s.lanePll ||| BitVec.ofNat 7 (2 ^ k) }
  s.lanes.foldl (fun s e => if e.2.wait ∧ pllOf (laneAt e.1) = k then s.updLane e.1 fun l => { l with wait := false } else s) s1

def execTxpllLock (k : Fin 7) (s : State) : Host.Outcome State Fault Refusal := whenMain s (txpllLock k)

/-- R586: a fault unlocks a transmit PLL; a chiplet's sets TXPLL_UNLOCK in every quad page of the chiplet. -/
def execTxpllUnlock (k : Fin 7) (s : State) : Host.Outcome State Fault Refusal :=
  whenMain s fun s =>
    if s.pllLocked k then
      let s1 := { s with lanePll := s.lanePll &&& ~~~(BitVec.ofNat 7 (2 ^ k.val)) }
      if k.val < 6 then forUpto 32 (fun q s => s.raise (F.DLN_INT_STATUS_TXPLL_UNLOCK (32 * k.val + q))) s1 else s1
    else s

/-- The words that a lane receives, from the present one on, where `ws` are those at its RX balls (R149). -/
def heardWords (l : LaneId) (ws : List (BitVec 128)) (s : State) : List (BitVec 128) :=
  (ws.zipIdx).map fun x => heardWord s l (wordIndex s l + x.2) x.1

/-- A received word joins those that far-end loopback re-sends (R149). -/
def keepWord (l : LaneId) (w : BitVec 128) (s : State) : State :=
  s.updLane (laneIdx l) fun r => { r with rxWords := (w :: r.rxWords).take 32 }

/-- A checker compares a word with its own generator's next: the 256th error-free word in a row locks it; locked, it counts the bits, and the
64th errored word in a row ends that (R147). -/
def checkWord (l : LaneId) (w : BitVec 128) (s : State) : State :=
  let r := s.lane (laneIdx l)
  let code := s.fld (chkPatFld l)
  let errs := wordErrors l code r.chkRef w
  let s1 := s.updLane (laneIdx l) fun r => { r with chkRef := nextPattern l code r.chkRef }
  if s.flag (prbsLockedFld l) then
    let s2 := (s1.bump64 (prbsBitsAt l) (wordBits l) (some (laneOvf l))).bump64 (prbsErrAt l) errs (some (laneOvf l))
    if errs = 0 then s2.updLane (laneIdx l) fun r => { r with chkBad := 0 }
    else if 63 ≤ r.chkBad then (checkerSearch l s2).raise (prbsLostFld l)
    else s2.updLane (laneIdx l) fun r => { r with chkBad := r.chkBad + 1 }
  else if errs ≠ 0 then s1.updLane (laneIdx l) fun r => { r with chkGood := 0 }
  else if 255 ≤ r.chkGood then (s1.setFlag (prbsLockedFld l) true).updLane (laneIdx l) fun r => { r with chkGood := 0, chkBad := 0 }
  else s1.updLane (laneIdx l) fun r => { r with chkGood := r.chkGood + 1 }

/-- Words come to an enabled lane, and to its checker where that is on. -/
def takeWords (l : LaneId) (ws : List (BitVec 128)) (s : State) : State :=
  if (s.lane (laneIdx l)).on then
    (heardWords l ws s).foldl (fun s w =>
      let s1 := keepWord l w s
      if s1.fld (chkPatFld l) = 0 then s1 else checkWord l w s1) s
  else s

/-- R147: a checker that is not locked puts its own generator at the pattern's bits `hist`, the latest in bit 0, and compares the words that
follow, which lock it after 256. -/
def execPrbsCheckerLock (l : LaneId) (hist : BitVec 128) (ws : List (BitVec 128)) (s : State) : Host.Outcome State Fault Refusal :=
  whenMain s fun s =>
    takeWords l ws (if s.flag (prbsLockedFld l) then s else s.updLane (laneIdx l) fun r => { r with chkRef := hist, chkGood := 0 })

/-- R147: words that a checker compares go on coming; 64 errored ones in a row lose its lock. -/
def execPrbsLost (l : LaneId) (ws : List (BitVec 128)) (s : State) : Host.Outcome State Fault Refusal := whenMain s (takeWords l ws)

def execInjOne (ag : Agent) (l : LaneId) (d : Word) (s : State) : Host.Outcome State Fault Refusal :=
  whenMain s (match l with
    | .data n => regWrite ag (Reg.DLN_ERR_INJ n) Rd.DLN_ERR_INJ (actErrInj l) allBits (d ||| 0x80000000#32)
    | .aux m => regWrite ag (Reg.ALN_ERR_INJ m) Rd.ALN_ERR_INJ (actErrInj l) allBits (d ||| 0x80000000#32))

/-- R148: one error each PERIOD × 1,024 words, while PERIOD is not 0. -/
def execErrInjPeriodExpire (l : LaneId) (s : State) : Host.Outcome State Fault Refusal :=
  whenMain s fun s =>
    if s.fld (injPeriodFld l) ≠ 0 ∧ (s.lane (laneIdx l)).on then s.updLane (laneIdx l) fun r => { r with injected := r.injected + 1 } else s

/-- R150: the far-end FIFO comes back to 16 words; a data lane counts the slip. -/
def execFeSlip (l : LaneId) (fill : Nat) (s : State) : Host.Outcome State Fault Refusal :=
  whenMain s fun s =>
    let mode := if (s.lane (laneIdx l)).on then s.fld (loopFld l) else 0
    if mode = 3 ∧ (fill ≤ 2 ∨ 30 ≤ fill) then
      let s1 := s.updLane (laneIdx l) fun r => { r with fill := 16 }
      match l with
      | .data n => s1.bump32 (Reg.DLN_FE_SLIP n) 1 (some (laneOvf l))
      | .aux _ => s1
    else if mode = 3 then s.updLane (laneIdx l) fun r => { r with fill := fill }
    else s

def execSyncLost (m : Fin 32) (s : State) : Host.Outcome State Fault Refusal := whenMain s (syncLost m)

/-- A character slot of `TST_RAW_RX` (R574, R577). -/
def rawRx (m slot : Nat) (ch : Nat) (err : Bool) (s : State) : State :=
  let a := Reg.TST_RAW_RX m
  let w := putBits (putBits (s.reg a) (10 * slot) 9 ch) (10 * slot + 9) 1 (if err then 1 else 0)
  s.setReg a (putBits w 31 1 (if s.flag (F.ALN_LANE_STATUS_SYNC m) then 1 else 0))

/-- R139: a K28.5 off the boundary is counted, and the first one since SYNC set sets its cause. -/
def commaMisplaced (m : Nat) (s : State) : State :=
  let s1 := s.bump32 (Reg.ALN_COMMA_MISPLACED m) 1 (some (F.ALN_INT_STATUS_CNT_OVF m))
  if (s.lane (768 + m)).misplaced then s1
  else (s1.raise (F.ALN_INT_STATUS_COMMA_MISPLACED m)).updLane (768 + m) fun l => { l with misplaced := true }

/-- A code group in the synchronisation process of IEEE 802.3 Clause 36 (R138, PRESUMED log 9): an invalid one is one step nearer to the loss,
which comes with the fourth; four valid ones in a row take one step back. -/
def syncGroup (m : Nat) (valid : Bool) (s : State) : State :=
  let r := s.lane (768 + m)
  if valid then
    if r.badGroups = 0 then s
    else s.updLane (768 + m) fun l =>
      if 3 ≤ l.goodGroups then { l with badGroups := l.badGroups - 1, goodGroups := 0 } else { l with goodGroups := l.goodGroups + 1 }
  else if 3 ≤ r.badGroups then syncLost m (s.updLane (768 + m) fun l => { l with badGroups := 0, goodGroups := 0 })
  else s.updLane (768 + m) fun l => { l with badGroups := l.badGroups + 1, goodGroups := 0 }

/-- A received group takes its place in the words that far-end loopback re-sends: slot 0 starts a word, slot 1 completes it (R149). -/
def keepGroup (m slot : Nat) (g : BitVec 10) (s : State) : State :=
  s.updLane (768 + m) fun l =>
    if slot = 0 then { l with rxWords := (g.setWidth 128 :: l.rxWords).take 32 }
    else match l.rxWords with
      | w :: ws => { l with rxWords := (w ||| (g.setWidth 128 <<< 10)) :: ws }
      | [] => { l with rxWords := [g.setWidth 128 <<< 10] }

/-- R140, R141: a group at the boundary is decoded: valid at the running disparity, valid at the other, or not at all; the error character shows
as 0 (log 9). -/
def codeGroup (m slot : Nat) (c : Nat) (s : State) : State :=
  let plus := s.flag (F.ALN_LANE_STATUS_RD m)
  let raw := (s.lane (768 + m)).mode = 2
  match decodeAt plus c with
  | some ch =>
    let s1 := s.setFlag (F.ALN_LANE_STATUS_RD m) (endPlus c plus)
    if raw then rawRx m slot ch false s1 else s1
  | none =>
    match decodeAt (!plus) c with
    | some ch =>
      let s1 := (s.setFlag (F.ALN_LANE_STATUS_RD m) (endPlus c (!plus))).bump64 (Reg.ALN_DISP_ERR_LO m) 1
        (some (F.ALN_INT_STATUS_CNT_OVF m))
      if raw then rawRx m slot ch true s1 else s1
    | none =>
      let s1 := s.bump64 (Reg.ALN_CODE_ERR_LO m) 1 (some (F.ALN_INT_STATUS_CNT_OVF m))
      if raw then rawRx m slot 0 true s1 else s1

/-- The group that the receiver is presented with in a slot, where `g` is at the RX balls (R149, R156). -/
def heardGroup (m : Fin 32) (slot : Nat) (g : BitVec 10) (s : State) : BitVec 10 :=
  BitVec.ofNat 10 ((heardWord s (.aux m) (wordIndex s (.aux m)) (g.setWidth 128 <<< (10 * slot))).toNat / 2 ^ (10 * slot))

/-- The comma aligner places a K28.5 in slot 0: the boundary is there until synchronisation fixes it, and the decoder takes its disparity
from it (R137, R138, R140). -/
def alignComma (m c : Nat) (s : State) : State :=
  let s1 := (s.setFlag (F.ALN_LANE_STATUS_RD m) (endPlus c (c == 0b1100000101))).updLane (768 + m) fun l => { l with acq := 1 }
  if (s.lane (768 + m)).mode = 2 then rawRx m 0 0x1BC false s1 else s1

/-- The steps of Clause 36 to synchronisation: three K28.5 in their place, each with a data character after it, and no invalid group among
them (R138, PRESUMED log 9). -/
def acqNext (a : Nat) (comma : Bool) (ch : Option Nat) : Nat :=
  if a = 1 ∨ a = 3 ∨ a = 5 then (if ch.any (· < 256) then a + 1 else 0)
  else if a = 2 ∨ a = 4 then (if comma then a + 1 else if ch.isSome then a else 0)
  else a

/-- A group of a lane that has no synchronisation. -/
def seekGroup (m slot : Nat) (atBoundary : Bool) (c : Nat) (s : State) : State :=
  let a := (s.lane (768 + m)).acq
  if isK285 c ∧ (a = 0 ∨ ¬atBoundary ∨ slot = 1) then alignComma m c s
  else if atBoundary then
    let ch := decodeAt (s.flag (F.ALN_LANE_STATUS_RD m)) c
    (codeGroup m slot c s).updLane (768 + m) fun l => { l with acq := acqNext a (isK285 c) ch }
  else s

/-- A group, its first bit highest: decoded at the boundary; off it only a K28.5 is looked at. On a synchronised lane, what is no valid group,
and a K28.5 out of its place, counts against the synchronisation (R138 to R141). -/
def takeGroup (m slot : Nat) (atBoundary : Bool) (c : Nat) (s : State) : State :=
  if ¬s.flag (F.ALN_LANE_STATUS_SYNC m) then seekGroup m slot atBoundary c s
  else
    let misplaced := isK285 c && (!atBoundary || decide (slot = 1))
    let s1 := if misplaced then commaMisplaced m s else s
    if atBoundary then syncGroup m ((decodeAt (s.flag (F.ALN_LANE_STATUS_RD m)) c).isSome && !misplaced) (codeGroup m slot c s1)
    else if misplaced then syncGroup m false s1
    else s1

/-- R139 to R141, R574: a group is received. -/
def execAlnCodeGroupReceive (m : Fin 32) (slot : Fin 2) (atBoundary : Bool) (g : BitVec 10) (s : State) :
    Host.Outcome State Fault Refusal :=
  whenMain s fun s =>
    let h := heardGroup m slot g s
    if ¬(s.lane (768 + m)).on then s
    else takeGroup m slot atBoundary (rev10 h.toNat) (if atBoundary then keepGroup m slot h s else s)

end Sys2Proof.Machine
end

