-- ==== Sys2Proof/Machine/Frames.lean ====
section
/-!
DEFINITION. Sys2Proof/Machine/Frames.lean: what every step of a frame's path shares: the frame records, event counters and tag
records (13_telemetry_and_slot_accounting.md, R464 to R477), and the accounting of slices, pools and priority groups
(11_shared_buffer_and_cut_through.md, R397 to R404, R412 to R414).
-/
namespace Sys2Proof.Machine

/-! ### Records -/

def portReset (_ : Nat) : PortSt := {}
def noFrame (_ : Nat) : Option Frame := none
def noIds (_ : Nat) : List Nat := []
def zeroAt (_ : Nat) : Nat := 0
def State.updNet (s : State) (f : NetSt → NetSt) : State := { s with net := f s.net }
def State.updTlm (s : State) (f : TlmSt → TlmSt) : State := { s with tlm := f s.tlm }
def State.port (s : State) (p : Nat) : PortSt := smapGet portReset s.net.ports p
def State.updPort (s : State) (p : Nat) (f : PortSt → PortSt) : State :=
  s.updNet fun n => { n with ports := smapSet portReset n.ports p (f (s.port p)) }
def State.frame? (s : State) (id : Nat) : Option Frame := smapGet noFrame s.net.frames id
def State.setFrame (s : State) (id : Nat) (f : Frame) : State :=
  s.updNet fun n => { n with frames := smapSet noFrame n.frames id (some f) }
def State.dropFrame (s : State) (id : Nat) : State :=
  s.updNet fun n => { n with frames := smapSet noFrame n.frames id none }

/-- Change a frame that is there. -/
def State.updFrame (s : State) (id : Nat) (f : Frame → Frame) : State :=
  match s.frame? id with
  | some r => s.setFrame id (f r)
  | none => s

/-- The frames that are there, with their numbers. -/
def State.frames (s : State) : List (Nat × Frame) :=
  s.net.frames.filterMap fun p => p.2.map fun f => (p.1, f)

/-- The frames of queue g, oldest first. -/
def State.queue (s : State) (g : Nat) : List Nat := smapGet noIds s.net.queues g
def State.setQueue (s : State) (g : Nat) (l : List Nat) : State :=
  s.updNet fun n => { n with queues := smapSet noIds n.queues g l }

/-- The queue of an egress: 16p + q for a logical port, 6,144 + m for a timing port (R435). -/
def queueOf (egress q : Nat) : Nat := if egress < 384 then 16 * egress + q else 6144 + (egress - 384)

/-- PCLK since the PCLK domain left reset: 48 PCLK in 25 TCLK (R162, R464). -/
def pclk (s : State) : Nat := (s.clk.tclk - s.clk.mainAt) * 48 / 25

/-! ### Ports: shape and rate (R326, R328, R352) -/

/-- Lanes, rate code and first lane of a port, as sampled at the last rise of EN. -/
def portLanes (s : State) (p : Nat) : Nat := 2 ^ bits (s.port p).cfg 1 2
def portHalf (s : State) (p : Nat) : Bool := bit (s.port p).cfg 3
def portFirst (s : State) (p : Nat) : Nat := bits (s.port p).cfg 4 10

/-- A port's rate in Gb/s; a timing port runs at 1 Gb/s. -/
def portRate (s : State) (p : Nat) : Nat :=
  if p < 384 then portLanes s p * (if portHalf s p then 100 else 200) else 1

/-- The lanes of a port, logical or timing. -/
def portLaneIds (s : State) (p : Nat) : List LaneId :=
  if p < 384 then (upto (portLanes s p)).map fun i => laneAt (portFirst s p + i) else [laneAt (p + 384)]

/-- Whether timing port m is up (R352). -/
def timingUp (s : State) (m : Nat) : Bool :=
  decide ((s.lane (768 + m)).on ∧ (s.lane (768 + m)).mode = 0) && s.flag (F.ALN_LANE_STATUS_SYNC m) &&
    (!s.flag (F.ALN_CTRL_AN_EN m) || s.flag (F.ALN_LANE_STATUS_AN_COMPLETE m))

/-- Whether a port, logical or timing, is up. -/
def portUp (s : State) (p : Nat) : Bool :=
  if p < 384 then s.flag (F.PORT_LIVE_UP p) else decide (p < 416) && timingUp s (p - 384)

/-- The pipeline of a source port (R328, R352, R357). -/
def pipeOf (s : State) (src : Nat) : Nat := if src < 384 then portFirst s src / 32 else (src - 384) % 24

/-- Advance a counter of a PORT page. -/
def bumpPort (a p n : Nat) (s : State) : State := s.bump64 a n (some (F.PORT_INT_STATUS_CNT_OVF p))

/-! ### Event counters (R464 to R466) -/

/-- Whether event counter k counts this event of this instance. -/
def evtMatches (s : State) (e i k : Nat) : Bool :=
  decide (s.fld (F.TLM_EVT_CFG_EVENT k) = e) && (decide (e = 9 ∨ e = 10) || decide (s.fld (F.TLM_EVT_CFG_INDEX k) = i))

/-- Event counter k counts n occurrences; a wrap sets its overflow bit, and asks for the reload (R465). -/
def evtBump (k n : Nat) (s : State) : State :=
  let x := s.reg64 (Reg.TLM_EVT_LO k) (Reg.TLM_EVT_HI k) + n
  let t := s.bump64 (Reg.TLM_EVT_LO k) n (some F.TLM_EVT_INT_STATUS_CNT_OVF)
  if x < 2 ^ 64 then t
  else
    let t1 := t.raise ⟨if k < 32 then Reg.TLM_EVT_OVF0 else Reg.TLM_EVT_OVF1, k % 32, 1⟩
    if s.flag (F.TLM_EVT_CFG_RELOAD k) then
      t1.updTlm fun m => { m with reload := m.reload ||| BitVec.ofNat 64 (2 ^ k) }
    else t1

/-- n occurrences of an event of an instance. -/
def evtOccur (e i n : Nat) (s : State) : State :=
  if n = 0 then s else forUpto 64 (fun k s => if evtMatches s e i k then evtBump k n s else s) s

/-- Whether one more occurrence of event 5 on a port wraps a counter that tags on its wrap (R466). -/
def tagOnWrap (s : State) (p : Nat) : Bool :=
  (upto 64).any fun k => evtMatches s 5 p k && s.flag (F.TLM_EVT_CFG_TAG_ON_WRAP k) &&
    decide (s.reg64 (Reg.TLM_EVT_LO k) (Reg.TLM_EVT_HI k) = 2 ^ 64 - 1)

/-! ### Tag records (R472 to R476) -/

/-- Word w of tag record r, in domain 0x08. -/
def tagWord (r w : Nat) : Nat := 32 * r + w

/-- The fields of a frame that its record states whatever the stage (R475). -/
def tagShow (f : Frame) (s : State) : State :=
  match f.tag with
  | none => s
  | some r =>
    let s1 := s.setIndw 8 (tagWord r 1) (BitVec.ofNat 32 (f.src + f.egress * 2 ^ 9 + f.queue * 2 ^ 18 + f.pipe * 2 ^ 22 +
      flagAt f.ct 27))
    (s1.setIndw 8 (tagWord r 2) (BitVec.ofNat 32 (if f.ended then f.bytes.length else 0))).setIndw 8 (tagWord r 3)
      (BitVec.ofNat 32 f.hash)

/-- A tagged frame passes a stage point in PCLK cycle `at'` (R474, R476): d1 for bits [30:16] of the second word. -/
def tagStage (f : Frame) (st at' d1 d2 d3 : Nat) (s : State) : State :=
  match f.tag with
  | none => s
  | some r =>
    let s1 := (tagShow f s).setIfld 8 (tagWord r 0) 20 3 st
    let s2 := s1.setIndw 8 (tagWord r (4 * st)) (BitVec.ofNat 32 at')
    let s3 := s2.setIndw 8 (tagWord r (4 * st + 1)) (BitVec.ofNat 32 (at' / 2 ^ 32 % 2 ^ 16 + d1 % 2 ^ 15 * 2 ^ 16 + 2 ^ 31))
    (s3.setIndw 8 (tagWord r (4 * st + 2)) (BitVec.ofNat 32 d2)).setIndw 8 (tagWord r (4 * st + 3)) (BitVec.ofNat 32 d3)

/-- The PCLK cycle that a tag record holds for a stage. -/
def stageAt (r st : Nat) (s : State) : Nat :=
  (s.indw 8 (tagWord r (4 * st))).toNat + (s.indw 8 (tagWord r (4 * st + 1))).toNat % 2 ^ 16 * 2 ^ 32

/-- OPEN of `TLM_TAG_STATUS`. -/
def showOpen (s : State) : State := s.setFld F.TLM_TAG_STATUS_OPEN s.tlm.opened.length

/-- A frame's record closes with an outcome (R474). -/
def tagClose (f : Frame) (outcome : Nat) (s : State) : State :=
  match f.tag with
  | none => s
  | some r =>
    if s.tlm.opened.contains r then
      showOpen (((tagShow f s).setIfld 8 (tagWord r 0) 16 4 outcome).updTlm fun t =>
        { t with opened := t.opened.filter (· != r),
                 closed := if s.flag F.TLM_DMA_CTRL_TAG_EN then t.closed ++ [r] else t.closed })
    else s

/-- The record a new frame takes, if any (R466, R473), by the draw and the filter, or by a wrap; of the frames so drawn in one PCLK cycle
only the first counts. -/
def tagTake (src : Nat) (draw : Word) (s : State) : Option Nat × State :=
  let wrap := tagOnWrap s src
  let sel := s.fld F.TLM_TAG_CTRL_PORT_SEL
  let drawn := decide (src < 416 ∧ (sel = 511 ∨ sel = src) ∧ draw.toNat % 2 ^ s.fld F.TLM_TAG_CTRL_RATE_LOG2 = 0)
  let r := s.fld F.TLM_TAG_STATUS_NEXT
  if s.flag F.TLM_TAG_CTRL_EN ∧ (wrap ∨ drawn) ∧ s.tlm.tagAt ≠ some (pclk s) then
    let s := s.updTlm fun t => { t with tagAt := some (pclk s) }
    if s.tlm.opened.contains r then
      (none, (s.bump32 Reg.TLM_TAG_SKIP 1 (some F.TLM_INT_STATUS_CNT_OVF)).raise F.TLM_INT_STATUS_TAG_SKIP)
    else
      let s1 := forUpto 32 (fun w s => s.setIndw 8 (tagWord r w) 0) s
      let s2 := s1.setIndw 8 (tagWord r 0) (BitVec.ofNat 32 ((s.tlm.seq + 1) % 2 ^ 16 + flagAt wrap 24))
      let s3 := (s2.setFld F.TLM_TAG_STATUS_NEXT (r + 1)).updTlm fun t =>
        { t with opened := t.opened ++ [r], closed := t.closed.filter (· != r), seq := t.seq + 1 }
      (some r, evtOccur 9 0 1 (showOpen (s3.bump64 Reg.TLM_TAG_COUNT_LO 1 (some F.TLM_INT_STATUS_CNT_OVF))))
  else (none, s)

/-- What a write of `TLM_TAG_CTRL` sets off: SEQ counts from the rise of EN. -/
def actTagCtrl (old raw : Word) (s : State) : State :=
  if bit raw 0 ∧ ¬bit old 0 then s.updTlm fun t => { t with seq := 0 } else s

/-! ### Profiles of queues and groups (R404, R407, R433) -/

/-- The queue profile of queue q of port p. -/
def profOf (s : State) (p q : Nat) : Nat :=
  bits (match q / 6 with
    | 0 => s.reg (Reg.BUF_PORT_QPROF0 p)
    | 1 => s.reg (Reg.BUF_PORT_QPROF1 p)
    | _ => s.reg (Reg.BUF_PORT_QPROF2 p)) (5 * (q % 6)) 5

/-- The reserve of queue g. -/
def minOf (s : State) (g : Nat) : Nat := s.fld (F.BUF_QPROF_MIN (profOf s (g / 16) (g % 16)))

/-- The priority group of queue q of ingress port p, and its place among the group profiles. -/
def pgOf (s : State) (p q : Nat) : Nat :=
  bits (if q < 8 then s.reg (Reg.BUF_PORT_PG_MAP0 p) else s.reg (Reg.BUF_PORT_PG_MAP1 p)) (4 * (q % 8)) 3
def pgProf (s : State) (p k : Nat) : Nat := 8 * s.fld (F.BUF_PORT_CFG_PGSET p) + k

def pgShared (s : State) (p k : Nat) : Nat := smapGet zeroAt s.net.pgShared (8 * p + k)
def pgHead (s : State) (p k : Nat) : Nat := smapGet zeroAt s.net.pgHead (8 * p + k)

/-! ### XOFF and XON (R413, R338) -/

/-- The MAC of a port is told of a priority's change of state: a frame with QUANTA at XOFF, with time 0 at XON. -/
def pfcAsk (p k quanta : Nat) (s : State) : State :=
  if s.rbit (Reg.PORT_PFC_TX p) (16 + k) ∧ portUp s p then
    s.updPort p fun r => { r with pfcHold := r.pfcHold ++ [(k, quanta)] }
  else s

/-- Group k of port p takes the state that its counts give it. -/
def xoffEval (p k : Nat) (s : State) : State :=
  let i := pgProf s p k
  let th := s.fld (F.BUF_PGPROF_XOFF_XOFF_TH i)
  let x := s.rbit (Reg.BUF_PORT_PG_STATUS p) k
  if th ≤ pgShared s p k ∨ 0 < pgHead s p k then
    if x then s
    else pfcAsk p k (s.fld (F.PORT_PFC_TX_QUANTA p)) (s.setRbit (Reg.BUF_PORT_PG_STATUS p) k true)
  else if x ∧ pgShared s p k + s.fld (F.BUF_PGPROF_XON_DELTA_XON_DELTA i) ≤ th then
    pfcAsk p k 0 (s.setRbit (Reg.BUF_PORT_PG_STATUS p) k false)
  else s

/-! ### Slices (R397 to R404, R412, R414) -/

/-- The slices that a frame of length L takes. -/
def slicesOf (len : Nat) : Nat := (len + 255) / 256

/-- The shared occupancy of queue g in pool p (R404, R410). -/
def sharedOcc (s : State) (g p : Nat) : Nat := smapGet zeroAt s.net.qpool (4 * g + p) - minOf s g

/-- USED of a pool, counted whole. -/
def usedOf (s : State) (p : Nat) : Nat :=
  (s.net.qpool.map fun e => if e.1 % 4 = p then e.2 - minOf s (e.1 / 4) else 0).sum

/-- `BUF_POOL_USED` after a change of profiles (R404, R410). -/
def recountUsed (s : State) : State := forUpto 4 (fun p s => s.setFld (F.BUF_POOL_USED_SLICES p) (usedOf s p)) s

/-- Queue g holds d slices more, or fewer, of pool p. -/
def queueAdd (g p : Nat) (up : Bool) (s : State) : State :=
  let o := sharedOcc s g p
  let n := smapGet zeroAt s.net.qpool (4 * g + p)
  let s1 := s.updNet fun t => { t with qpool := smapSet zeroAt t.qpool (4 * g + p) (if up then n + 1 else n - 1) }
  let u := s.fld (F.BUF_POOL_USED_SLICES p) + sharedOcc s1 g p - o
  let c := s.fld (F.BUF_Q_OCC_SLICES g)
  (s1.setFld (F.BUF_POOL_USED_SLICES p) u).setFld (F.BUF_Q_OCC_SLICES g) (if up then c + 1 else c - 1)

/-- One slice of a frame is taken, or returned: in headroom, in its queue, and in its group. -/
def sliceAcct (f : Frame) (up : Bool) (s : State) : State :=
  let step (n : Nat) : Nat := if up then n + 1 else n - 1
  if 384 ≤ f.egress then s
  else
    match f.pg with
    | some k =>
      if f.kind = 2 then
        xoffEval f.src k (s.updNet fun t =>
          { t with pgHead := smapSet zeroAt t.pgHead (8 * f.src + k) (step (pgHead s f.src k)) })
      else
        xoffEval f.src k ((queueAdd (queueOf f.egress f.queue) f.pool up s).updNet fun t =>
          { t with pgShared := smapSet zeroAt t.pgShared (8 * f.src + k) (step (pgShared s f.src k)) })
    | none => queueAdd (queueOf f.egress f.queue) f.pool up s

/-- The free count, with FREE_LOW as it falls below its threshold (R401). -/
def setFree (n : Nat) (s : State) : State :=
  let th := s.fld F.BUF_FREE_LOW_SLICES
  (s.setFld F.BUF_FREE_FREE n).raiseIf (decide (th ≤ s.fld F.BUF_FREE_FREE ∧ n < th)) F.BUF_INT_STATUS_FREE_LOW

def noLost (_ : Nat) : Option Nat := none

/-! ### The free list (R398, R401, R402) -/

def bankReset (_ : Nat) : BankSt := {}
def State.bank (s : State) (b : Nat) : BankSt := smapGet bankReset s.net.banks b
def State.updBank (s : State) (b : Nat) (f : BankSt → BankSt) : State :=
  s.updNet fun t => { t with banks := smapSet bankReset t.banks b (f (s.bank b)) }

/-- The slice on top of the stack of bank `b`; slice n lies in bank n mod 128. -/
def BankSt.top (r : BankSt) (b : Nat) : Option Nat :=
  match r.pushed with
  | n :: _ => some n
  | [] => if r.taken < 8192 then some (b + 128 * r.taken) else none

/-- The stack without its top. -/
def BankSt.pop (r : BankSt) : BankSt :=
  match r.pushed with
  | _ :: ns => { r with pushed := ns }
  | [] => { r with taken := r.taken + 1 }

/-- The stack without slice `n`, wherever it lies. -/
def BankSt.without (r : BankSt) (n : Nat) : BankSt :=
  if r.pushed.contains n then { r with pushed := r.pushed.filter (· != n) }
  else { pushed := r.pushed ++ (upto (n / 128 - r.taken)).map fun i => n % 128 + 128 * (r.taken + i), taken := n / 128 + 1 }

/-- Whether a slice is on the free list. -/
def sliceFree (s : State) (n : Nat) : Bool :=
  let r := s.bank (n % 128)
  decide (n < 2 ^ 20) && (r.pushed.contains n || decide (r.taken ≤ n / 128))

/-- Whether a slice is the one that the stack of its bank gives next. -/
def sliceTop (s : State) (n : Nat) : Bool := (s.bank (n % 128)).top (n % 128) == some n

/-- A slice is pushed onto the free list of its bank, which then holds one more. -/
def freeSlice (n : Nat) (s : State) : State :=
  setFree (s.fld F.BUF_FREE_FREE + 1) (s.updBank (n % 128) fun r => { r with pushed := n :: r.pushed })

/-- A frame takes a slice from the top of its bank's stack (R402). -/
def takeSlice (id n : Nat) (f : Frame) (s : State) : State :=
  sliceAcct f true (((setFree (s.fld F.BUF_FREE_FREE - 1) s).updBank (n % 128) BankSt.pop).setFrame id
    { f with slices := f.slices ++ [n] })

/-- The standing of a slice that is neither free nor owned. -/
def State.setLost (s : State) (n : Nat) (x : Option Nat) : State :=
  s.updNet fun t => { t with lost := smapSet noLost t.lost n x }

/-- Every slice of a frame goes back to the free list (R402); those that it can no longer reach are left to the auditor (R547). -/
def returnSlices (id : Nat) (s : State) : State :=
  match s.frame? id with
  | none => s
  | some f =>
    f.slices.foldl (fun s n =>
      let s1 := sliceAcct f false s
      if f.beyond.contains n then s1.setLost n (some 0) else freeSlice n s1) (s.setFrame id { f with slices := [] })

/-- What a write of a queue profile, or of a port's choice of one, sets off. -/
def actBufUsed (_old _raw : Word) (s : State) : State := recountUsed s

/-- What a write of a port's group set sets off, and of a group profile (R413). -/
def actBufPortCfg (p : Nat) (_old _raw : Word) (s : State) : State := forUpto 8 (fun k s => xoffEval p k s) s
def actBufXoff (_old _raw : Word) (s : State) : State :=
  forUpto 384 (fun p s => forUpto 8 (fun k s => xoffEval p k s) s) s

/-! ### The end of a frame's path -/

/-- A frame leaves its queue. -/
def unqueue (id : Nat) (s : State) : State :=
  match s.frame? id with
  | some f =>
    let g := queueOf f.egress f.queue
    s.setQueue g ((s.queue g).filter (· != id))
  | none => s

/-- The path of a frame to its egress ends: its slices go back, unless a trap write still needs them (its tag record closes with the path,
and is no longer its own); its record stays while its end is still to come. -/
def frameDone (id : Nat) (s : State) : State :=
  match s.frame? id with
  | none => s
  | some f =>
    if f.trap.isSome ∧ f.bad.isNone ∧ f.phase ≠ .trapOnly then s.updFrame id fun f => { f with phase := .trapOnly, tag := none }
    else
      let s1 := returnSlices id s
      if f.ended then s1.dropFrame id else s1.updFrame id fun f => { f with phase := .gone, trap := none }

end Sys2Proof.Machine
end

