-- ==== Sys2Proof/Machine/Sched.lean ====
section
/-!
DEFINITION. Sys2Proof/Machine/Sched.lean: counted lengths, shapers, profiles and the choice of a queue
(12_queues_scheduling_shaping.md, R435 to R448, R460, R461).
-/
namespace Sys2Proof.Machine

/-! ### Shapers (R445 to R448, R461) -/

/-- Shaper i: queue shaper g below 6,144, else port shaper i − 6,144. Word w of its block. -/
def shaperWord (i w : Nat) : Nat := if i < 6144 then 8 * i + w else 0xC000 + 8 * (i - 6144) + w

def shaperReset (_ : Nat) : ShaperSt := {}
def State.shaper (s : State) (i : Nat) : ShaperSt := smapGet shaperReset s.net.shapers i
def State.updShaper (s : State) (i : Nat) (f : ShaperSt → ShaperSt) : State :=
  s.updNet fun n => { n with shapers := smapSet shaperReset n.shapers i (f (s.shaper i)) }

/-- One byte of a LEVEL or a bucket. -/
def byteUnit : Int := 2 ^ 24

/-- Whether a shaper is on; that of queue 15 never is (R447). -/
def shaperEn (s : State) (i : Nat) : Bool :=
  bit (s.indw 7 (shaperWord i 0)) 0 && !(decide (i < 6144) && decide (i % 16 = 15))

/-- BURST of a shaper as written, in units. -/
def shaperBurst (s : State) (i : Nat) : Int := (bits (s.indw 7 (shaperWord i 2)) 0 24 : Int) * byteUnit

/-- INC of a rate in kb/s, in units (R445). -/
def rateInc (rate : Nat) : Int := (divRound (rate * 2 ^ 24) 187500 : Nat)

/-- Set a LEVEL, and show its whole bytes. -/
def setLevel (i : Nat) (x : Int) (s : State) : State :=
  (s.updShaper i fun r => { r with level := x }).setIndw 7 (shaperWord i 3) (BitVec.ofNat 32 (toBits 32 (Int.fdiv x byteUnit)))

/-- One refresh of a shaper that is on: RATE and BURST as written take effect (R448). -/
def shaperRefresh (i : Nat) (s : State) : State :=
  if shaperEn s i then
    let r := s.shaper i
    let x := min (shaperBurst s i) (r.level + rateInc (s.indw 7 (shaperWord i 1)).toNat)
    let s1 := setLevel i (if r.forgive ∧ x < 0 then 0 else x) s
    s1.updShaper i fun r => { r with burst := shaperBurst s i, forgive := false }
  else s.updShaper i fun r => { r with forgive := false }

/-- The shapers whose word 0 is written: only these can be on. -/
def shapersSet (s : State) : List Nat :=
  s.ind.filterMap fun p =>
    let k := p.1 - indKey 7 0
    if p.1 < indKey 7 0 ∨ 0xCC00 ≤ k ∨ k % 8 ≠ 0 then none
    else if k < 0xC000 then some (k / 8) else some (6144 + (k - 0xC000) / 8)

/-- Charge a shaper that is on with n bytes (R446). -/
def shaperCharge (i n : Nat) (s : State) : State :=
  if shaperEn s i then setLevel i ((s.shaper i).level - (n : Int) * byteUnit) s else s

/-- What a write of `SCHD_SHAPER_FORGIVE` sets off (R448, R459). -/
def actForgive (_old raw : Word) (s : State) : State :=
  let i := bits raw 0 13
  if bit raw 31 then s.updShaper (if 6527 < i then 0 else i) fun r => { r with forgive := true } else s

def sampleReset (_ : Nat) : SampleSt := {}
def State.sample (s : State) (g : Nat) : SampleSt := smapGet sampleReset s.net.samples g
def State.updSample (s : State) (g : Nat) (f : SampleSt → SampleSt) : State :=
  s.updNet fun n => { n with samples := smapSet sampleReset n.samples g (f (s.sample g)) }

/-- A write of a word of domain 0x07 (R461): LEVEL is set to BURST at the rise of SHAPER_EN, and samples count from the rise of
SAMPLE_EN. -/
def schdWrite (waddr : Nat) (d : Word) (s : State) : State :=
  let i := if waddr < 0xC000 then waddr / 8 else 6144 + (waddr - 0xC000) / 8
  let old := s.indw 7 waddr
  if 0xCC00 ≤ waddr then s
  else
    match waddr % 8 with
    | 0 =>
      let s1 := s.setIndw 7 waddr (d &&& (if i < 6144 then 3 else 1))
      let s2 := if bit d 0 ∧ ¬bit old 0 ∧ shaperEn s1 i then
          (setLevel i (shaperBurst s1 i) s1).updShaper i fun r => { r with burst := shaperBurst s1 i, forgive := false }
        else s1
      if i < 6144 ∧ bit d 1 ∧ ¬bit old 1 then s2.updSample i fun _ => {} else s2
    | 1 => s.setIndw 7 waddr d
    | 2 => s.setIndw 7 waddr (if bits d 0 24 = 0 then 1 else d &&& 0xFFFFFF#32)
    | 4 => if i < 6144 then s.setIndw 7 waddr (if bits d 0 17 < 64 then 64 else d &&& 0x1FFFF#32) else s
    | _ => s

/-! ### Counted length (R436, R437) -/

/-- OVERHEAD of a port. -/
def overhead (s : State) (p : Nat) : Int := signed 8 (s.fld (F.SCHD_PORT_CFG_OVERHEAD p))

/-- The length of a frame, or its known length while its end has not come. -/
def lengthNow (f : Frame) : Nat := if f.ended then f.bytes.length else f.known

/-- C of a length. -/
def counted (extra : Int) (len : Nat) : Nat := (max 1 ((len : Int) + extra)).toNat

/-- OVERHEAD of a frame for the scheduler and the shapers, that of its egress, and for the policers, that of its ingress; 20 for timing
ports and injected frames. -/
def egressOver (s : State) (f : Frame) : Int := if 384 ≤ f.src ∨ 384 ≤ f.egress then 20 else overhead s f.egress
def ingressOver (s : State) (f : Frame) : Int := if 384 ≤ f.src then 20 else overhead s f.src

/-- C for the scheduler and the shapers. -/
def countedLen (s : State) (f : Frame) (len : Nat) : Nat := counted (egressOver s f) len

/-! ### Profiles, eligibility and choice (R438 to R444) -/

/-- The active profile of a port is B (R443). -/
def activeB (s : State) (p : Nat) : Bool :=
  s.flag (F.SCHD_PORT_CFG_PROFILE p) || s.flag (F.SCHD_PORT_CFG_FORCE_B p) || s.flag (F.PORT_LIVE_RECOVERY p)

/-- Whether queue q of a port is paused (R335 to R337). -/
def queuePaused (s : State) (p q : Nat) : Bool :=
  let c := (s.port p).cfg
  decide (q ≠ 15) && ((bit c 14 && s.rbit (Reg.PORT_LIVE p) 24) ||
    (bit c 15 && (upto 8).any fun k => s.rbit (Reg.PORT_LIVE p) (24 + k) && s.rbit (Reg.PORT_PFC_MAP (8 * p + k)) q))

/-- Whether a shaper holds back. -/
def shaperHolds (s : State) (i : Nat) : Bool := shaperEn s i && decide ((s.shaper i).level < 0)

/-- Whether queue q of a port is held back by a shaper or a pause. -/
def queueHeld (s : State) (p q : Nat) : Bool :=
  queuePaused s p q || (decide (q ≠ 15) && (shaperHolds s (16 * p + q) || shaperHolds s (6144 + p)))

/-- Whether a frame can be dequeued (R416). -/
def frameReady (f : Frame) : Bool :=
  if f.bad.isSome then f.ended
  else if f.ct then !f.slices.isEmpty
  else f.ended && decide (f.slices.length = slicesOf f.bytes.length)

/-- The head of a queue that can be dequeued. -/
def readyHead (s : State) (g : Nat) : Option (Nat × Frame) :=
  match s.queue g with
  | id :: _ => (s.frame? id).bind fun f => if frameReady f then some (id, f) else none
  | [] => none

/-- A queue is eligible (R439). -/
def eligible (s : State) (p q : Nat) : Bool := (readyHead s (16 * p + q)).isSome && !queueHeld s p q

/-- The highest-numbered eligible queue from `lo` up (R440, R441). -/
def highest (s : State) (p lo : Nat) : Option Nat :=
  (upto 16).foldl (fun r q => if lo ≤ q ∧ eligible s p q then some q else r) none

/-- DEFICIT and QUANTUM of queue g. -/
def deficitOf (s : State) (g : Nat) : Int := signed 32 (s.indw 7 (8 * g + 5)).toNat
def quantumOf (s : State) (g : Nat) : Int := (bits (s.indw 7 (8 * g + 4)) 0 17 : Nat)
def setDeficit (g : Nat) (x : Int) (s : State) : State := s.setIndw 7 (8 * g + 5) (BitVec.ofNat 32 (toBits 32 x))

def isOpen (s : State) (p q : Nat) : Bool := (s.port p).opened.toNat.testBit q
def setOpen (p q : Nat) (b : Bool) (s : State) : State :=
  s.updPort p fun r =>
    { r with opened := if b then r.opened ||| BitVec.ofNat 16 (2 ^ q) else r.opened &&& ~~~(BitVec.ofNat 16 (2 ^ q)) }

/-- One pass of the scan over a list of eligible queues (R441). -/
def dwrrPass (p : Nat) : List Nat → State → Option Nat × State
  | [], s => (none, s)
  | q :: qs, s =>
    let g := 16 * p + q
    let s1 := if isOpen s p q then s else setOpen p q true (setDeficit g (deficitOf s g + quantumOf s g) s)
    let c := match readyHead s g with
      | some (_, f) => countedLen s f (lengthNow f)
      | none => 0
    if (c : Int) ≤ deficitOf s1 g then (some q, s1) else dwrrPass p qs (setOpen p q false s1)

/-- Passes until a head fits. -/
def dwrrScan (p : Nat) (qs : List Nat) : Nat → State → Option Nat × State
  | 0, s => (none, s)
  | n + 1, s =>
    match dwrrPass p qs s with
    | (some q, s1) => (some q, s1)
    | (none, s1) => dwrrScan p qs n s1

/-- The order of the scan from queue `i` of a group with top `t`: downward, and from 0 back to the top. -/
def scanOrder (i t : Nat) : List Nat := (upto (t + 1)).map fun k => (i + (t + 1) - k) % (t + 1)

/-- The choice within the weighted group (R441): enough passes for the largest head. -/
def dwrr (p top : Nat) (s : State) : Option Nat × State :=
  let qs := (scanOrder (min (s.fld (F.SCHD_PORT_STATUS_RR_NEXT p)) top) top).filter (eligible s p)
  let need := (qs.map fun q => match readyHead s (16 * p + q) with
    | some (_, f) => ((countedLen s f (lengthNow f) : Int) - deficitOf s (16 * p + q)).toNat
    | none => 0).sum
  if qs.isEmpty then (none, s) else dwrrScan p qs (need / 64 + 2) s

/-- The highest queue of the weighted group of a port. -/
def groupTop (s : State) (p : Nat) : Nat := 15 - s.fld (F.SCHD_PORT_CFG_STRICT_N p)

/-- The weighted group, queues 0 to `top`, at an entry into profile B (R441, R444). -/
def enterB (p top : Nat) (s : State) : State :=
  let s1 := forUpto (top + 1) (fun q s => setOpen p q false (setDeficit (16 * p + q) 0 s)) s
  s1.setFld (F.SCHD_PORT_STATUS_RR_NEXT p) top

/-- A change of profile takes effect at a selection point (R444). -/
def profileTakes (p : Nat) (s : State) : State :=
  let b := activeB s p
  (if b ∧ ¬(s.port p).lastB then enterB p (groupTop s p) s else s).updPort p fun r => { r with lastB := b }

/-- The queue that a selection point serves, and whether by the weighted group (R440 to R444), under the profile that has taken effect. -/
def chooseQueue (p : Nat) (s : State) : Option (Nat × Bool) × State :=
  let b := (s.port p).lastB
  match highest s p (if b then groupTop s p + 1 else 0) with
  | some q => (some (q, false), s)
  | none =>
    if b then
      match dwrr p (groupTop s p) s with
      | (some q, s1) => (some (q, true), s1)
      | (none, s1) => (none, s1)
    else (none, s)

/-- A group queue that becomes empty loses its deficit (R441). -/
def queueEmptied (p q : Nat) (s : State) : State :=
  if (s.queue (16 * p + q)).isEmpty ∧ q ≤ groupTop s p then
    setOpen p q false (setDeficit (16 * p + q) 0 s)
  else s

/-- A frame leaves its queue. -/
def takeFromQueue (id : Nat) (f : Frame) (s : State) : State :=
  let s1 := unqueue id s
  if f.egress < 384 then queueEmptied f.egress f.queue s1 else s1

/-! ### Settlement (R437, R446, R450) -/

/-- The least LEVEL after a settlement: the largest frame with the largest OVERHEAD. -/
def settleFloor : Int := -16487 * byteUnit

/-- A frame's end is received: what was charged with its known length, and the OVERHEAD of then, is settled. -/
def settleSched (f : Frame) (len : Nat) (s : State) : State :=
  let d : Int := (counted f.schOver f.known : Int) - (counted f.schOver len : Int)
  let s1 := f.schChg.foldl (fun s i =>
    setLevel i (max settleFloor (min (s.shaper i).burst ((s.shaper i).level + d * byteUnit))) s) s
  match f.defChg with
  | some g => setDeficit g (deficitOf s1 g + d) s1
  | none => s1

/-! ### Commands -/

/-- R445: every 64 PCLK. -/
def execShaperRefresh (s : State) : Host.Outcome State Fault Refusal :=
  whenMain s fun s => (shapersSet s).foldl (fun s i => shaperRefresh i s) s

def execForgive (ag : Agent) (d : Word) (s : State) : Host.Outcome State Fault Refusal :=
  whenMain s (regWrite ag Reg.SCHD_SHAPER_FORGIVE Rd.SCHD_SHAPER_FORGIVE actForgive allBits (d ||| 0x80000000#32))

end Sys2Proof.Machine
end

