-- ==== Sys2Proof/Machine/Sid.lean ====
section
/-!
DEFINITION. Sys2Proof/Machine/Sid.lean: redundant streams, by the vector recovery algorithm (14_twin_pairs_and_stacks.md, R510 to
R512, R521), and policers (12_queues_scheduling_shaping.md, R449 to R453, R462, R463).
-/
namespace Sys2Proof.Machine

/-! ### Streams (R510, R511) -/

def sidReset (_ : Nat) : SidSt := {}
def State.sid (s : State) (i : Nat) : SidSt := smapGet sidReset s.net.sids i
def State.updSid (s : State) (i : Nat) (f : SidSt → SidSt) : State :=
  s.updNet fun n => { n with sids := smapSet sidReset n.sids i (f (s.sid i)) }

/-- Advance a counter of stream i. -/
def sidBump (a i n : Nat) (s : State) : State := s.bump32 a n (some (F.TWIN_SID_INT_STATUS_CNT_OVF (i / 84)))

/-- The lowest valid stream of a VID and a destination address. -/
def sidFind (s : State) (vid da : Nat) : Option Nat :=
  (upto 256).find? fun i =>
    s.flag (F.TWIN_SID_CFG_VALID i) &&
      decide (s.fld (F.TWIN_SID_DA_HI_VID i) = vid ∧
        s.fld (F.TWIN_SID_DA_HI_MAC_H i) * 2 ^ 32 + (s.reg (Reg.TWIN_SID_DA_LO i)).toNat = da)

/-- The sequence number of a frame's R-tag, if it carries one. -/
def rtagSeq (bs : List Byte) : Option Nat :=
  let t := etypeAt bs
  if half bs t = 0xF1C1 then some (half bs (t + 4)) else none

/-- Zero bits among the bits from `lo` up to `hi` − 1 of `x`. -/
def zeroBits (x lo hi : Nat) : Nat := ((upto (hi - lo)).filter fun k => !x.testBit (lo + k)).length

/-- Recovery of sequence number n of stream i: whether the frame passes. -/
def sidRecover (i n : Nat) (s : State) : Bool × State :=
  let len := s.fld (F.TWIN_SID_CFG_HIST_LEN i)
  let recov := s.fld (F.TWIN_SID_STATE_RECOV_SEQ i)
  let hist := (s.sid i).hist
  let pass (s : State) : State := s.updSid i fun r => { r with idle := 0 }
  if s.flag (F.TWIN_SID_STATE_TAKE_ANY i) then
    (true, pass (((s.setFld (F.TWIN_SID_STATE_RECOV_SEQ i) n).setFlag (F.TWIN_SID_STATE_TAKE_ANY i) false).updSid i fun r =>
      { r with hist := 1 }))
  else
    let d := signed 16 ((n + 65536 - recov) % 65536)
    if (len : Int) ≤ d ∨ d ≤ -(len : Int) then (false, sidBump (Reg.TWIN_SID_ROGUE i) i 1 s)
    else if 0 < d then
      let k := d.toNat
      let s1 := sidBump (Reg.TWIN_SID_LOST i) i (zeroBits hist (len - k) len) s
      let s2 := (s1.setFld (F.TWIN_SID_STATE_RECOV_SEQ i) n).updSid i fun r => { r with hist := (hist * 2 ^ k + 1) % 2 ^ len }
      (true, pass (sidBump (Reg.TWIN_SID_PASSED i) i 1 s2))
    else
      let k := (-d).toNat
      if hist.testBit k then (false, sidBump (Reg.TWIN_SID_DISCARDED i) i 1 s)
      else
        let s1 := s.updSid i fun r => { r with hist := hist + 2 ^ k }
        (true, pass (sidBump (Reg.TWIN_SID_OOO i) i 1 (sidBump (Reg.TWIN_SID_PASSED i) i 1 s1)))

/-- Recovery for a frame that is forwarded to a logical port. -/
def sidPass (vid : Nat) (bs : List Byte) (s : State) : Bool × State :=
  match sidFind s vid (beNat (slice bs 0 6)) with
  | none => (true, s)
  | some i =>
    match rtagSeq bs with
    | some n => sidRecover i n s
    | none => (true, sidBump (Reg.TWIN_SID_TAGLESS i) i 1 (s.updSid i fun r => { r with idle := 0 }))

/-- What a write of `TWIN_SID_CFG` sets off. -/
def actSidCfg (i : Nat) (old raw : Word) (s : State) : State :=
  if bit raw 0 ∧ ¬bit old 0 then (s.setFlag (F.TWIN_SID_STATE_TAKE_ANY i) true).updSid i fun r => { r with idle := 0 } else s

/-- The check of stream i, every millisecond. The milliseconds without a frame count on while RESET_MS is 0. -/
def sidCheck (i : Nat) (s : State) : State :=
  let ms := s.fld (F.TWIN_SID_CFG_RESET_MS i)
  if s.flag (F.TWIN_SID_CFG_VALID i) then
    let idle := min ((s.sid i).idle + 1) 65536
    let s1 := s.updSid i fun r => { r with idle := idle }
    if ms ≠ 0 ∧ ms ≤ idle then sidBump (Reg.TWIN_SID_RESETS i) i 1 (s1.setFlag (F.TWIN_SID_STATE_TAKE_ANY i) true) else s1
  else s

def execSidResetCheck (s : State) : Host.Outcome State Fault Refusal := whenMain s fun s => forUpto 256 sidCheck s

/-! ### Policers (R449 to R453) -/

def polReset (_ : Nat) : PolSt := {}
def State.pol (s : State) (i : Nat) : PolSt := smapGet polReset s.net.pols i
def State.updPol (s : State) (i : Nat) (f : PolSt → PolSt) : State :=
  s.updNet fun n => { n with pols := smapSet polReset n.pols i (f (s.pol i)) }

/-- A value in force: 0 CFG, 1 CIR, 2 PIR, 3 CBS, 4 PBS. -/
def PolSt.val (p : PolSt) (k : Nat) : Word := nth 0 p.now k
def PolSt.size (p : PolSt) (k : Nat) : Int := ((p.val k).toNat : Int) * byteUnit

/-- Advance a colour counter of policer i. -/
def polBump (a i : Nat) (s : State) : State := s.bump32 a 1 (some (F.POL_INT_STATUS_CNT_OVF (i / 126)))

/-- What a write of `POL_CFG` sets off (R453): the staged values wait for the next refresh, or the write is refused. -/
def actPolCfg (i : Nat) (old _raw : Word) (s : State) : State :=
  let c := s.reg (Reg.POL_CFG i)
  let vals := [c, s.reg (Reg.POL_CIR i), s.reg (Reg.POL_PIR i), s.reg (Reg.POL_CBS i), s.reg (Reg.POL_PBS i)]
  if bit c 0 ∧ ((nth 0 vals 2).toNat < (nth 0 vals 1).toNat ∨ nth 0 vals 3 = 0 ∨ nth 0 vals 4 = 0) then
    (s.setReg (Reg.POL_CFG i) old).raise (F.POL_INT_STATUS_CFG_REJECT (i / 126))
  else s.updPol i fun p => { p with next := some vals }

/-- Values that wait come into force. -/
def PolSt.apply (p : PolSt) : PolSt :=
  match p.next with
  | none => p
  | some v =>
    let q := { p with now := v, next := none }
    if bit (q.val 0) 0 ∧ ¬bit (p.val 0) 0 then { q with tc := q.size 3, tp := q.size 4 }
    else { q with tc := min (q.size 3) q.tc, tp := min (q.size 4) q.tp }

/-- One refresh of a policer. -/
def PolSt.refresh (p : PolSt) : PolSt :=
  let q := p.apply
  if bit (q.val 0) 0 then
    { q with tc := min (q.size 3) (q.tc + rateInc (q.val 1).toNat), tp := min (q.size 4) (q.tp + rateInc (q.val 2).toNat) }
  else q

/-- What metering a frame gives: its colour (0 not metered, 1 green, 2 yellow, 3 red), whether it is dropped, and the DSCP set. -/
structure Metered where
  colour : Nat
  drop : Bool
  dscp : Option Nat
deriving DecidableEq, Repr

/-- Metering by policer i (R451, R452): `b` is the counted length, `dei` the DEI of a tagged frame's outer tag. -/
def meter (i b : Nat) (dei : Bool) (s : State) : Metered × State :=
  let p := s.pol i
  let c := p.val 0
  if ¬bit c 0 then (⟨0, false, none⟩, s)
  else
    let x : Int := (b : Int) * byteUnit
    let colour := if p.tp < x then 3 else if (bit c 1 ∧ dei) ∨ p.tc < x then 2 else 1
    let s1 := if colour = 3 then evtOccur 8 i 1 s
      else s.updPol i fun p => { p with tp := p.tp - x, tc := if colour = 1 then p.tc - x else p.tc }
    let act := if colour = 2 then bits c 2 2 else if colour = 3 then bits c 4 2 else 0
    let dscp := if act = 2 then some (if colour = 2 then bits c 6 6 else bits c 12 6) else none
    (⟨colour, decide (act = 1), dscp⟩,
      polBump (if colour = 1 then Reg.POL_GREEN i else if colour = 2 then Reg.POL_YELLOW i else Reg.POL_RED i) i s1)

/-- The settlement of a frame of `len` bytes with the policer that it drew on (R450). -/
def settlePol (f : Frame) (len : Nat) (s : State) : State :=
  match f.polChg with
  | none => s
  | some (i, o, green) =>
    let d : Int := ((counted o f.known : Int) - (counted o len : Int)) * byteUnit
    s.updPol i fun p =>
      { p with tp := clampInt 0 (p.size 4) (p.tp + d), tc := if green then clampInt 0 (p.size 3) (p.tc + d) else p.tc }

/-- Every policer is refreshed; one that is not stored is off. -/
def polsRefresh (l : SMap PolSt) : SMap PolSt := l.foldr (fun e m => smapSet polReset m e.1 e.2.refresh) []

/-- R451, R453: every 64 PCLK, values that wait apply and the buckets refill. -/
def execPolicerRefresh (s : State) : Host.Outcome State Fault Refusal :=
  whenMain s fun s => s.updNet fun n => { n with pols := polsRefresh n.pols }

def execPolCfgWrite (ag : Agent) (i : Fin 4096) (d : Word) (s : State) : Host.Outcome State Fault Refusal :=
  whenMain s (regWrite ag (Reg.POL_CFG i) Rd.POL_CFG (actPolCfg i) allBits d)

end Sys2Proof.Machine
end

