-- ==== Sys2Proof/Machine/Met.lean ====
section
/-!
DEFINITION. Sys2Proof/Machine/Met.lean: link phase metrology (05_link_phase_metrology.md, R198 to R240): cell conversion, source
slots and running means, the schedule, sources held stale, bin tables and code density, the external channel, the asymmetry
product. What a cell spends its slots on, the end of a check window, which informs the fault supervisor, and the runs of proofing are
in a later file.
-/
namespace Sys2Proof.Machine

/-! ### Records -/

def slotReset (_ : Nat) : MetSlot := {}
def cellReset (_ : Nat) : MetCell := {}
def State.updMet (s : State) (f : MetSt → MetSt) : State := { s with met := f s.met }
def State.slot (s : State) (i : Nat) : MetSlot := smapGet slotReset s.met.slots i
def State.cell (s : State) (c : Nat) : MetCell := smapGet cellReset s.met.cells c
def State.updSlot (s : State) (i : Nat) (f : MetSlot → MetSlot) : State :=
  s.updMet fun m => { m with slots := smapSet slotReset m.slots i (f (s.slot i)) }
def State.updCell (s : State) (c : Nat) (f : MetCell → MetCell) : State :=
  s.updMet fun m => { m with cells := smapSet cellReset m.cells c (f (s.cell c)) }

/-- Bit `c` of a cell mask register. -/
def cellOut (s : State) (c : Nat) : Bool := s.rbit Reg.MET_CELL_OUT c
def cdBusy (s : State) (c : Nat) : Bool := s.rbit Reg.MET_CD_BUSY c

/-- MET_CELL_STATUS.STATE: 0 in service, 1 out, 2 held for proofing, 3 external channel. -/
def cellState (s : State) (c : Nat) : Nat := s.fld (F.MET_CELL_STATUS_STATE c)

/-! ### Tables (R201, R221, R222) -/

/-- The word of a cell's table: the active bank, the staged bank, the histogram. A bank holds 21 bits of a position, since the build of R224
reaches 2^20; the windows show the low 20 (DESIGN CHOICE, log 11). -/
def bankAddr (c bank k : Nat) : Nat := c * 0x4000 + bank * 0x1000 + k
def activeBank (s : State) (c : Nat) : Nat := if (s.cell c).swapped then 1 else 0
def stagedBank (s : State) (c : Nat) : Nat := if (s.cell c).swapped then 0 else 1
def binAt (s : State) (c k : Nat) : Nat :=
  if k = 4096 then 2 ^ 20 else (s.indw 4 (bankAddr c (activeBank s c) k)).toNat % 2 ^ 21
def stagedAt (s : State) (c k : Nat) : Nat := (s.indw 4 (bankAddr c (stagedBank s c) k)).toNat % 2 ^ 21
def histAt (s : State) (c k : Nat) : Nat := (s.indw 4 (bankAddr c 2 k)).toNat

/-- Where a word address of domain 0x04 is stored: regions 0 and 1 show the active and the staged bank. -/
def metPhys (s : State) (waddr : Nat) : Nat :=
  let c := waddr / 0x4000
  let k := waddr % 0x1000
  match waddr / 0x1000 % 4 with
  | 0 => bankAddr c (activeBank s c) k
  | 1 => bankAddr c (stagedBank s c) k
  | 2 => bankAddr c 2 k
  | _ => bankAddr c 3 k

/-- A write of a bin-table word: the staged region, while no run is busy on the cell (R222). -/
def metWordWrite (waddr : Nat) (d : Word) (s : State) : State :=
  if waddr / 0x1000 % 4 = 1 then
    if cdBusy s (waddr / 0x4000) then s.raise F.MET_INT_STATUS_TABLE_BUSY
    else s.setIndw 4 (metPhys s waddr) (d &&& 0xFFFFF#32)
  else s

/-- Whether the active table is the nominal table. -/
def isNominal (s : State) (c : Nat) : Bool := (upto 4096).all fun k => decide (binAt s c k = 256 * k)

/-- The tables exchange places (R222, R225). -/
def tableExchange (c : Nat) (s : State) : State :=
  let s1 := s.updCell c fun x => { x with swapped := !x.swapped, exch := false }
  s1.setFlag (F.MET_CELL_STATUS_NOMINAL c) (isNominal s1 c)

/-- R222: B non-decreasing and below 2^20. -/
def tableOk (s : State) (c : Nat) : Bool :=
  (upto 4096).all fun k => decide (stagedAt s c k < 2 ^ 20 ∧ (k = 4095 ∨ stagedAt s c k ≤ stagedAt s c (k + 1)))

/-- What a write of `MET_TABLE_LOAD` sets off. -/
def actTableLoad (_old raw : Word) (s : State) : State :=
  forUpto 32 (fun c s =>
    if bit raw c then
      if tableOk s c then s.updCell c fun x => { x with exch := true } else s.raise F.MET_INT_STATUS_TABLE_REJECT
    else s) s

/-! ### Conversion (R198 to R201) -/

/-- The fine word of a code, and from it P and the carry into COARSE. -/
def fineWord (s : State) (c k : Nat) : Nat := binAt s c k + (binAt s c (k + 1) - binAt s c k) / 2
def phaseOf (s : State) (c k : Nat) : Nat × Nat :=
  let p := 2 ^ 20 - fineWord s c k
  if 2 ^ 19 ≤ p then (p - 2 ^ 19, 1) else (p, 0)

/-- A code below FLOOR: counted, and FLOOR_ERR (R200). -/
def floorErr (c : Nat) (s : State) : State :=
  (s.bump32 (Reg.MET_CELL_INVALID c) 1 (some F.MET_INT_STATUS_CNT_OVF)).raise F.MET_INT_STATUS_FLOOR_ERR

/-- Whether a cell's code is below its FLOOR. -/
def belowFloor (s : State) (c : Nat) (k : BitVec 12) : Bool := decide (k.toNat < s.fld (F.MET_CELL_FLOOR_FLOOR c))

/-- A valid result of a cell is counted (R238). -/
def validResult (c : Nat) (s : State) : State := s.bump64 (Reg.MET_CELL_RESULTS_LO c) 1 (some F.MET_INT_STATUS_CNT_OVF)

/-! ### Sources and running means (R203, R216 to R218, R315) -/

/-- Whether a source gives marker edges (R203). -/
def sourceLive (s : State) (typ lane : Nat) : Bool :=
  match typ with
  | 1 => s.flag (F.DLN_LANE_STATUS_CDR_LOCK lane)
  | 2 => s.flag (F.DLN_LANE_STATUS_TX_READY lane)
  | 3 => s.flag (F.ALN_LANE_STATUS_CDR_LOCK lane)
  | 4 => (s.lane (768 + lane)).on && s.pllLocked 6
  | _ => false

/-- A phase unwrapped to within ±0.64 ns of the mean of the values so far. -/
def unwrapTo (vals : List Int) (p : Nat) : Int :=
  if vals.isEmpty then (p : Int)
  else
    let n : Int := (vals.length : Int)
    let d := ((p : Int) * n - vals.sum) % (524288 * n)
    let d := if 262144 * n ≤ d then d - 524288 * n else d
    (p : Int) + 524288 * Int.fdiv (vals.sum + d - (p : Int) * n) (524288 * n)

/-- The mean of unwrapped values as MET_SRC_MEAN states it: modulo 1.28 ns, in 2^−20 ns. -/
def meanWord (vals : List Int) : Nat :=
  let n := vals.length
  if n = 0 then 0 else divRound ((vals.sum % ((524288 * n : Nat) : Int)).toNat * 64) (25 * n)

/-- Add to the check-window sums of a cell. -/
def winAdd (c : Nat) (x : Int) : List (Nat × Nat × Int) → List (Nat × Nat × Int)
  | [] => [(c, 1, x)]
  | (d, n, t) :: w => if c = d then (d, n + 1, t + x) :: w else (d, n, t) :: winAdd c x w

/-- The other cell of a cell's pair. -/
def partner (c : Nat) : Nat := (c + 16) % 32

/-- Whether a cell is out or held for proofing, so that its partner measures alone (R216). -/
def cellAway (s : State) (c : Nat) : Bool := decide (cellState s c = 1 ∨ cellState s c = 2)

/-- The flags that a result of a cell carries, valid or not (R214, R216, R217, R221). -/
def resultFlags (s : State) (c : Nat) (stale : Bool) : Nat :=
  c * 2 ^ 20 + flagAt (cellAway s (partner c)) 26 + flagAt (s.met.suspect.toNat.testBit (c % 16)) 27 +
    flagAt (s.flag (F.MET_CELL_STATUS_NOMINAL c)) 29 + flagAt stale 30

/-- A valid result of a source slot (R201, R214, R216 to R218, R315). -/
def slotResult (i c p coarse : Nat) (s : State) : State :=
  let r := s.slot i
  let u := unwrapTo r.vals p
  let vals := (u :: r.vals).take 64
  let fresh := r.fresh + 1
  let stale := r.stale && decide (fresh < 64)
  let s1 := s.updSlot i fun r =>
    { r with vals := vals, win := if cellAway s (partner c) then r.win else winAdd c u r.win, stale := stale, fresh := fresh }
  let s2 := s1.setReg (Reg.MET_SRC_LAST i) (BitVec.ofNat 32 (p + 2 ^ 25 + resultFlags s c stale))
  let s3 := s2.setReg (Reg.MET_SRC_COARSE i) (BitVec.ofNat 32 coarse)
  validResult c (if stale then s3 else s3.setReg (Reg.MET_SRC_MEAN i) (BitVec.ofNat 32 (meanWord vals + 2 ^ 31)))

/-- A slot that ends without an edge: the phase and the count of the result before it stay (DESIGN CHOICE, log 11). -/
def slotNoEdge (i c : Nat) (s : State) : State :=
  s.setReg (Reg.MET_SRC_LAST i) (BitVec.ofNat 32 ((s.reg (Reg.MET_SRC_LAST i)).toNat % 2 ^ 20 + 2 ^ 28 + resultFlags s c (s.slot i).stale))

/-- A result whose code is below FLOOR: shown, but not valid (R200, R218). -/
def slotInvalid (i c p coarse : Nat) (s : State) : State :=
  (s.setReg (Reg.MET_SRC_LAST i) (BitVec.ofNat 32 (p + resultFlags s c (s.slot i).stale))).setReg (Reg.MET_SRC_COARSE i)
    (BitVec.ofNat 32 coarse)

/-- A conversion is a hit of the cell's code-density run, while it holds fewer than 2^22 (R223). -/
def countHit (c : Nat) (k : BitVec 12) (s : State) : State :=
  if cdBusy s c ∧ (s.cell c).hits < 4194304 then
    (s.setIndw 4 (bankAddr c 2 k.toNat) (BitVec.ofNat 32 (histAt s c k.toNat + 1))).updCell c fun x => { x with hits := x.hits + 1 }
  else s

/-- What a cell converted of a source (R200 to R203, R218); a source that gives no edges ends the slot with NO_EDGE. In a signal-statistics
run the conversion is a hit too (R323). -/
def sourceConversion (i c : Nat) (code : Option (BitVec 12)) (coarse : Nat) (hit : Bool) (s : State) : State :=
  let cfg := s.reg (Reg.MET_SRC_CFG i)
  match if sourceLive s (bits cfg 0 3) (bits cfg 16 10) then code else none with
  | none => slotNoEdge i c s
  | some k =>
    let s1 := if hit then countHit c k s else s
    let (p, carry) := phaseOf s c k.toNat
    if belowFloor s c k then slotInvalid i c p (coarse + carry) (floorErr c s1) else slotResult i c p (coarse + carry) s1

/-- A pilot conversion (R210, R212): summed for the check window. -/
def pilotConversion (c : Nat) (code : Option (BitVec 12)) (s : State) : State :=
  match code with
  | none => s
  | some k =>
    if belowFloor s c k then floorErr c s
    else
      let (p, _) := phaseOf s c k.toNat
      validResult c (s.updCell c fun x => { x with pilotN := x.pilotN + 1, pilotSum := x.pilotSum + (p : Int) })

/-- The conversion of a random edge (R223): a hit whatever the code, and a result like any other (R200, R238; log 11). -/
def randomConversion (c : Nat) (code : Option (BitVec 12)) (s : State) : State :=
  match code with
  | none => s
  | some k => countHit c k (if belowFloor s c k then floorErr c s else validResult c s)

/-! ### The schedule (R206 to R209, R226) -/

/-- Whether an entry names a source whose TYPE is not 0. -/
def entryUsed (s : State) (w : Word) : Bool := bit w 31 && decide (bits (s.reg (Reg.MET_SRC_CFG (bits w 0 10))) 0 3 ≠ 0)

/-- Whether an entry of pair 15 of a schedule names a source. -/
def pair15Used (s : State) : Nat → List Word → Bool
  | _, [] => false
  | e, w :: ws => (decide (e % 16 = 15) && entryUsed s w) || pair15Used s (e + 1) ws

/-- Entries that are not idle; with the external channel enabled those of pair 15 count too (R209). -/
def busyEntries (s : State) (ext : Bool) (n : Nat) (ws : List Word) : Nat :=
  ((upto n).filter fun e => entryUsed s (nth 0 ws e) || (ext && decide (e % 16 = 15))).length

/-- Report the load of the schedule in use, in 1/256, at most 255. -/
def metLoad (s : State) : State :=
  let n := s.met.sched.1
  s.setFld F.MET_BANK_STATUS_LOAD (min 255 (busyEntries s s.met.ext.own n s.met.sched.2 * 256 / n))

/-- What a write of `MET_BANK_CTRL` with COMMIT sets off (R207, R208, R226). One that is refused leaves a copy that waits where it is
(DESIGN CHOICE, log 11). -/
def metCommit (s : State) : State :=
  let n := s.fld F.MET_BANK_CTRL_ROUND_LEN
  let ws := (upto n).map fun e => s.reg (Reg.MET_SCHED e)
  if n % 32 = 16 ∧ n ≤ 1008 ∧ ¬(s.flag F.MET_EXT_CTRL_EN ∧ pair15Used s 0 ws) then
    (s.updMet fun m => { m with waiting := some (n, ws) }).setFlag F.MET_BANK_STATUS_COMMIT_PENDING true
  else s.raise F.MET_INT_STATUS_SCHED_REJECT

def actBankCtrl (_old raw : Word) (s : State) : State := if bit raw 16 then metCommit s else s

/-- Every source's cross-check window starts again. -/
def clearWindows (s : State) : State :=
  (s.met.slots.map (·.1)).foldl (fun s i => s.updSlot i fun r => { r with win := [] }) s

/-- The pilot sums start again. -/
def clearPilots (s : State) : State := forUpto 32 (fun c s => s.updCell c fun x => { x with pilotN := 0, pilotSum := 0 }) s

/-- A cell's STATE from what has befallen it (R314): held for proofing, out or not; out; with the external channel; or in service. -/
def showCell (c : Nat) (s : State) : State :=
  s.setFld (F.MET_CELL_STATUS_STATE c)
    (if s.rbit Reg.MET_CELL_PROOF c then 2 else if cellOut s c then 1 else if s.met.ext.own ∧ c % 16 = 15 then 3 else 0)

/-! ### Held pairs and stale means (R217, R315, R316) -/

/-- Whether a pair serves no source; and whether it does so for a hold. -/
def pairDark (s : State) (p : Nat) : Bool := cellAway s p && cellAway s (p + 16)
def pairBlocked (s : State) (p : Nat) : Bool := pairDark s p && decide (cellState s p = 2 ∨ cellState s (p + 16) = 2)

/-- The pairs whose entries name a source in the schedule in use. -/
def pairsOf (s : State) (i : Nat) : List Nat :=
  ((upto s.met.sched.1).filter fun e =>
    let w := nth 0 s.met.sched.2 e
    entryUsed s w && decide (bits w 0 10 = i)).map (· % 16)

/-- Whether a source gets no results because every pair that names it is held. -/
def sourceHeld (s : State) (i : Nat) : Bool :=
  let ps := pairsOf s i
  !ps.isEmpty && ps.all (pairBlocked s)

/-- Whether some pair measures a source. -/
def sourceServed (s : State) (i : Nat) : Bool := (pairsOf s i).any fun p => !pairDark s p

/-- The sources that the schedule in use names. -/
def namedSources (s : State) : List Nat := (s.met.sched.2.filter (entryUsed s)).map fun w => bits w 0 10

/-- A source's mean is held stale, or no longer; its latest result shows it. -/
def setStale (i : Nat) (b : Bool) (s : State) : State :=
  (s.updSlot i fun r => { r with stale := b }).setFlag (F.MET_SRC_LAST_STALE i) b

/-- What serves a source changed from what it was before: STALE from a hold on; from the release on a mean is formed anew; a source that
nothing serves or holds has no phase. -/
def settleSource (before : State) (t : State) (i : Nat) : State :=
  if sourceHeld t i then setStale i true t
  else if ¬sourceServed t i then (if (t.slot i).stale then setStale i false t else t)
  else if sourceHeld before i then t.updSlot i fun r => { r with vals := [], fresh := 0 }
  else t

/-- Change which cells are held or out, or what the schedule names, and carry the change to the sources. -/
def withHolds (f : State → State) (s : State) : State :=
  (namedSources s ++ namedSources (f s)).eraseDups.foldl (settleSource s) (f s)

/-! ### Round boundaries (R206, R208, R226) -/

/-- The first slot that no cell has served yet: cell c serves slot 32n + c in its cycle n. -/
def slotsServed (s : State) : Nat :=
  ((upto 32).map fun c => if (s.cell c).cycle = 0 then 0 else 32 * ((s.cell c).cycle - 1) + c + 1).foldl max 0

/-- The slot of the next round boundary. -/
def boundarySlot (s : State) : Nat :=
  let n := s.met.sched.1
  s.met.origin + (slotsServed s - s.met.origin + n - 1) / n * n

/-- Every cell goes on to its first slot from `b` on. -/
def cellsTo (b : Nat) (s : State) : State := forUpto 32 (fun c s => s.updCell c fun x => { x with cycle := (b + 31 - c) / 32 }) s

/-- A round boundary: an accepted copy comes into use, and an EN change of the external channel takes effect. -/
def roundBoundary (s : State) : State :=
  let s1 := match s.met.waiting with
    | some (n, ws) =>
      let b := boundarySlot s
      ((clearWindows (cellsTo b (withHolds (·.updMet fun m => { m with sched := (n, ws), origin := b, waiting := none }) s))).setFld
        F.MET_BANK_STATUS_ROUND_ACTIVE n).setFlag F.MET_BANK_STATUS_COMMIT_PENDING false |>.raise
        F.MET_INT_STATUS_SCHED_COMMIT
    | none => s
  let en := s1.flag F.MET_EXT_CTRL_EN
  let s2 := s1.updMet fun m =>
    { m with ext := if en then { m.ext with own := true }
        else { m.ext with own := false, phase := .idle, start := none, stop := none, early := false } }
  metLoad (showCell 31 (showCell 15 s2))

/-- What a write of `MET_SRC_CFG` sets off (R220). -/
def actSrcCfg (i : Nat) (_old _raw : Word) (s : State) : State :=
  metLoad (setStale i (sourceHeld s i) ((s.updSlot i fun _ => {}).setReg (Reg.MET_SRC_MEAN i) 0))

/-! ### Code density (R223 to R225) -/

/-- Clear the histogram of a cell. -/
def clearHist (c : Nat) (s : State) : State :=
  let lo := indKey 4 (bankAddr c 2 0)
  { s with ind := s.ind.filter fun p => decide (p.1 < lo ∨ lo + 4096 ≤ p.1) }

/-- Start a run on a cell that is not busy (R223). -/
def cdStart (c : Nat) (s : State) : State :=
  if cdBusy s c then s
  else ((clearHist c s).updCell c fun x => { x with hits := 0 }).setRbit Reg.MET_CD_BUSY c true

/-- The table that the histogram builds (R224), from code `k` on with `c` hits below it. -/
def buildTable (span : Nat) : List Nat → Nat → List Nat
  | [], _ => []
  | h :: hs, c => (1048576 - span + (c * span + 2097152) / 4194304) :: buildTable span hs (c + h)

/-- The tests of R225: the result code, with lo, hi and the missing codes. -/
def cdTests (floor maxshift : Nat) (nominal : Bool) (hist staged active : List Nat) : Nat × Nat × Nat × Nat :=
  let hits := (hist.zip (upto 4096)).filter fun p => p.1 ≠ 0
  let lo := (hits.head?.map (·.2)).getD 0
  let hi := (hits.getLast?.map (·.2)).getD 0
  let miss := hi - lo + 1 - hits.length
  let shift := ((upto (hi - lo + 1)).map fun d =>
    ((((nth 0 staged (lo + d) : Nat) : Int) - ((nth 0 active (lo + d) : Nat) : Int))).natAbs).foldl max 0
  let r := if (hist.take floor).sum ≠ 0 then 1
    else if hi - lo + 1 < 1600 ∨ 2600 < hi - lo + 1 then 2
    else if 8192 < hist.foldl max 0 then 3
    else if 16 < miss then 4
    else if ¬nominal ∧ maxshift < shift then 5
    else 0
  (r, lo, hi, miss)

/-- The end of a cell's run (R224, R225): the table is built into the staged region and accepted or rejected. -/
def cdFinish (c : Nat) (s : State) : State :=
  let hist := (upto 4096).map (histAt s c)
  let active := (upto 4096).map (binAt s c)
  let staged := buildTable (s.fld F.MET_CD_SPAN_SPAN) hist 0
  let t := cdTests (s.fld (F.MET_CELL_FLOOR_FLOOR c)) (s.fld F.MET_CD_MAXSHIFT_MAXSHIFT)
    (s.flag (F.MET_CELL_STATUS_NOMINAL c)) hist staged active
  let s1 := (upto 4096).foldl (fun s k =>
    s.setIndw 4 (bankAddr c (stagedBank s c) k) (BitVec.ofNat 32 (nth 0 staged k))) s
  let s2 := s1.setReg (Reg.MET_CELL_CD c)
    (BitVec.ofNat 32 (t.1 + t.2.1 * 2 ^ 4 + t.2.2.1 * 2 ^ 16 + min 15 t.2.2.2 * 2 ^ 28))
  let s3 := (s2.setRbit Reg.MET_CD_BUSY c false).raise F.MET_INT_STATUS_CD_DONE
  let s4 := s3.setFlag (F.MET_CELL_STATUS_CD_ACCEPT c) (decide (t.1 = 0))
  if t.1 = 0 then s4.updCell c fun x => { x with exch := true } else s4.raise F.MET_INT_STATUS_CD_REJECT

/-- R224: a run whose proofing run is abandoned stops, with CD_RESULT 7 and no table changed. -/
def cdAbandon (c : Nat) (s : State) : State :=
  if cdBusy s c then
    ((s.setRbit Reg.MET_CD_BUSY c false).setFld (F.MET_CELL_CD_CD_RESULT c) 7).setFlag (F.MET_CELL_STATUS_CD_ACCEPT c) false
  else s

/-! ### Cells in and out of service (R214, R216, R219) -/

/-- Take a cell out of service. -/
def takeOut (c : Nat) (s : State) : State :=
  let s1 := (s.setRbit Reg.MET_CELL_OUT c true).setFld F.MET_XCHK_STATUS_CELL c
  (showCell c (s1.updMet fun m => { m with suspect := m.suspect &&& ~~~(BitVec.ofNat 16 (2 ^ (c % 16))) })).raise
    F.MET_INT_STATUS_CELL_OUT

/-- What a write of `MET_CELL_RETURN` sets off (R216): a cell that is out returns if its last run was accepted. -/
def actCellReturn (_old raw : Word) (s : State) : State :=
  forUpto 32 (fun c s =>
    if bit raw c ∧ cellOut s c ∧ s.flag (F.MET_CELL_STATUS_CD_ACCEPT c) then
      showCell c ((s.setRbit Reg.MET_CELL_OUT c false).updMet fun m =>
        { m with suspect := m.suspect &&& ~~~(BitVec.ofNat 16 (2 ^ (c % 16))) })
    else s) s

/-- A change-over of TCLK: every cycle in progress discards its result (R213, R219). Of the external channel cells 15 and 31 count one each, and
edges that it has taken stay (DESIGN CHOICE, log 11). -/
def metInvalidate (s : State) : State :=
  let s1 := forUpto 32 (fun c s =>
    (s.bump32 (Reg.MET_CELL_INVALID c) 1 (some F.MET_INT_STATUS_CNT_OVF)).updCell c fun x => { x with cycle := x.cycle + 1 }) s
  (s1.updMet fun m => { m with switched := true }).raise F.MET_INT_STATUS_INVALIDATED

/-- `MET_TCNT`: TCLK since the main domain left reset. -/
def tcnt (s : State) : Nat := (s.clk.tclk - s.clk.mainAt) % 2 ^ 32

/-! ### The external channel (R226 to R231, R237) -/

/-- An edge that a cell of the channel took, with its record T(E) + P on the timeline of E (R178); a carry of P lies one increment on. -/
def extEdge (c : Nat) (k : Nat) (coarse : Nat) (s : State) : ExtEdge :=
  let (p, carry) := phaseOf s c k
  let e := timeAt ((tcnt s + 2 ^ 32 - coarse % 2 ^ 32) % 2 ^ 32) s
  let t := (e.value + carry * e.inc) % tbWrap (tbFormat s)
  { edge := coarse % 2 ^ 32, p := p, coarse := (coarse + carry) % 2 ^ 32,
    words := recordWords (tbFormat s) (round20 (t + p * 2 ^ 34 / 25)) (recordFlags e.epoch s),
    uncal := s.flag (F.MET_CELL_STATUS_NOMINAL c) }

def State.updExt (s : State) (f : ExtSt → ExtSt) : State := s.updMet fun m => { m with ext := f m.ext }

/-- INTERVAL of R231, in 2^−20 ns. -/
def extInterval (a b : ExtEdge) : Nat :=
  let dc := (b.coarse + 2 ^ 32 - a.coarse) % 2 ^ 32
  let x : Int := ((dc * 32 * 2 ^ 20 : Nat) : Int) + ((b.p : Int) - (a.p : Int)) * 64
  toBits 64 (Int.fdiv (2 * x + 25) 50)

/-- The measurement ends: one result is pushed (R230, R231). One that ended without its stop has no INTERVAL. -/
def extPush (timeout refLost : Bool) (s : State) : State :=
  let e := s.met.ext
  let zero : List Word := [0, 0, 0, 0]
  let r : ExtRes :=
    { start := (e.start.map (·.words)).getD zero,
      stop := (e.stop.map (·.words)).getD zero,
      interval := match e.start, e.stop with
        | some a, some b => if timeout || refLost then 0 else extInterval a b
        | _, _ => 0,
      flags := flagAt timeout 0 + flagAt refLost 1 +
        flagAt (((e.start.map (·.uncal)).getD false) || ((e.stop.map (·.uncal)).getD false)) 2 + flagAt e.early 3 }
  (s.updExt fun e => { e with phase := .idle, start := none, stop := none, early := false, fifo := e.fifo ++ [r] }).raise
    F.MET_INT_STATUS_EXT_DONE

/-- What a write of `MET_EXT_CTRL` sets off: a rise of EN is refused while pair 15 is in use (R226); a write that finds EN at 1 is not tested
(DESIGN CHOICE, log 11). -/
def actExtCtrl (old raw : Word) (s : State) : State :=
  if bit raw 0 ∧ ¬bit old 0 then
    let named := pair15Used s 0 s.met.sched.2 ||
      (match s.met.waiting with
       | some (_, ws) => pair15Used s 0 ws
       | none => false)
    if named ∨ cdBusy s 15 ∨ cdBusy s 31 ∨ cellState s 15 = 2 ∨ cellState s 31 = 2 then
      (s.setFlag F.MET_EXT_CTRL_EN false).raise F.MET_INT_STATUS_EXT_REJECT
    else s
  else s

/-- ARM (R228, R230). -/
def extArm (s : State) : State :=
  let e := s.met.ext
  if ¬s.flag F.MET_EXT_CTRL_EN ∨ e.phase ≠ .idle ∨ 16 ≤ e.fifo.length ∨
      (s.flag F.MET_EXT_CTRL_STOP_SRC ∧ ¬s.flag F.MET_EXT_STATUS_REF_PRESENT) then
    s.raise F.MET_INT_STATUS_EXT_REJECT
  else s.updExt fun e => { e with phase := if s.flag F.MET_EXT_CTRL_GATE_MODE then .gate else .armed }

/-- What a write of `MET_EXT_CMD` sets off. -/
def actExtCmd (_old raw : Word) (s : State) : State :=
  let s1 := if bit raw 1 then s.updExt fun e => { e with phase := .idle, start := none, stop := none, early := false }
    else s
  let s2 := if bit raw 2 then s1.updExt fun e => { e with fifo := e.fifo.drop 1 } else s1
  if bit raw 0 then extArm s2 else s2

/-! ### Fibre asymmetry (R232, R233) -/

/-- What a write of COEF or MPD sets off. -/
def actAsym (p : Nat) (_old _raw : Word) (s : State) : State :=
  let x := signed 32 (s.reg (Reg.MET_PORT_ASYM_COEF p)).toNat * ((s.reg (Reg.MET_PORT_MPD p)).toNat : Int) * 16
  let y := Int.fdiv (2 * x + (2 ^ 40 : Nat)) (2 ^ 41 : Nat)
  let z := clampInt (-(2 ^ 31 : Nat)) ((2 ^ 31 - 1 : Nat) : Int) y
  (s.setReg (Reg.MET_PORT_ASYM p) (BitVec.ofNat 32 (toBits 32 z))).raiseIf (decide (y ≠ z)) F.MET_INT_STATUS_ASYM_SAT

/-! ### Commands -/

/-- R218: no valid result for 100 µs, counted from the release of a hold (log 11); a mean that R217 holds stale stays. -/
def execMeanValidTimeout (i : Fin 1024) (s : State) : Host.Outcome State Fault Refusal :=
  whenMain s fun s => if sourceHeld s i then s else s.setFlag (F.MET_SRC_MEAN_VALID i) false

def execMetCommit (ag : Agent) (d : Word) (s : State) : Host.Outcome State Fault Refusal :=
  whenMain s (regWrite ag Reg.MET_BANK_CTRL Rd.MET_BANK_CTRL actBankCtrl allBits (d ||| 0x10000#32))
def execSchedCommit (s : State) : Host.Outcome State Fault Refusal := whenMain s roundBoundary
def execMetSrcCfgWrite (ag : Agent) (i : Fin 1024) (d : Word) (s : State) : Host.Outcome State Fault Refusal :=
  whenMain s (regWrite ag (Reg.MET_SRC_CFG i) Rd.MET_SRC_CFG (actSrcCfg i) allBits d)
def execTableLoad (ag : Agent) (d : Word) (s : State) : Host.Outcome State Fault Refusal :=
  whenMain s (regWrite ag Reg.MET_TABLE_LOAD Rd.MET_TABLE_LOAD actTableLoad allBits d)
def execTableExchange (c : Fin 32) (s : State) : Host.Outcome State Fault Refusal :=
  whenMain s fun s => if (s.cell c).exch then tableExchange c s else s
def execCellReturn (ag : Agent) (d : Word) (s : State) : Host.Outcome State Fault Refusal :=
  whenMain s (regWrite ag Reg.MET_CELL_RETURN Rd.MET_CELL_RETURN actCellReturn allBits d)
def execMetExtEnWrite (ag : Agent) (d : Word) (s : State) : Host.Outcome State Fault Refusal :=
  whenMain s (regWrite ag Reg.MET_EXT_CTRL Rd.MET_EXT_CTRL actExtCtrl allBits d)

/-- R227: the periods before the last 16 rising edges of TMEAS_REF, in TCLK, all lie within PMIN to PMAX. -/
def execExtRefUp (periods : List Nat) (s : State) : Host.Outcome State Fault Refusal :=
  whenMain s fun s =>
    if s.flag F.MET_EXT_STATUS_REF_PRESENT ∨ periods.length ≠ 16 ∨
        periods.any (fun p => decide (p < s.fld F.MET_EXT_REF_PMIN ∨ s.fld F.MET_EXT_REF_PMAX < p)) then s
    else (s.setFlag F.MET_EXT_STATUS_REF_PRESENT true).raise F.MET_INT_STATUS_EXT_REF_UP

/-- R227: whether TMEAS_REF is absent `since` TCLK after its last edge: an edge comes, outside the range, or none has for 2 × PMAX. -/
def refGone (s : State) (since : Nat) (edge : Bool) : Bool :=
  if edge then decide (since < s.fld F.MET_EXT_REF_PMIN ∨ s.fld F.MET_EXT_REF_PMAX < since)
  else decide (2 * s.fld F.MET_EXT_REF_PMAX ≤ since)

/-- R227, R230: a measurement that uses TMEAS_REF ends with REF_LOST. -/
def execExtRefDown (since : Nat) (edge : Bool) (s : State) : Host.Outcome State Fault Refusal :=
  whenMain s fun s =>
    if s.flag F.MET_EXT_STATUS_REF_PRESENT ∧ refGone s since edge then
      let s1 := (s.setFlag F.MET_EXT_STATUS_REF_PRESENT false).raise F.MET_INT_STATUS_EXT_REF_DOWN
      if s.met.ext.phase ≠ .idle ∧ s.flag F.MET_EXT_CTRL_STOP_SRC then
        (extPush false true s1).raise F.MET_INT_STATUS_EXT_TIMEOUT
      else s1
    else s

def execArm (ag : Agent) (d : Word) (s : State) : Host.Outcome State Fault Refusal :=
  whenMain s (regWrite ag Reg.MET_EXT_CMD Rd.MET_EXT_CMD actExtCmd allBits (d ||| 1))

/-- R228: the first rising edge of TMEAS_GATE after ARM. -/
def execExtGateEdge (rising : Bool) (s : State) : Host.Outcome State Fault Refusal :=
  whenMain s fun s =>
    if rising ∧ s.met.ext.phase = .gate then s.updExt fun e => { e with phase := .armed } else s

/-- Whether the start input of the channel has this edge (R228, R575): of TMEAS_START by its polarity, or the on-die one in self-test. -/
def startSeen (s : State) (onDie rising : Bool) : Bool :=
  if s.flag F.TST_MET_CTRL_EXT_SELF then onDie else !onDie && (rising != s.flag F.MET_EXT_CTRL_START_POL)

/-- Whether the stop input has this edge: in self-test the on-die one, whatever STOP_SRC says (DESIGN CHOICE, log 11). -/
def stopSeen (s : State) (src : StopSrc) (rising : Bool) : Bool :=
  match src with
  | .onDie => s.flag F.TST_MET_CTRL_EXT_SELF
  | .stop => !s.flag F.TST_MET_CTRL_EXT_SELF && !s.flag F.MET_EXT_CTRL_STOP_SRC && (rising != s.flag F.MET_EXT_CTRL_STOP_POL)
  | .ref => !s.flag F.TST_MET_CTRL_EXT_SELF && s.flag F.MET_EXT_CTRL_STOP_SRC && rising

/-- R228: cell 15 takes the first start edge after arming; `coarse` counts TCLK at its edge E. -/
def extStart (onDie rising : Bool) (code : BitVec 12) (coarse : Nat) (s : State) : State :=
  if s.met.ext.own ∧ s.met.ext.phase = .armed ∧ startSeen s onDie rising then
    if belowFloor s 15 code then floorErr 15 s
    else validResult 15 (s.updExt fun e => { e with phase := .started, start := some (extEdge 15 code.toNat coarse s) })
  else s

/-- R228, R229: cell 31 is armed 4 TCLK after cell 15 has latched COARSE, which it does 2 TCLK after its edge E; it takes the first stop edge
from then on, and an earlier one sets the guard latch. The on-die stop edge comes 8 TCLK after the start edge (R575). -/
def extStop (src : StopSrc) (rising : Bool) (code : BitVec 12) (coarse : Nat) (s : State) : State :=
  match s.met.ext.start with
  | some a =>
    let d := (coarse % 2 ^ 32 + 2 ^ 32 - a.edge) % 2 ^ 32
    if ¬s.met.ext.own ∨ s.met.ext.phase ≠ .started ∨ s.met.ext.stop.isSome ∨ ¬stopSeen s src rising ∨ (src = .onDie ∧ d ≠ 8) then s
    else if d < 6 then s.updExt fun e => { e with early := true }
    else if belowFloor s 31 code then floorErr 31 s
    else validResult 31 (s.updExt fun e => { e with stop := some (extEdge 31 code.toNat coarse s) })
  | none => s

def execExtStartEdge (onDie rising : Bool) (code : BitVec 12) (coarse : Nat) (s : State) : Host.Outcome State Fault Refusal :=
  whenMain s (extStart onDie rising code coarse)
def execExtStopEdge (src : StopSrc) (rising : Bool) (code : BitVec 12) (coarse : Nat) (s : State) : Host.Outcome State Fault Refusal :=
  whenMain s (extStop src rising code coarse)

/-- R231: a completed measurement pushes its result. -/
def execExtDone (s : State) : Host.Outcome State Fault Refusal :=
  whenMain s fun s => if s.met.ext.start.isSome ∧ s.met.ext.stop.isSome then extPush false false s else s

/-- R230: the timeout elapses before the stop is taken. -/
def execExtTimeout (s : State) : Host.Outcome State Fault Refusal :=
  whenMain s fun s =>
    if s.met.ext.phase ≠ .idle ∧ s.met.ext.phase ≠ .gate ∧ s.met.ext.stop.isNone ∧ s.fld F.MET_EXT_TIMEOUT_US ≠ 0 then
      (extPush true false s).raise F.MET_INT_STATUS_EXT_TIMEOUT
    else s

def execAbandon (ag : Agent) (d : Word) (s : State) : Host.Outcome State Fault Refusal :=
  whenMain s (regWrite ag Reg.MET_EXT_CMD Rd.MET_EXT_CMD actExtCmd allBits (d ||| 2))
def execMetExtPop (ag : Agent) (d : Word) (s : State) : Host.Outcome State Fault Refusal :=
  whenMain s (regWrite ag Reg.MET_EXT_CMD Rd.MET_EXT_CMD actExtCmd allBits (d ||| 4))

/-- R232: a write of COEF, or of MPD. -/
def execAsymUpdate (ag : Agent) (p : Fin 416) (mpd : Bool) (d : Word) (s : State) : Host.Outcome State Fault Refusal :=
  whenMain s (if mpd then regWrite ag (Reg.MET_PORT_MPD p) Rd.MET_PORT_MPD (actAsym p) allBits d
    else regWrite ag (Reg.MET_PORT_ASYM_COEF p) Rd.MET_PORT_ASYM_COEF (actAsym p) allBits d)

end Sys2Proof.Machine
end

