-- ==== Sys2Proof/Machine/Stamps.lean ====
section
/-!
DEFINITION. Sys2Proof/Machine/Stamps.lean: receive and transmit timestamps and the values of one-step insertion
(04_time_base_and_stamps.md, R174 to R180, R197; 05_link_phase_metrology.md, R204, R205; 16_fault_coverage_and_exact_latencies.md, R556, R558).
-/
namespace Sys2Proof.Machine

/-! ### Fixed parts (R143, R197, R345, R558) -/

/-- Half a symbol, or half a bit, in the same unit. -/
def halfSymbol (l : LaneId) (rate : Nat) : Nat :=
  match l with
  | .data _ => if rate = 0 then 2 else 4
  | .aux _ => wordPeriod l rate / 40

/-- The lane latency of R143, in word-clock cycles. -/
def laneCycles (l : LaneId) (rate : Nat) (tx : Bool) : Nat :=
  match l with
  | .data _ => if rate = 0 then (if tx then 76 else 196) else (if tx then 44 else 112)
  | .aux _ => if tx then 22 else 38

/-- The delay word of a lane, in fs (R119, R120). -/
def laneDelay (l : LaneId) (tx : Bool) (s : State) : Nat :=
  match l with
  | .data n => (s.indw 2 (n * 32 + (if tx then 8 else 9))).toNat % 2 ^ 24
  | .aux m => (s.indw 3 (m * 16 + (if tx then 8 else 9))).toNat % 2 ^ 24

/-- The TX path of a port shape, in PCLK (R556). -/
def txPath (lanes : Nat) (half : Bool) : Nat :=
  match lanes, half with
  | 8, _ => 96
  | 4, false => 104
  | 2, false => 120
  | 1, false => 152
  | 4, true => 128
  | 2, true => 160
  | _, _ => 224

/-- A sum of n/425 ns and d fs and p PCLK (2/3 ns) in 2^−20 ns, rounded to the nearest. -/
def fixWord (n425 fs pclk : Nat) : Word :=
  BitVec.ofNat 32 (divRound ((n425 * 3000000 + fs * 1275 + pclk * 850000000) * 2 ^ 20) 1275000000)

/-- The fixed receive and transmit parts of a lane at a rate code (R197, R558). -/
def laneFix (l : LaneId) (rate path : Nat) (s : State) : Word × Word :=
  let w := wordPeriod l rate
  let rx := laneCycles l rate false * w + halfSymbol l rate
  let tx := laneCycles l rate true * w - halfSymbol l rate
  (fixWord rx (laneDelay l false s) 0, fixWord tx (laneDelay l true s) (539 + path))

/-- RXFIX and TXFIX of a port show the parts of a lane. -/
def setFix (p : Nat) (x : Word × Word) (s : State) : State :=
  (s.setReg (Reg.TBASE_PORT_RXFIX p) x.1).setReg (Reg.TBASE_PORT_TXFIX p) x.2

/-- The fixed parts of a logical port's lanes: its registers show those of its first lane (DESIGN CHOICE, log 10), and a stamp takes those
of the lane that carries the timestamp point (R174). -/
def portFix (p : Nat) (s : State) : State :=
  let rate := if portHalf s p then 1 else 0
  let all := (upto (portLanes s p)).map fun i => laneFix (laneAt (portFirst s p + i)) rate (txPath (portLanes s p) (portHalf s p)) s
  setFix p (nth (0, 0) all 0) (s.updPort p fun r => { r with fixes := all })

/-- The fixed parts of a timing port. -/
def timingFix (m : Fin 32) (s : State) : State :=
  if timingUp s m then setFix (384 + m.val) (laneFix (.aux m) (s.lane (768 + m)).rate 96 s) s else s

/-! ### The place of the timestamp point (R175) -/

/-- Where a stamp's timestamp point lies: the lane of the port, its symbol or bit's position in the lane word in 2^−20 ns, and the edge of that
word as a count from a marker edge. -/
structure Place175 where
  lane : Nat
  p : Nat
  j : Nat
deriving DecidableEq, Repr

/-- The device locates the timestamp point: on a logical port from the alignment markers and the bit ordering of its rate, at one of the 64 symbols
of a word; on a timing port in one of the two character slots. -/
def locate (p : Nat) (st : Stamp) (s : State) : Place175 :=
  if p < 384 then
    let n := portLanes s p
    let (lane, sym) := Config.bitOrder n (portHalf s p) st.off
    { lane := lane % n, p := divRound (sym % 64 * (if portHalf s p then 8 else 4) * 2 ^ 20) 425, j := st.j + sym / 64 }
  else
    { lane := 0, p := divRound (st.off % 2 * (wordPeriod (.aux 0) (s.lane (768 + (p - 384))).rate / 2) * 2 ^ 20) 425, j := st.j + st.off / 2 }

/-- The fixed part, in 2^−20 ns, of a lane of a port. -/
def stampFix (p lane : Nat) (tx : Bool) (s : State) : Nat :=
  let x := if p < 384 then nth (0, 0) (s.port p).fixes lane
    else (s.reg (Reg.TBASE_PORT_RXFIX p), s.reg (Reg.TBASE_PORT_TXFIX p))
  (if tx then x.2 else x.1).toNat

/-! ### Phases (R177, R204, R205) -/

/-- A lane of a port among all lanes: one of a logical port's lanes, or a timing port's own. -/
def stampLane (p lane : Nat) (s : State) : Nat := if p < 384 then portFirst s p + lane else 768 + (p - 384)

/-- The lowest-numbered source slot of a type that names a lane (R205). -/
def phaseSlot (s : State) (typ lane : Nat) : Option Nat :=
  (upto 1024).find? fun i => decide (s.fld (F.MET_SRC_CFG_TYPE i) = typ ∧ s.fld (F.MET_SRC_CFG_LANE i) = lane)

/-- The phase φ of a word edge in 2^−48 ns, a whole count of 2^−20 ns (R204), with the flags NO_PHASE and STALE_PHASE: without a valid mean, the
next TCLK edge, one increment on (R177). -/
def phaseOfEdge (lane : Nat) (tx : Bool) (j inc : Nat) (s : State) : Nat × Nat :=
  let aux := decide (768 ≤ lane)
  let typ := (if aux then 3 else 1) + (if tx then 1 else 0)
  let l := if aux then lane - 768 else lane
  let w := if h : lane < 768 then wordPeriod (.data ⟨lane, h⟩) (s.lane lane).rate
    else wordPeriod (.aux 0) (s.lane lane).rate
  match phaseSlot s typ l with
  | some i =>
    let v := s.reg (Reg.MET_SRC_MEAN i)
    if bit v 31 then
      -- modulo 1.28 ns = 544 / 425 ns
      (divRound ((v.toNat % 2 ^ 21 * 425 + j * w * 2 ^ 20) % (544 * 2 ^ 20)) 425 * 2 ^ 28, flagAt (s.slot i).stale 24)
    else (inc, 2 ^ 23)
  | none => (inc, 2 ^ 23)

/-- LOOPBACK of a record (R149). -/
def loopFlag (lane : Nat) (s : State) : Nat :=
  flagAt (decide ((if lane < 768 then s.fld (F.DLN_LANE_CTRL_LOOPBACK lane) else s.fld (F.ALN_CTRL_LOOPBACK (lane - 768))) ≠ 0)) 25

/-! ### The PCLK edge of insertion (R162) -/

/-- How far the first PCLK edge at or after a TCLK edge lies behind it, in 1/48 TCLK: 48 PCLK in 25 TCLK (R162). -/
def pclkLag (edge : Nat) : Nat := (edge * 48 + 24) / 25 * 25 - edge * 48

/-- A time in 1/48 of 2^−48 ns as a count of 2^−20 ns, rounded to the nearest, halves up. -/
def round20of48 (v : Int) : Int := Int.fdiv (v + (24 * 2 ^ 28 : Nat)) (48 * 2 ^ 28 : Nat)

/-! ### The receive timestamp (R175, R178) -/

/-- The receive timestamp of a frame whose reference edge E came `ago` TCLK cycles back. -/
def rxStamp (src : Nat) (st : Stamp) (ago : Nat) (s : State) : Option RxStamp :=
  if src < 416 ∧ s.flag (F.TBASE_PORT_TS_CTRL_RX_EN src) ∧ tbFormat s ≠ 0 then
    let at' := locate src st s
    let lane := stampLane src at'.lane s
    let e := timeAt ago s
    let (phi, fl) := phaseOfEdge lane false at'.j e.inc s
    let w := tbWrap (tbFormat s) / 2 ^ 28
    let v : Nat := e.value + phi + at'.p * 2 ^ 28 + w * 2 ^ 28 - stampFix src at'.lane false s * 2 ^ 28
    some { v20 := round20 v % w, flags := recordFlags e.epoch s + fl + loopFlag lane s, moved := e.moved }
  else none

/-! ### The transmit timestamp (R175 to R178, R558) -/

/-- A transmit timestamp: its value in 2^−20 ns, its epoch, the sum of the steps that it contains, its flags. -/
structure TxStamp where
  v20 : Nat
  moved : Int
  flags : Nat
deriving DecidableEq, Repr

/-- A time that lies `dur` after the present TCLK edge, both in 1/48 of 2^−48 ns, on the timeline that will be in force there: every command
whose apply edge falls before it is taken into account, as R176 has it, and not R178 (DESIGN CHOICE, log 10). The value, the epoch, the sum of
the steps. -/
def timeAhead (dur : Nat) (s : State) : Int × Nat × Int :=
  let plain : Int := ((s.tb.value * 48 + dur : Nat) : Int)
  match s.tb.pend with
  | some c =>
    let d := tbDue c s * incCur s
    if d * 48 ≤ dur then
      let rest := dur - d * 48
      let inc := c.inc.getD (incCur s)
      let extra := Int.fdiv ((rest : Int) * ((inc : Int) - (incCur s : Int))) (incCur s : Int)
      match c.op with
      | some (.step a) => (plain + a * 48 + extra, (epochNow s + 1) % 4, s.tb.moved + a)
      | some (.load x) => ((x : Int) * 48 + rest + extra, (epochNow s + 1) % 4, s.tb.moved + ((x : Int) - (s.tb.value + d)))
      | none => (plain + extra, epochNow s, s.tb.moved)
    else (plain, epochNow s, s.tb.moved)
  | none => (plain, epochNow s, s.tb.moved)

/-- The timestamp of a frame that is selected now: I is the first PCLK edge at or after the present TCLK edge. -/
def txStamp (p : Nat) (st : Stamp) (s : State) : TxStamp :=
  let at' := locate p st s
  let lane := stampLane p at'.lane s
  let (phi, fl) := phaseOfEdge lane true at'.j (incCur s) s
  let dur := pclkLag s.clk.tclk * incCur s + ((stampFix p at'.lane true s + at'.p) * 2 ^ 28 + phi) * 48
  let (v, ep, mv) := timeAhead dur s
  let w : Nat := tbWrap (tbFormat s) / 2 ^ 28
  { v20 := (round20of48 v % ((w : Nat) : Int)).toNat, moved := mv, flags := recordFlags ep s + fl + loopFlag lane s + 2 ^ 29 }

/-! ### Insertion (R179, R180, R366) -/

/-- The action as the egress carries it out (R180). -/
def effIns (p ins : Nat) (s : State) : Nat :=
  if ins = 1 ∨ ins = 2 ∨ ins = 3 then
    if ¬s.flag (F.TBASE_PORT_TS_CTRL_ONESTEP_EN p) then 4
    else if ins = 1 ∧ tbFormat s = 2 then 4
    else ins
  else if ins = 4 then 4 else 0

/-- A difference in 2^−20 ns as 2^−16 ns, nearest, halves up (R180). -/
def to16 (x : Int) : Int := Int.fdiv (x + 8) 16

/-- What an action writes into a frame that is stamped `t`. -/
def insertion (f : Frame) (ins : Nat) (t : TxStamp) (s : State) : Option InsertVal :=
  let fmt := tbFormat s
  match ins with
  | 1 =>
    let ns : Nat := t.v20 / 2 ^ 20
    some { origin := some (ns / 1000000000 % 2 ^ 48, ns % 1000000000), cf := to16 ((t.v20 % 2 ^ 20 : Nat) : Int) }
  | 2 =>
    let r : Nat := recordValue fmt (nth 0 f.tref 0) (nth 0 f.tref 1) (nth 0 f.tref 2) (nth 0 f.tref 3) / 2 ^ 28
    some { origin := none, cf := to16 ((t.v20 : Int) - (r : Int)) }
  | 3 =>
    match f.rx with
    | some r =>
      let link : Int := if f.p2p then ((s.reg (Reg.FWD_PORT_LINK_DELAY f.src)).toNat : Int) else 0
      some { origin := none, cf := Int.fdiv (((t.v20 : Int) - (r.v20 : Int)) * 2 ^ 28 - (t.moved - r.moved) + 2 ^ 31) (2 ^ 32) + link }
    | none => none
  | _ => none

/-- The transmit record of a stamped frame. -/
def txRecord (p : Nat) (f : Frame) (t : TxStamp) (s : State) : TxtsRec :=
  { words := recordWords (tbFormat s) t.v20 t.flags, tag := f.txTag, port := p }

end Sys2Proof.Machine
end

