-- ==== Sys2Proof/Machine/Port.lean ====
section
/-!
DEFINITION. Sys2Proof/Machine/Port.lean: frames found bad (11_shared_buffer_and_cut_through.md, R418 to R422) and the life of a
logical port (09_mac_and_port_lifecycle.md, R326 to R328, R335 to R339, R342 to R352), with the lane commands that take a port
down or bring a timing port up.
-/
namespace Sys2Proof.Machine

/-! ### Frames found bad (R418 to R421) -/

/-- The quarantine of an ingress port starts, or starts again (R421). -/
def quarantine (p : Nat) (s : State) : State :=
  if p < 384 ∧ s.fld F.BUF_CT_QUARANTINE_US ≠ 0 then
    (s.setFlag (F.BUF_PORT_CFG_QUARANTINED p) true).raise F.BUF_INT_STATUS_CT_QUARANTINE
  else s

/-- A frame of a port is cut short by the port going down (R418). -/
def truncCount (src : Nat) (s : State) : State :=
  if src < 384 then s.bump64 (Reg.BUF_PORT_RX_TRUNC_LO src) 1 (some (F.BUF_PORT_INT_STATUS_CNT_OVF (src / 16))) else s

/-- A frame is found bad. Its head has left: it is stomped, with a quarantine where the cause lies at the ingress; else it is never
sent: one with a bad end is released at its dequeue (R331), any other gives its slices back at once (R332, R409). -/
def foundBad (id : Nat) (c : BadCause) (s : State) : State :=
  match s.frame? id with
  | none => s
  | some f =>
    let s1 := if c = .down ∧ ¬f.aborted then truncCount f.src s else s
    let s2 := s1.setFrame id { f with bad := f.bad.or (some c), cut := f.cut || decide (c = .nofree) }
    match f.phase with
    | .gone => s2
    | .handed =>
      if f.bad.isNone ∧ c ≠ .nofree ∧ c ≠ .egress then quarantine f.src s2 else s2
    | .arrived | .looked =>
      if c = .fcs ∨ c = .oversize then s2
      else tagClose { f with bad := some c } 7 (frameDone id s2)
    | .queued =>
      if c = .fcs ∨ c = .oversize then s2
      else tagClose f (if c = .nofree then 6 else if c = .overflow then 7 else 8) (frameDone id (takeFromQueue id f s2))
    | .selected => if c = .fcs ∨ c = .oversize then s2 else tagClose f (if c = .overflow then 7 else 8) (frameDone id s2)
    | .trapOnly => if c = .fcs ∨ c = .oversize then s2 else tagClose f (if c = .nofree then 6 else 7) (frameDone id s2)

/-- A frame is cut short: nothing more of it will come, it is settled with what has come (R437), and what stays of it ends here. -/
def cutShort (id : Nat) (s : State) : State :=
  let s1 := foundBad id .down s
  match s1.frame? id with
  | some f =>
    let s2 := settlePol f f.bytes.length (settleSched f f.bytes.length s1)
    if f.phase = .gone then s2.dropFrame id else s2.setFrame id { f with ended := true }
  | none => s1

/-- Every frame of an ingress port that goes down before its end is cut short (R418). -/
def ingressDown (p : Nat) (s : State) : State :=
  (s.frames.filter fun x => x.2.src = p ∧ ¬x.2.ended).foldl (fun s x => cutShort x.1 s) s

/-! ### Down (R339, R343, R346, R349) -/

/-- The queues of a port are flushed (R348): each frame counted once, its slices returned. -/
def flushQueues (p : Nat) (s : State) : State :=
  forUpto 16 (fun q s =>
    let s1 := (s.queue (16 * p + q)).foldl (fun s id =>
      match s.frame? id with
      | some f => bumpPort (Reg.PORT_LINGER_FLUSH_LO p) p 1 (tagClose f 10 (frameDone id (unqueue id s)))
      | none => s) s
    queueEmptied p q s1) s

/-- The flush of R348, with its cause. -/
def lingerFlush (p : Nat) (s : State) : State :=
  ((flushQueues p s).setFlag (F.PORT_LIVE_LINGER p) false).raise (F.PORT_INT_STATUS_LINGER_EXPIRED p)

/-- The frames in transmission on an egress are cut off (R346), and nothing else that is found about them counts (R422). -/
def abortSends (p : Nat) (s : State) : State :=
  (s.frames.filter fun x => x.2.egress = p ∧ (x.2.phase = .selected ∨ x.2.phase = .handed)).foldl (fun s x =>
    bumpPort (Reg.PORT_TX_ABORT_LO p) p 1 (tagClose x.2 11 (frameDone x.1 (s.updFrame x.1 fun f => { f with aborted := true })))) s

/-- Nothing is paused on a port any more. -/
def releasePauses (p : Nat) (s : State) : State :=
  (s.setFld (F.PORT_LIVE_PAUSED p) 0).updPort p fun r => { r with pfcHold := [], times := [0, 0, 0, 0, 0, 0, 0, 0] }

/-- The port goes down: the cycle of R346. -/
def portDown (p : Nat) (s : State) : State :=
  let s1 := (s.setFlag (F.PORT_LIVE_UP p) false).raise (F.PORT_INT_STATUS_LINK_DOWN p)
  let s2 := bumpPort (Reg.PORT_LINK_DOWN_COUNT_LO p) p 1 s1
  let s3 := releasePauses p (s2.setFlag (F.PORT_LIVE_RECOVERY p) false)
  let s4 := (abortSends p s3).setFlag (F.PORT_LIVE_LINGER p) true
  let s5 := ingressDown p s4
  if s5.fld (F.PORT_LINGER_US p) = 0 then lingerFlush p s5 else s5

/-- The lanes of a port. -/
def lanesOf (s : State) (p : Nat) : List Nat := (upto (portLanes s p)).map fun i => portFirst s p + i

/-- A lane that is enabled at the port's rate; and aligned too. -/
def laneFits (s : State) (p n : Nat) : Bool :=
  s.flag (F.DLN_LANE_CTRL_EN n) && (s.lane n).on && decide ((s.lane n).rate = (if portHalf s p then 1 else 0))
def laneGood (s : State) (p n : Nat) : Bool := laneFits s p n && s.flag (F.DLN_LANE_STATUS_ALIGNED n)

/-- LANES_FAILED from a test of each lane of the port. -/
def failMask (s : State) (p : Nat) (ok : Nat → Bool) : Nat :=
  ((upto (portLanes s p)).map fun i => flagAt (!ok (portFirst s p + i)) i).sum

/-- Whether a port holds a configuration it was enabled with. -/
def portActive (s : State) (p : Nat) : Bool := s.flag (F.PORT_CFG_EN p) && s.flag (F.PORT_LIVE_CFG_OK p)

/-- Whether a lane of the group from `first` belongs to another port (R327). -/
def laneTaken (s : State) (p first n : Nat) : Bool :=
  (upto 384).any fun q => decide (q ≠ p) && portActive s q &&
    decide (first < portFirst s q + portLanes s q ∧ portFirst s q < first + n)

/-- The check of a configuration (R327). -/
def portCfgOk (s : State) (p : Nat) (c : Word) : Bool :=
  let n := 2 ^ bits c 1 2
  decide (bits c 4 10 % n = 0) && !(decide (bits c 1 2 = 3) && bit c 3) && !laneTaken s p (bits c 4 10) n &&
    !(bit c 14 && bit c 15)

/-- A rise of EN (R327, R344, R345). -/
def portRise (p : Nat) (s : State) : State :=
  let c := s.reg (Reg.PORT_CFG p)
  if portCfgOk s p c then
    let s1 := ((s.updPort p fun r => { r with cfg := c }).setFlag (F.PORT_LIVE_CFG_OK p) true)
    portFix p (s1.setFld (F.PORT_LIVE_LANES_FAILED p) (failMask s1 p (laneFits s1 p)))
  else (s.setFlag (F.PORT_LIVE_CFG_OK p) false).raise (F.PORT_INT_STATUS_CFG_REJECT p)

/-- A fall of EN (R343, R349): down in this cycle, and the queues flushed whatever PORT_LINGER holds. -/
def portFall (p : Nat) (s : State) : State :=
  let s1 := if s.flag (F.PORT_LIVE_UP p) then portDown p s else s
  let s2 := if s1.flag (F.PORT_LIVE_LINGER p) then lingerFlush p s1 else s1
  ((s2.setFlag (F.PORT_LIVE_PCS_LOCK p) false).setFlag (F.PORT_LIVE_FEC_LOCK p) false)

/-- What a write of `PORT_CFG` sets off (R327, R328). -/
def actPortCfg (p : Nat) (old raw : Word) (s : State) : State :=
  if bit raw 0 ∧ ¬bit old 0 then portRise p s
  else if bit old 0 ∧ ¬bit raw 0 then portFall p s
  else s

/-- A generator pattern on a lane takes the port that holds the lane down (R146, R343). -/
def generatorOn (n : Nat) (s : State) : State :=
  match (upto 384).find? fun p => s.flag (F.PORT_LIVE_UP p) && (lanesOf s p).contains n with
  | some p => portDown p s
  | none => s

/-- The encoder's disparity as the old value of a register that chooses what it encodes has left it (R140). -/
def keepPlusOf (m : Fin 32) (a : Nat) (old : Word) (s : State) : State := (keepPlus m (s.setReg a old)).setReg a (s.reg a)

/-- What a write of a PRBS control register sets off (R146, R147): a new generator pattern starts at the next word. -/
def actPrbs (l : LaneId) (old raw : Word) (s : State) : State :=
  let s1 := actChecker l old raw s
  let s2 := match l with
    | .data _ => s1
    | .aux m => keepPlusOf m (Reg.ALN_PRBS_CTRL m) old s1
  let s3 := if s2.fld (genPatFld l) ≠ bits old 0 4 then s2.updLane (laneIdx l) fun r => { r with genFrom := wordIndex s l + 1 } else s2
  match l with
  | .data n => if s3.fld (F.DLN_PRBS_CTRL_GEN_PAT n) ≠ 0 then generatorOn n s3 else s3
  | .aux _ => s3

/-- What a write of `TST_RAW_TX` sets off (R574). -/
def actRawTx (i : Nat) (old _raw : Word) (s : State) : State := keepPlusOf (Fin.ofNat 32 i) (Reg.TST_RAW_TX (i % 32)) old s

/-- What a write of `ALN_CTRL` sets off. A timing port that waited for auto-negotiation only comes up when AN_EN is cleared, and its fixed
parts are formed then (R197, R352). -/
def actAlnPort (m : Nat) (old raw : Word) (s : State) : State :=
  let s1 := actAlnCtrl m old raw s
  if bit old 10 ∧ ¬bit raw 10 ∧ ¬s1.flag (F.ALN_LANE_STATUS_AN_COMPLETE m) then timingFix (Fin.ofNat 32 m) s1 else s1

/-- A write of the PRBS control register of a lane. -/
def prbsWrite (ag : Agent) (l : LaneId) (d : Word) (s : State) : Host.Outcome State Fault Refusal :=
  whenMain s (match l with
    | .data n => regWrite ag (Reg.DLN_PRBS_CTRL n) Rd.DLN_PRBS_CTRL (actPrbs l) allBits d
    | .aux m => regWrite ag (Reg.ALN_PRBS_CTRL m) Rd.ALN_PRBS_CTRL (actPrbs l) allBits d)

/-! ### Up (R342, R345, R347, R350, R351) -/

/-- The conditions of R342. -/
def upConditions (s : State) (p : Nat) : Bool :=
  portActive s p && (lanesOf s p).all (laneGood s p) && s.flag (F.PORT_LIVE_PCS_LOCK p) && s.flag (F.PORT_LIVE_FEC_LOCK p) &&
    !s.flag (F.PORT_LIVE_LOCAL_FAULT p) && !s.flag (F.PORT_LIVE_REMOTE_FAULT p)

/-- The port comes up. -/
def portComesUp (p : Nat) (s : State) : State :=
  let s1 := ((portFix p s).setFlag (F.PORT_LIVE_UP p) true).raise (F.PORT_INT_STATUS_LINK_UP p)
  let s2 := s1.setFld (F.PORT_LIVE_LANES_FAILED p) 0
  let s3 := if s2.flag (F.PORT_LIVE_LINGER p) then
      (s2.setFlag (F.PORT_LIVE_LINGER p) false).raise (F.PORT_INT_STATUS_RECOVERED p)
    else s2
  s3.setFlag (F.PORT_LIVE_RECOVERY p) (decide (s3.fld (F.PORT_RECOVERY_US p) ≠ 0))

/-- What the PCS and the RS report (R342, R343). -/
def showPcs (p : Nat) (pcs fec local' remote : Bool) (s : State) : State :=
  (((s.setFlag (F.PORT_LIVE_PCS_LOCK p) pcs).setFlag (F.PORT_LIVE_FEC_LOCK p) fec).setFlag
    (F.PORT_LIVE_LOCAL_FAULT p) local').setFlag (F.PORT_LIVE_REMOTE_FAULT p) remote

/-- The port goes down for one of the causes of R343: bit 0 of `cause` the PCS, 1 the FEC, 2 a local, 3 a remote fault; or a lane that
is no longer aligned, which leaves the PCS without lock. -/
def linkDown (p : Nat) (cause : Nat) (s : State) : State :=
  let lanes := (lanesOf s p).all (laneGood s p)
  if s.flag (F.PORT_LIVE_UP p) ∧ (cause ≠ 0 ∨ ¬lanes) then
    let pcs := lanes && !cause.testBit 0
    let s1 := showPcs p pcs (pcs && !cause.testBit 1) (cause.testBit 2) (cause.testBit 3) s
    portDown p (s1.raiseIf (cause.testBit 3) (F.PORT_INT_STATUS_REMOTE_FAULT p))
  else s

/-- The lane timeout (R344). -/
def laneTimeout (p : Nat) (s : State) : State :=
  if portActive s p ∧ ¬s.flag (F.PORT_LIVE_UP p) then
    let m := failMask s p (laneGood s p)
    if m ≠ 0 then (s.setFld (F.PORT_LIVE_LANES_FAILED p) m).raise (F.PORT_INT_STATUS_LANE_FAIL p)
    else s.raiseIf (!s.flag (F.PORT_LIVE_PCS_LOCK p)) (F.PORT_INT_STATUS_DESKEW_FAIL p)
  else s

/-! ### Commands -/

def execLaneDisable (ag : Agent) (l : LaneId) (d : Word) (s : State) : Host.Outcome State Fault Refusal :=
  whenMain s (match l with
    | .data n => regWrite ag (Reg.DLN_LANE_CTRL n) Rd.DLN_LANE_CTRL (actDlnLaneCtrl n) allBits (d &&& ~~~1)
    | .aux m => regWrite ag (Reg.ALN_CTRL m) Rd.ALN_CTRL (actAlnPort m) allBits (d &&& ~~~1))

def execLoopbackChange (ag : Agent) (l : LaneId) (d : Word) (s : State) : Host.Outcome State Fault Refusal :=
  whenMain s (match l with
    | .data n => regWrite ag (Reg.DLN_LANE_CTRL n) Rd.DLN_LANE_CTRL (actDlnLaneCtrl n) allBits d
    | .aux m => regWrite ag (Reg.ALN_CTRL m) Rd.ALN_CTRL (actAlnPort m) allBits d)

def execAlnLaneEnable (ag : Agent) (m : Fin 32) (d : Word) (s : State) : Host.Outcome State Fault Refusal :=
  whenMain s (regWrite ag (Reg.ALN_CTRL m) Rd.ALN_CTRL (actAlnPort m) allBits (d ||| 1))

def execResync (ag : Agent) (m : Fin 32) (d : Word) (s : State) : Host.Outcome State Fault Refusal :=
  whenMain s (regWrite ag (Reg.ALN_CTRL m) Rd.ALN_CTRL (actAlnPort m) allBits (d ||| 0x1000#32))

def execPrbsGenSet (ag : Agent) (l : LaneId) (d : Word) (s : State) : Host.Outcome State Fault Refusal := prbsWrite ag l d s
def execChkReseed (ag : Agent) (l : LaneId) (d : Word) (s : State) : Host.Outcome State Fault Refusal :=
  prbsWrite ag l (d ||| 0x10000#32) s

/-- R138, R352: synchronisation, once the code groups received have brought it about; the boundary is fixed. -/
def execSyncAcq (m : Fin 32) (bitSlip : Fin 20) (s : State) : Host.Outcome State Fault Refusal :=
  whenMain s fun s =>
    if (s.lane (768 + m)).on ∧ s.flag (F.ALN_LANE_STATUS_CDR_LOCK m) ∧ (s.lane (768 + m)).acq = 6 ∧ ¬s.flag (F.ALN_LANE_STATUS_SYNC m) then
      let s1 := (s.setFlag (F.ALN_LANE_STATUS_SYNC m) true).setFld (F.ALN_LANE_STATUS_BIT_SLIP m) bitSlip.val
      timingFix m ((s1.raise (F.ALN_INT_STATUS_SYNC_ACQ m)).updLane (768 + m) fun l =>
        { l with misplaced := false, badGroups := 0, goodGroups := 0, acq := 0 })
    else s

/-- R142, R352: Clause 37 auto-negotiation of a timing port completes. -/
def execAnDone (m : Fin 32) (s : State) : Host.Outcome State Fault Refusal :=
  whenMain s fun s =>
    if (s.lane (768 + m)).on ∧ (s.lane (768 + m)).mode = 0 ∧ s.flag (F.ALN_LANE_STATUS_SYNC m) ∧
        s.flag (F.ALN_CTRL_AN_EN m) then
      timingFix m ((s.setFlag (F.ALN_LANE_STATUS_AN_COMPLETE m) true).raise (F.ALN_INT_STATUS_AN_DONE m))
    else s

def execPortEnable (ag : Agent) (p : Fin 384) (d : Word) (s : State) : Host.Outcome State Fault Refusal :=
  whenMain s (regWrite ag (Reg.PORT_CFG p) Rd.PORT_CFG (actPortCfg p) allBits (d ||| 1))
def execPortDisable (ag : Agent) (p : Fin 384) (d : Word) (s : State) : Host.Outcome State Fault Refusal :=
  whenMain s (regWrite ag (Reg.PORT_CFG p) Rd.PORT_CFG (actPortCfg p) allBits (d &&& ~~~1))

/-- R342: the PCS gains its locks, or the RS stops seeing a fault. -/
def execPcsLock (p : Fin 384) (pcs fec local' remote : Bool) (s : State) : Host.Outcome State Fault Refusal :=
  whenMain s fun s =>
    if portActive s p then
      showPcs p pcs fec local' remote (s.raiseIf (remote && !s.flag (F.PORT_LIVE_REMOTE_FAULT p)) (F.PORT_INT_STATUS_REMOTE_FAULT p))
    else s

def execLinkUp (p : Fin 384) (s : State) : Host.Outcome State Fault Refusal :=
  whenMain s fun s => if upConditions s p ∧ ¬s.flag (F.PORT_LIVE_UP p) then portComesUp p s else s
def execLinkDown (p : Fin 384) (cause : BitVec 4) (s : State) : Host.Outcome State Fault Refusal :=
  whenMain s (linkDown p cause.toNat)
def execLaneFail (p : Fin 384) (s : State) : Host.Outcome State Fault Refusal := whenMain s (laneTimeout p)

/-- R348: the linger window ends before the port is up. -/
def execLingerExpired (p : Fin 384) (s : State) : Host.Outcome State Fault Refusal :=
  whenMain s fun s => if s.flag (F.PORT_LIVE_LINGER p) then lingerFlush p s else s

/-- R350: the recovery time ends. -/
def execRecoveryEnd (p : Fin 384) (s : State) : Host.Outcome State Fault Refusal :=
  whenMain s fun s =>
    if s.flag (F.PORT_LIVE_RECOVERY p) then
      (s.setFlag (F.PORT_LIVE_RECOVERY p) false).raise (F.PORT_INT_STATUS_RECOVERY_END p)
    else s

/-- R336: the pause time of a priority runs out; under PAUSE it is priority 0. -/
def execPauseExpire (p : Fin 384) (k : Fin 8) (s : State) : Host.Outcome State Fault Refusal :=
  whenMain s fun s => (s.setRbit (Reg.PORT_LIVE p) (24 + k) false).updPort p fun r => { r with times := setNth r.times k 0 }

/-- R338: while XOFF holds, its frame is sent again every QUANTA ÷ 2. -/
def execPfcRefresh (p : Fin 384) (k : Fin 8) (s : State) : Host.Outcome State Fault Refusal :=
  whenMain s fun s =>
    if s.rbit (Reg.BUF_PORT_PG_STATUS p) k then pfcAsk p k (s.fld (F.PORT_PFC_TX_QUANTA p)) s else s

/-- R421: the quarantine of a port ends. -/
def execQuarantineEnd (p : Fin 384) (s : State) : Host.Outcome State Fault Refusal :=
  whenMain s fun s => s.setFlag (F.BUF_PORT_CFG_QUARANTINED p) false

end Sys2Proof.Machine
end

