-- ==== Sys2Proof/Machine/Fwd.lean ====
section
/-!
DEFINITION. Sys2Proof/Machine/Fwd.lean: the tables, their staging and commit, and the pipeline's lookup
(10_forwarding_pipeline.md, R357 to R379, R384 to R391). The active tables are the stored words of domain 0x06: the copies of the 24
pipelines hold the same words (log 23).
-/
namespace Sys2Proof.Machine

/-! ### The tables (R363, R369, R371, R373, R376, R384) -/

/-- The entry that a word address of domain 0x06 lies in: its first word and how many words it has. -/
def entryOf (w : Nat) : Option (Nat × Nat) :=
  if w < 0x200000 then some (w / 4 * 4, 4)
  else if w < 0x600000 then some (w / 2 * 2, 2)
  else if w < 0xB00000 then some (0x600000 + (w - 0x600000) / 5 * 5, 5)
  else if w < 0xD00000 then some (w, 1)
  else if w < 0xD04000 then some (w, 1)
  else if w < 0xD40000 then none
  else if w < 0xD80000 then some (w / 4 * 4, 4)
  else if w < 0xD80100 then some (w / 8 * 8, 8)
  else if w < 0xE00000 then none
  else if w < 0x1000000 then some (w / 32 * 32, 32)
  else none

/-- A word as its entry stores it: reserved bits 0, and the values of R365 and R376. -/
def entryWord (w : Nat) (d : Word) : Word :=
  if w < 0x200000 then nth 0 [d, d &&& 0x8FFFFFFF#32, d &&& 0x3FFF0007#32, 0] (w % 4)
  else if w < 0xD00000 then d
  else if w < 0xD04000 then d &&& 0x800001FF#32
  else if w < 0xD80000 then nth 0 [d, d &&& 0x3FFFFFFF#32, d, d &&& 0x81FFFFFF#32] (w % 4)
  else if w < 0xD80100 then
    match w % 8 with
    | 0 => d &&& 0xFFFFFFF7#32
    | 1 => d &&& 0x3FF#32
    | 4 => if bits d 3 3 = 3 ∨ bits d 3 3 = 4 then d &&& 0xFF#32 else d &&& 0xC7#32
    | _ => 0
  else
    let k := w % 32
    if k < 24 then d
    else if k = 24 then (if bits d 3 4 = 15 then putBits d 3 4 14 else d) &&& 0x801FFFFF#32
    else if k = 25 then d &&& 0x3FFF#32
    else 0

/-- An active word. -/
def tw (s : State) (w : Nat) : Word := s.indw 6 w

/-- The staged entry with a first word, if there is one. -/
def stagedEntry (s : State) (b : Nat) : Option (List Word) := (s.net.staged.find? fun e => e.1 == b).map (·.2)

/-- A word of the staged view: the active table with the staged entries laid over it (R391). -/
def viewWord (s : State) (w : Nat) : Word :=
  match entryOf w with
  | some (b, _) =>
    match stagedEntry s b with
    | some ws => nth 0 ws (w - b)
    | none => tw s w
  | none => 0

/-! ### Staging (R385, R386) -/

def noGather (_ : Nat) : Option (Nat × List (Nat × Word)) := none

/-- Insert a staged entry in index order. -/
def stageIns (b : Nat) (ws : List Word) : List (Nat × List Word) → List (Nat × List Word)
  | [] => [(b, ws)]
  | e :: es => if b < e.1 then (b, ws) :: e :: es else if b = e.1 then (b, ws) :: es else e :: stageIns b ws es

/-- Stage an entry: it replaces itself; beyond 4,096 entries it is dropped (R386). -/
def stageEntry (b : Nat) (ws : List Word) (s : State) : State :=
  if (stagedEntry s b).isSome ∨ s.net.staged.length < 4096 then
    s.updNet fun n => { n with staged := stageIns b ws n.staged, eccBad := n.eccBad.filter fun e => e.2 != b }
  else (s.raise F.FWD_INT_STATUS_STAGE_FULL).updNet fun n =>
    { n with stageLost := some (match n.stageLost with
        | some x => min x b
        | none => b) }

/-- A window's write of a word: gathered, and the entry staged with its last word (R385). -/
def stageWrite (win w : Nat) (d : Word) (s : State) : State :=
  match entryOf w with
  | none => s
  | some (b, n) =>
    let got := match smapGet noGather s.net.gather win with
      | some (b', l) => if b' = b then l else []
      | none => []
    if w + 1 = b + n then
      let ws := (upto n).map fun i =>
        if i + 1 = n then entryWord w d
        else match got.find? fun x => x.1 == b + i with
          | some x => entryWord (b + i) x.2
          | none => viewWord s (b + i)
      stageEntry b ws (s.updNet fun t => { t with gather := smapSet noGather t.gather win none })
    else s.updNet fun t =>
      { t with gather := smapSet noGather t.gather win (some (b, (w, d) :: got.filter fun x => x.1 != w)) }

/-- The staging set empties. -/
def stageEmpty (s : State) : State := s.updNet fun n => { n with staged := [], stageLost := none, eccBad := [] }

/-! ### The commit (R387 to R390) -/

/-- What a write of `FWD_COMMIT_CMD` sets off. -/
def actCommitCmd (_old raw : Word) (s : State) : State :=
  if bits raw 0 2 = 0 then s
  else if s.net.commit ≠ 0 then s.raise F.FWD_INT_STATUS_COMMIT_BUSY
  else if bit raw 0 then
    (s.updNet fun n => { n with commit := 1 }).raiseIf (bit raw 1) F.FWD_INT_STATUS_COMMIT_BUSY
  else stageEmpty s

/-- The words of domain 0x06 that the staged view holds beyond zeros. -/
def viewKeys (s : State) : List Nat :=
  (s.ind.filterMap fun p => if indKey 6 0 ≤ p.1 ∧ p.1 < indKey 7 0 then some (p.1 - indKey 6 0) else none) ++
    s.net.staged.flatMap fun e => (upto e.2.length).map fun i => e.1 + i

/-- In the staged view: whether a group is valid, and whether a next hop is. -/
def groupValid (s : State) (g : Nat) : Bool := bit (viewWord s (0xD00000 + g)) 31
def hopValid (s : State) (n : Nat) : Bool := bit (viewWord s (0xD40000 + 4 * n + 3)) 31

/-- The member named in slot k of group g, from a view of the words. -/
def memberOf (v : Nat → Word) (g k : Nat) : Nat := bits (v (0xB00000 + 128 * g + k / 2)) (16 * (k % 2)) 16

/-- A valid group breaks no rule: COUNT 1 to 256, and every slot below it names a valid next hop. -/
def groupOk (s : State) (g : Nat) : Bool :=
  let w := viewWord s (0xD00000 + g)
  let c := bits w 0 9
  !bit w 31 || (decide (1 ≤ c ∧ c ≤ 256) && (upto c).all fun k => hopValid s (memberOf (viewWord s) g k))

/-- The group that an entry names as its result, if it does. -/
def groupNamed (s : State) (w : Nat) : Option Nat :=
  let v := viewWord s
  match entryOf w with
  | some (b, 4) =>
    if b < 0x200000 ∧ bit (v (b + 1)) 31 ∧ bits (v (b + 2)) 0 3 = 2 then some (bits (v (b + 2)) 16 14) else none
  | some (b, 2) => if bit (v (b + 1)) 31 ∧ bits (v (b + 1)) 8 2 = 0 then some (bits (v (b + 1)) 10 14) else none
  | some (b, 5) => if bit (v (b + 4)) 31 ∧ bits (v (b + 4)) 8 2 = 0 then some (bits (v (b + 4)) 10 14) else none
  | some (b, 32) => if bit (v (b + 24)) 31 ∧ bit (v (b + 24)) 20 then some (bits (v (b + 25)) 0 14) else none
  | _ => none

/-- Whether a staged entry breaks a range, valid or not, or a reference, in the view after the commit (R387, CAUSE 3). -/
def entryBreaks (s : State) (b : Nat) : Bool :=
  let v := viewWord s
  let badGroup := match groupNamed s b with
    | some g => !groupValid s g
    | none => false
  if b < 0x200000 then
    badGroup || decide (bits (v (b + 2)) 0 3 = 1 ∧ 383 < bits (v (b + 2)) 16 14)
  else if b < 0x600000 then badGroup || decide (32 < bits (v (b + 1)) 0 8)
  else if b < 0xB00000 then badGroup || decide (128 < bits (v (b + 4)) 0 8)
  else if b < 0xD00000 then !groupOk s ((b - 0xB00000) / 128)
  else if b < 0xD40000 then
    let g := b - 0xD00000
    !groupOk s g || (!groupValid s g && (viewKeys s).any fun w => groupNamed s w == some g)
  else if b < 0xD80000 then
    let n := (b - 0xD40000) / 4
    decide (383 < bits (v (b + 3)) 16 9) ||
      (!hopValid s n && (viewKeys s).any fun w => decide (0xD00000 ≤ w ∧ w < 0xD04000) && groupValid s (w - 0xD00000) &&
        (upto (bits (v w) 0 9)).any fun k => memberOf v (w - 0xD00000) k == n)
  else if b < 0xE00000 then false
  else badGroup

/-- The signature of the staging set (R387). -/
def stageSig (s : State) : Word := fcsOf (s.net.staged.flatMap fun e => wordBytes e.2)

/-- The value that 13 or more of the 24 signatures share. -/
def majority (sigs : List Word) : Option Word := sigs.find? fun x => decide (13 ≤ (sigs.filter (· == x)).length)

/-- The first failing entry of a pipeline with its cause, before `fall`. -/
def firstFail : List (Nat × Nat) → Option (Nat × Nat)
  | [] => none
  | (w, c) :: r =>
    match firstFail r with
    | some (w', c') => if w < w' ∨ (w = w' ∧ c ≤ c') then some (w, c) else some (w', c')
    | none => some (w, c)

/-- The result of the check in pipeline n: `ecc` names the pipelines and entries with an ECC error, `devs` how each pipeline's
signature deviates from that of the staging set. -/
def pipeFail (s : State) (ecc : List (Nat × Nat)) (sigs : List Word) (n : Nat) : Option (Nat × Nat) :=
  let first := (s.net.staged.head?.map (·.1)).getD 0
  let c1 := ecc.filterMap fun e => if e.1 = n ∧ (stagedEntry s e.2).isSome then some (e.2, 1) else none
  let c2 := if s.net.staged.isEmpty ∨ majority sigs = some (nth 0 sigs n) then [] else [(first, 2)]
  let c3 := s.net.staged.filterMap fun e => if entryBreaks s e.1 then some (e.1, 3) else none
  match s.net.stageLost with
  | some b => some (b, 4)
  | none => firstFail (c1 ++ c2 ++ c3)

/-- The uncorrectable errors that a check meets are counted and logged as what an access finds (R545, R547). -/
def checkErrors (ecc : List (Nat × Nat)) (s : State) : State :=
  ecc.foldl (fun s e => if e.1 < 24 ∧ (stagedEntry s e.2).isSome then faultLog 2 0x0A (0x20 + e.1) e.2 s else s) s

/-- The end of the slowest check (R388, R389). With ECC_EN = 0 no error is seen. -/
def checkEnd (found : List (Nat × Nat)) (devs : List Word) (u : State) : State :=
  let on := u.flag F.FLT_CTRL_ECC_EN
  let ecc := if on then found ++ u.net.eccBad else []
  let s := if on then checkErrors found u else u
  let sigs := (upto 24).map fun n => stageSig s ^^^ nth 0 devs n
  let fails := (upto 24).filterMap fun n => (pipeFail s ecc sigs n).map fun x => (n, x.1, x.2)
  match fails with
  | [] => s.updNet fun n => { n with commit := 2 }
  | (n0, _, c0) :: _ =>
    let mask := (fails.map fun x => 2 ^ x.1).sum
    let addr := (fails.map fun x => x.2.1).foldl min (2 ^ 24)
    let s1 := (s.setReg Reg.FWD_COMMIT_FAIL (BitVec.ofNat 32 (n0 + c0 * 256))).setReg Reg.FWD_COMMIT_FAIL_MASK
      (BitVec.ofNat 32 mask)
    let s2 := (s1.setReg Reg.FWD_COMMIT_FAIL_ADDR (BitVec.ofNat 32 addr)).raise F.FWD_INT_STATUS_COMMIT_FAIL
    let s3 := s2.updNet fun n => { n with commit := 0, stageLost := none }
    let noMaj := (majority sigs).isNone
    let s4 := (fails.filter fun x => x.2.2 = 1 ∨ (x.2.2 = 2 ∧ ¬noMaj)).foldl (fun s x => faultLog 8 0x0A x.1 0 s) s3
    if noMaj ∧ fails.any (fun x => x.2.2 == 2) then faultLog 8 0x0A 24 0 s4 else s4

/-- The staging set becomes live in every pipeline (R388). -/
def commitLive (s : State) : State :=
  let s1 := s.net.staged.foldl (fun s e => forUpto e.2.length (fun i s => s.setIndw 6 (e.1 + i) (nth 0 e.2 i)) s) s
  (stageEmpty s1).updNet fun n => { n with commit := 3 }

/-! ### Lookups (R363 to R376) -/

/-- A valid classifier entry matches a PTP message (R364). -/
def clsMatches (s : State) (bs : List Byte) (o enc tclass i : Nat) : Bool :=
  let w0 := tw s (0xD80000 + 8 * i)
  let w1 := tw s (0xD80000 + 8 * i + 1)
  let two := byteAt bs (o + 6) / 2 % 2
  let da := beNat (slice bs 0 6)
  bit w0 31 && bit w0 enc && bit w0 (4 + byteAt bs o % 16) &&
    (!bit w0 28 || decide (bits w0 20 8 = byteAt bs (o + 4))) &&
    decide (bits w0 29 2 = 0 ∨ (bits w0 29 2 = 1 ∧ two = 0) ∨ (bits w0 29 2 = 2 ∧ two = 1)) &&
    (match bits w1 8 2 with
     | 0 => true
     | 1 => decide (da = 0x011B19000000)
     | 2 => decide (da = 0x0180C200000E)
     | _ => decide (byteAt bs 0 % 2 = 0)) &&
    bit w1 tclass

/-- The bucket of an L2 key (R368). -/
def l2Bucket (vid da : Nat) : Nat := (fcsOf (beBytes 2 vid ++ beBytes 6 da)).toNat % 2 ^ 17

/-- The lowest way of the bucket that holds the key. -/
def l2Find (s : State) (vid da : Nat) : Option Nat :=
  ((upto 4).map fun k => 4 * l2Bucket vid da + k).find? fun i =>
    let w1 := tw s (4 * i + 1)
    bit w1 31 && decide (bits w1 16 12 = vid ∧ bits w1 0 16 * 2 ^ 32 + (tw s (4 * i)).toNat = da)

/-- The longest match among the entries of one IP version (R372): entries of `n` words from `base`, addresses of `aw` bits. -/
def lpmFind (s : State) (base top n aw vrf addr : Nat) : Option Nat :=
  (s.ind.foldl (fun (r : Option (Nat × Nat)) p =>
    let w := p.1 - indKey 6 0
    if p.1 < indKey 6 base ∨ indKey 6 top ≤ p.1 ∨ (w - base) % n ≠ n - 1 then r
    else
      let b := w + 1 - n
      let len := bits p.2 0 8
      let pre := leNat (wordBytes ((upto (n - 1)).map fun k => tw s (b + k)))
      if bit p.2 31 ∧ bits p.2 24 7 = vrf ∧ len ≤ aw ∧ pre / 2 ^ (aw - len) = addr / 2 ^ (aw - len) then
        match r with
        | some (_, l) => if l < len then some (w, len) else r
        | none => some (w, len)
      else r) none).map (·.1)

/-- The key of the ACL (R375). -/
def aclKey (h : Hdr) (vid src : Nat) (routed : Bool) (ptpType : Nat) : Nat :=
  beNat h.ipSrc + beNat h.ipDst * 2 ^ 128 + h.sport * 2 ^ 256 + h.dport * 2 ^ 272 + src * 2 ^ 288 + vid * 2 ^ 297 +
    h.pcp * 2 ^ 309 + h.etype * 2 ^ 312 + h.dscp * 2 ^ 328 + h.ecn * 2 ^ 334 + h.proto * 2 ^ 336 + h.flags * 2 ^ 344 +
    (if h.ver = 4 then 1 else if h.ver = 6 then 2 else 0) * 2 ^ 352 + flagAt h.frag 354 + flagAt routed 355 + ptpType * 2 ^ 356

/-- The lowest valid ACL entry that matches a key (R376). -/
def aclFind (s : State) (key : Nat) : Option Nat :=
  (s.ind.find? fun p =>
    let w := p.1 - indKey 6 0
    decide (indKey 6 0xE00000 ≤ p.1 ∧ p.1 < indKey 7 0 ∧ w % 32 = 24) && bit p.2 31 &&
      (upto 12).all fun k =>
        let m := tw s (w - 24 + 12 + k)
        BitVec.ofNat 32 (key / 2 ^ (32 * k)) &&& m == tw s (w - 24 + k) &&& m).map fun p =>
          (p.1 - indKey 6 0xE00000) / 32

/-- Where the lookups have brought a frame. -/
structure Look where
  drop : Bool := false
  trap : Option Nat := none
  copy : Option Nat := none
  group : Option Nat := none
  egress : Nat := 511
  routed : Bool := false
deriving DecidableEq, Repr

/-- Advance a counter of pipeline n. -/
def bumpPipe (a n : Nat) (s : State) : State := s.bump64 a 1 (some (F.FWD_PIPE_INT_STATUS_CNT_OVF n))

/-- LPM and the TTL rule (R372). -/
def lookRoute (n src : Nat) (h : Hdr) (s : State) : Look × State :=
  let vrf := s.fld (F.FWD_PORT_CFG_VRF src)
  let hit := if h.ver = 4 then lpmFind s 0x200000 0x600000 2 32 vrf (beNat h.ipDst)
    else if h.ver = 6 then lpmFind s 0x600000 0xB00000 5 128 vrf (beNat h.ipDst) else none
  match hit with
  | none => ({ drop := true }, bumpPipe (Reg.FWD_LPM_MISS_LO n) n s)
  | some w =>
    let r := tw s w
    match bits r 8 2 with
    | 0 =>
      if h.ttl ≤ 1 then
        (if s.flag F.FWD_CTRL_TTL_TRAP then { trap := some 6, routed := true } else { drop := true, routed := true },
          bumpPipe (Reg.FWD_TTL_EXP_LO n) n s)
      else ({ group := some (bits r 10 14), routed := true }, s)
    | 2 => ({ trap := some 5, routed := true }, s)
    | _ => ({ drop := true, routed := true }, s)

/-- The L2 stage and what follows from its result (R362, R369, R370). -/
def lookL2 (n src vid : Nat) (bs : List Byte) (h : Hdr) (s : State) : Look × State :=
  if h.err then ({ drop := true }, bumpPipe (Reg.FWD_HDR_ERR_LO n) n s)
  else
    match l2Find s vid (beNat (slice bs 0 6)) with
    | none =>
      if s.flag (F.FWD_PORT_CFG_L2_MISS src) then ({ trap := some 3 }, s)
      else ({ drop := true }, bumpPipe (Reg.FWD_L2_MISS_LO n) n s)
    | some i =>
      let w2 := tw s (4 * i + 2)
      match bits w2 0 3 with
      | 1 =>
        if bits w2 16 14 = src ∧ ¬s.flag (F.FWD_PORT_CFG_HAIRPIN src) then
          ({ drop := true }, bumpPipe (Reg.FWD_HAIRPIN_DROP_LO n) n s)
        else ({ egress := bits w2 16 14 }, s)
      | 2 => ({ group := some (bits w2 16 14) }, s)
      | 3 => lookRoute n src h s
      | 4 => ({ trap := some 4 }, s)
      | _ => ({ drop := true }, s)

/-- The next hop of a flow in a group (R373, R374). -/
def ecmpHop (s : State) (g hash : Nat) : Nat :=
  memberOf (tw s) g (hash / 2 ^ 16 * bits (tw s (0xD00000 + g)) 0 9 / 2 ^ 16)

/-- What a next hop rewrites (R373, R379). -/
def hopRewrite (s : State) (n : Nat) : Option Rewrite :=
  let b := 0xD40000 + 4 * n
  let w1 := tw s (b + 1)
  if bit w1 29 then
    some { dmac := bits w1 0 16 * 2 ^ 32 + (tw s b).toNat, smac := bits (tw s (b + 3)) 0 16 * 2 ^ 32 + (tw s (b + 2)).toNat,
           vid := if bit w1 28 then some (bits w1 16 12) else none }
  else none

/-- The queue choice of R378. -/
def chooseQ (s : State) (src : Nat) (h : Hdr) (tq : Bool) (setq : Option Nat) : Nat :=
  if tq then 15
  else
    match setq with
    | some q => q
    | none =>
      let trust := s.fld (F.FWD_PORT_CFG_TRUST src)
      if trust = 2 ∧ h.ver ≠ 0 then bits (s.reg (Reg.FWD_DSCP_MAP (h.dscp / 8))) (4 * (h.dscp % 8)) 4
      else if (trust = 1 ∨ trust = 2) ∧ h.tags ≠ 0 then bits (s.reg (Reg.FWD_PORT_PCP_MAP src)) (4 * h.pcp) 4
      else s.fld (F.FWD_PORT_CFG_DEFQ src)

/-- RESIDENCE without a receive timestamp is action 0, and counted (R366). -/
def residenceCheck (n : Nat) (f : Frame) (s : State) : Frame × State :=
  if f.ins = 3 ∧ (416 ≤ f.src ∨ ¬s.flag (F.TBASE_PORT_TS_CTRL_RX_EN f.src)) then
    ({ f with ins := 0 }, bumpPipe (Reg.FWD_TC_NO_RXTS_LO n) n s)
  else (f, s)

/-- The whole pipeline for a frame that is looked up (R360 to R378): the frame with its result, and the data of stage 3. -/
def lookup (f : Frame) (s : State) : Frame × Nat × Nat × State :=
  let bs := f.bytes
  let n := f.pipe
  let src := f.src
  let h := parse bs (parseLen bs f.ended)
  let vid := if h.tags = 0 then s.fld (F.FWD_PORT_CFG_PVID src) else h.vid
  let hash := flowHash bs h src (s.reg Reg.FWD_HASH_SEED)
  -- classifier
  let cls := match h.ptp with
    | some (o, enc) => (upto 32).find? (clsMatches s bs o enc (s.fld (F.FWD_PORT_CFG_TCLASS src)))
    | none => none
  let w4 := match cls with
    | some i => tw s (0xD80000 + 8 * i + 4)
    | none => 0
  let event := match h.ptp with
    | some (o, _) => decide (byteAt bs o % 16 ≤ 3)
    | none => false
  let tq := bit w4 2
  let f1 := match h.ptp, cls with
    | some (o, _), some _ =>
      if f.inj = 0 then
        { f with ins := if event then bits w4 3 3 else 0, record := bit w4 6, txTag := half bs (o + 30),
                 p2p := bit w4 7 && decide (byteAt bs o % 16 = 0) }
      else f
    | _, _ => f
  -- L2, LPM, ECMP
  let (l, s1) : Look × State :=
    if h.esmc ∧ s.flag F.FWD_CTRL_ESMC_TRAP then ({ trap := some 9 }, s)
    else if cls.isSome ∧ bits w4 0 2 = 1 then ({ trap := some 1 }, s)
    else if cls.isSome ∧ bits w4 0 2 = 3 then ({ drop := true }, s)
    else
      let (l, t) := lookL2 n src vid bs h s
      ({ l with copy := if cls.isSome ∧ bits w4 0 2 = 2 then some 2 else none }, t)
  -- ACL
  let ptpType := match h.ptp with
    | some (o, _) => byteAt bs o % 16 + 1
    | none => 0
  let acl := aclFind s (aclKey h vid src l.routed ptpType)
  let a24 := match acl with
    | some i => tw s (0xE00000 + 32 * i + 24)
    | none => 0
  let (l1, s2) : Look × State := match bits a24 0 2 with
    | 1 => ({ l with drop := true, trap := none, copy := none }, bumpPipe (Reg.FWD_ACL_DROP_LO n) n s1)
    | 2 => ({ l with trap := some (l.trap.getD 7), drop := false }, s1)
    | 3 => (if l.drop then { l with trap := some 8, drop := false } else { l with copy := some (l.copy.getD 8) }, s1)
    | _ => (l, s1)
  let l2 := if bit a24 20 ∧ ¬tq ∧ ¬l1.drop ∧ l1.trap.isNone then
      { l1 with group := some (bits (tw s (0xE00000 + 32 * (acl.getD 0) + 25)) 0 14) }
    else l1
  let fwd := decide (¬l2.drop ∧ l2.trap.isNone)
  let hop := if fwd then l2.group.map fun g => ecmpHop s g hash else none
  let egress := match hop with
    | some k => bits (tw s (0xD40000 + 4 * k + 3)) 16 9
    | none => if fwd then l2.egress else 511
  let drop := l2.drop && l2.copy.isNone
  let trap := if l2.drop then l2.copy else l2.trap.or l2.copy
  let f2 := { f1 with
    phase := .looked, egress := egress, drop := drop, trap := trap, hash := hash,
    queue := chooseQ s src h tq (if bit a24 2 ∧ ¬tq then some (bits a24 3 4) else none),
    policer := if bit a24 7 ∧ ¬tq then some (bits a24 8 12) else none,
    next := hop.bind (hopRewrite s),
    known := if f.ended then bs.length else knownLen bs h (if src < 384 then s.fld (F.PORT_MAX_FRAME_BYTES src) else 2000) }
  let (f3, s3) := if egress = 511 then (f2, s2) else residenceCheck n f2 s2
  let s4 := if trap.isSome then bumpPipe (Reg.FWD_TRAP_LO n) n s3 else s3
  let result := if drop then 1 else if egress = 511 then 2 else if trap.isSome then 3 else 0
  (f3, acl.getD 0 + flagAt acl.isSome 16 + result * 2 ^ 17 + trap.getD 0 * 2 ^ 20,
    hop.getD 0 + (l2.group.getD 0) * 2 ^ 16, s4)

/-- A frame injected with BYPASS skips every stage (R380). -/
def bypassed (f : Frame) (s : State) : Frame × Nat × Nat × State :=
  let (f1, s1) := residenceCheck f.pipe { f with phase := .looked, known := f.bytes.length } s
  (f1, 0, 0, s1)

def noTime (_ : Nat) : Option Nat := none
def noSlots (_ : Nat) : List Bool := []

/-- A frame takes a slot of its pipeline (R357, R359): an injected one at most every 64 PCLK. -/
def slotFree (n : Nat) (f : Frame) (s : State) : Bool :=
  decide (f.inj = 0) ||
    match smapGet noTime s.net.injAt n with
    | some t => decide (t + 64 ≤ pclk s)
    | none => true

/-- The PCLK cycle in which a frame takes its slot, at the earliest the one after its first slice is complete (R557). -/
def slotAt (f : Frame) (s : State) : Nat :=
  match f.tag with
  | some r => max (pclk s) (stageAt r 1 s + 1)
  | none => pclk s

/-- A frame passes its pipeline (R360, R468, R474, R557). A frame that the pipeline drops ends here. -/
def pipePass (id : Nat) (slot : Nat) (f : Frame) (s : State) : State :=
  let n := f.pipe
  let s1 := if f.inj = 0 then s else s.updNet fun t => { t with injAt := smapSet noTime t.injAt n (some (pclk s)) }
  let s2 := tagStage f 2 (slotAt f s + 1) slot 0 0 (evtOccur 7 n 1 s1)
  let (f1, d2, d3, s3) := if f.bypass then bypassed f s2 else lookup f s2
  let s4 := tagStage f1 3 (slotAt f s + 98) 0 d2 d3 (s3.setFrame id f1)
  let s5 := s4.updTlm fun t => { t with slots := smapSet noSlots t.slots n (smapGet noSlots t.slots n ++ [!f1.drop]) }
  if f1.drop then tagClose f1 3 (frameDone id s5) else s5

/-! ### Near-end loopback (R149) -/

def noLoops (_ : Nat) : List (List Byte) := []

/-- Whether a port hears itself on a lane: then what the line brings to it is ignored. -/
def portLooped (s : State) (p : Nat) : Bool := (portLaneIds s p).any (hearsSelf s)

/-- Whether the head of a frame can come at a port: one in near-end loopback hears only the frames that it sent, in their order. -/
def headComes (s : State) (p : Nat) (bs : List Byte) : Bool :=
  !portLooped s p || ((smapGet noLoops s.net.looped p).head?.any fun x => x.take bs.length == bs)

/-- Whether a whole frame can come at a port. -/
def frameComes (s : State) (p : Nat) (bs : List Byte) : Bool :=
  !portLooped s p || decide ((smapGet noLoops s.net.looped p).head? = some bs)

/-- A frame that has come round a loopback is no longer on its way. -/
def loopTaken (p : Nat) (s : State) : State :=
  if portLooped s p then s.updNet fun n => { n with looped := smapSet noLoops n.looped p (smapGet noLoops n.looped p).tail } else s

/-! ### Commands -/

/-- R385: a window's write reaches the staging set, but not while a commit runs (R390). -/
def execFwdStageWrite (k : Fin 4) (w : BitVec 24) (d : Word) (s : State) : Host.Outcome State Fault Refusal :=
  whenMain s fun s => if s.net.commit = 0 then targetWrite (winOwner k s) 0x0A (stageWrite k w.toNat d) s else s

def execCommit (ag : Agent) (d : Word) (s : State) : Host.Outcome State Fault Refusal :=
  whenMain s (regWrite ag Reg.FWD_COMMIT_CMD Rd.FWD_COMMIT_CMD actCommitCmd allBits (d ||| 1))
def execFwdDiscard (ag : Agent) (d : Word) (s : State) : Host.Outcome State Fault Refusal :=
  whenMain s (regWrite ag Reg.FWD_COMMIT_CMD Rd.FWD_COMMIT_CMD actCommitCmd allBits (d ||| 2))
def execCommitCheckEnd (ecc : List (Nat × Nat)) (devs : List Word) (s : State) : Host.Outcome State Fault Refusal :=
  whenMain s fun s => if s.net.commit = 1 then checkEnd ecc devs s else s
def execCommitCycle (s : State) : Host.Outcome State Fault Refusal :=
  whenMain s fun s => if s.net.commit = 2 then commitLive s else s
def execCommitDone (s : State) : Host.Outcome State Fault Refusal :=
  whenMain s fun s =>
    if s.net.commit = 3 then (s.updNet fun n => { n with commit := 0 }).raise F.FWD_INT_STATUS_COMMIT_DONE else s

/-- R360: a frame takes a slot. `head` is given where the frame's end has not come: its first slice and what came with it. -/
def execPipelineLookup (src : Fin 417) (id : Nat) (head : Option (List Byte × Arrival)) (slot : Fin 2) (s : State) :
    Host.Outcome State Fault Refusal :=
  whenMain s fun s =>
    match s.frame? id, head with
    | some f, _ => if f.src = src ∧ f.phase = .arrived ∧ slotFree f.pipe f s then pipePass id slot f s else s
    | none, some (bs, a) =>
      if src.val < 416 ∧ portUp s src ∧ bs.length = 256 ∧ half bs 12 ≠ 0x8808 ∧ headComes s src bs then
        let (tag, s1) := tagTake src a.draw s
        let f : Frame := { src := src, bytes := bs, ended := false, tag := tag, rx := rxStamp src a.stamp a.ago s, pipe := pipeOf s src }
        let s2 := tagStage f 1 (pclk s - a.slice) a.fill.toNat 0 0 (evtOccur 5 src 1 s1)
        pipePass id slot f (s2.setFrame id f)
      else s
    | none, none => s

end Sys2Proof.Machine
end

