-- ==== Sys2Proof/Machine/Mac.lean ====
section
/-!
DEFINITION. Sys2Proof/Machine/Mac.lean: reception by the MAC and flow control from the partner (09_mac_and_port_lifecycle.md, R330 to
R337, R352, R587), injection (10_forwarding_pipeline.md, R380 to R382) and the trap ring (R383).
-/
namespace Sys2Proof.Machine

/-! ### Receive counters (R330 to R334, R353, R356) -/

/-- Advance a counter of a timing port. -/
def bumpAln (a m n : Nat) (s : State) : State := s.bump32 a n (some (F.ALN_INT_STATUS_CNT_OVF m))

/-- One of the three bad receptions of a source port, as its kind of port counts it. -/
def rxBad (src : Nat) (port aln : Nat → Nat) (s : State) : State :=
  if src < 384 then bumpPort (port src) src 1 s else bumpAln (aln (src - 384)) (src - 384) 1 s

/-- A frame of n bytes passes R330. -/
def rxCount (src n : Nat) (s : State) : State :=
  if src < 384 then bumpPort (Reg.PORT_RX_BYTES_LO src) src n (bumpPort (Reg.PORT_RX_FRAMES_LO src) src 1 s)
  else bumpAln (Reg.ALN_RX_FRAMES (src - 384)) (src - 384) 1 s

/-- The largest frame of a source port. -/
def maxFrame (s : State) (src : Nat) : Nat := if src < 384 then s.fld (F.PORT_MAX_FRAME_BYTES src) else 2000

/-! ### Pauses from the partner (R334 to R337) -/

/-- Priority k of a port is paused for q quanta from now; 0 releases it. -/
def pauseFor (p k q : Nat) (s : State) : State :=
  (s.setRbit (Reg.PORT_LIVE p) (24 + k) (decide (q ≠ 0))).updPort p fun r => { r with times := setNth r.times k q }

/-- A MAC control frame with a good FCS: PAUSE or PFC where the port's configuration has it enabled. -/
def macControl (p : Nat) (bs : List Byte) (s : State) : State :=
  let c := (s.port p).cfg
  if half bs 14 = 0x0001 ∧ bit c 14 then pauseFor p 0 (half bs 16) s
  else if half bs 14 = 0x0101 ∧ bit c 15 then
    forUpto 8 (fun k s => if (half bs 16).testBit k then pauseFor p k (half bs (18 + 2 * k)) s else s) s
  else s

/-! ### The end of a frame's path at admission or in the FIFO -/

/-- A frame's end is received: the whole frame, and the settlement of R437. -/
def frameEnds (id : Nat) (f : Frame) (bs : List Byte) (s : State) : State :=
  let f1 := { f with bytes := bs, ended := true }
  tagShow f1 (settlePol f bs.length (settleSched f bs.length (s.setFrame id f1)))

/-- A frame is lost in its receive FIFO while it waits for a slot of pipeline n (R469). -/
def frontLost (n : Nat) (s : State) : State :=
  if s.flag F.TLM_SLOT_CMD_EN then s.bump64 (Reg.TLM_SLOT_FRONT_LOST_LO n) 1 (some F.TLM_SLOT_INT_STATUS_CNT_OVF) else s

/-- The frame that goes on into the part: a new one, or the one whose head is in it already. -/
def macPass (src id : Nat) (bs : List Byte) (bad : Option BadCause) (overflow : Bool) (arr : Arrival) (s : State) : State :=
  match s.frame? id with
  | some f =>
    if f.phase = .gone then (settlePol f bs.length (settleSched f bs.length s)).dropFrame id
    else
      let s1 := frameEnds id f bs s
      match bad with
      | some c => foundBad id c s1
      | none => s1
  | none =>
    let (tag, s1) := tagTake src arr.draw s
    let f : Frame := { src := src, bytes := bs, ended := true, bad := bad, tag := tag, rx := rxStamp src arr.stamp arr.ago s,
                       pipe := pipeOf s src }
    let s2 := tagStage f 1 (pclk s - arr.slice) arr.fill.toNat 0 0 (evtOccur 5 src 1 s1)
    if overflow then tagClose f 7 (frontLost f.pipe s2) else s2.setFrame id f

/-- A frame that has not been looked up yet is cut short by its port going down (R418, R475): `bytes` of it had come. -/
def cutUnseen (src : Nat) (bytes : List Byte) (arr : Arrival) (s : State) : State :=
  let (tag, s1) := if bytes.length < 256 then (none, s) else tagTake src arr.draw s
  let f : Frame := { src := src, bytes := bytes, ended := false, tag := tag, pipe := pipeOf s src }
  tagClose f 7 (truncCount src (tagStage f 1 (pclk s - arr.slice) arr.fill.toNat 0 0 s1))

/-- A frame that a port, which is up, receives to its end (R330 to R334, R587). -/
def macTake (src id : Nat) (bytes : List Byte) (overflow : Bool) (arr : Arrival) (s : State) : State :=
  let n := bytes.length
  let max' := maxFrame s src
  if n < 64 then
    if 12 ≤ n then rxBad src Reg.PORT_RX_RUNT_LO Reg.ALN_RX_RUNT s else s
  else
    let excess := decide (max' < n)
    let bs := if excess then bytes.take (max' + 1) else bytes
    let good := !excess && fcsOk bs && !overflow
    let s1 := rxCount src bs.length s
    let s2 :=
      if overflow then (if src < 384 then bumpPort (Reg.PORT_RX_OVERFLOW_DROP_LO src) src 1 s1 else s1)
      else if excess then rxBad src Reg.PORT_RX_OVERSIZE_LO Reg.ALN_RX_OVERSIZE s1
      else if good then s1
      else rxBad src Reg.PORT_RX_FCS_ERR_LO Reg.ALN_RX_FCS_ERR s1
    if half bs 12 = 0x8808 then
      let s3 := evtOccur 5 src 1 s2
      if src < 384 then
        let s4 := bumpPort (Reg.PORT_RX_MAC_CTRL_LO src) src 1 s3
        if good then macControl src bs s4 else s4
      else s3
    else
      macPass src id bs (if overflow then some .overflow else if excess then some .oversize else if good then none else some .fcs)
        overflow arr s2

/-- A frame comes to its end at a MAC. `bytes` is all that came on the line, the FCS with it. At a port that is down it is cut short, if
it began before. -/
def macReceive (src id : Nat) (bytes : List Byte) (overflow : Bool) (arr : Arrival) (s : State) : State :=
  if ¬portUp s src then
    match s.frame? id with
    | some f => if f.src = src ∧ ¬f.ended then cutShort id s else s
    | none => if arr.begun then cutUnseen src bytes arr s else s
  else if (s.frame? id).any fun f => decide (f.src ≠ src) || f.ended then s
  else if ¬frameComes s src bytes then s
  else macTake src id bytes overflow arr (loopTaken src s)

/-! ### Injection (R380 to R382) -/

/-- The number of a frame that the part makes itself: beyond every frame that it holds. -/
def newId (s : State) : Nat := 1 + (s.net.frames.map (·.1)).foldl max 0

/-- Whether a descriptor breaks R381. -/
def descBad (w0 w1 : Word) : Bool :=
  let len := bits w1 16 14
  decide (len < 60 ∨ 16356 < len ∨ 415 < bits w0 0 9) || (!bit w0 13 && decide (383 < bits w0 0 9))

/-- A frame is injected from its descriptor, or dropped as bad. `kind` is 1 from Hearth, 2 from the host. -/
def injectFrame (ws : List Word) (body : List Byte) (kind : Nat) (s : State) : State :=
  let w0 := nth 0 ws 0
  let w1 := nth 0 ws 1
  if descBad w0 w1 then
    (s.bump32 Reg.FWD_INJ_BAD 1 (some F.FWD_INT_STATUS_CNT_OVF)).raise F.FWD_INT_STATUS_INJ_BAD
  else
    let egress := bits w0 0 9
    let bs := body ++ leBytes 4 (fcsOf body).toNat
    s.setFrame (newId s) {
      src := 416, bytes := bs, ended := true, inj := kind, bypass := bit w0 13,
      pipe := if bit w0 13 then pipeOf s egress else 0, egress := egress, queue := bits w0 9 4, ins := eventIns bs (bits w0 14 3),
      record := bit w0 17, txTag := bits w1 0 16, tref := ws.drop 4 }

/-- The next descriptor of the Hearth ring is taken (R381). -/
def takeDescriptor (s : State) : State :=
  let len := 2 ^ s.fld F.FWD_INJ_RING_LOG2
  let rd := s.fld F.FWD_INJ_RD_RD % len
  if rd = s.fld F.FWD_INJ_WR_WR % len then s
  else
    let base := s.fld F.FWD_INJ_BASE_BASE / 64 * 64 + 32 * rd
    let ws := (upto 8).map fun k => BitVec.ofNat 32 (leNat (s.sramBytes (base + 4 * k) 4))
    let body := s.sramBytes (bits (nth 0 ws 2) 0 22 / 64 * 64) (bits (nth 0 ws 1) 16 14)
    injectFrame ws body 1 (s.setFld F.FWD_INJ_RD_RD ((rd + 1) % len))

/-- A host frame that has yet to enter its pipeline. -/
def hinjBusy (s : State) : Bool := s.frames.any fun x => decide (x.2.inj = 2 ∧ x.2.phase = .arrived)

/-- What a write of `FWD_HINJ_DATA` and of `FWD_HINJ_CMD` sets off (R382). -/
def actHinjData (_old raw : Word) (s : State) : State :=
  if s.net.hostData.length < 2048 then s.updNet fun n => { n with hostData := n.hostData ++ leBytes 4 raw.toNat } else s
def actHinjCmd (_old raw : Word) (s : State) : State :=
  if bit raw 0 ∧ ¬hinjBusy s then
    let ws := (upto 8).map fun k => s.reg (Reg.FWD_HINJ_DESC k)
    let len := bits (nth 0 ws 1) 16 14
    let data := s.net.hostData
    let s1 := s.updNet fun n => { n with hostData := [] }
    if data.length < len ∨ 2044 < len then s1.raise F.FWD_INT_STATUS_INJ_BAD else injectFrame ws (data.take len) 2 s1
  else s

/-! ### The trap ring (R383) -/

/-- The slot of a trapped frame: header and as much of the frame as fits. -/
def trapSlot (f : Frame) (reason : Nat) (s : State) : List Byte :=
  let n := f.bytes.length
  let w0 := f.src + reason * 2 ^ 9 + flagAt (decide (4032 < n)) 13 + flagAt f.rx.isSome 14
  let rec' := match f.rx with
    | some r => recordWords (tbFormat s) r.v20 r.flags
    | none => [0, 0, 0, 0]
  wordBytes ([BitVec.ofNat 32 w0, BitVec.ofNat 32 n] ++ rec' ++ List.replicate 10 0) ++ f.bytes.take 4032

/-- A frame's trap write: into the next slot, or dropped on a full ring. -/
def trapRing (f : Frame) (reason : Nat) (s : State) : State :=
  let len := 2 ^ s.fld F.FWD_TRAP_RING_LOG2
  let wr := s.fld F.FWD_TRAP_WR_WR % len
  if (wr + 1) % len = s.fld F.FWD_TRAP_RD_RD % len then
    (s.bump32 Reg.FWD_TRAP_DROP 1 (some F.FWD_INT_STATUS_CNT_OVF)).raise F.FWD_INT_STATUS_TRAP_FULL
  else
    (s.setSramBytes (s.fld F.FWD_TRAP_BASE_BASE / 4096 * 4096 + 4096 * wr) (trapSlot f reason s)).setFld F.FWD_TRAP_WR_WR
      ((wr + 1) % len)

/-- The buffer holds a frame whole. -/
def inBuffer (f : Frame) : Bool := f.ended && decide (f.slices.length = slicesOf f.bytes.length)

/-- The trap write of a frame: a bad frame is not written. A frame for Hearth alone ends with it. -/
def trapWrite (id : Nat) (s : State) : State :=
  match s.frame? id with
  | none => s
  | some f =>
    match f.trap with
    | none => s
    | some r =>
      if f.phase = .arrived ∨ f.phase = .looked ∨ f.phase = .gone ∨ ¬(inBuffer f || f.bad.isSome && f.ended) then s
      else
        let f1 := { f with trap := none }
        let s1 := (if f.bad.isNone then trapRing f r s else s).setFrame id f1
        if f.phase = .trapOnly then tagClose f1 (if f.bad.isNone then 4 else 8) (frameDone id s1) else s1

/-! ### Commands -/

def execMacFrameReceive (src : Fin 416) (id : Nat) (bytes : List Byte) (overflow : Bool) (arr : Arrival) (s : State) :
    Host.Outcome State Fault Refusal :=
  whenMain s (macReceive src id bytes overflow arr)

/-- A MAC control frame takes no slice and gets no tag: number and arrival are of no use to it. -/
def controlReceive (p : Fin 384) (bytes : List Byte) (op : Nat) (s : State) : Host.Outcome State Fault Refusal :=
  whenMain s fun s =>
    if half bytes 12 = 0x8808 ∧ half bytes 14 = op then
      macReceive p (newId s) bytes false { draw := 0, fill := 0, stamp := { off := 0, j := 0 }, ago := 0, slice := 0, begun := false } s
    else s
def execPauseReceive (p : Fin 384) (bytes : List Byte) (s : State) : Host.Outcome State Fault Refusal :=
  controlReceive p bytes 0x0001 s
def execPfcReceive (p : Fin 384) (bytes : List Byte) (s : State) : Host.Outcome State Fault Refusal :=
  controlReceive p bytes 0x0101 s

def execInjDescriptor (s : State) : Host.Outcome State Fault Refusal := whenMain s takeDescriptor
def execFwdHinjDataWrite (ag : Agent) (d : Word) (s : State) : Host.Outcome State Fault Refusal :=
  whenMain s (regWrite ag Reg.FWD_HINJ_DATA Rd.FWD_HINJ_DATA actHinjData allBits d)
def execSend (ag : Agent) (d : Word) (s : State) : Host.Outcome State Fault Refusal :=
  whenMain s (regWrite ag Reg.FWD_HINJ_CMD Rd.FWD_HINJ_CMD actHinjCmd allBits (d ||| 1))
def execTrapWrite (id : Nat) (s : State) : Host.Outcome State Fault Refusal := whenMain s (trapWrite id)

end Sys2Proof.Machine
end

