-- ==== Sys2Proof/Machine/Admit.lean ====
section
/-!
DEFINITION. Sys2Proof/Machine/Admit.lean: the admission decision, slice writes, the allocation total and the leaked-slice auditor
(11_shared_buffer_and_cut_through.md, R397 to R416, R423 to R427).
-/
namespace Sys2Proof.Machine

/-! ### Admission (R403, R406 to R411, R415) -/

/-- F of a pool. -/
def poolFree (s : State) (p : Nat) : Nat := s.fld (F.BUF_POOL_SIZE_SLICES p) - s.fld (F.BUF_POOL_USED_SLICES p)

/-- What R407 decides for a frame: its KIND (R476), the shared threshold where it was computed, its group where it counts against one. -/
structure Admission where
  kind : Nat
  threshold : Nat := 0
  pg : Option Nat := none
deriving DecidableEq, Repr

/-- The tests of R407 for queue q of egress e, for a frame from `src`. Only a logical port has priority groups. -/
def admitTest (s : State) (e q src : Nat) : Admission :=
  let i := profOf s e q
  let p := s.fld (F.BUF_QPROF_POOL i)
  let min' := s.fld (F.BUF_QPROF_MIN i)
  let occ := s.fld (F.BUF_Q_OCC_SLICES (16 * e + q))
  let alpha := s.fld (F.BUF_QPROF_ALPHA i)
  let f := poolFree s p
  if ¬portUp s e then { kind := 5 }
  else if s.fld F.BUF_FREE_FREE = 0 then { kind := 4 }
  else if occ < min' then { kind := 0 }
  else if ¬s.flag (F.BUF_QPROF_LOSSLESS i) ∨ q = 15 ∨ 384 ≤ src then
    if alpha = 0 then { kind := 3 }
    else
      let t := f * 2 ^ alpha / 256
      { kind := if occ - min' < t then 1 else 3, threshold := t }
  else
    let k := pgOf s src q
    if pgShared s src k < s.fld (F.BUF_PGPROF_XOFF_XOFF_TH (pgProf s src k)) ∧ 0 < f then { kind := 1, pg := some k }
    else if pgHead s src k < s.fld (F.BUF_PGPROF_HEADROOM_HEADROOM (pgProf s src k)) then { kind := 2, pg := some k }
    else { kind := 6 }

/-- Whether the insertion of a frame updates its UDP checksum (R182, R183, R415). -/
def needsChecksum (f : Frame) : Bool :=
  decide (1 ≤ f.ins ∧ f.ins ≤ 3) &&
    match ptpLoc f.bytes with
    | some { msg := m, udp := some (u, v6) } =>
      if v6 then decide (half f.bytes (u + 4) - 8 < half f.bytes (m + 2) + 2) else decide (half f.bytes (u + 6) ≠ 0)
    | _ => false

/-- Whether a frame is cut-through (R415). -/
def cutThrough (s : State) (f : Frame) : Bool :=
  decide (f.src < 384) && s.rbit (Reg.BUF_PORT_CFG f.src) f.queue && !s.flag (F.BUF_PORT_CFG_QUARANTINED f.src) &&
    decide (portRate s f.egress ≤ portRate s f.src) && (s.queue (queueOf f.egress f.queue)).isEmpty && f.trap.isNone &&
    !needsChecksum f

/-- The path of a frame ends at its admission: it takes no slice, so nothing is left to copy to Hearth either. -/
def admissionEnd (id : Nat) (f : Frame) (outcome : Nat) (s : State) : State :=
  tagClose f outcome (frameDone id (s.setFrame id { f with trap := none }))

/-- A drop by R407 is counted. -/
def countDrop (kind e q src : Nat) (s : State) : State :=
  let g := 16 * e + q
  let qDrop (s : State) : State :=
    s.bump64 (Reg.BUF_Q_DROP_LO g) 1 (some (F.BUF_PORT_INT_STATUS_CNT_OVF (e / 16)))
  evtOccur 2 g 1 (match kind with
    | 5 => bumpPort (Reg.PORT_DOWN_DROP_LO e) e 1 s
    | 4 => (s.bump64 Reg.BUF_NOFREE_DROP_LO 1 (some F.BUF_INT_STATUS_CNT_OVF)).raise F.BUF_INT_STATUS_NOFREE
    | 3 => qDrop s
    | _ => (qDrop s).bump64 (Reg.BUF_PORT_HEADROOM_DROP_LO src) 1 (some (F.BUF_PORT_INT_STATUS_CNT_OVF (src / 16))))

/-- The metering of a frame (R449, R450): the frame with what it drew and its remark, and what came of it. -/
def meterFrame (f : Frame) (s : State) : Frame × Metered × State :=
  match f.policer with
  | none => (f, ⟨0, false, none⟩, s)
  | some i =>
    let h := parse f.bytes (parseLen f.bytes f.ended)
    let o := ingressOver s f
    let (m, s1) := meter i (counted o (lengthNow f)) (h.dei && decide (h.tags ≠ 0)) s
    ({ f with polChg := if m.colour = 1 ∨ m.colour = 2 then some (i, o, decide (m.colour = 1)) else none, dscp := m.dscp }, m, s1)

/-- Stage 4 of a frame, in the cycle after stage 3 (R474, R476, R557): `occ` the queue's occupancy, bits [20:0] of the threshold. -/
def stage4 (f : Frame) (occ kind colour threshold : Nat) (s : State) : State :=
  let at' := match f.tag with
    | some r => stageAt r 3 s + 1
    | none => pclk s
  tagStage f 4 at' 0 (occ + kind * 2 ^ 21 + colour * 2 ^ 24) (threshold % 2 ^ 21) s

/-- The decision for a frame that is forwarded to a logical port: stream recovery, metering, the tests of R407. -/
def admitLogical (id : Nat) (f : Frame) (s : State) : State :=
  let g := queueOf f.egress f.queue
  let h := parse f.bytes (parseLen f.bytes f.ended)
  let vid := if h.tags = 0 then s.fld (F.FWD_PORT_CFG_PVID f.src) else h.vid
  let occ := s.fld (F.BUF_Q_OCC_SLICES g)
  match sidPass vid f.bytes s with
  | (false, s1) => admissionEnd id f 6 (stage4 f occ 7 0 0 s1)
  | (true, s1) =>
    let (f1, m, s2) := meterFrame f s1
    if m.drop then admissionEnd id f1 5 (stage4 f1 occ 0 m.colour 0 s2)
    else
      let a := admitTest s2 f.egress f.queue f.src
      if a.kind ≤ 2 then
        let f2 := { f1 with phase := .queued, kind := a.kind, pg := a.pg, ct := cutThrough s2 f1, admAt := pclk s,
                            pool := s.fld (F.BUF_QPROF_POOL (profOf s f.egress f.queue)) }
        let s3 := evtOccur 1 g 1 ((s2.setFrame id f2).setQueue g (s2.queue g ++ [id]))
        stage4 f2 occ a.kind m.colour a.threshold s3
      else admissionEnd id f1 6 (stage4 f1 occ a.kind m.colour a.threshold (countDrop a.kind f.egress f.queue f.src s2))

/-- The slices that frames which meet a condition hold or will hold. -/
def heldSlices (s : State) (c : Frame → Bool) : Nat :=
  (s.frames.map fun x => if c x.2 then slicesOf (lengthNow x.2) else 0).sum

/-- The decision for a frame for a timing port (R352, R403). -/
def admitTiming (id : Nat) (f : Frame) (s : State) : State :=
  let m := f.egress - 384
  let held := heldSlices s fun x => decide (x.egress = f.egress ∧ (x.phase = .queued ∨ x.phase = .selected ∨ x.phase = .handed))
  if ¬portUp s f.egress then admissionEnd id f 6 (bumpAln (Reg.ALN_TX_DOWN_DROP m) m 1 s)
  else if 64 < held + slicesOf (lengthNow f) then
    admissionEnd id f 6 (s.bump64 Reg.BUF_AUX_DROP_LO 1 (some F.BUF_INT_STATUS_CNT_OVF))
  else
    let g := queueOf f.egress f.queue
    (s.setFrame id { f with phase := .queued, admAt := pclk s }).setQueue g (s.queue g ++ [id])

/-- The decision for a frame that goes to Hearth only (R403). -/
def admitTrap (id : Nat) (f : Frame) (s : State) : State :=
  let held := heldSlices s fun x => decide (x.egress = 511 ∧ x.phase = .trapOnly)
  if 512 < held + slicesOf (lengthNow f) then
    admissionEnd id f 6 (s.bump32 Reg.FWD_TRAP_DROP 1 (some F.FWD_INT_STATUS_CNT_OVF))
  else s.setFrame id { f with phase := .trapOnly, admAt := pclk s }

/-- A frame that no logical port gets is metered too, for no test of R407 comes with it (R406, R449), and then decided. -/
def admitOther (id : Nat) (f : Frame) (decide' : Frame → State → State) (s : State) : State :=
  let (f1, m, s1) := meterFrame f s
  if m.drop then admissionEnd id f1 5 (stage4 f1 0 0 m.colour 0 s1) else decide' f1 s1

/-- A frame's forwarding result reaches the buffer (R406). -/
def admission (id : Nat) (s : State) : State :=
  match s.frame? id with
  | none => s
  | some f =>
    if f.phase ≠ .looked then s
    else if f.egress < 384 then admitLogical id f s
    else admitOther id f (if f.egress < 416 then admitTiming id else admitTrap id) s

/-! ### Slice writes (R397, R402, R409) -/

/-- A slice of an admitted frame is written at `n`, which the stack of a bank gives. Of a frame whose end has not come, it brings the next
256 bytes; the first slice's are in the part since the frame's lookup. -/
def sliceWrite (id n : Nat) (bytes : List Byte) (s : State) : State :=
  match s.frame? id with
  | none => s
  | some f =>
    let k := f.slices.length
    let later := decide (¬f.ended ∧ k ≠ 0)
    let more := if f.ended then decide (k < slicesOf f.bytes.length) else decide (f.bytes.length = 256 * max 1 k)
    if f.phase = .arrived ∨ f.phase = .looked ∨ f.phase = .gone ∨ f.cut ∨ ¬more ∨ (later ∧ bytes.length ≠ 256) then s
    else if s.fld F.BUF_FREE_FREE = 0 then
      let s1 := (s.bump64 Reg.BUF_NOFREE_DROP_LO 1 (some F.BUF_INT_STATUS_CNT_OVF)).raise F.BUF_INT_STATUS_NOFREE
      let s2 := if f.egress < 384 then
          evtOccur 2 (16 * f.egress + f.queue) 1
            (s1.bump64 (Reg.BUF_Q_DROP_LO (16 * f.egress + f.queue)) 1 (some (F.BUF_PORT_INT_STATUS_CNT_OVF (f.egress / 16))))
        else s1
      foundBad id .nofree s2
    else if sliceTop s n then takeSlice id n (if later then { f with bytes := f.bytes ++ bytes } else f) s
    else s

/-! ### The allocation total (R405) -/

/-- TOTAL. -/
def allocTotal (s : State) : Nat :=
  ((upto 4).map fun p => s.fld (F.BUF_POOL_SIZE_SLICES p)).sum +
    ((upto 384).map fun p =>
      ((upto 16).map fun q => minOf s (16 * p + q)).sum +
        ((upto 8).map fun k => s.fld (F.BUF_PGPROF_HEADROOM_HEADROOM (pgProf s p k))).sum).sum + 2560

/-- TOTAL and OVERCOMMIT are shown anew. -/
def allocShow (s : State) : State :=
  let t := allocTotal s
  let excess := decide (1048576 < t)
  let s1 := s.raiseIf (excess && !s.flag F.BUF_ALLOC_OVERCOMMIT) F.BUF_INT_STATUS_OVERCOMMIT
  (s1.setFld F.BUF_ALLOC_TOTAL (min t 0x1FFFFF)).setFlag F.BUF_ALLOC_OVERCOMMIT excess

/-! ### The auditor (R423 to R427) -/

/-- The slices of a standing. -/
def lostWith (s : State) (x : Nat) : List Nat := s.net.lost.filterMap fun p => if p.2 = some x then some p.1 else none

/-- A reported slice goes back to the free list (R425). -/
def reclaim (n : Nat) (s : State) : State :=
  let s1 := freeSlice n (s.setLost n none)
  if s1.fld F.BUF_LEAK_LAST_SLICE = n then s1.setFlag F.BUF_LEAK_LAST_RECLAIMED true else s1

/-- A slice is reported (R424). -/
def reportSlice (n : Nat) (s : State) : State :=
  let s1 := ((s.setLost n (some 3)).bump64 Reg.BUF_LEAK_COUNT_LO 1 (some F.BUF_INT_STATUS_CNT_OVF)).raise F.BUF_INT_STATUS_LEAK
  let s2 := faultOpen 6 0x0B none (s1.setReg Reg.BUF_LEAK_LAST (BitVec.ofNat 32 n))
  if s2.flag F.BUF_AUDIT_RECLAIM then reclaim n s2 else s2

/-- A cross-linked slice (R426). -/
def crossLink (n kind : Nat) (s : State) : State :=
  if n < 2 ^ 20 ∧ (kind = 1 ∨ kind = 2) then
    let s1 := (s.bump64 Reg.BUF_XLINK_COUNT_LO 1 (some F.BUF_INT_STATUS_CNT_OVF)).raise F.BUF_INT_STATUS_XLINK
    faultOpen 7 0x0B (some n) (s1.setReg Reg.BUF_XLINK_LAST (BitVec.ofNat 32 (n + kind * 2 ^ 24)))
  else s

/-- `BUF_AUDIT_STATUS`. -/
def auditShow (s : State) : State :=
  (s.setFld F.BUF_AUDIT_STATUS_LEAKED (lostWith s 3).length).setFlag F.BUF_AUDIT_STATUS_SUSPECTS (!(lostWith s 2).isEmpty)

/-- The end of a pass: a slice that was lost during it was seen in it (R423). With EN = 0 the auditor stops here. -/
def auditPass (xlinks : List (Nat × Nat)) (s : State) : State :=
  let suspects := lostWith s 2
  let unseen := lostWith s 1
  let fresh := lostWith s 0
  let s1 := suspects.foldl (fun s n => reportSlice n s) s
  let s2 := unseen.foldl (fun s n => s.setLost n (some 2)) s1
  let s3 := fresh.foldl (fun s n => s.setLost n (some 1)) s2
  let s4 := xlinks.foldl (fun s x => crossLink x.1 x.2 s) s3
  let s5 := (s4.bump64 Reg.BUF_AUDIT_PASSES_LO 1 (some F.BUF_INT_STATUS_CNT_OVF)).raise F.BUF_INT_STATUS_AUDIT_PASS
  let s6 := if s5.flag F.BUF_AUDIT_EN then s5
    else (lostWith s5 2).foldl (fun s n => s.setLost n (some 1)) (s5.updNet fun t => { t with auditOn := false })
  auditShow s6

/-- What a write of `BUF_AUDIT` sets off (R425, R427, R543). -/
def actBufAudit (_old raw : Word) (s : State) : State :=
  let s1 := if s.flag F.BUF_AUDIT_EN ∧ ¬s.net.auditOn then
      (lostWith s 0).foldl (fun s n => s.setLost n (some 1)) (s.updNet fun t => { t with auditOn := true })
    else s
  let s2 := if bit raw 18 then auditShow ((lostWith s1 3).foldl (fun s n => reclaim n s) s1) else s1
  settleCover s2

/-! ### Commands -/

def execAdmissionDecision (id : Nat) (s : State) : Host.Outcome State Fault Refusal := whenMain s (admission id)
def execSliceWrite (id : Nat) (n : Fin 1048576) (bytes : List Byte) (s : State) : Host.Outcome State Fault Refusal :=
  whenMain s (sliceWrite id n bytes)
def execAllocRecompute (s : State) : Host.Outcome State Fault Refusal := whenMain s allocShow
def execAuditPass (xlinks : List (Nat × Nat)) (s : State) : Host.Outcome State Fault Refusal :=
  whenMain s fun s => if s.net.auditOn then auditPass xlinks s else s
def execReclaimAll (ag : Agent) (d : Word) (s : State) : Host.Outcome State Fault Refusal :=
  whenMain s (regWrite ag Reg.BUF_AUDIT Rd.BUF_AUDIT actBufAudit allBits (d ||| 0x40000#32))

end Sys2Proof.Machine
end

