-- ==== Sys2Proof/Machine/Boot.lean ====
section
/-!
DEFINITION. Sys2Proof/Machine/Boot.lean: unit addresses, secure boot of Hearth, fuse commands and the management bus
(15_bring_up_sequence.md, R522, R523, R526 to R536, R540, R541), and the watchdogs of the cores (R551).
-/
namespace Sys2Proof.Machine

def State.updBoot (s : State) (f : BootSt → BootSt) : State := { s with boot := f s.boot }

/-! ### Unit addresses (R526 to R529) -/

/-- A bit of an enumeration frame, 2 µs long: the levels of ENUM_OUT with their durations in ns. -/
def enumBit (b : Bool) : List (Bool × Nat) := if b then [(true, 1500), (false, 500)] else [(true, 500), (false, 1500)]

/-- The enumeration frame of a value (R526): start, gap, six bits, the most significant first. -/
def enumFrame (v : Nat) : List (Bool × Nat) := (true, 4000) :: (false, 1000) :: (upto 6).flatMap fun i => enumBit (v.testBit (5 - i))

/-- The part sends an enumeration frame, where its address is below 63; else ENUM_OUT stays low (R526). -/
def enumSend (s : State) : State :=
  s.updBoot fun b => { b with
    enumOut := if s.flag F.CHIP_UNIT_VALID ∧ s.fld F.CHIP_UNIT_UNIT < 63 then enumFrame (s.fld F.CHIP_UNIT_UNIT + 1) else [] }

/-- The part takes an address, and sends its first frame. -/
def takeUnit (u : Nat) (s : State) : State :=
  enumSend (((s.setFld F.CHIP_UNIT_UNIT u).setFlag F.CHIP_UNIT_VALID true).raise F.CHIP_INT_STATUS_ENUM_DONE)

/-- The value that a frame carries, where R527 accepts it: the length of its start in ns, then high time and period of each bit. -/
def enumValue (start : Nat) (ps : List (Nat × Nat)) : Option Nat :=
  let one (h : Nat) : Bool := decide (1100 ≤ h ∧ h ≤ 1900)
  let ok (p : Nat × Nat) : Bool :=
    decide (1600 ≤ p.2 ∧ p.2 ≤ 2400) && (one p.1 || decide (200 ≤ p.1 ∧ p.1 ≤ 800))
  if 3000 ≤ start ∧ start ≤ 5000 ∧ ps.length = 6 ∧ ps.all ok then
    some (ps.foldl (fun v p => 2 * v + if one p.1 then 1 else 0) 0)
  else none

/-- An accepted frame (R527 to R529): a part without an address takes the value that it hears twice in a row; one that has an address sets
ENUM_MISMATCH where this frame and the one before it each carry another value. -/
def enumHeard (v : Nat) (s : State) : State :=
  let before (p : Nat → Bool) : Bool := s.flag F.CHIP_UNIT_HEARD_VALID && p (s.fld F.CHIP_UNIT_HEARD)
  let s1 := (s.setFld F.CHIP_UNIT_HEARD v).setFlag F.CHIP_UNIT_HEARD_VALID true
  if s.flag F.CHIP_UNIT_VALID then
    let own := s.fld F.CHIP_UNIT_UNIT
    s1.raiseIf (before (· != own) && v != own) F.CHIP_INT_STATUS_ENUM_MISMATCH
  else if before (· == v) then takeUnit v s1
  else s1

/-- What a write of `CHIP_ENUM_CMD` sets off (R529). -/
def actEnumCmd (_old raw : Word) (s : State) : State :=
  if bit raw 0 then
    let s1 := (s.setFlag F.CHIP_UNIT_VALID false).updBoot fun b => { b with enumOut := [] }
    if s.boot.enumHead then takeUnit 0 s1 else s1
  else s

/-! ### The boot of Hearth (R530 to R535) -/

/-- STATE of the boot. -/
def bootState (s : State) : Nat := s.fld F.HRTH_BOOT_STATUS_STATE

/-- Whether a load write from PF0 (`pf0`), or from the management bus (`bus`), is taken (R532). -/
def loadOpen (pf0 bus : Bool) (s : State) : Bool :=
  (if s.boot.strapBoot then bus else pf0) && decide (bootState s ≠ 3 ∧ bootState s ≠ 4)

/-- Whether an agent is PF0. -/
def isPf0 : Agent → Bool
  | .pf0 => true
  | _ => false

/-- A Hearth core. -/
def hearthCore : Agent → Option (Fin 4)
  | .hearth c => some c
  | _ => none

/-- An image word is stored, and the address advances (R532). -/
def loadWord (d : Word) (s : State) : State :=
  let a := s.fld F.HRTH_LOAD_ADDR_ADDR / 4 * 4
  (s.setSramBytes a (leBytes 4 d.toNat)).setFld F.HRTH_LOAD_ADDR_ADDR ((a + 4) % sramSize)

/-- What writes of `HRTH_LOAD_ADDR` and `HRTH_LOAD_DATA` set off. -/
def actLoadAddr (ag : Agent) (old _raw : Word) (s : State) : State :=
  if loadOpen (isPf0 ag) false s then s
  else (s.setReg Reg.HRTH_LOAD_ADDR old).raise F.HRTH_INT_STATUS_LOAD_DENIED
def actLoadData (ag : Agent) (_old raw : Word) (s : State) : State :=
  let s1 := s.setReg Reg.HRTH_LOAD_DATA 0
  if loadOpen (isPf0 ag) false s then loadWord raw s1 else s1.raise F.HRTH_INT_STATUS_LOAD_DENIED

/-- The fuses as they are. -/
def fusesNow (b : BootSt) : Fuses := { valid := b.valid, revoked := b.revoked, secver := b.secver, hash := b.hash }

/-- GO (R531, R532): a verification starts, with the fuses as they are (R536). -/
def bootGo (pf0 bus : Bool) (s : State) : State :=
  if ¬loadOpen pf0 bus s then s.raise F.HRTH_INT_STATUS_LOAD_DENIED
  else if bootState s = 1 ∨ bootState s = 2 ∨ bootState s = 5 then
    (s.setFld F.HRTH_BOOT_STATUS_STATE 3).updBoot fun b => { b with seen := fusesNow b }
  else s

/-- Put the registers that meet a test at their reset values. -/
def State.wipeRegs (p : Nat → Bool) (s : State) : State :=
  { s with regs := s.regs.filter (fun e => !p e.1), hst := { s.hst with woDone := s.hst.woDone.filter (fun e => !p e.1) } }

/-- The waiting state that the strap in effect selects. -/
def bootWait (s : State) : Nat := if s.boot.strapBoot then 2 else 1

/-- RESTART (R534, R552). -/
def bootRestart (s : State) : State :=
  let s1 := s.wipeRegs (fun a => decide (4 ≤ a / 1024 ∧ a / 1024 < 8))
  let s2 := { s1 with sram := [], hst := { s1.hst with mbox := [] }, boot := { s1.boot with cores := 0 } }
  settleCover ((s2.setFld F.HRTH_BOOT_STATUS_STATE (bootWait s)).setFld F.FLT_LIVE_HUNG 0)

/-- What a write of `HRTH_BOOT_CMD` sets off: RESTART is PF0's or Hearth's. -/
def actBootCmd (ag : Agent) (_old raw : Word) (s : State) : State :=
  let s1 := if bit raw 0 then bootGo (isPf0 ag) false s else s
  if bit raw 1 ∧ (isPf0 ag ∨ (hearthCore ag).isSome) then bootRestart s1 else s1

/-- A field of the image header. -/
def imgWord (s : State) (off : Nat) : Nat := leNat (s.sramBytes off 4)

/-- The hash that a key slot holds. -/
def slotHash (f : Fuses) (k : Nat) : BitVec 384 := smapGet (fun j => if j = 0 then Config.keyHash0 else 0) f.hash k

/-- The lowest slot, valid and not revoked, that holds the hash of the image's key. -/
def keySlot (s : State) : Option Nat :=
  let h := Config.sha384 (s.sramBytes 0x50 96)
  let f := s.boot.seen
  (upto 4).find? fun k => f.valid.toNat.testBit k && !f.revoked.toNat.testBit k && decide (slotHash f k = h)

/-- The tests of R531 in their order: the CODE of the first that fails, 0 where all pass. -/
def verifyCode (s : State) : Nat :=
  let len := imgWord s 8
  let entry := imgWord s 12
  if imgWord s 0 ≠ 0x5A4C5259 ∨ imgWord s 4 ≠ 1 then 1
  else if len = 0 ∨ 4193792 < len ∨ len % 4 ≠ 0 ∨ len ≤ entry ∨ entry % 4 ≠ 0 then 2
  else if (keySlot s).isNone then 3
  else if ¬Config.ecdsaVerify (s.sramBytes 0x50 96) (Config.sha384 (s.sramBytes 0 0xB0)) (s.sramBytes 0xB0 96) then 4
  else if Config.sha384 (s.sramBytes 0x200 len) ≠ BitVec.ofNat 384 (beNat (s.sramBytes 0x20 48)) then 5
  else if imgWord s 16 < s.boot.seen.secver then 6
  else 0

/-- The end of a verification (R531): the cores are released at 0x200 + ENTRY; the watchdogs restart as STATE enters 4 (R551). -/
def verifyEnd (s : State) : State :=
  let c := verifyCode s
  let s1 := s.setFld F.HRTH_BOOT_STATUS_CODE c
  if c = 0 then
    let t := s.clk.tclk
    (((s1.setFld F.HRTH_BOOT_STATUS_SLOT ((keySlot s).getD 0)).setFld F.HRTH_BOOT_STATUS_STATE 4).raise
      F.HRTH_INT_STATUS_RUNNING).updBoot fun b =>
        { b with cores := 0xF, entry := 0x200 + imgWord s 12, busErr := 0, kicks := [t, t, t, t] }
  else (s1.setFld F.HRTH_BOOT_STATUS_STATE 5).raise F.HRTH_INT_STATUS_BOOT_FAIL

/-! ### Fuses (R536) -/

/-- `HRTH_FUSE` as the fuses give it. -/
def fuseWord (s : State) : Word :=
  BitVec.ofNat 32 (s.boot.valid.toNat + s.boot.revoked.toNat * 16 + s.boot.secver * 256)

/-- What a write of `HRTH_FUSE_CMD` sets off: only Hearth's counts. -/
def actFuseCmd (ag : Agent) (old raw : Word) (s : State) : State :=
  match hearthCore ag with
  | none => s.setReg Reg.HRTH_FUSE_CMD old
  | some _ =>
    if ¬bit raw 31 then s
    else
      let rev := s.boot.revoked ||| BitVec.ofNat 4 raw.toNat
      if s.boot.valid &&& ~~~rev = 0 then s.raise F.HRTH_INT_STATUS_FUSE_REFUSED
      else s.updBoot fun b => { b with revoked := rev, secver := if bit raw 8 then min 64 (b.secver + 1) else b.secver }

/-- Hearth writes `HRTH_FW_STATUS` (R537, R541). -/
def fwStatusWrite (d : Word) (s : State) : State :=
  let rise := bit d 0 && !s.flag F.HRTH_FW_STATUS_READY
  (s.setReg Reg.HRTH_FW_STATUS (d &&& 0xFFFF0001#32)).raiseIf rise F.HRTH_INT_STATUS_FW_READY

/-! ### The management bus (R533) -/

/-- Groups of four bytes, most significant first; an incomplete one is dropped. -/
def groups4 : List Byte → List Word
  | a :: b :: c :: d :: r => BitVec.ofNat 32 (beNat [a, b, c, d]) :: groups4 r
  | _ => []

/-- One group written to a register of the bus map. -/
def mgmtWrite (r : Nat) (d : Word) (s : State) : State :=
  let denied := s.raise F.HRTH_INT_STATUS_LOAD_DENIED
  match r with
  | 0x11 => if loadOpen false true s then s.setFld F.HRTH_LOAD_ADDR_ADDR d.toNat else denied
  | 0x12 => if loadOpen false true s then loadWord d s else denied
  | 0x13 => if bit d 0 then bootGo false true s else s
  | _ => s

/-- A register of the bus map as read. -/
def mgmtRead (r : Nat) (s : State) : Option Word :=
  match r with
  | 0x00 => some (s.reg Reg.CHIP_ID)
  | 0x01 => some (s.reg Reg.CHIP_UNIT)
  | 0x10 => some (s.reg Reg.HRTH_BOOT_STATUS)
  | 0x11 => some (s.reg Reg.HRTH_LOAD_ADDR)
  | _ => none

/-- Bytes of a bus that nothing drives. -/
def undriven : List Byte := [0xFF, 0xFF, 0xFF, 0xFF]

/-- A transaction: the bytes written after the target address, UNIT and REG first, then a read of four bytes where `read` says so. -/
def mgmtBus (bytes : List Byte) (read : Bool) (s : State) : State :=
  let missed := s.updBoot fun b => { b with mgmtAck := false, mgmtOut := if read then undriven else [] }
  match bytes with
  | u :: r :: rest =>
    let mine := s.flag F.CHIP_UNIT_VALID && decide (u.toNat = s.fld F.CHIP_UNIT_UNIT)
    if mine ∨ u = 0xFF then
      let s1 := (groups4 rest).foldl (fun s d => mgmtWrite r.toNat d s) s
      s1.updBoot fun b => { b with mgmtAck := true, mgmtOut :=
        if ¬read then [] else if u = 0xFF then undriven else (mgmtRead r.toNat s).elim undriven fun w => beBytes 4 w.toNat }
    else missed
  | _ => missed

/-! ### Watchdogs (R551) -/

/-- What a write of `FLT_WDOG_KICK` sets off: a core kicks its own bit only, while an image runs. -/
def actWdogKick (ag : Agent) (_old raw : Word) (s : State) : State :=
  match hearthCore ag with
  | some c => if bit raw c ∧ bootState s = 4 then s.updBoot fun b => { b with kicks := setNth b.kicks c s.clk.tclk } else s
  | none => s

/-- A watched core has not kicked in time: it is halted and reported. -/
def coreHung (c : Nat) (s : State) : State :=
  let s1 := s.updBoot fun b => { b with cores := b.cores &&& ~~~(BitVec.ofNat 4 (2 ^ c)) }
  let s2 := (s1.setRbit Reg.FLT_LIVE (8 + c) true).raise F.FLT_INT_STATUS_WDOG_EXPIRE
  settleCover (faultLog 15 0x06 c 0 s2)

/-- What writes of `FLT_CTRL` and `FLT_WDOG` set off: the conditions of coverage are shown anew (R543). -/
def actFltCfg (_old _raw : Word) (s : State) : State := settleCover s

/-! ### Commands -/

/-- R526: a part with an address below 63 sends it on, plus 1. -/
def execEnumFrameSend (s : State) : Host.Outcome State Fault Refusal :=
  whenOven s fun s => if s.pwr.oclkUp then enumSend s else s
/-- R527, R528: a head ignores ENUM_IN. -/
def execEnumFrameReceive (startNs : Nat) (pulses : List (Nat × Nat)) (s : State) : Host.Outcome State Fault Refusal :=
  whenOven s fun s =>
    if s.pwr.oclkUp ∧ ¬s.boot.enumHead then
      match enumValue startNs pulses with
      | some v => enumHeard v s
      | none => s
    else s
def execEnumTimeout (s : State) : Host.Outcome State Fault Refusal :=
  whenOven s fun s => if s.pwr.oclkUp then s.raiseIf (!s.flag F.CHIP_UNIT_VALID) F.CHIP_INT_STATUS_ENUM_TIMEOUT else s
def execReenum (ag : Agent) (d : Word) (s : State) : Host.Outcome State Fault Refusal :=
  whenMain s (regWrite ag Reg.CHIP_ENUM_CMD Rd.CHIP_ENUM_CMD actEnumCmd allBits (d ||| 1))
def execHrthLoadDataWrite (ag : Agent) (d : Word) (s : State) : Host.Outcome State Fault Refusal :=
  whenMain s (regWrite ag Reg.HRTH_LOAD_DATA Rd.HRTH_LOAD_DATA (actLoadData ag) allBits d)
def execBootVerifyDone (s : State) : Host.Outcome State Fault Refusal :=
  whenMain s fun s => if bootState s = 3 then verifyEnd s else s
def execFuseCmdGo (ag : Agent) (d : Word) (s : State) : Host.Outcome State Fault Refusal :=
  whenMain s (regWrite ag Reg.HRTH_FUSE_CMD Rd.HRTH_FUSE_CMD (actFuseCmd ag) allBits (d ||| 0x80000000#32))
def execMgmtBusTransaction (bytes : List Byte) (read : Bool) (s : State) : Host.Outcome State Fault Refusal :=
  whenMain s (mgmtBus bytes read)
def execWdogKick (ag : Agent) (d : Word) (s : State) : Host.Outcome State Fault Refusal :=
  whenMain s (regWrite ag Reg.FLT_WDOG_KICK Rd.FLT_WDOG_KICK (actWdogKick ag) allBits d)
def execWdogExpire (c : Fin 4) (s : State) : Host.Outcome State Fault Refusal :=
  whenMain s fun s =>
    if bootState s = 4 ∧ s.rbit Reg.FLT_WDOG (8 + c) ∧ s.boot.cores.toNat.testBit c then coreHung c s else s

end Sys2Proof.Machine
end

