-- ==== Sys2Proof/Machine/Egress.lean ====
section
/-!
DEFINITION. Sys2Proof/Machine/Egress.lean: the selection of a frame, its hand-over and its end
(09_mac_and_port_lifecycle.md, R338 to R341; 11_shared_buffer_and_cut_through.md, R416 to R420; 12_queues_scheduling_shaping.md, R438, R446,
R454, R456; 10_forwarding_pipeline.md, R379; 04_time_base_and_stamps.md, R179 to R184).
-/
namespace Sys2Proof.Machine

/-- The sojourn of a frame (R454). -/
def sojourn (f : Frame) (s : State) : Nat := min (2 ^ 24 - 1) (pclk s - f.admAt)

/-- Stage 5 of a frame. -/
def stage5 (f : Frame) (s : State) : State :=
  tagStage f 5 (pclk s) (flagAt (decide (f.egress < 384) && (s.port f.egress).lastB) 0)
    (if f.egress < 384 then s.fld (F.BUF_Q_OCC_SLICES (queueOf f.egress f.queue)) else 0) (sojourn f s) s

/-- A frame is released in the selection: bad, or failing the egress check (R331, R340, R438). -/
def releaseFrame (id : Nat) (f : Frame) (outcome : Nat) (s : State) : State :=
  tagClose f outcome (frameDone id (takeFromQueue id f (stage5 f s)))

/-- Buffer data corruption is found at an egress (R340, R420). -/
def corruptFound (s : State) : State := faultOpen 5 0x0B none s

/-- What a selection charges for a frame of a logical port (R441, R446). -/
def chargeFrame (f : Frame) (group : Bool) (s : State) : List Nat × Option Nat × State :=
  let g := queueOf f.egress f.queue
  let c := countedLen s f (lengthNow f)
  let on := [g, 6144 + f.egress].filter (shaperEn s)
  let s1 := on.foldl (fun s i => shaperCharge i c s) s
  if group then
    (on, some g, (setDeficit g (deficitOf s1 g - c) s1).setFld (F.SCHD_PORT_STATUS_RR_NEXT f.egress) f.queue)
  else (on, none, s1)

/-- The samples of a queue take a selection (R456). -/
def sampleTake (g so : Nat) (s : State) : State :=
  s.updSample g fun r => { r with last := so, max := max r.max so, sat := r.sat || decide (so = 2 ^ 24 - 1), deq := r.deq + 1 }

/-- The timing of a selected frame: its insertion and its record (R179 to R183, R558). Without a format there is no time to state
(R160). -/
def stampFrame (p : Nat) (st : Stamp) (f : Frame) (s : State) : Frame × State :=
  let a := effIns p f.ins s
  if a = 0 ∨ tbFormat s = 0 then (f, s)
  else
    let t := txStamp p st s
    let v := insertion f a t s
    let rec' := if s.flag (F.TBASE_PORT_TS_CTRL_TX_EN p) ∧ (a = 4 ∨ f.record) then some (txRecord p f t s) else none
    let (sat, miss) := match v with
      | some x => (insertPtp f.bytes x).2
      | none => (false, false)
    ({ f with insVal := v, txRec := rec' },
      (s.raiseIf sat F.TBASE_INT_STATUS_CF_SAT).raiseIf miss F.TBASE_INT_STATUS_NO_TRAILER)

/-- A frame is selected: it leaves its queue. -/
def selectFrame (p id : Nat) (st : Stamp) (f : Frame) (s : State) : State :=
  let (f1, s1) := stampFrame p st f s
  takeFromQueue id f1 (s1.setFrame id { f1 with phase := .selected })

/-- The head that a logical port's scheduler has chosen (R438). -/
def serveHead (p : Nat) (corrupt : Bool) (st : Stamp) (id : Nat) (f : Frame) (group : Bool) (s : State) : State :=
  if f.bad.isSome then releaseFrame id f 8 s
  else if corrupt ∧ ¬f.ct then
    let s1 := (bumpPort (Reg.PORT_TX_FCS_DROP_LO p) p 1 s).raise (F.PORT_INT_STATUS_TX_FCS_DROP p)
    releaseFrame id f 9 (corruptFound s1)
  else
    let g := queueOf p f.queue
    let c := countedLen s f (lengthNow f)
    let s1 := evtOccur 4 g c (evtOccur 3 g 1 (stage5 f s))
    let (on, d, s2) := chargeFrame f group (sampleTake g (sojourn f s) s1)
    selectFrame p id st { f with schChg := on, defChg := d, schOver := egressOver s f } s2

/-- What the reconciliation sublayer of a port sends (R329; IEEE 802.3 fault signalling, log 18): its MAC's frames, remote fault, or idle. -/
inductive RsOut where
  | frames
  | remoteFault
  | idle
deriving DecidableEq, Repr

/-- A local fault, which a PCS without its locks reports too, is answered by remote fault, and a remote fault by idle. -/
def rsSends (s : State) (p : Nat) : RsOut :=
  if s.flag (F.PORT_LIVE_LOCAL_FAULT p) ∨ ¬s.flag (F.PORT_LIVE_PCS_LOCK p) ∨ ¬s.flag (F.PORT_LIVE_FEC_LOCK p) then .remoteFault
  else if s.flag (F.PORT_LIVE_REMOTE_FAULT p) then .idle
  else .frames

/-- Whether the frames of a port's MAC are what its PCS encodes. -/
def macSends (s : State) (e : Nat) : Bool := decide (384 ≤ e) || decide (rsSends s e = .frames)

/-- Whether what a port's MAC sends reaches the balls of all its lanes: no fault is signalled, and no lane sends a pattern, is in far-end
loopback, or has its transmitter off (R146, R149, R329). -/
def portCarries (s : State) (e : Nat) : Bool := macSends s e && (portLaneIds s e).all (laneCarries s)

/-- Whether a port hears on all its lanes what its MAC sends (R146, R149). -/
def portHears (s : State) (e : Nat) : Bool :=
  macSends s e && (portLaneIds s e).all fun l => hearsSelf s l && decide (s.fld (genPatFld l) = 0)

/-- A frame that a port sends goes round its near-end loopback. -/
def loopFrame (e : Nat) (bs : List Byte) (s : State) : State :=
  s.updNet fun n =>
    { n with looped := smapSet noLoops n.looped e (if portHears s e then smapGet noLoops n.looped e ++ [bs] else []) }

/-- No bytes. -/
def noBytes (_ : Nat) : List Byte := []

/-- The gap after a frame of `n` bytes and the deficit idle count after it (R329): preamble, frame and gap fill whole groups of 8 octets;
12 octets are shortened while the deficit stays below 8, else lengthened (log 18). -/
def idleGap (deficit n : Nat) : Nat × Nat :=
  let past := (8 + n + 12) % 8
  if deficit + past < 8 then (12 - past, deficit + past) else (12 + 8 - past, deficit + past - 8)

/-- The octets that a MAC sends for a frame: preamble, SFD, frame (R329). -/
def wireFrame (bs : List Byte) : List Byte := List.replicate 7 0x55#8 ++ [0xD5#8] ++ bs

/-- The bytes of a frame, its FCS with it, leave on a port. -/
def putOut (e : Nat) (bs : List Byte) (u : State) : State :=
  let s := loopFrame e bs u
  if portCarries s e then
    let s1 := s.updNet fun n => { n with sent := smapSet noBytes n.sent e (wireFrame bs) }
    if e < 384 then s1.updPort e fun r =>
      { r with gap := (idleGap r.deficit bs.length).1, deficit := (idleGap r.deficit bs.length).2 }
    else s1
  else s

/-- The PFC frame of a port for priority k and a time, its FCS with it (R338; the layout of R336's standard, log 22). -/
def pfcFrame (p k q : Nat) : List Byte :=
  let body := [0x01#8, 0x80#8, 0xC2#8, 0x00#8, 0x00#8, 0x01#8] ++ (leBytes 6 (Config.pfcSource p).toNat).reverse ++
    [0x88#8, 0x08#8, 0x01#8, 0x01#8] ++ (leBytes 2 (2 ^ k)).reverse ++
    (upto 8).flatMap (fun i => (leBytes 2 (if i = k then q else 0)).reverse) ++ List.replicate 26 0
  body ++ leBytes 4 (fcsOf body).toNat

/-- A PFC frame that the MAC holds takes the selection point, and is sent (R338, R341). -/
def servePfc (p : Nat) (s : State) : State :=
  match (s.port p).pfcHold with
  | [] => s
  | (k, q) :: rest =>
    let s1 := bumpPort (Reg.PORT_TX_PFC_LO p) p 1 s
    let s2 := bumpPort (Reg.PORT_TX_BYTES_LO p) p 64 (bumpPort (Reg.PORT_TX_FRAMES_LO p) p 1 s1)
    putOut p (pfcFrame p k q) (s2.updPort p fun r => { r with pfcHold := rest })

/-- The selection point of a logical port. -/
def selectLogical (p : Nat) (corrupt : Bool) (st : Stamp) (u : State) : State :=
  let s := profileTakes p u
  if ¬(s.port p).pfcHold.isEmpty then servePfc p s
  else
    match chooseQueue p s with
    | (some (q, group), s1) =>
      match readyHead s1 (16 * p + q) with
      | some (id, f) => serveHead p corrupt st id f group s1
      | none => s1
    | (none, s1) => s1

/-- A timing port sends its frames in the order of their admission; they are whole (R352). -/
def selectTiming (p : Nat) (corrupt : Bool) (st : Stamp) (s : State) : State :=
  match readyHead s (queueOf p 0) with
  | some (id, f) => if corrupt then releaseFrame id f 9 (corruptFound s) else selectFrame p id st f s
  | none => s

/-- A selection point of an egress; a port that is not up makes none. -/
def selection (p : Nat) (corrupt : Bool) (st : Stamp) (s : State) : State :=
  if portUp s p then (if p < 384 then selectLogical p corrupt st s else selectTiming p corrupt st s) else s

/-! ### Hand-over (R417, R418, R557) -/

/-- A selected frame's first word reaches its MAC; a frame found bad by then is never sent. -/
def handover (id : Nat) (s : State) : State :=
  match s.frame? id with
  | none => s
  | some f =>
    if f.phase ≠ .selected then s
    else if f.bad.isSome then tagClose f 8 (frameDone id s)
    else
      let f1 := { f with phase := .handed }
      let s1 := s.setFrame id f1
      match f.tag with
      | some r => tagStage f1 6 (stageAt r 5 s + 539) 0 (effIns f.egress f.ins s) 0 s1
      | none => s1

/-! ### The frame as sent (R379, R419, R452) -/

/-- The frame with its rewrite, remark and insertion, the FCS updated. -/
def sentBytes (f : Frame) : List Byte :=
  let bs := f.bytes
  let h := parse bs (parseLen bs f.ended)
  let b1 := match f.next with
    | some r => updateFcs bs (routeBytes bs h r)
    | none => bs
  let b2 := match f.dscp with
    | some d => updateFcs b1 (remarkBytes b1 h d)
    | none => b1
  match f.insVal with
  | some v => (insertPtp b2 v).1
  | none => b2

/-- The bytes of a stomped frame: what the buffer holds before the FCS, and the complement of its CRC. Of a frame cut short all of it is
data, as if an FCS were still to come. -/
def stompBytes (f : Frame) : List Byte :=
  let held := min f.bytes.length (256 * f.slices.length)
  let whole := decide (held = f.bytes.length) && f.ended && (f.bad.isNone || decide (f.bad = some .fcs ∨ f.bad = some .egress))
  let body := if whole then (sentBytes f).take (held - 4) else (sentBytes { f with bytes := f.bytes ++ [0, 0, 0, 0] }).take held
  body ++ leBytes 4 (~~~(fcsOf body)).toNat

/-- A stomp is counted (R420). -/
def countStomp (f : Frame) (s : State) : State :=
  let e := f.egress
  let s1 := bumpPort (Reg.PORT_CT_BAD_SRC_LO f.src) f.src 1 (bumpPort (Reg.PORT_CT_STOMPED_LO e) e 1 s)
  if f.bad.isSome ∧ f.bad ≠ some .egress then s1.bump64 Reg.BUF_STOMP_RX_LO 1 (some F.BUF_INT_STATUS_CNT_OVF)
  else
    corruptFound ((s1.bump64 Reg.BUF_STOMP_CORRUPT_LO 1 (some F.BUF_INT_STATUS_CNT_OVF)).raise
      F.BUF_INT_STATUS_STOMP_CORRUPT)

/-- A frame sent in full is counted (R341, R353). -/
def countSent (e n : Nat) (s : State) : State :=
  if e < 384 then bumpPort (Reg.PORT_TX_BYTES_LO e) e n (bumpPort (Reg.PORT_TX_FRAMES_LO e) e 1 s)
  else bumpAln (Reg.ALN_TX_FRAMES (e - 384)) (e - 384) 1 s

/-- A frame's last word is handed to its MAC. -/
def transmitEnd (id : Nat) (corrupt : Bool) (s : State) : State :=
  match s.frame? id with
  | none => s
  | some f =>
    if f.phase ≠ .handed ∨ ¬(f.ended || f.cut) then s
    else
      let stomp := f.bad.isSome || (corrupt && f.ct)
      let bs := if stomp then stompBytes f else sentBytes f
      let s1 := if stomp then countStomp f s else countSent f.egress bs.length s
      let s2 := putOut f.egress bs (evtOccur 6 f.egress 1 s1)
      let s3 := match f.txRec with
        | some r => s2.updTb fun t => { t with txWait := t.txWait ++ [(id, r)] }
        | none => s2
      tagClose f (if stomp then 2 else 1) (frameDone id (tagStage f 7 (pclk s) 0 (bs.length + flagAt stomp 14) 0 s3))

/-! ### Commands -/

def execSelection (p : Fin 416) (corrupt : Bool) (st : Stamp) (s : State) : Host.Outcome State Fault Refusal :=
  whenMain s (selection p corrupt st)
def execEgressHandover (id : Nat) (s : State) : Host.Outcome State Fault Refusal := whenMain s (handover id)
def execFrameTransmitEnd (id : Nat) (corrupt : Bool) (s : State) : Host.Outcome State Fault Refusal :=
  whenMain s (transmitEnd id corrupt)

end Sys2Proof.Machine
end

