-- ==== Sys2Proof/Machine/Loop.lean ====
section
/-!
DEFINITION. Sys2Proof/Machine/Loop.lean: the clean-up loop, its references and their selection, holdover, the clock outputs and
LOCK_A (06_loops_references_and_holdover.md, R242, R243, R249 to R280). The events that move TCLK between the multiplying PLL and
the keeper, and LOOP_CMD, which can force one, are in Machine/Keeper.lean.
-/
namespace Sys2Proof.Machine

def refReset (_ : Nat) : RefSt := {}
def State.ref (s : State) (i : Nat) : RefSt := smapGet refReset s.loop.refs i
def State.updRef (s : State) (i : Nat) (f : RefSt → RefSt) : State :=
  s.updLoop fun l => { l with refs := smapSet refReset l.refs i (f (s.ref i)) }

/-- LOOP_STATUS.STATE: 0 FREE_RUN, 1 ACQUIRE, 2 LOCKED, 3 SWITCHING, 4 HOLDOVER, 5 DISPUTE_HOLD, 6 KEEPER, 7 XO_LOST. -/
def loopState (s : State) : Nat := s.fld F.LOOP_STATUS_STATE

/-! ### Phases of references (R249, R250, R255) -/

/-- References 20 to 22 are time references. -/
def isTimeRef (i : Nat) : Bool := decide (20 ≤ i)

/-- The sky reference samples every 500 µs, the others every 100 µs. -/
def sampleSpan (i : Nat) : Nat := if i = 20 then 5 else 1

/-- The frequency whose period is the reference's phase period P: `LOOP_REF_FREQ_HZ`, or 1.28 ns of a word clock. -/
def refHz (s : State) (i : Nat) : Nat := if i < 4 then s.fld (F.LOOP_REF_FREQ_HZ_HZ i) else 781250000

/-- Reduce a phase of a frequency reference into [−P/2, P/2), in 2^−20 ns. -/
def reducePhase (s : State) (i : Nat) (v : Int) : Int :=
  if isTimeRef i then v
  else
    let hz : Int := (refHz s i : Int)
    let m : Int := ((2 ^ 20 * 1000000000 : Nat) : Int)
    let k := Int.fdiv (2 * v * hz + m) (2 * m)
    v - Int.fdiv (2 * k * m + hz) (2 * hz)

/-- DELAY in 2^−20 ns. -/
def refDelay (s : State) (i : Nat) : Int := signed 32 (s.reg (Reg.LOOP_REF_DELAY i)).toNat * 16

/-- The phase error of a measured phase, against the build-out of the reference's kind. -/
def errorOf (s : State) (i : Nat) (raw : Int) : Int :=
  if isTimeRef i then Int.fdiv (raw * (2 ^ 28 : Nat) - s.loop.bt) (2 ^ 28 : Nat)
  else reducePhase s i (raw - s.loop.bc)

/-- The present e of a reference: that of its last sample. -/
def refError (s : State) (i : Nat) : Int :=
  match (s.ref i).raws with
  | raw :: _ => errorOf s i raw
  | [] => 0

/-- A phase in 2^−20 ns as a register in 2^−16 ns shows it, saturating. -/
def showPhase (e : Int) : Word :=
  BitVec.ofNat 32 (toBits 32 (clampInt (-(2 ^ 31 : Nat)) ((2 ^ 31 - 1 : Nat) : Int) (Int.fdiv (e + 8) 16)))

/-- The build-outs as their registers show them. -/
def showBuildOuts (s : State) : State :=
  let bt := s.loop.bt
  let s1 := s.setReg64 Reg.LOOP_BT_LO Reg.LOOP_BT_HI (toBits 64 (Int.fdiv bt (nsUnit : Int)))
  let s2 := s1.setReg Reg.LOOP_BT_SUB (BitVec.ofNat 32 (toBits 16 (Int.fdiv bt (2 ^ 32 : Nat))))
  s2.setReg Reg.LOOP_BC (BitVec.ofNat 32 (toBits 32 (Int.fdiv (s.loop.bc + 8) 16)))

/-- Add an amount in 2^−20 ns to the build-out of a reference's kind. -/
def addBuildOut (i : Nat) (d : Int) (s : State) : State :=
  showBuildOuts (s.updLoop fun l =>
    if isTimeRef i then { l with bt := l.bt + d * (2 ^ 28 : Nat) } else { l with bc := l.bc + d })

/-- Set the build-out of a reference's kind so that its e is 0 (R262). -/
def setBuildOut (i : Nat) (s : State) : State :=
  match (s.ref i).raws with
  | raw :: _ => showBuildOuts (s.updLoop fun l =>
      if isTimeRef i then { l with bt := raw * (2 ^ 28 : Nat) } else { l with bc := raw })
  | [] => s

/-- The time base moved by `d` (2^−48 ns): time references are measured less by as much (R258), and, but for a DISPUTE_STEP,
Bt takes the change up, so that e does not change (R250). A reference time that has come and not yet been sampled moves likewise. -/
def loopTimeMoved (d : Int) (intoBt : Bool) (s : State) : State :=
  let d20 := Int.fdiv d (2 ^ 28 : Nat)
  let s1 := forUpto 3 (fun k s => s.updRef (20 + k) fun r => { r with raws := r.raws.map (· - d20), given := r.given.map (· - d20) }) s
  if intoBt then showBuildOuts (s1.updLoop fun l => { l with bt := l.bt - d20 * (2 ^ 28 : Nat) - d % (2 ^ 28 : Nat) }) else s1

/-! ### States of references (R255 to R258) -/

def refState (s : State) (i : Nat) : Nat := s.fld (F.LOOP_REF_STATUS_STATE i)

/-- Change a reference's STATE; each change sets its REF_CHANGE bit. -/
def setRefState (i st : Nat) (s : State) : State :=
  if refState s i = st then s
  else (s.setFld (F.LOOP_REF_STATUS_STATE i) st).raise ⟨Reg.LOOP_REF_INT_STATUS, i, 1⟩

/-- The qualification timer starts (R257). -/
def startQual (i : Nat) (s : State) : State :=
  s.setFld (F.LOOP_REF_STATUS_QUAL_LEFT_S i)
    (if i = 20 then s.fld F.SKY_REQUAL_SECONDS else s.fld (F.LOOP_REF_CFG_QUAL_S i))

/-- To ABSENT with a cause, and on to QUALIFYING where the reference is present. -/
def refAbsent (i cause : Nat) (s : State) : State :=
  let s1 := ((setRefState i 1 s).setFld (F.LOOP_REF_STATUS_CAUSE i) cause).setFld (F.LOOP_REF_STATUS_QUAL_LEFT_S i) 0
  let s2 := s1.updRef i fun r => { r with raws := [], errs := [], taken := 0, skipped := false }
  if s.flag (F.LOOP_REF_STATUS_PRESENT i) then startQual i (setRefState i 2 s2) else s2

/-- Back to QUALIFYING from QUALIFIED with a cause, or the timer starts again (R257). -/
def refRequalify (i cause : Nat) (s : State) : State :=
  if refState s i = 3 then startQual i ((setRefState i 2 s).setFld (F.LOOP_REF_STATUS_CAUSE i) cause)
  else if refState s i = 2 then startQual i s else s

/-- What R256 says of presence where the part's own state decides it; the surroundings decide REFIN through its windows. -/
def presentNow (i : Nat) (s : State) : Bool :=
  if i < 4 then decide (16 ≤ (s.ref i).windows)
  else if i < 20 then
    let slot := s.fld (F.LOOP_REF_CFG_SLOT i)
    let cfg := s.reg (Reg.MET_SRC_CFG slot)
    (decide (bits cfg 0 3 = 1 ∨ bits cfg 0 3 = 3) && sourceLive s (bits cfg 0 3) (bits cfg 16 10)) &&
      s.flag (F.MET_SRC_MEAN_VALID slot)
  else if i = 20 then s.flag F.SKY_LIVE_TIME_VALID
  else if i = 21 then decide (s.fld F.TWIN_LIVE_ROLE = 1) && s.flag (F.TWIN_LNK_STATUS_OK 0)
  else s.flag F.TWIN_STACK_STATUS_POS_VALID && !s.flag F.TWIN_STACK_CFG_MASTER && s.flag (F.TWIN_LNK_STATUS_OK 1) &&
    s.twin.masters.isEmpty

/-- A reference becomes present or absent (R256, R257). -/
def refPresence (i : Nat) (s : State) : State :=
  let p := presentNow i s
  if p = s.flag (F.LOOP_REF_STATUS_PRESENT i) then s
  else
    let s1 := s.setFlag (F.LOOP_REF_STATUS_PRESENT i) p
    if p then (if refState s i = 1 then startQual i (setRefState i 2 s1) else s1)
    else if refState s i = 3 then refAbsent i 1 s1
    else if refState s i = 2 then refAbsent i (s.fld (F.LOOP_REF_STATUS_CAUSE i)) s1
    else s1

/-! ### The filter (R252, R253, R263) -/

/-- π × 2^96 and π² × 2^96, rounded down. -/
def pi96 : Nat := 248902613312231085230521944622
def piSq96 : Nat := 781950621441006250765660376472

/-- y, in 2^−48. -/
def loopY (s : State) : Int := signed 40 (s.reg64 Reg.LOOP_FREQ_LO Reg.LOOP_FREQ_HI)

/-- ±`LOOP_FREQ_LIMIT` in 2^−48. -/
def freqLimit (s : State) : Int := ((s.fld F.LOOP_FREQ_LIMIT_LIMIT * 2 ^ 48 / 1000000000 : Nat) : Int)

/-- Set y, clamped (R242). -/
def setY (y : Int) (s : State) : State :=
  let v := clampInt (-(freqLimit s)) (freqLimit s) y
  let s1 := s.setReg64 Reg.LOOP_FREQ_LO Reg.LOOP_FREQ_HI (toBits 40 v)
  let c := decide (v ≠ y)
  (s1.setFlag F.LOOP_STATUS_FREQ_CLAMP c).raiseIf (c && !s.flag F.LOOP_STATUS_FREQ_CLAMP) F.LOOP_INT_STATUS_FREQ_CLAMP

/-- The bandwidth that the loop uses, in mHz. -/
def loopBw (i : Nat) (s : State) : Nat :=
  let b := if loopState s = 1 ∧ s.flag F.LOOP_CTRL_FAST_ACQ then 1000 * s.fld F.LOOP_BW_ACQ_BW else s.fld F.LOOP_BW_BW
  if i = 20 then min b 10000 else b

/-- |r| falls by the slope limit of one sample (R263). -/
def slewStep (i : Nat) (s : State) : State :=
  let r := s.loop.r
  let d : Int := ((s.fld F.LOOP_SLOPE_SLOPE * 2 ^ 20 * sampleSpan i : Nat) : Int)
  let r' := if d < r then r - d else if r < -d then r + d else 0
  (s.updLoop fun l => { l with r := r' }).raiseIf (decide (r ≠ 0 ∧ r' = 0)) F.LOOP_INT_STATUS_SLEW_DONE

/-- The filter at a sample of the selected reference (R252). The real arithmetic leaves the last bit of y open: it is one of the two
neighbours of the exact value (log 20). -/
def loopFilter (i : Nat) (e : Int) (s : State) : State :=
  let u := e * 10000000 - s.loop.r
  let bw : Int := (loopBw i s : Int)
  let damp : Int := (s.fld F.LOOP_BW_DAMP : Int)
  let integ := s.loop.integ + Int.fdiv ((piSq96 : Int) * bw * bw * (256 * sampleSpan i : Nat) * u)
    ((2 ^ 20 : Nat) * damp * damp * (10 ^ 26 : Nat))
  let prop := Int.fdiv (2 * (pi96 : Int) * bw * u) ((2 ^ 20 : Nat) * (10 ^ 19 : Nat))
  let (v, s1) := s.draw
  let y := Int.fdiv (integ + prop) (2 ^ 48 : Nat) + ((v % 2 : Nat) : Int)
  let s2 := setY y (s1.updLoop fun l => { l with integ := integ })
  if loopState s = 2 then
    s2.updLoop fun l => { l with ySum := l.ySum + loopY s2, ySamples := l.ySamples + 1, y2 := loopY s2 }
  else s2

/-! ### Samples (R249, R258) -/

/-- The mean and slope of the last `n` samples, carried to the next one (R258), in 2^−20 ns. -/
def predict (n : Nat) (raws : List Int) : Int :=
  let ws := raws.take n
  let cs : List Int := (upto n).map fun (k : Nat) => (n : Int) - 1 - 2 * (k : Int)
  let sx := ws.sum
  let sc := ((ws.zip cs).map fun p => p.1 * p.2).sum
  let q : Int := (n : Int) * ((n : Int) * n - 1) / 3
  Int.fdiv (2 * (sx * q + sc * (n + 1) * n) + n * q) (2 * n * q)

/-- How many samples the prediction takes. -/
def predictLen (i : Nat) : Nat := if i = 20 then 4 else 16

/-- The e of a sample joins those of the last 100 ms; LOOP_REF_PHASE is the mean of the last 1 ms (R279). -/
def noteError (i : Nat) (e : Int) (s : State) : State :=
  let es := (e :: (s.ref i).errs).take (1000 / sampleSpan i)
  let last := es.take (10 / sampleSpan i)
  (s.updRef i fun r => { r with errs := es, taken := r.taken + 1 }).setReg (Reg.LOOP_REF_PHASE i)
    (showPhase (Int.fdiv last.sum (last.length : Int)))

/-- A phase sample of a reference that is monitored and present. -/
def refSample (i : Nat) (x : Int) (s : State) : State :=
  let st := refState s i
  if ¬s.flag (F.LOOP_REF_STATUS_PRESENT i) ∨ st < 2 then s
  else
    let raw := x + refDelay s i
    let raws := (s.ref i).raws
    let n := predictLen i
    let base := if raws.length < n then (raws.head?).getD raw else predict n raws
    let dev := reducePhase s i (raw - base)
    let jumped := decide (n ≤ raws.length ∧ st ≠ 4 ∧
      s.fld F.LOOP_JUMP_LIMIT_LIMIT * 2 ^ 20 < dev.natAbs * 1000)
    let s0 := noteError i (errorOf s i (base + dev)) s
    if jumped then
      let s1 := s0.updRef i fun r => { r with raws := [base + dev] }
      faultLog 14 0x11 0 i
        (((refRequalify i 3 s1).setReg (Reg.LOOP_REF_JUMP i) (showPhase dev)).raise F.LOOP_REF_INT_STATUS_REF_JUMP)
    else
      let s2 := s0.updRef i fun r => { r with raws := ((base + dev) :: raws).take n }
      if st = 3 ∧ s.fld F.LOOP_STATUS_SELECTED = i ∧ 1 ≤ loopState s ∧ loopState s ≤ 3 then
        let s3 := slewStep i s2
        loopFilter i (refError s3 i) s3
      else s2

/-- The measured phase of a reference, in 2^−20 ns: the stamper's for a REFIN, the running mean of its slot for a port reference, which gives
no sample while the slot carries STALE (R317), what
the sky receiver or a Plahus link delivered for a time reference (R255, R300, R495). -/
def refInput (i : Nat) (x : Int) (s : State) : Option Int :=
  if i < 4 then some x
  else if i < 20 then
    let slot := s.fld (F.LOOP_REF_CFG_SLOT i)
    if (s.slot slot).stale then none else some ((s.fld (F.MET_SRC_MEAN_MEAN slot) : Nat) : Int)
  else (s.ref i).given

/-! ### Holdover (R265, R266) -/

/-- The ring holds at least AVG_S + GUARD_S entries. -/
def histEnough (s : State) : Bool :=
  decide (s.fld F.LOOP_HO_CTRL_AVG_S + s.fld F.LOOP_HO_CTRL_GUARD_S ≤ s.loop.hist.length)

/-- HO_READY: the history suffices, or an image's estimate is kept until it does (R508). -/
def showHoReady (s : State) : State :=
  (s.setFlag F.LOOP_STATUS_HO_READY (histEnough s || s.loop.seeded)).updLoop fun l => { l with seeded := l.seeded && !histEnough s }

/-- The least-squares slope per second of the window, newest first, as numerator and denominator. -/
def lsSlope (ws : List Int) : Int × Int :=
  let n := ws.length
  let cs : List Int := (upto n).map fun (k : Nat) => (n : Int) - 1 - 2 * (k : Int)
  let sc := ((ws.zip cs).map fun p => p.1 * p.2).sum
  (2 * sc, (n : Int) * ((n : Int) * n - 1) / 3)

/-- y in holdover, after t seconds. -/
def holdY (t : Nat) (s : State) : Int := Int.fdiv (s.loop.y0 + s.loop.drift * (t : Int) + (2 ^ 47 : Nat)) (2 ^ 48 : Nat)

/-- Report y0, a and t. -/
def showHold (s : State) : State :=
  let s1 := s.setReg64 Reg.LOOP_HO_FREQ_LO Reg.LOOP_HO_FREQ_HI
    (toBits 40 (clampInt (-(freqLimit s)) (freqLimit s) (holdY s.loop.hoT s)))
  let s2 := s1.setReg Reg.LOOP_HO_DRIFT (BitVec.ofNat 32 (toBits 32 (Int.fdiv (s.loop.drift + (2 ^ 31 : Nat)) (2 ^ 32 : Nat))))
  s2.setReg Reg.LOOP_HO_TIME (BitVec.ofNat 32 (if loopState s = 4 then s.loop.hoT else 0))

/-- The holdover frequency from the history; with too little of it, the last y of state 2. The slope of a single entry is
free (log 20). -/
def formHold (s : State) : State :=
  let avg := s.fld F.LOOP_HO_CTRL_AVG_S
  let guard := s.fld F.LOOP_HO_CTRL_GUARD_S
  if ¬s.flag F.LOOP_STATUS_HO_READY then
    s.updLoop fun l => { l with y0 := l.y2 * (2 ^ 48 : Nat), drift := 0, hoT := 0 }
  else if s.loop.seeded then s.updLoop fun l => { l with hoT := 0 }
  else
    let ws := (s.loop.hist.drop guard).take avg
    let mean := Int.fdiv ws.sum (avg : Int)
    let (v, s1) := s.draw
    let (num, den) := if avg = 1 then (signed 32 (v % 2 ^ 32) * (2 ^ 32 : Nat), 1) else lsSlope ws
    if s.flag F.LOOP_HO_CTRL_DRIFT_EN then
      s1.updLoop fun l => { l with
        y0 := mean + Int.fdiv (num * ((avg + 2 * guard : Nat) : Int)) (2 * den), drift := Int.fdiv num den, hoT := 0 }
    else s.updLoop fun l => { l with y0 := mean, drift := 0, hoT := 0 }

/-- Entry phases are latched on entry into holdover (R266). Where the last selected reference of the kind is itself not qualified, its last
sample gives the e, or 0 where it has none (DESIGN CHOICE, log 15). -/
def latchEntry (s : State) : State :=
  forUpto 23 (fun i t =>
    let e := if refState s i = 3 then refError s i
      else match (if isTimeRef i then s.loop.lastTime else s.loop.lastFreq) with
        | some k => refError s k
        | none => 0
    t.setReg (Reg.LOOP_REF_ENTRY_PHASE i) (showPhase e)) s

/-- Entry into holdover: the frequency is formed and the entry phases latched. -/
def enterHoldover (s : State) : State := showHold (formHold (latchEntry s))

/-! ### States of the loop (R262) -/

/-- ADV_QUALITY of a state. -/
def qualityOf (st : Nat) : Nat :=
  match st with
  | 0 => 4
  | 1 => 1
  | 2 => 0
  | 3 => 1
  | 4 => 2
  | 5 => 2
  | _ => 3

/-- Set STATE with ADV_QUALITY; HO_TIME reads 0 outside state 4; a second of y that was in progress is over, and state 2 starts from the y that
it finds (R265). -/
def setLoopState (st : Nat) (s : State) : State :=
  let s1 := (s.setFld F.LOOP_STATUS_STATE st).setFld F.LOOP_STATUS_ADV_QUALITY (qualityOf st)
  let s2 := s1.raiseIf (decide (s.fld F.LOOP_STATUS_ADV_QUALITY ≠ qualityOf st)) F.LOOP_INT_STATUS_QUALITY_CHANGE
  let s3 := (s2.updLoop fun l => { l with ySum := 0, ySamples := 0, y2 := if st = 2 then loopY s else l.y2 }).setReg Reg.LOOP_HO_TIME
    (BitVec.ofNat 32 (if st = 4 then s.loop.hoT else 0))
  if loopState s = st then s3 else xchkBreak s3

/-- Set SELECTED and TARGET; a change of either sets REF_SWITCH. A selected reference is remembered by kind. -/
def setSelected (sel target : Nat) (s : State) : State :=
  let s1 := (s.setFld F.LOOP_STATUS_SELECTED sel).setFld F.LOOP_STATUS_TARGET target
  let s2 := s1.raiseIf (decide (s.fld F.LOOP_STATUS_SELECTED ≠ sel ∨ (target ≠ 31 ∧ s.fld F.LOOP_STATUS_TARGET ≠ target)))
    F.LOOP_INT_STATUS_REF_SWITCH
  let s3 := if s.fld F.LOOP_STATUS_SELECTED = sel then s2 else xchkBreak s2
  if sel = 31 then s3
  else s3.updLoop fun l => if isTimeRef sel then { l with lastTime := some sel } else { l with lastFreq := some sel }

/-- To state 3 towards a reference, with r as given; from a state that held y, the filter starts from that y. -/
def toSwitching (i : Nat) (r : Int) (s : State) : State :=
  let s1 := s.updLoop fun l =>
    { l with r := r, integ := if 4 ≤ loopState s then loopY s * (2 ^ 48 : Nat) else l.integ }
  (setSelected i i (setLoopState 3 s1)).raiseIf (decide (r = 0)) F.LOOP_INT_STATUS_SLEW_DONE

/-- To state 3 towards a reference with r = e. -/
def slewTo (i : Nat) (s : State) : State := toSwitching i (refError s i * 10000000) s

/-- To state 1 on a reference, the build-out set so that e = 0. -/
def toAcquire (i : Nat) (s : State) : State :=
  let s1 := (setBuildOut i s).updLoop fun l =>
    { l with r := 0, integ := if loopState s = 0 then loopY s * (2 ^ 48 : Nat) else l.integ }
  setSelected i 31 (setLoopState 1 s1)

/-- To state 4 with a fresh estimate. -/
def toHoldover (s : State) : State :=
  let st := loopState s
  let s1 := enterHoldover s
  let s2 := setSelected 31 31 (setLoopState 4 (s1.updLoop fun l => { l with r := 0 }))
  (setY (holdY 0 s2) s2).raiseIf (decide (st = 2 ∨ st = 3)) F.LOOP_INT_STATUS_HOLDOVER_ENTER

/-- To state 0: the disciplined clock is as accurate as XO_IN (R241). -/
def toFreeRun (s : State) : State := setY 0 (setSelected 31 31 (setLoopState 0 (s.updLoop fun l => { l with r := 0 })))

/-- The test of R267 of a selection in state 4: to state 3 or to state 5. -/
def testReturn (i : Nat) (s : State) : State :=
  let e := refError s i
  let d := e - signed 32 (s.reg (Reg.LOOP_REF_ENTRY_PHASE i)).toNat * 16
  if d.natAbs * 1000 ≤ (s.reg Reg.LOOP_PHASE_ACCEPT).toNat * 2 ^ 20 then
    (slewTo i s).raise F.LOOP_INT_STATUS_HOLDOVER_EXIT
  else
    ((setLoopState 5 s).setFld F.LOOP_STATUS_DISPUTE_REF i).setReg (Reg.LOOP_REF_PHASE i) (showPhase e) |>.raise
      F.LOOP_INT_STATUS_REF_PHASE_DISPUTE

/-! ### Selection (R259 to R261) -/

/-- MODE in force: a shadow that follows is forced to reference 21 (R502). -/
def loopMode (s : State) : Nat × Nat :=
  if s.fld F.TWIN_LIVE_ROLE = 1 ∧ s.flag F.TWIN_CTRL_FOLLOW then (1, 21)
  else (s.fld F.LOOP_CTRL_MODE, s.fld F.LOOP_CTRL_FORCE_REF)

/-- The candidates. -/
def candidates (s : State) : List Nat :=
  match loopMode s with
  | (2, _) => []
  | (1, f) => (upto 23).filter fun i => decide (i = f ∧ refState s i = 3)
  | _ => (upto 23).filter fun i => decide (refState s i = 3 ∧ s.fld (F.LOOP_REF_CFG_RANK i) ≠ 0)

/-- Two references agree in frequency. -/
def refsAgree (s : State) (i j : Nat) : Bool :=
  let d := signed 32 (s.reg (Reg.LOOP_REF_FREQ i)).toNat - signed 32 (s.reg (Reg.LOOP_REF_FREQ j)).toNat
  decide (d.natAbs ≤ s.fld F.LOOP_FREQ_DISAGREE_DISAGREE * 256)

/-- The selection under R260, and whether a disagreement is left open (`some true`) or has ended (`some false`). -/
def bestOf (cur : Option Nat) (s : State) : Option Nat × Option Bool :=
  let cands := candidates s
  let rank := fun i => s.fld (F.LOOP_REF_CFG_RANK i)
  let best := cands.foldl (fun b i => min b (rank i)) 16
  let tops := cands.filter fun i => decide (rank i = best)
  if tops.all (fun i => tops.all fun j => refsAgree s i j) then
    (match cur with
      | some c => if tops.contains c then some c else tops.head?
      | none => tops.head?, some false)
  else
    let qual := (upto 23).filter fun j => decide (refState s j = 3)
    let score := fun i => (qual.filter fun j => decide (j ≠ i) && refsAgree s i j).length
    let top := (tops.map score).foldl max 0
    match tops.filter fun i => decide (score i = top) with
    | [i] => (some i, none)
    | _ => (cur, some true)

/-- SEL: with REVERTIVE 0 the current reference stays while it is a candidate (R261). One that is none any more is no selection to keep. -/
def evalSel (s : State) : Option Nat × Option Bool :=
  let cur := s.loop.sel.filter (candidates s).contains
  let (sel, dis) := bestOf cur s
  if ¬s.flag F.LOOP_CTRL_REVERTIVE ∧ cur.isSome then (cur, dis) else (sel, dis)

/-- SEL is what it is now; a change sets REF_SWITCH (R262). -/
def noteSel (sel : Option Nat) (s : State) : State :=
  (s.updLoop fun l => { l with sel := sel }).raiseIf (decide (s.loop.sel ≠ sel)) F.LOOP_INT_STATUS_REF_SWITCH

/-- The state table of R262 for a selection. -/
def moveLoop (sel : Option Nat) (s : State) : State :=
  let cur := s.fld F.LOOP_STATUS_SELECTED
  match loopState s, sel with
  | 0, some i => toAcquire i s
  | 1, some i => if i = cur then s else toAcquire i s
  | 1, none => if s.flag F.LOOP_STATUS_HO_READY ∨ (loopMode s).1 = 2 then toHoldover s else toFreeRun s
  | 2, some i => if i = cur then s else slewTo i s
  | 2, none => toHoldover s
  | 3, some i => if i = cur then s else slewTo i s
  | 3, none => toHoldover s
  | 4, some i => testReturn i s
  | 5, some i =>
    let d := s.fld F.LOOP_STATUS_DISPUTE_REF
    if refState s d ≠ 3 ∨ s.fld (F.LOOP_REF_CFG_RANK i) < s.fld (F.LOOP_REF_CFG_RANK d) then
      testReturn i ((setLoopState 4 s).setFld F.LOOP_STATUS_DISPUTE_REF 31)
    else s
  | 5, none =>
    if refState s (s.fld F.LOOP_STATUS_DISPUTE_REF) ≠ 3 then (setLoopState 4 s).setFld F.LOOP_STATUS_DISPUTE_REF 31 else s
  | _, _ => s

/-- A re-evaluation of the selection. -/
def selectionEval (s : State) : State :=
  if 6 ≤ loopState s then s
  else
    let (sel, dis) := evalSel s
    let s1 := match dis with
      | some b => (s.setFlag F.LOOP_STATUS_DISPUTE b).raiseIf b F.LOOP_INT_STATUS_REF_DISPUTE
      | none => s
    moveLoop sel (noteSel sel s1)

/-! ### Writes of the reference registers -/

/-- What a write of `LOOP_REF_CFG` sets off (R257): a change of EN or SLOT returns the reference to ABSENT, or to DISABLED. -/
def actRefCfg (i : Nat) (old _raw : Word) (s : State) : State :=
  let new := s.reg (Reg.LOOP_REF_CFG i)
  if ¬bit new 0 then
    if bit old 0 then
      ((setRefState i 0 s).setFld (F.LOOP_REF_STATUS_CAUSE i) 6).setFld (F.LOOP_REF_STATUS_QUAL_LEFT_S i) 0
    else s
  else if ¬bit old 0 ∨ bits old 6 10 ≠ bits new 6 10 then
    refAbsent i 6 (s.setFlag (F.LOOP_REF_STATUS_PRESENT i) (presentNow i s))
  else s

/-- What a write of `LOOP_REF_FREQ_HZ` sets off (R255, R257): multiples of 1,000 from 1 MHz to 400 MHz; it reads 0 for i ≥ 4. -/
def actRefFreqHz (i : Nat) (old raw : Word) (s : State) : State :=
  let hz := bits raw 0 29
  if 4 ≤ i then s.setReg (Reg.LOOP_REF_FREQ_HZ i) 0
  else if hz % 1000 ≠ 0 ∨ hz < 1000000 ∨ 400000000 < hz then
    (s.setReg (Reg.LOOP_REF_FREQ_HZ i) old).raise F.LOOP_INT_STATUS_CFG_REJECT
  else
    let s1 := (s.updRef i fun r => { r with windows := 0 }).setFlag (F.LOOP_REF_STATUS_PRESENT i) false
    if s.flag (F.LOOP_REF_CFG_EN i) then refAbsent i 6 s1 else s1

/-- What a write of `LOOP_REF_DELAY` sets off (R258): the predictions shift by as much. -/
def actRefDelay (i : Nat) (old _raw : Word) (s : State) : State :=
  let d := refDelay s i - signed 32 old.toNat * 16
  s.updRef i fun r => { r with raws := r.raws.map (· + d) }

/-- What a write of `LOOP_REF_CMD` sets off (R257, R279). -/
def actRefCmd (i : Nat) (_old raw : Word) (s : State) : State :=
  let s1 := if bit raw 0 ∧ refState s i ≠ 0 then
      ((setRefState i 4 s).setFld (F.LOOP_REF_STATUS_CAUSE i) 4).setFld (F.LOOP_REF_STATUS_QUAL_LEFT_S i) 0
    else s
  if bit raw 1 ∧ refState s1 i = 4 then refAbsent i (s1.fld (F.LOOP_REF_STATUS_CAUSE i)) s1 else s1

/-- What a write of `LOOP_HO_CTRL` sets off. -/
def actHoCtrl (_old _raw : Word) (s : State) : State := showHoReady s

/-! ### Dispute and adjustment commands (R268, R269) -/

def cmdRefused (s : State) : State := s.raise F.LOOP_INT_STATUS_CMD_REFUSED

/-- Leave state 5 for state 3 towards the disputed reference. -/
def leaveDispute (r : Int) (s : State) : State :=
  let i := s.fld F.LOOP_STATUS_DISPUTE_REF
  (toSwitching i r s).setFld F.LOOP_STATUS_DISPUTE_REF 31

def disputeSlope (s : State) : State :=
  if loopState s ≠ 5 then cmdRefused s
  else leaveDispute (refError s (s.fld F.LOOP_STATUS_DISPUTE_REF) * 10000000) s

/-- A time reference's step goes through the time-base command path, which rejects a negative result (R168), and state 3 follows at its
apply edge. -/
def disputeStep (s : State) : State :=
  if loopState s ≠ 5 ∨ s.tb.pend.isSome then cmdRefused s
  else
    let i := s.fld F.LOOP_STATUS_DISPUTE_REF
    if isTimeRef i then
      if tbFormat s = 0 then s.raise F.TBASE_INT_STATUS_NOT_RUNNING
      else if (s.tb.value : Int) + refError s i * (2 ^ 28 : Nat) < 0 then s.raise F.TBASE_INT_STATUS_CMD_REJECT
      else tbPending (mkPend none (some (TbOp.step (refError s i * (2 ^ 28 : Nat)))) none false true s) s
    else leaveDispute 0 (addBuildOut i (refError s i) s)

def disputeReject (s : State) : State :=
  if loopState s ≠ 5 then cmdRefused s
  else
    let i := s.fld F.LOOP_STATUS_DISPUTE_REF
    let s1 := ((setRefState i 4 s).setFld (F.LOOP_REF_STATUS_CAUSE i) 5).setFld (F.LOOP_REF_STATUS_QUAL_LEFT_S i) 0
    selectionEval ((setLoopState 4 s1).setFld F.LOOP_STATUS_DISPUTE_REF 31)

/-- The move runs at the slope limit, and ends at once where r comes to 0 (R269). -/
def adjGo (s : State) : State :=
  if loopState s ≠ 2 ∧ loopState s ≠ 3 then cmdRefused s
  else
    let a := signed 32 (s.reg Reg.LOOP_PHASE_ADJ).toNat * 16
    let r := s.loop.r + a * 10000000
    ((addBuildOut (s.fld F.LOOP_STATUS_SELECTED) (-a) s).updLoop fun l => { l with r := r }).raiseIf (decide (r = 0))
      F.LOOP_INT_STATUS_SLEW_DONE

def clrHistory (s : State) : State := showHoReady (s.updLoop fun l => { l with hist := [], ySum := 0, ySamples := 0 })

/-! ### Clock outputs (R271 to R274) -/

/-- An output stops at its first falling edge at or after VCO cycle `x`. -/
def clkStop (x : Nat) (o : ClkoutSt) : ClkoutSt := { o with running := false, fell := if o.running then clkFall o x else o.fell }

/-- What a write of `LOOP_CLKOUT_CTRL` sets off (R273): a rise of EN, a REALIGN, or a fall of EN. -/
def actClkoutCtrl (k : Nat) (old raw : Word) (s : State) : State :=
  if bit raw 0 ∧ (¬bit old 0 ∨ bit raw 2) then
    s.updClkout k fun o => { clkStop (16 * s.clk.tclk) o with on := true, waiting := true, accept := s.clk.tclk }
  else if bit old 0 ∧ ¬bit raw 0 then s.updClkout k fun o => { clkStop (16 * (s.clk.tclk + 8)) o with on := false, waiting := false }
  else s

/-- DIV and PHASE in ps as an alignment takes them up, or those in force where they are refused (R272). -/
def clkoutRefused (s : State) (k : Nat) : Bool :=
  decide (s.fld (F.LOOP_CLKOUT_DIV_DIV k) < 8 ∨ 80 * s.fld (F.LOOP_CLKOUT_DIV_DIV k) ≤ (s.reg (Reg.LOOP_CLKOUT_PHASE k)).toNat)
def clkoutShape (s : State) (k : Nat) : Nat × Nat :=
  if clkoutRefused s k then ((s.clkout k).div, (s.clkout k).phase)
  else (s.fld (F.LOOP_CLKOUT_DIV_DIV k), (s.reg (Reg.LOOP_CLKOUT_PHASE k)).toNat)

/-- How many VCO cycles from now the alignment edge of output k lies (R272): the cycle nearest the first instant with t − PHASE a multiple of
the period, 1,024 TCLK after acceptance and half a period after the last falling edge at the soonest. A time base that does not run
stands at an instant where PHASE is 0, and else comes to none. -/
def clkoutPlace (k : Nat) (s : State) : Option Nat :=
  let o := s.clkout k
  let (div, ph) := clkoutShape s k
  -- in half VCO cycles, 32 in one TCLK
  let first := max (32 * (o.accept + 1024)) (2 * o.fell + div) - 32 * s.clk.tclk
  if s.flag F.TBASE_LIVE_RUNNING then
    let v : Int := ((32 * s.tb.value + first * incCur s : Nat) : Int) * 1000
    let inst := v + ((ph * nsUnit * 32 : Nat) - v) % ((80 * div * nsUnit * 32 : Nat) : Int)
    some (Int.fdiv (inst - ((32 * s.tb.value * 1000 : Nat) : Int) + 1000 * incCur s) (2000 * incCur s)).toNat
  else if ph = 0 then some ((first + 1) / 2) else none

/-- A declared loss of lock squelches an output that does not follow the keeper (R274). -/
def clkoutsSquelch (s : State) : State :=
  forUpto 4 (fun k s =>
    let x := 16 * s.clk.tclk
    if s.flag (F.LOOP_CLKOUT_CTRL_ON_UNLOCK k) ∧ (s.clkout k).div % 16 = 0 then s
    else s.updClkout k fun o =>
      { clkStop (if clkLevel o x then x else x + 1 - o.div) o with waiting := false }) s

/-! ### LOCK_A (R275) -/

/-- n of R275. -/
def lockDensity (s : State) : Nat :=
  if ¬s.pwr.mainUp then 0
  else match loopState s with
    | 0 => 2
    | 1 => 6
    | 2 =>
      let i := s.fld F.LOOP_STATUS_SELECTED
      let es := (s.ref i).errs
      let full := s.fld F.LOOP_LOCK_A_FULL_PS
      -- |ē| in ps as a ratio num / den, and FULL − min(|ē|, FULL) over FULL
      let num := es.sum.natAbs * 1000
      let den := 2 ^ 20 * max 1 es.length
      8 + divRound (7 * (full * den - num)) (full * den)
    | 3 => 6
    | 4 => 4
    | 5 => 4
    | _ => 0

/-- What a write of `LOOP_LOCK_A` sets off. -/
def actLockA (_old raw : Word) (s : State) : State :=
  if bit raw 0 then s else s.updLoop fun l => { l with lockA := 0 }

/-! ### Commands -/

/-- How a count of VCO ÷ 16 edges in 2 µs lies against the expected 1,562.5 × (1 + y), in units of 2^−49 of an edge (R243). -/
def bandMiss (s : State) (count : Nat) : Int := (count : Int) * (2 ^ 49 : Nat) - 3125 * ((2 ^ 48 : Nat) + loopY s)

/-- The binary steps of a band search: each keeps the half that holds the target, a higher band being a faster one (log 15). -/
def bandSteps (s : State) (step band : Nat) : List Nat → Nat
  | [] => band
  | c :: cs => bandSteps s (step / 2) (if bandMiss s c ≤ 0 then band + step else band) cs

/-- The band that a search keeps (R243): six steps from trial band 32, then the nearer of the chosen band and its neighbour towards the
target, both counted again. -/
def bandKept (s : State) (counts : List Nat) : Nat :=
  let b := bandSteps s 32 0 (counts.take 6)
  let again := bandMiss s (nth 0 counts 6)
  let near := bandMiss s (nth 0 counts 7)
  let next := if again < 0 then b + 1 else b - 1
  if again ≠ 0 ∧ next ≤ 63 ∧ near.natAbs < again.natAbs then next else b

/-- R243: the search ends with a lock. -/
def execMpllLock (counts : List Nat) (vtune : BitVec 8) (s : State) : Host.Outcome State Fault Refusal :=
  whenMain s fun s =>
    if ¬s.flag F.LOOP_MPLL_STATUS_SEARCHING ∨ ¬s.pwr.xoIn ∨ counts.length ≠ 8 then s
    else
      let s1 := ((s.setFlag F.LOOP_MPLL_STATUS_SEARCHING false).setFlag F.LOOP_MPLL_STATUS_LOCKED true).setFld
        F.LOOP_MPLL_STATUS_BAND (bandKept s counts) |>.setFld F.LOOP_MPLL_STATUS_VTUNE vtune.toNat
      let s2 := s1.updLoop fun l => { l with fails := 0, guard := s.fld F.LOOP_MPLL_CTRL_GUARD_US }
      (s2.raise F.LOOP_INT_STATUS_MPLL_LOCK).raiseIf (decide (vtune.toNat < 26 ∨ 229 < vtune.toNat))
        F.LOOP_INT_STATUS_BAND_MARGIN

/-- R252, R258. A delivered reference time is taken once. -/
def execRefSample (i : Fin 23) (x : Int) (s : State) : Host.Outcome State Fault Refusal :=
  whenMain s fun s =>
    match refInput i x s with
    | some v => refSample i v (s.updRef i fun r => { r with given := none })
    | none => if 4 ≤ i.val ∧ i.val < 20 then s.updRef i fun r => { r with skipped := true } else s

/-- R256: the presence that R256 gives, where the event states it too. -/
def execRefPresenceChange (i : Fin 23) (present : Bool) (s : State) : Host.Outcome State Fault Refusal :=
  whenMain s fun s => if presentNow i s = present then refPresence i s else s

/-- R256: a 10 µs window, judged against FREQ_HZ within ±(1% + 1). -/
def execRefinWindowEnd (k : Fin 4) (edges : Nat) (s : State) : Host.Outcome State Fault Refusal :=
  whenMain s fun s =>
    let hz := refHz s k
    let ok := decide ((((edges * 100000 : Nat) : Int) - (hz : Int)).natAbs * 100 ≤ hz + 10000000)
    refPresence k (s.updRef k fun r => { r with windows := if ok then min 16 (r.windows + 1) else 0 })

/-- Whether the frequency window of a port reference had no sample but such as STALE kept from it (R317). -/
def windowSkipped (s : State) (i : Nat) : Bool :=
  decide (4 ≤ i ∧ i < 20 ∧ (s.ref i).taken = 0) && ((s.ref i).skipped || (s.slot (s.fld (F.LOOP_REF_CFG_SLOT i))).stale)

/-- R257: a 1 s window of LOOP_REF_FREQ, judged against the tolerance; one whose samples were all skipped counts for nothing (R317). -/
def execRefFreqWindowEnd (i : Fin 23) (freq : Int) (s : State) : Host.Outcome State Fault Refusal :=
  whenMain s fun s =>
    if ¬s.flag (F.LOOP_REF_CFG_EN i) ∨ ¬s.flag (F.LOOP_REF_STATUS_PRESENT i) then s
    else if windowSkipped s i then s.updRef i fun r => { r with skipped := false }
    else
      let y := clampInt (-(2 ^ 31 : Nat)) ((2 ^ 31 - 1 : Nat) : Int) freq
      let s1 := (s.updRef i fun r => { r with taken := 0, skipped := false }).setReg (Reg.LOOP_REF_FREQ i)
        (BitVec.ofNat 32 (toBits 32 y))
      let tol := s.fld (F.LOOP_REF_TOL_TOL i)
      let lim := if 4 ≤ i.val ∧ i.val < 20 then min tol 6000 else tol
      if lim * 65536 < freq.natAbs then refRequalify i 2 s1
      else if refState s i = 2 then
        s1.setFld (F.LOOP_REF_STATUS_QUAL_LEFT_S i) (s.fld (F.LOOP_REF_STATUS_QUAL_LEFT_S i) - 1)
      else s1

/-- R257: the qualification timer has expired: every second of it was a window within tolerance. -/
def execRefQualified (i : Fin 23) (s : State) : Host.Outcome State Fault Refusal :=
  whenMain s fun s =>
    if refState s i = 2 ∧ s.fld (F.LOOP_REF_STATUS_QUAL_LEFT_S i) = 0 then setRefState i 3 s else s

/-- A write of `LOOP_REF_CFG` or of `LOOP_REF_FREQ_HZ`. -/
def execRefCfgWrite (ag : Agent) (i : Fin 23) (which : Fin 2) (d : Word) (s : State) :
    Host.Outcome State Fault Refusal :=
  whenMain s (match which with
    | 0 => regWrite ag (Reg.LOOP_REF_CFG i) Rd.LOOP_REF_CFG (actRefCfg i) allBits d
    | 1 => regWrite ag (Reg.LOOP_REF_FREQ_HZ i) Rd.LOOP_REF_FREQ_HZ (actRefFreqHz i) allBits d)

def execSelectionEval (s : State) : Host.Outcome State Fault Refusal := whenMain s selectionEval

/-- R262: |e| ≤ 1 ns for 1 s in state 1, or in state 3 with r = 0. -/
def execLocked (s : State) : Host.Outcome State Fault Refusal :=
  whenMain s fun s =>
    let i := s.fld F.LOOP_STATUS_SELECTED
    if (loopState s = 1 ∨ (loopState s = 3 ∧ s.loop.r = 0)) ∧ refState s i = 3 ∧ (refError s i).natAbs ≤ 2 ^ 20 then
      (setSelected i 31 (setLoopState 2 s)).raise F.LOOP_INT_STATUS_LOCKED
    else s

/-- R265: the mean y of the second joins the history, in state 2. -/
def execHoHistoryAppend (s : State) : Host.Outcome State Fault Refusal :=
  whenMain s fun s =>
    if loopState s ≠ 2 then s
    else
      let y := if s.loop.ySamples = 0 then loopY s * (2 ^ 48 : Nat)
        else Int.fdiv (s.loop.ySum * (2 ^ 48 : Nat)) (s.loop.ySamples : Int)
      showHoReady (s.updLoop fun l => { l with hist := (y :: l.hist).take 16384, ySum := 0, ySamples := 0 })

/-- R265: a second in holdover. -/
def execHoldoverTick (s : State) : Host.Outcome State Fault Refusal :=
  whenMain s fun s =>
    if loopState s ≠ 4 ∧ loopState s ≠ 5 then s
    else
      let s1 := s.updLoop fun l => { l with hoT := l.hoT + 1 }
      showHold (setY (holdY s1.loop.hoT s1) s1)

def execDisqualify (ag : Agent) (i : Fin 23) (d : Word) (s : State) : Host.Outcome State Fault Refusal :=
  whenMain s (regWrite ag (Reg.LOOP_REF_CMD i) Rd.LOOP_REF_CMD (actRefCmd i) allBits (d ||| 1))
def execRestore (ag : Agent) (i : Fin 23) (d : Word) (s : State) : Host.Outcome State Fault Refusal :=
  whenMain s (regWrite ag (Reg.LOOP_REF_CMD i) Rd.LOOP_REF_CMD (actRefCmd i) allBits (d ||| 2))
def execClkoutEnable (ag : Agent) (k : Fin 4) (d : Word) (s : State) : Host.Outcome State Fault Refusal :=
  whenMain s (regWrite ag (Reg.LOOP_CLKOUT_CTRL k) Rd.LOOP_CLKOUT_CTRL (actClkoutCtrl k) allBits (d ||| 1))
def execClkoutDisable (ag : Agent) (k : Fin 4) (d : Word) (s : State) : Host.Outcome State Fault Refusal :=
  whenMain s (regWrite ag (Reg.LOOP_CLKOUT_CTRL k) Rd.LOOP_CLKOUT_CTRL (actClkoutCtrl k) allBits (d &&& ~~~1))
def execClkoutRealign (ag : Agent) (k : Fin 4) (d : Word) (s : State) : Host.Outcome State Fault Refusal :=
  whenMain s (regWrite ag (Reg.LOOP_CLKOUT_CTRL k) Rd.LOOP_CLKOUT_CTRL (actClkoutCtrl k) allBits (d ||| 4))

/-- R275: every 100 µs, also while the main domain is in reset. -/
def execLockAUpdate (s : State) : Host.Outcome State Fault Refusal :=
  .next (
    let n := lockDensity s
    (s.setFld F.LOOP_LOCK_A_DENSITY n).updLoop fun l => { l with lockA := if s.flag F.LOOP_LOCK_A_EN then n else 0 })

def execLockAEnWrite (ag : Agent) (d : Word) (s : State) : Host.Outcome State Fault Refusal :=
  whenMain s (regWrite ag Reg.LOOP_LOCK_A Rd.LOOP_LOCK_A actLockA allBits d)

end Sys2Proof.Machine
end

