-- ==== Sys2Proof/Machine/Prf.lean ====
section
/-!
DEFINITION. Sys2Proof/Machine/Prf.lean: proofing runs (08_proofing_calibration.md, R307 to R325), with the parts of link phase metrology
that depend on them or on the fault supervisor: what a cell spends a slot on (R206, R207, R210), code-density runs as commands
(R223), and the end of a check window (R211 to R215).
-/
namespace Sys2Proof.Machine

def State.updPrf (s : State) (f : PrfSt → PrfSt) : State := { s with prf := f s.prf }

/-! ### Holding cells -/

/-- Set or clear the proof bit of a cell, with its STATE. -/
def setProof (c : Nat) (b : Bool) (s : State) : State := showCell c (s.setRbit Reg.MET_CELL_PROOF c b)

/-- Take a cell out of service, sources included. -/
def cellTakenOut (c : Nat) (s : State) : State := withHolds (takeOut c) s

/-! ### The run -/

/-- Bit `c` of a cell mask. -/
def hasCell (m : BitVec 32) (c : Nat) : Bool := m.toNat.testBit c
def cellBit (c : Nat) : BitVec 32 := BitVec.ofNat 32 (2 ^ c)

/-- Show STATE, PENDING and CAUSE of `PRF_LIVE`. -/
def showPrf (s : State) : State :=
  let p := s.prf
  let st := if p.mode ≠ 0 then p.mode else if p.pend then 1 else 0
  let cause := if p.mode ≠ 0 then p.causeRun else if p.pend then p.causePend else p.causeLast
  ((s.setFld F.PRF_LIVE_STATE st).setFlag F.PRF_LIVE_PENDING p.pend).setFld F.PRF_LIVE_CAUSE cause

/-- The conditions of R311. -/
def prfBlocked (s : State) : Bool :=
  decide (s.prf.mode ≠ 0) || !s.flag F.PRF_CTRL_EN || decide (6 ≤ loopState s) || s.flag F.PWR_LIVE_EVT_FLAG ||
    decide (s.reg Reg.MET_CD_BUSY ≠ 0)

/-- The entries of a pair in the schedule in use, as used or not. -/
def pairEntries (s : State) (p : Nat) : List Bool :=
  ((upto s.met.sched.1).filter fun e => decide (e % 16 = p)).map fun e => entryUsed s (nth 0 s.met.sched.2 e)
def pairIdle (s : State) (p : Nat) : Bool := (pairEntries s p).all (! ·)
def pairFull (s : State) (p : Nat) : Bool := (pairEntries s p).all id

/-- A cell's code-density run starts in the run. -/
def prfStartCell (c : Nat) (s : State) : State :=
  (cdStart c s).updPrf fun p => { p with run := p.run ||| cellBit c }

/-- Both cells of a pair start, held for proofing if `hold`. -/
def prfStartPair (hold : Bool) (p : Nat) (s : State) : State :=
  let s1 := if hold then
      withHolds (fun s => setProof (p + 16) true (setProof p true s))
        (s.updPrf fun q => { q with proofs := q.proofs ||| cellBit p ||| cellBit (p + 16) })
    else s
  prfStartCell (p + 16) (prfStartCell p s1)

/-- A pair is finished. -/
def pairDone (s : State) : State := s.setFld F.PRF_LIVE_PAIRS_DONE (s.fld F.PRF_LIVE_PAIRS_DONE + 1)

/-- Start a pair, or skip cells 15 and 31 while the external channel is enabled (R319). -/
def prfReachPair (hold : Bool) (p : Nat) (s : State) : State × Bool :=
  if p = 15 ∧ s.flag F.MET_EXT_CTRL_EN then
    (pairDone ((s.setRbit Reg.PRF_SKIP_MASK 15 true).setRbit Reg.PRF_SKIP_MASK 31 true), false)
  else (prfStartPair hold p s, true)

/-- Hold further pairs, at most HOLD_PAIRS at once (R314). -/
def prfHoldNext : List Nat → State → State
  | [], s => s.updPrf fun p => { p with todo := [] }
  | p :: ps, s =>
    if s.prf.held.length < s.prf.hold then
      let (s1, on) := prfReachPair true p s
      prfHoldNext ps (if on then s1.updPrf fun q => { q with held := q.held ++ [p] } else s1)
    else s.updPrf fun q => { q with todo := p :: ps }

/-- A run completes (R321). -/
def prfComplete (s : State) : State :=
  let ms := (s.clk.tclk - s.prf.start) / 781250
  let s1 := (s.setReg Reg.PRF_LAST_MS (BitVec.ofNat 32 ms)).setRegs (Reg.PRF_LAST_DONE 0) (recordNow s)
  let s2 := (s1.bump32 Reg.PRF_RUN_COUNT 1 (some F.PRF_INT_STATUS_CNT_OVF)).raise F.PRF_INT_STATUS_RUN_DONE
  showPrf ((s2.setFlag F.PRF_LIVE_LAST_OK (decide (s.prf.failed = 0))).updPrf fun p =>
    { p with mode := 0, causeLast := p.causeRun })

/-- The run goes on: to the pairs that are to be held once the first cells have finished, to its end once all have. -/
def prfAdvance (s : State) : State :=
  if s.prf.mode = 0 then s
  else
    let s1 := if s.prf.first ∧ s.prf.run = 0 then s.updPrf fun p => { p with first := false } else s
    let s2 := if s1.prf.first then s1 else prfHoldNext s1.prf.todo s1
    if s2.prf.run = 0 ∧ s2.prf.held.isEmpty ∧ s2.prf.todo.isEmpty then prfComplete s2 else s2

/-- The mode of a run that starts now (R312). -/
def prfMode (s : State) : Nat :=
  match s.fld F.PRF_CTRL_FORCE_MODE with
  | 1 => 2
  | 2 => 3
  | _ => if s.fld F.MET_BANK_STATUS_LOAD ≤ 192 then 2 else 3

/-- A run starts (R310, R312 to R314, R319, R321, R323). -/
def prfStart (s : State) : State :=
  let trace := s.flag F.PRF_CTRL_TRACE
  let mode := if trace then 2 else prfMode s
  let now := s.fld F.PRF_TEMP_NOW
  let first := (upto 16).filter fun p => trace || (if mode = 2 then !pairFull s p else pairIdle s p)
  let rest := (upto 16).filter fun p => !first.contains p
  let s1 := ((s.setReg Reg.PRF_DONE_MASK 0).setReg Reg.PRF_REJECT_MASK 0).setReg Reg.PRF_SKIP_MASK 0
  let s2 := ((s1.setFld F.PRF_TEMP_REF now).setFlag F.PRF_TEMP_REF_VALID true).setFld F.PRF_LIVE_PAIRS_DONE 0
  let s3 := (s2.raise F.PRF_INT_STATUS_RUN_START).updPrf fun p =>
    { p with mode := mode, trace := trace, hold := s.fld F.PRF_CTRL_HOLD_PAIRS, retry := s.fld F.PRF_CTRL_RETRY, first := true,
             todo := rest, held := [], run := 0, proofs := 0, failed := 0, tries := List.replicate 32 0, start := s.clk.tclk,
             pend := false, causeRun := p.causePend, causePend := 0 }
  let s4 := first.foldl (fun s p => (prfReachPair (decide (mode = 3)) p s).1) s3
  showPrf (prfAdvance s4)

/-- A trigger starts a run or makes one pending (R311). -/
def prfTrigger (cause : Nat) (s : State) : State :=
  let s1 := s.updPrf fun p => { p with pend := true, causePend := p.causePend ||| 2 ^ cause }
  if prfBlocked s then showPrf s1 else prfStart s1

/-- A cell's run has ended in the proofing run: its pair may be finished, and released (R314). -/
def prfCellEnd (c : Nat) (s : State) : State :=
  let p := c % 16
  let s1 := s.updPrf fun q => { q with run := q.run &&& ~~~cellBit c }
  if hasCell s1.prf.run (partner c) then s1
  else
    let s2 := pairDone s1
    let s3 := if hasCell s2.prf.proofs p then
        withHolds (fun s => setProof (p + 16) false (setProof p false s))
          (s2.updPrf fun q => { q with proofs := q.proofs &&& ~~~(cellBit p ||| cellBit (p + 16)), held := q.held.erase p })
      else s2
    prfAdvance s3

/-- A code-density run of the proofing run is accepted, retried, or given up (R318). -/
def prfCellDone (c : Nat) (s : State) : State :=
  if s.flag (F.MET_CELL_STATUS_CD_ACCEPT c) then prfCellEnd c (s.setRbit Reg.PRF_DONE_MASK c true)
  else
    let s1 := (s.setRbit Reg.PRF_REJECT_MASK c true).raise F.PRF_INT_STATUS_CELL_REJECT
    let n := nth 0 s.prf.tries c
    if n < s.prf.retry then prfStartCell c (s1.updPrf fun p => { p with tries := setNth p.tries c (n + 1) })
    else
      let s2 := (cellTakenOut c s1).raise F.PRF_INT_STATUS_CELL_FAIL
      prfCellEnd c (faultLog 13 0x10 c 0 (s2.updPrf fun p => { p with failed := p.failed ||| cellBit c }))

/-- A run is abandoned (R320). -/
def prfAbandon (s : State) : State :=
  if s.prf.mode = 0 then s
  else
    let s1 := forUpto 32 (fun c t => if hasCell s.prf.run c then cdAbandon c t else t) s
    let s2 := withHolds (forUpto 32 fun c t => if hasCell s.prf.proofs c then setProof c false t else t) s1
    let s3 := (s2.bump32 Reg.PRF_ABANDON_COUNT 1 (some F.PRF_INT_STATUS_CNT_OVF)).raise F.PRF_INT_STATUS_RUN_ABANDON
    showPrf (s3.updPrf fun p =>
      { p with mode := 0, run := 0, proofs := 0, todo := [], held := [], causeLast := p.causeRun })

/-- What a write of `PRF_CMD` sets off: ABORT, CLR_PENDING, START in this order (R311). -/
def actPrfCmd (_old raw : Word) (s : State) : State :=
  let s1 := if bit raw 1 then prfAbandon s else s
  let s2 := if bit raw 2 then showPrf (s1.updPrf fun p => { p with pend := false, causePend := 0 }) else s1
  if bit raw 0 then prfTrigger 1 s2 else s2

/-! ### Metrology commands that a proofing run shares -/

/-- A software write is ignored while a run is in progress or waiting (R308). -/
def hostConflict (s : State) : Bool := decide (s.fld F.PRF_LIVE_STATE ≠ 0)

/-- What a write of `MET_CELL_PROOF` sets off. -/
def actCellProof (old _raw : Word) (s : State) : State :=
  if hostConflict s then (s.setReg Reg.MET_CELL_PROOF old).raise F.PRF_INT_STATUS_HOST_CONFLICT
  else withHolds (fun t => forUpto 32 showCell (t.setReg Reg.MET_CELL_PROOF (s.reg Reg.MET_CELL_PROOF)))
    (s.setReg Reg.MET_CELL_PROOF old)

/-- What a write of `MET_CD_START` sets off (R223). -/
def actCdStart (_old raw : Word) (s : State) : State :=
  if hostConflict s then s.raise F.PRF_INT_STATUS_HOST_CONFLICT
  else forUpto 32 (fun c s => if bit raw c then cdStart c s else s) s

/-! ### What a cell spends its slots on (R206, R207, R210, R216, R223, R323) -/

/-- A slot goes to a source, which may be a hit of a signal-statistics run too; to the pilot; to a random edge; or to the external channel. -/
inductive SlotUse where
  | source (i : Nat) (hit : Bool)
  | pilot
  | random
  | ext
deriving DecidableEq, Repr

/-- The entry that a cell's present slot serves: slot 32n + c, counted on from the round in which the schedule came into use. -/
def slotEntry (s : State) (c : Nat) : Word := nth 0 s.met.sched.2 ((32 * (s.cell c).cycle + c - s.met.origin) % s.met.sched.1)

/-- Whether a cell takes part in a signal-statistics run with the conversions of its own sources: not one that is out, or whose pair is
idle (R323). -/
def traced (s : State) (c : Nat) : Bool :=
  decide (s.prf.mode ≠ 0) && s.prf.trace && hasCell s.prf.run c && !cellOut s c && !pairIdle s (c % 16)

/-- What a cell spends its present slot on. From ARM on the channel's cells take no pilot, also while it waits for TMEAS_GATE (DESIGN CHOICE,
log 11). -/
def slotUse (s : State) (c : Nat) : SlotUse :=
  if s.rbit Reg.MET_CELL_PROOF c then .random
  else if s.met.ext.own ∧ c % 16 = 15 ∧ s.met.ext.phase ≠ .idle then .ext
  else if (s.cell c).cycle % 1024 = 1023 then .pilot
  else if entryUsed s (slotEntry s c) ∧ ¬cellOut s c ∧ ¬(s.met.ext.own ∧ c % 16 = 15) then
    .source (bits (slotEntry s c) 0 10) (traced s c)
  else if cdBusy s c ∧ ¬traced s c then .random
  else .pilot

/-- A cell's cycle ends with what it converted; no code is an arming window without an edge. -/
def metResult (c : Nat) (code : Option (BitVec 12)) (coarse : Nat) (s : State) : State :=
  (match slotUse s c with
    | .source i hit => sourceConversion i c code coarse hit s
    | .pilot => pilotConversion c code s
    | .random => randomConversion c code s
    | .ext => s).updCell c fun x => { x with cycle := x.cycle + 1 }

/-! ### The end of a check window (R211 to R215) -/

/-- Whether a source's sums of a pair's two cells differ by more than the limit; none where either holds fewer than 8, or is not in service
(R216). -/
def windowFails (s : State) (p : Nat) (w : List (Nat × Nat × Int)) : Option Bool :=
  match w.find? (fun x => x.1 == p), w.find? (fun x => x.1 == p + 16) with
  | some (_, n0, s0), some (_, n1, s1) =>
    if 8 ≤ n0 ∧ 8 ≤ n1 ∧ ¬cellAway s p ∧ ¬cellAway s (p + 16) then
      some (decide (s.fld F.MET_XCHK_CTRL_LIMIT_PS * 4096 * n0 * n1 < (s0 * n1 - s1 * n0).natAbs * 10))
    else none
  | _, _ => none

/-- The comparisons of a pair over all source slots: whether any failed. -/
def pairFailsNow (s : State) (p : Nat) : Bool :=
  s.met.slots.any fun x => (windowFails s p x.2.win).getD false

/-- A cell's mean pilot phase in 2^−20 of a fine unit, where it holds at least 3 pilot results in service. -/
def pilotMean (s : State) (c : Nat) : Option Int :=
  let x := s.cell c
  if 3 ≤ x.pilotN ∧ (cellState s c = 0 ∨ cellState s c = 3) then some (Int.fdiv (x.pilotSum * (2 ^ 20 : Nat)) (x.pilotN : Int))
  else none

/-- A list of integers in rising order. -/
def insertInt (x : Int) : List Int → List Int
  | [] => [x]
  | y :: ys => if x ≤ y then x :: y :: ys else y :: insertInt x ys
def sortInts (xs : List Int) : List Int := xs.foldr insertInt []

/-- The median; of an even number the mean of the middle two (log 11). -/
def median (xs : List Int) : Int :=
  let ys := sortInts xs
  let n := ys.length
  if n % 2 = 1 then nth 0 ys (n / 2) else Int.fdiv (nth 0 ys (n / 2 - 1) + nth 0 ys (n / 2)) 2

/-- Whether a cell fails the pilot in this window. -/
def pilotFailsNow (s : State) (med : Int) (c : Nat) : Bool :=
  match pilotMean s c with
  | some m => decide (s.fld F.MET_XCHK_CTRL_PILOT_LIMIT_PS * 4096 * 2 ^ 20 < (m - med).natAbs * 10)
  | none => false

/-- A declared pair (R214). -/
def declarePair (p : Nat) (f0 f1 : Bool) (s : State) : State :=
  let s1 := ((s.setFld F.MET_XCHK_STATUS_PAIR p).raise F.MET_INT_STATUS_XCHK_FAIL).updMet fun m =>
    { m with pairFails := setNth m.pairFails p 0 }
  if f0 ≠ f1 then
    let c := if f0 then p else p + 16
    faultLog 12 0x10 c 0 ((cellTakenOut c s1).updCell c fun x => { x with pilotFails := 0 })
  else
    faultLog 12 0x10 p 0
      ((s1.updMet fun m => { m with suspect := m.suspect ||| BitVec.ofNat 16 (2 ^ p) }).raise F.MET_INT_STATUS_UNRESOLVED)

/-- A cell is declared for the pilot alone (R214). -/
def declareCell (c : Nat) (s : State) : State :=
  faultLog 12 0x10 c 0 (((cellTakenOut c s).updCell c fun x => { x with pilotFails := 0 }).raise F.MET_INT_STATUS_PILOT_FAIL)

/-- `MET_CELL_PILOT` shows each cell's mean pilot phase of the window that ends; after one without a pilot result it stays (DESIGN CHOICE,
log 11). -/
def showPilots (s : State) : State :=
  forUpto 32 (fun c t =>
    let x := s.cell c
    if x.pilotN = 0 then t
    else t.setReg (Reg.MET_CELL_PILOT c) (BitVec.ofNat 32 (divRound (x.pilotSum.toNat * 64) (25 * x.pilotN) % 2 ^ 31))) s

/-- What the comparisons of a window declare under the SUB of cell `c`: the pair whose fault has this SUB, or a cell that fails the pilot on its
own; `bad` are the cells that fail the pilot in this window, and `fails` how often in a row each pair has failed (R214, R553). -/
def declareSub (count : Nat) (bad : List Bool) (fails : List Nat) (c : Nat) (t : State) : State :=
  let p := c % 16
  let f0 := nth false bad p
  let f1 := nth false bad (p + 16)
  if count ≤ nth 0 fails p then
    if c = (if f1 ∧ ¬f0 then p + 16 else p) then declarePair p f0 f1 t else t
  else if count ≤ (t.cell c).pilotFails ∧ ¬cellOut t c then declareCell c t
  else t

/-- The comparisons of a window that ends; what they declare goes to the fault supervisor in the order of SUB (R553). -/
def checkWindow (s : State) : State :=
  let med := median ((upto 32).filterMap (pilotMean s))
  let bad := (upto 32).map (pilotFailsNow s med)
  let s1 := forUpto 32 (fun c t => t.updCell c fun y => { y with pilotFails := if nth false bad c then y.pilotFails + 1 else 0 }) s
  let s2 := s1.updMet fun m => { m with
    pairFails := (m.pairFails.zip (upto 16)).map fun x => if pairFailsNow s x.2 then x.1 + 1 else 0 }
  forUpto 32 (declareSub (s.fld F.MET_XCHK_CTRL_COUNT) bad s2.met.pairFails) s2

/-! ### Commands -/

/-- R211 to R215; a window in which TCLK changed over is not compared (R213). -/
def execCheckWindowEnd (s : State) : Host.Outcome State Fault Refusal :=
  whenMain s fun s =>
    let s1 := showPilots s
    let s2 := if s.met.switched then s1 else checkWindow s1
    (clearPilots (clearWindows s2)).updMet fun m => { m with switched := false }

def execCdStart (ag : Agent) (d : Word) (s : State) : Host.Outcome State Fault Refusal :=
  whenMain s (regWrite ag Reg.MET_CD_START Rd.MET_CD_START actCdStart allBits d)

/-- R223 to R225: a run that holds 2^22 hits ends. -/
def execCdDone (c : Fin 32) (s : State) : Host.Outcome State Fault Refusal :=
  whenMain s fun s =>
    if cdBusy s c ∧ 4194304 ≤ (s.cell c).hits then
      let s1 := cdFinish c s
      if hasCell s.prf.run c then prfCellDone c s1 else s1
    else s

/-- R310: the mean of the four sensors, and the temperature trigger. -/
def execPrfTempUpdate (now : Int) (s : State) : Host.Outcome State Fault Refusal :=
  whenMain s fun s =>
    let s1 := s.setFld F.PRF_TEMP_NOW (toBits 12 now)
    let d := now - signed 12 (s.fld F.PRF_TEMP_REF)
    if s.flag F.PRF_CTRL_TEMP_EN ∧ s.flag F.PRF_TEMP_REF_VALID ∧ s.fld F.PRF_TRIG_DELTA_T < d.natAbs then prfTrigger 0 s1
    else s1

def execPrfStart (ag : Agent) (d : Word) (s : State) : Host.Outcome State Fault Refusal :=
  whenMain s (regWrite ag Reg.PRF_CMD Rd.PRF_CMD actPrfCmd allBits (d ||| 1))
def execPrfAbort (ag : Agent) (d : Word) (s : State) : Host.Outcome State Fault Refusal :=
  whenMain s (regWrite ag Reg.PRF_CMD Rd.PRF_CMD actPrfCmd allBits (d ||| 2))
def execClrPending (ag : Agent) (d : Word) (s : State) : Host.Outcome State Fault Refusal :=
  whenMain s (regWrite ag Reg.PRF_CMD Rd.PRF_CMD actPrfCmd allBits (d ||| 4))

/-- R309: MAX_INTERVAL_S has passed. -/
def execPrfInterval (s : State) : Host.Outcome State Fault Refusal :=
  whenMain s fun s => if s.fld F.PRF_TRIG_MAX_INTERVAL_S = 0 then s else prfTrigger 4 s

/-- R311, R312: a pending run starts once nothing blocks it. -/
def execRunStart (s : State) : Host.Outcome State Fault Refusal :=
  whenMain s fun s => if s.prf.pend ∧ ¬prfBlocked s then prfStart s else s

def execMetResult (c : Fin 32) (code : Option (BitVec 12)) (coarse : Nat) (s : State) : Host.Outcome State Fault Refusal :=
  whenMain s (metResult c code coarse)

end Sys2Proof.Machine
end

