-- ==== Sys2Proof/Machine/Flt.lean ====
section
/-!
DEFINITION. Sys2Proof/Machine/Flt.lean: errors in memories and registers (16_fault_coverage_and_exact_latencies.md, R544 to R550).
The counting and logging is in Machine/Faults.lean, the watchdogs are in Machine/Boot.lean.
-/
namespace Sys2Proof.Machine

/-- The SUB of a memory (R547): 0 Hearth SRAM, 1 descriptors, 2 links, 3 free list, 4 ownership map, 5 scheduler, 6 mailboxes,
7 bin tables, 0x20 + n the forwarding tables of pipeline n, and 0x40 + n its staging set, which is logged as 0x20 + n. -/
def memSub (m : Nat) : Nat := if 0x40 ≤ m then m - 0x20 else m

/-- The block where a memory lies, and whether there is such a memory. -/
def memBlock (m : Nat) : Option Nat :=
  match m with
  | 0 => some 0x06
  | 1 => some 0x0B
  | 2 => some 0x0B
  | 3 => some 0x0B
  | 4 => some 0x0B
  | 5 => some 0x0C
  | 6 => some 0x04
  | 7 => some 0x10
  | n => if (0x20 ≤ n ∧ n < 0x38) ∨ (0x40 ≤ n ∧ n < 0x58) then some 0x0A else none

/-- The slices that a frame can no longer reach: all without its descriptor, which holds the first and the last (R398); where the link of a
slice is lost, those after it but the last. -/
def unreached (link : Option Nat) (l : List Nat) : List Nat :=
  match link with
  | none => l
  | some x => ((l.dropWhile (· != x)).drop 1).dropLast

/-- A frame whose descriptor, or the link of one of its slices, is lost: dropped, or stomped where its head has left; the slices that it
can no longer reach are left to the auditor. -/
def frameLost (id : Nat) (link : Option Nat) (s : State) : State :=
  match s.frame? id with
  | some f =>
    let s1 := s.setFrame id { f with beyond := unreached link f.slices }
    if f.phase = .handed then s1.updFrame id fun f => { f with bad := f.bad.or (some .egress) } else foundBad id .egress s1
  | none => s

/-- A frame that is looked up with a lost word is dropped: it leaves the rewrite stage as a dropped one (R468). -/
def lookupSpoiled (id : Nat) (s : State) : State :=
  match s.frame? id with
  | some f =>
    if f.phase ≠ .looked then s
    else
      let l := smapGet noSlots s.tlm.slots f.pipe
      let s1 := if l.contains true then
          s.updTlm fun t => { t with slots := smapSet noSlots t.slots f.pipe (false :: l.reverse.erase true).reverse }
        else s
      let s2 := match f.tag with
        | some r => s1.setIfld 8 (tagWord r 14) 17 3 1
        | none => s1
      tagClose f 3 (frameDone id (s2.setFrame id { f with trap := none, drop := true }))
  | none => s

/-- A slice that a free-list entry named leaks. -/
def freeEntryLost (n : Nat) (s : State) : State :=
  if sliceFree s n ∧ s.fld F.BUF_FREE_FREE ≠ 0 then 
    setFree (s.fld F.BUF_FREE_FREE - 1) ((s.updBank (n % 128) fun r => r.without n).setLost n (some 0))
  else s

/-- The slices of an ownership word count as seen in this pass. -/
def ownWordSeen (n : Nat) (s : State) : State :=
  let hit := (lostWith s 1 ++ lostWith s 2).filter fun k => decide (n ≤ k ∧ k < n + Config.ownWordSlices)
  auditShow (hit.foldl (fun s k => s.setLost k (some 0)) s)

/-- LEVEL and DEFICIT of the shaper or queue that a domain 0x07 word belongs to. -/
def schedWordLost (w : Nat) (s : State) : State :=
  if w < 0xC000 then setDeficit (w / 8) 0 (setLevel (w / 8) 0 s)
  else if w < 0xCC00 then setLevel (6144 + (w - 0xC000) / 8) 0 s
  else s

/-- What the part does on a double-bit error (R547): a core that met it in its SRAM takes a bus-error exception. A forwarding word is
rewritten from the next pipeline's copy, so the tables hold what they held (log 23). -/
def doubleBit (m addr : Nat) (who : EccBy) (s : State) : State :=
  match m with
  | 0 => match who with
    | .core c => s.updBoot fun b => { b with busErr := b.busErr ||| BitVec.ofNat 4 (2 ^ c.val) }
    | _ => s
  | 1 => frameLost addr none s
  | 2 => match s.frames.find? fun x => x.2.slices.contains addr with
    | some (id, _) => frameLost id (some addr) s
    | none => s
  | 3 => freeEntryLost addr s
  | 4 => ownWordSeen addr s
  | 5 => schedWordLost addr s
  | 7 => if addr / 0x4000 < 32 ∧ ¬cellOut s (addr / 0x4000) then declareCell (addr / 0x4000) s else s
  | n =>
    if 0x40 ≤ n then
      match entryOf addr with
      | some (b, _) => if (stagedEntry s b).isSome then s.updNet fun t => { t with eccBad := (n - 0x40, b) :: t.eccBad } else s
      | none => s
    else match who with
      | .lookup id => if 0x20 ≤ n ∧ (s.frame? id).any (fun f => f.pipe + 0x20 == n) then lookupSpoiled id s else s
      | _ => s

/-- A word is read: by the scrubber, which SCRUB_EN starts and stops, or by an access (R545 to R547). -/
def scrub (m addr : Nat) (err : EccErr) (who : EccBy) (s : State) : State :=
  match memBlock m with
  | none => s
  | some blk =>
    if ¬s.flag F.FLT_CTRL_ECC_EN ∨ (who = .scrubber ∧ ¬s.flag F.FLT_CTRL_SCRUB_EN) then s
    else
      match err with
      | .none => s
      | .single => faultLog 1 blk (memSub m) addr s
      | .double => faultLog 2 blk (memSub m) addr (doubleBit m addr who s)

/-- What the failing flops of the time base now hold, which is not corrected (R550). -/
def tbFaulty (x : TbFlops) (s : State) : State :=
  match x with
  | .value v => s.updTb fun t => { t with value := v % tbWrap (tbFormat s) }
  | .active i => s.setReg64 Reg.TBASE_INC_CUR_LO Reg.TBASE_INC_CUR_HI i.toNat
  | .staged i => s.setReg64 Reg.TBASE_INC_LO Reg.TBASE_INC_HI i.toNat
  | .epoch e => s.setFld F.TBASE_LIVE_EPOCH e.toNat
  | .outage b => s.setFlag F.TBASE_LIVE_OUTAGE b
  | .pending inc amount arm => s.updTb fun t => { t with pend := t.pend.map fun p => { p with
      inc := p.inc.map fun _ => inc.toNat
      op := p.op.map fun o => match o with
        | .step _ => .step amount
        | .load _ => .load (amount.toNat % tbWrap (tbFormat s))
      arm := p.arm.map fun _ => arm } }
  | .offset k v => showOffset k.val (s.updOut k.val fun o => { o with offset := v })

/-- A parity error in bit `i` of the register at word address `a` (R549). -/
def parityError (a i : Nat) (s : State) : State :=
  match regDef? a with
  | none => s
  | some (d, _) =>
    let copied := bit (d.rwl ||| d.wo) i
    if ¬copied ∧ ¬bit d.rw i then s
    else
      let s1 := if copied then s else s.setRbit a i (!s.rbit a i)
      faultLog 3 ((blockOfPage (a / 1024)).getD 0) (if copied then 1 else 0) a (s1.raise ⟨pageStatus (a / 1024), 1, 1⟩)

def execScrubRead (m addr : Nat) (err : EccErr) (who : EccBy) (s : State) : Host.Outcome State Fault Refusal :=
  whenMain s (scrub m addr err who)
/-- R550: counted in class 4; what the flops now hold is carried on. -/
def execTbaseParity (x : TbFlops) (s : State) : Host.Outcome State Fault Refusal :=
  whenMain s fun s => faultOpen 4 0x0F none (tbFaulty x s)

end Sys2Proof.Machine
end

