-- ==== Sys2Proof/Machine/Mbox.lean ====
section
/-!
DEFINITION. Sys2Proof/Machine/Mbox.lean: the mailboxes (02_register_pages_and_host_channels.md, R98 to R108). Queue d of channel c has
the number 2c + d; its page carries the causes of two channels.
-/
namespace Sys2Proof.Machine

def mboxReset (_ : Nat) : MboxSt := {}
def State.mbox (s : State) (q : Nat) : MboxSt := smapGet mboxReset s.hst.mbox q
def State.updMbox (s : State) (q : Nat) (f : MboxSt → MboxSt) : State :=
  { s with hst := { s.hst with mbox := smapSet mboxReset s.hst.mbox q (f (s.mbox q)) } }

/-- The sender identity and the mask bit of an agent (R99). -/
def senderId : Agent → Nat
  | .pf0 => 1
  | .pf1 => 2
  | .test => 3
  | .hearth c => 0x10 + c
def maskBit : Agent → Nat
  | .pf0 => 0
  | .pf1 => 1
  | .test => 2
  | .hearth c => 4 + c

/-- Who may send on a queue, and who may take from it (R100). -/
def maySend (s : State) (ag : Agent) (q : Nat) : Bool := s.rbit (Reg.MBOX_Q_MASK q) (maskBit ag)
def mayReceive (ag : Agent) (q : Nat) : Bool := decide ((hearthCore ag).isSome ↔ q % 2 = 0)

/-- The causes of a queue's page (R105). -/
def mboxArrived (q : Nat) : Fld := ⟨Reg.MBOX_INT_STATUS (q / 4), 2 * (q % 4), 1⟩
def mboxEmptied (q : Nat) : Fld := ⟨Reg.MBOX_INT_STATUS (q / 4), 2 * (q % 4) + 1, 1⟩
def mboxDenied (q : Nat) (s : State) : State := s.raise (F.MBOX_INT_STATUS_SENDER_DENIED (q / 4))
def mboxConflict (q : Nat) (s : State) : State := s.raise (F.MBOX_INT_STATUS_CLAIM_CONFLICT (q / 4))

/-- Whether another agent has claimed the queue (R101). -/
def claimedByOther (s : State) (ag : Agent) (q : Nat) : Bool :=
  match (s.mbox q).owner with
  | some o => decide (o ≠ senderId ag)
  | none => false

/-- The refusals of a sender's access, each on its own ground: no mask bit (R100), a queue that another agent has claimed (R101). -/
def mboxRefusals (ag : Agent) (q : Nat) (s : State) : State :=
  let s1 := if maySend s ag q then s else mboxDenied q s
  if claimedByOther s ag q then mboxConflict q s1 else s1

/-- A write of `MBOX_Q_WR` (R101, R102). -/
def mboxWr (ag : Agent) (q : Nat) (d : Word) (s : State) : State :=
  let m := s.mbox q
  let s1 := mboxRefusals ag q s
  if m.posted then s1.raise (F.MBOX_INT_STATUS_WRITE_WHILE_POSTED (q / 4))
  else if ¬maySend s ag q ∨ claimedByOther s ag q then s1
  else if 16 ≤ m.words.length then s1.raise (F.MBOX_INT_STATUS_Q_OVERFLOW (q / 4))
  else
    let w := if m.words = [] then putBits d 24 8 (senderId ag) else d
    s1.updMbox q fun m => { m with words := m.words ++ [w], owner := some (senderId ag) }

def noPosts (_ : Nat) : Nat := 0

/-- POST (R101). -/
def mboxPost (ag : Agent) (q : Nat) (s : State) : State :=
  let m := s.mbox q
  if claimedByOther s ag q then mboxConflict q s
  else if m.words = [] ∨ m.posted then s
  else
    let s1 := s.updMbox q fun m => { m with posted := true, seq := m.seq + 1, arriving := m.arriving + 1 }
    { s1 with hst := { s1.hst with posts := smapSet noPosts s1.hst.posts q (smapGet noPosts s1.hst.posts q + 1) } }

/-- ABORT (R101). -/
def mboxAbort (ag : Agent) (q : Nat) (s : State) : State :=
  if claimedByOther s ag q then mboxConflict q s
  else if (s.mbox q).posted then s
  else s.updMbox q fun m => { m with words := [], owner := none }

/-- The queue has been emptied by its receiver (R103). -/
def mboxEmpty (q : Nat) (s : State) : State :=
  s.updMbox q fun m => { m with words := [], posted := false, owner := none, emptying := m.emptying + 1 }

/-- DISCARD (R103, R108): Hearth's also releases a claim on queue 0 that is not posted. -/
def mboxDiscard (q : Nat) (s : State) : State :=
  if (s.mbox q).posted then mboxEmpty q s
  else if q % 2 = 0 then s.updMbox q fun m => { m with words := [], owner := none }
  else s

/-- A write of `MBOX_Q_CMD`: the lowest command bit that its writer is entitled to (R107). -/
def mboxCmd (ag : Agent) (q : Nat) (raw : Word) (s : State) : State :=
  if bit raw 0 ∧ maySend s ag q then mboxPost ag q s
  else if bit raw 1 ∧ mayReceive ag q then mboxDiscard q s
  else if bit raw 2 ∧ maySend s ag q then mboxAbort ag q s
  else if bits raw 0 3 = 0 then s
  else if bits raw 0 3 = 2 then mboxDenied q s
  else mboxRefusals ag q s

/-- The word that a read of `MBOX_Q_RD` returns: the head of a posted queue. -/
def mboxHead (s : State) (q : Nat) : Word := if (s.mbox q).posted then (s.mbox q).words.headD 0 else 0

/-- Its effect (R103). -/
def mboxTake (ag : Agent) (q : Nat) (s : State) : State :=
  if ¬mayReceive ag q then mboxDenied q s
  else if ¬(s.mbox q).posted then s
  else if (s.mbox q).words.length ≤ 1 then mboxEmpty q s
  else s.updMbox q fun m => { m with words := m.words.drop 1 }

/-- What identifies the head of a queue: the POSTs so far and the words left; a queue that is not posted has no word (R82). -/
def mboxMark (s : State) (q : Nat) : Nat × Nat :=
  (smapGet noPosts s.hst.posts q, if (s.mbox q).posted then (s.mbox q).words.length else 0)

/-- `MBOX_Q_STATE`. -/
def mboxState (s : State) (q : Nat) : Word :=
  let m := s.mbox q
  BitVec.ofNat 32 (m.words.length + flagAt m.posted 8 + flagAt m.owner.isSome 9 + m.owner.getD 0 * 2 ^ 16 + m.seq.toNat * 2 ^ 24)

/-- The bits of `MBOX_INT_STATUS` that a read by an agent clears (R106). -/
def mboxSide (ag : Agent) : Word := if (hearthCore ag).isSome then 0xF99#32 else 0xF66#32

/-- ARRIVED and EMPTIED, 8 HCLK after their cause (R104). -/
def mboxArrive (q : Nat) (s : State) : State :=
  if (s.mbox q).arriving = 0 then s else (s.updMbox q fun m => { m with arriving := m.arriving - 1 }).raise (mboxArrived q)
def mboxEmptyShown (q : Nat) (s : State) : State :=
  if (s.mbox q).emptying = 0 then s else (s.updMbox q fun m => { m with emptying := m.emptying - 1 }).raise (mboxEmptied q)

/-! ### Commands -/

def execMboxArrived (c : Fin 8) (d : Fin 2) (s : State) : Host.Outcome State Fault Refusal :=
  whenMain s (mboxArrive (2 * c + d))
def execMboxEmptied (c : Fin 8) (d : Fin 2) (s : State) : Host.Outcome State Fault Refusal :=
  whenMain s (mboxEmptyShown (2 * c + d))

end Sys2Proof.Machine
end

