-- ==== Sys2Proof/Machine/Irq.lean ====
section
/-!
DEFINITION. Sys2Proof/Machine/Irq.lean: the interrupt tree, INT_N, the Hearth interrupt lines and MSI-X
(02_register_pages_and_host_channels.md, R68, R92 to R96, R106; R552).
-/
namespace Sys2Proof.Machine

/-! ### Sources (R68, R92, R93, R106) -/

/-- A page asserts its interrupt by its header bits. -/
def headerAsserts (s : State) (p : Nat) : Bool := s.rbit (1024 * p + 2) 31 && decide (bits (s.reg (1024 * p + 3)) 0 2 ≠ 0)

/-- The causes of a page that are enabled. -/
def pageCauses (s : State) (p : Nat) : Word := s.reg (1024 * p + 4) &&& s.reg (1024 * p + 5)

/-- A page asserts its interrupt (R68). -/
def pageAsserts (s : State) (p : Nat) : Bool := headerAsserts s p || decide (pageCauses s p ≠ 0)

/-- The pages that assert: each has a bit in its STATUS or INT_STATUS. -/
def pendingPages (s : State) : List Nat :=
  ((s.regs.filter fun e => decide (e.1 % 1024 = 3 ∨ e.1 % 1024 = 4)).map fun e => e.1 / 1024).filter (pageAsserts s)

/-- Any page of a block asserts (R92). -/
def blockAsserts (s : State) (code : Nat) : Bool := (pendingPages s).any fun p => decide (blockOfPage p = some code)

/-- The block's source for its route: of the MBOX pages only their header and the causes in [11:8]. -/
def blockSource (s : State) (code : Nat) : Bool :=
  if code = 4 then (upto 4).any fun n => headerAsserts s (4 + n) || decide (pageCauses s (4 + n) &&& 0xF00#32 ≠ 0)
  else blockAsserts s code

/-- The host-side and Hearth-side causes of a mailbox channel: EMPTIED of queue 0 and ARRIVED of queue 1, and the other two. -/
def hostSide (s : State) (c : Nat) : Bool := decide ((pageCauses s (4 + c / 2)).toNat / 16 ^ (c % 2) % 16 &&& 6 ≠ 0)
def hearthSide (s : State) (c : Nat) : Bool := decide ((pageCauses s (4 + c / 2)).toNat / 16 ^ (c % 2) % 16 &&& 9 ≠ 0)

/-- A route's DEST where it is enabled. -/
def routeDest (s : State) (a : Nat) : Option Nat := if s.rbit a 16 then some (bits (s.reg a) 8 2) else none

/-- Whether any enabled route that meets a test has its source asserted. -/
def anyRoute (s : State) (p : Nat → Bool) : Bool :=
  ((upto 22).any fun i => p (Reg.IRQ_ROUTE i) && blockSource s (i + 1)) ||
    ((upto 8).any fun c => p (Reg.IRQ_MBOX_ROUTE c) && hostSide s c)

/-- INT_N is low (R94, R552). -/
def intLow (s : State) : Bool :=
  anyRoute s (fun a => decide (routeDest s a = some 2)) || (decide (s.fld F.FLT_LIVE_HUNG ≠ 0) && s.flag F.FLT_WDOG_INT_N_EN)

/-- The lines of the Hearth interrupt controller (R94). -/
def hearthIrq (s : State) : Word :=
  let block (i : Nat) : Bool := decide (routeDest s (Reg.IRQ_ROUTE i) = some 3) && blockSource s (i + 1)
  let chan (c : Nat) : Bool := (decide (routeDest s (Reg.IRQ_MBOX_ROUTE c) = some 3) && hostSide s c) || hearthSide s c
  BitVec.ofNat 32 (((upto 22).map fun i => flagAt (block i) i).sum + ((upto 8).map fun c => flagAt (chan c) (24 + c)).sum)

/-- Vector v of function f is asserted (R95). -/
def vecAsserted (s : State) (f v : Nat) : Bool :=
  anyRoute s fun a => decide (routeDest s a = some f ∧ bits (s.reg a) 0 6 = v)

/-! ### MSI-X (R95) -/

def msixReset (_ : Nat) : MsixSt := {}
def State.msix (s : State) (f : Nat) : MsixSt := smapGet msixReset s.hst.msix f
def State.updMsix (s : State) (f : Nat) (g : MsixSt → MsixSt) : State :=
  { s with hst := { s.hst with msix := smapSet msixReset s.hst.msix f (g (s.msix f)) } }

/-- A bit of a vector set. -/
def vbit (v : Nat) : BitVec 64 := BitVec.ofNat 64 (2 ^ v)

/-- The function sends messages. -/
def msixOn (s : State) (f : Nat) : Bool := (s.msix f).enable && (s.msix f).busMaster

/-- The message of a vector: its table entry's address and data. -/
def msixSend (f v : Nat) (s : State) : State :=
  s.updMsix f fun m => { m with pba := m.pba &&& ~~~vbit v, sent := m.sent + 1,
                                lastMsg := some (v, (upto 3).map fun k => smapGet (fun _ => (0 : Word)) m.table (4 * v + k)) }

/-- Whether a vector, or its function, is masked. -/
def vecMasked (s : State) (f v : Nat) : Bool := (s.msix f).fnMask || (s.msix f).masked.toNat.testBit v

/-- A message is due: it is sent, or the vector waits in the PBA. -/
def msixDue (f v : Nat) (s : State) : State :=
  if vecMasked s f v then s.updMsix f fun m => { m with pba := m.pba ||| vbit v } else msixSend f v s

/-- Vectors that have deasserted leave the asserted set and the PBA. -/
def settleIrq (s : State) : State :=
  forUpto 2 (fun f s =>
    let m := s.msix f
    if m.asserted = 0 then s
    else
      let now := BitVec.ofNat 64 (((upto 64).map fun v => flagAt (m.asserted.toNat.testBit v && vecAsserted s f v) v).sum)
      s.updMsix f fun m => { m with asserted := now, pba := m.pba &&& now }) s

/-- A vector goes from not asserted to asserted. -/
def vecRise (f v : Nat) (s : State) : State :=
  if msixOn s f ∧ vecAsserted s f v ∧ ¬(s.msix f).asserted.toNat.testBit v then
    msixDue f v (s.updMsix f fun m => { m with asserted := m.asserted ||| vbit v })
  else s

/-- MSI-X Enable and Bus Master Enable are both 1: what is asserted is newly asserted. -/
def msixStart (f : Nat) (s : State) : State :=
  forUpto 64 (vecRise f) (s.updMsix f fun m => { m with asserted := 0, pba := 0 })

/-- The pending vectors that are no longer masked send their messages, while they are still asserted. -/
def sendPending (f : Nat) (s : State) : State :=
  if msixOn s f then
    forUpto 64 (fun v s => if (s.msix f).pba.toNat.testBit v ∧ ¬vecMasked s f v then msixSend f v s else s) (settleIrq s)
  else s

/-- What a write of `IRQ_EOI` sets off (R95, R96). -/
def actIrqEoi (_old raw : Word) (s : State) : State :=
  let f := bits raw 8 1
  let v := bits raw 0 6
  if bit raw 31 ∧ msixOn s f ∧ (s.msix f).asserted.toNat.testBit v ∧ vecAsserted s f v then msixDue f v s else s

/-! ### Commands -/

def execInterruptLineUpdate (s : State) : Host.Outcome State Fault Refusal :=
  whenMain s fun s => { s with hst := { s.hst with intN := !intLow s, hearthLines := hearthIrq s } }
def execMsixMessage (f : Fin 2) (v : Fin 64) (s : State) : Host.Outcome State Fault Refusal :=
  whenMain s fun s => vecRise f v (settleIrq s)
def execMsixUnmask (f : Fin 2) (v : Option (Fin 64)) (s : State) : Host.Outcome State Fault Refusal :=
  whenMain s fun s => sendPending f (s.updMsix f fun m =>
    match v with
    | some k => { m with masked := m.masked &&& ~~~vbit k }
    | none => { m with fnMask := false })
def execMsixMask (f : Fin 2) (w : MsixWhat) (s : State) : Host.Outcome State Fault Refusal :=
  whenMain s fun s => s.updMsix f fun m =>
    match w with
    | .vector v => { m with masked := m.masked ||| vbit v }
    | .function => { m with fnMask := true }
    | .enable => { m with enable := false }
    | .busMaster => { m with busMaster := false }
/-- RESTART (R534): the causes of the mailbox pages clear with them, and their vectors deassert. -/
def execRestart (ag : Agent) (d : Word) (s : State) : Host.Outcome State Fault Refusal :=
  whenMain s fun s => settleIrq (regWrite ag Reg.HRTH_BOOT_CMD Rd.HRTH_BOOT_CMD (actBootCmd ag) allBits (d ||| 2) s)
def execIrqEoi (ag : Agent) (d : Word) (s : State) : Host.Outcome State Fault Refusal :=
  whenMain s fun s => regWrite ag Reg.IRQ_EOI Rd.IRQ_EOI actIrqEoi allBits d (settleIrq s)

end Sys2Proof.Machine
end

