-- ==== Sys2Proof/Machine/Keeper.lean ====
section
/-!
DEFINITION. Sys2Proof/Machine/Keeper.lean: the multiplying PLL, the keeper and XO_IN (06_loops_references_and_holdover.md, R243 to R248,
R585), with `LOOP_CMD`, whose MPLL_RELOCK forces the same sequence.
-/
namespace Sys2Proof.Machine

def State.updPwr (s : State) (f : PwrSt → PwrSt) : State := { s with pwr := f s.pwr }

/-- The lane reference changes over: TX_REF_CHANGE sets in every quad page and every auxiliary page (R118). -/
def laneRef (backup : Bool) (s : State) : State :=
  if s.flag F.LOOP_STATUS_LANE_BACKUP = backup then s
  else
    let s1 := forUpto 192 (fun q t => t.raise (F.DLN_INT_STATUS_TX_REF_CHANGE q)) (s.setFlag F.LOOP_STATUS_LANE_BACKUP backup)
    forUpto 32 (fun a t => t.raise (F.ALN_INT_STATUS_TX_REF_CHANGE a)) s1

/-- TCLK and the lane reference move to the keeper or back, where they are not there already (R246, R585). -/
def tclkTo (keeper : Bool) (s : State) : State :=
  let s1 := if s.flag F.LOOP_STATUS_TCLK_KEEPER = keeper then s
    else metInvalidate (s.setFlag F.LOOP_STATUS_TCLK_KEEPER keeper)
  laneRef keeper s1

/-- The loop leaves states 0 to 5 for state 6 or 7: holdover is entered where it had not been; nothing is selected; whether
a reference was selected before is kept (R246, R262, R266). In state 7 the PLLs hold their tuning (R247). -/
def loopCoast (st : Nat) (s : State) : State :=
  let old := loopState s
  let s1 := if old ≤ 3 then enterHoldover s else s
  let s2 := if old ≤ 5 then
      (noteSel none (setSelected 31 31 s1)).setFld F.LOOP_STATUS_DISPUTE_REF 31 |>.updLoop fun l =>
        { l with r := 0, hadSel := decide (1 ≤ old) }
    else s1
  let s3 := setLoopState st s2
  if st = 6 ∧ old ≤ 3 ∧ s.flag F.LOOP_STATUS_HO_READY then setY (holdY 0 s3) s3 else s3

/-- A band search starts (R243). -/
def mpllSearch (s : State) : State := (s.setFlag F.LOOP_MPLL_STATUS_LOCKED false).setFlag F.LOOP_MPLL_STATUS_SEARCHING true

/-- Searching stops for good (R244). -/
def mpllStop (s : State) : State :=
  faultLog 10 0x11 0 0 (((s.setFlag F.LOOP_MPLL_STATUS_SEARCHING false).setFlag F.LOOP_MPLL_STATUS_FAILED true).raise
    F.LOOP_INT_STATUS_MPLL_FAIL)

/-- A loss of lock is declared (R245, R246, R274, R320). -/
def mpllLol (s : State) : State :=
  let now := s.clk.tclk
  let lols := (now :: s.loop.lols).take 8
  let s1 := (s.bump32 Reg.LOOP_LOL_COUNT 1 (some F.LOOP_INT_STATUS_CNT_OVF)).raise F.LOOP_INT_STATUS_MPLL_LOL
  let s2 := clkoutsSquelch (tclkTo true (prfAbandon s1))
  let s3 := if loopState s ≤ 5 then loopCoast 6 s2 else s2
  let s4 := faultLog 9 0x11 0 0 ((mpllSearch s3).updLoop fun l => { l with lols := lols })
  if lols.length = 8 ∧ now < (lols.getLast?).getD now + 781250000 then mpllStop s4 else s4

/-- MPLL_RELOCK (R585). -/
def mpllRelock (s : State) : State :=
  if ¬s.pwr.xoIn then cmdRefused s
  else
    let s1 := tclkTo true (prfAbandon s)
    let s2 := if loopState s ≠ 7 then loopCoast 6 s1 else s1
    (mpllSearch s2).setFlag F.LOOP_MPLL_STATUS_FAILED false |>.updLoop fun l => { l with fails := 0 }

/-- What a write of `LOOP_CMD` sets off. -/
def actLoopCmd (_old raw : Word) (s : State) : State :=
  let s1 := if bit raw 0 then disputeSlope s else s
  let s2 := if bit raw 1 then disputeStep s1 else s1
  let s3 := if bit raw 2 then disputeReject s2 else s2
  let s4 := if bit raw 3 then adjGo s3 else s3
  let s5 := if bit raw 4 then mpllRelock s4 else s4
  if bit raw 5 then clrHistory s5 else s5

/-- A write of `LOOP_CMD`. -/
def loopCmdWrite (ag : Agent) (d : Word) (s : State) : Host.Outcome State Fault Refusal :=
  whenMain s (regWrite ag Reg.LOOP_CMD Rd.LOOP_CMD actLoopCmd allBits d)

/-! ### Commands -/

def execDisputeSlope (ag : Agent) (d : Word) (s : State) : Host.Outcome State Fault Refusal := loopCmdWrite ag (d ||| 1) s
def execDisputeStep (ag : Agent) (d : Word) (s : State) : Host.Outcome State Fault Refusal := loopCmdWrite ag (d ||| 2) s
def execDisputeReject (ag : Agent) (d : Word) (s : State) : Host.Outcome State Fault Refusal := loopCmdWrite ag (d ||| 4) s
def execAdjGo (ag : Agent) (d : Word) (s : State) : Host.Outcome State Fault Refusal := loopCmdWrite ag (d ||| 8) s
def execMpllRelock (ag : Agent) (d : Word) (s : State) : Host.Outcome State Fault Refusal := loopCmdWrite ag (d ||| 16) s
def execClrHistory (ag : Agent) (d : Word) (s : State) : Host.Outcome State Fault Refusal := loopCmdWrite ag (d ||| 32) s

/-- R244: a search that has not locked is repeated; after four in a row the PLL stops. -/
def execMpllSearchTimeout (s : State) : Host.Outcome State Fault Refusal :=
  whenMain s fun s =>
    if ¬s.flag F.LOOP_MPLL_STATUS_SEARCHING ∨ ¬s.pwr.xoIn then s
    else
      let s1 := s.updLoop fun l => { l with fails := l.fails + 1 }
      if 4 ≤ s.loop.fails + 1 then mpllStop s1 else s1

/-- R245: only a locked PLL with XO_IN present can be declared out of lock. -/
def execMpllLol (s : State) : Host.Outcome State Fault Refusal :=
  whenMain s fun s => if s.flag F.LOOP_MPLL_STATUS_LOCKED ∧ s.pwr.xoIn then mpllLol s else s

/-- R246, R262, R309: the hand-back. -/
def execHandback (s : State) : Host.Outcome State Fault Refusal :=
  whenMain s fun s =>
    if s.flag F.LOOP_MPLL_STATUS_LOCKED ∧ s.flag F.LOOP_STATUS_TCLK_KEEPER ∧ s.pwr.xoIn ∧ ¬s.loop.aligning then
      let s1 := (tclkTo false s).raise F.LOOP_INT_STATUS_HANDBACK
      let s2 := if loopState s < 6 then s1
        else if s.loop.hadSel ∨ s.flag F.LOOP_STATUS_HO_READY then setLoopState 4 s1
        else toFreeRun s1
      prfTrigger 2 (s2.updLoop fun l => { l with hadSel := false })
    else s

/-- XO_IN is lost (R247, R320); before the main domain has left reset, that halts the start and sets nothing (R524). -/
def xoLoss (s : State) : State :=
  let s1 := s.updPwr fun p => { p with xoIn := false }
  if s.pwr.xoIn ∧ s.pwr.mainUp then
    let s2 := loopCoast 7 ((prfAbandon s1).raise F.LOOP_INT_STATUS_XO_LOSS)
    faultLog 11 0x11 0 0 (s2.updLoop fun l => { l with aligning := false })
  else s1
def execXoLoss (s : State) : Host.Outcome State Fault Refusal := .next (xoLoss s)

/-- XO_IN is back after 1 ms of valid periods (R247). -/
def xoReturn (s : State) : State :=
  let s1 := s.updPwr fun p => { p with xoIn := true }
  if ¬s.pwr.xoIn ∧ s.pwr.mainUp then (s1.updLoop fun l => { l with aligning := true }).raise F.LOOP_INT_STATUS_XO_RETURN else s1
def execXoReturn (s : State) : Host.Outcome State Fault Refusal := .next (xoReturn s)

/-- R247: the relock sequence starts at edge L, with the holdover frequency where there is one (R246), unless the multiplying PLL was
stopped. -/
def execKeeperAlignDone (s : State) : Host.Outcome State Fault Refusal :=
  whenMain s fun s =>
    if s.loop.aligning then
      let s1 := s.updLoop fun l => { l with aligning := false }
      if s.flag F.LOOP_MPLL_STATUS_FAILED then s1
      else
        let s2 := if s.flag F.LOOP_STATUS_HO_READY then setY (holdY s.loop.hoT s1) s1 else s1
        mpllSearch (tclkTo true s2)
    else s

end Sys2Proof.Machine
end

