-- ==== Sys2Proof/Machine/Twin.lean ====
section
/-!
DEFINITION. Sys2Proof/Machine/Twin.lean: the Plahus links, the interlock and the roles, the state image, the cross-check, stacks and two-phase
steps (14_twin_pairs_and_stacks.md, R486 to R509, R513 to R520). Redundant streams are in Machine/Sid.lean; setRole and yieldPart in
Machine/Faults.lean.
-/
namespace Sys2Proof.Machine

/-! ### Links (R486, R491) -/

/-- Whether a link passes its checks is shown anew. -/
def showLink (k : Nat) (s : State) : State :=
  let ok := linkUsable s k && s.flag (F.ALN_LANE_STATUS_SYNC (linkLane s k)) && (s.link k).hello && (s.link k).sync
  let s1 := s.setFlag (F.TWIN_LNK_STATUS_OK k) ok
  if k = 0 then
    settleCover ((s1.setFlag F.TWIN_LIVE_LINK_OK ok).raiseIf (ok && !s.flag F.TWIN_LIVE_LINK_OK) F.TWIN_INT_STATUS_LINK_UP)
  else s1

/-! ### Frames (R487 to R490) -/

/-- The CRC-32C of bytes. -/
def crc32c (bs : List Byte) : BitVec 32 := bs.foldl crcCByte 0xFFFFFFFF#32 ^^^ 0xFFFFFFFF#32

/-- A frame as it is sent: TYPE, body, CRC. -/
def plahusFrame (typ : Nat) (body : List Byte) : List Byte :=
  let b := BitVec.ofNat 8 typ :: body
  b ++ leBytes 4 (crc32c b).toNat

/-- The body length of a TYPE; 0 for an unknown one. -/
def bodyLen (typ : Nat) : Nat :=
  match typ with
  | 1 => 28
  | 2 => 52
  | 3 => 192
  | 4 => 36
  | _ => 0

/-- A frame passes R490, its CRC with it. -/
def plahusOk (bs : List Byte) (codeErr : Bool) : Bool :=
  let n := bodyLen (byteAt bs 0)
  !codeErr && decide (n ≠ 0 ∧ bs.length = n + 5) && decide (leNat (bs.drop (n + 1)) = (crc32c (bs.take (n + 1))).toNat)

/-- A sum of R488 from a count of 2^−48 ns, and back. -/
def sumBytes (x : Int) : List Byte :=
  beBytes 8 (toBits 64 (Int.fdiv x (nsUnit : Int))) ++ beBytes 4 ((x % (nsUnit : Int)).toNat / 2 ^ 16)
def sumOf (bs : List Byte) : Int := signed 64 (beNat (bs.take 8)) * (nsUnit : Int) + ((beNat (slice bs 8 4) * 2 ^ 16 : Nat) : Int)

/-- A record as sent, and back. -/
def recBytes (ws : List Word) : List Byte := ws.flatMap fun w => beBytes 4 w.toNat
def recOf (bs : List Byte) : List Word := (upto 4).map fun i => BitVec.ofNat 32 (beNat (slice bs (4 * i) 4))

/-- The value of a record of a FORMAT, in 2^−48 ns. -/
def recVal (fmt : Nat) (ws : List Word) : Int := ((recordValue fmt (nth 0 ws 0) (nth 0 ws 1) (nth 0 ws 2) (nth 0 ws 3) : Nat) : Int)

/-- The auxiliary lane of a link. -/
def linkAux (s : State) (k : Nat) : Fin 32 := Fin.ofNat 32 (linkLane s k)

/-- A frame joins the line of its lane: it starts with the next word, or waits for those before it (R487, R489). -/
def putLine (m : Fin 32) (bs : List Byte) (s : State) : State :=
  (keepPlus m s).updLane (768 + m) fun r => { r with line := lineWith (wordIndex s (.aux m)) bs r.line }

/-- Hand a frame over on a usable link whose lane carries what it is offered (R146, R149). -/
def sendFrame (k typ : Nat) (body : List Byte) (s : State) : State :=
  if linkUsable s k ∧ laneCarries s (laneAt (768 + linkLane s k)) then
    putLine (linkAux s k) (plahusFrame typ body) (s.updLink k fun l => { l with sent := plahusFrame typ body })
  else s

/-- A valid frame has come on a link. -/
def gotFrame (k : Nat) (s : State) : State :=
  (s.bump64 (Reg.TWIN_LNK_RX_FRAMES_LO k) 1 (some F.TWIN_LNK_INT_STATUS_CNT_OVF)).setFlag (F.TWIN_LNK_STATUS_SILENT k) false

/-- A discarded frame is counted. -/
def badFrame (k : Nat) (s : State) : State := s.bump32 (Reg.TWIN_LNK_FRAME_ERR k) 1 (some F.TWIN_LNK_INT_STATUS_CNT_OVF)

/-- Whether a frame can come on a link: its lane is synchronised; in near-end loopback only the link's own last frame comes (R149). -/
def linkHears (s : State) (k : Nat) (bs : List Byte) : Bool :=
  linkUsable s k && s.flag (F.ALN_LANE_STATUS_SYNC (linkLane s k)) && (!hearsSelf s (.aux (linkAux s k)) || decide (bs = (s.link k).sent))

/-- A frame of a TYPE is received on a link: `f` acts on its body. -/
def onFrame (k typ : Nat) (bs : List Byte) (codeErr : Bool) (f : List Byte → State → State) (s : State) : State :=
  if ¬linkHears s k bs then s
  else if ¬plahusOk bs codeErr then badFrame k s
  else if byteAt bs 0 ≠ typ then s
  else f (slice bs 1 (bodyLen typ)) s

/-! ### Roles (R500 to R504) -/

def prefOf (s : State) : Bool := s.flag F.TWIN_PAIR_CFG_PREF
def yielding (s : State) : Bool := s.flag F.TWIN_LIVE_YIELDING
def peerPattern (s : State) : Nat := s.fld F.TWIN_LIVE_PEER_PATTERN

/-- Heartbeat lost and twin link silent. -/
def bothSilent (s : State) : Bool := !s.flag F.TWIN_LIVE_HB_OK && s.flag (F.TWIN_LNK_STATUS_SILENT 0)

/-- The build-out that continues the old lead's offset (R507). -/
def seedBuildOut (s : State) : State :=
  let i := s.ifld 1 0x110 3 5
  if s.fld F.TWIN_LIVE_IMAGE_AGE ≤ 2 ∧ i < 23 ∧ refState s i = 3 then
    match (s.ref i).raws with
    | raw :: _ =>
      let e := signed 32 (s.indw 1 0x111).toNat * 16
      showBuildOuts (s.updLoop fun l => if isTimeRef i then { l with bt := (raw - e) * (2 ^ 28 : Nat) } else { l with bc := raw - e })
    | [] => s
  else s

/-- A part takes LEAD. -/
def takeLead (s : State) : State := setRole 2 (if roleOf s = 1 then seedBuildOut s else s)

/-- The table of R501, for what interlock and link show now. -/
def roleEval (s : State) : State :=
  let r := roleOf s
  let hb := s.flag F.TWIN_LIVE_HB_OK
  let ok := s.flag F.TWIN_LIVE_LINK_OK
  let silent := s.flag (F.TWIN_LNK_STATUS_SILENT 0)
  let pat := peerPattern s
  let pref := prefOf s
  let lead := !yielding s && s.pwr.mainUp
  let clash := decide ((r = 1 ∨ r = 3) ∧ hb ∧ pat = 2 ∧ ¬yielding s ∧ (s.link 0).pref = some pref)
  let s1 := (s.raiseIf (clash && !s.twin.prefs) F.TWIN_INT_STATUS_PREF_CONFLICT).updTwin fun t => { t with prefs := clash }
  let peerLeads := (hb && decide (pat = 1)) || decide (3 ≤ (s.link 0).leads)
  if r = 1 ∨ r = 3 then
    if hb ∧ (pat = 3 ∨ (pat = 2 ∧ pref ∧ ¬clash)) ∧ lead then takeLead s1
    else if bothSilent s ∧ pref then (if lead then takeLead s1 else s1)
    else if bothSilent s then setRole 4 s1
    else if r = 1 ∧ ¬hb ∧ ok ∧ 3 ≤ (s.link 0).yields ∧ lead then takeLead s1
    else if r = 1 ∧ silent ∧ hb then setRole 3 s1
    else if r = 3 ∧ ok then setRole 1 s1
    else s1
  else if r = 4 then (if hb ∨ ok then setRole 1 s1 else s1)
  else if r = 2 then
    if peerLeads ∧ ¬pref then setRole 1 s1 else if bothSilent s ∧ ¬pref then setRole 5 s1 else s1
  else if r = 5 then
    if peerLeads ∧ ¬pref then setRole 1 s1 else if hb ∧ (pat = 2 ∨ pat = 3) ∧ lead then takeLead s1 else s1
  else s1

/-! ### The interlock (R496 to R499) -/

/-- The class of a period of the peer, in OCLK: 0 invalid, 1 LEAD, 2 SHADOW, 3 YIELD. -/
def periodClass (period low : Nat) : Nat :=
  if period < 14 ∨ 18 < period then 0
  else if 11 ≤ low ∧ low ≤ 13 then 1
  else if 7 ≤ low ∧ low ≤ 9 then 2
  else if 3 ≤ low ∧ low ≤ 5 then 3
  else 0

/-- The interlock fails while the twin link passes its checks. -/
def interlockFault (s : State) : State :=
  if s.flag F.TWIN_LIVE_LINK_OK then faultLog 16 0x14 0 0 (s.raise F.TWIN_INT_STATUS_INTERLOCK_FAULT) else s

/-- A period of LEAD_IN_N ends. -/
def interlockPeriod (period low : Nat) (s : State) : State :=
  let c := periodClass period low
  let last := s.twin.last
  let s1 := s.updTwin fun t => { t with last := c }
  if c = 0 then interlockFault s1
  else
    let s2 := if c = last then s1.setFld F.TWIN_LIVE_PEER_PATTERN c else s1
    let s3 := if last ≠ 0 ∧ ¬s.flag F.TWIN_LIVE_HB_OK then
        (s2.setFlag F.TWIN_LIVE_HB_OK true).raise F.TWIN_INT_STATUS_HB_BACK
      else s2
    roleEval (if c = 1 ∧ last = 1 then s3.setFlag F.TWIN_LIVE_YIELDING false else s3)

/-- The heartbeat is lost. -/
def heartbeatLost (s : State) : State :=
  if s.flag F.TWIN_LIVE_HB_OK then
    let s1 := ((s.setFlag F.TWIN_LIVE_HB_OK false).setFld F.TWIN_LIVE_PEER_PATTERN 0).raise F.TWIN_INT_STATUS_HB_LOST
    roleEval (interlockFault (s1.updTwin fun t => { t with last := 0 }))
  else s

/-- The pattern that LEAD_OUT_N carries from the next period on: 0 none, 1 LEAD, 2 SHADOW, 3 YIELD (R496, R498). -/
def leadOut (s : State) : Nat :=
  if ¬s.pwr.resetN ∨ ¬s.pwr.oclkUp then 0
  else if roleOf s = 2 then 1
  else if ¬s.flag F.TWIN_CTRL_EN ∨ yielding s ∨ ¬s.pwr.mainUp then 3
  else 2

/-- A period of LEAD_OUT_N in TCLK, 16 OCLK of 6.25 TCLK, counted with TCLK (log 28); and how many of the 16 a pattern is low. -/
def leadPeriod : Nat := 100
def leadLow (pat : Nat) : Nat := if pat = 1 then 12 else if pat = 2 then 8 else 4

/-- The level of LEAD_OUT_N: of the pattern of this period, which begins with its falling edge; high where there is none (R496). -/
def leadPin (s : State) : Bool :=
  !s.pwr.resetN || !s.pwr.oclkUp || decide (s.twin.shown = 0 ∨ leadLow s.twin.shown ≤ s.clk.tclk % leadPeriod * 16 / leadPeriod)

/-- At the start of a period the pattern may change: `n` TCLK have just passed. -/
def leadPass (n : Nat) (s : State) : State :=
  if (s.clk.tclk - n) / leadPeriod = s.clk.tclk / leadPeriod then s else s.updTwin fun t => { t with shown := leadOut s }

/-- What a write of `TWIN_CTRL` sets off. -/
def actTwinCtrl (_old raw : Word) (s : State) : State := linkCfgCheck (if bit raw 0 then s else setRole 0 s)
def actPairCfg (_old _raw : Word) (s : State) : State := linkCfgCheck s

/-! ### Stacks (R513, R514) -/

def isMaster (s : State) : Bool := s.flag F.TWIN_STACK_CFG_EN && s.flag F.TWIN_STACK_CFG_MASTER
def posOf (s : State) : Nat := s.fld F.TWIN_STACK_STATUS_POS

/-- A valid position is taken, or lost. -/
def takePos (p : Nat) (s : State) : State :=
  ((s.setFld F.TWIN_STACK_STATUS_POS p).setFlag F.TWIN_STACK_STATUS_POS_VALID true).raiseIf
    (!s.flag F.TWIN_STACK_STATUS_POS_VALID || decide (posOf s ≠ p)) F.TWIN_STK_INT_STATUS_STACK_UP
def losePos (s : State) : State :=
  (s.setFlag F.TWIN_STACK_STATUS_POS_VALID false).raiseIf (s.flag F.TWIN_STACK_STATUS_POS_VALID) F.TWIN_STK_INT_STATUS_STACK_DOWN

/-- A HELLO with MASTER stands against this part on link k, or no longer does (R514). -/
def masterSeen (k : Nat) (s : State) : State := s.updTwin fun t => { t with masters := k :: t.masters.filter (· != k) }
def masterGone (k : Nat) (s : State) : State := s.updTwin fun t => { t with masters := t.masters.filter (· != k) }

/-- What a write of `TWIN_STACK_CFG` sets off: a conflict lasts only on a link in use, and for a member on its down link. -/
def actStackCfg (old _raw : Word) (s : State) : State :=
  let s1 := linkCfgCheck s
  let s2 := s1.updTwin fun t => { t with masters := t.masters.filter fun k => linkUsed s1 k && (isMaster s1 || k == 2) }
  if isMaster s2 then takePos 0 s2
  else if s2.flag F.TWIN_STACK_CFG_EN ∧ bits old 0 2 = 1 then s2
  else losePos s2

/-! ### HELLO (R488 to R490, R503, R513, R514) -/

def helloBody (k : Nat) (s : State) : List Byte :=
  beBytes 2 (if k = 0 then s.fld F.TWIN_PAIR_CFG_PAIR_ID else s.fld F.TWIN_STACK_CFG_STACK_ID) ++
    [BitVec.ofNat 8 (roleOf s),
     BitVec.ofNat 8 (flagAt (prefOf s) 0 + flagAt (isMaster s) 1 + flagAt (yielding s) 2 + tbFormat s * 8),
     BitVec.ofNat 8 (if isMaster s then 0 else posOf s), BitVec.ofNat 8 (epochNow s), 0, 0] ++
    beBytes 8 (s.reg64 Reg.TWIN_CLOCK_ID_LO Reg.TWIN_CLOCK_ID_HI) ++ sumBytes s.twin.stepSum

/-- A part without a valid position sends no HELLO downstream. -/
def helloSend (k : Nat) (s : State) : State :=
  if k = 2 ∧ ¬s.flag F.TWIN_STACK_STATUS_POS_VALID then s else sendFrame k 1 (helloBody k s) s

/-- A valid HELLO of the peer. -/
def twinHello (b : List Byte) (s : State) : State :=
  let role := byteAt b 2
  let fl := byteAt b 3
  let leads := decide (role = 2 ∨ role = 5)
  let s1 := (s.setFld F.TWIN_LIVE_PEER_ROLE role).setReg64 Reg.TWIN_PEER_ID_LO Reg.TWIN_PEER_ID_HI (beNat (slice b 8 8))
  let s2 := s1.updLink 0 fun l =>
    { l with leads := if leads then min 3 (l.leads + 1) else 0, yields := if fl.testBit 2 then min 3 (l.yields + 1) else 0,
             pref := some (fl.testBit 0) }
  let dual := leads && decide (roleOf s = 2 ∨ roleOf s = 5)
  let s3 := s2.updTwin fun t => { t with dual := dual }
  if dual ∧ ¬s.twin.dual then faultLog 18 0x14 0 0 (s3.raise F.TWIN_INT_STATUS_DUAL_LEAD) else s3

/-- A valid HELLO on a stack link; a member's position comes from its up link. -/
def stackHello (k : Nat) (b : List Byte) (s : State) : State :=
  if k ≠ 1 ∨ isMaster s then s
  else
    let p := byteAt b 4 + 1
    if 7 < p then losePos (s.raise F.TWIN_STK_INT_STATUS_STACK_TOO_LONG) else takePos p s

def helloReceive (k : Nat) (b : List Byte) (s : State) : State :=
  let id := if k = 0 then s.fld F.TWIN_PAIR_CFG_PAIR_ID else s.fld F.TWIN_STACK_CFG_STACK_ID
  let master := (byteAt b 3).testBit 1
  if half b 0 ≠ id then (badFrame k s).raise F.TWIN_INT_STATUS_ID_MISMATCH
  else if master ∧ (isMaster s ∨ k = 2) then
    masterSeen k (s.raise F.TWIN_STK_INT_STATUS_MASTER_CONFLICT)
  else
    let s1 := (masterGone k (gotFrame k s)).updLink k fun l => { l with hello := true, fmt := byteAt b 3 / 8 % 4 }
    let s2 := s1.setFld (F.TWIN_LNK_STATUS_PEER_HOP k) (byteAt b 4)
    if k = 0 then roleEval (showLink k (settleCover (twinHello b s2)))
    else showLink k (stackHello k b s2)

/-- The last HELLO of a link is older than 3 ms, its last SYNC sample older than 300 µs, or only one of the two (R491). With the HELLO goes a
conflict that one brought (R514). -/
def linkLapse (k : Nat) (hello sync : Bool) (s : State) : State :=
  let s1 := if hello then masterGone k s else s
  showLink k (s1.updLink k fun l => { l with hello := l.hello && !hello, sync := l.sync && !sync })

/-! ### SYNC (R489, R492 to R495) -/

/-- The fixed parts of an auxiliary lane, in 2^−20 ns: lane latency, delay word and half a bit. -/
def plahusFix (m : Nat) (tx : Bool) (s : State) : Nat :=
  let rate := (s.lane (768 + m)).rate
  let id : LaneId := .aux (Fin.ofNat 32 m)
  let lat := laneCycles id rate tx * wordPeriod id rate
  let half' := halfSymbol id rate
  (fixWord (if tx then lat - half' else lat + half') (laneDelay id tx s) 0).toNat

/-- The record of the first bit of a SYNC's K27.7 at the connector, which is the first of its word: of one received, whose word edge is the
`j`-th after a marker edge and whose reference edge came `ago` TCLK back; of one handed over now, whose next word edge is the `j`-th: it leaves once
it has waited, at the first PCLK edge at or after the TCLK edge there. -/
def syncReceived (k j ago : Nat) (s : State) : List Word :=
  let m := linkLane s k
  let e := timeAt ago s
  let (phi, fl) := phaseOfEdge (768 + m) false j e.inc s
  let w := tbWrap (tbFormat s)
  let v := e.value + w + phi - plahusFix m false s * 2 ^ 28
  recordWords (tbFormat s) (round20 (v % w) % (w / 2 ^ 28)) (recordFlags e.epoch s + fl + loopFlag (768 + m) s)
def syncSent (k j : Nat) (s : State) : List Word :=
  let m := linkAux s k
  let now := wordIndex s (.aux m)
  let wait := syncPlace now (s.lane (768 + m)).line - (now + 1)
  let edge := max s.clk.tclk ((now + wait) * wordPeriod (.aux m) (s.lane (768 + m)).rate / 544)
  let (phi, fl) := phaseOfEdge (768 + m) true (j + wait) (incCur s) s
  let lag := (edge - s.clk.tclk) * 48 + pclkLag edge
  let (v, ep, _) := timeAhead (lag * incCur s + (plahusFix m true s * 2 ^ 28 + phi) * 48) s
  let w : Nat := tbWrap (tbFormat s) / 2 ^ 28
  recordWords (tbFormat s) (round20of48 v % (w : Int)).toNat (recordFlags ep s + fl + loopFlag (768 + m) s + 2 ^ 29)

def syncSend (k j : Nat) (s : State) : State :=
  if ¬linkUsable s k then s
  else
    let l := s.link k
    let seq := (l.seq + 1) % 65536
    let t := syncSent k j s
    let (eseq, erec) := l.rx.getD (0, [0, 0, 0, 0])
    let body := beBytes 2 seq ++ beBytes 2 eseq ++ recBytes t ++ recBytes erec ++ sumBytes s.twin.stepSum ++
      beBytes 4 (s.reg (Reg.TWIN_LNK_OFFSET k)).toNat
    sendFrame k 2 body (s.updLink k fun l => { l with seq := seq, txs := ((seq, t) :: l.txs).take 2 })

/-- EPOCH and the flags LOOPBACK and NO_PHASE of a record. -/
def recEpoch (ws : List Word) : Nat := bits (nth 0 ws 0) 26 2
def recUnfit (ws : List Word) : Bool := bit (nth 0 ws 0) 25 || bit (nth 0 ws 0) 23

/-- A value in 2^−48 ns as a 32-bit register in 2^−16 ns states it; outside the register's range it is free (log 20). -/
def reg16 (x : Int) (lo hi : Int) (s : State) : Word × State :=
  let y := Int.fdiv (x + (2 ^ 31 : Nat)) (2 ^ 32 : Nat)
  if lo ≤ y ∧ y ≤ hi then (BitVec.ofNat 32 (toBits 32 y), s)
  else
    let (v, s1) := s.draw
    (BitVec.ofNat 32 v, s1)

/-- A sample of the offset O is accepted: `view` is the peer's (R493, R495, R509). -/
def syncSample (k : Nat) (o d peerSum view : Int) (s : State) : State :=
  let (wo, s1) := reg16 o (-(2 ^ 31 : Nat)) ((2 ^ 31 - 1 : Nat) : Int) s
  let (wd, s2) := reg16 d 0 ((2 ^ 32 - 1 : Nat) : Int) s1
  let s3 := ((s2.setReg (Reg.TWIN_LNK_OFFSET k) wo).setReg (Reg.TWIN_LNK_DELAY k) wd).updLink k fun l => { l with sync := true }
  let give (i : Nat) (s : State) : State := s.updRef i fun r => { r with given := some (Int.fdiv (o - peerSum) (2 ^ 28 : Nat)) }
  let s4 := match k with
    | 0 => give 21 s3
    | 1 => give 22 s3
    | _ => s3
  let cond := decide (roleOf s = 1 ∧ s.fld F.LOOP_STATUS_SELECTED = 21 ∧ loopState s = 2)
  let s5 := if k = 0 then
      s4.updTwin fun t => { t with xok := t.xok && cond, xsum := t.xsum + o + view, xn := t.xn + 1 }
    else s4
  let s6 := showLink k s5
  if k = 0 then roleEval s6 else s6

def syncReceive (k j ago : Nat) (b : List Byte) (s : State) : State :=
  let t4 := syncReceived k j ago s
  let s1 := (gotFrame k s).updLink k fun l => { l with rx := some (half b 0, t4) }
  match (s.link k).txs.find? fun x => x.1 == half b 2 with
  | none => s1
  | some (_, t1) =>
    let t3 := recOf (slice b 4 16)
    let t2 := recOf (slice b 20 16)
    let here := recVal (tbFormat s)
    let there := recVal (s.link k).fmt
    let a := there t2 - here t1
    let c := here t4 - there t3
    let d := Int.fdiv (a + c) 2
    let coef := signed 32 (s.reg (Reg.MET_PORT_ASYM_COEF (384 + linkLane s k))).toNat
    let o := Int.fdiv (a - c) 2 + Int.fdiv (coef * d) (2 ^ 40 : Nat)
    if recEpoch t1 ≠ recEpoch t4 ∨ recEpoch t2 ≠ recEpoch t3 ∨ [t1, t2, t3, t4].any recUnfit ∨ d < 0 then
      s1.bump32 (Reg.TWIN_LNK_SYNC_DISCARD k) 1 (some F.TWIN_LNK_INT_STATUS_CNT_OVF)
    else syncSample k o d (sumOf (slice b 36 12)) (signed 32 (beNat (slice b 48 4)) * (2 ^ 32 : Nat)) s1

/-! ### The step sum (R494) -/

/-- `TWIN_STEP_SUM` as its registers show it. -/
def showStepSum (s : State) : State :=
  let x := s.twin.stepSum
  (s.setReg64 Reg.TWIN_STEP_SUM_LO Reg.TWIN_STEP_SUM_HI (toBits 64 (Int.fdiv x (nsUnit : Int)))).setReg Reg.TWIN_STEP_SUM_SUB
    (BitVec.ofNat 32 ((x % (nsUnit : Int)).toNat / 2 ^ 28))
def addStepSum (d : Int) (s : State) : State := showStepSum (s.updTwin fun t => { t with stepSum := t.stepSum + d })

/-! ### The image (R505, R506, R508) -/

/-- The image of a lead now; `seq` counts twin cycles. -/
def imageNow (seq : Nat) (s : State) : List Word :=
  let sel := s.fld F.LOOP_STATUS_SELECTED
  [BitVec.ofNat 32 (seq % 2 ^ 16 + tbFormat s * 2 ^ 16 + epochNow s * 2 ^ 18 + 2 ^ 31)] ++ recordNow s ++
    [s.reg Reg.TBASE_INC_CUR_LO, s.reg Reg.TBASE_INC_CUR_HI, s.reg Reg.LOOP_FREQ_LO, s.reg Reg.LOOP_FREQ_HI,
     s.reg Reg.LOOP_HO_FREQ_LO, s.reg Reg.LOOP_HO_FREQ_HI, s.reg Reg.LOOP_HO_DRIFT, s.reg Reg.LOOP_BT_LO, s.reg Reg.LOOP_BT_HI,
     s.reg Reg.LOOP_BT_SUB, s.reg Reg.LOOP_BC,
     BitVec.ofNat 32 (loopState s + sel * 2 ^ 3 + s.fld F.LOOP_STATUS_ADV_QUALITY * 2 ^ 8 + flagAt (s.flag F.LOOP_STATUS_HO_READY) 11),
     if sel < 23 then s.reg (Reg.LOOP_REF_PHASE sel) else 0,
     s.reg Reg.TWIN_STEP_SUM_LO, s.reg Reg.TWIN_STEP_SUM_HI, s.reg Reg.TWIN_STEP_SUM_SUB] ++ List.replicate 11 0 ++
    (upto 16).map fun i => s.reg (Reg.TWIN_TX_PAYLOAD i)

/-- The end of a twin cycle. -/
def twinCycle (s : State) : State :=
  let s1 := s.updTwin fun t => { t with cycles := t.cycles + 1 }
  let s2 := s1.setFld F.TWIN_LIVE_IMAGE_AGE (min 255 (s.fld F.TWIN_LIVE_IMAGE_AGE + 1))
  if roleOf s = 2 then sendFrame 0 3 (recBytes (imageNow s1.twin.cycles s2)) s2 else s2

/-- A valid STATE frame. -/
def stateReceive (k : Nat) (b : List Byte) (s : State) : State :=
  let s1 := gotFrame k s
  if k = 0 ∧ (roleOf s = 1 ∨ roleOf s = 3) then
    let s2 := forUpto 48 (fun i s => s.setIndw 1 (0x100 + i) (BitVec.ofNat 32 (beNat (slice b (4 * i) 4)))) s1
    (s2.setFld F.TWIN_LIVE_IMAGE_AGE 0).raise F.TWIN_INT_STATUS_IMAGE_NEW
  else s1

/-- IMAGE_LOAD. -/
def imageLoad (s : State) : State :=
  let w (i : Nat) : Word := s.indw 1 (0x140 + i)
  if bit (w 0) 31 ∧ bits (w 0) 16 2 = tbFormat s ∧ tbFormat s ≠ 0 ∧ loopState s = 0 then
    let y := signed 40 (((w 9).toNat + 2 ^ 32 * (w 10).toNat) % 2 ^ 40)
    let s1 := s.updLoop fun l =>
      { l with y0 := y * (2 ^ 48 : Nat), drift := signed 32 (w 11).toNat * (2 ^ 32 : Nat), hoT := 0, seeded := true }
    showHold (showHoReady s1)
  else s.raise F.TWIN_INT_STATUS_IMAGE_REJECT

/-- What a write of `TWIN_CMD` sets off. -/
def actTwinCmd (_old raw : Word) (s : State) : State :=
  let s1 := if bit raw 0 then yieldPart s else s
  let s2 := if bit raw 1 then roleEval (s1.setFlag F.TWIN_LIVE_YIELDING false) else s1
  if bit raw 2 then imageLoad s2 else s2

/-! ### The cross-check (R509) -/

/-- The end of a check window. -/
def xchkWindow (s : State) : State :=
  let t := s.twin
  let s1 := s.updTwin fun t => { t with xok := true, xsum := 0, xn := 0 }
  let cond := t.xok && decide (roleOf s = 1 ∧ s.fld F.LOOP_STATUS_SELECTED = 21 ∧ loopState s = 2)
  if cond ∧ 100 ≤ t.xn then
    let mean := Int.fdiv (2 * t.xsum + (t.xn : Int)) (2 * (t.xn : Int))
    let (w, s2) := reg16 mean (-(2 ^ 31 : Nat)) ((2 ^ 31 - 1 : Nat) : Int) s1
    let s3 := s2.setReg Reg.TWIN_XCHK_STATUS w
    if s.fld F.TWIN_XCHK_LIMIT_PS * nsUnit * t.xn < t.xsum.natAbs * 1000 then
      if s.fld F.TWIN_XCHK_COUNT ≤ t.xfails + 1 then
        faultLog 17 0x14 0 0 ((s3.updTwin fun t => { t with xfails := 0 }).raise F.TWIN_INT_STATUS_XCHK_FAIL)
      else s3.updTwin fun t => { t with xfails := t.xfails + 1 }
    else s3.updTwin fun t => { t with xfails := 0 }
  else s1

/-! ### Two-phase steps (R515, R516) -/

/-- A STEP frame of an operation. -/
def stepBody (op pos cause xid : Nat) (amount : Int) (arm : List Word) (s : State) : List Byte :=
  [BitVec.ofNat 8 op, BitVec.ofNat 8 pos, BitVec.ofNat 8 cause, BitVec.ofNat 8 (epochNow s)] ++ beBytes 2 xid ++ [0, 0] ++
    sumBytes amount ++ recBytes arm

/-- An answer or a decision, which carries no amount. -/
def sendStep (k op pos cause xid : Nat) (s : State) : State := sendFrame k 4 (stepBody op pos cause xid 0 [0, 0, 0, 0] s) s
def sendAll (ks : List Nat) (op pos cause xid : Nat) (s : State) : State :=
  ks.foldl (fun s k => sendStep k op pos cause xid s) s

/-- The links that PREPARE goes on to: down the stack, and to the shadow of an active pair. -/
def stepTargets (s : State) : List Nat :=
  (if linkUsable s 2 then [2] else []) ++
    (if (roleOf s = 2 ∨ roleOf s = 5) ∧ s.fld F.TWIN_LIVE_PEER_ROLE = 1 ∧ linkUsable s 0 then [0] else [])

/-- The entry conditions: the CAUSE of the first that fails, or 0. -/
def stepCause (fmt epoch arm : Nat) (s : State) : Nat :=
  if s.tb.pend.isSome then 1
  else if epoch ≠ epochNow s then 2
  else if fmt ≠ tbFormat s ∨ tbFormat s = 0 then 3
  else if arm < s.tb.value + 1024 * incCur s + s.fld F.TWIN_XSTEP_GUARD_US * 1000 * nsUnit then 4
  else 0

/-- The time-base command path rejects a STEP whose result would be negative, judged against ARM (R168). -/
def stepNegative (arm : Nat) (amount : Int) : Bool := decide ((arm : Int) + amount < 0)

def setStepState (st : Nat) (s : State) : State := s.setFld F.TWIN_XSTEP_STATUS_STATE st
def setStepResult (res pos cause : Nat) (s : State) : State :=
  ((s.setFld F.TWIN_XSTEP_STATUS_RESULT res).setFld F.TWIN_XSTEP_STATUS_POS pos).setFld F.TWIN_XSTEP_STATUS_CAUSE cause

/-- The step ends at this part before COMMIT: its STEP is withdrawn. -/
def stepDrop (s : State) : State :=
  let s1 := match s.tb.pend with
    | some p => if p.xstep then tbCancel s else s
    | none => s
  setStepState 0 (s1.updTwin fun t => { t with xstep := none })

/-- The initiator sends ABORT. -/
def stepAbort (x : XstepSt) (res pos cause : Nat) (s : State) : State :=
  (setStepResult res pos cause (stepDrop (sendAll x.targets 5 (posOf s) 0 x.xid s))).raise F.TWIN_STK_INT_STATUS_XSTEP_FAIL

/-- Every part that PREPARE went on to is ready, the last of them that at position `pos`; too late for COMMIT is a refusal of CAUSE 5. -/
def stepReady (x : XstepSt) (pos : Nat) (s : State) : State :=
  match x.from' with
  | some k => sendStep k 2 (posOf s) 0 x.xid s
  | none =>
    if s.tb.value + s.fld F.TWIN_XSTEP_GUARD_US * 1000 * nsUnit ≤ x.arm then
      setStepState 2 ((sendAll x.targets 4 (posOf s) 0 x.xid s).updTwin fun t => { t with xstep := some { x with committed := true } })
    else stepAbort x 3 pos 5 s

/-- The part stages its own STEP and passes PREPARE on. -/
def stepPrepare (from' : Option Nat) (xid : Nat) (amount : Int) (armWords : List Word) (s : State) : State :=
  let arm := recordValue (tbFormat s) (nth 0 armWords 0) (nth 0 armWords 1) (nth 0 armWords 2) (nth 0 armWords 3)
  let ts := stepTargets s
  let x : XstepSt := { from' := from', xid := xid, targets := ts, waits := ts, arm := arm }
  let s1 := tbPending (mkPend none (some (.step amount)) (some arm) true false s) s
  let s2 := ts.foldl (fun s k => sendFrame k 4 (stepBody 1 (posOf s) 0 xid amount armWords s) s) s1
  let s3 := (setStepState 1 (s2.setFld F.TWIN_XSTEP_STATUS_XID xid)).updTwin fun t => { t with xstep := some x }
  if ts.isEmpty then stepReady x (posOf s) s3 else s3

/-- GO. -/
def xstepGo (s : State) : State :=
  let r := roleOf s
  let armWords := (upto 4).map fun i => s.reg (Reg.TWIN_XSTEP_ARM0 + i)
  let arm := recordValue (tbFormat s) (nth 0 armWords 0) (nth 0 armWords 1) (nth 0 armWords 2) (nth 0 armWords 3)
  let amount := signed 64 (s.reg64 Reg.TWIN_XSTEP_AMT_LO Reg.TWIN_XSTEP_AMT_HI) * (nsUnit : Int) +
    (((s.reg Reg.TWIN_XSTEP_AMT_SUB).toNat * 2 ^ 16 : Nat) : Int)
  let cause := if (s.flag F.TWIN_STACK_CFG_EN && !isMaster s) ∨ r = 1 ∨ r = 3 ∨ r = 4 then 6
    else stepCause (tbFormat s) (epochNow s) arm s
  if cause ≠ 0 ∨ stepNegative arm amount then
    ((setStepResult 2 (posOf s) cause s).raise F.TWIN_STK_INT_STATUS_XSTEP_FAIL).raiseIf (decide (cause = 0)) F.TBASE_INT_STATUS_CMD_REJECT
  else stepPrepare none ((s.fld F.TWIN_XSTEP_STATUS_XID + 1) % 65536) amount armWords (setStepResult 0 0 0 s)

/-- ABORT by command, before COMMIT. -/
def xstepAbortCmd (s : State) : State :=
  match s.twin.xstep with
  | some x => if x.from'.isNone ∧ ¬x.committed then stepAbort x 4 (posOf s) 0 s else s
  | none => s

/-- What a write of `TWIN_XSTEP_CMD` sets off. -/
def actXstepCmd (_old raw : Word) (s : State) : State :=
  let s1 := if bit raw 0 then xstepGo s else s
  if bit raw 1 then xstepAbortCmd s1 else s1

/-- PREPARE, from the up link or from the lead of a pair; a STEP that the command path rejects is refused with CAUSE 0 (log 28). -/
def prepareReceive (k : Nat) (b : List Byte) (s : State) : State :=
  let xid := half b 4
  let armWords := recOf (slice b 20 16)
  let arm := recordValue (tbFormat s) (nth 0 armWords 0) (nth 0 armWords 1) (nth 0 armWords 2) (nth 0 armWords 3)
  let cause := stepCause (s.link k).fmt (byteAt b 3) arm s
  if k = 2 then s
  else if cause ≠ 0 ∨ stepNegative arm (sumOf (slice b 8 12)) then
    ((sendStep k 3 (posOf s) cause xid s).raise F.TWIN_STK_INT_STATUS_XSTEP_FAIL).raiseIf (decide (cause = 0)) F.TBASE_INT_STATUS_CMD_REJECT
  else stepPrepare (some k) xid (sumOf (slice b 8 12)) armWords s

/-- READY of a part that PREPARE was passed on to. -/
def readyReceive (k : Nat) (b : List Byte) (s : State) : State :=
  match s.twin.xstep with
  | some x =>
    if x.xid = half b 4 ∧ x.waits.contains k then
      let y := { x with waits := x.waits.filter (· != k) }
      let s1 := s.updTwin fun t => { t with xstep := some y }
      if y.waits.isEmpty then stepReady y (byteAt b 1) s1 else s1
    else s
  | none => s

/-- A refusal, with the POS and CAUSE of the part that refused. -/
def stepRefused (x : XstepSt) (pos cause : Nat) (s : State) : State :=
  match x.from' with
  | some k => sendStep k 3 pos cause x.xid s
  | none => if x.committed then s else stepAbort x 2 pos cause s
def refuseReceive (k : Nat) (b : List Byte) (s : State) : State :=
  match s.twin.xstep with
  | some x => if x.xid = half b 4 ∧ x.targets.contains k then stepRefused x (byteAt b 1) (byteAt b 2) s else s
  | none => s

/-- COMMIT and ABORT, at a part that PREPARE reached. -/
def commitReceive (k : Nat) (b : List Byte) (s : State) : State :=
  match s.twin.xstep with
  | some x =>
    if x.xid = half b 4 ∧ x.from' = some k then
      setStepState 2 ((sendAll x.targets 4 (posOf s) 0 x.xid s).updTwin fun t => { t with xstep := some { x with committed := true } })
    else s
  | none => s
def abortReceive (k : Nat) (b : List Byte) (s : State) : State :=
  match s.twin.xstep with
  | some x =>
    if x.xid = half b 4 ∧ x.from' = some k then
      (stepDrop (sendAll x.targets 5 (posOf s) 0 x.xid s)).raise F.TWIN_STK_INT_STATUS_XSTEP_FAIL
    else s
  | none => s

/-- A STEP frame of one operation is received. -/
def onStep (k op : Nat) (bs : List Byte) (codeErr : Bool) (f : Nat → List Byte → State → State) (s : State) : State :=
  onFrame k 4 bs codeErr (fun b s => if byteAt b 0 = op then f k b (gotFrame k s) else s) s

/-- A link fails while an answer is awaited on it. -/
def stepLinkFails (k : Nat) (s : State) : State :=
  match s.twin.xstep with
  | some x => if x.waits.contains k ∧ ¬x.committed then stepRefused x (posOf s) 5 s else s
  | none => s

/-- 10 µs before ARM without COMMIT or ABORT. -/
def xstepOrphan (s : State) : State :=
  match s.twin.xstep with
  | some x =>
    if x.committed then s
    else
      match x.from' with
      | some _ => (setStepResult 5 (posOf s) 0 (stepDrop s)).raise F.TWIN_STK_INT_STATUS_XSTEP_ORPHAN
      | none => stepAbort x 3 (posOf s) 5 s
  | none => s

/-- The step is applied at this part's apply edge. -/
def xstepApplied (s : State) : State :=
  (setStepResult 1 0 0 (setStepState 0 (s.updTwin fun t => { t with xstep := none }))).raise F.TWIN_STK_INT_STATUS_XSTEP_DONE

/-! ### Commands -/

def execHelloSend (k : Fin 3) (s : State) : Host.Outcome State Fault Refusal := whenMain s (helloSend k)
def execSyncSend (k : Fin 3) (j : Nat) (s : State) : Host.Outcome State Fault Refusal := whenMain s (syncSend k j)
def execHelloReceive (k : Fin 3) (bs : List Byte) (codeErr : Bool) (s : State) : Host.Outcome State Fault Refusal :=
  whenMain s (onFrame k 1 bs codeErr (helloReceive k))
def execSyncReceive (k : Fin 3) (bs : List Byte) (codeErr : Bool) (j ago : Nat) (s : State) : Host.Outcome State Fault Refusal :=
  whenMain s (onFrame k 2 bs codeErr (syncReceive k j ago))
def execStateReceive (k : Fin 3) (bs : List Byte) (codeErr : Bool) (s : State) : Host.Outcome State Fault Refusal :=
  whenMain s (onFrame k 3 bs codeErr (stateReceive k))
def execPrepare (k : Fin 3) (bs : List Byte) (codeErr : Bool) (s : State) : Host.Outcome State Fault Refusal :=
  whenMain s (onStep k 1 bs codeErr prepareReceive)
def execReady (k : Fin 3) (bs : List Byte) (codeErr : Bool) (s : State) : Host.Outcome State Fault Refusal :=
  whenMain s (onStep k 2 bs codeErr readyReceive)
def execRefuse (k : Fin 3) (bs : List Byte) (codeErr : Bool) (s : State) : Host.Outcome State Fault Refusal :=
  whenMain s (onStep k 3 bs codeErr refuseReceive)
def execXstepCommit (k : Fin 3) (bs : List Byte) (codeErr : Bool) (s : State) : Host.Outcome State Fault Refusal :=
  whenMain s (onStep k 4 bs codeErr commitReceive)
def execXstepAbort (k : Fin 3) (bs : List Byte) (codeErr : Bool) (s : State) : Host.Outcome State Fault Refusal :=
  whenMain s (onStep k 5 bs codeErr abortReceive)

/-- R491: no valid frame for LINK_TIMEOUT_US, and so no HELLO and no SYNC sample either. -/
def execLinkSilent (k : Fin 3) (s : State) : Host.Outcome State Fault Refusal :=
  whenMain s fun s =>
    if s.flag (F.TWIN_LNK_STATUS_SILENT k) then s
    else
      let us := s.fld F.TWIN_TIMERS_LINK_TIMEOUT_US
      let s1 := stepLinkFails k (linkLapse k (decide (3000 ≤ us)) (decide (300 ≤ us)) (s.setFlag (F.TWIN_LNK_STATUS_SILENT k) true))
      match k with
      | 0 => roleEval (s1.raise F.TWIN_INT_STATUS_LINK_DOWN)
      | 1 => if isMaster s1 then s1 else losePos s1
      | _ => s1

/-- R491: the HELLO or the SYNC sample lapses, or SYNC of the lane has fallen. -/
def execLinkCheckLoss (k : Fin 3) (hello sync : Bool) (s : State) : Host.Outcome State Fault Refusal :=
  whenMain s fun s =>
    let s1 := linkLapse k hello sync s
    if s.flag (F.TWIN_LNK_STATUS_OK k) ∧ ¬s1.flag (F.TWIN_LNK_STATUS_OK k) then
      let s2 := stepLinkFails k s1
      if k = 0 then roleEval s2 else s2
    else s1

/-- R497: a period of LEAD_IN_N ends; the interlock belongs to the oven island. -/
def execInterlockPeriod (period low : Nat) (s : State) : Host.Outcome State Fault Refusal :=
  .next (if s.pwr.oclkUp then interlockPeriod period low s else s)
def execHbLost (s : State) : Host.Outcome State Fault Refusal := .next (if s.pwr.oclkUp then heartbeatLost s else s)

/-- R501: 64 OCLK after EN. -/
def execTwinObserveDone (s : State) : Host.Outcome State Fault Refusal :=
  whenMain s fun s => if s.flag F.TWIN_CTRL_EN ∧ roleOf s = 0 then roleEval (setRole 1 s) else s
def execSplitHoldoffExpire (s : State) : Host.Outcome State Fault Refusal :=
  whenMain s fun s => if roleOf s = 4 ∧ bothSilent s then setRole 5 s else s

/-- A write of `TWIN_CMD`. -/
def twinCmdWrite (ag : Agent) (d : Word) (s : State) : Host.Outcome State Fault Refusal :=
  whenMain s (regWrite ag Reg.TWIN_CMD Rd.TWIN_CMD actTwinCmd allBits d)
def execYield (ag : Agent) (d : Word) (s : State) : Host.Outcome State Fault Refusal := twinCmdWrite ag (d ||| 1) s
def execResume (ag : Agent) (d : Word) (s : State) : Host.Outcome State Fault Refusal := twinCmdWrite ag (d ||| 2) s
def execImageLoad (ag : Agent) (d : Word) (s : State) : Host.Outcome State Fault Refusal := twinCmdWrite ag (d ||| 4) s

def execTwinCycleEnd (s : State) : Host.Outcome State Fault Refusal := whenMain s twinCycle
def execTwinXchkWindow (s : State) : Host.Outcome State Fault Refusal := whenMain s xchkWindow

/-- A write of `TWIN_XSTEP_CMD`. -/
def xstepCmdWrite (ag : Agent) (d : Word) (s : State) : Host.Outcome State Fault Refusal :=
  whenMain s (regWrite ag Reg.TWIN_XSTEP_CMD Rd.TWIN_XSTEP_CMD actXstepCmd allBits d)
def execXstepGo (ag : Agent) (d : Word) (s : State) : Host.Outcome State Fault Refusal := xstepCmdWrite ag (d ||| 1) s
def execXstepAbortCmd (ag : Agent) (d : Word) (s : State) : Host.Outcome State Fault Refusal := xstepCmdWrite ag (d ||| 2) s
def execXstepOrphan (s : State) : Host.Outcome State Fault Refusal := whenMain s xstepOrphan

end Sys2Proof.Machine
end

