-- ==== Sys2Proof/Machine/Power.lean ====
section
/-!
DEFINITION. Sys2Proof/Machine/Power.lean: the power stage, the resets and what each keeps, the supply monitor and its log, temperature
(01_package_power_and_supply_events.md, R24 to R53, R583, R584; 15_bring_up_sequence.md, R522 to R525, R539; R11, R173, R248).
-/
namespace Sys2Proof.Machine

/-! ### Resets (R11, R35 to R39, R44, R248) -/

/-- The registers whose storage is in the oven island, and CHIP_STRAPS, which is sampled at every start. -/
def ovenReg (a : Nat) : Bool :=
  [Reg.CHIP_UNIT, Reg.CHIP_STRAPS, Reg.PWR_LIVE, Reg.PWR_WARN_LEVEL, Reg.TBASE_CTRL, Reg.TBASE_LIVE, Reg.TBASE_INC_LO,
   Reg.TBASE_INC_HI, Reg.TBASE_INC_CUR_LO, Reg.TBASE_INC_CUR_HI, Reg.LOOP_CTRL, Reg.LOOP_BW, Reg.LOOP_SLOPE,
   Reg.LOOP_PHASE_ACCEPT, Reg.LOOP_FREQ_DISAGREE, Reg.LOOP_FREQ_LIMIT, Reg.LOOP_JUMP_LIMIT, Reg.LOOP_FREQ_LO,
   Reg.LOOP_FREQ_HI, Reg.LOOP_HO_CTRL, Reg.LOOP_HO_FREQ_LO, Reg.LOOP_HO_FREQ_HI, Reg.LOOP_HO_DRIFT, Reg.LOOP_BT_LO,
   Reg.LOOP_BT_HI, Reg.LOOP_BT_SUB, Reg.LOOP_BC, Reg.TWIN_CTRL, Reg.TWIN_PAIR_CFG, Reg.TWIN_LIVE, Reg.TWIN_TIMERS,
   Reg.TWIN_STEP_SUM_LO, Reg.TWIN_STEP_SUM_HI, Reg.TWIN_STEP_SUM_SUB].contains a ||
  (upto 23).any fun i => decide (a = Reg.LOOP_REF_CFG i ∨ a = Reg.LOOP_REF_FREQ_HZ i ∨ a = Reg.LOOP_REF_DELAY i ∨
    a = Reg.LOOP_REF_TOL i)

/-- Of registers that hold both kinds, the fields outside the oven island go to their reset values. -/
def clearMixed (s : State) : State :=
  let keep (a : Nat) (m : Word) (s : State) : State := s.setReg a ((s.reg a &&& m) ||| (regReset a &&& ~~~m))
  showHoReady (keep Reg.PWR_LIVE 0x1F#32 (keep Reg.TWIN_LIVE 0x2FF#32 (keep Reg.TBASE_LIVE 0xB9#32 (keep Reg.TBASE_CTRL 3#32 s))))

/-- Every reference that is enabled starts in ABSENT (R248). -/
def refsAbsent (s : State) : State :=
  forUpto 23 (fun i s => if s.flag (F.LOOP_REF_CFG_EN i) then s.setFld (F.LOOP_REF_STATUS_STATE i) 1 else s) s

/-- Every domain but the oven island is at its reset values. -/
def mainWipe (s : State) : State :=
  refsAbsent <| clearMixed
    { regs := s.regs.filter (fun e => ovenReg e.1), ind := s.ind.filter (fun e => e.1 / 2 ^ 24 = 1), hostMem := s.hostMem,
      clk := s.clk, pwr := s.pwr, hst := { woDone := s.hst.woDone.filter (fun e => ovenReg e.1) },
      tb := { value := s.tb.value, starting := s.tb.starting },
      loop := { integ := s.loop.integ, bt := s.loop.bt, bc := s.loop.bc, hist := s.loop.hist, y2 := s.loop.y2,
                y0 := s.loop.y0, drift := s.loop.drift, hadSel := s.loop.hadSel, seeded := s.loop.seeded },
      twin := { stepSum := s.twin.stepSum, last := s.twin.last, shown := s.twin.shown },
      boot := { s.boot with cores := 0, kicks := [0, 0, 0, 0], mgmtAck := false, mgmtOut := [] }, tap := s.tap,
      free := s.free, pending := s.pending }

/-- The main domain enters a reset that the oven island survives: a pending time-base command is lost (R173), a part that leads yields
(R501, R539), the loop coasts (R248), the causes of PWR_INT_STATUS are latched (R584); the next temperature reading counts as the first
(R43, log 12). -/
def mainReset (cause : ResetCause) (s : State) : State :=
  let s1 := if s.tb.pend.isSome then s.setFlag F.TBASE_LIVE_CMD_LOST true else s
  let s2 := if roleOf s1 = 2 then yieldPart s1 else if roleOf s1 = 5 then setRole 1 s1 else s1
  let s3 := if s2.pwr.mainUp ∧ loopState s2 ≤ 5 then loopCoast 6 s2 else s2
  let caught := s3.pwr.latched ||| s3.reg Reg.PWR_INT_STATUS
  ((mainWipe (s3.setFlag F.TBASE_LIVE_OUTAGE true)).updTap fun _ => {}).updPwr fun p =>
    { p with mainUp := false, released := false, latched := caught, lastCause := cause, tempArmed := true }

/-- The oven island resets with the rest: a cold start follows. Fuses and what lies outside the part keep their values. -/
def coldReset (s : State) : State :=
  { hostMem := s.hostMem, clk := s.clk,
    pwr := { stageOn := s.pwr.stageOn, railsGood := s.pwr.railsGood, resetN := s.pwr.resetN, vin := s.pwr.vin, low := s.pwr.low,
             xoIn := s.pwr.xoIn },
    boot := { valid := s.boot.valid, revoked := s.boot.revoked, secver := s.boot.secver, hash := s.boot.hash },
    free := s.free, pending := s.pending }

/-- The power stage is off. -/
def stageOff (s : State) : State := s.updPwr fun p => { p with stageOn := false, railsGood := false }

/-- The stage starts again with the oven island kept (R36, R44). -/
def retainedStart (s : State) : State := (s.updPwr fun p => { p with stageOn := true }).setFlag F.PWR_LIVE_OVEN_RETAINED true

/-! ### The start (R24, R522 to R524) -/

/-- The internal reset releases: the straps are sampled, and take effect where the oven island starts (R18, R523). -/
def resetRelease (twinPref boot enumHead : Bool) (s : State) : State :=
  let s1 := s.setReg Reg.CHIP_STRAPS (BitVec.ofNat 32 (flagAt twinPref 0 + flagAt boot 1 + flagAt enumHead 2))
  let s2 := if s.pwr.ovenUp then s1
    else (s1.setFlag F.TWIN_PAIR_CFG_PREF twinPref).updBoot fun b => { b with strapBoot := boot, enumHead := enumHead }
  s2.updPwr fun p => { p with released := true, resetN := true, ovenUp := true }

/-- The main domain leaves reset (R524, R584): the band search starts, the boot ROM waits for an image, and the part may take a role that
the reset kept it from (R501). -/
def mainRelease (s : State) : State :=
  let s1 := (mainWipe s).updPwr fun p => { p with mainUp := true, latched := 0 }
  let extra := match s.pwr.lastCause with
    | .cold => 0
    | .supply => 0x40#32
    | .trip => 0x100#32
  let s2 := { s1 with clk := { s1.clk with mainAt := s1.clk.tclk } }
  let s3 := s2.setReg Reg.PWR_INT_STATUS (s.pwr.latched ||| extra)
  roleEval (settleCover ((mpllSearch s3).setFld F.HRTH_BOOT_STATUS_STATE (bootWait s3)))

/-! ### The supply monitor (R29 to R41, R52, R53, R584) -/

/-- A cause of `PWR_INT_STATUS`: latched in the oven island while the main domain is in reset. -/
def raisePwr (f : Fld) (s : State) : State :=
  if s.pwr.mainUp then s.raise f
  else s.updPwr fun p => { p with latched := p.latched ||| BitVec.ofNat 32 (2 ^ f.lo) }

/-- The word addresses of the log's head and total in domain 0x01. -/
def evtHead : Nat := 0x40
def evtTotal : Nat := 0x41

/-- One entry of `PWR_EVT_LOG` (R40). -/
def evtLog (typ us vinMin : Nat) (tb : Word) (s : State) : State :=
  let i := s.ifld 1 evtHead 0 4
  let seq := s.ifld 1 evtHead 16 16
  let excess := decide (s.ifld 1 (4 * i) 28 4 ≠ 0)
  let total := (s.indw 1 evtTotal).toNat + 1
  let s1 := ((s.setIndw 1 (4 * i) (BitVec.ofNat 32 (seq + typ * 2 ^ 28))).setIndw 1 (4 * i + 1)
    (BitVec.ofNat 32 (min us (2 ^ 32 - 1)))).setIndw 1 (4 * i + 2) (BitVec.ofNat 32 (vinMin % 2 ^ 16))
  let s2 := ((s1.setIndw 1 (4 * i + 3) tb).setIfld 1 evtHead 0 4 (i + 1)).setIfld 1 evtHead 16 16 (seq + 1)
  let s3 := raisePwr F.PWR_INT_STATUS_EVT_LOGGED (s2.setIndw 1 evtTotal (BitVec.ofNat 32 total))
  let s4 := if excess then raisePwr F.PWR_INT_STATUS_EVT_OVERWRITE s3 else s3
  if total < 2 ^ 32 then s4 else raisePwr F.PWR_INT_STATUS_CNT_OVF s4

/-- The warning level in mV. -/
def warnLevel (s : State) : Nat := s.fld F.PWR_WARN_LEVEL_LEVEL_MV

/-- The warning asserts (R32). -/
def warnAssert (vin : Nat) (s : State) : State :=
  let d : DipSt := { reset := false, start := s.clk.tclk, tb := BitVec.ofNat 32 (logTime s).1, min := vin }
  let s1 := s.updPwr fun p => { p with vin := vin, dip := some d, warnN := false }
  let s2 := raisePwr F.PWR_INT_STATUS_WARN_ASSERT
    ((s1.setFlag F.PWR_LIVE_WARN_ACTIVE true).setFlag F.PWR_LIVE_EVT_FLAG true)
  if s2.prf.mode = 0 then s2 else (prfAbandon s2).updPrf fun p => { p with restart := true }

/-- The warning releases (R34, R35): the dip lasted `oclk` OCLK cycles. -/
def warnClear (vin vinMin oclk : Nat) (s : State) : State :=
  match s.pwr.dip with
  | none => s
  | some d =>
    let s1 := s.updPwr fun p => { p with vin := vin, dip := none, warnN := true }
    let s2 := raisePwr F.PWR_INT_STATUS_WARN_CLEAR (s1.setFlag F.PWR_LIVE_WARN_ACTIVE false)
    evtLog (if d.reset then 2 else 1) (divRound (8 * oclk) 1000) (min d.min vinMin) d.tb s2

/-- VIN falls below the reset level (R35, R38). -/
def supplyReset (vin : Nat) (s : State) : State :=
  let s1 := s.updPwr fun p => { p with vin := vin, low := true, dip := p.dip.map fun d => { d with reset := true, min := min d.min vin } }
  if s.flag F.PWR_LIVE_HOLDUP_READY then stageOff (mainReset .supply s1) else stageOff (coldReset s1)

/-! ### Temperature (R42 to R44) -/

/-- The greatest reading of a list and its index, the lowest of equals. -/
def hottest : List (BitVec 12) → Nat → Int × Nat
  | [], _ => (-2048, 0)
  | x :: xs, i =>
    let r := hottest xs (i + 1)
    if r.1 ≤ signed 12 x.toNat then (signed 12 x.toNat, i) else r

/-- TEMP_WARN_ACTIVE compares the reading with the level (R48). A new level is one that no reading has risen through yet (R43, log 12). -/
def showTempWarn (s : State) : State :=
  s.setFlag F.PWR_LIVE_TEMP_WARN_ACTIVE (decide (signed 12 (s.fld F.PWR_TEMP_WARN_TJ) ≤ signed 12 (s.fld F.PWR_TEMP_TJ)))
def actTempWarn (old _raw : Word) (s : State) : State :=
  let s1 := showTempWarn s
  if bits old 0 12 = s.fld F.PWR_TEMP_WARN_TJ then s1 else s1.updPwr fun p => { p with tempArmed := true }

/-- A reading of the 16 sensors: TEMP_WARN sets where it rises through the level, armed again more than 2 °C below it (R43). -/
def tempUpdate (sensors : List (BitVec 12)) (s : State) : State :=
  let (t, i) := hottest sensors 0
  let w := signed 12 (s.fld F.PWR_TEMP_WARN_TJ)
  let s1 := showTempWarn (s.setReg Reg.PWR_TEMP (BitVec.ofNat 32 (toBits 12 t + i % 16 * 2 ^ 12)))
  if w ≤ t ∧ signed 12 (s.fld F.PWR_TEMP_TJ) < w ∧ s.pwr.tempArmed then
    (s1.updPwr fun p => { p with tempArmed := false }).raise F.PWR_INT_STATUS_TEMP_WARN
  else if t < w - 8 then s1.updPwr fun p => { p with tempArmed := true }
  else s1

/-- 100 °C in units of 0.25 °C, and 125 °C. -/
def restartTemp : Int := 400
def tripTemp : Int := 500

/-- A trip restart (R44): the assertion of RESET_N that releases a trip. Where VIN fell below the reset level in the trip and has not
come back, the stage waits for the start level (R24). -/
def tripRestart (s : State) : State :=
  let s1 := s.updPwr fun p => { p with tripped := false, resetN := false, lastCause := .trip }
  if s.pwr.low then s1.setFlag F.PWR_LIVE_OVEN_RETAINED true else retainedStart s1

/-! ### Commands -/

/-- R24: a start of a part whose oven island is down. -/
def execStageStart (vin : Nat) (s : State) : Host.Outcome State Fault Refusal :=
  .next (if ¬s.pwr.stageOn ∧ ¬s.pwr.ovenUp ∧ 5900 < vin then s.updPwr fun p => { p with stageOn := true, vin := vin, low := false } else s)
def execRailsGood (s : State) : Host.Outcome State Fault Refusal :=
  .next (if s.pwr.stageOn then s.updPwr fun p => { p with railsGood := true } else s)
def execInternalResetRelease (twinPref boot enumHead : Bool) (s : State) : Host.Outcome State Fault Refusal :=
  .next (if s.pwr.railsGood ∧ ¬s.pwr.released ∧ ¬s.pwr.tripped then resetRelease twinPref boot enumHead s else s)

/-- R39, R44: an assertion in a trip is a trip restart, or ignored where the die is still hot. -/
def execResetNAssert (tj : BitVec 12) (s : State) : Host.Outcome State Fault Refusal :=
  .next (if s.pwr.tripped then (if signed 12 tj.toNat < restartTemp then tripRestart s else s)
    else (coldReset s).updPwr fun p => { p with resetN := false })

/-- R524: the keeper PLL locks on XO_IN and OCLK runs; the head of the chain takes its address (R528). -/
def execKeeperLock (s : State) : Host.Outcome State Fault Refusal :=
  .next (if s.pwr.ovenUp ∧ s.pwr.released ∧ s.pwr.xoIn ∧ ¬s.pwr.oclkUp then
      let s1 := s.updPwr fun p => { p with oclkUp := true }
      if s.boot.enumHead then takeUnit 0 s1 else s1
    else s)
/-- R524: with XO_IN present. -/
def execMainDomainRelease (s : State) : Host.Outcome State Fault Refusal :=
  .next (if s.pwr.oclkUp ∧ s.pwr.released ∧ s.pwr.xoIn ∧ ¬s.pwr.mainUp then mainRelease s else s)
def execWarnAssert (vin : Nat) (s : State) : Host.Outcome State Fault Refusal :=
  whenOven s fun s => if vin < warnLevel s ∧ ¬s.flag F.PWR_LIVE_WARN_ACTIVE then warnAssert vin s else s
def execWarnClear (vin vinMin oclk : Nat) (s : State) : Host.Outcome State Fault Refusal :=
  whenOven s fun s => if warnLevel s + 200 < vin then warnClear vin vinMin oclk s else s

/-- R33, R309: the flag clears, and a run that the dip abandoned is started again. -/
def execEvtFlagClear (s : State) : Host.Outcome State Fault Refusal :=
  whenOven s fun s =>
    if s.flag F.PWR_LIVE_WARN_ACTIVE ∨ ¬s.flag F.PWR_LIVE_EVT_FLAG then s
    else
      let s1 := s.setFlag F.PWR_LIVE_EVT_FLAG false
      if s1.prf.restart then prfTrigger 3 (s1.updPrf fun p => { p with restart := false }) else s1
def execSupplyReset (vin : Nat) (s : State) : Host.Outcome State Fault Refusal :=
  .next (if vin < 4800 ∧ (s.pwr.stageOn ∨ s.pwr.ovenUp) then supplyReset vin s else s)

/-- R36: VIN is back above the start level; in a trip the stage stays off (R44). -/
def execSupplyRestart (vin : Nat) (s : State) : Host.Outcome State Fault Refusal :=
  whenOven s fun s =>
    if 5900 < vin ∧ ¬s.pwr.stageOn then
      let s1 := s.updPwr fun p => { p with vin := vin, low := false }
      if s.pwr.tripped then s1 else retainedStart s1
    else s
def execOvenIslandStop (holdup : Nat) (s : State) : Host.Outcome State Fault Refusal :=
  whenOven s fun s => if holdup < 3000 ∧ s.pwr.vin < 4800 then stageOff (coldReset s) else s
def execHoldupReady (holdup : Nat) (s : State) : Host.Outcome State Fault Refusal :=
  whenOven s fun s => if 11500 ≤ holdup then s.setFlag F.PWR_LIVE_HOLDUP_READY true else s

/-- R26, R51: the estimate, in units of 10 µF, rounded down and held at the field's greatest value (log 12). -/
def execHoldupCapEstimate (uF : Nat) (s : State) : Host.Outcome State Fault Refusal :=
  whenOven s fun s =>
    let s1 := if s.pwr.mainUp then s.setFld F.PWR_HOLDUP_CAP (min (uF / 10) 0xFFFF) else s
    if uF < 4700 then raisePwr F.PWR_INT_STATUS_HOLDUP_LOW s1 else s1
def execHoldupLow (holdup : Nat) (s : State) : Host.Outcome State Fault Refusal :=
  whenOven s fun s =>
    if holdup < 11500 ∧ s.flag F.PWR_LIVE_HOLDUP_READY ∧ warnLevel s < s.pwr.vin then
      raisePwr F.PWR_INT_STATUS_HOLDUP_LOW s
    else s

/-- R30: the level is stored within its range; the crossing it may make is a WARN_ASSERT or a WARN_CLEAR of its own, after the count
of R29. -/
def execPwrWarnLevelWrite (ag : Agent) (d : Word) (s : State) : Host.Outcome State Fault Refusal :=
  whenMain s (regWrite ag Reg.PWR_WARN_LEVEL Rd.PWR_WARN_LEVEL noAct allBits d)
def execPwrMeasureUpdate (vin iin pin holdup : BitVec 16) (rails : List (BitVec 16)) (s : State) :
    Host.Outcome State Fault Refusal :=
  whenMain s fun s =>
    let s1 := (s.setReg Reg.PWR_VIN (vin.setWidth 32)).setReg Reg.PWR_IIN (iin.setWidth 32)
    let s2 := (s1.setReg Reg.PWR_PIN (pin.setWidth 32)).setFld F.PWR_HOLDUP_VOLT holdup.toNat
    (s2.setRegs (Reg.PWR_RAIL_V 0) ((rails.take 16).map (·.setWidth 32))).updPwr fun p => { p with vin := vin.toNat }
def execTempUpdate (sensors : List (BitVec 12)) (s : State) : Host.Outcome State Fault Refusal := whenMain s (tempUpdate sensors)

/-- R44: every rail but the oven island's shuts down. While the oven island is in reset, a reading changes nothing (log 12). -/
def execThermalTrip (tj : BitVec 12) (s : State) : Host.Outcome State Fault Refusal :=
  .next (if tripTemp ≤ signed 12 tj.toNat ∧ s.pwr.ovenUp ∧ ¬s.pwr.tripped then
      (stageOff (mainReset .trip s)).updPwr fun p => { p with tripped := true }
    else s)
def execTripRestart (tj : BitVec 12) (s : State) : Host.Outcome State Fault Refusal :=
  .next (if s.pwr.tripped ∧ signed 12 tj.toNat < restartTemp then tripRestart s else s)

end Sys2Proof.Machine
end

