-- ==== Sys2Proof/Machine/Tlm.lean ====
section
/-!
DEFINITION. Sys2Proof/Machine/Tlm.lean: what counts with the clock (13_telemetry_and_slot_accounting.md, R464 to R471, R484, R485), and the
sampling of queues (12_queues_scheduling_shaping.md, R454 to R456). The DMA engine is in Machine/Read.lean.
-/
namespace Sys2Proof.Machine

/-! ### Event counters (R464, R465) -/

/-- Store a 64-bit event counter. -/
def setEvt (k x : Nat) (s : State) : State := s.setReg64 (Reg.TLM_EVT_LO k) (Reg.TLM_EVT_HI k) (x % 2 ^ 64)
def evtReload (s : State) (k : Nat) : Nat := s.reg64 (Reg.TLM_EVT_RELOAD_LO k) (Reg.TLM_EVT_RELOAD_HI k)

def reloadBit (k : Nat) : BitVec 64 := BitVec.ofNat 64 (2 ^ k)
def clearReload (k : Nat) (s : State) : State := s.updTlm fun t => { t with reload := t.reload &&& ~~~(reloadBit k) }

/-- The reload that waits for counter k. -/
def evtReloadNow (k : Nat) (s : State) : State :=
  if s.tlm.reload.toNat.testBit k then setEvt k (evtReload s k) (clearReload k s) else s

/-- `n` PCLK cycles after its wrap with RELOAD, a counter of cycles: its value, and whether it has just wrapped again. -/
def afterWrap (v n : Nat) : Nat × Bool :=
  let period := 2 ^ 64 - v
  let k := (n - 1) % period + 1
  if n = 0 ∨ k = period then (0, true) else (v + k, false)

/-- Counter k passes `n` PCLK cycles: a waiting reload is carried out, and EVENT 10 counts them. -/
def evtCycles (n k : Nat) (s : State) : State :=
  let cyc := decide (s.fld (F.TLM_EVT_CFG_EVENT k) = 10)
  let waits := s.tlm.reload.toNat.testBit k
  if ¬cyc then evtReloadNow k s
  else
    let x := s.reg64 (Reg.TLM_EVT_LO k) (Reg.TLM_EVT_HI k)
    let from' : Option Nat := if waits then some n else if 2 ^ 64 ≤ x + n then some (x + n - 2 ^ 64) else none
    match from' with
    | some r =>
      if waits ∨ s.flag (F.TLM_EVT_CFG_RELOAD k) then
        let (y, again) := afterWrap (evtReload s k) r
        let wraps := !waits || decide (2 ^ 64 - evtReload s k ≤ r)
        let s1 := setEvt k y (clearReload k s)
        let s2 := if again then s1.updTlm fun t => { t with reload := t.reload ||| reloadBit k } else s1
        if wraps then
          (s2.raise F.TLM_EVT_INT_STATUS_CNT_OVF).raise ⟨if k < 32 then Reg.TLM_EVT_OVF0 else Reg.TLM_EVT_OVF1, k % 32, 1⟩
        else s2
      else evtBump k n s
    | none => evtBump k n s

/-! ### Threshold counters (R467) -/

/-- The occupancy that threshold counter k watches. -/
def thrOccupancy (s : State) (k : Nat) : Nat :=
  let i := s.fld (F.TLM_THR_CFG_INDEX k)
  match s.fld (F.TLM_THR_CFG_SRC k) with
  | 1 => s.fld (F.BUF_Q_OCC_SLICES i)
  | 2 => s.fld (F.BUF_POOL_USED_SLICES i)
  | 3 => 1048576 - s.fld F.BUF_FREE_FREE
  | 4 => smapGet zeroAt s.net.pgShared i
  | 5 => smapGet zeroAt s.net.pgHead i
  | _ => 0

/-- Counter k passes `n` cycles with the occupancies as they are. -/
def thrCycles (n k : Nat) (s : State) : State :=
  if s.fld (F.TLM_THR_CFG_SRC k) ≠ 0 ∧ s.fld (F.TLM_THR_N_N k) < thrOccupancy s k then
    s.bump64 (Reg.TLM_THR_LO k) n (some (F.TLM_THR_INT_STATUS_CNT_OVF (k / 128)))
  else s

/-! ### Slots (R468 to R471) -/

/-- Advance a slot counter. -/
def slotBump (a n : Nat) (s : State) : State := if n = 0 then s else s.bump64 a n (some F.TLM_SLOT_INT_STATUS_CNT_OVF)

/-- Whether a frame that could take a slot waits at pipeline n. -/
def frameWaits (s : State) (n : Nat) : Bool := s.frames.any fun x => decide (x.2.pipe = n ∧ x.2.phase = .arrived ∧ x.2.inj = 0)

/-- The 2n slots that leave the rewrite stage of pipeline `p` in `n` cycles; they count while accounting is on (R470). -/
def slotCycles (n p : Nat) (s : State) : State :=
  let l := smapGet noSlots s.tlm.slots p
  let used := l.take (2 * n)
  let fwd := (used.filter id).length
  let empty := 2 * n - used.length
  let back := frameWaits s p
  let s1 := s.updTlm fun t => { t with slots := smapSet noSlots t.slots p (l.drop (2 * n)) }
  if ¬s1.flag F.TLM_SLOT_CMD_EN then s1
  else
  let s2 := slotBump (Reg.TLM_SLOT_DISC_LO p) (used.length - fwd) (slotBump (Reg.TLM_SLOT_FWD_LO p) fwd
    (slotBump (Reg.TLM_SLOT_CYCLES_LO p) n s1))
  slotBump (if back then Reg.TLM_SLOT_SB_LO p else Reg.TLM_SLOT_SF_LO p) empty s2

/-- Everything of TLM that passes `n` PCLK cycles. -/
def tlmCycles (n : Nat) (s : State) : State :=
  if n = 0 then s
  else
    forUpto 24 (slotCycles n) (forUpto 256 (thrCycles n) (forUpto 64 (evtCycles n) s))

/-- SNAP (R470). -/
def slotSnap (s : State) : State :=
  let s1 := forUpto 24 (fun p s => forUpto 12 (fun i s =>
    s.setReg (Reg.TLM_SNAP_CYCLES_LO p + i) (s.reg (Reg.TLM_SLOT_CYCLES_LO p + i))) s) s
  (s1.setRegs (Reg.TLM_SLOT_SNAP_TIME 0) (recordNow s)).raise F.TLM_SLOT_INT_STATUS_SNAP_DONE

/-- CLEAR (R470). -/
def slotClear (s : State) : State :=
  forUpto 24 (fun p s => forUpto 12 (fun i s => s.setReg (Reg.TLM_SLOT_CYCLES_LO p + i) 0) s) s

/-- What a write of `TLM_SLOT_CMD` sets off. -/
def actSlotCmd (_old raw : Word) (s : State) : State :=
  let s1 := if bit raw 1 then slotSnap s else s
  if bit raw 2 then slotClear s1 else s1

/-! ### Sampling rings (R454 to R456) -/

/-- The lowest sampled queue from `g` up. -/
def nextSampled (s : State) (g : Nat) : Option Nat :=
  (s.ind.find? fun p => decide (indKey 7 (8 * g) ≤ p.1 ∧ p.1 < indKey 7 0xC000 ∧ p.1 % 8 = 0) && bit p.2 1).map fun p =>
    (p.1 - indKey 7 0) / 8

/-- Write a record of 8 words to the ring; false where the ring is full. -/
def sampleRecord (ws : List Word) (s : State) : Bool × State :=
  let n := 2 ^ s.fld F.SCHD_SAMPLE_RING_LOG2
  let wr := s.fld F.SCHD_SAMPLE_WR_WR % n
  if (wr + 1) % n = s.fld F.SCHD_SAMPLE_RD_RD % n then
    (false, (s.bump32 Reg.SCHD_SAMPLE_DROP 1 (some F.SCHD_INT_STATUS_CNT_OVF)).raise F.SCHD_INT_STATUS_RING_FULL)
  else
    (true, (s.setSramBytes (s.fld F.SCHD_SAMPLE_BASE_BASE / 64 * 64 + 32 * wr) (wordBytes ws)).setFld F.SCHD_SAMPLE_WR_WR
      ((wr + 1) % n))

/-- The walk goes on to the next sampled queue from `g` up, or completes. -/
def walkTo (g : Nat) (s : State) : State :=
  match nextSampled s g with
  | some h => s.updNet fun n => { n with walk := some h }
  | none => (s.updNet fun n => { n with walk := none }).raise F.SCHD_INT_STATUS_WALK_DONE

/-- A period boundary (R455). -/
def walkStart (s : State) : State :=
  if ¬s.flag F.SCHD_SAMPLE_CTRL_EN then s
  else if s.net.walk.isSome then
    (s.bump32 Reg.SCHD_SAMPLE_OVERRUN 1 (some F.SCHD_INT_STATUS_CNT_OVF)).raise F.SCHD_INT_STATUS_SAMPLE_OVERRUN
  else
    let s1 := s.updNet fun n => { n with walks := n.walks + 1 }
    let ws := [BitVec.ofNat 32 (2 ^ 28 + s1.net.walks % 2 ^ 16), 0] ++ recordNow s ++ [0, 0]
    walkTo 0 (sampleRecord ws s1).2

/-- The record of queue g (R456). -/
def queueRecord (g : Nat) (s : State) : List Word :=
  let r := s.sample g
  let age := match s.queue g with
    | id :: _ => (s.frame? id).elim 0 fun f => min (2 ^ 24 - 1) (pclk s - f.admAt)
    | [] => 0
  [BitVec.ofNat 32 (2 * 2 ^ 28 + g + flagAt (r.sat || decide (r.last = 2 ^ 24 - 1)) 13),
   BitVec.ofNat 32 (s.fld (F.BUF_Q_OCC_SLICES g)), BitVec.ofNat 32 r.last, BitVec.ofNat 32 r.max, BitVec.ofNat 32 r.deq,
   BitVec.ofNat 32 age, 0, 0]

/-- The next record of a walk. -/
def sampleQueue (s : State) : State :=
  match s.net.walk with
  | none => s
  | some from' =>
    match nextSampled s from' with
    | none => walkTo from' s
    | some g =>
      let (ok, s1) := sampleRecord (queueRecord g s) s
      walkTo (g + 1) (if ok then s1.updSample g fun r => { r with max := 0, sat := false, deq := 0 } else s1)

/-- What a write of `SCHD_SAMPLE_CTRL` sets off: walks count from the rise of EN. -/
def actSampleCtrl (old raw : Word) (s : State) : State :=
  if bit raw 16 ∧ ¬bit old 16 then s.updNet fun n => { n with walks := 0 } else s

/-! ### Commands -/

def execWalkStart (s : State) : Host.Outcome State Fault Refusal := whenMain s walkStart
def execSampleQueueRecord (s : State) : Host.Outcome State Fault Refusal := whenMain s sampleQueue
def execEvtCounterReload (k : Fin 64) (s : State) : Host.Outcome State Fault Refusal := whenMain s (evtReloadNow k)

/-- A write of `TLM_SLOT_CMD`. -/
def slotCmdWrite (ag : Agent) (d : Word) (s : State) : Host.Outcome State Fault Refusal :=
  whenMain s (regWrite ag Reg.TLM_SLOT_CMD Rd.TLM_SLOT_CMD actSlotCmd allBits d)
def execSlotEnWrite (ag : Agent) (d : Word) (s : State) : Host.Outcome State Fault Refusal := slotCmdWrite ag d s
def execSlotSnap (ag : Agent) (d : Word) (s : State) : Host.Outcome State Fault Refusal := slotCmdWrite ag (d ||| 2) s
def execSlotClear (ag : Agent) (d : Word) (s : State) : Host.Outcome State Fault Refusal := slotCmdWrite ag (d ||| 4) s

end Sys2Proof.Machine
end

