-- ==== Sys2Proof/Machine/Read.lean ====
section
/-!
DEFINITION. Sys2Proof/Machine/Read.lean: the value of a direct register as it is read, and the dumps and record copies of the telemetry
DMA (13_telemetry_and_slot_accounting.md, R478 to R483).
-/
namespace Sys2Proof.Machine

/-! ### Registers formed when they are read -/

def State.updWin (s : State) (k : Nat) (f : WinSt → WinSt) : State :=
  { s with hst := { s.hst with win := smapSet winReset s.hst.win k (f (s.win k)) } }

/-- The writes that wait in a window's FIFO; reads take no entry (R78). -/
def isWrite : WinEntry → Bool
  | .write .. => true
  | .read .. => false
def fifoLevel (w : WinSt) : Nat := (w.fifo.filter isWrite).length

/-- A window has an access in flight, or writes that wait (R78). -/
def winBusy (s : State) (k : Nat) : Bool :=
  let w := s.win k
  decide (fifoLevel w ≠ 0) || w.taking || (match w.launch with
    | some l => l.word.isNone
    | none => false)

/-- The word `i` of the oldest result of the external channel (R231). -/
def extWord (s : State) (i : Nat) : Word :=
  match s.met.ext.fifo with
  | [] => 0
  | r :: _ =>
    if i < 4 then nth 0 r.start i
    else if i < 8 then nth 0 r.stop (i - 4)
    else if i = 8 then BitVec.ofNat 32 r.interval
    else if i = 9 then BitVec.ofNat 32 (r.interval / 2 ^ 32)
    else BitVec.ofNat 32 r.flags


/-- A word with bits from a live condition. -/
def withBits (w : Word) (lo n x : Nat) : Word := putBits w lo n x
def withFlag (w : Word) (i : Nat) (b : Bool) : Word := putBits w i 1 (if b then 1 else 0)

/-- The value of a register that is formed when it is read: its kind, its index in its array, its address. TBASE_LIVE shows DEGRADED and
HOLDOVER of the loop's state from the release of the main domain, whatever the reset column of R193 says (DESIGN CHOICE, log 10). -/
def liveWord (k : Live) (i a : Nat) (s : State) : Word :=
  let r := s.reg a
  let backup := s.flag F.LOOP_STATUS_LANE_BACKUP
  match k with
  | .none => r
  | .indStatus => withBits (withFlag r 0 (winBusy s i)) 8 5 (fifoLevel (s.win i))
  | .irqBlock => BitVec.ofNat 32 ((upto 22).map fun b => flagAt (blockAsserts s (b + 1)) b).sum
  | .irqPend => BitVec.ofNat 32 ((upto 32).map fun j => flagAt (pageAsserts s (32 * i + j)) j).sum
  | .mboxRd => mboxHead s i
  | .mboxState => mboxState s i
  | .quadStatus => withFlag (withFlag r 0 (s.pllLocked (i / 32))) 1 backup
  | .laneStatus => withFlag r 14 backup
  | .alnStatus => withFlag (withFlag r 9 (s.pllLocked 6)) 10 backup
  | .tbLive => withFlag (withFlag r 1 (degraded s)) 2 (inHoldover s)
  | .txtsLevel => BitVec.ofNat 32 s.tb.fifo.length
  | .txtsRec => match s.tb.fifo with
    | x :: _ => nth 0 x.words i
    | [] => 0
  | .txtsTag => match s.tb.fifo with
    | x :: _ => BitVec.ofNat 32 (x.tag + x.port * 2 ^ 16)
    | [] => 0
  | .metTcnt => BitVec.ofNat 32 (tcnt s)
  | .extStatus => withBits (withFlag r 1 (decide (s.met.ext.phase ≠ .idle))) 2 5 s.met.ext.fifo.length
  | .extRes => extWord s i
  | .portLive => withBits r 8 8 (if portActive s i then
      ((upto (portLanes s i)).map fun j => flagAt (s.flag (F.DLN_LANE_STATUS_ALIGNED (portFirst s i + j))) j).sum else 0)
  | .fwdStage => BitVec.ofNat 32 (s.net.staged.length + flagAt (decide (s.net.commit ≠ 0)) 16)
  | .hinjCmd => BitVec.ofNat 32 (flagAt (hinjBusy s) 1 + s.net.hostData.length % 2 ^ 12 * 4)
  | .schdStatus => withFlag r 0 (activeB s i)
  | .schdQstate => BitVec.ofNat 32 (((upto 16).map fun q =>
      flagAt (!(s.queue (16 * i + q)).isEmpty) q +
      flagAt (!(s.queue (16 * i + q)).isEmpty && queueHeld s i q) (16 + q)).sum)
  | .pclk => BitVec.ofNat 32 (if a = Reg.TLM_PCLK_LO then pclk s else pclk s / 2 ^ 32)
  | .hrthFuse => fuseWord s
  | .tapStatus => BitVec.ofNat 32 (s.tap.ir.toNat + flagAt (boardTest s) 8)

/-- A word of direct space without any side effect; 0 where there is none. -/
def peek (s : State) (a : Nat) : Word :=
  match regDef? a with
  | some (d, i) => liveWord d.live i a s
  | none => 0

/-! ### The rings of the DMA (R478 to R481) -/

/-- The function that the engine writes as, and whether it may. -/
def dmaFunc (s : State) : Nat := s.fld F.TLM_DMA_CTRL_FUNC
def dmaOpen (s : State) : Bool := (s.msix (dmaFunc s)).busMaster

/-- Write 32-bit words to host memory, each low byte first (log 4). -/
def hostWords (a : Nat) (ws : List Word) (s : State) : State := s.setHostBytes (a % 2 ^ 64) (wordBytes ws)

/-- The write-back of the pointers. -/
def writeBack (s : State) : State :=
  hostWords (s.reg64 Reg.TLM_DMA_WB_LO Reg.TLM_DMA_WB_HI / 8 * 8) [s.reg Reg.TLM_DMA_CWR, s.reg Reg.TLM_DMA_TWR] s

/-- A ring of 2^log entries is full: WR + 1 is RD (R296). -/
def ringFull (log wr rd : Nat) : Bool := decide ((wr + 1) % 2 ^ log = rd % 2 ^ log)
def dumpRingFull (s : State) : Bool := ringFull (s.fld F.TLM_DMA_RING_CLOG2) (s.fld F.TLM_DMA_CWR_WR) (s.fld F.TLM_DMA_CRD_RD)
def tagRingFull (s : State) : Bool := ringFull (s.fld F.TLM_DMA_RING_TLOG2) (s.fld F.TLM_DMA_TWR_WR) (s.fld F.TLM_DMA_TRD_RD)

/-- The listed words, in list order; words past the end of a page read 0. -/
def listWords (s : State) : List Word :=
  (upto 32).flatMap fun k =>
    let f := s.fld (F.TLM_DMA_LIST_FIRST k)
    (upto (s.fld (F.TLM_DMA_LIST_COUNT k))).map fun j =>
      if f + j < 1024 then peek s (1024 * s.fld (F.TLM_DMA_LIST_PAGE k) + f + j) else 0

/-- A dump block (R480). -/
def dumpBlock (s : State) : List Word :=
  let ws := listWords s
  [BitVec.ofNat 32 (s.tlm.dumps % 2 ^ 16 + flagAt (decide (1008 < ws.length)) 16), BitVec.ofNat 32 (min 1008 ws.length)] ++
    recordNow s ++ [BitVec.ofNat 32 (pclk s), BitVec.ofNat 32 (pclk s / 2 ^ 32), 0, 0, 0, 0, 0, 0, 0, 0] ++ ws.take 1008

/-- A block goes to the counter ring, and the pointers after it. -/
def dumpOut (ws : List Word) (s : State) : State :=
  let wr := s.fld F.TLM_DMA_CWR_WR
  let n := 2 ^ s.fld F.TLM_DMA_RING_CLOG2
  let s1 := hostWords (s.reg64 Reg.TLM_DMA_CBASE_LO Reg.TLM_DMA_CBASE_HI / 4096 * 4096 + 4096 * (wr % n)) ws s
  (writeBack (s1.setFld F.TLM_DMA_CWR_WR ((wr + 1) % n))).raise F.TLM_INT_STATUS_DUMP_DONE

/-- A period boundary (R479). -/
def dumpStart (s : State) : State :=
  if ¬s.flag F.TLM_DMA_CTRL_DUMP_EN then s
  else if ¬s.tlm.held.isEmpty ∨ dumpRingFull s then
    (s.bump32 Reg.TLM_DMA_SKIP 1 (some F.TLM_INT_STATUS_CNT_OVF)).raise F.TLM_INT_STATUS_DUMP_SKIP
  else
    let s1 := (if s.flag F.TLM_DMA_CTRL_SNAP_EN then slotSnap s else s).updTlm fun t => { t with dumps := t.dumps + 1 }
    if dmaOpen s1 then dumpOut (dumpBlock s1) s1
    else (s1.updTlm fun t => { t with held := dumpBlock s1 }).raise F.TLM_INT_STATUS_DMA_BLOCKED

/-- A record goes to the tag ring, or is lost to it. -/
def tagOut (r : Nat) (s : State) : State :=
  if tagRingFull s then
    (s.bump32 Reg.TLM_DMA_TDROP 1 (some F.TLM_INT_STATUS_CNT_OVF)).raise F.TLM_INT_STATUS_TAG_RING_FULL
  else
    let wr := s.fld F.TLM_DMA_TWR_WR
    let n := 2 ^ s.fld F.TLM_DMA_RING_TLOG2
    let s1 := hostWords (s.reg64 Reg.TLM_DMA_TBASE_LO Reg.TLM_DMA_TBASE_HI / 128 * 128 + 128 * (wr % n))
      ((upto 32).map fun w => s.indw 8 (tagWord r w)) s
    writeBack (s1.setFld F.TLM_DMA_TWR_WR ((wr + 1) % n))

/-- A closed record is copied (R481). -/
def tagCopy (r : Nat) (s : State) : State :=
  if ¬s.flag F.TLM_DMA_CTRL_TAG_EN ∨ ¬s.tlm.closed.contains r then s
  else
    let s1 := s.updTlm fun t => { t with closed := t.closed.filter (· != r) }
    if dmaOpen s1 then tagOut r s1
    else (s1.updTlm fun t => { t with waiting := t.waiting ++ [r] }).raise F.TLM_INT_STATUS_DMA_BLOCKED

/-- The engine takes up the work that it holds. -/
def dmaResume (s : State) : State :=
  if ¬dmaOpen s then s
  else
    let s1 := if s.tlm.held.isEmpty then s else dumpOut s.tlm.held (s.updTlm fun t => { t with held := [] })
    s1.tlm.waiting.foldl (fun s r => tagOut r s) (s1.updTlm fun t => { t with waiting := [] })

/-- What a write of `TLM_DMA_CTRL` sets off: SEQ counts from the rise of DUMP_EN; held work goes on where FUNC names a function that
may write. -/
def actDmaCtrl (old raw : Word) (s : State) : State :=
  dmaResume (if bit raw 16 ∧ ¬bit old 16 then s.updTlm fun t => { t with dumps := 0 } else s)

/-- Bus Master Enable of a function is set, and with `msix` its MSI-X Enable too. -/
def masterOn (f : Nat) (msix : Bool) (s : State) : State :=
  let s1 := s.updMsix f fun m => { m with busMaster := true, enable := m.enable || msix }
  dmaResume (if msixOn s1 f ∧ ¬msixOn s f then msixStart f s1 else s1)

/-! ### Commands -/

def execDump (s : State) : Host.Outcome State Fault Refusal := whenMain s dumpStart
def execTagRecordCopy (r : Nat) (s : State) : Host.Outcome State Fault Refusal := whenMain s (tagCopy r)
def execDmaResume (f : Fin 2) (s : State) : Host.Outcome State Fault Refusal := whenMain s (masterOn f false)
def execMsixEnable (f : Fin 2) (s : State) : Host.Outcome State Fault Refusal := whenMain s (masterOn f true)

end Sys2Proof.Machine
end

