-- ==== Sys2Proof/Machine/SkySignal.lean ====
section
/-!
DEFINITION. Sys2Proof/Machine/SkySignal.lean: what the sky receiver computes of samples, bits and symbols (07_sky_reference_receiver.md, R281,
R287, R290, R293, R294): sample values, replicas and correlators, the parity of LNAV words, the decoder and the CRC of I/NAV pages.
-/
namespace Sys2Proof.Machine

/-! ### Samples (R281, R283) -/

/-- The value of a 2-bit component: sign in bit 1, magnitude in bit 0. -/
def compValue (b : Nat) : Int := (1 - 2 * ((b / 2 % 2 : Nat) : Int)) * (1 + 2 * ((b % 2 : Nat) : Int))

/-- Whether a signal lies in the L5/E5a band. -/
def inL5 (sig : Nat) : Bool := !decide (sig = 1 ∨ sig = 4 ∨ sig = 5)

/-- A sample of a band as the correlators take it, under a value of SKY_CTRL: I and Q, zeros of a band that is not enabled. `v` holds
SKY1_I in [1:0], SKY1_Q in [3:2], SKY5_I in [5:4], SKY5_Q in [7:6]. -/
def sampleOf (l5 : Bool) (ctrl : Word) (v : BitVec 8) : Int × Int :=
  let x := if l5 then v.toNat / 16 else v.toNat
  if bit ctrl (if l5 then 2 else 1) then
    (compValue (x % 4), if bit ctrl (if l5 then 4 else 3) then -(compValue (x / 4 % 4)) else compValue (x / 4 % 4))
  else (0, 0)

/-! ### Replicas and correlators (R287, R290) -/

/-- Chips of the primary code, and chips of a dump, of a signal. -/
def codeChips (sig : Nat) : Nat := match sig with
  | 1 => 1023
  | 4 => 4092
  | 5 => 4092
  | _ => 10230
def dumpChips (sig : Nat) : Nat := match sig with
  | 1 => 1023
  | 4 => 1023
  | 5 => 1023
  | _ => 10230

/-- The code replica of a signal at a code phase in 2^−32 chips: the chip's sign, on E1 with the BOC(1,1) subcarrier, which is negative in
the second half of a chip (log 21). -/
def codeReplica (sig prn phase : Nat) : Int :=
  let chip : Int := if Config.primaryCode sig prn (phase / 2 ^ 32) then -1 else 1
  if (sig = 4 ∨ sig = 5) ∧ 2 ^ 31 ≤ phase % 2 ^ 32 then -chip else chip

/-- The carrier replica at a carrier phase in 2^−32 cycles: 3 bits of phase, amplitudes of ±1 and ±2. -/
def carrierReplica (phase : Nat) : Int × Int :=
  let b := (Config.carrierBits (phase % 2 ^ 32 / 2 ^ 29)).toNat
  let amp (x : Nat) : Int := (1 - 2 * ((x / 2 % 2 : Nat) : Int)) * (1 + ((x % 2 : Nat) : Int))
  (amp b, amp (b / 4))

/-- By how much the replicas VE, E, P, L, VL lead, in 1/32 chip. -/
def corrArms (x : ChanSt) : List Int := [(x.veSp : Int), (x.eSp : Int), 0, -(x.eSp : Int), -(x.veSp : Int)]

/-- An accumulator of 24 bits, saturating. -/
def sat24 (v : Int) : Int := clampInt (-((2 ^ 23 : Nat) : Int)) ((2 ^ 23 - 1 : Nat) : Int) v

/-- One sample, `j` samples into the accumulation, joins the five complex sums. -/
def corrStep (x : ChanSt) (j : Nat) (v : Int × Int) (acc : List (Int × Int)) : List (Int × Int) :=
  let chips : Nat := codeChips x.signal * 2 ^ 32
  let (c, q) := carrierReplica (((x.carr : Int) + (j : Int) * (x.carrInc : Int)) % ((2 ^ 32 : Nat) : Int)).toNat
  let a := v.1 * c - v.2 * q
  let b := v.1 * q + v.2 * c
  (acc.zip (corrArms x)).map fun y =>
    let r := codeReplica x.signal x.prn ((((x.code + j * x.codeInc : Nat) : Int) + y.2 * ((2 ^ 27 : Nat) : Int)) % (chips : Int)).toNat
    (sat24 (y.1.1 + r * a), sat24 (y.1.2 + r * b))

/-- The sums of an accumulation from its sample `j` on. -/
def correlate (x : ChanSt) : Nat → List (Int × Int) → List (Int × Int) → List (Int × Int)
  | _, [], acc => acc
  | j, v :: vs, acc => correlate x (j + 1) vs (corrStep x j v acc)

/-! ### LNAV (R293) -/

/-- Bit `i` of the 30 of a word, 1 first. -/
def wordBit (w i : Nat) : Nat := w / 2 ^ (30 - i) % 2

/-- The parity bits D25 to D30 of a word under IS-GPS-200, from the previous word's D29 and D30 (log 21). -/
def lnavParity (d29 d30 w : Nat) : Nat :=
  let x := fun i => (wordBit w i + d30) % 2
  let p := fun (seed : Nat) (is : List Nat) => (is.map x).foldl (· + ·) seed % 2
  [p d29 [1, 2, 3, 5, 6, 10, 11, 12, 13, 14, 17, 18, 20, 23],
   p d30 [2, 3, 4, 6, 7, 11, 12, 13, 14, 15, 18, 19, 21, 24],
   p d29 [1, 3, 4, 5, 7, 8, 12, 13, 14, 15, 16, 19, 20, 22],
   p d30 [2, 4, 5, 6, 8, 9, 13, 14, 15, 16, 17, 20, 21, 23],
   p d30 [1, 3, 5, 6, 7, 9, 10, 14, 15, 16, 17, 18, 21, 22, 24],
   p d29 [3, 5, 6, 8, 9, 10, 11, 13, 15, 19, 22, 23, 24]].foldl (fun a b => 2 * a + b) 0

/-- Bits as a number, the newest first in the list and the least significant in the number. -/
def bitsNat (bs : List Bool) : Nat := bs.foldr (fun b n => 2 * n + (if b then 1 else 0)) 0

/-- A word parity-checked with the two bits before it: the latest `30 + 2` bits of a list, newest first. -/
def lnavChecks (bs : List Bool) : Bool :=
  let w := bitsNat (bs.take 30)
  let p := bitsNat ((bs.drop 30).take 2)
  decide (lnavParity (p / 2) (p % 2) w = w % 64)

/-- Whether the latest 62 bits are two bits, a TLM word and a HOW word: the preamble or its complement, both passing parity. -/
def lnavFrame (bs : List Bool) : Bool :=
  let tlm := bitsNat ((bs.drop 30).take 30) / 2 ^ 22
  decide (62 ≤ bs.length) && (decide (tlm = 0b10001011) || decide (tlm = 0b01110100)) && lnavChecks (bs.drop 30) && lnavChecks bs

/-- The sign changes of 2,000 successive prompts at each of the 20 dump positions; `n` is the number of the newest dump. -/
def signChanges (n : Nat) (ps : List Int) : List Nat :=
  let pairs := ps.zip (ps.drop 1)
  (upto 20).map fun k =>
    ((pairs.zip (upto pairs.length)).filter fun y =>
      decide ((n + 20 * pairs.length - y.2) % 20 = k) && (decide (y.1.1 < 0) != decide (y.1.2 < 0))).length

/-- The position that bit sync accepts: the most changes, at least 8, and at least twice those of any other. -/
def syncPosition (counts : List Nat) : Option Nat :=
  let m := counts.foldl max 0
  match (upto counts.length).filter fun k => decide (m < 2 * nth 0 counts k) with
  | [k] => if 8 ≤ m ∧ nth 0 counts k = m then some k else none
  | _ => none

/-! ### I/NAV (R294) -/

/-- CRC-24Q over a bit string, first bit highest (log 21). -/
def crc24q (n bits : Nat) : Nat :=
  (upto n).foldl (fun r i =>
    let b := bits / 2 ^ (n - 1 - i) % 2
    let f := (r / 2 ^ 23 + b) % 2
    if f = 1 then (r * 2 % 2 ^ 24) ^^^ 0x864CFB else r * 2 % 2 ^ 24) 0

/-- The sync pattern 0b0101100000 of a page part, or its complement, as the latest ten symbols, newest first; a negative sum is a 1. -/
def partPattern (inv : Bool) (ss : List Int) : Bool :=
  decide (10 ≤ ss.length) && decide (bitsNat ((ss.take 10).map fun v => decide (v < 0)) = if inv then 0b1010011111 else 0b0101100000)

/-- The parity of a number's bits. -/
def parity7 (x : Nat) : Nat := ((upto 7).map fun i => x / 2 ^ i % 2).sum % 2

/-- The two symbols of an encoder register: G1 = 171 and G2 = 133 in octal, G2 inverted, newest bit highest (log 21). -/
def convSymbols (reg : Nat) : Bool × Bool := (decide (parity7 (reg &&& 0o171) = 1), decide (parity7 (reg &&& 0o133) = 0))

/-- One step of the decoder: the best path into each of 64 states, as its metric and its bits; of two as good the one that drops a 0. -/
def viterbiStep (a b : Int) (paths : List (Int × Nat)) : List (Int × Nat) :=
  (upto 64).map fun ns =>
    let go (x : Nat) : Int × Nat :=
      let reg := 2 * ns + x
      let (m, p) := nth (0, 0) paths (reg % 64)
      let (c, d) := convSymbols reg
      (m + (if c then -a else a) + (if d then -b else b), 2 * p + ns / 32)
    if (go 0).1 < (go 1).1 then go 1 else go 0

/-- The decoder over pairs of soft symbols. -/
def viterbi : List Int → List (Int × Nat) → List (Int × Nat)
  | a :: b :: r, paths => viterbi r (viterbiStep a b paths)
  | _, paths => paths

/-- The 120 bits of a page part from its 240 symbol sums, oldest first: de-interleaved as 30 columns by 8 rows, decoded from state 0 to
state 0. -/
def decodePart (sums : List Int) : Nat :=
  let soft := sums.map fun v => signed 4 (Config.softSymbol v).toNat
  let inOrder := (upto 240).map fun j => nth 0 soft (j % 8 * 30 + j / 8)
  (nth (0, 0) (viterbi inOrder ((0, 0) :: List.replicate 63 (-1000000, 0))) 0).2

end Sys2Proof.Machine
end

