-- ==== Sys2Proof/Machine/Sky.lean ====
section
/-!
DEFINITION. Sys2Proof/Machine/Sky.lean: the sky reference receiver (07_sky_reference_receiver.md, R281 to R306): the clock and the
sample count, channels, navigation data, the ring in Hearth SRAM, captures, fixes and deliveries to reference 20. A dump brings the
samples of its accumulation.
-/
namespace Sys2Proof.Machine

def chanReset (_ : Nat) : ChanSt := {}
def State.updSky (s : State) (f : SkySt → SkySt) : State := { s with sky := f s.sky }
def State.chan (s : State) (c : Nat) : ChanSt := smapGet chanReset s.sky.chans c
def State.updChan (s : State) (c : Nat) (f : ChanSt → ChanSt) : State :=
  s.updSky fun k => { k with chans := smapSet chanReset k.chans c (f (s.chan c)) }

/-- The word address of word `w` of a channel in domain 0x05. -/
def chanWord (c w : Nat) : Nat := c * 16 + w

/-! ### Validity (R299, R301) -/

/-- `TIME_VALID` clears: the run of passing fixes ends, and `SKY_TIME` freezes. -/
def clearTimeValid (s : State) : State :=
  let s1 := s.setFld F.SKY_FIX_STATUS_RUN 0
  if s.flag F.SKY_LIVE_TIME_VALID then
    ((s1.setFlag F.SKY_LIVE_TIME_VALID false).setFlag F.SKY_LIVE_TIME_STALE true).raise F.SKY_INT_STATUS_TIME_VALID_LOST
  else s1

/-- `LOCKED_COUNT`: enabled channels whose LOCK bit is set. -/
def showLocked (s : State) : State :=
  s.setFld F.SKY_LIVE_LOCKED_COUNT
    ((upto 64).filter fun c => (s.chan c).on && bit (s.indw 5 (chanWord c 0)) 11).length

/-! ### The ring (R296, R297) -/

/-- The free records of the ring. -/
def ringFree (s : State) : Nat :=
  let n := 2 ^ s.fld F.SKY_RING_LEN_LOG2
  (s.fld F.SKY_RING_RD_RD + 2 * n - 1 - s.fld F.SKY_RING_WR_WR % n) % n

/-- Pad a record to 16 words. -/
def padWords (n : Nat) (ws : List Word) : List Word := ws ++ List.replicate (n - ws.length) 0

/-- Write a record of 16 words, or drop it; a dump record leaves the last 16 free records. -/
def ringRecord (dump : Bool) (ws : List Word) (s : State) : State :=
  let n := 2 ^ s.fld F.SKY_RING_LEN_LOG2
  if ringFree s ≤ (if dump then 16 else 0) then
    (s.bump32 Reg.SKY_RING_DROP 1 (some F.SKY_INT_STATUS_CNT_OVF)).raise F.SKY_INT_STATUS_RING_FULL
  else
    let wr := s.fld F.SKY_RING_WR_WR % n
    let a := (s.fld F.SKY_RING_BASE_BASE / 64 * 64 + wr * 64) % 2 ^ 22
    (s.setSramBytes a (wordBytes (padWords 16 ws))).setFld F.SKY_RING_WR_WR ((wr + 1) % n)

/-! ### Channels (R287 to R291, R306) -/

/-- Whether a signal's band is enabled. -/
def bandOn (s : State) (sig : Nat) : Bool :=
  if sig = 1 ∨ sig = 4 ∨ sig = 5 then s.flag F.SKY_CTRL_L1_EN else s.flag F.SKY_CTRL_L5_EN

/-- Whether a channel may start (R288). -/
def chanOk (s : State) (sig prn : Nat) : Bool :=
  decide (sig ≠ 0 ∧ 1 ≤ prn ∧ prn ≤ (if sig ≤ 3 then 63 else 50)) && bandOn s sig

/-- Take the written increments and spacing. -/
def takeNco (c : Nat) (new : Bool) (s : State) : State :=
  s.updChan c fun x => { x with
    codeInc := (s.indw 5 (chanWord c 2)).toNat, carrInc := signed 32 (s.indw 5 (chanWord c 3)).toNat,
    eSp := s.ifld 5 (chanWord c 1) 0 5, veSp := s.ifld 5 (chanWord c 1) 8 5, dirty := false, ncoNew := new }

/-- The code and the carrier phase of a channel that runs, at the present sample count; of another one those at which it stopped (R306). -/
def livePhases (s : State) (c : Nat) : Word × Word :=
  let x := s.chan c
  if x.on then
    let k := ((s.reg Reg.SKY_SAMPLE_COUNT).toNat + 2 ^ 32 - x.count) % 2 ^ 32
    let n := if k < 2 ^ 31 then k else 0
    (BitVec.ofNat 32 ((x.code + n * x.codeInc) % (codeChips x.signal * 2 ^ 32) / 2 ^ 16),
     BitVec.ofNat 32 (toBits 48 ((x.carr : Int) + (n : Int) * x.carrInc) / 2 ^ 16))
  else (s.indw 5 (chanWord c 8), s.indw 5 (chanWord c 9))

/-- A word of domain 0x05 as it is read. -/
def chanRead (s : State) (waddr : Nat) : Word :=
  match waddr % 16 with
  | 8 => (livePhases s (waddr / 16)).1
  | 9 => (livePhases s (waddr / 16)).2
  | _ => s.indw 5 waddr

/-- The navigation state of a channel that has none yet. -/
def navClear (x : ChanSt) : ChanSt :=
  { x with dumps := 0, prompts := [], bitPos := 0, acc := 0, accN := 0, bits := [], syms := [], skip := 0, even := none, word := 0,
           fails := 0 }

/-- A channel stops at once: its navigation state clears, a dump in progress is discarded. -/
def chanStop (c : Nat) (s : State) : State :=
  let (code, carr) := livePhases s c
  let s1 := (s.setIndw 5 (chanWord c 8) code).setIndw 5 (chanWord c 9) carr
  showLocked (((s1.setIfld 5 (chanWord c 0) 0 1 0).setIndw 5 (chanWord c 11) 0).updChan c fun x =>
    { navClear x with on := false, ncoNew := false })

/-- A channel starts at the present sample count (R289). -/
def chanStart (c : Nat) (s : State) : State :=
  let w := s.indw 5 (chanWord c 0)
  let sig := bits w 1 3
  let now := (s.reg Reg.SKY_SAMPLE_COUNT).toNat
  if ¬chanOk s sig (bits w 4 6) then
    (s.setIfld 5 (chanWord c 0) 0 1 0).raise F.SKY_INT_STATUS_CFG_REJECT
  else
    let s1 := takeNco c false s
    let lag := (now + 2 ^ 32 - (s.indw 5 (chanWord c 4)).toNat) % 2 ^ 32
    let code := ((s.indw 5 (chanWord c 5)).toNat * 2 ^ 16 + lag * (s1.chan c).codeInc) % (codeChips sig * 2 ^ 32)
    let s2 := s1.updChan c fun x =>
      { navClear x with on := true, signal := sig, prn := bits w 4 6, code := code, carr := 0, count := now }
    showLocked ((s2.setIndw 5 (chanWord c 10) 0).setIndw 5 (chanWord c 11) 0)

/-- A write of a word of a channel. -/
def chanWrite (waddr : Nat) (d : Word) (s : State) : State :=
  let c := waddr / 16
  match waddr % 16 with
  | 0 =>
    let s1 := s.setIndw 5 waddr (d &&& 0xFFF#32)
    if ¬bit d 0 then chanStop c s1
    else if (s.chan c).on then showLocked s1 else chanStart c s1
  | 1 =>
    if bits d 0 5 = 0 ∨ bits d 8 5 ≤ bits d 0 5 then s.raise F.SKY_INT_STATUS_CFG_REJECT
    else (s.setIndw 5 waddr (d &&& 0x1F1F#32)).updChan c fun x => { x with dirty := true }
  | 2 => (s.setIndw 5 waddr d).updChan c fun x => { x with dirty := true }
  | 3 => (s.setIndw 5 waddr d).updChan c fun x => { x with dirty := true }
  | 4 => s.setIndw 5 waddr d
  | 5 => s.setIndw 5 waddr d
  | _ => s

/-- The sample count reaches `n`; it never goes back (R283). -/
def sampleCount (n : BitVec 32) (s : State) : State :=
  if (n.toNat + 2 ^ 32 - (s.reg Reg.SKY_SAMPLE_COUNT).toNat) % 2 ^ 32 < 2 ^ 31 then
    (s.setReg Reg.SKY_SAMPLE_COUNT n).updSky fun k =>
      { k with gates := k.gates.filter fun g => decide ((n.toNat + 2 ^ 32 - g.1) % 2 ^ 32 < 2 ^ 31) }
  else s

/-- SKY_CTRL as it stood when sample `m` was taken: the oldest value kept that stood up to a count not before `m`, else the present one. -/
def ctrlAt (s : State) (m : Nat) : Word :=
  ((s.sky.gates.reverse.find? fun g => decide ((g.1 + 2 ^ 32 - m % 2 ^ 32) % 2 ^ 32 < 2 ^ 31)).map (·.2)).getD (s.reg Reg.SKY_CTRL)

/-- The samples that end with sample `n`, oldest first, each with its own count. -/
def countedTo {α : Type} (n : Nat) (vs : List α) : List (α × Nat) :=
  vs.zip ((upto vs.length).map fun i => n + 2 ^ 32 - (vs.length - 1 - i))

/-- The samples of an accumulation that ends with sample `n`, oldest first, as the correlators take them. -/
def takeSamples (s : State) (sig n : Nat) (vs : List (BitVec 8)) : List (Int × Int) :=
  (countedTo n vs).map fun y => sampleOf (inL5 sig) (ctrlAt s y.2) y.1

/-! ### Navigation data (R293, R294) -/

/-- NAV_EN of a channel, and its words BIT_SYNC, FRAME_SYNC and INV. -/
def navOn (s : State) (c : Nat) : Bool := bit (s.indw 5 (chanWord c 0)) 10
def navBit (s : State) (c i : Nat) : Bool := decide (s.ifld 5 (chanWord c 11) i 1 = 1)
def setNavBit (c i : Nat) (b : Bool) (s : State) : State := s.setIfld 5 (chanWord c 11) i 1 (if b then 1 else 0)

/-- How many bits, and symbols, a channel keeps until they are used. -/
def bitsKept : Nat := 362
def symsKept : Nat := 500

/-- The prompt I of a dump that ends with sample `n` joins a bit, whose 20 dumps begin at the position of bit sync. -/
def bitTake (p : Int) (n : Nat) (x : ChanSt) : ChanSt :=
  let y := if x.dumps % 20 = x.bitPos then { x with acc := p, accN := 1 }
    else if x.accN = 0 then x else { x with acc := x.acc + p, accN := x.accN + 1 }
  if y.accN = 20 then { y with bits := ((decide (y.acc < 0), n) :: y.bits).take bitsKept, acc := 0, accN := 0 } else y

/-- It joins a symbol, whose four dumps are those of a primary code period; `q` is the dump's place in it. -/
def symTake (p : Int) (n q : Nat) (x : ChanSt) : ChanSt :=
  if q = 0 then { x with acc := p, accN := 1 }
  else if x.accN ≠ q then { x with accN := 0 }
  else if q = 3 then { x with syms := ((x.acc + p, n) :: x.syms).take symsKept, acc := 0, accN := 0 }
  else { x with acc := x.acc + p, accN := q + 1 }

/-- What a dump adds to a channel's navigation state, with NAV_EN. -/
def navTake (p : Int) (n q : Nat) (synced : Bool) (x : ChanSt) : ChanSt :=
  if x.signal = 1 then (if synced then bitTake p n x else { x with prompts := (p :: x.prompts).take 2001 })
  else if x.signal = 4 then symTake p n q x
  else x

/-- A dump at sample count `n`, with the samples of its accumulation (R290, R297). The count must bring the code phase to its
next dump boundary. -/
def chanDump (c : Nat) (n : BitVec 32) (vs : List (BitVec 8)) (s : State) : State :=
  let x := s.chan c
  let k := (n.toNat + 2 ^ 32 - x.count) % 2 ^ 32
  let unit := dumpChips x.signal * 2 ^ 32
  let tot := x.code + k * x.codeInc
  if ¬x.on ∨ ¬s.flag F.SKY_CTRL_EN ∨ k = 0 ∨ vs.length ≠ k ∨ tot / unit ≠ x.code / unit + 1 ∨
      (tot - x.codeInc) / unit ≠ x.code / unit then s
  else
    let sums := correlate x 0 (takeSamples s x.signal n.toNat vs) (List.replicate 5 (0, 0))
    let prompt := (nth (0, 0) sums 2).1
    let code := tot % (codeChips x.signal * 2 ^ 32)
    let carr := toBits 48 ((x.carr : Int) + (k : Int) * x.carrInc)
    let synced := navBit s c 0
    let s1 := (sampleCount n s).updChan c fun x =>
      let y := if navOn s c then navTake prompt n.toNat (x.code / unit) synced x else x
      { y with code := code, carr := carr, count := n.toNat, dumps := x.dumps + 1 }
    let seq := (s.ifld 5 (chanWord c 10) 0 16 + 1) % 2 ^ 16
    let s2 := s1.setIndw 5 (chanWord c 10) (BitVec.ofNat 32 seq)
    let ws : List Word :=
      [BitVec.ofNat 32 (c + seq % 256 * 2 ^ 8 + flagAt x.ncoNew 16 + 2 ^ 28), n, BitVec.ofNat 32 (code / 2 ^ 16),
       BitVec.ofNat 32 (carr / 2 ^ 16)] ++ sums.flatMap fun y => [BitVec.ofNat 32 (toBits 32 y.1), BitVec.ofNat 32 (toBits 32 y.2)]
    let s3 := ringRecord true ws s2
    if x.dirty then takeNco c true s3 else s3.updChan c fun x => { x with ncoNew := false }

/-- A navigation record counts, and is written. -/
def navRecord (c : Nat) (pass : Bool) (ws : List Word) (s : State) : State :=
  let lo := if pass then 8 else 16
  let s1 := s.setIfld 5 (chanWord c 11) lo 8 (s.ifld 5 (chanWord c 11) lo 8 + 1)
  (ringRecord false ws s1).raiseIf (!pass && decide (ringFree s ≠ 0)) F.SKY_INT_STATUS_NAV_FAIL

/-- The record of the LNAV word that is the latest 30 bits of a list, with two bits before it: its place in the subframe, PASS, INV, data
with the complement removed, parity. -/
def lnavRecord (c no : Nat) (bs : List (Bool × Nat)) (s : State) : State :=
  let w := bitsNat ((bs.take 30).map (·.1))
  let d30 := bitsNat (((bs.drop 30).take 1).map (·.1))
  let pass := lnavChecks (bs.map (·.1))
  let data := if d30 = 1 then 2 ^ 24 - 1 - w / 64 else w / 64
  navRecord c pass [BitVec.ofNat 32 (c + no * 2 ^ 8 + flagAt pass 16 + flagAt (navBit s c 2) 17 + 3 * 2 ^ 28),
    BitVec.ofNat 32 (nth (false, 0) bs 0).2, BitVec.ofNat 32 (data * 64 + w % 64)] s

/-- The next LNAV word of a channel with frame sync, once its 30 bits are there; five that fail in a row lose the sync. -/
def lnavNext (c : Nat) (s : State) : State :=
  let x := s.chan c
  let n := x.bits.length
  if n < 32 then s
  else
    let bs := x.bits.drop (n - 32)
    let no := x.word % 10 + 1
    let fails := if lnavChecks (bs.map (·.1)) then 0 else x.fails + 1
    let lost := decide (5 ≤ fails)
    let s1 := (lnavRecord c no bs s).updChan c fun y =>
      { y with bits := y.bits.take (n - 30), word := if lost then 0 else no, fails := if lost then 0 else fails }
    if lost then setNavBit c 1 false s1 else s1

/-- The search for frame sync: the first place where a TLM and a HOW word both pass; both are reported (R293). -/
def lnavSearch (c : Nat) (s : State) : State :=
  let x := s.chan c
  match (upto (x.bits.length - 61)).reverse.find? fun k => lnavFrame ((x.bits.drop k).map (·.1)) with
  | some k =>
    let bs := x.bits.drop k
    let inv := decide (bitsNat (((bs.drop 30).take 30).map (·.1)) / 2 ^ 22 = 0b01110100)
    let s1 := setNavBit c 2 inv (setNavBit c 1 true s)
    (lnavRecord c 2 bs (lnavRecord c 1 (bs.drop 30) s1)).updChan c fun y => { y with bits := y.bits.take (k + 2), word := 2, fails := 0 }
  | none => s

/-- Bit sync of LNAV (R293): judged when 2 s of prompts are there, and then sought anew where no position is accepted. -/
def lnavBitSync (c : Nat) (s : State) : State :=
  let x := s.chan c
  if x.prompts.length < 2001 ∨ navBit s c 0 then s
  else match syncPosition (signChanges (x.dumps + 19) x.prompts) with
    | some k => setNavBit c 0 true (s.updChan c fun y => { y with prompts := [], bitPos := k, acc := 0, accN := 0, bits := [] })
    | none => s.updChan c fun y => { y with prompts := y.prompts.take 1 }

/-- Page-part sync of I/NAV (R294): the first place of the pattern or of its complement; the symbols after it are those of the part. -/
def inavSync (c : Nat) (s : State) : State :=
  let x := s.chan c
  if navBit s c 1 then s
  else
    let at' (k : Nat) (inv : Bool) : Bool := partPattern inv ((x.syms.drop k).map (·.1))
    match (upto (x.syms.length - 9)).reverse.find? fun k => at' k false || at' k true with
    | some k => setNavBit c 2 (at' k true) (setNavBit c 1 true (setNavBit c 0 true (s.updChan c fun y =>
        { y with syms := y.syms.take k, skip := 0, even := none })))
    | none => s

/-- The record of a page of an even and an odd part of 120 bits each: the 196 bits that the CRC covers, and the CRC (log 21). -/
def inavRecord (c count even odd : Nat) (s : State) : State :=
  let bs := even / 2 ^ 6 * 2 ^ 82 + odd / 2 ^ 38
  let crc := odd / 2 ^ 14 % 2 ^ 24
  let pass := decide (crc24q 196 bs = crc)
  let v := bs * 2 ^ 28 + crc * 2 ^ 4
  navRecord c pass ([BitVec.ofNat 32 (c + flagAt pass 16 + flagAt (bs.testBit 194) 17 + 4 * 2 ^ 28), BitVec.ofNat 32 count] ++
    (upto 7).map fun i => BitVec.ofNat 32 (v / 2 ^ (32 * (6 - i)))) s

/-- The next page part, once its 240 symbols are there: an even one waits, an odd one makes a page with the even one before it, and is
discarded where there is none. -/
def inavPart (c : Nat) (s : State) : State :=
  let x := s.chan c
  let n := x.syms.length
  if n < x.skip + 240 then s
  else
    let part := (x.syms.drop (n - x.skip - 240)).take 240
    let bs := decodePart ((part.map fun y => if navBit s c 2 then -y.1 else y.1).reverse)
    let odd := bs.testBit 119
    let s1 := s.updChan c fun y =>
      { y with syms := y.syms.take (n - y.skip - 240), skip := 10, even := if odd then none else some bs }
    match odd, x.even with
    | true, some e => inavRecord c (nth (0, 0) part 0).2 e bs s1
    | _, _ => s1

/-! ### Captures (R292) -/

/-- Samples of a capture: LEN_MS × round(SKY_CLK_HZ ÷ 1,000). -/
def snapLen (s : State) : Nat := s.fld F.SKY_SNAP_CTRL_LEN_MS * divRound (s.reg Reg.SKY_CLK_HZ).toNat 1000

/-- What a write of `SKY_SNAP_CTRL` sets off. -/
def actSkySnap (_old raw : Word) (s : State) : State :=
  if bit raw 31 ∧ s.sky.snap.isNone then
    let p : SnapSt := { least := ((s.reg Reg.SKY_SAMPLE_COUNT).toNat + 1) % 2 ^ 32, len := snapLen s, band := s.flag F.SKY_SNAP_CTRL_BAND }
    (s.updSky fun k => { k with snap := some p }).setFlag F.SKY_LIVE_SNAP_BUSY true
  else s

/-- Pairs of 4-bit samples as bytes, the first in the low half. -/
def packSamples : List (BitVec 4) → List Byte
  | [] => []
  | [a] => [a.zeroExtend 8]
  | a :: b :: r => (b.zeroExtend 8 <<< 4 ||| a.zeroExtend 8) :: packSamples r

/-- A sample of a band as a capture stores it, under the value of SKY_CTRL at its count (R281): Q negated where Q_INV says so; of a band
that was not enabled then no sample was taken, and what stands in its place is free (log 16). -/
def snapSample (l5 : Bool) (ctrl : Word) (m : Nat) (v : BitVec 4) : BitVec 4 :=
  if bit ctrl (if l5 then 2 else 1) then (if bit ctrl (if l5 then 4 else 3) then v ^^^ 2 else v)
  else Config.gatedSample (m % 2 ^ 32)

/-- A capture ends with its samples from count `first` on, as the pins gave them. -/
def snapEnd (first : BitVec 32) (samples : List (BitVec 4)) (s : State) : State :=
  match s.sky.snap with
  | none => s
  | some p =>
    if samples.length ≠ p.len ∨ ¬s.flag F.SKY_CTRL_EN ∨ 2 ^ 31 ≤ (first.toNat + 2 ^ 32 - p.least) % 2 ^ 32 then s
    else
      let bs := packSamples ((countedTo (first.toNat + p.len - 1) samples).map fun y => snapSample p.band (ctrlAt s y.2) y.2 y.1)
      let s1 := s.setSramBytes (s.fld F.SKY_SNAP_BASE_BASE / 64 * 64) bs
      let s2 := (s1.setReg Reg.SKY_SNAP_START first).updSky fun k => { k with snap := none }
      ((sampleCount (BitVec.ofNat 32 (first.toNat + p.len - 1)) s2).setFlag F.SKY_LIVE_SNAP_BUSY false).raise F.SKY_INT_STATUS_SNAP_DONE

/-! ### Fixes (R298 to R301) -/

/-- The result of a submitted fix, and whether test 8 was applied. DESIGN CHOICE (log 16): the 10 s in which a passing fix exists count from
its T_fix. -/
def fixResult (t : Nat) (o r : Int) (s : State) : Nat × Bool :=
  let now := s.tb.value
  let sec := 1000000000 * nsUnit
  if bits (s.reg (Reg.SKY_FIX_T 0)) 26 2 ≠ epochNow s then (1, false)
  else if now < t ∨ t + sec < now then (2, false)
  else if s.fld F.SKY_FIX_INFO_NSAT < s.fld F.SKY_CHECK_MIN_SATS then (3, false)
  else if ¬s.flag F.SKY_FIX_INFO_RAIM_OK then (4, false)
  else if ¬s.flag F.SKY_FIX_INFO_XSIG_OK then (5, false)
  else if (s.reg Reg.SKY_TUNC_MAX).toNat < s.fld F.SKY_FIX_INFO_TUNC then (6, false)
  else if s.fld F.SKY_CHECK_RATE_LIMIT * 65536 < r.natAbs then (7, false)
  else
    match s.sky.fix with
    | some f =>
      if (now : Int) ≤ f.t + ((10 * sec : Nat) : Int) then
        let d := (o - f.o) * ((2 ^ 16 * 1000000000 : Nat) : Int) - f.r * ((t : Int) - f.t)
        if (s.reg Reg.SKY_CLK_LIMIT).toNat * 2 ^ 64 * 1000000000 < d.natAbs * 1000 then (8, true) else (0, true)
      else (0, false)
    | none => (0, false)

/-- SUBMIT. DESIGN CHOICE (log 16): a discarded fix writes PRED = 0 beside RESULT. -/
def submitFix (s : State) : State :=
  let t := recordValue (tbFormat s) (s.reg (Reg.SKY_FIX_T 0)) (s.reg (Reg.SKY_FIX_T 1)) (s.reg (Reg.SKY_FIX_T 2))
    (s.reg (Reg.SKY_FIX_T 3))
  let o := signed 64 (s.reg64 Reg.SKY_FIX_OFFSET_LO Reg.SKY_FIX_OFFSET_HI) * (2 ^ 32 : Nat)
  let r := signed 32 (s.reg Reg.SKY_FIX_RATE).toNat
  let (res, pred) := fixResult t o r s
  let s1 := (s.setFld F.SKY_FIX_STATUS_RESULT res).setFlag F.SKY_FIX_STATUS_PRED pred
  if res = 1 ∨ res = 2 then s1.raise F.SKY_INT_STATUS_FIX_DISCARD
  else if res ≠ 0 then
    clearTimeValid ((s1.bump32 Reg.SKY_FIX_FAIL 1 (some F.SKY_INT_STATUS_CNT_OVF)).raise F.SKY_INT_STATUS_FIX_FAIL)
  else
    let run := min 15 (s.fld F.SKY_FIX_STATUS_RUN + 1)
    let s2 := (s1.setFld F.SKY_FIX_STATUS_RUN run).updSky fun k => { k with fix := some { o := o, t := t, r := r } }
    if s.fld F.SKY_CHECK_PASS_RUN ≤ run ∧ ¬s.flag F.SKY_LIVE_TIME_VALID then
      (s2.setFlag F.SKY_LIVE_TIME_VALID true).raise F.SKY_INT_STATUS_TIME_VALID_SET
    else s2

def actSkyFix (_old raw : Word) (s : State) : State := if bit raw 0 then submitFix s else s

/-- The time base moved by `d`: sky time is unchanged (R300). -/
def skyTimeMoved (d : Int) (s : State) : State :=
  s.updSky fun k => { k with fix := k.fix.map fun f => { f with o := f.o - d, t := f.t + d } }

/-- A delivery at the latest instant that is a multiple of 500,000 ns. -/
def skyDeliver (s : State) : State :=
  match s.sky.fix with
  | none => s
  | some f =>
    if ¬s.flag F.SKY_LIVE_TIME_VALID then s
    else
      let t := s.tb.value / (500000 * nsUnit) * (500000 * nsUnit)
      let o := f.o + Int.fdiv (f.r * ((t : Int) - f.t)) ((2 ^ 16 * 1000000000 : Nat) : Int)
      let time := (((t : Int) + o) % ((tbWrap (tbFormat s) : Nat) : Int)).toNat
      let s1 := s.setRegs (Reg.SKY_TIME 0) (recordWords (tbFormat s) (round20 time) (recordFlags (epochNow s) s))
      (s1.setFlag F.SKY_LIVE_TIME_STALE false).updRef 20 fun r => { r with given := some (Int.fdiv o (2 ^ 28 : Nat)) }

/-! ### The receiver (R283, R284) -/

/-- What a write of `SKY_CTRL` sets off: a rise of EN, from which the first sample has count 1; a fall; a change of bands, which the samples
before it do not see. A channel started while EN was 0 counts its samples from 0 with it. -/
def actSkyCtrl (old raw : Word) (s : State) : State :=
  if bit raw 0 ∧ ¬bit old 0 then
    forUpto 64 (fun c s => if (s.chan c).on then s.updChan c fun x => { x with count := 0 } else s)
      ((s.setReg Reg.SKY_SAMPLE_COUNT 0).updSky fun k => { k with gates := [], snap := k.snap.map fun p => { p with least := 1 } })
  else if bit old 0 ∧ ¬bit raw 0 then
    let s1 := forUpto 64 chanStop s
    clearTimeValid ((s1.updSky fun k => { k with snap := none }).setFlag F.SKY_LIVE_SNAP_BUSY false)
  else
    let now := (s.reg Reg.SKY_SAMPLE_COUNT).toNat
    s.updSky fun k => if (k.gates.head?.map (·.1)) = some now then k else { k with gates := (now, old) :: k.gates }

/-- R304: a nominal frequency out of range is rejected. -/
def actSkyClkHz (old raw : Word) (s : State) : State :=
  if raw.toNat < 16368000 ∨ 81840000 < raw.toNat then
    (s.setReg Reg.SKY_CLK_HZ old).raise F.SKY_INT_STATUS_CFG_REJECT
  else s

/-- A SKY_CLK fault. -/
def skyClkFault (s : State) : State :=
  clearTimeValid (((s.updSky fun k => { k with good := 0 }).setFlag F.SKY_LIVE_CLK_OK false).raise F.SKY_INT_STATUS_CLK_FAULT)

/-! ### Commands -/

/-- R284: within ±100 ppm of `SKY_CLK_HZ`. -/
def execSkyClkMeas (hz : Nat) (s : State) : Host.Outcome State Fault Refusal :=
  whenMain s fun s =>
    let s1 := (s.setReg Reg.SKY_CLK_MEAS (BitVec.ofNat 32 hz)).updSky fun k => { k with stopped := decide (hz = 0) }
    let nom := (s.reg Reg.SKY_CLK_HZ).toNat
    if nom < ((hz : Int) - (nom : Int)).natAbs * 10000 then skyClkFault s1
    else
      let g := min 10 (s.sky.good + 1)
      let s2 := s1.updSky fun k => { k with good := g }
      if g = 10 then s2.setFlag F.SKY_LIVE_CLK_OK true else s2

/-- R284: SKY_CLK is stopped. -/
def execClkFault (s : State) : Host.Outcome State Fault Refusal :=
  whenMain s fun s => skyClkFault (s.updSky fun k => { k with stopped := true })

/-- R285: a multiple of `SKY_EPOCH_SAMPLES` is stamped. -/
def execSkyEpochStamp (count : BitVec 32) (s : State) : Host.Outcome State Fault Refusal :=
  whenMain s fun s =>
    let n := s.fld F.SKY_EPOCH_SAMPLES_SAMPLES
    if ¬s.flag F.SKY_CTRL_EN ∨ n = 0 ∨ count.toNat % n ≠ 0 then s
    else
      let stamp := recordWords (tbFormat s) (round20 s.tb.value) (recordFlags (epochNow s) s + 2 ^ 23)
      ringRecord false ([BitVec.ofNat 32 (2 * 2 ^ 28), count] ++ stamp) (sampleCount count s)

/-- R286. -/
def execAuxEdge (s : State) : Host.Outcome State Fault Refusal :=
  whenMain s fun s =>
    (s.setRegs (Reg.SKY_AUX_STAMP 0)
      (recordWords (tbFormat s) (round20 s.tb.value) (recordFlags (epochNow s) s + 2 ^ 23))).raise F.SKY_INT_STATUS_AUX_EDGE

def execSkyDump (c : Fin 64) (count : BitVec 32) (samples : List (BitVec 8)) (s : State) :
    Host.Outcome State Fault Refusal := whenMain s (chanDump c count samples)

/-- R293, R294: bit sync of LNAV, or page-part sync of I/NAV. -/
def execBitSync (c : Fin 64) (s : State) : Host.Outcome State Fault Refusal :=
  whenMain s fun s =>
    if ¬(s.chan c).on ∨ ¬navOn s c then s
    else if (s.chan c).signal = 1 then lnavBitSync c s
    else if (s.chan c).signal = 4 then inavSync c s
    else s

def execSkyLnavWord (c : Fin 64) (s : State) : Host.Outcome State Fault Refusal :=
  whenMain s fun s =>
    if (s.chan c).on ∧ (s.chan c).signal = 1 ∧ navOn s c ∧ navBit s c 0 then
      (if navBit s c 1 then lnavNext c s else lnavSearch c s)
    else s

def execSkyInavPage (c : Fin 64) (s : State) : Host.Outcome State Fault Refusal :=
  whenMain s fun s => if (s.chan c).on ∧ (s.chan c).signal = 4 ∧ navOn s c ∧ navBit s c 1 then inavPart c s else s

/-- R296: the sample count reaches a multiple of TICK_MS × round(SKY_CLK_HZ ÷ 1,000). -/
def execRingTick (count : BitVec 32) (s : State) : Host.Outcome State Fault Refusal :=
  whenMain s fun s =>
    let n := s.fld F.SKY_RING_IRQ_TICK_MS * divRound (s.reg Reg.SKY_CLK_HZ).toNat 1000
    if ¬s.flag F.SKY_CTRL_EN ∨ n = 0 ∨ count.toNat = 0 ∨ count.toNat % n ≠ 0 then s
    else (sampleCount count s).raise F.SKY_INT_STATUS_RING_TICK
def execSkySnapGo (ag : Agent) (d : Word) (s : State) : Host.Outcome State Fault Refusal :=
  whenMain s (regWrite ag Reg.SKY_SNAP_CTRL Rd.SKY_SNAP_CTRL actSkySnap allBits (d ||| 0x80000000#32))
def execSkySnapDone (first : BitVec 32) (samples : List (BitVec 4)) (s : State) : Host.Outcome State Fault Refusal :=
  whenMain s (snapEnd first samples)
def execSubmit (ag : Agent) (d : Word) (s : State) : Host.Outcome State Fault Refusal :=
  whenMain s (regWrite ag Reg.SKY_FIX_CMD Rd.SKY_FIX_CMD actSkyFix allBits (d ||| 1))

/-- R299: no passing fix for `SKY_FIX_TIMEOUT`. -/
def execSkyFixTimeout (s : State) : Host.Outcome State Fault Refusal := whenMain s clearTimeValid

/-- R299: `LOCKED_COUNT` below MIN_SATS, or 0, for 100 ms. -/
def execSkyLockShortfall (s : State) : Host.Outcome State Fault Refusal :=
  whenMain s fun s =>
    let n := s.fld F.SKY_LIVE_LOCKED_COUNT
    let s1 := if n < s.fld F.SKY_CHECK_MIN_SATS then clearTimeValid s else s
    s1.raiseIf (decide (n = 0)) F.SKY_INT_STATUS_ALL_LOST

def execSkyDelivery (s : State) : Host.Outcome State Fault Refusal := whenMain s skyDeliver

end Sys2Proof.Machine
end

