-- ==== Sys2Proof/Machine/TimeApply.lean ====
section
/-!
DEFINITION. Sys2Proof/Machine/TimeApply.lean: the passing of TCLK, and the five events that carry the clock to their own edge: the apply
edge of a time-base command, a snapshot, the edge and the end of an output pulse (04_time_base_and_stamps.md, R158, R162, R165 to
R170, R186 to R189; log 1, log 2), the alignment of a clock output (06_loops_references_and_holdover.md, R272).
-/
namespace Sys2Proof.Machine

/-- `n` TCLK cycles pass, once the keeper runs: the time base counts, TLM with the PCLK cycles among them, and LEAD_OUT_N. No command or snapshot is
due before the last of them. -/
def countTclk (n : Nat) (s : State) : State :=
  if ¬s.pwr.oclkUp then s
  else
    let s1 := tbEdges n s
    let s2 := { s1 with clk := { s1.clk with tclk := s1.clk.tclk + n } }
    leadPass n (if s2.pwr.mainUp then tlmCycles (pclk s2 - pclk s) s2 else s2)

/-! ### The apply edge (R165 to R169) -/

/-- The value that a STEP or LOAD leaves. -/
def opValue (op : TbOp) (s : State) : Nat :=
  match op with
  | .step a => (((s.tb.value : Int) + a) % (tbWrap (tbFormat s) : Int)).toNat
  | .load v => v

/-- By how much a STEP or LOAD changes the value. -/
def opDelta (op : TbOp) (s : State) : Int :=
  match op with
  | .step a => a
  | .load v => (v : Int) - s.tb.value

/-- A STEP or LOAD takes effect, with all that keeps its place through it (R169, R180, R187, R250, R300, R494). -/
def opApply (op : TbOp) (dispute : Bool) (s : State) : State :=
  let v := opValue op s
  let d := opDelta op s
  let s1 := (s.updTb fun t => { t with value := v, moved := t.moved + d }).setFld F.TBASE_LIVE_EPOCH (epochNow s + 1)
  let s2 := skyTimeMoved d (loopTimeMoved d (!dispute) (outsMoved d ((v : Int) - s.tb.value) s1))
  if dispute then s2 else addStepSum d s2

/-- What the pending command does at its apply edge. -/
def pendApply (p : TbPend) (s : State) : State :=
  let ended : TbPast := { edge := s.clk.tclk, value := s.tb.value, inc := incCur s, epoch := epochNow s, moved := s.tb.moved }
  let s1 := (s.updTb fun t => { t with past := (ended :: t.past).take 1024 }).raiseIf p.late F.TBASE_INT_STATUS_CMD_LATE
  let s2 := match p.inc with
    | some x => s1.setReg64 Reg.TBASE_INC_CUR_LO Reg.TBASE_INC_CUR_HI x
    | none => s1
  let s3 := match p.op with
    | some op => opApply op p.dispute s2
    | none => s2
  let s4 := (tbNoPending (s3.setRegs (Reg.TBASE_APPLIED_REC 0) (recordNow s3))).raise F.TBASE_INT_STATUS_CMD_DONE
  let s5 := if p.dispute ∧ loopState s4 = 5 then leaveDispute 0 s4 else s4
  if p.xstep then xstepApplied s5 else s5

/-! ### Snapshots (R170) -/

/-- The oldest waiting snapshot is taken: the value at the present edge. -/
def snapTake (s : State) : State :=
  ((s.setRegs (Reg.TBASE_SNAP_REC 0) (recordNow s)).updTb fun t => { t with snaps := t.snaps.drop 1 }).raise
    F.TBASE_INT_STATUS_SNAP_DONE

/-! ### The passing of TCLK (R158, R166, R170) -/

/-- The TCLK until the oldest snapshot's edge, 8 after its acceptance. -/
def snapDue (s : State) : Option Nat := s.tb.snaps.head?.map fun acc => acc + 8 - s.clk.tclk

/-- The TCLK until the next apply edge or snapshot. -/
def nextDue (s : State) : Option Nat :=
  match s.tb.pend, snapDue s with
  | some p, some d => some (min (tbDue p s) d)
  | some p, none => some (tbDue p s)
  | none, d => d

/-- What is due at the present edge: the pending command, else the oldest snapshot, which so captures what the command left (log 10). -/
def takeDue (s : State) : State :=
  let snap := if snapDue s = some 0 then snapTake s else s
  match s.tb.pend with
  | some p => if tbDue p s = 0 then pendApply p s else snap
  | none => snap

/-- `n` TCLK cycles pass; the pending command applies at its edge among them, and snapshots are taken at theirs. At most `fuel` are. -/
def passDue : Nat → Nat → State → State
  | 0, n, s => countTclk n s
  | fuel + 1, n, s =>
    match nextDue s with
    | some d => if d ≤ n then passDue fuel (n - d) (takeDue (countTclk d s)) else countTclk n s
    | none => countTclk n s

/-- `n` TCLK cycles pass. -/
def passTclk (n : Nat) (s : State) : State := if s.pwr.oclkUp then passDue (s.tb.snaps.length + 2) n s else s

/-- The apply edge comes. -/
def cmdDone (s : State) : State :=
  match s.tb.pend with
  | some p => passTclk (tbDue p s) s
  | none => s

/-- The oldest waiting snapshot's edge comes. -/
def snapDone (s : State) : State :=
  match snapDue s with
  | some d => passTclk d s
  | none => s

/-! ### Output pulses (R186 to R189) -/

/-- The apply edges and snapshots that come before an edge of an output pass, which may move it. -/
def passBefore (far : State → Nat) : Nat → State → State
  | 0, s => s
  | fuel + 1, s =>
    match nextDue s with
    | some d => if d * 256 ≤ far s then passBefore far fuel (passTclk d s) else s
    | none => s

/-- TCLK passes to the first edge at or after a place in 1/256 TCLK from now, where output k has its edge. -/
def passToPlace (k place : Nat) (s : State) : State :=
  (passTclk ((place + 255) / 256) s).updOut k fun o => { o with edge := 256 * s.clk.tclk + place }

/-- The next active edge of output k; behind a shut gate the pulse is not driven (R502). -/
def outputEdge (k : Nat) (s : State) : State :=
  if ¬(s.out k).on ∨ (s.out k).active ∨ ¬s.flag F.TBASE_LIVE_RUNNING then s
  else
    let s1 := passBefore (fun s => edgePlace k (nextInstant k s) s) (s.tb.snaps.length + 2) s
    let v := nextInstant k s1
    let open' := gateOpen k s1
    let s2 := s1.updOut k fun o => { o with active := true, driven := open', pulseEnd := v + ((o.width * nsUnit : Nat) : Int) }
    (passToPlace k (edgePlace k v s1) s2).raiseIf (decide (k = 4) && open') F.TBASE_INT_STATUS_PPS_EDGE

/-- The end of the pulse of output k. One that was aligned during it waits for WIDTH + 8 ns more (R188). -/
def pulseEnd (k : Nat) (s : State) : State :=
  if ¬(s.out k).active then s
  else
    let s1 := passBefore (fun s => edgePlace k (s.out k).pulseEnd s) (s.tb.snaps.length + 2) s
    (passToPlace k (edgePlace k (s1.out k).pulseEnd s1) s1).updOut k fun o =>
      { o with active := false, again := false,
               pulseEnd := if o.again then o.pulseEnd + (((o.width + 8) * nsUnit : Nat) : Int) else o.pulseEnd }

/-! ### The alignment of a clock output (R272, R273) -/

/-- The alignment edge of a waiting output comes: DIV and PHASE are taken up, or refused. -/
def clkoutAlign (k : Nat) (s : State) : State :=
  let s1 := passBefore (fun s => 16 * (clkoutPlace k s).getD 0) (s.tb.snaps.length + 2) s
  match clkoutPlace k s1 with
  | some n =>
    if (s.clkout k).waiting then
      let (div, ph) := clkoutShape s1 k
      ((passTclk ((n + 15) / 16) s1).updClkout k fun o =>
        { o with waiting := false, running := true, div := div, phase := ph, rise := 16 * s1.clk.tclk + n }).raiseIf
          (clkoutRefused s1 k) F.LOOP_INT_STATUS_CLKOUT_REJECT
    else s
  | none => s

/-! ### Commands -/

def execClkoutAlignEdge (k : Fin 4) (s : State) : Host.Outcome State Fault Refusal := whenMain s (clkoutAlign k)
def execCmdDone (s : State) : Host.Outcome State Fault Refusal := whenMain s cmdDone
def execSnapDone (s : State) : Host.Outcome State Fault Refusal := whenMain s snapDone
def execOutputEdge (k : Fin 5) (s : State) : Host.Outcome State Fault Refusal := whenMain s (outputEdge k)
def execOutputPulseEnd (k : Fin 5) (s : State) : Host.Outcome State Fault Refusal := whenMain s (pulseEnd k)

end Sys2Proof.Machine
end

