-- ==== Sys2Proof/Machine/Host.lean ====
section
/-!
DEFINITION. Sys2Proof/Machine/Host.lean: register accesses of every agent through direct and alias space, and what each register's write
sets off (02_register_pages_and_host_channels.md, R54 to R59, R66 to R75, R86 to R91, R100, R103, R580).
-/
namespace Sys2Proof.Machine

/-! ### What a word address of BAR0 names (R55, R73, R580) -/

/-- What a word address names: a register of direct space with its index, a register of a window, a bit through alias space, or nothing
(R57). -/
inductive Place where
  | reg (a : Nat) (d : RegDef) (i : Nat)
  | win (k : Fin 4) (r : Fin 4)
  | bit (a b : Nat) (d : RegDef) (i : Nat)
  | none

/-- The address in direct space that an access concerns: itself, or the word of an alias. -/
def directAddr (w : Nat) : Nat :=
  if w < 2 ^ 22 then w
  else if w < 0xC00000 then (w - 2 ^ 22) / 2048 * 1024 + (w - 2 ^ 22) % 2048 / 32
  else w

/-- The window registers: page 0x001, offsets 0x080 to 0x0BC. -/
def isWinReg (a : Nat) : Bool := decide (0x420 ≤ a ∧ a < 0x430)

def placeOf (w : Nat) : Place :=
  if 0xC00000 ≤ w then .none
  else
    let a := directAddr w
    if w < 2 ^ 22 then
      if isWinReg a then .win (Fin.ofNat 4 ((a - 0x420) / 4)) (Fin.ofNat 4 (a % 4))
      else match regDef? a with
        | some (d, i) => .reg a d i
        | none => .none
    else if isWinReg a then .none
    else match regDef? a with
      | some (d, i) => .bit a (w % 32) d i
      | none => .none

/-- The window of an agent (R76), and the number under which an agent's counter snapshot is kept (R86): PF0, PF1, the cores; the test
port's is that of window 3. Window k's is 6 + k. -/
def winOf : Agent → Fin 4
  | .pf0 => 0
  | .pf1 => 1
  | .hearth _ => 2
  | .test => 3
def agentIx : Agent → Nat
  | .pf0 => 0
  | .pf1 => 1
  | .hearth c => 2 + c
  | .test => 9

/-- The AGENT code of `HOST_ERR_ADDR` (R97). -/
def errAgent (ag : Agent) : Nat := (winOf ag).val

/-- An access to nothing (R57). -/
def unmapped (ag : Agent) (w : Nat) (s : State) : State :=
  (s.setReg Reg.HOST_ERR_ADDR (BitVec.ofNat 32 (4 * w % 2 ^ 26 + errAgent ag * 2 ^ 26))).raise F.HOST_INT_STATUS_UNMAPPED

/-- A window sets one of its error bits (R83, R85). -/
def winErr (k : Nat) (f : Nat → Fld) (s : State) : State :=
  ((s.raise (f k)).raise (F.IND_STATUS_ERR k)).raise F.HOST_INT_STATUS_IND_ERR

/-! ### What the write of a register sets off -/

/-- The bits of an `INT_FORCE`: the causes of its page (R68). -/
def forceBits (a : Nat) : Word := match regDef? a with
  | some (d, _) => d.w1p
  | none => 0

/-- The bits that word `i` of a record of R171 holds; the others read 0 (R10). -/
def recBits (i : Nat) : Word := nth 0xFFFFFFFF#32 [0x3FFFFFFF#32, 0xFFFFFFFF#32, 0xFFFFFFFF#32, 0xFFFF#32] i

/-- The bits that word `i` of a descriptor of R380 holds; its last four words are a record of R171. -/
def descBits (i : Nat) : Word := if i < 4 then nth 0 [0x3FFFF#32, 0x3FFFFFFF#32, 0x3FFFFF#32, 0] i else recBits (i - 4)

/-- What a write sets off, by the register's kind: agent, index in its array, address, old and written word. -/
def runAct (k : Act) (ag : Agent) (i a : Nat) (old raw : Word) (s : State) : State :=
  let aln : LaneId := .aux (Fin.ofNat 32 i)
  let dln : LaneId := .data (Fin.ofNat 768 i)
  match k with
  | .none | .warnLevel | .window => s
  | .tempWarn => actTempWarn old raw s
  | .recWord => s.setReg a (s.reg a &&& recBits i)
  | .hinjDesc => s.setReg a (s.reg a &&& descBits i)
  | .intForce => forUpto 32 (fun b s => s.raiseIf (bit (raw &&& forceBits a) b) ⟨a - 2, b, 1⟩) s
  | .enumCmd => actEnumCmd old raw s
  | .irqEoi => actIrqEoi old raw s
  | .mboxWr => mboxWr ag i raw s
  | .mboxCmd => mboxCmd ag i raw s
  | .dlnLaneCtrl => actDlnLaneCtrl i old raw s
  | .dlnPrbs => actPrbs dln old raw s
  | .dlnErrInj => actErrInj dln old raw s
  | .alnCtrl => actAlnPort i old raw s
  | .rawTx => actRawTx i old raw s
  | .alnPrbs => actPrbs aln old raw s
  | .alnErrInj => actErrInj aln old raw s
  | .tbaseCtrl => actTbaseCtrl old raw s
  | .tbaseCmd => actTbaseCmd old raw s
  | .txtsPop => actTxtsPop old raw s
  | .outCtrl => actOutCtrl i old raw s
  | .outPeriod => actOutPeriod i old raw s
  | .outWidth => actOutWidth i old raw s
  | .outCmd => actOutCmd i old raw s
  | .bankCtrl => actBankCtrl old raw s
  | .cellProof => actCellProof old raw s
  | .cellReturn => actCellReturn old raw s
  | .cdStart => actCdStart old raw s
  | .tableLoad => actTableLoad old raw s
  | .extCtrl => actExtCtrl old raw s
  | .extCmd => actExtCmd old raw s
  | .srcCfg => actSrcCfg i old raw s
  | .asym => actAsym i old raw s
  | .hoCtrl => actHoCtrl old raw s
  | .loopCmd => actLoopCmd old raw s
  | .lockA => actLockA old raw s
  | .refCfg => actRefCfg i old raw s
  | .refFreqHz => actRefFreqHz i old raw s
  | .refDelay => actRefDelay i old raw s
  | .refCmd => actRefCmd i old raw s
  | .clkoutCtrl => actClkoutCtrl i old raw s
  | .skyCtrl => actSkyCtrl old raw s
  | .skyClkHz => actSkyClkHz old raw s
  | .skySnap => actSkySnap old raw s
  | .skyFix => actSkyFix old raw s
  | .prfCmd => actPrfCmd old raw s
  | .portCfg => actPortCfg i old raw s
  | .commitCmd => actCommitCmd old raw s
  | .hinjData => actHinjData old raw s
  | .hinjCmd => actHinjCmd old raw s
  | .bufAudit => actBufAudit old raw s
  | .bufUsed => actBufUsed old raw s
  | .bufXoff => actBufXoff old raw s
  | .bufPortCfg => actBufPortCfg i old raw s
  | .forgive => actForgive old raw s
  | .sampleCtrl => actSampleCtrl old raw s
  | .polCfg => actPolCfg i old raw s
  | .tagCtrl => actTagCtrl old raw s
  | .dmaCtrl => actDmaCtrl old raw s
  | .slotCmd => actSlotCmd old raw s
  | .twinCtrl => actTwinCtrl old raw s
  | .pairCfg => actPairCfg old raw s
  | .roleGate => actRoleGate old raw s
  | .twinCmd => actTwinCmd old raw s
  | .stackCfg => actStackCfg old raw s
  | .xstepCmd => actXstepCmd old raw s
  | .sidCfg => actSidCfg i old raw s
  | .loadAddr => actLoadAddr ag old raw s
  | .loadData => actLoadData ag old raw s
  | .bootCmd => actBootCmd ag old raw s
  | .fuseCmd => actFuseCmd ag old raw s
  | .fltCfg => actFltCfg old raw s
  | .wdogKick => actWdogKick ag old raw s

/-! ### Counters (R86 to R89) -/

/-- Which word of a counter a register is; `TLM_PCLK` (R483) and `LOOP_FREQ`, `LOOP_HO_FREQ` and `LOOP_BT` (06, "LOOP registers") are read
as counters are. -/
def ctrOf (a : Nat) (d : RegDef) : Ctr :=
  if d.live = .pclk then (if a = Reg.TLM_PCLK_LO then .lo else .hi)
  else if [Reg.LOOP_FREQ_LO, Reg.LOOP_HO_FREQ_LO, Reg.LOOP_BT_LO].contains a then .lo
  else if [Reg.LOOP_FREQ_HI, Reg.LOOP_HO_FREQ_HI, Reg.LOOP_BT_HI, Reg.LOOP_BT_SUB].contains a then .hi
  else d.ctr

/-- The words that the read of a low word latches: one, or the two after `LOOP_BT_LO`. -/
def wordsAfter (a : Nat) : Nat := if a = Reg.LOOP_BT_LO then 2 else 1

def noSnap (_ : Nat) : Option (Nat × List Word) := none
def noStage (_ : Nat) : Word := 0
def State.setSnap (s : State) (ca : Nat) (x : Option (Nat × List Word)) : State :=
  { s with hst := { s.hst with snap := smapSet noSnap s.hst.snap ca x } }
def State.setStage (s : State) (ca : Nat) (x : Word) : State :=
  { s with hst := { s.hst with stage := smapSet noStage s.hst.stage ca x } }

/-- Whether an agent's snapshot, of its own `_LO` read, holds the word at `a`. -/
def inSnap (s : State) (ca a : Nat) : Bool :=
  match smapGet noSnap s.hst.snap ca with
  | some (b, ws) => decide (b < a ∧ a ≤ b + ws.length)
  | none => false

/-- The high word of a counter as an agent reads it: the snapshot of its own `_LO` read, or the live word. -/
def hiWord (s : State) (ca a : Nat) (live : Word) : Word :=
  match smapGet noSnap s.hst.snap ca with
  | some (b, ws) => if b < a then nth live ws (a - b - 1) else live
  | none => live

/-- A read of a `_LO` word latches `_HI` for its agent. -/
def latchHi (ca a : Nat) (d : RegDef) (s : State) : State :=
  if ctrOf a d = .lo then s.setSnap ca (some (a, (upto (wordsAfter a)).map fun i => liveWord d.live 0 (a + 1 + i) s)) else s

/-! ### Reads -/

/-- The value that a read of a register returns to an agent, before its effects. -/
def regValue (ag : Agent) (ca a : Nat) (d : RegDef) (i : Nat) (s : State) : Word :=
  let v := liveWord d.live i a s
  if d.live = .mboxRd then (if mayReceive ag i then v else 0)
  else if ctrOf a d = .hi then hiWord s ca a v
  else v

/-- The RC bits of a register that a read by an agent clears (R9, R67, R106). -/
def rcBits (ag : Agent) (a : Nat) (d : RegDef) : Word :=
  if a % 1024 = 4 ∧ blockOfPage (a / 1024) = some 4 then d.rc &&& mboxSide ag else d.rc

/-- Clear bits of a register. -/
def State.clearBits (s : State) (a : Nat) (m : Word) : State :=
  if s.reg a &&& m = 0 then s else s.setReg a (s.reg a &&& ~~~m)

/-- The value that a read returns (R57, R66, R73, R74). -/
def placeValue (ag : Agent) (ca : Nat) (p : Place) (s : State) : Word :=
  match p with
  | .reg a d i => regValue ag ca a d i s
  | .bit a b d i =>
    let v := if d.live = .mboxRd ∧ ¬mayReceive ag i then 0 else liveWord d.live i a s
    BitVec.ofNat 32 (bits v b 1)
  | _ => 0

/-- The effects of a read that returned `v`: RC bits of it are cleared, but those of `again`, which an event has set again since it was
sampled (R66, R82); a mailbox word is taken; a counter read other than of `_LO` ends the snapshot, unless the snapshot holds a further word
of the same value (`LOOP_BT`). An alias read of a counter's bit leaves it as it is (log 13). -/
def readEffects (ag : Agent) (ca w : Nat) (p : Place) (v again : Word) (s : State) : State :=
  match p with
  | .reg a d i =>
    if d.live = .mboxRd then mboxTake ag i s
    else
      let s1 := s.clearBits a (v &&& rcBits ag a d &&& ~~~again)
      match ctrOf a d with
      | .hi => if inSnap s ca a ∧ inSnap s ca (a + 1) then s1 else s1.setSnap ca none
      | .w32 => s1.setSnap ca none
      | _ => s1
  | .bit a b d i =>
    if d.live = .mboxRd then (if mayReceive ag i then s else mboxDenied i s)
    else if bit v 0 ∧ ¬bit again 0 then s.clearBits a (rcBits ag a d &&& BitVec.ofNat 32 (2 ^ b))
    else s
  | .win _ _ => s
  | .none => unmapped ag w s

/-- A read completion leaves the part (R59). One for the test port completes a read of TST_ACCESS; VALID shows the last one's (R571). -/
def complete (ag : Agent) (v : Word) (s : State) : State :=
  let s1 := { s with hst := { s.hst with completions := s.hst.completions ++ [(ag, v)] } }
  if ag = .test ∧ s.tap.reading ≠ 0 then
    { s1 with tap := { s1.tap with result := v, reading := s.tap.reading - 1, valid := decide (s.tap.reading = 1) } }
  else s1

/-- No completion has left yet in this access. -/
def noCompletions (s : State) : State := { s with hst := { s.hst with completions := [] } }

/-- A read of anything but a window register of the agent's own. -/
def plainRead (ag : Agent) (ca w : Nat) (s : State) : Word × State :=
  let p := placeOf w
  let v := placeValue ag ca p s
  let s1 := match p with
    | .reg a d _ => latchHi ca a d s
    | _ => s
  (v, readEffects ag ca w p v 0 s1)

/-! ### Writes -/

/-- The bits that a write of an alias word reaches (R74). -/
def aliasWritable (d : RegDef) : Word := if d.ctr = .none then d.rw ||| d.rwl ||| d.wo ||| d.w1p else 0

/-- A write of the bits `m` of a register that its agent may write: `HRTH_FW_STATUS` is Hearth's, a counter's high word is staged and
its low word written with it. -/
def storeReg (ag : Agent) (ca a : Nat) (d : RegDef) (i : Nat) (m data : Word) (s : State) : State :=
  if a = Reg.HRTH_FW_STATUS then
    (if (hearthCore ag).isSome then fwStatusWrite ((s.reg a &&& ~~~m) ||| (data &&& m)) s else s)
  else match d.ctr with
  | .hi => s.setStage ca data
  | .lo => (s.setReg64 a (a + 1) (data.toNat + 2 ^ 32 * (smapGet noStage s.hst.stage ca).toNat)).setStage ca 0
  | _ => regStore a d (runAct d.act ag i a) m data s

/-- The bit that alias bit `b` is. -/
def bitMask (b : Nat) : Word := BitVec.ofNat 32 (2 ^ b)

/-- The part of a write that reaches a register. -/
def placeWrite (ag : Agent) (ca : Nat) (p : Place) (data : Word) (s : State) : State :=
  match p with
  | .reg a d i => storeReg ag ca a d i allBits data s
  | .bit a b d i =>
    if aliasWritable d &&& bitMask b ≠ 0 ∨ (a = Reg.HRTH_FW_STATUS ∧ 0xFFFF0001#32 &&& bitMask b ≠ 0) then
      storeReg ag ca a d i (bitMask b) (if bit data 0 then bitMask b else 0) s
    else s
  | _ => s

/-- The writing register of a window, where there is one. -/
def winRegOf (r : Fin 4) : Option WinReg :=
  match r with
  | 0 => some .addr
  | 1 => some .data
  | 2 => some .ctrl
  | 3 => none

/-- A write arrives at a window register of its agent's window (R78). -/
def winArrive (ag : Agent) (k : Nat) (r : WinReg) (data : Word) (s : State) : State :=
  if 16 ≤ fifoLevel (s.win k) then winErr k F.IND_STATUS_OVERRUN s
  else s.updWin k fun w => { w with fifo := w.fifo ++ [.write ag r data] }

/-- A write DW to a word address of BAR0 (R56 to R58, R76): each flag that applies is set. A window's write is tested for PF1 before. -/
def busWrite (ag : Agent) (ca : Nat) (tested : Bool) (w : Nat) (full : Bool) (data : Word) (s : State) : State :=
  let p := placeOf w
  let s1 := s.raiseIf (!full) F.HOST_INT_STATUS_PARTIAL_WRITE
  let foreign : Bool := match p with
    | .win k _ => decide (k ≠ winOf ag)
    | _ => false
  let s2 := match p with
    | .none => unmapped ag w s1
    | _ => s1.raiseIf foreign F.HOST_INT_STATUS_WIN_FOREIGN
  let denied := !tested && pf1Denied ag (directAddr w) s
  let s3 := s2.raiseIf denied F.HOST_INT_STATUS_PF1_DENIED
  settleIrq (if ¬full ∨ denied ∨ foreign then s3
    else match p with
      | .win k r => match winRegOf r with
        | some x => winArrive ag k x data s3
        | none => s3
      | _ => placeWrite ag ca p data s3)

end Sys2Proof.Machine
end

