-- ==== Sys2Proof/Machine/Window.lean ====
section
/-!
DEFINITION. Sys2Proof/Machine/Window.lean: the indirect windows (02_register_pages_and_host_channels.md, R76 to R85, R581, R582), the
commands of register accesses, and PCIE_PERST_N (R60, R579).
-/
namespace Sys2Proof.Machine

/-! ### The words of the indirect domains (R52, R119, R120, R221, R306, R384, R461, R472, R506) -/

/-- A word address that its domain populates; domain 0x00 excepts the window registers (R582). -/
def wordPopulated (domain w : Nat) : Bool :=
  match domain with
  | 0 => !isWinReg (directAddr w) || decide (0xC00000 ≤ w)
  | 1 => decide (w < 0x42 ∨ (0x100 ≤ w ∧ w < 0x130) ∨ (0x140 ≤ w ∧ w < 0x170))
  | 2 => decide (w < 768 * 32)
  | 3 => decide (w < 32 * 16)
  | 4 => decide (w < 32 * 0x4000)
  | 5 => decide (w < 64 * 16)
  | 6 => (entryOf w).isSome
  | 7 => decide (w < 0xCC00)
  | _ => decide (w < 1024 * 32)

/-- The bits that word `w` of a twin image holds; all others are 0 (R506, with R171 for TIME). -/
def imageBits (w : Nat) : Word :=
  if w = 0 then 0x800FFFFF#32
  else if w = 1 then 0x3FFFFFFF#32
  else if w = 4 then 0xFFFF#32
  else if w = 6 then 0xFFFFFF#32
  else if w = 8 ∨ w = 10 then 0xFF#32
  else if w = 16 then 0xFFF#32
  else if w = 14 then 0xFFFF#32
  else if w = 20 then 0xFFFFF#32
  else if 20 < w ∧ w < 32 then 0
  else 0xFFFFFFFF#32

/-- A word of domains 0x01 to 0x08 as window k reads it. -/
def indValue (k domain w : Nat) (s : State) : Word :=
  match domain with
  | 4 => if w / 0x1000 % 4 = 3 then 0 else s.indw 4 (metPhys s w) &&& 0xFFFFF#32
  | 1 => if 0x100 ≤ w ∧ w < 0x130 then s.indw 1 w &&& imageBits (w - 0x100) else s.indw 1 w
  | 5 => chanRead s w
  | 6 => if s.flag (F.FWD_READ_SEL_VIEW k) then viewWord s w else tw s w
  | d => s.indw d w

/-- A write of a word of domains 0x01 to 0x08 by window k. -/
def indTake (k domain w : Nat) (d : Word) (s : State) : State :=
  match domain with
  | 1 => if w = evtTotal then s.setIndw 1 w d else if 0x140 ≤ w then s.setIndw 1 w (d &&& imageBits (w - 0x140)) else s
  | 2 => dlnWordWrite (w / 32) (w % 32) d s
  | 3 => alnWordWrite (w / 16) (w % 16) d s
  | 4 => metWordWrite w d s
  | 5 => chanWrite w d s
  | 6 => stageWrite k w d s
  | 7 => schdWrite w d s
  | _ => s

/-- The block whose bit of `HOST_PF1_WRITE_EN` guards a word (R58). -/
def wordBlock (domain w : Nat) : Nat :=
  match domain with
  | 1 => if w < 0x100 then 5 else 0x14
  | 2 => 7
  | 3 => 8
  | 4 => 0x10
  | 5 => 0x12
  | 6 => 0x0A
  | 7 => 0x0C
  | _ => 0x0E

/-- The second test of a PF1 write through window 1 (R58). -/
def secondDenied (ag : Agent) (domain w : Nat) (s : State) : Bool :=
  if domain = 0 then pf1Denied ag (directAddr w) s
  else decide (ag = .pf1) && !s.rbit Reg.HOST_PF1_WRITE_EN (wordBlock domain w - 1)

/-! ### Launches (R79, R81, R83) -/

/-- DOMAIN and WADDR of a window. -/
def winDomain (s : State) (k : Nat) : Nat := s.fld (F.IND_ADDR_DOMAIN k)
def winWaddr (s : State) (k : Nat) : Nat := s.fld (F.IND_ADDR_WADDR k)

/-- The error of an access to the window's word, if it fails at once. -/
def winFails (s : State) (k : Nat) : Option (Nat → Fld) :=
  if 8 < winDomain s k then some F.IND_STATUS_BAD_DOMAIN
  else if ¬wordPopulated (winDomain s k) (winWaddr s k) then some F.IND_STATUS_BAD_ADDR
  else none

/-- The window launches a read of its word; one that fails returns 0. -/
def winLaunch (k : Nat) (s : State) : State :=
  let l : Launch := { domain := winDomain s k, waddr := winWaddr s k }
  match winFails s k with
  | some f => (winErr k f s).updWin k fun w => { w with launch := some { l with word := some 0 } }
  | none => s.updWin k fun w => { w with launch := some l }

/-- WADDR advances by the stride (R81, R85). -/
def strideOf (s : State) (k : Nat) : Nat := nth 0 [0, 1, 4, 0] (s.fld (F.IND_CTRL_STRIDE k))
def winAdvance (k : Nat) (s : State) : State := s.setFld (F.IND_ADDR_WADDR k) (winWaddr s k + strideOf s k)

/-- The number of a window's counter snapshot. -/
def winIx (k : Nat) : Nat := 6 + k

/-- Whether a target does not answer at present: the sky channels while SKY_CLK is stopped (R284). -/
def targetSilent (s : State) (domain : Nat) : Bool := decide (domain = 5) && s.sky.stopped

/-- What identifies a mailbox word that a read samples. -/
def placeMark (p : Place) (s : State) : Nat × Nat :=
  match p with
  | .reg _ d i => if d.live = .mboxRd then mboxMark s i else (0, 0)
  | _ => (0, 0)

/-! ### The FIFO (R78, R80, R581) -/

/-- The write at the head of a window's accesses is applied, where it is one of register `r` and no write is being taken. A read that came
before it is still to be served, and holds it (R78). -/
def winApply (k : Nat) (r : WinReg) (f : Word → State → State) (s : State) : State :=
  match (s.win k).fifo with
  | .write ag x d :: rest =>
    if x = r ∧ ¬(s.win k).taking then
      f d (s.updWin k fun w => { w with fifo := rest, core := (hearthCore ag).getD w.core })
    else s
  | _ => s

/-- DIR of a window: 1 writes. -/
def dirWrite (s : State) (k : Nat) : Bool := s.flag (F.IND_CTRL_DIR k)

/-- A write of `IND_ADDR` (R79). -/
def addrApply (k : Nat) (d : Word) (s : State) : State :=
  let s1 := (s.setReg (Reg.IND_ADDR k) d).updWin k fun w => { w with launch := none }
  if dirWrite s1 k then s1 else winLaunch k s1

/-- A write of `IND_CTRL` (R82, R85). -/
def ctrlApply (k : Nat) (d : Word) (s : State) : State :=
  let s1 := s.setReg (Reg.IND_CTRL k) (normWord .indCtrl 0 (d &&& 0x103#32))
  if dirWrite s1 k = dirWrite s k then s1 else s1.updWin k fun w => { w with launch := none }

/-- A write of `IND_DATA` (R80, R581): with DIR 1 the target is to take it, unless the access fails or PF1 may not make it. -/
def dataApply (k : Fin 4) (d : Word) (s : State) : State :=
  let s1 := s.setReg (Reg.IND_DATA k) d
  if ¬dirWrite s k then s1
  else match winFails s k with
  | some f => winAdvance k (winErr k f s1)
  | none =>
    if secondDenied (winOwner k s) (winDomain s k) (winWaddr s k) s then
      let s2 := match winDomain s k, placeOf (winWaddr s k) with
        | 0, .none => unmapped (winOwner k s) (winWaddr s k) s1
        | _, _ => s1
      winAdvance k (s2.raise F.HOST_INT_STATUS_PF1_DENIED)
    else s1.updWin k fun w => { w with taking := true }

/-- Whether the write at the head of the FIFO is held: domain 0x06 while a commit runs (R390). -/
def dataHeld (s : State) (k : Nat) : Bool := dirWrite s k && decide (winDomain s k = 6 ∧ s.net.commit ≠ 0)

/-- The target takes the write; the tables take none while a commit runs (R390). -/
def targetTaken (k : Fin 4) (s : State) : State :=
  let dom := winDomain s k
  if ¬(s.win k).taking ∨ targetSilent s dom ∨ (dom = 6 ∧ s.net.commit ≠ 0) then s
  else
    let d := s.reg (Reg.IND_DATA k)
    let s1 := s.updWin k fun w => { w with taking := false }
    let s2 := if dom = 0 then busWrite (winOwner k s) (winIx k) true (winWaddr s k) true d s1
      else indTake k dom (winWaddr s k) d s1
    winAdvance k s2

/-! ### Reads of window registers (R78, R79, R82) -/

/-- The register that a sample of domain 0x00 is taken from. -/
def placeReg : Place → Option Nat
  | .reg a _ _ | .bit a _ _ _ => some a
  | _ => none

/-- The window starts to watch a sampled register (R82). -/
def State.watch? (s : State) (k : Nat) : Option Nat → State
  | some a => s.watch k a
  | none => s

/-- The fetched word is ready. A read through domain 0x00 is sampled without its effects, but for a counter's snapshot. -/
def readReady (k : Fin 4) (s : State) : State :=
  match (s.win k).launch with
  | some l =>
    if l.word.isSome ∨ targetSilent s l.domain then s
    else if l.domain = 0 then
      let p := placeOf l.waddr
      let v := placeValue (winOwner k s) (winIx k) p s
      let s1 := match p with
        | .reg a d _ => latchHi (winIx k) a d s
        | _ => s
      (s1.watch? k (placeReg p)).updWin k fun w =>
        { w with launch := some { l with word := some v, mark := placeMark p s, sampled := placeReg p } }
    else s.updWin k fun w => { w with launch := some { l with word := some (indValue k l.domain l.waddr s) } }
  | none => s

/-- The effects of returning the word `v` of a launch (R82): those of the read it stands for in domain 0x00, where an event may have set a
bit again since the sampling or, `same`, in this very cycle. Of the other domains only `PWR_EVT_TOTAL` is a counter, which ends the
window's snapshot (R53, R86). -/
def launchEffects (ag : Agent) (k : Fin 4) (l : Launch) (v same : Word) (s : State) : State :=
  if l.domain = 0 ∧ wordPopulated 0 l.waddr then
    let again := match l.sampled with
      | some a => s.againAt k a
      | none => 0
    let since := match placeOf l.waddr with
      | .bit _ b _ _ => BitVec.ofNat 32 (bits again b 1)
      | _ => again
    readEffects ag (winIx k) l.waddr (placeOf l.waddr) v (same ||| since) s
  else if l.domain = 1 ∧ l.waddr = evtTotal then s.setSnap (winIx k) none
  else s

/-- A read of `IND_DATA` whose turn has come: whether it is served, as it is where its word is ready, and the state after it. A mailbox head
that has changed is sampled again. -/
def dataRead (ag : Agent) (k : Fin 4) (same : Word) (s : State) : Bool × State :=
  match (s.win k).launch with
  | none => (true, complete ag (s.reg (Reg.IND_DATA k)) s)
  | some l =>
    match l.word with
    | none => (false, s)
    | some v =>
      if l.domain = 0 ∧ wordPopulated 0 l.waddr ∧ placeMark (placeOf l.waddr) s ≠ l.mark then
        (false, s.updWin k fun w => { w with launch := some { l with word := none, sampled := none } })
      else
        let s1 := ((launchEffects ag k l v same s).setReg (Reg.IND_DATA k) v).updWin k fun w => { w with launch := none }
        (true, complete ag v (if strideOf s1 k = 0 then s1 else winLaunch k (winAdvance k s1)))

/-- A read of a window register whose turn has come; `IND_STATUS` clears what it returns. -/
def turnRead (ag : Agent) (k r : Fin 4) (same : Word) (s : State) : Bool × State :=
  match r with
  | 0 => (true, complete ag (s.reg (Reg.IND_ADDR k)) s)
  | 1 => dataRead ag k same s
  | 2 => (true, complete ag (s.reg (Reg.IND_CTRL k)) s)
  | 3 =>
    let v := liveWord .indStatus k (Reg.IND_STATUS k) s
    (true, complete ag v (s.clearBits (Reg.IND_STATUS k) (v &&& 0x3E#32)))

/-- The read at the head of a window's accesses is served, once the last write before it has been taken (R78). -/
def turnServe (k : Fin 4) (s : State) : State :=
  match (s.win k).fifo with
  | .read ag r same :: _ =>
    if (s.win k).taking then s
    else
      let x := turnRead ag k r same s
      if x.1 then x.2.updWin k fun w => { w with fifo := w.fifo.drop 1 } else x.2
  | _ => s

/-- The reads whose turn has come are served, in order. -/
def winServe (k : Fin 4) (s : State) : State :=
  settleIrq (forUpto (s.win k).fifo.length (fun _ => turnServe k) (noCompletions s))

/-- A read of a register of a window arrives and takes its place in order (R78); one of another agent's window returns 0 (R76). -/
def winRead (ag : Agent) (k r : Fin 4) (same : Word) (s : State) : State :=
  if k ≠ winOf ag then settleIrq (complete ag 0 ((noCompletions s).raise F.HOST_INT_STATUS_WIN_FOREIGN))
  else winServe k (s.updWin k fun w => { w with fifo := w.fifo ++ [.read ag r same] })

/-- A read DW (R56, R57): one without byte enables has no effect and returns 0. -/
def busRead (ag : Agent) (ca w : Nat) (be : BitVec 4) (s : State) : State :=
  if be = 0 then complete ag 0 (noCompletions s)
  else match placeOf w with
  | .win k r => winRead ag k r 0 s
  | _ =>
    let r := plainRead ag ca w s
    settleIrq (complete ag r.1 (noCompletions r.2))

/-- An access of an agent of its own, by BAR0 offset. -/
def agentRead (ag : Agent) (off : Nat) (be : BitVec 4) (s : State) : State := busRead ag (agentIx ag) (off / 4) be s
def agentWrite (ag : Agent) (off : Nat) (be : BitVec 4) (d : Word) (s : State) : State :=
  busWrite ag (agentIx ag) false (off / 4) (decide (be = 0xF)) d s

/-- The target has not answered (R83): a write is lost, a read returns 0. -/
def winTimeout (k : Nat) (s : State) : State :=
  let w := s.win k
  if w.taking then winAdvance k ((winErr k F.IND_STATUS_TIMEOUT s).updWin k fun w => { w with taking := false })
  else match w.launch with
  | some l =>
    if l.word.isNone then (winErr k F.IND_STATUS_TIMEOUT s).updWin k fun w => { w with launch := some { l with word := some 0 } }
    else s
  | none => s

/-! ### Writes that reach a sky channel (R288, R291, R306) -/

/-- A write of a channel's word by window k reaches it, unless SKY_CLK is stopped, where the access ends with TIMEOUT (R83, R284). -/
def skyWrite (k : Fin 4) (c w : Nat) (d : Word) (s : State) : State :=
  if targetSilent s 5 then winErr k F.IND_STATUS_TIMEOUT s else targetWrite (winOwner k s) 0x12 (chanWrite (chanWord c w) d) s

/-! ### PCIE_PERST_N (R60) -/

/-- The registers that PCIE_PERST_N resets: the HOST page but for windows 2 and 3. -/
def perstReg (a : Nat) : Bool := decide (a / 1024 = 1 ∧ ¬(0x428 ≤ a ∧ a < 0x430))

/-- The PCIe link is in training or up, or not (R579). -/
def setTraining (b : Bool) (s : State) : State := { s with hst := { s.hst with linkTraining := b } }

/-- PCIE_PERST_N: windows 0 and 1 abandon what they hold; the functions lose MSI-X state, snapshots and staged words. DESIGN CHOICE
(log 13): the words of an unfinished forwarding entry that a window has gathered (R385) stay. -/
def pciePerst (s : State) : State :=
  let s1 := s.wipeRegs perstReg
  let mine (e : Nat) : Bool := decide (e ≠ 0 ∧ e ≠ 1 ∧ e ≠ 6 ∧ e ≠ 7)
  { s1 with hst := { s1.hst with
      win := s1.hst.win.filter (fun e => decide (2 ≤ e.1)), msix := [], linkTraining := false,
      snap := s1.hst.snap.filter (fun e => mine e.1), stage := s1.hst.stage.filter (fun e => mine e.1) } }

/-! ### Commands -/

def execRegisterWrite (ag : Agent) (addr : BitVec 26) (be : BitVec 4) (d : Word) (s : State) : Host.Outcome State Fault Refusal :=
  whenMain s (agentWrite ag addr.toNat be d)
def execRcRead (ag : Agent) (addr : BitVec 26) (be : BitVec 4) (s : State) : Host.Outcome State Fault Refusal :=
  whenMain s (agentRead ag addr.toNat be)
/-- The BAR0 offset of the alias word of a page (R73): `b` is w × 32 + bit. -/
def aliasOff (page : BitVec 12) (b : BitVec 11) : Nat := 0x1000000 + page.toNat * 0x2000 + b.toNat * 4
def execAliasWrite (ag : Agent) (page : BitVec 12) (b : BitVec 11) (d : Word) (s : State) : Host.Outcome State Fault Refusal :=
  whenMain s (agentWrite ag (aliasOff page b) 0xF d)
def execAliasRead (ag : Agent) (page : BitVec 12) (b : BitVec 11) (s : State) : Host.Outcome State Fault Refusal :=
  whenMain s (agentRead ag (aliasOff page b) 0xF)
def execLockWrite (ag : Agent) (page : BitVec 12) (d : Word) (s : State) : Host.Outcome State Fault Refusal :=
  whenMain s (agentWrite ag (page.toNat * 0x1000 + 0x1C) 0xF d)
/-- Writes that can take an interrupt's enable away, or the mailboxes' causes with a RESTART: their vectors deassert at once (R95). -/
def execFormatWrite (ag : Agent) (d : Word) (s : State) : Host.Outcome State Fault Refusal :=
  whenMain s fun s => settleIrq (regWrite ag Reg.TBASE_CTRL Rd.TBASE_CTRL actTbaseCtrl allBits d s)
def execSkyEnWrite (ag : Agent) (d : Word) (s : State) : Host.Outcome State Fault Refusal :=
  whenMain s fun s => settleIrq (regWrite ag Reg.SKY_CTRL Rd.SKY_CTRL actSkyCtrl allBits d s)
def execGo (ag : Agent) (d : Word) (s : State) : Host.Outcome State Fault Refusal :=
  whenMain s fun s => settleIrq (regWrite ag Reg.HRTH_BOOT_CMD Rd.HRTH_BOOT_CMD (actBootCmd ag) allBits (d ||| 1) s)
/-- R549: a flipped bit can be an enable or a route. -/
def execRegParity (addr : BitVec 26) (i : Fin 32) (s : State) : Host.Outcome State Fault Refusal :=
  whenMain s fun s => settleIrq (parityError (addr.toNat / 4) i s)
def execIntForce (ag : Agent) (page : BitVec 12) (d : Word) (s : State) : Host.Outcome State Fault Refusal :=
  whenMain s (agentWrite ag (page.toNat * 0x1000 + 0x18) 0xF d)
def execCounterLoRead (ag : Agent) (addr : BitVec 26) (s : State) : Host.Outcome State Fault Refusal :=
  whenMain s (agentRead ag addr.toNat 0xF)
def execCounterHiRead (ag : Agent) (addr : BitVec 26) (s : State) : Host.Outcome State Fault Refusal :=
  whenMain s (agentRead ag addr.toNat 0xF)
def execCounterHiWrite (ag : Agent) (addr : BitVec 26) (d : Word) (s : State) : Host.Outcome State Fault Refusal :=
  whenMain s (agentWrite ag addr.toNat 0xF d)
def execCounterLoWrite (ag : Agent) (addr : BitVec 26) (d : Word) (s : State) : Host.Outcome State Fault Refusal :=
  whenMain s (agentWrite ag addr.toNat 0xF d)

/-- The register of a window that a write names. -/
def winRegAddr (k : Nat) : WinReg → Nat
  | .addr => Reg.IND_ADDR k
  | .data => Reg.IND_DATA k
  | .ctrl => Reg.IND_CTRL k
def execIndWrite (ag : Agent) (k : Fin 4) (r : WinReg) (d : Word) (s : State) : Host.Outcome State Fault Refusal :=
  whenMain s (agentWrite ag (4 * winRegAddr k r) 0xF d)
def execIndAddrApply (k : Fin 4) (s : State) : Host.Outcome State Fault Refusal :=
  whenMain s fun s => winServe k (winApply k .addr (addrApply k) s)
def execIndDataApply (k : Fin 4) (s : State) : Host.Outcome State Fault Refusal :=
  whenMain s fun s => if dataHeld s k then s else winServe k (winApply k .data (dataApply k) s)
def execIndCtrlApply (k : Fin 4) (s : State) : Host.Outcome State Fault Refusal :=
  whenMain s fun s => winServe k (winApply k .ctrl (ctrlApply k) s)
def execIndTargetTaken (k : Fin 4) (s : State) : Host.Outcome State Fault Refusal := whenMain s fun s => winServe k (targetTaken k s)
def execIndReadReady (k : Fin 4) (s : State) : Host.Outcome State Fault Refusal := whenMain s fun s => winServe k (readReady k s)
def execIndDataRead (ag : Agent) (k : Fin 4) (again : Word) (s : State) : Host.Outcome State Fault Refusal :=
  whenMain s (winRead ag k 1 again)
def execIndStatusRead (ag : Agent) (k : Fin 4) (s : State) : Host.Outcome State Fault Refusal :=
  whenMain s (winRead ag k 3 0)
def execIndTimeout (k : Fin 4) (s : State) : Host.Outcome State Fault Refusal := whenMain s fun s => winServe k (winTimeout k s)

/-- The number of a mailbox queue. -/
def mboxNo (c : Fin 8) (d : Fin 2) : Nat := 2 * c + d
def execMboxQWr (ag : Agent) (c : Fin 8) (d : Fin 2) (x : Word) (s : State) : Host.Outcome State Fault Refusal :=
  whenMain s (agentWrite ag (4 * Reg.MBOX_Q_WR (mboxNo c d)) 0xF x)
def execPost (ag : Agent) (c : Fin 8) (d : Fin 2) (x : Word) (s : State) : Host.Outcome State Fault Refusal :=
  whenMain s (agentWrite ag (4 * Reg.MBOX_Q_CMD (mboxNo c d)) 0xF (x ||| 1))
def execAbort (ag : Agent) (c : Fin 8) (d : Fin 2) (x : Word) (s : State) : Host.Outcome State Fault Refusal :=
  whenMain s (agentWrite ag (4 * Reg.MBOX_Q_CMD (mboxNo c d)) 0xF (x ||| 4))
def execDiscard (ag : Agent) (c : Fin 8) (d : Fin 2) (x : Word) (s : State) : Host.Outcome State Fault Refusal :=
  whenMain s (agentWrite ag (4 * Reg.MBOX_Q_CMD (mboxNo c d)) 0xF (x ||| 2))
def execMboxQRd (ag : Agent) (c : Fin 8) (d : Fin 2) (s : State) : Host.Outcome State Fault Refusal :=
  whenMain s (agentRead ag (4 * Reg.MBOX_Q_RD (mboxNo c d)) 0xF)
def execMboxIntStatusRead (ag : Agent) (n : Fin 4) (s : State) : Host.Outcome State Fault Refusal :=
  whenMain s (agentRead ag (4 * Reg.MBOX_INT_STATUS n) 0xF)

/-- R288, R289: the rise of EN applies at sample count `count`. -/
def execSkyChannelStart (k : Fin 4) (c : Fin 64) (d : Word) (count : BitVec 32) (s : State) : Host.Outcome State Fault Refusal :=
  whenMain s fun s =>
    skyWrite k c 0 (d ||| 1) (if s.flag F.SKY_CTRL_EN ∧ ¬targetSilent s 5 then sampleCount count s else s)
def execSkyChannelStop (k : Fin 4) (c : Fin 64) (d : Word) (s : State) : Host.Outcome State Fault Refusal :=
  whenMain s (skyWrite k c 0 (d &&& ~~~1))

/-- R291: a write of the spacing, CODE_INC or CARR_INC. -/
def execSkyNcoWrite (k : Fin 4) (c : Fin 64) (which : Fin 3) (d : Word) (s : State) : Host.Outcome State Fault Refusal :=
  whenMain s (skyWrite k c (1 + which.val) d)

/-- R60. -/
def execPciePerst (s : State) : Host.Outcome State Fault Refusal := whenMain s pciePerst
/-- R579. -/
def execLinkTrainingStart (s : State) : Host.Outcome State Fault Refusal :=
  whenMain s fun s => if boardTest s then s else setTraining true s

end Sys2Proof.Machine
end

