-- ==== Sys2Proof/Machine/Tap.lean ====
section
/-!
DEFINITION. Sys2Proof/Machine/Tap.lean: the test access port (17_test_access.md, R564 to R573, R576): the controller of IEEE 1149.1,
cycle by cycle of TCK; the boundary register and what it drives; the two data registers of Yelud's own. TST_ACCESS and FUSE_PROG are also
commands of their own, which give the word that Update-DR takes (log 40).
-/
namespace Sys2Proof.Machine

/-- The opcodes of R566. -/
def irExtest : BitVec 8 := 0x00
def irSample : BitVec 8 := 0x01
def irIdcode : BitVec 8 := 0x02
def irHighz : BitVec 8 := 0x04
def irPulse : BitVec 8 := 0x05
def irTrain : BitVec 8 := 0x06
def irTstAccess : BitVec 8 := 0x20
def irFuseProg : BitVec 8 := 0x21
def irBypass : BitVec 8 := 0xFF

/-- Test access is locked (R573). -/
def tapLocked (s : State) : Bool := s.flag F.TST_PORT_CTRL_LOCK

/-- The IDCODE register (R565). -/
def idcode : Word := 0xB76805A3

/-! ### The boundary register (R567, R569, R570) -/

/-- What a cell is: the data cell of a TX pair or of another output, with its enable cell; a drive-low cell; the observe cell of an RX pair; or
one that drives nothing, an enable or an observe cell. -/
inductive CellKind where
  | tx (enable : Nat)
  | out (enable : Nat)
  | driveLow
  | rx
  | other
deriving DecidableEq, Repr

/-- The segments of the table. -/
def cellKind (c : Nat) : CellKind :=
  if c < 1536 then (if c % 2 = 0 then .tx (1536 + c / 256) else .rx)
  else if c < 1542 then .other
  else if c < 1606 then (if c % 2 = 0 then .tx 1606 else .rx)
  else if c = 1606 then .other
  else if c < 1611 then .tx 1616
  else if c < 1615 then .rx
  else if 1621 ≤ c ∧ c < 1625 then .out 1625
  else if 1647 ≤ c ∧ c < 1663 then (if c % 2 = 1 then .out (c + 1) else .other)
  else if (1663 ≤ c ∧ c ≤ 1666) ∨ c = 1668 then .driveLow
  else .other

/-- Whether a TX pair shows the opposite of its cell: the pulse of EXTEST_PULSE, every other falling TCK under EXTEST_TRAIN (R570). -/
def acFlip (t : TapSt) : Bool :=
  (decide (t.ir = irPulse) && decide (0 < t.falls)) || (decide (t.ir = irTrain) && decide (t.falls % 2 = 1))

/-- What the pin of a cell is driven to while board test holds the pins: a level, of a pair that of its _P ball; none in high impedance or where
the cell drives nothing. THERMTRIP_N, cell 1,664, stays low in a trip (R44). -/
def pinDriven (s : State) (cell : Nat) : Option Bool :=
  let b := s.tap.boundary.toNat
  if cell = 1664 ∧ s.pwr.tripped then some false
  else if s.tap.ir = irHighz then none
  else match cellKind cell with
    | .tx e => if b.testBit e then some (b.testBit cell != acFlip s.tap) else none
    | .out e => if b.testBit e then some (b.testBit cell) else none
    | .driveLow => if b.testBit cell then some false else none
    | .rx => none
    | .other => none

/-- A test receiver takes an edge of 100 mV or more; a smaller one leaves it (R570). -/
def receiveEdge (r : BitVec 1670) (e : Fin 1670 × Int) : BitVec 1670 :=
  if cellKind e.1 = .rx ∧ 100 ≤ e.2.natAbs then
    (if 0 < e.2 then r ||| BitVec.ofNat 1670 (2 ^ e.1.val) else r &&& ~~~(BitVec.ofNat 1670 (2 ^ e.1.val)))
  else r

/-- The observe cells of the RX pairs, as a mask. -/
def rxCells : BitVec 1670 := (upto 1670).foldl (fun m c => if cellKind c = .rx then m ||| BitVec.ofNat 1670 (2 ^ c) else m) 0

/-! ### The instructions (R566 to R573) -/

/-- Board test takes the pins from the core (R567): every lane that hears them loses its signal and its CDR lock, and the PCIe link
drops. -/
def pinsTaken (s : State) : State :=
  forUpto 800 (fun i s => if rxTaken s (laneAt i) then laneLos (laneAt i) true (laneLos (laneAt i) false s) else s)
    (setTraining false s)

/-- Update-IR (R566, R567, R573). -/
def tapUpdateIr (op : BitVec 8) (s : State) : State :=
  if tapLocked s ∧ (op = irTstAccess ∨ op = irFuseProg) then
    (s.updTap fun t => { t with ir := irBypass }).raise F.TST_INT_STATUS_ACCESS_LOCKED
  else
    let s1 := s.updTap fun t => { t with ir := op }
    if boardTest s1 ∧ ¬boardTest s then pinsTaken s1 else s1

/-- Whether the boundary register is the data register. -/
def usesBoundary (op : BitVec 8) : Bool := [irExtest, irSample, irPulse, irTrain].contains op

/-- The length of the data register. -/
def drLength (op : BitVec 8) : Nat :=
  if usesBoundary op then 1670
  else if op = irIdcode then 32
  else if op = irTstAccess then 36
  else if op = irFuseProg then 390
  else 1

/-- Update-DR of TST_ACCESS (R571): DATA in [31:0], REG in [33:32], WRITE in [34], GO in [35]. -/
def tstAccess (dr : BitVec 36) (s : State) : State :=
  let x := dr.toNat
  let r : Fin 4 := Fin.ofNat 4 (x / 2 ^ 32)
  if s.tap.ir ≠ irTstAccess ∨ ¬x.testBit 35 then s
  else if x.testBit 34 then busWrite .test (agentIx .test) false (0x42C + r.val) true (BitVec.ofNat 32 x) s
  else winRead .test 3 r 0 (s.updTap fun t => { t with valid := false, reading := t.reading + 1 })

/-- Why FUSE_PROG is refused (R572). -/
def fuseRefused (s : State) (slot : Nat) : Bool :=
  decide (slot = 0) || s.boot.valid.toNat.testBit slot || decide (bootState s = 3 ∨ bootState s = 4) || tapLocked s

/-- Update-DR of FUSE_PROG (R572): the hash in [383:0], SLOT in [385:384], GO in [386]. -/
def fuseProg (dr : BitVec 390) (s : State) : State :=
  let x := dr.toNat
  let slot : Fin 4 := Fin.ofNat 4 (x / 2 ^ 384)
  if s.tap.ir ≠ irFuseProg ∨ ¬x.testBit 386 ∨ s.tap.blowing.isSome then s
  else if fuseRefused s slot then (s.updTap fun t => { t with refused := true }).raise F.TST_INT_STATUS_FUSE_REFUSED
  else s.updTap fun t => { t with refused := false, blowing := some (slot, BitVec.ofNat 384 x) }

/-- What FUSE_PROG captures above the hash: BUSY in [386], REFUSED in [387]. -/
def fuseCapture (s : State) : Nat := flagAt s.tap.blowing.isSome 386 + flagAt s.tap.refused 387

/-- The fuses are blown: the hash applies from the next verification (R536, R572). -/
def fuseDone (s : State) : State :=
  match s.tap.blowing with
  | none => s
  | some (k, h) =>
    ((s.updTap fun t => { t with blowing := none }).updBoot fun b =>
      { b with valid := b.valid ||| BitVec.ofNat 4 (2 ^ k.val), hash := smapSet (fun _ => 0) b.hash k h }).raise
        F.TST_INT_STATUS_FUSE_DONE

/-! ### The controller (R564) -/

/-- The state after a rising edge of TCK with a level of TMS. -/
def TapPhase.next : TapPhase → Bool → TapPhase
  | .reset, t => if t then .reset else .idle
  | .idle, t => if t then .selectDr else .idle
  | .selectDr, t => if t then .selectIr else .captureDr
  | .captureDr, t => if t then .exit1Dr else .shiftDr
  | .shiftDr, t => if t then .exit1Dr else .shiftDr
  | .exit1Dr, t => if t then .updateDr else .pauseDr
  | .pauseDr, t => if t then .exit2Dr else .pauseDr
  | .exit2Dr, t => if t then .updateDr else .shiftDr
  | .updateDr, t => if t then .selectDr else .idle
  | .selectIr, t => if t then .reset else .captureIr
  | .captureIr, t => if t then .exit1Ir else .shiftIr
  | .shiftIr, t => if t then .exit1Ir else .shiftIr
  | .exit1Ir, t => if t then .updateIr else .pauseIr
  | .pauseIr, t => if t then .exit2Ir else .pauseIr
  | .exit2Ir, t => if t then .updateIr else .shiftIr
  | .updateIr, t => if t then .selectDr else .idle

/-- What Capture-DR takes, with the levels that the cells see: TST_ACCESS the last read's result and VALID, FUSE_PROG BUSY and REFUSED. -/
def drCapture (s : State) (pins : BitVec 1670) : BitVec 1670 :=
  let t := s.tap
  if usesBoundary t.ir then (pins &&& ~~~rxCells) ||| (t.receivers &&& rxCells)
  else if t.ir = irIdcode then BitVec.ofNat 1670 idcode.toNat
  else if t.ir = irTstAccess then BitVec.ofNat 1670 (t.result.toNat + flagAt t.valid 35)
  else if t.ir = irFuseProg then BitVec.ofNat 1670 (fuseCapture s)
  else 0

/-- The rising edge of TCK: capture or shift, in the state that it ends; a bit shifts out at TDO. -/
def tapRise (c : TapClock) (s : State) : State :=
  let t := s.tap
  match t.phase with
  | .captureDr => s.updTap fun t => { t with drShift := drCapture s c.pins, tdo := [] }
  | .shiftDr => s.updTap fun t =>
      { t with drShift := t.drShift >>> 1 ||| (if c.tdi then BitVec.ofNat 1670 (2 ^ (drLength t.ir - 1)) else 0),
               tdo := t.drShift.getLsbD 0 :: t.tdo }
  | .captureIr => s.updTap fun t => { t with irShift := 1, tdo := [] }
  | .shiftIr => s.updTap fun t =>
      { t with irShift := t.irShift >>> 1 ||| (if c.tdi then 0x80#8 else 0), tdo := t.irShift.getLsbD 0 :: t.tdo }
  | _ => s

/-- Update-DR: the boundary register, or the word of TST_ACCESS or FUSE_PROG; TST_ACCESS needs HCLK. -/
def tapUpdateDr (s : State) : State :=
  let t := s.tap
  if usesBoundary t.ir then s.updTap fun t => { t with boundary := t.drShift }
  else if t.ir = irTstAccess then (if s.pwr.mainUp then tstAccess (t.drShift.setWidth 36) s else s)
  else if t.ir = irFuseProg then fuseProg (t.drShift.setWidth 390) s
  else s

/-- The falling edge of TCK, in the state that the rising edge brought. -/
def tapFall (s : State) : State :=
  match s.tap.phase with
  | .updateDr => tapUpdateDr s
  | .updateIr => tapUpdateIr s.tap.irShift s
  | .reset => s.updTap fun t => { t with ir := irIdcode }
  | .idle => s.updTap fun t => { t with falls := t.falls + 1 }
  | _ => s

/-- One cycle of TCK. -/
def tapClock (c : TapClock) (s : State) : State :=
  let s1 := s.updTap fun t => { t with receivers := c.edges.foldl receiveEdge t.receivers }
  let s2 := (tapRise c s1).updTap fun t =>
    { t with phase := t.phase.next c.tms, falls := if t.phase.next c.tms = .idle then t.falls else 0 }
  tapFall s2

/-- TRST_N, or Test-Logic-Reset. -/
def tapReset (s : State) : State := s.updTap fun t => { t with phase := .reset, ir := irIdcode, falls := 0 }

/-- The TAP answers while the rails are good: it needs no clock but TCK (R564). -/
def whenRails (s : State) (f : State → State) : Host.Outcome State Fault Refusal := .next (if s.pwr.railsGood then f s else s)

/-! ### Commands -/

def execTapReset (s : State) : Host.Outcome State Fault Refusal := whenRails s tapReset

/-- The cycles of TCK that bring the controller to Update-IR. -/
def execTapInstructionUpdate (clocks : List TapClock) (s : State) : Host.Outcome State Fault Refusal :=
  whenRails s fun s => clocks.foldl (fun s c => tapClock c s) s
/-- TST_ACCESS needs HCLK. -/
def execTstAccess (dr : BitVec 36) (s : State) : Host.Outcome State Fault Refusal := whenMain s (tstAccess dr)
def execFuseProg (dr : BitVec 390) (s : State) : Host.Outcome State Fault Refusal := whenRails s (fuseProg dr)
def execFuseDone (s : State) : Host.Outcome State Fault Refusal := whenRails s fuseDone

end Sys2Proof.Machine
end

