-- ==== Sys2Proof/Machine/Dispatch.lean ====
section
/-!
DEFINITION. Sys2Proof/Machine/Dispatch.lean: the meaning of each command, one arm per constructor of Instr.
-/
namespace Sys2Proof.Machine

def exec (i : Instr) (s : State) : Host.Outcome State Fault Refusal :=
  match i with
  | .stageStart vin => Sys2Proof.Machine.execStageStart vin s
  | .railsGood => Sys2Proof.Machine.execRailsGood s
  | .internalResetRelease twinPref boot enumHead => Sys2Proof.Machine.execInternalResetRelease twinPref boot enumHead s
  | .resetNAssert tj => Sys2Proof.Machine.execResetNAssert tj s
  | .keeperLock => Sys2Proof.Machine.execKeeperLock s
  | .mainDomainRelease => Sys2Proof.Machine.execMainDomainRelease s
  | .warnAssert vin => Sys2Proof.Machine.execWarnAssert vin s
  | .warnClear vin vinMin oclk => Sys2Proof.Machine.execWarnClear vin vinMin oclk s
  | .evtFlagClear => Sys2Proof.Machine.execEvtFlagClear s
  | .supplyReset vin => Sys2Proof.Machine.execSupplyReset vin s
  | .supplyRestart vin => Sys2Proof.Machine.execSupplyRestart vin s
  | .ovenIslandStop holdup => Sys2Proof.Machine.execOvenIslandStop holdup s
  | .holdupReady holdup => Sys2Proof.Machine.execHoldupReady holdup s
  | .holdupCapEstimate uF => Sys2Proof.Machine.execHoldupCapEstimate uF s
  | .holdupLow holdup => Sys2Proof.Machine.execHoldupLow holdup s
  | .pwrWarnLevelWrite ag d => Sys2Proof.Machine.execPwrWarnLevelWrite ag d s
  | .pwrMeasureUpdate vin iin pin holdup rails => Sys2Proof.Machine.execPwrMeasureUpdate vin iin pin holdup rails s
  | .tempUpdate sensors => Sys2Proof.Machine.execTempUpdate sensors s
  | .thermalTrip tj => Sys2Proof.Machine.execThermalTrip tj s
  | .tripRestart tj => Sys2Proof.Machine.execTripRestart tj s
  | .pciePerst => Sys2Proof.Machine.execPciePerst s
  | .linkTrainingStart => Sys2Proof.Machine.execLinkTrainingStart s
  | .registerWrite ag addr be d => Sys2Proof.Machine.execRegisterWrite ag addr be d s
  | .rcRead ag addr be => Sys2Proof.Machine.execRcRead ag addr be s
  | .aliasWrite ag page bit d => Sys2Proof.Machine.execAliasWrite ag page bit d s
  | .aliasRead ag page bit => Sys2Proof.Machine.execAliasRead ag page bit s
  | .lockWrite ag page d => Sys2Proof.Machine.execLockWrite ag page d s
  | .intForce ag page d => Sys2Proof.Machine.execIntForce ag page d s
  | .counterLoRead ag addr => Sys2Proof.Machine.execCounterLoRead ag addr s
  | .counterHiRead ag addr => Sys2Proof.Machine.execCounterHiRead ag addr s
  | .counterHiWrite ag addr d => Sys2Proof.Machine.execCounterHiWrite ag addr d s
  | .counterLoWrite ag addr d => Sys2Proof.Machine.execCounterLoWrite ag addr d s
  | .interruptLineUpdate => Sys2Proof.Machine.execInterruptLineUpdate s
  | .msixMessage fn vec => Sys2Proof.Machine.execMsixMessage fn vec s
  | .msixUnmask fn vec => Sys2Proof.Machine.execMsixUnmask fn vec s
  | .msixEnable fn => Sys2Proof.Machine.execMsixEnable fn s
  | .irqEoi ag d => Sys2Proof.Machine.execIrqEoi ag d s
  | .indWrite ag win reg d => Sys2Proof.Machine.execIndWrite ag win reg d s
  | .indAddrApply win => Sys2Proof.Machine.execIndAddrApply win s
  | .indDataApply win => Sys2Proof.Machine.execIndDataApply win s
  | .indCtrlApply win => Sys2Proof.Machine.execIndCtrlApply win s
  | .indTargetTaken win => Sys2Proof.Machine.execIndTargetTaken win s
  | .indReadReady win => Sys2Proof.Machine.execIndReadReady win s
  | .indDataRead ag win again => Sys2Proof.Machine.execIndDataRead ag win again s
  | .indStatusRead ag win => Sys2Proof.Machine.execIndStatusRead ag win s
  | .indTimeout win => Sys2Proof.Machine.execIndTimeout win s
  | .mboxQWr ag ch q d => Sys2Proof.Machine.execMboxQWr ag ch q d s
  | .post ag ch q d => Sys2Proof.Machine.execPost ag ch q d s
  | .abort ag ch q d => Sys2Proof.Machine.execAbort ag ch q d s
  | .discard ag ch q d => Sys2Proof.Machine.execDiscard ag ch q d s
  | .mboxQRd ag ch q => Sys2Proof.Machine.execMboxQRd ag ch q s
  | .mboxArrived ch q => Sys2Proof.Machine.execMboxArrived ch q s
  | .mboxEmptied ch q => Sys2Proof.Machine.execMboxEmptied ch q s
  | .mboxIntStatusRead ag n => Sys2Proof.Machine.execMboxIntStatusRead ag n s
  | .dlnLaneEnable ag lane d => Sys2Proof.Machine.execDlnLaneEnable ag lane d s
  | .laneDisable ag lane d => Sys2Proof.Machine.execLaneDisable ag lane d s
  | .txReady lane => Sys2Proof.Machine.execTxReady lane s
  | .signal lane => Sys2Proof.Machine.execSignal lane s
  | .cdrLock lane => Sys2Proof.Machine.execCdrLock lane s
  | .coarseDone lane vals => Sys2Proof.Machine.execCoarseDone lane vals s
  | .aligned lane slip => Sys2Proof.Machine.execAligned lane slip s
  | .los lane cdrLost => Sys2Proof.Machine.execLos lane cdrLost s
  | .alignLost lane => Sys2Proof.Machine.execAlignLost lane s
  | .adaptRestart ag lane d => Sys2Proof.Machine.execAdaptRestart ag lane d s
  | .densityWindowEnd lane transitions vals => Sys2Proof.Machine.execDensityWindowEnd lane transitions vals s
  | .adaptHoldWrite ag lane d => Sys2Proof.Machine.execAdaptHoldWrite ag lane d s
  | .dlnPresetStage win lane d => Sys2Proof.Machine.execDlnPresetStage win lane d s
  | .dlnPresetApply win lane d => Sys2Proof.Machine.execDlnPresetApply win lane d s
  | .alnPresetWrite win lane d => Sys2Proof.Machine.execAlnPresetWrite win lane d s
  | .boundWrite win lane word d => Sys2Proof.Machine.execBoundWrite win lane word d s
  | .loopbackChange ag lane d => Sys2Proof.Machine.execLoopbackChange ag lane d s
  | .txpllLock pll => Sys2Proof.Machine.execTxpllLock pll s
  | .txpllUnlock pll => Sys2Proof.Machine.execTxpllUnlock pll s
  | .prbsGenSet ag lane d => Sys2Proof.Machine.execPrbsGenSet ag lane d s
  | .prbsCheckerLock lane hist words => Sys2Proof.Machine.execPrbsCheckerLock lane hist words s
  | .prbsLost lane words => Sys2Proof.Machine.execPrbsLost lane words s
  | .chkReseed ag lane d => Sys2Proof.Machine.execChkReseed ag lane d s
  | .injOne ag lane d => Sys2Proof.Machine.execInjOne ag lane d s
  | .errInjPeriodExpire lane => Sys2Proof.Machine.execErrInjPeriodExpire lane s
  | .feSlip lane fill => Sys2Proof.Machine.execFeSlip lane fill s
  | .alnLaneEnable ag lane d => Sys2Proof.Machine.execAlnLaneEnable ag lane d s
  | .syncAcq lane bitSlip => Sys2Proof.Machine.execSyncAcq lane bitSlip s
  | .syncLost lane => Sys2Proof.Machine.execSyncLost lane s
  | .resync ag lane d => Sys2Proof.Machine.execResync ag lane d s
  | .alnCodeGroupReceive lane slot atBoundary group => Sys2Proof.Machine.execAlnCodeGroupReceive lane slot atBoundary group s
  | .anDone lane => Sys2Proof.Machine.execAnDone lane s
  | .formatWrite ag d => Sys2Proof.Machine.execFormatWrite ag d s
  | .applyInc ag d => Sys2Proof.Machine.execApplyInc ag d s
  | .step ag d => Sys2Proof.Machine.execStep ag d s
  | .load ag d => Sys2Proof.Machine.execLoad ag d s
  | .snap ag d => Sys2Proof.Machine.execSnap ag d s
  | .snapDone => Sys2Proof.Machine.execSnapDone s
  | .cancel ag d => Sys2Proof.Machine.execCancel ag d s
  | .clrOutage ag d => Sys2Proof.Machine.execClrOutage ag d s
  | .cmdDone => Sys2Proof.Machine.execCmdDone s
  | .txtsRecordWrite id => Sys2Proof.Machine.execTxtsRecordWrite id s
  | .txtsPop ag d => Sys2Proof.Machine.execTxtsPop ag d s
  | .outputEdge k => Sys2Proof.Machine.execOutputEdge k s
  | .outputEnable ag k d => Sys2Proof.Machine.execOutputEnable ag k d s
  | .outputDisable ag k d => Sys2Proof.Machine.execOutputDisable ag k d s
  | .realign ag k d => Sys2Proof.Machine.execRealign ag k d s
  | .outParamWrite ag k which d => Sys2Proof.Machine.execOutParamWrite ag k which d s
  | .metResult cell code coarse => Sys2Proof.Machine.execMetResult cell code coarse s
  | .checkWindowEnd => Sys2Proof.Machine.execCheckWindowEnd s
  | .meanValidTimeout slot => Sys2Proof.Machine.execMeanValidTimeout slot s
  | .metCommit ag d => Sys2Proof.Machine.execMetCommit ag d s
  | .schedCommit => Sys2Proof.Machine.execSchedCommit s
  | .metSrcCfgWrite ag slot d => Sys2Proof.Machine.execMetSrcCfgWrite ag slot d s
  | .tableLoad ag d => Sys2Proof.Machine.execTableLoad ag d s
  | .tableExchange cell => Sys2Proof.Machine.execTableExchange cell s
  | .cdStart ag d => Sys2Proof.Machine.execCdStart ag d s
  | .cdDone cell => Sys2Proof.Machine.execCdDone cell s
  | .cellReturn ag d => Sys2Proof.Machine.execCellReturn ag d s
  | .metExtEnWrite ag d => Sys2Proof.Machine.execMetExtEnWrite ag d s
  | .extRefUp periods => Sys2Proof.Machine.execExtRefUp periods s
  | .extRefDown since edge => Sys2Proof.Machine.execExtRefDown since edge s
  | .arm ag d => Sys2Proof.Machine.execArm ag d s
  | .extGateEdge rising => Sys2Proof.Machine.execExtGateEdge rising s
  | .extStartEdge onDie rising code coarse => Sys2Proof.Machine.execExtStartEdge onDie rising code coarse s
  | .extStopEdge src rising code coarse => Sys2Proof.Machine.execExtStopEdge src rising code coarse s
  | .extDone => Sys2Proof.Machine.execExtDone s
  | .extTimeout => Sys2Proof.Machine.execExtTimeout s
  | .abandon ag d => Sys2Proof.Machine.execAbandon ag d s
  | .metExtPop ag d => Sys2Proof.Machine.execMetExtPop ag d s
  | .asymUpdate ag slot mpd d => Sys2Proof.Machine.execAsymUpdate ag slot mpd d s
  | .mpllLock counts vtune => Sys2Proof.Machine.execMpllLock counts vtune s
  | .mpllSearchTimeout => Sys2Proof.Machine.execMpllSearchTimeout s
  | .mpllLol => Sys2Proof.Machine.execMpllLol s
  | .mpllRelock ag d => Sys2Proof.Machine.execMpllRelock ag d s
  | .handback => Sys2Proof.Machine.execHandback s
  | .xoLoss => Sys2Proof.Machine.execXoLoss s
  | .xoReturn => Sys2Proof.Machine.execXoReturn s
  | .keeperAlignDone => Sys2Proof.Machine.execKeeperAlignDone s
  | .refSample ix x => Sys2Proof.Machine.execRefSample ix x s
  | .refPresenceChange ix present => Sys2Proof.Machine.execRefPresenceChange ix present s
  | .refinWindowEnd k edges => Sys2Proof.Machine.execRefinWindowEnd k edges s
  | .refFreqWindowEnd ix freq => Sys2Proof.Machine.execRefFreqWindowEnd ix freq s
  | .refQualified ix => Sys2Proof.Machine.execRefQualified ix s
  | .refCfgWrite ag ix which d => Sys2Proof.Machine.execRefCfgWrite ag ix which d s
  | .selectionEval => Sys2Proof.Machine.execSelectionEval s
  | .locked => Sys2Proof.Machine.execLocked s
  | .hoHistoryAppend => Sys2Proof.Machine.execHoHistoryAppend s
  | .holdoverTick => Sys2Proof.Machine.execHoldoverTick s
  | .disputeSlope ag d => Sys2Proof.Machine.execDisputeSlope ag d s
  | .disputeStep ag d => Sys2Proof.Machine.execDisputeStep ag d s
  | .disputeReject ag d => Sys2Proof.Machine.execDisputeReject ag d s
  | .adjGo ag d => Sys2Proof.Machine.execAdjGo ag d s
  | .clrHistory ag d => Sys2Proof.Machine.execClrHistory ag d s
  | .disqualify ag ix d => Sys2Proof.Machine.execDisqualify ag ix d s
  | .restore ag ix d => Sys2Proof.Machine.execRestore ag ix d s
  | .clkoutEnable ag k d => Sys2Proof.Machine.execClkoutEnable ag k d s
  | .clkoutDisable ag k d => Sys2Proof.Machine.execClkoutDisable ag k d s
  | .clkoutRealign ag k d => Sys2Proof.Machine.execClkoutRealign ag k d s
  | .clkoutAlignEdge k => Sys2Proof.Machine.execClkoutAlignEdge k s
  | .lockAUpdate => Sys2Proof.Machine.execLockAUpdate s
  | .lockAEnWrite ag d => Sys2Proof.Machine.execLockAEnWrite ag d s
  | .skyEnWrite ag d => Sys2Proof.Machine.execSkyEnWrite ag d s
  | .skyClkMeas hz => Sys2Proof.Machine.execSkyClkMeas hz s
  | .clkFault => Sys2Proof.Machine.execClkFault s
  | .skyEpochStamp count => Sys2Proof.Machine.execSkyEpochStamp count s
  | .auxEdge => Sys2Proof.Machine.execAuxEdge s
  | .skyChannelStart win ch d count => Sys2Proof.Machine.execSkyChannelStart win ch d count s
  | .skyChannelStop win ch d => Sys2Proof.Machine.execSkyChannelStop win ch d s
  | .skyNcoWrite win ch which d => Sys2Proof.Machine.execSkyNcoWrite win ch which d s
  | .skyDump ch count samples => Sys2Proof.Machine.execSkyDump ch count samples s
  | .bitSync ch => Sys2Proof.Machine.execBitSync ch s
  | .skyLnavWord ch => Sys2Proof.Machine.execSkyLnavWord ch s
  | .skyInavPage ch => Sys2Proof.Machine.execSkyInavPage ch s
  | .ringTick count => Sys2Proof.Machine.execRingTick count s
  | .skySnapGo ag d => Sys2Proof.Machine.execSkySnapGo ag d s
  | .skySnapDone first samples => Sys2Proof.Machine.execSkySnapDone first samples s
  | .submit ag d => Sys2Proof.Machine.execSubmit ag d s
  | .skyFixTimeout => Sys2Proof.Machine.execSkyFixTimeout s
  | .skyLockShortfall => Sys2Proof.Machine.execSkyLockShortfall s
  | .skyDelivery => Sys2Proof.Machine.execSkyDelivery s
  | .prfTempUpdate now => Sys2Proof.Machine.execPrfTempUpdate now s
  | .prfStart ag d => Sys2Proof.Machine.execPrfStart ag d s
  | .prfInterval => Sys2Proof.Machine.execPrfInterval s
  | .runStart => Sys2Proof.Machine.execRunStart s
  | .prfAbort ag d => Sys2Proof.Machine.execPrfAbort ag d s
  | .clrPending ag d => Sys2Proof.Machine.execClrPending ag d s
  | .portEnable ag p d => Sys2Proof.Machine.execPortEnable ag p d s
  | .macFrameReceive src id bytes overflow arr => Sys2Proof.Machine.execMacFrameReceive src id bytes overflow arr s
  | .pauseReceive p bytes => Sys2Proof.Machine.execPauseReceive p bytes s
  | .pfcReceive p bytes => Sys2Proof.Machine.execPfcReceive p bytes s
  | .pauseExpire p pri => Sys2Proof.Machine.execPauseExpire p pri s
  | .pfcRefresh p pri => Sys2Proof.Machine.execPfcRefresh p pri s
  | .linkUp p => Sys2Proof.Machine.execLinkUp p s
  | .linkDown p cause => Sys2Proof.Machine.execLinkDown p cause s
  | .laneFail p => Sys2Proof.Machine.execLaneFail p s
  | .lingerExpired p => Sys2Proof.Machine.execLingerExpired p s
  | .recoveryEnd p => Sys2Proof.Machine.execRecoveryEnd p s
  | .portDisable ag p d => Sys2Proof.Machine.execPortDisable ag p d s
  | .pipelineLookup src id head slot => Sys2Proof.Machine.execPipelineLookup src id head slot s
  | .injDescriptor => Sys2Proof.Machine.execInjDescriptor s
  | .fwdHinjDataWrite ag d => Sys2Proof.Machine.execFwdHinjDataWrite ag d s
  | .send ag d => Sys2Proof.Machine.execSend ag d s
  | .trapWrite id => Sys2Proof.Machine.execTrapWrite id s
  | .fwdStageWrite win waddr d => Sys2Proof.Machine.execFwdStageWrite win waddr d s
  | .commit ag d => Sys2Proof.Machine.execCommit ag d s
  | .commitCheckEnd ecc devs => Sys2Proof.Machine.execCommitCheckEnd ecc devs s
  | .commitCycle => Sys2Proof.Machine.execCommitCycle s
  | .commitDone => Sys2Proof.Machine.execCommitDone s
  | .fwdDiscard ag d => Sys2Proof.Machine.execFwdDiscard ag d s
  | .admissionDecision id => Sys2Proof.Machine.execAdmissionDecision id s
  | .sliceWrite id slice bytes => Sys2Proof.Machine.execSliceWrite id slice bytes s
  | .quarantineEnd p => Sys2Proof.Machine.execQuarantineEnd p s
  | .allocRecompute => Sys2Proof.Machine.execAllocRecompute s
  | .auditPass xlinks => Sys2Proof.Machine.execAuditPass xlinks s
  | .reclaimAll ag d => Sys2Proof.Machine.execReclaimAll ag d s
  | .selection p corrupt stamp => Sys2Proof.Machine.execSelection p corrupt stamp s
  | .egressHandover id => Sys2Proof.Machine.execEgressHandover id s
  | .frameTransmitEnd id corrupt => Sys2Proof.Machine.execFrameTransmitEnd id corrupt s
  | .shaperRefresh => Sys2Proof.Machine.execShaperRefresh s
  | .forgive ag d => Sys2Proof.Machine.execForgive ag d s
  | .policerRefresh => Sys2Proof.Machine.execPolicerRefresh s
  | .polCfgWrite ag ix d => Sys2Proof.Machine.execPolCfgWrite ag ix d s
  | .walkStart => Sys2Proof.Machine.execWalkStart s
  | .sampleQueueRecord => Sys2Proof.Machine.execSampleQueueRecord s
  | .evtCounterReload k => Sys2Proof.Machine.execEvtCounterReload k s
  | .slotEnWrite ag d => Sys2Proof.Machine.execSlotEnWrite ag d s
  | .slotSnap ag d => Sys2Proof.Machine.execSlotSnap ag d s
  | .slotClear ag d => Sys2Proof.Machine.execSlotClear ag d s
  | .dump => Sys2Proof.Machine.execDump s
  | .tagRecordCopy r => Sys2Proof.Machine.execTagRecordCopy r s
  | .dmaResume fn => Sys2Proof.Machine.execDmaResume fn s
  | .helloSend k => Sys2Proof.Machine.execHelloSend k s
  | .syncSend k j => Sys2Proof.Machine.execSyncSend k j s
  | .helloReceive k bytes codeErr => Sys2Proof.Machine.execHelloReceive k bytes codeErr s
  | .syncReceive k bytes codeErr j ago => Sys2Proof.Machine.execSyncReceive k bytes codeErr j ago s
  | .stateReceive k bytes codeErr => Sys2Proof.Machine.execStateReceive k bytes codeErr s
  | .prepare k bytes codeErr => Sys2Proof.Machine.execPrepare k bytes codeErr s
  | .ready k bytes codeErr => Sys2Proof.Machine.execReady k bytes codeErr s
  | .refuse k bytes codeErr => Sys2Proof.Machine.execRefuse k bytes codeErr s
  | .xstepCommit k bytes codeErr => Sys2Proof.Machine.execXstepCommit k bytes codeErr s
  | .xstepAbort k bytes codeErr => Sys2Proof.Machine.execXstepAbort k bytes codeErr s
  | .linkSilent k => Sys2Proof.Machine.execLinkSilent k s
  | .linkCheckLoss k hello sync => Sys2Proof.Machine.execLinkCheckLoss k hello sync s
  | .interlockPeriod period low => Sys2Proof.Machine.execInterlockPeriod period low s
  | .hbLost => Sys2Proof.Machine.execHbLost s
  | .twinObserveDone => Sys2Proof.Machine.execTwinObserveDone s
  | .splitHoldoffExpire => Sys2Proof.Machine.execSplitHoldoffExpire s
  | .yield ag d => Sys2Proof.Machine.execYield ag d s
  | .resume ag d => Sys2Proof.Machine.execResume ag d s
  | .imageLoad ag d => Sys2Proof.Machine.execImageLoad ag d s
  | .twinCycleEnd => Sys2Proof.Machine.execTwinCycleEnd s
  | .twinXchkWindow => Sys2Proof.Machine.execTwinXchkWindow s
  | .xstepGo ag d => Sys2Proof.Machine.execXstepGo ag d s
  | .xstepAbortCmd ag d => Sys2Proof.Machine.execXstepAbortCmd ag d s
  | .xstepOrphan => Sys2Proof.Machine.execXstepOrphan s
  | .sidResetCheck => Sys2Proof.Machine.execSidResetCheck s
  | .enumFrameSend => Sys2Proof.Machine.execEnumFrameSend s
  | .enumFrameReceive startNs pulses => Sys2Proof.Machine.execEnumFrameReceive startNs pulses s
  | .enumTimeout => Sys2Proof.Machine.execEnumTimeout s
  | .reenum ag d => Sys2Proof.Machine.execReenum ag d s
  | .hrthLoadDataWrite ag d => Sys2Proof.Machine.execHrthLoadDataWrite ag d s
  | .go ag d => Sys2Proof.Machine.execGo ag d s
  | .bootVerifyDone => Sys2Proof.Machine.execBootVerifyDone s
  | .restart ag d => Sys2Proof.Machine.execRestart ag d s
  | .fuseCmdGo ag d => Sys2Proof.Machine.execFuseCmdGo ag d s
  | .mgmtBusTransaction bytes read => Sys2Proof.Machine.execMgmtBusTransaction bytes read s
  | .scrubRead mem addr err who => Sys2Proof.Machine.execScrubRead mem addr err who s
  | .regParity addr bit => Sys2Proof.Machine.execRegParity addr bit s
  | .tbaseParity flops => Sys2Proof.Machine.execTbaseParity flops s
  | .wdogKick ag d => Sys2Proof.Machine.execWdogKick ag d s
  | .wdogExpire core => Sys2Proof.Machine.execWdogExpire core s
  | .tapReset => Sys2Proof.Machine.execTapReset s
  | .tapInstructionUpdate clocks => Sys2Proof.Machine.execTapInstructionUpdate clocks s
  | .tstAccess dr => Sys2Proof.Machine.execTstAccess dr s
  | .fuseProg dr => Sys2Proof.Machine.execFuseProg dr s
  | .fuseDone => Sys2Proof.Machine.execFuseDone s
  | .pcsLock p pcs fec localFault remoteFault => Sys2Proof.Machine.execPcsLock p pcs fec localFault remoteFault s
  | .outputPulseEnd k => Sys2Proof.Machine.execOutputPulseEnd k s
  | .msixMask fn what => Sys2Proof.Machine.execMsixMask fn what s

end Sys2Proof.Machine
end

