-- ==== Sys2Proof/Machine/Step.lean ====
section
/-!
DEFINITION. Sys2Proof/Machine/Step.lean: one step of the part: the command at the front of the queue, or one TCLK cycle where none waits.
-/
namespace Sys2Proof.Machine

/-- One TCLK cycle with no command (log 1). -/
def idle (s : State) : Host.Outcome State Fault Refusal := .next (passTclk 1 s)

/-- The command at the front of the queue is taken and executed with the queue's rest; on an empty queue one TCLK cycle passes. -/
def step (s : State) : Host.Outcome State Fault Refusal :=
  match s.pending with
  | c :: rest => exec c { s with pending := rest }
  | [] => idle s

/-- `s` with the command that a word spells at the front of its queue; unchanged where the word spells none. -/
def State.withFetchWord (s : State) (nbits w : Nat) : State :=
  match decodeTableWord nbits w with
  | some c => { s with pending := c :: s.pending }
  | none => s

end Sys2Proof.Machine
end

