-- ==== Sys2Proof/Safety.lean ====
section
/-!
DEFINITION. Sys2Proof/Safety.lean: the terms in which the statements are written: what answering a command means, which part of the
state a command may change, the canonical form of sparse storage, and the order in which the power domains come up.
-/
namespace Sys2Proof.Machine

/-- The command answers a next state, of which `P` holds. -/
def Answers (c : Instr) (s : State) (P : State → Prop) : Prop := ∃ t, exec c s = .next t ∧ P t

/-! ### Frames -/

/-- The parts of the state, one for each field; what windows have noted of registers (`again`) goes with the registers. -/
inductive Part where
  | regs | ind | sram | hostMem | clk | pwr | hst | lanes | tb | met | loop | sky | prf | net | tlm | twin | boot | tap
  | lanePll | free | pending
deriving DecidableEq, Repr

/-- Two states agree in a part. -/
def samePart (s t : State) : Part → Prop
  | .regs => t.regs = s.regs ∧ t.again = s.again
  | .ind => t.ind = s.ind
  | .sram => t.sram = s.sram
  | .hostMem => t.hostMem = s.hostMem
  | .clk => t.clk = s.clk
  | .pwr => t.pwr = s.pwr
  | .hst => t.hst = s.hst
  | .lanes => t.lanes = s.lanes
  | .tb => t.tb = s.tb
  | .met => t.met = s.met
  | .loop => t.loop = s.loop
  | .sky => t.sky = s.sky
  | .prf => t.prf = s.prf
  | .net => t.net = s.net
  | .tlm => t.tlm = s.tlm
  | .twin => t.twin = s.twin
  | .boot => t.boot = s.boot
  | .tap => t.tap = s.tap
  | .lanePll => t.lanePll = s.lanePll
  | .free => t.free = s.free
  | .pending => t.pending = s.pending

/-- `t` differs from `s` within the parts `ps` at most. -/
def Within (ps : List Part) (s t : State) : Prop := ∀ p, p ∉ ps → samePart s t p

/-- The parts of the state that a command may change; no command changes the queue of those that wait. -/
def partsOf : Instr → List Part
  | .stageStart .. | .railsGood => [.pwr]
  | .internalResetRelease .. | .keeperLock => [.regs, .pwr, .boot]
  | .resetNAssert .. | .ovenIslandStop .. => [.regs, .ind, .sram, .pwr, .hst, .lanes, .tb, .met, .loop, .sky, .prf, .net, .tlm, .twin, .boot, .tap, .lanePll]
  | .mainDomainRelease => [.regs, .ind, .sram, .clk, .pwr, .hst, .lanes, .tb, .met, .loop, .sky, .prf, .net, .tlm, .twin, .boot, .lanePll]
  | .warnAssert .. => [.regs, .pwr, .met, .prf]
  | .warnClear .. => [.regs, .ind, .pwr]
  | .evtFlagClear | .prfTempUpdate .. | .prfInterval | .runStart => [.regs, .ind, .met, .prf]
  | .supplyReset .. | .thermalTrip .. => [.regs, .ind, .sram, .pwr, .hst, .lanes, .tb, .met, .loop, .sky, .prf, .net, .tlm, .twin, .boot, .tap, .lanePll, .free]
  | .supplyRestart .. | .holdupCapEstimate .. | .holdupLow .. | .pwrMeasureUpdate .. | .tempUpdate .. | .tripRestart .. => [.regs, .pwr]
  | .holdupReady .. | .txReady .. | .signal .. | .aligned .. | .alignLost .. | .syncLost .. | .anDone .. | .meanValidTimeout ..
  | .extRefUp .. | .refQualified .. | .auxEdge | .skyFixTimeout | .skyLockShortfall | .laneFail .. | .recoveryEnd .. | .quarantineEnd ..
  | .allocRecompute | .enumTimeout | .pcsLock .. => [.regs]
  | .pwrWarnLevelWrite .. | .pciePerst | .irqEoi .. | .mboxArrived .. | .mboxEmptied .. | .outParamWrite .. | .metExtEnWrite ..
  | .asymUpdate .. | .slotEnWrite .. | .slotSnap .. | .slotClear .. => [.regs, .hst]
  | .linkTrainingStart | .interruptLineUpdate | .msixMessage .. | .msixUnmask .. | .msixMask .. => [.hst]
  | .registerWrite .. | .aliasWrite .. | .lockWrite .. | .intForce .. | .counterHiWrite .. | .counterLoWrite .. | .indWrite ..
  | .mboxQWr .. | .post .. | .abort .. | .discard .. => [.regs, .ind, .sram, .hostMem, .pwr, .hst, .lanes, .tb, .met, .loop, .sky, .prf, .net, .tlm, .twin, .boot, .free]
  | .rcRead .. | .aliasRead .. | .counterLoRead .. | .counterHiRead .. | .indAddrApply .. | .indDataApply .. | .indCtrlApply ..
  | .indReadReady .. | .indDataRead .. | .indStatusRead .. | .indTimeout .. | .mboxQRd .. | .mboxIntStatusRead .. => [.regs, .hst, .tap]
  | .msixEnable .. | .dmaResume .. => [.regs, .hostMem, .hst, .tlm]
  | .indTargetTaken .. | .tapInstructionUpdate .. | .tstAccess .. => [.regs, .ind, .sram, .hostMem, .pwr, .hst, .lanes, .tb, .met, .loop, .sky, .prf, .net, .tlm, .twin, .boot, .tap, .free]
  | .dlnLaneEnable .. | .laneDisable .. | .adaptRestart .. | .adaptHoldWrite .. | .loopbackChange .. => [.regs, .ind, .hst, .lanes]
  | .cdrLock .. | .los .. | .prbsCheckerLock .. | .prbsLost .. | .feSlip .. | .syncAcq .. | .alnCodeGroupReceive .. => [.regs, .lanes]
  | .coarseDone .. | .densityWindowEnd .. | .dlnPresetStage .. | .dlnPresetApply .. | .alnPresetWrite .. | .boundWrite .. => [.regs, .ind, .lanes]
  | .txpllLock .. => [.lanes, .lanePll]
  | .txpllUnlock .. => [.regs, .lanePll]
  | .prbsGenSet .. | .chkReseed .. => [.regs, .ind, .hst, .lanes, .net, .tlm]
  | .injOne .. | .alnLaneEnable .. | .resync .. => [.regs, .hst, .lanes]
  | .errInjPeriodExpire .. => [.lanes]
  | .formatWrite .. | .applyInc .. | .step .. | .load .. | .snap .. | .cancel .. | .clrOutage .. | .txtsPop .. | .outputEnable ..
  | .outputDisable .. | .realign .. => [.regs, .hst, .tb]
  | .snapDone | .cmdDone | .outputEdge .. | .clkoutAlignEdge .. | .outputPulseEnd .. => [.regs, .clk, .tb, .loop, .sky, .tlm, .twin]
  | .txtsRecordWrite .. => [.regs, .tb]
  | .metResult .. => [.regs, .ind, .met]
  | .checkWindowEnd => [.regs, .met, .loop, .twin]
  | .metCommit .. | .metSrcCfgWrite .. | .tableLoad .. | .cellReturn .. | .arm .. | .abandon .. | .metExtPop .. => [.regs, .hst, .met]
  | .schedCommit | .tableExchange .. | .extRefDown .. | .extStartEdge .. | .extStopEdge .. | .extDone | .extTimeout => [.regs, .met]
  | .cdStart .. => [.regs, .ind, .hst, .met]
  | .cdDone .. | .handback => [.regs, .ind, .met, .loop, .prf, .twin]
  | .extGateEdge .. => [.met]
  | .mpllLock .. | .refPresenceChange .. | .refinWindowEnd .. | .refFreqWindowEnd .. | .hoHistoryAppend | .holdoverTick | .lockAUpdate
  | .skyDelivery => [.regs, .loop]
  | .mpllSearchTimeout | .locked | .helloReceive .. | .interlockPeriod .. | .hbLost | .twinObserveDone | .splitHoldoffExpire => [.regs, .loop, .twin]
  | .mpllLol => [.regs, .met, .loop, .prf, .twin, .free]
  | .mpllRelock .. | .disputeSlope .. | .disputeStep .. | .disputeReject .. | .adjGo .. | .clrHistory .. => [.regs, .hst, .tb, .met, .loop, .prf, .twin, .free]
  | .xoLoss => [.regs, .pwr, .met, .loop, .prf, .twin, .free]
  | .xoReturn => [.regs, .pwr, .loop]
  | .keeperAlignDone => [.regs, .met, .loop]
  | .refSample .. | .selectionEval | .syncReceive .. | .twinXchkWindow => [.regs, .loop, .twin, .free]
  | .refCfgWrite .. | .disqualify .. | .restore .. | .clkoutEnable .. | .clkoutDisable .. | .clkoutRealign .. | .lockAEnWrite .. => [.regs, .hst, .loop]
  | .skyEnWrite .. => [.regs, .ind, .hst, .sky]
  | .skyClkMeas .. | .clkFault | .ringTick .. => [.regs, .sky]
  | .skyEpochStamp .. | .skySnapDone .. => [.regs, .sram, .sky]
  | .skyChannelStart .. | .skyChannelStop .. | .skyNcoWrite .. => [.regs, .ind, .sky]
  | .skyDump .. | .skyLnavWord .. | .skyInavPage .. => [.regs, .ind, .sram, .sky]
  | .bitSync .. => [.ind, .sky]
  | .skySnapGo .. | .submit .. => [.regs, .hst, .sky]
  | .prfStart .. | .prfAbort .. | .clrPending .. => [.regs, .ind, .hst, .met, .prf]
  | .portEnable .. | .portDisable .. => [.regs, .ind, .hst, .net, .tlm]
  | .macFrameReceive .. | .pauseReceive .. | .pfcReceive .. | .linkDown .. | .lingerExpired .. | .pipelineLookup ..
  | .admissionDecision .. | .sliceWrite .. | .egressHandover .. => [.regs, .ind, .net, .tlm]
  | .pauseExpire .. | .linkUp .. | .injDescriptor | .fwdStageWrite .. | .commitDone | .sidResetCheck => [.regs, .net]
  | .pfcRefresh .. | .policerRefresh => [.net]
  | .fwdHinjDataWrite .. | .send .. | .commit .. | .fwdDiscard .. | .reclaimAll .. | .forgive .. | .polCfgWrite .. => [.regs, .hst, .net]
  | .trapWrite .. => [.regs, .ind, .sram, .net, .tlm]
  | .commitCheckEnd .. => [.regs, .loop, .net, .twin]
  | .commitCycle | .shaperRefresh => [.ind, .net]
  | .auditPass .. => [.regs, .loop, .net, .twin, .free]
  | .selection .. => [.regs, .ind, .loop, .net, .tlm, .twin, .free]
  | .frameTransmitEnd .. => [.regs, .ind, .tb, .loop, .net, .tlm, .twin, .free]
  | .walkStart | .sampleQueueRecord => [.regs, .sram, .net]
  | .evtCounterReload .. => [.regs, .tlm]
  | .dump | .tagRecordCopy .. => [.regs, .hostMem, .tlm]
  | .helloSend .. | .syncSend .. => [.lanes, .twin]
  | .stateReceive .. => [.regs, .ind]
  | .prepare .. | .ready .. | .refuse .. | .xstepAbort .. | .xstepOrphan => [.regs, .lanes, .tb, .twin]
  | .xstepCommit .. | .twinCycleEnd => [.regs, .lanes, .twin]
  | .linkSilent .. | .linkCheckLoss .. => [.regs, .lanes, .tb, .loop, .twin]
  | .yield .. | .resume .. | .imageLoad .. | .regParity .. => [.regs, .hst, .loop, .twin]
  | .xstepGo .. | .xstepAbortCmd .. => [.regs, .hst, .lanes, .tb, .twin]
  | .enumFrameSend => [.boot]
  | .enumFrameReceive .. | .bootVerifyDone => [.regs, .boot]
  | .reenum .. | .fuseCmdGo .. | .wdogKick .. => [.regs, .hst, .boot]
  | .hrthLoadDataWrite .. => [.regs, .sram, .hst]
  | .go .. | .restart .. => [.regs, .sram, .hst, .boot]
  | .mgmtBusTransaction .. => [.regs, .sram, .boot]
  | .scrubRead .. => [.regs, .ind, .met, .loop, .net, .tlm, .twin, .boot]
  | .tbaseParity .. => [.regs, .tb, .loop, .twin, .free]
  | .wdogExpire .. => [.regs, .loop, .twin, .boot]
  | .tapReset => [.tap]
  | .fuseProg .. => [.regs, .tap]
  | .fuseDone => [.regs, .boot, .tap]

/-- What the four windows have noted of a register since they sampled it (R82) is as before. -/
def AgainKeep (s t : State) (a : Nat) : Prop := ∀ k, k < 4 → t.againAt k a = s.againAt k a

/-- Every register outside the list reads as before, and no window has noted anything of it. -/
def RegsKeep (as : List Nat) (s t : State) : Prop := ∀ a, a ∉ as → t.reg a = s.reg a ∧ AgainKeep s t a

/-- Every indirect word outside the list of (domain, word address) reads as before. -/
def IndKeep (ws : List (Nat × Nat)) (s t : State) : Prop :=
  ∀ k, (∀ w ∈ ws, indKey w.1 w.2 ≠ k) → smapGet indReset t.ind k = smapGet indReset s.ind k

/-- Every byte of Hearth SRAM outside the `n` bytes from `a` up, which wrap at its end, reads as before. -/
def SramKeep (a n : Nat) (s t : State) : Prop := ∀ b, b < sramSize → n ≤ (b + sramSize - a % sramSize) % sramSize → t.sramByte b = s.sramByte b

/-- Every byte of host memory outside the `n` bytes from `a` up reads as before. -/
def HostKeep (a n : Nat) (s t : State) : Prop := ∀ b, ¬(a ≤ b ∧ b < a + n) → t.hostByte b = s.hostByte b

/-- Every byte of host memory outside two regions, `n` bytes from `a` up and `m` from `b` up, reads as before. -/
def HostKeepTwo (a n b m : Nat) (s t : State) : Prop :=
  ∀ x, ¬(a ≤ x ∧ x < a + n) → ¬(b ≤ x ∧ x < b + m) → t.hostByte x = s.hostByte x

/-- Beside the parts `ps`, only the registers `as` may differ. -/
def Only (ps : List Part) (as : List Nat) (s t : State) : Prop := Within (.regs :: ps) s t ∧ RegsKeep as s t

/-- Every bit of the registers that lies in none of the fields reads as before, and no window has noted anything of it. -/
def FldsKeep (fs : List Fld) (s t : State) : Prop :=
  ∀ a i, i < 32 → (∀ f ∈ fs, ¬(f.addr = a ∧ f.lo ≤ i ∧ i < f.lo + f.w)) →
    t.rbit a i = s.rbit a i ∧ ∀ k, k < 4 → bit (t.againAt k a) i = bit (s.againAt k a) i

/-- Beside the parts `ps`, only the fields `fs` may differ. -/
def Touches (ps : List Part) (fs : List Fld) (s t : State) : Prop := Within (.regs :: ps) s t ∧ FldsKeep fs s t

/-- A whole register as a field. -/
def whole (a : Nat) : Fld := ⟨a, 0, 32⟩

/-- The record of every other lane is as before: data lanes 0 to 767, auxiliary lanes from 768. -/
def LanesKeep (n : Nat) (s t : State) : Prop := ∀ m, m ≠ n → t.lane m = s.lane m

/-- Whether MIN and MAX of one of a data lane's six parameters (CTLE, VGA, DFE1, FPRE1, FPOST1, FPOST2) are in order and in range, as their
bytes hold them (R119, R122). -/
def pairFits (i lo hi : Nat) : Bool :=
  if i = 0 then decide (lo ≤ hi ∧ hi ≤ 31) else if i = 1 then decide (lo ≤ hi ∧ hi ≤ 63)
  else decide (signed 8 lo ≤ signed 8 hi ∧ -64 ≤ signed 8 lo ∧ signed 8 hi ≤ 63)

/-- The value of the time base after `n` more TCLK edges with nothing applied (R158, R159). -/
def valueAfter (s : State) (n : Nat) : Nat := if n = 0 then s.tb.value else (s.tb.value + n * incCur s) % tbWrap (tbFormat s)

/-- What an occurrence of an event may change: the event counters and their overflow bits (R464, R465). -/
def evtFlds : List Fld :=
  ((List.range 64).map fun k => whole (Reg.TLM_EVT_LO k)) ++ ((List.range 64).map fun k => whole (Reg.TLM_EVT_HI k)) ++
    [whole Reg.TLM_EVT_OVF0, whole Reg.TLM_EVT_OVF1, F.TLM_EVT_INT_STATUS_CNT_OVF]

/-- A counter of two words, from its low word. -/
def pair (lo : Nat) : List Fld := [whole lo, whole (lo + 1)]

/-- Every frame but those listed is as before. -/
def FramesKeep (ids : List Nat) (s t : State) : Prop := ∀ j, j ∉ ids → t.frame? j = s.frame? j

/-- How many slices a frame gives back: those that it can still reach (R547). -/
def slicesBack (f : Frame) : Nat := (f.slices.filter fun n => !f.beyond.contains n).length

/-- Every frame in the part has a source, a queue, a pool, a group and a record that exist (R328, R397, R404, R435, R473). -/
def State.FramesFit (s : State) : Prop :=
  ∀ id f, s.frame? id = some f → f.src ≤ 416 ∧ f.queue < 16 ∧ f.pool < 4 ∧ (∀ k, f.pg = some k → k < 8 ∧ f.src < 384) ∧ (∀ r, f.tag = some r → r < 1024)

/-- A word of BAR0 at which no register answers (R55, R57, R580): the reserved range, a page or an offset that holds none, and the alias
words of such an offset and of the window registers. -/
def noRegister (w : Nat) : Bool :=
  if 0xC00000 ≤ w then true
  else if w < 0x400000 then !isWinReg w && (regDef? w).isNone
  else isWinReg (directAddr w) || (regDef? (directAddr w)).isNone

/-- The register at a word address; with no bits of any kind where there is none. -/
def regOf (a : Nat) : RegDef := ((regDef? a).getD ({}, 0)).1

/-- The word address of the result word of entry `k` in the table of an IP version (R371, R384). -/
def lpmResult (v6 : Bool) (k : Nat) : Nat := if v6 then 0x600000 + 5 * k + 4 else 0x200000 + 2 * k + 1

/-- Whether entry `k` of an IP version is valid, in a VRF, and agrees with an address in its first LEN bits (R371, R372). -/
def lpmHits (s : State) (v6 : Bool) (vrf addr k : Nat) : Bool :=
  let w := lpmResult v6 k
  let r := s.indw 6 w
  let aw := if v6 then 128 else 32
  let pre := if v6 then (s.indw 6 (w - 4)).toNat + (s.indw 6 (w - 3)).toNat * 2 ^ 32 + (s.indw 6 (w - 2)).toNat * 2 ^ 64 +
      (s.indw 6 (w - 1)).toNat * 2 ^ 96
    else (s.indw 6 (w - 1)).toNat
  bit r 31 && decide (bits r 24 7 = vrf ∧ bits r 0 8 ≤ aw ∧ pre / 2 ^ (aw - bits r 0 8) = addr / 2 ^ (aw - bits r 0 8))

/-- Whether ACL entry `k` is valid and agrees with a key under its mask (R376). -/
def aclHits (s : State) (key k : Nat) : Bool :=
  let b := 0xE00000 + 32 * k
  bit (s.indw 6 (b + 24)) 31 && (List.range 12).all fun j =>
    BitVec.ofNat 32 (key / 2 ^ (32 * j)) &&& s.indw 6 (b + 12 + j) == s.indw 6 (b + j) &&& s.indw 6 (b + 12 + j)

/-! ### Canonical storage -/

/-- The form of a byte memory: addresses strictly rising, no byte equal to what an unlisted address reads as. -/
abbrev Memory.wf (m : SMap Byte) : Prop := SMapWf memReset m

/-- Registers, indirect words, Hearth SRAM and host memory are in their canonical form, so that equal contents are equal data. -/
abbrev State.Canon (s : State) : Prop :=
  SMapWf regReset s.regs ∧ SMapWf indReset s.ind ∧ Memory.wf s.sram ∧ Memory.wf s.hostMem

/-! ### Power (R24, R36, R44, R522 to R524) -/

/-- The main domain is out of reset only where the internal reset has released, OCLK runs and the oven island is up; the internal reset is
released only with the stage on and its rails good; nothing but the oven island is powered in a thermal trip. -/
abbrev State.PowerOk (s : State) : Prop :=
  (s.pwr.mainUp = true → s.pwr.released = true ∧ s.pwr.oclkUp = true ∧ s.pwr.ovenUp = true) ∧
  (s.pwr.released = true → s.pwr.railsGood = true ∧ s.pwr.ovenUp = true) ∧
  (s.pwr.railsGood = true → s.pwr.stageOn = true) ∧
  (s.pwr.oclkUp = true → s.pwr.ovenUp = true) ∧
  (s.pwr.tripped = true → s.pwr.ovenUp = true ∧ s.pwr.stageOn = false ∧ s.pwr.mainUp = false)

end Sys2Proof.Machine
end

