-- ==== Sys2Proof/Laws/PerInstr.lean ====
section
/-!
SUPPORT. Sys2Proof/Laws/PerInstr.lean: the family QueueKept, said of every command as syntax: the queue of waiting commands is among none
of the parts that its row may touch.
-/
namespace Sys2Proof.Laws.QueueKept
open Sys2Proof.Machine
set_option Elab.async false

/-- The row of the command does not list the queue among the parts it may touch. -/
def Statement (i : Instr) : Prop := (partsOf i).contains Part.pending = false

theorem stageStart (x0 : Nat) : Statement (.stageStart x0) := rfl
theorem railsGood : Statement (.railsGood) := rfl
theorem internalResetRelease (x0 : Bool) (x1 : Bool) (x2 : Bool) : Statement (.internalResetRelease x0 x1 x2) := rfl
theorem resetNAssert (x0 : BitVec 12) : Statement (.resetNAssert x0) := rfl
theorem keeperLock : Statement (.keeperLock) := rfl
theorem mainDomainRelease : Statement (.mainDomainRelease) := rfl
theorem warnAssert (x0 : Nat) : Statement (.warnAssert x0) := rfl
theorem warnClear (x0 : Nat) (x1 : Nat) (x2 : Nat) : Statement (.warnClear x0 x1 x2) := rfl
theorem evtFlagClear : Statement (.evtFlagClear) := rfl
theorem supplyReset (x0 : Nat) : Statement (.supplyReset x0) := rfl
theorem supplyRestart (x0 : Nat) : Statement (.supplyRestart x0) := rfl
theorem ovenIslandStop (x0 : Nat) : Statement (.ovenIslandStop x0) := rfl
theorem holdupReady (x0 : Nat) : Statement (.holdupReady x0) := rfl
theorem holdupCapEstimate (x0 : Nat) : Statement (.holdupCapEstimate x0) := rfl
theorem holdupLow (x0 : Nat) : Statement (.holdupLow x0) := rfl
theorem pwrWarnLevelWrite (x0 : Agent) (x1 : Word) : Statement (.pwrWarnLevelWrite x0 x1) := rfl
theorem pwrMeasureUpdate (x0 : BitVec 16) (x1 : BitVec 16) (x2 : BitVec 16) (x3 : BitVec 16) (x4 : List (BitVec 16)) : Statement (.pwrMeasureUpdate x0 x1 x2 x3 x4) := rfl
theorem tempUpdate (x0 : List (BitVec 12)) : Statement (.tempUpdate x0) := rfl
theorem thermalTrip (x0 : BitVec 12) : Statement (.thermalTrip x0) := rfl
theorem tripRestart (x0 : BitVec 12) : Statement (.tripRestart x0) := rfl
theorem pciePerst : Statement (.pciePerst) := rfl
theorem linkTrainingStart : Statement (.linkTrainingStart) := rfl
theorem registerWrite (x0 : Agent) (x1 : BitVec 26) (x2 : BitVec 4) (x3 : Word) : Statement (.registerWrite x0 x1 x2 x3) := rfl
theorem rcRead (x0 : Agent) (x1 : BitVec 26) (x2 : BitVec 4) : Statement (.rcRead x0 x1 x2) := rfl
theorem aliasWrite (x0 : Agent) (x1 : BitVec 12) (x2 : BitVec 11) (x3 : Word) : Statement (.aliasWrite x0 x1 x2 x3) := rfl
theorem aliasRead (x0 : Agent) (x1 : BitVec 12) (x2 : BitVec 11) : Statement (.aliasRead x0 x1 x2) := rfl
theorem lockWrite (x0 : Agent) (x1 : BitVec 12) (x2 : Word) : Statement (.lockWrite x0 x1 x2) := rfl
theorem intForce (x0 : Agent) (x1 : BitVec 12) (x2 : Word) : Statement (.intForce x0 x1 x2) := rfl
theorem counterLoRead (x0 : Agent) (x1 : BitVec 26) : Statement (.counterLoRead x0 x1) := rfl
theorem counterHiRead (x0 : Agent) (x1 : BitVec 26) : Statement (.counterHiRead x0 x1) := rfl
theorem counterHiWrite (x0 : Agent) (x1 : BitVec 26) (x2 : Word) : Statement (.counterHiWrite x0 x1 x2) := rfl
theorem counterLoWrite (x0 : Agent) (x1 : BitVec 26) (x2 : Word) : Statement (.counterLoWrite x0 x1 x2) := rfl
theorem interruptLineUpdate : Statement (.interruptLineUpdate) := rfl
theorem msixMessage (x0 : Fin 2) (x1 : Fin 64) : Statement (.msixMessage x0 x1) := rfl
theorem msixUnmask (x0 : Fin 2) (x1 : Option (Fin 64)) : Statement (.msixUnmask x0 x1) := rfl
theorem msixEnable (x0 : Fin 2) : Statement (.msixEnable x0) := rfl
theorem irqEoi (x0 : Agent) (x1 : Word) : Statement (.irqEoi x0 x1) := rfl
theorem indWrite (x0 : Agent) (x1 : Fin 4) (x2 : WinReg) (x3 : Word) : Statement (.indWrite x0 x1 x2 x3) := rfl
theorem indAddrApply (x0 : Fin 4) : Statement (.indAddrApply x0) := rfl
theorem indDataApply (x0 : Fin 4) : Statement (.indDataApply x0) := rfl
theorem indCtrlApply (x0 : Fin 4) : Statement (.indCtrlApply x0) := rfl
theorem indTargetTaken (x0 : Fin 4) : Statement (.indTargetTaken x0) := rfl
theorem indReadReady (x0 : Fin 4) : Statement (.indReadReady x0) := rfl
theorem indDataRead (x0 : Agent) (x1 : Fin 4) (x2 : Word) : Statement (.indDataRead x0 x1 x2) := rfl
theorem indStatusRead (x0 : Agent) (x1 : Fin 4) : Statement (.indStatusRead x0 x1) := rfl
theorem indTimeout (x0 : Fin 4) : Statement (.indTimeout x0) := rfl
theorem mboxQWr (x0 : Agent) (x1 : Fin 8) (x2 : Fin 2) (x3 : Word) : Statement (.mboxQWr x0 x1 x2 x3) := rfl
theorem post (x0 : Agent) (x1 : Fin 8) (x2 : Fin 2) (x3 : Word) : Statement (.post x0 x1 x2 x3) := rfl
theorem abort (x0 : Agent) (x1 : Fin 8) (x2 : Fin 2) (x3 : Word) : Statement (.abort x0 x1 x2 x3) := rfl
theorem discard (x0 : Agent) (x1 : Fin 8) (x2 : Fin 2) (x3 : Word) : Statement (.discard x0 x1 x2 x3) := rfl
theorem mboxQRd (x0 : Agent) (x1 : Fin 8) (x2 : Fin 2) : Statement (.mboxQRd x0 x1 x2) := rfl
theorem mboxArrived (x0 : Fin 8) (x1 : Fin 2) : Statement (.mboxArrived x0 x1) := rfl
theorem mboxEmptied (x0 : Fin 8) (x1 : Fin 2) : Statement (.mboxEmptied x0 x1) := rfl
theorem mboxIntStatusRead (x0 : Agent) (x1 : Fin 4) : Statement (.mboxIntStatusRead x0 x1) := rfl
theorem dlnLaneEnable (x0 : Agent) (x1 : Fin 768) (x2 : Word) : Statement (.dlnLaneEnable x0 x1 x2) := rfl
theorem laneDisable (x0 : Agent) (x1 : LaneId) (x2 : Word) : Statement (.laneDisable x0 x1 x2) := rfl
theorem txReady (x0 : Fin 768) : Statement (.txReady x0) := rfl
theorem signal (x0 : LaneId) : Statement (.signal x0) := rfl
theorem cdrLock (x0 : LaneId) : Statement (.cdrLock x0) := rfl
theorem coarseDone (x0 : Fin 768) (x1 : Adapt) : Statement (.coarseDone x0 x1) := rfl
theorem aligned (x0 : Fin 768) (x1 : BitVec 6) : Statement (.aligned x0 x1) := rfl
theorem los (x0 : LaneId) (x1 : Bool) : Statement (.los x0 x1) := rfl
theorem alignLost (x0 : Fin 768) : Statement (.alignLost x0) := rfl
theorem adaptRestart (x0 : Agent) (x1 : Fin 768) (x2 : Word) : Statement (.adaptRestart x0 x1 x2) := rfl
theorem densityWindowEnd (x0 : Fin 768) (x1 : Nat) (x2 : Adapt) : Statement (.densityWindowEnd x0 x1 x2) := rfl
theorem adaptHoldWrite (x0 : Agent) (x1 : Fin 768) (x2 : Word) : Statement (.adaptHoldWrite x0 x1 x2) := rfl
theorem dlnPresetStage (x0 : Fin 4) (x1 : Fin 768) (x2 : Word) : Statement (.dlnPresetStage x0 x1 x2) := rfl
theorem dlnPresetApply (x0 : Fin 4) (x1 : Fin 768) (x2 : Word) : Statement (.dlnPresetApply x0 x1 x2) := rfl
theorem alnPresetWrite (x0 : Fin 4) (x1 : Fin 32) (x2 : Word) : Statement (.alnPresetWrite x0 x1 x2) := rfl
theorem boundWrite (x0 : Fin 4) (x1 : LaneId) (x2 : Fin 3) (x3 : Word) : Statement (.boundWrite x0 x1 x2 x3) := rfl
theorem loopbackChange (x0 : Agent) (x1 : LaneId) (x2 : Word) : Statement (.loopbackChange x0 x1 x2) := rfl
theorem txpllLock (x0 : Fin 7) : Statement (.txpllLock x0) := rfl
theorem txpllUnlock (x0 : Fin 7) : Statement (.txpllUnlock x0) := rfl
theorem prbsGenSet (x0 : Agent) (x1 : LaneId) (x2 : Word) : Statement (.prbsGenSet x0 x1 x2) := rfl
theorem prbsCheckerLock (x0 : LaneId) (x1 : (BitVec 128)) (x2 : (List (BitVec 128))) : Statement (.prbsCheckerLock x0 x1 x2) := rfl
theorem prbsLost (x0 : LaneId) (x1 : List (BitVec 128)) : Statement (.prbsLost x0 x1) := rfl
theorem chkReseed (x0 : Agent) (x1 : LaneId) (x2 : Word) : Statement (.chkReseed x0 x1 x2) := rfl
theorem injOne (x0 : Agent) (x1 : LaneId) (x2 : Word) : Statement (.injOne x0 x1 x2) := rfl
theorem errInjPeriodExpire (x0 : LaneId) : Statement (.errInjPeriodExpire x0) := rfl
theorem feSlip (x0 : LaneId) (x1 : Nat) : Statement (.feSlip x0 x1) := rfl
theorem alnLaneEnable (x0 : Agent) (x1 : Fin 32) (x2 : Word) : Statement (.alnLaneEnable x0 x1 x2) := rfl
theorem syncAcq (x0 : Fin 32) (x1 : Fin 20) : Statement (.syncAcq x0 x1) := rfl
theorem syncLost (x0 : Fin 32) : Statement (.syncLost x0) := rfl
theorem resync (x0 : Agent) (x1 : Fin 32) (x2 : Word) : Statement (.resync x0 x1 x2) := rfl
theorem alnCodeGroupReceive (x0 : Fin 32) (x1 : Fin 2) (x2 : Bool) (x3 : BitVec 10) : Statement (.alnCodeGroupReceive x0 x1 x2 x3) := rfl
theorem anDone (x0 : Fin 32) : Statement (.anDone x0) := rfl
theorem formatWrite (x0 : Agent) (x1 : Word) : Statement (.formatWrite x0 x1) := rfl
theorem applyInc (x0 : Agent) (x1 : Word) : Statement (.applyInc x0 x1) := rfl
theorem step (x0 : Agent) (x1 : Word) : Statement (.step x0 x1) := rfl
theorem load (x0 : Agent) (x1 : Word) : Statement (.load x0 x1) := rfl
theorem snap (x0 : Agent) (x1 : Word) : Statement (.snap x0 x1) := rfl
theorem snapDone : Statement (.snapDone) := rfl
theorem cancel (x0 : Agent) (x1 : Word) : Statement (.cancel x0 x1) := rfl
theorem clrOutage (x0 : Agent) (x1 : Word) : Statement (.clrOutage x0 x1) := rfl
theorem cmdDone : Statement (.cmdDone) := rfl
theorem txtsRecordWrite (x0 : Nat) : Statement (.txtsRecordWrite x0) := rfl
theorem txtsPop (x0 : Agent) (x1 : Word) : Statement (.txtsPop x0 x1) := rfl
theorem outputEdge (x0 : Fin 5) : Statement (.outputEdge x0) := rfl
theorem outputEnable (x0 : Agent) (x1 : Fin 5) (x2 : Word) : Statement (.outputEnable x0 x1 x2) := rfl
theorem outputDisable (x0 : Agent) (x1 : Fin 5) (x2 : Word) : Statement (.outputDisable x0 x1 x2) := rfl
theorem realign (x0 : Agent) (x1 : Fin 5) (x2 : Word) : Statement (.realign x0 x1 x2) := rfl
theorem outParamWrite (x0 : Agent) (x1 : Fin 5) (x2 : Fin 3) (x3 : Word) : Statement (.outParamWrite x0 x1 x2 x3) := rfl
theorem metResult (x0 : Fin 32) (x1 : Option (BitVec 12)) (x2 : Nat) : Statement (.metResult x0 x1 x2) := rfl
theorem checkWindowEnd : Statement (.checkWindowEnd) := rfl
theorem meanValidTimeout (x0 : Fin 1024) : Statement (.meanValidTimeout x0) := rfl
theorem metCommit (x0 : Agent) (x1 : Word) : Statement (.metCommit x0 x1) := rfl
theorem schedCommit : Statement (.schedCommit) := rfl
theorem metSrcCfgWrite (x0 : Agent) (x1 : Fin 1024) (x2 : Word) : Statement (.metSrcCfgWrite x0 x1 x2) := rfl
theorem tableLoad (x0 : Agent) (x1 : Word) : Statement (.tableLoad x0 x1) := rfl
theorem tableExchange (x0 : Fin 32) : Statement (.tableExchange x0) := rfl
theorem cdStart (x0 : Agent) (x1 : Word) : Statement (.cdStart x0 x1) := rfl
theorem cdDone (x0 : Fin 32) : Statement (.cdDone x0) := rfl
theorem cellReturn (x0 : Agent) (x1 : Word) : Statement (.cellReturn x0 x1) := rfl
theorem metExtEnWrite (x0 : Agent) (x1 : Word) : Statement (.metExtEnWrite x0 x1) := rfl
theorem extRefUp (x0 : List Nat) : Statement (.extRefUp x0) := rfl
theorem extRefDown (x0 : Nat) (x1 : Bool) : Statement (.extRefDown x0 x1) := rfl
theorem arm (x0 : Agent) (x1 : Word) : Statement (.arm x0 x1) := rfl
theorem extGateEdge (x0 : Bool) : Statement (.extGateEdge x0) := rfl
theorem extStartEdge (x0 : Bool) (x1 : Bool) (x2 : BitVec 12) (x3 : Nat) : Statement (.extStartEdge x0 x1 x2 x3) := rfl
theorem extStopEdge (x0 : StopSrc) (x1 : Bool) (x2 : BitVec 12) (x3 : Nat) : Statement (.extStopEdge x0 x1 x2 x3) := rfl
theorem extDone : Statement (.extDone) := rfl
theorem extTimeout : Statement (.extTimeout) := rfl
theorem abandon (x0 : Agent) (x1 : Word) : Statement (.abandon x0 x1) := rfl
theorem metExtPop (x0 : Agent) (x1 : Word) : Statement (.metExtPop x0 x1) := rfl
theorem asymUpdate (x0 : Agent) (x1 : Fin 416) (x2 : Bool) (x3 : Word) : Statement (.asymUpdate x0 x1 x2 x3) := rfl
theorem mpllLock (x0 : List Nat) (x1 : BitVec 8) : Statement (.mpllLock x0 x1) := rfl
theorem mpllSearchTimeout : Statement (.mpllSearchTimeout) := rfl
theorem mpllLol : Statement (.mpllLol) := rfl
theorem mpllRelock (x0 : Agent) (x1 : Word) : Statement (.mpllRelock x0 x1) := rfl
theorem handback : Statement (.handback) := rfl
theorem xoLoss : Statement (.xoLoss) := rfl
theorem xoReturn : Statement (.xoReturn) := rfl
theorem keeperAlignDone : Statement (.keeperAlignDone) := rfl
theorem refSample (x0 : Fin 23) (x1 : Int) : Statement (.refSample x0 x1) := rfl
theorem refPresenceChange (x0 : Fin 23) (x1 : Bool) : Statement (.refPresenceChange x0 x1) := rfl
theorem refinWindowEnd (x0 : Fin 4) (x1 : Nat) : Statement (.refinWindowEnd x0 x1) := rfl
theorem refFreqWindowEnd (x0 : Fin 23) (x1 : Int) : Statement (.refFreqWindowEnd x0 x1) := rfl
theorem refQualified (x0 : Fin 23) : Statement (.refQualified x0) := rfl
theorem refCfgWrite (x0 : Agent) (x1 : Fin 23) (x2 : Fin 2) (x3 : Word) : Statement (.refCfgWrite x0 x1 x2 x3) := rfl
theorem selectionEval : Statement (.selectionEval) := rfl
theorem locked : Statement (.locked) := rfl
theorem hoHistoryAppend : Statement (.hoHistoryAppend) := rfl
theorem holdoverTick : Statement (.holdoverTick) := rfl
theorem disputeSlope (x0 : Agent) (x1 : Word) : Statement (.disputeSlope x0 x1) := rfl
theorem disputeStep (x0 : Agent) (x1 : Word) : Statement (.disputeStep x0 x1) := rfl
theorem disputeReject (x0 : Agent) (x1 : Word) : Statement (.disputeReject x0 x1) := rfl
theorem adjGo (x0 : Agent) (x1 : Word) : Statement (.adjGo x0 x1) := rfl
theorem clrHistory (x0 : Agent) (x1 : Word) : Statement (.clrHistory x0 x1) := rfl
theorem disqualify (x0 : Agent) (x1 : Fin 23) (x2 : Word) : Statement (.disqualify x0 x1 x2) := rfl
theorem restore (x0 : Agent) (x1 : Fin 23) (x2 : Word) : Statement (.restore x0 x1 x2) := rfl
theorem clkoutEnable (x0 : Agent) (x1 : Fin 4) (x2 : Word) : Statement (.clkoutEnable x0 x1 x2) := rfl
theorem clkoutDisable (x0 : Agent) (x1 : Fin 4) (x2 : Word) : Statement (.clkoutDisable x0 x1 x2) := rfl
theorem clkoutRealign (x0 : Agent) (x1 : Fin 4) (x2 : Word) : Statement (.clkoutRealign x0 x1 x2) := rfl
theorem clkoutAlignEdge (x0 : Fin 4) : Statement (.clkoutAlignEdge x0) := rfl
theorem lockAUpdate : Statement (.lockAUpdate) := rfl
theorem lockAEnWrite (x0 : Agent) (x1 : Word) : Statement (.lockAEnWrite x0 x1) := rfl
theorem skyEnWrite (x0 : Agent) (x1 : Word) : Statement (.skyEnWrite x0 x1) := rfl
theorem skyClkMeas (x0 : Nat) : Statement (.skyClkMeas x0) := rfl
theorem clkFault : Statement (.clkFault) := rfl
theorem skyEpochStamp (x0 : BitVec 32) : Statement (.skyEpochStamp x0) := rfl
theorem auxEdge : Statement (.auxEdge) := rfl
theorem skyChannelStart (x0 : Fin 4) (x1 : Fin 64) (x2 : Word) (x3 : BitVec 32) : Statement (.skyChannelStart x0 x1 x2 x3) := rfl
theorem skyChannelStop (x0 : Fin 4) (x1 : Fin 64) (x2 : Word) : Statement (.skyChannelStop x0 x1 x2) := rfl
theorem skyNcoWrite (x0 : Fin 4) (x1 : Fin 64) (x2 : Fin 3) (x3 : Word) : Statement (.skyNcoWrite x0 x1 x2 x3) := rfl
theorem skyDump (x0 : Fin 64) (x1 : BitVec 32) (x2 : List (BitVec 8)) : Statement (.skyDump x0 x1 x2) := rfl
theorem bitSync (x0 : Fin 64) : Statement (.bitSync x0) := rfl
theorem skyLnavWord (x0 : Fin 64) : Statement (.skyLnavWord x0) := rfl
theorem skyInavPage (x0 : Fin 64) : Statement (.skyInavPage x0) := rfl
theorem ringTick (x0 : BitVec 32) : Statement (.ringTick x0) := rfl
theorem skySnapGo (x0 : Agent) (x1 : Word) : Statement (.skySnapGo x0 x1) := rfl
theorem skySnapDone (x0 : BitVec 32) (x1 : List (BitVec 4)) : Statement (.skySnapDone x0 x1) := rfl
theorem submit (x0 : Agent) (x1 : Word) : Statement (.submit x0 x1) := rfl
theorem skyFixTimeout : Statement (.skyFixTimeout) := rfl
theorem skyLockShortfall : Statement (.skyLockShortfall) := rfl
theorem skyDelivery : Statement (.skyDelivery) := rfl
theorem prfTempUpdate (x0 : Int) : Statement (.prfTempUpdate x0) := rfl
theorem prfStart (x0 : Agent) (x1 : Word) : Statement (.prfStart x0 x1) := rfl
theorem prfInterval : Statement (.prfInterval) := rfl
theorem runStart : Statement (.runStart) := rfl
theorem prfAbort (x0 : Agent) (x1 : Word) : Statement (.prfAbort x0 x1) := rfl
theorem clrPending (x0 : Agent) (x1 : Word) : Statement (.clrPending x0 x1) := rfl
theorem portEnable (x0 : Agent) (x1 : Fin 384) (x2 : Word) : Statement (.portEnable x0 x1 x2) := rfl
theorem macFrameReceive (x0 : Fin 416) (x1 : Nat) (x2 : List Byte) (x3 : Bool) (x4 : Arrival) : Statement (.macFrameReceive x0 x1 x2 x3 x4) := rfl
theorem pauseReceive (x0 : Fin 384) (x1 : List Byte) : Statement (.pauseReceive x0 x1) := rfl
theorem pfcReceive (x0 : Fin 384) (x1 : List Byte) : Statement (.pfcReceive x0 x1) := rfl
theorem pauseExpire (x0 : Fin 384) (x1 : Fin 8) : Statement (.pauseExpire x0 x1) := rfl
theorem pfcRefresh (x0 : Fin 384) (x1 : Fin 8) : Statement (.pfcRefresh x0 x1) := rfl
theorem linkUp (x0 : Fin 384) : Statement (.linkUp x0) := rfl
theorem linkDown (x0 : Fin 384) (x1 : BitVec 4) : Statement (.linkDown x0 x1) := rfl
theorem laneFail (x0 : Fin 384) : Statement (.laneFail x0) := rfl
theorem lingerExpired (x0 : Fin 384) : Statement (.lingerExpired x0) := rfl
theorem recoveryEnd (x0 : Fin 384) : Statement (.recoveryEnd x0) := rfl
theorem portDisable (x0 : Agent) (x1 : Fin 384) (x2 : Word) : Statement (.portDisable x0 x1 x2) := rfl
theorem pipelineLookup (x0 : Fin 417) (x1 : Nat) (x2 : Option (List Byte × Arrival)) (x3 : Fin 2) : Statement (.pipelineLookup x0 x1 x2 x3) := rfl
theorem injDescriptor : Statement (.injDescriptor) := rfl
theorem fwdHinjDataWrite (x0 : Agent) (x1 : Word) : Statement (.fwdHinjDataWrite x0 x1) := rfl
theorem send (x0 : Agent) (x1 : Word) : Statement (.send x0 x1) := rfl
theorem trapWrite (x0 : Nat) : Statement (.trapWrite x0) := rfl
theorem fwdStageWrite (x0 : Fin 4) (x1 : BitVec 24) (x2 : Word) : Statement (.fwdStageWrite x0 x1 x2) := rfl
theorem commit (x0 : Agent) (x1 : Word) : Statement (.commit x0 x1) := rfl
theorem commitCheckEnd (x0 : List (Nat × Nat)) (x1 : List Word) : Statement (.commitCheckEnd x0 x1) := rfl
theorem commitCycle : Statement (.commitCycle) := rfl
theorem commitDone : Statement (.commitDone) := rfl
theorem fwdDiscard (x0 : Agent) (x1 : Word) : Statement (.fwdDiscard x0 x1) := rfl
theorem admissionDecision (x0 : Nat) : Statement (.admissionDecision x0) := rfl
theorem sliceWrite (x0 : Nat) (x1 : Fin 1048576) (x2 : List Byte) : Statement (.sliceWrite x0 x1 x2) := rfl
theorem quarantineEnd (x0 : Fin 384) : Statement (.quarantineEnd x0) := rfl
theorem allocRecompute : Statement (.allocRecompute) := rfl
theorem auditPass (x0 : List (Nat × Nat)) : Statement (.auditPass x0) := rfl
theorem reclaimAll (x0 : Agent) (x1 : Word) : Statement (.reclaimAll x0 x1) := rfl
theorem selection (x0 : Fin 416) (x1 : Bool) (x2 : Stamp) : Statement (.selection x0 x1 x2) := rfl
theorem egressHandover (x0 : Nat) : Statement (.egressHandover x0) := rfl
theorem frameTransmitEnd (x0 : Nat) (x1 : Bool) : Statement (.frameTransmitEnd x0 x1) := rfl
theorem shaperRefresh : Statement (.shaperRefresh) := rfl
theorem forgive (x0 : Agent) (x1 : Word) : Statement (.forgive x0 x1) := rfl
theorem policerRefresh : Statement (.policerRefresh) := rfl
theorem polCfgWrite (x0 : Agent) (x1 : Fin 4096) (x2 : Word) : Statement (.polCfgWrite x0 x1 x2) := rfl
theorem walkStart : Statement (.walkStart) := rfl
theorem sampleQueueRecord : Statement (.sampleQueueRecord) := rfl
theorem evtCounterReload (x0 : Fin 64) : Statement (.evtCounterReload x0) := rfl
theorem slotEnWrite (x0 : Agent) (x1 : Word) : Statement (.slotEnWrite x0 x1) := rfl
theorem slotSnap (x0 : Agent) (x1 : Word) : Statement (.slotSnap x0 x1) := rfl
theorem slotClear (x0 : Agent) (x1 : Word) : Statement (.slotClear x0 x1) := rfl
theorem dump : Statement (.dump) := rfl
theorem tagRecordCopy (x0 : Nat) : Statement (.tagRecordCopy x0) := rfl
theorem dmaResume (x0 : Fin 2) : Statement (.dmaResume x0) := rfl
theorem helloSend (x0 : Fin 3) : Statement (.helloSend x0) := rfl
theorem syncSend (x0 : Fin 3) (x1 : Nat) : Statement (.syncSend x0 x1) := rfl
theorem helloReceive (x0 : Fin 3) (x1 : List Byte) (x2 : Bool) : Statement (.helloReceive x0 x1 x2) := rfl
theorem syncReceive (x0 : Fin 3) (x1 : List Byte) (x2 : Bool) (x3 : Nat) (x4 : Nat) : Statement (.syncReceive x0 x1 x2 x3 x4) := rfl
theorem stateReceive (x0 : Fin 3) (x1 : List Byte) (x2 : Bool) : Statement (.stateReceive x0 x1 x2) := rfl
theorem prepare (x0 : Fin 3) (x1 : List Byte) (x2 : Bool) : Statement (.prepare x0 x1 x2) := rfl
theorem ready (x0 : Fin 3) (x1 : List Byte) (x2 : Bool) : Statement (.ready x0 x1 x2) := rfl
theorem refuse (x0 : Fin 3) (x1 : List Byte) (x2 : Bool) : Statement (.refuse x0 x1 x2) := rfl
theorem xstepCommit (x0 : Fin 3) (x1 : List Byte) (x2 : Bool) : Statement (.xstepCommit x0 x1 x2) := rfl
theorem xstepAbort (x0 : Fin 3) (x1 : List Byte) (x2 : Bool) : Statement (.xstepAbort x0 x1 x2) := rfl
theorem linkSilent (x0 : Fin 3) : Statement (.linkSilent x0) := rfl
theorem linkCheckLoss (x0 : Fin 3) (x1 : Bool) (x2 : Bool) : Statement (.linkCheckLoss x0 x1 x2) := rfl
theorem interlockPeriod (x0 : Nat) (x1 : Nat) : Statement (.interlockPeriod x0 x1) := rfl
theorem hbLost : Statement (.hbLost) := rfl
theorem twinObserveDone : Statement (.twinObserveDone) := rfl
theorem splitHoldoffExpire : Statement (.splitHoldoffExpire) := rfl
theorem yield (x0 : Agent) (x1 : Word) : Statement (.yield x0 x1) := rfl
theorem resume (x0 : Agent) (x1 : Word) : Statement (.resume x0 x1) := rfl
theorem imageLoad (x0 : Agent) (x1 : Word) : Statement (.imageLoad x0 x1) := rfl
theorem twinCycleEnd : Statement (.twinCycleEnd) := rfl
theorem twinXchkWindow : Statement (.twinXchkWindow) := rfl
theorem xstepGo (x0 : Agent) (x1 : Word) : Statement (.xstepGo x0 x1) := rfl
theorem xstepAbortCmd (x0 : Agent) (x1 : Word) : Statement (.xstepAbortCmd x0 x1) := rfl
theorem xstepOrphan : Statement (.xstepOrphan) := rfl
theorem sidResetCheck : Statement (.sidResetCheck) := rfl
theorem enumFrameSend : Statement (.enumFrameSend) := rfl
theorem enumFrameReceive (x0 : Nat) (x1 : List (Nat × Nat)) : Statement (.enumFrameReceive x0 x1) := rfl
theorem enumTimeout : Statement (.enumTimeout) := rfl
theorem reenum (x0 : Agent) (x1 : Word) : Statement (.reenum x0 x1) := rfl
theorem hrthLoadDataWrite (x0 : Agent) (x1 : Word) : Statement (.hrthLoadDataWrite x0 x1) := rfl
theorem go (x0 : Agent) (x1 : Word) : Statement (.go x0 x1) := rfl
theorem bootVerifyDone : Statement (.bootVerifyDone) := rfl
theorem restart (x0 : Agent) (x1 : Word) : Statement (.restart x0 x1) := rfl
theorem fuseCmdGo (x0 : Agent) (x1 : Word) : Statement (.fuseCmdGo x0 x1) := rfl
theorem mgmtBusTransaction (x0 : List Byte) (x1 : Bool) : Statement (.mgmtBusTransaction x0 x1) := rfl
theorem scrubRead (x0 : Nat) (x1 : Nat) (x2 : EccErr) (x3 : EccBy) : Statement (.scrubRead x0 x1 x2 x3) := rfl
theorem regParity (x0 : BitVec 26) (x1 : Fin 32) : Statement (.regParity x0 x1) := rfl
theorem tbaseParity (x0 : TbFlops) : Statement (.tbaseParity x0) := rfl
theorem wdogKick (x0 : Agent) (x1 : Word) : Statement (.wdogKick x0 x1) := rfl
theorem wdogExpire (x0 : Fin 4) : Statement (.wdogExpire x0) := rfl
theorem tapReset : Statement (.tapReset) := rfl
theorem tapInstructionUpdate (x0 : List TapClock) : Statement (.tapInstructionUpdate x0) := rfl
theorem tstAccess (x0 : BitVec 36) : Statement (.tstAccess x0) := rfl
theorem fuseProg (x0 : BitVec 390) : Statement (.fuseProg x0) := rfl
theorem fuseDone : Statement (.fuseDone) := rfl
theorem pcsLock (x0 : Fin 384) (x1 : Bool) (x2 : Bool) (x3 : Bool) (x4 : Bool) : Statement (.pcsLock x0 x1 x2 x3 x4) := rfl
theorem outputPulseEnd (x0 : Fin 5) : Statement (.outputPulseEnd x0) := rfl
theorem msixMask (x0 : Fin 2) (x1 : MsixWhat) : Statement (.msixMask x0 x1) := rfl

end Sys2Proof.Laws.QueueKept
end

