-- ==== Sys2Proof/Certificates/Slice0/Obligations.lean ====
section
/-!
DEFINITION. Sys2Proof/Certificates/Slice0/Obligations.lean: the statements about the part, each under the rules of spec/ that it rests on.
`Answers c s P` (Sys2Proof/Safety.lean): the command answers a next state, of which `P` holds.
-/
open Sys2Proof Sys2Proof.Machine

/-- The events of a start (R24, R36, R44, R522 to R524): the stage starts above 5.9 V, the rails follow, the internal reset releases and the straps are
sampled, the keeper locks, the main domain leaves reset with the band search running and its latched causes set. A restart that the oven island survived
shows OVEN_RETAINED; a trip restart waits for the start level where VIN fell below the reset level in the trip. Without a valid XO_IN the keeper does not lock and the main domain
does not leave reset. Nothing else of the power state changes, and no event but the last touches another chapter's registers. That a trip restart waits for the start level is the model's choice (log 12). -/
def Obligations.PowerUpEvents : Prop :=
  (∀ (s : State) (vin : Nat), s.pwr.stageOn = false → s.pwr.ovenUp = false → 5900 < vin →
    Answers (.stageStart vin) s fun t => t.pwr = { s.pwr with stageOn := true, vin := vin, low := false } ∧ Within [.pwr] s t) ∧
  (∀ s : State, s.pwr.stageOn = true →
    Answers .railsGood s fun t => t.pwr = { s.pwr with railsGood := true } ∧ Within [.pwr] s t) ∧
  (∀ (s : State) (pref boot head : Bool), s.pwr.railsGood = true → s.pwr.released = false → s.pwr.tripped = false →
    Answers (.internalResetRelease pref boot head) s fun t =>
      t.pwr = { s.pwr with released := true, resetN := true, ovenUp := true } ∧
      t.reg Reg.CHIP_STRAPS = BitVec.ofNat 32 (flagAt pref 0 + flagAt boot 1 + flagAt head 2) ∧
      (s.pwr.ovenUp = true → t.boot = s.boot ∧ t.reg Reg.TWIN_PAIR_CFG = s.reg Reg.TWIN_PAIR_CFG) ∧
      (s.pwr.ovenUp = false → t.boot.strapBoot = boot ∧ t.boot.enumHead = head ∧ t.flag F.TWIN_PAIR_CFG_PREF = pref) ∧
      Only [.pwr, .boot] [Reg.CHIP_STRAPS, Reg.TWIN_PAIR_CFG] s t) ∧
  (∀ s : State, s.pwr.ovenUp = true → s.pwr.released = true → s.pwr.xoIn = true → s.pwr.oclkUp = false →
    Answers .keeperLock s fun t =>
      t.pwr = { s.pwr with oclkUp := true } ∧
      (s.boot.enumHead = true → t.fld F.CHIP_UNIT_UNIT = 0 ∧ t.flag F.CHIP_UNIT_VALID = true ∧ t.boot.enumOut = enumFrame 1) ∧
      (s.boot.enumHead = false → t.boot = s.boot ∧ RegsKeep [] s t) ∧
      Only [.pwr, .boot] [Reg.CHIP_UNIT, Reg.CHIP_INT_STATUS] s t) ∧
  (∀ s : State, s.pwr.xoIn = false → exec .keeperLock s = .next s ∧ exec .mainDomainRelease s = .next s) ∧
  (∀ s : State, s.pwr.oclkUp = true → s.pwr.released = true → s.pwr.xoIn = true → s.pwr.mainUp = false →
    Answers .mainDomainRelease s fun t =>
      t.pwr = { s.pwr with mainUp := true, latched := 0 } ∧ t.clk = { s.clk with mainAt := s.clk.tclk } ∧
      t.flag F.LOOP_MPLL_STATUS_SEARCHING = true ∧ t.flag F.LOOP_MPLL_STATUS_LOCKED = false ∧
      t.fld F.HRTH_BOOT_STATUS_STATE = (if s.boot.strapBoot then 2 else 1) ∧
      t.flag F.PWR_INT_STATUS_SUPPLY_RESET = (s.pwr.latched.getLsbD 6 || decide (s.pwr.lastCause = .supply)) ∧
      t.flag F.PWR_INT_STATUS_TRIP_RESTART = (s.pwr.latched.getLsbD 8 || decide (s.pwr.lastCause = .trip)) ∧
      t.sram = [] ∧ t.hostMem = s.hostMem ∧ t.tb.value = s.tb.value ∧ t.boot.valid = s.boot.valid ∧
      t.boot.revoked = s.boot.revoked ∧ t.boot.secver = s.boot.secver ∧ t.tap = s.tap ∧ t.pending = s.pending) ∧
  (∀ (s : State) (vin : Nat), s.pwr.ovenUp = true → s.pwr.stageOn = false → s.pwr.tripped = false → 5900 < vin →
    Answers (.supplyRestart vin) s fun t =>
      t.pwr = { s.pwr with stageOn := true, vin := vin, low := false } ∧ t.flag F.PWR_LIVE_OVEN_RETAINED = true ∧
      Only [.pwr] [Reg.PWR_LIVE] s t) ∧
  (∀ (s : State) (vin : Nat), s.pwr.ovenUp = true → s.pwr.stageOn = false → s.pwr.tripped = true → 5900 < vin →
    Answers (.supplyRestart vin) s fun t => t.pwr = { s.pwr with vin := vin, low := false } ∧ Within [.pwr] s t) ∧
  (∀ (s : State) (tj : BitVec 12), s.pwr.tripped = true → tj.toInt < 400 →
    Answers (.tripRestart tj) s fun t =>
      t.pwr = { s.pwr with stageOn := if s.pwr.low then s.pwr.stageOn else true, tripped := false, resetN := false, lastCause := .trip } ∧ t.flag F.PWR_LIVE_OVEN_RETAINED = true ∧
      Only [.pwr] [Reg.PWR_LIVE] s t)

/-- A dip of the feed (R32 to R35): the warning shows itself, drives PWR_WARN_N low and flags every record; its end is logged with the length in microseconds, halves rounded up, and the
lowest VIN; the flag ends later, and a proofing run that the dip abandoned is then triggered again (R309). The HOLDUP monitor (R26, R51) shows its readiness, its estimate and its
warning. While the main domain is in reset each cause, that of the warning, of its end and of HOLDUP, is latched in the oven island instead (R584). The model's choice (log 12): CAP is
rounded down and held at 0xFFFF. -/
def Obligations.SupplyDips : Prop :=
  (∀ (s : State) (vin : Nat), s.pwr.ovenUp = true → s.pwr.mainUp = true → s.prf.mode = 0 → vin < s.fld F.PWR_WARN_LEVEL_LEVEL_MV →
      s.flag F.PWR_LIVE_WARN_ACTIVE = false →
    Answers (.warnAssert vin) s fun t =>
      t.flag F.PWR_LIVE_WARN_ACTIVE = true ∧ t.flag F.PWR_LIVE_EVT_FLAG = true ∧ t.flag F.PWR_INT_STATUS_WARN_ASSERT = true ∧
      t.pwr = { s.pwr with vin := vin, warnN := false, dip := some ⟨false, s.clk.tclk, BitVec.ofNat 32 (logTime s).1, vin⟩ } ∧
      Only [.pwr] [Reg.PWR_LIVE, Reg.PWR_INT_STATUS] s t) ∧
  (∀ (s : State) (vin : Nat), s.pwr.ovenUp = true → s.pwr.mainUp = true → s.prf.mode ≠ 0 → vin < s.fld F.PWR_WARN_LEVEL_LEVEL_MV →
      s.flag F.PWR_LIVE_WARN_ACTIVE = false →
    Answers (.warnAssert vin) s fun t =>
      t.flag F.PWR_LIVE_WARN_ACTIVE = true ∧ t.flag F.PWR_LIVE_EVT_FLAG = true ∧ t.flag F.PWR_INT_STATUS_WARN_ASSERT = true ∧
      t.flag F.PRF_INT_STATUS_RUN_ABANDON = true ∧ t.prf.mode = 0 ∧ t.prf.restart = true ∧ t.pwr.warnN = false ∧ Within [.regs, .pwr, .met, .prf] s t) ∧
  (∀ (s : State) (vin low oclk : Nat) (d : DipSt), s.pwr.ovenUp = true → s.pwr.mainUp = true → s.pwr.dip = some d →
      s.fld F.PWR_WARN_LEVEL_LEVEL_MV + 200 < vin →
    Answers (.warnClear vin low oclk) s fun t =>
      t.flag F.PWR_LIVE_WARN_ACTIVE = false ∧ t.flag F.PWR_INT_STATUS_WARN_CLEAR = true ∧ t.flag F.PWR_INT_STATUS_EVT_LOGGED = true ∧
      t.pwr = { s.pwr with vin := vin, dip := none, warnN := true } ∧
      t.ifld 1 (4 * s.ifld 1 0x40 0 4) 28 4 = (if d.reset then 2 else 1) ∧ t.ifld 1 (4 * s.ifld 1 0x40 0 4) 0 16 = s.ifld 1 0x40 16 16 ∧
      t.indw 1 (4 * s.ifld 1 0x40 0 4 + 1) = BitVec.ofNat 32 (min ((8 * oclk + 500) / 1000) (2 ^ 32 - 1)) ∧
      t.indw 1 (4 * s.ifld 1 0x40 0 4 + 2) = BitVec.ofNat 32 (min d.min low % 2 ^ 16) ∧
      t.indw 1 (4 * s.ifld 1 0x40 0 4 + 3) = d.tb ∧
      t.ifld 1 0x40 0 4 = (s.ifld 1 0x40 0 4 + 1) % 16 ∧ t.ifld 1 0x40 16 16 = (s.ifld 1 0x40 16 16 + 1) % 2 ^ 16 ∧
      t.indw 1 0x41 = s.indw 1 0x41 + 1 ∧
      (s.flag F.PWR_INT_STATUS_EVT_OVERWRITE = false →
        t.flag F.PWR_INT_STATUS_EVT_OVERWRITE = decide (s.ifld 1 (4 * s.ifld 1 0x40 0 4) 28 4 ≠ 0)) ∧
      Only [.pwr, .ind] [Reg.PWR_LIVE, Reg.PWR_INT_STATUS] s t) ∧
  (∀ s : State, s.pwr.ovenUp = true → s.flag F.PWR_LIVE_WARN_ACTIVE = false → s.flag F.PWR_LIVE_EVT_FLAG = true → s.prf.restart = false →
    Answers .evtFlagClear s fun t => t.flag F.PWR_LIVE_EVT_FLAG = false ∧ Only [] [Reg.PWR_LIVE] s t) ∧
  (∀ s : State, s.pwr.ovenUp = true → s.flag F.PWR_LIVE_WARN_ACTIVE = false → s.flag F.PWR_LIVE_EVT_FLAG = true → s.prf.restart = true → s.prf.mode = 0 →
      s.flag F.PRF_CTRL_EN = false →
    Answers .evtFlagClear s fun t => t.flag F.PWR_LIVE_EVT_FLAG = false ∧
      t.prf = { s.prf with restart := false, pend := true, causePend := s.prf.causePend ||| 8 } ∧ t.flag F.PRF_LIVE_PENDING = true ∧
      Only [.prf] [Reg.PWR_LIVE, Reg.PRF_LIVE] s t) ∧
  (∀ s : State, s.pwr.ovenUp = true → s.flag F.PWR_LIVE_WARN_ACTIVE = false → s.flag F.PWR_LIVE_EVT_FLAG = true → s.prf.restart = true → s.prf.mode = 0 →
      s.flag F.PRF_CTRL_EN = true → s.fld F.LOOP_STATUS_STATE < 6 → s.reg Reg.MET_CD_BUSY = 0 →
    Answers .evtFlagClear s fun t => t.flag F.PWR_LIVE_EVT_FLAG = false ∧ t.flag F.PRF_INT_STATUS_RUN_START = true ∧ t.prf.restart = false ∧
      t.prf.causeRun = s.prf.causePend ||| 8 ∧ Within [.regs, .ind, .met, .prf] s t) ∧
  (∀ (s : State) (vin : Nat), s.pwr.ovenUp = true → s.pwr.mainUp = false → s.prf.mode = 0 → vin < s.fld F.PWR_WARN_LEVEL_LEVEL_MV →
      s.flag F.PWR_LIVE_WARN_ACTIVE = false →
    Answers (.warnAssert vin) s fun t =>
      t.flag F.PWR_LIVE_WARN_ACTIVE = true ∧ t.flag F.PWR_LIVE_EVT_FLAG = true ∧
      t.pwr = { s.pwr with vin := vin, warnN := false, dip := some ⟨false, s.clk.tclk, BitVec.ofNat 32 (logTime s).1, vin⟩, latched := s.pwr.latched ||| 1 } ∧
      Only [.pwr] [Reg.PWR_LIVE] s t) ∧
  (∀ (s : State) (vin low oclk : Nat) (d : DipSt), s.pwr.ovenUp = true → s.pwr.mainUp = false → s.pwr.dip = some d →
      s.fld F.PWR_WARN_LEVEL_LEVEL_MV + 200 < vin → s.indw 1 0x41 ≠ 0xFFFFFFFF →
    Answers (.warnClear vin low oclk) s fun t =>
      t.flag F.PWR_LIVE_WARN_ACTIVE = false ∧ t.indw 1 0x41 = s.indw 1 0x41 + 1 ∧
      t.pwr = { s.pwr with vin := vin, dip := none, warnN := true, latched := s.pwr.latched ||| (if s.ifld 1 (4 * s.ifld 1 0x40 0 4) 28 4 = 0 then 0x6 else 0xE) } ∧
      Only [.pwr, .ind] [Reg.PWR_LIVE] s t) ∧
  (∀ (s : State) (mv : Nat), s.pwr.ovenUp = true → 11500 ≤ mv →
    Answers (.holdupReady mv) s fun t => t.flag F.PWR_LIVE_HOLDUP_READY = true ∧ Only [] [Reg.PWR_LIVE] s t) ∧
  (∀ (s : State) (uF : Nat), s.pwr.ovenUp = true → s.pwr.mainUp = true →
    Answers (.holdupCapEstimate uF) s fun t =>
      t.fld F.PWR_HOLDUP_CAP = min (uF / 10) 0xFFFF ∧
      (s.flag F.PWR_INT_STATUS_HOLDUP_LOW = false → t.flag F.PWR_INT_STATUS_HOLDUP_LOW = decide (uF < 4700)) ∧
      Only [] [Reg.PWR_HOLDUP, Reg.PWR_INT_STATUS] s t) ∧
  (∀ (s : State) (mv : Nat), s.pwr.ovenUp = true → s.pwr.mainUp = true → mv < 11500 → s.flag F.PWR_LIVE_HOLDUP_READY = true →
      s.fld F.PWR_WARN_LEVEL_LEVEL_MV < s.pwr.vin →
    Answers (.holdupLow mv) s fun t => t.flag F.PWR_INT_STATUS_HOLDUP_LOW = true ∧ Only [] [Reg.PWR_INT_STATUS] s t) ∧
  (∀ (s : State) (mv : Nat), s.pwr.ovenUp = true → s.pwr.mainUp = false → mv < 11500 → s.flag F.PWR_LIVE_HOLDUP_READY = true →
      s.fld F.PWR_WARN_LEVEL_LEVEL_MV < s.pwr.vin →
    Answers (.holdupLow mv) s fun t => t.pwr = { s.pwr with latched := s.pwr.latched ||| 0x20 } ∧ Within [.pwr] s t)

/-- Below the reset level with HOLDUP ready, and in a thermal trip, the oven island keeps the time base, the increment, the oven registers, the dip and the event log, flagged with OUTAGE (set at the loss itself: log 12, DEDUCED from R172),
and every lane, frame and byte of Hearth SRAM is lost; without HOLDUP, below 3.0 V on it, and at RESET_N outside a trip, every register returns to its reset value. At RESET_N in a
trip a die below 100 °C restarts with the oven island kept, and a hotter one ignores it. Fuses, host memory and the waiting commands stay through all of them; the test access port is at its reset values after each loss. -/
def Obligations.PowerLosses : Prop :=
  (∀ (s : State) (vin : Nat), s.pwr.stageOn = true → vin < 4800 → s.flag F.PWR_LIVE_HOLDUP_READY = true →
    Answers (.supplyReset vin) s fun t =>
      t.pwr.stageOn = false ∧ t.pwr.railsGood = false ∧ t.pwr.mainUp = false ∧ t.pwr.ovenUp = s.pwr.ovenUp ∧ t.pwr.vin = vin ∧
      t.pwr.warnN = s.pwr.warnN ∧ t.pwr.low = true ∧ t.pwr.lastCause = .supply ∧ t.pwr.dip = s.pwr.dip.map (fun d => { d with reset := true, min := min d.min vin }) ∧
      t.flag F.TBASE_LIVE_OUTAGE = true ∧ t.tb.value = s.tb.value ∧
      (∀ a ∈ [Reg.PWR_WARN_LEVEL, Reg.TBASE_INC_CUR_LO, Reg.TBASE_INC_CUR_HI, Reg.LOOP_HO_CTRL, Reg.TWIN_PAIR_CFG], t.reg a = s.reg a) ∧
      (∀ i ∈ List.range 66, t.indw 1 i = s.indw 1 i) ∧
      t.lanes = [] ∧ t.net = {} ∧ t.sram = [] ∧ t.tap = {} ∧
      (t.flag F.PWR_LIVE_TEMP_WARN_ACTIVE = s.flag F.PWR_LIVE_TEMP_WARN_ACTIVE) ∧ Within [.regs, .ind, .sram, .pwr, .hst, .lanes, .tb, .met, .loop, .sky, .prf, .net, .tlm, .twin, .boot, .tap, .lanePll, .free] s t) ∧
  (∀ (s : State) (vin : Nat), s.pwr.stageOn = true → vin < 4800 → s.flag F.PWR_LIVE_HOLDUP_READY = false →
    Answers (.supplyReset vin) s fun t =>
      t.regs = [] ∧ t.ind = [] ∧ t.sram = [] ∧ t.tb = {} ∧ t.loop = {} ∧ t.pwr = { vin := vin, resetN := s.pwr.resetN, low := true, xoIn := s.pwr.xoIn } ∧
      t.boot.valid = s.boot.valid ∧ t.boot.revoked = s.boot.revoked ∧ t.boot.secver = s.boot.secver ∧ t.boot.hash = s.boot.hash ∧
      t.tap = {} ∧ t.hostMem = s.hostMem ∧ t.pending = s.pending) ∧
  (∀ (s : State) (mv : Nat), s.pwr.ovenUp = true → mv < 3000 → s.pwr.vin < 4800 →
    Answers (.ovenIslandStop mv) s fun t =>
      t.regs = [] ∧ t.ind = [] ∧ t.pwr.ovenUp = false ∧ t.pwr.stageOn = false ∧ t.tb = {} ∧
      t.boot.valid = s.boot.valid ∧ t.boot.revoked = s.boot.revoked ∧ t.boot.secver = s.boot.secver ∧ t.tap = {} ∧
      t.hostMem = s.hostMem ∧ t.pending = s.pending) ∧
  (∀ (s : State) (tj : BitVec 12), s.pwr.tripped = false →
    Answers (.resetNAssert tj) s fun t =>
      t.regs = [] ∧ t.ind = [] ∧ t.pwr.ovenUp = false ∧ t.pwr.mainUp = false ∧ t.pwr.resetN = false ∧
      t.pwr.stageOn = s.pwr.stageOn ∧ t.pwr.railsGood = s.pwr.railsGood ∧ t.tb = {} ∧
      t.boot.valid = s.boot.valid ∧ t.boot.revoked = s.boot.revoked ∧ t.boot.secver = s.boot.secver ∧ t.tap = {} ∧
      t.hostMem = s.hostMem ∧ t.pending = s.pending) ∧
  (∀ (s : State) (tj : BitVec 12), s.pwr.tripped = true → tj.toInt < 400 →
    Answers (.resetNAssert tj) s fun t =>
      t.pwr = { s.pwr with stageOn := if s.pwr.low then s.pwr.stageOn else true, tripped := false, resetN := false, lastCause := .trip } ∧
      t.flag F.PWR_LIVE_OVEN_RETAINED = true ∧
      Only [.pwr] [Reg.PWR_LIVE] s t) ∧
  (∀ (s : State) (tj : BitVec 12), s.pwr.tripped = true → 400 ≤ tj.toInt → exec (.resetNAssert tj) s = .next s) ∧
  (∀ (s : State) (tj : BitVec 12), 500 ≤ tj.toInt → s.pwr.ovenUp = true → s.pwr.tripped = false →
    Answers (.thermalTrip tj) s fun t =>
      t.pwr.tripped = true ∧ t.pwr.stageOn = false ∧ t.pwr.railsGood = false ∧ t.pwr.mainUp = false ∧ t.pwr.ovenUp = true ∧
      t.flag F.TBASE_LIVE_OUTAGE = true ∧ t.tb.value = s.tb.value ∧ (∀ i ∈ List.range 66, t.indw 1 i = s.indw 1 i) ∧ t.lanes = [] ∧ t.net = {} ∧ t.sram = [] ∧
      Within [.regs, .ind, .sram, .pwr, .hst, .lanes, .tb, .met, .loop, .sky, .prf, .net, .tlm, .twin, .boot, .tap, .lanePll, .free] s t)

/-- A write of the warning level is held within 5,000 and 59,000 mV (R30), unless the page is locked; the measured voltages, currents, power and rails show themselves (R47, R51, R583); the
highest of the sixteen sensors, the first of equals, shows itself with its number, and TEMP_WARN sets where the reading rises through the level while armed (R43); a new level is compared with the reading at once (R48), and arms the warning (log 12, DEDUCED: no reading has risen through that level yet). -/
def Obligations.PowerMeasures : Prop :=
  (∀ (s : State) (ag : Agent) (d : Word), s.pwr.mainUp = true → pf1Denied ag Reg.PWR_WARN_LEVEL s = false → s.locked 16 = false →
    Answers (.pwrWarnLevelWrite ag d) s fun t =>
      t.fld F.PWR_WARN_LEVEL_LEVEL_MV =
        (if d.toNat % 65536 < 5000 then 5000 else if 59000 < d.toNat % 65536 then 59000 else d.toNat % 65536) ∧
      Only [] [Reg.PWR_WARN_LEVEL] s t) ∧
  (∀ (s : State) (ag : Agent) (d : Word), s.pwr.mainUp = true → pf1Denied ag Reg.PWR_WARN_LEVEL s = false → s.locked 16 = true →
      5000 ≤ d.toNat % 65536 → d.toNat % 65536 ≤ 59000 →
    Answers (.pwrWarnLevelWrite ag d) s fun t =>
      t.fld F.PWR_WARN_LEVEL_LEVEL_MV = s.fld F.PWR_WARN_LEVEL_LEVEL_MV ∧
      (d.toNat % 65536 ≠ s.fld F.PWR_WARN_LEVEL_LEVEL_MV → t.flag (lockViol 16) = true) ∧ Only [] [Reg.PWR_WARN_LEVEL, pageStatus 16] s t) ∧
  (∀ (s : State) (vin iin pin holdup : BitVec 16) (rails : List (BitVec 16)), s.pwr.mainUp = true → rails.length = 16 →
    Answers (.pwrMeasureUpdate vin iin pin holdup rails) s fun t =>
      t.reg Reg.PWR_VIN = vin.setWidth 32 ∧ t.reg Reg.PWR_IIN = iin.setWidth 32 ∧ t.reg Reg.PWR_PIN = pin.setWidth 32 ∧
      t.fld F.PWR_HOLDUP_VOLT = holdup.toNat ∧ t.fld F.PWR_HOLDUP_CAP = s.fld F.PWR_HOLDUP_CAP ∧
      (∀ i ∈ List.range 16, t.reg (Reg.PWR_RAIL_V i) = (rails.getD i 0).setWidth 32) ∧ t.pwr = { s.pwr with vin := vin.toNat } ∧
      Only [.pwr] ([Reg.PWR_VIN, Reg.PWR_IIN, Reg.PWR_PIN, Reg.PWR_HOLDUP] ++ (List.range 16).map Reg.PWR_RAIL_V) s t) ∧
  (∀ (s : State) (sensors : List (BitVec 12)) (i : Nat) (x : BitVec 12), s.pwr.mainUp = true → sensors.length = 16 → sensors[i]? = some x →
      (∀ y ∈ sensors, y.toInt ≤ x.toInt) → (∀ j < i, sensors.getD j 0 ≠ x) →
    Answers (.tempUpdate sensors) s fun t =>
      t.fld F.PWR_TEMP_TJ = x.toNat ∧ t.fld F.PWR_TEMP_SENSOR = i ∧
      t.flag F.PWR_LIVE_TEMP_WARN_ACTIVE = decide (signed 12 (s.fld F.PWR_TEMP_WARN_TJ) ≤ x.toInt) ∧
      (signed 12 (s.fld F.PWR_TEMP_TJ) < signed 12 (s.fld F.PWR_TEMP_WARN_TJ) → signed 12 (s.fld F.PWR_TEMP_WARN_TJ) ≤ x.toInt → s.pwr.tempArmed = true →
        t.flag F.PWR_INT_STATUS_TEMP_WARN = true ∧ t.pwr = { s.pwr with tempArmed := false }) ∧
      (x.toInt < signed 12 (s.fld F.PWR_TEMP_WARN_TJ) - 8 → t.pwr = { s.pwr with tempArmed := true }) ∧
      Only [.pwr] [Reg.PWR_TEMP, Reg.PWR_LIVE, Reg.PWR_INT_STATUS] s t) ∧
  (∀ (s : State) (ag : Agent) (d : Word), s.pwr.mainUp = true → pf1Denied ag Reg.PWR_TEMP_WARN s = false → s.locked 16 = false →
    Answers (.registerWrite ag (BitVec.ofNat 26 (4 * Reg.PWR_TEMP_WARN)) 0xF d) s fun t =>
      t.fld F.PWR_TEMP_WARN_TJ = d.toNat % 4096 ∧
      t.flag F.PWR_LIVE_TEMP_WARN_ACTIVE = decide (signed 12 (d.toNat % 4096) ≤ signed 12 (s.fld F.PWR_TEMP_TJ)) ∧
      t.pwr = { s.pwr with tempArmed := s.pwr.tempArmed || decide (d.toNat % 4096 ≠ s.fld F.PWR_TEMP_WARN_TJ) } ∧
      Only [.hst, .pwr] [Reg.PWR_TEMP_WARN, Reg.PWR_LIVE] s t)

/-- Accesses of an agent (R55, R59, R66, R68, R69, R73, R74, R86): a write stores a register's RW bits and leaves the rest; a read returns the register and clears the RC bits
that it returned; an alias write reaches one bit and an alias read returns one and clears it where it is RC; LOCKED, once written 1, stays; INT_FORCE sets causes
of its page; a read of a counter's low word latches its high word for the agent, and the agent's next read of the high word returns it and ends the snapshot; LOOP_BT latches its two
further words, and the read of the last of them ends it ("LOOP registers"). A write of a word with RWL or WO fields stores what is not locked, keeps an RWL field after LOCK
and a WO field after its one write, and sets LOCK_VIOL exactly where one of these would have changed (R70, R72). A write DW without all byte enables is ignored, with PARTIAL_WRITE, and each other
flag that applies (R56); a read DW without byte enables returns 0 and has no effect (R56). An access to an unpopulated page, a reserved offset or the reserved range is ignored, or returns 0, with UNMAPPED
and the offset and agent in HOST_ERR_ADDR (R57); `noRegister` says which places those are, the alias words of window registers among them (R580). That the TST port's completion shows in `tap` is R571. The model's choices: log 13. -/
def Obligations.RegisterAccesses : Prop :=
  (∀ (s : State) (ag : Agent) (addr : BitVec 26) (d : Word), s.pwr.mainUp = true → addr.toNat < 2 ^ 24 →
      (regDef? (addr.toNat / 4)).isSome = true → isWinReg (addr.toNat / 4) = false → (regOf (addr.toNat / 4)).act = .none → (regOf (addr.toNat / 4)).norm = .none → (regOf (addr.toNat / 4)).ctr = .none →
      (regOf (addr.toNat / 4)).rwl = 0 → (regOf (addr.toNat / 4)).wo = 0 → addr.toNat / 4 ≠ Reg.HRTH_FW_STATUS → pf1Denied ag (addr.toNat / 4) s = false →
    Answers (.registerWrite ag addr 0xF d) s fun t =>
      t.reg (addr.toNat / 4) = (s.reg (addr.toNat / 4) &&& ~~~(regOf (addr.toNat / 4)).rw) ||| (d &&& (regOf (addr.toNat / 4)).rw) ∧ Only [.hst] [addr.toNat / 4] s t) ∧
  (∀ (s : State) (ag : Agent) (addr : BitVec 26) (be : BitVec 4), s.pwr.mainUp = true → addr.toNat < 2 ^ 24 → be ≠ 0 →
      (regDef? (addr.toNat / 4)).isSome = true → isWinReg (addr.toNat / 4) = false → (regOf (addr.toNat / 4)).live = .none → ctrOf (addr.toNat / 4) (regOf (addr.toNat / 4)) = .none →
      blockOfPage (addr.toNat / 4 / 1024) ≠ some 4 →
    Answers (.rcRead ag addr be) s fun t =>
      t.hst.completions = [(ag, s.reg (addr.toNat / 4))] ∧ t.reg (addr.toNat / 4) = s.reg (addr.toNat / 4) &&& ~~~(regOf (addr.toNat / 4)).rc ∧
      Only [.hst, .tap] [addr.toNat / 4] s t) ∧
  (∀ (s : State) (ag : Agent) (page : BitVec 12) (b : BitVec 11) (d : Word), s.pwr.mainUp = true →
      (regDef? (page.toNat * 1024 + b.toNat / 32)).isSome = true → isWinReg (page.toNat * 1024 + b.toNat / 32) = false →
      (regOf (page.toNat * 1024 + b.toNat / 32)).act = .none → (regOf (page.toNat * 1024 + b.toNat / 32)).norm = .none → (regOf (page.toNat * 1024 + b.toNat / 32)).ctr = .none → (regOf (page.toNat * 1024 + b.toNat / 32)).rwl = 0 → (regOf (page.toNat * 1024 + b.toNat / 32)).wo = 0 → page.toNat * 1024 + b.toNat / 32 ≠ Reg.HRTH_FW_STATUS →
      (regOf (page.toNat * 1024 + b.toNat / 32)).rw.getLsbD (b.toNat % 32) = true → pf1Denied ag (page.toNat * 1024 + b.toNat / 32) s = false →
    Answers (.aliasWrite ag page b d) s fun t =>
      t.reg (page.toNat * 1024 + b.toNat / 32) =
        putBits (s.reg (page.toNat * 1024 + b.toNat / 32)) (b.toNat % 32) 1 (if d.getLsbD 0 then 1 else 0) ∧
      Only [.hst] [page.toNat * 1024 + b.toNat / 32] s t) ∧
  (∀ (s : State) (ag : Agent) (page : BitVec 12) (b : BitVec 11), s.pwr.mainUp = true →
      (regDef? (page.toNat * 1024 + b.toNat / 32)).isSome = true → isWinReg (page.toNat * 1024 + b.toNat / 32) = false → (regOf (page.toNat * 1024 + b.toNat / 32)).live = .none →
      blockOfPage page.toNat ≠ some 4 →
    Answers (.aliasRead ag page b) s fun t =>
      t.hst.completions = [(ag, BitVec.ofNat 32 (bits (s.reg (page.toNat * 1024 + b.toNat / 32)) (b.toNat % 32) 1))] ∧
      ((regOf (page.toNat * 1024 + b.toNat / 32)).rc.getLsbD (b.toNat % 32) = true → t.rbit (page.toNat * 1024 + b.toNat / 32) (b.toNat % 32) = false) ∧
      (∀ j ∈ List.range 32, j ≠ b.toNat % 32 → t.rbit (page.toNat * 1024 + b.toNat / 32) j = s.rbit (page.toNat * 1024 + b.toNat / 32) j) ∧
      Only [.hst, .tap] [page.toNat * 1024 + b.toNat / 32] s t) ∧
  (∀ (s : State) (ag : Agent) (page : BitVec 12) (d : Word), s.pwr.mainUp = true → blockOfPage page.toNat ≠ none →
      pf1Denied ag (pageLock page.toNat) s = false →
    Answers (.lockWrite ag page d) s fun t =>
      t.locked page.toNat = (s.locked page.toNat || d.getLsbD 0) ∧ Only [.hst] [pageLock page.toNat] s t) ∧
  (∀ (s : State) (ag : Agent) (page : BitVec 12) (d : Word), s.pwr.mainUp = true → blockOfPage page.toNat ≠ none →
      pf1Denied ag (page.toNat * 1024 + 6) s = false →
    Answers (.intForce ag page d) s fun t =>
      t.reg (page.toNat * 1024 + 4) = s.reg (page.toNat * 1024 + 4) ||| (d &&& forceBits (page.toNat * 1024 + 6)) ∧
      Only [.hst] [page.toNat * 1024 + 4, page.toNat * 1024 + 6] s t) ∧
  (∀ (s : State) (ag : Agent) (addr : BitVec 26), s.pwr.mainUp = true → addr.toNat < 2 ^ 24 →
      (regDef? (addr.toNat / 4)).isSome = true → isWinReg (addr.toNat / 4) = false → (regOf (addr.toNat / 4)).live = .none → (regOf (addr.toNat / 4)).ctr = .lo → (regOf (addr.toNat / 4)).rc = 0 →
    Answers (.counterLoRead ag addr) s fun t =>
      t.hst.completions = [(ag, s.reg (addr.toNat / 4))] ∧
      smapGet noSnap t.hst.snap (agentIx ag) = some (addr.toNat / 4, [s.reg (addr.toNat / 4 + 1)]) ∧ Only [.hst, .tap] [] s t) ∧
  (∀ (s : State) (ag : Agent) (addr : BitVec 26) (h : Word), s.pwr.mainUp = true → addr.toNat < 2 ^ 24 →
      (regDef? (addr.toNat / 4)).isSome = true → isWinReg (addr.toNat / 4) = false → (regOf (addr.toNat / 4)).live = .none → (regOf (addr.toNat / 4)).ctr = .hi → (regOf (addr.toNat / 4)).rc = 0 →
      smapGet noSnap s.hst.snap (agentIx ag) = some (addr.toNat / 4 - 1, [h]) → 4 ≤ addr.toNat →
    Answers (.counterHiRead ag addr) s fun t =>
      t.hst.completions = [(ag, h)] ∧ smapGet noSnap t.hst.snap (agentIx ag) = none ∧ Only [.hst, .tap] [] s t) ∧
  (∀ (s : State) (ag : Agent), s.pwr.mainUp = true →
    Answers (.counterLoRead ag (BitVec.ofNat 26 (4 * Reg.LOOP_BT_LO))) s fun t =>
      t.hst.completions = [(ag, s.reg Reg.LOOP_BT_LO)] ∧
      smapGet noSnap t.hst.snap (agentIx ag) = some (Reg.LOOP_BT_LO, [s.reg Reg.LOOP_BT_HI, s.reg Reg.LOOP_BT_SUB]) ∧ Only [.hst, .tap] [] s t) ∧
  (∀ (s : State) (ag : Agent) (h f : Word), s.pwr.mainUp = true → smapGet noSnap s.hst.snap (agentIx ag) = some (Reg.LOOP_BT_LO, [h, f]) →
    Answers (.counterHiRead ag (BitVec.ofNat 26 (4 * Reg.LOOP_BT_HI))) s fun t =>
      t.hst.completions = [(ag, h)] ∧ smapGet noSnap t.hst.snap (agentIx ag) = some (Reg.LOOP_BT_LO, [h, f]) ∧ Only [.hst, .tap] [] s t) ∧
  (∀ (s : State) (ag : Agent) (h f : Word), s.pwr.mainUp = true → smapGet noSnap s.hst.snap (agentIx ag) = some (Reg.LOOP_BT_LO, [h, f]) →
    Answers (.counterHiRead ag (BitVec.ofNat 26 (4 * Reg.LOOP_BT_SUB))) s fun t =>
      t.hst.completions = [(ag, f)] ∧ smapGet noSnap t.hst.snap (agentIx ag) = none ∧ Only [.hst, .tap] [] s t) ∧
  (∀ (s : State) (ag : Agent) (addr : BitVec 26) (d v lk : Word), s.pwr.mainUp = true → addr.toNat < 2 ^ 24 →
      (regDef? (addr.toNat / 4)).isSome = true → isWinReg (addr.toNat / 4) = false → ((regOf (addr.toNat / 4)).act = .none ∨ (regOf (addr.toNat / 4)).act = .warnLevel) → (regOf (addr.toNat / 4)).ctr = .none →
      addr.toNat / 4 ≠ Reg.HRTH_FW_STATUS → pf1Denied ag (addr.toNat / 4) s = false → v = normWord (regOf (addr.toNat / 4)).norm (s.reg (addr.toNat / 4)) d →
      lk = ((if s.locked (addr.toNat / 4 / 1024) then (regOf (addr.toNat / 4)).rwl else 0) ||| (if woDoneAt s (addr.toNat / 4) (regOf (addr.toNat / 4)) then (regOf (addr.toNat / 4)).wo else 0)) →
    Answers (.registerWrite ag addr 0xF d) s fun t =>
      t.reg (addr.toNat / 4) = (s.reg (addr.toNat / 4) &&& ~~~(((regOf (addr.toNat / 4)).rw ||| (regOf (addr.toNat / 4)).rwl ||| (regOf (addr.toNat / 4)).wo) &&& ~~~lk)) ||| (v &&& (((regOf (addr.toNat / 4)).rw ||| (regOf (addr.toNat / 4)).rwl ||| (regOf (addr.toNat / 4)).wo) &&& ~~~lk)) ∧
      t.flag (lockViol (addr.toNat / 4 / 1024)) = (s.flag (lockViol (addr.toNat / 4 / 1024)) || decide ((v ^^^ s.reg (addr.toNat / 4)) &&& lk ≠ 0)) ∧
      ((regOf (addr.toNat / 4)).wo ≠ 0 → (regOf (addr.toNat / 4)).norm = .none → woDoneAt t (addr.toNat / 4) (regOf (addr.toNat / 4)) = true) ∧
      Only [.hst] [addr.toNat / 4, pageStatus (addr.toNat / 4 / 1024)] s t) ∧
  (∀ (s : State) (ag : Agent) (a : Nat) (d v lk : Word), s.pwr.mainUp = true →
      a ∈ [Reg.TBASE_CTRL, Reg.BUF_AUDIT, Reg.TWIN_PAIR_CFG, Reg.TWIN_STACK_CFG, Reg.FLT_CTRL, Reg.FLT_WDOG] → pf1Denied ag a s = false →
      v = normWord (regOf a).norm (s.reg a) d →
      lk = ((if s.locked (a / 1024) then (regOf a).rwl else 0) ||| (if woDoneAt s a (regOf a) then (regOf a).wo else 0)) →
    Answers (.registerWrite ag (BitVec.ofNat 26 (4 * a)) 0xF d) s fun t =>
      t.reg a &&& lk = s.reg a &&& lk ∧ ((v ^^^ s.reg a) &&& lk ≠ 0 → t.flag (lockViol (a / 1024)) = true)) ∧
  (∀ (s : State) (ag : Agent) (addr : BitVec 26) (be : BitVec 4) (d : Word), s.pwr.mainUp = true → be ≠ 0xF →
    Answers (.registerWrite ag addr be d) s fun t =>
      t.flag F.HOST_INT_STATUS_PARTIAL_WRITE = true ∧
      t.flag F.HOST_INT_STATUS_UNMAPPED = (s.flag F.HOST_INT_STATUS_UNMAPPED || noRegister (addr.toNat / 4)) ∧
      t.reg Reg.HOST_ERR_ADDR = (if noRegister (addr.toNat / 4) then BitVec.ofNat 32 (addr.toNat / 4 * 4 + errAgent ag * 2 ^ 26) else s.reg Reg.HOST_ERR_ADDR) ∧
      t.flag F.HOST_INT_STATUS_PF1_DENIED = (s.flag F.HOST_INT_STATUS_PF1_DENIED || pf1Denied ag (directAddr (addr.toNat / 4)) s) ∧
      t.hst.win = s.hst.win ∧ t.hst.mbox = s.hst.mbox ∧ t.hst.stage = s.hst.stage ∧ t.hst.woDone = s.hst.woDone ∧ t.hst.snap = s.hst.snap ∧
      Only [.hst] [Reg.HOST_INT_STATUS, Reg.HOST_ERR_ADDR] s t) ∧
  (∀ (s : State) (ag : Agent) (addr : BitVec 26), s.pwr.mainUp = true →
    Answers (.rcRead ag addr 0) s fun t => t.hst.completions = [(ag, 0)] ∧ t.hst.win = s.hst.win ∧ t.hst.snap = s.hst.snap ∧ Only [.hst, .tap] [] s t) ∧
  (∀ (s : State) (ag : Agent) (addr : BitVec 26) (d : Word), s.pwr.mainUp = true → noRegister (addr.toNat / 4) = true →
    Answers (.registerWrite ag addr 0xF d) s fun t =>
      t.flag F.HOST_INT_STATUS_UNMAPPED = true ∧ t.fld F.HOST_ERR_ADDR_OFFSET = addr.toNat / 4 * 4 ∧ t.fld F.HOST_ERR_ADDR_AGENT = errAgent ag ∧
      t.hst.win = s.hst.win ∧ t.hst.mbox = s.hst.mbox ∧ t.hst.stage = s.hst.stage ∧ t.hst.woDone = s.hst.woDone ∧ t.hst.snap = s.hst.snap ∧
      Only [.hst] [Reg.HOST_INT_STATUS, Reg.HOST_ERR_ADDR] s t) ∧
  (∀ (s : State) (ag : Agent) (addr : BitVec 26) (be : BitVec 4), s.pwr.mainUp = true → noRegister (addr.toNat / 4) = true → be ≠ 0 →
    Answers (.rcRead ag addr be) s fun t =>
      t.hst.completions = [(ag, 0)] ∧ t.flag F.HOST_INT_STATUS_UNMAPPED = true ∧ t.fld F.HOST_ERR_ADDR_OFFSET = addr.toNat / 4 * 4 ∧ t.fld F.HOST_ERR_ADDR_AGENT = errAgent ag ∧
      t.hst.win = s.hst.win ∧ t.hst.mbox = s.hst.mbox ∧ t.hst.stage = s.hst.stage ∧ t.hst.snap = s.hst.snap ∧
      Only [.hst, .tap] [Reg.HOST_INT_STATUS, Reg.HOST_ERR_ADDR] s t)

/-- R89: a write to `_HI` is held in the staging register of the writing agent and changes no counter; a write to `_LO` writes the staged high word and the new low word together and resets
the staging register to 0, so that a write of `_LO` alone sets the high word to 0. -/
def Obligations.CounterWritesAreStaged : Prop :=
  (∀ (s : State) (ag : Agent) (addr : BitVec 26) (d : Word), s.pwr.mainUp = true → addr.toNat < 2 ^ 24 →
      (regDef? (addr.toNat / 4)).isSome = true → isWinReg (addr.toNat / 4) = false → (regOf (addr.toNat / 4)).ctr = .hi → addr.toNat / 4 ≠ Reg.HRTH_FW_STATUS →
      pf1Denied ag (addr.toNat / 4) s = false →
    Answers (.counterHiWrite ag addr d) s fun t =>
      smapGet noStage t.hst.stage (agentIx ag) = d ∧
      (∀ a, a ≠ agentIx ag → smapGet noStage t.hst.stage a = smapGet noStage s.hst.stage a) ∧ Only [.hst] [] s t) ∧
  (∀ (s : State) (ag : Agent) (addr : BitVec 26) (d : Word), s.pwr.mainUp = true → addr.toNat < 2 ^ 24 →
      (regDef? (addr.toNat / 4)).isSome = true → isWinReg (addr.toNat / 4) = false → (regOf (addr.toNat / 4)).ctr = .lo → addr.toNat / 4 ≠ Reg.HRTH_FW_STATUS →
      pf1Denied ag (addr.toNat / 4) s = false →
    Answers (.counterLoWrite ag addr d) s fun t =>
      t.reg (addr.toNat / 4) = d ∧ t.reg (addr.toNat / 4 + 1) = smapGet noStage s.hst.stage (agentIx ag) ∧
      smapGet noStage t.hst.stage (agentIx ag) = 0 ∧
      (∀ a, a ≠ agentIx ag → smapGet noStage t.hst.stage a = smapGet noStage s.hst.stage a) ∧
      Only [.hst] [addr.toNat / 4, addr.toNat / 4 + 1] s t) ∧
  (∀ (s : State) (ag : Agent) (addr : BitVec 26) (d : Word), s.pwr.mainUp = true → addr.toNat < 2 ^ 24 →
      (regDef? (addr.toNat / 4)).isSome = true → isWinReg (addr.toNat / 4) = false → (regOf (addr.toNat / 4)).ctr = .lo → addr.toNat / 4 ≠ Reg.HRTH_FW_STATUS →
      pf1Denied ag (addr.toNat / 4) s = false → smapGet noStage s.hst.stage (agentIx ag) = 0 →
    Answers (.counterLoWrite ag addr d) s fun t => t.reg (addr.toNat / 4 + 1) = 0)

/-- R58: a PF1 write to a page whose block has a 0 in `HOST_PF1_WRITE_EN` is ignored and sets PF1_DENIED; so does every PF1 write to `HOST_PF1_WRITE_EN` itself; where the block's bit is 1 the
write goes through; a PF1 read of a register returns it whatever the bits are; and a write through window 1 is tested again for its target when the window applies it. -/
def Obligations.Pf1Writes : Prop :=
  (∀ (s : State) (addr : BitVec 26) (d : Word) (c : Nat), s.pwr.mainUp = true → addr.toNat < 2 ^ 24 →
      (regDef? (addr.toNat / 4)).isSome = true → isWinReg (addr.toNat / 4) = false → blockOfPage (addr.toNat / 4 / 1024) = some c →
      s.rbit Reg.HOST_PF1_WRITE_EN (c - 1) = false →
    Answers (.registerWrite .pf1 addr 0xF d) s fun t =>
      t.flag F.HOST_INT_STATUS_PF1_DENIED = true ∧ Only [.hst] [Reg.HOST_INT_STATUS] s t ∧ t.hst.win = s.hst.win ∧ t.hst.mbox = s.hst.mbox ∧
      t.hst.stage = s.hst.stage ∧ t.hst.woDone = s.hst.woDone ∧ t.hst.snap = s.hst.snap) ∧
  (∀ (s : State) (page : BitVec 12) (b : BitVec 11) (d : Word) (c : Nat), s.pwr.mainUp = true →
      (regDef? (page.toNat * 1024 + b.toNat / 32)).isSome = true → isWinReg (page.toNat * 1024 + b.toNat / 32) = false →
      blockOfPage page.toNat = some c → s.rbit Reg.HOST_PF1_WRITE_EN (c - 1) = false →
    Answers (.aliasWrite .pf1 page b d) s fun t =>
      t.flag F.HOST_INT_STATUS_PF1_DENIED = true ∧ Only [.hst] [Reg.HOST_INT_STATUS] s t ∧ t.hst.win = s.hst.win ∧ t.hst.mbox = s.hst.mbox ∧
      t.hst.stage = s.hst.stage ∧ t.hst.woDone = s.hst.woDone ∧ t.hst.snap = s.hst.snap) ∧
  (∀ (s : State) (d : Word), s.pwr.mainUp = true →
    Answers (.registerWrite .pf1 (BitVec.ofNat 26 (4 * Reg.HOST_PF1_WRITE_EN)) 0xF d) s fun t =>
      t.flag F.HOST_INT_STATUS_PF1_DENIED = true ∧ Only [.hst] [Reg.HOST_INT_STATUS] s t ∧ t.hst.win = s.hst.win ∧ t.hst.mbox = s.hst.mbox ∧
      t.hst.stage = s.hst.stage ∧ t.hst.woDone = s.hst.woDone ∧ t.hst.snap = s.hst.snap) ∧
  (∀ (s : State) (addr : BitVec 26) (d : Word) (c : Nat), s.pwr.mainUp = true → addr.toNat < 2 ^ 24 →
      (regDef? (addr.toNat / 4)).isSome = true → isWinReg (addr.toNat / 4) = false → blockOfPage (addr.toNat / 4 / 1024) = some c →
      s.rbit Reg.HOST_PF1_WRITE_EN (c - 1) = true → addr.toNat / 4 ≠ Reg.HOST_PF1_WRITE_EN → (regOf (addr.toNat / 4)).act = .none → (regOf (addr.toNat / 4)).norm = .none → (regOf (addr.toNat / 4)).ctr = .none →
      (regOf (addr.toNat / 4)).rwl = 0 → (regOf (addr.toNat / 4)).wo = 0 → addr.toNat / 4 ≠ Reg.HRTH_FW_STATUS → addr.toNat / 4 ≠ Reg.HOST_INT_STATUS →
    Answers (.registerWrite .pf1 addr 0xF d) s fun t =>
      t.reg (addr.toNat / 4) = (s.reg (addr.toNat / 4) &&& ~~~(regOf (addr.toNat / 4)).rw) ||| (d &&& (regOf (addr.toNat / 4)).rw) ∧
      t.flag F.HOST_INT_STATUS_PF1_DENIED = s.flag F.HOST_INT_STATUS_PF1_DENIED) ∧
  (∀ (s : State) (addr : BitVec 26), s.pwr.mainUp = true → addr.toNat < 2 ^ 24 →
      (regDef? (addr.toNat / 4)).isSome = true → isWinReg (addr.toNat / 4) = false → (regOf (addr.toNat / 4)).live = .none → ctrOf (addr.toNat / 4) (regOf (addr.toNat / 4)) = .none →
    Answers (.rcRead .pf1 addr 0xF) s fun t =>
      t.hst.completions = [(.pf1, s.reg (addr.toNat / 4))] ∧
      (addr.toNat / 4 ≠ Reg.HOST_INT_STATUS → t.flag F.HOST_INT_STATUS_PF1_DENIED = s.flag F.HOST_INT_STATUS_PF1_DENIED)) ∧
  (∀ (s : State) (d : Word) (rest : List WinEntry), s.pwr.mainUp = true → (s.win 1).fifo = .write .pf1 .data d :: rest → (s.win 1).taking = false → rest.head?.all isWrite = true →
      dirWrite s 1 = true → winFails s 1 = none → s.net.commit = 0 → s.fld (F.IND_ADDR_DOMAIN 1) ≠ 0 →
      s.rbit Reg.HOST_PF1_WRITE_EN (wordBlock (s.fld (F.IND_ADDR_DOMAIN 1)) (s.fld (F.IND_ADDR_WADDR 1)) - 1) = false →
    Answers (.indDataApply 1) s fun t =>
      t.flag F.HOST_INT_STATUS_PF1_DENIED = true ∧ (t.win 1).taking = false ∧ (t.win 1).fifo = rest ∧
      Only [.hst] [Reg.HOST_INT_STATUS, Reg.IND_DATA 1, Reg.IND_ADDR 1] s t) ∧
  (∀ (s : State) (d : Word) (rest : List WinEntry) (c : Nat), s.pwr.mainUp = true → (s.win 1).fifo = .write .pf1 .data d :: rest → (s.win 1).taking = false → rest.head?.all isWrite = true →
      dirWrite s 1 = true → winFails s 1 = none → s.net.commit = 0 → s.fld (F.IND_ADDR_DOMAIN 1) = 0 →
      blockOfPage (directAddr (s.fld (F.IND_ADDR_WADDR 1)) / 1024) = some c → s.rbit Reg.HOST_PF1_WRITE_EN (c - 1) = false →
    Answers (.indDataApply 1) s fun t =>
      t.flag F.HOST_INT_STATUS_PF1_DENIED = true ∧ (t.win 1).taking = false ∧ (t.win 1).fifo = rest ∧
      Only [.hst] [Reg.HOST_INT_STATUS, Reg.HOST_ERR_ADDR, Reg.IND_DATA 1, Reg.IND_ADDR 1] s t) ∧
  (∀ (s : State) (d : Word) (rest : List WinEntry), s.pwr.mainUp = true → (s.win 1).fifo = .write .pf1 .data d :: rest → (s.win 1).taking = false →
      dirWrite s 1 = true → winFails s 1 = none → s.net.commit = 0 → s.fld (F.IND_ADDR_DOMAIN 1) ≠ 0 →
      s.rbit Reg.HOST_PF1_WRITE_EN (wordBlock (s.fld (F.IND_ADDR_DOMAIN 1)) (s.fld (F.IND_ADDR_WADDR 1)) - 1) = true →
    Answers (.indDataApply 1) s fun t => (t.win 1).taking = true ∧ (t.win 1).fifo = rest ∧ Only [.hst] [Reg.IND_DATA 1] s t) ∧
  (∀ (s : State) (k : Fin 4) (ag : Agent) (d : Word) (rest : List WinEntry), k ≠ 1 → s.pwr.mainUp = true → (s.win k).fifo = .write ag .data d :: rest →
      (s.win k).taking = false → dirWrite s k = true → winFails s k = none → s.net.commit = 0 →
    Answers (.indDataApply k) s fun t => (t.win k).taking = true ∧ (t.win k).fifo = rest ∧ Only [.hst] [Reg.IND_DATA k] s t) ∧
  (∀ (s : State) (r : WinReg) (d : Word), s.pwr.mainUp = true → s.rbit Reg.HOST_PF1_WRITE_EN 1 = false →
    Answers (.indWrite .pf1 1 r d) s fun t =>
      t.flag F.HOST_INT_STATUS_PF1_DENIED = true ∧ t.hst.win = s.hst.win ∧ Only [.hst] [Reg.HOST_INT_STATUS] s t) ∧
  (∀ (s : State) (r : WinReg) (d : Word), s.pwr.mainUp = true → s.rbit Reg.HOST_PF1_WRITE_EN 1 = true → fifoLevel (s.win 1) < 16 →
    Answers (.indWrite .pf1 1 r d) s fun t => (t.win 1).fifo = (s.win 1).fifo ++ [.write .pf1 r d] ∧ Within [.hst] s t)

/-- The indirect windows (R76 to R85): a write of the owner enters the FIFO, a read keeps its place behind the writes before it and is served in its turn, and into a full one is dropped with OVERRUN; IND_ADDR and IND_CTRL are applied and a read is launched; a write
is taken by the target, a word of domain 0x01, a register, an alias bit or nothing at all in domain 0x00 (R582), a word of each further domain, and WADDR advances by the stride, wrapping at 2^24; the fetched word is returned, kept in IND_DATA and with a stride the next is launched; an access that
fails returns 0 with its flag; a bit of a sampled RC register that an event has set again since is not cleared; IND_STATUS is cleared by its read. Nothing of another window changes. The model's choices: log 13, and log 8 for the core that window 2 acts as. -/
def Obligations.WindowCommands : Prop :=
  (∀ (s : State) (ag : Agent) (r : WinReg) (d : Word), s.pwr.mainUp = true → pf1Denied ag (winRegAddr (winOf ag) r) s = false →
      fifoLevel (s.win (winOf ag)) < 16 →
    Answers (.indWrite ag (winOf ag) r d) s fun t =>
      (t.win (winOf ag)).fifo = (s.win (winOf ag)).fifo ++ [.write ag r d] ∧ (t.win (winOf ag)).launch = (s.win (winOf ag)).launch ∧
      (∀ j : Fin 4, j ≠ winOf ag → t.win j = s.win j) ∧ Within [.hst] s t) ∧
  (∀ (s : State) (ag : Agent) (r : WinReg) (d : Word), s.pwr.mainUp = true → pf1Denied ag (winRegAddr (winOf ag) r) s = false →
      16 ≤ fifoLevel (s.win (winOf ag)) →
    Answers (.indWrite ag (winOf ag) r d) s fun t =>
      t.flag (F.IND_STATUS_OVERRUN (winOf ag).val) = true ∧ t.flag (F.IND_STATUS_ERR (winOf ag).val) = true ∧ t.flag F.HOST_INT_STATUS_IND_ERR = true ∧
      (∀ j : Fin 4, t.win j = s.win j) ∧ Only [.hst] [Reg.IND_STATUS (winOf ag).val, Reg.HOST_INT_STATUS] s t) ∧
  (∀ (s : State) (k : Fin 4) (ag : Agent) (d : Word) (rest : List WinEntry), s.pwr.mainUp = true → (s.win k).fifo = .write ag .addr d :: rest → rest.head?.all isWrite = true →
      (s.win k).taking = false → s.flag (F.IND_CTRL_DIR k) = false → d.toNat / 2 ^ 24 = 1 → d.toNat % 2 ^ 24 < 0x42 →
    Answers (.indAddrApply k) s fun t =>
      t.reg (Reg.IND_ADDR k) = d ∧ (t.win k).fifo = rest ∧ (t.win k).launch = some ⟨1, d.toNat % 2 ^ 24, none, (0, 0), none⟩ ∧
      (∀ j : Fin 4, j ≠ k → t.win j = s.win j) ∧ Only [.hst] [Reg.IND_ADDR k] s t) ∧
  (∀ (s : State) (k : Fin 4) (ag : Agent) (d : Word) (rest : List WinEntry), s.pwr.mainUp = true → (s.win k).fifo = .write ag .addr d :: rest → rest.head?.all isWrite = true →
      (s.win k).taking = false → s.flag (F.IND_CTRL_DIR k) = false → 8 < d.toNat / 2 ^ 24 →
    Answers (.indAddrApply k) s fun t =>
      (t.win k).fifo = rest ∧ (t.win k).launch = some ⟨d.toNat / 2 ^ 24, d.toNat % 2 ^ 24, some 0, (0, 0), none⟩ ∧
      t.flag (F.IND_STATUS_BAD_DOMAIN k) = true ∧ t.flag (F.IND_STATUS_ERR k) = true ∧
      Only [.hst] [Reg.IND_ADDR k, Reg.IND_STATUS k, Reg.HOST_INT_STATUS] s t) ∧
  (∀ (s : State) (k : Fin 4) (ag : Agent) (d : Word) (rest : List WinEntry), s.pwr.mainUp = true → (s.win k).fifo = .write ag .ctrl d :: rest → rest.head?.all isWrite = true →
      (s.win k).taking = false →
    Answers (.indCtrlApply k) s fun t =>
      t.reg (Reg.IND_CTRL k) = (if d.toNat % 4 = 3 then d &&& 0x100 else d &&& 0x103) ∧ (t.win k).fifo = rest ∧
      (d.getLsbD 8 ≠ s.flag (F.IND_CTRL_DIR k) → (t.win k).launch = none) ∧
      (d.getLsbD 8 = s.flag (F.IND_CTRL_DIR k) → (t.win k).launch = (s.win k).launch) ∧ Only [.hst] [Reg.IND_CTRL k] s t) ∧
  (∀ (s : State) (k : Fin 4), s.pwr.mainUp = true → (s.win k).taking = true → (s.win k).fifo.head?.all isWrite = true →
      s.fld (F.IND_ADDR_DOMAIN k) = 1 → s.fld (F.IND_ADDR_WADDR k) = 0x41 →
    Answers (.indTargetTaken k) s fun t =>
      t.indw 1 0x41 = s.reg (Reg.IND_DATA k) ∧ (t.win k).taking = false ∧ t.fld (F.IND_ADDR_WADDR k) = 0x41 + strideOf s k ∧
      t.fld (F.IND_ADDR_DOMAIN k) = 1 ∧ IndKeep [(1, 0x41)] s t ∧ Only [.hst, .ind] [Reg.IND_ADDR k] s t) ∧
  (∀ (s : State) (k : Fin 4) (l : Launch), s.pwr.mainUp = true → (s.win k).launch = some l → l.word = none → l.domain = 1 → l.waddr < 0x42 →
      (s.win k).fifo.head?.all isWrite = true →
    Answers (.indReadReady k) s fun t =>
      (t.win k).launch = some { l with word := some (s.indw 1 l.waddr) } ∧ (∀ j : Fin 4, j ≠ k → t.win j = s.win j) ∧ Within [.hst] s t) ∧
  (∀ (s : State) (k : Fin 4) (ag : Agent) (same : Word) (l : Launch), s.pwr.mainUp = true → (s.win k).launch = some l → l.word = none → l.domain = 1 → l.waddr < 0x41 →
      (s.win k).fifo = [.read ag 1 same] → (s.win k).taking = false → s.fld (F.IND_CTRL_STRIDE k) = 0 →
    Answers (.indReadReady k) s fun t =>
      t.hst.completions = [(ag, s.indw 1 l.waddr)] ∧ t.reg (Reg.IND_DATA k) = s.indw 1 l.waddr ∧ (t.win k).fifo = [] ∧ (t.win k).launch = none ∧
      (∀ j : Fin 4, j ≠ k → t.win j = s.win j) ∧ Only [.hst, .tap] [Reg.IND_DATA k] s t) ∧
  (∀ (s : State) (ag : Agent) (again : Word), s.pwr.mainUp = true → (s.win (winOf ag)).fifo.head?.any isWrite = true →
    Answers (.indDataRead ag (winOf ag) again) s fun t =>
      t.hst.completions = s.hst.completions ∧ (t.win (winOf ag)).fifo = (s.win (winOf ag)).fifo ++ [.read ag 1 again] ∧
      (t.win (winOf ag)).launch = (s.win (winOf ag)).launch ∧ Only [.hst] [] s t) ∧
  (∀ (s : State) (ag : Agent) (again : Word) (l : Launch), s.pwr.mainUp = true → (s.win (winOf ag)).fifo = [] → (s.win (winOf ag)).taking = false →
      (s.win (winOf ag)).launch = some l → l.domain = 0 → l.waddr = Reg.PWR_INT_STATUS → l.word = some 0x1FF → l.sampled = some Reg.PWR_INT_STATUS → l.mark = (0, 0) →
      s.fld (F.IND_CTRL_STRIDE (winOf ag).val) = 0 →
    Answers (.indDataRead ag (winOf ag) again) s fun t =>
      t.hst.completions = [(ag, 0x1FF)] ∧
      t.reg Reg.PWR_INT_STATUS = s.reg Reg.PWR_INT_STATUS &&& ~~~(0x1FF &&& ~~~(again ||| s.againAt (winOf ag).val Reg.PWR_INT_STATUS)) ∧
      Only [.hst, .tap] [Reg.IND_DATA (winOf ag).val, Reg.PWR_INT_STATUS] s t) ∧
  (∀ (s : State) (ag : Agent) (again v : Word) (l : Launch), s.pwr.mainUp = true → (s.win (winOf ag)).fifo = [] → (s.win (winOf ag)).taking = false →
      (s.win (winOf ag)).launch = some l → l.word = some v → l.domain ≠ 0 → s.fld (F.IND_CTRL_STRIDE (winOf ag).val) = 0 →
    Answers (.indDataRead ag (winOf ag) again) s fun t =>
      t.hst.completions = [(ag, v)] ∧ t.reg (Reg.IND_DATA (winOf ag).val) = v ∧ (t.win (winOf ag)).launch = none ∧ (t.win (winOf ag)).fifo = [] ∧
      Only [.hst, .tap] [Reg.IND_DATA (winOf ag).val] s t) ∧
  (∀ (s : State) (ag : Agent) (again v : Word) (l : Launch), s.pwr.mainUp = true → (s.win (winOf ag)).fifo = [] → (s.win (winOf ag)).taking = false →
      (s.win (winOf ag)).launch = some l → l.word = some v → l.domain ≠ 0 → s.fld (F.IND_CTRL_STRIDE (winOf ag).val) = 1 →
      s.fld (F.IND_ADDR_DOMAIN (winOf ag).val) = 1 → s.fld (F.IND_ADDR_WADDR (winOf ag).val) < 0x41 →
    Answers (.indDataRead ag (winOf ag) again) s fun t =>
      t.hst.completions = [(ag, v)] ∧ t.reg (Reg.IND_DATA (winOf ag).val) = v ∧
      t.fld (F.IND_ADDR_WADDR (winOf ag).val) = s.fld (F.IND_ADDR_WADDR (winOf ag).val) + 1 ∧
      (t.win (winOf ag)).launch = some ⟨1, s.fld (F.IND_ADDR_WADDR (winOf ag).val) + 1, none, (0, 0), none⟩ ∧
      Only [.hst, .tap] [Reg.IND_DATA (winOf ag).val, Reg.IND_ADDR (winOf ag).val] s t) ∧
  (∀ (s : State) (ag : Agent), s.pwr.mainUp = true → (s.win (winOf ag)).fifo = [] → (s.win (winOf ag)).taking = false →
    Answers (.indStatusRead ag (winOf ag)) s fun t =>
      t.hst.completions.map (fun x => (x.1, x.2 &&& 0x3E)) = [(ag, s.reg (Reg.IND_STATUS (winOf ag).val) &&& 0x3E)] ∧
      t.reg (Reg.IND_STATUS (winOf ag).val) = s.reg (Reg.IND_STATUS (winOf ag).val) &&& ~~~0x3E ∧
      Only [.hst, .tap] [Reg.IND_STATUS (winOf ag).val] s t) ∧
  (∀ (s : State) (k : Fin 4), s.pwr.mainUp = true → (s.win k).taking = true → (s.win k).fifo.head?.all isWrite = true →
    Answers (.indTimeout k) s fun t =>
      t.flag (F.IND_STATUS_TIMEOUT k) = true ∧ t.flag (F.IND_STATUS_ERR k) = true ∧ t.flag F.HOST_INT_STATUS_IND_ERR = true ∧ (t.win k).taking = false ∧
      t.fld (F.IND_ADDR_WADDR k) = (s.fld (F.IND_ADDR_WADDR k) + strideOf s k) % 2 ^ 24 ∧
      Only [.hst] [Reg.IND_STATUS k, Reg.HOST_INT_STATUS, Reg.IND_ADDR k] s t) ∧
  (∀ (s : State) (k : Fin 4) (l : Launch), s.pwr.mainUp = true → (s.win k).taking = false → (s.win k).launch = some l → l.word = none →
      (s.win k).fifo.head?.all isWrite = true →
    Answers (.indTimeout k) s fun t =>
      t.flag (F.IND_STATUS_TIMEOUT k) = true ∧ (t.win k).launch = some { l with word := some 0 } ∧
      Only [.hst] [Reg.IND_STATUS k, Reg.HOST_INT_STATUS] s t) ∧
  (∀ (s : State) (k : Fin 4), s.pwr.mainUp = true → (s.win k).taking = true → (s.win k).fifo.head?.all isWrite = true → s.fld (F.IND_ADDR_DOMAIN k) = 0 →
      s.fld (F.IND_ADDR_WADDR k) < 2 ^ 22 → (regDef? (s.fld (F.IND_ADDR_WADDR k))).isSome = true → isWinReg (s.fld (F.IND_ADDR_WADDR k)) = false → (regOf (s.fld (F.IND_ADDR_WADDR k))).act = .none → (regOf (s.fld (F.IND_ADDR_WADDR k))).norm = .none → (regOf (s.fld (F.IND_ADDR_WADDR k))).ctr = .none →
      (regOf (s.fld (F.IND_ADDR_WADDR k))).rwl = 0 → (regOf (s.fld (F.IND_ADDR_WADDR k))).wo = 0 → s.fld (F.IND_ADDR_WADDR k) ≠ Reg.HRTH_FW_STATUS →
    Answers (.indTargetTaken k) s fun t =>
      (t.win k).taking = false ∧ t.fld (F.IND_ADDR_WADDR k) = (s.fld (F.IND_ADDR_WADDR k) + strideOf s k) % 2 ^ 24 ∧ t.reg (s.fld (F.IND_ADDR_WADDR k)) = (s.reg (s.fld (F.IND_ADDR_WADDR k)) &&& ~~~(regOf (s.fld (F.IND_ADDR_WADDR k))).rw) ||| (s.reg (Reg.IND_DATA k) &&& (regOf (s.fld (F.IND_ADDR_WADDR k))).rw) ∧
      (∀ j : Fin 4, j ≠ k → t.win j = s.win j) ∧ Only [.hst] [s.fld (F.IND_ADDR_WADDR k), Reg.IND_ADDR k] s t) ∧
  (∀ (s : State) (k : Fin 4), s.pwr.mainUp = true → (s.win k).taking = true → (s.win k).fifo.head?.all isWrite = true → s.fld (F.IND_ADDR_DOMAIN k) = 0 →
      2 ^ 22 ≤ s.fld (F.IND_ADDR_WADDR k) → s.fld (F.IND_ADDR_WADDR k) < 0xC00000 → (regDef? (directAddr (s.fld (F.IND_ADDR_WADDR k)))).isSome = true → isWinReg (directAddr (s.fld (F.IND_ADDR_WADDR k))) = false → (regOf (directAddr (s.fld (F.IND_ADDR_WADDR k)))).act = .none → (regOf (directAddr (s.fld (F.IND_ADDR_WADDR k)))).norm = .none → (regOf (directAddr (s.fld (F.IND_ADDR_WADDR k)))).ctr = .none →
      (regOf (directAddr (s.fld (F.IND_ADDR_WADDR k)))).rwl = 0 → (regOf (directAddr (s.fld (F.IND_ADDR_WADDR k)))).wo = 0 → (directAddr (s.fld (F.IND_ADDR_WADDR k))) ≠ Reg.HRTH_FW_STATUS → (regOf (directAddr (s.fld (F.IND_ADDR_WADDR k)))).rw.getLsbD (s.fld (F.IND_ADDR_WADDR k) % 32) = true →
    Answers (.indTargetTaken k) s fun t =>
      (t.win k).taking = false ∧ t.fld (F.IND_ADDR_WADDR k) = (s.fld (F.IND_ADDR_WADDR k) + strideOf s k) % 2 ^ 24 ∧ t.reg (directAddr (s.fld (F.IND_ADDR_WADDR k))) = putBits (s.reg (directAddr (s.fld (F.IND_ADDR_WADDR k)))) (s.fld (F.IND_ADDR_WADDR k) % 32) 1 (if (s.reg (Reg.IND_DATA k)).getLsbD 0 then 1 else 0) ∧
      (∀ j : Fin 4, j ≠ k → t.win j = s.win j) ∧ Only [.hst] [(directAddr (s.fld (F.IND_ADDR_WADDR k))), Reg.IND_ADDR k] s t) ∧
  (∀ (s : State) (k : Fin 4), s.pwr.mainUp = true → (s.win k).taking = true → (s.win k).fifo.head?.all isWrite = true → s.fld (F.IND_ADDR_DOMAIN k) = 0 → noRegister (s.fld (F.IND_ADDR_WADDR k)) = true →
    Answers (.indTargetTaken k) s fun t =>
      (t.win k).taking = false ∧ t.fld (F.IND_ADDR_WADDR k) = (s.fld (F.IND_ADDR_WADDR k) + strideOf s k) % 2 ^ 24 ∧ t.flag F.HOST_INT_STATUS_UNMAPPED = true ∧ t.fld F.HOST_ERR_ADDR_OFFSET = 4 * s.fld (F.IND_ADDR_WADDR k) ∧ t.fld F.HOST_ERR_ADDR_AGENT = k.val ∧
      t.reg (Reg.IND_STATUS k) = s.reg (Reg.IND_STATUS k) ∧
      (∀ j : Fin 4, j ≠ k → t.win j = s.win j) ∧ Only [.hst] [Reg.HOST_INT_STATUS, Reg.HOST_ERR_ADDR, Reg.IND_ADDR k] s t) ∧
  (∀ (s : State) (k : Fin 4) (n : Nat), s.pwr.mainUp = true → (s.win k).taking = true → (s.win k).fifo.head?.all isWrite = true → s.fld (F.IND_ADDR_DOMAIN k) = 2 → s.fld (F.IND_ADDR_WADDR k) = 32 * n + 8 → n < 768 →
    Answers (.indTargetTaken k) s fun t =>
      (t.win k).taking = false ∧ t.fld (F.IND_ADDR_WADDR k) = (s.fld (F.IND_ADDR_WADDR k) + strideOf s k) % 2 ^ 24 ∧ t.indw 2 (32 * n + 8) = (if s.locked (0x100 + n / 4) then s.indw 2 (32 * n + 8) else s.reg (Reg.IND_DATA k) &&& 0xFFFFFF) ||| (s.indw 2 (32 * n + 8) &&& 0xFF000000) ∧
      (s.locked (0x100 + n / 4) = true → (s.reg (Reg.IND_DATA k) ^^^ s.indw 2 (32 * n + 8)) &&& 0xFFFFFF ≠ 0 → t.flag (lockViol (0x100 + n / 4)) = true) ∧
      IndKeep [(2, 32 * n + 8)] s t ∧ Only [.hst, .ind] [pageStatus (0x100 + n / 4), Reg.IND_ADDR k] s t) ∧
  (∀ (s : State) (k : Fin 4) (n : Nat), s.pwr.mainUp = true → (s.win k).taking = true → (s.win k).fifo.head?.all isWrite = true → s.fld (F.IND_ADDR_DOMAIN k) = 3 → s.fld (F.IND_ADDR_WADDR k) = 16 * n + 9 → n < 32 →
    Answers (.indTargetTaken k) s fun t =>
      (t.win k).taking = false ∧ t.fld (F.IND_ADDR_WADDR k) = (s.fld (F.IND_ADDR_WADDR k) + strideOf s k) % 2 ^ 24 ∧ t.indw 3 (16 * n + 9) = (if s.locked (0x1C0 + n) then s.indw 3 (16 * n + 9) else s.reg (Reg.IND_DATA k) &&& 0xFFFFFF) ||| (s.indw 3 (16 * n + 9) &&& 0xFF000000) ∧
      (s.locked (0x1C0 + n) = true → (s.reg (Reg.IND_DATA k) ^^^ s.indw 3 (16 * n + 9)) &&& 0xFFFFFF ≠ 0 → t.flag (lockViol (0x1C0 + n)) = true) ∧
      IndKeep [(3, 16 * n + 9)] s t ∧ Only [.hst, .ind] [pageStatus (0x1C0 + n), Reg.IND_ADDR k] s t) ∧
  (∀ (s : State) (k : Fin 4), s.pwr.mainUp = true → (s.win k).taking = true → (s.win k).fifo.head?.all isWrite = true → s.fld (F.IND_ADDR_DOMAIN k) = 4 → s.fld (F.IND_ADDR_WADDR k) / 0x1000 % 4 = 1 → cdBusy s (s.fld (F.IND_ADDR_WADDR k) / 0x4000) = false →
    Answers (.indTargetTaken k) s fun t =>
      (t.win k).taking = false ∧ t.fld (F.IND_ADDR_WADDR k) = (s.fld (F.IND_ADDR_WADDR k) + strideOf s k) % 2 ^ 24 ∧ t.indw 4 (metPhys s (s.fld (F.IND_ADDR_WADDR k))) = s.reg (Reg.IND_DATA k) &&& 0xFFFFF ∧
      IndKeep [(4, metPhys s (s.fld (F.IND_ADDR_WADDR k)))] s t ∧ Only [.hst, .ind] [Reg.IND_ADDR k] s t) ∧
  (∀ (s : State) (k : Fin 4), s.pwr.mainUp = true → (s.win k).taking = true → (s.win k).fifo.head?.all isWrite = true → s.fld (F.IND_ADDR_DOMAIN k) = 5 → s.fld (F.IND_ADDR_WADDR k) < 1024 → s.fld (F.IND_ADDR_WADDR k) % 16 = 4 → s.sky.stopped = false →
    Answers (.indTargetTaken k) s fun t =>
      (t.win k).taking = false ∧ t.fld (F.IND_ADDR_WADDR k) = (s.fld (F.IND_ADDR_WADDR k) + strideOf s k) % 2 ^ 24 ∧ t.indw 5 (s.fld (F.IND_ADDR_WADDR k)) = s.reg (Reg.IND_DATA k) ∧ IndKeep [(5, s.fld (F.IND_ADDR_WADDR k))] s t ∧ Only [.hst, .ind] [Reg.IND_ADDR k] s t) ∧
  (∀ (s : State) (k : Fin 4) (b n : Nat), s.pwr.mainUp = true → (s.win k).taking = true → (s.win k).fifo.head?.all isWrite = true → s.fld (F.IND_ADDR_DOMAIN k) = 6 → entryOf (s.fld (F.IND_ADDR_WADDR k)) = some (b, n) → s.fld (F.IND_ADDR_WADDR k) + 1 ≠ b + n → s.net.commit = 0 →
    Answers (.indTargetTaken k) s fun t =>
      (t.win k).taking = false ∧ t.fld (F.IND_ADDR_WADDR k) = (s.fld (F.IND_ADDR_WADDR k) + strideOf s k) % 2 ^ 24 ∧ (∃ l, smapGet noGather t.net.gather k = some (b, (s.fld (F.IND_ADDR_WADDR k), s.reg (Reg.IND_DATA k)) :: l) ∧
        (∀ x ∈ l, x.1 ≠ s.fld (F.IND_ADDR_WADDR k) ∧ ∃ m, smapGet noGather s.net.gather k = some (b, m) ∧ x ∈ m) ∧
        (∀ m, smapGet noGather s.net.gather k = some (b, m) → ∀ x ∈ m, x.1 ≠ s.fld (F.IND_ADDR_WADDR k) → x ∈ l)) ∧
      t.net = { s.net with gather := t.net.gather } ∧ Only [.hst, .net] [Reg.IND_ADDR k] s t) ∧
  (∀ (s : State) (k : Fin 4), s.pwr.mainUp = true → (s.win k).taking = true → (s.win k).fifo.head?.all isWrite = true → s.fld (F.IND_ADDR_DOMAIN k) = 7 → s.fld (F.IND_ADDR_WADDR k) < 0xCC00 → s.fld (F.IND_ADDR_WADDR k) % 8 = 1 →
    Answers (.indTargetTaken k) s fun t =>
      (t.win k).taking = false ∧ t.fld (F.IND_ADDR_WADDR k) = (s.fld (F.IND_ADDR_WADDR k) + strideOf s k) % 2 ^ 24 ∧ t.indw 7 (s.fld (F.IND_ADDR_WADDR k)) = s.reg (Reg.IND_DATA k) ∧ IndKeep [(7, s.fld (F.IND_ADDR_WADDR k))] s t ∧ Only [.hst, .ind] [Reg.IND_ADDR k] s t) ∧
  (∀ (s : State) (k : Fin 4), s.pwr.mainUp = true → (s.win k).taking = true → (s.win k).fifo.head?.all isWrite = true → s.fld (F.IND_ADDR_DOMAIN k) = 8 →
    Answers (.indTargetTaken k) s fun t =>
      (t.win k).taking = false ∧ t.fld (F.IND_ADDR_WADDR k) = (s.fld (F.IND_ADDR_WADDR k) + strideOf s k) % 2 ^ 24 ∧ Only [.hst] [Reg.IND_ADDR k] s t)

/-- The mailboxes (R99 to R107): a permitted sender's words are queued, the first with its identity in [31:24], and the claim is its own; one without its mask bit is denied, and meets the claim of another all the same; POST shows the message
and numbers it; ABORT drops an unposted one; the receiver takes word after word, and with the last, or by DISCARD, the queue is free again; ARRIVED and EMPTIED follow; a read of the
page's INT_STATUS clears the reader's side only. -/
def Obligations.MailboxCommands : Prop :=
  (∀ (s : State) (ag : Agent) (c : Fin 8) (q : Fin 2) (d : Word), s.pwr.mainUp = true → pf1Denied ag (Reg.MBOX_Q_WR (mboxNo c q)) s = false →
      maySend s ag (mboxNo c q) = true → (s.mbox (mboxNo c q)).posted = false → (s.mbox (mboxNo c q)).words.length < 16 →
      ((s.mbox (mboxNo c q)).owner = none ∨ (s.mbox (mboxNo c q)).owner = some (senderId ag)) →
    Answers (.mboxQWr ag c q d) s fun t =>
      (t.mbox (mboxNo c q)).words = (s.mbox (mboxNo c q)).words ++
        [if (s.mbox (mboxNo c q)).words = [] then putBits d 24 8 (senderId ag) else d] ∧
      (t.mbox (mboxNo c q)).owner = some (senderId ag) ∧ (t.mbox (mboxNo c q)).posted = false ∧
      (∀ j, j ≠ mboxNo c q → t.mbox j = s.mbox j) ∧ Only [.hst] [] s t) ∧
  (∀ (s : State) (ag : Agent) (c : Fin 8) (q : Fin 2) (d : Word), s.pwr.mainUp = true → pf1Denied ag (Reg.MBOX_Q_WR (mboxNo c q)) s = false →
      maySend s ag (mboxNo c q) = false →
    Answers (.mboxQWr ag c q d) s fun t =>
      t.flag (F.MBOX_INT_STATUS_SENDER_DENIED (c.val / 2)) = true ∧
      (claimedByOther s ag (mboxNo c q) = true → t.flag (F.MBOX_INT_STATUS_CLAIM_CONFLICT (c.val / 2)) = true) ∧ (∀ j, t.mbox j = s.mbox j) ∧ Only [.hst] [Reg.MBOX_INT_STATUS (c.val / 2)] s t) ∧
  (∀ (s : State) (ag : Agent) (c : Fin 8) (q : Fin 2) (x : Word), s.pwr.mainUp = true → pf1Denied ag (Reg.MBOX_Q_CMD (mboxNo c q)) s = false →
      maySend s ag (mboxNo c q) = true → (s.mbox (mboxNo c q)).posted = false → (s.mbox (mboxNo c q)).words ≠ [] →
      (s.mbox (mboxNo c q)).owner = some (senderId ag) →
    Answers (.post ag c q x) s fun t =>
      t.mbox (mboxNo c q) = { s.mbox (mboxNo c q) with posted := true, seq := (s.mbox (mboxNo c q)).seq + 1, arriving := (s.mbox (mboxNo c q)).arriving + 1 } ∧
      (∀ j, j ≠ mboxNo c q → t.mbox j = s.mbox j) ∧ Only [.hst] [] s t) ∧
  (∀ (s : State) (ag : Agent) (c : Fin 8) (q : Fin 2) (x : Word), s.pwr.mainUp = true → pf1Denied ag (Reg.MBOX_Q_CMD (mboxNo c q)) s = false →
      x &&& 3 = 0 → maySend s ag (mboxNo c q) = true → (s.mbox (mboxNo c q)).posted = false → (s.mbox (mboxNo c q)).owner = some (senderId ag) →
    Answers (.abort ag c q x) s fun t =>
      t.mbox (mboxNo c q) = { s.mbox (mboxNo c q) with words := [], owner := none } ∧
      (∀ j, j ≠ mboxNo c q → t.mbox j = s.mbox j) ∧ Only [.hst] [] s t) ∧
  (∀ (s : State) (ag : Agent) (c : Fin 8) (q : Fin 2) (x : Word), s.pwr.mainUp = true → pf1Denied ag (Reg.MBOX_Q_CMD (mboxNo c q)) s = false →
      x &&& 1 = 0 → mayReceive ag (mboxNo c q) = true → (s.mbox (mboxNo c q)).posted = true →
    Answers (.discard ag c q x) s fun t =>
      t.mbox (mboxNo c q) = { s.mbox (mboxNo c q) with words := [], posted := false, owner := none, emptying := (s.mbox (mboxNo c q)).emptying + 1 } ∧
      (∀ j, j ≠ mboxNo c q → t.mbox j = s.mbox j) ∧ Only [.hst] [] s t) ∧
  (∀ (s : State) (ag : Agent) (c : Fin 8) (q : Fin 2) (w v : Word) (ws : List Word), s.pwr.mainUp = true → mayReceive ag (mboxNo c q) = true →
      (s.mbox (mboxNo c q)).posted = true → (s.mbox (mboxNo c q)).words = w :: v :: ws →
    Answers (.mboxQRd ag c q) s fun t =>
      t.hst.completions = [(ag, w)] ∧ t.mbox (mboxNo c q) = { s.mbox (mboxNo c q) with words := v :: ws } ∧
      (∀ j, j ≠ mboxNo c q → t.mbox j = s.mbox j) ∧ Only [.hst, .tap] [] s t) ∧
  (∀ (s : State) (ag : Agent) (c : Fin 8) (q : Fin 2) (w : Word), s.pwr.mainUp = true → mayReceive ag (mboxNo c q) = true →
      (s.mbox (mboxNo c q)).posted = true → (s.mbox (mboxNo c q)).words = [w] →
    Answers (.mboxQRd ag c q) s fun t =>
      t.hst.completions = [(ag, w)] ∧
      t.mbox (mboxNo c q) = { s.mbox (mboxNo c q) with words := [], posted := false, owner := none, emptying := (s.mbox (mboxNo c q)).emptying + 1 } ∧
      (∀ j, j ≠ mboxNo c q → t.mbox j = s.mbox j) ∧ Only [.hst, .tap] [] s t) ∧
  (∀ (s : State) (c : Fin 8) (q : Fin 2), s.pwr.mainUp = true → (s.mbox (mboxNo c q)).arriving ≠ 0 →
    Answers (.mboxArrived c q) s fun t =>
      t.flag ⟨Reg.MBOX_INT_STATUS (c.val / 2), 4 * (c.val % 2) + 2 * q.val, 1⟩ = true ∧
      t.mbox (mboxNo c q) = { s.mbox (mboxNo c q) with arriving := (s.mbox (mboxNo c q)).arriving - 1 } ∧ Only [.hst] [Reg.MBOX_INT_STATUS (c.val / 2)] s t) ∧
  (∀ (s : State) (c : Fin 8) (q : Fin 2), s.pwr.mainUp = true → (s.mbox (mboxNo c q)).emptying ≠ 0 →
    Answers (.mboxEmptied c q) s fun t =>
      t.flag ⟨Reg.MBOX_INT_STATUS (c.val / 2), 4 * (c.val % 2) + 2 * q.val + 1, 1⟩ = true ∧
      t.mbox (mboxNo c q) = { s.mbox (mboxNo c q) with emptying := (s.mbox (mboxNo c q)).emptying - 1 } ∧ Only [.hst] [Reg.MBOX_INT_STATUS (c.val / 2)] s t) ∧
  (∀ (s : State) (ag : Agent) (n : Fin 4), s.pwr.mainUp = true →
    Answers (.mboxIntStatusRead ag n) s fun t =>
      t.hst.completions = [(ag, s.reg (Reg.MBOX_INT_STATUS n))] ∧
      t.reg (Reg.MBOX_INT_STATUS n) = s.reg (Reg.MBOX_INT_STATUS n) &&& ~~~(if (hearthCore ag).isSome then 0xF99 else 0xF66) ∧
      Only [.hst, .tap] [Reg.MBOX_INT_STATUS n] s t)

/-- Interrupts (R92 to R96): a pending page of a block whose route goes to INT_N pulls it low, and one routed to Hearth raises its line; a vector that is asserted and was not sends its table entry's message,
or waits in the PBA while masked and is sent when unmasked; EOI sends an asserted vector's message again; MSI-X and bus-master enables are set and cleared. PCIE_PERST_N resets the HOST page but for windows
2 and 3, the MSI-X state and windows 0 and 1, and leaves the mailboxes (R60, R108); link training is noted until then (R579). -/
def Obligations.InterruptCommands : Prop :=
  (∀ s : State, s.pwr.mainUp = true →
    Answers .interruptLineUpdate s fun t =>
      t.hst = { s.hst with intN := !intLow s, hearthLines := hearthIrq s } ∧
      (∀ i p, i < 22 → i ≠ 3 → p ∈ pendingPages s → blockOfPage p = some (i + 1) → s.rbit (Reg.IRQ_ROUTE i) 16 = true →
        (bits (s.reg (Reg.IRQ_ROUTE i)) 8 2 = 2 → t.hst.intN = false) ∧
        (bits (s.reg (Reg.IRQ_ROUTE i)) 8 2 = 3 → t.hst.hearthLines.getLsbD i = true)) ∧ Within [.hst] s t) ∧
  (∀ (s : State) (f : Fin 2) (v : Fin 64), s.pwr.mainUp = true → msixOn s f = true → vecAsserted s f v = true →
      (s.msix f).asserted.getLsbD v = false → vecMasked s f v = false →
    Answers (.msixMessage f v) s fun t =>
      (t.msix f).sent = (s.msix f).sent + 1 ∧ (t.msix f).asserted.getLsbD v = true ∧ (t.msix f).pba.getLsbD v = false ∧
      (t.msix f).lastMsg = some (v.val, [smapGet (fun _ => 0) (s.msix f).table (4 * v), smapGet (fun _ => 0) (s.msix f).table (4 * v + 1),
        smapGet (fun _ => 0) (s.msix f).table (4 * v + 2)]) ∧ Within [.hst] s t) ∧
  (∀ (s : State) (f : Fin 2) (v : Fin 64), s.pwr.mainUp = true → msixOn s f = true → vecAsserted s f v = true →
      (s.msix f).asserted.getLsbD v = false → vecMasked s f v = true →
    Answers (.msixMessage f v) s fun t =>
      (t.msix f).sent = (s.msix f).sent ∧ (t.msix f).asserted.getLsbD v = true ∧ (t.msix f).pba.getLsbD v = true ∧ Within [.hst] s t) ∧
  (∀ (s : State) (f : Fin 2) (v : Fin 64), s.pwr.mainUp = true → msixOn s f = true → (s.msix f).fnMask = false →
    Answers (.msixUnmask f (some v)) s fun t =>
      (t.msix f).masked.getLsbD v = false ∧ (t.msix f).pba.getLsbD v = false ∧
      ((s.msix f).pba.getLsbD v = true → (s.msix f).asserted.getLsbD v = true → vecAsserted s f v = true → (s.msix f).sent < (t.msix f).sent) ∧
      Within [.hst] s t) ∧
  (∀ (s : State) (f : Fin 2), s.pwr.mainUp = true → s.tlm.held = [] → s.tlm.waiting = [] →
    Answers (.msixEnable f) s fun t => (t.msix f).enable = true ∧ (t.msix f).busMaster = true ∧ Within [.hst] s t) ∧
  (∀ (s : State) (f : Fin 2) (w : MsixWhat), s.pwr.mainUp = true →
    Answers (.msixMask f w) s fun t =>
      (∀ v, w = .vector v → (t.msix f).masked = (s.msix f).masked ||| BitVec.ofNat 64 (2 ^ v.val)) ∧ (w = .function → (t.msix f).fnMask = true) ∧
      (w = .enable → (t.msix f).enable = false) ∧ (w = .busMaster → (t.msix f).busMaster = false) ∧
      (t.msix f).sent = (s.msix f).sent ∧ Within [.hst] s t) ∧
  (∀ (s : State) (ag : Agent) (f : Fin 2) (v : Fin 64), s.pwr.mainUp = true → pf1Denied ag Reg.IRQ_EOI s = false → msixOn s f = true →
      vecAsserted s f v = true → (s.msix f).asserted.getLsbD v = true → vecMasked s f v = false →
    Answers (.irqEoi ag (BitVec.ofNat 32 (2 ^ 31 + 256 * f.val + v.val))) s fun t =>
      (t.msix f).sent = (s.msix f).sent + 1 ∧ (t.msix f).pba.getLsbD v = false ∧ Only [.hst] [Reg.IRQ_EOI] s t) ∧
  (∀ s : State, s.pwr.mainUp = true →
    Answers .pciePerst s fun t =>
      (∀ a, a / 1024 = 1 → (a < 0x428 ∨ 0x430 ≤ a) → t.reg a = regReset a) ∧
      (∀ a, (a / 1024 ≠ 1 ∨ (0x428 ≤ a ∧ a < 0x430)) → t.reg a = s.reg a) ∧
      (∀ f : Fin 2, t.msix f = {}) ∧ t.win 0 = {} ∧ t.win 1 = {} ∧ t.win 2 = s.win 2 ∧ t.win 3 = s.win 3 ∧ (∀ q, t.mbox q = s.mbox q) ∧
      t.hst.linkTraining = false ∧ Within [.regs, .hst] s t) ∧
  (∀ s : State, s.pwr.mainUp = true →
    Answers .linkTrainingStart s fun t => t.hst = { s.hst with linkTraining := true } ∧ Within [.hst] s t)

/-- The life of a data lane (R114, R125 to R128, R134, R135, R586): a rise of EN samples RATE and starts every adapted value at the midpoint of its bounds; the transmitter waits for its PLL; SIGNAL,
CDR_LOCK, the end of the coarse state with each value held within its bounds, ALIGNED with the SLIP; a loss clears its status, the alignment with it, and sets LOS and ALIGN_LOST; after it the CDR
lock resumes in tracking, or in the coarse state where ADAPT_RESTART was written since; a lane whose transmit PLL has not locked waits for it, and one whose RX pair board test holds sees no signal (R567); ADAPT_RESTART starts over from the midpoints; a fall of EN clears the status. Nothing of another lane changes. Which status bits a fall of EN clears (R114 names none) and what ADAPT_RESTART does during a loss are the model's choice (log 14). -/
def Obligations.DataLaneBringUp : Prop :=
  (∀ (s : State) (ag : Agent) (n : Fin 768) (d : Word), s.pwr.mainUp = true → pf1Denied ag (Reg.DLN_LANE_CTRL n) s = false →
      s.flag (F.DLN_LANE_CTRL_EN n) = false → s.fld (F.DLN_LANE_CTRL_LOOPBACK n) = bits d 4 2 →
    Answers (.dlnLaneEnable ag n d) s fun t =>
      t.reg (Reg.DLN_LANE_CTRL n) = (s.reg (Reg.DLN_LANE_CTRL n) &&& ~~~0x17F#32) ||| ((d ||| 1) &&& 0x17F#32) ∧
      (t.lane n).on = true ∧ (t.lane n).rate = bits d 1 1 ∧ (t.lane n).phase = 1 ∧ (t.lane n).frozen = false ∧ (t.lane n).lost = false ∧
      (t.lane n).wait = !s.pllLocked (n / 128) ∧
      (∀ i ∈ List.range 6, t.ifld 2 (n * 32 + 16 + i / 4) (8 * (i % 4)) 8 = toBits 8 ((boundMin s n i + boundMax s n i).tdiv 2)) ∧
      t.fld (F.DLN_LANE_STATUS_ADAPT_STATE n) = (if d.getLsbD 6 then 4 else 1) ∧
      LanesKeep n s t ∧ IndKeep [(2, n * 32 + 16), (2, n * 32 + 17)] s t ∧
      Touches [.ind, .lanes] [whole (Reg.DLN_LANE_CTRL n), F.DLN_LANE_STATUS_ADAPT_STATE n] s t) ∧
  (∀ (s : State) (ag : Agent) (n : Fin 768) (d : Word), s.pwr.mainUp = true → pf1Denied ag (Reg.DLN_LANE_CTRL n) s = false → s.flag (F.DLN_LANE_CTRL_EN n) = true →
    Answers (.laneDisable ag (.data n) d) s fun t =>
      (t.lane n).on = false ∧ (t.lane n).phase = 0 ∧ (t.lane n).frozen = false ∧ t.flag (F.DLN_LANE_CTRL_EN n) = false ∧
      t.flag (F.DLN_LANE_STATUS_SIGNAL n) = false ∧ t.flag (F.DLN_LANE_STATUS_CDR_LOCK n) = false ∧ t.flag (F.DLN_LANE_STATUS_ALIGNED n) = false ∧
      t.flag (F.DLN_LANE_STATUS_TX_READY n) = false ∧ t.flag (F.DLN_LANE_STATUS_PRBS_LOCKED n) = false ∧
      t.fld (F.DLN_LANE_STATUS_ADAPT_STATE n) = (if d.getLsbD 6 then 4 else 0) ∧
      LanesKeep n s t ∧ Only [.lanes] [Reg.DLN_LANE_CTRL n, Reg.DLN_LANE_STATUS n] s t) ∧
  (∀ (s : State) (n : Fin 768), s.pwr.mainUp = true → (s.lane n).on = true →
    Answers (.txReady n) s fun t =>
      t.flag (F.DLN_LANE_STATUS_TX_READY n) = (s.flag (F.DLN_LANE_STATUS_TX_READY n) || s.pllLocked (n / 128)) ∧
      Touches [] [F.DLN_LANE_STATUS_TX_READY n] s t) ∧
  (∀ (s : State) (l : LaneId), s.pwr.mainUp = true → (s.lane (laneIdx l)).on = true → (s.lane (laneIdx l)).wait = false → (boardTest s = false ∨ hearsSelf s l = true) →
    Answers (.signal l) s fun t => t.flag (sigFld l) = true ∧ Touches [] [sigFld l] s t) ∧
  (∀ (s : State) (l : LaneId), s.pwr.mainUp = true → boardTest s = true → hearsSelf s l = false →
    Answers (.signal l) s fun t => t = s) ∧
  (∀ (s : State) (l : LaneId), s.pwr.mainUp = true → (s.lane (laneIdx l)).wait = true →
    Answers (.signal l) s fun t => t = s) ∧
  (∀ (s : State) (l : LaneId), s.pwr.mainUp = true → (s.lane (laneIdx l)).on = true → s.flag (sigFld l) = true → (s.lane (laneIdx l)).lost = false →
    Answers (.cdrLock l) s fun t => t.flag (cdrFld l) = true ∧ Touches [] [cdrFld l] s t) ∧
  (∀ (s : State) (n : Fin 768), s.pwr.mainUp = true → (s.lane n).on = true → s.flag (F.DLN_LANE_STATUS_SIGNAL n) = true → (s.lane n).lost = true →
    Answers (.cdrLock (.data n)) s fun t =>
      t.flag (F.DLN_LANE_STATUS_CDR_LOCK n) = true ∧ t.lane n = { s.lane n with phase := if (s.lane n).restarted then (s.lane n).phase else 2, lost := false } ∧ LanesKeep n s t ∧
      Touches [.lanes] [F.DLN_LANE_STATUS_CDR_LOCK n, F.DLN_LANE_STATUS_ADAPT_STATE n] s t) ∧
  (∀ (s : State) (n : Fin 768) (v : Adapt), s.pwr.mainUp = true → (s.lane n).on = true → (s.lane n).phase = 1 → (s.lane n).frozen = false → (s.lane n).lost = false →
      s.flag (F.DLN_LANE_STATUS_CDR_LOCK n) = true → s.flag (F.DLN_LANE_CTRL_ADAPT_HOLD n) = false →
    Answers (.coarseDone n v) s fun t =>
      (t.lane n).phase = 2 ∧ t.fld (F.DLN_LANE_STATUS_ADAPT_STATE n) = 2 ∧
      (∀ i ∈ List.range 6, t.ifld 2 (n * 32 + 16 + i / 4) (8 * (i % 4)) 8 =
        toBits 8 (clampInt (boundMin s n i) (boundMax s n i) (nth 0 [v.ctle, v.vga, v.dfe1, v.fpre1, v.fpost1, v.fpost2] i))) ∧
      LanesKeep n s t ∧ IndKeep [(2, n * 32 + 16), (2, n * 32 + 17)] s t ∧
      Touches [.ind, .lanes] [F.DLN_LANE_STATUS_ADAPT_STATE n, dlnCause n 8] s t) ∧
  (∀ (s : State) (n : Fin 768) (slip : BitVec 6), s.pwr.mainUp = true → (s.lane n).on = true → (s.lane n).phase = 2 → (s.lane n).lost = false →
      s.flag (F.DLN_LANE_STATUS_CDR_LOCK n) = true →
    Answers (.aligned n slip) s fun t =>
      t.flag (F.DLN_LANE_STATUS_ALIGNED n) = true ∧ t.fld (F.DLN_LANE_STATUS_SLIP n) = slip.toNat ∧
      Touches [] [F.DLN_LANE_STATUS_ALIGNED n, F.DLN_LANE_STATUS_SLIP n] s t) ∧
  (∀ (s : State) (n : Fin 768) (cdr : Bool), s.pwr.mainUp = true →
      s.flag (if cdr then F.DLN_LANE_STATUS_CDR_LOCK n else F.DLN_LANE_STATUS_SIGNAL n) = true →
    Answers (.los (.data n) cdr) s fun t =>
      t.flag (if cdr then F.DLN_LANE_STATUS_CDR_LOCK n else F.DLN_LANE_STATUS_SIGNAL n) = false ∧ t.flag (F.DLN_LANE_STATUS_ALIGNED n) = false ∧
      t.flag (dlnCause n 0) = true ∧ t.flag (dlnCause n 4) = true ∧ t.lane n = { s.lane n with lost := true, restarted := false, acq := 0 } ∧ LanesKeep n s t ∧
      Touches [.lanes] [if cdr then F.DLN_LANE_STATUS_CDR_LOCK n else F.DLN_LANE_STATUS_SIGNAL n, F.DLN_LANE_STATUS_ALIGNED n, dlnCause n 0, dlnCause n 4] s t) ∧
  (∀ (s : State) (n : Fin 768), s.pwr.mainUp = true → (s.lane n).on = true →
    Answers (.alignLost n) s fun t =>
      t.flag (F.DLN_LANE_STATUS_ALIGNED n) = false ∧ t.flag (dlnCause n 4) = true ∧ Touches [] [F.DLN_LANE_STATUS_ALIGNED n, dlnCause n 4] s t) ∧
  (∀ (s : State) (ag : Agent) (n : Fin 768) (d : Word), s.pwr.mainUp = true → pf1Denied ag (Reg.DLN_LANE_CTRL n) s = false →
      s.flag (F.DLN_LANE_CTRL_EN n) = true → d.getLsbD 0 = true → s.fld (F.DLN_LANE_CTRL_LOOPBACK n) = bits d 4 2 →
    Answers (.adaptRestart ag n d) s fun t =>
      (t.lane n).phase = 1 ∧ (t.lane n).frozen = false ∧ (t.lane n).restarted = true ∧ (t.lane n).lost = (s.lane n).lost ∧ (t.lane n).rate = (s.lane n).rate ∧
      (∀ i ∈ List.range 6, t.ifld 2 (n * 32 + 16 + i / 4) (8 * (i % 4)) 8 = toBits 8 ((boundMin s n i + boundMax s n i).tdiv 2)) ∧
      LanesKeep n s t ∧ Touches [.ind, .lanes] [whole (Reg.DLN_LANE_CTRL n), F.DLN_LANE_STATUS_ADAPT_STATE n] s t) ∧
  (∀ (s : State) (ag : Agent) (n : Fin 768) (d : Word), s.pwr.mainUp = true → pf1Denied ag (Reg.DLN_LANE_CTRL n) s = false →
      s.flag (F.DLN_LANE_CTRL_EN n) = true → (s.lane n).on = true → d.getLsbD 0 = true → d.getLsbD 7 = false → s.fld (F.DLN_LANE_CTRL_LOOPBACK n) ≠ bits d 4 2 →
    Answers (.loopbackChange ag (.data n) d) s fun t =>
      t.fld (F.DLN_LANE_CTRL_LOOPBACK n) = bits d 4 2 ∧ t.fld (F.DLN_LANE_CTRL_RATE n) = bits d 1 1 ∧ (t.lane n).rate = (s.lane n).rate ∧
      t.flag (dlnCause n 4) = (s.flag (dlnCause n 4) || !(decide (s.fld (F.DLN_LANE_CTRL_LOOPBACK n) % 3 = 0) && decide (bits d 4 2 % 3 = 0))) ∧
      LanesKeep n s t ∧
      Touches [.lanes] [whole (Reg.DLN_LANE_CTRL n), F.DLN_LANE_STATUS_ALIGNED n, F.DLN_LANE_STATUS_ADAPT_STATE n, dlnCause n 4] s t)

/-- R131, with R130 and R132: a frozen lane's window below MIN resets RESUME_COUNT to 0; one at or above MIN increments it; at 256 the lane returns to the state that it froze in, its values as they
were, and applies updates again from the next window on. A window below MIN of a lane that is not frozen freezes it with FREEZE; after a loss the values are held (R127). ADAPT_HOLD shows state 4, and its release shows frozen again where the
count has yet to complete. An update whose value lies outside new bounds moves it to the nearer of them with ADAPT_CLAMP (R128). -/
def Obligations.LowDensityFreezesALane : Prop :=
  (∀ (s : State) (n : Fin 768) (c : Nat) (v : Adapt), s.pwr.mainUp = true → (s.lane n).on = true → s.flag (F.DLN_LANE_STATUS_CDR_LOCK n) = true →
      (s.lane n).frozen = true → min (c / 64) 255 < s.fld (F.DLN_ADAPT_ENTROPY_MIN_MIN (n / 4)) →
    Answers (.densityWindowEnd n c v) s fun t =>
      t.fld (F.DLN_DENSITY_RESUME_COUNT n) = 0 ∧ t.fld (F.DLN_DENSITY_LAST n) = min (c / 64) 255 ∧ t.lane n = s.lane n ∧
      Touches [] [F.DLN_DENSITY_RESUME_COUNT n, F.DLN_DENSITY_LAST n] s t) ∧
  (∀ (s : State) (n : Fin 768) (c : Nat) (v : Adapt), s.pwr.mainUp = true → (s.lane n).on = true → s.flag (F.DLN_LANE_STATUS_CDR_LOCK n) = true →
      (s.lane n).frozen = true → s.fld (F.DLN_ADAPT_ENTROPY_MIN_MIN (n / 4)) ≤ min (c / 64) 255 → s.fld (F.DLN_DENSITY_RESUME_COUNT n) + 1 < 256 →
    Answers (.densityWindowEnd n c v) s fun t =>
      t.fld (F.DLN_DENSITY_RESUME_COUNT n) = s.fld (F.DLN_DENSITY_RESUME_COUNT n) + 1 ∧ (t.lane n).frozen = true ∧
      Touches [] [F.DLN_DENSITY_RESUME_COUNT n, F.DLN_DENSITY_LAST n] s t) ∧
  (∀ (s : State) (n : Fin 768) (c : Nat) (v : Adapt), s.pwr.mainUp = true → (s.lane n).on = true → s.flag (F.DLN_LANE_STATUS_CDR_LOCK n) = true →
      (s.lane n).frozen = true → s.fld (F.DLN_ADAPT_ENTROPY_MIN_MIN (n / 4)) ≤ min (c / 64) 255 → s.fld (F.DLN_DENSITY_RESUME_COUNT n) + 1 = 256 →
    Answers (.densityWindowEnd n c v) s fun t =>
      t.fld (F.DLN_DENSITY_RESUME_COUNT n) = 256 ∧ (t.lane n).frozen = false ∧ (t.lane n).phase = (s.lane n).phase ∧
      t.fld (F.DLN_LANE_STATUS_ADAPT_STATE n) = (if s.flag (F.DLN_LANE_CTRL_ADAPT_HOLD n) then 4 else (s.lane n).phase % 8) ∧ LanesKeep n s t ∧
      Touches [.lanes] [F.DLN_DENSITY_RESUME_COUNT n, F.DLN_DENSITY_LAST n, F.DLN_LANE_STATUS_ADAPT_STATE n] s t) ∧
  (∀ (s : State) (n : Fin 768) (c : Nat) (v : Adapt), s.pwr.mainUp = true → (s.lane n).on = true → s.flag (F.DLN_LANE_STATUS_CDR_LOCK n) = true →
      (s.lane n).frozen = false → (s.lane n).phase = 2 → (s.lane n).lost = false → s.flag (F.DLN_LANE_CTRL_ADAPT_HOLD n) = false →
      s.fld (F.DLN_ADAPT_ENTROPY_MIN_MIN (n / 4)) ≤ min (c / 64) 255 →
    Answers (.densityWindowEnd n c v) s fun t =>
      (∀ i ∈ List.range 6, t.ifld 2 (n * 32 + 16 + i / 4) (8 * (i % 4)) 8 =
        toBits 8 (clampInt (boundMin s n i) (boundMax s n i) (if boundMin s n i ≤ liveVal s n i ∧ liveVal s n i ≤ boundMax s n i then
          nth 0 [v.ctle, v.vga, v.dfe1, v.fpre1, v.fpost1, v.fpost2] i else liveVal s n i))) ∧
      (∀ i ∈ List.range 6, boundMin s n i ≤ boundMax s n i → (liveVal s n i < boundMin s n i ∨ boundMax s n i < liveVal s n i) → t.flag (dlnCause n 8) = true) ∧
      LanesKeep n s t ∧ IndKeep [(2, n * 32 + 16), (2, n * 32 + 17)] s t ∧
      Touches [.ind, .lanes] [F.DLN_DENSITY_LAST n, dlnCause n 8] s t) ∧
  (∀ (s : State) (n : Fin 768) (c : Nat) (v : Adapt), s.pwr.mainUp = true → (s.lane n).on = true → s.flag (F.DLN_LANE_STATUS_CDR_LOCK n) = true →
      (s.lane n).frozen = false → (s.lane n).lost = true → s.fld (F.DLN_ADAPT_ENTROPY_MIN_MIN (n / 4)) ≤ min (c / 64) 255 →
    Answers (.densityWindowEnd n c v) s fun t =>
      t.ind = s.ind ∧ t.lanes = s.lanes ∧ Touches [] [F.DLN_DENSITY_LAST n] s t) ∧
  (∀ (s : State) (n : Fin 768) (c : Nat) (v : Adapt), s.pwr.mainUp = true → (s.lane n).on = true → s.flag (F.DLN_LANE_STATUS_CDR_LOCK n) = true →
      (s.lane n).frozen = false → min (c / 64) 255 < s.fld (F.DLN_ADAPT_ENTROPY_MIN_MIN (n / 4)) →
    Answers (.densityWindowEnd n c v) s fun t =>
      t.lane n = { s.lane n with frozen := true } ∧ t.flag (dlnCause n 12) = true ∧ t.fld (F.DLN_DENSITY_RESUME_COUNT n) = 0 ∧
      t.fld (F.DLN_LANE_STATUS_ADAPT_STATE n) = (if s.flag (F.DLN_LANE_CTRL_ADAPT_HOLD n) then 4 else 3) ∧ LanesKeep n s t ∧
      Touches [.lanes] [F.DLN_DENSITY_RESUME_COUNT n, F.DLN_DENSITY_LAST n, dlnCause n 12, F.DLN_LANE_STATUS_ADAPT_STATE n] s t) ∧
  (∀ (s : State) (ag : Agent) (n : Fin 768) (d : Word), s.pwr.mainUp = true → pf1Denied ag (Reg.DLN_LANE_CTRL n) s = false →
      s.flag (F.DLN_LANE_CTRL_EN n) = true → d.getLsbD 0 = true → d.getLsbD 7 = false → s.fld (F.DLN_LANE_CTRL_LOOPBACK n) = bits d 4 2 →
    Answers (.adaptHoldWrite ag n d) s fun t =>
      t.fld (F.DLN_LANE_STATUS_ADAPT_STATE n) = (if d.getLsbD 6 then 4 else if (s.lane n).frozen then 3 else (s.lane n).phase % 8) ∧
      t.lane n = s.lane n ∧ Touches [] [whole (Reg.DLN_LANE_CTRL n), F.DLN_LANE_STATUS_ADAPT_STATE n] s t)

/-- R121: a data lane stages word 0 and applies the whole preset when word 1 is written; an auxiliary lane applies word 0 when it is written; where the magnitudes of the taps sum to more than 128 the
lane keeps its preset and sets CFG_REJECT; a word reads back as last written. The next word boundary is at once: the model's choice, log 2. PF1's window writes only where it may. -/
def Obligations.PresetsApplyWhole : Prop :=
  (∀ (s : State) (k : Fin 4) (n : Fin 768) (d : Word), s.pwr.mainUp = true → (k = 1 → s.rbit Reg.HOST_PF1_WRITE_EN 6 = true) →
    Answers (.dlnPresetStage k n d) s fun t =>
      t.indw 2 (n * 32) = d ∧ t.lanes = s.lanes ∧ IndKeep [(2, n * 32)] s t ∧ Within [.ind] s t) ∧
  (∀ (s : State) (k : Fin 4) (n : Fin 768) (d : Word), s.pwr.mainUp = true → (k = 1 → s.rbit Reg.HOST_PF1_WRITE_EN 6 = true) →
      tapMag (bits (s.indw 2 (n * 32)) 0 8) + tapMag (bits (s.indw 2 (n * 32)) 8 8) + tapMag (bits (s.indw 2 (n * 32)) 16 8) +
        tapMag (bits (s.indw 2 (n * 32)) 24 8) + bits d 0 8 ≤ 128 →
    Answers (.dlnPresetApply k n d) s fun t =>
      t.lane n = { s.lane n with preset0 := s.indw 2 (n * 32), preset1 := d &&& 0xFF } ∧ t.indw 2 (n * 32 + 1) = d &&& 0xFF ∧
      LanesKeep n s t ∧ IndKeep [(2, n * 32 + 1)] s t ∧ Within [.ind, .lanes] s t) ∧
  (∀ (s : State) (k : Fin 4) (n : Fin 768) (d : Word), s.pwr.mainUp = true → (k = 1 → s.rbit Reg.HOST_PF1_WRITE_EN 6 = true) →
      128 < tapMag (bits (s.indw 2 (n * 32)) 0 8) + tapMag (bits (s.indw 2 (n * 32)) 8 8) + tapMag (bits (s.indw 2 (n * 32)) 16 8) +
        tapMag (bits (s.indw 2 (n * 32)) 24 8) + bits d 0 8 →
    Answers (.dlnPresetApply k n d) s fun t =>
      t.lanes = s.lanes ∧ t.indw 2 (n * 32 + 1) = d &&& 0xFF ∧ t.flag (dlnCause n 20) = true ∧
      IndKeep [(2, n * 32 + 1)] s t ∧ Touches [.ind] [dlnCause n 20] s t) ∧
  (∀ (s : State) (k : Fin 4) (m : Fin 32) (d : Word), s.pwr.mainUp = true → (k = 1 → s.rbit Reg.HOST_PF1_WRITE_EN 7 = true) →
      tapMag (bits d 0 8) + bits d 8 8 + tapMag (bits d 16 8) ≤ 128 →
    Answers (.alnPresetWrite k m d) s fun t =>
      t.lane (768 + m) = { s.lane (768 + m) with preset0 := d &&& 0xFFFFFF } ∧ t.indw 3 (m * 16) = d &&& 0xFFFFFF ∧
      LanesKeep (768 + m) s t ∧ IndKeep [(3, m * 16)] s t ∧ Within [.ind, .lanes] s t) ∧
  (∀ (s : State) (k : Fin 4) (m : Fin 32) (d : Word), s.pwr.mainUp = true → (k = 1 → s.rbit Reg.HOST_PF1_WRITE_EN 7 = true) →
      128 < tapMag (bits d 0 8) + bits d 8 8 + tapMag (bits d 16 8) →
    Answers (.alnPresetWrite k m d) s fun t =>
      t.lanes = s.lanes ∧ t.indw 3 (m * 16) = d &&& 0xFFFFFF ∧ t.flag (F.ALN_INT_STATUS_CFG_REJECT m) = true ∧
      IndKeep [(3, m * 16)] s t ∧ Touches [.ind] [F.ALN_INT_STATUS_CFG_REJECT m] s t) ∧
  (∀ (s : State) (n : Fin 768) (d : Word), s.pwr.mainUp = true → s.rbit Reg.HOST_PF1_WRITE_EN 6 = false →
    Answers (.dlnPresetApply 1 n d) s fun t => t.flag F.HOST_INT_STATUS_PF1_DENIED = true ∧ Touches [] [F.HOST_INT_STATUS_PF1_DENIED] s t)

/-- R122: for each of the two bound pairs of a written word, with CTLE's and VGA's values unsigned and the others' signed bytes: MIN at most MAX and both in the parameter's range stores the pair; else the
pair stays and CFG_REJECT sets. A fixed auxiliary setting outside its range is rejected in the same way. The range -64 to 63 of FPOST1 and FPOST2, for which
R119 gives none, is the model's choice (log 14). -/
def Obligations.BoundPairsAreChecked : Prop :=
  (∀ (s : State) (k : Fin 4) (n : Fin 768) (w : Fin 3) (d : Word), s.pwr.mainUp = true → (k = 1 → s.rbit Reg.HOST_PF1_WRITE_EN 6 = true) →
    Answers (.boundWrite k (.data n) w d) s fun t =>
      (∀ h ∈ ([0, 16] : List Nat), pairFits (2 * w + h / 16) (bits d h 8) (bits d (h + 8) 8) = true →
        t.ifld 2 (n * 32 + 2 + w) h 16 = bits d h 16) ∧
      (∀ h ∈ ([0, 16] : List Nat), pairFits (2 * w + h / 16) (bits d h 8) (bits d (h + 8) 8) = false →
        t.ifld 2 (n * 32 + 2 + w) h 16 = s.ifld 2 (n * 32 + 2 + w) h 16) ∧
      t.flag (dlnCause n 20) = (s.flag (dlnCause n 20) || !pairFits (2 * w) (bits d 0 8) (bits d 8 8) || !pairFits (2 * w + 1) (bits d 16 8) (bits d 24 8)) ∧
      IndKeep [(2, n * 32 + 2 + w)] s t ∧ Touches [.ind] [dlnCause n 20] s t) ∧
  (∀ (s : State) (k : Fin 4) (m : Fin 32) (w : Fin 3) (d : Word), s.pwr.mainUp = true → (k = 1 → s.rbit Reg.HOST_PF1_WRITE_EN 7 = true) →
    Answers (.boundWrite k (.aux m) w d) s fun t =>
      t.ifld 3 (m * 16 + 1) 0 8 = (if bits d 0 8 ≤ 15 then bits d 0 8 else s.ifld 3 (m * 16 + 1) 0 8) ∧
      t.ifld 3 (m * 16 + 1) 8 8 = (if bits d 8 8 ≤ 63 then bits d 8 8 else s.ifld 3 (m * 16 + 1) 8 8) ∧
      t.flag (F.ALN_INT_STATUS_CFG_REJECT m) = (s.flag (F.ALN_INT_STATUS_CFG_REJECT m) || decide (15 < bits d 0 8) || decide (63 < bits d 8 8)) ∧
      IndKeep [(3, m * 16 + 1)] s t ∧ Touches [.ind] [F.ALN_INT_STATUS_CFG_REJECT m] s t)

/-- Auxiliary lanes (R114, R138 to R142): a rise of EN samples MODE and RATE with negative disparity, but MODE 0 needs RATE 0; a K28.5 starts the search for synchronisation, gives the decoder its disparity, and three of them, each with a data character after it, bring
it about (log 9); synchronisation fixes the boundary and BIT_SLIP; a K28.5 off the boundary is counted; what is no valid group at the running disparity, and a K28.5 out of its place, counts against the synchronisation, which the fourth loses (log 9); a group of the wrong disparity counts one in ALN_DISP_ERR and one of neither in ALN_CODE_ERR; a loss of synchronisation, and RESYNC, clear SYNC; RX_INV inverts what is heard, and in MODE 2 the characters are in TST_RAW_RX, VALID where there is synchronisation; a fall of EN clears the status (log 14 names the bits). -/
def Obligations.AuxiliaryLanes : Prop :=
  (∀ (s : State) (ag : Agent) (m : Fin 32) (d : Word), s.pwr.mainUp = true → pf1Denied ag (Reg.ALN_CTRL m) s = false →
      s.flag (F.ALN_CTRL_EN m) = false → bits d 8 2 = s.fld (F.ALN_CTRL_LOOPBACK m) → d.getLsbD 12 = false → (bits d 4 2 ≠ 0 ∨ bits d 1 2 = 0) →
    Answers (.alnLaneEnable ag m d) s fun t =>
      (t.lane (768 + m)).on = true ∧ (t.lane (768 + m)).mode = min (bits d 4 2) 2 ∧ (t.lane (768 + m)).rate = bits d 1 2 ∧ (t.lane (768 + m)).txPlus = false ∧
      (bits d 4 2 < 3 → t.reg (Reg.ALN_CTRL m) = (s.reg (Reg.ALN_CTRL m) &&& ~~~0xFF7#32) ||| ((d ||| 1) &&& 0xFF7#32)) ∧
      (t.lane (768 + m)).wait = !s.pllLocked 6 ∧ LanesKeep (768 + m) s t ∧
      t.flag F.TWIN_INT_STATUS_LINK_CFG_REJECT = (s.flag F.TWIN_INT_STATUS_LINK_CFG_REJECT || (upto 3).any fun k => linkUsed t k && !linkFits t k) ∧
      Touches [.lanes] [whole (Reg.ALN_CTRL m), F.TWIN_INT_STATUS_LINK_CFG_REJECT, whole (Reg.TBASE_PORT_RXFIX (384 + m)), whole (Reg.TBASE_PORT_TXFIX (384 + m))] s t) ∧
  (∀ (s : State) (ag : Agent) (m : Fin 32) (d : Word), s.pwr.mainUp = true → pf1Denied ag (Reg.ALN_CTRL m) s = false →
      s.flag (F.ALN_CTRL_EN m) = false → bits d 8 2 = s.fld (F.ALN_CTRL_LOOPBACK m) → d.getLsbD 12 = false → bits d 4 2 = 0 → bits d 1 2 ≠ 0 →
    Answers (.alnLaneEnable ag m d) s fun t =>
      t.flag (F.ALN_INT_STATUS_CFG_REJECT m) = true ∧ t.lane (768 + m) = { s.lane (768 + m) with mode := 0 } ∧ LanesKeep (768 + m) s t ∧
      t.flag F.TWIN_INT_STATUS_LINK_CFG_REJECT = (s.flag F.TWIN_INT_STATUS_LINK_CFG_REJECT || (upto 3).any fun k => linkUsed t k && !linkFits t k) ∧
      Touches [.lanes] [whole (Reg.ALN_CTRL m), F.TWIN_INT_STATUS_LINK_CFG_REJECT, F.ALN_INT_STATUS_CFG_REJECT m, whole (Reg.TBASE_PORT_RXFIX (384 + m)), whole (Reg.TBASE_PORT_TXFIX (384 + m))] s t) ∧
  (∀ (s : State) (ag : Agent) (m : Fin 32) (d : Word), s.pwr.mainUp = true → pf1Denied ag (Reg.ALN_CTRL m) s = false → s.flag (F.ALN_CTRL_EN m) = true → d.getLsbD 12 = false →
    Answers (.laneDisable ag (.aux m) d) s fun t =>
      (t.lane (768 + m)).on = false ∧ t.flag (F.ALN_LANE_STATUS_SIGNAL m) = false ∧ t.flag (F.ALN_LANE_STATUS_CDR_LOCK m) = false ∧
      t.flag (F.ALN_LANE_STATUS_SYNC m) = false ∧ t.flag (F.ALN_LANE_STATUS_PRBS_LOCKED m) = false ∧ t.flag (F.ALN_LANE_STATUS_AN_COMPLETE m) = false ∧
      LanesKeep (768 + m) s t ∧
      Touches [.lanes] [whole (Reg.ALN_CTRL m), F.ALN_LANE_STATUS_SIGNAL m, F.ALN_LANE_STATUS_CDR_LOCK m, F.ALN_LANE_STATUS_SYNC m,
        F.ALN_LANE_STATUS_PRBS_LOCKED m, F.ALN_LANE_STATUS_AN_COMPLETE m] s t) ∧
  (∀ (s : State) (m : Fin 32) (b : Fin 20), s.pwr.mainUp = true → (s.lane (768 + m)).on = true → s.flag (F.ALN_LANE_STATUS_CDR_LOCK m) = true →
      s.flag (F.ALN_LANE_STATUS_SYNC m) = false → (s.lane (768 + m)).acq = 6 →
    Answers (.syncAcq m b) s fun t =>
      t.flag (F.ALN_LANE_STATUS_SYNC m) = true ∧ t.fld (F.ALN_LANE_STATUS_BIT_SLIP m) = b.val ∧
      t.flag (F.ALN_INT_STATUS_SYNC_ACQ m) = true ∧ t.lane (768 + m) = { s.lane (768 + m) with misplaced := false, badGroups := 0, goodGroups := 0, acq := 0 } ∧ LanesKeep (768 + m) s t ∧
      Touches [.lanes] [F.ALN_LANE_STATUS_SYNC m, F.ALN_LANE_STATUS_BIT_SLIP m, F.ALN_INT_STATUS_SYNC_ACQ m,
        whole (Reg.TBASE_PORT_RXFIX (384 + m)), whole (Reg.TBASE_PORT_TXFIX (384 + m))] s t) ∧
  (∀ (s : State) (m : Fin 32) (b : Fin 20), s.pwr.mainUp = true → (s.flag (F.ALN_LANE_STATUS_SYNC m) = true ∨ (s.lane (768 + m)).acq ≠ 6) →
    Answers (.syncAcq m b) s fun t => t = s) ∧
  (∀ (s : State) (m : Fin 32), s.pwr.mainUp = true → (s.lane (768 + m)).on = true → (s.lane (768 + m)).mode = 0 →
      s.flag (F.ALN_LANE_STATUS_SYNC m) = true → s.flag (F.ALN_CTRL_AN_EN m) = true →
    Answers (.anDone m) s fun t =>
      t.flag (F.ALN_LANE_STATUS_AN_COMPLETE m) = true ∧ t.flag (F.ALN_INT_STATUS_AN_DONE m) = true ∧
      Touches [] [F.ALN_LANE_STATUS_AN_COMPLETE m, F.ALN_INT_STATUS_AN_DONE m, whole (Reg.TBASE_PORT_RXFIX (384 + m)), whole (Reg.TBASE_PORT_TXFIX (384 + m))] s t) ∧
  (∀ (s : State) (m : Fin 32), s.pwr.mainUp = true → s.flag (F.ALN_LANE_STATUS_SYNC m) = true →
    Answers (.syncLost m) s fun t =>
      t.flag (F.ALN_LANE_STATUS_SYNC m) = false ∧ t.flag (F.ALN_LANE_STATUS_AN_COMPLETE m) = false ∧ t.flag (F.ALN_INT_STATUS_SYNC_LOST m) = true ∧
      Touches [] [F.ALN_LANE_STATUS_SYNC m, F.ALN_LANE_STATUS_AN_COMPLETE m, F.ALN_INT_STATUS_SYNC_LOST m] s t) ∧
  (∀ (s : State) (ag : Agent) (m : Fin 32) (d : Word), s.pwr.mainUp = true → pf1Denied ag (Reg.ALN_CTRL m) s = false → s.flag (F.ALN_CTRL_EN m) = d.getLsbD 0 → bits d 8 2 = s.fld (F.ALN_CTRL_LOOPBACK m) →
      s.flag (F.ALN_LANE_STATUS_SYNC m) = true →
    Answers (.resync ag m d) s fun t =>
      t.flag (F.ALN_LANE_STATUS_SYNC m) = false ∧ t.flag (F.ALN_INT_STATUS_SYNC_LOST m) = true ∧ t.lanes = s.lanes ∧
      Touches [] [whole (Reg.ALN_CTRL m), F.ALN_LANE_STATUS_SYNC m, F.ALN_LANE_STATUS_AN_COMPLETE m, F.ALN_INT_STATUS_SYNC_LOST m] s t) ∧
  (∀ (s : State) (m : Fin 32) (cdr : Bool), s.pwr.mainUp = true →
      s.flag (if cdr then F.ALN_LANE_STATUS_CDR_LOCK m else F.ALN_LANE_STATUS_SIGNAL m) = true →
    Answers (.los (.aux m) cdr) s fun t =>
      t.flag (if cdr then F.ALN_LANE_STATUS_CDR_LOCK m else F.ALN_LANE_STATUS_SIGNAL m) = false ∧ t.flag (F.ALN_INT_STATUS_LOS m) = true ∧
      t.flag (F.ALN_LANE_STATUS_SYNC m) = false ∧ t.flag (F.ALN_INT_STATUS_SYNC_LOST m) = (s.flag (F.ALN_INT_STATUS_SYNC_LOST m) || s.flag (F.ALN_LANE_STATUS_SYNC m)) ∧
      t.lane (768 + m) = { s.lane (768 + m) with lost := true, restarted := false, acq := 0 } ∧ LanesKeep (768 + m) s t ∧
      Touches [.lanes] [if cdr then F.ALN_LANE_STATUS_CDR_LOCK m else F.ALN_LANE_STATUS_SIGNAL m, F.ALN_INT_STATUS_LOS m,
        F.ALN_LANE_STATUS_SYNC m, F.ALN_LANE_STATUS_AN_COMPLETE m, F.ALN_INT_STATUS_SYNC_LOST m] s t) ∧
  (∀ (s : State) (m : Fin 32) (slot : Fin 2) (ch : Nat) (g : BitVec 10), s.pwr.mainUp = true → (s.lane (768 + m)).on = true → (s.lane (768 + m)).mode ≠ 2 →
      s.flag (F.ALN_LANE_STATUS_SYNC m) = true → (isK285 (rev10 (heardGroup m slot g s).toNat) = false ∨ slot = 0) →
      decodeAt (s.flag (F.ALN_LANE_STATUS_RD m)) (rev10 (heardGroup m slot g s).toNat) = some ch →
    Answers (.alnCodeGroupReceive m slot true g) s fun t =>
      t.flag (F.ALN_LANE_STATUS_RD m) = endPlus (rev10 (heardGroup m slot g s).toNat) (s.flag (F.ALN_LANE_STATUS_RD m)) ∧
      (t.lane (768 + m)).badGroups = (s.lane (768 + m)).badGroups - (if 3 ≤ (s.lane (768 + m)).goodGroups then 1 else 0) ∧
      LanesKeep (768 + m) s t ∧ Touches [.lanes] [F.ALN_LANE_STATUS_RD m] s t) ∧
  (∀ (s : State) (m : Fin 32) (slot : Fin 2) (ch : Nat) (g : BitVec 10), s.pwr.mainUp = true → (s.lane (768 + m)).on = true → (s.lane (768 + m)).mode ≠ 2 →
      s.flag (F.ALN_LANE_STATUS_SYNC m) = true → (isK285 (rev10 (heardGroup m slot g s).toNat) = false ∨ slot = 0) →
      decodeAt (s.flag (F.ALN_LANE_STATUS_RD m)) (rev10 (heardGroup m slot g s).toNat) = none → decodeAt (!s.flag (F.ALN_LANE_STATUS_RD m)) (rev10 (heardGroup m slot g s).toNat) = some ch →
    Answers (.alnCodeGroupReceive m slot true g) s fun t =>
      t.flag (F.ALN_LANE_STATUS_RD m) = endPlus (rev10 (heardGroup m slot g s).toNat) (!s.flag (F.ALN_LANE_STATUS_RD m)) ∧
      t.reg64 (Reg.ALN_DISP_ERR_LO m) (Reg.ALN_DISP_ERR_LO m + 1) = (s.reg64 (Reg.ALN_DISP_ERR_LO m) (Reg.ALN_DISP_ERR_LO m + 1) + 1) % 2 ^ 64 ∧
      ((s.lane (768 + m)).badGroups < 3 → t.flag (F.ALN_LANE_STATUS_SYNC m) = true ∧ (t.lane (768 + m)).badGroups = (s.lane (768 + m)).badGroups + 1) ∧
      (3 ≤ (s.lane (768 + m)).badGroups → t.flag (F.ALN_LANE_STATUS_SYNC m) = false ∧ t.flag (F.ALN_INT_STATUS_SYNC_LOST m) = true) ∧ LanesKeep (768 + m) s t ∧
      Touches [.lanes] [F.ALN_LANE_STATUS_RD m, whole (Reg.ALN_DISP_ERR_LO m), whole (Reg.ALN_DISP_ERR_LO m + 1), F.ALN_INT_STATUS_CNT_OVF m, F.ALN_LANE_STATUS_SYNC m, F.ALN_LANE_STATUS_AN_COMPLETE m, F.ALN_INT_STATUS_SYNC_LOST m] s t) ∧
  (∀ (s : State) (m : Fin 32) (slot : Fin 2) (g : BitVec 10), s.pwr.mainUp = true → (s.lane (768 + m)).on = true → (s.lane (768 + m)).mode ≠ 2 →
      s.flag (F.ALN_LANE_STATUS_SYNC m) = true →
      decodeAt (s.flag (F.ALN_LANE_STATUS_RD m)) (rev10 (heardGroup m slot g s).toNat) = none → decodeAt (!s.flag (F.ALN_LANE_STATUS_RD m)) (rev10 (heardGroup m slot g s).toNat) = none →
      isK285 (rev10 (heardGroup m slot g s).toNat) = false →
    Answers (.alnCodeGroupReceive m slot true g) s fun t =>
      t.reg64 (Reg.ALN_CODE_ERR_LO m) (Reg.ALN_CODE_ERR_LO m + 1) = (s.reg64 (Reg.ALN_CODE_ERR_LO m) (Reg.ALN_CODE_ERR_LO m + 1) + 1) % 2 ^ 64 ∧
      ((s.lane (768 + m)).badGroups < 3 → t.flag (F.ALN_LANE_STATUS_SYNC m) = true ∧ (t.lane (768 + m)).badGroups = (s.lane (768 + m)).badGroups + 1) ∧
      (3 ≤ (s.lane (768 + m)).badGroups → t.flag (F.ALN_LANE_STATUS_SYNC m) = false ∧ t.flag (F.ALN_INT_STATUS_SYNC_LOST m) = true) ∧ LanesKeep (768 + m) s t ∧
      Touches [.lanes] [whole (Reg.ALN_CODE_ERR_LO m), whole (Reg.ALN_CODE_ERR_LO m + 1), F.ALN_INT_STATUS_CNT_OVF m, F.ALN_LANE_STATUS_SYNC m, F.ALN_LANE_STATUS_AN_COMPLETE m, F.ALN_INT_STATUS_SYNC_LOST m] s t) ∧
  (∀ (s : State) (m : Fin 32) (slot : Fin 2) (g : BitVec 10), s.pwr.mainUp = true → (s.lane (768 + m)).on = true →
      s.flag (F.ALN_LANE_STATUS_SYNC m) = true → isK285 (rev10 (heardGroup m slot g s).toNat) = true → (s.lane (768 + m)).misplaced = false →
    Answers (.alnCodeGroupReceive m slot false g) s fun t =>
      t.reg (Reg.ALN_COMMA_MISPLACED m) = s.reg (Reg.ALN_COMMA_MISPLACED m) + 1 ∧ t.flag (F.ALN_INT_STATUS_COMMA_MISPLACED m) = true ∧
      (t.lane (768 + m)).misplaced = true ∧
      ((s.lane (768 + m)).badGroups < 3 → t.flag (F.ALN_LANE_STATUS_SYNC m) = true ∧ (t.lane (768 + m)).badGroups = (s.lane (768 + m)).badGroups + 1) ∧
      (3 ≤ (s.lane (768 + m)).badGroups → t.flag (F.ALN_LANE_STATUS_SYNC m) = false ∧ t.flag (F.ALN_INT_STATUS_SYNC_LOST m) = true) ∧ LanesKeep (768 + m) s t ∧
      Touches [.lanes] [whole (Reg.ALN_COMMA_MISPLACED m), F.ALN_INT_STATUS_COMMA_MISPLACED m, F.ALN_INT_STATUS_CNT_OVF m, F.ALN_LANE_STATUS_SYNC m, F.ALN_LANE_STATUS_AN_COMPLETE m, F.ALN_INT_STATUS_SYNC_LOST m] s t) ∧
  (∀ (s : State) (m : Fin 32) (ch : Nat) (g : BitVec 10), s.pwr.mainUp = true → (s.lane (768 + m)).on = true → (s.lane (768 + m)).mode = 2 →
      s.flag (F.ALN_LANE_STATUS_SYNC m) = true → decodeAt (s.flag (F.ALN_LANE_STATUS_RD m)) (rev10 (heardGroup m 0 g s).toNat) = some ch → ch < 512 →
    Answers (.alnCodeGroupReceive m 0 true g) s fun t =>
      t.fld ⟨Reg.TST_RAW_RX m, 0, 9⟩ = ch ∧ t.fld ⟨Reg.TST_RAW_RX m, 9, 1⟩ = 0 ∧ t.fld ⟨Reg.TST_RAW_RX m, 31, 1⟩ = 1 ∧ LanesKeep (768 + m) s t ∧
      Touches [.lanes] [F.ALN_LANE_STATUS_RD m, whole (Reg.TST_RAW_RX m)] s t) ∧
  (∀ (s : State) (m : Fin 32) (g : BitVec 10) (c : Nat), s.pwr.mainUp = true → (s.lane (768 + m)).on = true → s.flag (F.ALN_LANE_STATUS_SYNC m) = false →
      c = rev10 (heardGroup m 0 g s).toNat → isK285 c = true → (s.lane (768 + m)).acq = 0 → (s.lane (768 + m)).mode ≠ 2 →
    Answers (.alnCodeGroupReceive m 0 true g) s fun t =>
      t.lane (768 + m) = { s.lane (768 + m) with rxWords := ((heardGroup m 0 g s).setWidth 128 :: (s.lane (768 + m)).rxWords).take 32, acq := 1 } ∧
      t.flag (F.ALN_LANE_STATUS_RD m) = decide (c = 0b0011111010) ∧ LanesKeep (768 + m) s t ∧
      Touches [.lanes] [F.ALN_LANE_STATUS_RD m] s t) ∧
  (∀ (s : State) (m : Fin 32) (g : BitVec 10) (c ch : Nat), s.pwr.mainUp = true → (s.lane (768 + m)).on = true → s.flag (F.ALN_LANE_STATUS_SYNC m) = false →
      c = rev10 (heardGroup m 0 g s).toNat → (isK285 c = false ∨ (s.lane (768 + m)).acq ≠ 0) → (s.lane (768 + m)).mode ≠ 2 →
      decodeAt (s.flag (F.ALN_LANE_STATUS_RD m)) c = some ch →
    Answers (.alnCodeGroupReceive m 0 true g) s fun t =>
      t.flag (F.ALN_LANE_STATUS_RD m) = endPlus c (s.flag (F.ALN_LANE_STATUS_RD m)) ∧
      ((s.lane (768 + m)).acq ∈ ([1, 3, 5] : List Nat) → (t.lane (768 + m)).acq = if ch < 256 then (s.lane (768 + m)).acq + 1 else 0) ∧
      ((s.lane (768 + m)).acq ∈ ([2, 4] : List Nat) → (t.lane (768 + m)).acq = if isK285 c then (s.lane (768 + m)).acq + 1 else (s.lane (768 + m)).acq) ∧
      ((s.lane (768 + m)).acq ∈ ([0, 6] : List Nat) → (t.lane (768 + m)).acq = (s.lane (768 + m)).acq) ∧
      LanesKeep (768 + m) s t ∧ Touches [.lanes] [F.ALN_LANE_STATUS_RD m] s t) ∧
  (∀ (s : State) (m : Fin 32) (g : BitVec 10) (c : Nat), s.pwr.mainUp = true → (s.lane (768 + m)).on = true → s.flag (F.ALN_LANE_STATUS_SYNC m) = false →
      c = rev10 (heardGroup m 0 g s).toNat → isK285 c = false → (s.lane (768 + m)).mode ≠ 2 →
      decodeAt false c = none → decodeAt true c = none →
    Answers (.alnCodeGroupReceive m 0 true g) s fun t =>
      ((s.lane (768 + m)).acq < 6 → (t.lane (768 + m)).acq = 0) ∧
      t.reg64 (Reg.ALN_CODE_ERR_LO m) (Reg.ALN_CODE_ERR_LO m + 1) = (s.reg64 (Reg.ALN_CODE_ERR_LO m) (Reg.ALN_CODE_ERR_LO m + 1) + 1) % 2 ^ 64 ∧
      LanesKeep (768 + m) s t ∧ Touches [.lanes] [whole (Reg.ALN_CODE_ERR_LO m), whole (Reg.ALN_CODE_ERR_LO m + 1), F.ALN_INT_STATUS_CNT_OVF m] s t) ∧
  (∀ (s : State) (m : Fin 32) (ch : Nat) (g : BitVec 10), s.pwr.mainUp = true → (s.lane (768 + m)).on = true → (s.lane (768 + m)).mode = 2 →
      s.flag (F.ALN_LANE_STATUS_SYNC m) = false → isK285 (rev10 (heardGroup m 0 g s).toNat) = false → decodeAt (s.flag (F.ALN_LANE_STATUS_RD m)) (rev10 (heardGroup m 0 g s).toNat) = some ch → ch < 512 →
    Answers (.alnCodeGroupReceive m 0 true g) s fun t =>
      t.fld ⟨Reg.TST_RAW_RX m, 0, 9⟩ = ch ∧ t.fld ⟨Reg.TST_RAW_RX m, 9, 1⟩ = 0 ∧ t.fld ⟨Reg.TST_RAW_RX m, 31, 1⟩ = 0 ∧ LanesKeep (768 + m) s t ∧
      Touches [.lanes] [F.ALN_LANE_STATUS_RD m, whole (Reg.TST_RAW_RX m)] s t) ∧
  (∀ (s : State) (m : Fin 32) (slot : Fin 2) (g : BitVec 10), s.fld (F.ALN_CTRL_LOOPBACK m) = 0 →
      heardGroup m slot g s = if s.flag (F.ALN_CTRL_RX_INV m) then ~~~g else g)

/-- Lane test functions and transmit PLLs (R146 to R150, R586): 256 error-free words in a row lock a checker to its pattern, fewer do not; a locked checker counts bits compared and in error; 64 errored words in a row end its lock with PRBS_LOST, CHK_RESEED ends it without; INJ_ONE flips the
LSB of the next word's first symbol, and a non-zero PERIOD injects one error a period; the far-end FIFO comes back to 16, so that the word sent is the sixteenth last received, and a data lane counts the slip; a pattern code that the list of R145 does not give is stored as 0 (log 9); a PLL's lock, and its loss with TXPLL_UNLOCK in every quad page of the chiplet. -/
def Obligations.LaneTestAndClock : Prop :=
  (∀ (s : State) (l : LaneId) (hist : BitVec 128) (ws : List (BitVec 128)), s.pwr.mainUp = true → (s.lane (laneIdx l)).on = true → s.fld (chkPatFld l) ≠ 0 →
      s.flag (prbsLockedFld l) = false → heardWords l ws s = (upto 256).map (fun i => histWord (wordBits l) (patternAfter l (s.fld (chkPatFld l)) (i + 1) hist)) →
    Answers (.prbsCheckerLock l hist ws) s fun t =>
      t.flag (prbsLockedFld l) = true ∧ (t.lane (laneIdx l)).chkRef = patternAfter l (s.fld (chkPatFld l)) 256 hist ∧ (t.lane (laneIdx l)).chkBad = 0 ∧
      LanesKeep (laneIdx l) s t ∧ Touches [.lanes] [prbsLockedFld l] s t) ∧
  (∀ (s : State) (l : LaneId) (hist : BitVec 128) (ws : List (BitVec 128)), s.pwr.mainUp = true → (s.lane (laneIdx l)).on = true → s.fld (chkPatFld l) ≠ 0 →
      s.flag (prbsLockedFld l) = false → ws.length < 256 →
    Answers (.prbsCheckerLock l hist ws) s fun t =>
      t.flag (prbsLockedFld l) = false ∧ LanesKeep (laneIdx l) s t ∧ Within [.lanes] s t) ∧
  (∀ (s : State) (l : LaneId) (w : BitVec 128), s.pwr.mainUp = true → (s.lane (laneIdx l)).on = true → s.fld (chkPatFld l) ≠ 0 → s.flag (prbsLockedFld l) = true →
      (wordErrors l (s.fld (chkPatFld l)) (s.lane (laneIdx l)).chkRef (heardWord s l (wordIndex s l) w) = 0 ∨ (s.lane (laneIdx l)).chkBad < 63) →
    Answers (.prbsLost l [w]) s fun t =>
      t.flag (prbsLockedFld l) = true ∧
      t.reg64 (prbsBitsAt l) (prbsBitsAt l + 1) = (s.reg64 (prbsBitsAt l) (prbsBitsAt l + 1) + wordBits l) % 2 ^ 64 ∧
      t.reg64 (prbsErrAt l) (prbsErrAt l + 1) =
        (s.reg64 (prbsErrAt l) (prbsErrAt l + 1) + wordErrors l (s.fld (chkPatFld l)) (s.lane (laneIdx l)).chkRef (heardWord s l (wordIndex s l) w)) % 2 ^ 64 ∧
      (t.lane (laneIdx l)).chkBad = (if wordErrors l (s.fld (chkPatFld l)) (s.lane (laneIdx l)).chkRef (heardWord s l (wordIndex s l) w) = 0 then 0 else (s.lane (laneIdx l)).chkBad + 1) ∧
      (t.lane (laneIdx l)).chkRef = nextPattern l (s.fld (chkPatFld l)) (s.lane (laneIdx l)).chkRef ∧
      (t.lane (laneIdx l)).rxWords = (heardWord s l (wordIndex s l) w :: (s.lane (laneIdx l)).rxWords).take 32 ∧ LanesKeep (laneIdx l) s t ∧
      Touches [.lanes] [whole (prbsBitsAt l), whole (prbsBitsAt l + 1), whole (prbsErrAt l), whole (prbsErrAt l + 1), laneOvf l] s t) ∧
  (∀ (s : State) (l : LaneId) (ws : List (BitVec 128)), s.pwr.mainUp = true → (s.lane (laneIdx l)).on = true → s.fld (chkPatFld l) ≠ 0 → s.flag (prbsLockedFld l) = true →
      (s.lane (laneIdx l)).chkBad = 0 → ws.length = 64 →
      (∀ i ∈ List.range 64, wordErrors l (s.fld (chkPatFld l)) (patternAfter l (s.fld (chkPatFld l)) i (s.lane (laneIdx l)).chkRef) (nth 0 (heardWords l ws s) i) ≠ 0) →
    Answers (.prbsLost l ws) s fun t =>
      t.flag (prbsLockedFld l) = false ∧ t.flag (prbsLostFld l) = true ∧
      t.reg64 (prbsBitsAt l) (prbsBitsAt l + 1) = (s.reg64 (prbsBitsAt l) (prbsBitsAt l + 1) + 64 * wordBits l) % 2 ^ 64 ∧ LanesKeep (laneIdx l) s t ∧
      Touches [.lanes] [prbsLockedFld l, prbsLostFld l, whole (prbsBitsAt l), whole (prbsBitsAt l + 1), whole (prbsErrAt l), whole (prbsErrAt l + 1), laneOvf l] s t) ∧
  (∀ (s : State) (l : LaneId) (ws : List (BitVec 128)), s.pwr.mainUp = true → (s.lane (laneIdx l)).on = false →
    Answers (.prbsLost l ws) s fun t => t = s) ∧
  (∀ (s : State) (ag : Agent) (n : Fin 768) (d : Word), s.pwr.mainUp = true → pf1Denied ag (Reg.DLN_PRBS_CTRL n) s = false → bits d 0 4 = 0 →
    Answers (.chkReseed ag (.data n) d) s fun t =>
      t.flag (F.DLN_LANE_STATUS_PRBS_LOCKED n) = false ∧ (s.fld (F.DLN_PRBS_CTRL_GEN_PAT n) = 0 → t.lane n = { s.lane n with chkGood := 0, chkBad := 0 }) ∧ LanesKeep n s t ∧
      Touches [.lanes] [whole (Reg.DLN_PRBS_CTRL n), F.DLN_LANE_STATUS_PRBS_LOCKED n] s t) ∧
  (∀ (s : State) (ag : Agent) (m : Fin 32) (d : Word), s.pwr.mainUp = true → pf1Denied ag (Reg.ALN_PRBS_CTRL m) s = false →
    Answers (.prbsGenSet ag (.aux m) d) s fun t =>
      t.fld (F.ALN_PRBS_CTRL_GEN_PAT m) = (if bits d 0 4 ≤ 6 then bits d 0 4 else 0) ∧
      t.fld (F.ALN_PRBS_CTRL_CHK_PAT m) = (if bits d 8 4 ≤ 4 then bits d 8 4 else 0) ∧
      (bits d 0 4 ≠ s.fld (F.ALN_PRBS_CTRL_GEN_PAT m) → bits d 0 4 ≤ 6 → (t.lane (768 + m)).genFrom = wordIndex s (.aux m) + 1) ∧ LanesKeep (768 + m) s t ∧
      Touches [.lanes] [whole (Reg.ALN_PRBS_CTRL m), F.ALN_LANE_STATUS_PRBS_LOCKED m] s t) ∧
  (∀ (s : State) (ag : Agent) (n : Fin 768) (d : Word), s.pwr.mainUp = true → pf1Denied ag (Reg.DLN_ERR_INJ n) s = false →
    Answers (.injOne ag (.data n) d) s fun t =>
      (t.lane n).injected = (s.lane n).injected + (if (s.lane n).on then 1 else 0) ∧ t.fld (F.DLN_ERR_INJ_PERIOD n) = bits d 0 16 ∧
      (t.lane n).injFrom = wordIndex s (.data n) ∧
      ((s.lane n).on = true → txWord t (.data n) (wordIndex s (.data n) + 1) =
        (if s.fld (F.DLN_LANE_CTRL_LOOPBACK n) = 3 then resentWord s (.data n) (wordIndex s (.data n) + 1) else formedWord s (.data n) (wordIndex s (.data n) + 1)) ^^^ 2) ∧
      t.flag (F.DLN_ERR_INJ_INJ_ONE n) = s.flag (F.DLN_ERR_INJ_INJ_ONE n) ∧
      LanesKeep n s t ∧ Touches [.lanes] [F.DLN_ERR_INJ_PERIOD n] s t) ∧
  (∀ (s : State) (n : Fin 768), s.pwr.mainUp = true → s.fld (F.DLN_ERR_INJ_PERIOD n) ≠ 0 → (s.lane n).on = true →
    Answers (.errInjPeriodExpire (.data n)) s fun t =>
      (t.lane n).injected = (s.lane n).injected + 1 ∧ LanesKeep n s t ∧ Within [.lanes] s t) ∧
  (∀ (s : State) (n : Fin 768) (fill : Nat), s.pwr.mainUp = true → (s.lane n).on = true → s.fld (F.DLN_LANE_CTRL_LOOPBACK n) = 3 → (fill ≤ 2 ∨ 30 ≤ fill) →
    Answers (.feSlip (.data n) fill) s fun t =>
      t.reg (Reg.DLN_FE_SLIP n) = s.reg (Reg.DLN_FE_SLIP n) + 1 ∧ t.lane n = { s.lane n with fill := 16 } ∧ LanesKeep n s t ∧
      (16 ≤ (s.lane n).rxWords.length → resentWord t (.data n) (wordIndex s (.data n)) = nth 0 (s.lane n).rxWords 15) ∧
      Touches [.lanes] [whole (Reg.DLN_FE_SLIP n), F.DLN_INT_STATUS_CNT_OVF (n / 4)] s t) ∧
  (∀ (s : State) (m : Fin 32) (fill : Nat), s.pwr.mainUp = true → (s.lane (768 + m)).on = true → s.fld (F.ALN_CTRL_LOOPBACK m) = 3 → (fill ≤ 2 ∨ 30 ≤ fill) →
    Answers (.feSlip (.aux m) fill) s fun t =>
      t.lane (768 + m) = { s.lane (768 + m) with fill := 16 } ∧ LanesKeep (768 + m) s t ∧ Within [.lanes] s t) ∧
  (∀ (s : State) (l : LaneId) (fill : Nat), s.pwr.mainUp = true → (s.lane (laneIdx l)).on = false →
    Answers (.feSlip l fill) s fun t => t = s) ∧
  (∀ (s : State) (k : Fin 7), s.pwr.mainUp = true →
    Answers (.txpllLock k) s fun t =>
      t.pllLocked k = true ∧ (∀ j : Fin 7, j ≠ k → t.pllLocked j = s.pllLocked j) ∧
      (∀ l : LaneId, t.lane (laneIdx l) = { s.lane (laneIdx l) with wait := (s.lane (laneIdx l)).wait && decide (pllOf l ≠ k.val) }) ∧ Within [.lanes, .lanePll] s t) ∧
  (∀ (s : State) (k : Fin 6), s.pwr.mainUp = true → s.pllLocked k = true →
    Answers (.txpllUnlock (k.castSucc)) s fun t =>
      t.pllLocked k = false ∧ (∀ j : Fin 7, j.val ≠ k → t.pllLocked j = s.pllLocked j) ∧
      (∀ q ∈ List.range 192, t.flag (F.DLN_INT_STATUS_TXPLL_UNLOCK q) = (s.flag (F.DLN_INT_STATUS_TXPLL_UNLOCK q) || decide (q / 32 = k.val))) ∧
      Touches [.lanePll] ((List.range 32).map fun q => F.DLN_INT_STATUS_TXPLL_UNLOCK (32 * k + q)) s t)

/-- R163: APPLY_INC takes a staged increment from 0x01_4784_230F_CF81 to 0x01_47D8_05E5_F30F inclusive as the pending increment; any other changes nothing and sets INC_REJECT; combined with
a LOAD (or a STEP) that is not itself rejected, a rejected increment lets that command proceed. -/
def Obligations.IncrementsAreRangeChecked : Prop :=
  (∀ (s : State) (ag : Agent) (d : Word), s.pwr.mainUp = true → pf1Denied ag Reg.TBASE_CMD s = false → tbFormat s ≠ 0 → s.tb.pend = none → bits d 0 6 = 0 → 0x014784230FCF81 ≤ s.reg64 Reg.TBASE_INC_LO Reg.TBASE_INC_HI ∧ s.reg64 Reg.TBASE_INC_LO Reg.TBASE_INC_HI ≤ 0x0147D805E5F30F →
    Answers (.applyInc ag d) s fun t =>
      t.tb = { s.tb with pend := some { inc := some (s.reg64 Reg.TBASE_INC_LO Reg.TBASE_INC_HI), op := none, arm := if d.getLsbD 8 then some (armValue s) else none, acc := s.clk.tclk, late := d.getLsbD 8 && decide (armValue s < s.tb.value + (if s.tb.starting then 1023 else 1024) * incCur s), xstep := false, dispute := false } } ∧ t.flag F.TBASE_LIVE_CMD_PENDING = true ∧
      Touches [.tb] [F.TBASE_CMD_AT, F.TBASE_LIVE_CMD_PENDING] s t) ∧
  (∀ (s : State) (ag : Agent) (d : Word), s.pwr.mainUp = true → pf1Denied ag Reg.TBASE_CMD s = false → tbFormat s ≠ 0 → s.tb.pend = none → bits d 0 6 = 0 → ¬(0x014784230FCF81 ≤ s.reg64 Reg.TBASE_INC_LO Reg.TBASE_INC_HI ∧ s.reg64 Reg.TBASE_INC_LO Reg.TBASE_INC_HI ≤ 0x0147D805E5F30F) →
    Answers (.applyInc ag d) s fun t => t.flag F.TBASE_INT_STATUS_INC_REJECT = true ∧ Touches [] [F.TBASE_CMD_AT, F.TBASE_INT_STATUS_INC_REJECT] s t) ∧
  (∀ (s : State) (ag : Agent) (d : Word), s.pwr.mainUp = true → pf1Denied ag Reg.TBASE_CMD s = false → tbFormat s ≠ 0 → s.tb.pend = none → bits d 0 6 = 1 → ¬(0x014784230FCF81 ≤ s.reg64 Reg.TBASE_INC_LO Reg.TBASE_INC_HI ∧ s.reg64 Reg.TBASE_INC_LO Reg.TBASE_INC_HI ≤ 0x0147D805E5F30F) →
      ¬(tbFormat s = 1 ∧ 1000000000 ≤ (s.reg Reg.TBASE_LOAD1).toNat) →
    Answers (.load ag d) s fun t =>
      t.flag F.TBASE_INT_STATUS_INC_REJECT = true ∧ t.tb = { s.tb with pend := some { inc := none, op := some (.load (loadValue s)), arm := if d.getLsbD 8 then some (armValue s) else none, acc := s.clk.tclk, late := d.getLsbD 8 && decide (armValue s < s.tb.value + (if s.tb.starting then 1023 else 1024) * incCur s), xstep := false, dispute := false } } ∧
      Touches [.tb] [F.TBASE_CMD_AT, F.TBASE_INT_STATUS_INC_REJECT, F.TBASE_LIVE_CMD_PENDING] s t) ∧
  (∀ (s : State) (ag : Agent) (d : Word), s.pwr.mainUp = true → pf1Denied ag Reg.TBASE_CMD s = false → tbFormat s ≠ 0 → s.tb.pend = none → bits d 0 6 = 1 → ¬(0x014784230FCF81 ≤ s.reg64 Reg.TBASE_INC_LO Reg.TBASE_INC_HI ∧ s.reg64 Reg.TBASE_INC_LO Reg.TBASE_INC_HI ≤ 0x0147D805E5F30F) →
      0 ≤ ((if d.getLsbD 8 then armValue s else s.tb.value : Nat) : Int) + stepAmount s →
    Answers (.step ag d) s fun t =>
      t.flag F.TBASE_INT_STATUS_INC_REJECT = true ∧ t.tb = { s.tb with pend := some { inc := none, op := some (.step (stepAmount s)), arm := if d.getLsbD 8 then some (armValue s) else none, acc := s.clk.tclk, late := d.getLsbD 8 && decide (armValue s < s.tb.value + (if s.tb.starting then 1023 else 1024) * incCur s), xstep := false, dispute := false } } ∧
      Touches [.tb] [F.TBASE_CMD_AT, F.TBASE_INT_STATUS_INC_REJECT, F.TBASE_LIVE_CMD_PENDING] s t)

/-- R167: a STEP, LOAD or APPLY_INC written while a command pends is ignored and sets CMD_BUSY; CANCEL withdraws the pending command at least one TCLK before its apply edge and is ignored later; CANCEL with
a new command acts first: withdrawn, the new command is accepted in the same write; nothing pending, it is accepted; too late, the new command is busy. At the apply edge TBASE_APPLIED
holds the record of the resulting value and CMD_DONE is set. -/
def Obligations.OneTimeCommandPends : Prop :=
  (∀ (s : State) (ag : Agent) (d : Word) (p : TbPend) (c : Instr), s.pwr.mainUp = true → pf1Denied ag Reg.TBASE_CMD s = false → tbFormat s ≠ 0 → s.tb.pend = some p → bits d 1 5 = 0 →
      c ∈ [Instr.applyInc ag d, .step ag d, .load ag d] →
    Answers c s fun t => t.tb = s.tb ∧ t.flag F.TBASE_INT_STATUS_CMD_BUSY = true ∧ Touches [] [F.TBASE_CMD_AT, F.TBASE_INT_STATUS_CMD_BUSY] s t) ∧
  (∀ (s : State) (ag : Agent) (d : Word) (p : TbPend), s.pwr.mainUp = true → pf1Denied ag Reg.TBASE_CMD s = false → tbFormat s ≠ 0 → s.tb.pend = some p → bits d 0 6 = 0 → 1 ≤ tbDue p s →
    Answers (.cancel ag d) s fun t =>
      t.tb = { s.tb with pend := none } ∧ t.flag F.TBASE_LIVE_CMD_PENDING = false ∧ Touches [.tb] [F.TBASE_CMD_AT, F.TBASE_LIVE_CMD_PENDING] s t) ∧
  (∀ (s : State) (ag : Agent) (d : Word) (p : TbPend), s.pwr.mainUp = true → pf1Denied ag Reg.TBASE_CMD s = false → tbFormat s ≠ 0 → s.tb.pend = some p → bits d 0 6 = 0 → tbDue p s = 0 →
    Answers (.cancel ag d) s fun t => t.tb = s.tb ∧ Touches [] [F.TBASE_CMD_AT] s t) ∧
  (∀ (s : State) (ag : Agent) (d : Word), s.pwr.mainUp = true → pf1Denied ag Reg.TBASE_CMD s = false → tbFormat s ≠ 0 → s.tb.pend = none → bits d 0 6 = 0 →
    Answers (.cancel ag d) s fun t => t.tb = s.tb ∧ Touches [] [F.TBASE_CMD_AT] s t) ∧
  (∀ (s : State) (ag : Agent) (d : Word), s.pwr.mainUp = true → pf1Denied ag Reg.TBASE_CMD s = false → tbFormat s ≠ 0 → bits d 0 6 = 16 → (∀ p, s.tb.pend = some p → 1 ≤ tbDue p s) →
      ¬(tbFormat s = 1 ∧ 1000000000 ≤ (s.reg Reg.TBASE_LOAD1).toNat) →
    Answers (.load ag d) s fun t =>
      t.tb = { s.tb with pend := some { inc := none, op := some (.load (loadValue s)), arm := if d.getLsbD 8 then some (armValue s) else none, acc := s.clk.tclk, late := d.getLsbD 8 && decide (armValue s < s.tb.value + (if s.tb.starting then 1023 else 1024) * incCur s), xstep := false, dispute := false } } ∧ t.flag F.TBASE_LIVE_CMD_PENDING = true ∧
      Touches [.tb] [F.TBASE_CMD_AT, F.TBASE_LIVE_CMD_PENDING] s t) ∧
  (∀ (s : State) (ag : Agent) (d : Word) (p : TbPend), s.pwr.mainUp = true → pf1Denied ag Reg.TBASE_CMD s = false → tbFormat s ≠ 0 → bits d 0 6 = 16 → s.tb.pend = some p → tbDue p s = 0 →
    Answers (.step ag d) s fun t => t.tb = s.tb ∧ t.flag F.TBASE_INT_STATUS_CMD_BUSY = true ∧ Touches [] [F.TBASE_CMD_AT, F.TBASE_INT_STATUS_CMD_BUSY] s t) ∧
  (∀ (s : State) (p : TbPend), s.pwr.mainUp = true → s.pwr.oclkUp = true → s.pwr.ovenUp = true → tbFormat s ≠ 0 → s.tb.pend = some p → p.xstep = false → p.dispute = false →
      (∀ a, p.arm = some a → a + incCur s ≤ tbWrap (tbFormat s)) →
    Answers .cmdDone s fun t =>
      (∀ i ∈ List.range 4, t.reg (Reg.TBASE_APPLIED_REC i) = nth 0 (recordNow t) i) ∧ t.flag F.TBASE_INT_STATUS_CMD_DONE = true ∧
      t.tb.pend = none ∧ t.flag F.TBASE_LIVE_CMD_PENDING = false)

/-- The time base (R158 to R160, R165, R166, R168 to R170, R172): the one write of FORMAT; NOT_RUNNING before it; a write with STEP and LOAD is ignored as a whole; a STEP that would go negative and a LOAD with NS of 10^9 are
rejected; a SNAP waits and is recorded 8 TCLK after acceptance, whether a command pends or not; at its apply edge a STEP or LOAD changes the value after the increment, EPOCH advances modulo 4, the timeline that ended is kept for events before it (R178), and every output's OFFSET moves
by as much (R187); CLR_OUTAGE clears OUTAGE and CMD_LOST. That NOT_RUNNING comes before the test of STEP with LOAD, and that the timelines that ended are kept, is the model's choice (log 10). -/
def Obligations.TimeBaseCommands : Prop :=
  (∀ (s : State) (ag : Agent) (d : Word), s.pwr.mainUp = true → pf1Denied ag Reg.TBASE_CTRL s = false → s.fld F.TBASE_CTRL_FORMAT = 0 → (d.toNat % 4 = 1 ∨ d.toNat % 4 = 2) →
    Answers (.formatWrite ag d) s fun t =>
      t.fld F.TBASE_CTRL_FORMAT = d.toNat % 4 ∧ t.tb = { s.tb with starting := true, value := 0 } ∧ Touches [.tb, .hst] [F.TBASE_CTRL_FORMAT, ⟨Reg.TBASE_CTRL, 31, 1⟩] s t) ∧
  (∀ (s : State) (ag : Agent) (d : Word), s.pwr.mainUp = true → pf1Denied ag Reg.TBASE_CTRL s = false → (d.toNat % 4 = 0 ∨ d.toNat % 4 = 3) →
    Answers (.formatWrite ag d) s fun t => Touches [.hst] [⟨Reg.TBASE_CTRL, 31, 1⟩] s t) ∧
  (∀ (s : State) (ag : Agent) (d : Word), s.pwr.mainUp = true → pf1Denied ag Reg.TBASE_CTRL s = false → s.fld F.TBASE_CTRL_FORMAT ≠ 0 → (d.toNat % 4 = 1 ∨ d.toNat % 4 = 2) →
    Answers (.formatWrite ag d) s fun t =>
      t.flag (lockViol (Reg.TBASE_CTRL / 1024)) = (s.flag (lockViol (Reg.TBASE_CTRL / 1024)) || decide (d.toNat % 4 ≠ s.fld F.TBASE_CTRL_FORMAT)) ∧
      Touches [.hst] [⟨Reg.TBASE_CTRL, 31, 1⟩, lockViol (Reg.TBASE_CTRL / 1024)] s t) ∧
  (∀ (s : State) (ag : Agent) (d : Word) (c : Instr), s.pwr.mainUp = true → pf1Denied ag Reg.TBASE_CMD s = false → tbFormat s = 0 →
      c ∈ [Instr.applyInc ag d, .step ag d, .load ag d, .snap ag d, .cancel ag d, .clrOutage ag d] →
    Answers c s fun t => t.flag F.TBASE_INT_STATUS_NOT_RUNNING = true ∧ Touches [] [F.TBASE_CMD_AT, F.TBASE_INT_STATUS_NOT_RUNNING] s t) ∧
  (∀ (s : State) (ag : Agent) (d : Word), s.pwr.mainUp = true → pf1Denied ag Reg.TBASE_CMD s = false → tbFormat s ≠ 0 → d.getLsbD 2 = true →
    Answers (.step ag d) s fun t => t.flag F.TBASE_INT_STATUS_CMD_REJECT = true ∧ Touches [] [F.TBASE_INT_STATUS_CMD_REJECT] s t) ∧
  (∀ (s : State) (ag : Agent) (d : Word), s.pwr.mainUp = true → pf1Denied ag Reg.TBASE_CMD s = false → tbFormat s ≠ 0 → s.tb.pend = none → bits d 0 6 = 0 →
      ((if d.getLsbD 8 then armValue s else s.tb.value : Nat) : Int) + stepAmount s < 0 →
    Answers (.step ag d) s fun t => t.flag F.TBASE_INT_STATUS_CMD_REJECT = true ∧ Touches [] [F.TBASE_CMD_AT, F.TBASE_INT_STATUS_CMD_REJECT] s t) ∧
  (∀ (s : State) (ag : Agent) (d : Word), s.pwr.mainUp = true → pf1Denied ag Reg.TBASE_CMD s = false → tbFormat s ≠ 0 → s.tb.pend = none → bits d 0 6 = 0 →
      0 ≤ ((if d.getLsbD 8 then armValue s else s.tb.value : Nat) : Int) + stepAmount s →
    Answers (.step ag d) s fun t =>
      t.tb = { s.tb with pend := some { inc := none, op := some (.step (stepAmount s)), arm := if d.getLsbD 8 then some (armValue s) else none, acc := s.clk.tclk, late := d.getLsbD 8 && decide (armValue s < s.tb.value + (if s.tb.starting then 1023 else 1024) * incCur s), xstep := false, dispute := false } } ∧ Touches [.tb] [F.TBASE_CMD_AT, F.TBASE_LIVE_CMD_PENDING] s t) ∧
  (∀ (s : State) (ag : Agent) (d : Word), s.pwr.mainUp = true → pf1Denied ag Reg.TBASE_CMD s = false → tbFormat s = 1 → s.tb.pend = none → bits d 0 6 = 0 → 1000000000 ≤ (s.reg Reg.TBASE_LOAD1).toNat →
    Answers (.load ag d) s fun t => t.flag F.TBASE_INT_STATUS_CMD_REJECT = true ∧ Touches [] [F.TBASE_CMD_AT, F.TBASE_INT_STATUS_CMD_REJECT] s t) ∧
  (∀ (s : State) (ag : Agent) (d : Word), s.pwr.mainUp = true → pf1Denied ag Reg.TBASE_CMD s = false → tbFormat s ≠ 0 → bits d 0 6 = 0 →
    Answers (.snap ag d) s fun t => t.tb = { s.tb with snaps := s.tb.snaps ++ [s.clk.tclk] } ∧ Touches [.tb] [F.TBASE_CMD_AT] s t) ∧
  (∀ (s : State) (ag : Agent) (d : Word), s.pwr.mainUp = true → pf1Denied ag Reg.TBASE_CMD s = false → tbFormat s ≠ 0 → bits d 0 6 = 0 →
    Answers (.clrOutage ag d) s fun t =>
      t.flag F.TBASE_LIVE_OUTAGE = false ∧ t.flag F.TBASE_LIVE_CMD_LOST = false ∧ Touches [] [F.TBASE_CMD_AT, F.TBASE_LIVE_OUTAGE, F.TBASE_LIVE_CMD_LOST] s t) ∧
  (∀ (s : State) (acc : Nat) (rest : List Nat), s.pwr.mainUp = true → s.pwr.oclkUp = true → s.pwr.ovenUp = true → tbFormat s ≠ 0 → s.tb.starting = false → s.tb.snaps = acc :: rest →
      (∀ a ∈ rest.head?, max (acc + 8) s.clk.tclk < a + 8) → (∀ p, s.tb.pend = some p → acc + 8 - s.clk.tclk < tbDue p s) →
    Answers .snapDone s fun t =>
      t.clk.tclk = s.clk.tclk + (acc + 8 - s.clk.tclk) ∧ t.tb.value = valueAfter s (acc + 8 - s.clk.tclk) ∧
      t.tb.snaps = rest ∧ (∀ i ∈ List.range 4, t.reg (Reg.TBASE_SNAP_REC i) = nth 0 (recordNow t) i) ∧ t.flag F.TBASE_INT_STATUS_SNAP_DONE = true ∧
      t.tb.pend = s.tb.pend ∧ Within [.regs, .clk, .tb, .tlm, .twin] s t) ∧
  (∀ (s : State) (p : TbPend) (op : TbOp), s.pwr.mainUp = true → s.pwr.oclkUp = true → s.pwr.ovenUp = true → tbFormat s ≠ 0 → s.tb.starting = false → s.tb.pend = some p →
      p.op = some op → p.xstep = false → p.dispute = false → (∀ a, p.arm = some a → a + incCur s ≤ tbWrap (tbFormat s)) →
    Answers .cmdDone s fun t =>
      t.clk.tclk = s.clk.tclk + tbDue p s ∧
      (t.tb.value : Int) = (match op with
        | .step a => ((valueAfter s (tbDue p s) : Int) + a) % (tbWrap (tbFormat s) : Int)
        | .load v => v) ∧
      t.fld F.TBASE_LIVE_EPOCH = (s.fld F.TBASE_LIVE_EPOCH + 1) % 4 ∧ incCur t = p.inc.getD (incCur s) % 2 ^ 64 ∧
      (∀ k ∈ List.range 5, (t.out k).offset - (s.out k).offset = t.tb.moved - s.tb.moved) ∧
      t.flag F.TBASE_INT_STATUS_CMD_LATE = (s.flag F.TBASE_INT_STATUS_CMD_LATE || p.late) ∧
      t.tb.past = (TbPast.mk (s.clk.tclk + tbDue p s) (valueAfter s (tbDue p s)) (incCur s) (s.fld F.TBASE_LIVE_EPOCH) s.tb.moved :: s.tb.past).take 1024 ∧ Within [.regs, .clk, .tb, .loop, .sky, .tlm, .twin] s t)

/-- Pulse outputs and the transmit FIFO (R186, R188 to R190, R195): a rise of EN and REALIGN set OFFSET to 0, take PERIOD, PHASE and WIDTH and allow no edge for 1,024 TCLK; a fall of EN lets a pulse complete; a PERIOD below 20 ns,
or a WIDTH outside 8 ns to PERIOD − 8 ns, is ignored with OUT_REJECT; an edge comes at an instant with (t − OFFSET − PHASE) mod PERIOD = 0, DELAY before it at the nearest 1/256 TCLK (log 10),
and the output stays active for WIDTH, through a wrap of the value (R159); one of output 4 sets PPS_EDGE; behind a shut gate the pulse is not driven, and sets nothing (R502); a record enters the FIFO of 512,
or is dropped with TXTS_OVF and counted; POP removes the oldest. -/
def Obligations.PulseOutputsAndTransmitRecords : Prop :=
  (∀ (s : State) (ag : Agent) (k : Fin 5) (d : Word), s.pwr.mainUp = true → pf1Denied ag (Reg.TBASE_OUT_CTRL k) s = false → s.flag (F.TBASE_OUT_CTRL_EN k) = false →
    Answers (.outputEnable ag k d) s fun t =>
      t.out k = { s.out k with on := true, pol := d.getLsbD 1, offset := 0, period := (s.reg (Reg.TBASE_OUT_PERIOD k)).toNat, phase := (s.reg (Reg.TBASE_OUT_PHASE k)).toNat, width := (s.reg (Reg.TBASE_OUT_WIDTH k)).toNat, earliest := s.clk.tclk + 1024, again := (s.out k).active } ∧
      (∀ j : Fin 5, j ≠ k → t.out j = s.out j) ∧ t.reg (Reg.TBASE_OUT_OFFSET_LO k) = 0 ∧ t.reg (Reg.TBASE_OUT_OFFSET_HI k) = 0 ∧
      Touches [.tb] [F.TBASE_OUT_CTRL_EN k, F.TBASE_OUT_CTRL_POL k, whole (Reg.TBASE_OUT_OFFSET_LO k), whole (Reg.TBASE_OUT_OFFSET_HI k)] s t) ∧
  (∀ (s : State) (ag : Agent) (k : Fin 5) (d : Word), s.pwr.mainUp = true → pf1Denied ag (Reg.TBASE_OUT_CTRL k) s = false → s.flag (F.TBASE_OUT_CTRL_EN k) = true →
    Answers (.outputDisable ag k d) s fun t =>
      t.out k = { s.out k with on := false } ∧ (∀ j : Fin 5, j ≠ k → t.out j = s.out j) ∧ t.flag (F.TBASE_OUT_CTRL_EN k) = false ∧
      Touches [.tb] [F.TBASE_OUT_CTRL_EN k, F.TBASE_OUT_CTRL_POL k] s t) ∧
  (∀ (s : State) (ag : Agent) (k : Fin 5) (d : Word), s.pwr.mainUp = true → pf1Denied ag (Reg.TBASE_OUT_CMD k) s = false →
    Answers (.realign ag k d) s fun t =>
      t.out k = { s.out k with offset := 0, period := (s.reg (Reg.TBASE_OUT_PERIOD k)).toNat, phase := (s.reg (Reg.TBASE_OUT_PHASE k)).toNat, width := (s.reg (Reg.TBASE_OUT_WIDTH k)).toNat, earliest := s.clk.tclk + 1024, again := (s.out k).active } ∧
      (∀ j : Fin 5, j ≠ k → t.out j = s.out j) ∧ Touches [.tb] [whole (Reg.TBASE_OUT_OFFSET_LO k), whole (Reg.TBASE_OUT_OFFSET_HI k)] s t) ∧
  (∀ (s : State) (ag : Agent) (k : Fin 5) (d : Word), s.pwr.mainUp = true → pf1Denied ag (Reg.TBASE_OUT_PERIOD k) s = false →
    Answers (.outParamWrite ag k 0 d) s fun t =>
      t.reg (Reg.TBASE_OUT_PERIOD k) = (if k = 4 ∨ d.toNat < 20 then s.reg (Reg.TBASE_OUT_PERIOD k) else d) ∧
      t.flag F.TBASE_INT_STATUS_OUT_REJECT = (s.flag F.TBASE_INT_STATUS_OUT_REJECT || decide (k ≠ 4 ∧ d.toNat < 20)) ∧ t.tb = s.tb ∧
      Touches [] [whole (Reg.TBASE_OUT_PERIOD k), F.TBASE_INT_STATUS_OUT_REJECT] s t) ∧
  (∀ (s : State) (ag : Agent) (k : Fin 5) (d : Word), s.pwr.mainUp = true → pf1Denied ag (Reg.TBASE_OUT_PHASE k) s = false →
    Answers (.outParamWrite ag k 1 d) s fun t => t.reg (Reg.TBASE_OUT_PHASE k) = d ∧ Touches [] [whole (Reg.TBASE_OUT_PHASE k)] s t) ∧
  (∀ (s : State) (ag : Agent) (k : Fin 5) (d : Word), s.pwr.mainUp = true → pf1Denied ag (Reg.TBASE_OUT_WIDTH k) s = false →
    Answers (.outParamWrite ag k 2 d) s fun t =>
      t.reg (Reg.TBASE_OUT_WIDTH k) = (if 8 ≤ d.toNat ∧ d.toNat + 8 ≤ (s.reg (Reg.TBASE_OUT_PERIOD k)).toNat then d else s.reg (Reg.TBASE_OUT_WIDTH k)) ∧
      t.flag F.TBASE_INT_STATUS_OUT_REJECT = (s.flag F.TBASE_INT_STATUS_OUT_REJECT || !decide (8 ≤ d.toNat ∧ d.toNat + 8 ≤ (s.reg (Reg.TBASE_OUT_PERIOD k)).toNat)) ∧
      Touches [] [whole (Reg.TBASE_OUT_WIDTH k), F.TBASE_INT_STATUS_OUT_REJECT] s t) ∧
  (∀ (s : State) (k : Fin 5), s.pwr.mainUp = true → (s.out k).on = true → (s.out k).active = false → s.flag F.TBASE_LIVE_RUNNING = true → 0 < (s.out k).period → s.pwr.oclkUp = true → s.fld (F.TBASE_OUT_DELAY_DELAY_PS k) = 0 →
      incOk (incCur s) = true → (∀ p, s.tb.pend = some p → p.inc.all incOk = true) →
    Answers (.outputEdge k) s fun t =>
      (t.out k).active = true ∧ (s.out k).earliest ≤ t.clk.tclk ∧
      (∃ j : Int, (((t.out k).pulseEnd : Int) + j * (tbWrap (tbFormat s) : Nat) - (s.out k).width * (2 ^ 48 : Nat) - (t.out k).offset - (s.out k).phase * (2 ^ 48 : Nat)) % (((s.out k).period * 2 ^ 48 : Nat) : Int) = 0) ∧
      t.flag F.TBASE_INT_STATUS_PPS_EDGE = (s.flag F.TBASE_INT_STATUS_PPS_EDGE || (decide (k = 4) && gateOpen k s)) ∧ (t.out k).driven = gateOpen k s ∧
      (∀ j : Fin 5, j ≠ k → (t.out j).offset - (s.out j).offset = t.tb.moved - s.tb.moved ∧ (t.out j).active = (s.out j).active) ∧
      Within [.regs, .clk, .tb, .loop, .sky, .tlm, .twin] s t) ∧
  (∀ (s : State) (k : Fin 5), s.pwr.mainUp = true → (s.out k).on = true → (s.out k).active = false → s.flag F.TBASE_LIVE_RUNNING = true → 0 < (s.out k).period →
      s.pwr.oclkUp = true → s.pwr.ovenUp = true → tbFormat s ≠ 0 → s.tb.starting = false → s.tb.pend = none → s.tb.snaps = [] →
    Answers (.outputEdge k) s fun t =>
      (t.out k).active = true ∧ (t.out k).edge = 256 * s.clk.tclk + edgePlace k (nextInstant k s) s ∧
      (nextInstant k s < (tbWrap (tbFormat s) : Nat) → (nextInstant k s - (s.out k).offset - (s.out k).phase * (2 ^ 48 : Nat)) % (((s.out k).period * 2 ^ 48 : Nat) : Int) = 0) ∧
      (t.out k).pulseEnd = nextInstant k s + ((s.out k).width * 2 ^ 48 : Nat) - ((((s.tb.value + ((edgePlace k (nextInstant k s) s + 255) / 256) * incCur s) / tbWrap (tbFormat s) * tbWrap (tbFormat s) : Nat)) : Int) ∧ t.clk.tclk = s.clk.tclk + (edgePlace k (nextInstant k s) s + 255) / 256 ∧
      (t.out k).driven = gateOpen k s ∧ (∀ j : Fin 5, j ≠ k → t.out j = { s.out j with pulseEnd := (s.out j).pulseEnd - ((((s.tb.value + ((edgePlace k (nextInstant k s) s + 255) / 256) * incCur s) / tbWrap (tbFormat s) * tbWrap (tbFormat s) : Nat)) : Int) }) ∧ Within [.regs, .clk, .tb, .tlm, .twin] s t) ∧
  (∀ (s : State) (k : Fin 5), s.pwr.mainUp = true → (s.out k).active = true →
    Answers (.outputPulseEnd k) s fun t =>
      (t.out k).active = false ∧ (t.out k).on = (s.out k).on ∧
      (∀ j : Fin 5, j ≠ k → (t.out j).offset - (s.out j).offset = t.tb.moved - s.tb.moved ∧ (t.out j).active = (s.out j).active) ∧
      (t.tb.pend = s.tb.pend → ∀ j : Fin 5, j ≠ k → { t.out j with pulseEnd := (s.out j).pulseEnd } = s.out j) ∧ Within [.regs, .clk, .tb, .loop, .sky, .tlm, .twin] s t) ∧
  (∀ (s : State) (id : Nat) (r : TxtsRec), s.pwr.mainUp = true → s.tb.txWait.find? (fun p => p.1 == id) = some (id, r) → s.tb.fifo.length < 512 →
    Answers (.txtsRecordWrite id) s fun t =>
      t.tb = { s.tb with fifo := s.tb.fifo ++ [r], txWait := s.tb.txWait.filter (fun p => p.1 != id) } ∧
      t.flag F.TBASE_INT_STATUS_TXTS_AVAIL = (s.flag F.TBASE_INT_STATUS_TXTS_AVAIL || s.tb.fifo.isEmpty) ∧ Touches [.tb] [F.TBASE_INT_STATUS_TXTS_AVAIL] s t) ∧
  (∀ (s : State) (id : Nat) (r : TxtsRec), s.pwr.mainUp = true → s.tb.txWait.find? (fun p => p.1 == id) = some (id, r) → 512 ≤ s.tb.fifo.length →
    Answers (.txtsRecordWrite id) s fun t =>
      t.tb.fifo = s.tb.fifo ∧ t.reg Reg.TBASE_TXTS_OVF = s.reg Reg.TBASE_TXTS_OVF + 1 ∧ t.flag F.TBASE_INT_STATUS_TXTS_OVF = true ∧
      Touches [.tb] [whole Reg.TBASE_TXTS_OVF, F.TBASE_INT_STATUS_TXTS_OVF, F.TBASE_INT_STATUS_CNT_OVF] s t) ∧
  (∀ (s : State) (ag : Agent) (d : Word), s.pwr.mainUp = true → pf1Denied ag (Reg.TBASE_TXTS_POP) s = false →
    Answers (.txtsPop ag d) s fun t => t.tb = { s.tb with fifo := s.tb.fifo.drop 1 } ∧ Touches [.tb] [] s t)

/-- R201: the fine word of code k is F = B[k] + (B[k + 1] − B[k]) div 2 with B[4096] = 2^20, and P = 2^20 − F; P of 2^19 or more adds 1 to COARSE and loses 2^19. With it, R200, R202, R210, R218 and R223: a code below FLOOR is counted, sets
FLOOR_ERR, is shown without VALID and joins no mean; the result goes to the slot's latest result and its 64 latest values; a pilot conversion is summed for its cell; a code-density run counts hits up to 2^22. What a cell
spends its slot on is `slotUse`. A NO_EDGE result that leaves PHASE and COARSE and is not counted is the model's choice (log 11). -/
def Obligations.CellsReportPhases : Prop :=
  (∀ (s : State) (c : Fin 32) (i : Fin 1024) (hit : Bool) (k : BitVec 12) (coarse : Nat), s.pwr.mainUp = true → slotUse s c = .source i hit → sourceLive s (s.fld (F.MET_SRC_CFG_TYPE i)) (s.fld (F.MET_SRC_CFG_LANE i)) = true → s.fld (F.MET_CELL_FLOOR_FLOOR c) ≤ k.toNat →
      2 ^ 19 ≤ 2 ^ 20 - (binAt s c k.toNat + (binAt s c (k.toNat + 1) - binAt s c k.toNat) / 2) →
    Answers (.metResult c (some k) coarse) s fun t =>
      t.fld (F.MET_SRC_LAST_PHASE i) = 2 ^ 20 - (binAt s c k.toNat + (binAt s c (k.toNat + 1) - binAt s c k.toNat) / 2) - 2 ^ 19 ∧
      (t.reg (Reg.MET_SRC_COARSE i)).toNat = (coarse + 1) % 2 ^ 32) ∧
  (∀ (s : State) (c : Fin 32) (i : Fin 1024) (hit : Bool) (k : BitVec 12) (coarse p : Nat), s.pwr.mainUp = true → slotUse s c = .source i hit → sourceLive s (s.fld (F.MET_SRC_CFG_TYPE i)) (s.fld (F.MET_SRC_CFG_LANE i)) = true → s.fld (F.MET_CELL_FLOOR_FLOOR c) ≤ k.toNat →
      p = 2 ^ 20 - (binAt s c k.toNat + (binAt s c (k.toNat + 1) - binAt s c k.toNat) / 2) → p < 2 ^ 19 →
    Answers (.metResult c (some k) coarse) s fun t =>
      t.fld (F.MET_SRC_LAST_PHASE i) = p ∧ (t.reg (Reg.MET_SRC_COARSE i)).toNat = coarse % 2 ^ 32 ∧ t.flag (F.MET_SRC_LAST_VALID i) = true ∧
      t.fld (F.MET_SRC_LAST_CELL i) = c.val ∧ t.flag (F.MET_SRC_LAST_SOLO i) = cellAway s (partner c) ∧
      t.flag (F.MET_SRC_LAST_SUSPECT i) = s.met.suspect.getLsbD (c.val % 16) ∧ t.flag (F.MET_SRC_LAST_UNCAL i) = s.flag (F.MET_CELL_STATUS_NOMINAL c) ∧
      (t.slot i).vals = (unwrapTo (s.slot i).vals p :: (s.slot i).vals).take 64 ∧
      ((s.slot i).stale = false → t.fld (F.MET_SRC_MEAN_MEAN i) = meanWord (t.slot i).vals % 2 ^ 31 ∧ t.flag (F.MET_SRC_MEAN_VALID i) = true) ∧
      (∀ j ∈ List.range 1024, j ≠ i.val → t.slot j = s.slot j) ∧ (∀ j ∈ List.range 32, j ≠ c.val → t.cell j = s.cell j) ∧
      (t.cell c).cycle = (s.cell c).cycle + 1 ∧ (hit = false → t.ind = s.ind) ∧
      Touches [.ind, .met] [whole (Reg.MET_SRC_LAST i), whole (Reg.MET_SRC_COARSE i), whole (Reg.MET_SRC_MEAN i), whole (Reg.MET_CELL_RESULTS_LO c), whole (Reg.MET_CELL_RESULTS_LO c + 1),
        F.MET_INT_STATUS_CNT_OVF] s t) ∧
  (∀ (s : State) (c : Fin 32) (i : Fin 1024) (hit : Bool) (k : BitVec 12) (coarse : Nat), s.pwr.mainUp = true → slotUse s c = .source i hit → sourceLive s (s.fld (F.MET_SRC_CFG_TYPE i)) (s.fld (F.MET_SRC_CFG_LANE i)) = true → k.toNat < s.fld (F.MET_CELL_FLOOR_FLOOR c) →
    Answers (.metResult c (some k) coarse) s fun t =>
      t.flag (F.MET_SRC_LAST_VALID i) = false ∧ t.reg (Reg.MET_CELL_INVALID c) = s.reg (Reg.MET_CELL_INVALID c) + 1 ∧ t.flag F.MET_INT_STATUS_FLOOR_ERR = true ∧
      t.fld (F.MET_SRC_LAST_PHASE i) = (phaseOf s c k.toNat).1 % 2 ^ 20 ∧ t.flag (F.MET_SRC_LAST_SOLO i) = cellAway s (partner c) ∧
      t.flag (F.MET_SRC_LAST_STALE i) = (s.slot i).stale ∧ t.met.slots = s.met.slots ∧ (hit = false → t.ind = s.ind) ∧
      Touches [.ind, .met] [whole (Reg.MET_SRC_LAST i), whole (Reg.MET_SRC_COARSE i), whole (Reg.MET_CELL_INVALID c), F.MET_INT_STATUS_FLOOR_ERR, F.MET_INT_STATUS_CNT_OVF] s t) ∧
  (∀ (s : State) (c : Fin 32) (i : Fin 1024) (hit : Bool) (code : Option (BitVec 12)) (coarse : Nat), s.pwr.mainUp = true → slotUse s c = .source i hit →
      (code = none ∨ sourceLive s (s.fld (F.MET_SRC_CFG_TYPE i)) (s.fld (F.MET_SRC_CFG_LANE i)) = false) →
    Answers (.metResult c code coarse) s fun t =>
      t.flag (F.MET_SRC_LAST_NO_EDGE i) = true ∧ t.flag (F.MET_SRC_LAST_VALID i) = false ∧ t.met.slots = s.met.slots ∧
      t.cell c = { s.cell c with cycle := (s.cell c).cycle + 1 } ∧ (∀ j ∈ List.range 32, j ≠ c.val → t.cell j = s.cell j) ∧ Touches [.met] [whole (Reg.MET_SRC_LAST i)] s t) ∧
  (∀ (s : State) (c : Fin 32) (k : BitVec 12) (coarse : Nat), s.pwr.mainUp = true → slotUse s c = .pilot → s.fld (F.MET_CELL_FLOOR_FLOOR c) ≤ k.toNat →
    Answers (.metResult c (some k) coarse) s fun t =>
      (t.cell c).pilotN = (s.cell c).pilotN + 1 ∧ (t.cell c).pilotSum = (s.cell c).pilotSum + ((phaseOf s c k.toNat).1 : Int) ∧
      (t.cell c).hits = (s.cell c).hits ∧ (∀ j ∈ List.range 32, j ≠ c.val → t.cell j = s.cell j) ∧
      Touches [.met] [whole (Reg.MET_CELL_RESULTS_LO c), whole (Reg.MET_CELL_RESULTS_LO c + 1), F.MET_INT_STATUS_CNT_OVF] s t) ∧
  (∀ (s : State) (c : Fin 32) (k : BitVec 12) (coarse : Nat), s.pwr.mainUp = true → slotUse s c = .random → cdBusy s c = true → (s.cell c).hits < 2 ^ 22 → histAt s c k.toNat ≤ 2 ^ 22 →
    Answers (.metResult c (some k) coarse) s fun t =>
      (t.cell c).hits = (s.cell c).hits + 1 ∧ histAt t c k.toNat = histAt s c k.toNat + 1 ∧ (t.cell c).pilotN = (s.cell c).pilotN ∧ t.met.slots = s.met.slots ∧
      IndKeep [(4, bankAddr c 2 k.toNat)] s t ∧
      Touches [.ind, .met] [whole (Reg.MET_CELL_RESULTS_LO c), whole (Reg.MET_CELL_RESULTS_LO c + 1), whole (Reg.MET_CELL_INVALID c), F.MET_INT_STATUS_FLOOR_ERR, F.MET_INT_STATUS_CNT_OVF] s t) ∧
  (∀ (s : State) (c : Fin 32) (k : BitVec 12) (coarse : Nat), s.pwr.mainUp = true → slotUse s c = .random → 2 ^ 22 ≤ (s.cell c).hits →
    Answers (.metResult c (some k) coarse) s fun t => t.ind = s.ind ∧ (t.cell c).hits = (s.cell c).hits)

/-- The schedule and the source slots (R207 to R209, R218, R220, R226): COMMIT takes the shadow's ROUND_LEN and entries if ROUND_LEN is an odd multiple of 16 up to 1,008 and names no source in pair 15 while the external channel is
enabled, else SCHED_REJECT; the copy comes into use at the round boundary, every cross-check window restarts, and LOAD states its load; a write of MET_SRC_CFG clears the slot; a slot without
a valid result loses VALID unless R217 holds its mean stale now; slot 32n + c is served by cell c, and each 1,024th cycle of a cell is for the pilot (R206, R210). The entries that count from the boundary's slot, and what a boundary does to the check windows, are the model's choice (log 11). -/
def Obligations.ScheduleAndSources : Prop :=
  (∀ (s : State) (ag : Agent) (d : Word), s.pwr.mainUp = true → pf1Denied ag (Reg.MET_BANK_CTRL) s = false → bits d 0 10 % 32 = 16 → bits d 0 10 ≤ 1008 →
      (s.flag F.MET_EXT_CTRL_EN = false ∨ pair15Used s 0 ((List.range (bits d 0 10)).map fun e => s.reg (Reg.MET_SCHED e)) = false) →
    Answers (.metCommit ag d) s fun t =>
      t.met = { s.met with waiting := some (bits d 0 10, (List.range (bits d 0 10)).map fun e => s.reg (Reg.MET_SCHED e)) } ∧
      t.flag F.MET_BANK_STATUS_COMMIT_PENDING = true ∧ Touches [.met] [F.MET_BANK_CTRL_ROUND_LEN, F.MET_BANK_STATUS_COMMIT_PENDING] s t) ∧
  (∀ (s : State) (ag : Agent) (d : Word), s.pwr.mainUp = true → pf1Denied ag (Reg.MET_BANK_CTRL) s = false → (bits d 0 10 % 32 ≠ 16 ∨ 1008 < bits d 0 10 ∨
      (s.flag F.MET_EXT_CTRL_EN = true ∧ pair15Used s 0 ((List.range (bits d 0 10)).map fun e => s.reg (Reg.MET_SCHED e)) = true)) →
    Answers (.metCommit ag d) s fun t =>
      t.flag F.MET_INT_STATUS_SCHED_REJECT = true ∧ Touches [] [F.MET_BANK_CTRL_ROUND_LEN, F.MET_INT_STATUS_SCHED_REJECT] s t) ∧
  (∀ (s : State) (n : Nat) (ws : List Word), s.pwr.mainUp = true → s.met.waiting = some (n, ws) →
    Answers .schedCommit s fun t =>
      t.met.sched = (n, ws) ∧ t.met.waiting = none ∧ t.fld F.MET_BANK_STATUS_ROUND_ACTIVE = n % 1024 ∧ t.flag F.MET_BANK_STATUS_COMMIT_PENDING = false ∧
      t.flag F.MET_INT_STATUS_SCHED_COMMIT = true ∧ t.met.ext.own = s.flag F.MET_EXT_CTRL_EN ∧
      t.fld F.MET_BANK_STATUS_LOAD = min 255 (busyEntries s (s.flag F.MET_EXT_CTRL_EN) n ws * 256 / n) ∧
      (∀ i ∈ List.range 1024, (t.slot i).win = [] ∧ ((∀ c ∈ List.range 32, cellAway s c = false) → (t.slot i).vals = (s.slot i).vals)) ∧
      (∀ c ∈ List.range 32, (t.cell c).pilotN = (s.cell c).pilotN ∧ (t.cell c).cycle = (t.met.origin + 31 - c) / 32) ∧
      Touches [.met] ([F.MET_BANK_STATUS_ROUND_ACTIVE, F.MET_BANK_STATUS_LOAD, F.MET_BANK_STATUS_COMMIT_PENDING, F.MET_INT_STATUS_SCHED_COMMIT, F.MET_CELL_STATUS_STATE 15,
        F.MET_CELL_STATUS_STATE 31] ++ (List.range 1024).map F.MET_SRC_LAST_STALE) s t) ∧
  (∀ (s : State), s.pwr.mainUp = true → s.met.waiting = none →
    Answers .schedCommit s fun t =>
      t.met.sched = s.met.sched ∧ t.met.ext.own = s.flag F.MET_EXT_CTRL_EN ∧ t.met.slots = s.met.slots ∧
      Touches [.met] [F.MET_BANK_STATUS_LOAD, F.MET_CELL_STATUS_STATE 15, F.MET_CELL_STATUS_STATE 31] s t) ∧
  (∀ (s : State) (ag : Agent) (i : Fin 1024) (d : Word), s.pwr.mainUp = true → pf1Denied ag (Reg.MET_SRC_CFG i) s = false →
    Answers (.metSrcCfgWrite ag i d) s fun t =>
      t.slot i = { stale := sourceHeld t i } ∧ t.flag (F.MET_SRC_LAST_STALE i) = sourceHeld t i ∧ t.reg (Reg.MET_SRC_MEAN i) = 0 ∧ t.fld (F.MET_SRC_CFG_LANE i) = (if 767 < bits d 16 10 ∨ (31 < bits d 16 10 ∧ (bits d 0 3 = 3 ∨ bits d 0 3 = 4)) then 0 else bits d 16 10) ∧
      t.fld (F.MET_SRC_CFG_TYPE i) = (if 767 < bits d 16 10 ∨ (31 < bits d 16 10 ∧ (bits d 0 3 = 3 ∨ bits d 0 3 = 4)) ∨ 4 < bits d 0 3 then 0 else bits d 0 3) ∧
      (∀ j ∈ List.range 1024, j ≠ i.val → t.slot j = s.slot j) ∧
      Touches [.met] [whole (Reg.MET_SRC_CFG i), whole (Reg.MET_SRC_MEAN i), F.MET_SRC_LAST_STALE i, F.MET_BANK_STATUS_LOAD] s t) ∧
  (∀ (s : State) (i : Fin 1024), s.pwr.mainUp = true →
    Answers (.meanValidTimeout i) s fun t =>
      t.flag (F.MET_SRC_MEAN_VALID i) = (s.flag (F.MET_SRC_MEAN_VALID i) && sourceHeld s i) ∧ Touches [] [F.MET_SRC_MEAN_VALID i] s t) ∧
  (∀ (s : State) (c : Fin 32) (e : Word), s.rbit Reg.MET_CELL_PROOF c = false → s.met.ext.own = false → (s.cell c).cycle % 1024 ≠ 1023 → cellOut s c = false →
      s.met.sched.2[(32 * (s.cell c).cycle + c.val - s.met.origin) % s.met.sched.1]? = some e → e.getLsbD 31 = true → s.fld (F.MET_SRC_CFG_TYPE (bits e 0 10)) ≠ 0 →
    slotUse s c = .source (bits e 0 10) (traced s c)) ∧
  (∀ (s : State) (c : Fin 32), s.rbit Reg.MET_CELL_PROOF c = false → s.met.ext.own = false → (s.cell c).cycle % 1024 = 1023 → slotUse s c = .pilot)

/-- Bin tables and the cross-check (R211 to R216, R222 to R225): a table that is not non-decreasing is rejected; an accepted one exchanges at the slot boundary; a code-density run starts with an empty histogram and ends with the staged table that
R224 builds and the result of the tests of R225; a cell that is out returns on its bit only after an accepted run; a check window in which TCLK changed over is not compared; a pair that
fails in COUNT windows in a row is declared, with the one cell that fails the pilot taken out. Table words of 21 bits, the median of an even number of pilot means and how failing windows count are the model's choice (log 11). -/
def Obligations.TablesAndCells : Prop :=
  (∀ (s : State) (ag : Agent) (d : Word), s.pwr.mainUp = true → pf1Denied ag (Reg.MET_TABLE_LOAD) s = false →
    Answers (.tableLoad ag d) s fun t =>
      (∀ c ∈ List.range 32, (t.cell c).exch = ((s.cell c).exch || d.getLsbD c && ((List.range 4096).all fun k => decide (stagedAt s c k < 2 ^ 20)) && (List.range 4095).all fun k => decide (stagedAt s c k ≤ stagedAt s c (k + 1)))) ∧
      t.flag F.MET_INT_STATUS_TABLE_REJECT = (s.flag F.MET_INT_STATUS_TABLE_REJECT || (List.range 32).any fun c => d.getLsbD c &&
        !(((List.range 4096).all fun k => decide (stagedAt s c k < 2 ^ 20)) && (List.range 4095).all fun k => decide (stagedAt s c k ≤ stagedAt s c (k + 1)))) ∧
      t.met.slots = s.met.slots ∧ Touches [.met] [F.MET_INT_STATUS_TABLE_REJECT] s t) ∧
  (∀ (s : State) (c : Fin 32), s.pwr.mainUp = true → (s.cell c).exch = true →
    Answers (.tableExchange c) s fun t =>
      (∀ k ∈ List.range 4096, binAt t c k = stagedAt s c k ∧ stagedAt t c k = binAt s c k) ∧
      t.flag (F.MET_CELL_STATUS_NOMINAL c) = ((List.range 4096).all fun k => decide (stagedAt s c k = 256 * k)) ∧ (t.cell c).exch = false ∧
      (∀ j ∈ List.range 32, j ≠ c.val → t.cell j = s.cell j) ∧ Touches [.met] [F.MET_CELL_STATUS_NOMINAL c] s t) ∧
  (∀ (s : State) (ag : Agent) (d : Word), s.pwr.mainUp = true → pf1Denied ag (Reg.MET_CELL_RETURN) s = false →
    Answers (.cellReturn ag d) s fun t =>
      (∀ c ∈ List.range 32, cellOut t c = (cellOut s c && !(d.getLsbD c && s.flag (F.MET_CELL_STATUS_CD_ACCEPT c)))) ∧
      Touches [.met] (whole Reg.MET_CELL_OUT :: (List.range 32).map fun c => F.MET_CELL_STATUS_STATE c) s t) ∧
  (∀ (s : State) (ag : Agent) (d : Word), s.pwr.mainUp = true → pf1Denied ag (Reg.MET_CD_START) s = false → s.fld F.PRF_LIVE_STATE = 0 →
    Answers (.cdStart ag d) s fun t =>
      (∀ c ∈ List.range 32, cdBusy t c = (cdBusy s c || d.getLsbD c)) ∧
      (∀ c ∈ List.range 32, cdBusy s c = false → d.getLsbD c = true → (t.cell c).hits = 0 ∧ (∀ k ∈ List.range 4096, histAt t c k = 0)) ∧
      (∀ c ∈ List.range 32, (cdBusy s c = true ∨ d.getLsbD c = false) → t.cell c = s.cell c) ∧ Touches [.ind, .met] [whole Reg.MET_CD_BUSY] s t) ∧
  (∀ (s : State) (ag : Agent) (d : Word), s.pwr.mainUp = true → pf1Denied ag (Reg.MET_CD_START) s = false → s.fld F.PRF_LIVE_STATE ≠ 0 →
    Answers (.cdStart ag d) s fun t => t.flag F.PRF_INT_STATUS_HOST_CONFLICT = true ∧ Touches [] [F.PRF_INT_STATUS_HOST_CONFLICT] s t) ∧
  (∀ (s : State) (c : Fin 32), s.pwr.mainUp = true → cdBusy s c = true → 4194304 ≤ (s.cell c).hits → hasCell s.prf.run c = false →
    Answers (.cdDone c) s fun t =>
      cdBusy t c = false ∧ t.flag F.MET_INT_STATUS_CD_DONE = true ∧
      (∀ k ∈ List.range 4096, stagedAt t c k =
        (1048576 - s.fld F.MET_CD_SPAN_SPAN + ((((List.range k).map (histAt s c)).sum) * s.fld F.MET_CD_SPAN_SPAN + 2097152) / 4194304) % 2 ^ 21) ∧
      t.flag (F.MET_CELL_STATUS_CD_ACCEPT c) = decide (t.fld (F.MET_CELL_CD_CD_RESULT c) = 0) ∧
      (t.cell c).exch = ((s.cell c).exch || decide (t.fld (F.MET_CELL_CD_CD_RESULT c) = 0)) ∧
      (∀ k ∈ List.range 4096, binAt t c k = binAt s c k) ∧
      Touches [.ind, .met] [whole (Reg.MET_CELL_CD c), whole Reg.MET_CD_BUSY, F.MET_INT_STATUS_CD_DONE, F.MET_INT_STATUS_CD_REJECT, F.MET_CELL_STATUS_CD_ACCEPT c] s t) ∧
  (∀ (s : State), s.pwr.mainUp = true → s.met.switched = true →
    Answers .checkWindowEnd s fun t =>
      t.met.switched = false ∧ (∀ i ∈ List.range 1024, (t.slot i).win = []) ∧ (∀ c ∈ List.range 32, (t.cell c).pilotN = 0 ∧ (t.cell c).pilotFails = (s.cell c).pilotFails) ∧
      (∀ c ∈ List.range 32, (s.cell c).pilotN ≠ 0 → (t.reg (Reg.MET_CELL_PILOT c)).toNat = divRound ((s.cell c).pilotSum.toNat * 64) (25 * (s.cell c).pilotN) % 2 ^ 31) ∧
      Touches [.met] ((List.range 32).map fun c => whole (Reg.MET_CELL_PILOT c)) s t) ∧
  (∀ (s : State) (p : Fin 16), s.pwr.mainUp = true → s.met.switched = false → s.met.pairFails.length = 16 → pairFailsNow s p = true →
      s.fld F.MET_XCHK_CTRL_COUNT ≤ nth 0 s.met.pairFails p + 1 →
      pilotFailsNow s (median ((List.range 32).filterMap (pilotMean s))) p ≠ pilotFailsNow s (median ((List.range 32).filterMap (pilotMean s))) (p + 16) →
    Answers .checkWindowEnd s fun t =>
      t.flag F.MET_INT_STATUS_XCHK_FAIL = true ∧ t.flag F.MET_INT_STATUS_CELL_OUT = true ∧
      cellOut t (if pilotFailsNow s (median ((List.range 32).filterMap (pilotMean s))) p then p else p + 16) = true ∧
      (∀ c ∈ List.range 32, cellOut s c = true → cellOut t c = true) ∧ Within [.regs, .met, .loop, .twin] s t) ∧
  (∀ (s : State), s.pwr.mainUp = true → s.met.switched = false → (∀ p ∈ List.range 16, pairFailsNow s p = false) →
      (∀ c ∈ List.range 32, pilotFailsNow s (median ((List.range 32).filterMap (pilotMean s))) c = false) → s.fld F.MET_XCHK_CTRL_COUNT ≠ 0 →
    Answers .checkWindowEnd s fun t =>
      (∀ p ∈ List.range 16, nth 0 t.met.pairFails p = 0) ∧ (∀ c ∈ List.range 32, (t.cell c).pilotFails = 0) ∧ t.met.suspect = s.met.suspect ∧
      Touches [.met] ((List.range 32).map fun c => whole (Reg.MET_CELL_PILOT c)) s t)

/-- The external channel (R226 to R231): EN is refused while pair 15 serves a source or a run; ARM is refused with EN 0, during a measurement, with 16 results or without the reference it needs; the gate, the start and the stop edge are
taken in this order, by the pin, polarity or on-die source that the controls choose (R575), a stop edge sooner than 6 TCLK after the start only noted; a completed measurement pushes its records and INTERVAL, a timeout or a lost reference ends it with INTERVAL 0 and its flag; ABANDON ends it without a result; POP removes the oldest. The stop input of a
self-test whatever STOP_SRC says, codes below FLOOR that are not taken and the order of the bits of MET_EXT_CMD are the model's choice (log 11). -/
def Obligations.ExternalChannel : Prop :=
  (∀ (s : State) (ag : Agent) (d : Word), s.pwr.mainUp = true → pf1Denied ag (Reg.MET_EXT_CTRL) s = false → s.flag F.MET_EXT_CTRL_EN = false → d.getLsbD 0 = true →
      (pair15Used s 0 s.met.sched.2 = true ∨ cdBusy s 15 = true ∨ cdBusy s 31 = true ∨ cellState s 15 = 2 ∨ cellState s 31 = 2) →
    Answers (.metExtEnWrite ag d) s fun t =>
      t.flag F.MET_EXT_CTRL_EN = false ∧ t.flag F.MET_INT_STATUS_EXT_REJECT = true ∧ Touches [] [whole Reg.MET_EXT_CTRL, F.MET_INT_STATUS_EXT_REJECT] s t) ∧
  (∀ (s : State) (ag : Agent) (d : Word), s.pwr.mainUp = true → pf1Denied ag (Reg.MET_EXT_CTRL) s = false → s.met.waiting = none → pair15Used s 0 s.met.sched.2 = false → cdBusy s 15 = false →
      cdBusy s 31 = false → cellState s 15 ≠ 2 → cellState s 31 ≠ 2 →
    Answers (.metExtEnWrite ag d) s fun t =>
      t.reg Reg.MET_EXT_CTRL = (s.reg Reg.MET_EXT_CTRL &&& ~~~0x1F#32) ||| (d &&& 0x1F#32) ∧ Touches [] [whole Reg.MET_EXT_CTRL] s t) ∧
  (∀ (s : State) (ps : List Nat), s.pwr.mainUp = true → s.flag F.MET_EXT_STATUS_REF_PRESENT = false → ps.length = 16 →
      (∀ p ∈ ps, s.fld F.MET_EXT_REF_PMIN ≤ p ∧ p ≤ s.fld F.MET_EXT_REF_PMAX) →
    Answers (.extRefUp ps) s fun t =>
      t.flag F.MET_EXT_STATUS_REF_PRESENT = true ∧ t.flag F.MET_INT_STATUS_EXT_REF_UP = true ∧
      Touches [] [F.MET_EXT_STATUS_REF_PRESENT, F.MET_INT_STATUS_EXT_REF_UP] s t) ∧
  (∀ (s : State) (ps : List Nat), s.pwr.mainUp = true → (∃ p ∈ ps, p < s.fld F.MET_EXT_REF_PMIN ∨ s.fld F.MET_EXT_REF_PMAX < p) →
    Answers (.extRefUp ps) s fun t => t = s) ∧
  (∀ (s : State) (since : Nat) (edge : Bool), s.pwr.mainUp = true → s.flag F.MET_EXT_STATUS_REF_PRESENT = true → (s.met.ext.phase = .idle ∨ s.flag F.MET_EXT_CTRL_STOP_SRC = false) →
      (if edge then since < s.fld F.MET_EXT_REF_PMIN ∨ s.fld F.MET_EXT_REF_PMAX < since else 2 * s.fld F.MET_EXT_REF_PMAX ≤ since) →
    Answers (.extRefDown since edge) s fun t =>
      t.flag F.MET_EXT_STATUS_REF_PRESENT = false ∧ t.flag F.MET_INT_STATUS_EXT_REF_DOWN = true ∧
      Touches [] [F.MET_EXT_STATUS_REF_PRESENT, F.MET_INT_STATUS_EXT_REF_DOWN] s t) ∧
  (∀ (s : State) (since : Nat) (edge : Bool), s.pwr.mainUp = true → s.flag F.MET_EXT_STATUS_REF_PRESENT = true → s.met.ext.phase ≠ .idle → s.flag F.MET_EXT_CTRL_STOP_SRC = true →
      (if edge then since < s.fld F.MET_EXT_REF_PMIN ∨ s.fld F.MET_EXT_REF_PMAX < since else 2 * s.fld F.MET_EXT_REF_PMAX ≤ since) →
    Answers (.extRefDown since edge) s fun t =>
      t.met.ext.phase = .idle ∧ t.met.ext.fifo.dropLast = s.met.ext.fifo ∧
      (t.met.ext.fifo.getLast?.map fun r => (r.interval, r.stop, r.flags % 4)) = some (0, (s.met.ext.stop.map ExtEdge.words).getD [0, 0, 0, 0], 2) ∧
      t.flag F.MET_INT_STATUS_EXT_DONE = true ∧ t.flag F.MET_INT_STATUS_EXT_TIMEOUT = true ∧
      Touches [.met] [F.MET_EXT_STATUS_REF_PRESENT, F.MET_INT_STATUS_EXT_REF_DOWN, F.MET_INT_STATUS_EXT_DONE, F.MET_INT_STATUS_EXT_TIMEOUT] s t) ∧
  (∀ (s : State) (since : Nat), s.pwr.mainUp = true → s.fld F.MET_EXT_REF_PMIN ≤ since → since ≤ s.fld F.MET_EXT_REF_PMAX →
    Answers (.extRefDown since true) s fun t => t = s) ∧
  (∀ (s : State) (ag : Agent) (d : Word), s.pwr.mainUp = true → pf1Denied ag (Reg.MET_EXT_CMD) s = false → bits d 1 2 = 0 → s.flag F.MET_EXT_CTRL_EN = true → s.met.ext.phase = .idle → s.met.ext.fifo.length < 16 →
      (s.flag F.MET_EXT_CTRL_STOP_SRC = false ∨ s.flag F.MET_EXT_STATUS_REF_PRESENT = true) →
    Answers (.arm ag d) s fun t =>
      t.met = { s.met with ext := { s.met.ext with phase := if s.flag F.MET_EXT_CTRL_GATE_MODE then .gate else .armed } } ∧ Within [.met] s t) ∧
  (∀ (s : State) (ag : Agent) (d : Word), s.pwr.mainUp = true → pf1Denied ag (Reg.MET_EXT_CMD) s = false → bits d 1 2 = 0 → (s.flag F.MET_EXT_CTRL_EN = false ∨ s.met.ext.phase ≠ .idle ∨ 16 ≤ s.met.ext.fifo.length ∨
      (s.flag F.MET_EXT_CTRL_STOP_SRC = true ∧ s.flag F.MET_EXT_STATUS_REF_PRESENT = false)) →
    Answers (.arm ag d) s fun t => t.flag F.MET_INT_STATUS_EXT_REJECT = true ∧ Touches [] [F.MET_INT_STATUS_EXT_REJECT] s t) ∧
  (∀ (s : State), s.pwr.mainUp = true → s.met.ext.phase = .gate →
    Answers (.extGateEdge true) s fun t => t.met = { s.met with ext := { s.met.ext with phase := .armed } } ∧ Within [.met] s t) ∧
  (∀ (s : State) (onDie rising : Bool) (k : BitVec 12) (coarse : Nat), s.pwr.mainUp = true → s.met.ext.own = true → s.met.ext.phase = .armed →
      (if s.flag F.TST_MET_CTRL_EXT_SELF then onDie = true else onDie = false ∧ rising ≠ s.flag F.MET_EXT_CTRL_START_POL) → s.fld (F.MET_CELL_FLOOR_FLOOR 15) ≤ k.toNat →
    Answers (.extStartEdge onDie rising k coarse) s fun t =>
      t.met.ext = { s.met.ext with phase := .started, start := some (extEdge 15 k.toNat coarse s) } ∧
      Touches [.met] [whole (Reg.MET_CELL_RESULTS_LO 15), whole (Reg.MET_CELL_RESULTS_LO 15 + 1), F.MET_INT_STATUS_CNT_OVF] s t) ∧
  (∀ (s : State) (onDie rising : Bool) (k : BitVec 12) (coarse : Nat), s.pwr.mainUp = true →
      (if s.flag F.TST_MET_CTRL_EXT_SELF then onDie = false else onDie = true ∨ rising = s.flag F.MET_EXT_CTRL_START_POL) →
    Answers (.extStartEdge onDie rising k coarse) s fun t => t = s) ∧
  (∀ (s : State) (onDie rising : Bool) (k : BitVec 12) (coarse : Nat), s.pwr.mainUp = true → s.met.ext.own = true → s.met.ext.phase = .armed →
      (if s.flag F.TST_MET_CTRL_EXT_SELF then onDie = true else onDie = false ∧ rising ≠ s.flag F.MET_EXT_CTRL_START_POL) → k.toNat < s.fld (F.MET_CELL_FLOOR_FLOOR 15) →
    Answers (.extStartEdge onDie rising k coarse) s fun t =>
      t.met = s.met ∧ t.reg (Reg.MET_CELL_INVALID 15) = s.reg (Reg.MET_CELL_INVALID 15) + 1 ∧ t.flag F.MET_INT_STATUS_FLOOR_ERR = true ∧
      Touches [] [whole (Reg.MET_CELL_INVALID 15), F.MET_INT_STATUS_FLOOR_ERR, F.MET_INT_STATUS_CNT_OVF] s t) ∧
  (∀ (s : State) (src : StopSrc) (rising : Bool) (k : BitVec 12) (coarse : Nat) (a : ExtEdge), s.pwr.mainUp = true → s.met.ext.own = true → s.met.ext.phase = .started →
      s.met.ext.start = some a → s.met.ext.stop = none → stopSeen s src rising = true → src ≠ .onDie → (coarse % 2 ^ 32 + 2 ^ 32 - a.edge) % 2 ^ 32 < 6 →
    Answers (.extStopEdge src rising k coarse) s fun t => t.met.ext = { s.met.ext with early := true } ∧ Within [.met] s t) ∧
  (∀ (s : State) (src : StopSrc) (rising : Bool) (k : BitVec 12) (coarse : Nat) (a : ExtEdge), s.pwr.mainUp = true → s.met.ext.own = true → s.met.ext.phase = .started →
      s.met.ext.start = some a → s.met.ext.stop = none → stopSeen s src rising = true → 6 ≤ (coarse % 2 ^ 32 + 2 ^ 32 - a.edge) % 2 ^ 32 →
      (src = .onDie → (coarse % 2 ^ 32 + 2 ^ 32 - a.edge) % 2 ^ 32 = 8) → s.fld (F.MET_CELL_FLOOR_FLOOR 31) ≤ k.toNat →
    Answers (.extStopEdge src rising k coarse) s fun t =>
      t.met.ext = { s.met.ext with stop := some (extEdge 31 k.toNat coarse s) } ∧
      Touches [.met] [whole (Reg.MET_CELL_RESULTS_LO 31), whole (Reg.MET_CELL_RESULTS_LO 31 + 1), F.MET_INT_STATUS_CNT_OVF] s t) ∧
  (∀ (s : State) (src : StopSrc) (rising : Bool) (k : BitVec 12) (coarse : Nat), s.pwr.mainUp = true →
      ((src = .stop ∧ (s.flag F.MET_EXT_CTRL_STOP_SRC = true ∨ rising = s.flag F.MET_EXT_CTRL_STOP_POL)) ∨ (src = .ref ∧ (s.flag F.MET_EXT_CTRL_STOP_SRC = false ∨ rising = false)) ∨
        (src ≠ .onDie ∧ s.flag F.TST_MET_CTRL_EXT_SELF = true) ∨ (src = .onDie ∧ s.flag F.TST_MET_CTRL_EXT_SELF = false)) →
    Answers (.extStopEdge src rising k coarse) s fun t => t = s) ∧
  (∀ (s : State) (a b : ExtEdge), s.pwr.mainUp = true → s.met.ext.start = some a → s.met.ext.stop = some b →
    Answers .extDone s fun t =>
      t.met.ext = { s.met.ext with phase := .idle, start := none, stop := none, early := false, fifo := s.met.ext.fifo ++
        [⟨a.words, b.words, toBits 64 (Int.fdiv (2 * ((((b.coarse + 2 ^ 32 - a.coarse) % 2 ^ 32 * 32 * 2 ^ 20 : Nat) : Int) + ((b.p : Int) - (a.p : Int)) * 64) + 25) 50),
          (if a.uncal || b.uncal then 4 else 0) + (if s.met.ext.early then 8 else 0)⟩] } ∧
      t.flag F.MET_INT_STATUS_EXT_DONE = true ∧ Touches [.met] [F.MET_INT_STATUS_EXT_DONE] s t) ∧
  (∀ (s : State), s.pwr.mainUp = true → (s.met.ext.phase = .armed ∨ s.met.ext.phase = .started) → s.met.ext.stop = none → s.fld F.MET_EXT_TIMEOUT_US ≠ 0 →
    Answers .extTimeout s fun t =>
      t.met.ext.phase = .idle ∧ t.met.ext.fifo.dropLast = s.met.ext.fifo ∧ (t.met.ext.fifo.getLast?.map fun r => (r.interval, r.stop, r.flags % 4)) = some (0, [0, 0, 0, 0], 1) ∧
      t.flag F.MET_INT_STATUS_EXT_DONE = true ∧ t.flag F.MET_INT_STATUS_EXT_TIMEOUT = true ∧ Touches [.met] [F.MET_INT_STATUS_EXT_DONE, F.MET_INT_STATUS_EXT_TIMEOUT] s t) ∧
  (∀ (s : State) (ag : Agent) (d : Word), s.pwr.mainUp = true → pf1Denied ag (Reg.MET_EXT_CMD) s = false → d.getLsbD 0 = false → d.getLsbD 2 = false →
    Answers (.abandon ag d) s fun t =>
      t.met.ext = { s.met.ext with phase := .idle, start := none, stop := none, early := false } ∧ Within [.met] s t) ∧
  (∀ (s : State) (ag : Agent) (d : Word), s.pwr.mainUp = true → pf1Denied ag (Reg.MET_EXT_CMD) s = false → bits d 0 2 = 0 →
    Answers (.metExtPop ag d) s fun t => t.met.ext = { s.met.ext with fifo := s.met.ext.fifo.drop 1 } ∧ Within [.met] s t)

/-- R233, with R232: a write of MPD or COEF forms COEF × MPD, COEF signed in units of 2^−40 and MPD unsigned in units of 2^−12 ns, in signed units of 2^−16 ns (rounded to the nearest, the model's choice, log 11); a product outside the
signed 32-bit range is held at its end and sets ASYM_SAT. -/
def Obligations.AsymmetryProductsSaturate : Prop :=
  (∀ (s : State) (ag : Agent) (p : Fin 416) (d : Word) (y : Int), s.pwr.mainUp = true → pf1Denied ag (Reg.MET_PORT_MPD p) s = false →
      y = (signed 32 (s.reg (Reg.MET_PORT_ASYM_COEF p)).toNat * (d.toNat : Int) * 32 + 2 ^ 40) / 2 ^ 41 →
    Answers (.asymUpdate ag p true d) s fun t =>
      signed 32 (t.reg (Reg.MET_PORT_ASYM p)).toNat = (if y < -(2 ^ 31) then -(2 ^ 31) else if 2 ^ 31 ≤ y then 2 ^ 31 - 1 else y) ∧
      t.flag F.MET_INT_STATUS_ASYM_SAT = (s.flag F.MET_INT_STATUS_ASYM_SAT || decide (y < -(2 ^ 31) ∨ 2 ^ 31 ≤ y)) ∧ t.reg (Reg.MET_PORT_MPD p) = d ∧
      Touches [] [whole (Reg.MET_PORT_MPD p), whole (Reg.MET_PORT_ASYM p), F.MET_INT_STATUS_ASYM_SAT] s t) ∧
  (∀ (s : State) (ag : Agent) (p : Fin 416) (d : Word) (y : Int), s.pwr.mainUp = true → pf1Denied ag (Reg.MET_PORT_ASYM_COEF p) s = false →
      y = (signed 32 d.toNat * ((s.reg (Reg.MET_PORT_MPD p)).toNat : Int) * 32 + 2 ^ 40) / 2 ^ 41 →
    Answers (.asymUpdate ag p false d) s fun t =>
      signed 32 (t.reg (Reg.MET_PORT_ASYM p)).toNat = (if y < -(2 ^ 31) then -(2 ^ 31) else if 2 ^ 31 ≤ y then 2 ^ 31 - 1 else y) ∧
      t.flag F.MET_INT_STATUS_ASYM_SAT = (s.flag F.MET_INT_STATUS_ASYM_SAT || decide (y < -(2 ^ 31) ∨ 2 ^ 31 ≤ y)) ∧ t.reg (Reg.MET_PORT_ASYM_COEF p) = d ∧
      Touches [] [whole (Reg.MET_PORT_ASYM_COEF p), whole (Reg.MET_PORT_ASYM p), F.MET_INT_STATUS_ASYM_SAT] s t)

/-- R311: while a run is in progress, EN is 0, the loop's STATE is 6 or 7, EVT_FLAG is 1 or MET_CD_BUSY is not zero, a trigger makes a run pending and adds its CAUSE bit, and STATE reads 1 where no run is in progress; with none
of them it starts a run. A pending run starts when none holds; CLR_PENDING withdraws it with its CAUSE bits; ABORT, CLR_PENDING and START of one write act in this order. -/
def Obligations.ProofingRunsPend : Prop :=
  (∀ (s : State) (ag : Agent) (d : Word), s.pwr.mainUp = true → pf1Denied ag Reg.PRF_CMD s = false → bits d 1 2 = 0 → (s.prf.mode ≠ 0 ∨ s.flag F.PRF_CTRL_EN = false ∨ 6 ≤ s.fld F.LOOP_STATUS_STATE ∨ s.flag F.PWR_LIVE_EVT_FLAG = true ∨ s.reg Reg.MET_CD_BUSY ≠ 0) →
    Answers (.prfStart ag d) s fun t =>
      t.prf = { s.prf with pend := true, causePend := s.prf.causePend ||| 2 } ∧ t.flag F.PRF_LIVE_PENDING = true ∧
      (s.prf.mode = 0 → t.fld F.PRF_LIVE_STATE = 1 ∧ t.fld F.PRF_LIVE_CAUSE = (s.prf.causePend ||| 2) % 32) ∧ Touches [.prf] [F.PRF_LIVE_STATE, F.PRF_LIVE_PENDING, F.PRF_LIVE_CAUSE] s t) ∧
  (∀ (s : State) (ag : Agent) (d : Word), s.pwr.mainUp = true → pf1Denied ag Reg.PRF_CMD s = false → bits d 1 2 = 0 → s.prf.mode = 0 → s.flag F.PRF_CTRL_EN = true → s.fld F.LOOP_STATUS_STATE < 6 → s.flag F.PWR_LIVE_EVT_FLAG = false → s.reg Reg.MET_CD_BUSY = 0 →
    Answers (.prfStart ag d) s fun t => t.flag F.PRF_INT_STATUS_RUN_START = true ∧ t.prf.pend = false ∧ t.prf.causeRun = s.prf.causePend ||| 2) ∧
  (∀ (s : State), s.pwr.mainUp = true → s.prf.pend = true → s.prf.mode = 0 → s.flag F.PRF_CTRL_EN = true → s.fld F.LOOP_STATUS_STATE < 6 → s.flag F.PWR_LIVE_EVT_FLAG = false → s.reg Reg.MET_CD_BUSY = 0 →
    Answers .runStart s fun t => t.flag F.PRF_INT_STATUS_RUN_START = true ∧ t.prf.pend = false ∧ t.prf.causeRun = s.prf.causePend) ∧
  (∀ (s : State), s.pwr.mainUp = true → (s.prf.pend = false ∨ (s.prf.mode ≠ 0 ∨ s.flag F.PRF_CTRL_EN = false ∨ 6 ≤ s.fld F.LOOP_STATUS_STATE ∨ s.flag F.PWR_LIVE_EVT_FLAG = true ∨ s.reg Reg.MET_CD_BUSY ≠ 0)) →
    Answers .runStart s fun t => t = s) ∧
  (∀ (s : State) (ag : Agent) (d : Word), s.pwr.mainUp = true → pf1Denied ag Reg.PRF_CMD s = false → d.getLsbD 0 = false → d.getLsbD 1 = false →
    Answers (.clrPending ag d) s fun t =>
      t.prf = { s.prf with pend := false, causePend := 0 } ∧ t.flag F.PRF_LIVE_PENDING = false ∧ (s.prf.mode = 0 → t.fld F.PRF_LIVE_STATE = 0) ∧ Touches [.prf] [F.PRF_LIVE_STATE, F.PRF_LIVE_PENDING, F.PRF_LIVE_CAUSE] s t) ∧
  (∀ (s : State) (ag : Agent) (d : Word), s.pwr.mainUp = true → pf1Denied ag Reg.PRF_CMD s = false → bits d 0 3 = 7 → s.prf.mode ≠ 0 → s.flag F.PRF_CTRL_EN = false →
    Answers (.prfStart ag d) s fun t =>
      t.flag F.PRF_INT_STATUS_RUN_ABANDON = true ∧ t.prf.mode = 0 ∧ t.prf.pend = true ∧ t.prf.causePend = 2 ∧ t.fld F.PRF_LIVE_STATE = 1)

/-- Proofing runs (R309, R310, R312 to R314, R318 to R321): the temperature trigger is tested at each update of NOW, the interval trigger when MAX_INTERVAL_S elapses; a run with LOAD at 192 or less starts every cell at once without a hold; above
it, with no idle pair, HOLD_PAIRS pairs are held at once; a cell whose table is accepted sets its DONE_MASK bit, a rejected one its REJECT_MASK bit and starts again up to RETRY times, and then is
taken out; ABORT stops the run with CD_RESULT 7, releases what it held and counts it. -/
def Obligations.ProofingRuns : Prop :=
  (∀ (s : State) (now : Int), s.pwr.mainUp = true → (s.flag F.PRF_CTRL_TEMP_EN = false ∨ s.flag F.PRF_TEMP_REF_VALID = false ∨
      (now - signed 12 (s.fld F.PRF_TEMP_REF)).natAbs ≤ s.fld F.PRF_TRIG_DELTA_T) →
    Answers (.prfTempUpdate now) s fun t => t.fld F.PRF_TEMP_NOW = toBits 12 now ∧ Touches [] [F.PRF_TEMP_NOW] s t) ∧
  (∀ (s : State) (now : Int), s.pwr.mainUp = true → s.flag F.PRF_CTRL_TEMP_EN = true → s.flag F.PRF_TEMP_REF_VALID = true →
      s.fld F.PRF_TRIG_DELTA_T < (now - signed 12 (s.fld F.PRF_TEMP_REF)).natAbs → (s.prf.mode ≠ 0 ∨ s.flag F.PRF_CTRL_EN = false ∨ 6 ≤ s.fld F.LOOP_STATUS_STATE ∨ s.flag F.PWR_LIVE_EVT_FLAG = true ∨ s.reg Reg.MET_CD_BUSY ≠ 0) →
    Answers (.prfTempUpdate now) s fun t =>
      t.prf = { s.prf with pend := true, causePend := s.prf.causePend ||| 1 } ∧ Touches [.prf] [F.PRF_TEMP_NOW, F.PRF_LIVE_STATE, F.PRF_LIVE_PENDING, F.PRF_LIVE_CAUSE] s t) ∧
  (∀ (s : State), s.pwr.mainUp = true → s.fld F.PRF_TRIG_MAX_INTERVAL_S ≠ 0 → (s.prf.mode ≠ 0 ∨ s.flag F.PRF_CTRL_EN = false ∨ 6 ≤ s.fld F.LOOP_STATUS_STATE ∨ s.flag F.PWR_LIVE_EVT_FLAG = true ∨ s.reg Reg.MET_CD_BUSY ≠ 0) →
    Answers .prfInterval s fun t => t.prf = { s.prf with pend := true, causePend := s.prf.causePend ||| 16 } ∧ Touches [.prf] [F.PRF_LIVE_STATE, F.PRF_LIVE_PENDING, F.PRF_LIVE_CAUSE] s t) ∧
  (∀ (s : State), s.pwr.mainUp = true → s.prf.pend = true → s.prf.mode = 0 → s.flag F.PRF_CTRL_EN = true → s.fld F.LOOP_STATUS_STATE < 6 → s.flag F.PWR_LIVE_EVT_FLAG = false → s.reg Reg.MET_CD_BUSY = 0 → s.flag F.PRF_CTRL_TRACE = false → s.fld F.PRF_CTRL_FORCE_MODE = 0 →
      s.fld F.MET_BANK_STATUS_LOAD ≤ 192 → (∀ p ∈ List.range 16, pairFull s p = false) → s.flag F.MET_EXT_CTRL_EN = false →
    Answers .runStart s fun t =>
      t.prf.mode = 2 ∧ t.fld F.PRF_LIVE_STATE = 2 ∧ t.reg Reg.MET_CD_BUSY = 0xFFFFFFFF ∧ t.reg Reg.MET_CELL_PROOF = s.reg Reg.MET_CELL_PROOF ∧
      t.reg Reg.PRF_DONE_MASK = 0 ∧ t.reg Reg.PRF_REJECT_MASK = 0 ∧ t.reg Reg.PRF_SKIP_MASK = 0 ∧ t.fld F.PRF_TEMP_REF = s.fld F.PRF_TEMP_NOW ∧
      t.flag F.PRF_TEMP_REF_VALID = true ∧ (∀ c ∈ List.range 32, (t.cell c).hits = 0) ∧ t.met.slots = s.met.slots ∧ Within [.regs, .ind, .met, .prf] s t) ∧
  (∀ (s : State), s.pwr.mainUp = true → s.prf.pend = true → s.prf.mode = 0 → s.flag F.PRF_CTRL_EN = true → s.fld F.LOOP_STATUS_STATE < 6 → s.flag F.PWR_LIVE_EVT_FLAG = false → s.reg Reg.MET_CD_BUSY = 0 → s.flag F.PRF_CTRL_TRACE = false → s.fld F.PRF_CTRL_FORCE_MODE = 0 →
      192 < s.fld F.MET_BANK_STATUS_LOAD → (∀ p ∈ List.range 16, pairIdle s p = false) → s.fld F.PRF_CTRL_HOLD_PAIRS = 1 →
    Answers .runStart s fun t =>
      t.prf.mode = 3 ∧ t.fld F.PRF_LIVE_STATE = 3 ∧ t.reg Reg.MET_CD_BUSY = 0x00010001 ∧ t.rbit Reg.MET_CELL_PROOF 0 = true ∧ t.rbit Reg.MET_CELL_PROOF 16 = true ∧
      t.prf.held = [0] ∧ Within [.regs, .ind, .met, .prf] s t) ∧
  (∀ (s : State) (c : Fin 32), s.pwr.mainUp = true → cdBusy s c = true → 4194304 ≤ (s.cell c).hits → hasCell s.prf.run c = true → hasCell s.prf.run (partner c) = true →
    Answers (.cdDone c) s fun t =>
      (t.flag (F.MET_CELL_STATUS_CD_ACCEPT c) = true → t.rbit Reg.PRF_DONE_MASK c = true ∧ hasCell t.prf.run c = false ∧ cdBusy t c = false) ∧
      (t.flag (F.MET_CELL_STATUS_CD_ACCEPT c) = false → t.rbit Reg.PRF_REJECT_MASK c = true ∧ t.flag F.PRF_INT_STATUS_CELL_REJECT = true) ∧
      (t.flag (F.MET_CELL_STATUS_CD_ACCEPT c) = false → nth 0 s.prf.tries c < s.prf.retry → cdBusy t c = true ∧ (t.cell c).hits = 0 ∧ hasCell t.prf.run c = true) ∧
      (t.flag (F.MET_CELL_STATUS_CD_ACCEPT c) = false → s.prf.retry ≤ nth 0 s.prf.tries c →
        cellOut t c = true ∧ t.flag F.PRF_INT_STATUS_CELL_FAIL = true ∧ hasCell t.prf.failed c = true ∧ hasCell t.prf.run c = false) ∧
      hasCell t.prf.run (partner c) = true ∧ t.prf.mode = s.prf.mode) ∧
  (∀ (s : State) (ag : Agent) (d : Word), s.pwr.mainUp = true → pf1Denied ag Reg.PRF_CMD s = false → bits d 0 3 = 0 → s.prf.mode ≠ 0 →
    Answers (.prfAbort ag d) s fun t =>
      t.prf.mode = 0 ∧ t.prf.run = 0 ∧ t.prf.held = [] ∧ t.fld F.PRF_LIVE_STATE = (if s.prf.pend then 1 else 0) ∧ t.flag F.PRF_INT_STATUS_RUN_ABANDON = true ∧
      t.reg Reg.PRF_ABANDON_COUNT = s.reg Reg.PRF_ABANDON_COUNT + 1 ∧
      (∀ c ∈ List.range 32, hasCell s.prf.run c = true → cdBusy s c = true → cdBusy t c = false ∧ t.fld (F.MET_CELL_CD_CD_RESULT c) = 7) ∧
      (∀ c ∈ List.range 32, hasCell s.prf.proofs c = true → t.rbit Reg.MET_CELL_PROOF c = false) ∧ t.ind = s.ind ∧ Within [.regs, .met, .prf] s t)

/-- References (R242, R255 to R258): presence and its loss, the windows of a REFIN, the 1 s frequency windows against the tolerance (6,000 ppb at most for a port reference), the timer, a jump, DISQUALIFY and RESTORE, and what a write of EN, SLOT
or FREQ_HZ does, each with its STATE, CAUSE and REF_CHANGE; a sample of the selected reference moves y within ±FREQ_LIMIT, and its error is
kept, LOOP_REF_PHASE being the mean of the last millisecond's (R279); a stale slot gives a port reference no sample, and a window of such samples alone counts for nothing (R317). That no
jump is tested before 16 samples, that writes of EN and SLOT count where they change the value, and the units of the integrator are the model's choice (log 15). -/
def Obligations.ReferencesQualify : Prop :=
  (∀ (s : State) (i : Fin 23), s.pwr.mainUp = true → s.fld (F.LOOP_REF_STATUS_STATE i) = 2 → s.fld (F.LOOP_REF_STATUS_QUAL_LEFT_S i) = 0 →
    Answers (.refQualified i) s fun t =>
      t.fld (F.LOOP_REF_STATUS_STATE i) = 3 ∧ t.fld (F.LOOP_REF_STATUS_QUAL_LEFT_S i) = 0 ∧ t.rbit Reg.LOOP_REF_INT_STATUS i = true ∧ Touches [] [F.LOOP_REF_STATUS_STATE i, ⟨Reg.LOOP_REF_INT_STATUS, i, 1⟩] s t) ∧
  (∀ (s : State) (i : Fin 23), s.pwr.mainUp = true → s.fld (F.LOOP_REF_STATUS_QUAL_LEFT_S i) ≠ 0 → Answers (.refQualified i) s fun t => t = s) ∧
  (∀ (s : State) (i : Fin 23) (f : Int), s.pwr.mainUp = true → s.flag (F.LOOP_REF_CFG_EN i) = true → s.flag (F.LOOP_REF_STATUS_PRESENT i) = true → s.fld (F.LOOP_REF_STATUS_STATE i) = 2 →
      windowSkipped s i = false → f.natAbs ≤ (if 4 ≤ i.val ∧ i.val < 20 then min (s.fld (F.LOOP_REF_TOL_TOL i)) 6000 else s.fld (F.LOOP_REF_TOL_TOL i)) * 65536 → f.natAbs < 2 ^ 31 →
    Answers (.refFreqWindowEnd i f) s fun t =>
      signed 32 (t.reg (Reg.LOOP_REF_FREQ i)).toNat = f ∧ t.fld (F.LOOP_REF_STATUS_QUAL_LEFT_S i) = s.fld (F.LOOP_REF_STATUS_QUAL_LEFT_S i) - 1 ∧ t.loop = (s.updRef i fun r => { r with taken := 0, skipped := false }).loop ∧
      Touches [.loop] [whole (Reg.LOOP_REF_FREQ i), F.LOOP_REF_STATUS_QUAL_LEFT_S i] s t) ∧
  (∀ (s : State) (i : Fin 23) (f : Int), s.pwr.mainUp = true → s.flag (F.LOOP_REF_CFG_EN i) = true → s.flag (F.LOOP_REF_STATUS_PRESENT i) = true → s.fld (F.LOOP_REF_STATUS_STATE i) = 3 →
      windowSkipped s i = false → (if 4 ≤ i.val ∧ i.val < 20 then min (s.fld (F.LOOP_REF_TOL_TOL i)) 6000 else s.fld (F.LOOP_REF_TOL_TOL i)) * 65536 < f.natAbs →
    Answers (.refFreqWindowEnd i f) s fun t =>
      t.fld (F.LOOP_REF_STATUS_STATE i) = 2 ∧ t.fld (F.LOOP_REF_STATUS_CAUSE i) = 2 ∧ t.fld (F.LOOP_REF_STATUS_QUAL_LEFT_S i) = (if i = 20 then s.fld F.SKY_REQUAL_SECONDS else s.fld (F.LOOP_REF_CFG_QUAL_S i)) % 4096 ∧ t.rbit Reg.LOOP_REF_INT_STATUS i = true ∧
      Touches [.loop] [whole (Reg.LOOP_REF_FREQ i), F.LOOP_REF_STATUS_STATE i, F.LOOP_REF_STATUS_CAUSE i, F.LOOP_REF_STATUS_QUAL_LEFT_S i, ⟨Reg.LOOP_REF_INT_STATUS, i, 1⟩] s t) ∧
  (∀ (s : State) (i : Fin 23) (f : Int), s.pwr.mainUp = true → s.flag (F.LOOP_REF_CFG_EN i) = true → s.flag (F.LOOP_REF_STATUS_PRESENT i) = true → s.fld (F.LOOP_REF_STATUS_STATE i) = 2 →
      windowSkipped s i = false → (if 4 ≤ i.val ∧ i.val < 20 then min (s.fld (F.LOOP_REF_TOL_TOL i)) 6000 else s.fld (F.LOOP_REF_TOL_TOL i)) * 65536 < f.natAbs →
    Answers (.refFreqWindowEnd i f) s fun t => t.fld (F.LOOP_REF_STATUS_QUAL_LEFT_S i) = (if i = 20 then s.fld F.SKY_REQUAL_SECONDS else s.fld (F.LOOP_REF_CFG_QUAL_S i)) % 4096 ∧ Touches [.loop] [whole (Reg.LOOP_REF_FREQ i), F.LOOP_REF_STATUS_QUAL_LEFT_S i] s t) ∧
  (∀ (s : State) (i : Fin 23) (f : Int), s.pwr.mainUp = true → s.flag (F.LOOP_REF_CFG_EN i) = true → s.flag (F.LOOP_REF_STATUS_PRESENT i) = true → windowSkipped s i = true →
    Answers (.refFreqWindowEnd i f) s fun t => t.loop = (s.updRef i fun r => { r with skipped := false }).loop ∧ Within [.loop] s t) ∧
  (∀ (s : State) (i : Fin 23) (x : Int), s.pwr.mainUp = true → 4 ≤ i.val → i.val < 20 → (s.slot (s.fld (F.LOOP_REF_CFG_SLOT i))).stale = true →
    Answers (.refSample i x) s fun t => t.loop = (s.updRef i fun r => { r with skipped := true }).loop ∧ Within [.loop] s t) ∧
  (∀ (s : State) (i : Fin 23), s.pwr.mainUp = true → presentNow i s = true → s.flag (F.LOOP_REF_STATUS_PRESENT i) = false → s.fld (F.LOOP_REF_STATUS_STATE i) = 1 →
    Answers (.refPresenceChange i true) s fun t =>
      t.flag (F.LOOP_REF_STATUS_PRESENT i) = true ∧ t.fld (F.LOOP_REF_STATUS_STATE i) = 2 ∧ t.fld (F.LOOP_REF_STATUS_QUAL_LEFT_S i) = (if i = 20 then s.fld F.SKY_REQUAL_SECONDS else s.fld (F.LOOP_REF_CFG_QUAL_S i)) % 4096 ∧ Touches [] [F.LOOP_REF_STATUS_PRESENT i, F.LOOP_REF_STATUS_STATE i, F.LOOP_REF_STATUS_QUAL_LEFT_S i, ⟨Reg.LOOP_REF_INT_STATUS, i, 1⟩] s t) ∧
  (∀ (s : State) (i : Fin 23), s.pwr.mainUp = true → presentNow i s = false → s.flag (F.LOOP_REF_STATUS_PRESENT i) = true → s.fld (F.LOOP_REF_STATUS_STATE i) = 3 →
    Answers (.refPresenceChange i false) s fun t =>
      t.flag (F.LOOP_REF_STATUS_PRESENT i) = false ∧ t.fld (F.LOOP_REF_STATUS_STATE i) = 1 ∧ t.fld (F.LOOP_REF_STATUS_CAUSE i) = 1 ∧ t.fld (F.LOOP_REF_STATUS_QUAL_LEFT_S i) = 0 ∧ (t.ref i).raws = [] ∧ (t.ref i).errs = [] ∧
      (∀ j ∈ List.range 23, j ≠ i.val → t.ref j = s.ref j) ∧ { t.loop with refs := s.loop.refs } = s.loop ∧ Touches [.loop] [F.LOOP_REF_STATUS_PRESENT i, F.LOOP_REF_STATUS_STATE i, F.LOOP_REF_STATUS_CAUSE i, F.LOOP_REF_STATUS_QUAL_LEFT_S i, ⟨Reg.LOOP_REF_INT_STATUS, i, 1⟩] s t) ∧
  (∀ (s : State) (k : Fin 4) (n : Nat), s.pwr.mainUp = true → s.fld (F.LOOP_REF_STATUS_STATE k) = 0 →
    Answers (.refinWindowEnd k n) s fun t =>
      (t.ref k).windows = (if (((n * 100000 : Nat) : Int) - (s.fld (F.LOOP_REF_FREQ_HZ_HZ k) : Int)).natAbs * 100 ≤ s.fld (F.LOOP_REF_FREQ_HZ_HZ k) + 10000000
        then min 16 ((s.ref k).windows + 1) else 0) ∧
      t.flag (F.LOOP_REF_STATUS_PRESENT k) = decide (16 ≤ (t.ref k).windows) ∧ Touches [.loop] [F.LOOP_REF_STATUS_PRESENT k] s t) ∧
  (∀ (s : State) (ag : Agent) (i : Fin 23) (d : Word), s.pwr.mainUp = true → pf1Denied ag (Reg.LOOP_REF_CFG i) s = false → s.flag (F.LOOP_REF_CFG_EN i) = true → d.getLsbD 0 = false →
    Answers (.refCfgWrite ag i 0 d) s fun t =>
      t.fld (F.LOOP_REF_STATUS_STATE i) = 0 ∧ t.fld (F.LOOP_REF_STATUS_QUAL_LEFT_S i) = 0 ∧ t.fld (F.LOOP_REF_CFG_RANK i) = bits d 1 4 ∧ Touches [] [whole (Reg.LOOP_REF_CFG i), F.LOOP_REF_STATUS_STATE i, F.LOOP_REF_STATUS_CAUSE i, F.LOOP_REF_STATUS_QUAL_LEFT_S i, ⟨Reg.LOOP_REF_INT_STATUS, i, 1⟩] s t) ∧
  (∀ (s : State) (ag : Agent) (i : Fin 23) (d : Word), s.pwr.mainUp = true → pf1Denied ag (Reg.LOOP_REF_CFG i) s = false → s.flag (F.LOOP_REF_CFG_EN i) = true → d.getLsbD 0 = true →
      bits d 6 10 = s.fld (F.LOOP_REF_CFG_SLOT i) →
    Answers (.refCfgWrite ag i 0 d) s fun t => t.fld (F.LOOP_REF_CFG_RANK i) = bits d 1 4 ∧ Touches [] [whole (Reg.LOOP_REF_CFG i)] s t) ∧
  (∀ (s : State) (ag : Agent) (i : Fin 23) (d : Word), s.pwr.mainUp = true → pf1Denied ag (Reg.LOOP_REF_CFG i) s = false → 20 ≤ i.val → d.getLsbD 0 = true →
      (s.flag (F.LOOP_REF_CFG_EN i) = false ∨ bits d 6 10 ≠ s.fld (F.LOOP_REF_CFG_SLOT i)) →
    Answers (.refCfgWrite ag i 0 d) s fun t =>
      t.fld (F.LOOP_REF_STATUS_STATE i) = (if presentNow i s then 2 else 1) ∧ t.fld (F.LOOP_REF_STATUS_CAUSE i) = 6 ∧ (t.ref i).raws = [] ∧ Touches [.loop] [whole (Reg.LOOP_REF_CFG i), F.LOOP_REF_STATUS_PRESENT i, F.LOOP_REF_STATUS_STATE i, F.LOOP_REF_STATUS_CAUSE i, F.LOOP_REF_STATUS_QUAL_LEFT_S i, ⟨Reg.LOOP_REF_INT_STATUS, i, 1⟩] s t) ∧
  (∀ (s : State) (ag : Agent) (i : Fin 23) (d : Word), s.pwr.mainUp = true → pf1Denied ag (Reg.LOOP_REF_FREQ_HZ i) s = false → i.val < 4 →
      ¬(bits d 0 29 % 1000 = 0 ∧ 1000000 ≤ bits d 0 29 ∧ bits d 0 29 ≤ 400000000) →
    Answers (.refCfgWrite ag i 1 d) s fun t => t.flag F.LOOP_INT_STATUS_CFG_REJECT = true ∧ Touches [] [F.LOOP_INT_STATUS_CFG_REJECT] s t) ∧
  (∀ (s : State) (ag : Agent) (i : Fin 23) (d : Word), s.pwr.mainUp = true → pf1Denied ag (Reg.LOOP_REF_FREQ_HZ i) s = false → i.val < 4 →
      bits d 0 29 % 1000 = 0 → 1000000 ≤ bits d 0 29 → bits d 0 29 ≤ 400000000 → s.flag (F.LOOP_REF_CFG_EN i) = true →
    Answers (.refCfgWrite ag i 1 d) s fun t =>
      t.fld (F.LOOP_REF_FREQ_HZ_HZ i) = bits d 0 29 ∧ t.flag (F.LOOP_REF_STATUS_PRESENT i) = false ∧ t.fld (F.LOOP_REF_STATUS_STATE i) = 1 ∧ t.fld (F.LOOP_REF_STATUS_CAUSE i) = 6 ∧ (t.ref i).windows = 0 ∧
      Touches [.loop] [F.LOOP_REF_FREQ_HZ_HZ i, F.LOOP_REF_STATUS_PRESENT i, F.LOOP_REF_STATUS_STATE i, F.LOOP_REF_STATUS_CAUSE i, F.LOOP_REF_STATUS_QUAL_LEFT_S i, ⟨Reg.LOOP_REF_INT_STATUS, i, 1⟩] s t) ∧
  (∀ (s : State) (ag : Agent) (i : Fin 23) (d : Word), s.pwr.mainUp = true → pf1Denied ag (Reg.LOOP_REF_CMD i) s = false → s.fld (F.LOOP_REF_STATUS_STATE i) ≠ 0 → d.getLsbD 1 = false →
    Answers (.disqualify ag i d) s fun t =>
      t.fld (F.LOOP_REF_STATUS_STATE i) = 4 ∧ t.fld (F.LOOP_REF_STATUS_CAUSE i) = 4 ∧ t.fld (F.LOOP_REF_STATUS_QUAL_LEFT_S i) = 0 ∧ Touches [] [F.LOOP_REF_STATUS_STATE i, F.LOOP_REF_STATUS_CAUSE i, F.LOOP_REF_STATUS_QUAL_LEFT_S i, ⟨Reg.LOOP_REF_INT_STATUS, i, 1⟩] s t) ∧
  (∀ (s : State) (ag : Agent) (i : Fin 23) (d : Word), s.pwr.mainUp = true → pf1Denied ag (Reg.LOOP_REF_CMD i) s = false → s.fld (F.LOOP_REF_STATUS_STATE i) = 4 → d.getLsbD 0 = false →
    Answers (.restore ag i d) s fun t =>
      t.fld (F.LOOP_REF_STATUS_STATE i) = (if s.flag (F.LOOP_REF_STATUS_PRESENT i) then 2 else 1) ∧ t.fld (F.LOOP_REF_STATUS_CAUSE i) = s.fld (F.LOOP_REF_STATUS_CAUSE i) ∧ (t.ref i).raws = [] ∧ Touches [.loop] [F.LOOP_REF_STATUS_STATE i, F.LOOP_REF_STATUS_CAUSE i, F.LOOP_REF_STATUS_QUAL_LEFT_S i, ⟨Reg.LOOP_REF_INT_STATUS, i, 1⟩] s t) ∧
  (∀ (s : State) (i : Fin 4) (x : Int), s.pwr.mainUp = true → s.flag (F.LOOP_REF_STATUS_PRESENT i) = true → 2 ≤ s.fld (F.LOOP_REF_STATUS_STATE i) →
      (s.ref i).raws = [] → s.fld F.LOOP_STATUS_SELECTED ≠ i.val →
    Answers (.refSample (i.castLE (by decide)) x) s fun t =>
      (t.ref i).raws = [x + signed 32 (s.reg (Reg.LOOP_REF_DELAY i)).toNat * 16] ∧
      (t.ref i).errs = (reducePhase s i (x + signed 32 (s.reg (Reg.LOOP_REF_DELAY i)).toNat * 16 - s.loop.bc) :: (s.ref i).errs).take 1000 ∧
      t.reg (Reg.LOOP_REF_PHASE i) = showPhase (Int.fdiv ((t.ref i).errs.take 10).sum (((t.ref i).errs.take 10).length : Int)) ∧ Touches [.loop] [whole (Reg.LOOP_REF_PHASE i)] s t) ∧
  (∀ (s : State) (i : Fin 4) (x : Int), s.pwr.mainUp = true → s.flag (F.LOOP_REF_STATUS_PRESENT i) = true → s.fld (F.LOOP_REF_STATUS_STATE i) = 3 →
      16 ≤ (s.ref i).raws.length →
      s.fld F.LOOP_JUMP_LIMIT_LIMIT * 2 ^ 20 < (reducePhase s i (x + refDelay s i - predict 16 (s.ref i).raws)).natAbs * 1000 →
    Answers (.refSample (i.castLE (by decide)) x) s fun t =>
      t.fld (F.LOOP_REF_STATUS_STATE i) = 2 ∧ t.fld (F.LOOP_REF_STATUS_CAUSE i) = 3 ∧ t.flag F.LOOP_REF_INT_STATUS_REF_JUMP = true ∧
      (t.ref i).raws.length = 1 ∧ t.reg (Reg.LOOP_REF_JUMP i) = showPhase (reducePhase s i (x + refDelay s i - predict 16 (s.ref i).raws)) ∧ t.rbit Reg.FLT_CLASS_PEND 14 = true ∧
      Within [.regs, .loop, .twin] s t) ∧
  (∀ (s : State) (i : Fin 4) (x : Int), s.pwr.mainUp = true → s.flag (F.LOOP_REF_STATUS_PRESENT i) = true → s.fld (F.LOOP_REF_STATUS_STATE i) = 3 →
      (s.ref i).raws.length < 16 → s.fld F.LOOP_STATUS_SELECTED = i.val → s.fld F.LOOP_STATUS_STATE = 2 → s.loop.r = 0 →
    Answers (.refSample (i.castLE (by decide)) x) s fun t =>
      t.loop.integ = s.loop.integ + Int.fdiv ((piSq96 : Int) * (s.fld F.LOOP_BW_BW : Int) * (s.fld F.LOOP_BW_BW : Int) * 256 * (refError t i * 10000000))
        ((2 ^ 20 : Nat) * (s.fld F.LOOP_BW_DAMP : Int) * (s.fld F.LOOP_BW_DAMP : Int) * (10 ^ 26 : Nat)) ∧
      -(freqLimit s) ≤ loopY t ∧ loopY t ≤ freqLimit s ∧ t.free = s.free + 1 ∧ Within [.regs, .loop, .free] s t)

/-- The state table (R262 to R267, R269), over the selection of R259 to R261: from FREE_RUN to ACQUIRE with e = 0, from LOCKED to SWITCHING with r = e, to HOLDOVER with HOLDOVER_ENTER, back with HOLDOVER_EXIT or into DISPUTE_HOLD, to FREE_RUN;
LOCKED from ACQUIRE and SWITCHING; ADV_QUALITY follows STATE; each change of the selection sets REF_SWITCH; in states 6 and 7
nothing is selected. A second in state 2 appends to the history, a second in holdover runs y; ADJ_GO moves the build-out
and r, with SLEW_DONE where r comes to 0; CLR_HISTORY empties the ring. The estimate and the phases formed at the loss, the earlier selection and y = 0 in free run are the model's choice (log 15). -/
def Obligations.LoopStatesFollowTheSelection : Prop :=
  (∀ (s : State) (i : Nat), s.pwr.mainUp = true → s.fld F.LOOP_STATUS_STATE = 0 → (evalSel s).1 = some i → (s.ref i).raws ≠ [] → i < 23 →
    Answers .selectionEval s fun t =>
      t.fld F.LOOP_STATUS_STATE = 1 ∧ t.fld F.LOOP_STATUS_ADV_QUALITY = 1 ∧ t.fld F.LOOP_STATUS_SELECTED = i ∧ refError t i = 0 ∧ t.loop.r = 0 ∧ t.twin = { s.twin with xok := false } ∧ Within [.regs, .loop, .twin] s t) ∧
  (∀ (s : State) (i : Nat), s.pwr.mainUp = true → (s.fld F.LOOP_STATUS_STATE = 2 ∨ s.fld F.LOOP_STATUS_STATE = 3) → (evalSel s).1 = some i → i ≠ s.fld F.LOOP_STATUS_SELECTED → i < 23 →
    Answers .selectionEval s fun t =>
      t.fld F.LOOP_STATUS_STATE = 3 ∧ t.fld F.LOOP_STATUS_ADV_QUALITY = 1 ∧ t.fld F.LOOP_STATUS_SELECTED = i ∧ t.loop.r = refError s i * 10000000 ∧ t.loop.integ = s.loop.integ ∧
      t.flag F.LOOP_INT_STATUS_REF_SWITCH = true ∧ t.loop.bt = s.loop.bt ∧ t.loop.bc = s.loop.bc ∧ t.twin = { s.twin with xok := false } ∧ Within [.regs, .loop, .twin] s t) ∧
  (∀ (s : State), s.pwr.mainUp = true → (s.fld F.LOOP_STATUS_STATE = 2 ∨ s.fld F.LOOP_STATUS_STATE = 3) → (evalSel s).1 = none →
    Answers .selectionEval s fun t =>
      t.fld F.LOOP_STATUS_STATE = 4 ∧ t.fld F.LOOP_STATUS_ADV_QUALITY = 2 ∧ t.fld F.LOOP_STATUS_SELECTED = 31 ∧ t.flag F.LOOP_INT_STATUS_HOLDOVER_ENTER = true ∧ t.loop.hoT = 0 ∧
      (∀ j ∈ List.range 23, s.fld (F.LOOP_REF_STATUS_STATE j) = 3 → t.reg (Reg.LOOP_REF_ENTRY_PHASE j) = showPhase (refError s j)) ∧
      (s.flag F.LOOP_STATUS_HO_READY = false → t.loop.y0 = s.loop.y2 * (2 ^ 48 : Nat) ∧ t.loop.drift = 0) ∧ t.twin = { s.twin with xok := false } ∧ Within [.regs, .loop, .twin, .free] s t) ∧
  (∀ (s : State) (i : Nat), s.pwr.mainUp = true → s.fld F.LOOP_STATUS_STATE = 4 → (evalSel s).1 = some i → i < 23 →
      (refError s i - signed 32 (s.reg (Reg.LOOP_REF_ENTRY_PHASE i)).toNat * 16).natAbs * 1000 ≤ (s.reg Reg.LOOP_PHASE_ACCEPT).toNat * 2 ^ 20 →
    Answers .selectionEval s fun t =>
      t.fld F.LOOP_STATUS_STATE = 3 ∧ t.fld F.LOOP_STATUS_SELECTED = i ∧ t.flag F.LOOP_INT_STATUS_HOLDOVER_EXIT = true ∧ t.loop.r = refError s i * 10000000 ∧ t.twin = { s.twin with xok := false } ∧ Within [.regs, .loop, .twin] s t) ∧
  (∀ (s : State) (i : Nat), s.pwr.mainUp = true → s.fld F.LOOP_STATUS_STATE = 4 → (evalSel s).1 = some i → i < 23 →
      (s.reg Reg.LOOP_PHASE_ACCEPT).toNat * 2 ^ 20 < (refError s i - signed 32 (s.reg (Reg.LOOP_REF_ENTRY_PHASE i)).toNat * 16).natAbs * 1000 →
    Answers .selectionEval s fun t =>
      t.fld F.LOOP_STATUS_STATE = 5 ∧ t.fld F.LOOP_STATUS_ADV_QUALITY = 2 ∧ t.fld F.LOOP_STATUS_DISPUTE_REF = i ∧ t.reg (Reg.LOOP_REF_PHASE i) = showPhase (refError s i) ∧
      t.flag F.LOOP_INT_STATUS_REF_PHASE_DISPUTE = true ∧ loopY t = loopY s ∧
      (s.loop.sel ≠ some i → t.flag F.LOOP_INT_STATUS_REF_SWITCH = true) ∧ t.twin = { s.twin with xok := false } ∧ Within [.regs, .loop, .twin] s t) ∧
  (∀ (s : State), s.pwr.mainUp = true → s.fld F.LOOP_STATUS_STATE < 6 →
    Answers .selectionEval s fun t =>
      t.loop.sel = (evalSel s).1 ∧ (s.loop.sel ≠ (evalSel s).1 → t.flag F.LOOP_INT_STATUS_REF_SWITCH = true) ∧ Within [.regs, .loop, .twin, .free] s t) ∧
  (∀ (s : State), s.pwr.mainUp = true → s.fld F.LOOP_STATUS_STATE = 1 → (evalSel s).1 = none → s.flag F.LOOP_STATUS_HO_READY = false → (loopMode s).1 ≠ 2 →
    Answers .selectionEval s fun t =>
      t.fld F.LOOP_STATUS_STATE = 0 ∧ t.fld F.LOOP_STATUS_ADV_QUALITY = 4 ∧ t.fld F.LOOP_STATUS_SELECTED = 31 ∧ loopY t = 0 ∧ t.twin = { s.twin with xok := false } ∧ Within [.regs, .loop, .twin] s t) ∧
  (∀ (s : State), s.pwr.mainUp = true → 6 ≤ s.fld F.LOOP_STATUS_STATE → Answers .selectionEval s fun t => t = s) ∧
  (∀ (s : State), s.pwr.mainUp = true → (s.fld F.LOOP_STATUS_STATE = 1 ∨ (s.fld F.LOOP_STATUS_STATE = 3 ∧ s.loop.r = 0)) → s.fld (F.LOOP_REF_STATUS_STATE (s.fld F.LOOP_STATUS_SELECTED)) = 3 →
      s.fld F.LOOP_STATUS_SELECTED < 23 → (refError s (s.fld F.LOOP_STATUS_SELECTED)).natAbs ≤ 2 ^ 20 →
    Answers .locked s fun t =>
      t.fld F.LOOP_STATUS_STATE = 2 ∧ t.fld F.LOOP_STATUS_ADV_QUALITY = 0 ∧ t.fld F.LOOP_STATUS_SELECTED = s.fld F.LOOP_STATUS_SELECTED ∧ t.flag F.LOOP_INT_STATUS_LOCKED = true ∧ t.loop.y2 = loopY s ∧ t.twin = { s.twin with xok := false } ∧ Within [.regs, .loop, .twin] s t) ∧
  (∀ (s : State), s.pwr.mainUp = true → s.fld F.LOOP_STATUS_STATE = 2 → 0 < s.loop.ySamples →
    Answers .hoHistoryAppend s fun t =>
      t.loop.hist = (Int.fdiv (s.loop.ySum * (2 ^ 48 : Nat)) (s.loop.ySamples : Int) :: s.loop.hist).take 16384 ∧ t.loop.ySum = 0 ∧ t.loop.ySamples = 0 ∧
      t.flag F.LOOP_STATUS_HO_READY = (decide (s.fld F.LOOP_HO_CTRL_AVG_S + s.fld F.LOOP_HO_CTRL_GUARD_S ≤ t.loop.hist.length) || s.loop.seeded) ∧
      Touches [.loop] [F.LOOP_STATUS_HO_READY] s t) ∧
  (∀ (s : State), s.pwr.mainUp = true → s.fld F.LOOP_STATUS_STATE = 4 →
    Answers .holdoverTick s fun t =>
      t.loop.hoT = s.loop.hoT + 1 ∧
      loopY t = clampInt (-(freqLimit s)) (freqLimit s) (Int.fdiv (s.loop.y0 + s.loop.drift * ((s.loop.hoT + 1 : Nat) : Int) + (2 ^ 47 : Nat)) (2 ^ 48 : Nat)) ∧
      (t.reg Reg.LOOP_HO_TIME).toNat = (s.loop.hoT + 1) % 2 ^ 32 ∧ Within [.regs, .loop] s t) ∧
  (∀ (s : State) (ag : Agent) (d : Word), s.pwr.mainUp = true → pf1Denied ag (Reg.LOOP_CMD) s = false → bits d 0 6 = 0 → (s.fld F.LOOP_STATUS_STATE = 2 ∨ s.fld F.LOOP_STATUS_STATE = 3) →
    Answers (.adjGo ag d) s fun t =>
      t.loop.r = s.loop.r + signed 32 (s.reg Reg.LOOP_PHASE_ADJ).toNat * 16 * 10000000 ∧
      (20 ≤ s.fld F.LOOP_STATUS_SELECTED → t.loop.bt = s.loop.bt - signed 32 (s.reg Reg.LOOP_PHASE_ADJ).toNat * 16 * (2 ^ 28 : Nat) ∧ t.loop.bc = s.loop.bc) ∧
      (s.fld F.LOOP_STATUS_SELECTED < 20 → t.loop.bc = s.loop.bc - signed 32 (s.reg Reg.LOOP_PHASE_ADJ).toNat * 16 ∧ t.loop.bt = s.loop.bt) ∧
      t.flag F.LOOP_INT_STATUS_SLEW_DONE = (s.flag F.LOOP_INT_STATUS_SLEW_DONE || decide (t.loop.r = 0)) ∧
      Touches [.loop] [F.LOOP_INT_STATUS_SLEW_DONE, whole Reg.LOOP_BT_LO, whole Reg.LOOP_BT_HI, whole Reg.LOOP_BT_SUB, whole Reg.LOOP_BC] s t) ∧
  (∀ (s : State) (ag : Agent) (d : Word), s.pwr.mainUp = true → pf1Denied ag (Reg.LOOP_CMD) s = false → bits d 0 6 = 0 → s.fld F.LOOP_STATUS_STATE ≠ 2 → s.fld F.LOOP_STATUS_STATE ≠ 3 →
    Answers (.adjGo ag d) s fun t => t.flag F.LOOP_INT_STATUS_CMD_REFUSED = true ∧ Touches [] [F.LOOP_INT_STATUS_CMD_REFUSED] s t) ∧
  (∀ (s : State) (ag : Agent) (d : Word), s.pwr.mainUp = true → pf1Denied ag (Reg.LOOP_CMD) s = false → bits d 0 6 = 0 →
    Answers (.clrHistory ag d) s fun t => t.loop.hist = [] ∧ Touches [.loop] [F.LOOP_STATUS_HO_READY] s t)

/-- R268: in state 5 DISPUTE_SLOPE goes to state 3 towards the disputed reference with r = e; DISPUTE_STEP makes a time reference's step through the time-base command path, where a
negative result is rejected and a time base that does not run refuses it, not taken into Bt, and state 3 with r = 0 follows at its
apply edge, while a frequency reference's Bc takes e up and state 3 follows at once; DISPUTE_REJECT locks the reference out with CAUSE 5 and tests the next selection, never that reference, in state 4: with
none the loop stays there, one within LOOP_PHASE_ACCEPT of its entry phase takes it to state 3, another back to state 5; with a time-base command pending DISPUTE_STEP is
refused; outside state 5 each is refused with CMD_REFUSED. CMD_REJECT by the test of R168, and NOT_RUNNING with FORMAT 0, for DISPUTE_STEP are the model's choice (log 15). -/
def Obligations.DisputeCommands : Prop :=
  (∀ (s : State) (ag : Agent) (d : Word), s.pwr.mainUp = true → pf1Denied ag (Reg.LOOP_CMD) s = false → bits d 0 6 = 0 → s.fld F.LOOP_STATUS_STATE = 5 →
    Answers (.disputeSlope ag d) s fun t =>
      t.fld F.LOOP_STATUS_STATE = 3 ∧ t.fld F.LOOP_STATUS_SELECTED = s.fld F.LOOP_STATUS_DISPUTE_REF ∧ t.loop.r = refError s (s.fld F.LOOP_STATUS_DISPUTE_REF) * 10000000 ∧ t.twin = { s.twin with xok := false } ∧ Within [.regs, .loop, .twin] s t) ∧
  (∀ (s : State) (ag : Agent) (d : Word), s.pwr.mainUp = true → pf1Denied ag (Reg.LOOP_CMD) s = false → bits d 0 6 = 0 → s.fld F.LOOP_STATUS_STATE = 5 → s.tb.pend = none → 20 ≤ s.fld F.LOOP_STATUS_DISPUTE_REF → tbFormat s ≠ 0 →
      0 ≤ (s.tb.value : Int) + refError s (s.fld F.LOOP_STATUS_DISPUTE_REF) * (2 ^ 28 : Nat) →
    Answers (.disputeStep ag d) s fun t =>
      t.fld F.LOOP_STATUS_STATE = 5 ∧ t.flag F.TBASE_LIVE_CMD_PENDING = true ∧
      t.tb = { s.tb with pend := some ⟨none, some (.step (refError s (s.fld F.LOOP_STATUS_DISPUTE_REF) * (2 ^ 28 : Nat))), none, s.clk.tclk, false, false, true⟩ } ∧
      Touches [.tb] [F.TBASE_LIVE_CMD_PENDING] s t) ∧
  (∀ (s : State) (ag : Agent) (d : Word), s.pwr.mainUp = true → pf1Denied ag (Reg.LOOP_CMD) s = false → bits d 0 6 = 0 → s.fld F.LOOP_STATUS_STATE = 5 → s.tb.pend = none → 20 ≤ s.fld F.LOOP_STATUS_DISPUTE_REF → tbFormat s ≠ 0 →
      (s.tb.value : Int) + refError s (s.fld F.LOOP_STATUS_DISPUTE_REF) * (2 ^ 28 : Nat) < 0 →
    Answers (.disputeStep ag d) s fun t => t.flag F.TBASE_INT_STATUS_CMD_REJECT = true ∧ Touches [] [F.TBASE_INT_STATUS_CMD_REJECT] s t) ∧
  (∀ (s : State) (ag : Agent) (d : Word), s.pwr.mainUp = true → pf1Denied ag (Reg.LOOP_CMD) s = false → bits d 0 6 = 0 → s.fld F.LOOP_STATUS_STATE = 5 → s.tb.pend = none → 20 ≤ s.fld F.LOOP_STATUS_DISPUTE_REF → tbFormat s = 0 →
    Answers (.disputeStep ag d) s fun t => t.flag F.TBASE_INT_STATUS_NOT_RUNNING = true ∧ Touches [] [F.TBASE_INT_STATUS_NOT_RUNNING] s t) ∧
  (∀ (s : State) (p : TbPend) (a : Int), s.pwr.mainUp = true → s.pwr.oclkUp = true → s.pwr.ovenUp = true → tbFormat s ≠ 0 → s.tb.pend = some p → p.arm = none → p.op = some (.step a) → p.dispute = true → p.xstep = false → s.fld F.LOOP_STATUS_STATE = 5 →
    Answers .cmdDone s fun t =>
      t.fld F.LOOP_STATUS_STATE = 3 ∧ t.fld F.LOOP_STATUS_SELECTED = s.fld F.LOOP_STATUS_DISPUTE_REF ∧ t.loop.r = 0 ∧ t.loop.bt = s.loop.bt ∧
      t.fld F.TBASE_LIVE_EPOCH = (s.fld F.TBASE_LIVE_EPOCH + 1) % 4) ∧
  (∀ (s : State) (ag : Agent) (d : Word), s.pwr.mainUp = true → pf1Denied ag (Reg.LOOP_CMD) s = false → bits d 0 6 = 0 → s.fld F.LOOP_STATUS_STATE = 5 → s.tb.pend = none → s.fld F.LOOP_STATUS_DISPUTE_REF < 20 →
    Answers (.disputeStep ag d) s fun t =>
      t.fld F.LOOP_STATUS_STATE = 3 ∧ t.fld F.LOOP_STATUS_SELECTED = s.fld F.LOOP_STATUS_DISPUTE_REF ∧ t.loop.r = 0 ∧ t.loop.bc = s.loop.bc + refError s (s.fld F.LOOP_STATUS_DISPUTE_REF) ∧
      t.loop.bt = s.loop.bt ∧ t.tb = s.tb ∧ t.twin = { s.twin with xok := false } ∧ Within [.regs, .loop, .twin] s t) ∧
  (∀ (s : State) (ag : Agent) (d : Word) (p : TbPend), s.pwr.mainUp = true → pf1Denied ag (Reg.LOOP_CMD) s = false → bits d 0 6 = 0 → s.fld F.LOOP_STATUS_STATE = 5 → s.tb.pend = some p →
    Answers (.disputeStep ag d) s fun t => t.flag F.LOOP_INT_STATUS_CMD_REFUSED = true ∧ Touches [] [F.LOOP_INT_STATUS_CMD_REFUSED] s t) ∧
  (∀ (s : State) (ag : Agent) (d : Word), s.pwr.mainUp = true → pf1Denied ag (Reg.LOOP_CMD) s = false → bits d 0 6 = 0 → s.fld F.LOOP_STATUS_STATE = 5 → s.fld F.LOOP_STATUS_DISPUTE_REF < 23 →
    Answers (.disputeReject ag d) s fun t =>
      t.fld (F.LOOP_REF_STATUS_STATE (s.fld F.LOOP_STATUS_DISPUTE_REF)) = 4 ∧ t.fld (F.LOOP_REF_STATUS_CAUSE (s.fld F.LOOP_STATUS_DISPUTE_REF)) = 5 ∧
      (t.fld F.LOOP_STATUS_STATE = 3 ∨ t.fld F.LOOP_STATUS_STATE = 4 ∨ t.fld F.LOOP_STATUS_STATE = 5) ∧ (evalSel (s.setFld (F.LOOP_REF_STATUS_STATE (s.fld F.LOOP_STATUS_DISPUTE_REF)) 4)).1 ≠ some (s.fld F.LOOP_STATUS_DISPUTE_REF)) ∧
  (∀ (s : State) (ag : Agent) (d : Word), s.pwr.mainUp = true → pf1Denied ag (Reg.LOOP_CMD) s = false → bits d 0 6 = 0 → s.fld F.LOOP_STATUS_STATE = 5 → s.fld F.LOOP_STATUS_DISPUTE_REF < 23 → (evalSel (s.setFld (F.LOOP_REF_STATUS_STATE (s.fld F.LOOP_STATUS_DISPUTE_REF)) 4)).1 = none →
    Answers (.disputeReject ag d) s fun t =>
      t.fld (F.LOOP_REF_STATUS_STATE (s.fld F.LOOP_STATUS_DISPUTE_REF)) = 4 ∧ t.fld (F.LOOP_REF_STATUS_CAUSE (s.fld F.LOOP_STATUS_DISPUTE_REF)) = 5 ∧
      t.fld F.LOOP_STATUS_STATE = 4 ∧ t.fld F.LOOP_STATUS_ADV_QUALITY = 2 ∧ t.fld F.LOOP_STATUS_DISPUTE_REF = 31 ∧ t.fld F.LOOP_STATUS_SELECTED = s.fld F.LOOP_STATUS_SELECTED ∧ Within [.regs, .loop, .twin] s t) ∧
  (∀ (s : State) (ag : Agent) (d : Word) (j : Nat), s.pwr.mainUp = true → pf1Denied ag (Reg.LOOP_CMD) s = false → bits d 0 6 = 0 → s.fld F.LOOP_STATUS_STATE = 5 → s.fld F.LOOP_STATUS_DISPUTE_REF < 23 → (evalSel (s.setFld (F.LOOP_REF_STATUS_STATE (s.fld F.LOOP_STATUS_DISPUTE_REF)) 4)).1 = some j → j < 23 →
      (refError s j - signed 32 (s.reg (Reg.LOOP_REF_ENTRY_PHASE j)).toNat * 16).natAbs * 1000 ≤ (s.reg Reg.LOOP_PHASE_ACCEPT).toNat * 2 ^ 20 →
    Answers (.disputeReject ag d) s fun t =>
      t.fld (F.LOOP_REF_STATUS_STATE (s.fld F.LOOP_STATUS_DISPUTE_REF)) = 4 ∧ t.fld (F.LOOP_REF_STATUS_CAUSE (s.fld F.LOOP_STATUS_DISPUTE_REF)) = 5 ∧
      t.fld F.LOOP_STATUS_STATE = 3 ∧ t.fld F.LOOP_STATUS_ADV_QUALITY = 1 ∧ t.fld F.LOOP_STATUS_DISPUTE_REF = 31 ∧ t.fld F.LOOP_STATUS_SELECTED = j ∧ t.loop.r = refError s j * 10000000 ∧ Within [.regs, .loop, .twin] s t) ∧
  (∀ (s : State) (ag : Agent) (d : Word) (j : Nat), s.pwr.mainUp = true → pf1Denied ag (Reg.LOOP_CMD) s = false → bits d 0 6 = 0 → s.fld F.LOOP_STATUS_STATE = 5 → s.fld F.LOOP_STATUS_DISPUTE_REF < 23 → (evalSel (s.setFld (F.LOOP_REF_STATUS_STATE (s.fld F.LOOP_STATUS_DISPUTE_REF)) 4)).1 = some j → j < 23 →
      (s.reg Reg.LOOP_PHASE_ACCEPT).toNat * 2 ^ 20 < (refError s j - signed 32 (s.reg (Reg.LOOP_REF_ENTRY_PHASE j)).toNat * 16).natAbs * 1000 →
    Answers (.disputeReject ag d) s fun t =>
      t.fld (F.LOOP_REF_STATUS_STATE (s.fld F.LOOP_STATUS_DISPUTE_REF)) = 4 ∧ t.fld (F.LOOP_REF_STATUS_CAUSE (s.fld F.LOOP_STATUS_DISPUTE_REF)) = 5 ∧
      t.fld F.LOOP_STATUS_STATE = 5 ∧ t.fld F.LOOP_STATUS_ADV_QUALITY = 2 ∧ t.fld F.LOOP_STATUS_DISPUTE_REF = j ∧ t.flag F.LOOP_INT_STATUS_REF_PHASE_DISPUTE = true ∧ Within [.regs, .loop, .twin] s t) ∧
  (∀ (s : State) (ag : Agent) (d : Word) (c : Instr), s.pwr.mainUp = true → pf1Denied ag (Reg.LOOP_CMD) s = false → bits d 0 6 = 0 → s.fld F.LOOP_STATUS_STATE ≠ 5 → c ∈ [Instr.disputeSlope ag d, .disputeStep ag d, .disputeReject ag d] →
    Answers c s fun t => t.flag F.LOOP_INT_STATUS_CMD_REFUSED = true ∧ Touches [] [F.LOOP_INT_STATUS_CMD_REFUSED] s t)

/-- The multiplying PLL and XO_IN (R243 to R247, R274, R585): a lock ends the search and records VTUNE and the BAND that the
binary search and the recount kept; four failed searches stop it with MPLL_FAIL; a declared loss counts, moves TCLK and the lane reference to the keeper (R118, R219), sets STATE 6,
squelches the outputs that do not follow, abandons a proofing run and searches; MPLL_RELOCK does the same without being a loss; the hand-back returns and triggers proofing; XO_IN lost sets STATE 7 with the
sources and y as they are, and y takes the holdover frequency at edge L after the keeper's alignment; with the main domain in reset its loss and return are only noted (R524). The BAND that the search
keeps (`bandKept`), and that a loss of XO_IN holds the tuning until edge L, are the model's choice (log 15). -/
def Obligations.FallbackToTheKeeper : Prop :=
  (∀ (s : State) (counts : List Nat) (v : BitVec 8), s.pwr.mainUp = true → s.flag F.LOOP_MPLL_STATUS_SEARCHING = true → s.pwr.xoIn = true → counts.length = 8 →
    Answers (.mpllLock counts v) s fun t =>
      t.flag F.LOOP_MPLL_STATUS_LOCKED = true ∧ t.flag F.LOOP_MPLL_STATUS_SEARCHING = false ∧ t.fld F.LOOP_MPLL_STATUS_BAND = bandKept s counts % 64 ∧ t.fld F.LOOP_MPLL_STATUS_VTUNE = v.toNat ∧
      t.flag F.LOOP_INT_STATUS_MPLL_LOCK = true ∧ t.flag F.LOOP_INT_STATUS_BAND_MARGIN = (s.flag F.LOOP_INT_STATUS_BAND_MARGIN || decide (v.toNat < 26 ∨ 229 < v.toNat)) ∧
      t.loop = { s.loop with fails := 0, guard := s.fld F.LOOP_MPLL_CTRL_GUARD_US } ∧
      Touches [.loop] [whole Reg.LOOP_MPLL_STATUS, F.LOOP_INT_STATUS_MPLL_LOCK, F.LOOP_INT_STATUS_BAND_MARGIN] s t) ∧
  (∀ (s : State), s.pwr.mainUp = true → s.flag F.LOOP_MPLL_STATUS_SEARCHING = true → s.pwr.xoIn = true → s.loop.fails < 3 →
    Answers .mpllSearchTimeout s fun t => t.loop = { s.loop with fails := s.loop.fails + 1 } ∧ Within [.loop] s t) ∧
  (∀ (s : State), s.pwr.mainUp = true → s.flag F.LOOP_MPLL_STATUS_SEARCHING = true → s.pwr.xoIn = true → 3 ≤ s.loop.fails →
    Answers .mpllSearchTimeout s fun t =>
      t.flag F.LOOP_MPLL_STATUS_SEARCHING = false ∧ t.flag F.LOOP_MPLL_STATUS_FAILED = true ∧ t.flag F.LOOP_INT_STATUS_MPLL_FAIL = true ∧ t.rbit Reg.FLT_CLASS_PEND 10 = true ∧
      Within [.regs, .loop, .twin] s t) ∧
  (∀ (s : State), s.pwr.mainUp = true → s.flag F.LOOP_MPLL_STATUS_LOCKED = true → s.pwr.xoIn = true → s.flag F.LOOP_STATUS_TCLK_KEEPER = false → s.flag F.LOOP_STATUS_LANE_BACKUP = false →
      s.fld F.LOOP_STATUS_STATE ≤ 5 → s.loop.lols.length < 7 →
    Answers .mpllLol s fun t =>
      t.flag F.LOOP_INT_STATUS_MPLL_LOL = true ∧ t.reg Reg.LOOP_LOL_COUNT = s.reg Reg.LOOP_LOL_COUNT + 1 ∧ t.fld F.LOOP_STATUS_STATE = 6 ∧ t.fld F.LOOP_STATUS_ADV_QUALITY = 3 ∧
      t.flag F.LOOP_STATUS_TCLK_KEEPER = true ∧ t.flag F.LOOP_STATUS_LANE_BACKUP = true ∧ t.flag F.LOOP_MPLL_STATUS_LOCKED = false ∧ t.flag F.LOOP_MPLL_STATUS_SEARCHING = true ∧
      (∀ q ∈ List.range 192, t.flag (F.DLN_INT_STATUS_TX_REF_CHANGE q) = true) ∧ (∀ a ∈ List.range 32, t.flag (F.ALN_INT_STATUS_TX_REF_CHANGE a) = true) ∧
      t.flag F.MET_INT_STATUS_INVALIDATED = true ∧ t.prf.mode = 0 ∧ t.rbit Reg.FLT_CLASS_PEND 9 = true ∧
      (∀ k ∈ List.range 4, (t.clkout k).running = ((s.clkout k).running && s.flag (F.LOOP_CLKOUT_CTRL_ON_UNLOCK k) && decide ((s.clkout k).div % 16 = 0))) ∧
      Within [.regs, .met, .loop, .prf, .twin, .free] s t) ∧
  (∀ (s : State), s.pwr.mainUp = true → s.flag F.LOOP_MPLL_STATUS_LOCKED = true → s.pwr.xoIn = true → s.loop.lols.length = 8 →
      s.clk.tclk < nth 0 s.loop.lols 6 + 781250000 →
    Answers .mpllLol s fun t =>
      t.flag F.LOOP_MPLL_STATUS_SEARCHING = false ∧ t.flag F.LOOP_MPLL_STATUS_FAILED = true ∧ t.flag F.LOOP_INT_STATUS_MPLL_FAIL = true) ∧
  (∀ (s : State) (ag : Agent) (d : Word), s.pwr.mainUp = true → pf1Denied ag (Reg.LOOP_CMD) s = false → bits d 0 6 = 0 → s.pwr.xoIn = true →
    Answers (.mpllRelock ag d) s fun t =>
      t.fld F.LOOP_STATUS_STATE = (if s.fld F.LOOP_STATUS_STATE = 7 then 7 else 6) ∧ (s.fld F.LOOP_STATUS_STATE ≠ 7 → t.fld F.LOOP_STATUS_ADV_QUALITY = 3) ∧ t.flag F.LOOP_STATUS_TCLK_KEEPER = true ∧ t.flag F.LOOP_STATUS_LANE_BACKUP = true ∧
      t.flag F.LOOP_MPLL_STATUS_SEARCHING = true ∧ t.flag F.LOOP_MPLL_STATUS_FAILED = false ∧ t.loop.fails = 0 ∧ t.loop.lols = s.loop.lols ∧
      t.flag F.LOOP_INT_STATUS_MPLL_LOL = s.flag F.LOOP_INT_STATUS_MPLL_LOL ∧ t.reg Reg.LOOP_LOL_COUNT = s.reg Reg.LOOP_LOL_COUNT ∧
      t.rbit Reg.FLT_CLASS_PEND 9 = s.rbit Reg.FLT_CLASS_PEND 9 ∧ t.prf.mode = 0) ∧
  (∀ (s : State) (ag : Agent) (d : Word), s.pwr.mainUp = true → pf1Denied ag (Reg.LOOP_CMD) s = false → bits d 0 6 = 0 → s.pwr.xoIn = false →
    Answers (.mpllRelock ag d) s fun t => t.flag F.LOOP_INT_STATUS_CMD_REFUSED = true ∧ Touches [] [F.LOOP_INT_STATUS_CMD_REFUSED] s t) ∧
  (∀ (s : State), s.pwr.mainUp = true → s.flag F.LOOP_MPLL_STATUS_LOCKED = true → s.flag F.LOOP_STATUS_TCLK_KEEPER = true → s.pwr.xoIn = true → s.loop.aligning = false → 6 ≤ s.fld F.LOOP_STATUS_STATE →
    Answers .handback s fun t =>
      t.flag F.LOOP_INT_STATUS_HANDBACK = true ∧ t.flag F.LOOP_STATUS_TCLK_KEEPER = false ∧ t.flag F.LOOP_STATUS_LANE_BACKUP = false ∧
      t.fld F.LOOP_STATUS_STATE = (if s.loop.hadSel || s.flag F.LOOP_STATUS_HO_READY then 4 else 0) ∧ t.flag F.MET_INT_STATUS_INVALIDATED = true ∧ t.loop.hadSel = false ∧
      (s.flag F.PRF_CTRL_EN = false → t.prf.pend = true ∧ t.prf.causePend = s.prf.causePend ||| 4)) ∧
  (∀ (s : State), s.pwr.mainUp = true → s.pwr.xoIn = true →
    Answers .xoLoss s fun t =>
      t.flag F.LOOP_INT_STATUS_XO_LOSS = true ∧ t.fld F.LOOP_STATUS_STATE = 7 ∧ t.fld F.LOOP_STATUS_ADV_QUALITY = 3 ∧ t.pwr = { s.pwr with xoIn := false } ∧ t.flag F.LOOP_STATUS_TCLK_KEEPER = s.flag F.LOOP_STATUS_TCLK_KEEPER ∧
      t.flag F.LOOP_STATUS_LANE_BACKUP = s.flag F.LOOP_STATUS_LANE_BACKUP ∧ t.reg Reg.LOOP_MPLL_STATUS = s.reg Reg.LOOP_MPLL_STATUS ∧ t.rbit Reg.FLT_CLASS_PEND 11 = true ∧
      t.prf.mode = 0 ∧ loopY t = loopY s ∧ Within [.regs, .met, .loop, .prf, .pwr, .twin, .free] s t) ∧
  (∀ (s : State), s.pwr.mainUp = false →
    Answers .xoLoss s fun t => t.pwr = { s.pwr with xoIn := false } ∧ Within [.pwr] s t) ∧
  (∀ (s : State), s.pwr.mainUp = false →
    Answers .xoReturn s fun t => t.pwr = { s.pwr with xoIn := true } ∧ Within [.pwr] s t) ∧
  (∀ (s : State), s.pwr.mainUp = true → s.pwr.xoIn = false →
    Answers .xoReturn s fun t =>
      t.flag F.LOOP_INT_STATUS_XO_RETURN = true ∧ t.loop = { s.loop with aligning := true } ∧ t.pwr = { s.pwr with xoIn := true } ∧ Touches [.loop, .pwr] [F.LOOP_INT_STATUS_XO_RETURN] s t) ∧
  (∀ (s : State), s.pwr.mainUp = true → s.loop.aligning = true → s.flag F.LOOP_MPLL_STATUS_FAILED = false →
    Answers .keeperAlignDone s fun t =>
      t.loop = { s.loop with aligning := false } ∧ t.flag F.LOOP_STATUS_TCLK_KEEPER = true ∧ t.flag F.LOOP_STATUS_LANE_BACKUP = true ∧ t.flag F.LOOP_MPLL_STATUS_SEARCHING = true ∧
      t.fld F.LOOP_STATUS_STATE = s.fld F.LOOP_STATUS_STATE ∧
      loopY t = (if s.flag F.LOOP_STATUS_HO_READY then clampInt (-(freqLimit s)) (freqLimit s) (holdY s.loop.hoT s) else loopY s) ∧ Within [.regs, .met, .loop] s t) ∧
  (∀ (s : State), s.pwr.mainUp = true → s.loop.aligning = true → s.flag F.LOOP_MPLL_STATUS_FAILED = true →
    Answers .keeperAlignDone s fun t => t.loop = { s.loop with aligning := false } ∧ Within [.loop] s t)

/-- Clock outputs and LOCK_A (R271 to R273, R275): a rise of EN and REALIGN stop the output at its next falling edge and hold it until its alignment instant, the VCO cycle nearest a time-base
value with (t - PHASE) mod period = 0, 1,024 TCLK after acceptance and half a period after the last falling edge at the soonest, where DIV and PHASE are taken up, or refused with
CLKOUT_REJECT; a fall of EN stops it within 8 TCLK and a cycle; LOCK_A's density is 0 in states 6 and 7 and in
reset, 2 in state 0, 4 in states 4 and 5, 6 in states 1 and 3, and 8 to 15 in state 2. A refused setting that keeps the values in force, the VCO cycle nearest the instant and the longer half of an odd DIV are the model's choice
(log 15). -/
def Obligations.ClockOutputsAndLockA : Prop :=
  (∀ (s : State) (ag : Agent) (k : Fin 4) (d : Word), s.pwr.mainUp = true → pf1Denied ag (Reg.LOOP_CLKOUT_CTRL k) s = false → s.flag (F.LOOP_CLKOUT_CTRL_EN k) = false →
    Answers (.clkoutEnable ag k d) s fun t =>
      t.clkout k = { clkStop (16 * s.clk.tclk) (s.clkout k) with on := true, waiting := true, accept := s.clk.tclk } ∧ t.flag (F.LOOP_CLKOUT_CTRL_EN k) = true ∧
      (∀ j : Fin 4, j ≠ k → t.clkout j = s.clkout j) ∧ Touches [.loop] [F.LOOP_CLKOUT_CTRL_EN k, F.LOOP_CLKOUT_CTRL_ON_UNLOCK k] s t) ∧
  (∀ (s : State) (ag : Agent) (k : Fin 4) (d : Word), s.pwr.mainUp = true → pf1Denied ag (Reg.LOOP_CLKOUT_CTRL k) s = false → s.flag (F.LOOP_CLKOUT_CTRL_EN k) = true → d.getLsbD 2 = false →
    Answers (.clkoutEnable ag k d) s fun t => t.loop = s.loop ∧ Touches [] [F.LOOP_CLKOUT_CTRL_ON_UNLOCK k] s t) ∧
  (∀ (s : State) (ag : Agent) (k : Fin 4) (d : Word), s.pwr.mainUp = true → pf1Denied ag (Reg.LOOP_CLKOUT_CTRL k) s = false → s.flag (F.LOOP_CLKOUT_CTRL_EN k) = true →
    Answers (.clkoutDisable ag k d) s fun t =>
      t.clkout k = { clkStop (16 * (s.clk.tclk + 8)) (s.clkout k) with on := false, waiting := false } ∧ (∀ j : Fin 4, j ≠ k → t.clkout j = s.clkout j) ∧
      Touches [.loop] [F.LOOP_CLKOUT_CTRL_EN k, F.LOOP_CLKOUT_CTRL_ON_UNLOCK k] s t) ∧
  (∀ (s : State) (ag : Agent) (k : Fin 4) (d : Word), s.pwr.mainUp = true → pf1Denied ag (Reg.LOOP_CLKOUT_CTRL k) s = false → d.getLsbD 0 = true →
    Answers (.clkoutRealign ag k d) s fun t =>
      t.clkout k = { clkStop (16 * s.clk.tclk) (s.clkout k) with on := true, waiting := true, accept := s.clk.tclk } ∧ (∀ j : Fin 4, j ≠ k → t.clkout j = s.clkout j) ∧
      Touches [.loop] [F.LOOP_CLKOUT_CTRL_EN k, F.LOOP_CLKOUT_CTRL_ON_UNLOCK k] s t) ∧
  (∀ (s : State) (k : Fin 4) (n : Nat), s.pwr.mainUp = true → s.pwr.oclkUp = true → (s.clkout k).waiting = true → s.tb.pend = none → s.tb.snaps = [] → 0 < incCur s →
      clkoutPlace k s = some n → 8 ≤ s.fld (F.LOOP_CLKOUT_DIV_DIV k) → (s.reg (Reg.LOOP_CLKOUT_PHASE k)).toNat < 80 * s.fld (F.LOOP_CLKOUT_DIV_DIV k) →
    Answers (.clkoutAlignEdge k) s fun t =>
      t.clkout k = { s.clkout k with waiting := false, running := true, div := s.fld (F.LOOP_CLKOUT_DIV_DIV k), phase := (s.reg (Reg.LOOP_CLKOUT_PHASE k)).toNat, rise := 16 * s.clk.tclk + n } ∧
      16 * ((s.clkout k).accept + 1024) ≤ (t.clkout k).rise ∧ (s.clkout k).fell + ((t.clkout k).div + 1) / 2 ≤ (t.clkout k).rise ∧
      t.clk.tclk = s.clk.tclk + (n + 15) / 16 ∧
      (∀ j : Fin 4, j ≠ k → t.clkout j = s.clkout j) ∧ Within [.regs, .clk, .tb, .loop, .sky, .tlm, .twin] s t) ∧
  (∀ (s : State) (k : Fin 4) (n : Nat), s.pwr.mainUp = true → s.pwr.oclkUp = true → (s.clkout k).waiting = true → s.tb.pend = none → s.tb.snaps = [] → 0 < incCur s →
      clkoutPlace k s = some n → (s.fld (F.LOOP_CLKOUT_DIV_DIV k) < 8 ∨ 80 * s.fld (F.LOOP_CLKOUT_DIV_DIV k) ≤ (s.reg (Reg.LOOP_CLKOUT_PHASE k)).toNat) →
    Answers (.clkoutAlignEdge k) s fun t =>
      t.clkout k = { s.clkout k with waiting := false, running := true, rise := 16 * s.clk.tclk + n } ∧
      16 * ((s.clkout k).accept + 1024) ≤ (t.clkout k).rise ∧ (s.clkout k).fell + ((t.clkout k).div + 1) / 2 ≤ (t.clkout k).rise ∧
      t.clk.tclk = s.clk.tclk + (n + 15) / 16 ∧ t.flag F.LOOP_INT_STATUS_CLKOUT_REJECT = true ∧
      (∀ j : Fin 4, j ≠ k → t.clkout j = s.clkout j) ∧ Within [.regs, .clk, .tb, .loop, .sky, .tlm, .twin] s t) ∧
  (∀ (s : State) (k : Fin 4) (n : Nat), s.flag F.TBASE_LIVE_RUNNING = true → 0 < incCur s → 0 < (clkoutShape s k).1 → clkoutPlace k s = some n →
    ∃ inst : Int, (inst - (((clkoutShape s k).2 * nsUnit * 16 : Nat) : Int)) % ((80 * (clkoutShape s k).1 * nsUnit * 16 : Nat) : Int) = 0 ∧
      (2 * (inst - (((16 * s.tb.value + n * incCur s) * 1000 : Nat) : Int))).natAbs ≤ 1000 * incCur s) ∧
  (∀ (s : State),
    Answers .lockAUpdate s fun t =>
      (s.pwr.mainUp = false → t.fld F.LOOP_LOCK_A_DENSITY = 0) ∧
      (s.pwr.mainUp = true → s.fld F.LOOP_STATUS_STATE ≠ 2 → t.fld F.LOOP_LOCK_A_DENSITY = nth 0 [2, 6, 8, 6, 4, 4, 0, 0] (s.fld F.LOOP_STATUS_STATE)) ∧
      (s.pwr.mainUp = true → s.fld F.LOOP_STATUS_STATE = 2 → 8 ≤ t.fld F.LOOP_LOCK_A_DENSITY) ∧
      t.loop = { s.loop with lockA := if s.flag F.LOOP_LOCK_A_EN then t.fld F.LOOP_LOCK_A_DENSITY else 0 } ∧ Touches [.loop] [F.LOOP_LOCK_A_DENSITY] s t) ∧
  (∀ (s : State) (ag : Agent) (d : Word), s.pwr.mainUp = true → pf1Denied ag (Reg.LOOP_LOCK_A) s = false →
    Answers (.lockAEnWrite ag d) s fun t =>
      t.flag F.LOOP_LOCK_A_EN = d.getLsbD 0 ∧ t.fld F.LOOP_LOCK_A_FULL_PS = max 1 (bits d 8 24) ∧
      t.loop = { s.loop with lockA := if d.getLsbD 0 then s.loop.lockA else 0 } ∧ Touches [.loop] [F.LOOP_LOCK_A_EN, F.LOOP_LOCK_A_FULL_PS] s t)

/-- R288, R289: the rise of EN samples SIGNAL and PRN; where they or the band do not allow it the channel stays off, EN reads 0 and CFG_REJECT sets; otherwise, at the sample count S at which
the rise applies (the operand n, which moves SKY_SAMPLE_COUNT forward only: the model's choice, log 16), the code phase, in 2^−32 chips, is
CODE_AT_START × 2^16 + ((S − START_SAMPLE) mod 2^32) × CODE_INC modulo the length of the primary code, and the carrier phase is 0. No other channel changes. -/
def Obligations.ChannelsStartOnTheirCodePhase : Prop :=
  (∀ (s : State) (k : Fin 4) (c : Fin 64) (d : Word) (n : BitVec 32), s.pwr.mainUp = true → (k = 1 → s.rbit Reg.HOST_PF1_WRITE_EN 17 = true) → s.sky.stopped = false → (s.chan c).on = false →
      bits d 1 3 ≠ 0 → 1 ≤ bits d 4 6 → bits d 4 6 ≤ (if bits d 1 3 ≤ 3 then 63 else 50) → (if bits d 1 3 = 1 ∨ bits d 1 3 = 4 ∨ bits d 1 3 = 5 then s.flag F.SKY_CTRL_L1_EN else s.flag F.SKY_CTRL_L5_EN) = true →
    Answers (.skyChannelStart k c d n) s fun t =>
      (t.chan c).on = true ∧ (t.chan c).signal = bits d 1 3 ∧ (t.chan c).prn = bits d 4 6 ∧ (t.chan c).carr = 0 ∧
      (t.chan c).code = ((s.indw 5 (chanWord c 5)).toNat * 2 ^ 16 +
        ((t.reg Reg.SKY_SAMPLE_COUNT).toNat + 2 ^ 32 - (s.indw 5 (chanWord c 4)).toNat) % 2 ^ 32 * (s.indw 5 (chanWord c 2)).toNat) % ((if bits d 1 3 = 1 then 1023 else if bits d 1 3 = 4 ∨ bits d 1 3 = 5 then 4092 else 10230) * 2 ^ 32) ∧
      t.reg Reg.SKY_SAMPLE_COUNT = (if s.flag F.SKY_CTRL_EN = true ∧ (n.toNat + 2 ^ 32 - (s.reg Reg.SKY_SAMPLE_COUNT).toNat) % 2 ^ 32 < 2 ^ 31 then n else s.reg Reg.SKY_SAMPLE_COUNT) ∧ (t.chan c).count = (t.reg Reg.SKY_SAMPLE_COUNT).toNat ∧
      (t.chan c).eSp = s.ifld 5 (chanWord c 1) 0 5 ∧ (t.chan c).veSp = s.ifld 5 (chanWord c 1) 8 5 ∧
      (t.chan c).codeInc = (s.indw 5 (chanWord c 2)).toNat ∧ (t.chan c).carrInc = signed 32 (s.indw 5 (chanWord c 3)).toNat ∧
      t.indw 5 (chanWord c 0) = (d ||| 1) &&& 0xFFF ∧ (∀ j ∈ List.range 64, j ≠ c.val → t.chan j = s.chan j) ∧
      IndKeep [(5, chanWord c 0), (5, chanWord c 10), (5, chanWord c 11)] s t ∧
      Touches [.ind, .sky] [F.SKY_LIVE_LOCKED_COUNT, whole Reg.SKY_SAMPLE_COUNT] s t) ∧
  (∀ (s : State) (k : Fin 4) (c : Fin 64) (d : Word) (n : BitVec 32), s.pwr.mainUp = true → (k = 1 → s.rbit Reg.HOST_PF1_WRITE_EN 17 = true) → s.sky.stopped = false → (s.chan c).on = false →
      (bits d 1 3 = 0 ∨ bits d 4 6 = 0 ∨ (if bits d 1 3 ≤ 3 then 63 else 50) < bits d 4 6 ∨ (if bits d 1 3 = 1 ∨ bits d 1 3 = 4 ∨ bits d 1 3 = 5 then s.flag F.SKY_CTRL_L1_EN else s.flag F.SKY_CTRL_L5_EN) = false) →
    Answers (.skyChannelStart k c d n) s fun t =>
      (t.chan c).on = false ∧ t.ifld 5 (chanWord c 0) 0 1 = 0 ∧ t.flag F.SKY_INT_STATUS_CFG_REJECT = true ∧
      (∀ j ∈ List.range 64, j ≠ c.val → t.chan j = s.chan j) ∧ IndKeep [(5, chanWord c 0)] s t ∧ Touches [.ind, .sky] [F.SKY_INT_STATUS_CFG_REJECT, whole Reg.SKY_SAMPLE_COUNT] s t)

/-- Channels that run (R288, R290, R291, R296, R297): a stop clears EN and the navigation state at once; CODE_INC, CARR_INC and a spacing in order are stored and wait for the next dump boundary, a spacing out of order is rejected
with CFG_REJECT; a dump at its boundary counts SEQ, writes the record with both phases and the five
complex sums of its samples, sign-extended (samples of a disabled band are zeros, and give sums of 0), and takes the waiting settings with NCO_NEW in the next record; with 16 free records
or fewer it is dropped with RING_FULL; while SKY_CLK is stopped an access ends with TIMEOUT. A dump that brings exactly its samples and lands on the next boundary, and the TIMEOUT, are log 16; the replica is log 21;
the bytes of the ring in SRAM are log 4. -/
def Obligations.ChannelsDumpStopAndTakeSettings : Prop :=
  (∀ (s : State) (k : Fin 4) (c : Fin 64) (d : Word), s.pwr.mainUp = true → (k = 1 → s.rbit Reg.HOST_PF1_WRITE_EN 17 = true) → s.sky.stopped = false →
    Answers (.skyChannelStop k c d) s fun t =>
      t.chan c = { navClear (s.chan c) with on := false, ncoNew := false } ∧
      t.ifld 5 (chanWord c 0) 0 1 = 0 ∧ t.indw 5 (chanWord c 11) = 0 ∧ chanRead t (chanWord c 8) = chanRead s (chanWord c 8) ∧ chanRead t (chanWord c 9) = chanRead s (chanWord c 9) ∧ (∀ j ∈ List.range 64, j ≠ c.val → t.chan j = s.chan j) ∧
      IndKeep [(5, chanWord c 0), (5, chanWord c 8), (5, chanWord c 9), (5, chanWord c 11)] s t ∧ Touches [.ind, .sky] [F.SKY_LIVE_LOCKED_COUNT] s t) ∧
  (∀ (s : State) (k : Fin 4) (c : Fin 64) (w : Fin 3) (d : Word), s.pwr.mainUp = true → (k = 1 → s.rbit Reg.HOST_PF1_WRITE_EN 17 = true) → s.sky.stopped = false → w ≠ 0 →
    Answers (.skyNcoWrite k c w d) s fun t =>
      t.indw 5 (chanWord c (1 + w.val)) = d ∧ t.chan c = { s.chan c with dirty := true } ∧ (∀ j ∈ List.range 64, j ≠ c.val → t.chan j = s.chan j) ∧
      IndKeep [(5, chanWord c (1 + w.val))] s t ∧ Within [.ind, .sky] s t) ∧
  (∀ (s : State) (k : Fin 4) (c : Fin 64) (d : Word), s.pwr.mainUp = true → (k = 1 → s.rbit Reg.HOST_PF1_WRITE_EN 17 = true) → s.sky.stopped = false → bits d 0 5 ≠ 0 → bits d 0 5 < bits d 8 5 →
    Answers (.skyNcoWrite k c 0 d) s fun t =>
      t.indw 5 (chanWord c 1) = d &&& 0x1F1F ∧ t.chan c = { s.chan c with dirty := true } ∧ (∀ j ∈ List.range 64, j ≠ c.val → t.chan j = s.chan j) ∧
      IndKeep [(5, chanWord c 1)] s t ∧ Within [.ind, .sky] s t) ∧
  (∀ (s : State) (k : Fin 4) (c : Fin 64) (d : Word), s.pwr.mainUp = true → (k = 1 → s.rbit Reg.HOST_PF1_WRITE_EN 17 = true) → s.sky.stopped = false → (bits d 0 5 = 0 ∨ bits d 8 5 ≤ bits d 0 5) →
    Answers (.skyNcoWrite k c 0 d) s fun t => t.flag F.SKY_INT_STATUS_CFG_REJECT = true ∧ Touches [] [F.SKY_INT_STATUS_CFG_REJECT] s t) ∧
  (∀ (s : State) (k : Fin 4) (c : Fin 64) (w : Fin 3) (d : Word) (n : BitVec 32) (i : Instr), s.pwr.mainUp = true → s.sky.stopped = true →
      i ∈ [Instr.skyChannelStart k c d n, .skyChannelStop k c d, .skyNcoWrite k c w d] →
    Answers i s fun t =>
      t.flag (F.IND_STATUS_TIMEOUT k) = true ∧ t.flag (F.IND_STATUS_ERR k) = true ∧ t.flag F.HOST_INT_STATUS_IND_ERR = true ∧
      Touches [] [F.IND_STATUS_TIMEOUT k, F.IND_STATUS_ERR k, F.HOST_INT_STATUS_IND_ERR] s t) ∧
  (∀ (s : State) (c : Fin 64) (n : BitVec 32) (k : Nat) (vs : List (BitVec 8)), s.pwr.mainUp = true → s.flag F.SKY_CTRL_EN = true → (s.chan c).on = true → vs.length = k → k ≠ 0 → n.toNat = ((s.chan c).count + k) % 2 ^ 32 → (s.chan c).count < 2 ^ 32 → k < 2 ^ 32 →
      ((s.chan c).code + k * (s.chan c).codeInc) / (dumpChips (s.chan c).signal * 2 ^ 32) = (s.chan c).code / (dumpChips (s.chan c).signal * 2 ^ 32) + 1 →
      ((s.chan c).code + k * (s.chan c).codeInc - (s.chan c).codeInc) / (dumpChips (s.chan c).signal * 2 ^ 32) = (s.chan c).code / (dumpChips (s.chan c).signal * 2 ^ 32) → 16 < ringFree s →
    Answers (.skyDump c n vs) s fun t =>
      (t.chan c).code = ((s.chan c).code + k * (s.chan c).codeInc) % (codeChips (s.chan c).signal * 2 ^ 32) ∧
      (t.chan c).carr = toBits 48 (((s.chan c).carr : Int) + (k : Int) * (s.chan c).carrInc) ∧ (t.chan c).count = n.toNat ∧ (t.chan c).ncoNew = (s.chan c).dirty ∧
      (t.chan c).codeInc = (if (s.chan c).dirty then (s.indw 5 (chanWord c 2)).toNat else (s.chan c).codeInc) ∧ (t.chan c).dirty = false ∧
      t.reg Reg.SKY_SAMPLE_COUNT = (if (n.toNat + 2 ^ 32 - (s.reg Reg.SKY_SAMPLE_COUNT).toNat) % 2 ^ 32 < 2 ^ 31 then n else s.reg Reg.SKY_SAMPLE_COUNT) ∧ t.indw 5 (chanWord c 10) = BitVec.ofNat 32 ((s.ifld 5 (chanWord c 10) 0 16 + 1) % 2 ^ 16) ∧
      t.sramBytes ((s.fld F.SKY_RING_BASE_BASE / 64 * 64 + s.fld F.SKY_RING_WR_WR % 2 ^ s.fld F.SKY_RING_LEN_LOG2 * 64) % 2 ^ 22) 64 = wordBytes ([BitVec.ofNat 32 (c.val + ((s.ifld 5 (chanWord c 10) 0 16 + 1) % 2 ^ 16) % 256 * 2 ^ 8 + flagAt (s.chan c).ncoNew 16 + 2 ^ 28), n,
        BitVec.ofNat 32 ((t.chan c).code / 2 ^ 16), BitVec.ofNat 32 ((t.chan c).carr / 2 ^ 16)] ++
        ((correlate (s.chan c) 0 (takeSamples s (s.chan c).signal n.toNat vs) (List.replicate 5 (0, 0))).flatMap fun y => [BitVec.ofNat 32 (toBits 32 y.1), BitVec.ofNat 32 (toBits 32 y.2)]) ++ [0, 0]) ∧ t.fld F.SKY_RING_WR_WR = (s.fld F.SKY_RING_WR_WR % 2 ^ s.fld F.SKY_RING_LEN_LOG2 + 1) % 2 ^ s.fld F.SKY_RING_LEN_LOG2 % 2 ^ 14 ∧
      ((n.toNat + 2 ^ 32 - (s.reg Reg.SKY_SAMPLE_COUNT).toNat) % 2 ^ 32 < 2 ^ 31 → chanRead t (chanWord c 8) = BitVec.ofNat 32 ((t.chan c).code / 2 ^ 16) ∧ chanRead t (chanWord c 9) = BitVec.ofNat 32 ((t.chan c).carr / 2 ^ 16)) ∧
      (∀ j ∈ List.range 64, j ≠ c.val → t.chan j = s.chan j) ∧ SramKeep ((s.fld F.SKY_RING_BASE_BASE / 64 * 64 + s.fld F.SKY_RING_WR_WR % 2 ^ s.fld F.SKY_RING_LEN_LOG2 * 64) % 2 ^ 22) 64 s t ∧ IndKeep [(5, chanWord c 10)] s t ∧
      Touches [.ind, .sram, .sky] [whole Reg.SKY_SAMPLE_COUNT, F.SKY_RING_WR_WR] s t) ∧
  (∀ (s : State) (c : Fin 64) (n : BitVec 32) (k : Nat) (vs : List (BitVec 8)), s.pwr.mainUp = true → s.flag F.SKY_CTRL_EN = true → (s.chan c).on = true → vs.length = k → k ≠ 0 → n.toNat = ((s.chan c).count + k) % 2 ^ 32 → (s.chan c).count < 2 ^ 32 → k < 2 ^ 32 →
      ((s.chan c).code + k * (s.chan c).codeInc) / (dumpChips (s.chan c).signal * 2 ^ 32) = (s.chan c).code / (dumpChips (s.chan c).signal * 2 ^ 32) + 1 →
      ((s.chan c).code + k * (s.chan c).codeInc - (s.chan c).codeInc) / (dumpChips (s.chan c).signal * 2 ^ 32) = (s.chan c).code / (dumpChips (s.chan c).signal * 2 ^ 32) → ringFree s ≤ 16 →
    Answers (.skyDump c n vs) s fun t =>
      t.flag F.SKY_INT_STATUS_RING_FULL = true ∧ t.reg Reg.SKY_RING_DROP = s.reg Reg.SKY_RING_DROP + 1 ∧ t.indw 5 (chanWord c 10) = BitVec.ofNat 32 ((s.ifld 5 (chanWord c 10) 0 16 + 1) % 2 ^ 16) ∧
      (∀ j ∈ List.range 64, j ≠ c.val → t.chan j = s.chan j) ∧ Touches [.ind, .sky] [whole Reg.SKY_SAMPLE_COUNT, whole Reg.SKY_RING_DROP, F.SKY_INT_STATUS_RING_FULL, F.SKY_INT_STATUS_CNT_OVF] s t) ∧
  (∀ (x : ChanSt) (n j : Nat), correlate x j (List.replicate n (0, 0)) (List.replicate 5 (0, 0)) = List.replicate 5 (0, 0))

/-- Navigation (R293 to R297; the parity of IS-GPS-200 and CRC-24Q are the model's reading, log 21; the 2,001 prompts, 362 bits and 500 symbols it keeps are log 16): bit sync needs one position with at least 8 changes and twice any other; a TLM word is kept until its HOW word passes, which sets FRAME_SYNC and INV and records
both; each later word is recorded as the next of ten with its PASS; the fifth failure in a row clears FRAME_SYNC; an I/NAV page is recorded with its 196 bits and its CRC, and an odd part alone is discarded; without NAV_EN nothing is decoded. -/
def Obligations.NavigationData : Prop :=
  (∀ (s : State) (c : Fin 64) (n : BitVec 32) (k : Nat) (vs : List (BitVec 8)), s.pwr.mainUp = true → s.flag F.SKY_CTRL_EN = true → (s.chan c).on = true → vs.length = k → k ≠ 0 → n.toNat = ((s.chan c).count + k) % 2 ^ 32 → (s.chan c).count < 2 ^ 32 → k < 2 ^ 32 →
      ((s.chan c).code + k * (s.chan c).codeInc) / (dumpChips (s.chan c).signal * 2 ^ 32) = (s.chan c).code / (dumpChips (s.chan c).signal * 2 ^ 32) + 1 →
      ((s.chan c).code + k * (s.chan c).codeInc - (s.chan c).codeInc) / (dumpChips (s.chan c).signal * 2 ^ 32) = (s.chan c).code / (dumpChips (s.chan c).signal * 2 ^ 32) → (s.chan c).on = true → bit (s.indw 5 (chanWord c 0)) 10 = true →
    Answers (.skyDump c n vs) s fun t =>
      (t.chan c).dumps = (s.chan c).dumps + 1 ∧ ((s.chan c).signal = 1 → s.ifld 5 (chanWord c 11) 0 1 = 0 → (t.chan c).prompts = ((nth (0, 0) (correlate (s.chan c) 0 (takeSamples s (s.chan c).signal n.toNat vs) (List.replicate 5 (0, 0))) 2).1 :: (s.chan c).prompts).take 2001) ∧
      ((s.chan c).signal = 1 → s.ifld 5 (chanWord c 11) 0 1 = 1 → (s.chan c).dumps % 20 ≠ (s.chan c).bitPos → (s.chan c).accN = 19 →
        (t.chan c).bits = ((decide ((s.chan c).acc + (nth (0, 0) (correlate (s.chan c) 0 (takeSamples s (s.chan c).signal n.toNat vs) (List.replicate 5 (0, 0))) 2).1 < 0), n.toNat) :: (s.chan c).bits).take 362) ∧
      ((s.chan c).signal = 4 → (s.chan c).code / 2 ^ 32 / 1023 = 3 → (s.chan c).accN = 3 → (t.chan c).syms = (((s.chan c).acc + (nth (0, 0) (correlate (s.chan c) 0 (takeSamples s (s.chan c).signal n.toNat vs) (List.replicate 5 (0, 0))) 2).1, n.toNat) :: (s.chan c).syms).take 500) ∧
      (∀ j ∈ List.range 64, j ≠ c.val → t.chan j = s.chan j) ∧ Within [.regs, .ind, .sram, .sky] s t) ∧
  (∀ (s : State) (c : Fin 64) (k : Nat), s.pwr.mainUp = true → (s.chan c).on = true → bit (s.indw 5 (chanWord c 0)) 10 = true → (s.chan c).signal = 1 → s.ifld 5 (chanWord c 11) 0 1 = 0 → 2001 ≤ (s.chan c).prompts.length →
      k < 20 → 8 ≤ nth 0 (signChanges ((s.chan c).dumps + 19) (s.chan c).prompts) k →
      (∀ j ∈ List.range 20, j ≠ k → 2 * nth 0 (signChanges ((s.chan c).dumps + 19) (s.chan c).prompts) j ≤ nth 0 (signChanges ((s.chan c).dumps + 19) (s.chan c).prompts) k) →
    Answers (.bitSync c) s fun t =>
      t.ifld 5 (chanWord c 11) 0 1 = 1 ∧ t.chan c = { s.chan c with prompts := [], bitPos := k, acc := 0, accN := 0, bits := [] } ∧ (∀ j ∈ List.range 64, j ≠ c.val → t.chan j = s.chan j) ∧
      IndKeep [(5, chanWord c 11)] s t ∧ Within [.ind, .sky] s t) ∧
  (∀ (s : State) (c : Fin 64), s.pwr.mainUp = true → (s.chan c).on = true → bit (s.indw 5 (chanWord c 0)) 10 = true → (s.chan c).signal = 1 → s.ifld 5 (chanWord c 11) 0 1 = 0 → 2001 ≤ (s.chan c).prompts.length →
      (∀ k ∈ List.range 20, nth 0 (signChanges ((s.chan c).dumps + 19) (s.chan c).prompts) k < 8) →
    Answers (.bitSync c) s fun t => (t.chan c).prompts = (s.chan c).prompts.take 1 ∧ t.ind = s.ind ∧ (∀ j ∈ List.range 64, j ≠ c.val → t.chan j = s.chan j) ∧ Within [.sky] s t) ∧
  (∀ (s : State) (c : Fin 64) (k : Nat) (inv : Bool), s.pwr.mainUp = true → (s.chan c).on = true → bit (s.indw 5 (chanWord c 0)) 10 = true → (s.chan c).signal = 4 → s.ifld 5 (chanWord c 11) 1 1 = 0 →
      partPattern inv (((s.chan c).syms.drop k).map (·.1)) = true →
      (∀ j ∈ List.range (s.chan c).syms.length, k < j → ∀ b : Bool, partPattern b (((s.chan c).syms.drop j).map (·.1)) = false) →
    Answers (.bitSync c) s fun t =>
      t.ifld 5 (chanWord c 11) 0 3 = (if inv then 7 else 3) ∧ t.chan c = { s.chan c with syms := (s.chan c).syms.take k, skip := 0, even := none } ∧ (∀ j ∈ List.range 64, j ≠ c.val → t.chan j = s.chan j) ∧
      IndKeep [(5, chanWord c 11)] s t ∧ Within [.ind, .sky] s t) ∧
  (∀ (s : State) (c : Fin 64) (k : Nat), s.pwr.mainUp = true → (s.chan c).on = true → bit (s.indw 5 (chanWord c 0)) 10 = true → (s.chan c).signal = 1 → s.ifld 5 (chanWord c 11) 0 2 = 1 →
      lnavFrame (((s.chan c).bits.drop k).map (·.1)) = true → (∀ j ∈ List.range (s.chan c).bits.length, k < j → lnavFrame (((s.chan c).bits.drop j).map (·.1)) = false) →
      1 < ringFree s → s.fld F.SKY_RING_LEN_LOG2 ≤ 14 →
    Answers (.skyLnavWord c) s fun t =>
      t.ifld 5 (chanWord c 11) 1 1 = 1 ∧ (t.chan c).word = 2 ∧ (t.chan c).fails = 0 ∧ (t.chan c).bits = (s.chan c).bits.take (k + 2) ∧
      t.ifld 5 (chanWord c 11) 2 1 = (if bitsNat (((s.chan c).bits.drop (k + 52)).take 8 |>.map (·.1)) = 0b01110100 then 1 else 0) ∧
      t.ifld 5 (chanWord c 11) 8 8 = (s.ifld 5 (chanWord c 11) 8 8 + 2) % 256 ∧
      bits (BitVec.ofNat 32 ((t.sramBytes ((s.fld F.SKY_RING_BASE_BASE / 64 * 64 + s.fld F.SKY_RING_WR_WR % 2 ^ s.fld F.SKY_RING_LEN_LOG2 * 64) % 2 ^ 22) 4).foldr (fun b n => 256 * n + b.toNat) 0)) 0 16 = c.val + 2 ^ 8 ∧
      t.fld F.SKY_RING_WR_WR = (s.fld F.SKY_RING_WR_WR % 2 ^ s.fld F.SKY_RING_LEN_LOG2 + 2) % 2 ^ s.fld F.SKY_RING_LEN_LOG2 ∧
      (∀ b, b < sramSize → 64 ≤ (b + sramSize - ((s.fld F.SKY_RING_BASE_BASE / 64 * 64 + s.fld F.SKY_RING_WR_WR % 2 ^ s.fld F.SKY_RING_LEN_LOG2 * 64) % 2 ^ 22) % sramSize) % sramSize → 64 ≤ (b + sramSize - ((s.fld F.SKY_RING_BASE_BASE / 64 * 64 + (s.fld F.SKY_RING_WR_WR % 2 ^ s.fld F.SKY_RING_LEN_LOG2 + 1) % 2 ^ s.fld F.SKY_RING_LEN_LOG2 * 64) % 2 ^ 22) % sramSize) % sramSize → t.sramByte b = s.sramByte b) ∧ (∀ j ∈ List.range 64, j ≠ c.val → t.chan j = s.chan j) ∧ IndKeep [(5, chanWord c 11)] s t ∧ Touches [.ind, .sram, .sky] [F.SKY_RING_WR_WR] s t) ∧
  (∀ (s : State) (c : Fin 64), s.pwr.mainUp = true → (s.chan c).on = true → bit (s.indw 5 (chanWord c 0)) 10 = true → (s.chan c).signal = 1 → s.ifld 5 (chanWord c 11) 0 2 = 3 → 32 ≤ (s.chan c).bits.length → lnavParity ((bitsNat (((((s.chan c).bits.drop ((s.chan c).bits.length - 32)).map (·.1)).drop 30).take 2)) / 2) ((bitsNat (((((s.chan c).bits.drop ((s.chan c).bits.length - 32)).map (·.1)).drop 30).take 2)) % 2) (bitsNat ((((s.chan c).bits.drop ((s.chan c).bits.length - 32)).take 30).map (·.1))) = (bitsNat ((((s.chan c).bits.drop ((s.chan c).bits.length - 32)).take 30).map (·.1))) % 64 → ringFree s ≠ 0 →
    Answers (.skyLnavWord c) s fun t =>
      t.ifld 5 (chanWord c 11) 8 8 = (s.ifld 5 (chanWord c 11) 8 8 + 1) % 256 ∧
      t.chan c = { s.chan c with bits := (s.chan c).bits.take ((s.chan c).bits.length - 30), word := (s.chan c).word % 10 + 1, fails := 0 } ∧
      t.sramBytes ((s.fld F.SKY_RING_BASE_BASE / 64 * 64 + s.fld F.SKY_RING_WR_WR % 2 ^ s.fld F.SKY_RING_LEN_LOG2 * 64) % 2 ^ 22) 64 = wordBytes ([BitVec.ofNat 32 (c.val + ((s.chan c).word % 10 + 1) * 2 ^ 8 + 2 ^ 16 + flagAt (bit (s.indw 5 (chanWord c 11)) 2) 17 + 3 * 2 ^ 28),
        BitVec.ofNat 32 (nth (false, 0) ((s.chan c).bits.drop ((s.chan c).bits.length - 32)) 0).2, BitVec.ofNat 32 ((if (bitsNat (((((s.chan c).bits.drop ((s.chan c).bits.length - 32)).map (·.1)).drop 30).take 2)) % 2 = 1 then 2 ^ 24 - 1 - (bitsNat ((((s.chan c).bits.drop ((s.chan c).bits.length - 32)).take 30).map (·.1))) / 64 else (bitsNat ((((s.chan c).bits.drop ((s.chan c).bits.length - 32)).take 30).map (·.1))) / 64) * 64 + (bitsNat ((((s.chan c).bits.drop ((s.chan c).bits.length - 32)).take 30).map (·.1))) % 64)] ++ List.replicate 13 0) ∧
      t.fld F.SKY_RING_WR_WR = (s.fld F.SKY_RING_WR_WR % 2 ^ s.fld F.SKY_RING_LEN_LOG2 + 1) % 2 ^ s.fld F.SKY_RING_LEN_LOG2 % 2 ^ 14 ∧ (∀ j ∈ List.range 64, j ≠ c.val → t.chan j = s.chan j) ∧ SramKeep ((s.fld F.SKY_RING_BASE_BASE / 64 * 64 + s.fld F.SKY_RING_WR_WR % 2 ^ s.fld F.SKY_RING_LEN_LOG2 * 64) % 2 ^ 22) 64 s t ∧ IndKeep [(5, chanWord c 11)] s t ∧ Touches [.ind, .sram, .sky] [F.SKY_RING_WR_WR] s t) ∧
  (∀ (s : State) (c : Fin 64), s.pwr.mainUp = true → (s.chan c).on = true → bit (s.indw 5 (chanWord c 0)) 10 = true → (s.chan c).signal = 1 → s.ifld 5 (chanWord c 11) 0 2 = 3 → 32 ≤ (s.chan c).bits.length → lnavParity ((bitsNat (((((s.chan c).bits.drop ((s.chan c).bits.length - 32)).map (·.1)).drop 30).take 2)) / 2) ((bitsNat (((((s.chan c).bits.drop ((s.chan c).bits.length - 32)).map (·.1)).drop 30).take 2)) % 2) (bitsNat ((((s.chan c).bits.drop ((s.chan c).bits.length - 32)).take 30).map (·.1))) ≠ (bitsNat ((((s.chan c).bits.drop ((s.chan c).bits.length - 32)).take 30).map (·.1))) % 64 → ringFree s ≠ 0 →
    Answers (.skyLnavWord c) s fun t =>
      t.flag F.SKY_INT_STATUS_NAV_FAIL = true ∧ t.ifld 5 (chanWord c 11) 16 8 = (s.ifld 5 (chanWord c 11) 16 8 + 1) % 256 ∧
      t.ifld 5 (chanWord c 11) 1 1 = (if 4 ≤ (s.chan c).fails then 0 else 1) ∧ (t.chan c).fails = (if 4 ≤ (s.chan c).fails then 0 else (s.chan c).fails + 1) ∧
      t.sramBytes ((s.fld F.SKY_RING_BASE_BASE / 64 * 64 + s.fld F.SKY_RING_WR_WR % 2 ^ s.fld F.SKY_RING_LEN_LOG2 * 64) % 2 ^ 22) 64 = wordBytes ([BitVec.ofNat 32 (c.val + ((s.chan c).word % 10 + 1) * 2 ^ 8 + flagAt (bit (s.indw 5 (chanWord c 11)) 2) 17 + 3 * 2 ^ 28),
        BitVec.ofNat 32 (nth (false, 0) ((s.chan c).bits.drop ((s.chan c).bits.length - 32)) 0).2, BitVec.ofNat 32 ((if (bitsNat (((((s.chan c).bits.drop ((s.chan c).bits.length - 32)).map (·.1)).drop 30).take 2)) % 2 = 1 then 2 ^ 24 - 1 - (bitsNat ((((s.chan c).bits.drop ((s.chan c).bits.length - 32)).take 30).map (·.1))) / 64 else (bitsNat ((((s.chan c).bits.drop ((s.chan c).bits.length - 32)).take 30).map (·.1))) / 64) * 64 + (bitsNat ((((s.chan c).bits.drop ((s.chan c).bits.length - 32)).take 30).map (·.1))) % 64)] ++ List.replicate 13 0) ∧
      t.fld F.SKY_RING_WR_WR = (s.fld F.SKY_RING_WR_WR % 2 ^ s.fld F.SKY_RING_LEN_LOG2 + 1) % 2 ^ s.fld F.SKY_RING_LEN_LOG2 % 2 ^ 14 ∧ SramKeep ((s.fld F.SKY_RING_BASE_BASE / 64 * 64 + s.fld F.SKY_RING_WR_WR % 2 ^ s.fld F.SKY_RING_LEN_LOG2 * 64) % 2 ^ 22) 64 s t ∧ (∀ j ∈ List.range 64, j ≠ c.val → t.chan j = s.chan j) ∧ IndKeep [(5, chanWord c 11)] s t ∧ Touches [.ind, .sram, .sky] [F.SKY_RING_WR_WR, F.SKY_INT_STATUS_NAV_FAIL] s t) ∧
  (∀ (s : State) (c : Fin 64) (e : Nat), s.pwr.mainUp = true → (s.chan c).on = true → bit (s.indw 5 (chanWord c 0)) 10 = true → (s.chan c).signal = 4 → bit (s.indw 5 (chanWord c 11)) 1 = true → (s.chan c).skip + 240 ≤ (s.chan c).syms.length → (s.chan c).even = some e → ringFree s ≠ 0 →
    Answers (.skyInavPage c) s fun t =>
      ((decodePart (((((s.chan c).syms.drop ((s.chan c).syms.length - (s.chan c).skip - 240)).take 240).map fun (y : Int × Nat) => if bit (s.indw 5 (chanWord c 11)) 2 then -y.1 else y.1).reverse)).testBit 119 = true →
        t.sramBytes ((s.fld F.SKY_RING_BASE_BASE / 64 * 64 + s.fld F.SKY_RING_WR_WR % 2 ^ s.fld F.SKY_RING_LEN_LOG2 * 64) % 2 ^ 22) 64 = wordBytes ([BitVec.ofNat 32 (c.val + flagAt (decide (crc24q 196 (e / 2 ^ 6 * 2 ^ 82 + (decodePart (((((s.chan c).syms.drop ((s.chan c).syms.length - (s.chan c).skip - 240)).take 240).map fun (y : Int × Nat) => if bit (s.indw 5 (chanWord c 11)) 2 then -y.1 else y.1).reverse)) / 2 ^ 38) = ((decodePart (((((s.chan c).syms.drop ((s.chan c).syms.length - (s.chan c).skip - 240)).take 240).map fun (y : Int × Nat) => if bit (s.indw 5 (chanWord c 11)) 2 then -y.1 else y.1).reverse)) / 2 ^ 14 % 2 ^ 24))) 16 + flagAt ((e / 2 ^ 6 * 2 ^ 82 + (decodePart (((((s.chan c).syms.drop ((s.chan c).syms.length - (s.chan c).skip - 240)).take 240).map fun (y : Int × Nat) => if bit (s.indw 5 (chanWord c 11)) 2 then -y.1 else y.1).reverse)) / 2 ^ 38).testBit 194) 17 + 4 * 2 ^ 28),
          BitVec.ofNat 32 (nth (0, 0) (((s.chan c).syms.drop ((s.chan c).syms.length - (s.chan c).skip - 240)).take 240) 0).2] ++
          ([6, 5, 4, 3, 2, 1, 0].map fun i => BitVec.ofNat 32 (((e / 2 ^ 6 * 2 ^ 82 + (decodePart (((((s.chan c).syms.drop ((s.chan c).syms.length - (s.chan c).skip - 240)).take 240).map fun (y : Int × Nat) => if bit (s.indw 5 (chanWord c 11)) 2 then -y.1 else y.1).reverse)) / 2 ^ 38) * 2 ^ 28 + ((decodePart (((((s.chan c).syms.drop ((s.chan c).syms.length - (s.chan c).skip - 240)).take 240).map fun (y : Int × Nat) => if bit (s.indw 5 (chanWord c 11)) 2 then -y.1 else y.1).reverse)) / 2 ^ 14 % 2 ^ 24) * 2 ^ 4) / 2 ^ (32 * i))) ++ List.replicate 7 0) ∧
        t.ifld 5 (chanWord c 11) 8 8 = (s.ifld 5 (chanWord c 11) 8 8 + (if crc24q 196 (e / 2 ^ 6 * 2 ^ 82 + (decodePart (((((s.chan c).syms.drop ((s.chan c).syms.length - (s.chan c).skip - 240)).take 240).map fun (y : Int × Nat) => if bit (s.indw 5 (chanWord c 11)) 2 then -y.1 else y.1).reverse)) / 2 ^ 38) = ((decodePart (((((s.chan c).syms.drop ((s.chan c).syms.length - (s.chan c).skip - 240)).take 240).map fun (y : Int × Nat) => if bit (s.indw 5 (chanWord c 11)) 2 then -y.1 else y.1).reverse)) / 2 ^ 14 % 2 ^ 24) then 1 else 0)) % 256 ∧
        t.ifld 5 (chanWord c 11) 16 8 = (s.ifld 5 (chanWord c 11) 16 8 + (if crc24q 196 (e / 2 ^ 6 * 2 ^ 82 + (decodePart (((((s.chan c).syms.drop ((s.chan c).syms.length - (s.chan c).skip - 240)).take 240).map fun (y : Int × Nat) => if bit (s.indw 5 (chanWord c 11)) 2 then -y.1 else y.1).reverse)) / 2 ^ 38) = ((decodePart (((((s.chan c).syms.drop ((s.chan c).syms.length - (s.chan c).skip - 240)).take 240).map fun (y : Int × Nat) => if bit (s.indw 5 (chanWord c 11)) 2 then -y.1 else y.1).reverse)) / 2 ^ 14 % 2 ^ 24) then 0 else 1)) % 256 ∧
        (crc24q 196 (e / 2 ^ 6 * 2 ^ 82 + (decodePart (((((s.chan c).syms.drop ((s.chan c).syms.length - (s.chan c).skip - 240)).take 240).map fun (y : Int × Nat) => if bit (s.indw 5 (chanWord c 11)) 2 then -y.1 else y.1).reverse)) / 2 ^ 38) ≠ ((decodePart (((((s.chan c).syms.drop ((s.chan c).syms.length - (s.chan c).skip - 240)).take 240).map fun (y : Int × Nat) => if bit (s.indw 5 (chanWord c 11)) 2 then -y.1 else y.1).reverse)) / 2 ^ 14 % 2 ^ 24) → t.flag F.SKY_INT_STATUS_NAV_FAIL = true) ∧ t.fld F.SKY_RING_WR_WR = (s.fld F.SKY_RING_WR_WR % 2 ^ s.fld F.SKY_RING_LEN_LOG2 + 1) % 2 ^ s.fld F.SKY_RING_LEN_LOG2 % 2 ^ 14 ∧ (t.chan c).even = none) ∧
      ((decodePart (((((s.chan c).syms.drop ((s.chan c).syms.length - (s.chan c).skip - 240)).take 240).map fun (y : Int × Nat) => if bit (s.indw 5 (chanWord c 11)) 2 then -y.1 else y.1).reverse)).testBit 119 = false → (t.chan c).even = some (decodePart (((((s.chan c).syms.drop ((s.chan c).syms.length - (s.chan c).skip - 240)).take 240).map fun (y : Int × Nat) => if bit (s.indw 5 (chanWord c 11)) 2 then -y.1 else y.1).reverse)) ∧ Within [.sky] s t) ∧
      (t.chan c).syms = (s.chan c).syms.take ((s.chan c).syms.length - (s.chan c).skip - 240) ∧ (t.chan c).skip = 10 ∧
      SramKeep ((s.fld F.SKY_RING_BASE_BASE / 64 * 64 + s.fld F.SKY_RING_WR_WR % 2 ^ s.fld F.SKY_RING_LEN_LOG2 * 64) % 2 ^ 22) 64 s t ∧ (∀ j ∈ List.range 64, j ≠ c.val → t.chan j = s.chan j) ∧ IndKeep [(5, chanWord c 11)] s t ∧ Touches [.ind, .sram, .sky] [F.SKY_RING_WR_WR, F.SKY_INT_STATUS_NAV_FAIL] s t) ∧
  (∀ (s : State) (c : Fin 64), s.pwr.mainUp = true → (s.chan c).on = true → bit (s.indw 5 (chanWord c 0)) 10 = true → (s.chan c).signal = 4 → bit (s.indw 5 (chanWord c 11)) 1 = true → (s.chan c).skip + 240 ≤ (s.chan c).syms.length → (s.chan c).even = none →
    Answers (.skyInavPage c) s fun t =>
      t.chan c = { s.chan c with syms := (s.chan c).syms.take ((s.chan c).syms.length - (s.chan c).skip - 240), skip := 10, even := if (decodePart (((((s.chan c).syms.drop ((s.chan c).syms.length - (s.chan c).skip - 240)).take 240).map fun (y : Int × Nat) => if bit (s.indw 5 (chanWord c 11)) 2 then -y.1 else y.1).reverse)).testBit 119 then none else some (decodePart (((((s.chan c).syms.drop ((s.chan c).syms.length - (s.chan c).skip - 240)).take 240).map fun (y : Int × Nat) => if bit (s.indw 5 (chanWord c 11)) 2 then -y.1 else y.1).reverse)) } ∧
      (∀ j ∈ List.range 64, j ≠ c.val → t.chan j = s.chan j) ∧ Within [.sky] s t) ∧
  (∀ (s : State) (c : Fin 64) (i : Instr), s.pwr.mainUp = true → bit (s.indw 5 (chanWord c 0)) 10 = false → i ∈ [Instr.bitSync c, .skyLnavWord c, .skyInavPage c] →
    Answers i s fun t => t = s)

/-- Fixes (R298 to R301): SUBMIT discards a fix of another epoch or out of time; one that fails a test of 3 to 7, or, against a passing fix of the last 10 s, test 8, counts and clears TIME_VALID and the run; one that passes becomes the last passing fix, and sets
TIME_VALID where it completes the run; the timeout and too few locked channels clear TIME_VALID; a delivery gives reference 20 the offset carried to the latest multiple of 500,000 ns.
The 10 s counted from T_fix, PRED of a discarded fix, the run cleared with TIME_VALID and the instant of a delivery are log 16. -/
def Obligations.FixesAndDeliveries : Prop :=
  (∀ (s : State) (ag : Agent) (d : Word), s.pwr.mainUp = true → pf1Denied ag Reg.SKY_FIX_CMD s = false → bits (s.reg (Reg.SKY_FIX_T 0)) 26 2 ≠ epochNow s →
    Answers (.submit ag d) s fun t =>
      t.fld F.SKY_FIX_STATUS_RESULT = 1 ∧ t.flag F.SKY_INT_STATUS_FIX_DISCARD = true ∧
      Touches [] [F.SKY_FIX_STATUS_RESULT, F.SKY_FIX_STATUS_PRED, F.SKY_INT_STATUS_FIX_DISCARD] s t) ∧
  (∀ (s : State) (ag : Agent) (d : Word), s.pwr.mainUp = true → pf1Denied ag Reg.SKY_FIX_CMD s = false → bits (s.reg (Reg.SKY_FIX_T 0)) 26 2 = epochNow s →
      (s.tb.value < (recordValue (tbFormat s) (s.reg (Reg.SKY_FIX_T 0)) (s.reg (Reg.SKY_FIX_T 1)) (s.reg (Reg.SKY_FIX_T 2)) (s.reg (Reg.SKY_FIX_T 3))) ∨ (recordValue (tbFormat s) (s.reg (Reg.SKY_FIX_T 0)) (s.reg (Reg.SKY_FIX_T 1)) (s.reg (Reg.SKY_FIX_T 2)) (s.reg (Reg.SKY_FIX_T 3))) + 1000000000 * nsUnit < s.tb.value) →
    Answers (.submit ag d) s fun t =>
      t.fld F.SKY_FIX_STATUS_RESULT = 2 ∧ t.flag F.SKY_INT_STATUS_FIX_DISCARD = true ∧
      Touches [] [F.SKY_FIX_STATUS_RESULT, F.SKY_FIX_STATUS_PRED, F.SKY_INT_STATUS_FIX_DISCARD] s t) ∧
  (∀ (s : State) (ag : Agent) (d : Word), s.pwr.mainUp = true → pf1Denied ag Reg.SKY_FIX_CMD s = false → bits (s.reg (Reg.SKY_FIX_T 0)) 26 2 = epochNow s → (recordValue (tbFormat s) (s.reg (Reg.SKY_FIX_T 0)) (s.reg (Reg.SKY_FIX_T 1)) (s.reg (Reg.SKY_FIX_T 2)) (s.reg (Reg.SKY_FIX_T 3))) ≤ s.tb.value → s.tb.value ≤ (recordValue (tbFormat s) (s.reg (Reg.SKY_FIX_T 0)) (s.reg (Reg.SKY_FIX_T 1)) (s.reg (Reg.SKY_FIX_T 2)) (s.reg (Reg.SKY_FIX_T 3))) + 1000000000 * nsUnit →
      (if s.fld F.SKY_FIX_INFO_NSAT < s.fld F.SKY_CHECK_MIN_SATS then 3 else if s.flag F.SKY_FIX_INFO_RAIM_OK = false then 4
        else if s.flag F.SKY_FIX_INFO_XSIG_OK = false then 5 else if (s.reg Reg.SKY_TUNC_MAX).toNat < s.fld F.SKY_FIX_INFO_TUNC then 6
        else if s.fld F.SKY_CHECK_RATE_LIMIT * 65536 < (signed 32 (s.reg Reg.SKY_FIX_RATE).toNat).natAbs then 7 else 0) ≠ 0 →
    Answers (.submit ag d) s fun t =>
      t.fld F.SKY_FIX_STATUS_RESULT = (if s.fld F.SKY_FIX_INFO_NSAT < s.fld F.SKY_CHECK_MIN_SATS then 3 else if s.flag F.SKY_FIX_INFO_RAIM_OK = false then 4
        else if s.flag F.SKY_FIX_INFO_XSIG_OK = false then 5 else if (s.reg Reg.SKY_TUNC_MAX).toNat < s.fld F.SKY_FIX_INFO_TUNC then 6
        else if s.fld F.SKY_CHECK_RATE_LIMIT * 65536 < (signed 32 (s.reg Reg.SKY_FIX_RATE).toNat).natAbs then 7 else 0) ∧ t.flag F.SKY_FIX_STATUS_PRED = false ∧ t.fld F.SKY_FIX_STATUS_RUN = 0 ∧ t.flag F.SKY_LIVE_TIME_VALID = false ∧
      t.flag F.SKY_INT_STATUS_FIX_FAIL = true ∧ t.reg Reg.SKY_FIX_FAIL = s.reg Reg.SKY_FIX_FAIL + 1 ∧
      (s.flag F.SKY_LIVE_TIME_VALID = true → t.flag F.SKY_LIVE_TIME_STALE = true ∧ t.flag F.SKY_INT_STATUS_TIME_VALID_LOST = true) ∧
      Touches [] [F.SKY_LIVE_TIME_VALID, F.SKY_LIVE_TIME_STALE, F.SKY_INT_STATUS_TIME_VALID_LOST, F.SKY_FIX_STATUS_RUN, F.SKY_FIX_STATUS_RESULT, F.SKY_FIX_STATUS_PRED, F.SKY_INT_STATUS_FIX_FAIL, F.SKY_INT_STATUS_CNT_OVF, whole Reg.SKY_FIX_FAIL] s t) ∧
  (∀ (s : State) (ag : Agent) (d : Word) (f : FixSt), s.pwr.mainUp = true → pf1Denied ag Reg.SKY_FIX_CMD s = false → bits (s.reg (Reg.SKY_FIX_T 0)) 26 2 = epochNow s → (recordValue (tbFormat s) (s.reg (Reg.SKY_FIX_T 0)) (s.reg (Reg.SKY_FIX_T 1)) (s.reg (Reg.SKY_FIX_T 2)) (s.reg (Reg.SKY_FIX_T 3))) ≤ s.tb.value → s.tb.value ≤ (recordValue (tbFormat s) (s.reg (Reg.SKY_FIX_T 0)) (s.reg (Reg.SKY_FIX_T 1)) (s.reg (Reg.SKY_FIX_T 2)) (s.reg (Reg.SKY_FIX_T 3))) + 1000000000 * nsUnit →
      (if s.fld F.SKY_FIX_INFO_NSAT < s.fld F.SKY_CHECK_MIN_SATS then 3 else if s.flag F.SKY_FIX_INFO_RAIM_OK = false then 4
        else if s.flag F.SKY_FIX_INFO_XSIG_OK = false then 5 else if (s.reg Reg.SKY_TUNC_MAX).toNat < s.fld F.SKY_FIX_INFO_TUNC then 6
        else if s.fld F.SKY_CHECK_RATE_LIMIT * 65536 < (signed 32 (s.reg Reg.SKY_FIX_RATE).toNat).natAbs then 7 else 0) = 0 → s.sky.fix = some f → (s.tb.value : Int) ≤ f.t + ((10000000000 * nsUnit : Nat) : Int) →
      (s.reg Reg.SKY_CLK_LIMIT).toNat * 2 ^ 64 * 1000000000 < (((signed 64 (s.reg64 Reg.SKY_FIX_OFFSET_LO Reg.SKY_FIX_OFFSET_HI) * (2 ^ 32 : Nat)) - f.o) * ((2 ^ 16 * 1000000000 : Nat) : Int) - f.r * (((recordValue (tbFormat s) (s.reg (Reg.SKY_FIX_T 0)) (s.reg (Reg.SKY_FIX_T 1)) (s.reg (Reg.SKY_FIX_T 2)) (s.reg (Reg.SKY_FIX_T 3))) : Int) - f.t)).natAbs * 1000 →
    Answers (.submit ag d) s fun t =>
      t.fld F.SKY_FIX_STATUS_RESULT = 8 ∧ t.flag F.SKY_FIX_STATUS_PRED = true ∧ t.fld F.SKY_FIX_STATUS_RUN = 0 ∧ t.flag F.SKY_LIVE_TIME_VALID = false ∧
      t.flag F.SKY_INT_STATUS_FIX_FAIL = true ∧ t.reg Reg.SKY_FIX_FAIL = s.reg Reg.SKY_FIX_FAIL + 1 ∧
      (s.flag F.SKY_LIVE_TIME_VALID = true → t.flag F.SKY_LIVE_TIME_STALE = true ∧ t.flag F.SKY_INT_STATUS_TIME_VALID_LOST = true) ∧
      Touches [] [F.SKY_LIVE_TIME_VALID, F.SKY_LIVE_TIME_STALE, F.SKY_INT_STATUS_TIME_VALID_LOST, F.SKY_FIX_STATUS_RUN, F.SKY_FIX_STATUS_RESULT, F.SKY_FIX_STATUS_PRED, F.SKY_INT_STATUS_FIX_FAIL, F.SKY_INT_STATUS_CNT_OVF, whole Reg.SKY_FIX_FAIL] s t) ∧
  (∀ (s : State) (ag : Agent) (d : Word) (f : FixSt), s.pwr.mainUp = true → pf1Denied ag Reg.SKY_FIX_CMD s = false → bits (s.reg (Reg.SKY_FIX_T 0)) 26 2 = epochNow s → (recordValue (tbFormat s) (s.reg (Reg.SKY_FIX_T 0)) (s.reg (Reg.SKY_FIX_T 1)) (s.reg (Reg.SKY_FIX_T 2)) (s.reg (Reg.SKY_FIX_T 3))) ≤ s.tb.value → s.tb.value ≤ (recordValue (tbFormat s) (s.reg (Reg.SKY_FIX_T 0)) (s.reg (Reg.SKY_FIX_T 1)) (s.reg (Reg.SKY_FIX_T 2)) (s.reg (Reg.SKY_FIX_T 3))) + 1000000000 * nsUnit →
      (if s.fld F.SKY_FIX_INFO_NSAT < s.fld F.SKY_CHECK_MIN_SATS then 3 else if s.flag F.SKY_FIX_INFO_RAIM_OK = false then 4
        else if s.flag F.SKY_FIX_INFO_XSIG_OK = false then 5 else if (s.reg Reg.SKY_TUNC_MAX).toNat < s.fld F.SKY_FIX_INFO_TUNC then 6
        else if s.fld F.SKY_CHECK_RATE_LIMIT * 65536 < (signed 32 (s.reg Reg.SKY_FIX_RATE).toNat).natAbs then 7 else 0) = 0 → s.sky.fix = some f → (s.tb.value : Int) ≤ f.t + ((10000000000 * nsUnit : Nat) : Int) →
      (((signed 64 (s.reg64 Reg.SKY_FIX_OFFSET_LO Reg.SKY_FIX_OFFSET_HI) * (2 ^ 32 : Nat)) - f.o) * ((2 ^ 16 * 1000000000 : Nat) : Int) - f.r * (((recordValue (tbFormat s) (s.reg (Reg.SKY_FIX_T 0)) (s.reg (Reg.SKY_FIX_T 1)) (s.reg (Reg.SKY_FIX_T 2)) (s.reg (Reg.SKY_FIX_T 3))) : Int) - f.t)).natAbs * 1000 ≤ (s.reg Reg.SKY_CLK_LIMIT).toNat * 2 ^ 64 * 1000000000 →
    Answers (.submit ag d) s fun t =>
      t.fld F.SKY_FIX_STATUS_RESULT = 0 ∧ t.flag F.SKY_FIX_STATUS_PRED = true ∧ t.fld F.SKY_FIX_STATUS_RUN = min 15 (s.fld F.SKY_FIX_STATUS_RUN + 1) ∧
      t.sky = { s.sky with fix := some ⟨(signed 64 (s.reg64 Reg.SKY_FIX_OFFSET_LO Reg.SKY_FIX_OFFSET_HI) * (2 ^ 32 : Nat)), (recordValue (tbFormat s) (s.reg (Reg.SKY_FIX_T 0)) (s.reg (Reg.SKY_FIX_T 1)) (s.reg (Reg.SKY_FIX_T 2)) (s.reg (Reg.SKY_FIX_T 3))), (signed 32 (s.reg Reg.SKY_FIX_RATE).toNat)⟩ } ∧
      t.flag F.SKY_LIVE_TIME_VALID = (s.flag F.SKY_LIVE_TIME_VALID || decide (s.fld F.SKY_CHECK_PASS_RUN ≤ min 15 (s.fld F.SKY_FIX_STATUS_RUN + 1))) ∧
      (s.flag F.SKY_LIVE_TIME_VALID = false → t.flag F.SKY_LIVE_TIME_VALID = true → t.flag F.SKY_INT_STATUS_TIME_VALID_SET = true) ∧
      Touches [.sky] [F.SKY_FIX_STATUS_RESULT, F.SKY_FIX_STATUS_PRED, F.SKY_FIX_STATUS_RUN, F.SKY_LIVE_TIME_VALID, F.SKY_INT_STATUS_TIME_VALID_SET] s t) ∧
  (∀ (s : State) (ag : Agent) (d : Word), s.pwr.mainUp = true → pf1Denied ag Reg.SKY_FIX_CMD s = false → bits (s.reg (Reg.SKY_FIX_T 0)) 26 2 = epochNow s → (recordValue (tbFormat s) (s.reg (Reg.SKY_FIX_T 0)) (s.reg (Reg.SKY_FIX_T 1)) (s.reg (Reg.SKY_FIX_T 2)) (s.reg (Reg.SKY_FIX_T 3))) ≤ s.tb.value → s.tb.value ≤ (recordValue (tbFormat s) (s.reg (Reg.SKY_FIX_T 0)) (s.reg (Reg.SKY_FIX_T 1)) (s.reg (Reg.SKY_FIX_T 2)) (s.reg (Reg.SKY_FIX_T 3))) + 1000000000 * nsUnit →
      (if s.fld F.SKY_FIX_INFO_NSAT < s.fld F.SKY_CHECK_MIN_SATS then 3 else if s.flag F.SKY_FIX_INFO_RAIM_OK = false then 4
        else if s.flag F.SKY_FIX_INFO_XSIG_OK = false then 5 else if (s.reg Reg.SKY_TUNC_MAX).toNat < s.fld F.SKY_FIX_INFO_TUNC then 6
        else if s.fld F.SKY_CHECK_RATE_LIMIT * 65536 < (signed 32 (s.reg Reg.SKY_FIX_RATE).toNat).natAbs then 7 else 0) = 0 → (∀ f, s.sky.fix = some f → f.t + ((10000000000 * nsUnit : Nat) : Int) < (s.tb.value : Int)) →
    Answers (.submit ag d) s fun t =>
      t.fld F.SKY_FIX_STATUS_RESULT = 0 ∧ t.flag F.SKY_FIX_STATUS_PRED = false ∧ t.fld F.SKY_FIX_STATUS_RUN = min 15 (s.fld F.SKY_FIX_STATUS_RUN + 1) ∧
      t.sky = { s.sky with fix := some ⟨(signed 64 (s.reg64 Reg.SKY_FIX_OFFSET_LO Reg.SKY_FIX_OFFSET_HI) * (2 ^ 32 : Nat)), (recordValue (tbFormat s) (s.reg (Reg.SKY_FIX_T 0)) (s.reg (Reg.SKY_FIX_T 1)) (s.reg (Reg.SKY_FIX_T 2)) (s.reg (Reg.SKY_FIX_T 3))), (signed 32 (s.reg Reg.SKY_FIX_RATE).toNat)⟩ } ∧
      t.flag F.SKY_LIVE_TIME_VALID = (s.flag F.SKY_LIVE_TIME_VALID || decide (s.fld F.SKY_CHECK_PASS_RUN ≤ min 15 (s.fld F.SKY_FIX_STATUS_RUN + 1))) ∧
      (s.flag F.SKY_LIVE_TIME_VALID = false → t.flag F.SKY_LIVE_TIME_VALID = true → t.flag F.SKY_INT_STATUS_TIME_VALID_SET = true) ∧
      Touches [.sky] [F.SKY_FIX_STATUS_RESULT, F.SKY_FIX_STATUS_PRED, F.SKY_FIX_STATUS_RUN, F.SKY_LIVE_TIME_VALID, F.SKY_INT_STATUS_TIME_VALID_SET] s t) ∧
  (∀ (s : State), s.pwr.mainUp = true → s.flag F.SKY_LIVE_TIME_VALID = true →
    Answers .skyFixTimeout s fun t =>
      t.flag F.SKY_LIVE_TIME_VALID = false ∧ t.flag F.SKY_LIVE_TIME_STALE = true ∧ t.flag F.SKY_INT_STATUS_TIME_VALID_LOST = true ∧ t.fld F.SKY_FIX_STATUS_RUN = 0 ∧
      Touches [] [F.SKY_LIVE_TIME_VALID, F.SKY_LIVE_TIME_STALE, F.SKY_INT_STATUS_TIME_VALID_LOST, F.SKY_FIX_STATUS_RUN] s t) ∧
  (∀ (s : State), s.pwr.mainUp = true → s.flag F.SKY_LIVE_TIME_VALID = true → s.fld F.SKY_LIVE_LOCKED_COUNT < s.fld F.SKY_CHECK_MIN_SATS →
    Answers .skyLockShortfall s fun t =>
      t.flag F.SKY_LIVE_TIME_VALID = false ∧ t.flag F.SKY_INT_STATUS_TIME_VALID_LOST = true ∧
      (s.fld F.SKY_LIVE_LOCKED_COUNT = 0 → t.flag F.SKY_INT_STATUS_ALL_LOST = true) ∧
      (s.fld F.SKY_LIVE_LOCKED_COUNT ≠ 0 → t.flag F.SKY_INT_STATUS_ALL_LOST = s.flag F.SKY_INT_STATUS_ALL_LOST) ∧
      Touches [] [F.SKY_LIVE_TIME_VALID, F.SKY_LIVE_TIME_STALE, F.SKY_INT_STATUS_TIME_VALID_LOST, F.SKY_FIX_STATUS_RUN, F.SKY_INT_STATUS_ALL_LOST] s t) ∧
  (∀ (s : State) (f : FixSt), s.pwr.mainUp = true → s.flag F.SKY_LIVE_TIME_VALID = true → s.sky.fix = some f →
    Answers .skyDelivery s fun t =>
      (t.ref 20).given = some (Int.fdiv (f.o + Int.fdiv (f.r * (((s.tb.value / (500000 * nsUnit) * (500000 * nsUnit) : Nat) : Int) - f.t)) ((2 ^ 16 * 1000000000 : Nat) : Int)) (2 ^ 28 : Nat)) ∧
      (t.ref 20).raws = (s.ref 20).raws ∧ (∀ j ∈ List.range 23, j ≠ 20 → t.ref j = s.ref j) ∧ t.flag F.SKY_LIVE_TIME_STALE = false ∧
      (∀ i ∈ List.range 4, t.reg (Reg.SKY_TIME i) = nth 0 (recordWords (tbFormat s) (round20 ((((s.tb.value / (500000 * nsUnit) * (500000 * nsUnit) : Nat) : Int) +
        (f.o + Int.fdiv (f.r * (((s.tb.value / (500000 * nsUnit) * (500000 * nsUnit) : Nat) : Int) - f.t)) ((2 ^ 16 * 1000000000 : Nat) : Int))) % ((tbWrap (tbFormat s) : Nat) : Int)).toNat)
        (recordFlags (epochNow s) s)) i) ∧ t.fld F.SKY_LIVE_TIME_VALID = 1 ∧
      Touches [.loop] [F.SKY_LIVE_TIME_STALE, whole (Reg.SKY_TIME 0), whole (Reg.SKY_TIME 1), whole (Reg.SKY_TIME 2), whole (Reg.SKY_TIME 3)] s t) ∧
  (∀ (s : State), s.pwr.mainUp = true → (s.flag F.SKY_LIVE_TIME_VALID = false ∨ s.sky.fix = none) → Answers .skyDelivery s fun t => t = s)

/-- The receiver (R283 to R286, R292, R296, R297): a rise of EN starts SKY_SAMPLE_COUNT at 0, which then only goes forward; a fall stops every channel, ends a capture without SNAP_DONE and clears TIME_VALID; SKY_CLK outside ±100 ppm, or stopped, clears CLK_OK
with CLK_FAULT, and ten good measurements set it; an epoch sample writes its stamp to the ring with NO_PHASE, SKY_PPS_AUX to SKY_AUX_STAMP; RING_TICK sets at the multiples of TICK_MS of samples; GO starts one capture of LEN_MS and its end stores the samples, eight to a word, each with the bands and Q_INV that stood at its count.
The sample count of RING_TICK, GO with EN 0, the exact length of a capture and the free sample of a disabled band are log 16; the bytes in SRAM are log 4. -/
def Obligations.SkyClockRingAndCaptures : Prop :=
  (∀ (s : State) (ag : Agent) (d : Word), s.pwr.mainUp = true → pf1Denied ag Reg.SKY_CTRL s = false → s.flag F.SKY_CTRL_EN = false → d.getLsbD 0 = true →
    Answers (.skyEnWrite ag d) s fun t =>
      t.reg Reg.SKY_SAMPLE_COUNT = 0 ∧ t.fld ⟨Reg.SKY_CTRL, 0, 5⟩ = bits d 0 5 ∧ t.sky = { s.sky with gates := [], snap := s.sky.snap.map fun p => { p with least := 1 }, chans := t.sky.chans } ∧
      (∀ c ∈ List.range 64, t.chan c = if (s.chan c).on then { s.chan c with count := 0 } else s.chan c) ∧
      Touches [.hst, .sky] [whole Reg.SKY_CTRL, whole Reg.SKY_SAMPLE_COUNT] s t) ∧
  (∀ (s : State) (ag : Agent) (d : Word), s.pwr.mainUp = true → pf1Denied ag Reg.SKY_CTRL s = false → s.flag F.SKY_CTRL_EN = d.getLsbD 0 →
    Answers (.skyEnWrite ag d) s fun t =>
      t.fld ⟨Reg.SKY_CTRL, 0, 5⟩ = bits d 0 5 ∧ t.sky = { s.sky with gates := if s.sky.gates.head?.map (·.1) = some (s.reg Reg.SKY_SAMPLE_COUNT).toNat then s.sky.gates
        else ((s.reg Reg.SKY_SAMPLE_COUNT).toNat, s.reg Reg.SKY_CTRL) :: s.sky.gates } ∧
      Touches [.hst, .sky] [whole Reg.SKY_CTRL] s t) ∧
  (∀ (s : State) (ag : Agent) (d : Word) (m : Nat), s.pwr.mainUp = true → pf1Denied ag Reg.SKY_CTRL s = false → s.flag F.SKY_CTRL_EN = d.getLsbD 0 → s.sky.gates = [] →
    Answers (.skyEnWrite ag d) s fun t =>
      ctrlAt t m = if ((s.reg Reg.SKY_SAMPLE_COUNT).toNat + 2 ^ 32 - m % 2 ^ 32) % 2 ^ 32 < 2 ^ 31 then s.reg Reg.SKY_CTRL else t.reg Reg.SKY_CTRL) ∧
  (∀ (l5 : Bool) (ctrl : Word) (m : Nat) (v : BitVec 4), bit ctrl (if l5 then 2 else 1) = true →
      snapSample l5 ctrl m v = if bit ctrl (if l5 then 4 else 3) then v ^^^ 2 else v) ∧
  (∀ (s : State) (ag : Agent) (d : Word), s.pwr.mainUp = true → pf1Denied ag Reg.SKY_CTRL s = false → s.flag F.SKY_CTRL_EN = true → d.getLsbD 0 = false →
    Answers (.skyEnWrite ag d) s fun t =>
      t.flag F.SKY_CTRL_EN = false ∧ (∀ c ∈ List.range 64, (t.chan c).on = false ∧ t.ifld 5 (chanWord c 0) 0 1 = 0) ∧ t.sky.snap = none ∧ t.sky.fix = s.sky.fix ∧
      t.flag F.SKY_LIVE_SNAP_BUSY = false ∧ t.flag F.SKY_LIVE_TIME_VALID = false ∧ t.fld F.SKY_LIVE_LOCKED_COUNT = 0 ∧
      t.flag F.SKY_INT_STATUS_SNAP_DONE = s.flag F.SKY_INT_STATUS_SNAP_DONE ∧ t.reg Reg.SKY_SAMPLE_COUNT = s.reg Reg.SKY_SAMPLE_COUNT ∧ Within [.regs, .ind, .hst, .sky] s t) ∧
  (∀ (s : State) (hz : Nat), s.pwr.mainUp = true → hz < 2 ^ 32 → ((hz : Int) - ((s.reg Reg.SKY_CLK_HZ).toNat : Int)).natAbs * 10000 ≤ (s.reg Reg.SKY_CLK_HZ).toNat →
    Answers (.skyClkMeas hz) s fun t =>
      (t.reg Reg.SKY_CLK_MEAS).toNat = hz ∧ t.sky = { s.sky with good := min 10 (s.sky.good + 1), stopped := decide (hz = 0) } ∧
      t.flag F.SKY_LIVE_CLK_OK = (s.flag F.SKY_LIVE_CLK_OK || decide (9 ≤ s.sky.good)) ∧ Touches [.sky] [whole Reg.SKY_CLK_MEAS, F.SKY_LIVE_CLK_OK] s t) ∧
  (∀ (s : State) (hz : Nat), s.pwr.mainUp = true → (s.reg Reg.SKY_CLK_HZ).toNat < ((hz : Int) - ((s.reg Reg.SKY_CLK_HZ).toNat : Int)).natAbs * 10000 →
    Answers (.skyClkMeas hz) s fun t =>
      t.flag F.SKY_LIVE_CLK_OK = false ∧ t.flag F.SKY_INT_STATUS_CLK_FAULT = true ∧ t.flag F.SKY_LIVE_TIME_VALID = false ∧ t.sky.good = 0 ∧
      Touches [.sky] [F.SKY_LIVE_TIME_VALID, F.SKY_LIVE_TIME_STALE, F.SKY_INT_STATUS_TIME_VALID_LOST, F.SKY_FIX_STATUS_RUN, whole Reg.SKY_CLK_MEAS, F.SKY_LIVE_CLK_OK, F.SKY_INT_STATUS_CLK_FAULT] s t) ∧
  (∀ (s : State), s.pwr.mainUp = true →
    Answers .clkFault s fun t =>
      t.flag F.SKY_LIVE_CLK_OK = false ∧ t.flag F.SKY_INT_STATUS_CLK_FAULT = true ∧ t.flag F.SKY_LIVE_TIME_VALID = false ∧ t.sky = { s.sky with good := 0, stopped := true } ∧
      Touches [.sky] [F.SKY_LIVE_TIME_VALID, F.SKY_LIVE_TIME_STALE, F.SKY_INT_STATUS_TIME_VALID_LOST, F.SKY_FIX_STATUS_RUN, F.SKY_LIVE_CLK_OK, F.SKY_INT_STATUS_CLK_FAULT] s t) ∧
  (∀ (s : State) (n : BitVec 32), s.pwr.mainUp = true → s.flag F.SKY_CTRL_EN = true → s.fld F.SKY_EPOCH_SAMPLES_SAMPLES ≠ 0 →
      n.toNat % s.fld F.SKY_EPOCH_SAMPLES_SAMPLES = 0 → ringFree s ≠ 0 →
    Answers (.skyEpochStamp n) s fun t =>
      t.sramBytes ((s.fld F.SKY_RING_BASE_BASE / 64 * 64 + s.fld F.SKY_RING_WR_WR % 2 ^ s.fld F.SKY_RING_LEN_LOG2 * 64) % 2 ^ 22) 64 = wordBytes ([BitVec.ofNat 32 (2 * 2 ^ 28), n] ++ recordWords (tbFormat s) (round20 s.tb.value) (recordFlags (epochNow s) s + 2 ^ 23) ++ List.replicate 10 0) ∧
      t.fld F.SKY_RING_WR_WR = (s.fld F.SKY_RING_WR_WR % 2 ^ s.fld F.SKY_RING_LEN_LOG2 + 1) % 2 ^ s.fld F.SKY_RING_LEN_LOG2 % 2 ^ 14 ∧ t.reg Reg.SKY_SAMPLE_COUNT = (if (n.toNat + 2 ^ 32 - (s.reg Reg.SKY_SAMPLE_COUNT).toNat) % 2 ^ 32 < 2 ^ 31 then n else s.reg Reg.SKY_SAMPLE_COUNT) ∧ SramKeep ((s.fld F.SKY_RING_BASE_BASE / 64 * 64 + s.fld F.SKY_RING_WR_WR % 2 ^ s.fld F.SKY_RING_LEN_LOG2 * 64) % 2 ^ 22) 64 s t ∧ Touches [.sram, .sky] [whole Reg.SKY_SAMPLE_COUNT, F.SKY_RING_WR_WR] s t) ∧
  (∀ (s : State) (n : BitVec 32), s.pwr.mainUp = true → s.flag F.SKY_CTRL_EN = true → s.fld F.SKY_EPOCH_SAMPLES_SAMPLES ≠ 0 →
      n.toNat % s.fld F.SKY_EPOCH_SAMPLES_SAMPLES = 0 → ringFree s = 0 →
    Answers (.skyEpochStamp n) s fun t =>
      t.flag F.SKY_INT_STATUS_RING_FULL = true ∧ t.reg Reg.SKY_RING_DROP = s.reg Reg.SKY_RING_DROP + 1 ∧
      Touches [.sky] [whole Reg.SKY_SAMPLE_COUNT, whole Reg.SKY_RING_DROP, F.SKY_INT_STATUS_RING_FULL, F.SKY_INT_STATUS_CNT_OVF] s t) ∧
  (∀ (s : State), s.pwr.mainUp = true →
    Answers .auxEdge s fun t =>
      [t.reg (Reg.SKY_AUX_STAMP 0), t.reg (Reg.SKY_AUX_STAMP 1), t.reg (Reg.SKY_AUX_STAMP 2), t.reg (Reg.SKY_AUX_STAMP 3)] = recordWords (tbFormat s) (round20 s.tb.value) (recordFlags (epochNow s) s + 2 ^ 23) ∧
      t.flag F.SKY_INT_STATUS_AUX_EDGE = true ∧
      Touches [] [whole (Reg.SKY_AUX_STAMP 0), whole (Reg.SKY_AUX_STAMP 1), whole (Reg.SKY_AUX_STAMP 2), whole (Reg.SKY_AUX_STAMP 3), F.SKY_INT_STATUS_AUX_EDGE] s t) ∧
  (∀ (s : State) (n : BitVec 32), s.pwr.mainUp = true → s.flag F.SKY_CTRL_EN = true → s.fld F.SKY_RING_IRQ_TICK_MS * divRound (s.reg Reg.SKY_CLK_HZ).toNat 1000 ≠ 0 → n ≠ 0 →
      n.toNat % (s.fld F.SKY_RING_IRQ_TICK_MS * divRound (s.reg Reg.SKY_CLK_HZ).toNat 1000) = 0 →
    Answers (.ringTick n) s fun t => t.flag F.SKY_INT_STATUS_RING_TICK = true ∧ t.reg Reg.SKY_SAMPLE_COUNT = (if (n.toNat + 2 ^ 32 - (s.reg Reg.SKY_SAMPLE_COUNT).toNat) % 2 ^ 32 < 2 ^ 31 then n else s.reg Reg.SKY_SAMPLE_COUNT) ∧ Touches [.sky] [whole Reg.SKY_SAMPLE_COUNT, F.SKY_INT_STATUS_RING_TICK] s t) ∧
  (∀ (s : State) (n : BitVec 32), s.pwr.mainUp = true → (s.flag F.SKY_CTRL_EN = false ∨ s.fld F.SKY_RING_IRQ_TICK_MS = 0 ∨
      n.toNat % (s.fld F.SKY_RING_IRQ_TICK_MS * divRound (s.reg Reg.SKY_CLK_HZ).toNat 1000) ≠ 0) →
    Answers (.ringTick n) s fun t => t = s) ∧
  (∀ (s : State) (ag : Agent) (d : Word), s.pwr.mainUp = true → pf1Denied ag Reg.SKY_SNAP_CTRL s = false → s.sky.snap = none →
    Answers (.skySnapGo ag d) s fun t =>
      t.sky = { s.sky with snap := some ⟨((s.reg Reg.SKY_SAMPLE_COUNT).toNat + 1) % 2 ^ 32, t.fld F.SKY_SNAP_CTRL_LEN_MS * divRound (s.reg Reg.SKY_CLK_HZ).toNat 1000, d.getLsbD 0⟩ } ∧
      t.fld F.SKY_SNAP_CTRL_LEN_MS = min 20 (max 1 (bits d 8 5)) ∧ t.flag F.SKY_SNAP_CTRL_BAND = d.getLsbD 0 ∧ t.flag F.SKY_LIVE_SNAP_BUSY = true ∧
      Touches [.sky] [F.SKY_SNAP_CTRL_LEN_MS, F.SKY_SNAP_CTRL_BAND, F.SKY_LIVE_SNAP_BUSY] s t) ∧
  (∀ (s : State) (ag : Agent) (d : Word) (p : SnapSt), s.pwr.mainUp = true → pf1Denied ag Reg.SKY_SNAP_CTRL s = false → s.sky.snap = some p →
    Answers (.skySnapGo ag d) s fun t => Touches [] [F.SKY_SNAP_CTRL_LEN_MS, F.SKY_SNAP_CTRL_BAND] s t) ∧
  (∀ (s : State) (first : BitVec 32) (xs : List (BitVec 4)) (p : SnapSt), s.pwr.mainUp = true → s.flag F.SKY_CTRL_EN = true → s.sky.snap = some p → xs.length = p.len → p.len < 2 ^ 22 → (first.toNat + 2 ^ 32 - p.least) % 2 ^ 32 < 2 ^ 31 →
    Answers (.skySnapDone first xs) s fun t =>
      (t.sramBytes (s.fld F.SKY_SNAP_BASE_BASE / 64 * 64) ((p.len + 1) / 2)).map BitVec.toNat =
        ((List.range ((p.len + 1) / 2)).map fun i => (snapSample p.band (ctrlAt s (first.toNat + 2 * i)) (first.toNat + 2 * i) (nth 0 xs (2 * i))).toNat +
          16 * (if 2 * i + 1 < p.len then (snapSample p.band (ctrlAt s (first.toNat + 2 * i + 1)) (first.toNat + 2 * i + 1) (nth 0 xs (2 * i + 1))).toNat else 0)) ∧
      t.reg Reg.SKY_SNAP_START = first ∧ t.sky = { s.sky with snap := none, gates := t.sky.gates } ∧ t.reg Reg.SKY_SAMPLE_COUNT = (if ((BitVec.ofNat 32 (first.toNat + p.len - 1)).toNat + 2 ^ 32 - (s.reg Reg.SKY_SAMPLE_COUNT).toNat) % 2 ^ 32 < 2 ^ 31 then (BitVec.ofNat 32 (first.toNat + p.len - 1)) else s.reg Reg.SKY_SAMPLE_COUNT) ∧ t.flag F.SKY_LIVE_SNAP_BUSY = false ∧
      t.flag F.SKY_INT_STATUS_SNAP_DONE = true ∧ SramKeep (s.fld F.SKY_SNAP_BASE_BASE / 64 * 64) ((p.len + 1) / 2) s t ∧
      Touches [.sram, .sky] [whole Reg.SKY_SNAP_START, whole Reg.SKY_SAMPLE_COUNT, F.SKY_LIVE_SNAP_BUSY, F.SKY_INT_STATUS_SNAP_DONE] s t)

/-- The life of a port, up (R326 to R328, R342, R344, R345, R347, R350, R351): the rise of EN samples PORT_CFG, names in LANES_FAILED each lane that is off or of another rate, and computes the fixed parts, or rejects with CFG_REJECT; a write while EN is 1
is only stored; the PCS reports, and the RS sends remote fault, idle or frames by it (the model's reading, log 18); with every condition met the port comes up, forms the fixed parts of
its lanes (the registers show those of the first, the model's choice, log 10), ends the linger with RECOVERED and starts the recovery; the lane timeout names the lanes that failed, or DESKEW_FAIL; the recovery and the quarantine end. -/
def Obligations.PortsComeUp : Prop :=
  (∀ (s : State) (ag : Agent) (p : Fin 384) (d : Word), s.pwr.mainUp = true → pf1Denied ag (Reg.PORT_CFG p) s = false → s.flag (F.PORT_CFG_EN p) = false →
      (if 767 < bits d 4 10 then 0 else bits d 4 10) % 2 ^ bits d 1 2 = 0 → ¬(bits d 1 2 = 3 ∧ d.getLsbD 3 = true) → ¬(d.getLsbD 14 = true ∧ d.getLsbD 15 = true) →
      (∀ q ∈ List.range 384, q ≠ p.val → portActive s q = true → (if 767 < bits d 4 10 then 0 else bits d 4 10) + 2 ^ bits d 1 2 ≤ portFirst s q ∨ portFirst s q + portLanes s q ≤ (if 767 < bits d 4 10 then 0 else bits d 4 10)) →
    Answers (.portEnable ag p d) s fun t =>
      t.flag (F.PORT_LIVE_CFG_OK p) = true ∧ (t.port p).cfg = t.reg (Reg.PORT_CFG p) ∧
      t.reg (Reg.PORT_CFG p) &&& 0xC00F = (d ||| 1) &&& 0xC00F ∧ t.fld (F.PORT_CFG_FIRST_LANE p) = (if 767 < bits d 4 10 then 0 else bits d 4 10) ∧
      (∀ i ∈ List.range 8, t.rbit (Reg.PORT_LIVE p) (16 + i) = (decide (i < 2 ^ bits d 1 2) &&
        !(s.flag (F.DLN_LANE_CTRL_EN ((if 767 < bits d 4 10 then 0 else bits d 4 10) + i)) && (s.lane ((if 767 < bits d 4 10 then 0 else bits d 4 10) + i)).on && decide ((s.lane ((if 767 < bits d 4 10 then 0 else bits d 4 10) + i)).rate = (if d.getLsbD 3 then 1 else 0))))) ∧
      (t.port p).fixes.length = 2 ^ bits d 1 2 ∧ (∀ q ∈ List.range 384, q ≠ p.val → t.port q = s.port q) ∧ Touches [.net] [whole (Reg.PORT_CFG p), F.PORT_LIVE_CFG_OK p, F.PORT_LIVE_LANES_FAILED p, whole (Reg.TBASE_PORT_RXFIX p), whole (Reg.TBASE_PORT_TXFIX p)] s t) ∧
  (∀ (s : State) (ag : Agent) (p : Fin 384) (d : Word), s.pwr.mainUp = true → pf1Denied ag (Reg.PORT_CFG p) s = false → s.flag (F.PORT_CFG_EN p) = false →
      ((if 767 < bits d 4 10 then 0 else bits d 4 10) % 2 ^ bits d 1 2 ≠ 0 ∨ (bits d 1 2 = 3 ∧ d.getLsbD 3 = true) ∨ (d.getLsbD 14 = true ∧ d.getLsbD 15 = true) ∨
       (∃ q ∈ List.range 384, q ≠ p.val ∧ portActive s q = true ∧ portFirst s q < (if 767 < bits d 4 10 then 0 else bits d 4 10) + 2 ^ bits d 1 2 ∧ (if 767 < bits d 4 10 then 0 else bits d 4 10) < portFirst s q + portLanes s q)) →
    Answers (.portEnable ag p d) s fun t =>
      t.flag (F.PORT_LIVE_CFG_OK p) = false ∧ t.flag (F.PORT_INT_STATUS_CFG_REJECT p) = true ∧
      Touches [] [whole (Reg.PORT_CFG p), F.PORT_LIVE_CFG_OK p, F.PORT_INT_STATUS_CFG_REJECT p] s t) ∧
  (∀ (s : State) (ag : Agent) (p : Fin 384) (d : Word), s.pwr.mainUp = true → pf1Denied ag (Reg.PORT_CFG p) s = false → s.flag (F.PORT_CFG_EN p) = true →
    Answers (.portEnable ag p d) s fun t => t.fld (F.PORT_CFG_WIDTH p) = bits d 1 2 ∧ Touches [] [whole (Reg.PORT_CFG p)] s t) ∧
  (∀ (s : State) (p : Fin 384) (pcs fec lf rf : Bool), s.pwr.mainUp = true → s.flag (F.PORT_CFG_EN p) = true → s.flag (F.PORT_LIVE_CFG_OK p) = true →
    Answers (.pcsLock p pcs fec lf rf) s fun t =>
      t.flag (F.PORT_LIVE_PCS_LOCK p) = pcs ∧ t.flag (F.PORT_LIVE_FEC_LOCK p) = fec ∧ t.flag (F.PORT_LIVE_LOCAL_FAULT p) = lf ∧ t.flag (F.PORT_LIVE_REMOTE_FAULT p) = rf ∧
      (rf = true → s.flag (F.PORT_LIVE_REMOTE_FAULT p) = false → t.flag (F.PORT_INT_STATUS_REMOTE_FAULT p) = true) ∧
      rsSends t p = (if lf = true ∨ pcs = false ∨ fec = false then .remoteFault else if rf then .idle else .frames) ∧
      Touches [] [F.PORT_LIVE_PCS_LOCK p, F.PORT_LIVE_FEC_LOCK p, F.PORT_LIVE_LOCAL_FAULT p, F.PORT_LIVE_REMOTE_FAULT p, F.PORT_INT_STATUS_REMOTE_FAULT p] s t) ∧
  (∀ (s : State) (p : Fin 384), s.pwr.mainUp = true → s.flag (F.PORT_CFG_EN p) = true → s.flag (F.PORT_LIVE_CFG_OK p) = true → (∀ n ∈ lanesOf s p, s.flag (F.DLN_LANE_CTRL_EN n) = true ∧ (s.lane n).on = true ∧ (s.lane n).rate = (if portHalf s p then 1 else 0) ∧ s.flag (F.DLN_LANE_STATUS_ALIGNED n) = true) →
      s.flag (F.PORT_LIVE_PCS_LOCK p) = true → s.flag (F.PORT_LIVE_FEC_LOCK p) = true → s.flag (F.PORT_LIVE_LOCAL_FAULT p) = false →
      s.flag (F.PORT_LIVE_REMOTE_FAULT p) = false → s.flag (F.PORT_LIVE_UP p) = false →
    Answers (.linkUp p) s fun t =>
      t.flag (F.PORT_LIVE_UP p) = true ∧ t.flag (F.PORT_INT_STATUS_LINK_UP p) = true ∧ t.fld (F.PORT_LIVE_LANES_FAILED p) = 0 ∧
      t.flag (F.PORT_LIVE_LINGER p) = false ∧ t.flag (F.PORT_INT_STATUS_RECOVERED p) = (s.flag (F.PORT_INT_STATUS_RECOVERED p) || s.flag (F.PORT_LIVE_LINGER p)) ∧
      t.flag (F.PORT_LIVE_RECOVERY p) = decide (s.fld (F.PORT_RECOVERY_US p) ≠ 0) ∧
      (t.port p).fixes = ((List.range (portLanes s p)).map fun i => laneFix (laneAt (portFirst s p + i)) (if portHalf s p then 1 else 0) (txPath (portLanes s p) (portHalf s p)) s) ∧
      t.port p = { s.port p with fixes := (t.port p).fixes } ∧ t.reg (Reg.TBASE_PORT_RXFIX p) = (nth (0, 0) (t.port p).fixes 0).1 ∧
      t.reg (Reg.TBASE_PORT_TXFIX p) = (nth (0, 0) (t.port p).fixes 0).2 ∧ (∀ q ∈ List.range 384, q ≠ p.val → t.port q = s.port q) ∧
      Touches [.net] [F.PORT_LIVE_UP p, F.PORT_LIVE_LINGER p, F.PORT_LIVE_RECOVERY p, F.PORT_LIVE_LANES_FAILED p, F.PORT_INT_STATUS_LINK_UP p, F.PORT_INT_STATUS_RECOVERED p, whole (Reg.TBASE_PORT_RXFIX p), whole (Reg.TBASE_PORT_TXFIX p)] s t) ∧
  (∀ (s : State) (p : Fin 384), s.pwr.mainUp = true → s.flag (F.PORT_CFG_EN p) = true → s.flag (F.PORT_LIVE_CFG_OK p) = true → s.flag (F.PORT_LIVE_UP p) = false → ¬(∀ n ∈ lanesOf s p, s.flag (F.DLN_LANE_CTRL_EN n) = true ∧ (s.lane n).on = true ∧ (s.lane n).rate = (if portHalf s p then 1 else 0) ∧ s.flag (F.DLN_LANE_STATUS_ALIGNED n) = true) →
    Answers (.laneFail p) s fun t =>
      t.flag (F.PORT_INT_STATUS_LANE_FAIL p) = true ∧
      (∀ i ∈ List.range 8, t.rbit (Reg.PORT_LIVE p) (16 + i) = (decide (i < portLanes s p) && !laneGood s p (portFirst s p + i))) ∧
      Touches [] [F.PORT_LIVE_LANES_FAILED p, F.PORT_INT_STATUS_LANE_FAIL p] s t) ∧
  (∀ (s : State) (p : Fin 384), s.pwr.mainUp = true → s.flag (F.PORT_CFG_EN p) = true → s.flag (F.PORT_LIVE_CFG_OK p) = true → s.flag (F.PORT_LIVE_UP p) = false → (∀ n ∈ lanesOf s p, s.flag (F.DLN_LANE_CTRL_EN n) = true ∧ (s.lane n).on = true ∧ (s.lane n).rate = (if portHalf s p then 1 else 0) ∧ s.flag (F.DLN_LANE_STATUS_ALIGNED n) = true) →
      s.flag (F.PORT_LIVE_PCS_LOCK p) = false →
    Answers (.laneFail p) s fun t => t.flag (F.PORT_INT_STATUS_DESKEW_FAIL p) = true ∧ Touches [] [F.PORT_INT_STATUS_DESKEW_FAIL p] s t) ∧
  (∀ (s : State) (p : Fin 384), s.pwr.mainUp = true → s.flag (F.PORT_LIVE_RECOVERY p) = true →
    Answers (.recoveryEnd p) s fun t =>
      t.flag (F.PORT_LIVE_RECOVERY p) = false ∧ t.flag (F.PORT_INT_STATUS_RECOVERY_END p) = true ∧ Touches [] [F.PORT_LIVE_RECOVERY p, F.PORT_INT_STATUS_RECOVERY_END p] s t) ∧
  (∀ (s : State) (p : Fin 384), s.pwr.mainUp = true →
    Answers (.quarantineEnd p) s fun t => t.flag (F.BUF_PORT_CFG_QUARANTINED p) = false ∧ Touches [] [F.BUF_PORT_CFG_QUARANTINED p] s t)

/-- The life of a port, down (R343, R346, R348, R349): a cause of R343, and a fall of EN, take the port down in that cycle: LINK_DOWN, the count, pauses released, the linger window or, at 0, the flush; a queued frame is flushed once, counted, its slices returned to the
free list; a port that is not up has no transition. Frames have the ranges that the statement ShapesAreKept keeps. -/
def Obligations.PortsGoDownAndFlush : Prop :=
  (∀ (s : State) (p : Fin 384) (c : BitVec 4), s.pwr.mainUp = true → s.FramesFit → s.flag (F.PORT_LIVE_UP p) = true → c ≠ 0 →
    Answers (.linkDown p c) s fun t =>
      t.flag (F.PORT_LIVE_UP p) = false ∧ t.flag (F.PORT_INT_STATUS_LINK_DOWN p) = true ∧ t.flag (F.PORT_LIVE_RECOVERY p) = false ∧ t.fld (F.PORT_LIVE_PAUSED p) = 0 ∧
      t.reg64 (Reg.PORT_LINK_DOWN_COUNT_LO p) (Reg.PORT_LINK_DOWN_COUNT_HI p) = (s.reg64 (Reg.PORT_LINK_DOWN_COUNT_LO p) (Reg.PORT_LINK_DOWN_COUNT_HI p) + 1) % 2 ^ 64 ∧
      (t.port p).pfcHold = [] ∧ (t.port p).times = [0, 0, 0, 0, 0, 0, 0, 0] ∧
      t.flag (F.PORT_LIVE_LINGER p) = decide (s.fld (F.PORT_LINGER_US p) ≠ 0) ∧ (s.fld (F.PORT_LINGER_US p) = 0 → t.flag (F.PORT_INT_STATUS_LINGER_EXPIRED p) = true) ∧
      (c.getLsbD 0 = true → t.flag (F.PORT_LIVE_PCS_LOCK p) = false) ∧ t.flag (F.PORT_LIVE_LOCAL_FAULT p) = c.getLsbD 2 ∧
      t.flag (F.PORT_LIVE_REMOTE_FAULT p) = c.getLsbD 3 ∧ (t.port p).cfg = (s.port p).cfg ∧ Within [.regs, .ind, .net, .tlm] s t) ∧
  (∀ (s : State) (p : Fin 384) (c : BitVec 4), s.pwr.mainUp = true → (s.flag (F.PORT_LIVE_UP p) = false ∨ (c = 0 ∧ (∀ n ∈ lanesOf s p, s.flag (F.DLN_LANE_CTRL_EN n) = true ∧ (s.lane n).on = true ∧ (s.lane n).rate = (if portHalf s p then 1 else 0) ∧ s.flag (F.DLN_LANE_STATUS_ALIGNED n) = true))) →
    Answers (.linkDown p c) s fun t => t = s) ∧
  (∀ (s : State) (ag : Agent) (p : Fin 384) (d : Word), s.pwr.mainUp = true → pf1Denied ag (Reg.PORT_CFG p) s = false → s.FramesFit → s.flag (F.PORT_CFG_EN p) = true → s.flag (F.PORT_LIVE_UP p) = true →
    Answers (.portDisable ag p d) s fun t =>
      t.flag (F.PORT_LIVE_UP p) = false ∧ t.flag (F.PORT_INT_STATUS_LINK_DOWN p) = true ∧ t.flag (F.PORT_LIVE_RECOVERY p) = false ∧ t.fld (F.PORT_LIVE_PAUSED p) = 0 ∧
      t.reg64 (Reg.PORT_LINK_DOWN_COUNT_LO p) (Reg.PORT_LINK_DOWN_COUNT_HI p) = (s.reg64 (Reg.PORT_LINK_DOWN_COUNT_LO p) (Reg.PORT_LINK_DOWN_COUNT_HI p) + 1) % 2 ^ 64 ∧
      (t.port p).pfcHold = [] ∧ (t.port p).times = [0, 0, 0, 0, 0, 0, 0, 0] ∧
      t.flag (F.PORT_CFG_EN p) = false ∧ t.flag (F.PORT_LIVE_LINGER p) = false ∧ t.flag (F.PORT_INT_STATUS_LINGER_EXPIRED p) = true ∧
      t.flag (F.PORT_LIVE_PCS_LOCK p) = false ∧ t.flag (F.PORT_LIVE_FEC_LOCK p) = false ∧ Within [.regs, .ind, .net, .tlm] s t) ∧
  (∀ (s : State) (ag : Agent) (p : Fin 384) (d : Word), s.pwr.mainUp = true → pf1Denied ag (Reg.PORT_CFG p) s = false → s.flag (F.PORT_CFG_EN p) = true → s.flag (F.PORT_LIVE_UP p) = false → s.flag (F.PORT_LIVE_LINGER p) = false →
    Answers (.portDisable ag p d) s fun t =>
      t.flag (F.PORT_CFG_EN p) = false ∧ t.flag (F.PORT_LIVE_PCS_LOCK p) = false ∧ t.flag (F.PORT_LIVE_FEC_LOCK p) = false ∧ Touches [] [F.PORT_LIVE_PCS_LOCK p, F.PORT_LIVE_FEC_LOCK p, whole (Reg.PORT_CFG p)] s t) ∧
  (∀ (s : State) (p : Fin 384) (k id : Nat) (f : Frame), s.pwr.mainUp = true → s.FramesFit → s.flag (F.PORT_LIVE_LINGER p) = true → k < 16 →
      (∀ q ∈ List.range 16, s.queue (16 * p.val + q) = if q = k then [id] else []) → s.frame? id = some f → f.egress = p.val → f.queue = k →
      f.ended = true → f.trap = none → f.phase = .queued →
    Answers (.lingerExpired p) s fun t =>
      t.flag (F.PORT_LIVE_LINGER p) = false ∧ t.flag (F.PORT_INT_STATUS_LINGER_EXPIRED p) = true ∧ t.reg64 (Reg.PORT_LINGER_FLUSH_LO p) (Reg.PORT_LINGER_FLUSH_HI p) = (s.reg64 (Reg.PORT_LINGER_FLUSH_LO p) (Reg.PORT_LINGER_FLUSH_HI p) + 1) % 2 ^ 64 ∧
      (∀ q ∈ List.range 16, t.queue (16 * p.val + q) = []) ∧ t.frame? id = none ∧ FramesKeep [id] s t ∧
      t.fld F.BUF_FREE_FREE = (s.fld F.BUF_FREE_FREE + slicesBack f) % 2 ^ 21 ∧ Within [.regs, .ind, .net, .tlm] s t) ∧
  (∀ (s : State) (p : Fin 384), s.pwr.mainUp = true → s.flag (F.PORT_LIVE_LINGER p) = false → Answers (.lingerExpired p) s fun t => t = s)

/-- Flow control (R334 to R338): a MAC control frame with a good FCS is counted and consumed; with PAUSE_EN a PAUSE sets PAUSED bit 0 to whether its time is not zero; with PFC_EN each priority that the vector enables takes its time; without, nothing is paused; a frame that is none, or at a port that is down,
changes nothing, and so does one from the line at a port in near-end loopback, which hears only the frames that it sent itself, in their order; a pause runs out; while a group is in XOFF its PFC frame is asked for again, where PRIO_EN and the port allow it. No frame enters the part.
The bytes from which times and enable bits are read are log 22; frames of the line that a loopback ignores are log 18. -/
def Obligations.FlowControl : Prop :=
  (∀ (s : State) (p : Fin 384) (bs : List Byte), s.pwr.mainUp = true → half bs 12 = 0x8808 → half bs 14 = 0x0001 → s.flag (F.PORT_LIVE_UP p) = true → 64 ≤ bs.length → bs.length ≤ s.fld (F.PORT_MAX_FRAME_BYTES p) → fcsOk bs = true → frameComes s p bs = true → bit (s.port p).cfg 14 = true →
    Answers (.pauseReceive p bs) s fun t =>
      t.rbit (Reg.PORT_LIVE p) 24 = decide (half bs 16 ≠ 0) ∧ (t.port p).times = setNth (s.port p).times 0 (half bs 16) ∧ t.reg64 (Reg.PORT_RX_FRAMES_LO p) (Reg.PORT_RX_FRAMES_HI p) = (s.reg64 (Reg.PORT_RX_FRAMES_LO p) (Reg.PORT_RX_FRAMES_HI p) + 1) % 2 ^ 64 ∧ t.reg64 (Reg.PORT_RX_BYTES_LO p) (Reg.PORT_RX_BYTES_HI p) = (s.reg64 (Reg.PORT_RX_BYTES_LO p) (Reg.PORT_RX_BYTES_HI p) + bs.length) % 2 ^ 64 ∧ t.reg64 (Reg.PORT_RX_MAC_CTRL_LO p) (Reg.PORT_RX_MAC_CTRL_HI p) = (s.reg64 (Reg.PORT_RX_MAC_CTRL_LO p) (Reg.PORT_RX_MAC_CTRL_HI p) + 1) % 2 ^ 64 ∧ t.net.frames = s.net.frames ∧
      Touches [.net, .tlm] (pair (Reg.PORT_RX_FRAMES_LO p) ++ pair (Reg.PORT_RX_BYTES_LO p) ++ pair (Reg.PORT_RX_MAC_CTRL_LO p) ++ evtFlds ++ [F.PORT_INT_STATUS_CNT_OVF p, ⟨Reg.PORT_LIVE p, 24, 1⟩]) s t) ∧
  (∀ (s : State) (p : Fin 384) (bs : List Byte), s.pwr.mainUp = true → half bs 12 = 0x8808 → half bs 14 = 0x0001 → s.flag (F.PORT_LIVE_UP p) = true → 64 ≤ bs.length → bs.length ≤ s.fld (F.PORT_MAX_FRAME_BYTES p) → fcsOk bs = true → frameComes s p bs = true → bit (s.port p).cfg 14 = false →
    Answers (.pauseReceive p bs) s fun t => t.reg64 (Reg.PORT_RX_FRAMES_LO p) (Reg.PORT_RX_FRAMES_HI p) = (s.reg64 (Reg.PORT_RX_FRAMES_LO p) (Reg.PORT_RX_FRAMES_HI p) + 1) % 2 ^ 64 ∧ t.reg64 (Reg.PORT_RX_BYTES_LO p) (Reg.PORT_RX_BYTES_HI p) = (s.reg64 (Reg.PORT_RX_BYTES_LO p) (Reg.PORT_RX_BYTES_HI p) + bs.length) % 2 ^ 64 ∧ t.reg64 (Reg.PORT_RX_MAC_CTRL_LO p) (Reg.PORT_RX_MAC_CTRL_HI p) = (s.reg64 (Reg.PORT_RX_MAC_CTRL_LO p) (Reg.PORT_RX_MAC_CTRL_HI p) + 1) % 2 ^ 64 ∧ t.net.frames = s.net.frames ∧ t.net = (loopTaken p s).net ∧ Touches [.net, .tlm] (pair (Reg.PORT_RX_FRAMES_LO p) ++ pair (Reg.PORT_RX_BYTES_LO p) ++ pair (Reg.PORT_RX_MAC_CTRL_LO p) ++ evtFlds ++ [F.PORT_INT_STATUS_CNT_OVF p]) s t) ∧
  (∀ (s : State) (p : Fin 384) (bs : List Byte), s.pwr.mainUp = true → half bs 12 = 0x8808 → half bs 14 = 0x0101 → s.flag (F.PORT_LIVE_UP p) = true → 64 ≤ bs.length → bs.length ≤ s.fld (F.PORT_MAX_FRAME_BYTES p) → fcsOk bs = true → frameComes s p bs = true → bit (s.port p).cfg 15 = true →
    Answers (.pfcReceive p bs) s fun t =>
      (∀ k ∈ List.range 8, t.rbit (Reg.PORT_LIVE p) (24 + k) = if (half bs 16).testBit k then decide (half bs (18 + 2 * k) ≠ 0) else s.rbit (Reg.PORT_LIVE p) (24 + k)) ∧
      t.reg64 (Reg.PORT_RX_FRAMES_LO p) (Reg.PORT_RX_FRAMES_HI p) = (s.reg64 (Reg.PORT_RX_FRAMES_LO p) (Reg.PORT_RX_FRAMES_HI p) + 1) % 2 ^ 64 ∧ t.reg64 (Reg.PORT_RX_BYTES_LO p) (Reg.PORT_RX_BYTES_HI p) = (s.reg64 (Reg.PORT_RX_BYTES_LO p) (Reg.PORT_RX_BYTES_HI p) + bs.length) % 2 ^ 64 ∧ t.reg64 (Reg.PORT_RX_MAC_CTRL_LO p) (Reg.PORT_RX_MAC_CTRL_HI p) = (s.reg64 (Reg.PORT_RX_MAC_CTRL_LO p) (Reg.PORT_RX_MAC_CTRL_HI p) + 1) % 2 ^ 64 ∧ t.net.frames = s.net.frames ∧ Touches [.net, .tlm] (pair (Reg.PORT_RX_FRAMES_LO p) ++ pair (Reg.PORT_RX_BYTES_LO p) ++ pair (Reg.PORT_RX_MAC_CTRL_LO p) ++ evtFlds ++ [F.PORT_INT_STATUS_CNT_OVF p, F.PORT_LIVE_PAUSED p]) s t) ∧
  (∀ (s : State) (p : Fin 384) (bs : List Byte), s.pwr.mainUp = true → half bs 12 = 0x8808 → half bs 14 = 0x0101 → s.flag (F.PORT_LIVE_UP p) = true → 64 ≤ bs.length →
      bs.length ≤ s.fld (F.PORT_MAX_FRAME_BYTES p) → fcsOk bs = false → frameComes s p bs = true →
    Answers (.pfcReceive p bs) s fun t =>
      t.reg64 (Reg.PORT_RX_FCS_ERR_LO p) (Reg.PORT_RX_FCS_ERR_HI p) = (s.reg64 (Reg.PORT_RX_FCS_ERR_LO p) (Reg.PORT_RX_FCS_ERR_HI p) + 1) % 2 ^ 64 ∧ t.reg64 (Reg.PORT_RX_FRAMES_LO p) (Reg.PORT_RX_FRAMES_HI p) = (s.reg64 (Reg.PORT_RX_FRAMES_LO p) (Reg.PORT_RX_FRAMES_HI p) + 1) % 2 ^ 64 ∧ t.reg64 (Reg.PORT_RX_BYTES_LO p) (Reg.PORT_RX_BYTES_HI p) = (s.reg64 (Reg.PORT_RX_BYTES_LO p) (Reg.PORT_RX_BYTES_HI p) + bs.length) % 2 ^ 64 ∧ t.reg64 (Reg.PORT_RX_MAC_CTRL_LO p) (Reg.PORT_RX_MAC_CTRL_HI p) = (s.reg64 (Reg.PORT_RX_MAC_CTRL_LO p) (Reg.PORT_RX_MAC_CTRL_HI p) + 1) % 2 ^ 64 ∧ t.net.frames = s.net.frames ∧ t.net = (loopTaken p s).net ∧ Touches [.net, .tlm] (pair (Reg.PORT_RX_FCS_ERR_LO p) ++ pair (Reg.PORT_RX_FRAMES_LO p) ++ pair (Reg.PORT_RX_BYTES_LO p) ++ pair (Reg.PORT_RX_MAC_CTRL_LO p) ++ evtFlds ++ [F.PORT_INT_STATUS_CNT_OVF p]) s t) ∧
  (∀ (s : State) (p : Fin 384) (bs : List Byte), s.pwr.mainUp = true → (half bs 12 ≠ 0x8808 ∨ half bs 14 ≠ 0x0101 ∨ s.flag (F.PORT_LIVE_UP p) = false ∨ frameComes s p bs = false) →
    Answers (.pfcReceive p bs) s fun t => t = s) ∧
  (∀ (s : State) (p : Fin 384) (bs : List Byte), portFirst s p + portLanes s p ≤ 768 →
      frameComes s p bs = (if ∃ l ∈ lanesOf s p, s.fld (F.DLN_LANE_CTRL_LOOPBACK l) = 1 ∨ s.fld (F.DLN_LANE_CTRL_LOOPBACK l) = 2
        then decide ((smapGet noLoops s.net.looped p.val).head? = some bs) else true)) ∧
  (∀ (s : State) (p : Fin 384), portFirst s p + portLanes s p ≤ 768 → (∃ l ∈ lanesOf s p, s.fld (F.DLN_LANE_CTRL_LOOPBACK l) = 1 ∨ s.fld (F.DLN_LANE_CTRL_LOOPBACK l) = 2) →
      smapGet noLoops (loopTaken p s).net.looped p.val = (smapGet noLoops s.net.looped p.val).tail) ∧
  (∀ (s : State) (p : Fin 384) (k : Fin 8), s.pwr.mainUp = true →
    Answers (.pauseExpire p k) s fun t =>
      t.rbit (Reg.PORT_LIVE p) (24 + k) = false ∧ t.port p = { s.port p with times := setNth (s.port p).times k 0 } ∧ (∀ q ∈ List.range 384, q ≠ p.val → t.port q = s.port q) ∧
      Touches [.net] [⟨Reg.PORT_LIVE p, 24 + k, 1⟩] s t) ∧
  (∀ (s : State) (p : Fin 384) (k : Fin 8), s.pwr.mainUp = true → s.rbit (Reg.BUF_PORT_PG_STATUS p) k = true → s.rbit (Reg.PORT_PFC_TX p) (16 + k) = true →
      s.flag (F.PORT_LIVE_UP p) = true →
    Answers (.pfcRefresh p k) s fun t =>
      t.port p = { s.port p with pfcHold := (s.port p).pfcHold ++ [(k.val, s.fld (F.PORT_PFC_TX_QUANTA p))] } ∧ (∀ q ∈ List.range 384, q ≠ p.val → t.port q = s.port q) ∧ Within [.net] s t) ∧
  (∀ (s : State) (p : Fin 384) (k : Fin 8), s.pwr.mainUp = true →
      (s.rbit (Reg.BUF_PORT_PG_STATUS p) k = false ∨ s.rbit (Reg.PORT_PFC_TX p) (16 + k) = false ∨ s.flag (F.PORT_LIVE_UP p) = false) →
    Answers (.pfcRefresh p k) s fun t => t = s)

/-- R330, R587, with R331 to R333: a frame below 64 bytes is counted as a runt, where it reaches the 12 bytes of its addresses, and nothing else changes; at a port that is not up nothing changes; any other frame is counted with its bytes and
is in the part from then on, marked bad where its FCS fails, cut at PORT_MAX_FRAME + 1 where it is longer, lost where its FIFO overflows; the end of a frame whose head is in the part already completes it, and a number that names a frame of another port, or one received to its end, receives nothing.
A frame that its port going down cuts short before its lookup counts in RX_TRUNC (R418). An overflowed frame counts in OVERFLOW_DROP only, and at a port in near-end loopback only its own frames come, in their order (log 18).
The clauses on whole frames have TLM_TAG_CTRL.EN = 0: what tagging adds is in SamplesSlotsAndTags. -/
def Obligations.FramesAreReceived : Prop :=
  (∀ (s : State) (src : Fin 416) (id : Nat) (bs : List Byte) (ov : Bool) (arr : Arrival), s.pwr.mainUp = true → portUp s src = true → frameComes s src bs = true → s.frame? id = none → 12 ≤ bs.length → bs.length < 64 →
    Answers (.macFrameReceive src id bs ov arr) s fun t =>
      t.net = (loopTaken src s).net ∧ (src.val < 384 → t.reg64 (Reg.PORT_RX_RUNT_LO src) (Reg.PORT_RX_RUNT_HI src) = (s.reg64 (Reg.PORT_RX_RUNT_LO src) (Reg.PORT_RX_RUNT_HI src) + 1) % 2 ^ 64 ∧ Touches [.net] (pair (Reg.PORT_RX_RUNT_LO src) ++ [F.PORT_INT_STATUS_CNT_OVF src]) s t) ∧
      (384 ≤ src.val → t.reg (Reg.ALN_RX_RUNT (src - 384)) = s.reg (Reg.ALN_RX_RUNT (src - 384)) + 1 ∧
        Touches [.net] [whole (Reg.ALN_RX_RUNT (src - 384)), F.ALN_INT_STATUS_CNT_OVF (src - 384)] s t)) ∧
  (∀ (s : State) (src : Fin 416) (id : Nat) (bs : List Byte) (ov : Bool) (arr : Arrival), s.pwr.mainUp = true → s.frame? id = none → ((portUp s src = false ∧ arr.begun = false) ∨ (portUp s src = true ∧ frameComes s src bs = false)) →
    Answers (.macFrameReceive src id bs ov arr) s fun t => t = s) ∧
  (∀ (s : State) (src : Fin 416) (id : Nat) (bs : List Byte) (ov : Bool) (arr : Arrival), s.pwr.mainUp = true → s.frame? id = none → portUp s src = true → frameComes s src bs = true → bs.length < 12 →
    Answers (.macFrameReceive src id bs ov arr) s fun t => t = (loopTaken src s)) ∧
  (∀ (s : State) (src : Fin 416) (id : Nat) (bs : List Byte) (ov : Bool) (arr : Arrival), s.pwr.mainUp = true → s.frame? id = none → portUp s src = false → arr.begun = true →
      src.val < 384 → s.flag F.TLM_TAG_CTRL_EN = false →
    Answers (.macFrameReceive src id bs ov arr) s fun t =>
      t.reg64 (Reg.BUF_PORT_RX_TRUNC_LO src) (Reg.BUF_PORT_RX_TRUNC_HI src) = (s.reg64 (Reg.BUF_PORT_RX_TRUNC_LO src) (Reg.BUF_PORT_RX_TRUNC_HI src) + 1) % 2 ^ 64 ∧ Touches [] (pair (Reg.BUF_PORT_RX_TRUNC_LO src) ++ [F.BUF_PORT_INT_STATUS_CNT_OVF (src / 16)]) s t) ∧
  (∀ (s : State) (src : Fin 416) (id : Nat) (f : Frame) (bs : List Byte) (ov : Bool) (arr : Arrival), s.pwr.mainUp = true → s.frame? id = some f → (f.src ≠ src.val ∨ f.ended = true) →
    Answers (.macFrameReceive src id bs ov arr) s fun t => t = s) ∧
  (∀ (s : State) (src : Fin 416) (id : Nat) (bs : List Byte) (arr : Arrival), s.pwr.mainUp = true → portUp s src = true → frameComes s src bs = true → s.frame? id = none → src.val < 384 → s.flag F.TLM_TAG_CTRL_EN = false → half bs 12 ≠ 0x8808 → 64 ≤ bs.length → bs.length ≤ s.fld (F.PORT_MAX_FRAME_BYTES src) →
    Answers (.macFrameReceive src id bs false arr) s fun t =>
      t.frame? id = some { bytes := bs, bad := if fcsOk bs then none else some .fcs, src := src.val, ended := true, rx := rxStamp src arr.stamp arr.ago s, pipe := portFirst s src / 32 } ∧
      t.reg64 (Reg.PORT_RX_FRAMES_LO src) (Reg.PORT_RX_FRAMES_HI src) = (s.reg64 (Reg.PORT_RX_FRAMES_LO src) (Reg.PORT_RX_FRAMES_HI src) + 1) % 2 ^ 64 ∧ t.reg64 (Reg.PORT_RX_BYTES_LO src) (Reg.PORT_RX_BYTES_HI src) = (s.reg64 (Reg.PORT_RX_BYTES_LO src) (Reg.PORT_RX_BYTES_HI src) + bs.length) % 2 ^ 64 ∧
      t.reg64 (Reg.PORT_RX_FCS_ERR_LO src) (Reg.PORT_RX_FCS_ERR_HI src) = (s.reg64 (Reg.PORT_RX_FCS_ERR_LO src) (Reg.PORT_RX_FCS_ERR_HI src) + (if fcsOk bs then 0 else 1)) % 2 ^ 64 ∧
      FramesKeep [id] s t ∧ Touches [.net, .tlm] (pair (Reg.PORT_RX_FCS_ERR_LO src) ++ pair (Reg.PORT_RX_FRAMES_LO src) ++ pair (Reg.PORT_RX_BYTES_LO src) ++ evtFlds ++ [F.PORT_INT_STATUS_CNT_OVF src]) s t) ∧
  (∀ (s : State) (src : Fin 416) (id : Nat) (bs : List Byte) (arr : Arrival), s.pwr.mainUp = true → portUp s src = true → frameComes s src bs = true → s.frame? id = none → src.val < 384 → s.flag F.TLM_TAG_CTRL_EN = false → half bs 12 ≠ 0x8808 → 64 ≤ bs.length → s.fld (F.PORT_MAX_FRAME_BYTES src) < bs.length → 63 < s.fld (F.PORT_MAX_FRAME_BYTES src) →
      half (bs.take (s.fld (F.PORT_MAX_FRAME_BYTES src) + 1)) 12 ≠ 0x8808 →
    Answers (.macFrameReceive src id bs false arr) s fun t =>
      t.frame? id = some { bytes := bs.take (s.fld (F.PORT_MAX_FRAME_BYTES src) + 1), bad := some .oversize, src := src.val, ended := true, rx := rxStamp src arr.stamp arr.ago s, pipe := portFirst s src / 32 } ∧ t.reg64 (Reg.PORT_RX_OVERSIZE_LO src) (Reg.PORT_RX_OVERSIZE_HI src) = (s.reg64 (Reg.PORT_RX_OVERSIZE_LO src) (Reg.PORT_RX_OVERSIZE_HI src) + 1) % 2 ^ 64 ∧
      t.reg64 (Reg.PORT_RX_FRAMES_LO src) (Reg.PORT_RX_FRAMES_HI src) = (s.reg64 (Reg.PORT_RX_FRAMES_LO src) (Reg.PORT_RX_FRAMES_HI src) + 1) % 2 ^ 64 ∧ t.reg64 (Reg.PORT_RX_BYTES_LO src) (Reg.PORT_RX_BYTES_HI src) = (s.reg64 (Reg.PORT_RX_BYTES_LO src) (Reg.PORT_RX_BYTES_HI src) + (s.fld (F.PORT_MAX_FRAME_BYTES src) + 1)) % 2 ^ 64 ∧
      FramesKeep [id] s t ∧ Touches [.net, .tlm] (pair (Reg.PORT_RX_OVERSIZE_LO src) ++ pair (Reg.PORT_RX_FRAMES_LO src) ++ pair (Reg.PORT_RX_BYTES_LO src) ++ evtFlds ++ [F.PORT_INT_STATUS_CNT_OVF src]) s t) ∧
  (∀ (s : State) (src : Fin 416) (id : Nat) (bs : List Byte) (arr : Arrival), s.pwr.mainUp = true → portUp s src = true → frameComes s src bs = true → s.frame? id = none → src.val < 384 → s.flag F.TLM_TAG_CTRL_EN = false → half bs 12 ≠ 0x8808 → 64 ≤ bs.length → bs.length ≤ s.fld (F.PORT_MAX_FRAME_BYTES src) → s.flag F.TLM_SLOT_CMD_EN = false →
    Answers (.macFrameReceive src id bs true arr) s fun t =>
      t.net = (loopTaken src s).net ∧ t.reg64 (Reg.PORT_RX_OVERFLOW_DROP_LO src) (Reg.PORT_RX_OVERFLOW_DROP_HI src) = (s.reg64 (Reg.PORT_RX_OVERFLOW_DROP_LO src) (Reg.PORT_RX_OVERFLOW_DROP_HI src) + 1) % 2 ^ 64 ∧ Touches [.net, .tlm] (pair (Reg.PORT_RX_OVERFLOW_DROP_LO src) ++ pair (Reg.PORT_RX_FRAMES_LO src) ++ pair (Reg.PORT_RX_BYTES_LO src) ++ evtFlds ++ [F.PORT_INT_STATUS_CNT_OVF src]) s t) ∧
  (∀ (s : State) (src : Fin 416) (id : Nat) (bs : List Byte) (arr : Arrival), s.pwr.mainUp = true → portUp s src = true → frameComes s src bs = true → s.frame? id = none → 384 ≤ src.val →
      s.flag F.TLM_TAG_CTRL_EN = false → half bs 12 ≠ 0x8808 → 64 ≤ bs.length → bs.length ≤ 2000 → fcsOk bs = true →
    Answers (.macFrameReceive src id bs false arr) s fun t =>
      t.frame? id = some { src := src.val, bytes := bs, ended := true, rx := rxStamp src arr.stamp arr.ago s, pipe := (src.val - 384) % 24 } ∧
      t.reg (Reg.ALN_RX_FRAMES (src - 384)) = s.reg (Reg.ALN_RX_FRAMES (src - 384)) + 1 ∧ FramesKeep [id] s t ∧
      Touches [.net, .tlm] (evtFlds ++ [whole (Reg.ALN_RX_FRAMES (src - 384)), F.ALN_INT_STATUS_CNT_OVF (src - 384)]) s t) ∧
  (∀ (s : State) (src : Fin 416) (id : Nat) (f : Frame) (bs : List Byte) (arr : Arrival), s.pwr.mainUp = true → portUp s src = true → frameComes s src bs = true → src.val < 384 → s.frame? id = some f →
      f.src = src.val → f.ended = false → f.phase = .queued → f.tag = none → f.polChg = none → f.schChg = [] → f.defChg = none →
      half bs 12 ≠ 0x8808 → 64 ≤ bs.length → bs.length ≤ s.fld (F.PORT_MAX_FRAME_BYTES src) → fcsOk bs = true →
    Answers (.macFrameReceive src id bs false arr) s fun t =>
      t.frame? id = some { f with bytes := bs, ended := true } ∧ t.reg64 (Reg.PORT_RX_FRAMES_LO src) (Reg.PORT_RX_FRAMES_HI src) = (s.reg64 (Reg.PORT_RX_FRAMES_LO src) (Reg.PORT_RX_FRAMES_HI src) + 1) % 2 ^ 64 ∧ FramesKeep [id] s t ∧
      Touches [.net, .tlm] (pair (Reg.PORT_RX_FRAMES_LO src) ++ pair (Reg.PORT_RX_BYTES_LO src) ++ evtFlds ++ [F.PORT_INT_STATUS_CNT_OVF src]) s t)

/-- Injection and traps (R380 to R383): a descriptor in range of the Hearth ring becomes a frame of source port 416 with the FCS appended, one out of range is dropped with INJ_BAD and counted, and the ring advances; host data is gathered up to 2,048 bytes and SEND makes a frame of it, is
refused with INJ_BAD where LENGTH does not fit, and clears the data; a trapped or copied frame that the buffer holds whole goes with its header into the next slot, or, on a full ring, is dropped from that path with TRAP_FULL.
The bytes of ring words in SRAM are log 4; FWD_INJ_BAD counting the descriptors of R381 only and SEND ignored while BUSY are log 18. -/
def Obligations.InjectionAndTraps : Prop :=
  (∀ (s : State) (w0 w1 w2 w3 w4 w5 w6 w7 : Word), s.pwr.mainUp = true → s.fld F.FWD_INJ_RD_RD % 2 ^ s.fld F.FWD_INJ_RING_LOG2 ≠ s.fld F.FWD_INJ_WR_WR % 2 ^ s.fld F.FWD_INJ_RING_LOG2 →
      s.sramBytes (s.fld F.FWD_INJ_BASE_BASE / 64 * 64 + 32 * (s.fld F.FWD_INJ_RD_RD % 2 ^ s.fld F.FWD_INJ_RING_LOG2)) 32 = wordBytes [w0, w1, w2, w3, w4, w5, w6, w7] → 60 ≤ bits w1 16 14 → bits w1 16 14 ≤ 16356 → bits w0 0 9 ≤ 415 → (w0.getLsbD 13 = false → bits w0 0 9 ≤ 383) →
    Answers .injDescriptor s fun t =>
      t.frame? (newId s) = some { src := 416, bytes := s.sramBytes (bits w2 0 22 / 64 * 64) (bits w1 16 14) ++ leBytes 4 (fcsOf (s.sramBytes (bits w2 0 22 / 64 * 64) (bits w1 16 14))).toNat, ended := true, inj := 1, bypass := w0.getLsbD 13, pipe := if w0.getLsbD 13 then pipeOf s (bits w0 0 9) else 0, egress := bits w0 0 9, queue := bits w0 9 4, ins := eventIns (s.sramBytes (bits w2 0 22 / 64 * 64) (bits w1 16 14) ++ leBytes 4 (fcsOf (s.sramBytes (bits w2 0 22 / 64 * 64) (bits w1 16 14))).toNat) (bits w0 14 3), record := w0.getLsbD 17, txTag := bits w1 0 16, tref := [w4, w5, w6, w7] } ∧
      t.fld F.FWD_INJ_RD_RD = (s.fld F.FWD_INJ_RD_RD % 2 ^ s.fld F.FWD_INJ_RING_LOG2 + 1) % 2 ^ s.fld F.FWD_INJ_RING_LOG2 % 2 ^ 10 ∧ FramesKeep [newId s] s t ∧ Touches [.net] [F.FWD_INJ_RD_RD] s t) ∧
  (∀ (s : State) (w0 w1 w2 w3 w4 w5 w6 w7 : Word), s.pwr.mainUp = true → s.fld F.FWD_INJ_RD_RD % 2 ^ s.fld F.FWD_INJ_RING_LOG2 ≠ s.fld F.FWD_INJ_WR_WR % 2 ^ s.fld F.FWD_INJ_RING_LOG2 →
      s.sramBytes (s.fld F.FWD_INJ_BASE_BASE / 64 * 64 + 32 * (s.fld F.FWD_INJ_RD_RD % 2 ^ s.fld F.FWD_INJ_RING_LOG2)) 32 = wordBytes [w0, w1, w2, w3, w4, w5, w6, w7] → (bits w1 16 14 < 60 ∨ 16356 < bits w1 16 14 ∨ 415 < bits w0 0 9 ∨ (w0.getLsbD 13 = false ∧ 383 < bits w0 0 9)) →
    Answers .injDescriptor s fun t =>
      t.flag F.FWD_INT_STATUS_INJ_BAD = true ∧ t.reg Reg.FWD_INJ_BAD = s.reg Reg.FWD_INJ_BAD + 1 ∧ t.fld F.FWD_INJ_RD_RD = (s.fld F.FWD_INJ_RD_RD % 2 ^ s.fld F.FWD_INJ_RING_LOG2 + 1) % 2 ^ s.fld F.FWD_INJ_RING_LOG2 % 2 ^ 10 ∧
      Touches [] [F.FWD_INJ_RD_RD, whole Reg.FWD_INJ_BAD, F.FWD_INT_STATUS_INJ_BAD, F.FWD_INT_STATUS_CNT_OVF] s t) ∧
  (∀ (s : State), s.pwr.mainUp = true → ¬(s.fld F.FWD_INJ_RD_RD % 2 ^ s.fld F.FWD_INJ_RING_LOG2 ≠ s.fld F.FWD_INJ_WR_WR % 2 ^ s.fld F.FWD_INJ_RING_LOG2) → Answers .injDescriptor s fun t => t = s) ∧
  (∀ (s : State) (ag : Agent) (d : Word), s.pwr.mainUp = true → pf1Denied ag Reg.FWD_HINJ_DATA s = false →
    Answers (.fwdHinjDataWrite ag d) s fun t =>
      t.net = { s.net with hostData := if s.net.hostData.length < 2048 then s.net.hostData ++ leBytes 4 d.toNat else s.net.hostData } ∧ Touches [.net] [] s t) ∧
  (∀ (s : State) (ag : Agent) (d w0 w1 : Word), s.pwr.mainUp = true → pf1Denied ag Reg.FWD_HINJ_CMD s = false → hinjBusy s = false → s.reg (Reg.FWD_HINJ_DESC 0) = w0 → s.reg (Reg.FWD_HINJ_DESC 1) = w1 → 60 ≤ bits w1 16 14 → bits w1 16 14 ≤ 16356 → bits w0 0 9 ≤ 415 → (w0.getLsbD 13 = false → bits w0 0 9 ≤ 383) →
      bits w1 16 14 ≤ s.net.hostData.length → bits w1 16 14 ≤ 2044 →
    Answers (.send ag d) s fun t =>
      t.frame? (newId s) = some { src := 416, bytes := s.net.hostData.take (bits w1 16 14) ++ leBytes 4 (fcsOf (s.net.hostData.take (bits w1 16 14))).toNat, ended := true, inj := 2, bypass := w0.getLsbD 13, pipe := if w0.getLsbD 13 then pipeOf s (bits w0 0 9) else 0, egress := bits w0 0 9, queue := bits w0 9 4, ins := eventIns (s.net.hostData.take (bits w1 16 14) ++ leBytes 4 (fcsOf (s.net.hostData.take (bits w1 16 14))).toNat) (bits w0 14 3), record := w0.getLsbD 17, txTag := bits w1 0 16, tref := [s.reg (Reg.FWD_HINJ_DESC 4), s.reg (Reg.FWD_HINJ_DESC 5), s.reg (Reg.FWD_HINJ_DESC 6), s.reg (Reg.FWD_HINJ_DESC 7)] } ∧
      t.net.hostData = [] ∧ FramesKeep [newId s] s t ∧ Touches [.net] [] s t) ∧
  (∀ (s : State) (ag : Agent) (d : Word), s.pwr.mainUp = true → pf1Denied ag Reg.FWD_HINJ_CMD s = false → hinjBusy s = false →
      (s.net.hostData.length < bits (s.reg (Reg.FWD_HINJ_DESC 1)) 16 14 ∨ 2044 < bits (s.reg (Reg.FWD_HINJ_DESC 1)) 16 14) →
    Answers (.send ag d) s fun t =>
      t.flag F.FWD_INT_STATUS_INJ_BAD = true ∧ t.net = { s.net with hostData := [] } ∧ Touches [.net] [F.FWD_INT_STATUS_INJ_BAD] s t) ∧
  (∀ (s : State) (id r : Nat) (f : Frame), s.pwr.mainUp = true → s.frame? id = some f → f.trap = some r → f.ended = true → f.bad = none → f.slices.length = (f.bytes.length + 255) / 256 → f.phase = .queued → (s.fld F.FWD_TRAP_WR_WR % 2 ^ s.fld F.FWD_TRAP_RING_LOG2 + 1) % 2 ^ s.fld F.FWD_TRAP_RING_LOG2 ≠ s.fld F.FWD_TRAP_RD_RD % 2 ^ s.fld F.FWD_TRAP_RING_LOG2 →
    Answers (.trapWrite id) s fun t =>
      t.sramBytes (s.fld F.FWD_TRAP_BASE_BASE / 4096 * 4096 + 4096 * (s.fld F.FWD_TRAP_WR_WR % 2 ^ s.fld F.FWD_TRAP_RING_LOG2)) (64 + min 4032 f.bytes.length) = wordBytes ([BitVec.ofNat 32 (f.src + r * 2 ^ 9 + (if 4032 < f.bytes.length then 2 ^ 13 else 0) + (if f.rx.isSome then 2 ^ 14 else 0)), BitVec.ofNat 32 f.bytes.length] ++
        (match f.rx with | some x => recordWords (tbFormat s) x.v20 x.flags | none => [0, 0, 0, 0]) ++ List.replicate 10 0) ++ f.bytes.take 4032 ∧
      t.fld F.FWD_TRAP_WR_WR = (s.fld F.FWD_TRAP_WR_WR % 2 ^ s.fld F.FWD_TRAP_RING_LOG2 + 1) % 2 ^ s.fld F.FWD_TRAP_RING_LOG2 % 2 ^ 10 ∧ t.frame? id = some { f with trap := none } ∧ FramesKeep [id] s t ∧
      SramKeep (s.fld F.FWD_TRAP_BASE_BASE / 4096 * 4096 + 4096 * (s.fld F.FWD_TRAP_WR_WR % 2 ^ s.fld F.FWD_TRAP_RING_LOG2)) (64 + min 4032 f.bytes.length) s t ∧ Touches [.sram, .net] [F.FWD_TRAP_WR_WR] s t) ∧
  (∀ (s : State) (id r : Nat) (f : Frame), s.pwr.mainUp = true → s.frame? id = some f → f.trap = some r → f.ended = true → f.bad = none → f.slices.length = (f.bytes.length + 255) / 256 → f.phase = .queued → (s.fld F.FWD_TRAP_WR_WR % 2 ^ s.fld F.FWD_TRAP_RING_LOG2 + 1) % 2 ^ s.fld F.FWD_TRAP_RING_LOG2 = s.fld F.FWD_TRAP_RD_RD % 2 ^ s.fld F.FWD_TRAP_RING_LOG2 →
    Answers (.trapWrite id) s fun t =>
      t.flag F.FWD_INT_STATUS_TRAP_FULL = true ∧ t.reg Reg.FWD_TRAP_DROP = s.reg Reg.FWD_TRAP_DROP + 1 ∧ t.frame? id = some { f with trap := none } ∧
      FramesKeep [id] s t ∧ Touches [.net] [whole Reg.FWD_TRAP_DROP, F.FWD_INT_STATUS_TRAP_FULL, F.FWD_INT_STATUS_CNT_OVF] s t) ∧
  (∀ (s : State) (id r : Nat) (f : Frame), s.pwr.mainUp = true → s.frame? id = some f → f.trap = some r → f.ended = true → f.bad = none → f.slices.length = (f.bytes.length + 255) / 256 → f.phase = .trapOnly → f.egress = 511 → (s.fld F.FWD_TRAP_WR_WR % 2 ^ s.fld F.FWD_TRAP_RING_LOG2 + 1) % 2 ^ s.fld F.FWD_TRAP_RING_LOG2 ≠ s.fld F.FWD_TRAP_RD_RD % 2 ^ s.fld F.FWD_TRAP_RING_LOG2 →
    Answers (.trapWrite id) s fun t =>
      t.fld F.FWD_TRAP_WR_WR = (s.fld F.FWD_TRAP_WR_WR % 2 ^ s.fld F.FWD_TRAP_RING_LOG2 + 1) % 2 ^ s.fld F.FWD_TRAP_RING_LOG2 % 2 ^ 10 ∧ t.frame? id = none ∧ t.fld F.BUF_FREE_FREE = (s.fld F.BUF_FREE_FREE + slicesBack f) % 2 ^ 21 ∧ FramesKeep [id] s t ∧ Within [.regs, .ind, .sram, .net, .tlm] s t)

/-- The commit (R385 to R390): a word of one-word entries is staged at once with its reserved bits 0, a first word of a longer entry is gathered and its last word stages the whole; beyond 4,096 entries STAGE_FULL sets and the next commit fails with CAUSE 4; COMMIT starts the check and DISCARD empties the set,
both ignored with COMMIT_BUSY while one runs; a check that finds nothing leads to the commit cycle, in which every staged word becomes live and the set empties; one that fails names the pipelines, the cause and the entry, keeps the set and changes no table.
Causes 1 and 2 against a majority are faults of class 8 of their pipelines; without a majority signature there is one, with SUB 24. Reserved bits staged as 0, LEN checked in entries that are not valid, the mark of CAUSE 4 taken by the failing
commit (log 19), the signature deviations as operands (log 23) and the count of class 2 by a check (log 30) are the model's choices. -/
def Obligations.TablesAreStagedAndCommitted : Prop :=
  (∀ (s : State) (k : Fin 4) (w : BitVec 24) (d : Word), s.pwr.mainUp = true → (k = 1 → s.rbit Reg.HOST_PF1_WRITE_EN 9 = true) → s.net.commit = 0 → 0xB00000 ≤ w.toNat → w.toNat < 0xD04000 → ((stagedEntry s w.toNat).isSome = true ∨ s.net.staged.length < 4096) →
    Answers (.fwdStageWrite k w d) s fun t =>
      t.net.staged = stageIns w.toNat [if w.toNat < 0xD00000 then d else d &&& 0x800001FF] s.net.staged ∧ smapGet noGather t.net.gather k = none ∧
      t.net.commit = 0 ∧ t.net.frames = s.net.frames ∧ (∀ j : Fin 4, j ≠ k → smapGet noGather t.net.gather j = smapGet noGather s.net.gather j) ∧ Within [.net] s t) ∧
  (∀ (s : State) (k : Fin 4) (w : BitVec 24) (d : Word), s.pwr.mainUp = true → (k = 1 → s.rbit Reg.HOST_PF1_WRITE_EN 9 = true) → s.net.commit = 0 → 0x200000 ≤ w.toNat → w.toNat < 0x600000 → w.toNat % 2 = 0 → (smapGet noGather s.net.gather k).all (fun x => x.1 != w.toNat) = true →
    Answers (.fwdStageWrite k w d) s fun t =>
      smapGet noGather t.net.gather k = some (w.toNat, [(w.toNat, d)]) ∧ t.net.staged = s.net.staged ∧ (∀ j : Fin 4, j ≠ k → smapGet noGather t.net.gather j = smapGet noGather s.net.gather j) ∧ Within [.net] s t) ∧
  (∀ (s : State) (k : Fin 4) (w : BitVec 24) (d d0 : Word) (b : Nat), s.pwr.mainUp = true → (k = 1 → s.rbit Reg.HOST_PF1_WRITE_EN 9 = true) → s.net.commit = 0 → 0x200000 ≤ b → b < 0x600000 → b % 2 = 0 → w.toNat = b + 1 → smapGet noGather s.net.gather k = some (b, [(b, d0)]) →
      s.net.staged.length < 4096 →
    Answers (.fwdStageWrite k w d) s fun t =>
      t.net.staged = stageIns b [d0, d] s.net.staged ∧ smapGet noGather t.net.gather k = none ∧ (∀ j : Fin 4, j ≠ k → smapGet noGather t.net.gather j = smapGet noGather s.net.gather j) ∧ Within [.net] s t) ∧
  (∀ (s : State) (k : Fin 4) (w : BitVec 24) (d : Word) (b : Nat), s.pwr.mainUp = true → (k = 1 → s.rbit Reg.HOST_PF1_WRITE_EN 9 = true) → s.net.commit = 0 → 0x200000 ≤ b → b < 0x600000 → b % 2 = 0 → w.toNat = b + 1 → (smapGet noGather s.net.gather k).all (fun x => x.1 != b) = true →
      s.net.staged.length < 4096 →
    Answers (.fwdStageWrite k w d) s fun t =>
      t.net.staged = stageIns b [(match stagedEntry s b with | some ws => nth 0 ws 0 | none => s.indw 6 b), d] s.net.staged ∧ smapGet noGather t.net.gather k = none ∧ (∀ j : Fin 4, j ≠ k → smapGet noGather t.net.gather j = smapGet noGather s.net.gather j) ∧ Within [.net] s t) ∧
  (∀ (s : State) (k : Fin 4) (w : BitVec 24) (d : Word), s.pwr.mainUp = true → (k = 1 → s.rbit Reg.HOST_PF1_WRITE_EN 9 = true) → s.net.commit = 0 → 0xB00000 ≤ w.toNat → w.toNat < 0xD04000 → stagedEntry s w.toNat = none → 4096 ≤ s.net.staged.length →
    Answers (.fwdStageWrite k w d) s fun t =>
      t.flag F.FWD_INT_STATUS_STAGE_FULL = true ∧ t.net.staged = s.net.staged ∧ t.net.stageLost.isSome = true ∧ Touches [.net] [F.FWD_INT_STATUS_STAGE_FULL] s t) ∧
  (∀ (s : State) (k : Fin 4) (w : BitVec 24) (d : Word), s.pwr.mainUp = true → s.net.commit ≠ 0 → Answers (.fwdStageWrite k w d) s fun t => t = s) ∧
  (∀ (s : State) (ag : Agent) (d : Word), s.pwr.mainUp = true → pf1Denied ag Reg.FWD_COMMIT_CMD s = false → d.getLsbD 1 = false → s.net.commit = 0 →
    Answers (.commit ag d) s fun t => t.net = { s.net with commit := 1 } ∧ Touches [.net] [] s t) ∧
  (∀ (s : State) (ag : Agent) (d : Word), s.pwr.mainUp = true → pf1Denied ag Reg.FWD_COMMIT_CMD s = false → d.getLsbD 0 = false → s.net.commit = 0 →
    Answers (.fwdDiscard ag d) s fun t => t.net = { s.net with staged := [], stageLost := none, eccBad := [] } ∧ Touches [.net] [] s t) ∧
  (∀ (s : State) (ag : Agent) (d : Word) (c : Instr), s.pwr.mainUp = true → pf1Denied ag Reg.FWD_COMMIT_CMD s = false → s.net.commit ≠ 0 → c ∈ [Instr.commit ag d, .fwdDiscard ag d] →
    Answers c s fun t => t.flag F.FWD_INT_STATUS_COMMIT_BUSY = true ∧ Touches [] [F.FWD_INT_STATUS_COMMIT_BUSY] s t) ∧
  (∀ (s : State), s.pwr.mainUp = true → s.net.commit = 1 → s.net.stageLost = none → s.net.eccBad = [] → (∀ e ∈ s.net.staged, entryBreaks s e.1 = false) →
    Answers (.commitCheckEnd [] []) s fun t => t.net = { s.net with commit := 2 } ∧ Within [.net] s t) ∧
  (∀ (s : State) (b : Nat) (ecc : List (Nat × Nat)) (devs : List Word), s.pwr.mainUp = true → s.net.commit = 1 → s.net.stageLost = some b → b < 2 ^ 24 →
    Answers (.commitCheckEnd ecc devs) s fun t =>
      t.fld F.FWD_COMMIT_FAIL_PIPE = 0 ∧ t.fld F.FWD_COMMIT_FAIL_CAUSE = 4 ∧ t.fld F.FWD_COMMIT_FAIL_MASK_PIPES = 0xFFFFFF ∧ t.fld F.FWD_COMMIT_FAIL_ADDR_WADDR = b ∧
      t.flag F.FWD_INT_STATUS_COMMIT_FAIL = true ∧ t.net = { s.net with commit := 0, stageLost := none } ∧ Within [.regs, .loop, .net, .twin] s t ∧
      (s.flag F.FLT_CTRL_ECC_EN = false → Touches [.net] [whole Reg.FWD_COMMIT_FAIL, whole Reg.FWD_COMMIT_FAIL_MASK, whole Reg.FWD_COMMIT_FAIL_ADDR, F.FWD_INT_STATUS_COMMIT_FAIL] s t)) ∧
  (∀ (s : State) (n b : Nat) (ws : List Word) (r : List (Nat × List Word)), s.pwr.mainUp = true → s.net.commit = 1 → s.net.stageLost = none → s.net.eccBad = [] → s.net.staged = (b, ws) :: r → b < 2 ^ 24 →
      (∀ e ∈ s.net.staged, entryBreaks s e.1 = false) → n < 24 →
    Answers (.commitCheckEnd [(n, b)] []) s fun t =>
      (s.flag F.FLT_CTRL_ECC_EN = true →
        t.fld F.FWD_COMMIT_FAIL_PIPE = n ∧ t.fld F.FWD_COMMIT_FAIL_CAUSE = 1 ∧ t.fld F.FWD_COMMIT_FAIL_MASK_PIPES = 2 ^ n ∧ t.fld F.FWD_COMMIT_FAIL_ADDR_WADDR = b ∧
        t.flag F.FWD_INT_STATUS_COMMIT_FAIL = true ∧ t.rbit Reg.FLT_CLASS_PEND 2 = true ∧ t.rbit Reg.FLT_CLASS_PEND 8 = true ∧ t.net = { s.net with commit := 0 }) ∧
      (s.flag F.FLT_CTRL_ECC_EN = false → t.net = { s.net with commit := 2 }) ∧ Within [.regs, .loop, .net, .twin] s t) ∧
  (∀ (s : State) (b : Nat) (ws : List Word) (x : Word) (r : List (Nat × List Word)), s.pwr.mainUp = true → s.net.commit = 1 → s.net.stageLost = none → s.net.eccBad = [] →
      s.net.staged = (b, ws) :: r → (∀ e ∈ r, b ≤ e.1) → b < 2 ^ 24 → x ≠ 0 →
    Answers (.commitCheckEnd [] (List.replicate 12 x)) s fun t =>
      t.fld F.FWD_COMMIT_FAIL_PIPE = 0 ∧ t.fld F.FWD_COMMIT_FAIL_CAUSE = 2 ∧ t.fld F.FWD_COMMIT_FAIL_MASK_PIPES = 0xFFFFFF ∧ t.fld F.FWD_COMMIT_FAIL_ADDR_WADDR = b ∧
      t.flag F.FWD_INT_STATUS_COMMIT_FAIL = true ∧ t.reg (Reg.FLT_CLASS_COUNT 7) = s.reg (Reg.FLT_CLASS_COUNT 7) + 1 ∧ t.rbit Reg.FLT_CLASS_PEND 8 = true ∧
      (s.flag (F.FLT_CLASS_CFG_LOG_EN 7) = true → t.reg (Reg.FLT_LOG (4 * s.fld F.FLT_LOG_HEAD_NEXT + 1)) = 0x18000000) ∧
      t.net = { s.net with commit := 0 } ∧ Within [.regs, .loop, .net, .twin] s t) ∧
  (∀ (s : State) (b : Nat) (ws : List Word), s.pwr.mainUp = true → s.net.commit = 1 → s.net.stageLost = none → s.net.eccBad = [] → s.net.staged = [(b, ws)] → b < 2 ^ 24 →
      entryBreaks s b = true →
    Answers (.commitCheckEnd [] []) s fun t =>
      t.fld F.FWD_COMMIT_FAIL_PIPE = 0 ∧ t.fld F.FWD_COMMIT_FAIL_CAUSE = 3 ∧ t.fld F.FWD_COMMIT_FAIL_MASK_PIPES = 0xFFFFFF ∧ t.fld F.FWD_COMMIT_FAIL_ADDR_WADDR = b ∧
      t.flag F.FWD_INT_STATUS_COMMIT_FAIL = true ∧ t.net = { s.net with commit := 0 } ∧ Touches [.net] [whole Reg.FWD_COMMIT_FAIL, whole Reg.FWD_COMMIT_FAIL_MASK, whole Reg.FWD_COMMIT_FAIL_ADDR, F.FWD_INT_STATUS_COMMIT_FAIL] s t) ∧
  (∀ (s : State) (b : Nat) (w0 w1 : Word), 0x200000 ≤ b → b < 0x600000 → b % 2 = 0 → stagedEntry s b = some [w0, w1] → 32 < bits w1 0 8 → entryBreaks s b = true) ∧
  (∀ (s : State) (n b : Nat) (ws : List Word) (x : Word) (r : List (Nat × List Word)), s.pwr.mainUp = true → s.net.commit = 1 → s.net.stageLost = none → s.net.eccBad = [] →
      s.net.staged = (b, ws) :: r → b < 2 ^ 24 → (∀ e ∈ s.net.staged, entryBreaks s e.1 = false) → n < 24 → x ≠ 0 →
    Answers (.commitCheckEnd [] (List.replicate n 0 ++ [x])) s fun t =>
      t.fld F.FWD_COMMIT_FAIL_PIPE = n ∧ t.fld F.FWD_COMMIT_FAIL_CAUSE = 2 ∧ t.fld F.FWD_COMMIT_FAIL_MASK_PIPES = 2 ^ n ∧ t.fld F.FWD_COMMIT_FAIL_ADDR_WADDR = b ∧
      t.rbit Reg.FLT_CLASS_PEND 8 = true ∧ t.net = { s.net with commit := 0 } ∧ Within [.regs, .loop, .net, .twin] s t) ∧
  (∀ (s : State), s.pwr.mainUp = true → s.net.commit = 2 → s.net.staged.Pairwise (fun x y => x.1 + x.2.length ≤ y.1) →
    Answers .commitCycle s fun t =>
      (∀ e ∈ s.net.staged, ∀ i ∈ List.range e.2.length, t.indw 6 (e.1 + i) = nth 0 e.2 i) ∧ t.net.staged = [] ∧ t.net.commit = 3 ∧ t.net.frames = s.net.frames ∧
      IndKeep (s.net.staged.flatMap fun e => (List.range e.2.length).map fun i => (6, e.1 + i)) s t ∧ Within [.ind, .net] s t) ∧
  (∀ (s : State), s.pwr.mainUp = true → s.net.commit = 3 →
    Answers .commitDone s fun t => t.flag F.FWD_INT_STATUS_COMMIT_DONE = true ∧ t.net = { s.net with commit := 0 } ∧ Touches [.net] [F.FWD_INT_STATUS_COMMIT_DONE] s t)

/-- Lookups (R360, R362 to R380): a PTP message is placed by the first classifier entry that it matches, an ESMC frame is trapped; in other frames a header error, an L2 miss, a hairpin, an LPM miss, an expired TTL and an ACL drop end the frame, each with its counter; an L2 miss that is trapped makes it a frame for Hearth with reason 3; an L2 entry of a port forwards to that port, one of a group to the
EGRESS of the next hop that the flow hash picks, with its rewrite, and a routed one likewise through the longest match; an injected frame with BYPASS keeps its egress and queue. A frame whose end has not come is in the part from its lookup on.
The longest prefix and the lowest ACL entry are those of all entries; an ACL entry drops, traps, copies, redirects, meters and chooses the queue, of a frame in queue 15 only the first three. The places of header fields are log 22. -/
def Obligations.FramesAreLookedUp : Prop :=
  (∀ (s : State) (src : Fin 417) (id : Nat) (slot : Fin 2) (f : Frame), s.pwr.mainUp = true → s.frame? id = some f → f.src = src.val → f.phase = .arrived → slotFree f.pipe f s = true → f.bypass = false → f.tag = none → f.ins = 0 → f.slices = [] → f.trap = none → f.drop = false →
      (parse f.bytes (parseLen f.bytes f.ended)).ptp = none → (parse f.bytes (parseLen f.bytes f.ended)).esmc = false → f.pipe < 24 → f.ended = true → aclFind s (aclKey (parse f.bytes (parseLen f.bytes f.ended)) (if (parse f.bytes (parseLen f.bytes f.ended)).tags = 0 then s.fld (F.FWD_PORT_CFG_PVID src) else (parse f.bytes (parseLen f.bytes f.ended)).vid) src false 0) = none → (parse f.bytes (parseLen f.bytes f.ended)).err = true →
    Answers (.pipelineLookup src id none slot) s fun t => t.reg64 (Reg.FWD_HDR_ERR_LO f.pipe) (Reg.FWD_HDR_ERR_HI f.pipe) = (s.reg64 (Reg.FWD_HDR_ERR_LO f.pipe) (Reg.FWD_HDR_ERR_HI f.pipe) + 1) % 2 ^ 64 ∧ t.frame? id = none ∧ FramesKeep [id] s t ∧ Touches [.net, .tlm] (pair (Reg.FWD_HDR_ERR_LO f.pipe) ++ evtFlds ++ [F.FWD_PIPE_INT_STATUS_CNT_OVF f.pipe]) s t) ∧
  (∀ (s : State) (src : Fin 417) (id : Nat) (slot : Fin 2) (f : Frame), s.pwr.mainUp = true → s.frame? id = some f → f.src = src.val → f.phase = .arrived → slotFree f.pipe f s = true → f.bypass = false → f.tag = none → f.ins = 0 → f.slices = [] → f.trap = none → f.drop = false →
      (parse f.bytes (parseLen f.bytes f.ended)).ptp = none → (parse f.bytes (parseLen f.bytes f.ended)).esmc = false → f.pipe < 24 → f.ended = true → aclFind s (aclKey (parse f.bytes (parseLen f.bytes f.ended)) (if (parse f.bytes (parseLen f.bytes f.ended)).tags = 0 then s.fld (F.FWD_PORT_CFG_PVID src) else (parse f.bytes (parseLen f.bytes f.ended)).vid) src false 0) = none → (parse f.bytes (parseLen f.bytes f.ended)).err = false → l2Find s (if (parse f.bytes (parseLen f.bytes f.ended)).tags = 0 then s.fld (F.FWD_PORT_CFG_PVID src) else (parse f.bytes (parseLen f.bytes f.ended)).vid) (beNat (slice f.bytes 0 6)) = none →
      s.flag (F.FWD_PORT_CFG_L2_MISS src) = false →
    Answers (.pipelineLookup src id none slot) s fun t => t.reg64 (Reg.FWD_L2_MISS_LO f.pipe) (Reg.FWD_L2_MISS_HI f.pipe) = (s.reg64 (Reg.FWD_L2_MISS_LO f.pipe) (Reg.FWD_L2_MISS_HI f.pipe) + 1) % 2 ^ 64 ∧ t.frame? id = none ∧ FramesKeep [id] s t ∧ Touches [.net, .tlm] (pair (Reg.FWD_L2_MISS_LO f.pipe) ++ evtFlds ++ [F.FWD_PIPE_INT_STATUS_CNT_OVF f.pipe]) s t) ∧
  (∀ (s : State) (src : Fin 417) (id : Nat) (slot : Fin 2) (f : Frame), s.pwr.mainUp = true → s.frame? id = some f → f.src = src.val → f.phase = .arrived → slotFree f.pipe f s = true → f.bypass = false → f.tag = none → f.ins = 0 → f.slices = [] → f.trap = none → f.drop = false →
      (parse f.bytes (parseLen f.bytes f.ended)).ptp = none → (parse f.bytes (parseLen f.bytes f.ended)).esmc = false → f.pipe < 24 → f.ended = true → aclFind s (aclKey (parse f.bytes (parseLen f.bytes f.ended)) (if (parse f.bytes (parseLen f.bytes f.ended)).tags = 0 then s.fld (F.FWD_PORT_CFG_PVID src) else (parse f.bytes (parseLen f.bytes f.ended)).vid) src false 0) = none → (parse f.bytes (parseLen f.bytes f.ended)).err = false → l2Find s (if (parse f.bytes (parseLen f.bytes f.ended)).tags = 0 then s.fld (F.FWD_PORT_CFG_PVID src) else (parse f.bytes (parseLen f.bytes f.ended)).vid) (beNat (slice f.bytes 0 6)) = none →
      s.flag (F.FWD_PORT_CFG_L2_MISS src) = true →
    Answers (.pipelineLookup src id none slot) s fun t =>
      t.frame? id = some { f with phase := .looked, egress := 511, trap := some 3, next := none, hash := flowHash f.bytes (parse f.bytes (parseLen f.bytes f.ended)) src (s.reg Reg.FWD_HASH_SEED), queue := chooseQ s src (parse f.bytes (parseLen f.bytes f.ended)) false none, policer := none, known := f.bytes.length } ∧ t.reg64 (Reg.FWD_TRAP_LO f.pipe) (Reg.FWD_TRAP_HI f.pipe) = (s.reg64 (Reg.FWD_TRAP_LO f.pipe) (Reg.FWD_TRAP_HI f.pipe) + 1) % 2 ^ 64 ∧ FramesKeep [id] s t ∧ Touches [.net, .tlm] (pair (Reg.FWD_TRAP_LO f.pipe) ++ evtFlds ++ [F.FWD_PIPE_INT_STATUS_CNT_OVF f.pipe]) s t) ∧
  (∀ (s : State) (src : Fin 417) (id i : Nat) (slot : Fin 2) (f : Frame), s.pwr.mainUp = true → s.frame? id = some f → f.src = src.val → f.phase = .arrived → slotFree f.pipe f s = true → f.bypass = false → f.tag = none → f.ins = 0 → f.slices = [] → f.trap = none → f.drop = false →
      (parse f.bytes (parseLen f.bytes f.ended)).ptp = none → (parse f.bytes (parseLen f.bytes f.ended)).esmc = false → f.pipe < 24 → f.ended = true → aclFind s (aclKey (parse f.bytes (parseLen f.bytes f.ended)) (if (parse f.bytes (parseLen f.bytes f.ended)).tags = 0 then s.fld (F.FWD_PORT_CFG_PVID src) else (parse f.bytes (parseLen f.bytes f.ended)).vid) src false 0) = none → (parse f.bytes (parseLen f.bytes f.ended)).err = false → l2Find s (if (parse f.bytes (parseLen f.bytes f.ended)).tags = 0 then s.fld (F.FWD_PORT_CFG_PVID src) else (parse f.bytes (parseLen f.bytes f.ended)).vid) (beNat (slice f.bytes 0 6)) = some i →
      bits (s.indw 6 (4 * i + 2)) 0 3 = 1 → bits (s.indw 6 (4 * i + 2)) 16 14 = src.val → s.flag (F.FWD_PORT_CFG_HAIRPIN src) = false →
    Answers (.pipelineLookup src id none slot) s fun t => t.reg64 (Reg.FWD_HAIRPIN_DROP_LO f.pipe) (Reg.FWD_HAIRPIN_DROP_HI f.pipe) = (s.reg64 (Reg.FWD_HAIRPIN_DROP_LO f.pipe) (Reg.FWD_HAIRPIN_DROP_HI f.pipe) + 1) % 2 ^ 64 ∧ t.frame? id = none ∧ FramesKeep [id] s t ∧ Touches [.net, .tlm] (pair (Reg.FWD_HAIRPIN_DROP_LO f.pipe) ++ evtFlds ++ [F.FWD_PIPE_INT_STATUS_CNT_OVF f.pipe]) s t) ∧
  (∀ (s : State) (src : Fin 417) (id i : Nat) (slot : Fin 2) (f : Frame), s.pwr.mainUp = true → s.frame? id = some f → f.src = src.val → f.phase = .arrived → slotFree f.pipe f s = true → f.bypass = false → f.tag = none → f.ins = 0 → f.slices = [] → f.trap = none → f.drop = false →
      (parse f.bytes (parseLen f.bytes f.ended)).ptp = none → (parse f.bytes (parseLen f.bytes f.ended)).esmc = false → f.pipe < 24 → f.ended = true → aclFind s (aclKey (parse f.bytes (parseLen f.bytes f.ended)) (if (parse f.bytes (parseLen f.bytes f.ended)).tags = 0 then s.fld (F.FWD_PORT_CFG_PVID src) else (parse f.bytes (parseLen f.bytes f.ended)).vid) src false 0) = none → (parse f.bytes (parseLen f.bytes f.ended)).err = false → l2Find s (if (parse f.bytes (parseLen f.bytes f.ended)).tags = 0 then s.fld (F.FWD_PORT_CFG_PVID src) else (parse f.bytes (parseLen f.bytes f.ended)).vid) (beNat (slice f.bytes 0 6)) = some i →
      bits (s.indw 6 (4 * i + 2)) 0 3 = 1 → bits (s.indw 6 (4 * i + 2)) 16 14 < 384 → (bits (s.indw 6 (4 * i + 2)) 16 14 ≠ src.val ∨ s.flag (F.FWD_PORT_CFG_HAIRPIN src) = true) →
    Answers (.pipelineLookup src id none slot) s fun t =>
      t.frame? id = some { f with phase := .looked, egress := bits (s.indw 6 (4 * i + 2)) 16 14, next := none, hash := flowHash f.bytes (parse f.bytes (parseLen f.bytes f.ended)) src (s.reg Reg.FWD_HASH_SEED), queue := chooseQ s src (parse f.bytes (parseLen f.bytes f.ended)) false none, policer := none, known := f.bytes.length } ∧ FramesKeep [id] s t ∧ Touches [.net, .tlm] evtFlds s t) ∧
  (∀ (s : State) (src : Fin 417) (id i g : Nat) (slot : Fin 2) (f : Frame), s.pwr.mainUp = true → s.frame? id = some f → f.src = src.val → f.phase = .arrived → slotFree f.pipe f s = true → f.bypass = false → f.tag = none → f.ins = 0 → f.slices = [] → f.trap = none → f.drop = false →
      (parse f.bytes (parseLen f.bytes f.ended)).ptp = none → (parse f.bytes (parseLen f.bytes f.ended)).esmc = false → f.pipe < 24 → f.ended = true → aclFind s (aclKey (parse f.bytes (parseLen f.bytes f.ended)) (if (parse f.bytes (parseLen f.bytes f.ended)).tags = 0 then s.fld (F.FWD_PORT_CFG_PVID src) else (parse f.bytes (parseLen f.bytes f.ended)).vid) src false 0) = none → (parse f.bytes (parseLen f.bytes f.ended)).err = false → l2Find s (if (parse f.bytes (parseLen f.bytes f.ended)).tags = 0 then s.fld (F.FWD_PORT_CFG_PVID src) else (parse f.bytes (parseLen f.bytes f.ended)).vid) (beNat (slice f.bytes 0 6)) = some i →
      bits (s.indw 6 (4 * i + 2)) 0 3 = 2 → (bits (s.indw 6 (4 * i + 2)) 16 14) = g → bits (s.indw 6 (0xD40000 + 4 * (memberOf (s.indw 6) g ((flowHash f.bytes (parse f.bytes (parseLen f.bytes f.ended)) src (s.reg Reg.FWD_HASH_SEED)) / 2 ^ 16 * bits (s.indw 6 (0xD00000 + g)) 0 9 / 2 ^ 16)) + 3)) 16 9 < 384 →
    Answers (.pipelineLookup src id none slot) s fun t =>
      t.frame? id = some { f with phase := .looked, egress := bits (s.indw 6 (0xD40000 + 4 * (memberOf (s.indw 6) g ((flowHash f.bytes (parse f.bytes (parseLen f.bytes f.ended)) src (s.reg Reg.FWD_HASH_SEED)) / 2 ^ 16 * bits (s.indw 6 (0xD00000 + g)) 0 9 / 2 ^ 16)) + 3)) 16 9, next := hopRewrite s (memberOf (s.indw 6) g ((flowHash f.bytes (parse f.bytes (parseLen f.bytes f.ended)) src (s.reg Reg.FWD_HASH_SEED)) / 2 ^ 16 * bits (s.indw 6 (0xD00000 + g)) 0 9 / 2 ^ 16)), hash := flowHash f.bytes (parse f.bytes (parseLen f.bytes f.ended)) src (s.reg Reg.FWD_HASH_SEED), queue := chooseQ s src (parse f.bytes (parseLen f.bytes f.ended)) false none, policer := none, known := f.bytes.length } ∧
      FramesKeep [id] s t ∧ Touches [.net, .tlm] evtFlds s t) ∧
  (∀ (s : State) (src : Fin 417) (id i r g : Nat) (slot : Fin 2) (f : Frame), s.pwr.mainUp = true → s.frame? id = some f → f.src = src.val → f.phase = .arrived → slotFree f.pipe f s = true → f.bypass = false → f.tag = none → f.ins = 0 → f.slices = [] → f.trap = none → f.drop = false →
      (parse f.bytes (parseLen f.bytes f.ended)).ptp = none → (parse f.bytes (parseLen f.bytes f.ended)).esmc = false → f.pipe < 24 → f.ended = true → aclFind s (aclKey (parse f.bytes (parseLen f.bytes f.ended)) (if (parse f.bytes (parseLen f.bytes f.ended)).tags = 0 then s.fld (F.FWD_PORT_CFG_PVID src) else (parse f.bytes (parseLen f.bytes f.ended)).vid) src true 0) = none → (parse f.bytes (parseLen f.bytes f.ended)).err = false → l2Find s (if (parse f.bytes (parseLen f.bytes f.ended)).tags = 0 then s.fld (F.FWD_PORT_CFG_PVID src) else (parse f.bytes (parseLen f.bytes f.ended)).vid) (beNat (slice f.bytes 0 6)) = some i →
      bits (s.indw 6 (4 * i + 2)) 0 3 = 3 → (if (parse f.bytes (parseLen f.bytes f.ended)).ver = 4 then lpmFind s 0x200000 0x600000 2 32 (s.fld (F.FWD_PORT_CFG_VRF src)) (beNat (parse f.bytes (parseLen f.bytes f.ended)).ipDst) else if (parse f.bytes (parseLen f.bytes f.ended)).ver = 6 then lpmFind s 0x600000 0xB00000 5 128 (s.fld (F.FWD_PORT_CFG_VRF src)) (beNat (parse f.bytes (parseLen f.bytes f.ended)).ipDst) else none) = some r → bits (s.indw 6 r) 8 2 = 0 → 1 < (parse f.bytes (parseLen f.bytes f.ended)).ttl → bits (s.indw 6 r) 10 14 = g →
      bits (s.indw 6 (0xD40000 + 4 * (memberOf (s.indw 6) g ((flowHash f.bytes (parse f.bytes (parseLen f.bytes f.ended)) src (s.reg Reg.FWD_HASH_SEED)) / 2 ^ 16 * bits (s.indw 6 (0xD00000 + g)) 0 9 / 2 ^ 16)) + 3)) 16 9 < 384 →
    Answers (.pipelineLookup src id none slot) s fun t =>
      t.frame? id = some { f with phase := .looked, egress := bits (s.indw 6 (0xD40000 + 4 * (memberOf (s.indw 6) g ((flowHash f.bytes (parse f.bytes (parseLen f.bytes f.ended)) src (s.reg Reg.FWD_HASH_SEED)) / 2 ^ 16 * bits (s.indw 6 (0xD00000 + g)) 0 9 / 2 ^ 16)) + 3)) 16 9, next := hopRewrite s (memberOf (s.indw 6) g ((flowHash f.bytes (parse f.bytes (parseLen f.bytes f.ended)) src (s.reg Reg.FWD_HASH_SEED)) / 2 ^ 16 * bits (s.indw 6 (0xD00000 + g)) 0 9 / 2 ^ 16)), hash := flowHash f.bytes (parse f.bytes (parseLen f.bytes f.ended)) src (s.reg Reg.FWD_HASH_SEED), queue := chooseQ s src (parse f.bytes (parseLen f.bytes f.ended)) false none, policer := none, known := f.bytes.length } ∧
      FramesKeep [id] s t ∧ Touches [.net, .tlm] evtFlds s t) ∧
  (∀ (s : State) (src : Fin 417) (id i : Nat) (slot : Fin 2) (f : Frame), s.pwr.mainUp = true → s.frame? id = some f → f.src = src.val → f.phase = .arrived → slotFree f.pipe f s = true → f.bypass = false → f.tag = none → f.ins = 0 → f.slices = [] → f.trap = none → f.drop = false →
      (parse f.bytes (parseLen f.bytes f.ended)).ptp = none → (parse f.bytes (parseLen f.bytes f.ended)).esmc = false → f.pipe < 24 → f.ended = true → aclFind s (aclKey (parse f.bytes (parseLen f.bytes f.ended)) (if (parse f.bytes (parseLen f.bytes f.ended)).tags = 0 then s.fld (F.FWD_PORT_CFG_PVID src) else (parse f.bytes (parseLen f.bytes f.ended)).vid) src false 0) = none → (parse f.bytes (parseLen f.bytes f.ended)).err = false → l2Find s (if (parse f.bytes (parseLen f.bytes f.ended)).tags = 0 then s.fld (F.FWD_PORT_CFG_PVID src) else (parse f.bytes (parseLen f.bytes f.ended)).vid) (beNat (slice f.bytes 0 6)) = some i →
      bits (s.indw 6 (4 * i + 2)) 0 3 = 3 → (if (parse f.bytes (parseLen f.bytes f.ended)).ver = 4 then lpmFind s 0x200000 0x600000 2 32 (s.fld (F.FWD_PORT_CFG_VRF src)) (beNat (parse f.bytes (parseLen f.bytes f.ended)).ipDst) else if (parse f.bytes (parseLen f.bytes f.ended)).ver = 6 then lpmFind s 0x600000 0xB00000 5 128 (s.fld (F.FWD_PORT_CFG_VRF src)) (beNat (parse f.bytes (parseLen f.bytes f.ended)).ipDst) else none) = none →
    Answers (.pipelineLookup src id none slot) s fun t => t.reg64 (Reg.FWD_LPM_MISS_LO f.pipe) (Reg.FWD_LPM_MISS_HI f.pipe) = (s.reg64 (Reg.FWD_LPM_MISS_LO f.pipe) (Reg.FWD_LPM_MISS_HI f.pipe) + 1) % 2 ^ 64 ∧ t.frame? id = none ∧ FramesKeep [id] s t ∧ Touches [.net, .tlm] (pair (Reg.FWD_LPM_MISS_LO f.pipe) ++ evtFlds ++ [F.FWD_PIPE_INT_STATUS_CNT_OVF f.pipe]) s t) ∧
  (∀ (s : State) (src : Fin 417) (id i r : Nat) (slot : Fin 2) (f : Frame), s.pwr.mainUp = true → s.frame? id = some f → f.src = src.val → f.phase = .arrived → slotFree f.pipe f s = true → f.bypass = false → f.tag = none → f.ins = 0 → f.slices = [] → f.trap = none → f.drop = false →
      (parse f.bytes (parseLen f.bytes f.ended)).ptp = none → (parse f.bytes (parseLen f.bytes f.ended)).esmc = false → f.pipe < 24 → f.ended = true → aclFind s (aclKey (parse f.bytes (parseLen f.bytes f.ended)) (if (parse f.bytes (parseLen f.bytes f.ended)).tags = 0 then s.fld (F.FWD_PORT_CFG_PVID src) else (parse f.bytes (parseLen f.bytes f.ended)).vid) src true 0) = none → (parse f.bytes (parseLen f.bytes f.ended)).err = false → l2Find s (if (parse f.bytes (parseLen f.bytes f.ended)).tags = 0 then s.fld (F.FWD_PORT_CFG_PVID src) else (parse f.bytes (parseLen f.bytes f.ended)).vid) (beNat (slice f.bytes 0 6)) = some i →
      bits (s.indw 6 (4 * i + 2)) 0 3 = 3 → (if (parse f.bytes (parseLen f.bytes f.ended)).ver = 4 then lpmFind s 0x200000 0x600000 2 32 (s.fld (F.FWD_PORT_CFG_VRF src)) (beNat (parse f.bytes (parseLen f.bytes f.ended)).ipDst) else if (parse f.bytes (parseLen f.bytes f.ended)).ver = 6 then lpmFind s 0x600000 0xB00000 5 128 (s.fld (F.FWD_PORT_CFG_VRF src)) (beNat (parse f.bytes (parseLen f.bytes f.ended)).ipDst) else none) = some r → bits (s.indw 6 r) 8 2 = 0 → (parse f.bytes (parseLen f.bytes f.ended)).ttl ≤ 1 → s.flag F.FWD_CTRL_TTL_TRAP = false →
    Answers (.pipelineLookup src id none slot) s fun t => t.reg64 (Reg.FWD_TTL_EXP_LO f.pipe) (Reg.FWD_TTL_EXP_HI f.pipe) = (s.reg64 (Reg.FWD_TTL_EXP_LO f.pipe) (Reg.FWD_TTL_EXP_HI f.pipe) + 1) % 2 ^ 64 ∧ t.frame? id = none ∧ FramesKeep [id] s t ∧ Touches [.net, .tlm] (pair (Reg.FWD_TTL_EXP_LO f.pipe) ++ evtFlds ++ [F.FWD_PIPE_INT_STATUS_CNT_OVF f.pipe]) s t) ∧
  (∀ (s : State) (src : Fin 417) (id i a : Nat) (slot : Fin 2) (f : Frame), s.pwr.mainUp = true → s.frame? id = some f → f.src = src.val → f.phase = .arrived → slotFree f.pipe f s = true → f.bypass = false → f.tag = none → f.ins = 0 → f.slices = [] → f.trap = none → f.drop = false →
      (parse f.bytes (parseLen f.bytes f.ended)).ptp = none → (parse f.bytes (parseLen f.bytes f.ended)).esmc = false → f.pipe < 24 → f.ended = true → aclFind s (aclKey (parse f.bytes (parseLen f.bytes f.ended)) (if (parse f.bytes (parseLen f.bytes f.ended)).tags = 0 then s.fld (F.FWD_PORT_CFG_PVID src) else (parse f.bytes (parseLen f.bytes f.ended)).vid) src false 0) = some a →
      bits (s.indw 6 (0xE00000 + 32 * a + 24)) 0 2 = 1 → (parse f.bytes (parseLen f.bytes f.ended)).err = false → l2Find s (if (parse f.bytes (parseLen f.bytes f.ended)).tags = 0 then s.fld (F.FWD_PORT_CFG_PVID src) else (parse f.bytes (parseLen f.bytes f.ended)).vid) (beNat (slice f.bytes 0 6)) = some i → bits (s.indw 6 (4 * i + 2)) 0 3 = 1 → bits (s.indw 6 (4 * i + 2)) 16 14 ≠ src.val →
    Answers (.pipelineLookup src id none slot) s fun t => t.reg64 (Reg.FWD_ACL_DROP_LO f.pipe) (Reg.FWD_ACL_DROP_HI f.pipe) = (s.reg64 (Reg.FWD_ACL_DROP_LO f.pipe) (Reg.FWD_ACL_DROP_HI f.pipe) + 1) % 2 ^ 64 ∧ t.frame? id = none ∧ FramesKeep [id] s t ∧ Touches [.net, .tlm] (pair (Reg.FWD_ACL_DROP_LO f.pipe) ++ evtFlds ++ [F.FWD_PIPE_INT_STATUS_CNT_OVF f.pipe]) s t) ∧
  (∀ (s : State) (src : Fin 417) (id i : Nat) (slot : Fin 2) (f : Frame), s.pwr.mainUp = true → s.frame? id = some f → f.src = src.val → f.phase = .arrived → slotFree f.pipe f s = true → f.bypass = false → f.tag = none → f.ins = 0 → f.slices = [] → f.trap = none → f.drop = false →
      (parse f.bytes (parseLen f.bytes f.ended)).ptp = none → (parse f.bytes (parseLen f.bytes f.ended)).esmc = false → f.pipe < 24 → f.ended = true → aclFind s (aclKey (parse f.bytes (parseLen f.bytes f.ended)) (if (parse f.bytes (parseLen f.bytes f.ended)).tags = 0 then s.fld (F.FWD_PORT_CFG_PVID src) else (parse f.bytes (parseLen f.bytes f.ended)).vid) src false 0) = none → (parse f.bytes (parseLen f.bytes f.ended)).err = false → l2Find s (if (parse f.bytes (parseLen f.bytes f.ended)).tags = 0 then s.fld (F.FWD_PORT_CFG_PVID src) else (parse f.bytes (parseLen f.bytes f.ended)).vid) (beNat (slice f.bytes 0 6)) = some i →
      4 ≤ bits (s.indw 6 (4 * i + 2)) 0 3 ∨ bits (s.indw 6 (4 * i + 2)) 0 3 = 0 →
    Answers (.pipelineLookup src id none slot) s fun t =>
      (bits (s.indw 6 (4 * i + 2)) 0 3 ≠ 4 → t.frame? id = none ∧ FramesKeep [id] s t ∧ Touches [.net, .tlm] evtFlds s t) ∧ (bits (s.indw 6 (4 * i + 2)) 0 3 = 4 → t.frame? id = some { f with phase := .looked, egress := 511, trap := some 4, next := none, hash := flowHash f.bytes (parse f.bytes (parseLen f.bytes f.ended)) src (s.reg Reg.FWD_HASH_SEED), queue := chooseQ s src (parse f.bytes (parseLen f.bytes f.ended)) false none, policer := none, known := f.bytes.length } ∧ t.reg64 (Reg.FWD_TRAP_LO f.pipe) (Reg.FWD_TRAP_HI f.pipe) = (s.reg64 (Reg.FWD_TRAP_LO f.pipe) (Reg.FWD_TRAP_HI f.pipe) + 1) % 2 ^ 64 ∧ FramesKeep [id] s t ∧ Touches [.net, .tlm] (pair (Reg.FWD_TRAP_LO f.pipe) ++ evtFlds ++ [F.FWD_PIPE_INT_STATUS_CNT_OVF f.pipe]) s t)) ∧
  (∀ (s : State) (src : Fin 417) (id i r : Nat) (slot : Fin 2) (f : Frame), s.pwr.mainUp = true → s.frame? id = some f → f.src = src.val → f.phase = .arrived → slotFree f.pipe f s = true → f.bypass = false → f.tag = none → f.ins = 0 → f.slices = [] → f.trap = none → f.drop = false →
      (parse f.bytes (parseLen f.bytes f.ended)).ptp = none → (parse f.bytes (parseLen f.bytes f.ended)).esmc = false → f.pipe < 24 → f.ended = true → aclFind s (aclKey (parse f.bytes (parseLen f.bytes f.ended)) (if (parse f.bytes (parseLen f.bytes f.ended)).tags = 0 then s.fld (F.FWD_PORT_CFG_PVID src) else (parse f.bytes (parseLen f.bytes f.ended)).vid) src true 0) = none → (parse f.bytes (parseLen f.bytes f.ended)).err = false → l2Find s (if (parse f.bytes (parseLen f.bytes f.ended)).tags = 0 then s.fld (F.FWD_PORT_CFG_PVID src) else (parse f.bytes (parseLen f.bytes f.ended)).vid) (beNat (slice f.bytes 0 6)) = some i →
      bits (s.indw 6 (4 * i + 2)) 0 3 = 3 → (if (parse f.bytes (parseLen f.bytes f.ended)).ver = 4 then lpmFind s 0x200000 0x600000 2 32 (s.fld (F.FWD_PORT_CFG_VRF src)) (beNat (parse f.bytes (parseLen f.bytes f.ended)).ipDst) else if (parse f.bytes (parseLen f.bytes f.ended)).ver = 6 then lpmFind s 0x600000 0xB00000 5 128 (s.fld (F.FWD_PORT_CFG_VRF src)) (beNat (parse f.bytes (parseLen f.bytes f.ended)).ipDst) else none) = some r → bits (s.indw 6 r) 8 2 ≠ 0 →
    Answers (.pipelineLookup src id none slot) s fun t =>
      (bits (s.indw 6 r) 8 2 ≠ 2 → t.frame? id = none ∧ FramesKeep [id] s t ∧ Touches [.net, .tlm] evtFlds s t) ∧ (bits (s.indw 6 r) 8 2 = 2 → t.frame? id = some { f with phase := .looked, egress := 511, trap := some 5, next := none, hash := flowHash f.bytes (parse f.bytes (parseLen f.bytes f.ended)) src (s.reg Reg.FWD_HASH_SEED), queue := chooseQ s src (parse f.bytes (parseLen f.bytes f.ended)) false none, policer := none, known := f.bytes.length } ∧ t.reg64 (Reg.FWD_TRAP_LO f.pipe) (Reg.FWD_TRAP_HI f.pipe) = (s.reg64 (Reg.FWD_TRAP_LO f.pipe) (Reg.FWD_TRAP_HI f.pipe) + 1) % 2 ^ 64 ∧ FramesKeep [id] s t ∧ Touches [.net, .tlm] (pair (Reg.FWD_TRAP_LO f.pipe) ++ evtFlds ++ [F.FWD_PIPE_INT_STATUS_CNT_OVF f.pipe]) s t)) ∧
  (∀ (s : State) (src : Fin 417) (id i r : Nat) (slot : Fin 2) (f : Frame), s.pwr.mainUp = true → s.frame? id = some f → f.src = src.val → f.phase = .arrived → slotFree f.pipe f s = true → f.bypass = false → f.tag = none → f.ins = 0 → f.slices = [] → f.trap = none → f.drop = false →
      (parse f.bytes (parseLen f.bytes f.ended)).ptp = none → (parse f.bytes (parseLen f.bytes f.ended)).esmc = false → f.pipe < 24 → f.ended = true → aclFind s (aclKey (parse f.bytes (parseLen f.bytes f.ended)) (if (parse f.bytes (parseLen f.bytes f.ended)).tags = 0 then s.fld (F.FWD_PORT_CFG_PVID src) else (parse f.bytes (parseLen f.bytes f.ended)).vid) src true 0) = none → (parse f.bytes (parseLen f.bytes f.ended)).err = false → l2Find s (if (parse f.bytes (parseLen f.bytes f.ended)).tags = 0 then s.fld (F.FWD_PORT_CFG_PVID src) else (parse f.bytes (parseLen f.bytes f.ended)).vid) (beNat (slice f.bytes 0 6)) = some i →
      bits (s.indw 6 (4 * i + 2)) 0 3 = 3 → (if (parse f.bytes (parseLen f.bytes f.ended)).ver = 4 then lpmFind s 0x200000 0x600000 2 32 (s.fld (F.FWD_PORT_CFG_VRF src)) (beNat (parse f.bytes (parseLen f.bytes f.ended)).ipDst) else if (parse f.bytes (parseLen f.bytes f.ended)).ver = 6 then lpmFind s 0x600000 0xB00000 5 128 (s.fld (F.FWD_PORT_CFG_VRF src)) (beNat (parse f.bytes (parseLen f.bytes f.ended)).ipDst) else none) = some r → bits (s.indw 6 r) 8 2 = 0 → (parse f.bytes (parseLen f.bytes f.ended)).ttl ≤ 1 → s.flag F.FWD_CTRL_TTL_TRAP = true →
    Answers (.pipelineLookup src id none slot) s fun t =>
      t.frame? id = some { f with phase := .looked, egress := 511, trap := some 6, next := none, hash := flowHash f.bytes (parse f.bytes (parseLen f.bytes f.ended)) src (s.reg Reg.FWD_HASH_SEED), queue := chooseQ s src (parse f.bytes (parseLen f.bytes f.ended)) false none, policer := none, known := f.bytes.length } ∧ t.reg64 (Reg.FWD_TRAP_LO f.pipe) (Reg.FWD_TRAP_HI f.pipe) = (s.reg64 (Reg.FWD_TRAP_LO f.pipe) (Reg.FWD_TRAP_HI f.pipe) + 1) % 2 ^ 64 ∧ t.reg64 (Reg.FWD_TTL_EXP_LO f.pipe) (Reg.FWD_TTL_EXP_HI f.pipe) = (s.reg64 (Reg.FWD_TTL_EXP_LO f.pipe) (Reg.FWD_TTL_EXP_HI f.pipe) + 1) % 2 ^ 64 ∧ FramesKeep [id] s t ∧
      Touches [.net, .tlm] (pair (Reg.FWD_TRAP_LO f.pipe) ++ pair (Reg.FWD_TTL_EXP_LO f.pipe) ++ evtFlds ++ [F.FWD_PIPE_INT_STATUS_CNT_OVF f.pipe]) s t) ∧
  (∀ (s : State) (v6 : Bool) (vrf addr w : Nat), s.Canon → (if v6 then lpmFind s 0x600000 0xB00000 5 128 vrf addr else lpmFind s 0x200000 0x600000 2 32 vrf addr) = some w →
      (∃ k < (if v6 then 2 ^ 20 else 2 ^ 21), w = lpmResult v6 k ∧ lpmHits s v6 vrf addr k = true) ∧
      (∀ j < (if v6 then 2 ^ 20 else 2 ^ 21), lpmHits s v6 vrf addr j = true → bits (s.indw 6 (lpmResult v6 j)) 0 8 ≤ bits (s.indw 6 w) 0 8 ∧
        (bits (s.indw 6 (lpmResult v6 j)) 0 8 = bits (s.indw 6 w) 0 8 → w ≤ lpmResult v6 j))) ∧
  (∀ (s : State) (v6 : Bool) (vrf addr : Nat), s.Canon → (if v6 then lpmFind s 0x600000 0xB00000 5 128 vrf addr else lpmFind s 0x200000 0x600000 2 32 vrf addr) = none → ∀ j < (if v6 then 2 ^ 20 else 2 ^ 21), lpmHits s v6 vrf addr j = false) ∧
  (∀ (s : State) (key : Nat), s.Canon → aclFind s key = (List.range 65536).find? (aclHits s key)) ∧
  (∀ (s : State) (src : Fin 417) (id i a : Nat) (slot : Fin 2) (f : Frame), s.pwr.mainUp = true → s.frame? id = some f → f.src = src.val → f.phase = .arrived → slotFree f.pipe f s = true → f.bypass = false → f.tag = none → f.ins = 0 → f.slices = [] → f.trap = none → f.drop = false →
      (parse f.bytes (parseLen f.bytes f.ended)).ptp = none → (parse f.bytes (parseLen f.bytes f.ended)).esmc = false → f.pipe < 24 → f.ended = true → aclFind s (aclKey (parse f.bytes (parseLen f.bytes f.ended)) (if (parse f.bytes (parseLen f.bytes f.ended)).tags = 0 then s.fld (F.FWD_PORT_CFG_PVID src) else (parse f.bytes (parseLen f.bytes f.ended)).vid) src false 0) = some a →
      (parse f.bytes (parseLen f.bytes f.ended)).err = false → l2Find s (if (parse f.bytes (parseLen f.bytes f.ended)).tags = 0 then s.fld (F.FWD_PORT_CFG_PVID src) else (parse f.bytes (parseLen f.bytes f.ended)).vid) (beNat (slice f.bytes 0 6)) = some i → bits (s.indw 6 (4 * i + 2)) 0 3 = 1 → bits (s.indw 6 (4 * i + 2)) 16 14 < 384 → bits (s.indw 6 (4 * i + 2)) 16 14 ≠ src.val → bits (s.indw 6 (0xE00000 + 32 * a + 24)) 0 2 ≠ 1 →
    Answers (.pipelineLookup src id none slot) s fun t =>
      t.frame? id = some { f with phase := .looked, egress := if bits (s.indw 6 (0xE00000 + 32 * a + 24)) 0 2 = 2 then 511 else if bits (s.indw 6 (0xE00000 + 32 * a + 24)) 20 1 = 1 then bits (s.indw 6 (0xD40000 + 4 * (memberOf (s.indw 6) (bits (s.indw 6 (0xE00000 + 32 * a + 25)) 0 14) ((flowHash f.bytes (parse f.bytes (parseLen f.bytes f.ended)) src (s.reg Reg.FWD_HASH_SEED)) / 2 ^ 16 * bits (s.indw 6 (0xD00000 + (bits (s.indw 6 (0xE00000 + 32 * a + 25)) 0 14))) 0 9 / 2 ^ 16)) + 3)) 16 9 else bits (s.indw 6 (4 * i + 2)) 16 14, trap := if bits (s.indw 6 (0xE00000 + 32 * a + 24)) 0 2 = 2 then some 7 else if bits (s.indw 6 (0xE00000 + 32 * a + 24)) 0 2 = 3 then some 8 else none, next := if bits (s.indw 6 (0xE00000 + 32 * a + 24)) 20 1 = 1 ∧ bits (s.indw 6 (0xE00000 + 32 * a + 24)) 0 2 ≠ 2 then hopRewrite s (memberOf (s.indw 6) (bits (s.indw 6 (0xE00000 + 32 * a + 25)) 0 14) ((flowHash f.bytes (parse f.bytes (parseLen f.bytes f.ended)) src (s.reg Reg.FWD_HASH_SEED)) / 2 ^ 16 * bits (s.indw 6 (0xD00000 + (bits (s.indw 6 (0xE00000 + 32 * a + 25)) 0 14))) 0 9 / 2 ^ 16)) else none, hash := flowHash f.bytes (parse f.bytes (parseLen f.bytes f.ended)) src (s.reg Reg.FWD_HASH_SEED), queue := chooseQ s src (parse f.bytes (parseLen f.bytes f.ended)) false (if bits (s.indw 6 (0xE00000 + 32 * a + 24)) 2 1 = 1 then some (bits (s.indw 6 (0xE00000 + 32 * a + 24)) 3 4) else none), policer := if bits (s.indw 6 (0xE00000 + 32 * a + 24)) 7 1 = 1 then some (bits (s.indw 6 (0xE00000 + 32 * a + 24)) 8 12) else none, known := f.bytes.length } ∧
      t.reg64 (Reg.FWD_TRAP_LO f.pipe) (Reg.FWD_TRAP_HI f.pipe) = (s.reg64 (Reg.FWD_TRAP_LO f.pipe) (Reg.FWD_TRAP_HI f.pipe) + (if 2 ≤ bits (s.indw 6 (0xE00000 + 32 * a + 24)) 0 2 then 1 else 0)) % 2 ^ 64 ∧ FramesKeep [id] s t ∧ Touches [.net, .tlm] (pair (Reg.FWD_TRAP_LO f.pipe) ++ evtFlds ++ [F.FWD_PIPE_INT_STATUS_CNT_OVF f.pipe]) s t) ∧
  (∀ (s : State) (src : Fin 417) (id a : Nat) (slot : Fin 2) (f : Frame), s.pwr.mainUp = true → s.frame? id = some f → f.src = src.val → f.phase = .arrived → slotFree f.pipe f s = true → f.bypass = false → f.tag = none → f.ins = 0 → f.slices = [] → f.trap = none → f.drop = false →
      (parse f.bytes (parseLen f.bytes f.ended)).ptp = none → (parse f.bytes (parseLen f.bytes f.ended)).esmc = false → f.pipe < 24 → f.ended = true → aclFind s (aclKey (parse f.bytes (parseLen f.bytes f.ended)) (if (parse f.bytes (parseLen f.bytes f.ended)).tags = 0 then s.fld (F.FWD_PORT_CFG_PVID src) else (parse f.bytes (parseLen f.bytes f.ended)).vid) src false 0) = some a →
      (parse f.bytes (parseLen f.bytes f.ended)).err = false → l2Find s (if (parse f.bytes (parseLen f.bytes f.ended)).tags = 0 then s.fld (F.FWD_PORT_CFG_PVID src) else (parse f.bytes (parseLen f.bytes f.ended)).vid) (beNat (slice f.bytes 0 6)) = none → s.flag (F.FWD_PORT_CFG_L2_MISS src) = false → 2 ≤ bits (s.indw 6 (0xE00000 + 32 * a + 24)) 0 2 →
    Answers (.pipelineLookup src id none slot) s fun t =>
      t.frame? id = some { f with phase := .looked, egress := 511, trap := some (if bits (s.indw 6 (0xE00000 + 32 * a + 24)) 0 2 = 2 then 7 else 8), next := none, hash := flowHash f.bytes (parse f.bytes (parseLen f.bytes f.ended)) src (s.reg Reg.FWD_HASH_SEED), queue := chooseQ s src (parse f.bytes (parseLen f.bytes f.ended)) false (if bits (s.indw 6 (0xE00000 + 32 * a + 24)) 2 1 = 1 then some (bits (s.indw 6 (0xE00000 + 32 * a + 24)) 3 4) else none), policer := if bits (s.indw 6 (0xE00000 + 32 * a + 24)) 7 1 = 1 then some (bits (s.indw 6 (0xE00000 + 32 * a + 24)) 8 12) else none, known := f.bytes.length } ∧
      t.reg64 (Reg.FWD_TRAP_LO f.pipe) (Reg.FWD_TRAP_HI f.pipe) = (s.reg64 (Reg.FWD_TRAP_LO f.pipe) (Reg.FWD_TRAP_HI f.pipe) + 1) % 2 ^ 64 ∧ t.reg64 (Reg.FWD_L2_MISS_LO f.pipe) (Reg.FWD_L2_MISS_HI f.pipe) = (s.reg64 (Reg.FWD_L2_MISS_LO f.pipe) (Reg.FWD_L2_MISS_HI f.pipe) + 1) % 2 ^ 64 ∧ FramesKeep [id] s t ∧
      Touches [.net, .tlm] (pair (Reg.FWD_TRAP_LO f.pipe) ++ pair (Reg.FWD_L2_MISS_LO f.pipe) ++ evtFlds ++ [F.FWD_PIPE_INT_STATUS_CNT_OVF f.pipe]) s t) ∧
  (∀ (s : State) (bs : List Byte) (o enc tclass j : Nat),
      clsMatches s bs o enc tclass j = true ↔
        (bits (s.indw 6 (0xD80000 + 8 * j + 0)) 31 1 = 1 ∧ bits (s.indw 6 (0xD80000 + 8 * j + 0)) enc 1 = 1 ∧ bits (s.indw 6 (0xD80000 + 8 * j + 0)) (4 + byteAt bs o % 16) 1 = 1 ∧ (bits (s.indw 6 (0xD80000 + 8 * j + 0)) 28 1 = 1 → bits (s.indw 6 (0xD80000 + 8 * j + 0)) 20 8 = byteAt bs (o + 4)) ∧
          (bits (s.indw 6 (0xD80000 + 8 * j + 0)) 29 2 = 0 ∨ (bits (s.indw 6 (0xD80000 + 8 * j + 0)) 29 2 ≠ 3 ∧ byteAt bs (o + 6) / 2 % 2 + 1 = bits (s.indw 6 (0xD80000 + 8 * j + 0)) 29 2)) ∧
          (bits (s.indw 6 (0xD80000 + 8 * j + 1)) 8 2 = 1 → slice bs 0 6 = [0x01, 0x1B, 0x19, 0, 0, 0]) ∧
          (bits (s.indw 6 (0xD80000 + 8 * j + 1)) 8 2 = 2 → slice bs 0 6 = [0x01, 0x80, 0xC2, 0, 0, 0x0E]) ∧
          (bits (s.indw 6 (0xD80000 + 8 * j + 1)) 8 2 = 3 → byteAt bs 0 % 2 = 0) ∧ bits (s.indw 6 (0xD80000 + 8 * j + 1)) tclass 1 = 1)) ∧
  (∀ (s : State) (src : Fin 417) (id i o enc j : Nat) (acl : Option Nat) (slot : Fin 2) (f : Frame), s.pwr.mainUp = true → s.frame? id = some f → f.src = src.val → f.phase = .arrived → slotFree f.pipe f s = true → f.bypass = false → f.tag = none → f.ins = 0 → f.slices = [] → f.trap = none → f.drop = false →
      (parse f.bytes (parseLen f.bytes f.ended)).ptp = some (o, enc) → (parse f.bytes (parseLen f.bytes f.ended)).esmc = false → f.inj = 0 → src.val < 416 → f.pipe < 24 → f.ended = true → j < 32 → clsMatches s f.bytes o enc (s.fld (F.FWD_PORT_CFG_TCLASS src)) j = true → (∀ k < j, clsMatches s f.bytes o enc (s.fld (F.FWD_PORT_CFG_TCLASS src)) k = false) → aclFind s (aclKey (parse f.bytes (parseLen f.bytes f.ended)) (if (parse f.bytes (parseLen f.bytes f.ended)).tags = 0 then s.fld (F.FWD_PORT_CFG_PVID src) else (parse f.bytes (parseLen f.bytes f.ended)).vid) src false (byteAt f.bytes o % 16 + 1)) = acl →
      acl.all (fun a => bit (s.indw 6 (0xD80000 + 8 * j + 4)) 2 && decide (bits (s.indw 6 (0xE00000 + 32 * a + 24)) 0 2 = 0)) = true → (parse f.bytes (parseLen f.bytes f.ended)).err = false → l2Find s (if (parse f.bytes (parseLen f.bytes f.ended)).tags = 0 then s.fld (F.FWD_PORT_CFG_PVID src) else (parse f.bytes (parseLen f.bytes f.ended)).vid) (beNat (slice f.bytes 0 6)) = some i → bits (s.indw 6 (4 * i + 2)) 0 3 = 1 → bits (s.indw 6 (4 * i + 2)) 16 14 < 384 → bits (s.indw 6 (4 * i + 2)) 16 14 ≠ src.val → bits (s.indw 6 (0xD80000 + 8 * j + 4)) 0 2 % 2 = 0 →
    Answers (.pipelineLookup src id none slot) s fun t =>
      t.frame? id = some { f with phase := .looked, egress := bits (s.indw 6 (4 * i + 2)) 16 14, trap := if bits (s.indw 6 (0xD80000 + 8 * j + 4)) 0 2 = 2 then some 2 else none, next := none, ins := if byteAt f.bytes o % 16 ≤ 3 ∧ ¬(bits (s.indw 6 (0xD80000 + 8 * j + 4)) 3 3 = 3 ∧ s.flag (F.TBASE_PORT_TS_CTRL_RX_EN src) = false) then bits (s.indw 6 (0xD80000 + 8 * j + 4)) 3 3 else 0, record := bit (s.indw 6 (0xD80000 + 8 * j + 4)) 6, txTag := half f.bytes (o + 30), p2p := bit (s.indw 6 (0xD80000 + 8 * j + 4)) 7 && decide (byteAt f.bytes o % 16 = 0), hash := flowHash f.bytes (parse f.bytes (parseLen f.bytes f.ended)) src (s.reg Reg.FWD_HASH_SEED), queue := chooseQ s src (parse f.bytes (parseLen f.bytes f.ended)) (bit (s.indw 6 (0xD80000 + 8 * j + 4)) 2) none, policer := none, known := f.bytes.length } ∧
      t.reg64 (Reg.FWD_TRAP_LO f.pipe) (Reg.FWD_TRAP_HI f.pipe) = (s.reg64 (Reg.FWD_TRAP_LO f.pipe) (Reg.FWD_TRAP_HI f.pipe) + (if bits (s.indw 6 (0xD80000 + 8 * j + 4)) 0 2 = 2 then 1 else 0)) % 2 ^ 64 ∧
      t.reg64 (Reg.FWD_TC_NO_RXTS_LO f.pipe) (Reg.FWD_TC_NO_RXTS_HI f.pipe) = (s.reg64 (Reg.FWD_TC_NO_RXTS_LO f.pipe) (Reg.FWD_TC_NO_RXTS_HI f.pipe) + (if byteAt f.bytes o % 16 ≤ 3 ∧ bits (s.indw 6 (0xD80000 + 8 * j + 4)) 3 3 = 3 ∧ s.flag (F.TBASE_PORT_TS_CTRL_RX_EN src) = false then 1 else 0)) % 2 ^ 64 ∧ FramesKeep [id] s t ∧
      Touches [.net, .tlm] (pair (Reg.FWD_TRAP_LO f.pipe) ++ pair (Reg.FWD_TC_NO_RXTS_LO f.pipe) ++ evtFlds ++ [F.FWD_PIPE_INT_STATUS_CNT_OVF f.pipe]) s t) ∧
  (∀ (s : State) (src : Fin 417) (id o enc j : Nat) (slot : Fin 2) (f : Frame), s.pwr.mainUp = true → s.frame? id = some f → f.src = src.val → f.phase = .arrived → slotFree f.pipe f s = true → f.bypass = false → f.tag = none → f.ins = 0 → f.slices = [] → f.trap = none → f.drop = false →
      (parse f.bytes (parseLen f.bytes f.ended)).ptp = some (o, enc) → (parse f.bytes (parseLen f.bytes f.ended)).esmc = false → f.inj = 0 → src.val < 416 → f.pipe < 24 → f.ended = true → j < 32 → clsMatches s f.bytes o enc (s.fld (F.FWD_PORT_CFG_TCLASS src)) j = true → (∀ k < j, clsMatches s f.bytes o enc (s.fld (F.FWD_PORT_CFG_TCLASS src)) k = false) → aclFind s (aclKey (parse f.bytes (parseLen f.bytes f.ended)) (if (parse f.bytes (parseLen f.bytes f.ended)).tags = 0 then s.fld (F.FWD_PORT_CFG_PVID src) else (parse f.bytes (parseLen f.bytes f.ended)).vid) src false (byteAt f.bytes o % 16 + 1)) = none → bits (s.indw 6 (0xD80000 + 8 * j + 4)) 0 2 % 2 = 1 →
    Answers (.pipelineLookup src id none slot) s fun t =>
      (bits (s.indw 6 (0xD80000 + 8 * j + 4)) 0 2 = 3 → t.frame? id = none ∧ FramesKeep [id] s t ∧ Touches [.net, .tlm] evtFlds s t) ∧
      (bits (s.indw 6 (0xD80000 + 8 * j + 4)) 0 2 = 1 →
        t.frame? id = some { f with phase := .looked, egress := 511, trap := some 1, next := none, ins := if byteAt f.bytes o % 16 ≤ 3 then bits (s.indw 6 (0xD80000 + 8 * j + 4)) 3 3 else 0, record := bit (s.indw 6 (0xD80000 + 8 * j + 4)) 6, txTag := half f.bytes (o + 30), p2p := bit (s.indw 6 (0xD80000 + 8 * j + 4)) 7 && decide (byteAt f.bytes o % 16 = 0), hash := flowHash f.bytes (parse f.bytes (parseLen f.bytes f.ended)) src (s.reg Reg.FWD_HASH_SEED), queue := chooseQ s src (parse f.bytes (parseLen f.bytes f.ended)) (bit (s.indw 6 (0xD80000 + 8 * j + 4)) 2) none, policer := none, known := f.bytes.length } ∧
        t.reg64 (Reg.FWD_TRAP_LO f.pipe) (Reg.FWD_TRAP_HI f.pipe) = (s.reg64 (Reg.FWD_TRAP_LO f.pipe) (Reg.FWD_TRAP_HI f.pipe) + 1) % 2 ^ 64 ∧ FramesKeep [id] s t ∧ Touches [.net, .tlm] (pair (Reg.FWD_TRAP_LO f.pipe) ++ evtFlds ++ [F.FWD_PIPE_INT_STATUS_CNT_OVF f.pipe]) s t)) ∧
  (∀ (s : State) (src : Fin 417) (id i o enc j a : Nat) (slot : Fin 2) (f : Frame), s.pwr.mainUp = true → s.frame? id = some f → f.src = src.val → f.phase = .arrived → slotFree f.pipe f s = true → f.bypass = false → f.tag = none → f.ins = 0 → f.slices = [] → f.trap = none → f.drop = false →
      (parse f.bytes (parseLen f.bytes f.ended)).ptp = some (o, enc) → (parse f.bytes (parseLen f.bytes f.ended)).esmc = false → f.inj = 0 → src.val < 416 → f.pipe < 24 → f.ended = true → j < 32 → clsMatches s f.bytes o enc (s.fld (F.FWD_PORT_CFG_TCLASS src)) j = true → (∀ k < j, clsMatches s f.bytes o enc (s.fld (F.FWD_PORT_CFG_TCLASS src)) k = false) → aclFind s (aclKey (parse f.bytes (parseLen f.bytes f.ended)) (if (parse f.bytes (parseLen f.bytes f.ended)).tags = 0 then s.fld (F.FWD_PORT_CFG_PVID src) else (parse f.bytes (parseLen f.bytes f.ended)).vid) src false (byteAt f.bytes o % 16 + 1)) = some a → bit (s.indw 6 (0xD80000 + 8 * j + 4)) 2 = true →
      bits (s.indw 6 (0xE00000 + 32 * a + 24)) 0 2 = 1 → (parse f.bytes (parseLen f.bytes f.ended)).err = false → l2Find s (if (parse f.bytes (parseLen f.bytes f.ended)).tags = 0 then s.fld (F.FWD_PORT_CFG_PVID src) else (parse f.bytes (parseLen f.bytes f.ended)).vid) (beNat (slice f.bytes 0 6)) = some i → bits (s.indw 6 (4 * i + 2)) 0 3 = 1 → bits (s.indw 6 (4 * i + 2)) 16 14 < 384 → bits (s.indw 6 (4 * i + 2)) 16 14 ≠ src.val →
    Answers (.pipelineLookup src id none slot) s fun t => t.reg64 (Reg.FWD_ACL_DROP_LO f.pipe) (Reg.FWD_ACL_DROP_HI f.pipe) = (s.reg64 (Reg.FWD_ACL_DROP_LO f.pipe) (Reg.FWD_ACL_DROP_HI f.pipe) + 1) % 2 ^ 64 ∧ t.frame? id = none ∧ FramesKeep [id] s t ∧ Touches [.net, .tlm] (pair (Reg.FWD_ACL_DROP_LO f.pipe) ++ evtFlds ++ [F.FWD_PIPE_INT_STATUS_CNT_OVF f.pipe]) s t) ∧
  (∀ (s : State) (src : Fin 417) (id i o enc : Nat) (slot : Fin 2) (f : Frame), s.pwr.mainUp = true → s.frame? id = some f → f.src = src.val → f.phase = .arrived → slotFree f.pipe f s = true → f.bypass = false → f.tag = none → f.ins = 0 → f.slices = [] → f.trap = none → f.drop = false →
      (parse f.bytes (parseLen f.bytes f.ended)).ptp = some (o, enc) → (parse f.bytes (parseLen f.bytes f.ended)).esmc = false → f.inj = 0 → src.val < 416 → f.pipe < 24 → f.ended = true →
      (∀ k ∈ List.range 32, clsMatches s f.bytes o enc (s.fld (F.FWD_PORT_CFG_TCLASS src)) k = false) → aclFind s (aclKey (parse f.bytes (parseLen f.bytes f.ended)) (if (parse f.bytes (parseLen f.bytes f.ended)).tags = 0 then s.fld (F.FWD_PORT_CFG_PVID src) else (parse f.bytes (parseLen f.bytes f.ended)).vid) src false (byteAt f.bytes o % 16 + 1)) = none → (parse f.bytes (parseLen f.bytes f.ended)).err = false → l2Find s (if (parse f.bytes (parseLen f.bytes f.ended)).tags = 0 then s.fld (F.FWD_PORT_CFG_PVID src) else (parse f.bytes (parseLen f.bytes f.ended)).vid) (beNat (slice f.bytes 0 6)) = some i → bits (s.indw 6 (4 * i + 2)) 0 3 = 1 → bits (s.indw 6 (4 * i + 2)) 16 14 < 384 → bits (s.indw 6 (4 * i + 2)) 16 14 ≠ src.val →
    Answers (.pipelineLookup src id none slot) s fun t =>
      t.frame? id = some { f with phase := .looked, egress := bits (s.indw 6 (4 * i + 2)) 16 14, next := none, hash := flowHash f.bytes (parse f.bytes (parseLen f.bytes f.ended)) src (s.reg Reg.FWD_HASH_SEED), queue := chooseQ s src (parse f.bytes (parseLen f.bytes f.ended)) false none, policer := none, known := f.bytes.length } ∧ FramesKeep [id] s t ∧ Touches [.net, .tlm] evtFlds s t) ∧
  (∀ (s : State) (src : Fin 417) (id : Nat) (slot : Fin 2) (f : Frame), s.pwr.mainUp = true → s.frame? id = some f → f.src = src.val → f.phase = .arrived → slotFree f.pipe f s = true → f.bypass = false → f.tag = none → f.ins = 0 → f.slices = [] → f.trap = none → f.drop = false →
      (parse f.bytes (parseLen f.bytes f.ended)).ptp = none → (parse f.bytes (parseLen f.bytes f.ended)).esmc = true → f.pipe < 24 → f.ended = true → aclFind s (aclKey (parse f.bytes (parseLen f.bytes f.ended)) (if (parse f.bytes (parseLen f.bytes f.ended)).tags = 0 then s.fld (F.FWD_PORT_CFG_PVID src) else (parse f.bytes (parseLen f.bytes f.ended)).vid) src false 0) = none →
      s.flag F.FWD_CTRL_ESMC_TRAP = true →
    Answers (.pipelineLookup src id none slot) s fun t =>
      t.frame? id = some { f with phase := .looked, egress := 511, trap := some 9, next := none, hash := flowHash f.bytes (parse f.bytes (parseLen f.bytes f.ended)) src (s.reg Reg.FWD_HASH_SEED), queue := chooseQ s src (parse f.bytes (parseLen f.bytes f.ended)) false none, policer := none, known := f.bytes.length } ∧ t.reg64 (Reg.FWD_TRAP_LO f.pipe) (Reg.FWD_TRAP_HI f.pipe) = (s.reg64 (Reg.FWD_TRAP_LO f.pipe) (Reg.FWD_TRAP_HI f.pipe) + 1) % 2 ^ 64 ∧ FramesKeep [id] s t ∧ Touches [.net, .tlm] (pair (Reg.FWD_TRAP_LO f.pipe) ++ evtFlds ++ [F.FWD_PIPE_INT_STATUS_CNT_OVF f.pipe]) s t) ∧
  (∀ (s : State) (id : Nat) (slot : Fin 2) (f : Frame), s.pwr.mainUp = true → s.frame? id = some f → f.src = 416 → f.phase = .arrived → f.inj ≠ 0 → f.bypass = true → f.tag = none →
      f.ins ≠ 3 → f.drop = false → slotFree f.pipe f s = true →
    Answers (.pipelineLookup 416 id none slot) s fun t =>
      t.frame? id = some { f with phase := .looked, known := f.bytes.length } ∧ FramesKeep [id] s t ∧ Touches [.net, .tlm] evtFlds s t) ∧
  (∀ (s : State) (src : Fin 417) (id : Nat) (slot : Fin 2) (bs : List Byte) (a : Arrival), s.pwr.mainUp = true → s.frame? id = none → src.val < 416 → portUp s src = true → bs.length = 256 →
      half bs 12 ≠ 0x8808 → headComes s src bs = true → s.flag F.TLM_TAG_CTRL_EN = false →
    Answers (.pipelineLookup src id (some (bs, a)) slot) s fun t =>
      (t.frame? id).map (fun f => (f.src, f.bytes, f.ended, f.slices)) = some (src.val, bs, false, []) ∧ FramesKeep [id] s t ∧ Within [.regs, .net, .tlm] s t) ∧
  (∀ (s : State) (src : Fin 417) (id : Nat) (slot : Fin 2), s.pwr.mainUp = true → s.frame? id = none → Answers (.pipelineLookup src id none slot) s fun t => t = s)

/-- Admission of a whole frame without metering, stream or record (R403, R404, R407 to R411, R415): below its queue's reserve it is admitted with KIND 0; a lossy one while its shared occupancy is below the threshold F * 2^ALPHA / 256 with KIND 1, else dropped; a lossless one by its priority group with KIND 1 below XOFF_TH with pool space left, with KIND 2 below HEADROOM, else
dropped with both counters; with no free slice NOFREE sets; a port that is down drops; a timing port holds 64 slices and the way to Hearth 512. The queue, its occupancy and every other frame change only as said.
A timing port's 64 slices and the 512 of the way to Hearth are those that the other frames on it hold or will hold (log 25). -/
def Obligations.FramesAreAdmitted : Prop :=
  (∀ (s : State) (id : Nat) (f : Frame), s.pwr.mainUp = true → s.frame? id = some f → f.phase = .looked → f.egress < 384 → f.queue < 16 → f.src ≤ 416 → f.tag = none → f.trap = none → f.policer = none → f.ins = 0 → f.slices = [] → f.ended = true →
      (∀ i : Fin 256, s.flag (F.TWIN_SID_CFG_VALID i) = false) → s.flag (F.PORT_LIVE_UP f.egress) = true → s.fld F.BUF_FREE_FREE ≠ 0 → s.fld (F.BUF_Q_OCC_SLICES (16 * f.egress + f.queue)) < s.fld (F.BUF_QPROF_MIN (profOf s f.egress f.queue)) →
    Answers (.admissionDecision id) s fun t => t.frame? id = some { f with phase := .queued, kind := 0, pg := none, ct := decide (f.src < 384) && s.rbit (Reg.BUF_PORT_CFG f.src) f.queue && !s.flag (F.BUF_PORT_CFG_QUARANTINED f.src) && decide (portRate s f.egress ≤ portRate s f.src) && (s.queue (16 * f.egress + f.queue)).isEmpty, admAt := pclk s, pool := (s.fld (F.BUF_QPROF_POOL (profOf s f.egress f.queue))), dscp := none, polChg := none } ∧
      t.queue (16 * f.egress + f.queue) = s.queue (16 * f.egress + f.queue) ++ [id] ∧ FramesKeep [id] s t ∧ Touches [.net, .tlm] evtFlds s t) ∧
  (∀ (s : State) (id : Nat) (f : Frame), s.pwr.mainUp = true → s.frame? id = some f → f.phase = .looked → f.egress < 384 → f.queue < 16 → f.src ≤ 416 → f.tag = none → f.trap = none → f.policer = none → f.ins = 0 → f.slices = [] → f.ended = true →
      (∀ i : Fin 256, s.flag (F.TWIN_SID_CFG_VALID i) = false) → s.flag (F.PORT_LIVE_UP f.egress) = true → s.fld F.BUF_FREE_FREE ≠ 0 → s.fld (F.BUF_QPROF_MIN (profOf s f.egress f.queue)) ≤ s.fld (F.BUF_Q_OCC_SLICES (16 * f.egress + f.queue)) → (s.flag (F.BUF_QPROF_LOSSLESS (profOf s f.egress f.queue)) = false ∨ f.queue = 15 ∨ 384 ≤ f.src) → s.fld (F.BUF_QPROF_ALPHA (profOf s f.egress f.queue)) ≠ 0 →
      s.fld (F.BUF_Q_OCC_SLICES (16 * f.egress + f.queue)) - s.fld (F.BUF_QPROF_MIN (profOf s f.egress f.queue)) < (s.fld (F.BUF_POOL_SIZE_SLICES (s.fld (F.BUF_QPROF_POOL (profOf s f.egress f.queue)))) - s.fld (F.BUF_POOL_USED_SLICES (s.fld (F.BUF_QPROF_POOL (profOf s f.egress f.queue))))) * 2 ^ s.fld (F.BUF_QPROF_ALPHA (profOf s f.egress f.queue)) / 256 →
    Answers (.admissionDecision id) s fun t => t.frame? id = some { f with phase := .queued, kind := 1, pg := none, ct := decide (f.src < 384) && s.rbit (Reg.BUF_PORT_CFG f.src) f.queue && !s.flag (F.BUF_PORT_CFG_QUARANTINED f.src) && decide (portRate s f.egress ≤ portRate s f.src) && (s.queue (16 * f.egress + f.queue)).isEmpty, admAt := pclk s, pool := (s.fld (F.BUF_QPROF_POOL (profOf s f.egress f.queue))), dscp := none, polChg := none } ∧
      t.queue (16 * f.egress + f.queue) = s.queue (16 * f.egress + f.queue) ++ [id] ∧ FramesKeep [id] s t ∧ Touches [.net, .tlm] evtFlds s t) ∧
  (∀ (s : State) (id : Nat) (f : Frame), s.pwr.mainUp = true → s.frame? id = some f → f.phase = .looked → f.egress < 384 → f.queue < 16 → f.src ≤ 416 → f.tag = none → f.trap = none → f.policer = none → f.ins = 0 → f.slices = [] → f.ended = true →
      (∀ i : Fin 256, s.flag (F.TWIN_SID_CFG_VALID i) = false) → s.flag (F.PORT_LIVE_UP f.egress) = true → s.fld F.BUF_FREE_FREE ≠ 0 → s.fld (F.BUF_QPROF_MIN (profOf s f.egress f.queue)) ≤ s.fld (F.BUF_Q_OCC_SLICES (16 * f.egress + f.queue)) → (s.flag (F.BUF_QPROF_LOSSLESS (profOf s f.egress f.queue)) = false ∨ f.queue = 15 ∨ 384 ≤ f.src) →
      (s.fld (F.BUF_QPROF_ALPHA (profOf s f.egress f.queue)) = 0 ∨ (s.fld (F.BUF_POOL_SIZE_SLICES (s.fld (F.BUF_QPROF_POOL (profOf s f.egress f.queue)))) - s.fld (F.BUF_POOL_USED_SLICES (s.fld (F.BUF_QPROF_POOL (profOf s f.egress f.queue))))) * 2 ^ s.fld (F.BUF_QPROF_ALPHA (profOf s f.egress f.queue)) / 256 ≤ s.fld (F.BUF_Q_OCC_SLICES (16 * f.egress + f.queue)) - s.fld (F.BUF_QPROF_MIN (profOf s f.egress f.queue))) →
    Answers (.admissionDecision id) s fun t => t.reg64 (Reg.BUF_Q_DROP_LO (16 * f.egress + f.queue)) (Reg.BUF_Q_DROP_HI (16 * f.egress + f.queue)) = (s.reg64 (Reg.BUF_Q_DROP_LO (16 * f.egress + f.queue)) (Reg.BUF_Q_DROP_HI (16 * f.egress + f.queue)) + 1) % 2 ^ 64 ∧ t.frame? id = none ∧ FramesKeep [id] s t ∧ t.net.queues = s.net.queues ∧ Touches [.net, .tlm] (evtFlds ++ pair (Reg.BUF_Q_DROP_LO (16 * f.egress + f.queue)) ++ [F.BUF_PORT_INT_STATUS_CNT_OVF (f.egress / 16)]) s t) ∧
  (∀ (s : State) (id : Nat) (f : Frame), s.pwr.mainUp = true → s.frame? id = some f → f.phase = .looked → f.egress < 384 → f.queue < 16 → f.src ≤ 416 → f.tag = none → f.trap = none → f.policer = none → f.ins = 0 → f.slices = [] → f.ended = true →
      (∀ i : Fin 256, s.flag (F.TWIN_SID_CFG_VALID i) = false) → s.flag (F.PORT_LIVE_UP f.egress) = true → s.fld F.BUF_FREE_FREE ≠ 0 → s.fld (F.BUF_QPROF_MIN (profOf s f.egress f.queue)) ≤ s.fld (F.BUF_Q_OCC_SLICES (16 * f.egress + f.queue)) → s.flag (F.BUF_QPROF_LOSSLESS (profOf s f.egress f.queue)) = true → f.queue ≠ 15 → f.src < 384 →
      pgShared s f.src (pgOf s f.src f.queue) < s.fld (F.BUF_PGPROF_XOFF_XOFF_TH (pgProf s f.src (pgOf s f.src f.queue))) → 0 < (s.fld (F.BUF_POOL_SIZE_SLICES (s.fld (F.BUF_QPROF_POOL (profOf s f.egress f.queue)))) - s.fld (F.BUF_POOL_USED_SLICES (s.fld (F.BUF_QPROF_POOL (profOf s f.egress f.queue))))) →
    Answers (.admissionDecision id) s fun t => t.frame? id = some { f with phase := .queued, kind := 1, pg := some (pgOf s f.src f.queue), ct := decide (f.src < 384) && s.rbit (Reg.BUF_PORT_CFG f.src) f.queue && !s.flag (F.BUF_PORT_CFG_QUARANTINED f.src) && decide (portRate s f.egress ≤ portRate s f.src) && (s.queue (16 * f.egress + f.queue)).isEmpty, admAt := pclk s, pool := (s.fld (F.BUF_QPROF_POOL (profOf s f.egress f.queue))), dscp := none, polChg := none } ∧
      t.queue (16 * f.egress + f.queue) = s.queue (16 * f.egress + f.queue) ++ [id] ∧ FramesKeep [id] s t ∧ Touches [.net, .tlm] evtFlds s t) ∧
  (∀ (s : State) (id : Nat) (f : Frame), s.pwr.mainUp = true → s.frame? id = some f → f.phase = .looked → f.egress < 384 → f.queue < 16 → f.src ≤ 416 → f.tag = none → f.trap = none → f.policer = none → f.ins = 0 → f.slices = [] → f.ended = true →
      (∀ i : Fin 256, s.flag (F.TWIN_SID_CFG_VALID i) = false) → s.flag (F.PORT_LIVE_UP f.egress) = true → s.fld F.BUF_FREE_FREE ≠ 0 → s.fld (F.BUF_QPROF_MIN (profOf s f.egress f.queue)) ≤ s.fld (F.BUF_Q_OCC_SLICES (16 * f.egress + f.queue)) → s.flag (F.BUF_QPROF_LOSSLESS (profOf s f.egress f.queue)) = true → f.queue ≠ 15 → f.src < 384 →
      (s.fld (F.BUF_PGPROF_XOFF_XOFF_TH (pgProf s f.src (pgOf s f.src f.queue))) ≤ pgShared s f.src (pgOf s f.src f.queue) ∨ (s.fld (F.BUF_POOL_SIZE_SLICES (s.fld (F.BUF_QPROF_POOL (profOf s f.egress f.queue)))) - s.fld (F.BUF_POOL_USED_SLICES (s.fld (F.BUF_QPROF_POOL (profOf s f.egress f.queue))))) = 0) → pgHead s f.src (pgOf s f.src f.queue) < s.fld (F.BUF_PGPROF_HEADROOM_HEADROOM (pgProf s f.src (pgOf s f.src f.queue))) →
    Answers (.admissionDecision id) s fun t => t.frame? id = some { f with phase := .queued, kind := 2, pg := some (pgOf s f.src f.queue), ct := decide (f.src < 384) && s.rbit (Reg.BUF_PORT_CFG f.src) f.queue && !s.flag (F.BUF_PORT_CFG_QUARANTINED f.src) && decide (portRate s f.egress ≤ portRate s f.src) && (s.queue (16 * f.egress + f.queue)).isEmpty, admAt := pclk s, pool := (s.fld (F.BUF_QPROF_POOL (profOf s f.egress f.queue))), dscp := none, polChg := none } ∧
      t.queue (16 * f.egress + f.queue) = s.queue (16 * f.egress + f.queue) ++ [id] ∧ FramesKeep [id] s t ∧ Touches [.net, .tlm] evtFlds s t) ∧
  (∀ (s : State) (id : Nat) (f : Frame), s.pwr.mainUp = true → s.frame? id = some f → f.phase = .looked → f.egress < 384 → f.queue < 16 → f.src ≤ 416 → f.tag = none → f.trap = none → f.policer = none → f.ins = 0 → f.slices = [] → f.ended = true →
      (∀ i : Fin 256, s.flag (F.TWIN_SID_CFG_VALID i) = false) → s.flag (F.PORT_LIVE_UP f.egress) = true → s.fld F.BUF_FREE_FREE ≠ 0 → s.fld (F.BUF_QPROF_MIN (profOf s f.egress f.queue)) ≤ s.fld (F.BUF_Q_OCC_SLICES (16 * f.egress + f.queue)) → s.flag (F.BUF_QPROF_LOSSLESS (profOf s f.egress f.queue)) = true → f.queue ≠ 15 → f.src < 384 →
      (s.fld (F.BUF_PGPROF_XOFF_XOFF_TH (pgProf s f.src (pgOf s f.src f.queue))) ≤ pgShared s f.src (pgOf s f.src f.queue) ∨ (s.fld (F.BUF_POOL_SIZE_SLICES (s.fld (F.BUF_QPROF_POOL (profOf s f.egress f.queue)))) - s.fld (F.BUF_POOL_USED_SLICES (s.fld (F.BUF_QPROF_POOL (profOf s f.egress f.queue))))) = 0) → s.fld (F.BUF_PGPROF_HEADROOM_HEADROOM (pgProf s f.src (pgOf s f.src f.queue))) ≤ pgHead s f.src (pgOf s f.src f.queue) →
    Answers (.admissionDecision id) s fun t => t.reg64 (Reg.BUF_Q_DROP_LO (16 * f.egress + f.queue)) (Reg.BUF_Q_DROP_HI (16 * f.egress + f.queue)) = (s.reg64 (Reg.BUF_Q_DROP_LO (16 * f.egress + f.queue)) (Reg.BUF_Q_DROP_HI (16 * f.egress + f.queue)) + 1) % 2 ^ 64 ∧ t.reg64 (Reg.BUF_PORT_HEADROOM_DROP_LO f.src) (Reg.BUF_PORT_HEADROOM_DROP_HI f.src) = (s.reg64 (Reg.BUF_PORT_HEADROOM_DROP_LO f.src) (Reg.BUF_PORT_HEADROOM_DROP_HI f.src) + 1) % 2 ^ 64 ∧ t.frame? id = none ∧ FramesKeep [id] s t ∧ t.net.queues = s.net.queues ∧
      Touches [.net, .tlm] (evtFlds ++ pair (Reg.BUF_Q_DROP_LO (16 * f.egress + f.queue)) ++ [F.BUF_PORT_INT_STATUS_CNT_OVF (f.egress / 16)] ++ pair (Reg.BUF_PORT_HEADROOM_DROP_LO f.src) ++ [F.BUF_PORT_INT_STATUS_CNT_OVF (f.src / 16)]) s t) ∧
  (∀ (s : State) (id : Nat) (f : Frame), s.pwr.mainUp = true → s.frame? id = some f → f.phase = .looked → f.egress < 384 → f.queue < 16 → f.src ≤ 416 → f.tag = none → f.trap = none → f.policer = none → f.ins = 0 → f.slices = [] → f.ended = true →
      (∀ i : Fin 256, s.flag (F.TWIN_SID_CFG_VALID i) = false) → s.flag (F.PORT_LIVE_UP f.egress) = true → s.fld F.BUF_FREE_FREE = 0 →
    Answers (.admissionDecision id) s fun t => t.reg64 (Reg.BUF_NOFREE_DROP_LO) (Reg.BUF_NOFREE_DROP_HI) = (s.reg64 (Reg.BUF_NOFREE_DROP_LO) (Reg.BUF_NOFREE_DROP_HI) + 1) % 2 ^ 64 ∧ t.flag F.BUF_INT_STATUS_NOFREE = true ∧ t.frame? id = none ∧ FramesKeep [id] s t ∧ t.net.queues = s.net.queues ∧
      Touches [.net, .tlm] (evtFlds ++ pair (Reg.BUF_NOFREE_DROP_LO) ++ [F.BUF_INT_STATUS_NOFREE, F.BUF_INT_STATUS_CNT_OVF]) s t) ∧
  (∀ (s : State) (id : Nat) (f : Frame), s.pwr.mainUp = true → s.frame? id = some f → f.phase = .looked → f.egress < 384 → f.queue < 16 → f.src ≤ 416 → f.tag = none → f.trap = none → f.policer = none → f.ins = 0 → f.slices = [] → f.ended = true →
      (∀ i : Fin 256, s.flag (F.TWIN_SID_CFG_VALID i) = false) → s.flag (F.PORT_LIVE_UP f.egress) = false →
    Answers (.admissionDecision id) s fun t => t.reg64 (Reg.PORT_DOWN_DROP_LO f.egress) (Reg.PORT_DOWN_DROP_HI f.egress) = (s.reg64 (Reg.PORT_DOWN_DROP_LO f.egress) (Reg.PORT_DOWN_DROP_HI f.egress) + 1) % 2 ^ 64 ∧ t.frame? id = none ∧ FramesKeep [id] s t ∧ t.net.queues = s.net.queues ∧
      Touches [.net, .tlm] (evtFlds ++ pair (Reg.PORT_DOWN_DROP_LO f.egress) ++ [F.PORT_INT_STATUS_CNT_OVF f.egress]) s t) ∧
  (∀ (s : State) (id : Nat) (f : Frame), s.pwr.mainUp = true → s.frame? id = some f → f.phase = .looked → 384 ≤ f.egress → f.egress < 416 → portUp s f.egress = true → f.policer = none → ((s.frames.map fun x => if x.2.egress = f.egress ∧ x.2.phase ∈ [FrPhase.queued, .selected, .handed] then (lengthNow x.2 + 255) / 256 else 0).sum + (lengthNow f + 255) / 256) ≤ 64 →
    Answers (.admissionDecision id) s fun t =>
      t.frame? id = some { f with phase := .queued, admAt := pclk s } ∧ t.queue (5760 + f.egress) = s.queue (5760 + f.egress) ++ [id] ∧ FramesKeep [id] s t ∧ Within [.net] s t) ∧
  (∀ (s : State) (id : Nat) (f : Frame), s.pwr.mainUp = true → s.frame? id = some f → f.phase = .looked → 384 ≤ f.egress → f.egress < 416 → portUp s f.egress = true → f.policer = none → f.ended = true → f.tag = none →
      f.slices = [] → 64 < ((s.frames.map fun x => if x.2.egress = f.egress ∧ x.2.phase ∈ [FrPhase.queued, .selected, .handed] then (lengthNow x.2 + 255) / 256 else 0).sum + (lengthNow f + 255) / 256) →
    Answers (.admissionDecision id) s fun t => t.reg64 (Reg.BUF_AUX_DROP_LO) (Reg.BUF_AUX_DROP_HI) = (s.reg64 (Reg.BUF_AUX_DROP_LO) (Reg.BUF_AUX_DROP_HI) + 1) % 2 ^ 64 ∧ t.frame? id = none ∧ FramesKeep [id] s t ∧ t.net.queues = s.net.queues ∧ Touches [.net] (pair (Reg.BUF_AUX_DROP_LO) ++ [F.BUF_INT_STATUS_CNT_OVF]) s t) ∧
  (∀ (s : State) (id : Nat) (f : Frame), s.pwr.mainUp = true → s.frame? id = some f → f.phase = .looked → f.egress = 511 → f.policer = none → ((s.frames.map fun x => if x.2.egress = 511 ∧ x.2.phase = .trapOnly then (lengthNow x.2 + 255) / 256 else 0).sum + (lengthNow f + 255) / 256) ≤ 512 →
    Answers (.admissionDecision id) s fun t => t.frame? id = some { f with phase := .trapOnly, admAt := pclk s } ∧ t.net.queues = s.net.queues ∧ FramesKeep [id] s t ∧ Within [.net] s t) ∧
  (∀ (s : State) (id : Nat) (f : Frame), s.pwr.mainUp = true → s.frame? id = some f → f.phase = .looked → f.egress = 511 → f.policer = none → f.ended = true → f.tag = none → f.slices = [] → 512 < ((s.frames.map fun x => if x.2.egress = 511 ∧ x.2.phase = .trapOnly then (lengthNow x.2 + 255) / 256 else 0).sum + (lengthNow f + 255) / 256) →
    Answers (.admissionDecision id) s fun t =>
      t.reg Reg.FWD_TRAP_DROP = s.reg Reg.FWD_TRAP_DROP + 1 ∧ t.frame? id = none ∧ FramesKeep [id] s t ∧ t.net.queues = s.net.queues ∧ Touches [.net] [whole Reg.FWD_TRAP_DROP, F.FWD_INT_STATUS_CNT_OVF] s t) ∧
  (∀ (s : State) (id : Nat), s.pwr.mainUp = true → (s.frame? id).all (fun f => f.phase ≠ .looked) = true → Answers (.admissionDecision id) s fun t => t = s)

/-- Slices and the auditor (R397, R402, R404, R405, R410, R413, R423 to R427): a slice write takes the slice on top of its bank's free-list stack, counts it in its queue and pool, or in its group or headroom, whose XOFF state follows; with no free slice the frame is dropped with NOFREE; TOTAL sums what is promised and OVERCOMMIT says where it exceeds the buffer; a slice
that two passes find owned by nobody is reported with class 6 and, with RECLAIM, pushed onto its bank's stack again; RECLAIM_ALL frees every reported slice. -/
def Obligations.SlicesAreOwnedAndAudited : Prop :=
  (∀ (s : State) (id : Nat) (n : Fin 1048576) (f : Frame) (bs : List Byte), s.pwr.mainUp = true → s.frame? id = some f → f.phase = .queued → f.egress < 384 → f.queue < 16 → f.pool < 4 → f.ended = true → f.cut = false → f.slices.length < (f.bytes.length + 255) / 256 → s.fld F.BUF_FREE_FREE ≠ 0 → sliceTop s n = true → f.pg = none →
    Answers (.sliceWrite id n bs) s fun t =>
      t.frame? id = some { f with slices := f.slices ++ [n.val] } ∧ t.bank (n.val % 128) = (s.bank (n.val % 128)).pop ∧ (∀ b ∈ List.range 128, b ≠ n.val % 128 → t.bank b = s.bank b) ∧ t.fld F.BUF_FREE_FREE = s.fld F.BUF_FREE_FREE - 1 ∧ t.flag F.BUF_INT_STATUS_FREE_LOW = (s.flag F.BUF_INT_STATUS_FREE_LOW || decide (s.fld F.BUF_FREE_LOW_SLICES ≤ s.fld F.BUF_FREE_FREE ∧ s.fld F.BUF_FREE_FREE - 1 < s.fld F.BUF_FREE_LOW_SLICES)) ∧ t.fld (F.BUF_Q_OCC_SLICES (16 * f.egress + f.queue)) = (s.fld (F.BUF_Q_OCC_SLICES (16 * f.egress + f.queue)) + 1) % 2 ^ 21 ∧ t.fld (F.BUF_POOL_USED_SLICES f.pool) = (s.fld (F.BUF_POOL_USED_SLICES f.pool) + (if minOf s (16 * f.egress + f.queue) ≤ smapGet zeroAt s.net.qpool (4 * (16 * f.egress + f.queue) + f.pool) then 1 else 0)) % 2 ^ 21 ∧ t.queue (16 * f.egress + f.queue) = s.queue (16 * f.egress + f.queue) ∧ FramesKeep [id] s t ∧
      Touches [.net] [F.BUF_FREE_FREE, F.BUF_INT_STATUS_FREE_LOW, F.BUF_POOL_USED_SLICES f.pool, F.BUF_Q_OCC_SLICES (16 * f.egress + f.queue)] s t) ∧
  (∀ (s : State) (id k : Nat) (n : Fin 1048576) (f : Frame) (bs : List Byte), s.pwr.mainUp = true → s.frame? id = some f → f.phase = .queued → f.egress < 384 → f.queue < 16 → f.pool < 4 → f.ended = true → f.cut = false → f.slices.length < (f.bytes.length + 255) / 256 → s.fld F.BUF_FREE_FREE ≠ 0 → sliceTop s n = true → f.pg = some k → k < 8 → f.src < 384 → f.kind ≠ 2 →
    Answers (.sliceWrite id n bs) s fun t =>
      t.frame? id = some { f with slices := f.slices ++ [n.val] } ∧ t.bank (n.val % 128) = (s.bank (n.val % 128)).pop ∧ (∀ b ∈ List.range 128, b ≠ n.val % 128 → t.bank b = s.bank b) ∧ t.fld F.BUF_FREE_FREE = s.fld F.BUF_FREE_FREE - 1 ∧ t.fld (F.BUF_Q_OCC_SLICES (16 * f.egress + f.queue)) = (s.fld (F.BUF_Q_OCC_SLICES (16 * f.egress + f.queue)) + 1) % 2 ^ 21 ∧ t.fld (F.BUF_POOL_USED_SLICES f.pool) = (s.fld (F.BUF_POOL_USED_SLICES f.pool) + (if minOf s (16 * f.egress + f.queue) ≤ smapGet zeroAt s.net.qpool (4 * (16 * f.egress + f.queue) + f.pool) then 1 else 0)) % 2 ^ 21 ∧ pgShared t f.src k = pgShared s f.src k + 1 ∧ pgHead t f.src k = pgHead s f.src k ∧
      (s.fld (F.BUF_PGPROF_XOFF_XOFF_TH (pgProf s f.src k)) ≤ pgShared s f.src k + 1 → t.rbit (Reg.BUF_PORT_PG_STATUS f.src) k = true) ∧ FramesKeep [id] s t ∧
      Touches [.net] [F.BUF_FREE_FREE, F.BUF_INT_STATUS_FREE_LOW, F.BUF_POOL_USED_SLICES f.pool, F.BUF_Q_OCC_SLICES (16 * f.egress + f.queue), F.BUF_PORT_PG_STATUS_XOFF f.src] s t) ∧
  (∀ (s : State) (id k : Nat) (n : Fin 1048576) (f : Frame) (bs : List Byte), s.pwr.mainUp = true → s.frame? id = some f → f.phase = .queued → f.egress < 384 → f.queue < 16 → f.pool < 4 → f.ended = true → f.cut = false → f.slices.length < (f.bytes.length + 255) / 256 → s.fld F.BUF_FREE_FREE ≠ 0 → sliceTop s n = true → f.pg = some k → k < 8 → f.src < 384 → f.kind = 2 →
    Answers (.sliceWrite id n bs) s fun t =>
      t.frame? id = some { f with slices := f.slices ++ [n.val] } ∧ t.bank (n.val % 128) = (s.bank (n.val % 128)).pop ∧ (∀ b ∈ List.range 128, b ≠ n.val % 128 → t.bank b = s.bank b) ∧ t.fld F.BUF_FREE_FREE = s.fld F.BUF_FREE_FREE - 1 ∧ pgHead t f.src k = pgHead s f.src k + 1 ∧ pgShared t f.src k = pgShared s f.src k ∧ t.rbit (Reg.BUF_PORT_PG_STATUS f.src) k = true ∧
      (s.rbit (Reg.BUF_PORT_PG_STATUS f.src) k = false → s.rbit (Reg.PORT_PFC_TX f.src) (16 + k) = true → portUp s f.src = true →
        (t.port f.src).pfcHold = (s.port f.src).pfcHold ++ [(k, s.fld (F.PORT_PFC_TX_QUANTA f.src))]) ∧
      FramesKeep [id] s t ∧ Touches [.net] [F.BUF_FREE_FREE, F.BUF_INT_STATUS_FREE_LOW, F.BUF_PORT_PG_STATUS_XOFF f.src] s t) ∧
  (∀ (s : State) (id : Nat) (n : Fin 1048576) (f : Frame) (bs : List Byte), s.pwr.mainUp = true → s.frame? id = some f → f.phase = .queued → f.egress < 384 → f.queue < 16 → f.pool < 4 → f.ended = true → f.cut = false → f.slices = [] → f.bytes ≠ [] → f.trap = none → f.tag = none →
      s.fld F.BUF_FREE_FREE = 0 →
    Answers (.sliceWrite id n bs) s fun t =>
      t.reg64 (Reg.BUF_NOFREE_DROP_LO) (Reg.BUF_NOFREE_DROP_HI) = (s.reg64 (Reg.BUF_NOFREE_DROP_LO) (Reg.BUF_NOFREE_DROP_HI) + 1) % 2 ^ 64 ∧ t.reg64 (Reg.BUF_Q_DROP_LO (16 * f.egress + f.queue)) (Reg.BUF_Q_DROP_HI (16 * f.egress + f.queue)) = (s.reg64 (Reg.BUF_Q_DROP_LO (16 * f.egress + f.queue)) (Reg.BUF_Q_DROP_HI (16 * f.egress + f.queue)) + 1) % 2 ^ 64 ∧ t.flag F.BUF_INT_STATUS_NOFREE = true ∧ t.frame? id = none ∧ t.queue (16 * f.egress + f.queue) = (s.queue (16 * f.egress + f.queue)).filter (· ≠ id) ∧ FramesKeep [id] s t ∧
      IndKeep [(7, 8 * (16 * f.egress + f.queue) + 5)] s t ∧ Touches [.ind, .net, .tlm] (evtFlds ++ pair (Reg.BUF_Q_DROP_LO (16 * f.egress + f.queue)) ++ [F.BUF_PORT_INT_STATUS_CNT_OVF (f.egress / 16)] ++ pair (Reg.BUF_NOFREE_DROP_LO) ++ [F.BUF_FREE_FREE, F.BUF_INT_STATUS_FREE_LOW, F.BUF_INT_STATUS_NOFREE, F.BUF_INT_STATUS_CNT_OVF]) s t) ∧
  (∀ (s : State) (id : Nat) (n : Fin 1048576) (bs : List Byte), s.pwr.mainUp = true → s.fld F.BUF_FREE_FREE ≠ 0 → (sliceTop s n = false ∨ (s.frame? id).all (fun f => f.cut) = true) → Answers (.sliceWrite id n bs) s fun t => t = s) ∧
  (∀ (s : State), s.pwr.mainUp = true →
    Answers .allocRecompute s fun t =>
      t.fld F.BUF_ALLOC_TOTAL = min (((List.range 4).map fun p => s.fld (F.BUF_POOL_SIZE_SLICES p)).sum + ((List.range 384).map fun p => ((List.range 16).map fun q => s.fld (F.BUF_QPROF_MIN (profOf s p q))).sum + ((List.range 8).map fun k => s.fld (F.BUF_PGPROF_HEADROOM_HEADROOM (8 * s.fld (F.BUF_PORT_CFG_PGSET p) + k))).sum).sum + 2560) 0x1FFFFF ∧ t.flag F.BUF_ALLOC_OVERCOMMIT = decide (1048576 < (((List.range 4).map fun p => s.fld (F.BUF_POOL_SIZE_SLICES p)).sum + ((List.range 384).map fun p => ((List.range 16).map fun q => s.fld (F.BUF_QPROF_MIN (profOf s p q))).sum + ((List.range 8).map fun k => s.fld (F.BUF_PGPROF_HEADROOM_HEADROOM (8 * s.fld (F.BUF_PORT_CFG_PGSET p) + k))).sum).sum + 2560)) ∧
      t.flag F.BUF_INT_STATUS_OVERCOMMIT = (s.flag F.BUF_INT_STATUS_OVERCOMMIT || (decide (1048576 < (((List.range 4).map fun p => s.fld (F.BUF_POOL_SIZE_SLICES p)).sum + ((List.range 384).map fun p => ((List.range 16).map fun q => s.fld (F.BUF_QPROF_MIN (profOf s p q))).sum + ((List.range 8).map fun k => s.fld (F.BUF_PGPROF_HEADROOM_HEADROOM (8 * s.fld (F.BUF_PORT_CFG_PGSET p) + k))).sum).sum + 2560)) && !s.flag F.BUF_ALLOC_OVERCOMMIT)) ∧
      Touches [] [F.BUF_ALLOC_TOTAL, F.BUF_ALLOC_OVERCOMMIT, F.BUF_INT_STATUS_OVERCOMMIT] s t) ∧
  (∀ (s : State) (n : Nat), s.pwr.mainUp = true → s.net.auditOn = true → s.flag F.BUF_AUDIT_EN = true → n < 2 ^ 20 → s.net.lost = [(n, some 1)] →
    Answers (.auditPass []) s fun t =>
      t.reg64 (Reg.BUF_AUDIT_PASSES_LO) (Reg.BUF_AUDIT_PASSES_HI) = (s.reg64 (Reg.BUF_AUDIT_PASSES_LO) (Reg.BUF_AUDIT_PASSES_HI) + 1) % 2 ^ 64 ∧ t.flag F.BUF_INT_STATUS_AUDIT_PASS = true ∧ t.net = { s.net with lost := [(n, some 2)] } ∧ t.fld F.BUF_AUDIT_STATUS_LEAKED = 0 ∧ t.flag F.BUF_AUDIT_STATUS_SUSPECTS = true ∧
      Touches [.net] (pair (Reg.BUF_AUDIT_PASSES_LO) ++ [F.BUF_INT_STATUS_AUDIT_PASS, F.BUF_INT_STATUS_CNT_OVF, F.BUF_AUDIT_STATUS_LEAKED, F.BUF_AUDIT_STATUS_SUSPECTS]) s t) ∧
  (∀ (s : State) (n : Nat), s.pwr.mainUp = true → s.net.auditOn = true → s.flag F.BUF_AUDIT_EN = true → s.flag F.BUF_AUDIT_RECLAIM = false → n < 2 ^ 20 → s.net.lost = [(n, some 2)] →
    Answers (.auditPass []) s fun t =>
      t.reg64 (Reg.BUF_AUDIT_PASSES_LO) (Reg.BUF_AUDIT_PASSES_HI) = (s.reg64 (Reg.BUF_AUDIT_PASSES_LO) (Reg.BUF_AUDIT_PASSES_HI) + 1) % 2 ^ 64 ∧ t.flag F.BUF_INT_STATUS_AUDIT_PASS = true ∧ t.reg64 (Reg.BUF_LEAK_COUNT_LO) (Reg.BUF_LEAK_COUNT_HI) = (s.reg64 (Reg.BUF_LEAK_COUNT_LO) (Reg.BUF_LEAK_COUNT_HI) + 1) % 2 ^ 64 ∧ t.flag F.BUF_INT_STATUS_LEAK = true ∧ t.fld F.BUF_LEAK_LAST_SLICE = n ∧ t.flag F.BUF_LEAK_LAST_RECLAIMED = false ∧
      t.rbit Reg.FLT_CLASS_PEND 6 = true ∧ t.net = { s.net with lost := [(n, some 3)] } ∧ t.fld F.BUF_AUDIT_STATUS_LEAKED = 1 ∧
      t.flag F.BUF_AUDIT_STATUS_SUSPECTS = false ∧ Within [.regs, .loop, .net, .twin, .free] s t) ∧
  (∀ (s : State) (n : Nat), s.pwr.mainUp = true → s.net.auditOn = true → s.flag F.BUF_AUDIT_EN = true → s.flag F.BUF_AUDIT_RECLAIM = true → n < 2 ^ 20 → s.net.lost = [(n, some 2)] →
    Answers (.auditPass []) s fun t =>
      t.reg64 (Reg.BUF_AUDIT_PASSES_LO) (Reg.BUF_AUDIT_PASSES_HI) = (s.reg64 (Reg.BUF_AUDIT_PASSES_LO) (Reg.BUF_AUDIT_PASSES_HI) + 1) % 2 ^ 64 ∧ t.flag F.BUF_INT_STATUS_AUDIT_PASS = true ∧ t.reg64 (Reg.BUF_LEAK_COUNT_LO) (Reg.BUF_LEAK_COUNT_HI) = (s.reg64 (Reg.BUF_LEAK_COUNT_LO) (Reg.BUF_LEAK_COUNT_HI) + 1) % 2 ^ 64 ∧ t.fld F.BUF_LEAK_LAST_SLICE = n ∧ t.flag F.BUF_LEAK_LAST_RECLAIMED = true ∧ t.rbit Reg.FLT_CLASS_PEND 6 = true ∧
      t.fld F.BUF_FREE_FREE = (s.fld F.BUF_FREE_FREE + 1) % 2 ^ 21 ∧ t.net = { s.net with lost := [], banks := t.net.banks } ∧
      t.bank (n % 128) = { s.bank (n % 128) with pushed := n :: (s.bank (n % 128)).pushed } ∧ (∀ b ∈ List.range 128, b ≠ n % 128 → t.bank b = s.bank b) ∧
      t.fld F.BUF_AUDIT_STATUS_LEAKED = 0 ∧ Within [.regs, .loop, .net, .twin, .free] s t) ∧
  (∀ (s : State) (n kind : Nat), s.pwr.mainUp = true → s.net.auditOn = true → s.flag F.BUF_AUDIT_EN = true → s.net.lost = [] → n < 2 ^ 20 → (kind = 1 ∨ kind = 2) →
    Answers (.auditPass [(n, kind)]) s fun t =>
      t.reg64 (Reg.BUF_XLINK_COUNT_LO) (Reg.BUF_XLINK_COUNT_HI) = (s.reg64 (Reg.BUF_XLINK_COUNT_LO) (Reg.BUF_XLINK_COUNT_HI) + 1) % 2 ^ 64 ∧ t.flag F.BUF_INT_STATUS_XLINK = true ∧ t.reg Reg.BUF_XLINK_LAST = BitVec.ofNat 32 (n + kind * 2 ^ 24) ∧ t.rbit Reg.FLT_CLASS_PEND 7 = true ∧
      t.net = s.net ∧ Within [.regs, .free] s t) ∧
  (∀ (s : State) (xs : List (Nat × Nat)), s.pwr.mainUp = true → s.net.auditOn = false → Answers (.auditPass xs) s fun t => t = s) ∧
  (∀ (s : State) (ag : Agent) (d : Word) (n : Nat), s.pwr.mainUp = true → pf1Denied ag Reg.BUF_AUDIT s = false → s.net.auditOn = true → n < 2 ^ 20 → s.net.lost = [(n, some 3)] →
    Answers (.reclaimAll ag d) s fun t =>
      t.net = { s.net with lost := [], banks := t.net.banks } ∧ t.bank (n % 128) = { s.bank (n % 128) with pushed := n :: (s.bank (n % 128)).pushed } ∧
      (∀ b ∈ List.range 128, b ≠ n % 128 → t.bank b = s.bank b) ∧ t.fld F.BUF_FREE_FREE = (s.fld F.BUF_FREE_FREE + 1) % 2 ^ 21 ∧ t.fld F.BUF_AUDIT_STATUS_LEAKED = 0 ∧
      (t.flag F.BUF_LEAK_LAST_RECLAIMED = (s.flag F.BUF_LEAK_LAST_RECLAIMED || decide (s.fld F.BUF_LEAK_LAST_SLICE = n))) ∧
      Touches [.net] [whole Reg.BUF_AUDIT, F.BUF_FREE_FREE, F.BUF_INT_STATUS_FREE_LOW, F.BUF_LEAK_LAST_RECLAIMED, F.BUF_AUDIT_STATUS_LEAKED, F.BUF_AUDIT_STATUS_SUSPECTS, whole Reg.FLT_LIVE, F.FLT_INT_STATUS_COVER_LOST] s t)

/-- Selection and egress (R338 to R341, R352, R353, R416 to R420, R438 to R441, R446, R454, R456): with profile A, and above the weighted group with B, the highest eligible queue is served, its head leaves the queue and its samples take it; in the group a head is served that its deficit, topped up by the quantum where the queue is not yet open, covers; shapers that are on are charged its counted length;
a bad head and a corrupt stored one are released instead; a PFC frame goes first; a port with nothing eligible, or not up, selects nothing. Hand-over sends it; its end counts the frame and its bytes, or a stomp, frees its slices, and puts
preamble, SFD and frame on the lanes with a gap that the deficit idle count keeps at 12 on average (the model's reading, log 18), where the RS and the lanes carry them.
A frame with an action is stamped at its selection (R175 to R183): the value to insert and the record that it asks for are formed there, the record enters the transmit FIFO with the frame's end. As sent it bears the route rewrite (R379),
the remark (R452) and the insertion, with the checksum, the trailer and the FCS updated. A change to profile B at any selection point clears the weighted group's deficits. The places of header fields are log 22. -/
def Obligations.FramesAreSelectedAndSent : Prop :=
  (∀ (s : State) (p : Fin 416) (q : Fin 16) (id : Nat) (f : Frame) (r : List Nat) (st : Stamp), s.pwr.mainUp = true → p.val < 384 → portUp s p = true → (s.port p).pfcHold = [] → activeB s p = false → s.frame? id = some f → f.egress = p.val → f.queue = q.val → f.ended = true → f.slices.length = (f.bytes.length + 255) / 256 → f.bytes ≠ [] → f.pool < 4 → f.pg.all (fun k => k < 8 && f.src < 384) = true → f.bad = none → f.ins = 0 → f.record = false → f.tag = none → s.queue (16 * p.val + q.val) = id :: r → queueHeld s p q = false → (∀ x : Fin 16, q.val < x.val → eligible s p x = false) → shaperEn s (16 * p.val + q.val) = false → shaperEn s (6144 + p) = false →
    Answers (.selection p false st) s fun t =>
      t.frame? id = some { f with phase := .selected, schChg := [], defChg := none, schOver := (if 384 ≤ f.src then 20 else signed 8 (s.fld (F.SCHD_PORT_CFG_OVERHEAD p))) } ∧ t.queue (16 * p.val + q.val) = r.filter (· ≠ id) ∧ (t.sample (16 * p.val + q.val)).deq = (s.sample (16 * p.val + q.val)).deq + 1 ∧ (t.sample (16 * p.val + q.val)).last = min (2 ^ 24 - 1) (pclk s - f.admAt) ∧ FramesKeep [id] s t ∧
      IndKeep [(7, 8 * (16 * p.val + q.val) + 5)] s t ∧ Touches [.ind, .net, .tlm] evtFlds s t) ∧
  (∀ (s : State) (p : Fin 416) (q : Fin 16) (id : Nat) (f : Frame) (r : List Nat) (st : Stamp), s.pwr.mainUp = true → p.val < 384 → portUp s p = true → (s.port p).pfcHold = [] → activeB s p = false → s.frame? id = some f → f.egress = p.val → f.queue = q.val → f.ended = true → f.slices.length = (f.bytes.length + 255) / 256 → f.bytes ≠ [] → f.pool < 4 → f.pg.all (fun k => k < 8 && f.src < 384) = true → f.bad = none → f.ins = 0 → f.record = false → f.tag = none → s.queue (16 * p.val + q.val) = id :: r → queueHeld s p q = false → (∀ x : Fin 16, q.val < x.val → eligible s p x = false) →
      shaperEn s (16 * p.val + q.val) = true → shaperEn s (6144 + p) = true →
    Answers (.selection p false st) s fun t =>
      t.frame? id = some { f with phase := .selected, schChg := [(16 * p.val + q.val), 6144 + p.val], defChg := none, schOver := (if 384 ≤ f.src then 20 else signed 8 (s.fld (F.SCHD_PORT_CFG_OVERHEAD p))) } ∧
      (t.shaper (16 * p.val + q.val)).level = (s.shaper (16 * p.val + q.val)).level - ((max 1 ((f.bytes.length : Int) + (if 384 ≤ f.src then 20 else signed 8 (s.fld (F.SCHD_PORT_CFG_OVERHEAD p))))).toNat : Int) * 2 ^ 24 ∧ (t.shaper (6144 + p)).level = (s.shaper (6144 + p)).level - ((max 1 ((f.bytes.length : Int) + (if 384 ≤ f.src then 20 else signed 8 (s.fld (F.SCHD_PORT_CFG_OVERHEAD p))))).toNat : Int) * 2 ^ 24 ∧
      FramesKeep [id] s t ∧ Touches [.ind, .net, .tlm] evtFlds s t) ∧
  (∀ (s : State) (p : Fin 416) (q : Fin 16) (id : Nat) (f : Frame) (r : List Nat) (st : Stamp), s.pwr.mainUp = true → p.val < 384 → portUp s p = true → (s.port p).pfcHold = [] → activeB s p = true → (s.port p).lastB = true → q.val ≤ 15 - s.fld (F.SCHD_PORT_CFG_STRICT_N p) → s.frame? id = some f → f.egress = p.val → f.queue = q.val → f.ended = true → f.slices.length = (f.bytes.length + 255) / 256 → f.bytes ≠ [] → f.pool < 4 → f.pg.all (fun k => k < 8 && f.src < 384) = true → f.bad = none → f.ins = 0 → f.record = false → f.tag = none →
      s.queue (16 * p.val + q.val) = id :: r → r.filter (· ≠ id) ≠ [] → queueHeld s p q = false → (∀ x : Fin 16, x ≠ q → eligible s p x = false) → shaperEn s (16 * p.val + q.val) = false → shaperEn s (6144 + p) = false →
      (signed 32 (s.indw 7 (8 * (16 * p.val + q.val) + 5)).toNat) + ((bits (s.indw 7 (8 * (16 * p.val + q.val) + 4)) 0 17 : Nat) : Int) < 2 ^ 31 → ((max 1 ((f.bytes.length : Int) + (if 384 ≤ f.src then 20 else signed 8 (s.fld (F.SCHD_PORT_CFG_OVERHEAD p))))).toNat : Int) ≤ (signed 32 (s.indw 7 (8 * (16 * p.val + q.val) + 5)).toNat) + (if isOpen s p q then 0 else ((bits (s.indw 7 (8 * (16 * p.val + q.val) + 4)) 0 17 : Nat) : Int)) →
    Answers (.selection p false st) s fun t =>
      t.frame? id = some { f with phase := .selected, schChg := [], defChg := some (16 * p.val + q.val), schOver := (if 384 ≤ f.src then 20 else signed 8 (s.fld (F.SCHD_PORT_CFG_OVERHEAD p))) } ∧ t.queue (16 * p.val + q.val) = r.filter (· ≠ id) ∧
      signed 32 (t.indw 7 (8 * (16 * p.val + q.val) + 5)).toNat = (signed 32 (s.indw 7 (8 * (16 * p.val + q.val) + 5)).toNat) + (if isOpen s p q then 0 else ((bits (s.indw 7 (8 * (16 * p.val + q.val) + 4)) 0 17 : Nat) : Int)) - (max 1 ((f.bytes.length : Int) + (if 384 ≤ f.src then 20 else signed 8 (s.fld (F.SCHD_PORT_CFG_OVERHEAD p))))).toNat ∧ t.fld (F.SCHD_PORT_STATUS_RR_NEXT p) = q.val ∧ (t.sample (16 * p.val + q.val)).deq = (s.sample (16 * p.val + q.val)).deq + 1 ∧ (t.sample (16 * p.val + q.val)).last = min (2 ^ 24 - 1) (pclk s - f.admAt) ∧ FramesKeep [id] s t ∧
      IndKeep [(7, 8 * (16 * p.val + q.val) + 5)] s t ∧ Touches [.ind, .net, .tlm] (F.SCHD_PORT_STATUS_RR_NEXT p :: evtFlds) s t) ∧
  (∀ (s : State) (p : Fin 416) (q : Fin 16) (id : Nat) (f : Frame) (r : List Nat) (st : Stamp), s.pwr.mainUp = true → p.val < 384 → portUp s p = true → (s.port p).pfcHold = [] → activeB s p = false → s.frame? id = some f → f.egress = p.val → f.queue = q.val → f.ended = true → f.slices.length = (f.bytes.length + 255) / 256 → f.bytes ≠ [] → f.pool < 4 → f.pg.all (fun k => k < 8 && f.src < 384) = true → f.bad = none → f.tag = none → effIns p f.ins s ≠ 0 → tbFormat s ≠ 0 → s.queue (16 * p.val + q.val) = id :: r → queueHeld s p q = false → (∀ x : Fin 16, q.val < x.val → eligible s p x = false) → shaperEn s (16 * p.val + q.val) = false → shaperEn s (6144 + p) = false →
    Answers (.selection p false st) s fun t =>
      t.frame? id = some { f with phase := .selected, schChg := [], defChg := none, schOver := (if 384 ≤ f.src then 20 else signed 8 (s.fld (F.SCHD_PORT_CFG_OVERHEAD p))), insVal := insertion f (effIns p f.ins s) (txStamp p st s) s, txRec := if s.flag (F.TBASE_PORT_TS_CTRL_TX_EN p) = true ∧ (effIns p f.ins s = 4 ∨ f.record = true) then some { words := recordWords (tbFormat s) (txStamp p st s).v20 (txStamp p st s).flags, tag := f.txTag, port := p.val } else none } ∧ t.queue (16 * p.val + q.val) = r.filter (· ≠ id) ∧ t.flag F.TBASE_INT_STATUS_CF_SAT = (s.flag F.TBASE_INT_STATUS_CF_SAT || (insertion f (effIns p f.ins s) (txStamp p st s) s).any (fun v => (insertPtp f.bytes v).2.1)) ∧ t.flag F.TBASE_INT_STATUS_NO_TRAILER = (s.flag F.TBASE_INT_STATUS_NO_TRAILER || (insertion f (effIns p f.ins s) (txStamp p st s) s).any (fun v => (insertPtp f.bytes v).2.2)) ∧ FramesKeep [id] s t ∧
      Touches [.ind, .net, .tlm] (evtFlds ++ [F.TBASE_INT_STATUS_CF_SAT, F.TBASE_INT_STATUS_NO_TRAILER]) s t) ∧
  (∀ (s : State) (p : Fin 416) (id : Nat) (f : Frame) (r : List Nat) (st : Stamp), s.pwr.mainUp = true → 384 ≤ p.val → portUp s p = true → s.queue (5760 + p) = id :: r → s.frame? id = some f →
      f.egress = p.val → f.ended = true → f.slices.length = (f.bytes.length + 255) / 256 → f.bad = none → f.tag = none → effIns p f.ins s ≠ 0 → tbFormat s ≠ 0 → f.ct = false →
    Answers (.selection p false st) s fun t =>
      t.frame? id = some { f with phase := .selected, insVal := insertion f (effIns p f.ins s) (txStamp p st s) s, txRec := if s.flag (F.TBASE_PORT_TS_CTRL_TX_EN p) = true ∧ (effIns p f.ins s = 4 ∨ f.record = true) then some { words := recordWords (tbFormat s) (txStamp p st s).v20 (txStamp p st s).flags, tag := f.txTag, port := p.val } else none } ∧ t.flag F.TBASE_INT_STATUS_CF_SAT = (s.flag F.TBASE_INT_STATUS_CF_SAT || (insertion f (effIns p f.ins s) (txStamp p st s) s).any (fun v => (insertPtp f.bytes v).2.1)) ∧ t.flag F.TBASE_INT_STATUS_NO_TRAILER = (s.flag F.TBASE_INT_STATUS_NO_TRAILER || (insertion f (effIns p f.ins s) (txStamp p st s) s).any (fun v => (insertPtp f.bytes v).2.2)) ∧ FramesKeep [id] s t ∧ Touches [.net] [F.TBASE_INT_STATUS_CF_SAT, F.TBASE_INT_STATUS_NO_TRAILER] s t) ∧
  (∀ (s : State) (p ins : Nat), effIns p ins s = if 1 ≤ ins ∧ ins ≤ 3 ∧ s.flag (F.TBASE_PORT_TS_CTRL_ONESTEP_EN p) = true ∧ ¬(ins = 1 ∧ tbFormat s = 2) then ins
      else if 1 ≤ ins ∧ ins ≤ 4 then 4 else 0) ∧
  (∀ (s : State) (f : Frame) (x : TxStamp), insertion f 4 x s = none ∧
      insertion f 1 x s = some ⟨some (x.v20 / 2 ^ 20 / 1000000000 % 2 ^ 48, x.v20 / 2 ^ 20 % 1000000000), ((x.v20 % 2 ^ 20 + 8) / 16 : Nat)⟩ ∧
      insertion f 2 x s = some ⟨none, ((x.v20 : Int) - (recordValue (tbFormat s) (nth 0 f.tref 0) (nth 0 f.tref 1) (nth 0 f.tref 2) (nth 0 f.tref 3) / 2 ^ 28 : Nat) + 8) / 16⟩ ∧
      (∀ r, f.rx = some r → insertion f 3 x s = some ⟨none, ((((x.v20 : Int) - r.v20) * 2 ^ 28 - (x.moved - r.moved)) + 2 ^ 31) / 2 ^ 32 +
        (if f.p2p then ((s.reg (Reg.FWD_PORT_LINK_DELAY f.src)).toNat : Int) else 0)⟩)) ∧
  (∀ (s : State) (id : Nat) (f : Frame), s.pwr.mainUp = true → s.frame? id = some f → f.phase = .handed → f.ended = true → f.tag = none → f.trap = none → f.slices = [] → f.egress < 384 → f.bad = none →
    Answers (.frameTransmitEnd id false) s fun t =>
      t.reg64 (Reg.PORT_TX_FRAMES_LO f.egress) (Reg.PORT_TX_FRAMES_HI f.egress) = (s.reg64 (Reg.PORT_TX_FRAMES_LO f.egress) (Reg.PORT_TX_FRAMES_HI f.egress) + 1) % 2 ^ 64 ∧ t.reg64 (Reg.PORT_TX_BYTES_LO f.egress) (Reg.PORT_TX_BYTES_HI f.egress) = (s.reg64 (Reg.PORT_TX_BYTES_LO f.egress) (Reg.PORT_TX_BYTES_HI f.egress) + (sentBytes f).length) % 2 ^ 64 ∧ t.frame? id = none ∧ FramesKeep [id] s t ∧
      (portCarries s f.egress = true → smapGet noBytes t.net.sent f.egress = List.replicate 7 0x55 ++ [0xD5] ++ sentBytes f) ∧
      smapGet noLoops t.net.looped f.egress = (if portHears s f.egress then smapGet noLoops s.net.looped f.egress ++ [sentBytes f] else []) ∧
      t.tb = { s.tb with txWait := s.tb.txWait ++ (f.txRec.map fun r => (id, r)).toList } ∧
      Touches [.tb, .net, .tlm] (evtFlds ++ pair (Reg.PORT_TX_FRAMES_LO f.egress) ++ pair (Reg.PORT_TX_BYTES_LO f.egress) ++ [F.PORT_INT_STATUS_CNT_OVF f.egress]) s t) ∧
  (∀ (f : Frame) (r : Rewrite) (h : Hdr), parse f.bytes (parseLen f.bytes f.ended) = h → f.ended = true → f.next = some r → f.dscp = none → f.insVal = none → h.ver ≠ 0 → r.vid.all (fun v => decide (v < 4096)) = true →
      (sentBytes f).length = f.bytes.length ∧ slice (sentBytes f) 0 12 = beBytes 6 r.dmac ++ beBytes 6 r.smac ∧
      (h.tags ≠ 0 → half (sentBytes f) 14 = match r.vid with | some v => half f.bytes 14 / 4096 * 4096 + v | none => half f.bytes 14) ∧
      (h.ver = 4 → byteAt (sentBytes f) (h.l3 + 8) = (byteAt f.bytes (h.l3 + 8) + 255) % 256 ∧ half (sentBytes f) (h.l3 + 10) = 65535 - ocAdd (ocAdd (65535 - half f.bytes (h.l3 + 10)) (65535 - half f.bytes (h.l3 + 8))) ((half f.bytes (h.l3 + 8) + 65280) % 65536)) ∧
      (h.ver = 6 → byteAt (sentBytes f) (h.l3 + 7) = (byteAt f.bytes (h.l3 + 7) + 255) % 256) ∧
      (∀ i ∈ List.range (f.bytes.length - 4), 12 ≤ i → ¬(h.tags ≠ 0 ∧ (i = 14 ∨ i = 15)) → ¬(h.ver = 4 ∧ (i = h.l3 + 8 ∨ i = h.l3 + 10 ∨ i = h.l3 + 11)) → ¬(h.ver = 6 ∧ i = h.l3 + 7) →
        byteAt (sentBytes f) i = byteAt f.bytes i) ∧ leNat ((sentBytes f).drop (f.bytes.length - 4)) = (BitVec.ofNat 32 (leNat (f.bytes.drop (f.bytes.length - 4))) ^^^ crcRaw (xorBytes (f.bytes.take (f.bytes.length - 4)) ((sentBytes f).take (f.bytes.length - 4)))).toNat) ∧
  (∀ (f : Frame) (d : Nat) (h : Hdr), parse f.bytes (parseLen f.bytes f.ended) = h → f.ended = true → f.next = none → f.dscp = some d → f.insVal = none → h.ver ≠ 0 → d < 64 →
      (sentBytes f).length = f.bytes.length ∧
      (h.ver = 4 → byteAt (sentBytes f) (h.l3 + 1) = 4 * d + byteAt f.bytes (h.l3 + 1) % 4 ∧
        half (sentBytes f) (h.l3 + 10) = 65535 - ocAdd (ocAdd (65535 - half f.bytes (h.l3 + 10)) (65535 - half f.bytes h.l3)) (half f.bytes h.l3 / 256 * 256 + 4 * d + byteAt f.bytes (h.l3 + 1) % 4)) ∧
      (h.ver = 6 → half (sentBytes f) h.l3 = half f.bytes h.l3 / 4096 * 4096 + d * 64 + half f.bytes h.l3 % 64) ∧
      (∀ i ∈ List.range (f.bytes.length - 4), ¬(h.ver = 4 ∧ (i = h.l3 + 1 ∨ i = h.l3 + 10 ∨ i = h.l3 + 11)) → ¬(h.ver = 6 ∧ (i = h.l3 ∨ i = h.l3 + 1)) → byteAt (sentBytes f) i = byteAt f.bytes i) ∧ leNat ((sentBytes f).drop (f.bytes.length - 4)) = (BitVec.ofNat 32 (leNat (f.bytes.drop (f.bytes.length - 4))) ^^^ crcRaw (xorBytes (f.bytes.take (f.bytes.length - 4)) ((sentBytes f).take (f.bytes.length - 4)))).toNat) ∧
  (∀ (f : Frame) (v : InsertVal) (m : Nat) (udp : Option (Nat × Bool)), f.next = none → f.dscp = none → f.insVal = some v → ptpLoc f.bytes = some ⟨m, udp⟩ →
      sentBytes f = updateFcs f.bytes (match udp with
        | none => (match v.origin with | some (sec, ns) => overlay (overlay f.bytes (m + 8) (beBytes 8 (if (signed 64 (beNat (slice f.bytes (m + 8) 8)) + v.cf) < -(2 ^ 63) ∨ 2 ^ 63 ≤ (signed 64 (beNat (slice f.bytes (m + 8) 8)) + v.cf) then 2 ^ 63 - 1 else toBits 64 (signed 64 (beNat (slice f.bytes (m + 8) 8)) + v.cf)))) (m + 34) (beBytes 6 sec ++ beBytes 4 ns) | none => (overlay f.bytes (m + 8) (beBytes 8 (if (signed 64 (beNat (slice f.bytes (m + 8) 8)) + v.cf) < -(2 ^ 63) ∨ 2 ^ 63 ≤ (signed 64 (beNat (slice f.bytes (m + 8) 8)) + v.cf) then 2 ^ 63 - 1 else toBits 64 (signed 64 (beNat (slice f.bytes (m + 8) 8)) + v.cf)))))
        | some (u, false) => if half f.bytes (u + 6) = 0 then (match v.origin with | some (sec, ns) => overlay (overlay f.bytes (m + 8) (beBytes 8 (if (signed 64 (beNat (slice f.bytes (m + 8) 8)) + v.cf) < -(2 ^ 63) ∨ 2 ^ 63 ≤ (signed 64 (beNat (slice f.bytes (m + 8) 8)) + v.cf) then 2 ^ 63 - 1 else toBits 64 (signed 64 (beNat (slice f.bytes (m + 8) 8)) + v.cf)))) (m + 34) (beBytes 6 sec ++ beBytes 4 ns) | none => (overlay f.bytes (m + 8) (beBytes 8 (if (signed 64 (beNat (slice f.bytes (m + 8) 8)) + v.cf) < -(2 ^ 63) ∨ 2 ^ 63 ≤ (signed 64 (beNat (slice f.bytes (m + 8) 8)) + v.cf) then 2 ^ 63 - 1 else toBits 64 (signed 64 (beNat (slice f.bytes (m + 8) 8)) + v.cf))))) else overlay (match v.origin with | some (sec, ns) => overlay (overlay f.bytes (m + 8) (beBytes 8 (if (signed 64 (beNat (slice f.bytes (m + 8) 8)) + v.cf) < -(2 ^ 63) ∨ 2 ^ 63 ≤ (signed 64 (beNat (slice f.bytes (m + 8) 8)) + v.cf) then 2 ^ 63 - 1 else toBits 64 (signed 64 (beNat (slice f.bytes (m + 8) 8)) + v.cf)))) (m + 34) (beBytes 6 sec ++ beBytes 4 ns) | none => (overlay f.bytes (m + 8) (beBytes 8 (if (signed 64 (beNat (slice f.bytes (m + 8) 8)) + v.cf) < -(2 ^ 63) ∨ 2 ^ 63 ≤ (signed 64 (beNat (slice f.bytes (m + 8) 8)) + v.cf) then 2 ^ 63 - 1 else toBits 64 (signed 64 (beNat (slice f.bytes (m + 8) 8)) + v.cf))))) (u + 6) (beBytes 2 (if (65535 - ocAdd (65535 - half f.bytes (u + 6)) (ocDelta (slice f.bytes u (half f.bytes (u + 4))) (slice (match v.origin with | some (sec, ns) => overlay (overlay f.bytes (m + 8) (beBytes 8 (if (signed 64 (beNat (slice f.bytes (m + 8) 8)) + v.cf) < -(2 ^ 63) ∨ 2 ^ 63 ≤ (signed 64 (beNat (slice f.bytes (m + 8) 8)) + v.cf) then 2 ^ 63 - 1 else toBits 64 (signed 64 (beNat (slice f.bytes (m + 8) 8)) + v.cf)))) (m + 34) (beBytes 6 sec ++ beBytes 4 ns) | none => (overlay f.bytes (m + 8) (beBytes 8 (if (signed 64 (beNat (slice f.bytes (m + 8) 8)) + v.cf) < -(2 ^ 63) ∨ 2 ^ 63 ≤ (signed 64 (beNat (slice f.bytes (m + 8) 8)) + v.cf) then 2 ^ 63 - 1 else toBits 64 (signed 64 (beNat (slice f.bytes (m + 8) 8)) + v.cf))))) u (half f.bytes (u + 4))))) = 0 then 65535 else (65535 - ocAdd (65535 - half f.bytes (u + 6)) (ocDelta (slice f.bytes u (half f.bytes (u + 4))) (slice (match v.origin with | some (sec, ns) => overlay (overlay f.bytes (m + 8) (beBytes 8 (if (signed 64 (beNat (slice f.bytes (m + 8) 8)) + v.cf) < -(2 ^ 63) ∨ 2 ^ 63 ≤ (signed 64 (beNat (slice f.bytes (m + 8) 8)) + v.cf) then 2 ^ 63 - 1 else toBits 64 (signed 64 (beNat (slice f.bytes (m + 8) 8)) + v.cf)))) (m + 34) (beBytes 6 sec ++ beBytes 4 ns) | none => (overlay f.bytes (m + 8) (beBytes 8 (if (signed 64 (beNat (slice f.bytes (m + 8) 8)) + v.cf) < -(2 ^ 63) ∨ 2 ^ 63 ≤ (signed 64 (beNat (slice f.bytes (m + 8) 8)) + v.cf) then 2 ^ 63 - 1 else toBits 64 (signed 64 (beNat (slice f.bytes (m + 8) 8)) + v.cf))))) u (half f.bytes (u + 4)))))))
        | some (u, true) => if half f.bytes (m + 2) + 2 ≤ half f.bytes (u + 4) - 8 then overlay (match v.origin with | some (sec, ns) => overlay (overlay f.bytes (m + 8) (beBytes 8 (if (signed 64 (beNat (slice f.bytes (m + 8) 8)) + v.cf) < -(2 ^ 63) ∨ 2 ^ 63 ≤ (signed 64 (beNat (slice f.bytes (m + 8) 8)) + v.cf) then 2 ^ 63 - 1 else toBits 64 (signed 64 (beNat (slice f.bytes (m + 8) 8)) + v.cf)))) (m + 34) (beBytes 6 sec ++ beBytes 4 ns) | none => (overlay f.bytes (m + 8) (beBytes 8 (if (signed 64 (beNat (slice f.bytes (m + 8) 8)) + v.cf) < -(2 ^ 63) ∨ 2 ^ 63 ≤ (signed 64 (beNat (slice f.bytes (m + 8) 8)) + v.cf) then 2 ^ 63 - 1 else toBits 64 (signed 64 (beNat (slice f.bytes (m + 8) 8)) + v.cf))))) (m + half f.bytes (m + 2)) (beBytes 2 (ocAdd (half f.bytes (m + half f.bytes (m + 2))) (65535 - (ocDelta (slice f.bytes u (half f.bytes (u + 4))) (slice (match v.origin with | some (sec, ns) => overlay (overlay f.bytes (m + 8) (beBytes 8 (if (signed 64 (beNat (slice f.bytes (m + 8) 8)) + v.cf) < -(2 ^ 63) ∨ 2 ^ 63 ≤ (signed 64 (beNat (slice f.bytes (m + 8) 8)) + v.cf) then 2 ^ 63 - 1 else toBits 64 (signed 64 (beNat (slice f.bytes (m + 8) 8)) + v.cf)))) (m + 34) (beBytes 6 sec ++ beBytes 4 ns) | none => (overlay f.bytes (m + 8) (beBytes 8 (if (signed 64 (beNat (slice f.bytes (m + 8) 8)) + v.cf) < -(2 ^ 63) ∨ 2 ^ 63 ≤ (signed 64 (beNat (slice f.bytes (m + 8) 8)) + v.cf) then 2 ^ 63 - 1 else toBits 64 (signed 64 (beNat (slice f.bytes (m + 8) 8)) + v.cf))))) u (half f.bytes (u + 4))))))) else overlay (match v.origin with | some (sec, ns) => overlay (overlay f.bytes (m + 8) (beBytes 8 (if (signed 64 (beNat (slice f.bytes (m + 8) 8)) + v.cf) < -(2 ^ 63) ∨ 2 ^ 63 ≤ (signed 64 (beNat (slice f.bytes (m + 8) 8)) + v.cf) then 2 ^ 63 - 1 else toBits 64 (signed 64 (beNat (slice f.bytes (m + 8) 8)) + v.cf)))) (m + 34) (beBytes 6 sec ++ beBytes 4 ns) | none => (overlay f.bytes (m + 8) (beBytes 8 (if (signed 64 (beNat (slice f.bytes (m + 8) 8)) + v.cf) < -(2 ^ 63) ∨ 2 ^ 63 ≤ (signed 64 (beNat (slice f.bytes (m + 8) 8)) + v.cf) then 2 ^ 63 - 1 else toBits 64 (signed 64 (beNat (slice f.bytes (m + 8) 8)) + v.cf))))) (u + 6) (beBytes 2 (if (65535 - ocAdd (65535 - half f.bytes (u + 6)) (ocDelta (slice f.bytes u (half f.bytes (u + 4))) (slice (match v.origin with | some (sec, ns) => overlay (overlay f.bytes (m + 8) (beBytes 8 (if (signed 64 (beNat (slice f.bytes (m + 8) 8)) + v.cf) < -(2 ^ 63) ∨ 2 ^ 63 ≤ (signed 64 (beNat (slice f.bytes (m + 8) 8)) + v.cf) then 2 ^ 63 - 1 else toBits 64 (signed 64 (beNat (slice f.bytes (m + 8) 8)) + v.cf)))) (m + 34) (beBytes 6 sec ++ beBytes 4 ns) | none => (overlay f.bytes (m + 8) (beBytes 8 (if (signed 64 (beNat (slice f.bytes (m + 8) 8)) + v.cf) < -(2 ^ 63) ∨ 2 ^ 63 ≤ (signed 64 (beNat (slice f.bytes (m + 8) 8)) + v.cf) then 2 ^ 63 - 1 else toBits 64 (signed 64 (beNat (slice f.bytes (m + 8) 8)) + v.cf))))) u (half f.bytes (u + 4))))) = 0 then 65535 else (65535 - ocAdd (65535 - half f.bytes (u + 6)) (ocDelta (slice f.bytes u (half f.bytes (u + 4))) (slice (match v.origin with | some (sec, ns) => overlay (overlay f.bytes (m + 8) (beBytes 8 (if (signed 64 (beNat (slice f.bytes (m + 8) 8)) + v.cf) < -(2 ^ 63) ∨ 2 ^ 63 ≤ (signed 64 (beNat (slice f.bytes (m + 8) 8)) + v.cf) then 2 ^ 63 - 1 else toBits 64 (signed 64 (beNat (slice f.bytes (m + 8) 8)) + v.cf)))) (m + 34) (beBytes 6 sec ++ beBytes 4 ns) | none => (overlay f.bytes (m + 8) (beBytes 8 (if (signed 64 (beNat (slice f.bytes (m + 8) 8)) + v.cf) < -(2 ^ 63) ∨ 2 ^ 63 ≤ (signed 64 (beNat (slice f.bytes (m + 8) 8)) + v.cf) then 2 ^ 63 - 1 else toBits 64 (signed 64 (beNat (slice f.bytes (m + 8) 8)) + v.cf))))) u (half f.bytes (u + 4))))))))) ∧
  (∀ (f : Frame), f.next = none → f.dscp = none → (f.insVal = none ∨ ptpLoc f.bytes = none) → sentBytes f = f.bytes) ∧
  (∀ (s : State) (p : Fin 416) (q : Fin 16) (id : Nat) (f : Frame) (r : List Nat) (st : Stamp), s.pwr.mainUp = true → p.val < 384 → portUp s p = true → (s.port p).pfcHold = [] → activeB s p = false → s.frame? id = some f → f.egress = p.val → f.queue = q.val → f.ended = true → f.slices.length = (f.bytes.length + 255) / 256 → f.bytes ≠ [] → f.pool < 4 → f.pg.all (fun k => k < 8 && f.src < 384) = true → f.bad = some .fcs → f.tag = none → s.queue (16 * p.val + q.val) = id :: r → queueHeld s p q = false → (∀ x : Fin 16, q.val < x.val → eligible s p x = false) →
    Answers (.selection p false st) s fun t => t.frame? id = none ∧ t.queue (16 * p.val + q.val) = r.filter (· ≠ id) ∧ t.fld F.BUF_FREE_FREE = (s.fld F.BUF_FREE_FREE + slicesBack f) % 2 ^ 21 ∧ FramesKeep [id] s t ∧ Within [.regs, .ind, .net] s t) ∧
  (∀ (s : State) (p : Fin 416) (q : Fin 16) (id : Nat) (f : Frame) (r : List Nat) (st : Stamp), s.pwr.mainUp = true → p.val < 384 → portUp s p = true → (s.port p).pfcHold = [] → activeB s p = false → s.frame? id = some f → f.egress = p.val → f.queue = q.val → f.ended = true → f.slices.length = (f.bytes.length + 255) / 256 → f.bytes ≠ [] → f.pool < 4 → f.pg.all (fun k => k < 8 && f.src < 384) = true → f.bad = none → f.ct = false → f.tag = none → f.trap = none → s.queue (16 * p.val + q.val) = id :: r → queueHeld s p q = false → (∀ x : Fin 16, q.val < x.val → eligible s p x = false) →
    Answers (.selection p true st) s fun t =>
      t.reg64 (Reg.PORT_TX_FCS_DROP_LO p) (Reg.PORT_TX_FCS_DROP_HI p) = (s.reg64 (Reg.PORT_TX_FCS_DROP_LO p) (Reg.PORT_TX_FCS_DROP_HI p) + 1) % 2 ^ 64 ∧ t.flag (F.PORT_INT_STATUS_TX_FCS_DROP p) = true ∧ t.rbit Reg.FLT_CLASS_PEND 5 = true ∧ t.frame? id = none ∧ t.queue (16 * p.val + q.val) = r.filter (· ≠ id) ∧ t.fld F.BUF_FREE_FREE = (s.fld F.BUF_FREE_FREE + slicesBack f) % 2 ^ 21 ∧ FramesKeep [id] s t ∧ Within [.regs, .ind, .loop, .net, .twin, .free] s t) ∧
  (∀ (s : State) (p : Fin 416) (k quanta : Nat) (r : List (Nat × Nat)) (c : Bool) (st : Stamp), s.pwr.mainUp = true → p.val < 384 → portUp s p = true → (s.port p).pfcHold = (k, quanta) :: r → (activeB s p = false ∨ (s.port p).lastB = true) →
    Answers (.selection p c st) s fun t =>
      (t.port p).pfcHold = r ∧ t.reg64 (Reg.PORT_TX_PFC_LO p) (Reg.PORT_TX_PFC_HI p) = (s.reg64 (Reg.PORT_TX_PFC_LO p) (Reg.PORT_TX_PFC_HI p) + 1) % 2 ^ 64 ∧ t.reg64 (Reg.PORT_TX_FRAMES_LO p) (Reg.PORT_TX_FRAMES_HI p) = (s.reg64 (Reg.PORT_TX_FRAMES_LO p) (Reg.PORT_TX_FRAMES_HI p) + 1) % 2 ^ 64 ∧ t.reg64 (Reg.PORT_TX_BYTES_LO p) (Reg.PORT_TX_BYTES_HI p) = (s.reg64 (Reg.PORT_TX_BYTES_LO p) (Reg.PORT_TX_BYTES_HI p) + 64) % 2 ^ 64 ∧ t.net.frames = s.net.frames ∧ t.net.queues = s.net.queues ∧
      (portCarries s p = true → smapGet noBytes t.net.sent p = List.replicate 7 0x55 ++ [0xD5] ++ pfcFrame p k quanta ∧ (72 + (t.port p).gap) % 8 = 0 ∧
        (t.port p).gap + (t.port p).deficit = 12 + (s.port p).deficit) ∧ (portCarries s p = false → t.net.sent = s.net.sent) ∧
      Touches [.net] (pair (Reg.PORT_TX_PFC_LO p) ++ pair (Reg.PORT_TX_FRAMES_LO p) ++ pair (Reg.PORT_TX_BYTES_LO p) ++ [F.PORT_INT_STATUS_CNT_OVF p]) s t) ∧
  (∀ (s : State) (p : Fin 416) (c : Bool) (st : Stamp), s.pwr.mainUp = true → p.val < 384 → portUp s p = true → (s.port p).pfcHold ≠ [] → activeB s p = true → (s.port p).lastB = false →
    Answers (.selection p c st) s fun t =>
      (t.port p).lastB = true ∧ t.fld (F.SCHD_PORT_STATUS_RR_NEXT p) = 15 - s.fld (F.SCHD_PORT_CFG_STRICT_N p) ∧ (∀ q ∈ List.range 16, t.indw 7 (8 * (16 * p + q) + 5) = if q ≤ 15 - s.fld (F.SCHD_PORT_CFG_STRICT_N p) then 0 else s.indw 7 (8 * (16 * p + q) + 5)) ∧
      (∀ q ∈ List.range 16, isOpen t p q = (isOpen s p q && decide (15 - s.fld (F.SCHD_PORT_CFG_STRICT_N p) < q))) ∧ t.net.queues = s.net.queues ∧ Within [.regs, .ind, .net] s t) ∧
  (∀ (s : State) (p : Fin 416) (c : Bool) (st : Stamp), s.pwr.mainUp = true → p.val < 384 → portUp s p = true → (s.port p).pfcHold = [] → activeB s p = false → (∀ x : Fin 16, eligible s p x = false) →
    Answers (.selection p c st) s fun t => t.net.frames = s.net.frames ∧ t.net.queues = s.net.queues ∧ Within [.net] s t) ∧
  (∀ (s : State) (p : Fin 416) (c : Bool) (st : Stamp), s.pwr.mainUp = true → portUp s p = false → Answers (.selection p c st) s fun t => t = s) ∧
  (∀ (s : State) (p : Fin 416) (id : Nat) (f : Frame) (r : List Nat) (st : Stamp), s.pwr.mainUp = true → 384 ≤ p.val → portUp s p = true → s.queue (5760 + p) = id :: r → s.frame? id = some f →
      f.egress = p.val → f.ended = true → f.slices.length = (f.bytes.length + 255) / 256 → f.bad = none → f.ins = 0 → f.record = false → f.tag = none → f.ct = false →
    Answers (.selection p false st) s fun t =>
      t.frame? id = some { f with phase := .selected } ∧ t.queue (5760 + p) = r.filter (· ≠ id) ∧ FramesKeep [id] s t ∧ Within [.net] s t) ∧
  (∀ (s : State) (id : Nat) (f : Frame), s.pwr.mainUp = true → s.frame? id = some f → f.phase = .selected → f.bad = none → f.tag = none →
    Answers (.egressHandover id) s fun t => t.frame? id = some { f with phase := .handed } ∧ FramesKeep [id] s t ∧ Within [.net] s t) ∧
  (∀ (s : State) (id : Nat) (f : Frame), s.pwr.mainUp = true → s.frame? id = some f → f.phase = .selected → f.bad ≠ none → f.tag = none → f.slices = [] → f.ended = true →
    Answers (.egressHandover id) s fun t => t.frame? id = none ∧ FramesKeep [id] s t ∧ Touches [.net] [] s t) ∧
  (∀ (s : State) (id : Nat) (f : Frame), s.pwr.mainUp = true → s.frame? id = some f → f.phase = .handed → f.ended = true → f.tag = none → f.trap = none → f.slices = [] → f.egress < 384 → f.txRec = none → f.bad = none → f.next = none → f.dscp = none → f.insVal = none →
    Answers (.frameTransmitEnd id false) s fun t =>
      t.reg64 (Reg.PORT_TX_FRAMES_LO f.egress) (Reg.PORT_TX_FRAMES_HI f.egress) = (s.reg64 (Reg.PORT_TX_FRAMES_LO f.egress) (Reg.PORT_TX_FRAMES_HI f.egress) + 1) % 2 ^ 64 ∧ t.reg64 (Reg.PORT_TX_BYTES_LO f.egress) (Reg.PORT_TX_BYTES_HI f.egress) = (s.reg64 (Reg.PORT_TX_BYTES_LO f.egress) (Reg.PORT_TX_BYTES_HI f.egress) + f.bytes.length) % 2 ^ 64 ∧ t.frame? id = none ∧ FramesKeep [id] s t ∧
      (portCarries s f.egress = true → smapGet noBytes t.net.sent f.egress = List.replicate 7 0x55 ++ [0xD5] ++ f.bytes ∧ (8 + f.bytes.length + (t.port f.egress).gap) % 8 = 0 ∧
        (t.port f.egress).gap + (t.port f.egress).deficit = 12 + (s.port f.egress).deficit) ∧ (portCarries s f.egress = false → t.net.sent = s.net.sent) ∧
      Touches [.net, .tlm] (evtFlds ++ pair (Reg.PORT_TX_FRAMES_LO f.egress) ++ pair (Reg.PORT_TX_BYTES_LO f.egress) ++ [F.PORT_INT_STATUS_CNT_OVF f.egress]) s t) ∧
  (∀ (s : State) (id : Nat) (f : Frame) (c : Bool), s.pwr.mainUp = true → s.frame? id = some f → f.phase = .handed → f.ended = true → f.tag = none → f.trap = none → f.slices = [] → f.egress < 384 → f.txRec = none → f.src < 384 → (f.bad = some .fcs ∨ f.bad = some .oversize) →
    Answers (.frameTransmitEnd id c) s fun t =>
      t.reg64 (Reg.PORT_CT_STOMPED_LO f.egress) (Reg.PORT_CT_STOMPED_HI f.egress) = (s.reg64 (Reg.PORT_CT_STOMPED_LO f.egress) (Reg.PORT_CT_STOMPED_HI f.egress) + 1) % 2 ^ 64 ∧ t.reg64 (Reg.PORT_CT_BAD_SRC_LO f.src) (Reg.PORT_CT_BAD_SRC_HI f.src) = (s.reg64 (Reg.PORT_CT_BAD_SRC_LO f.src) (Reg.PORT_CT_BAD_SRC_HI f.src) + 1) % 2 ^ 64 ∧ t.reg64 (Reg.BUF_STOMP_RX_LO) (Reg.BUF_STOMP_RX_HI) = (s.reg64 (Reg.BUF_STOMP_RX_LO) (Reg.BUF_STOMP_RX_HI) + 1) % 2 ^ 64 ∧ t.frame? id = none ∧ FramesKeep [id] s t ∧
      (portCarries s f.egress = true → smapGet noBytes t.net.sent f.egress = List.replicate 7 0x55 ++ [0xD5] ++ stompBytes f) ∧
      Touches [.net, .tlm] (evtFlds ++ pair (Reg.PORT_CT_STOMPED_LO f.egress) ++ pair (Reg.PORT_CT_BAD_SRC_LO f.src) ++ pair (Reg.BUF_STOMP_RX_LO) ++ [F.PORT_INT_STATUS_CNT_OVF f.egress, F.PORT_INT_STATUS_CNT_OVF f.src, F.BUF_INT_STATUS_CNT_OVF]) s t) ∧
  (∀ (s : State) (id : Nat) (f : Frame), s.pwr.mainUp = true → s.frame? id = some f → f.phase = .handed → f.ended = true → f.tag = none → f.trap = none → f.slices = [] → f.egress < 384 → f.txRec = none → f.src < 384 → f.bad = none → f.ct = true →
    Answers (.frameTransmitEnd id true) s fun t =>
      t.reg64 (Reg.PORT_CT_STOMPED_LO f.egress) (Reg.PORT_CT_STOMPED_HI f.egress) = (s.reg64 (Reg.PORT_CT_STOMPED_LO f.egress) (Reg.PORT_CT_STOMPED_HI f.egress) + 1) % 2 ^ 64 ∧ t.reg64 (Reg.BUF_STOMP_CORRUPT_LO) (Reg.BUF_STOMP_CORRUPT_HI) = (s.reg64 (Reg.BUF_STOMP_CORRUPT_LO) (Reg.BUF_STOMP_CORRUPT_HI) + 1) % 2 ^ 64 ∧ t.flag F.BUF_INT_STATUS_STOMP_CORRUPT = true ∧ t.rbit Reg.FLT_CLASS_PEND 5 = true ∧ t.frame? id = none ∧ FramesKeep [id] s t ∧
      Within [.regs, .loop, .net, .tlm, .twin, .free] s t) ∧
  (∀ (f : Frame), f.next = none → f.dscp = none → f.insVal = none → f.bad = some .oversize →
    stompBytes f = f.bytes.take (256 * f.slices.length) ++ leBytes 4 (~~~(fcsOf (f.bytes.take (256 * f.slices.length)))).toNat) ∧
  (∀ (s : State) (id : Nat) (f : Frame), s.pwr.mainUp = true → s.frame? id = some f → f.phase = .handed → f.ended = false → f.cut = true → f.tag = none → f.trap = none → f.slices = [] → f.egress < 384 → f.txRec = none → f.src < 384 → f.bad = some .nofree →
    Answers (.frameTransmitEnd id false) s fun t =>
      t.reg64 (Reg.PORT_CT_STOMPED_LO f.egress) (Reg.PORT_CT_STOMPED_HI f.egress) = (s.reg64 (Reg.PORT_CT_STOMPED_LO f.egress) (Reg.PORT_CT_STOMPED_HI f.egress) + 1) % 2 ^ 64 ∧ t.reg64 (Reg.PORT_CT_BAD_SRC_LO f.src) (Reg.PORT_CT_BAD_SRC_HI f.src) = (s.reg64 (Reg.PORT_CT_BAD_SRC_LO f.src) (Reg.PORT_CT_BAD_SRC_HI f.src) + 1) % 2 ^ 64 ∧ t.reg64 (Reg.BUF_STOMP_RX_LO) (Reg.BUF_STOMP_RX_HI) = (s.reg64 (Reg.BUF_STOMP_RX_LO) (Reg.BUF_STOMP_RX_HI) + 1) % 2 ^ 64 ∧ t.frame? id = some { f with phase := .gone } ∧ FramesKeep [id] s t ∧
      Within [.regs, .net, .tlm] s t) ∧
  (∀ (s : State) (id : Nat), s.pwr.mainUp = true → s.frame? id = none → Answers (.frameTransmitEnd id false) s fun t => t = s)

/-- Rates and redundant streams (R445, R448 to R453, R461, R462, R510, R511): every refresh lifts a shaper's LEVEL by its rate up to BURST, a forgiven debt to 0; a policer's buckets refill likewise and staged values come into force; a green frame draws on both buckets and a red one with action drop ends; at a
frame's end what its policer was charged is settled with the overhead of the charge, also of a frame dropped since (R437); a write of POL_CFG that makes an unusable policer is refused. A stream passes a sequence number
once, ends a frame whose number has been seen or is out of range, starts again at any number after its reset, and is reset where nothing passed for RESET_MS. -/
def Obligations.RatesAndStreams : Prop :=
  (∀ (s : State) (i : Nat), s.pwr.mainUp = true → SMapWf indReset s.ind → i < 6528 → bit (s.indw 7 (shaperWord i 0)) 0 = true → ¬(i < 6144 ∧ i % 16 = 15) →
    Answers .shaperRefresh s fun t =>
      (t.shaper i).level = (if (s.shaper i).forgive ∧ (min ((bits (s.indw 7 (shaperWord i 2)) 0 24 : Int) * 2 ^ 24) ((s.shaper i).level + (((s.indw 7 (shaperWord i 1)).toNat * 2 ^ 24 + 93750) / 187500 : Nat))) < 0 then 0 else (min ((bits (s.indw 7 (shaperWord i 2)) 0 24 : Int) * 2 ^ 24) ((s.shaper i).level + (((s.indw 7 (shaperWord i 1)).toNat * 2 ^ 24 + 93750) / 187500 : Nat)))) ∧ (t.shaper i).forgive = false ∧
      t.net.frames = s.net.frames ∧ t.net.queues = s.net.queues ∧ t.net.pols = s.net.pols ∧ IndKeep ((List.range 6528).map fun i => (7, shaperWord i 3)) s t ∧ Within [.ind, .net] s t) ∧
  (∀ (s : State) (i : Nat), s.pwr.mainUp = true → SMapWf indReset s.ind → i < 6528 → bit (s.indw 7 (shaperWord i 0)) 0 = false →
    Answers .shaperRefresh s fun t => (t.shaper i).level = (s.shaper i).level ∧ t.indw 7 (shaperWord i 3) = s.indw 7 (shaperWord i 3) ∧ Within [.ind, .net] s t) ∧
  (∀ (s : State) (ag : Agent) (d : Word), s.pwr.mainUp = true → pf1Denied ag Reg.SCHD_SHAPER_FORGIVE s = false → bits d 0 13 ≤ 6527 →
    Answers (.forgive ag d) s fun t =>
      t.shaper (bits d 0 13) = { s.shaper (bits d 0 13) with forgive := true } ∧ (∀ j : Fin 6528, j.val ≠ bits d 0 13 → t.shaper j = s.shaper j) ∧
      t.net = { s.net with shapers := t.net.shapers } ∧ Touches [.net] [whole Reg.SCHD_SHAPER_FORGIVE] s t) ∧
  (∀ (s : State) (i : Nat), s.pwr.mainUp = true → (s.pol i).next = none → bit (nth 0 (s.pol i).now 0) 0 = true →
    Answers .policerRefresh s fun t =>
      t.pol i = { s.pol i with tc := min (((nth 0 (s.pol i).now 3).toNat : Int) * 2 ^ 24) ((s.pol i).tc + (((nth 0 (s.pol i).now 1).toNat * 2 ^ 24 + 93750) / 187500 : Nat)), tp := min (((nth 0 (s.pol i).now 4).toNat : Int) * 2 ^ 24) ((s.pol i).tp + (((nth 0 (s.pol i).now 2).toNat * 2 ^ 24 + 93750) / 187500 : Nat)) } ∧
      t.net = { s.net with pols := t.net.pols } ∧ Within [.net] s t) ∧
  (∀ (s : State) (i : Nat) (v : List Word), s.pwr.mainUp = true → (s.pol i).next = some v → bit (nth 0 v 0) 0 = true → bit (nth 0 (s.pol i).now 0) 0 = false →
    Answers .policerRefresh s fun t =>
      t.pol i = { s.pol i with now := v, next := none, tc := ((nth 0 v 3).toNat : Int) * 2 ^ 24, tp := ((nth 0 v 4).toNat : Int) * 2 ^ 24 } ∧
      t.net = { s.net with pols := t.net.pols } ∧ Within [.net] s t) ∧
  (∀ (s : State) (i : Nat), s.pwr.mainUp = true → (s.pol i).next = none → bit (nth 0 (s.pol i).now 0) 0 = false → Answers .policerRefresh s fun t => t.pol i = s.pol i ∧ Within [.net] s t) ∧
  (∀ (s : State) (ag : Agent) (i : Fin 4096) (d : Word), s.pwr.mainUp = true → pf1Denied ag (Reg.POL_CFG i) s = false → (d.getLsbD 0 = false ∨ ((s.reg (Reg.POL_CIR i)).toNat ≤ (s.reg (Reg.POL_PIR i)).toNat ∧ s.reg (Reg.POL_CBS i) ≠ 0 ∧ s.reg (Reg.POL_PBS i) ≠ 0)) →
    Answers (.polCfgWrite ag i d) s fun t =>
      t.pol i = { s.pol i with next := some [t.reg (Reg.POL_CFG i), s.reg (Reg.POL_CIR i), s.reg (Reg.POL_PIR i), s.reg (Reg.POL_CBS i), s.reg (Reg.POL_PBS i)] } ∧
      bits (t.reg (Reg.POL_CFG i)) 0 2 = bits d 0 2 ∧ bits (t.reg (Reg.POL_CFG i)) 6 12 = bits d 6 12 ∧ (∀ j : Fin 4096, j ≠ i → t.pol j = s.pol j) ∧
      t.net = { s.net with pols := t.net.pols } ∧ Touches [.net] [whole (Reg.POL_CFG i)] s t) ∧
  (∀ (s : State) (ag : Agent) (i : Fin 4096) (d : Word), s.pwr.mainUp = true → pf1Denied ag (Reg.POL_CFG i) s = false → d.getLsbD 0 = true → ((s.reg (Reg.POL_PIR i)).toNat < (s.reg (Reg.POL_CIR i)).toNat ∨ s.reg (Reg.POL_CBS i) = 0 ∨ s.reg (Reg.POL_PBS i) = 0) →
    Answers (.polCfgWrite ag i d) s fun t =>
      t.flag (F.POL_INT_STATUS_CFG_REJECT (i / 126)) = true ∧ Touches [] [F.POL_INT_STATUS_CFG_REJECT (i / 126)] s t) ∧
  (∀ (s : State) (id i : Nat) (f : Frame), s.pwr.mainUp = true → s.frame? id = some f → f.phase = .looked → f.queue < 16 → f.src ≤ 416 → f.tag = none → f.slices = [] → f.ended = true → f.policer = some i → i < 4096 → (∀ k : Fin 256, s.flag (F.TWIN_SID_CFG_VALID k) = false) → bit (nth 0 (s.pol i).now 0) 0 = true → bits (nth 0 (s.pol i).now 0) 4 2 = 1 → (s.pol i).tp < ((max 1 ((f.bytes.length : Int) + (if 384 ≤ f.src then 20 else signed 8 (s.fld (F.SCHD_PORT_CFG_OVERHEAD f.src))))).toNat : Int) * 2 ^ 24 →
    Answers (.admissionDecision id) s fun t =>
      t.reg (Reg.POL_RED i) = s.reg (Reg.POL_RED i) + 1 ∧ t.net.pols = s.net.pols ∧ t.frame? id = none ∧ FramesKeep [id] s t ∧ t.net.queues = s.net.queues ∧ Touches [.net, .tlm] (evtFlds ++ [whole (Reg.POL_RED i), F.POL_INT_STATUS_CNT_OVF (i / 126)]) s t) ∧
  (∀ (s : State) (id i : Nat) (f : Frame), s.pwr.mainUp = true → s.frame? id = some f → f.phase = .looked → f.queue < 16 → f.src ≤ 416 → f.tag = none → f.slices = [] → f.ended = true → f.policer = some i → i < 4096 → (∀ k : Fin 256, s.flag (F.TWIN_SID_CFG_VALID k) = false) → bit (nth 0 (s.pol i).now 0) 0 = true → bit (nth 0 (s.pol i).now 0) 1 = false → ((max 1 ((f.bytes.length : Int) + (if 384 ≤ f.src then 20 else signed 8 (s.fld (F.SCHD_PORT_CFG_OVERHEAD f.src))))).toNat : Int) * 2 ^ 24 ≤ (s.pol i).tp → ((max 1 ((f.bytes.length : Int) + (if 384 ≤ f.src then 20 else signed 8 (s.fld (F.SCHD_PORT_CFG_OVERHEAD f.src))))).toNat : Int) * 2 ^ 24 ≤ (s.pol i).tc →
    Answers (.admissionDecision id) s fun t =>
      t.reg (Reg.POL_GREEN i) = s.reg (Reg.POL_GREEN i) + 1 ∧ t.pol i = { s.pol i with tc := (s.pol i).tc - ((max 1 ((f.bytes.length : Int) + (if 384 ≤ f.src then 20 else signed 8 (s.fld (F.SCHD_PORT_CFG_OVERHEAD f.src))))).toNat : Int) * 2 ^ 24, tp := (s.pol i).tp - ((max 1 ((f.bytes.length : Int) + (if 384 ≤ f.src then 20 else signed 8 (s.fld (F.SCHD_PORT_CFG_OVERHEAD f.src))))).toNat : Int) * 2 ^ 24 } ∧ FramesKeep [id] s t ∧ Within [.regs, .net, .tlm] s t) ∧
  (∀ (s : State) (src : Fin 416) (id i : Nat) (o : Int) (green : Bool) (f : Frame) (bs : List Byte) (arr : Arrival), s.pwr.mainUp = true → portUp s src = true → frameComes s src bs = true → src.val < 384 → s.frame? id = some f →
      f.src = src.val → f.ended = false → (f.phase = .queued ∨ f.phase = .gone) → f.tag = none → f.polChg = some (i, o, green) → f.schChg = [] → f.defChg = none →
      half bs 12 ≠ 0x8808 → 64 ≤ bs.length → bs.length ≤ s.fld (F.PORT_MAX_FRAME_BYTES src) → fcsOk bs = true →
    Answers (.macFrameReceive src id bs false arr) s fun t =>
      (t.pol i).tp = clampInt 0 (((nth 0 (s.pol i).now 4).toNat : Int) * 2 ^ 24) ((s.pol i).tp + (((max 1 ((f.known : Int) + o)).toNat : Int) - ((max 1 ((bs.length : Int) + o)).toNat : Int)) * 2 ^ 24) ∧
      (green = false → (t.pol i).tc = (s.pol i).tc) ∧ (f.phase = .gone → t.frame? id = none) ∧ FramesKeep [id] s t ∧ Within [.regs, .net, .tlm] s t) ∧
  (∀ (s : State) (id i n : Nat) (f : Frame), s.pwr.mainUp = true → s.frame? id = some f → f.phase = .looked → f.egress < 384 → f.queue < 16 → f.src ≤ 416 → f.tag = none → f.slices = [] → f.ended = true → f.policer = none → sidFind s (if (parse f.bytes (parseLen f.bytes f.ended)).tags = 0 then s.fld (F.FWD_PORT_CFG_PVID f.src) else (parse f.bytes (parseLen f.bytes f.ended)).vid) (beNat (slice f.bytes 0 6)) = some i → i < 256 → f.trap = none → rtagSeq f.bytes = some n → s.flag (F.TWIN_SID_STATE_TAKE_ANY i) = false → signed 16 ((n + 65536 - s.fld (F.TWIN_SID_STATE_RECOV_SEQ i)) % 65536) ≤ 0 → -(s.fld (F.TWIN_SID_CFG_HIST_LEN i) : Int) < signed 16 ((n + 65536 - s.fld (F.TWIN_SID_STATE_RECOV_SEQ i)) % 65536) →
      (s.sid i).hist.testBit (-(signed 16 ((n + 65536 - s.fld (F.TWIN_SID_STATE_RECOV_SEQ i)) % 65536))).toNat = true →
    Answers (.admissionDecision id) s fun t =>
      t.reg (Reg.TWIN_SID_DISCARDED i) = s.reg (Reg.TWIN_SID_DISCARDED i) + 1 ∧ t.frame? id = none ∧ FramesKeep [id] s t ∧ t.net.sids = s.net.sids ∧ t.net.queues = s.net.queues ∧ Touches [.net] [whole (Reg.TWIN_SID_DISCARDED i), F.TWIN_SID_INT_STATUS_CNT_OVF (i / 84)] s t) ∧
  (∀ (s : State) (id i n : Nat) (f : Frame), s.pwr.mainUp = true → s.frame? id = some f → f.phase = .looked → f.egress < 384 → f.queue < 16 → f.src ≤ 416 → f.tag = none → f.slices = [] → f.ended = true → f.policer = none → sidFind s (if (parse f.bytes (parseLen f.bytes f.ended)).tags = 0 then s.fld (F.FWD_PORT_CFG_PVID f.src) else (parse f.bytes (parseLen f.bytes f.ended)).vid) (beNat (slice f.bytes 0 6)) = some i → i < 256 → f.trap = none → rtagSeq f.bytes = some n → s.flag (F.TWIN_SID_STATE_TAKE_ANY i) = false → ((s.fld (F.TWIN_SID_CFG_HIST_LEN i) : Int) ≤ signed 16 ((n + 65536 - s.fld (F.TWIN_SID_STATE_RECOV_SEQ i)) % 65536) ∨ signed 16 ((n + 65536 - s.fld (F.TWIN_SID_STATE_RECOV_SEQ i)) % 65536) ≤ -(s.fld (F.TWIN_SID_CFG_HIST_LEN i) : Int)) →
    Answers (.admissionDecision id) s fun t =>
      t.reg (Reg.TWIN_SID_ROGUE i) = s.reg (Reg.TWIN_SID_ROGUE i) + 1 ∧ t.frame? id = none ∧ FramesKeep [id] s t ∧ t.net.sids = s.net.sids ∧ t.net.queues = s.net.queues ∧ Touches [.net] [whole (Reg.TWIN_SID_ROGUE i), F.TWIN_SID_INT_STATUS_CNT_OVF (i / 84)] s t) ∧
  (∀ (s : State) (id i n : Nat) (f : Frame), s.pwr.mainUp = true → s.frame? id = some f → f.phase = .looked → f.egress < 384 → f.queue < 16 → f.src ≤ 416 → f.tag = none → f.slices = [] → f.ended = true → f.policer = none → sidFind s (if (parse f.bytes (parseLen f.bytes f.ended)).tags = 0 then s.fld (F.FWD_PORT_CFG_PVID f.src) else (parse f.bytes (parseLen f.bytes f.ended)).vid) (beNat (slice f.bytes 0 6)) = some i → i < 256 → rtagSeq f.bytes = some n → n < 65536 → s.flag (F.TWIN_SID_STATE_TAKE_ANY i) = false → signed 16 ((n + 65536 - s.fld (F.TWIN_SID_STATE_RECOV_SEQ i)) % 65536) = 1 → 1 < s.fld (F.TWIN_SID_CFG_HIST_LEN i) → s.fld (F.TWIN_SID_CFG_HIST_LEN i) ≤ 32 →
    Answers (.admissionDecision id) s fun t =>
      t.reg (Reg.TWIN_SID_PASSED i) = s.reg (Reg.TWIN_SID_PASSED i) + 1 ∧ t.fld (F.TWIN_SID_STATE_RECOV_SEQ i) = n ∧ (t.sid i).hist = ((s.sid i).hist * 2 + 1) % 2 ^ s.fld (F.TWIN_SID_CFG_HIST_LEN i) ∧ (t.sid i).idle = 0 ∧
      t.reg (Reg.TWIN_SID_LOST i) = s.reg (Reg.TWIN_SID_LOST i) + (if (s.sid i).hist.testBit (s.fld (F.TWIN_SID_CFG_HIST_LEN i) - 1) then 0 else 1) ∧ FramesKeep [id] s t ∧ Within [.regs, .net, .tlm] s t) ∧
  (∀ (s : State) (id i n : Nat) (f : Frame), s.pwr.mainUp = true → s.frame? id = some f → f.phase = .looked → f.egress < 384 → f.queue < 16 → f.src ≤ 416 → f.tag = none → f.slices = [] → f.ended = true → f.policer = none → sidFind s (if (parse f.bytes (parseLen f.bytes f.ended)).tags = 0 then s.fld (F.FWD_PORT_CFG_PVID f.src) else (parse f.bytes (parseLen f.bytes f.ended)).vid) (beNat (slice f.bytes 0 6)) = some i → i < 256 → rtagSeq f.bytes = some n → n < 65536 → s.flag (F.TWIN_SID_STATE_TAKE_ANY i) = true →
    Answers (.admissionDecision id) s fun t =>
      t.fld (F.TWIN_SID_STATE_RECOV_SEQ i) = n ∧ (t.sid i).hist = 1 ∧ t.flag (F.TWIN_SID_STATE_TAKE_ANY i) = false ∧ FramesKeep [id] s t ∧ Within [.regs, .net, .tlm] s t) ∧
  (∀ (s : State) (i : Fin 256), s.pwr.mainUp = true →
    Answers .sidResetCheck s fun t =>
      (s.flag (F.TWIN_SID_CFG_VALID i) = true → 0 < s.fld (F.TWIN_SID_CFG_RESET_MS i) → s.fld (F.TWIN_SID_CFG_RESET_MS i) ≤ (s.sid i).idle + 1 →
        t.flag (F.TWIN_SID_STATE_TAKE_ANY i) = true ∧ t.reg (Reg.TWIN_SID_RESETS i) = s.reg (Reg.TWIN_SID_RESETS i) + 1) ∧
      (s.flag (F.TWIN_SID_CFG_VALID i) = true → (s.fld (F.TWIN_SID_CFG_RESET_MS i) = 0 ∨ (s.sid i).idle + 1 < s.fld (F.TWIN_SID_CFG_RESET_MS i)) →
        (t.sid i).idle = min ((s.sid i).idle + 1) 65536 ∧ t.reg (Reg.TWIN_SID_STATE i) = s.reg (Reg.TWIN_SID_STATE i) ∧ t.reg (Reg.TWIN_SID_RESETS i) = s.reg (Reg.TWIN_SID_RESETS i)) ∧
      (s.flag (F.TWIN_SID_CFG_VALID i) = false → t.sid i = s.sid i ∧ t.reg (Reg.TWIN_SID_RESETS i) = s.reg (Reg.TWIN_SID_RESETS i)) ∧
      t.net = { s.net with sids := t.net.sids } ∧ Within [.regs, .net] s t)

/-- The DMA engine (R478 to R481): a dump writes its block, header, time, listed words, into the next entry of the counter ring and then both pointers to the write-back address; with the ring full, or work held, it is skipped; while the function's Bus Master Enable is 0 the block is held and DMA_BLOCKED sets; a closed record goes to the tag ring likewise, is counted in TDROP where that is full, and waits
where the engine is blocked. Setting Bus Master Enable of the engine's function resumes what is held. Where the write-back address lies outside the block.
That SEQ counts the dump itself and a waiting dump keeps the words that it read is log 27, the order of the bytes in the host's memory log 4. -/
def Obligations.DumpsAndRecordsReachTheHost : Prop :=
  (∀ (s : State), s.pwr.mainUp = true → s.flag F.TLM_DMA_CTRL_DUMP_EN = true → s.flag F.TLM_DMA_CTRL_SNAP_EN = false → s.tlm.held = [] → ¬((s.fld F.TLM_DMA_CWR_WR + 1) % 2 ^ s.fld F.TLM_DMA_RING_CLOG2 = s.fld F.TLM_DMA_CRD_RD % 2 ^ s.fld F.TLM_DMA_RING_CLOG2) → (s.msix (s.fld F.TLM_DMA_CTRL_FUNC)).busMaster = true → (((s.reg64 Reg.TLM_DMA_CBASE_LO Reg.TLM_DMA_CBASE_HI / 4096 * 4096 + 4096 * (s.fld F.TLM_DMA_CWR_WR % 2 ^ s.fld F.TLM_DMA_RING_CLOG2)) % 2 ^ 64) + (64 + 4 * min 1008 (listWords s).length) ≤ (s.reg64 Reg.TLM_DMA_WB_LO Reg.TLM_DMA_WB_HI / 8 * 8) ∨ (s.reg64 Reg.TLM_DMA_WB_LO Reg.TLM_DMA_WB_HI / 8 * 8) + 8 ≤ ((s.reg64 Reg.TLM_DMA_CBASE_LO Reg.TLM_DMA_CBASE_HI / 4096 * 4096 + 4096 * (s.fld F.TLM_DMA_CWR_WR % 2 ^ s.fld F.TLM_DMA_RING_CLOG2)) % 2 ^ 64)) →
    Answers .dump s fun t =>
      t.hostBytes ((s.reg64 Reg.TLM_DMA_CBASE_LO Reg.TLM_DMA_CBASE_HI / 4096 * 4096 + 4096 * (s.fld F.TLM_DMA_CWR_WR % 2 ^ s.fld F.TLM_DMA_RING_CLOG2)) % 2 ^ 64) (64 + 4 * min 1008 (listWords s).length) = wordBytes ([BitVec.ofNat 32 ((s.tlm.dumps + 1) % 2 ^ 16 + (if 1008 < (listWords s).length then 2 ^ 16 else 0)), BitVec.ofNat 32 (min 1008 (listWords s).length)] ++ recordNow s ++ [BitVec.ofNat 32 (pclk s), BitVec.ofNat 32 (pclk s / 2 ^ 32), 0, 0, 0, 0, 0, 0, 0, 0] ++ (listWords s).take 1008) ∧ t.fld F.TLM_DMA_CWR_WR = (s.fld F.TLM_DMA_CWR_WR + 1) % 2 ^ s.fld F.TLM_DMA_RING_CLOG2 % 2 ^ 14 ∧ t.hostBytes (s.reg64 Reg.TLM_DMA_WB_LO Reg.TLM_DMA_WB_HI / 8 * 8) 8 = wordBytes [t.reg Reg.TLM_DMA_CWR, t.reg Reg.TLM_DMA_TWR] ∧ t.flag F.TLM_INT_STATUS_DUMP_DONE = true ∧ t.tlm = { s.tlm with dumps := s.tlm.dumps + 1 } ∧
      HostKeepTwo ((s.reg64 Reg.TLM_DMA_CBASE_LO Reg.TLM_DMA_CBASE_HI / 4096 * 4096 + 4096 * (s.fld F.TLM_DMA_CWR_WR % 2 ^ s.fld F.TLM_DMA_RING_CLOG2)) % 2 ^ 64) (64 + 4 * min 1008 (listWords s).length) (s.reg64 Reg.TLM_DMA_WB_LO Reg.TLM_DMA_WB_HI / 8 * 8) 8 s t ∧ Touches [.hostMem, .tlm] [F.TLM_DMA_CWR_WR, F.TLM_INT_STATUS_DUMP_DONE] s t) ∧
  (∀ (s : State), s.pwr.mainUp = true → s.flag F.TLM_DMA_CTRL_DUMP_EN = true → (s.tlm.held ≠ [] ∨ (s.fld F.TLM_DMA_CWR_WR + 1) % 2 ^ s.fld F.TLM_DMA_RING_CLOG2 = s.fld F.TLM_DMA_CRD_RD % 2 ^ s.fld F.TLM_DMA_RING_CLOG2) →
    Answers .dump s fun t =>
      t.reg Reg.TLM_DMA_SKIP = s.reg Reg.TLM_DMA_SKIP + 1 ∧ t.flag F.TLM_INT_STATUS_DUMP_SKIP = true ∧ Touches [] [whole Reg.TLM_DMA_SKIP, F.TLM_INT_STATUS_DUMP_SKIP, F.TLM_INT_STATUS_CNT_OVF] s t) ∧
  (∀ (s : State), s.pwr.mainUp = true → s.flag F.TLM_DMA_CTRL_DUMP_EN = true → s.flag F.TLM_DMA_CTRL_SNAP_EN = false → s.tlm.held = [] → ¬((s.fld F.TLM_DMA_CWR_WR + 1) % 2 ^ s.fld F.TLM_DMA_RING_CLOG2 = s.fld F.TLM_DMA_CRD_RD % 2 ^ s.fld F.TLM_DMA_RING_CLOG2) → (s.msix (s.fld F.TLM_DMA_CTRL_FUNC)).busMaster = false →
    Answers .dump s fun t =>
      t.tlm = { s.tlm with dumps := s.tlm.dumps + 1, held := ([BitVec.ofNat 32 ((s.tlm.dumps + 1) % 2 ^ 16 + (if 1008 < (listWords s).length then 2 ^ 16 else 0)), BitVec.ofNat 32 (min 1008 (listWords s).length)] ++ recordNow s ++ [BitVec.ofNat 32 (pclk s), BitVec.ofNat 32 (pclk s / 2 ^ 32), 0, 0, 0, 0, 0, 0, 0, 0] ++ (listWords s).take 1008) } ∧ t.flag F.TLM_INT_STATUS_DMA_BLOCKED = true ∧ Touches [.tlm] [F.TLM_INT_STATUS_DMA_BLOCKED] s t) ∧
  (∀ (s : State), s.pwr.mainUp = true → s.flag F.TLM_DMA_CTRL_DUMP_EN = true → s.flag F.TLM_DMA_CTRL_SNAP_EN = true → s.tlm.held = [] → ¬((s.fld F.TLM_DMA_CWR_WR + 1) % 2 ^ s.fld F.TLM_DMA_RING_CLOG2 = s.fld F.TLM_DMA_CRD_RD % 2 ^ s.fld F.TLM_DMA_RING_CLOG2) → (s.msix (s.fld F.TLM_DMA_CTRL_FUNC)).busMaster = false →
    Answers .dump s fun t =>
      (∀ p : Fin 24, ∀ i : Fin 12, t.reg (Reg.TLM_SNAP_CYCLES_LO p + i) = s.reg (Reg.TLM_SLOT_CYCLES_LO p + i)) ∧ [t.reg (Reg.TLM_SLOT_SNAP_TIME 0), t.reg (Reg.TLM_SLOT_SNAP_TIME 1), t.reg (Reg.TLM_SLOT_SNAP_TIME 2), t.reg (Reg.TLM_SLOT_SNAP_TIME 3)] = recordNow s ∧ t.flag F.TLM_SLOT_INT_STATUS_SNAP_DONE = true ∧ t.tlm.dumps = s.tlm.dumps + 1 ∧ t.tlm.held ≠ [] ∧ Touches [.tlm] (F.TLM_INT_STATUS_DMA_BLOCKED :: (((List.range 24).flatMap fun p => (List.range 12).map fun i => whole (Reg.TLM_SNAP_CYCLES_LO p + i)) ++ [whole (Reg.TLM_SLOT_SNAP_TIME 0), whole (Reg.TLM_SLOT_SNAP_TIME 1), whole (Reg.TLM_SLOT_SNAP_TIME 2), whole (Reg.TLM_SLOT_SNAP_TIME 3), F.TLM_SLOT_INT_STATUS_SNAP_DONE])) s t) ∧
  (∀ (s : State), s.pwr.mainUp = true → s.flag F.TLM_DMA_CTRL_DUMP_EN = false → Answers .dump s fun t => t = s) ∧
  (∀ (s : State) (r : Nat), s.pwr.mainUp = true → s.flag F.TLM_DMA_CTRL_TAG_EN = true → r ∈ s.tlm.closed → (s.msix (s.fld F.TLM_DMA_CTRL_FUNC)).busMaster = true → ¬((s.fld F.TLM_DMA_TWR_WR + 1) % 2 ^ s.fld F.TLM_DMA_RING_TLOG2 = s.fld F.TLM_DMA_TRD_RD % 2 ^ s.fld F.TLM_DMA_RING_TLOG2) → (((s.reg64 Reg.TLM_DMA_TBASE_LO Reg.TLM_DMA_TBASE_HI / 128 * 128 + 128 * (s.fld F.TLM_DMA_TWR_WR % 2 ^ s.fld F.TLM_DMA_RING_TLOG2)) % 2 ^ 64) + 128 ≤ (s.reg64 Reg.TLM_DMA_WB_LO Reg.TLM_DMA_WB_HI / 8 * 8) ∨ (s.reg64 Reg.TLM_DMA_WB_LO Reg.TLM_DMA_WB_HI / 8 * 8) + 8 ≤ ((s.reg64 Reg.TLM_DMA_TBASE_LO Reg.TLM_DMA_TBASE_HI / 128 * 128 + 128 * (s.fld F.TLM_DMA_TWR_WR % 2 ^ s.fld F.TLM_DMA_RING_TLOG2)) % 2 ^ 64)) →
    Answers (.tagRecordCopy r) s fun t =>
      t.hostBytes ((s.reg64 Reg.TLM_DMA_TBASE_LO Reg.TLM_DMA_TBASE_HI / 128 * 128 + 128 * (s.fld F.TLM_DMA_TWR_WR % 2 ^ s.fld F.TLM_DMA_RING_TLOG2)) % 2 ^ 64) 128 = (wordBytes ((List.range 32).map fun w => s.indw 8 (32 * r + w))) ∧ t.fld F.TLM_DMA_TWR_WR = (s.fld F.TLM_DMA_TWR_WR + 1) % 2 ^ s.fld F.TLM_DMA_RING_TLOG2 % 2 ^ 14 ∧ t.hostBytes (s.reg64 Reg.TLM_DMA_WB_LO Reg.TLM_DMA_WB_HI / 8 * 8) 8 = wordBytes [t.reg Reg.TLM_DMA_CWR, t.reg Reg.TLM_DMA_TWR] ∧ t.tlm = { s.tlm with closed := s.tlm.closed.filter (· ≠ r) } ∧ HostKeepTwo ((s.reg64 Reg.TLM_DMA_TBASE_LO Reg.TLM_DMA_TBASE_HI / 128 * 128 + 128 * (s.fld F.TLM_DMA_TWR_WR % 2 ^ s.fld F.TLM_DMA_RING_TLOG2)) % 2 ^ 64) 128 (s.reg64 Reg.TLM_DMA_WB_LO Reg.TLM_DMA_WB_HI / 8 * 8) 8 s t ∧
      Touches [.hostMem, .tlm] [F.TLM_DMA_TWR_WR] s t) ∧
  (∀ (s : State) (r : Nat), s.pwr.mainUp = true → s.flag F.TLM_DMA_CTRL_TAG_EN = true → r ∈ s.tlm.closed → (s.msix (s.fld F.TLM_DMA_CTRL_FUNC)).busMaster = true → (s.fld F.TLM_DMA_TWR_WR + 1) % 2 ^ s.fld F.TLM_DMA_RING_TLOG2 = s.fld F.TLM_DMA_TRD_RD % 2 ^ s.fld F.TLM_DMA_RING_TLOG2 →
    Answers (.tagRecordCopy r) s fun t =>
      t.reg Reg.TLM_DMA_TDROP = s.reg Reg.TLM_DMA_TDROP + 1 ∧ t.flag F.TLM_INT_STATUS_TAG_RING_FULL = true ∧ t.tlm = { s.tlm with closed := s.tlm.closed.filter (· ≠ r) } ∧
      Touches [.tlm] [whole Reg.TLM_DMA_TDROP, F.TLM_INT_STATUS_TAG_RING_FULL, F.TLM_INT_STATUS_CNT_OVF] s t) ∧
  (∀ (s : State) (r : Nat), s.pwr.mainUp = true → s.flag F.TLM_DMA_CTRL_TAG_EN = true → r ∈ s.tlm.closed → (s.msix (s.fld F.TLM_DMA_CTRL_FUNC)).busMaster = false →
    Answers (.tagRecordCopy r) s fun t =>
      t.tlm = { s.tlm with closed := s.tlm.closed.filter (· ≠ r), waiting := s.tlm.waiting ++ [r] } ∧ t.flag F.TLM_INT_STATUS_DMA_BLOCKED = true ∧ Touches [.tlm] [F.TLM_INT_STATUS_DMA_BLOCKED] s t) ∧
  (∀ (s : State) (r : Nat), s.pwr.mainUp = true → (s.flag F.TLM_DMA_CTRL_TAG_EN = false ∨ r ∉ s.tlm.closed) → Answers (.tagRecordCopy r) s fun t => t = s) ∧
  (∀ (s : State) (f : Fin 2) (w : Word) (ws : List Word), s.pwr.mainUp = true → (s.msix f).enable = false → s.fld F.TLM_DMA_CTRL_FUNC = f.val → s.tlm.held = w :: ws → s.tlm.waiting = [] →
      ws.length < 1024 → (((s.reg64 Reg.TLM_DMA_CBASE_LO Reg.TLM_DMA_CBASE_HI / 4096 * 4096 + 4096 * (s.fld F.TLM_DMA_CWR_WR % 2 ^ s.fld F.TLM_DMA_RING_CLOG2)) % 2 ^ 64) + 4 * (ws.length + 1) ≤ (s.reg64 Reg.TLM_DMA_WB_LO Reg.TLM_DMA_WB_HI / 8 * 8) ∨ (s.reg64 Reg.TLM_DMA_WB_LO Reg.TLM_DMA_WB_HI / 8 * 8) + 8 ≤ ((s.reg64 Reg.TLM_DMA_CBASE_LO Reg.TLM_DMA_CBASE_HI / 4096 * 4096 + 4096 * (s.fld F.TLM_DMA_CWR_WR % 2 ^ s.fld F.TLM_DMA_RING_CLOG2)) % 2 ^ 64)) →
    Answers (.dmaResume f) s fun t =>
      t.hostBytes ((s.reg64 Reg.TLM_DMA_CBASE_LO Reg.TLM_DMA_CBASE_HI / 4096 * 4096 + 4096 * (s.fld F.TLM_DMA_CWR_WR % 2 ^ s.fld F.TLM_DMA_RING_CLOG2)) % 2 ^ 64) (4 * (ws.length + 1)) = wordBytes (w :: ws) ∧ t.fld F.TLM_DMA_CWR_WR = (s.fld F.TLM_DMA_CWR_WR + 1) % 2 ^ s.fld F.TLM_DMA_RING_CLOG2 % 2 ^ 14 ∧ t.hostBytes (s.reg64 Reg.TLM_DMA_WB_LO Reg.TLM_DMA_WB_HI / 8 * 8) 8 = wordBytes [t.reg Reg.TLM_DMA_CWR, t.reg Reg.TLM_DMA_TWR] ∧ t.tlm = { s.tlm with held := [], waiting := [] } ∧ (t.msix f).busMaster = true ∧
      HostKeepTwo ((s.reg64 Reg.TLM_DMA_CBASE_LO Reg.TLM_DMA_CBASE_HI / 4096 * 4096 + 4096 * (s.fld F.TLM_DMA_CWR_WR % 2 ^ s.fld F.TLM_DMA_RING_CLOG2)) % 2 ^ 64) (4 * (ws.length + 1)) (s.reg64 Reg.TLM_DMA_WB_LO Reg.TLM_DMA_WB_HI / 8 * 8) 8 s t ∧ Touches [.hostMem, .tlm, .hst] [F.TLM_DMA_CWR_WR, F.TLM_INT_STATUS_DUMP_DONE] s t) ∧
  (∀ (s : State) (f : Fin 2) (r : Nat), s.pwr.mainUp = true → (s.msix f).enable = false → s.fld F.TLM_DMA_CTRL_FUNC = f.val → s.tlm.held = [] → s.tlm.waiting = [r] → ¬((s.fld F.TLM_DMA_TWR_WR + 1) % 2 ^ s.fld F.TLM_DMA_RING_TLOG2 = s.fld F.TLM_DMA_TRD_RD % 2 ^ s.fld F.TLM_DMA_RING_TLOG2) → (((s.reg64 Reg.TLM_DMA_TBASE_LO Reg.TLM_DMA_TBASE_HI / 128 * 128 + 128 * (s.fld F.TLM_DMA_TWR_WR % 2 ^ s.fld F.TLM_DMA_RING_TLOG2)) % 2 ^ 64) + 128 ≤ (s.reg64 Reg.TLM_DMA_WB_LO Reg.TLM_DMA_WB_HI / 8 * 8) ∨ (s.reg64 Reg.TLM_DMA_WB_LO Reg.TLM_DMA_WB_HI / 8 * 8) + 8 ≤ ((s.reg64 Reg.TLM_DMA_TBASE_LO Reg.TLM_DMA_TBASE_HI / 128 * 128 + 128 * (s.fld F.TLM_DMA_TWR_WR % 2 ^ s.fld F.TLM_DMA_RING_TLOG2)) % 2 ^ 64)) →
    Answers (.dmaResume f) s fun t =>
      t.hostBytes ((s.reg64 Reg.TLM_DMA_TBASE_LO Reg.TLM_DMA_TBASE_HI / 128 * 128 + 128 * (s.fld F.TLM_DMA_TWR_WR % 2 ^ s.fld F.TLM_DMA_RING_TLOG2)) % 2 ^ 64) 128 = (wordBytes ((List.range 32).map fun w => s.indw 8 (32 * r + w))) ∧ t.fld F.TLM_DMA_TWR_WR = (s.fld F.TLM_DMA_TWR_WR + 1) % 2 ^ s.fld F.TLM_DMA_RING_TLOG2 % 2 ^ 14 ∧ t.hostBytes (s.reg64 Reg.TLM_DMA_WB_LO Reg.TLM_DMA_WB_HI / 8 * 8) 8 = wordBytes [t.reg Reg.TLM_DMA_CWR, t.reg Reg.TLM_DMA_TWR] ∧ t.tlm = { s.tlm with held := [], waiting := [] } ∧ (t.msix f).busMaster = true ∧ HostKeepTwo ((s.reg64 Reg.TLM_DMA_TBASE_LO Reg.TLM_DMA_TBASE_HI / 128 * 128 + 128 * (s.fld F.TLM_DMA_TWR_WR % 2 ^ s.fld F.TLM_DMA_RING_TLOG2)) % 2 ^ 64) 128 (s.reg64 Reg.TLM_DMA_WB_LO Reg.TLM_DMA_WB_HI / 8 * 8) 8 s t ∧
      Touches [.hostMem, .tlm, .hst] [F.TLM_DMA_TWR_WR] s t) ∧
  (∀ (s : State) (f : Fin 2), s.pwr.mainUp = true → (s.msix f).enable = false → s.fld F.TLM_DMA_CTRL_FUNC ≠ f.val → (s.msix (s.fld F.TLM_DMA_CTRL_FUNC)).busMaster = false →
    Answers (.dmaResume f) s fun t => s.msix f = { t.msix f with busMaster := (s.msix f).busMaster } ∧ (t.msix f).busMaster = true ∧ t.tlm = s.tlm ∧ Within [.hst] s t)

/-- Sampling, slots and tags (R455, R456, R464 to R471, R472 to R474): with the PCLK cycles of a TCLK cycle on the empty queue (log 1) the event counters of cycles, the threshold counters above their level and, while EN is 1, the slot counters count; a walk writes its start record and one record per sampled queue in ascending order, resets the samples of a queue whose record was written, counts a full ring and an overrun; SNAP copies every slot counter with the time and CLEAR zeroes them, SNAP first where both are written; a waiting reload sets its event counter;
a tagged frame takes the next record, which holds the cycle and the FIFO fill of stage 1 and closes with its outcome; a frame that finds the record open is counted as a skip, and a second candidate of the same PCLK cycle neither takes a record nor counts.
That samples are reset only as their record is written is log 26, the SEQ of a tag and the passing of PCLK between commands log 27, the order of the bytes of ring records in the SRAM log 4. -/
def Obligations.SamplesSlotsAndTags : Prop :=
  (∀ (s : State) (k : Fin 64) (n : Nat), s.pending = [] → s.pwr.oclkUp = true → s.pwr.mainUp = true → s.tb.pend = none → s.tb.snaps = [] → n = ((s.clk.tclk + 1 - s.clk.mainAt) * 48 / 25 - (s.clk.tclk - s.clk.mainAt) * 48 / 25) → s.tlm.reload.getLsbD k = false → s.reg64 (Reg.TLM_EVT_LO k) (Reg.TLM_EVT_HI k) + n < 2 ^ 64 →
    ∃ t, step s = .next t ∧ t.reg64 (Reg.TLM_EVT_LO k) (Reg.TLM_EVT_HI k) = s.reg64 (Reg.TLM_EVT_LO k) (Reg.TLM_EVT_HI k) + (if s.fld (F.TLM_EVT_CFG_EVENT k) = 10 then n else 0)) ∧
  (∀ (s : State) (k : Fin 64) (n : Nat), s.pending = [] → s.pwr.oclkUp = true → s.pwr.mainUp = true → s.tb.pend = none → s.tb.snaps = [] → n = ((s.clk.tclk + 1 - s.clk.mainAt) * 48 / 25 - (s.clk.tclk - s.clk.mainAt) * 48 / 25) → 0 < n → s.tlm.reload.getLsbD k = false → s.fld (F.TLM_EVT_CFG_EVENT k) = 10 → s.reg64 (Reg.TLM_EVT_LO k) (Reg.TLM_EVT_HI k) + n = 2 ^ 64 →
    ∃ t, step s = .next t ∧ t.reg64 (Reg.TLM_EVT_LO k) (Reg.TLM_EVT_HI k) = 0 ∧ t.flag F.TLM_EVT_INT_STATUS_CNT_OVF = true ∧ t.tlm.reload.getLsbD k = s.flag (F.TLM_EVT_CFG_RELOAD k)) ∧
  (∀ (s : State) (k : Fin 256) (n : Nat), s.pending = [] → s.pwr.oclkUp = true → s.pwr.mainUp = true → s.tb.pend = none → s.tb.snaps = [] → n = ((s.clk.tclk + 1 - s.clk.mainAt) * 48 / 25 - (s.clk.tclk - s.clk.mainAt) * 48 / 25) →
    ∃ t, step s = .next t ∧ t.reg64 (Reg.TLM_THR_LO k) (Reg.TLM_THR_HI k) = (s.reg64 (Reg.TLM_THR_LO k) (Reg.TLM_THR_HI k) + (if s.fld (F.TLM_THR_CFG_SRC k) ≠ 0 ∧ s.fld (F.TLM_THR_N_N k) < thrOccupancy s k then n else 0)) % 2 ^ 64) ∧
  (∀ (s : State) (p : Fin 24) (n f u : Nat), s.pending = [] → s.pwr.oclkUp = true → s.pwr.mainUp = true → s.tb.pend = none → s.tb.snaps = [] → n = ((s.clk.tclk + 1 - s.clk.mainAt) * 48 / 25 - (s.clk.tclk - s.clk.mainAt) * 48 / 25) → s.flag F.TLM_SLOT_CMD_EN = true → u = ((smapGet noSlots s.tlm.slots p).take (2 * n)).length → f = ((smapGet noSlots s.tlm.slots p).take (2 * n)).count true →
    ∃ t, step s = .next t ∧ t.reg64 (Reg.TLM_SLOT_CYCLES_LO p) (Reg.TLM_SLOT_CYCLES_HI p) = (s.reg64 (Reg.TLM_SLOT_CYCLES_LO p) (Reg.TLM_SLOT_CYCLES_HI p) + n) % 2 ^ 64 ∧ t.reg64 (Reg.TLM_SLOT_FWD_LO p) (Reg.TLM_SLOT_FWD_HI p) = (s.reg64 (Reg.TLM_SLOT_FWD_LO p) (Reg.TLM_SLOT_FWD_HI p) + f) % 2 ^ 64 ∧ t.reg64 (Reg.TLM_SLOT_DISC_LO p) (Reg.TLM_SLOT_DISC_HI p) = (s.reg64 (Reg.TLM_SLOT_DISC_LO p) (Reg.TLM_SLOT_DISC_HI p) + (u - f)) % 2 ^ 64 ∧
      t.reg64 (Reg.TLM_SLOT_SB_LO p) (Reg.TLM_SLOT_SB_HI p) = (s.reg64 (Reg.TLM_SLOT_SB_LO p) (Reg.TLM_SLOT_SB_HI p) + if frameWaits s p then 2 * n - u else 0) % 2 ^ 64 ∧ t.reg64 (Reg.TLM_SLOT_SF_LO p) (Reg.TLM_SLOT_SF_HI p) = (s.reg64 (Reg.TLM_SLOT_SF_LO p) (Reg.TLM_SLOT_SF_HI p) + if frameWaits s p then 0 else 2 * n - u) % 2 ^ 64 ∧ smapGet noSlots t.tlm.slots p = (smapGet noSlots s.tlm.slots p).drop (2 * n)) ∧
  (∀ (s : State) (p : Fin 24) (n : Nat), s.pending = [] → s.pwr.oclkUp = true → s.pwr.mainUp = true → s.tb.pend = none → s.tb.snaps = [] → n = ((s.clk.tclk + 1 - s.clk.mainAt) * 48 / 25 - (s.clk.tclk - s.clk.mainAt) * 48 / 25) → s.flag F.TLM_SLOT_CMD_EN = false →
    ∃ t, step s = .next t ∧ (∀ i : Fin 12, t.reg (Reg.TLM_SLOT_CYCLES_LO p + i) = s.reg (Reg.TLM_SLOT_CYCLES_LO p + i)) ∧ smapGet noSlots t.tlm.slots p = (smapGet noSlots s.tlm.slots p).drop (2 * n)) ∧
  (∀ (s : State) (g : Nat), s.pwr.mainUp = true → SMapWf indReset s.ind → s.flag F.SCHD_SAMPLE_CTRL_EN = true → s.net.walk = none → ¬(((s.fld F.SCHD_SAMPLE_WR_WR % 2 ^ s.fld F.SCHD_SAMPLE_RING_LOG2) + 1) % 2 ^ s.fld F.SCHD_SAMPLE_RING_LOG2 = s.fld F.SCHD_SAMPLE_RD_RD % 2 ^ s.fld F.SCHD_SAMPLE_RING_LOG2) → 0 ≤ g → g < 6144 → bit (s.indw 7 (8 * g)) 1 = true → (∀ h : Fin 6144, 0 ≤ h.val → h.val < g → bit (s.indw 7 (8 * h)) 1 = false) →
    Answers .walkStart s fun t =>
      t.sramBytes (s.fld F.SCHD_SAMPLE_BASE_BASE / 64 * 64 + 32 * (s.fld F.SCHD_SAMPLE_WR_WR % 2 ^ s.fld F.SCHD_SAMPLE_RING_LOG2)) 32 = wordBytes ([BitVec.ofNat 32 (2 ^ 28 + (s.net.walks + 1) % 2 ^ 16), 0] ++ recordNow s ++ [0, 0]) ∧ t.fld F.SCHD_SAMPLE_WR_WR = ((s.fld F.SCHD_SAMPLE_WR_WR % 2 ^ s.fld F.SCHD_SAMPLE_RING_LOG2) + 1) % 2 ^ s.fld F.SCHD_SAMPLE_RING_LOG2 % 2 ^ 14 ∧ t.net = { s.net with walks := s.net.walks + 1, walk := some g } ∧ SramKeep (s.fld F.SCHD_SAMPLE_BASE_BASE / 64 * 64 + 32 * (s.fld F.SCHD_SAMPLE_WR_WR % 2 ^ s.fld F.SCHD_SAMPLE_RING_LOG2)) 32 s t ∧ Touches [.sram, .net] [F.SCHD_SAMPLE_WR_WR] s t) ∧
  (∀ (s : State), s.pwr.mainUp = true → SMapWf indReset s.ind → s.flag F.SCHD_SAMPLE_CTRL_EN = true → s.net.walk = none → ((s.fld F.SCHD_SAMPLE_WR_WR % 2 ^ s.fld F.SCHD_SAMPLE_RING_LOG2) + 1) % 2 ^ s.fld F.SCHD_SAMPLE_RING_LOG2 = s.fld F.SCHD_SAMPLE_RD_RD % 2 ^ s.fld F.SCHD_SAMPLE_RING_LOG2 → (∀ h : Fin 6144, 0 ≤ h.val → bit (s.indw 7 (8 * h)) 1 = false) →
    Answers .walkStart s fun t =>
      t.reg Reg.SCHD_SAMPLE_DROP = s.reg Reg.SCHD_SAMPLE_DROP + 1 ∧ t.flag F.SCHD_INT_STATUS_RING_FULL = true ∧ t.flag F.SCHD_INT_STATUS_WALK_DONE = true ∧
      t.net = { s.net with walks := s.net.walks + 1, walk := none } ∧
      Touches [.net] [whole Reg.SCHD_SAMPLE_DROP, F.SCHD_INT_STATUS_RING_FULL, F.SCHD_INT_STATUS_WALK_DONE, F.SCHD_INT_STATUS_CNT_OVF] s t) ∧
  (∀ (s : State), s.pwr.mainUp = true → s.flag F.SCHD_SAMPLE_CTRL_EN = true → s.net.walk ≠ none →
    Answers .walkStart s fun t =>
      t.reg Reg.SCHD_SAMPLE_OVERRUN = s.reg Reg.SCHD_SAMPLE_OVERRUN + 1 ∧ t.flag F.SCHD_INT_STATUS_SAMPLE_OVERRUN = true ∧
      Touches [] [whole Reg.SCHD_SAMPLE_OVERRUN, F.SCHD_INT_STATUS_SAMPLE_OVERRUN, F.SCHD_INT_STATUS_CNT_OVF] s t) ∧
  (∀ (s : State), s.pwr.mainUp = true → s.flag F.SCHD_SAMPLE_CTRL_EN = false → Answers .walkStart s fun t => t = s) ∧
  (∀ (s : State) (i g : Nat), s.pwr.mainUp = true → SMapWf indReset s.ind → s.net.walk = some i → ¬(((s.fld F.SCHD_SAMPLE_WR_WR % 2 ^ s.fld F.SCHD_SAMPLE_RING_LOG2) + 1) % 2 ^ s.fld F.SCHD_SAMPLE_RING_LOG2 = s.fld F.SCHD_SAMPLE_RD_RD % 2 ^ s.fld F.SCHD_SAMPLE_RING_LOG2) → i ≤ g → g < 6144 → bit (s.indw 7 (8 * g)) 1 = true → (∀ h : Fin 6144, i ≤ h.val → h.val < g → bit (s.indw 7 (8 * h)) 1 = false) → (∀ h : Fin 6144, g + 1 ≤ h.val → bit (s.indw 7 (8 * h)) 1 = false) → s.queue g = [] →
    Answers .sampleQueueRecord s fun t =>
      t.sramBytes (s.fld F.SCHD_SAMPLE_BASE_BASE / 64 * 64 + 32 * (s.fld F.SCHD_SAMPLE_WR_WR % 2 ^ s.fld F.SCHD_SAMPLE_RING_LOG2)) 32 = wordBytes [BitVec.ofNat 32 (2 ^ 29 + g + (if (s.sample g).sat ∨ (s.sample g).last = 2 ^ 24 - 1 then 2 ^ 13 else 0)), BitVec.ofNat 32 (s.fld (F.BUF_Q_OCC_SLICES g)), BitVec.ofNat 32 (s.sample g).last, BitVec.ofNat 32 (s.sample g).max, BitVec.ofNat 32 (s.sample g).deq, 0, 0, 0] ∧ t.fld F.SCHD_SAMPLE_WR_WR = ((s.fld F.SCHD_SAMPLE_WR_WR % 2 ^ s.fld F.SCHD_SAMPLE_RING_LOG2) + 1) % 2 ^ s.fld F.SCHD_SAMPLE_RING_LOG2 % 2 ^ 14 ∧ t.sample g = { s.sample g with max := 0, sat := false, deq := 0 } ∧ t.net.walk = none ∧ t.flag F.SCHD_INT_STATUS_WALK_DONE = true ∧
      t.net = { s.net with walk := none, samples := t.net.samples } ∧ SramKeep (s.fld F.SCHD_SAMPLE_BASE_BASE / 64 * 64 + 32 * (s.fld F.SCHD_SAMPLE_WR_WR % 2 ^ s.fld F.SCHD_SAMPLE_RING_LOG2)) 32 s t ∧ Touches [.sram, .net] [F.SCHD_SAMPLE_WR_WR, F.SCHD_INT_STATUS_WALK_DONE] s t) ∧
  (∀ (s : State) (i g h : Nat), s.pwr.mainUp = true → SMapWf indReset s.ind → s.net.walk = some i → ((s.fld F.SCHD_SAMPLE_WR_WR % 2 ^ s.fld F.SCHD_SAMPLE_RING_LOG2) + 1) % 2 ^ s.fld F.SCHD_SAMPLE_RING_LOG2 = s.fld F.SCHD_SAMPLE_RD_RD % 2 ^ s.fld F.SCHD_SAMPLE_RING_LOG2 → i ≤ g → g < 6144 → bit (s.indw 7 (8 * g)) 1 = true → (∀ h : Fin 6144, i ≤ h.val → h.val < g → bit (s.indw 7 (8 * h)) 1 = false) → g + 1 ≤ h → h < 6144 → bit (s.indw 7 (8 * h)) 1 = true → (∀ x : Fin 6144, g + 1 ≤ x.val → x.val < h → bit (s.indw 7 (8 * x)) 1 = false) →
    Answers .sampleQueueRecord s fun t =>
      t.reg Reg.SCHD_SAMPLE_DROP = s.reg Reg.SCHD_SAMPLE_DROP + 1 ∧ t.flag F.SCHD_INT_STATUS_RING_FULL = true ∧ t.net = { s.net with walk := some h } ∧
      Touches [.net] [whole Reg.SCHD_SAMPLE_DROP, F.SCHD_INT_STATUS_RING_FULL, F.SCHD_INT_STATUS_CNT_OVF] s t) ∧
  (∀ (s : State), s.pwr.mainUp = true → s.net.walk = none → Answers .sampleQueueRecord s fun t => t = s) ∧
  (∀ (s : State) (k : Fin 64), s.pwr.mainUp = true → s.tlm.reload.getLsbD k = true →
    Answers (.evtCounterReload k) s fun t =>
      t.reg64 (Reg.TLM_EVT_LO k) (Reg.TLM_EVT_HI k) = s.reg64 (Reg.TLM_EVT_RELOAD_LO k) (Reg.TLM_EVT_RELOAD_HI k) ∧
      (∀ j : Fin 64, t.tlm.reload.getLsbD j = (s.tlm.reload.getLsbD j && decide (j ≠ k))) ∧ t.tlm = { s.tlm with reload := t.tlm.reload } ∧
      Touches [.tlm] (pair (Reg.TLM_EVT_LO k)) s t) ∧
  (∀ (s : State) (k : Fin 64), s.pwr.mainUp = true → s.tlm.reload.getLsbD k = false → Answers (.evtCounterReload k) s fun t => t = s) ∧
  (∀ (s : State) (ag : Agent) (d : Word), s.pwr.mainUp = true → pf1Denied ag Reg.TLM_SLOT_CMD s = false → d.getLsbD 1 = false → d.getLsbD 2 = false →
    Answers (.slotEnWrite ag d) s fun t => t.flag F.TLM_SLOT_CMD_EN = d.getLsbD 0 ∧ Touches [] [whole Reg.TLM_SLOT_CMD] s t) ∧
  (∀ (s : State) (ag : Agent) (d : Word), s.pwr.mainUp = true → pf1Denied ag Reg.TLM_SLOT_CMD s = false → d.getLsbD 2 = false →
    Answers (.slotSnap ag d) s fun t =>
      (∀ p : Fin 24, ∀ i : Fin 12, t.reg (Reg.TLM_SNAP_CYCLES_LO p + i) = s.reg (Reg.TLM_SLOT_CYCLES_LO p + i)) ∧ [t.reg (Reg.TLM_SLOT_SNAP_TIME 0), t.reg (Reg.TLM_SLOT_SNAP_TIME 1), t.reg (Reg.TLM_SLOT_SNAP_TIME 2), t.reg (Reg.TLM_SLOT_SNAP_TIME 3)] = recordNow s ∧ t.flag F.TLM_SLOT_INT_STATUS_SNAP_DONE = true ∧ t.flag F.TLM_SLOT_CMD_EN = d.getLsbD 0 ∧ Touches [] (whole Reg.TLM_SLOT_CMD :: (((List.range 24).flatMap fun p => (List.range 12).map fun i => whole (Reg.TLM_SNAP_CYCLES_LO p + i)) ++ [whole (Reg.TLM_SLOT_SNAP_TIME 0), whole (Reg.TLM_SLOT_SNAP_TIME 1), whole (Reg.TLM_SLOT_SNAP_TIME 2), whole (Reg.TLM_SLOT_SNAP_TIME 3), F.TLM_SLOT_INT_STATUS_SNAP_DONE])) s t) ∧
  (∀ (s : State) (ag : Agent) (d : Word), s.pwr.mainUp = true → pf1Denied ag Reg.TLM_SLOT_CMD s = false → d.getLsbD 1 = false →
    Answers (.slotClear ag d) s fun t => (∀ p : Fin 24, ∀ i : Fin 12, t.reg (Reg.TLM_SLOT_CYCLES_LO p + i) = 0) ∧ t.flag F.TLM_SLOT_CMD_EN = d.getLsbD 0 ∧ Touches [] (whole Reg.TLM_SLOT_CMD :: (((List.range 24).flatMap fun p => (List.range 12).map fun i => whole (Reg.TLM_SLOT_CYCLES_LO p + i)))) s t) ∧
  (∀ (s : State) (ag : Agent) (d : Word), s.pwr.mainUp = true → pf1Denied ag Reg.TLM_SLOT_CMD s = false → d.getLsbD 1 = true →
    Answers (.slotClear ag d) s fun t => (∀ p : Fin 24, ∀ i : Fin 12, t.reg (Reg.TLM_SNAP_CYCLES_LO p + i) = s.reg (Reg.TLM_SLOT_CYCLES_LO p + i)) ∧ (∀ p : Fin 24, ∀ i : Fin 12, t.reg (Reg.TLM_SLOT_CYCLES_LO p + i) = 0) ∧ [t.reg (Reg.TLM_SLOT_SNAP_TIME 0), t.reg (Reg.TLM_SLOT_SNAP_TIME 1), t.reg (Reg.TLM_SLOT_SNAP_TIME 2), t.reg (Reg.TLM_SLOT_SNAP_TIME 3)] = recordNow s ∧ Touches [] (whole Reg.TLM_SLOT_CMD :: (((List.range 24).flatMap fun p => (List.range 12).map fun i => whole (Reg.TLM_SLOT_CYCLES_LO p + i)) ++ (((List.range 24).flatMap fun p => (List.range 12).map fun i => whole (Reg.TLM_SNAP_CYCLES_LO p + i)) ++ [whole (Reg.TLM_SLOT_SNAP_TIME 0), whole (Reg.TLM_SLOT_SNAP_TIME 1), whole (Reg.TLM_SLOT_SNAP_TIME 2), whole (Reg.TLM_SLOT_SNAP_TIME 3), F.TLM_SLOT_INT_STATUS_SNAP_DONE]))) s t) ∧
  (∀ (s : State) (src : Fin 416) (id : Nat) (bs : List Byte) (arr : Arrival), s.pwr.mainUp = true → portUp s src = true → frameComes s src bs = true → s.frame? id = none → src.val < 384 → half bs 12 ≠ 0x8808 → 64 ≤ bs.length →
      bs.length ≤ s.fld (F.PORT_MAX_FRAME_BYTES src) → fcsOk bs = true → s.flag F.TLM_TAG_CTRL_EN = true → s.fld F.TLM_TAG_CTRL_PORT_SEL = 511 → s.fld F.TLM_TAG_CTRL_RATE_LOG2 = 0 → s.tlm.tagAt ≠ some (pclk s) → s.fld F.TLM_TAG_STATUS_NEXT ∉ s.tlm.opened →
    Answers (.macFrameReceive src id bs false arr) s fun t =>
      (t.frame? id).map (·.tag) = some (some (s.fld F.TLM_TAG_STATUS_NEXT)) ∧ t.tlm.opened = s.tlm.opened ++ [s.fld F.TLM_TAG_STATUS_NEXT] ∧ t.tlm.seq = s.tlm.seq + 1 ∧ t.fld F.TLM_TAG_STATUS_NEXT = (s.fld F.TLM_TAG_STATUS_NEXT + 1) % 1024 ∧
      t.reg64 Reg.TLM_TAG_COUNT_LO Reg.TLM_TAG_COUNT_HI = (s.reg64 Reg.TLM_TAG_COUNT_LO Reg.TLM_TAG_COUNT_HI + 1) % 2 ^ 64 ∧ bits (t.indw 8 (32 * s.fld F.TLM_TAG_STATUS_NEXT)) 0 16 = (s.tlm.seq + 1) % 2 ^ 16 ∧ bits (t.indw 8 (32 * s.fld F.TLM_TAG_STATUS_NEXT)) 16 7 = 16 ∧
      t.indw 8 (32 * s.fld F.TLM_TAG_STATUS_NEXT + 4) = BitVec.ofNat 32 (pclk s - arr.slice) ∧ t.indw 8 (32 * s.fld F.TLM_TAG_STATUS_NEXT + 5) = BitVec.ofNat 32 ((pclk s - arr.slice) / 2 ^ 32 % 2 ^ 16 + arr.fill.toNat * 2 ^ 16 + 2 ^ 31) ∧
      FramesKeep [id] s t ∧ Within [.regs, .ind, .net, .tlm] s t) ∧
  (∀ (s : State) (src : Fin 416) (id : Nat) (bs : List Byte) (arr : Arrival), s.pwr.mainUp = true → portUp s src = true → frameComes s src bs = true → s.frame? id = none → src.val < 384 → half bs 12 ≠ 0x8808 → 64 ≤ bs.length →
      bs.length ≤ s.fld (F.PORT_MAX_FRAME_BYTES src) → fcsOk bs = true → s.flag F.TLM_TAG_CTRL_EN = true → s.fld F.TLM_TAG_CTRL_PORT_SEL = 511 → s.fld F.TLM_TAG_CTRL_RATE_LOG2 = 0 → s.tlm.tagAt ≠ some (pclk s) → s.fld F.TLM_TAG_STATUS_NEXT ∈ s.tlm.opened →
    Answers (.macFrameReceive src id bs false arr) s fun t =>
      (t.frame? id).map (·.tag) = some none ∧ t.reg Reg.TLM_TAG_SKIP = s.reg Reg.TLM_TAG_SKIP + 1 ∧ t.flag F.TLM_INT_STATUS_TAG_SKIP = true ∧ t.tlm.opened = s.tlm.opened ∧ t.tlm.seq = s.tlm.seq ∧
      t.fld F.TLM_TAG_STATUS_NEXT = s.fld F.TLM_TAG_STATUS_NEXT ∧ FramesKeep [id] s t ∧ Within [.regs, .net, .tlm] s t) ∧
  (∀ (s : State) (src : Fin 416) (id : Nat) (bs : List Byte) (arr : Arrival), s.pwr.mainUp = true → portUp s src = true → frameComes s src bs = true → s.frame? id = none → src.val < 384 → half bs 12 ≠ 0x8808 → 64 ≤ bs.length →
      bs.length ≤ s.fld (F.PORT_MAX_FRAME_BYTES src) → fcsOk bs = true → s.flag F.TLM_TAG_CTRL_EN = true → s.tlm.tagAt = some (pclk s) →
    Answers (.macFrameReceive src id bs false arr) s fun t =>
      (t.frame? id).map (·.tag) = some none ∧ t.reg Reg.TLM_TAG_SKIP = s.reg Reg.TLM_TAG_SKIP ∧ t.tlm.opened = s.tlm.opened ∧ t.tlm.seq = s.tlm.seq ∧ t.fld F.TLM_TAG_STATUS_NEXT = s.fld F.TLM_TAG_STATUS_NEXT ∧
      FramesKeep [id] s t ∧ Within [.regs, .net, .tlm] s t) ∧
  (∀ (s : State) (id r : Nat) (f : Frame), s.pwr.mainUp = true → s.frame? id = some f → f.phase = .handed → f.ended = true → f.tag = some r → r < 1024 → f.trap = none → f.slices = [] → f.egress < 384 → f.txRec = none →
      f.bad = none → r ∈ s.tlm.opened →
    Answers (.frameTransmitEnd id false) s fun t =>
      bits (t.indw 8 (32 * r)) 16 4 = 1 ∧ t.tlm.opened = s.tlm.opened.filter (· ≠ r) ∧ t.tlm.closed = (if s.flag F.TLM_DMA_CTRL_TAG_EN then s.tlm.closed ++ [r] else s.tlm.closed) ∧
      t.frame? id = none ∧ IndKeep ((List.range 32).map fun w => (8, 32 * r + w)) s t ∧ Within [.regs, .ind, .net, .tlm] s t)

/-- Links (R486 to R495, R505, R506, R508, R509, R513, R514): a usable link whose lane carries what it is offered (R146, R149) sends HELLO and SYNC frames of the stated bytes; a frame with an error is discarded and counted in FRAME_ERR, a HELLO of another pair or stack too, with ID_MISMATCH; a valid one is counted and ends SILENT; the peer's role is shown; a member takes the position after its upstream neighbour's, 7 at most; a SYNC goes ahead of the frames that wait; an idle word, the start word and the end word are the characters of R487; an exchange gives O and D, or is counted in
SYNC_DISCARD; a follower stores a STATE frame as its received image; a link fails its checks as its HELLO or its SYNC sample lapses; the image ages with each twin cycle; the cross-check raises class 17 after COUNT failing windows; IMAGE_LOAD seeds the loop or is refused.
That SEQ starts at 1, a difference of an exchange is rounded down, the stamps of Plahus frames and a window of fewer than 100 samples that breaks no run are log 28. -/
def Obligations.LinksAndImages : Prop :=
  (∀ (s : State) (k : Fin 3), s.pwr.mainUp = true → linkUsable s k = true → (k.val = 2 → s.flag F.TWIN_STACK_STATUS_POS_VALID = true) →
    Answers (.helloSend k) s fun t => (laneCarries s (laneAt (768 + linkLane s k)) = true → (t.link k).sent = ([1] ++ (beBytes 2 (if k.val = 0 then s.fld F.TWIN_PAIR_CFG_PAIR_ID else s.fld F.TWIN_STACK_CFG_STACK_ID) ++ [BitVec.ofNat 8 (s.fld F.TWIN_LIVE_ROLE), BitVec.ofNat 8 ((if s.flag F.TWIN_PAIR_CFG_PREF then 1 else 0) + (if s.flag F.TWIN_STACK_CFG_EN && s.flag F.TWIN_STACK_CFG_MASTER then 2 else 0) + (if s.flag F.TWIN_LIVE_YIELDING then 4 else 0) + tbFormat s * 8), BitVec.ofNat 8 (if s.flag F.TWIN_STACK_CFG_EN && s.flag F.TWIN_STACK_CFG_MASTER then 0 else s.fld F.TWIN_STACK_STATUS_POS), BitVec.ofNat 8 (s.fld F.TBASE_LIVE_EPOCH), 0, 0] ++ beBytes 8 (s.reg64 Reg.TWIN_CLOCK_ID_LO Reg.TWIN_CLOCK_ID_HI) ++ sumBytes s.twin.stepSum)) ++ leBytes 4 (crc32c ([1] ++ (beBytes 2 (if k.val = 0 then s.fld F.TWIN_PAIR_CFG_PAIR_ID else s.fld F.TWIN_STACK_CFG_STACK_ID) ++ [BitVec.ofNat 8 (s.fld F.TWIN_LIVE_ROLE), BitVec.ofNat 8 ((if s.flag F.TWIN_PAIR_CFG_PREF then 1 else 0) + (if s.flag F.TWIN_STACK_CFG_EN && s.flag F.TWIN_STACK_CFG_MASTER then 2 else 0) + (if s.flag F.TWIN_LIVE_YIELDING then 4 else 0) + tbFormat s * 8), BitVec.ofNat 8 (if s.flag F.TWIN_STACK_CFG_EN && s.flag F.TWIN_STACK_CFG_MASTER then 0 else s.fld F.TWIN_STACK_STATUS_POS), BitVec.ofNat 8 (s.fld F.TBASE_LIVE_EPOCH), 0, 0] ++ beBytes 8 (s.reg64 Reg.TWIN_CLOCK_ID_LO Reg.TWIN_CLOCK_ID_HI) ++ sumBytes s.twin.stepSum))).toNat ∧ (t.lane (768 + linkLane s k)).line = lineWith (wordIndex s (.aux (linkAux s k))) (t.link k).sent (s.lane (768 + linkLane s k)).line) ∧ (laneCarries s (laneAt (768 + linkLane s k)) = false → (t.link k).sent = (s.link k).sent) ∧ (∀ l : Fin 3, l ≠ k → t.link l = s.link l) ∧ t.twin = { s.twin with links := t.twin.links } ∧
      (∀ m : Nat, m ≠ 768 + linkLane s k → t.lane m = s.lane m) ∧ Within [.twin, .lanes] s t) ∧
  (∀ (s : State) (k : Fin 3), s.pwr.mainUp = true → (linkUsable s k = false ∨ (k.val = 2 ∧ s.flag F.TWIN_STACK_STATUS_POS_VALID = false)) → Answers (.helloSend k) s fun t => t = s) ∧
  (∀ (s : State) (k : Fin 3) (j : Nat), s.pwr.mainUp = true → linkUsable s k = true →
    Answers (.syncSend k j) s fun t =>
      (laneCarries s (laneAt (768 + linkLane s k)) = true → (t.link k).sent = ([2] ++ (beBytes 2 (((s.link k).seq + 1) % 65536) ++ beBytes 2 ((s.link k).rx.getD (0, [0, 0, 0, 0])).1 ++ recBytes (syncSent k j s) ++ recBytes ((s.link k).rx.getD (0, [0, 0, 0, 0])).2 ++ sumBytes s.twin.stepSum ++ beBytes 4 (s.reg (Reg.TWIN_LNK_OFFSET k)).toNat)) ++ leBytes 4 (crc32c ([2] ++ (beBytes 2 (((s.link k).seq + 1) % 65536) ++ beBytes 2 ((s.link k).rx.getD (0, [0, 0, 0, 0])).1 ++ recBytes (syncSent k j s) ++ recBytes ((s.link k).rx.getD (0, [0, 0, 0, 0])).2 ++ sumBytes s.twin.stepSum ++ beBytes 4 (s.reg (Reg.TWIN_LNK_OFFSET k)).toNat))).toNat) ∧ (laneCarries s (laneAt (768 + linkLane s k)) = false → (t.link k).sent = (s.link k).sent) ∧ (t.link k).seq = ((s.link k).seq + 1) % 65536 ∧ (t.link k).txs = ((((s.link k).seq + 1) % 65536, syncSent k j s) :: (s.link k).txs).take 2 ∧ (∀ l : Fin 3, l ≠ k → t.link l = s.link l) ∧
      t.twin = { s.twin with links := t.twin.links } ∧ Within [.twin, .lanes] s t) ∧
  (∀ (s : State) (k : Fin 3) (j a b : Nat) (f1 f2 : List Byte), s.pwr.mainUp = true → linkUsable s k = true → laneCarries s (laneAt (768 + linkLane s k)) = true → (s.lane (768 + linkLane s k)).line = [(a, f1), (b, f2)] → a ≤ wordIndex s (.aux (linkAux s k)) →
      wordIndex s (.aux (linkAux s k)) < a + lineWords f1 → wordIndex s (.aux (linkAux s k)) < b → nth 0 f2 0 ≠ 2 →
    Answers (.syncSend k j) s fun t =>
      (t.lane (768 + linkLane s k)).line = [(a, f1), (a + lineWords f1 + 1, (t.link k).sent), (a + lineWords f1 + 32, f2)] ∧ Within [.twin, .lanes] s t) ∧
  (∀ (s : State) (m : Fin 32) (a n : Nat) (bs : List Byte), (s.lane (768 + m)).mode = 1 → s.fld (F.ALN_PRBS_CTRL_GEN_PAT m) = 0 → (s.lane (768 + m)).line = [(a, bs)] → (n < a ∨ a + (bs.length - 1) / 2 + 2 ≤ n) →
    formedWord s (.aux m) a = (encodeWord 0x1FB (nth 0 bs 0).toNat (encoderPlus s m a)).1 ∧
    formedWord s (.aux m) (a + (bs.length - 1) / 2 + 1) = (encodeWord 0x1FD 0xB5 (encoderPlus s m (a + (bs.length - 1) / 2 + 1))).1 ∧
    formedWord s (.aux m) n = (encodeWord 0x1BC 0x50 (encoderPlus s m n)).1) ∧
  (∀ (s : State) (k : Fin 3) (j : Nat) (ago : Nat) (bs : List Byte) (e : Bool) (c : Instr), s.pwr.mainUp = true → linkHears s k bs = true → plahusOk bs e = false →
      c ∈ [Instr.helloReceive k bs e, .syncReceive k bs e j ago, .stateReceive k bs e, .prepare k bs e, .ready k bs e, .refuse k bs e, .xstepCommit k bs e, .xstepAbort k bs e] →
    Answers c s fun t => t.reg (Reg.TWIN_LNK_FRAME_ERR k) = s.reg (Reg.TWIN_LNK_FRAME_ERR k) + 1 ∧ Touches [] [whole (Reg.TWIN_LNK_FRAME_ERR k), F.TWIN_LNK_INT_STATUS_CNT_OVF] s t) ∧
  (∀ (s : State) (k : Fin 3) (bs : List Byte), s.pwr.mainUp = true → linkHears s k bs = true → plahusOk bs false = true → byteAt bs 0 = 1 → ¬(half bs 1 = (if k.val = 0 then s.fld F.TWIN_PAIR_CFG_PAIR_ID else s.fld F.TWIN_STACK_CFG_STACK_ID)) →
    Answers (.helloReceive k bs false) s fun t => t.reg (Reg.TWIN_LNK_FRAME_ERR k) = s.reg (Reg.TWIN_LNK_FRAME_ERR k) + 1 ∧ t.flag F.TWIN_INT_STATUS_ID_MISMATCH = true ∧ Touches [] ([whole (Reg.TWIN_LNK_FRAME_ERR k), F.TWIN_LNK_INT_STATUS_CNT_OVF] ++ [F.TWIN_INT_STATUS_ID_MISMATCH]) s t) ∧
  (∀ (s : State) (k : Fin 3) (bs : List Byte), s.pwr.mainUp = true → linkHears s k bs = true → plahusOk bs false = true → byteAt bs 0 = 1 → half bs 1 = (if k.val = 0 then s.fld F.TWIN_PAIR_CFG_PAIR_ID else s.fld F.TWIN_STACK_CFG_STACK_ID) → k.val = 0 → ¬((byteAt bs 4).testBit 1 = true ∧ (s.flag F.TWIN_STACK_CFG_EN && s.flag F.TWIN_STACK_CFG_MASTER) = true) →
    Answers (.helloReceive k bs false) s fun t =>
      t.reg64 (Reg.TWIN_LNK_RX_FRAMES_LO k) (Reg.TWIN_LNK_RX_FRAMES_HI k) = (s.reg64 (Reg.TWIN_LNK_RX_FRAMES_LO k) (Reg.TWIN_LNK_RX_FRAMES_HI k) + 1) % 2 ^ 64 ∧ t.flag (F.TWIN_LNK_STATUS_SILENT k) = false ∧ (t.link k).hello = true ∧ (t.link k).fmt = byteAt bs 4 / 8 % 4 ∧ (t.link k).pref = some ((byteAt bs 4).testBit 0) ∧ t.fld F.TWIN_LIVE_PEER_ROLE = byteAt bs 3 % 8 ∧
      t.reg64 Reg.TWIN_PEER_ID_LO Reg.TWIN_PEER_ID_HI = beNat (slice bs 9 8) ∧ t.fld (F.TWIN_LNK_STATUS_PEER_HOP k) = byteAt bs 5 % 8 ∧ (∀ l : Fin 3, l ≠ k → t.link l = s.link l) ∧ Within [.regs, .loop, .twin] s t) ∧
  (∀ (s : State) (k : Fin 3) (bs : List Byte), s.pwr.mainUp = true → linkHears s k bs = true → plahusOk bs false = true → byteAt bs 0 = 1 → half bs 1 = (if k.val = 0 then s.fld F.TWIN_PAIR_CFG_PAIR_ID else s.fld F.TWIN_STACK_CFG_STACK_ID) → k.val = 1 → (s.flag F.TWIN_STACK_CFG_EN && s.flag F.TWIN_STACK_CFG_MASTER) = false → byteAt bs 5 ≤ 6 →
    Answers (.helloReceive k bs false) s fun t =>
      t.reg64 (Reg.TWIN_LNK_RX_FRAMES_LO k) (Reg.TWIN_LNK_RX_FRAMES_HI k) = (s.reg64 (Reg.TWIN_LNK_RX_FRAMES_LO k) (Reg.TWIN_LNK_RX_FRAMES_HI k) + 1) % 2 ^ 64 ∧ t.flag (F.TWIN_LNK_STATUS_SILENT k) = false ∧ t.fld F.TWIN_STACK_STATUS_POS = byteAt bs 5 + 1 ∧ t.flag F.TWIN_STACK_STATUS_POS_VALID = true ∧ (t.link k).hello = true ∧
      t.flag F.TWIN_STK_INT_STATUS_STACK_UP = (s.flag F.TWIN_STK_INT_STATUS_STACK_UP || !s.flag F.TWIN_STACK_STATUS_POS_VALID || decide (s.fld F.TWIN_STACK_STATUS_POS ≠ byteAt bs 5 + 1)) ∧
      (∀ l : Fin 3, l ≠ k → t.link l = s.link l) ∧ Touches [.twin] (pair (Reg.TWIN_LNK_RX_FRAMES_LO k) ++ [F.TWIN_LNK_STATUS_SILENT k, F.TWIN_LNK_INT_STATUS_CNT_OVF] ++ [F.TWIN_LNK_STATUS_PEER_HOP k, F.TWIN_LNK_STATUS_OK k, F.TWIN_STACK_STATUS_POS, F.TWIN_STACK_STATUS_POS_VALID, F.TWIN_STK_INT_STATUS_STACK_UP]) s t) ∧
  (∀ (s : State) (k : Fin 3) (bs : List Byte), s.pwr.mainUp = true → linkHears s k bs = true → plahusOk bs false = true → byteAt bs 0 = 1 → half bs 1 = (if k.val = 0 then s.fld F.TWIN_PAIR_CFG_PAIR_ID else s.fld F.TWIN_STACK_CFG_STACK_ID) → k.val = 1 → (s.flag F.TWIN_STACK_CFG_EN && s.flag F.TWIN_STACK_CFG_MASTER) = false → 6 < byteAt bs 5 →
    Answers (.helloReceive k bs false) s fun t =>
      t.flag F.TWIN_STK_INT_STATUS_STACK_TOO_LONG = true ∧ t.flag F.TWIN_STACK_STATUS_POS_VALID = false ∧ (∀ l : Fin 3, l ≠ k → t.link l = s.link l) ∧ Within [.regs, .twin] s t) ∧
  (∀ (s : State) (k : Fin 3) (bs : List Byte), s.pwr.mainUp = true → linkHears s k bs = true → plahusOk bs false = true → byteAt bs 0 = 1 → half bs 1 = (if k.val = 0 then s.fld F.TWIN_PAIR_CFG_PAIR_ID else s.fld F.TWIN_STACK_CFG_STACK_ID) → (byteAt bs 4).testBit 1 = true → (k.val = 2 ∨ (s.flag F.TWIN_STACK_CFG_EN && s.flag F.TWIN_STACK_CFG_MASTER) = true) →
    Answers (.helloReceive k bs false) s fun t =>
      t.flag F.TWIN_STK_INT_STATUS_MASTER_CONFLICT = true ∧ t.twin = { s.twin with masters := k.val :: s.twin.masters.filter (· ≠ k.val) } ∧ Touches [.twin] [F.TWIN_STK_INT_STATUS_MASTER_CONFLICT] s t) ∧
  (∀ (s : State) (k : Fin 3) (bs : List Byte) (j : Nat) (ago : Nat), s.pwr.mainUp = true → linkHears s k bs = true → plahusOk bs false = true → byteAt bs 0 = 2 → (∀ x ∈ (s.link k).txs, x.1 ≠ half bs 3) →
    Answers (.syncReceive k bs false j ago) s fun t =>
      t.reg64 (Reg.TWIN_LNK_RX_FRAMES_LO k) (Reg.TWIN_LNK_RX_FRAMES_HI k) = (s.reg64 (Reg.TWIN_LNK_RX_FRAMES_LO k) (Reg.TWIN_LNK_RX_FRAMES_HI k) + 1) % 2 ^ 64 ∧ t.flag (F.TWIN_LNK_STATUS_SILENT k) = false ∧ t.link k = { s.link k with rx := some (half bs 1, (syncReceived k j ago s)) } ∧ (∀ l : Fin 3, l ≠ k → t.link l = s.link l) ∧ Touches [.twin] (pair (Reg.TWIN_LNK_RX_FRAMES_LO k) ++ [F.TWIN_LNK_STATUS_SILENT k, F.TWIN_LNK_INT_STATUS_CNT_OVF]) s t) ∧
  (∀ (s : State) (k : Fin 3) (bs : List Byte) (j : Nat) (ago : Nat) (l : LinkSt) (e : Nat) (t1 : List Word) (a c d o : Int), s.pwr.mainUp = true → linkHears s k bs = true → plahusOk bs false = true → byteAt bs 0 = 2 → s.link k = l → l.txs.find? (fun x => x.1 == half bs 3) = some (e, t1) → a = recVal l.fmt (recOf (slice bs 21 16)) - recVal (tbFormat s) t1 → c = recVal (tbFormat s) (syncReceived k j ago s) - recVal l.fmt (recOf (slice bs 5 16)) → d = Int.fdiv (a + c) 2 → (bits (nth 0 t1 0) 26 2 = bits (nth 0 (syncReceived k j ago s) 0) 26 2 ∧ bits (nth 0 (recOf (slice bs 21 16)) 0) 26 2 = bits (nth 0 (recOf (slice bs 5 16)) 0) 26 2) → [t1, (recOf (slice bs 21 16)), (recOf (slice bs 5 16)), (syncReceived k j ago s)].all (fun w => !bit (nth 0 w 0) 25 && !bit (nth 0 w 0) 23) = true → 0 ≤ d →
      o = Int.fdiv (a - c) 2 + Int.fdiv (signed 32 (s.reg (Reg.MET_PORT_ASYM_COEF (384 + linkLane s k))).toNat * d) (2 ^ 40) → -(2 ^ 31) ≤ Int.fdiv (o + 2 ^ 31) (2 ^ 32) → Int.fdiv (o + 2 ^ 31) (2 ^ 32) < 2 ^ 31 → Int.fdiv (d + 2 ^ 31) (2 ^ 32) < 2 ^ 32 →
    Answers (.syncReceive k bs false j ago) s fun t =>
      t.reg64 (Reg.TWIN_LNK_RX_FRAMES_LO k) (Reg.TWIN_LNK_RX_FRAMES_HI k) = (s.reg64 (Reg.TWIN_LNK_RX_FRAMES_LO k) (Reg.TWIN_LNK_RX_FRAMES_HI k) + 1) % 2 ^ 64 ∧ t.flag (F.TWIN_LNK_STATUS_SILENT k) = false ∧ (t.reg (Reg.TWIN_LNK_OFFSET k)).toInt = Int.fdiv (o + 2 ^ 31) (2 ^ 32) ∧ ((t.reg (Reg.TWIN_LNK_DELAY k)).toNat : Int) = Int.fdiv (d + 2 ^ 31) (2 ^ 32) ∧
      (t.link k).sync = true ∧ (t.link k).rx = some (half bs 1, (syncReceived k j ago s)) ∧ (k.val = 0 → (t.ref 21).given = some (Int.fdiv (o - sumOf (slice bs 37 12)) (2 ^ 28))) ∧
      (k.val = 1 → (t.ref 22).given = some (Int.fdiv (o - sumOf (slice bs 37 12)) (2 ^ 28))) ∧ (∀ l : Fin 3, l ≠ k → t.link l = s.link l) ∧ Within [.regs, .loop, .twin] s t) ∧
  (∀ (s : State) (k : Fin 3) (bs : List Byte) (j : Nat) (ago : Nat) (l : LinkSt) (e : Nat) (t1 : List Word) (a c d : Int), s.pwr.mainUp = true → linkHears s k bs = true → plahusOk bs false = true → byteAt bs 0 = 2 → s.link k = l → l.txs.find? (fun x => x.1 == half bs 3) = some (e, t1) → a = recVal l.fmt (recOf (slice bs 21 16)) - recVal (tbFormat s) t1 → c = recVal (tbFormat s) (syncReceived k j ago s) - recVal l.fmt (recOf (slice bs 5 16)) → d = Int.fdiv (a + c) 2 → (¬(bits (nth 0 t1 0) 26 2 = bits (nth 0 (syncReceived k j ago s) 0) 26 2 ∧ bits (nth 0 (recOf (slice bs 21 16)) 0) 26 2 = bits (nth 0 (recOf (slice bs 5 16)) 0) 26 2) ∨ d < 0) →
    Answers (.syncReceive k bs false j ago) s fun t =>
      t.reg64 (Reg.TWIN_LNK_RX_FRAMES_LO k) (Reg.TWIN_LNK_RX_FRAMES_HI k) = (s.reg64 (Reg.TWIN_LNK_RX_FRAMES_LO k) (Reg.TWIN_LNK_RX_FRAMES_HI k) + 1) % 2 ^ 64 ∧ t.flag (F.TWIN_LNK_STATUS_SILENT k) = false ∧ t.reg (Reg.TWIN_LNK_SYNC_DISCARD k) = s.reg (Reg.TWIN_LNK_SYNC_DISCARD k) + 1 ∧ t.link k = { l with rx := some (half bs 1, (syncReceived k j ago s)) } ∧ (∀ l : Fin 3, l ≠ k → t.link l = s.link l) ∧
      Touches [.twin] (pair (Reg.TWIN_LNK_RX_FRAMES_LO k) ++ [F.TWIN_LNK_STATUS_SILENT k, F.TWIN_LNK_INT_STATUS_CNT_OVF] ++ [whole (Reg.TWIN_LNK_SYNC_DISCARD k)]) s t) ∧
  (∀ (s : State) (k : Fin 3) (bs : List Byte), s.pwr.mainUp = true → linkHears s k bs = true → plahusOk bs false = true → byteAt bs 0 = 3 → k.val = 0 → (s.fld F.TWIN_LIVE_ROLE = 1 ∨ s.fld F.TWIN_LIVE_ROLE = 3) →
    Answers (.stateReceive k bs false) s fun t =>
      t.reg64 (Reg.TWIN_LNK_RX_FRAMES_LO k) (Reg.TWIN_LNK_RX_FRAMES_HI k) = (s.reg64 (Reg.TWIN_LNK_RX_FRAMES_LO k) (Reg.TWIN_LNK_RX_FRAMES_HI k) + 1) % 2 ^ 64 ∧ t.flag (F.TWIN_LNK_STATUS_SILENT k) = false ∧ (∀ i : Fin 48, t.indw 1 (0x100 + i) = BitVec.ofNat 32 (beNat (slice bs (1 + 4 * i) 4))) ∧ t.fld F.TWIN_LIVE_IMAGE_AGE = 0 ∧ t.flag F.TWIN_INT_STATUS_IMAGE_NEW = true ∧
      IndKeep ((List.range 48).map fun i => (1, 0x100 + i)) s t ∧ Touches [.ind] (pair (Reg.TWIN_LNK_RX_FRAMES_LO k) ++ [F.TWIN_LNK_STATUS_SILENT k, F.TWIN_LNK_INT_STATUS_CNT_OVF] ++ [F.TWIN_LIVE_IMAGE_AGE, F.TWIN_INT_STATUS_IMAGE_NEW]) s t) ∧
  (∀ (s : State) (k : Fin 3) (bs : List Byte), s.pwr.mainUp = true → linkHears s k bs = true → plahusOk bs false = true → byteAt bs 0 = 3 → (k.val ≠ 0 ∨ ¬(s.fld F.TWIN_LIVE_ROLE = 1 ∨ s.fld F.TWIN_LIVE_ROLE = 3)) → Answers (.stateReceive k bs false) s fun t => t.reg64 (Reg.TWIN_LNK_RX_FRAMES_LO k) (Reg.TWIN_LNK_RX_FRAMES_HI k) = (s.reg64 (Reg.TWIN_LNK_RX_FRAMES_LO k) (Reg.TWIN_LNK_RX_FRAMES_HI k) + 1) % 2 ^ 64 ∧ t.flag (F.TWIN_LNK_STATUS_SILENT k) = false ∧ Touches [] (pair (Reg.TWIN_LNK_RX_FRAMES_LO k) ++ [F.TWIN_LNK_STATUS_SILENT k, F.TWIN_LNK_INT_STATUS_CNT_OVF]) s t) ∧
  (∀ (s : State) (k : Fin 3), s.pwr.mainUp = true → s.flag (F.TWIN_LNK_STATUS_SILENT k) = false →
    Answers (.linkSilent k) s fun t =>
      t.flag (F.TWIN_LNK_STATUS_SILENT k) = true ∧ (t.link k).hello = ((s.link k).hello && decide (s.fld F.TWIN_TIMERS_LINK_TIMEOUT_US < 3000)) ∧
      (t.link k).sync = ((s.link k).sync && decide (s.fld F.TWIN_TIMERS_LINK_TIMEOUT_US < 300)) ∧ t.flag (F.TWIN_LNK_STATUS_OK k) = (linkUsable s k && s.flag (F.ALN_LANE_STATUS_SYNC (linkLane s k)) && (t.link k).hello && (t.link k).sync) ∧
      (k.val = 0 → t.flag F.TWIN_INT_STATUS_LINK_DOWN = true) ∧
      (k.val = 1 → (s.flag F.TWIN_STACK_CFG_EN && s.flag F.TWIN_STACK_CFG_MASTER) = false → t.flag F.TWIN_STACK_STATUS_POS_VALID = false) ∧ Within [.regs, .tb, .loop, .twin, .lanes] s t) ∧
  (∀ (s : State) (k : Fin 3), s.pwr.mainUp = true → s.flag (F.TWIN_LNK_STATUS_SILENT k) = true → Answers (.linkSilent k) s fun t => t = s) ∧
  (∀ (s : State) (k : Fin 3) (hello sync : Bool), s.pwr.mainUp = true →
    Answers (.linkCheckLoss k hello sync) s fun t =>
      (t.link k).hello = ((s.link k).hello && !hello) ∧ (t.link k).sync = ((s.link k).sync && !sync) ∧ t.flag (F.TWIN_LNK_STATUS_OK k) = (linkUsable s k && s.flag (F.ALN_LANE_STATUS_SYNC (linkLane s k)) && (t.link k).hello && (t.link k).sync) ∧ t.flag (F.TWIN_LNK_STATUS_SILENT k) = s.flag (F.TWIN_LNK_STATUS_SILENT k) ∧
      (hello = true → k.val ∉ t.twin.masters) ∧ Within [.regs, .tb, .loop, .twin, .lanes] s t) ∧
  (∀ (s : State), s.pwr.mainUp = true → s.fld F.TWIN_LIVE_ROLE ≠ 2 →
    Answers .twinCycleEnd s fun t =>
      t.fld F.TWIN_LIVE_IMAGE_AGE = min 255 (s.fld F.TWIN_LIVE_IMAGE_AGE + 1) ∧ t.twin = { s.twin with cycles := s.twin.cycles + 1 } ∧ Touches [.twin] [F.TWIN_LIVE_IMAGE_AGE] s t) ∧
  (∀ (s : State), s.pwr.mainUp = true → s.fld F.TWIN_LIVE_ROLE = 2 → linkUsable s 0 = true →
    Answers .twinCycleEnd s fun t =>
      (laneCarries s (laneAt (768 + linkLane s 0)) = true → (t.link 0).sent.take 5 = [3] ++ beBytes 4 ((s.twin.cycles + 1) % 2 ^ 16 + tbFormat s * 2 ^ 16 + s.fld F.TBASE_LIVE_EPOCH * 2 ^ 18 + 2 ^ 31) ∧ (t.link 0).sent.length = 197) ∧ (laneCarries s (laneAt (768 + linkLane s 0)) = false → (t.link 0).sent = (s.link 0).sent) ∧
      t.twin = { s.twin with cycles := s.twin.cycles + 1, links := t.twin.links } ∧ Touches [.twin, .lanes] [F.TWIN_LIVE_IMAGE_AGE] s t) ∧
  (∀ (s : State), s.pwr.mainUp = true → s.twin.xok = true → s.fld F.TWIN_LIVE_ROLE = 1 → s.fld F.LOOP_STATUS_SELECTED = 21 → s.fld F.LOOP_STATUS_STATE = 2 → 100 ≤ s.twin.xn → s.fld F.TWIN_XCHK_LIMIT_PS * 2 ^ 48 * s.twin.xn < s.twin.xsum.natAbs * 1000 → s.fld F.TWIN_XCHK_COUNT ≤ s.twin.xfails + 1 →
    Answers .twinXchkWindow s fun t =>
      t.flag F.TWIN_INT_STATUS_XCHK_FAIL = true ∧ t.rbit Reg.FLT_CLASS_PEND 17 = true ∧ t.twin = { s.twin with xok := true, xsum := 0, xn := 0, xfails := 0 } ∧ Within [.regs, .twin, .free] s t) ∧
  (∀ (s : State), s.pwr.mainUp = true → s.twin.xok = true → s.fld F.TWIN_LIVE_ROLE = 1 → s.fld F.LOOP_STATUS_SELECTED = 21 → s.fld F.LOOP_STATUS_STATE = 2 → 100 ≤ s.twin.xn → ¬(s.fld F.TWIN_XCHK_LIMIT_PS * 2 ^ 48 * s.twin.xn < s.twin.xsum.natAbs * 1000) → -(2 ^ 31) ≤ Int.fdiv (Int.fdiv (2 * s.twin.xsum + (s.twin.xn : Int)) (2 * (s.twin.xn : Int)) + 2 ^ 31) (2 ^ 32) → Int.fdiv (Int.fdiv (2 * s.twin.xsum + (s.twin.xn : Int)) (2 * (s.twin.xn : Int)) + 2 ^ 31) (2 ^ 32) < 2 ^ 31 →
    Answers .twinXchkWindow s fun t =>
      (t.reg Reg.TWIN_XCHK_STATUS).toInt = Int.fdiv (Int.fdiv (2 * s.twin.xsum + (s.twin.xn : Int)) (2 * (s.twin.xn : Int)) + 2 ^ 31) (2 ^ 32) ∧ t.twin = { s.twin with xok := true, xsum := 0, xn := 0, xfails := 0 } ∧ Touches [.twin] [whole Reg.TWIN_XCHK_STATUS] s t) ∧
  (∀ (s : State), s.pwr.mainUp = true → s.twin.xn < 100 → Answers .twinXchkWindow s fun t => t.twin = { s.twin with xok := true, xsum := 0, xn := 0 } ∧ Within [.twin] s t) ∧
  (∀ (s : State) (ag : Agent) (d : Word), s.pwr.mainUp = true → pf1Denied ag Reg.TWIN_CMD s = false → d.getLsbD 0 = false → d.getLsbD 1 = false → bit (s.indw 1 0x140) 31 = true → bits (s.indw 1 0x140) 16 2 = tbFormat s → tbFormat s ≠ 0 → s.fld F.LOOP_STATUS_STATE = 0 →
    Answers (.imageLoad ag d) s fun t =>
      t.loop.y0 = signed 40 (((s.indw 1 0x149).toNat + 2 ^ 32 * (s.indw 1 0x14A).toNat) % 2 ^ 40) * 2 ^ 48 ∧ t.loop.drift = signed 32 (s.indw 1 0x14B).toNat * 2 ^ 32 ∧ t.loop.hoT = 0 ∧
      t.flag F.LOOP_STATUS_HO_READY = true ∧ Within [.regs, .loop] s t) ∧
  (∀ (s : State) (ag : Agent) (d : Word), s.pwr.mainUp = true → pf1Denied ag Reg.TWIN_CMD s = false → d.getLsbD 0 = false → d.getLsbD 1 = false → (bit (s.indw 1 0x140) 31 = false ∨ bits (s.indw 1 0x140) 16 2 ≠ tbFormat s ∨ tbFormat s = 0 ∨ s.fld F.LOOP_STATUS_STATE ≠ 0) →
    Answers (.imageLoad ag d) s fun t => t.flag F.TWIN_INT_STATUS_IMAGE_REJECT = true ∧ Touches [] [F.TWIN_INT_STATUS_IMAGE_REJECT, whole Reg.TWIN_CMD] s t)

/-- Roles and two-phase steps (R497 to R504, R515, R516): a period of LEAD_IN_N is classed by its length and its low time, two alike show the peer's pattern; a shadow takes LEAD where the peer yields, or shows SHADOW too and this part is preferred, or both silent and preferred, and claims where it is not; a leader gives way to a leading peer
where it is not preferred; YIELD makes a leader SHADOW. GO refuses with its CAUSE, or stages the STEP here and sends PREPARE; the last READY commits, a refusal, ABORT and a step left alone end it with their results, and a member answers, commits or withdraws; a STEP whose result would be negative is refused (R168).
That a late READY ends with CAUSE 5 and its own POS, XSTEP_FAIL at the part that refuses, PEER_PATTERN 0 at a lost heartbeat, CAUSE 0 of a negative step, HELLO frames counted from the entry into a role that leads and the periods of LEAD_OUT_N in TCLK are log 28. -/
def Obligations.RolesAndTwoPhaseSteps : Prop :=
  (∀ (s : State) (period low : Nat), s.pwr.oclkUp = true → s.twin.last = 1 → 14 ≤ period → period ≤ 18 → 11 ≤ low → low ≤ 13 →
    Answers (.interlockPeriod period low) s fun t =>
      t.fld F.TWIN_LIVE_PEER_PATTERN = 1 ∧ t.flag F.TWIN_LIVE_HB_OK = true ∧ t.flag F.TWIN_LIVE_YIELDING = false ∧
      (s.flag F.TWIN_LIVE_HB_OK = false → t.flag F.TWIN_INT_STATUS_HB_BACK = true) ∧
      ((s.fld F.TWIN_LIVE_ROLE = 2 ∨ s.fld F.TWIN_LIVE_ROLE = 5) → s.flag F.TWIN_PAIR_CFG_PREF = false → t.fld F.TWIN_LIVE_ROLE = 1 ∧ t.flag F.TWIN_INT_STATUS_ROLE_CHANGE = true) ∧ Within [.regs, .loop, .twin] s t) ∧
  (∀ (s : State) (period low : Nat), s.pwr.oclkUp = true → s.pwr.mainUp = true → s.twin.last = 3 → 14 ≤ period → period ≤ 18 → 3 ≤ low → low ≤ 5 → (s.fld F.TWIN_LIVE_ROLE = 1 ∨ s.fld F.TWIN_LIVE_ROLE = 3) → s.flag F.TWIN_LIVE_YIELDING = false →
    Answers (.interlockPeriod period low) s fun t => t.fld F.TWIN_LIVE_PEER_PATTERN = 3 ∧ t.fld F.TWIN_LIVE_ADV = 0 ∧ t.fld F.TWIN_LIVE_ROLE = 2 ∧ t.flag F.TWIN_INT_STATUS_ROLE_CHANGE = true ∧ (t.link 0).leads = 0 ∧ Within [.regs, .loop, .twin] s t) ∧
  (∀ (s : State) (period low : Nat), s.pwr.oclkUp = true → s.twin.last = 2 → 14 ≤ period → period ≤ 18 → 7 ≤ low → low ≤ 9 → s.fld F.TWIN_LIVE_ROLE = 2 → (s.link 0).leads < 3 →
    Answers (.interlockPeriod period low) s fun t => t.fld F.TWIN_LIVE_ROLE = 2 ∧ t.fld F.TWIN_LIVE_PEER_PATTERN = 2 ∧ Within [.regs, .loop, .twin] s t) ∧
  (∀ (s : State), s.pwr.resetN = true → s.pwr.oclkUp = true →
    (s.twin.shown = 0 → leadPin s = true) ∧ (s.twin.shown = 1 → leadPin s = decide (75 ≤ s.clk.tclk % 100)) ∧ (s.twin.shown = 2 → leadPin s = decide (50 ≤ s.clk.tclk % 100)) ∧
    (s.twin.shown = 3 → leadPin s = decide (25 ≤ s.clk.tclk % 100))) ∧
  (∀ (s : State) (period low : Nat), s.pwr.oclkUp = true → s.pwr.mainUp = true → s.twin.last = 2 → 14 ≤ period → period ≤ 18 → 7 ≤ low → low ≤ 9 → (s.fld F.TWIN_LIVE_ROLE = 1 ∨ s.fld F.TWIN_LIVE_ROLE = 3) → s.flag F.TWIN_LIVE_YIELDING = false → s.flag F.TWIN_PAIR_CFG_PREF = true →
    Answers (.interlockPeriod period low) s fun t =>
      t.fld F.TWIN_LIVE_PEER_PATTERN = 2 ∧ ((s.link 0).pref ≠ some true → t.fld F.TWIN_LIVE_ROLE = 2 ∧ t.flag F.TWIN_INT_STATUS_ROLE_CHANGE = true) ∧
      ((s.link 0).pref = some true → t.fld F.TWIN_LIVE_ROLE ≠ 2 ∧ t.twin.prefs = true ∧ (s.twin.prefs = false → t.flag F.TWIN_INT_STATUS_PREF_CONFLICT = true)) ∧ Within [.regs, .loop, .twin] s t) ∧
  (∀ (s : State) (period low : Nat), s.pwr.oclkUp = true → s.twin.last = 0 → 14 ≤ period → period ≤ 18 → 7 ≤ low → low ≤ 9 →
    Answers (.interlockPeriod period low) s fun t =>
      t.twin.last = 2 ∧ t.fld F.TWIN_LIVE_PEER_PATTERN = s.fld F.TWIN_LIVE_PEER_PATTERN ∧ t.flag F.TWIN_LIVE_HB_OK = s.flag F.TWIN_LIVE_HB_OK ∧ Within [.regs, .loop, .twin] s t) ∧
  (∀ (s : State) (period low : Nat), s.pwr.oclkUp = true → (period < 14 ∨ 18 < period) →
    Answers (.interlockPeriod period low) s fun t =>
      t.twin = { s.twin with last := 0, xok := t.twin.xok } ∧ (s.flag F.TWIN_LIVE_LINK_OK = true → t.flag F.TWIN_INT_STATUS_INTERLOCK_FAULT = true ∧ t.rbit Reg.FLT_CLASS_PEND 16 = true) ∧
      (s.flag F.TWIN_LIVE_LINK_OK = false → Touches [.twin] [] s t) ∧ Within [.regs, .loop, .twin] s t) ∧
  (∀ (s : State), s.pwr.oclkUp = true → s.pwr.mainUp = true → s.flag F.TWIN_LIVE_HB_OK = true → s.flag F.TWIN_LIVE_LINK_OK = false → s.flag (F.TWIN_LNK_STATUS_SILENT 0) = true → (s.fld F.TWIN_LIVE_ROLE = 1 ∨ s.fld F.TWIN_LIVE_ROLE = 3) →
    Answers .hbLost s fun t =>
      t.flag F.TWIN_LIVE_HB_OK = false ∧ t.fld F.TWIN_LIVE_PEER_PATTERN = 0 ∧ t.flag F.TWIN_INT_STATUS_HB_LOST = true ∧ (s.flag F.TWIN_PAIR_CFG_PREF = true → s.flag F.TWIN_LIVE_YIELDING = false → t.fld F.TWIN_LIVE_ROLE = 2 ∧ t.flag F.TWIN_INT_STATUS_ROLE_CHANGE = true) ∧
      (s.flag F.TWIN_PAIR_CFG_PREF = false → t.fld F.TWIN_LIVE_ROLE = 4 ∧ t.flag F.TWIN_INT_STATUS_ROLE_CHANGE = true ∧ t.flag F.TWIN_INT_STATUS_SPLIT = true ∧ t.fld F.TWIN_LIVE_ADV = 2) ∧ Within [.regs, .loop, .twin] s t) ∧
  (∀ (s : State), s.pwr.oclkUp = true → s.flag F.TWIN_LIVE_HB_OK = true → s.flag F.TWIN_LIVE_LINK_OK = false → s.flag (F.TWIN_LNK_STATUS_SILENT 0) = true → s.fld F.TWIN_LIVE_ROLE = 2 → (s.link 0).leads < 3 →
    Answers .hbLost s fun t =>
      t.flag F.TWIN_LIVE_HB_OK = false ∧ t.fld F.TWIN_LIVE_PEER_PATTERN = 0 ∧ t.flag F.TWIN_INT_STATUS_HB_LOST = true ∧ (s.flag F.TWIN_PAIR_CFG_PREF = true → t.fld F.TWIN_LIVE_ROLE = 2) ∧ (s.flag F.TWIN_PAIR_CFG_PREF = false → t.fld F.TWIN_LIVE_ROLE = 5 ∧ t.flag F.TWIN_INT_STATUS_ROLE_CHANGE = true ∧ t.fld F.TWIN_LIVE_ADV = 3) ∧ Within [.regs, .loop, .twin] s t) ∧
  (∀ (s : State), (s.pwr.oclkUp = false ∨ s.flag F.TWIN_LIVE_HB_OK = false) → Answers .hbLost s fun t => t = s) ∧
  (∀ (s : State), s.pwr.mainUp = true → s.flag F.TWIN_CTRL_EN = true → s.fld F.TWIN_LIVE_ROLE = 0 → s.flag F.TWIN_LIVE_HB_OK = true → s.fld F.TWIN_LIVE_PEER_PATTERN = 1 → s.flag (F.TWIN_LNK_STATUS_SILENT 0) = false →
    Answers .twinObserveDone s fun t => t.fld F.TWIN_LIVE_ROLE = 1 ∧ t.flag F.TWIN_INT_STATUS_ROLE_CHANGE = true ∧ t.fld F.TWIN_LIVE_ADV = 1 ∧ Within [.regs, .loop, .twin] s t) ∧
  (∀ (s : State), s.pwr.mainUp = true → (s.flag F.TWIN_CTRL_EN = false ∨ s.fld F.TWIN_LIVE_ROLE ≠ 0) → Answers .twinObserveDone s fun t => t = s) ∧
  (∀ (s : State), s.pwr.mainUp = true → s.fld F.TWIN_LIVE_ROLE = 4 → s.flag F.TWIN_LIVE_HB_OK = false → s.flag (F.TWIN_LNK_STATUS_SILENT 0) = true →
    Answers .splitHoldoffExpire s fun t => t.fld F.TWIN_LIVE_ROLE = 5 ∧ t.flag F.TWIN_INT_STATUS_ROLE_CHANGE = true ∧ t.fld F.TWIN_LIVE_ADV = 3 ∧ (∀ k ∈ List.range 4, (t.clkout k).gate = gateOpen (8 + k) t) ∧ (t.link 0).leads = 0 ∧ t.twin = { s.twin with xok := false, links := t.twin.links } ∧ Within [.regs, .loop, .twin] s t) ∧
  (∀ (s : State) (ag : Agent) (d : Word), s.pwr.mainUp = true → pf1Denied ag Reg.TWIN_CMD s = false → d.getLsbD 1 = false → d.getLsbD 2 = false →
    Answers (.yield ag d) s fun t =>
      t.flag F.TWIN_LIVE_YIELDING = true ∧ (s.fld F.TWIN_LIVE_ROLE = 2 → t.fld F.TWIN_LIVE_ROLE = 1 ∧ t.flag F.TWIN_INT_STATUS_ROLE_CHANGE = true) ∧ (s.fld F.TWIN_LIVE_ROLE ≠ 2 → t.fld F.TWIN_LIVE_ROLE = s.fld F.TWIN_LIVE_ROLE) ∧ (s.fld F.TWIN_LIVE_ROLE = 2 → (∀ k ∈ List.range 4, (t.clkout k).gate = gateOpen (8 + k) t)) ∧ Within [.regs, .loop, .twin] s t) ∧
  (∀ (s : State) (ag : Agent) (d : Word), s.pwr.mainUp = true → pf1Denied ag Reg.TWIN_ROLE_GATE s = false →
    Answers (.registerWrite ag (BitVec.ofNat 26 (4 * Reg.TWIN_ROLE_GATE)) 0xF d) s fun t => (∀ k ∈ List.range 4, (t.clkout k).gate = (!d.getLsbD (8 + k) || decide (s.fld F.TWIN_LIVE_ROLE = 2 ∨ s.fld F.TWIN_LIVE_ROLE = 5)) ∧ (t.clkout k).rise = (s.clkout k).rise ∧ (t.clkout k).running = (s.clkout k).running) ∧ Only [.loop, .hst] [Reg.TWIN_ROLE_GATE] s t) ∧
  (∀ (s : State) (ag : Agent) (d : Word), s.pwr.mainUp = true → pf1Denied ag Reg.TWIN_CMD s = false → d.getLsbD 0 = false → d.getLsbD 2 = false →
    Answers (.resume ag d) s fun t =>
      t.flag F.TWIN_LIVE_YIELDING = false ∧ (s.fld F.TWIN_LIVE_ROLE = 0 → t.fld F.TWIN_LIVE_ROLE = 0) ∧
      ((s.fld F.TWIN_LIVE_ROLE = 1 ∨ s.fld F.TWIN_LIVE_ROLE = 3) → s.flag F.TWIN_LIVE_HB_OK = true → s.fld F.TWIN_LIVE_PEER_PATTERN = 3 → t.fld F.TWIN_LIVE_ROLE = 2 ∧ t.flag F.TWIN_INT_STATUS_ROLE_CHANGE = true) ∧ Within [.regs, .loop, .twin] s t) ∧
  (∀ (s : State) (ag : Agent) (d : Word), s.pwr.mainUp = true → pf1Denied ag Reg.TWIN_XSTEP_CMD s = false → d.getLsbD 1 = false → s.flag F.TWIN_STACK_CFG_EN = false →
      ((s.fld F.TWIN_LIVE_ROLE = 1 ∨ s.fld F.TWIN_LIVE_ROLE = 3 ∨ s.fld F.TWIN_LIVE_ROLE = 4) ∨ s.tb.pend ≠ none) →
    Answers (.xstepGo ag d) s fun t =>
      t.fld F.TWIN_XSTEP_STATUS_RESULT = 2 ∧ t.fld F.TWIN_XSTEP_STATUS_CAUSE = (if s.fld F.TWIN_LIVE_ROLE = 1 ∨ s.fld F.TWIN_LIVE_ROLE = 3 ∨ s.fld F.TWIN_LIVE_ROLE = 4 then 6 else 1) ∧
      t.fld F.TWIN_XSTEP_STATUS_POS = s.fld F.TWIN_STACK_STATUS_POS ∧ t.flag F.TWIN_STK_INT_STATUS_XSTEP_FAIL = true ∧ Touches [] [whole Reg.TWIN_XSTEP_CMD, whole Reg.TWIN_XSTEP_STATUS, F.TWIN_STK_INT_STATUS_XSTEP_FAIL] s t) ∧
  (∀ (s : State) (ag : Agent) (d : Word) (arm : Nat), s.pwr.mainUp = true → pf1Denied ag Reg.TWIN_XSTEP_CMD s = false → d.getLsbD 1 = false → s.flag F.TWIN_STACK_CFG_EN = false → s.tb.pend = none → (s.fld F.TWIN_LIVE_ROLE = 0 ∨ s.fld F.TWIN_LIVE_ROLE = 2 ∨ s.fld F.TWIN_LIVE_ROLE = 5) →
      tbFormat s ≠ 0 → recordValue (tbFormat s) (s.reg Reg.TWIN_XSTEP_ARM0) (s.reg Reg.TWIN_XSTEP_ARM1) (s.reg Reg.TWIN_XSTEP_ARM2) (s.reg Reg.TWIN_XSTEP_ARM3) = arm → s.tb.value + 1024 * incCur s + s.fld F.TWIN_XSTEP_GUARD_US * 1000 * 2 ^ 48 ≤ arm → (arm : Int) + (signed 64 (s.reg64 Reg.TWIN_XSTEP_AMT_LO Reg.TWIN_XSTEP_AMT_HI) * 2 ^ 48 + (((s.reg Reg.TWIN_XSTEP_AMT_SUB).toNat * 2 ^ 16 : Nat) : Int)) < 0 →
    Answers (.xstepGo ag d) s fun t =>
      t.fld F.TWIN_XSTEP_STATUS_RESULT = 2 ∧ t.fld F.TWIN_XSTEP_STATUS_CAUSE = 0 ∧ t.flag F.TBASE_INT_STATUS_CMD_REJECT = true ∧ t.flag F.TWIN_STK_INT_STATUS_XSTEP_FAIL = true ∧ t.tb = s.tb ∧ t.twin = s.twin ∧
      Touches [] [whole Reg.TWIN_XSTEP_CMD, whole Reg.TWIN_XSTEP_STATUS, F.TWIN_STK_INT_STATUS_XSTEP_FAIL, F.TBASE_INT_STATUS_CMD_REJECT] s t) ∧
  (∀ (s : State) (ag : Agent) (d : Word) (arm : Nat), s.pwr.mainUp = true → pf1Denied ag Reg.TWIN_XSTEP_CMD s = false → d.getLsbD 1 = false → s.flag F.TWIN_STACK_CFG_EN = false → (s.fld F.TWIN_LIVE_ROLE = 0 ∨ (s.fld F.TWIN_LIVE_ROLE = 5 ∧ s.fld F.TWIN_LIVE_PEER_ROLE ≠ 1)) → s.tb.pend = none →
      tbFormat s ≠ 0 → recordValue (tbFormat s) (s.reg Reg.TWIN_XSTEP_ARM0) (s.reg Reg.TWIN_XSTEP_ARM1) (s.reg Reg.TWIN_XSTEP_ARM2) (s.reg Reg.TWIN_XSTEP_ARM3) = arm → s.tb.value + 1024 * incCur s + s.fld F.TWIN_XSTEP_GUARD_US * 1000 * 2 ^ 48 ≤ arm → 0 ≤ (arm : Int) + (signed 64 (s.reg64 Reg.TWIN_XSTEP_AMT_LO Reg.TWIN_XSTEP_AMT_HI) * 2 ^ 48 + (((s.reg Reg.TWIN_XSTEP_AMT_SUB).toNat * 2 ^ 16 : Nat) : Int)) →
    Answers (.xstepGo ag d) s fun t =>
      t.tb.pend = some { inc := none, op := some (.step (signed 64 (s.reg64 Reg.TWIN_XSTEP_AMT_LO Reg.TWIN_XSTEP_AMT_HI) * 2 ^ 48 + (((s.reg Reg.TWIN_XSTEP_AMT_SUB).toNat * 2 ^ 16 : Nat) : Int))), arm := some arm, acc := s.clk.tclk, late := false, xstep := true, dispute := false } ∧ t.flag F.TBASE_LIVE_CMD_PENDING = true ∧ t.fld F.TWIN_XSTEP_STATUS_STATE = 2 ∧ t.fld F.TWIN_XSTEP_STATUS_XID = (s.fld F.TWIN_XSTEP_STATUS_XID + 1) % 65536 ∧ t.fld F.TWIN_XSTEP_STATUS_RESULT = 0 ∧
      t.twin = { s.twin with xstep := some { from' := none, xid := (s.fld F.TWIN_XSTEP_STATUS_XID + 1) % 65536, targets := [], waits := [], committed := true, arm := arm } } ∧
      t.tb = { s.tb with pend := t.tb.pend } ∧ Touches [.tb, .twin] [whole Reg.TWIN_XSTEP_CMD, whole Reg.TWIN_XSTEP_STATUS, F.TBASE_LIVE_CMD_PENDING] s t) ∧
  (∀ (s : State) (ag : Agent) (d : Word) (arm : Nat), s.pwr.mainUp = true → pf1Denied ag Reg.TWIN_XSTEP_CMD s = false → d.getLsbD 1 = false → s.flag F.TWIN_STACK_CFG_EN = false → (s.fld F.TWIN_LIVE_ROLE = 2 ∨ s.fld F.TWIN_LIVE_ROLE = 5) → s.fld F.TWIN_LIVE_PEER_ROLE = 1 → linkUsable s 0 = true → s.tb.pend = none →
      tbFormat s ≠ 0 → recordValue (tbFormat s) (s.reg Reg.TWIN_XSTEP_ARM0) (s.reg Reg.TWIN_XSTEP_ARM1) (s.reg Reg.TWIN_XSTEP_ARM2) (s.reg Reg.TWIN_XSTEP_ARM3) = arm → s.tb.value + 1024 * incCur s + s.fld F.TWIN_XSTEP_GUARD_US * 1000 * 2 ^ 48 ≤ arm → 0 ≤ (arm : Int) + (signed 64 (s.reg64 Reg.TWIN_XSTEP_AMT_LO Reg.TWIN_XSTEP_AMT_HI) * 2 ^ 48 + (((s.reg Reg.TWIN_XSTEP_AMT_SUB).toNat * 2 ^ 16 : Nat) : Int)) →
    Answers (.xstepGo ag d) s fun t =>
      t.tb.pend = some { inc := none, op := some (.step (signed 64 (s.reg64 Reg.TWIN_XSTEP_AMT_LO Reg.TWIN_XSTEP_AMT_HI) * 2 ^ 48 + (((s.reg Reg.TWIN_XSTEP_AMT_SUB).toNat * 2 ^ 16 : Nat) : Int))), arm := some arm, acc := s.clk.tclk, late := false, xstep := true, dispute := false } ∧ t.flag F.TBASE_LIVE_CMD_PENDING = true ∧ t.fld F.TWIN_XSTEP_STATUS_STATE = 1 ∧ t.twin.xstep = some { from' := none, xid := (s.fld F.TWIN_XSTEP_STATUS_XID + 1) % 65536, targets := [0], waits := [0], committed := false, arm := arm } ∧
      (laneCarries s (laneAt (768 + linkLane s 0)) = true → (t.link 0).sent.take 7 = [4, 1, BitVec.ofNat 8 (s.fld F.TWIN_STACK_STATUS_POS), 0, BitVec.ofNat 8 (s.fld F.TBASE_LIVE_EPOCH)] ++ beBytes 2 ((s.fld F.TWIN_XSTEP_STATUS_XID + 1) % 65536) ∧ slice (t.link 0).sent 21 16 = recBytes [s.reg Reg.TWIN_XSTEP_ARM0, s.reg Reg.TWIN_XSTEP_ARM1, s.reg Reg.TWIN_XSTEP_ARM2, s.reg Reg.TWIN_XSTEP_ARM3] ∧ (t.link 0).sent.length = 41) ∧ (laneCarries s (laneAt (768 + linkLane s 0)) = false → (t.link 0).sent = (s.link 0).sent) ∧ Within [.regs, .tb, .twin, .lanes] s t) ∧
  (∀ (s : State) (k : Fin 3) (bs : List Byte), s.pwr.mainUp = true → linkHears s k bs = true → plahusOk bs false = true → byteAt bs 0 = 4 → byteAt bs 1 = 1 → k.val ≠ 2 → s.tb.pend ≠ none →
    Answers (.prepare k bs false) s fun t =>
      (laneCarries s (laneAt (768 + linkLane s k)) = true → (t.link k).sent.take 4 = [4, 3, BitVec.ofNat 8 (s.fld F.TWIN_STACK_STATUS_POS), 1]) ∧ (laneCarries s (laneAt (768 + linkLane s k)) = false → (t.link k).sent = (s.link k).sent) ∧ t.reg64 (Reg.TWIN_LNK_RX_FRAMES_LO k) (Reg.TWIN_LNK_RX_FRAMES_HI k) = (s.reg64 (Reg.TWIN_LNK_RX_FRAMES_LO k) (Reg.TWIN_LNK_RX_FRAMES_HI k) + 1) % 2 ^ 64 ∧ t.flag (F.TWIN_LNK_STATUS_SILENT k) = false ∧ (∀ l : Fin 3, l ≠ k → t.link l = s.link l) ∧ t.twin.xstep = s.twin.xstep ∧ t.tb = s.tb ∧ t.flag F.TWIN_STK_INT_STATUS_XSTEP_FAIL = true ∧
      Touches [.twin, .lanes] (pair (Reg.TWIN_LNK_RX_FRAMES_LO k) ++ [F.TWIN_LNK_STATUS_SILENT k, F.TWIN_LNK_INT_STATUS_CNT_OVF] ++ [F.TWIN_STK_INT_STATUS_XSTEP_FAIL]) s t) ∧
  (∀ (s : State) (k : Fin 3) (bs : List Byte) (arm : Nat), s.pwr.mainUp = true → linkHears s k bs = true → plahusOk bs false = true → byteAt bs 0 = 4 → byteAt bs 1 = 1 → k.val ≠ 2 → s.tb.pend = none → linkUsable s 2 = false → s.fld F.TWIN_LIVE_ROLE ≠ 2 → s.fld F.TWIN_LIVE_ROLE ≠ 5 → 0 ≤ (arm : Int) + sumOf (slice bs 9 12) →
      byteAt bs 4 = s.fld F.TBASE_LIVE_EPOCH → (s.link k).fmt = tbFormat s → tbFormat s ≠ 0 → recordValue (tbFormat s) (nth 0 (recOf (slice bs 21 16)) 0) (nth 0 (recOf (slice bs 21 16)) 1) (nth 0 (recOf (slice bs 21 16)) 2) (nth 0 (recOf (slice bs 21 16)) 3) = arm → s.tb.value + 1024 * incCur s + s.fld F.TWIN_XSTEP_GUARD_US * 1000 * 2 ^ 48 ≤ arm →
    Answers (.prepare k bs false) s fun t =>
      t.tb.pend = some { inc := none, op := some (.step (sumOf (slice bs 9 12))), arm := some arm, acc := s.clk.tclk, late := false, xstep := true, dispute := false } ∧ t.flag F.TBASE_LIVE_CMD_PENDING = true ∧ t.fld F.TWIN_XSTEP_STATUS_STATE = 1 ∧ t.fld F.TWIN_XSTEP_STATUS_XID = half bs 5 ∧
      t.twin.xstep = some { from' := some k.val, xid := half bs 5, targets := [], waits := [], committed := false, arm := arm } ∧ (laneCarries s (laneAt (768 + linkLane s k)) = true → (t.link k).sent.take 4 = [4, 2, BitVec.ofNat 8 (s.fld F.TWIN_STACK_STATUS_POS), 0]) ∧ (laneCarries s (laneAt (768 + linkLane s k)) = false → (t.link k).sent = (s.link k).sent) ∧
      (∀ l : Fin 3, l ≠ k → t.link l = s.link l) ∧ t.tb = { s.tb with pend := t.tb.pend } ∧ Touches [.tb, .twin, .lanes] (pair (Reg.TWIN_LNK_RX_FRAMES_LO k) ++ [F.TWIN_LNK_STATUS_SILENT k, F.TWIN_LNK_INT_STATUS_CNT_OVF] ++ [whole Reg.TWIN_XSTEP_STATUS, F.TBASE_LIVE_CMD_PENDING]) s t) ∧
  (∀ (s : State) (k : Fin 3) (bs : List Byte) (x : XstepSt), s.pwr.mainUp = true → linkHears s k bs = true → plahusOk bs false = true → byteAt bs 0 = 4 → byteAt bs 1 = 2 → s.twin.xstep = some x → x.from' = none → x.xid = half bs 5 → x.waits = [k.val] →
      s.tb.value + s.fld F.TWIN_XSTEP_GUARD_US * 1000 * 2 ^ 48 ≤ x.arm →
    Answers (.ready k bs false) s fun t =>
      t.twin.xstep = some { x with waits := [], committed := true } ∧ t.fld F.TWIN_XSTEP_STATUS_STATE = 2 ∧ t.reg64 (Reg.TWIN_LNK_RX_FRAMES_LO k) (Reg.TWIN_LNK_RX_FRAMES_HI k) = (s.reg64 (Reg.TWIN_LNK_RX_FRAMES_LO k) (Reg.TWIN_LNK_RX_FRAMES_HI k) + 1) % 2 ^ 64 ∧ t.flag (F.TWIN_LNK_STATUS_SILENT k) = false ∧ Touches [.twin, .lanes] (pair (Reg.TWIN_LNK_RX_FRAMES_LO k) ++ [F.TWIN_LNK_STATUS_SILENT k, F.TWIN_LNK_INT_STATUS_CNT_OVF] ++ [F.TWIN_XSTEP_STATUS_STATE]) s t) ∧
  (∀ (s : State) (k : Fin 3) (bs : List Byte) (x : XstepSt), s.pwr.mainUp = true → linkHears s k bs = true → plahusOk bs false = true → byteAt bs 0 = 4 → byteAt bs 1 = 2 → s.twin.xstep = some x → x.from' = none → x.committed = false → x.xid = half bs 5 → x.waits = [k.val] →
      x.arm < s.tb.value + s.fld F.TWIN_XSTEP_GUARD_US * 1000 * 2 ^ 48 →
    Answers (.ready k bs false) s fun t =>
      t.twin.xstep = none ∧ t.fld F.TWIN_XSTEP_STATUS_STATE = 0 ∧ (∀ p, s.tb.pend = some p → p.xstep = true → tbDue p s ≠ 0 → t.tb.pend = none) ∧ t.fld F.TWIN_XSTEP_STATUS_RESULT = 3 ∧ t.fld F.TWIN_XSTEP_STATUS_POS = byteAt bs 2 % 8 ∧ t.fld F.TWIN_XSTEP_STATUS_CAUSE = 5 ∧
      t.flag F.TWIN_STK_INT_STATUS_XSTEP_FAIL = true ∧ Within [.regs, .tb, .twin, .lanes] s t) ∧
  (∀ (s : State) (k : Fin 3) (bs : List Byte) (x : XstepSt), s.pwr.mainUp = true → linkHears s k bs = true → plahusOk bs false = true → byteAt bs 0 = 4 → byteAt bs 1 = 3 → s.twin.xstep = some x → x.from' = none → x.committed = false → x.xid = half bs 5 → k.val ∈ x.targets →
    Answers (.refuse k bs false) s fun t =>
      t.twin.xstep = none ∧ t.fld F.TWIN_XSTEP_STATUS_STATE = 0 ∧ (∀ p, s.tb.pend = some p → p.xstep = true → tbDue p s ≠ 0 → t.tb.pend = none) ∧ t.fld F.TWIN_XSTEP_STATUS_RESULT = 2 ∧ t.fld F.TWIN_XSTEP_STATUS_POS = byteAt bs 2 % 8 ∧ t.fld F.TWIN_XSTEP_STATUS_CAUSE = byteAt bs 3 % 8 ∧
      t.flag F.TWIN_STK_INT_STATUS_XSTEP_FAIL = true ∧ Within [.regs, .tb, .twin, .lanes] s t) ∧
  (∀ (s : State) (k : Fin 3) (bs : List Byte) (x : XstepSt), s.pwr.mainUp = true → linkHears s k bs = true → plahusOk bs false = true → byteAt bs 0 = 4 → byteAt bs 1 = 4 → s.twin.xstep = some x → x.xid = half bs 5 → x.from' = some k.val →
    Answers (.xstepCommit k bs false) s fun t =>
      t.twin.xstep = some { x with committed := true } ∧ t.fld F.TWIN_XSTEP_STATUS_STATE = 2 ∧ t.reg64 (Reg.TWIN_LNK_RX_FRAMES_LO k) (Reg.TWIN_LNK_RX_FRAMES_HI k) = (s.reg64 (Reg.TWIN_LNK_RX_FRAMES_LO k) (Reg.TWIN_LNK_RX_FRAMES_HI k) + 1) % 2 ^ 64 ∧ t.flag (F.TWIN_LNK_STATUS_SILENT k) = false ∧ Touches [.twin, .lanes] (pair (Reg.TWIN_LNK_RX_FRAMES_LO k) ++ [F.TWIN_LNK_STATUS_SILENT k, F.TWIN_LNK_INT_STATUS_CNT_OVF] ++ [F.TWIN_XSTEP_STATUS_STATE]) s t) ∧
  (∀ (s : State) (k : Fin 3) (bs : List Byte) (x : XstepSt), s.pwr.mainUp = true → linkHears s k bs = true → plahusOk bs false = true → byteAt bs 0 = 4 → byteAt bs 1 = 5 → s.twin.xstep = some x → x.xid = half bs 5 → x.from' = some k.val →
    Answers (.xstepAbort k bs false) s fun t => t.twin.xstep = none ∧ t.fld F.TWIN_XSTEP_STATUS_STATE = 0 ∧ (∀ p, s.tb.pend = some p → p.xstep = true → tbDue p s ≠ 0 → t.tb.pend = none) ∧ t.flag F.TWIN_STK_INT_STATUS_XSTEP_FAIL = true ∧ t.reg64 (Reg.TWIN_LNK_RX_FRAMES_LO k) (Reg.TWIN_LNK_RX_FRAMES_HI k) = (s.reg64 (Reg.TWIN_LNK_RX_FRAMES_LO k) (Reg.TWIN_LNK_RX_FRAMES_HI k) + 1) % 2 ^ 64 ∧ t.flag (F.TWIN_LNK_STATUS_SILENT k) = false ∧ Within [.regs, .tb, .twin, .lanes] s t) ∧
  (∀ (s : State) (k : Fin 3) (bs : List Byte) (c : Instr) (op : Nat), s.pwr.mainUp = true → linkHears s k bs = true → plahusOk bs false = true → byteAt bs 0 = 4 → byteAt bs 1 = op → s.twin.xstep = none →
      (c, op) ∈ [(Instr.ready k bs false, 2), (.refuse k bs false, 3), (.xstepCommit k bs false, 4), (.xstepAbort k bs false, 5)] →
    Answers c s fun t => t.reg64 (Reg.TWIN_LNK_RX_FRAMES_LO k) (Reg.TWIN_LNK_RX_FRAMES_HI k) = (s.reg64 (Reg.TWIN_LNK_RX_FRAMES_LO k) (Reg.TWIN_LNK_RX_FRAMES_HI k) + 1) % 2 ^ 64 ∧ t.flag (F.TWIN_LNK_STATUS_SILENT k) = false ∧ Touches [] (pair (Reg.TWIN_LNK_RX_FRAMES_LO k) ++ [F.TWIN_LNK_STATUS_SILENT k, F.TWIN_LNK_INT_STATUS_CNT_OVF]) s t) ∧
  (∀ (s : State) (x : XstepSt) (k : Nat), s.pwr.mainUp = true → s.twin.xstep = some x → x.committed = false → x.from' = some k →
    Answers .xstepOrphan s fun t =>
      t.twin.xstep = none ∧ t.fld F.TWIN_XSTEP_STATUS_STATE = 0 ∧ (∀ p, s.tb.pend = some p → p.xstep = true → tbDue p s ≠ 0 → t.tb.pend = none) ∧ t.fld F.TWIN_XSTEP_STATUS_RESULT = 5 ∧ t.flag F.TWIN_STK_INT_STATUS_XSTEP_ORPHAN = true ∧ t.twin = { s.twin with xstep := none } ∧ Within [.regs, .tb, .twin] s t) ∧
  (∀ (s : State), s.pwr.mainUp = true → s.twin.xstep.all (·.committed) = true → Answers .xstepOrphan s fun t => t = s) ∧
  (∀ (s : State) (ag : Agent) (d : Word) (x : XstepSt), s.pwr.mainUp = true → pf1Denied ag Reg.TWIN_XSTEP_CMD s = false → d.getLsbD 0 = false → s.twin.xstep = some x → x.from' = none → x.committed = false →
    Answers (.xstepAbortCmd ag d) s fun t =>
      t.twin.xstep = none ∧ t.fld F.TWIN_XSTEP_STATUS_STATE = 0 ∧ (∀ p, s.tb.pend = some p → p.xstep = true → tbDue p s ≠ 0 → t.tb.pend = none) ∧ t.fld F.TWIN_XSTEP_STATUS_RESULT = 4 ∧ t.flag F.TWIN_STK_INT_STATUS_XSTEP_FAIL = true ∧ Within [.regs, .tb, .twin, .lanes] s t) ∧
  (∀ (s : State) (ag : Agent) (d : Word), s.pwr.mainUp = true → pf1Denied ag Reg.TWIN_XSTEP_CMD s = false → d.getLsbD 0 = false → s.twin.xstep.all (fun x => x.committed || x.from'.isSome) = true →
    Answers (.xstepAbortCmd ag d) s fun t => Touches [] [whole Reg.TWIN_XSTEP_CMD] s t)

/-- Unit addresses and boot (R526 to R536): a value heard twice in a row on ENUM_IN becomes the part's address, which it sends on plus 1, or shows a mismatch; a head takes 0; image words go to SRAM from PF0, or from the bus, as the strap says, elsewhere they are denied; GO starts a verification, which runs the image or fails with the CODE of the first test that it does not pass; RESTART clears Hearth; a fuse command revokes slots
and raises SECVER, refused where no valid slot would be left. The management bus answers for its unit. An enumeration frame is a start of 4 µs, a gap of 1 µs and six bits of 2 µs; a mismatch takes two frames in a row of another value; the cores are released at 0x200 + ENTRY.
That SECVER saturates at 64, the fuses apply at once but a verification judges by those that its GO found, CODE is 0 on success, RESTART keeps CODE and a refused GO sets LOAD_DENIED is log 29, the order of the bytes in the SRAM log 4. -/
def Obligations.UnitAddressesAndBoot : Prop :=
  (∀ (s : State), s.pwr.ovenUp = true → s.pwr.oclkUp = true → s.flag F.CHIP_UNIT_VALID = true → s.fld F.CHIP_UNIT_UNIT < 63 → Answers .enumFrameSend s fun t => t.boot = { s.boot with enumOut := ([(true, 4000), (false, 1000)] ++ (List.range 6).flatMap fun i => if Nat.testBit (s.fld F.CHIP_UNIT_UNIT + 1) (5 - i) then [(true, 1500), (false, 500)] else [(true, 500), (false, 1500)]) } ∧ Within [.boot] s t) ∧
  (∀ (s : State), s.pwr.ovenUp = true → s.pwr.oclkUp = true → (s.flag F.CHIP_UNIT_VALID = false ∨ s.fld F.CHIP_UNIT_UNIT = 63) → Answers .enumFrameSend s fun t => t.boot = { s.boot with enumOut := [] } ∧ Within [.boot] s t) ∧
  (∀ (s : State) (start : Nat) (ps : List (Nat × Nat)) (v : Nat), s.pwr.ovenUp = true → s.pwr.oclkUp = true → s.boot.enumHead = false → 3000 ≤ start → start ≤ 5000 → ps.length = 6 → (∀ p ∈ ps, 1600 ≤ p.2 ∧ p.2 ≤ 2400 ∧ ((1100 ≤ p.1 ∧ p.1 ≤ 1900) ∨ (200 ≤ p.1 ∧ p.1 ≤ 800))) → v = ps.foldl (fun v p => 2 * v + if 1100 ≤ p.1 then 1 else 0) 0 → s.flag F.CHIP_UNIT_HEARD_VALID = true → s.fld F.CHIP_UNIT_HEARD = v → s.flag F.CHIP_UNIT_VALID = false →
    Answers (.enumFrameReceive start ps) s fun t =>
      t.fld F.CHIP_UNIT_UNIT = v ∧ t.flag F.CHIP_UNIT_VALID = true ∧ t.flag F.CHIP_INT_STATUS_ENUM_DONE = true ∧
      t.boot = { s.boot with enumOut := if v < 63 then ([(true, 4000), (false, 1000)] ++ (List.range 6).flatMap fun i => if Nat.testBit (v + 1) (5 - i) then [(true, 1500), (false, 500)] else [(true, 500), (false, 1500)]) else [] } ∧ Touches [.boot] [whole Reg.CHIP_UNIT, F.CHIP_INT_STATUS_ENUM_DONE] s t) ∧
  (∀ (s : State) (start : Nat) (ps : List (Nat × Nat)) (v : Nat), s.pwr.ovenUp = true → s.pwr.oclkUp = true → s.boot.enumHead = false → 3000 ≤ start → start ≤ 5000 → ps.length = 6 → (∀ p ∈ ps, 1600 ≤ p.2 ∧ p.2 ≤ 2400 ∧ ((1100 ≤ p.1 ∧ p.1 ≤ 1900) ∨ (200 ≤ p.1 ∧ p.1 ≤ 800))) → v = ps.foldl (fun v p => 2 * v + if 1100 ≤ p.1 then 1 else 0) 0 → s.flag F.CHIP_UNIT_VALID = false → (s.flag F.CHIP_UNIT_HEARD_VALID = false ∨ s.fld F.CHIP_UNIT_HEARD ≠ v) →
    Answers (.enumFrameReceive start ps) s fun t =>
      t.fld F.CHIP_UNIT_HEARD = v ∧ t.flag F.CHIP_UNIT_HEARD_VALID = true ∧ Touches [] [F.CHIP_UNIT_HEARD, F.CHIP_UNIT_HEARD_VALID] s t) ∧
  (∀ (s : State) (start : Nat) (ps : List (Nat × Nat)) (v : Nat), s.pwr.ovenUp = true → s.pwr.oclkUp = true → s.boot.enumHead = false → 3000 ≤ start → start ≤ 5000 → ps.length = 6 → (∀ p ∈ ps, 1600 ≤ p.2 ∧ p.2 ≤ 2400 ∧ ((1100 ≤ p.1 ∧ p.1 ≤ 1900) ∨ (200 ≤ p.1 ∧ p.1 ≤ 800))) → v = ps.foldl (fun v p => 2 * v + if 1100 ≤ p.1 then 1 else 0) 0 → s.flag F.CHIP_UNIT_VALID = true →
    Answers (.enumFrameReceive start ps) s fun t =>
      t.flag F.CHIP_INT_STATUS_ENUM_MISMATCH = (s.flag F.CHIP_INT_STATUS_ENUM_MISMATCH || (s.flag F.CHIP_UNIT_HEARD_VALID && decide (s.fld F.CHIP_UNIT_HEARD ≠ s.fld F.CHIP_UNIT_UNIT ∧ v ≠ s.fld F.CHIP_UNIT_UNIT))) ∧ t.fld F.CHIP_UNIT_UNIT = s.fld F.CHIP_UNIT_UNIT ∧
      t.fld F.CHIP_UNIT_HEARD = v ∧ t.flag F.CHIP_UNIT_HEARD_VALID = true ∧
      Touches [] [F.CHIP_UNIT_HEARD, F.CHIP_UNIT_HEARD_VALID, F.CHIP_INT_STATUS_ENUM_MISMATCH] s t) ∧
  (∀ (s : State) (start : Nat) (ps : List (Nat × Nat)), (s.boot.enumHead = true ∨ start < 3000 ∨ 5000 < start ∨ ps.length ≠ 6) → Answers (.enumFrameReceive start ps) s fun t => t = s) ∧
  (∀ (s : State), s.pwr.ovenUp = true → s.pwr.oclkUp = true → Answers .enumTimeout s fun t =>
      t.flag F.CHIP_INT_STATUS_ENUM_TIMEOUT = (s.flag F.CHIP_INT_STATUS_ENUM_TIMEOUT || !s.flag F.CHIP_UNIT_VALID) ∧ Touches [] [F.CHIP_INT_STATUS_ENUM_TIMEOUT] s t) ∧
  (∀ (s : State) (ag : Agent) (d : Word), s.pwr.mainUp = true → pf1Denied ag Reg.CHIP_ENUM_CMD s = false →
    Answers (.reenum ag d) s fun t =>
      (s.boot.enumHead = false → t.flag F.CHIP_UNIT_VALID = false ∧ t.boot = { s.boot with enumOut := [] } ∧ t.fld F.CHIP_UNIT_UNIT = s.fld F.CHIP_UNIT_UNIT) ∧
      (s.boot.enumHead = true → t.flag F.CHIP_UNIT_VALID = true ∧ t.fld F.CHIP_UNIT_UNIT = 0 ∧ t.flag F.CHIP_INT_STATUS_ENUM_DONE = true ∧ t.boot.enumOut = ([(true, 4000), (false, 1000)] ++ (List.range 6).flatMap fun i => if Nat.testBit (1) (5 - i) then [(true, 1500), (false, 500)] else [(true, 500), (false, 1500)])) ∧
      Touches [.boot] (whole Reg.CHIP_ENUM_CMD :: [whole Reg.CHIP_UNIT, F.CHIP_INT_STATUS_ENUM_DONE]) s t) ∧
  (∀ (s : State) (d : Word), s.pwr.mainUp = true → s.boot.strapBoot = false → s.fld F.HRTH_BOOT_STATUS_STATE ≠ 3 → s.fld F.HRTH_BOOT_STATUS_STATE ≠ 4 →
    Answers (.hrthLoadDataWrite .pf0 d) s fun t =>
      t.sramBytes (s.fld F.HRTH_LOAD_ADDR_ADDR / 4 * 4) 4 = leBytes 4 d.toNat ∧ t.fld F.HRTH_LOAD_ADDR_ADDR = ((s.fld F.HRTH_LOAD_ADDR_ADDR / 4 * 4) + 4) % 2 ^ 22 ∧ SramKeep (s.fld F.HRTH_LOAD_ADDR_ADDR / 4 * 4) 4 s t ∧ Touches [.sram] [whole Reg.HRTH_LOAD_DATA, F.HRTH_LOAD_ADDR_ADDR] s t) ∧
  (∀ (s : State) (ag : Agent) (d : Word), s.pwr.mainUp = true → pf1Denied ag Reg.HRTH_LOAD_DATA s = false → (ag ≠ .pf0 ∨ s.boot.strapBoot = true ∨ s.fld F.HRTH_BOOT_STATUS_STATE = 3 ∨ s.fld F.HRTH_BOOT_STATUS_STATE = 4) →
    Answers (.hrthLoadDataWrite ag d) s fun t => t.flag F.HRTH_INT_STATUS_LOAD_DENIED = true ∧ Touches [] [whole Reg.HRTH_LOAD_DATA, F.HRTH_INT_STATUS_LOAD_DENIED] s t) ∧
  (∀ (s : State) (d : Word), s.pwr.mainUp = true → d.getLsbD 1 = false → s.boot.strapBoot = false → (s.fld F.HRTH_BOOT_STATUS_STATE = 1 ∨ s.fld F.HRTH_BOOT_STATUS_STATE = 2 ∨ s.fld F.HRTH_BOOT_STATUS_STATE = 5) →
    Answers (.go .pf0 d) s fun t => t.fld F.HRTH_BOOT_STATUS_STATE = 3 ∧ t.boot = { s.boot with seen := { valid := s.boot.valid, revoked := s.boot.revoked, secver := s.boot.secver, hash := s.boot.hash } } ∧
      Touches [.hst, .boot] [whole Reg.HRTH_BOOT_CMD, F.HRTH_BOOT_STATUS_STATE] s t) ∧
  (∀ (s : State) (ag : Agent) (d : Word), s.pwr.mainUp = true → pf1Denied ag Reg.HRTH_BOOT_CMD s = false → d.getLsbD 1 = false → (ag ≠ .pf0 ∨ s.boot.strapBoot = true ∨ s.fld F.HRTH_BOOT_STATUS_STATE = 3 ∨ s.fld F.HRTH_BOOT_STATUS_STATE = 4) →
    Answers (.go ag d) s fun t => t.flag F.HRTH_INT_STATUS_LOAD_DENIED = true ∧ Touches [.hst] [whole Reg.HRTH_BOOT_CMD, F.HRTH_INT_STATUS_LOAD_DENIED] s t) ∧
  (∀ (s : State), s.pwr.mainUp = true → s.fld F.HRTH_BOOT_STATUS_STATE = 3 →
    Answers .bootVerifyDone s fun t =>
      ((leNat (s.sramBytes 0 4) ≠ 0x5A4C5259 ∨ leNat (s.sramBytes 4 4) ≠ 1) → t.fld F.HRTH_BOOT_STATUS_CODE = 1 ∧ t.fld F.HRTH_BOOT_STATUS_STATE = 5 ∧ t.flag F.HRTH_INT_STATUS_BOOT_FAIL = true ∧ t.boot = s.boot) ∧ (¬(leNat (s.sramBytes 0 4) ≠ 0x5A4C5259 ∨ leNat (s.sramBytes 4 4) ≠ 1) → (leNat (s.sramBytes 8 4) = 0 ∨ 4193792 < leNat (s.sramBytes 8 4) ∨ leNat (s.sramBytes 8 4) % 4 ≠ 0 ∨ leNat (s.sramBytes 8 4) ≤ leNat (s.sramBytes 12 4) ∨ leNat (s.sramBytes 12 4) % 4 ≠ 0) → t.fld F.HRTH_BOOT_STATUS_CODE = 2 ∧ t.fld F.HRTH_BOOT_STATUS_STATE = 5 ∧ t.flag F.HRTH_INT_STATUS_BOOT_FAIL = true ∧ t.boot = s.boot) ∧ (¬(leNat (s.sramBytes 0 4) ≠ 0x5A4C5259 ∨ leNat (s.sramBytes 4 4) ≠ 1) → ¬(leNat (s.sramBytes 8 4) = 0 ∨ 4193792 < leNat (s.sramBytes 8 4) ∨ leNat (s.sramBytes 8 4) % 4 ≠ 0 ∨ leNat (s.sramBytes 8 4) ≤ leNat (s.sramBytes 12 4) ∨ leNat (s.sramBytes 12 4) % 4 ≠ 0) → (keySlot s) = none → t.fld F.HRTH_BOOT_STATUS_CODE = 3 ∧ t.fld F.HRTH_BOOT_STATUS_STATE = 5 ∧ t.flag F.HRTH_INT_STATUS_BOOT_FAIL = true ∧ t.boot = s.boot) ∧ (¬(leNat (s.sramBytes 0 4) ≠ 0x5A4C5259 ∨ leNat (s.sramBytes 4 4) ≠ 1) → ¬(leNat (s.sramBytes 8 4) = 0 ∨ 4193792 < leNat (s.sramBytes 8 4) ∨ leNat (s.sramBytes 8 4) % 4 ≠ 0 ∨ leNat (s.sramBytes 8 4) ≤ leNat (s.sramBytes 12 4) ∨ leNat (s.sramBytes 12 4) % 4 ≠ 0) → (keySlot s) ≠ none → Config.ecdsaVerify (s.sramBytes 0x50 96) (Config.sha384 (s.sramBytes 0 0xB0)) (s.sramBytes 0xB0 96) = false → t.fld F.HRTH_BOOT_STATUS_CODE = 4 ∧ t.fld F.HRTH_BOOT_STATUS_STATE = 5 ∧ t.flag F.HRTH_INT_STATUS_BOOT_FAIL = true ∧ t.boot = s.boot) ∧
      (¬(leNat (s.sramBytes 0 4) ≠ 0x5A4C5259 ∨ leNat (s.sramBytes 4 4) ≠ 1) → ¬(leNat (s.sramBytes 8 4) = 0 ∨ 4193792 < leNat (s.sramBytes 8 4) ∨ leNat (s.sramBytes 8 4) % 4 ≠ 0 ∨ leNat (s.sramBytes 8 4) ≤ leNat (s.sramBytes 12 4) ∨ leNat (s.sramBytes 12 4) % 4 ≠ 0) → (keySlot s) ≠ none → ¬(Config.ecdsaVerify (s.sramBytes 0x50 96) (Config.sha384 (s.sramBytes 0 0xB0)) (s.sramBytes 0xB0 96) = false) → Config.sha384 (s.sramBytes 0x200 (leNat (s.sramBytes 8 4))) ≠ BitVec.ofNat 384 (beNat (s.sramBytes 0x20 48)) → t.fld F.HRTH_BOOT_STATUS_CODE = 5 ∧ t.fld F.HRTH_BOOT_STATUS_STATE = 5 ∧ t.flag F.HRTH_INT_STATUS_BOOT_FAIL = true ∧ t.boot = s.boot) ∧ (¬(leNat (s.sramBytes 0 4) ≠ 0x5A4C5259 ∨ leNat (s.sramBytes 4 4) ≠ 1) → ¬(leNat (s.sramBytes 8 4) = 0 ∨ 4193792 < leNat (s.sramBytes 8 4) ∨ leNat (s.sramBytes 8 4) % 4 ≠ 0 ∨ leNat (s.sramBytes 8 4) ≤ leNat (s.sramBytes 12 4) ∨ leNat (s.sramBytes 12 4) % 4 ≠ 0) → (keySlot s) ≠ none → ¬(Config.ecdsaVerify (s.sramBytes 0x50 96) (Config.sha384 (s.sramBytes 0 0xB0)) (s.sramBytes 0xB0 96) = false) → ¬(Config.sha384 (s.sramBytes 0x200 (leNat (s.sramBytes 8 4))) ≠ BitVec.ofNat 384 (beNat (s.sramBytes 0x20 48))) → leNat (s.sramBytes 16 4) < s.boot.seen.secver → t.fld F.HRTH_BOOT_STATUS_CODE = 6 ∧ t.fld F.HRTH_BOOT_STATUS_STATE = 5 ∧ t.flag F.HRTH_INT_STATUS_BOOT_FAIL = true ∧ t.boot = s.boot) ∧
      (¬(leNat (s.sramBytes 0 4) ≠ 0x5A4C5259 ∨ leNat (s.sramBytes 4 4) ≠ 1) → ¬(leNat (s.sramBytes 8 4) = 0 ∨ 4193792 < leNat (s.sramBytes 8 4) ∨ leNat (s.sramBytes 8 4) % 4 ≠ 0 ∨ leNat (s.sramBytes 8 4) ≤ leNat (s.sramBytes 12 4) ∨ leNat (s.sramBytes 12 4) % 4 ≠ 0) → (keySlot s) ≠ none → ¬(Config.ecdsaVerify (s.sramBytes 0x50 96) (Config.sha384 (s.sramBytes 0 0xB0)) (s.sramBytes 0xB0 96) = false) → ¬(Config.sha384 (s.sramBytes 0x200 (leNat (s.sramBytes 8 4))) ≠ BitVec.ofNat 384 (beNat (s.sramBytes 0x20 48))) → ¬(leNat (s.sramBytes 16 4) < s.boot.seen.secver) →
        t.fld F.HRTH_BOOT_STATUS_CODE = 0 ∧ t.fld F.HRTH_BOOT_STATUS_STATE = 4 ∧ t.fld F.HRTH_BOOT_STATUS_SLOT = (keySlot s).getD 0 ∧ t.flag F.HRTH_INT_STATUS_RUNNING = true ∧
        t.boot = { s.boot with cores := 0xF, entry := 0x200 + leNat (s.sramBytes 12 4), busErr := 0, kicks := [s.clk.tclk, s.clk.tclk, s.clk.tclk, s.clk.tclk] }) ∧
      Touches [.boot] [whole Reg.HRTH_BOOT_STATUS, F.HRTH_INT_STATUS_RUNNING, F.HRTH_INT_STATUS_BOOT_FAIL] s t) ∧
  (∀ (s : State), s.pwr.mainUp = true → s.fld F.HRTH_BOOT_STATUS_STATE ≠ 3 → Answers .bootVerifyDone s fun t => t = s) ∧
  (∀ (s : State) (ag : Agent) (d : Word), s.pwr.mainUp = true → pf1Denied ag Reg.HRTH_BOOT_CMD s = false → (ag = .pf0 ∨ ∃ c, ag = .hearth c) → d.getLsbD 0 = false →
    Answers (.restart ag d) s fun t =>
      t.sram = [] ∧ t.boot = { s.boot with cores := 0 } ∧ t.fld F.HRTH_BOOT_STATUS_STATE = (if s.boot.strapBoot then 2 else 1) ∧ t.fld F.HRTH_BOOT_STATUS_CODE = s.fld F.HRTH_BOOT_STATUS_CODE ∧
      t.fld F.FLT_LIVE_HUNG = 0 ∧ t.hst.mbox = [] ∧ (∀ q : Fin 16, t.reg (Reg.MBOX_Q_MASK q) = regReset (Reg.MBOX_Q_MASK q)) ∧ Within [.regs, .sram, .hst, .boot] s t) ∧
  (∀ (s : State) (c : Fin 4) (d : Word), s.pwr.mainUp = true → s.boot.valid &&& ~~~(s.boot.revoked ||| d.setWidth 4) ≠ 0 →
    Answers (.fuseCmdGo (.hearth c) d) s fun t =>
      t.boot = { s.boot with revoked := s.boot.revoked ||| d.setWidth 4, secver := if d.getLsbD 8 then min 64 (s.boot.secver + 1) else s.boot.secver } ∧ Touches [.boot] [whole Reg.HRTH_FUSE_CMD] s t) ∧
  (∀ (s : State) (c : Fin 4) (d : Word), s.pwr.mainUp = true → s.boot.valid &&& ~~~(s.boot.revoked ||| d.setWidth 4) = 0 →
    Answers (.fuseCmdGo (.hearth c) d) s fun t => t.flag F.HRTH_INT_STATUS_FUSE_REFUSED = true ∧ Touches [] [whole Reg.HRTH_FUSE_CMD, F.HRTH_INT_STATUS_FUSE_REFUSED] s t) ∧
  (∀ (s : State) (ag : Agent) (d : Word), s.pwr.mainUp = true → pf1Denied ag Reg.HRTH_FUSE_CMD s = false → (∀ c, ag ≠ .hearth c) → Answers (.fuseCmdGo ag d) s fun t => Touches [] [] s t) ∧
  (∀ (s : State) (u b0 b1 b2 b3 : Byte), s.pwr.mainUp = true → s.flag F.CHIP_UNIT_VALID = true → u.toNat = s.fld F.CHIP_UNIT_UNIT → s.boot.strapBoot = true → s.fld F.HRTH_BOOT_STATUS_STATE ≠ 3 → s.fld F.HRTH_BOOT_STATUS_STATE ≠ 4 →
    Answers (.mgmtBusTransaction [u, 0x12, b0, b1, b2, b3] false) s fun t =>
      t.sramBytes (s.fld F.HRTH_LOAD_ADDR_ADDR / 4 * 4) 4 = [b3, b2, b1, b0] ∧ t.fld F.HRTH_LOAD_ADDR_ADDR = ((s.fld F.HRTH_LOAD_ADDR_ADDR / 4 * 4) + 4) % 2 ^ 22 ∧ t.boot = { s.boot with mgmtAck := true, mgmtOut := [] } ∧
      SramKeep (s.fld F.HRTH_LOAD_ADDR_ADDR / 4 * 4) 4 s t ∧ Touches [.sram, .boot] [F.HRTH_LOAD_ADDR_ADDR] s t) ∧
  (∀ (s : State) (u : Byte), s.pwr.mainUp = true → s.flag F.CHIP_UNIT_VALID = true → u.toNat = s.fld F.CHIP_UNIT_UNIT →
    Answers (.mgmtBusTransaction [u, 0x10] true) s fun t =>
      t.boot = { s.boot with mgmtAck := true, mgmtOut := beBytes 4 (s.reg Reg.HRTH_BOOT_STATUS).toNat } ∧ Touches [.boot] [] s t) ∧
  (∀ (s : State) (u r : Byte) (rest : List Byte), s.pwr.mainUp = true → u ≠ 0xFF → (s.flag F.CHIP_UNIT_VALID = false ∨ u.toNat ≠ s.fld F.CHIP_UNIT_UNIT) →
    Answers (.mgmtBusTransaction (u :: r :: rest) true) s fun t => t.boot = { s.boot with mgmtAck := false, mgmtOut := [0xFF, 0xFF, 0xFF, 0xFF] } ∧ Within [.boot] s t)

/-- Errors and test access (R545 to R551, R553 to R555, R563 to R573): with ECC and the scrubber on, a single-bit error counts in class 1 and a double-bit one in class 2, both with their place in the log, and a lost descriptor loses its frame and leaves its slices to the auditor, a lost word of a table the frame that is looked up with it, a lost word of a bin table its cell, and a core that meets one takes a bus error; an access meets errors with the scrubber off too; a parity error flips a plain bit, not one that is kept twice, and counts in class 3, one of the time base leaves there what the flops hold and counts in class 4; a core that has not kicked is halted and
reported in class 15; each cycle of TCK moves the controller of IEEE 1149.1, captures, shifts and updates as its state says: IDCODE reads 0xB76805A3, the boundary register captures pins and test receivers, EXTEST_PULSE and EXTEST_TRAIN flip the enabled pairs in Run-Test/Idle, board test takes the pins from the lanes; TST_ACCESS writes and reads window 3, locked it is replaced by BYPASS; a read that must wait shows VALID 0; entering board test drops the signal of the lanes and the PCIe link; FUSE_PROG blows a hash once, or is refused.
The IEEE 1149.1 controller, the pulse and the train of Run-Test/Idle and what the cells capture are log 40, the bit that a parity error flips, the codes of the blocks and the operands of errors log 30. -/
def Obligations.ErrorsWatchdogsAndTestAccess : Prop :=
  (∀ (s : State) (addr : Nat) (who : EccBy), s.pwr.mainUp = true → s.flag F.FLT_CTRL_ECC_EN = true → (who = .scrubber → s.flag F.FLT_CTRL_SCRUB_EN = true) →
    Answers (.scrubRead 0 addr .single who) s fun t => t.reg (Reg.FLT_CLASS_COUNT 0) = s.reg (Reg.FLT_CLASS_COUNT 0) + 1 ∧ t.rbit Reg.FLT_CLASS_PEND 1 = true ∧ (s.flag (F.FLT_CLASS_CFG_LOG_EN 0) = true → t.reg (Reg.FLT_LOG (4 * (s.fld F.FLT_LOG_HEAD_NEXT))) = BitVec.ofNat 32 (1 + 0x06 * 2 ^ 8 + s.fld F.FLT_LOG_HEAD_SEQ_NEXT * 2 ^ 16) ∧ t.reg (Reg.FLT_LOG (4 * (s.fld F.FLT_LOG_HEAD_NEXT) + 1)) = BitVec.ofNat 32 (addr % 2 ^ 24 + 0 * 2 ^ 24)) ∧ Within [.regs, .loop, .twin] s t) ∧
  (∀ (s : State) (addr : Nat) (who : EccBy), s.pwr.mainUp = true → s.flag F.FLT_CTRL_ECC_EN = true → (who = .scrubber → s.flag F.FLT_CTRL_SCRUB_EN = true) →
    Answers (.scrubRead 0 addr .double who) s fun t =>
      t.reg (Reg.FLT_CLASS_COUNT 1) = s.reg (Reg.FLT_CLASS_COUNT 1) + 1 ∧ t.rbit Reg.FLT_CLASS_PEND 2 = true ∧ (s.flag (F.FLT_CLASS_CFG_LOG_EN 1) = true → t.reg (Reg.FLT_LOG (4 * (s.fld F.FLT_LOG_HEAD_NEXT))) = BitVec.ofNat 32 (2 + 0x06 * 2 ^ 8 + s.fld F.FLT_LOG_HEAD_SEQ_NEXT * 2 ^ 16) ∧ t.reg (Reg.FLT_LOG (4 * (s.fld F.FLT_LOG_HEAD_NEXT) + 1)) = BitVec.ofNat 32 (addr % 2 ^ 24 + 0 * 2 ^ 24)) ∧ (∀ c : Fin 4, t.boot.busErr.getLsbD c = (s.boot.busErr.getLsbD c || decide (who = .core c))) ∧
      t.boot = { s.boot with busErr := t.boot.busErr } ∧ Within [.regs, .loop, .twin, .boot] s t) ∧
  (∀ (s : State) (addr n : Nat) (who : EccBy), s.pwr.mainUp = true → s.flag F.FLT_CTRL_ECC_EN = true → (who = .scrubber → s.flag F.FLT_CTRL_SCRUB_EN = true) → n < 24 → who ∈ [EccBy.scrubber, .access] →
    Answers (.scrubRead (0x20 + n) addr .double who) s fun t => t.reg (Reg.FLT_CLASS_COUNT 1) = s.reg (Reg.FLT_CLASS_COUNT 1) + 1 ∧ t.rbit Reg.FLT_CLASS_PEND 2 = true ∧ (s.flag (F.FLT_CLASS_CFG_LOG_EN 1) = true → t.reg (Reg.FLT_LOG (4 * (s.fld F.FLT_LOG_HEAD_NEXT))) = BitVec.ofNat 32 (2 + 0x0A * 2 ^ 8 + s.fld F.FLT_LOG_HEAD_SEQ_NEXT * 2 ^ 16) ∧ t.reg (Reg.FLT_LOG (4 * (s.fld F.FLT_LOG_HEAD_NEXT) + 1)) = BitVec.ofNat 32 (addr % 2 ^ 24 + (0x20 + n) * 2 ^ 24)) ∧ Within [.regs, .loop, .twin] s t) ∧
  (∀ (s : State) (addr n id : Nat) (f : Frame) (who : EccBy), s.pwr.mainUp = true → s.flag F.FLT_CTRL_ECC_EN = true → (who = .scrubber → s.flag F.FLT_CTRL_SCRUB_EN = true) → n < 24 → who = .lookup id → s.frame? id = some f → f.phase = .looked → f.pipe = n → f.ended = true → f.tag = none → f.slices = [] →
    Answers (.scrubRead (0x20 + n) addr .double who) s fun t =>
      t.reg (Reg.FLT_CLASS_COUNT 1) = s.reg (Reg.FLT_CLASS_COUNT 1) + 1 ∧ t.rbit Reg.FLT_CLASS_PEND 2 = true ∧ t.frame? id = none ∧ (smapGet noSlots s.tlm.slots n = [true] → smapGet noSlots t.tlm.slots n = [false]) ∧ FramesKeep [id] s t ∧ Within [.regs, .loop, .net, .tlm, .twin] s t) ∧
  (∀ (s : State) (id : Nat) (f : Frame) (who : EccBy), s.pwr.mainUp = true → s.flag F.FLT_CTRL_ECC_EN = true → (who = .scrubber → s.flag F.FLT_CTRL_SCRUB_EN = true) → s.frame? id = some f → f.phase = .queued → f.ended = true → f.tag = none → f.trap = none →
    Answers (.scrubRead 1 id .double who) s fun t =>
      t.reg (Reg.FLT_CLASS_COUNT 1) = s.reg (Reg.FLT_CLASS_COUNT 1) + 1 ∧ t.rbit Reg.FLT_CLASS_PEND 2 = true ∧ t.frame? id = none ∧ t.queue (queueOf f.egress f.queue) = (s.queue (queueOf f.egress f.queue)).filter (· ≠ id) ∧
      t.fld F.BUF_FREE_FREE = s.fld F.BUF_FREE_FREE ∧ (∀ n ∈ f.slices, smapGet noLost t.net.lost n = some 0) ∧ FramesKeep [id] s t ∧ Within [.regs, .loop, .net, .twin] s t) ∧
  (∀ (s : State) (addr : Nat) (who : EccBy), s.pwr.mainUp = true → s.flag F.FLT_CTRL_ECC_EN = true → (who = .scrubber → s.flag F.FLT_CTRL_SCRUB_EN = true) → addr < 0x80000 → s.rbit Reg.MET_CELL_OUT (addr / 0x4000) = false →
    Answers (.scrubRead 7 addr .double who) s fun t =>
      t.reg (Reg.FLT_CLASS_COUNT 1) = s.reg (Reg.FLT_CLASS_COUNT 1) + 1 ∧ t.rbit Reg.FLT_CLASS_PEND 2 = true ∧ t.reg (Reg.FLT_CLASS_COUNT 11) = s.reg (Reg.FLT_CLASS_COUNT 11) + 1 ∧ t.rbit Reg.FLT_CLASS_PEND 12 = true ∧ t.rbit Reg.MET_CELL_OUT (addr / 0x4000) = true ∧ t.flag F.MET_INT_STATUS_PILOT_FAIL = true ∧ t.flag F.MET_INT_STATUS_CELL_OUT = true ∧ Within [.regs, .met, .loop, .twin] s t) ∧
  (∀ (s : State) (n : Nat) (who : EccBy), s.pwr.mainUp = true → s.flag F.FLT_CTRL_ECC_EN = true → (who = .scrubber → s.flag F.FLT_CTRL_SCRUB_EN = true) → sliceFree s n = true → s.fld F.BUF_FREE_FREE ≠ 0 →
    Answers (.scrubRead 3 n .double who) s fun t =>
      t.reg (Reg.FLT_CLASS_COUNT 1) = s.reg (Reg.FLT_CLASS_COUNT 1) + 1 ∧ t.fld F.BUF_FREE_FREE = s.fld F.BUF_FREE_FREE - 1 ∧ smapGet noLost t.net.lost n = some 0 ∧ t.net.frames = s.net.frames ∧ Within [.regs, .loop, .net, .twin] s t) ∧
  (∀ (s : State) (m addr : Nat) (e : EccErr) (who : EccBy), s.pwr.mainUp = true → (s.flag F.FLT_CTRL_ECC_EN = false ∨ (s.flag F.FLT_CTRL_SCRUB_EN = false ∧ who = .scrubber) ∨ 0x58 ≤ m ∨ e = .none) → Answers (.scrubRead m addr e who) s fun t => t = s) ∧
  (∀ (s : State) (addr : BitVec 26) (i : Fin 32), s.pwr.mainUp = true → (regDef? (addr.toNat / 4)).isSome = true → ((regOf (addr.toNat / 4)).rwl ||| (regOf (addr.toNat / 4)).wo).getLsbD i = false → (regOf (addr.toNat / 4)).rw.getLsbD i = true →
    Answers (.regParity addr i) s fun t =>
      ((addr.toNat / 4) ≠ Reg.FLT_CLASS_COUNT 2 → t.rbit (addr.toNat / 4) i = !s.rbit (addr.toNat / 4) i) ∧ t.rbit (pageStatus ((addr.toNat / 4) / 1024)) 1 = true ∧ t.rbit Reg.FLT_CLASS_PEND 3 = true ∧
      t.reg (Reg.FLT_CLASS_COUNT 2) = (if (addr.toNat / 4) = Reg.FLT_CLASS_COUNT 2 then s.reg (Reg.FLT_CLASS_COUNT 2) ^^^ BitVec.ofNat 32 (2 ^ i.val) else s.reg (Reg.FLT_CLASS_COUNT 2)) + 1 ∧ Within [.regs, .hst, .loop, .twin] s t) ∧
  (∀ (s : State) (addr : BitVec 26) (i : Fin 32), s.pwr.mainUp = true → (regDef? (addr.toNat / 4)).isSome = true → ((regOf (addr.toNat / 4)).rwl ||| (regOf (addr.toNat / 4)).wo).getLsbD i = true →
    Answers (.regParity addr i) s fun t => t.rbit (pageStatus ((addr.toNat / 4) / 1024)) 1 = true ∧ t.reg (Reg.FLT_CLASS_COUNT 2) = s.reg (Reg.FLT_CLASS_COUNT 2) + 1 ∧ t.rbit Reg.FLT_CLASS_PEND 3 = true ∧ Within [.regs, .hst, .loop, .twin] s t) ∧
  (∀ (s : State) (addr : BitVec 26) (i : Fin 32), s.pwr.mainUp = true → (regDef? (addr.toNat / 4)).isSome = false → Answers (.regParity addr i) s fun t => t.hst = { s.hst with msix := t.hst.msix } ∧ Within [.hst] s t) ∧
  (∀ (s : State) (x : TbFlops), s.pwr.mainUp = true → Answers (.tbaseParity x) s fun t => t.reg (Reg.FLT_CLASS_COUNT 3) = s.reg (Reg.FLT_CLASS_COUNT 3) + 1 ∧ t.rbit Reg.FLT_CLASS_PEND 4 = true ∧ Within [.regs, .tb, .loop, .twin, .free] s t) ∧
  (∀ (s : State) (v : Nat), s.pwr.mainUp = true → Answers (.tbaseParity (.value v)) s fun t => t.tb = { s.tb with value := v % tbWrap (tbFormat s) }) ∧
  (∀ (s : State) (i : BitVec 56), s.pwr.mainUp = true → Answers (.tbaseParity (.active i)) s fun t => incCur t = i.toNat ∧ t.tb = s.tb) ∧
  (∀ (s : State) (i : BitVec 56), s.pwr.mainUp = true → Answers (.tbaseParity (.staged i)) s fun t => t.reg64 Reg.TBASE_INC_LO Reg.TBASE_INC_HI = i.toNat ∧ t.tb = s.tb) ∧
  (∀ (s : State) (e : BitVec 2), s.pwr.mainUp = true → Answers (.tbaseParity (.epoch e)) s fun t => t.fld F.TBASE_LIVE_EPOCH = e.toNat ∧ t.tb = s.tb) ∧
  (∀ (s : State) (b : Bool), s.pwr.mainUp = true → Answers (.tbaseParity (.outage b)) s fun t => t.flag F.TBASE_LIVE_OUTAGE = b ∧ t.tb = s.tb) ∧
  (∀ (s : State) (k : Fin 5) (v : Int), s.pwr.mainUp = true → Answers (.tbaseParity (.offset k v)) s fun t => (t.out k).offset = v ∧ (∀ j : Fin 5, j ≠ k → t.out j = s.out j)) ∧
  (∀ (s : State) (i : BitVec 56) (a o : Int) (r : Nat) (p : TbPend), s.pwr.mainUp = true → s.tb.pend = some p → p.op = some (.step o) →
    Answers (.tbaseParity (.pending i a r)) s fun t => t.tb = { s.tb with pend := some { p with inc := p.inc.map fun _ => i.toNat, op := some (.step a), arm := p.arm.map fun _ => r } }) ∧
  (∀ (s : State) (c : Fin 4) (d : Word), s.pwr.mainUp = true → s.fld F.HRTH_BOOT_STATUS_STATE = 4 → d.getLsbD c = true →
    Answers (.wdogKick (.hearth c) d) s fun t => t.boot = { s.boot with kicks := setNth s.boot.kicks c s.clk.tclk } ∧ Touches [.boot] [whole Reg.FLT_WDOG_KICK] s t) ∧
  (∀ (s : State) (ag : Agent) (d : Word), s.pwr.mainUp = true → pf1Denied ag Reg.FLT_WDOG_KICK s = false → ((∀ c, ag ≠ .hearth c) ∨ s.fld F.HRTH_BOOT_STATUS_STATE ≠ 4) → Answers (.wdogKick ag d) s fun t => Touches [] [whole Reg.FLT_WDOG_KICK] s t) ∧
  (∀ (s : State) (c : Fin 4), s.pwr.mainUp = true → s.fld F.HRTH_BOOT_STATUS_STATE = 4 → s.rbit Reg.FLT_WDOG (8 + c) = true → s.boot.cores.getLsbD c = true →
    Answers (.wdogExpire c) s fun t =>
      (∀ j : Fin 4, t.boot.cores.getLsbD j = (s.boot.cores.getLsbD j && decide (j ≠ c))) ∧ t.rbit Reg.FLT_LIVE (8 + c) = true ∧ t.flag F.FLT_INT_STATUS_WDOG_EXPIRE = true ∧
      t.reg (Reg.FLT_CLASS_COUNT 14) = s.reg (Reg.FLT_CLASS_COUNT 14) + 1 ∧ t.rbit Reg.FLT_CLASS_PEND 15 = true ∧ (s.flag (F.FLT_CLASS_CFG_LOG_EN 14) = true → t.reg (Reg.FLT_LOG (4 * (s.fld F.FLT_LOG_HEAD_NEXT))) = BitVec.ofNat 32 (15 + 0x06 * 2 ^ 8 + s.fld F.FLT_LOG_HEAD_SEQ_NEXT * 2 ^ 16) ∧ t.reg (Reg.FLT_LOG (4 * (s.fld F.FLT_LOG_HEAD_NEXT) + 1)) = BitVec.ofNat 32 (0 % 2 ^ 24 + c.val * 2 ^ 24)) ∧ t.boot = { s.boot with cores := t.boot.cores } ∧ Within [.regs, .loop, .twin, .boot] s t) ∧
  (∀ (s : State) (c : Fin 4), s.pwr.mainUp = true → (s.fld F.HRTH_BOOT_STATUS_STATE ≠ 4 ∨ s.rbit Reg.FLT_WDOG (8 + c) = false ∨ s.boot.cores.getLsbD c = false) → Answers (.wdogExpire c) s fun t => t = s) ∧
  (∀ (s : State), s.pwr.railsGood = true → Answers .tapReset s fun t => t.tap = { s.tap with phase := .reset, ir := 2, falls := 0 } ∧ Within [.tap] s t) ∧
  (∀ (s : State) (cs : List TapClock), s.pwr.railsGood = true → Answers (.tapInstructionUpdate cs) s fun t => t = cs.foldl (fun s c => tapClock c s) s) ∧
  (∀ (s : State) (c : TapClock) (p a b : TapPhase), s.pwr.railsGood = true → (p, a, b) ∈ [(TapPhase.reset, .idle, .reset), (.idle, .idle, .selectDr), (.selectDr, .captureDr, .selectIr), (.captureDr, .shiftDr, .exit1Dr), (.shiftDr, .shiftDr, .exit1Dr), (.exit1Dr, .pauseDr, .updateDr), (.pauseDr, .pauseDr, .exit2Dr), (.exit2Dr, .shiftDr, .updateDr), (.updateDr, .idle, .selectDr), (.selectIr, .captureIr, .reset), (.captureIr, .shiftIr, .exit1Ir), (.shiftIr, .shiftIr, .exit1Ir), (.exit1Ir, .pauseIr, .updateIr), (.pauseIr, .pauseIr, .exit2Ir), (.exit2Ir, .shiftIr, .updateIr), (.updateIr, .idle, .selectDr)] → s.tap.phase = p → (s.tap.ir = 0x20 → c.tms = true → b ≠ .updateDr) →
    Answers (.tapInstructionUpdate [c]) s fun t =>
      t.tap.phase = (if c.tms then b else a) ∧ t.tap.receivers = c.edges.foldl receiveEdge s.tap.receivers ∧ Within [.regs, .hst, .lanes, .tap] s t) ∧
  (∀ (s : State) (c : TapClock), s.pwr.railsGood = true → s.tap.phase = .captureDr →
    Answers (.tapInstructionUpdate [c]) s fun t =>
      (s.tap.ir ∈ [0x00#8, 0x01, 0x05, 0x06] → ∀ i : Fin 1670, t.tap.drShift.getLsbD i = (if (((i.val < 1536 ∨ (1542 ≤ i.val ∧ i.val < 1606)) ∧ i.val % 2 = 1) ∨ (1611 ≤ i.val ∧ i.val ≤ 1614)) then t.tap.receivers.getLsbD i else c.pins.getLsbD i)) ∧
      (s.tap.ir = 0x02 → t.tap.drShift.toNat = 0xB76805A3) ∧ (s.tap.ir = 0x20 → t.tap.drShift.toNat = s.tap.result.toNat + if s.tap.valid then 2 ^ 35 else 0) ∧
      (s.tap.ir = 0x21 → t.tap.drShift.toNat = (if s.tap.blowing.isSome then 2 ^ 386 else 0) + if s.tap.refused then 2 ^ 387 else 0) ∧
      (s.tap.ir ∉ [0x00#8, 0x01, 0x02, 0x05, 0x06, 0x20, 0x21] → t.tap.drShift = 0) ∧ t.tap.ir = s.tap.ir ∧ t.tap.boundary = s.tap.boundary ∧ Within [.tap] s t) ∧
  (∀ (s : State) (c : TapClock) (n : Nat), s.pwr.railsGood = true → s.tap.phase = .shiftDr → n = (if s.tap.ir ∈ [0x00#8, 0x01, 0x05, 0x06] then 1670 else if s.tap.ir = 0x02 then 32 else if s.tap.ir = 0x20 then 36 else if s.tap.ir = 0x21 then 390 else 1) →
    Answers (.tapInstructionUpdate [c]) s fun t =>
      t.tap = { s.tap with phase := if c.tms then .exit1Dr else .shiftDr, falls := 0, receivers := c.edges.foldl receiveEdge s.tap.receivers, drShift := s.tap.drShift >>> 1 ||| BitVec.ofNat 1670 (if c.tdi then 2 ^ (n - 1) else 0), tdo := s.tap.drShift.getLsbD 0 :: s.tap.tdo } ∧ Within [.tap] s t) ∧
  (∀ (s : State) (c : TapClock), s.pwr.railsGood = true → s.tap.phase = .captureIr →
    Answers (.tapInstructionUpdate [c]) s fun t =>
      t.tap = { s.tap with phase := if c.tms then .exit1Ir else .shiftIr, falls := 0, receivers := c.edges.foldl receiveEdge s.tap.receivers, irShift := 1, tdo := [] } ∧ Within [.tap] s t) ∧
  (∀ (s : State) (c : TapClock), s.pwr.railsGood = true → s.tap.phase = .shiftIr →
    Answers (.tapInstructionUpdate [c]) s fun t =>
      t.tap = { s.tap with phase := if c.tms then .exit1Ir else .shiftIr, falls := 0, receivers := c.edges.foldl receiveEdge s.tap.receivers, irShift := s.tap.irShift >>> 1 ||| BitVec.ofNat 8 (if c.tdi then 128 else 0), tdo := s.tap.irShift.getLsbD 0 :: s.tap.tdo } ∧ Within [.tap] s t) ∧
  (∀ (s : State) (c : TapClock), s.pwr.railsGood = true → (s.tap.phase = .exit1Ir ∨ s.tap.phase = .exit2Ir) → c.tms = true → (s.flag F.TST_PORT_CTRL_LOCK = false ∨ (s.tap.irShift ≠ 0x20 ∧ s.tap.irShift ≠ 0x21)) → (s.tap.irShift ∈ [0x00#8, 0x03, 0x04, 0x05, 0x06] → s.tap.ir ∈ [0x00#8, 0x03, 0x04, 0x05, 0x06]) →
    Answers (.tapInstructionUpdate [c]) s fun t =>
      t.tap = { s.tap with phase := .updateIr, falls := 0, receivers := c.edges.foldl receiveEdge s.tap.receivers, ir := s.tap.irShift } ∧ Within [.tap] s t) ∧
  (∀ (s : State) (c : TapClock) (n : Fin 768) (m : Fin 32), s.pwr.railsGood = true → (s.tap.phase = .exit1Ir ∨ s.tap.phase = .exit2Ir) → c.tms = true → s.tap.irShift ∈ [0x00#8, 0x03, 0x04, 0x05, 0x06] → s.tap.ir ∉ [0x00#8, 0x03, 0x04, 0x05, 0x06] →
    Answers (.tapInstructionUpdate [c]) s fun t =>
      t.tap = { s.tap with phase := .updateIr, falls := 0, receivers := c.edges.foldl receiveEdge s.tap.receivers, ir := s.tap.irShift } ∧ t.hst = { s.hst with linkTraining := false } ∧
      ((s.fld (F.DLN_LANE_CTRL_LOOPBACK n) ≠ 1 ∧ s.fld (F.DLN_LANE_CTRL_LOOPBACK n) ≠ 2) → t.flag (F.DLN_LANE_STATUS_SIGNAL n) = false ∧ t.flag (F.DLN_LANE_STATUS_CDR_LOCK n) = false) ∧
      ((s.fld (F.ALN_CTRL_LOOPBACK m) ≠ 1 ∧ s.fld (F.ALN_CTRL_LOOPBACK m) ≠ 2) → t.flag (F.ALN_LANE_STATUS_SIGNAL m) = false ∧ t.flag (F.ALN_LANE_STATUS_CDR_LOCK m) = false ∧ t.flag (F.ALN_LANE_STATUS_SYNC m) = false) ∧
      Within [.regs, .hst, .lanes, .tap] s t) ∧
  (∀ (s : State) (l : LaneId), s.pwr.mainUp = true → s.tap.ir ∈ [0x00#8, 0x03, 0x04, 0x05, 0x06] → hearsSelf s l = false → Answers (.signal l) s fun t => t = s) ∧
  (∀ (s : State) (c : TapClock), s.pwr.railsGood = true → (s.tap.phase = .exit1Ir ∨ s.tap.phase = .exit2Ir) → c.tms = true → s.flag F.TST_PORT_CTRL_LOCK = true → (s.tap.irShift = 0x20 ∨ s.tap.irShift = 0x21) →
    Answers (.tapInstructionUpdate [c]) s fun t =>
      t.tap = { s.tap with phase := .updateIr, falls := 0, receivers := c.edges.foldl receiveEdge s.tap.receivers, ir := 0xFF } ∧ t.flag F.TST_INT_STATUS_ACCESS_LOCKED = true ∧ Touches [.tap] [F.TST_INT_STATUS_ACCESS_LOCKED] s t) ∧
  (∀ (s : State) (c : TapClock), s.pwr.railsGood = true → (s.tap.phase = .exit1Dr ∨ s.tap.phase = .exit2Dr) → c.tms = true → s.tap.ir ∈ [0x00#8, 0x01, 0x05, 0x06] →
    Answers (.tapInstructionUpdate [c]) s fun t =>
      t.tap = { s.tap with phase := .updateDr, falls := 0, receivers := c.edges.foldl receiveEdge s.tap.receivers, boundary := s.tap.drShift } ∧ Within [.tap] s t) ∧
  (∀ (s : State) (c : TapClock), s.pwr.railsGood = true → (s.tap.phase = .exit1Dr ∨ s.tap.phase = .exit2Dr) → c.tms = true → s.tap.ir = 0x20 → exec (.tapInstructionUpdate [c]) s = exec (.tstAccess (s.tap.drShift.setWidth 36)) { s with tap := { s.tap with phase := .updateDr, falls := 0, receivers := c.edges.foldl receiveEdge s.tap.receivers } }) ∧
  (∀ (s : State) (c : TapClock), s.pwr.railsGood = true → (s.tap.phase = .exit1Dr ∨ s.tap.phase = .exit2Dr) → c.tms = true → s.tap.ir = 0x21 → exec (.tapInstructionUpdate [c]) s = exec (.fuseProg (s.tap.drShift.setWidth 390)) { s with tap := { s.tap with phase := .updateDr, falls := 0, receivers := c.edges.foldl receiveEdge s.tap.receivers } }) ∧
  (∀ (s : State) (c : TapClock), s.pwr.railsGood = true → (s.tap.phase = .reset ∨ s.tap.phase = .selectIr) → c.tms = true →
    Answers (.tapInstructionUpdate [c]) s fun t =>
      t.tap = { s.tap with phase := .reset, falls := 0, receivers := c.edges.foldl receiveEdge s.tap.receivers, ir := 2 } ∧ Within [.tap] s t) ∧
  (∀ (s : State) (c : TapClock), s.pwr.railsGood = true → s.tap.phase = .idle → c.tms = false →
    Answers (.tapInstructionUpdate [c]) s fun t =>
      t.tap = { s.tap with receivers := c.edges.foldl receiveEdge s.tap.receivers, falls := s.tap.falls + 1 } ∧ Within [.tap] s t) ∧
  (∀ (s : State) (n : Fin 768), s.tap.boundary.getLsbD (1536 + n / 128) = true →
    (s.tap.ir ∈ [0x00#8, 0x03] → pinDriven s (2 * n) = some (s.tap.boundary.getLsbD (2 * n))) ∧
    (s.tap.ir = 0x05 → pinDriven s (2 * n) = some (s.tap.boundary.getLsbD (2 * n) != decide (0 < s.tap.falls))) ∧
    (s.tap.ir = 0x06 → pinDriven s (2 * n) = some (s.tap.boundary.getLsbD (2 * n) != decide (s.tap.falls % 2 = 1)))) ∧
  (∀ (s : State) (i : Nat), (s.pwr.tripped = true → pinDriven s 1664 = some false) ∧ (s.tap.ir = 0x04 → i ≠ 1664 → pinDriven s i = none) ∧
    (s.tap.boundary = 0 → i ≠ 1664 → pinDriven s i = none)) ∧
  (∀ (r : BitVec 1670) (i j : Fin 1670) (v : Int), (receiveEdge r (i, v)).getLsbD j = (if i = j ∧ (((i.val < 1536 ∨ (1542 ≤ i.val ∧ i.val < 1606)) ∧ i.val % 2 = 1) ∨ (1611 ≤ i.val ∧ i.val ≤ 1614)) ∧ 100 ≤ v.natAbs then decide (0 < v) else r.getLsbD j)) ∧
  (∀ (s : State) (l : LaneId), s.tap.ir ∈ [0x00#8, 0x03, 0x04, 0x05, 0x06] → laneCarries s l = false ∧ (∀ n : Nat, txBalls s l n = none) ∧ (liveWord .tapStatus 0 Reg.TST_TAP_STATUS s).getLsbD 8 = true) ∧
  (∀ (s : State) (dr : BitVec 36), s.pwr.mainUp = true → s.tap.ir = 0x20#8 → dr.getLsbD 35 = true → dr.getLsbD 34 = true → dr.toNat / 2 ^ 32 % 4 ≠ 3 → fifoLevel (s.win 3) < 16 →
    Answers (.tstAccess dr) s fun t =>
      (t.win 3).fifo = (s.win 3).fifo ++ [.write .test (if dr.toNat / 2 ^ 32 % 4 = 0 then .addr else if dr.toNat / 2 ^ 32 % 4 = 1 then .data else .ctrl) (dr.setWidth 32)] ∧
      (∀ k : Fin 3, t.win k = s.win k) ∧ t.tap = s.tap ∧ Within [.regs, .hst, .tap] s t) ∧
  (∀ (s : State) (dr : BitVec 36), s.pwr.mainUp = true → s.tap.ir = 0x20#8 → dr.getLsbD 35 = true → dr.getLsbD 34 = true → dr.toNat / 2 ^ 32 % 4 = 3 →
    Answers (.tstAccess dr) s fun t => (∀ k : Fin 4, t.win k = s.win k) ∧ t.tap = s.tap ∧ Within [.hst] s t) ∧
  (∀ (s : State) (dr : BitVec 36), s.pwr.mainUp = true → s.tap.ir = 0x20#8 → dr.getLsbD 35 = true → dr.getLsbD 34 = false → dr.toNat / 2 ^ 32 % 4 = 0 → (s.win 3).fifo = [] → (s.win 3).taking = false → s.tap.reading = 0 →
    Answers (.tstAccess dr) s fun t => t.tap = { s.tap with result := s.reg (Reg.IND_ADDR 3), valid := true, reading := 0 } ∧ (∀ k : Fin 4, t.win k = s.win k) ∧ Touches [.hst, .tap] [] s t) ∧
  (∀ (s : State) (dr : BitVec 36) (l : Launch) (v : Word), s.pwr.mainUp = true → s.tap.ir = 0x20#8 → dr.getLsbD 35 = true → dr.getLsbD 34 = false → dr.toNat / 2 ^ 32 % 4 = 1 → (s.win 3).fifo = [] → (s.win 3).taking = false → s.tap.reading = 0 → (s.win 3).launch = some l → l.word = some v → l.domain ≠ 0 →
      s.fld (F.IND_CTRL_STRIDE 3) = 0 →
    Answers (.tstAccess dr) s fun t =>
      t.tap = { s.tap with result := v, valid := true, reading := 0 } ∧ t.reg (Reg.IND_DATA 3) = v ∧ Touches [.hst, .tap] [whole (Reg.IND_DATA 3)] s t) ∧
  (∀ (s : State) (dr : BitVec 36), s.pwr.mainUp = true → s.tap.ir = 0x20#8 → dr.getLsbD 35 = true → dr.getLsbD 34 = false → (s.win 3).taking = true →
    Answers (.tstAccess dr) s fun t =>
      t.tap = { s.tap with valid := false, reading := s.tap.reading + 1 } ∧ (t.win 3).fifo = (s.win 3).fifo ++ [.read .test (Fin.ofNat 4 (dr.toNat / 2 ^ 32)) 0] ∧ (∀ k : Fin 3, t.win k = s.win k) ∧ Within [.hst, .tap] s t) ∧
  (∀ (s : State) (dr : BitVec 36), s.pwr.mainUp = true → (s.tap.ir ≠ 0x20#8 ∨ dr.getLsbD 35 = false) → Answers (.tstAccess dr) s fun t => t = s) ∧
  (∀ (s : State) (dr : BitVec 390), s.pwr.railsGood = true → s.tap.ir = 0x21#8 → dr.getLsbD 386 = true → s.tap.blowing = none → ((dr.toNat / 2 ^ 384 % 4) = 0 ∨ s.boot.valid.getLsbD (dr.toNat / 2 ^ 384 % 4) = true ∨ s.fld F.HRTH_BOOT_STATUS_STATE = 3 ∨ s.fld F.HRTH_BOOT_STATUS_STATE = 4 ∨ s.flag F.TST_PORT_CTRL_LOCK = true) →
    Answers (.fuseProg dr) s fun t => t.tap = { s.tap with refused := true } ∧ t.flag F.TST_INT_STATUS_FUSE_REFUSED = true ∧ Touches [.tap] [F.TST_INT_STATUS_FUSE_REFUSED] s t) ∧
  (∀ (s : State) (dr : BitVec 390), s.pwr.railsGood = true → s.tap.ir = 0x21#8 → dr.getLsbD 386 = true → s.tap.blowing = none → ¬((dr.toNat / 2 ^ 384 % 4) = 0 ∨ s.boot.valid.getLsbD (dr.toNat / 2 ^ 384 % 4) = true ∨ s.fld F.HRTH_BOOT_STATUS_STATE = 3 ∨ s.fld F.HRTH_BOOT_STATUS_STATE = 4 ∨ s.flag F.TST_PORT_CTRL_LOCK = true) →
    Answers (.fuseProg dr) s fun t => t.tap = { s.tap with refused := false, blowing := some (Fin.ofNat 4 (dr.toNat / 2 ^ 384 % 4), dr.setWidth 384) } ∧ Within [.tap] s t) ∧
  (∀ (s : State) (k : Fin 4) (h : BitVec 384), s.pwr.railsGood = true → s.tap.blowing = some (k, h) →
    Answers .fuseDone s fun t =>
      t.boot.valid = s.boot.valid ||| BitVec.ofNat 4 (2 ^ k.val) ∧ smapGet (fun _ => 0) t.boot.hash k = h ∧ t.tap = { s.tap with blowing := none } ∧ t.flag F.TST_INT_STATUS_FUSE_DONE = true ∧
      (∀ j : Fin 4, j ≠ k → smapGet (fun _ => 0) t.boot.hash j = smapGet (fun _ => 0) s.boot.hash j) ∧ t.boot = { s.boot with valid := t.boot.valid, hash := t.boot.hash } ∧
      Touches [.tap, .boot] [F.TST_INT_STATUS_FUSE_DONE] s t) ∧
  (∀ (s : State), s.tap.blowing = none → Answers .fuseDone s fun t => t = s)

/-- A step runs the front command with the queue's rest. On an empty queue the block does what a cycle of TCLK does, which is the model's own choice (log 1): nothing before OCLK runs, one TCLK after: the time base adds its increment, from 0 at its first edge, and wraps (R158 to R160), and the pattern of LEAD_OUT_N changes at a start of its period, which the model counts in TCLK (log 28). What counts in PCLK at such a cycle is in SamplesSlotsAndTags; what applies at its edge in OneTimeCommandPends. -/
def Obligations.CommandsAreTakenInOrder : Prop :=
  (∀ (s : State) (c : Instr) (rest : List Instr), s.pending = c :: rest → step s = exec c { s with pending := rest }) ∧
  (∀ (s : State), s.pending = [] → s.pwr.oclkUp = false → step s = .next s) ∧
  (∀ (s : State), s.pending = [] → s.pwr.oclkUp = true → ∃ t, step s = .next t ∧ t.clk.tclk = s.clk.tclk + 1 ∧ t.pending = []) ∧
  (∀ (s : State), s.pending = [] → s.pwr.oclkUp = true → s.tb.pend = none → s.tb.snaps = [] → s.pwr.ovenUp = true → tbFormat s ≠ 0 → s.tb.starting = false → s.tb.value + incCur s < tbWrap (tbFormat s) →
    ∃ t, step s = .next t ∧ t.tb = { s.tb with value := s.tb.value + incCur s } ∧ incCur t = incCur s ∧ Within [.regs, .clk, .tb, .tlm, .twin] s t) ∧
  (∀ (s : State), s.pending = [] → s.pwr.oclkUp = true → s.tb.pend = none → s.tb.snaps = [] → s.pwr.ovenUp = true → tbFormat s ≠ 0 → s.tb.starting = false → s.tb.value < tbWrap (tbFormat s) → tbWrap (tbFormat s) ≤ s.tb.value + incCur s →
    ∃ t, step s = .next t ∧ t.tb.value + tbWrap (tbFormat s) = s.tb.value + incCur s ∧ incCur t = incCur s ∧ Within [.regs, .clk, .tb, .tlm, .twin] s t) ∧
  (∀ (s : State), s.pending = [] → s.pwr.oclkUp = true → s.tb.pend = none → s.tb.snaps = [] → s.pwr.ovenUp = true → tbFormat s ≠ 0 → s.tb.starting = true →
    ∃ t, step s = .next t ∧ t.tb = { s.tb with starting := false, value := 0 } ∧ t.flag F.TBASE_LIVE_RUNNING = true) ∧
  (∀ (s : State), s.pending = [] → s.pwr.oclkUp = true → s.tb.pend = none → s.tb.snaps = [] → (s.pwr.ovenUp = false ∨ tbFormat s = 0) → s.tb.starting = false →
    ∃ t, step s = .next t ∧ t.tb = s.tb ∧ t.clk = { s.clk with tclk := s.clk.tclk + 1 } ∧ Within [.regs, .clk, .tlm, .twin] s t) ∧
  (∀ (s : State), s.pending = [] → s.pwr.oclkUp = true → s.tb.pend = none → s.tb.snaps = [] →
    ∃ t, step s = .next t ∧ t.twin = { s.twin with shown := if (s.clk.tclk + 1) % 100 = 0 then leadOut s else s.twin.shown })

/-- The state after reset (R11, R522 to R525): an unpowered part (model's choice, log 7) with an empty queue, in which every register, indirect word and byte reads its reset value; it meets each invariant that every step keeps. Some reset values of the spec, each word for word: the scheduler's profile, the free slices, the temperature level of 100 °C, the role, and the words of the indirect domains. That a byte of SRAM or of host memory reads 0 is the model's choice (log 3). -/
def Obligations.TheStateAfterReset : Prop :=
  State.reset.Canon ∧ State.reset.PowerOk ∧ State.reset.FramesFit ∧ State.reset.met.pairFails.length = 16 ∧ State.reset.pending = [] ∧ State.reset.pwr.ovenUp = false ∧
  State.reset.pwr.mainUp = false ∧ (∀ a, State.reset.reg a = regReset a) ∧ (∀ b, State.reset.sramByte b = 0) ∧ (∀ b, State.reset.hostByte b = 0) ∧ State.reset.fld F.PWR_TEMP_WARN_TJ = 400 ∧ (∀ k, smapGet indReset State.reset.ind k = indReset k) ∧
  (∀ n : Fin 768, (List.range 6).map (fun i => State.reset.indw 2 (32 * n + i)) = [0x00F80000, 0x78, 0x3F001F00, 0x3FC03FC0, 0x3FC03FC0, 0]) ∧
  (∀ m : Fin 32, (List.range 3).map (fun i => State.reset.indw 3 (16 * m + i)) = [0x00F07000, 0x2004, 0]) ∧ (∀ c : Fin 32, ∀ i : Fin 4096, State.reset.indw 4 (0x4000 * c + i) = BitVec.ofNat 32 (256 * i)) ∧
  (∀ c : Fin 64, State.reset.indw 5 (16 * c + 1) = 0x1008 ∧ State.reset.indw 5 (16 * c) = 0) ∧ (∀ g : Fin 6144, State.reset.indw 7 (8 * g + 2) = 0x4000 ∧ State.reset.indw 7 (8 * g + 4) = 0x2414 ∧ State.reset.indw 7 (8 * g) = 0) ∧
  (∀ g, 6144 ≤ g → g < 6528 → State.reset.indw 7 (8 * g + 2) = 0x4000 ∧ State.reset.indw 7 (8 * g + 4) = 0) ∧ (∀ d ∈ [1, 6, 8], ∀ w, w < 2 ^ 24 → State.reset.indw d w = 0) ∧
  (∀ p : Fin 384, State.reset.fld (F.SCHD_PORT_CFG_STRICT_N p) = 1) ∧ State.reset.fld F.BUF_FREE_FREE = 1048576 ∧ State.reset.fld F.TWIN_LIVE_ROLE = 0 ∧ State.reset.tap.ir = 2

/-- Whatever the state and the operands, every one of the commands of the table completes: it answers a next state, in which every part of the state outside those that its row may touch (partsOf) is as before. The queue of waiting commands is among none of them. -/
def Obligations.CommandsStayWithinTheirParts : Prop :=
  (∀ (c : Instr) (s : State), ∃ t, exec c s = .next t ∧ Within (partsOf c) s t ∧ t.pending = s.pending)

/-- From every state whose storage is canonical (addresses strictly rising, nothing listed that equals what an unlisted address reads as), whatever waits in the queue, a step leads to a state whose storage is canonical: equal contents stay equal data. -/
def Obligations.StorageStaysCanonical : Prop :=
  (∀ (s t : State), s.Canon → step s = .next t → t.Canon)

/-- From every state that meets PowerOk every step leads to one that does (R24, R36, R44, R522 to R524): the main domain is out of reset only with the internal reset released, OCLK running and the oven island up; the reset is released only with good rails; rails are good only with the stage on; a trip leaves the oven island alone. -/
def Obligations.PowerStaysOrdered : Prop :=
  (∀ (s t : State), s.PowerOk → step s = .next t → t.PowerOk)

/-- From every state in which every frame names a source port, a queue, a pool, a priority group and a tag record that the part has, a step leads to one in which every frame does (R328, R397, R404, R435, R473); and the failure counters of the sixteen cell pairs stay sixteen. Other statements rest on both as premises. -/
def Obligations.ShapesAreKept : Prop :=
  (∀ (s t : State), s.FramesFit → step s = .next t → t.FramesFit) ∧
  (∀ (s t : State), s.met.pairFails.length = 16 → step s = .next t → t.met.pairFails.length = 16)
end

