-- ==== Sys2Proof/Laws/SMap.lean ====
section
/-!
SUPPORT. Sys2Proof/Laws/SMap.lean: what a read after a write of sparse storage gives, and that a write keeps the
canonical form. The provers cite these; nothing later unfolds the storage.
-/
namespace Sys2Proof.Machine
set_option Elab.async false

theorem smapGet_ins_same {α : Type} (d : Nat → α) (m : SMap α) (k : Nat) (v : α) :
    smapGet d (smapIns m k v) k = v := by
  induction m with
  | nil => simp [smapIns, smapGet]
  | cons p m ih =>
    obtain ⟨j, w⟩ := p
    unfold smapIns
    split
    · simp [smapGet]
    · split
      · simp [smapGet]
      · next h => simp [smapGet, h, ih]

theorem smapGet_ins_ne {α : Type} (d : Nat → α) (m : SMap α) (k j : Nat) (v : α) (h : j ≠ k) :
    smapGet d (smapIns m k v) j = smapGet d m j := by
  induction m with
  | nil => simp [smapIns, smapGet, h]
  | cons p m ih =>
    obtain ⟨i, w⟩ := p
    unfold smapIns
    split
    · simp [smapGet, h]
    · split
      · next h2 => subst h2; simp [smapGet, h]
      · simp [smapGet, ih]

theorem smapGet_erase_same {α : Type} (d : Nat → α) (m : SMap α) (k : Nat) :
    smapGet d (smapErase m k) k = d k := by
  induction m with
  | nil => rfl
  | cons p m ih =>
    obtain ⟨i, w⟩ := p
    unfold smapErase
    split
    · exact ih
    · next h => simp [smapGet, h, ih]

theorem smapGet_erase_ne {α : Type} (d : Nat → α) (m : SMap α) (k j : Nat) (h : j ≠ k) :
    smapGet d (smapErase m k) j = smapGet d m j := by
  induction m with
  | nil => rfl
  | cons p m ih =>
    obtain ⟨i, w⟩ := p
    unfold smapErase
    split
    · next h2 => subst h2; simp [smapGet, h, ih]
    · simp [smapGet, ih]

/-- A read of the key just written gives the value written. -/
@[simp] theorem smapGet_set_same {α : Type} [DecidableEq α] (d : Nat → α) (m : SMap α) (k : Nat) (v : α) :
    smapGet d (smapSet d m k v) k = v := by
  unfold smapSet
  split
  · next h => rw [smapGet_erase_same, h]
  · exact smapGet_ins_same d m k v

/-- A write leaves every other key alone. -/
theorem smapGet_set_ne {α : Type} [DecidableEq α] (d : Nat → α) (m : SMap α) (k j : Nat) (v : α) (h : j ≠ k) :
    smapGet d (smapSet d m k v) j = smapGet d m j := by
  unfold smapSet
  split
  · exact smapGet_erase_ne d m k j h
  · exact smapGet_ins_ne d m k j v h

/-- What a key reads after a write, in one equation. -/
theorem smapGet_set {α : Type} [DecidableEq α] (d : Nat → α) (m : SMap α) (k j : Nat) (v : α) :
    smapGet d (smapSet d m k v) j = if j = k then v else smapGet d m j := by
  split
  · next h => subst h; simp
  · next h => exact smapGet_set_ne d m k j v h

theorem mem_smapIns {α : Type} (m : SMap α) (k : Nat) (v : α) (p : Nat × α)
    (h : p ∈ smapIns m k v) : p = (k, v) ∨ (p ∈ m) := by
  induction m with
  | nil => simpa [smapIns] using h
  | cons q m ih =>
    obtain ⟨j, w⟩ := q
    unfold smapIns at h
    split at h
    · simp only [List.mem_cons] at h ⊢
      exact h
    · split at h
      · simp only [List.mem_cons] at h ⊢
        exact h.elim Or.inl (fun h => Or.inr (Or.inr h))
      · simp only [List.mem_cons] at h ⊢
        rcases h with h | h
        · exact Or.inr (Or.inl h)
        · exact (ih h).elim Or.inl (fun h => Or.inr (Or.inr h))

theorem mem_smapErase {α : Type} (m : SMap α) (k : Nat) (p : Nat × α)
    (h : p ∈ smapErase m k) : p ∈ m ∧ p.1 ≠ k := by
  induction m with
  | nil => simp [smapErase] at h
  | cons q m ih =>
    obtain ⟨j, w⟩ := q
    unfold smapErase at h
    split at h
    · exact ⟨List.mem_cons_of_mem _ (ih h).1, (ih h).2⟩
    · next hk =>
      simp only [List.mem_cons] at h
      rcases h with h | h
      · subst h; exact ⟨List.mem_cons_self .., fun e => hk e.symm⟩
      · exact ⟨List.mem_cons_of_mem _ (ih h).1, (ih h).2⟩

theorem pairwise_smapIns {α : Type} (m : SMap α) (k : Nat) (v : α)
    (h : m.Pairwise (fun p q => p.1 < q.1)) : (smapIns m k v).Pairwise (fun p q => p.1 < q.1) := by
  induction m with
  | nil => simp [smapIns]
  | cons q m ih =>
    obtain ⟨j, w⟩ := q
    rw [List.pairwise_cons] at h
    unfold smapIns
    split
    · next hk =>
      refine List.pairwise_cons.2 ⟨?_, List.pairwise_cons.2 h⟩
      intro p hp
      rcases List.mem_cons.1 hp with e | hp
      · subst e; exact hk
      · exact Nat.lt_trans hk (h.1 p hp)
    · split
      · next hk => subst hk; exact List.pairwise_cons.2 ⟨h.1, h.2⟩
      · refine List.pairwise_cons.2 ⟨?_, ih h.2⟩
        intro p hp
        rcases mem_smapIns m k v p hp with e | hp
        · subst e; simp only; omega
        · exact h.1 p hp

theorem pairwise_smapErase {α : Type} (m : SMap α) (k : Nat)
    (h : m.Pairwise (fun p q => p.1 < q.1)) : (smapErase m k).Pairwise (fun p q => p.1 < q.1) := by
  induction m with
  | nil => simp [smapErase]
  | cons q m ih =>
    obtain ⟨j, w⟩ := q
    rw [List.pairwise_cons] at h
    unfold smapErase
    split
    · exact ih h.2
    · exact List.pairwise_cons.2 ⟨fun p hp => h.1 p (mem_smapErase m k p hp).1, ih h.2⟩

/-- A write keeps the canonical form. -/
theorem smapSet_wf {α : Type} [DecidableEq α] (d : Nat → α) (m : SMap α) (k : Nat) (v : α)
    (h : SMapWf d m) : SMapWf d (smapSet d m k v) := by
  unfold smapSet
  split
  · exact ⟨pairwise_smapErase m k h.1, fun p hp => h.2 p (mem_smapErase m k p hp).1⟩
  · next hv =>
    refine ⟨pairwise_smapIns m k v h.1, fun p hp => ?_⟩
    rcases mem_smapIns m k v p hp with e | hp
    · subst e; exact hv
    · exact h.2 p hp

end Sys2Proof.Machine
end

