-- ==== Sys2Proof/Laws/Regs.lean ====
section
/-!
SUPPORT. Sys2Proof/Laws/Regs.lean: what a register, a field or a flag reads after each of the operations of Machine/Ops.lean that store
one. The provers cite these; nothing later unfolds the bits of a word.
-/
namespace Sys2Proof.Machine
set_option Elab.async false

/-! ### Bits -/

theorem bits_lt (v : Word) (lo w : Nat) : bits v lo w < 2 ^ w := Nat.mod_lt _ (Nat.two_pow_pos w)

theorem testBit_bits (v : Word) (lo w i : Nat) : (bits v lo w).testBit i = (decide (i < w) && v.toNat.testBit (lo + i)) := by
  simp [bits, Nat.testBit_mod_two_pow, Nat.testBit_shiftRight]

/-- Bit `i` of a word with a field replaced. -/
theorem testBit_putBits (v : Word) (lo w x i : Nat) (h : lo + w ≤ 32) :
    (putBits v lo w x).toNat.testBit i = if lo ≤ i ∧ i < lo + w then x.testBit (i - lo) else v.toNat.testBit i := by
  have hv := v.isLt
  have key : ∀ k, (putBits v lo w x).toNat.testBit k = (putBits v lo w x).getLsbD k := fun k => rfl
  rw [key]
  unfold putBits
  rw [BitVec.getLsbD_or, BitVec.getLsbD_and, BitVec.getLsbD_not, BitVec.getLsbD_ofNat, BitVec.getLsbD_ofNat]
  have hvk : v.getLsbD i = v.toNat.testBit i := rfl
  rw [hvk]
  simp only [Nat.testBit_shiftLeft, Nat.testBit_mod_two_pow, Nat.testBit_two_pow_sub_one]
  by_cases h32 : i < 32
  · by_cases h1 : lo ≤ i
    · by_cases h2 : i < lo + w
      · have : i - lo < w := by omega
        simp [h32, h1, h2, this]
      · have : ¬ i - lo < w := by omega
        simp [h32, h1, h2, this]
    · simp [h32, h1]
  · have h2 : ¬ i < lo + w := by omega
    have h3 : v.toNat.testBit i = false := Nat.testBit_lt_two_pow (Nat.lt_of_lt_of_le hv (Nat.pow_le_pow_right (by decide) (by omega)))
    simp [h32, h2, h3]

theorem bits_putBits_same (v : Word) (lo w x : Nat) (h : lo + w ≤ 32) : bits (putBits v lo w x) lo w = x % 2 ^ w := by
  apply Nat.eq_of_testBit_eq
  intro i
  rw [testBit_bits, testBit_putBits _ _ _ _ _ h, Nat.testBit_mod_two_pow]
  by_cases hi : i < w
  · have : lo ≤ lo + i ∧ lo + i < lo + w := by omega
    simp [hi, this]
  · simp [hi]

theorem bits_putBits_disjoint (v : Word) (lo w x lo' w' : Nat) (h : lo + w ≤ 32) (d : lo + w ≤ lo' ∨ lo' + w' ≤ lo) :
    bits (putBits v lo w x) lo' w' = bits v lo' w' := by
  apply Nat.eq_of_testBit_eq
  intro i
  rw [testBit_bits, testBit_bits, testBit_putBits _ _ _ _ _ h]
  by_cases hi : i < w'
  · have : ¬ (lo ≤ lo' + i ∧ lo' + i < lo + w) := by omega
    simp [hi, this]
  · simp [hi]

/-- Setting one bit is an or with it. -/
theorem putBits_one (v : Word) (lo : Nat) (h : lo < 32) : putBits v lo 1 1 = v ||| BitVec.ofNat 32 (2 ^ lo) := by
  apply BitVec.eq_of_toNat_eq
  apply Nat.eq_of_testBit_eq
  intro i
  rw [testBit_putBits _ _ _ _ _ (by omega)]
  have : (v ||| BitVec.ofNat 32 (2 ^ lo)).toNat.testBit i = (v.toNat.testBit i || (decide (i < 32) && decide (lo = i))) := by
    rw [BitVec.toNat_or, Nat.testBit_or, BitVec.toNat_ofNat, Nat.testBit_mod_two_pow, Nat.testBit_two_pow]
  rw [this]
  by_cases e : lo = i
  · subst e; simp [h]
  · have : ¬ (lo ≤ i ∧ i < lo + 1) := by omega
    simp only [this, e, if_false, decide_false, Bool.and_false, Bool.or_false]

/-! ### Registers -/

theorem State.reg_setReg (s : State) (a b : Nat) (v : Word) : (s.setReg a v).reg b = if b = a then v else s.reg b :=
  smapGet_set _ _ _ _ _

@[simp] theorem State.reg_setReg_same (s : State) (a : Nat) (v : Word) : (s.setReg a v).reg a = v := by simp [State.reg_setReg]

theorem State.reg_setReg_ne (s : State) {a b : Nat} (v : Word) (h : b ≠ a) : (s.setReg a v).reg b = s.reg b := by
  simp [State.reg_setReg, h]

theorem State.reg_setFld (s : State) (f : Fld) (x b : Nat) :
    (s.setFld f x).reg b = if b = f.addr then putBits (s.reg f.addr) f.lo f.w x else s.reg b := by
  simp [State.setFld, State.reg_setReg]

theorem State.reg_setFlag (s : State) (f : Fld) (x : Bool) (b : Nat) :
    (s.setFlag f x).reg b = if b = f.addr then putBits (s.reg f.addr) f.lo f.w (if x then 1 else 0) else s.reg b := by
  simp [State.setFlag, State.reg_setFld]

/-- Noting a bit for the windows leaves the registers alone. -/
@[simp] theorem State.reg_noteAgain (s : State) (f : Fld) (b : Nat) : (s.noteAgain f).reg b = s.reg b := rfl
@[simp] theorem State.fld_noteAgain (s : State) (f g : Fld) : (s.noteAgain f).fld g = s.fld g := rfl
@[simp] theorem State.flag_noteAgain (s : State) (f g : Fld) : (s.noteAgain f).flag g = s.flag g := rfl

theorem State.reg_raise (s : State) (f : Fld) (b : Nat) :
    (s.raise f).reg b = if b = f.addr then putBits (s.reg f.addr) f.lo f.w 1 else s.reg b := by
  simp [State.raise, State.reg_setFld]

/-- What a set bit leaves in the notes of the windows `ks`. -/
theorem noted_get (a lo w : Nat) (ks : List Nat) (nd : ks.Nodup) (m : SMap Word) (key : Nat) :
    smapGet noBits (ks.foldl (fun m k => smapSet noBits m (4 * a + k) (putBits (smapGet noBits m (4 * a + k)) lo w 1)) m) key =
      if ∃ k ∈ ks, key = 4 * a + k then putBits (smapGet noBits m key) lo w 1 else smapGet noBits m key := by
  induction ks generalizing m with
  | nil => simp
  | cons k ks ih =>
    have hk : k ∉ ks := (List.nodup_cons.1 nd).1
    rw [List.foldl_cons, ih (List.nodup_cons.1 nd).2, smapGet_set]
    by_cases e : key = 4 * a + k
    · subst e
      have n : ¬ ∃ j ∈ ks, 4 * a + k = 4 * a + j := by
        rintro ⟨j, hj, e⟩
        exact hk ((Nat.add_left_cancel e) ▸ hj)
      rw [if_neg n, if_pos rfl, if_pos ⟨k, List.mem_cons_self .., rfl⟩]
    · rw [if_neg e]
      have : (∃ j ∈ k :: ks, key = 4 * a + j) ↔ ∃ j ∈ ks, key = 4 * a + j := by
        constructor
        · rintro ⟨j, hj, h⟩
          rcases List.mem_cons.1 hj with rfl | hj
          · exact absurd h e
          · exact ⟨j, hj, h⟩
        · rintro ⟨j, hj, h⟩
          exact ⟨j, List.mem_cons_of_mem _ hj, h⟩
      simp only [this]

/-- A set bit is noted for the windows that hold a sample of its register, and for no other register. -/
theorem State.againAt_noteAgain (s : State) (f : Fld) {k : Nat} (hk : k < 4) (a : Nat) :
    (s.noteAgain f).againAt k a = if a = f.addr ∧ s.watches f.addr k = true then putBits (s.againAt k a) f.lo f.w 1 else s.againAt k a := by
  have hr : ∀ j ∈ (upto 4).filter fun k => s.watches f.addr k, j < 4 := fun j hj => List.mem_range.1 (List.mem_filter.1 hj).1
  refine Eq.trans (noted_get f.addr f.lo f.w _ (List.nodup_range.filter _) s.again (4 * a + k)) ?_
  unfold State.againAt
  by_cases c : a = f.addr ∧ s.watches f.addr k = true
  · rw [if_pos c, if_pos ⟨k, List.mem_filter.2 ⟨List.mem_range.2 hk, c.2⟩, by rw [c.1]⟩]
  · rw [if_neg c, if_neg]
    rintro ⟨j, hj, e⟩
    have h4 := hr j hj
    have e1 : a = f.addr := by omega
    have e2 : k = j := by omega
    exact c ⟨e1, e2 ▸ (List.mem_filter.1 hj).2⟩

theorem State.reg_raiseIf (s : State) (c : Bool) (f : Fld) (b : Nat) :
    (s.raiseIf c f).reg b = if c = true ∧ b = f.addr then putBits (s.reg f.addr) f.lo f.w 1 else s.reg b := by
  cases c <;> simp [State.raiseIf, State.reg_raise]

theorem State.reg_setRbit (s : State) (a i : Nat) (x : Bool) (b : Nat) :
    (s.setRbit a i x).reg b = if b = a then putBits (s.reg a) i 1 (if x then 1 else 0) else s.reg b := by
  simp [State.setRbit, State.reg_setReg]

theorem State.reg_setReg64 (s : State) (lo hi x b : Nat) :
    (s.setReg64 lo hi x).reg b = if b = hi then BitVec.ofNat 32 (x / 2 ^ 32) else if b = lo then BitVec.ofNat 32 x else s.reg b := by
  simp [State.setReg64, State.reg_setReg]

/-! ### Fields -/

theorem State.fld_lt (s : State) (f : Fld) : s.fld f < 2 ^ f.w := bits_lt _ _ _

/-- A field just stored reads back, within its width. -/
theorem State.fld_setFld_same (s : State) (f : Fld) (x : Nat) (h : f.lo + f.w ≤ 32) : (s.setFld f x).fld f = x % 2 ^ f.w := by
  simp [State.fld, State.reg_setFld, bits_putBits_same _ _ _ _ h]

/-- A field elsewhere keeps its value. -/
theorem State.fld_setFld_ne (s : State) (f g : Fld) (x : Nat) (h : f.lo + f.w ≤ 32)
    (d : g.addr ≠ f.addr ∨ f.lo + f.w ≤ g.lo ∨ g.lo + g.w ≤ f.lo) : (s.setFld f x).fld g = s.fld g := by
  unfold State.fld
  rw [State.reg_setFld]
  split
  · next e =>
    rw [e]
    exact bits_putBits_disjoint _ _ _ _ _ _ h (d.resolve_left (fun n => n e))
  · rfl

theorem State.flag_setFlag_same (s : State) (f : Fld) (b : Bool) (h : f.lo + f.w ≤ 32) (w : f.w = 1) : (s.setFlag f b).flag f = b := by
  unfold State.flag State.setFlag
  rw [State.fld_setFld_same _ _ _ h, w]
  cases b <;> rfl

theorem State.flag_setFld_ne (s : State) (f g : Fld) (x : Nat) (h : f.lo + f.w ≤ 32)
    (d : g.addr ≠ f.addr ∨ f.lo + f.w ≤ g.lo ∨ g.lo + g.w ≤ f.lo) : (s.setFld f x).flag g = s.flag g := by
  unfold State.flag
  rw [State.fld_setFld_ne s f g x h d]

theorem State.flag_raise_same (s : State) (f : Fld) (h : f.lo + f.w ≤ 32) (w : f.w = 1) : (s.raise f).flag f = true := by
  unfold State.flag State.raise
  rw [State.fld_noteAgain, State.fld_setFld_same _ _ _ h, w]
  rfl

/-- A raised bit leaves every other bit of its register alone. -/
theorem State.reg_raise_or (s : State) (f : Fld) (h : f.lo < 32) (w : f.w = 1) :
    (s.raise f).reg f.addr = s.reg f.addr ||| BitVec.ofNat 32 (2 ^ f.lo) := by
  rw [State.reg_raise, w, if_pos rfl, putBits_one _ _ h]

/-! ### Fields and flags after every kind of store

`Apart f g` says that a store of `f` leaves `g` alone. On fields named in Machine/Regs.lean it is decided. -/

/-- The fields lie in different registers, or beside one another in one. -/
abbrev Apart (f g : Fld) : Prop := f.lo + f.w ≤ 32 ∧ (g.addr ≠ f.addr ∨ f.lo + f.w ≤ g.lo ∨ g.lo + g.w ≤ f.lo)

theorem State.fld_setFld (s : State) (f g : Fld) (x : Nat) (h : Apart f g) : (s.setFld f x).fld g = s.fld g :=
  State.fld_setFld_ne s f g x h.1 h.2

theorem State.fld_setFlag (s : State) (f g : Fld) (b : Bool) (h : Apart f g) : (s.setFlag f b).fld g = s.fld g :=
  State.fld_setFld s f g _ h

theorem State.fld_raise (s : State) (f g : Fld) (h : Apart f g) : (s.raise f).fld g = s.fld g := State.fld_setFld s f g _ h

theorem State.fld_raiseIf (s : State) (c : Bool) (f g : Fld) (h : Apart f g) : (s.raiseIf c f).fld g = s.fld g := by
  cases c
  · rfl
  · exact State.fld_raise s f g h

theorem State.fld_setRbit (s : State) (a i : Nat) (b : Bool) (g : Fld) (h : Apart ⟨a, i, 1⟩ g) : (s.setRbit a i b).fld g = s.fld g :=
  State.fld_setFld s ⟨a, i, 1⟩ g _ h

theorem State.fld_setReg (s : State) (a : Nat) (v : Word) (g : Fld) (h : g.addr ≠ a) : (s.setReg a v).fld g = s.fld g := by
  unfold State.fld
  rw [State.reg_setReg_ne _ _ h]

theorem State.fld_setReg_same (s : State) (v : Word) (g : Fld) : (s.setReg g.addr v).fld g = bits v g.lo g.w := by
  unfold State.fld
  rw [State.reg_setReg_same]

theorem State.flag_eq (s : State) (f : Fld) : s.flag f = decide (s.fld f ≠ 0) := rfl

theorem State.flag_setFld (s : State) (f g : Fld) (x : Nat) (h : Apart f g) : (s.setFld f x).flag g = s.flag g := by
  simp only [State.flag_eq, State.fld_setFld s f g x h]

theorem State.flag_setFlag (s : State) (f g : Fld) (b : Bool) (h : Apart f g) : (s.setFlag f b).flag g = s.flag g :=
  State.flag_setFld s f g _ h

theorem State.flag_raise (s : State) (f g : Fld) (h : Apart f g) : (s.raise f).flag g = s.flag g := State.flag_setFld s f g _ h

theorem State.flag_raiseIf (s : State) (c : Bool) (f g : Fld) (h : Apart f g) : (s.raiseIf c f).flag g = s.flag g := by
  simp only [State.flag_eq, State.fld_raiseIf s c f g h]

theorem State.flag_raiseIf_same (s : State) (c : Bool) (f : Fld) (h : f.lo + f.w ≤ 32) (w : f.w = 1) :
    (s.raiseIf c f).flag f = (c || s.flag f) := by
  cases c
  · simp [State.raiseIf]
  · simpa [State.raiseIf] using State.flag_raise_same s f h w

theorem State.flag_setReg (s : State) (a : Nat) (v : Word) (g : Fld) (h : g.addr ≠ a) : (s.setReg a v).flag g = s.flag g := by
  simp only [State.flag_eq, State.fld_setReg s a v g h]

theorem State.flag_setRbit (s : State) (a i : Nat) (b : Bool) (g : Fld) (h : Apart ⟨a, i, 1⟩ g) :
    (s.setRbit a i b).flag g = s.flag g := by
  simp only [State.flag_eq, State.fld_setRbit s a i b g h]

theorem State.fld_setFlag_same (s : State) (f : Fld) (b : Bool) (h : f.lo + f.w ≤ 32) (w : f.w = 1) :
    (s.setFlag f b).fld f = if b then 1 else 0 := by
  unfold State.setFlag
  rw [State.fld_setFld_same _ _ _ h, w]
  cases b <;> rfl

/-- Bit `i` of a register, as the flag of a one-bit field there. -/
theorem State.rbit_eq_flag (s : State) (a i : Nat) : s.rbit a i = s.flag ⟨a, i, 1⟩ := by
  unfold State.rbit bit State.flag State.fld
  rw [Bool.eq_iff_iff]
  simp only [bits, Nat.pow_one, decide_eq_true_eq, ne_eq, Nat.testBit_eq_decide_div_mod_eq, Nat.shiftRight_eq_div_pow]
  omega

/-! ### Memories -/

theorem State.sramByte_setSramByte (s : State) (a b : Nat) (v : Byte) :
    (s.setSramByte a v).sramByte b = if b % sramSize = a % sramSize then v else s.sramByte b := smapGet_set _ _ _ _ _

theorem State.hostByte_setHostByte (s : State) (a b : Nat) (v : Byte) :
    (s.setHostByte a v).hostByte b = if b = a then v else s.hostByte b := smapGet_set _ _ _ _ _

theorem State.hostByte_setHostBytes_ne (s : State) (a : Nat) (bs : List Byte) (b : Nat) (h : b < a ∨ a + bs.length ≤ b) :
    (s.setHostBytes a bs).hostByte b = s.hostByte b := by
  induction bs generalizing s a with
  | nil => rfl
  | cons x xs ih =>
    simp only [List.length_cons] at h
    rw [State.setHostBytes, ih _ _ (by omega), State.hostByte_setHostByte, if_neg (by omega)]

end Sys2Proof.Machine
end

