-- ==== Sys2Proof/Laws/Moves.lean ====
section
/-!
SUPPORT. Sys2Proof/Laws/Moves.lean: how one operation after another stays within parts of the state and keeps storage canonical. `Moves cs s t`
is the relation that every operation's frame lemma (Laws/Frame*.lean) goes through.
-/
namespace Sys2Proof.Machine
set_option Elab.async false

/-- From `s` to `t` nothing but the parts `cs` changed, and storage stayed canonical. -/
structure Moves (cs : List Part) (s t : State) : Prop where
  within : Within cs s t
  canon : s.Canon → t.Canon

theorem Moves.refl (cs : List Part) (s : State) : Moves cs s s :=
  ⟨fun p _ => by cases p <;> first | exact rfl | exact ⟨rfl, rfl⟩, id⟩

theorem samePart_trans {s t u : State} {p : Part} (h : samePart s t p) (g : samePart t u p) : samePart s u p := by
  cases p <;> first | exact Eq.trans g h | exact ⟨g.1.trans h.1, g.2.trans h.2⟩

theorem Moves.trans {cs : List Part} {s t u : State} (h : Moves cs s t) (g : Moves cs t u) : Moves cs s u :=
  ⟨fun p hp => samePart_trans (h.within p hp) (g.within p hp), fun x => g.canon (h.canon x)⟩

theorem Moves.mono {cs ds : List Part} {s t : State} (h : Moves cs s t) (hs : ∀ p ∈ cs, p ∈ ds) : Moves ds s t :=
  ⟨fun p hp => h.within p (fun hc => hp (hs p hc)), h.canon⟩

/-- A change of parts within `cs` that keeps storage canonical. -/
theorem Moves.step {cs : List Part} {s0 s t : State} (h : Moves cs s0 s) (w : ∀ p, p ∈ cs ∨ samePart s t p)
    (c : s.Canon → t.Canon) : Moves cs s0 t :=
  h.trans ⟨fun p hp => (w p).resolve_left hp, c⟩

theorem foldl_moves {α : Type} {cs : List Part} {s0 : State} (l : List α) (f : State → α → State)
    (hf : ∀ s x, Moves cs s0 s → Moves cs s0 (f s x)) : ∀ s, Moves cs s0 s → Moves cs s0 (l.foldl f s) := by
  induction l with
  | nil => intro s h; exact h
  | cons x l ih => intro s h; exact ih _ (hf s x h)

theorem forUpto_moves {cs : List Part} {s0 : State} (n : Nat) (f : Nat → State → State)
    (hf : ∀ s i, Moves cs s0 s → Moves cs s0 (f i s)) (s : State) (h : Moves cs s0 s) : Moves cs s0 (forUpto n f s) :=
  foldl_moves _ _ hf s h

theorem SMapWf.filter {α : Type} {d : Nat → α} {m : SMap α} (p : Nat × α → Bool) (h : SMapWf d m) : SMapWf d (m.filter p) :=
  ⟨h.1.filter p, fun q hq => h.2 q (List.mem_filter.1 hq).1⟩

theorem SMapWf.nil {α : Type} (d : Nat → α) : SMapWf d ([] : SMap α) := ⟨List.Pairwise.nil, fun _ h => absurd h List.not_mem_nil⟩

/-! ### One field replaced -/

theorem regs_moves {cs : List Part} {s0 s : State} (h : Moves cs s0 s) (x) (w : SMapWf regReset s.regs → SMapWf regReset x) (m : Part.regs ∈ cs) :
    Moves cs s0 { s with regs := x } :=
  h.step (fun p => by cases p <;> first | exact Or.inr rfl | exact Or.inr ⟨rfl, rfl⟩ | exact Or.inl m) (fun c => ⟨w c.1, c.2.1, c.2.2.1, c.2.2.2⟩)

theorem again_moves {cs : List Part} {s0 s : State} (h : Moves cs s0 s) (x) (m : Part.regs ∈ cs) : Moves cs s0 { s with again := x } :=
  h.step (fun p => by cases p <;> first | exact Or.inr rfl | exact Or.inr ⟨rfl, rfl⟩ | exact Or.inl m) id

theorem ind_moves {cs : List Part} {s0 s : State} (h : Moves cs s0 s) (x) (w : SMapWf indReset s.ind → SMapWf indReset x) (m : Part.ind ∈ cs) :
    Moves cs s0 { s with ind := x } :=
  h.step (fun p => by cases p <;> first | exact Or.inr rfl | exact Or.inr ⟨rfl, rfl⟩ | exact Or.inl m) (fun c => ⟨c.1, w c.2.1, c.2.2.1, c.2.2.2⟩)

theorem sram_moves {cs : List Part} {s0 s : State} (h : Moves cs s0 s) (x) (w : SMapWf memReset s.sram → SMapWf memReset x) (m : Part.sram ∈ cs) :
    Moves cs s0 { s with sram := x } :=
  h.step (fun p => by cases p <;> first | exact Or.inr rfl | exact Or.inr ⟨rfl, rfl⟩ | exact Or.inl m) (fun c => ⟨c.1, c.2.1, w c.2.2.1, c.2.2.2⟩)

theorem hostMem_moves {cs : List Part} {s0 s : State} (h : Moves cs s0 s) (x) (w : SMapWf memReset s.hostMem → SMapWf memReset x) (m : Part.hostMem ∈ cs) :
    Moves cs s0 { s with hostMem := x } :=
  h.step (fun p => by cases p <;> first | exact Or.inr rfl | exact Or.inr ⟨rfl, rfl⟩ | exact Or.inl m) (fun c => ⟨c.1, c.2.1, c.2.2.1, w c.2.2.2⟩)

theorem clk_moves {cs : List Part} {s0 s : State} (h : Moves cs s0 s) (x) (m : Part.clk ∈ cs) : Moves cs s0 { s with clk := x } :=
  h.step (fun p => by cases p <;> first | exact Or.inr rfl | exact Or.inr ⟨rfl, rfl⟩ | exact Or.inl m) id

theorem pwr_moves {cs : List Part} {s0 s : State} (h : Moves cs s0 s) (x) (m : Part.pwr ∈ cs) : Moves cs s0 { s with pwr := x } :=
  h.step (fun p => by cases p <;> first | exact Or.inr rfl | exact Or.inr ⟨rfl, rfl⟩ | exact Or.inl m) id

theorem hst_moves {cs : List Part} {s0 s : State} (h : Moves cs s0 s) (x) (m : Part.hst ∈ cs) : Moves cs s0 { s with hst := x } :=
  h.step (fun p => by cases p <;> first | exact Or.inr rfl | exact Or.inr ⟨rfl, rfl⟩ | exact Or.inl m) id

theorem lanes_moves {cs : List Part} {s0 s : State} (h : Moves cs s0 s) (x) (m : Part.lanes ∈ cs) : Moves cs s0 { s with lanes := x } :=
  h.step (fun p => by cases p <;> first | exact Or.inr rfl | exact Or.inr ⟨rfl, rfl⟩ | exact Or.inl m) id

theorem tb_moves {cs : List Part} {s0 s : State} (h : Moves cs s0 s) (x) (m : Part.tb ∈ cs) : Moves cs s0 { s with tb := x } :=
  h.step (fun p => by cases p <;> first | exact Or.inr rfl | exact Or.inr ⟨rfl, rfl⟩ | exact Or.inl m) id

theorem met_moves {cs : List Part} {s0 s : State} (h : Moves cs s0 s) (x) (m : Part.met ∈ cs) : Moves cs s0 { s with met := x } :=
  h.step (fun p => by cases p <;> first | exact Or.inr rfl | exact Or.inr ⟨rfl, rfl⟩ | exact Or.inl m) id

theorem loop_moves {cs : List Part} {s0 s : State} (h : Moves cs s0 s) (x) (m : Part.loop ∈ cs) : Moves cs s0 { s with loop := x } :=
  h.step (fun p => by cases p <;> first | exact Or.inr rfl | exact Or.inr ⟨rfl, rfl⟩ | exact Or.inl m) id

theorem sky_moves {cs : List Part} {s0 s : State} (h : Moves cs s0 s) (x) (m : Part.sky ∈ cs) : Moves cs s0 { s with sky := x } :=
  h.step (fun p => by cases p <;> first | exact Or.inr rfl | exact Or.inr ⟨rfl, rfl⟩ | exact Or.inl m) id

theorem prf_moves {cs : List Part} {s0 s : State} (h : Moves cs s0 s) (x) (m : Part.prf ∈ cs) : Moves cs s0 { s with prf := x } :=
  h.step (fun p => by cases p <;> first | exact Or.inr rfl | exact Or.inr ⟨rfl, rfl⟩ | exact Or.inl m) id

theorem net_moves {cs : List Part} {s0 s : State} (h : Moves cs s0 s) (x) (m : Part.net ∈ cs) : Moves cs s0 { s with net := x } :=
  h.step (fun p => by cases p <;> first | exact Or.inr rfl | exact Or.inr ⟨rfl, rfl⟩ | exact Or.inl m) id

theorem tlm_moves {cs : List Part} {s0 s : State} (h : Moves cs s0 s) (x) (m : Part.tlm ∈ cs) : Moves cs s0 { s with tlm := x } :=
  h.step (fun p => by cases p <;> first | exact Or.inr rfl | exact Or.inr ⟨rfl, rfl⟩ | exact Or.inl m) id

theorem twin_moves {cs : List Part} {s0 s : State} (h : Moves cs s0 s) (x) (m : Part.twin ∈ cs) : Moves cs s0 { s with twin := x } :=
  h.step (fun p => by cases p <;> first | exact Or.inr rfl | exact Or.inr ⟨rfl, rfl⟩ | exact Or.inl m) id

theorem boot_moves {cs : List Part} {s0 s : State} (h : Moves cs s0 s) (x) (m : Part.boot ∈ cs) : Moves cs s0 { s with boot := x } :=
  h.step (fun p => by cases p <;> first | exact Or.inr rfl | exact Or.inr ⟨rfl, rfl⟩ | exact Or.inl m) id

theorem tap_moves {cs : List Part} {s0 s : State} (h : Moves cs s0 s) (x) (m : Part.tap ∈ cs) : Moves cs s0 { s with tap := x } :=
  h.step (fun p => by cases p <;> first | exact Or.inr rfl | exact Or.inr ⟨rfl, rfl⟩ | exact Or.inl m) id

theorem lanePll_moves {cs : List Part} {s0 s : State} (h : Moves cs s0 s) (x) (m : Part.lanePll ∈ cs) : Moves cs s0 { s with lanePll := x } :=
  h.step (fun p => by cases p <;> first | exact Or.inr rfl | exact Or.inr ⟨rfl, rfl⟩ | exact Or.inl m) id

theorem free_moves {cs : List Part} {s0 s : State} (h : Moves cs s0 s) (x) (m : Part.free ∈ cs) : Moves cs s0 { s with free := x } :=
  h.step (fun p => by cases p <;> first | exact Or.inr rfl | exact Or.inr ⟨rfl, rfl⟩ | exact Or.inl m) id

theorem pending_moves {cs : List Part} {s0 s : State} (h : Moves cs s0 s) (x) (m : Part.pending ∈ cs) : Moves cs s0 { s with pending := x } :=
  h.step (fun p => by cases p <;> first | exact Or.inr rfl | exact Or.inr ⟨rfl, rfl⟩ | exact Or.inl m) id

/-! ### A part outside `cs` keeps its value -/

theorem Within.regs_eq {cs : List Part} {s t : State} (h : Within cs s t) (n : Part.regs ∉ cs := by decide) : t.regs = s.regs := (h .regs n).1
theorem Within.again_eq {cs : List Part} {s t : State} (h : Within cs s t) (n : Part.regs ∉ cs := by decide) : t.again = s.again := (h .regs n).2
theorem Within.ind_eq {cs : List Part} {s t : State} (h : Within cs s t) (n : Part.ind ∉ cs := by decide) : t.ind = s.ind := h .ind n
theorem Within.sram_eq {cs : List Part} {s t : State} (h : Within cs s t) (n : Part.sram ∉ cs := by decide) : t.sram = s.sram := h .sram n
theorem Within.hostMem_eq {cs : List Part} {s t : State} (h : Within cs s t) (n : Part.hostMem ∉ cs := by decide) : t.hostMem = s.hostMem := h .hostMem n
theorem Within.clk_eq {cs : List Part} {s t : State} (h : Within cs s t) (n : Part.clk ∉ cs := by decide) : t.clk = s.clk := h .clk n
theorem Within.pwr_eq {cs : List Part} {s t : State} (h : Within cs s t) (n : Part.pwr ∉ cs := by decide) : t.pwr = s.pwr := h .pwr n
theorem Within.hst_eq {cs : List Part} {s t : State} (h : Within cs s t) (n : Part.hst ∉ cs := by decide) : t.hst = s.hst := h .hst n
theorem Within.lanes_eq {cs : List Part} {s t : State} (h : Within cs s t) (n : Part.lanes ∉ cs := by decide) : t.lanes = s.lanes := h .lanes n
theorem Within.tb_eq {cs : List Part} {s t : State} (h : Within cs s t) (n : Part.tb ∉ cs := by decide) : t.tb = s.tb := h .tb n
theorem Within.met_eq {cs : List Part} {s t : State} (h : Within cs s t) (n : Part.met ∉ cs := by decide) : t.met = s.met := h .met n
theorem Within.loop_eq {cs : List Part} {s t : State} (h : Within cs s t) (n : Part.loop ∉ cs := by decide) : t.loop = s.loop := h .loop n
theorem Within.sky_eq {cs : List Part} {s t : State} (h : Within cs s t) (n : Part.sky ∉ cs := by decide) : t.sky = s.sky := h .sky n
theorem Within.prf_eq {cs : List Part} {s t : State} (h : Within cs s t) (n : Part.prf ∉ cs := by decide) : t.prf = s.prf := h .prf n
theorem Within.net_eq {cs : List Part} {s t : State} (h : Within cs s t) (n : Part.net ∉ cs := by decide) : t.net = s.net := h .net n
theorem Within.tlm_eq {cs : List Part} {s t : State} (h : Within cs s t) (n : Part.tlm ∉ cs := by decide) : t.tlm = s.tlm := h .tlm n
theorem Within.twin_eq {cs : List Part} {s t : State} (h : Within cs s t) (n : Part.twin ∉ cs := by decide) : t.twin = s.twin := h .twin n
theorem Within.boot_eq {cs : List Part} {s t : State} (h : Within cs s t) (n : Part.boot ∉ cs := by decide) : t.boot = s.boot := h .boot n
theorem Within.tap_eq {cs : List Part} {s t : State} (h : Within cs s t) (n : Part.tap ∉ cs := by decide) : t.tap = s.tap := h .tap n
theorem Within.lanePll_eq {cs : List Part} {s t : State} (h : Within cs s t) (n : Part.lanePll ∉ cs := by decide) : t.lanePll = s.lanePll := h .lanePll n
theorem Within.free_eq {cs : List Part} {s t : State} (h : Within cs s t) (n : Part.free ∉ cs := by decide) : t.free = s.free := h .free n
theorem Within.pending_eq {cs : List Part} {s t : State} (h : Within cs s t) (n : Part.pending ∉ cs := by decide) : t.pending = s.pending := h .pending n

end Sys2Proof.Machine
end

