-- ==== Sys2Proof/Laws/FrameOps.lean ====
section
/-!
SUPPORT. Sys2Proof/Laws/FrameOps.lean: for each operation of Machine/Ops.lean that changes the state, the parts it may change (and
that it keeps storage canonical), once and for all: `Moves` goes through it.
-/
namespace Sys2Proof.Machine
set_option Elab.async false
set_option linter.unusedTactic false
set_option linter.unreachableTactic false

theorem State.setReg_moves {cs : List Part} {s0 s : State} (hm : Moves cs s0 s) (a : Nat) (v : Word) (m0 : Part.regs ∈ cs) :
    Moves cs s0 (State.setReg s a v) := by
  exact regs_moves hm _ (smapSet_wf _ _ _ _) m0

theorem State.setFld_moves {cs : List Part} {s0 s : State} (hm : Moves cs s0 s) (f : Fld) (x : Nat) (m0 : Part.regs ∈ cs) :
    Moves cs s0 (State.setFld s f x) := by
  unfold State.setFld
  repeat' first
    | with_reducible assumption
    | with_reducible apply State.setReg_moves
    | intro _
    | split
    | dsimp only

theorem State.setFlag_moves {cs : List Part} {s0 s : State} (hm : Moves cs s0 s) (f : Fld) (b : Bool) (m0 : Part.regs ∈ cs) :
    Moves cs s0 (State.setFlag s f b) := by
  unfold State.setFlag
  repeat' first
    | with_reducible assumption
    | with_reducible apply State.setFld_moves
    | intro _
    | split
    | dsimp only

theorem State.watch_moves {cs : List Part} {s0 s : State} (hm : Moves cs s0 s) (k : Nat) (a : Nat) (m0 : Part.regs ∈ cs) :
    Moves cs s0 (State.watch s k a) := by
  unfold State.watch
  repeat' first
    | with_reducible assumption
    | with_reducible apply again_moves
    | intro _
    | split
    | dsimp only

theorem State.noteAgain_moves {cs : List Part} {s0 s : State} (hm : Moves cs s0 s) (f : Fld) (m0 : Part.regs ∈ cs) :
    Moves cs s0 (State.noteAgain s f) := by
  unfold State.noteAgain
  repeat' first
    | with_reducible assumption
    | with_reducible apply foldl_moves
    | with_reducible apply again_moves
    | intro _
    | split
    | dsimp only

theorem State.raise_moves {cs : List Part} {s0 s : State} (hm : Moves cs s0 s) (f : Fld) (m0 : Part.regs ∈ cs) :
    Moves cs s0 (State.raise s f) := by
  unfold State.raise
  repeat' first
    | with_reducible assumption
    | with_reducible apply State.noteAgain_moves
    | with_reducible apply State.setFld_moves
    | intro _
    | split
    | dsimp only

theorem State.raiseIf_moves {cs : List Part} {s0 s : State} (hm : Moves cs s0 s) (c : Bool) (f : Fld) (m0 : Part.regs ∈ cs) :
    Moves cs s0 (State.raiseIf s c f) := by
  unfold State.raiseIf
  repeat' first
    | with_reducible assumption
    | with_reducible apply State.raise_moves
    | intro _
    | split
    | dsimp only

theorem State.updTap_moves {cs : List Part} {s0 s : State} (hm : Moves cs s0 s) (f : TapSt → TapSt) (m0 : Part.tap ∈ cs) :
    Moves cs s0 (State.updTap s f) := by
  unfold State.updTap
  repeat' first
    | with_reducible assumption
    | with_reducible apply tap_moves
    | intro _
    | split
    | dsimp only

theorem State.setReg64_moves {cs : List Part} {s0 s : State} (hm : Moves cs s0 s) (lo : Nat) (hi : Nat) (x : Nat) (m0 : Part.regs ∈ cs) :
    Moves cs s0 (State.setReg64 s lo hi x) := by
  unfold State.setReg64
  repeat' first
    | with_reducible assumption
    | with_reducible apply State.setReg_moves
    | intro _
    | split
    | dsimp only

theorem State.setRbit_moves {cs : List Part} {s0 s : State} (hm : Moves cs s0 s) (a : Nat) (i : Nat) (b : Bool) (m0 : Part.regs ∈ cs) :
    Moves cs s0 (State.setRbit s a i b) := by
  unfold State.setRbit
  repeat' first
    | with_reducible assumption
    | with_reducible apply State.setReg_moves
    | intro _
    | split
    | dsimp only

theorem State.setSramByte_moves {cs : List Part} {s0 s : State} (hm : Moves cs s0 s) (a : Nat) (v : Byte) (m0 : Part.sram ∈ cs) :
    Moves cs s0 (State.setSramByte s a v) := by
  exact sram_moves hm _ (smapSet_wf _ _ _ _) m0

theorem State.setHostByte_moves {cs : List Part} {s0 s : State} (hm : Moves cs s0 s) (a : Nat) (v : Byte) (m0 : Part.hostMem ∈ cs) :
    Moves cs s0 (State.setHostByte s a v) := by
  exact hostMem_moves hm _ (smapSet_wf _ _ _ _) m0

theorem State.setSramBytes_moves {cs : List Part} {s0 s : State} (hm : Moves cs s0 s) (a : Nat) (y0 : List Byte) (m0 : Part.sram ∈ cs) :
    Moves cs s0 (State.setSramBytes s a y0) := by
  induction y0 generalizing s a with
  | nil => exact hm
  | cons b bs ih => exact ih (State.setSramByte_moves hm _ _ m0) _

theorem State.setHostBytes_moves {cs : List Part} {s0 s : State} (hm : Moves cs s0 s) (a : Nat) (y0 : List Byte) (m0 : Part.hostMem ∈ cs) :
    Moves cs s0 (State.setHostBytes s a y0) := by
  induction y0 generalizing s a with
  | nil => exact hm
  | cons b bs ih => exact ih (State.setHostByte_moves hm _ _ m0) _

theorem State.raise?_moves {cs : List Part} {s0 s : State} (hm : Moves cs s0 s) (y0 : Option Fld) (m0 : Part.regs ∈ cs) :
    Moves cs s0 (State.raise? s y0) := by
  unfold State.raise?
  repeat' first
    | with_reducible assumption
    | with_reducible apply State.raise_moves
    | intro _
    | split
    | dsimp only

theorem State.bump32_moves {cs : List Part} {s0 s : State} (hm : Moves cs s0 s) (a : Nat) (n : Nat) (ovf : Option Fld) (m0 : Part.regs ∈ cs) :
    Moves cs s0 (State.bump32 s a n ovf) := by
  unfold State.bump32
  repeat' first
    | with_reducible assumption
    | with_reducible apply State.raise?_moves
    | with_reducible apply State.setReg_moves
    | intro _
    | split
    | dsimp only

theorem State.bump64_moves {cs : List Part} {s0 s : State} (hm : Moves cs s0 s) (a : Nat) (n : Nat) (ovf : Option Fld) (m0 : Part.regs ∈ cs) :
    Moves cs s0 (State.bump64 s a n ovf) := by
  unfold State.bump64
  repeat' first
    | with_reducible assumption
    | with_reducible apply State.raise?_moves
    | with_reducible apply State.setReg64_moves
    | intro _
    | split
    | dsimp only

theorem State.markWo_moves {cs : List Part} {s0 s : State} (hm : Moves cs s0 s) (a : Nat) (m0 : Part.hst ∈ cs) :
    Moves cs s0 (State.markWo s a) := by
  unfold State.markWo
  repeat' first
    | with_reducible assumption
    | with_reducible apply hst_moves
    | intro _
    | split
    | dsimp only

theorem regStore_moves {cs : List Part} {s0 s : State} (hm : Moves cs s0 s) (a : Nat) (d : RegDef) (act : Word → Word → State → State) (m : Word) (data : Word) (hact : ∀ z0 z1 z2, Moves cs s0 z2 → Moves cs s0 (act z0 z1 z2)) (m0 : Part.regs ∈ cs) (m1 : Part.hst ∈ cs) :
    Moves cs s0 (regStore a d act m data s) := by
  unfold regStore
  repeat' first
    | with_reducible assumption
    | with_reducible apply State.markWo_moves
    | with_reducible apply State.raiseIf_moves
    | with_reducible apply State.setReg_moves
    | with_reducible apply hact
    | intro _
    | split
    | dsimp only

theorem regWrite_moves {cs : List Part} {s0 s : State} (hm : Moves cs s0 s) (ag : Agent) (a : Nat) (d : RegDef) (act : Word → Word → State → State) (m : Word) (data : Word) (hact : ∀ z0 z1 z2, Moves cs s0 z2 → Moves cs s0 (act z0 z1 z2)) (m0 : Part.regs ∈ cs) (m1 : Part.hst ∈ cs) :
    Moves cs s0 (regWrite ag a d act m data s) := by
  unfold regWrite
  repeat' first
    | with_reducible assumption
    | with_reducible apply State.raise_moves
    | with_reducible apply regStore_moves
    | with_reducible apply hact
    | intro _
    | split
    | dsimp only

theorem noAct_moves {cs : List Part} {s0 s : State} (hm : Moves cs s0 s) (u0 : Word) (u1 : Word) :
    Moves cs s0 (noAct u0 u1 s) := by
  unfold noAct
  repeat' first
    | with_reducible assumption
    | intro _
    | split
    | dsimp only

end Sys2Proof.Machine
end

