-- ==== Sys2Proof/Laws/FrameIndTable.lean ====
section
/-!
SUPPORT. Sys2Proof/Laws/FrameIndTable.lean: for each operation of Machine/IndTable.lean that changes the state, the parts it may change (and
that it keeps storage canonical), once and for all: `Moves` goes through it.
-/
namespace Sys2Proof.Machine
set_option Elab.async false
set_option linter.unusedTactic false
set_option linter.unreachableTactic false

theorem State.setIndw_moves {cs : List Part} {s0 s : State} (hm : Moves cs s0 s) (domain : Nat) (waddr : Nat) (v : Word) (m0 : Part.ind ∈ cs) :
    Moves cs s0 (State.setIndw s domain waddr v) := by
  exact ind_moves hm _ (smapSet_wf _ _ _ _) m0

theorem State.setIfld_moves {cs : List Part} {s0 s : State} (hm : Moves cs s0 s) (domain : Nat) (waddr : Nat) (lo : Nat) (w : Nat) (x : Nat) (m0 : Part.ind ∈ cs) :
    Moves cs s0 (State.setIfld s domain waddr lo w x) := by
  unfold State.setIfld
  repeat' first
    | with_reducible assumption
    | with_reducible apply State.setIndw_moves
    | intro _
    | split
    | dsimp only

theorem targetWrite_moves {cs : List Part} {s0 s : State} (hm : Moves cs s0 s) (ag : Agent) (code : Nat) (f : State → State) (hf : ∀ z0, Moves cs s0 z0 → Moves cs s0 (f z0)) (m0 : Part.regs ∈ cs) :
    Moves cs s0 (targetWrite ag code f s) := by
  unfold targetWrite
  repeat' first
    | with_reducible assumption
    | with_reducible apply State.raise_moves
    | with_reducible apply hf
    | intro _
    | split
    | dsimp only

theorem indStore_moves {cs : List Part} {s0 s : State} (hm : Moves cs s0 s) (pg : Nat) (rw : Word) (rwl : Word) (domain : Nat) (waddr : Nat) (d : Word) (m0 : Part.regs ∈ cs) (m1 : Part.ind ∈ cs) :
    Moves cs s0 (indStore pg rw rwl domain waddr d s) := by
  unfold indStore
  repeat' first
    | with_reducible assumption
    | with_reducible apply State.raiseIf_moves
    | with_reducible apply State.setIndw_moves
    | intro _
    | split
    | dsimp only

end Sys2Proof.Machine
end

