-- ==== Sys2Proof/Laws/State.lean ====
section
/-!
SUPPORT. Sys2Proof/Laws/State.lean: one lemma for each field of the state and each of its updates, so that no proof unfolds a record update.
-/
namespace Sys2Proof.Machine
set_option Elab.async false

/-! `State.setReg` changes `regs` alone. -/

@[simp] theorem State.setReg_ind (s : State) (a : Nat) (v : Word) : (s.setReg a v).ind = s.ind := rfl
@[simp] theorem State.setReg_sram (s : State) (a : Nat) (v : Word) : (s.setReg a v).sram = s.sram := rfl
@[simp] theorem State.setReg_hostMem (s : State) (a : Nat) (v : Word) : (s.setReg a v).hostMem = s.hostMem := rfl
@[simp] theorem State.setReg_clk (s : State) (a : Nat) (v : Word) : (s.setReg a v).clk = s.clk := rfl
@[simp] theorem State.setReg_pwr (s : State) (a : Nat) (v : Word) : (s.setReg a v).pwr = s.pwr := rfl
@[simp] theorem State.setReg_hst (s : State) (a : Nat) (v : Word) : (s.setReg a v).hst = s.hst := rfl
@[simp] theorem State.setReg_lanes (s : State) (a : Nat) (v : Word) : (s.setReg a v).lanes = s.lanes := rfl
@[simp] theorem State.setReg_tb (s : State) (a : Nat) (v : Word) : (s.setReg a v).tb = s.tb := rfl
@[simp] theorem State.setReg_met (s : State) (a : Nat) (v : Word) : (s.setReg a v).met = s.met := rfl
@[simp] theorem State.setReg_loop (s : State) (a : Nat) (v : Word) : (s.setReg a v).loop = s.loop := rfl
@[simp] theorem State.setReg_sky (s : State) (a : Nat) (v : Word) : (s.setReg a v).sky = s.sky := rfl
@[simp] theorem State.setReg_prf (s : State) (a : Nat) (v : Word) : (s.setReg a v).prf = s.prf := rfl
@[simp] theorem State.setReg_net (s : State) (a : Nat) (v : Word) : (s.setReg a v).net = s.net := rfl
@[simp] theorem State.setReg_tlm (s : State) (a : Nat) (v : Word) : (s.setReg a v).tlm = s.tlm := rfl
@[simp] theorem State.setReg_twin (s : State) (a : Nat) (v : Word) : (s.setReg a v).twin = s.twin := rfl
@[simp] theorem State.setReg_boot (s : State) (a : Nat) (v : Word) : (s.setReg a v).boot = s.boot := rfl
@[simp] theorem State.setReg_tap (s : State) (a : Nat) (v : Word) : (s.setReg a v).tap = s.tap := rfl
@[simp] theorem State.setReg_lanePll (s : State) (a : Nat) (v : Word) : (s.setReg a v).lanePll = s.lanePll := rfl
@[simp] theorem State.setReg_free (s : State) (a : Nat) (v : Word) : (s.setReg a v).free = s.free := rfl
@[simp] theorem State.setReg_pending (s : State) (a : Nat) (v : Word) : (s.setReg a v).pending = s.pending := rfl
@[simp] theorem State.setReg_again (s : State) (a : Nat) (v : Word) : (s.setReg a v).again = s.again := rfl

/-! `State.setFld` changes `regs` alone. -/

@[simp] theorem State.setFld_ind (s : State) (f : Fld) (x : Nat) : (s.setFld f x).ind = s.ind := rfl
@[simp] theorem State.setFld_sram (s : State) (f : Fld) (x : Nat) : (s.setFld f x).sram = s.sram := rfl
@[simp] theorem State.setFld_hostMem (s : State) (f : Fld) (x : Nat) : (s.setFld f x).hostMem = s.hostMem := rfl
@[simp] theorem State.setFld_clk (s : State) (f : Fld) (x : Nat) : (s.setFld f x).clk = s.clk := rfl
@[simp] theorem State.setFld_pwr (s : State) (f : Fld) (x : Nat) : (s.setFld f x).pwr = s.pwr := rfl
@[simp] theorem State.setFld_hst (s : State) (f : Fld) (x : Nat) : (s.setFld f x).hst = s.hst := rfl
@[simp] theorem State.setFld_lanes (s : State) (f : Fld) (x : Nat) : (s.setFld f x).lanes = s.lanes := rfl
@[simp] theorem State.setFld_tb (s : State) (f : Fld) (x : Nat) : (s.setFld f x).tb = s.tb := rfl
@[simp] theorem State.setFld_met (s : State) (f : Fld) (x : Nat) : (s.setFld f x).met = s.met := rfl
@[simp] theorem State.setFld_loop (s : State) (f : Fld) (x : Nat) : (s.setFld f x).loop = s.loop := rfl
@[simp] theorem State.setFld_sky (s : State) (f : Fld) (x : Nat) : (s.setFld f x).sky = s.sky := rfl
@[simp] theorem State.setFld_prf (s : State) (f : Fld) (x : Nat) : (s.setFld f x).prf = s.prf := rfl
@[simp] theorem State.setFld_net (s : State) (f : Fld) (x : Nat) : (s.setFld f x).net = s.net := rfl
@[simp] theorem State.setFld_tlm (s : State) (f : Fld) (x : Nat) : (s.setFld f x).tlm = s.tlm := rfl
@[simp] theorem State.setFld_twin (s : State) (f : Fld) (x : Nat) : (s.setFld f x).twin = s.twin := rfl
@[simp] theorem State.setFld_boot (s : State) (f : Fld) (x : Nat) : (s.setFld f x).boot = s.boot := rfl
@[simp] theorem State.setFld_tap (s : State) (f : Fld) (x : Nat) : (s.setFld f x).tap = s.tap := rfl
@[simp] theorem State.setFld_lanePll (s : State) (f : Fld) (x : Nat) : (s.setFld f x).lanePll = s.lanePll := rfl
@[simp] theorem State.setFld_free (s : State) (f : Fld) (x : Nat) : (s.setFld f x).free = s.free := rfl
@[simp] theorem State.setFld_pending (s : State) (f : Fld) (x : Nat) : (s.setFld f x).pending = s.pending := rfl
@[simp] theorem State.setFld_again (s : State) (f : Fld) (x : Nat) : (s.setFld f x).again = s.again := rfl

/-! `State.setFlag` changes `regs` alone. -/

@[simp] theorem State.setFlag_ind (s : State) (f : Fld) (b : Bool) : (s.setFlag f b).ind = s.ind := rfl
@[simp] theorem State.setFlag_sram (s : State) (f : Fld) (b : Bool) : (s.setFlag f b).sram = s.sram := rfl
@[simp] theorem State.setFlag_hostMem (s : State) (f : Fld) (b : Bool) : (s.setFlag f b).hostMem = s.hostMem := rfl
@[simp] theorem State.setFlag_clk (s : State) (f : Fld) (b : Bool) : (s.setFlag f b).clk = s.clk := rfl
@[simp] theorem State.setFlag_pwr (s : State) (f : Fld) (b : Bool) : (s.setFlag f b).pwr = s.pwr := rfl
@[simp] theorem State.setFlag_hst (s : State) (f : Fld) (b : Bool) : (s.setFlag f b).hst = s.hst := rfl
@[simp] theorem State.setFlag_lanes (s : State) (f : Fld) (b : Bool) : (s.setFlag f b).lanes = s.lanes := rfl
@[simp] theorem State.setFlag_tb (s : State) (f : Fld) (b : Bool) : (s.setFlag f b).tb = s.tb := rfl
@[simp] theorem State.setFlag_met (s : State) (f : Fld) (b : Bool) : (s.setFlag f b).met = s.met := rfl
@[simp] theorem State.setFlag_loop (s : State) (f : Fld) (b : Bool) : (s.setFlag f b).loop = s.loop := rfl
@[simp] theorem State.setFlag_sky (s : State) (f : Fld) (b : Bool) : (s.setFlag f b).sky = s.sky := rfl
@[simp] theorem State.setFlag_prf (s : State) (f : Fld) (b : Bool) : (s.setFlag f b).prf = s.prf := rfl
@[simp] theorem State.setFlag_net (s : State) (f : Fld) (b : Bool) : (s.setFlag f b).net = s.net := rfl
@[simp] theorem State.setFlag_tlm (s : State) (f : Fld) (b : Bool) : (s.setFlag f b).tlm = s.tlm := rfl
@[simp] theorem State.setFlag_twin (s : State) (f : Fld) (b : Bool) : (s.setFlag f b).twin = s.twin := rfl
@[simp] theorem State.setFlag_boot (s : State) (f : Fld) (b : Bool) : (s.setFlag f b).boot = s.boot := rfl
@[simp] theorem State.setFlag_tap (s : State) (f : Fld) (b : Bool) : (s.setFlag f b).tap = s.tap := rfl
@[simp] theorem State.setFlag_lanePll (s : State) (f : Fld) (b : Bool) : (s.setFlag f b).lanePll = s.lanePll := rfl
@[simp] theorem State.setFlag_free (s : State) (f : Fld) (b : Bool) : (s.setFlag f b).free = s.free := rfl
@[simp] theorem State.setFlag_pending (s : State) (f : Fld) (b : Bool) : (s.setFlag f b).pending = s.pending := rfl
@[simp] theorem State.setFlag_again (s : State) (f : Fld) (b : Bool) : (s.setFlag f b).again = s.again := rfl

/-! `State.raise` changes `regs` alone. -/

@[simp] theorem State.raise_ind (s : State) (f : Fld) : (s.raise f).ind = s.ind := rfl
@[simp] theorem State.raise_sram (s : State) (f : Fld) : (s.raise f).sram = s.sram := rfl
@[simp] theorem State.raise_hostMem (s : State) (f : Fld) : (s.raise f).hostMem = s.hostMem := rfl
@[simp] theorem State.raise_clk (s : State) (f : Fld) : (s.raise f).clk = s.clk := rfl
@[simp] theorem State.raise_pwr (s : State) (f : Fld) : (s.raise f).pwr = s.pwr := rfl
@[simp] theorem State.raise_hst (s : State) (f : Fld) : (s.raise f).hst = s.hst := rfl
@[simp] theorem State.raise_lanes (s : State) (f : Fld) : (s.raise f).lanes = s.lanes := rfl
@[simp] theorem State.raise_tb (s : State) (f : Fld) : (s.raise f).tb = s.tb := rfl
@[simp] theorem State.raise_met (s : State) (f : Fld) : (s.raise f).met = s.met := rfl
@[simp] theorem State.raise_loop (s : State) (f : Fld) : (s.raise f).loop = s.loop := rfl
@[simp] theorem State.raise_sky (s : State) (f : Fld) : (s.raise f).sky = s.sky := rfl
@[simp] theorem State.raise_prf (s : State) (f : Fld) : (s.raise f).prf = s.prf := rfl
@[simp] theorem State.raise_net (s : State) (f : Fld) : (s.raise f).net = s.net := rfl
@[simp] theorem State.raise_tlm (s : State) (f : Fld) : (s.raise f).tlm = s.tlm := rfl
@[simp] theorem State.raise_twin (s : State) (f : Fld) : (s.raise f).twin = s.twin := rfl
@[simp] theorem State.raise_boot (s : State) (f : Fld) : (s.raise f).boot = s.boot := rfl
@[simp] theorem State.raise_tap (s : State) (f : Fld) : (s.raise f).tap = s.tap := rfl
@[simp] theorem State.raise_lanePll (s : State) (f : Fld) : (s.raise f).lanePll = s.lanePll := rfl
@[simp] theorem State.raise_free (s : State) (f : Fld) : (s.raise f).free = s.free := rfl
@[simp] theorem State.raise_pending (s : State) (f : Fld) : (s.raise f).pending = s.pending := rfl

/-! `State.raiseIf` changes `regs` alone. -/

@[simp] theorem State.raiseIf_ind (s : State) (c : Bool) (f : Fld) : (s.raiseIf c f).ind = s.ind := by cases c <;> rfl
@[simp] theorem State.raiseIf_sram (s : State) (c : Bool) (f : Fld) : (s.raiseIf c f).sram = s.sram := by cases c <;> rfl
@[simp] theorem State.raiseIf_hostMem (s : State) (c : Bool) (f : Fld) : (s.raiseIf c f).hostMem = s.hostMem := by cases c <;> rfl
@[simp] theorem State.raiseIf_clk (s : State) (c : Bool) (f : Fld) : (s.raiseIf c f).clk = s.clk := by cases c <;> rfl
@[simp] theorem State.raiseIf_pwr (s : State) (c : Bool) (f : Fld) : (s.raiseIf c f).pwr = s.pwr := by cases c <;> rfl
@[simp] theorem State.raiseIf_hst (s : State) (c : Bool) (f : Fld) : (s.raiseIf c f).hst = s.hst := by cases c <;> rfl
@[simp] theorem State.raiseIf_lanes (s : State) (c : Bool) (f : Fld) : (s.raiseIf c f).lanes = s.lanes := by cases c <;> rfl
@[simp] theorem State.raiseIf_tb (s : State) (c : Bool) (f : Fld) : (s.raiseIf c f).tb = s.tb := by cases c <;> rfl
@[simp] theorem State.raiseIf_met (s : State) (c : Bool) (f : Fld) : (s.raiseIf c f).met = s.met := by cases c <;> rfl
@[simp] theorem State.raiseIf_loop (s : State) (c : Bool) (f : Fld) : (s.raiseIf c f).loop = s.loop := by cases c <;> rfl
@[simp] theorem State.raiseIf_sky (s : State) (c : Bool) (f : Fld) : (s.raiseIf c f).sky = s.sky := by cases c <;> rfl
@[simp] theorem State.raiseIf_prf (s : State) (c : Bool) (f : Fld) : (s.raiseIf c f).prf = s.prf := by cases c <;> rfl
@[simp] theorem State.raiseIf_net (s : State) (c : Bool) (f : Fld) : (s.raiseIf c f).net = s.net := by cases c <;> rfl
@[simp] theorem State.raiseIf_tlm (s : State) (c : Bool) (f : Fld) : (s.raiseIf c f).tlm = s.tlm := by cases c <;> rfl
@[simp] theorem State.raiseIf_twin (s : State) (c : Bool) (f : Fld) : (s.raiseIf c f).twin = s.twin := by cases c <;> rfl
@[simp] theorem State.raiseIf_boot (s : State) (c : Bool) (f : Fld) : (s.raiseIf c f).boot = s.boot := by cases c <;> rfl
@[simp] theorem State.raiseIf_tap (s : State) (c : Bool) (f : Fld) : (s.raiseIf c f).tap = s.tap := by cases c <;> rfl
@[simp] theorem State.raiseIf_lanePll (s : State) (c : Bool) (f : Fld) : (s.raiseIf c f).lanePll = s.lanePll := by cases c <;> rfl
@[simp] theorem State.raiseIf_free (s : State) (c : Bool) (f : Fld) : (s.raiseIf c f).free = s.free := by cases c <;> rfl
@[simp] theorem State.raiseIf_pending (s : State) (c : Bool) (f : Fld) : (s.raiseIf c f).pending = s.pending := by cases c <;> rfl

/-! `State.raise?` changes `regs` alone. -/

@[simp] theorem State.raise_opt_ind (s : State) (f : Option Fld) : (s.raise? f).ind = s.ind := by cases f <;> rfl
@[simp] theorem State.raise_opt_sram (s : State) (f : Option Fld) : (s.raise? f).sram = s.sram := by cases f <;> rfl
@[simp] theorem State.raise_opt_hostMem (s : State) (f : Option Fld) : (s.raise? f).hostMem = s.hostMem := by cases f <;> rfl
@[simp] theorem State.raise_opt_clk (s : State) (f : Option Fld) : (s.raise? f).clk = s.clk := by cases f <;> rfl
@[simp] theorem State.raise_opt_pwr (s : State) (f : Option Fld) : (s.raise? f).pwr = s.pwr := by cases f <;> rfl
@[simp] theorem State.raise_opt_hst (s : State) (f : Option Fld) : (s.raise? f).hst = s.hst := by cases f <;> rfl
@[simp] theorem State.raise_opt_lanes (s : State) (f : Option Fld) : (s.raise? f).lanes = s.lanes := by cases f <;> rfl
@[simp] theorem State.raise_opt_tb (s : State) (f : Option Fld) : (s.raise? f).tb = s.tb := by cases f <;> rfl
@[simp] theorem State.raise_opt_met (s : State) (f : Option Fld) : (s.raise? f).met = s.met := by cases f <;> rfl
@[simp] theorem State.raise_opt_loop (s : State) (f : Option Fld) : (s.raise? f).loop = s.loop := by cases f <;> rfl
@[simp] theorem State.raise_opt_sky (s : State) (f : Option Fld) : (s.raise? f).sky = s.sky := by cases f <;> rfl
@[simp] theorem State.raise_opt_prf (s : State) (f : Option Fld) : (s.raise? f).prf = s.prf := by cases f <;> rfl
@[simp] theorem State.raise_opt_net (s : State) (f : Option Fld) : (s.raise? f).net = s.net := by cases f <;> rfl
@[simp] theorem State.raise_opt_tlm (s : State) (f : Option Fld) : (s.raise? f).tlm = s.tlm := by cases f <;> rfl
@[simp] theorem State.raise_opt_twin (s : State) (f : Option Fld) : (s.raise? f).twin = s.twin := by cases f <;> rfl
@[simp] theorem State.raise_opt_boot (s : State) (f : Option Fld) : (s.raise? f).boot = s.boot := by cases f <;> rfl
@[simp] theorem State.raise_opt_tap (s : State) (f : Option Fld) : (s.raise? f).tap = s.tap := by cases f <;> rfl
@[simp] theorem State.raise_opt_lanePll (s : State) (f : Option Fld) : (s.raise? f).lanePll = s.lanePll := by cases f <;> rfl
@[simp] theorem State.raise_opt_free (s : State) (f : Option Fld) : (s.raise? f).free = s.free := by cases f <;> rfl
@[simp] theorem State.raise_opt_pending (s : State) (f : Option Fld) : (s.raise? f).pending = s.pending := by cases f <;> rfl

/-! `State.setRbit` changes `regs` alone. -/

@[simp] theorem State.setRbit_ind (s : State) (a i : Nat) (b : Bool) : (s.setRbit a i b).ind = s.ind := rfl
@[simp] theorem State.setRbit_sram (s : State) (a i : Nat) (b : Bool) : (s.setRbit a i b).sram = s.sram := rfl
@[simp] theorem State.setRbit_hostMem (s : State) (a i : Nat) (b : Bool) : (s.setRbit a i b).hostMem = s.hostMem := rfl
@[simp] theorem State.setRbit_clk (s : State) (a i : Nat) (b : Bool) : (s.setRbit a i b).clk = s.clk := rfl
@[simp] theorem State.setRbit_pwr (s : State) (a i : Nat) (b : Bool) : (s.setRbit a i b).pwr = s.pwr := rfl
@[simp] theorem State.setRbit_hst (s : State) (a i : Nat) (b : Bool) : (s.setRbit a i b).hst = s.hst := rfl
@[simp] theorem State.setRbit_lanes (s : State) (a i : Nat) (b : Bool) : (s.setRbit a i b).lanes = s.lanes := rfl
@[simp] theorem State.setRbit_tb (s : State) (a i : Nat) (b : Bool) : (s.setRbit a i b).tb = s.tb := rfl
@[simp] theorem State.setRbit_met (s : State) (a i : Nat) (b : Bool) : (s.setRbit a i b).met = s.met := rfl
@[simp] theorem State.setRbit_loop (s : State) (a i : Nat) (b : Bool) : (s.setRbit a i b).loop = s.loop := rfl
@[simp] theorem State.setRbit_sky (s : State) (a i : Nat) (b : Bool) : (s.setRbit a i b).sky = s.sky := rfl
@[simp] theorem State.setRbit_prf (s : State) (a i : Nat) (b : Bool) : (s.setRbit a i b).prf = s.prf := rfl
@[simp] theorem State.setRbit_net (s : State) (a i : Nat) (b : Bool) : (s.setRbit a i b).net = s.net := rfl
@[simp] theorem State.setRbit_tlm (s : State) (a i : Nat) (b : Bool) : (s.setRbit a i b).tlm = s.tlm := rfl
@[simp] theorem State.setRbit_twin (s : State) (a i : Nat) (b : Bool) : (s.setRbit a i b).twin = s.twin := rfl
@[simp] theorem State.setRbit_boot (s : State) (a i : Nat) (b : Bool) : (s.setRbit a i b).boot = s.boot := rfl
@[simp] theorem State.setRbit_tap (s : State) (a i : Nat) (b : Bool) : (s.setRbit a i b).tap = s.tap := rfl
@[simp] theorem State.setRbit_lanePll (s : State) (a i : Nat) (b : Bool) : (s.setRbit a i b).lanePll = s.lanePll := rfl
@[simp] theorem State.setRbit_free (s : State) (a i : Nat) (b : Bool) : (s.setRbit a i b).free = s.free := rfl
@[simp] theorem State.setRbit_pending (s : State) (a i : Nat) (b : Bool) : (s.setRbit a i b).pending = s.pending := rfl
@[simp] theorem State.setRbit_again (s : State) (a i : Nat) (b : Bool) : (s.setRbit a i b).again = s.again := rfl

/-! `State.setReg64` changes `regs` alone. -/

@[simp] theorem State.setReg64_ind (s : State) (lo hi x : Nat) : (s.setReg64 lo hi x).ind = s.ind := rfl
@[simp] theorem State.setReg64_sram (s : State) (lo hi x : Nat) : (s.setReg64 lo hi x).sram = s.sram := rfl
@[simp] theorem State.setReg64_hostMem (s : State) (lo hi x : Nat) : (s.setReg64 lo hi x).hostMem = s.hostMem := rfl
@[simp] theorem State.setReg64_clk (s : State) (lo hi x : Nat) : (s.setReg64 lo hi x).clk = s.clk := rfl
@[simp] theorem State.setReg64_pwr (s : State) (lo hi x : Nat) : (s.setReg64 lo hi x).pwr = s.pwr := rfl
@[simp] theorem State.setReg64_hst (s : State) (lo hi x : Nat) : (s.setReg64 lo hi x).hst = s.hst := rfl
@[simp] theorem State.setReg64_lanes (s : State) (lo hi x : Nat) : (s.setReg64 lo hi x).lanes = s.lanes := rfl
@[simp] theorem State.setReg64_tb (s : State) (lo hi x : Nat) : (s.setReg64 lo hi x).tb = s.tb := rfl
@[simp] theorem State.setReg64_met (s : State) (lo hi x : Nat) : (s.setReg64 lo hi x).met = s.met := rfl
@[simp] theorem State.setReg64_loop (s : State) (lo hi x : Nat) : (s.setReg64 lo hi x).loop = s.loop := rfl
@[simp] theorem State.setReg64_sky (s : State) (lo hi x : Nat) : (s.setReg64 lo hi x).sky = s.sky := rfl
@[simp] theorem State.setReg64_prf (s : State) (lo hi x : Nat) : (s.setReg64 lo hi x).prf = s.prf := rfl
@[simp] theorem State.setReg64_net (s : State) (lo hi x : Nat) : (s.setReg64 lo hi x).net = s.net := rfl
@[simp] theorem State.setReg64_tlm (s : State) (lo hi x : Nat) : (s.setReg64 lo hi x).tlm = s.tlm := rfl
@[simp] theorem State.setReg64_twin (s : State) (lo hi x : Nat) : (s.setReg64 lo hi x).twin = s.twin := rfl
@[simp] theorem State.setReg64_boot (s : State) (lo hi x : Nat) : (s.setReg64 lo hi x).boot = s.boot := rfl
@[simp] theorem State.setReg64_tap (s : State) (lo hi x : Nat) : (s.setReg64 lo hi x).tap = s.tap := rfl
@[simp] theorem State.setReg64_lanePll (s : State) (lo hi x : Nat) : (s.setReg64 lo hi x).lanePll = s.lanePll := rfl
@[simp] theorem State.setReg64_free (s : State) (lo hi x : Nat) : (s.setReg64 lo hi x).free = s.free := rfl
@[simp] theorem State.setReg64_pending (s : State) (lo hi x : Nat) : (s.setReg64 lo hi x).pending = s.pending := rfl
@[simp] theorem State.setReg64_again (s : State) (lo hi x : Nat) : (s.setReg64 lo hi x).again = s.again := rfl

/-! `State.setRegs` changes `regs` alone. -/

@[simp] theorem State.setRegs_ind (s : State) (a : Nat) (ws : List Word) : (s.setRegs a ws).ind = s.ind := by
  induction ws generalizing s a with
  | nil => rfl
  | cons w ws ih => exact ih _ _
@[simp] theorem State.setRegs_sram (s : State) (a : Nat) (ws : List Word) : (s.setRegs a ws).sram = s.sram := by
  induction ws generalizing s a with
  | nil => rfl
  | cons w ws ih => exact ih _ _
@[simp] theorem State.setRegs_hostMem (s : State) (a : Nat) (ws : List Word) : (s.setRegs a ws).hostMem = s.hostMem := by
  induction ws generalizing s a with
  | nil => rfl
  | cons w ws ih => exact ih _ _
@[simp] theorem State.setRegs_clk (s : State) (a : Nat) (ws : List Word) : (s.setRegs a ws).clk = s.clk := by
  induction ws generalizing s a with
  | nil => rfl
  | cons w ws ih => exact ih _ _
@[simp] theorem State.setRegs_pwr (s : State) (a : Nat) (ws : List Word) : (s.setRegs a ws).pwr = s.pwr := by
  induction ws generalizing s a with
  | nil => rfl
  | cons w ws ih => exact ih _ _
@[simp] theorem State.setRegs_hst (s : State) (a : Nat) (ws : List Word) : (s.setRegs a ws).hst = s.hst := by
  induction ws generalizing s a with
  | nil => rfl
  | cons w ws ih => exact ih _ _
@[simp] theorem State.setRegs_lanes (s : State) (a : Nat) (ws : List Word) : (s.setRegs a ws).lanes = s.lanes := by
  induction ws generalizing s a with
  | nil => rfl
  | cons w ws ih => exact ih _ _
@[simp] theorem State.setRegs_tb (s : State) (a : Nat) (ws : List Word) : (s.setRegs a ws).tb = s.tb := by
  induction ws generalizing s a with
  | nil => rfl
  | cons w ws ih => exact ih _ _
@[simp] theorem State.setRegs_met (s : State) (a : Nat) (ws : List Word) : (s.setRegs a ws).met = s.met := by
  induction ws generalizing s a with
  | nil => rfl
  | cons w ws ih => exact ih _ _
@[simp] theorem State.setRegs_loop (s : State) (a : Nat) (ws : List Word) : (s.setRegs a ws).loop = s.loop := by
  induction ws generalizing s a with
  | nil => rfl
  | cons w ws ih => exact ih _ _
@[simp] theorem State.setRegs_sky (s : State) (a : Nat) (ws : List Word) : (s.setRegs a ws).sky = s.sky := by
  induction ws generalizing s a with
  | nil => rfl
  | cons w ws ih => exact ih _ _
@[simp] theorem State.setRegs_prf (s : State) (a : Nat) (ws : List Word) : (s.setRegs a ws).prf = s.prf := by
  induction ws generalizing s a with
  | nil => rfl
  | cons w ws ih => exact ih _ _
@[simp] theorem State.setRegs_net (s : State) (a : Nat) (ws : List Word) : (s.setRegs a ws).net = s.net := by
  induction ws generalizing s a with
  | nil => rfl
  | cons w ws ih => exact ih _ _
@[simp] theorem State.setRegs_tlm (s : State) (a : Nat) (ws : List Word) : (s.setRegs a ws).tlm = s.tlm := by
  induction ws generalizing s a with
  | nil => rfl
  | cons w ws ih => exact ih _ _
@[simp] theorem State.setRegs_twin (s : State) (a : Nat) (ws : List Word) : (s.setRegs a ws).twin = s.twin := by
  induction ws generalizing s a with
  | nil => rfl
  | cons w ws ih => exact ih _ _
@[simp] theorem State.setRegs_boot (s : State) (a : Nat) (ws : List Word) : (s.setRegs a ws).boot = s.boot := by
  induction ws generalizing s a with
  | nil => rfl
  | cons w ws ih => exact ih _ _
@[simp] theorem State.setRegs_tap (s : State) (a : Nat) (ws : List Word) : (s.setRegs a ws).tap = s.tap := by
  induction ws generalizing s a with
  | nil => rfl
  | cons w ws ih => exact ih _ _
@[simp] theorem State.setRegs_lanePll (s : State) (a : Nat) (ws : List Word) : (s.setRegs a ws).lanePll = s.lanePll := by
  induction ws generalizing s a with
  | nil => rfl
  | cons w ws ih => exact ih _ _
@[simp] theorem State.setRegs_free (s : State) (a : Nat) (ws : List Word) : (s.setRegs a ws).free = s.free := by
  induction ws generalizing s a with
  | nil => rfl
  | cons w ws ih => exact ih _ _
@[simp] theorem State.setRegs_pending (s : State) (a : Nat) (ws : List Word) : (s.setRegs a ws).pending = s.pending := by
  induction ws generalizing s a with
  | nil => rfl
  | cons w ws ih => exact ih _ _
@[simp] theorem State.setRegs_again (s : State) (a : Nat) (ws : List Word) : (s.setRegs a ws).again = s.again := by
  induction ws generalizing s a with
  | nil => rfl
  | cons w ws ih => exact ih _ _

/-! `State.bump32` changes `regs` alone. -/

@[simp] theorem State.bump32_ind (s : State) (a n : Nat) (o : Option Fld) : (s.bump32 a n o).ind = s.ind := (State.bump32_moves (Moves.refl [.regs] s) a n o (.head _)).within.ind_eq
@[simp] theorem State.bump32_sram (s : State) (a n : Nat) (o : Option Fld) : (s.bump32 a n o).sram = s.sram := (State.bump32_moves (Moves.refl [.regs] s) a n o (.head _)).within.sram_eq
@[simp] theorem State.bump32_hostMem (s : State) (a n : Nat) (o : Option Fld) : (s.bump32 a n o).hostMem = s.hostMem := (State.bump32_moves (Moves.refl [.regs] s) a n o (.head _)).within.hostMem_eq
@[simp] theorem State.bump32_clk (s : State) (a n : Nat) (o : Option Fld) : (s.bump32 a n o).clk = s.clk := (State.bump32_moves (Moves.refl [.regs] s) a n o (.head _)).within.clk_eq
@[simp] theorem State.bump32_pwr (s : State) (a n : Nat) (o : Option Fld) : (s.bump32 a n o).pwr = s.pwr := (State.bump32_moves (Moves.refl [.regs] s) a n o (.head _)).within.pwr_eq
@[simp] theorem State.bump32_hst (s : State) (a n : Nat) (o : Option Fld) : (s.bump32 a n o).hst = s.hst := (State.bump32_moves (Moves.refl [.regs] s) a n o (.head _)).within.hst_eq
@[simp] theorem State.bump32_lanes (s : State) (a n : Nat) (o : Option Fld) : (s.bump32 a n o).lanes = s.lanes := (State.bump32_moves (Moves.refl [.regs] s) a n o (.head _)).within.lanes_eq
@[simp] theorem State.bump32_tb (s : State) (a n : Nat) (o : Option Fld) : (s.bump32 a n o).tb = s.tb := (State.bump32_moves (Moves.refl [.regs] s) a n o (.head _)).within.tb_eq
@[simp] theorem State.bump32_met (s : State) (a n : Nat) (o : Option Fld) : (s.bump32 a n o).met = s.met := (State.bump32_moves (Moves.refl [.regs] s) a n o (.head _)).within.met_eq
@[simp] theorem State.bump32_loop (s : State) (a n : Nat) (o : Option Fld) : (s.bump32 a n o).loop = s.loop := (State.bump32_moves (Moves.refl [.regs] s) a n o (.head _)).within.loop_eq
@[simp] theorem State.bump32_sky (s : State) (a n : Nat) (o : Option Fld) : (s.bump32 a n o).sky = s.sky := (State.bump32_moves (Moves.refl [.regs] s) a n o (.head _)).within.sky_eq
@[simp] theorem State.bump32_prf (s : State) (a n : Nat) (o : Option Fld) : (s.bump32 a n o).prf = s.prf := (State.bump32_moves (Moves.refl [.regs] s) a n o (.head _)).within.prf_eq
@[simp] theorem State.bump32_net (s : State) (a n : Nat) (o : Option Fld) : (s.bump32 a n o).net = s.net := (State.bump32_moves (Moves.refl [.regs] s) a n o (.head _)).within.net_eq
@[simp] theorem State.bump32_tlm (s : State) (a n : Nat) (o : Option Fld) : (s.bump32 a n o).tlm = s.tlm := (State.bump32_moves (Moves.refl [.regs] s) a n o (.head _)).within.tlm_eq
@[simp] theorem State.bump32_twin (s : State) (a n : Nat) (o : Option Fld) : (s.bump32 a n o).twin = s.twin := (State.bump32_moves (Moves.refl [.regs] s) a n o (.head _)).within.twin_eq
@[simp] theorem State.bump32_boot (s : State) (a n : Nat) (o : Option Fld) : (s.bump32 a n o).boot = s.boot := (State.bump32_moves (Moves.refl [.regs] s) a n o (.head _)).within.boot_eq
@[simp] theorem State.bump32_tap (s : State) (a n : Nat) (o : Option Fld) : (s.bump32 a n o).tap = s.tap := (State.bump32_moves (Moves.refl [.regs] s) a n o (.head _)).within.tap_eq
@[simp] theorem State.bump32_lanePll (s : State) (a n : Nat) (o : Option Fld) : (s.bump32 a n o).lanePll = s.lanePll := (State.bump32_moves (Moves.refl [.regs] s) a n o (.head _)).within.lanePll_eq
@[simp] theorem State.bump32_free (s : State) (a n : Nat) (o : Option Fld) : (s.bump32 a n o).free = s.free := (State.bump32_moves (Moves.refl [.regs] s) a n o (.head _)).within.free_eq
@[simp] theorem State.bump32_pending (s : State) (a n : Nat) (o : Option Fld) : (s.bump32 a n o).pending = s.pending := (State.bump32_moves (Moves.refl [.regs] s) a n o (.head _)).within.pending_eq

/-! `State.bump64` changes `regs` alone. -/

@[simp] theorem State.bump64_ind (s : State) (a n : Nat) (o : Option Fld) : (s.bump64 a n o).ind = s.ind := (State.bump64_moves (Moves.refl [.regs] s) a n o (.head _)).within.ind_eq
@[simp] theorem State.bump64_sram (s : State) (a n : Nat) (o : Option Fld) : (s.bump64 a n o).sram = s.sram := (State.bump64_moves (Moves.refl [.regs] s) a n o (.head _)).within.sram_eq
@[simp] theorem State.bump64_hostMem (s : State) (a n : Nat) (o : Option Fld) : (s.bump64 a n o).hostMem = s.hostMem := (State.bump64_moves (Moves.refl [.regs] s) a n o (.head _)).within.hostMem_eq
@[simp] theorem State.bump64_clk (s : State) (a n : Nat) (o : Option Fld) : (s.bump64 a n o).clk = s.clk := (State.bump64_moves (Moves.refl [.regs] s) a n o (.head _)).within.clk_eq
@[simp] theorem State.bump64_pwr (s : State) (a n : Nat) (o : Option Fld) : (s.bump64 a n o).pwr = s.pwr := (State.bump64_moves (Moves.refl [.regs] s) a n o (.head _)).within.pwr_eq
@[simp] theorem State.bump64_hst (s : State) (a n : Nat) (o : Option Fld) : (s.bump64 a n o).hst = s.hst := (State.bump64_moves (Moves.refl [.regs] s) a n o (.head _)).within.hst_eq
@[simp] theorem State.bump64_lanes (s : State) (a n : Nat) (o : Option Fld) : (s.bump64 a n o).lanes = s.lanes := (State.bump64_moves (Moves.refl [.regs] s) a n o (.head _)).within.lanes_eq
@[simp] theorem State.bump64_tb (s : State) (a n : Nat) (o : Option Fld) : (s.bump64 a n o).tb = s.tb := (State.bump64_moves (Moves.refl [.regs] s) a n o (.head _)).within.tb_eq
@[simp] theorem State.bump64_met (s : State) (a n : Nat) (o : Option Fld) : (s.bump64 a n o).met = s.met := (State.bump64_moves (Moves.refl [.regs] s) a n o (.head _)).within.met_eq
@[simp] theorem State.bump64_loop (s : State) (a n : Nat) (o : Option Fld) : (s.bump64 a n o).loop = s.loop := (State.bump64_moves (Moves.refl [.regs] s) a n o (.head _)).within.loop_eq
@[simp] theorem State.bump64_sky (s : State) (a n : Nat) (o : Option Fld) : (s.bump64 a n o).sky = s.sky := (State.bump64_moves (Moves.refl [.regs] s) a n o (.head _)).within.sky_eq
@[simp] theorem State.bump64_prf (s : State) (a n : Nat) (o : Option Fld) : (s.bump64 a n o).prf = s.prf := (State.bump64_moves (Moves.refl [.regs] s) a n o (.head _)).within.prf_eq
@[simp] theorem State.bump64_net (s : State) (a n : Nat) (o : Option Fld) : (s.bump64 a n o).net = s.net := (State.bump64_moves (Moves.refl [.regs] s) a n o (.head _)).within.net_eq
@[simp] theorem State.bump64_tlm (s : State) (a n : Nat) (o : Option Fld) : (s.bump64 a n o).tlm = s.tlm := (State.bump64_moves (Moves.refl [.regs] s) a n o (.head _)).within.tlm_eq
@[simp] theorem State.bump64_twin (s : State) (a n : Nat) (o : Option Fld) : (s.bump64 a n o).twin = s.twin := (State.bump64_moves (Moves.refl [.regs] s) a n o (.head _)).within.twin_eq
@[simp] theorem State.bump64_boot (s : State) (a n : Nat) (o : Option Fld) : (s.bump64 a n o).boot = s.boot := (State.bump64_moves (Moves.refl [.regs] s) a n o (.head _)).within.boot_eq
@[simp] theorem State.bump64_tap (s : State) (a n : Nat) (o : Option Fld) : (s.bump64 a n o).tap = s.tap := (State.bump64_moves (Moves.refl [.regs] s) a n o (.head _)).within.tap_eq
@[simp] theorem State.bump64_lanePll (s : State) (a n : Nat) (o : Option Fld) : (s.bump64 a n o).lanePll = s.lanePll := (State.bump64_moves (Moves.refl [.regs] s) a n o (.head _)).within.lanePll_eq
@[simp] theorem State.bump64_free (s : State) (a n : Nat) (o : Option Fld) : (s.bump64 a n o).free = s.free := (State.bump64_moves (Moves.refl [.regs] s) a n o (.head _)).within.free_eq
@[simp] theorem State.bump64_pending (s : State) (a n : Nat) (o : Option Fld) : (s.bump64 a n o).pending = s.pending := (State.bump64_moves (Moves.refl [.regs] s) a n o (.head _)).within.pending_eq

/-! `State.setIndw` changes `ind` alone. -/

@[simp] theorem State.setIndw_regs (s : State) (d w : Nat) (v : Word) : (s.setIndw d w v).regs = s.regs := (State.setIndw_moves (Moves.refl [.ind] s) d w v (.head _)).within.regs_eq
@[simp] theorem State.setIndw_sram (s : State) (d w : Nat) (v : Word) : (s.setIndw d w v).sram = s.sram := (State.setIndw_moves (Moves.refl [.ind] s) d w v (.head _)).within.sram_eq
@[simp] theorem State.setIndw_hostMem (s : State) (d w : Nat) (v : Word) : (s.setIndw d w v).hostMem = s.hostMem := (State.setIndw_moves (Moves.refl [.ind] s) d w v (.head _)).within.hostMem_eq
@[simp] theorem State.setIndw_clk (s : State) (d w : Nat) (v : Word) : (s.setIndw d w v).clk = s.clk := (State.setIndw_moves (Moves.refl [.ind] s) d w v (.head _)).within.clk_eq
@[simp] theorem State.setIndw_pwr (s : State) (d w : Nat) (v : Word) : (s.setIndw d w v).pwr = s.pwr := (State.setIndw_moves (Moves.refl [.ind] s) d w v (.head _)).within.pwr_eq
@[simp] theorem State.setIndw_hst (s : State) (d w : Nat) (v : Word) : (s.setIndw d w v).hst = s.hst := (State.setIndw_moves (Moves.refl [.ind] s) d w v (.head _)).within.hst_eq
@[simp] theorem State.setIndw_lanes (s : State) (d w : Nat) (v : Word) : (s.setIndw d w v).lanes = s.lanes := (State.setIndw_moves (Moves.refl [.ind] s) d w v (.head _)).within.lanes_eq
@[simp] theorem State.setIndw_tb (s : State) (d w : Nat) (v : Word) : (s.setIndw d w v).tb = s.tb := (State.setIndw_moves (Moves.refl [.ind] s) d w v (.head _)).within.tb_eq
@[simp] theorem State.setIndw_met (s : State) (d w : Nat) (v : Word) : (s.setIndw d w v).met = s.met := (State.setIndw_moves (Moves.refl [.ind] s) d w v (.head _)).within.met_eq
@[simp] theorem State.setIndw_loop (s : State) (d w : Nat) (v : Word) : (s.setIndw d w v).loop = s.loop := (State.setIndw_moves (Moves.refl [.ind] s) d w v (.head _)).within.loop_eq
@[simp] theorem State.setIndw_sky (s : State) (d w : Nat) (v : Word) : (s.setIndw d w v).sky = s.sky := (State.setIndw_moves (Moves.refl [.ind] s) d w v (.head _)).within.sky_eq
@[simp] theorem State.setIndw_prf (s : State) (d w : Nat) (v : Word) : (s.setIndw d w v).prf = s.prf := (State.setIndw_moves (Moves.refl [.ind] s) d w v (.head _)).within.prf_eq
@[simp] theorem State.setIndw_net (s : State) (d w : Nat) (v : Word) : (s.setIndw d w v).net = s.net := (State.setIndw_moves (Moves.refl [.ind] s) d w v (.head _)).within.net_eq
@[simp] theorem State.setIndw_tlm (s : State) (d w : Nat) (v : Word) : (s.setIndw d w v).tlm = s.tlm := (State.setIndw_moves (Moves.refl [.ind] s) d w v (.head _)).within.tlm_eq
@[simp] theorem State.setIndw_twin (s : State) (d w : Nat) (v : Word) : (s.setIndw d w v).twin = s.twin := (State.setIndw_moves (Moves.refl [.ind] s) d w v (.head _)).within.twin_eq
@[simp] theorem State.setIndw_boot (s : State) (d w : Nat) (v : Word) : (s.setIndw d w v).boot = s.boot := (State.setIndw_moves (Moves.refl [.ind] s) d w v (.head _)).within.boot_eq
@[simp] theorem State.setIndw_tap (s : State) (d w : Nat) (v : Word) : (s.setIndw d w v).tap = s.tap := (State.setIndw_moves (Moves.refl [.ind] s) d w v (.head _)).within.tap_eq
@[simp] theorem State.setIndw_lanePll (s : State) (d w : Nat) (v : Word) : (s.setIndw d w v).lanePll = s.lanePll := (State.setIndw_moves (Moves.refl [.ind] s) d w v (.head _)).within.lanePll_eq
@[simp] theorem State.setIndw_free (s : State) (d w : Nat) (v : Word) : (s.setIndw d w v).free = s.free := (State.setIndw_moves (Moves.refl [.ind] s) d w v (.head _)).within.free_eq
@[simp] theorem State.setIndw_pending (s : State) (d w : Nat) (v : Word) : (s.setIndw d w v).pending = s.pending := (State.setIndw_moves (Moves.refl [.ind] s) d w v (.head _)).within.pending_eq
@[simp] theorem State.setIndw_again (s : State) (d w : Nat) (v : Word) : (s.setIndw d w v).again = s.again := (State.setIndw_moves (Moves.refl [.ind] s) d w v (.head _)).within.again_eq

/-! `State.setIfld` changes `ind` alone. -/

@[simp] theorem State.setIfld_regs (s : State) (d w lo n x : Nat) : (s.setIfld d w lo n x).regs = s.regs := (State.setIfld_moves (Moves.refl [.ind] s) d w lo n x (.head _)).within.regs_eq
@[simp] theorem State.setIfld_sram (s : State) (d w lo n x : Nat) : (s.setIfld d w lo n x).sram = s.sram := (State.setIfld_moves (Moves.refl [.ind] s) d w lo n x (.head _)).within.sram_eq
@[simp] theorem State.setIfld_hostMem (s : State) (d w lo n x : Nat) : (s.setIfld d w lo n x).hostMem = s.hostMem := (State.setIfld_moves (Moves.refl [.ind] s) d w lo n x (.head _)).within.hostMem_eq
@[simp] theorem State.setIfld_clk (s : State) (d w lo n x : Nat) : (s.setIfld d w lo n x).clk = s.clk := (State.setIfld_moves (Moves.refl [.ind] s) d w lo n x (.head _)).within.clk_eq
@[simp] theorem State.setIfld_pwr (s : State) (d w lo n x : Nat) : (s.setIfld d w lo n x).pwr = s.pwr := (State.setIfld_moves (Moves.refl [.ind] s) d w lo n x (.head _)).within.pwr_eq
@[simp] theorem State.setIfld_hst (s : State) (d w lo n x : Nat) : (s.setIfld d w lo n x).hst = s.hst := (State.setIfld_moves (Moves.refl [.ind] s) d w lo n x (.head _)).within.hst_eq
@[simp] theorem State.setIfld_lanes (s : State) (d w lo n x : Nat) : (s.setIfld d w lo n x).lanes = s.lanes := (State.setIfld_moves (Moves.refl [.ind] s) d w lo n x (.head _)).within.lanes_eq
@[simp] theorem State.setIfld_tb (s : State) (d w lo n x : Nat) : (s.setIfld d w lo n x).tb = s.tb := (State.setIfld_moves (Moves.refl [.ind] s) d w lo n x (.head _)).within.tb_eq
@[simp] theorem State.setIfld_met (s : State) (d w lo n x : Nat) : (s.setIfld d w lo n x).met = s.met := (State.setIfld_moves (Moves.refl [.ind] s) d w lo n x (.head _)).within.met_eq
@[simp] theorem State.setIfld_loop (s : State) (d w lo n x : Nat) : (s.setIfld d w lo n x).loop = s.loop := (State.setIfld_moves (Moves.refl [.ind] s) d w lo n x (.head _)).within.loop_eq
@[simp] theorem State.setIfld_sky (s : State) (d w lo n x : Nat) : (s.setIfld d w lo n x).sky = s.sky := (State.setIfld_moves (Moves.refl [.ind] s) d w lo n x (.head _)).within.sky_eq
@[simp] theorem State.setIfld_prf (s : State) (d w lo n x : Nat) : (s.setIfld d w lo n x).prf = s.prf := (State.setIfld_moves (Moves.refl [.ind] s) d w lo n x (.head _)).within.prf_eq
@[simp] theorem State.setIfld_net (s : State) (d w lo n x : Nat) : (s.setIfld d w lo n x).net = s.net := (State.setIfld_moves (Moves.refl [.ind] s) d w lo n x (.head _)).within.net_eq
@[simp] theorem State.setIfld_tlm (s : State) (d w lo n x : Nat) : (s.setIfld d w lo n x).tlm = s.tlm := (State.setIfld_moves (Moves.refl [.ind] s) d w lo n x (.head _)).within.tlm_eq
@[simp] theorem State.setIfld_twin (s : State) (d w lo n x : Nat) : (s.setIfld d w lo n x).twin = s.twin := (State.setIfld_moves (Moves.refl [.ind] s) d w lo n x (.head _)).within.twin_eq
@[simp] theorem State.setIfld_boot (s : State) (d w lo n x : Nat) : (s.setIfld d w lo n x).boot = s.boot := (State.setIfld_moves (Moves.refl [.ind] s) d w lo n x (.head _)).within.boot_eq
@[simp] theorem State.setIfld_tap (s : State) (d w lo n x : Nat) : (s.setIfld d w lo n x).tap = s.tap := (State.setIfld_moves (Moves.refl [.ind] s) d w lo n x (.head _)).within.tap_eq
@[simp] theorem State.setIfld_lanePll (s : State) (d w lo n x : Nat) : (s.setIfld d w lo n x).lanePll = s.lanePll := (State.setIfld_moves (Moves.refl [.ind] s) d w lo n x (.head _)).within.lanePll_eq
@[simp] theorem State.setIfld_free (s : State) (d w lo n x : Nat) : (s.setIfld d w lo n x).free = s.free := (State.setIfld_moves (Moves.refl [.ind] s) d w lo n x (.head _)).within.free_eq
@[simp] theorem State.setIfld_pending (s : State) (d w lo n x : Nat) : (s.setIfld d w lo n x).pending = s.pending := (State.setIfld_moves (Moves.refl [.ind] s) d w lo n x (.head _)).within.pending_eq
@[simp] theorem State.setIfld_again (s : State) (d w lo n x : Nat) : (s.setIfld d w lo n x).again = s.again := (State.setIfld_moves (Moves.refl [.ind] s) d w lo n x (.head _)).within.again_eq

/-! `State.setSramByte` changes `sram` alone. -/

@[simp] theorem State.setSramByte_regs (s : State) (a : Nat) (v : Byte) : (s.setSramByte a v).regs = s.regs := rfl
@[simp] theorem State.setSramByte_ind (s : State) (a : Nat) (v : Byte) : (s.setSramByte a v).ind = s.ind := rfl
@[simp] theorem State.setSramByte_hostMem (s : State) (a : Nat) (v : Byte) : (s.setSramByte a v).hostMem = s.hostMem := rfl
@[simp] theorem State.setSramByte_clk (s : State) (a : Nat) (v : Byte) : (s.setSramByte a v).clk = s.clk := rfl
@[simp] theorem State.setSramByte_pwr (s : State) (a : Nat) (v : Byte) : (s.setSramByte a v).pwr = s.pwr := rfl
@[simp] theorem State.setSramByte_hst (s : State) (a : Nat) (v : Byte) : (s.setSramByte a v).hst = s.hst := rfl
@[simp] theorem State.setSramByte_lanes (s : State) (a : Nat) (v : Byte) : (s.setSramByte a v).lanes = s.lanes := rfl
@[simp] theorem State.setSramByte_tb (s : State) (a : Nat) (v : Byte) : (s.setSramByte a v).tb = s.tb := rfl
@[simp] theorem State.setSramByte_met (s : State) (a : Nat) (v : Byte) : (s.setSramByte a v).met = s.met := rfl
@[simp] theorem State.setSramByte_loop (s : State) (a : Nat) (v : Byte) : (s.setSramByte a v).loop = s.loop := rfl
@[simp] theorem State.setSramByte_sky (s : State) (a : Nat) (v : Byte) : (s.setSramByte a v).sky = s.sky := rfl
@[simp] theorem State.setSramByte_prf (s : State) (a : Nat) (v : Byte) : (s.setSramByte a v).prf = s.prf := rfl
@[simp] theorem State.setSramByte_net (s : State) (a : Nat) (v : Byte) : (s.setSramByte a v).net = s.net := rfl
@[simp] theorem State.setSramByte_tlm (s : State) (a : Nat) (v : Byte) : (s.setSramByte a v).tlm = s.tlm := rfl
@[simp] theorem State.setSramByte_twin (s : State) (a : Nat) (v : Byte) : (s.setSramByte a v).twin = s.twin := rfl
@[simp] theorem State.setSramByte_boot (s : State) (a : Nat) (v : Byte) : (s.setSramByte a v).boot = s.boot := rfl
@[simp] theorem State.setSramByte_tap (s : State) (a : Nat) (v : Byte) : (s.setSramByte a v).tap = s.tap := rfl
@[simp] theorem State.setSramByte_lanePll (s : State) (a : Nat) (v : Byte) : (s.setSramByte a v).lanePll = s.lanePll := rfl
@[simp] theorem State.setSramByte_free (s : State) (a : Nat) (v : Byte) : (s.setSramByte a v).free = s.free := rfl
@[simp] theorem State.setSramByte_pending (s : State) (a : Nat) (v : Byte) : (s.setSramByte a v).pending = s.pending := rfl
@[simp] theorem State.setSramByte_again (s : State) (a : Nat) (v : Byte) : (s.setSramByte a v).again = s.again := rfl

/-! `State.setHostByte` changes `hostMem` alone. -/

@[simp] theorem State.setHostByte_regs (s : State) (a : Nat) (v : Byte) : (s.setHostByte a v).regs = s.regs := rfl
@[simp] theorem State.setHostByte_ind (s : State) (a : Nat) (v : Byte) : (s.setHostByte a v).ind = s.ind := rfl
@[simp] theorem State.setHostByte_sram (s : State) (a : Nat) (v : Byte) : (s.setHostByte a v).sram = s.sram := rfl
@[simp] theorem State.setHostByte_clk (s : State) (a : Nat) (v : Byte) : (s.setHostByte a v).clk = s.clk := rfl
@[simp] theorem State.setHostByte_pwr (s : State) (a : Nat) (v : Byte) : (s.setHostByte a v).pwr = s.pwr := rfl
@[simp] theorem State.setHostByte_hst (s : State) (a : Nat) (v : Byte) : (s.setHostByte a v).hst = s.hst := rfl
@[simp] theorem State.setHostByte_lanes (s : State) (a : Nat) (v : Byte) : (s.setHostByte a v).lanes = s.lanes := rfl
@[simp] theorem State.setHostByte_tb (s : State) (a : Nat) (v : Byte) : (s.setHostByte a v).tb = s.tb := rfl
@[simp] theorem State.setHostByte_met (s : State) (a : Nat) (v : Byte) : (s.setHostByte a v).met = s.met := rfl
@[simp] theorem State.setHostByte_loop (s : State) (a : Nat) (v : Byte) : (s.setHostByte a v).loop = s.loop := rfl
@[simp] theorem State.setHostByte_sky (s : State) (a : Nat) (v : Byte) : (s.setHostByte a v).sky = s.sky := rfl
@[simp] theorem State.setHostByte_prf (s : State) (a : Nat) (v : Byte) : (s.setHostByte a v).prf = s.prf := rfl
@[simp] theorem State.setHostByte_net (s : State) (a : Nat) (v : Byte) : (s.setHostByte a v).net = s.net := rfl
@[simp] theorem State.setHostByte_tlm (s : State) (a : Nat) (v : Byte) : (s.setHostByte a v).tlm = s.tlm := rfl
@[simp] theorem State.setHostByte_twin (s : State) (a : Nat) (v : Byte) : (s.setHostByte a v).twin = s.twin := rfl
@[simp] theorem State.setHostByte_boot (s : State) (a : Nat) (v : Byte) : (s.setHostByte a v).boot = s.boot := rfl
@[simp] theorem State.setHostByte_tap (s : State) (a : Nat) (v : Byte) : (s.setHostByte a v).tap = s.tap := rfl
@[simp] theorem State.setHostByte_lanePll (s : State) (a : Nat) (v : Byte) : (s.setHostByte a v).lanePll = s.lanePll := rfl
@[simp] theorem State.setHostByte_free (s : State) (a : Nat) (v : Byte) : (s.setHostByte a v).free = s.free := rfl
@[simp] theorem State.setHostByte_pending (s : State) (a : Nat) (v : Byte) : (s.setHostByte a v).pending = s.pending := rfl
@[simp] theorem State.setHostByte_again (s : State) (a : Nat) (v : Byte) : (s.setHostByte a v).again = s.again := rfl

/-! `State.setSramBytes` changes `sram` alone. -/

@[simp] theorem State.setSramBytes_regs (s : State) (a : Nat) (bs : List Byte) : (s.setSramBytes a bs).regs = s.regs := by
  induction bs generalizing s a with
  | nil => rfl
  | cons b bs ih => exact ih _ _
@[simp] theorem State.setSramBytes_ind (s : State) (a : Nat) (bs : List Byte) : (s.setSramBytes a bs).ind = s.ind := by
  induction bs generalizing s a with
  | nil => rfl
  | cons b bs ih => exact ih _ _
@[simp] theorem State.setSramBytes_hostMem (s : State) (a : Nat) (bs : List Byte) : (s.setSramBytes a bs).hostMem = s.hostMem := by
  induction bs generalizing s a with
  | nil => rfl
  | cons b bs ih => exact ih _ _
@[simp] theorem State.setSramBytes_clk (s : State) (a : Nat) (bs : List Byte) : (s.setSramBytes a bs).clk = s.clk := by
  induction bs generalizing s a with
  | nil => rfl
  | cons b bs ih => exact ih _ _
@[simp] theorem State.setSramBytes_pwr (s : State) (a : Nat) (bs : List Byte) : (s.setSramBytes a bs).pwr = s.pwr := by
  induction bs generalizing s a with
  | nil => rfl
  | cons b bs ih => exact ih _ _
@[simp] theorem State.setSramBytes_hst (s : State) (a : Nat) (bs : List Byte) : (s.setSramBytes a bs).hst = s.hst := by
  induction bs generalizing s a with
  | nil => rfl
  | cons b bs ih => exact ih _ _
@[simp] theorem State.setSramBytes_lanes (s : State) (a : Nat) (bs : List Byte) : (s.setSramBytes a bs).lanes = s.lanes := by
  induction bs generalizing s a with
  | nil => rfl
  | cons b bs ih => exact ih _ _
@[simp] theorem State.setSramBytes_tb (s : State) (a : Nat) (bs : List Byte) : (s.setSramBytes a bs).tb = s.tb := by
  induction bs generalizing s a with
  | nil => rfl
  | cons b bs ih => exact ih _ _
@[simp] theorem State.setSramBytes_met (s : State) (a : Nat) (bs : List Byte) : (s.setSramBytes a bs).met = s.met := by
  induction bs generalizing s a with
  | nil => rfl
  | cons b bs ih => exact ih _ _
@[simp] theorem State.setSramBytes_loop (s : State) (a : Nat) (bs : List Byte) : (s.setSramBytes a bs).loop = s.loop := by
  induction bs generalizing s a with
  | nil => rfl
  | cons b bs ih => exact ih _ _
@[simp] theorem State.setSramBytes_sky (s : State) (a : Nat) (bs : List Byte) : (s.setSramBytes a bs).sky = s.sky := by
  induction bs generalizing s a with
  | nil => rfl
  | cons b bs ih => exact ih _ _
@[simp] theorem State.setSramBytes_prf (s : State) (a : Nat) (bs : List Byte) : (s.setSramBytes a bs).prf = s.prf := by
  induction bs generalizing s a with
  | nil => rfl
  | cons b bs ih => exact ih _ _
@[simp] theorem State.setSramBytes_net (s : State) (a : Nat) (bs : List Byte) : (s.setSramBytes a bs).net = s.net := by
  induction bs generalizing s a with
  | nil => rfl
  | cons b bs ih => exact ih _ _
@[simp] theorem State.setSramBytes_tlm (s : State) (a : Nat) (bs : List Byte) : (s.setSramBytes a bs).tlm = s.tlm := by
  induction bs generalizing s a with
  | nil => rfl
  | cons b bs ih => exact ih _ _
@[simp] theorem State.setSramBytes_twin (s : State) (a : Nat) (bs : List Byte) : (s.setSramBytes a bs).twin = s.twin := by
  induction bs generalizing s a with
  | nil => rfl
  | cons b bs ih => exact ih _ _
@[simp] theorem State.setSramBytes_boot (s : State) (a : Nat) (bs : List Byte) : (s.setSramBytes a bs).boot = s.boot := by
  induction bs generalizing s a with
  | nil => rfl
  | cons b bs ih => exact ih _ _
@[simp] theorem State.setSramBytes_tap (s : State) (a : Nat) (bs : List Byte) : (s.setSramBytes a bs).tap = s.tap := by
  induction bs generalizing s a with
  | nil => rfl
  | cons b bs ih => exact ih _ _
@[simp] theorem State.setSramBytes_lanePll (s : State) (a : Nat) (bs : List Byte) : (s.setSramBytes a bs).lanePll = s.lanePll := by
  induction bs generalizing s a with
  | nil => rfl
  | cons b bs ih => exact ih _ _
@[simp] theorem State.setSramBytes_free (s : State) (a : Nat) (bs : List Byte) : (s.setSramBytes a bs).free = s.free := by
  induction bs generalizing s a with
  | nil => rfl
  | cons b bs ih => exact ih _ _
@[simp] theorem State.setSramBytes_pending (s : State) (a : Nat) (bs : List Byte) : (s.setSramBytes a bs).pending = s.pending := by
  induction bs generalizing s a with
  | nil => rfl
  | cons b bs ih => exact ih _ _
@[simp] theorem State.setSramBytes_again (s : State) (a : Nat) (bs : List Byte) : (s.setSramBytes a bs).again = s.again := by
  induction bs generalizing s a with
  | nil => rfl
  | cons b bs ih => exact ih _ _

/-! `State.setHostBytes` changes `hostMem` alone. -/

@[simp] theorem State.setHostBytes_regs (s : State) (a : Nat) (bs : List Byte) : (s.setHostBytes a bs).regs = s.regs := by
  induction bs generalizing s a with
  | nil => rfl
  | cons b bs ih => exact ih _ _
@[simp] theorem State.setHostBytes_ind (s : State) (a : Nat) (bs : List Byte) : (s.setHostBytes a bs).ind = s.ind := by
  induction bs generalizing s a with
  | nil => rfl
  | cons b bs ih => exact ih _ _
@[simp] theorem State.setHostBytes_sram (s : State) (a : Nat) (bs : List Byte) : (s.setHostBytes a bs).sram = s.sram := by
  induction bs generalizing s a with
  | nil => rfl
  | cons b bs ih => exact ih _ _
@[simp] theorem State.setHostBytes_clk (s : State) (a : Nat) (bs : List Byte) : (s.setHostBytes a bs).clk = s.clk := by
  induction bs generalizing s a with
  | nil => rfl
  | cons b bs ih => exact ih _ _
@[simp] theorem State.setHostBytes_pwr (s : State) (a : Nat) (bs : List Byte) : (s.setHostBytes a bs).pwr = s.pwr := by
  induction bs generalizing s a with
  | nil => rfl
  | cons b bs ih => exact ih _ _
@[simp] theorem State.setHostBytes_hst (s : State) (a : Nat) (bs : List Byte) : (s.setHostBytes a bs).hst = s.hst := by
  induction bs generalizing s a with
  | nil => rfl
  | cons b bs ih => exact ih _ _
@[simp] theorem State.setHostBytes_lanes (s : State) (a : Nat) (bs : List Byte) : (s.setHostBytes a bs).lanes = s.lanes := by
  induction bs generalizing s a with
  | nil => rfl
  | cons b bs ih => exact ih _ _
@[simp] theorem State.setHostBytes_tb (s : State) (a : Nat) (bs : List Byte) : (s.setHostBytes a bs).tb = s.tb := by
  induction bs generalizing s a with
  | nil => rfl
  | cons b bs ih => exact ih _ _
@[simp] theorem State.setHostBytes_met (s : State) (a : Nat) (bs : List Byte) : (s.setHostBytes a bs).met = s.met := by
  induction bs generalizing s a with
  | nil => rfl
  | cons b bs ih => exact ih _ _
@[simp] theorem State.setHostBytes_loop (s : State) (a : Nat) (bs : List Byte) : (s.setHostBytes a bs).loop = s.loop := by
  induction bs generalizing s a with
  | nil => rfl
  | cons b bs ih => exact ih _ _
@[simp] theorem State.setHostBytes_sky (s : State) (a : Nat) (bs : List Byte) : (s.setHostBytes a bs).sky = s.sky := by
  induction bs generalizing s a with
  | nil => rfl
  | cons b bs ih => exact ih _ _
@[simp] theorem State.setHostBytes_prf (s : State) (a : Nat) (bs : List Byte) : (s.setHostBytes a bs).prf = s.prf := by
  induction bs generalizing s a with
  | nil => rfl
  | cons b bs ih => exact ih _ _
@[simp] theorem State.setHostBytes_net (s : State) (a : Nat) (bs : List Byte) : (s.setHostBytes a bs).net = s.net := by
  induction bs generalizing s a with
  | nil => rfl
  | cons b bs ih => exact ih _ _
@[simp] theorem State.setHostBytes_tlm (s : State) (a : Nat) (bs : List Byte) : (s.setHostBytes a bs).tlm = s.tlm := by
  induction bs generalizing s a with
  | nil => rfl
  | cons b bs ih => exact ih _ _
@[simp] theorem State.setHostBytes_twin (s : State) (a : Nat) (bs : List Byte) : (s.setHostBytes a bs).twin = s.twin := by
  induction bs generalizing s a with
  | nil => rfl
  | cons b bs ih => exact ih _ _
@[simp] theorem State.setHostBytes_boot (s : State) (a : Nat) (bs : List Byte) : (s.setHostBytes a bs).boot = s.boot := by
  induction bs generalizing s a with
  | nil => rfl
  | cons b bs ih => exact ih _ _
@[simp] theorem State.setHostBytes_tap (s : State) (a : Nat) (bs : List Byte) : (s.setHostBytes a bs).tap = s.tap := by
  induction bs generalizing s a with
  | nil => rfl
  | cons b bs ih => exact ih _ _
@[simp] theorem State.setHostBytes_lanePll (s : State) (a : Nat) (bs : List Byte) : (s.setHostBytes a bs).lanePll = s.lanePll := by
  induction bs generalizing s a with
  | nil => rfl
  | cons b bs ih => exact ih _ _
@[simp] theorem State.setHostBytes_free (s : State) (a : Nat) (bs : List Byte) : (s.setHostBytes a bs).free = s.free := by
  induction bs generalizing s a with
  | nil => rfl
  | cons b bs ih => exact ih _ _
@[simp] theorem State.setHostBytes_pending (s : State) (a : Nat) (bs : List Byte) : (s.setHostBytes a bs).pending = s.pending := by
  induction bs generalizing s a with
  | nil => rfl
  | cons b bs ih => exact ih _ _
@[simp] theorem State.setHostBytes_again (s : State) (a : Nat) (bs : List Byte) : (s.setHostBytes a bs).again = s.again := by
  induction bs generalizing s a with
  | nil => rfl
  | cons b bs ih => exact ih _ _

/-! `State.updPwr` changes `pwr` alone. -/

@[simp] theorem State.updPwr_regs (s : State) (f : PwrSt → PwrSt) : (s.updPwr f).regs = s.regs := rfl
@[simp] theorem State.updPwr_ind (s : State) (f : PwrSt → PwrSt) : (s.updPwr f).ind = s.ind := rfl
@[simp] theorem State.updPwr_sram (s : State) (f : PwrSt → PwrSt) : (s.updPwr f).sram = s.sram := rfl
@[simp] theorem State.updPwr_hostMem (s : State) (f : PwrSt → PwrSt) : (s.updPwr f).hostMem = s.hostMem := rfl
@[simp] theorem State.updPwr_clk (s : State) (f : PwrSt → PwrSt) : (s.updPwr f).clk = s.clk := rfl
@[simp] theorem State.updPwr_hst (s : State) (f : PwrSt → PwrSt) : (s.updPwr f).hst = s.hst := rfl
@[simp] theorem State.updPwr_lanes (s : State) (f : PwrSt → PwrSt) : (s.updPwr f).lanes = s.lanes := rfl
@[simp] theorem State.updPwr_tb (s : State) (f : PwrSt → PwrSt) : (s.updPwr f).tb = s.tb := rfl
@[simp] theorem State.updPwr_met (s : State) (f : PwrSt → PwrSt) : (s.updPwr f).met = s.met := rfl
@[simp] theorem State.updPwr_loop (s : State) (f : PwrSt → PwrSt) : (s.updPwr f).loop = s.loop := rfl
@[simp] theorem State.updPwr_sky (s : State) (f : PwrSt → PwrSt) : (s.updPwr f).sky = s.sky := rfl
@[simp] theorem State.updPwr_prf (s : State) (f : PwrSt → PwrSt) : (s.updPwr f).prf = s.prf := rfl
@[simp] theorem State.updPwr_net (s : State) (f : PwrSt → PwrSt) : (s.updPwr f).net = s.net := rfl
@[simp] theorem State.updPwr_tlm (s : State) (f : PwrSt → PwrSt) : (s.updPwr f).tlm = s.tlm := rfl
@[simp] theorem State.updPwr_twin (s : State) (f : PwrSt → PwrSt) : (s.updPwr f).twin = s.twin := rfl
@[simp] theorem State.updPwr_boot (s : State) (f : PwrSt → PwrSt) : (s.updPwr f).boot = s.boot := rfl
@[simp] theorem State.updPwr_tap (s : State) (f : PwrSt → PwrSt) : (s.updPwr f).tap = s.tap := rfl
@[simp] theorem State.updPwr_lanePll (s : State) (f : PwrSt → PwrSt) : (s.updPwr f).lanePll = s.lanePll := rfl
@[simp] theorem State.updPwr_free (s : State) (f : PwrSt → PwrSt) : (s.updPwr f).free = s.free := rfl
@[simp] theorem State.updPwr_pending (s : State) (f : PwrSt → PwrSt) : (s.updPwr f).pending = s.pending := rfl
@[simp] theorem State.updPwr_again (s : State) (f : PwrSt → PwrSt) : (s.updPwr f).again = s.again := rfl

/-! `State.updBoot` changes `boot` alone. -/

@[simp] theorem State.updBoot_regs (s : State) (f : BootSt → BootSt) : (s.updBoot f).regs = s.regs := rfl
@[simp] theorem State.updBoot_ind (s : State) (f : BootSt → BootSt) : (s.updBoot f).ind = s.ind := rfl
@[simp] theorem State.updBoot_sram (s : State) (f : BootSt → BootSt) : (s.updBoot f).sram = s.sram := rfl
@[simp] theorem State.updBoot_hostMem (s : State) (f : BootSt → BootSt) : (s.updBoot f).hostMem = s.hostMem := rfl
@[simp] theorem State.updBoot_clk (s : State) (f : BootSt → BootSt) : (s.updBoot f).clk = s.clk := rfl
@[simp] theorem State.updBoot_pwr (s : State) (f : BootSt → BootSt) : (s.updBoot f).pwr = s.pwr := rfl
@[simp] theorem State.updBoot_hst (s : State) (f : BootSt → BootSt) : (s.updBoot f).hst = s.hst := rfl
@[simp] theorem State.updBoot_lanes (s : State) (f : BootSt → BootSt) : (s.updBoot f).lanes = s.lanes := rfl
@[simp] theorem State.updBoot_tb (s : State) (f : BootSt → BootSt) : (s.updBoot f).tb = s.tb := rfl
@[simp] theorem State.updBoot_met (s : State) (f : BootSt → BootSt) : (s.updBoot f).met = s.met := rfl
@[simp] theorem State.updBoot_loop (s : State) (f : BootSt → BootSt) : (s.updBoot f).loop = s.loop := rfl
@[simp] theorem State.updBoot_sky (s : State) (f : BootSt → BootSt) : (s.updBoot f).sky = s.sky := rfl
@[simp] theorem State.updBoot_prf (s : State) (f : BootSt → BootSt) : (s.updBoot f).prf = s.prf := rfl
@[simp] theorem State.updBoot_net (s : State) (f : BootSt → BootSt) : (s.updBoot f).net = s.net := rfl
@[simp] theorem State.updBoot_tlm (s : State) (f : BootSt → BootSt) : (s.updBoot f).tlm = s.tlm := rfl
@[simp] theorem State.updBoot_twin (s : State) (f : BootSt → BootSt) : (s.updBoot f).twin = s.twin := rfl
@[simp] theorem State.updBoot_tap (s : State) (f : BootSt → BootSt) : (s.updBoot f).tap = s.tap := rfl
@[simp] theorem State.updBoot_lanePll (s : State) (f : BootSt → BootSt) : (s.updBoot f).lanePll = s.lanePll := rfl
@[simp] theorem State.updBoot_free (s : State) (f : BootSt → BootSt) : (s.updBoot f).free = s.free := rfl
@[simp] theorem State.updBoot_pending (s : State) (f : BootSt → BootSt) : (s.updBoot f).pending = s.pending := rfl
@[simp] theorem State.updBoot_again (s : State) (f : BootSt → BootSt) : (s.updBoot f).again = s.again := rfl

/-! `State.updTb` changes `tb` alone. -/

@[simp] theorem State.updTb_regs (s : State) (f : TbSt → TbSt) : (s.updTb f).regs = s.regs := rfl
@[simp] theorem State.updTb_ind (s : State) (f : TbSt → TbSt) : (s.updTb f).ind = s.ind := rfl
@[simp] theorem State.updTb_sram (s : State) (f : TbSt → TbSt) : (s.updTb f).sram = s.sram := rfl
@[simp] theorem State.updTb_hostMem (s : State) (f : TbSt → TbSt) : (s.updTb f).hostMem = s.hostMem := rfl
@[simp] theorem State.updTb_clk (s : State) (f : TbSt → TbSt) : (s.updTb f).clk = s.clk := rfl
@[simp] theorem State.updTb_pwr (s : State) (f : TbSt → TbSt) : (s.updTb f).pwr = s.pwr := rfl
@[simp] theorem State.updTb_hst (s : State) (f : TbSt → TbSt) : (s.updTb f).hst = s.hst := rfl
@[simp] theorem State.updTb_lanes (s : State) (f : TbSt → TbSt) : (s.updTb f).lanes = s.lanes := rfl
@[simp] theorem State.updTb_met (s : State) (f : TbSt → TbSt) : (s.updTb f).met = s.met := rfl
@[simp] theorem State.updTb_loop (s : State) (f : TbSt → TbSt) : (s.updTb f).loop = s.loop := rfl
@[simp] theorem State.updTb_sky (s : State) (f : TbSt → TbSt) : (s.updTb f).sky = s.sky := rfl
@[simp] theorem State.updTb_prf (s : State) (f : TbSt → TbSt) : (s.updTb f).prf = s.prf := rfl
@[simp] theorem State.updTb_net (s : State) (f : TbSt → TbSt) : (s.updTb f).net = s.net := rfl
@[simp] theorem State.updTb_tlm (s : State) (f : TbSt → TbSt) : (s.updTb f).tlm = s.tlm := rfl
@[simp] theorem State.updTb_twin (s : State) (f : TbSt → TbSt) : (s.updTb f).twin = s.twin := rfl
@[simp] theorem State.updTb_boot (s : State) (f : TbSt → TbSt) : (s.updTb f).boot = s.boot := rfl
@[simp] theorem State.updTb_tap (s : State) (f : TbSt → TbSt) : (s.updTb f).tap = s.tap := rfl
@[simp] theorem State.updTb_lanePll (s : State) (f : TbSt → TbSt) : (s.updTb f).lanePll = s.lanePll := rfl
@[simp] theorem State.updTb_free (s : State) (f : TbSt → TbSt) : (s.updTb f).free = s.free := rfl
@[simp] theorem State.updTb_pending (s : State) (f : TbSt → TbSt) : (s.updTb f).pending = s.pending := rfl
@[simp] theorem State.updTb_again (s : State) (f : TbSt → TbSt) : (s.updTb f).again = s.again := rfl

/-! `State.updNet` changes `net` alone. -/

@[simp] theorem State.updNet_regs (s : State) (f : NetSt → NetSt) : (s.updNet f).regs = s.regs := rfl
@[simp] theorem State.updNet_ind (s : State) (f : NetSt → NetSt) : (s.updNet f).ind = s.ind := rfl
@[simp] theorem State.updNet_sram (s : State) (f : NetSt → NetSt) : (s.updNet f).sram = s.sram := rfl
@[simp] theorem State.updNet_hostMem (s : State) (f : NetSt → NetSt) : (s.updNet f).hostMem = s.hostMem := rfl
@[simp] theorem State.updNet_clk (s : State) (f : NetSt → NetSt) : (s.updNet f).clk = s.clk := rfl
@[simp] theorem State.updNet_pwr (s : State) (f : NetSt → NetSt) : (s.updNet f).pwr = s.pwr := rfl
@[simp] theorem State.updNet_hst (s : State) (f : NetSt → NetSt) : (s.updNet f).hst = s.hst := rfl
@[simp] theorem State.updNet_lanes (s : State) (f : NetSt → NetSt) : (s.updNet f).lanes = s.lanes := rfl
@[simp] theorem State.updNet_tb (s : State) (f : NetSt → NetSt) : (s.updNet f).tb = s.tb := rfl
@[simp] theorem State.updNet_met (s : State) (f : NetSt → NetSt) : (s.updNet f).met = s.met := rfl
@[simp] theorem State.updNet_loop (s : State) (f : NetSt → NetSt) : (s.updNet f).loop = s.loop := rfl
@[simp] theorem State.updNet_sky (s : State) (f : NetSt → NetSt) : (s.updNet f).sky = s.sky := rfl
@[simp] theorem State.updNet_prf (s : State) (f : NetSt → NetSt) : (s.updNet f).prf = s.prf := rfl
@[simp] theorem State.updNet_tlm (s : State) (f : NetSt → NetSt) : (s.updNet f).tlm = s.tlm := rfl
@[simp] theorem State.updNet_twin (s : State) (f : NetSt → NetSt) : (s.updNet f).twin = s.twin := rfl
@[simp] theorem State.updNet_boot (s : State) (f : NetSt → NetSt) : (s.updNet f).boot = s.boot := rfl
@[simp] theorem State.updNet_tap (s : State) (f : NetSt → NetSt) : (s.updNet f).tap = s.tap := rfl
@[simp] theorem State.updNet_lanePll (s : State) (f : NetSt → NetSt) : (s.updNet f).lanePll = s.lanePll := rfl
@[simp] theorem State.updNet_free (s : State) (f : NetSt → NetSt) : (s.updNet f).free = s.free := rfl
@[simp] theorem State.updNet_pending (s : State) (f : NetSt → NetSt) : (s.updNet f).pending = s.pending := rfl
@[simp] theorem State.updNet_again (s : State) (f : NetSt → NetSt) : (s.updNet f).again = s.again := rfl

/-! `State.updTlm` changes `tlm` alone. -/

@[simp] theorem State.updTlm_regs (s : State) (f : TlmSt → TlmSt) : (s.updTlm f).regs = s.regs := rfl
@[simp] theorem State.updTlm_ind (s : State) (f : TlmSt → TlmSt) : (s.updTlm f).ind = s.ind := rfl
@[simp] theorem State.updTlm_sram (s : State) (f : TlmSt → TlmSt) : (s.updTlm f).sram = s.sram := rfl
@[simp] theorem State.updTlm_hostMem (s : State) (f : TlmSt → TlmSt) : (s.updTlm f).hostMem = s.hostMem := rfl
@[simp] theorem State.updTlm_clk (s : State) (f : TlmSt → TlmSt) : (s.updTlm f).clk = s.clk := rfl
@[simp] theorem State.updTlm_pwr (s : State) (f : TlmSt → TlmSt) : (s.updTlm f).pwr = s.pwr := rfl
@[simp] theorem State.updTlm_hst (s : State) (f : TlmSt → TlmSt) : (s.updTlm f).hst = s.hst := rfl
@[simp] theorem State.updTlm_lanes (s : State) (f : TlmSt → TlmSt) : (s.updTlm f).lanes = s.lanes := rfl
@[simp] theorem State.updTlm_tb (s : State) (f : TlmSt → TlmSt) : (s.updTlm f).tb = s.tb := rfl
@[simp] theorem State.updTlm_met (s : State) (f : TlmSt → TlmSt) : (s.updTlm f).met = s.met := rfl
@[simp] theorem State.updTlm_loop (s : State) (f : TlmSt → TlmSt) : (s.updTlm f).loop = s.loop := rfl
@[simp] theorem State.updTlm_sky (s : State) (f : TlmSt → TlmSt) : (s.updTlm f).sky = s.sky := rfl
@[simp] theorem State.updTlm_prf (s : State) (f : TlmSt → TlmSt) : (s.updTlm f).prf = s.prf := rfl
@[simp] theorem State.updTlm_net (s : State) (f : TlmSt → TlmSt) : (s.updTlm f).net = s.net := rfl
@[simp] theorem State.updTlm_twin (s : State) (f : TlmSt → TlmSt) : (s.updTlm f).twin = s.twin := rfl
@[simp] theorem State.updTlm_boot (s : State) (f : TlmSt → TlmSt) : (s.updTlm f).boot = s.boot := rfl
@[simp] theorem State.updTlm_tap (s : State) (f : TlmSt → TlmSt) : (s.updTlm f).tap = s.tap := rfl
@[simp] theorem State.updTlm_lanePll (s : State) (f : TlmSt → TlmSt) : (s.updTlm f).lanePll = s.lanePll := rfl
@[simp] theorem State.updTlm_free (s : State) (f : TlmSt → TlmSt) : (s.updTlm f).free = s.free := rfl
@[simp] theorem State.updTlm_pending (s : State) (f : TlmSt → TlmSt) : (s.updTlm f).pending = s.pending := rfl
@[simp] theorem State.updTlm_again (s : State) (f : TlmSt → TlmSt) : (s.updTlm f).again = s.again := rfl

/-! `State.updLoop` changes `loop` alone. -/

@[simp] theorem State.updLoop_regs (s : State) (f : LoopSt → LoopSt) : (s.updLoop f).regs = s.regs := rfl
@[simp] theorem State.updLoop_ind (s : State) (f : LoopSt → LoopSt) : (s.updLoop f).ind = s.ind := rfl
@[simp] theorem State.updLoop_sram (s : State) (f : LoopSt → LoopSt) : (s.updLoop f).sram = s.sram := rfl
@[simp] theorem State.updLoop_hostMem (s : State) (f : LoopSt → LoopSt) : (s.updLoop f).hostMem = s.hostMem := rfl
@[simp] theorem State.updLoop_clk (s : State) (f : LoopSt → LoopSt) : (s.updLoop f).clk = s.clk := rfl
@[simp] theorem State.updLoop_pwr (s : State) (f : LoopSt → LoopSt) : (s.updLoop f).pwr = s.pwr := rfl
@[simp] theorem State.updLoop_hst (s : State) (f : LoopSt → LoopSt) : (s.updLoop f).hst = s.hst := rfl
@[simp] theorem State.updLoop_lanes (s : State) (f : LoopSt → LoopSt) : (s.updLoop f).lanes = s.lanes := rfl
@[simp] theorem State.updLoop_tb (s : State) (f : LoopSt → LoopSt) : (s.updLoop f).tb = s.tb := rfl
@[simp] theorem State.updLoop_met (s : State) (f : LoopSt → LoopSt) : (s.updLoop f).met = s.met := rfl
@[simp] theorem State.updLoop_sky (s : State) (f : LoopSt → LoopSt) : (s.updLoop f).sky = s.sky := rfl
@[simp] theorem State.updLoop_prf (s : State) (f : LoopSt → LoopSt) : (s.updLoop f).prf = s.prf := rfl
@[simp] theorem State.updLoop_net (s : State) (f : LoopSt → LoopSt) : (s.updLoop f).net = s.net := rfl
@[simp] theorem State.updLoop_tlm (s : State) (f : LoopSt → LoopSt) : (s.updLoop f).tlm = s.tlm := rfl
@[simp] theorem State.updLoop_twin (s : State) (f : LoopSt → LoopSt) : (s.updLoop f).twin = s.twin := rfl
@[simp] theorem State.updLoop_boot (s : State) (f : LoopSt → LoopSt) : (s.updLoop f).boot = s.boot := rfl
@[simp] theorem State.updLoop_tap (s : State) (f : LoopSt → LoopSt) : (s.updLoop f).tap = s.tap := rfl
@[simp] theorem State.updLoop_lanePll (s : State) (f : LoopSt → LoopSt) : (s.updLoop f).lanePll = s.lanePll := rfl
@[simp] theorem State.updLoop_free (s : State) (f : LoopSt → LoopSt) : (s.updLoop f).free = s.free := rfl
@[simp] theorem State.updLoop_pending (s : State) (f : LoopSt → LoopSt) : (s.updLoop f).pending = s.pending := rfl
@[simp] theorem State.updLoop_again (s : State) (f : LoopSt → LoopSt) : (s.updLoop f).again = s.again := rfl

/-! `State.updMet` changes `met` alone. -/

@[simp] theorem State.updMet_regs (s : State) (f : MetSt → MetSt) : (s.updMet f).regs = s.regs := rfl
@[simp] theorem State.updMet_ind (s : State) (f : MetSt → MetSt) : (s.updMet f).ind = s.ind := rfl
@[simp] theorem State.updMet_sram (s : State) (f : MetSt → MetSt) : (s.updMet f).sram = s.sram := rfl
@[simp] theorem State.updMet_hostMem (s : State) (f : MetSt → MetSt) : (s.updMet f).hostMem = s.hostMem := rfl
@[simp] theorem State.updMet_clk (s : State) (f : MetSt → MetSt) : (s.updMet f).clk = s.clk := rfl
@[simp] theorem State.updMet_pwr (s : State) (f : MetSt → MetSt) : (s.updMet f).pwr = s.pwr := rfl
@[simp] theorem State.updMet_hst (s : State) (f : MetSt → MetSt) : (s.updMet f).hst = s.hst := rfl
@[simp] theorem State.updMet_lanes (s : State) (f : MetSt → MetSt) : (s.updMet f).lanes = s.lanes := rfl
@[simp] theorem State.updMet_tb (s : State) (f : MetSt → MetSt) : (s.updMet f).tb = s.tb := rfl
@[simp] theorem State.updMet_loop (s : State) (f : MetSt → MetSt) : (s.updMet f).loop = s.loop := rfl
@[simp] theorem State.updMet_sky (s : State) (f : MetSt → MetSt) : (s.updMet f).sky = s.sky := rfl
@[simp] theorem State.updMet_prf (s : State) (f : MetSt → MetSt) : (s.updMet f).prf = s.prf := rfl
@[simp] theorem State.updMet_net (s : State) (f : MetSt → MetSt) : (s.updMet f).net = s.net := rfl
@[simp] theorem State.updMet_tlm (s : State) (f : MetSt → MetSt) : (s.updMet f).tlm = s.tlm := rfl
@[simp] theorem State.updMet_twin (s : State) (f : MetSt → MetSt) : (s.updMet f).twin = s.twin := rfl
@[simp] theorem State.updMet_boot (s : State) (f : MetSt → MetSt) : (s.updMet f).boot = s.boot := rfl
@[simp] theorem State.updMet_tap (s : State) (f : MetSt → MetSt) : (s.updMet f).tap = s.tap := rfl
@[simp] theorem State.updMet_lanePll (s : State) (f : MetSt → MetSt) : (s.updMet f).lanePll = s.lanePll := rfl
@[simp] theorem State.updMet_free (s : State) (f : MetSt → MetSt) : (s.updMet f).free = s.free := rfl
@[simp] theorem State.updMet_pending (s : State) (f : MetSt → MetSt) : (s.updMet f).pending = s.pending := rfl
@[simp] theorem State.updMet_again (s : State) (f : MetSt → MetSt) : (s.updMet f).again = s.again := rfl

/-! `State.updSky` changes `sky` alone. -/

@[simp] theorem State.updSky_regs (s : State) (f : SkySt → SkySt) : (s.updSky f).regs = s.regs := rfl
@[simp] theorem State.updSky_ind (s : State) (f : SkySt → SkySt) : (s.updSky f).ind = s.ind := rfl
@[simp] theorem State.updSky_sram (s : State) (f : SkySt → SkySt) : (s.updSky f).sram = s.sram := rfl
@[simp] theorem State.updSky_hostMem (s : State) (f : SkySt → SkySt) : (s.updSky f).hostMem = s.hostMem := rfl
@[simp] theorem State.updSky_clk (s : State) (f : SkySt → SkySt) : (s.updSky f).clk = s.clk := rfl
@[simp] theorem State.updSky_pwr (s : State) (f : SkySt → SkySt) : (s.updSky f).pwr = s.pwr := rfl
@[simp] theorem State.updSky_hst (s : State) (f : SkySt → SkySt) : (s.updSky f).hst = s.hst := rfl
@[simp] theorem State.updSky_lanes (s : State) (f : SkySt → SkySt) : (s.updSky f).lanes = s.lanes := rfl
@[simp] theorem State.updSky_tb (s : State) (f : SkySt → SkySt) : (s.updSky f).tb = s.tb := rfl
@[simp] theorem State.updSky_met (s : State) (f : SkySt → SkySt) : (s.updSky f).met = s.met := rfl
@[simp] theorem State.updSky_loop (s : State) (f : SkySt → SkySt) : (s.updSky f).loop = s.loop := rfl
@[simp] theorem State.updSky_prf (s : State) (f : SkySt → SkySt) : (s.updSky f).prf = s.prf := rfl
@[simp] theorem State.updSky_net (s : State) (f : SkySt → SkySt) : (s.updSky f).net = s.net := rfl
@[simp] theorem State.updSky_tlm (s : State) (f : SkySt → SkySt) : (s.updSky f).tlm = s.tlm := rfl
@[simp] theorem State.updSky_twin (s : State) (f : SkySt → SkySt) : (s.updSky f).twin = s.twin := rfl
@[simp] theorem State.updSky_boot (s : State) (f : SkySt → SkySt) : (s.updSky f).boot = s.boot := rfl
@[simp] theorem State.updSky_tap (s : State) (f : SkySt → SkySt) : (s.updSky f).tap = s.tap := rfl
@[simp] theorem State.updSky_lanePll (s : State) (f : SkySt → SkySt) : (s.updSky f).lanePll = s.lanePll := rfl
@[simp] theorem State.updSky_free (s : State) (f : SkySt → SkySt) : (s.updSky f).free = s.free := rfl
@[simp] theorem State.updSky_pending (s : State) (f : SkySt → SkySt) : (s.updSky f).pending = s.pending := rfl
@[simp] theorem State.updSky_again (s : State) (f : SkySt → SkySt) : (s.updSky f).again = s.again := rfl

/-! `State.updPrf` changes `prf` alone. -/

@[simp] theorem State.updPrf_regs (s : State) (f : PrfSt → PrfSt) : (s.updPrf f).regs = s.regs := rfl
@[simp] theorem State.updPrf_ind (s : State) (f : PrfSt → PrfSt) : (s.updPrf f).ind = s.ind := rfl
@[simp] theorem State.updPrf_sram (s : State) (f : PrfSt → PrfSt) : (s.updPrf f).sram = s.sram := rfl
@[simp] theorem State.updPrf_hostMem (s : State) (f : PrfSt → PrfSt) : (s.updPrf f).hostMem = s.hostMem := rfl
@[simp] theorem State.updPrf_clk (s : State) (f : PrfSt → PrfSt) : (s.updPrf f).clk = s.clk := rfl
@[simp] theorem State.updPrf_pwr (s : State) (f : PrfSt → PrfSt) : (s.updPrf f).pwr = s.pwr := rfl
@[simp] theorem State.updPrf_hst (s : State) (f : PrfSt → PrfSt) : (s.updPrf f).hst = s.hst := rfl
@[simp] theorem State.updPrf_lanes (s : State) (f : PrfSt → PrfSt) : (s.updPrf f).lanes = s.lanes := rfl
@[simp] theorem State.updPrf_tb (s : State) (f : PrfSt → PrfSt) : (s.updPrf f).tb = s.tb := rfl
@[simp] theorem State.updPrf_met (s : State) (f : PrfSt → PrfSt) : (s.updPrf f).met = s.met := rfl
@[simp] theorem State.updPrf_loop (s : State) (f : PrfSt → PrfSt) : (s.updPrf f).loop = s.loop := rfl
@[simp] theorem State.updPrf_sky (s : State) (f : PrfSt → PrfSt) : (s.updPrf f).sky = s.sky := rfl
@[simp] theorem State.updPrf_net (s : State) (f : PrfSt → PrfSt) : (s.updPrf f).net = s.net := rfl
@[simp] theorem State.updPrf_tlm (s : State) (f : PrfSt → PrfSt) : (s.updPrf f).tlm = s.tlm := rfl
@[simp] theorem State.updPrf_twin (s : State) (f : PrfSt → PrfSt) : (s.updPrf f).twin = s.twin := rfl
@[simp] theorem State.updPrf_boot (s : State) (f : PrfSt → PrfSt) : (s.updPrf f).boot = s.boot := rfl
@[simp] theorem State.updPrf_tap (s : State) (f : PrfSt → PrfSt) : (s.updPrf f).tap = s.tap := rfl
@[simp] theorem State.updPrf_lanePll (s : State) (f : PrfSt → PrfSt) : (s.updPrf f).lanePll = s.lanePll := rfl
@[simp] theorem State.updPrf_free (s : State) (f : PrfSt → PrfSt) : (s.updPrf f).free = s.free := rfl
@[simp] theorem State.updPrf_pending (s : State) (f : PrfSt → PrfSt) : (s.updPrf f).pending = s.pending := rfl
@[simp] theorem State.updPrf_again (s : State) (f : PrfSt → PrfSt) : (s.updPrf f).again = s.again := rfl

/-! `State.updTwin` changes `twin` alone. -/

@[simp] theorem State.updTwin_regs (s : State) (f : TwinSt → TwinSt) : (s.updTwin f).regs = s.regs := rfl
@[simp] theorem State.updTwin_ind (s : State) (f : TwinSt → TwinSt) : (s.updTwin f).ind = s.ind := rfl
@[simp] theorem State.updTwin_sram (s : State) (f : TwinSt → TwinSt) : (s.updTwin f).sram = s.sram := rfl
@[simp] theorem State.updTwin_hostMem (s : State) (f : TwinSt → TwinSt) : (s.updTwin f).hostMem = s.hostMem := rfl
@[simp] theorem State.updTwin_clk (s : State) (f : TwinSt → TwinSt) : (s.updTwin f).clk = s.clk := rfl
@[simp] theorem State.updTwin_pwr (s : State) (f : TwinSt → TwinSt) : (s.updTwin f).pwr = s.pwr := rfl
@[simp] theorem State.updTwin_hst (s : State) (f : TwinSt → TwinSt) : (s.updTwin f).hst = s.hst := rfl
@[simp] theorem State.updTwin_lanes (s : State) (f : TwinSt → TwinSt) : (s.updTwin f).lanes = s.lanes := rfl
@[simp] theorem State.updTwin_tb (s : State) (f : TwinSt → TwinSt) : (s.updTwin f).tb = s.tb := rfl
@[simp] theorem State.updTwin_met (s : State) (f : TwinSt → TwinSt) : (s.updTwin f).met = s.met := rfl
@[simp] theorem State.updTwin_loop (s : State) (f : TwinSt → TwinSt) : (s.updTwin f).loop = s.loop := rfl
@[simp] theorem State.updTwin_sky (s : State) (f : TwinSt → TwinSt) : (s.updTwin f).sky = s.sky := rfl
@[simp] theorem State.updTwin_prf (s : State) (f : TwinSt → TwinSt) : (s.updTwin f).prf = s.prf := rfl
@[simp] theorem State.updTwin_net (s : State) (f : TwinSt → TwinSt) : (s.updTwin f).net = s.net := rfl
@[simp] theorem State.updTwin_tlm (s : State) (f : TwinSt → TwinSt) : (s.updTwin f).tlm = s.tlm := rfl
@[simp] theorem State.updTwin_boot (s : State) (f : TwinSt → TwinSt) : (s.updTwin f).boot = s.boot := rfl
@[simp] theorem State.updTwin_tap (s : State) (f : TwinSt → TwinSt) : (s.updTwin f).tap = s.tap := rfl
@[simp] theorem State.updTwin_lanePll (s : State) (f : TwinSt → TwinSt) : (s.updTwin f).lanePll = s.lanePll := rfl
@[simp] theorem State.updTwin_free (s : State) (f : TwinSt → TwinSt) : (s.updTwin f).free = s.free := rfl
@[simp] theorem State.updTwin_pending (s : State) (f : TwinSt → TwinSt) : (s.updTwin f).pending = s.pending := rfl
@[simp] theorem State.updTwin_again (s : State) (f : TwinSt → TwinSt) : (s.updTwin f).again = s.again := rfl

@[simp] theorem State.updPwr_pwr (s : State) (f : PwrSt → PwrSt) : (s.updPwr f).pwr = f s.pwr := rfl
@[simp] theorem State.updPwr_reg (s : State) (f : PwrSt → PwrSt) (a : Nat) : (s.updPwr f).reg a = s.reg a := rfl
@[simp] theorem State.updPwr_fld (s : State) (f : PwrSt → PwrSt) (g : Fld) : (s.updPwr f).fld g = s.fld g := rfl
@[simp] theorem State.updPwr_flag (s : State) (f : PwrSt → PwrSt) (g : Fld) : (s.updPwr f).flag g = s.flag g := rfl
@[simp] theorem State.updPwr_rbit (s : State) (f : PwrSt → PwrSt) (a i : Nat) : (s.updPwr f).rbit a i = s.rbit a i := rfl
@[simp] theorem State.updPwr_reg64 (s : State) (f : PwrSt → PwrSt) (a b : Nat) : (s.updPwr f).reg64 a b = s.reg64 a b := rfl

@[simp] theorem State.updBoot_boot (s : State) (f : BootSt → BootSt) : (s.updBoot f).boot = f s.boot := rfl
@[simp] theorem State.updBoot_reg (s : State) (f : BootSt → BootSt) (a : Nat) : (s.updBoot f).reg a = s.reg a := rfl
@[simp] theorem State.updBoot_fld (s : State) (f : BootSt → BootSt) (g : Fld) : (s.updBoot f).fld g = s.fld g := rfl
@[simp] theorem State.updBoot_flag (s : State) (f : BootSt → BootSt) (g : Fld) : (s.updBoot f).flag g = s.flag g := rfl
@[simp] theorem State.updBoot_rbit (s : State) (f : BootSt → BootSt) (a i : Nat) : (s.updBoot f).rbit a i = s.rbit a i := rfl
@[simp] theorem State.updBoot_reg64 (s : State) (f : BootSt → BootSt) (a b : Nat) : (s.updBoot f).reg64 a b = s.reg64 a b := rfl

@[simp] theorem State.updTb_tb (s : State) (f : TbSt → TbSt) : (s.updTb f).tb = f s.tb := rfl
@[simp] theorem State.updTb_reg (s : State) (f : TbSt → TbSt) (a : Nat) : (s.updTb f).reg a = s.reg a := rfl
@[simp] theorem State.updTb_fld (s : State) (f : TbSt → TbSt) (g : Fld) : (s.updTb f).fld g = s.fld g := rfl
@[simp] theorem State.updTb_flag (s : State) (f : TbSt → TbSt) (g : Fld) : (s.updTb f).flag g = s.flag g := rfl
@[simp] theorem State.updTb_rbit (s : State) (f : TbSt → TbSt) (a i : Nat) : (s.updTb f).rbit a i = s.rbit a i := rfl
@[simp] theorem State.updTb_reg64 (s : State) (f : TbSt → TbSt) (a b : Nat) : (s.updTb f).reg64 a b = s.reg64 a b := rfl

@[simp] theorem State.updNet_net (s : State) (f : NetSt → NetSt) : (s.updNet f).net = f s.net := rfl
@[simp] theorem State.updNet_reg (s : State) (f : NetSt → NetSt) (a : Nat) : (s.updNet f).reg a = s.reg a := rfl
@[simp] theorem State.updNet_fld (s : State) (f : NetSt → NetSt) (g : Fld) : (s.updNet f).fld g = s.fld g := rfl
@[simp] theorem State.updNet_flag (s : State) (f : NetSt → NetSt) (g : Fld) : (s.updNet f).flag g = s.flag g := rfl
@[simp] theorem State.updNet_rbit (s : State) (f : NetSt → NetSt) (a i : Nat) : (s.updNet f).rbit a i = s.rbit a i := rfl
@[simp] theorem State.updNet_reg64 (s : State) (f : NetSt → NetSt) (a b : Nat) : (s.updNet f).reg64 a b = s.reg64 a b := rfl

@[simp] theorem State.updTlm_tlm (s : State) (f : TlmSt → TlmSt) : (s.updTlm f).tlm = f s.tlm := rfl
@[simp] theorem State.updTlm_reg (s : State) (f : TlmSt → TlmSt) (a : Nat) : (s.updTlm f).reg a = s.reg a := rfl
@[simp] theorem State.updTlm_fld (s : State) (f : TlmSt → TlmSt) (g : Fld) : (s.updTlm f).fld g = s.fld g := rfl
@[simp] theorem State.updTlm_flag (s : State) (f : TlmSt → TlmSt) (g : Fld) : (s.updTlm f).flag g = s.flag g := rfl
@[simp] theorem State.updTlm_rbit (s : State) (f : TlmSt → TlmSt) (a i : Nat) : (s.updTlm f).rbit a i = s.rbit a i := rfl
@[simp] theorem State.updTlm_reg64 (s : State) (f : TlmSt → TlmSt) (a b : Nat) : (s.updTlm f).reg64 a b = s.reg64 a b := rfl

@[simp] theorem State.updLoop_loop (s : State) (f : LoopSt → LoopSt) : (s.updLoop f).loop = f s.loop := rfl
@[simp] theorem State.updLoop_reg (s : State) (f : LoopSt → LoopSt) (a : Nat) : (s.updLoop f).reg a = s.reg a := rfl
@[simp] theorem State.updLoop_fld (s : State) (f : LoopSt → LoopSt) (g : Fld) : (s.updLoop f).fld g = s.fld g := rfl
@[simp] theorem State.updLoop_flag (s : State) (f : LoopSt → LoopSt) (g : Fld) : (s.updLoop f).flag g = s.flag g := rfl
@[simp] theorem State.updLoop_rbit (s : State) (f : LoopSt → LoopSt) (a i : Nat) : (s.updLoop f).rbit a i = s.rbit a i := rfl
@[simp] theorem State.updLoop_reg64 (s : State) (f : LoopSt → LoopSt) (a b : Nat) : (s.updLoop f).reg64 a b = s.reg64 a b := rfl

@[simp] theorem State.updMet_met (s : State) (f : MetSt → MetSt) : (s.updMet f).met = f s.met := rfl
@[simp] theorem State.updMet_reg (s : State) (f : MetSt → MetSt) (a : Nat) : (s.updMet f).reg a = s.reg a := rfl
@[simp] theorem State.updMet_fld (s : State) (f : MetSt → MetSt) (g : Fld) : (s.updMet f).fld g = s.fld g := rfl
@[simp] theorem State.updMet_flag (s : State) (f : MetSt → MetSt) (g : Fld) : (s.updMet f).flag g = s.flag g := rfl
@[simp] theorem State.updMet_rbit (s : State) (f : MetSt → MetSt) (a i : Nat) : (s.updMet f).rbit a i = s.rbit a i := rfl
@[simp] theorem State.updMet_reg64 (s : State) (f : MetSt → MetSt) (a b : Nat) : (s.updMet f).reg64 a b = s.reg64 a b := rfl

@[simp] theorem State.updSky_sky (s : State) (f : SkySt → SkySt) : (s.updSky f).sky = f s.sky := rfl
@[simp] theorem State.updSky_reg (s : State) (f : SkySt → SkySt) (a : Nat) : (s.updSky f).reg a = s.reg a := rfl
@[simp] theorem State.updSky_fld (s : State) (f : SkySt → SkySt) (g : Fld) : (s.updSky f).fld g = s.fld g := rfl
@[simp] theorem State.updSky_flag (s : State) (f : SkySt → SkySt) (g : Fld) : (s.updSky f).flag g = s.flag g := rfl
@[simp] theorem State.updSky_rbit (s : State) (f : SkySt → SkySt) (a i : Nat) : (s.updSky f).rbit a i = s.rbit a i := rfl
@[simp] theorem State.updSky_reg64 (s : State) (f : SkySt → SkySt) (a b : Nat) : (s.updSky f).reg64 a b = s.reg64 a b := rfl

@[simp] theorem State.updPrf_prf (s : State) (f : PrfSt → PrfSt) : (s.updPrf f).prf = f s.prf := rfl
@[simp] theorem State.updPrf_reg (s : State) (f : PrfSt → PrfSt) (a : Nat) : (s.updPrf f).reg a = s.reg a := rfl
@[simp] theorem State.updPrf_fld (s : State) (f : PrfSt → PrfSt) (g : Fld) : (s.updPrf f).fld g = s.fld g := rfl
@[simp] theorem State.updPrf_flag (s : State) (f : PrfSt → PrfSt) (g : Fld) : (s.updPrf f).flag g = s.flag g := rfl
@[simp] theorem State.updPrf_rbit (s : State) (f : PrfSt → PrfSt) (a i : Nat) : (s.updPrf f).rbit a i = s.rbit a i := rfl
@[simp] theorem State.updPrf_reg64 (s : State) (f : PrfSt → PrfSt) (a b : Nat) : (s.updPrf f).reg64 a b = s.reg64 a b := rfl

@[simp] theorem State.updTwin_twin (s : State) (f : TwinSt → TwinSt) : (s.updTwin f).twin = f s.twin := rfl
@[simp] theorem State.updTwin_reg (s : State) (f : TwinSt → TwinSt) (a : Nat) : (s.updTwin f).reg a = s.reg a := rfl
@[simp] theorem State.updTwin_fld (s : State) (f : TwinSt → TwinSt) (g : Fld) : (s.updTwin f).fld g = s.fld g := rfl
@[simp] theorem State.updTwin_flag (s : State) (f : TwinSt → TwinSt) (g : Fld) : (s.updTwin f).flag g = s.flag g := rfl
@[simp] theorem State.updTwin_rbit (s : State) (f : TwinSt → TwinSt) (a i : Nat) : (s.updTwin f).rbit a i = s.rbit a i := rfl
@[simp] theorem State.updTwin_reg64 (s : State) (f : TwinSt → TwinSt) (a b : Nat) : (s.updTwin f).reg64 a b = s.reg64 a b := rfl

end Sys2Proof.Machine
end

