-- ==== Sys2Proof/Laws/Keep.lean ====
section
/-!
SUPPORT. Sys2Proof/Laws/Keep.lean: how `RegsKeep` (every register outside a list reads as before) goes through each store, so that a
command's register frame is put together and never unfolded.
-/
namespace Sys2Proof.Machine
set_option Elab.async false

variable {as : List Nat} {s0 s t : State}

theorem AgainKeep.of_eq {a : Nat} (e : t.again = s.again) : AgainKeep s t a := fun k _ => by unfold State.againAt; rw [e]

theorem AgainKeep.trans {a : Nat} (h : AgainKeep s0 s a) (g : AgainKeep s t a) : AgainKeep s0 t a := fun k hk => (g k hk).trans (h k hk)

/-- A bit noted of one register says nothing of another. -/
theorem AgainKeep.noteAgain {a : Nat} (f : Fld) (n : a ≠ f.addr) : AgainKeep s (s.noteAgain f) a := fun k hk => by
  rw [State.againAt_noteAgain s f hk, if_neg fun c => n c.1]

theorem RegsKeep.refl (as : List Nat) (s : State) : RegsKeep as s s := fun _ _ => ⟨rfl, fun _ _ => rfl⟩

theorem RegsKeep.trans (h : RegsKeep as s0 s) (g : RegsKeep as s t) : RegsKeep as s0 t :=
  fun a ha => ⟨(g a ha).1.trans (h a ha).1, (h a ha).2.trans (g a ha).2⟩

theorem RegsKeep.mono {bs : List Nat} (h : RegsKeep as s t) (hs : ∀ a ∈ as, a ∈ bs) : RegsKeep bs s t :=
  fun a ha => h a (fun hc => ha (hs a hc))

/-- Where no register's storage changed and no window noted anything, every register reads as before. -/
theorem RegsKeep.of_regs (h : RegsKeep as s0 s) (e : t.regs = s.regs) (g : t.again = s.again) : RegsKeep as s0 t :=
  h.trans fun a _ => ⟨by unfold State.reg; rw [e], AgainKeep.of_eq g⟩

theorem RegsKeep.setReg (h : RegsKeep as s0 s) (a : Nat) (v : Word) (m : a ∈ as) : RegsKeep as s0 (s.setReg a v) :=
  h.trans fun _ hb => ⟨State.reg_setReg_ne s v (fun e => hb (by rw [e]; exact m)), fun _ _ => rfl⟩

theorem RegsKeep.noteAgain (h : RegsKeep as s0 s) (f : Fld) (m : f.addr ∈ as) : RegsKeep as s0 (s.noteAgain f) :=
  h.trans fun _ hb => ⟨rfl, AgainKeep.noteAgain f fun e => hb (by rw [e]; exact m)⟩

theorem RegsKeep.setFld (h : RegsKeep as s0 s) (f : Fld) (x : Nat) (m : f.addr ∈ as) : RegsKeep as s0 (s.setFld f x) :=
  h.setReg _ _ m

theorem RegsKeep.setFlag (h : RegsKeep as s0 s) (f : Fld) (b : Bool) (m : f.addr ∈ as) : RegsKeep as s0 (s.setFlag f b) :=
  h.setReg _ _ m

theorem RegsKeep.raise (h : RegsKeep as s0 s) (f : Fld) (m : f.addr ∈ as) : RegsKeep as s0 (s.raise f) :=
  (h.setReg _ _ m).noteAgain f m

theorem RegsKeep.raiseIf (h : RegsKeep as s0 s) (c : Bool) (f : Fld) (m : c = true → f.addr ∈ as) : RegsKeep as s0 (s.raiseIf c f) := by
  cases c
  · exact h
  · exact h.raise f (m rfl)

theorem RegsKeep.setRbit (h : RegsKeep as s0 s) (a i : Nat) (b : Bool) (m : a ∈ as) : RegsKeep as s0 (s.setRbit a i b) :=
  h.setReg _ _ m

theorem RegsKeep.setReg64 (h : RegsKeep as s0 s) (lo hi x : Nat) (m : lo ∈ as) (n : hi ∈ as) : RegsKeep as s0 (s.setReg64 lo hi x) :=
  (h.setReg _ _ m).setReg _ _ n

theorem RegsKeep.setRegs (h : RegsKeep as s0 s) (a : Nat) (ws : List Word) (m : ∀ i < ws.length, a + i ∈ as) :
    RegsKeep as s0 (s.setRegs a ws) := by
  induction ws generalizing s a with
  | nil => exact h
  | cons w ws ih =>
    refine ih (h.setReg a w (m 0 (Nat.zero_lt_succ _))) _ (fun i hi => ?_)
    have := m (i + 1) (Nat.succ_lt_succ hi)
    rwa [show a + 1 + i = a + (i + 1) by omega]

theorem RegsKeep.bump32 (h : RegsKeep as s0 s) (a n : Nat) (f : Fld) (m : a ∈ as) (k : f.addr ∈ as) :
    RegsKeep as s0 (s.bump32 a n (some f)) := by
  unfold State.bump32
  extract_lets x t
  have ht : RegsKeep as s0 t := h.setReg a _ m
  clear_value t x
  split
  · exact ht
  · exact ht.raise f k

theorem RegsKeep.setIndw (h : RegsKeep as s0 s) (d w : Nat) (v : Word) : RegsKeep as s0 (s.setIndw d w v) :=
  h.of_regs (State.setIndw_regs s d w v) (State.setIndw_again s d w v)

theorem RegsKeep.setIfld (h : RegsKeep as s0 s) (d w lo n x : Nat) : RegsKeep as s0 (s.setIfld d w lo n x) :=
  h.of_regs (State.setIfld_regs s d w lo n x) (State.setIfld_again s d w lo n x)

theorem RegsKeep.updPwr (h : RegsKeep as s0 s) (f : PwrSt → PwrSt) : RegsKeep as s0 (s.updPwr f) := h.of_regs rfl rfl

theorem RegsKeep.updBoot (h : RegsKeep as s0 s) (f : BootSt → BootSt) : RegsKeep as s0 (s.updBoot f) := h.of_regs rfl rfl

theorem RegsKeep.updTb (h : RegsKeep as s0 s) (f : TbSt → TbSt) : RegsKeep as s0 (s.updTb f) := h.of_regs rfl rfl

theorem RegsKeep.updNet (h : RegsKeep as s0 s) (f : NetSt → NetSt) : RegsKeep as s0 (s.updNet f) := h.of_regs rfl rfl

theorem RegsKeep.updTlm (h : RegsKeep as s0 s) (f : TlmSt → TlmSt) : RegsKeep as s0 (s.updTlm f) := h.of_regs rfl rfl

theorem RegsKeep.updLoop (h : RegsKeep as s0 s) (f : LoopSt → LoopSt) : RegsKeep as s0 (s.updLoop f) := h.of_regs rfl rfl

theorem RegsKeep.updMet (h : RegsKeep as s0 s) (f : MetSt → MetSt) : RegsKeep as s0 (s.updMet f) := h.of_regs rfl rfl

theorem RegsKeep.updSky (h : RegsKeep as s0 s) (f : SkySt → SkySt) : RegsKeep as s0 (s.updSky f) := h.of_regs rfl rfl

theorem RegsKeep.updPrf (h : RegsKeep as s0 s) (f : PrfSt → PrfSt) : RegsKeep as s0 (s.updPrf f) := h.of_regs rfl rfl

theorem RegsKeep.updTwin (h : RegsKeep as s0 s) (f : TwinSt → TwinSt) : RegsKeep as s0 (s.updTwin f) := h.of_regs rfl rfl

end Sys2Proof.Machine
end

