-- ==== Sys2Proof/Laws/Flds.lean ====
section
/-!
SUPPORT. Sys2Proof/Laws/Flds.lean: how `FldsKeep` (every register bit outside a list of fields reads as before) goes through each store.
-/
namespace Sys2Proof.Machine
set_option Elab.async false

variable {fs : List Fld} {s0 s t : State}

/-- A bit outside the replaced ones is as before, wherever they lie. -/
theorem testBit_putBits_out (v : Word) (lo w x i : Nat) (h : ¬(lo ≤ i ∧ i < lo + w)) : (putBits v lo w x).toNat.testBit i = v.toNat.testBit i := by
  have hx : ((x % 2 ^ w) <<< lo).testBit i = false := by
    rw [Nat.testBit_shiftLeft, Nat.testBit_mod_two_pow]
    by_cases c : lo ≤ i
    · have : ¬ i - lo < w := by omega
      simp [this]
    · simp [c]
  have hm : ((2 ^ w - 1) <<< lo).testBit i = false := by
    rw [Nat.testBit_shiftLeft, Nat.testBit_two_pow_sub_one]
    by_cases c : lo ≤ i
    · have : ¬ i - lo < w := by omega
      simp [this]
    · simp [c]
  have e1 : (BitVec.ofNat 32 ((x % 2 ^ w) <<< lo)).getLsbD i = false := by
    rw [BitVec.getLsbD_ofNat, hx, Bool.and_false]
  have e2 : (BitVec.ofNat 32 ((2 ^ w - 1) <<< lo)).getLsbD i = false := by
    rw [BitVec.getLsbD_ofNat, hm, Bool.and_false]
  have key : (putBits v lo w x).getLsbD i = v.getLsbD i := by
    unfold putBits
    rw [BitVec.getLsbD_or, BitVec.getLsbD_and, BitVec.getLsbD_not, e1, e2]
    by_cases c : i < 32
    · simp [c]
    · simp [c, BitVec.getLsbD_of_ge v i (by omega)]
  exact key

theorem FldsKeep.refl (fs : List Fld) (s : State) : FldsKeep fs s s := fun _ _ _ _ => ⟨rfl, fun _ _ => rfl⟩

theorem FldsKeep.trans (h : FldsKeep fs s0 s) (g : FldsKeep fs s t) : FldsKeep fs s0 t :=
  fun a i hi ha => ⟨(g a i hi ha).1.trans (h a i hi ha).1, fun k hk => ((g a i hi ha).2 k hk).trans ((h a i hi ha).2 k hk)⟩

theorem FldsKeep.mono {gs : List Fld} (h : FldsKeep fs s t) (hs : ∀ f ∈ fs, f ∈ gs) : FldsKeep gs s t :=
  fun a i hi ha => h a i hi fun f hf => ha f (hs f hf)

/-- Where no register's storage changed and no window noted anything, every bit reads as before. -/
theorem FldsKeep.of_regs (h : FldsKeep fs s0 s) (e : t.regs = s.regs) (g : t.again = s.again) : FldsKeep fs s0 t :=
  h.trans fun a i _ _ => ⟨by unfold State.rbit State.reg; rw [e], fun k _ => by unfold State.againAt; rw [g]⟩

theorem FldsKeep.setReg (h : FldsKeep fs s0 s) (a : Nat) (v : Word) (m : whole a ∈ fs) : FldsKeep fs s0 (s.setReg a v) := by
  refine h.trans fun b i hi hb => ⟨?_, fun _ _ => rfl⟩
  have : b ≠ a := fun e => hb _ m ⟨e.symm, Nat.zero_le _, by simpa [whole] using hi⟩
  unfold State.rbit
  rw [State.reg_setReg_ne s v this]

/-- A register's new value that differs from the old in bits of listed fields only. -/
theorem FldsKeep.setReg_of (h : FldsKeep fs s0 s) (a : Nat) (v : Word)
    (m : ∀ i, i < 32 → (∀ f ∈ fs, ¬(f.addr = a ∧ f.lo ≤ i ∧ i < f.lo + f.w)) → bit v i = s.rbit a i) : FldsKeep fs s0 (s.setReg a v) := by
  refine h.trans fun b i hi hb => ⟨?_, fun _ _ => rfl⟩
  by_cases e : b = a
  · subst e
    unfold State.rbit
    rw [State.reg_setReg_same]
    exact m i hi hb
  · unfold State.rbit
    rw [State.reg_setReg_ne s v e]

theorem FldsKeep.setFld (h : FldsKeep fs s0 s) (f : Fld) (x : Nat) (m : f ∈ fs) : FldsKeep fs s0 (s.setFld f x) := by
  refine h.setReg_of _ _ fun i hi hb => ?_
  exact testBit_putBits_out _ _ _ _ _ fun c => hb f m ⟨rfl, c.1, c.2⟩

theorem FldsKeep.setFlag (h : FldsKeep fs s0 s) (f : Fld) (b : Bool) (m : f ∈ fs) : FldsKeep fs s0 (s.setFlag f b) := h.setFld _ _ m

theorem FldsKeep.noteAgain (h : FldsKeep fs s0 s) (f : Fld) (m : f ∈ fs) : FldsKeep fs s0 (s.noteAgain f) :=
  h.trans fun a i _ ha => ⟨rfl, fun k hk => by
    rw [State.againAt_noteAgain s f hk]
    split
    · next c => exact testBit_putBits_out _ _ _ _ _ fun d => ha f m ⟨c.1.symm, d.1, d.2⟩
    · rfl⟩

theorem FldsKeep.raise (h : FldsKeep fs s0 s) (f : Fld) (m : f ∈ fs) : FldsKeep fs s0 (s.raise f) := (h.setFld f 1 m).noteAgain f m

theorem FldsKeep.raiseIf (h : FldsKeep fs s0 s) (c : Bool) (f : Fld) (m : c = true → f ∈ fs) : FldsKeep fs s0 (s.raiseIf c f) := by
  cases c
  · exact h
  · exact h.raise f (m rfl)

theorem FldsKeep.setReg64 (h : FldsKeep fs s0 s) (lo hi x : Nat) (m : whole lo ∈ fs) (n : whole hi ∈ fs) :
    FldsKeep fs s0 (s.setReg64 lo hi x) := (h.setReg _ _ m).setReg _ _ n

theorem FldsKeep.bump32 (h : FldsKeep fs s0 s) (a n : Nat) (f : Fld) (m : whole a ∈ fs) (k : f ∈ fs) :
    FldsKeep fs s0 (s.bump32 a n (some f)) := by
  unfold State.bump32
  extract_lets x t
  have ht : FldsKeep fs s0 t := h.setReg a _ m
  clear_value t x
  split
  · exact ht
  · exact ht.raise f k

theorem FldsKeep.bump64 (h : FldsKeep fs s0 s) (a n : Nat) (f : Fld) (m : whole a ∈ fs) (m' : whole (a + 1) ∈ fs) (k : f ∈ fs) :
    FldsKeep fs s0 (s.bump64 a n (some f)) := by
  unfold State.bump64
  extract_lets x t
  have ht : FldsKeep fs s0 t := h.setReg64 a _ _ m m'
  clear_value t x
  split
  · exact ht
  · exact ht.raise f k

end Sys2Proof.Machine
end

