-- ==== Sys2Proof/Laws/FrameTbase.lean ====
section
/-!
SUPPORT. Sys2Proof/Laws/FrameTbase.lean: for each operation of Machine/Tbase.lean that changes the state, the parts it may change (and
that it keeps storage canonical), once and for all: `Moves` goes through it.
-/
namespace Sys2Proof.Machine
set_option Elab.async false
set_option linter.unusedTactic false
set_option linter.unreachableTactic false

theorem State.updTb_moves {cs : List Part} {s0 s : State} (hm : Moves cs s0 s) (f : TbSt → TbSt) (m0 : Part.tb ∈ cs) :
    Moves cs s0 (State.updTb s f) := by
  unfold State.updTb
  repeat' first
    | with_reducible assumption
    | with_reducible apply tb_moves
    | intro _
    | split
    | dsimp only

theorem State.updOut_moves {cs : List Part} {s0 s : State} (hm : Moves cs s0 s) (k : Nat) (f : OutSt → OutSt) (m0 : Part.tb ∈ cs) :
    Moves cs s0 (State.updOut s k f) := by
  unfold State.updOut
  repeat' first
    | with_reducible assumption
    | with_reducible apply State.updTb_moves
    | intro _
    | split
    | dsimp only

theorem tbAdvance_moves {cs : List Part} {s0 s : State} (hm : Moves cs s0 s) (k : Nat) (m0 : Part.tb ∈ cs) :
    Moves cs s0 (tbAdvance k s) := by
  unfold tbAdvance
  repeat' first
    | with_reducible assumption
    | with_reducible apply State.updOut_moves
    | with_reducible apply State.updTb_moves
    | with_reducible apply pulseEnd_moves
    | with_reducible apply forUpto_moves
    | intro _
    | split
    | dsimp only

theorem tbEdge_moves {cs : List Part} {s0 s : State} (hm : Moves cs s0 s) (m0 : Part.regs ∈ cs) (m1 : Part.tb ∈ cs) :
    Moves cs s0 (tbEdge s) := by
  unfold tbEdge
  repeat' first
    | with_reducible assumption
    | with_reducible apply State.setFlag_moves
    | with_reducible apply State.updTb_moves
    | with_reducible apply tbAdvance_moves
    | intro _
    | split
    | dsimp only

theorem tbEdges_moves {cs : List Part} {s0 s : State} (hm : Moves cs s0 s) (n : Nat) (m0 : Part.regs ∈ cs) (m1 : Part.tb ∈ cs) :
    Moves cs s0 (tbEdges n s) := by
  unfold tbEdges
  repeat' first
    | with_reducible assumption
    | with_reducible apply tbAdvance_moves
    | with_reducible apply tbEdge_moves
    | intro _
    | split
    | dsimp only

theorem State.setRegs_moves {cs : List Part} {s0 s : State} (hm : Moves cs s0 s) (a : Nat) (y0 : List Word) (m0 : Part.regs ∈ cs) :
    Moves cs s0 (State.setRegs s a y0) := by
  induction y0 generalizing s a with
  | nil => exact hm
  | cons q qs ih => exact ih (State.setReg_moves hm _ _ m0) _

theorem tbPending_moves {cs : List Part} {s0 s : State} (hm : Moves cs s0 s) (p : TbPend) (m0 : Part.regs ∈ cs) (m1 : Part.tb ∈ cs) :
    Moves cs s0 (tbPending p s) := by
  unfold tbPending
  repeat' first
    | with_reducible assumption
    | with_reducible apply State.setFlag_moves
    | with_reducible apply State.updTb_moves
    | intro _
    | split
    | dsimp only

theorem tbNoPending_moves {cs : List Part} {s0 s : State} (hm : Moves cs s0 s) (m0 : Part.regs ∈ cs) (m1 : Part.tb ∈ cs) :
    Moves cs s0 (tbNoPending s) := by
  unfold tbNoPending
  repeat' first
    | with_reducible assumption
    | with_reducible apply State.setFlag_moves
    | with_reducible apply State.updTb_moves
    | intro _
    | split
    | dsimp only

theorem tbAccept_moves {cs : List Part} {s0 s : State} (hm : Moves cs s0 s) (inc : Bool) (step : Bool) (load : Bool) (at' : Bool) (m0 : Part.regs ∈ cs) (m1 : Part.tb ∈ cs) :
    Moves cs s0 (tbAccept inc step load at' s) := by
  unfold tbAccept
  repeat' first
    | with_reducible assumption
    | with_reducible apply State.raiseIf_moves
    | with_reducible apply tbPending_moves
    | intro _
    | split
    | dsimp only

theorem tbCancel_moves {cs : List Part} {s0 s : State} (hm : Moves cs s0 s) (m0 : Part.regs ∈ cs) (m1 : Part.tb ∈ cs) :
    Moves cs s0 (tbCancel s) := by
  unfold tbCancel
  repeat' first
    | with_reducible assumption
    | with_reducible apply tbNoPending_moves
    | intro _
    | split
    | dsimp only

theorem actTbaseCmd_moves {cs : List Part} {s0 s : State} (hm : Moves cs s0 s) (old : Word) (raw : Word) (m0 : Part.regs ∈ cs) (m1 : Part.tb ∈ cs) :
    Moves cs s0 (actTbaseCmd old raw s) := by
  unfold actTbaseCmd
  repeat' first
    | with_reducible assumption
    | with_reducible apply State.raise_moves
    | with_reducible apply State.setFlag_moves
    | with_reducible apply State.updTb_moves
    | with_reducible apply tbAccept_moves
    | with_reducible apply tbCancel_moves
    | intro _
    | split
    | dsimp only

theorem actTbaseCtrl_moves {cs : List Part} {s0 s : State} (hm : Moves cs s0 s) (old : Word) (_raw : Word) (m0 : Part.tb ∈ cs) :
    Moves cs s0 (actTbaseCtrl old _raw s) := by
  unfold actTbaseCtrl
  repeat' first
    | with_reducible assumption
    | with_reducible apply State.updTb_moves
    | intro _
    | split
    | dsimp only

theorem showOffset_moves {cs : List Part} {s0 s : State} (hm : Moves cs s0 s) (k : Nat) (m0 : Part.regs ∈ cs) :
    Moves cs s0 (showOffset k s) := by
  unfold showOffset
  repeat' first
    | with_reducible assumption
    | with_reducible apply State.setReg64_moves
    | intro _
    | split
    | dsimp only

theorem outAlign_moves {cs : List Part} {s0 s : State} (hm : Moves cs s0 s) (k : Nat) (m0 : Part.regs ∈ cs) (m1 : Part.tb ∈ cs) :
    Moves cs s0 (outAlign k s) := by
  unfold outAlign
  repeat' first
    | with_reducible assumption
    | with_reducible apply State.updOut_moves
    | with_reducible apply showOffset_moves
    | intro _
    | split
    | dsimp only

theorem actOutCtrl_moves {cs : List Part} {s0 s : State} (hm : Moves cs s0 s) (k : Nat) (old : Word) (raw : Word) (m0 : Part.regs ∈ cs) (m1 : Part.tb ∈ cs) :
    Moves cs s0 (actOutCtrl k old raw s) := by
  unfold actOutCtrl
  repeat' first
    | with_reducible assumption
    | with_reducible apply State.updOut_moves
    | with_reducible apply outAlign_moves
    | intro _
    | split
    | dsimp only

theorem actOutCmd_moves {cs : List Part} {s0 s : State} (hm : Moves cs s0 s) (k : Nat) (_old : Word) (raw : Word) (m0 : Part.regs ∈ cs) (m1 : Part.tb ∈ cs) :
    Moves cs s0 (actOutCmd k _old raw s) := by
  unfold actOutCmd
  repeat' first
    | with_reducible assumption
    | with_reducible apply outAlign_moves
    | intro _
    | split
    | dsimp only

theorem actOutPeriod_moves {cs : List Part} {s0 s : State} (hm : Moves cs s0 s) (k : Nat) (old : Word) (raw : Word) (m0 : Part.regs ∈ cs) :
    Moves cs s0 (actOutPeriod k old raw s) := by
  unfold actOutPeriod
  repeat' first
    | with_reducible assumption
    | with_reducible apply State.raise_moves
    | with_reducible apply State.setReg_moves
    | intro _
    | split
    | dsimp only

theorem actOutWidth_moves {cs : List Part} {s0 s : State} (hm : Moves cs s0 s) (k : Nat) (old : Word) (raw : Word) (m0 : Part.regs ∈ cs) :
    Moves cs s0 (actOutWidth k old raw s) := by
  unfold actOutWidth
  repeat' first
    | with_reducible assumption
    | with_reducible apply State.raise_moves
    | with_reducible apply State.setReg_moves
    | intro _
    | split
    | dsimp only

theorem outsMoved_moves {cs : List Part} {s0 s : State} (hm : Moves cs s0 s) (d : Int) (moved : Int) (m0 : Part.regs ∈ cs) (m1 : Part.tb ∈ cs) :
    Moves cs s0 (outsMoved d moved s) := by
  unfold outsMoved
  repeat' first
    | with_reducible assumption
    | with_reducible apply State.updOut_moves
    | with_reducible apply pulseEnd_moves
    | with_reducible apply showOffset_moves
    | with_reducible apply forUpto_moves
    | intro _
    | split
    | dsimp only

theorem txtsPush_moves {cs : List Part} {s0 s : State} (hm : Moves cs s0 s) (r : TxtsRec) (m0 : Part.regs ∈ cs) (m1 : Part.tb ∈ cs) :
    Moves cs s0 (txtsPush r s) := by
  unfold txtsPush
  repeat' first
    | with_reducible assumption
    | with_reducible apply State.bump32_moves
    | with_reducible apply State.raise_moves
    | with_reducible apply State.raiseIf_moves
    | with_reducible apply State.updTb_moves
    | intro _
    | split
    | dsimp only

theorem actTxtsPop_moves {cs : List Part} {s0 s : State} (hm : Moves cs s0 s) (_old : Word) (raw : Word) (m0 : Part.tb ∈ cs) :
    Moves cs s0 (actTxtsPop _old raw s) := by
  unfold actTxtsPop
  repeat' first
    | with_reducible assumption
    | with_reducible apply State.updTb_moves
    | intro _
    | split
    | dsimp only

end Sys2Proof.Machine
end

