-- ==== Sys2Proof/Laws/FrameFaults.lean ====
section
/-!
SUPPORT. Sys2Proof/Laws/FrameFaults.lean: for each operation of Machine/Faults.lean that changes the state, the parts it may change (and
that it keeps storage canonical), once and for all: `Moves` goes through it.
-/
namespace Sys2Proof.Machine
set_option Elab.async false
set_option linter.unusedTactic false
set_option linter.unreachableTactic false

theorem settleCover_moves {cs : List Part} {s0 s : State} (hm : Moves cs s0 s) (m0 : Part.regs ∈ cs) :
    Moves cs s0 (settleCover s) := by
  unfold settleCover
  repeat' first
    | with_reducible assumption
    | with_reducible apply State.raiseIf_moves
    | with_reducible apply State.setFlag_moves
    | intro _
    | split
    | dsimp only

theorem State.updLoop_moves {cs : List Part} {s0 s : State} (hm : Moves cs s0 s) (f : LoopSt → LoopSt) (m0 : Part.loop ∈ cs) :
    Moves cs s0 (State.updLoop s f) := by
  unfold State.updLoop
  repeat' first
    | with_reducible assumption
    | with_reducible apply loop_moves
    | intro _
    | split
    | dsimp only

theorem State.updClkout_moves {cs : List Part} {s0 s : State} (hm : Moves cs s0 s) (k : Nat) (f : ClkoutSt → ClkoutSt) (m0 : Part.loop ∈ cs) :
    Moves cs s0 (State.updClkout s k f) := by
  unfold State.updClkout
  repeat' first
    | with_reducible assumption
    | with_reducible apply State.updLoop_moves
    | intro _
    | split
    | dsimp only

theorem settleGates_moves {cs : List Part} {s0 s : State} (hm : Moves cs s0 s) (m0 : Part.loop ∈ cs) :
    Moves cs s0 (settleGates s) := by
  unfold settleGates
  repeat' first
    | with_reducible assumption
    | with_reducible apply State.updClkout_moves
    | with_reducible apply forUpto_moves
    | intro _
    | split
    | dsimp only

theorem actRoleGate_moves {cs : List Part} {s0 s : State} (hm : Moves cs s0 s) (_old : Word) (_raw : Word) (m0 : Part.loop ∈ cs) :
    Moves cs s0 (actRoleGate _old _raw s) := by
  unfold actRoleGate
  repeat' first
    | with_reducible assumption
    | with_reducible apply settleGates_moves
    | intro _
    | split
    | dsimp only

theorem State.updTwin_moves {cs : List Part} {s0 s : State} (hm : Moves cs s0 s) (f : TwinSt → TwinSt) (m0 : Part.twin ∈ cs) :
    Moves cs s0 (State.updTwin s f) := by
  unfold State.updTwin
  repeat' first
    | with_reducible assumption
    | with_reducible apply twin_moves
    | intro _
    | split
    | dsimp only

theorem State.updLink_moves {cs : List Part} {s0 s : State} (hm : Moves cs s0 s) (k : Nat) (f : LinkSt → LinkSt) (m0 : Part.twin ∈ cs) :
    Moves cs s0 (State.updLink s k f) := by
  unfold State.updLink
  repeat' first
    | with_reducible assumption
    | with_reducible apply State.updTwin_moves
    | intro _
    | split
    | dsimp only

theorem xchkBreak_moves {cs : List Part} {s0 s : State} (hm : Moves cs s0 s) (m0 : Part.twin ∈ cs) :
    Moves cs s0 (xchkBreak s) := by
  unfold xchkBreak
  repeat' first
    | with_reducible assumption
    | with_reducible apply State.updTwin_moves
    | intro _
    | split
    | dsimp only

theorem leadsAnew_moves {cs : List Part} {s0 s : State} (hm : Moves cs s0 s) (r : Nat) (m0 : Part.twin ∈ cs) :
    Moves cs s0 (leadsAnew r s) := by
  unfold leadsAnew
  repeat' first
    | with_reducible assumption
    | with_reducible apply State.updLink_moves
    | intro _
    | split
    | dsimp only

theorem setRole_moves {cs : List Part} {s0 s : State} (hm : Moves cs s0 s) (r : Nat) (m0 : Part.regs ∈ cs) (m1 : Part.loop ∈ cs) (m2 : Part.twin ∈ cs) :
    Moves cs s0 (setRole r s) := by
  unfold setRole
  repeat' first
    | with_reducible assumption
    | with_reducible apply State.raise_moves
    | with_reducible apply State.raiseIf_moves
    | with_reducible apply State.setFld_moves
    | with_reducible apply leadsAnew_moves
    | with_reducible apply settleCover_moves
    | with_reducible apply settleGates_moves
    | with_reducible apply xchkBreak_moves
    | intro _
    | split
    | dsimp only

theorem yieldPart_moves {cs : List Part} {s0 s : State} (hm : Moves cs s0 s) (m0 : Part.regs ∈ cs) (m1 : Part.loop ∈ cs) (m2 : Part.twin ∈ cs) :
    Moves cs s0 (yieldPart s) := by
  unfold yieldPart
  repeat' first
    | with_reducible assumption
    | with_reducible apply State.setFlag_moves
    | with_reducible apply setRole_moves
    | intro _
    | split
    | dsimp only

theorem logEntry_moves {cs : List Part} {s0 s : State} (hm : Moves cs s0 s) (cls : Nat) (block : Nat) (sub : Nat) (addr : Nat) (m0 : Part.regs ∈ cs) :
    Moves cs s0 (logEntry cls block sub addr s) := by
  unfold logEntry
  repeat' first
    | with_reducible assumption
    | with_reducible apply State.raiseIf_moves
    | with_reducible apply State.setFld_moves
    | with_reducible apply State.setRegs_moves
    | intro _
    | split
    | dsimp only

theorem faultLog_moves {cs : List Part} {s0 s : State} (hm : Moves cs s0 s) (cls : Nat) (block : Nat) (sub : Nat) (addr : Nat) (m0 : Part.regs ∈ cs) (m1 : Part.loop ∈ cs) (m2 : Part.twin ∈ cs) :
    Moves cs s0 (faultLog cls block sub addr s) := by
  unfold faultLog
  repeat' first
    | with_reducible assumption
    | with_reducible apply State.bump32_moves
    | with_reducible apply State.raise_moves
    | with_reducible apply State.raiseIf_moves
    | with_reducible apply logEntry_moves
    | with_reducible apply yieldPart_moves
    | intro _
    | split
    | dsimp only

theorem State.draw_moves {cs : List Part} {s0 s : State} (hm : Moves cs s0 s) (m0 : Part.free ∈ cs) :
    Moves cs s0 (State.draw s).2 := by
  unfold State.draw
  repeat' first
    | with_reducible assumption
    | with_reducible apply free_moves
    | intro _
    | split
    | dsimp only
theorem State.draw_moves_eq {cs : List Part} {s0 s v1 : State} {v0} (e : State.draw s = (v0, v1)) (hm : Moves cs s0 s) (m0 : Part.free ∈ cs) :
    Moves cs s0 v1 := by
  have := State.draw_moves hm  m0
  rwa [e] at this

theorem faultOpen_moves {cs : List Part} {s0 s : State} (hm : Moves cs s0 s) (cls : Nat) (block : Nat) (addr : Option Nat) (m0 : Part.regs ∈ cs) (m1 : Part.loop ∈ cs) (m2 : Part.twin ∈ cs) (m3 : Part.free ∈ cs) :
    Moves cs s0 (faultOpen cls block addr s) := by
  unfold faultOpen
  repeat' first
    | with_reducible assumption
    | (refine State.draw_moves_eq (by with_reducible assumption) ?_ ?_ <;> try with_reducible assumption)
    | with_reducible apply State.draw_moves
    | with_reducible apply faultLog_moves
    | intro _
    | split
    | dsimp only

end Sys2Proof.Machine
end

