-- ==== Sys2Proof/Laws/FrameLaneWords.lean ====
section
/-!
SUPPORT. Sys2Proof/Laws/FrameLaneWords.lean: for each operation of Machine/LaneWords.lean that changes the state, the parts it may change (and
that it keeps storage canonical), once and for all: `Moves` goes through it.
-/
namespace Sys2Proof.Machine
set_option Elab.async false
set_option linter.unusedTactic false
set_option linter.unreachableTactic false

theorem State.updLane_moves {cs : List Part} {s0 s : State} (hm : Moves cs s0 s) (n : Nat) (f : LaneSt → LaneSt) (m0 : Part.lanes ∈ cs) :
    Moves cs s0 (State.updLane s n f) := by
  unfold State.updLane
  repeat' first
    | with_reducible assumption
    | with_reducible apply lanes_moves
    | intro _
    | split
    | dsimp only

theorem keepPlus_moves {cs : List Part} {s0 s : State} (hm : Moves cs s0 s) (m : Fin 32) (m0 : Part.lanes ∈ cs) :
    Moves cs s0 (keepPlus m s) := by
  unfold keepPlus
  repeat' first
    | with_reducible assumption
    | with_reducible apply State.updLane_moves
    | intro _
    | split
    | dsimp only

end Sys2Proof.Machine
end

