-- ==== Sys2Proof/Laws/FrameLanes.lean ====
section
/-!
SUPPORT. Sys2Proof/Laws/FrameLanes.lean: for each operation of Machine/Lanes.lean that changes the state, the parts it may change (and
that it keeps storage canonical), once and for all: `Moves` goes through it.
-/
namespace Sys2Proof.Machine
set_option Elab.async false
set_option linter.unusedTactic false
set_option linter.unreachableTactic false

theorem setLive_moves {cs : List Part} {s0 s : State} (hm : Moves cs s0 s) (n : Nat) (i : Nat) (x : Int) (m0 : Part.ind ∈ cs) :
    Moves cs s0 (setLive n i x s) := by
  unfold setLive
  repeat' first
    | with_reducible assumption
    | with_reducible apply State.setIfld_moves
    | intro _
    | split
    | dsimp only

theorem showAdapt_moves {cs : List Part} {s0 s : State} (hm : Moves cs s0 s) (n : Nat) (m0 : Part.regs ∈ cs) :
    Moves cs s0 (showAdapt n s) := by
  unfold showAdapt
  repeat' first
    | with_reducible assumption
    | with_reducible apply State.setFld_moves
    | intro _
    | split
    | dsimp only

theorem startCoarse_moves {cs : List Part} {s0 s : State} (hm : Moves cs s0 s) (n : Nat) (m0 : Part.regs ∈ cs) (m1 : Part.ind ∈ cs) (m2 : Part.lanes ∈ cs) :
    Moves cs s0 (startCoarse n s) := by
  unfold startCoarse
  repeat' first
    | with_reducible assumption
    | with_reducible apply State.updLane_moves
    | with_reducible apply setLive_moves
    | with_reducible apply showAdapt_moves
    | with_reducible apply forUpto_moves
    | intro _
    | split
    | dsimp only

theorem adaptTo_moves {cs : List Part} {s0 s : State} (hm : Moves cs s0 s) (n : Nat) (i : Nat) (x : Int) (m0 : Part.regs ∈ cs) (m1 : Part.ind ∈ cs) (m2 : Part.lanes ∈ cs) :
    Moves cs s0 (adaptTo n i x s) := by
  unfold adaptTo
  repeat' first
    | with_reducible assumption
    | with_reducible apply State.raiseIf_moves
    | with_reducible apply State.updLane_moves
    | with_reducible apply setLive_moves
    | intro _
    | split
    | dsimp only

theorem adaptOne_moves {cs : List Part} {s0 s : State} (hm : Moves cs s0 s) (n : Nat) (i : Nat) (x : Int) (m0 : Part.regs ∈ cs) (m1 : Part.ind ∈ cs) (m2 : Part.lanes ∈ cs) :
    Moves cs s0 (adaptOne n i x s) := by
  unfold adaptOne
  repeat' first
    | with_reducible assumption
    | with_reducible apply adaptTo_moves
    | intro _
    | split
    | dsimp only

theorem adaptAll_moves {cs : List Part} {s0 s : State} (hm : Moves cs s0 s) (one : Nat → Int → State → State) (v : Adapt) (hone : ∀ z0 z1 z2, Moves cs s0 z2 → Moves cs s0 (one z0 z1 z2)) :
    Moves cs s0 (adaptAll one v s) := by
  unfold adaptAll
  repeat' first
    | with_reducible assumption
    | with_reducible apply hone
    | intro _
    | split
    | dsimp only

theorem adaptUpdate_moves {cs : List Part} {s0 s : State} (hm : Moves cs s0 s) (n : Nat) (v : Adapt) (m0 : Part.regs ∈ cs) (m1 : Part.ind ∈ cs) (m2 : Part.lanes ∈ cs) :
    Moves cs s0 (adaptUpdate n v s) := by
  unfold adaptUpdate
  repeat' first
    | with_reducible assumption
    | with_reducible apply adaptAll_moves
    | with_reducible apply adaptOne_moves
    | intro _
    | split
    | dsimp only

theorem densityWindow_moves {cs : List Part} {s0 s : State} (hm : Moves cs s0 s) (n : Nat) (t : Nat) (v : Adapt) (m0 : Part.regs ∈ cs) (m1 : Part.ind ∈ cs) (m2 : Part.lanes ∈ cs) :
    Moves cs s0 (densityWindow n t v s) := by
  unfold densityWindow
  repeat' first
    | with_reducible assumption
    | with_reducible apply State.raise_moves
    | with_reducible apply State.setFld_moves
    | with_reducible apply State.updLane_moves
    | with_reducible apply adaptUpdate_moves
    | with_reducible apply showAdapt_moves
    | intro _
    | split
    | dsimp only

theorem laneStarts_moves {cs : List Part} {s0 s : State} (hm : Moves cs s0 s) (n : Nat) (m0 : Part.lanes ∈ cs) :
    Moves cs s0 (laneStarts n s) := by
  unfold laneStarts
  repeat' first
    | with_reducible assumption
    | with_reducible apply State.updLane_moves
    | intro _
    | split
    | dsimp only

theorem dlnRise_moves {cs : List Part} {s0 s : State} (hm : Moves cs s0 s) (n : Nat) (m0 : Part.regs ∈ cs) (m1 : Part.ind ∈ cs) (m2 : Part.lanes ∈ cs) :
    Moves cs s0 (dlnRise n s) := by
  unfold dlnRise
  repeat' first
    | with_reducible assumption
    | with_reducible apply State.updLane_moves
    | with_reducible apply laneStarts_moves
    | with_reducible apply startCoarse_moves
    | intro _
    | split
    | dsimp only

theorem dlnFall_moves {cs : List Part} {s0 s : State} (hm : Moves cs s0 s) (n : Nat) (m0 : Part.regs ∈ cs) (m1 : Part.lanes ∈ cs) :
    Moves cs s0 (dlnFall n s) := by
  unfold dlnFall
  repeat' first
    | with_reducible assumption
    | with_reducible apply State.setFlag_moves
    | with_reducible apply State.updLane_moves
    | with_reducible apply showAdapt_moves
    | intro _
    | split
    | dsimp only

theorem loseAlign_moves {cs : List Part} {s0 s : State} (hm : Moves cs s0 s) (n : Nat) (m0 : Part.regs ∈ cs) :
    Moves cs s0 (loseAlign n s) := by
  unfold loseAlign
  repeat' first
    | with_reducible assumption
    | with_reducible apply State.raise_moves
    | with_reducible apply State.setFlag_moves
    | intro _
    | split
    | dsimp only

theorem dlnLoopback_moves {cs : List Part} {s0 s : State} (hm : Moves cs s0 s) (n : Nat) (o : Nat) (v : Nat) (m0 : Part.regs ∈ cs) (m1 : Part.lanes ∈ cs) :
    Moves cs s0 (dlnLoopback n o v s) := by
  unfold dlnLoopback
  repeat' first
    | with_reducible assumption
    | with_reducible apply State.updLane_moves
    | with_reducible apply loseAlign_moves
    | intro _
    | split
    | dsimp only

theorem actDlnLaneCtrl_moves {cs : List Part} {s0 s : State} (hm : Moves cs s0 s) (n : Nat) (old : Word) (raw : Word) (m0 : Part.regs ∈ cs) (m1 : Part.ind ∈ cs) (m2 : Part.lanes ∈ cs) :
    Moves cs s0 (actDlnLaneCtrl n old raw s) := by
  unfold actDlnLaneCtrl
  repeat' first
    | with_reducible assumption
    | with_reducible apply dlnFall_moves
    | with_reducible apply dlnLoopback_moves
    | with_reducible apply dlnRise_moves
    | with_reducible apply showAdapt_moves
    | with_reducible apply startCoarse_moves
    | intro _
    | split
    | dsimp only

theorem linkCfgCheck_moves {cs : List Part} {s0 s : State} (hm : Moves cs s0 s) (m0 : Part.regs ∈ cs) :
    Moves cs s0 (linkCfgCheck s) := by
  unfold linkCfgCheck
  repeat' first
    | with_reducible assumption
    | with_reducible apply State.raiseIf_moves
    | intro _
    | split
    | dsimp only

theorem alnRise_moves {cs : List Part} {s0 s : State} (hm : Moves cs s0 s) (m : Nat) (m0 : Part.regs ∈ cs) (m1 : Part.lanes ∈ cs) :
    Moves cs s0 (alnRise m s) := by
  unfold alnRise
  repeat' first
    | with_reducible assumption
    | with_reducible apply State.raise_moves
    | with_reducible apply State.updLane_moves
    | with_reducible apply laneStarts_moves
    | with_reducible apply linkCfgCheck_moves
    | intro _
    | split
    | dsimp only

theorem syncLost_moves {cs : List Part} {s0 s : State} (hm : Moves cs s0 s) (m : Nat) (m0 : Part.regs ∈ cs) :
    Moves cs s0 (syncLost m s) := by
  unfold syncLost
  repeat' first
    | with_reducible assumption
    | with_reducible apply State.raise_moves
    | with_reducible apply State.setFlag_moves
    | intro _
    | split
    | dsimp only

theorem alnFall_moves {cs : List Part} {s0 s : State} (hm : Moves cs s0 s) (m : Nat) (m0 : Part.regs ∈ cs) (m1 : Part.lanes ∈ cs) :
    Moves cs s0 (alnFall m s) := by
  unfold alnFall
  repeat' first
    | with_reducible assumption
    | with_reducible apply State.setFlag_moves
    | with_reducible apply State.updLane_moves
    | intro _
    | split
    | dsimp only

theorem actAlnCtrl_moves {cs : List Part} {s0 s : State} (hm : Moves cs s0 s) (m : Nat) (old : Word) (raw : Word) (m0 : Part.regs ∈ cs) (m1 : Part.lanes ∈ cs) :
    Moves cs s0 (actAlnCtrl m old raw s) := by
  unfold actAlnCtrl
  repeat' first
    | with_reducible assumption
    | with_reducible apply State.updLane_moves
    | with_reducible apply alnFall_moves
    | with_reducible apply alnRise_moves
    | with_reducible apply syncLost_moves
    | intro _
    | split
    | dsimp only

theorem laneSignal_moves {cs : List Part} {s0 s : State} (hm : Moves cs s0 s) (l : LaneId) (m0 : Part.regs ∈ cs) :
    Moves cs s0 (laneSignal l s) := by
  unfold laneSignal
  repeat' first
    | with_reducible assumption
    | with_reducible apply State.setFlag_moves
    | intro _
    | split
    | dsimp only

theorem laneCdrLock_moves {cs : List Part} {s0 s : State} (hm : Moves cs s0 s) (l : LaneId) (m0 : Part.regs ∈ cs) (m1 : Part.lanes ∈ cs) :
    Moves cs s0 (laneCdrLock l s) := by
  unfold laneCdrLock
  repeat' first
    | with_reducible assumption
    | with_reducible apply State.setFlag_moves
    | with_reducible apply State.updLane_moves
    | with_reducible apply showAdapt_moves
    | intro _
    | split
    | dsimp only

theorem laneLos_moves {cs : List Part} {s0 s : State} (hm : Moves cs s0 s) (l : LaneId) (cdr : Bool) (m0 : Part.regs ∈ cs) (m1 : Part.lanes ∈ cs) :
    Moves cs s0 (laneLos l cdr s) := by
  unfold laneLos
  repeat' first
    | with_reducible assumption
    | with_reducible apply State.raise_moves
    | with_reducible apply State.setFlag_moves
    | with_reducible apply State.updLane_moves
    | with_reducible apply loseAlign_moves
    | with_reducible apply syncLost_moves
    | intro _
    | split
    | dsimp only

theorem dlnPresetApply_moves {cs : List Part} {s0 s : State} (hm : Moves cs s0 s) (n : Nat) (d : Word) (m0 : Part.regs ∈ cs) (m1 : Part.ind ∈ cs) (m2 : Part.lanes ∈ cs) :
    Moves cs s0 (dlnPresetApply n d s) := by
  unfold dlnPresetApply
  repeat' first
    | with_reducible assumption
    | with_reducible apply State.raise_moves
    | with_reducible apply State.setIndw_moves
    | with_reducible apply State.updLane_moves
    | intro _
    | split
    | dsimp only

theorem alnPreset_moves {cs : List Part} {s0 s : State} (hm : Moves cs s0 s) (m : Nat) (d : Word) (m0 : Part.regs ∈ cs) (m1 : Part.ind ∈ cs) (m2 : Part.lanes ∈ cs) :
    Moves cs s0 (alnPreset m d s) := by
  unfold alnPreset
  repeat' first
    | with_reducible assumption
    | with_reducible apply State.raise_moves
    | with_reducible apply State.setIndw_moves
    | with_reducible apply State.updLane_moves
    | intro _
    | split
    | dsimp only

theorem boundPair_moves {cs : List Part} {s0 s : State} (hm : Moves cs s0 s) (n : Nat) (i : Nat) (d : Word) (m0 : Part.regs ∈ cs) (m1 : Part.ind ∈ cs) :
    Moves cs s0 (boundPair n i d s) := by
  unfold boundPair
  repeat' first
    | with_reducible assumption
    | with_reducible apply State.raise_moves
    | with_reducible apply State.setIfld_moves
    | intro _
    | split
    | dsimp only

theorem alnSetting_moves {cs : List Part} {s0 s : State} (hm : Moves cs s0 s) (m : Nat) (lo : Nat) (hi : Nat) (d : Word) (m0 : Part.regs ∈ cs) (m1 : Part.ind ∈ cs) :
    Moves cs s0 (alnSetting m lo hi d s) := by
  unfold alnSetting
  repeat' first
    | with_reducible assumption
    | with_reducible apply State.raise_moves
    | with_reducible apply State.setIfld_moves
    | intro _
    | split
    | dsimp only

theorem dlnWordWrite_moves {cs : List Part} {s0 s : State} (hm : Moves cs s0 s) (n : Nat) (w : Nat) (d : Word) (m0 : Part.regs ∈ cs) (m1 : Part.ind ∈ cs) (m2 : Part.lanes ∈ cs) :
    Moves cs s0 (dlnWordWrite n w d s) := by
  unfold dlnWordWrite
  repeat' first
    | with_reducible assumption
    | with_reducible apply State.setIndw_moves
    | with_reducible apply boundPair_moves
    | with_reducible apply dlnPresetApply_moves
    | with_reducible apply indStore_moves
    | intro _
    | split
    | dsimp only

theorem alnWordWrite_moves {cs : List Part} {s0 s : State} (hm : Moves cs s0 s) (m : Nat) (w : Nat) (d : Word) (m0 : Part.regs ∈ cs) (m1 : Part.ind ∈ cs) (m2 : Part.lanes ∈ cs) :
    Moves cs s0 (alnWordWrite m w d s) := by
  unfold alnWordWrite
  repeat' first
    | with_reducible assumption
    | with_reducible apply alnPreset_moves
    | with_reducible apply alnSetting_moves
    | with_reducible apply indStore_moves
    | intro _
    | split
    | dsimp only

theorem checkerSearch_moves {cs : List Part} {s0 s : State} (hm : Moves cs s0 s) (l : LaneId) (m0 : Part.regs ∈ cs) (m1 : Part.lanes ∈ cs) :
    Moves cs s0 (checkerSearch l s) := by
  unfold checkerSearch
  repeat' first
    | with_reducible assumption
    | with_reducible apply State.setFlag_moves
    | with_reducible apply State.updLane_moves
    | intro _
    | split
    | dsimp only

theorem actChecker_moves {cs : List Part} {s0 s : State} (hm : Moves cs s0 s) (l : LaneId) (old : Word) (raw : Word) (m0 : Part.regs ∈ cs) (m1 : Part.lanes ∈ cs) :
    Moves cs s0 (actChecker l old raw s) := by
  unfold actChecker
  repeat' first
    | with_reducible assumption
    | with_reducible apply checkerSearch_moves
    | intro _
    | split
    | dsimp only

theorem actErrInj_moves {cs : List Part} {s0 s : State} (hm : Moves cs s0 s) (l : LaneId) (_old : Word) (raw : Word) (m0 : Part.lanes ∈ cs) :
    Moves cs s0 (actErrInj l _old raw s) := by
  unfold actErrInj
  repeat' first
    | with_reducible assumption
    | with_reducible apply State.updLane_moves
    | intro _
    | split
    | dsimp only

theorem txpllLock_moves {cs : List Part} {s0 s : State} (hm : Moves cs s0 s) (k : Nat) (m0 : Part.lanes ∈ cs) (m1 : Part.lanePll ∈ cs) :
    Moves cs s0 (txpllLock k s) := by
  unfold txpllLock
  refine foldl_moves _ _ (fun t e ht => ?_) _ (lanePll_moves hm _ m1)
  split
  · exact State.updLane_moves ht _ _ m0
  · exact ht

theorem keepWord_moves {cs : List Part} {s0 s : State} (hm : Moves cs s0 s) (l : LaneId) (w : BitVec 128) (m0 : Part.lanes ∈ cs) :
    Moves cs s0 (keepWord l w s) := by
  unfold keepWord
  repeat' first
    | with_reducible assumption
    | with_reducible apply State.updLane_moves
    | intro _
    | split
    | dsimp only

theorem checkWord_moves {cs : List Part} {s0 s : State} (hm : Moves cs s0 s) (l : LaneId) (w : BitVec 128) (m0 : Part.regs ∈ cs) (m1 : Part.lanes ∈ cs) :
    Moves cs s0 (checkWord l w s) := by
  unfold checkWord
  repeat' first
    | with_reducible assumption
    | with_reducible apply State.bump64_moves
    | with_reducible apply State.raise_moves
    | with_reducible apply State.setFlag_moves
    | with_reducible apply State.updLane_moves
    | with_reducible apply checkerSearch_moves
    | intro _
    | split
    | dsimp only

theorem takeWords_moves {cs : List Part} {s0 s : State} (hm : Moves cs s0 s) (l : LaneId) (ws : List (BitVec 128)) (m0 : Part.regs ∈ cs) (m1 : Part.lanes ∈ cs) :
    Moves cs s0 (takeWords l ws s) := by
  unfold takeWords
  repeat' first
    | with_reducible assumption
    | with_reducible apply checkWord_moves
    | with_reducible apply keepWord_moves
    | with_reducible apply foldl_moves
    | intro _
    | split
    | dsimp only

theorem rawRx_moves {cs : List Part} {s0 s : State} (hm : Moves cs s0 s) (m : Nat) (slot : Nat) (ch : Nat) (err : Bool) (m0 : Part.regs ∈ cs) :
    Moves cs s0 (rawRx m slot ch err s) := by
  unfold rawRx
  repeat' first
    | with_reducible assumption
    | with_reducible apply State.setReg_moves
    | intro _
    | split
    | dsimp only

theorem commaMisplaced_moves {cs : List Part} {s0 s : State} (hm : Moves cs s0 s) (m : Nat) (m0 : Part.regs ∈ cs) (m1 : Part.lanes ∈ cs) :
    Moves cs s0 (commaMisplaced m s) := by
  unfold commaMisplaced
  repeat' first
    | with_reducible assumption
    | with_reducible apply State.bump32_moves
    | with_reducible apply State.raise_moves
    | with_reducible apply State.updLane_moves
    | intro _
    | split
    | dsimp only

theorem syncGroup_moves {cs : List Part} {s0 s : State} (hm : Moves cs s0 s) (m : Nat) (valid : Bool) (m0 : Part.regs ∈ cs) (m1 : Part.lanes ∈ cs) :
    Moves cs s0 (syncGroup m valid s) := by
  unfold syncGroup
  repeat' first
    | with_reducible assumption
    | with_reducible apply State.updLane_moves
    | with_reducible apply syncLost_moves
    | intro _
    | split
    | dsimp only

theorem keepGroup_moves {cs : List Part} {s0 s : State} (hm : Moves cs s0 s) (m : Nat) (slot : Nat) (g : BitVec 10) (m0 : Part.lanes ∈ cs) :
    Moves cs s0 (keepGroup m slot g s) := by
  unfold keepGroup
  repeat' first
    | with_reducible assumption
    | with_reducible apply State.updLane_moves
    | intro _
    | split
    | dsimp only

theorem codeGroup_moves {cs : List Part} {s0 s : State} (hm : Moves cs s0 s) (m : Nat) (slot : Nat) (c : Nat) (m0 : Part.regs ∈ cs) :
    Moves cs s0 (codeGroup m slot c s) := by
  unfold codeGroup
  repeat' first
    | with_reducible assumption
    | with_reducible apply State.bump64_moves
    | with_reducible apply State.setFlag_moves
    | with_reducible apply rawRx_moves
    | intro _
    | split
    | dsimp only

theorem alignComma_moves {cs : List Part} {s0 s : State} (hm : Moves cs s0 s) (m : Nat) (c : Nat) (m0 : Part.regs ∈ cs) (m1 : Part.lanes ∈ cs) :
    Moves cs s0 (alignComma m c s) := by
  unfold alignComma
  repeat' first
    | with_reducible assumption
    | with_reducible apply State.setFlag_moves
    | with_reducible apply State.updLane_moves
    | with_reducible apply rawRx_moves
    | intro _
    | split
    | dsimp only

theorem seekGroup_moves {cs : List Part} {s0 s : State} (hm : Moves cs s0 s) (m : Nat) (slot : Nat) (atBoundary : Bool) (c : Nat) (m0 : Part.regs ∈ cs) (m1 : Part.lanes ∈ cs) :
    Moves cs s0 (seekGroup m slot atBoundary c s) := by
  unfold seekGroup
  repeat' first
    | with_reducible assumption
    | with_reducible apply State.updLane_moves
    | with_reducible apply alignComma_moves
    | with_reducible apply codeGroup_moves
    | intro _
    | split
    | dsimp only

theorem takeGroup_moves {cs : List Part} {s0 s : State} (hm : Moves cs s0 s) (m : Nat) (slot : Nat) (atBoundary : Bool) (c : Nat) (m0 : Part.regs ∈ cs) (m1 : Part.lanes ∈ cs) :
    Moves cs s0 (takeGroup m slot atBoundary c s) := by
  unfold takeGroup
  repeat' first
    | with_reducible assumption
    | with_reducible apply codeGroup_moves
    | with_reducible apply commaMisplaced_moves
    | with_reducible apply seekGroup_moves
    | with_reducible apply syncGroup_moves
    | intro _
    | split
    | dsimp only

end Sys2Proof.Machine
end

