-- ==== Sys2Proof/Laws/FrameFrames.lean ====
section
/-!
SUPPORT. Sys2Proof/Laws/FrameFrames.lean: for each operation of Machine/Frames.lean that changes the state, the parts it may change (and
that it keeps storage canonical), once and for all: `Moves` goes through it.
-/
namespace Sys2Proof.Machine
set_option Elab.async false
set_option linter.unusedTactic false
set_option linter.unreachableTactic false

theorem State.updNet_moves {cs : List Part} {s0 s : State} (hm : Moves cs s0 s) (f : NetSt → NetSt) (m0 : Part.net ∈ cs) :
    Moves cs s0 (State.updNet s f) := by
  unfold State.updNet
  repeat' first
    | with_reducible assumption
    | with_reducible apply net_moves
    | intro _
    | split
    | dsimp only

theorem State.updTlm_moves {cs : List Part} {s0 s : State} (hm : Moves cs s0 s) (f : TlmSt → TlmSt) (m0 : Part.tlm ∈ cs) :
    Moves cs s0 (State.updTlm s f) := by
  unfold State.updTlm
  repeat' first
    | with_reducible assumption
    | with_reducible apply tlm_moves
    | intro _
    | split
    | dsimp only

theorem State.updPort_moves {cs : List Part} {s0 s : State} (hm : Moves cs s0 s) (p : Nat) (f : PortSt → PortSt) (m0 : Part.net ∈ cs) :
    Moves cs s0 (State.updPort s p f) := by
  unfold State.updPort
  repeat' first
    | with_reducible assumption
    | with_reducible apply State.updNet_moves
    | intro _
    | split
    | dsimp only

theorem State.setFrame_moves {cs : List Part} {s0 s : State} (hm : Moves cs s0 s) (id : Nat) (f : Frame) (m0 : Part.net ∈ cs) :
    Moves cs s0 (State.setFrame s id f) := by
  unfold State.setFrame
  repeat' first
    | with_reducible assumption
    | with_reducible apply State.updNet_moves
    | intro _
    | split
    | dsimp only

theorem State.dropFrame_moves {cs : List Part} {s0 s : State} (hm : Moves cs s0 s) (id : Nat) (m0 : Part.net ∈ cs) :
    Moves cs s0 (State.dropFrame s id) := by
  unfold State.dropFrame
  repeat' first
    | with_reducible assumption
    | with_reducible apply State.updNet_moves
    | intro _
    | split
    | dsimp only

theorem State.updFrame_moves {cs : List Part} {s0 s : State} (hm : Moves cs s0 s) (id : Nat) (f : Frame → Frame) (m0 : Part.net ∈ cs) :
    Moves cs s0 (State.updFrame s id f) := by
  unfold State.updFrame
  repeat' first
    | with_reducible assumption
    | with_reducible apply State.setFrame_moves
    | intro _
    | split
    | dsimp only

theorem State.setQueue_moves {cs : List Part} {s0 s : State} (hm : Moves cs s0 s) (g : Nat) (l : List Nat) (m0 : Part.net ∈ cs) :
    Moves cs s0 (State.setQueue s g l) := by
  unfold State.setQueue
  repeat' first
    | with_reducible assumption
    | with_reducible apply State.updNet_moves
    | intro _
    | split
    | dsimp only

theorem bumpPort_moves {cs : List Part} {s0 s : State} (hm : Moves cs s0 s) (a : Nat) (p : Nat) (n : Nat) (m0 : Part.regs ∈ cs) :
    Moves cs s0 (bumpPort a p n s) := by
  unfold bumpPort
  repeat' first
    | with_reducible assumption
    | with_reducible apply State.bump64_moves
    | intro _
    | split
    | dsimp only

theorem evtBump_moves {cs : List Part} {s0 s : State} (hm : Moves cs s0 s) (k : Nat) (n : Nat) (m0 : Part.regs ∈ cs) (m1 : Part.tlm ∈ cs) :
    Moves cs s0 (evtBump k n s) := by
  unfold evtBump
  repeat' first
    | with_reducible assumption
    | with_reducible apply State.bump64_moves
    | with_reducible apply State.raise_moves
    | with_reducible apply State.updTlm_moves
    | intro _
    | split
    | dsimp only

theorem evtOccur_moves {cs : List Part} {s0 s : State} (hm : Moves cs s0 s) (e : Nat) (i : Nat) (n : Nat) (m0 : Part.regs ∈ cs) (m1 : Part.tlm ∈ cs) :
    Moves cs s0 (evtOccur e i n s) := by
  unfold evtOccur
  repeat' first
    | with_reducible assumption
    | with_reducible apply evtBump_moves
    | with_reducible apply forUpto_moves
    | intro _
    | split
    | dsimp only

theorem tagShow_moves {cs : List Part} {s0 s : State} (hm : Moves cs s0 s) (f : Frame) (m0 : Part.ind ∈ cs) :
    Moves cs s0 (tagShow f s) := by
  unfold tagShow
  repeat' first
    | with_reducible assumption
    | with_reducible apply State.setIndw_moves
    | intro _
    | split
    | dsimp only

theorem tagStage_moves {cs : List Part} {s0 s : State} (hm : Moves cs s0 s) (f : Frame) (st : Nat) (at' : Nat) (d1 : Nat) (d2 : Nat) (d3 : Nat) (m0 : Part.ind ∈ cs) :
    Moves cs s0 (tagStage f st at' d1 d2 d3 s) := by
  unfold tagStage
  repeat' first
    | with_reducible assumption
    | with_reducible apply State.setIfld_moves
    | with_reducible apply State.setIndw_moves
    | with_reducible apply tagShow_moves
    | intro _
    | split
    | dsimp only

theorem showOpen_moves {cs : List Part} {s0 s : State} (hm : Moves cs s0 s) (m0 : Part.regs ∈ cs) :
    Moves cs s0 (showOpen s) := by
  unfold showOpen
  repeat' first
    | with_reducible assumption
    | with_reducible apply State.setFld_moves
    | intro _
    | split
    | dsimp only

theorem tagClose_moves {cs : List Part} {s0 s : State} (hm : Moves cs s0 s) (f : Frame) (outcome : Nat) (m0 : Part.regs ∈ cs) (m1 : Part.ind ∈ cs) (m2 : Part.tlm ∈ cs) :
    Moves cs s0 (tagClose f outcome s) := by
  unfold tagClose
  repeat' first
    | with_reducible assumption
    | with_reducible apply State.setIfld_moves
    | with_reducible apply State.updTlm_moves
    | with_reducible apply showOpen_moves
    | with_reducible apply tagShow_moves
    | intro _
    | split
    | dsimp only

theorem tagTake_moves {cs : List Part} {s0 s : State} (hm : Moves cs s0 s) (src : Nat) (draw : Word) (m0 : Part.regs ∈ cs) (m1 : Part.ind ∈ cs) (m2 : Part.tlm ∈ cs) :
    Moves cs s0 (tagTake src draw s).2 := by
  unfold tagTake
  repeat' first
    | with_reducible assumption
    | with_reducible apply State.bump32_moves
    | with_reducible apply State.bump64_moves
    | with_reducible apply State.raise_moves
    | with_reducible apply State.setFld_moves
    | with_reducible apply State.setIndw_moves
    | with_reducible apply State.updTlm_moves
    | with_reducible apply evtOccur_moves
    | with_reducible apply showOpen_moves
    | with_reducible apply forUpto_moves
    | intro _
    | split
    | dsimp only
theorem tagTake_moves_eq {cs : List Part} {s0 s v1 : State} {v0} {src : Nat} {draw : Word} (e : tagTake src draw s = (v0, v1)) (hm : Moves cs s0 s) (m0 : Part.regs ∈ cs) (m1 : Part.ind ∈ cs) (m2 : Part.tlm ∈ cs) :
    Moves cs s0 v1 := by
  have := tagTake_moves hm src draw m0 m1 m2
  rwa [e] at this

theorem actTagCtrl_moves {cs : List Part} {s0 s : State} (hm : Moves cs s0 s) (old : Word) (raw : Word) (m0 : Part.tlm ∈ cs) :
    Moves cs s0 (actTagCtrl old raw s) := by
  unfold actTagCtrl
  repeat' first
    | with_reducible assumption
    | with_reducible apply State.updTlm_moves
    | intro _
    | split
    | dsimp only

theorem pfcAsk_moves {cs : List Part} {s0 s : State} (hm : Moves cs s0 s) (p : Nat) (k : Nat) (quanta : Nat) (m0 : Part.net ∈ cs) :
    Moves cs s0 (pfcAsk p k quanta s) := by
  unfold pfcAsk
  repeat' first
    | with_reducible assumption
    | with_reducible apply State.updPort_moves
    | intro _
    | split
    | dsimp only

theorem xoffEval_moves {cs : List Part} {s0 s : State} (hm : Moves cs s0 s) (p : Nat) (k : Nat) (m0 : Part.regs ∈ cs) (m1 : Part.net ∈ cs) :
    Moves cs s0 (xoffEval p k s) := by
  unfold xoffEval
  repeat' first
    | with_reducible assumption
    | with_reducible apply State.setRbit_moves
    | with_reducible apply pfcAsk_moves
    | intro _
    | split
    | dsimp only

theorem recountUsed_moves {cs : List Part} {s0 s : State} (hm : Moves cs s0 s) (m0 : Part.regs ∈ cs) :
    Moves cs s0 (recountUsed s) := by
  unfold recountUsed
  repeat' first
    | with_reducible assumption
    | with_reducible apply State.setFld_moves
    | with_reducible apply forUpto_moves
    | intro _
    | split
    | dsimp only

theorem queueAdd_moves {cs : List Part} {s0 s : State} (hm : Moves cs s0 s) (g : Nat) (p : Nat) (up : Bool) (m0 : Part.regs ∈ cs) (m1 : Part.net ∈ cs) :
    Moves cs s0 (queueAdd g p up s) := by
  unfold queueAdd
  repeat' first
    | with_reducible assumption
    | with_reducible apply State.setFld_moves
    | with_reducible apply State.updNet_moves
    | intro _
    | split
    | dsimp only

theorem sliceAcct_moves {cs : List Part} {s0 s : State} (hm : Moves cs s0 s) (f : Frame) (up : Bool) (m0 : Part.regs ∈ cs) (m1 : Part.net ∈ cs) :
    Moves cs s0 (sliceAcct f up s) := by
  unfold sliceAcct
  repeat' first
    | with_reducible assumption
    | with_reducible apply State.updNet_moves
    | with_reducible apply queueAdd_moves
    | with_reducible apply xoffEval_moves
    | intro _
    | split
    | dsimp only

theorem setFree_moves {cs : List Part} {s0 s : State} (hm : Moves cs s0 s) (n : Nat) (m0 : Part.regs ∈ cs) :
    Moves cs s0 (setFree n s) := by
  unfold setFree
  repeat' first
    | with_reducible assumption
    | with_reducible apply State.raiseIf_moves
    | with_reducible apply State.setFld_moves
    | intro _
    | split
    | dsimp only

theorem State.updBank_moves {cs : List Part} {s0 s : State} (hm : Moves cs s0 s) (b : Nat) (f : BankSt → BankSt) (m0 : Part.net ∈ cs) :
    Moves cs s0 (State.updBank s b f) := by
  unfold State.updBank
  repeat' first
    | with_reducible assumption
    | with_reducible apply State.updNet_moves
    | intro _
    | split
    | dsimp only

theorem freeSlice_moves {cs : List Part} {s0 s : State} (hm : Moves cs s0 s) (n : Nat) (m0 : Part.regs ∈ cs) (m1 : Part.net ∈ cs) :
    Moves cs s0 (freeSlice n s) := by
  unfold freeSlice
  repeat' first
    | with_reducible assumption
    | with_reducible apply State.updBank_moves
    | with_reducible apply setFree_moves
    | intro _
    | split
    | dsimp only

theorem takeSlice_moves {cs : List Part} {s0 s : State} (hm : Moves cs s0 s) (id : Nat) (n : Nat) (f : Frame) (m0 : Part.regs ∈ cs) (m1 : Part.net ∈ cs) :
    Moves cs s0 (takeSlice id n f s) := by
  unfold takeSlice
  repeat' first
    | with_reducible assumption
    | with_reducible apply State.setFrame_moves
    | with_reducible apply State.updBank_moves
    | with_reducible apply setFree_moves
    | with_reducible apply sliceAcct_moves
    | intro _
    | split
    | dsimp only

theorem State.setLost_moves {cs : List Part} {s0 s : State} (hm : Moves cs s0 s) (n : Nat) (x : Option Nat) (m0 : Part.net ∈ cs) :
    Moves cs s0 (State.setLost s n x) := by
  unfold State.setLost
  repeat' first
    | with_reducible assumption
    | with_reducible apply State.updNet_moves
    | intro _
    | split
    | dsimp only

theorem returnSlices_moves {cs : List Part} {s0 s : State} (hm : Moves cs s0 s) (id : Nat) (m0 : Part.regs ∈ cs) (m1 : Part.net ∈ cs) :
    Moves cs s0 (returnSlices id s) := by
  unfold returnSlices
  repeat' first
    | with_reducible assumption
    | with_reducible apply State.setFrame_moves
    | with_reducible apply State.setLost_moves
    | with_reducible apply freeSlice_moves
    | with_reducible apply sliceAcct_moves
    | with_reducible apply foldl_moves
    | intro _
    | split
    | dsimp only

theorem actBufUsed_moves {cs : List Part} {s0 s : State} (hm : Moves cs s0 s) (_old : Word) (_raw : Word) (m0 : Part.regs ∈ cs) :
    Moves cs s0 (actBufUsed _old _raw s) := by
  unfold actBufUsed
  repeat' first
    | with_reducible assumption
    | with_reducible apply recountUsed_moves
    | intro _
    | split
    | dsimp only

theorem actBufPortCfg_moves {cs : List Part} {s0 s : State} (hm : Moves cs s0 s) (p : Nat) (_old : Word) (_raw : Word) (m0 : Part.regs ∈ cs) (m1 : Part.net ∈ cs) :
    Moves cs s0 (actBufPortCfg p _old _raw s) := by
  unfold actBufPortCfg
  repeat' first
    | with_reducible assumption
    | with_reducible apply xoffEval_moves
    | with_reducible apply forUpto_moves
    | intro _
    | split
    | dsimp only

theorem actBufXoff_moves {cs : List Part} {s0 s : State} (hm : Moves cs s0 s) (_old : Word) (_raw : Word) (m0 : Part.regs ∈ cs) (m1 : Part.net ∈ cs) :
    Moves cs s0 (actBufXoff _old _raw s) := by
  unfold actBufXoff
  repeat' first
    | with_reducible assumption
    | with_reducible apply xoffEval_moves
    | with_reducible apply forUpto_moves
    | intro _
    | split
    | dsimp only

theorem unqueue_moves {cs : List Part} {s0 s : State} (hm : Moves cs s0 s) (id : Nat) (m0 : Part.net ∈ cs) :
    Moves cs s0 (unqueue id s) := by
  unfold unqueue
  repeat' first
    | with_reducible assumption
    | with_reducible apply State.setQueue_moves
    | intro _
    | split
    | dsimp only

theorem frameDone_moves {cs : List Part} {s0 s : State} (hm : Moves cs s0 s) (id : Nat) (m0 : Part.regs ∈ cs) (m1 : Part.net ∈ cs) :
    Moves cs s0 (frameDone id s) := by
  unfold frameDone
  repeat' first
    | with_reducible assumption
    | with_reducible apply State.dropFrame_moves
    | with_reducible apply State.updFrame_moves
    | with_reducible apply returnSlices_moves
    | intro _
    | split
    | dsimp only

end Sys2Proof.Machine
end

