-- ==== Sys2Proof/Laws/FrameSched.lean ====
section
/-!
SUPPORT. Sys2Proof/Laws/FrameSched.lean: for each operation of Machine/Sched.lean that changes the state, the parts it may change (and
that it keeps storage canonical), once and for all: `Moves` goes through it.
-/
namespace Sys2Proof.Machine
set_option Elab.async false
set_option linter.unusedTactic false
set_option linter.unreachableTactic false

theorem State.updShaper_moves {cs : List Part} {s0 s : State} (hm : Moves cs s0 s) (i : Nat) (f : ShaperSt → ShaperSt) (m0 : Part.net ∈ cs) :
    Moves cs s0 (State.updShaper s i f) := by
  unfold State.updShaper
  repeat' first
    | with_reducible assumption
    | with_reducible apply State.updNet_moves
    | intro _
    | split
    | dsimp only

theorem setLevel_moves {cs : List Part} {s0 s : State} (hm : Moves cs s0 s) (i : Nat) (x : Int) (m0 : Part.ind ∈ cs) (m1 : Part.net ∈ cs) :
    Moves cs s0 (setLevel i x s) := by
  unfold setLevel
  repeat' first
    | with_reducible assumption
    | with_reducible apply State.setIndw_moves
    | with_reducible apply State.updShaper_moves
    | intro _
    | split
    | dsimp only

theorem shaperRefresh_moves {cs : List Part} {s0 s : State} (hm : Moves cs s0 s) (i : Nat) (m0 : Part.ind ∈ cs) (m1 : Part.net ∈ cs) :
    Moves cs s0 (shaperRefresh i s) := by
  unfold shaperRefresh
  repeat' first
    | with_reducible assumption
    | with_reducible apply State.updShaper_moves
    | with_reducible apply setLevel_moves
    | intro _
    | split
    | dsimp only

theorem shaperCharge_moves {cs : List Part} {s0 s : State} (hm : Moves cs s0 s) (i : Nat) (n : Nat) (m0 : Part.ind ∈ cs) (m1 : Part.net ∈ cs) :
    Moves cs s0 (shaperCharge i n s) := by
  unfold shaperCharge
  repeat' first
    | with_reducible assumption
    | with_reducible apply setLevel_moves
    | intro _
    | split
    | dsimp only

theorem actForgive_moves {cs : List Part} {s0 s : State} (hm : Moves cs s0 s) (_old : Word) (raw : Word) (m0 : Part.net ∈ cs) :
    Moves cs s0 (actForgive _old raw s) := by
  unfold actForgive
  repeat' first
    | with_reducible assumption
    | with_reducible apply State.updShaper_moves
    | intro _
    | split
    | dsimp only

theorem State.updSample_moves {cs : List Part} {s0 s : State} (hm : Moves cs s0 s) (g : Nat) (f : SampleSt → SampleSt) (m0 : Part.net ∈ cs) :
    Moves cs s0 (State.updSample s g f) := by
  unfold State.updSample
  repeat' first
    | with_reducible assumption
    | with_reducible apply State.updNet_moves
    | intro _
    | split
    | dsimp only

theorem schdWrite_moves {cs : List Part} {s0 s : State} (hm : Moves cs s0 s) (waddr : Nat) (d : Word) (m0 : Part.ind ∈ cs) (m1 : Part.net ∈ cs) :
    Moves cs s0 (schdWrite waddr d s) := by
  unfold schdWrite
  repeat' first
    | with_reducible assumption
    | with_reducible apply State.setIndw_moves
    | with_reducible apply State.updSample_moves
    | with_reducible apply State.updShaper_moves
    | with_reducible apply setLevel_moves
    | intro _
    | split
    | dsimp only

theorem setDeficit_moves {cs : List Part} {s0 s : State} (hm : Moves cs s0 s) (g : Nat) (x : Int) (m0 : Part.ind ∈ cs) :
    Moves cs s0 (setDeficit g x s) := by
  unfold setDeficit
  repeat' first
    | with_reducible assumption
    | with_reducible apply State.setIndw_moves
    | intro _
    | split
    | dsimp only

theorem setOpen_moves {cs : List Part} {s0 s : State} (hm : Moves cs s0 s) (p : Nat) (q : Nat) (b : Bool) (m0 : Part.net ∈ cs) :
    Moves cs s0 (setOpen p q b s) := by
  unfold setOpen
  repeat' first
    | with_reducible assumption
    | with_reducible apply State.updPort_moves
    | intro _
    | split
    | dsimp only

theorem dwrrPass_moves {cs : List Part} {s0 y1 : State} (hm : Moves cs s0 y1) (p : Nat) (y0 : List Nat) (m0 : Part.ind ∈ cs) (m1 : Part.net ∈ cs) :
    Moves cs s0 (dwrrPass p y0 y1).2 := by
  induction y0 generalizing y1 with
  | nil =>
    unfold dwrrPass
    repeat' first
      | with_reducible assumption
      | with_reducible apply setDeficit_moves
      | with_reducible apply setOpen_moves
      | intro _
      | split
      | dsimp only
  | cons q qs ih =>
    unfold dwrrPass
    repeat' first
      | with_reducible assumption
      | with_reducible apply ih
      | with_reducible apply setDeficit_moves
      | with_reducible apply setOpen_moves
      | intro _
      | split
      | dsimp only
theorem dwrrPass_moves_eq {cs : List Part} {s0 y1 v1 : State} {v0} {p : Nat} {y0 : List Nat} (e : dwrrPass p y0 y1 = (v0, v1)) (hm : Moves cs s0 y1) (m0 : Part.ind ∈ cs) (m1 : Part.net ∈ cs) :
    Moves cs s0 v1 := by
  have := dwrrPass_moves hm p y0 m0 m1
  rwa [e] at this

theorem dwrrScan_moves {cs : List Part} {s0 y1 : State} (hm : Moves cs s0 y1) (p : Nat) (qs : List Nat) (y0 : Nat) (m0 : Part.ind ∈ cs) (m1 : Part.net ∈ cs) :
    Moves cs s0 (dwrrScan p qs y0 y1).2 := by
  induction y0 generalizing y1 with
  | zero =>
    unfold dwrrScan
    repeat' first
      | with_reducible assumption
      | (refine dwrrPass_moves_eq (by with_reducible assumption) ?_ ?_ ?_ <;> try with_reducible assumption)
      | with_reducible apply dwrrPass_moves
      | intro _
      | split
      | dsimp only
  | succ k ih =>
    unfold dwrrScan
    repeat' first
      | with_reducible assumption
      | with_reducible apply ih
      | (refine dwrrPass_moves_eq (by with_reducible assumption) ?_ ?_ ?_ <;> try with_reducible assumption)
      | with_reducible apply dwrrPass_moves
      | intro _
      | split
      | dsimp only
theorem dwrrScan_moves_eq {cs : List Part} {s0 y1 v1 : State} {v0} {p : Nat} {qs : List Nat} {y0 : Nat} (e : dwrrScan p qs y0 y1 = (v0, v1)) (hm : Moves cs s0 y1) (m0 : Part.ind ∈ cs) (m1 : Part.net ∈ cs) :
    Moves cs s0 v1 := by
  have := dwrrScan_moves hm p qs y0 m0 m1
  rwa [e] at this

theorem dwrr_moves {cs : List Part} {s0 s : State} (hm : Moves cs s0 s) (p : Nat) (top : Nat) (m0 : Part.ind ∈ cs) (m1 : Part.net ∈ cs) :
    Moves cs s0 (dwrr p top s).2 := by
  unfold dwrr
  repeat' first
    | with_reducible assumption
    | (refine dwrrScan_moves_eq (by with_reducible assumption) ?_ ?_ ?_ <;> try with_reducible assumption)
    | with_reducible apply dwrrScan_moves
    | intro _
    | split
    | dsimp only
theorem dwrr_moves_eq {cs : List Part} {s0 s v1 : State} {v0} {p : Nat} {top : Nat} (e : dwrr p top s = (v0, v1)) (hm : Moves cs s0 s) (m0 : Part.ind ∈ cs) (m1 : Part.net ∈ cs) :
    Moves cs s0 v1 := by
  have := dwrr_moves hm p top m0 m1
  rwa [e] at this

theorem enterB_moves {cs : List Part} {s0 s : State} (hm : Moves cs s0 s) (p : Nat) (top : Nat) (m0 : Part.regs ∈ cs) (m1 : Part.ind ∈ cs) (m2 : Part.net ∈ cs) :
    Moves cs s0 (enterB p top s) := by
  unfold enterB
  repeat' first
    | with_reducible assumption
    | with_reducible apply State.setFld_moves
    | with_reducible apply setDeficit_moves
    | with_reducible apply setOpen_moves
    | with_reducible apply forUpto_moves
    | intro _
    | split
    | dsimp only

theorem profileTakes_moves {cs : List Part} {s0 s : State} (hm : Moves cs s0 s) (p : Nat) (m0 : Part.regs ∈ cs) (m1 : Part.ind ∈ cs) (m2 : Part.net ∈ cs) :
    Moves cs s0 (profileTakes p s) := by
  unfold profileTakes
  repeat' first
    | with_reducible assumption
    | with_reducible apply State.updPort_moves
    | with_reducible apply enterB_moves
    | intro _
    | split
    | dsimp only

theorem chooseQueue_moves {cs : List Part} {s0 s : State} (hm : Moves cs s0 s) (p : Nat) (m0 : Part.ind ∈ cs) (m1 : Part.net ∈ cs) :
    Moves cs s0 (chooseQueue p s).2 := by
  unfold chooseQueue
  repeat' first
    | with_reducible assumption
    | (refine dwrr_moves_eq (by with_reducible assumption) ?_ ?_ ?_ <;> try with_reducible assumption)
    | with_reducible apply dwrr_moves
    | intro _
    | split
    | dsimp only
theorem chooseQueue_moves_eq {cs : List Part} {s0 s v1 : State} {v0} {p : Nat} (e : chooseQueue p s = (v0, v1)) (hm : Moves cs s0 s) (m0 : Part.ind ∈ cs) (m1 : Part.net ∈ cs) :
    Moves cs s0 v1 := by
  have := chooseQueue_moves hm p m0 m1
  rwa [e] at this

theorem queueEmptied_moves {cs : List Part} {s0 s : State} (hm : Moves cs s0 s) (p : Nat) (q : Nat) (m0 : Part.ind ∈ cs) (m1 : Part.net ∈ cs) :
    Moves cs s0 (queueEmptied p q s) := by
  unfold queueEmptied
  repeat' first
    | with_reducible assumption
    | with_reducible apply setDeficit_moves
    | with_reducible apply setOpen_moves
    | intro _
    | split
    | dsimp only

theorem takeFromQueue_moves {cs : List Part} {s0 s : State} (hm : Moves cs s0 s) (id : Nat) (f : Frame) (m0 : Part.ind ∈ cs) (m1 : Part.net ∈ cs) :
    Moves cs s0 (takeFromQueue id f s) := by
  unfold takeFromQueue
  repeat' first
    | with_reducible assumption
    | with_reducible apply queueEmptied_moves
    | with_reducible apply unqueue_moves
    | intro _
    | split
    | dsimp only

theorem settleSched_moves {cs : List Part} {s0 s : State} (hm : Moves cs s0 s) (f : Frame) (len : Nat) (m0 : Part.ind ∈ cs) (m1 : Part.net ∈ cs) :
    Moves cs s0 (settleSched f len s) := by
  unfold settleSched
  repeat' first
    | with_reducible assumption
    | with_reducible apply setDeficit_moves
    | with_reducible apply setLevel_moves
    | with_reducible apply foldl_moves
    | intro _
    | split
    | dsimp only

end Sys2Proof.Machine
end

