-- ==== Sys2Proof/Laws/FrameSid.lean ====
section
/-!
SUPPORT. Sys2Proof/Laws/FrameSid.lean: for each operation of Machine/Sid.lean that changes the state, the parts it may change (and
that it keeps storage canonical), once and for all: `Moves` goes through it.
-/
namespace Sys2Proof.Machine
set_option Elab.async false
set_option linter.unusedTactic false
set_option linter.unreachableTactic false

theorem State.updSid_moves {cs : List Part} {s0 s : State} (hm : Moves cs s0 s) (i : Nat) (f : SidSt → SidSt) (m0 : Part.net ∈ cs) :
    Moves cs s0 (State.updSid s i f) := by
  unfold State.updSid
  repeat' first
    | with_reducible assumption
    | with_reducible apply State.updNet_moves
    | intro _
    | split
    | dsimp only

theorem sidBump_moves {cs : List Part} {s0 s : State} (hm : Moves cs s0 s) (a : Nat) (i : Nat) (n : Nat) (m0 : Part.regs ∈ cs) :
    Moves cs s0 (sidBump a i n s) := by
  unfold sidBump
  repeat' first
    | with_reducible assumption
    | with_reducible apply State.bump32_moves
    | intro _
    | split
    | dsimp only

theorem sidRecover_moves {cs : List Part} {s0 s : State} (hm : Moves cs s0 s) (i : Nat) (n : Nat) (m0 : Part.regs ∈ cs) (m1 : Part.net ∈ cs) :
    Moves cs s0 (sidRecover i n s).2 := by
  unfold sidRecover
  repeat' first
    | with_reducible assumption
    | with_reducible apply State.setFlag_moves
    | with_reducible apply State.setFld_moves
    | with_reducible apply State.updSid_moves
    | with_reducible apply sidBump_moves
    | intro _
    | split
    | dsimp only
theorem sidRecover_moves_eq {cs : List Part} {s0 s v1 : State} {v0} {i : Nat} {n : Nat} (e : sidRecover i n s = (v0, v1)) (hm : Moves cs s0 s) (m0 : Part.regs ∈ cs) (m1 : Part.net ∈ cs) :
    Moves cs s0 v1 := by
  have := sidRecover_moves hm i n m0 m1
  rwa [e] at this

theorem sidPass_moves {cs : List Part} {s0 s : State} (hm : Moves cs s0 s) (vid : Nat) (bs : List Byte) (m0 : Part.regs ∈ cs) (m1 : Part.net ∈ cs) :
    Moves cs s0 (sidPass vid bs s).2 := by
  unfold sidPass
  repeat' first
    | with_reducible assumption
    | with_reducible apply State.updSid_moves
    | with_reducible apply sidBump_moves
    | (refine sidRecover_moves_eq (by with_reducible assumption) ?_ ?_ ?_ <;> try with_reducible assumption)
    | with_reducible apply sidRecover_moves
    | intro _
    | split
    | dsimp only
theorem sidPass_moves_eq {cs : List Part} {s0 s v1 : State} {v0} {vid : Nat} {bs : List Byte} (e : sidPass vid bs s = (v0, v1)) (hm : Moves cs s0 s) (m0 : Part.regs ∈ cs) (m1 : Part.net ∈ cs) :
    Moves cs s0 v1 := by
  have := sidPass_moves hm vid bs m0 m1
  rwa [e] at this

theorem actSidCfg_moves {cs : List Part} {s0 s : State} (hm : Moves cs s0 s) (i : Nat) (old : Word) (raw : Word) (m0 : Part.regs ∈ cs) (m1 : Part.net ∈ cs) :
    Moves cs s0 (actSidCfg i old raw s) := by
  unfold actSidCfg
  repeat' first
    | with_reducible assumption
    | with_reducible apply State.setFlag_moves
    | with_reducible apply State.updSid_moves
    | intro _
    | split
    | dsimp only

theorem sidCheck_moves {cs : List Part} {s0 s : State} (hm : Moves cs s0 s) (i : Nat) (m0 : Part.regs ∈ cs) (m1 : Part.net ∈ cs) :
    Moves cs s0 (sidCheck i s) := by
  unfold sidCheck
  repeat' first
    | with_reducible assumption
    | with_reducible apply State.setFlag_moves
    | with_reducible apply State.updSid_moves
    | with_reducible apply sidBump_moves
    | intro _
    | split
    | dsimp only

theorem State.updPol_moves {cs : List Part} {s0 s : State} (hm : Moves cs s0 s) (i : Nat) (f : PolSt → PolSt) (m0 : Part.net ∈ cs) :
    Moves cs s0 (State.updPol s i f) := by
  unfold State.updPol
  repeat' first
    | with_reducible assumption
    | with_reducible apply State.updNet_moves
    | intro _
    | split
    | dsimp only

theorem polBump_moves {cs : List Part} {s0 s : State} (hm : Moves cs s0 s) (a : Nat) (i : Nat) (m0 : Part.regs ∈ cs) :
    Moves cs s0 (polBump a i s) := by
  unfold polBump
  repeat' first
    | with_reducible assumption
    | with_reducible apply State.bump32_moves
    | intro _
    | split
    | dsimp only

theorem actPolCfg_moves {cs : List Part} {s0 s : State} (hm : Moves cs s0 s) (i : Nat) (old : Word) (_raw : Word) (m0 : Part.regs ∈ cs) (m1 : Part.net ∈ cs) :
    Moves cs s0 (actPolCfg i old _raw s) := by
  unfold actPolCfg
  repeat' first
    | with_reducible assumption
    | with_reducible apply State.raise_moves
    | with_reducible apply State.setReg_moves
    | with_reducible apply State.updPol_moves
    | intro _
    | split
    | dsimp only

theorem meter_moves {cs : List Part} {s0 s : State} (hm : Moves cs s0 s) (i : Nat) (b : Nat) (dei : Bool) (m0 : Part.regs ∈ cs) (m1 : Part.net ∈ cs) (m2 : Part.tlm ∈ cs) :
    Moves cs s0 (meter i b dei s).2 := by
  unfold meter
  repeat' first
    | with_reducible assumption
    | with_reducible apply State.updPol_moves
    | with_reducible apply evtOccur_moves
    | with_reducible apply polBump_moves
    | intro _
    | split
    | dsimp only
theorem meter_moves_eq {cs : List Part} {s0 s v1 : State} {v0} {i : Nat} {b : Nat} {dei : Bool} (e : meter i b dei s = (v0, v1)) (hm : Moves cs s0 s) (m0 : Part.regs ∈ cs) (m1 : Part.net ∈ cs) (m2 : Part.tlm ∈ cs) :
    Moves cs s0 v1 := by
  have := meter_moves hm i b dei m0 m1 m2
  rwa [e] at this

theorem settlePol_moves {cs : List Part} {s0 s : State} (hm : Moves cs s0 s) (f : Frame) (len : Nat) (m0 : Part.net ∈ cs) :
    Moves cs s0 (settlePol f len s) := by
  unfold settlePol
  repeat' first
    | with_reducible assumption
    | with_reducible apply State.updPol_moves
    | intro _
    | split
    | dsimp only

end Sys2Proof.Machine
end

