-- ==== Sys2Proof/Laws/FrameMet.lean ====
section
/-!
SUPPORT. Sys2Proof/Laws/FrameMet.lean: for each operation of Machine/Met.lean that changes the state, the parts it may change (and
that it keeps storage canonical), once and for all: `Moves` goes through it.
-/
namespace Sys2Proof.Machine
set_option Elab.async false
set_option linter.unusedTactic false
set_option linter.unreachableTactic false

theorem State.updMet_moves {cs : List Part} {s0 s : State} (hm : Moves cs s0 s) (f : MetSt → MetSt) (m0 : Part.met ∈ cs) :
    Moves cs s0 (State.updMet s f) := by
  unfold State.updMet
  repeat' first
    | with_reducible assumption
    | with_reducible apply met_moves
    | intro _
    | split
    | dsimp only

theorem State.updSlot_moves {cs : List Part} {s0 s : State} (hm : Moves cs s0 s) (i : Nat) (f : MetSlot → MetSlot) (m0 : Part.met ∈ cs) :
    Moves cs s0 (State.updSlot s i f) := by
  unfold State.updSlot
  repeat' first
    | with_reducible assumption
    | with_reducible apply State.updMet_moves
    | intro _
    | split
    | dsimp only

theorem State.updCell_moves {cs : List Part} {s0 s : State} (hm : Moves cs s0 s) (c : Nat) (f : MetCell → MetCell) (m0 : Part.met ∈ cs) :
    Moves cs s0 (State.updCell s c f) := by
  unfold State.updCell
  repeat' first
    | with_reducible assumption
    | with_reducible apply State.updMet_moves
    | intro _
    | split
    | dsimp only

theorem metWordWrite_moves {cs : List Part} {s0 s : State} (hm : Moves cs s0 s) (waddr : Nat) (d : Word) (m0 : Part.regs ∈ cs) (m1 : Part.ind ∈ cs) :
    Moves cs s0 (metWordWrite waddr d s) := by
  unfold metWordWrite
  repeat' first
    | with_reducible assumption
    | with_reducible apply State.raise_moves
    | with_reducible apply State.setIndw_moves
    | intro _
    | split
    | dsimp only

theorem tableExchange_moves {cs : List Part} {s0 s : State} (hm : Moves cs s0 s) (c : Nat) (m0 : Part.regs ∈ cs) (m1 : Part.met ∈ cs) :
    Moves cs s0 (tableExchange c s) := by
  unfold tableExchange
  repeat' first
    | with_reducible assumption
    | with_reducible apply State.setFlag_moves
    | with_reducible apply State.updCell_moves
    | intro _
    | split
    | dsimp only

theorem actTableLoad_moves {cs : List Part} {s0 s : State} (hm : Moves cs s0 s) (_old : Word) (raw : Word) (m0 : Part.regs ∈ cs) (m1 : Part.met ∈ cs) :
    Moves cs s0 (actTableLoad _old raw s) := by
  unfold actTableLoad
  repeat' first
    | with_reducible assumption
    | with_reducible apply State.raise_moves
    | with_reducible apply State.updCell_moves
    | with_reducible apply forUpto_moves
    | intro _
    | split
    | dsimp only

theorem floorErr_moves {cs : List Part} {s0 s : State} (hm : Moves cs s0 s) (c : Nat) (m0 : Part.regs ∈ cs) :
    Moves cs s0 (floorErr c s) := by
  unfold floorErr
  repeat' first
    | with_reducible assumption
    | with_reducible apply State.bump32_moves
    | with_reducible apply State.raise_moves
    | intro _
    | split
    | dsimp only

theorem validResult_moves {cs : List Part} {s0 s : State} (hm : Moves cs s0 s) (c : Nat) (m0 : Part.regs ∈ cs) :
    Moves cs s0 (validResult c s) := by
  unfold validResult
  repeat' first
    | with_reducible assumption
    | with_reducible apply State.bump64_moves
    | intro _
    | split
    | dsimp only

theorem slotResult_moves {cs : List Part} {s0 s : State} (hm : Moves cs s0 s) (i : Nat) (c : Nat) (p : Nat) (coarse : Nat) (m0 : Part.regs ∈ cs) (m1 : Part.met ∈ cs) :
    Moves cs s0 (slotResult i c p coarse s) := by
  unfold slotResult
  repeat' first
    | with_reducible assumption
    | with_reducible apply State.setReg_moves
    | with_reducible apply State.updSlot_moves
    | with_reducible apply validResult_moves
    | intro _
    | split
    | dsimp only

theorem slotNoEdge_moves {cs : List Part} {s0 s : State} (hm : Moves cs s0 s) (i : Nat) (c : Nat) (m0 : Part.regs ∈ cs) :
    Moves cs s0 (slotNoEdge i c s) := by
  unfold slotNoEdge
  repeat' first
    | with_reducible assumption
    | with_reducible apply State.setReg_moves
    | intro _
    | split
    | dsimp only

theorem slotInvalid_moves {cs : List Part} {s0 s : State} (hm : Moves cs s0 s) (i : Nat) (c : Nat) (p : Nat) (coarse : Nat) (m0 : Part.regs ∈ cs) :
    Moves cs s0 (slotInvalid i c p coarse s) := by
  unfold slotInvalid
  repeat' first
    | with_reducible assumption
    | with_reducible apply State.setReg_moves
    | intro _
    | split
    | dsimp only

theorem countHit_moves {cs : List Part} {s0 s : State} (hm : Moves cs s0 s) (c : Nat) (k : BitVec 12) (m0 : Part.ind ∈ cs) (m1 : Part.met ∈ cs) :
    Moves cs s0 (countHit c k s) := by
  unfold countHit
  repeat' first
    | with_reducible assumption
    | with_reducible apply State.setIndw_moves
    | with_reducible apply State.updCell_moves
    | intro _
    | split
    | dsimp only

theorem sourceConversion_moves {cs : List Part} {s0 s : State} (hm : Moves cs s0 s) (i : Nat) (c : Nat) (code : Option (BitVec 12)) (coarse : Nat) (hit : Bool) (m0 : Part.regs ∈ cs) (m1 : Part.ind ∈ cs) (m2 : Part.met ∈ cs) :
    Moves cs s0 (sourceConversion i c code coarse hit s) := by
  unfold sourceConversion
  repeat' first
    | with_reducible assumption
    | with_reducible apply countHit_moves
    | with_reducible apply floorErr_moves
    | with_reducible apply slotInvalid_moves
    | with_reducible apply slotNoEdge_moves
    | with_reducible apply slotResult_moves
    | intro _
    | split
    | dsimp only

theorem pilotConversion_moves {cs : List Part} {s0 s : State} (hm : Moves cs s0 s) (c : Nat) (code : Option (BitVec 12)) (m0 : Part.regs ∈ cs) (m1 : Part.met ∈ cs) :
    Moves cs s0 (pilotConversion c code s) := by
  unfold pilotConversion
  repeat' first
    | with_reducible assumption
    | with_reducible apply State.updCell_moves
    | with_reducible apply floorErr_moves
    | with_reducible apply validResult_moves
    | intro _
    | split
    | dsimp only

theorem randomConversion_moves {cs : List Part} {s0 s : State} (hm : Moves cs s0 s) (c : Nat) (code : Option (BitVec 12)) (m0 : Part.regs ∈ cs) (m1 : Part.ind ∈ cs) (m2 : Part.met ∈ cs) :
    Moves cs s0 (randomConversion c code s) := by
  unfold randomConversion
  repeat' first
    | with_reducible assumption
    | with_reducible apply countHit_moves
    | with_reducible apply floorErr_moves
    | with_reducible apply validResult_moves
    | intro _
    | split
    | dsimp only

theorem metLoad_moves {cs : List Part} {s0 s : State} (hm : Moves cs s0 s) (m0 : Part.regs ∈ cs) :
    Moves cs s0 (metLoad s) := by
  unfold metLoad
  repeat' first
    | with_reducible assumption
    | with_reducible apply State.setFld_moves
    | intro _
    | split
    | dsimp only

theorem metCommit_moves {cs : List Part} {s0 s : State} (hm : Moves cs s0 s) (m0 : Part.regs ∈ cs) (m1 : Part.met ∈ cs) :
    Moves cs s0 (metCommit s) := by
  unfold metCommit
  repeat' first
    | with_reducible assumption
    | with_reducible apply State.raise_moves
    | with_reducible apply State.setFlag_moves
    | with_reducible apply State.updMet_moves
    | intro _
    | split
    | dsimp only

theorem actBankCtrl_moves {cs : List Part} {s0 s : State} (hm : Moves cs s0 s) (_old : Word) (raw : Word) (m0 : Part.regs ∈ cs) (m1 : Part.met ∈ cs) :
    Moves cs s0 (actBankCtrl _old raw s) := by
  unfold actBankCtrl
  repeat' first
    | with_reducible assumption
    | with_reducible apply metCommit_moves
    | intro _
    | split
    | dsimp only

theorem clearWindows_moves {cs : List Part} {s0 s : State} (hm : Moves cs s0 s) (m0 : Part.met ∈ cs) :
    Moves cs s0 (clearWindows s) := by
  unfold clearWindows
  repeat' first
    | with_reducible assumption
    | with_reducible apply State.updSlot_moves
    | with_reducible apply foldl_moves
    | intro _
    | split
    | dsimp only

theorem clearPilots_moves {cs : List Part} {s0 s : State} (hm : Moves cs s0 s) (m0 : Part.met ∈ cs) :
    Moves cs s0 (clearPilots s) := by
  unfold clearPilots
  repeat' first
    | with_reducible assumption
    | with_reducible apply State.updCell_moves
    | with_reducible apply forUpto_moves
    | intro _
    | split
    | dsimp only

theorem showCell_moves {cs : List Part} {s0 s : State} (hm : Moves cs s0 s) (c : Nat) (m0 : Part.regs ∈ cs) :
    Moves cs s0 (showCell c s) := by
  unfold showCell
  repeat' first
    | with_reducible assumption
    | with_reducible apply State.setFld_moves
    | intro _
    | split
    | dsimp only

theorem setStale_moves {cs : List Part} {s0 s : State} (hm : Moves cs s0 s) (i : Nat) (b : Bool) (m0 : Part.regs ∈ cs) (m1 : Part.met ∈ cs) :
    Moves cs s0 (setStale i b s) := by
  unfold setStale
  repeat' first
    | with_reducible assumption
    | with_reducible apply State.setFlag_moves
    | with_reducible apply State.updSlot_moves
    | intro _
    | split
    | dsimp only

theorem settleSource_moves {cs : List Part} {s0 t : State} (hm : Moves cs s0 t) (before : State) (i : Nat) (m0 : Part.regs ∈ cs) (m1 : Part.met ∈ cs) :
    Moves cs s0 (settleSource before t i) := by
  unfold settleSource
  repeat' first
    | with_reducible assumption
    | with_reducible apply State.updSlot_moves
    | with_reducible apply setStale_moves
    | intro _
    | split
    | dsimp only

theorem withHolds_moves {cs : List Part} {s0 s : State} (hm : Moves cs s0 s) (f : State → State) (hf : ∀ z0, Moves cs s0 z0 → Moves cs s0 (f z0)) (m0 : Part.regs ∈ cs) (m1 : Part.met ∈ cs) :
    Moves cs s0 (withHolds f s) := by
  unfold withHolds
  repeat' first
    | with_reducible assumption
    | with_reducible apply settleSource_moves
    | with_reducible apply hf
    | with_reducible apply foldl_moves
    | intro _
    | split
    | dsimp only

theorem cellsTo_moves {cs : List Part} {s0 s : State} (hm : Moves cs s0 s) (b : Nat) (m0 : Part.met ∈ cs) :
    Moves cs s0 (cellsTo b s) := by
  unfold cellsTo
  repeat' first
    | with_reducible assumption
    | with_reducible apply State.updCell_moves
    | with_reducible apply forUpto_moves
    | intro _
    | split
    | dsimp only

theorem roundBoundary_moves {cs : List Part} {s0 s : State} (hm : Moves cs s0 s) (m0 : Part.regs ∈ cs) (m1 : Part.met ∈ cs) :
    Moves cs s0 (roundBoundary s) := by
  unfold roundBoundary
  repeat' first
    | with_reducible assumption
    | with_reducible apply State.raise_moves
    | with_reducible apply State.setFlag_moves
    | with_reducible apply State.setFld_moves
    | with_reducible apply State.updMet_moves
    | with_reducible apply cellsTo_moves
    | with_reducible apply clearWindows_moves
    | with_reducible apply metLoad_moves
    | with_reducible apply showCell_moves
    | with_reducible apply withHolds_moves
    | intro _
    | split
    | dsimp only

theorem actSrcCfg_moves {cs : List Part} {s0 s : State} (hm : Moves cs s0 s) (i : Nat) (_old : Word) (_raw : Word) (m0 : Part.regs ∈ cs) (m1 : Part.met ∈ cs) :
    Moves cs s0 (actSrcCfg i _old _raw s) := by
  unfold actSrcCfg
  repeat' first
    | with_reducible assumption
    | with_reducible apply State.setReg_moves
    | with_reducible apply State.updSlot_moves
    | with_reducible apply metLoad_moves
    | with_reducible apply setStale_moves
    | intro _
    | split
    | dsimp only

theorem clearHist_moves {cs : List Part} {s0 s : State} (hm : Moves cs s0 s) (c : Nat) (m0 : Part.ind ∈ cs) :
    Moves cs s0 (clearHist c s) := by
  exact ind_moves hm _ (SMapWf.filter _) m0

theorem cdStart_moves {cs : List Part} {s0 s : State} (hm : Moves cs s0 s) (c : Nat) (m0 : Part.regs ∈ cs) (m1 : Part.ind ∈ cs) (m2 : Part.met ∈ cs) :
    Moves cs s0 (cdStart c s) := by
  unfold cdStart
  repeat' first
    | with_reducible assumption
    | with_reducible apply State.setRbit_moves
    | with_reducible apply State.updCell_moves
    | with_reducible apply clearHist_moves
    | intro _
    | split
    | dsimp only

theorem cdFinish_moves {cs : List Part} {s0 s : State} (hm : Moves cs s0 s) (c : Nat) (m0 : Part.regs ∈ cs) (m1 : Part.ind ∈ cs) (m2 : Part.met ∈ cs) :
    Moves cs s0 (cdFinish c s) := by
  unfold cdFinish
  repeat' first
    | with_reducible assumption
    | with_reducible apply State.raise_moves
    | with_reducible apply State.setFlag_moves
    | with_reducible apply State.setIndw_moves
    | with_reducible apply State.setRbit_moves
    | with_reducible apply State.setReg_moves
    | with_reducible apply State.updCell_moves
    | with_reducible apply foldl_moves
    | intro _
    | split
    | dsimp only

theorem cdAbandon_moves {cs : List Part} {s0 s : State} (hm : Moves cs s0 s) (c : Nat) (m0 : Part.regs ∈ cs) :
    Moves cs s0 (cdAbandon c s) := by
  unfold cdAbandon
  repeat' first
    | with_reducible assumption
    | with_reducible apply State.setFlag_moves
    | with_reducible apply State.setFld_moves
    | with_reducible apply State.setRbit_moves
    | intro _
    | split
    | dsimp only

theorem takeOut_moves {cs : List Part} {s0 s : State} (hm : Moves cs s0 s) (c : Nat) (m0 : Part.regs ∈ cs) (m1 : Part.met ∈ cs) :
    Moves cs s0 (takeOut c s) := by
  unfold takeOut
  repeat' first
    | with_reducible assumption
    | with_reducible apply State.raise_moves
    | with_reducible apply State.setFld_moves
    | with_reducible apply State.setRbit_moves
    | with_reducible apply State.updMet_moves
    | with_reducible apply showCell_moves
    | intro _
    | split
    | dsimp only

theorem actCellReturn_moves {cs : List Part} {s0 s : State} (hm : Moves cs s0 s) (_old : Word) (raw : Word) (m0 : Part.regs ∈ cs) (m1 : Part.met ∈ cs) :
    Moves cs s0 (actCellReturn _old raw s) := by
  unfold actCellReturn
  repeat' first
    | with_reducible assumption
    | with_reducible apply State.setRbit_moves
    | with_reducible apply State.updMet_moves
    | with_reducible apply showCell_moves
    | with_reducible apply forUpto_moves
    | intro _
    | split
    | dsimp only

theorem metInvalidate_moves {cs : List Part} {s0 s : State} (hm : Moves cs s0 s) (m0 : Part.regs ∈ cs) (m1 : Part.met ∈ cs) :
    Moves cs s0 (metInvalidate s) := by
  unfold metInvalidate
  repeat' first
    | with_reducible assumption
    | with_reducible apply State.bump32_moves
    | with_reducible apply State.raise_moves
    | with_reducible apply State.updCell_moves
    | with_reducible apply State.updMet_moves
    | with_reducible apply forUpto_moves
    | intro _
    | split
    | dsimp only

theorem State.updExt_moves {cs : List Part} {s0 s : State} (hm : Moves cs s0 s) (f : ExtSt → ExtSt) (m0 : Part.met ∈ cs) :
    Moves cs s0 (State.updExt s f) := by
  unfold State.updExt
  repeat' first
    | with_reducible assumption
    | with_reducible apply State.updMet_moves
    | intro _
    | split
    | dsimp only

theorem extPush_moves {cs : List Part} {s0 s : State} (hm : Moves cs s0 s) (timeout : Bool) (refLost : Bool) (m0 : Part.regs ∈ cs) (m1 : Part.met ∈ cs) :
    Moves cs s0 (extPush timeout refLost s) := by
  unfold extPush
  repeat' first
    | with_reducible assumption
    | with_reducible apply State.raise_moves
    | with_reducible apply State.updExt_moves
    | intro _
    | split
    | dsimp only

theorem actExtCtrl_moves {cs : List Part} {s0 s : State} (hm : Moves cs s0 s) (old : Word) (raw : Word) (m0 : Part.regs ∈ cs) :
    Moves cs s0 (actExtCtrl old raw s) := by
  unfold actExtCtrl
  repeat' first
    | with_reducible assumption
    | with_reducible apply State.raise_moves
    | with_reducible apply State.setFlag_moves
    | intro _
    | split
    | dsimp only

theorem extArm_moves {cs : List Part} {s0 s : State} (hm : Moves cs s0 s) (m0 : Part.regs ∈ cs) (m1 : Part.met ∈ cs) :
    Moves cs s0 (extArm s) := by
  unfold extArm
  repeat' first
    | with_reducible assumption
    | with_reducible apply State.raise_moves
    | with_reducible apply State.updExt_moves
    | intro _
    | split
    | dsimp only

theorem actExtCmd_moves {cs : List Part} {s0 s : State} (hm : Moves cs s0 s) (_old : Word) (raw : Word) (m0 : Part.regs ∈ cs) (m1 : Part.met ∈ cs) :
    Moves cs s0 (actExtCmd _old raw s) := by
  unfold actExtCmd
  repeat' first
    | with_reducible assumption
    | with_reducible apply State.updExt_moves
    | with_reducible apply extArm_moves
    | intro _
    | split
    | dsimp only

theorem actAsym_moves {cs : List Part} {s0 s : State} (hm : Moves cs s0 s) (p : Nat) (_old : Word) (_raw : Word) (m0 : Part.regs ∈ cs) :
    Moves cs s0 (actAsym p _old _raw s) := by
  unfold actAsym
  repeat' first
    | with_reducible assumption
    | with_reducible apply State.raiseIf_moves
    | with_reducible apply State.setReg_moves
    | intro _
    | split
    | dsimp only

theorem extStart_moves {cs : List Part} {s0 s : State} (hm : Moves cs s0 s) (onDie : Bool) (rising : Bool) (code : BitVec 12) (coarse : Nat) (m0 : Part.regs ∈ cs) (m1 : Part.met ∈ cs) :
    Moves cs s0 (extStart onDie rising code coarse s) := by
  unfold extStart
  repeat' first
    | with_reducible assumption
    | with_reducible apply State.updExt_moves
    | with_reducible apply floorErr_moves
    | with_reducible apply validResult_moves
    | intro _
    | split
    | dsimp only

theorem extStop_moves {cs : List Part} {s0 s : State} (hm : Moves cs s0 s) (src : StopSrc) (rising : Bool) (code : BitVec 12) (coarse : Nat) (m0 : Part.regs ∈ cs) (m1 : Part.met ∈ cs) :
    Moves cs s0 (extStop src rising code coarse s) := by
  unfold extStop
  repeat' first
    | with_reducible assumption
    | with_reducible apply State.updExt_moves
    | with_reducible apply floorErr_moves
    | with_reducible apply validResult_moves
    | intro _
    | split
    | dsimp only

end Sys2Proof.Machine
end

