-- ==== Sys2Proof/Laws/FrameStamps.lean ====
section
/-!
SUPPORT. Sys2Proof/Laws/FrameStamps.lean: for each operation of Machine/Stamps.lean that changes the state, the parts it may change (and
that it keeps storage canonical), once and for all: `Moves` goes through it.
-/
namespace Sys2Proof.Machine
set_option Elab.async false
set_option linter.unusedTactic false
set_option linter.unreachableTactic false

theorem setFix_moves {cs : List Part} {s0 s : State} (hm : Moves cs s0 s) (p : Nat) (x : Word × Word) (m0 : Part.regs ∈ cs) :
    Moves cs s0 (setFix p x s) := by
  unfold setFix
  repeat' first
    | with_reducible assumption
    | with_reducible apply State.setReg_moves
    | intro _
    | split
    | dsimp only

theorem portFix_moves {cs : List Part} {s0 s : State} (hm : Moves cs s0 s) (p : Nat) (m0 : Part.regs ∈ cs) (m1 : Part.net ∈ cs) :
    Moves cs s0 (portFix p s) := by
  unfold portFix
  repeat' first
    | with_reducible assumption
    | with_reducible apply State.updPort_moves
    | with_reducible apply setFix_moves
    | intro _
    | split
    | dsimp only

theorem timingFix_moves {cs : List Part} {s0 s : State} (hm : Moves cs s0 s) (m : Fin 32) (m0 : Part.regs ∈ cs) :
    Moves cs s0 (timingFix m s) := by
  unfold timingFix
  repeat' first
    | with_reducible assumption
    | with_reducible apply setFix_moves
    | intro _
    | split
    | dsimp only

end Sys2Proof.Machine
end

