-- ==== Sys2Proof/Laws/FramePort.lean ====
section
/-!
SUPPORT. Sys2Proof/Laws/FramePort.lean: for each operation of Machine/Port.lean that changes the state, the parts it may change (and
that it keeps storage canonical), once and for all: `Moves` goes through it.
-/
namespace Sys2Proof.Machine
set_option Elab.async false
set_option linter.unusedTactic false
set_option linter.unreachableTactic false

theorem quarantine_moves {cs : List Part} {s0 s : State} (hm : Moves cs s0 s) (p : Nat) (m0 : Part.regs ∈ cs) :
    Moves cs s0 (quarantine p s) := by
  unfold quarantine
  repeat' first
    | with_reducible assumption
    | with_reducible apply State.raise_moves
    | with_reducible apply State.setFlag_moves
    | intro _
    | split
    | dsimp only

theorem truncCount_moves {cs : List Part} {s0 s : State} (hm : Moves cs s0 s) (src : Nat) (m0 : Part.regs ∈ cs) :
    Moves cs s0 (truncCount src s) := by
  unfold truncCount
  repeat' first
    | with_reducible assumption
    | with_reducible apply State.bump64_moves
    | intro _
    | split
    | dsimp only

theorem foundBad_moves {cs : List Part} {s0 s : State} (hm : Moves cs s0 s) (id : Nat) (c : BadCause) (m0 : Part.regs ∈ cs) (m1 : Part.ind ∈ cs) (m2 : Part.net ∈ cs) (m3 : Part.tlm ∈ cs) :
    Moves cs s0 (foundBad id c s) := by
  unfold foundBad
  repeat' first
    | with_reducible assumption
    | with_reducible apply State.setFrame_moves
    | with_reducible apply frameDone_moves
    | with_reducible apply quarantine_moves
    | with_reducible apply tagClose_moves
    | with_reducible apply takeFromQueue_moves
    | with_reducible apply truncCount_moves
    | intro _
    | split
    | dsimp only

theorem cutShort_moves {cs : List Part} {s0 s : State} (hm : Moves cs s0 s) (id : Nat) (m0 : Part.regs ∈ cs) (m1 : Part.ind ∈ cs) (m2 : Part.net ∈ cs) (m3 : Part.tlm ∈ cs) :
    Moves cs s0 (cutShort id s) := by
  unfold cutShort
  repeat' first
    | with_reducible assumption
    | with_reducible apply State.dropFrame_moves
    | with_reducible apply State.setFrame_moves
    | with_reducible apply foundBad_moves
    | with_reducible apply settlePol_moves
    | with_reducible apply settleSched_moves
    | intro _
    | split
    | dsimp only

theorem ingressDown_moves {cs : List Part} {s0 s : State} (hm : Moves cs s0 s) (p : Nat) (m0 : Part.regs ∈ cs) (m1 : Part.ind ∈ cs) (m2 : Part.net ∈ cs) (m3 : Part.tlm ∈ cs) :
    Moves cs s0 (ingressDown p s) := by
  unfold ingressDown
  repeat' first
    | with_reducible assumption
    | with_reducible apply cutShort_moves
    | with_reducible apply foldl_moves
    | intro _
    | split
    | dsimp only

theorem flushQueues_moves {cs : List Part} {s0 s : State} (hm : Moves cs s0 s) (p : Nat) (m0 : Part.regs ∈ cs) (m1 : Part.ind ∈ cs) (m2 : Part.net ∈ cs) (m3 : Part.tlm ∈ cs) :
    Moves cs s0 (flushQueues p s) := by
  unfold flushQueues
  repeat' first
    | with_reducible assumption
    | with_reducible apply bumpPort_moves
    | with_reducible apply frameDone_moves
    | with_reducible apply queueEmptied_moves
    | with_reducible apply tagClose_moves
    | with_reducible apply unqueue_moves
    | with_reducible apply foldl_moves
    | with_reducible apply forUpto_moves
    | intro _
    | split
    | dsimp only

theorem lingerFlush_moves {cs : List Part} {s0 s : State} (hm : Moves cs s0 s) (p : Nat) (m0 : Part.regs ∈ cs) (m1 : Part.ind ∈ cs) (m2 : Part.net ∈ cs) (m3 : Part.tlm ∈ cs) :
    Moves cs s0 (lingerFlush p s) := by
  unfold lingerFlush
  repeat' first
    | with_reducible assumption
    | with_reducible apply State.raise_moves
    | with_reducible apply State.setFlag_moves
    | with_reducible apply flushQueues_moves
    | intro _
    | split
    | dsimp only

theorem abortSends_moves {cs : List Part} {s0 s : State} (hm : Moves cs s0 s) (p : Nat) (m0 : Part.regs ∈ cs) (m1 : Part.ind ∈ cs) (m2 : Part.net ∈ cs) (m3 : Part.tlm ∈ cs) :
    Moves cs s0 (abortSends p s) := by
  unfold abortSends
  repeat' first
    | with_reducible assumption
    | with_reducible apply State.updFrame_moves
    | with_reducible apply bumpPort_moves
    | with_reducible apply frameDone_moves
    | with_reducible apply tagClose_moves
    | with_reducible apply foldl_moves
    | intro _
    | split
    | dsimp only

theorem releasePauses_moves {cs : List Part} {s0 s : State} (hm : Moves cs s0 s) (p : Nat) (m0 : Part.regs ∈ cs) (m1 : Part.net ∈ cs) :
    Moves cs s0 (releasePauses p s) := by
  unfold releasePauses
  repeat' first
    | with_reducible assumption
    | with_reducible apply State.setFld_moves
    | with_reducible apply State.updPort_moves
    | intro _
    | split
    | dsimp only

theorem portDown_moves {cs : List Part} {s0 s : State} (hm : Moves cs s0 s) (p : Nat) (m0 : Part.regs ∈ cs) (m1 : Part.ind ∈ cs) (m2 : Part.net ∈ cs) (m3 : Part.tlm ∈ cs) :
    Moves cs s0 (portDown p s) := by
  unfold portDown
  repeat' first
    | with_reducible assumption
    | with_reducible apply State.raise_moves
    | with_reducible apply State.setFlag_moves
    | with_reducible apply abortSends_moves
    | with_reducible apply bumpPort_moves
    | with_reducible apply ingressDown_moves
    | with_reducible apply lingerFlush_moves
    | with_reducible apply releasePauses_moves
    | intro _
    | split
    | dsimp only

theorem portRise_moves {cs : List Part} {s0 s : State} (hm : Moves cs s0 s) (p : Nat) (m0 : Part.regs ∈ cs) (m1 : Part.net ∈ cs) :
    Moves cs s0 (portRise p s) := by
  unfold portRise
  repeat' first
    | with_reducible assumption
    | with_reducible apply State.raise_moves
    | with_reducible apply State.setFlag_moves
    | with_reducible apply State.setFld_moves
    | with_reducible apply State.updPort_moves
    | with_reducible apply portFix_moves
    | intro _
    | split
    | dsimp only

theorem portFall_moves {cs : List Part} {s0 s : State} (hm : Moves cs s0 s) (p : Nat) (m0 : Part.regs ∈ cs) (m1 : Part.ind ∈ cs) (m2 : Part.net ∈ cs) (m3 : Part.tlm ∈ cs) :
    Moves cs s0 (portFall p s) := by
  unfold portFall
  repeat' first
    | with_reducible assumption
    | with_reducible apply State.setFlag_moves
    | with_reducible apply lingerFlush_moves
    | with_reducible apply portDown_moves
    | intro _
    | split
    | dsimp only

theorem actPortCfg_moves {cs : List Part} {s0 s : State} (hm : Moves cs s0 s) (p : Nat) (old : Word) (raw : Word) (m0 : Part.regs ∈ cs) (m1 : Part.ind ∈ cs) (m2 : Part.net ∈ cs) (m3 : Part.tlm ∈ cs) :
    Moves cs s0 (actPortCfg p old raw s) := by
  unfold actPortCfg
  repeat' first
    | with_reducible assumption
    | with_reducible apply portFall_moves
    | with_reducible apply portRise_moves
    | intro _
    | split
    | dsimp only

theorem generatorOn_moves {cs : List Part} {s0 s : State} (hm : Moves cs s0 s) (n : Nat) (m0 : Part.regs ∈ cs) (m1 : Part.ind ∈ cs) (m2 : Part.net ∈ cs) (m3 : Part.tlm ∈ cs) :
    Moves cs s0 (generatorOn n s) := by
  unfold generatorOn
  repeat' first
    | with_reducible assumption
    | with_reducible apply portDown_moves
    | intro _
    | split
    | dsimp only

theorem keepPlusOf_moves {cs : List Part} {s0 s : State} (hm : Moves cs s0 s) (m : Fin 32) (a : Nat) (old : Word) (m0 : Part.regs ∈ cs) (m1 : Part.lanes ∈ cs) :
    Moves cs s0 (keepPlusOf m a old s) := by
  unfold keepPlusOf
  repeat' first
    | with_reducible assumption
    | with_reducible apply State.setReg_moves
    | with_reducible apply keepPlus_moves
    | intro _
    | split
    | dsimp only

theorem actPrbs_moves {cs : List Part} {s0 s : State} (hm : Moves cs s0 s) (l : LaneId) (old : Word) (raw : Word) (m0 : Part.regs ∈ cs) (m1 : Part.ind ∈ cs) (m2 : Part.lanes ∈ cs) (m3 : Part.net ∈ cs) (m4 : Part.tlm ∈ cs) :
    Moves cs s0 (actPrbs l old raw s) := by
  unfold actPrbs
  repeat' first
    | with_reducible assumption
    | with_reducible apply State.updLane_moves
    | with_reducible apply actChecker_moves
    | with_reducible apply generatorOn_moves
    | with_reducible apply keepPlusOf_moves
    | intro _
    | split
    | dsimp only

theorem actRawTx_moves {cs : List Part} {s0 s : State} (hm : Moves cs s0 s) (i : Nat) (old : Word) (_raw : Word) (m0 : Part.regs ∈ cs) (m1 : Part.lanes ∈ cs) :
    Moves cs s0 (actRawTx i old _raw s) := by
  unfold actRawTx
  repeat' first
    | with_reducible assumption
    | with_reducible apply keepPlusOf_moves
    | intro _
    | split
    | dsimp only

theorem actAlnPort_moves {cs : List Part} {s0 s : State} (hm : Moves cs s0 s) (m : Nat) (old : Word) (raw : Word) (m0 : Part.regs ∈ cs) (m1 : Part.lanes ∈ cs) :
    Moves cs s0 (actAlnPort m old raw s) := by
  unfold actAlnPort
  repeat' first
    | with_reducible assumption
    | with_reducible apply actAlnCtrl_moves
    | with_reducible apply timingFix_moves
    | intro _
    | split
    | dsimp only

theorem portComesUp_moves {cs : List Part} {s0 s : State} (hm : Moves cs s0 s) (p : Nat) (m0 : Part.regs ∈ cs) (m1 : Part.net ∈ cs) :
    Moves cs s0 (portComesUp p s) := by
  unfold portComesUp
  repeat' first
    | with_reducible assumption
    | with_reducible apply State.raise_moves
    | with_reducible apply State.setFlag_moves
    | with_reducible apply State.setFld_moves
    | with_reducible apply portFix_moves
    | intro _
    | split
    | dsimp only

theorem showPcs_moves {cs : List Part} {s0 s : State} (hm : Moves cs s0 s) (p : Nat) (pcs : Bool) (fec : Bool) (local' : Bool) (remote : Bool) (m0 : Part.regs ∈ cs) :
    Moves cs s0 (showPcs p pcs fec local' remote s) := by
  unfold showPcs
  repeat' first
    | with_reducible assumption
    | with_reducible apply State.setFlag_moves
    | intro _
    | split
    | dsimp only

theorem linkDown_moves {cs : List Part} {s0 s : State} (hm : Moves cs s0 s) (p : Nat) (cause : Nat) (m0 : Part.regs ∈ cs) (m1 : Part.ind ∈ cs) (m2 : Part.net ∈ cs) (m3 : Part.tlm ∈ cs) :
    Moves cs s0 (linkDown p cause s) := by
  unfold linkDown
  repeat' first
    | with_reducible assumption
    | with_reducible apply State.raiseIf_moves
    | with_reducible apply portDown_moves
    | with_reducible apply showPcs_moves
    | intro _
    | split
    | dsimp only

theorem laneTimeout_moves {cs : List Part} {s0 s : State} (hm : Moves cs s0 s) (p : Nat) (m0 : Part.regs ∈ cs) :
    Moves cs s0 (laneTimeout p s) := by
  unfold laneTimeout
  repeat' first
    | with_reducible assumption
    | with_reducible apply State.raise_moves
    | with_reducible apply State.raiseIf_moves
    | with_reducible apply State.setFld_moves
    | intro _
    | split
    | dsimp only

end Sys2Proof.Machine
end

