-- ==== Sys2Proof/Laws/FrameFwd.lean ====
section
/-!
SUPPORT. Sys2Proof/Laws/FrameFwd.lean: for each operation of Machine/Fwd.lean that changes the state, the parts it may change (and
that it keeps storage canonical), once and for all: `Moves` goes through it.
-/
namespace Sys2Proof.Machine
set_option Elab.async false
set_option linter.unusedTactic false
set_option linter.unreachableTactic false

theorem stageEntry_moves {cs : List Part} {s0 s : State} (hm : Moves cs s0 s) (b : Nat) (ws : List Word) (m0 : Part.regs ∈ cs) (m1 : Part.net ∈ cs) :
    Moves cs s0 (stageEntry b ws s) := by
  unfold stageEntry
  repeat' first
    | with_reducible assumption
    | with_reducible apply State.raise_moves
    | with_reducible apply State.updNet_moves
    | intro _
    | split
    | dsimp only

theorem stageWrite_moves {cs : List Part} {s0 s : State} (hm : Moves cs s0 s) (win : Nat) (w : Nat) (d : Word) (m0 : Part.regs ∈ cs) (m1 : Part.net ∈ cs) :
    Moves cs s0 (stageWrite win w d s) := by
  unfold stageWrite
  repeat' first
    | with_reducible assumption
    | with_reducible apply State.updNet_moves
    | with_reducible apply stageEntry_moves
    | intro _
    | split
    | dsimp only

theorem stageEmpty_moves {cs : List Part} {s0 s : State} (hm : Moves cs s0 s) (m0 : Part.net ∈ cs) :
    Moves cs s0 (stageEmpty s) := by
  unfold stageEmpty
  repeat' first
    | with_reducible assumption
    | with_reducible apply State.updNet_moves
    | intro _
    | split
    | dsimp only

theorem actCommitCmd_moves {cs : List Part} {s0 s : State} (hm : Moves cs s0 s) (_old : Word) (raw : Word) (m0 : Part.regs ∈ cs) (m1 : Part.net ∈ cs) :
    Moves cs s0 (actCommitCmd _old raw s) := by
  unfold actCommitCmd
  repeat' first
    | with_reducible assumption
    | with_reducible apply State.raise_moves
    | with_reducible apply State.raiseIf_moves
    | with_reducible apply State.updNet_moves
    | with_reducible apply stageEmpty_moves
    | intro _
    | split
    | dsimp only

theorem checkErrors_moves {cs : List Part} {s0 s : State} (hm : Moves cs s0 s) (ecc : List (Nat × Nat)) (m0 : Part.regs ∈ cs) (m1 : Part.loop ∈ cs) (m2 : Part.twin ∈ cs) :
    Moves cs s0 (checkErrors ecc s) := by
  unfold checkErrors
  repeat' first
    | with_reducible assumption
    | with_reducible apply faultLog_moves
    | with_reducible apply foldl_moves
    | intro _
    | split
    | dsimp only

theorem checkEnd_moves {cs : List Part} {s0 u : State} (hm : Moves cs s0 u) (found : List (Nat × Nat)) (devs : List Word) (m0 : Part.regs ∈ cs) (m1 : Part.loop ∈ cs) (m2 : Part.net ∈ cs) (m3 : Part.twin ∈ cs) :
    Moves cs s0 (checkEnd found devs u) := by
  unfold checkEnd
  repeat' first
    | with_reducible assumption
    | with_reducible apply State.raise_moves
    | with_reducible apply State.setReg_moves
    | with_reducible apply State.updNet_moves
    | with_reducible apply checkErrors_moves
    | with_reducible apply faultLog_moves
    | with_reducible apply foldl_moves
    | intro _
    | split
    | dsimp only

theorem commitLive_moves {cs : List Part} {s0 s : State} (hm : Moves cs s0 s) (m0 : Part.ind ∈ cs) (m1 : Part.net ∈ cs) :
    Moves cs s0 (commitLive s) := by
  unfold commitLive
  repeat' first
    | with_reducible assumption
    | with_reducible apply State.setIndw_moves
    | with_reducible apply State.updNet_moves
    | with_reducible apply stageEmpty_moves
    | with_reducible apply foldl_moves
    | with_reducible apply forUpto_moves
    | intro _
    | split
    | dsimp only

theorem bumpPipe_moves {cs : List Part} {s0 s : State} (hm : Moves cs s0 s) (a : Nat) (n : Nat) (m0 : Part.regs ∈ cs) :
    Moves cs s0 (bumpPipe a n s) := by
  unfold bumpPipe
  repeat' first
    | with_reducible assumption
    | with_reducible apply State.bump64_moves
    | intro _
    | split
    | dsimp only

theorem lookRoute_moves {cs : List Part} {s0 s : State} (hm : Moves cs s0 s) (n : Nat) (src : Nat) (h : Hdr) (m0 : Part.regs ∈ cs) :
    Moves cs s0 (lookRoute n src h s).2 := by
  unfold lookRoute
  repeat' first
    | with_reducible assumption
    | with_reducible apply bumpPipe_moves
    | intro _
    | split
    | dsimp only
theorem lookRoute_moves_eq {cs : List Part} {s0 s v1 : State} {v0} {n : Nat} {src : Nat} {h : Hdr} (e : lookRoute n src h s = (v0, v1)) (hm : Moves cs s0 s) (m0 : Part.regs ∈ cs) :
    Moves cs s0 v1 := by
  have := lookRoute_moves hm n src h m0
  rwa [e] at this

theorem lookL2_moves {cs : List Part} {s0 s : State} (hm : Moves cs s0 s) (n : Nat) (src : Nat) (vid : Nat) (bs : List Byte) (h : Hdr) (m0 : Part.regs ∈ cs) :
    Moves cs s0 (lookL2 n src vid bs h s).2 := by
  unfold lookL2
  repeat' first
    | with_reducible assumption
    | with_reducible apply bumpPipe_moves
    | (refine lookRoute_moves_eq (by with_reducible assumption) ?_ ?_ <;> try with_reducible assumption)
    | with_reducible apply lookRoute_moves
    | intro _
    | split
    | dsimp only
theorem lookL2_moves_eq {cs : List Part} {s0 s v1 : State} {v0} {n : Nat} {src : Nat} {vid : Nat} {bs : List Byte} {h : Hdr} (e : lookL2 n src vid bs h s = (v0, v1)) (hm : Moves cs s0 s) (m0 : Part.regs ∈ cs) :
    Moves cs s0 v1 := by
  have := lookL2_moves hm n src vid bs h m0
  rwa [e] at this

theorem residenceCheck_moves {cs : List Part} {s0 s : State} (hm : Moves cs s0 s) (n : Nat) (f : Frame) (m0 : Part.regs ∈ cs) :
    Moves cs s0 (residenceCheck n f s).2 := by
  unfold residenceCheck
  repeat' first
    | with_reducible assumption
    | with_reducible apply bumpPipe_moves
    | intro _
    | split
    | dsimp only
theorem residenceCheck_moves_eq {cs : List Part} {s0 s v1 : State} {v0} {n : Nat} {f : Frame} (e : residenceCheck n f s = (v0, v1)) (hm : Moves cs s0 s) (m0 : Part.regs ∈ cs) :
    Moves cs s0 v1 := by
  have := residenceCheck_moves hm n f m0
  rwa [e] at this

theorem lookup_moves {cs : List Part} {s0 s : State} (hm : Moves cs s0 s) (f : Frame) (m0 : Part.regs ∈ cs) :
    Moves cs s0 (lookup f s).2.2.2 := by
  unfold lookup
  extract_lets bs n src h vid hash cls w4 event tq f1 ptpType
  split
  rename_i l s1 e1
  have h1 : Moves cs s0 s1 := by
    revert e1
    split
    · intro e; cases e; exact hm
    · split
      · intro e; cases e; exact hm
      · split
        · intro e; cases e; exact hm
        · intro e; cases e; exact lookL2_moves hm _ _ _ _ _ m0
  clear e1
  extract_lets acl a24
  split
  rename_i l1 s2 e2
  have h2 : Moves cs s0 s2 := by
    revert e2
    split <;> intro e <;> cases e
    · exact bumpPipe_moves h1 _ _ m0
    all_goals exact h1
  clear e2
  extract_lets l2 fwd hop egress drop trap f2
  split
  rename_i f3 s3 e3
  have h3 : Moves cs s0 s3 := by
    revert e3
    split
    · intro e; cases e; exact h2
    · intro e
      have := residenceCheck_moves h2 n f2 m0
      rw [e] at this
      exact this
  dsimp only
  split
  · exact bumpPipe_moves h3 _ _ m0
  · exact h3
theorem lookup_moves_eq {cs : List Part} {s0 s v3 : State} {v0 v1 v2} {f : Frame} (e : lookup f s = (v0, v1, v2, v3)) (hm : Moves cs s0 s) (m0 : Part.regs ∈ cs) :
    Moves cs s0 v3 := by
  have := lookup_moves hm f m0
  rwa [e] at this

theorem bypassed_moves {cs : List Part} {s0 s : State} (hm : Moves cs s0 s) (f : Frame) (m0 : Part.regs ∈ cs) :
    Moves cs s0 (bypassed f s).2.2.2 := by
  unfold bypassed
  repeat' first
    | with_reducible assumption
    | (refine residenceCheck_moves_eq (by with_reducible assumption) ?_ ?_ <;> try with_reducible assumption)
    | with_reducible apply residenceCheck_moves
    | intro _
    | split
    | dsimp only
theorem bypassed_moves_eq {cs : List Part} {s0 s v3 : State} {v0 v1 v2} {f : Frame} (e : bypassed f s = (v0, v1, v2, v3)) (hm : Moves cs s0 s) (m0 : Part.regs ∈ cs) :
    Moves cs s0 v3 := by
  have := bypassed_moves hm f m0
  rwa [e] at this

theorem pipePass_moves {cs : List Part} {s0 s : State} (hm : Moves cs s0 s) (id : Nat) (slot : Nat) (f : Frame) (m0 : Part.regs ∈ cs) (m1 : Part.ind ∈ cs) (m2 : Part.net ∈ cs) (m3 : Part.tlm ∈ cs) :
    Moves cs s0 (pipePass id slot f s) := by
  unfold pipePass
  repeat' first
    | with_reducible assumption
    | with_reducible apply State.setFrame_moves
    | with_reducible apply State.updNet_moves
    | with_reducible apply State.updTlm_moves
    | (refine bypassed_moves_eq (by with_reducible assumption) ?_ ?_ <;> try with_reducible assumption)
    | with_reducible apply bypassed_moves
    | with_reducible apply evtOccur_moves
    | with_reducible apply frameDone_moves
    | (refine lookup_moves_eq (by with_reducible assumption) ?_ ?_ <;> try with_reducible assumption)
    | with_reducible apply lookup_moves
    | with_reducible apply tagClose_moves
    | with_reducible apply tagStage_moves
    | intro _
    | split
    | dsimp only

theorem loopTaken_moves {cs : List Part} {s0 s : State} (hm : Moves cs s0 s) (p : Nat) (m0 : Part.net ∈ cs) :
    Moves cs s0 (loopTaken p s) := by
  unfold loopTaken
  repeat' first
    | with_reducible assumption
    | with_reducible apply State.updNet_moves
    | intro _
    | split
    | dsimp only

end Sys2Proof.Machine
end

