-- ==== Sys2Proof/Laws/FrameMac.lean ====
section
/-!
SUPPORT. Sys2Proof/Laws/FrameMac.lean: for each operation of Machine/Mac.lean that changes the state, the parts it may change (and
that it keeps storage canonical), once and for all: `Moves` goes through it.
-/
namespace Sys2Proof.Machine
set_option Elab.async false
set_option linter.unusedTactic false
set_option linter.unreachableTactic false

theorem bumpAln_moves {cs : List Part} {s0 s : State} (hm : Moves cs s0 s) (a : Nat) (m : Nat) (n : Nat) (m0 : Part.regs ∈ cs) :
    Moves cs s0 (bumpAln a m n s) := by
  unfold bumpAln
  repeat' first
    | with_reducible assumption
    | with_reducible apply State.bump32_moves
    | intro _
    | split
    | dsimp only

theorem rxBad_moves {cs : List Part} {s0 s : State} (hm : Moves cs s0 s) (src : Nat) (port : Nat → Nat) (aln : Nat → Nat) (m0 : Part.regs ∈ cs) :
    Moves cs s0 (rxBad src port aln s) := by
  unfold rxBad
  repeat' first
    | with_reducible assumption
    | with_reducible apply bumpAln_moves
    | with_reducible apply bumpPort_moves
    | intro _
    | split
    | dsimp only

theorem rxCount_moves {cs : List Part} {s0 s : State} (hm : Moves cs s0 s) (src : Nat) (n : Nat) (m0 : Part.regs ∈ cs) :
    Moves cs s0 (rxCount src n s) := by
  unfold rxCount
  repeat' first
    | with_reducible assumption
    | with_reducible apply bumpAln_moves
    | with_reducible apply bumpPort_moves
    | intro _
    | split
    | dsimp only

theorem pauseFor_moves {cs : List Part} {s0 s : State} (hm : Moves cs s0 s) (p : Nat) (k : Nat) (q : Nat) (m0 : Part.regs ∈ cs) (m1 : Part.net ∈ cs) :
    Moves cs s0 (pauseFor p k q s) := by
  unfold pauseFor
  repeat' first
    | with_reducible assumption
    | with_reducible apply State.setRbit_moves
    | with_reducible apply State.updPort_moves
    | intro _
    | split
    | dsimp only

theorem macControl_moves {cs : List Part} {s0 s : State} (hm : Moves cs s0 s) (p : Nat) (bs : List Byte) (m0 : Part.regs ∈ cs) (m1 : Part.net ∈ cs) :
    Moves cs s0 (macControl p bs s) := by
  unfold macControl
  repeat' first
    | with_reducible assumption
    | with_reducible apply pauseFor_moves
    | with_reducible apply forUpto_moves
    | intro _
    | split
    | dsimp only

theorem frameEnds_moves {cs : List Part} {s0 s : State} (hm : Moves cs s0 s) (id : Nat) (f : Frame) (bs : List Byte) (m0 : Part.ind ∈ cs) (m1 : Part.net ∈ cs) :
    Moves cs s0 (frameEnds id f bs s) := by
  unfold frameEnds
  repeat' first
    | with_reducible assumption
    | with_reducible apply State.setFrame_moves
    | with_reducible apply settlePol_moves
    | with_reducible apply settleSched_moves
    | with_reducible apply tagShow_moves
    | intro _
    | split
    | dsimp only

theorem frontLost_moves {cs : List Part} {s0 s : State} (hm : Moves cs s0 s) (n : Nat) (m0 : Part.regs ∈ cs) :
    Moves cs s0 (frontLost n s) := by
  unfold frontLost
  repeat' first
    | with_reducible assumption
    | with_reducible apply State.bump64_moves
    | intro _
    | split
    | dsimp only

theorem macPass_moves {cs : List Part} {s0 s : State} (hm : Moves cs s0 s) (src : Nat) (id : Nat) (bs : List Byte) (bad : Option BadCause) (overflow : Bool) (arr : Arrival) (m0 : Part.regs ∈ cs) (m1 : Part.ind ∈ cs) (m2 : Part.net ∈ cs) (m3 : Part.tlm ∈ cs) :
    Moves cs s0 (macPass src id bs bad overflow arr s) := by
  unfold macPass
  repeat' first
    | with_reducible assumption
    | (refine State.draw_moves_eq (by with_reducible assumption) ?_ ?_ <;> try with_reducible assumption)
    | with_reducible apply State.draw_moves
    | with_reducible apply State.dropFrame_moves
    | with_reducible apply State.setFrame_moves
    | with_reducible apply evtOccur_moves
    | with_reducible apply foundBad_moves
    | with_reducible apply frameEnds_moves
    | with_reducible apply frontLost_moves
    | with_reducible apply settlePol_moves
    | with_reducible apply settleSched_moves
    | with_reducible apply tagClose_moves
    | with_reducible apply tagStage_moves
    | (refine tagTake_moves_eq (by with_reducible assumption) ?_ ?_ ?_ ?_ <;> try with_reducible assumption)
    | with_reducible apply tagTake_moves
    | intro _
    | split
    | dsimp only

theorem cutUnseen_moves {cs : List Part} {s0 s : State} (hm : Moves cs s0 s) (src : Nat) (bytes : List Byte) (arr : Arrival) (m0 : Part.regs ∈ cs) (m1 : Part.ind ∈ cs) (m2 : Part.tlm ∈ cs) :
    Moves cs s0 (cutUnseen src bytes arr s) := by
  unfold cutUnseen
  repeat' first
    | with_reducible assumption
    | (refine State.draw_moves_eq (by with_reducible assumption) ?_ ?_ <;> try with_reducible assumption)
    | with_reducible apply State.draw_moves
    | with_reducible apply tagClose_moves
    | with_reducible apply tagStage_moves
    | (refine tagTake_moves_eq (by with_reducible assumption) ?_ ?_ ?_ ?_ <;> try with_reducible assumption)
    | with_reducible apply tagTake_moves
    | with_reducible apply truncCount_moves
    | intro _
    | split
    | dsimp only

theorem macTake_moves {cs : List Part} {s0 s : State} (hm : Moves cs s0 s) (src : Nat) (id : Nat) (bytes : List Byte) (overflow : Bool) (arr : Arrival) (m0 : Part.regs ∈ cs) (m1 : Part.ind ∈ cs) (m2 : Part.net ∈ cs) (m3 : Part.tlm ∈ cs) :
    Moves cs s0 (macTake src id bytes overflow arr s) := by
  unfold macTake
  repeat' first
    | with_reducible assumption
    | with_reducible apply bumpPort_moves
    | with_reducible apply evtOccur_moves
    | with_reducible apply macControl_moves
    | with_reducible apply macPass_moves
    | with_reducible apply rxBad_moves
    | with_reducible apply rxCount_moves
    | intro _
    | split
    | dsimp only

theorem macReceive_moves {cs : List Part} {s0 s : State} (hm : Moves cs s0 s) (src : Nat) (id : Nat) (bytes : List Byte) (overflow : Bool) (arr : Arrival) (m0 : Part.regs ∈ cs) (m1 : Part.ind ∈ cs) (m2 : Part.net ∈ cs) (m3 : Part.tlm ∈ cs) :
    Moves cs s0 (macReceive src id bytes overflow arr s) := by
  unfold macReceive
  repeat' first
    | with_reducible assumption
    | with_reducible apply cutShort_moves
    | with_reducible apply cutUnseen_moves
    | with_reducible apply loopTaken_moves
    | with_reducible apply macTake_moves
    | intro _
    | split
    | dsimp only

theorem injectFrame_moves {cs : List Part} {s0 s : State} (hm : Moves cs s0 s) (ws : List Word) (body : List Byte) (kind : Nat) (m0 : Part.regs ∈ cs) (m1 : Part.net ∈ cs) :
    Moves cs s0 (injectFrame ws body kind s) := by
  unfold injectFrame
  repeat' first
    | with_reducible assumption
    | with_reducible apply State.bump32_moves
    | with_reducible apply State.raise_moves
    | with_reducible apply State.setFrame_moves
    | intro _
    | split
    | dsimp only

theorem takeDescriptor_moves {cs : List Part} {s0 s : State} (hm : Moves cs s0 s) (m0 : Part.regs ∈ cs) (m1 : Part.net ∈ cs) :
    Moves cs s0 (takeDescriptor s) := by
  unfold takeDescriptor
  repeat' first
    | with_reducible assumption
    | with_reducible apply State.setFld_moves
    | with_reducible apply injectFrame_moves
    | intro _
    | split
    | dsimp only

theorem actHinjData_moves {cs : List Part} {s0 s : State} (hm : Moves cs s0 s) (_old : Word) (raw : Word) (m0 : Part.net ∈ cs) :
    Moves cs s0 (actHinjData _old raw s) := by
  unfold actHinjData
  repeat' first
    | with_reducible assumption
    | with_reducible apply State.updNet_moves
    | intro _
    | split
    | dsimp only

theorem actHinjCmd_moves {cs : List Part} {s0 s : State} (hm : Moves cs s0 s) (_old : Word) (raw : Word) (m0 : Part.regs ∈ cs) (m1 : Part.net ∈ cs) :
    Moves cs s0 (actHinjCmd _old raw s) := by
  unfold actHinjCmd
  repeat' first
    | with_reducible assumption
    | with_reducible apply State.raise_moves
    | with_reducible apply State.updNet_moves
    | with_reducible apply injectFrame_moves
    | intro _
    | split
    | dsimp only

theorem trapRing_moves {cs : List Part} {s0 s : State} (hm : Moves cs s0 s) (f : Frame) (reason : Nat) (m0 : Part.regs ∈ cs) (m1 : Part.sram ∈ cs) :
    Moves cs s0 (trapRing f reason s) := by
  unfold trapRing
  repeat' first
    | with_reducible assumption
    | with_reducible apply State.bump32_moves
    | with_reducible apply State.raise_moves
    | with_reducible apply State.setFld_moves
    | with_reducible apply State.setSramBytes_moves
    | intro _
    | split
    | dsimp only

theorem trapWrite_moves {cs : List Part} {s0 s : State} (hm : Moves cs s0 s) (id : Nat) (m0 : Part.regs ∈ cs) (m1 : Part.ind ∈ cs) (m2 : Part.sram ∈ cs) (m3 : Part.net ∈ cs) (m4 : Part.tlm ∈ cs) :
    Moves cs s0 (trapWrite id s) := by
  unfold trapWrite
  repeat' first
    | with_reducible assumption
    | with_reducible apply State.setFrame_moves
    | with_reducible apply frameDone_moves
    | with_reducible apply tagClose_moves
    | with_reducible apply trapRing_moves
    | intro _
    | split
    | dsimp only

end Sys2Proof.Machine
end

