-- ==== Sys2Proof/Laws/FrameAdmit.lean ====
section
/-!
SUPPORT. Sys2Proof/Laws/FrameAdmit.lean: for each operation of Machine/Admit.lean that changes the state, the parts it may change (and
that it keeps storage canonical), once and for all: `Moves` goes through it.
-/
namespace Sys2Proof.Machine
set_option Elab.async false
set_option linter.unusedTactic false
set_option linter.unreachableTactic false

theorem admissionEnd_moves {cs : List Part} {s0 s : State} (hm : Moves cs s0 s) (id : Nat) (f : Frame) (outcome : Nat) (m0 : Part.regs ∈ cs) (m1 : Part.ind ∈ cs) (m2 : Part.net ∈ cs) (m3 : Part.tlm ∈ cs) :
    Moves cs s0 (admissionEnd id f outcome s) := by
  unfold admissionEnd
  repeat' first
    | with_reducible assumption
    | with_reducible apply State.setFrame_moves
    | with_reducible apply frameDone_moves
    | with_reducible apply tagClose_moves
    | intro _
    | split
    | dsimp only

theorem countDrop_moves {cs : List Part} {s0 s : State} (hm : Moves cs s0 s) (kind : Nat) (e : Nat) (q : Nat) (src : Nat) (m0 : Part.regs ∈ cs) (m1 : Part.tlm ∈ cs) :
    Moves cs s0 (countDrop kind e q src s) := by
  unfold countDrop
  repeat' first
    | with_reducible assumption
    | with_reducible apply State.bump64_moves
    | with_reducible apply State.raise_moves
    | with_reducible apply bumpPort_moves
    | with_reducible apply evtOccur_moves
    | intro _
    | split
    | dsimp only

theorem meterFrame_moves {cs : List Part} {s0 s : State} (hm : Moves cs s0 s) (f : Frame) (m0 : Part.regs ∈ cs) (m1 : Part.net ∈ cs) (m2 : Part.tlm ∈ cs) :
    Moves cs s0 (meterFrame f s).2.2 := by
  unfold meterFrame
  repeat' first
    | with_reducible assumption
    | (refine meter_moves_eq (by with_reducible assumption) ?_ ?_ ?_ ?_ <;> try with_reducible assumption)
    | with_reducible apply meter_moves
    | intro _
    | split
    | dsimp only
theorem meterFrame_moves_eq {cs : List Part} {s0 s v2 : State} {v0 v1} {f : Frame} (e : meterFrame f s = (v0, v1, v2)) (hm : Moves cs s0 s) (m0 : Part.regs ∈ cs) (m1 : Part.net ∈ cs) (m2 : Part.tlm ∈ cs) :
    Moves cs s0 v2 := by
  have := meterFrame_moves hm f m0 m1 m2
  rwa [e] at this

theorem stage4_moves {cs : List Part} {s0 s : State} (hm : Moves cs s0 s) (f : Frame) (occ : Nat) (kind : Nat) (colour : Nat) (threshold : Nat) (m0 : Part.ind ∈ cs) :
    Moves cs s0 (stage4 f occ kind colour threshold s) := by
  unfold stage4
  repeat' first
    | with_reducible assumption
    | with_reducible apply tagStage_moves
    | intro _
    | split
    | dsimp only

theorem admitLogical_moves {cs : List Part} {s0 s : State} (hm : Moves cs s0 s) (id : Nat) (f : Frame) (m0 : Part.regs ∈ cs) (m1 : Part.ind ∈ cs) (m2 : Part.net ∈ cs) (m3 : Part.tlm ∈ cs) :
    Moves cs s0 (admitLogical id f s) := by
  unfold admitLogical
  repeat' first
    | with_reducible assumption
    | with_reducible apply State.setFrame_moves
    | with_reducible apply State.setQueue_moves
    | with_reducible apply admissionEnd_moves
    | with_reducible apply countDrop_moves
    | with_reducible apply evtOccur_moves
    | (refine meterFrame_moves_eq (by with_reducible assumption) ?_ ?_ ?_ ?_ <;> try with_reducible assumption)
    | with_reducible apply meterFrame_moves
    | (refine sidPass_moves_eq (by with_reducible assumption) ?_ ?_ ?_ <;> try with_reducible assumption)
    | with_reducible apply sidPass_moves
    | with_reducible apply stage4_moves
    | intro _
    | split
    | dsimp only

theorem admitTiming_moves {cs : List Part} {s0 s : State} (hm : Moves cs s0 s) (id : Nat) (f : Frame) (m0 : Part.regs ∈ cs) (m1 : Part.ind ∈ cs) (m2 : Part.net ∈ cs) (m3 : Part.tlm ∈ cs) :
    Moves cs s0 (admitTiming id f s) := by
  unfold admitTiming
  repeat' first
    | with_reducible assumption
    | with_reducible apply State.bump64_moves
    | with_reducible apply State.setFrame_moves
    | with_reducible apply State.setQueue_moves
    | with_reducible apply admissionEnd_moves
    | with_reducible apply bumpAln_moves
    | intro _
    | split
    | dsimp only

theorem admitTrap_moves {cs : List Part} {s0 s : State} (hm : Moves cs s0 s) (id : Nat) (f : Frame) (m0 : Part.regs ∈ cs) (m1 : Part.ind ∈ cs) (m2 : Part.net ∈ cs) (m3 : Part.tlm ∈ cs) :
    Moves cs s0 (admitTrap id f s) := by
  unfold admitTrap
  repeat' first
    | with_reducible assumption
    | with_reducible apply State.bump32_moves
    | with_reducible apply State.setFrame_moves
    | with_reducible apply admissionEnd_moves
    | intro _
    | split
    | dsimp only

theorem admitOther_moves {cs : List Part} {s0 s : State} (hm : Moves cs s0 s) (id : Nat) (f : Frame) (decide' : Frame → State → State) (hdecide' : ∀ z0 z1, Moves cs s0 z1 → Moves cs s0 (decide' z0 z1)) (m0 : Part.regs ∈ cs) (m1 : Part.ind ∈ cs) (m2 : Part.net ∈ cs) (m3 : Part.tlm ∈ cs) :
    Moves cs s0 (admitOther id f decide' s) := by
  unfold admitOther
  repeat' first
    | with_reducible assumption
    | with_reducible apply admissionEnd_moves
    | (refine meterFrame_moves_eq (by with_reducible assumption) ?_ ?_ ?_ ?_ <;> try with_reducible assumption)
    | with_reducible apply meterFrame_moves
    | with_reducible apply stage4_moves
    | with_reducible apply hdecide'
    | intro _
    | split
    | dsimp only

theorem admission_moves {cs : List Part} {s0 s : State} (hm : Moves cs s0 s) (id : Nat) (m0 : Part.regs ∈ cs) (m1 : Part.ind ∈ cs) (m2 : Part.net ∈ cs) (m3 : Part.tlm ∈ cs) :
    Moves cs s0 (admission id s) := by
  unfold admission
  repeat' first
    | with_reducible assumption
    | with_reducible apply admitLogical_moves
    | with_reducible apply admitOther_moves
    | with_reducible apply admitTiming_moves
    | with_reducible apply admitTrap_moves
    | intro _
    | split
    | dsimp only

theorem sliceWrite_moves {cs : List Part} {s0 s : State} (hm : Moves cs s0 s) (id : Nat) (n : Nat) (bytes : List Byte) (m0 : Part.regs ∈ cs) (m1 : Part.ind ∈ cs) (m2 : Part.net ∈ cs) (m3 : Part.tlm ∈ cs) :
    Moves cs s0 (sliceWrite id n bytes s) := by
  unfold sliceWrite
  repeat' first
    | with_reducible assumption
    | with_reducible apply State.bump64_moves
    | with_reducible apply State.raise_moves
    | with_reducible apply evtOccur_moves
    | with_reducible apply foundBad_moves
    | with_reducible apply takeSlice_moves
    | intro _
    | split
    | dsimp only

theorem allocShow_moves {cs : List Part} {s0 s : State} (hm : Moves cs s0 s) (m0 : Part.regs ∈ cs) :
    Moves cs s0 (allocShow s) := by
  unfold allocShow
  repeat' first
    | with_reducible assumption
    | with_reducible apply State.raiseIf_moves
    | with_reducible apply State.setFlag_moves
    | with_reducible apply State.setFld_moves
    | intro _
    | split
    | dsimp only

theorem reclaim_moves {cs : List Part} {s0 s : State} (hm : Moves cs s0 s) (n : Nat) (m0 : Part.regs ∈ cs) (m1 : Part.net ∈ cs) :
    Moves cs s0 (reclaim n s) := by
  unfold reclaim
  repeat' first
    | with_reducible assumption
    | with_reducible apply State.setFlag_moves
    | with_reducible apply State.setLost_moves
    | with_reducible apply freeSlice_moves
    | intro _
    | split
    | dsimp only

theorem reportSlice_moves {cs : List Part} {s0 s : State} (hm : Moves cs s0 s) (n : Nat) (m0 : Part.regs ∈ cs) (m1 : Part.loop ∈ cs) (m2 : Part.net ∈ cs) (m3 : Part.twin ∈ cs) (m4 : Part.free ∈ cs) :
    Moves cs s0 (reportSlice n s) := by
  unfold reportSlice
  repeat' first
    | with_reducible assumption
    | with_reducible apply State.bump64_moves
    | with_reducible apply State.raise_moves
    | with_reducible apply State.setLost_moves
    | with_reducible apply State.setReg_moves
    | with_reducible apply faultOpen_moves
    | with_reducible apply reclaim_moves
    | intro _
    | split
    | dsimp only

theorem crossLink_moves {cs : List Part} {s0 s : State} (hm : Moves cs s0 s) (n : Nat) (kind : Nat) (m0 : Part.regs ∈ cs) (m1 : Part.loop ∈ cs) (m2 : Part.twin ∈ cs) (m3 : Part.free ∈ cs) :
    Moves cs s0 (crossLink n kind s) := by
  unfold crossLink
  repeat' first
    | with_reducible assumption
    | with_reducible apply State.bump64_moves
    | with_reducible apply State.raise_moves
    | with_reducible apply State.setReg_moves
    | with_reducible apply faultOpen_moves
    | intro _
    | split
    | dsimp only

theorem auditShow_moves {cs : List Part} {s0 s : State} (hm : Moves cs s0 s) (m0 : Part.regs ∈ cs) :
    Moves cs s0 (auditShow s) := by
  unfold auditShow
  repeat' first
    | with_reducible assumption
    | with_reducible apply State.setFlag_moves
    | with_reducible apply State.setFld_moves
    | intro _
    | split
    | dsimp only

theorem auditPass_moves {cs : List Part} {s0 s : State} (hm : Moves cs s0 s) (xlinks : List (Nat × Nat)) (m0 : Part.regs ∈ cs) (m1 : Part.loop ∈ cs) (m2 : Part.net ∈ cs) (m3 : Part.twin ∈ cs) (m4 : Part.free ∈ cs) :
    Moves cs s0 (auditPass xlinks s) := by
  unfold auditPass
  repeat' first
    | with_reducible assumption
    | with_reducible apply State.bump64_moves
    | with_reducible apply State.raise_moves
    | with_reducible apply State.setLost_moves
    | with_reducible apply State.updNet_moves
    | with_reducible apply auditShow_moves
    | with_reducible apply crossLink_moves
    | with_reducible apply reportSlice_moves
    | with_reducible apply foldl_moves
    | intro _
    | split
    | dsimp only

theorem actBufAudit_moves {cs : List Part} {s0 s : State} (hm : Moves cs s0 s) (_old : Word) (raw : Word) (m0 : Part.regs ∈ cs) (m1 : Part.net ∈ cs) :
    Moves cs s0 (actBufAudit _old raw s) := by
  unfold actBufAudit
  repeat' first
    | with_reducible assumption
    | with_reducible apply State.setLost_moves
    | with_reducible apply State.updNet_moves
    | with_reducible apply auditShow_moves
    | with_reducible apply reclaim_moves
    | with_reducible apply settleCover_moves
    | with_reducible apply foldl_moves
    | intro _
    | split
    | dsimp only

end Sys2Proof.Machine
end

