-- ==== Sys2Proof/Laws/FrameBoot.lean ====
section
/-!
SUPPORT. Sys2Proof/Laws/FrameBoot.lean: for each operation of Machine/Boot.lean that changes the state, the parts it may change (and
that it keeps storage canonical), once and for all: `Moves` goes through it.
-/
namespace Sys2Proof.Machine
set_option Elab.async false
set_option linter.unusedTactic false
set_option linter.unreachableTactic false

theorem State.updBoot_moves {cs : List Part} {s0 s : State} (hm : Moves cs s0 s) (f : BootSt → BootSt) (m0 : Part.boot ∈ cs) :
    Moves cs s0 (State.updBoot s f) := by
  unfold State.updBoot
  repeat' first
    | with_reducible assumption
    | with_reducible apply boot_moves
    | intro _
    | split
    | dsimp only

theorem enumSend_moves {cs : List Part} {s0 s : State} (hm : Moves cs s0 s) (m0 : Part.boot ∈ cs) :
    Moves cs s0 (enumSend s) := by
  unfold enumSend
  repeat' first
    | with_reducible assumption
    | with_reducible apply State.updBoot_moves
    | intro _
    | split
    | dsimp only

theorem takeUnit_moves {cs : List Part} {s0 s : State} (hm : Moves cs s0 s) (u : Nat) (m0 : Part.regs ∈ cs) (m1 : Part.boot ∈ cs) :
    Moves cs s0 (takeUnit u s) := by
  unfold takeUnit
  repeat' first
    | with_reducible assumption
    | with_reducible apply State.raise_moves
    | with_reducible apply State.setFlag_moves
    | with_reducible apply State.setFld_moves
    | with_reducible apply enumSend_moves
    | intro _
    | split
    | dsimp only

theorem enumHeard_moves {cs : List Part} {s0 s : State} (hm : Moves cs s0 s) (v : Nat) (m0 : Part.regs ∈ cs) (m1 : Part.boot ∈ cs) :
    Moves cs s0 (enumHeard v s) := by
  unfold enumHeard
  repeat' first
    | with_reducible assumption
    | with_reducible apply State.raiseIf_moves
    | with_reducible apply State.setFlag_moves
    | with_reducible apply State.setFld_moves
    | with_reducible apply takeUnit_moves
    | intro _
    | split
    | dsimp only

theorem actEnumCmd_moves {cs : List Part} {s0 s : State} (hm : Moves cs s0 s) (_old : Word) (raw : Word) (m0 : Part.regs ∈ cs) (m1 : Part.boot ∈ cs) :
    Moves cs s0 (actEnumCmd _old raw s) := by
  unfold actEnumCmd
  repeat' first
    | with_reducible assumption
    | with_reducible apply State.setFlag_moves
    | with_reducible apply State.updBoot_moves
    | with_reducible apply takeUnit_moves
    | intro _
    | split
    | dsimp only

theorem loadWord_moves {cs : List Part} {s0 s : State} (hm : Moves cs s0 s) (d : Word) (m0 : Part.regs ∈ cs) (m1 : Part.sram ∈ cs) :
    Moves cs s0 (loadWord d s) := by
  unfold loadWord
  repeat' first
    | with_reducible assumption
    | with_reducible apply State.setFld_moves
    | with_reducible apply State.setSramBytes_moves
    | intro _
    | split
    | dsimp only

theorem actLoadAddr_moves {cs : List Part} {s0 s : State} (hm : Moves cs s0 s) (ag : Agent) (old : Word) (_raw : Word) (m0 : Part.regs ∈ cs) :
    Moves cs s0 (actLoadAddr ag old _raw s) := by
  unfold actLoadAddr
  repeat' first
    | with_reducible assumption
    | with_reducible apply State.raise_moves
    | with_reducible apply State.setReg_moves
    | intro _
    | split
    | dsimp only

theorem actLoadData_moves {cs : List Part} {s0 s : State} (hm : Moves cs s0 s) (ag : Agent) (_old : Word) (raw : Word) (m0 : Part.regs ∈ cs) (m1 : Part.sram ∈ cs) :
    Moves cs s0 (actLoadData ag _old raw s) := by
  unfold actLoadData
  repeat' first
    | with_reducible assumption
    | with_reducible apply State.raise_moves
    | with_reducible apply State.setReg_moves
    | with_reducible apply loadWord_moves
    | intro _
    | split
    | dsimp only

theorem bootGo_moves {cs : List Part} {s0 s : State} (hm : Moves cs s0 s) (pf0 : Bool) (bus : Bool) (m0 : Part.regs ∈ cs) (m1 : Part.boot ∈ cs) :
    Moves cs s0 (bootGo pf0 bus s) := by
  unfold bootGo
  repeat' first
    | with_reducible assumption
    | with_reducible apply State.raise_moves
    | with_reducible apply State.setFld_moves
    | with_reducible apply State.updBoot_moves
    | intro _
    | split
    | dsimp only

theorem State.wipeRegs_moves {cs : List Part} {s0 s : State} (hm : Moves cs s0 s) (p : Nat → Bool) (m0 : Part.regs ∈ cs) (m1 : Part.hst ∈ cs) :
    Moves cs s0 (State.wipeRegs p s) := by
  exact hst_moves (regs_moves hm _ (SMapWf.filter _) m0) _ m1

theorem bootRestart_moves {cs : List Part} {s0 s : State} (hm : Moves cs s0 s) (m0 : Part.regs ∈ cs) (m1 : Part.sram ∈ cs) (m2 : Part.hst ∈ cs) (m3 : Part.boot ∈ cs) :
    Moves cs s0 (bootRestart s) := by
  unfold bootRestart
  have h1 := State.wipeRegs_moves hm (fun a => decide (4 ≤ a / 1024 ∧ a / 1024 < 8)) m0 m2
  dsimp only
  exact settleCover_moves (State.setFld_moves (State.setFld_moves (boot_moves (hst_moves (sram_moves h1 [] (fun _ => SMapWf.nil _) m1)
    _ m2) _ m3) _ _ m0) _ _ m0) m0

theorem actBootCmd_moves {cs : List Part} {s0 s : State} (hm : Moves cs s0 s) (ag : Agent) (_old : Word) (raw : Word) (m0 : Part.regs ∈ cs) (m1 : Part.sram ∈ cs) (m2 : Part.hst ∈ cs) (m3 : Part.boot ∈ cs) :
    Moves cs s0 (actBootCmd ag _old raw s) := by
  unfold actBootCmd
  repeat' first
    | with_reducible assumption
    | with_reducible apply bootGo_moves
    | with_reducible apply bootRestart_moves
    | intro _
    | split
    | dsimp only

theorem verifyEnd_moves {cs : List Part} {s0 s : State} (hm : Moves cs s0 s) (m0 : Part.regs ∈ cs) (m1 : Part.boot ∈ cs) :
    Moves cs s0 (verifyEnd s) := by
  unfold verifyEnd
  repeat' first
    | with_reducible assumption
    | with_reducible apply State.raise_moves
    | with_reducible apply State.setFld_moves
    | with_reducible apply State.updBoot_moves
    | intro _
    | split
    | dsimp only

theorem actFuseCmd_moves {cs : List Part} {s0 s : State} (hm : Moves cs s0 s) (ag : Agent) (old : Word) (raw : Word) (m0 : Part.regs ∈ cs) (m1 : Part.boot ∈ cs) :
    Moves cs s0 (actFuseCmd ag old raw s) := by
  unfold actFuseCmd
  repeat' first
    | with_reducible assumption
    | with_reducible apply State.raise_moves
    | with_reducible apply State.setReg_moves
    | with_reducible apply State.updBoot_moves
    | intro _
    | split
    | dsimp only

theorem fwStatusWrite_moves {cs : List Part} {s0 s : State} (hm : Moves cs s0 s) (d : Word) (m0 : Part.regs ∈ cs) :
    Moves cs s0 (fwStatusWrite d s) := by
  unfold fwStatusWrite
  repeat' first
    | with_reducible assumption
    | with_reducible apply State.raiseIf_moves
    | with_reducible apply State.setReg_moves
    | intro _
    | split
    | dsimp only

theorem mgmtWrite_moves {cs : List Part} {s0 s : State} (hm : Moves cs s0 s) (r : Nat) (d : Word) (m0 : Part.regs ∈ cs) (m1 : Part.sram ∈ cs) (m2 : Part.boot ∈ cs) :
    Moves cs s0 (mgmtWrite r d s) := by
  unfold mgmtWrite
  repeat' first
    | with_reducible assumption
    | with_reducible apply State.raise_moves
    | with_reducible apply State.setFld_moves
    | with_reducible apply bootGo_moves
    | with_reducible apply loadWord_moves
    | intro _
    | split
    | dsimp only

theorem mgmtBus_moves {cs : List Part} {s0 s : State} (hm : Moves cs s0 s) (bytes : List Byte) (read : Bool) (m0 : Part.regs ∈ cs) (m1 : Part.sram ∈ cs) (m2 : Part.boot ∈ cs) :
    Moves cs s0 (mgmtBus bytes read s) := by
  unfold mgmtBus
  repeat' first
    | with_reducible assumption
    | with_reducible apply State.updBoot_moves
    | with_reducible apply mgmtWrite_moves
    | with_reducible apply foldl_moves
    | intro _
    | split
    | dsimp only

theorem actWdogKick_moves {cs : List Part} {s0 s : State} (hm : Moves cs s0 s) (ag : Agent) (_old : Word) (raw : Word) (m0 : Part.boot ∈ cs) :
    Moves cs s0 (actWdogKick ag _old raw s) := by
  unfold actWdogKick
  repeat' first
    | with_reducible assumption
    | with_reducible apply State.updBoot_moves
    | intro _
    | split
    | dsimp only

theorem coreHung_moves {cs : List Part} {s0 s : State} (hm : Moves cs s0 s) (c : Nat) (m0 : Part.regs ∈ cs) (m1 : Part.loop ∈ cs) (m2 : Part.twin ∈ cs) (m3 : Part.boot ∈ cs) :
    Moves cs s0 (coreHung c s) := by
  unfold coreHung
  repeat' first
    | with_reducible assumption
    | with_reducible apply State.raise_moves
    | with_reducible apply State.setRbit_moves
    | with_reducible apply State.updBoot_moves
    | with_reducible apply faultLog_moves
    | with_reducible apply settleCover_moves
    | intro _
    | split
    | dsimp only

theorem actFltCfg_moves {cs : List Part} {s0 s : State} (hm : Moves cs s0 s) (_old : Word) (_raw : Word) (m0 : Part.regs ∈ cs) :
    Moves cs s0 (actFltCfg _old _raw s) := by
  unfold actFltCfg
  repeat' first
    | with_reducible assumption
    | with_reducible apply settleCover_moves
    | intro _
    | split
    | dsimp only

end Sys2Proof.Machine
end

