-- ==== Sys2Proof/Laws/FrameEgress.lean ====
section
/-!
SUPPORT. Sys2Proof/Laws/FrameEgress.lean: for each operation of Machine/Egress.lean that changes the state, the parts it may change (and
that it keeps storage canonical), once and for all: `Moves` goes through it.
-/
namespace Sys2Proof.Machine
set_option Elab.async false
set_option linter.unusedTactic false
set_option linter.unreachableTactic false

theorem stage5_moves {cs : List Part} {s0 s : State} (hm : Moves cs s0 s) (f : Frame) (m0 : Part.ind ∈ cs) :
    Moves cs s0 (stage5 f s) := by
  unfold stage5
  repeat' first
    | with_reducible assumption
    | with_reducible apply tagStage_moves
    | intro _
    | split
    | dsimp only

theorem releaseFrame_moves {cs : List Part} {s0 s : State} (hm : Moves cs s0 s) (id : Nat) (f : Frame) (outcome : Nat) (m0 : Part.regs ∈ cs) (m1 : Part.ind ∈ cs) (m2 : Part.net ∈ cs) (m3 : Part.tlm ∈ cs) :
    Moves cs s0 (releaseFrame id f outcome s) := by
  unfold releaseFrame
  repeat' first
    | with_reducible assumption
    | with_reducible apply frameDone_moves
    | with_reducible apply stage5_moves
    | with_reducible apply tagClose_moves
    | with_reducible apply takeFromQueue_moves
    | intro _
    | split
    | dsimp only

theorem corruptFound_moves {cs : List Part} {s0 s : State} (hm : Moves cs s0 s) (m0 : Part.regs ∈ cs) (m1 : Part.loop ∈ cs) (m2 : Part.twin ∈ cs) (m3 : Part.free ∈ cs) :
    Moves cs s0 (corruptFound s) := by
  unfold corruptFound
  repeat' first
    | with_reducible assumption
    | with_reducible apply faultOpen_moves
    | intro _
    | split
    | dsimp only

theorem chargeFrame_moves {cs : List Part} {s0 s : State} (hm : Moves cs s0 s) (f : Frame) (group : Bool) (m0 : Part.regs ∈ cs) (m1 : Part.ind ∈ cs) (m2 : Part.net ∈ cs) :
    Moves cs s0 (chargeFrame f group s).2.2 := by
  unfold chargeFrame
  repeat' first
    | with_reducible assumption
    | with_reducible apply State.setFld_moves
    | with_reducible apply setDeficit_moves
    | with_reducible apply shaperCharge_moves
    | with_reducible apply foldl_moves
    | intro _
    | split
    | dsimp only
theorem chargeFrame_moves_eq {cs : List Part} {s0 s v2 : State} {v0 v1} {f : Frame} {group : Bool} (e : chargeFrame f group s = (v0, v1, v2)) (hm : Moves cs s0 s) (m0 : Part.regs ∈ cs) (m1 : Part.ind ∈ cs) (m2 : Part.net ∈ cs) :
    Moves cs s0 v2 := by
  have := chargeFrame_moves hm f group m0 m1 m2
  rwa [e] at this

theorem sampleTake_moves {cs : List Part} {s0 s : State} (hm : Moves cs s0 s) (g : Nat) (so : Nat) (m0 : Part.net ∈ cs) :
    Moves cs s0 (sampleTake g so s) := by
  unfold sampleTake
  repeat' first
    | with_reducible assumption
    | with_reducible apply State.updSample_moves
    | intro _
    | split
    | dsimp only

theorem stampFrame_moves {cs : List Part} {s0 s : State} (hm : Moves cs s0 s) (p : Nat) (st : Stamp) (f : Frame) (m0 : Part.regs ∈ cs) :
    Moves cs s0 (stampFrame p st f s).2 := by
  unfold stampFrame
  repeat' first
    | with_reducible assumption
    | with_reducible apply State.raiseIf_moves
    | intro _
    | split
    | dsimp only
theorem stampFrame_moves_eq {cs : List Part} {s0 s v1 : State} {v0} {p : Nat} {st : Stamp} {f : Frame} (e : stampFrame p st f s = (v0, v1)) (hm : Moves cs s0 s) (m0 : Part.regs ∈ cs) :
    Moves cs s0 v1 := by
  have := stampFrame_moves hm p st f m0
  rwa [e] at this

theorem selectFrame_moves {cs : List Part} {s0 s : State} (hm : Moves cs s0 s) (p : Nat) (id : Nat) (st : Stamp) (f : Frame) (m0 : Part.regs ∈ cs) (m1 : Part.ind ∈ cs) (m2 : Part.net ∈ cs) :
    Moves cs s0 (selectFrame p id st f s) := by
  unfold selectFrame
  repeat' first
    | with_reducible assumption
    | with_reducible apply State.setFrame_moves
    | (refine stampFrame_moves_eq (by with_reducible assumption) ?_ ?_ <;> try with_reducible assumption)
    | with_reducible apply stampFrame_moves
    | with_reducible apply takeFromQueue_moves
    | intro _
    | split
    | dsimp only

theorem serveHead_moves {cs : List Part} {s0 s : State} (hm : Moves cs s0 s) (p : Nat) (corrupt : Bool) (st : Stamp) (id : Nat) (f : Frame) (group : Bool) (m0 : Part.regs ∈ cs) (m1 : Part.ind ∈ cs) (m2 : Part.loop ∈ cs) (m3 : Part.net ∈ cs) (m4 : Part.tlm ∈ cs) (m5 : Part.twin ∈ cs) (m6 : Part.free ∈ cs) :
    Moves cs s0 (serveHead p corrupt st id f group s) := by
  unfold serveHead
  repeat' first
    | with_reducible assumption
    | with_reducible apply State.raise_moves
    | with_reducible apply bumpPort_moves
    | (refine chargeFrame_moves_eq (by with_reducible assumption) ?_ ?_ ?_ ?_ <;> try with_reducible assumption)
    | with_reducible apply chargeFrame_moves
    | with_reducible apply corruptFound_moves
    | with_reducible apply evtOccur_moves
    | with_reducible apply releaseFrame_moves
    | with_reducible apply sampleTake_moves
    | with_reducible apply selectFrame_moves
    | with_reducible apply stage5_moves
    | intro _
    | split
    | dsimp only

theorem loopFrame_moves {cs : List Part} {s0 s : State} (hm : Moves cs s0 s) (e : Nat) (bs : List Byte) (m0 : Part.net ∈ cs) :
    Moves cs s0 (loopFrame e bs s) := by
  unfold loopFrame
  repeat' first
    | with_reducible assumption
    | with_reducible apply State.updNet_moves
    | intro _
    | split
    | dsimp only

theorem putOut_moves {cs : List Part} {s0 u : State} (hm : Moves cs s0 u) (e : Nat) (bs : List Byte) (m0 : Part.net ∈ cs) :
    Moves cs s0 (putOut e bs u) := by
  unfold putOut
  repeat' first
    | with_reducible assumption
    | with_reducible apply State.updNet_moves
    | with_reducible apply State.updPort_moves
    | with_reducible apply loopFrame_moves
    | intro _
    | split
    | dsimp only

theorem servePfc_moves {cs : List Part} {s0 s : State} (hm : Moves cs s0 s) (p : Nat) (m0 : Part.regs ∈ cs) (m1 : Part.net ∈ cs) :
    Moves cs s0 (servePfc p s) := by
  unfold servePfc
  repeat' first
    | with_reducible assumption
    | with_reducible apply State.updPort_moves
    | with_reducible apply bumpPort_moves
    | with_reducible apply putOut_moves
    | intro _
    | split
    | dsimp only

theorem selectLogical_moves {cs : List Part} {s0 u : State} (hm : Moves cs s0 u) (p : Nat) (corrupt : Bool) (st : Stamp) (m0 : Part.regs ∈ cs) (m1 : Part.ind ∈ cs) (m2 : Part.loop ∈ cs) (m3 : Part.net ∈ cs) (m4 : Part.tlm ∈ cs) (m5 : Part.twin ∈ cs) (m6 : Part.free ∈ cs) :
    Moves cs s0 (selectLogical p corrupt st u) := by
  unfold selectLogical
  repeat' first
    | with_reducible assumption
    | (refine chooseQueue_moves_eq (by with_reducible assumption) ?_ ?_ ?_ <;> try with_reducible assumption)
    | with_reducible apply chooseQueue_moves
    | with_reducible apply profileTakes_moves
    | with_reducible apply serveHead_moves
    | with_reducible apply servePfc_moves
    | intro _
    | split
    | dsimp only

theorem selectTiming_moves {cs : List Part} {s0 s : State} (hm : Moves cs s0 s) (p : Nat) (corrupt : Bool) (st : Stamp) (m0 : Part.regs ∈ cs) (m1 : Part.ind ∈ cs) (m2 : Part.loop ∈ cs) (m3 : Part.net ∈ cs) (m4 : Part.tlm ∈ cs) (m5 : Part.twin ∈ cs) (m6 : Part.free ∈ cs) :
    Moves cs s0 (selectTiming p corrupt st s) := by
  unfold selectTiming
  repeat' first
    | with_reducible assumption
    | with_reducible apply corruptFound_moves
    | with_reducible apply releaseFrame_moves
    | with_reducible apply selectFrame_moves
    | intro _
    | split
    | dsimp only

theorem selection_moves {cs : List Part} {s0 s : State} (hm : Moves cs s0 s) (p : Nat) (corrupt : Bool) (st : Stamp) (m0 : Part.regs ∈ cs) (m1 : Part.ind ∈ cs) (m2 : Part.loop ∈ cs) (m3 : Part.net ∈ cs) (m4 : Part.tlm ∈ cs) (m5 : Part.twin ∈ cs) (m6 : Part.free ∈ cs) :
    Moves cs s0 (selection p corrupt st s) := by
  unfold selection
  repeat' first
    | with_reducible assumption
    | with_reducible apply selectLogical_moves
    | with_reducible apply selectTiming_moves
    | intro _
    | split
    | dsimp only

theorem handover_moves {cs : List Part} {s0 s : State} (hm : Moves cs s0 s) (id : Nat) (m0 : Part.regs ∈ cs) (m1 : Part.ind ∈ cs) (m2 : Part.net ∈ cs) (m3 : Part.tlm ∈ cs) :
    Moves cs s0 (handover id s) := by
  unfold handover
  repeat' first
    | with_reducible assumption
    | with_reducible apply State.setFrame_moves
    | with_reducible apply frameDone_moves
    | with_reducible apply tagClose_moves
    | with_reducible apply tagStage_moves
    | intro _
    | split
    | dsimp only

theorem countStomp_moves {cs : List Part} {s0 s : State} (hm : Moves cs s0 s) (f : Frame) (m0 : Part.regs ∈ cs) (m1 : Part.loop ∈ cs) (m2 : Part.twin ∈ cs) (m3 : Part.free ∈ cs) :
    Moves cs s0 (countStomp f s) := by
  unfold countStomp
  repeat' first
    | with_reducible assumption
    | with_reducible apply State.bump64_moves
    | with_reducible apply State.raise_moves
    | with_reducible apply bumpPort_moves
    | with_reducible apply corruptFound_moves
    | intro _
    | split
    | dsimp only

theorem countSent_moves {cs : List Part} {s0 s : State} (hm : Moves cs s0 s) (e : Nat) (n : Nat) (m0 : Part.regs ∈ cs) :
    Moves cs s0 (countSent e n s) := by
  unfold countSent
  repeat' first
    | with_reducible assumption
    | with_reducible apply bumpAln_moves
    | with_reducible apply bumpPort_moves
    | intro _
    | split
    | dsimp only

theorem transmitEnd_moves {cs : List Part} {s0 s : State} (hm : Moves cs s0 s) (id : Nat) (corrupt : Bool) (m0 : Part.regs ∈ cs) (m1 : Part.ind ∈ cs) (m2 : Part.tb ∈ cs) (m3 : Part.loop ∈ cs) (m4 : Part.net ∈ cs) (m5 : Part.tlm ∈ cs) (m6 : Part.twin ∈ cs) (m7 : Part.free ∈ cs) :
    Moves cs s0 (transmitEnd id corrupt s) := by
  unfold transmitEnd
  repeat' first
    | with_reducible assumption
    | with_reducible apply State.updTb_moves
    | with_reducible apply countSent_moves
    | with_reducible apply countStomp_moves
    | with_reducible apply evtOccur_moves
    | with_reducible apply frameDone_moves
    | with_reducible apply putOut_moves
    | with_reducible apply tagClose_moves
    | with_reducible apply tagStage_moves
    | intro _
    | split
    | dsimp only

end Sys2Proof.Machine
end

