-- ==== Sys2Proof/Laws/FrameLoop.lean ====
section
/-!
SUPPORT. Sys2Proof/Laws/FrameLoop.lean: for each operation of Machine/Loop.lean that changes the state, the parts it may change (and
that it keeps storage canonical), once and for all: `Moves` goes through it.
-/
namespace Sys2Proof.Machine
set_option Elab.async false
set_option linter.unusedTactic false
set_option linter.unreachableTactic false

theorem State.updRef_moves {cs : List Part} {s0 s : State} (hm : Moves cs s0 s) (i : Nat) (f : RefSt → RefSt) (m0 : Part.loop ∈ cs) :
    Moves cs s0 (State.updRef s i f) := by
  unfold State.updRef
  repeat' first
    | with_reducible assumption
    | with_reducible apply State.updLoop_moves
    | intro _
    | split
    | dsimp only

theorem showBuildOuts_moves {cs : List Part} {s0 s : State} (hm : Moves cs s0 s) (m0 : Part.regs ∈ cs) :
    Moves cs s0 (showBuildOuts s) := by
  unfold showBuildOuts
  repeat' first
    | with_reducible assumption
    | with_reducible apply State.setReg_moves
    | with_reducible apply State.setReg64_moves
    | intro _
    | split
    | dsimp only

theorem addBuildOut_moves {cs : List Part} {s0 s : State} (hm : Moves cs s0 s) (i : Nat) (d : Int) (m0 : Part.regs ∈ cs) (m1 : Part.loop ∈ cs) :
    Moves cs s0 (addBuildOut i d s) := by
  unfold addBuildOut
  repeat' first
    | with_reducible assumption
    | with_reducible apply State.updLoop_moves
    | with_reducible apply showBuildOuts_moves
    | intro _
    | split
    | dsimp only

theorem setBuildOut_moves {cs : List Part} {s0 s : State} (hm : Moves cs s0 s) (i : Nat) (m0 : Part.regs ∈ cs) (m1 : Part.loop ∈ cs) :
    Moves cs s0 (setBuildOut i s) := by
  unfold setBuildOut
  repeat' first
    | with_reducible assumption
    | with_reducible apply State.updLoop_moves
    | with_reducible apply showBuildOuts_moves
    | intro _
    | split
    | dsimp only

theorem loopTimeMoved_moves {cs : List Part} {s0 s : State} (hm : Moves cs s0 s) (d : Int) (intoBt : Bool) (m0 : Part.regs ∈ cs) (m1 : Part.loop ∈ cs) :
    Moves cs s0 (loopTimeMoved d intoBt s) := by
  unfold loopTimeMoved
  repeat' first
    | with_reducible assumption
    | with_reducible apply State.updLoop_moves
    | with_reducible apply State.updRef_moves
    | with_reducible apply showBuildOuts_moves
    | with_reducible apply forUpto_moves
    | intro _
    | split
    | dsimp only

theorem setRefState_moves {cs : List Part} {s0 s : State} (hm : Moves cs s0 s) (i : Nat) (st : Nat) (m0 : Part.regs ∈ cs) :
    Moves cs s0 (setRefState i st s) := by
  unfold setRefState
  repeat' first
    | with_reducible assumption
    | with_reducible apply State.raise_moves
    | with_reducible apply State.setFld_moves
    | intro _
    | split
    | dsimp only

theorem startQual_moves {cs : List Part} {s0 s : State} (hm : Moves cs s0 s) (i : Nat) (m0 : Part.regs ∈ cs) :
    Moves cs s0 (startQual i s) := by
  unfold startQual
  repeat' first
    | with_reducible assumption
    | with_reducible apply State.setFld_moves
    | intro _
    | split
    | dsimp only

theorem refAbsent_moves {cs : List Part} {s0 s : State} (hm : Moves cs s0 s) (i : Nat) (cause : Nat) (m0 : Part.regs ∈ cs) (m1 : Part.loop ∈ cs) :
    Moves cs s0 (refAbsent i cause s) := by
  unfold refAbsent
  repeat' first
    | with_reducible assumption
    | with_reducible apply State.setFld_moves
    | with_reducible apply State.updRef_moves
    | with_reducible apply setRefState_moves
    | with_reducible apply startQual_moves
    | intro _
    | split
    | dsimp only

theorem refRequalify_moves {cs : List Part} {s0 s : State} (hm : Moves cs s0 s) (i : Nat) (cause : Nat) (m0 : Part.regs ∈ cs) :
    Moves cs s0 (refRequalify i cause s) := by
  unfold refRequalify
  repeat' first
    | with_reducible assumption
    | with_reducible apply State.setFld_moves
    | with_reducible apply setRefState_moves
    | with_reducible apply startQual_moves
    | intro _
    | split
    | dsimp only

theorem refPresence_moves {cs : List Part} {s0 s : State} (hm : Moves cs s0 s) (i : Nat) (m0 : Part.regs ∈ cs) (m1 : Part.loop ∈ cs) :
    Moves cs s0 (refPresence i s) := by
  unfold refPresence
  repeat' first
    | with_reducible assumption
    | with_reducible apply State.setFlag_moves
    | with_reducible apply refAbsent_moves
    | with_reducible apply setRefState_moves
    | with_reducible apply startQual_moves
    | intro _
    | split
    | dsimp only

theorem setY_moves {cs : List Part} {s0 s : State} (hm : Moves cs s0 s) (y : Int) (m0 : Part.regs ∈ cs) :
    Moves cs s0 (setY y s) := by
  unfold setY
  repeat' first
    | with_reducible assumption
    | with_reducible apply State.raiseIf_moves
    | with_reducible apply State.setFlag_moves
    | with_reducible apply State.setReg64_moves
    | intro _
    | split
    | dsimp only

theorem slewStep_moves {cs : List Part} {s0 s : State} (hm : Moves cs s0 s) (i : Nat) (m0 : Part.regs ∈ cs) (m1 : Part.loop ∈ cs) :
    Moves cs s0 (slewStep i s) := by
  unfold slewStep
  repeat' first
    | with_reducible assumption
    | with_reducible apply State.raiseIf_moves
    | with_reducible apply State.updLoop_moves
    | intro _
    | split
    | dsimp only

theorem loopFilter_moves {cs : List Part} {s0 s : State} (hm : Moves cs s0 s) (i : Nat) (e : Int) (m0 : Part.regs ∈ cs) (m1 : Part.loop ∈ cs) (m2 : Part.free ∈ cs) :
    Moves cs s0 (loopFilter i e s) := by
  unfold loopFilter
  repeat' first
    | with_reducible assumption
    | (refine State.draw_moves_eq (by with_reducible assumption) ?_ ?_ <;> try with_reducible assumption)
    | with_reducible apply State.draw_moves
    | with_reducible apply State.updLoop_moves
    | with_reducible apply setY_moves
    | intro _
    | split
    | dsimp only

theorem noteError_moves {cs : List Part} {s0 s : State} (hm : Moves cs s0 s) (i : Nat) (e : Int) (m0 : Part.regs ∈ cs) (m1 : Part.loop ∈ cs) :
    Moves cs s0 (noteError i e s) := by
  unfold noteError
  repeat' first
    | with_reducible assumption
    | with_reducible apply State.setReg_moves
    | with_reducible apply State.updRef_moves
    | intro _
    | split
    | dsimp only

theorem refSample_moves {cs : List Part} {s0 s : State} (hm : Moves cs s0 s) (i : Nat) (x : Int) (m0 : Part.regs ∈ cs) (m1 : Part.loop ∈ cs) (m2 : Part.twin ∈ cs) (m3 : Part.free ∈ cs) :
    Moves cs s0 (refSample i x s) := by
  unfold refSample
  repeat' first
    | with_reducible assumption
    | with_reducible apply State.raise_moves
    | with_reducible apply State.setReg_moves
    | with_reducible apply State.updRef_moves
    | with_reducible apply faultLog_moves
    | with_reducible apply loopFilter_moves
    | with_reducible apply noteError_moves
    | with_reducible apply refRequalify_moves
    | with_reducible apply slewStep_moves
    | intro _
    | split
    | dsimp only

theorem showHoReady_moves {cs : List Part} {s0 s : State} (hm : Moves cs s0 s) (m0 : Part.regs ∈ cs) (m1 : Part.loop ∈ cs) :
    Moves cs s0 (showHoReady s) := by
  unfold showHoReady
  repeat' first
    | with_reducible assumption
    | with_reducible apply State.setFlag_moves
    | with_reducible apply State.updLoop_moves
    | intro _
    | split
    | dsimp only

theorem showHold_moves {cs : List Part} {s0 s : State} (hm : Moves cs s0 s) (m0 : Part.regs ∈ cs) :
    Moves cs s0 (showHold s) := by
  unfold showHold
  repeat' first
    | with_reducible assumption
    | with_reducible apply State.setReg_moves
    | with_reducible apply State.setReg64_moves
    | intro _
    | split
    | dsimp only

theorem formHold_moves {cs : List Part} {s0 s : State} (hm : Moves cs s0 s) (m0 : Part.loop ∈ cs) (m1 : Part.free ∈ cs) :
    Moves cs s0 (formHold s) := by
  unfold formHold
  repeat' first
    | with_reducible assumption
    | (refine State.draw_moves_eq (by with_reducible assumption) ?_ ?_ <;> try with_reducible assumption)
    | with_reducible apply State.draw_moves
    | with_reducible apply State.updLoop_moves
    | intro _
    | split
    | dsimp only

theorem latchEntry_moves {cs : List Part} {s0 s : State} (hm : Moves cs s0 s) (m0 : Part.regs ∈ cs) :
    Moves cs s0 (latchEntry s) := by
  unfold latchEntry
  repeat' first
    | with_reducible assumption
    | with_reducible apply State.setReg_moves
    | with_reducible apply forUpto_moves
    | intro _
    | split
    | dsimp only

theorem enterHoldover_moves {cs : List Part} {s0 s : State} (hm : Moves cs s0 s) (m0 : Part.regs ∈ cs) (m1 : Part.loop ∈ cs) (m2 : Part.free ∈ cs) :
    Moves cs s0 (enterHoldover s) := by
  unfold enterHoldover
  repeat' first
    | with_reducible assumption
    | with_reducible apply formHold_moves
    | with_reducible apply latchEntry_moves
    | with_reducible apply showHold_moves
    | intro _
    | split
    | dsimp only

theorem setLoopState_moves {cs : List Part} {s0 s : State} (hm : Moves cs s0 s) (st : Nat) (m0 : Part.regs ∈ cs) (m1 : Part.loop ∈ cs) (m2 : Part.twin ∈ cs) :
    Moves cs s0 (setLoopState st s) := by
  unfold setLoopState
  repeat' first
    | with_reducible assumption
    | with_reducible apply State.raiseIf_moves
    | with_reducible apply State.setFld_moves
    | with_reducible apply State.setReg_moves
    | with_reducible apply State.updLoop_moves
    | with_reducible apply xchkBreak_moves
    | intro _
    | split
    | dsimp only

theorem setSelected_moves {cs : List Part} {s0 s : State} (hm : Moves cs s0 s) (sel : Nat) (target : Nat) (m0 : Part.regs ∈ cs) (m1 : Part.loop ∈ cs) (m2 : Part.twin ∈ cs) :
    Moves cs s0 (setSelected sel target s) := by
  unfold setSelected
  repeat' first
    | with_reducible assumption
    | with_reducible apply State.raiseIf_moves
    | with_reducible apply State.setFld_moves
    | with_reducible apply State.updLoop_moves
    | with_reducible apply xchkBreak_moves
    | intro _
    | split
    | dsimp only

theorem toSwitching_moves {cs : List Part} {s0 s : State} (hm : Moves cs s0 s) (i : Nat) (r : Int) (m0 : Part.regs ∈ cs) (m1 : Part.loop ∈ cs) (m2 : Part.twin ∈ cs) :
    Moves cs s0 (toSwitching i r s) := by
  unfold toSwitching
  repeat' first
    | with_reducible assumption
    | with_reducible apply State.raiseIf_moves
    | with_reducible apply State.updLoop_moves
    | with_reducible apply setLoopState_moves
    | with_reducible apply setSelected_moves
    | intro _
    | split
    | dsimp only

theorem slewTo_moves {cs : List Part} {s0 s : State} (hm : Moves cs s0 s) (i : Nat) (m0 : Part.regs ∈ cs) (m1 : Part.loop ∈ cs) (m2 : Part.twin ∈ cs) :
    Moves cs s0 (slewTo i s) := by
  unfold slewTo
  repeat' first
    | with_reducible assumption
    | with_reducible apply toSwitching_moves
    | intro _
    | split
    | dsimp only

theorem toAcquire_moves {cs : List Part} {s0 s : State} (hm : Moves cs s0 s) (i : Nat) (m0 : Part.regs ∈ cs) (m1 : Part.loop ∈ cs) (m2 : Part.twin ∈ cs) :
    Moves cs s0 (toAcquire i s) := by
  unfold toAcquire
  repeat' first
    | with_reducible assumption
    | with_reducible apply State.updLoop_moves
    | with_reducible apply setBuildOut_moves
    | with_reducible apply setLoopState_moves
    | with_reducible apply setSelected_moves
    | intro _
    | split
    | dsimp only

theorem toHoldover_moves {cs : List Part} {s0 s : State} (hm : Moves cs s0 s) (m0 : Part.regs ∈ cs) (m1 : Part.loop ∈ cs) (m2 : Part.twin ∈ cs) (m3 : Part.free ∈ cs) :
    Moves cs s0 (toHoldover s) := by
  unfold toHoldover
  repeat' first
    | with_reducible assumption
    | with_reducible apply State.raiseIf_moves
    | with_reducible apply State.updLoop_moves
    | with_reducible apply enterHoldover_moves
    | with_reducible apply setLoopState_moves
    | with_reducible apply setSelected_moves
    | with_reducible apply setY_moves
    | intro _
    | split
    | dsimp only

theorem toFreeRun_moves {cs : List Part} {s0 s : State} (hm : Moves cs s0 s) (m0 : Part.regs ∈ cs) (m1 : Part.loop ∈ cs) (m2 : Part.twin ∈ cs) :
    Moves cs s0 (toFreeRun s) := by
  unfold toFreeRun
  repeat' first
    | with_reducible assumption
    | with_reducible apply State.updLoop_moves
    | with_reducible apply setLoopState_moves
    | with_reducible apply setSelected_moves
    | with_reducible apply setY_moves
    | intro _
    | split
    | dsimp only

theorem testReturn_moves {cs : List Part} {s0 s : State} (hm : Moves cs s0 s) (i : Nat) (m0 : Part.regs ∈ cs) (m1 : Part.loop ∈ cs) (m2 : Part.twin ∈ cs) :
    Moves cs s0 (testReturn i s) := by
  unfold testReturn
  repeat' first
    | with_reducible assumption
    | with_reducible apply State.raise_moves
    | with_reducible apply State.setFld_moves
    | with_reducible apply State.setReg_moves
    | with_reducible apply setLoopState_moves
    | with_reducible apply slewTo_moves
    | intro _
    | split
    | dsimp only

theorem noteSel_moves {cs : List Part} {s0 s : State} (hm : Moves cs s0 s) (sel : Option Nat) (m0 : Part.regs ∈ cs) (m1 : Part.loop ∈ cs) :
    Moves cs s0 (noteSel sel s) := by
  unfold noteSel
  repeat' first
    | with_reducible assumption
    | with_reducible apply State.raiseIf_moves
    | with_reducible apply State.updLoop_moves
    | intro _
    | split
    | dsimp only

theorem moveLoop_moves {cs : List Part} {s0 s : State} (hm : Moves cs s0 s) (sel : Option Nat) (m0 : Part.regs ∈ cs) (m1 : Part.loop ∈ cs) (m2 : Part.twin ∈ cs) (m3 : Part.free ∈ cs) :
    Moves cs s0 (moveLoop sel s) := by
  unfold moveLoop
  repeat' first
    | with_reducible assumption
    | with_reducible apply State.setFld_moves
    | with_reducible apply setLoopState_moves
    | with_reducible apply slewTo_moves
    | with_reducible apply testReturn_moves
    | with_reducible apply toAcquire_moves
    | with_reducible apply toFreeRun_moves
    | with_reducible apply toHoldover_moves
    | intro _
    | split
    | dsimp only

theorem selectionEval_moves {cs : List Part} {s0 s : State} (hm : Moves cs s0 s) (m0 : Part.regs ∈ cs) (m1 : Part.loop ∈ cs) (m2 : Part.twin ∈ cs) (m3 : Part.free ∈ cs) :
    Moves cs s0 (selectionEval s) := by
  unfold selectionEval
  repeat' first
    | with_reducible assumption
    | with_reducible apply State.raiseIf_moves
    | with_reducible apply State.setFlag_moves
    | with_reducible apply moveLoop_moves
    | with_reducible apply noteSel_moves
    | intro _
    | split
    | dsimp only

theorem actRefCfg_moves {cs : List Part} {s0 s : State} (hm : Moves cs s0 s) (i : Nat) (old : Word) (_raw : Word) (m0 : Part.regs ∈ cs) (m1 : Part.loop ∈ cs) :
    Moves cs s0 (actRefCfg i old _raw s) := by
  unfold actRefCfg
  repeat' first
    | with_reducible assumption
    | with_reducible apply State.setFlag_moves
    | with_reducible apply State.setFld_moves
    | with_reducible apply refAbsent_moves
    | with_reducible apply setRefState_moves
    | intro _
    | split
    | dsimp only

theorem actRefFreqHz_moves {cs : List Part} {s0 s : State} (hm : Moves cs s0 s) (i : Nat) (old : Word) (raw : Word) (m0 : Part.regs ∈ cs) (m1 : Part.loop ∈ cs) :
    Moves cs s0 (actRefFreqHz i old raw s) := by
  unfold actRefFreqHz
  repeat' first
    | with_reducible assumption
    | with_reducible apply State.raise_moves
    | with_reducible apply State.setFlag_moves
    | with_reducible apply State.setReg_moves
    | with_reducible apply State.updRef_moves
    | with_reducible apply refAbsent_moves
    | intro _
    | split
    | dsimp only

theorem actRefDelay_moves {cs : List Part} {s0 s : State} (hm : Moves cs s0 s) (i : Nat) (old : Word) (_raw : Word) (m0 : Part.loop ∈ cs) :
    Moves cs s0 (actRefDelay i old _raw s) := by
  unfold actRefDelay
  repeat' first
    | with_reducible assumption
    | with_reducible apply State.updRef_moves
    | intro _
    | split
    | dsimp only

theorem actRefCmd_moves {cs : List Part} {s0 s : State} (hm : Moves cs s0 s) (i : Nat) (_old : Word) (raw : Word) (m0 : Part.regs ∈ cs) (m1 : Part.loop ∈ cs) :
    Moves cs s0 (actRefCmd i _old raw s) := by
  unfold actRefCmd
  repeat' first
    | with_reducible assumption
    | with_reducible apply State.setFld_moves
    | with_reducible apply refAbsent_moves
    | with_reducible apply setRefState_moves
    | intro _
    | split
    | dsimp only

theorem actHoCtrl_moves {cs : List Part} {s0 s : State} (hm : Moves cs s0 s) (_old : Word) (_raw : Word) (m0 : Part.regs ∈ cs) (m1 : Part.loop ∈ cs) :
    Moves cs s0 (actHoCtrl _old _raw s) := by
  unfold actHoCtrl
  repeat' first
    | with_reducible assumption
    | with_reducible apply showHoReady_moves
    | intro _
    | split
    | dsimp only

theorem cmdRefused_moves {cs : List Part} {s0 s : State} (hm : Moves cs s0 s) (m0 : Part.regs ∈ cs) :
    Moves cs s0 (cmdRefused s) := by
  unfold cmdRefused
  repeat' first
    | with_reducible assumption
    | with_reducible apply State.raise_moves
    | intro _
    | split
    | dsimp only

theorem leaveDispute_moves {cs : List Part} {s0 s : State} (hm : Moves cs s0 s) (r : Int) (m0 : Part.regs ∈ cs) (m1 : Part.loop ∈ cs) (m2 : Part.twin ∈ cs) :
    Moves cs s0 (leaveDispute r s) := by
  unfold leaveDispute
  repeat' first
    | with_reducible assumption
    | with_reducible apply State.setFld_moves
    | with_reducible apply toSwitching_moves
    | intro _
    | split
    | dsimp only

theorem disputeSlope_moves {cs : List Part} {s0 s : State} (hm : Moves cs s0 s) (m0 : Part.regs ∈ cs) (m1 : Part.loop ∈ cs) (m2 : Part.twin ∈ cs) :
    Moves cs s0 (disputeSlope s) := by
  unfold disputeSlope
  repeat' first
    | with_reducible assumption
    | with_reducible apply cmdRefused_moves
    | with_reducible apply leaveDispute_moves
    | intro _
    | split
    | dsimp only

theorem disputeStep_moves {cs : List Part} {s0 s : State} (hm : Moves cs s0 s) (m0 : Part.regs ∈ cs) (m1 : Part.tb ∈ cs) (m2 : Part.loop ∈ cs) (m3 : Part.twin ∈ cs) :
    Moves cs s0 (disputeStep s) := by
  unfold disputeStep
  repeat' first
    | with_reducible assumption
    | with_reducible apply State.raise_moves
    | with_reducible apply addBuildOut_moves
    | with_reducible apply cmdRefused_moves
    | with_reducible apply leaveDispute_moves
    | with_reducible apply tbPending_moves
    | intro _
    | split
    | dsimp only

theorem disputeReject_moves {cs : List Part} {s0 s : State} (hm : Moves cs s0 s) (m0 : Part.regs ∈ cs) (m1 : Part.loop ∈ cs) (m2 : Part.twin ∈ cs) (m3 : Part.free ∈ cs) :
    Moves cs s0 (disputeReject s) := by
  unfold disputeReject
  repeat' first
    | with_reducible assumption
    | with_reducible apply State.setFld_moves
    | with_reducible apply cmdRefused_moves
    | with_reducible apply selectionEval_moves
    | with_reducible apply setLoopState_moves
    | with_reducible apply setRefState_moves
    | intro _
    | split
    | dsimp only

theorem adjGo_moves {cs : List Part} {s0 s : State} (hm : Moves cs s0 s) (m0 : Part.regs ∈ cs) (m1 : Part.loop ∈ cs) :
    Moves cs s0 (adjGo s) := by
  unfold adjGo
  repeat' first
    | with_reducible assumption
    | with_reducible apply State.raiseIf_moves
    | with_reducible apply State.updLoop_moves
    | with_reducible apply addBuildOut_moves
    | with_reducible apply cmdRefused_moves
    | intro _
    | split
    | dsimp only

theorem clrHistory_moves {cs : List Part} {s0 s : State} (hm : Moves cs s0 s) (m0 : Part.regs ∈ cs) (m1 : Part.loop ∈ cs) :
    Moves cs s0 (clrHistory s) := by
  unfold clrHistory
  repeat' first
    | with_reducible assumption
    | with_reducible apply State.updLoop_moves
    | with_reducible apply showHoReady_moves
    | intro _
    | split
    | dsimp only

theorem actClkoutCtrl_moves {cs : List Part} {s0 s : State} (hm : Moves cs s0 s) (k : Nat) (old : Word) (raw : Word) (m0 : Part.loop ∈ cs) :
    Moves cs s0 (actClkoutCtrl k old raw s) := by
  unfold actClkoutCtrl
  repeat' first
    | with_reducible assumption
    | with_reducible apply State.updClkout_moves
    | intro _
    | split
    | dsimp only

theorem clkoutsSquelch_moves {cs : List Part} {s0 s : State} (hm : Moves cs s0 s) (m0 : Part.loop ∈ cs) :
    Moves cs s0 (clkoutsSquelch s) := by
  unfold clkoutsSquelch
  repeat' first
    | with_reducible assumption
    | with_reducible apply State.updClkout_moves
    | with_reducible apply forUpto_moves
    | intro _
    | split
    | dsimp only

theorem actLockA_moves {cs : List Part} {s0 s : State} (hm : Moves cs s0 s) (_old : Word) (raw : Word) (m0 : Part.loop ∈ cs) :
    Moves cs s0 (actLockA _old raw s) := by
  unfold actLockA
  repeat' first
    | with_reducible assumption
    | with_reducible apply State.updLoop_moves
    | intro _
    | split
    | dsimp only

end Sys2Proof.Machine
end

