-- ==== Sys2Proof/Laws/FramePrf.lean ====
section
/-!
SUPPORT. Sys2Proof/Laws/FramePrf.lean: for each operation of Machine/Prf.lean that changes the state, the parts it may change (and
that it keeps storage canonical), once and for all: `Moves` goes through it.
-/
namespace Sys2Proof.Machine
set_option Elab.async false
set_option linter.unusedTactic false
set_option linter.unreachableTactic false

theorem State.updPrf_moves {cs : List Part} {s0 s : State} (hm : Moves cs s0 s) (f : PrfSt → PrfSt) (m0 : Part.prf ∈ cs) :
    Moves cs s0 (State.updPrf s f) := by
  unfold State.updPrf
  repeat' first
    | with_reducible assumption
    | with_reducible apply prf_moves
    | intro _
    | split
    | dsimp only

theorem setProof_moves {cs : List Part} {s0 s : State} (hm : Moves cs s0 s) (c : Nat) (b : Bool) (m0 : Part.regs ∈ cs) :
    Moves cs s0 (setProof c b s) := by
  unfold setProof
  repeat' first
    | with_reducible assumption
    | with_reducible apply State.setRbit_moves
    | with_reducible apply showCell_moves
    | intro _
    | split
    | dsimp only

theorem cellTakenOut_moves {cs : List Part} {s0 s : State} (hm : Moves cs s0 s) (c : Nat) (m0 : Part.regs ∈ cs) (m1 : Part.met ∈ cs) :
    Moves cs s0 (cellTakenOut c s) := by
  unfold cellTakenOut
  repeat' first
    | with_reducible assumption
    | with_reducible apply takeOut_moves
    | with_reducible apply withHolds_moves
    | intro _
    | split
    | dsimp only

theorem showPrf_moves {cs : List Part} {s0 s : State} (hm : Moves cs s0 s) (m0 : Part.regs ∈ cs) :
    Moves cs s0 (showPrf s) := by
  unfold showPrf
  repeat' first
    | with_reducible assumption
    | with_reducible apply State.setFlag_moves
    | with_reducible apply State.setFld_moves
    | intro _
    | split
    | dsimp only

theorem prfStartCell_moves {cs : List Part} {s0 s : State} (hm : Moves cs s0 s) (c : Nat) (m0 : Part.regs ∈ cs) (m1 : Part.ind ∈ cs) (m2 : Part.met ∈ cs) (m3 : Part.prf ∈ cs) :
    Moves cs s0 (prfStartCell c s) := by
  unfold prfStartCell
  repeat' first
    | with_reducible assumption
    | with_reducible apply State.updPrf_moves
    | with_reducible apply cdStart_moves
    | intro _
    | split
    | dsimp only

theorem prfStartPair_moves {cs : List Part} {s0 s : State} (hm : Moves cs s0 s) (hold : Bool) (p : Nat) (m0 : Part.regs ∈ cs) (m1 : Part.ind ∈ cs) (m2 : Part.met ∈ cs) (m3 : Part.prf ∈ cs) :
    Moves cs s0 (prfStartPair hold p s) := by
  unfold prfStartPair
  repeat' first
    | with_reducible assumption
    | with_reducible apply State.updPrf_moves
    | with_reducible apply prfStartCell_moves
    | with_reducible apply setProof_moves
    | with_reducible apply withHolds_moves
    | intro _
    | split
    | dsimp only

theorem pairDone_moves {cs : List Part} {s0 s : State} (hm : Moves cs s0 s) (m0 : Part.regs ∈ cs) :
    Moves cs s0 (pairDone s) := by
  unfold pairDone
  repeat' first
    | with_reducible assumption
    | with_reducible apply State.setFld_moves
    | intro _
    | split
    | dsimp only

theorem prfReachPair_moves {cs : List Part} {s0 s : State} (hm : Moves cs s0 s) (hold : Bool) (p : Nat) (m0 : Part.regs ∈ cs) (m1 : Part.ind ∈ cs) (m2 : Part.met ∈ cs) (m3 : Part.prf ∈ cs) :
    Moves cs s0 (prfReachPair hold p s).1 := by
  unfold prfReachPair
  repeat' first
    | with_reducible assumption
    | with_reducible apply State.setRbit_moves
    | with_reducible apply pairDone_moves
    | with_reducible apply prfStartPair_moves
    | intro _
    | split
    | dsimp only
theorem prfReachPair_moves_eq {cs : List Part} {s0 s v0 : State} {v1} {hold : Bool} {p : Nat} (e : prfReachPair hold p s = (v0, v1)) (hm : Moves cs s0 s) (m0 : Part.regs ∈ cs) (m1 : Part.ind ∈ cs) (m2 : Part.met ∈ cs) (m3 : Part.prf ∈ cs) :
    Moves cs s0 v0 := by
  have := prfReachPair_moves hm hold p m0 m1 m2 m3
  rwa [e] at this

theorem prfHoldNext_moves {cs : List Part} {s0 y1 : State} (hm : Moves cs s0 y1) (y0 : List Nat) (m0 : Part.regs ∈ cs) (m1 : Part.ind ∈ cs) (m2 : Part.met ∈ cs) (m3 : Part.prf ∈ cs) :
    Moves cs s0 (prfHoldNext y0 y1) := by
  induction y0 generalizing y1 with
  | nil =>
    unfold prfHoldNext
    repeat' first
      | with_reducible assumption
      | with_reducible apply State.updPrf_moves
      | (refine prfReachPair_moves_eq (by with_reducible assumption) ?_ ?_ ?_ ?_ ?_ <;> try with_reducible assumption)
      | with_reducible apply prfReachPair_moves
      | intro _
      | split
      | dsimp only
  | cons q qs ih =>
    unfold prfHoldNext
    repeat' first
      | with_reducible assumption
      | with_reducible apply ih
      | with_reducible apply State.updPrf_moves
      | (refine prfReachPair_moves_eq (by with_reducible assumption) ?_ ?_ ?_ ?_ ?_ <;> try with_reducible assumption)
      | with_reducible apply prfReachPair_moves
      | intro _
      | split
      | dsimp only

theorem prfComplete_moves {cs : List Part} {s0 s : State} (hm : Moves cs s0 s) (m0 : Part.regs ∈ cs) (m1 : Part.prf ∈ cs) :
    Moves cs s0 (prfComplete s) := by
  unfold prfComplete
  repeat' first
    | with_reducible assumption
    | with_reducible apply State.bump32_moves
    | with_reducible apply State.raise_moves
    | with_reducible apply State.setFlag_moves
    | with_reducible apply State.setReg_moves
    | with_reducible apply State.setRegs_moves
    | with_reducible apply State.updPrf_moves
    | with_reducible apply showPrf_moves
    | intro _
    | split
    | dsimp only

theorem prfAdvance_moves {cs : List Part} {s0 s : State} (hm : Moves cs s0 s) (m0 : Part.regs ∈ cs) (m1 : Part.ind ∈ cs) (m2 : Part.met ∈ cs) (m3 : Part.prf ∈ cs) :
    Moves cs s0 (prfAdvance s) := by
  unfold prfAdvance
  repeat' first
    | with_reducible assumption
    | with_reducible apply State.updPrf_moves
    | with_reducible apply prfComplete_moves
    | with_reducible apply prfHoldNext_moves
    | intro _
    | split
    | dsimp only

theorem prfStart_moves {cs : List Part} {s0 s : State} (hm : Moves cs s0 s) (m0 : Part.regs ∈ cs) (m1 : Part.ind ∈ cs) (m2 : Part.met ∈ cs) (m3 : Part.prf ∈ cs) :
    Moves cs s0 (prfStart s) := by
  unfold prfStart
  repeat' first
    | with_reducible assumption
    | with_reducible apply State.raise_moves
    | with_reducible apply State.setFlag_moves
    | with_reducible apply State.setFld_moves
    | with_reducible apply State.setReg_moves
    | with_reducible apply State.updPrf_moves
    | with_reducible apply prfAdvance_moves
    | (refine prfReachPair_moves_eq (by with_reducible assumption) ?_ ?_ ?_ ?_ ?_ <;> try with_reducible assumption)
    | with_reducible apply prfReachPair_moves
    | with_reducible apply showPrf_moves
    | with_reducible apply foldl_moves
    | intro _
    | split
    | dsimp only

theorem prfTrigger_moves {cs : List Part} {s0 s : State} (hm : Moves cs s0 s) (cause : Nat) (m0 : Part.regs ∈ cs) (m1 : Part.ind ∈ cs) (m2 : Part.met ∈ cs) (m3 : Part.prf ∈ cs) :
    Moves cs s0 (prfTrigger cause s) := by
  unfold prfTrigger
  repeat' first
    | with_reducible assumption
    | with_reducible apply State.updPrf_moves
    | with_reducible apply prfStart_moves
    | with_reducible apply showPrf_moves
    | intro _
    | split
    | dsimp only

theorem prfCellEnd_moves {cs : List Part} {s0 s : State} (hm : Moves cs s0 s) (c : Nat) (m0 : Part.regs ∈ cs) (m1 : Part.ind ∈ cs) (m2 : Part.met ∈ cs) (m3 : Part.prf ∈ cs) :
    Moves cs s0 (prfCellEnd c s) := by
  unfold prfCellEnd
  repeat' first
    | with_reducible assumption
    | with_reducible apply State.updPrf_moves
    | with_reducible apply pairDone_moves
    | with_reducible apply prfAdvance_moves
    | with_reducible apply setProof_moves
    | with_reducible apply withHolds_moves
    | intro _
    | split
    | dsimp only

theorem prfCellDone_moves {cs : List Part} {s0 s : State} (hm : Moves cs s0 s) (c : Nat) (m0 : Part.regs ∈ cs) (m1 : Part.ind ∈ cs) (m2 : Part.met ∈ cs) (m3 : Part.loop ∈ cs) (m4 : Part.prf ∈ cs) (m5 : Part.twin ∈ cs) :
    Moves cs s0 (prfCellDone c s) := by
  unfold prfCellDone
  repeat' first
    | with_reducible assumption
    | with_reducible apply State.raise_moves
    | with_reducible apply State.setRbit_moves
    | with_reducible apply State.updPrf_moves
    | with_reducible apply cellTakenOut_moves
    | with_reducible apply faultLog_moves
    | with_reducible apply prfCellEnd_moves
    | with_reducible apply prfStartCell_moves
    | intro _
    | split
    | dsimp only

theorem prfAbandon_moves {cs : List Part} {s0 s : State} (hm : Moves cs s0 s) (m0 : Part.regs ∈ cs) (m1 : Part.met ∈ cs) (m2 : Part.prf ∈ cs) :
    Moves cs s0 (prfAbandon s) := by
  unfold prfAbandon
  repeat' first
    | with_reducible assumption
    | with_reducible apply State.bump32_moves
    | with_reducible apply State.raise_moves
    | with_reducible apply State.updPrf_moves
    | with_reducible apply cdAbandon_moves
    | with_reducible apply setProof_moves
    | with_reducible apply showPrf_moves
    | with_reducible apply withHolds_moves
    | with_reducible apply forUpto_moves
    | intro _
    | split
    | dsimp only

theorem actPrfCmd_moves {cs : List Part} {s0 s : State} (hm : Moves cs s0 s) (_old : Word) (raw : Word) (m0 : Part.regs ∈ cs) (m1 : Part.ind ∈ cs) (m2 : Part.met ∈ cs) (m3 : Part.prf ∈ cs) :
    Moves cs s0 (actPrfCmd _old raw s) := by
  unfold actPrfCmd
  repeat' first
    | with_reducible assumption
    | with_reducible apply State.updPrf_moves
    | with_reducible apply prfAbandon_moves
    | with_reducible apply prfTrigger_moves
    | with_reducible apply showPrf_moves
    | intro _
    | split
    | dsimp only

theorem actCellProof_moves {cs : List Part} {s0 s : State} (hm : Moves cs s0 s) (old : Word) (_raw : Word) (m0 : Part.regs ∈ cs) (m1 : Part.met ∈ cs) :
    Moves cs s0 (actCellProof old _raw s) := by
  unfold actCellProof
  repeat' first
    | with_reducible assumption
    | with_reducible apply State.raise_moves
    | with_reducible apply State.setReg_moves
    | with_reducible apply showCell_moves
    | with_reducible apply withHolds_moves
    | with_reducible apply forUpto_moves
    | intro _
    | split
    | dsimp only

theorem actCdStart_moves {cs : List Part} {s0 s : State} (hm : Moves cs s0 s) (_old : Word) (raw : Word) (m0 : Part.regs ∈ cs) (m1 : Part.ind ∈ cs) (m2 : Part.met ∈ cs) :
    Moves cs s0 (actCdStart _old raw s) := by
  unfold actCdStart
  repeat' first
    | with_reducible assumption
    | with_reducible apply State.raise_moves
    | with_reducible apply cdStart_moves
    | with_reducible apply forUpto_moves
    | intro _
    | split
    | dsimp only

theorem metResult_moves {cs : List Part} {s0 s : State} (hm : Moves cs s0 s) (c : Nat) (code : Option (BitVec 12)) (coarse : Nat) (m0 : Part.regs ∈ cs) (m1 : Part.ind ∈ cs) (m2 : Part.met ∈ cs) :
    Moves cs s0 (metResult c code coarse s) := by
  unfold metResult
  repeat' first
    | with_reducible assumption
    | with_reducible apply State.updCell_moves
    | with_reducible apply pilotConversion_moves
    | with_reducible apply randomConversion_moves
    | with_reducible apply sourceConversion_moves
    | intro _
    | split
    | dsimp only

theorem declarePair_moves {cs : List Part} {s0 s : State} (hm : Moves cs s0 s) (p : Nat) (f0 : Bool) (f1 : Bool) (m0 : Part.regs ∈ cs) (m1 : Part.met ∈ cs) (m2 : Part.loop ∈ cs) (m3 : Part.twin ∈ cs) :
    Moves cs s0 (declarePair p f0 f1 s) := by
  unfold declarePair
  repeat' first
    | with_reducible assumption
    | with_reducible apply State.raise_moves
    | with_reducible apply State.setFld_moves
    | with_reducible apply State.updCell_moves
    | with_reducible apply State.updMet_moves
    | with_reducible apply cellTakenOut_moves
    | with_reducible apply faultLog_moves
    | intro _
    | split
    | dsimp only

theorem declareCell_moves {cs : List Part} {s0 s : State} (hm : Moves cs s0 s) (c : Nat) (m0 : Part.regs ∈ cs) (m1 : Part.met ∈ cs) (m2 : Part.loop ∈ cs) (m3 : Part.twin ∈ cs) :
    Moves cs s0 (declareCell c s) := by
  unfold declareCell
  repeat' first
    | with_reducible assumption
    | with_reducible apply State.raise_moves
    | with_reducible apply State.updCell_moves
    | with_reducible apply cellTakenOut_moves
    | with_reducible apply faultLog_moves
    | intro _
    | split
    | dsimp only

theorem showPilots_moves {cs : List Part} {s0 s : State} (hm : Moves cs s0 s) (m0 : Part.regs ∈ cs) :
    Moves cs s0 (showPilots s) := by
  unfold showPilots
  repeat' first
    | with_reducible assumption
    | with_reducible apply State.setReg_moves
    | with_reducible apply forUpto_moves
    | intro _
    | split
    | dsimp only

theorem declareSub_moves {cs : List Part} {s0 t : State} (hm : Moves cs s0 t) (count : Nat) (bad : List Bool) (fails : List Nat) (c : Nat) (m0 : Part.regs ∈ cs) (m1 : Part.met ∈ cs) (m2 : Part.loop ∈ cs) (m3 : Part.twin ∈ cs) :
    Moves cs s0 (declareSub count bad fails c t) := by
  unfold declareSub
  repeat' first
    | with_reducible assumption
    | with_reducible apply declareCell_moves
    | with_reducible apply declarePair_moves
    | intro _
    | split
    | dsimp only

theorem checkWindow_moves {cs : List Part} {s0 s : State} (hm : Moves cs s0 s) (m0 : Part.regs ∈ cs) (m1 : Part.met ∈ cs) (m2 : Part.loop ∈ cs) (m3 : Part.twin ∈ cs) :
    Moves cs s0 (checkWindow s) := by
  unfold checkWindow
  repeat' first
    | with_reducible assumption
    | with_reducible apply State.updCell_moves
    | with_reducible apply State.updMet_moves
    | with_reducible apply declareSub_moves
    | with_reducible apply forUpto_moves
    | intro _
    | split
    | dsimp only

end Sys2Proof.Machine
end

