-- ==== Sys2Proof/Laws/FrameFlt.lean ====
section
/-!
SUPPORT. Sys2Proof/Laws/FrameFlt.lean: for each operation of Machine/Flt.lean that changes the state, the parts it may change (and
that it keeps storage canonical), once and for all: `Moves` goes through it.
-/
namespace Sys2Proof.Machine
set_option Elab.async false
set_option linter.unusedTactic false
set_option linter.unreachableTactic false

theorem frameLost_moves {cs : List Part} {s0 s : State} (hm : Moves cs s0 s) (id : Nat) (link : Option Nat) (m0 : Part.regs ∈ cs) (m1 : Part.ind ∈ cs) (m2 : Part.net ∈ cs) (m3 : Part.tlm ∈ cs) :
    Moves cs s0 (frameLost id link s) := by
  unfold frameLost
  repeat' first
    | with_reducible assumption
    | with_reducible apply State.setFrame_moves
    | with_reducible apply State.updFrame_moves
    | with_reducible apply foundBad_moves
    | intro _
    | split
    | dsimp only

theorem lookupSpoiled_moves {cs : List Part} {s0 s : State} (hm : Moves cs s0 s) (id : Nat) (m0 : Part.regs ∈ cs) (m1 : Part.ind ∈ cs) (m2 : Part.net ∈ cs) (m3 : Part.tlm ∈ cs) :
    Moves cs s0 (lookupSpoiled id s) := by
  unfold lookupSpoiled
  repeat' first
    | with_reducible assumption
    | with_reducible apply State.setFrame_moves
    | with_reducible apply State.setIfld_moves
    | with_reducible apply State.updTlm_moves
    | with_reducible apply frameDone_moves
    | with_reducible apply tagClose_moves
    | intro _
    | split
    | dsimp only

theorem freeEntryLost_moves {cs : List Part} {s0 s : State} (hm : Moves cs s0 s) (n : Nat) (m0 : Part.regs ∈ cs) (m1 : Part.net ∈ cs) :
    Moves cs s0 (freeEntryLost n s) := by
  unfold freeEntryLost
  repeat' first
    | with_reducible assumption
    | with_reducible apply State.setLost_moves
    | with_reducible apply State.updBank_moves
    | with_reducible apply setFree_moves
    | intro _
    | split
    | dsimp only

theorem ownWordSeen_moves {cs : List Part} {s0 s : State} (hm : Moves cs s0 s) (n : Nat) (m0 : Part.regs ∈ cs) (m1 : Part.net ∈ cs) :
    Moves cs s0 (ownWordSeen n s) := by
  unfold ownWordSeen
  repeat' first
    | with_reducible assumption
    | with_reducible apply State.setLost_moves
    | with_reducible apply auditShow_moves
    | with_reducible apply foldl_moves
    | intro _
    | split
    | dsimp only

theorem schedWordLost_moves {cs : List Part} {s0 s : State} (hm : Moves cs s0 s) (w : Nat) (m0 : Part.ind ∈ cs) (m1 : Part.net ∈ cs) :
    Moves cs s0 (schedWordLost w s) := by
  unfold schedWordLost
  repeat' first
    | with_reducible assumption
    | with_reducible apply setDeficit_moves
    | with_reducible apply setLevel_moves
    | intro _
    | split
    | dsimp only

theorem doubleBit_moves {cs : List Part} {s0 s : State} (hm : Moves cs s0 s) (m : Nat) (addr : Nat) (who : EccBy) (m0 : Part.regs ∈ cs) (m1 : Part.ind ∈ cs) (m2 : Part.met ∈ cs) (m3 : Part.loop ∈ cs) (m4 : Part.net ∈ cs) (m5 : Part.tlm ∈ cs) (m6 : Part.twin ∈ cs) (m7 : Part.boot ∈ cs) :
    Moves cs s0 (doubleBit m addr who s) := by
  unfold doubleBit
  repeat' first
    | with_reducible assumption
    | with_reducible apply State.updBoot_moves
    | with_reducible apply State.updNet_moves
    | with_reducible apply declareCell_moves
    | with_reducible apply frameLost_moves
    | with_reducible apply freeEntryLost_moves
    | (refine lookup_moves_eq (by with_reducible assumption) ?_ ?_ <;> try with_reducible assumption)
    | with_reducible apply lookup_moves
    | with_reducible apply lookupSpoiled_moves
    | with_reducible apply ownWordSeen_moves
    | with_reducible apply schedWordLost_moves
    | intro _
    | split
    | dsimp only

theorem scrub_moves {cs : List Part} {s0 s : State} (hm : Moves cs s0 s) (m : Nat) (addr : Nat) (err : EccErr) (who : EccBy) (m0 : Part.regs ∈ cs) (m1 : Part.ind ∈ cs) (m2 : Part.met ∈ cs) (m3 : Part.loop ∈ cs) (m4 : Part.net ∈ cs) (m5 : Part.tlm ∈ cs) (m6 : Part.twin ∈ cs) (m7 : Part.boot ∈ cs) :
    Moves cs s0 (scrub m addr err who s) := by
  unfold scrub
  repeat' first
    | with_reducible assumption
    | with_reducible apply doubleBit_moves
    | with_reducible apply faultLog_moves
    | intro _
    | split
    | dsimp only

theorem tbFaulty_moves {cs : List Part} {s0 s : State} (hm : Moves cs s0 s) (x : TbFlops) (m0 : Part.regs ∈ cs) (m1 : Part.tb ∈ cs) :
    Moves cs s0 (tbFaulty x s) := by
  unfold tbFaulty
  repeat' first
    | with_reducible assumption
    | with_reducible apply State.setFlag_moves
    | with_reducible apply State.setFld_moves
    | with_reducible apply State.setReg64_moves
    | with_reducible apply State.updOut_moves
    | with_reducible apply State.updTb_moves
    | with_reducible apply showOffset_moves
    | intro _
    | split
    | dsimp only

theorem parityError_moves {cs : List Part} {s0 s : State} (hm : Moves cs s0 s) (a : Nat) (i : Nat) (m0 : Part.regs ∈ cs) (m1 : Part.loop ∈ cs) (m2 : Part.twin ∈ cs) :
    Moves cs s0 (parityError a i s) := by
  unfold parityError
  repeat' first
    | with_reducible assumption
    | with_reducible apply State.raise_moves
    | with_reducible apply State.setRbit_moves
    | with_reducible apply faultLog_moves
    | intro _
    | split
    | dsimp only

end Sys2Proof.Machine
end

