-- ==== Sys2Proof/Laws/FrameKeeper.lean ====
section
/-!
SUPPORT. Sys2Proof/Laws/FrameKeeper.lean: for each operation of Machine/Keeper.lean that changes the state, the parts it may change (and
that it keeps storage canonical), once and for all: `Moves` goes through it.
-/
namespace Sys2Proof.Machine
set_option Elab.async false
set_option linter.unusedTactic false
set_option linter.unreachableTactic false

theorem State.updPwr_moves {cs : List Part} {s0 s : State} (hm : Moves cs s0 s) (f : PwrSt → PwrSt) (m0 : Part.pwr ∈ cs) :
    Moves cs s0 (State.updPwr s f) := by
  unfold State.updPwr
  repeat' first
    | with_reducible assumption
    | with_reducible apply pwr_moves
    | intro _
    | split
    | dsimp only

theorem laneRef_moves {cs : List Part} {s0 s : State} (hm : Moves cs s0 s) (backup : Bool) (m0 : Part.regs ∈ cs) :
    Moves cs s0 (laneRef backup s) := by
  unfold laneRef
  repeat' first
    | with_reducible assumption
    | with_reducible apply State.raise_moves
    | with_reducible apply State.setFlag_moves
    | with_reducible apply forUpto_moves
    | intro _
    | split
    | dsimp only

theorem tclkTo_moves {cs : List Part} {s0 s : State} (hm : Moves cs s0 s) (keeper : Bool) (m0 : Part.regs ∈ cs) (m1 : Part.met ∈ cs) :
    Moves cs s0 (tclkTo keeper s) := by
  unfold tclkTo
  repeat' first
    | with_reducible assumption
    | with_reducible apply State.setFlag_moves
    | with_reducible apply laneRef_moves
    | with_reducible apply metInvalidate_moves
    | intro _
    | split
    | dsimp only

theorem loopCoast_moves {cs : List Part} {s0 s : State} (hm : Moves cs s0 s) (st : Nat) (m0 : Part.regs ∈ cs) (m1 : Part.loop ∈ cs) (m2 : Part.twin ∈ cs) (m3 : Part.free ∈ cs) :
    Moves cs s0 (loopCoast st s) := by
  unfold loopCoast
  repeat' first
    | with_reducible assumption
    | with_reducible apply State.setFld_moves
    | with_reducible apply State.updLoop_moves
    | with_reducible apply enterHoldover_moves
    | with_reducible apply noteSel_moves
    | with_reducible apply setLoopState_moves
    | with_reducible apply setSelected_moves
    | with_reducible apply setY_moves
    | intro _
    | split
    | dsimp only

theorem mpllSearch_moves {cs : List Part} {s0 s : State} (hm : Moves cs s0 s) (m0 : Part.regs ∈ cs) :
    Moves cs s0 (mpllSearch s) := by
  unfold mpllSearch
  repeat' first
    | with_reducible assumption
    | with_reducible apply State.setFlag_moves
    | intro _
    | split
    | dsimp only

theorem mpllStop_moves {cs : List Part} {s0 s : State} (hm : Moves cs s0 s) (m0 : Part.regs ∈ cs) (m1 : Part.loop ∈ cs) (m2 : Part.twin ∈ cs) :
    Moves cs s0 (mpllStop s) := by
  unfold mpllStop
  repeat' first
    | with_reducible assumption
    | with_reducible apply State.raise_moves
    | with_reducible apply State.setFlag_moves
    | with_reducible apply faultLog_moves
    | intro _
    | split
    | dsimp only

theorem mpllLol_moves {cs : List Part} {s0 s : State} (hm : Moves cs s0 s) (m0 : Part.regs ∈ cs) (m1 : Part.met ∈ cs) (m2 : Part.loop ∈ cs) (m3 : Part.prf ∈ cs) (m4 : Part.twin ∈ cs) (m5 : Part.free ∈ cs) :
    Moves cs s0 (mpllLol s) := by
  unfold mpllLol
  repeat' first
    | with_reducible assumption
    | with_reducible apply State.bump32_moves
    | with_reducible apply State.raise_moves
    | with_reducible apply State.updLoop_moves
    | with_reducible apply clkoutsSquelch_moves
    | with_reducible apply faultLog_moves
    | with_reducible apply loopCoast_moves
    | with_reducible apply mpllSearch_moves
    | with_reducible apply mpllStop_moves
    | with_reducible apply prfAbandon_moves
    | with_reducible apply tclkTo_moves
    | intro _
    | split
    | dsimp only

theorem mpllRelock_moves {cs : List Part} {s0 s : State} (hm : Moves cs s0 s) (m0 : Part.regs ∈ cs) (m1 : Part.met ∈ cs) (m2 : Part.loop ∈ cs) (m3 : Part.prf ∈ cs) (m4 : Part.twin ∈ cs) (m5 : Part.free ∈ cs) :
    Moves cs s0 (mpllRelock s) := by
  unfold mpllRelock
  repeat' first
    | with_reducible assumption
    | with_reducible apply State.setFlag_moves
    | with_reducible apply State.updLoop_moves
    | with_reducible apply cmdRefused_moves
    | with_reducible apply loopCoast_moves
    | with_reducible apply mpllSearch_moves
    | with_reducible apply prfAbandon_moves
    | with_reducible apply tclkTo_moves
    | intro _
    | split
    | dsimp only

theorem actLoopCmd_moves {cs : List Part} {s0 s : State} (hm : Moves cs s0 s) (_old : Word) (raw : Word) (m0 : Part.regs ∈ cs) (m1 : Part.tb ∈ cs) (m2 : Part.met ∈ cs) (m3 : Part.loop ∈ cs) (m4 : Part.prf ∈ cs) (m5 : Part.twin ∈ cs) (m6 : Part.free ∈ cs) :
    Moves cs s0 (actLoopCmd _old raw s) := by
  unfold actLoopCmd
  repeat' first
    | with_reducible assumption
    | with_reducible apply adjGo_moves
    | with_reducible apply clrHistory_moves
    | with_reducible apply disputeReject_moves
    | with_reducible apply disputeSlope_moves
    | with_reducible apply disputeStep_moves
    | with_reducible apply mpllRelock_moves
    | intro _
    | split
    | dsimp only

theorem xoLoss_moves {cs : List Part} {s0 s : State} (hm : Moves cs s0 s) (m0 : Part.regs ∈ cs) (m1 : Part.pwr ∈ cs) (m2 : Part.met ∈ cs) (m3 : Part.loop ∈ cs) (m4 : Part.prf ∈ cs) (m5 : Part.twin ∈ cs) (m6 : Part.free ∈ cs) :
    Moves cs s0 (xoLoss s) := by
  unfold xoLoss
  repeat' first
    | with_reducible assumption
    | with_reducible apply State.raise_moves
    | with_reducible apply State.updLoop_moves
    | with_reducible apply State.updPwr_moves
    | with_reducible apply faultLog_moves
    | with_reducible apply loopCoast_moves
    | with_reducible apply prfAbandon_moves
    | intro _
    | split
    | dsimp only

theorem xoReturn_moves {cs : List Part} {s0 s : State} (hm : Moves cs s0 s) (m0 : Part.regs ∈ cs) (m1 : Part.pwr ∈ cs) (m2 : Part.loop ∈ cs) :
    Moves cs s0 (xoReturn s) := by
  unfold xoReturn
  repeat' first
    | with_reducible assumption
    | with_reducible apply State.raise_moves
    | with_reducible apply State.updLoop_moves
    | with_reducible apply State.updPwr_moves
    | intro _
    | split
    | dsimp only

end Sys2Proof.Machine
end

