-- ==== Sys2Proof/Laws/FrameTwin.lean ====
section
/-!
SUPPORT. Sys2Proof/Laws/FrameTwin.lean: for each operation of Machine/Twin.lean that changes the state, the parts it may change (and
that it keeps storage canonical), once and for all: `Moves` goes through it.
-/
namespace Sys2Proof.Machine
set_option Elab.async false
set_option linter.unusedTactic false
set_option linter.unreachableTactic false

theorem showLink_moves {cs : List Part} {s0 s : State} (hm : Moves cs s0 s) (k : Nat) (m0 : Part.regs ∈ cs) :
    Moves cs s0 (showLink k s) := by
  unfold showLink
  repeat' first
    | with_reducible assumption
    | with_reducible apply State.raiseIf_moves
    | with_reducible apply State.setFlag_moves
    | with_reducible apply settleCover_moves
    | intro _
    | split
    | dsimp only

theorem putLine_moves {cs : List Part} {s0 s : State} (hm : Moves cs s0 s) (m : Fin 32) (bs : List Byte) (m0 : Part.lanes ∈ cs) :
    Moves cs s0 (putLine m bs s) := by
  unfold putLine
  repeat' first
    | with_reducible assumption
    | with_reducible apply State.updLane_moves
    | with_reducible apply keepPlus_moves
    | intro _
    | split
    | dsimp only

theorem sendFrame_moves {cs : List Part} {s0 s : State} (hm : Moves cs s0 s) (k : Nat) (typ : Nat) (body : List Byte) (m0 : Part.lanes ∈ cs) (m1 : Part.twin ∈ cs) :
    Moves cs s0 (sendFrame k typ body s) := by
  unfold sendFrame
  repeat' first
    | with_reducible assumption
    | with_reducible apply State.updLink_moves
    | with_reducible apply putLine_moves
    | intro _
    | split
    | dsimp only

theorem gotFrame_moves {cs : List Part} {s0 s : State} (hm : Moves cs s0 s) (k : Nat) (m0 : Part.regs ∈ cs) :
    Moves cs s0 (gotFrame k s) := by
  unfold gotFrame
  repeat' first
    | with_reducible assumption
    | with_reducible apply State.bump64_moves
    | with_reducible apply State.setFlag_moves
    | intro _
    | split
    | dsimp only

theorem badFrame_moves {cs : List Part} {s0 s : State} (hm : Moves cs s0 s) (k : Nat) (m0 : Part.regs ∈ cs) :
    Moves cs s0 (badFrame k s) := by
  unfold badFrame
  repeat' first
    | with_reducible assumption
    | with_reducible apply State.bump32_moves
    | intro _
    | split
    | dsimp only

theorem onFrame_moves {cs : List Part} {s0 s : State} (hm : Moves cs s0 s) (k : Nat) (typ : Nat) (bs : List Byte) (codeErr : Bool) (f : List Byte → State → State) (hf : ∀ z0 z1, Moves cs s0 z1 → Moves cs s0 (f z0 z1)) (m0 : Part.regs ∈ cs) :
    Moves cs s0 (onFrame k typ bs codeErr f s) := by
  unfold onFrame
  repeat' first
    | with_reducible assumption
    | with_reducible apply badFrame_moves
    | with_reducible apply hf
    | intro _
    | split
    | dsimp only

theorem seedBuildOut_moves {cs : List Part} {s0 s : State} (hm : Moves cs s0 s) (m0 : Part.regs ∈ cs) (m1 : Part.loop ∈ cs) :
    Moves cs s0 (seedBuildOut s) := by
  unfold seedBuildOut
  repeat' first
    | with_reducible assumption
    | with_reducible apply State.updLoop_moves
    | with_reducible apply showBuildOuts_moves
    | intro _
    | split
    | dsimp only

theorem takeLead_moves {cs : List Part} {s0 s : State} (hm : Moves cs s0 s) (m0 : Part.regs ∈ cs) (m1 : Part.loop ∈ cs) (m2 : Part.twin ∈ cs) :
    Moves cs s0 (takeLead s) := by
  unfold takeLead
  repeat' first
    | with_reducible assumption
    | with_reducible apply seedBuildOut_moves
    | with_reducible apply setRole_moves
    | intro _
    | split
    | dsimp only

theorem roleEval_moves {cs : List Part} {s0 s : State} (hm : Moves cs s0 s) (m0 : Part.regs ∈ cs) (m1 : Part.loop ∈ cs) (m2 : Part.twin ∈ cs) :
    Moves cs s0 (roleEval s) := by
  unfold roleEval
  repeat' first
    | with_reducible assumption
    | with_reducible apply State.raiseIf_moves
    | with_reducible apply State.updTwin_moves
    | with_reducible apply setRole_moves
    | with_reducible apply takeLead_moves
    | intro _
    | split
    | dsimp only

theorem interlockFault_moves {cs : List Part} {s0 s : State} (hm : Moves cs s0 s) (m0 : Part.regs ∈ cs) (m1 : Part.loop ∈ cs) (m2 : Part.twin ∈ cs) :
    Moves cs s0 (interlockFault s) := by
  unfold interlockFault
  repeat' first
    | with_reducible assumption
    | with_reducible apply State.raise_moves
    | with_reducible apply faultLog_moves
    | intro _
    | split
    | dsimp only

theorem interlockPeriod_moves {cs : List Part} {s0 s : State} (hm : Moves cs s0 s) (period : Nat) (low : Nat) (m0 : Part.regs ∈ cs) (m1 : Part.loop ∈ cs) (m2 : Part.twin ∈ cs) :
    Moves cs s0 (interlockPeriod period low s) := by
  unfold interlockPeriod
  repeat' first
    | with_reducible assumption
    | with_reducible apply State.raise_moves
    | with_reducible apply State.setFlag_moves
    | with_reducible apply State.setFld_moves
    | with_reducible apply State.updTwin_moves
    | with_reducible apply interlockFault_moves
    | with_reducible apply roleEval_moves
    | intro _
    | split
    | dsimp only

theorem heartbeatLost_moves {cs : List Part} {s0 s : State} (hm : Moves cs s0 s) (m0 : Part.regs ∈ cs) (m1 : Part.loop ∈ cs) (m2 : Part.twin ∈ cs) :
    Moves cs s0 (heartbeatLost s) := by
  unfold heartbeatLost
  repeat' first
    | with_reducible assumption
    | with_reducible apply State.raise_moves
    | with_reducible apply State.setFlag_moves
    | with_reducible apply State.setFld_moves
    | with_reducible apply State.updTwin_moves
    | with_reducible apply interlockFault_moves
    | with_reducible apply roleEval_moves
    | intro _
    | split
    | dsimp only

theorem leadPass_moves {cs : List Part} {s0 s : State} (hm : Moves cs s0 s) (n : Nat) (m0 : Part.twin ∈ cs) :
    Moves cs s0 (leadPass n s) := by
  unfold leadPass
  repeat' first
    | with_reducible assumption
    | with_reducible apply State.updTwin_moves
    | intro _
    | split
    | dsimp only

theorem actTwinCtrl_moves {cs : List Part} {s0 s : State} (hm : Moves cs s0 s) (_old : Word) (raw : Word) (m0 : Part.regs ∈ cs) (m1 : Part.loop ∈ cs) (m2 : Part.twin ∈ cs) :
    Moves cs s0 (actTwinCtrl _old raw s) := by
  unfold actTwinCtrl
  repeat' first
    | with_reducible assumption
    | with_reducible apply linkCfgCheck_moves
    | with_reducible apply setRole_moves
    | intro _
    | split
    | dsimp only

theorem actPairCfg_moves {cs : List Part} {s0 s : State} (hm : Moves cs s0 s) (_old : Word) (_raw : Word) (m0 : Part.regs ∈ cs) :
    Moves cs s0 (actPairCfg _old _raw s) := by
  unfold actPairCfg
  repeat' first
    | with_reducible assumption
    | with_reducible apply linkCfgCheck_moves
    | intro _
    | split
    | dsimp only

theorem takePos_moves {cs : List Part} {s0 s : State} (hm : Moves cs s0 s) (p : Nat) (m0 : Part.regs ∈ cs) :
    Moves cs s0 (takePos p s) := by
  unfold takePos
  repeat' first
    | with_reducible assumption
    | with_reducible apply State.raiseIf_moves
    | with_reducible apply State.setFlag_moves
    | with_reducible apply State.setFld_moves
    | intro _
    | split
    | dsimp only

theorem losePos_moves {cs : List Part} {s0 s : State} (hm : Moves cs s0 s) (m0 : Part.regs ∈ cs) :
    Moves cs s0 (losePos s) := by
  unfold losePos
  repeat' first
    | with_reducible assumption
    | with_reducible apply State.raiseIf_moves
    | with_reducible apply State.setFlag_moves
    | intro _
    | split
    | dsimp only

theorem masterSeen_moves {cs : List Part} {s0 s : State} (hm : Moves cs s0 s) (k : Nat) (m0 : Part.twin ∈ cs) :
    Moves cs s0 (masterSeen k s) := by
  unfold masterSeen
  repeat' first
    | with_reducible assumption
    | with_reducible apply State.updTwin_moves
    | intro _
    | split
    | dsimp only

theorem masterGone_moves {cs : List Part} {s0 s : State} (hm : Moves cs s0 s) (k : Nat) (m0 : Part.twin ∈ cs) :
    Moves cs s0 (masterGone k s) := by
  unfold masterGone
  repeat' first
    | with_reducible assumption
    | with_reducible apply State.updTwin_moves
    | intro _
    | split
    | dsimp only

theorem actStackCfg_moves {cs : List Part} {s0 s : State} (hm : Moves cs s0 s) (old : Word) (_raw : Word) (m0 : Part.regs ∈ cs) (m1 : Part.twin ∈ cs) :
    Moves cs s0 (actStackCfg old _raw s) := by
  unfold actStackCfg
  repeat' first
    | with_reducible assumption
    | with_reducible apply State.updTwin_moves
    | with_reducible apply linkCfgCheck_moves
    | with_reducible apply losePos_moves
    | with_reducible apply takePos_moves
    | intro _
    | split
    | dsimp only

theorem helloSend_moves {cs : List Part} {s0 s : State} (hm : Moves cs s0 s) (k : Nat) (m0 : Part.lanes ∈ cs) (m1 : Part.twin ∈ cs) :
    Moves cs s0 (helloSend k s) := by
  unfold helloSend
  repeat' first
    | with_reducible assumption
    | with_reducible apply sendFrame_moves
    | intro _
    | split
    | dsimp only

theorem twinHello_moves {cs : List Part} {s0 s : State} (hm : Moves cs s0 s) (b : List Byte) (m0 : Part.regs ∈ cs) (m1 : Part.loop ∈ cs) (m2 : Part.twin ∈ cs) :
    Moves cs s0 (twinHello b s) := by
  unfold twinHello
  repeat' first
    | with_reducible assumption
    | with_reducible apply State.raise_moves
    | with_reducible apply State.setFld_moves
    | with_reducible apply State.setReg64_moves
    | with_reducible apply State.updLink_moves
    | with_reducible apply State.updTwin_moves
    | with_reducible apply faultLog_moves
    | intro _
    | split
    | dsimp only

theorem stackHello_moves {cs : List Part} {s0 s : State} (hm : Moves cs s0 s) (k : Nat) (b : List Byte) (m0 : Part.regs ∈ cs) :
    Moves cs s0 (stackHello k b s) := by
  unfold stackHello
  repeat' first
    | with_reducible assumption
    | with_reducible apply State.raise_moves
    | with_reducible apply losePos_moves
    | with_reducible apply takePos_moves
    | intro _
    | split
    | dsimp only

theorem helloReceive_moves {cs : List Part} {s0 s : State} (hm : Moves cs s0 s) (k : Nat) (b : List Byte) (m0 : Part.regs ∈ cs) (m1 : Part.loop ∈ cs) (m2 : Part.twin ∈ cs) :
    Moves cs s0 (helloReceive k b s) := by
  unfold helloReceive
  repeat' first
    | with_reducible assumption
    | with_reducible apply State.raise_moves
    | with_reducible apply State.setFld_moves
    | with_reducible apply State.updLink_moves
    | with_reducible apply badFrame_moves
    | with_reducible apply gotFrame_moves
    | with_reducible apply masterGone_moves
    | with_reducible apply masterSeen_moves
    | with_reducible apply roleEval_moves
    | with_reducible apply settleCover_moves
    | with_reducible apply showLink_moves
    | with_reducible apply stackHello_moves
    | with_reducible apply twinHello_moves
    | intro _
    | split
    | dsimp only

theorem linkLapse_moves {cs : List Part} {s0 s : State} (hm : Moves cs s0 s) (k : Nat) (hello : Bool) (sync : Bool) (m0 : Part.regs ∈ cs) (m1 : Part.twin ∈ cs) :
    Moves cs s0 (linkLapse k hello sync s) := by
  unfold linkLapse
  repeat' first
    | with_reducible assumption
    | with_reducible apply State.updLink_moves
    | with_reducible apply masterGone_moves
    | with_reducible apply showLink_moves
    | intro _
    | split
    | dsimp only

theorem syncSend_moves {cs : List Part} {s0 s : State} (hm : Moves cs s0 s) (k : Nat) (j : Nat) (m0 : Part.lanes ∈ cs) (m1 : Part.twin ∈ cs) :
    Moves cs s0 (syncSend k j s) := by
  unfold syncSend
  repeat' first
    | with_reducible assumption
    | with_reducible apply State.updLink_moves
    | with_reducible apply sendFrame_moves
    | intro _
    | split
    | dsimp only

theorem reg16_moves {cs : List Part} {s0 s : State} (hm : Moves cs s0 s) (x : Int) (lo : Int) (hi : Int) (m0 : Part.free ∈ cs) :
    Moves cs s0 (reg16 x lo hi s).2 := by
  unfold reg16
  repeat' first
    | with_reducible assumption
    | (refine State.draw_moves_eq (by with_reducible assumption) ?_ ?_ <;> try with_reducible assumption)
    | with_reducible apply State.draw_moves
    | intro _
    | split
    | dsimp only
theorem reg16_moves_eq {cs : List Part} {s0 s v1 : State} {v0} {x : Int} {lo : Int} {hi : Int} (e : reg16 x lo hi s = (v0, v1)) (hm : Moves cs s0 s) (m0 : Part.free ∈ cs) :
    Moves cs s0 v1 := by
  have := reg16_moves hm x lo hi m0
  rwa [e] at this

theorem syncSample_moves {cs : List Part} {s0 s : State} (hm : Moves cs s0 s) (k : Nat) (o : Int) (d : Int) (peerSum : Int) (view : Int) (m0 : Part.regs ∈ cs) (m1 : Part.loop ∈ cs) (m2 : Part.twin ∈ cs) (m3 : Part.free ∈ cs) :
    Moves cs s0 (syncSample k o d peerSum view s) := by
  unfold syncSample
  repeat' first
    | with_reducible assumption
    | with_reducible apply State.setReg_moves
    | with_reducible apply State.updLink_moves
    | with_reducible apply State.updRef_moves
    | with_reducible apply State.updTwin_moves
    | (refine reg16_moves_eq (by with_reducible assumption) ?_ ?_ <;> try with_reducible assumption)
    | with_reducible apply reg16_moves
    | with_reducible apply roleEval_moves
    | with_reducible apply showLink_moves
    | intro _
    | split
    | dsimp only

theorem syncReceive_moves {cs : List Part} {s0 s : State} (hm : Moves cs s0 s) (k : Nat) (j : Nat) (ago : Nat) (b : List Byte) (m0 : Part.regs ∈ cs) (m1 : Part.loop ∈ cs) (m2 : Part.twin ∈ cs) (m3 : Part.free ∈ cs) :
    Moves cs s0 (syncReceive k j ago b s) := by
  unfold syncReceive
  repeat' first
    | with_reducible assumption
    | with_reducible apply State.bump32_moves
    | with_reducible apply State.updLink_moves
    | with_reducible apply gotFrame_moves
    | with_reducible apply syncSample_moves
    | intro _
    | split
    | dsimp only

theorem showStepSum_moves {cs : List Part} {s0 s : State} (hm : Moves cs s0 s) (m0 : Part.regs ∈ cs) :
    Moves cs s0 (showStepSum s) := by
  unfold showStepSum
  repeat' first
    | with_reducible assumption
    | with_reducible apply State.setReg_moves
    | with_reducible apply State.setReg64_moves
    | intro _
    | split
    | dsimp only

theorem addStepSum_moves {cs : List Part} {s0 s : State} (hm : Moves cs s0 s) (d : Int) (m0 : Part.regs ∈ cs) (m1 : Part.twin ∈ cs) :
    Moves cs s0 (addStepSum d s) := by
  unfold addStepSum
  repeat' first
    | with_reducible assumption
    | with_reducible apply State.updTwin_moves
    | with_reducible apply showStepSum_moves
    | intro _
    | split
    | dsimp only

theorem twinCycle_moves {cs : List Part} {s0 s : State} (hm : Moves cs s0 s) (m0 : Part.regs ∈ cs) (m1 : Part.lanes ∈ cs) (m2 : Part.twin ∈ cs) :
    Moves cs s0 (twinCycle s) := by
  unfold twinCycle
  repeat' first
    | with_reducible assumption
    | with_reducible apply State.setFld_moves
    | with_reducible apply State.updTwin_moves
    | with_reducible apply sendFrame_moves
    | intro _
    | split
    | dsimp only

theorem stateReceive_moves {cs : List Part} {s0 s : State} (hm : Moves cs s0 s) (k : Nat) (b : List Byte) (m0 : Part.regs ∈ cs) (m1 : Part.ind ∈ cs) :
    Moves cs s0 (stateReceive k b s) := by
  unfold stateReceive
  repeat' first
    | with_reducible assumption
    | with_reducible apply State.raise_moves
    | with_reducible apply State.setFld_moves
    | with_reducible apply State.setIndw_moves
    | with_reducible apply gotFrame_moves
    | with_reducible apply forUpto_moves
    | intro _
    | split
    | dsimp only

theorem imageLoad_moves {cs : List Part} {s0 s : State} (hm : Moves cs s0 s) (m0 : Part.regs ∈ cs) (m1 : Part.loop ∈ cs) :
    Moves cs s0 (imageLoad s) := by
  unfold imageLoad
  repeat' first
    | with_reducible assumption
    | with_reducible apply State.raise_moves
    | with_reducible apply State.updLoop_moves
    | with_reducible apply showHoReady_moves
    | with_reducible apply showHold_moves
    | intro _
    | split
    | dsimp only

theorem actTwinCmd_moves {cs : List Part} {s0 s : State} (hm : Moves cs s0 s) (_old : Word) (raw : Word) (m0 : Part.regs ∈ cs) (m1 : Part.loop ∈ cs) (m2 : Part.twin ∈ cs) :
    Moves cs s0 (actTwinCmd _old raw s) := by
  unfold actTwinCmd
  repeat' first
    | with_reducible assumption
    | with_reducible apply State.setFlag_moves
    | with_reducible apply imageLoad_moves
    | with_reducible apply roleEval_moves
    | with_reducible apply yieldPart_moves
    | intro _
    | split
    | dsimp only

theorem xchkWindow_moves {cs : List Part} {s0 s : State} (hm : Moves cs s0 s) (m0 : Part.regs ∈ cs) (m1 : Part.loop ∈ cs) (m2 : Part.twin ∈ cs) (m3 : Part.free ∈ cs) :
    Moves cs s0 (xchkWindow s) := by
  unfold xchkWindow
  repeat' first
    | with_reducible assumption
    | with_reducible apply State.raise_moves
    | with_reducible apply State.setReg_moves
    | with_reducible apply State.updTwin_moves
    | with_reducible apply faultLog_moves
    | (refine reg16_moves_eq (by with_reducible assumption) ?_ ?_ <;> try with_reducible assumption)
    | with_reducible apply reg16_moves
    | intro _
    | split
    | dsimp only

theorem sendStep_moves {cs : List Part} {s0 s : State} (hm : Moves cs s0 s) (k : Nat) (op : Nat) (pos : Nat) (cause : Nat) (xid : Nat) (m0 : Part.lanes ∈ cs) (m1 : Part.twin ∈ cs) :
    Moves cs s0 (sendStep k op pos cause xid s) := by
  unfold sendStep
  repeat' first
    | with_reducible assumption
    | with_reducible apply sendFrame_moves
    | intro _
    | split
    | dsimp only

theorem sendAll_moves {cs : List Part} {s0 s : State} (hm : Moves cs s0 s) (ks : List Nat) (op : Nat) (pos : Nat) (cause : Nat) (xid : Nat) (m0 : Part.lanes ∈ cs) (m1 : Part.twin ∈ cs) :
    Moves cs s0 (sendAll ks op pos cause xid s) := by
  unfold sendAll
  repeat' first
    | with_reducible assumption
    | with_reducible apply sendStep_moves
    | with_reducible apply foldl_moves
    | intro _
    | split
    | dsimp only

theorem setStepState_moves {cs : List Part} {s0 s : State} (hm : Moves cs s0 s) (st : Nat) (m0 : Part.regs ∈ cs) :
    Moves cs s0 (setStepState st s) := by
  unfold setStepState
  repeat' first
    | with_reducible assumption
    | with_reducible apply State.setFld_moves
    | intro _
    | split
    | dsimp only

theorem setStepResult_moves {cs : List Part} {s0 s : State} (hm : Moves cs s0 s) (res : Nat) (pos : Nat) (cause : Nat) (m0 : Part.regs ∈ cs) :
    Moves cs s0 (setStepResult res pos cause s) := by
  unfold setStepResult
  repeat' first
    | with_reducible assumption
    | with_reducible apply State.setFld_moves
    | intro _
    | split
    | dsimp only

theorem stepDrop_moves {cs : List Part} {s0 s : State} (hm : Moves cs s0 s) (m0 : Part.regs ∈ cs) (m1 : Part.tb ∈ cs) (m2 : Part.twin ∈ cs) :
    Moves cs s0 (stepDrop s) := by
  unfold stepDrop
  repeat' first
    | with_reducible assumption
    | with_reducible apply State.updTwin_moves
    | with_reducible apply setStepState_moves
    | with_reducible apply tbCancel_moves
    | intro _
    | split
    | dsimp only

theorem stepAbort_moves {cs : List Part} {s0 s : State} (hm : Moves cs s0 s) (x : XstepSt) (res : Nat) (pos : Nat) (cause : Nat) (m0 : Part.regs ∈ cs) (m1 : Part.lanes ∈ cs) (m2 : Part.tb ∈ cs) (m3 : Part.twin ∈ cs) :
    Moves cs s0 (stepAbort x res pos cause s) := by
  unfold stepAbort
  repeat' first
    | with_reducible assumption
    | with_reducible apply State.raise_moves
    | with_reducible apply sendAll_moves
    | with_reducible apply setStepResult_moves
    | with_reducible apply stepDrop_moves
    | intro _
    | split
    | dsimp only

theorem stepReady_moves {cs : List Part} {s0 s : State} (hm : Moves cs s0 s) (x : XstepSt) (pos : Nat) (m0 : Part.regs ∈ cs) (m1 : Part.lanes ∈ cs) (m2 : Part.tb ∈ cs) (m3 : Part.twin ∈ cs) :
    Moves cs s0 (stepReady x pos s) := by
  unfold stepReady
  repeat' first
    | with_reducible assumption
    | with_reducible apply State.updTwin_moves
    | with_reducible apply sendAll_moves
    | with_reducible apply sendStep_moves
    | with_reducible apply setStepState_moves
    | with_reducible apply stepAbort_moves
    | intro _
    | split
    | dsimp only

theorem stepPrepare_moves {cs : List Part} {s0 s : State} (hm : Moves cs s0 s) (from' : Option Nat) (xid : Nat) (amount : Int) (armWords : List Word) (m0 : Part.regs ∈ cs) (m1 : Part.lanes ∈ cs) (m2 : Part.tb ∈ cs) (m3 : Part.twin ∈ cs) :
    Moves cs s0 (stepPrepare from' xid amount armWords s) := by
  unfold stepPrepare
  repeat' first
    | with_reducible assumption
    | with_reducible apply State.setFld_moves
    | with_reducible apply State.updTwin_moves
    | with_reducible apply sendFrame_moves
    | with_reducible apply setStepState_moves
    | with_reducible apply stepReady_moves
    | with_reducible apply tbPending_moves
    | with_reducible apply foldl_moves
    | intro _
    | split
    | dsimp only

theorem xstepGo_moves {cs : List Part} {s0 s : State} (hm : Moves cs s0 s) (m0 : Part.regs ∈ cs) (m1 : Part.lanes ∈ cs) (m2 : Part.tb ∈ cs) (m3 : Part.twin ∈ cs) :
    Moves cs s0 (xstepGo s) := by
  unfold xstepGo
  repeat' first
    | with_reducible assumption
    | with_reducible apply State.raise_moves
    | with_reducible apply State.raiseIf_moves
    | with_reducible apply setStepResult_moves
    | with_reducible apply stepPrepare_moves
    | intro _
    | split
    | dsimp only

theorem xstepAbortCmd_moves {cs : List Part} {s0 s : State} (hm : Moves cs s0 s) (m0 : Part.regs ∈ cs) (m1 : Part.lanes ∈ cs) (m2 : Part.tb ∈ cs) (m3 : Part.twin ∈ cs) :
    Moves cs s0 (xstepAbortCmd s) := by
  unfold xstepAbortCmd
  repeat' first
    | with_reducible assumption
    | with_reducible apply stepAbort_moves
    | intro _
    | split
    | dsimp only

theorem actXstepCmd_moves {cs : List Part} {s0 s : State} (hm : Moves cs s0 s) (_old : Word) (raw : Word) (m0 : Part.regs ∈ cs) (m1 : Part.lanes ∈ cs) (m2 : Part.tb ∈ cs) (m3 : Part.twin ∈ cs) :
    Moves cs s0 (actXstepCmd _old raw s) := by
  unfold actXstepCmd
  repeat' first
    | with_reducible assumption
    | with_reducible apply xstepAbortCmd_moves
    | with_reducible apply xstepGo_moves
    | intro _
    | split
    | dsimp only

theorem prepareReceive_moves {cs : List Part} {s0 s : State} (hm : Moves cs s0 s) (k : Nat) (b : List Byte) (m0 : Part.regs ∈ cs) (m1 : Part.lanes ∈ cs) (m2 : Part.tb ∈ cs) (m3 : Part.twin ∈ cs) :
    Moves cs s0 (prepareReceive k b s) := by
  unfold prepareReceive
  repeat' first
    | with_reducible assumption
    | with_reducible apply State.raise_moves
    | with_reducible apply State.raiseIf_moves
    | with_reducible apply sendStep_moves
    | with_reducible apply stepPrepare_moves
    | intro _
    | split
    | dsimp only

theorem readyReceive_moves {cs : List Part} {s0 s : State} (hm : Moves cs s0 s) (k : Nat) (b : List Byte) (m0 : Part.regs ∈ cs) (m1 : Part.lanes ∈ cs) (m2 : Part.tb ∈ cs) (m3 : Part.twin ∈ cs) :
    Moves cs s0 (readyReceive k b s) := by
  unfold readyReceive
  repeat' first
    | with_reducible assumption
    | with_reducible apply State.updTwin_moves
    | with_reducible apply stepReady_moves
    | intro _
    | split
    | dsimp only

theorem stepRefused_moves {cs : List Part} {s0 s : State} (hm : Moves cs s0 s) (x : XstepSt) (pos : Nat) (cause : Nat) (m0 : Part.regs ∈ cs) (m1 : Part.lanes ∈ cs) (m2 : Part.tb ∈ cs) (m3 : Part.twin ∈ cs) :
    Moves cs s0 (stepRefused x pos cause s) := by
  unfold stepRefused
  repeat' first
    | with_reducible assumption
    | with_reducible apply sendStep_moves
    | with_reducible apply stepAbort_moves
    | intro _
    | split
    | dsimp only

theorem refuseReceive_moves {cs : List Part} {s0 s : State} (hm : Moves cs s0 s) (k : Nat) (b : List Byte) (m0 : Part.regs ∈ cs) (m1 : Part.lanes ∈ cs) (m2 : Part.tb ∈ cs) (m3 : Part.twin ∈ cs) :
    Moves cs s0 (refuseReceive k b s) := by
  unfold refuseReceive
  repeat' first
    | with_reducible assumption
    | with_reducible apply stepRefused_moves
    | intro _
    | split
    | dsimp only

theorem commitReceive_moves {cs : List Part} {s0 s : State} (hm : Moves cs s0 s) (k : Nat) (b : List Byte) (m0 : Part.regs ∈ cs) (m1 : Part.lanes ∈ cs) (m2 : Part.twin ∈ cs) :
    Moves cs s0 (commitReceive k b s) := by
  unfold commitReceive
  repeat' first
    | with_reducible assumption
    | with_reducible apply State.updTwin_moves
    | with_reducible apply sendAll_moves
    | with_reducible apply setStepState_moves
    | intro _
    | split
    | dsimp only

theorem abortReceive_moves {cs : List Part} {s0 s : State} (hm : Moves cs s0 s) (k : Nat) (b : List Byte) (m0 : Part.regs ∈ cs) (m1 : Part.lanes ∈ cs) (m2 : Part.tb ∈ cs) (m3 : Part.twin ∈ cs) :
    Moves cs s0 (abortReceive k b s) := by
  unfold abortReceive
  repeat' first
    | with_reducible assumption
    | with_reducible apply State.raise_moves
    | with_reducible apply sendAll_moves
    | with_reducible apply stepDrop_moves
    | intro _
    | split
    | dsimp only

theorem onStep_moves {cs : List Part} {s0 s : State} (hm : Moves cs s0 s) (k : Nat) (op : Nat) (bs : List Byte) (codeErr : Bool) (f : Nat → List Byte → State → State) (hf : ∀ z0 z1 z2, Moves cs s0 z2 → Moves cs s0 (f z0 z1 z2)) (m0 : Part.regs ∈ cs) :
    Moves cs s0 (onStep k op bs codeErr f s) := by
  unfold onStep
  repeat' first
    | with_reducible assumption
    | with_reducible apply gotFrame_moves
    | with_reducible apply onFrame_moves
    | with_reducible apply hf
    | intro _
    | split
    | dsimp only

theorem stepLinkFails_moves {cs : List Part} {s0 s : State} (hm : Moves cs s0 s) (k : Nat) (m0 : Part.regs ∈ cs) (m1 : Part.lanes ∈ cs) (m2 : Part.tb ∈ cs) (m3 : Part.twin ∈ cs) :
    Moves cs s0 (stepLinkFails k s) := by
  unfold stepLinkFails
  repeat' first
    | with_reducible assumption
    | with_reducible apply stepRefused_moves
    | intro _
    | split
    | dsimp only

theorem xstepOrphan_moves {cs : List Part} {s0 s : State} (hm : Moves cs s0 s) (m0 : Part.regs ∈ cs) (m1 : Part.lanes ∈ cs) (m2 : Part.tb ∈ cs) (m3 : Part.twin ∈ cs) :
    Moves cs s0 (xstepOrphan s) := by
  unfold xstepOrphan
  repeat' first
    | with_reducible assumption
    | with_reducible apply State.raise_moves
    | with_reducible apply setStepResult_moves
    | with_reducible apply stepAbort_moves
    | with_reducible apply stepDrop_moves
    | intro _
    | split
    | dsimp only

theorem xstepApplied_moves {cs : List Part} {s0 s : State} (hm : Moves cs s0 s) (m0 : Part.regs ∈ cs) (m1 : Part.twin ∈ cs) :
    Moves cs s0 (xstepApplied s) := by
  unfold xstepApplied
  repeat' first
    | with_reducible assumption
    | with_reducible apply State.raise_moves
    | with_reducible apply State.updTwin_moves
    | with_reducible apply setStepResult_moves
    | with_reducible apply setStepState_moves
    | intro _
    | split
    | dsimp only

end Sys2Proof.Machine
end

