-- ==== Sys2Proof/Laws/FramePower.lean ====
section
/-!
SUPPORT. Sys2Proof/Laws/FramePower.lean: for each operation of Machine/Power.lean that changes the state, the parts it may change (and
that it keeps storage canonical), once and for all: `Moves` goes through it.
-/
namespace Sys2Proof.Machine
set_option Elab.async false
set_option linter.unusedTactic false
set_option linter.unreachableTactic false

theorem clearMixed_moves {cs : List Part} {s0 s : State} (hm : Moves cs s0 s) (m0 : Part.regs ∈ cs) (m1 : Part.loop ∈ cs) :
    Moves cs s0 (clearMixed s) := by
  unfold clearMixed
  repeat' first
    | with_reducible assumption
    | with_reducible apply State.setReg_moves
    | with_reducible apply showHoReady_moves
    | intro _
    | split
    | dsimp only

theorem refsAbsent_moves {cs : List Part} {s0 s : State} (hm : Moves cs s0 s) (m0 : Part.regs ∈ cs) :
    Moves cs s0 (refsAbsent s) := by
  unfold refsAbsent
  repeat' first
    | with_reducible assumption
    | with_reducible apply State.setFld_moves
    | with_reducible apply forUpto_moves
    | intro _
    | split
    | dsimp only

theorem mainWipe_moves {cs : List Part} {s0 s : State} (hm : Moves cs s0 s) (m0 : Part.regs ∈ cs) (m1 : Part.ind ∈ cs) (m2 : Part.sram ∈ cs) (m3 : Part.hst ∈ cs) (m4 : Part.lanes ∈ cs) (m5 : Part.tb ∈ cs) (m6 : Part.met ∈ cs) (m7 : Part.loop ∈ cs) (m8 : Part.sky ∈ cs) (m9 : Part.prf ∈ cs) (m10 : Part.net ∈ cs) (m11 : Part.tlm ∈ cs) (m12 : Part.twin ∈ cs) (m13 : Part.boot ∈ cs) (m14 : Part.lanePll ∈ cs) :
    Moves cs s0 (mainWipe s) := by
  unfold mainWipe
  apply refsAbsent_moves _ m0
  apply clearMixed_moves <;> try assumption
  refine hm.step (fun p => ?_) (fun c => ?_)
  · cases p <;> first | exact Or.inr rfl | (left; assumption)
  · exact ⟨SMapWf.filter _ c.1, SMapWf.filter _ c.2.1, SMapWf.nil _, c.2.2.2⟩

theorem mainReset_moves {cs : List Part} {s0 s : State} (hm : Moves cs s0 s) (cause : ResetCause) (m0 : Part.regs ∈ cs) (m1 : Part.ind ∈ cs) (m2 : Part.sram ∈ cs) (m3 : Part.pwr ∈ cs) (m4 : Part.hst ∈ cs) (m5 : Part.lanes ∈ cs) (m6 : Part.tb ∈ cs) (m7 : Part.met ∈ cs) (m8 : Part.loop ∈ cs) (m9 : Part.sky ∈ cs) (m10 : Part.prf ∈ cs) (m11 : Part.net ∈ cs) (m12 : Part.tlm ∈ cs) (m13 : Part.twin ∈ cs) (m14 : Part.boot ∈ cs) (m15 : Part.tap ∈ cs) (m16 : Part.lanePll ∈ cs) (m17 : Part.free ∈ cs) :
    Moves cs s0 (mainReset cause s) := by
  unfold mainReset
  repeat' first
    | with_reducible assumption
    | with_reducible apply State.setFlag_moves
    | with_reducible apply State.updPwr_moves
    | with_reducible apply State.updTap_moves
    | with_reducible apply loopCoast_moves
    | with_reducible apply mainWipe_moves
    | with_reducible apply setRole_moves
    | with_reducible apply yieldPart_moves
    | intro _
    | split
    | dsimp only

theorem coldReset_moves {cs : List Part} {s0 s : State} (hm : Moves cs s0 s) (m0 : Part.regs ∈ cs) (m1 : Part.ind ∈ cs) (m2 : Part.sram ∈ cs) (m3 : Part.pwr ∈ cs) (m4 : Part.hst ∈ cs) (m5 : Part.lanes ∈ cs) (m6 : Part.tb ∈ cs) (m7 : Part.met ∈ cs) (m8 : Part.loop ∈ cs) (m9 : Part.sky ∈ cs) (m10 : Part.prf ∈ cs) (m11 : Part.net ∈ cs) (m12 : Part.tlm ∈ cs) (m13 : Part.twin ∈ cs) (m14 : Part.boot ∈ cs) (m15 : Part.tap ∈ cs) (m16 : Part.lanePll ∈ cs) :
    Moves cs s0 (coldReset s) := by
  unfold coldReset
  refine hm.step (fun p => ?_) (fun c => ?_)
  · cases p <;> first | exact Or.inr rfl | (left; assumption)
  · exact ⟨SMapWf.nil _, SMapWf.nil _, SMapWf.nil _, c.2.2.2⟩

theorem stageOff_moves {cs : List Part} {s0 s : State} (hm : Moves cs s0 s) (m0 : Part.pwr ∈ cs) :
    Moves cs s0 (stageOff s) := by
  unfold stageOff
  repeat' first
    | with_reducible assumption
    | with_reducible apply State.updPwr_moves
    | intro _
    | split
    | dsimp only

theorem retainedStart_moves {cs : List Part} {s0 s : State} (hm : Moves cs s0 s) (m0 : Part.regs ∈ cs) (m1 : Part.pwr ∈ cs) :
    Moves cs s0 (retainedStart s) := by
  unfold retainedStart
  repeat' first
    | with_reducible assumption
    | with_reducible apply State.setFlag_moves
    | with_reducible apply State.updPwr_moves
    | intro _
    | split
    | dsimp only

theorem resetRelease_moves {cs : List Part} {s0 s : State} (hm : Moves cs s0 s) (twinPref : Bool) (boot : Bool) (enumHead : Bool) (m0 : Part.regs ∈ cs) (m1 : Part.pwr ∈ cs) (m2 : Part.boot ∈ cs) :
    Moves cs s0 (resetRelease twinPref boot enumHead s) := by
  unfold resetRelease
  repeat' first
    | with_reducible assumption
    | with_reducible apply State.setFlag_moves
    | with_reducible apply State.setReg_moves
    | with_reducible apply State.updBoot_moves
    | with_reducible apply State.updPwr_moves
    | intro _
    | split
    | dsimp only

theorem mainRelease_moves {cs : List Part} {s0 s : State} (hm : Moves cs s0 s) (m0 : Part.regs ∈ cs) (m1 : Part.ind ∈ cs) (m2 : Part.sram ∈ cs) (m3 : Part.clk ∈ cs) (m4 : Part.pwr ∈ cs) (m5 : Part.hst ∈ cs) (m6 : Part.lanes ∈ cs) (m7 : Part.tb ∈ cs) (m8 : Part.met ∈ cs) (m9 : Part.loop ∈ cs) (m10 : Part.sky ∈ cs) (m11 : Part.prf ∈ cs) (m12 : Part.net ∈ cs) (m13 : Part.tlm ∈ cs) (m14 : Part.twin ∈ cs) (m15 : Part.boot ∈ cs) (m16 : Part.lanePll ∈ cs) :
    Moves cs s0 (mainRelease s) := by
  unfold mainRelease
  repeat' first
    | with_reducible assumption
    | with_reducible apply State.setFld_moves
    | with_reducible apply State.setReg_moves
    | with_reducible apply State.updPwr_moves
    | with_reducible apply mainWipe_moves
    | with_reducible apply mpllSearch_moves
    | with_reducible apply roleEval_moves
    | with_reducible apply settleCover_moves
    | with_reducible apply clk_moves
    | intro _
    | split
    | dsimp only

theorem raisePwr_moves {cs : List Part} {s0 s : State} (hm : Moves cs s0 s) (f : Fld) (m0 : Part.regs ∈ cs) (m1 : Part.pwr ∈ cs) :
    Moves cs s0 (raisePwr f s) := by
  unfold raisePwr
  repeat' first
    | with_reducible assumption
    | with_reducible apply State.raise_moves
    | with_reducible apply State.updPwr_moves
    | intro _
    | split
    | dsimp only

theorem evtLog_moves {cs : List Part} {s0 s : State} (hm : Moves cs s0 s) (typ : Nat) (us : Nat) (vinMin : Nat) (tb : Word) (m0 : Part.regs ∈ cs) (m1 : Part.ind ∈ cs) (m2 : Part.pwr ∈ cs) :
    Moves cs s0 (evtLog typ us vinMin tb s) := by
  unfold evtLog
  repeat' first
    | with_reducible assumption
    | with_reducible apply State.setIfld_moves
    | with_reducible apply State.setIndw_moves
    | with_reducible apply raisePwr_moves
    | intro _
    | split
    | dsimp only

theorem warnAssert_moves {cs : List Part} {s0 s : State} (hm : Moves cs s0 s) (vin : Nat) (m0 : Part.regs ∈ cs) (m1 : Part.pwr ∈ cs) (m2 : Part.met ∈ cs) (m3 : Part.prf ∈ cs) :
    Moves cs s0 (warnAssert vin s) := by
  unfold warnAssert
  repeat' first
    | with_reducible assumption
    | with_reducible apply State.setFlag_moves
    | with_reducible apply State.updPrf_moves
    | with_reducible apply State.updPwr_moves
    | with_reducible apply prfAbandon_moves
    | with_reducible apply raisePwr_moves
    | intro _
    | split
    | dsimp only

theorem warnClear_moves {cs : List Part} {s0 s : State} (hm : Moves cs s0 s) (vin : Nat) (vinMin : Nat) (oclk : Nat) (m0 : Part.regs ∈ cs) (m1 : Part.ind ∈ cs) (m2 : Part.pwr ∈ cs) :
    Moves cs s0 (warnClear vin vinMin oclk s) := by
  unfold warnClear
  repeat' first
    | with_reducible assumption
    | with_reducible apply State.setFlag_moves
    | with_reducible apply State.updPwr_moves
    | with_reducible apply evtLog_moves
    | with_reducible apply raisePwr_moves
    | intro _
    | split
    | dsimp only

theorem supplyReset_moves {cs : List Part} {s0 s : State} (hm : Moves cs s0 s) (vin : Nat) (m0 : Part.regs ∈ cs) (m1 : Part.ind ∈ cs) (m2 : Part.sram ∈ cs) (m3 : Part.pwr ∈ cs) (m4 : Part.hst ∈ cs) (m5 : Part.lanes ∈ cs) (m6 : Part.tb ∈ cs) (m7 : Part.met ∈ cs) (m8 : Part.loop ∈ cs) (m9 : Part.sky ∈ cs) (m10 : Part.prf ∈ cs) (m11 : Part.net ∈ cs) (m12 : Part.tlm ∈ cs) (m13 : Part.twin ∈ cs) (m14 : Part.boot ∈ cs) (m15 : Part.tap ∈ cs) (m16 : Part.lanePll ∈ cs) (m17 : Part.free ∈ cs) :
    Moves cs s0 (supplyReset vin s) := by
  unfold supplyReset
  repeat' first
    | with_reducible assumption
    | with_reducible apply State.updPwr_moves
    | with_reducible apply coldReset_moves
    | with_reducible apply mainReset_moves
    | with_reducible apply stageOff_moves
    | intro _
    | split
    | dsimp only

theorem showTempWarn_moves {cs : List Part} {s0 s : State} (hm : Moves cs s0 s) (m0 : Part.regs ∈ cs) :
    Moves cs s0 (showTempWarn s) := by
  unfold showTempWarn
  repeat' first
    | with_reducible assumption
    | with_reducible apply State.setFlag_moves
    | intro _
    | split
    | dsimp only

theorem actTempWarn_moves {cs : List Part} {s0 s : State} (hm : Moves cs s0 s) (old : Word) (_raw : Word) (m0 : Part.regs ∈ cs) (m1 : Part.pwr ∈ cs) :
    Moves cs s0 (actTempWarn old _raw s) := by
  unfold actTempWarn
  repeat' first
    | with_reducible assumption
    | with_reducible apply State.updPwr_moves
    | with_reducible apply showTempWarn_moves
    | intro _
    | split
    | dsimp only

theorem tempUpdate_moves {cs : List Part} {s0 s : State} (hm : Moves cs s0 s) (sensors : List (BitVec 12)) (m0 : Part.regs ∈ cs) (m1 : Part.pwr ∈ cs) :
    Moves cs s0 (tempUpdate sensors s) := by
  unfold tempUpdate
  repeat' first
    | with_reducible assumption
    | with_reducible apply State.raise_moves
    | with_reducible apply State.setReg_moves
    | with_reducible apply State.updPwr_moves
    | with_reducible apply showTempWarn_moves
    | intro _
    | split
    | dsimp only

theorem tripRestart_moves {cs : List Part} {s0 s : State} (hm : Moves cs s0 s) (m0 : Part.regs ∈ cs) (m1 : Part.pwr ∈ cs) :
    Moves cs s0 (tripRestart s) := by
  unfold tripRestart
  repeat' first
    | with_reducible assumption
    | with_reducible apply State.setFlag_moves
    | with_reducible apply State.updPwr_moves
    | with_reducible apply retainedStart_moves
    | intro _
    | split
    | dsimp only

end Sys2Proof.Machine
end

