-- ==== Sys2Proof/Laws/FrameMbox.lean ====
section
/-!
SUPPORT. Sys2Proof/Laws/FrameMbox.lean: for each operation of Machine/Mbox.lean that changes the state, the parts it may change (and
that it keeps storage canonical), once and for all: `Moves` goes through it.
-/
namespace Sys2Proof.Machine
set_option Elab.async false
set_option linter.unusedTactic false
set_option linter.unreachableTactic false

theorem State.updMbox_moves {cs : List Part} {s0 s : State} (hm : Moves cs s0 s) (q : Nat) (f : MboxSt → MboxSt) (m0 : Part.hst ∈ cs) :
    Moves cs s0 (State.updMbox s q f) := by
  unfold State.updMbox
  repeat' first
    | with_reducible assumption
    | with_reducible apply hst_moves
    | intro _
    | split
    | dsimp only

theorem mboxDenied_moves {cs : List Part} {s0 s : State} (hm : Moves cs s0 s) (q : Nat) (m0 : Part.regs ∈ cs) :
    Moves cs s0 (mboxDenied q s) := by
  unfold mboxDenied
  repeat' first
    | with_reducible assumption
    | with_reducible apply State.raise_moves
    | intro _
    | split
    | dsimp only

theorem mboxConflict_moves {cs : List Part} {s0 s : State} (hm : Moves cs s0 s) (q : Nat) (m0 : Part.regs ∈ cs) :
    Moves cs s0 (mboxConflict q s) := by
  unfold mboxConflict
  repeat' first
    | with_reducible assumption
    | with_reducible apply State.raise_moves
    | intro _
    | split
    | dsimp only

theorem mboxRefusals_moves {cs : List Part} {s0 s : State} (hm : Moves cs s0 s) (ag : Agent) (q : Nat) (m0 : Part.regs ∈ cs) :
    Moves cs s0 (mboxRefusals ag q s) := by
  unfold mboxRefusals
  repeat' first
    | with_reducible assumption
    | with_reducible apply mboxConflict_moves
    | with_reducible apply mboxDenied_moves
    | intro _
    | split
    | dsimp only

theorem mboxWr_moves {cs : List Part} {s0 s : State} (hm : Moves cs s0 s) (ag : Agent) (q : Nat) (d : Word) (m0 : Part.regs ∈ cs) (m1 : Part.hst ∈ cs) :
    Moves cs s0 (mboxWr ag q d s) := by
  unfold mboxWr
  repeat' first
    | with_reducible assumption
    | with_reducible apply State.raise_moves
    | with_reducible apply State.updMbox_moves
    | with_reducible apply mboxRefusals_moves
    | intro _
    | split
    | dsimp only

theorem mboxPost_moves {cs : List Part} {s0 s : State} (hm : Moves cs s0 s) (ag : Agent) (q : Nat) (m0 : Part.regs ∈ cs) (m1 : Part.hst ∈ cs) :
    Moves cs s0 (mboxPost ag q s) := by
  unfold mboxPost
  dsimp only
  split
  · exact mboxConflict_moves hm _ m0
  · split
    · exact hm
    · exact hst_moves (State.updMbox_moves hm _ _ m1) _ m1

theorem mboxAbort_moves {cs : List Part} {s0 s : State} (hm : Moves cs s0 s) (ag : Agent) (q : Nat) (m0 : Part.regs ∈ cs) (m1 : Part.hst ∈ cs) :
    Moves cs s0 (mboxAbort ag q s) := by
  unfold mboxAbort
  repeat' first
    | with_reducible assumption
    | with_reducible apply State.updMbox_moves
    | with_reducible apply mboxConflict_moves
    | intro _
    | split
    | dsimp only

theorem mboxEmpty_moves {cs : List Part} {s0 s : State} (hm : Moves cs s0 s) (q : Nat) (m0 : Part.hst ∈ cs) :
    Moves cs s0 (mboxEmpty q s) := by
  unfold mboxEmpty
  repeat' first
    | with_reducible assumption
    | with_reducible apply State.updMbox_moves
    | intro _
    | split
    | dsimp only

theorem mboxDiscard_moves {cs : List Part} {s0 s : State} (hm : Moves cs s0 s) (q : Nat) (m0 : Part.hst ∈ cs) :
    Moves cs s0 (mboxDiscard q s) := by
  unfold mboxDiscard
  repeat' first
    | with_reducible assumption
    | with_reducible apply State.updMbox_moves
    | with_reducible apply mboxEmpty_moves
    | intro _
    | split
    | dsimp only

theorem mboxCmd_moves {cs : List Part} {s0 s : State} (hm : Moves cs s0 s) (ag : Agent) (q : Nat) (raw : Word) (m0 : Part.regs ∈ cs) (m1 : Part.hst ∈ cs) :
    Moves cs s0 (mboxCmd ag q raw s) := by
  unfold mboxCmd
  repeat' first
    | with_reducible assumption
    | with_reducible apply mboxAbort_moves
    | with_reducible apply mboxDenied_moves
    | with_reducible apply mboxDiscard_moves
    | with_reducible apply mboxPost_moves
    | with_reducible apply mboxRefusals_moves
    | intro _
    | split
    | dsimp only

theorem mboxTake_moves {cs : List Part} {s0 s : State} (hm : Moves cs s0 s) (ag : Agent) (q : Nat) (m0 : Part.regs ∈ cs) (m1 : Part.hst ∈ cs) :
    Moves cs s0 (mboxTake ag q s) := by
  unfold mboxTake
  repeat' first
    | with_reducible assumption
    | with_reducible apply State.updMbox_moves
    | with_reducible apply mboxDenied_moves
    | with_reducible apply mboxEmpty_moves
    | intro _
    | split
    | dsimp only

theorem mboxArrive_moves {cs : List Part} {s0 s : State} (hm : Moves cs s0 s) (q : Nat) (m0 : Part.regs ∈ cs) (m1 : Part.hst ∈ cs) :
    Moves cs s0 (mboxArrive q s) := by
  unfold mboxArrive
  repeat' first
    | with_reducible assumption
    | with_reducible apply State.raise_moves
    | with_reducible apply State.updMbox_moves
    | intro _
    | split
    | dsimp only

theorem mboxEmptyShown_moves {cs : List Part} {s0 s : State} (hm : Moves cs s0 s) (q : Nat) (m0 : Part.regs ∈ cs) (m1 : Part.hst ∈ cs) :
    Moves cs s0 (mboxEmptyShown q s) := by
  unfold mboxEmptyShown
  repeat' first
    | with_reducible assumption
    | with_reducible apply State.raise_moves
    | with_reducible apply State.updMbox_moves
    | intro _
    | split
    | dsimp only

end Sys2Proof.Machine
end

