-- ==== Sys2Proof/Laws/FrameIrq.lean ====
section
/-!
SUPPORT. Sys2Proof/Laws/FrameIrq.lean: for each operation of Machine/Irq.lean that changes the state, the parts it may change (and
that it keeps storage canonical), once and for all: `Moves` goes through it.
-/
namespace Sys2Proof.Machine
set_option Elab.async false
set_option linter.unusedTactic false
set_option linter.unreachableTactic false

theorem State.updMsix_moves {cs : List Part} {s0 s : State} (hm : Moves cs s0 s) (f : Nat) (g : MsixSt → MsixSt) (m0 : Part.hst ∈ cs) :
    Moves cs s0 (State.updMsix s f g) := by
  unfold State.updMsix
  repeat' first
    | with_reducible assumption
    | with_reducible apply hst_moves
    | intro _
    | split
    | dsimp only

theorem msixSend_moves {cs : List Part} {s0 s : State} (hm : Moves cs s0 s) (f : Nat) (v : Nat) (m0 : Part.hst ∈ cs) :
    Moves cs s0 (msixSend f v s) := by
  unfold msixSend
  repeat' first
    | with_reducible assumption
    | with_reducible apply State.updMsix_moves
    | intro _
    | split
    | dsimp only

theorem msixDue_moves {cs : List Part} {s0 s : State} (hm : Moves cs s0 s) (f : Nat) (v : Nat) (m0 : Part.hst ∈ cs) :
    Moves cs s0 (msixDue f v s) := by
  unfold msixDue
  repeat' first
    | with_reducible assumption
    | with_reducible apply State.updMsix_moves
    | with_reducible apply msixSend_moves
    | intro _
    | split
    | dsimp only

theorem settleIrq_moves {cs : List Part} {s0 s : State} (hm : Moves cs s0 s) (m0 : Part.hst ∈ cs) :
    Moves cs s0 (settleIrq s) := by
  unfold settleIrq
  repeat' first
    | with_reducible assumption
    | with_reducible apply State.updMsix_moves
    | with_reducible apply forUpto_moves
    | intro _
    | split
    | dsimp only

theorem vecRise_moves {cs : List Part} {s0 s : State} (hm : Moves cs s0 s) (f : Nat) (v : Nat) (m0 : Part.hst ∈ cs) :
    Moves cs s0 (vecRise f v s) := by
  unfold vecRise
  repeat' first
    | with_reducible assumption
    | with_reducible apply State.updMsix_moves
    | with_reducible apply msixDue_moves
    | intro _
    | split
    | dsimp only

theorem msixStart_moves {cs : List Part} {s0 s : State} (hm : Moves cs s0 s) (f : Nat) (m0 : Part.hst ∈ cs) :
    Moves cs s0 (msixStart f s) := by
  unfold msixStart
  repeat' first
    | with_reducible assumption
    | with_reducible apply State.updMsix_moves
    | with_reducible apply vecRise_moves
    | with_reducible apply forUpto_moves
    | intro _
    | split
    | dsimp only

theorem sendPending_moves {cs : List Part} {s0 s : State} (hm : Moves cs s0 s) (f : Nat) (m0 : Part.hst ∈ cs) :
    Moves cs s0 (sendPending f s) := by
  unfold sendPending
  repeat' first
    | with_reducible assumption
    | with_reducible apply msixSend_moves
    | with_reducible apply settleIrq_moves
    | with_reducible apply forUpto_moves
    | intro _
    | split
    | dsimp only

theorem actIrqEoi_moves {cs : List Part} {s0 s : State} (hm : Moves cs s0 s) (_old : Word) (raw : Word) (m0 : Part.hst ∈ cs) :
    Moves cs s0 (actIrqEoi _old raw s) := by
  unfold actIrqEoi
  repeat' first
    | with_reducible assumption
    | with_reducible apply msixDue_moves
    | intro _
    | split
    | dsimp only

end Sys2Proof.Machine
end

