-- ==== Sys2Proof/Laws/FrameTlm.lean ====
section
/-!
SUPPORT. Sys2Proof/Laws/FrameTlm.lean: for each operation of Machine/Tlm.lean that changes the state, the parts it may change (and
that it keeps storage canonical), once and for all: `Moves` goes through it.
-/
namespace Sys2Proof.Machine
set_option Elab.async false
set_option linter.unusedTactic false
set_option linter.unreachableTactic false

theorem setEvt_moves {cs : List Part} {s0 s : State} (hm : Moves cs s0 s) (k : Nat) (x : Nat) (m0 : Part.regs ∈ cs) :
    Moves cs s0 (setEvt k x s) := by
  unfold setEvt
  repeat' first
    | with_reducible assumption
    | with_reducible apply State.setReg64_moves
    | intro _
    | split
    | dsimp only

theorem clearReload_moves {cs : List Part} {s0 s : State} (hm : Moves cs s0 s) (k : Nat) (m0 : Part.tlm ∈ cs) :
    Moves cs s0 (clearReload k s) := by
  unfold clearReload
  repeat' first
    | with_reducible assumption
    | with_reducible apply State.updTlm_moves
    | intro _
    | split
    | dsimp only

theorem evtReloadNow_moves {cs : List Part} {s0 s : State} (hm : Moves cs s0 s) (k : Nat) (m0 : Part.regs ∈ cs) (m1 : Part.tlm ∈ cs) :
    Moves cs s0 (evtReloadNow k s) := by
  unfold evtReloadNow
  repeat' first
    | with_reducible assumption
    | with_reducible apply clearReload_moves
    | with_reducible apply setEvt_moves
    | intro _
    | split
    | dsimp only

theorem evtCycles_moves {cs : List Part} {s0 s : State} (hm : Moves cs s0 s) (n : Nat) (k : Nat) (m0 : Part.regs ∈ cs) (m1 : Part.tlm ∈ cs) :
    Moves cs s0 (evtCycles n k s) := by
  unfold evtCycles
  repeat' first
    | with_reducible assumption
    | with_reducible apply State.raise_moves
    | with_reducible apply State.updTlm_moves
    | with_reducible apply clearReload_moves
    | with_reducible apply evtBump_moves
    | with_reducible apply evtReloadNow_moves
    | with_reducible apply setEvt_moves
    | intro _
    | split
    | dsimp only

theorem thrCycles_moves {cs : List Part} {s0 s : State} (hm : Moves cs s0 s) (n : Nat) (k : Nat) (m0 : Part.regs ∈ cs) :
    Moves cs s0 (thrCycles n k s) := by
  unfold thrCycles
  repeat' first
    | with_reducible assumption
    | with_reducible apply State.bump64_moves
    | intro _
    | split
    | dsimp only

theorem slotBump_moves {cs : List Part} {s0 s : State} (hm : Moves cs s0 s) (a : Nat) (n : Nat) (m0 : Part.regs ∈ cs) :
    Moves cs s0 (slotBump a n s) := by
  unfold slotBump
  repeat' first
    | with_reducible assumption
    | with_reducible apply State.bump64_moves
    | intro _
    | split
    | dsimp only

theorem slotCycles_moves {cs : List Part} {s0 s : State} (hm : Moves cs s0 s) (n : Nat) (p : Nat) (m0 : Part.regs ∈ cs) (m1 : Part.tlm ∈ cs) :
    Moves cs s0 (slotCycles n p s) := by
  unfold slotCycles
  repeat' first
    | with_reducible assumption
    | with_reducible apply State.updTlm_moves
    | with_reducible apply slotBump_moves
    | intro _
    | split
    | dsimp only

theorem tlmCycles_moves {cs : List Part} {s0 s : State} (hm : Moves cs s0 s) (n : Nat) (m0 : Part.regs ∈ cs) (m1 : Part.tlm ∈ cs) :
    Moves cs s0 (tlmCycles n s) := by
  unfold tlmCycles
  repeat' first
    | with_reducible assumption
    | with_reducible apply evtCycles_moves
    | with_reducible apply slotCycles_moves
    | with_reducible apply thrCycles_moves
    | with_reducible apply forUpto_moves
    | intro _
    | split
    | dsimp only

theorem slotSnap_moves {cs : List Part} {s0 s : State} (hm : Moves cs s0 s) (m0 : Part.regs ∈ cs) :
    Moves cs s0 (slotSnap s) := by
  unfold slotSnap
  repeat' first
    | with_reducible assumption
    | with_reducible apply State.raise_moves
    | with_reducible apply State.setReg_moves
    | with_reducible apply State.setRegs_moves
    | with_reducible apply forUpto_moves
    | intro _
    | split
    | dsimp only

theorem slotClear_moves {cs : List Part} {s0 s : State} (hm : Moves cs s0 s) (m0 : Part.regs ∈ cs) :
    Moves cs s0 (slotClear s) := by
  unfold slotClear
  repeat' first
    | with_reducible assumption
    | with_reducible apply State.setReg_moves
    | with_reducible apply forUpto_moves
    | intro _
    | split
    | dsimp only

theorem actSlotCmd_moves {cs : List Part} {s0 s : State} (hm : Moves cs s0 s) (_old : Word) (raw : Word) (m0 : Part.regs ∈ cs) :
    Moves cs s0 (actSlotCmd _old raw s) := by
  unfold actSlotCmd
  repeat' first
    | with_reducible assumption
    | with_reducible apply slotClear_moves
    | with_reducible apply slotSnap_moves
    | intro _
    | split
    | dsimp only

theorem sampleRecord_moves {cs : List Part} {s0 s : State} (hm : Moves cs s0 s) (ws : List Word) (m0 : Part.regs ∈ cs) (m1 : Part.sram ∈ cs) :
    Moves cs s0 (sampleRecord ws s).2 := by
  unfold sampleRecord
  repeat' first
    | with_reducible assumption
    | with_reducible apply State.bump32_moves
    | with_reducible apply State.raise_moves
    | with_reducible apply State.setFld_moves
    | with_reducible apply State.setSramBytes_moves
    | intro _
    | split
    | dsimp only
theorem sampleRecord_moves_eq {cs : List Part} {s0 s v1 : State} {v0} {ws : List Word} (e : sampleRecord ws s = (v0, v1)) (hm : Moves cs s0 s) (m0 : Part.regs ∈ cs) (m1 : Part.sram ∈ cs) :
    Moves cs s0 v1 := by
  have := sampleRecord_moves hm ws m0 m1
  rwa [e] at this

theorem walkTo_moves {cs : List Part} {s0 s : State} (hm : Moves cs s0 s) (g : Nat) (m0 : Part.regs ∈ cs) (m1 : Part.net ∈ cs) :
    Moves cs s0 (walkTo g s) := by
  unfold walkTo
  repeat' first
    | with_reducible assumption
    | with_reducible apply State.raise_moves
    | with_reducible apply State.updNet_moves
    | intro _
    | split
    | dsimp only

theorem walkStart_moves {cs : List Part} {s0 s : State} (hm : Moves cs s0 s) (m0 : Part.regs ∈ cs) (m1 : Part.sram ∈ cs) (m2 : Part.net ∈ cs) :
    Moves cs s0 (walkStart s) := by
  unfold walkStart
  repeat' first
    | with_reducible assumption
    | with_reducible apply State.bump32_moves
    | with_reducible apply State.raise_moves
    | with_reducible apply State.updNet_moves
    | (refine sampleRecord_moves_eq (by with_reducible assumption) ?_ ?_ ?_ <;> try with_reducible assumption)
    | with_reducible apply sampleRecord_moves
    | with_reducible apply walkTo_moves
    | intro _
    | split
    | dsimp only

theorem sampleQueue_moves {cs : List Part} {s0 s : State} (hm : Moves cs s0 s) (m0 : Part.regs ∈ cs) (m1 : Part.sram ∈ cs) (m2 : Part.net ∈ cs) :
    Moves cs s0 (sampleQueue s) := by
  unfold sampleQueue
  repeat' first
    | with_reducible assumption
    | with_reducible apply State.updSample_moves
    | (refine sampleRecord_moves_eq (by with_reducible assumption) ?_ ?_ ?_ <;> try with_reducible assumption)
    | with_reducible apply sampleRecord_moves
    | with_reducible apply walkTo_moves
    | intro _
    | split
    | dsimp only

theorem actSampleCtrl_moves {cs : List Part} {s0 s : State} (hm : Moves cs s0 s) (old : Word) (raw : Word) (m0 : Part.net ∈ cs) :
    Moves cs s0 (actSampleCtrl old raw s) := by
  unfold actSampleCtrl
  repeat' first
    | with_reducible assumption
    | with_reducible apply State.updNet_moves
    | intro _
    | split
    | dsimp only

end Sys2Proof.Machine
end

