-- ==== Sys2Proof/Laws/FrameRead.lean ====
section
/-!
SUPPORT. Sys2Proof/Laws/FrameRead.lean: for each operation of Machine/Read.lean that changes the state, the parts it may change (and
that it keeps storage canonical), once and for all: `Moves` goes through it.
-/
namespace Sys2Proof.Machine
set_option Elab.async false
set_option linter.unusedTactic false
set_option linter.unreachableTactic false

theorem State.updWin_moves {cs : List Part} {s0 s : State} (hm : Moves cs s0 s) (k : Nat) (f : WinSt → WinSt) (m0 : Part.hst ∈ cs) :
    Moves cs s0 (State.updWin s k f) := by
  unfold State.updWin
  repeat' first
    | with_reducible assumption
    | with_reducible apply hst_moves
    | intro _
    | split
    | dsimp only

theorem hostWords_moves {cs : List Part} {s0 s : State} (hm : Moves cs s0 s) (a : Nat) (ws : List Word) (m0 : Part.hostMem ∈ cs) :
    Moves cs s0 (hostWords a ws s) := by
  unfold hostWords
  repeat' first
    | with_reducible assumption
    | with_reducible apply State.setHostBytes_moves
    | intro _
    | split
    | dsimp only

theorem writeBack_moves {cs : List Part} {s0 s : State} (hm : Moves cs s0 s) (m0 : Part.hostMem ∈ cs) :
    Moves cs s0 (writeBack s) := by
  unfold writeBack
  repeat' first
    | with_reducible assumption
    | with_reducible apply hostWords_moves
    | intro _
    | split
    | dsimp only

theorem dumpOut_moves {cs : List Part} {s0 s : State} (hm : Moves cs s0 s) (ws : List Word) (m0 : Part.regs ∈ cs) (m1 : Part.hostMem ∈ cs) :
    Moves cs s0 (dumpOut ws s) := by
  unfold dumpOut
  repeat' first
    | with_reducible assumption
    | with_reducible apply State.raise_moves
    | with_reducible apply State.setFld_moves
    | with_reducible apply hostWords_moves
    | with_reducible apply writeBack_moves
    | intro _
    | split
    | dsimp only

theorem dumpStart_moves {cs : List Part} {s0 s : State} (hm : Moves cs s0 s) (m0 : Part.regs ∈ cs) (m1 : Part.hostMem ∈ cs) (m2 : Part.tlm ∈ cs) :
    Moves cs s0 (dumpStart s) := by
  unfold dumpStart
  repeat' first
    | with_reducible assumption
    | with_reducible apply State.bump32_moves
    | with_reducible apply State.raise_moves
    | with_reducible apply State.updTlm_moves
    | with_reducible apply dumpOut_moves
    | with_reducible apply slotSnap_moves
    | intro _
    | split
    | dsimp only

theorem tagOut_moves {cs : List Part} {s0 s : State} (hm : Moves cs s0 s) (r : Nat) (m0 : Part.regs ∈ cs) (m1 : Part.hostMem ∈ cs) :
    Moves cs s0 (tagOut r s) := by
  unfold tagOut
  repeat' first
    | with_reducible assumption
    | with_reducible apply State.bump32_moves
    | with_reducible apply State.raise_moves
    | with_reducible apply State.setFld_moves
    | with_reducible apply hostWords_moves
    | with_reducible apply writeBack_moves
    | intro _
    | split
    | dsimp only

theorem tagCopy_moves {cs : List Part} {s0 s : State} (hm : Moves cs s0 s) (r : Nat) (m0 : Part.regs ∈ cs) (m1 : Part.hostMem ∈ cs) (m2 : Part.tlm ∈ cs) :
    Moves cs s0 (tagCopy r s) := by
  unfold tagCopy
  repeat' first
    | with_reducible assumption
    | with_reducible apply State.raise_moves
    | with_reducible apply State.updTlm_moves
    | with_reducible apply tagOut_moves
    | intro _
    | split
    | dsimp only

theorem dmaResume_moves {cs : List Part} {s0 s : State} (hm : Moves cs s0 s) (m0 : Part.regs ∈ cs) (m1 : Part.hostMem ∈ cs) (m2 : Part.tlm ∈ cs) :
    Moves cs s0 (dmaResume s) := by
  unfold dmaResume
  repeat' first
    | with_reducible assumption
    | with_reducible apply State.updTlm_moves
    | with_reducible apply dumpOut_moves
    | with_reducible apply tagOut_moves
    | with_reducible apply foldl_moves
    | intro _
    | split
    | dsimp only

theorem actDmaCtrl_moves {cs : List Part} {s0 s : State} (hm : Moves cs s0 s) (old : Word) (raw : Word) (m0 : Part.regs ∈ cs) (m1 : Part.hostMem ∈ cs) (m2 : Part.tlm ∈ cs) :
    Moves cs s0 (actDmaCtrl old raw s) := by
  unfold actDmaCtrl
  repeat' first
    | with_reducible assumption
    | with_reducible apply State.updTlm_moves
    | with_reducible apply dmaResume_moves
    | intro _
    | split
    | dsimp only

theorem masterOn_moves {cs : List Part} {s0 s : State} (hm : Moves cs s0 s) (f : Nat) (msix : Bool) (m0 : Part.regs ∈ cs) (m1 : Part.hostMem ∈ cs) (m2 : Part.hst ∈ cs) (m3 : Part.tlm ∈ cs) :
    Moves cs s0 (masterOn f msix s) := by
  unfold masterOn
  repeat' first
    | with_reducible assumption
    | with_reducible apply State.updMsix_moves
    | with_reducible apply dmaResume_moves
    | with_reducible apply msixStart_moves
    | intro _
    | split
    | dsimp only

end Sys2Proof.Machine
end

