-- ==== Sys2Proof/Laws/FrameSky.lean ====
section
/-!
SUPPORT. Sys2Proof/Laws/FrameSky.lean: for each operation of Machine/Sky.lean that changes the state, the parts it may change (and
that it keeps storage canonical), once and for all: `Moves` goes through it.
-/
namespace Sys2Proof.Machine
set_option Elab.async false
set_option linter.unusedTactic false
set_option linter.unreachableTactic false

theorem State.updSky_moves {cs : List Part} {s0 s : State} (hm : Moves cs s0 s) (f : SkySt → SkySt) (m0 : Part.sky ∈ cs) :
    Moves cs s0 (State.updSky s f) := by
  unfold State.updSky
  repeat' first
    | with_reducible assumption
    | with_reducible apply sky_moves
    | intro _
    | split
    | dsimp only

theorem State.updChan_moves {cs : List Part} {s0 s : State} (hm : Moves cs s0 s) (c : Nat) (f : ChanSt → ChanSt) (m0 : Part.sky ∈ cs) :
    Moves cs s0 (State.updChan s c f) := by
  unfold State.updChan
  repeat' first
    | with_reducible assumption
    | with_reducible apply State.updSky_moves
    | intro _
    | split
    | dsimp only

theorem clearTimeValid_moves {cs : List Part} {s0 s : State} (hm : Moves cs s0 s) (m0 : Part.regs ∈ cs) :
    Moves cs s0 (clearTimeValid s) := by
  unfold clearTimeValid
  repeat' first
    | with_reducible assumption
    | with_reducible apply State.raise_moves
    | with_reducible apply State.setFlag_moves
    | with_reducible apply State.setFld_moves
    | intro _
    | split
    | dsimp only

theorem showLocked_moves {cs : List Part} {s0 s : State} (hm : Moves cs s0 s) (m0 : Part.regs ∈ cs) :
    Moves cs s0 (showLocked s) := by
  unfold showLocked
  repeat' first
    | with_reducible assumption
    | with_reducible apply State.setFld_moves
    | intro _
    | split
    | dsimp only

theorem ringRecord_moves {cs : List Part} {s0 s : State} (hm : Moves cs s0 s) (dump : Bool) (ws : List Word) (m0 : Part.regs ∈ cs) (m1 : Part.sram ∈ cs) :
    Moves cs s0 (ringRecord dump ws s) := by
  unfold ringRecord
  repeat' first
    | with_reducible assumption
    | with_reducible apply State.bump32_moves
    | with_reducible apply State.raise_moves
    | with_reducible apply State.setFld_moves
    | with_reducible apply State.setSramBytes_moves
    | intro _
    | split
    | dsimp only

theorem takeNco_moves {cs : List Part} {s0 s : State} (hm : Moves cs s0 s) (c : Nat) (new : Bool) (m0 : Part.sky ∈ cs) :
    Moves cs s0 (takeNco c new s) := by
  unfold takeNco
  repeat' first
    | with_reducible assumption
    | with_reducible apply State.updChan_moves
    | intro _
    | split
    | dsimp only

theorem chanStop_moves {cs : List Part} {s0 s : State} (hm : Moves cs s0 s) (c : Nat) (m0 : Part.regs ∈ cs) (m1 : Part.ind ∈ cs) (m2 : Part.sky ∈ cs) :
    Moves cs s0 (chanStop c s) := by
  unfold chanStop
  repeat' first
    | with_reducible assumption
    | with_reducible apply State.setIfld_moves
    | with_reducible apply State.setIndw_moves
    | with_reducible apply State.updChan_moves
    | with_reducible apply showLocked_moves
    | intro _
    | split
    | dsimp only

theorem chanStart_moves {cs : List Part} {s0 s : State} (hm : Moves cs s0 s) (c : Nat) (m0 : Part.regs ∈ cs) (m1 : Part.ind ∈ cs) (m2 : Part.sky ∈ cs) :
    Moves cs s0 (chanStart c s) := by
  unfold chanStart
  repeat' first
    | with_reducible assumption
    | with_reducible apply State.raise_moves
    | with_reducible apply State.setIfld_moves
    | with_reducible apply State.setIndw_moves
    | with_reducible apply State.updChan_moves
    | with_reducible apply showLocked_moves
    | with_reducible apply takeNco_moves
    | intro _
    | split
    | dsimp only

theorem chanWrite_moves {cs : List Part} {s0 s : State} (hm : Moves cs s0 s) (waddr : Nat) (d : Word) (m0 : Part.regs ∈ cs) (m1 : Part.ind ∈ cs) (m2 : Part.sky ∈ cs) :
    Moves cs s0 (chanWrite waddr d s) := by
  unfold chanWrite
  repeat' first
    | with_reducible assumption
    | with_reducible apply State.raise_moves
    | with_reducible apply State.setIndw_moves
    | with_reducible apply State.updChan_moves
    | with_reducible apply chanStart_moves
    | with_reducible apply chanStop_moves
    | with_reducible apply showLocked_moves
    | intro _
    | split
    | dsimp only

theorem sampleCount_moves {cs : List Part} {s0 s : State} (hm : Moves cs s0 s) (n : BitVec 32) (m0 : Part.regs ∈ cs) (m1 : Part.sky ∈ cs) :
    Moves cs s0 (sampleCount n s) := by
  unfold sampleCount
  repeat' first
    | with_reducible assumption
    | with_reducible apply State.setReg_moves
    | with_reducible apply State.updSky_moves
    | intro _
    | split
    | dsimp only

theorem setNavBit_moves {cs : List Part} {s0 s : State} (hm : Moves cs s0 s) (c : Nat) (i : Nat) (b : Bool) (m0 : Part.ind ∈ cs) :
    Moves cs s0 (setNavBit c i b s) := by
  unfold setNavBit
  repeat' first
    | with_reducible assumption
    | with_reducible apply State.setIfld_moves
    | intro _
    | split
    | dsimp only

theorem chanDump_moves {cs : List Part} {s0 s : State} (hm : Moves cs s0 s) (c : Nat) (n : BitVec 32) (vs : List (BitVec 8)) (m0 : Part.regs ∈ cs) (m1 : Part.ind ∈ cs) (m2 : Part.sram ∈ cs) (m3 : Part.sky ∈ cs) :
    Moves cs s0 (chanDump c n vs s) := by
  unfold chanDump
  repeat' first
    | with_reducible assumption
    | with_reducible apply State.setIndw_moves
    | with_reducible apply State.updChan_moves
    | with_reducible apply ringRecord_moves
    | with_reducible apply sampleCount_moves
    | with_reducible apply takeNco_moves
    | intro _
    | split
    | dsimp only

theorem navRecord_moves {cs : List Part} {s0 s : State} (hm : Moves cs s0 s) (c : Nat) (pass : Bool) (ws : List Word) (m0 : Part.regs ∈ cs) (m1 : Part.ind ∈ cs) (m2 : Part.sram ∈ cs) :
    Moves cs s0 (navRecord c pass ws s) := by
  unfold navRecord
  repeat' first
    | with_reducible assumption
    | with_reducible apply State.raiseIf_moves
    | with_reducible apply State.setIfld_moves
    | with_reducible apply ringRecord_moves
    | intro _
    | split
    | dsimp only

theorem lnavRecord_moves {cs : List Part} {s0 s : State} (hm : Moves cs s0 s) (c : Nat) (no : Nat) (bs : List (Bool × Nat)) (m0 : Part.regs ∈ cs) (m1 : Part.ind ∈ cs) (m2 : Part.sram ∈ cs) :
    Moves cs s0 (lnavRecord c no bs s) := by
  unfold lnavRecord
  repeat' first
    | with_reducible assumption
    | with_reducible apply navRecord_moves
    | intro _
    | split
    | dsimp only

theorem lnavNext_moves {cs : List Part} {s0 s : State} (hm : Moves cs s0 s) (c : Nat) (m0 : Part.regs ∈ cs) (m1 : Part.ind ∈ cs) (m2 : Part.sram ∈ cs) (m3 : Part.sky ∈ cs) :
    Moves cs s0 (lnavNext c s) := by
  unfold lnavNext
  repeat' first
    | with_reducible assumption
    | with_reducible apply State.updChan_moves
    | with_reducible apply lnavRecord_moves
    | with_reducible apply setNavBit_moves
    | intro _
    | split
    | dsimp only

theorem lnavSearch_moves {cs : List Part} {s0 s : State} (hm : Moves cs s0 s) (c : Nat) (m0 : Part.regs ∈ cs) (m1 : Part.ind ∈ cs) (m2 : Part.sram ∈ cs) (m3 : Part.sky ∈ cs) :
    Moves cs s0 (lnavSearch c s) := by
  unfold lnavSearch
  repeat' first
    | with_reducible assumption
    | with_reducible apply State.updChan_moves
    | with_reducible apply lnavRecord_moves
    | with_reducible apply setNavBit_moves
    | intro _
    | split
    | dsimp only

theorem lnavBitSync_moves {cs : List Part} {s0 s : State} (hm : Moves cs s0 s) (c : Nat) (m0 : Part.ind ∈ cs) (m1 : Part.sky ∈ cs) :
    Moves cs s0 (lnavBitSync c s) := by
  unfold lnavBitSync
  repeat' first
    | with_reducible assumption
    | with_reducible apply State.updChan_moves
    | with_reducible apply setNavBit_moves
    | intro _
    | split
    | dsimp only

theorem inavSync_moves {cs : List Part} {s0 s : State} (hm : Moves cs s0 s) (c : Nat) (m0 : Part.ind ∈ cs) (m1 : Part.sky ∈ cs) :
    Moves cs s0 (inavSync c s) := by
  unfold inavSync
  repeat' first
    | with_reducible assumption
    | with_reducible apply State.updChan_moves
    | with_reducible apply setNavBit_moves
    | intro _
    | split
    | dsimp only

theorem inavRecord_moves {cs : List Part} {s0 s : State} (hm : Moves cs s0 s) (c : Nat) (count : Nat) (even : Nat) (odd : Nat) (m0 : Part.regs ∈ cs) (m1 : Part.ind ∈ cs) (m2 : Part.sram ∈ cs) :
    Moves cs s0 (inavRecord c count even odd s) := by
  unfold inavRecord
  repeat' first
    | with_reducible assumption
    | with_reducible apply navRecord_moves
    | intro _
    | split
    | dsimp only

theorem inavPart_moves {cs : List Part} {s0 s : State} (hm : Moves cs s0 s) (c : Nat) (m0 : Part.regs ∈ cs) (m1 : Part.ind ∈ cs) (m2 : Part.sram ∈ cs) (m3 : Part.sky ∈ cs) :
    Moves cs s0 (inavPart c s) := by
  unfold inavPart
  repeat' first
    | with_reducible assumption
    | with_reducible apply State.updChan_moves
    | with_reducible apply inavRecord_moves
    | intro _
    | split
    | dsimp only

theorem actSkySnap_moves {cs : List Part} {s0 s : State} (hm : Moves cs s0 s) (_old : Word) (raw : Word) (m0 : Part.regs ∈ cs) (m1 : Part.sky ∈ cs) :
    Moves cs s0 (actSkySnap _old raw s) := by
  unfold actSkySnap
  repeat' first
    | with_reducible assumption
    | with_reducible apply State.setFlag_moves
    | with_reducible apply State.updSky_moves
    | intro _
    | split
    | dsimp only

theorem snapEnd_moves {cs : List Part} {s0 s : State} (hm : Moves cs s0 s) (first : BitVec 32) (samples : List (BitVec 4)) (m0 : Part.regs ∈ cs) (m1 : Part.sram ∈ cs) (m2 : Part.sky ∈ cs) :
    Moves cs s0 (snapEnd first samples s) := by
  unfold snapEnd
  repeat' first
    | with_reducible assumption
    | with_reducible apply State.raise_moves
    | with_reducible apply State.setFlag_moves
    | with_reducible apply State.setReg_moves
    | with_reducible apply State.setSramBytes_moves
    | with_reducible apply State.updSky_moves
    | with_reducible apply sampleCount_moves
    | intro _
    | split
    | dsimp only

theorem submitFix_moves {cs : List Part} {s0 s : State} (hm : Moves cs s0 s) (m0 : Part.regs ∈ cs) (m1 : Part.sky ∈ cs) :
    Moves cs s0 (submitFix s) := by
  unfold submitFix
  repeat' first
    | with_reducible assumption
    | with_reducible apply State.bump32_moves
    | with_reducible apply State.raise_moves
    | with_reducible apply State.setFlag_moves
    | with_reducible apply State.setFld_moves
    | with_reducible apply State.updSky_moves
    | with_reducible apply clearTimeValid_moves
    | intro _
    | split
    | dsimp only

theorem actSkyFix_moves {cs : List Part} {s0 s : State} (hm : Moves cs s0 s) (_old : Word) (raw : Word) (m0 : Part.regs ∈ cs) (m1 : Part.sky ∈ cs) :
    Moves cs s0 (actSkyFix _old raw s) := by
  unfold actSkyFix
  repeat' first
    | with_reducible assumption
    | with_reducible apply submitFix_moves
    | intro _
    | split
    | dsimp only

theorem skyTimeMoved_moves {cs : List Part} {s0 s : State} (hm : Moves cs s0 s) (d : Int) (m0 : Part.sky ∈ cs) :
    Moves cs s0 (skyTimeMoved d s) := by
  unfold skyTimeMoved
  repeat' first
    | with_reducible assumption
    | with_reducible apply State.updSky_moves
    | intro _
    | split
    | dsimp only

theorem skyDeliver_moves {cs : List Part} {s0 s : State} (hm : Moves cs s0 s) (m0 : Part.regs ∈ cs) (m1 : Part.loop ∈ cs) :
    Moves cs s0 (skyDeliver s) := by
  unfold skyDeliver
  repeat' first
    | with_reducible assumption
    | with_reducible apply State.setFlag_moves
    | with_reducible apply State.setRegs_moves
    | with_reducible apply State.updRef_moves
    | intro _
    | split
    | dsimp only

theorem actSkyCtrl_moves {cs : List Part} {s0 s : State} (hm : Moves cs s0 s) (old : Word) (raw : Word) (m0 : Part.regs ∈ cs) (m1 : Part.ind ∈ cs) (m2 : Part.sky ∈ cs) :
    Moves cs s0 (actSkyCtrl old raw s) := by
  unfold actSkyCtrl
  repeat' first
    | with_reducible assumption
    | with_reducible apply State.setFlag_moves
    | with_reducible apply State.setReg_moves
    | with_reducible apply State.updChan_moves
    | with_reducible apply State.updSky_moves
    | with_reducible apply chanStop_moves
    | with_reducible apply clearTimeValid_moves
    | with_reducible apply forUpto_moves
    | intro _
    | split
    | dsimp only

theorem actSkyClkHz_moves {cs : List Part} {s0 s : State} (hm : Moves cs s0 s) (old : Word) (raw : Word) (m0 : Part.regs ∈ cs) :
    Moves cs s0 (actSkyClkHz old raw s) := by
  unfold actSkyClkHz
  repeat' first
    | with_reducible assumption
    | with_reducible apply State.raise_moves
    | with_reducible apply State.setReg_moves
    | intro _
    | split
    | dsimp only

theorem skyClkFault_moves {cs : List Part} {s0 s : State} (hm : Moves cs s0 s) (m0 : Part.regs ∈ cs) (m1 : Part.sky ∈ cs) :
    Moves cs s0 (skyClkFault s) := by
  unfold skyClkFault
  repeat' first
    | with_reducible assumption
    | with_reducible apply State.raise_moves
    | with_reducible apply State.setFlag_moves
    | with_reducible apply State.updSky_moves
    | with_reducible apply clearTimeValid_moves
    | intro _
    | split
    | dsimp only

end Sys2Proof.Machine
end

