-- ==== Sys2Proof/Laws/FrameTimeApply.lean ====
section
/-!
SUPPORT. Sys2Proof/Laws/FrameTimeApply.lean: for each operation of Machine/TimeApply.lean that changes the state, the parts it may change (and
that it keeps storage canonical), once and for all: `Moves` goes through it.
-/
namespace Sys2Proof.Machine
set_option Elab.async false
set_option linter.unusedTactic false
set_option linter.unreachableTactic false

theorem countTclk_moves {cs : List Part} {s0 s : State} (hm : Moves cs s0 s) (n : Nat) (m0 : Part.regs ∈ cs) (m1 : Part.clk ∈ cs) (m2 : Part.tb ∈ cs) (m3 : Part.tlm ∈ cs) (m4 : Part.twin ∈ cs) :
    Moves cs s0 (countTclk n s) := by
  unfold countTclk
  split
  · exact hm
  · extract_lets s1 c s2
    have h2 : Moves cs s0 s2 := clk_moves (tbEdges_moves hm n m0 m2) _ m1
    apply leadPass_moves _ _ (by assumption)
    split
    · apply tlmCycles_moves h2 <;> assumption
    · exact h2

theorem opApply_moves {cs : List Part} {s0 s : State} (hm : Moves cs s0 s) (op : TbOp) (dispute : Bool) (m0 : Part.regs ∈ cs) (m1 : Part.tb ∈ cs) (m2 : Part.loop ∈ cs) (m3 : Part.sky ∈ cs) (m4 : Part.twin ∈ cs) :
    Moves cs s0 (opApply op dispute s) := by
  unfold opApply
  repeat' first
    | with_reducible assumption
    | with_reducible apply State.setFld_moves
    | with_reducible apply State.updTb_moves
    | with_reducible apply addStepSum_moves
    | with_reducible apply loopTimeMoved_moves
    | with_reducible apply outsMoved_moves
    | with_reducible apply skyTimeMoved_moves
    | intro _
    | split
    | dsimp only

theorem pendApply_moves {cs : List Part} {s0 s : State} (hm : Moves cs s0 s) (p : TbPend) (m0 : Part.regs ∈ cs) (m1 : Part.tb ∈ cs) (m2 : Part.loop ∈ cs) (m3 : Part.sky ∈ cs) (m4 : Part.twin ∈ cs) :
    Moves cs s0 (pendApply p s) := by
  unfold pendApply
  repeat' first
    | with_reducible assumption
    | with_reducible apply State.raise_moves
    | with_reducible apply State.raiseIf_moves
    | with_reducible apply State.setReg64_moves
    | with_reducible apply State.setRegs_moves
    | with_reducible apply State.updTb_moves
    | with_reducible apply leaveDispute_moves
    | with_reducible apply opApply_moves
    | with_reducible apply tbNoPending_moves
    | with_reducible apply xstepApplied_moves
    | intro _
    | split
    | dsimp only

theorem snapTake_moves {cs : List Part} {s0 s : State} (hm : Moves cs s0 s) (m0 : Part.regs ∈ cs) (m1 : Part.tb ∈ cs) :
    Moves cs s0 (snapTake s) := by
  unfold snapTake
  repeat' first
    | with_reducible assumption
    | with_reducible apply State.raise_moves
    | with_reducible apply State.setRegs_moves
    | with_reducible apply State.updTb_moves
    | intro _
    | split
    | dsimp only

theorem takeDue_moves {cs : List Part} {s0 s : State} (hm : Moves cs s0 s) (m0 : Part.regs ∈ cs) (m1 : Part.tb ∈ cs) (m2 : Part.loop ∈ cs) (m3 : Part.sky ∈ cs) (m4 : Part.twin ∈ cs) :
    Moves cs s0 (takeDue s) := by
  unfold takeDue
  repeat' first
    | with_reducible assumption
    | with_reducible apply pendApply_moves
    | with_reducible apply snapTake_moves
    | intro _
    | split
    | dsimp only

theorem passDue_moves {cs : List Part} {s0 y2 : State} (hm : Moves cs s0 y2) (y0 : Nat) (y1 : Nat) (m0 : Part.regs ∈ cs) (m1 : Part.clk ∈ cs) (m2 : Part.tb ∈ cs) (m3 : Part.loop ∈ cs) (m4 : Part.sky ∈ cs) (m5 : Part.tlm ∈ cs) (m6 : Part.twin ∈ cs) :
    Moves cs s0 (passDue y0 y1 y2) := by
  induction y0 generalizing y1 y2 with
  | zero => unfold passDue; with_reducible apply countTclk_moves <;> assumption
  | succ k ih =>
    unfold passDue
    split
    · split
      · with_reducible apply ih
        with_reducible apply takeDue_moves <;> try assumption
        with_reducible apply countTclk_moves <;> assumption
      · with_reducible apply countTclk_moves <;> assumption
    · with_reducible apply countTclk_moves <;> assumption

theorem passTclk_moves {cs : List Part} {s0 s : State} (hm : Moves cs s0 s) (n : Nat) (m0 : Part.regs ∈ cs) (m1 : Part.clk ∈ cs) (m2 : Part.tb ∈ cs) (m3 : Part.loop ∈ cs) (m4 : Part.sky ∈ cs) (m5 : Part.tlm ∈ cs) (m6 : Part.twin ∈ cs) :
    Moves cs s0 (passTclk n s) := by
  unfold passTclk
  repeat' first
    | with_reducible assumption
    | with_reducible apply passDue_moves
    | intro _
    | split
    | dsimp only

theorem cmdDone_moves {cs : List Part} {s0 s : State} (hm : Moves cs s0 s) (m0 : Part.regs ∈ cs) (m1 : Part.clk ∈ cs) (m2 : Part.tb ∈ cs) (m3 : Part.loop ∈ cs) (m4 : Part.sky ∈ cs) (m5 : Part.tlm ∈ cs) (m6 : Part.twin ∈ cs) :
    Moves cs s0 (cmdDone s) := by
  unfold cmdDone
  repeat' first
    | with_reducible assumption
    | with_reducible apply passTclk_moves
    | intro _
    | split
    | dsimp only

theorem snapDone_moves {cs : List Part} {s0 s : State} (hm : Moves cs s0 s) (m0 : Part.regs ∈ cs) (m1 : Part.clk ∈ cs) (m2 : Part.tb ∈ cs) (m3 : Part.loop ∈ cs) (m4 : Part.sky ∈ cs) (m5 : Part.tlm ∈ cs) (m6 : Part.twin ∈ cs) :
    Moves cs s0 (snapDone s) := by
  unfold snapDone
  repeat' first
    | with_reducible assumption
    | with_reducible apply passTclk_moves
    | intro _
    | split
    | dsimp only

theorem passBefore_moves {cs : List Part} {s0 y1 : State} (hm : Moves cs s0 y1) (far : State → Nat) (y0 : Nat) (m0 : Part.regs ∈ cs) (m1 : Part.clk ∈ cs) (m2 : Part.tb ∈ cs) (m3 : Part.loop ∈ cs) (m4 : Part.sky ∈ cs) (m5 : Part.tlm ∈ cs) (m6 : Part.twin ∈ cs) :
    Moves cs s0 (passBefore far y0 y1) := by
  induction y0 generalizing y1 with
  | zero =>
    unfold passBefore
    repeat' first
      | with_reducible assumption
      | with_reducible apply passTclk_moves
      | intro _
      | split
      | dsimp only
  | succ k ih =>
    unfold passBefore
    repeat' first
      | with_reducible assumption
      | with_reducible apply ih
      | with_reducible apply passTclk_moves
      | intro _
      | split
      | dsimp only

theorem passToPlace_moves {cs : List Part} {s0 s : State} (hm : Moves cs s0 s) (k : Nat) (place : Nat) (m0 : Part.regs ∈ cs) (m1 : Part.clk ∈ cs) (m2 : Part.tb ∈ cs) (m3 : Part.loop ∈ cs) (m4 : Part.sky ∈ cs) (m5 : Part.tlm ∈ cs) (m6 : Part.twin ∈ cs) :
    Moves cs s0 (passToPlace k place s) := by
  unfold passToPlace
  repeat' first
    | with_reducible assumption
    | with_reducible apply State.updOut_moves
    | with_reducible apply passTclk_moves
    | intro _
    | split
    | dsimp only

theorem outputEdge_moves {cs : List Part} {s0 s : State} (hm : Moves cs s0 s) (k : Nat) (m0 : Part.regs ∈ cs) (m1 : Part.clk ∈ cs) (m2 : Part.tb ∈ cs) (m3 : Part.loop ∈ cs) (m4 : Part.sky ∈ cs) (m5 : Part.tlm ∈ cs) (m6 : Part.twin ∈ cs) :
    Moves cs s0 (outputEdge k s) := by
  unfold outputEdge
  repeat' first
    | with_reducible assumption
    | with_reducible apply State.raiseIf_moves
    | with_reducible apply State.updOut_moves
    | with_reducible apply passBefore_moves
    | with_reducible apply passToPlace_moves
    | with_reducible apply pulseEnd_moves
    | intro _
    | split
    | dsimp only

theorem pulseEnd_moves {cs : List Part} {s0 s : State} (hm : Moves cs s0 s) (k : Nat) (m0 : Part.regs ∈ cs) (m1 : Part.clk ∈ cs) (m2 : Part.tb ∈ cs) (m3 : Part.loop ∈ cs) (m4 : Part.sky ∈ cs) (m5 : Part.tlm ∈ cs) (m6 : Part.twin ∈ cs) :
    Moves cs s0 (pulseEnd k s) := by
  unfold pulseEnd
  repeat' first
    | with_reducible assumption
    | with_reducible apply State.updOut_moves
    | with_reducible apply passBefore_moves
    | with_reducible apply passToPlace_moves
    | intro _
    | split
    | dsimp only

theorem clkoutAlign_moves {cs : List Part} {s0 s : State} (hm : Moves cs s0 s) (k : Nat) (m0 : Part.regs ∈ cs) (m1 : Part.clk ∈ cs) (m2 : Part.tb ∈ cs) (m3 : Part.loop ∈ cs) (m4 : Part.sky ∈ cs) (m5 : Part.tlm ∈ cs) (m6 : Part.twin ∈ cs) :
    Moves cs s0 (clkoutAlign k s) := by
  unfold clkoutAlign
  repeat' first
    | with_reducible assumption
    | with_reducible apply State.raiseIf_moves
    | with_reducible apply State.updClkout_moves
    | with_reducible apply passBefore_moves
    | with_reducible apply passTclk_moves
    | intro _
    | split
    | dsimp only

end Sys2Proof.Machine
end

