-- ==== Sys2Proof/Laws/FrameHost.lean ====
section
/-!
SUPPORT. Sys2Proof/Laws/FrameHost.lean: for each operation of Machine/Host.lean that changes the state, the parts it may change (and
that it keeps storage canonical), once and for all: `Moves` goes through it.
-/
namespace Sys2Proof.Machine
set_option Elab.async false
set_option linter.unusedTactic false
set_option linter.unreachableTactic false

theorem unmapped_moves {cs : List Part} {s0 s : State} (hm : Moves cs s0 s) (ag : Agent) (w : Nat) (m0 : Part.regs ∈ cs) :
    Moves cs s0 (unmapped ag w s) := by
  unfold unmapped
  repeat' first
    | with_reducible assumption
    | with_reducible apply State.raise_moves
    | with_reducible apply State.setReg_moves
    | intro _
    | split
    | dsimp only

theorem winErr_moves {cs : List Part} {s0 s : State} (hm : Moves cs s0 s) (k : Nat) (f : Nat → Fld) (m0 : Part.regs ∈ cs) :
    Moves cs s0 (winErr k f s) := by
  unfold winErr
  repeat' first
    | with_reducible assumption
    | with_reducible apply State.raise_moves
    | intro _
    | split
    | dsimp only

theorem runAct_moves {cs : List Part} {s0 s : State} (hm : Moves cs s0 s) (k : Act) (ag : Agent) (i : Nat) (a : Nat) (old : Word) (raw : Word) (m0 : Part.regs ∈ cs) (m1 : Part.ind ∈ cs) (m2 : Part.sram ∈ cs) (m3 : Part.hostMem ∈ cs) (m4 : Part.pwr ∈ cs) (m5 : Part.hst ∈ cs) (m6 : Part.lanes ∈ cs) (m7 : Part.tb ∈ cs) (m8 : Part.met ∈ cs) (m9 : Part.loop ∈ cs) (m10 : Part.sky ∈ cs) (m11 : Part.prf ∈ cs) (m12 : Part.net ∈ cs) (m13 : Part.tlm ∈ cs) (m14 : Part.twin ∈ cs) (m15 : Part.boot ∈ cs) (m16 : Part.free ∈ cs) :
    Moves cs s0 (runAct k ag i a old raw s) := by
  unfold runAct
  repeat' first
    | with_reducible assumption
    | with_reducible apply State.raiseIf_moves
    | with_reducible apply State.setReg_moves
    | with_reducible apply actAlnPort_moves
    | with_reducible apply actAsym_moves
    | with_reducible apply actBankCtrl_moves
    | with_reducible apply actBootCmd_moves
    | with_reducible apply actBufAudit_moves
    | with_reducible apply actBufPortCfg_moves
    | with_reducible apply actBufUsed_moves
    | with_reducible apply actBufXoff_moves
    | with_reducible apply actCdStart_moves
    | with_reducible apply actCellProof_moves
    | with_reducible apply actCellReturn_moves
    | with_reducible apply actClkoutCtrl_moves
    | with_reducible apply actCommitCmd_moves
    | with_reducible apply actDlnLaneCtrl_moves
    | with_reducible apply actDmaCtrl_moves
    | with_reducible apply actEnumCmd_moves
    | with_reducible apply actErrInj_moves
    | with_reducible apply actExtCmd_moves
    | with_reducible apply actExtCtrl_moves
    | with_reducible apply actFltCfg_moves
    | with_reducible apply actForgive_moves
    | with_reducible apply actFuseCmd_moves
    | with_reducible apply actHinjCmd_moves
    | with_reducible apply actHinjData_moves
    | with_reducible apply actHoCtrl_moves
    | with_reducible apply actIrqEoi_moves
    | with_reducible apply actLoadAddr_moves
    | with_reducible apply actLoadData_moves
    | with_reducible apply actLockA_moves
    | with_reducible apply actLoopCmd_moves
    | with_reducible apply actOutCmd_moves
    | with_reducible apply actOutCtrl_moves
    | with_reducible apply actOutPeriod_moves
    | with_reducible apply actOutWidth_moves
    | with_reducible apply actPairCfg_moves
    | with_reducible apply actPolCfg_moves
    | with_reducible apply actPortCfg_moves
    | with_reducible apply actPrbs_moves
    | with_reducible apply actPrfCmd_moves
    | with_reducible apply actRawTx_moves
    | with_reducible apply actRefCfg_moves
    | with_reducible apply actRefCmd_moves
    | with_reducible apply actRefDelay_moves
    | with_reducible apply actRefFreqHz_moves
    | with_reducible apply actRoleGate_moves
    | with_reducible apply actSampleCtrl_moves
    | with_reducible apply actSidCfg_moves
    | with_reducible apply actSkyClkHz_moves
    | with_reducible apply actSkyCtrl_moves
    | with_reducible apply actSkyFix_moves
    | with_reducible apply actSkySnap_moves
    | with_reducible apply actSlotCmd_moves
    | with_reducible apply actSrcCfg_moves
    | with_reducible apply actStackCfg_moves
    | with_reducible apply actTableLoad_moves
    | with_reducible apply actTagCtrl_moves
    | with_reducible apply actTbaseCmd_moves
    | with_reducible apply actTbaseCtrl_moves
    | with_reducible apply actTempWarn_moves
    | with_reducible apply actTwinCmd_moves
    | with_reducible apply actTwinCtrl_moves
    | with_reducible apply actTxtsPop_moves
    | with_reducible apply actWdogKick_moves
    | with_reducible apply actXstepCmd_moves
    | with_reducible apply cdStart_moves
    | with_reducible apply mboxCmd_moves
    | with_reducible apply mboxWr_moves
    | with_reducible apply forUpto_moves
    | intro _
    | split
    | dsimp only

theorem State.setSnap_moves {cs : List Part} {s0 s : State} (hm : Moves cs s0 s) (ca : Nat) (x : Option (Nat × List Word)) (m0 : Part.hst ∈ cs) :
    Moves cs s0 (State.setSnap s ca x) := by
  unfold State.setSnap
  repeat' first
    | with_reducible assumption
    | with_reducible apply hst_moves
    | intro _
    | split
    | dsimp only

theorem State.setStage_moves {cs : List Part} {s0 s : State} (hm : Moves cs s0 s) (ca : Nat) (x : Word) (m0 : Part.hst ∈ cs) :
    Moves cs s0 (State.setStage s ca x) := by
  unfold State.setStage
  repeat' first
    | with_reducible assumption
    | with_reducible apply hst_moves
    | intro _
    | split
    | dsimp only

theorem latchHi_moves {cs : List Part} {s0 s : State} (hm : Moves cs s0 s) (ca : Nat) (a : Nat) (d : RegDef) (m0 : Part.hst ∈ cs) :
    Moves cs s0 (latchHi ca a d s) := by
  unfold latchHi
  repeat' first
    | with_reducible assumption
    | with_reducible apply State.setSnap_moves
    | intro _
    | split
    | dsimp only

theorem State.clearBits_moves {cs : List Part} {s0 s : State} (hm : Moves cs s0 s) (a : Nat) (m : Word) (m0 : Part.regs ∈ cs) :
    Moves cs s0 (State.clearBits s a m) := by
  unfold State.clearBits
  repeat' first
    | with_reducible assumption
    | with_reducible apply State.setReg_moves
    | intro _
    | split
    | dsimp only

theorem readEffects_moves {cs : List Part} {s0 s : State} (hm : Moves cs s0 s) (ag : Agent) (ca : Nat) (w : Nat) (p : Place) (v : Word) (again : Word) (m0 : Part.regs ∈ cs) (m1 : Part.hst ∈ cs) :
    Moves cs s0 (readEffects ag ca w p v again s) := by
  unfold readEffects
  repeat' first
    | with_reducible assumption
    | with_reducible apply State.clearBits_moves
    | with_reducible apply State.setSnap_moves
    | with_reducible apply mboxDenied_moves
    | with_reducible apply mboxTake_moves
    | with_reducible apply unmapped_moves
    | intro _
    | split
    | dsimp only

theorem complete_moves {cs : List Part} {s0 s : State} (hm : Moves cs s0 s) (ag : Agent) (v : Word) (m0 : Part.hst ∈ cs) (m1 : Part.tap ∈ cs) :
    Moves cs s0 (complete ag v s) := by
  unfold complete
  extract_lets c s1
  have h1 : Moves cs s0 s1 := hst_moves hm _ m0
  clear_value s1
  split
  · exact tap_moves h1 _ m1
  · exact h1

theorem noCompletions_moves {cs : List Part} {s0 s : State} (hm : Moves cs s0 s) (m0 : Part.hst ∈ cs) :
    Moves cs s0 (noCompletions s) := by
  unfold noCompletions
  repeat' first
    | with_reducible assumption
    | with_reducible apply hst_moves
    | intro _
    | split
    | dsimp only

theorem plainRead_moves {cs : List Part} {s0 s : State} (hm : Moves cs s0 s) (ag : Agent) (ca : Nat) (w : Nat) (m0 : Part.regs ∈ cs) (m1 : Part.hst ∈ cs) :
    Moves cs s0 (plainRead ag ca w s).2 := by
  unfold plainRead
  extract_lets p v s1
  clear_value v p
  have h1 : Moves cs s0 s1 := by
    dsimp only [s1]
    split
    · exact latchHi_moves hm _ _ _ m1
    · exact hm
  clear_value s1
  exact readEffects_moves h1 _ _ _ _ _ _ m0 m1
theorem plainRead_moves_eq {cs : List Part} {s0 s v1 : State} {v0} {ag : Agent} {ca : Nat} {w : Nat} (e : plainRead ag ca w s = (v0, v1)) (hm : Moves cs s0 s) (m0 : Part.regs ∈ cs) (m1 : Part.hst ∈ cs) :
    Moves cs s0 v1 := by
  have := plainRead_moves hm ag ca w m0 m1
  rwa [e] at this

theorem storeReg_moves {cs : List Part} {s0 s : State} (hm : Moves cs s0 s) (ag : Agent) (ca : Nat) (a : Nat) (d : RegDef) (i : Nat) (m : Word) (data : Word) (m0 : Part.regs ∈ cs) (m1 : Part.ind ∈ cs) (m2 : Part.sram ∈ cs) (m3 : Part.hostMem ∈ cs) (m4 : Part.pwr ∈ cs) (m5 : Part.hst ∈ cs) (m6 : Part.lanes ∈ cs) (m7 : Part.tb ∈ cs) (m8 : Part.met ∈ cs) (m9 : Part.loop ∈ cs) (m10 : Part.sky ∈ cs) (m11 : Part.prf ∈ cs) (m12 : Part.net ∈ cs) (m13 : Part.tlm ∈ cs) (m14 : Part.twin ∈ cs) (m15 : Part.boot ∈ cs) (m16 : Part.free ∈ cs) :
    Moves cs s0 (storeReg ag ca a d i m data s) := by
  unfold storeReg
  repeat' first
    | with_reducible assumption
    | with_reducible apply State.setReg64_moves
    | with_reducible apply State.setStage_moves
    | with_reducible apply fwStatusWrite_moves
    | with_reducible apply regStore_moves
    | with_reducible apply runAct_moves
    | intro _
    | split
    | dsimp only

theorem placeWrite_moves {cs : List Part} {s0 s : State} (hm : Moves cs s0 s) (ag : Agent) (ca : Nat) (p : Place) (data : Word) (m0 : Part.regs ∈ cs) (m1 : Part.ind ∈ cs) (m2 : Part.sram ∈ cs) (m3 : Part.hostMem ∈ cs) (m4 : Part.pwr ∈ cs) (m5 : Part.hst ∈ cs) (m6 : Part.lanes ∈ cs) (m7 : Part.tb ∈ cs) (m8 : Part.met ∈ cs) (m9 : Part.loop ∈ cs) (m10 : Part.sky ∈ cs) (m11 : Part.prf ∈ cs) (m12 : Part.net ∈ cs) (m13 : Part.tlm ∈ cs) (m14 : Part.twin ∈ cs) (m15 : Part.boot ∈ cs) (m16 : Part.free ∈ cs) :
    Moves cs s0 (placeWrite ag ca p data s) := by
  unfold placeWrite
  repeat' first
    | with_reducible assumption
    | with_reducible apply storeReg_moves
    | intro _
    | split
    | dsimp only

theorem winArrive_moves {cs : List Part} {s0 s : State} (hm : Moves cs s0 s) (ag : Agent) (k : Nat) (r : WinReg) (data : Word) (m0 : Part.regs ∈ cs) (m1 : Part.hst ∈ cs) :
    Moves cs s0 (winArrive ag k r data s) := by
  unfold winArrive
  repeat' first
    | with_reducible assumption
    | with_reducible apply State.updWin_moves
    | with_reducible apply winErr_moves
    | intro _
    | split
    | dsimp only

theorem busWrite_moves {cs : List Part} {s0 s : State} (hm : Moves cs s0 s) (ag : Agent) (ca : Nat) (tested : Bool) (w : Nat) (full : Bool) (data : Word) (m0 : Part.regs ∈ cs) (m1 : Part.ind ∈ cs) (m2 : Part.sram ∈ cs) (m3 : Part.hostMem ∈ cs) (m4 : Part.pwr ∈ cs) (m5 : Part.hst ∈ cs) (m6 : Part.lanes ∈ cs) (m7 : Part.tb ∈ cs) (m8 : Part.met ∈ cs) (m9 : Part.loop ∈ cs) (m10 : Part.sky ∈ cs) (m11 : Part.prf ∈ cs) (m12 : Part.net ∈ cs) (m13 : Part.tlm ∈ cs) (m14 : Part.twin ∈ cs) (m15 : Part.boot ∈ cs) (m16 : Part.free ∈ cs) :
    Moves cs s0 (busWrite ag ca tested w full data s) := by
  unfold busWrite
  extract_lets p s1 foreign s2 denied s3
  have h1 : Moves cs s0 s1 := State.raiseIf_moves hm _ _ m0
  clear_value foreign denied p s1
  have h2 : Moves cs s0 s2 := by
    dsimp only [s2]
    split
    · exact unmapped_moves h1 _ _ m0
    · exact State.raiseIf_moves h1 _ _ m0
  clear_value s2
  have h3 : Moves cs s0 s3 := State.raiseIf_moves h2 _ _ m0
  clear_value s3
  apply settleIrq_moves <;> try assumption
  split
  · exact h3
  · split
    · split
      · apply winArrive_moves <;> assumption
      · exact h3
    · apply placeWrite_moves <;> assumption

end Sys2Proof.Machine
end

