-- ==== Sys2Proof/Laws/FrameWindow.lean ====
section
/-!
SUPPORT. Sys2Proof/Laws/FrameWindow.lean: for each operation of Machine/Window.lean that changes the state, the parts it may change (and
that it keeps storage canonical), once and for all: `Moves` goes through it.
-/
namespace Sys2Proof.Machine
set_option Elab.async false
set_option linter.unusedTactic false
set_option linter.unreachableTactic false

theorem indTake_moves {cs : List Part} {s0 s : State} (hm : Moves cs s0 s) (k : Nat) (domain : Nat) (w : Nat) (d : Word) (m0 : Part.regs ∈ cs) (m1 : Part.ind ∈ cs) (m2 : Part.lanes ∈ cs) (m3 : Part.sky ∈ cs) (m4 : Part.net ∈ cs) :
    Moves cs s0 (indTake k domain w d s) := by
  unfold indTake
  repeat' first
    | with_reducible assumption
    | with_reducible apply State.setIndw_moves
    | with_reducible apply alnWordWrite_moves
    | with_reducible apply chanWrite_moves
    | with_reducible apply dlnWordWrite_moves
    | with_reducible apply metWordWrite_moves
    | with_reducible apply schdWrite_moves
    | with_reducible apply stageWrite_moves
    | intro _
    | split
    | dsimp only

theorem winLaunch_moves {cs : List Part} {s0 s : State} (hm : Moves cs s0 s) (k : Nat) (m0 : Part.regs ∈ cs) (m1 : Part.hst ∈ cs) :
    Moves cs s0 (winLaunch k s) := by
  unfold winLaunch
  repeat' first
    | with_reducible assumption
    | with_reducible apply State.updWin_moves
    | with_reducible apply winErr_moves
    | intro _
    | split
    | dsimp only

theorem winAdvance_moves {cs : List Part} {s0 s : State} (hm : Moves cs s0 s) (k : Nat) (m0 : Part.regs ∈ cs) :
    Moves cs s0 (winAdvance k s) := by
  unfold winAdvance
  repeat' first
    | with_reducible assumption
    | with_reducible apply State.setFld_moves
    | intro _
    | split
    | dsimp only

theorem winApply_moves {cs : List Part} {s0 s : State} (hm : Moves cs s0 s) (k : Nat) (r : WinReg) (f : Word → State → State) (hf : ∀ z0 z1, Moves cs s0 z1 → Moves cs s0 (f z0 z1)) (m0 : Part.hst ∈ cs) :
    Moves cs s0 (winApply k r f s) := by
  unfold winApply
  repeat' first
    | with_reducible assumption
    | with_reducible apply State.updWin_moves
    | with_reducible apply hf
    | intro _
    | split
    | dsimp only

theorem addrApply_moves {cs : List Part} {s0 s : State} (hm : Moves cs s0 s) (k : Nat) (d : Word) (m0 : Part.regs ∈ cs) (m1 : Part.hst ∈ cs) :
    Moves cs s0 (addrApply k d s) := by
  unfold addrApply
  repeat' first
    | with_reducible assumption
    | with_reducible apply State.setReg_moves
    | with_reducible apply State.updWin_moves
    | with_reducible apply winLaunch_moves
    | intro _
    | split
    | dsimp only

theorem ctrlApply_moves {cs : List Part} {s0 s : State} (hm : Moves cs s0 s) (k : Nat) (d : Word) (m0 : Part.regs ∈ cs) (m1 : Part.hst ∈ cs) :
    Moves cs s0 (ctrlApply k d s) := by
  unfold ctrlApply
  repeat' first
    | with_reducible assumption
    | with_reducible apply State.setReg_moves
    | with_reducible apply State.updWin_moves
    | intro _
    | split
    | dsimp only

theorem dataApply_moves {cs : List Part} {s0 s : State} (hm : Moves cs s0 s) (k : Fin 4) (d : Word) (m0 : Part.regs ∈ cs) (m1 : Part.hst ∈ cs) :
    Moves cs s0 (dataApply k d s) := by
  unfold dataApply
  repeat' first
    | with_reducible assumption
    | with_reducible apply State.raise_moves
    | with_reducible apply State.setReg_moves
    | with_reducible apply State.updWin_moves
    | with_reducible apply unmapped_moves
    | with_reducible apply winAdvance_moves
    | with_reducible apply winErr_moves
    | intro _
    | split
    | dsimp only

theorem targetTaken_moves {cs : List Part} {s0 s : State} (hm : Moves cs s0 s) (k : Fin 4) (m0 : Part.regs ∈ cs) (m1 : Part.ind ∈ cs) (m2 : Part.sram ∈ cs) (m3 : Part.hostMem ∈ cs) (m4 : Part.pwr ∈ cs) (m5 : Part.hst ∈ cs) (m6 : Part.lanes ∈ cs) (m7 : Part.tb ∈ cs) (m8 : Part.met ∈ cs) (m9 : Part.loop ∈ cs) (m10 : Part.sky ∈ cs) (m11 : Part.prf ∈ cs) (m12 : Part.net ∈ cs) (m13 : Part.tlm ∈ cs) (m14 : Part.twin ∈ cs) (m15 : Part.boot ∈ cs) (m16 : Part.free ∈ cs) :
    Moves cs s0 (targetTaken k s) := by
  unfold targetTaken
  repeat' first
    | with_reducible assumption
    | with_reducible apply State.updWin_moves
    | with_reducible apply busWrite_moves
    | with_reducible apply indTake_moves
    | with_reducible apply winAdvance_moves
    | intro _
    | split
    | dsimp only

theorem State.watch?_moves {cs : List Part} {s0 s : State} (hm : Moves cs s0 s) (k : Nat) (y0 : Option Nat) (m0 : Part.regs ∈ cs) :
    Moves cs s0 (State.watch? s k y0) := by
  unfold State.watch?
  repeat' first
    | with_reducible assumption
    | with_reducible apply State.watch_moves
    | intro _
    | split
    | dsimp only

theorem readReady_moves {cs : List Part} {s0 s : State} (hm : Moves cs s0 s) (k : Fin 4) (m0 : Part.regs ∈ cs) (m1 : Part.hst ∈ cs) :
    Moves cs s0 (readReady k s) := by
  unfold readReady
  repeat' first
    | with_reducible assumption
    | with_reducible apply State.updWin_moves
    | with_reducible apply State.watch?_moves
    | with_reducible apply latchHi_moves
    | intro _
    | split
    | dsimp only

theorem launchEffects_moves {cs : List Part} {s0 s : State} (hm : Moves cs s0 s) (ag : Agent) (k : Fin 4) (l : Launch) (v : Word) (same : Word) (m0 : Part.regs ∈ cs) (m1 : Part.hst ∈ cs) :
    Moves cs s0 (launchEffects ag k l v same s) := by
  unfold launchEffects
  repeat' first
    | with_reducible assumption
    | with_reducible apply State.setSnap_moves
    | with_reducible apply readEffects_moves
    | intro _
    | split
    | dsimp only

theorem dataRead_moves {cs : List Part} {s0 s : State} (hm : Moves cs s0 s) (ag : Agent) (k : Fin 4) (same : Word) (m0 : Part.regs ∈ cs) (m1 : Part.hst ∈ cs) (m2 : Part.tap ∈ cs) :
    Moves cs s0 (dataRead ag k same s).2 := by
  unfold dataRead
  repeat' first
    | with_reducible assumption
    | with_reducible apply State.setReg_moves
    | with_reducible apply State.updWin_moves
    | with_reducible apply complete_moves
    | with_reducible apply launchEffects_moves
    | with_reducible apply winAdvance_moves
    | with_reducible apply winLaunch_moves
    | intro _
    | split
    | dsimp only
theorem dataRead_moves_eq {cs : List Part} {s0 s v1 : State} {v0} {ag : Agent} {k : Fin 4} {same : Word} (e : dataRead ag k same s = (v0, v1)) (hm : Moves cs s0 s) (m0 : Part.regs ∈ cs) (m1 : Part.hst ∈ cs) (m2 : Part.tap ∈ cs) :
    Moves cs s0 v1 := by
  have := dataRead_moves hm ag k same m0 m1 m2
  rwa [e] at this

theorem turnRead_moves {cs : List Part} {s0 s : State} (hm : Moves cs s0 s) (ag : Agent) (k : Fin 4) (r : Fin 4) (same : Word) (m0 : Part.regs ∈ cs) (m1 : Part.hst ∈ cs) (m2 : Part.tap ∈ cs) :
    Moves cs s0 (turnRead ag k r same s).2 := by
  unfold turnRead
  repeat' first
    | with_reducible assumption
    | with_reducible apply State.clearBits_moves
    | with_reducible apply complete_moves
    | (refine dataRead_moves_eq (by with_reducible assumption) ?_ ?_ ?_ ?_ <;> try with_reducible assumption)
    | with_reducible apply dataRead_moves
    | intro _
    | split
    | dsimp only
theorem turnRead_moves_eq {cs : List Part} {s0 s v1 : State} {v0} {ag : Agent} {k : Fin 4} {r : Fin 4} {same : Word} (e : turnRead ag k r same s = (v0, v1)) (hm : Moves cs s0 s) (m0 : Part.regs ∈ cs) (m1 : Part.hst ∈ cs) (m2 : Part.tap ∈ cs) :
    Moves cs s0 v1 := by
  have := turnRead_moves hm ag k r same m0 m1 m2
  rwa [e] at this

theorem turnServe_moves {cs : List Part} {s0 s : State} (hm : Moves cs s0 s) (k : Fin 4) (m0 : Part.regs ∈ cs) (m1 : Part.hst ∈ cs) (m2 : Part.tap ∈ cs) :
    Moves cs s0 (turnServe k s) := by
  unfold turnServe
  repeat' first
    | with_reducible assumption
    | with_reducible apply State.updWin_moves
    | (refine turnRead_moves_eq (by with_reducible assumption) ?_ ?_ ?_ ?_ <;> try with_reducible assumption)
    | with_reducible apply turnRead_moves
    | intro _
    | split
    | dsimp only

theorem winServe_moves {cs : List Part} {s0 s : State} (hm : Moves cs s0 s) (k : Fin 4) (m0 : Part.regs ∈ cs) (m1 : Part.hst ∈ cs) (m2 : Part.tap ∈ cs) :
    Moves cs s0 (winServe k s) := by
  unfold winServe
  repeat' first
    | with_reducible assumption
    | with_reducible apply noCompletions_moves
    | with_reducible apply settleIrq_moves
    | with_reducible apply turnServe_moves
    | with_reducible apply forUpto_moves
    | intro _
    | split
    | dsimp only

theorem winRead_moves {cs : List Part} {s0 s : State} (hm : Moves cs s0 s) (ag : Agent) (k : Fin 4) (r : Fin 4) (same : Word) (m0 : Part.regs ∈ cs) (m1 : Part.hst ∈ cs) (m2 : Part.tap ∈ cs) :
    Moves cs s0 (winRead ag k r same s) := by
  unfold winRead
  repeat' first
    | with_reducible assumption
    | with_reducible apply State.raise_moves
    | with_reducible apply State.updWin_moves
    | with_reducible apply complete_moves
    | with_reducible apply noCompletions_moves
    | with_reducible apply settleIrq_moves
    | with_reducible apply winServe_moves
    | intro _
    | split
    | dsimp only

theorem busRead_moves {cs : List Part} {s0 s : State} (hm : Moves cs s0 s) (ag : Agent) (ca : Nat) (w : Nat) (be : BitVec 4) (m0 : Part.regs ∈ cs) (m1 : Part.hst ∈ cs) (m2 : Part.tap ∈ cs) :
    Moves cs s0 (busRead ag ca w be s) := by
  unfold busRead
  repeat' first
    | with_reducible assumption
    | with_reducible apply complete_moves
    | with_reducible apply noCompletions_moves
    | (refine plainRead_moves_eq (by with_reducible assumption) ?_ ?_ ?_ <;> try with_reducible assumption)
    | with_reducible apply plainRead_moves
    | with_reducible apply settleIrq_moves
    | with_reducible apply winRead_moves
    | intro _
    | split
    | dsimp only

theorem agentRead_moves {cs : List Part} {s0 s : State} (hm : Moves cs s0 s) (ag : Agent) (off : Nat) (be : BitVec 4) (m0 : Part.regs ∈ cs) (m1 : Part.hst ∈ cs) (m2 : Part.tap ∈ cs) :
    Moves cs s0 (agentRead ag off be s) := by
  unfold agentRead
  repeat' first
    | with_reducible assumption
    | with_reducible apply busRead_moves
    | intro _
    | split
    | dsimp only

theorem agentWrite_moves {cs : List Part} {s0 s : State} (hm : Moves cs s0 s) (ag : Agent) (off : Nat) (be : BitVec 4) (d : Word) (m0 : Part.regs ∈ cs) (m1 : Part.ind ∈ cs) (m2 : Part.sram ∈ cs) (m3 : Part.hostMem ∈ cs) (m4 : Part.pwr ∈ cs) (m5 : Part.hst ∈ cs) (m6 : Part.lanes ∈ cs) (m7 : Part.tb ∈ cs) (m8 : Part.met ∈ cs) (m9 : Part.loop ∈ cs) (m10 : Part.sky ∈ cs) (m11 : Part.prf ∈ cs) (m12 : Part.net ∈ cs) (m13 : Part.tlm ∈ cs) (m14 : Part.twin ∈ cs) (m15 : Part.boot ∈ cs) (m16 : Part.free ∈ cs) :
    Moves cs s0 (agentWrite ag off be d s) := by
  unfold agentWrite
  repeat' first
    | with_reducible assumption
    | with_reducible apply busWrite_moves
    | intro _
    | split
    | dsimp only

theorem winTimeout_moves {cs : List Part} {s0 s : State} (hm : Moves cs s0 s) (k : Nat) (m0 : Part.regs ∈ cs) (m1 : Part.hst ∈ cs) :
    Moves cs s0 (winTimeout k s) := by
  unfold winTimeout
  repeat' first
    | with_reducible assumption
    | with_reducible apply State.updWin_moves
    | with_reducible apply winAdvance_moves
    | with_reducible apply winErr_moves
    | intro _
    | split
    | dsimp only

theorem skyWrite_moves {cs : List Part} {s0 s : State} (hm : Moves cs s0 s) (k : Fin 4) (c : Nat) (w : Nat) (d : Word) (m0 : Part.regs ∈ cs) (m1 : Part.ind ∈ cs) (m2 : Part.sky ∈ cs) :
    Moves cs s0 (skyWrite k c w d s) := by
  unfold skyWrite
  repeat' first
    | with_reducible assumption
    | with_reducible apply chanWrite_moves
    | with_reducible apply targetWrite_moves
    | with_reducible apply winErr_moves
    | intro _
    | split
    | dsimp only

theorem setTraining_moves {cs : List Part} {s0 s : State} (hm : Moves cs s0 s) (b : Bool) (m0 : Part.hst ∈ cs) :
    Moves cs s0 (setTraining b s) := by
  unfold setTraining
  repeat' first
    | with_reducible assumption
    | with_reducible apply hst_moves
    | intro _
    | split
    | dsimp only

theorem pciePerst_moves {cs : List Part} {s0 s : State} (hm : Moves cs s0 s) (m0 : Part.regs ∈ cs) (m1 : Part.hst ∈ cs) :
    Moves cs s0 (pciePerst s) := by
  unfold pciePerst
  repeat' first
    | with_reducible assumption
    | with_reducible apply State.wipeRegs_moves
    | with_reducible apply hst_moves
    | intro _
    | split
    | dsimp only

end Sys2Proof.Machine
end

