-- ==== Sys2Proof/Laws/FrameTap.lean ====
section
/-!
SUPPORT. Sys2Proof/Laws/FrameTap.lean: for each operation of Machine/Tap.lean that changes the state, the parts it may change (and
that it keeps storage canonical), once and for all: `Moves` goes through it.
-/
namespace Sys2Proof.Machine
set_option Elab.async false
set_option linter.unusedTactic false
set_option linter.unreachableTactic false

theorem pinsTaken_moves {cs : List Part} {s0 s : State} (hm : Moves cs s0 s) (m0 : Part.regs ∈ cs) (m1 : Part.hst ∈ cs) (m2 : Part.lanes ∈ cs) :
    Moves cs s0 (pinsTaken s) := by
  unfold pinsTaken
  repeat' first
    | with_reducible assumption
    | with_reducible apply laneLos_moves
    | with_reducible apply setTraining_moves
    | with_reducible apply forUpto_moves
    | intro _
    | split
    | dsimp only

theorem tapUpdateIr_moves {cs : List Part} {s0 s : State} (hm : Moves cs s0 s) (op : BitVec 8) (m0 : Part.regs ∈ cs) (m1 : Part.hst ∈ cs) (m2 : Part.lanes ∈ cs) (m3 : Part.tap ∈ cs) :
    Moves cs s0 (tapUpdateIr op s) := by
  unfold tapUpdateIr
  repeat' first
    | with_reducible assumption
    | with_reducible apply State.raise_moves
    | with_reducible apply State.updTap_moves
    | with_reducible apply pinsTaken_moves
    | intro _
    | split
    | dsimp only

theorem tstAccess_moves {cs : List Part} {s0 s : State} (hm : Moves cs s0 s) (dr : BitVec 36) (m0 : Part.regs ∈ cs) (m1 : Part.ind ∈ cs) (m2 : Part.sram ∈ cs) (m3 : Part.hostMem ∈ cs) (m4 : Part.pwr ∈ cs) (m5 : Part.hst ∈ cs) (m6 : Part.lanes ∈ cs) (m7 : Part.tb ∈ cs) (m8 : Part.met ∈ cs) (m9 : Part.loop ∈ cs) (m10 : Part.sky ∈ cs) (m11 : Part.prf ∈ cs) (m12 : Part.net ∈ cs) (m13 : Part.tlm ∈ cs) (m14 : Part.twin ∈ cs) (m15 : Part.boot ∈ cs) (m16 : Part.tap ∈ cs) (m17 : Part.free ∈ cs) :
    Moves cs s0 (tstAccess dr s) := by
  unfold tstAccess
  repeat' first
    | with_reducible assumption
    | with_reducible apply State.updTap_moves
    | with_reducible apply busWrite_moves
    | with_reducible apply winRead_moves
    | intro _
    | split
    | dsimp only

theorem fuseProg_moves {cs : List Part} {s0 s : State} (hm : Moves cs s0 s) (dr : BitVec 390) (m0 : Part.regs ∈ cs) (m1 : Part.tap ∈ cs) :
    Moves cs s0 (fuseProg dr s) := by
  unfold fuseProg
  repeat' first
    | with_reducible assumption
    | with_reducible apply State.raise_moves
    | with_reducible apply State.updTap_moves
    | intro _
    | split
    | dsimp only

theorem fuseDone_moves {cs : List Part} {s0 s : State} (hm : Moves cs s0 s) (m0 : Part.regs ∈ cs) (m1 : Part.boot ∈ cs) (m2 : Part.tap ∈ cs) :
    Moves cs s0 (fuseDone s) := by
  unfold fuseDone
  repeat' first
    | with_reducible assumption
    | with_reducible apply State.raise_moves
    | with_reducible apply State.updBoot_moves
    | with_reducible apply State.updTap_moves
    | intro _
    | split
    | dsimp only

theorem tapRise_moves {cs : List Part} {s0 s : State} (hm : Moves cs s0 s) (c : TapClock) (m0 : Part.tap ∈ cs) :
    Moves cs s0 (tapRise c s) := by
  unfold tapRise
  repeat' first
    | with_reducible assumption
    | with_reducible apply State.updTap_moves
    | intro _
    | split
    | dsimp only

theorem tapUpdateDr_moves {cs : List Part} {s0 s : State} (hm : Moves cs s0 s) (m0 : Part.regs ∈ cs) (m1 : Part.ind ∈ cs) (m2 : Part.sram ∈ cs) (m3 : Part.hostMem ∈ cs) (m4 : Part.pwr ∈ cs) (m5 : Part.hst ∈ cs) (m6 : Part.lanes ∈ cs) (m7 : Part.tb ∈ cs) (m8 : Part.met ∈ cs) (m9 : Part.loop ∈ cs) (m10 : Part.sky ∈ cs) (m11 : Part.prf ∈ cs) (m12 : Part.net ∈ cs) (m13 : Part.tlm ∈ cs) (m14 : Part.twin ∈ cs) (m15 : Part.boot ∈ cs) (m16 : Part.tap ∈ cs) (m17 : Part.free ∈ cs) :
    Moves cs s0 (tapUpdateDr s) := by
  unfold tapUpdateDr
  repeat' first
    | with_reducible assumption
    | with_reducible apply State.updTap_moves
    | with_reducible apply fuseProg_moves
    | with_reducible apply tstAccess_moves
    | intro _
    | split
    | dsimp only

theorem tapFall_moves {cs : List Part} {s0 s : State} (hm : Moves cs s0 s) (m0 : Part.regs ∈ cs) (m1 : Part.ind ∈ cs) (m2 : Part.sram ∈ cs) (m3 : Part.hostMem ∈ cs) (m4 : Part.pwr ∈ cs) (m5 : Part.hst ∈ cs) (m6 : Part.lanes ∈ cs) (m7 : Part.tb ∈ cs) (m8 : Part.met ∈ cs) (m9 : Part.loop ∈ cs) (m10 : Part.sky ∈ cs) (m11 : Part.prf ∈ cs) (m12 : Part.net ∈ cs) (m13 : Part.tlm ∈ cs) (m14 : Part.twin ∈ cs) (m15 : Part.boot ∈ cs) (m16 : Part.tap ∈ cs) (m17 : Part.free ∈ cs) :
    Moves cs s0 (tapFall s) := by
  unfold tapFall
  repeat' first
    | with_reducible assumption
    | with_reducible apply State.updTap_moves
    | with_reducible apply tapUpdateDr_moves
    | with_reducible apply tapUpdateIr_moves
    | intro _
    | split
    | dsimp only

theorem tapClock_moves {cs : List Part} {s0 s : State} (hm : Moves cs s0 s) (c : TapClock) (m0 : Part.regs ∈ cs) (m1 : Part.ind ∈ cs) (m2 : Part.sram ∈ cs) (m3 : Part.hostMem ∈ cs) (m4 : Part.pwr ∈ cs) (m5 : Part.hst ∈ cs) (m6 : Part.lanes ∈ cs) (m7 : Part.tb ∈ cs) (m8 : Part.met ∈ cs) (m9 : Part.loop ∈ cs) (m10 : Part.sky ∈ cs) (m11 : Part.prf ∈ cs) (m12 : Part.net ∈ cs) (m13 : Part.tlm ∈ cs) (m14 : Part.twin ∈ cs) (m15 : Part.boot ∈ cs) (m16 : Part.tap ∈ cs) (m17 : Part.free ∈ cs) :
    Moves cs s0 (tapClock c s) := by
  unfold tapClock
  repeat' first
    | with_reducible assumption
    | with_reducible apply State.updTap_moves
    | with_reducible apply tapFall_moves
    | with_reducible apply tapRise_moves
    | with_reducible apply foldl_moves
    | intro _
    | split
    | dsimp only

theorem tapReset_moves {cs : List Part} {s0 s : State} (hm : Moves cs s0 s) (m0 : Part.tap ∈ cs) :
    Moves cs s0 (tapReset s) := by
  unfold tapReset
  repeat' first
    | with_reducible assumption
    | with_reducible apply State.updTap_moves
    | intro _
    | split
    | dsimp only

end Sys2Proof.Machine
end

