-- ==== Sys2Proof/WellFormed.lean ====
section
/-!
DEFINITION. Sys2Proof/WellFormed.lean: the commands that the part's surroundings can send: operands within the bounds that the spec
gives them beyond their types.
-/
namespace Sys2Proof

/-- The operands are within their bounds. -/
def Instr.wf : Instr → Bool
  -- R45: the sixteen rails.
  | .pwrMeasureUpdate _ _ _ _ rails => decide (rails.length = 16)
  -- R43: the sixteen sensors.
  | .tempUpdate sensors => decide (sensors.length = 16)
  -- R227: sixteen consecutive periods.
  | .extRefUp periods => decide (periods.length = 16)
  -- R243: six binary steps, and the chosen band and its neighbour counted again.
  | .mpllLock counts _ => decide (counts.length = 8)
  -- R387: one signature deviation per pipeline.
  | .commitCheckEnd _ devs => decide (devs.length = 24)
  -- R397: a slice holds 256 bytes.
  | .sliceWrite _ _ bytes => decide (bytes.length ≤ 256)
  -- R472: 1,024 records.
  | .tagRecordCopy r => decide (r < 1024)
  -- R497: the low time lies within the period.
  | .interlockPeriod period low => decide (low ≤ period)
  | .stageStart .. | .railsGood | .internalResetRelease .. | .resetNAssert .. | .keeperLock | .mainDomainRelease
  | .warnAssert .. | .warnClear .. | .evtFlagClear | .supplyReset .. | .supplyRestart .. | .ovenIslandStop ..
  | .holdupReady .. | .holdupCapEstimate .. | .holdupLow .. | .pwrWarnLevelWrite .. | .thermalTrip .. | .tripRestart ..
  | .pciePerst | .linkTrainingStart | .registerWrite .. | .rcRead .. | .aliasWrite .. | .aliasRead .. | .lockWrite ..
  | .intForce .. | .counterLoRead .. | .counterHiRead .. | .counterHiWrite .. | .counterLoWrite .. | .interruptLineUpdate
  | .msixMessage .. | .msixUnmask .. | .msixEnable .. | .irqEoi .. | .indWrite .. | .indAddrApply .. | .indDataApply ..
  | .indCtrlApply .. | .indTargetTaken .. | .indReadReady .. | .indDataRead .. | .indStatusRead .. | .indTimeout ..
  | .mboxQWr .. | .post .. | .abort .. | .discard .. | .mboxQRd .. | .mboxArrived .. | .mboxEmptied ..
  | .mboxIntStatusRead .. | .dlnLaneEnable .. | .laneDisable .. | .txReady .. | .signal .. | .cdrLock .. | .coarseDone ..
  | .aligned .. | .los .. | .alignLost .. | .adaptRestart .. | .densityWindowEnd .. | .adaptHoldWrite ..
  | .dlnPresetStage .. | .dlnPresetApply .. | .alnPresetWrite .. | .boundWrite .. | .loopbackChange .. | .txpllLock ..
  | .txpllUnlock .. | .prbsGenSet .. | .prbsCheckerLock .. | .prbsLost .. | .chkReseed .. | .injOne .. | .errInjPeriodExpire .. | .feSlip ..
  | .alnLaneEnable .. | .syncAcq .. | .syncLost .. | .resync .. | .alnCodeGroupReceive .. | .anDone .. | .formatWrite ..
  | .applyInc .. | .step .. | .load .. | .snap .. | .snapDone | .cancel .. | .clrOutage .. | .cmdDone | .txtsRecordWrite ..
  | .txtsPop .. | .outputEdge .. | .outputEnable .. | .outputDisable .. | .realign .. | .outParamWrite .. | .metResult ..
  | .checkWindowEnd | .meanValidTimeout .. | .metCommit .. | .schedCommit | .metSrcCfgWrite .. | .tableLoad ..
  | .tableExchange .. | .cdStart .. | .cdDone .. | .cellReturn .. | .metExtEnWrite .. | .extRefDown ..
  | .arm .. | .extGateEdge .. | .extStartEdge .. | .extStopEdge .. | .extDone | .extTimeout | .abandon .. | .metExtPop ..
  | .asymUpdate .. | .mpllSearchTimeout | .mpllLol | .mpllRelock .. | .handback | .xoLoss | .xoReturn
  | .keeperAlignDone | .refSample .. | .refPresenceChange .. | .refinWindowEnd .. | .refFreqWindowEnd .. | .refQualified ..
  | .refCfgWrite .. | .selectionEval | .locked | .hoHistoryAppend | .holdoverTick | .disputeSlope .. | .disputeStep ..
  | .disputeReject .. | .adjGo .. | .clrHistory .. | .disqualify .. | .restore .. | .clkoutEnable .. | .clkoutDisable ..
  | .clkoutRealign .. | .clkoutAlignEdge .. | .lockAUpdate | .lockAEnWrite .. | .skyEnWrite .. | .skyClkMeas .. | .clkFault
  | .skyEpochStamp .. | .auxEdge | .skyChannelStart .. | .skyChannelStop .. | .skyNcoWrite .. | .skyDump .. | .bitSync .. | .skyLnavWord ..
  | .skyInavPage .. | .ringTick .. | .skySnapGo .. | .skySnapDone .. | .submit .. | .skyFixTimeout | .skyLockShortfall
  | .skyDelivery | .prfTempUpdate .. | .prfStart .. | .prfInterval | .runStart | .prfAbort .. | .clrPending ..
  | .portEnable .. | .macFrameReceive .. | .pauseReceive .. | .pfcReceive .. | .pauseExpire .. | .pfcRefresh .. | .linkUp ..
  | .linkDown .. | .laneFail .. | .lingerExpired .. | .recoveryEnd .. | .portDisable .. | .pipelineLookup ..
  | .injDescriptor | .fwdHinjDataWrite .. | .send .. | .trapWrite .. | .fwdStageWrite .. | .commit .. | .commitCycle
  | .commitDone | .fwdDiscard .. | .admissionDecision .. | .quarantineEnd .. | .allocRecompute | .auditPass ..
  | .reclaimAll .. | .selection .. | .egressHandover .. | .frameTransmitEnd .. | .shaperRefresh | .forgive ..
  | .policerRefresh | .polCfgWrite .. | .walkStart | .sampleQueueRecord | .evtCounterReload .. | .slotEnWrite ..
  | .slotSnap .. | .slotClear .. | .dump | .dmaResume .. | .helloSend .. | .syncSend .. | .helloReceive .. | .syncReceive ..
  | .stateReceive .. | .prepare .. | .ready .. | .refuse .. | .xstepCommit .. | .xstepAbort .. | .linkSilent ..
  | .linkCheckLoss .. | .hbLost | .twinObserveDone | .splitHoldoffExpire | .yield .. | .resume .. | .imageLoad ..
  | .twinCycleEnd | .twinXchkWindow | .xstepGo .. | .xstepAbortCmd .. | .xstepOrphan | .sidResetCheck | .enumFrameSend
  | .enumFrameReceive .. | .enumTimeout | .reenum .. | .hrthLoadDataWrite .. | .go .. | .bootVerifyDone | .restart ..
  | .fuseCmdGo .. | .mgmtBusTransaction .. | .scrubRead .. | .regParity .. | .tbaseParity .. | .wdogKick .. | .wdogExpire ..
  | .tapReset | .tapInstructionUpdate .. | .tstAccess .. | .fuseProg .. | .fuseDone | .pcsLock .. | .outputPulseEnd ..
  | .msixMask .. => true

end Sys2Proof
end

