-- ==== Sys2Proof/Tests/Slice0.lean ====
section
/-!
SUPPORT. Sys2Proof/Tests/Slice0.lean: for every statement with hypotheses, states and operands that meet those of each of its clauses; an
ill-formed command for each check of WellFormed; and worked values of the spec.
-/
namespace Sys2Proof.Machine.Tests
open Sys2Proof Sys2Proof.Machine
set_option Elab.async false

/-! ### States -/

/-- The part unpowered; and out of reset. -/
def dn : State := State.reset
def up : State := { State.reset with
  pwr := { stageOn := true, railsGood := true, released := true, ovenUp := true, oclkUp := true, mainUp := true, vin := 48000 } }

/-- A dip is in progress with the main domain in reset. -/
def dipDown : State := { up with pwr := { up.pwr with mainUp := false, dip := some ⟨true, 3, 9, 4000⟩ } }
def entAddr : BitVec 26 := BitVec.ofNat 26 (4 * Reg.DLN_ADAPT_ENTROPY_MIN 2)
def entPage : BitVec 12 := BitVec.ofNat 12 (Reg.DLN_ADAPT_ENTROPY_MIN 2 / 1024)
def entBit : BitVec 11 := BitVec.ofNat 11 (32 * (Reg.DLN_ADAPT_ENTROPY_MIN 2 % 1024) + 1)
def tagLo : BitVec 26 := BitVec.ofNat 26 (4 * Reg.TLM_TAG_COUNT_LO)
def tagHi : BitVec 26 := BitVec.ofNat 26 (4 * Reg.TLM_TAG_COUNT_HI)
/-- PF1 may write no block. -/
def pf1Off : State := up.setReg Reg.HOST_PF1_WRITE_EN 0
/-- Window 1 with a write to word 0x41 of domain 0x01 at the head of its FIFO. -/
def winPf1 : State := ((pf1Off.setReg (Reg.IND_CTRL 1) 0x100).setReg (Reg.IND_ADDR 1) 0x01000041).updWin 1 fun w => { w with fifo := [.write .pf1 .data 9] }
/-- A mailbox queue that PF0 has claimed, and then posted, with two words; one with a single word left. -/
def mbPosted0 : State := (up.setReg (Reg.MBOX_Q_MASK 3) 1).updMbox 3 fun m => { m with words := [7, 8], owner := some 1 }
def mbPosted (q : Nat) : State := up.updMbox q fun m => { m with words := [7, 8], owner := some 1, posted := true, arriving := 1 }
def mbOne (q : Nat) : State := up.updMbox q fun m => { m with words := [7], owner := some 1, posted := true }
/-- MSI-X of PF0 on, with a cause of the PWR page routed to vector 5. -/
def msixUp : State := ((((up.setReg 0x4004 1).setReg 0x4005 1).setReg (Reg.IRQ_ROUTE 4) 0x10005).updMsix 0 fun m => { m with enable := true, busMaster := true, masked := 0 })

/-- Data lane 5 on, tracking and aligned, with its transmit PLL locked; and frozen. -/
def laneUp : State := { (up.setReg (Reg.DLN_LANE_CTRL 5) 1 |>.setReg (Reg.DLN_LANE_STATUS 5) 0x17 |>.updLane 5 fun l => { l with on := true, phase := 2 }) with lanePll := 1 }
def inBoard : State := { laneUp.setReg (Reg.ALN_CTRL 3) 0x511 |>.updLane 771 fun l => { l with on := true, mode := 1 } with tap := { laneUp.tap with ir := 0 } }
def chkUp (bad : Nat) : State := ((laneUp.setFld (F.DLN_PRBS_CTRL_CHK_PAT 5) 3).setFlag (F.DLN_LANE_STATUS_PRBS_LOCKED 5) true).updLane 5 fun l => { l with chkRef := 1000, chkBad := bad }
def laneFrozen : State := laneUp.updLane 5 fun l => { l with frozen := true }
/-- Auxiliary lane 3 on in mode 1 and synchronised. -/
def alnUp : State := up.setReg (Reg.ALN_CTRL 3) 0x411 |>.setReg (Reg.ALN_LANE_STATUS 3) 0x407 |>.updLane 771 fun l => { l with on := true, mode := 1 }
def chkAux (bad : Nat) : State := ((alnUp.setFld (F.ALN_PRBS_CTRL_CHK_PAT 3) 1).setFlag (F.ALN_LANE_STATUS_PRBS_LOCKED 3) true).updLane 771 fun l => { l with chkRef := 1000, chkBad := bad }
def chkFrom : State := alnUp.setFld (F.ALN_PRBS_CTRL_CHK_PAT 3) 1
def chkWords (n : Nat) : List (BitVec 128) := (upto n).map fun i => histWord (wordBits (.aux 3)) (patternAfter (.aux 3) (chkFrom.fld (chkPatFld (.aux 3))) (i + 1) 1000)

/-- The time base runs in PTP format; with a STEP of 5 pending. -/
def tbUp : State := (up.setReg Reg.TBASE_CTRL 0x80000001 |>.setReg Reg.TBASE_LIVE 1).updTb fun t => { t with value := 7 * 2 ^ 48 }
def tbP : TbPend := { inc := none, op := some (.step 5), arm := none, acc := 0, late := false, xstep := false, dispute := false }
def tbPend : State := (tbUp.updTb fun t => { t with pend := some tbP }).setFlag F.TBASE_LIVE_CMD_PENDING true
/-- Output 1 is on, with a period of 20 ns. -/
def outOn : State := (tbUp.setReg (Reg.TBASE_OUT_CTRL 1) 1).updOut 1 fun o => { o with on := true, period := 20, phase := 3, width := 8, earliest := 10 }

/-- Source slot 7 measures the receive clock of data lane 2, which has CDR lock. -/
def metUp : State := (up.setReg (Reg.MET_SRC_CFG 7) 0x20001).setReg (Reg.DLN_LANE_STATUS 2) 3

/-- The schedule in use names slot 7 in each entry; the external channel is armed, and waits for a stop after a start edge at a count. -/
def slotUp : State := metUp.updMet fun m => { m with sched := (48, List.replicate 48 0x80000007) }
def extUp : State := metUp.updExt fun e => { e with own := true, phase := .armed }
def extRun (n : Nat) : State := extUp.updExt fun e => { e with phase := .started, start := some ⟨n, 5, n + 2, [], false⟩ }
/-- A code-density run of cell 3 with all its hits in two codes; the two cells of pair 3 half a picosecond apart with cell 3 off the pilot. -/
def cdFull : State := { (metUp.setRbit Reg.MET_CD_BUSY 3 true).updCell 3 fun x => { x with hits := 4194304 } with ind := [(indKey 4 (bankAddr 3 2 3000), 2097152), (indKey 4 (bankAddr 3 2 3001), 2097152)] }
def pairBad : State := ((metUp.updSlot 7 fun r => { r with win := [(3, 8, 80000), (19, 8, 0)] }).updMet fun m => { m with pairFails := [1, 1, 1, 1, 1, 1, 1, 1, 1, 1, 1, 1, 1, 1, 1, 1] }).updCell 3 (fun x => { x with pilotN := 3, pilotSum := 90000 }) |>.updCell 4 (fun x => { x with pilotN := 3 }) |>.updCell 5 (fun x => { x with pilotN := 3 })

/-- Proofing is enabled with one pair held at a time; a run pends. -/
def prfUp : State := (metUp.setReg Reg.PRF_CTRL 0x80000423).setReg Reg.LOOP_STATUS 0
def prfPend : State := prfUp.updPrf fun p => { p with pend := true, causePend := 4 }

/-- References 1 and 7 are enabled, present and in a state; the loop in a state with reference 1 the only candidate, its phase known. -/
def refUp (st : Nat) : State := (up.setReg (Reg.LOOP_REF_CFG 7) 0xA0003 |>.setReg (Reg.LOOP_REF_CFG 1) 0xA0003 |>.setReg (Reg.LOOP_REF_STATUS 7) (BitVec.ofNat 32 (st + 0x308))).setReg (Reg.LOOP_REF_STATUS 1) (BitVec.ofNat 32 (st + 0x308))
def loopUp (st : Nat) : State := (((up.setReg (Reg.LOOP_REF_CFG 1) 0xA0003).setReg (Reg.LOOP_REF_STATUS 1) 0xB).setFld F.LOOP_STATUS_STATE st).updRef 1 fun r => { r with raws := [1000] }
/-- The loop disputes a reference; the multiplying PLL is locked with the loop in a state. -/
def disUp (i : Nat) : State := (((loopUp 5).setFld F.LOOP_STATUS_DISPUTE_REF i).updRef 20 fun r => { r with raws := [77] })
def disTwo : State := (((((disUp 1).setReg (Reg.LOOP_REF_CFG 7) 0xA0003).setReg (Reg.LOOP_REF_STATUS 7) 0xB).updRef 7 fun r => { r with raws := [1000] }).setReg Reg.LOOP_PHASE_ACCEPT 1000000)
def clkPlaced (k : Nat) (s : State) : Nat := (clkoutPlace k s).getD 0
def kUp (st : Nat) : State := ((((loopUp st).setReg Reg.LOOP_MPLL_STATUS 1).setFlag F.LOOP_STATUS_TCLK_KEEPER false).setFlag F.LOOP_STATUS_LANE_BACKUP false).updClkout 1 fun o => { o with on := true, running := true }

/-- The sky receiver runs with both bands; channel 5 tracks a signal and ends a dump after 81,840 samples; and decodes navigation with some of its sync bits. -/
def skyUp : State := up.setReg Reg.SKY_CTRL 0x80000007
def chanUp (sig : Nat) : State := ((skyUp.setIndw 5 80 0x73).setIndw 5 90 7).updChan 5 fun x => { x with on := true, signal := sig, prn := 7, codeInc := 53687091, code := 5, count := 1920, carrInc := 131200 }
def navUp (sig st : Nat) : State := ((chanUp sig).setIndw 5 80 (BitVec.ofNat 32 (0x401 + 2 * sig))).setIndw 5 91 (BitVec.ofNat 32 st)
/-- The channel ends a dump of three samples; the bits of a number, and symbols of a page part, with counts; prompts that change sign at one position. -/
def shortUp (sig : Nat) : State := (chanUp sig).updChan 5 fun x => { x with code := 1023 * 2 ^ 32 - 5, codeInc := 2 }
def navBits (n w : Nat) : List (Bool × Nat) := (List.range n).map fun i => (w.testBit i, 1000 - i)
def navSyms (odd : Bool) : List (Int × Nat) := (List.range 240).map fun i => (if odd then -9 else 9, 900 - i)
def navSigns : List Int := (List.range 2001).map fun i => if i / 20 % 2 = 0 then 9 else -9
/-- The LNAV word of 24 data bits under the previous word's last two bits; a fix in order. -/
def lnavOf (p q d : Nat) : BitVec 30 := BitVec.ofNat 30 ((if q = 1 then 2 ^ 24 - 1 - d else d) * 64 + lnavParity p q ((if q = 1 then 2 ^ 24 - 1 - d else d) * 64))
/-- Two zero bits, a TLM word and a HOW word. -/
def lnavTwo : Nat := (lnavOf 0 0 0x8B1234).toNat * 2 ^ 30 + (lnavOf ((lnavOf 0 0 0x8B1234).toNat / 2 % 2) ((lnavOf 0 0 0x8B1234).toNat % 2) 0x123456).toNat
def fixUp : State := (tbUp.setReg Reg.SKY_CTRL 0x80000007 |>.setReg Reg.SKY_FIX_INFO 0x30A).setReg (Reg.SKY_FIX_T 1) 6

/-- Port 3 holds lane 5, which is aligned, and waits to come up; and is up. -/
def portOn : State := ((laneUp.setReg (Reg.PORT_CFG 3) 0x51).setReg (Reg.PORT_LIVE 3) 0x7003A).updPort 3 fun r => { r with cfg := 0x51 }
def portUpS : State := portOn.setReg (Reg.PORT_LIVE 3) 0x39
/-- A frame of two slices in queue 5 of port 3; the state that holds it as frame 7. -/
def frQ : Frame := { src := 9, bytes := List.replicate 300 0, ended := true, phase := .queued, egress := 3, queue := 5, slices := [11, 12] }
def queued : State := ((portUpS.setFrame 7 frQ).setQueue 53 [7]).setReg (Reg.BUF_Q_OCC 53) 2
/-- A MAC control frame with opcode and parameters as given. -/
def macBody (l : List Byte) : List Byte := [1, 0x80, 0xC2, 0, 0, 1, 2, 2, 2, 2, 2, 2, 0x88, 8] ++ l ++ List.replicate (46 - l.length) 0
def macFrame (l : List Byte) : List Byte := macBody l ++ leBytes 4 (fcsOf (macBody l)).toNat
def loopedUp (cfg : Word) (bs : List (List Byte)) : State :=
  let s := (portUpS.setFld (F.DLN_LANE_CTRL_LOOPBACK 5) 1).updPort 3 fun r => { r with cfg := cfg }
  s.updNet fun n => { n with looped := [(3, bs)] }

/-- Timing port 385 is up; a data frame of a length with its FCS; a Hearth descriptor in an otherwise empty ring; host data of a length. -/
def timUp : State := (alnUp.setReg (Reg.ALN_LANE_STATUS 1) 7).updLane 769 fun l => { l with on := true, mode := 0 }
def dataFrame (n : Nat) : List Byte := List.replicate (n - 4) 9 ++ leBytes 4 (fcsOf (List.replicate (n - 4) 9)).toNat
def injUp (w0 w1 : Word) : State := (up.setSramBytes 0 (wordBytes [w0, w1])).setReg Reg.FWD_INJ_WR 1
def hinjUp (n : Nat) : State := ((up.setReg (Reg.FWD_HINJ_DESC 0) 0x2003).setReg (Reg.FWD_HINJ_DESC 1) 0x003C0000).updNet fun x => { x with hostData := List.replicate n 5 }

/-- A frame that waits for its lookup, and states in which it finds L2, group and route entries. -/
def l2Frame : List Byte := dataFrame 80
def ipBody (ttl : Byte) : List Byte := List.replicate 12 9 ++ [8, 0, 0x45, 0, 0, 46, 0, 0, 0, 0, ttl, 6, 0, 0, 10, 0, 0, 1, 10, 0, 0, 2]
def ipHead (ttl : Byte) : List Byte := (ipBody ttl).take 24 ++ beBytes 2 (65535 - ocSum (slice (ipBody ttl) 14 20)) ++ (ipBody ttl).drop 26 ++ List.replicate 26 0
def ipFrame (ttl : Byte) : List Byte := ipHead ttl ++ leBytes 4 (fcsOf (ipHead ttl)).toNat
def badIp : List Byte := ipBody 9 ++ List.replicate 30 0
def frA (bs : List Byte) : Frame := { src := 9, bytes := bs, ended := true, pipe := 2 }
def fwdUp (bs : List Byte) : State := up.setFrame 4 (frA bs)
def l2At : Nat := 4 * l2Bucket 1 0x090909090909
def l2Row (s : State) : State := (s.setIndw 6 (4 * l2At) 0x09090909).setIndw 6 (4 * l2At + 1) 0x80010909
def groupSeven (s : State) : State := (((s.setIndw 6 0xD00007 0x80000001).setIndw 6 (0xB00000 + 128 * 7) 5).setIndw 6 (0xD40000 + 23) 0x80030001).setIndw 6 (0xD40000 + 21) 0x20000000
def ptpFrame (t : Byte) : List Byte := let b : List Byte := List.replicate 12 9 ++ [0x88, 0xF7, t, 2] ++ List.replicate 60 0; b ++ leBytes 4 (fcsOf b).toNat
def esmcFrame : List Byte := let b : List Byte := List.replicate 12 9 ++ [0x88, 0x09, 0x0A] ++ List.replicate 60 0; b ++ leBytes 4 (fcsOf b).toNat
def v6Frame (hop : Byte) : List Byte := let b : List Byte := List.replicate 12 9 ++ [0x86, 0xDD, 0x60, 0, 0, 0, 0, 2, 59, hop] ++ List.replicate 16 1 ++ List.replicate 22 2; b ++ leBytes 4 (fcsOf b).toNat
def portRow (n : Nat) (s : State) : State := l2Row (s.setIndw 6 (4 * l2At + 2) (BitVec.ofNat 32 (n * 2 ^ 16 + 1)))
def typeRow (n : Nat) (s : State) : State := l2Row (s.setIndw 6 (4 * l2At + 2) (BitVec.ofNat 32 n))
def clsRow (w4 : Word) (s : State) : State := ((s.setIndw 6 0xD80018 0x800FFFF7).setIndw 6 0xD80019 0xFF).setIndw 6 0xD8001C w4
def aclRow (w24 : Word) (s : State) : State := (s.setIndw 6 0xE00018 w24).setIndw 6 0xE00019 7
def routeSeven (s : State) : State := (s.setIndw 6 0x200000 0x0A000000).setIndw 6 0x200001 0x80001C08

/-- A frame looked up for queue 5 of port 3, which has a reserve, a threshold exponent, and a class; a frame of priority group 1; the auditor runs with one slice out of order. -/
def frL : Frame := { src := 9, bytes := List.replicate 300 0, ended := true, phase := .looked, egress := 3, queue := 5 }
def admQ (min' alpha : Nat) (ll : Bool) : State :=
  (((((portUpS.setFrame 7 frL).setFld ⟨Reg.BUF_PORT_QPROF0 3, 25, 5⟩ 1).setFld (F.BUF_QPROF_MIN 1) min').setFld (F.BUF_QPROF_ALPHA 1) alpha).setFlag (F.BUF_QPROF_LOSSLESS 1) ll).setFld (F.BUF_POOL_SIZE_SLICES 0) 1000 |>.setReg (Reg.BUF_PORT_PG_MAP0 9) 0x222222 |>.setReg (Reg.BUF_PGPROF_XOFF 2) 0 |>.setReg (Reg.BUF_PGPROF_HEADROOM 2) 0 |>.setReg (Reg.BUF_PORT_CFG 9) 0
def frT (n : Nat) (ph : FrPhase) (e : Nat) : Frame := { frL with bytes := List.replicate (256 * n) 0, phase := ph, egress := e }
def frG (k : Nat) : Frame := { frQ with slices := [], pg := some 1, kind := k }
def lostUp (x n : Nat) (r : Bool) : State := ((up.setFlag F.BUF_AUDIT_EN true).setFlag F.BUF_AUDIT_RECLAIM r).updNet fun t => { t with auditOn := true, lost := [(n, some x)] }

/-- Queue 5 of port 3 with shapers of its own and of its port; in the weighted group of profile B; a stamp; a frame at its MAC; policer 9; stream 4 with a frame of number 500. -/
def shapedUp (a b : Nat) : State := [a, b].foldl (fun s i => (((s.setIndw 7 (shaperWord i 0) 1).setIndw 7 (shaperWord i 1) 1000).setIndw 7 (shaperWord i 2) 9000).updShaper i fun r => { r with level := 4000 * 2 ^ 24, burst := 9000 * 2 ^ 24 }) queued
def grpUp : State := (((queued.setQueue 53 [7, 8]).setReg (Reg.SCHD_PORT_CFG 3) 1).updPort 3 fun r => { r with lastB := true }).setIndw 7 428 9000
def stZ : Stamp := ⟨0, 0⟩
def prA (s : State) : State := s.setReg (Reg.SCHD_PORT_CFG 3) 0x1404
def frPtp (i t : Nat) : Frame := { frQ with bytes := ptpFrame (BitVec.ofNat 8 t), slices := [11], ins := i, record := true, txTag := 77, rx := some ⟨5, 0, 0⟩ }
def stampUp (i t : Nat) : State := (((prA queued).setFrame 7 (frPtp i t)).setReg (Reg.TBASE_PORT_TS_CTRL 3) 0xFFFFFFFF).setReg Reg.TBASE_CTRL 0x80000001 |>.updTb fun t => { t with value := 7 * 2 ^ 48 }
def timStamp (i : Nat) : State := (((((stampUp i 0).setFrame 7 { frPtp i 0 with egress := 385 }).setQueue 6145 [7]).setReg (Reg.ALN_LANE_STATUS 1) 7).setReg (Reg.TBASE_PORT_TS_CTRL 385) 0xFFFFFFFF).updLane 769 fun l => { l with on := true, mode := 0 }
def tagIp (ttl : Byte) : List Byte := let b := (ipHead ttl).take 12 ++ [0x81, 0, 0x61, 0x23] ++ (ipHead ttl).drop 12; b ++ leBytes 4 (fcsOf b).toNat
def udpFrame (ck : Byte) (v6 : Bool) : List Byte :=
  let ip : List Byte := if v6 then [0x86, 0xDD, 0x60, 0, 0, 0, 0, 60, 17, 9] ++ List.replicate 32 3 else (ipHead 9).drop 12 |>.take 22 |>.set 11 17
  let b := List.replicate 12 9 ++ ip ++ [0, 1, 1, 63, 0, 60, 0, ck] ++ [0, 2, 0, 44] ++ List.replicate 48 6
  b ++ leBytes 4 (fcsOf b).toNat
def frHd : Frame := { frQ with phase := .handed, slices := [] }
def polUp (i : Nat) : State := up.updPol i fun p => { p with now := [0x11, 1000, 2000, 77, 88] }
def frS : Frame := { frL with bytes := List.replicate 12 9 ++ [0xF1, 0xC1, 0, 0, 1, 0xF4] ++ List.replicate 300 7 }
def sidUp (recov hist : Nat) : State := (((((portUpS.setFrame 7 frS).setReg (Reg.TWIN_SID_CFG 4) 0x41).setReg (Reg.TWIN_SID_DA_LO 4) 0x09090909).setReg (Reg.TWIN_SID_DA_HI 4) 0x10909).setReg (Reg.TWIN_SID_STATE 4) (BitVec.ofNat 32 recov)).updSid 4 fun r => { r with hist := hist }

/-- The DMA engine writes one listed word, as PF0, which may, or may not yet; a closed record; queue g is sampled; every frame is tagged. -/
def dmaOff : State := (((up.setReg Reg.TLM_DMA_CTRL 0x10064).setReg Reg.TLM_DMA_RING 0x404).setReg (Reg.TLM_DMA_LIST 0) 0x400001).setReg Reg.TLM_DMA_WB_LO 0x10000
def dmaUp : State := dmaOff.updMsix 0 fun m => { m with busMaster := true }
def tickUp : Nat := pclk { up with clk := { up.clk with tclk := up.clk.tclk + 1 } } - pclk up
def tagUp : State := (((up.setReg Reg.TLM_DMA_CTRL 0x20000).setReg Reg.TLM_DMA_RING 0x404).setReg Reg.TLM_DMA_WB_LO 0x10000).updTlm fun t => { t with closed := [9] }
def sampUp (g : Nat) : State := (((up.setReg Reg.SCHD_SAMPLE_CTRL 0x10064).setReg Reg.SCHD_SAMPLE_RING 4).setIndw 7 (8 * g) 2).updSample g fun r => { r with last := 7, max := 9, deq := 3 }
def tagEn (s : State) : State := ((s.setFlag F.TLM_TAG_CTRL_EN true).setFld F.TLM_TAG_CTRL_PORT_SEL 511).setFld F.TLM_TAG_CTRL_RATE_LOG2 0

/-- The twin link on auxiliary lane 3 is usable and synchronised; the up stack link likewise; an exchange of SYNC frames; a check window; a load image. -/
def laneThree (s : State) : State := (s.setReg (Reg.ALN_LANE_STATUS 3) 0x407).updLane 771 fun l => { l with on := true, mode := 1 }
def twUp : State := ((laneThree tbUp).setReg Reg.TWIN_CTRL 1).setReg Reg.TWIN_PAIR_CFG 0x300
def stUp : State := (laneThree tbUp).setReg Reg.TWIN_STACK_CFG 0x8D
def exUp : State := ((((twUp.setReg (Reg.MET_SRC_CFG 7) 0x30003).setReg (Reg.MET_SRC_MEAN 7) 0x80000000).updMet fun m => { m with sched := (m.sched.1, [0x80000007]) }).updLink 0 fun l => { l with fmt := 1, txs := [(0, [0, 0, 0, 0])] })
def exT : List Word := syncReceived 0 0 3 exUp
def carUp (s : State) : State := { s with lanePll := 0x7F#7 }
def exFr : List Byte := plahusFrame 2 ([0, 0, 0, 0] ++ recBytes exT ++ List.replicate 32 0)
def exFrB : List Byte := plahusFrame 2 ([0, 0, 0, 0, 0, 0, 0, 1] ++ List.replicate 44 0)
def xcUp (x : Int) : State := ((((twUp.setFld F.TWIN_LIVE_ROLE 1).setFld F.LOOP_STATUS_SELECTED 21).setFld F.LOOP_STATUS_STATE 2).setFld F.TWIN_XCHK_LIMIT_PS 1).updTwin fun t => { t with xsum := x, xn := 100 }
def imUp (w : Word) : State := (((tbUp.setFld F.LOOP_STATUS_STATE 0).setIndw 1 0x140 w).setIndw 1 0x149 9).setIndw 1 0x14B 5

/-- A role with the heartbeat valid and the twin link silent; GO of a step far ahead; a STEP frame of an operation; a two-phase step under way. -/
def silUp (r : Nat) : State := ((twUp.setFld F.TWIN_LIVE_ROLE r).setFlag F.TWIN_LIVE_HB_OK true).setFlag (F.TWIN_LNK_STATUS_SILENT 0) true
def goUp : State := (tbUp.setReg Reg.TWIN_XSTEP_ARM2 9000000).setReg Reg.TWIN_XSTEP_AMT_LO 5
def stepFr (op : Nat) : List Byte := plahusFrame 4 ([BitVec.ofNat 8 op, 2, 3, 0, 0, 7, 0, 0] ++ List.replicate 12 0 ++ recBytes [0, 0, 9000000, 0])
def xsOf (f : Option Nat) : XstepSt := { from' := f, xid := 7, targets := [0], waits := [0], arm := recordValue 1 0 0 9000000 0 }
def xsUp (x : XstepSt) : State := twUp.updTwin fun t => { t with xstep := some x }

/-- CHIP_UNIT as given; Hearth in a boot state; ECC and the scrubber on; core 3 watched; TST_ACCESS current; FUSE_PROG current. -/
def unitUp (w : Word) : State := up.setReg Reg.CHIP_UNIT w
def bootSt (n : Nat) : State := up.setFld F.HRTH_BOOT_STATUS_STATE n
def eccUp : State := (up.setFlag F.FLT_CTRL_ECC_EN true).setFlag F.FLT_CTRL_SCRUB_EN true
def wdUp : State := ((bootSt 4).setReg Reg.FLT_WDOG 0x8F00).updBoot fun b => { b with cores := 0xF }
def tstUp : State := up.updTap fun t => { t with ir := 0x20 }
def fpUp : State := up.updTap fun t => { t with ir := 0x21 }
def tapUp (p : TapPhase) (ir : BitVec 8) : State := up.updTap fun t => { t with phase := p, ir := ir }

/-! ### The range of the fields of frames -/

theorem smapGet_mem {α : Type} (d : Nat → α) : ∀ (m : SMap α) (k : Nat), smapGet d m k = d k ∨ (k, smapGet d m k) ∈ m
  | [], _ => .inl rfl
  | (j, v) :: m, k => by
    have ih := smapGet_mem d m k
    unfold smapGet
    split <;> simp_all

/-- A frame with its fields in range. -/
def frameFits (f : Frame) : Bool :=
  decide (f.src ≤ 416 ∧ f.queue < 16 ∧ f.pool < 4) && f.pg.all (fun k => decide (k < 8 ∧ f.src < 384)) && f.tag.all (fun k => decide (k < 1024))

theorem framesFit_of (s : State) (h : s.net.frames.all (fun p => p.2.all frameFits) = true) : s.FramesFit := by
  intro id f e
  have fits : frameFits f = true := by
    rcases smapGet_mem noFrame s.net.frames id with g | g
    · have := e.symm.trans g
      simp [noFrame] at this
    · rw [show smapGet noFrame s.net.frames id = some f from e] at g
      have := List.all_eq_true.mp h _ g
      simpa using this
  simp [frameFits] at fits
  obtain ⟨⟨⟨a, b, c⟩, p⟩, r⟩ := fits
  refine ⟨a, b, c, ?_, ?_⟩
  · intro k hk; simp_all
  · intro k hk; simp_all

/-- What a lane hears that is in no near-end loopback and inverts nothing. -/
theorem heardWords_plain (l : LaneId) (ws : List (BitVec 128)) (s : State)
    (h : s.fld (loopFld l) ≠ 1 ∧ s.fld (loopFld l) ≠ 2 ∧ s.flag (rxInvFld l) = false) : heardWords l ws s = ws := by
  have e : ∀ (n : Nat) (w : BitVec 128), heardWord s l n w = w := fun n w => by simp [heardWord, h.1, h.2.1, h.2.2]
  simp only [heardWords, e]
  exact List.zipIdx_map_fst 0 ws

theorem forall6144 (P : Fin 6144 → Prop) (h : ∀ (a : Fin 64) (b : Fin 96), P ⟨96 * a.val + b.val, by omega⟩) : ∀ x, P x := by
  intro x
  have := h ⟨x.val / 96, by omega⟩ ⟨x.val % 96, by omega⟩
  simp only [Nat.div_add_mod] at this
  exact this

/-- A frame as it is sent is found sound. -/
theorem leNat_leBytes_four (x : Nat) (h : x < 2 ^ 32) : leNat (leBytes 4 x) = x := by
  simp [leBytes, leNat]; omega

theorem plahusOk_frame (typ n : Nat) (body : List Byte) (k : bodyLen (BitVec.ofNat 8 typ).toNat = n) (k0 : n ≠ 0) (l : body.length = n) :
    plahusOk (plahusFrame typ body) false = true := by
  have e : byteAt (plahusFrame typ body) 0 = (BitVec.ofNat 8 typ).toNat := rfl
  have d : (plahusFrame typ body).drop (n + 1) = leBytes 4 (crc32c (BitVec.ofNat 8 typ :: body)).toNat := by
    simp [plahusFrame, ← l]
  have t : (plahusFrame typ body).take (n + 1) = BitVec.ofNat 8 typ :: body := by
    simp [plahusFrame, ← l]
  have ln : (plahusFrame typ body).length = n + 5 := by simp [plahusFrame, l, leBytes]
  unfold plahusOk
  rw [e, k]
  simp only [d, t, ln, leNat_leBytes_four _ (BitVec.isLt _)]
  simp [k0]

/-! ### Witnesses of the hypotheses -/

theorem witness_PowerUpEvents :
    (∃ (s : State) (vin : Nat), s.pwr.stageOn = false ∧ s.pwr.ovenUp = false ∧ 5900 < vin) ∧
    (∃ (s : State), s.pwr.stageOn = true) ∧
    (∃ (s : State), s.pwr.railsGood = true ∧ s.pwr.released = false ∧ s.pwr.tripped = false) ∧
    (∃ (s : State), s.pwr.ovenUp = true ∧ s.pwr.released = true ∧ s.pwr.xoIn = true ∧ s.pwr.oclkUp = false) ∧
    (∃ (s : State), s.pwr.xoIn = false) ∧
    (∃ (s : State), s.pwr.oclkUp = true ∧ s.pwr.released = true ∧ s.pwr.xoIn = true ∧ s.pwr.mainUp = false) ∧
    (∃ (s : State) (vin : Nat), s.pwr.ovenUp = true ∧ s.pwr.stageOn = false ∧ s.pwr.tripped = false ∧ 5900 < vin) ∧
    (∃ (s : State) (vin : Nat), s.pwr.ovenUp = true ∧ s.pwr.stageOn = false ∧ s.pwr.tripped = true ∧ 5900 < vin) ∧
    (∃ (s : State) (tj : BitVec 12), s.pwr.tripped = true ∧ tj.toInt < 400) :=
  ⟨⟨dn, 5901, by decide +kernel⟩,
    ⟨up, by decide +kernel⟩,
    ⟨{ up with pwr := { up.pwr with released := false } }, by decide +kernel⟩,
    ⟨{ up with pwr := { up.pwr with oclkUp := false } }, by decide +kernel⟩,
    ⟨{ up with pwr := { up.pwr with xoIn := false, oclkUp := false, mainUp := false } }, by decide +kernel⟩,
    ⟨{ up with pwr := { up.pwr with mainUp := false } }, by decide +kernel⟩,
    ⟨{ dn with pwr := { dn.pwr with ovenUp := true } }, 5901, by decide +kernel⟩,
    ⟨{ dn with pwr := { dn.pwr with ovenUp := true, tripped := true, low := true } }, 5901, by decide +kernel⟩,
    ⟨{ dn with pwr := { dn.pwr with tripped := true } }, 399, by decide +kernel⟩⟩

theorem witness_SupplyDips :
    (∃ (s : State) (vin : Nat), s.pwr.ovenUp = true ∧ s.pwr.mainUp = true ∧ s.prf.mode = 0 ∧ vin < s.fld F.PWR_WARN_LEVEL_LEVEL_MV ∧ s.flag F.PWR_LIVE_WARN_ACTIVE = false) ∧
    (∃ (s : State) (vin : Nat), s.pwr.ovenUp = true ∧ s.pwr.mainUp = true ∧ s.prf.mode ≠ 0 ∧ vin < s.fld F.PWR_WARN_LEVEL_LEVEL_MV ∧ s.flag F.PWR_LIVE_WARN_ACTIVE = false) ∧
    (∃ (s : State) (vin : Nat) (d : DipSt), s.pwr.ovenUp = true ∧ s.pwr.mainUp = true ∧ s.pwr.dip = some d ∧ s.fld F.PWR_WARN_LEVEL_LEVEL_MV + 200 < vin) ∧
    (∃ (s : State), s.pwr.ovenUp = true ∧ s.flag F.PWR_LIVE_WARN_ACTIVE = false ∧ s.flag F.PWR_LIVE_EVT_FLAG = true ∧ s.prf.restart = false) ∧
    (∃ (s : State), s.pwr.ovenUp = true ∧ s.flag F.PWR_LIVE_WARN_ACTIVE = false ∧ s.flag F.PWR_LIVE_EVT_FLAG = true ∧ s.prf.restart = true ∧ s.prf.mode = 0 ∧ s.flag F.PRF_CTRL_EN = false) ∧
    (∃ (s : State), s.pwr.ovenUp = true ∧ s.flag F.PWR_LIVE_WARN_ACTIVE = false ∧ s.flag F.PWR_LIVE_EVT_FLAG = true ∧ s.prf.restart = true ∧ s.prf.mode = 0 ∧ s.flag F.PRF_CTRL_EN = true ∧ s.fld F.LOOP_STATUS_STATE < 6 ∧ s.reg Reg.MET_CD_BUSY = 0) ∧
    (∃ (s : State) (vin : Nat), s.pwr.ovenUp = true ∧ s.pwr.mainUp = false ∧ s.prf.mode = 0 ∧ vin < s.fld F.PWR_WARN_LEVEL_LEVEL_MV ∧ s.flag F.PWR_LIVE_WARN_ACTIVE = false) ∧
    (∃ (s : State) (vin : Nat) (d : DipSt), s.pwr.ovenUp = true ∧ s.pwr.mainUp = false ∧ s.pwr.dip = some d ∧ s.fld F.PWR_WARN_LEVEL_LEVEL_MV + 200 < vin ∧ s.indw 1 0x41 ≠ 0xFFFFFFFF) ∧
    (∃ (s : State) (mv : Nat), s.pwr.ovenUp = true ∧ 11500 ≤ mv) ∧
    (∃ (s : State), s.pwr.ovenUp = true ∧ s.pwr.mainUp = true) ∧
    (∃ (s : State) (mv : Nat), s.pwr.ovenUp = true ∧ s.pwr.mainUp = true ∧ mv < 11500 ∧ s.flag F.PWR_LIVE_HOLDUP_READY = true ∧ s.fld F.PWR_WARN_LEVEL_LEVEL_MV < s.pwr.vin) ∧
    (∃ (s : State) (mv : Nat), s.pwr.ovenUp = true ∧ s.pwr.mainUp = false ∧ mv < 11500 ∧ s.flag F.PWR_LIVE_HOLDUP_READY = true ∧ s.fld F.PWR_WARN_LEVEL_LEVEL_MV < s.pwr.vin) :=
  ⟨⟨up, 5599, by decide +kernel⟩,
    ⟨{ up with prf := { up.prf with mode := 2 } }, 5599, by decide +kernel⟩,
    ⟨{ up with pwr := { up.pwr with dip := some ⟨true, 3, 9, 4000⟩ } }, 5801, ⟨true, 3, 9, 4000⟩, by decide +kernel⟩,
    ⟨(up.setFlag F.PWR_LIVE_EVT_FLAG true), by decide +kernel⟩,
    ⟨((up.setFlag F.PWR_LIVE_EVT_FLAG true).updPrf fun p => { p with restart := true, causePend := 4 }), by decide +kernel⟩,
    ⟨((prfUp.setFlag F.PWR_LIVE_EVT_FLAG true).updPrf fun p => { p with restart := true, causePend := 4 }), by decide +kernel⟩,
    ⟨{ up with pwr := { up.pwr with mainUp := false, latched := 4 } }, 5599, by decide +kernel⟩,
    ⟨dipDown, 5801, ⟨true, 3, 9, 4000⟩, by decide +kernel⟩,
    ⟨up, 11500, by decide +kernel⟩,
    ⟨up, by decide +kernel⟩,
    ⟨(up.setFlag F.PWR_LIVE_HOLDUP_READY true), 11499, by decide +kernel⟩,
    ⟨{ up.setFlag F.PWR_LIVE_HOLDUP_READY true with pwr := { up.pwr with mainUp := false } }, 11499, by decide +kernel⟩⟩

theorem witness_PowerLosses :
    (∃ (s : State) (vin : Nat), s.pwr.stageOn = true ∧ vin < 4800 ∧ s.flag F.PWR_LIVE_HOLDUP_READY = true) ∧
    (∃ (s : State) (vin : Nat), s.pwr.stageOn = true ∧ vin < 4800 ∧ s.flag F.PWR_LIVE_HOLDUP_READY = false) ∧
    (∃ (s : State) (mv : Nat), s.pwr.ovenUp = true ∧ mv < 3000 ∧ s.pwr.vin < 4800) ∧
    (∃ (s : State), s.pwr.tripped = false) ∧
    (∃ (s : State) (tj : BitVec 12), s.pwr.tripped = true ∧ tj.toInt < 400) ∧
    (∃ (s : State) (tj : BitVec 12), s.pwr.tripped = true ∧ 400 ≤ tj.toInt) ∧
    (∃ (s : State) (tj : BitVec 12), 500 ≤ tj.toInt ∧ s.pwr.ovenUp = true ∧ s.pwr.tripped = false) :=
  ⟨⟨(up.setFlag F.PWR_LIVE_HOLDUP_READY true), 4799, by decide +kernel⟩,
    ⟨up, 4799, by decide +kernel⟩,
    ⟨{ up with pwr := { up.pwr with vin := 0 } }, 2999, by decide +kernel⟩,
    ⟨up, by decide +kernel⟩,
    ⟨{ dn with pwr := { dn.pwr with ovenUp := true, tripped := true } }, 399, by decide +kernel⟩,
    ⟨{ dn with pwr := { dn.pwr with ovenUp := true, tripped := true } }, 400, by decide +kernel⟩,
    ⟨up, 500, by decide +kernel⟩⟩

theorem witness_PowerMeasures :
    (∃ (s : State) (ag : Agent), s.pwr.mainUp = true ∧ pf1Denied ag Reg.PWR_WARN_LEVEL s = false ∧ s.locked 16 = false) ∧
    (∃ (s : State) (ag : Agent) (d : Word), s.pwr.mainUp = true ∧ pf1Denied ag Reg.PWR_WARN_LEVEL s = false ∧ s.locked 16 = true ∧ 5000 ≤ d.toNat % 65536 ∧ d.toNat % 65536 ≤ 59000) ∧
    (∃ (s : State) (rails : List (BitVec 16)), s.pwr.mainUp = true ∧ rails.length = 16) ∧
    (∃ (s : State) (sensors : List (BitVec 12)) (i : Nat) (x : BitVec 12), s.pwr.mainUp = true ∧ sensors.length = 16 ∧ sensors[i]? = some x ∧ (∀ y ∈ sensors, y.toInt ≤ x.toInt) ∧ (∀ j < i, sensors.getD j 0 ≠ x)) ∧
    (∃ (s : State) (ag : Agent), s.pwr.mainUp = true ∧ pf1Denied ag Reg.PWR_TEMP_WARN s = false ∧ s.locked 16 = false) :=
  ⟨⟨up, .pf0, by decide +kernel⟩,
    ⟨(up.setRbit (pageLock 16) 0 true), .pf0, 5000, by decide +kernel⟩,
    ⟨up, (List.replicate 16 7), by decide +kernel⟩,
    ⟨up, (List.replicate 15 5 ++ [401]), 15, 401, by decide +kernel⟩,
    ⟨up, .pf0, by decide +kernel⟩⟩

theorem witness_RegisterAccesses :
    (∃ (s : State) (ag : Agent) (addr : BitVec 26), s.pwr.mainUp = true ∧ addr.toNat < 2 ^ 24 ∧ (regDef? (addr.toNat / 4)).isSome = true ∧ isWinReg (addr.toNat / 4) = false ∧ (regOf (addr.toNat / 4)).act = .none ∧ (regOf (addr.toNat / 4)).norm = .none ∧ (regOf (addr.toNat / 4)).ctr = .none ∧ (regOf (addr.toNat / 4)).rwl = 0 ∧ (regOf (addr.toNat / 4)).wo = 0 ∧ addr.toNat / 4 ≠ Reg.HRTH_FW_STATUS ∧ pf1Denied ag (addr.toNat / 4) s = false) ∧
    (∃ (s : State) (addr : BitVec 26) (be : BitVec 4), s.pwr.mainUp = true ∧ addr.toNat < 2 ^ 24 ∧ be ≠ 0 ∧ (regDef? (addr.toNat / 4)).isSome = true ∧ isWinReg (addr.toNat / 4) = false ∧ (regOf (addr.toNat / 4)).live = .none ∧ ctrOf (addr.toNat / 4) (regOf (addr.toNat / 4)) = .none ∧ blockOfPage (addr.toNat / 4 / 1024) ≠ some 4) ∧
    (∃ (s : State) (ag : Agent) (page : BitVec 12) (b : BitVec 11), s.pwr.mainUp = true ∧ (regDef? (page.toNat * 1024 + b.toNat / 32)).isSome = true ∧ isWinReg (page.toNat * 1024 + b.toNat / 32) = false ∧ (regOf (page.toNat * 1024 + b.toNat / 32)).act = .none ∧ (regOf (page.toNat * 1024 + b.toNat / 32)).norm = .none ∧ (regOf (page.toNat * 1024 + b.toNat / 32)).ctr = .none ∧ (regOf (page.toNat * 1024 + b.toNat / 32)).rwl = 0 ∧ (regOf (page.toNat * 1024 + b.toNat / 32)).wo = 0 ∧ page.toNat * 1024 + b.toNat / 32 ≠ Reg.HRTH_FW_STATUS ∧ (regOf (page.toNat * 1024 + b.toNat / 32)).rw.getLsbD (b.toNat % 32) = true ∧ pf1Denied ag (page.toNat * 1024 + b.toNat / 32) s = false) ∧
    (∃ (s : State) (page : BitVec 12) (b : BitVec 11), s.pwr.mainUp = true ∧ (regDef? (page.toNat * 1024 + b.toNat / 32)).isSome = true ∧ isWinReg (page.toNat * 1024 + b.toNat / 32) = false ∧ (regOf (page.toNat * 1024 + b.toNat / 32)).live = .none ∧ blockOfPage page.toNat ≠ some 4) ∧
    (∃ (s : State) (ag : Agent) (page : BitVec 12), s.pwr.mainUp = true ∧ blockOfPage page.toNat ≠ none ∧ pf1Denied ag (pageLock page.toNat) s = false) ∧
    (∃ (s : State) (ag : Agent) (page : BitVec 12), s.pwr.mainUp = true ∧ blockOfPage page.toNat ≠ none ∧ pf1Denied ag (page.toNat * 1024 + 6) s = false) ∧
    (∃ (s : State) (addr : BitVec 26), s.pwr.mainUp = true ∧ addr.toNat < 2 ^ 24 ∧ (regDef? (addr.toNat / 4)).isSome = true ∧ isWinReg (addr.toNat / 4) = false ∧ (regOf (addr.toNat / 4)).live = .none ∧ (regOf (addr.toNat / 4)).ctr = .lo ∧ (regOf (addr.toNat / 4)).rc = 0) ∧
    (∃ (s : State) (ag : Agent) (addr : BitVec 26) (h : Word), s.pwr.mainUp = true ∧ addr.toNat < 2 ^ 24 ∧ (regDef? (addr.toNat / 4)).isSome = true ∧ isWinReg (addr.toNat / 4) = false ∧ (regOf (addr.toNat / 4)).live = .none ∧ (regOf (addr.toNat / 4)).ctr = .hi ∧ (regOf (addr.toNat / 4)).rc = 0 ∧ smapGet noSnap s.hst.snap (agentIx ag) = some (addr.toNat / 4 - 1, [h]) ∧ 4 ≤ addr.toNat) ∧
    (∃ (s : State), s.pwr.mainUp = true) ∧
    (∃ (s : State) (ag : Agent) (h : Word) (f : Word), s.pwr.mainUp = true ∧ smapGet noSnap s.hst.snap (agentIx ag) = some (Reg.LOOP_BT_LO, [h, f])) ∧
    (∃ (s : State) (ag : Agent) (addr : BitVec 26) (d : Word) (v : Word) (lk : Word), s.pwr.mainUp = true ∧ addr.toNat < 2 ^ 24 ∧ (regDef? (addr.toNat / 4)).isSome = true ∧ isWinReg (addr.toNat / 4) = false ∧ ((regOf (addr.toNat / 4)).act = .none ∨ (regOf (addr.toNat / 4)).act = .warnLevel) ∧ (regOf (addr.toNat / 4)).ctr = .none ∧ addr.toNat / 4 ≠ Reg.HRTH_FW_STATUS ∧ pf1Denied ag (addr.toNat / 4) s = false ∧ v = normWord (regOf (addr.toNat / 4)).norm (s.reg (addr.toNat / 4)) d ∧ lk = ((if s.locked (addr.toNat / 4 / 1024) then (regOf (addr.toNat / 4)).rwl else 0) ||| (if woDoneAt s (addr.toNat / 4) (regOf (addr.toNat / 4)) then (regOf (addr.toNat / 4)).wo else 0))) ∧
    (∃ (s : State) (ag : Agent) (a : Nat) (d : Word) (v : Word) (lk : Word), s.pwr.mainUp = true ∧ a ∈ [Reg.TBASE_CTRL, Reg.BUF_AUDIT, Reg.TWIN_PAIR_CFG, Reg.TWIN_STACK_CFG, Reg.FLT_CTRL, Reg.FLT_WDOG] ∧ pf1Denied ag a s = false ∧ v = normWord (regOf a).norm (s.reg a) d ∧ lk = ((if s.locked (a / 1024) then (regOf a).rwl else 0) ||| (if woDoneAt s a (regOf a) then (regOf a).wo else 0))) ∧
    (∃ (s : State) (be : BitVec 4), s.pwr.mainUp = true ∧ be ≠ 0xF) ∧
    (∃ (s : State) (addr : BitVec 26), s.pwr.mainUp = true ∧ noRegister (addr.toNat / 4) = true) ∧
    (∃ (s : State) (addr : BitVec 26) (be : BitVec 4), s.pwr.mainUp = true ∧ noRegister (addr.toNat / 4) = true ∧ be ≠ 0) :=
  ⟨⟨up, .pf0, entAddr, by decide +kernel⟩,
    ⟨(up.setReg 0x4004 0x11), 0x10010, 15, by decide +kernel⟩,
    ⟨up, .pf0, entPage, entBit, by decide +kernel⟩,
    ⟨(up.setReg 0x4004 0x11), 0x10, 132, by decide +kernel⟩,
    ⟨up, .pf0, 0x10, by decide +kernel⟩,
    ⟨up, .pf0, 0x10, by decide +kernel⟩,
    ⟨(up.setReg64 Reg.TLM_TAG_COUNT_LO Reg.TLM_TAG_COUNT_HI 0x500000007), tagLo, by decide +kernel⟩,
    ⟨(up.setSnap 0 (some (Reg.TLM_TAG_COUNT_LO, [9]))), .pf0, tagHi, 9, by decide +kernel⟩,
    ⟨(up.setReg Reg.LOOP_BT_HI 5), by decide +kernel⟩,
    ⟨(up.setSnap 0 (some (Reg.LOOP_BT_LO, [9, 8]))), .pf0, 9, 8, by decide +kernel⟩,
    ⟨(up.setReg 0x407 1), .pf0, 0x1040, 5, 5, 0x3FFFFF, by decide +kernel⟩,
    ⟨(up.setReg 0x1b0007 1), .pf0, Reg.FLT_CTRL, 0, 0, 3, by decide +kernel⟩,
    ⟨up, 7, by decide +kernel⟩,
    ⟨up, 0x3000004, by decide +kernel⟩,
    ⟨up, 0x3000005, 5, by decide +kernel⟩⟩

theorem witness_CounterWritesAreStaged :
    (∃ (s : State) (ag : Agent) (addr : BitVec 26), s.pwr.mainUp = true ∧ addr.toNat < 2 ^ 24 ∧ (regDef? (addr.toNat / 4)).isSome = true ∧ isWinReg (addr.toNat / 4) = false ∧ (regOf (addr.toNat / 4)).ctr = .hi ∧ addr.toNat / 4 ≠ Reg.HRTH_FW_STATUS ∧ pf1Denied ag (addr.toNat / 4) s = false) ∧
    (∃ (s : State) (ag : Agent) (addr : BitVec 26), s.pwr.mainUp = true ∧ addr.toNat < 2 ^ 24 ∧ (regDef? (addr.toNat / 4)).isSome = true ∧ isWinReg (addr.toNat / 4) = false ∧ (regOf (addr.toNat / 4)).ctr = .lo ∧ addr.toNat / 4 ≠ Reg.HRTH_FW_STATUS ∧ pf1Denied ag (addr.toNat / 4) s = false) ∧
    (∃ (s : State) (ag : Agent) (addr : BitVec 26), s.pwr.mainUp = true ∧ addr.toNat < 2 ^ 24 ∧ (regDef? (addr.toNat / 4)).isSome = true ∧ isWinReg (addr.toNat / 4) = false ∧ (regOf (addr.toNat / 4)).ctr = .lo ∧ addr.toNat / 4 ≠ Reg.HRTH_FW_STATUS ∧ pf1Denied ag (addr.toNat / 4) s = false ∧ smapGet noStage s.hst.stage (agentIx ag) = 0) :=
  ⟨⟨up, .pf0, tagHi, by decide +kernel⟩,
    ⟨(up.setStage 0 3), .pf0, tagLo, by decide +kernel⟩,
    ⟨(up.setReg Reg.TLM_TAG_COUNT_HI 1), .pf0, tagLo, by decide +kernel⟩⟩

theorem witness_Pf1Writes :
    (∃ (s : State) (addr : BitVec 26) (c : Nat), s.pwr.mainUp = true ∧ addr.toNat < 2 ^ 24 ∧ (regDef? (addr.toNat / 4)).isSome = true ∧ isWinReg (addr.toNat / 4) = false ∧ blockOfPage (addr.toNat / 4 / 1024) = some c ∧ s.rbit Reg.HOST_PF1_WRITE_EN (c - 1) = false) ∧
    (∃ (s : State) (page : BitVec 12) (b : BitVec 11) (c : Nat), s.pwr.mainUp = true ∧ (regDef? (page.toNat * 1024 + b.toNat / 32)).isSome = true ∧ isWinReg (page.toNat * 1024 + b.toNat / 32) = false ∧ blockOfPage page.toNat = some c ∧ s.rbit Reg.HOST_PF1_WRITE_EN (c - 1) = false) ∧
    (∃ (s : State), s.pwr.mainUp = true) ∧
    (∃ (s : State) (addr : BitVec 26) (c : Nat), s.pwr.mainUp = true ∧ addr.toNat < 2 ^ 24 ∧ (regDef? (addr.toNat / 4)).isSome = true ∧ isWinReg (addr.toNat / 4) = false ∧ blockOfPage (addr.toNat / 4 / 1024) = some c ∧ s.rbit Reg.HOST_PF1_WRITE_EN (c - 1) = true ∧ addr.toNat / 4 ≠ Reg.HOST_PF1_WRITE_EN ∧ (regOf (addr.toNat / 4)).act = .none ∧ (regOf (addr.toNat / 4)).norm = .none ∧ (regOf (addr.toNat / 4)).ctr = .none ∧ (regOf (addr.toNat / 4)).rwl = 0 ∧ (regOf (addr.toNat / 4)).wo = 0 ∧ addr.toNat / 4 ≠ Reg.HRTH_FW_STATUS ∧ addr.toNat / 4 ≠ Reg.HOST_INT_STATUS) ∧
    (∃ (s : State) (addr : BitVec 26), s.pwr.mainUp = true ∧ addr.toNat < 2 ^ 24 ∧ (regDef? (addr.toNat / 4)).isSome = true ∧ isWinReg (addr.toNat / 4) = false ∧ (regOf (addr.toNat / 4)).live = .none ∧ ctrOf (addr.toNat / 4) (regOf (addr.toNat / 4)) = .none) ∧
    (∃ (s : State) (d : Word) (rest : List WinEntry), s.pwr.mainUp = true ∧ (s.win 1).fifo = .write .pf1 .data d :: rest ∧ (s.win 1).taking = false ∧ rest.head?.all isWrite = true ∧ dirWrite s 1 = true ∧ winFails s 1 = none ∧ s.net.commit = 0 ∧ s.fld (F.IND_ADDR_DOMAIN 1) ≠ 0 ∧ s.rbit Reg.HOST_PF1_WRITE_EN (wordBlock (s.fld (F.IND_ADDR_DOMAIN 1)) (s.fld (F.IND_ADDR_WADDR 1)) - 1) = false) ∧
    (∃ (s : State) (d : Word) (rest : List WinEntry) (c : Nat), s.pwr.mainUp = true ∧ (s.win 1).fifo = .write .pf1 .data d :: rest ∧ (s.win 1).taking = false ∧ rest.head?.all isWrite = true ∧ dirWrite s 1 = true ∧ winFails s 1 = none ∧ s.net.commit = 0 ∧ s.fld (F.IND_ADDR_DOMAIN 1) = 0 ∧ blockOfPage (directAddr (s.fld (F.IND_ADDR_WADDR 1)) / 1024) = some c ∧ s.rbit Reg.HOST_PF1_WRITE_EN (c - 1) = false) ∧
    (∃ (s : State) (d : Word) (rest : List WinEntry), s.pwr.mainUp = true ∧ (s.win 1).fifo = .write .pf1 .data d :: rest ∧ (s.win 1).taking = false ∧ dirWrite s 1 = true ∧ winFails s 1 = none ∧ s.net.commit = 0 ∧ s.fld (F.IND_ADDR_DOMAIN 1) ≠ 0 ∧ s.rbit Reg.HOST_PF1_WRITE_EN (wordBlock (s.fld (F.IND_ADDR_DOMAIN 1)) (s.fld (F.IND_ADDR_WADDR 1)) - 1) = true) ∧
    (∃ (s : State) (k : Fin 4) (ag : Agent) (d : Word) (rest : List WinEntry), k ≠ 1 ∧ s.pwr.mainUp = true ∧ (s.win k).fifo = .write ag .data d :: rest ∧ (s.win k).taking = false ∧ dirWrite s k = true ∧ winFails s k = none ∧ s.net.commit = 0) ∧
    (∃ (s : State), s.pwr.mainUp = true ∧ s.rbit Reg.HOST_PF1_WRITE_EN 1 = false) ∧
    (∃ (s : State), s.pwr.mainUp = true ∧ s.rbit Reg.HOST_PF1_WRITE_EN 1 = true ∧ fifoLevel (s.win 1) < 16) :=
  ⟨⟨pf1Off, 0x10058, 5, by decide +kernel⟩,
    ⟨pf1Off, 0x10, 705, 5, by decide +kernel⟩,
    ⟨up, by decide +kernel⟩,
    ⟨(up.setReg Reg.HOST_PF1_WRITE_EN 0x3FFFFF), entAddr, 7, by decide +kernel⟩,
    ⟨up, 0x10058, by decide +kernel⟩,
    ⟨winPf1, 9, [], by decide +kernel⟩,
    ⟨(winPf1.setReg (Reg.IND_ADDR 1) 0x4016), 9, [], 5, by decide +kernel⟩,
    ⟨(winPf1.setReg Reg.HOST_PF1_WRITE_EN 0x10), 9, [], by decide +kernel⟩,
    ⟨(winPf1.setReg (Reg.IND_CTRL 0) 0x100 |>.setReg (Reg.IND_ADDR 0) 0x01000041 |>.updWin 0 fun w => { w with fifo := [.write .pf0 .data 9] }), 0, .pf0, 9, [], by decide +kernel⟩,
    ⟨pf1Off, by decide +kernel⟩,
    ⟨(up.setReg Reg.HOST_PF1_WRITE_EN 2), by decide +kernel⟩⟩

theorem witness_WindowCommands :
    (∃ (s : State) (ag : Agent) (r : WinReg), s.pwr.mainUp = true ∧ pf1Denied ag (winRegAddr (winOf ag) r) s = false ∧ fifoLevel (s.win (winOf ag)) < 16) ∧
    (∃ (s : State) (ag : Agent) (r : WinReg), s.pwr.mainUp = true ∧ pf1Denied ag (winRegAddr (winOf ag) r) s = false ∧ 16 ≤ fifoLevel (s.win (winOf ag))) ∧
    (∃ (s : State) (k : Fin 4) (ag : Agent) (d : Word) (rest : List WinEntry), s.pwr.mainUp = true ∧ (s.win k).fifo = .write ag .addr d :: rest ∧ rest.head?.all isWrite = true ∧ (s.win k).taking = false ∧ s.flag (F.IND_CTRL_DIR k) = false ∧ d.toNat / 2 ^ 24 = 1 ∧ d.toNat % 2 ^ 24 < 0x42) ∧
    (∃ (s : State) (k : Fin 4) (ag : Agent) (d : Word) (rest : List WinEntry), s.pwr.mainUp = true ∧ (s.win k).fifo = .write ag .addr d :: rest ∧ rest.head?.all isWrite = true ∧ (s.win k).taking = false ∧ s.flag (F.IND_CTRL_DIR k) = false ∧ 8 < d.toNat / 2 ^ 24) ∧
    (∃ (s : State) (k : Fin 4) (ag : Agent) (d : Word) (rest : List WinEntry), s.pwr.mainUp = true ∧ (s.win k).fifo = .write ag .ctrl d :: rest ∧ rest.head?.all isWrite = true ∧ (s.win k).taking = false) ∧
    (∃ (s : State) (k : Fin 4), s.pwr.mainUp = true ∧ (s.win k).taking = true ∧ (s.win k).fifo.head?.all isWrite = true ∧ s.fld (F.IND_ADDR_DOMAIN k) = 1 ∧ s.fld (F.IND_ADDR_WADDR k) = 0x41) ∧
    (∃ (s : State) (k : Fin 4) (l : Launch), s.pwr.mainUp = true ∧ (s.win k).launch = some l ∧ l.word = none ∧ l.domain = 1 ∧ l.waddr < 0x42 ∧ (s.win k).fifo.head?.all isWrite = true) ∧
    (∃ (s : State) (k : Fin 4) (ag : Agent) (same : Word) (l : Launch), s.pwr.mainUp = true ∧ (s.win k).launch = some l ∧ l.word = none ∧ l.domain = 1 ∧ l.waddr < 0x41 ∧ (s.win k).fifo = [.read ag 1 same] ∧ (s.win k).taking = false ∧ s.fld (F.IND_CTRL_STRIDE k) = 0) ∧
    (∃ (s : State) (ag : Agent), s.pwr.mainUp = true ∧ (s.win (winOf ag)).fifo.head?.any isWrite = true) ∧
    (∃ (s : State) (ag : Agent) (l : Launch), s.pwr.mainUp = true ∧ (s.win (winOf ag)).fifo = [] ∧ (s.win (winOf ag)).taking = false ∧ (s.win (winOf ag)).launch = some l ∧ l.domain = 0 ∧ l.waddr = Reg.PWR_INT_STATUS ∧ l.word = some 0x1FF ∧ l.sampled = some Reg.PWR_INT_STATUS ∧ l.mark = (0, 0) ∧ s.fld (F.IND_CTRL_STRIDE (winOf ag).val) = 0) ∧
    (∃ (s : State) (ag : Agent) (v : Word) (l : Launch), s.pwr.mainUp = true ∧ (s.win (winOf ag)).fifo = [] ∧ (s.win (winOf ag)).taking = false ∧ (s.win (winOf ag)).launch = some l ∧ l.word = some v ∧ l.domain ≠ 0 ∧ s.fld (F.IND_CTRL_STRIDE (winOf ag).val) = 0) ∧
    (∃ (s : State) (ag : Agent) (v : Word) (l : Launch), s.pwr.mainUp = true ∧ (s.win (winOf ag)).fifo = [] ∧ (s.win (winOf ag)).taking = false ∧ (s.win (winOf ag)).launch = some l ∧ l.word = some v ∧ l.domain ≠ 0 ∧ s.fld (F.IND_CTRL_STRIDE (winOf ag).val) = 1 ∧ s.fld (F.IND_ADDR_DOMAIN (winOf ag).val) = 1 ∧ s.fld (F.IND_ADDR_WADDR (winOf ag).val) < 0x41) ∧
    (∃ (s : State) (ag : Agent), s.pwr.mainUp = true ∧ (s.win (winOf ag)).fifo = [] ∧ (s.win (winOf ag)).taking = false) ∧
    (∃ (s : State) (k : Fin 4), s.pwr.mainUp = true ∧ (s.win k).taking = true ∧ (s.win k).fifo.head?.all isWrite = true) ∧
    (∃ (s : State) (k : Fin 4) (l : Launch), s.pwr.mainUp = true ∧ (s.win k).taking = false ∧ (s.win k).launch = some l ∧ l.word = none ∧ (s.win k).fifo.head?.all isWrite = true) ∧
    (∃ (s : State) (k : Fin 4), s.pwr.mainUp = true ∧ (s.win k).taking = true ∧ (s.win k).fifo.head?.all isWrite = true ∧ s.fld (F.IND_ADDR_DOMAIN k) = 0 ∧ s.fld (F.IND_ADDR_WADDR k) < 2 ^ 22 ∧ (regDef? (s.fld (F.IND_ADDR_WADDR k))).isSome = true ∧ isWinReg (s.fld (F.IND_ADDR_WADDR k)) = false ∧ (regOf (s.fld (F.IND_ADDR_WADDR k))).act = .none ∧ (regOf (s.fld (F.IND_ADDR_WADDR k))).norm = .none ∧ (regOf (s.fld (F.IND_ADDR_WADDR k))).ctr = .none ∧ (regOf (s.fld (F.IND_ADDR_WADDR k))).rwl = 0 ∧ (regOf (s.fld (F.IND_ADDR_WADDR k))).wo = 0 ∧ s.fld (F.IND_ADDR_WADDR k) ≠ Reg.HRTH_FW_STATUS) :=
  ⟨⟨up, .pf0, .data, by decide +kernel⟩,
    ⟨(up.updWin 0 fun w => { w with fifo := List.replicate 16 (.write .pf0 .data 0) }), .pf0, .data, by decide +kernel⟩,
    ⟨(up.updWin 3 fun w => { w with fifo := [.write .test .addr 0x01000041] }), 3, .test, 0x01000041, [], by decide +kernel⟩,
    ⟨(up.updWin 3 fun w => { w with fifo := [.write .test .addr 0x09000000] }), 3, .test, 0x09000000, [], by decide +kernel⟩,
    ⟨(up.updWin 3 fun w => { w with fifo := [.write .test .ctrl 0x103], launch := some ⟨1, 0, none, (0, 0), none⟩ }), 3, .test, 0x103, [], by decide +kernel⟩,
    ⟨((up.setReg (Reg.IND_ADDR 0) 0x01000041).setReg (Reg.IND_CTRL 0) 0x102 |>.setReg (Reg.IND_DATA 0) 5 |>.updWin 0 fun w => { w with taking := true }), 0, by decide +kernel⟩,
    ⟨(up.updWin 2 fun w => { w with launch := some ⟨1, 3, none, (0, 0), none⟩ }), 2, ⟨1, 3, none, (0, 0), none⟩, by decide +kernel⟩,
    ⟨(up.updWin 3 fun w => { w with fifo := [.read .test 1 0], launch := some ⟨1, 3, none, (0, 0), none⟩ }), 3, .test, 0, ⟨1, 3, none, (0, 0), none⟩, by decide +kernel⟩,
    ⟨winPf1, .pf1, by decide +kernel⟩,
    ⟨(({ up with again := [(4 * 0x4004, 4)] } : State).setReg 0x4004 0x1FF |>.updWin 0 fun w => { w with launch := some ⟨0, 0x4004, some 0x1FF, (0, 0), some 0x4004⟩ }), .pf0, ⟨0, 0x4004, some 0x1FF, (0, 0), some 0x4004⟩, by decide +kernel⟩,
    ⟨(up.updWin 3 fun w => { w with launch := some ⟨1, 3, some 8, (0, 0), none⟩ }), .test, 8, ⟨1, 3, some 8, (0, 0), none⟩, by decide +kernel⟩,
    ⟨((up.setReg (Reg.IND_ADDR 0) 0x01000040).setReg (Reg.IND_CTRL 0) 1 |>.updWin 0 fun w => { w with launch := some ⟨1, 0x40, some 8, (0, 0), none⟩ }), .pf0, 8, ⟨1, 0x40, some 8, (0, 0), none⟩, by decide +kernel⟩,
    ⟨(up.setReg (Reg.IND_STATUS 1) 0x3F), .pf1, by decide +kernel⟩,
    ⟨((up.setReg (Reg.IND_ADDR 0) 0x01FFFFFF).setReg (Reg.IND_CTRL 0) 0x101 |>.updWin 0 fun w => { w with taking := true }), 0, by decide +kernel⟩,
    ⟨(up.updWin 2 fun w => { w with launch := some ⟨5, 3, none, (0, 0), none⟩ }), 2, ⟨5, 3, none, (0, 0), none⟩, by decide +kernel⟩,
    ⟨((up.setReg (Reg.IND_ADDR 1) (BitVec.ofNat 32 (Reg.DLN_ADAPT_ENTROPY_MIN 2))).setReg (Reg.IND_CTRL 1) 0x101 |>.setReg (Reg.IND_DATA 1) 7 |>.updWin 1 fun w => { w with taking := true }), 1, by decide +kernel⟩⟩

theorem witness_WindowCommands_2 :
    (∃ (s : State) (k : Fin 4), s.pwr.mainUp = true ∧ (s.win k).taking = true ∧ (s.win k).fifo.head?.all isWrite = true ∧ s.fld (F.IND_ADDR_DOMAIN k) = 0 ∧ 2 ^ 22 ≤ s.fld (F.IND_ADDR_WADDR k) ∧ s.fld (F.IND_ADDR_WADDR k) < 0xC00000 ∧ (regDef? (directAddr (s.fld (F.IND_ADDR_WADDR k)))).isSome = true ∧ isWinReg (directAddr (s.fld (F.IND_ADDR_WADDR k))) = false ∧ (regOf (directAddr (s.fld (F.IND_ADDR_WADDR k)))).act = .none ∧ (regOf (directAddr (s.fld (F.IND_ADDR_WADDR k)))).norm = .none ∧ (regOf (directAddr (s.fld (F.IND_ADDR_WADDR k)))).ctr = .none ∧ (regOf (directAddr (s.fld (F.IND_ADDR_WADDR k)))).rwl = 0 ∧ (regOf (directAddr (s.fld (F.IND_ADDR_WADDR k)))).wo = 0 ∧ (directAddr (s.fld (F.IND_ADDR_WADDR k))) ≠ Reg.HRTH_FW_STATUS ∧ (regOf (directAddr (s.fld (F.IND_ADDR_WADDR k)))).rw.getLsbD (s.fld (F.IND_ADDR_WADDR k) % 32) = true) ∧
    (∃ (s : State) (k : Fin 4), s.pwr.mainUp = true ∧ (s.win k).taking = true ∧ (s.win k).fifo.head?.all isWrite = true ∧ s.fld (F.IND_ADDR_DOMAIN k) = 0 ∧ noRegister (s.fld (F.IND_ADDR_WADDR k)) = true) ∧
    (∃ (s : State) (k : Fin 4) (n : Nat), s.pwr.mainUp = true ∧ (s.win k).taking = true ∧ (s.win k).fifo.head?.all isWrite = true ∧ s.fld (F.IND_ADDR_DOMAIN k) = 2 ∧ s.fld (F.IND_ADDR_WADDR k) = 32 * n + 8 ∧ n < 768) ∧
    (∃ (s : State) (k : Fin 4) (n : Nat), s.pwr.mainUp = true ∧ (s.win k).taking = true ∧ (s.win k).fifo.head?.all isWrite = true ∧ s.fld (F.IND_ADDR_DOMAIN k) = 3 ∧ s.fld (F.IND_ADDR_WADDR k) = 16 * n + 9 ∧ n < 32) ∧
    (∃ (s : State) (k : Fin 4), s.pwr.mainUp = true ∧ (s.win k).taking = true ∧ (s.win k).fifo.head?.all isWrite = true ∧ s.fld (F.IND_ADDR_DOMAIN k) = 4 ∧ s.fld (F.IND_ADDR_WADDR k) / 0x1000 % 4 = 1 ∧ cdBusy s (s.fld (F.IND_ADDR_WADDR k) / 0x4000) = false) ∧
    (∃ (s : State) (k : Fin 4), s.pwr.mainUp = true ∧ (s.win k).taking = true ∧ (s.win k).fifo.head?.all isWrite = true ∧ s.fld (F.IND_ADDR_DOMAIN k) = 5 ∧ s.fld (F.IND_ADDR_WADDR k) < 1024 ∧ s.fld (F.IND_ADDR_WADDR k) % 16 = 4 ∧ s.sky.stopped = false) ∧
    (∃ (s : State) (k : Fin 4) (b : Nat) (n : Nat), s.pwr.mainUp = true ∧ (s.win k).taking = true ∧ (s.win k).fifo.head?.all isWrite = true ∧ s.fld (F.IND_ADDR_DOMAIN k) = 6 ∧ entryOf (s.fld (F.IND_ADDR_WADDR k)) = some (b, n) ∧ s.fld (F.IND_ADDR_WADDR k) + 1 ≠ b + n ∧ s.net.commit = 0) ∧
    (∃ (s : State) (k : Fin 4), s.pwr.mainUp = true ∧ (s.win k).taking = true ∧ (s.win k).fifo.head?.all isWrite = true ∧ s.fld (F.IND_ADDR_DOMAIN k) = 7 ∧ s.fld (F.IND_ADDR_WADDR k) < 0xCC00 ∧ s.fld (F.IND_ADDR_WADDR k) % 8 = 1) ∧
    (∃ (s : State) (k : Fin 4), s.pwr.mainUp = true ∧ (s.win k).taking = true ∧ (s.win k).fifo.head?.all isWrite = true ∧ s.fld (F.IND_ADDR_DOMAIN k) = 8) :=
  ⟨⟨((up.setReg (Reg.IND_ADDR 1) (BitVec.ofNat 32 (2 ^ 22 + entPage.toNat * 2048 + entBit.toNat))).setReg (Reg.IND_CTRL 1) 0x101 |>.setReg (Reg.IND_DATA 1) 7 |>.updWin 1 fun w => { w with taking := true }), 1, by decide +kernel⟩,
    ⟨((up.setReg (Reg.IND_ADDR 3) 0xffffff).setReg (Reg.IND_CTRL 3) 0x101 |>.setReg (Reg.IND_DATA 3) 7 |>.updWin 3 fun w => { w with taking := true }), 3, by decide +kernel⟩,
    ⟨((up.setReg (Reg.IND_ADDR 0) 0x20000a8).setReg (Reg.IND_CTRL 0) 0x101 |>.setReg (Reg.IND_DATA 0) 0x1234567 |>.updWin 0 fun w => { w with taking := true }), 0, 5, by decide +kernel⟩,
    ⟨((up.setReg (Reg.IND_ADDR 0) 0x3000059).setReg (Reg.IND_CTRL 0) 0x101 |>.setReg (Reg.IND_DATA 0) 0x1234567 |>.updWin 0 fun w => { w with taking := true }), 0, 5, by decide +kernel⟩,
    ⟨((up.setReg (Reg.IND_ADDR 0) 0x400d005).setReg (Reg.IND_CTRL 0) 0x101 |>.setReg (Reg.IND_DATA 0) 0x1234567 |>.updWin 0 fun w => { w with taking := true }), 0, by decide +kernel⟩,
    ⟨((up.setReg (Reg.IND_ADDR 0) 0x5000054).setReg (Reg.IND_CTRL 0) 0x101 |>.setReg (Reg.IND_DATA 0) 0x1234567 |>.updWin 0 fun w => { w with taking := true }), 0, by decide +kernel⟩,
    ⟨((up.setReg (Reg.IND_ADDR 0) 0x6000005).setReg (Reg.IND_CTRL 0) 0x101 |>.setReg (Reg.IND_DATA 0) 0x1234567 |>.updWin 0 fun w => { w with taking := true }), 0, ((entryOf 5).getD (0,0)).1, ((entryOf 5).getD (0,0)).2, by decide +kernel⟩,
    ⟨((up.setReg (Reg.IND_ADDR 0) 0x7000051).setReg (Reg.IND_CTRL 0) 0x102 |>.setReg (Reg.IND_DATA 0) 0x1234567 |>.updWin 0 fun w => { w with taking := true }), 0, by decide +kernel⟩,
    ⟨((up.setReg (Reg.IND_ADDR 0) 0x8000051).setReg (Reg.IND_CTRL 0) 0x102 |>.setReg (Reg.IND_DATA 0) 0x1234567 |>.updWin 0 fun w => { w with taking := true }), 0, by decide +kernel⟩⟩

theorem witness_MailboxCommands :
    (∃ (s : State) (ag : Agent) (c : Fin 8) (q : Fin 2), s.pwr.mainUp = true ∧ pf1Denied ag (Reg.MBOX_Q_WR (mboxNo c q)) s = false ∧ maySend s ag (mboxNo c q) = true ∧ (s.mbox (mboxNo c q)).posted = false ∧ (s.mbox (mboxNo c q)).words.length < 16 ∧ ((s.mbox (mboxNo c q)).owner = none ∨ (s.mbox (mboxNo c q)).owner = some (senderId ag))) ∧
    (∃ (s : State) (ag : Agent) (c : Fin 8) (q : Fin 2), s.pwr.mainUp = true ∧ pf1Denied ag (Reg.MBOX_Q_WR (mboxNo c q)) s = false ∧ maySend s ag (mboxNo c q) = false) ∧
    (∃ (s : State) (ag : Agent) (c : Fin 8) (q : Fin 2), s.pwr.mainUp = true ∧ pf1Denied ag (Reg.MBOX_Q_CMD (mboxNo c q)) s = false ∧ maySend s ag (mboxNo c q) = true ∧ (s.mbox (mboxNo c q)).posted = false ∧ (s.mbox (mboxNo c q)).words ≠ [] ∧ (s.mbox (mboxNo c q)).owner = some (senderId ag)) ∧
    (∃ (s : State) (ag : Agent) (c : Fin 8) (q : Fin 2) (x : Word), s.pwr.mainUp = true ∧ pf1Denied ag (Reg.MBOX_Q_CMD (mboxNo c q)) s = false ∧ x &&& 3 = 0 ∧ maySend s ag (mboxNo c q) = true ∧ (s.mbox (mboxNo c q)).posted = false ∧ (s.mbox (mboxNo c q)).owner = some (senderId ag)) ∧
    (∃ (s : State) (ag : Agent) (c : Fin 8) (q : Fin 2) (x : Word), s.pwr.mainUp = true ∧ pf1Denied ag (Reg.MBOX_Q_CMD (mboxNo c q)) s = false ∧ x &&& 1 = 0 ∧ mayReceive ag (mboxNo c q) = true ∧ (s.mbox (mboxNo c q)).posted = true) ∧
    (∃ (s : State) (ag : Agent) (c : Fin 8) (q : Fin 2) (w : Word) (v : Word) (ws : List Word), s.pwr.mainUp = true ∧ mayReceive ag (mboxNo c q) = true ∧ (s.mbox (mboxNo c q)).posted = true ∧ (s.mbox (mboxNo c q)).words = w :: v :: ws) ∧
    (∃ (s : State) (ag : Agent) (c : Fin 8) (q : Fin 2) (w : Word), s.pwr.mainUp = true ∧ mayReceive ag (mboxNo c q) = true ∧ (s.mbox (mboxNo c q)).posted = true ∧ (s.mbox (mboxNo c q)).words = [w]) ∧
    (∃ (s : State) (c : Fin 8) (q : Fin 2), s.pwr.mainUp = true ∧ (s.mbox (mboxNo c q)).arriving ≠ 0) ∧
    (∃ (s : State) (c : Fin 8) (q : Fin 2), s.pwr.mainUp = true ∧ (s.mbox (mboxNo c q)).emptying ≠ 0) ∧
    (∃ (s : State), s.pwr.mainUp = true) :=
  ⟨⟨(up.setReg (Reg.MBOX_Q_MASK 3) 1), .pf0, 1, 1, by decide +kernel⟩,
    ⟨up, .pf0, 1, 1, by decide +kernel⟩,
    ⟨mbPosted0, .pf0, 1, 1, by decide +kernel⟩,
    ⟨mbPosted0, .pf0, 1, 1, 0, by decide +kernel⟩,
    ⟨(mbPosted 3), .pf0, 1, 1, 0, by decide +kernel⟩,
    ⟨(mbPosted 3), .pf0, 1, 1, 7, 8, [], by decide +kernel⟩,
    ⟨(mbOne 3), .test, 1, 1, 7, by decide +kernel⟩,
    ⟨(mbPosted 3), 1, 1, by decide +kernel⟩,
    ⟨(up.updMbox 3 fun m => { m with emptying := 2 }), 1, 1, by decide +kernel⟩,
    ⟨(up.setReg (Reg.MBOX_INT_STATUS 2) 0xFFF), by decide +kernel⟩⟩

theorem witness_InterruptCommands :
    (∃ (s : State), s.pwr.mainUp = true) ∧
    (∃ (s : State) (f : Fin 2) (v : Fin 64), s.pwr.mainUp = true ∧ msixOn s f = true ∧ vecAsserted s f v = true ∧ (s.msix f).asserted.getLsbD v = false ∧ vecMasked s f v = false) ∧
    (∃ (s : State) (f : Fin 2) (v : Fin 64), s.pwr.mainUp = true ∧ msixOn s f = true ∧ vecAsserted s f v = true ∧ (s.msix f).asserted.getLsbD v = false ∧ vecMasked s f v = true) ∧
    (∃ (s : State) (f : Fin 2), s.pwr.mainUp = true ∧ msixOn s f = true ∧ (s.msix f).fnMask = false) ∧
    (∃ (s : State), s.pwr.mainUp = true ∧ s.tlm.held = [] ∧ s.tlm.waiting = []) ∧
    (∃ (s : State) (ag : Agent) (f : Fin 2) (v : Fin 64), s.pwr.mainUp = true ∧ pf1Denied ag Reg.IRQ_EOI s = false ∧ msixOn s f = true ∧ vecAsserted s f v = true ∧ (s.msix f).asserted.getLsbD v = true ∧ vecMasked s f v = false) :=
  ⟨⟨up, by decide +kernel⟩,
    ⟨msixUp, 0, 5, by decide +kernel⟩,
    ⟨(msixUp.updMsix 0 fun m => { m with masked := BitVec.allOnes 64 }), 0, 5, by decide +kernel⟩,
    ⟨(msixUp.updMsix 0 fun m => { m with masked := BitVec.allOnes 64, pba := 32, asserted := 32 }), 0, by decide +kernel⟩,
    ⟨up, by decide +kernel⟩,
    ⟨(msixUp.updMsix 0 fun m => { m with asserted := 32 }), .pf0, 0, 5, by decide +kernel⟩⟩

theorem witness_DataLaneBringUp :
    (∃ (s : State) (ag : Agent) (n : Fin 768) (d : Word), s.pwr.mainUp = true ∧ pf1Denied ag (Reg.DLN_LANE_CTRL n) s = false ∧ s.flag (F.DLN_LANE_CTRL_EN n) = false ∧ s.fld (F.DLN_LANE_CTRL_LOOPBACK n) = bits d 4 2) ∧
    (∃ (s : State) (ag : Agent) (n : Fin 768), s.pwr.mainUp = true ∧ pf1Denied ag (Reg.DLN_LANE_CTRL n) s = false ∧ s.flag (F.DLN_LANE_CTRL_EN n) = true) ∧
    (∃ (s : State) (n : Fin 768), s.pwr.mainUp = true ∧ (s.lane n).on = true) ∧
    (∃ (s : State) (l : LaneId), s.pwr.mainUp = true ∧ (s.lane (laneIdx l)).on = true ∧ (s.lane (laneIdx l)).wait = false ∧ (boardTest s = false ∨ hearsSelf s l = true)) ∧
    (∃ (s : State) (l : LaneId), s.pwr.mainUp = true ∧ boardTest s = true ∧ hearsSelf s l = false) ∧
    (∃ (s : State) (l : LaneId), s.pwr.mainUp = true ∧ (s.lane (laneIdx l)).wait = true) ∧
    (∃ (s : State) (l : LaneId), s.pwr.mainUp = true ∧ (s.lane (laneIdx l)).on = true ∧ s.flag (sigFld l) = true ∧ (s.lane (laneIdx l)).lost = false) ∧
    (∃ (s : State) (n : Fin 768), s.pwr.mainUp = true ∧ (s.lane n).on = true ∧ s.flag (F.DLN_LANE_STATUS_SIGNAL n) = true ∧ (s.lane n).lost = true) ∧
    (∃ (s : State) (n : Fin 768), s.pwr.mainUp = true ∧ (s.lane n).on = true ∧ (s.lane n).phase = 1 ∧ (s.lane n).frozen = false ∧ (s.lane n).lost = false ∧ s.flag (F.DLN_LANE_STATUS_CDR_LOCK n) = true ∧ s.flag (F.DLN_LANE_CTRL_ADAPT_HOLD n) = false) ∧
    (∃ (s : State) (n : Fin 768), s.pwr.mainUp = true ∧ (s.lane n).on = true ∧ (s.lane n).phase = 2 ∧ (s.lane n).lost = false ∧ s.flag (F.DLN_LANE_STATUS_CDR_LOCK n) = true) ∧
    (∃ (s : State) (n : Fin 768) (cdr : Bool), s.pwr.mainUp = true ∧ s.flag (if cdr then F.DLN_LANE_STATUS_CDR_LOCK n else F.DLN_LANE_STATUS_SIGNAL n) = true) ∧
    (∃ (s : State) (ag : Agent) (n : Fin 768) (d : Word), s.pwr.mainUp = true ∧ pf1Denied ag (Reg.DLN_LANE_CTRL n) s = false ∧ s.flag (F.DLN_LANE_CTRL_EN n) = true ∧ d.getLsbD 0 = true ∧ s.fld (F.DLN_LANE_CTRL_LOOPBACK n) = bits d 4 2) ∧
    (∃ (s : State) (ag : Agent) (n : Fin 768) (d : Word), s.pwr.mainUp = true ∧ pf1Denied ag (Reg.DLN_LANE_CTRL n) s = false ∧ s.flag (F.DLN_LANE_CTRL_EN n) = true ∧ (s.lane n).on = true ∧ d.getLsbD 0 = true ∧ d.getLsbD 7 = false ∧ s.fld (F.DLN_LANE_CTRL_LOOPBACK n) ≠ bits d 4 2) :=
  ⟨⟨up, .pf0, 5, 0x42, by decide +kernel⟩,
    ⟨laneUp, .pf0, 5, by decide +kernel⟩,
    ⟨laneUp, 5, by decide +kernel⟩,
    ⟨laneUp, (.data 5), by decide +kernel⟩,
    ⟨inBoard, (.data 5), by decide +kernel⟩,
    ⟨(laneUp.updLane 5 fun l => { l with wait := true }), (.data 5), by decide +kernel⟩,
    ⟨(laneUp.updLane 5 fun l => { l with lost := false }), (.data 5), by decide +kernel⟩,
    ⟨(laneUp.updLane 5 fun l => { l with lost := true }), 5, by decide +kernel⟩,
    ⟨(laneUp.updLane 5 fun l => { l with phase := 1 }), 5, by decide +kernel⟩,
    ⟨laneUp, 5, by decide +kernel⟩,
    ⟨laneUp, 5, true, by decide +kernel⟩,
    ⟨laneUp, .pf0, 5, 1, by decide +kernel⟩,
    ⟨laneUp, .pf0, 5, 0x13, by decide +kernel⟩⟩

theorem witness_LowDensityFreezesALane :
    (∃ (s : State) (n : Fin 768) (c : Nat), s.pwr.mainUp = true ∧ (s.lane n).on = true ∧ s.flag (F.DLN_LANE_STATUS_CDR_LOCK n) = true ∧ (s.lane n).frozen = true ∧ min (c / 64) 255 < s.fld (F.DLN_ADAPT_ENTROPY_MIN_MIN (n / 4))) ∧
    (∃ (s : State) (n : Fin 768) (c : Nat), s.pwr.mainUp = true ∧ (s.lane n).on = true ∧ s.flag (F.DLN_LANE_STATUS_CDR_LOCK n) = true ∧ (s.lane n).frozen = true ∧ s.fld (F.DLN_ADAPT_ENTROPY_MIN_MIN (n / 4)) ≤ min (c / 64) 255 ∧ s.fld (F.DLN_DENSITY_RESUME_COUNT n) + 1 < 256) ∧
    (∃ (s : State) (n : Fin 768) (c : Nat), s.pwr.mainUp = true ∧ (s.lane n).on = true ∧ s.flag (F.DLN_LANE_STATUS_CDR_LOCK n) = true ∧ (s.lane n).frozen = true ∧ s.fld (F.DLN_ADAPT_ENTROPY_MIN_MIN (n / 4)) ≤ min (c / 64) 255 ∧ s.fld (F.DLN_DENSITY_RESUME_COUNT n) + 1 = 256) ∧
    (∃ (s : State) (n : Fin 768) (c : Nat), s.pwr.mainUp = true ∧ (s.lane n).on = true ∧ s.flag (F.DLN_LANE_STATUS_CDR_LOCK n) = true ∧ (s.lane n).frozen = false ∧ (s.lane n).phase = 2 ∧ (s.lane n).lost = false ∧ s.flag (F.DLN_LANE_CTRL_ADAPT_HOLD n) = false ∧ s.fld (F.DLN_ADAPT_ENTROPY_MIN_MIN (n / 4)) ≤ min (c / 64) 255) ∧
    (∃ (s : State) (n : Fin 768) (c : Nat), s.pwr.mainUp = true ∧ (s.lane n).on = true ∧ s.flag (F.DLN_LANE_STATUS_CDR_LOCK n) = true ∧ (s.lane n).frozen = false ∧ (s.lane n).lost = true ∧ s.fld (F.DLN_ADAPT_ENTROPY_MIN_MIN (n / 4)) ≤ min (c / 64) 255) ∧
    (∃ (s : State) (n : Fin 768) (c : Nat), s.pwr.mainUp = true ∧ (s.lane n).on = true ∧ s.flag (F.DLN_LANE_STATUS_CDR_LOCK n) = true ∧ (s.lane n).frozen = false ∧ min (c / 64) 255 < s.fld (F.DLN_ADAPT_ENTROPY_MIN_MIN (n / 4))) ∧
    (∃ (s : State) (ag : Agent) (n : Fin 768) (d : Word), s.pwr.mainUp = true ∧ pf1Denied ag (Reg.DLN_LANE_CTRL n) s = false ∧ s.flag (F.DLN_LANE_CTRL_EN n) = true ∧ d.getLsbD 0 = true ∧ d.getLsbD 7 = false ∧ s.fld (F.DLN_LANE_CTRL_LOOPBACK n) = bits d 4 2) :=
  ⟨⟨laneFrozen, 5, 64, by decide +kernel⟩,
    ⟨laneFrozen, 5, 6144, by decide +kernel⟩,
    ⟨(laneFrozen.setFld (F.DLN_DENSITY_RESUME_COUNT 5) 255), 5, 6144, by decide +kernel⟩,
    ⟨laneUp, 5, 6144, by decide +kernel⟩,
    ⟨(laneUp.updLane 5 fun l => { l with lost := true }), 5, 6144, by decide +kernel⟩,
    ⟨laneUp, 5, 6143, by decide +kernel⟩,
    ⟨laneFrozen, .pf0, 5, 0x41, by decide +kernel⟩⟩

theorem witness_PresetsApplyWhole :
    (∃ (s : State) (k : Fin 4), s.pwr.mainUp = true ∧ (k = 1 → s.rbit Reg.HOST_PF1_WRITE_EN 6 = true)) ∧
    (∃ (s : State) (k : Fin 4) (n : Fin 768) (d : Word), s.pwr.mainUp = true ∧ (k = 1 → s.rbit Reg.HOST_PF1_WRITE_EN 6 = true) ∧ tapMag (bits (s.indw 2 (n * 32)) 0 8) + tapMag (bits (s.indw 2 (n * 32)) 8 8) + tapMag (bits (s.indw 2 (n * 32)) 16 8) + tapMag (bits (s.indw 2 (n * 32)) 24 8) + bits d 0 8 ≤ 128) ∧
    (∃ (s : State) (k : Fin 4) (n : Fin 768) (d : Word), s.pwr.mainUp = true ∧ (k = 1 → s.rbit Reg.HOST_PF1_WRITE_EN 6 = true) ∧ 128 < tapMag (bits (s.indw 2 (n * 32)) 0 8) + tapMag (bits (s.indw 2 (n * 32)) 8 8) + tapMag (bits (s.indw 2 (n * 32)) 16 8) + tapMag (bits (s.indw 2 (n * 32)) 24 8) + bits d 0 8) ∧
    (∃ (s : State) (k : Fin 4) (d : Word), s.pwr.mainUp = true ∧ (k = 1 → s.rbit Reg.HOST_PF1_WRITE_EN 7 = true) ∧ tapMag (bits d 0 8) + bits d 8 8 + tapMag (bits d 16 8) ≤ 128) ∧
    (∃ (s : State) (k : Fin 4) (d : Word), s.pwr.mainUp = true ∧ (k = 1 → s.rbit Reg.HOST_PF1_WRITE_EN 7 = true) ∧ 128 < tapMag (bits d 0 8) + bits d 8 8 + tapMag (bits d 16 8)) ∧
    (∃ (s : State), s.pwr.mainUp = true ∧ s.rbit Reg.HOST_PF1_WRITE_EN 6 = false) :=
  ⟨⟨up, 0, by decide +kernel⟩,
    ⟨(up.setIndw 2 160 0xFAF40300), 1, 5, 0x6B, by decide +kernel⟩,
    ⟨(up.setIndw 2 160 0xFAF40300), 0, 5, 0x6C, by decide +kernel⟩,
    ⟨up, 0, 0x00F07000, by decide +kernel⟩,
    ⟨up, 0, 0x00F07100, by decide +kernel⟩,
    ⟨pf1Off, by decide +kernel⟩⟩

theorem witness_BoundPairsAreChecked :
    (∃ (s : State) (k : Fin 4), s.pwr.mainUp = true ∧ (k = 1 → s.rbit Reg.HOST_PF1_WRITE_EN 6 = true)) ∧
    (∃ (s : State) (k : Fin 4), s.pwr.mainUp = true ∧ (k = 1 → s.rbit Reg.HOST_PF1_WRITE_EN 7 = true)) :=
  ⟨⟨up, 0, by decide +kernel⟩,
    ⟨up, 0, by decide +kernel⟩⟩

theorem witness_AuxiliaryLanes :
    (∃ (s : State) (ag : Agent) (m : Fin 32) (d : Word), s.pwr.mainUp = true ∧ pf1Denied ag (Reg.ALN_CTRL m) s = false ∧ s.flag (F.ALN_CTRL_EN m) = false ∧ bits d 8 2 = s.fld (F.ALN_CTRL_LOOPBACK m) ∧ d.getLsbD 12 = false ∧ (bits d 4 2 ≠ 0 ∨ bits d 1 2 = 0)) ∧
    (∃ (s : State) (ag : Agent) (m : Fin 32) (d : Word), s.pwr.mainUp = true ∧ pf1Denied ag (Reg.ALN_CTRL m) s = false ∧ s.flag (F.ALN_CTRL_EN m) = false ∧ bits d 8 2 = s.fld (F.ALN_CTRL_LOOPBACK m) ∧ d.getLsbD 12 = false ∧ bits d 4 2 = 0 ∧ bits d 1 2 ≠ 0) ∧
    (∃ (s : State) (ag : Agent) (m : Fin 32) (d : Word), s.pwr.mainUp = true ∧ pf1Denied ag (Reg.ALN_CTRL m) s = false ∧ s.flag (F.ALN_CTRL_EN m) = true ∧ d.getLsbD 12 = false) ∧
    (∃ (s : State) (m : Fin 32), s.pwr.mainUp = true ∧ (s.lane (768 + m)).on = true ∧ s.flag (F.ALN_LANE_STATUS_CDR_LOCK m) = true ∧ s.flag (F.ALN_LANE_STATUS_SYNC m) = false ∧ (s.lane (768 + m)).acq = 6) ∧
    (∃ (s : State) (m : Fin 32), s.pwr.mainUp = true ∧ (s.flag (F.ALN_LANE_STATUS_SYNC m) = true ∨ (s.lane (768 + m)).acq ≠ 6)) ∧
    (∃ (s : State) (m : Fin 32), s.pwr.mainUp = true ∧ (s.lane (768 + m)).on = true ∧ (s.lane (768 + m)).mode = 0 ∧ s.flag (F.ALN_LANE_STATUS_SYNC m) = true ∧ s.flag (F.ALN_CTRL_AN_EN m) = true) ∧
    (∃ (s : State) (m : Fin 32), s.pwr.mainUp = true ∧ s.flag (F.ALN_LANE_STATUS_SYNC m) = true) ∧
    (∃ (s : State) (ag : Agent) (m : Fin 32) (d : Word), s.pwr.mainUp = true ∧ pf1Denied ag (Reg.ALN_CTRL m) s = false ∧ s.flag (F.ALN_CTRL_EN m) = d.getLsbD 0 ∧ bits d 8 2 = s.fld (F.ALN_CTRL_LOOPBACK m) ∧ s.flag (F.ALN_LANE_STATUS_SYNC m) = true) ∧
    (∃ (s : State) (m : Fin 32) (cdr : Bool), s.pwr.mainUp = true ∧ s.flag (if cdr then F.ALN_LANE_STATUS_CDR_LOCK m else F.ALN_LANE_STATUS_SIGNAL m) = true) ∧
    (∃ (s : State) (m : Fin 32) (slot : Fin 2) (ch : Nat) (g : BitVec 10), s.pwr.mainUp = true ∧ (s.lane (768 + m)).on = true ∧ (s.lane (768 + m)).mode ≠ 2 ∧ s.flag (F.ALN_LANE_STATUS_SYNC m) = true ∧ (isK285 (rev10 (heardGroup m slot g s).toNat) = false ∨ slot = 0) ∧ decodeAt (s.flag (F.ALN_LANE_STATUS_RD m)) (rev10 (heardGroup m slot g s).toNat) = some ch) ∧
    (∃ (s : State) (m : Fin 32) (slot : Fin 2) (ch : Nat) (g : BitVec 10), s.pwr.mainUp = true ∧ (s.lane (768 + m)).on = true ∧ (s.lane (768 + m)).mode ≠ 2 ∧ s.flag (F.ALN_LANE_STATUS_SYNC m) = true ∧ (isK285 (rev10 (heardGroup m slot g s).toNat) = false ∨ slot = 0) ∧ decodeAt (s.flag (F.ALN_LANE_STATUS_RD m)) (rev10 (heardGroup m slot g s).toNat) = none ∧ decodeAt (!s.flag (F.ALN_LANE_STATUS_RD m)) (rev10 (heardGroup m slot g s).toNat) = some ch) ∧
    (∃ (s : State) (m : Fin 32) (slot : Fin 2) (g : BitVec 10), s.pwr.mainUp = true ∧ (s.lane (768 + m)).on = true ∧ (s.lane (768 + m)).mode ≠ 2 ∧ s.flag (F.ALN_LANE_STATUS_SYNC m) = true ∧ decodeAt (s.flag (F.ALN_LANE_STATUS_RD m)) (rev10 (heardGroup m slot g s).toNat) = none ∧ decodeAt (!s.flag (F.ALN_LANE_STATUS_RD m)) (rev10 (heardGroup m slot g s).toNat) = none ∧ isK285 (rev10 (heardGroup m slot g s).toNat) = false) ∧
    (∃ (s : State) (m : Fin 32) (slot : Fin 2) (g : BitVec 10), s.pwr.mainUp = true ∧ (s.lane (768 + m)).on = true ∧ s.flag (F.ALN_LANE_STATUS_SYNC m) = true ∧ isK285 (rev10 (heardGroup m slot g s).toNat) = true ∧ (s.lane (768 + m)).misplaced = false) ∧
    (∃ (s : State) (m : Fin 32) (ch : Nat) (g : BitVec 10), s.pwr.mainUp = true ∧ (s.lane (768 + m)).on = true ∧ (s.lane (768 + m)).mode = 2 ∧ s.flag (F.ALN_LANE_STATUS_SYNC m) = true ∧ decodeAt (s.flag (F.ALN_LANE_STATUS_RD m)) (rev10 (heardGroup m 0 g s).toNat) = some ch ∧ ch < 512) ∧
    (∃ (s : State) (m : Fin 32) (g : BitVec 10) (c : Nat), s.pwr.mainUp = true ∧ (s.lane (768 + m)).on = true ∧ s.flag (F.ALN_LANE_STATUS_SYNC m) = false ∧ c = rev10 (heardGroup m 0 g s).toNat ∧ isK285 c = true ∧ (s.lane (768 + m)).acq = 0 ∧ (s.lane (768 + m)).mode ≠ 2) ∧
    (∃ (s : State) (m : Fin 32) (g : BitVec 10) (c : Nat) (ch : Nat), s.pwr.mainUp = true ∧ (s.lane (768 + m)).on = true ∧ s.flag (F.ALN_LANE_STATUS_SYNC m) = false ∧ c = rev10 (heardGroup m 0 g s).toNat ∧ (isK285 c = false ∨ (s.lane (768 + m)).acq ≠ 0) ∧ (s.lane (768 + m)).mode ≠ 2 ∧ decodeAt (s.flag (F.ALN_LANE_STATUS_RD m)) c = some ch) :=
  ⟨⟨up, .pf0, 3, 0x12, by decide +kernel⟩,
    ⟨up, .pf0, 3, 2, by decide +kernel⟩,
    ⟨alnUp, .pf0, 3, 1, by decide +kernel⟩,
    ⟨((alnUp.setFlag (F.ALN_LANE_STATUS_SYNC 3) false).updLane 771 fun l => { l with acq := 6 }), 3, by decide +kernel⟩,
    ⟨alnUp, 3, by decide +kernel⟩,
    ⟨(alnUp.updLane 771 fun l => { l with mode := 0 }), 3, by decide +kernel⟩,
    ⟨alnUp, 3, by decide +kernel⟩,
    ⟨alnUp, .pf0, 3, 0x11, by decide +kernel⟩,
    ⟨alnUp, 3, false, by decide +kernel⟩,
    ⟨alnUp, 3, 1, 0, 0b0010111001, by decide +kernel⟩,
    ⟨alnUp, 3, 1, 0, 0b1101000110, by decide +kernel⟩,
    ⟨alnUp, 3, 1, 0, by decide +kernel⟩,
    ⟨alnUp, 3, 1, 0b0101111100, by decide +kernel⟩,
    ⟨(alnUp.updLane 771 fun l => { l with mode := 2 }), 3, 0, 0b0010111001, by decide +kernel⟩,
    ⟨(alnUp.setFlag (F.ALN_LANE_STATUS_SYNC 3) false), 3, 0b0101111100, 0b0011111010, by decide +kernel⟩,
    ⟨((alnUp.setFlag (F.ALN_LANE_STATUS_SYNC 3) false).updLane 771 fun l => { l with acq := 1 }), 3, 0b0010111001, (rev10 0b0010111001), ((decodeAt false (rev10 0b0010111001)).getD 0), by decide +kernel⟩⟩

theorem witness_AuxiliaryLanes_2 :
    (∃ (s : State) (m : Fin 32) (g : BitVec 10) (c : Nat), s.pwr.mainUp = true ∧ (s.lane (768 + m)).on = true ∧ s.flag (F.ALN_LANE_STATUS_SYNC m) = false ∧ c = rev10 (heardGroup m 0 g s).toNat ∧ isK285 c = false ∧ (s.lane (768 + m)).mode ≠ 2 ∧ decodeAt false c = none ∧ decodeAt true c = none) ∧
    (∃ (s : State) (m : Fin 32) (ch : Nat) (g : BitVec 10), s.pwr.mainUp = true ∧ (s.lane (768 + m)).on = true ∧ (s.lane (768 + m)).mode = 2 ∧ s.flag (F.ALN_LANE_STATUS_SYNC m) = false ∧ isK285 (rev10 (heardGroup m 0 g s).toNat) = false ∧ decodeAt (s.flag (F.ALN_LANE_STATUS_RD m)) (rev10 (heardGroup m 0 g s).toNat) = some ch ∧ ch < 512) ∧
    (∃ (s : State) (m : Fin 32), s.fld (F.ALN_CTRL_LOOPBACK m) = 0) :=
  ⟨⟨((alnUp.setFlag (F.ALN_LANE_STATUS_SYNC 3) false).updLane 771 fun l => { l with acq := 4 }), 3, 0, 0, by decide +kernel⟩,
    ⟨((alnUp.setFlag (F.ALN_LANE_STATUS_SYNC 3) false).updLane 771 fun l => { l with mode := 2 }), 3, ((decodeAt false (rev10 0b0010111001)).getD 0), 0b0010111001, by decide +kernel⟩,
    ⟨(alnUp.setFlag (F.ALN_CTRL_RX_INV 3) true), 3, by decide +kernel⟩⟩

theorem witness_LaneTestAndClock :
    (∃ (s : State) (l : LaneId) (hist : BitVec 128) (ws : List (BitVec 128)), s.pwr.mainUp = true ∧ (s.lane (laneIdx l)).on = true ∧ s.fld (chkPatFld l) ≠ 0 ∧ s.flag (prbsLockedFld l) = false ∧ heardWords l ws s = (upto 256).map (fun i => histWord (wordBits l) (patternAfter l (s.fld (chkPatFld l)) (i + 1) hist))) ∧
    (∃ (s : State) (l : LaneId) (ws : List (BitVec 128)), s.pwr.mainUp = true ∧ (s.lane (laneIdx l)).on = true ∧ s.fld (chkPatFld l) ≠ 0 ∧ s.flag (prbsLockedFld l) = false ∧ ws.length < 256) ∧
    (∃ (s : State) (l : LaneId) (w : BitVec 128), s.pwr.mainUp = true ∧ (s.lane (laneIdx l)).on = true ∧ s.fld (chkPatFld l) ≠ 0 ∧ s.flag (prbsLockedFld l) = true ∧ (wordErrors l (s.fld (chkPatFld l)) (s.lane (laneIdx l)).chkRef (heardWord s l (wordIndex s l) w) = 0 ∨ (s.lane (laneIdx l)).chkBad < 63)) ∧
    (∃ (s : State) (l : LaneId) (ws : List (BitVec 128)), s.pwr.mainUp = true ∧ (s.lane (laneIdx l)).on = true ∧ s.fld (chkPatFld l) ≠ 0 ∧ s.flag (prbsLockedFld l) = true ∧ (s.lane (laneIdx l)).chkBad = 0 ∧ ws.length = 64 ∧ (∀ i ∈ List.range 64, wordErrors l (s.fld (chkPatFld l)) (patternAfter l (s.fld (chkPatFld l)) i (s.lane (laneIdx l)).chkRef) (nth 0 (heardWords l ws s) i) ≠ 0)) ∧
    (∃ (s : State) (l : LaneId), s.pwr.mainUp = true ∧ (s.lane (laneIdx l)).on = false) ∧
    (∃ (s : State) (ag : Agent) (n : Fin 768) (d : Word), s.pwr.mainUp = true ∧ pf1Denied ag (Reg.DLN_PRBS_CTRL n) s = false ∧ bits d 0 4 = 0) ∧
    (∃ (s : State) (ag : Agent) (m : Fin 32), s.pwr.mainUp = true ∧ pf1Denied ag (Reg.ALN_PRBS_CTRL m) s = false) ∧
    (∃ (s : State) (ag : Agent) (n : Fin 768), s.pwr.mainUp = true ∧ pf1Denied ag (Reg.DLN_ERR_INJ n) s = false) ∧
    (∃ (s : State) (n : Fin 768), s.pwr.mainUp = true ∧ s.fld (F.DLN_ERR_INJ_PERIOD n) ≠ 0 ∧ (s.lane n).on = true) ∧
    (∃ (s : State) (n : Fin 768) (fill : Nat), s.pwr.mainUp = true ∧ (s.lane n).on = true ∧ s.fld (F.DLN_LANE_CTRL_LOOPBACK n) = 3 ∧ (fill ≤ 2 ∨ 30 ≤ fill)) ∧
    (∃ (s : State) (m : Fin 32) (fill : Nat), s.pwr.mainUp = true ∧ (s.lane (768 + m)).on = true ∧ s.fld (F.ALN_CTRL_LOOPBACK m) = 3 ∧ (fill ≤ 2 ∨ 30 ≤ fill)) ∧
    (∃ (s : State), s.pwr.mainUp = true) ∧
    (∃ (s : State) (k : Fin 6), s.pwr.mainUp = true ∧ s.pllLocked k = true) :=
  ⟨⟨chkFrom, (.aux 3), 1000, (chkWords 256), by decide +kernel, by decide +kernel, by decide +kernel, by decide +kernel, heardWords_plain _ _ _ (by decide +kernel)⟩,
    ⟨(laneUp.setFld (F.DLN_PRBS_CTRL_CHK_PAT 5) 3), (.data 5), [2, 7], by decide +kernel⟩,
    ⟨(chkUp 62), (.data 5), 2, by decide +kernel⟩,
    ⟨(chkAux 0), (.aux 3), (List.replicate 64 0), by decide +kernel⟩,
    ⟨up, (.data 5), by decide +kernel⟩,
    ⟨(laneUp.setFlag (F.DLN_LANE_STATUS_PRBS_LOCKED 5) true), .pf0, 5, 0x300, by decide +kernel⟩,
    ⟨up, .pf0, 3, by decide +kernel⟩,
    ⟨up, .pf0, 5, by decide +kernel⟩,
    ⟨(laneUp.setFld (F.DLN_ERR_INJ_PERIOD 5) 1), 5, by decide +kernel⟩,
    ⟨((laneUp.setFld (F.DLN_LANE_CTRL_LOOPBACK 5) 3).updLane 5 fun l => { l with rxWords := (upto 20).map fun i => BitVec.ofNat 128 (i + 50) }), 5, 2, by decide +kernel⟩,
    ⟨(alnUp.setFld (F.ALN_CTRL_LOOPBACK 3) 3), 3, 30, by decide +kernel⟩,
    ⟨(up.updLane 5 fun l => { l with wait := true }), by decide +kernel⟩,
    ⟨{ up with lanePll := 4 }, 2, by decide +kernel⟩⟩

theorem witness_IncrementsAreRangeChecked :
    (∃ (s : State) (ag : Agent) (d : Word), s.pwr.mainUp = true ∧ pf1Denied ag Reg.TBASE_CMD s = false ∧ tbFormat s ≠ 0 ∧ s.tb.pend = none ∧ bits d 0 6 = 0 ∧ 0x014784230FCF81 ≤ s.reg64 Reg.TBASE_INC_LO Reg.TBASE_INC_HI ∧ s.reg64 Reg.TBASE_INC_LO Reg.TBASE_INC_HI ≤ 0x0147D805E5F30F) ∧
    (∃ (s : State) (ag : Agent) (d : Word), s.pwr.mainUp = true ∧ pf1Denied ag Reg.TBASE_CMD s = false ∧ tbFormat s ≠ 0 ∧ s.tb.pend = none ∧ bits d 0 6 = 0 ∧ ¬(0x014784230FCF81 ≤ s.reg64 Reg.TBASE_INC_LO Reg.TBASE_INC_HI ∧ s.reg64 Reg.TBASE_INC_LO Reg.TBASE_INC_HI ≤ 0x0147D805E5F30F)) ∧
    (∃ (s : State) (ag : Agent) (d : Word), s.pwr.mainUp = true ∧ pf1Denied ag Reg.TBASE_CMD s = false ∧ tbFormat s ≠ 0 ∧ s.tb.pend = none ∧ bits d 0 6 = 1 ∧ ¬(0x014784230FCF81 ≤ s.reg64 Reg.TBASE_INC_LO Reg.TBASE_INC_HI ∧ s.reg64 Reg.TBASE_INC_LO Reg.TBASE_INC_HI ≤ 0x0147D805E5F30F) ∧ ¬(tbFormat s = 1 ∧ 1000000000 ≤ (s.reg Reg.TBASE_LOAD1).toNat)) ∧
    (∃ (s : State) (ag : Agent) (d : Word), s.pwr.mainUp = true ∧ pf1Denied ag Reg.TBASE_CMD s = false ∧ tbFormat s ≠ 0 ∧ s.tb.pend = none ∧ bits d 0 6 = 1 ∧ ¬(0x014784230FCF81 ≤ s.reg64 Reg.TBASE_INC_LO Reg.TBASE_INC_HI ∧ s.reg64 Reg.TBASE_INC_LO Reg.TBASE_INC_HI ≤ 0x0147D805E5F30F) ∧ 0 ≤ ((if d.getLsbD 8 then armValue s else s.tb.value : Nat) : Int) + stepAmount s) :=
  ⟨⟨(tbUp.setReg64 Reg.TBASE_INC_LO Reg.TBASE_INC_HI 0x014784230FCF81), .pf0, 0, by decide +kernel⟩,
    ⟨(tbUp.setReg64 Reg.TBASE_INC_LO Reg.TBASE_INC_HI 0x0147D805E5F310), .pf0, 0, by decide +kernel⟩,
    ⟨(tbUp.setReg64 Reg.TBASE_INC_LO Reg.TBASE_INC_HI 0x014784230FCF80), .pf0, 1, by decide +kernel⟩,
    ⟨(tbUp.setReg64 Reg.TBASE_INC_LO Reg.TBASE_INC_HI 0), .pf0, 0x101, by decide +kernel⟩⟩

theorem witness_OneTimeCommandPends :
    (∃ (s : State) (ag : Agent) (d : Word) (p : TbPend) (c : Instr), s.pwr.mainUp = true ∧ pf1Denied ag Reg.TBASE_CMD s = false ∧ tbFormat s ≠ 0 ∧ s.tb.pend = some p ∧ bits d 1 5 = 0 ∧ c ∈ [Instr.applyInc ag d, .step ag d, .load ag d]) ∧
    (∃ (s : State) (ag : Agent) (d : Word) (p : TbPend), s.pwr.mainUp = true ∧ pf1Denied ag Reg.TBASE_CMD s = false ∧ tbFormat s ≠ 0 ∧ s.tb.pend = some p ∧ bits d 0 6 = 0 ∧ 1 ≤ tbDue p s) ∧
    (∃ (s : State) (ag : Agent) (d : Word) (p : TbPend), s.pwr.mainUp = true ∧ pf1Denied ag Reg.TBASE_CMD s = false ∧ tbFormat s ≠ 0 ∧ s.tb.pend = some p ∧ bits d 0 6 = 0 ∧ tbDue p s = 0) ∧
    (∃ (s : State) (ag : Agent) (d : Word), s.pwr.mainUp = true ∧ pf1Denied ag Reg.TBASE_CMD s = false ∧ tbFormat s ≠ 0 ∧ s.tb.pend = none ∧ bits d 0 6 = 0) ∧
    (∃ (s : State) (ag : Agent) (d : Word), s.pwr.mainUp = true ∧ pf1Denied ag Reg.TBASE_CMD s = false ∧ tbFormat s ≠ 0 ∧ bits d 0 6 = 16 ∧ (∀ p, s.tb.pend = some p → 1 ≤ tbDue p s) ∧ ¬(tbFormat s = 1 ∧ 1000000000 ≤ (s.reg Reg.TBASE_LOAD1).toNat)) ∧
    (∃ (s : State) (ag : Agent) (d : Word) (p : TbPend), s.pwr.mainUp = true ∧ pf1Denied ag Reg.TBASE_CMD s = false ∧ tbFormat s ≠ 0 ∧ bits d 0 6 = 16 ∧ s.tb.pend = some p ∧ tbDue p s = 0) ∧
    (∃ (s : State) (p : TbPend), s.pwr.mainUp = true ∧ s.pwr.oclkUp = true ∧ s.pwr.ovenUp = true ∧ tbFormat s ≠ 0 ∧ s.tb.pend = some p ∧ p.xstep = false ∧ p.dispute = false ∧ (∀ a, p.arm = some a → a + incCur s ≤ tbWrap (tbFormat s))) :=
  ⟨⟨tbPend, .pf0, 0, tbP, (.step .pf0 0), by decide +kernel⟩,
    ⟨tbPend, .pf0, 0, tbP, by decide +kernel⟩,
    ⟨{ tbPend with clk := { tclk := 1024 } }, .pf0, 0, tbP, by decide +kernel⟩,
    ⟨tbUp, .pf0, 0, by decide +kernel⟩,
    ⟨tbPend, .pf0, 16, by and_intros <;> first | decide +kernel⟩,
    ⟨{ tbPend with clk := { tclk := 1024 } }, .pf0, 16, tbP, by decide +kernel⟩,
    ⟨tbPend, tbP, by and_intros <;> first | decide +kernel⟩⟩

theorem witness_TimeBaseCommands :
    (∃ (s : State) (ag : Agent) (d : Word), s.pwr.mainUp = true ∧ pf1Denied ag Reg.TBASE_CTRL s = false ∧ s.fld F.TBASE_CTRL_FORMAT = 0 ∧ (d.toNat % 4 = 1 ∨ d.toNat % 4 = 2)) ∧
    (∃ (s : State) (ag : Agent) (d : Word), s.pwr.mainUp = true ∧ pf1Denied ag Reg.TBASE_CTRL s = false ∧ (d.toNat % 4 = 0 ∨ d.toNat % 4 = 3)) ∧
    (∃ (s : State) (ag : Agent) (d : Word), s.pwr.mainUp = true ∧ pf1Denied ag Reg.TBASE_CTRL s = false ∧ s.fld F.TBASE_CTRL_FORMAT ≠ 0 ∧ (d.toNat % 4 = 1 ∨ d.toNat % 4 = 2)) ∧
    (∃ (s : State) (ag : Agent) (d : Word) (c : Instr), s.pwr.mainUp = true ∧ pf1Denied ag Reg.TBASE_CMD s = false ∧ tbFormat s = 0 ∧ c ∈ [Instr.applyInc ag d, .step ag d, .load ag d, .snap ag d, .cancel ag d, .clrOutage ag d]) ∧
    (∃ (s : State) (ag : Agent) (d : Word), s.pwr.mainUp = true ∧ pf1Denied ag Reg.TBASE_CMD s = false ∧ tbFormat s ≠ 0 ∧ d.getLsbD 2 = true) ∧
    (∃ (s : State) (ag : Agent) (d : Word), s.pwr.mainUp = true ∧ pf1Denied ag Reg.TBASE_CMD s = false ∧ tbFormat s ≠ 0 ∧ s.tb.pend = none ∧ bits d 0 6 = 0 ∧ ((if d.getLsbD 8 then armValue s else s.tb.value : Nat) : Int) + stepAmount s < 0) ∧
    (∃ (s : State) (ag : Agent) (d : Word), s.pwr.mainUp = true ∧ pf1Denied ag Reg.TBASE_CMD s = false ∧ tbFormat s ≠ 0 ∧ s.tb.pend = none ∧ bits d 0 6 = 0 ∧ 0 ≤ ((if d.getLsbD 8 then armValue s else s.tb.value : Nat) : Int) + stepAmount s) ∧
    (∃ (s : State) (ag : Agent) (d : Word), s.pwr.mainUp = true ∧ pf1Denied ag Reg.TBASE_CMD s = false ∧ tbFormat s = 1 ∧ s.tb.pend = none ∧ bits d 0 6 = 0 ∧ 1000000000 ≤ (s.reg Reg.TBASE_LOAD1).toNat) ∧
    (∃ (s : State) (ag : Agent) (d : Word), s.pwr.mainUp = true ∧ pf1Denied ag Reg.TBASE_CMD s = false ∧ tbFormat s ≠ 0 ∧ bits d 0 6 = 0) ∧
    (∃ (s : State) (acc : Nat) (rest : List Nat), s.pwr.mainUp = true ∧ s.pwr.oclkUp = true ∧ s.pwr.ovenUp = true ∧ tbFormat s ≠ 0 ∧ s.tb.starting = false ∧ s.tb.snaps = acc :: rest ∧ (∀ a ∈ rest.head?, max (acc + 8) s.clk.tclk < a + 8) ∧ (∀ p, s.tb.pend = some p → acc + 8 - s.clk.tclk < tbDue p s)) ∧
    (∃ (s : State) (p : TbPend) (op : TbOp), s.pwr.mainUp = true ∧ s.pwr.oclkUp = true ∧ s.pwr.ovenUp = true ∧ tbFormat s ≠ 0 ∧ s.tb.starting = false ∧ s.tb.pend = some p ∧ p.op = some op ∧ p.xstep = false ∧ p.dispute = false ∧ (∀ a, p.arm = some a → a + incCur s ≤ tbWrap (tbFormat s))) :=
  ⟨⟨up, .pf0, 2, by decide +kernel⟩,
    ⟨tbUp, .pf0, 3, by decide +kernel⟩,
    ⟨tbUp, .pf0, 2, by decide +kernel⟩,
    ⟨up, .pf0, 0x100, (.snap .pf0 0x100), by decide +kernel⟩,
    ⟨tbUp, .pf0, 0x11D, by decide +kernel⟩,
    ⟨(tbUp.setReg64 Reg.TBASE_STEP_LO Reg.TBASE_STEP_HI (2 ^ 64 - 8)), .pf0, 0, by decide +kernel⟩,
    ⟨(tbUp.setReg64 Reg.TBASE_STEP_LO Reg.TBASE_STEP_HI 7), .pf0, 0x100, by decide +kernel⟩,
    ⟨(tbUp.setReg Reg.TBASE_LOAD1 1000000000), .pf0, 0, by decide +kernel⟩,
    ⟨tbUp, .pf0, 0, by decide +kernel⟩,
    ⟨(tbUp.updTb fun t => { t with snaps := [0] }), 0, [], by and_intros <;> first | decide +kernel⟩,
    ⟨tbPend, tbP, (.step 5), by and_intros <;> first | decide +kernel⟩⟩

theorem witness_PulseOutputsAndTransmitRecords :
    (∃ (s : State) (ag : Agent) (k : Fin 5), s.pwr.mainUp = true ∧ pf1Denied ag (Reg.TBASE_OUT_CTRL k) s = false ∧ s.flag (F.TBASE_OUT_CTRL_EN k) = false) ∧
    (∃ (s : State) (ag : Agent) (k : Fin 5), s.pwr.mainUp = true ∧ pf1Denied ag (Reg.TBASE_OUT_CTRL k) s = false ∧ s.flag (F.TBASE_OUT_CTRL_EN k) = true) ∧
    (∃ (s : State) (ag : Agent) (k : Fin 5), s.pwr.mainUp = true ∧ pf1Denied ag (Reg.TBASE_OUT_CMD k) s = false) ∧
    (∃ (s : State) (ag : Agent) (k : Fin 5), s.pwr.mainUp = true ∧ pf1Denied ag (Reg.TBASE_OUT_PERIOD k) s = false) ∧
    (∃ (s : State) (ag : Agent) (k : Fin 5), s.pwr.mainUp = true ∧ pf1Denied ag (Reg.TBASE_OUT_PHASE k) s = false) ∧
    (∃ (s : State) (ag : Agent) (k : Fin 5), s.pwr.mainUp = true ∧ pf1Denied ag (Reg.TBASE_OUT_WIDTH k) s = false) ∧
    (∃ (s : State) (k : Fin 5), s.pwr.mainUp = true ∧ (s.out k).on = true ∧ (s.out k).active = false ∧ s.flag F.TBASE_LIVE_RUNNING = true ∧ 0 < (s.out k).period ∧ s.pwr.oclkUp = true ∧ s.fld (F.TBASE_OUT_DELAY_DELAY_PS k) = 0 ∧ incOk (incCur s) = true ∧ (∀ p, s.tb.pend = some p → p.inc.all incOk = true)) ∧
    (∃ (s : State) (k : Fin 5), s.pwr.mainUp = true ∧ (s.out k).on = true ∧ (s.out k).active = false ∧ s.flag F.TBASE_LIVE_RUNNING = true ∧ 0 < (s.out k).period ∧ s.pwr.oclkUp = true ∧ s.pwr.ovenUp = true ∧ tbFormat s ≠ 0 ∧ s.tb.starting = false ∧ s.tb.pend = none ∧ s.tb.snaps = []) ∧
    (∃ (s : State) (k : Fin 5), s.pwr.mainUp = true ∧ (s.out k).active = true) ∧
    (∃ (s : State) (id : Nat) (r : TxtsRec), s.pwr.mainUp = true ∧ s.tb.txWait.find? (fun p => p.1 == id) = some (id, r) ∧ s.tb.fifo.length < 512) ∧
    (∃ (s : State) (id : Nat) (r : TxtsRec), s.pwr.mainUp = true ∧ s.tb.txWait.find? (fun p => p.1 == id) = some (id, r) ∧ 512 ≤ s.tb.fifo.length) ∧
    (∃ (s : State) (ag : Agent), s.pwr.mainUp = true ∧ pf1Denied ag (Reg.TBASE_TXTS_POP) s = false) :=
  ⟨⟨tbUp, .pf0, 1, by decide +kernel⟩,
    ⟨outOn, .pf0, 1, by decide +kernel⟩,
    ⟨outOn, .pf0, 1, by decide +kernel⟩,
    ⟨tbUp, .pf0, 4, by decide +kernel⟩,
    ⟨tbUp, .pf0, 1, by decide +kernel⟩,
    ⟨tbUp, .pf0, 1, by decide +kernel⟩,
    ⟨outOn, 1, by and_intros <;> first | decide +kernel⟩,
    ⟨(outOn.setReg (Reg.TBASE_OUT_DELAY 1) 500), 1, by decide +kernel⟩,
    ⟨(outOn.updOut 1 fun o => { o with active := true, pulseEnd := 2 ^ 55 }), 1, by decide +kernel⟩,
    ⟨(tbUp.updTb fun t => { t with txWait := [(9, ⟨[], 1, 2⟩)] }), 9, ⟨[], 1, 2⟩, by decide +kernel⟩,
    ⟨(tbUp.updTb fun t => { t with txWait := [(9, ⟨[], 1, 2⟩)], fifo := List.replicate 512 ⟨[], 1, 2⟩ }), 9, ⟨[], 1, 2⟩, by decide +kernel⟩,
    ⟨tbUp, .pf0, by decide +kernel⟩⟩

theorem witness_CellsReportPhases :
    (∃ (s : State) (c : Fin 32) (i : Fin 1024) (hit : Bool) (k : BitVec 12), s.pwr.mainUp = true ∧ slotUse s c = .source i hit ∧ sourceLive s (s.fld (F.MET_SRC_CFG_TYPE i)) (s.fld (F.MET_SRC_CFG_LANE i)) = true ∧ s.fld (F.MET_CELL_FLOOR_FLOOR c) ≤ k.toNat ∧ 2 ^ 19 ≤ 2 ^ 20 - (binAt s c k.toNat + (binAt s c (k.toNat + 1) - binAt s c k.toNat) / 2)) ∧
    (∃ (s : State) (c : Fin 32) (i : Fin 1024) (hit : Bool) (k : BitVec 12) (p : Nat), s.pwr.mainUp = true ∧ slotUse s c = .source i hit ∧ sourceLive s (s.fld (F.MET_SRC_CFG_TYPE i)) (s.fld (F.MET_SRC_CFG_LANE i)) = true ∧ s.fld (F.MET_CELL_FLOOR_FLOOR c) ≤ k.toNat ∧ p = 2 ^ 20 - (binAt s c k.toNat + (binAt s c (k.toNat + 1) - binAt s c k.toNat) / 2) ∧ p < 2 ^ 19) ∧
    (∃ (s : State) (c : Fin 32) (i : Fin 1024) (hit : Bool) (k : BitVec 12), s.pwr.mainUp = true ∧ slotUse s c = .source i hit ∧ sourceLive s (s.fld (F.MET_SRC_CFG_TYPE i)) (s.fld (F.MET_SRC_CFG_LANE i)) = true ∧ k.toNat < s.fld (F.MET_CELL_FLOOR_FLOOR c)) ∧
    (∃ (s : State) (c : Fin 32) (i : Fin 1024) (hit : Bool) (code : Option (BitVec 12)), s.pwr.mainUp = true ∧ slotUse s c = .source i hit ∧ (code = none ∨ sourceLive s (s.fld (F.MET_SRC_CFG_TYPE i)) (s.fld (F.MET_SRC_CFG_LANE i)) = false)) ∧
    (∃ (s : State) (c : Fin 32) (k : BitVec 12), s.pwr.mainUp = true ∧ slotUse s c = .pilot ∧ s.fld (F.MET_CELL_FLOOR_FLOOR c) ≤ k.toNat) ∧
    (∃ (s : State) (c : Fin 32) (k : BitVec 12), s.pwr.mainUp = true ∧ slotUse s c = .random ∧ cdBusy s c = true ∧ (s.cell c).hits < 2 ^ 22 ∧ histAt s c k.toNat ≤ 2 ^ 22) ∧
    (∃ (s : State) (c : Fin 32), s.pwr.mainUp = true ∧ slotUse s c = .random ∧ 2 ^ 22 ≤ (s.cell c).hits) :=
  ⟨⟨slotUp, 3, 7, false, 0x7FF, by decide +kernel⟩,
    ⟨slotUp, 3, 7, false, 0xC00, 262016, by decide +kernel⟩,
    ⟨slotUp, 3, 7, false, 0x6FF, by decide +kernel⟩,
    ⟨slotUp, 3, 7, false, none, by decide +kernel⟩,
    ⟨metUp, 3, 0x800, by decide +kernel⟩,
    ⟨(metUp.setRbit Reg.MET_CD_BUSY 3 true), 3, 0x800, by decide +kernel⟩,
    ⟨((metUp.setRbit Reg.MET_CD_BUSY 3 true).updCell 3 fun x => { x with hits := 4194304 }), 3, by decide +kernel⟩⟩

theorem witness_ScheduleAndSources :
    (∃ (s : State) (ag : Agent) (d : Word), s.pwr.mainUp = true ∧ pf1Denied ag (Reg.MET_BANK_CTRL) s = false ∧ bits d 0 10 % 32 = 16 ∧ bits d 0 10 ≤ 1008 ∧ (s.flag F.MET_EXT_CTRL_EN = false ∨ pair15Used s 0 ((List.range (bits d 0 10)).map fun e => s.reg (Reg.MET_SCHED e)) = false)) ∧
    (∃ (s : State) (ag : Agent) (d : Word), s.pwr.mainUp = true ∧ pf1Denied ag (Reg.MET_BANK_CTRL) s = false ∧ (bits d 0 10 % 32 ≠ 16 ∨ 1008 < bits d 0 10 ∨ (s.flag F.MET_EXT_CTRL_EN = true ∧ pair15Used s 0 ((List.range (bits d 0 10)).map fun e => s.reg (Reg.MET_SCHED e)) = true))) ∧
    (∃ (s : State) (n : Nat) (ws : List Word), s.pwr.mainUp = true ∧ s.met.waiting = some (n, ws)) ∧
    (∃ (s : State), s.pwr.mainUp = true ∧ s.met.waiting = none) ∧
    (∃ (s : State) (ag : Agent) (i : Fin 1024), s.pwr.mainUp = true ∧ pf1Denied ag (Reg.MET_SRC_CFG i) s = false) ∧
    (∃ (s : State), s.pwr.mainUp = true) ∧
    (∃ (s : State) (c : Fin 32) (e : Word), s.rbit Reg.MET_CELL_PROOF c = false ∧ s.met.ext.own = false ∧ (s.cell c).cycle % 1024 ≠ 1023 ∧ cellOut s c = false ∧ s.met.sched.2[(32 * (s.cell c).cycle + c.val - s.met.origin) % s.met.sched.1]? = some e ∧ e.getLsbD 31 = true ∧ s.fld (F.MET_SRC_CFG_TYPE (bits e 0 10)) ≠ 0) ∧
    (∃ (s : State) (c : Fin 32), s.rbit Reg.MET_CELL_PROOF c = false ∧ s.met.ext.own = false ∧ (s.cell c).cycle % 1024 = 1023) :=
  ⟨⟨up, .pf0, 0x30, by decide +kernel⟩,
    ⟨up, .pf0, 0x20, by decide +kernel⟩,
    ⟨(up.updMet fun m => { m with waiting := some (48, [0x80000007]) }), 48, [0x80000007], by decide +kernel⟩,
    ⟨up, by decide +kernel⟩,
    ⟨metUp, .pf0, 7, by decide +kernel⟩,
    ⟨metUp, by decide +kernel⟩,
    ⟨slotUp, 3, 0x80000007, by decide +kernel⟩,
    ⟨(slotUp.updCell 3 fun x => { x with cycle := 1023 }), 3, by decide +kernel⟩⟩

theorem witness_TablesAndCells :
    (∃ (s : State) (ag : Agent), s.pwr.mainUp = true ∧ pf1Denied ag (Reg.MET_TABLE_LOAD) s = false) ∧
    (∃ (s : State) (c : Fin 32), s.pwr.mainUp = true ∧ (s.cell c).exch = true) ∧
    (∃ (s : State) (ag : Agent), s.pwr.mainUp = true ∧ pf1Denied ag (Reg.MET_CELL_RETURN) s = false) ∧
    (∃ (s : State) (ag : Agent), s.pwr.mainUp = true ∧ pf1Denied ag (Reg.MET_CD_START) s = false ∧ s.fld F.PRF_LIVE_STATE = 0) ∧
    (∃ (s : State) (ag : Agent), s.pwr.mainUp = true ∧ pf1Denied ag (Reg.MET_CD_START) s = false ∧ s.fld F.PRF_LIVE_STATE ≠ 0) ∧
    (∃ (s : State) (c : Fin 32), s.pwr.mainUp = true ∧ cdBusy s c = true ∧ 4194304 ≤ (s.cell c).hits ∧ hasCell s.prf.run c = false) ∧
    (∃ (s : State), s.pwr.mainUp = true ∧ s.met.switched = true) ∧
    (∃ (s : State) (p : Fin 16), s.pwr.mainUp = true ∧ s.met.switched = false ∧ s.met.pairFails.length = 16 ∧ pairFailsNow s p = true ∧ s.fld F.MET_XCHK_CTRL_COUNT ≤ nth 0 s.met.pairFails p + 1 ∧ pilotFailsNow s (median ((List.range 32).filterMap (pilotMean s))) p ≠ pilotFailsNow s (median ((List.range 32).filterMap (pilotMean s))) (p + 16)) ∧
    (∃ (s : State), s.pwr.mainUp = true ∧ s.met.switched = false ∧ (∀ p ∈ List.range 16, pairFailsNow s p = false) ∧ (∀ c ∈ List.range 32, pilotFailsNow s (median ((List.range 32).filterMap (pilotMean s))) c = false) ∧ s.fld F.MET_XCHK_CTRL_COUNT ≠ 0) :=
  ⟨⟨metUp, .pf0, by decide +kernel⟩,
    ⟨(metUp.updCell 3 fun x => { x with exch := true }), 3, by decide +kernel⟩,
    ⟨((metUp.setReg Reg.MET_CELL_OUT 8).setFlag (F.MET_CELL_STATUS_CD_ACCEPT 3) true), .pf0, by decide +kernel⟩,
    ⟨metUp, .pf0, by decide +kernel⟩,
    ⟨(metUp.setReg Reg.PRF_LIVE 2), .pf0, by decide +kernel⟩,
    ⟨cdFull, 3, by decide +kernel⟩,
    ⟨(metUp.updMet fun m => { m with switched := true }), by decide +kernel⟩,
    ⟨pairBad, 3, by decide +kernel⟩,
    ⟨metUp, by decide +kernel⟩⟩

theorem witness_ExternalChannel :
    (∃ (s : State) (ag : Agent) (d : Word), s.pwr.mainUp = true ∧ pf1Denied ag (Reg.MET_EXT_CTRL) s = false ∧ s.flag F.MET_EXT_CTRL_EN = false ∧ d.getLsbD 0 = true ∧ (pair15Used s 0 s.met.sched.2 = true ∨ cdBusy s 15 = true ∨ cdBusy s 31 = true ∨ cellState s 15 = 2 ∨ cellState s 31 = 2)) ∧
    (∃ (s : State) (ag : Agent), s.pwr.mainUp = true ∧ pf1Denied ag (Reg.MET_EXT_CTRL) s = false ∧ s.met.waiting = none ∧ pair15Used s 0 s.met.sched.2 = false ∧ cdBusy s 15 = false ∧ cdBusy s 31 = false ∧ cellState s 15 ≠ 2 ∧ cellState s 31 ≠ 2) ∧
    (∃ (s : State) (ps : List Nat), s.pwr.mainUp = true ∧ s.flag F.MET_EXT_STATUS_REF_PRESENT = false ∧ ps.length = 16 ∧ (∀ p ∈ ps, s.fld F.MET_EXT_REF_PMIN ≤ p ∧ p ≤ s.fld F.MET_EXT_REF_PMAX)) ∧
    (∃ (s : State) (ps : List Nat), s.pwr.mainUp = true ∧ (∃ p ∈ ps, p < s.fld F.MET_EXT_REF_PMIN ∨ s.fld F.MET_EXT_REF_PMAX < p)) ∧
    (∃ (s : State) (since : Nat) (edge : Bool), s.pwr.mainUp = true ∧ s.flag F.MET_EXT_STATUS_REF_PRESENT = true ∧ (s.met.ext.phase = .idle ∨ s.flag F.MET_EXT_CTRL_STOP_SRC = false) ∧ (if edge then since < s.fld F.MET_EXT_REF_PMIN ∨ s.fld F.MET_EXT_REF_PMAX < since else 2 * s.fld F.MET_EXT_REF_PMAX ≤ since)) ∧
    (∃ (s : State) (since : Nat) (edge : Bool), s.pwr.mainUp = true ∧ s.flag F.MET_EXT_STATUS_REF_PRESENT = true ∧ s.met.ext.phase ≠ .idle ∧ s.flag F.MET_EXT_CTRL_STOP_SRC = true ∧ (if edge then since < s.fld F.MET_EXT_REF_PMIN ∨ s.fld F.MET_EXT_REF_PMAX < since else 2 * s.fld F.MET_EXT_REF_PMAX ≤ since)) ∧
    (∃ (s : State) (since : Nat), s.pwr.mainUp = true ∧ s.fld F.MET_EXT_REF_PMIN ≤ since ∧ since ≤ s.fld F.MET_EXT_REF_PMAX) ∧
    (∃ (s : State) (ag : Agent) (d : Word), s.pwr.mainUp = true ∧ pf1Denied ag (Reg.MET_EXT_CMD) s = false ∧ bits d 1 2 = 0 ∧ s.flag F.MET_EXT_CTRL_EN = true ∧ s.met.ext.phase = .idle ∧ s.met.ext.fifo.length < 16 ∧ (s.flag F.MET_EXT_CTRL_STOP_SRC = false ∨ s.flag F.MET_EXT_STATUS_REF_PRESENT = true)) ∧
    (∃ (s : State) (ag : Agent) (d : Word), s.pwr.mainUp = true ∧ pf1Denied ag (Reg.MET_EXT_CMD) s = false ∧ bits d 1 2 = 0 ∧ (s.flag F.MET_EXT_CTRL_EN = false ∨ s.met.ext.phase ≠ .idle ∨ 16 ≤ s.met.ext.fifo.length ∨ (s.flag F.MET_EXT_CTRL_STOP_SRC = true ∧ s.flag F.MET_EXT_STATUS_REF_PRESENT = false))) ∧
    (∃ (s : State), s.pwr.mainUp = true ∧ s.met.ext.phase = .gate) ∧
    (∃ (s : State) (onDie : Bool) (rising : Bool) (k : BitVec 12), s.pwr.mainUp = true ∧ s.met.ext.own = true ∧ s.met.ext.phase = .armed ∧ (if s.flag F.TST_MET_CTRL_EXT_SELF then onDie = true else onDie = false ∧ rising ≠ s.flag F.MET_EXT_CTRL_START_POL) ∧ s.fld (F.MET_CELL_FLOOR_FLOOR 15) ≤ k.toNat) ∧
    (∃ (s : State) (onDie : Bool) (rising : Bool), s.pwr.mainUp = true ∧ (if s.flag F.TST_MET_CTRL_EXT_SELF then onDie = false else onDie = true ∨ rising = s.flag F.MET_EXT_CTRL_START_POL)) ∧
    (∃ (s : State) (onDie : Bool) (rising : Bool) (k : BitVec 12), s.pwr.mainUp = true ∧ s.met.ext.own = true ∧ s.met.ext.phase = .armed ∧ (if s.flag F.TST_MET_CTRL_EXT_SELF then onDie = true else onDie = false ∧ rising ≠ s.flag F.MET_EXT_CTRL_START_POL) ∧ k.toNat < s.fld (F.MET_CELL_FLOOR_FLOOR 15)) ∧
    (∃ (s : State) (src : StopSrc) (rising : Bool) (coarse : Nat) (a : ExtEdge), s.pwr.mainUp = true ∧ s.met.ext.own = true ∧ s.met.ext.phase = .started ∧ s.met.ext.start = some a ∧ s.met.ext.stop = none ∧ stopSeen s src rising = true ∧ src ≠ .onDie ∧ (coarse % 2 ^ 32 + 2 ^ 32 - a.edge) % 2 ^ 32 < 6) ∧
    (∃ (s : State) (src : StopSrc) (rising : Bool) (k : BitVec 12) (coarse : Nat) (a : ExtEdge), s.pwr.mainUp = true ∧ s.met.ext.own = true ∧ s.met.ext.phase = .started ∧ s.met.ext.start = some a ∧ s.met.ext.stop = none ∧ stopSeen s src rising = true ∧ 6 ≤ (coarse % 2 ^ 32 + 2 ^ 32 - a.edge) % 2 ^ 32 ∧ (src = .onDie → (coarse % 2 ^ 32 + 2 ^ 32 - a.edge) % 2 ^ 32 = 8) ∧ s.fld (F.MET_CELL_FLOOR_FLOOR 31) ≤ k.toNat) ∧
    (∃ (s : State) (src : StopSrc) (rising : Bool), s.pwr.mainUp = true ∧ ((src = .stop ∧ (s.flag F.MET_EXT_CTRL_STOP_SRC = true ∨ rising = s.flag F.MET_EXT_CTRL_STOP_POL)) ∨ (src = .ref ∧ (s.flag F.MET_EXT_CTRL_STOP_SRC = false ∨ rising = false)) ∨ (src ≠ .onDie ∧ s.flag F.TST_MET_CTRL_EXT_SELF = true) ∨ (src = .onDie ∧ s.flag F.TST_MET_CTRL_EXT_SELF = false))) :=
  ⟨⟨(metUp.setRbit Reg.MET_CD_BUSY 15 true), .pf0, 3, by decide +kernel⟩,
    ⟨metUp, .pf0, by decide +kernel⟩,
    ⟨metUp, (List.replicate 16 781), by decide +kernel⟩,
    ⟨metUp, [781, 2], by decide +kernel⟩,
    ⟨(metUp.setReg Reg.MET_EXT_STATUS 1), 1, true, by decide +kernel⟩,
    ⟨((metUp.setReg Reg.MET_EXT_STATUS 1).setReg Reg.MET_EXT_CTRL 0x11 |>.updExt fun e => { e with phase := .armed }), 1, true, by decide +kernel⟩,
    ⟨metUp, 781, by decide +kernel⟩,
    ⟨(metUp.setReg Reg.MET_EXT_CTRL 3), .pf0, 0, by decide +kernel⟩,
    ⟨metUp, .pf0, 0, by decide +kernel⟩,
    ⟨(metUp.updExt fun e => { e with phase := .gate }), by decide +kernel⟩,
    ⟨extUp, false, true, 0xC00, by decide +kernel⟩,
    ⟨extUp, false, false, by decide +kernel⟩,
    ⟨extUp, false, true, 5, by decide +kernel⟩,
    ⟨(extRun 100), .stop, true, 105, ⟨100, 5, 102, [], false⟩, by decide +kernel⟩,
    ⟨(extRun 100), .stop, true, 0xC00, 106, ⟨100, 5, 102, [], false⟩, by decide +kernel⟩,
    ⟨(extRun 100), .ref, true, by decide +kernel⟩⟩

theorem witness_ExternalChannel_2 :
    (∃ (s : State) (a : ExtEdge) (b : ExtEdge), s.pwr.mainUp = true ∧ s.met.ext.start = some a ∧ s.met.ext.stop = some b) ∧
    (∃ (s : State), s.pwr.mainUp = true ∧ (s.met.ext.phase = .armed ∨ s.met.ext.phase = .started) ∧ s.met.ext.stop = none ∧ s.fld F.MET_EXT_TIMEOUT_US ≠ 0) ∧
    (∃ (s : State) (ag : Agent) (d : Word), s.pwr.mainUp = true ∧ pf1Denied ag (Reg.MET_EXT_CMD) s = false ∧ d.getLsbD 0 = false ∧ d.getLsbD 2 = false) ∧
    (∃ (s : State) (ag : Agent) (d : Word), s.pwr.mainUp = true ∧ pf1Denied ag (Reg.MET_EXT_CMD) s = false ∧ bits d 0 2 = 0) :=
  ⟨⟨(metUp.updExt fun e => { e with phase := .started, start := some ⟨99999, 274946, 100003, [], false⟩, stop := some ⟨107811, 413750, 107815, [], true⟩ }), ⟨99999, 274946, 100003, [], false⟩, ⟨107811, 413750, 107815, [], true⟩, by decide +kernel⟩,
    ⟨((metUp.setReg Reg.MET_EXT_TIMEOUT 5).updExt fun e => { e with phase := .armed }), by decide +kernel⟩,
    ⟨metUp, .pf0, 0, by decide +kernel⟩,
    ⟨metUp, .pf0, 0, by decide +kernel⟩⟩

theorem witness_AsymmetryProductsSaturate :
    (∃ (s : State) (ag : Agent) (p : Fin 416) (d : Word) (y : Int), s.pwr.mainUp = true ∧ pf1Denied ag (Reg.MET_PORT_MPD p) s = false ∧ y = (signed 32 (s.reg (Reg.MET_PORT_ASYM_COEF p)).toNat * (d.toNat : Int) * 32 + 2 ^ 40) / 2 ^ 41) ∧
    (∃ (s : State) (ag : Agent) (p : Fin 416) (d : Word) (y : Int), s.pwr.mainUp = true ∧ pf1Denied ag (Reg.MET_PORT_ASYM_COEF p) s = false ∧ y = (signed 32 d.toNat * ((s.reg (Reg.MET_PORT_MPD p)).toNat : Int) * 32 + 2 ^ 40) / 2 ^ 41) :=
  ⟨⟨(metUp.setReg (Reg.MET_PORT_ASYM_COEF 2) 0x7FFFFFFF), .pf0, 2, 5, 0, by decide +kernel⟩,
    ⟨(metUp.setReg (Reg.MET_PORT_MPD 2) 0x10000), .pf0, 2, 0xFFFFFFFF, 0, by decide +kernel⟩⟩

theorem witness_ProofingRunsPend :
    (∃ (s : State) (ag : Agent) (d : Word), s.pwr.mainUp = true ∧ pf1Denied ag Reg.PRF_CMD s = false ∧ bits d 1 2 = 0 ∧ (s.prf.mode ≠ 0 ∨ s.flag F.PRF_CTRL_EN = false ∨ 6 ≤ s.fld F.LOOP_STATUS_STATE ∨ s.flag F.PWR_LIVE_EVT_FLAG = true ∨ s.reg Reg.MET_CD_BUSY ≠ 0)) ∧
    (∃ (s : State) (ag : Agent) (d : Word), s.pwr.mainUp = true ∧ pf1Denied ag Reg.PRF_CMD s = false ∧ bits d 1 2 = 0 ∧ s.prf.mode = 0 ∧ s.flag F.PRF_CTRL_EN = true ∧ s.fld F.LOOP_STATUS_STATE < 6 ∧ s.flag F.PWR_LIVE_EVT_FLAG = false ∧ s.reg Reg.MET_CD_BUSY = 0) ∧
    (∃ (s : State), s.pwr.mainUp = true ∧ s.prf.pend = true ∧ s.prf.mode = 0 ∧ s.flag F.PRF_CTRL_EN = true ∧ s.fld F.LOOP_STATUS_STATE < 6 ∧ s.flag F.PWR_LIVE_EVT_FLAG = false ∧ s.reg Reg.MET_CD_BUSY = 0) ∧
    (∃ (s : State), s.pwr.mainUp = true ∧ (s.prf.pend = false ∨ (s.prf.mode ≠ 0 ∨ s.flag F.PRF_CTRL_EN = false ∨ 6 ≤ s.fld F.LOOP_STATUS_STATE ∨ s.flag F.PWR_LIVE_EVT_FLAG = true ∨ s.reg Reg.MET_CD_BUSY ≠ 0))) ∧
    (∃ (s : State) (ag : Agent) (d : Word), s.pwr.mainUp = true ∧ pf1Denied ag Reg.PRF_CMD s = false ∧ d.getLsbD 0 = false ∧ d.getLsbD 1 = false) ∧
    (∃ (s : State) (ag : Agent) (d : Word), s.pwr.mainUp = true ∧ pf1Denied ag Reg.PRF_CMD s = false ∧ bits d 0 3 = 7 ∧ s.prf.mode ≠ 0 ∧ s.flag F.PRF_CTRL_EN = false) :=
  ⟨⟨up, .pf0, 0, by decide +kernel⟩,
    ⟨prfUp, .pf0, 0, by decide +kernel⟩,
    ⟨(prfUp.updPrf fun p => { p with pend := true, causePend := 4 }), by decide +kernel⟩,
    ⟨up, by decide +kernel⟩,
    ⟨(up.updPrf fun p => { p with pend := true, causePend := 4 }), .pf0, 0, by decide +kernel⟩,
    ⟨((up.setReg Reg.PRF_CTRL 0x422).updPrf fun p => { p with mode := 2, pend := true, causePend := 4, run := 3 }), .pf0, 7, by decide +kernel⟩⟩

theorem witness_ProofingRuns :
    (∃ (s : State) (now : Int), s.pwr.mainUp = true ∧ (s.flag F.PRF_CTRL_TEMP_EN = false ∨ s.flag F.PRF_TEMP_REF_VALID = false ∨ (now - signed 12 (s.fld F.PRF_TEMP_REF)).natAbs ≤ s.fld F.PRF_TRIG_DELTA_T)) ∧
    (∃ (s : State) (now : Int), s.pwr.mainUp = true ∧ s.flag F.PRF_CTRL_TEMP_EN = true ∧ s.flag F.PRF_TEMP_REF_VALID = true ∧ s.fld F.PRF_TRIG_DELTA_T < (now - signed 12 (s.fld F.PRF_TEMP_REF)).natAbs ∧ (s.prf.mode ≠ 0 ∨ s.flag F.PRF_CTRL_EN = false ∨ 6 ≤ s.fld F.LOOP_STATUS_STATE ∨ s.flag F.PWR_LIVE_EVT_FLAG = true ∨ s.reg Reg.MET_CD_BUSY ≠ 0)) ∧
    (∃ (s : State), s.pwr.mainUp = true ∧ s.fld F.PRF_TRIG_MAX_INTERVAL_S ≠ 0 ∧ (s.prf.mode ≠ 0 ∨ s.flag F.PRF_CTRL_EN = false ∨ 6 ≤ s.fld F.LOOP_STATUS_STATE ∨ s.flag F.PWR_LIVE_EVT_FLAG = true ∨ s.reg Reg.MET_CD_BUSY ≠ 0)) ∧
    (∃ (s : State), s.pwr.mainUp = true ∧ s.prf.pend = true ∧ s.prf.mode = 0 ∧ s.flag F.PRF_CTRL_EN = true ∧ s.fld F.LOOP_STATUS_STATE < 6 ∧ s.flag F.PWR_LIVE_EVT_FLAG = false ∧ s.reg Reg.MET_CD_BUSY = 0 ∧ s.flag F.PRF_CTRL_TRACE = false ∧ s.fld F.PRF_CTRL_FORCE_MODE = 0 ∧ s.fld F.MET_BANK_STATUS_LOAD ≤ 192 ∧ (∀ p ∈ List.range 16, pairFull s p = false) ∧ s.flag F.MET_EXT_CTRL_EN = false) ∧
    (∃ (s : State), s.pwr.mainUp = true ∧ s.prf.pend = true ∧ s.prf.mode = 0 ∧ s.flag F.PRF_CTRL_EN = true ∧ s.fld F.LOOP_STATUS_STATE < 6 ∧ s.flag F.PWR_LIVE_EVT_FLAG = false ∧ s.reg Reg.MET_CD_BUSY = 0 ∧ s.flag F.PRF_CTRL_TRACE = false ∧ s.fld F.PRF_CTRL_FORCE_MODE = 0 ∧ 192 < s.fld F.MET_BANK_STATUS_LOAD ∧ (∀ p ∈ List.range 16, pairIdle s p = false) ∧ s.fld F.PRF_CTRL_HOLD_PAIRS = 1) ∧
    (∃ (s : State) (c : Fin 32), s.pwr.mainUp = true ∧ cdBusy s c = true ∧ 4194304 ≤ (s.cell c).hits ∧ hasCell s.prf.run c = true ∧ hasCell s.prf.run (partner c) = true) ∧
    (∃ (s : State) (ag : Agent) (d : Word), s.pwr.mainUp = true ∧ pf1Denied ag Reg.PRF_CMD s = false ∧ bits d 0 3 = 0 ∧ s.prf.mode ≠ 0) :=
  ⟨⟨up, (-5), by decide +kernel⟩,
    ⟨((up.setReg Reg.PRF_TEMP 0x10000000).setReg Reg.PRF_TRIG 8), 9, by decide +kernel⟩,
    ⟨(up.setReg Reg.PRF_TRIG 0x10008), by decide +kernel⟩,
    ⟨prfPend, by decide +kernel⟩,
    ⟨({ prfPend with met := { prfPend.met with sched := (16, List.replicate 16 0x80000007) } }.setReg Reg.MET_BANK_STATUS 0xFF0010), by decide +kernel⟩,
    ⟨(cdFull.updPrf fun p => { p with mode := 2, run := 0xFFFFFFFF, retry := 1 }), 3, by decide +kernel⟩,
    ⟨((cdFull.setReg Reg.MET_CELL_PROOF 0x80008).updPrf fun p => { p with mode := 3, run := 8, proofs := 0x80008, held := [3] }), .pf0, 0, by decide +kernel⟩⟩

theorem witness_ReferencesQualify :
    (∃ (s : State) (i : Fin 23), s.pwr.mainUp = true ∧ s.fld (F.LOOP_REF_STATUS_STATE i) = 2 ∧ s.fld (F.LOOP_REF_STATUS_QUAL_LEFT_S i) = 0) ∧
    (∃ (s : State) (i : Fin 23), s.pwr.mainUp = true ∧ s.fld (F.LOOP_REF_STATUS_QUAL_LEFT_S i) ≠ 0) ∧
    (∃ (s : State) (i : Fin 23) (f : Int), s.pwr.mainUp = true ∧ s.flag (F.LOOP_REF_CFG_EN i) = true ∧ s.flag (F.LOOP_REF_STATUS_PRESENT i) = true ∧ s.fld (F.LOOP_REF_STATUS_STATE i) = 2 ∧ windowSkipped s i = false ∧ f.natAbs ≤ (if 4 ≤ i.val ∧ i.val < 20 then min (s.fld (F.LOOP_REF_TOL_TOL i)) 6000 else s.fld (F.LOOP_REF_TOL_TOL i)) * 65536 ∧ f.natAbs < 2 ^ 31) ∧
    (∃ (s : State) (i : Fin 23) (f : Int), s.pwr.mainUp = true ∧ s.flag (F.LOOP_REF_CFG_EN i) = true ∧ s.flag (F.LOOP_REF_STATUS_PRESENT i) = true ∧ s.fld (F.LOOP_REF_STATUS_STATE i) = 3 ∧ windowSkipped s i = false ∧ (if 4 ≤ i.val ∧ i.val < 20 then min (s.fld (F.LOOP_REF_TOL_TOL i)) 6000 else s.fld (F.LOOP_REF_TOL_TOL i)) * 65536 < f.natAbs) ∧
    (∃ (s : State) (i : Fin 23) (f : Int), s.pwr.mainUp = true ∧ s.flag (F.LOOP_REF_CFG_EN i) = true ∧ s.flag (F.LOOP_REF_STATUS_PRESENT i) = true ∧ s.fld (F.LOOP_REF_STATUS_STATE i) = 2 ∧ windowSkipped s i = false ∧ (if 4 ≤ i.val ∧ i.val < 20 then min (s.fld (F.LOOP_REF_TOL_TOL i)) 6000 else s.fld (F.LOOP_REF_TOL_TOL i)) * 65536 < f.natAbs) ∧
    (∃ (s : State) (i : Fin 23), s.pwr.mainUp = true ∧ s.flag (F.LOOP_REF_CFG_EN i) = true ∧ s.flag (F.LOOP_REF_STATUS_PRESENT i) = true ∧ windowSkipped s i = true) ∧
    (∃ (s : State) (i : Fin 23), s.pwr.mainUp = true ∧ 4 ≤ i.val ∧ i.val < 20 ∧ (s.slot (s.fld (F.LOOP_REF_CFG_SLOT i))).stale = true) ∧
    (∃ (s : State) (i : Fin 23), s.pwr.mainUp = true ∧ presentNow i s = true ∧ s.flag (F.LOOP_REF_STATUS_PRESENT i) = false ∧ s.fld (F.LOOP_REF_STATUS_STATE i) = 1) ∧
    (∃ (s : State) (i : Fin 23), s.pwr.mainUp = true ∧ presentNow i s = false ∧ s.flag (F.LOOP_REF_STATUS_PRESENT i) = true ∧ s.fld (F.LOOP_REF_STATUS_STATE i) = 3) ∧
    (∃ (s : State) (k : Fin 4), s.pwr.mainUp = true ∧ s.fld (F.LOOP_REF_STATUS_STATE k) = 0) ∧
    (∃ (s : State) (ag : Agent) (i : Fin 23) (d : Word), s.pwr.mainUp = true ∧ pf1Denied ag (Reg.LOOP_REF_CFG i) s = false ∧ s.flag (F.LOOP_REF_CFG_EN i) = true ∧ d.getLsbD 0 = false) ∧
    (∃ (s : State) (ag : Agent) (i : Fin 23) (d : Word), s.pwr.mainUp = true ∧ pf1Denied ag (Reg.LOOP_REF_CFG i) s = false ∧ s.flag (F.LOOP_REF_CFG_EN i) = true ∧ d.getLsbD 0 = true ∧ bits d 6 10 = s.fld (F.LOOP_REF_CFG_SLOT i)) ∧
    (∃ (s : State) (ag : Agent) (i : Fin 23) (d : Word), s.pwr.mainUp = true ∧ pf1Denied ag (Reg.LOOP_REF_CFG i) s = false ∧ 20 ≤ i.val ∧ d.getLsbD 0 = true ∧ (s.flag (F.LOOP_REF_CFG_EN i) = false ∨ bits d 6 10 ≠ s.fld (F.LOOP_REF_CFG_SLOT i))) ∧
    (∃ (s : State) (ag : Agent) (i : Fin 23) (d : Word), s.pwr.mainUp = true ∧ pf1Denied ag (Reg.LOOP_REF_FREQ_HZ i) s = false ∧ i.val < 4 ∧ ¬(bits d 0 29 % 1000 = 0 ∧ 1000000 ≤ bits d 0 29 ∧ bits d 0 29 ≤ 400000000)) ∧
    (∃ (s : State) (ag : Agent) (i : Fin 23) (d : Word), s.pwr.mainUp = true ∧ pf1Denied ag (Reg.LOOP_REF_FREQ_HZ i) s = false ∧ i.val < 4 ∧ bits d 0 29 % 1000 = 0 ∧ 1000000 ≤ bits d 0 29 ∧ bits d 0 29 ≤ 400000000 ∧ s.flag (F.LOOP_REF_CFG_EN i) = true) ∧
    (∃ (s : State) (ag : Agent) (i : Fin 23) (d : Word), s.pwr.mainUp = true ∧ pf1Denied ag (Reg.LOOP_REF_CMD i) s = false ∧ s.fld (F.LOOP_REF_STATUS_STATE i) ≠ 0 ∧ d.getLsbD 1 = false) :=
  ⟨⟨((refUp 2).setFld (F.LOOP_REF_STATUS_QUAL_LEFT_S 7) 0), 7, by decide +kernel⟩,
    ⟨(refUp 2), 7, by decide +kernel⟩,
    ⟨(refUp 2), 7, 5, by decide +kernel⟩,
    ⟨(refUp 3), 7, 99999999999, by decide +kernel⟩,
    ⟨(refUp 2), 7, 99999999999, by decide +kernel⟩,
    ⟨((refUp 3).updRef 7 fun r => { r with skipped := true }), 7, by decide +kernel⟩,
    ⟨((refUp 3).updSlot 0 fun r => { r with stale := true }), 7, by decide +kernel⟩,
    ⟨((refUp 1).setFlag (F.LOOP_REF_STATUS_PRESENT 20) false |>.setFld (F.LOOP_REF_STATUS_STATE 20) 1 |>.setFlag F.SKY_LIVE_TIME_VALID true), 20, by decide +kernel⟩,
    ⟨(refUp 3), 7, by decide +kernel⟩,
    ⟨up, 1, by decide +kernel⟩,
    ⟨(refUp 3), .pf0, 7, 0, by decide +kernel⟩,
    ⟨(refUp 3), .pf0, 7, 3, by decide +kernel⟩,
    ⟨up, .pf0, 22, 1, by decide +kernel⟩,
    ⟨up, .pf0, 1, 5, by decide +kernel⟩,
    ⟨(refUp 3), .pf0, 1, 10000000, by decide +kernel⟩,
    ⟨(refUp 3), .pf0, 7, 0, by decide +kernel⟩⟩

theorem witness_ReferencesQualify_2 :
    (∃ (s : State) (ag : Agent) (i : Fin 23) (d : Word), s.pwr.mainUp = true ∧ pf1Denied ag (Reg.LOOP_REF_CMD i) s = false ∧ s.fld (F.LOOP_REF_STATUS_STATE i) = 4 ∧ d.getLsbD 0 = false) ∧
    (∃ (s : State) (i : Fin 4), s.pwr.mainUp = true ∧ s.flag (F.LOOP_REF_STATUS_PRESENT i) = true ∧ 2 ≤ s.fld (F.LOOP_REF_STATUS_STATE i) ∧ (s.ref i).raws = [] ∧ s.fld F.LOOP_STATUS_SELECTED ≠ i.val) ∧
    (∃ (s : State) (i : Fin 4) (x : Int), s.pwr.mainUp = true ∧ s.flag (F.LOOP_REF_STATUS_PRESENT i) = true ∧ s.fld (F.LOOP_REF_STATUS_STATE i) = 3 ∧ 16 ≤ (s.ref i).raws.length ∧ s.fld F.LOOP_JUMP_LIMIT_LIMIT * 2 ^ 20 < (reducePhase s i (x + refDelay s i - predict 16 (s.ref i).raws)).natAbs * 1000) ∧
    (∃ (s : State) (i : Fin 4), s.pwr.mainUp = true ∧ s.flag (F.LOOP_REF_STATUS_PRESENT i) = true ∧ s.fld (F.LOOP_REF_STATUS_STATE i) = 3 ∧ (s.ref i).raws.length < 16 ∧ s.fld F.LOOP_STATUS_SELECTED = i.val ∧ s.fld F.LOOP_STATUS_STATE = 2 ∧ s.loop.r = 0) :=
  ⟨⟨(refUp 4), .pf0, 7, 0, by decide +kernel⟩,
    ⟨(refUp 3), 1, by decide +kernel⟩,
    ⟨((refUp 3).updRef 1 fun r => { r with raws := List.replicate 16 0 }), 1, 9999999, by decide +kernel⟩,
    ⟨(((refUp 3).setFld F.LOOP_STATUS_SELECTED 1).setFld F.LOOP_STATUS_STATE 2), 1, by decide +kernel⟩⟩

theorem witness_LoopStatesFollowTheSelection :
    (∃ (s : State) (i : Nat), s.pwr.mainUp = true ∧ s.fld F.LOOP_STATUS_STATE = 0 ∧ (evalSel s).1 = some i ∧ (s.ref i).raws ≠ [] ∧ i < 23) ∧
    (∃ (s : State) (i : Nat), s.pwr.mainUp = true ∧ (s.fld F.LOOP_STATUS_STATE = 2 ∨ s.fld F.LOOP_STATUS_STATE = 3) ∧ (evalSel s).1 = some i ∧ i ≠ s.fld F.LOOP_STATUS_SELECTED ∧ i < 23) ∧
    (∃ (s : State), s.pwr.mainUp = true ∧ (s.fld F.LOOP_STATUS_STATE = 2 ∨ s.fld F.LOOP_STATUS_STATE = 3) ∧ (evalSel s).1 = none) ∧
    (∃ (s : State) (i : Nat), s.pwr.mainUp = true ∧ s.fld F.LOOP_STATUS_STATE = 4 ∧ (evalSel s).1 = some i ∧ i < 23 ∧ (refError s i - signed 32 (s.reg (Reg.LOOP_REF_ENTRY_PHASE i)).toNat * 16).natAbs * 1000 ≤ (s.reg Reg.LOOP_PHASE_ACCEPT).toNat * 2 ^ 20) ∧
    (∃ (s : State) (i : Nat), s.pwr.mainUp = true ∧ s.fld F.LOOP_STATUS_STATE = 4 ∧ (evalSel s).1 = some i ∧ i < 23 ∧ (s.reg Reg.LOOP_PHASE_ACCEPT).toNat * 2 ^ 20 < (refError s i - signed 32 (s.reg (Reg.LOOP_REF_ENTRY_PHASE i)).toNat * 16).natAbs * 1000) ∧
    (∃ (s : State), s.pwr.mainUp = true ∧ s.fld F.LOOP_STATUS_STATE < 6) ∧
    (∃ (s : State), s.pwr.mainUp = true ∧ s.fld F.LOOP_STATUS_STATE = 1 ∧ (evalSel s).1 = none ∧ s.flag F.LOOP_STATUS_HO_READY = false ∧ (loopMode s).1 ≠ 2) ∧
    (∃ (s : State), s.pwr.mainUp = true ∧ 6 ≤ s.fld F.LOOP_STATUS_STATE) ∧
    (∃ (s : State), s.pwr.mainUp = true ∧ (s.fld F.LOOP_STATUS_STATE = 1 ∨ (s.fld F.LOOP_STATUS_STATE = 3 ∧ s.loop.r = 0)) ∧ s.fld (F.LOOP_REF_STATUS_STATE (s.fld F.LOOP_STATUS_SELECTED)) = 3 ∧ s.fld F.LOOP_STATUS_SELECTED < 23 ∧ (refError s (s.fld F.LOOP_STATUS_SELECTED)).natAbs ≤ 2 ^ 20) ∧
    (∃ (s : State), s.pwr.mainUp = true ∧ s.fld F.LOOP_STATUS_STATE = 2 ∧ 0 < s.loop.ySamples) ∧
    (∃ (s : State), s.pwr.mainUp = true ∧ s.fld F.LOOP_STATUS_STATE = 4) ∧
    (∃ (s : State) (ag : Agent) (d : Word), s.pwr.mainUp = true ∧ pf1Denied ag (Reg.LOOP_CMD) s = false ∧ bits d 0 6 = 0 ∧ (s.fld F.LOOP_STATUS_STATE = 2 ∨ s.fld F.LOOP_STATUS_STATE = 3)) ∧
    (∃ (s : State) (ag : Agent) (d : Word), s.pwr.mainUp = true ∧ pf1Denied ag (Reg.LOOP_CMD) s = false ∧ bits d 0 6 = 0 ∧ s.fld F.LOOP_STATUS_STATE ≠ 2 ∧ s.fld F.LOOP_STATUS_STATE ≠ 3) ∧
    (∃ (s : State) (ag : Agent) (d : Word), s.pwr.mainUp = true ∧ pf1Denied ag (Reg.LOOP_CMD) s = false ∧ bits d 0 6 = 0) :=
  ⟨⟨(loopUp 0), 1, by decide +kernel⟩,
    ⟨((loopUp 2).setFld F.LOOP_STATUS_SELECTED 3), 1, by decide +kernel⟩,
    ⟨((loopUp 2).setFld (F.LOOP_REF_STATUS_STATE 1) 2), by decide +kernel⟩,
    ⟨(loopUp 4), 1, by decide +kernel⟩,
    ⟨((loopUp 4).setReg Reg.LOOP_PHASE_ACCEPT 0), 1, by decide +kernel⟩,
    ⟨(loopUp 5), by decide +kernel⟩,
    ⟨((loopUp 1).setFld (F.LOOP_REF_STATUS_STATE 1) 2), by decide +kernel⟩,
    ⟨(loopUp 6), by decide +kernel⟩,
    ⟨((loopUp 1).setFld F.LOOP_STATUS_SELECTED 1), by decide +kernel⟩,
    ⟨((loopUp 2).updLoop fun l => { l with ySamples := 3, ySum := 10 }), by decide +kernel⟩,
    ⟨((loopUp 4).updLoop fun l => { l with y0 := 2 ^ 60, drift := 2 ^ 50 }), by decide +kernel⟩,
    ⟨((loopUp 2).setReg Reg.LOOP_PHASE_ADJ 0xFFFFFFFF), .pf0, 0, by decide +kernel⟩,
    ⟨(loopUp 4), .pf0, 0, by decide +kernel⟩,
    ⟨((loopUp 2).updLoop fun l => { l with hist := [1] }), .pf0, 0, by decide +kernel⟩⟩

theorem witness_DisputeCommands :
    (∃ (s : State) (ag : Agent) (d : Word), s.pwr.mainUp = true ∧ pf1Denied ag (Reg.LOOP_CMD) s = false ∧ bits d 0 6 = 0 ∧ s.fld F.LOOP_STATUS_STATE = 5) ∧
    (∃ (s : State) (ag : Agent) (d : Word), s.pwr.mainUp = true ∧ pf1Denied ag (Reg.LOOP_CMD) s = false ∧ bits d 0 6 = 0 ∧ s.fld F.LOOP_STATUS_STATE = 5 ∧ s.tb.pend = none ∧ 20 ≤ s.fld F.LOOP_STATUS_DISPUTE_REF ∧ tbFormat s ≠ 0 ∧ 0 ≤ (s.tb.value : Int) + refError s (s.fld F.LOOP_STATUS_DISPUTE_REF) * (2 ^ 28 : Nat)) ∧
    (∃ (s : State) (ag : Agent) (d : Word), s.pwr.mainUp = true ∧ pf1Denied ag (Reg.LOOP_CMD) s = false ∧ bits d 0 6 = 0 ∧ s.fld F.LOOP_STATUS_STATE = 5 ∧ s.tb.pend = none ∧ 20 ≤ s.fld F.LOOP_STATUS_DISPUTE_REF ∧ tbFormat s ≠ 0 ∧ (s.tb.value : Int) + refError s (s.fld F.LOOP_STATUS_DISPUTE_REF) * (2 ^ 28 : Nat) < 0) ∧
    (∃ (s : State) (ag : Agent) (d : Word), s.pwr.mainUp = true ∧ pf1Denied ag (Reg.LOOP_CMD) s = false ∧ bits d 0 6 = 0 ∧ s.fld F.LOOP_STATUS_STATE = 5 ∧ s.tb.pend = none ∧ 20 ≤ s.fld F.LOOP_STATUS_DISPUTE_REF ∧ tbFormat s = 0) ∧
    (∃ (s : State) (p : TbPend) (a : Int), s.pwr.mainUp = true ∧ s.pwr.oclkUp = true ∧ s.pwr.ovenUp = true ∧ tbFormat s ≠ 0 ∧ s.tb.pend = some p ∧ p.arm = none ∧ p.op = some (.step a) ∧ p.dispute = true ∧ p.xstep = false ∧ s.fld F.LOOP_STATUS_STATE = 5) ∧
    (∃ (s : State) (ag : Agent) (d : Word), s.pwr.mainUp = true ∧ pf1Denied ag (Reg.LOOP_CMD) s = false ∧ bits d 0 6 = 0 ∧ s.fld F.LOOP_STATUS_STATE = 5 ∧ s.tb.pend = none ∧ s.fld F.LOOP_STATUS_DISPUTE_REF < 20) ∧
    (∃ (s : State) (ag : Agent) (d : Word) (p : TbPend), s.pwr.mainUp = true ∧ pf1Denied ag (Reg.LOOP_CMD) s = false ∧ bits d 0 6 = 0 ∧ s.fld F.LOOP_STATUS_STATE = 5 ∧ s.tb.pend = some p) ∧
    (∃ (s : State) (ag : Agent) (d : Word), s.pwr.mainUp = true ∧ pf1Denied ag (Reg.LOOP_CMD) s = false ∧ bits d 0 6 = 0 ∧ s.fld F.LOOP_STATUS_STATE = 5 ∧ s.fld F.LOOP_STATUS_DISPUTE_REF < 23) ∧
    (∃ (s : State) (ag : Agent) (d : Word), s.pwr.mainUp = true ∧ pf1Denied ag (Reg.LOOP_CMD) s = false ∧ bits d 0 6 = 0 ∧ s.fld F.LOOP_STATUS_STATE = 5 ∧ s.fld F.LOOP_STATUS_DISPUTE_REF < 23 ∧ (evalSel (s.setFld (F.LOOP_REF_STATUS_STATE (s.fld F.LOOP_STATUS_DISPUTE_REF)) 4)).1 = none) ∧
    (∃ (s : State) (ag : Agent) (d : Word) (j : Nat), s.pwr.mainUp = true ∧ pf1Denied ag (Reg.LOOP_CMD) s = false ∧ bits d 0 6 = 0 ∧ s.fld F.LOOP_STATUS_STATE = 5 ∧ s.fld F.LOOP_STATUS_DISPUTE_REF < 23 ∧ (evalSel (s.setFld (F.LOOP_REF_STATUS_STATE (s.fld F.LOOP_STATUS_DISPUTE_REF)) 4)).1 = some j ∧ j < 23 ∧ (refError s j - signed 32 (s.reg (Reg.LOOP_REF_ENTRY_PHASE j)).toNat * 16).natAbs * 1000 ≤ (s.reg Reg.LOOP_PHASE_ACCEPT).toNat * 2 ^ 20) ∧
    (∃ (s : State) (ag : Agent) (d : Word) (j : Nat), s.pwr.mainUp = true ∧ pf1Denied ag (Reg.LOOP_CMD) s = false ∧ bits d 0 6 = 0 ∧ s.fld F.LOOP_STATUS_STATE = 5 ∧ s.fld F.LOOP_STATUS_DISPUTE_REF < 23 ∧ (evalSel (s.setFld (F.LOOP_REF_STATUS_STATE (s.fld F.LOOP_STATUS_DISPUTE_REF)) 4)).1 = some j ∧ j < 23 ∧ (s.reg Reg.LOOP_PHASE_ACCEPT).toNat * 2 ^ 20 < (refError s j - signed 32 (s.reg (Reg.LOOP_REF_ENTRY_PHASE j)).toNat * 16).natAbs * 1000) ∧
    (∃ (s : State) (ag : Agent) (d : Word) (c : Instr), s.pwr.mainUp = true ∧ pf1Denied ag (Reg.LOOP_CMD) s = false ∧ bits d 0 6 = 0 ∧ s.fld F.LOOP_STATUS_STATE ≠ 5 ∧ c ∈ [Instr.disputeSlope ag d, .disputeStep ag d, .disputeReject ag d]) :=
  ⟨⟨(disUp 1), .pf0, 0, by decide +kernel⟩,
    ⟨((disUp 20).setReg Reg.TBASE_CTRL 0x80000001), .pf0, 0, by decide +kernel⟩,
    ⟨(((disUp 20).setReg Reg.TBASE_CTRL 0x80000001).updRef 20 fun r => { r with raws := [-77] }), .pf0, 0, by decide +kernel⟩,
    ⟨(disUp 20), .pf0, 0, by decide +kernel⟩,
    ⟨(((disUp 20).setReg Reg.TBASE_CTRL 0x80000001).updTb fun t => { t with pend := some { tbP with dispute := true } }), { tbP with dispute := true }, 5, by decide +kernel⟩,
    ⟨(disUp 1), .pf0, 0, by decide +kernel⟩,
    ⟨((disUp 1).updTb fun t => { t with pend := some tbP }), .pf0, 0, tbP, by decide +kernel⟩,
    ⟨(disUp 1), .pf0, 0, by decide +kernel⟩,
    ⟨(disUp 1), .pf0, 0, by decide +kernel⟩,
    ⟨disTwo, .pf0, 0, 7, by decide +kernel⟩,
    ⟨(disTwo.setReg Reg.LOOP_PHASE_ACCEPT 0), .pf0, 0, 7, by decide +kernel⟩,
    ⟨up, .pf0, 0, (.disputeStep .pf0 0), by decide +kernel⟩⟩

theorem witness_FallbackToTheKeeper :
    (∃ (s : State) (counts : List Nat), s.pwr.mainUp = true ∧ s.flag F.LOOP_MPLL_STATUS_SEARCHING = true ∧ s.pwr.xoIn = true ∧ counts.length = 8) ∧
    (∃ (s : State), s.pwr.mainUp = true ∧ s.flag F.LOOP_MPLL_STATUS_SEARCHING = true ∧ s.pwr.xoIn = true ∧ s.loop.fails < 3) ∧
    (∃ (s : State), s.pwr.mainUp = true ∧ s.flag F.LOOP_MPLL_STATUS_SEARCHING = true ∧ s.pwr.xoIn = true ∧ 3 ≤ s.loop.fails) ∧
    (∃ (s : State), s.pwr.mainUp = true ∧ s.flag F.LOOP_MPLL_STATUS_LOCKED = true ∧ s.pwr.xoIn = true ∧ s.flag F.LOOP_STATUS_TCLK_KEEPER = false ∧ s.flag F.LOOP_STATUS_LANE_BACKUP = false ∧ s.fld F.LOOP_STATUS_STATE ≤ 5 ∧ s.loop.lols.length < 7) ∧
    (∃ (s : State), s.pwr.mainUp = true ∧ s.flag F.LOOP_MPLL_STATUS_LOCKED = true ∧ s.pwr.xoIn = true ∧ s.loop.lols.length = 8 ∧ s.clk.tclk < nth 0 s.loop.lols 6 + 781250000) ∧
    (∃ (s : State) (ag : Agent) (d : Word), s.pwr.mainUp = true ∧ pf1Denied ag (Reg.LOOP_CMD) s = false ∧ bits d 0 6 = 0 ∧ s.pwr.xoIn = true) ∧
    (∃ (s : State) (ag : Agent) (d : Word), s.pwr.mainUp = true ∧ pf1Denied ag (Reg.LOOP_CMD) s = false ∧ bits d 0 6 = 0 ∧ s.pwr.xoIn = false) ∧
    (∃ (s : State), s.pwr.mainUp = true ∧ s.flag F.LOOP_MPLL_STATUS_LOCKED = true ∧ s.flag F.LOOP_STATUS_TCLK_KEEPER = true ∧ s.pwr.xoIn = true ∧ s.loop.aligning = false ∧ 6 ≤ s.fld F.LOOP_STATUS_STATE) ∧
    (∃ (s : State), s.pwr.mainUp = true ∧ s.pwr.xoIn = true) ∧
    (∃ (s : State), s.pwr.mainUp = false) ∧
    (∃ (s : State), s.pwr.mainUp = true ∧ s.pwr.xoIn = false) ∧
    (∃ (s : State), s.pwr.mainUp = true ∧ s.loop.aligning = true ∧ s.flag F.LOOP_MPLL_STATUS_FAILED = false) ∧
    (∃ (s : State), s.pwr.mainUp = true ∧ s.loop.aligning = true ∧ s.flag F.LOOP_MPLL_STATUS_FAILED = true) :=
  ⟨⟨(up.setReg Reg.LOOP_MPLL_STATUS 2), [3200, 3300, 3100, 3150, 3120, 3126, 3125, 3122], by decide +kernel⟩,
    ⟨(up.setReg Reg.LOOP_MPLL_STATUS 2), by decide +kernel⟩,
    ⟨((up.setReg Reg.LOOP_MPLL_STATUS 2).updLoop fun l => { l with fails := 3 }), by decide +kernel⟩,
    ⟨(kUp 2), by decide +kernel⟩,
    ⟨((kUp 2).updLoop fun l => { l with lols := List.replicate 8 0 }), by decide +kernel⟩,
    ⟨(kUp 2), .pf0, 0, by decide +kernel⟩,
    ⟨((kUp 2).updPwr fun p => { p with xoIn := false }), .pf0, 0, by decide +kernel⟩,
    ⟨(((kUp 6).setFlag F.LOOP_STATUS_TCLK_KEEPER true).setFlag F.LOOP_STATUS_LANE_BACKUP true), by decide +kernel⟩,
    ⟨(kUp 2), by decide +kernel⟩,
    ⟨dipDown, by decide +kernel⟩,
    ⟨((kUp 7).updPwr fun p => { p with xoIn := false }), by decide +kernel⟩,
    ⟨((kUp 7).updLoop fun l => { l with aligning := true }), by decide +kernel⟩,
    ⟨(((kUp 7).updLoop fun l => { l with aligning := true }).setFlag F.LOOP_MPLL_STATUS_FAILED true), by decide +kernel⟩⟩

theorem witness_ClockOutputsAndLockA :
    (∃ (s : State) (ag : Agent) (k : Fin 4), s.pwr.mainUp = true ∧ pf1Denied ag (Reg.LOOP_CLKOUT_CTRL k) s = false ∧ s.flag (F.LOOP_CLKOUT_CTRL_EN k) = false) ∧
    (∃ (s : State) (ag : Agent) (k : Fin 4) (d : Word), s.pwr.mainUp = true ∧ pf1Denied ag (Reg.LOOP_CLKOUT_CTRL k) s = false ∧ s.flag (F.LOOP_CLKOUT_CTRL_EN k) = true ∧ d.getLsbD 2 = false) ∧
    (∃ (s : State) (ag : Agent) (k : Fin 4), s.pwr.mainUp = true ∧ pf1Denied ag (Reg.LOOP_CLKOUT_CTRL k) s = false ∧ s.flag (F.LOOP_CLKOUT_CTRL_EN k) = true) ∧
    (∃ (s : State) (ag : Agent) (k : Fin 4) (d : Word), s.pwr.mainUp = true ∧ pf1Denied ag (Reg.LOOP_CLKOUT_CTRL k) s = false ∧ d.getLsbD 0 = true) ∧
    (∃ (s : State) (k : Fin 4) (n : Nat), s.pwr.mainUp = true ∧ s.pwr.oclkUp = true ∧ (s.clkout k).waiting = true ∧ s.tb.pend = none ∧ s.tb.snaps = [] ∧ 0 < incCur s ∧ clkoutPlace k s = some n ∧ 8 ≤ s.fld (F.LOOP_CLKOUT_DIV_DIV k) ∧ (s.reg (Reg.LOOP_CLKOUT_PHASE k)).toNat < 80 * s.fld (F.LOOP_CLKOUT_DIV_DIV k)) ∧
    (∃ (s : State) (k : Fin 4) (n : Nat), s.pwr.mainUp = true ∧ s.pwr.oclkUp = true ∧ (s.clkout k).waiting = true ∧ s.tb.pend = none ∧ s.tb.snaps = [] ∧ 0 < incCur s ∧ clkoutPlace k s = some n ∧ (s.fld (F.LOOP_CLKOUT_DIV_DIV k) < 8 ∨ 80 * s.fld (F.LOOP_CLKOUT_DIV_DIV k) ≤ (s.reg (Reg.LOOP_CLKOUT_PHASE k)).toNat)) ∧
    (∃ (s : State) (k : Fin 4) (n : Nat), s.flag F.TBASE_LIVE_RUNNING = true ∧ 0 < incCur s ∧ 0 < (clkoutShape s k).1 ∧ clkoutPlace k s = some n) ∧
    (∃ (s : State) (ag : Agent), s.pwr.mainUp = true ∧ pf1Denied ag (Reg.LOOP_LOCK_A) s = false) :=
  ⟨⟨up, .pf0, 1, by decide +kernel⟩,
    ⟨(up.setReg (Reg.LOOP_CLKOUT_CTRL 1) 1), .pf0, 1, 2, by decide +kernel⟩,
    ⟨(up.setReg (Reg.LOOP_CLKOUT_CTRL 1) 1), .pf0, 1, by decide +kernel⟩,
    ⟨up, .pf0, 1, 1, by decide +kernel⟩,
    ⟨(up.updClkout 1 fun o => { o with waiting := true }), 1, 16384, by decide +kernel⟩,
    ⟨((up.updClkout 1 fun o => { o with waiting := true }).setReg (Reg.LOOP_CLKOUT_DIV 1) 7), 1, 16384, by decide +kernel⟩,
    ⟨(tbUp.updClkout 1 fun o => { o with waiting := true }), 1, (clkPlaced 1 (tbUp.updClkout 1 fun o => { o with waiting := true })), by decide +kernel⟩,
    ⟨up, .pf0, by decide +kernel⟩⟩

theorem witness_ChannelsStartOnTheirCodePhase :
    (∃ (s : State) (k : Fin 4) (c : Fin 64) (d : Word), s.pwr.mainUp = true ∧ (k = 1 → s.rbit Reg.HOST_PF1_WRITE_EN 17 = true) ∧ s.sky.stopped = false ∧ (s.chan c).on = false ∧ bits d 1 3 ≠ 0 ∧ 1 ≤ bits d 4 6 ∧ bits d 4 6 ≤ (if bits d 1 3 ≤ 3 then 63 else 50) ∧ (if bits d 1 3 = 1 ∨ bits d 1 3 = 4 ∨ bits d 1 3 = 5 then s.flag F.SKY_CTRL_L1_EN else s.flag F.SKY_CTRL_L5_EN) = true) ∧
    (∃ (s : State) (k : Fin 4) (c : Fin 64) (d : Word), s.pwr.mainUp = true ∧ (k = 1 → s.rbit Reg.HOST_PF1_WRITE_EN 17 = true) ∧ s.sky.stopped = false ∧ (s.chan c).on = false ∧ (bits d 1 3 = 0 ∨ bits d 4 6 = 0 ∨ (if bits d 1 3 ≤ 3 then 63 else 50) < bits d 4 6 ∨ (if bits d 1 3 = 1 ∨ bits d 1 3 = 4 ∨ bits d 1 3 = 5 then s.flag F.SKY_CTRL_L1_EN else s.flag F.SKY_CTRL_L5_EN) = false)) :=
  ⟨⟨((skyUp.setIndw 5 5 0x02634000).setIndw 5 4 1000000), 0, 0, 0x73, by decide +kernel⟩,
    ⟨skyUp, 2, 7, 0x71, by decide +kernel⟩⟩

theorem witness_ChannelsDumpStopAndTakeSettings :
    (∃ (s : State) (k : Fin 4), s.pwr.mainUp = true ∧ (k = 1 → s.rbit Reg.HOST_PF1_WRITE_EN 17 = true) ∧ s.sky.stopped = false) ∧
    (∃ (s : State) (k : Fin 4) (w : Fin 3), s.pwr.mainUp = true ∧ (k = 1 → s.rbit Reg.HOST_PF1_WRITE_EN 17 = true) ∧ s.sky.stopped = false ∧ w ≠ 0) ∧
    (∃ (s : State) (k : Fin 4) (d : Word), s.pwr.mainUp = true ∧ (k = 1 → s.rbit Reg.HOST_PF1_WRITE_EN 17 = true) ∧ s.sky.stopped = false ∧ bits d 0 5 ≠ 0 ∧ bits d 0 5 < bits d 8 5) ∧
    (∃ (s : State) (k : Fin 4) (d : Word), s.pwr.mainUp = true ∧ (k = 1 → s.rbit Reg.HOST_PF1_WRITE_EN 17 = true) ∧ s.sky.stopped = false ∧ (bits d 0 5 = 0 ∨ bits d 8 5 ≤ bits d 0 5)) ∧
    (∃ (s : State) (k : Fin 4) (c : Fin 64) (w : Fin 3) (d : Word) (n : BitVec 32) (i : Instr), s.pwr.mainUp = true ∧ s.sky.stopped = true ∧ i ∈ [Instr.skyChannelStart k c d n, .skyChannelStop k c d, .skyNcoWrite k c w d]) ∧
    (∃ (s : State) (c : Fin 64) (n : BitVec 32) (k : Nat) (vs : List (BitVec 8)), s.pwr.mainUp = true ∧ s.flag F.SKY_CTRL_EN = true ∧ (s.chan c).on = true ∧ vs.length = k ∧ k ≠ 0 ∧ n.toNat = ((s.chan c).count + k) % 2 ^ 32 ∧ (s.chan c).count < 2 ^ 32 ∧ k < 2 ^ 32 ∧ ((s.chan c).code + k * (s.chan c).codeInc) / (dumpChips (s.chan c).signal * 2 ^ 32) = (s.chan c).code / (dumpChips (s.chan c).signal * 2 ^ 32) + 1 ∧ ((s.chan c).code + k * (s.chan c).codeInc - (s.chan c).codeInc) / (dumpChips (s.chan c).signal * 2 ^ 32) = (s.chan c).code / (dumpChips (s.chan c).signal * 2 ^ 32) ∧ 16 < ringFree s) ∧
    (∃ (s : State) (c : Fin 64) (n : BitVec 32) (k : Nat) (vs : List (BitVec 8)), s.pwr.mainUp = true ∧ s.flag F.SKY_CTRL_EN = true ∧ (s.chan c).on = true ∧ vs.length = k ∧ k ≠ 0 ∧ n.toNat = ((s.chan c).count + k) % 2 ^ 32 ∧ (s.chan c).count < 2 ^ 32 ∧ k < 2 ^ 32 ∧ ((s.chan c).code + k * (s.chan c).codeInc) / (dumpChips (s.chan c).signal * 2 ^ 32) = (s.chan c).code / (dumpChips (s.chan c).signal * 2 ^ 32) + 1 ∧ ((s.chan c).code + k * (s.chan c).codeInc - (s.chan c).codeInc) / (dumpChips (s.chan c).signal * 2 ^ 32) = (s.chan c).code / (dumpChips (s.chan c).signal * 2 ^ 32) ∧ ringFree s ≤ 16) :=
  ⟨⟨(chanUp 1), 0, by decide +kernel⟩,
    ⟨skyUp, 1, 2, by decide +kernel⟩,
    ⟨skyUp, 3, 0x1008, by decide +kernel⟩,
    ⟨skyUp, 3, 0x0808, by decide +kernel⟩,
    ⟨({ skyUp with sky := { stopped := true } }), 2, 5, 1, 7, 3, (.skyNcoWrite 2 5 1 7), by decide +kernel⟩,
    ⟨(((shortUp 1).updChan 5 fun x => { x with dirty := true })), 5, 1923, 3, [7, 9, 0xB], by decide +kernel⟩,
    ⟨((shortUp 4).setReg Reg.SKY_RING_RD 10), 5, 1923, 3, [7, 9, 0xB], by decide +kernel⟩⟩

theorem witness_NavigationData :
    (∃ (s : State) (c : Fin 64) (n : BitVec 32) (k : Nat) (vs : List (BitVec 8)), s.pwr.mainUp = true ∧ s.flag F.SKY_CTRL_EN = true ∧ (s.chan c).on = true ∧ vs.length = k ∧ k ≠ 0 ∧ n.toNat = ((s.chan c).count + k) % 2 ^ 32 ∧ (s.chan c).count < 2 ^ 32 ∧ k < 2 ^ 32 ∧ ((s.chan c).code + k * (s.chan c).codeInc) / (dumpChips (s.chan c).signal * 2 ^ 32) = (s.chan c).code / (dumpChips (s.chan c).signal * 2 ^ 32) + 1 ∧ ((s.chan c).code + k * (s.chan c).codeInc - (s.chan c).codeInc) / (dumpChips (s.chan c).signal * 2 ^ 32) = (s.chan c).code / (dumpChips (s.chan c).signal * 2 ^ 32) ∧ (s.chan c).on = true ∧ bit (s.indw 5 (chanWord c 0)) 10 = true) ∧
    (∃ (s : State) (c : Fin 64) (k : Nat), s.pwr.mainUp = true ∧ (s.chan c).on = true ∧ bit (s.indw 5 (chanWord c 0)) 10 = true ∧ (s.chan c).signal = 1 ∧ s.ifld 5 (chanWord c 11) 0 1 = 0 ∧ 2001 ≤ (s.chan c).prompts.length ∧ k < 20 ∧ 8 ≤ nth 0 (signChanges ((s.chan c).dumps + 19) (s.chan c).prompts) k ∧ (∀ j ∈ List.range 20, j ≠ k → 2 * nth 0 (signChanges ((s.chan c).dumps + 19) (s.chan c).prompts) j ≤ nth 0 (signChanges ((s.chan c).dumps + 19) (s.chan c).prompts) k)) ∧
    (∃ (s : State) (c : Fin 64), s.pwr.mainUp = true ∧ (s.chan c).on = true ∧ bit (s.indw 5 (chanWord c 0)) 10 = true ∧ (s.chan c).signal = 1 ∧ s.ifld 5 (chanWord c 11) 0 1 = 0 ∧ 2001 ≤ (s.chan c).prompts.length ∧ (∀ k ∈ List.range 20, nth 0 (signChanges ((s.chan c).dumps + 19) (s.chan c).prompts) k < 8)) ∧
    (∃ (s : State) (c : Fin 64) (k : Nat) (inv : Bool), s.pwr.mainUp = true ∧ (s.chan c).on = true ∧ bit (s.indw 5 (chanWord c 0)) 10 = true ∧ (s.chan c).signal = 4 ∧ s.ifld 5 (chanWord c 11) 1 1 = 0 ∧ partPattern inv (((s.chan c).syms.drop k).map (·.1)) = true ∧ (∀ j ∈ List.range (s.chan c).syms.length, k < j → ∀ b : Bool, partPattern b (((s.chan c).syms.drop j).map (·.1)) = false)) ∧
    (∃ (s : State) (c : Fin 64) (k : Nat), s.pwr.mainUp = true ∧ (s.chan c).on = true ∧ bit (s.indw 5 (chanWord c 0)) 10 = true ∧ (s.chan c).signal = 1 ∧ s.ifld 5 (chanWord c 11) 0 2 = 1 ∧ lnavFrame (((s.chan c).bits.drop k).map (·.1)) = true ∧ (∀ j ∈ List.range (s.chan c).bits.length, k < j → lnavFrame (((s.chan c).bits.drop j).map (·.1)) = false) ∧ 1 < ringFree s ∧ s.fld F.SKY_RING_LEN_LOG2 ≤ 14) ∧
    (∃ (s : State) (c : Fin 64), s.pwr.mainUp = true ∧ (s.chan c).on = true ∧ bit (s.indw 5 (chanWord c 0)) 10 = true ∧ (s.chan c).signal = 1 ∧ s.ifld 5 (chanWord c 11) 0 2 = 3 ∧ 32 ≤ (s.chan c).bits.length ∧ lnavParity ((bitsNat (((((s.chan c).bits.drop ((s.chan c).bits.length - 32)).map (·.1)).drop 30).take 2)) / 2) ((bitsNat (((((s.chan c).bits.drop ((s.chan c).bits.length - 32)).map (·.1)).drop 30).take 2)) % 2) (bitsNat ((((s.chan c).bits.drop ((s.chan c).bits.length - 32)).take 30).map (·.1))) = (bitsNat ((((s.chan c).bits.drop ((s.chan c).bits.length - 32)).take 30).map (·.1))) % 64 ∧ ringFree s ≠ 0) ∧
    (∃ (s : State) (c : Fin 64), s.pwr.mainUp = true ∧ (s.chan c).on = true ∧ bit (s.indw 5 (chanWord c 0)) 10 = true ∧ (s.chan c).signal = 1 ∧ s.ifld 5 (chanWord c 11) 0 2 = 3 ∧ 32 ≤ (s.chan c).bits.length ∧ lnavParity ((bitsNat (((((s.chan c).bits.drop ((s.chan c).bits.length - 32)).map (·.1)).drop 30).take 2)) / 2) ((bitsNat (((((s.chan c).bits.drop ((s.chan c).bits.length - 32)).map (·.1)).drop 30).take 2)) % 2) (bitsNat ((((s.chan c).bits.drop ((s.chan c).bits.length - 32)).take 30).map (·.1))) ≠ (bitsNat ((((s.chan c).bits.drop ((s.chan c).bits.length - 32)).take 30).map (·.1))) % 64 ∧ ringFree s ≠ 0) ∧
    (∃ (s : State) (c : Fin 64) (e : Nat), s.pwr.mainUp = true ∧ (s.chan c).on = true ∧ bit (s.indw 5 (chanWord c 0)) 10 = true ∧ (s.chan c).signal = 4 ∧ bit (s.indw 5 (chanWord c 11)) 1 = true ∧ (s.chan c).skip + 240 ≤ (s.chan c).syms.length ∧ (s.chan c).even = some e ∧ ringFree s ≠ 0) ∧
    (∃ (s : State) (c : Fin 64), s.pwr.mainUp = true ∧ (s.chan c).on = true ∧ bit (s.indw 5 (chanWord c 0)) 10 = true ∧ (s.chan c).signal = 4 ∧ bit (s.indw 5 (chanWord c 11)) 1 = true ∧ (s.chan c).skip + 240 ≤ (s.chan c).syms.length ∧ (s.chan c).even = none) ∧
    (∃ (s : State) (c : Fin 64) (i : Instr), s.pwr.mainUp = true ∧ bit (s.indw 5 (chanWord c 0)) 10 = false ∧ i ∈ [Instr.bitSync c, .skyLnavWord c, .skyInavPage c]) :=
  ⟨⟨(((shortUp 1).setIndw 5 80 0x473)), 5, 1923, 3, [7, 9, 0xB], by decide +kernel⟩,
    ⟨((navUp 1 0).updChan 5 fun x => { x with prompts := navSigns }), 5, 0, by decide +kernel⟩,
    ⟨((navUp 1 0).updChan 5 fun x => { x with prompts := List.replicate 2001 1 }), 5, by decide +kernel⟩,
    ⟨((navUp 4 0).updChan 5 fun x => { x with syms := (navBits 10 0b1010011111).map fun b => (if b.1 then -9 else 9, b.2) }), 5, 0, true, by decide +kernel⟩,
    ⟨((navUp 1 1).updChan 5 fun x => { x with bits := navBits 63 (lnavTwo * 2) }), 5, 1, by decide +kernel⟩,
    ⟨((navUp 1 3).updChan 5 fun x => { x with bits := navBits 32 (lnavTwo / 2 ^ 30), word := 10 }), 5, by decide +kernel⟩,
    ⟨((navUp 1 3).updChan 5 fun x => { x with bits := navBits 32 (lnavTwo / 2 ^ 30 + 1), fails := 3 }), 5, by decide +kernel⟩,
    ⟨((navUp 4 3).updChan 5 fun x => { x with syms := navSyms true, even := some 5 }), 5, 5, by decide +kernel⟩,
    ⟨((navUp 4 3).updChan 5 fun x => { x with syms := navSyms true }), 5, by decide +kernel⟩,
    ⟨(skyUp.setIndw 5 80 0x73), 5, (.skyLnavWord 5), by decide +kernel⟩⟩

theorem witness_FixesAndDeliveries :
    (∃ (s : State) (ag : Agent), s.pwr.mainUp = true ∧ pf1Denied ag Reg.SKY_FIX_CMD s = false ∧ bits (s.reg (Reg.SKY_FIX_T 0)) 26 2 ≠ epochNow s) ∧
    (∃ (s : State) (ag : Agent), s.pwr.mainUp = true ∧ pf1Denied ag Reg.SKY_FIX_CMD s = false ∧ bits (s.reg (Reg.SKY_FIX_T 0)) 26 2 = epochNow s ∧ (s.tb.value < (recordValue (tbFormat s) (s.reg (Reg.SKY_FIX_T 0)) (s.reg (Reg.SKY_FIX_T 1)) (s.reg (Reg.SKY_FIX_T 2)) (s.reg (Reg.SKY_FIX_T 3))) ∨ (recordValue (tbFormat s) (s.reg (Reg.SKY_FIX_T 0)) (s.reg (Reg.SKY_FIX_T 1)) (s.reg (Reg.SKY_FIX_T 2)) (s.reg (Reg.SKY_FIX_T 3))) + 1000000000 * nsUnit < s.tb.value)) ∧
    (∃ (s : State) (ag : Agent), s.pwr.mainUp = true ∧ pf1Denied ag Reg.SKY_FIX_CMD s = false ∧ bits (s.reg (Reg.SKY_FIX_T 0)) 26 2 = epochNow s ∧ (recordValue (tbFormat s) (s.reg (Reg.SKY_FIX_T 0)) (s.reg (Reg.SKY_FIX_T 1)) (s.reg (Reg.SKY_FIX_T 2)) (s.reg (Reg.SKY_FIX_T 3))) ≤ s.tb.value ∧ s.tb.value ≤ (recordValue (tbFormat s) (s.reg (Reg.SKY_FIX_T 0)) (s.reg (Reg.SKY_FIX_T 1)) (s.reg (Reg.SKY_FIX_T 2)) (s.reg (Reg.SKY_FIX_T 3))) + 1000000000 * nsUnit ∧ (if s.fld F.SKY_FIX_INFO_NSAT < s.fld F.SKY_CHECK_MIN_SATS then 3 else if s.flag F.SKY_FIX_INFO_RAIM_OK = false then 4 else if s.flag F.SKY_FIX_INFO_XSIG_OK = false then 5 else if (s.reg Reg.SKY_TUNC_MAX).toNat < s.fld F.SKY_FIX_INFO_TUNC then 6 else if s.fld F.SKY_CHECK_RATE_LIMIT * 65536 < (signed 32 (s.reg Reg.SKY_FIX_RATE).toNat).natAbs then 7 else 0) ≠ 0) ∧
    (∃ (s : State) (ag : Agent) (f : FixSt), s.pwr.mainUp = true ∧ pf1Denied ag Reg.SKY_FIX_CMD s = false ∧ bits (s.reg (Reg.SKY_FIX_T 0)) 26 2 = epochNow s ∧ (recordValue (tbFormat s) (s.reg (Reg.SKY_FIX_T 0)) (s.reg (Reg.SKY_FIX_T 1)) (s.reg (Reg.SKY_FIX_T 2)) (s.reg (Reg.SKY_FIX_T 3))) ≤ s.tb.value ∧ s.tb.value ≤ (recordValue (tbFormat s) (s.reg (Reg.SKY_FIX_T 0)) (s.reg (Reg.SKY_FIX_T 1)) (s.reg (Reg.SKY_FIX_T 2)) (s.reg (Reg.SKY_FIX_T 3))) + 1000000000 * nsUnit ∧ (if s.fld F.SKY_FIX_INFO_NSAT < s.fld F.SKY_CHECK_MIN_SATS then 3 else if s.flag F.SKY_FIX_INFO_RAIM_OK = false then 4 else if s.flag F.SKY_FIX_INFO_XSIG_OK = false then 5 else if (s.reg Reg.SKY_TUNC_MAX).toNat < s.fld F.SKY_FIX_INFO_TUNC then 6 else if s.fld F.SKY_CHECK_RATE_LIMIT * 65536 < (signed 32 (s.reg Reg.SKY_FIX_RATE).toNat).natAbs then 7 else 0) = 0 ∧ s.sky.fix = some f ∧ (s.tb.value : Int) ≤ f.t + ((10000000000 * nsUnit : Nat) : Int) ∧ (s.reg Reg.SKY_CLK_LIMIT).toNat * 2 ^ 64 * 1000000000 < (((signed 64 (s.reg64 Reg.SKY_FIX_OFFSET_LO Reg.SKY_FIX_OFFSET_HI) * (2 ^ 32 : Nat)) - f.o) * ((2 ^ 16 * 1000000000 : Nat) : Int) - f.r * (((recordValue (tbFormat s) (s.reg (Reg.SKY_FIX_T 0)) (s.reg (Reg.SKY_FIX_T 1)) (s.reg (Reg.SKY_FIX_T 2)) (s.reg (Reg.SKY_FIX_T 3))) : Int) - f.t)).natAbs * 1000) ∧
    (∃ (s : State) (ag : Agent) (f : FixSt), s.pwr.mainUp = true ∧ pf1Denied ag Reg.SKY_FIX_CMD s = false ∧ bits (s.reg (Reg.SKY_FIX_T 0)) 26 2 = epochNow s ∧ (recordValue (tbFormat s) (s.reg (Reg.SKY_FIX_T 0)) (s.reg (Reg.SKY_FIX_T 1)) (s.reg (Reg.SKY_FIX_T 2)) (s.reg (Reg.SKY_FIX_T 3))) ≤ s.tb.value ∧ s.tb.value ≤ (recordValue (tbFormat s) (s.reg (Reg.SKY_FIX_T 0)) (s.reg (Reg.SKY_FIX_T 1)) (s.reg (Reg.SKY_FIX_T 2)) (s.reg (Reg.SKY_FIX_T 3))) + 1000000000 * nsUnit ∧ (if s.fld F.SKY_FIX_INFO_NSAT < s.fld F.SKY_CHECK_MIN_SATS then 3 else if s.flag F.SKY_FIX_INFO_RAIM_OK = false then 4 else if s.flag F.SKY_FIX_INFO_XSIG_OK = false then 5 else if (s.reg Reg.SKY_TUNC_MAX).toNat < s.fld F.SKY_FIX_INFO_TUNC then 6 else if s.fld F.SKY_CHECK_RATE_LIMIT * 65536 < (signed 32 (s.reg Reg.SKY_FIX_RATE).toNat).natAbs then 7 else 0) = 0 ∧ s.sky.fix = some f ∧ (s.tb.value : Int) ≤ f.t + ((10000000000 * nsUnit : Nat) : Int) ∧ (((signed 64 (s.reg64 Reg.SKY_FIX_OFFSET_LO Reg.SKY_FIX_OFFSET_HI) * (2 ^ 32 : Nat)) - f.o) * ((2 ^ 16 * 1000000000 : Nat) : Int) - f.r * (((recordValue (tbFormat s) (s.reg (Reg.SKY_FIX_T 0)) (s.reg (Reg.SKY_FIX_T 1)) (s.reg (Reg.SKY_FIX_T 2)) (s.reg (Reg.SKY_FIX_T 3))) : Int) - f.t)).natAbs * 1000 ≤ (s.reg Reg.SKY_CLK_LIMIT).toNat * 2 ^ 64 * 1000000000) ∧
    (∃ (s : State) (ag : Agent), s.pwr.mainUp = true ∧ pf1Denied ag Reg.SKY_FIX_CMD s = false ∧ bits (s.reg (Reg.SKY_FIX_T 0)) 26 2 = epochNow s ∧ (recordValue (tbFormat s) (s.reg (Reg.SKY_FIX_T 0)) (s.reg (Reg.SKY_FIX_T 1)) (s.reg (Reg.SKY_FIX_T 2)) (s.reg (Reg.SKY_FIX_T 3))) ≤ s.tb.value ∧ s.tb.value ≤ (recordValue (tbFormat s) (s.reg (Reg.SKY_FIX_T 0)) (s.reg (Reg.SKY_FIX_T 1)) (s.reg (Reg.SKY_FIX_T 2)) (s.reg (Reg.SKY_FIX_T 3))) + 1000000000 * nsUnit ∧ (if s.fld F.SKY_FIX_INFO_NSAT < s.fld F.SKY_CHECK_MIN_SATS then 3 else if s.flag F.SKY_FIX_INFO_RAIM_OK = false then 4 else if s.flag F.SKY_FIX_INFO_XSIG_OK = false then 5 else if (s.reg Reg.SKY_TUNC_MAX).toNat < s.fld F.SKY_FIX_INFO_TUNC then 6 else if s.fld F.SKY_CHECK_RATE_LIMIT * 65536 < (signed 32 (s.reg Reg.SKY_FIX_RATE).toNat).natAbs then 7 else 0) = 0 ∧ (∀ f, s.sky.fix = some f → f.t + ((10000000000 * nsUnit : Nat) : Int) < (s.tb.value : Int))) ∧
    (∃ (s : State), s.pwr.mainUp = true ∧ s.flag F.SKY_LIVE_TIME_VALID = true) ∧
    (∃ (s : State), s.pwr.mainUp = true ∧ s.flag F.SKY_LIVE_TIME_VALID = true ∧ s.fld F.SKY_LIVE_LOCKED_COUNT < s.fld F.SKY_CHECK_MIN_SATS) ∧
    (∃ (s : State) (f : FixSt), s.pwr.mainUp = true ∧ s.flag F.SKY_LIVE_TIME_VALID = true ∧ s.sky.fix = some f) ∧
    (∃ (s : State), s.pwr.mainUp = true ∧ (s.flag F.SKY_LIVE_TIME_VALID = false ∨ s.sky.fix = none)) :=
  ⟨⟨(fixUp.setReg (Reg.SKY_FIX_T 0) 0x4000000), .pf0, by decide +kernel⟩,
    ⟨(fixUp.setReg (Reg.SKY_FIX_T 1) 999999999), .pf0, by decide +kernel⟩,
    ⟨(fixUp.setReg Reg.SKY_FIX_INFO 0x303), .pf0, by decide +kernel⟩,
    ⟨((fixUp.setReg Reg.SKY_LIVE 1).updSky fun k => { k with fix := some ⟨2 ^ 70, 0, 0⟩ }), .pf0, ⟨2 ^ 70, 0, 0⟩, by decide +kernel⟩,
    ⟨((fixUp.setReg Reg.SKY_FIX_STATUS 0x20).updSky fun k => { k with fix := some ⟨0, 0, 0⟩ }), .pf0, ⟨0, 0, 0⟩, by decide +kernel⟩,
    ⟨fixUp, .pf0, by and_intros <;> first | decide +kernel⟩,
    ⟨(fixUp.setReg Reg.SKY_LIVE 1), by decide +kernel⟩,
    ⟨(fixUp.setReg Reg.SKY_LIVE 1), by decide +kernel⟩,
    ⟨((fixUp.setReg Reg.SKY_LIVE 3).updSky fun k => { k with fix := some ⟨2 ^ 70, 0, 65536⟩ }), ⟨2 ^ 70, 0, 65536⟩, by decide +kernel⟩,
    ⟨fixUp, by decide +kernel⟩⟩

theorem witness_SkyClockRingAndCaptures :
    (∃ (s : State) (ag : Agent) (d : Word), s.pwr.mainUp = true ∧ pf1Denied ag Reg.SKY_CTRL s = false ∧ s.flag F.SKY_CTRL_EN = false ∧ d.getLsbD 0 = true) ∧
    (∃ (s : State) (ag : Agent) (d : Word), s.pwr.mainUp = true ∧ pf1Denied ag Reg.SKY_CTRL s = false ∧ s.flag F.SKY_CTRL_EN = d.getLsbD 0) ∧
    (∃ (s : State) (ag : Agent) (d : Word), s.pwr.mainUp = true ∧ pf1Denied ag Reg.SKY_CTRL s = false ∧ s.flag F.SKY_CTRL_EN = d.getLsbD 0 ∧ s.sky.gates = []) ∧
    (∃ (l5 : Bool) (ctrl : Word), bit ctrl (if l5 then 2 else 1) = true) ∧
    (∃ (s : State) (ag : Agent) (d : Word), s.pwr.mainUp = true ∧ pf1Denied ag Reg.SKY_CTRL s = false ∧ s.flag F.SKY_CTRL_EN = true ∧ d.getLsbD 0 = false) ∧
    (∃ (s : State) (hz : Nat), s.pwr.mainUp = true ∧ hz < 2 ^ 32 ∧ ((hz : Int) - ((s.reg Reg.SKY_CLK_HZ).toNat : Int)).natAbs * 10000 ≤ (s.reg Reg.SKY_CLK_HZ).toNat) ∧
    (∃ (s : State) (hz : Nat), s.pwr.mainUp = true ∧ (s.reg Reg.SKY_CLK_HZ).toNat < ((hz : Int) - ((s.reg Reg.SKY_CLK_HZ).toNat : Int)).natAbs * 10000) ∧
    (∃ (s : State), s.pwr.mainUp = true) ∧
    (∃ (s : State) (n : BitVec 32), s.pwr.mainUp = true ∧ s.flag F.SKY_CTRL_EN = true ∧ s.fld F.SKY_EPOCH_SAMPLES_SAMPLES ≠ 0 ∧ n.toNat % s.fld F.SKY_EPOCH_SAMPLES_SAMPLES = 0 ∧ ringFree s ≠ 0) ∧
    (∃ (s : State) (n : BitVec 32), s.pwr.mainUp = true ∧ s.flag F.SKY_CTRL_EN = true ∧ s.fld F.SKY_EPOCH_SAMPLES_SAMPLES ≠ 0 ∧ n.toNat % s.fld F.SKY_EPOCH_SAMPLES_SAMPLES = 0 ∧ ringFree s = 0) ∧
    (∃ (s : State) (n : BitVec 32), s.pwr.mainUp = true ∧ s.flag F.SKY_CTRL_EN = true ∧ s.fld F.SKY_RING_IRQ_TICK_MS * divRound (s.reg Reg.SKY_CLK_HZ).toNat 1000 ≠ 0 ∧ n ≠ 0 ∧ n.toNat % (s.fld F.SKY_RING_IRQ_TICK_MS * divRound (s.reg Reg.SKY_CLK_HZ).toNat 1000) = 0) ∧
    (∃ (s : State) (n : BitVec 32), s.pwr.mainUp = true ∧ (s.flag F.SKY_CTRL_EN = false ∨ s.fld F.SKY_RING_IRQ_TICK_MS = 0 ∨ n.toNat % (s.fld F.SKY_RING_IRQ_TICK_MS * divRound (s.reg Reg.SKY_CLK_HZ).toNat 1000) ≠ 0)) ∧
    (∃ (s : State) (ag : Agent), s.pwr.mainUp = true ∧ pf1Denied ag Reg.SKY_SNAP_CTRL s = false ∧ s.sky.snap = none) ∧
    (∃ (s : State) (ag : Agent) (p : SnapSt), s.pwr.mainUp = true ∧ pf1Denied ag Reg.SKY_SNAP_CTRL s = false ∧ s.sky.snap = some p) ∧
    (∃ (s : State) (first : BitVec 32) (xs : List (BitVec 4)) (p : SnapSt), s.pwr.mainUp = true ∧ s.flag F.SKY_CTRL_EN = true ∧ s.sky.snap = some p ∧ xs.length = p.len ∧ p.len < 2 ^ 22 ∧ (first.toNat + 2 ^ 32 - p.least) % 2 ^ 32 < 2 ^ 31) :=
  ⟨⟨up, .pf0, 7, by decide +kernel⟩,
    ⟨skyUp, .pf0, 3, by decide +kernel⟩,
    ⟨(skyUp.setReg Reg.SKY_SAMPLE_COUNT 90), .pf0, 3, by decide +kernel⟩,
    ⟨true, 0x15, by decide +kernel⟩,
    ⟨((chanUp 1).setReg Reg.SKY_LIVE 1), .pf0, 0, by decide +kernel⟩,
    ⟨up, 81840000, by decide +kernel⟩,
    ⟨(up.setReg Reg.SKY_LIVE 5), 81848185, by decide +kernel⟩,
    ⟨(up.setReg Reg.SKY_LIVE 5), by decide +kernel⟩,
    ⟨skyUp, 163678, by decide +kernel⟩,
    ⟨(skyUp.setReg Reg.SKY_RING_RD 1), 0, by decide +kernel⟩,
    ⟨(skyUp.setFld F.SKY_RING_IRQ_TICK_MS 1), 818400, by decide +kernel⟩,
    ⟨(skyUp.setFld F.SKY_RING_IRQ_TICK_MS 1), 818401, by decide +kernel⟩,
    ⟨skyUp, .pf0, by decide +kernel⟩,
    ⟨(skyUp.updSky fun k => { k with snap := some ⟨5, 8, true⟩ }), .pf0, ⟨5, 8, true⟩, by decide +kernel⟩,
    ⟨(skyUp.updSky fun k => { k with snap := some ⟨5, 8, true⟩ }), 6, [1, 2, 3, 4, 5, 6, 7, 8], ⟨5, 8, true⟩, by decide +kernel⟩⟩

theorem witness_PortsComeUp :
    (∃ (s : State) (ag : Agent) (p : Fin 384) (d : Word), s.pwr.mainUp = true ∧ pf1Denied ag (Reg.PORT_CFG p) s = false ∧ s.flag (F.PORT_CFG_EN p) = false ∧ (if 767 < bits d 4 10 then 0 else bits d 4 10) % 2 ^ bits d 1 2 = 0 ∧ ¬(bits d 1 2 = 3 ∧ d.getLsbD 3 = true) ∧ ¬(d.getLsbD 14 = true ∧ d.getLsbD 15 = true) ∧ (∀ q ∈ List.range 384, q ≠ p.val → portActive s q = true → (if 767 < bits d 4 10 then 0 else bits d 4 10) + 2 ^ bits d 1 2 ≤ portFirst s q ∨ portFirst s q + portLanes s q ≤ (if 767 < bits d 4 10 then 0 else bits d 4 10))) ∧
    (∃ (s : State) (ag : Agent) (p : Fin 384) (d : Word), s.pwr.mainUp = true ∧ pf1Denied ag (Reg.PORT_CFG p) s = false ∧ s.flag (F.PORT_CFG_EN p) = false ∧ ((if 767 < bits d 4 10 then 0 else bits d 4 10) % 2 ^ bits d 1 2 ≠ 0 ∨ (bits d 1 2 = 3 ∧ d.getLsbD 3 = true) ∨ (d.getLsbD 14 = true ∧ d.getLsbD 15 = true) ∨ (∃ q ∈ List.range 384, q ≠ p.val ∧ portActive s q = true ∧ portFirst s q < (if 767 < bits d 4 10 then 0 else bits d 4 10) + 2 ^ bits d 1 2 ∧ (if 767 < bits d 4 10 then 0 else bits d 4 10) < portFirst s q + portLanes s q))) ∧
    (∃ (s : State) (ag : Agent) (p : Fin 384), s.pwr.mainUp = true ∧ pf1Denied ag (Reg.PORT_CFG p) s = false ∧ s.flag (F.PORT_CFG_EN p) = true) ∧
    (∃ (s : State) (p : Fin 384), s.pwr.mainUp = true ∧ s.flag (F.PORT_CFG_EN p) = true ∧ s.flag (F.PORT_LIVE_CFG_OK p) = true) ∧
    (∃ (s : State) (p : Fin 384), s.pwr.mainUp = true ∧ s.flag (F.PORT_CFG_EN p) = true ∧ s.flag (F.PORT_LIVE_CFG_OK p) = true ∧ (∀ n ∈ lanesOf s p, s.flag (F.DLN_LANE_CTRL_EN n) = true ∧ (s.lane n).on = true ∧ (s.lane n).rate = (if portHalf s p then 1 else 0) ∧ s.flag (F.DLN_LANE_STATUS_ALIGNED n) = true) ∧ s.flag (F.PORT_LIVE_PCS_LOCK p) = true ∧ s.flag (F.PORT_LIVE_FEC_LOCK p) = true ∧ s.flag (F.PORT_LIVE_LOCAL_FAULT p) = false ∧ s.flag (F.PORT_LIVE_REMOTE_FAULT p) = false ∧ s.flag (F.PORT_LIVE_UP p) = false) ∧
    (∃ (s : State) (p : Fin 384), s.pwr.mainUp = true ∧ s.flag (F.PORT_CFG_EN p) = true ∧ s.flag (F.PORT_LIVE_CFG_OK p) = true ∧ s.flag (F.PORT_LIVE_UP p) = false ∧ ¬(∀ n ∈ lanesOf s p, s.flag (F.DLN_LANE_CTRL_EN n) = true ∧ (s.lane n).on = true ∧ (s.lane n).rate = (if portHalf s p then 1 else 0) ∧ s.flag (F.DLN_LANE_STATUS_ALIGNED n) = true)) ∧
    (∃ (s : State) (p : Fin 384), s.pwr.mainUp = true ∧ s.flag (F.PORT_CFG_EN p) = true ∧ s.flag (F.PORT_LIVE_CFG_OK p) = true ∧ s.flag (F.PORT_LIVE_UP p) = false ∧ (∀ n ∈ lanesOf s p, s.flag (F.DLN_LANE_CTRL_EN n) = true ∧ (s.lane n).on = true ∧ (s.lane n).rate = (if portHalf s p then 1 else 0) ∧ s.flag (F.DLN_LANE_STATUS_ALIGNED n) = true) ∧ s.flag (F.PORT_LIVE_PCS_LOCK p) = false) ∧
    (∃ (s : State) (p : Fin 384), s.pwr.mainUp = true ∧ s.flag (F.PORT_LIVE_RECOVERY p) = true) ∧
    (∃ (s : State), s.pwr.mainUp = true) :=
  ⟨⟨laneUp, .pf0, 7, 0x50, by decide +kernel⟩,
    ⟨laneUp, .pf0, 7, 0x54, by decide +kernel⟩,
    ⟨portOn, .pf0, 3, by decide +kernel⟩,
    ⟨portOn, 3, by decide +kernel⟩,
    ⟨(portOn.setReg (Reg.PORT_LIVE 3) 0x7003A), 3, by decide +kernel⟩,
    ⟨(portOn.setReg (Reg.DLN_LANE_STATUS 5) 0), 3, by decide +kernel⟩,
    ⟨(portOn.setReg (Reg.PORT_LIVE 3) 8), 3, by decide +kernel⟩,
    ⟨(portOn.setReg (Reg.PORT_LIVE 3) 0xF), 3, by decide +kernel⟩,
    ⟨(up.setReg (Reg.BUF_PORT_CFG 9) 0xFFFFFFFF), by decide +kernel⟩⟩

theorem witness_PortsGoDownAndFlush :
    (∃ (s : State) (p : Fin 384) (c : BitVec 4), s.pwr.mainUp = true ∧ s.FramesFit ∧ s.flag (F.PORT_LIVE_UP p) = true ∧ c ≠ 0) ∧
    (∃ (s : State) (p : Fin 384) (c : BitVec 4), s.pwr.mainUp = true ∧ (s.flag (F.PORT_LIVE_UP p) = false ∨ (c = 0 ∧ (∀ n ∈ lanesOf s p, s.flag (F.DLN_LANE_CTRL_EN n) = true ∧ (s.lane n).on = true ∧ (s.lane n).rate = (if portHalf s p then 1 else 0) ∧ s.flag (F.DLN_LANE_STATUS_ALIGNED n) = true)))) ∧
    (∃ (s : State) (ag : Agent) (p : Fin 384), s.pwr.mainUp = true ∧ pf1Denied ag (Reg.PORT_CFG p) s = false ∧ s.FramesFit ∧ s.flag (F.PORT_CFG_EN p) = true ∧ s.flag (F.PORT_LIVE_UP p) = true) ∧
    (∃ (s : State) (ag : Agent) (p : Fin 384), s.pwr.mainUp = true ∧ pf1Denied ag (Reg.PORT_CFG p) s = false ∧ s.flag (F.PORT_CFG_EN p) = true ∧ s.flag (F.PORT_LIVE_UP p) = false ∧ s.flag (F.PORT_LIVE_LINGER p) = false) ∧
    (∃ (s : State) (p : Fin 384) (k : Nat) (id : Nat) (f : Frame), s.pwr.mainUp = true ∧ s.FramesFit ∧ s.flag (F.PORT_LIVE_LINGER p) = true ∧ k < 16 ∧ (∀ q ∈ List.range 16, s.queue (16 * p.val + q) = if q = k then [id] else []) ∧ s.frame? id = some f ∧ f.egress = p.val ∧ f.queue = k ∧ f.ended = true ∧ f.trap = none ∧ f.phase = .queued) ∧
    (∃ (s : State) (p : Fin 384), s.pwr.mainUp = true ∧ s.flag (F.PORT_LIVE_LINGER p) = false) :=
  ⟨⟨(portUpS.setReg (Reg.PORT_LIVE 3) 0x07000039), 3, 9, by decide +kernel, framesFit_of _ (by decide +kernel), by decide +kernel, by decide +kernel⟩,
    ⟨portOn, 3, 5, by decide +kernel⟩,
    ⟨queued, .pf0, 3, by decide +kernel, by decide +kernel, framesFit_of _ (by decide +kernel), by decide +kernel, by decide +kernel⟩,
    ⟨(portOn.setReg (Reg.PORT_LIVE 3) 8), .pf0, 3, by decide +kernel⟩,
    ⟨(queued.setReg (Reg.PORT_LIVE 3) 0x1A), 3, 5, 7, frQ, by and_intros <;> first | exact framesFit_of _ (by decide +kernel) | decide +kernel⟩,
    ⟨up, 3, by decide +kernel⟩⟩

theorem witness_FlowControl :
    (∃ (s : State) (p : Fin 384) (bs : List Byte), s.pwr.mainUp = true ∧ half bs 12 = 0x8808 ∧ half bs 14 = 0x0001 ∧ s.flag (F.PORT_LIVE_UP p) = true ∧ 64 ≤ bs.length ∧ bs.length ≤ s.fld (F.PORT_MAX_FRAME_BYTES p) ∧ fcsOk bs = true ∧ frameComes s p bs = true ∧ bit (s.port p).cfg 14 = true) ∧
    (∃ (s : State) (p : Fin 384) (bs : List Byte), s.pwr.mainUp = true ∧ half bs 12 = 0x8808 ∧ half bs 14 = 0x0001 ∧ s.flag (F.PORT_LIVE_UP p) = true ∧ 64 ≤ bs.length ∧ bs.length ≤ s.fld (F.PORT_MAX_FRAME_BYTES p) ∧ fcsOk bs = true ∧ frameComes s p bs = true ∧ bit (s.port p).cfg 14 = false) ∧
    (∃ (s : State) (p : Fin 384) (bs : List Byte), s.pwr.mainUp = true ∧ half bs 12 = 0x8808 ∧ half bs 14 = 0x0101 ∧ s.flag (F.PORT_LIVE_UP p) = true ∧ 64 ≤ bs.length ∧ bs.length ≤ s.fld (F.PORT_MAX_FRAME_BYTES p) ∧ fcsOk bs = true ∧ frameComes s p bs = true ∧ bit (s.port p).cfg 15 = true) ∧
    (∃ (s : State) (p : Fin 384) (bs : List Byte), s.pwr.mainUp = true ∧ half bs 12 = 0x8808 ∧ half bs 14 = 0x0101 ∧ s.flag (F.PORT_LIVE_UP p) = true ∧ 64 ≤ bs.length ∧ bs.length ≤ s.fld (F.PORT_MAX_FRAME_BYTES p) ∧ fcsOk bs = false ∧ frameComes s p bs = true) ∧
    (∃ (s : State) (p : Fin 384) (bs : List Byte), s.pwr.mainUp = true ∧ (half bs 12 ≠ 0x8808 ∨ half bs 14 ≠ 0x0101 ∨ s.flag (F.PORT_LIVE_UP p) = false ∨ frameComes s p bs = false)) ∧
    (∃ (s : State) (p : Fin 384), portFirst s p + portLanes s p ≤ 768) ∧
    (∃ (s : State) (p : Fin 384), portFirst s p + portLanes s p ≤ 768 ∧ (∃ l ∈ lanesOf s p, s.fld (F.DLN_LANE_CTRL_LOOPBACK l) = 1 ∨ s.fld (F.DLN_LANE_CTRL_LOOPBACK l) = 2)) ∧
    (∃ (s : State), s.pwr.mainUp = true) ∧
    (∃ (s : State) (p : Fin 384) (k : Fin 8), s.pwr.mainUp = true ∧ s.rbit (Reg.BUF_PORT_PG_STATUS p) k = true ∧ s.rbit (Reg.PORT_PFC_TX p) (16 + k) = true ∧ s.flag (F.PORT_LIVE_UP p) = true) ∧
    (∃ (s : State) (p : Fin 384) (k : Fin 8), s.pwr.mainUp = true ∧ (s.rbit (Reg.BUF_PORT_PG_STATUS p) k = false ∨ s.rbit (Reg.PORT_PFC_TX p) (16 + k) = false ∨ s.flag (F.PORT_LIVE_UP p) = false)) :=
  ⟨⟨(portUpS.updPort 3 fun r => { r with cfg := 0x4057 }), 3, (macFrame [0, 1, 0, 9]), by decide +kernel⟩,
    ⟨portUpS, 3, (macFrame [0, 1, 0, 9]), by decide +kernel⟩,
    ⟨(portUpS.updPort 3 fun r => { r with cfg := 0x8057 }), 3, (macFrame [1, 1, 0, 5, 0, 7, 0, 0, 0, 0]), by decide +kernel⟩,
    ⟨portUpS, 3, (macBody [1, 1, 0, 9] ++ [1, 2, 3, 4]), by decide +kernel⟩,
    ⟨portUpS, 3, (macFrame [0, 1, 0, 9]), by decide +kernel⟩,
    ⟨portUpS, 3, by decide +kernel⟩,
    ⟨(loopedUp 0x8057 [[1, 2], [3]]), 3, by decide +kernel⟩,
    ⟨(portUpS.setReg (Reg.PORT_LIVE 3) 0x07000039), by decide +kernel⟩,
    ⟨((portUpS.setReg (Reg.BUF_PORT_PG_STATUS 3) 4).setReg (Reg.PORT_PFC_TX 3) 0xFF0099), 3, 2, by decide +kernel⟩,
    ⟨portUpS, 3, 2, by decide +kernel⟩⟩

theorem witness_FramesAreReceived :
    (∃ (s : State) (src : Fin 416) (id : Nat) (bs : List Byte), s.pwr.mainUp = true ∧ portUp s src = true ∧ frameComes s src bs = true ∧ s.frame? id = none ∧ 12 ≤ bs.length ∧ bs.length < 64) ∧
    (∃ (s : State) (src : Fin 416) (id : Nat) (bs : List Byte) (arr : Arrival), s.pwr.mainUp = true ∧ s.frame? id = none ∧ ((portUp s src = false ∧ arr.begun = false) ∨ (portUp s src = true ∧ frameComes s src bs = false))) ∧
    (∃ (s : State) (src : Fin 416) (id : Nat) (bs : List Byte), s.pwr.mainUp = true ∧ s.frame? id = none ∧ portUp s src = true ∧ frameComes s src bs = true ∧ bs.length < 12) ∧
    (∃ (s : State) (src : Fin 416) (id : Nat) (arr : Arrival), s.pwr.mainUp = true ∧ s.frame? id = none ∧ portUp s src = false ∧ arr.begun = true ∧ src.val < 384 ∧ s.flag F.TLM_TAG_CTRL_EN = false) ∧
    (∃ (s : State) (src : Fin 416) (id : Nat) (f : Frame), s.pwr.mainUp = true ∧ s.frame? id = some f ∧ (f.src ≠ src.val ∨ f.ended = true)) ∧
    (∃ (s : State) (src : Fin 416) (id : Nat) (bs : List Byte), s.pwr.mainUp = true ∧ portUp s src = true ∧ frameComes s src bs = true ∧ s.frame? id = none ∧ src.val < 384 ∧ s.flag F.TLM_TAG_CTRL_EN = false ∧ half bs 12 ≠ 0x8808 ∧ 64 ≤ bs.length ∧ bs.length ≤ s.fld (F.PORT_MAX_FRAME_BYTES src)) ∧
    (∃ (s : State) (src : Fin 416) (id : Nat) (bs : List Byte), s.pwr.mainUp = true ∧ portUp s src = true ∧ frameComes s src bs = true ∧ s.frame? id = none ∧ src.val < 384 ∧ s.flag F.TLM_TAG_CTRL_EN = false ∧ half bs 12 ≠ 0x8808 ∧ 64 ≤ bs.length ∧ s.fld (F.PORT_MAX_FRAME_BYTES src) < bs.length ∧ 63 < s.fld (F.PORT_MAX_FRAME_BYTES src) ∧ half (bs.take (s.fld (F.PORT_MAX_FRAME_BYTES src) + 1)) 12 ≠ 0x8808) ∧
    (∃ (s : State) (src : Fin 416) (id : Nat) (bs : List Byte), s.pwr.mainUp = true ∧ portUp s src = true ∧ frameComes s src bs = true ∧ s.frame? id = none ∧ src.val < 384 ∧ s.flag F.TLM_TAG_CTRL_EN = false ∧ half bs 12 ≠ 0x8808 ∧ 64 ≤ bs.length ∧ bs.length ≤ s.fld (F.PORT_MAX_FRAME_BYTES src) ∧ s.flag F.TLM_SLOT_CMD_EN = false) ∧
    (∃ (s : State) (src : Fin 416) (id : Nat) (bs : List Byte), s.pwr.mainUp = true ∧ portUp s src = true ∧ frameComes s src bs = true ∧ s.frame? id = none ∧ 384 ≤ src.val ∧ s.flag F.TLM_TAG_CTRL_EN = false ∧ half bs 12 ≠ 0x8808 ∧ 64 ≤ bs.length ∧ bs.length ≤ 2000 ∧ fcsOk bs = true) ∧
    (∃ (s : State) (src : Fin 416) (id : Nat) (f : Frame) (bs : List Byte), s.pwr.mainUp = true ∧ portUp s src = true ∧ frameComes s src bs = true ∧ src.val < 384 ∧ s.frame? id = some f ∧ f.src = src.val ∧ f.ended = false ∧ f.phase = .queued ∧ f.tag = none ∧ f.polChg = none ∧ f.schChg = [] ∧ f.defChg = none ∧ half bs 12 ≠ 0x8808 ∧ 64 ≤ bs.length ∧ bs.length ≤ s.fld (F.PORT_MAX_FRAME_BYTES src) ∧ fcsOk bs = true) :=
  ⟨⟨(loopedUp 0x57 [List.replicate 63 0]), 3, 4, (List.replicate 63 0), by decide +kernel⟩,
    ⟨up, 3, 4, (List.replicate 80 0), ⟨0, 0, ⟨0, 0⟩, 0, 0, false⟩, by decide +kernel⟩,
    ⟨portUpS, 3, 4, (List.replicate 11 0), by decide +kernel⟩,
    ⟨up, 3, 4, ⟨0, 0, ⟨0, 0⟩, 0, 0, true⟩, by decide +kernel⟩,
    ⟨queued, 3, 7, frQ, by decide +kernel⟩,
    ⟨portUpS, 3, 4, (dataFrame 80), by decide +kernel⟩,
    ⟨(portUpS.setReg (Reg.PORT_MAX_FRAME 3) 70), 3, 4, (dataFrame 80), by decide +kernel⟩,
    ⟨portUpS, 3, 4, (dataFrame 80), by decide +kernel⟩,
    ⟨timUp, 385, 4, (dataFrame 80), by decide +kernel⟩,
    ⟨(portUpS.setFrame 7 { frQ with src := 3, ended := false }), 3, 7, { frQ with src := 3, ended := false }, (dataFrame 64), by decide +kernel⟩⟩

theorem witness_InjectionAndTraps :
    (∃ (s : State) (w0 : Word) (w1 : Word) (w2 : Word) (w3 : Word) (w4 : Word) (w5 : Word) (w6 : Word) (w7 : Word), s.pwr.mainUp = true ∧ s.fld F.FWD_INJ_RD_RD % 2 ^ s.fld F.FWD_INJ_RING_LOG2 ≠ s.fld F.FWD_INJ_WR_WR % 2 ^ s.fld F.FWD_INJ_RING_LOG2 ∧ s.sramBytes (s.fld F.FWD_INJ_BASE_BASE / 64 * 64 + 32 * (s.fld F.FWD_INJ_RD_RD % 2 ^ s.fld F.FWD_INJ_RING_LOG2)) 32 = wordBytes [w0, w1, w2, w3, w4, w5, w6, w7] ∧ 60 ≤ bits w1 16 14 ∧ bits w1 16 14 ≤ 16356 ∧ bits w0 0 9 ≤ 415 ∧ (w0.getLsbD 13 = false → bits w0 0 9 ≤ 383)) ∧
    (∃ (s : State) (w0 : Word) (w1 : Word) (w2 : Word) (w3 : Word) (w4 : Word) (w5 : Word) (w6 : Word) (w7 : Word), s.pwr.mainUp = true ∧ s.fld F.FWD_INJ_RD_RD % 2 ^ s.fld F.FWD_INJ_RING_LOG2 ≠ s.fld F.FWD_INJ_WR_WR % 2 ^ s.fld F.FWD_INJ_RING_LOG2 ∧ s.sramBytes (s.fld F.FWD_INJ_BASE_BASE / 64 * 64 + 32 * (s.fld F.FWD_INJ_RD_RD % 2 ^ s.fld F.FWD_INJ_RING_LOG2)) 32 = wordBytes [w0, w1, w2, w3, w4, w5, w6, w7] ∧ (bits w1 16 14 < 60 ∨ 16356 < bits w1 16 14 ∨ 415 < bits w0 0 9 ∨ (w0.getLsbD 13 = false ∧ 383 < bits w0 0 9))) ∧
    (∃ (s : State), s.pwr.mainUp = true ∧ ¬(s.fld F.FWD_INJ_RD_RD % 2 ^ s.fld F.FWD_INJ_RING_LOG2 ≠ s.fld F.FWD_INJ_WR_WR % 2 ^ s.fld F.FWD_INJ_RING_LOG2)) ∧
    (∃ (s : State) (ag : Agent), s.pwr.mainUp = true ∧ pf1Denied ag Reg.FWD_HINJ_DATA s = false) ∧
    (∃ (s : State) (ag : Agent) (w0 : Word) (w1 : Word), s.pwr.mainUp = true ∧ pf1Denied ag Reg.FWD_HINJ_CMD s = false ∧ hinjBusy s = false ∧ s.reg (Reg.FWD_HINJ_DESC 0) = w0 ∧ s.reg (Reg.FWD_HINJ_DESC 1) = w1 ∧ 60 ≤ bits w1 16 14 ∧ bits w1 16 14 ≤ 16356 ∧ bits w0 0 9 ≤ 415 ∧ (w0.getLsbD 13 = false → bits w0 0 9 ≤ 383) ∧ bits w1 16 14 ≤ s.net.hostData.length ∧ bits w1 16 14 ≤ 2044) ∧
    (∃ (s : State) (ag : Agent), s.pwr.mainUp = true ∧ pf1Denied ag Reg.FWD_HINJ_CMD s = false ∧ hinjBusy s = false ∧ (s.net.hostData.length < bits (s.reg (Reg.FWD_HINJ_DESC 1)) 16 14 ∨ 2044 < bits (s.reg (Reg.FWD_HINJ_DESC 1)) 16 14)) ∧
    (∃ (s : State) (id : Nat) (r : Nat) (f : Frame), s.pwr.mainUp = true ∧ s.frame? id = some f ∧ f.trap = some r ∧ f.ended = true ∧ f.bad = none ∧ f.slices.length = (f.bytes.length + 255) / 256 ∧ f.phase = .queued ∧ (s.fld F.FWD_TRAP_WR_WR % 2 ^ s.fld F.FWD_TRAP_RING_LOG2 + 1) % 2 ^ s.fld F.FWD_TRAP_RING_LOG2 ≠ s.fld F.FWD_TRAP_RD_RD % 2 ^ s.fld F.FWD_TRAP_RING_LOG2) ∧
    (∃ (s : State) (id : Nat) (r : Nat) (f : Frame), s.pwr.mainUp = true ∧ s.frame? id = some f ∧ f.trap = some r ∧ f.ended = true ∧ f.bad = none ∧ f.slices.length = (f.bytes.length + 255) / 256 ∧ f.phase = .queued ∧ (s.fld F.FWD_TRAP_WR_WR % 2 ^ s.fld F.FWD_TRAP_RING_LOG2 + 1) % 2 ^ s.fld F.FWD_TRAP_RING_LOG2 = s.fld F.FWD_TRAP_RD_RD % 2 ^ s.fld F.FWD_TRAP_RING_LOG2) ∧
    (∃ (s : State) (id : Nat) (r : Nat) (f : Frame), s.pwr.mainUp = true ∧ s.frame? id = some f ∧ f.trap = some r ∧ f.ended = true ∧ f.bad = none ∧ f.slices.length = (f.bytes.length + 255) / 256 ∧ f.phase = .trapOnly ∧ f.egress = 511 ∧ (s.fld F.FWD_TRAP_WR_WR % 2 ^ s.fld F.FWD_TRAP_RING_LOG2 + 1) % 2 ^ s.fld F.FWD_TRAP_RING_LOG2 ≠ s.fld F.FWD_TRAP_RD_RD % 2 ^ s.fld F.FWD_TRAP_RING_LOG2) :=
  ⟨⟨(injUp 0x20053 0x003C0007), 0x20053, 0x003C0007, 0, 0, 0, 0, 0, 0, by decide +kernel⟩,
    ⟨(injUp 0x1FF 0x003C0007), 0x1FF, 0x003C0007, 0, 0, 0, 0, 0, 0, by decide +kernel⟩,
    ⟨up, by decide +kernel⟩,
    ⟨up, .pf0, by decide +kernel⟩,
    ⟨(hinjUp 60), .pf0, 0x2003, 0x003C0000, by decide +kernel⟩,
    ⟨(hinjUp 56), .pf0, by decide +kernel⟩,
    ⟨(queued.setFrame 7 { frQ with trap := some 8 }), 7, 8, { frQ with trap := some 8 }, by decide +kernel⟩,
    ⟨((queued.setFrame 7 { frQ with trap := some 8 }).setReg Reg.FWD_TRAP_RD 1), 7, 8, { frQ with trap := some 8 }, by decide +kernel⟩,
    ⟨(queued.setFrame 7 { frQ with trap := some 3, phase := .trapOnly, egress := 511 }), 7, 3, { frQ with trap := some 3, phase := .trapOnly, egress := 511 }, by decide +kernel⟩⟩

theorem witness_TablesAreStagedAndCommitted :
    (∃ (s : State) (k : Fin 4) (w : BitVec 24), s.pwr.mainUp = true ∧ (k = 1 → s.rbit Reg.HOST_PF1_WRITE_EN 9 = true) ∧ s.net.commit = 0 ∧ 0xB00000 ≤ w.toNat ∧ w.toNat < 0xD04000 ∧ ((stagedEntry s w.toNat).isSome = true ∨ s.net.staged.length < 4096)) ∧
    (∃ (s : State) (k : Fin 4) (w : BitVec 24), s.pwr.mainUp = true ∧ (k = 1 → s.rbit Reg.HOST_PF1_WRITE_EN 9 = true) ∧ s.net.commit = 0 ∧ 0x200000 ≤ w.toNat ∧ w.toNat < 0x600000 ∧ w.toNat % 2 = 0 ∧ (smapGet noGather s.net.gather k).all (fun x => x.1 != w.toNat) = true) ∧
    (∃ (s : State) (k : Fin 4) (w : BitVec 24) (d0 : Word) (b : Nat), s.pwr.mainUp = true ∧ (k = 1 → s.rbit Reg.HOST_PF1_WRITE_EN 9 = true) ∧ s.net.commit = 0 ∧ 0x200000 ≤ b ∧ b < 0x600000 ∧ b % 2 = 0 ∧ w.toNat = b + 1 ∧ smapGet noGather s.net.gather k = some (b, [(b, d0)]) ∧ s.net.staged.length < 4096) ∧
    (∃ (s : State) (k : Fin 4) (w : BitVec 24) (b : Nat), s.pwr.mainUp = true ∧ (k = 1 → s.rbit Reg.HOST_PF1_WRITE_EN 9 = true) ∧ s.net.commit = 0 ∧ 0x200000 ≤ b ∧ b < 0x600000 ∧ b % 2 = 0 ∧ w.toNat = b + 1 ∧ (smapGet noGather s.net.gather k).all (fun x => x.1 != b) = true ∧ s.net.staged.length < 4096) ∧
    (∃ (s : State) (k : Fin 4) (w : BitVec 24), s.pwr.mainUp = true ∧ (k = 1 → s.rbit Reg.HOST_PF1_WRITE_EN 9 = true) ∧ s.net.commit = 0 ∧ 0xB00000 ≤ w.toNat ∧ w.toNat < 0xD04000 ∧ stagedEntry s w.toNat = none ∧ 4096 ≤ s.net.staged.length) ∧
    (∃ (s : State), s.pwr.mainUp = true ∧ s.net.commit ≠ 0) ∧
    (∃ (s : State) (ag : Agent) (d : Word), s.pwr.mainUp = true ∧ pf1Denied ag Reg.FWD_COMMIT_CMD s = false ∧ d.getLsbD 1 = false ∧ s.net.commit = 0) ∧
    (∃ (s : State) (ag : Agent) (d : Word), s.pwr.mainUp = true ∧ pf1Denied ag Reg.FWD_COMMIT_CMD s = false ∧ d.getLsbD 0 = false ∧ s.net.commit = 0) ∧
    (∃ (s : State) (ag : Agent) (d : Word) (c : Instr), s.pwr.mainUp = true ∧ pf1Denied ag Reg.FWD_COMMIT_CMD s = false ∧ s.net.commit ≠ 0 ∧ c ∈ [Instr.commit ag d, .fwdDiscard ag d]) ∧
    (∃ (s : State), s.pwr.mainUp = true ∧ s.net.commit = 1 ∧ s.net.stageLost = none ∧ s.net.eccBad = [] ∧ (∀ e ∈ s.net.staged, entryBreaks s e.1 = false)) ∧
    (∃ (s : State) (b : Nat), s.pwr.mainUp = true ∧ s.net.commit = 1 ∧ s.net.stageLost = some b ∧ b < 2 ^ 24) ∧
    (∃ (s : State) (n : Nat) (b : Nat) (ws : List Word) (r : List (Nat × List Word)), s.pwr.mainUp = true ∧ s.net.commit = 1 ∧ s.net.stageLost = none ∧ s.net.eccBad = [] ∧ s.net.staged = (b, ws) :: r ∧ b < 2 ^ 24 ∧ (∀ e ∈ s.net.staged, entryBreaks s e.1 = false) ∧ n < 24) ∧
    (∃ (s : State) (b : Nat) (ws : List Word) (x : Word) (r : List (Nat × List Word)), s.pwr.mainUp = true ∧ s.net.commit = 1 ∧ s.net.stageLost = none ∧ s.net.eccBad = [] ∧ s.net.staged = (b, ws) :: r ∧ (∀ e ∈ r, b ≤ e.1) ∧ b < 2 ^ 24 ∧ x ≠ 0) ∧
    (∃ (s : State) (b : Nat) (ws : List Word), s.pwr.mainUp = true ∧ s.net.commit = 1 ∧ s.net.stageLost = none ∧ s.net.eccBad = [] ∧ s.net.staged = [(b, ws)] ∧ b < 2 ^ 24 ∧ entryBreaks s b = true) ∧
    (∃ (s : State) (b : Nat) (w0 : Word) (w1 : Word), 0x200000 ≤ b ∧ b < 0x600000 ∧ b % 2 = 0 ∧ stagedEntry s b = some [w0, w1] ∧ 32 < bits w1 0 8) ∧
    (∃ (s : State) (n : Nat) (b : Nat) (ws : List Word) (x : Word) (r : List (Nat × List Word)), s.pwr.mainUp = true ∧ s.net.commit = 1 ∧ s.net.stageLost = none ∧ s.net.eccBad = [] ∧ s.net.staged = (b, ws) :: r ∧ b < 2 ^ 24 ∧ (∀ e ∈ s.net.staged, entryBreaks s e.1 = false) ∧ n < 24 ∧ x ≠ 0) :=
  ⟨⟨up, 0, 0xD00005, by decide +kernel⟩,
    ⟨up, 3, 0x200006, by decide +kernel⟩,
    ⟨(up.updNet fun n => { n with gather := [(2, some (0x200006, [(0x200006, 9)]))] }), 2, 0x200007, 9, 0x200006, by decide +kernel⟩,
    ⟨(up.updNet fun n => { n with gather := [(2, some (0x200004, [(0x200004, 9)]))], staged := [(0x200006, [5, 6])] }), 2, 0x200007, 0x200006, by decide +kernel⟩,
    ⟨(up.updNet fun n => { n with staged := List.replicate 4096 (0, [1]) }), 0, 0xD00005, by decide +kernel⟩,
    ⟨(up.updNet fun n => { n with commit := 1 }), by decide +kernel⟩,
    ⟨up, .pf0, 0, by decide +kernel⟩,
    ⟨(up.updNet fun n => { n with staged := [(0, [1])] }), .pf0, 2, by decide +kernel⟩,
    ⟨(up.updNet fun n => { n with commit := 3 }), .pf0, 2, (.fwdDiscard .pf0 2), by decide +kernel⟩,
    ⟨(up.updNet fun n => { n with commit := 1, staged := [(0xB00080, [5])] }), by decide +kernel⟩,
    ⟨(up.updNet fun n => { n with commit := 1, stageLost := some 77 }), 77, by decide +kernel⟩,
    ⟨(up.updNet fun n => { n with commit := 1, staged := [(0xB00080, [5])] }), 9, 0xB00080, [5], [], by decide +kernel⟩,
    ⟨(up.updNet fun n => { n with commit := 1, staged := [(0xB00080, [5])] }), 0xB00080, [5], 7, [], by decide +kernel⟩,
    ⟨(up.updNet fun n => { n with commit := 1, staged := [(0xD00005, [0x80000000])] }), 0xD00005, [0x80000000], by decide +kernel⟩,
    ⟨(up.updNet fun n => { n with staged := [(0x200006, [0, 33])] }), 0x200006, 0, 33, by decide +kernel⟩,
    ⟨(up.updNet fun n => { n with commit := 1, staged := [(0xB00080, [5])] }), 9, 0xB00080, [5], 7, [], by decide +kernel⟩⟩

theorem witness_TablesAreStagedAndCommitted_2 :
    (∃ (s : State), s.pwr.mainUp = true ∧ s.net.commit = 2 ∧ s.net.staged.Pairwise (fun x y => x.1 + x.2.length ≤ y.1)) ∧
    (∃ (s : State), s.pwr.mainUp = true ∧ s.net.commit = 3) :=
  ⟨⟨(up.updNet fun n => { n with commit := 2, staged := [(0x200006, [5, 6]), (0xB00080, [5])] }), by decide +kernel⟩,
    ⟨(up.updNet fun n => { n with commit := 3 }), by decide +kernel⟩⟩

theorem witness_FramesAreLookedUp :
    (∃ (s : State) (src : Fin 417) (id : Nat) (f : Frame), s.pwr.mainUp = true ∧ s.frame? id = some f ∧ f.src = src.val ∧ f.phase = .arrived ∧ slotFree f.pipe f s = true ∧ f.bypass = false ∧ f.tag = none ∧ f.ins = 0 ∧ f.slices = [] ∧ f.trap = none ∧ f.drop = false ∧ (parse f.bytes (parseLen f.bytes f.ended)).ptp = none ∧ (parse f.bytes (parseLen f.bytes f.ended)).esmc = false ∧ f.pipe < 24 ∧ f.ended = true ∧ aclFind s (aclKey (parse f.bytes (parseLen f.bytes f.ended)) (if (parse f.bytes (parseLen f.bytes f.ended)).tags = 0 then s.fld (F.FWD_PORT_CFG_PVID src) else (parse f.bytes (parseLen f.bytes f.ended)).vid) src false 0) = none ∧ (parse f.bytes (parseLen f.bytes f.ended)).err = true) ∧
    (∃ (s : State) (src : Fin 417) (id : Nat) (f : Frame), s.pwr.mainUp = true ∧ s.frame? id = some f ∧ f.src = src.val ∧ f.phase = .arrived ∧ slotFree f.pipe f s = true ∧ f.bypass = false ∧ f.tag = none ∧ f.ins = 0 ∧ f.slices = [] ∧ f.trap = none ∧ f.drop = false ∧ (parse f.bytes (parseLen f.bytes f.ended)).ptp = none ∧ (parse f.bytes (parseLen f.bytes f.ended)).esmc = false ∧ f.pipe < 24 ∧ f.ended = true ∧ aclFind s (aclKey (parse f.bytes (parseLen f.bytes f.ended)) (if (parse f.bytes (parseLen f.bytes f.ended)).tags = 0 then s.fld (F.FWD_PORT_CFG_PVID src) else (parse f.bytes (parseLen f.bytes f.ended)).vid) src false 0) = none ∧ (parse f.bytes (parseLen f.bytes f.ended)).err = false ∧ l2Find s (if (parse f.bytes (parseLen f.bytes f.ended)).tags = 0 then s.fld (F.FWD_PORT_CFG_PVID src) else (parse f.bytes (parseLen f.bytes f.ended)).vid) (beNat (slice f.bytes 0 6)) = none ∧ s.flag (F.FWD_PORT_CFG_L2_MISS src) = false) ∧
    (∃ (s : State) (src : Fin 417) (id : Nat) (f : Frame), s.pwr.mainUp = true ∧ s.frame? id = some f ∧ f.src = src.val ∧ f.phase = .arrived ∧ slotFree f.pipe f s = true ∧ f.bypass = false ∧ f.tag = none ∧ f.ins = 0 ∧ f.slices = [] ∧ f.trap = none ∧ f.drop = false ∧ (parse f.bytes (parseLen f.bytes f.ended)).ptp = none ∧ (parse f.bytes (parseLen f.bytes f.ended)).esmc = false ∧ f.pipe < 24 ∧ f.ended = true ∧ aclFind s (aclKey (parse f.bytes (parseLen f.bytes f.ended)) (if (parse f.bytes (parseLen f.bytes f.ended)).tags = 0 then s.fld (F.FWD_PORT_CFG_PVID src) else (parse f.bytes (parseLen f.bytes f.ended)).vid) src false 0) = none ∧ (parse f.bytes (parseLen f.bytes f.ended)).err = false ∧ l2Find s (if (parse f.bytes (parseLen f.bytes f.ended)).tags = 0 then s.fld (F.FWD_PORT_CFG_PVID src) else (parse f.bytes (parseLen f.bytes f.ended)).vid) (beNat (slice f.bytes 0 6)) = none ∧ s.flag (F.FWD_PORT_CFG_L2_MISS src) = true) ∧
    (∃ (s : State) (src : Fin 417) (id : Nat) (i : Nat) (f : Frame), s.pwr.mainUp = true ∧ s.frame? id = some f ∧ f.src = src.val ∧ f.phase = .arrived ∧ slotFree f.pipe f s = true ∧ f.bypass = false ∧ f.tag = none ∧ f.ins = 0 ∧ f.slices = [] ∧ f.trap = none ∧ f.drop = false ∧ (parse f.bytes (parseLen f.bytes f.ended)).ptp = none ∧ (parse f.bytes (parseLen f.bytes f.ended)).esmc = false ∧ f.pipe < 24 ∧ f.ended = true ∧ aclFind s (aclKey (parse f.bytes (parseLen f.bytes f.ended)) (if (parse f.bytes (parseLen f.bytes f.ended)).tags = 0 then s.fld (F.FWD_PORT_CFG_PVID src) else (parse f.bytes (parseLen f.bytes f.ended)).vid) src false 0) = none ∧ (parse f.bytes (parseLen f.bytes f.ended)).err = false ∧ l2Find s (if (parse f.bytes (parseLen f.bytes f.ended)).tags = 0 then s.fld (F.FWD_PORT_CFG_PVID src) else (parse f.bytes (parseLen f.bytes f.ended)).vid) (beNat (slice f.bytes 0 6)) = some i ∧ bits (s.indw 6 (4 * i + 2)) 0 3 = 1 ∧ bits (s.indw 6 (4 * i + 2)) 16 14 = src.val ∧ s.flag (F.FWD_PORT_CFG_HAIRPIN src) = false) ∧
    (∃ (s : State) (src : Fin 417) (id : Nat) (i : Nat) (f : Frame), s.pwr.mainUp = true ∧ s.frame? id = some f ∧ f.src = src.val ∧ f.phase = .arrived ∧ slotFree f.pipe f s = true ∧ f.bypass = false ∧ f.tag = none ∧ f.ins = 0 ∧ f.slices = [] ∧ f.trap = none ∧ f.drop = false ∧ (parse f.bytes (parseLen f.bytes f.ended)).ptp = none ∧ (parse f.bytes (parseLen f.bytes f.ended)).esmc = false ∧ f.pipe < 24 ∧ f.ended = true ∧ aclFind s (aclKey (parse f.bytes (parseLen f.bytes f.ended)) (if (parse f.bytes (parseLen f.bytes f.ended)).tags = 0 then s.fld (F.FWD_PORT_CFG_PVID src) else (parse f.bytes (parseLen f.bytes f.ended)).vid) src false 0) = none ∧ (parse f.bytes (parseLen f.bytes f.ended)).err = false ∧ l2Find s (if (parse f.bytes (parseLen f.bytes f.ended)).tags = 0 then s.fld (F.FWD_PORT_CFG_PVID src) else (parse f.bytes (parseLen f.bytes f.ended)).vid) (beNat (slice f.bytes 0 6)) = some i ∧ bits (s.indw 6 (4 * i + 2)) 0 3 = 1 ∧ bits (s.indw 6 (4 * i + 2)) 16 14 < 384 ∧ (bits (s.indw 6 (4 * i + 2)) 16 14 ≠ src.val ∨ s.flag (F.FWD_PORT_CFG_HAIRPIN src) = true)) ∧
    (∃ (s : State) (src : Fin 417) (id : Nat) (i : Nat) (g : Nat) (f : Frame), s.pwr.mainUp = true ∧ s.frame? id = some f ∧ f.src = src.val ∧ f.phase = .arrived ∧ slotFree f.pipe f s = true ∧ f.bypass = false ∧ f.tag = none ∧ f.ins = 0 ∧ f.slices = [] ∧ f.trap = none ∧ f.drop = false ∧ (parse f.bytes (parseLen f.bytes f.ended)).ptp = none ∧ (parse f.bytes (parseLen f.bytes f.ended)).esmc = false ∧ f.pipe < 24 ∧ f.ended = true ∧ aclFind s (aclKey (parse f.bytes (parseLen f.bytes f.ended)) (if (parse f.bytes (parseLen f.bytes f.ended)).tags = 0 then s.fld (F.FWD_PORT_CFG_PVID src) else (parse f.bytes (parseLen f.bytes f.ended)).vid) src false 0) = none ∧ (parse f.bytes (parseLen f.bytes f.ended)).err = false ∧ l2Find s (if (parse f.bytes (parseLen f.bytes f.ended)).tags = 0 then s.fld (F.FWD_PORT_CFG_PVID src) else (parse f.bytes (parseLen f.bytes f.ended)).vid) (beNat (slice f.bytes 0 6)) = some i ∧ bits (s.indw 6 (4 * i + 2)) 0 3 = 2 ∧ (bits (s.indw 6 (4 * i + 2)) 16 14) = g ∧ bits (s.indw 6 (0xD40000 + 4 * (memberOf (s.indw 6) g ((flowHash f.bytes (parse f.bytes (parseLen f.bytes f.ended)) src (s.reg Reg.FWD_HASH_SEED)) / 2 ^ 16 * bits (s.indw 6 (0xD00000 + g)) 0 9 / 2 ^ 16)) + 3)) 16 9 < 384) ∧
    (∃ (s : State) (src : Fin 417) (id : Nat) (i : Nat) (r : Nat) (g : Nat) (f : Frame), s.pwr.mainUp = true ∧ s.frame? id = some f ∧ f.src = src.val ∧ f.phase = .arrived ∧ slotFree f.pipe f s = true ∧ f.bypass = false ∧ f.tag = none ∧ f.ins = 0 ∧ f.slices = [] ∧ f.trap = none ∧ f.drop = false ∧ (parse f.bytes (parseLen f.bytes f.ended)).ptp = none ∧ (parse f.bytes (parseLen f.bytes f.ended)).esmc = false ∧ f.pipe < 24 ∧ f.ended = true ∧ aclFind s (aclKey (parse f.bytes (parseLen f.bytes f.ended)) (if (parse f.bytes (parseLen f.bytes f.ended)).tags = 0 then s.fld (F.FWD_PORT_CFG_PVID src) else (parse f.bytes (parseLen f.bytes f.ended)).vid) src true 0) = none ∧ (parse f.bytes (parseLen f.bytes f.ended)).err = false ∧ l2Find s (if (parse f.bytes (parseLen f.bytes f.ended)).tags = 0 then s.fld (F.FWD_PORT_CFG_PVID src) else (parse f.bytes (parseLen f.bytes f.ended)).vid) (beNat (slice f.bytes 0 6)) = some i ∧ bits (s.indw 6 (4 * i + 2)) 0 3 = 3 ∧ (if (parse f.bytes (parseLen f.bytes f.ended)).ver = 4 then lpmFind s 0x200000 0x600000 2 32 (s.fld (F.FWD_PORT_CFG_VRF src)) (beNat (parse f.bytes (parseLen f.bytes f.ended)).ipDst) else if (parse f.bytes (parseLen f.bytes f.ended)).ver = 6 then lpmFind s 0x600000 0xB00000 5 128 (s.fld (F.FWD_PORT_CFG_VRF src)) (beNat (parse f.bytes (parseLen f.bytes f.ended)).ipDst) else none) = some r ∧ bits (s.indw 6 r) 8 2 = 0 ∧ 1 < (parse f.bytes (parseLen f.bytes f.ended)).ttl ∧ bits (s.indw 6 r) 10 14 = g ∧ bits (s.indw 6 (0xD40000 + 4 * (memberOf (s.indw 6) g ((flowHash f.bytes (parse f.bytes (parseLen f.bytes f.ended)) src (s.reg Reg.FWD_HASH_SEED)) / 2 ^ 16 * bits (s.indw 6 (0xD00000 + g)) 0 9 / 2 ^ 16)) + 3)) 16 9 < 384) ∧
    (∃ (s : State) (src : Fin 417) (id : Nat) (i : Nat) (f : Frame), s.pwr.mainUp = true ∧ s.frame? id = some f ∧ f.src = src.val ∧ f.phase = .arrived ∧ slotFree f.pipe f s = true ∧ f.bypass = false ∧ f.tag = none ∧ f.ins = 0 ∧ f.slices = [] ∧ f.trap = none ∧ f.drop = false ∧ (parse f.bytes (parseLen f.bytes f.ended)).ptp = none ∧ (parse f.bytes (parseLen f.bytes f.ended)).esmc = false ∧ f.pipe < 24 ∧ f.ended = true ∧ aclFind s (aclKey (parse f.bytes (parseLen f.bytes f.ended)) (if (parse f.bytes (parseLen f.bytes f.ended)).tags = 0 then s.fld (F.FWD_PORT_CFG_PVID src) else (parse f.bytes (parseLen f.bytes f.ended)).vid) src false 0) = none ∧ (parse f.bytes (parseLen f.bytes f.ended)).err = false ∧ l2Find s (if (parse f.bytes (parseLen f.bytes f.ended)).tags = 0 then s.fld (F.FWD_PORT_CFG_PVID src) else (parse f.bytes (parseLen f.bytes f.ended)).vid) (beNat (slice f.bytes 0 6)) = some i ∧ bits (s.indw 6 (4 * i + 2)) 0 3 = 3 ∧ (if (parse f.bytes (parseLen f.bytes f.ended)).ver = 4 then lpmFind s 0x200000 0x600000 2 32 (s.fld (F.FWD_PORT_CFG_VRF src)) (beNat (parse f.bytes (parseLen f.bytes f.ended)).ipDst) else if (parse f.bytes (parseLen f.bytes f.ended)).ver = 6 then lpmFind s 0x600000 0xB00000 5 128 (s.fld (F.FWD_PORT_CFG_VRF src)) (beNat (parse f.bytes (parseLen f.bytes f.ended)).ipDst) else none) = none) ∧
    (∃ (s : State) (src : Fin 417) (id : Nat) (i : Nat) (r : Nat) (f : Frame), s.pwr.mainUp = true ∧ s.frame? id = some f ∧ f.src = src.val ∧ f.phase = .arrived ∧ slotFree f.pipe f s = true ∧ f.bypass = false ∧ f.tag = none ∧ f.ins = 0 ∧ f.slices = [] ∧ f.trap = none ∧ f.drop = false ∧ (parse f.bytes (parseLen f.bytes f.ended)).ptp = none ∧ (parse f.bytes (parseLen f.bytes f.ended)).esmc = false ∧ f.pipe < 24 ∧ f.ended = true ∧ aclFind s (aclKey (parse f.bytes (parseLen f.bytes f.ended)) (if (parse f.bytes (parseLen f.bytes f.ended)).tags = 0 then s.fld (F.FWD_PORT_CFG_PVID src) else (parse f.bytes (parseLen f.bytes f.ended)).vid) src true 0) = none ∧ (parse f.bytes (parseLen f.bytes f.ended)).err = false ∧ l2Find s (if (parse f.bytes (parseLen f.bytes f.ended)).tags = 0 then s.fld (F.FWD_PORT_CFG_PVID src) else (parse f.bytes (parseLen f.bytes f.ended)).vid) (beNat (slice f.bytes 0 6)) = some i ∧ bits (s.indw 6 (4 * i + 2)) 0 3 = 3 ∧ (if (parse f.bytes (parseLen f.bytes f.ended)).ver = 4 then lpmFind s 0x200000 0x600000 2 32 (s.fld (F.FWD_PORT_CFG_VRF src)) (beNat (parse f.bytes (parseLen f.bytes f.ended)).ipDst) else if (parse f.bytes (parseLen f.bytes f.ended)).ver = 6 then lpmFind s 0x600000 0xB00000 5 128 (s.fld (F.FWD_PORT_CFG_VRF src)) (beNat (parse f.bytes (parseLen f.bytes f.ended)).ipDst) else none) = some r ∧ bits (s.indw 6 r) 8 2 = 0 ∧ (parse f.bytes (parseLen f.bytes f.ended)).ttl ≤ 1 ∧ s.flag F.FWD_CTRL_TTL_TRAP = false) ∧
    (∃ (s : State) (src : Fin 417) (id : Nat) (i : Nat) (a : Nat) (f : Frame), s.pwr.mainUp = true ∧ s.frame? id = some f ∧ f.src = src.val ∧ f.phase = .arrived ∧ slotFree f.pipe f s = true ∧ f.bypass = false ∧ f.tag = none ∧ f.ins = 0 ∧ f.slices = [] ∧ f.trap = none ∧ f.drop = false ∧ (parse f.bytes (parseLen f.bytes f.ended)).ptp = none ∧ (parse f.bytes (parseLen f.bytes f.ended)).esmc = false ∧ f.pipe < 24 ∧ f.ended = true ∧ aclFind s (aclKey (parse f.bytes (parseLen f.bytes f.ended)) (if (parse f.bytes (parseLen f.bytes f.ended)).tags = 0 then s.fld (F.FWD_PORT_CFG_PVID src) else (parse f.bytes (parseLen f.bytes f.ended)).vid) src false 0) = some a ∧ bits (s.indw 6 (0xE00000 + 32 * a + 24)) 0 2 = 1 ∧ (parse f.bytes (parseLen f.bytes f.ended)).err = false ∧ l2Find s (if (parse f.bytes (parseLen f.bytes f.ended)).tags = 0 then s.fld (F.FWD_PORT_CFG_PVID src) else (parse f.bytes (parseLen f.bytes f.ended)).vid) (beNat (slice f.bytes 0 6)) = some i ∧ bits (s.indw 6 (4 * i + 2)) 0 3 = 1 ∧ bits (s.indw 6 (4 * i + 2)) 16 14 ≠ src.val) ∧
    (∃ (s : State) (src : Fin 417) (id : Nat) (i : Nat) (f : Frame), s.pwr.mainUp = true ∧ s.frame? id = some f ∧ f.src = src.val ∧ f.phase = .arrived ∧ slotFree f.pipe f s = true ∧ f.bypass = false ∧ f.tag = none ∧ f.ins = 0 ∧ f.slices = [] ∧ f.trap = none ∧ f.drop = false ∧ (parse f.bytes (parseLen f.bytes f.ended)).ptp = none ∧ (parse f.bytes (parseLen f.bytes f.ended)).esmc = false ∧ f.pipe < 24 ∧ f.ended = true ∧ aclFind s (aclKey (parse f.bytes (parseLen f.bytes f.ended)) (if (parse f.bytes (parseLen f.bytes f.ended)).tags = 0 then s.fld (F.FWD_PORT_CFG_PVID src) else (parse f.bytes (parseLen f.bytes f.ended)).vid) src false 0) = none ∧ (parse f.bytes (parseLen f.bytes f.ended)).err = false ∧ l2Find s (if (parse f.bytes (parseLen f.bytes f.ended)).tags = 0 then s.fld (F.FWD_PORT_CFG_PVID src) else (parse f.bytes (parseLen f.bytes f.ended)).vid) (beNat (slice f.bytes 0 6)) = some i ∧ 4 ≤ bits (s.indw 6 (4 * i + 2)) 0 3 ∨ bits (s.indw 6 (4 * i + 2)) 0 3 = 0) ∧
    (∃ (s : State) (src : Fin 417) (id : Nat) (i : Nat) (r : Nat) (f : Frame), s.pwr.mainUp = true ∧ s.frame? id = some f ∧ f.src = src.val ∧ f.phase = .arrived ∧ slotFree f.pipe f s = true ∧ f.bypass = false ∧ f.tag = none ∧ f.ins = 0 ∧ f.slices = [] ∧ f.trap = none ∧ f.drop = false ∧ (parse f.bytes (parseLen f.bytes f.ended)).ptp = none ∧ (parse f.bytes (parseLen f.bytes f.ended)).esmc = false ∧ f.pipe < 24 ∧ f.ended = true ∧ aclFind s (aclKey (parse f.bytes (parseLen f.bytes f.ended)) (if (parse f.bytes (parseLen f.bytes f.ended)).tags = 0 then s.fld (F.FWD_PORT_CFG_PVID src) else (parse f.bytes (parseLen f.bytes f.ended)).vid) src true 0) = none ∧ (parse f.bytes (parseLen f.bytes f.ended)).err = false ∧ l2Find s (if (parse f.bytes (parseLen f.bytes f.ended)).tags = 0 then s.fld (F.FWD_PORT_CFG_PVID src) else (parse f.bytes (parseLen f.bytes f.ended)).vid) (beNat (slice f.bytes 0 6)) = some i ∧ bits (s.indw 6 (4 * i + 2)) 0 3 = 3 ∧ (if (parse f.bytes (parseLen f.bytes f.ended)).ver = 4 then lpmFind s 0x200000 0x600000 2 32 (s.fld (F.FWD_PORT_CFG_VRF src)) (beNat (parse f.bytes (parseLen f.bytes f.ended)).ipDst) else if (parse f.bytes (parseLen f.bytes f.ended)).ver = 6 then lpmFind s 0x600000 0xB00000 5 128 (s.fld (F.FWD_PORT_CFG_VRF src)) (beNat (parse f.bytes (parseLen f.bytes f.ended)).ipDst) else none) = some r ∧ bits (s.indw 6 r) 8 2 ≠ 0) ∧
    (∃ (s : State) (src : Fin 417) (id : Nat) (i : Nat) (r : Nat) (f : Frame), s.pwr.mainUp = true ∧ s.frame? id = some f ∧ f.src = src.val ∧ f.phase = .arrived ∧ slotFree f.pipe f s = true ∧ f.bypass = false ∧ f.tag = none ∧ f.ins = 0 ∧ f.slices = [] ∧ f.trap = none ∧ f.drop = false ∧ (parse f.bytes (parseLen f.bytes f.ended)).ptp = none ∧ (parse f.bytes (parseLen f.bytes f.ended)).esmc = false ∧ f.pipe < 24 ∧ f.ended = true ∧ aclFind s (aclKey (parse f.bytes (parseLen f.bytes f.ended)) (if (parse f.bytes (parseLen f.bytes f.ended)).tags = 0 then s.fld (F.FWD_PORT_CFG_PVID src) else (parse f.bytes (parseLen f.bytes f.ended)).vid) src true 0) = none ∧ (parse f.bytes (parseLen f.bytes f.ended)).err = false ∧ l2Find s (if (parse f.bytes (parseLen f.bytes f.ended)).tags = 0 then s.fld (F.FWD_PORT_CFG_PVID src) else (parse f.bytes (parseLen f.bytes f.ended)).vid) (beNat (slice f.bytes 0 6)) = some i ∧ bits (s.indw 6 (4 * i + 2)) 0 3 = 3 ∧ (if (parse f.bytes (parseLen f.bytes f.ended)).ver = 4 then lpmFind s 0x200000 0x600000 2 32 (s.fld (F.FWD_PORT_CFG_VRF src)) (beNat (parse f.bytes (parseLen f.bytes f.ended)).ipDst) else if (parse f.bytes (parseLen f.bytes f.ended)).ver = 6 then lpmFind s 0x600000 0xB00000 5 128 (s.fld (F.FWD_PORT_CFG_VRF src)) (beNat (parse f.bytes (parseLen f.bytes f.ended)).ipDst) else none) = some r ∧ bits (s.indw 6 r) 8 2 = 0 ∧ (parse f.bytes (parseLen f.bytes f.ended)).ttl ≤ 1 ∧ s.flag F.FWD_CTRL_TTL_TRAP = true) ∧
    (∃ (s : State) (v6 : Bool) (vrf : Nat) (addr : Nat) (w : Nat), s.Canon ∧ (if v6 then lpmFind s 0x600000 0xB00000 5 128 vrf addr else lpmFind s 0x200000 0x600000 2 32 vrf addr) = some w) ∧
    (∃ (s : State) (v6 : Bool) (vrf : Nat) (addr : Nat), s.Canon ∧ (if v6 then lpmFind s 0x600000 0xB00000 5 128 vrf addr else lpmFind s 0x200000 0x600000 2 32 vrf addr) = none) ∧
    (∃ (s : State), s.Canon) :=
  ⟨⟨(fwdUp badIp), 9, 4, (frA badIp), by decide +kernel⟩,
    ⟨(fwdUp l2Frame), 9, 4, (frA l2Frame), by decide +kernel⟩,
    ⟨((fwdUp l2Frame).setFlag (F.FWD_PORT_CFG_L2_MISS 9) true), 9, 4, (frA l2Frame), by decide +kernel⟩,
    ⟨((fwdUp l2Frame).setIndw 6 (4 * l2At + 2) 0x90001 |> l2Row), 9, 4, l2At, (frA l2Frame), by decide +kernel⟩,
    ⟨((fwdUp l2Frame).setIndw 6 (4 * l2At + 2) 0x30001 |> l2Row), 9, 4, l2At, (frA l2Frame), by decide +kernel⟩,
    ⟨(((fwdUp l2Frame).setIndw 6 (4 * l2At + 2) 0x70002 |> l2Row) |> groupSeven), 9, 4, l2At, 7, (frA l2Frame), by decide +kernel⟩,
    ⟨(((fwdUp (ipFrame 9)).setIndw 6 (4 * l2At + 2) 3 |> l2Row) |> groupSeven |> routeSeven), 9, 4, l2At, 0x200001, 7, (frA (ipFrame 9)), by decide +kernel⟩,
    ⟨(((fwdUp (ipFrame 9)).setIndw 6 (4 * l2At + 2) 3 |> l2Row)), 9, 4, l2At, (frA (ipFrame 9)), by decide +kernel⟩,
    ⟨(((fwdUp (ipFrame 1)).setIndw 6 (4 * l2At + 2) 3 |> l2Row) |> groupSeven |> routeSeven), 9, 4, l2At, 0x200001, (frA (ipFrame 1)), by decide +kernel⟩,
    ⟨(((fwdUp l2Frame).setIndw 6 (4 * l2At + 2) 0x30001 |> l2Row).setIndw 6 0xE00018 0x80000001), 9, 4, l2At, 0, (frA l2Frame), by decide +kernel⟩,
    ⟨(typeRow 0 (fwdUp l2Frame)), 9, 4, l2At, (frA l2Frame), by decide +kernel⟩,
    ⟨((typeRow 3 (fwdUp (ipFrame 9))).setIndw 6 0x200001 0x80000100), 9, 4, l2At, 0x200001, (frA (ipFrame 9)), by decide +kernel⟩,
    ⟨((typeRow 3 ((fwdUp (v6Frame 1)).setFlag F.FWD_CTRL_TTL_TRAP true)).setIndw 6 0x600004 0x80001C00), 9, 4, l2At, 0x600004, (frA (v6Frame 1)), by decide +kernel⟩,
    ⟨(routeSeven (typeRow 3 up)), false, 0, 0x0A000002, 0x200001, by decide +kernel⟩,
    ⟨(routeSeven (typeRow 3 up)), false, 0, 0x0B000002, by decide +kernel⟩,
    ⟨((aclRow 0x80000001 up).setIndw 6 0xE00038 0x80000000), by decide +kernel⟩⟩

theorem witness_FramesAreLookedUp_2 :
    (∃ (s : State) (src : Fin 417) (id : Nat) (i : Nat) (a : Nat) (f : Frame), s.pwr.mainUp = true ∧ s.frame? id = some f ∧ f.src = src.val ∧ f.phase = .arrived ∧ slotFree f.pipe f s = true ∧ f.bypass = false ∧ f.tag = none ∧ f.ins = 0 ∧ f.slices = [] ∧ f.trap = none ∧ f.drop = false ∧ (parse f.bytes (parseLen f.bytes f.ended)).ptp = none ∧ (parse f.bytes (parseLen f.bytes f.ended)).esmc = false ∧ f.pipe < 24 ∧ f.ended = true ∧ aclFind s (aclKey (parse f.bytes (parseLen f.bytes f.ended)) (if (parse f.bytes (parseLen f.bytes f.ended)).tags = 0 then s.fld (F.FWD_PORT_CFG_PVID src) else (parse f.bytes (parseLen f.bytes f.ended)).vid) src false 0) = some a ∧ (parse f.bytes (parseLen f.bytes f.ended)).err = false ∧ l2Find s (if (parse f.bytes (parseLen f.bytes f.ended)).tags = 0 then s.fld (F.FWD_PORT_CFG_PVID src) else (parse f.bytes (parseLen f.bytes f.ended)).vid) (beNat (slice f.bytes 0 6)) = some i ∧ bits (s.indw 6 (4 * i + 2)) 0 3 = 1 ∧ bits (s.indw 6 (4 * i + 2)) 16 14 < 384 ∧ bits (s.indw 6 (4 * i + 2)) 16 14 ≠ src.val ∧ bits (s.indw 6 (0xE00000 + 32 * a + 24)) 0 2 ≠ 1) ∧
    (∃ (s : State) (src : Fin 417) (id : Nat) (a : Nat) (f : Frame), s.pwr.mainUp = true ∧ s.frame? id = some f ∧ f.src = src.val ∧ f.phase = .arrived ∧ slotFree f.pipe f s = true ∧ f.bypass = false ∧ f.tag = none ∧ f.ins = 0 ∧ f.slices = [] ∧ f.trap = none ∧ f.drop = false ∧ (parse f.bytes (parseLen f.bytes f.ended)).ptp = none ∧ (parse f.bytes (parseLen f.bytes f.ended)).esmc = false ∧ f.pipe < 24 ∧ f.ended = true ∧ aclFind s (aclKey (parse f.bytes (parseLen f.bytes f.ended)) (if (parse f.bytes (parseLen f.bytes f.ended)).tags = 0 then s.fld (F.FWD_PORT_CFG_PVID src) else (parse f.bytes (parseLen f.bytes f.ended)).vid) src false 0) = some a ∧ (parse f.bytes (parseLen f.bytes f.ended)).err = false ∧ l2Find s (if (parse f.bytes (parseLen f.bytes f.ended)).tags = 0 then s.fld (F.FWD_PORT_CFG_PVID src) else (parse f.bytes (parseLen f.bytes f.ended)).vid) (beNat (slice f.bytes 0 6)) = none ∧ s.flag (F.FWD_PORT_CFG_L2_MISS src) = false ∧ 2 ≤ bits (s.indw 6 (0xE00000 + 32 * a + 24)) 0 2) ∧
    (∃ (s : State) (src : Fin 417) (id : Nat) (i : Nat) (o : Nat) (enc : Nat) (j : Nat) (acl : Option Nat) (f : Frame), s.pwr.mainUp = true ∧ s.frame? id = some f ∧ f.src = src.val ∧ f.phase = .arrived ∧ slotFree f.pipe f s = true ∧ f.bypass = false ∧ f.tag = none ∧ f.ins = 0 ∧ f.slices = [] ∧ f.trap = none ∧ f.drop = false ∧ (parse f.bytes (parseLen f.bytes f.ended)).ptp = some (o, enc) ∧ (parse f.bytes (parseLen f.bytes f.ended)).esmc = false ∧ f.inj = 0 ∧ src.val < 416 ∧ f.pipe < 24 ∧ f.ended = true ∧ j < 32 ∧ clsMatches s f.bytes o enc (s.fld (F.FWD_PORT_CFG_TCLASS src)) j = true ∧ (∀ k < j, clsMatches s f.bytes o enc (s.fld (F.FWD_PORT_CFG_TCLASS src)) k = false) ∧ aclFind s (aclKey (parse f.bytes (parseLen f.bytes f.ended)) (if (parse f.bytes (parseLen f.bytes f.ended)).tags = 0 then s.fld (F.FWD_PORT_CFG_PVID src) else (parse f.bytes (parseLen f.bytes f.ended)).vid) src false (byteAt f.bytes o % 16 + 1)) = acl ∧ acl.all (fun a => bit (s.indw 6 (0xD80000 + 8 * j + 4)) 2 && decide (bits (s.indw 6 (0xE00000 + 32 * a + 24)) 0 2 = 0)) = true ∧ (parse f.bytes (parseLen f.bytes f.ended)).err = false ∧ l2Find s (if (parse f.bytes (parseLen f.bytes f.ended)).tags = 0 then s.fld (F.FWD_PORT_CFG_PVID src) else (parse f.bytes (parseLen f.bytes f.ended)).vid) (beNat (slice f.bytes 0 6)) = some i ∧ bits (s.indw 6 (4 * i + 2)) 0 3 = 1 ∧ bits (s.indw 6 (4 * i + 2)) 16 14 < 384 ∧ bits (s.indw 6 (4 * i + 2)) 16 14 ≠ src.val ∧ bits (s.indw 6 (0xD80000 + 8 * j + 4)) 0 2 % 2 = 0) ∧
    (∃ (s : State) (src : Fin 417) (id : Nat) (o : Nat) (enc : Nat) (j : Nat) (f : Frame), s.pwr.mainUp = true ∧ s.frame? id = some f ∧ f.src = src.val ∧ f.phase = .arrived ∧ slotFree f.pipe f s = true ∧ f.bypass = false ∧ f.tag = none ∧ f.ins = 0 ∧ f.slices = [] ∧ f.trap = none ∧ f.drop = false ∧ (parse f.bytes (parseLen f.bytes f.ended)).ptp = some (o, enc) ∧ (parse f.bytes (parseLen f.bytes f.ended)).esmc = false ∧ f.inj = 0 ∧ src.val < 416 ∧ f.pipe < 24 ∧ f.ended = true ∧ j < 32 ∧ clsMatches s f.bytes o enc (s.fld (F.FWD_PORT_CFG_TCLASS src)) j = true ∧ (∀ k < j, clsMatches s f.bytes o enc (s.fld (F.FWD_PORT_CFG_TCLASS src)) k = false) ∧ aclFind s (aclKey (parse f.bytes (parseLen f.bytes f.ended)) (if (parse f.bytes (parseLen f.bytes f.ended)).tags = 0 then s.fld (F.FWD_PORT_CFG_PVID src) else (parse f.bytes (parseLen f.bytes f.ended)).vid) src false (byteAt f.bytes o % 16 + 1)) = none ∧ bits (s.indw 6 (0xD80000 + 8 * j + 4)) 0 2 % 2 = 1) ∧
    (∃ (s : State) (src : Fin 417) (id : Nat) (i : Nat) (o : Nat) (enc : Nat) (j : Nat) (a : Nat) (f : Frame), s.pwr.mainUp = true ∧ s.frame? id = some f ∧ f.src = src.val ∧ f.phase = .arrived ∧ slotFree f.pipe f s = true ∧ f.bypass = false ∧ f.tag = none ∧ f.ins = 0 ∧ f.slices = [] ∧ f.trap = none ∧ f.drop = false ∧ (parse f.bytes (parseLen f.bytes f.ended)).ptp = some (o, enc) ∧ (parse f.bytes (parseLen f.bytes f.ended)).esmc = false ∧ f.inj = 0 ∧ src.val < 416 ∧ f.pipe < 24 ∧ f.ended = true ∧ j < 32 ∧ clsMatches s f.bytes o enc (s.fld (F.FWD_PORT_CFG_TCLASS src)) j = true ∧ (∀ k < j, clsMatches s f.bytes o enc (s.fld (F.FWD_PORT_CFG_TCLASS src)) k = false) ∧ aclFind s (aclKey (parse f.bytes (parseLen f.bytes f.ended)) (if (parse f.bytes (parseLen f.bytes f.ended)).tags = 0 then s.fld (F.FWD_PORT_CFG_PVID src) else (parse f.bytes (parseLen f.bytes f.ended)).vid) src false (byteAt f.bytes o % 16 + 1)) = some a ∧ bit (s.indw 6 (0xD80000 + 8 * j + 4)) 2 = true ∧ bits (s.indw 6 (0xE00000 + 32 * a + 24)) 0 2 = 1 ∧ (parse f.bytes (parseLen f.bytes f.ended)).err = false ∧ l2Find s (if (parse f.bytes (parseLen f.bytes f.ended)).tags = 0 then s.fld (F.FWD_PORT_CFG_PVID src) else (parse f.bytes (parseLen f.bytes f.ended)).vid) (beNat (slice f.bytes 0 6)) = some i ∧ bits (s.indw 6 (4 * i + 2)) 0 3 = 1 ∧ bits (s.indw 6 (4 * i + 2)) 16 14 < 384 ∧ bits (s.indw 6 (4 * i + 2)) 16 14 ≠ src.val) ∧
    (∃ (s : State) (src : Fin 417) (id : Nat) (i : Nat) (o : Nat) (enc : Nat) (f : Frame), s.pwr.mainUp = true ∧ s.frame? id = some f ∧ f.src = src.val ∧ f.phase = .arrived ∧ slotFree f.pipe f s = true ∧ f.bypass = false ∧ f.tag = none ∧ f.ins = 0 ∧ f.slices = [] ∧ f.trap = none ∧ f.drop = false ∧ (parse f.bytes (parseLen f.bytes f.ended)).ptp = some (o, enc) ∧ (parse f.bytes (parseLen f.bytes f.ended)).esmc = false ∧ f.inj = 0 ∧ src.val < 416 ∧ f.pipe < 24 ∧ f.ended = true ∧ (∀ k ∈ List.range 32, clsMatches s f.bytes o enc (s.fld (F.FWD_PORT_CFG_TCLASS src)) k = false) ∧ aclFind s (aclKey (parse f.bytes (parseLen f.bytes f.ended)) (if (parse f.bytes (parseLen f.bytes f.ended)).tags = 0 then s.fld (F.FWD_PORT_CFG_PVID src) else (parse f.bytes (parseLen f.bytes f.ended)).vid) src false (byteAt f.bytes o % 16 + 1)) = none ∧ (parse f.bytes (parseLen f.bytes f.ended)).err = false ∧ l2Find s (if (parse f.bytes (parseLen f.bytes f.ended)).tags = 0 then s.fld (F.FWD_PORT_CFG_PVID src) else (parse f.bytes (parseLen f.bytes f.ended)).vid) (beNat (slice f.bytes 0 6)) = some i ∧ bits (s.indw 6 (4 * i + 2)) 0 3 = 1 ∧ bits (s.indw 6 (4 * i + 2)) 16 14 < 384 ∧ bits (s.indw 6 (4 * i + 2)) 16 14 ≠ src.val) ∧
    (∃ (s : State) (src : Fin 417) (id : Nat) (f : Frame), s.pwr.mainUp = true ∧ s.frame? id = some f ∧ f.src = src.val ∧ f.phase = .arrived ∧ slotFree f.pipe f s = true ∧ f.bypass = false ∧ f.tag = none ∧ f.ins = 0 ∧ f.slices = [] ∧ f.trap = none ∧ f.drop = false ∧ (parse f.bytes (parseLen f.bytes f.ended)).ptp = none ∧ (parse f.bytes (parseLen f.bytes f.ended)).esmc = true ∧ f.pipe < 24 ∧ f.ended = true ∧ aclFind s (aclKey (parse f.bytes (parseLen f.bytes f.ended)) (if (parse f.bytes (parseLen f.bytes f.ended)).tags = 0 then s.fld (F.FWD_PORT_CFG_PVID src) else (parse f.bytes (parseLen f.bytes f.ended)).vid) src false 0) = none ∧ s.flag F.FWD_CTRL_ESMC_TRAP = true) ∧
    (∃ (s : State) (id : Nat) (f : Frame), s.pwr.mainUp = true ∧ s.frame? id = some f ∧ f.src = 416 ∧ f.phase = .arrived ∧ f.inj ≠ 0 ∧ f.bypass = true ∧ f.tag = none ∧ f.ins ≠ 3 ∧ f.drop = false ∧ slotFree f.pipe f s = true) ∧
    (∃ (s : State) (src : Fin 417) (id : Nat) (bs : List Byte), s.pwr.mainUp = true ∧ s.frame? id = none ∧ src.val < 416 ∧ portUp s src = true ∧ bs.length = 256 ∧ half bs 12 ≠ 0x8808 ∧ headComes s src bs = true ∧ s.flag F.TLM_TAG_CTRL_EN = false) ∧
    (∃ (s : State) (id : Nat), s.pwr.mainUp = true ∧ s.frame? id = none) :=
  ⟨⟨(aclRow 0x80000002 (portRow 3 (fwdUp l2Frame))), 9, 4, l2At, 0, (frA l2Frame), by decide +kernel⟩,
    ⟨(aclRow 0x80000002 (fwdUp l2Frame)), 9, 4, 0, (frA l2Frame), by decide +kernel⟩,
    ⟨(clsRow 0 (portRow 3 (fwdUp (ptpFrame 0)))), 9, 4, l2At, 14, 0, 3, none, (frA (ptpFrame 0)), by decide +kernel⟩,
    ⟨(clsRow 0x65 (fwdUp (ptpFrame 0))), 9, 4, 14, 0, 3, (frA (ptpFrame 0)), by decide +kernel⟩,
    ⟨(aclRow 0x80000001 (clsRow 4 (portRow 3 (fwdUp (ptpFrame 0))))), 9, 4, l2At, 14, 0, 3, 0, (frA (ptpFrame 0)), by decide +kernel⟩,
    ⟨(portRow 3 (fwdUp (ptpFrame 0))), 9, 4, l2At, 14, 0, (frA (ptpFrame 0)), by decide +kernel⟩,
    ⟨(fwdUp esmcFrame), 9, 4, (frA esmcFrame), by decide +kernel⟩,
    ⟨(up.setFrame 4 { frA l2Frame with src := 416, inj := 1, bypass := true, egress := 3 }), 4, { frA l2Frame with src := 416, inj := 1, bypass := true, egress := 3 }, by decide +kernel⟩,
    ⟨portUpS, 3, 4, (List.replicate 256 1), by decide +kernel⟩,
    ⟨up, 4, by decide +kernel⟩⟩

theorem witness_FramesAreAdmitted :
    (∃ (s : State) (id : Nat) (f : Frame), s.pwr.mainUp = true ∧ s.frame? id = some f ∧ f.phase = .looked ∧ f.egress < 384 ∧ f.queue < 16 ∧ f.src ≤ 416 ∧ f.tag = none ∧ f.trap = none ∧ f.policer = none ∧ f.ins = 0 ∧ f.slices = [] ∧ f.ended = true ∧ (∀ i : Fin 256, s.flag (F.TWIN_SID_CFG_VALID i) = false) ∧ s.flag (F.PORT_LIVE_UP f.egress) = true ∧ s.fld F.BUF_FREE_FREE ≠ 0 ∧ s.fld (F.BUF_Q_OCC_SLICES (16 * f.egress + f.queue)) < s.fld (F.BUF_QPROF_MIN (profOf s f.egress f.queue))) ∧
    (∃ (s : State) (id : Nat) (f : Frame), s.pwr.mainUp = true ∧ s.frame? id = some f ∧ f.phase = .looked ∧ f.egress < 384 ∧ f.queue < 16 ∧ f.src ≤ 416 ∧ f.tag = none ∧ f.trap = none ∧ f.policer = none ∧ f.ins = 0 ∧ f.slices = [] ∧ f.ended = true ∧ (∀ i : Fin 256, s.flag (F.TWIN_SID_CFG_VALID i) = false) ∧ s.flag (F.PORT_LIVE_UP f.egress) = true ∧ s.fld F.BUF_FREE_FREE ≠ 0 ∧ s.fld (F.BUF_QPROF_MIN (profOf s f.egress f.queue)) ≤ s.fld (F.BUF_Q_OCC_SLICES (16 * f.egress + f.queue)) ∧ (s.flag (F.BUF_QPROF_LOSSLESS (profOf s f.egress f.queue)) = false ∨ f.queue = 15 ∨ 384 ≤ f.src) ∧ s.fld (F.BUF_QPROF_ALPHA (profOf s f.egress f.queue)) ≠ 0 ∧ s.fld (F.BUF_Q_OCC_SLICES (16 * f.egress + f.queue)) - s.fld (F.BUF_QPROF_MIN (profOf s f.egress f.queue)) < (s.fld (F.BUF_POOL_SIZE_SLICES (s.fld (F.BUF_QPROF_POOL (profOf s f.egress f.queue)))) - s.fld (F.BUF_POOL_USED_SLICES (s.fld (F.BUF_QPROF_POOL (profOf s f.egress f.queue))))) * 2 ^ s.fld (F.BUF_QPROF_ALPHA (profOf s f.egress f.queue)) / 256) ∧
    (∃ (s : State) (id : Nat) (f : Frame), s.pwr.mainUp = true ∧ s.frame? id = some f ∧ f.phase = .looked ∧ f.egress < 384 ∧ f.queue < 16 ∧ f.src ≤ 416 ∧ f.tag = none ∧ f.trap = none ∧ f.policer = none ∧ f.ins = 0 ∧ f.slices = [] ∧ f.ended = true ∧ (∀ i : Fin 256, s.flag (F.TWIN_SID_CFG_VALID i) = false) ∧ s.flag (F.PORT_LIVE_UP f.egress) = true ∧ s.fld F.BUF_FREE_FREE ≠ 0 ∧ s.fld (F.BUF_QPROF_MIN (profOf s f.egress f.queue)) ≤ s.fld (F.BUF_Q_OCC_SLICES (16 * f.egress + f.queue)) ∧ (s.flag (F.BUF_QPROF_LOSSLESS (profOf s f.egress f.queue)) = false ∨ f.queue = 15 ∨ 384 ≤ f.src) ∧ (s.fld (F.BUF_QPROF_ALPHA (profOf s f.egress f.queue)) = 0 ∨ (s.fld (F.BUF_POOL_SIZE_SLICES (s.fld (F.BUF_QPROF_POOL (profOf s f.egress f.queue)))) - s.fld (F.BUF_POOL_USED_SLICES (s.fld (F.BUF_QPROF_POOL (profOf s f.egress f.queue))))) * 2 ^ s.fld (F.BUF_QPROF_ALPHA (profOf s f.egress f.queue)) / 256 ≤ s.fld (F.BUF_Q_OCC_SLICES (16 * f.egress + f.queue)) - s.fld (F.BUF_QPROF_MIN (profOf s f.egress f.queue)))) ∧
    (∃ (s : State) (id : Nat) (f : Frame), s.pwr.mainUp = true ∧ s.frame? id = some f ∧ f.phase = .looked ∧ f.egress < 384 ∧ f.queue < 16 ∧ f.src ≤ 416 ∧ f.tag = none ∧ f.trap = none ∧ f.policer = none ∧ f.ins = 0 ∧ f.slices = [] ∧ f.ended = true ∧ (∀ i : Fin 256, s.flag (F.TWIN_SID_CFG_VALID i) = false) ∧ s.flag (F.PORT_LIVE_UP f.egress) = true ∧ s.fld F.BUF_FREE_FREE ≠ 0 ∧ s.fld (F.BUF_QPROF_MIN (profOf s f.egress f.queue)) ≤ s.fld (F.BUF_Q_OCC_SLICES (16 * f.egress + f.queue)) ∧ s.flag (F.BUF_QPROF_LOSSLESS (profOf s f.egress f.queue)) = true ∧ f.queue ≠ 15 ∧ f.src < 384 ∧ pgShared s f.src (pgOf s f.src f.queue) < s.fld (F.BUF_PGPROF_XOFF_XOFF_TH (pgProf s f.src (pgOf s f.src f.queue))) ∧ 0 < (s.fld (F.BUF_POOL_SIZE_SLICES (s.fld (F.BUF_QPROF_POOL (profOf s f.egress f.queue)))) - s.fld (F.BUF_POOL_USED_SLICES (s.fld (F.BUF_QPROF_POOL (profOf s f.egress f.queue)))))) ∧
    (∃ (s : State) (id : Nat) (f : Frame), s.pwr.mainUp = true ∧ s.frame? id = some f ∧ f.phase = .looked ∧ f.egress < 384 ∧ f.queue < 16 ∧ f.src ≤ 416 ∧ f.tag = none ∧ f.trap = none ∧ f.policer = none ∧ f.ins = 0 ∧ f.slices = [] ∧ f.ended = true ∧ (∀ i : Fin 256, s.flag (F.TWIN_SID_CFG_VALID i) = false) ∧ s.flag (F.PORT_LIVE_UP f.egress) = true ∧ s.fld F.BUF_FREE_FREE ≠ 0 ∧ s.fld (F.BUF_QPROF_MIN (profOf s f.egress f.queue)) ≤ s.fld (F.BUF_Q_OCC_SLICES (16 * f.egress + f.queue)) ∧ s.flag (F.BUF_QPROF_LOSSLESS (profOf s f.egress f.queue)) = true ∧ f.queue ≠ 15 ∧ f.src < 384 ∧ (s.fld (F.BUF_PGPROF_XOFF_XOFF_TH (pgProf s f.src (pgOf s f.src f.queue))) ≤ pgShared s f.src (pgOf s f.src f.queue) ∨ (s.fld (F.BUF_POOL_SIZE_SLICES (s.fld (F.BUF_QPROF_POOL (profOf s f.egress f.queue)))) - s.fld (F.BUF_POOL_USED_SLICES (s.fld (F.BUF_QPROF_POOL (profOf s f.egress f.queue))))) = 0) ∧ pgHead s f.src (pgOf s f.src f.queue) < s.fld (F.BUF_PGPROF_HEADROOM_HEADROOM (pgProf s f.src (pgOf s f.src f.queue)))) ∧
    (∃ (s : State) (id : Nat) (f : Frame), s.pwr.mainUp = true ∧ s.frame? id = some f ∧ f.phase = .looked ∧ f.egress < 384 ∧ f.queue < 16 ∧ f.src ≤ 416 ∧ f.tag = none ∧ f.trap = none ∧ f.policer = none ∧ f.ins = 0 ∧ f.slices = [] ∧ f.ended = true ∧ (∀ i : Fin 256, s.flag (F.TWIN_SID_CFG_VALID i) = false) ∧ s.flag (F.PORT_LIVE_UP f.egress) = true ∧ s.fld F.BUF_FREE_FREE ≠ 0 ∧ s.fld (F.BUF_QPROF_MIN (profOf s f.egress f.queue)) ≤ s.fld (F.BUF_Q_OCC_SLICES (16 * f.egress + f.queue)) ∧ s.flag (F.BUF_QPROF_LOSSLESS (profOf s f.egress f.queue)) = true ∧ f.queue ≠ 15 ∧ f.src < 384 ∧ (s.fld (F.BUF_PGPROF_XOFF_XOFF_TH (pgProf s f.src (pgOf s f.src f.queue))) ≤ pgShared s f.src (pgOf s f.src f.queue) ∨ (s.fld (F.BUF_POOL_SIZE_SLICES (s.fld (F.BUF_QPROF_POOL (profOf s f.egress f.queue)))) - s.fld (F.BUF_POOL_USED_SLICES (s.fld (F.BUF_QPROF_POOL (profOf s f.egress f.queue))))) = 0) ∧ s.fld (F.BUF_PGPROF_HEADROOM_HEADROOM (pgProf s f.src (pgOf s f.src f.queue))) ≤ pgHead s f.src (pgOf s f.src f.queue)) ∧
    (∃ (s : State) (id : Nat) (f : Frame), s.pwr.mainUp = true ∧ s.frame? id = some f ∧ f.phase = .looked ∧ f.egress < 384 ∧ f.queue < 16 ∧ f.src ≤ 416 ∧ f.tag = none ∧ f.trap = none ∧ f.policer = none ∧ f.ins = 0 ∧ f.slices = [] ∧ f.ended = true ∧ (∀ i : Fin 256, s.flag (F.TWIN_SID_CFG_VALID i) = false) ∧ s.flag (F.PORT_LIVE_UP f.egress) = true ∧ s.fld F.BUF_FREE_FREE = 0) ∧
    (∃ (s : State) (id : Nat) (f : Frame), s.pwr.mainUp = true ∧ s.frame? id = some f ∧ f.phase = .looked ∧ f.egress < 384 ∧ f.queue < 16 ∧ f.src ≤ 416 ∧ f.tag = none ∧ f.trap = none ∧ f.policer = none ∧ f.ins = 0 ∧ f.slices = [] ∧ f.ended = true ∧ (∀ i : Fin 256, s.flag (F.TWIN_SID_CFG_VALID i) = false) ∧ s.flag (F.PORT_LIVE_UP f.egress) = false) ∧
    (∃ (s : State) (id : Nat) (f : Frame), s.pwr.mainUp = true ∧ s.frame? id = some f ∧ f.phase = .looked ∧ 384 ≤ f.egress ∧ f.egress < 416 ∧ portUp s f.egress = true ∧ f.policer = none ∧ ((s.frames.map fun x => if x.2.egress = f.egress ∧ x.2.phase ∈ [FrPhase.queued, .selected, .handed] then (lengthNow x.2 + 255) / 256 else 0).sum + (lengthNow f + 255) / 256) ≤ 64) ∧
    (∃ (s : State) (id : Nat) (f : Frame), s.pwr.mainUp = true ∧ s.frame? id = some f ∧ f.phase = .looked ∧ 384 ≤ f.egress ∧ f.egress < 416 ∧ portUp s f.egress = true ∧ f.policer = none ∧ f.ended = true ∧ f.tag = none ∧ f.slices = [] ∧ 64 < ((s.frames.map fun x => if x.2.egress = f.egress ∧ x.2.phase ∈ [FrPhase.queued, .selected, .handed] then (lengthNow x.2 + 255) / 256 else 0).sum + (lengthNow f + 255) / 256)) ∧
    (∃ (s : State) (id : Nat) (f : Frame), s.pwr.mainUp = true ∧ s.frame? id = some f ∧ f.phase = .looked ∧ f.egress = 511 ∧ f.policer = none ∧ ((s.frames.map fun x => if x.2.egress = 511 ∧ x.2.phase = .trapOnly then (lengthNow x.2 + 255) / 256 else 0).sum + (lengthNow f + 255) / 256) ≤ 512) ∧
    (∃ (s : State) (id : Nat) (f : Frame), s.pwr.mainUp = true ∧ s.frame? id = some f ∧ f.phase = .looked ∧ f.egress = 511 ∧ f.policer = none ∧ f.ended = true ∧ f.tag = none ∧ f.slices = [] ∧ 512 < ((s.frames.map fun x => if x.2.egress = 511 ∧ x.2.phase = .trapOnly then (lengthNow x.2 + 255) / 256 else 0).sum + (lengthNow f + 255) / 256)) ∧
    (∃ (s : State) (id : Nat), s.pwr.mainUp = true ∧ (s.frame? id).all (fun f => f.phase ≠ .looked) = true) :=
  ⟨⟨(admQ 4 0 false), 7, frL, by decide +kernel⟩,
    ⟨(admQ 0 8 false), 7, frL, by decide +kernel⟩,
    ⟨(admQ 0 0 false), 7, frL, by decide +kernel⟩,
    ⟨((admQ 0 0 true).setFld (F.BUF_PGPROF_XOFF_XOFF_TH 2) 5), 7, frL, by decide +kernel⟩,
    ⟨((admQ 0 0 true).setFld (F.BUF_PGPROF_HEADROOM_HEADROOM 2) 5), 7, frL, by decide +kernel⟩,
    ⟨(admQ 0 0 true), 7, frL, by decide +kernel⟩,
    ⟨((admQ 4 0 false).setReg Reg.BUF_FREE 0), 7, frL, by decide +kernel⟩,
    ⟨((admQ 4 0 false).setReg (Reg.PORT_LIVE 3) 0), 7, frL, by decide +kernel⟩,
    ⟨(timUp.setFrame 7 { frL with egress := 385 }), 7, { frL with egress := 385 }, by decide +kernel⟩,
    ⟨((timUp.setFrame 7 { frL with egress := 385 }).setFrame 8 (frT 63 .queued 385)), 7, { frL with egress := 385 }, by decide +kernel⟩,
    ⟨(up.setFrame 7 { frL with egress := 511 }), 7, { frL with egress := 511 }, by decide +kernel⟩,
    ⟨((List.range 8).foldl (fun s i => s.setFrame (10 + i) (frT 64 .trapOnly 511)) (up.setFrame 7 { frL with egress := 511 })), 7, { frL with egress := 511 }, by decide +kernel⟩,
    ⟨up, 7, by decide +kernel⟩⟩

theorem witness_SlicesAreOwnedAndAudited :
    (∃ (s : State) (id : Nat) (n : Fin 1048576) (f : Frame), s.pwr.mainUp = true ∧ s.frame? id = some f ∧ f.phase = .queued ∧ f.egress < 384 ∧ f.queue < 16 ∧ f.pool < 4 ∧ f.ended = true ∧ f.cut = false ∧ f.slices.length < (f.bytes.length + 255) / 256 ∧ s.fld F.BUF_FREE_FREE ≠ 0 ∧ sliceTop s n = true ∧ f.pg = none) ∧
    (∃ (s : State) (id : Nat) (k : Nat) (n : Fin 1048576) (f : Frame), s.pwr.mainUp = true ∧ s.frame? id = some f ∧ f.phase = .queued ∧ f.egress < 384 ∧ f.queue < 16 ∧ f.pool < 4 ∧ f.ended = true ∧ f.cut = false ∧ f.slices.length < (f.bytes.length + 255) / 256 ∧ s.fld F.BUF_FREE_FREE ≠ 0 ∧ sliceTop s n = true ∧ f.pg = some k ∧ k < 8 ∧ f.src < 384 ∧ f.kind ≠ 2) ∧
    (∃ (s : State) (id : Nat) (k : Nat) (n : Fin 1048576) (f : Frame), s.pwr.mainUp = true ∧ s.frame? id = some f ∧ f.phase = .queued ∧ f.egress < 384 ∧ f.queue < 16 ∧ f.pool < 4 ∧ f.ended = true ∧ f.cut = false ∧ f.slices.length < (f.bytes.length + 255) / 256 ∧ s.fld F.BUF_FREE_FREE ≠ 0 ∧ sliceTop s n = true ∧ f.pg = some k ∧ k < 8 ∧ f.src < 384 ∧ f.kind = 2) ∧
    (∃ (s : State) (id : Nat) (f : Frame), s.pwr.mainUp = true ∧ s.frame? id = some f ∧ f.phase = .queued ∧ f.egress < 384 ∧ f.queue < 16 ∧ f.pool < 4 ∧ f.ended = true ∧ f.cut = false ∧ f.slices = [] ∧ f.bytes ≠ [] ∧ f.trap = none ∧ f.tag = none ∧ s.fld F.BUF_FREE_FREE = 0) ∧
    (∃ (s : State) (id : Nat) (n : Fin 1048576), s.pwr.mainUp = true ∧ s.fld F.BUF_FREE_FREE ≠ 0 ∧ (sliceTop s n = false ∨ (s.frame? id).all (fun f => f.cut) = true)) ∧
    (∃ (s : State), s.pwr.mainUp = true) ∧
    (∃ (s : State) (n : Nat), s.pwr.mainUp = true ∧ s.net.auditOn = true ∧ s.flag F.BUF_AUDIT_EN = true ∧ n < 2 ^ 20 ∧ s.net.lost = [(n, some 1)]) ∧
    (∃ (s : State) (n : Nat), s.pwr.mainUp = true ∧ s.net.auditOn = true ∧ s.flag F.BUF_AUDIT_EN = true ∧ s.flag F.BUF_AUDIT_RECLAIM = false ∧ n < 2 ^ 20 ∧ s.net.lost = [(n, some 2)]) ∧
    (∃ (s : State) (n : Nat), s.pwr.mainUp = true ∧ s.net.auditOn = true ∧ s.flag F.BUF_AUDIT_EN = true ∧ s.flag F.BUF_AUDIT_RECLAIM = true ∧ n < 2 ^ 20 ∧ s.net.lost = [(n, some 2)]) ∧
    (∃ (s : State) (n : Nat) (kind : Nat), s.pwr.mainUp = true ∧ s.net.auditOn = true ∧ s.flag F.BUF_AUDIT_EN = true ∧ s.net.lost = [] ∧ n < 2 ^ 20 ∧ (kind = 1 ∨ kind = 2)) ∧
    (∃ (s : State), s.pwr.mainUp = true ∧ s.net.auditOn = false) ∧
    (∃ (s : State) (ag : Agent) (n : Nat), s.pwr.mainUp = true ∧ pf1Denied ag Reg.BUF_AUDIT s = false ∧ s.net.auditOn = true ∧ n < 2 ^ 20 ∧ s.net.lost = [(n, some 3)]) :=
  ⟨⟨(portUpS.setFrame 7 { frQ with slices := [] }), 7, 5, { frQ with slices := [] }, by decide +kernel⟩,
    ⟨(portUpS.setFrame 7 (frG 1)), 7, 1, 5, (frG 1), by decide +kernel⟩,
    ⟨(portUpS.setFrame 7 (frG 2)), 7, 1, 5, (frG 2), by decide +kernel⟩,
    ⟨((portUpS.setFrame 7 { frQ with slices := [] }).setReg Reg.BUF_FREE 0), 7, { frQ with slices := [] }, by decide +kernel⟩,
    ⟨queued, 7, 139, by decide +kernel⟩,
    ⟨up, by decide +kernel⟩,
    ⟨(lostUp 1 5 false), 5, by decide +kernel⟩,
    ⟨(lostUp 2 5 false), 5, by decide +kernel⟩,
    ⟨(lostUp 2 5 true), 5, by decide +kernel⟩,
    ⟨((lostUp 0 0 false).updNet fun n => { n with lost := [] }), 9, 2, by decide +kernel⟩,
    ⟨(up.updNet fun n => { n with auditOn := false }), by decide +kernel⟩,
    ⟨(lostUp 3 5 false), .pf0, 5, by decide +kernel⟩⟩

theorem witness_FramesAreSelectedAndSent :
    (∃ (s : State) (p : Fin 416) (q : Fin 16) (id : Nat) (f : Frame) (r : List Nat), s.pwr.mainUp = true ∧ p.val < 384 ∧ portUp s p = true ∧ (s.port p).pfcHold = [] ∧ activeB s p = false ∧ s.frame? id = some f ∧ f.egress = p.val ∧ f.queue = q.val ∧ f.ended = true ∧ f.slices.length = (f.bytes.length + 255) / 256 ∧ f.bytes ≠ [] ∧ f.pool < 4 ∧ f.pg.all (fun k => k < 8 && f.src < 384) = true ∧ f.bad = none ∧ f.ins = 0 ∧ f.record = false ∧ f.tag = none ∧ s.queue (16 * p.val + q.val) = id :: r ∧ queueHeld s p q = false ∧ (∀ x : Fin 16, q.val < x.val → eligible s p x = false) ∧ shaperEn s (16 * p.val + q.val) = false ∧ shaperEn s (6144 + p) = false) ∧
    (∃ (s : State) (p : Fin 416) (q : Fin 16) (id : Nat) (f : Frame) (r : List Nat), s.pwr.mainUp = true ∧ p.val < 384 ∧ portUp s p = true ∧ (s.port p).pfcHold = [] ∧ activeB s p = false ∧ s.frame? id = some f ∧ f.egress = p.val ∧ f.queue = q.val ∧ f.ended = true ∧ f.slices.length = (f.bytes.length + 255) / 256 ∧ f.bytes ≠ [] ∧ f.pool < 4 ∧ f.pg.all (fun k => k < 8 && f.src < 384) = true ∧ f.bad = none ∧ f.ins = 0 ∧ f.record = false ∧ f.tag = none ∧ s.queue (16 * p.val + q.val) = id :: r ∧ queueHeld s p q = false ∧ (∀ x : Fin 16, q.val < x.val → eligible s p x = false) ∧ shaperEn s (16 * p.val + q.val) = true ∧ shaperEn s (6144 + p) = true) ∧
    (∃ (s : State) (p : Fin 416) (q : Fin 16) (id : Nat) (f : Frame) (r : List Nat), s.pwr.mainUp = true ∧ p.val < 384 ∧ portUp s p = true ∧ (s.port p).pfcHold = [] ∧ activeB s p = true ∧ (s.port p).lastB = true ∧ q.val ≤ 15 - s.fld (F.SCHD_PORT_CFG_STRICT_N p) ∧ s.frame? id = some f ∧ f.egress = p.val ∧ f.queue = q.val ∧ f.ended = true ∧ f.slices.length = (f.bytes.length + 255) / 256 ∧ f.bytes ≠ [] ∧ f.pool < 4 ∧ f.pg.all (fun k => k < 8 && f.src < 384) = true ∧ f.bad = none ∧ f.ins = 0 ∧ f.record = false ∧ f.tag = none ∧ s.queue (16 * p.val + q.val) = id :: r ∧ r.filter (· ≠ id) ≠ [] ∧ queueHeld s p q = false ∧ (∀ x : Fin 16, x ≠ q → eligible s p x = false) ∧ shaperEn s (16 * p.val + q.val) = false ∧ shaperEn s (6144 + p) = false ∧ (signed 32 (s.indw 7 (8 * (16 * p.val + q.val) + 5)).toNat) + ((bits (s.indw 7 (8 * (16 * p.val + q.val) + 4)) 0 17 : Nat) : Int) < 2 ^ 31 ∧ ((max 1 ((f.bytes.length : Int) + (if 384 ≤ f.src then 20 else signed 8 (s.fld (F.SCHD_PORT_CFG_OVERHEAD p))))).toNat : Int) ≤ (signed 32 (s.indw 7 (8 * (16 * p.val + q.val) + 5)).toNat) + (if isOpen s p q then 0 else ((bits (s.indw 7 (8 * (16 * p.val + q.val) + 4)) 0 17 : Nat) : Int))) ∧
    (∃ (s : State) (p : Fin 416) (q : Fin 16) (id : Nat) (f : Frame) (r : List Nat), s.pwr.mainUp = true ∧ p.val < 384 ∧ portUp s p = true ∧ (s.port p).pfcHold = [] ∧ activeB s p = false ∧ s.frame? id = some f ∧ f.egress = p.val ∧ f.queue = q.val ∧ f.ended = true ∧ f.slices.length = (f.bytes.length + 255) / 256 ∧ f.bytes ≠ [] ∧ f.pool < 4 ∧ f.pg.all (fun k => k < 8 && f.src < 384) = true ∧ f.bad = none ∧ f.tag = none ∧ effIns p f.ins s ≠ 0 ∧ tbFormat s ≠ 0 ∧ s.queue (16 * p.val + q.val) = id :: r ∧ queueHeld s p q = false ∧ (∀ x : Fin 16, q.val < x.val → eligible s p x = false) ∧ shaperEn s (16 * p.val + q.val) = false ∧ shaperEn s (6144 + p) = false) ∧
    (∃ (s : State) (p : Fin 416) (id : Nat) (f : Frame) (r : List Nat), s.pwr.mainUp = true ∧ 384 ≤ p.val ∧ portUp s p = true ∧ s.queue (5760 + p) = id :: r ∧ s.frame? id = some f ∧ f.egress = p.val ∧ f.ended = true ∧ f.slices.length = (f.bytes.length + 255) / 256 ∧ f.bad = none ∧ f.tag = none ∧ effIns p f.ins s ≠ 0 ∧ tbFormat s ≠ 0 ∧ f.ct = false) ∧
    (∃ (s : State) (id : Nat) (f : Frame), s.pwr.mainUp = true ∧ s.frame? id = some f ∧ f.phase = .handed ∧ f.ended = true ∧ f.tag = none ∧ f.trap = none ∧ f.slices = [] ∧ f.egress < 384 ∧ f.bad = none) ∧
    (∃ (f : Frame) (r : Rewrite) (h : Hdr), parse f.bytes (parseLen f.bytes f.ended) = h ∧ f.ended = true ∧ f.next = some r ∧ f.dscp = none ∧ f.insVal = none ∧ h.ver ≠ 0 ∧ r.vid.all (fun v => decide (v < 4096)) = true) ∧
    (∃ (f : Frame) (d : Nat) (h : Hdr), parse f.bytes (parseLen f.bytes f.ended) = h ∧ f.ended = true ∧ f.next = none ∧ f.dscp = some d ∧ f.insVal = none ∧ h.ver ≠ 0 ∧ d < 64) ∧
    (∃ (f : Frame) (v : InsertVal) (m : Nat) (udp : Option (Nat × Bool)), f.next = none ∧ f.dscp = none ∧ f.insVal = some v ∧ ptpLoc f.bytes = some ⟨m, udp⟩) ∧
    (∃ (f : Frame), f.next = none ∧ f.dscp = none ∧ (f.insVal = none ∨ ptpLoc f.bytes = none)) ∧
    (∃ (s : State) (p : Fin 416) (q : Fin 16) (id : Nat) (f : Frame) (r : List Nat), s.pwr.mainUp = true ∧ p.val < 384 ∧ portUp s p = true ∧ (s.port p).pfcHold = [] ∧ activeB s p = false ∧ s.frame? id = some f ∧ f.egress = p.val ∧ f.queue = q.val ∧ f.ended = true ∧ f.slices.length = (f.bytes.length + 255) / 256 ∧ f.bytes ≠ [] ∧ f.pool < 4 ∧ f.pg.all (fun k => k < 8 && f.src < 384) = true ∧ f.bad = some .fcs ∧ f.tag = none ∧ s.queue (16 * p.val + q.val) = id :: r ∧ queueHeld s p q = false ∧ (∀ x : Fin 16, q.val < x.val → eligible s p x = false)) ∧
    (∃ (s : State) (p : Fin 416) (q : Fin 16) (id : Nat) (f : Frame) (r : List Nat), s.pwr.mainUp = true ∧ p.val < 384 ∧ portUp s p = true ∧ (s.port p).pfcHold = [] ∧ activeB s p = false ∧ s.frame? id = some f ∧ f.egress = p.val ∧ f.queue = q.val ∧ f.ended = true ∧ f.slices.length = (f.bytes.length + 255) / 256 ∧ f.bytes ≠ [] ∧ f.pool < 4 ∧ f.pg.all (fun k => k < 8 && f.src < 384) = true ∧ f.bad = none ∧ f.ct = false ∧ f.tag = none ∧ f.trap = none ∧ s.queue (16 * p.val + q.val) = id :: r ∧ queueHeld s p q = false ∧ (∀ x : Fin 16, q.val < x.val → eligible s p x = false)) ∧
    (∃ (s : State) (p : Fin 416) (k : Nat) (quanta : Nat) (r : List (Nat × Nat)), s.pwr.mainUp = true ∧ p.val < 384 ∧ portUp s p = true ∧ (s.port p).pfcHold = (k, quanta) :: r ∧ (activeB s p = false ∨ (s.port p).lastB = true)) ∧
    (∃ (s : State) (p : Fin 416), s.pwr.mainUp = true ∧ p.val < 384 ∧ portUp s p = true ∧ (s.port p).pfcHold ≠ [] ∧ activeB s p = true ∧ (s.port p).lastB = false) ∧
    (∃ (s : State) (p : Fin 416), s.pwr.mainUp = true ∧ p.val < 384 ∧ portUp s p = true ∧ (s.port p).pfcHold = [] ∧ activeB s p = false ∧ (∀ x : Fin 16, eligible s p x = false)) ∧
    (∃ (s : State) (p : Fin 416), s.pwr.mainUp = true ∧ portUp s p = false) :=
  ⟨⟨(prA queued), 3, 5, 7, frQ, [], by decide +kernel⟩,
    ⟨(prA (shapedUp 53 6147)), 3, 5, 7, frQ, [], by decide +kernel⟩,
    ⟨grpUp, 3, 5, 7, frQ, [8], by decide +kernel⟩,
    ⟨(stampUp 1 0), 3, 5, 7, (frPtp 1 0), [], by decide +kernel⟩,
    ⟨(timStamp 2), 385, 7, { frPtp 2 0 with egress := 385 }, [], by decide +kernel⟩,
    ⟨(queued.setFrame 7 { frHd with txRec := some ⟨[1, 2, 3, 4], 5, 3⟩, dscp := some 9, bytes := ipFrame 9 }), 7, { frHd with txRec := some ⟨[1, 2, 3, 4], 5, 3⟩, dscp := some 9, bytes := ipFrame 9 }, by decide +kernel⟩,
    ⟨{ frHd with bytes := ipFrame 9, next := some ⟨1, 2, some 77⟩ }, ⟨1, 2, some 77⟩, (parse (ipFrame 9) 76), by decide +kernel⟩,
    ⟨{ frHd with bytes := ipFrame 9, dscp := some 33 }, 33, (parse (ipFrame 9) (parseLen (ipFrame 9) true)), by decide +kernel⟩,
    ⟨{ frHd with bytes := ptpFrame 0, insVal := some ⟨some (5, 6), 7⟩ }, ⟨some (5, 6), 7⟩, 14, none, by decide +kernel⟩,
    ⟨{ frHd with insVal := some ⟨none, 7⟩ }, by decide +kernel⟩,
    ⟨((prA queued).setFrame 7 { frQ with bad := some .fcs }), 3, 5, 7, { frQ with bad := some .fcs }, [], by decide +kernel⟩,
    ⟨(prA queued), 3, 5, 7, frQ, [], by decide +kernel⟩,
    ⟨(queued.updPort 3 fun r => { r with pfcHold := [(2, 9)] }), 3, 2, 9, [], by decide +kernel⟩,
    ⟨((grpUp.setReg (Reg.SCHD_PORT_CFG 3) 0x201).updPort 3 fun r => { r with pfcHold := [(2, 9)], lastB := false, opened := 0xFFFF }), 3, by decide +kernel⟩,
    ⟨(prA portUpS), 3, by decide +kernel⟩,
    ⟨up, 3, by decide +kernel⟩⟩

theorem witness_FramesAreSelectedAndSent_2 :
    (∃ (s : State) (p : Fin 416) (id : Nat) (f : Frame) (r : List Nat), s.pwr.mainUp = true ∧ 384 ≤ p.val ∧ portUp s p = true ∧ s.queue (5760 + p) = id :: r ∧ s.frame? id = some f ∧ f.egress = p.val ∧ f.ended = true ∧ f.slices.length = (f.bytes.length + 255) / 256 ∧ f.bad = none ∧ f.ins = 0 ∧ f.record = false ∧ f.tag = none ∧ f.ct = false) ∧
    (∃ (s : State) (id : Nat) (f : Frame), s.pwr.mainUp = true ∧ s.frame? id = some f ∧ f.phase = .selected ∧ f.bad = none ∧ f.tag = none) ∧
    (∃ (s : State) (id : Nat) (f : Frame), s.pwr.mainUp = true ∧ s.frame? id = some f ∧ f.phase = .selected ∧ f.bad ≠ none ∧ f.tag = none ∧ f.slices = [] ∧ f.ended = true) ∧
    (∃ (s : State) (id : Nat) (f : Frame), s.pwr.mainUp = true ∧ s.frame? id = some f ∧ f.phase = .handed ∧ f.ended = true ∧ f.tag = none ∧ f.trap = none ∧ f.slices = [] ∧ f.egress < 384 ∧ f.txRec = none ∧ f.bad = none ∧ f.next = none ∧ f.dscp = none ∧ f.insVal = none) ∧
    (∃ (s : State) (id : Nat) (f : Frame), s.pwr.mainUp = true ∧ s.frame? id = some f ∧ f.phase = .handed ∧ f.ended = true ∧ f.tag = none ∧ f.trap = none ∧ f.slices = [] ∧ f.egress < 384 ∧ f.txRec = none ∧ f.src < 384 ∧ (f.bad = some .fcs ∨ f.bad = some .oversize)) ∧
    (∃ (s : State) (id : Nat) (f : Frame), s.pwr.mainUp = true ∧ s.frame? id = some f ∧ f.phase = .handed ∧ f.ended = true ∧ f.tag = none ∧ f.trap = none ∧ f.slices = [] ∧ f.egress < 384 ∧ f.txRec = none ∧ f.src < 384 ∧ f.bad = none ∧ f.ct = true) ∧
    (∃ (f : Frame), f.next = none ∧ f.dscp = none ∧ f.insVal = none ∧ f.bad = some .oversize) ∧
    (∃ (s : State) (id : Nat) (f : Frame), s.pwr.mainUp = true ∧ s.frame? id = some f ∧ f.phase = .handed ∧ f.ended = false ∧ f.cut = true ∧ f.tag = none ∧ f.trap = none ∧ f.slices = [] ∧ f.egress < 384 ∧ f.txRec = none ∧ f.src < 384 ∧ f.bad = some .nofree) ∧
    (∃ (s : State) (id : Nat), s.pwr.mainUp = true ∧ s.frame? id = none) :=
  ⟨⟨((timUp.setFrame 7 { frQ with egress := 385 }).setQueue 6145 [7]), 385, 7, { frQ with egress := 385 }, [], by decide +kernel⟩,
    ⟨(queued.setFrame 7 { frQ with phase := .selected }), 7, { frQ with phase := .selected }, by decide +kernel⟩,
    ⟨(queued.setFrame 7 { frQ with phase := .selected, bad := some .down, slices := [] }), 7, { frQ with phase := .selected, bad := some .down, slices := [] }, by decide +kernel⟩,
    ⟨(queued.setFrame 7 frHd), 7, frHd, by decide +kernel⟩,
    ⟨(queued.setFrame 7 { frHd with bad := some .fcs }), 7, { frHd with bad := some .fcs }, by decide +kernel⟩,
    ⟨(queued.setFrame 7 { frHd with ct := true }), 7, { frHd with ct := true }, by decide +kernel⟩,
    ⟨{ frHd with bad := some .oversize }, by decide +kernel⟩,
    ⟨(queued.setFrame 7 { frHd with ended := false, cut := true, bad := some .nofree }), 7, { frHd with ended := false, cut := true, bad := some .nofree }, by decide +kernel⟩,
    ⟨up, 7, by decide +kernel⟩⟩

theorem witness_RatesAndStreams :
    (∃ (s : State) (i : Nat), s.pwr.mainUp = true ∧ SMapWf indReset s.ind ∧ i < 6528 ∧ bit (s.indw 7 (shaperWord i 0)) 0 = true ∧ ¬(i < 6144 ∧ i % 16 = 15)) ∧
    (∃ (s : State) (i : Nat), s.pwr.mainUp = true ∧ SMapWf indReset s.ind ∧ i < 6528 ∧ bit (s.indw 7 (shaperWord i 0)) 0 = false) ∧
    (∃ (s : State) (ag : Agent) (d : Word), s.pwr.mainUp = true ∧ pf1Denied ag Reg.SCHD_SHAPER_FORGIVE s = false ∧ bits d 0 13 ≤ 6527) ∧
    (∃ (s : State) (i : Nat), s.pwr.mainUp = true ∧ (s.pol i).next = none ∧ bit (nth 0 (s.pol i).now 0) 0 = true) ∧
    (∃ (s : State) (i : Nat) (v : List Word), s.pwr.mainUp = true ∧ (s.pol i).next = some v ∧ bit (nth 0 v 0) 0 = true ∧ bit (nth 0 (s.pol i).now 0) 0 = false) ∧
    (∃ (s : State) (i : Nat), s.pwr.mainUp = true ∧ (s.pol i).next = none ∧ bit (nth 0 (s.pol i).now 0) 0 = false) ∧
    (∃ (s : State) (ag : Agent) (i : Fin 4096) (d : Word), s.pwr.mainUp = true ∧ pf1Denied ag (Reg.POL_CFG i) s = false ∧ (d.getLsbD 0 = false ∨ ((s.reg (Reg.POL_CIR i)).toNat ≤ (s.reg (Reg.POL_PIR i)).toNat ∧ s.reg (Reg.POL_CBS i) ≠ 0 ∧ s.reg (Reg.POL_PBS i) ≠ 0))) ∧
    (∃ (s : State) (ag : Agent) (i : Fin 4096) (d : Word), s.pwr.mainUp = true ∧ pf1Denied ag (Reg.POL_CFG i) s = false ∧ d.getLsbD 0 = true ∧ ((s.reg (Reg.POL_PIR i)).toNat < (s.reg (Reg.POL_CIR i)).toNat ∨ s.reg (Reg.POL_CBS i) = 0 ∨ s.reg (Reg.POL_PBS i) = 0)) ∧
    (∃ (s : State) (id : Nat) (i : Nat) (f : Frame), s.pwr.mainUp = true ∧ s.frame? id = some f ∧ f.phase = .looked ∧ f.queue < 16 ∧ f.src ≤ 416 ∧ f.tag = none ∧ f.slices = [] ∧ f.ended = true ∧ f.policer = some i ∧ i < 4096 ∧ (∀ k : Fin 256, s.flag (F.TWIN_SID_CFG_VALID k) = false) ∧ bit (nth 0 (s.pol i).now 0) 0 = true ∧ bits (nth 0 (s.pol i).now 0) 4 2 = 1 ∧ (s.pol i).tp < ((max 1 ((f.bytes.length : Int) + (if 384 ≤ f.src then 20 else signed 8 (s.fld (F.SCHD_PORT_CFG_OVERHEAD f.src))))).toNat : Int) * 2 ^ 24) ∧
    (∃ (s : State) (id : Nat) (i : Nat) (f : Frame), s.pwr.mainUp = true ∧ s.frame? id = some f ∧ f.phase = .looked ∧ f.queue < 16 ∧ f.src ≤ 416 ∧ f.tag = none ∧ f.slices = [] ∧ f.ended = true ∧ f.policer = some i ∧ i < 4096 ∧ (∀ k : Fin 256, s.flag (F.TWIN_SID_CFG_VALID k) = false) ∧ bit (nth 0 (s.pol i).now 0) 0 = true ∧ bit (nth 0 (s.pol i).now 0) 1 = false ∧ ((max 1 ((f.bytes.length : Int) + (if 384 ≤ f.src then 20 else signed 8 (s.fld (F.SCHD_PORT_CFG_OVERHEAD f.src))))).toNat : Int) * 2 ^ 24 ≤ (s.pol i).tp ∧ ((max 1 ((f.bytes.length : Int) + (if 384 ≤ f.src then 20 else signed 8 (s.fld (F.SCHD_PORT_CFG_OVERHEAD f.src))))).toNat : Int) * 2 ^ 24 ≤ (s.pol i).tc) ∧
    (∃ (s : State) (src : Fin 416) (id : Nat) (i : Nat) (o : Int) (green : Bool) (f : Frame) (bs : List Byte), s.pwr.mainUp = true ∧ portUp s src = true ∧ frameComes s src bs = true ∧ src.val < 384 ∧ s.frame? id = some f ∧ f.src = src.val ∧ f.ended = false ∧ (f.phase = .queued ∨ f.phase = .gone) ∧ f.tag = none ∧ f.polChg = some (i, o, green) ∧ f.schChg = [] ∧ f.defChg = none ∧ half bs 12 ≠ 0x8808 ∧ 64 ≤ bs.length ∧ bs.length ≤ s.fld (F.PORT_MAX_FRAME_BYTES src) ∧ fcsOk bs = true) ∧
    (∃ (s : State) (id : Nat) (i : Nat) (n : Nat) (f : Frame), s.pwr.mainUp = true ∧ s.frame? id = some f ∧ f.phase = .looked ∧ f.egress < 384 ∧ f.queue < 16 ∧ f.src ≤ 416 ∧ f.tag = none ∧ f.slices = [] ∧ f.ended = true ∧ f.policer = none ∧ sidFind s (if (parse f.bytes (parseLen f.bytes f.ended)).tags = 0 then s.fld (F.FWD_PORT_CFG_PVID f.src) else (parse f.bytes (parseLen f.bytes f.ended)).vid) (beNat (slice f.bytes 0 6)) = some i ∧ i < 256 ∧ f.trap = none ∧ rtagSeq f.bytes = some n ∧ s.flag (F.TWIN_SID_STATE_TAKE_ANY i) = false ∧ signed 16 ((n + 65536 - s.fld (F.TWIN_SID_STATE_RECOV_SEQ i)) % 65536) ≤ 0 ∧ -(s.fld (F.TWIN_SID_CFG_HIST_LEN i) : Int) < signed 16 ((n + 65536 - s.fld (F.TWIN_SID_STATE_RECOV_SEQ i)) % 65536) ∧ (s.sid i).hist.testBit (-(signed 16 ((n + 65536 - s.fld (F.TWIN_SID_STATE_RECOV_SEQ i)) % 65536))).toNat = true) ∧
    (∃ (s : State) (id : Nat) (i : Nat) (n : Nat) (f : Frame), s.pwr.mainUp = true ∧ s.frame? id = some f ∧ f.phase = .looked ∧ f.egress < 384 ∧ f.queue < 16 ∧ f.src ≤ 416 ∧ f.tag = none ∧ f.slices = [] ∧ f.ended = true ∧ f.policer = none ∧ sidFind s (if (parse f.bytes (parseLen f.bytes f.ended)).tags = 0 then s.fld (F.FWD_PORT_CFG_PVID f.src) else (parse f.bytes (parseLen f.bytes f.ended)).vid) (beNat (slice f.bytes 0 6)) = some i ∧ i < 256 ∧ f.trap = none ∧ rtagSeq f.bytes = some n ∧ s.flag (F.TWIN_SID_STATE_TAKE_ANY i) = false ∧ ((s.fld (F.TWIN_SID_CFG_HIST_LEN i) : Int) ≤ signed 16 ((n + 65536 - s.fld (F.TWIN_SID_STATE_RECOV_SEQ i)) % 65536) ∨ signed 16 ((n + 65536 - s.fld (F.TWIN_SID_STATE_RECOV_SEQ i)) % 65536) ≤ -(s.fld (F.TWIN_SID_CFG_HIST_LEN i) : Int))) ∧
    (∃ (s : State) (id : Nat) (i : Nat) (n : Nat) (f : Frame), s.pwr.mainUp = true ∧ s.frame? id = some f ∧ f.phase = .looked ∧ f.egress < 384 ∧ f.queue < 16 ∧ f.src ≤ 416 ∧ f.tag = none ∧ f.slices = [] ∧ f.ended = true ∧ f.policer = none ∧ sidFind s (if (parse f.bytes (parseLen f.bytes f.ended)).tags = 0 then s.fld (F.FWD_PORT_CFG_PVID f.src) else (parse f.bytes (parseLen f.bytes f.ended)).vid) (beNat (slice f.bytes 0 6)) = some i ∧ i < 256 ∧ rtagSeq f.bytes = some n ∧ n < 65536 ∧ s.flag (F.TWIN_SID_STATE_TAKE_ANY i) = false ∧ signed 16 ((n + 65536 - s.fld (F.TWIN_SID_STATE_RECOV_SEQ i)) % 65536) = 1 ∧ 1 < s.fld (F.TWIN_SID_CFG_HIST_LEN i) ∧ s.fld (F.TWIN_SID_CFG_HIST_LEN i) ≤ 32) ∧
    (∃ (s : State) (id : Nat) (i : Nat) (n : Nat) (f : Frame), s.pwr.mainUp = true ∧ s.frame? id = some f ∧ f.phase = .looked ∧ f.egress < 384 ∧ f.queue < 16 ∧ f.src ≤ 416 ∧ f.tag = none ∧ f.slices = [] ∧ f.ended = true ∧ f.policer = none ∧ sidFind s (if (parse f.bytes (parseLen f.bytes f.ended)).tags = 0 then s.fld (F.FWD_PORT_CFG_PVID f.src) else (parse f.bytes (parseLen f.bytes f.ended)).vid) (beNat (slice f.bytes 0 6)) = some i ∧ i < 256 ∧ rtagSeq f.bytes = some n ∧ n < 65536 ∧ s.flag (F.TWIN_SID_STATE_TAKE_ANY i) = true) ∧
    (∃ (s : State), s.pwr.mainUp = true) :=
  ⟨⟨(shapedUp 53 6147), 53, by decide +kernel⟩,
    ⟨((shapedUp 53 6147).setIndw 7 24 2), 3, by decide +kernel⟩,
    ⟨up, .pf0, 6527, by decide +kernel⟩,
    ⟨(polUp 9), 9, by decide +kernel⟩,
    ⟨(polUp 9 |>.updPol 9 fun p => { p with now := [0, 0, 0, 1, 1], next := some [1, 5, 5, 77, 88] }), 9, [1, 5, 5, 77, 88], by decide +kernel⟩,
    ⟨up, 4, by decide +kernel⟩,
    ⟨up, .pf0, 9, 0x30, by decide +kernel⟩,
    ⟨(up.setReg (Reg.POL_CIR 9) 4), .pf0, 9, 1, by decide +kernel⟩,
    ⟨((polUp 9).setFrame 7 { frL with policer := some 9 }), 7, 9, { frL with policer := some 9 }, by decide +kernel⟩,
    ⟨(((polUp 9).updPol 9 fun p => { p with tc := 10 ^ 12, tp := 10 ^ 12 }).setFrame 7 { frL with policer := some 9 }), 7, 9, { frL with policer := some 9 }, by decide +kernel⟩,
    ⟨(((portUpS.setFrame 7 { frQ with src := 3, ended := false, known := 90, polChg := some (9, 20, false) }).updPol 9 fun p => { p with tp := 5 * 2 ^ 24 })), 3, 7, 9, 20, false, { frQ with src := 3, ended := false, known := 90, polChg := some (9, 20, false) }, (dataFrame 80), by decide +kernel⟩,
    ⟨(sidUp 500 1), 7, 4, 500, frS, by decide +kernel⟩,
    ⟨(sidUp 400 1), 7, 4, 500, frS, by decide +kernel⟩,
    ⟨(sidUp 499 1), 7, 4, 500, frS, by decide +kernel⟩,
    ⟨((sidUp 499 1).setFlag (F.TWIN_SID_STATE_TAKE_ANY 4) true), 7, 4, 500, frS, by decide +kernel⟩,
    ⟨((sidUp 499 1).setFld (F.TWIN_SID_CFG_RESET_MS 4) 1), by decide +kernel⟩⟩

theorem witness_DumpsAndRecordsReachTheHost :
    (∃ (s : State), s.pwr.mainUp = true ∧ s.flag F.TLM_DMA_CTRL_DUMP_EN = true ∧ s.flag F.TLM_DMA_CTRL_SNAP_EN = false ∧ s.tlm.held = [] ∧ ¬((s.fld F.TLM_DMA_CWR_WR + 1) % 2 ^ s.fld F.TLM_DMA_RING_CLOG2 = s.fld F.TLM_DMA_CRD_RD % 2 ^ s.fld F.TLM_DMA_RING_CLOG2) ∧ (s.msix (s.fld F.TLM_DMA_CTRL_FUNC)).busMaster = true ∧ (((s.reg64 Reg.TLM_DMA_CBASE_LO Reg.TLM_DMA_CBASE_HI / 4096 * 4096 + 4096 * (s.fld F.TLM_DMA_CWR_WR % 2 ^ s.fld F.TLM_DMA_RING_CLOG2)) % 2 ^ 64) + (64 + 4 * min 1008 (listWords s).length) ≤ (s.reg64 Reg.TLM_DMA_WB_LO Reg.TLM_DMA_WB_HI / 8 * 8) ∨ (s.reg64 Reg.TLM_DMA_WB_LO Reg.TLM_DMA_WB_HI / 8 * 8) + 8 ≤ ((s.reg64 Reg.TLM_DMA_CBASE_LO Reg.TLM_DMA_CBASE_HI / 4096 * 4096 + 4096 * (s.fld F.TLM_DMA_CWR_WR % 2 ^ s.fld F.TLM_DMA_RING_CLOG2)) % 2 ^ 64))) ∧
    (∃ (s : State), s.pwr.mainUp = true ∧ s.flag F.TLM_DMA_CTRL_DUMP_EN = true ∧ (s.tlm.held ≠ [] ∨ (s.fld F.TLM_DMA_CWR_WR + 1) % 2 ^ s.fld F.TLM_DMA_RING_CLOG2 = s.fld F.TLM_DMA_CRD_RD % 2 ^ s.fld F.TLM_DMA_RING_CLOG2)) ∧
    (∃ (s : State), s.pwr.mainUp = true ∧ s.flag F.TLM_DMA_CTRL_DUMP_EN = true ∧ s.flag F.TLM_DMA_CTRL_SNAP_EN = false ∧ s.tlm.held = [] ∧ ¬((s.fld F.TLM_DMA_CWR_WR + 1) % 2 ^ s.fld F.TLM_DMA_RING_CLOG2 = s.fld F.TLM_DMA_CRD_RD % 2 ^ s.fld F.TLM_DMA_RING_CLOG2) ∧ (s.msix (s.fld F.TLM_DMA_CTRL_FUNC)).busMaster = false) ∧
    (∃ (s : State), s.pwr.mainUp = true ∧ s.flag F.TLM_DMA_CTRL_DUMP_EN = true ∧ s.flag F.TLM_DMA_CTRL_SNAP_EN = true ∧ s.tlm.held = [] ∧ ¬((s.fld F.TLM_DMA_CWR_WR + 1) % 2 ^ s.fld F.TLM_DMA_RING_CLOG2 = s.fld F.TLM_DMA_CRD_RD % 2 ^ s.fld F.TLM_DMA_RING_CLOG2) ∧ (s.msix (s.fld F.TLM_DMA_CTRL_FUNC)).busMaster = false) ∧
    (∃ (s : State), s.pwr.mainUp = true ∧ s.flag F.TLM_DMA_CTRL_DUMP_EN = false) ∧
    (∃ (s : State) (r : Nat), s.pwr.mainUp = true ∧ s.flag F.TLM_DMA_CTRL_TAG_EN = true ∧ r ∈ s.tlm.closed ∧ (s.msix (s.fld F.TLM_DMA_CTRL_FUNC)).busMaster = true ∧ ¬((s.fld F.TLM_DMA_TWR_WR + 1) % 2 ^ s.fld F.TLM_DMA_RING_TLOG2 = s.fld F.TLM_DMA_TRD_RD % 2 ^ s.fld F.TLM_DMA_RING_TLOG2) ∧ (((s.reg64 Reg.TLM_DMA_TBASE_LO Reg.TLM_DMA_TBASE_HI / 128 * 128 + 128 * (s.fld F.TLM_DMA_TWR_WR % 2 ^ s.fld F.TLM_DMA_RING_TLOG2)) % 2 ^ 64) + 128 ≤ (s.reg64 Reg.TLM_DMA_WB_LO Reg.TLM_DMA_WB_HI / 8 * 8) ∨ (s.reg64 Reg.TLM_DMA_WB_LO Reg.TLM_DMA_WB_HI / 8 * 8) + 8 ≤ ((s.reg64 Reg.TLM_DMA_TBASE_LO Reg.TLM_DMA_TBASE_HI / 128 * 128 + 128 * (s.fld F.TLM_DMA_TWR_WR % 2 ^ s.fld F.TLM_DMA_RING_TLOG2)) % 2 ^ 64))) ∧
    (∃ (s : State) (r : Nat), s.pwr.mainUp = true ∧ s.flag F.TLM_DMA_CTRL_TAG_EN = true ∧ r ∈ s.tlm.closed ∧ (s.msix (s.fld F.TLM_DMA_CTRL_FUNC)).busMaster = true ∧ (s.fld F.TLM_DMA_TWR_WR + 1) % 2 ^ s.fld F.TLM_DMA_RING_TLOG2 = s.fld F.TLM_DMA_TRD_RD % 2 ^ s.fld F.TLM_DMA_RING_TLOG2) ∧
    (∃ (s : State) (r : Nat), s.pwr.mainUp = true ∧ s.flag F.TLM_DMA_CTRL_TAG_EN = true ∧ r ∈ s.tlm.closed ∧ (s.msix (s.fld F.TLM_DMA_CTRL_FUNC)).busMaster = false) ∧
    (∃ (s : State) (r : Nat), s.pwr.mainUp = true ∧ (s.flag F.TLM_DMA_CTRL_TAG_EN = false ∨ r ∉ s.tlm.closed)) ∧
    (∃ (s : State) (f : Fin 2) (w : Word) (ws : List Word), s.pwr.mainUp = true ∧ (s.msix f).enable = false ∧ s.fld F.TLM_DMA_CTRL_FUNC = f.val ∧ s.tlm.held = w :: ws ∧ s.tlm.waiting = [] ∧ ws.length < 1024 ∧ (((s.reg64 Reg.TLM_DMA_CBASE_LO Reg.TLM_DMA_CBASE_HI / 4096 * 4096 + 4096 * (s.fld F.TLM_DMA_CWR_WR % 2 ^ s.fld F.TLM_DMA_RING_CLOG2)) % 2 ^ 64) + 4 * (ws.length + 1) ≤ (s.reg64 Reg.TLM_DMA_WB_LO Reg.TLM_DMA_WB_HI / 8 * 8) ∨ (s.reg64 Reg.TLM_DMA_WB_LO Reg.TLM_DMA_WB_HI / 8 * 8) + 8 ≤ ((s.reg64 Reg.TLM_DMA_CBASE_LO Reg.TLM_DMA_CBASE_HI / 4096 * 4096 + 4096 * (s.fld F.TLM_DMA_CWR_WR % 2 ^ s.fld F.TLM_DMA_RING_CLOG2)) % 2 ^ 64))) ∧
    (∃ (s : State) (f : Fin 2) (r : Nat), s.pwr.mainUp = true ∧ (s.msix f).enable = false ∧ s.fld F.TLM_DMA_CTRL_FUNC = f.val ∧ s.tlm.held = [] ∧ s.tlm.waiting = [r] ∧ ¬((s.fld F.TLM_DMA_TWR_WR + 1) % 2 ^ s.fld F.TLM_DMA_RING_TLOG2 = s.fld F.TLM_DMA_TRD_RD % 2 ^ s.fld F.TLM_DMA_RING_TLOG2) ∧ (((s.reg64 Reg.TLM_DMA_TBASE_LO Reg.TLM_DMA_TBASE_HI / 128 * 128 + 128 * (s.fld F.TLM_DMA_TWR_WR % 2 ^ s.fld F.TLM_DMA_RING_TLOG2)) % 2 ^ 64) + 128 ≤ (s.reg64 Reg.TLM_DMA_WB_LO Reg.TLM_DMA_WB_HI / 8 * 8) ∨ (s.reg64 Reg.TLM_DMA_WB_LO Reg.TLM_DMA_WB_HI / 8 * 8) + 8 ≤ ((s.reg64 Reg.TLM_DMA_TBASE_LO Reg.TLM_DMA_TBASE_HI / 128 * 128 + 128 * (s.fld F.TLM_DMA_TWR_WR % 2 ^ s.fld F.TLM_DMA_RING_TLOG2)) % 2 ^ 64))) ∧
    (∃ (s : State) (f : Fin 2), s.pwr.mainUp = true ∧ (s.msix f).enable = false ∧ s.fld F.TLM_DMA_CTRL_FUNC ≠ f.val ∧ (s.msix (s.fld F.TLM_DMA_CTRL_FUNC)).busMaster = false) :=
  ⟨⟨dmaUp, by decide +kernel⟩,
    ⟨(dmaUp.setReg Reg.TLM_DMA_CRD 1), by decide +kernel⟩,
    ⟨dmaOff, by decide +kernel⟩,
    ⟨(dmaOff.setFlag F.TLM_DMA_CTRL_SNAP_EN true), by decide +kernel⟩,
    ⟨up, by decide +kernel⟩,
    ⟨(tagUp.updMsix 0 fun m => { m with busMaster := true }), 9, by decide +kernel⟩,
    ⟨((tagUp.updMsix 0 fun m => { m with busMaster := true }).setReg Reg.TLM_DMA_TRD 1), 9, by decide +kernel⟩,
    ⟨tagUp, 9, by decide +kernel⟩,
    ⟨tagUp, 8, by decide +kernel⟩,
    ⟨(dmaOff.updTlm fun t => { t with held := [1, 2, 3] }), 0, 1, [2, 3], by decide +kernel⟩,
    ⟨(tagUp.updTlm fun t => { t with waiting := [9] }), 0, 9, by decide +kernel⟩,
    ⟨tagUp, 1, by decide +kernel⟩⟩

theorem witness_SamplesSlotsAndTags :
    (∃ (s : State) (k : Fin 64) (n : Nat), s.pending = [] ∧ s.pwr.oclkUp = true ∧ s.pwr.mainUp = true ∧ s.tb.pend = none ∧ s.tb.snaps = [] ∧ n = ((s.clk.tclk + 1 - s.clk.mainAt) * 48 / 25 - (s.clk.tclk - s.clk.mainAt) * 48 / 25) ∧ s.tlm.reload.getLsbD k = false ∧ s.reg64 (Reg.TLM_EVT_LO k) (Reg.TLM_EVT_HI k) + n < 2 ^ 64) ∧
    (∃ (s : State) (k : Fin 64) (n : Nat), s.pending = [] ∧ s.pwr.oclkUp = true ∧ s.pwr.mainUp = true ∧ s.tb.pend = none ∧ s.tb.snaps = [] ∧ n = ((s.clk.tclk + 1 - s.clk.mainAt) * 48 / 25 - (s.clk.tclk - s.clk.mainAt) * 48 / 25) ∧ 0 < n ∧ s.tlm.reload.getLsbD k = false ∧ s.fld (F.TLM_EVT_CFG_EVENT k) = 10 ∧ s.reg64 (Reg.TLM_EVT_LO k) (Reg.TLM_EVT_HI k) + n = 2 ^ 64) ∧
    (∃ (s : State) (n : Nat), s.pending = [] ∧ s.pwr.oclkUp = true ∧ s.pwr.mainUp = true ∧ s.tb.pend = none ∧ s.tb.snaps = [] ∧ n = ((s.clk.tclk + 1 - s.clk.mainAt) * 48 / 25 - (s.clk.tclk - s.clk.mainAt) * 48 / 25)) ∧
    (∃ (s : State) (p : Fin 24) (n : Nat) (f : Nat) (u : Nat), s.pending = [] ∧ s.pwr.oclkUp = true ∧ s.pwr.mainUp = true ∧ s.tb.pend = none ∧ s.tb.snaps = [] ∧ n = ((s.clk.tclk + 1 - s.clk.mainAt) * 48 / 25 - (s.clk.tclk - s.clk.mainAt) * 48 / 25) ∧ s.flag F.TLM_SLOT_CMD_EN = true ∧ u = ((smapGet noSlots s.tlm.slots p).take (2 * n)).length ∧ f = ((smapGet noSlots s.tlm.slots p).take (2 * n)).count true) ∧
    (∃ (s : State) (n : Nat), s.pending = [] ∧ s.pwr.oclkUp = true ∧ s.pwr.mainUp = true ∧ s.tb.pend = none ∧ s.tb.snaps = [] ∧ n = ((s.clk.tclk + 1 - s.clk.mainAt) * 48 / 25 - (s.clk.tclk - s.clk.mainAt) * 48 / 25) ∧ s.flag F.TLM_SLOT_CMD_EN = false) ∧
    (∃ (s : State) (g : Nat), s.pwr.mainUp = true ∧ SMapWf indReset s.ind ∧ s.flag F.SCHD_SAMPLE_CTRL_EN = true ∧ s.net.walk = none ∧ ¬(((s.fld F.SCHD_SAMPLE_WR_WR % 2 ^ s.fld F.SCHD_SAMPLE_RING_LOG2) + 1) % 2 ^ s.fld F.SCHD_SAMPLE_RING_LOG2 = s.fld F.SCHD_SAMPLE_RD_RD % 2 ^ s.fld F.SCHD_SAMPLE_RING_LOG2) ∧ 0 ≤ g ∧ g < 6144 ∧ bit (s.indw 7 (8 * g)) 1 = true ∧ (∀ h : Fin 6144, 0 ≤ h.val → h.val < g → bit (s.indw 7 (8 * h)) 1 = false)) ∧
    (∃ (s : State), s.pwr.mainUp = true ∧ SMapWf indReset s.ind ∧ s.flag F.SCHD_SAMPLE_CTRL_EN = true ∧ s.net.walk = none ∧ ((s.fld F.SCHD_SAMPLE_WR_WR % 2 ^ s.fld F.SCHD_SAMPLE_RING_LOG2) + 1) % 2 ^ s.fld F.SCHD_SAMPLE_RING_LOG2 = s.fld F.SCHD_SAMPLE_RD_RD % 2 ^ s.fld F.SCHD_SAMPLE_RING_LOG2 ∧ (∀ h : Fin 6144, 0 ≤ h.val → bit (s.indw 7 (8 * h)) 1 = false)) ∧
    (∃ (s : State), s.pwr.mainUp = true ∧ s.flag F.SCHD_SAMPLE_CTRL_EN = true ∧ s.net.walk ≠ none) ∧
    (∃ (s : State), s.pwr.mainUp = true ∧ s.flag F.SCHD_SAMPLE_CTRL_EN = false) ∧
    (∃ (s : State) (i : Nat) (g : Nat), s.pwr.mainUp = true ∧ SMapWf indReset s.ind ∧ s.net.walk = some i ∧ ¬(((s.fld F.SCHD_SAMPLE_WR_WR % 2 ^ s.fld F.SCHD_SAMPLE_RING_LOG2) + 1) % 2 ^ s.fld F.SCHD_SAMPLE_RING_LOG2 = s.fld F.SCHD_SAMPLE_RD_RD % 2 ^ s.fld F.SCHD_SAMPLE_RING_LOG2) ∧ i ≤ g ∧ g < 6144 ∧ bit (s.indw 7 (8 * g)) 1 = true ∧ (∀ h : Fin 6144, i ≤ h.val → h.val < g → bit (s.indw 7 (8 * h)) 1 = false) ∧ (∀ h : Fin 6144, g + 1 ≤ h.val → bit (s.indw 7 (8 * h)) 1 = false) ∧ s.queue g = []) ∧
    (∃ (s : State) (i : Nat) (g : Nat) (h : Nat), s.pwr.mainUp = true ∧ SMapWf indReset s.ind ∧ s.net.walk = some i ∧ ((s.fld F.SCHD_SAMPLE_WR_WR % 2 ^ s.fld F.SCHD_SAMPLE_RING_LOG2) + 1) % 2 ^ s.fld F.SCHD_SAMPLE_RING_LOG2 = s.fld F.SCHD_SAMPLE_RD_RD % 2 ^ s.fld F.SCHD_SAMPLE_RING_LOG2 ∧ i ≤ g ∧ g < 6144 ∧ bit (s.indw 7 (8 * g)) 1 = true ∧ (∀ h : Fin 6144, i ≤ h.val → h.val < g → bit (s.indw 7 (8 * h)) 1 = false) ∧ g + 1 ≤ h ∧ h < 6144 ∧ bit (s.indw 7 (8 * h)) 1 = true ∧ (∀ x : Fin 6144, g + 1 ≤ x.val → x.val < h → bit (s.indw 7 (8 * x)) 1 = false)) ∧
    (∃ (s : State), s.pwr.mainUp = true ∧ s.net.walk = none) ∧
    (∃ (s : State) (k : Fin 64), s.pwr.mainUp = true ∧ s.tlm.reload.getLsbD k = true) ∧
    (∃ (s : State) (k : Fin 64), s.pwr.mainUp = true ∧ s.tlm.reload.getLsbD k = false) ∧
    (∃ (s : State) (ag : Agent) (d : Word), s.pwr.mainUp = true ∧ pf1Denied ag Reg.TLM_SLOT_CMD s = false ∧ d.getLsbD 1 = false ∧ d.getLsbD 2 = false) ∧
    (∃ (s : State) (ag : Agent) (d : Word), s.pwr.mainUp = true ∧ pf1Denied ag Reg.TLM_SLOT_CMD s = false ∧ d.getLsbD 2 = false) :=
  ⟨⟨(up.setReg (Reg.TLM_EVT_CFG 5) 10), 5, tickUp, by decide +kernel⟩,
    ⟨(((up.setReg (Reg.TLM_EVT_CFG 5) 0x1000A).setReg (Reg.TLM_EVT_LO 5) (BitVec.ofNat 32 (2 ^ 32 - tickUp))).setReg (Reg.TLM_EVT_HI 5) 0xFFFFFFFF), 5, tickUp, by decide +kernel⟩,
    ⟨(((up.setReg (Reg.TLM_THR_CFG 200) 3).setReg Reg.BUF_FREE 7)), tickUp, by decide +kernel⟩,
    ⟨((up.setReg Reg.TLM_SLOT_CMD 1).updTlm fun t => { t with slots := [(3, [true, false, true, true, true])] }), 3, tickUp, (if tickUp = 1 then 1 else 3), (min 5 (2 * tickUp)), by decide +kernel⟩,
    ⟨(up.updTlm fun t => { t with slots := [(3, [true, false, true, true, true])] }), tickUp, by decide +kernel⟩,
    ⟨((sampUp 3).setIndw 7 0x800 2), 3, by and_intros <;> first | exact forall6144 _ (by decide +kernel) | decide +kernel⟩,
    ⟨(sampUp 0 |>.setReg Reg.SCHD_SAMPLE_RD 1 |>.setIndw 7 0 0), by decide +kernel, by decide +kernel, by decide +kernel, by decide +kernel, by decide +kernel, forall6144 _ (by decide +kernel)⟩,
    ⟨((sampUp 3).updNet fun n => { n with walk := some 3 }), by decide +kernel⟩,
    ⟨up, by decide +kernel⟩,
    ⟨((sampUp 3).updNet fun n => { n with walk := some 1 }), 1, 3, by and_intros <;> first | exact forall6144 _ (by decide +kernel) | decide +kernel⟩,
    ⟨((((sampUp 3).setIndw 7 0x800 2).setReg Reg.SCHD_SAMPLE_RD 1).updNet fun n => { n with walk := some 1 }), 1, 3, 256, by and_intros <;> first | exact forall6144 _ (by decide +kernel) | decide +kernel⟩,
    ⟨up, by decide +kernel⟩,
    ⟨((up.setReg (Reg.TLM_EVT_RELOAD_LO 5) 77).updTlm fun t => { t with reload := 0x30 }), 5, by decide +kernel⟩,
    ⟨up, 5, by decide +kernel⟩,
    ⟨up, .pf0, 1, by decide +kernel⟩,
    ⟨(up.setReg (Reg.TLM_SLOT_FWD_LO 23) 5), .pf0, 1, by decide +kernel⟩⟩

theorem witness_SamplesSlotsAndTags_2 :
    (∃ (s : State) (ag : Agent) (d : Word), s.pwr.mainUp = true ∧ pf1Denied ag Reg.TLM_SLOT_CMD s = false ∧ d.getLsbD 1 = false) ∧
    (∃ (s : State) (ag : Agent) (d : Word), s.pwr.mainUp = true ∧ pf1Denied ag Reg.TLM_SLOT_CMD s = false ∧ d.getLsbD 1 = true) ∧
    (∃ (s : State) (src : Fin 416) (id : Nat) (bs : List Byte), s.pwr.mainUp = true ∧ portUp s src = true ∧ frameComes s src bs = true ∧ s.frame? id = none ∧ src.val < 384 ∧ half bs 12 ≠ 0x8808 ∧ 64 ≤ bs.length ∧ bs.length ≤ s.fld (F.PORT_MAX_FRAME_BYTES src) ∧ fcsOk bs = true ∧ s.flag F.TLM_TAG_CTRL_EN = true ∧ s.fld F.TLM_TAG_CTRL_PORT_SEL = 511 ∧ s.fld F.TLM_TAG_CTRL_RATE_LOG2 = 0 ∧ s.tlm.tagAt ≠ some (pclk s) ∧ s.fld F.TLM_TAG_STATUS_NEXT ∉ s.tlm.opened) ∧
    (∃ (s : State) (src : Fin 416) (id : Nat) (bs : List Byte), s.pwr.mainUp = true ∧ portUp s src = true ∧ frameComes s src bs = true ∧ s.frame? id = none ∧ src.val < 384 ∧ half bs 12 ≠ 0x8808 ∧ 64 ≤ bs.length ∧ bs.length ≤ s.fld (F.PORT_MAX_FRAME_BYTES src) ∧ fcsOk bs = true ∧ s.flag F.TLM_TAG_CTRL_EN = true ∧ s.fld F.TLM_TAG_CTRL_PORT_SEL = 511 ∧ s.fld F.TLM_TAG_CTRL_RATE_LOG2 = 0 ∧ s.tlm.tagAt ≠ some (pclk s) ∧ s.fld F.TLM_TAG_STATUS_NEXT ∈ s.tlm.opened) ∧
    (∃ (s : State) (src : Fin 416) (id : Nat) (bs : List Byte), s.pwr.mainUp = true ∧ portUp s src = true ∧ frameComes s src bs = true ∧ s.frame? id = none ∧ src.val < 384 ∧ half bs 12 ≠ 0x8808 ∧ 64 ≤ bs.length ∧ bs.length ≤ s.fld (F.PORT_MAX_FRAME_BYTES src) ∧ fcsOk bs = true ∧ s.flag F.TLM_TAG_CTRL_EN = true ∧ s.tlm.tagAt = some (pclk s)) ∧
    (∃ (s : State) (id : Nat) (r : Nat) (f : Frame), s.pwr.mainUp = true ∧ s.frame? id = some f ∧ f.phase = .handed ∧ f.ended = true ∧ f.tag = some r ∧ r < 1024 ∧ f.trap = none ∧ f.slices = [] ∧ f.egress < 384 ∧ f.txRec = none ∧ f.bad = none ∧ r ∈ s.tlm.opened) :=
  ⟨⟨(up.setReg (Reg.TLM_SLOT_FWD_LO 23) 5), .pf0, 0, by decide +kernel⟩,
    ⟨(up.setReg (Reg.TLM_SLOT_FWD_LO 23) 5), .pf0, 2, by decide +kernel⟩,
    ⟨(tagEn portUpS), 3, 4, (dataFrame 80), by decide +kernel⟩,
    ⟨((tagEn portUpS).updTlm fun t => { t with opened := [0] }), 3, 4, (dataFrame 80), by decide +kernel⟩,
    ⟨((tagEn portUpS).updTlm fun t => { t with tagAt := some (pclk portUpS) }), 3, 4, (dataFrame 80), by decide +kernel⟩,
    ⟨((queued.setFrame 7 { frHd with tag := some 9 }).updTlm fun t => { t with opened := [8, 9] }), 7, 9, { frHd with tag := some 9 }, by decide +kernel⟩⟩

theorem witness_LinksAndImages :
    (∃ (s : State) (k : Fin 3), s.pwr.mainUp = true ∧ linkUsable s k = true ∧ (k.val = 2 → s.flag F.TWIN_STACK_STATUS_POS_VALID = true)) ∧
    (∃ (s : State) (k : Fin 3), s.pwr.mainUp = true ∧ (linkUsable s k = false ∨ (k.val = 2 ∧ s.flag F.TWIN_STACK_STATUS_POS_VALID = false))) ∧
    (∃ (s : State) (k : Fin 3), s.pwr.mainUp = true ∧ linkUsable s k = true) ∧
    (∃ (s : State) (k : Fin 3) (a : Nat) (b : Nat) (f1 : List Byte) (f2 : List Byte), s.pwr.mainUp = true ∧ linkUsable s k = true ∧ laneCarries s (laneAt (768 + linkLane s k)) = true ∧ (s.lane (768 + linkLane s k)).line = [(a, f1), (b, f2)] ∧ a ≤ wordIndex s (.aux (linkAux s k)) ∧ wordIndex s (.aux (linkAux s k)) < a + lineWords f1 ∧ wordIndex s (.aux (linkAux s k)) < b ∧ nth 0 f2 0 ≠ 2) ∧
    (∃ (s : State) (m : Fin 32) (a : Nat) (n : Nat) (bs : List Byte), (s.lane (768 + m)).mode = 1 ∧ s.fld (F.ALN_PRBS_CTRL_GEN_PAT m) = 0 ∧ (s.lane (768 + m)).line = [(a, bs)] ∧ (n < a ∨ a + (bs.length - 1) / 2 + 2 ≤ n)) ∧
    (∃ (s : State) (k : Fin 3) (j : Nat) (ago : Nat) (bs : List Byte) (e : Bool) (c : Instr), s.pwr.mainUp = true ∧ linkHears s k bs = true ∧ plahusOk bs e = false ∧ c ∈ [Instr.helloReceive k bs e, .syncReceive k bs e j ago, .stateReceive k bs e, .prepare k bs e, .ready k bs e, .refuse k bs e, .xstepCommit k bs e, .xstepAbort k bs e]) ∧
    (∃ (s : State) (k : Fin 3) (bs : List Byte), s.pwr.mainUp = true ∧ linkHears s k bs = true ∧ plahusOk bs false = true ∧ byteAt bs 0 = 1 ∧ ¬(half bs 1 = (if k.val = 0 then s.fld F.TWIN_PAIR_CFG_PAIR_ID else s.fld F.TWIN_STACK_CFG_STACK_ID))) ∧
    (∃ (s : State) (k : Fin 3) (bs : List Byte), s.pwr.mainUp = true ∧ linkHears s k bs = true ∧ plahusOk bs false = true ∧ byteAt bs 0 = 1 ∧ half bs 1 = (if k.val = 0 then s.fld F.TWIN_PAIR_CFG_PAIR_ID else s.fld F.TWIN_STACK_CFG_STACK_ID) ∧ k.val = 0 ∧ ¬((byteAt bs 4).testBit 1 = true ∧ (s.flag F.TWIN_STACK_CFG_EN && s.flag F.TWIN_STACK_CFG_MASTER) = true)) ∧
    (∃ (s : State) (k : Fin 3) (bs : List Byte), s.pwr.mainUp = true ∧ linkHears s k bs = true ∧ plahusOk bs false = true ∧ byteAt bs 0 = 1 ∧ half bs 1 = (if k.val = 0 then s.fld F.TWIN_PAIR_CFG_PAIR_ID else s.fld F.TWIN_STACK_CFG_STACK_ID) ∧ k.val = 1 ∧ (s.flag F.TWIN_STACK_CFG_EN && s.flag F.TWIN_STACK_CFG_MASTER) = false ∧ byteAt bs 5 ≤ 6) ∧
    (∃ (s : State) (k : Fin 3) (bs : List Byte), s.pwr.mainUp = true ∧ linkHears s k bs = true ∧ plahusOk bs false = true ∧ byteAt bs 0 = 1 ∧ half bs 1 = (if k.val = 0 then s.fld F.TWIN_PAIR_CFG_PAIR_ID else s.fld F.TWIN_STACK_CFG_STACK_ID) ∧ k.val = 1 ∧ (s.flag F.TWIN_STACK_CFG_EN && s.flag F.TWIN_STACK_CFG_MASTER) = false ∧ 6 < byteAt bs 5) ∧
    (∃ (s : State) (k : Fin 3) (bs : List Byte), s.pwr.mainUp = true ∧ linkHears s k bs = true ∧ plahusOk bs false = true ∧ byteAt bs 0 = 1 ∧ half bs 1 = (if k.val = 0 then s.fld F.TWIN_PAIR_CFG_PAIR_ID else s.fld F.TWIN_STACK_CFG_STACK_ID) ∧ (byteAt bs 4).testBit 1 = true ∧ (k.val = 2 ∨ (s.flag F.TWIN_STACK_CFG_EN && s.flag F.TWIN_STACK_CFG_MASTER) = true)) ∧
    (∃ (s : State) (k : Fin 3) (bs : List Byte), s.pwr.mainUp = true ∧ linkHears s k bs = true ∧ plahusOk bs false = true ∧ byteAt bs 0 = 2 ∧ (∀ x ∈ (s.link k).txs, x.1 ≠ half bs 3)) ∧
    (∃ (s : State) (k : Fin 3) (bs : List Byte) (j : Nat) (ago : Nat) (l : LinkSt) (e : Nat) (t1 : List Word) (a : Int) (c : Int) (d : Int) (o : Int), s.pwr.mainUp = true ∧ linkHears s k bs = true ∧ plahusOk bs false = true ∧ byteAt bs 0 = 2 ∧ s.link k = l ∧ l.txs.find? (fun x => x.1 == half bs 3) = some (e, t1) ∧ a = recVal l.fmt (recOf (slice bs 21 16)) - recVal (tbFormat s) t1 ∧ c = recVal (tbFormat s) (syncReceived k j ago s) - recVal l.fmt (recOf (slice bs 5 16)) ∧ d = Int.fdiv (a + c) 2 ∧ (bits (nth 0 t1 0) 26 2 = bits (nth 0 (syncReceived k j ago s) 0) 26 2 ∧ bits (nth 0 (recOf (slice bs 21 16)) 0) 26 2 = bits (nth 0 (recOf (slice bs 5 16)) 0) 26 2) ∧ [t1, (recOf (slice bs 21 16)), (recOf (slice bs 5 16)), (syncReceived k j ago s)].all (fun w => !bit (nth 0 w 0) 25 && !bit (nth 0 w 0) 23) = true ∧ 0 ≤ d ∧ o = Int.fdiv (a - c) 2 + Int.fdiv (signed 32 (s.reg (Reg.MET_PORT_ASYM_COEF (384 + linkLane s k))).toNat * d) (2 ^ 40) ∧ -(2 ^ 31) ≤ Int.fdiv (o + 2 ^ 31) (2 ^ 32) ∧ Int.fdiv (o + 2 ^ 31) (2 ^ 32) < 2 ^ 31 ∧ Int.fdiv (d + 2 ^ 31) (2 ^ 32) < 2 ^ 32) ∧
    (∃ (s : State) (k : Fin 3) (bs : List Byte) (j : Nat) (ago : Nat) (l : LinkSt) (e : Nat) (t1 : List Word) (a : Int) (c : Int) (d : Int), s.pwr.mainUp = true ∧ linkHears s k bs = true ∧ plahusOk bs false = true ∧ byteAt bs 0 = 2 ∧ s.link k = l ∧ l.txs.find? (fun x => x.1 == half bs 3) = some (e, t1) ∧ a = recVal l.fmt (recOf (slice bs 21 16)) - recVal (tbFormat s) t1 ∧ c = recVal (tbFormat s) (syncReceived k j ago s) - recVal l.fmt (recOf (slice bs 5 16)) ∧ d = Int.fdiv (a + c) 2 ∧ (¬(bits (nth 0 t1 0) 26 2 = bits (nth 0 (syncReceived k j ago s) 0) 26 2 ∧ bits (nth 0 (recOf (slice bs 21 16)) 0) 26 2 = bits (nth 0 (recOf (slice bs 5 16)) 0) 26 2) ∨ d < 0)) ∧
    (∃ (s : State) (k : Fin 3) (bs : List Byte), s.pwr.mainUp = true ∧ linkHears s k bs = true ∧ plahusOk bs false = true ∧ byteAt bs 0 = 3 ∧ k.val = 0 ∧ (s.fld F.TWIN_LIVE_ROLE = 1 ∨ s.fld F.TWIN_LIVE_ROLE = 3)) ∧
    (∃ (s : State) (k : Fin 3) (bs : List Byte), s.pwr.mainUp = true ∧ linkHears s k bs = true ∧ plahusOk bs false = true ∧ byteAt bs 0 = 3 ∧ (k.val ≠ 0 ∨ ¬(s.fld F.TWIN_LIVE_ROLE = 1 ∨ s.fld F.TWIN_LIVE_ROLE = 3))) :=
  ⟨⟨(carUp twUp), 0, by decide +kernel⟩,
    ⟨(stUp.setReg Reg.TWIN_STACK_CFG 0x8C), 2, by decide +kernel⟩,
    ⟨(carUp twUp), 0, by decide +kernel⟩,
    ⟨((carUp twUp).updLane 771 fun r => { r with line := [(0, [3, 7, 7]), (4, [1, 2])] }), 0, 0, 4, [3, 7, 7], [1, 2], by decide +kernel⟩,
    ⟨((carUp twUp).updLane 771 fun r => { r with line := [(20, plahusFrame 1 (List.replicate 28 0))] }), 3, 20, 9, (plahusFrame 1 (List.replicate 28 0)), by decide +kernel⟩,
    ⟨twUp, 0, 0, 3, [1], false, (.helloReceive 0 [1] false), by decide +kernel⟩,
    ⟨twUp, 0, (plahusFrame 1 (9 :: List.replicate 27 0)), by decide +kernel⟩,
    ⟨twUp, 0, (plahusFrame 1 (List.replicate 28 0)), by decide +kernel⟩,
    ⟨stUp, 1, (plahusFrame 1 (List.replicate 28 0)), by decide +kernel⟩,
    ⟨stUp, 1, (plahusFrame 1 ([0, 0, 0, 0, 7] ++ List.replicate 23 0)), by decide +kernel⟩,
    ⟨(stUp.setReg Reg.TWIN_STACK_CFG 0x8F), 1, (plahusFrame 1 ([0, 0, 0, 2] ++ List.replicate 24 0)), by decide +kernel⟩,
    ⟨twUp, 0, (plahusFrame 2 (List.replicate 52 0)), by decide +kernel⟩,
    ⟨exUp, 0, exFr, 0, 3, (exUp.link 0), 0, [0, 0, 0, 0], 0, 0, 0, 0, by decide +kernel⟩,
    ⟨exUp, 0, (plahusFrame 2 ([0, 0, 0, 0] ++ recBytes [0x4000000, 0, 0, 0] ++ List.replicate 32 0)), 0, 3, (exUp.link 0), 0, [0, 0, 0, 0], 0, (recVal 1 exT), (Int.fdiv (recVal 1 exT) 2), by decide +kernel⟩,
    ⟨(twUp.setFld F.TWIN_LIVE_ROLE 1), 0, (plahusFrame 3 (List.replicate 192 7)), by decide +kernel, by decide +kernel, plahusOk_frame 3 192 _ rfl (by decide) rfl, by decide +kernel, by decide +kernel, by decide +kernel⟩,
    ⟨twUp, 0, (plahusFrame 3 (List.replicate 192 7)), by decide +kernel, by decide +kernel, plahusOk_frame 3 192 _ rfl (by decide) rfl, by decide +kernel, by decide +kernel⟩⟩

theorem witness_LinksAndImages_2 :
    (∃ (s : State) (k : Fin 3), s.pwr.mainUp = true ∧ s.flag (F.TWIN_LNK_STATUS_SILENT k) = false) ∧
    (∃ (s : State) (k : Fin 3), s.pwr.mainUp = true ∧ s.flag (F.TWIN_LNK_STATUS_SILENT k) = true) ∧
    (∃ (s : State), s.pwr.mainUp = true) ∧
    (∃ (s : State), s.pwr.mainUp = true ∧ s.fld F.TWIN_LIVE_ROLE ≠ 2) ∧
    (∃ (s : State), s.pwr.mainUp = true ∧ s.fld F.TWIN_LIVE_ROLE = 2 ∧ linkUsable s 0 = true) ∧
    (∃ (s : State), s.pwr.mainUp = true ∧ s.twin.xok = true ∧ s.fld F.TWIN_LIVE_ROLE = 1 ∧ s.fld F.LOOP_STATUS_SELECTED = 21 ∧ s.fld F.LOOP_STATUS_STATE = 2 ∧ 100 ≤ s.twin.xn ∧ s.fld F.TWIN_XCHK_LIMIT_PS * 2 ^ 48 * s.twin.xn < s.twin.xsum.natAbs * 1000 ∧ s.fld F.TWIN_XCHK_COUNT ≤ s.twin.xfails + 1) ∧
    (∃ (s : State), s.pwr.mainUp = true ∧ s.twin.xok = true ∧ s.fld F.TWIN_LIVE_ROLE = 1 ∧ s.fld F.LOOP_STATUS_SELECTED = 21 ∧ s.fld F.LOOP_STATUS_STATE = 2 ∧ 100 ≤ s.twin.xn ∧ ¬(s.fld F.TWIN_XCHK_LIMIT_PS * 2 ^ 48 * s.twin.xn < s.twin.xsum.natAbs * 1000) ∧ -(2 ^ 31) ≤ Int.fdiv (Int.fdiv (2 * s.twin.xsum + (s.twin.xn : Int)) (2 * (s.twin.xn : Int)) + 2 ^ 31) (2 ^ 32) ∧ Int.fdiv (Int.fdiv (2 * s.twin.xsum + (s.twin.xn : Int)) (2 * (s.twin.xn : Int)) + 2 ^ 31) (2 ^ 32) < 2 ^ 31) ∧
    (∃ (s : State), s.pwr.mainUp = true ∧ s.twin.xn < 100) ∧
    (∃ (s : State) (ag : Agent) (d : Word), s.pwr.mainUp = true ∧ pf1Denied ag Reg.TWIN_CMD s = false ∧ d.getLsbD 0 = false ∧ d.getLsbD 1 = false ∧ bit (s.indw 1 0x140) 31 = true ∧ bits (s.indw 1 0x140) 16 2 = tbFormat s ∧ tbFormat s ≠ 0 ∧ s.fld F.LOOP_STATUS_STATE = 0) ∧
    (∃ (s : State) (ag : Agent) (d : Word), s.pwr.mainUp = true ∧ pf1Denied ag Reg.TWIN_CMD s = false ∧ d.getLsbD 0 = false ∧ d.getLsbD 1 = false ∧ (bit (s.indw 1 0x140) 31 = false ∨ bits (s.indw 1 0x140) 16 2 ≠ tbFormat s ∨ tbFormat s = 0 ∨ s.fld F.LOOP_STATUS_STATE ≠ 0)) :=
  ⟨⟨(twUp.setFlag (F.TWIN_LNK_STATUS_SILENT 0) false), 0, by decide +kernel⟩,
    ⟨((twUp.setFlag (F.TWIN_LNK_STATUS_SILENT 0) true)), 0, by decide +kernel⟩,
    ⟨(((twUp.setFlag (F.TWIN_LNK_STATUS_OK 0) true).updLink 0 fun l => { l with hello := true, sync := true })), by decide +kernel⟩,
    ⟨up, by decide +kernel⟩,
    ⟨((carUp twUp).setFld F.TWIN_LIVE_ROLE 2), by decide +kernel⟩,
    ⟨(xcUp 400000000000000000 |>.setFld F.TWIN_XCHK_COUNT 1), by decide +kernel⟩,
    ⟨(xcUp 40000), by decide +kernel⟩,
    ⟨up, by decide +kernel⟩,
    ⟨(imUp 0x80010000), .pf0, 0, by decide +kernel⟩,
    ⟨(imUp 0x80020000), .pf0, 0, by decide +kernel⟩⟩

theorem witness_RolesAndTwoPhaseSteps :
    (∃ (s : State) (period : Nat) (low : Nat), s.pwr.oclkUp = true ∧ s.twin.last = 1 ∧ 14 ≤ period ∧ period ≤ 18 ∧ 11 ≤ low ∧ low ≤ 13) ∧
    (∃ (s : State) (period : Nat) (low : Nat), s.pwr.oclkUp = true ∧ s.pwr.mainUp = true ∧ s.twin.last = 3 ∧ 14 ≤ period ∧ period ≤ 18 ∧ 3 ≤ low ∧ low ≤ 5 ∧ (s.fld F.TWIN_LIVE_ROLE = 1 ∨ s.fld F.TWIN_LIVE_ROLE = 3) ∧ s.flag F.TWIN_LIVE_YIELDING = false) ∧
    (∃ (s : State) (period : Nat) (low : Nat), s.pwr.oclkUp = true ∧ s.twin.last = 2 ∧ 14 ≤ period ∧ period ≤ 18 ∧ 7 ≤ low ∧ low ≤ 9 ∧ s.fld F.TWIN_LIVE_ROLE = 2 ∧ (s.link 0).leads < 3) ∧
    (∃ (s : State), s.pwr.resetN = true ∧ s.pwr.oclkUp = true) ∧
    (∃ (s : State) (period : Nat) (low : Nat), s.pwr.oclkUp = true ∧ s.pwr.mainUp = true ∧ s.twin.last = 2 ∧ 14 ≤ period ∧ period ≤ 18 ∧ 7 ≤ low ∧ low ≤ 9 ∧ (s.fld F.TWIN_LIVE_ROLE = 1 ∨ s.fld F.TWIN_LIVE_ROLE = 3) ∧ s.flag F.TWIN_LIVE_YIELDING = false ∧ s.flag F.TWIN_PAIR_CFG_PREF = true) ∧
    (∃ (s : State) (period : Nat) (low : Nat), s.pwr.oclkUp = true ∧ s.twin.last = 0 ∧ 14 ≤ period ∧ period ≤ 18 ∧ 7 ≤ low ∧ low ≤ 9) ∧
    (∃ (s : State) (period : Nat), s.pwr.oclkUp = true ∧ (period < 14 ∨ 18 < period)) ∧
    (∃ (s : State), s.pwr.oclkUp = true ∧ s.pwr.mainUp = true ∧ s.flag F.TWIN_LIVE_HB_OK = true ∧ s.flag F.TWIN_LIVE_LINK_OK = false ∧ s.flag (F.TWIN_LNK_STATUS_SILENT 0) = true ∧ (s.fld F.TWIN_LIVE_ROLE = 1 ∨ s.fld F.TWIN_LIVE_ROLE = 3)) ∧
    (∃ (s : State), s.pwr.oclkUp = true ∧ s.flag F.TWIN_LIVE_HB_OK = true ∧ s.flag F.TWIN_LIVE_LINK_OK = false ∧ s.flag (F.TWIN_LNK_STATUS_SILENT 0) = true ∧ s.fld F.TWIN_LIVE_ROLE = 2 ∧ (s.link 0).leads < 3) ∧
    (∃ (s : State), (s.pwr.oclkUp = false ∨ s.flag F.TWIN_LIVE_HB_OK = false)) ∧
    (∃ (s : State), s.pwr.mainUp = true ∧ s.flag F.TWIN_CTRL_EN = true ∧ s.fld F.TWIN_LIVE_ROLE = 0 ∧ s.flag F.TWIN_LIVE_HB_OK = true ∧ s.fld F.TWIN_LIVE_PEER_PATTERN = 1 ∧ s.flag (F.TWIN_LNK_STATUS_SILENT 0) = false) ∧
    (∃ (s : State), s.pwr.mainUp = true ∧ (s.flag F.TWIN_CTRL_EN = false ∨ s.fld F.TWIN_LIVE_ROLE ≠ 0)) ∧
    (∃ (s : State), s.pwr.mainUp = true ∧ s.fld F.TWIN_LIVE_ROLE = 4 ∧ s.flag F.TWIN_LIVE_HB_OK = false ∧ s.flag (F.TWIN_LNK_STATUS_SILENT 0) = true) ∧
    (∃ (s : State) (ag : Agent) (d : Word), s.pwr.mainUp = true ∧ pf1Denied ag Reg.TWIN_CMD s = false ∧ d.getLsbD 1 = false ∧ d.getLsbD 2 = false) ∧
    (∃ (s : State) (ag : Agent), s.pwr.mainUp = true ∧ pf1Denied ag Reg.TWIN_ROLE_GATE s = false) ∧
    (∃ (s : State) (ag : Agent) (d : Word), s.pwr.mainUp = true ∧ pf1Denied ag Reg.TWIN_CMD s = false ∧ d.getLsbD 0 = false ∧ d.getLsbD 2 = false) :=
  ⟨⟨((twUp.setFld F.TWIN_LIVE_ROLE 2).updTwin fun t => { t with last := 1 }), 16, 12, by decide +kernel⟩,
    ⟨((twUp.setFld F.TWIN_LIVE_ROLE 1).updTwin fun t => { t with last := 3 }), 14, 3, by decide +kernel⟩,
    ⟨((twUp.setFld F.TWIN_LIVE_ROLE 2).updTwin fun t => { t with last := 2 }), 16, 8, by decide +kernel⟩,
    ⟨((up.updTwin fun t => { t with shown := 1 })), by decide +kernel⟩,
    ⟨(((twUp.setFld F.TWIN_LIVE_ROLE 3).setFlag F.TWIN_PAIR_CFG_PREF true).updTwin fun t => { t with last := 2 }), 18, 9, by decide +kernel⟩,
    ⟨twUp, 16, 8, by decide +kernel⟩,
    ⟨(twUp.setFlag F.TWIN_LIVE_LINK_OK true), 13, by decide +kernel⟩,
    ⟨(silUp 1), by decide +kernel⟩,
    ⟨(silUp 2), by decide +kernel⟩,
    ⟨up, by decide +kernel⟩,
    ⟨(((silUp 0).setFld F.TWIN_LIVE_PEER_PATTERN 1).setFlag (F.TWIN_LNK_STATUS_SILENT 0) false), by decide +kernel⟩,
    ⟨up, by decide +kernel⟩,
    ⟨((silUp 4).setFlag F.TWIN_LIVE_HB_OK false), by decide +kernel⟩,
    ⟨(silUp 2), .pf0, 0, by decide +kernel⟩,
    ⟨(silUp 1), .pf0, by decide +kernel⟩,
    ⟨up, .pf0, 0, by decide +kernel⟩⟩

theorem witness_RolesAndTwoPhaseSteps_2 :
    (∃ (s : State) (ag : Agent) (d : Word), s.pwr.mainUp = true ∧ pf1Denied ag Reg.TWIN_XSTEP_CMD s = false ∧ d.getLsbD 1 = false ∧ s.flag F.TWIN_STACK_CFG_EN = false ∧ ((s.fld F.TWIN_LIVE_ROLE = 1 ∨ s.fld F.TWIN_LIVE_ROLE = 3 ∨ s.fld F.TWIN_LIVE_ROLE = 4) ∨ s.tb.pend ≠ none)) ∧
    (∃ (s : State) (ag : Agent) (d : Word) (arm : Nat), s.pwr.mainUp = true ∧ pf1Denied ag Reg.TWIN_XSTEP_CMD s = false ∧ d.getLsbD 1 = false ∧ s.flag F.TWIN_STACK_CFG_EN = false ∧ s.tb.pend = none ∧ (s.fld F.TWIN_LIVE_ROLE = 0 ∨ s.fld F.TWIN_LIVE_ROLE = 2 ∨ s.fld F.TWIN_LIVE_ROLE = 5) ∧ tbFormat s ≠ 0 ∧ recordValue (tbFormat s) (s.reg Reg.TWIN_XSTEP_ARM0) (s.reg Reg.TWIN_XSTEP_ARM1) (s.reg Reg.TWIN_XSTEP_ARM2) (s.reg Reg.TWIN_XSTEP_ARM3) = arm ∧ s.tb.value + 1024 * incCur s + s.fld F.TWIN_XSTEP_GUARD_US * 1000 * 2 ^ 48 ≤ arm ∧ (arm : Int) + (signed 64 (s.reg64 Reg.TWIN_XSTEP_AMT_LO Reg.TWIN_XSTEP_AMT_HI) * 2 ^ 48 + (((s.reg Reg.TWIN_XSTEP_AMT_SUB).toNat * 2 ^ 16 : Nat) : Int)) < 0) ∧
    (∃ (s : State) (ag : Agent) (d : Word) (arm : Nat), s.pwr.mainUp = true ∧ pf1Denied ag Reg.TWIN_XSTEP_CMD s = false ∧ d.getLsbD 1 = false ∧ s.flag F.TWIN_STACK_CFG_EN = false ∧ (s.fld F.TWIN_LIVE_ROLE = 0 ∨ (s.fld F.TWIN_LIVE_ROLE = 5 ∧ s.fld F.TWIN_LIVE_PEER_ROLE ≠ 1)) ∧ s.tb.pend = none ∧ tbFormat s ≠ 0 ∧ recordValue (tbFormat s) (s.reg Reg.TWIN_XSTEP_ARM0) (s.reg Reg.TWIN_XSTEP_ARM1) (s.reg Reg.TWIN_XSTEP_ARM2) (s.reg Reg.TWIN_XSTEP_ARM3) = arm ∧ s.tb.value + 1024 * incCur s + s.fld F.TWIN_XSTEP_GUARD_US * 1000 * 2 ^ 48 ≤ arm ∧ 0 ≤ (arm : Int) + (signed 64 (s.reg64 Reg.TWIN_XSTEP_AMT_LO Reg.TWIN_XSTEP_AMT_HI) * 2 ^ 48 + (((s.reg Reg.TWIN_XSTEP_AMT_SUB).toNat * 2 ^ 16 : Nat) : Int))) ∧
    (∃ (s : State) (ag : Agent) (d : Word) (arm : Nat), s.pwr.mainUp = true ∧ pf1Denied ag Reg.TWIN_XSTEP_CMD s = false ∧ d.getLsbD 1 = false ∧ s.flag F.TWIN_STACK_CFG_EN = false ∧ (s.fld F.TWIN_LIVE_ROLE = 2 ∨ s.fld F.TWIN_LIVE_ROLE = 5) ∧ s.fld F.TWIN_LIVE_PEER_ROLE = 1 ∧ linkUsable s 0 = true ∧ s.tb.pend = none ∧ tbFormat s ≠ 0 ∧ recordValue (tbFormat s) (s.reg Reg.TWIN_XSTEP_ARM0) (s.reg Reg.TWIN_XSTEP_ARM1) (s.reg Reg.TWIN_XSTEP_ARM2) (s.reg Reg.TWIN_XSTEP_ARM3) = arm ∧ s.tb.value + 1024 * incCur s + s.fld F.TWIN_XSTEP_GUARD_US * 1000 * 2 ^ 48 ≤ arm ∧ 0 ≤ (arm : Int) + (signed 64 (s.reg64 Reg.TWIN_XSTEP_AMT_LO Reg.TWIN_XSTEP_AMT_HI) * 2 ^ 48 + (((s.reg Reg.TWIN_XSTEP_AMT_SUB).toNat * 2 ^ 16 : Nat) : Int))) ∧
    (∃ (s : State) (k : Fin 3) (bs : List Byte), s.pwr.mainUp = true ∧ linkHears s k bs = true ∧ plahusOk bs false = true ∧ byteAt bs 0 = 4 ∧ byteAt bs 1 = 1 ∧ k.val ≠ 2 ∧ s.tb.pend ≠ none) ∧
    (∃ (s : State) (k : Fin 3) (bs : List Byte) (arm : Nat), s.pwr.mainUp = true ∧ linkHears s k bs = true ∧ plahusOk bs false = true ∧ byteAt bs 0 = 4 ∧ byteAt bs 1 = 1 ∧ k.val ≠ 2 ∧ s.tb.pend = none ∧ linkUsable s 2 = false ∧ s.fld F.TWIN_LIVE_ROLE ≠ 2 ∧ s.fld F.TWIN_LIVE_ROLE ≠ 5 ∧ 0 ≤ (arm : Int) + sumOf (slice bs 9 12) ∧ byteAt bs 4 = s.fld F.TBASE_LIVE_EPOCH ∧ (s.link k).fmt = tbFormat s ∧ tbFormat s ≠ 0 ∧ recordValue (tbFormat s) (nth 0 (recOf (slice bs 21 16)) 0) (nth 0 (recOf (slice bs 21 16)) 1) (nth 0 (recOf (slice bs 21 16)) 2) (nth 0 (recOf (slice bs 21 16)) 3) = arm ∧ s.tb.value + 1024 * incCur s + s.fld F.TWIN_XSTEP_GUARD_US * 1000 * 2 ^ 48 ≤ arm) ∧
    (∃ (s : State) (k : Fin 3) (bs : List Byte) (x : XstepSt), s.pwr.mainUp = true ∧ linkHears s k bs = true ∧ plahusOk bs false = true ∧ byteAt bs 0 = 4 ∧ byteAt bs 1 = 2 ∧ s.twin.xstep = some x ∧ x.from' = none ∧ x.xid = half bs 5 ∧ x.waits = [k.val] ∧ s.tb.value + s.fld F.TWIN_XSTEP_GUARD_US * 1000 * 2 ^ 48 ≤ x.arm) ∧
    (∃ (s : State) (k : Fin 3) (bs : List Byte) (x : XstepSt), s.pwr.mainUp = true ∧ linkHears s k bs = true ∧ plahusOk bs false = true ∧ byteAt bs 0 = 4 ∧ byteAt bs 1 = 2 ∧ s.twin.xstep = some x ∧ x.from' = none ∧ x.committed = false ∧ x.xid = half bs 5 ∧ x.waits = [k.val] ∧ x.arm < s.tb.value + s.fld F.TWIN_XSTEP_GUARD_US * 1000 * 2 ^ 48) ∧
    (∃ (s : State) (k : Fin 3) (bs : List Byte) (x : XstepSt), s.pwr.mainUp = true ∧ linkHears s k bs = true ∧ plahusOk bs false = true ∧ byteAt bs 0 = 4 ∧ byteAt bs 1 = 3 ∧ s.twin.xstep = some x ∧ x.from' = none ∧ x.committed = false ∧ x.xid = half bs 5 ∧ k.val ∈ x.targets) ∧
    (∃ (s : State) (k : Fin 3) (bs : List Byte) (x : XstepSt), s.pwr.mainUp = true ∧ linkHears s k bs = true ∧ plahusOk bs false = true ∧ byteAt bs 0 = 4 ∧ byteAt bs 1 = 4 ∧ s.twin.xstep = some x ∧ x.xid = half bs 5 ∧ x.from' = some k.val) ∧
    (∃ (s : State) (k : Fin 3) (bs : List Byte) (x : XstepSt), s.pwr.mainUp = true ∧ linkHears s k bs = true ∧ plahusOk bs false = true ∧ byteAt bs 0 = 4 ∧ byteAt bs 1 = 5 ∧ s.twin.xstep = some x ∧ x.xid = half bs 5 ∧ x.from' = some k.val) ∧
    (∃ (s : State) (k : Fin 3) (bs : List Byte) (c : Instr) (op : Nat), s.pwr.mainUp = true ∧ linkHears s k bs = true ∧ plahusOk bs false = true ∧ byteAt bs 0 = 4 ∧ byteAt bs 1 = op ∧ s.twin.xstep = none ∧ (c, op) ∈ [(Instr.ready k bs false, 2), (.refuse k bs false, 3), (.xstepCommit k bs false, 4), (.xstepAbort k bs false, 5)]) ∧
    (∃ (s : State) (x : XstepSt) (k : Nat), s.pwr.mainUp = true ∧ s.twin.xstep = some x ∧ x.committed = false ∧ x.from' = some k) ∧
    (∃ (s : State), s.pwr.mainUp = true ∧ s.twin.xstep.all (·.committed) = true) ∧
    (∃ (s : State) (ag : Agent) (d : Word) (x : XstepSt), s.pwr.mainUp = true ∧ pf1Denied ag Reg.TWIN_XSTEP_CMD s = false ∧ d.getLsbD 0 = false ∧ s.twin.xstep = some x ∧ x.from' = none ∧ x.committed = false) ∧
    (∃ (s : State) (ag : Agent) (d : Word), s.pwr.mainUp = true ∧ pf1Denied ag Reg.TWIN_XSTEP_CMD s = false ∧ d.getLsbD 0 = false ∧ s.twin.xstep.all (fun x => x.committed || x.from'.isSome) = true) :=
  ⟨⟨(silUp 3), .pf0, 0, by decide +kernel⟩,
    ⟨((goUp.setReg Reg.TWIN_XSTEP_AMT_HI 0x80000000)), .pf0, 0, (recordValue 1 0 0 9000000 0), by decide +kernel⟩,
    ⟨(goUp), .pf0, 0, (recordValue 1 0 0 9000000 0), by decide +kernel⟩,
    ⟨(((carUp (laneThree goUp)).setReg Reg.TWIN_CTRL 1 |>.setReg Reg.TWIN_PAIR_CFG 0x300).setFld F.TWIN_LIVE_ROLE 2 |>.setFld F.TWIN_LIVE_PEER_ROLE 1), .pf0, 0, (recordValue 1 0 0 9000000 0), by decide +kernel⟩,
    ⟨((carUp twUp).updTb fun t => { t with pend := some tbP }), 0, (stepFr 1), by decide +kernel⟩,
    ⟨((carUp twUp).updLink 0 fun l => { l with fmt := 1 }), 0, (stepFr 1), (recordValue 1 0 0 9000000 0), by decide +kernel⟩,
    ⟨(xsUp (xsOf none)), 0, (stepFr 2), (xsOf none), by decide +kernel⟩,
    ⟨(xsUp { xsOf none with arm := 0 }), 0, (stepFr 2), { xsOf none with arm := 0 }, by decide +kernel⟩,
    ⟨(xsUp (xsOf none)), 0, (stepFr 3), (xsOf none), by decide +kernel⟩,
    ⟨(xsUp (xsOf (some 0))), 0, (stepFr 4), (xsOf (some 0)), by decide +kernel⟩,
    ⟨(xsUp (xsOf (some 0))), 0, (stepFr 5), (xsOf (some 0)), by decide +kernel⟩,
    ⟨twUp, 0, (stepFr 5), (.xstepAbort 0 (stepFr 5) false), 5, by decide +kernel⟩,
    ⟨(xsUp (xsOf (some 0))), (xsOf (some 0)), 0, by decide +kernel⟩,
    ⟨up, by decide +kernel⟩,
    ⟨(xsUp (xsOf none)), .pf0, 0, (xsOf none), by decide +kernel⟩,
    ⟨up, .pf0, 0, by decide +kernel⟩⟩

theorem witness_UnitAddressesAndBoot :
    (∃ (s : State), s.pwr.ovenUp = true ∧ s.pwr.oclkUp = true ∧ s.flag F.CHIP_UNIT_VALID = true ∧ s.fld F.CHIP_UNIT_UNIT < 63) ∧
    (∃ (s : State), s.pwr.ovenUp = true ∧ s.pwr.oclkUp = true ∧ (s.flag F.CHIP_UNIT_VALID = false ∨ s.fld F.CHIP_UNIT_UNIT = 63)) ∧
    (∃ (s : State) (start : Nat) (ps : List (Nat × Nat)) (v : Nat), s.pwr.ovenUp = true ∧ s.pwr.oclkUp = true ∧ s.boot.enumHead = false ∧ 3000 ≤ start ∧ start ≤ 5000 ∧ ps.length = 6 ∧ (∀ p ∈ ps, 1600 ≤ p.2 ∧ p.2 ≤ 2400 ∧ ((1100 ≤ p.1 ∧ p.1 ≤ 1900) ∨ (200 ≤ p.1 ∧ p.1 ≤ 800))) ∧ v = ps.foldl (fun v p => 2 * v + if 1100 ≤ p.1 then 1 else 0) 0 ∧ s.flag F.CHIP_UNIT_HEARD_VALID = true ∧ s.fld F.CHIP_UNIT_HEARD = v ∧ s.flag F.CHIP_UNIT_VALID = false) ∧
    (∃ (s : State) (start : Nat) (ps : List (Nat × Nat)) (v : Nat), s.pwr.ovenUp = true ∧ s.pwr.oclkUp = true ∧ s.boot.enumHead = false ∧ 3000 ≤ start ∧ start ≤ 5000 ∧ ps.length = 6 ∧ (∀ p ∈ ps, 1600 ≤ p.2 ∧ p.2 ≤ 2400 ∧ ((1100 ≤ p.1 ∧ p.1 ≤ 1900) ∨ (200 ≤ p.1 ∧ p.1 ≤ 800))) ∧ v = ps.foldl (fun v p => 2 * v + if 1100 ≤ p.1 then 1 else 0) 0 ∧ s.flag F.CHIP_UNIT_VALID = false ∧ (s.flag F.CHIP_UNIT_HEARD_VALID = false ∨ s.fld F.CHIP_UNIT_HEARD ≠ v)) ∧
    (∃ (s : State) (start : Nat) (ps : List (Nat × Nat)) (v : Nat), s.pwr.ovenUp = true ∧ s.pwr.oclkUp = true ∧ s.boot.enumHead = false ∧ 3000 ≤ start ∧ start ≤ 5000 ∧ ps.length = 6 ∧ (∀ p ∈ ps, 1600 ≤ p.2 ∧ p.2 ≤ 2400 ∧ ((1100 ≤ p.1 ∧ p.1 ≤ 1900) ∨ (200 ≤ p.1 ∧ p.1 ≤ 800))) ∧ v = ps.foldl (fun v p => 2 * v + if 1100 ≤ p.1 then 1 else 0) 0 ∧ s.flag F.CHIP_UNIT_VALID = true) ∧
    (∃ (s : State) (start : Nat) (ps : List (Nat × Nat)), (s.boot.enumHead = true ∨ start < 3000 ∨ 5000 < start ∨ ps.length ≠ 6)) ∧
    (∃ (s : State), s.pwr.ovenUp = true ∧ s.pwr.oclkUp = true) ∧
    (∃ (s : State) (ag : Agent), s.pwr.mainUp = true ∧ pf1Denied ag Reg.CHIP_ENUM_CMD s = false) ∧
    (∃ (s : State), s.pwr.mainUp = true ∧ s.boot.strapBoot = false ∧ s.fld F.HRTH_BOOT_STATUS_STATE ≠ 3 ∧ s.fld F.HRTH_BOOT_STATUS_STATE ≠ 4) ∧
    (∃ (s : State) (ag : Agent), s.pwr.mainUp = true ∧ pf1Denied ag Reg.HRTH_LOAD_DATA s = false ∧ (ag ≠ .pf0 ∨ s.boot.strapBoot = true ∨ s.fld F.HRTH_BOOT_STATUS_STATE = 3 ∨ s.fld F.HRTH_BOOT_STATUS_STATE = 4)) ∧
    (∃ (s : State) (d : Word), s.pwr.mainUp = true ∧ d.getLsbD 1 = false ∧ s.boot.strapBoot = false ∧ (s.fld F.HRTH_BOOT_STATUS_STATE = 1 ∨ s.fld F.HRTH_BOOT_STATUS_STATE = 2 ∨ s.fld F.HRTH_BOOT_STATUS_STATE = 5)) ∧
    (∃ (s : State) (ag : Agent) (d : Word), s.pwr.mainUp = true ∧ pf1Denied ag Reg.HRTH_BOOT_CMD s = false ∧ d.getLsbD 1 = false ∧ (ag ≠ .pf0 ∨ s.boot.strapBoot = true ∨ s.fld F.HRTH_BOOT_STATUS_STATE = 3 ∨ s.fld F.HRTH_BOOT_STATUS_STATE = 4)) ∧
    (∃ (s : State), s.pwr.mainUp = true ∧ s.fld F.HRTH_BOOT_STATUS_STATE = 3) ∧
    (∃ (s : State), s.pwr.mainUp = true ∧ s.fld F.HRTH_BOOT_STATUS_STATE ≠ 3) ∧
    (∃ (s : State) (ag : Agent) (d : Word), s.pwr.mainUp = true ∧ pf1Denied ag Reg.HRTH_BOOT_CMD s = false ∧ (ag = .pf0 ∨ ∃ c, ag = .hearth c) ∧ d.getLsbD 0 = false) ∧
    (∃ (s : State) (d : Word), s.pwr.mainUp = true ∧ s.boot.valid &&& ~~~(s.boot.revoked ||| d.setWidth 4) ≠ 0) :=
  ⟨⟨(unitUp 0x105), by decide +kernel⟩,
    ⟨(unitUp 0x13F), by decide +kernel⟩,
    ⟨(unitUp 0x420005), 4000, [(500, 2000), (500, 1600), (500, 2000), (500, 2000), (1100, 2400), (800, 2000)], 2, by decide +kernel⟩,
    ⟨(unitUp 5), 4000, [(500, 2000), (500, 1600), (500, 2000), (500, 2000), (1100, 2400), (800, 2000)], 2, by decide +kernel⟩,
    ⟨(unitUp 0x430105), 4000, [(500, 2000), (500, 1600), (500, 2000), (500, 2000), (1100, 2400), (800, 2000)], 2, by decide +kernel⟩,
    ⟨up, 2999, [], by decide +kernel⟩,
    ⟨up, by decide +kernel⟩,
    ⟨(unitUp 0x105), .pf0, by decide +kernel⟩,
    ⟨(up.setReg Reg.HRTH_LOAD_ADDR 0x3FFFFC), by decide +kernel⟩,
    ⟨up, (.hearth 1), by decide +kernel⟩,
    ⟨(bootSt 5), 0, by decide +kernel⟩,
    ⟨(bootSt 3), .pf0, 0, by decide +kernel⟩,
    ⟨(bootSt 3), by decide +kernel⟩,
    ⟨(bootSt 1), by decide +kernel⟩,
    ⟨((bootSt 4).setSramByte 5 6), .pf0, 0, by decide +kernel⟩,
    ⟨up, 0x10E, by decide +kernel⟩⟩

theorem witness_UnitAddressesAndBoot_2 :
    (∃ (s : State) (d : Word), s.pwr.mainUp = true ∧ s.boot.valid &&& ~~~(s.boot.revoked ||| d.setWidth 4) = 0) ∧
    (∃ (s : State) (ag : Agent), s.pwr.mainUp = true ∧ pf1Denied ag Reg.HRTH_FUSE_CMD s = false ∧ (∀ c, ag ≠ .hearth c)) ∧
    (∃ (s : State) (u : Byte), s.pwr.mainUp = true ∧ s.flag F.CHIP_UNIT_VALID = true ∧ u.toNat = s.fld F.CHIP_UNIT_UNIT ∧ s.boot.strapBoot = true ∧ s.fld F.HRTH_BOOT_STATUS_STATE ≠ 3 ∧ s.fld F.HRTH_BOOT_STATUS_STATE ≠ 4) ∧
    (∃ (s : State) (u : Byte), s.pwr.mainUp = true ∧ s.flag F.CHIP_UNIT_VALID = true ∧ u.toNat = s.fld F.CHIP_UNIT_UNIT) ∧
    (∃ (s : State) (u : Byte), s.pwr.mainUp = true ∧ u ≠ 0xFF ∧ (s.flag F.CHIP_UNIT_VALID = false ∨ u.toNat ≠ s.fld F.CHIP_UNIT_UNIT)) :=
  ⟨⟨up, 1, by decide +kernel⟩,
    ⟨up, .pf0, by decide +kernel, by decide +kernel, by decide +kernel⟩,
    ⟨({ (bootSt 2).setReg Reg.CHIP_UNIT 0x103 with boot := { (bootSt 2).boot with strapBoot := true } }), 3, by decide +kernel⟩,
    ⟨(unitUp 0x103), 3, by decide +kernel⟩,
    ⟨(unitUp 0x103), 4, by decide +kernel⟩⟩

theorem witness_ErrorsWatchdogsAndTestAccess :
    (∃ (s : State) (who : EccBy), s.pwr.mainUp = true ∧ s.flag F.FLT_CTRL_ECC_EN = true ∧ (who = .scrubber → s.flag F.FLT_CTRL_SCRUB_EN = true)) ∧
    (∃ (s : State) (n : Nat) (who : EccBy), s.pwr.mainUp = true ∧ s.flag F.FLT_CTRL_ECC_EN = true ∧ (who = .scrubber → s.flag F.FLT_CTRL_SCRUB_EN = true) ∧ n < 24 ∧ who ∈ [EccBy.scrubber, .access]) ∧
    (∃ (s : State) (n : Nat) (id : Nat) (f : Frame) (who : EccBy), s.pwr.mainUp = true ∧ s.flag F.FLT_CTRL_ECC_EN = true ∧ (who = .scrubber → s.flag F.FLT_CTRL_SCRUB_EN = true) ∧ n < 24 ∧ who = .lookup id ∧ s.frame? id = some f ∧ f.phase = .looked ∧ f.pipe = n ∧ f.ended = true ∧ f.tag = none ∧ f.slices = []) ∧
    (∃ (s : State) (id : Nat) (f : Frame) (who : EccBy), s.pwr.mainUp = true ∧ s.flag F.FLT_CTRL_ECC_EN = true ∧ (who = .scrubber → s.flag F.FLT_CTRL_SCRUB_EN = true) ∧ s.frame? id = some f ∧ f.phase = .queued ∧ f.ended = true ∧ f.tag = none ∧ f.trap = none) ∧
    (∃ (s : State) (addr : Nat) (who : EccBy), s.pwr.mainUp = true ∧ s.flag F.FLT_CTRL_ECC_EN = true ∧ (who = .scrubber → s.flag F.FLT_CTRL_SCRUB_EN = true) ∧ addr < 0x80000 ∧ s.rbit Reg.MET_CELL_OUT (addr / 0x4000) = false) ∧
    (∃ (s : State) (n : Nat) (who : EccBy), s.pwr.mainUp = true ∧ s.flag F.FLT_CTRL_ECC_EN = true ∧ (who = .scrubber → s.flag F.FLT_CTRL_SCRUB_EN = true) ∧ sliceFree s n = true ∧ s.fld F.BUF_FREE_FREE ≠ 0) ∧
    (∃ (s : State) (m : Nat) (e : EccErr) (who : EccBy), s.pwr.mainUp = true ∧ (s.flag F.FLT_CTRL_ECC_EN = false ∨ (s.flag F.FLT_CTRL_SCRUB_EN = false ∧ who = .scrubber) ∨ 0x58 ≤ m ∨ e = .none)) ∧
    (∃ (s : State) (addr : BitVec 26) (i : Fin 32), s.pwr.mainUp = true ∧ (regDef? (addr.toNat / 4)).isSome = true ∧ ((regOf (addr.toNat / 4)).rwl ||| (regOf (addr.toNat / 4)).wo).getLsbD i = false ∧ (regOf (addr.toNat / 4)).rw.getLsbD i = true) ∧
    (∃ (s : State) (addr : BitVec 26) (i : Fin 32), s.pwr.mainUp = true ∧ (regDef? (addr.toNat / 4)).isSome = true ∧ ((regOf (addr.toNat / 4)).rwl ||| (regOf (addr.toNat / 4)).wo).getLsbD i = true) ∧
    (∃ (s : State) (addr : BitVec 26), s.pwr.mainUp = true ∧ (regDef? (addr.toNat / 4)).isSome = false) ∧
    (∃ (s : State), s.pwr.mainUp = true) ∧
    (∃ (s : State) (o : Int) (p : TbPend), s.pwr.mainUp = true ∧ s.tb.pend = some p ∧ p.op = some (.step o)) ∧
    (∃ (s : State) (c : Fin 4) (d : Word), s.pwr.mainUp = true ∧ s.fld F.HRTH_BOOT_STATUS_STATE = 4 ∧ d.getLsbD c = true) ∧
    (∃ (s : State) (ag : Agent), s.pwr.mainUp = true ∧ pf1Denied ag Reg.FLT_WDOG_KICK s = false ∧ ((∀ c, ag ≠ .hearth c) ∨ s.fld F.HRTH_BOOT_STATUS_STATE ≠ 4)) ∧
    (∃ (s : State) (c : Fin 4), s.pwr.mainUp = true ∧ s.fld F.HRTH_BOOT_STATUS_STATE = 4 ∧ s.rbit Reg.FLT_WDOG (8 + c) = true ∧ s.boot.cores.getLsbD c = true) ∧
    (∃ (s : State) (c : Fin 4), s.pwr.mainUp = true ∧ (s.fld F.HRTH_BOOT_STATUS_STATE ≠ 4 ∨ s.rbit Reg.FLT_WDOG (8 + c) = false ∨ s.boot.cores.getLsbD c = false)) :=
  ⟨⟨eccUp, .scrubber, by decide +kernel⟩,
    ⟨eccUp, 23, .access, by decide +kernel⟩,
    ⟨((eccUp.setFrame 7 { frQ with slices := [], phase := .looked, pipe := 5, ended := true }).updTlm fun t => { t with slots := smapSet noSlots t.slots 5 [true] }), 5, 7, { frQ with slices := [], phase := .looked, pipe := 5, ended := true }, (.lookup 7), by decide +kernel⟩,
    ⟨((eccUp).setFrame 7 { frQ with slices := [3, 9] }), 7, { frQ with slices := [3, 9] }, .scrubber, by decide +kernel⟩,
    ⟨eccUp, 0x14001, .access, by decide +kernel⟩,
    ⟨eccUp, 9, .scrubber, by decide +kernel⟩,
    ⟨up, 0x58, .double, .access, by decide +kernel⟩,
    ⟨up, (BitVec.ofNat 26 (4 * Reg.POL_CFG 9)), 3, by decide +kernel⟩,
    ⟨up, (BitVec.ofNat 26 (4 * Reg.TBASE_CTRL)), 0, by decide +kernel⟩,
    ⟨up, 0x3FFFFFF, by decide +kernel⟩,
    ⟨up, by decide +kernel⟩,
    ⟨(tbUp.updTb fun t => { t with pend := some { tbP with op := some (.step 5), arm := some 6 } }), 5, { tbP with op := some (.step 5), arm := some 6 }, by decide +kernel⟩,
    ⟨(bootSt 4), 2, 4, by decide +kernel⟩,
    ⟨up, .pf0, by decide +kernel⟩,
    ⟨wdUp, 3, by decide +kernel⟩,
    ⟨up, 0, by decide +kernel⟩⟩

theorem witness_ErrorsWatchdogsAndTestAccess_2 :
    (∃ (s : State), s.pwr.railsGood = true) ∧
    (∃ (s : State) (c : TapClock) (p : TapPhase) (a : TapPhase) (b : TapPhase), s.pwr.railsGood = true ∧ (p, a, b) ∈ [(TapPhase.reset, .idle, .reset), (.idle, .idle, .selectDr), (.selectDr, .captureDr, .selectIr), (.captureDr, .shiftDr, .exit1Dr), (.shiftDr, .shiftDr, .exit1Dr), (.exit1Dr, .pauseDr, .updateDr), (.pauseDr, .pauseDr, .exit2Dr), (.exit2Dr, .shiftDr, .updateDr), (.updateDr, .idle, .selectDr), (.selectIr, .captureIr, .reset), (.captureIr, .shiftIr, .exit1Ir), (.shiftIr, .shiftIr, .exit1Ir), (.exit1Ir, .pauseIr, .updateIr), (.pauseIr, .pauseIr, .exit2Ir), (.exit2Ir, .shiftIr, .updateIr), (.updateIr, .idle, .selectDr)] ∧ s.tap.phase = p ∧ (s.tap.ir = 0x20 → c.tms = true → b ≠ .updateDr)) ∧
    (∃ (s : State), s.pwr.railsGood = true ∧ s.tap.phase = .captureDr) ∧
    (∃ (s : State) (n : Nat), s.pwr.railsGood = true ∧ s.tap.phase = .shiftDr ∧ n = (if s.tap.ir ∈ [0x00#8, 0x01, 0x05, 0x06] then 1670 else if s.tap.ir = 0x02 then 32 else if s.tap.ir = 0x20 then 36 else if s.tap.ir = 0x21 then 390 else 1)) ∧
    (∃ (s : State), s.pwr.railsGood = true ∧ s.tap.phase = .captureIr) ∧
    (∃ (s : State), s.pwr.railsGood = true ∧ s.tap.phase = .shiftIr) ∧
    (∃ (s : State) (c : TapClock), s.pwr.railsGood = true ∧ (s.tap.phase = .exit1Ir ∨ s.tap.phase = .exit2Ir) ∧ c.tms = true ∧ (s.flag F.TST_PORT_CTRL_LOCK = false ∨ (s.tap.irShift ≠ 0x20 ∧ s.tap.irShift ≠ 0x21)) ∧ (s.tap.irShift ∈ [0x00#8, 0x03, 0x04, 0x05, 0x06] → s.tap.ir ∈ [0x00#8, 0x03, 0x04, 0x05, 0x06])) ∧
    (∃ (s : State) (c : TapClock), s.pwr.railsGood = true ∧ (s.tap.phase = .exit1Ir ∨ s.tap.phase = .exit2Ir) ∧ c.tms = true ∧ s.tap.irShift ∈ [0x00#8, 0x03, 0x04, 0x05, 0x06] ∧ s.tap.ir ∉ [0x00#8, 0x03, 0x04, 0x05, 0x06]) ∧
    (∃ (s : State) (l : LaneId), s.pwr.mainUp = true ∧ s.tap.ir ∈ [0x00#8, 0x03, 0x04, 0x05, 0x06] ∧ hearsSelf s l = false) ∧
    (∃ (s : State) (c : TapClock), s.pwr.railsGood = true ∧ (s.tap.phase = .exit1Ir ∨ s.tap.phase = .exit2Ir) ∧ c.tms = true ∧ s.flag F.TST_PORT_CTRL_LOCK = true ∧ (s.tap.irShift = 0x20 ∨ s.tap.irShift = 0x21)) ∧
    (∃ (s : State) (c : TapClock), s.pwr.railsGood = true ∧ (s.tap.phase = .exit1Dr ∨ s.tap.phase = .exit2Dr) ∧ c.tms = true ∧ s.tap.ir ∈ [0x00#8, 0x01, 0x05, 0x06]) ∧
    (∃ (s : State) (c : TapClock), s.pwr.railsGood = true ∧ (s.tap.phase = .exit1Dr ∨ s.tap.phase = .exit2Dr) ∧ c.tms = true ∧ s.tap.ir = 0x20) ∧
    (∃ (s : State) (c : TapClock), s.pwr.railsGood = true ∧ (s.tap.phase = .exit1Dr ∨ s.tap.phase = .exit2Dr) ∧ c.tms = true ∧ s.tap.ir = 0x21) ∧
    (∃ (s : State) (c : TapClock), s.pwr.railsGood = true ∧ (s.tap.phase = .reset ∨ s.tap.phase = .selectIr) ∧ c.tms = true) ∧
    (∃ (s : State) (c : TapClock), s.pwr.railsGood = true ∧ s.tap.phase = .idle ∧ c.tms = false) ∧
    (∃ (s : State) (n : Fin 768), s.tap.boundary.getLsbD (1536 + n / 128) = true) :=
  ⟨⟨up, by decide +kernel⟩,
    ⟨(tapUp .shiftDr 0), ⟨true, true, 5, [(1, 100), (3, 99), (1611, -150)]⟩, .shiftDr, .shiftDr, .exit1Dr, by decide +kernel⟩,
    ⟨(tapUp .captureDr 0), by decide +kernel⟩,
    ⟨(tapUp .shiftDr 0 |>.updTap fun t => { t with drShift := 7 }), 1670, by decide +kernel⟩,
    ⟨(tapUp .captureIr 2 |>.updTap fun t => { t with irShift := 9 }), by decide +kernel⟩,
    ⟨(tapUp .shiftIr 2 |>.updTap fun t => { t with irShift := 9 }), by decide +kernel⟩,
    ⟨(tapUp .exit1Ir 2 |>.updTap fun t => { t with irShift := 9 }), ⟨true, false, 0, []⟩, by decide +kernel⟩,
    ⟨(((tapUp .exit1Ir 2 |>.updTap fun t => { t with irShift := 4 }).setReg (Reg.DLN_LANE_STATUS 5) 0xFF).setReg (Reg.ALN_LANE_STATUS 3) 0xFF), ⟨true, false, 0, []⟩, by decide +kernel⟩,
    ⟨(tapUp .idle 4), (.data 3), by decide +kernel⟩,
    ⟨((tapUp .exit2Ir 2 |>.updTap fun t => { t with irShift := 0x21 }).setFlag F.TST_PORT_CTRL_LOCK true), ⟨true, false, 0, []⟩, by decide +kernel⟩,
    ⟨(tapUp .exit1Dr 5 |>.updTap fun t => { t with drShift := 9 }), ⟨true, false, 0, []⟩, by decide +kernel⟩,
    ⟨(tapUp .exit1Dr 0x20 |>.updTap fun t => { t with drShift := 9 }), ⟨true, false, 0, []⟩, by decide +kernel⟩,
    ⟨(tapUp .exit2Dr 0x21 |>.updTap fun t => { t with drShift := 9 }), ⟨true, false, 0, []⟩, by decide +kernel⟩,
    ⟨(tapUp .selectIr 0x20), ⟨true, false, 0, []⟩, by decide +kernel⟩,
    ⟨(tapUp .idle 6), ⟨false, false, 0, []⟩, by decide +kernel⟩,
    ⟨(tapUp .idle 6 |>.updTap fun t => { t with boundary := BitVec.ofNat 1670 (2 ^ 1537 + 2 ^ 256), falls := 1 }), 128, by decide +kernel⟩⟩

theorem witness_ErrorsWatchdogsAndTestAccess_3 :
    (∃ (s : State), s.tap.ir ∈ [0x00#8, 0x03, 0x04, 0x05, 0x06]) ∧
    (∃ (s : State) (dr : BitVec 36), s.pwr.mainUp = true ∧ s.tap.ir = 0x20#8 ∧ dr.getLsbD 35 = true ∧ dr.getLsbD 34 = true ∧ dr.toNat / 2 ^ 32 % 4 ≠ 3 ∧ fifoLevel (s.win 3) < 16) ∧
    (∃ (s : State) (dr : BitVec 36), s.pwr.mainUp = true ∧ s.tap.ir = 0x20#8 ∧ dr.getLsbD 35 = true ∧ dr.getLsbD 34 = true ∧ dr.toNat / 2 ^ 32 % 4 = 3) ∧
    (∃ (s : State) (dr : BitVec 36), s.pwr.mainUp = true ∧ s.tap.ir = 0x20#8 ∧ dr.getLsbD 35 = true ∧ dr.getLsbD 34 = false ∧ dr.toNat / 2 ^ 32 % 4 = 0 ∧ (s.win 3).fifo = [] ∧ (s.win 3).taking = false ∧ s.tap.reading = 0) ∧
    (∃ (s : State) (dr : BitVec 36) (l : Launch) (v : Word), s.pwr.mainUp = true ∧ s.tap.ir = 0x20#8 ∧ dr.getLsbD 35 = true ∧ dr.getLsbD 34 = false ∧ dr.toNat / 2 ^ 32 % 4 = 1 ∧ (s.win 3).fifo = [] ∧ (s.win 3).taking = false ∧ s.tap.reading = 0 ∧ (s.win 3).launch = some l ∧ l.word = some v ∧ l.domain ≠ 0 ∧ s.fld (F.IND_CTRL_STRIDE 3) = 0) ∧
    (∃ (s : State) (dr : BitVec 36), s.pwr.mainUp = true ∧ s.tap.ir = 0x20#8 ∧ dr.getLsbD 35 = true ∧ dr.getLsbD 34 = false ∧ (s.win 3).taking = true) ∧
    (∃ (s : State) (dr : BitVec 36), s.pwr.mainUp = true ∧ (s.tap.ir ≠ 0x20#8 ∨ dr.getLsbD 35 = false)) ∧
    (∃ (s : State) (dr : BitVec 390), s.pwr.railsGood = true ∧ s.tap.ir = 0x21#8 ∧ dr.getLsbD 386 = true ∧ s.tap.blowing = none ∧ ((dr.toNat / 2 ^ 384 % 4) = 0 ∨ s.boot.valid.getLsbD (dr.toNat / 2 ^ 384 % 4) = true ∨ s.fld F.HRTH_BOOT_STATUS_STATE = 3 ∨ s.fld F.HRTH_BOOT_STATUS_STATE = 4 ∨ s.flag F.TST_PORT_CTRL_LOCK = true)) ∧
    (∃ (s : State) (dr : BitVec 390), s.pwr.railsGood = true ∧ s.tap.ir = 0x21#8 ∧ dr.getLsbD 386 = true ∧ s.tap.blowing = none ∧ ¬((dr.toNat / 2 ^ 384 % 4) = 0 ∨ s.boot.valid.getLsbD (dr.toNat / 2 ^ 384 % 4) = true ∨ s.fld F.HRTH_BOOT_STATUS_STATE = 3 ∨ s.fld F.HRTH_BOOT_STATUS_STATE = 4 ∨ s.flag F.TST_PORT_CTRL_LOCK = true)) ∧
    (∃ (s : State) (k : Fin 4) (h : BitVec 384), s.pwr.railsGood = true ∧ s.tap.blowing = some (k, h)) ∧
    (∃ (s : State), s.tap.blowing = none) :=
  ⟨⟨(tapUp .idle 4), by decide +kernel⟩,
    ⟨tstUp, (BitVec.ofNat 36 (0xC00000010 + 2 ^ 32)), by decide +kernel⟩,
    ⟨tstUp, 0xF00000010, by decide +kernel⟩,
    ⟨tstUp, 0x800000000, by decide +kernel⟩,
    ⟨(tstUp.updWin 3 fun w => { w with launch := some ⟨1, 5, some 77, (0, 0), none⟩ }), 0x900000000, ⟨1, 5, some 77, (0, 0), none⟩, 77, by decide +kernel⟩,
    ⟨(tstUp.updWin 3 fun w => { w with taking := true }), 0x800000000, by decide +kernel⟩,
    ⟨up, 0x800000000, by decide +kernel⟩,
    ⟨fpUp, (BitVec.ofNat 390 (2 ^ 386)), by decide +kernel⟩,
    ⟨fpUp, (BitVec.ofNat 390 (2 ^ 386 + 2 ^ 384 + 5)), by decide +kernel⟩,
    ⟨(fpUp.updTap fun t => { t with blowing := some (2, 77) }), 2, 77, by decide +kernel⟩,
    ⟨up, by decide +kernel⟩⟩

theorem witness_CommandsAreTakenInOrder :
    (∃ (s : State) (c : Instr) (rest : List Instr), s.pending = c :: rest) ∧
    (∃ (s : State), s.pending = [] ∧ s.pwr.oclkUp = false) ∧
    (∃ (s : State), s.pending = [] ∧ s.pwr.oclkUp = true) ∧
    (∃ (s : State), s.pending = [] ∧ s.pwr.oclkUp = true ∧ s.tb.pend = none ∧ s.tb.snaps = [] ∧ s.pwr.ovenUp = true ∧ tbFormat s ≠ 0 ∧ s.tb.starting = false ∧ s.tb.value + incCur s < tbWrap (tbFormat s)) ∧
    (∃ (s : State), s.pending = [] ∧ s.pwr.oclkUp = true ∧ s.tb.pend = none ∧ s.tb.snaps = [] ∧ s.pwr.ovenUp = true ∧ tbFormat s ≠ 0 ∧ s.tb.starting = false ∧ s.tb.value < tbWrap (tbFormat s) ∧ tbWrap (tbFormat s) ≤ s.tb.value + incCur s) ∧
    (∃ (s : State), s.pending = [] ∧ s.pwr.oclkUp = true ∧ s.tb.pend = none ∧ s.tb.snaps = [] ∧ s.pwr.ovenUp = true ∧ tbFormat s ≠ 0 ∧ s.tb.starting = true) ∧
    (∃ (s : State), s.pending = [] ∧ s.pwr.oclkUp = true ∧ s.tb.pend = none ∧ s.tb.snaps = [] ∧ (s.pwr.ovenUp = false ∨ tbFormat s = 0) ∧ s.tb.starting = false) ∧
    (∃ (s : State), s.pending = [] ∧ s.pwr.oclkUp = true ∧ s.tb.pend = none ∧ s.tb.snaps = []) :=
  ⟨⟨{ up with pending := [.hbLost] }, .hbLost, [], by decide +kernel⟩,
    ⟨dn, by decide +kernel⟩,
    ⟨up, by decide +kernel⟩,
    ⟨tbUp, by decide +kernel⟩,
    ⟨((tbUp.setReg Reg.TBASE_INC_CUR_HI 5).updTb fun t => { t with value := tbWrap 1 - 1 }), by decide +kernel⟩,
    ⟨(tbUp.updTb fun t => { t with value := 0, starting := true }), by decide +kernel⟩,
    ⟨up, by decide +kernel⟩,
    ⟨({ up with clk := { up.clk with tclk := 1299 } }), by decide +kernel⟩⟩

/-! ### Witnesses of the statements about a step -/

/-- A step that changes the storage; one that brings power up; and the states they lead to. -/
def stepOf (s : State) : State := match step s with
  | .next t => t
  | _ => s
def levelWait : State := { tbUp with pending := [.pwrWarnLevelWrite .pf0 9000] }
def railsWait : State := { State.reset with pwr := { stageOn := true, vin := 48000 }, pending := [.railsGood] }

theorem witness_StorageStaysCanonical :
    ∃ s t : State, s.Canon ∧ step s = .next t ∧ s.regs ≠ [] ∧ t.regs ≠ s.regs :=
  ⟨levelWait, stepOf levelWait, by decide +kernel, rfl, by decide +kernel, by decide +kernel⟩

theorem witness_PowerStaysOrdered :
    ∃ s t : State, s.PowerOk ∧ step s = .next t ∧ s.pwr.railsGood = false ∧ t.pwr.railsGood = true :=
  ⟨railsWait, stepOf railsWait, by decide, rfl, by decide, by decide⟩

theorem witness_ShapesAreKept :
    ∃ s t : State, s.FramesFit ∧ s.met.pairFails.length = 16 ∧ step s = .next t ∧ s.net.frames ≠ [] :=
  ⟨{ queued with pending := [.railsGood] }, stepOf { queued with pending := [.railsGood] }, framesFit_of _ (by decide +kernel), by decide +kernel,
    rfl, by decide +kernel⟩

/-! ### Ill-formed commands -/

theorem test_wf_rails : (Instr.pwrMeasureUpdate 0 0 0 0 [1]).wf = false := by decide
theorem test_wf_sensors : (Instr.tempUpdate [25]).wf = false := by decide
theorem test_wf_periods : (Instr.extRefUp [7812500]).wf = false := by decide
theorem test_wf_counts : (Instr.mpllLock [1562, 1563] 99).wf = false := by decide
theorem test_wf_devs : (Instr.commitCheckEnd [] [0]).wf = false := by decide
theorem test_wf_slice : (Instr.sliceWrite 7 11 (List.replicate 257 0)).wf = false := by decide +kernel
theorem test_wf_record : (Instr.tagRecordCopy 1024).wf = false := by decide
theorem test_wf_low : (Instr.interlockPeriod 100 101).wf = false := by decide
theorem test_wf_ok : (Instr.interlockPeriod 100 100).wf = true ∧ (Instr.tagRecordCopy 1023).wf = true := by decide

/-! ### Values that the spec works out -/

/-- 00_scope.md, "Reading the identity". -/
theorem test_identity :
    (stepOf { up with pending := [.rcRead .pf0 0x40 0xF] }).hst.completions = [(.pf0, 0x7680B000)] ∧ up.reg Reg.CHIP_MFR = 0x75A3 := by
  decide +kernel

/-- R62: page 0x205 reads PORT, instance 5. -/
theorem test_page_header : regReset (0x205 * 0x400) = 0x00000509 := by decide +kernel

/-- 02, "Two alias addresses". -/
theorem test_alias_lock_viol : aliasOff 0x600 (3 * 32 + 0) = 0x01C00180 := by decide
theorem test_alias_holdup_low : aliasOff 0x010 (4 * 32 + 5) = 0x01020214 := by decide

/-- 04, R197: RXFIX of a 1000BASE-X timing port is 609.25 ns. -/
theorem test_rxfix : fixWord 258570 850000 0 = 0x26140000 := by decide +kernel

/-- 04, "A receive timestamp on a 1000BASE-X timing port", and what a Sync with its SUBNS adds to correctionField. -/
theorem test_record : recordWords 1 ((37 * 1000000000 + 500000679) * 2 ^ 20 + 508048) 0 = [0x7C090, 0x1DCD67A7, 0x25, 0] := by decide +kernel
theorem test_correction : to16 508048 = 0x7C09 := by decide +kernel

/-- 04, "One changed byte". -/
theorem test_crc_delta : crcRaw [0x80, 0, 0] = 0xE1351B80 := by decide +kernel

/-- 05, "From code to picoseconds". -/
theorem test_phase :
    phaseOf { up with ind := [(indKey 4 (bankAddr 15 0 3021), 773490), (indKey 4 (bankAddr 15 0 3022), 773771)] } 15 3021 = (274946, 0) := by
  decide +kernel

/-- 11, "Thresholds in pool 0": the frame is dropped below a threshold of 48,456. -/
theorem test_threshold :
    admitTest (((admQ 8 5 false).setFld (F.BUF_POOL_SIZE_SLICES 0) 987648 |>.setFld (F.BUF_POOL_USED_SLICES 0) 600000).setReg (Reg.BUF_Q_OCC 53) 48470) 3 5 9 =
      { kind := 3, threshold := 48456 } := by decide +kernel

/-- R565: IDCODE, current after a reset of the TAP, is captured with its VERSION, PART and MANUFACTURER. -/
theorem test_idcode :
    ([false, true, false, false].foldl (fun s tms => tapClock ⟨tms, false, 0, []⟩ s) (tapReset up)).tap.drShift = 0xB76805A3#1670 ∧
      idcode.toNat / 2 ^ 12 % 2 ^ 16 = 0x7680 := by decide +kernel

end Sys2Proof.Machine.Tests
end

section
/-!
SUPPORT. The frame of every command: whatever the state and the operands, it answers a next state, changes the parts of its row alone, and
keeps storage canonical. Each command's lemma puts the frames of the operations in its meaning (Laws/Frame*.lean) together along its
branches, in the order of the model's files; commands that are the same write or read share one. `exec_staysWithin` says it of every command,
and O57 and O58 follow from it.
-/
namespace Sys2Proof.Machine
set_option Elab.async false

/-- The outcome is a next state, reached from `s` by changes of the parts `cs` alone, with storage kept canonical. -/
def StaysWithin (cs : List Part) (s : State) (o : Host.Outcome State Fault Refusal) : Prop := ∃ t, o = .next t ∧ Moves cs s t

section
variable {cs : List Part} {s0 s t u : State} {f : State → State}

/-- A part that a list of parts holds, as the list computes it. -/
theorem listed {p : Part} (h : cs.contains p = true) : p ∈ cs := List.contains_iff_mem.1 h

theorem ite_moves {p : Prop} [Decidable p] (h : Moves cs s t) (g : Moves cs s u) : Moves cs s (if p then t else u) := by
  split
  · exact h
  · exact g

theorem next_staysWithin (h : Moves cs s t) : StaysWithin cs s (.next t) := ⟨t, rfl, h⟩

theorem whenMain_staysWithin (h : Moves cs s (f s)) : StaysWithin cs s (whenMain s f) := next_staysWithin (ite_moves h (.refl _ _))

theorem whenOven_staysWithin (h : Moves cs s (f s)) : StaysWithin cs s (whenOven s f) := next_staysWithin (ite_moves h (.refl _ _))

theorem whenRails_staysWithin (h : Moves cs s (f s)) : StaysWithin cs s (whenRails s f) := next_staysWithin (ite_moves h (.refl _ _))

/-- A register write stays within parts that hold the registers and the host's side where its action does. -/
theorem regWrite_moves_of {ag : Agent} {a : Nat} {rd : RegDef} {act : Word → Word → State → State} {m d : Word} (hm : Moves cs s0 s)
    (hact : ∀ u v t, Moves cs s0 t → Moves cs s0 (act u v t)) (mr : cs.contains .regs = true := by rfl)
    (mh : cs.contains .hst = true := by rfl) : Moves cs s0 (regWrite ag a rd act m d s) :=
  regWrite_moves hm _ _ _ _ _ _ hact (listed mr) (listed mh)

/-- A command that writes a register with the main domain up stays within such parts where the register's action does. -/
theorem regWrite_staysWithin {ag : Agent} {a : Nat} {rd : RegDef} {act : Word → Word → State → State} {m d : Word}
    (hact : ∀ u v t, Moves cs s t → Moves cs s (act u v t)) (mr : cs.contains .regs = true := by rfl)
    (mh : cs.contains .hst = true := by rfl) : StaysWithin cs s (whenMain s (regWrite ag a rd act m d)) :=
  whenMain_staysWithin (regWrite_moves_of (.refl _ _) hact mr mh)

end

/-! ### The time base (Machine/Tbase.lean) -/

/-- The commands that write TBASE_CMD. -/
theorem tbaseCmdWrite_staysWithin (ag : Agent) (d : Word) (s : State) :
    StaysWithin [.regs, .hst, .tb] s (tbaseCmdWrite ag d s) :=
  regWrite_staysWithin fun _ _ _ h => by apply actTbaseCmd_moves h .. <;> exact listed rfl

theorem execTxtsRecordWrite_staysWithin (id : Nat) (s : State) : StaysWithin (partsOf (.txtsRecordWrite id)) s (execTxtsRecordWrite id s) :=
  whenMain_staysWithin (by
    split
    · apply txtsPush_moves (State.updTb_moves (.refl _ _) ..) .. <;> exact listed rfl
    · exact .refl _ _)

theorem execTxtsPop_staysWithin (ag : Agent) (d : Word) (s : State) : StaysWithin (partsOf (.txtsPop ag d)) s (execTxtsPop ag d s) :=
  regWrite_staysWithin fun _ _ _ h => actTxtsPop_moves h _ _ (listed rfl)

/-- The commands that write TBASE_OUT_CTRL of an output. -/
theorem outCtrlWrite_staysWithin (ag : Agent) (k : Fin 5) (d : Word) (s : State) :
    StaysWithin [.regs, .hst, .tb] s (whenMain s (regWrite ag (Reg.TBASE_OUT_CTRL k) Rd.TBASE_OUT_CTRL (actOutCtrl k) allBits d)) :=
  regWrite_staysWithin fun _ _ _ h => by apply actOutCtrl_moves h .. <;> exact listed rfl

theorem execRealign_staysWithin (ag : Agent) (k : Fin 5) (d : Word) (s : State) :
    StaysWithin (partsOf (.realign ag k d)) s (execRealign ag k d s) :=
  regWrite_staysWithin fun _ _ _ h => by apply actOutCmd_moves h .. <;> exact listed rfl

theorem execOutParamWrite_staysWithin (ag : Agent) (k : Fin 5) (which : Fin 3) (d : Word) (s : State) :
    StaysWithin (partsOf (.outParamWrite ag k which d)) s (execOutParamWrite ag k which d s) :=
  whenMain_staysWithin (by
    split
    · exact regWrite_moves_of (.refl _ _) fun _ _ _ h => actOutPeriod_moves h _ _ _ (listed rfl)
    · exact regWrite_moves_of (.refl _ _) fun _ _ _ h => h
    · exact regWrite_moves_of (.refl _ _) fun _ _ _ h => actOutWidth_moves h _ _ _ (listed rfl))

/-! ### Lanes (Machine/Lanes.lean) -/

/-- The commands that write DLN_LANE_CTRL of a data lane. -/
theorem dlnLaneCtrlWrite_staysWithin (ag : Agent) (n : Fin 768) (d : Word) (s : State) :
    StaysWithin [.regs, .ind, .hst, .lanes] s (whenMain s (regWrite ag (Reg.DLN_LANE_CTRL n) Rd.DLN_LANE_CTRL (actDlnLaneCtrl n) allBits d)) :=
  regWrite_staysWithin fun _ _ _ h => by apply actDlnLaneCtrl_moves h .. <;> exact listed rfl

theorem execTxReady_staysWithin (lane : Fin 768) (s : State) : StaysWithin (partsOf (.txReady lane)) s (execTxReady lane s) :=
  whenMain_staysWithin (ite_moves (State.setFlag_moves (.refl _ _) _ _ (listed rfl)) (.refl _ _))

theorem execSignal_staysWithin (lane : LaneId) (s : State) : StaysWithin (partsOf (.signal lane)) s (execSignal lane s) :=
  whenMain_staysWithin (laneSignal_moves (.refl _ _) _ (listed rfl))

theorem execCdrLock_staysWithin (lane : LaneId) (s : State) : StaysWithin (partsOf (.cdrLock lane)) s (execCdrLock lane s) :=
  whenMain_staysWithin (by apply laneCdrLock_moves (.refl _ _) .. <;> exact listed rfl)

theorem execCoarseDone_staysWithin (lane : Fin 768) (vals : Adapt) (s : State) :
    StaysWithin (partsOf (.coarseDone lane vals)) s (execCoarseDone lane vals s) :=
  whenMain_staysWithin (by
    have hv : Moves (partsOf (.coarseDone lane vals)) s (adaptAll (adaptTo lane) vals s) :=
      adaptAll_moves (.refl _ _) _ _ fun _ _ _ h => by apply adaptTo_moves h .. <;> exact listed rfl
    apply ite_moves (showAdapt_moves (State.updLane_moves hv ..) ..) (.refl _ _) <;> exact listed rfl)

theorem execAligned_staysWithin (lane : Fin 768) (slip : BitVec 6) (s : State) :
    StaysWithin (partsOf (.aligned lane slip)) s (execAligned lane slip s) :=
  whenMain_staysWithin (by apply ite_moves (State.setFlag_moves (State.setFld_moves (.refl _ _) ..) ..) (.refl _ _) <;> exact listed rfl)

theorem execLos_staysWithin (lane : LaneId) (cdrLost : Bool) (s : State) :
    StaysWithin (partsOf (.los lane cdrLost)) s (execLos lane cdrLost s) :=
  whenMain_staysWithin (by apply laneLos_moves (.refl _ _) .. <;> exact listed rfl)

theorem execAlignLost_staysWithin (lane : Fin 768) (s : State) : StaysWithin (partsOf (.alignLost lane)) s (execAlignLost lane s) :=
  whenMain_staysWithin (ite_moves (loseAlign_moves (.refl _ _) _ (listed rfl)) (.refl _ _))

theorem execDensityWindowEnd_staysWithin (lane : Fin 768) (transitions : Nat) (vals : Adapt) (s : State) :
    StaysWithin (partsOf (.densityWindowEnd lane transitions vals)) s (execDensityWindowEnd lane transitions vals s) :=
  whenMain_staysWithin (by apply ite_moves (densityWindow_moves (.refl _ _) ..) (.refl _ _) <;> exact listed rfl)

theorem execDlnPresetStage_staysWithin (win : Fin 4) (lane : Fin 768) (d : Word) (s : State) :
    StaysWithin (partsOf (.dlnPresetStage win lane d)) s (execDlnPresetStage win lane d s) :=
  whenMain_staysWithin (targetWrite_moves (.refl _ _) _ _ _ (fun _ h => by apply dlnWordWrite_moves h .. <;> exact listed rfl) (listed rfl))

theorem execDlnPresetApply_staysWithin (win : Fin 4) (lane : Fin 768) (d : Word) (s : State) :
    StaysWithin (partsOf (.dlnPresetApply win lane d)) s (execDlnPresetApply win lane d s) :=
  whenMain_staysWithin (targetWrite_moves (.refl _ _) _ _ _ (fun _ h => by apply dlnWordWrite_moves h .. <;> exact listed rfl) (listed rfl))

theorem execAlnPresetWrite_staysWithin (win : Fin 4) (lane : Fin 32) (d : Word) (s : State) :
    StaysWithin (partsOf (.alnPresetWrite win lane d)) s (execAlnPresetWrite win lane d s) :=
  whenMain_staysWithin (targetWrite_moves (.refl _ _) _ _ _ (fun _ h => by apply alnWordWrite_moves h .. <;> exact listed rfl) (listed rfl))

theorem execBoundWrite_staysWithin (win : Fin 4) (lane : LaneId) (word : Fin 3) (d : Word) (s : State) :
    StaysWithin (partsOf (.boundWrite win lane word d)) s (execBoundWrite win lane word d s) :=
  whenMain_staysWithin (by
    cases lane with
    | data n => exact targetWrite_moves (.refl _ _) _ _ _ (fun _ h => by apply dlnWordWrite_moves h .. <;> exact listed rfl) (listed rfl)
    | aux m => exact targetWrite_moves (.refl _ _) _ _ _ (fun _ h => by apply alnWordWrite_moves h .. <;> exact listed rfl) (listed rfl))

theorem execTxpllLock_staysWithin (pll : Fin 7) (s : State) : StaysWithin (partsOf (.txpllLock pll)) s (execTxpllLock pll s) :=
  whenMain_staysWithin (by apply txpllLock_moves (.refl _ _) .. <;> exact listed rfl)

theorem execTxpllUnlock_staysWithin (pll : Fin 7) (s : State) : StaysWithin (partsOf (.txpllUnlock pll)) s (execTxpllUnlock pll s) :=
  whenMain_staysWithin (by
    have hp := lanePll_moves (.refl (partsOf (.txpllUnlock pll)) s) (s.lanePll &&& ~~~(BitVec.ofNat 7 (2 ^ pll.val))) (listed rfl)
    exact ite_moves (ite_moves (forUpto_moves _ _ (fun _ _ h => State.raise_moves h _ (listed rfl)) _ hp) hp) (.refl _ _))

theorem execPrbsCheckerLock_staysWithin (lane : LaneId) (hist : BitVec 128) (words : List (BitVec 128)) (s : State) :
    StaysWithin (partsOf (.prbsCheckerLock lane hist words)) s (execPrbsCheckerLock lane hist words s) :=
  whenMain_staysWithin (by apply takeWords_moves (ite_moves (.refl _ _) (State.updLane_moves (.refl _ _) ..)) .. <;> exact listed rfl)

theorem execPrbsLost_staysWithin (lane : LaneId) (words : List (BitVec 128)) (s : State) :
    StaysWithin (partsOf (.prbsLost lane words)) s (execPrbsLost lane words s) :=
  whenMain_staysWithin (by apply takeWords_moves (.refl _ _) .. <;> exact listed rfl)

theorem execInjOne_staysWithin (ag : Agent) (lane : LaneId) (d : Word) (s : State) :
    StaysWithin (partsOf (.injOne ag lane d)) s (execInjOne ag lane d s) :=
  whenMain_staysWithin (by
    cases lane with
    | data n => exact regWrite_moves_of (.refl _ _) fun _ _ _ h => actErrInj_moves h _ _ _ (listed rfl)
    | aux m => exact regWrite_moves_of (.refl _ _) fun _ _ _ h => actErrInj_moves h _ _ _ (listed rfl))

theorem execErrInjPeriodExpire_staysWithin (lane : LaneId) (s : State) :
    StaysWithin (partsOf (.errInjPeriodExpire lane)) s (execErrInjPeriodExpire lane s) :=
  whenMain_staysWithin (ite_moves (State.updLane_moves (.refl _ _) _ _ (listed rfl)) (.refl _ _))

theorem execFeSlip_staysWithin (lane : LaneId) (fill : Nat) (s : State) :
    StaysWithin (partsOf (.feSlip lane fill)) s (execFeSlip lane fill s) :=
  whenMain_staysWithin (by
    have hl : ∀ f, Moves (partsOf (.feSlip lane fill)) s (s.updLane (laneIdx lane) f) := fun f => State.updLane_moves (.refl _ _) _ f (listed rfl)
    refine ite_moves ?_ (ite_moves (hl _) (.refl _ _))
    cases lane with
    | data n => exact State.bump32_moves (hl _) _ _ _ (listed rfl)
    | aux m => exact hl _)

theorem execSyncLost_staysWithin (lane : Fin 32) (s : State) : StaysWithin (partsOf (.syncLost lane)) s (execSyncLost lane s) :=
  whenMain_staysWithin (syncLost_moves (.refl _ _) _ (listed rfl))

theorem execAlnCodeGroupReceive_staysWithin (lane : Fin 32) (slot : Fin 2) (atBoundary : Bool) (group : BitVec 10) (s : State) :
    StaysWithin (partsOf (.alnCodeGroupReceive lane slot atBoundary group)) s (execAlnCodeGroupReceive lane slot atBoundary group s) :=
  whenMain_staysWithin (by
    apply ite_moves (.refl _ _) (takeGroup_moves (ite_moves (keepGroup_moves (.refl _ _) ..) (.refl _ _)) ..) <;> exact listed rfl)

/-! ### Scheduler and shapers (Machine/Sched.lean) -/

theorem execShaperRefresh_staysWithin (s : State) : StaysWithin (partsOf .shaperRefresh) s (execShaperRefresh s) :=
  whenMain_staysWithin (foldl_moves _ _ (fun _ _ h => by apply shaperRefresh_moves h .. <;> exact listed rfl) _ (.refl _ _))

theorem execForgive_staysWithin (ag : Agent) (d : Word) (s : State) : StaysWithin (partsOf (.forgive ag d)) s (execForgive ag d s) :=
  regWrite_staysWithin fun _ _ _ h => actForgive_moves h _ _ (listed rfl)

/-! ### Streams and policers (Machine/Sid.lean) -/

theorem execSidResetCheck_staysWithin (s : State) : StaysWithin (partsOf .sidResetCheck) s (execSidResetCheck s) :=
  whenMain_staysWithin (forUpto_moves _ _ (fun _ _ h => by apply sidCheck_moves h .. <;> exact listed rfl) _ (.refl _ _))

theorem execPolicerRefresh_staysWithin (s : State) : StaysWithin (partsOf .policerRefresh) s (execPolicerRefresh s) :=
  whenMain_staysWithin (State.updNet_moves (.refl _ _) _ (listed rfl))

theorem execPolCfgWrite_staysWithin (ag : Agent) (ix : Fin 4096) (d : Word) (s : State) :
    StaysWithin (partsOf (.polCfgWrite ag ix d)) s (execPolCfgWrite ag ix d s) :=
  regWrite_staysWithin fun _ _ _ h => by apply actPolCfg_moves h .. <;> exact listed rfl

/-! ### Metrology (Machine/Met.lean) -/

theorem execMeanValidTimeout_staysWithin (slot : Fin 1024) (s : State) :
    StaysWithin (partsOf (.meanValidTimeout slot)) s (execMeanValidTimeout slot s) :=
  whenMain_staysWithin (ite_moves (.refl _ _) (State.setFlag_moves (.refl _ _) _ _ (listed rfl)))

theorem execMetCommit_staysWithin (ag : Agent) (d : Word) (s : State) : StaysWithin (partsOf (.metCommit ag d)) s (execMetCommit ag d s) :=
  regWrite_staysWithin fun _ _ _ h => by apply actBankCtrl_moves h .. <;> exact listed rfl

theorem execSchedCommit_staysWithin (s : State) : StaysWithin (partsOf .schedCommit) s (execSchedCommit s) :=
  whenMain_staysWithin (by apply roundBoundary_moves (.refl _ _) .. <;> exact listed rfl)

theorem execMetSrcCfgWrite_staysWithin (ag : Agent) (slot : Fin 1024) (d : Word) (s : State) :
    StaysWithin (partsOf (.metSrcCfgWrite ag slot d)) s (execMetSrcCfgWrite ag slot d s) :=
  regWrite_staysWithin fun _ _ _ h => by apply actSrcCfg_moves h .. <;> exact listed rfl

theorem execTableLoad_staysWithin (ag : Agent) (d : Word) (s : State) : StaysWithin (partsOf (.tableLoad ag d)) s (execTableLoad ag d s) :=
  regWrite_staysWithin fun _ _ _ h => by apply actTableLoad_moves h .. <;> exact listed rfl

theorem execTableExchange_staysWithin (cell : Fin 32) (s : State) :
    StaysWithin (partsOf (.tableExchange cell)) s (execTableExchange cell s) :=
  whenMain_staysWithin (by apply ite_moves (tableExchange_moves (.refl _ _) ..) (.refl _ _) <;> exact listed rfl)

theorem execCellReturn_staysWithin (ag : Agent) (d : Word) (s : State) :
    StaysWithin (partsOf (.cellReturn ag d)) s (execCellReturn ag d s) :=
  regWrite_staysWithin fun _ _ _ h => by apply actCellReturn_moves h .. <;> exact listed rfl

theorem execMetExtEnWrite_staysWithin (ag : Agent) (d : Word) (s : State) :
    StaysWithin (partsOf (.metExtEnWrite ag d)) s (execMetExtEnWrite ag d s) :=
  regWrite_staysWithin fun _ _ _ h => actExtCtrl_moves h _ _ (listed rfl)

theorem execExtRefUp_staysWithin (periods : List Nat) (s : State) : StaysWithin (partsOf (.extRefUp periods)) s (execExtRefUp periods s) :=
  whenMain_staysWithin (by apply ite_moves (.refl _ _) (State.raise_moves (State.setFlag_moves (.refl _ _) ..) ..) <;> exact listed rfl)

theorem execExtRefDown_staysWithin (since : Nat) (edge : Bool) (s : State) :
    StaysWithin (partsOf (.extRefDown since edge)) s (execExtRefDown since edge s) :=
  whenMain_staysWithin (by
    have h : Moves (partsOf (.extRefDown since edge)) s ((s.setFlag F.MET_EXT_STATUS_REF_PRESENT false).raise F.MET_INT_STATUS_EXT_REF_DOWN) := by
      apply State.raise_moves (State.setFlag_moves (.refl _ _) ..) .. <;> exact listed rfl
    apply ite_moves (ite_moves (State.raise_moves (extPush_moves h ..) ..) h) (.refl _ _) <;> exact listed rfl)

/-- The commands that write MET_EXT_CMD. -/
theorem extCmdWrite_staysWithin (ag : Agent) (d : Word) (s : State) :
    StaysWithin [.regs, .hst, .met] s (whenMain s (regWrite ag Reg.MET_EXT_CMD Rd.MET_EXT_CMD actExtCmd allBits d)) :=
  regWrite_staysWithin fun _ _ _ h => by apply actExtCmd_moves h .. <;> exact listed rfl

theorem execExtGateEdge_staysWithin (rising : Bool) (s : State) :
    StaysWithin (partsOf (.extGateEdge rising)) s (execExtGateEdge rising s) :=
  whenMain_staysWithin (ite_moves (State.updExt_moves (.refl _ _) _ (listed rfl)) (.refl _ _))

theorem execExtStartEdge_staysWithin (onDie rising : Bool) (code : BitVec 12) (coarse : Nat) (s : State) :
    StaysWithin (partsOf (.extStartEdge onDie rising code coarse)) s (execExtStartEdge onDie rising code coarse s) :=
  whenMain_staysWithin (by apply extStart_moves (.refl _ _) .. <;> exact listed rfl)

theorem execExtStopEdge_staysWithin (src : StopSrc) (rising : Bool) (code : BitVec 12) (coarse : Nat) (s : State) :
    StaysWithin (partsOf (.extStopEdge src rising code coarse)) s (execExtStopEdge src rising code coarse s) :=
  whenMain_staysWithin (by apply extStop_moves (.refl _ _) .. <;> exact listed rfl)

theorem execExtDone_staysWithin (s : State) : StaysWithin (partsOf .extDone) s (execExtDone s) :=
  whenMain_staysWithin (by apply ite_moves (extPush_moves (.refl _ _) ..) (.refl _ _) <;> exact listed rfl)

theorem execExtTimeout_staysWithin (s : State) : StaysWithin (partsOf .extTimeout) s (execExtTimeout s) :=
  whenMain_staysWithin (by apply ite_moves (State.raise_moves (extPush_moves (.refl _ _) ..) ..) (.refl _ _) <;> exact listed rfl)

theorem execAsymUpdate_staysWithin (ag : Agent) (slot : Fin 416) (mpd : Bool) (d : Word) (s : State) :
    StaysWithin (partsOf (.asymUpdate ag slot mpd d)) s (execAsymUpdate ag slot mpd d s) :=
  whenMain_staysWithin (by cases mpd <;> exact regWrite_moves_of (.refl _ _) fun _ _ _ h => actAsym_moves h _ _ _ (listed rfl))

/-! ### Ports (Machine/Port.lean) -/

theorem execLaneDisable_staysWithin (ag : Agent) (lane : LaneId) (d : Word) (s : State) :
    StaysWithin (partsOf (.laneDisable ag lane d)) s (execLaneDisable ag lane d s) :=
  whenMain_staysWithin (by
    cases lane with
    | data n => exact regWrite_moves_of (.refl _ _) fun _ _ _ h => by apply actDlnLaneCtrl_moves h .. <;> exact listed rfl
    | aux m => exact regWrite_moves_of (.refl _ _) fun _ _ _ h => by apply actAlnPort_moves h .. <;> exact listed rfl)

theorem execLoopbackChange_staysWithin (ag : Agent) (lane : LaneId) (d : Word) (s : State) :
    StaysWithin (partsOf (.loopbackChange ag lane d)) s (execLoopbackChange ag lane d s) :=
  whenMain_staysWithin (by
    cases lane with
    | data n => exact regWrite_moves_of (.refl _ _) fun _ _ _ h => by apply actDlnLaneCtrl_moves h .. <;> exact listed rfl
    | aux m => exact regWrite_moves_of (.refl _ _) fun _ _ _ h => by apply actAlnPort_moves h .. <;> exact listed rfl)

/-- The commands that write ALN_CTRL of an auxiliary lane. -/
theorem alnCtrlWrite_staysWithin (ag : Agent) (m : Fin 32) (d : Word) (s : State) :
    StaysWithin [.regs, .hst, .lanes] s (whenMain s (regWrite ag (Reg.ALN_CTRL m) Rd.ALN_CTRL (actAlnPort m) allBits d)) :=
  regWrite_staysWithin fun _ _ _ h => by apply actAlnPort_moves h .. <;> exact listed rfl

/-- The commands that write the pattern register of a lane. -/
theorem prbsWrite_staysWithin (ag : Agent) (lane : LaneId) (d : Word) (s : State) :
    StaysWithin [.regs, .ind, .hst, .lanes, .net, .tlm] s (prbsWrite ag lane d s) :=
  whenMain_staysWithin (by
    cases lane with
    | data n => exact regWrite_moves_of (.refl _ _) fun _ _ _ h => by apply actPrbs_moves h .. <;> exact listed rfl
    | aux m => exact regWrite_moves_of (.refl _ _) fun _ _ _ h => by apply actPrbs_moves h .. <;> exact listed rfl)

theorem execSyncAcq_staysWithin (lane : Fin 32) (bitSlip : Fin 20) (s : State) :
    StaysWithin (partsOf (.syncAcq lane bitSlip)) s (execSyncAcq lane bitSlip s) :=
  whenMain_staysWithin (by
    apply ite_moves (timingFix_moves (State.updLane_moves (State.raise_moves (State.setFld_moves
      (State.setFlag_moves (.refl _ _) ..) ..) ..) ..) ..) (.refl _ _) <;> exact listed rfl)

theorem execAnDone_staysWithin (lane : Fin 32) (s : State) : StaysWithin (partsOf (.anDone lane)) s (execAnDone lane s) :=
  whenMain_staysWithin (by
    apply ite_moves (timingFix_moves (State.raise_moves (State.setFlag_moves (.refl _ _) ..) ..) ..) (.refl _ _) <;> exact listed rfl)

/-- The commands that write PORT_CFG of a port. -/
theorem portCfgWrite_staysWithin (ag : Agent) (p : Fin 384) (d : Word) (s : State) :
    StaysWithin [.regs, .ind, .hst, .net, .tlm] s (whenMain s (regWrite ag (Reg.PORT_CFG p) Rd.PORT_CFG (actPortCfg p) allBits d)) :=
  regWrite_staysWithin fun _ _ _ h => by apply actPortCfg_moves h .. <;> exact listed rfl

theorem execPcsLock_staysWithin (p : Fin 384) (pcs fec localFault remoteFault : Bool) (s : State) :
    StaysWithin (partsOf (.pcsLock p pcs fec localFault remoteFault)) s (execPcsLock p pcs fec localFault remoteFault s) :=
  whenMain_staysWithin (by apply ite_moves (showPcs_moves (State.raiseIf_moves (.refl _ _) ..) ..) (.refl _ _) <;> exact listed rfl)

theorem execLinkUp_staysWithin (p : Fin 384) (s : State) : StaysWithin (partsOf (.linkUp p)) s (execLinkUp p s) :=
  whenMain_staysWithin (by apply ite_moves (portComesUp_moves (.refl _ _) ..) (.refl _ _) <;> exact listed rfl)

theorem execLinkDown_staysWithin (p : Fin 384) (cause : BitVec 4) (s : State) :
    StaysWithin (partsOf (.linkDown p cause)) s (execLinkDown p cause s) :=
  whenMain_staysWithin (by apply linkDown_moves (.refl _ _) .. <;> exact listed rfl)

theorem execLaneFail_staysWithin (p : Fin 384) (s : State) : StaysWithin (partsOf (.laneFail p)) s (execLaneFail p s) :=
  whenMain_staysWithin (laneTimeout_moves (.refl _ _) _ (listed rfl))

theorem execLingerExpired_staysWithin (p : Fin 384) (s : State) : StaysWithin (partsOf (.lingerExpired p)) s (execLingerExpired p s) :=
  whenMain_staysWithin (by apply ite_moves (lingerFlush_moves (.refl _ _) ..) (.refl _ _) <;> exact listed rfl)

theorem execRecoveryEnd_staysWithin (p : Fin 384) (s : State) : StaysWithin (partsOf (.recoveryEnd p)) s (execRecoveryEnd p s) :=
  whenMain_staysWithin (by apply ite_moves (State.raise_moves (State.setFlag_moves (.refl _ _) ..) ..) (.refl _ _) <;> exact listed rfl)

theorem execPauseExpire_staysWithin (p : Fin 384) (pri : Fin 8) (s : State) :
    StaysWithin (partsOf (.pauseExpire p pri)) s (execPauseExpire p pri s) :=
  whenMain_staysWithin (by apply State.updPort_moves (State.setRbit_moves (.refl _ _) ..) .. <;> exact listed rfl)

theorem execPfcRefresh_staysWithin (p : Fin 384) (pri : Fin 8) (s : State) :
    StaysWithin (partsOf (.pfcRefresh p pri)) s (execPfcRefresh p pri s) :=
  whenMain_staysWithin (ite_moves (pfcAsk_moves (.refl _ _) _ _ _ (listed rfl)) (.refl _ _))

theorem execQuarantineEnd_staysWithin (p : Fin 384) (s : State) : StaysWithin (partsOf (.quarantineEnd p)) s (execQuarantineEnd p s) :=
  whenMain_staysWithin (State.setFlag_moves (.refl _ _) _ _ (listed rfl))

/-! ### Forwarding (Machine/Fwd.lean) -/

theorem execFwdStageWrite_staysWithin (win : Fin 4) (waddr : BitVec 24) (d : Word) (s : State) :
    StaysWithin (partsOf (.fwdStageWrite win waddr d)) s (execFwdStageWrite win waddr d s) :=
  whenMain_staysWithin
    (ite_moves (targetWrite_moves (.refl _ _) _ _ _ (fun _ h => by apply stageWrite_moves h .. <;> exact listed rfl) (listed rfl)) (.refl _ _))

/-- The commands that write FWD_COMMIT_CMD. -/
theorem commitCmdWrite_staysWithin (ag : Agent) (d : Word) (s : State) :
    StaysWithin [.regs, .hst, .net] s (whenMain s (regWrite ag Reg.FWD_COMMIT_CMD Rd.FWD_COMMIT_CMD actCommitCmd allBits d)) :=
  regWrite_staysWithin fun _ _ _ h => by apply actCommitCmd_moves h .. <;> exact listed rfl

theorem execCommitCheckEnd_staysWithin (ecc : List (Nat × Nat)) (devs : List Word) (s : State) :
    StaysWithin (partsOf (.commitCheckEnd ecc devs)) s (execCommitCheckEnd ecc devs s) :=
  whenMain_staysWithin (by apply ite_moves (checkEnd_moves (.refl _ _) ..) (.refl _ _) <;> exact listed rfl)

theorem execCommitCycle_staysWithin (s : State) : StaysWithin (partsOf .commitCycle) s (execCommitCycle s) :=
  whenMain_staysWithin (by apply ite_moves (commitLive_moves (.refl _ _) ..) (.refl _ _) <;> exact listed rfl)

theorem execCommitDone_staysWithin (s : State) : StaysWithin (partsOf .commitDone) s (execCommitDone s) :=
  whenMain_staysWithin (by apply ite_moves (State.raise_moves (State.updNet_moves (.refl _ _) ..) ..) (.refl _ _) <;> exact listed rfl)

theorem execPipelineLookup_staysWithin (src : Fin 417) (id : Nat) (head : Option (List Byte × Arrival)) (slot : Fin 2) (s : State) :
    StaysWithin (partsOf (.pipelineLookup src id head slot)) s (execPipelineLookup src id head slot s) :=
  whenMain_staysWithin (by
    split
    · apply ite_moves (pipePass_moves (.refl _ _) ..) (.refl _ _) <;> exact listed rfl
    · refine ite_moves ?_ (.refl _ _)
      apply pipePass_moves (State.setFrame_moves (tagStage_moves (evtOccur_moves (tagTake_moves (.refl _ _) ..) ..) ..) ..) .. <;>
        exact listed rfl
    · exact .refl _ _)

/-! ### MAC and host frames (Machine/Mac.lean) -/

theorem execMacFrameReceive_staysWithin (src : Fin 416) (id : Nat) (bytes : List Byte) (overflow : Bool) (arr : Arrival) (s : State) :
    StaysWithin (partsOf (.macFrameReceive src id bytes overflow arr)) s (execMacFrameReceive src id bytes overflow arr s) :=
  whenMain_staysWithin (by apply macReceive_moves (.refl _ _) .. <;> exact listed rfl)

/-- A PAUSE or PFC frame is received as any frame of its port is, with the main domain up. -/
theorem controlReceive_staysWithin (p : Fin 384) (bytes : List Byte) (op : Nat) (s : State) :
    StaysWithin [.regs, .ind, .net, .tlm] s (controlReceive p bytes op s) :=
  whenMain_staysWithin (ite_moves (by apply macReceive_moves (.refl _ _) .. <;> exact listed rfl) (.refl _ _))

theorem execInjDescriptor_staysWithin (s : State) : StaysWithin (partsOf .injDescriptor) s (execInjDescriptor s) :=
  whenMain_staysWithin (by apply takeDescriptor_moves (.refl _ _) .. <;> exact listed rfl)

theorem execFwdHinjDataWrite_staysWithin (ag : Agent) (d : Word) (s : State) :
    StaysWithin (partsOf (.fwdHinjDataWrite ag d)) s (execFwdHinjDataWrite ag d s) :=
  regWrite_staysWithin fun _ _ _ h => actHinjData_moves h _ _ (listed rfl)

theorem execSend_staysWithin (ag : Agent) (d : Word) (s : State) : StaysWithin (partsOf (.send ag d)) s (execSend ag d s) :=
  regWrite_staysWithin fun _ _ _ h => by apply actHinjCmd_moves h .. <;> exact listed rfl

theorem execTrapWrite_staysWithin (id : Nat) (s : State) : StaysWithin (partsOf (.trapWrite id)) s (execTrapWrite id s) :=
  whenMain_staysWithin (by apply trapWrite_moves (.refl _ _) .. <;> exact listed rfl)

/-! ### Admission and the shared buffer (Machine/Admit.lean) -/

theorem execAdmissionDecision_staysWithin (id : Nat) (s : State) :
    StaysWithin (partsOf (.admissionDecision id)) s (execAdmissionDecision id s) :=
  whenMain_staysWithin (by apply admission_moves (.refl _ _) .. <;> exact listed rfl)

theorem execSliceWrite_staysWithin (id : Nat) (slice : Fin 1048576) (bytes : List Byte) (s : State) :
    StaysWithin (partsOf (.sliceWrite id slice bytes)) s (execSliceWrite id slice bytes s) :=
  whenMain_staysWithin (by apply sliceWrite_moves (.refl _ _) .. <;> exact listed rfl)

theorem execAllocRecompute_staysWithin (s : State) : StaysWithin (partsOf .allocRecompute) s (execAllocRecompute s) :=
  whenMain_staysWithin (allocShow_moves (.refl _ _) (listed rfl))

theorem execAuditPass_staysWithin (xlinks : List (Nat × Nat)) (s : State) :
    StaysWithin (partsOf (.auditPass xlinks)) s (execAuditPass xlinks s) :=
  whenMain_staysWithin (by apply ite_moves (auditPass_moves (.refl _ _) ..) (.refl _ _) <;> exact listed rfl)

theorem execReclaimAll_staysWithin (ag : Agent) (d : Word) (s : State) :
    StaysWithin (partsOf (.reclaimAll ag d)) s (execReclaimAll ag d s) :=
  regWrite_staysWithin fun _ _ _ h => by apply actBufAudit_moves h .. <;> exact listed rfl

/-! ### Bring-up (Machine/Boot.lean) -/

theorem execEnumFrameSend_staysWithin (s : State) : StaysWithin (partsOf .enumFrameSend) s (execEnumFrameSend s) :=
  whenOven_staysWithin (ite_moves (enumSend_moves (.refl _ _) (listed rfl)) (.refl _ _))

theorem execEnumFrameReceive_staysWithin (startNs : Nat) (pulses : List (Nat × Nat)) (s : State) :
    StaysWithin (partsOf (.enumFrameReceive startNs pulses)) s (execEnumFrameReceive startNs pulses s) :=
  whenOven_staysWithin (by
    refine ite_moves ?_ (.refl _ _)
    split
    · apply enumHeard_moves (.refl _ _) .. <;> exact listed rfl
    · exact .refl _ _)

theorem execEnumTimeout_staysWithin (s : State) : StaysWithin (partsOf .enumTimeout) s (execEnumTimeout s) :=
  whenOven_staysWithin (ite_moves (State.raiseIf_moves (.refl _ _) _ _ (listed rfl)) (.refl _ _))

theorem execReenum_staysWithin (ag : Agent) (d : Word) (s : State) : StaysWithin (partsOf (.reenum ag d)) s (execReenum ag d s) :=
  regWrite_staysWithin fun _ _ _ h => by apply actEnumCmd_moves h .. <;> exact listed rfl

theorem execHrthLoadDataWrite_staysWithin (ag : Agent) (d : Word) (s : State) :
    StaysWithin (partsOf (.hrthLoadDataWrite ag d)) s (execHrthLoadDataWrite ag d s) :=
  regWrite_staysWithin fun _ _ _ h => by apply actLoadData_moves h .. <;> exact listed rfl

theorem execBootVerifyDone_staysWithin (s : State) : StaysWithin (partsOf .bootVerifyDone) s (execBootVerifyDone s) :=
  whenMain_staysWithin (by apply ite_moves (verifyEnd_moves (.refl _ _) ..) (.refl _ _) <;> exact listed rfl)

theorem execFuseCmdGo_staysWithin (ag : Agent) (d : Word) (s : State) : StaysWithin (partsOf (.fuseCmdGo ag d)) s (execFuseCmdGo ag d s) :=
  regWrite_staysWithin fun _ _ _ h => by apply actFuseCmd_moves h .. <;> exact listed rfl

theorem execMgmtBusTransaction_staysWithin (bytes : List Byte) (read : Bool) (s : State) :
    StaysWithin (partsOf (.mgmtBusTransaction bytes read)) s (execMgmtBusTransaction bytes read s) :=
  whenMain_staysWithin (by apply mgmtBus_moves (.refl _ _) .. <;> exact listed rfl)

theorem execWdogKick_staysWithin (ag : Agent) (d : Word) (s : State) : StaysWithin (partsOf (.wdogKick ag d)) s (execWdogKick ag d s) :=
  regWrite_staysWithin fun _ _ _ h => actWdogKick_moves h _ _ _ (listed rfl)

theorem execWdogExpire_staysWithin (core : Fin 4) (s : State) : StaysWithin (partsOf (.wdogExpire core)) s (execWdogExpire core s) :=
  whenMain_staysWithin (by apply ite_moves (coreHung_moves (.refl _ _) ..) (.refl _ _) <;> exact listed rfl)

/-! ### Egress (Machine/Egress.lean) -/

theorem execSelection_staysWithin (p : Fin 416) (corrupt : Bool) (stamp : Stamp) (s : State) :
    StaysWithin (partsOf (.selection p corrupt stamp)) s (execSelection p corrupt stamp s) :=
  whenMain_staysWithin (by apply selection_moves (.refl _ _) .. <;> exact listed rfl)

theorem execEgressHandover_staysWithin (id : Nat) (s : State) : StaysWithin (partsOf (.egressHandover id)) s (execEgressHandover id s) :=
  whenMain_staysWithin (by apply handover_moves (.refl _ _) .. <;> exact listed rfl)

theorem execFrameTransmitEnd_staysWithin (id : Nat) (corrupt : Bool) (s : State) :
    StaysWithin (partsOf (.frameTransmitEnd id corrupt)) s (execFrameTransmitEnd id corrupt s) :=
  whenMain_staysWithin (by apply transmitEnd_moves (.refl _ _) .. <;> exact listed rfl)

/-! ### Loop and references (Machine/Loop.lean) -/

theorem execMpllLock_staysWithin (counts : List Nat) (vtune : BitVec 8) (s : State) :
    StaysWithin (partsOf (.mpllLock counts vtune)) s (execMpllLock counts vtune s) :=
  whenMain_staysWithin (by
    apply ite_moves (.refl _ _) (State.raiseIf_moves (State.raise_moves (State.updLoop_moves (State.setFld_moves (State.setFld_moves
      (State.setFlag_moves (State.setFlag_moves (.refl _ _) ..) ..) ..) ..) ..) ..) ..) <;> exact listed rfl)

theorem execRefSample_staysWithin (ix : Fin 23) (x : Int) (s : State) : StaysWithin (partsOf (.refSample ix x)) s (execRefSample ix x s) :=
  whenMain_staysWithin (by
    split
    · apply refSample_moves (State.updRef_moves (.refl _ _) ..) .. <;> exact listed rfl
    · exact ite_moves (State.updRef_moves (.refl _ _) _ _ (listed rfl)) (.refl _ _))

theorem execRefPresenceChange_staysWithin (ix : Fin 23) (present : Bool) (s : State) :
    StaysWithin (partsOf (.refPresenceChange ix present)) s (execRefPresenceChange ix present s) :=
  whenMain_staysWithin (by apply ite_moves (refPresence_moves (.refl _ _) ..) (.refl _ _) <;> exact listed rfl)

theorem execRefinWindowEnd_staysWithin (k : Fin 4) (edges : Nat) (s : State) :
    StaysWithin (partsOf (.refinWindowEnd k edges)) s (execRefinWindowEnd k edges s) :=
  whenMain_staysWithin (by apply refPresence_moves (State.updRef_moves (.refl _ _) ..) .. <;> exact listed rfl)

theorem execRefFreqWindowEnd_staysWithin (ix : Fin 23) (freq : Int) (s : State) :
    StaysWithin (partsOf (.refFreqWindowEnd ix freq)) s (execRefFreqWindowEnd ix freq s) :=
  whenMain_staysWithin (by
    refine ite_moves (.refl _ _) (ite_moves (State.updRef_moves (.refl _ _) _ _ (listed rfl)) ?_)
    extract_lets y s1 tol lim
    have h : Moves (partsOf (.refFreqWindowEnd ix freq)) s s1 := by
      apply State.setReg_moves (State.updRef_moves (.refl _ _) ..) .. <;> exact listed rfl
    apply ite_moves (refRequalify_moves h ..) (ite_moves (State.setFld_moves h ..) h) <;> exact listed rfl)

theorem execRefQualified_staysWithin (ix : Fin 23) (s : State) : StaysWithin (partsOf (.refQualified ix)) s (execRefQualified ix s) :=
  whenMain_staysWithin (ite_moves (setRefState_moves (.refl _ _) _ _ (listed rfl)) (.refl _ _))

theorem execRefCfgWrite_staysWithin (ag : Agent) (ix : Fin 23) (which : Fin 2) (d : Word) (s : State) :
    StaysWithin (partsOf (.refCfgWrite ag ix which d)) s (execRefCfgWrite ag ix which d s) :=
  whenMain_staysWithin (by
    split
    · exact regWrite_moves_of (.refl _ _) fun _ _ _ h => by apply actRefCfg_moves h .. <;> exact listed rfl
    · exact regWrite_moves_of (.refl _ _) fun _ _ _ h => by apply actRefFreqHz_moves h .. <;> exact listed rfl)

theorem execSelectionEval_staysWithin (s : State) : StaysWithin (partsOf .selectionEval) s (execSelectionEval s) :=
  whenMain_staysWithin (by apply selectionEval_moves (.refl _ _) .. <;> exact listed rfl)

theorem execLocked_staysWithin (s : State) : StaysWithin (partsOf .locked) s (execLocked s) :=
  whenMain_staysWithin (by
    apply ite_moves (State.raise_moves (setSelected_moves (setLoopState_moves (.refl _ _) ..) ..) ..) (.refl _ _) <;> exact listed rfl)

theorem execHoHistoryAppend_staysWithin (s : State) : StaysWithin (partsOf .hoHistoryAppend) s (execHoHistoryAppend s) :=
  whenMain_staysWithin (by apply ite_moves (.refl _ _) (showHoReady_moves (State.updLoop_moves (.refl _ _) ..) ..) <;> exact listed rfl)

theorem execHoldoverTick_staysWithin (s : State) : StaysWithin (partsOf .holdoverTick) s (execHoldoverTick s) :=
  whenMain_staysWithin (by
    apply ite_moves (.refl _ _) (showHold_moves (setY_moves (State.updLoop_moves (.refl _ _) ..) ..) ..) <;> exact listed rfl)

/-- The commands that write LOOP_REF_CMD of a reference. -/
theorem refCmdWrite_staysWithin (ag : Agent) (i : Fin 23) (d : Word) (s : State) :
    StaysWithin [.regs, .hst, .loop] s (whenMain s (regWrite ag (Reg.LOOP_REF_CMD i) Rd.LOOP_REF_CMD (actRefCmd i) allBits d)) :=
  regWrite_staysWithin fun _ _ _ h => by apply actRefCmd_moves h .. <;> exact listed rfl

/-- The commands that write LOOP_CLKOUT_CTRL of a clock output. -/
theorem clkoutCtrlWrite_staysWithin (ag : Agent) (k : Fin 4) (d : Word) (s : State) :
    StaysWithin [.regs, .hst, .loop] s (whenMain s (regWrite ag (Reg.LOOP_CLKOUT_CTRL k) Rd.LOOP_CLKOUT_CTRL (actClkoutCtrl k) allBits d)) :=
  regWrite_staysWithin fun _ _ _ h => actClkoutCtrl_moves h _ _ _ (listed rfl)

theorem execLockAUpdate_staysWithin (s : State) : StaysWithin (partsOf .lockAUpdate) s (execLockAUpdate s) :=
  next_staysWithin (by apply State.updLoop_moves (State.setFld_moves (.refl _ _) ..) .. <;> exact listed rfl)

theorem execLockAEnWrite_staysWithin (ag : Agent) (d : Word) (s : State) :
    StaysWithin (partsOf (.lockAEnWrite ag d)) s (execLockAEnWrite ag d s) :=
  regWrite_staysWithin fun _ _ _ h => actLockA_moves h _ _ (listed rfl)

/-! ### Proofing (Machine/Prf.lean) -/

theorem execCheckWindowEnd_staysWithin (s : State) : StaysWithin (partsOf .checkWindowEnd) s (execCheckWindowEnd s) :=
  whenMain_staysWithin (by
    have h : Moves (partsOf .checkWindowEnd) s (showPilots s) := showPilots_moves (.refl _ _) (listed rfl)
    apply State.updMet_moves (clearPilots_moves (clearWindows_moves (ite_moves h (checkWindow_moves h ..)) ..) ..) .. <;> exact listed rfl)

theorem execCdStart_staysWithin (ag : Agent) (d : Word) (s : State) : StaysWithin (partsOf (.cdStart ag d)) s (execCdStart ag d s) :=
  regWrite_staysWithin fun _ _ _ h => by apply actCdStart_moves h .. <;> exact listed rfl

theorem execCdDone_staysWithin (cell : Fin 32) (s : State) : StaysWithin (partsOf (.cdDone cell)) s (execCdDone cell s) :=
  whenMain_staysWithin (by
    have h : Moves (partsOf (.cdDone cell)) s (cdFinish cell s) := by apply cdFinish_moves (.refl _ _) .. <;> exact listed rfl
    apply ite_moves (ite_moves (prfCellDone_moves h ..) h) (.refl _ _) <;> exact listed rfl)

theorem execPrfTempUpdate_staysWithin (now : Int) (s : State) : StaysWithin (partsOf (.prfTempUpdate now)) s (execPrfTempUpdate now s) :=
  whenMain_staysWithin (by
    have h := State.setFld_moves (.refl (partsOf (.prfTempUpdate now)) s) F.PRF_TEMP_NOW (toBits 12 now) (listed rfl)
    apply ite_moves (prfTrigger_moves h ..) h <;> exact listed rfl)

/-- The commands that write PRF_CMD. -/
theorem prfCmdWrite_staysWithin (ag : Agent) (d : Word) (s : State) :
    StaysWithin [.regs, .ind, .hst, .met, .prf] s (whenMain s (regWrite ag Reg.PRF_CMD Rd.PRF_CMD actPrfCmd allBits d)) :=
  regWrite_staysWithin fun _ _ _ h => by apply actPrfCmd_moves h .. <;> exact listed rfl

theorem execPrfInterval_staysWithin (s : State) : StaysWithin (partsOf .prfInterval) s (execPrfInterval s) :=
  whenMain_staysWithin (by apply ite_moves (.refl _ _) (prfTrigger_moves (.refl _ _) ..) <;> exact listed rfl)

theorem execRunStart_staysWithin (s : State) : StaysWithin (partsOf .runStart) s (execRunStart s) :=
  whenMain_staysWithin (by apply ite_moves (prfStart_moves (.refl _ _) ..) (.refl _ _) <;> exact listed rfl)

theorem execMetResult_staysWithin (cell : Fin 32) (code : Option (BitVec 12)) (coarse : Nat) (s : State) :
    StaysWithin (partsOf (.metResult cell code coarse)) s (execMetResult cell code coarse s) :=
  whenMain_staysWithin (by apply metResult_moves (.refl _ _) .. <;> exact listed rfl)

/-! ### Faults (Machine/Flt.lean) -/

theorem execScrubRead_staysWithin (mem addr : Nat) (err : EccErr) (who : EccBy) (s : State) :
    StaysWithin (partsOf (.scrubRead mem addr err who)) s (execScrubRead mem addr err who s) :=
  whenMain_staysWithin (by apply scrub_moves (.refl _ _) .. <;> exact listed rfl)

theorem execTbaseParity_staysWithin (flops : TbFlops) (s : State) :
    StaysWithin (partsOf (.tbaseParity flops)) s (execTbaseParity flops s) :=
  whenMain_staysWithin (by apply faultOpen_moves (tbFaulty_moves (.refl _ _) ..) .. <;> exact listed rfl)

/-! ### Mailboxes (Machine/Mbox.lean) -/

theorem execMboxArrived_staysWithin (ch : Fin 8) (q : Fin 2) (s : State) :
    StaysWithin (partsOf (.mboxArrived ch q)) s (execMboxArrived ch q s) :=
  whenMain_staysWithin (by apply mboxArrive_moves (.refl _ _) .. <;> exact listed rfl)

theorem execMboxEmptied_staysWithin (ch : Fin 8) (q : Fin 2) (s : State) :
    StaysWithin (partsOf (.mboxEmptied ch q)) s (execMboxEmptied ch q s) :=
  whenMain_staysWithin (by apply mboxEmptyShown_moves (.refl _ _) .. <;> exact listed rfl)

/-! ### Interrupts (Machine/Irq.lean) -/

theorem execInterruptLineUpdate_staysWithin (s : State) : StaysWithin (partsOf .interruptLineUpdate) s (execInterruptLineUpdate s) :=
  whenMain_staysWithin (hst_moves (.refl _ _) _ (listed rfl))

theorem execMsixMessage_staysWithin (fn : Fin 2) (vec : Fin 64) (s : State) :
    StaysWithin (partsOf (.msixMessage fn vec)) s (execMsixMessage fn vec s) :=
  whenMain_staysWithin (by apply vecRise_moves (settleIrq_moves (.refl _ _) ..) .. <;> exact listed rfl)

theorem execMsixUnmask_staysWithin (fn : Fin 2) (vec : Option (Fin 64)) (s : State) :
    StaysWithin (partsOf (.msixUnmask fn vec)) s (execMsixUnmask fn vec s) :=
  whenMain_staysWithin (by apply sendPending_moves (State.updMsix_moves (.refl _ _) ..) .. <;> exact listed rfl)

theorem execMsixMask_staysWithin (fn : Fin 2) (what : MsixWhat) (s : State) :
    StaysWithin (partsOf (.msixMask fn what)) s (execMsixMask fn what s) :=
  whenMain_staysWithin (State.updMsix_moves (.refl _ _) _ _ (listed rfl))

theorem execRestart_staysWithin (ag : Agent) (d : Word) (s : State) : StaysWithin (partsOf (.restart ag d)) s (execRestart ag d s) :=
  whenMain_staysWithin
    (settleIrq_moves (regWrite_moves_of (.refl _ _) fun _ _ _ h => by apply actBootCmd_moves h .. <;> exact listed rfl) (listed rfl))

theorem execIrqEoi_staysWithin (ag : Agent) (d : Word) (s : State) : StaysWithin (partsOf (.irqEoi ag d)) s (execIrqEoi ag d s) :=
  whenMain_staysWithin (regWrite_moves_of (settleIrq_moves (.refl _ _) (listed rfl)) fun _ _ _ h => actIrqEoi_moves h _ _ (listed rfl))

/-! ### Keeper and holdover (Machine/Keeper.lean) -/

/-- The commands that write LOOP_CMD. -/
theorem loopCmdWrite_staysWithin (ag : Agent) (d : Word) (s : State) :
    StaysWithin [.regs, .hst, .tb, .met, .loop, .prf, .twin, .free] s (loopCmdWrite ag d s) :=
  regWrite_staysWithin fun _ _ _ h => by apply actLoopCmd_moves h .. <;> exact listed rfl

theorem execMpllSearchTimeout_staysWithin (s : State) : StaysWithin (partsOf .mpllSearchTimeout) s (execMpllSearchTimeout s) :=
  whenMain_staysWithin (by
    have h := State.updLoop_moves (.refl (partsOf .mpllSearchTimeout) s) (fun l => { l with fails := l.fails + 1 }) (listed rfl)
    apply ite_moves (.refl _ _) (ite_moves (mpllStop_moves h ..) h) <;> exact listed rfl)

theorem execMpllLol_staysWithin (s : State) : StaysWithin (partsOf .mpllLol) s (execMpllLol s) :=
  whenMain_staysWithin (by apply ite_moves (mpllLol_moves (.refl _ _) ..) (.refl _ _) <;> exact listed rfl)

theorem execHandback_staysWithin (s : State) : StaysWithin (partsOf .handback) s (execHandback s) :=
  whenMain_staysWithin (by
    have h : Moves (partsOf .handback) s ((tclkTo false s).raise F.LOOP_INT_STATUS_HANDBACK) := by
      apply State.raise_moves (tclkTo_moves (.refl _ _) ..) .. <;> exact listed rfl
    apply ite_moves (prfTrigger_moves (State.updLoop_moves (ite_moves h (ite_moves (setLoopState_moves h ..) (toFreeRun_moves h ..))) ..) ..)
      (.refl _ _) <;> exact listed rfl)

theorem execXoLoss_staysWithin (s : State) : StaysWithin (partsOf .xoLoss) s (execXoLoss s) :=
  next_staysWithin (by apply xoLoss_moves (.refl _ _) .. <;> exact listed rfl)

theorem execXoReturn_staysWithin (s : State) : StaysWithin (partsOf .xoReturn) s (execXoReturn s) :=
  next_staysWithin (by apply xoReturn_moves (.refl _ _) .. <;> exact listed rfl)

theorem execKeeperAlignDone_staysWithin (s : State) : StaysWithin (partsOf .keeperAlignDone) s (execKeeperAlignDone s) :=
  whenMain_staysWithin (by
    have h := State.updLoop_moves (.refl (partsOf .keeperAlignDone) s) (fun l => { l with aligning := false }) (listed rfl)
    apply ite_moves (ite_moves h (mpllSearch_moves (tclkTo_moves (ite_moves (setY_moves h ..) h) ..) ..)) (.refl _ _) <;> exact listed rfl)

/-! ### Twin pairs and stacks (Machine/Twin.lean) -/

theorem execHelloSend_staysWithin (k : Fin 3) (s : State) : StaysWithin (partsOf (.helloSend k)) s (execHelloSend k s) :=
  whenMain_staysWithin (by apply helloSend_moves (.refl _ _) .. <;> exact listed rfl)

theorem execSyncSend_staysWithin (k : Fin 3) (j : Nat) (s : State) : StaysWithin (partsOf (.syncSend k j)) s (execSyncSend k j s) :=
  whenMain_staysWithin (by apply syncSend_moves (.refl _ _) .. <;> exact listed rfl)

theorem execHelloReceive_staysWithin (k : Fin 3) (bytes : List Byte) (codeErr : Bool) (s : State) :
    StaysWithin (partsOf (.helloReceive k bytes codeErr)) s (execHelloReceive k bytes codeErr s) :=
  whenMain_staysWithin (onFrame_moves (.refl _ _) _ _ _ _ _ (fun _ _ h => by apply helloReceive_moves h .. <;> exact listed rfl) (listed rfl))

theorem execSyncReceive_staysWithin (k : Fin 3) (bytes : List Byte) (codeErr : Bool) (j ago : Nat) (s : State) :
    StaysWithin (partsOf (.syncReceive k bytes codeErr j ago)) s (execSyncReceive k bytes codeErr j ago s) :=
  whenMain_staysWithin (onFrame_moves (.refl _ _) _ _ _ _ _ (fun _ _ h => by apply syncReceive_moves h .. <;> exact listed rfl) (listed rfl))

theorem execStateReceive_staysWithin (k : Fin 3) (bytes : List Byte) (codeErr : Bool) (s : State) :
    StaysWithin (partsOf (.stateReceive k bytes codeErr)) s (execStateReceive k bytes codeErr s) :=
  whenMain_staysWithin (onFrame_moves (.refl _ _) _ _ _ _ _ (fun _ _ h => by apply stateReceive_moves h .. <;> exact listed rfl) (listed rfl))

theorem execPrepare_staysWithin (k : Fin 3) (bytes : List Byte) (codeErr : Bool) (s : State) :
    StaysWithin (partsOf (.prepare k bytes codeErr)) s (execPrepare k bytes codeErr s) :=
  whenMain_staysWithin
    (onStep_moves (.refl _ _) _ _ _ _ _ (fun _ _ _ h => by apply prepareReceive_moves h .. <;> exact listed rfl) (listed rfl))

theorem execReady_staysWithin (k : Fin 3) (bytes : List Byte) (codeErr : Bool) (s : State) :
    StaysWithin (partsOf (.ready k bytes codeErr)) s (execReady k bytes codeErr s) :=
  whenMain_staysWithin (onStep_moves (.refl _ _) _ _ _ _ _ (fun _ _ _ h => by apply readyReceive_moves h .. <;> exact listed rfl) (listed rfl))

theorem execRefuse_staysWithin (k : Fin 3) (bytes : List Byte) (codeErr : Bool) (s : State) :
    StaysWithin (partsOf (.refuse k bytes codeErr)) s (execRefuse k bytes codeErr s) :=
  whenMain_staysWithin (onStep_moves (.refl _ _) _ _ _ _ _ (fun _ _ _ h => by apply refuseReceive_moves h .. <;> exact listed rfl) (listed rfl))

theorem execXstepCommit_staysWithin (k : Fin 3) (bytes : List Byte) (codeErr : Bool) (s : State) :
    StaysWithin (partsOf (.xstepCommit k bytes codeErr)) s (execXstepCommit k bytes codeErr s) :=
  whenMain_staysWithin (onStep_moves (.refl _ _) _ _ _ _ _ (fun _ _ _ h => by apply commitReceive_moves h .. <;> exact listed rfl) (listed rfl))

theorem execXstepAbort_staysWithin (k : Fin 3) (bytes : List Byte) (codeErr : Bool) (s : State) :
    StaysWithin (partsOf (.xstepAbort k bytes codeErr)) s (execXstepAbort k bytes codeErr s) :=
  whenMain_staysWithin (onStep_moves (.refl _ _) _ _ _ _ _ (fun _ _ _ h => by apply abortReceive_moves h .. <;> exact listed rfl) (listed rfl))

theorem execLinkSilent_staysWithin (k : Fin 3) (s : State) : StaysWithin (partsOf (.linkSilent k)) s (execLinkSilent k s) :=
  whenMain_staysWithin (by
    refine ite_moves (.refl _ _) ?_
    extract_lets us s1
    have h : Moves (partsOf (.linkSilent k)) s s1 := by
      apply stepLinkFails_moves (linkLapse_moves (State.setFlag_moves (.refl _ _) ..) ..) .. <;> exact listed rfl
    split
    · apply roleEval_moves (State.raise_moves h ..) .. <;> exact listed rfl
    · exact ite_moves h (losePos_moves h (listed rfl))
    · exact h)

theorem execLinkCheckLoss_staysWithin (k : Fin 3) (hello sync : Bool) (s : State) :
    StaysWithin (partsOf (.linkCheckLoss k hello sync)) s (execLinkCheckLoss k hello sync s) :=
  whenMain_staysWithin (by
    have h : Moves (partsOf (.linkCheckLoss k hello sync)) s (linkLapse k hello sync s) := by
      apply linkLapse_moves (.refl _ _) .. <;> exact listed rfl
    have hf : Moves (partsOf (.linkCheckLoss k hello sync)) s (stepLinkFails k (linkLapse k hello sync s)) := by
      apply stepLinkFails_moves h .. <;> exact listed rfl
    apply ite_moves (ite_moves (roleEval_moves hf ..) hf) h <;> exact listed rfl)

theorem execInterlockPeriod_staysWithin (period low : Nat) (s : State) :
    StaysWithin (partsOf (.interlockPeriod period low)) s (execInterlockPeriod period low s) :=
  next_staysWithin (by apply ite_moves (interlockPeriod_moves (.refl _ _) ..) (.refl _ _) <;> exact listed rfl)

theorem execHbLost_staysWithin (s : State) : StaysWithin (partsOf .hbLost) s (execHbLost s) :=
  next_staysWithin (by apply ite_moves (heartbeatLost_moves (.refl _ _) ..) (.refl _ _) <;> exact listed rfl)

theorem execTwinObserveDone_staysWithin (s : State) : StaysWithin (partsOf .twinObserveDone) s (execTwinObserveDone s) :=
  whenMain_staysWithin (by apply ite_moves (roleEval_moves (setRole_moves (.refl _ _) ..) ..) (.refl _ _) <;> exact listed rfl)

theorem execSplitHoldoffExpire_staysWithin (s : State) : StaysWithin (partsOf .splitHoldoffExpire) s (execSplitHoldoffExpire s) :=
  whenMain_staysWithin (by apply ite_moves (setRole_moves (.refl _ _) ..) (.refl _ _) <;> exact listed rfl)

/-- The commands that write TWIN_CMD. -/
theorem twinCmdWrite_staysWithin (ag : Agent) (d : Word) (s : State) :
    StaysWithin [.regs, .hst, .loop, .twin] s (twinCmdWrite ag d s) :=
  regWrite_staysWithin fun _ _ _ h => by apply actTwinCmd_moves h .. <;> exact listed rfl

theorem execTwinCycleEnd_staysWithin (s : State) : StaysWithin (partsOf .twinCycleEnd) s (execTwinCycleEnd s) :=
  whenMain_staysWithin (by apply twinCycle_moves (.refl _ _) .. <;> exact listed rfl)

theorem execTwinXchkWindow_staysWithin (s : State) : StaysWithin (partsOf .twinXchkWindow) s (execTwinXchkWindow s) :=
  whenMain_staysWithin (by apply xchkWindow_moves (.refl _ _) .. <;> exact listed rfl)

/-- The commands that write TWIN_XSTEP_CMD. -/
theorem xstepCmdWrite_staysWithin (ag : Agent) (d : Word) (s : State) :
    StaysWithin [.regs, .hst, .lanes, .tb, .twin] s (xstepCmdWrite ag d s) :=
  regWrite_staysWithin fun _ _ _ h => by apply actXstepCmd_moves h .. <;> exact listed rfl

theorem execXstepOrphan_staysWithin (s : State) : StaysWithin (partsOf .xstepOrphan) s (execXstepOrphan s) :=
  whenMain_staysWithin (by apply xstepOrphan_moves (.refl _ _) .. <;> exact listed rfl)

/-! ### Power (Machine/Power.lean) -/

theorem execStageStart_staysWithin (vin : Nat) (s : State) : StaysWithin (partsOf (.stageStart vin)) s (execStageStart vin s) :=
  next_staysWithin (ite_moves (State.updPwr_moves (.refl _ _) _ (listed rfl)) (.refl _ _))

theorem execRailsGood_staysWithin (s : State) : StaysWithin (partsOf .railsGood) s (execRailsGood s) :=
  next_staysWithin (ite_moves (State.updPwr_moves (.refl _ _) _ (listed rfl)) (.refl _ _))

theorem execInternalResetRelease_staysWithin (twinPref boot enumHead : Bool) (s : State) :
    StaysWithin (partsOf (.internalResetRelease twinPref boot enumHead)) s (execInternalResetRelease twinPref boot enumHead s) :=
  next_staysWithin (by apply ite_moves (resetRelease_moves (.refl _ _) ..) (.refl _ _) <;> exact listed rfl)

theorem execResetNAssert_staysWithin (tj : BitVec 12) (s : State) : StaysWithin (partsOf (.resetNAssert tj)) s (execResetNAssert tj s) :=
  next_staysWithin (by
    apply ite_moves (ite_moves (tripRestart_moves (.refl _ _) ..) (.refl _ _)) (State.updPwr_moves (coldReset_moves (.refl _ _) ..) ..) <;>
      exact listed rfl)

theorem execKeeperLock_staysWithin (s : State) : StaysWithin (partsOf .keeperLock) s (execKeeperLock s) :=
  next_staysWithin (by
    have h := State.updPwr_moves (.refl (partsOf .keeperLock) s) (fun p => { p with oclkUp := true }) (listed rfl)
    apply ite_moves (ite_moves (takeUnit_moves h ..) h) (.refl _ _) <;> exact listed rfl)

theorem execMainDomainRelease_staysWithin (s : State) : StaysWithin (partsOf .mainDomainRelease) s (execMainDomainRelease s) :=
  next_staysWithin (by apply ite_moves (mainRelease_moves (.refl _ _) ..) (.refl _ _) <;> exact listed rfl)

theorem execWarnAssert_staysWithin (vin : Nat) (s : State) : StaysWithin (partsOf (.warnAssert vin)) s (execWarnAssert vin s) :=
  whenOven_staysWithin (by apply ite_moves (warnAssert_moves (.refl _ _) ..) (.refl _ _) <;> exact listed rfl)

theorem execWarnClear_staysWithin (vin vinMin oclk : Nat) (s : State) :
    StaysWithin (partsOf (.warnClear vin vinMin oclk)) s (execWarnClear vin vinMin oclk s) :=
  whenOven_staysWithin (by apply ite_moves (warnClear_moves (.refl _ _) ..) (.refl _ _) <;> exact listed rfl)

theorem execEvtFlagClear_staysWithin (s : State) : StaysWithin (partsOf .evtFlagClear) s (execEvtFlagClear s) :=
  whenOven_staysWithin (by
    have h := State.setFlag_moves (.refl (partsOf .evtFlagClear) s) F.PWR_LIVE_EVT_FLAG false (listed rfl)
    apply ite_moves (.refl _ _) (ite_moves (prfTrigger_moves (State.updPrf_moves h ..) ..) h) <;> exact listed rfl)

theorem execSupplyReset_staysWithin (vin : Nat) (s : State) : StaysWithin (partsOf (.supplyReset vin)) s (execSupplyReset vin s) :=
  next_staysWithin (by apply ite_moves (supplyReset_moves (.refl _ _) ..) (.refl _ _) <;> exact listed rfl)

theorem execSupplyRestart_staysWithin (vin : Nat) (s : State) : StaysWithin (partsOf (.supplyRestart vin)) s (execSupplyRestart vin s) :=
  whenOven_staysWithin (by
    have h := State.updPwr_moves (.refl (partsOf (.supplyRestart vin)) s) (fun p => { p with vin := vin, low := false }) (listed rfl)
    apply ite_moves (ite_moves h (retainedStart_moves h ..)) (.refl _ _) <;> exact listed rfl)

theorem execOvenIslandStop_staysWithin (holdup : Nat) (s : State) :
    StaysWithin (partsOf (.ovenIslandStop holdup)) s (execOvenIslandStop holdup s) :=
  whenOven_staysWithin (by apply ite_moves (stageOff_moves (coldReset_moves (.refl _ _) ..) ..) (.refl _ _) <;> exact listed rfl)

theorem execHoldupReady_staysWithin (holdup : Nat) (s : State) : StaysWithin (partsOf (.holdupReady holdup)) s (execHoldupReady holdup s) :=
  whenOven_staysWithin (ite_moves (State.setFlag_moves (.refl _ _) _ _ (listed rfl)) (.refl _ _))

theorem execHoldupCapEstimate_staysWithin (uF : Nat) (s : State) :
    StaysWithin (partsOf (.holdupCapEstimate uF)) s (execHoldupCapEstimate uF s) :=
  whenOven_staysWithin (by
    have h : Moves (partsOf (.holdupCapEstimate uF)) s (if s.pwr.mainUp then s.setFld F.PWR_HOLDUP_CAP (min (uF / 10) 0xFFFF) else s) :=
      ite_moves (State.setFld_moves (.refl _ _) _ _ (listed rfl)) (.refl _ _)
    apply ite_moves (raisePwr_moves h ..) h <;> exact listed rfl)

theorem execHoldupLow_staysWithin (holdup : Nat) (s : State) : StaysWithin (partsOf (.holdupLow holdup)) s (execHoldupLow holdup s) :=
  whenOven_staysWithin (by apply ite_moves (raisePwr_moves (.refl _ _) ..) (.refl _ _) <;> exact listed rfl)

theorem execPwrWarnLevelWrite_staysWithin (ag : Agent) (d : Word) (s : State) :
    StaysWithin (partsOf (.pwrWarnLevelWrite ag d)) s (execPwrWarnLevelWrite ag d s) :=
  regWrite_staysWithin fun _ _ _ h => h

theorem execPwrMeasureUpdate_staysWithin (vin iin pin holdup : BitVec 16) (rails : List (BitVec 16)) (s : State) :
    StaysWithin (partsOf (.pwrMeasureUpdate vin iin pin holdup rails)) s (execPwrMeasureUpdate vin iin pin holdup rails s) :=
  whenMain_staysWithin (by
    apply State.updPwr_moves (State.setRegs_moves (State.setFld_moves (State.setReg_moves (State.setReg_moves
      (State.setReg_moves (.refl _ _) ..) ..) ..) ..) ..) .. <;> exact listed rfl)

theorem execTempUpdate_staysWithin (sensors : List (BitVec 12)) (s : State) :
    StaysWithin (partsOf (.tempUpdate sensors)) s (execTempUpdate sensors s) :=
  whenMain_staysWithin (by apply tempUpdate_moves (.refl _ _) .. <;> exact listed rfl)

theorem execThermalTrip_staysWithin (tj : BitVec 12) (s : State) : StaysWithin (partsOf (.thermalTrip tj)) s (execThermalTrip tj s) :=
  next_staysWithin (by
    apply ite_moves (State.updPwr_moves (stageOff_moves (mainReset_moves (.refl _ _) ..) ..) ..) (.refl _ _) <;> exact listed rfl)

theorem execTripRestart_staysWithin (tj : BitVec 12) (s : State) : StaysWithin (partsOf (.tripRestart tj)) s (execTripRestart tj s) :=
  next_staysWithin (by apply ite_moves (tripRestart_moves (.refl _ _) ..) (.refl _ _) <;> exact listed rfl)

/-! ### Telemetry (Machine/Tlm.lean) -/

theorem execWalkStart_staysWithin (s : State) : StaysWithin (partsOf .walkStart) s (execWalkStart s) :=
  whenMain_staysWithin (by apply walkStart_moves (.refl _ _) .. <;> exact listed rfl)

theorem execSampleQueueRecord_staysWithin (s : State) : StaysWithin (partsOf .sampleQueueRecord) s (execSampleQueueRecord s) :=
  whenMain_staysWithin (by apply sampleQueue_moves (.refl _ _) .. <;> exact listed rfl)

theorem execEvtCounterReload_staysWithin (k : Fin 64) (s : State) :
    StaysWithin (partsOf (.evtCounterReload k)) s (execEvtCounterReload k s) :=
  whenMain_staysWithin (by apply evtReloadNow_moves (.refl _ _) .. <;> exact listed rfl)

/-- The commands that write TLM_SLOT_CMD. -/
theorem slotCmdWrite_staysWithin (ag : Agent) (d : Word) (s : State) :
    StaysWithin [.regs, .hst] s (slotCmdWrite ag d s) :=
  regWrite_staysWithin fun _ _ _ h => actSlotCmd_moves h _ _ (listed rfl)

/-! ### Records to host memory (Machine/Read.lean) -/

theorem execDump_staysWithin (s : State) : StaysWithin (partsOf .dump) s (execDump s) :=
  whenMain_staysWithin (by apply dumpStart_moves (.refl _ _) .. <;> exact listed rfl)

theorem execTagRecordCopy_staysWithin (r : Nat) (s : State) : StaysWithin (partsOf (.tagRecordCopy r)) s (execTagRecordCopy r s) :=
  whenMain_staysWithin (by apply tagCopy_moves (.refl _ _) .. <;> exact listed rfl)

theorem execDmaResume_staysWithin (fn : Fin 2) (s : State) : StaysWithin (partsOf (.dmaResume fn)) s (execDmaResume fn s) :=
  whenMain_staysWithin (by apply masterOn_moves (.refl _ _) .. <;> exact listed rfl)

theorem execMsixEnable_staysWithin (fn : Fin 2) (s : State) : StaysWithin (partsOf (.msixEnable fn)) s (execMsixEnable fn s) :=
  whenMain_staysWithin (by apply masterOn_moves (.refl _ _) .. <;> exact listed rfl)

/-! ### Sky receiver (Machine/Sky.lean) -/

theorem execSkyClkMeas_staysWithin (hz : Nat) (s : State) : StaysWithin (partsOf (.skyClkMeas hz)) s (execSkyClkMeas hz s) :=
  whenMain_staysWithin (by
    extract_lets s1 nom g s2
    have h1 : Moves (partsOf (.skyClkMeas hz)) s s1 := by
      apply State.updSky_moves (State.setReg_moves (.refl _ _) ..) .. <;> exact listed rfl
    have h2 : Moves (partsOf (.skyClkMeas hz)) s s2 := State.updSky_moves h1 _ (listed rfl)
    apply ite_moves (skyClkFault_moves h1 ..) (ite_moves (State.setFlag_moves h2 ..) h2) <;> exact listed rfl)

theorem execClkFault_staysWithin (s : State) : StaysWithin (partsOf .clkFault) s (execClkFault s) :=
  whenMain_staysWithin (by apply skyClkFault_moves (State.updSky_moves (.refl _ _) ..) .. <;> exact listed rfl)

theorem execSkyEpochStamp_staysWithin (count : BitVec 32) (s : State) :
    StaysWithin (partsOf (.skyEpochStamp count)) s (execSkyEpochStamp count s) :=
  whenMain_staysWithin (by apply ite_moves (.refl _ _) (ringRecord_moves (sampleCount_moves (.refl _ _) ..) ..) <;> exact listed rfl)

theorem execAuxEdge_staysWithin (s : State) : StaysWithin (partsOf .auxEdge) s (execAuxEdge s) :=
  whenMain_staysWithin (by apply State.raise_moves (State.setRegs_moves (.refl _ _) ..) .. <;> exact listed rfl)

theorem execSkyDump_staysWithin (ch : Fin 64) (count : BitVec 32) (samples : List (BitVec 8)) (s : State) :
    StaysWithin (partsOf (.skyDump ch count samples)) s (execSkyDump ch count samples s) :=
  whenMain_staysWithin (by apply chanDump_moves (.refl _ _) .. <;> exact listed rfl)

theorem execBitSync_staysWithin (ch : Fin 64) (s : State) : StaysWithin (partsOf (.bitSync ch)) s (execBitSync ch s) :=
  whenMain_staysWithin (by
    apply ite_moves (.refl _ _) (ite_moves (lnavBitSync_moves (.refl _ _) ..) (ite_moves (inavSync_moves (.refl _ _) ..) (.refl _ _))) <;>
      exact listed rfl)

theorem execSkyLnavWord_staysWithin (ch : Fin 64) (s : State) : StaysWithin (partsOf (.skyLnavWord ch)) s (execSkyLnavWord ch s) :=
  whenMain_staysWithin (by
    apply ite_moves (ite_moves (lnavNext_moves (.refl _ _) ..) (lnavSearch_moves (.refl _ _) ..)) (.refl _ _) <;> exact listed rfl)

theorem execSkyInavPage_staysWithin (ch : Fin 64) (s : State) : StaysWithin (partsOf (.skyInavPage ch)) s (execSkyInavPage ch s) :=
  whenMain_staysWithin (by apply ite_moves (inavPart_moves (.refl _ _) ..) (.refl _ _) <;> exact listed rfl)

theorem execRingTick_staysWithin (count : BitVec 32) (s : State) : StaysWithin (partsOf (.ringTick count)) s (execRingTick count s) :=
  whenMain_staysWithin (by apply ite_moves (.refl _ _) (State.raise_moves (sampleCount_moves (.refl _ _) ..) ..) <;> exact listed rfl)

theorem execSkySnapGo_staysWithin (ag : Agent) (d : Word) (s : State) : StaysWithin (partsOf (.skySnapGo ag d)) s (execSkySnapGo ag d s) :=
  regWrite_staysWithin fun _ _ _ h => by apply actSkySnap_moves h .. <;> exact listed rfl

theorem execSkySnapDone_staysWithin (first : BitVec 32) (samples : List (BitVec 4)) (s : State) :
    StaysWithin (partsOf (.skySnapDone first samples)) s (execSkySnapDone first samples s) :=
  whenMain_staysWithin (by apply snapEnd_moves (.refl _ _) .. <;> exact listed rfl)

theorem execSubmit_staysWithin (ag : Agent) (d : Word) (s : State) : StaysWithin (partsOf (.submit ag d)) s (execSubmit ag d s) :=
  regWrite_staysWithin fun _ _ _ h => by apply actSkyFix_moves h .. <;> exact listed rfl

theorem execSkyFixTimeout_staysWithin (s : State) : StaysWithin (partsOf .skyFixTimeout) s (execSkyFixTimeout s) :=
  whenMain_staysWithin (clearTimeValid_moves (.refl _ _) (listed rfl))

theorem execSkyLockShortfall_staysWithin (s : State) : StaysWithin (partsOf .skyLockShortfall) s (execSkyLockShortfall s) :=
  whenMain_staysWithin (by apply State.raiseIf_moves (ite_moves (clearTimeValid_moves (.refl _ _) ..) (.refl _ _)) .. <;> exact listed rfl)

theorem execSkyDelivery_staysWithin (s : State) : StaysWithin (partsOf .skyDelivery) s (execSkyDelivery s) :=
  whenMain_staysWithin (by apply skyDeliver_moves (.refl _ _) .. <;> exact listed rfl)

/-! ### Times that apply (Machine/TimeApply.lean) -/

theorem execClkoutAlignEdge_staysWithin (k : Fin 4) (s : State) : StaysWithin (partsOf (.clkoutAlignEdge k)) s (execClkoutAlignEdge k s) :=
  whenMain_staysWithin (by apply clkoutAlign_moves (.refl _ _) .. <;> exact listed rfl)

theorem execCmdDone_staysWithin (s : State) : StaysWithin (partsOf .cmdDone) s (execCmdDone s) :=
  whenMain_staysWithin (by apply cmdDone_moves (.refl _ _) .. <;> exact listed rfl)

theorem execSnapDone_staysWithin (s : State) : StaysWithin (partsOf .snapDone) s (execSnapDone s) :=
  whenMain_staysWithin (by apply snapDone_moves (.refl _ _) .. <;> exact listed rfl)

theorem execOutputEdge_staysWithin (k : Fin 5) (s : State) : StaysWithin (partsOf (.outputEdge k)) s (execOutputEdge k s) :=
  whenMain_staysWithin (by apply outputEdge_moves (.refl _ _) .. <;> exact listed rfl)

theorem execOutputPulseEnd_staysWithin (k : Fin 5) (s : State) : StaysWithin (partsOf (.outputPulseEnd k)) s (execOutputPulseEnd k s) :=
  whenMain_staysWithin (by apply pulseEnd_moves (.refl _ _) .. <;> exact listed rfl)

/-! ### Registers and windows (Machine/Window.lean) -/

/-- The commands that are a write of an agent. -/
theorem agentWrite_staysWithin (ag : Agent) (off : Nat) (be : BitVec 4) (d : Word) (s : State) :
    StaysWithin [.regs, .ind, .sram, .hostMem, .pwr, .hst, .lanes, .tb, .met, .loop, .sky, .prf, .net, .tlm, .twin, .boot, .free] s
      (whenMain s (agentWrite ag off be d)) :=
  whenMain_staysWithin (by apply agentWrite_moves (.refl _ _) .. <;> exact listed rfl)

/-- The commands that are a read of an agent. -/
theorem agentRead_staysWithin (ag : Agent) (off : Nat) (be : BitVec 4) (s : State) :
    StaysWithin [.regs, .hst, .tap] s (whenMain s (agentRead ag off be)) :=
  whenMain_staysWithin (by apply agentRead_moves (.refl _ _) .. <;> exact listed rfl)

theorem execFormatWrite_staysWithin (ag : Agent) (d : Word) (s : State) :
    StaysWithin (partsOf (.formatWrite ag d)) s (execFormatWrite ag d s) :=
  whenMain_staysWithin (settleIrq_moves (regWrite_moves_of (.refl _ _) fun _ _ _ h => actTbaseCtrl_moves h _ _ (listed rfl)) (listed rfl))

theorem execSkyEnWrite_staysWithin (ag : Agent) (d : Word) (s : State) :
    StaysWithin (partsOf (.skyEnWrite ag d)) s (execSkyEnWrite ag d s) :=
  whenMain_staysWithin
    (settleIrq_moves (regWrite_moves_of (.refl _ _) fun _ _ _ h => by apply actSkyCtrl_moves h .. <;> exact listed rfl) (listed rfl))

theorem execGo_staysWithin (ag : Agent) (d : Word) (s : State) : StaysWithin (partsOf (.go ag d)) s (execGo ag d s) :=
  whenMain_staysWithin
    (settleIrq_moves (regWrite_moves_of (.refl _ _) fun _ _ _ h => by apply actBootCmd_moves h .. <;> exact listed rfl) (listed rfl))

theorem execRegParity_staysWithin (addr : BitVec 26) (bit : Fin 32) (s : State) :
    StaysWithin (partsOf (.regParity addr bit)) s (execRegParity addr bit s) :=
  whenMain_staysWithin (by apply settleIrq_moves (parityError_moves (.refl _ _) ..) .. <;> exact listed rfl)

theorem execIndAddrApply_staysWithin (win : Fin 4) (s : State) : StaysWithin (partsOf (.indAddrApply win)) s (execIndAddrApply win s) :=
  whenMain_staysWithin (by
    have h : Moves (partsOf (.indAddrApply win)) s (winApply win .addr (addrApply win) s) :=
      winApply_moves (.refl _ _) _ _ _ (fun _ _ h => by apply addrApply_moves h .. <;> exact listed rfl) (listed rfl)
    apply winServe_moves h .. <;> exact listed rfl)

theorem execIndDataApply_staysWithin (win : Fin 4) (s : State) : StaysWithin (partsOf (.indDataApply win)) s (execIndDataApply win s) :=
  whenMain_staysWithin (by
    have h : Moves (partsOf (.indDataApply win)) s (winApply win .data (dataApply win) s) :=
      winApply_moves (.refl _ _) _ _ _ (fun _ _ h => by apply dataApply_moves h .. <;> exact listed rfl) (listed rfl)
    apply ite_moves (.refl _ _) (winServe_moves h ..) <;> exact listed rfl)

theorem execIndCtrlApply_staysWithin (win : Fin 4) (s : State) : StaysWithin (partsOf (.indCtrlApply win)) s (execIndCtrlApply win s) :=
  whenMain_staysWithin (by
    have h : Moves (partsOf (.indCtrlApply win)) s (winApply win .ctrl (ctrlApply win) s) :=
      winApply_moves (.refl _ _) _ _ _ (fun _ _ h => by apply ctrlApply_moves h .. <;> exact listed rfl) (listed rfl)
    apply winServe_moves h .. <;> exact listed rfl)

theorem execIndTargetTaken_staysWithin (win : Fin 4) (s : State) :
    StaysWithin (partsOf (.indTargetTaken win)) s (execIndTargetTaken win s) :=
  whenMain_staysWithin (by apply winServe_moves (targetTaken_moves (.refl _ _) ..) .. <;> exact listed rfl)

theorem execIndReadReady_staysWithin (win : Fin 4) (s : State) : StaysWithin (partsOf (.indReadReady win)) s (execIndReadReady win s) :=
  whenMain_staysWithin (by apply winServe_moves (readReady_moves (.refl _ _) ..) .. <;> exact listed rfl)

theorem execIndDataRead_staysWithin (ag : Agent) (win : Fin 4) (again : Word) (s : State) :
    StaysWithin (partsOf (.indDataRead ag win again)) s (execIndDataRead ag win again s) :=
  whenMain_staysWithin (by apply winRead_moves (.refl _ _) .. <;> exact listed rfl)

theorem execIndStatusRead_staysWithin (ag : Agent) (win : Fin 4) (s : State) :
    StaysWithin (partsOf (.indStatusRead ag win)) s (execIndStatusRead ag win s) :=
  whenMain_staysWithin (by apply winRead_moves (.refl _ _) .. <;> exact listed rfl)

theorem execIndTimeout_staysWithin (win : Fin 4) (s : State) : StaysWithin (partsOf (.indTimeout win)) s (execIndTimeout win s) :=
  whenMain_staysWithin (by apply winServe_moves (winTimeout_moves (.refl _ _) ..) .. <;> exact listed rfl)

theorem execSkyChannelStart_staysWithin (win : Fin 4) (ch : Fin 64) (d : Word) (count : BitVec 32) (s : State) :
    StaysWithin (partsOf (.skyChannelStart win ch d count)) s (execSkyChannelStart win ch d count s) :=
  whenMain_staysWithin (by apply skyWrite_moves (ite_moves (sampleCount_moves (.refl _ _) ..) (.refl _ _)) .. <;> exact listed rfl)

theorem execSkyChannelStop_staysWithin (win : Fin 4) (ch : Fin 64) (d : Word) (s : State) :
    StaysWithin (partsOf (.skyChannelStop win ch d)) s (execSkyChannelStop win ch d s) :=
  whenMain_staysWithin (by apply skyWrite_moves (.refl _ _) .. <;> exact listed rfl)

theorem execSkyNcoWrite_staysWithin (win : Fin 4) (ch : Fin 64) (which : Fin 3) (d : Word) (s : State) :
    StaysWithin (partsOf (.skyNcoWrite win ch which d)) s (execSkyNcoWrite win ch which d s) :=
  whenMain_staysWithin (by apply skyWrite_moves (.refl _ _) .. <;> exact listed rfl)

theorem execPciePerst_staysWithin (s : State) : StaysWithin (partsOf .pciePerst) s (execPciePerst s) :=
  whenMain_staysWithin (by apply pciePerst_moves (.refl _ _) .. <;> exact listed rfl)

theorem execLinkTrainingStart_staysWithin (s : State) : StaysWithin (partsOf .linkTrainingStart) s (execLinkTrainingStart s) :=
  whenMain_staysWithin (ite_moves (.refl _ _) (setTraining_moves (.refl _ _) _ (listed rfl)))

/-! ### TAP (Machine/Tap.lean) -/

theorem execTapReset_staysWithin (s : State) : StaysWithin (partsOf .tapReset) s (execTapReset s) :=
  whenRails_staysWithin (tapReset_moves (.refl _ _) (listed rfl))

theorem execTapInstructionUpdate_staysWithin (clocks : List TapClock) (s : State) :
    StaysWithin (partsOf (.tapInstructionUpdate clocks)) s (execTapInstructionUpdate clocks s) :=
  whenRails_staysWithin (foldl_moves _ _ (fun _ _ h => by apply tapClock_moves h .. <;> exact listed rfl) _ (.refl _ _))

theorem execTstAccess_staysWithin (dr : BitVec 36) (s : State) : StaysWithin (partsOf (.tstAccess dr)) s (execTstAccess dr s) :=
  whenMain_staysWithin (by apply tstAccess_moves (.refl _ _) .. <;> exact listed rfl)

theorem execFuseProg_staysWithin (dr : BitVec 390) (s : State) : StaysWithin (partsOf (.fuseProg dr)) s (execFuseProg dr s) :=
  whenRails_staysWithin (by apply fuseProg_moves (.refl _ _) .. <;> exact listed rfl)

theorem execFuseDone_staysWithin (s : State) : StaysWithin (partsOf .fuseDone) s (execFuseDone s) :=
  whenRails_staysWithin (by apply fuseDone_moves (.refl _ _) .. <;> exact listed rfl)

/-! ### Every command -/

/-- Every command answers a next state, reached by changes of the parts of its row alone, with storage kept canonical. -/
theorem exec_staysWithin (c : Instr) (s : State) : StaysWithin (partsOf c) s (exec c s) := by
  cases c with
  | stageStart vin => exact execStageStart_staysWithin vin s
  | railsGood => exact execRailsGood_staysWithin s
  | internalResetRelease twinPref boot enumHead => exact execInternalResetRelease_staysWithin twinPref boot enumHead s
  | resetNAssert tj => exact execResetNAssert_staysWithin tj s
  | keeperLock => exact execKeeperLock_staysWithin s
  | mainDomainRelease => exact execMainDomainRelease_staysWithin s
  | warnAssert vin => exact execWarnAssert_staysWithin vin s
  | warnClear vin vinMin oclk => exact execWarnClear_staysWithin vin vinMin oclk s
  | evtFlagClear => exact execEvtFlagClear_staysWithin s
  | supplyReset vin => exact execSupplyReset_staysWithin vin s
  | supplyRestart vin => exact execSupplyRestart_staysWithin vin s
  | ovenIslandStop holdup => exact execOvenIslandStop_staysWithin holdup s
  | holdupReady holdup => exact execHoldupReady_staysWithin holdup s
  | holdupCapEstimate uF => exact execHoldupCapEstimate_staysWithin uF s
  | holdupLow holdup => exact execHoldupLow_staysWithin holdup s
  | pwrWarnLevelWrite ag d => exact execPwrWarnLevelWrite_staysWithin ag d s
  | pwrMeasureUpdate vin iin pin holdup rails => exact execPwrMeasureUpdate_staysWithin vin iin pin holdup rails s
  | tempUpdate sensors => exact execTempUpdate_staysWithin sensors s
  | thermalTrip tj => exact execThermalTrip_staysWithin tj s
  | tripRestart tj => exact execTripRestart_staysWithin tj s
  | pciePerst => exact execPciePerst_staysWithin s
  | linkTrainingStart => exact execLinkTrainingStart_staysWithin s
  | registerWrite ag addr be d => exact agentWrite_staysWithin ag addr.toNat be d s
  | rcRead ag addr be => exact agentRead_staysWithin ag addr.toNat be s
  | aliasWrite ag page bit d => exact agentWrite_staysWithin ag (aliasOff page bit) 0xF d s
  | aliasRead ag page bit => exact agentRead_staysWithin ag (aliasOff page bit) 0xF s
  | lockWrite ag page d => exact agentWrite_staysWithin ag (page.toNat * 0x1000 + 0x1C) 0xF d s
  | intForce ag page d => exact agentWrite_staysWithin ag (page.toNat * 0x1000 + 0x18) 0xF d s
  | counterLoRead ag addr => exact agentRead_staysWithin ag addr.toNat 0xF s
  | counterHiRead ag addr => exact agentRead_staysWithin ag addr.toNat 0xF s
  | counterHiWrite ag addr d => exact agentWrite_staysWithin ag addr.toNat 0xF d s
  | counterLoWrite ag addr d => exact agentWrite_staysWithin ag addr.toNat 0xF d s
  | interruptLineUpdate => exact execInterruptLineUpdate_staysWithin s
  | msixMessage fn vec => exact execMsixMessage_staysWithin fn vec s
  | msixUnmask fn vec => exact execMsixUnmask_staysWithin fn vec s
  | msixEnable fn => exact execMsixEnable_staysWithin fn s
  | irqEoi ag d => exact execIrqEoi_staysWithin ag d s
  | indWrite ag win reg d => exact agentWrite_staysWithin ag (4 * winRegAddr win reg) 0xF d s
  | indAddrApply win => exact execIndAddrApply_staysWithin win s
  | indDataApply win => exact execIndDataApply_staysWithin win s
  | indCtrlApply win => exact execIndCtrlApply_staysWithin win s
  | indTargetTaken win => exact execIndTargetTaken_staysWithin win s
  | indReadReady win => exact execIndReadReady_staysWithin win s
  | indDataRead ag win again => exact execIndDataRead_staysWithin ag win again s
  | indStatusRead ag win => exact execIndStatusRead_staysWithin ag win s
  | indTimeout win => exact execIndTimeout_staysWithin win s
  | mboxQWr ag ch q d => exact agentWrite_staysWithin ag (4 * Reg.MBOX_Q_WR (mboxNo ch q)) 0xF d s
  | post ag ch q d => exact agentWrite_staysWithin ag (4 * Reg.MBOX_Q_CMD (mboxNo ch q)) 0xF (d ||| 1) s
  | abort ag ch q d => exact agentWrite_staysWithin ag (4 * Reg.MBOX_Q_CMD (mboxNo ch q)) 0xF (d ||| 4) s
  | discard ag ch q d => exact agentWrite_staysWithin ag (4 * Reg.MBOX_Q_CMD (mboxNo ch q)) 0xF (d ||| 2) s
  | mboxQRd ag ch q => exact agentRead_staysWithin ag (4 * Reg.MBOX_Q_RD (mboxNo ch q)) 0xF s
  | mboxArrived ch q => exact execMboxArrived_staysWithin ch q s
  | mboxEmptied ch q => exact execMboxEmptied_staysWithin ch q s
  | mboxIntStatusRead ag n => exact agentRead_staysWithin ag (4 * Reg.MBOX_INT_STATUS n) 0xF s
  | dlnLaneEnable ag lane d => exact dlnLaneCtrlWrite_staysWithin ag lane (d ||| 1) s
  | laneDisable ag lane d => exact execLaneDisable_staysWithin ag lane d s
  | txReady lane => exact execTxReady_staysWithin lane s
  | signal lane => exact execSignal_staysWithin lane s
  | cdrLock lane => exact execCdrLock_staysWithin lane s
  | coarseDone lane vals => exact execCoarseDone_staysWithin lane vals s
  | aligned lane slip => exact execAligned_staysWithin lane slip s
  | los lane cdrLost => exact execLos_staysWithin lane cdrLost s
  | alignLost lane => exact execAlignLost_staysWithin lane s
  | adaptRestart ag lane d => exact dlnLaneCtrlWrite_staysWithin ag lane (d ||| 0x80#32) s
  | densityWindowEnd lane transitions vals => exact execDensityWindowEnd_staysWithin lane transitions vals s
  | adaptHoldWrite ag lane d => exact dlnLaneCtrlWrite_staysWithin ag lane d s
  | dlnPresetStage win lane d => exact execDlnPresetStage_staysWithin win lane d s
  | dlnPresetApply win lane d => exact execDlnPresetApply_staysWithin win lane d s
  | alnPresetWrite win lane d => exact execAlnPresetWrite_staysWithin win lane d s
  | boundWrite win lane word d => exact execBoundWrite_staysWithin win lane word d s
  | loopbackChange ag lane d => exact execLoopbackChange_staysWithin ag lane d s
  | txpllLock pll => exact execTxpllLock_staysWithin pll s
  | txpllUnlock pll => exact execTxpllUnlock_staysWithin pll s
  | prbsGenSet ag lane d => exact prbsWrite_staysWithin ag lane d s
  | prbsCheckerLock lane hist words => exact execPrbsCheckerLock_staysWithin lane hist words s
  | prbsLost lane words => exact execPrbsLost_staysWithin lane words s
  | chkReseed ag lane d => exact prbsWrite_staysWithin ag lane (d ||| 0x10000#32) s
  | injOne ag lane d => exact execInjOne_staysWithin ag lane d s
  | errInjPeriodExpire lane => exact execErrInjPeriodExpire_staysWithin lane s
  | feSlip lane fill => exact execFeSlip_staysWithin lane fill s
  | alnLaneEnable ag lane d => exact alnCtrlWrite_staysWithin ag lane (d ||| 1) s
  | syncAcq lane bitSlip => exact execSyncAcq_staysWithin lane bitSlip s
  | syncLost lane => exact execSyncLost_staysWithin lane s
  | resync ag lane d => exact alnCtrlWrite_staysWithin ag lane (d ||| 0x1000#32) s
  | alnCodeGroupReceive lane slot atBoundary group => exact execAlnCodeGroupReceive_staysWithin lane slot atBoundary group s
  | anDone lane => exact execAnDone_staysWithin lane s
  | formatWrite ag d => exact execFormatWrite_staysWithin ag d s
  | applyInc ag d => exact tbaseCmdWrite_staysWithin ag (d ||| 1) s
  | step ag d => exact tbaseCmdWrite_staysWithin ag (d ||| 2) s
  | load ag d => exact tbaseCmdWrite_staysWithin ag (d ||| 4) s
  | snap ag d => exact tbaseCmdWrite_staysWithin ag (d ||| 8) s
  | snapDone => exact execSnapDone_staysWithin s
  | cancel ag d => exact tbaseCmdWrite_staysWithin ag (d ||| 16) s
  | clrOutage ag d => exact tbaseCmdWrite_staysWithin ag (d ||| 32) s
  | cmdDone => exact execCmdDone_staysWithin s
  | txtsRecordWrite id => exact execTxtsRecordWrite_staysWithin id s
  | txtsPop ag d => exact execTxtsPop_staysWithin ag d s
  | outputEdge k => exact execOutputEdge_staysWithin k s
  | outputEnable ag k d => exact outCtrlWrite_staysWithin ag k (d ||| 1) s
  | outputDisable ag k d => exact outCtrlWrite_staysWithin ag k (d &&& ~~~1) s
  | realign ag k d => exact execRealign_staysWithin ag k d s
  | outParamWrite ag k which d => exact execOutParamWrite_staysWithin ag k which d s
  | metResult cell code coarse => exact execMetResult_staysWithin cell code coarse s
  | checkWindowEnd => exact execCheckWindowEnd_staysWithin s
  | meanValidTimeout slot => exact execMeanValidTimeout_staysWithin slot s
  | metCommit ag d => exact execMetCommit_staysWithin ag d s
  | schedCommit => exact execSchedCommit_staysWithin s
  | metSrcCfgWrite ag slot d => exact execMetSrcCfgWrite_staysWithin ag slot d s
  | tableLoad ag d => exact execTableLoad_staysWithin ag d s
  | tableExchange cell => exact execTableExchange_staysWithin cell s
  | cdStart ag d => exact execCdStart_staysWithin ag d s
  | cdDone cell => exact execCdDone_staysWithin cell s
  | cellReturn ag d => exact execCellReturn_staysWithin ag d s
  | metExtEnWrite ag d => exact execMetExtEnWrite_staysWithin ag d s
  | extRefUp periods => exact execExtRefUp_staysWithin periods s
  | extRefDown since edge => exact execExtRefDown_staysWithin since edge s
  | arm ag d => exact extCmdWrite_staysWithin ag (d ||| 1) s
  | extGateEdge rising => exact execExtGateEdge_staysWithin rising s
  | extStartEdge onDie rising code coarse => exact execExtStartEdge_staysWithin onDie rising code coarse s
  | extStopEdge src rising code coarse => exact execExtStopEdge_staysWithin src rising code coarse s
  | extDone => exact execExtDone_staysWithin s
  | extTimeout => exact execExtTimeout_staysWithin s
  | abandon ag d => exact extCmdWrite_staysWithin ag (d ||| 2) s
  | metExtPop ag d => exact extCmdWrite_staysWithin ag (d ||| 4) s
  | asymUpdate ag slot mpd d => exact execAsymUpdate_staysWithin ag slot mpd d s
  | mpllLock counts vtune => exact execMpllLock_staysWithin counts vtune s
  | mpllSearchTimeout => exact execMpllSearchTimeout_staysWithin s
  | mpllLol => exact execMpllLol_staysWithin s
  | mpllRelock ag d => exact loopCmdWrite_staysWithin ag (d ||| 16) s
  | handback => exact execHandback_staysWithin s
  | xoLoss => exact execXoLoss_staysWithin s
  | xoReturn => exact execXoReturn_staysWithin s
  | keeperAlignDone => exact execKeeperAlignDone_staysWithin s
  | refSample ix x => exact execRefSample_staysWithin ix x s
  | refPresenceChange ix present => exact execRefPresenceChange_staysWithin ix present s
  | refinWindowEnd k edges => exact execRefinWindowEnd_staysWithin k edges s
  | refFreqWindowEnd ix freq => exact execRefFreqWindowEnd_staysWithin ix freq s
  | refQualified ix => exact execRefQualified_staysWithin ix s
  | refCfgWrite ag ix which d => exact execRefCfgWrite_staysWithin ag ix which d s
  | selectionEval => exact execSelectionEval_staysWithin s
  | locked => exact execLocked_staysWithin s
  | hoHistoryAppend => exact execHoHistoryAppend_staysWithin s
  | holdoverTick => exact execHoldoverTick_staysWithin s
  | disputeSlope ag d => exact loopCmdWrite_staysWithin ag (d ||| 1) s
  | disputeStep ag d => exact loopCmdWrite_staysWithin ag (d ||| 2) s
  | disputeReject ag d => exact loopCmdWrite_staysWithin ag (d ||| 4) s
  | adjGo ag d => exact loopCmdWrite_staysWithin ag (d ||| 8) s
  | clrHistory ag d => exact loopCmdWrite_staysWithin ag (d ||| 32) s
  | disqualify ag ix d => exact refCmdWrite_staysWithin ag ix (d ||| 1) s
  | restore ag ix d => exact refCmdWrite_staysWithin ag ix (d ||| 2) s
  | clkoutEnable ag k d => exact clkoutCtrlWrite_staysWithin ag k (d ||| 1) s
  | clkoutDisable ag k d => exact clkoutCtrlWrite_staysWithin ag k (d &&& ~~~1) s
  | clkoutRealign ag k d => exact clkoutCtrlWrite_staysWithin ag k (d ||| 4) s
  | clkoutAlignEdge k => exact execClkoutAlignEdge_staysWithin k s
  | lockAUpdate => exact execLockAUpdate_staysWithin s
  | lockAEnWrite ag d => exact execLockAEnWrite_staysWithin ag d s
  | skyEnWrite ag d => exact execSkyEnWrite_staysWithin ag d s
  | skyClkMeas hz => exact execSkyClkMeas_staysWithin hz s
  | clkFault => exact execClkFault_staysWithin s
  | skyEpochStamp count => exact execSkyEpochStamp_staysWithin count s
  | auxEdge => exact execAuxEdge_staysWithin s
  | skyChannelStart win ch d count => exact execSkyChannelStart_staysWithin win ch d count s
  | skyChannelStop win ch d => exact execSkyChannelStop_staysWithin win ch d s
  | skyNcoWrite win ch which d => exact execSkyNcoWrite_staysWithin win ch which d s
  | skyDump ch count samples => exact execSkyDump_staysWithin ch count samples s
  | bitSync ch => exact execBitSync_staysWithin ch s
  | skyLnavWord ch => exact execSkyLnavWord_staysWithin ch s
  | skyInavPage ch => exact execSkyInavPage_staysWithin ch s
  | ringTick count => exact execRingTick_staysWithin count s
  | skySnapGo ag d => exact execSkySnapGo_staysWithin ag d s
  | skySnapDone first samples => exact execSkySnapDone_staysWithin first samples s
  | submit ag d => exact execSubmit_staysWithin ag d s
  | skyFixTimeout => exact execSkyFixTimeout_staysWithin s
  | skyLockShortfall => exact execSkyLockShortfall_staysWithin s
  | skyDelivery => exact execSkyDelivery_staysWithin s
  | prfTempUpdate now => exact execPrfTempUpdate_staysWithin now s
  | prfStart ag d => exact prfCmdWrite_staysWithin ag (d ||| 1) s
  | prfInterval => exact execPrfInterval_staysWithin s
  | runStart => exact execRunStart_staysWithin s
  | prfAbort ag d => exact prfCmdWrite_staysWithin ag (d ||| 2) s
  | clrPending ag d => exact prfCmdWrite_staysWithin ag (d ||| 4) s
  | portEnable ag p d => exact portCfgWrite_staysWithin ag p (d ||| 1) s
  | macFrameReceive src id bytes overflow arr => exact execMacFrameReceive_staysWithin src id bytes overflow arr s
  | pauseReceive p bytes => exact controlReceive_staysWithin p bytes 0x0001 s
  | pfcReceive p bytes => exact controlReceive_staysWithin p bytes 0x0101 s
  | pauseExpire p pri => exact execPauseExpire_staysWithin p pri s
  | pfcRefresh p pri => exact execPfcRefresh_staysWithin p pri s
  | linkUp p => exact execLinkUp_staysWithin p s
  | linkDown p cause => exact execLinkDown_staysWithin p cause s
  | laneFail p => exact execLaneFail_staysWithin p s
  | lingerExpired p => exact execLingerExpired_staysWithin p s
  | recoveryEnd p => exact execRecoveryEnd_staysWithin p s
  | portDisable ag p d => exact portCfgWrite_staysWithin ag p (d &&& ~~~1) s
  | pipelineLookup src id head slot => exact execPipelineLookup_staysWithin src id head slot s
  | injDescriptor => exact execInjDescriptor_staysWithin s
  | fwdHinjDataWrite ag d => exact execFwdHinjDataWrite_staysWithin ag d s
  | send ag d => exact execSend_staysWithin ag d s
  | trapWrite id => exact execTrapWrite_staysWithin id s
  | fwdStageWrite win waddr d => exact execFwdStageWrite_staysWithin win waddr d s
  | commit ag d => exact commitCmdWrite_staysWithin ag (d ||| 1) s
  | commitCheckEnd ecc devs => exact execCommitCheckEnd_staysWithin ecc devs s
  | commitCycle => exact execCommitCycle_staysWithin s
  | commitDone => exact execCommitDone_staysWithin s
  | fwdDiscard ag d => exact commitCmdWrite_staysWithin ag (d ||| 2) s
  | admissionDecision id => exact execAdmissionDecision_staysWithin id s
  | sliceWrite id slice bytes => exact execSliceWrite_staysWithin id slice bytes s
  | quarantineEnd p => exact execQuarantineEnd_staysWithin p s
  | allocRecompute => exact execAllocRecompute_staysWithin s
  | auditPass xlinks => exact execAuditPass_staysWithin xlinks s
  | reclaimAll ag d => exact execReclaimAll_staysWithin ag d s
  | selection p corrupt stamp => exact execSelection_staysWithin p corrupt stamp s
  | egressHandover id => exact execEgressHandover_staysWithin id s
  | frameTransmitEnd id corrupt => exact execFrameTransmitEnd_staysWithin id corrupt s
  | shaperRefresh => exact execShaperRefresh_staysWithin s
  | forgive ag d => exact execForgive_staysWithin ag d s
  | policerRefresh => exact execPolicerRefresh_staysWithin s
  | polCfgWrite ag ix d => exact execPolCfgWrite_staysWithin ag ix d s
  | walkStart => exact execWalkStart_staysWithin s
  | sampleQueueRecord => exact execSampleQueueRecord_staysWithin s
  | evtCounterReload k => exact execEvtCounterReload_staysWithin k s
  | slotEnWrite ag d => exact slotCmdWrite_staysWithin ag d s
  | slotSnap ag d => exact slotCmdWrite_staysWithin ag (d ||| 2) s
  | slotClear ag d => exact slotCmdWrite_staysWithin ag (d ||| 4) s
  | dump => exact execDump_staysWithin s
  | tagRecordCopy r => exact execTagRecordCopy_staysWithin r s
  | dmaResume fn => exact execDmaResume_staysWithin fn s
  | helloSend k => exact execHelloSend_staysWithin k s
  | syncSend k j => exact execSyncSend_staysWithin k j s
  | helloReceive k bytes codeErr => exact execHelloReceive_staysWithin k bytes codeErr s
  | syncReceive k bytes codeErr j ago => exact execSyncReceive_staysWithin k bytes codeErr j ago s
  | stateReceive k bytes codeErr => exact execStateReceive_staysWithin k bytes codeErr s
  | prepare k bytes codeErr => exact execPrepare_staysWithin k bytes codeErr s
  | ready k bytes codeErr => exact execReady_staysWithin k bytes codeErr s
  | refuse k bytes codeErr => exact execRefuse_staysWithin k bytes codeErr s
  | xstepCommit k bytes codeErr => exact execXstepCommit_staysWithin k bytes codeErr s
  | xstepAbort k bytes codeErr => exact execXstepAbort_staysWithin k bytes codeErr s
  | linkSilent k => exact execLinkSilent_staysWithin k s
  | linkCheckLoss k hello sync => exact execLinkCheckLoss_staysWithin k hello sync s
  | interlockPeriod period low => exact execInterlockPeriod_staysWithin period low s
  | hbLost => exact execHbLost_staysWithin s
  | twinObserveDone => exact execTwinObserveDone_staysWithin s
  | splitHoldoffExpire => exact execSplitHoldoffExpire_staysWithin s
  | yield ag d => exact twinCmdWrite_staysWithin ag (d ||| 1) s
  | resume ag d => exact twinCmdWrite_staysWithin ag (d ||| 2) s
  | imageLoad ag d => exact twinCmdWrite_staysWithin ag (d ||| 4) s
  | twinCycleEnd => exact execTwinCycleEnd_staysWithin s
  | twinXchkWindow => exact execTwinXchkWindow_staysWithin s
  | xstepGo ag d => exact xstepCmdWrite_staysWithin ag (d ||| 1) s
  | xstepAbortCmd ag d => exact xstepCmdWrite_staysWithin ag (d ||| 2) s
  | xstepOrphan => exact execXstepOrphan_staysWithin s
  | sidResetCheck => exact execSidResetCheck_staysWithin s
  | enumFrameSend => exact execEnumFrameSend_staysWithin s
  | enumFrameReceive startNs pulses => exact execEnumFrameReceive_staysWithin startNs pulses s
  | enumTimeout => exact execEnumTimeout_staysWithin s
  | reenum ag d => exact execReenum_staysWithin ag d s
  | hrthLoadDataWrite ag d => exact execHrthLoadDataWrite_staysWithin ag d s
  | go ag d => exact execGo_staysWithin ag d s
  | bootVerifyDone => exact execBootVerifyDone_staysWithin s
  | restart ag d => exact execRestart_staysWithin ag d s
  | fuseCmdGo ag d => exact execFuseCmdGo_staysWithin ag d s
  | mgmtBusTransaction bytes read => exact execMgmtBusTransaction_staysWithin bytes read s
  | scrubRead mem addr err who => exact execScrubRead_staysWithin mem addr err who s
  | regParity addr bit => exact execRegParity_staysWithin addr bit s
  | tbaseParity flops => exact execTbaseParity_staysWithin flops s
  | wdogKick ag d => exact execWdogKick_staysWithin ag d s
  | wdogExpire core => exact execWdogExpire_staysWithin core s
  | tapReset => exact execTapReset_staysWithin s
  | tapInstructionUpdate clocks => exact execTapInstructionUpdate_staysWithin clocks s
  | tstAccess dr => exact execTstAccess_staysWithin dr s
  | fuseProg dr => exact execFuseProg_staysWithin dr s
  | fuseDone => exact execFuseDone_staysWithin s
  | pcsLock p pcs fec localFault remoteFault => exact execPcsLock_staysWithin p pcs fec localFault remoteFault s
  | outputPulseEnd k => exact execOutputPulseEnd_staysWithin k s
  | msixMask fn what => exact execMsixMask_staysWithin fn what s

/-- No row lists the queue of waiting commands. -/
theorem pending_not_mem_partsOf (c : Instr) : Part.pending ∉ partsOf c := by
  have h : (partsOf c).contains .pending = false := by cases c <;> rfl
  simpa using h

/-- Settles O57: every command's frame, and the queue is in no row. -/
theorem commandsStayWithinTheirParts : Obligations.CommandsStayWithinTheirParts := by
  intro c s
  obtain ⟨t, he, hm⟩ := exec_staysWithin c s
  exact ⟨t, he, hm.within, hm.within.pending_eq (pending_not_mem_partsOf c)⟩

/-! ### Canonical storage along a step -/

theorem exec_canon {c : Instr} {s t : State} (he : exec c s = .next t) (h : s.Canon) : t.Canon := by
  obtain ⟨u, hu, hm⟩ := exec_staysWithin c s
  cases hu.symm.trans he
  exact hm.canon h

theorem passTclk_canon (n : Nat) {s : State} (h : s.Canon) : (passTclk n s).Canon := by
  have hm : Moves [.regs, .clk, .tb, .loop, .sky, .tlm, .twin] s (passTclk n s) := by
    apply passTclk_moves (.refl _ _) .. <;> exact listed rfl
  exact hm.canon h

/-- Settles O58: a step runs the front command, whose frame keeps storage canonical, or passes one cycle of TCLK. -/
theorem storageStaysCanonical : Obligations.StorageStaysCanonical := by
  intro s t h he
  unfold step at he
  split at he
  · exact exec_canon he h
  · cases he
    exact passTclk_canon 1 h

end Sys2Proof.Machine
end

section
/-!
SUPPORT. The state after reset (R11, R522 to R525): what an indirect word and a register of an array read, and the invariants.
-/
namespace Sys2Proof.Machine
set_option Elab.async false

/-- Nothing is listed after reset, so a word reads as its domain gives it. -/
theorem reset_indw (d w : Nat) : State.reset.indw d w = indReset (indKey d w) := rfl

/-- The reset value of an indirect word, by its domain and its address there (R119, R120, R221, R306, R461). -/
theorem indReset_indKey (d : Nat) {w : Nat} (h : w < 2 ^ 24) : indReset (indKey d w) =
    if d = 2 then dlnWordReset (w % 32)
    else if d = 3 then alnWordReset (w % 16)
    else if d = 5 ∧ w % 16 = 1 ∧ w < 1024 then 0x1008
    else if d = 7 ∧ w % 8 = 2 ∧ w < 0xCC00 then 0x4000
    else if d = 7 ∧ w % 8 = 4 ∧ w < 0xC000 then 0x2414
    else if d = 4 ∧ w / 0x1000 % 4 = 0 then BitVec.ofNat 32 (256 * (w % 0x1000))
    else 0 := by
  have hd : (d * 2 ^ 24 + w) / 2 ^ 24 = d := by omega
  have hw : (d * 2 ^ 24 + w) % 2 ^ 24 = w := by omega
  have h32 : (d * 2 ^ 24 + w) % 32 = w % 32 := by omega
  have h16 : (d * 2 ^ 24 + w) % 16 = w % 16 := by omega
  have h8 : (d * 2 ^ 24 + w) % 8 = w % 8 := by omega
  have h12 : (d * 2 ^ 24 + w) % 0x1000 = w % 0x1000 := by omega
  rw [indReset, indKey, hd, hw, h32, h16, h8, h12]
  rfl

theorem reset_indw_data (n : Fin 768) : (List.range 6).map (fun i => State.reset.indw 2 (32 * n + i)) =
    [0x00F80000, 0x78, 0x3F001F00, 0x3FC03FC0, 0x3FC03FC0, 0] := by
  have h : ∀ i < 6, State.reset.indw 2 (32 * n + i) = dlnWordReset i := fun i hi => by
    rw [reset_indw, indReset_indKey 2 (by omega), if_pos rfl, Nat.mul_add_mod, Nat.mod_eq_of_lt (by omega)]
  exact (List.map_congr_left fun i hi => h i (List.mem_range.1 hi)).trans rfl

theorem reset_indw_aux (m : Fin 32) : (List.range 3).map (fun i => State.reset.indw 3 (16 * m + i)) = [0x00F07000, 0x2004, 0] := by
  have h : ∀ i < 3, State.reset.indw 3 (16 * m + i) = alnWordReset i := fun i hi => by
    rw [reset_indw, indReset_indKey 3 (by omega), if_neg (by decide), if_pos rfl, Nat.mul_add_mod, Nat.mod_eq_of_lt (by omega)]
  exact (List.map_congr_left fun i hi => h i (List.mem_range.1 hi)).trans rfl

/-- After reset the first bank of every cell holds the nominal table (R221). -/
theorem reset_indw_bank (c : Fin 32) (i : Fin 4096) : State.reset.indw 4 (0x4000 * c + i) = BitVec.ofNat 32 (256 * i) := by
  have hb : (0x4000 * c.val + i) / 0x1000 % 4 = 0 := by omega
  have hi : (0x4000 * c.val + i) % 0x1000 = i := by omega
  rw [reset_indw, indReset_indKey 4 (by omega), hi]
  simp [hb]

theorem reset_indw_channel (c : Fin 64) : State.reset.indw 5 (16 * c + 1) = 0x1008 ∧ State.reset.indw 5 (16 * c) = 0 := by
  have h1 : (16 * c.val + 1) % 16 = 1 ∧ 16 * c.val + 1 < 1024 := by omega
  rw [reset_indw, reset_indw, indReset_indKey 5 (by omega), indReset_indKey 5 (by omega)]
  simp [h1]

theorem reset_indw_queueShaper (g : Fin 6144) :
    State.reset.indw 7 (8 * g + 2) = 0x4000 ∧ State.reset.indw 7 (8 * g + 4) = 0x2414 ∧ State.reset.indw 7 (8 * g) = 0 := by
  have h2 : (8 * g.val + 2) % 8 = 2 ∧ 8 * g.val + 2 < 0xCC00 := by omega
  have h4 : (8 * g.val + 4) % 8 = 4 ∧ 8 * g.val + 4 < 0xC000 := by omega
  rw [reset_indw, reset_indw, reset_indw, indReset_indKey 7 (by omega), indReset_indKey 7 (by omega), indReset_indKey 7 (by omega)]
  simp [h2, h4]

theorem reset_indw_portShaper {g : Nat} (hl : 6144 ≤ g) (hg : g < 6528) :
    State.reset.indw 7 (8 * g + 2) = 0x4000 ∧ State.reset.indw 7 (8 * g + 4) = 0 := by
  have h2 : (8 * g + 2) % 8 = 2 ∧ 8 * g + 2 < 0xCC00 := by omega
  have h4 : (8 * g + 4) % 8 = 4 ∧ ¬8 * g + 4 < 0xC000 := by omega
  rw [reset_indw, reset_indw, indReset_indKey 7 (by omega), indReset_indKey 7 (by omega)]
  simp [h2, h4]

theorem reset_indw_zero {d w : Nat} (hd : d ∈ [1, 6, 8]) (hw : w < 2 ^ 24) : State.reset.indw d w = 0 := by
  rw [reset_indw, indReset_indKey d hw]
  fin_cases hd <;> simp

/-- A port's SCHD_PORT_CFG is the register at its place, on the page of the port's group of 128. -/
theorem regDef_schdPortCfg {p : Nat} (h : p < 384) : regDef? (Reg.SCHD_PORT_CFG p) = some (Rd.SCHD_PORT_CFG, p) := by
  have hg : Reg.SCHD_PORT_CFG p / 1024 = 0x4c1 + p / 128 := by unfold Reg.SCHD_PORT_CFG; omega
  have ho : Reg.SCHD_PORT_CFG p % 1024 = 0x10 + 4 * (p % 128) := by unfold Reg.SCHD_PORT_CFG; omega
  have hpage : pageRow (0x4c1 + p / 128) = some ⟨0x4c1, 3, 0xc, 0x4c0, rowsOf4C1⟩ := by
    obtain e | e | e : p / 128 = 0 ∨ p / 128 = 1 ∨ p / 128 = 2 := by omega
    all_goals rw [e]; rfl
  have hrow : findRow (p / 128) (0x10 + 4 * (p % 128)) rowsOf4C1 = some (Rd.SCHD_PORT_CFG, p) := by
    have hk : 4 * (p % 128) / 4 = p % 128 ∧ 4 * (p % 128) % 4 = 0 := by omega
    have hi : p / 128 * 128 + p % 128 = p := by omega
    have hp : p / 128 < 3 := by omega
    simp [rowsOf4C1, findRow, hk, hi, hp, h, Nat.mod_lt]
  unfold regDef?
  rw [hg, ho, hpage]
  simp only [Nat.add_sub_cancel_left, hrow]

theorem reset_strictN (p : Fin 384) : State.reset.fld (F.SCHD_PORT_CFG_STRICT_N p) = 1 := by
  have h : State.reset.reg (Reg.SCHD_PORT_CFG p) = 0x1405 := by
    change regReset _ = _
    rw [regReset, regDef_schdPortCfg p.isLt]
    rfl
  exact congrArg (bits · 2 3) h

theorem reset_canon : State.reset.Canon := ⟨SMapWf.nil _, SMapWf.nil _, SMapWf.nil _, SMapWf.nil _⟩

theorem reset_powerOk : State.reset.PowerOk := by decide

/-- No frame is in the part after reset. -/
theorem reset_framesFit : State.reset.FramesFit := fun _ f h => nomatch (show (none : Option Frame) = some f from h)

/-- Settles O56: nothing is listed in the storage after reset, so each word reads as its table gives it. -/
theorem theStateAfterReset : Obligations.TheStateAfterReset :=
  ⟨reset_canon, reset_powerOk, reset_framesFit, rfl, rfl, rfl, rfl, fun _ => rfl, fun _ => rfl, fun _ => rfl, rfl, fun _ => rfl,
    reset_indw_data, reset_indw_aux, reset_indw_bank, reset_indw_channel, reset_indw_queueShaper, fun _ => reset_indw_portShaper,
    fun _ hd _ => reset_indw_zero hd, reset_strictN, rfl, rfl, rfl⟩

end Sys2Proof.Machine
end

section
/-!
SUPPORT. Registers that the operations on the roles and the coasting of the loop leave alone, in the form `RegsKeep`, and with them what a
reset of the main domain wipes.
-/
namespace Sys2Proof.Machine
set_option Elab.async false

section
variable {as : List Nat} {s0 s t : State}

theorem RegsKeep.fld_eq (h : RegsKeep as s t) (f : Fld) (n : f.addr ∉ as) : t.fld f = s.fld f := by
  rw [State.fld, (h f.addr n).1, State.fld]

theorem RegsKeep.flag_eq (h : RegsKeep as s t) (f : Fld) (n : f.addr ∉ as) : t.flag f = s.flag f := by
  rw [State.flag, h.fld_eq f n, State.flag]

/-- An operation whose parts hold no register. -/
theorem RegsKeep.of_moves {cs : List Part} (h : Moves cs s t) (n : Part.regs ∉ cs := by decide) : RegsKeep as s t :=
  (RegsKeep.refl as s).of_regs (h.within.regs_eq n) (h.within.again_eq n)

theorem RegsKeep.ite {p : Prop} [Decidable p] (h : RegsKeep as s0 s) (g : RegsKeep as s0 t) : RegsKeep as s0 (if p then s else t) := by
  split
  · exact h
  · exact g

theorem RegsKeep.foldl {α : Type} (l : List α) (f : State → α → State)
    (hf : ∀ x ∈ l, ∀ s, RegsKeep as s0 s → RegsKeep as s0 (f s x)) (h : RegsKeep as s0 s) : RegsKeep as s0 (l.foldl f s) := by
  induction l generalizing s with
  | nil => exact h
  | cons x l ih =>
    exact ih (fun y hy => hf y (List.mem_cons_of_mem _ hy)) (hf x (List.mem_cons_self ..) s h)

theorem RegsKeep.forUpto (n : Nat) (f : Nat → State → State) (hf : ∀ i < n, ∀ s, RegsKeep as s0 s → RegsKeep as s0 (f i s))
    (h : RegsKeep as s0 s) : RegsKeep as s0 (forUpto n f s) :=
  RegsKeep.foldl _ _ (fun i hi => hf i (List.mem_range.1 hi)) h

end

/-! ### Roles -/

section
variable {as : List Nat} {s0 s : State}

theorem RegsKeep.settleCover (h : RegsKeep as s0 s) (m : Reg.FLT_LIVE ∈ as) (n : Reg.FLT_INT_STATUS ∈ as) :
    RegsKeep as s0 (settleCover s) :=
  ((((((h.setFlag _ _ m).setFlag _ _ m).setFlag _ _ m).setFlag _ _ m).setFlag _ _ m).raiseIf _ _ fun _ => n)

theorem RegsKeep.settleGates (h : RegsKeep as s0 s) : RegsKeep as s0 (settleGates s) :=
  RegsKeep.forUpto _ _ (fun _ _ _ g => g.updLoop _) h

theorem RegsKeep.xchkBreak (h : RegsKeep as s0 s) : RegsKeep as s0 (xchkBreak s) := h.updTwin _

theorem RegsKeep.leadsAnew (r : Nat) (h : RegsKeep as s0 s) : RegsKeep as s0 (leadsAnew r s) := .ite (h.updTwin _) h

end

/-- The registers in which a change of role shows. -/
def roleRegs : List Nat := [Reg.TWIN_LIVE, Reg.TWIN_INT_STATUS, Reg.FLT_LIVE, Reg.FLT_INT_STATUS]

theorem setRole_regsKeep (r : Nat) (s : State) : RegsKeep roleRegs s (setRole r s) := by
  refine .ite (.refl _ s) (.leadsAnew r (.settleCover (.raiseIf (.settleGates (.xchkBreak ?_)) _ _ fun _ => ?_) ?_ ?_))
  · exact (((RegsKeep.refl _ s).setFld _ _ (by decide)).setFld _ _ (by decide)).raise _ (by decide)
  all_goals decide

theorem yieldPart_regsKeep (s : State) : RegsKeep roleRegs s (yieldPart s) := by
  have h1 : RegsKeep roleRegs s (s.setFlag F.TWIN_LIVE_YIELDING true) := (RegsKeep.refl _ s).setFlag _ _ (by decide)
  exact .ite (h1.trans (setRole_regsKeep 1 _)) h1

/-- The registers that taking the lead may change: a role's, and the build-outs. -/
def leadRegs : List Nat := roleRegs ++ [Reg.LOOP_BT_LO, Reg.LOOP_BT_HI, Reg.LOOP_BT_SUB, Reg.LOOP_BC]

theorem showBuildOuts_regsKeep (s : State) : RegsKeep leadRegs s (showBuildOuts s) := by
  refine RegsKeep.setReg (RegsKeep.setReg (RegsKeep.setReg64 (.refl _ s) _ _ _ ?_ ?_) _ _ ?_) _ _ ?_
  all_goals decide

theorem seedBuildOut_regsKeep (s : State) : RegsKeep leadRegs s (seedBuildOut s) := by
  unfold seedBuildOut
  extract_lets i
  split
  · split
    · exact .trans ((RegsKeep.refl _ s).updLoop _) (showBuildOuts_regsKeep _)
    · exact .refl _ s
  · exact .refl _ s

theorem setRole_regsKeep_lead (r : Nat) (s : State) : RegsKeep leadRegs s (setRole r s) :=
  (setRole_regsKeep r s).mono fun _ h => List.mem_append_left _ h

theorem takeLead_regsKeep (s : State) : RegsKeep leadRegs s (takeLead s) :=
  .trans (.ite (seedBuildOut_regsKeep s) (.refl _ s)) (setRole_regsKeep_lead 2 _)

theorem roleEval_regsKeep (s : State) : RegsKeep leadRegs s (roleEval s) := by
  unfold roleEval
  extract_lets r hb ok silent pat pref lead clash s1 peerLeads
  have h1 : RegsKeep leadRegs s s1 := RegsKeep.updTwin ((RegsKeep.refl _ s).raiseIf _ _ fun _ => by decide) _
  clear_value s1 r hb ok silent pat pref lead clash peerLeads
  have hr : ∀ r, RegsKeep leadRegs s (setRole r s1) := fun r => h1.trans (setRole_regsKeep_lead r s1)
  have hl : RegsKeep leadRegs s (takeLead s1) := h1.trans (takeLead_regsKeep s1)
  exact .ite (.ite hl (.ite (.ite hl h1) (.ite (hr 4) (.ite hl (.ite (hr 3) (.ite (hr 1) h1))))))
    (.ite (.ite (hr 1) h1) (.ite (.ite (hr 1) (.ite (hr 5) h1)) (.ite (.ite (hr 1) (.ite hl h1)) h1)))

/-! ### The loop coasts -/

/-- The registers that change as the loop leaves states 0 to 5. -/
def coastRegs : List Nat :=
  [Reg.LOOP_STATUS, Reg.LOOP_INT_STATUS, Reg.LOOP_FREQ_LO, Reg.LOOP_FREQ_HI, Reg.LOOP_HO_FREQ_LO, Reg.LOOP_HO_FREQ_HI,
   Reg.LOOP_HO_DRIFT, Reg.LOOP_HO_TIME] ++ (List.range 23).map Reg.LOOP_REF_ENTRY_PHASE

theorem latchEntry_regsKeep (s : State) : RegsKeep coastRegs s (latchEntry s) :=
  RegsKeep.forUpto _ _ (fun i hi _ h => h.setReg _ _ (List.mem_append_right _ (List.mem_map.2 ⟨i, List.mem_range.2 hi, rfl⟩)))
    (.refl _ s)

theorem formHold_regsKeep (as : List Nat) (s : State) : RegsKeep as s (formHold s) :=
  .of_moves (formHold_moves (.refl [.loop, .free] s) (listed rfl) (listed rfl))

theorem showHold_regsKeep (s : State) : RegsKeep coastRegs s (showHold s) := by
  refine RegsKeep.setReg (RegsKeep.setReg (RegsKeep.setReg64 (.refl _ s) _ _ _ ?_ ?_) _ _ ?_) _ _ ?_
  all_goals decide

theorem enterHoldover_regsKeep (s : State) : RegsKeep coastRegs s (enterHoldover s) :=
  ((latchEntry_regsKeep s).trans (formHold_regsKeep _ _)).trans (showHold_regsKeep _)

theorem setSelected_regsKeep (sel target : Nat) (s : State) : RegsKeep coastRegs s (setSelected sel target s) := by
  unfold setSelected
  extract_lets s1 s2 s3
  have h2 : RegsKeep coastRegs s s2 :=
    (((RegsKeep.refl _ s).setFld _ _ (by decide)).setFld _ _ (by decide)).raiseIf _ _ fun _ => by decide
  have h3 : RegsKeep coastRegs s s3 := .ite h2 h2.xchkBreak
  exact .ite h3 (h3.updLoop _)

theorem noteSel_regsKeep (sel : Option Nat) (s : State) : RegsKeep coastRegs s (noteSel sel s) :=
  ((RegsKeep.refl _ s).updLoop _).raiseIf _ _ fun _ => by decide

theorem setLoopState_regsKeep (st : Nat) (s : State) : RegsKeep coastRegs s (setLoopState st s) := by
  unfold setLoopState
  extract_lets s1 s2 s3
  have h2 : RegsKeep coastRegs s s2 :=
    (((RegsKeep.refl _ s).setFld _ _ (by decide)).setFld _ _ (by decide)).raiseIf _ _ fun _ => by decide
  have h3 : RegsKeep coastRegs s s3 := (h2.updLoop _).setReg _ _ (by decide)
  exact .ite h3 h3.xchkBreak

theorem setY_regsKeep (y : Int) (s : State) : RegsKeep coastRegs s (setY y s) := by
  refine RegsKeep.raiseIf (RegsKeep.setFlag (RegsKeep.setReg64 (.refl _ s) _ _ _ ?_ ?_) _ _ ?_) _ _ fun _ => ?_
  all_goals decide

theorem loopCoast_regsKeep (st : Nat) (s : State) : RegsKeep coastRegs s (loopCoast st s) := by
  unfold loopCoast
  extract_lets old s1 s2 s3
  have h1 : RegsKeep coastRegs s s1 := .ite (enterHoldover_regsKeep s) (.refl _ s)
  clear_value s1
  have h2 : RegsKeep coastRegs s s2 :=
    .ite (((h1.trans (setSelected_regsKeep _ _ _)).trans (noteSel_regsKeep _ _)).setFld _ _ (by decide) |>.updLoop _) h1
  clear_value s2
  have h3 : RegsKeep coastRegs s s3 := h2.trans (setLoopState_regsKeep st s2)
  clear_value s3
  exact .ite (h3.trans (setY_regsKeep _ _)) h3

/-! ### What enters a reset of the main domain -/

/-- The registers that the yield and the coasting may change, and the one that shows a lost time-base command. -/
def shutdownRegs : List Nat := Reg.TBASE_LIVE :: (roleRegs ++ coastRegs)

/-- A reset of the main domain wipes it from a state that differs from the old in the role and the loop alone. -/
theorem mainReset_wipes (cause : ResetCause) (s : State) : ∃ s3 caught,
    Moves [.regs, .loop, .twin, .free] s s3 ∧ RegsKeep shutdownRegs s s3 ∧
      mainReset cause s = ((mainWipe (s3.setFlag F.TBASE_LIVE_OUTAGE true)).updTap fun _ => {}).updPwr fun p =>
        { p with mainUp := false, released := false, latched := caught, lastCause := cause, tempArmed := true } := by
  unfold mainReset
  extract_lets s1 s2 s3 caught
  have hm1 : Moves [.regs, .loop, .twin, .free] s s1 := ite_moves (State.setFlag_moves (.refl _ _) _ _ (listed rfl)) (.refl _ _)
  have hk1 : RegsKeep shutdownRegs s s1 := .ite ((RegsKeep.refl _ s).setFlag _ _ (by decide)) (.refl _ s)
  clear_value s1
  have hm2 : Moves [.regs, .loop, .twin, .free] s s2 := by
    apply ite_moves (yieldPart_moves hm1 ..) (ite_moves (setRole_moves hm1 ..) hm1) <;> exact listed rfl
  have hk2 : RegsKeep shutdownRegs s s2 :=
    .ite (hk1.trans ((yieldPart_regsKeep _).mono (by decide))) (.ite (hk1.trans ((setRole_regsKeep _ _).mono (by decide))) hk1)
  clear_value s2
  have hm3 : Moves [.regs, .loop, .twin, .free] s s3 := by
    apply ite_moves (loopCoast_moves hm2 ..) hm2 <;> exact listed rfl
  have hk3 : RegsKeep shutdownRegs s s3 := .ite (hk2.trans ((loopCoast_regsKeep _ _).mono (by decide))) hk2
  clear_value s3
  exact ⟨s3, caught, hm3, hk3, rfl⟩

end Sys2Proof.Machine
end

section
/-!
SUPPORT. The order of the power domains (R24, R36, R44, R522 to R524). `domains` is the part of the power state that `PowerOk` reads. A register
write reaches the power through the level of the temperature warning alone, so no access of an agent, a window or the test port changes a
domain; the eleven commands that switch one are judged by what they make of the power. O59 follows.
-/
namespace Sys2Proof.Machine
set_option Elab.async false

/-- Every part of the state but the power and the queue. -/
def offPower : List Part :=
  [.regs, .ind, .sram, .hostMem, .clk, .hst, .lanes, .tb, .met, .loop, .sky, .prf, .net, .tlm, .twin, .boot, .tap, .lanePll, .free]

theorem Moves.pwr_eq {s t : State} (h : Moves offPower s t) : t.pwr = s.pwr := h.within.pwr_eq

/-- What a write sets off leaves the power alone, but for the level of the temperature warning. -/
theorem runAct_moves_offPower {k : Act} (h : k ≠ .tempWarn) (ag : Agent) (i a : Nat) (old raw : Word) (s : State) :
    Moves offPower s (runAct k ag i a old raw s) := by
  cases k with dsimp only [runAct]
  | none => exact .refl _ _
  | warnLevel => exact .refl _ _
  | window => exact .refl _ _
  | tempWarn => exact absurd rfl h
  | recWord => exact State.setReg_moves (.refl _ _) _ _ (listed rfl)
  | hinjDesc => exact State.setReg_moves (.refl _ _) _ _ (listed rfl)
  | intForce => exact forUpto_moves _ _ (fun _ _ h => State.raiseIf_moves h _ _ (listed rfl)) _ (.refl _ _)
  | enumCmd => apply actEnumCmd_moves (.refl _ _) .. <;> exact listed rfl
  | irqEoi => apply actIrqEoi_moves (.refl _ _) ..; exact listed rfl
  | mboxWr => apply mboxWr_moves (.refl _ _) .. <;> exact listed rfl
  | mboxCmd => apply mboxCmd_moves (.refl _ _) .. <;> exact listed rfl
  | dlnLaneCtrl => apply actDlnLaneCtrl_moves (.refl _ _) .. <;> exact listed rfl
  | dlnPrbs => apply actPrbs_moves (.refl _ _) .. <;> exact listed rfl
  | dlnErrInj => apply actErrInj_moves (.refl _ _) ..; exact listed rfl
  | alnCtrl => apply actAlnPort_moves (.refl _ _) .. <;> exact listed rfl
  | rawTx => apply actRawTx_moves (.refl _ _) .. <;> exact listed rfl
  | alnPrbs => apply actPrbs_moves (.refl _ _) .. <;> exact listed rfl
  | alnErrInj => apply actErrInj_moves (.refl _ _) ..; exact listed rfl
  | tbaseCtrl => apply actTbaseCtrl_moves (.refl _ _) ..; exact listed rfl
  | tbaseCmd => apply actTbaseCmd_moves (.refl _ _) .. <;> exact listed rfl
  | txtsPop => apply actTxtsPop_moves (.refl _ _) ..; exact listed rfl
  | outCtrl => apply actOutCtrl_moves (.refl _ _) .. <;> exact listed rfl
  | outPeriod => apply actOutPeriod_moves (.refl _ _) ..; exact listed rfl
  | outWidth => apply actOutWidth_moves (.refl _ _) ..; exact listed rfl
  | outCmd => apply actOutCmd_moves (.refl _ _) .. <;> exact listed rfl
  | bankCtrl => apply actBankCtrl_moves (.refl _ _) .. <;> exact listed rfl
  | cellProof => apply actCellProof_moves (.refl _ _) .. <;> exact listed rfl
  | cellReturn => apply actCellReturn_moves (.refl _ _) .. <;> exact listed rfl
  | cdStart => apply actCdStart_moves (.refl _ _) .. <;> exact listed rfl
  | tableLoad => apply actTableLoad_moves (.refl _ _) .. <;> exact listed rfl
  | extCtrl => apply actExtCtrl_moves (.refl _ _) ..; exact listed rfl
  | extCmd => apply actExtCmd_moves (.refl _ _) .. <;> exact listed rfl
  | srcCfg => apply actSrcCfg_moves (.refl _ _) .. <;> exact listed rfl
  | asym => apply actAsym_moves (.refl _ _) ..; exact listed rfl
  | hoCtrl => apply actHoCtrl_moves (.refl _ _) .. <;> exact listed rfl
  | loopCmd => apply actLoopCmd_moves (.refl _ _) .. <;> exact listed rfl
  | lockA => apply actLockA_moves (.refl _ _) ..; exact listed rfl
  | refCfg => apply actRefCfg_moves (.refl _ _) .. <;> exact listed rfl
  | refFreqHz => apply actRefFreqHz_moves (.refl _ _) .. <;> exact listed rfl
  | refDelay => apply actRefDelay_moves (.refl _ _) ..; exact listed rfl
  | refCmd => apply actRefCmd_moves (.refl _ _) .. <;> exact listed rfl
  | clkoutCtrl => apply actClkoutCtrl_moves (.refl _ _) ..; exact listed rfl
  | skyCtrl => apply actSkyCtrl_moves (.refl _ _) .. <;> exact listed rfl
  | skyClkHz => apply actSkyClkHz_moves (.refl _ _) ..; exact listed rfl
  | skySnap => apply actSkySnap_moves (.refl _ _) .. <;> exact listed rfl
  | skyFix => apply actSkyFix_moves (.refl _ _) .. <;> exact listed rfl
  | prfCmd => apply actPrfCmd_moves (.refl _ _) .. <;> exact listed rfl
  | portCfg => apply actPortCfg_moves (.refl _ _) .. <;> exact listed rfl
  | commitCmd => apply actCommitCmd_moves (.refl _ _) .. <;> exact listed rfl
  | hinjData => apply actHinjData_moves (.refl _ _) ..; exact listed rfl
  | hinjCmd => apply actHinjCmd_moves (.refl _ _) .. <;> exact listed rfl
  | bufAudit => apply actBufAudit_moves (.refl _ _) .. <;> exact listed rfl
  | bufUsed => apply actBufUsed_moves (.refl _ _) ..; exact listed rfl
  | bufXoff => apply actBufXoff_moves (.refl _ _) .. <;> exact listed rfl
  | bufPortCfg => apply actBufPortCfg_moves (.refl _ _) .. <;> exact listed rfl
  | forgive => apply actForgive_moves (.refl _ _) ..; exact listed rfl
  | sampleCtrl => apply actSampleCtrl_moves (.refl _ _) ..; exact listed rfl
  | polCfg => apply actPolCfg_moves (.refl _ _) .. <;> exact listed rfl
  | tagCtrl => apply actTagCtrl_moves (.refl _ _) ..; exact listed rfl
  | dmaCtrl => apply actDmaCtrl_moves (.refl _ _) .. <;> exact listed rfl
  | slotCmd => apply actSlotCmd_moves (.refl _ _) ..; exact listed rfl
  | twinCtrl => apply actTwinCtrl_moves (.refl _ _) .. <;> exact listed rfl
  | pairCfg => apply actPairCfg_moves (.refl _ _) ..; exact listed rfl
  | roleGate => apply actRoleGate_moves (.refl _ _) ..; exact listed rfl
  | twinCmd => apply actTwinCmd_moves (.refl _ _) .. <;> exact listed rfl
  | stackCfg => apply actStackCfg_moves (.refl _ _) .. <;> exact listed rfl
  | xstepCmd => apply actXstepCmd_moves (.refl _ _) .. <;> exact listed rfl
  | sidCfg => apply actSidCfg_moves (.refl _ _) .. <;> exact listed rfl
  | loadAddr => apply actLoadAddr_moves (.refl _ _) ..; exact listed rfl
  | loadData => apply actLoadData_moves (.refl _ _) .. <;> exact listed rfl
  | bootCmd => apply actBootCmd_moves (.refl _ _) .. <;> exact listed rfl
  | fuseCmd => apply actFuseCmd_moves (.refl _ _) .. <;> exact listed rfl
  | fltCfg => apply actFltCfg_moves (.refl _ _) ..; exact listed rfl
  | wdogKick => apply actWdogKick_moves (.refl _ _) ..; exact listed rfl
/-! ### What orders the domains -/

/-- The part of the power state that `PowerOk` speaks of; the rest of it at its values before the first start. -/
def domains (p : PwrSt) : PwrSt :=
  { stageOn := p.stageOn, railsGood := p.railsGood, released := p.released, ovenUp := p.ovenUp, oclkUp := p.oclkUp,
    mainUp := p.mainUp, tripped := p.tripped }

/-- The domains are on and off as before. -/
def SameDomains (s t : State) : Prop := domains t.pwr = domains s.pwr

theorem SameDomains.of_eq {s t : State} (h : t.pwr = s.pwr) : SameDomains s t := congrArg domains h

theorem SameDomains.of_moves {s t : State} (h : Moves offPower s t) : SameDomains s t := .of_eq h.pwr_eq

theorem SameDomains.refl (s : State) : SameDomains s s := rfl

theorem SameDomains.trans {s t u : State} (h : SameDomains s t) (g : SameDomains t u) : SameDomains s u := Eq.trans g h

theorem SameDomains.ite {p : Prop} [Decidable p] {s t u : State} (h : SameDomains s t) (g : SameDomains s u) :
    SameDomains s (if p then t else u) := by
  split
  · exact h
  · exact g

/-- `PowerOk` reads nothing of the state but its domains. -/
theorem SameDomains.powerOk {s t : State} (h : SameDomains s t) (hs : s.PowerOk) : t.PowerOk := by
  have hd : ({ State.reset with pwr := domains s.pwr } : State).PowerOk := hs
  rw [← h] at hd
  exact hd

/-- A change of other fields of the power state. -/
theorem SameDomains.updPwr {s t : State} (h : SameDomains s t) {f : PwrSt → PwrSt} (hf : ∀ p, domains (f p) = domains p) :
    SameDomains s (t.updPwr f) := (hf t.pwr).trans h

/-! ### Writes of registers, which reach the power by the temperature level alone -/

theorem runAct_sameDomains (k : Act) (ag : Agent) (i a : Nat) (old raw : Word) (s : State) :
    SameDomains s (runAct k ag i a old raw s) := by
  by_cases hk : k = .tempWarn
  · subst hk
    exact .ite (.refl s) (.updPwr (.refl s) fun _ => rfl)
  · exact .of_moves (runAct_moves_offPower hk ..)

theorem regStore_sameDomains (a : Nat) (d : RegDef) {act : Word → Word → State → State} (m x : Word) (s : State)
    (hact : ∀ old raw t, SameDomains t (act old raw t)) : SameDomains s (regStore a d act m x s) := by
  unfold regStore
  extract_lets old raw v lk ok s1 s2 s3
  have h2 : s2.pwr = s1.pwr := by
    dsimp only [s2]
    split <;> rfl
  exact .trans (.of_eq ((State.raiseIf_pwr ..).trans h2)) (hact ..)

theorem storeReg_sameDomains (ag : Agent) (ca a : Nat) (d : RegDef) (i : Nat) (m x : Word) (s : State) :
    SameDomains s (storeReg ag ca a d i m x s) := by
  unfold storeReg
  split
  · split
    · exact .of_moves (fwStatusWrite_moves (.refl _ _) _ (listed rfl))
    · exact .refl s
  · split
    · exact .refl s
    · exact .refl s
    · exact regStore_sameDomains _ _ _ _ _ fun _ _ _ => runAct_sameDomains ..

theorem placeWrite_sameDomains (ag : Agent) (ca : Nat) (p : Place) (x : Word) (s : State) :
    SameDomains s (placeWrite ag ca p x s) := by
  cases p with
  | reg a d i => exact storeReg_sameDomains ..
  | bit a b d i => exact .ite (storeReg_sameDomains ..) (.refl s)
  | win k r => exact .refl s
  | none => exact .refl s

theorem busWrite_sameDomains (ag : Agent) (ca : Nat) (tested : Bool) (w : Nat) (full : Bool) (x : Word) (s : State) :
    SameDomains s (busWrite ag ca tested w full x s) := by
  unfold busWrite
  extract_lets p s1 foreign s2 denied s3
  have h1 : s1.pwr = s.pwr := State.raiseIf_pwr ..
  clear_value foreign denied p s1
  have h2 : s2.pwr = s1.pwr := by
    dsimp only [s2]
    split
    · exact Moves.pwr_eq (unmapped_moves (.refl _ _) _ _ (listed rfl))
    · exact State.raiseIf_pwr ..
  have h3 : SameDomains s s3 := .of_eq ((State.raiseIf_pwr ..).trans (h2.trans h1))
  clear_value s3
  refine .trans ?_ (.of_moves (settleIrq_moves (.refl _ _) (listed rfl)))
  refine .ite h3 ?_
  split
  · split
    · exact h3.trans (.of_moves (winArrive_moves (.refl _ _) _ _ _ _ (listed rfl) (listed rfl)))
    · exact h3
  · exact h3.trans (placeWrite_sameDomains ..)

theorem targetTaken_sameDomains (k : Fin 4) (s : State) : SameDomains s (targetTaken k s) := by
  have hw : Moves offPower s (s.updWin k fun w => { w with taking := false }) := State.updWin_moves (.refl _ _) _ _ (listed rfl)
  unfold targetTaken
  extract_lets dom d s1 s2
  have h2 : SameDomains s s2 := .ite (.trans (.of_moves hw) (busWrite_sameDomains ..))
    (.of_moves (by apply indTake_moves hw .. <;> exact listed rfl))
  clear_value s2
  exact .ite (.refl s) (h2.trans (.of_moves (winAdvance_moves (.refl _ _) _ (listed rfl))))

theorem winServe_sameDomains (k : Fin 4) {s t : State} (h : SameDomains s t) : SameDomains s (winServe k t) :=
  h.trans (.of_moves (by apply winServe_moves (.refl _ _) .. <;> exact listed rfl))

/-! ### The test access port, which can write registers -/

theorem tstAccess_sameDomains (dr : BitVec 36) (s : State) : SameDomains s (tstAccess dr s) := by
  refine .ite (.refl s) (.ite (busWrite_sameDomains ..) (.of_moves ?_))
  apply winRead_moves (State.updTap_moves (.refl _ _) ..) .. <;> exact listed rfl

theorem tapUpdateDr_sameDomains (s : State) : SameDomains s (tapUpdateDr s) := by
  refine .ite (.refl s) (.ite (.ite (tstAccess_sameDomains ..) (.refl s)) (.ite (.of_moves ?_) (.refl s)))
  apply fuseProg_moves (.refl _ _) .. <;> exact listed rfl

theorem tapFall_sameDomains (s : State) : SameDomains s (tapFall s) := by
  unfold tapFall
  split
  · exact tapUpdateDr_sameDomains s
  · exact .of_moves (by apply tapUpdateIr_moves (.refl _ _) .. <;> exact listed rfl)
  · exact .refl s
  · exact .refl s
  · exact .refl s

theorem tapClock_sameDomains (c : TapClock) (s : State) : SameDomains s (tapClock c s) := by
  refine .trans (.of_moves ?_) (tapFall_sameDomains _)
  apply State.updTap_moves (tapRise_moves (State.updTap_moves (.refl _ _) ..) ..) .. <;> exact listed rfl

theorem tapClocks_sameDomains (cs : List TapClock) (s : State) : SameDomains s (cs.foldl (fun s c => tapClock c s) s) := by
  induction cs generalizing s with
  | nil => exact .refl s
  | cons c cs ih => exact (tapClock_sameDomains c s).trans (ih _)

/-! ### The commands -/

/-- Whatever next state the outcome is, it meets `PowerOk`. -/
def EndsOrdered (o : Host.Outcome State Fault Refusal) : Prop := ∀ t, o = .next t → t.PowerOk

theorem endsOrdered_next {t : State} (h : t.PowerOk) : EndsOrdered (.next t) := by
  intro u hu
  cases hu
  exact h

section
variable {s t : State} {f : State → State}

theorem endsOrdered_ite {p : Prop} [Decidable p] (hs : s.PowerOk) (ht : p → t.PowerOk) : EndsOrdered (.next (if p then t else s)) := by
  apply endsOrdered_next
  split
  · next hp => exact ht hp
  · exact hs

theorem whenMain_endsOrdered (hs : s.PowerOk) (hf : SameDomains s (f s)) : EndsOrdered (whenMain s f) :=
  endsOrdered_ite hs fun _ => hf.powerOk hs

theorem whenOven_endsOrdered (hs : s.PowerOk) (hf : s.pwr.ovenUp = true → (f s).PowerOk) : EndsOrdered (whenOven s f) :=
  endsOrdered_ite hs hf

/-- A state whose power is `p` is as ordered as any other with that power. -/
theorem powerOk_of_pwr {p : PwrSt} (h : t.pwr = p) (hp : ({ State.reset with pwr := p } : State).PowerOk) : t.PowerOk := by
  rw [← h] at hp
  exact hp

end

/-! What each of the resets and starts makes of the power. -/

theorem coldReset_pwr (s : State) : (coldReset s).pwr =
    { stageOn := s.pwr.stageOn, railsGood := s.pwr.railsGood, resetN := s.pwr.resetN, vin := s.pwr.vin, low := s.pwr.low,
      xoIn := s.pwr.xoIn } := rfl

theorem State.updTap_pwr (s : State) (f : TapSt → TapSt) : (s.updTap f).pwr = s.pwr := rfl

theorem mainWipe_pwr (s : State) : (mainWipe s).pwr = s.pwr :=
  Moves.pwr_eq (by apply mainWipe_moves (.refl _ _) .. <;> exact listed rfl)

theorem mainReset_pwr (cause : ResetCause) (s : State) : ∃ caught, (mainReset cause s).pwr =
    { s.pwr with mainUp := false, released := false, latched := caught, lastCause := cause, tempArmed := true } := by
  obtain ⟨s3, caught, hm, -, he⟩ := mainReset_wipes cause s
  exact ⟨caught, by rw [he, State.updPwr_pwr, State.updTap_pwr, mainWipe_pwr, State.setFlag_pwr, hm.within.pwr_eq]⟩

theorem mainRelease_pwr (s : State) : (mainRelease s).pwr = { s.pwr with mainUp := true, latched := 0 } := by
  unfold mainRelease
  extract_lets s1 extra clk s2 s3
  have h1 : s1.pwr = { s.pwr with mainUp := true, latched := 0 } := by
    rw [State.updPwr_pwr, mainWipe_pwr]
  clear_value s1
  have h2 : Moves offPower s1 s2 := clk_moves (.refl _ _) _ (listed rfl)
  clear_value s2
  have h3 : Moves offPower s1 s3 := State.setReg_moves h2 _ _ (listed rfl)
  clear_value s3
  refine Eq.trans (Moves.pwr_eq ?_) h1
  apply roleEval_moves (settleCover_moves (State.setFld_moves (mpllSearch_moves h3 ..) ..) ..) .. <;> exact listed rfl

theorem resetRelease_pwr (pref boot head : Bool) (s : State) : (resetRelease pref boot head s).pwr =
    { s.pwr with released := true, resetN := true, ovenUp := true } := by
  unfold resetRelease
  extract_lets s1 s2
  have h2 : s2.pwr = s.pwr := by
    dsimp only [s2]
    split <;> rfl
  rw [State.updPwr_pwr, h2]

theorem retainedStart_pwr (s : State) : (retainedStart s).pwr = { s.pwr with stageOn := true } := rfl

theorem stageOff_pwr (s : State) : (stageOff s).pwr = { s.pwr with stageOn := false, railsGood := false } := rfl

theorem tripRestart_pwr (s : State) : (tripRestart s).pwr =
    { s.pwr with stageOn := if s.pwr.low then s.pwr.stageOn else true, tripped := false, resetN := false, lastCause := .trip } := by
  unfold tripRestart
  cases s.pwr.low <;> rfl

theorem SameDomains.setFlag {s t : State} (h : SameDomains s t) (f : Fld) (b : Bool) : SameDomains s (t.setFlag f b) :=
  h.trans (.of_eq (State.setFlag_pwr ..))

theorem SameDomains.raise {s t : State} (h : SameDomains s t) (f : Fld) : SameDomains s (t.raise f) :=
  h.trans (.of_eq (State.raise_pwr ..))

theorem SameDomains.raisePwr {s t : State} (h : SameDomains s t) (f : Fld) : SameDomains s (raisePwr f t) :=
  .ite (h.raise f) (h.updPwr fun _ => rfl)

theorem SameDomains.evtLog {s t : State} (h : SameDomains s t) (typ us vinMin : Nat) (tb : Word) :
    SameDomains s (evtLog typ us vinMin tb t) := by
  unfold Sys2Proof.Machine.evtLog
  extract_lets i seq excess total s1 s2 s3 s4
  have h2 : SameDomains s s2 := h.trans (.of_eq (by simp only [s2, s1, State.setIfld_pwr, State.setIndw_pwr]))
  clear_value s2
  have h3 : SameDomains s s3 := (h2.trans (.of_eq (State.setIndw_pwr ..))).raisePwr _
  clear_value s3
  have h4 : SameDomains s s4 := .ite (h3.raisePwr _) h3
  clear_value s4
  exact .ite h4 (h4.raisePwr _)

theorem warnAssert_sameDomains (vin : Nat) (s : State) : SameDomains s (warnAssert vin s) := by
  unfold warnAssert
  extract_lets d s1 s2
  have h1 : SameDomains s s1 := .updPwr (.refl s) fun _ => rfl
  have h2 : SameDomains s s2 := ((h1.setFlag _ _).setFlag _ _).raisePwr _
  clear_value s2
  refine .ite h2 (h2.trans (.of_moves ?_))
  apply State.updPrf_moves (prfAbandon_moves (.refl _ _) ..) .. <;> exact listed rfl

theorem warnClear_sameDomains (vin vinMin oclk : Nat) (s : State) : SameDomains s (warnClear vin vinMin oclk s) := by
  unfold warnClear
  split
  · exact .refl s
  · extract_lets s1 s2
    have h1 : SameDomains s s1 := .updPwr (.refl s) fun _ => rfl
    exact ((h1.setFlag _ _).raisePwr _).evtLog ..

theorem tempUpdate_sameDomains (sensors : List (BitVec 12)) (s : State) : SameDomains s (tempUpdate sensors s) := by
  unfold tempUpdate
  split
  extract_lets w s1
  have h1 : SameDomains s s1 := .of_moves (showTempWarn_moves (State.setReg_moves (.refl _ _) _ _ (listed rfl)) (listed rfl))
  clear_value s1
  exact .ite ((h1.updPwr fun _ => rfl).raise F.PWR_INT_STATUS_TEMP_WARN) (.ite (h1.updPwr fun _ => rfl) h1)

theorem xoLoss_sameDomains (s : State) : SameDomains s (xoLoss s) := by
  unfold xoLoss
  extract_lets s1 s2
  have h1 : SameDomains s s1 := .updPwr (.refl s) fun _ => rfl
  clear_value s1
  have h2 : Moves offPower s1 s2 := by
    apply loopCoast_moves (State.raise_moves (prfAbandon_moves (.refl _ _) ..) ..) .. <;> exact listed rfl
  clear_value s2
  refine .ite (h1.trans (.of_moves ?_)) h1
  apply faultLog_moves (State.updLoop_moves h2 ..) .. <;> exact listed rfl

theorem xoReturn_sameDomains (s : State) : SameDomains s (xoReturn s) := by
  unfold xoReturn
  extract_lets s1
  have h1 : SameDomains s s1 := .updPwr (.refl s) fun _ => rfl
  clear_value s1
  exact .ite ((h1.trans (.of_eq (State.updLoop_pwr ..))).raise F.LOOP_INT_STATUS_XO_RETURN) h1

/-! Each command that switches a domain keeps the order; the rest leave the domains as they are. -/

/-- With its rails good the part is in no trip. -/
theorem State.PowerOk.not_tripped {s : State} (hs : s.PowerOk) (hr : s.pwr.railsGood = true) : s.pwr.tripped = false := by
  obtain ⟨-, -, hstage, -, htrip⟩ := hs
  by_contra ht
  have := (htrip (by simpa using ht)).2.1
  simp_all

theorem State.PowerOk.not_tripped_of_released {s : State} (hs : s.PowerOk) (hl : s.pwr.released = true) : s.pwr.tripped = false := by
  have ⟨_, hrails, _⟩ := hs
  exact hs.not_tripped (hrails hl).1

theorem supplyReset_powerOk (vin : Nat) {s : State} (hs : s.PowerOk) : (supplyReset vin s).PowerOk := by
  unfold supplyReset
  extract_lets s1
  have h1 : s1.PowerOk := SameDomains.powerOk (.updPwr (.refl s) fun _ => rfl) hs
  clear_value s1
  split
  · obtain ⟨caught, hc⟩ := mainReset_pwr .supply s1
    exact powerOk_of_pwr (stageOff_pwr _) (by simp_all [State.PowerOk])
  · exact powerOk_of_pwr (stageOff_pwr _) (by simp [coldReset_pwr, State.PowerOk])

theorem thermalTrip_powerOk {s : State} (ho : s.pwr.ovenUp = true) :
    ((stageOff (mainReset .trip s)).updPwr fun p => { p with tripped := true }).PowerOk := by
  obtain ⟨caught, hc⟩ := mainReset_pwr .trip s
  exact powerOk_of_pwr (State.updPwr_pwr ..) (by simp_all [stageOff_pwr, State.PowerOk])

theorem tripRestart_powerOk {s : State} (hs : s.PowerOk) (ht : s.pwr.tripped = true) : (tripRestart s).PowerOk :=
  powerOk_of_pwr (tripRestart_pwr s) (by simp_all [State.PowerOk])

theorem execResetNAssert_endsOrdered (tj : BitVec 12) {s : State} (hs : s.PowerOk) : EndsOrdered (execResetNAssert tj s) := by
  apply endsOrdered_next
  split
  · next ht =>
    split
    · exact tripRestart_powerOk hs ht
    · exact hs
  · exact powerOk_of_pwr (State.updPwr_pwr ..) (by simp_all [coldReset_pwr, State.PowerOk])

theorem execKeeperLock_endsOrdered {s : State} (hs : s.PowerOk) : EndsOrdered (execKeeperLock s) := by
  refine endsOrdered_ite hs fun hg => ?_
  have ht := hs.not_tripped_of_released hg.2.1
  have h1 : (s.updPwr fun p => { p with oclkUp := true }).PowerOk :=
    powerOk_of_pwr (State.updPwr_pwr ..) (by simp_all [State.PowerOk])
  split
  · exact SameDomains.powerOk (.of_moves (by apply takeUnit_moves (.refl _ _) .. <;> exact listed rfl)) h1
  · exact h1

theorem execMainDomainRelease_endsOrdered {s : State} (hs : s.PowerOk) : EndsOrdered (execMainDomainRelease s) := by
  refine endsOrdered_ite hs fun hg => ?_
  have ht := hs.not_tripped_of_released hg.2.1
  exact powerOk_of_pwr (mainRelease_pwr s) (by simp_all [State.PowerOk])

theorem execSupplyRestart_endsOrdered (vin : Nat) {s : State} (hs : s.PowerOk) : EndsOrdered (execSupplyRestart vin s) := by
  refine whenOven_endsOrdered hs fun ho => ?_
  extract_lets s1
  have h1 : SameDomains s s1 := .updPwr (.refl s) fun _ => rfl
  split
  · split
    · exact h1.powerOk hs
    · next ht => exact powerOk_of_pwr (retainedStart_pwr _) (by simp_all [s1, State.PowerOk])
  · exact hs

/-- The commands that are a write of an agent. -/
theorem agentWrite_endsOrdered {s : State} (hs : s.PowerOk) (ag : Agent) (off : Nat) (be : BitVec 4) (d : Word) :
    EndsOrdered (whenMain s (agentWrite ag off be d)) :=
  whenMain_endsOrdered hs (busWrite_sameDomains ..)

theorem execOvenIslandStop_endsOrdered (holdup : Nat) {s : State} (hs : s.PowerOk) : EndsOrdered (execOvenIslandStop holdup s) := by
  refine whenOven_endsOrdered hs fun _ => ?_
  split
  · exact powerOk_of_pwr (stageOff_pwr _) (by simp [coldReset_pwr, State.PowerOk])
  · exact hs

theorem execHoldupCapEstimate_endsOrdered (uF : Nat) {s : State} (hs : s.PowerOk) : EndsOrdered (execHoldupCapEstimate uF s) := by
  refine whenOven_endsOrdered hs fun _ => SameDomains.powerOk ?_ hs
  extract_lets s1
  have h1 : SameDomains s s1 := .ite (.of_eq (State.setFld_pwr ..)) (.refl s)
  clear_value s1
  exact .ite (h1.raisePwr _) h1

theorem execPwrMeasureUpdate_endsOrdered (vin iin pin holdup : BitVec 16) (rails : List (BitVec 16)) {s : State} (hs : s.PowerOk) :
    EndsOrdered (execPwrMeasureUpdate vin iin pin holdup rails s) := by
  refine whenMain_endsOrdered hs ?_
  extract_lets s1 s2
  have h2 : SameDomains s s2 := .refl s
  clear_value s2
  exact (h2.trans (.of_eq (State.setRegs_pwr ..))).updPwr fun _ => rfl

theorem execIndTargetTaken_endsOrdered (k : Fin 4) {s : State} (hs : s.PowerOk) : EndsOrdered (execIndTargetTaken k s) :=
  whenMain_endsOrdered (f := fun s => winServe k (targetTaken k s)) hs (winServe_sameDomains k (targetTaken_sameDomains k s))

/-- A command whose row does not hold the power leaves the order as it is. -/
theorem exec_endsOrdered_of_row {c : Instr} {s : State} (hs : s.PowerOk) (hp : (partsOf c).contains .pwr = false) :
    EndsOrdered (exec c s) := by
  intro t ht
  obtain ⟨u, hu, hm⟩ := exec_staysWithin c s
  cases hu.symm.trans ht
  exact SameDomains.powerOk (.of_eq (hm.within.pwr_eq (by simpa using hp))) hs

/-- Every command that can be given in an ordered state ends in one. -/
theorem exec_endsOrdered (c : Instr) {s : State} (hs : s.PowerOk) : EndsOrdered (exec c s) := by
  cases hp : (partsOf c).contains .pwr with
  | false => exact exec_endsOrdered_of_row hs hp
  | true =>
    cases c with
    | stageStart vin => exact endsOrdered_ite hs fun hg => powerOk_of_pwr (State.updPwr_pwr ..) (by simp_all [State.PowerOk])
    | railsGood => exact endsOrdered_ite hs fun hg => powerOk_of_pwr (State.updPwr_pwr ..) (by simp_all [State.PowerOk])
    | internalResetRelease pref boot head =>
      exact endsOrdered_ite hs fun hg => powerOk_of_pwr (resetRelease_pwr ..) (by simp_all [State.PowerOk])
    | resetNAssert tj => exact execResetNAssert_endsOrdered tj hs
    | keeperLock => exact execKeeperLock_endsOrdered hs
    | mainDomainRelease => exact execMainDomainRelease_endsOrdered hs
    | warnAssert vin => exact whenOven_endsOrdered hs fun _ => SameDomains.powerOk (.ite (warnAssert_sameDomains ..) (.refl s)) hs
    | warnClear vin vinMin oclk =>
      exact whenOven_endsOrdered hs fun _ => SameDomains.powerOk (.ite (warnClear_sameDomains ..) (.refl s)) hs
    | supplyReset vin => exact endsOrdered_ite hs fun _ => supplyReset_powerOk vin hs
    | supplyRestart vin => exact execSupplyRestart_endsOrdered vin hs
    | ovenIslandStop holdup => exact execOvenIslandStop_endsOrdered holdup hs
    | holdupCapEstimate uF => exact execHoldupCapEstimate_endsOrdered uF hs
    | holdupLow holdup => exact whenOven_endsOrdered hs fun _ => SameDomains.powerOk (.ite (.raisePwr (.refl s) _) (.refl s)) hs
    | pwrMeasureUpdate vin iin pin holdup rails => exact execPwrMeasureUpdate_endsOrdered vin iin pin holdup rails hs
    | tempUpdate sensors => exact whenMain_endsOrdered hs (tempUpdate_sameDomains ..)
    | thermalTrip tj => exact endsOrdered_ite hs fun hg => thermalTrip_powerOk hg.2.1
    | tripRestart tj => exact endsOrdered_ite hs fun hg => tripRestart_powerOk hs hg.1
    | registerWrite ag addr be d => exact agentWrite_endsOrdered hs _ _ _ _
    | aliasWrite ag page b d => exact agentWrite_endsOrdered hs _ _ _ _
    | lockWrite ag page d => exact agentWrite_endsOrdered hs _ _ _ _
    | intForce ag page d => exact agentWrite_endsOrdered hs _ _ _ _
    | counterHiWrite ag addr d => exact agentWrite_endsOrdered hs _ _ _ _
    | counterLoWrite ag addr d => exact agentWrite_endsOrdered hs _ _ _ _
    | indWrite ag k r d => exact agentWrite_endsOrdered hs _ _ _ _
    | indTargetTaken k => exact execIndTargetTaken_endsOrdered k hs
    | mboxQWr ag c d x => exact agentWrite_endsOrdered hs _ _ _ _
    | post ag c d x => exact agentWrite_endsOrdered hs _ _ _ _
    | abort ag c d x => exact agentWrite_endsOrdered hs _ _ _ _
    | discard ag c d x => exact agentWrite_endsOrdered hs _ _ _ _
    | xoLoss => exact endsOrdered_next ((xoLoss_sameDomains s).powerOk hs)
    | xoReturn => exact endsOrdered_next ((xoReturn_sameDomains s).powerOk hs)
    | tapInstructionUpdate clocks => exact endsOrdered_ite hs fun _ => (tapClocks_sameDomains clocks s).powerOk hs
    | tstAccess dr => exact whenMain_endsOrdered hs (tstAccess_sameDomains dr s)
    | _ => exact Bool.noConfusion hp

theorem passTclk_sameDomains (n : Nat) (s : State) : SameDomains s (passTclk n s) :=
  .of_moves (by apply passTclk_moves (.refl _ _) .. <;> exact listed rfl)

/-- Settles O59: a step runs the front command, which keeps the order, or passes one cycle of TCLK, which leaves the power alone. -/
theorem powerStaysOrdered : Obligations.PowerStaysOrdered := by
  intro s t hs ht
  unfold step at ht
  split at ht
  · next c rest _ => exact exec_endsOrdered c (s := { s with pending := rest }) hs t ht
  · cases ht
    exact (passTclk_sameDomains 1 s).powerOk hs

end Sys2Proof.Machine
end

section
/-!
SUPPORT. The warning level, the measured supplies and the temperature (R30, R43, R47, R48, R51, R583), with what a full write of a register
stores and what a row of registers reads. O4 follows.
-/
namespace Sys2Proof.Machine
set_option Elab.async false

/-! ### Words -/

/-- A field of a number stored as a word. -/
theorem bits_ofNat (n lo w : Nat) (h : lo + w ≤ 32) : bits (BitVec.ofNat 32 n) lo w = n / 2 ^ lo % 2 ^ w := by
  apply Nat.eq_of_testBit_eq
  intro i
  rw [testBit_bits, BitVec.toNat_ofNat, Nat.testBit_mod_two_pow, Nat.testBit_mod_two_pow, Nat.testBit_div_two_pow]
  by_cases hi : i < w
  · have : lo + i < 32 := by omega
    simp [hi, this, Nat.add_comm]
  · simp [hi]

/-- The bits of a field that a mask covers are those of the word taken under the mask. -/
theorem bits_merge_covered (old v m : Word) (lo w : Nat) (hm : ∀ i < w, m.getLsbD (lo + i) = true) :
    bits ((old &&& ~~~m) ||| (v &&& m)) lo w = bits v lo w := by
  apply Nat.eq_of_testBit_eq
  intro i
  rw [testBit_bits, testBit_bits]
  by_cases hi : i < w
  · have hk : ((old &&& ~~~m) ||| (v &&& m)).getLsbD (lo + i) = v.getLsbD (lo + i) := by simp [hm i hi]
    exact congrArg _ hk
  · simp [hi]

/-- Words that differ in no bit of a mask agree in a field that it covers. -/
theorem bits_eq_of_xor_covered {u v m : Word} (lo w : Nat) (h : (u ^^^ v) &&& m = 0) (hm : ∀ i < w, m.getLsbD (lo + i) = true) :
    bits u lo w = bits v lo w := by
  apply Nat.eq_of_testBit_eq
  intro i
  rw [testBit_bits, testBit_bits]
  by_cases hi : i < w
  · have hk : ((u ^^^ v) &&& m).getLsbD (lo + i) = false := by rw [h]; exact BitVec.getLsbD_zero
    rw [BitVec.getLsbD_and, BitVec.getLsbD_xor, hm i hi, Bool.and_true, bne_eq_false_iff_eq] at hk
    exact congrArg _ hk
  · simp [hi]

/-- A write of the whole word writes what was given. -/
theorem merge_allBits (old v : Word) : (old &&& ~~~allBits) ||| (v &&& allBits) = v := by
  have h : allBits = BitVec.allOnes 32 := by decide
  rw [h, BitVec.not_allOnes, BitVec.and_zero, BitVec.zero_or, BitVec.and_allOnes]

/-- A write of no bit leaves the word. -/
theorem merge_zero (old v : Word) : (old &&& ~~~0#32) ||| (v &&& 0#32) = old := by
  rw [BitVec.not_zero, BitVec.and_allOnes, BitVec.and_zero, BitVec.or_zero]

/-- A 12-bit number in two's complement. -/
theorem signed_toNat (x : BitVec 12) : signed 12 x.toNat = x.toInt := by
  rw [signed, BitVec.toInt_eq_toNat_cond]
  split <;> split <;> omega

theorem toBits_toInt (x : BitVec 12) : toBits 12 x.toInt = x.toNat := by
  have hx := x.isLt
  rw [toBits, BitVec.toInt_eq_toNat_cond]
  split <;> omega

/-! ### Commands of a domain that is up -/

theorem whenMain_of_up {s : State} {f : State → State} (h : s.pwr.mainUp = true) : whenMain s f = .next (f s) := by
  rw [whenMain, if_pos h]

theorem whenOven_of_up {s : State} {f : State → State} (h : s.pwr.ovenUp = true) : whenOven s f = .next (f s) := by
  rw [whenOven, if_pos h]

/-- A command of the main domain, while it is out of reset. -/
theorem answers_main {c : Instr} {s : State} {f : State → State} {P : State → Prop} (hx : exec c s = whenMain s f)
    (hm : s.pwr.mainUp = true) (h : ∀ t, f s = t → P t) : Answers c s P := ⟨f s, hx.trans (whenMain_of_up hm), h _ rfl⟩

/-- A command of the oven island, while it is up. -/
theorem answers_oven {c : Instr} {s : State} {f : State → State} {P : State → Prop} (hx : exec c s = whenOven s f)
    (ho : s.pwr.ovenUp = true) (h : ∀ t, f s = t → P t) : Answers c s P := ⟨f s, hx.trans (whenOven_of_up ho), h _ rfl⟩

/-! ### The write path -/

/-- The stored word of a register without write-once bits: its locked bits stay, and a change of one sets LOCK_VIOL. -/
theorem regStore_of_wo_zero (a : Nat) {d : RegDef} (act : Word → Word → State → State) (m x : Word) (s : State) (hd : d.wo = 0)
    {raw v lk ok : Word} (hraw : raw = (s.reg a &&& ~~~m) ||| (x &&& m)) (hv : v = normWord d.norm (s.reg a) raw)
    (hlk : lk = if s.locked (a / 1024) then d.rwl else 0) (hok : ok = (d.rw ||| d.rwl) &&& ~~~lk) :
    regStore a d act m x s = act (s.reg a) raw
      ((s.setReg a ((s.reg a &&& ~~~ok) ||| (v &&& ok))).raiseIf (decide ((v ^^^ s.reg a) &&& lk ≠ 0)) (lockViol (a / 1024))) := by
  subst hraw hv hlk hok
  simp [regStore, lockedBits, hd]

theorem regWrite_of_allowed {ag : Agent} {a : Nat} {s : State} (h : pf1Denied ag a s = false) (d : RegDef)
    (act : Word → Word → State → State) (m x : Word) : regWrite ag a d act m x s = regStore a d act m x s := by
  simp [regWrite, h]

/-- A write of a register with no counter's rules of its own. -/
theorem storeReg_of_plain (ag : Agent) (ca : Nat) {a : Nat} {d : RegDef} (i : Nat) (m x : Word) (s : State) (ha : a ≠ Reg.HRTH_FW_STATUS)
    (hd : d.ctr = .none) : storeReg ag ca a d i m x s = regStore a d (runAct d.act ag i a) m x s := by
  simp [storeReg, ha, hd]

/-- A full write that PF1 may make reaches the register of its address. -/
theorem agentWrite_of_reg {ag : Agent} {off a i : Nat} {d : RegDef} (x : Word) {s : State} (hp : placeOf (off / 4) = .reg a d i)
    (hf : pf1Denied ag (directAddr (off / 4)) s = false) :
    agentWrite ag off 0xF x s = settleIrq (storeReg ag (agentIx ag) a d i allBits x s) := by
  simp [agentWrite, busWrite, hp, hf, State.raiseIf, placeWrite]

/-! ### A store elsewhere -/

theorem State.reg_setFld_ne (s : State) (f : Fld) (x : Nat) {b : Nat} (h : b ≠ f.addr) : (s.setFld f x).reg b = s.reg b :=
  State.reg_setReg_ne s _ h

theorem State.reg_setFlag_ne (s : State) (f : Fld) (x : Bool) {b : Nat} (h : b ≠ f.addr) : (s.setFlag f x).reg b = s.reg b :=
  State.reg_setReg_ne s _ h

theorem State.reg_raise_ne (s : State) (f : Fld) {b : Nat} (h : b ≠ f.addr) : (s.raise f).reg b = s.reg b :=
  State.reg_setReg_ne s _ h

/-! ### Registers in a row -/

theorem State.reg_setRegs (s : State) (a : Nat) (ws : List Word) (b : Nat) :
    (s.setRegs a ws).reg b = if a ≤ b ∧ b < a + ws.length then ws.getD (b - a) 0 else s.reg b := by
  induction ws generalizing s a with
  | nil =>
    have : ¬(a ≤ b ∧ b < a + ([] : List Word).length) := by simp
    rw [if_neg this, State.setRegs]
  | cons w ws ih =>
    rw [State.setRegs, ih, State.reg_setReg, List.length_cons]
    rcases Nat.lt_trichotomy b a with h | rfl | h
    · rw [if_neg (by omega), if_neg (by omega), if_neg (by omega)]
    · rw [if_neg (by omega), if_pos rfl, if_pos (by omega), Nat.sub_self, List.getD_cons_zero]
    · by_cases hb : b < a + 1 + ws.length
      · rw [if_pos (by omega), if_pos (by omega), show b - a = (b - (a + 1)) + 1 by omega, List.getD_cons_succ]
      · rw [if_neg (by omega), if_neg (by omega), if_neg (by omega)]

theorem State.fld_setRegs (s : State) (a : Nat) (ws : List Word) (f : Fld) (h : f.addr < a ∨ a + ws.length ≤ f.addr) :
    (s.setRegs a ws).fld f = s.fld f := by
  unfold State.fld
  rw [State.reg_setRegs, if_neg (by omega)]

/-! ### The warning level (R30) -/

/-- A level held within 5,000 mV and 59,000 mV. -/
theorem fld_warnLevel_of_write (old d : Word) :
    bits ((old &&& ~~~0xFFFF#32) ||| (normWord .warnLevel old d &&& 0xFFFF#32)) 0 16 =
      if d.toNat % 65536 < 5000 then 5000 else if 59000 < d.toNat % 65536 then 59000 else d.toNat % 65536 := by
  rw [bits_merge_covered _ _ _ _ _ (by decide), normWord, bits_ofNat _ _ _ (by decide)]
  split
  · rfl
  · split
    · rfl
    · omega

/-- A write of the warning level that PF1 may make. -/
theorem execPwrWarnLevelWrite_eq (ag : Agent) (d : Word) (s : State) (hm : s.pwr.mainUp = true)
    (hf : pf1Denied ag Reg.PWR_WARN_LEVEL s = false) {v lk ok : Word} (hv : v = normWord .warnLevel (s.reg Reg.PWR_WARN_LEVEL) d)
    (hlk : lk = if s.locked 16 then 0xFFFF#32 else 0) (hok : ok = 0xFFFF#32 &&& ~~~lk) :
    exec (.pwrWarnLevelWrite ag d) s = .next ((s.setReg Reg.PWR_WARN_LEVEL ((s.reg Reg.PWR_WARN_LEVEL &&& ~~~ok) ||| (v &&& ok))).raiseIf
      (decide ((v ^^^ s.reg Reg.PWR_WARN_LEVEL) &&& lk ≠ 0)) (lockViol 16)) := by
  have h : exec (.pwrWarnLevelWrite ag d) s =
      .next (regWrite ag Reg.PWR_WARN_LEVEL Rd.PWR_WARN_LEVEL noAct allBits d s) := congrArg _ (if_pos hm)
  rw [h, regWrite_of_allowed hf, regStore_of_wo_zero _ _ _ _ _ rfl rfl rfl rfl rfl, merge_allBits, hv, hok, hlk]
  rfl

theorem warnLevelWrite_unlocked (s : State) (ag : Agent) (d : Word) (hm : s.pwr.mainUp = true)
    (hf : pf1Denied ag Reg.PWR_WARN_LEVEL s = false) (hl : s.locked 16 = false) :
    Answers (.pwrWarnLevelWrite ag d) s fun t =>
      t.fld F.PWR_WARN_LEVEL_LEVEL_MV =
        (if d.toNat % 65536 < 5000 then 5000 else if 59000 < d.toNat % 65536 then 59000 else d.toNat % 65536) ∧
      Only [] [Reg.PWR_WARN_LEVEL] s t := by
  have hlk : (0 : Word) = if s.locked 16 then 0xFFFF#32 else 0 := by simp [hl]
  refine ⟨_, execPwrWarnLevelWrite_eq ag d s hm hf rfl hlk (show 0xFFFF#32 = _ by decide), ?_, ?_, ?_⟩
  · rw [State.fld_raiseIf _ _ _ _ (by decide)]
    exact (State.fld_setReg_same _ _ F.PWR_WARN_LEVEL_LEVEL_MV).trans (fld_warnLevel_of_write _ _)
  · exact (State.raiseIf_moves (State.setReg_moves (.refl _ _) _ _ (listed rfl)) _ _ (listed rfl)).within
  · exact ((RegsKeep.refl _ s).setReg _ _ (.head _)).raiseIf _ _ (by simp)

theorem warnLevelWrite_locked (s : State) (ag : Agent) (d : Word) (hm : s.pwr.mainUp = true)
    (hf : pf1Denied ag Reg.PWR_WARN_LEVEL s = false) (hl : s.locked 16 = true) (hlo : 5000 ≤ d.toNat % 65536)
    (hhi : d.toNat % 65536 ≤ 59000) :
    Answers (.pwrWarnLevelWrite ag d) s fun t =>
      t.fld F.PWR_WARN_LEVEL_LEVEL_MV = s.fld F.PWR_WARN_LEVEL_LEVEL_MV ∧
      (d.toNat % 65536 ≠ s.fld F.PWR_WARN_LEVEL_LEVEL_MV → t.flag (lockViol 16) = true) ∧
      Only [] [Reg.PWR_WARN_LEVEL, pageStatus 16] s t := by
  have hlk : 0xFFFF#32 = if s.locked 16 then 0xFFFF#32 else 0 := by simp [hl]
  refine ⟨_, execPwrWarnLevelWrite_eq ag d s hm hf rfl hlk (show 0#32 = _ by decide), ?_, fun hne => ?_, ?_, ?_⟩
  · rw [State.fld_raiseIf _ _ _ _ (by decide)]
    exact (State.fld_setReg_same _ _ F.PWR_WARN_LEVEL_LEVEL_MV).trans (congrArg (bits · 0 16) (merge_zero _ _))
  · rw [State.flag_raiseIf_same _ _ _ (by decide) rfl, Bool.or_eq_true, decide_eq_true_eq]
    refine .inl fun hx => hne ?_
    have hb := bits_eq_of_xor_covered 0 16 hx (by decide)
    rw [normWord, bits_ofNat _ _ _ (by decide), if_neg (by omega), if_neg (by omega)] at hb
    have hd : d.toNat % 65536 = bits (s.reg Reg.PWR_WARN_LEVEL) 0 16 := by omega
    exact hd
  · exact (State.raiseIf_moves (State.setReg_moves (.refl _ _) _ _ (listed rfl)) _ _ (listed rfl)).within
  · exact ((RegsKeep.refl _ s).setReg _ _ (.head _)).raiseIf _ _ fun _ => .tail _ (.head _)

/-! ### The measured supplies (R47, R51, R583) -/

theorem pwrMeasureUpdate_shows (s : State) (vin iin pin holdup : BitVec 16) (rails : List (BitVec 16)) (hm : s.pwr.mainUp = true)
    (hl : rails.length = 16) :
    Answers (.pwrMeasureUpdate vin iin pin holdup rails) s fun t =>
      t.reg Reg.PWR_VIN = vin.setWidth 32 ∧ t.reg Reg.PWR_IIN = iin.setWidth 32 ∧ t.reg Reg.PWR_PIN = pin.setWidth 32 ∧
      t.fld F.PWR_HOLDUP_VOLT = holdup.toNat ∧ t.fld F.PWR_HOLDUP_CAP = s.fld F.PWR_HOLDUP_CAP ∧
      (∀ i ∈ List.range 16, t.reg (Reg.PWR_RAIL_V i) = (rails.getD i 0).setWidth 32) ∧ t.pwr = { s.pwr with vin := vin.toNat } ∧
      Only [.pwr] ([Reg.PWR_VIN, Reg.PWR_IIN, Reg.PWR_PIN, Reg.PWR_HOLDUP] ++ (List.range 16).map Reg.PWR_RAIL_V) s t := by
  have hws : ((rails.take 16).map fun r => r.setWidth 32).length = 16 := by simp [hl]
  refine answers_main (by rw [exec, execPwrMeasureUpdate]) hm fun t ht => ?_
  extract_lets s1 s2 at ht
  have hr : ∀ b, b < Reg.PWR_RAIL_V 0 → t.reg b = s2.reg b := fun b hb => by
    rw [← ht, State.updPwr_reg, State.reg_setRegs, if_neg (by omega)]
  have hf : ∀ f : Fld, f.addr < Reg.PWR_RAIL_V 0 → t.fld f = s2.fld f := fun f h => by rw [State.fld, hr _ h, State.fld]
  refine ⟨?_, ?_, ?_, ?_, ?_, fun i hi => ?_, ?_, ?_, ?_⟩
  · simp (disch := decide) only [hr, s2, s1, State.reg_setFld_ne, State.reg_setReg_ne, State.reg_setReg_same]
  · simp (disch := decide) only [hr, s2, s1, State.reg_setFld_ne, State.reg_setReg_ne, State.reg_setReg_same]
  · simp (disch := decide) only [hr, s2, State.reg_setFld_ne, State.reg_setReg_same]
  · rw [hf _ (by decide), State.fld_setFld_same _ _ _ (by decide)]
    exact Nat.mod_eq_of_lt holdup.isLt
  · simp (disch := decide) only [hf, s2, s1, State.fld_setFld, State.fld_setReg]
  · have hi' := List.mem_range.1 hi
    rw [← ht, State.updPwr_reg, State.reg_setRegs, hws, if_pos (by simp only [Reg.PWR_RAIL_V]; omega),
      show Reg.PWR_RAIL_V i - Reg.PWR_RAIL_V 0 = i by simp only [Reg.PWR_RAIL_V]; omega, List.take_of_length_le (by omega)]
    simp [List.getD, hl, hi']
  · rw [← ht, State.updPwr_pwr, State.setRegs_pwr]
    rfl
  · rw [← ht]
    apply Moves.within
    apply State.updPwr_moves (State.setRegs_moves (State.setFld_moves (State.setReg_moves (State.setReg_moves
      (State.setReg_moves (.refl _ _) ..) ..) ..) ..) ..) .. <;> exact listed rfl
  · rw [← ht]
    refine ((((((RegsKeep.refl _ s).setReg _ _ ?_).setReg _ _ ?_).setReg _ _ ?_).setFld _ _ ?_).setRegs _ _ ?_).updPwr _
    · simp
    · simp
    · simp
    · simp [F.PWR_HOLDUP_VOLT]
    · intro i hi
      rw [hws] at hi
      exact List.mem_append_right _ (List.mem_map.2 ⟨i, List.mem_range.2 hi, by simp only [Reg.PWR_RAIL_V]; omega⟩)

/-! ### Temperature (R43, R48) -/

theorem hottest_le {b : Int} (hb : -2048 ≤ b) (xs : List (BitVec 12)) (n : Nat) (h : ∀ y ∈ xs, y.toInt ≤ b) : (hottest xs n).1 ≤ b := by
  induction xs generalizing n with
  | nil => exact hb
  | cons x xs ih =>
    simp only [hottest]
    split
    · rw [signed_toNat]
      exact h x (List.mem_cons_self ..)
    · exact ih _ fun y hy => h y (List.mem_cons_of_mem _ hy)

/-- The highest reading with its number, the first of equals. -/
theorem hottest_eq {x : BitVec 12} (xs : List (BitVec 12)) (i n : Nat) (hx : xs[i]? = some x) (hmax : ∀ y ∈ xs, y.toInt ≤ x.toInt)
    (hfirst : ∀ j < i, xs.getD j 0 ≠ x) : hottest xs n = (x.toInt, n + i) := by
  induction xs generalizing i n with
  | nil => simp at hx
  | cons y ys ih =>
    have hys : ∀ z ∈ ys, z.toInt ≤ x.toInt := fun z hz => hmax z (List.mem_cons_of_mem _ hz)
    cases i with
    | zero =>
      obtain rfl : y = x := by simpa using hx
      have hr := hottest_le (BitVec.le_toInt y) ys (n + 1) hys
      simp only [hottest, signed_toNat, if_pos hr, Nat.add_zero]
    | succ i =>
      have hr := ih i (n + 1) (by simpa using hx) hys fun j hj => by simpa using hfirst (j + 1) (by omega)
      have hne : ¬x.toInt ≤ y.toInt := fun hle =>
        hfirst 0 (by omega) (BitVec.toInt_inj.1 (Int.le_antisymm (hmax y (List.mem_cons_self ..)) hle))
      simp only [hottest, hr, signed_toNat, if_neg hne, Nat.add_assoc, Nat.add_comm 1 i]

/-- What a reading of the sensors shows, before TEMP_WARN. -/
def showReading (t : Nat) (i : Nat) (s : State) : State := showTempWarn (s.setReg Reg.PWR_TEMP (BitVec.ofNat 32 (t + i % 16 * 2 ^ 12)))

theorem showReading_moves (n i : Nat) (s : State) : Moves [.regs] s (showReading n i s) :=
  showTempWarn_moves (State.setReg_moves (.refl _ _) _ _ (listed rfl)) (listed rfl)

theorem showReading_regsKeep (n i : Nat) (s : State) : RegsKeep [Reg.PWR_TEMP, Reg.PWR_LIVE] s (showReading n i s) :=
  ((RegsKeep.refl _ s).setReg _ _ (.head _)).setFlag _ _ (.tail _ (.head _))

theorem showReading_shows {n i : Nat} (hn : n < 4096) (hi : i < 16) (s : State) :
    (showReading n i s).fld F.PWR_TEMP_TJ = n ∧ (showReading n i s).fld F.PWR_TEMP_SENSOR = i ∧
      (showReading n i s).flag F.PWR_LIVE_TEMP_WARN_ACTIVE = decide (signed 12 (s.fld F.PWR_TEMP_WARN_TJ) ≤ signed 12 n) := by
  have htj : (s.setReg Reg.PWR_TEMP (BitVec.ofNat 32 (n + i % 16 * 2 ^ 12))).fld F.PWR_TEMP_TJ = n :=
    (State.fld_setReg_same _ _ F.PWR_TEMP_TJ).trans ((bits_ofNat _ 0 12 (by decide)).trans (by omega))
  have hsn : (s.setReg Reg.PWR_TEMP (BitVec.ofNat 32 (n + i % 16 * 2 ^ 12))).fld F.PWR_TEMP_SENSOR = i :=
    (State.fld_setReg_same _ _ F.PWR_TEMP_SENSOR).trans ((bits_ofNat _ 12 4 (by decide)).trans (by omega))
  simp (disch := decide) only [showReading, showTempWarn, State.fld_setFlag, State.flag_setFlag_same, State.fld_setReg, htj, hsn, and_self]

/-- A new reading of the sensors shows the highest with its number, and compares it with the level. -/
theorem execTempUpdate_shows (s : State) (sensors : List (BitVec 12)) (i : Nat) (x : BitVec 12) (hm : s.pwr.mainUp = true)
    (hl : sensors.length = 16) (hx : sensors[i]? = some x) (hmax : ∀ y ∈ sensors, y.toInt ≤ x.toInt)
    (hfirst : ∀ j < i, sensors.getD j 0 ≠ x) :
    Answers (.tempUpdate sensors) s fun t =>
      t.fld F.PWR_TEMP_TJ = x.toNat ∧ t.fld F.PWR_TEMP_SENSOR = i ∧
      t.flag F.PWR_LIVE_TEMP_WARN_ACTIVE = decide (signed 12 (s.fld F.PWR_TEMP_WARN_TJ) ≤ x.toInt) ∧
      (signed 12 (s.fld F.PWR_TEMP_TJ) < signed 12 (s.fld F.PWR_TEMP_WARN_TJ) → signed 12 (s.fld F.PWR_TEMP_WARN_TJ) ≤ x.toInt → s.pwr.tempArmed = true →
        t.flag F.PWR_INT_STATUS_TEMP_WARN = true ∧ t.pwr = { s.pwr with tempArmed := false }) ∧
      (x.toInt < signed 12 (s.fld F.PWR_TEMP_WARN_TJ) - 8 → t.pwr = { s.pwr with tempArmed := true }) ∧
      Only [.pwr] [Reg.PWR_TEMP, Reg.PWR_LIVE, Reg.PWR_INT_STATUS] s t := by
  refine answers_main (by rw [exec, execTempUpdate]) hm fun t ht => ?_
  have hi : i < 16 := hl ▸ (List.getElem?_eq_some_iff.1 hx).1
  have hh := hottest_eq sensors i 0 hx hmax hfirst
  obtain ⟨htj, hsn, hact⟩ := showReading_shows x.isLt hi s
  have hreg := showReading_regsKeep x.toNat i s
  have hmov := showReading_moves x.toNat i s
  simp only [tempUpdate, hh, Nat.zero_add, toBits_toInt] at ht
  rw [← showReading] at ht
  generalize showReading x.toNat i s = s1 at *
  have hp : s1.pwr = s.pwr := hmov.within.pwr_eq
  have hcause : RegsKeep [Reg.PWR_INT_STATUS] s1 t ∧ Moves [.regs, .pwr] s1 t := by
    subst ht
    split
    · exact ⟨((RegsKeep.refl _ s1).updPwr _).raise _ (.head _),
        State.raise_moves (State.updPwr_moves (.refl _ _) _ (listed rfl)) _ (listed rfl)⟩
    · split
      · exact ⟨(RegsKeep.refl _ s1).updPwr _, State.updPwr_moves (.refl _ _) _ (listed rfl)⟩
      · exact ⟨.refl _ s1, .refl _ s1⟩
  refine ⟨(hcause.1.fld_eq _ (by decide)).trans htj, (hcause.1.fld_eq _ (by decide)).trans hsn, ?_, fun hlo hhi harm => ?_, fun hcool => ?_,
    ((hmov.mono (by decide)).trans hcause.2).within, (hreg.mono (by decide)).trans (hcause.1.mono (by decide))⟩
  · rw [hcause.1.flag_eq _ (by decide), hact, signed_toNat]
  · rw [← ht, if_pos ⟨hhi, hlo, harm⟩, State.raise_pwr, State.updPwr_pwr, hp]
    exact ⟨State.flag_raise_same _ _ (by decide) rfl, rfl⟩
  · rw [← ht, if_neg (by omega), if_pos hcool, State.updPwr_pwr, hp]

/-- The place of a register of direct space. -/
theorem placeOf_tempWarn : placeOf ((BitVec.ofNat 26 (4 * Reg.PWR_TEMP_WARN)).toNat / 4) = .reg Reg.PWR_TEMP_WARN Rd.PWR_TEMP_WARN 0 := rfl

theorem settleIrq_regsKeep (as : List Nat) (s : State) : RegsKeep as s (settleIrq s) :=
  have h := (settleIrq_moves (.refl [.hst] s) (listed rfl)).within
  (RegsKeep.refl as s).of_regs h.regs_eq h.again_eq

/-- The stored level and what its write sets off. -/
theorem tempWarnWrite_eq (ag : Agent) (d : Word) (s : State) (hf : pf1Denied ag Reg.PWR_TEMP_WARN s = false) :
    agentWrite ag (BitVec.ofNat 26 (4 * Reg.PWR_TEMP_WARN)).toNat 0xF d s = settleIrq (actTempWarn (s.reg Reg.PWR_TEMP_WARN) d
      (s.setReg Reg.PWR_TEMP_WARN ((s.reg Reg.PWR_TEMP_WARN &&& ~~~0xFFF#32) ||| (d &&& 0xFFF#32)))) := by
  rw [agentWrite_of_reg d placeOf_tempWarn hf, storeReg_of_plain _ _ _ _ _ _ (by decide) rfl,
    regStore_of_wo_zero (lk := 0#32) (ok := 0xFFF#32) _ _ _ _ _ rfl rfl rfl (ite_self _).symm (by decide), merge_allBits,
    BitVec.and_zero]
  rfl

theorem actTempWarn_pwr (old raw : Word) (s : State) : (actTempWarn old raw s).pwr =
    { s.pwr with tempArmed := s.pwr.tempArmed || decide (s.fld F.PWR_TEMP_WARN_TJ ≠ bits old 0 12) } := by
  have h1 : (showTempWarn s).pwr = s.pwr := State.setFlag_pwr ..
  unfold actTempWarn
  by_cases h : bits old 0 12 = s.fld F.PWR_TEMP_WARN_TJ
  · simp [h, h1]
  · simp [h, Ne.symm h, h1]

theorem actTempWarn_regsKeep (old raw : Word) (s : State) : RegsKeep [Reg.PWR_LIVE] s (actTempWarn old raw s) := by
  have h1 : RegsKeep [Reg.PWR_LIVE] s (showTempWarn s) := (RegsKeep.refl _ s).setFlag _ _ (.head _)
  unfold actTempWarn
  split
  · exact h1
  · exact h1.updPwr _

theorem actTempWarn_active (old raw : Word) (s : State) : (actTempWarn old raw s).flag F.PWR_LIVE_TEMP_WARN_ACTIVE =
    decide (signed 12 (s.fld F.PWR_TEMP_WARN_TJ) ≤ signed 12 (s.fld F.PWR_TEMP_TJ)) := by
  have h1 := State.flag_setFlag_same s F.PWR_LIVE_TEMP_WARN_ACTIVE
    (decide (signed 12 (s.fld F.PWR_TEMP_WARN_TJ) ≤ signed 12 (s.fld F.PWR_TEMP_TJ))) (by decide) rfl
  unfold actTempWarn
  split
  · exact h1
  · exact h1

theorem tempWarnWrite_shows (s : State) (ag : Agent) (d : Word) (hm : s.pwr.mainUp = true) (hf : pf1Denied ag Reg.PWR_TEMP_WARN s = false) :
    Answers (.registerWrite ag (BitVec.ofNat 26 (4 * Reg.PWR_TEMP_WARN)) 0xF d) s fun t =>
      t.fld F.PWR_TEMP_WARN_TJ = d.toNat % 4096 ∧
      t.flag F.PWR_LIVE_TEMP_WARN_ACTIVE = decide (signed 12 (d.toNat % 4096) ≤ signed 12 (s.fld F.PWR_TEMP_TJ)) ∧
      t.pwr = { s.pwr with tempArmed := s.pwr.tempArmed || decide (d.toNat % 4096 ≠ s.fld F.PWR_TEMP_WARN_TJ) } ∧
      Only [.hst, .pwr] [Reg.PWR_TEMP_WARN, Reg.PWR_LIVE] s t := by
  refine answers_main (by rw [exec, execRegisterWrite]) hm fun t ht => ?_
  rw [tempWarnWrite_eq ag d s hf] at ht
  generalize hs1 : s.setReg Reg.PWR_TEMP_WARN _ = s1 at ht
  have hlev : s1.fld F.PWR_TEMP_WARN_TJ = d.toNat % 4096 := by
    rw [← hs1]
    refine (State.fld_setReg_same _ _ F.PWR_TEMP_WARN_TJ).trans ((bits_merge_covered _ _ _ 0 12 (by decide)).trans ?_)
    simp [bits]
  have htj : s1.fld F.PWR_TEMP_TJ = s.fld F.PWR_TEMP_TJ := by rw [← hs1, State.fld_setReg _ _ _ _ (by decide)]
  have hp : s1.pwr = s.pwr := by rw [← hs1, State.setReg_pwr]
  have hk : RegsKeep [Reg.PWR_LIVE] s1 t := ht ▸ (actTempWarn_regsKeep _ _ _).trans (settleIrq_regsKeep _ _)
  have hirq := (settleIrq_moves (.refl [.hst] (actTempWarn (s.reg Reg.PWR_TEMP_WARN) d s1)) (listed rfl)).within
  refine ⟨(hk.fld_eq _ (by decide)).trans hlev, ?_, ?_, ?_, ?_⟩
  · rw [← ht, (settleIrq_regsKeep [] _).flag_eq _ (by decide), actTempWarn_active, hlev, htj]
  · rw [← ht, hirq.pwr_eq, actTempWarn_pwr, hp, hlev]
    rfl
  · rw [← ht, ← hs1]
    apply Moves.within
    apply settleIrq_moves (actTempWarn_moves (State.setReg_moves (.refl _ _) ..) ..) .. <;> exact listed rfl
  · rw [← hs1] at hk
    exact ((RegsKeep.refl _ s).setReg _ _ (.head _)).trans (hk.mono (by decide))

/-- Settles O4. -/
theorem powerMeasures : Obligations.PowerMeasures :=
  ⟨warnLevelWrite_unlocked, warnLevelWrite_locked, pwrMeasureUpdate_shows, execTempUpdate_shows,
    fun s ag d hm hf _ => tempWarnWrite_shows s ag d hm hf⟩

end Sys2Proof.Machine
end

section
/-!
SUPPORT. The resets (R35, R37 to R39, R44, R172): what the oven island keeps through a reset of the main domain, and what a cold start
leaves. O3 follows.
-/
namespace Sys2Proof.Machine
set_option Elab.async false

/-! ### What the wipe of the main domain keeps -/

/-- The entries of a stored map whose keys meet `p`. -/
theorem smapGet_filter {α : Type} (d : Nat → α) (m : SMap α) (p : Nat → Bool) (k : Nat) :
    smapGet d (m.filter fun e => p e.1) k = if p k then smapGet d m k else d k := by
  induction m with
  | nil => simp [smapGet]
  | cons e m ih =>
    obtain ⟨j, v⟩ := e
    rw [List.filter_cons]
    by_cases hk : k = j
    · subst hk
      cases hp : p k <;> simp_all [smapGet]
    · cases hp : p j <;> simp [smapGet, hk, ih]

/-- What the oven island and the world outside keep, before the registers of both kinds are put right. -/
def ovenPart (s : State) : State :=
  { regs := s.regs.filter (fun e => ovenReg e.1), ind := s.ind.filter (fun e => e.1 / 2 ^ 24 = 1), hostMem := s.hostMem,
    clk := s.clk, pwr := s.pwr, hst := { woDone := s.hst.woDone.filter (fun e => ovenReg e.1) },
    tb := { value := s.tb.value, starting := s.tb.starting },
    loop := { integ := s.loop.integ, bt := s.loop.bt, bc := s.loop.bc, hist := s.loop.hist, y2 := s.loop.y2,
              y0 := s.loop.y0, drift := s.loop.drift, hadSel := s.loop.hadSel, seeded := s.loop.seeded },
    twin := { stepSum := s.twin.stepSum, last := s.twin.last, shown := s.twin.shown },
    boot := { s.boot with cores := 0, kicks := [0, 0, 0, 0], mgmtAck := false, mgmtOut := [] }, tap := s.tap,
    free := s.free, pending := s.pending }

theorem mainWipe_eq (s : State) : mainWipe s = refsAbsent (clearMixed (ovenPart s)) := rfl

theorem ovenPart_reg {s : State} {a : Nat} (h : ovenReg a = true) : (ovenPart s).reg a = s.reg a :=
  (smapGet_filter _ _ ovenReg _).trans (if_pos h)

/-- The event log of the supply is in the oven island. -/
theorem ovenPart_indw (s : State) (i : Nat) (h : i < 2 ^ 24) : (ovenPart s).indw 1 i = s.indw 1 i :=
  (smapGet_filter _ _ (fun k => decide (k / 2 ^ 24 = 1)) _).trans (if_pos (by rw [indKey]; simp; omega))

/-- The registers that hold fields of both kinds, and those of the references. -/
def mixedRegs : List Nat :=
  [Reg.PWR_LIVE, Reg.TWIN_LIVE, Reg.TBASE_LIVE, Reg.TBASE_CTRL, Reg.LOOP_STATUS] ++ (List.range 23).map Reg.LOOP_REF_STATUS

theorem refsAbsent_regsKeep (s : State) : RegsKeep ((List.range 23).map Reg.LOOP_REF_STATUS) s (refsAbsent s) :=
  RegsKeep.forUpto _ _ (fun i hi _ h => .ite (h.setFld _ _ (List.mem_map.2 ⟨i, List.mem_range.2 hi, rfl⟩)) h) (.refl _ s)

/-- A register of both kinds after the wipe: the fields under the mask are kept, the others at reset. -/
def mixedWord (a : Nat) (m : Word) (s : State) : Word := (s.reg a &&& m) ||| (regReset a &&& ~~~m)

theorem clearMixed_regsKeep (s : State) : RegsKeep mixedRegs s (clearMixed s) := by
  refine RegsKeep.updLoop (RegsKeep.setFlag (RegsKeep.setReg (RegsKeep.setReg (RegsKeep.setReg (RegsKeep.setReg (.refl _ s) _ _ ?_) _ _ ?_)
    _ _ ?_) _ _ ?_) _ _ ?_) _
  all_goals decide

theorem clearMixed_reg (s : State) :
    (clearMixed s).reg Reg.PWR_LIVE = mixedWord Reg.PWR_LIVE 0x1F#32 s ∧
      (clearMixed s).reg Reg.TBASE_LIVE = mixedWord Reg.TBASE_LIVE 0xB9#32 s := by
  constructor <;>
    simp (disch := decide) only [clearMixed, showHoReady, State.updLoop_reg, State.reg_setFlag_ne, State.reg_setReg_ne,
      State.reg_setReg_same, mixedWord]

theorem mainWipe_regsKeep (s : State) : RegsKeep mixedRegs (ovenPart s) (mainWipe s) :=
  (clearMixed_regsKeep _).trans ((refsAbsent_regsKeep _).mono (by decide))

theorem mainWipe_moves_ovenPart (s : State) : Moves [.regs, .loop] (ovenPart s) (mainWipe s) :=
  refsAbsent_moves (clearMixed_moves (.refl _ _) (listed rfl) (listed rfl)) (listed rfl)

theorem mainWipe_reg {s : State} {a : Nat} (h : ovenReg a = true) (n : a ∉ mixedRegs) : (mainWipe s).reg a = s.reg a :=
  (mainWipe_regsKeep s a n).1.trans (ovenPart_reg h)

/-- A field that a mask covers, in the word that keeps what is under the mask. -/
theorem bits_mixedWord (a : Nat) (m : Word) (s : State) (lo w : Nat) (h : ∀ i < w, m.getLsbD (lo + i) = true) :
    bits (mixedWord a m s) lo w = bits (s.reg a) lo w := by
  rw [mixedWord, BitVec.or_comm, bits_merge_covered _ _ _ _ _ h]

/-- The oven island's fields of PWR_LIVE and TBASE_LIVE stay. -/
theorem mainWipe_flag_pwrLive (s : State) {lo w : Nat} (h : ∀ i < w, (0x1F#32).getLsbD (lo + i) = true) :
    (mainWipe s).flag ⟨Reg.PWR_LIVE, lo, w⟩ = s.flag ⟨Reg.PWR_LIVE, lo, w⟩ := by
  have hr : (mainWipe s).reg Reg.PWR_LIVE = mixedWord Reg.PWR_LIVE 0x1F#32 s := by
    rw [mainWipe_eq, (refsAbsent_regsKeep _ _ (by decide)).1, (clearMixed_reg _).1, mixedWord, ovenPart_reg (by decide), mixedWord]
  rw [State.flag, State.flag, State.fld, State.fld, hr, bits_mixedWord _ _ _ _ _ h]

theorem mainWipe_flag_tbaseLive (s : State) {lo w : Nat} (h : ∀ i < w, (0xB9#32).getLsbD (lo + i) = true) :
    (mainWipe s).flag ⟨Reg.TBASE_LIVE, lo, w⟩ = s.flag ⟨Reg.TBASE_LIVE, lo, w⟩ := by
  have hr : (mainWipe s).reg Reg.TBASE_LIVE = mixedWord Reg.TBASE_LIVE 0xB9#32 s := by
    rw [mainWipe_eq, (refsAbsent_regsKeep _ _ (by decide)).1, (clearMixed_reg _).2, mixedWord, ovenPart_reg (by decide), mixedWord]
  rw [State.flag, State.flag, State.fld, State.fld, hr, bits_mixedWord _ _ _ _ _ h]

theorem mainWipe_indw (s : State) {i : Nat} (h : i < 2 ^ 24) : (mainWipe s).indw 1 i = s.indw 1 i := by
  have hi : (mainWipe s).ind = (ovenPart s).ind := (mainWipe_moves_ovenPart s).within.ind_eq
  rw [State.indw, hi]
  exact ovenPart_indw s i h

/-! ### What a reset of the main domain leaves -/

/-- What a reset of the main domain leaves: the oven island with OUTAGE, and nothing of the lanes, the frames and Hearth SRAM. -/
def OvenKept (s t : State) : Prop :=
  t.flag F.TBASE_LIVE_OUTAGE = true ∧ t.tb.value = s.tb.value ∧
    (∀ a, ovenReg a = true → a ∉ mixedRegs ++ shutdownRegs → t.reg a = s.reg a) ∧
    (∀ i ∈ List.range 66, t.indw 1 i = s.indw 1 i) ∧ t.lanes = [] ∧ t.net = {} ∧ t.sram = [] ∧
    t.flag F.PWR_LIVE_TEMP_WARN_ACTIVE = s.flag F.PWR_LIVE_TEMP_WARN_ACTIVE

theorem mainWipe_ovenKept {s u : State} (hm : Moves [.regs, .loop, .twin, .free] s u) (hk : RegsKeep shutdownRegs s u)
    (ho : u.flag F.TBASE_LIVE_OUTAGE = true) : OvenKept s (mainWipe u) := by
  have hw := (mainWipe_moves_ovenPart u).within
  refine ⟨?_, ?_, fun a ha hn => ?_, fun i hi => ?_, hw.lanes_eq, hw.net_eq, hw.sram_eq, ?_⟩
  · exact (mainWipe_flag_tbaseLive u (lo := 3) (w := 1) (by decide)).trans ho
  · have hv : (ovenPart u).tb.value = u.tb.value := rfl
    rw [hw.tb_eq, hv, hm.within.tb_eq]
  · rw [List.mem_append, not_or] at hn
    exact (mainWipe_reg ha hn.1).trans (hk a hn.2).1
  · have hi' := List.mem_range.1 hi
    rw [mainWipe_indw u (by omega), State.indw, hm.within.ind_eq, State.indw]
  · exact (mainWipe_flag_pwrLive u (lo := 3) (w := 1) (by decide)).trans (hk.flag_eq _ (by decide))

theorem mainReset_ovenKept (cause : ResetCause) (s : State) : OvenKept s (mainReset cause s) ∧ (mainReset cause s).tap = {} := by
  obtain ⟨s3, caught, hm, hk, he⟩ := mainReset_wipes cause s
  have hw := mainWipe_ovenKept (hm.trans (State.setFlag_moves (.refl _ s3) F.TBASE_LIVE_OUTAGE true (listed rfl)))
    (hk.setFlag F.TBASE_LIVE_OUTAGE true (by decide)) (State.flag_setFlag_same _ _ _ (by decide) rfl)
  generalize mainWipe (s3.setFlag F.TBASE_LIVE_OUTAGE true) = w at he hw
  exact he ▸ ⟨hw, rfl⟩

/-! ### The losses of supply (R35, R37, R38) -/

/-- The parts that a loss may change. -/
def lossParts : List Part :=
  [.regs, .ind, .sram, .pwr, .hst, .lanes, .tb, .met, .loop, .sky, .prf, .net, .tlm, .twin, .boot, .tap, .lanePll, .free]

theorem execSupplyReset_eq {s : State} {vin : Nat} (hs : s.pwr.stageOn = true) (hv : vin < 4800) :
    exec (.supplyReset vin) s = .next (supplyReset vin s) := congrArg _ (if_pos ⟨hv, .inl hs⟩)

theorem supplyReset_keepsOven (s : State) (vin : Nat) (hs : s.pwr.stageOn = true) (hv : vin < 4800) (hr : s.flag F.PWR_LIVE_HOLDUP_READY = true) :
    Answers (.supplyReset vin) s fun t =>
      t.pwr.stageOn = false ∧ t.pwr.railsGood = false ∧ t.pwr.mainUp = false ∧ t.pwr.ovenUp = s.pwr.ovenUp ∧ t.pwr.vin = vin ∧
      t.pwr.warnN = s.pwr.warnN ∧ t.pwr.low = true ∧ t.pwr.lastCause = .supply ∧
      t.pwr.dip = s.pwr.dip.map (fun d => { d with reset := true, min := min d.min vin }) ∧ OvenKept s t ∧ t.tap = {} ∧ Within lossParts s t := by
  refine ⟨_, execSupplyReset_eq hs hv, ?_⟩
  have hmov : Moves lossParts s (supplyReset vin s) := by apply supplyReset_moves (.refl _ _) .. <;> exact listed rfl
  revert hmov
  unfold supplyReset
  extract_lets s1
  intro hmov
  rw [if_pos hr] at hmov ⊢
  obtain ⟨hkept, htap⟩ := mainReset_ovenKept .supply s1
  obtain ⟨caught, hp⟩ := mainReset_pwr .supply s1
  generalize mainReset .supply s1 = u at *
  beta_reduce
  rw [stageOff_pwr, hp]
  exact ⟨rfl, rfl, rfl, rfl, rfl, rfl, rfl, rfl, rfl, hkept, htap, hmov.within⟩

theorem supplyReset_cold (s : State) (vin : Nat) (hs : s.pwr.stageOn = true) (hv : vin < 4800) (hr : s.flag F.PWR_LIVE_HOLDUP_READY = false) :
    Answers (.supplyReset vin) s fun t =>
      t.regs = [] ∧ t.ind = [] ∧ t.sram = [] ∧ t.tb = {} ∧ t.loop = {} ∧ t.pwr = { vin := vin, resetN := s.pwr.resetN, low := true, xoIn := s.pwr.xoIn } ∧
      t.boot.valid = s.boot.valid ∧ t.boot.revoked = s.boot.revoked ∧ t.boot.secver = s.boot.secver ∧ t.boot.hash = s.boot.hash ∧
      t.tap = {} ∧ t.hostMem = s.hostMem ∧ t.pending = s.pending := by
  refine ⟨_, execSupplyReset_eq hs hv, ?_⟩
  rw [supplyReset, hr, if_neg Bool.false_ne_true]
  exact ⟨rfl, rfl, rfl, rfl, rfl, rfl, rfl, rfl, rfl, rfl, rfl, rfl, rfl⟩

theorem ovenIslandStop_cold (s : State) (mv : Nat) (ho : s.pwr.ovenUp = true) (hmv : mv < 3000) (hv : s.pwr.vin < 4800) :
    Answers (.ovenIslandStop mv) s fun t =>
      t.regs = [] ∧ t.ind = [] ∧ t.pwr.ovenUp = false ∧ t.pwr.stageOn = false ∧ t.tb = {} ∧
      t.boot.valid = s.boot.valid ∧ t.boot.revoked = s.boot.revoked ∧ t.boot.secver = s.boot.secver ∧ t.tap = {} ∧
      t.hostMem = s.hostMem ∧ t.pending = s.pending := by
  refine answers_oven (by rw [exec, execOvenIslandStop]) ho fun t ht => ?_
  rw [if_pos ⟨hmv, hv⟩] at ht
  exact ht ▸ ⟨rfl, rfl, rfl, rfl, rfl, rfl, rfl, rfl, rfl, rfl, rfl⟩

/-! ### RESET_N and the thermal trip (R39, R44) -/

theorem resetNAssert_cold (s : State) (tj : BitVec 12) (ht : s.pwr.tripped = false) :
    Answers (.resetNAssert tj) s fun t =>
      t.regs = [] ∧ t.ind = [] ∧ t.pwr.ovenUp = false ∧ t.pwr.mainUp = false ∧ t.pwr.resetN = false ∧
      t.pwr.stageOn = s.pwr.stageOn ∧ t.pwr.railsGood = s.pwr.railsGood ∧ t.tb = {} ∧
      t.boot.valid = s.boot.valid ∧ t.boot.revoked = s.boot.revoked ∧ t.boot.secver = s.boot.secver ∧ t.tap = {} ∧
      t.hostMem = s.hostMem ∧ t.pending = s.pending := by
  refine ⟨_, by rw [exec, execResetNAssert, ht, if_neg Bool.false_ne_true], ?_⟩
  exact ⟨rfl, rfl, rfl, rfl, rfl, rfl, rfl, rfl, rfl, rfl, rfl, rfl, rfl, rfl⟩

/-- What the end of a trip does: the stage starts, at once or at the start level, with the oven island retained. -/
def TripEnds (s t : State) : Prop :=
  t.pwr = { s.pwr with stageOn := if s.pwr.low then s.pwr.stageOn else true, tripped := false, resetN := false, lastCause := .trip } ∧
    t.flag F.PWR_LIVE_OVEN_RETAINED = true ∧ Only [.pwr] [Reg.PWR_LIVE] s t

theorem tripRestart_tripEnds (s : State) : TripEnds s (tripRestart s) := by
  refine ⟨tripRestart_pwr s, ?_, ?_, ?_⟩
  · unfold tripRestart
    split
    · exact State.flag_setFlag_same _ _ _ (by decide) rfl
    · exact State.flag_setFlag_same _ _ _ (by decide) rfl
  · exact (tripRestart_moves (.refl _ s) (listed rfl) (listed rfl)).within
  · exact .ite (((RegsKeep.refl _ s).updPwr _).setFlag _ _ (.head _)) ((((RegsKeep.refl _ s).updPwr _).updPwr _).setFlag _ _ (.head _))

theorem resetNAssert_endsTrip (s : State) (tj : BitVec 12) (ht : s.pwr.tripped = true) (hj : tj.toInt < 400) :
    Answers (.resetNAssert tj) s (TripEnds s) := by
  refine ⟨_, ?_, tripRestart_tripEnds s⟩
  rw [exec, execResetNAssert, if_pos ht, signed_toNat, if_pos (show tj.toInt < restartTemp from hj)]

theorem resetNAssert_ignored (s : State) (tj : BitVec 12) (ht : s.pwr.tripped = true) (hj : 400 ≤ tj.toInt) :
    exec (.resetNAssert tj) s = .next s := by
  rw [exec, execResetNAssert, if_pos ht, signed_toNat, if_neg (show ¬tj.toInt < restartTemp from Int.not_lt.2 hj)]

theorem thermalTrip_keepsOven (s : State) (tj : BitVec 12) (hj : 500 ≤ tj.toInt) (ho : s.pwr.ovenUp = true) (ht : s.pwr.tripped = false) :
    Answers (.thermalTrip tj) s fun t =>
      t.pwr.tripped = true ∧ t.pwr.stageOn = false ∧ t.pwr.railsGood = false ∧ t.pwr.mainUp = false ∧ t.pwr.ovenUp = true ∧
      OvenKept s t ∧ Within lossParts s t := by
  have hx : exec (.thermalTrip tj) s = .next ((stageOff (mainReset .trip s)).updPwr fun p => { p with tripped := true }) := by
    rw [exec, execThermalTrip, signed_toNat, if_pos ⟨hj, ho, by simp [ht]⟩]
  refine ⟨_, hx, ?_⟩
  have hmov : Moves lossParts s (mainReset .trip s) := by apply mainReset_moves (.refl _ _) .. <;> exact listed rfl
  obtain ⟨hkept, -⟩ := mainReset_ovenKept .trip s
  obtain ⟨caught, hp⟩ := mainReset_pwr .trip s
  generalize mainReset .trip s = u at *
  beta_reduce
  rw [State.updPwr_pwr, stageOff_pwr, hp]
  refine ⟨rfl, rfl, rfl, rfl, ho, hkept, Moves.within ?_⟩
  exact State.updPwr_moves (State.updPwr_moves hmov _ (listed rfl)) _ (listed rfl)

/-- Settles O3. -/
theorem powerLosses : Obligations.PowerLosses := by
  refine ⟨fun s vin hs hv hr => ?_, supplyReset_cold, ovenIslandStop_cold, resetNAssert_cold, resetNAssert_endsTrip,
    resetNAssert_ignored, fun s tj hj ho ht => ?_⟩
  · obtain ⟨t, hx, hstage, hrails, hmain, hoven, hvin, hwarn, hlow, hcause, hdip, hkept, htap, hw⟩ := supplyReset_keepsOven s vin hs hv hr
    obtain ⟨hout, htb, hreg, hind, hlanes, hnet, hsram, htemp⟩ := hkept
    refine ⟨t, hx, hstage, hrails, hmain, hoven, hvin, hwarn, hlow, hcause, hdip, hout, htb, fun a ha => ?_, hind, hlanes, hnet, hsram,
      htap, htemp, hw⟩
    exact hreg a (by revert a ha; decide) (by revert a ha; decide)
  · obtain ⟨t, hx, htrip, hstage, hrails, hmain, hoven, ⟨hout, htb, -, hind, hlanes, hnet, hsram, -⟩, hw⟩ :=
      thermalTrip_keepsOven s tj hj ho ht
    exact ⟨t, hx, htrip, hstage, hrails, hmain, hoven, hout, htb, hind, hlanes, hnet, hsram, hw⟩

end Sys2Proof.Machine
end

section
/-!
SUPPORT. The events of a start (R24, R36, R44, R522 to R524): the stage, the rails, the straps, the keeper's clock and the release of the
main domain. O1 follows.
-/
namespace Sys2Proof.Machine
set_option Elab.async false

/-! ### The stage, the rails and the straps -/

theorem stageStart_starts (s : State) (vin : Nat) (hs : s.pwr.stageOn = false) (ho : s.pwr.ovenUp = false) (hv : 5900 < vin) :
    Answers (.stageStart vin) s fun t => t.pwr = { s.pwr with stageOn := true, vin := vin, low := false } ∧ Within [.pwr] s t :=
  ⟨_, congrArg Host.Outcome.next (if_pos ⟨by simp [hs], by simp [ho], hv⟩), rfl, (State.updPwr_moves (.refl _ s) _ (listed rfl)).within⟩

theorem railsGood_shows (s : State) (hs : s.pwr.stageOn = true) :
    Answers .railsGood s fun t => t.pwr = { s.pwr with railsGood := true } ∧ Within [.pwr] s t :=
  ⟨_, congrArg Host.Outcome.next (if_pos hs), rfl, (State.updPwr_moves (.refl _ s) _ (listed rfl)).within⟩

theorem internalResetRelease_samples (s : State) (pref boot head : Bool) (hr : s.pwr.railsGood = true) (hl : s.pwr.released = false)
    (ht : s.pwr.tripped = false) :
    Answers (.internalResetRelease pref boot head) s fun t =>
      t.pwr = { s.pwr with released := true, resetN := true, ovenUp := true } ∧
      t.reg Reg.CHIP_STRAPS = BitVec.ofNat 32 (flagAt pref 0 + flagAt boot 1 + flagAt head 2) ∧
      (s.pwr.ovenUp = true → t.boot = s.boot ∧ t.reg Reg.TWIN_PAIR_CFG = s.reg Reg.TWIN_PAIR_CFG) ∧
      (s.pwr.ovenUp = false → t.boot.strapBoot = boot ∧ t.boot.enumHead = head ∧ t.flag F.TWIN_PAIR_CFG_PREF = pref) ∧
      Only [.pwr, .boot] [Reg.CHIP_STRAPS, Reg.TWIN_PAIR_CFG] s t := by
  refine ⟨_, congrArg Host.Outcome.next (if_pos ⟨hr, by simp [hl], by simp [ht]⟩), resetRelease_pwr .., ?_, fun ho => ?_, fun ho => ?_, ?_, ?_⟩
  · unfold resetRelease
    extract_lets s1 s2
    have h1 : s1.reg Reg.CHIP_STRAPS = BitVec.ofNat 32 (flagAt pref 0 + flagAt boot 1 + flagAt head 2) := State.reg_setReg_same ..
    clear_value s1
    rw [State.updPwr_reg]
    dsimp only [s2]
    split
    · exact h1
    · exact (State.reg_setFlag_ne _ _ _ (by decide)).trans h1
  · rw [resetRelease, if_pos ho]
    exact ⟨rfl, State.reg_setReg_ne _ _ (by decide)⟩
  · rw [resetRelease, ho, if_neg Bool.false_ne_true]
    exact ⟨rfl, rfl, State.flag_setFlag_same _ _ _ (by decide) rfl⟩
  · apply Moves.within
    apply resetRelease_moves (.refl _ s) .. <;> exact listed rfl
  · have h1 := (RegsKeep.refl [Reg.CHIP_STRAPS, Reg.TWIN_PAIR_CFG] s).setReg Reg.CHIP_STRAPS
      (BitVec.ofNat 32 (flagAt pref 0 + flagAt boot 1 + flagAt head 2)) (.head _)
    exact (RegsKeep.ite h1 ((h1.setFlag F.TWIN_PAIR_CFG_PREF pref (.tail _ (.head _))).updBoot _)).updPwr _

/-! ### The keeper's clock (R524, R528) -/

/-- The part shows its new address, and sends the next as its first frame. -/
theorem takeUnit_shows {u : Nat} (hu : u < 63) (s : State) :
    (takeUnit u s).fld F.CHIP_UNIT_UNIT = u ∧ (takeUnit u s).flag F.CHIP_UNIT_VALID = true ∧
      (takeUnit u s).boot.enumOut = enumFrame (u + 1) := by
  have hf : (((s.setFld F.CHIP_UNIT_UNIT u).setFlag F.CHIP_UNIT_VALID true).raise F.CHIP_INT_STATUS_ENUM_DONE).fld F.CHIP_UNIT_UNIT = u := by
    simp (disch := decide) only [State.fld_raise, State.fld_setFlag, State.fld_setFld_same]
    exact Nat.mod_eq_of_lt (Nat.lt_succ_of_lt hu)
  have hv : (((s.setFld F.CHIP_UNIT_UNIT u).setFlag F.CHIP_UNIT_VALID true).raise F.CHIP_INT_STATUS_ENUM_DONE).flag F.CHIP_UNIT_VALID = true := by
    simp (disch := decide) only [State.flag_raise, State.flag_setFlag_same]
  refine ⟨hf, hv, ?_⟩
  rw [takeUnit]
  generalize ((s.setFld F.CHIP_UNIT_UNIT u).setFlag F.CHIP_UNIT_VALID true).raise F.CHIP_INT_STATUS_ENUM_DONE = t at *
  have he : (enumSend t).boot.enumOut = if t.flag F.CHIP_UNIT_VALID ∧ t.fld F.CHIP_UNIT_UNIT < 63 then enumFrame (t.fld F.CHIP_UNIT_UNIT + 1) else [] := rfl
  rw [he, hf, if_pos ⟨hv, hu⟩]

theorem takeUnit_regsKeep (u : Nat) (s : State) : RegsKeep [Reg.CHIP_UNIT, Reg.CHIP_INT_STATUS] s (takeUnit u s) :=
  ((((RegsKeep.refl _ s).setFld F.CHIP_UNIT_UNIT _ (.head _)).setFlag F.CHIP_UNIT_VALID _ (.head _)).raise F.CHIP_INT_STATUS_ENUM_DONE
    (.tail _ (.head _))).updBoot _

theorem keeperLock_runs (s : State) (ho : s.pwr.ovenUp = true) (hr : s.pwr.released = true) (hx : s.pwr.xoIn = true)
    (hl : s.pwr.oclkUp = false) :
    Answers .keeperLock s fun t =>
      t.pwr = { s.pwr with oclkUp := true } ∧
      (s.boot.enumHead = true → t.fld F.CHIP_UNIT_UNIT = 0 ∧ t.flag F.CHIP_UNIT_VALID = true ∧ t.boot.enumOut = enumFrame 1) ∧
      (s.boot.enumHead = false → t.boot = s.boot ∧ RegsKeep [] s t) ∧
      Only [.pwr, .boot] [Reg.CHIP_UNIT, Reg.CHIP_INT_STATUS] s t := by
  refine ⟨_, congrArg Host.Outcome.next (if_pos ⟨ho, hr, hx, by simp [hl]⟩), ?_⟩
  extract_lets p s1
  have hp : s1.pwr = { s.pwr with oclkUp := true } := rfl
  have hb : s1.boot = s.boot := rfl
  have hm : Moves [.regs, .pwr, .boot] s s1 := State.updPwr_moves (.refl _ _) _ (listed rfl)
  have hk : ∀ as, RegsKeep as s s1 := fun as => (RegsKeep.refl as s).updPwr _
  clear_value s1
  cases hh : s.boot.enumHead with
  | true =>
    have ht : Moves [.regs, .boot] s1 (takeUnit 0 s1) := by apply takeUnit_moves (.refl _ _) .. <;> exact listed rfl
    rw [if_pos rfl]
    refine ⟨ht.within.pwr_eq.trans hp, fun _ => takeUnit_shows (by decide) s1, nofun, (hm.trans (ht.mono (by decide))).within, ?_⟩
    exact (hk _).trans (takeUnit_regsKeep 0 s1)
  | false =>
    rw [if_neg Bool.false_ne_true]
    exact ⟨hp, nofun, fun _ => ⟨hb, hk _⟩, hm.within, hk _⟩

theorem noXoIn_waits (s : State) (hx : s.pwr.xoIn = false) :
    exec .keeperLock s = .next s ∧ exec .mainDomainRelease s = .next s := by
  constructor
  · exact congrArg Host.Outcome.next (if_neg fun h => by simp [hx] at h)
  · exact congrArg Host.Outcome.next (if_neg fun h => by simp [hx] at h)

/-! ### The release of the main domain (R524, R584) -/

/-- A bit of a word as a field of its own. -/
theorem decide_bits_one (v : Word) (i : Nat) : decide (bits v i 1 ≠ 0) = v.getLsbD i := by
  have hb : decide (bits v i 1 % 2 = 1) = v.getLsbD i := by
    rw [← Nat.testBit_zero, testBit_bits]
    exact Bool.true_and _
  have hl := bits_lt v i 1
  rw [← hb, decide_eq_decide]
  omega

theorem flag_supplyReset_eq (s : State) : s.flag F.PWR_INT_STATUS_SUPPLY_RESET = (s.reg Reg.PWR_INT_STATUS).getLsbD 6 := decide_bits_one _ 6

theorem flag_tripRestart_eq (s : State) : s.flag F.PWR_INT_STATUS_TRIP_RESTART = (s.reg Reg.PWR_INT_STATUS).getLsbD 8 := decide_bits_one _ 8

/-- The causes that show with the release: those latched in the reset, and the reset's own. -/
def releaseCauses (s : State) : Word :=
  s.pwr.latched ||| match s.pwr.lastCause with
    | .cold => 0
    | .supply => 0x40#32
    | .trip => 0x100#32

theorem releaseCauses_reset (s : State) :
    (releaseCauses s).getLsbD 6 = (s.pwr.latched.getLsbD 6 || decide (s.pwr.lastCause = .supply)) ∧
      (releaseCauses s).getLsbD 8 = (s.pwr.latched.getLsbD 8 || decide (s.pwr.lastCause = .trip)) := by
  unfold releaseCauses
  cases s.pwr.lastCause <;> constructor <;> rw [BitVec.getLsbD_or] <;> rfl

/-- The main domain is up from now on, with no cause latched. -/
def mainUpNow (s : State) : State :=
  { s.updPwr fun p => { p with mainUp := true, latched := 0 } with clk := { s.clk with mainAt := s.clk.tclk } }

/-- The wiped part with its causes shown, the band search running and the boot ROM waiting for an image. -/
def released (s : State) : State :=
  let s1 := (mainUpNow (mainWipe s)).setReg Reg.PWR_INT_STATUS (releaseCauses s)
  (mpllSearch s1).setFld F.HRTH_BOOT_STATUS_STATE (bootWait s1)

theorem mainRelease_eq (s : State) : mainRelease s = roleEval (settleCover (released s)) := by
  unfold mainRelease released releaseCauses
  generalize mainWipe s = w
  cases s.pwr.lastCause <;> rfl

/-- The role and its cover leave what the release shows. -/
theorem mainRelease_regsKeep (s : State) : RegsKeep leadRegs (released s) (mainRelease s) := by
  rw [mainRelease_eq]
  exact ((RegsKeep.refl _ _).settleCover (by decide) (by decide)).trans (roleEval_regsKeep _)

theorem mainRelease_moves_released (s : State) : Moves [.regs, .loop, .twin] (released s) (mainRelease s) := by
  rw [mainRelease_eq]
  apply roleEval_moves (settleCover_moves (.refl _ _) ..) .. <;> exact listed rfl

theorem bootWait_lt (s : State) : bootWait s < 8 := by
  unfold bootWait
  split <;> decide

theorem released_shows (s : State) :
    (released s).flag F.LOOP_MPLL_STATUS_SEARCHING = true ∧ (released s).flag F.LOOP_MPLL_STATUS_LOCKED = false ∧
      (released s).fld F.HRTH_BOOT_STATUS_STATE = bootWait s ∧ (released s).reg Reg.PWR_INT_STATUS = releaseCauses s := by
  have hw : (mainWipe s).boot = (ovenPart s).boot := (mainWipe_moves_ovenPart s).within.boot_eq
  unfold released
  generalize mainWipe s = w at *
  extract_lets s1
  have hr : s1.reg Reg.PWR_INT_STATUS = releaseCauses s := State.reg_setReg_same ..
  have hs1 : s1.boot = (ovenPart s).boot := hw
  have hb : bootWait s1 = bootWait s := by
    rw [bootWait, hs1]
    rfl
  rw [hb]
  clear_value s1
  unfold mpllSearch
  refine ⟨?_, ?_, ?_, ?_⟩
  · simp (disch := decide) only [State.flag_setFld, State.flag_setFlag_same]
  · simp (disch := decide) only [State.flag_setFld, State.flag_setFlag, State.flag_setFlag_same]
  · rw [State.fld_setFld_same _ _ _ (by decide)]
    exact Nat.mod_eq_of_lt (bootWait_lt _)
  · simp (disch := decide) only [State.reg_setFld_ne, State.reg_setFlag_ne, hr]

theorem released_moves (s : State) : Moves [.regs] (mainUpNow (mainWipe s)) (released s) := by
  apply State.setFld_moves (mpllSearch_moves (State.setReg_moves (.refl _ _) ..) ..) .. <;> exact listed rfl

/-- Beside the registers, the loop and the role, the part is as the wipe left it, on a clock that counts from here. -/
theorem mainRelease_within (s : State) : Within [.regs, .loop, .twin] (mainUpNow (mainWipe s)) (mainRelease s) :=
  ((released_moves s).mono (by decide) |>.trans (mainRelease_moves_released s)).within

theorem mainDomainRelease_shows (s : State) (hc : s.pwr.oclkUp = true) (hr : s.pwr.released = true) (hx : s.pwr.xoIn = true)
    (hm : s.pwr.mainUp = false) :
    Answers .mainDomainRelease s fun t =>
      t.pwr = { s.pwr with mainUp := true, latched := 0 } ∧ t.clk = { s.clk with mainAt := s.clk.tclk } ∧
      t.flag F.LOOP_MPLL_STATUS_SEARCHING = true ∧ t.flag F.LOOP_MPLL_STATUS_LOCKED = false ∧
      t.fld F.HRTH_BOOT_STATUS_STATE = (if s.boot.strapBoot then 2 else 1) ∧
      t.flag F.PWR_INT_STATUS_SUPPLY_RESET = (s.pwr.latched.getLsbD 6 || decide (s.pwr.lastCause = .supply)) ∧
      t.flag F.PWR_INT_STATUS_TRIP_RESTART = (s.pwr.latched.getLsbD 8 || decide (s.pwr.lastCause = .trip)) ∧
      t.sram = [] ∧ t.hostMem = s.hostMem ∧ t.tb.value = s.tb.value ∧ t.boot.valid = s.boot.valid ∧
      t.boot.revoked = s.boot.revoked ∧ t.boot.secver = s.boot.secver ∧ t.tap = s.tap ∧ t.pending = s.pending := by
  refine ⟨mainRelease s, congrArg Host.Outcome.next (if_pos ⟨hc, hr, hx, by simp [hm]⟩), mainRelease_pwr s, ?_⟩
  obtain ⟨hsearch, hlock, hboot, hcause⟩ := released_shows s
  have hk := mainRelease_regsKeep s
  have hw := mainRelease_within s
  have ho := (mainWipe_moves_ovenPart s).within
  have hint : (mainRelease s).reg Reg.PWR_INT_STATUS = releaseCauses s := (hk _ (by decide)).1.trans hcause
  generalize mainRelease s = t at *
  generalize mainWipe s = w at *
  have hclk : t.clk = { w.clk with mainAt := w.clk.tclk } := hw.clk_eq
  have htb : t.tb = (ovenPart s).tb := hw.tb_eq.trans ho.tb_eq
  have hbt : t.boot = (ovenPart s).boot := hw.boot_eq.trans ho.boot_eq
  refine ⟨?_, (hk.flag_eq _ (by decide)).trans hsearch, (hk.flag_eq _ (by decide)).trans hlock, (hk.fld_eq _ (by decide)).trans hboot,
    ?_, ?_, hw.sram_eq.trans ho.sram_eq, hw.hostMem_eq.trans ho.hostMem_eq, ?_, ?_, ?_, ?_, hw.tap_eq.trans ho.tap_eq,
    hw.pending_eq.trans ho.pending_eq⟩
  · rw [hclk, ho.clk_eq]; rfl
  · rw [flag_supplyReset_eq, hint, (releaseCauses_reset s).1]
  · rw [flag_tripRestart_eq, hint, (releaseCauses_reset s).2]
  · rw [htb]; rfl
  · rw [hbt]; rfl
  · rw [hbt]; rfl
  · rw [hbt]; rfl

/-! ### Restarts with the oven island kept (R36, R44) -/

theorem supplyRestart_retained (s : State) (vin : Nat) (ho : s.pwr.ovenUp = true) (hs : s.pwr.stageOn = false) (ht : s.pwr.tripped = false)
    (hv : 5900 < vin) :
    Answers (.supplyRestart vin) s fun t =>
      t.pwr = { s.pwr with stageOn := true, vin := vin, low := false } ∧ t.flag F.PWR_LIVE_OVEN_RETAINED = true ∧
      Only [.pwr] [Reg.PWR_LIVE] s t := by
  refine answers_oven (by rw [exec, execSupplyRestart]) ho fun t hx => ?_
  rw [if_pos ⟨hv, by simp [hs]⟩, ht, if_neg Bool.false_ne_true] at hx
  subst hx
  refine ⟨rfl, State.flag_setFlag_same _ _ _ (by decide) rfl, Moves.within ?_, ?_⟩
  · exact State.setFlag_moves (State.updPwr_moves (State.updPwr_moves (.refl _ s) _ (listed rfl)) _ (listed rfl)) _ _ (listed rfl)
  · exact (((RegsKeep.refl _ s).updPwr _).updPwr _).setFlag _ _ (.head _)

theorem supplyRestart_tripped (s : State) (vin : Nat) (ho : s.pwr.ovenUp = true) (hs : s.pwr.stageOn = false) (ht : s.pwr.tripped = true)
    (hv : 5900 < vin) :
    Answers (.supplyRestart vin) s fun t => t.pwr = { s.pwr with vin := vin, low := false } ∧ Within [.pwr] s t := by
  refine answers_oven (by rw [exec, execSupplyRestart]) ho fun t hx => ?_
  rw [if_pos ⟨hv, by simp [hs]⟩, if_pos ht] at hx
  exact hx ▸ ⟨rfl, (State.updPwr_moves (.refl _ s) _ (listed rfl)).within⟩

theorem tripRestart_answers (s : State) (tj : BitVec 12) (ht : s.pwr.tripped = true) (hj : tj.toInt < 400) :
    Answers (.tripRestart tj) s (TripEnds s) := by
  refine ⟨_, ?_, tripRestart_tripEnds s⟩
  rw [exec, execTripRestart, signed_toNat, if_pos ⟨ht, (hj : tj.toInt < restartTemp)⟩]

/-- Settles O1. -/
theorem powerUpEvents : Obligations.PowerUpEvents :=
  ⟨stageStart_starts, railsGood_shows, internalResetRelease_samples, keeperLock_runs, noXoIn_waits, mainDomainRelease_shows,
    supplyRestart_retained, supplyRestart_tripped, tripRestart_answers⟩

end Sys2Proof.Machine
end

section
/-!
SUPPORT. A dip of the feed and the HOLDUP monitor (R26, R32 to R35, R40, R51, R584): where a cause of the supply goes with the main domain
up and in reset, and what one entry of the event log writes.
-/
namespace Sys2Proof.Machine
set_option Elab.async false

/-! ### Causes of the supply -/

theorem raisePwr_up {s : State} (f : Fld) (h : s.pwr.mainUp = true) : raisePwr f s = s.raise f := if_pos h

/-- Causes that wait in the oven island. -/
def latch (m : Word) (s : State) : State := s.updPwr fun p => { p with latched := p.latched ||| m }

theorem raisePwr_down {s : State} (f : Fld) (h : s.pwr.mainUp = false) : raisePwr f s = latch (BitVec.ofNat 32 (2 ^ f.lo)) s :=
  if_neg (by rw [h]; exact Bool.false_ne_true)

theorem latch_latch (m n : Word) (s : State) : latch n (latch m s) = latch (m ||| n) s := by
  simp only [latch, State.updPwr, BitVec.or_assoc]

theorem latch_mainUp (m : Word) (s : State) : (latch m s).pwr.mainUp = s.pwr.mainUp := rfl

theorem raisePwr_ite_up {s : State} (f : Fld) (c : Bool) (h : s.pwr.mainUp = true) :
    (if c then raisePwr f s else s) = s.raiseIf c f := by
  rw [raisePwr_up f h, State.raiseIf]

/-! ### Words of the event log's domain -/

theorem State.indw_setIndw (s : State) (d w k : Nat) (v : Word) : (s.setIndw d w v).indw d k = if k = w then v else s.indw d k := by
  rw [State.indw, State.setIndw, smapGet_set, State.indw]
  simp only [indKey, Nat.add_left_cancel_iff]

/-- The words of one entry, and the head and the total after it; the causes that it sets follow. -/
def evtEntry (typ us vinMin : Nat) (tb : Word) (s : State) : State :=
  let i := s.ifld 1 evtHead 0 4
  let seq := s.ifld 1 evtHead 16 16
  let s1 := ((s.setIndw 1 (4 * i) (BitVec.ofNat 32 (seq + typ * 2 ^ 28))).setIndw 1 (4 * i + 1)
    (BitVec.ofNat 32 (min us (2 ^ 32 - 1)))).setIndw 1 (4 * i + 2) (BitVec.ofNat 32 (vinMin % 2 ^ 16))
  let s2 := ((s1.setIndw 1 (4 * i + 3) tb).setIfld 1 evtHead 0 4 (i + 1)).setIfld 1 evtHead 16 16 (seq + 1)
  s2.setIndw 1 evtTotal (BitVec.ofNat 32 ((s.indw 1 evtTotal).toNat + 1))

/-- The entry that the head names was in use. -/
def evtExcess (s : State) : Bool := decide (s.ifld 1 (4 * s.ifld 1 evtHead 0 4) 28 4 ≠ 0)

/-- The total of the entries wraps with the next. -/
def evtWraps (s : State) : Bool := decide (¬(s.indw 1 evtTotal).toNat + 1 < 2 ^ 32)

/-- The causes of an entry: logged, one overwritten, the total wrapped. -/
def evtCauses (excess wraps : Bool) (s : State) : State :=
  let s3 := raisePwr F.PWR_INT_STATUS_EVT_LOGGED s
  let s4 := if excess then raisePwr F.PWR_INT_STATUS_EVT_OVERWRITE s3 else s3
  if wraps then raisePwr F.PWR_INT_STATUS_CNT_OVF s4 else s4

theorem evtLog_eq (typ us vinMin : Nat) (tb : Word) (s : State) :
    evtLog typ us vinMin tb s = evtCauses (evtExcess s) (evtWraps s) (evtEntry typ us vinMin tb s) := by
  have hc : ∀ u v : State, (if evtWraps s then u else v) = if (s.indw 1 evtTotal).toNat + 1 < 2 ^ 32 then v else u := fun u v => by
    rw [evtWraps]
    generalize 2 ^ 32 = n
    by_cases h : (s.indw 1 evtTotal).toNat + 1 < n <;> simp [h]
  rw [evtCauses, hc]
  rfl

theorem evtCauses_up (excess wraps : Bool) {s : State} (h : s.pwr.mainUp = true) : evtCauses excess wraps s =
    ((s.raise F.PWR_INT_STATUS_EVT_LOGGED).raiseIf excess F.PWR_INT_STATUS_EVT_OVERWRITE).raiseIf wraps F.PWR_INT_STATUS_CNT_OVF := by
  unfold evtCauses
  extract_lets s3 s4
  have h3 : s3 = s.raise F.PWR_INT_STATUS_EVT_LOGGED := raisePwr_up _ h
  have h4 : s4 = s3.raiseIf excess F.PWR_INT_STATUS_EVT_OVERWRITE := raisePwr_ite_up _ _ (by rw [h3]; exact h)
  have hm : s4.pwr.mainUp = true := by rw [h4, State.raiseIf_pwr, h3]; exact h
  rw [raisePwr_ite_up _ _ hm, h4, h3]

theorem evtCauses_down (excess : Bool) {s : State} (h : s.pwr.mainUp = false) :
    evtCauses excess false s = latch (if excess then 0xC else 4) s := by
  have h3 : raisePwr F.PWR_INT_STATUS_EVT_LOGGED s = latch 4 s := raisePwr_down _ h
  have h4 : raisePwr F.PWR_INT_STATUS_EVT_OVERWRITE (latch 4 s) = latch 8 (latch 4 s) := raisePwr_down _ h
  cases excess with
  | false => exact h3
  | true => exact (congrArg (raisePwr F.PWR_INT_STATUS_EVT_OVERWRITE) h3).trans (h4.trans (latch_latch ..))

theorem evtEntry_moves (typ us vinMin : Nat) (tb : Word) (s : State) : Moves [.ind] s (evtEntry typ us vinMin tb s) := by
  apply State.setIndw_moves (State.setIfld_moves (State.setIfld_moves (State.setIndw_moves (State.setIndw_moves (State.setIndw_moves
    (State.setIndw_moves (.refl _ _) ..) ..) ..) ..) ..) ..) .. <;> exact listed rfl

section
variable (typ us vinMin : Nat) (tb : Word) (s : State)

/-- The head's word after the entry. -/
def evtHeadNext : Word :=
  putBits (putBits (s.indw 1 evtHead) 0 4 (s.ifld 1 evtHead 0 4 + 1)) 16 16 (s.ifld 1 evtHead 16 16 + 1)

theorem evtEntry_indw (k : Nat) : (evtEntry typ us vinMin tb s).indw 1 k =
    if k = 0x41 then BitVec.ofNat 32 ((s.indw 1 evtTotal).toNat + 1)
    else if k = 0x40 then evtHeadNext s
    else if k = 4 * s.ifld 1 evtHead 0 4 + 3 then tb
    else if k = 4 * s.ifld 1 evtHead 0 4 + 2 then BitVec.ofNat 32 (vinMin % 2 ^ 16)
    else if k = 4 * s.ifld 1 evtHead 0 4 + 1 then BitVec.ofNat 32 (min us (2 ^ 32 - 1))
    else if k = 4 * s.ifld 1 evtHead 0 4 then BitVec.ofNat 32 (s.ifld 1 evtHead 16 16 + typ * 2 ^ 28)
    else s.indw 1 k := by
  have hi : s.ifld 1 evtHead 0 4 < 16 := bits_lt ..
  unfold evtEntry evtHeadNext
  generalize s.ifld 1 evtHead 0 4 = i at *
  have h0 : 0x40 ≠ 4 * i := by omega
  have h1 : 0x40 ≠ 4 * i + 1 := by omega
  have h2 : 0x40 ≠ 4 * i + 2 := by omega
  have h3 : 0x40 ≠ 4 * i + 3 := by omega
  simp only [State.setIfld, State.indw_setIndw, evtTotal, evtHead, h0, h1, h2, h3, if_false, if_true]
  by_cases hk : k = 0x40
  · simp only [hk, if_true]
  · simp only [hk, if_false]

/-- What one entry leaves in the log: the four words of the entry that the head named, and the head and the total one further. -/
def EvtWritten (s t : State) : Prop :=
  t.ifld 1 (4 * s.ifld 1 evtHead 0 4) 28 4 = typ ∧ t.ifld 1 (4 * s.ifld 1 evtHead 0 4) 0 16 = s.ifld 1 evtHead 16 16 ∧
    t.indw 1 (4 * s.ifld 1 evtHead 0 4 + 1) = BitVec.ofNat 32 (min us (2 ^ 32 - 1)) ∧
    t.indw 1 (4 * s.ifld 1 evtHead 0 4 + 2) = BitVec.ofNat 32 (vinMin % 2 ^ 16) ∧ t.indw 1 (4 * s.ifld 1 evtHead 0 4 + 3) = tb ∧
    t.ifld 1 evtHead 0 4 = (s.ifld 1 evtHead 0 4 + 1) % 16 ∧ t.ifld 1 evtHead 16 16 = (s.ifld 1 evtHead 16 16 + 1) % 2 ^ 16 ∧
    t.indw 1 evtTotal = s.indw 1 evtTotal + 1

/-- The log is in the indirect words alone. -/
theorem EvtWritten.of_ind {typ us vinMin : Nat} {tb : Word} {s t u v : State} (h : EvtWritten typ us vinMin tb s t) (hs : u.ind = s.ind)
    (ht : v.ind = t.ind) : EvtWritten typ us vinMin tb u v := by
  unfold EvtWritten State.ifld State.indw
  rw [hs, ht]
  exact h

theorem evtEntry_written (htyp : typ < 16) : EvtWritten typ us vinMin tb s (evtEntry typ us vinMin tb s) := by
  have hw := evtEntry_indw typ us vinMin tb s
  have hi : s.ifld 1 evtHead 0 4 < 2 ^ 4 := bits_lt ..
  have hq : s.ifld 1 evtHead 16 16 < 2 ^ 16 := bits_lt ..
  unfold EvtWritten
  generalize evtEntry typ us vinMin tb s = t at *
  unfold evtHeadNext at hw
  generalize s.ifld 1 evtHead 0 4 = i at *
  generalize s.ifld 1 evtHead 16 16 = q at *
  have h0 : t.indw 1 (4 * i) = BitVec.ofNat 32 (q + typ * 2 ^ 28) := by
    rw [hw, if_neg (by omega), if_neg (by omega), if_neg (by omega), if_neg (by omega), if_neg (by omega), if_pos rfl]
  have hhead : t.indw 1 evtHead = putBits (putBits (s.indw 1 evtHead) 0 4 (i + 1)) 16 16 (q + 1) := by
    rw [hw, if_neg (by decide), if_pos (by decide)]
  refine ⟨?_, ?_, ?_, ?_, ?_, ?_, ?_, ?_⟩
  · rw [State.ifld, h0, bits_ofNat _ _ _ (by decide)]
    omega
  · rw [State.ifld, h0, bits_ofNat _ _ _ (by decide)]
    omega
  · rw [hw, if_neg (by omega), if_neg (by omega), if_neg (by omega), if_neg (by omega), if_pos rfl]
  · rw [hw, if_neg (by omega), if_neg (by omega), if_neg (by omega), if_pos rfl]
  · rw [hw, if_neg (by omega), if_neg (by omega), if_pos rfl]
  · rw [State.ifld, hhead, bits_putBits_disjoint _ _ _ _ _ _ (by decide) (by decide)]
    exact bits_putBits_same _ _ _ _ (by decide)
  · rw [State.ifld, hhead, bits_putBits_same _ _ _ _ (by decide)]
  · rw [hw, if_pos (by decide), BitVec.ofNat_add, BitVec.ofNat_toNat, BitVec.setWidth_eq]
    rfl

end

theorem evtEntry_mainUp (typ us vinMin : Nat) (tb : Word) (s : State) : (evtEntry typ us vinMin tb s).pwr.mainUp = s.pwr.mainUp := by
  rw [(evtEntry_moves ..).within.pwr_eq]

theorem evtWraps_eq_false {s : State} (ht : s.indw 1 evtTotal ≠ 0xFFFFFFFF) : evtWraps s = false := by
  have hne : (s.indw 1 evtTotal).toNat ≠ 4294967295 := fun e => ht (BitVec.eq_of_toNat_eq e)
  have hlt := (s.indw 1 evtTotal).isLt
  rw [evtWraps, decide_eq_false_iff_not]
  omega

/-- An entry with the main domain up. -/
theorem evtLog_up {typ us vinMin : Nat} {tb : Word} {s t : State} (ht : evtLog typ us vinMin tb s = t) (htyp : typ < 16)
    (hm : s.pwr.mainUp = true) :
    t.flag F.PWR_INT_STATUS_EVT_LOGGED = true ∧ t.flag F.PWR_INT_STATUS_WARN_CLEAR = s.flag F.PWR_INT_STATUS_WARN_CLEAR ∧
      t.flag F.PWR_INT_STATUS_EVT_OVERWRITE = (evtExcess s || s.flag F.PWR_INT_STATUS_EVT_OVERWRITE) ∧ t.pwr = s.pwr ∧
      EvtWritten typ us vinMin tb s t ∧ Moves [.regs, .ind] s t ∧ RegsKeep [Reg.PWR_INT_STATUS] s t := by
  have hmov := evtEntry_moves typ us vinMin tb s
  have hw := evtEntry_written typ us vinMin tb s htyp
  rw [evtLog_eq, evtCauses_up _ _ ((evtEntry_mainUp ..).trans hm)] at ht
  generalize evtEntry typ us vinMin tb s = e at *
  generalize evtWraps s = wraps at *
  have hk : RegsKeep [Reg.PWR_INT_STATUS] s e := .of_moves hmov
  have hf : ∀ f : Fld, e.flag f = s.flag f := fun f => RegsKeep.flag_eq (as := []) (.of_moves hmov) f (List.not_mem_nil)
  subst ht
  refine ⟨?_, ?_, ?_, ?_, ?_, ?_, ?_⟩
  · simp (disch := decide) only [State.flag_raiseIf, State.flag_raise_same]
  · simp (disch := decide) only [State.flag_raiseIf, State.flag_raise, hf]
  · simp (disch := decide) only [State.flag_raiseIf, State.flag_raiseIf_same, State.flag_raise, hf]
  · rw [State.raiseIf_pwr, State.raiseIf_pwr, State.raise_pwr, hmov.within.pwr_eq]
  · exact hw.of_ind rfl (by rw [State.raiseIf_ind, State.raiseIf_ind, State.raise_ind])
  · apply State.raiseIf_moves (State.raiseIf_moves (State.raise_moves (hmov.mono ?_) ..) ..) <;> decide
  · exact ((hk.raise F.PWR_INT_STATUS_EVT_LOGGED (.head _)).raiseIf _ F.PWR_INT_STATUS_EVT_OVERWRITE fun _ => .head _).raiseIf _
      F.PWR_INT_STATUS_CNT_OVF fun _ => .head _

/-- An entry while the main domain is in reset: its causes wait. -/
theorem evtLog_down {typ us vinMin : Nat} {tb : Word} {s t : State} (ht : evtLog typ us vinMin tb s = t) (htyp : typ < 16)
    (hm : s.pwr.mainUp = false) (hn : s.indw 1 evtTotal ≠ 0xFFFFFFFF) :
    t.pwr = { s.pwr with latched := s.pwr.latched ||| (if evtExcess s then 0xC else 4) } ∧ EvtWritten typ us vinMin tb s t ∧
      Moves [.ind, .pwr] s t := by
  have hmov := evtEntry_moves typ us vinMin tb s
  have hw := evtEntry_written typ us vinMin tb s htyp
  rw [evtLog_eq, evtWraps_eq_false hn, evtCauses_down _ ((evtEntry_mainUp ..).trans hm)] at ht
  generalize evtEntry typ us vinMin tb s = e at *
  subst ht
  refine ⟨?_, hw.of_ind rfl rfl, State.updPwr_moves (hmov.mono (by decide)) _ (listed rfl)⟩
  rw [latch, State.updPwr_pwr, hmov.within.pwr_eq]

/-! ### The warning (R32) -/

/-- The warning shows itself: its flags, the pin and the record of the dip; its cause and the proofing run follow. -/
def warned (vin : Nat) (s : State) : State :=
  ((s.updPwr fun p =>
    { p with vin := vin, warnN := false, dip := some ⟨false, s.clk.tclk, BitVec.ofNat 32 (logTime s).1, vin⟩ }).setFlag
      F.PWR_LIVE_WARN_ACTIVE true).setFlag F.PWR_LIVE_EVT_FLAG true

theorem warned_pwr (vin : Nat) (s : State) : (warned vin s).pwr =
    { s.pwr with vin := vin, warnN := false, dip := some ⟨false, s.clk.tclk, BitVec.ofNat 32 (logTime s).1, vin⟩ } := rfl

theorem warned_flags (vin : Nat) (s : State) :
    (warned vin s).flag F.PWR_LIVE_WARN_ACTIVE = true ∧ (warned vin s).flag F.PWR_LIVE_EVT_FLAG = true := by
  constructor <;> simp (disch := decide) only [warned, State.flag_setFlag, State.flag_setFlag_same]

theorem warned_moves (vin : Nat) (s : State) : Moves [.regs, .pwr] s (warned vin s) := by
  apply State.setFlag_moves (State.setFlag_moves (State.updPwr_moves (.refl _ _) ..) ..) .. <;> exact listed rfl

theorem warned_regsKeep (vin : Nat) (s : State) : RegsKeep [Reg.PWR_LIVE] s (warned vin s) :=
  (((RegsKeep.refl _ s).updPwr _).setFlag F.PWR_LIVE_WARN_ACTIVE _ (.head _)).setFlag F.PWR_LIVE_EVT_FLAG _ (.head _)

theorem warnAssert_eq (vin : Nat) (s : State) : warnAssert vin s =
    if s.prf.mode = 0 then raisePwr F.PWR_INT_STATUS_WARN_ASSERT (warned vin s)
    else (prfAbandon (raisePwr F.PWR_INT_STATUS_WARN_ASSERT (warned vin s))).updPrf fun p => { p with restart := true } := by
  have hp : (raisePwr F.PWR_INT_STATUS_WARN_ASSERT (warned vin s)).prf = s.prf :=
    (raisePwr_moves (warned_moves vin s) _ (listed rfl) (listed rfl)).within.prf_eq
  rw [← hp]
  rfl

/-- A fall of VIN below the warning level, outside a warning. -/
theorem execWarnAssert_eq {s : State} {vin : Nat} (ho : s.pwr.ovenUp = true) (hv : vin < s.fld F.PWR_WARN_LEVEL_LEVEL_MV)
    (hw : s.flag F.PWR_LIVE_WARN_ACTIVE = false) : exec (.warnAssert vin) s = .next (warnAssert vin s) := by
  rw [exec, execWarnAssert, whenOven_of_up ho, if_pos ⟨hv, by simp [hw]⟩]

theorem warnAssert_up (s : State) (vin : Nat) (ho : s.pwr.ovenUp = true) (hm : s.pwr.mainUp = true) (hp : s.prf.mode = 0)
    (hv : vin < s.fld F.PWR_WARN_LEVEL_LEVEL_MV) (hw : s.flag F.PWR_LIVE_WARN_ACTIVE = false) :
    Answers (.warnAssert vin) s fun t =>
      t.flag F.PWR_LIVE_WARN_ACTIVE = true ∧ t.flag F.PWR_LIVE_EVT_FLAG = true ∧ t.flag F.PWR_INT_STATUS_WARN_ASSERT = true ∧
      t.pwr = { s.pwr with vin := vin, warnN := false, dip := some ⟨false, s.clk.tclk, BitVec.ofNat 32 (logTime s).1, vin⟩ } ∧
      Only [.pwr] [Reg.PWR_LIVE, Reg.PWR_INT_STATUS] s t := by
  refine ⟨_, execWarnAssert_eq ho hv hw, ?_⟩
  obtain ⟨hact, hflag⟩ := warned_flags vin s
  have hmov := warned_moves vin s
  have hk := warned_regsKeep vin s
  rw [warnAssert_eq, if_pos hp, raisePwr_up _ (show (warned vin s).pwr.mainUp = true from hm), ← warned_pwr]
  generalize warned vin s = u at *
  refine ⟨?_, ?_, State.flag_raise_same _ _ (by decide) rfl, rfl, ?_, ?_⟩
  · rw [State.flag_raise _ _ _ (by decide), hact]
  · rw [State.flag_raise _ _ _ (by decide), hflag]
  · exact (State.raise_moves hmov _ (listed rfl)).within
  · exact (hk.mono (by decide)).raise _ (by decide)

theorem warnAssert_down (s : State) (vin : Nat) (ho : s.pwr.ovenUp = true) (hm : s.pwr.mainUp = false) (hp : s.prf.mode = 0)
    (hv : vin < s.fld F.PWR_WARN_LEVEL_LEVEL_MV) (hw : s.flag F.PWR_LIVE_WARN_ACTIVE = false) :
    Answers (.warnAssert vin) s fun t =>
      t.flag F.PWR_LIVE_WARN_ACTIVE = true ∧ t.flag F.PWR_LIVE_EVT_FLAG = true ∧
      t.pwr = { s.pwr with vin := vin, warnN := false, dip := some ⟨false, s.clk.tclk, BitVec.ofNat 32 (logTime s).1, vin⟩, latched := s.pwr.latched ||| 1 } ∧
      Only [.pwr] [Reg.PWR_LIVE] s t := by
  refine ⟨_, execWarnAssert_eq ho hv hw, ?_⟩
  rw [warnAssert_eq, if_pos hp, raisePwr_down _ (show (warned vin s).pwr.mainUp = false from hm)]
  obtain ⟨hact, hflag⟩ := warned_flags vin s
  refine ⟨hact, hflag, rfl, ?_, ?_⟩
  · exact (State.updPwr_moves (warned_moves vin s) _ (listed rfl)).within
  · exact (warned_regsKeep vin s).updPwr _

/-! ### The end of the dip (R34, R35, R40) -/

/-- The dip ends in the flags, on the pin and in the record; its cause and the entry follow. -/
def dipEnded (vin : Nat) (s : State) : State :=
  (s.updPwr fun p => { p with vin := vin, dip := none, warnN := true }).setFlag F.PWR_LIVE_WARN_ACTIVE false

theorem warnClear_eq {s : State} {d : DipSt} (hd : s.pwr.dip = some d) (vin vinMin oclk : Nat) : warnClear vin vinMin oclk s =
    evtLog (if d.reset then 2 else 1) (divRound (8 * oclk) 1000) (min d.min vinMin) d.tb
      (raisePwr F.PWR_INT_STATUS_WARN_CLEAR (dipEnded vin s)) := by
  rw [warnClear, hd]
  rfl

/-- A length of `oclk` cycles of 8 ns in microseconds. -/
theorem divRound_oclk (oclk : Nat) : divRound (8 * oclk) 1000 = (8 * oclk + 500) / 1000 := by
  rw [divRound]
  omega

theorem execWarnClear_eq {s : State} {vin : Nat} (vinMin oclk : Nat) (ho : s.pwr.ovenUp = true)
    (hv : s.fld F.PWR_WARN_LEVEL_LEVEL_MV + 200 < vin) : exec (.warnClear vin vinMin oclk) s = .next (warnClear vin vinMin oclk s) := by
  rw [exec, execWarnClear, whenOven_of_up ho, if_pos (show warnLevel s + 200 < vin from hv)]

theorem dipEnded_moves (vin : Nat) (s : State) : Moves [.regs, .pwr] s (dipEnded vin s) :=
  State.setFlag_moves (State.updPwr_moves (.refl _ _) _ (listed rfl)) _ _ (listed rfl)

theorem dipEnded_regsKeep (vin : Nat) (s : State) : RegsKeep [Reg.PWR_LIVE] s (dipEnded vin s) :=
  ((RegsKeep.refl _ s).updPwr _).setFlag F.PWR_LIVE_WARN_ACTIVE _ (.head _)

theorem dipEnded_flag (vin : Nat) (s : State) : (dipEnded vin s).flag F.PWR_LIVE_WARN_ACTIVE = false :=
  State.flag_setFlag_same _ _ _ (by decide) rfl

theorem evtExcess_of_ind {s t : State} (h : t.ind = s.ind) : evtExcess t = evtExcess s := by
  unfold evtExcess State.ifld State.indw
  rw [h]

theorem warnClear_up (s : State) (vin low oclk : Nat) (d : DipSt) (ho : s.pwr.ovenUp = true) (hm : s.pwr.mainUp = true)
    (hd : s.pwr.dip = some d) (hv : s.fld F.PWR_WARN_LEVEL_LEVEL_MV + 200 < vin) :
    Answers (.warnClear vin low oclk) s fun t =>
      t.flag F.PWR_LIVE_WARN_ACTIVE = false ∧ t.flag F.PWR_INT_STATUS_WARN_CLEAR = true ∧ t.flag F.PWR_INT_STATUS_EVT_LOGGED = true ∧
      t.pwr = { s.pwr with vin := vin, dip := none, warnN := true } ∧
      EvtWritten (if d.reset then 2 else 1) ((8 * oclk + 500) / 1000) (min d.min low) d.tb s t ∧
      (s.flag F.PWR_INT_STATUS_EVT_OVERWRITE = false →
        t.flag F.PWR_INT_STATUS_EVT_OVERWRITE = decide (s.ifld 1 (4 * s.ifld 1 0x40 0 4) 28 4 ≠ 0)) ∧
      Only [.pwr, .ind] [Reg.PWR_LIVE, Reg.PWR_INT_STATUS] s t := by
  refine ⟨_, execWarnClear_eq low oclk ho hv, ?_⟩
  rw [warnClear_eq hd, divRound_oclk, raisePwr_up _ (show (dipEnded vin s).pwr.mainUp = true from hm)]
  have hpwr : (dipEnded vin s).pwr = { s.pwr with vin := vin, dip := none, warnN := true } := rfl
  have hmov := dipEnded_moves vin s
  have hk := dipEnded_regsKeep vin s
  have hact := dipEnded_flag vin s
  generalize dipEnded vin s = w at *
  have hind : w.ind = s.ind := hmov.within.ind_eq
  have hm2 : (w.raise F.PWR_INT_STATUS_WARN_CLEAR).pwr.mainUp = true := by rw [State.raise_pwr, hpwr]; exact hm
  generalize ht : evtLog _ _ _ _ _ = t
  obtain ⟨hlog, hclear, hover, hp, hw, hlm, hlk⟩ := evtLog_up ht (by split <;> decide) hm2
  refine ⟨?_, ?_, hlog, hp.trans hpwr, hw.of_ind hind.symm rfl, fun hov => ?_, ?_, ?_⟩
  · rw [hlk.flag_eq _ (by decide), State.flag_raise _ _ _ (by decide), hact]
  · rw [hclear, State.flag_raise_same _ _ (by decide) rfl]
  · rw [hover, evtExcess_of_ind (s := s) (t := w.raise F.PWR_INT_STATUS_WARN_CLEAR) hind, State.flag_raise _ _ _ (by decide), hk.flag_eq _ (by decide), hov, Bool.or_false]
    rfl
  · exact ((State.raise_moves (hmov.mono (by decide)) _ (listed rfl)).trans (hlm.mono (by decide))).within
  · exact ((hk.mono (by decide)).raise _ (by decide)).trans (hlk.mono (by decide))

theorem warnClear_down (s : State) (vin low oclk : Nat) (d : DipSt) (ho : s.pwr.ovenUp = true) (hm : s.pwr.mainUp = false)
    (hd : s.pwr.dip = some d) (hv : s.fld F.PWR_WARN_LEVEL_LEVEL_MV + 200 < vin) (hn : s.indw 1 0x41 ≠ 0xFFFFFFFF) :
    Answers (.warnClear vin low oclk) s fun t =>
      t.flag F.PWR_LIVE_WARN_ACTIVE = false ∧ t.indw 1 0x41 = s.indw 1 0x41 + 1 ∧
      t.pwr = { s.pwr with vin := vin, dip := none, warnN := true, latched := s.pwr.latched ||| (if s.ifld 1 (4 * s.ifld 1 0x40 0 4) 28 4 = 0 then 0x6 else 0xE) } ∧
      Only [.pwr, .ind] [Reg.PWR_LIVE] s t := by
  refine ⟨_, execWarnClear_eq low oclk ho hv, ?_⟩
  have hraise : raisePwr F.PWR_INT_STATUS_WARN_CLEAR (dipEnded vin s) = latch 2 (dipEnded vin s) := raisePwr_down _ hm
  rw [warnClear_eq hd, hraise]
  clear hraise
  have hpwr : (dipEnded vin s).pwr = { s.pwr with vin := vin, dip := none, warnN := true } := rfl
  have hmov := dipEnded_moves vin s
  have hk := dipEnded_regsKeep vin s
  have hact := dipEnded_flag vin s
  generalize dipEnded vin s = w at *
  have hind : w.ind = s.ind := hmov.within.ind_eq
  have hx : evtExcess (latch 2 w) = decide (s.ifld 1 (4 * s.ifld 1 0x40 0 4) 28 4 ≠ 0) := evtExcess_of_ind hind
  have hn2 : (latch 2 w).indw 1 evtTotal ≠ 0xFFFFFFFF := by
    rw [State.indw, latch, State.updPwr_ind, hind]
    exact hn
  generalize ht : evtLog _ _ _ _ _ = t
  obtain ⟨hp, hw, hlm⟩ := evtLog_down ht (by split <;> decide) (by rw [latch_mainUp, hpwr]; exact hm) hn2
  obtain ⟨-, -, -, -, -, -, -, htotal⟩ := hw.of_ind hind.symm rfl
  have hlk : RegsKeep [Reg.PWR_LIVE] (latch 2 w) t := .of_moves hlm
  have hk2 := (hk.updPwr _).trans hlk
  refine ⟨?_, htotal, ?_, ?_, hk2⟩
  · exact (RegsKeep.flag_eq (as := []) (.of_moves hlm) _ List.not_mem_nil).trans hact
  · rw [hp, hx, latch, State.updPwr_pwr, hpwr]
    by_cases h : s.ifld 1 (4 * s.ifld 1 0x40 0 4) 28 4 = 0 <;> simp only [h, ne_eq, not_true, not_false_iff, decide_true, decide_false,
      if_true, if_false, BitVec.or_assoc] <;> rfl
  · exact ((State.updPwr_moves (hmov.mono (by decide)) _ (listed rfl)).trans (hlm.mono (by decide))).within

/-! ### The HOLDUP monitor (R26, R51) -/

theorem holdupReady_shows (s : State) (mv : Nat) (ho : s.pwr.ovenUp = true) (hv : 11500 ≤ mv) :
    Answers (.holdupReady mv) s fun t => t.flag F.PWR_LIVE_HOLDUP_READY = true ∧ Only [] [Reg.PWR_LIVE] s t := by
  refine answers_oven (by rw [exec, execHoldupReady]) ho fun t ht => ?_
  rw [if_pos hv] at ht
  subst ht
  exact ⟨State.flag_setFlag_same _ _ _ (by decide) rfl, (State.setFlag_moves (.refl _ s) _ _ (listed rfl)).within,
    (RegsKeep.refl _ s).setFlag F.PWR_LIVE_HOLDUP_READY _ (.head _)⟩

theorem holdupCapEstimate_shows (s : State) (uF : Nat) (ho : s.pwr.ovenUp = true) (hm : s.pwr.mainUp = true) :
    Answers (.holdupCapEstimate uF) s fun t =>
      t.fld F.PWR_HOLDUP_CAP = min (uF / 10) 0xFFFF ∧
      (s.flag F.PWR_INT_STATUS_HOLDUP_LOW = false → t.flag F.PWR_INT_STATUS_HOLDUP_LOW = decide (uF < 4700)) ∧
      Only [] [Reg.PWR_HOLDUP, Reg.PWR_INT_STATUS] s t := by
  refine answers_oven (by rw [exec, execHoldupCapEstimate]) ho fun t ht => ?_
  have hraise : ∀ u : State, u.pwr.mainUp = true →
      (if uF < 4700 then raisePwr F.PWR_INT_STATUS_HOLDUP_LOW u else u) = u.raiseIf (decide (uF < 4700)) F.PWR_INT_STATUS_HOLDUP_LOW :=
    fun u hu => by rw [raisePwr_up _ hu, State.raiseIf]; simp only [decide_eq_true_eq]
  rw [if_pos hm] at ht
  dsimp only at ht
  rw [hraise _ (by rw [State.setFld_pwr]; exact hm)] at ht
  subst ht
  refine ⟨?_, fun hl => ?_, ?_, ?_⟩
  · rw [State.fld_raiseIf _ _ _ _ (by decide), State.fld_setFld_same _ _ _ (by decide)]
    exact Nat.mod_eq_of_lt (Nat.lt_of_le_of_lt (Nat.min_le_right ..) (by decide))
  · rw [State.flag_raiseIf_same _ _ _ (by decide) rfl, State.flag_setFld _ _ _ _ (by decide), hl, Bool.or_false]
  · exact (State.raiseIf_moves (State.setFld_moves (.refl _ s) _ _ (listed rfl)) _ _ (listed rfl)).within
  · exact ((RegsKeep.refl _ s).setFld F.PWR_HOLDUP_CAP _ (.head _)).raiseIf _ F.PWR_INT_STATUS_HOLDUP_LOW fun _ => .tail _ (.head _)

/-- HOLDUP below its level outside a dip. -/
theorem execHoldupLow_eq {s : State} {mv : Nat} (ho : s.pwr.ovenUp = true) (hv : mv < 11500) (hr : s.flag F.PWR_LIVE_HOLDUP_READY = true)
    (hw : s.fld F.PWR_WARN_LEVEL_LEVEL_MV < s.pwr.vin) :
    exec (.holdupLow mv) s = .next (raisePwr F.PWR_INT_STATUS_HOLDUP_LOW s) := by
  rw [exec, execHoldupLow, whenOven_of_up ho, if_pos ⟨hv, hr, hw⟩]

theorem holdupLow_up (s : State) (mv : Nat) (ho : s.pwr.ovenUp = true) (hm : s.pwr.mainUp = true) (hv : mv < 11500)
    (hr : s.flag F.PWR_LIVE_HOLDUP_READY = true) (hw : s.fld F.PWR_WARN_LEVEL_LEVEL_MV < s.pwr.vin) :
    Answers (.holdupLow mv) s fun t => t.flag F.PWR_INT_STATUS_HOLDUP_LOW = true ∧ Only [] [Reg.PWR_INT_STATUS] s t := by
  refine ⟨_, execHoldupLow_eq ho hv hr hw, ?_⟩
  rw [raisePwr_up _ hm]
  exact ⟨State.flag_raise_same _ _ (by decide) rfl, (State.raise_moves (.refl _ s) _ (listed rfl)).within,
    (RegsKeep.refl _ s).raise F.PWR_INT_STATUS_HOLDUP_LOW (.head _)⟩

theorem holdupLow_down (s : State) (mv : Nat) (ho : s.pwr.ovenUp = true) (hm : s.pwr.mainUp = false) (hv : mv < 11500)
    (hr : s.flag F.PWR_LIVE_HOLDUP_READY = true) (hw : s.fld F.PWR_WARN_LEVEL_LEVEL_MV < s.pwr.vin) :
    Answers (.holdupLow mv) s fun t => t.pwr = { s.pwr with latched := s.pwr.latched ||| 0x20 } ∧ Within [.pwr] s t := by
  refine ⟨_, execHoldupLow_eq ho hv hr hw, ?_⟩
  rw [raisePwr_down _ hm]
  exact ⟨rfl, (State.updPwr_moves (.refl _ s) _ (listed rfl)).within⟩

end Sys2Proof.Machine
end

section
/-!
SUPPORT. A proofing run about a dip (R33, R309 to R323): which registers its cells and its steps change, what a start and an abandonment show.
O2 follows.
-/
namespace Sys2Proof.Machine
set_option Elab.async false

/-! ### Registers of the cells -/

/-- The pages of link phase metrology. -/
def metRegs : List Nat := List.range' 0x184000 0x24000

theorem mem_metRegs {a : Nat} : a ∈ metRegs ↔ 0x184000 ≤ a ∧ a < 0x1A8000 := List.mem_range'_1

/-- A register outside the pages, and outside a few more. -/
theorem not_mem_metRegs_append {a : Nat} {as : List Nat} (h : a < 0x184000 ∨ 0x1A8000 ≤ a) (n : a ∉ as) : a ∉ metRegs ++ as := by
  rw [List.mem_append, mem_metRegs, not_or]
  exact ⟨by omega, n⟩

theorem cellStatus_mem {c : Nat} (h : c < 32) : Reg.MET_CELL_STATUS c ∈ metRegs := by
  rw [mem_metRegs, Reg.MET_CELL_STATUS]
  omega

theorem cellCd_mem {c : Nat} (h : c < 32) : Reg.MET_CELL_CD c ∈ metRegs := by
  rw [mem_metRegs, Reg.MET_CELL_CD]
  omega

theorem srcLast_mem {i : Nat} (h : i < 1024) : Reg.MET_SRC_LAST i ∈ metRegs := by
  rw [mem_metRegs, Reg.MET_SRC_LAST]
  omega

theorem cdBusy_mem : Reg.MET_CD_BUSY ∈ metRegs := by
  rw [mem_metRegs]
  decide

theorem cellProof_mem : Reg.MET_CELL_PROOF ∈ metRegs := by
  rw [mem_metRegs]
  decide

section
variable {s0 s : State}

theorem RegsKeep.setProof {c : Nat} (hc : c < 32) (b : Bool) (h : RegsKeep metRegs s0 s) : RegsKeep metRegs s0 (setProof c b s) :=
  (h.setRbit _ _ _ cellProof_mem).setFld _ _ (cellStatus_mem hc)

theorem RegsKeep.setStale {i : Nat} (hi : i < 1024) (b : Bool) (h : RegsKeep metRegs s0 s) : RegsKeep metRegs s0 (setStale i b s) :=
  (h.updMet _).setFlag _ _ (srcLast_mem hi)

theorem RegsKeep.settleSource {i : Nat} (hi : i < 1024) (before : State) (h : RegsKeep metRegs s0 s) :
    RegsKeep metRegs s0 (settleSource before s i) :=
  .ite (h.setStale hi true) (.ite (.ite (h.setStale hi false) h) (.ite (h.updMet _) h))

/-- A source is named in ten bits. -/
theorem namedSources_lt {i : Nat} (h : i ∈ namedSources s) : i < 1024 := by
  obtain ⟨w, -, rfl⟩ := List.mem_map.1 h
  exact bits_lt w 0 10

theorem RegsKeep.withHolds {f : State → State} (h : RegsKeep metRegs s0 (f s)) : RegsKeep metRegs s0 (withHolds f s) := by
  refine RegsKeep.foldl _ _ (fun i hi _ hs => hs.settleSource ?_ s) h
  rcases List.mem_append.1 (List.mem_eraseDups.1 hi) with hi | hi
  · exact namedSources_lt hi
  · exact namedSources_lt hi

theorem RegsKeep.cdStart (c : Nat) (h : RegsKeep metRegs s0 s) : RegsKeep metRegs s0 (cdStart c s) := by
  have hh : RegsKeep metRegs s0 (clearHist c s) := h.of_regs rfl rfl
  exact .ite h ((hh.updMet _).setRbit _ _ _ cdBusy_mem)

theorem RegsKeep.cdAbandon {c : Nat} (hc : c < 32) (h : RegsKeep metRegs s0 s) : RegsKeep metRegs s0 (cdAbandon c s) :=
  .ite (((h.setRbit _ _ _ cdBusy_mem).setFld _ _ (cellCd_mem hc)).setFlag _ _ (cellStatus_mem hc)) h

end

/-! ### A run is abandoned (R320) -/

/-- The registers that show an abandoned run. -/
def abandonRegs : List Nat := metRegs ++ [Reg.PRF_ABANDON_COUNT, Reg.PRF_INT_STATUS, Reg.PRF_LIVE]

theorem showPrf_regsKeep (s : State) : RegsKeep [Reg.PRF_LIVE] s (showPrf s) :=
  (((RegsKeep.refl _ s).setFld F.PRF_LIVE_STATE _ (.head _)).setFlag F.PRF_LIVE_PENDING _ (.head _)).setFld F.PRF_LIVE_CAUSE _ (.head _)

theorem showPrf_prf (s : State) : (showPrf s).prf = s.prf := (showPrf_moves (.refl [.regs] s) (listed rfl)).within.prf_eq

theorem prfAbandon_shows {s : State} (h : s.prf.mode ≠ 0) :
    (prfAbandon s).flag F.PRF_INT_STATUS_RUN_ABANDON = true ∧ (prfAbandon s).prf.mode = 0 ∧ RegsKeep abandonRegs s (prfAbandon s) := by
  rw [prfAbandon, if_neg h]
  extract_lets s1 s2 s3
  have h1 : RegsKeep metRegs s s1 := RegsKeep.forUpto _ _ (fun c hc _ g => .ite (g.cdAbandon hc) g) (.refl _ s)
  clear_value s1
  have h2 : RegsKeep metRegs s s2 := RegsKeep.withHolds (RegsKeep.forUpto _ _ (fun c hc _ g => .ite (g.setProof hc false) g) h1)
  clear_value s2
  have h3 : RegsKeep abandonRegs s s3 := by
    refine ((h2.mono fun _ => List.mem_append_left _).bump32 _ _ _ ?_ ?_).raise _ ?_ <;> exact List.mem_append_right _ (by decide)
  have hf : s3.flag F.PRF_INT_STATUS_RUN_ABANDON = true := State.flag_raise_same _ _ (by decide) rfl
  clear_value s3
  refine ⟨?_, ?_, ?_⟩
  · exact ((showPrf_regsKeep _).flag_eq _ (by decide)).trans hf
  · rw [showPrf_prf]
    rfl
  · exact (h3.updPrf _).trans ((showPrf_regsKeep _).mono fun a ha => List.mem_append_right _ (by revert a ha; decide))

theorem warnAssert_abandons (s : State) (vin : Nat) (ho : s.pwr.ovenUp = true) (hm : s.pwr.mainUp = true) (hp : s.prf.mode ≠ 0)
    (hv : vin < s.fld F.PWR_WARN_LEVEL_LEVEL_MV) (hw : s.flag F.PWR_LIVE_WARN_ACTIVE = false) :
    Answers (.warnAssert vin) s fun t =>
      t.flag F.PWR_LIVE_WARN_ACTIVE = true ∧ t.flag F.PWR_LIVE_EVT_FLAG = true ∧ t.flag F.PWR_INT_STATUS_WARN_ASSERT = true ∧
      t.flag F.PRF_INT_STATUS_RUN_ABANDON = true ∧ t.prf.mode = 0 ∧ t.prf.restart = true ∧ t.pwr.warnN = false ∧ Within [.regs, .pwr, .met, .prf] s t := by
  refine ⟨_, execWarnAssert_eq ho hv hw, ?_⟩
  have hmov : Moves [.regs, .pwr, .met, .prf] s (warnAssert vin s) := by apply warnAssert_moves (.refl _ _) .. <;> exact listed rfl
  rw [warnAssert_eq, if_neg hp, raisePwr_up _ (show (warned vin s).pwr.mainUp = true from hm)] at hmov ⊢
  obtain ⟨hact, hflag⟩ := warned_flags vin s
  have hpwr := warned_pwr vin s
  have hprf : (warned vin s).prf = s.prf := (warned_moves vin s).within.prf_eq
  generalize warned vin s = w at *
  obtain ⟨hab, hmode, hk⟩ := prfAbandon_shows (s := w.raise F.PWR_INT_STATUS_WARN_ASSERT) (by rw [State.raise_prf, hprf]; exact hp)
  have hwarn : (prfAbandon (w.raise F.PWR_INT_STATUS_WARN_ASSERT)).pwr = w.pwr :=
    (prfAbandon_moves (.refl [.regs, .met, .prf] (w.raise F.PWR_INT_STATUS_WARN_ASSERT)) (listed rfl) (listed rfl) (listed rfl)).within.pwr_eq
  generalize prfAbandon (w.raise F.PWR_INT_STATUS_WARN_ASSERT) = u at *
  have hlive : Reg.PWR_LIVE ∉ abandonRegs := not_mem_metRegs_append (by decide) (by decide)
  have hint : Reg.PWR_INT_STATUS ∉ abandonRegs := not_mem_metRegs_append (by decide) (by decide)
  refine ⟨?_, ?_, ?_, hab, hmode, rfl, ?_, hmov.within⟩
  · exact (hk.flag_eq F.PWR_LIVE_WARN_ACTIVE hlive).trans ((State.flag_raise _ _ _ (by decide)).trans hact)
  · exact (hk.flag_eq F.PWR_LIVE_EVT_FLAG hlive).trans ((State.flag_raise _ _ _ (by decide)).trans hflag)
  · exact (hk.flag_eq F.PWR_INT_STATUS_WARN_ASSERT hint).trans (State.flag_raise_same _ _ (by decide) rfl)
  · rw [State.updPrf_pwr, hwarn, hpwr]

/-! ### A run goes on (R310 to R323) -/

/-- The registers that a run changes before its end. -/
def runRegs : List Nat := metRegs ++ [Reg.PRF_SKIP_MASK, Reg.PRF_LIVE]

/-- The pages of link phase metrology and of proofing. -/
def cellPages : List Nat := List.range' 0x184000 0x24400

theorem mem_cellPages {a : Nat} : a ∈ cellPages ↔ 0x184000 ≤ a ∧ a < 0x1A8400 := List.mem_range'_1

theorem runRegs_subset_cellPages {a : Nat} (h : a ∈ runRegs) : a ∈ cellPages := by
  rw [mem_cellPages]
  rcases List.mem_append.1 h with h | h
  · rw [mem_metRegs] at h
    omega
  · rcases List.mem_pair.1 h with rfl | rfl <;> decide

/-- The pairs that wait to be held are pairs of cells. -/
def TodoOk (s : State) : Prop := ∀ p ∈ s.prf.todo, p < 16

/-- From one state of a run to a later one: RUN_START stays, the run keeps its causes and its pairs, and only registers of proofing and of the
cells change. -/
def RunGoes (s t : State) : Prop :=
  RegsKeep cellPages s t ∧ (s.flag F.PRF_INT_STATUS_RUN_START = true → t.flag F.PRF_INT_STATUS_RUN_START = true) ∧
    t.prf.restart = s.prf.restart ∧ t.prf.causeRun = s.prf.causeRun ∧ (TodoOk s → TodoOk t)

theorem RunGoes.refl (s : State) : RunGoes s s := ⟨.refl _ s, id, rfl, rfl, id⟩

theorem RunGoes.trans {s t u : State} (h : RunGoes s t) (g : RunGoes t u) : RunGoes s u := by
  obtain ⟨hk, hf, hr, hc, ht⟩ := h
  obtain ⟨gk, gf, gr, gc, gt⟩ := g
  exact ⟨hk.trans gk, gf ∘ hf, gr.trans hr, gc.trans hc, gt ∘ ht⟩

theorem RunGoes.todoOk {s t : State} (h : RunGoes s t) (hs : TodoOk s) : TodoOk t := by
  obtain ⟨-, -, -, -, ht⟩ := h
  exact ht hs

theorem RunGoes.ite {p : Prop} [Decidable p] {s t u : State} (h : RunGoes s t) (g : RunGoes s u) : RunGoes s (if p then t else u) := by
  split
  · exact h
  · exact g

theorem intStatus_not_mem_runRegs : Reg.PRF_INT_STATUS ∉ runRegs := not_mem_metRegs_append (by decide) (by decide)

/-- An operation that leaves the record of the run. -/
theorem RunGoes.of_runRegs {s t : State} (h : RegsKeep runRegs s t) (hp : t.prf = s.prf) : RunGoes s t := by
  refine ⟨h.mono fun _ => runRegs_subset_cellPages, fun hs => ?_, by rw [hp], by rw [hp], fun ht => ?_⟩
  · exact (h.flag_eq F.PRF_INT_STATUS_RUN_START intStatus_not_mem_runRegs).trans hs
  · rwa [TodoOk, hp]

theorem RunGoes.of_metRegs {s t : State} (h : RegsKeep metRegs s t) (hp : t.prf = s.prf) : RunGoes s t :=
  .of_runRegs (h.mono fun _ => List.mem_append_left _) hp

/-- A change of the record of the run that leaves its causes and the waiting restart. -/
theorem RunGoes.updPrf {s t : State} (h : RunGoes s t) {f : PrfSt → PrfSt} (hr : ∀ p, (f p).restart = p.restart)
    (hc : ∀ p, (f p).causeRun = p.causeRun) (ht : TodoOk t → TodoOk (t.updPrf f)) : RunGoes s (t.updPrf f) :=
  h.trans ⟨(RegsKeep.refl _ t).updPrf f, id, hr _, hc _, ht⟩

theorem RunGoes.foldl {α : Type} {s t : State} (l : List α) (f : State → α → State) (hf : ∀ x ∈ l, ∀ t, RunGoes t (f t x))
    (h : RunGoes s t) : RunGoes s (l.foldl f t) := by
  induction l generalizing t with
  | nil => exact h
  | cons x l ih => exact ih (fun y hy => hf y (List.mem_cons_of_mem _ hy)) (h.trans (hf x (List.mem_cons_self ..) t))

theorem prfStartCell_runGoes (c : Nat) (s : State) : RunGoes s (prfStartCell c s) := by
  have h : RunGoes s (cdStart c s) :=
    .of_metRegs ((RegsKeep.refl _ s).cdStart c) (cdStart_moves (.refl [.regs, .ind, .met] s) c (listed rfl) (listed rfl) (listed rfl)).within.prf_eq
  exact h.updPrf (fun _ => rfl) (fun _ => rfl) id

/-- Both cells of a pair are held. -/
theorem holdPair_runGoes {p : Nat} (hp : p < 16) (s : State) :
    RunGoes s (withHolds (fun s => setProof (p + 16) true (setProof p true s)) s) := by
  refine .of_metRegs (RegsKeep.withHolds (((RegsKeep.refl _ s).setProof (by omega) true).setProof (by omega) true)) ?_
  refine (withHolds_moves (.refl [.regs, .met] s) _ (fun _ h => ?_) (listed rfl) (listed rfl)).within.prf_eq
  exact setProof_moves (setProof_moves h _ _ (listed rfl)) _ _ (listed rfl)

theorem prfStartPair_runGoes (hold : Bool) {p : Nat} (hp : p < 16) (s : State) : RunGoes s (prfStartPair hold p s) := by
  unfold prfStartPair
  extract_lets s1
  have hq : RunGoes s (s.updPrf fun q => { q with proofs := q.proofs ||| cellBit p ||| cellBit (p + 16) }) :=
    (RunGoes.refl s).updPrf (fun _ => rfl) (fun _ => rfl) id
  have h1 : RunGoes s s1 := .ite (hq.trans (holdPair_runGoes hp _)) (.refl s)
  exact (h1.trans (prfStartCell_runGoes p s1)).trans (prfStartCell_runGoes (p + 16) _)

theorem prfReachPair_runGoes (hold : Bool) {p : Nat} (hp : p < 16) (s : State) : RunGoes s (prfReachPair hold p s).1 := by
  unfold prfReachPair
  split
  · have hs : Reg.PRF_SKIP_MASK ∈ runRegs := List.mem_append_right _ (.head _)
    have hl : Reg.PRF_LIVE ∈ runRegs := List.mem_append_right _ (.tail _ (.head _))
    exact .of_runRegs ((((RegsKeep.refl _ s).setRbit _ _ _ hs).setRbit _ _ _ hs).setFld F.PRF_LIVE_PAIRS_DONE _ hl) rfl
  · exact prfStartPair_runGoes hold hp s

theorem prfHoldNext_runGoes (ps : List Nat) (hps : ∀ p ∈ ps, p < 16) (s : State) : RunGoes s (prfHoldNext ps s) := by
  induction ps generalizing s with
  | nil => exact (RunGoes.refl s).updPrf (fun _ => rfl) (fun _ => rfl) fun _ p hp => absurd hp List.not_mem_nil
  | cons p ps ih =>
    have hr := prfReachPair_runGoes true (hps p (List.mem_cons_self ..)) s
    rw [prfHoldNext]
    split
    · generalize prfReachPair true p s = r at hr ⊢
      obtain ⟨s1, on⟩ := r
      refine RunGoes.trans ?_ (ih (fun q hq => hps q (List.mem_cons_of_mem _ hq)) _)
      exact .ite (hr.updPrf (fun _ => rfl) (fun _ => rfl) id) hr
    · exact (RunGoes.refl s).updPrf (fun _ => rfl) (fun _ => rfl) fun _ => hps

theorem showPrf_runGoes (s : State) : RunGoes s (showPrf s) :=
  .of_runRegs ((showPrf_regsKeep s).mono fun _ ha => List.mem_append_right _ (List.mem_singleton.1 ha ▸ .tail _ (.head _))) (showPrf_prf s)

theorem State.flag_bump32 (s : State) (a n : Nat) (f g : Fld) (ha : g.addr ≠ a) (h : Apart f g) : (s.bump32 a n (some f)).flag g = s.flag g := by
  unfold State.bump32
  extract_lets x t
  split
  · exact State.flag_setReg _ _ _ _ ha
  · exact (State.flag_raise _ _ _ h).trans (State.flag_setReg _ _ _ _ ha)

theorem recordNow_length (s : State) : (recordNow s).length = 4 := by
  unfold recordNow recordWords
  split <;> rfl

/-- The end of a run adds its own cause to RUN_START. -/
theorem prfComplete_runGoes (s : State) : RunGoes s (prfComplete s) := by
  unfold prfComplete
  extract_lets ms s1 s2
  have hlen := recordNow_length s
  have hk1 : RegsKeep cellPages s s1 := by
    refine ((RegsKeep.refl _ s).setReg _ _ (mem_cellPages.2 (by decide))).setRegs _ _ fun i hi => mem_cellPages.2 ?_
    simp only [Reg.PRF_LAST_DONE]
    omega
  have hf1 : s1.flag F.PRF_INT_STATUS_RUN_START = s.flag F.PRF_INT_STATUS_RUN_START := by
    rw [State.flag, State.fld_setRegs _ _ _ _ (.inl (by decide)), ← State.flag, State.flag_setReg _ _ _ _ (by decide)]
  have hp1 : s1.prf = s.prf := State.setRegs_prf ..
  clear_value s1
  have hk2 : RegsKeep cellPages s s2 := (hk1.bump32 _ _ _ (mem_cellPages.2 (by decide)) (mem_cellPages.2 (by decide))).raise _ (mem_cellPages.2 (by decide))
  have hf2 : s2.flag F.PRF_INT_STATUS_RUN_START = s.flag F.PRF_INT_STATUS_RUN_START := by
    rw [State.flag_raise _ _ _ (by decide), State.flag_bump32 _ _ _ _ _ (by decide) (by decide), hf1]
  have hp2 : s2.prf = s.prf := by rw [State.raise_prf, State.bump32_prf, hp1]
  clear_value s2
  have h2 : RunGoes s s2 := ⟨hk2, fun h => hf2.trans h, by rw [hp2], by rw [hp2], fun h => by rwa [TodoOk, hp2]⟩
  have h3 : RunGoes s2 (s2.setFlag F.PRF_LIVE_LAST_OK (decide (s.prf.failed = 0))) :=
    .of_runRegs ((RegsKeep.refl _ s2).setFlag _ _ (List.mem_append_right _ (.tail _ (.head _)))) rfl
  exact ((h2.trans h3).updPrf (fun _ => rfl) (fun _ => rfl) id).trans (showPrf_runGoes _)

theorem prfAdvance_runGoes {s : State} (ht : TodoOk s) : RunGoes s (prfAdvance s) := by
  unfold prfAdvance
  extract_lets s1 s2
  have h1 : RunGoes s s1 := .ite ((RunGoes.refl s).updPrf (fun _ => rfl) (fun _ => rfl) id) (.refl s)
  clear_value s1
  have ht1 : TodoOk s1 := h1.todoOk ht
  have h2 : RunGoes s s2 := .ite h1 (h1.trans (prfHoldNext_runGoes _ ht1 s1))
  exact .ite (.refl s) (.ite (h2.trans (prfComplete_runGoes s2)) h2)

/-! ### A run starts (R311) -/

/-- The pairs that a run may start or hold are pairs of cells. -/
theorem mem_upto16_lt {p : Nat} {f : Nat → Bool} (h : p ∈ (upto 16).filter f) : p < 16 :=
  List.mem_range.1 (List.mem_filter.1 h).1

theorem prfStart_shows (s : State) :
    (prfStart s).flag F.PRF_INT_STATUS_RUN_START = true ∧ (prfStart s).prf.restart = s.prf.restart ∧
      (prfStart s).prf.causeRun = s.prf.causePend ∧ (prfStart s).flag F.PWR_LIVE_EVT_FLAG = s.flag F.PWR_LIVE_EVT_FLAG := by
  unfold prfStart
  extract_lets trace mode now first rest s1 s2 s3 s4
  have hprf2 : s2.prf = s.prf := rfl
  have hlive2 : s2.reg Reg.PWR_LIVE = s.reg Reg.PWR_LIVE := by
    simp (disch := decide) only [s2, s1, State.reg_setFld_ne, State.reg_setFlag_ne, State.reg_setReg_ne]
  clear_value s2
  have hstart : s3.flag F.PRF_INT_STATUS_RUN_START = true := State.flag_raise_same _ _ (by decide) rfl
  have hp3 : s3.prf.restart = s2.prf.restart ∧ s3.prf.causeRun = s2.prf.causePend ∧ s3.prf.todo = rest := ⟨rfl, rfl, rfl⟩
  have hlive3 : s3.reg Reg.PWR_LIVE = s2.reg Reg.PWR_LIVE := State.reg_raise_ne _ _ (by decide)
  clear_value s3
  obtain ⟨hrestart, hcause, hrest⟩ := hp3
  rw [hprf2] at hrestart hcause
  have htodo : TodoOk s3 := fun p hp => by
    rw [hrest] at hp
    exact mem_upto16_lt hp
  have hlive : s3.flag F.PWR_LIVE_EVT_FLAG = s.flag F.PWR_LIVE_EVT_FLAG := congrArg (fun v => decide (bits v 1 1 ≠ 0)) (hlive3.trans hlive2)
  have h4 : RunGoes s3 s4 := .foldl _ _ (fun p hp t => prfReachPair_runGoes _ (mem_upto16_lt hp) t) (.refl s3)
  clear_value s4
  obtain ⟨hk, hf, hr, hc, -⟩ := (h4.trans (prfAdvance_runGoes (h4.todoOk htodo))).trans (showPrf_runGoes _)
  exact ⟨hf hstart, hr.trans hrestart, hc.trans hcause, (hk.flag_eq _ (by rw [mem_cellPages]; decide)).trans hlive⟩

/-! ### The flag of the dip clears (R33, R309) -/

/-- The flag clears, with no run to start again. -/
def flagCleared (s : State) : State := s.setFlag F.PWR_LIVE_EVT_FLAG false

theorem flagCleared_flag (s : State) : (flagCleared s).flag F.PWR_LIVE_EVT_FLAG = false := State.flag_setFlag_same _ _ _ (by decide) rfl

theorem flagCleared_regsKeep (s : State) : RegsKeep [Reg.PWR_LIVE] s (flagCleared s) :=
  (RegsKeep.refl _ s).setFlag F.PWR_LIVE_EVT_FLAG _ (.head _)

theorem flagCleared_moves (s : State) : Moves [.regs] s (flagCleared s) := State.setFlag_moves (.refl _ s) _ _ (listed rfl)

theorem execEvtFlagClear_eq {s : State} (ho : s.pwr.ovenUp = true) (hw : s.flag F.PWR_LIVE_WARN_ACTIVE = false)
    (hf : s.flag F.PWR_LIVE_EVT_FLAG = true) : exec .evtFlagClear s = .next (if s.prf.restart then
      prfTrigger 3 ((flagCleared s).updPrf fun p => { p with restart := false }) else flagCleared s) := by
  rw [exec, execEvtFlagClear, whenOven_of_up ho, if_neg (by simp [hw, hf])]
  rfl

theorem evtFlagClear_clears (s : State) (ho : s.pwr.ovenUp = true) (hw : s.flag F.PWR_LIVE_WARN_ACTIVE = false)
    (hf : s.flag F.PWR_LIVE_EVT_FLAG = true) (hr : s.prf.restart = false) :
    Answers .evtFlagClear s fun t => t.flag F.PWR_LIVE_EVT_FLAG = false ∧ Only [] [Reg.PWR_LIVE] s t := by
  refine ⟨_, execEvtFlagClear_eq ho hw hf, ?_⟩
  rw [hr, if_neg Bool.false_ne_true]
  exact ⟨flagCleared_flag s, (flagCleared_moves s).within, flagCleared_regsKeep s⟩

theorem showPrf_pending (s : State) : (showPrf s).flag F.PRF_LIVE_PENDING = s.prf.pend := by
  unfold showPrf
  extract_lets p st cause
  rw [State.flag_setFld _ _ _ _ (by decide), State.flag_setFlag_same _ _ _ (by decide) rfl]

theorem evtFlagClear_pends (s : State) (ho : s.pwr.ovenUp = true) (hw : s.flag F.PWR_LIVE_WARN_ACTIVE = false)
    (hf : s.flag F.PWR_LIVE_EVT_FLAG = true) (hr : s.prf.restart = true) (hen : s.flag F.PRF_CTRL_EN = false) :
    Answers .evtFlagClear s fun t => t.flag F.PWR_LIVE_EVT_FLAG = false ∧
      t.prf = { s.prf with restart := false, pend := true, causePend := s.prf.causePend ||| 8 } ∧ t.flag F.PRF_LIVE_PENDING = true ∧
      Only [.prf] [Reg.PWR_LIVE, Reg.PRF_LIVE] s t := by
  refine ⟨_, execEvtFlagClear_eq ho hw hf, ?_⟩
  have hflag := flagCleared_flag s
  have hk := flagCleared_regsKeep s
  have hmov := flagCleared_moves s
  have hprf : (flagCleared s).prf = s.prf := hmov.within.prf_eq
  rw [if_pos hr]
  generalize flagCleared s = u at *
  have hen2 : u.flag F.PRF_CTRL_EN = false := (hk.flag_eq _ (by decide)).trans hen
  have hb : prfBlocked (u.updPrf fun p => { p with restart := false }) = true := by simp [prfBlocked, hen2]
  rw [prfTrigger, if_pos hb]
  generalize hv : (u.updPrf fun p => { p with restart := false }).updPrf _ = v
  have hvp : v.prf = { s.prf with restart := false, pend := true, causePend := s.prf.causePend ||| 8 } := by
    rw [← hv, State.updPrf_prf, State.updPrf_prf, hprf]
    rfl
  have hkv : RegsKeep [Reg.PWR_LIVE] s v := hv ▸ (hk.updPrf _).updPrf _
  have hmv : Moves [.regs, .prf] s v :=
    hv ▸ State.updPrf_moves (State.updPrf_moves (hmov.mono (by decide)) _ (listed rfl)) _ (listed rfl)
  have hfv : v.flag F.PWR_LIVE_EVT_FLAG = false := hv ▸ hflag
  refine ⟨?_, (showPrf_prf v).trans hvp, ?_, (showPrf_moves hmv (listed rfl)).within, ?_⟩
  · exact ((showPrf_regsKeep v).flag_eq _ (by decide)).trans hfv
  · rw [showPrf_pending, hvp]
  · exact (hkv.mono (by decide)).trans ((showPrf_regsKeep v).mono (by decide))

theorem evtFlagClear_starts (s : State) (ho : s.pwr.ovenUp = true) (hw : s.flag F.PWR_LIVE_WARN_ACTIVE = false)
    (hf : s.flag F.PWR_LIVE_EVT_FLAG = true) (hr : s.prf.restart = true) (hm : s.prf.mode = 0) (hen : s.flag F.PRF_CTRL_EN = true)
    (hst : s.fld F.LOOP_STATUS_STATE < 6) (hcd : s.reg Reg.MET_CD_BUSY = 0) :
    Answers .evtFlagClear s fun t => t.flag F.PWR_LIVE_EVT_FLAG = false ∧ t.flag F.PRF_INT_STATUS_RUN_START = true ∧ t.prf.restart = false ∧
      t.prf.causeRun = s.prf.causePend ||| 8 ∧ Within [.regs, .ind, .met, .prf] s t := by
  refine ⟨_, execEvtFlagClear_eq ho hw hf, ?_⟩
  have hflag := flagCleared_flag s
  have hk := flagCleared_regsKeep s
  have hmov := flagCleared_moves s
  have hprf : (flagCleared s).prf = s.prf := hmov.within.prf_eq
  rw [if_pos hr]
  generalize flagCleared s = u at *
  have hb : prfBlocked (u.updPrf fun p => { p with restart := false }) = false := by
    have hen2 : u.flag F.PRF_CTRL_EN = true := (hk.flag_eq _ (by decide)).trans hen
    have hst2 : u.fld F.LOOP_STATUS_STATE < 6 := (hk.fld_eq F.LOOP_STATUS_STATE (by decide)) ▸ hst
    have hcd2 : u.reg Reg.MET_CD_BUSY = 0 := (hk _ (by decide)).1.trans hcd
    have hlow : ¬6 ≤ loopState (u.updPrf fun p => { p with restart := false }) := Nat.not_le.2 hst2
    simp [prfBlocked, hlow, hen2, hcd2, hflag, hprf, hm]
  rw [prfTrigger, hb, if_neg Bool.false_ne_true]
  generalize hv : (u.updPrf fun p => { p with restart := false }).updPrf _ = v
  have hvp : v.prf.restart = false ∧ v.prf.causePend = s.prf.causePend ||| 8 := by
    rw [← hv, State.updPrf_prf, State.updPrf_prf, hprf]
    exact ⟨rfl, rfl⟩
  have hmv : Moves [.regs, .ind, .met, .prf] s v :=
    hv ▸ State.updPrf_moves (State.updPrf_moves (hmov.mono (by decide)) _ (listed rfl)) _ (listed rfl)
  have hfv : v.flag F.PWR_LIVE_EVT_FLAG = false := hv ▸ hflag
  obtain ⟨hstart, hrestart, hcause, hlive⟩ := prfStart_shows v
  refine ⟨hlive.trans hfv, hstart, hrestart.trans hvp.1, hcause.trans hvp.2, Moves.within ?_⟩
  apply prfStart_moves hmv <;> exact listed rfl

/-- Settles O2. -/
theorem supplyDips : Obligations.SupplyDips := by
  refine ⟨warnAssert_up, warnAssert_abandons, fun s vin low oclk d ho hm hd hv => ?_, evtFlagClear_clears,
    fun s ho hw hf hr _ hen => evtFlagClear_pends s ho hw hf hr hen, evtFlagClear_starts, warnAssert_down, warnClear_down, holdupReady_shows,
    holdupCapEstimate_shows, holdupLow_up, holdupLow_down⟩
  obtain ⟨t, hx, hact, hclear, hlog, hp, ⟨htyp, hseq, hus, hmin, htb, hnext, hseq', htotal⟩, hover, honly⟩ :=
    warnClear_up s vin low oclk d ho hm hd hv
  exact ⟨t, hx, hact, hclear, hlog, hp, htyp, hseq, hus, hmin, htb, hnext, hseq', htotal, hover, honly⟩

end Sys2Proof.Machine
end

section
/-!
SUPPORT. Direct and bitwise accesses of the agents (R55 to R59, R66 to R75): which place a word address names, what the table of
registers says of every register, what a write stores before its action, what a read returns, and that the end of an access, the
completion and the vectors that deassert, leaves the rest as it is.
-/
namespace Sys2Proof.Machine
set_option Elab.async false

/-! ### Frames put together -/

section
variable {ps qs : List Part} {as bs : List Nat} {s t u : State}

theorem Only.of_moves (h : Moves (.regs :: ps) s t) (k : RegsKeep as s t) : Only ps as s t := ⟨h.within, k⟩

theorem Only.refl (ps : List Part) (as : List Nat) (s : State) : Only ps as s s := .of_moves (.refl _ s) (.refl _ s)

theorem Only.trans (h : Only ps as s t) (g : Only ps as t u) : Only ps as s u :=
  ⟨fun p hp => samePart_trans (h.1 p hp) (g.1 p hp), h.2.trans g.2⟩

theorem Only.mono (h : Only ps as s t) (hp : ∀ p ∈ ps, p ∈ qs) (ha : ∀ a ∈ as, a ∈ bs) : Only qs bs s t :=
  ⟨fun p n => h.1 p fun hm => n ((List.mem_cons.1 hm).elim (· ▸ List.mem_cons_self) fun hm => List.mem_cons_of_mem _ (hp p hm)), h.2.mono ha⟩

theorem Only.setReg (h : Only ps as s t) (a : Nat) (v : Word) (m : a ∈ as) : Only ps as s (t.setReg a v) :=
  h.trans (.of_moves (State.setReg_moves (.refl _ t) _ _ List.mem_cons_self) ((RegsKeep.refl as t).setReg a v m))

theorem Only.raise (h : Only ps as s t) (f : Fld) (m : f.addr ∈ as) : Only ps as s (t.raise f) :=
  h.trans (.of_moves (State.raise_moves (.refl _ t) _ List.mem_cons_self) ((RegsKeep.refl as t).raise f m))

theorem Only.raiseIf (h : Only ps as s t) (c : Bool) (f : Fld) (m : c = true → f.addr ∈ as) : Only ps as s (t.raiseIf c f) := by
  cases c
  · exact h
  · exact h.raise f (m rfl)

/-- A change of parts other than the registers. -/
theorem Only.of_parts (h : Moves ps s t) (n : Part.regs ∉ ps) : Only ps as s t :=
  .of_moves (h.mono fun _ => List.mem_cons_of_mem _) (.of_moves h n)

end

/-- A raised flag stays raised whatever is raised after it. -/
theorem State.flag_raise_mono {s : State} {f g : Fld} (hf : f.w = 1) (hg : g.lo < 32) (hw : g.w = 1) (h : s.flag f = true) :
    (s.raise g).flag f = true := by
  have hbit (t : State) : t.flag f = t.rbit f.addr f.lo := by rw [State.rbit_eq_flag, ← hf]
  rw [hbit, State.rbit, bit, State.reg_raise] at *
  split
  · next e =>
    rw [e] at h
    rw [testBit_putBits _ _ _ _ _ (by omega), hw]
    split
    · next c => rw [show f.lo - g.lo = 0 by omega]; rfl
    · exact h
  · exact h

/-! ### The end of an access -/

/-- The MSI-X state replaced. -/
def State.withMsix (s : State) (m : SMap MsixSt) : State := { s with hst := { s.hst with msix := m } }

/-- What settles the vectors changes the MSI-X state alone (R95). -/
theorem settleIrq_eq (s : State) : ∃ m, settleIrq s = s.withMsix m := by
  unfold settleIrq forUpto
  refine List.foldlRecOn (motive := fun t => ∃ m, t = s.withMsix m) (upto 2) _ ⟨s.hst.msix, rfl⟩ ?_
  rintro _ ⟨m, rfl⟩ f -
  dsimp only
  split
  · exact ⟨m, rfl⟩
  · exact ⟨_, rfl⟩

/-- A view of the state that does not look at the MSI-X state sees the same before and after. -/
theorem settleIrq_view {α : Type} (f : State → α) (hf : ∀ s m, f (State.withMsix s m) = f s) (s : State) : f (settleIrq s) = f s := by
  obtain ⟨m, h⟩ := settleIrq_eq s
  rw [h, hf]

section
variable (s : State)

@[simp] theorem settleIrq_reg (a : Nat) : (settleIrq s).reg a = s.reg a := settleIrq_view (·.reg a) (fun _ _ => rfl) s
@[simp] theorem settleIrq_rbit (a i : Nat) : (settleIrq s).rbit a i = s.rbit a i := settleIrq_view (·.rbit a i) (fun _ _ => rfl) s
@[simp] theorem settleIrq_locked (p : Nat) : (settleIrq s).locked p = s.locked p := settleIrq_rbit s _ _
@[simp] theorem settleIrq_flag (f : Fld) : (settleIrq s).flag f = s.flag f := settleIrq_view (·.flag f) (fun _ _ => rfl) s
@[simp] theorem settleIrq_win : (settleIrq s).hst.win = s.hst.win := settleIrq_view (·.hst.win) (fun _ _ => rfl) s
@[simp] theorem settleIrq_mbox : (settleIrq s).hst.mbox = s.hst.mbox := settleIrq_view (·.hst.mbox) (fun _ _ => rfl) s
@[simp] theorem settleIrq_stage : (settleIrq s).hst.stage = s.hst.stage := settleIrq_view (·.hst.stage) (fun _ _ => rfl) s
@[simp] theorem settleIrq_woDone : (settleIrq s).hst.woDone = s.hst.woDone := settleIrq_view (·.hst.woDone) (fun _ _ => rfl) s
@[simp] theorem settleIrq_snap : (settleIrq s).hst.snap = s.hst.snap := settleIrq_view (·.hst.snap) (fun _ _ => rfl) s
@[simp] theorem settleIrq_completions : (settleIrq s).hst.completions = s.hst.completions :=
  settleIrq_view (·.hst.completions) (fun _ _ => rfl) s

theorem settleIrq_only (as : List Nat) : Only [.hst] as s (settleIrq s) := .of_parts (settleIrq_moves (.refl _ s) (listed rfl)) (by decide)

end

theorem Only.settleIrq {ps : List Part} {as : List Nat} {s t : State} (h : Only ps as s t) (m : ps.contains .hst = true := by rfl) :
    Only ps as s (settleIrq t) :=
  h.trans ((settleIrq_only t as).mono (by simpa using listed m) fun _ => id)

/-- The completion of a read, the only one of its access (R59). -/
def completed (ag : Agent) (v : Word) (s : State) : State := complete ag v (noCompletions s)

theorem completed_eq (ag : Agent) (v : Word) (s : State) :
    ∃ p, completed ag v s = { s with hst := { s.hst with completions := [(ag, v)] }, tap := p } := by
  unfold completed complete
  dsimp only
  split
  · exact ⟨_, rfl⟩
  · exact ⟨s.tap, rfl⟩

/-- A view of the state that looks neither at the completions nor at the test access port sees the same before and after. -/
theorem completed_view {α : Type} (f : State → α)
    (hf : ∀ s c p, f { s with hst := { s.hst with completions := c }, tap := p } = f s) (ag : Agent) (v : Word) (s : State) :
    f (completed ag v s) = f s := by
  obtain ⟨p, h⟩ := completed_eq ag v s
  rw [h, hf]

section
variable (ag : Agent) (v : Word) (s : State)

@[simp] theorem completed_completions : (completed ag v s).hst.completions = [(ag, v)] := by
  obtain ⟨p, h⟩ := completed_eq ag v s
  rw [h]

@[simp] theorem completed_reg (a : Nat) : (completed ag v s).reg a = s.reg a := completed_view (·.reg a) (fun _ _ _ => rfl) ag v s
@[simp] theorem completed_rbit (a i : Nat) : (completed ag v s).rbit a i = s.rbit a i :=
  completed_view (·.rbit a i) (fun _ _ _ => rfl) ag v s
@[simp] theorem completed_flag (f : Fld) : (completed ag v s).flag f = s.flag f := completed_view (·.flag f) (fun _ _ _ => rfl) ag v s
@[simp] theorem completed_win : (completed ag v s).hst.win = s.hst.win := completed_view (·.hst.win) (fun _ _ _ => rfl) ag v s
@[simp] theorem completed_mbox : (completed ag v s).hst.mbox = s.hst.mbox := completed_view (·.hst.mbox) (fun _ _ _ => rfl) ag v s
@[simp] theorem completed_stage : (completed ag v s).hst.stage = s.hst.stage := completed_view (·.hst.stage) (fun _ _ _ => rfl) ag v s
@[simp] theorem completed_snap : (completed ag v s).hst.snap = s.hst.snap := completed_view (·.hst.snap) (fun _ _ _ => rfl) ag v s

theorem completed_only (as : List Nat) : Only [.hst, .tap] as s (completed ag v s) :=
  .of_parts (complete_moves (noCompletions_moves (.refl _ s) (listed rfl)) _ _ (listed rfl) (listed rfl)) (by decide)

end

theorem Only.completed {ps : List Part} {as : List Nat} {s t : State} (h : Only ps as s t) (ag : Agent) (v : Word)
    (m : ps.contains .hst = true := by rfl) (n : ps.contains .tap = true := by rfl) : Only ps as s (completed ag v t) :=
  h.trans ((completed_only ag v t as).mono (by simpa using ⟨listed m, listed n⟩) fun _ => id)

/-! ### What a word address names -/

theorem directAddr_of_lt {w : Nat} (h : w < 2 ^ 22) : directAddr w = w := if_pos h

/-- A populated address has the register that the table gives it. -/
theorem regDef_of_isSome {a : Nat} (h : (regDef? a).isSome = true) : ∃ i, regDef? a = some (regOf a, i) := by
  obtain ⟨⟨d, i⟩, e⟩ := Option.isSome_iff_exists.1 h
  exact ⟨i, by rw [regOf, e, Option.getD_some]⟩

/-- A register of direct space. -/
theorem placeOf_direct {w : Nat} (h : w < 2 ^ 22) (hr : (regDef? w).isSome = true) (hn : isWinReg w = false) :
    ∃ i, placeOf w = .reg w (regOf w) i := by
  obtain ⟨i, e⟩ := regDef_of_isSome hr
  refine ⟨i, ?_⟩
  unfold placeOf
  rw [if_neg (by omega), directAddr_of_lt h]
  dsimp only
  rw [if_pos h, hn, e]
  rfl

/-- A bit of a register, by the word of its own (R73). -/
theorem placeOf_alias {w a : Nat} (hl : 2 ^ 22 ≤ w) (hu : w < 0xC00000) (ha : directAddr w = a) (hr : (regDef? a).isSome = true)
    (hn : isWinReg a = false) : ∃ i, placeOf w = .bit a (w % 32) (regOf a) i := by
  obtain ⟨i, e⟩ := regDef_of_isSome hr
  refine ⟨i, ?_⟩
  unfold placeOf
  rw [if_neg (by omega), ha]
  dsimp only
  rw [if_neg (by omega), hn, e]
  rfl

/-- The words at which no register answers (R57). -/
theorem placeOf_eq_none_iff (w : Nat) : placeOf w = .none ↔ noRegister w = true := by
  unfold placeOf noRegister
  by_cases hc : 0xC00000 ≤ w
  · simp [hc]
  · by_cases hd : w < 2 ^ 22
    · rw [if_neg hc, if_neg hc]
      dsimp only
      rw [if_pos hd, if_pos (show w < 0x400000 from hd), directAddr_of_lt hd]
      cases isWinReg w <;> cases regDef? w <;> simp
    · rw [if_neg hc, if_neg hc]
      dsimp only
      rw [if_neg hd, if_neg (show ¬w < 0x400000 from hd)]
      cases isWinReg (directAddr w) <;> cases regDef? (directAddr w) <;> simp

/-- The word address of a bit of a page (R73). -/
theorem aliasOff_word (page : BitVec 12) (b : BitVec 11) : aliasOff page b / 4 = 2 ^ 22 + page.toNat * 2048 + b.toNat := by
  unfold aliasOff
  omega

theorem aliasOff_direct (page : BitVec 12) (b : BitVec 11) :
    directAddr (aliasOff page b / 4) = page.toNat * 1024 + b.toNat / 32 ∧ aliasOff page b / 4 % 32 = b.toNat % 32 ∧
      2 ^ 22 ≤ aliasOff page b / 4 ∧ aliasOff page b / 4 < 0xC00000 := by
  have hp := page.isLt
  have hb := b.isLt
  rw [aliasOff_word, directAddr, if_neg (by omega), if_pos (by omega)]
  omega

/-! ### What the table says of every register -/

/-- A register below word 8 of a page stands at its row's offset, 2 or 4, and no write-once bit of a row is lockable too. -/
theorem pageRows_fit : ∀ p ∈ pageRows, ∀ r ∈ p.rows, (r.off < 8 → r.n = 1 ∧ r.s = 1 ∧ (r.off = 2 ∨ r.off = 4)) ∧
    (r.rd.wo ≠ 0 → r.rd.norm = .none → 8 ≤ r.off ∧ r.rd.rwl &&& r.rd.wo = 0) := by
  decide +kernel

theorem findRow_mem {pg off : Nat} {rs : List RegRow} {d : RegDef} {i : Nat} (h : findRow pg off rs = some (d, i)) :
    ∃ r ∈ rs, r.rd = d ∧ r.off ≤ off ∧ (off - r.off) / r.s < r.n := by
  induction rs with
  | nil => exact nomatch h
  | cons r rs ih =>
    unfold findRow at h
    dsimp only at h
    split at h
    · next c =>
      obtain ⟨ho, -, -, hk, -⟩ := c
      exact ⟨r, List.mem_cons_self, congrArg Prod.fst (Option.some.inj h), ho, hk⟩
    · obtain ⟨r', hr, hd⟩ := ih h
      exact ⟨r', List.mem_cons_of_mem _ hr, hd⟩

theorem pageRow_mem {pg : Nat} {p : PageRow} (h : pageRow pg = some p) : p ∈ pageRows := List.mem_of_find?_eq_some h

/-- A row's register stands at word 8 of its page or above, or at its row's own offset, 2 or 4. -/
theorem findRow_off {pg off q : Nat} {p : PageRow} {d : RegDef} {i : Nat} (hp : pageRow q = some p) (h : findRow pg off p.rows = some (d, i)) :
    (off < 8 → off = 2 ∨ off = 4) ∧ (d.wo ≠ 0 → d.norm = .none → 8 ≤ off ∧ d.rwl &&& d.wo = 0) := by
  obtain ⟨r, hr, rfl, ho, hk⟩ := findRow_mem h
  obtain ⟨hlow, hwo⟩ := pageRows_fit p (pageRow_mem hp) r hr
  constructor
  · intro h8
    obtain ⟨hn, hs, hoff⟩ := hlow (by omega)
    rw [hn, hs, Nat.div_one] at hk
    omega
  · intro h1 h2
    obtain ⟨h8, hd⟩ := hwo h1 h2
    exact ⟨by omega, hd⟩

/-- A register of a page header that no row replaces (R61). -/
theorem regDef_header {a : Nat} (h : blockOfPage (a / 1024) ≠ none) (hl : a % 1024 < 8) (h2 : a % 1024 ≠ 2) (h4 : a % 1024 ≠ 4) :
    ∃ p, pageRow (a / 1024) = some p ∧ regDef? a = headerDef p (a / 1024 - p.first) (a % 1024) := by
  cases hp : pageRow (a / 1024) with
  | none => exact absurd (by rw [blockOfPage, hp]; rfl) h
  | some p =>
    refine ⟨p, rfl, ?_⟩
    unfold regDef?
    rw [hp]
    dsimp only
    split
    · next r e => exact absurd ((findRow_off hp e).1 hl) (by omega)
    · rfl

theorem blockOfPage_of_regDef {a : Nat} (h : (regDef? a).isSome = true) : blockOfPage (a / 1024) ≠ none := by
  intro hb
  rw [blockOfPage, Option.map_eq_none_iff] at hb
  rw [regDef?, hb] at h
  exact nomatch h

/-- STATUS of a page takes no write (R61). -/
theorem regOf_pageStatus {a : Nat} (h : (regDef? a).isSome = true) (ha : a = pageStatus (a / 1024)) :
    (regOf a).rw = 0 ∧ (regOf a).rwl = 0 ∧ (regOf a).wo = 0 := by
  have h3 : a % 1024 = 3 := by unfold pageStatus at ha; omega
  obtain ⟨p, -, e⟩ := regDef_header (blockOfPage_of_regDef h) (by omega) (by omega) (by omega)
  rw [regOf, e, h3]
  exact ⟨rfl, rfl, rfl⟩

/-- LOCK of a page (R69). -/
theorem regDef_pageLock {page : Nat} (h : blockOfPage page ≠ none) :
    (regDef? (pageLock page)).isSome = true ∧ regOf (pageLock page) = { wo := 1, norm := .lockBit } := by
  have hd : pageLock page / 1024 = page := by unfold pageLock; omega
  have hm : pageLock page % 1024 = 7 := by unfold pageLock; omega
  obtain ⟨p, -, e⟩ := regDef_header (a := pageLock page) (by rwa [hd]) (by omega) (by omega) (by omega)
  rw [regOf, e, hm]
  exact ⟨rfl, rfl⟩

/-- INT_FORCE of a page (R68). -/
theorem regDef_intForce {page : Nat} (h : blockOfPage page ≠ none) : ∃ m : Word,
    (regDef? (page * 1024 + 6)).isSome = true ∧ regOf (page * 1024 + 6) = { w1p := m, act := .intForce } := by
  have hd : (page * 1024 + 6) / 1024 = page := by omega
  have hm : (page * 1024 + 6) % 1024 = 6 := by omega
  obtain ⟨p, -, e⟩ := regDef_header (a := page * 1024 + 6) (by rwa [hd]) (by omega) (by omega) (by omega)
  rw [regOf, e, hm]
  exact ⟨_, rfl, rfl⟩

/-- A write-once register whose write is marked stands above the header, and none of its write-once bits is lockable. -/
theorem regOf_writeOnce {a : Nat} (h : (regDef? a).isSome = true) (hw : (regOf a).wo ≠ 0) (hn : (regOf a).norm = .none) :
    a % 1024 ≠ 7 ∧ a % 1024 ≠ 2 ∧ (regOf a).rwl &&& (regOf a).wo = 0 := by
  obtain ⟨i, e⟩ := regDef_of_isSome h
  generalize regOf a = d at *
  unfold regDef? at e
  split at e
  · exact nomatch e
  · next p hp =>
    split at e
    · next r hr =>
      cases e
      obtain ⟨h8, hd⟩ := (findRow_off hp hr).2 hw hn
      exact ⟨by omega, by omega, hd⟩
    · unfold headerDef at e
      split at e <;> cases e
      all_goals first | exact absurd rfl hw | exact nomatch hn

end Sys2Proof.Machine
end

section
/-!
SUPPORT. What the accesses of an agent answer: the flags of a write that goes nowhere, the word that a register stores and what it marks,
the word that a read returns with what it clears or latches. O5, O6 and O7 follow from these.
-/
namespace Sys2Proof.Machine
set_option Elab.async false

/-! ### Writes that reach no register (R56 to R58) -/

/-- Whether a word address is a register of another agent's window (R76). -/
def foreignWindow (ag : Agent) (w : Nat) : Bool :=
  match placeOf w with
  | .win k _ => decide (k ≠ winOf ag)
  | _ => false

/-- The flags that a write of an agent sets before it reaches anything. -/
def flagged (ag : Agent) (w : Nat) (full : Bool) (s : State) : State :=
  let s1 := s.raiseIf (!full) F.HOST_INT_STATUS_PARTIAL_WRITE
  let s2 := if noRegister w then unmapped ag w s1 else s1.raiseIf (foreignWindow ag w) F.HOST_INT_STATUS_WIN_FOREIGN
  s2.raiseIf (pf1Denied ag (directAddr w) s) F.HOST_INT_STATUS_PF1_DENIED

theorem flagged_eq (ag : Agent) (w : Nat) (full : Bool) (s : State) : flagged ag w full s =
    (if noRegister w then unmapped ag w (s.raiseIf (!full) F.HOST_INT_STATUS_PARTIAL_WRITE)
      else (s.raiseIf (!full) F.HOST_INT_STATUS_PARTIAL_WRITE).raiseIf (foreignWindow ag w) F.HOST_INT_STATUS_WIN_FOREIGN).raiseIf
      (pf1Denied ag (directAddr w) s) F.HOST_INT_STATUS_PF1_DENIED := rfl

/-- A write that is partial, that PF1 may not make, or that names no register sets its flags alone. -/
theorem busWrite_flagged {ag : Agent} {w : Nat} {full : Bool} (ca : Nat) (x : Word) {s : State}
    (h : full = false ∨ noRegister w = true ∨ pf1Denied ag (directAddr w) s = true) :
    busWrite ag ca false w full x s = settleIrq (flagged ag w full s) := by
  have hnone := placeOf_eq_none_iff w
  rw [flagged_eq]
  unfold busWrite foreignWindow
  generalize pf1Denied ag (directAddr w) s = b at *
  cases hp : placeOf w with
  | none => simp [hnone.1 hp, placeWrite]
  | reg a d i | bit a j d i | win k r =>
    have hn : noRegister w = false := by simpa [hp] using hnone
    have hb : ¬full = true ∨ b = true := by simpa [hn] using h
    simp only [hn, Bool.not_false, Bool.true_and, Bool.false_eq_true, if_false]
    rw [if_pos (hb.elim .inl fun hb => .inr (.inl hb))]

theorem agentWrite_flagged {ag : Agent} {off : Nat} {be : BitVec 4} (x : Word) {s : State}
    (h : be ≠ 0xF ∨ noRegister (off / 4) = true ∨ pf1Denied ag (directAddr (off / 4)) s = true) :
    agentWrite ag off be x s = settleIrq (flagged ag (off / 4) (decide (be = 0xF)) s) :=
  busWrite_flagged _ _ (h.imp_left decide_eq_false)

section
variable (ag : Agent) (w : Nat) (full : Bool) (s : State)

theorem unmapped_hst : (unmapped ag w s).hst = s.hst := by rw [unmapped, State.raise_hst, State.setReg_hst]

theorem unmapped_only {ps : List Part} {as : List Nat} {t : State} (h : Only ps as s t) (m : Reg.HOST_INT_STATUS ∈ as) (n : Reg.HOST_ERR_ADDR ∈ as) :
    Only ps as s (unmapped ag w t) := (h.setReg _ _ n).raise _ m

theorem unmapped_flag (f : Fld) (h : Apart F.HOST_INT_STATUS_UNMAPPED f) (ha : f.addr ≠ Reg.HOST_ERR_ADDR) :
    (unmapped ag w s).flag f = s.flag f := by
  rw [unmapped, State.flag_raise _ _ _ h, State.flag_setReg _ _ _ _ ha]

theorem flagged_hst : (flagged ag w full s).hst = s.hst := by
  rw [flagged_eq, State.raiseIf_hst]
  split
  · rw [unmapped_hst, State.raiseIf_hst]
  · rw [State.raiseIf_hst, State.raiseIf_hst]

theorem flagged_only : Only [] [Reg.HOST_INT_STATUS, Reg.HOST_ERR_ADDR] s (flagged ag w full s) := by
  have hm : Reg.HOST_INT_STATUS ∈ [Reg.HOST_INT_STATUS, Reg.HOST_ERR_ADDR] := List.mem_cons_self
  have hn : Reg.HOST_ERR_ADDR ∈ [Reg.HOST_INT_STATUS, Reg.HOST_ERR_ADDR] := .tail _ List.mem_cons_self
  have h1 := (Only.refl [] _ s).raiseIf (!full) F.HOST_INT_STATUS_PARTIAL_WRITE fun _ => hm
  rw [flagged_eq]
  split
  · exact (unmapped_only ag w s h1 hm hn).raiseIf _ F.HOST_INT_STATUS_PF1_DENIED fun _ => hm
  · exact (h1.raiseIf _ F.HOST_INT_STATUS_WIN_FOREIGN fun _ => hm).raiseIf _ F.HOST_INT_STATUS_PF1_DENIED fun _ => hm

theorem flagged_only_of_register (h : noRegister w = false) : Only [] [Reg.HOST_INT_STATUS] s (flagged ag w full s) := by
  have hm : Reg.HOST_INT_STATUS ∈ [Reg.HOST_INT_STATUS] := List.mem_cons_self
  have h1 := (Only.refl [] _ s).raiseIf (!full) F.HOST_INT_STATUS_PARTIAL_WRITE fun _ => hm
  rw [flagged_eq, if_neg (by rw [h]; decide)]
  exact (h1.raiseIf _ F.HOST_INT_STATUS_WIN_FOREIGN fun _ => hm).raiseIf _ F.HOST_INT_STATUS_PF1_DENIED fun _ => hm

theorem flagged_denied : (flagged ag w full s).flag F.HOST_INT_STATUS_PF1_DENIED =
    (s.flag F.HOST_INT_STATUS_PF1_DENIED || pf1Denied ag (directAddr w) s) := by
  rw [flagged_eq, State.flag_raiseIf_same _ _ _ (by decide) rfl, Bool.or_comm]
  congr 1
  split
  · rw [unmapped_flag _ _ _ _ (by decide) (by decide), State.flag_raiseIf _ _ _ _ (by decide)]
  · rw [State.flag_raiseIf _ _ _ _ (by decide), State.flag_raiseIf _ _ _ _ (by decide)]

theorem flagged_unmapped : (flagged ag w full s).flag F.HOST_INT_STATUS_UNMAPPED =
    (s.flag F.HOST_INT_STATUS_UNMAPPED || noRegister w) := by
  rw [flagged_eq, State.flag_raiseIf _ _ _ _ (by decide)]
  split
  · next h => rw [unmapped, State.flag_raise_same _ _ (by decide) rfl, h, Bool.or_true]
  · next h =>
    rw [State.flag_raiseIf _ _ _ _ (by decide), State.flag_raiseIf _ _ _ _ (by decide), Bool.eq_false_iff.2 h, Bool.or_false]

theorem flagged_partial : (flagged ag w false s).flag F.HOST_INT_STATUS_PARTIAL_WRITE = true := by
  rw [flagged_eq, State.flag_raiseIf _ _ _ _ (by decide)]
  have h1 : (s.raiseIf (!false) F.HOST_INT_STATUS_PARTIAL_WRITE).flag F.HOST_INT_STATUS_PARTIAL_WRITE = true :=
    State.flag_raise_same _ _ (by decide) rfl
  split
  · rw [unmapped_flag _ _ _ _ (by decide) (by decide), h1]
  · rw [State.flag_raiseIf _ _ _ _ (by decide), h1]

theorem unmapped_errAddr : (unmapped ag w s).reg Reg.HOST_ERR_ADDR = BitVec.ofNat 32 (4 * w % 2 ^ 26 + errAgent ag * 2 ^ 26) :=
  (State.reg_raise_ne _ _ (by decide)).trans (State.reg_setReg_same s _ _)

theorem flagged_errAddr (hw : w < 2 ^ 24) : (flagged ag w full s).reg Reg.HOST_ERR_ADDR =
    if noRegister w then BitVec.ofNat 32 (w * 4 + errAgent ag * 2 ^ 26) else s.reg Reg.HOST_ERR_ADDR := by
  have hi (t : State) (c : Bool) (f : Fld) (hf : f.addr ≠ Reg.HOST_ERR_ADDR) : (t.raiseIf c f).reg Reg.HOST_ERR_ADDR = t.reg Reg.HOST_ERR_ADDR := by
    rw [State.reg_raiseIf, if_neg fun h => hf h.2.symm]
  rw [flagged_eq, hi _ _ _ (by decide)]
  split
  · rw [unmapped_errAddr, show 4 * w % 2 ^ 26 = w * 4 by omega]
  · rw [hi _ _ _ (by decide), hi _ _ _ (by decide)]

end

/-- The address and the agent of an access to nothing, as HOST_ERR_ADDR shows them (R97). -/
theorem errAddr_fields {s : State} {ag : Agent} {w : Nat} (hw : w < 2 ^ 24)
    (h : s.reg Reg.HOST_ERR_ADDR = BitVec.ofNat 32 (w * 4 + errAgent ag * 2 ^ 26)) :
    s.fld F.HOST_ERR_ADDR_OFFSET = w * 4 ∧ s.fld F.HOST_ERR_ADDR_AGENT = errAgent ag := by
  have ha : errAgent ag < 4 := (winOf ag).isLt
  unfold State.fld
  change bits (s.reg Reg.HOST_ERR_ADDR) 0 26 = _ ∧ bits (s.reg Reg.HOST_ERR_ADDR) 26 3 = _
  rw [h, bits_ofNat _ _ _ (by decide), bits_ofNat _ _ _ (by decide)]
  omega

/-! ### What a write stores -/

/-- The bits of a register that a write may change at present. -/
def openBits (s : State) (a : Nat) (d : RegDef) : Word := (d.rw ||| d.rwl ||| d.wo) &&& ~~~lockedBits s a d

/-- The word that a write of the bits `m` gives a register, under the register's own rule. -/
def givenWord (s : State) (a : Nat) (d : RegDef) (m x : Word) : Word := normWord d.norm (s.reg a) ((s.reg a &&& ~~~m) ||| (x &&& m))

/-- A register stored with the word that it holds. -/
theorem RegsKeep.setReg_self {as : List Nat} {s0 s : State} (h : RegsKeep as s0 s) (a : Nat) : RegsKeep as s0 (s.setReg a (s.reg a)) :=
  h.trans fun b _ => ⟨by rw [State.reg_setReg]; split <;> simp [*], fun _ _ => rfl⟩

/-- What a write stores and marks, before what it sets off (R70, R72). -/
def regStored (a : Nat) (d : RegDef) (m x : Word) (s : State) : State :=
  let s1 := s.setReg a ((s.reg a &&& ~~~openBits s a d) ||| (givenWord s a d m x &&& openBits s a d))
  let s2 := if d.wo &&& m ≠ 0 ∧ lockedBits s a d &&& d.wo = 0 ∧ d.norm ≠ .lockBit ∧ d.norm ≠ .format then s1.markWo a else s1
  s2.raiseIf (decide ((givenWord s a d m x ^^^ s.reg a) &&& lockedBits s a d ≠ 0)) (lockViol (a / 1024))

theorem regStore_eq (a : Nat) (d : RegDef) (act : Word → Word → State → State) (m x : Word) (s : State) :
    regStore a d act m x s = act (s.reg a) ((s.reg a &&& ~~~m) ||| (x &&& m)) (regStored a d m x s) := rfl

section
variable (s : State) (a : Nat) (d : RegDef) (m x : Word)

theorem givenWord_allBits : givenWord s a d allBits x = normWord d.norm (s.reg a) x := by rw [givenWord, merge_allBits]

theorem lockedBits_of_plain (hl : d.rwl = 0) (hw : d.wo = 0) : lockedBits s a d = 0 := by simp [lockedBits, hl, hw]

/-- A register whose bits are all RW, with no rule of its own. -/
theorem regStored_plain (hn : d.norm = .none) (hl : d.rwl = 0) (hw : d.wo = 0) : regStored a d m x s =
    s.setReg a ((s.reg a &&& ~~~d.rw) ||| (((s.reg a &&& ~~~m) ||| (x &&& m)) &&& d.rw)) := by
  have hlk := lockedBits_of_plain s a d hl hw
  have ho : openBits s a d = d.rw := by
    rw [openBits, hlk, hl, hw]
    change (d.rw ||| 0#32 ||| 0#32) &&& ~~~0#32 = d.rw
    rw [BitVec.or_zero, BitVec.or_zero, BitVec.not_zero, BitVec.and_allOnes]
  simp [regStored, ho, givenWord, hlk, hn, hw, normWord, State.raiseIf]

variable {s a d m x}

theorem regStored_only {as : List Nat} (ha : a ∈ as) (hv : lockedBits s a d ≠ 0 → pageStatus (a / 1024) ∈ as) :
    Only [.hst] as s (regStored a d m x s) := by
  have h1 (v : Word) : Only [.hst] as s (s.setReg a v) := (Only.refl _ _ s).setReg a v ha
  refine Only.raiseIf ?_ _ _ fun hc => hv fun h0 => ?_
  · split
    · exact (h1 _).trans (.of_parts (State.markWo_moves (.refl _ _) _ (listed rfl)) (by decide))
    · exact h1 _
  · simp [h0] at hc

theorem regStored_reg (h : a = pageStatus (a / 1024) → lockedBits s a d = 0) : (regStored a d m x s).reg a =
    (s.reg a &&& ~~~openBits s a d) ||| (givenWord s a d m x &&& openBits s a d) := by
  unfold regStored
  dsimp only
  rw [State.reg_raiseIf, if_neg]
  · split
    · exact State.reg_setReg_same s a _
    · exact State.reg_setReg_same s a _
  · rintro ⟨hc, ha⟩
    simp [h ha] at hc

theorem regStored_lockViol (h : a = pageStatus (a / 1024) → openBits s a d = 0) : (regStored a d m x s).flag (lockViol (a / 1024)) =
    (s.flag (lockViol (a / 1024)) || decide ((givenWord s a d m x ^^^ s.reg a) &&& lockedBits s a d ≠ 0)) := by
  have h1 : (s.setReg a ((s.reg a &&& ~~~openBits s a d) ||| (givenWord s a d m x &&& openBits s a d))).flag (lockViol (a / 1024)) =
      s.flag (lockViol (a / 1024)) := by
    by_cases ha : a = pageStatus (a / 1024)
    · rw [h ha, show (s.reg a &&& ~~~(0 : Word)) ||| (givenWord s a d m x &&& 0) = s.reg a from merge_zero _ _]
      exact (RegsKeep.setReg_self (.refl [] s) a).flag_eq _ List.not_mem_nil
    · exact State.flag_setReg _ _ _ _ (Ne.symm ha)
  unfold regStored
  dsimp only
  rw [State.flag_raiseIf_same _ _ _ (by change 0 + 1 ≤ 32; decide) rfl, Bool.or_comm]
  congr 1
  split
  · exact h1
  · exact h1

theorem woDoneAt_of_marked {t : State} (h7 : a % 1024 ≠ 7) (h2 : a % 1024 ≠ 2) : woDoneAt t a d = smapGet (fun _ => false) t.hst.woDone a :=
  if_neg (by omega)

/-- A write of a write-once register with no rule of its own leaves it written. -/
theorem regStored_woDone (hw : d.wo ≠ 0) (hn : d.norm = .none) (h7 : a % 1024 ≠ 7) (h2 : a % 1024 ≠ 2) (hd : d.rwl &&& d.wo = 0) :
    woDoneAt (regStored a d allBits x s) a d = true := by
  have hall : d.wo &&& allBits = d.wo := BitVec.and_allOnes
  rw [woDoneAt_of_marked h7 h2]
  unfold regStored
  dsimp only
  rw [State.raiseIf_hst, hall]
  split
  · simp [State.markWo]
  · next h =>
    have hlk : lockedBits s a d &&& d.wo ≠ 0 := fun h0 => h ⟨hw, h0, by simp [hn], by simp [hn]⟩
    by_cases hdone : woDoneAt s a d = true
    · rwa [woDoneAt_of_marked h7 h2] at hdone
    · refine absurd ?_ hlk
      rw [lockedBits, if_neg hdone]
      split <;> simp [hd]

end

/-! ### Full writes of registers -/

section
variable {ag : Agent} {off a : Nat} {s : State}

/-- A full write that PF1 may make, of a register with no counter's rules. -/
theorem agentWrite_stores (x : Word) (ho : off / 4 = a) (hw : a < 2 ^ 22) (hr : (regDef? a).isSome = true) (hn : isWinReg a = false)
    (hc : (regOf a).ctr = .none) (hF : a ≠ Reg.HRTH_FW_STATUS) (hf : pf1Denied ag a s = false) :
    ∃ i, agentWrite ag off 0xF x s = settleIrq (runAct (regOf a).act ag i a (s.reg a) x (regStored a (regOf a) allBits x s)) := by
  subst ho
  obtain ⟨i, hp⟩ := placeOf_direct hw hr hn
  refine ⟨i, ?_⟩
  rw [agentWrite_of_reg x hp (by rwa [directAddr_of_lt hw]), storeReg_of_plain _ _ _ _ _ _ hF hc, regStore_eq, merge_allBits]

/-- A full write of the word of a bit that takes writes (R74). -/
theorem agentWrite_storesBit {j : Nat} (x : Word) (hl : 2 ^ 22 ≤ off / 4) (hu : off / 4 < 0xC00000) (ha : directAddr (off / 4) = a)
    (hj : off / 4 % 32 = j) (hr : (regDef? a).isSome = true) (hn : isWinReg a = false) (hc : (regOf a).ctr = .none)
    (hF : a ≠ Reg.HRTH_FW_STATUS) (hf : pf1Denied ag a s = false) (hb : aliasWritable (regOf a) &&& bitMask j ≠ 0) :
    ∃ i, agentWrite ag off 0xF x s = settleIrq (runAct (regOf a).act ag i a (s.reg a)
      ((s.reg a &&& ~~~bitMask j) ||| ((if bit x 0 then bitMask j else 0) &&& bitMask j))
      (regStored a (regOf a) (bitMask j) (if bit x 0 then bitMask j else 0) s)) := by
  obtain ⟨i, hp⟩ := placeOf_alias hl hu ha hr hn
  refine ⟨i, ?_⟩
  rw [hj] at hp
  simp only [agentWrite, busWrite, hp, ha, hf, decide_true, Bool.not_true, Bool.and_false, State.raiseIf, Bool.false_eq_true, if_false,
    not_true_eq_false, or_self, placeWrite, hb, ne_eq, not_false_eq_true, true_or, if_true]
  rw [storeReg_of_plain _ _ _ _ _ _ hF hc, regStore_eq]

end

end Sys2Proof.Machine
end

section
/-!
Two statements of the host channels that the model does not keep: a read that waits in a window's FIFO begins its access without
completions (O8), and board test holds link training (O10, R567).
-/
namespace Sys2Proof.Machine
set_option Elab.async false

/-- Window 1 has a write at the head of its FIFO, and the access before has left a completion. -/
def readBehindWrite : State := { Tests.winPf1 with hst := { Tests.winPf1.hst with completions := [(.pf0, 7)] } }

theorem readBehindWrite_fits : readBehindWrite.pwr.mainUp = true ∧ (readBehindWrite.win (winOf .pf1)).fifo.head?.any isWrite = true := by
  decide +kernel

/-- The completions of the access before are no longer there after a read that waits. -/
theorem winRead_behindWrite : (winRead .pf1 (winOf .pf1) 1 0 readBehindWrite).hst.completions ≠ readBehindWrite.hst.completions := by
  decide +kernel

/-- Refutes O8: with PF0's completion of the access before in the state, PF1's read of IND_DATA behind a write leaves no completion, where
the statement keeps those that were there. -/
theorem not_windowCommands : ¬ Obligations.WindowCommands := by
  unfold Obligations.WindowCommands
  rintro ⟨-, -, -, -, -, -, -, -, waits, -⟩
  obtain ⟨hup, hfifo⟩ := readBehindWrite_fits
  obtain ⟨t, ht, hc, -⟩ := waits readBehindWrite .pf1 0 hup hfifo
  have hx : exec (.indDataRead .pf1 (winOf .pf1) 0) readBehindWrite = .next (winRead .pf1 (winOf .pf1) 1 0 readBehindWrite) :=
    whenMain_of_up hup
  rw [hx, Host.Outcome.next.injEq] at ht
  exact winRead_behindWrite (ht ▸ hc)

theorem inBoard_tests : Tests.inBoard.pwr.mainUp = true ∧ boardTest Tests.inBoard = true ∧ Tests.inBoard.hst.linkTraining = false := by
  decide +kernel

/-- Refutes O10: while board test holds the pins (here EXTEST), link training does not start. -/
theorem not_interruptCommands : ¬ Obligations.InterruptCommands := by
  unfold Obligations.InterruptCommands
  rintro ⟨-, -, -, -, -, -, -, -, training⟩
  obtain ⟨hup, hboard, hoff⟩ := inBoard_tests
  obtain ⟨t, ht, hh, -⟩ := training Tests.inBoard hup
  have hx : exec .linkTrainingStart Tests.inBoard = .next (if boardTest Tests.inBoard then Tests.inBoard else setTraining true Tests.inBoard) :=
    whenMain_of_up (f := fun s => if boardTest s then s else setTraining true s) hup
  rw [hx, if_pos hboard, Host.Outcome.next.injEq] at ht
  rw [← ht] at hh
  have hon : Tests.inBoard.hst.linkTraining = true := by rw [hh]
  exact Bool.false_ne_true (hoff.symm.trans hon)

end Sys2Proof.Machine
end

section
/-!
SUPPORT. The staged words of counters (R89): what the writes of a counter's two words do. O6 follows.
-/
namespace Sys2Proof.Machine
set_option Elab.async false

/-! ### Staging registers -/

theorem State.stage_setStage (s : State) (ca : Nat) (x : Word) (a : Nat) :
    smapGet noStage (s.setStage ca x).hst.stage a = if a = ca then x else smapGet noStage s.hst.stage a := smapGet_set ..

theorem State.stage_setStage_ne (s : State) (ca : Nat) (x : Word) {a : Nat} (h : a ≠ ca) :
    smapGet noStage (s.setStage ca x).hst.stage a = smapGet noStage s.hst.stage a := by rw [State.stage_setStage, if_neg h]

theorem Only.setStage {ps : List Part} {as : List Nat} {s t : State} (h : Only ps as s t) (ca : Nat) (x : Word)
    (m : ps.contains .hst = true := by rfl) : Only ps as s (t.setStage ca x) :=
  h.trans ((Only.of_parts (State.setStage_moves (cs := [.hst]) (.refl _ t) ca x (listed rfl)) (by decide)).mono (by simpa using listed m)
    fun _ => id)

theorem State.reg_setStage (s : State) (ca : Nat) (x : Word) (a : Nat) : (s.setStage ca x).reg a = s.reg a := rfl

/-! ### The writes of the two words -/

section
variable {ag : Agent} {off : Nat} {s : State} (x : Word) (hw : off / 4 < 2 ^ 22) (hr : (regDef? (off / 4)).isSome = true)
  (hn : isWinReg (off / 4) = false) (hF : off / 4 ≠ Reg.HRTH_FW_STATUS) (hf : pf1Denied ag (off / 4) s = false)
include hw hr hn hF hf

/-- The high word waits in the agent's staging register. -/
theorem agentWrite_hi (hc : (regOf (off / 4)).ctr = .hi) : agentWrite ag off 0xF x s = settleIrq (s.setStage (agentIx ag) x) := by
  obtain ⟨i, hp⟩ := placeOf_direct hw hr hn
  rw [agentWrite_of_reg x hp (by rwa [directAddr_of_lt hw]), storeReg, if_neg hF, hc]

/-- The low word and the staged high word are written together. -/
theorem agentWrite_lo (hc : (regOf (off / 4)).ctr = .lo) : agentWrite ag off 0xF x s =
    settleIrq ((s.setReg64 (off / 4) (off / 4 + 1) (x.toNat + 2 ^ 32 * (smapGet noStage s.hst.stage (agentIx ag)).toNat)).setStage
      (agentIx ag) 0) := by
  obtain ⟨i, hp⟩ := placeOf_direct hw hr hn
  rw [agentWrite_of_reg x hp (by rwa [directAddr_of_lt hw]), storeReg, if_neg hF, hc]

end

/-- The two words that a 64-bit write leaves. -/
theorem State.reg_setReg64_words (s : State) (a : Nat) (x h : Word) :
    (s.setReg64 a (a + 1) (x.toNat + 2 ^ 32 * h.toNat)).reg a = x ∧ (s.setReg64 a (a + 1) (x.toNat + 2 ^ 32 * h.toNat)).reg (a + 1) = h := by
  have hx := x.isLt
  rw [State.reg_setReg64, State.reg_setReg64, if_neg (by omega), if_pos rfl, if_pos rfl]
  constructor
  · apply BitVec.eq_of_toNat_eq
    rw [BitVec.toNat_ofNat]
    omega
  · rw [show (x.toNat + 2 ^ 32 * h.toNat) / 2 ^ 32 = h.toNat by omega, BitVec.ofNat_toNat, BitVec.setWidth_eq]

section
variable (s : State) (ag : Agent) (addr : BitVec 26) (d : Word) (hm : s.pwr.mainUp = true) (ha : addr.toNat < 2 ^ 24)
  (hr : (regDef? (addr.toNat / 4)).isSome = true) (hn : isWinReg (addr.toNat / 4) = false)
include hm ha hr hn

theorem counterHiWrite_stages (hc : (regOf (addr.toNat / 4)).ctr = .hi) (hF : addr.toNat / 4 ≠ Reg.HRTH_FW_STATUS)
    (hf : pf1Denied ag (addr.toNat / 4) s = false) : Answers (.counterHiWrite ag addr d) s fun t =>
      smapGet noStage t.hst.stage (agentIx ag) = d ∧
      (∀ a, a ≠ agentIx ag → smapGet noStage t.hst.stage a = smapGet noStage s.hst.stage a) ∧ Only [.hst] [] s t := by
  refine answers_main (by rw [exec, execCounterHiWrite]) hm fun t ht => ?_
  rw [agentWrite_hi d (by omega) hr hn hF hf hc] at ht
  subst ht
  rw [settleIrq_stage]
  exact ⟨by rw [State.stage_setStage, if_pos rfl], fun _ => State.stage_setStage_ne s _ d, ((Only.refl _ _ s).setStage _ d).settleIrq⟩

theorem counterLoWrite_joins (hc : (regOf (addr.toNat / 4)).ctr = .lo) (hF : addr.toNat / 4 ≠ Reg.HRTH_FW_STATUS)
    (hf : pf1Denied ag (addr.toNat / 4) s = false) : Answers (.counterLoWrite ag addr d) s fun t =>
      t.reg (addr.toNat / 4) = d ∧ t.reg (addr.toNat / 4 + 1) = smapGet noStage s.hst.stage (agentIx ag) ∧
      smapGet noStage t.hst.stage (agentIx ag) = 0 ∧
      (∀ a, a ≠ agentIx ag → smapGet noStage t.hst.stage a = smapGet noStage s.hst.stage a) ∧
      Only [.hst] [addr.toNat / 4, addr.toNat / 4 + 1] s t := by
  refine answers_main (by rw [exec, execCounterLoWrite]) hm fun t ht => ?_
  rw [agentWrite_lo d (by omega) hr hn hF hf hc] at ht
  subst ht
  obtain ⟨hlo, hhi⟩ := s.reg_setReg64_words (addr.toNat / 4) d (smapGet noStage s.hst.stage (agentIx ag))
  rw [settleIrq_stage, settleIrq_reg, settleIrq_reg, State.reg_setStage, State.reg_setStage]
  refine ⟨hlo, hhi, by rw [State.stage_setStage, if_pos rfl], fun _ h => State.stage_setStage_ne _ _ 0 h, ?_⟩
  exact ((((Only.refl _ _ s).setReg _ _ List.mem_cons_self).setReg _ _ (.tail _ List.mem_cons_self)).setStage _ 0).settleIrq

end

/-- Settles O6. -/
theorem counterWritesAreStaged : Obligations.CounterWritesAreStaged := by
  refine ⟨counterHiWrite_stages, counterLoWrite_joins, fun s ag addr d hm ha hr hn hc hF hf h0 => ?_⟩
  obtain ⟨t, ht, -, hhi, -⟩ := counterLoWrite_joins s ag addr d hm ha hr hn hc hF hf
  exact ⟨t, ht, hhi.trans h0⟩

end Sys2Proof.Machine
end

section
/-!
SUPPORT. Reads of registers (R55, R59, R66, R67, R73, R74, R86): the value that a read returns and what it clears, for registers and bits of
them that are neither formed when they are read nor words of counters.
-/
namespace Sys2Proof.Machine
set_option Elab.async false

/-! ### Cleared bits and snapshots -/

/-- To clear the bits of a word that are set in a mask, and to clear the mask. -/
theorem and_not_and (x m : Word) : x &&& ~~~(x &&& m) = x &&& ~~~m := by
  refine BitVec.eq_of_getLsbD_eq fun i hi => ?_
  simp only [BitVec.getLsbD_and, BitVec.getLsbD_not, hi, decide_true, Bool.true_and]
  cases x.getLsbD i <;> simp

theorem and_not_zero (x : Word) : x &&& ~~~(0 : Word) = x := by
  change x &&& ~~~0#32 = x
  rw [BitVec.not_zero, BitVec.and_allOnes]

theorem State.reg_clearBits (s : State) (a : Nat) (m : Word) : (s.clearBits a m).reg a = s.reg a &&& ~~~m := by
  unfold State.clearBits
  split
  · next h => rw [← and_not_and, h, and_not_zero]
  · exact State.reg_setReg_same s a _

theorem Only.clearBits {ps : List Part} {as : List Nat} {s t : State} (h : Only ps as s t) (a : Nat) (m : Word) (ha : a ∈ as) :
    Only ps as s (t.clearBits a m) := by
  unfold State.clearBits
  split
  · exact h
  · exact h.setReg _ _ ha

theorem State.clearBits_zero (s : State) (a : Nat) : s.clearBits a 0 = s := if_pos BitVec.and_zero

theorem State.snap_setSnap (s : State) (ca : Nat) (x : Option (Nat × List Word)) : smapGet noSnap (s.setSnap ca x).hst.snap ca = x :=
  smapGet_set_same ..

theorem Only.setSnap {ps : List Part} {as : List Nat} {s t : State} (h : Only ps as s t) (ca : Nat) (x : Option (Nat × List Word))
    (m : ps.contains .hst = true := by rfl) : Only ps as s (t.setSnap ca x) :=
  h.trans ((Only.of_parts (State.setSnap_moves (cs := [.hst]) (.refl _ t) ca x (listed rfl)) (by decide)).mono (by simpa using listed m)
    fun _ => id)

/-! ### The path of a read -/

section
variable {ag : Agent} {off : Nat} {be : BitVec 4} {s : State} (hb : be ≠ 0)
include hb

theorem agentRead_of_reg {a i : Nat} {d : RegDef} (hp : placeOf (off / 4) = .reg a d i) : agentRead ag off be s =
    settleIrq (completed ag (regValue ag (agentIx ag) a d i s) (readEffects ag (agentIx ag) (off / 4) (.reg a d i)
      (regValue ag (agentIx ag) a d i s) 0 (latchHi (agentIx ag) a d s))) := by
  rw [agentRead, busRead, if_neg hb]
  simp only [hp, plainRead, placeValue, completed]

theorem agentRead_of_bit {a j i : Nat} {d : RegDef} (hp : placeOf (off / 4) = .bit a j d i) : agentRead ag off be s =
    settleIrq (completed ag (placeValue ag (agentIx ag) (.bit a j d i) s) (readEffects ag (agentIx ag) (off / 4) (.bit a j d i)
      (placeValue ag (agentIx ag) (.bit a j d i) s) 0 s)) := by
  rw [agentRead, busRead, if_neg hb]
  simp only [hp, plainRead, completed]

theorem agentRead_of_none (hn : noRegister (off / 4) = true) :
    agentRead ag off be s = settleIrq (completed ag 0 (unmapped ag (off / 4) s)) := by
  have hp := (placeOf_eq_none_iff _).2 hn
  rw [agentRead, busRead, if_neg hb]
  simp only [hp, plainRead, placeValue, readEffects, completed]

end

theorem agentRead_of_noBytes (ag : Agent) (off : Nat) (s : State) : agentRead ag off 0 s = completed ag 0 s := by
  rw [agentRead, busRead, if_pos rfl, completed]

/-! ### Registers that are stored as they are read -/

section
variable {ag : Agent} {ca a i : Nat} {d : RegDef} {s : State} (hl : d.live = .none)
include hl

theorem regValue_stored (hc : ctrOf a d ≠ .hi) : regValue ag ca a d i s = s.reg a := by
  simp [regValue, hl, hc, liveWord]

theorem regValue_hi (hc : ctrOf a d = .hi) : regValue ag ca a d i s = hiWord s ca a (s.reg a) := by
  simp [regValue, hl, hc, liveWord]

theorem placeValue_bit {j : Nat} : placeValue ag ca (.bit a j d i) s = BitVec.ofNat 32 (bits (s.reg a) j 1) := by
  simp [placeValue, hl, liveWord]

theorem readEffects_stored {w : Nat} {v : Word} (hc : ctrOf a d = .none ∨ ctrOf a d = .lo) :
    readEffects ag ca w (.reg a d i) v 0 s = s.clearBits a (v &&& rcBits ag a d) := by
  have h0 : v &&& rcBits ag a d &&& ~~~(0 : Word) = v &&& rcBits ag a d := and_not_zero _
  rcases hc with hc | hc <;> simp only [readEffects, hl, hc, h0, reduceCtorEq, if_false]

theorem readEffects_hi {w : Nat} {v : Word} (hc : ctrOf a d = .hi) (hrc : d.rc = 0) :
    readEffects ag ca w (.reg a d i) v 0 s = if inSnap s ca a ∧ inSnap s ca (a + 1) then s else s.setSnap ca none := by
  have h0 : s.clearBits a (v &&& rcBits ag a d &&& ~~~(0 : Word)) = s := by simp [rcBits, hrc, State.clearBits]
  simp only [readEffects, hl, hc, h0, reduceCtorEq, if_false]

theorem readEffects_bit {w j : Nat} {v : Word} : readEffects ag ca w (.bit a j d i) v 0 s =
    if bit v 0 then s.clearBits a (rcBits ag a d &&& bitMask j) else s := by
  simp [readEffects, hl, bit, bitMask]

end

theorem latchHi_of_ne {ca a : Nat} {d : RegDef} {s : State} (h : ctrOf a d ≠ .lo) : latchHi ca a d s = s := if_neg h

/-- Outside the mailboxes every reader clears the same bits. -/
theorem rcBits_of_block {ag : Agent} {a : Nat} (d : RegDef) (h : blockOfPage (a / 1024) ≠ some 4) : rcBits ag a d = d.rc :=
  if_neg fun c => h c.2

/-- A read of a register returns it and clears those of its RC bits that it returned. -/
theorem agentRead_stored {ag : Agent} {off : Nat} {be : BitVec 4} {s : State} (hb : be ≠ 0) (hw : off / 4 < 2 ^ 22)
    (hr : (regDef? (off / 4)).isSome = true) (hn : isWinReg (off / 4) = false) (hl : (regOf (off / 4)).live = .none)
    (hc : ctrOf (off / 4) (regOf (off / 4)) = .none) : agentRead ag off be s =
    settleIrq (completed ag (s.reg (off / 4)) (s.clearBits (off / 4) (s.reg (off / 4) &&& rcBits ag (off / 4) (regOf (off / 4))))) := by
  obtain ⟨i, hp⟩ := placeOf_direct hw hr hn
  rw [agentRead_of_reg hb hp, latchHi_of_ne (by simp [hc]), regValue_stored hl (by simp [hc]), readEffects_stored hl (.inl hc)]

end Sys2Proof.Machine
end

section
/-!
SUPPORT. Writes of PF1 (R58), and what a window does with the write at the head of its FIFO (R78, R80): the access that PF1 may not make,
directly or through window 1. O7 follows.
-/
namespace Sys2Proof.Machine
set_option Elab.async false

/-! ### Windows -/

section
variable {ps : List Part} {as : List Nat} {s t : State}

theorem Only.updWin (h : Only ps as s t) (k : Nat) (f : WinSt → WinSt) (m : ps.contains .hst = true := by rfl) : Only ps as s (t.updWin k f) :=
  h.trans ((Only.of_parts (State.updWin_moves (cs := [.hst]) (.refl _ t) k f (listed rfl)) (by decide)).mono (by simpa using listed m)
    fun _ => id)

theorem Only.noCompletions (h : Only ps as s t) (m : ps.contains .hst = true := by rfl) : Only ps as s (noCompletions t) :=
  h.trans ((Only.of_parts (noCompletions_moves (cs := [.hst]) (.refl _ t) (listed rfl)) (by decide)).mono (by simpa using listed m)
    fun _ => id)

theorem Only.setFld (h : Only ps as s t) (f : Fld) (x : Nat) (m : f.addr ∈ as) : Only ps as s (t.setFld f x) := h.setReg _ _ m

end

section
variable (s : State) (k : Nat)

theorem State.win_updWin_same (f : WinSt → WinSt) : (s.updWin k f).win k = f (s.win k) := smapGet_set_same ..

theorem State.win_of_hst {s t : State} (h : t.hst = s.hst) : t.win k = s.win k := by rw [State.win, h, State.win]

theorem settleIrq_noCompletions_win : (settleIrq (noCompletions s)).win k = s.win k := by
  rw [State.win, settleIrq_win]
  rfl

end

/-- A window whose head is no read, or that has a write in flight, serves nothing. -/
theorem turnServe_idle {k : Fin 4} {s : State} (h : (s.win k).taking = true ∨ (s.win k).fifo.head?.all isWrite = true) : turnServe k s = s := by
  unfold turnServe
  split
  · next e => exact if_pos (h.resolve_right (by simp [e, isWrite]))
  · rfl

theorem winServe_idle {k : Fin 4} {s : State} (h : (s.win k).taking = true ∨ (s.win k).fifo.head?.all isWrite = true) :
    winServe k s = settleIrq (noCompletions s) := by
  rw [winServe, forUpto]
  congr 1
  refine List.foldlRecOn (motive := fun t => t = noCompletions s) (upto _) _ rfl ?_
  rintro _ rfl _ -
  exact turnServe_idle h

/-- The write at the head of a window's FIFO has left it. -/
def headGone (k : Nat) (ag : Agent) (rest : List WinEntry) (s : State) : State :=
  s.updWin k fun w => { w with fifo := rest, core := (hearthCore ag).getD w.core }

theorem winApply_head {k : Nat} {ag : Agent} {r : WinReg} {d : Word} {rest : List WinEntry} {s : State} (f : Word → State → State)
    (h : (s.win k).fifo = .write ag r d :: rest) (ht : (s.win k).taking = false) : winApply k r f s = f d (headGone k ag rest s) := by
  simp [winApply, h, ht, headGone]

/-- The write of IND_DATA is passed to the target. -/
theorem dataApply_passes {k : Fin 4} {d : Word} {s : State} (hd : dirWrite s k = true) (hf : winFails s k = none)
    (hp : secondDenied (winOwner k s) (winDomain s k) (winWaddr s k) s = false) :
    dataApply k d s = (s.setReg (Reg.IND_DATA k) d).updWin k fun w => { w with taking := true } := by
  simp [dataApply, hd, hf, hp]

/-- The write of IND_DATA is refused for PF1: it leaves HOST_ERR_ADDR as it is unless its word is one of domain 0x00 without a register. -/
theorem dataApply_refuses {k : Fin 4} {d : Word} {s : State} (hd : dirWrite s k = true) (hf : winFails s k = none)
    (hp : secondDenied (winOwner k s) (winDomain s k) (winWaddr s k) s = true) :
    ∃ u, dataApply k d s = winAdvance k (u.raise F.HOST_INT_STATUS_PF1_DENIED) ∧ (u = s.setReg (Reg.IND_DATA k) d ∨
      winDomain s k = 0 ∧ u = unmapped (winOwner k s) (winWaddr s k) (s.setReg (Reg.IND_DATA k) d)) := by
  unfold dataApply
  dsimp only
  rw [if_neg (not_not.2 hd), hf]
  dsimp only
  rw [if_pos hp]
  split
  · next h _ => exact ⟨_, rfl, .inr ⟨h, rfl⟩⟩
  · exact ⟨_, rfl, .inl rfl⟩

/-! ### Whether PF1 may write -/

theorem pf1Denied_of_closed {a c : Nat} {s : State} (hb : blockOfPage (a / 1024) = some c) (h : s.rbit Reg.HOST_PF1_WRITE_EN (c - 1) = false) :
    pf1Denied .pf1 a s = true := by
  simp [pf1Denied, hb, h]

theorem pf1Denied_of_open {a c : Nat} {s : State} (hb : blockOfPage (a / 1024) = some c) (h : s.rbit Reg.HOST_PF1_WRITE_EN (c - 1) = true)
    (ha : a ≠ Reg.HOST_PF1_WRITE_EN) : pf1Denied .pf1 a s = false := by
  simp [pf1Denied, hb, h, ha]

/-- The registers that an agent may reach. -/
theorem noRegister_of_direct {w : Nat} (h : w < 2 ^ 22) (hr : (regDef? w).isSome = true) (hn : isWinReg w = false) : noRegister w = false := by
  obtain ⟨i, hp⟩ := placeOf_direct h hr hn
  exact Bool.eq_false_iff.2 fun e => by simp [(placeOf_eq_none_iff w).2 e] at hp

theorem noRegister_of_alias {w : Nat} (hl : 2 ^ 22 ≤ w) (hu : w < 0xC00000) (hr : (regDef? (directAddr w)).isSome = true)
    (hn : isWinReg (directAddr w) = false) : noRegister w = false := by
  obtain ⟨i, hp⟩ := placeOf_alias hl hu rfl hr hn
  exact Bool.eq_false_iff.2 fun e => by simp [(placeOf_eq_none_iff w).2 e] at hp

/-! ### A write that PF1 may not make -/

/-- PF1_DENIED sets, and nothing else that a write could change does. -/
def DeniedAlone (s t : State) : Prop :=
  t.flag F.HOST_INT_STATUS_PF1_DENIED = true ∧ Only [.hst] [Reg.HOST_INT_STATUS] s t ∧ t.hst.win = s.hst.win ∧ t.hst.mbox = s.hst.mbox ∧
    t.hst.stage = s.hst.stage ∧ t.hst.woDone = s.hst.woDone ∧ t.hst.snap = s.hst.snap

theorem agentWrite_deniedAlone {off : Nat} {s : State} (d : Word) (hn : noRegister (off / 4) = false)
    (hf : pf1Denied .pf1 (directAddr (off / 4)) s = true) : DeniedAlone s (agentWrite .pf1 off 0xF d s) := by
  have hh : (flagged .pf1 (off / 4) (decide ((0xF : BitVec 4) = 0xF)) s).hst = s.hst := flagged_hst ..
  rw [agentWrite_flagged d (.inr (.inr hf))]
  unfold DeniedAlone
  rw [settleIrq_flag, flagged_denied, hf, Bool.or_true, settleIrq_win, settleIrq_mbox, settleIrq_stage, settleIrq_woDone, settleIrq_snap, hh]
  refine ⟨rfl, Only.settleIrq ?_, rfl, rfl, rfl, rfl, rfl⟩
  exact (flagged_only_of_register .pf1 (off / 4) _ s hn).mono (by simp) fun _ => id

theorem registerWrite_denied (s : State) (addr : BitVec 26) (d : Word) (c : Nat) (hm : s.pwr.mainUp = true) (ha : addr.toNat < 2 ^ 24)
    (hr : (regDef? (addr.toNat / 4)).isSome = true) (hn : isWinReg (addr.toNat / 4) = false) (hb : blockOfPage (addr.toNat / 4 / 1024) = some c)
    (hf : s.rbit Reg.HOST_PF1_WRITE_EN (c - 1) = false) : Answers (.registerWrite .pf1 addr 0xF d) s (DeniedAlone s) := by
  refine answers_main (by rw [exec, execRegisterWrite]) hm fun t ht => ht ▸ agentWrite_deniedAlone d (noRegister_of_direct (by omega) hr hn) ?_
  rw [directAddr_of_lt (by omega)]
  exact pf1Denied_of_closed hb hf

theorem aliasWrite_denied (s : State) (page : BitVec 12) (b : BitVec 11) (d : Word) (c : Nat) (hm : s.pwr.mainUp = true)
    (hr : (regDef? (page.toNat * 1024 + b.toNat / 32)).isSome = true) (hn : isWinReg (page.toNat * 1024 + b.toNat / 32) = false)
    (hb : blockOfPage page.toNat = some c) (hf : s.rbit Reg.HOST_PF1_WRITE_EN (c - 1) = false) :
    Answers (.aliasWrite .pf1 page b d) s (DeniedAlone s) := by
  obtain ⟨had, -, hl, hu⟩ := aliasOff_direct page b
  refine answers_main (by rw [exec, execAliasWrite]) hm fun t ht => ht ▸ agentWrite_deniedAlone d ?_ ?_
  · exact noRegister_of_alias hl hu (had ▸ hr) (had ▸ hn)
  · have hlt := b.isLt
    rw [had]
    exact pf1Denied_of_closed ((congrArg blockOfPage (by omega)).trans hb) hf

theorem writeEnWrite_denied (s : State) (d : Word) (hm : s.pwr.mainUp = true) :
    Answers (.registerWrite .pf1 (BitVec.ofNat 26 (4 * Reg.HOST_PF1_WRITE_EN)) 0xF d) s (DeniedAlone s) := by
  refine answers_main (by rw [exec, execRegisterWrite]) hm fun t ht => ?_
  rw [← ht]
  refine agentWrite_deniedAlone d ?_ ?_
  · decide +kernel
  · rw [pf1Denied, decide_eq_true (by decide +kernel), Bool.true_or]

/-- Where the block's bit is 1 the write goes through. -/
theorem registerWrite_allowed (s : State) (addr : BitVec 26) (d : Word) (c : Nat) (hm : s.pwr.mainUp = true) (ha : addr.toNat < 2 ^ 24)
    (hr : (regDef? (addr.toNat / 4)).isSome = true) (hn : isWinReg (addr.toNat / 4) = false) (hb : blockOfPage (addr.toNat / 4 / 1024) = some c)
    (hf : s.rbit Reg.HOST_PF1_WRITE_EN (c - 1) = true) (hen : addr.toNat / 4 ≠ Reg.HOST_PF1_WRITE_EN) (hact : (regOf (addr.toNat / 4)).act = .none)
    (hnorm : (regOf (addr.toNat / 4)).norm = .none) (hc : (regOf (addr.toNat / 4)).ctr = .none) (hl : (regOf (addr.toNat / 4)).rwl = 0)
    (hw : (regOf (addr.toNat / 4)).wo = 0) (hF : addr.toNat / 4 ≠ Reg.HRTH_FW_STATUS) (hi : addr.toNat / 4 ≠ Reg.HOST_INT_STATUS) :
    Answers (.registerWrite .pf1 addr 0xF d) s fun t =>
      t.reg (addr.toNat / 4) = (s.reg (addr.toNat / 4) &&& ~~~(regOf (addr.toNat / 4)).rw) ||| (d &&& (regOf (addr.toNat / 4)).rw) ∧
      t.flag F.HOST_INT_STATUS_PF1_DENIED = s.flag F.HOST_INT_STATUS_PF1_DENIED := by
  refine answers_main (by rw [exec, execRegisterWrite]) hm fun t ht => ?_
  obtain ⟨i, hx⟩ := agentWrite_stores d rfl (by omega) hr hn hc hF (pf1Denied_of_open hb hf hen)
  rw [hx, hact, regStored_plain _ _ _ _ _ hnorm hl hw, merge_allBits] at ht
  subst ht
  rw [settleIrq_reg, settleIrq_flag]
  exact ⟨State.reg_setReg_same .., State.flag_setReg _ _ _ _ (Ne.symm hi)⟩

theorem rcRead_pf1 (s : State) (addr : BitVec 26) (hm : s.pwr.mainUp = true) (ha : addr.toNat < 2 ^ 24)
    (hr : (regDef? (addr.toNat / 4)).isSome = true) (hn : isWinReg (addr.toNat / 4) = false) (hl : (regOf (addr.toNat / 4)).live = .none)
    (hc : ctrOf (addr.toNat / 4) (regOf (addr.toNat / 4)) = .none) : Answers (.rcRead .pf1 addr 0xF) s fun t =>
      t.hst.completions = [(.pf1, s.reg (addr.toNat / 4))] ∧
      (addr.toNat / 4 ≠ Reg.HOST_INT_STATUS → t.flag F.HOST_INT_STATUS_PF1_DENIED = s.flag F.HOST_INT_STATUS_PF1_DENIED) := by
  refine answers_main (by rw [exec, execRcRead]) hm fun t ht => ?_
  rw [agentRead_stored (by decide) (by omega) hr hn hl hc] at ht
  subst ht
  rw [settleIrq_completions, completed_completions, settleIrq_flag, completed_flag]
  refine ⟨rfl, fun hi => ?_⟩
  exact ((Only.refl [] [addr.toNat / 4] s).clearBits _ _ List.mem_cons_self).2.flag_eq _ fun h => hi (List.mem_singleton.1 h).symm

/-! ### Writes through window 1 -/

theorem execIndDataApply_head {k : Fin 4} {ag : Agent} {d : Word} {rest : List WinEntry} {s : State} (hm : s.pwr.mainUp = true)
    (h : (s.win k).fifo = .write ag .data d :: rest) (ht : (s.win k).taking = false) (hc : s.net.commit = 0) :
    exec (.indDataApply k) s = .next (winServe k (dataApply k d (headGone k ag rest s))) := by
  have hheld : dataHeld s k = false := by simp [dataHeld, hc]
  have hx : exec (.indDataApply k) s = .next (if dataHeld s k then s else winServe k (winApply k .data (dataApply k) s)) :=
    whenMain_of_up (f := fun s => if dataHeld s k then s else winServe k (winApply k .data (dataApply k) s)) hm
  rw [hx, hheld, if_neg Bool.false_ne_true, winApply_head _ h ht]

theorem hostInt_ne_indAddr (k : Nat) : Reg.HOST_INT_STATUS ≠ Reg.IND_ADDR k := by
  unfold Reg.HOST_INT_STATUS Reg.IND_ADDR
  omega

theorem headGone_win {k : Nat} {ag : Agent} {rest : List WinEntry} {s : State} :
    (headGone k ag rest s).win k = { s.win k with fifo := rest, core := (hearthCore ag).getD (s.win k).core } := by
  rw [headGone, State.win_updWin_same]

/-- A write that a window refuses to pass, with what it may change. -/
def RefusedThrough (k : Nat) (as : List Nat) (rest : List WinEntry) (s t : State) : Prop :=
  t.flag F.HOST_INT_STATUS_PF1_DENIED = true ∧ (t.win k).taking = false ∧ (t.win k).fifo = rest ∧ Only [.hst] as s t

section
variable {s : State} {k : Fin 4} {ag : Agent} {d : Word} {rest : List WinEntry} (hm : s.pwr.mainUp = true)
  (h : (s.win k).fifo = .write ag .data d :: rest) (ht : (s.win k).taking = false) (hd : dirWrite s k = true)
  (hf : winFails s k = none) (hc : s.net.commit = 0)
include hm h ht hd hf hc

theorem indDataApply_refuses {as : List Nat} (hr : rest.head?.all isWrite = true)
    (hp : secondDenied (winOwner k (headGone k ag rest s)) (winDomain s k) (winWaddr s k) (headGone k ag rest s) = true)
    (has : ∀ a ∈ [Reg.HOST_INT_STATUS, Reg.IND_DATA k, Reg.IND_ADDR k], a ∈ as) (he : winDomain s k = 0 → Reg.HOST_ERR_ADDR ∈ as) :
    Answers (.indDataApply k) s (RefusedThrough k as rest s) := by
  obtain ⟨u, hu, hcase⟩ := dataApply_refuses (d := d) (s := headGone k ag rest s) hd hf hp
  have h0 : Only [.hst] as s ((headGone k ag rest s).setReg (Reg.IND_DATA k) d) :=
    ((Only.refl _ _ s).updWin _ _).setReg _ _ (has _ (by simp))
  have hi : Reg.HOST_INT_STATUS ∈ as := has _ (by simp)
  have h1 : Only [.hst] as s u ∧ u.hst = (headGone k ag rest s).hst := by
    rcases hcase with rfl | ⟨hz, rfl⟩
    · exact ⟨h0, rfl⟩
    · exact ⟨unmapped_only _ _ _ h0 hi (he hz), unmapped_hst _ _ _⟩
  have hwin : (winAdvance k (u.raise F.HOST_INT_STATUS_PF1_DENIED)).win k =
      { s.win k with fifo := rest, core := (hearthCore ag).getD (s.win k).core } := (State.win_of_hst _ h1.2).trans (headGone_win)
  refine ⟨_, execIndDataApply_head hm h ht hc, ?_⟩
  rw [hu, winServe_idle (.inr (by rw [hwin]; exact hr))]
  unfold RefusedThrough
  rw [settleIrq_noCompletions_win, hwin, settleIrq_flag]
  refine ⟨?_, ht, rfl, ?_⟩
  · exact (State.flag_setFld _ _ _ _ ⟨by simp [F.IND_ADDR_WADDR], .inl (hostInt_ne_indAddr k)⟩).trans (State.flag_raise_same _ _ (by decide) rfl)
  · exact ((h1.1.raise _ hi).setFld _ _ (has _ (by simp [F.IND_ADDR_WADDR]))).noCompletions.settleIrq

theorem indDataApply_passes
    (hp : secondDenied (winOwner k (headGone k ag rest s)) (winDomain s k) (winWaddr s k) (headGone k ag rest s) = false) :
    Answers (.indDataApply k) s fun t => (t.win k).taking = true ∧ (t.win k).fifo = rest ∧ Only [.hst] [Reg.IND_DATA k] s t := by
  have hu : dataApply k d (headGone k ag rest s) = _ := dataApply_passes (s := headGone k ag rest s) hd hf hp
  have hwin : ((dataApply k d (headGone k ag rest s)).win k).taking = true ∧ ((dataApply k d (headGone k ag rest s)).win k).fifo = rest := by
    rw [hu, State.win_updWin_same, State.win_of_hst _ (State.setReg_hst ..), headGone_win]
    exact ⟨rfl, rfl⟩
  refine ⟨_, execIndDataApply_head hm h ht hc, ?_⟩
  rw [winServe_idle (.inl hwin.1)]
  dsimp only
  rw [settleIrq_noCompletions_win]
  refine ⟨hwin.1, hwin.2, ?_⟩
  rw [hu]
  exact ((((Only.refl _ _ s).updWin _ _).setReg _ _ List.mem_cons_self).updWin _ _).noCompletions.settleIrq

end

/-- Only window 1 acts for PF1. -/
theorem secondDenied_of_other {k : Fin 4} (hk : k ≠ 1) (u s : State) (dom w : Nat) : secondDenied (winOwner k u) dom w s = false := by
  have ho : winOwner k u ≠ .pf1 := by
    match k with
    | 0 => simp [winOwner]
    | 1 => exact absurd rfl hk
    | 2 => simp [winOwner]
    | 3 => simp [winOwner]
  unfold secondDenied
  split
  · unfold pf1Denied
    split
    · next h => exact absurd h ho
    · rfl
  · simp [ho]

/-- A word of a further domain is guarded by the bit of its block. -/
theorem secondDenied_closed {dom w : Nat} {s : State} (hdom : dom ≠ 0) (h : s.rbit Reg.HOST_PF1_WRITE_EN (wordBlock dom w - 1) = false) :
    secondDenied .pf1 dom w s = true := by
  simp [secondDenied, hdom, h]

theorem secondDenied_open {ag : Agent} {dom w : Nat} {s : State} (hdom : dom ≠ 0)
    (h : s.rbit Reg.HOST_PF1_WRITE_EN (wordBlock dom w - 1) = true) : secondDenied ag dom w s = false := by
  simp [secondDenied, hdom, h]

/-! ### Writes of window 1's registers -/

theorem place_of_window1 (r : WinReg) :
    ∃ j : Fin 4, placeOf (winRegAddr 1 r) = .win 1 j ∧ winRegOf j = some r ∧ noRegister (winRegAddr 1 r) = false ∧
      blockOfPage (directAddr (winRegAddr 1 r) / 1024) = some 2 ∧ directAddr (winRegAddr 1 r) ≠ Reg.HOST_PF1_WRITE_EN := by
  cases r with
  | addr => exact ⟨0, rfl, rfl, by decide +kernel⟩
  | data => exact ⟨1, rfl, rfl, by decide +kernel⟩
  | ctrl => exact ⟨2, rfl, rfl, by decide +kernel⟩

theorem indWrite_denied (s : State) (r : WinReg) (d : Word) (hm : s.pwr.mainUp = true) (hf : s.rbit Reg.HOST_PF1_WRITE_EN 1 = false) :
    Answers (.indWrite .pf1 1 r d) s fun t =>
      t.flag F.HOST_INT_STATUS_PF1_DENIED = true ∧ t.hst.win = s.hst.win ∧ Only [.hst] [Reg.HOST_INT_STATUS] s t := by
  obtain ⟨j, -, -, hn, hb, -⟩ := place_of_window1 r
  have hw : 4 * winRegAddr 1 r / 4 = winRegAddr 1 r := Nat.mul_div_cancel_left _ (by decide)
  refine answers_main (by rw [exec, execIndWrite]) hm fun t ht => ?_
  obtain ⟨hflag, honly, hwin, -⟩ := agentWrite_deniedAlone (off := 4 * winRegAddr 1 r) (s := s) d (hw.symm ▸ hn)
    (by rw [hw]; exact pf1Denied_of_closed hb hf)
  exact ht ▸ ⟨hflag, hwin, honly⟩

theorem indWrite_arrives (s : State) (r : WinReg) (d : Word) (hm : s.pwr.mainUp = true) (hf : s.rbit Reg.HOST_PF1_WRITE_EN 1 = true)
    (hl : fifoLevel (s.win 1) < 16) : Answers (.indWrite .pf1 1 r d) s fun t =>
      (t.win 1).fifo = (s.win 1).fifo ++ [.write .pf1 r d] ∧ Within [.hst] s t := by
  obtain ⟨j, hp, hj, -, hb, hen⟩ := place_of_window1 r
  refine answers_main (by rw [exec, execIndWrite]) hm fun t ht => ?_
  have hx : agentWrite .pf1 (4 * winRegAddr 1 r) 0xF d s = settleIrq (winArrive .pf1 1 r d s) := by
    simp [agentWrite, busWrite, hp, hj, pf1Denied_of_open hb hf hen, State.raiseIf, winOf]
  have ha : winArrive .pf1 1 r d s = s.updWin 1 fun w => { w with fifo := w.fifo ++ [.write .pf1 r d] } := if_neg (by omega)
  have ht' : agentWrite .pf1 (4 * winRegAddr 1 r) 0xF d s = t := ht
  rw [hx, ha] at ht'
  subst ht'
  refine ⟨?_, settleIrq_moves (State.updWin_moves (.refl _ s) _ _ (listed rfl)) (listed rfl) |>.within⟩
  rw [State.win, settleIrq_win]
  exact congrArg WinSt.fifo (State.win_updWin_same ..)

/-- Settles O7. -/
theorem pf1Writes : Obligations.Pf1Writes := by
  refine ⟨registerWrite_denied, aliasWrite_denied, writeEnWrite_denied, registerWrite_allowed, rcRead_pf1, ?_, ?_, ?_, ?_, indWrite_denied,
    indWrite_arrives⟩
  · intro s d rest hm h ht hr hd hf hc hdom hen
    refine indDataApply_refuses (k := 1) hm h ht hd hf hc hr ?_ (fun _ => id) fun h0 => absurd h0 hdom
    exact secondDenied_closed hdom hen
  · intro s d rest c hm h ht hr hd hf hc hdom hb hen
    refine indDataApply_refuses (k := 1) hm h ht hd hf hc hr ?_ (by simp) fun _ => by simp
    exact (if_pos hdom).trans (pf1Denied_of_closed hb hen)
  · intro s d rest hm h ht hd hf hc hdom hen
    exact indDataApply_passes (k := 1) hm h ht hd hf hc (secondDenied_open hdom hen)
  · intro s k ag d rest hk hm h ht hd hf hc
    exact indDataApply_passes hm h ht hd hf hc (secondDenied_of_other hk _ _ _ _)

end Sys2Proof.Machine
end

section
/-!
SUPPORT. The mailboxes (R98 to R107): where a queue's registers stand, and what each access of a sender or a receiver does to the queue.
O9 follows.
-/
namespace Sys2Proof.Machine
set_option Elab.async false

/-! ### Queues -/

section
variable {ps : List Part} {as : List Nat} {s t : State}

theorem Only.updMbox (h : Only ps as s t) (q : Nat) (f : MboxSt → MboxSt) (m : ps.contains .hst = true := by rfl) :
    Only ps as s (t.updMbox q f) :=
  h.trans ((Only.of_parts (State.updMbox_moves (cs := [.hst]) (.refl _ t) q f (listed rfl)) (by decide)).mono (by simpa using listed m)
    fun _ => id)

end

section
variable (s : State)

theorem State.mbox_updMbox_same (q : Nat) (f : MboxSt → MboxSt) : (s.updMbox q f).mbox q = f (s.mbox q) := smapGet_set_same ..

theorem State.mbox_updMbox_ne {q j : Nat} (f : MboxSt → MboxSt) (h : j ≠ q) : (s.updMbox q f).mbox j = s.mbox j := smapGet_set_ne _ _ _ _ _ h

theorem State.mbox_of_eq {s t : State} (h : t.hst.mbox = s.hst.mbox) (q : Nat) : t.mbox q = s.mbox q := by rw [State.mbox, h, State.mbox]

theorem State.mbox_raise (f : Fld) (q : Nat) : (s.raise f).mbox q = s.mbox q := rfl

@[simp] theorem settleIrq_mboxOf (q : Nat) : (settleIrq s).mbox q = s.mbox q := by rw [State.mbox, settleIrq_mbox, State.mbox]

@[simp] theorem completed_mboxOf (ag : Agent) (v : Word) (q : Nat) : (completed ag v s).mbox q = s.mbox q := by
  rw [State.mbox, completed_mbox, State.mbox]

end

/-! ### Places of the registers -/

theorem placeOf_of_regDef {a i : Nat} {d : RegDef} (hw : a < 2 ^ 22) (hn : isWinReg a = false) (e : regDef? a = some (d, i)) :
    placeOf a = .reg a d i := by
  unfold placeOf
  rw [if_neg (by omega), directAddr_of_lt hw]
  dsimp only
  rw [if_pos hw, hn, e]
  rfl

theorem regDef_mboxQWr {n : Nat} (h : n < 16) : regDef? (Reg.MBOX_Q_WR n) = some (Rd.MBOX_Q_WR, n) := by interval_cases n <;> rfl
theorem regDef_mboxQCmd {n : Nat} (h : n < 16) : regDef? (Reg.MBOX_Q_CMD n) = some (Rd.MBOX_Q_CMD, n) := by interval_cases n <;> rfl
theorem regDef_mboxQRd {n : Nat} (h : n < 16) : regDef? (Reg.MBOX_Q_RD n) = some (Rd.MBOX_Q_RD, n) := by interval_cases n <;> rfl
theorem regDef_mboxIntStatus (n : Fin 4) : regDef? (Reg.MBOX_INT_STATUS n) = some (Rd.MBOX_INT_STATUS, n.val) := by fin_cases n <;> rfl

/-- A register of the mailbox pages. -/
theorem placeOf_mboxPages {a i : Nat} {d : RegDef} (hl : 0x1000 ≤ a) (hu : a < 0x2000) (e : regDef? a = some (d, i)) :
    placeOf (4 * a / 4) = .reg a d i := by
  rw [Nat.mul_div_cancel_left _ (by decide)]
  exact placeOf_of_regDef (by omega) (by simp [isWinReg]; omega) e

/-- Outside the loop's pages and the PHY clock a counter is what its row says. -/
theorem ctrOf_mboxPages {a : Nat} {d : RegDef} (hu : a < 0x2000) (hl : d.live ≠ .pclk) : ctrOf a d = d.ctr := by
  unfold ctrOf
  rw [if_neg hl, if_neg, if_neg]
  all_goals
    intro h
    have := List.mem_of_elem_eq_true h
    simp [Reg.LOOP_FREQ_LO, Reg.LOOP_HO_FREQ_LO, Reg.LOOP_BT_LO, Reg.LOOP_FREQ_HI, Reg.LOOP_HO_FREQ_HI, Reg.LOOP_BT_HI, Reg.LOOP_BT_SUB] at this
    omega

section
variable {n : Nat} (h : n < 16)
include h

theorem mboxQWr_range : 0x1000 ≤ Reg.MBOX_Q_WR n ∧ Reg.MBOX_Q_WR n < 0x2000 := by
  unfold Reg.MBOX_Q_WR
  omega

theorem mboxQCmd_range : 0x1000 ≤ Reg.MBOX_Q_CMD n ∧ Reg.MBOX_Q_CMD n < 0x2000 := by
  unfold Reg.MBOX_Q_CMD
  omega

theorem mboxQRd_range : 0x1000 ≤ Reg.MBOX_Q_RD n ∧ Reg.MBOX_Q_RD n < 0x2000 := by
  unfold Reg.MBOX_Q_RD
  omega

end

/-! ### Accesses to the registers -/

/-- The state after a register that stores nothing has been written: its word is stored as it was. -/
def restored (a : Nat) (s : State) : State := s.setReg a (s.reg a)

theorem restored_only (a : Nat) (s : State) : Only [] [] s (restored a s) :=
  ⟨(State.setReg_moves (.refl [.regs] s) _ _ (listed rfl)).within, (RegsKeep.refl _ s).setReg_self a⟩

theorem restored_maySend (a : Nat) (s : State) (ag : Agent) (q : Nat) : maySend (restored a s) ag q = maySend s ag q := by
  rw [maySend, State.rbit, restored, State.reg_setReg]
  split
  · next h => rw [← h]; rfl
  · rfl

/-- A register without stored bits stays as it is. -/
theorem regStored_command {a : Nat} {d : RegDef} (x : Word) (s : State) (hn : d.norm = .none) (hrw : d.rw = 0) (hrwl : d.rwl = 0)
    (hwo : d.wo = 0) : regStored a d allBits x s = restored a s := by
  rw [regStored_plain s a d allBits x hn hrwl hwo, hrw]
  exact congrArg (s.setReg a) (merge_zero _ _)

/-- A write of a mailbox register that stores nothing is its command. -/
theorem agentWrite_mbox {ag : Agent} {a i : Nat} {d : RegDef} {s : State} (x : Word) (hl : 0x1000 ≤ a) (hu : a < 0x2000)
    (e : regDef? a = some (d, i)) (hf : pf1Denied ag a s = false) (hF : a ≠ Reg.HRTH_FW_STATUS) (hc : d.ctr = .none) (hn : d.norm = .none)
    (hrw : d.rw = 0) (hrwl : d.rwl = 0) (hwo : d.wo = 0) :
    agentWrite ag (4 * a) 0xF x s = settleIrq (runAct d.act ag i a (s.reg a) x (restored a s)) := by
  have hp := placeOf_mboxPages hl hu e
  have hd : directAddr (4 * a / 4) = a := by rw [Nat.mul_div_cancel_left _ (by decide), directAddr_of_lt (by omega)]
  rw [agentWrite_of_reg x hp (by rwa [hd]), storeReg_of_plain _ _ _ _ _ _ hF hc, regStore_eq, merge_allBits,
    regStored_command x s hn hrw hrwl hwo]

theorem runAct_mboxWr (ag : Agent) (i a : Nat) (old x : Word) (s : State) : runAct Rd.MBOX_Q_WR.act ag i a old x s = mboxWr ag i x s := rfl
theorem runAct_mboxCmd (ag : Agent) (i a : Nat) (old x : Word) (s : State) : runAct Rd.MBOX_Q_CMD.act ag i a old x s = mboxCmd ag i x s := rfl

section
variable {ag : Agent} {n : Nat} {s : State} (hq : n < 16) (x : Word)
include hq

theorem agentWrite_mboxQWr (hf : pf1Denied ag (Reg.MBOX_Q_WR n) s = false) :
    agentWrite ag (4 * Reg.MBOX_Q_WR n) 0xF x s = settleIrq (mboxWr ag n x (restored (Reg.MBOX_Q_WR n) s)) := by
  obtain ⟨hl, hu⟩ := mboxQWr_range hq
  have hF : Reg.MBOX_Q_WR n ≠ Reg.HRTH_FW_STATUS := fun h => by rw [h] at hu; exact absurd hu (by decide)
  rw [agentWrite_mbox x hl hu (regDef_mboxQWr hq) hf hF rfl rfl rfl rfl rfl, runAct_mboxWr]

theorem agentWrite_mboxQCmd (hf : pf1Denied ag (Reg.MBOX_Q_CMD n) s = false) :
    agentWrite ag (4 * Reg.MBOX_Q_CMD n) 0xF x s = settleIrq (mboxCmd ag n x (restored (Reg.MBOX_Q_CMD n) s)) := by
  obtain ⟨hl, hu⟩ := mboxQCmd_range hq
  have hF : Reg.MBOX_Q_CMD n ≠ Reg.HRTH_FW_STATUS := fun h => by rw [h] at hu; exact absurd hu (by decide)
  rw [agentWrite_mbox x hl hu (regDef_mboxQCmd hq) hf hF rfl rfl rfl rfl rfl, runAct_mboxCmd]

end

theorem regValue_mboxRd {ag : Agent} {ca a i : Nat} {d : RegDef} {s : State} (hl : d.live = .mboxRd) (hr : mayReceive ag i = true) :
    regValue ag ca a d i s = mboxHead s i := by
  simp [regValue, hl, hr, liveWord]

theorem readEffects_mboxRd {ag : Agent} {ca w a i : Nat} {d : RegDef} {v : Word} {s : State} (hl : d.live = .mboxRd) :
    readEffects ag ca w (.reg a d i) v 0 s = mboxTake ag i s := by
  simp [readEffects, hl]

/-- A receiver's read of a queue returns its head, and takes it. -/
theorem agentRead_mboxQRd {ag : Agent} {n : Nat} {s : State} (hq : n < 16) (hr : mayReceive ag n = true) :
    agentRead ag (4 * Reg.MBOX_Q_RD n) 0xF s = settleIrq (completed ag (mboxHead s n) (mboxTake ag n s)) := by
  obtain ⟨hl, hu⟩ := mboxQRd_range hq
  have hc : ctrOf (Reg.MBOX_Q_RD n) Rd.MBOX_Q_RD ≠ .lo := by
    rw [ctrOf_mboxPages hu (by decide)]
    decide
  rw [agentRead_of_reg (by decide) (placeOf_mboxPages hl hu (regDef_mboxQRd hq)), latchHi_of_ne hc, regValue_mboxRd rfl hr,
    readEffects_mboxRd rfl]

/-! ### A sender's access -/

section
variable {s : State} {ag : Agent} {q : Nat}

theorem claimedByOther_of_own (h : (s.mbox q).owner = none ∨ (s.mbox q).owner = some (senderId ag)) : claimedByOther s ag q = false := by
  rcases h with h | h <;> simp [claimedByOther, h]

theorem mboxRefusals_of_none (hs : maySend s ag q = true) (hc : claimedByOther s ag q = false) : mboxRefusals ag q s = s := by
  simp [mboxRefusals, hs, hc]

/-- A word that no test refuses is queued. -/
theorem mboxWr_queues (d : Word) (hs : maySend s ag q = true) (hc : claimedByOther s ag q = false) (hp : (s.mbox q).posted = false)
    (hl : (s.mbox q).words.length < 16) : mboxWr ag q d s = s.updMbox q fun m =>
      { m with words := m.words ++ [if (s.mbox q).words = [] then putBits d 24 8 (senderId ag) else d], owner := some (senderId ag) } := by
  simp [mboxWr, mboxRefusals_of_none hs hc, hp, hs, hc, Nat.not_le.2 hl]

/-- The refusals change causes alone. -/
theorem mboxRefusals_only : Only [] [Reg.MBOX_INT_STATUS (q / 4)] s (mboxRefusals ag q s) ∧ (mboxRefusals ag q s).hst = s.hst := by
  have h1 : Only [] [Reg.MBOX_INT_STATUS (q / 4)] s (mboxDenied q s) := (Only.refl _ _ s).raise _ List.mem_cons_self
  unfold mboxRefusals
  split <;> split
  · exact ⟨(Only.refl _ _ s).raise _ List.mem_cons_self, rfl⟩
  · exact ⟨.refl _ _ s, rfl⟩
  · exact ⟨h1.raise _ List.mem_cons_self, rfl⟩
  · exact ⟨h1, rfl⟩

/-- A sender without its mask bit is denied, and meets another's claim all the same. -/
theorem mboxRefusals_denied (hs : maySend s ag q = false) :
    (mboxRefusals ag q s).flag (F.MBOX_INT_STATUS_SENDER_DENIED (q / 4)) = true ∧
      (claimedByOther s ag q = true → (mboxRefusals ag q s).flag (F.MBOX_INT_STATUS_CLAIM_CONFLICT (q / 4)) = true) := by
  have h1 : (mboxDenied q s).flag (F.MBOX_INT_STATUS_SENDER_DENIED (q / 4)) = true := State.flag_raise_same _ _ (show 8 + 1 ≤ 32 by decide) rfl
  have h2 (t : State) : (mboxConflict q t).flag (F.MBOX_INT_STATUS_CLAIM_CONFLICT (q / 4)) = true :=
    State.flag_raise_same _ _ (show 9 + 1 ≤ 32 by decide) rfl
  unfold mboxRefusals
  rw [hs, if_neg Bool.false_ne_true]
  split
  · exact ⟨State.flag_raise_mono rfl (show 9 < 32 by decide) rfl h1, fun _ => h2 _⟩
  · next hc => exact ⟨h1, fun h => absurd h hc⟩

/-- What a denied word leaves: the refusals, and beside them only the cause of a write while posted. -/
theorem mboxWr_denied (d : Word) (hs : maySend s ag q = false) :
    mboxWr ag q d s = (mboxRefusals ag q s).raiseIf (s.mbox q).posted (F.MBOX_INT_STATUS_WRITE_WHILE_POSTED (q / 4)) := by
  simp [mboxWr, hs, State.raiseIf]

end

/-! ### Commands -/

/-- A queue that its receiver has emptied. -/
def emptied (m : MboxSt) : MboxSt := { m with words := [], posted := false, owner := none, emptying := m.emptying + 1 }

/-- A queue whose message is shown. -/
def shown (m : MboxSt) : MboxSt := { m with posted := true, seq := m.seq + 1, arriving := m.arriving + 1 }

section
variable {s : State} {ag : Agent} {q : Nat} (x : Word)

theorem bit_or_ofNat (y : Word) (i : Nat) : bit (x ||| y) i = (bit x i || bit y i) := by
  rw [bit, BitVec.toNat_or, Nat.testBit_or]
  rfl

theorem bit_of_and_eq_zero {m : Word} {i : Nat} (h : x &&& m = 0) (hm : bit m i = true) : bit x i = false := by
  have hx : bit (x &&& m) i = (bit x i && bit m i) := by
    rw [bit, BitVec.toNat_and, Nat.testBit_and]
    rfl
  rw [h, hm, Bool.and_true] at hx
  rw [← hx]
  exact Nat.zero_testBit i

/-- POST comes first. -/
theorem mboxCmd_post (hs : maySend s ag q = true) : mboxCmd ag q (x ||| 1) s = mboxPost ag q s :=
  if_pos ⟨by rw [bit_or_ofNat, show bit 1 0 = true from rfl, Bool.or_true], hs⟩

theorem mboxCmd_discard (hx : x &&& 1 = 0) (hr : mayReceive ag q = true) : mboxCmd ag q (x ||| 2) s = mboxDiscard q s := by
  have h0 : bit (x ||| 2) 0 = false := by rw [bit_or_ofNat, bit_of_and_eq_zero x hx rfl]; rfl
  have h1 : bit (x ||| 2) 1 = true := by rw [bit_or_ofNat, show bit 2 1 = true from rfl, Bool.or_true]
  exact (if_neg fun h => Bool.false_ne_true (h0.symm.trans h.1)).trans (if_pos ⟨h1, hr⟩)

theorem mboxCmd_abort (hx : x &&& 3 = 0) (hs : maySend s ag q = true) : mboxCmd ag q (x ||| 4) s = mboxAbort ag q s := by
  have h0 : bit (x ||| 4) 0 = false := by rw [bit_or_ofNat, bit_of_and_eq_zero x hx rfl]; rfl
  have h1 : bit (x ||| 4) 1 = false := by rw [bit_or_ofNat, bit_of_and_eq_zero x hx rfl]; rfl
  have h2 : bit (x ||| 4) 2 = true := by rw [bit_or_ofNat, show bit 4 2 = true from rfl, Bool.or_true]
  exact (if_neg fun h => Bool.false_ne_true (h0.symm.trans h.1)).trans
    ((if_neg fun h => Bool.false_ne_true (h1.symm.trans h.1)).trans (if_pos ⟨h2, hs⟩))

/-- A message with words is shown and numbered. -/
theorem mboxPost_shows (hc : claimedByOther s ag q = false) (hp : (s.mbox q).posted = false) (hw : (s.mbox q).words ≠ []) :
    ∃ ps, mboxPost ag q s = { s.updMbox q shown with hst := { (s.updMbox q shown).hst with posts := ps } } :=
  ⟨_, (if_neg (by simp [hc])).trans (if_neg (by simp [hp, hw]))⟩

theorem mboxAbort_drops (hc : claimedByOther s ag q = false) (hp : (s.mbox q).posted = false) :
    mboxAbort ag q s = s.updMbox q fun m => { m with words := [], owner := none } := by
  simp [mboxAbort, hc, hp]

end

/-! ### The commands of a channel -/

theorem mboxNo_lt (c : Fin 8) (q : Fin 2) : mboxNo c q < 16 := by
  unfold mboxNo
  omega

theorem mboxNo_page (c : Fin 8) (q : Fin 2) : mboxNo c q / 4 = c.val / 2 := by
  unfold mboxNo
  omega

theorem mboxNo_bit (c : Fin 8) (q : Fin 2) : 2 * (mboxNo c q % 4) = 4 * (c.val % 2) + 2 * q.val := by
  unfold mboxNo
  omega

/-- One queue has changed, as said. -/
def MboxBecomes (ps : List Part) (n : Nat) (m : MboxSt) (s t : State) : Prop :=
  t.mbox n = m ∧ (∀ j, j ≠ n → t.mbox j = s.mbox j) ∧ Only ps [] s t

theorem mboxBecomes_updMbox {s u : State} (n : Nat) (f : MboxSt → MboxSt) (h : Only [] [] s u) (hu : u.hst.mbox = s.hst.mbox) :
    MboxBecomes [.hst] n (f (s.mbox n)) s (u.updMbox n f) := by
  refine ⟨?_, fun j hj => ?_, (h.mono (by simp) fun _ => id).updMbox n f⟩
  · rw [State.mbox_updMbox_same, State.mbox_of_eq hu]
  · rw [State.mbox_updMbox_ne _ _ hj, State.mbox_of_eq hu]

theorem MboxBecomes.settleIrq {n : Nat} {m : MboxSt} {s t : State} (h : MboxBecomes [.hst] n m s t) :
    MboxBecomes [.hst] n m s (settleIrq t) := by
  obtain ⟨hn, hj, hk⟩ := h
  exact ⟨(settleIrq_mboxOf ..).trans hn, fun j hne => (settleIrq_mboxOf ..).trans (hj j hne), hk.settleIrq⟩

section
variable (s : State) (ag : Agent) (c : Fin 8) (q : Fin 2)

theorem mboxQWr_queues (d : Word) (hm : s.pwr.mainUp = true) (hf : pf1Denied ag (Reg.MBOX_Q_WR (mboxNo c q)) s = false)
    (hs : maySend s ag (mboxNo c q) = true) (hp : (s.mbox (mboxNo c q)).posted = false) (hl : (s.mbox (mboxNo c q)).words.length < 16)
    (ho : (s.mbox (mboxNo c q)).owner = none ∨ (s.mbox (mboxNo c q)).owner = some (senderId ag)) :
    Answers (.mboxQWr ag c q d) s fun t =>
      (t.mbox (mboxNo c q)).words = (s.mbox (mboxNo c q)).words ++
        [if (s.mbox (mboxNo c q)).words = [] then putBits d 24 8 (senderId ag) else d] ∧
      (t.mbox (mboxNo c q)).owner = some (senderId ag) ∧ (t.mbox (mboxNo c q)).posted = false ∧
      (∀ j, j ≠ mboxNo c q → t.mbox j = s.mbox j) ∧ Only [.hst] [] s t := by
  refine answers_main (by rw [exec, execMboxQWr]) hm fun t ht => ?_
  rw [agentWrite_mboxQWr (mboxNo_lt c q) d hf, mboxWr_queues d ((restored_maySend ..).trans hs) (claimedByOther_of_own ho) hp hl] at ht
  subst ht
  obtain ⟨h, hj, hk⟩ := (mboxBecomes_updMbox (mboxNo c q) _ (restored_only (Reg.MBOX_Q_WR (mboxNo c q)) s) rfl).settleIrq
  exact ⟨congrArg MboxSt.words h, congrArg MboxSt.owner h, (congrArg MboxSt.posted h).trans hp, hj, hk⟩

theorem mboxQWr_denies (d : Word) (hm : s.pwr.mainUp = true) (hf : pf1Denied ag (Reg.MBOX_Q_WR (mboxNo c q)) s = false)
    (hs : maySend s ag (mboxNo c q) = false) : Answers (.mboxQWr ag c q d) s fun t =>
      t.flag (F.MBOX_INT_STATUS_SENDER_DENIED (c.val / 2)) = true ∧
      (claimedByOther s ag (mboxNo c q) = true → t.flag (F.MBOX_INT_STATUS_CLAIM_CONFLICT (c.val / 2)) = true) ∧
      (∀ j, t.mbox j = s.mbox j) ∧ Only [.hst] [Reg.MBOX_INT_STATUS (c.val / 2)] s t := by
  refine answers_main (by rw [exec, execMboxQWr]) hm fun t ht => ?_
  have hs' : maySend (restored (Reg.MBOX_Q_WR (mboxNo c q)) s) ag (mboxNo c q) = false := (restored_maySend ..).trans hs
  rw [agentWrite_mboxQWr (mboxNo_lt c q) d hf, mboxWr_denied d hs'] at ht
  subst ht
  obtain ⟨hden, hcon⟩ := mboxRefusals_denied hs'
  obtain ⟨honly, hhst⟩ := mboxRefusals_only (s := restored (Reg.MBOX_Q_WR (mboxNo c q)) s) (ag := ag) (q := mboxNo c q)
  rw [mboxNo_page] at *
  refine ⟨?_, fun hc => ?_, fun j => ?_, ?_⟩
  · rw [settleIrq_flag, State.flag_raiseIf _ _ _ _ ⟨show 11 + 1 ≤ 32 by decide, .inr (.inr (show 8 + 1 ≤ 11 by decide))⟩, hden]
  · rw [settleIrq_flag, State.flag_raiseIf _ _ _ _ ⟨show 11 + 1 ≤ 32 by decide, .inr (.inr (show 9 + 1 ≤ 11 by decide))⟩]
    exact hcon hc
  · rw [settleIrq_mboxOf, State.mbox_of_eq (s := s) (by rw [State.raiseIf_hst, hhst]; rfl)]
  · refine Only.settleIrq (Only.raiseIf ?_ _ _ fun _ => List.mem_cons_self)
    exact ((restored_only _ s).mono (by simp) (by simp)).trans (honly.mono (by simp) fun _ => id)

/-- A command of a queue whose writer may give it. -/
theorem agentWrite_command {n : Nat} {x : Word} {f : MboxSt → MboxSt} (hq : n < 16) (hf : pf1Denied ag (Reg.MBOX_Q_CMD n) s = false)
    (h : mboxCmd ag n x (restored (Reg.MBOX_Q_CMD n) s) = (restored (Reg.MBOX_Q_CMD n) s).updMbox n f) :
    MboxBecomes [.hst] n (f (s.mbox n)) s (agentWrite ag (4 * Reg.MBOX_Q_CMD n) 0xF x s) := by
  rw [agentWrite_mboxQCmd hq x hf, h]
  exact (mboxBecomes_updMbox n f (restored_only _ s) rfl).settleIrq

theorem post_shows (x : Word) (hm : s.pwr.mainUp = true) (hf : pf1Denied ag (Reg.MBOX_Q_CMD (mboxNo c q)) s = false)
    (hs : maySend s ag (mboxNo c q) = true) (hp : (s.mbox (mboxNo c q)).posted = false) (hw : (s.mbox (mboxNo c q)).words ≠ [])
    (ho : (s.mbox (mboxNo c q)).owner = some (senderId ag)) :
    Answers (.post ag c q x) s (MboxBecomes [.hst] (mboxNo c q) (shown (s.mbox (mboxNo c q))) s) := by
  refine answers_main (by rw [exec, execPost]) hm fun t ht => ?_
  obtain ⟨ps, hps⟩ := mboxPost_shows (s := restored (Reg.MBOX_Q_CMD (mboxNo c q)) s) (ag := ag) (q := mboxNo c q)
    (claimedByOther_of_own (.inr ho)) hp hw
  rw [agentWrite_mboxQCmd (mboxNo_lt c q) _ hf, mboxCmd_post x ((restored_maySend ..).trans hs), hps] at ht
  subst ht
  refine MboxBecomes.settleIrq ?_
  obtain ⟨hn, hj, hk⟩ := mboxBecomes_updMbox (mboxNo c q) shown (restored_only (Reg.MBOX_Q_CMD (mboxNo c q)) s) rfl
  exact ⟨hn, hj, hk.trans (.of_parts (hst_moves (.refl _ _) _ (listed rfl)) (by decide))⟩

theorem abort_drops (x : Word) (hm : s.pwr.mainUp = true) (hf : pf1Denied ag (Reg.MBOX_Q_CMD (mboxNo c q)) s = false) (hx : x &&& 3 = 0)
    (hs : maySend s ag (mboxNo c q) = true) (hp : (s.mbox (mboxNo c q)).posted = false)
    (ho : (s.mbox (mboxNo c q)).owner = some (senderId ag)) :
    Answers (.abort ag c q x) s (MboxBecomes [.hst] (mboxNo c q) { s.mbox (mboxNo c q) with words := [], owner := none } s) := by
  refine answers_main (by rw [exec, execAbort]) hm fun t ht => ht ▸ ?_
  refine agentWrite_command s ag (f := fun m => { m with words := [], owner := none }) (mboxNo_lt c q) hf ?_
  rw [mboxCmd_abort x hx ((restored_maySend ..).trans hs)]
  exact mboxAbort_drops (claimedByOther_of_own (.inr ho)) hp

theorem discard_frees (x : Word) (hm : s.pwr.mainUp = true) (hf : pf1Denied ag (Reg.MBOX_Q_CMD (mboxNo c q)) s = false) (hx : x &&& 1 = 0)
    (hr : mayReceive ag (mboxNo c q) = true) (hp : (s.mbox (mboxNo c q)).posted = true) :
    Answers (.discard ag c q x) s (MboxBecomes [.hst] (mboxNo c q) (emptied (s.mbox (mboxNo c q))) s) := by
  refine answers_main (by rw [exec, execDiscard]) hm fun t ht => ht ▸ ?_
  refine agentWrite_command s ag (f := emptied) (mboxNo_lt c q) hf ?_
  rw [mboxCmd_discard x hx hr]
  exact if_pos hp

/-- A receiver's read that leaves the queue as said. -/
theorem agentRead_takes {n : Nat} {w : Word} {f : MboxSt → MboxSt} (hq : n < 16) (hr : mayReceive ag n = true)
    (hw : mboxHead s n = w) (h : mboxTake ag n s = s.updMbox n f) :
    (agentRead ag (4 * Reg.MBOX_Q_RD n) 0xF s).hst.completions = [(ag, w)] ∧
      MboxBecomes [.hst, .tap] n (f (s.mbox n)) s (agentRead ag (4 * Reg.MBOX_Q_RD n) 0xF s) := by
  rw [agentRead_mboxQRd hq hr, hw, h, settleIrq_completions, completed_completions]
  obtain ⟨hn, hj, hk⟩ := mboxBecomes_updMbox n f (Only.refl [] [] s) rfl
  refine ⟨rfl, ?_, fun j hne => ?_, ?_⟩
  · rw [settleIrq_mboxOf, completed_mboxOf, hn]
  · rw [settleIrq_mboxOf, completed_mboxOf, hj j hne]
  · exact ((hk.mono (by simp) fun _ => id).completed ag w).settleIrq

theorem mboxQRd_next (w v : Word) (ws : List Word) (hm : s.pwr.mainUp = true) (hr : mayReceive ag (mboxNo c q) = true)
    (hp : (s.mbox (mboxNo c q)).posted = true) (hw : (s.mbox (mboxNo c q)).words = w :: v :: ws) :
    Answers (.mboxQRd ag c q) s fun t => t.hst.completions = [(ag, w)] ∧
      MboxBecomes [.hst, .tap] (mboxNo c q) { s.mbox (mboxNo c q) with words := v :: ws } s t := by
  refine answers_main (by rw [exec, execMboxQRd]) hm fun t ht => ht ▸ ?_
  have hd : v :: ws = (s.mbox (mboxNo c q)).words.drop 1 := by rw [hw]; rfl
  rw [hd]
  refine agentRead_takes s ag (f := fun m => { m with words := m.words.drop 1 }) (mboxNo_lt c q) hr ?_ ?_
  · simp [mboxHead, hp, hw]
  · simp [mboxTake, hr, hp, hw]

theorem mboxQRd_last (w : Word) (hm : s.pwr.mainUp = true) (hr : mayReceive ag (mboxNo c q) = true)
    (hp : (s.mbox (mboxNo c q)).posted = true) (hw : (s.mbox (mboxNo c q)).words = [w]) :
    Answers (.mboxQRd ag c q) s fun t => t.hst.completions = [(ag, w)] ∧
      MboxBecomes [.hst, .tap] (mboxNo c q) (emptied (s.mbox (mboxNo c q))) s t := by
  refine answers_main (by rw [exec, execMboxQRd]) hm fun t ht => ht ▸ ?_
  refine agentRead_takes s ag (f := emptied) (mboxNo_lt c q) hr ?_ ?_
  · simp [mboxHead, hp, hw]
  · have he : mboxTake ag (mboxNo c q) s = mboxEmpty (mboxNo c q) s := by simp [mboxTake, hr, hp, hw]
    exact he

theorem mboxArrived_shows (hm : s.pwr.mainUp = true) (ha : (s.mbox (mboxNo c q)).arriving ≠ 0) :
    Answers (.mboxArrived c q) s fun t =>
      t.flag ⟨Reg.MBOX_INT_STATUS (c.val / 2), 4 * (c.val % 2) + 2 * q.val, 1⟩ = true ∧
      t.mbox (mboxNo c q) = { s.mbox (mboxNo c q) with arriving := (s.mbox (mboxNo c q)).arriving - 1 } ∧
      Only [.hst] [Reg.MBOX_INT_STATUS (c.val / 2)] s t := by
  refine answers_main (by rw [exec, execMboxArrived]) hm fun t ht => ?_
  have hfld : mboxArrived (mboxNo c q) = ⟨Reg.MBOX_INT_STATUS (c.val / 2), 4 * (c.val % 2) + 2 * q.val, 1⟩ := by
    rw [mboxArrived, mboxNo_page, mboxNo_bit]
  have hx : mboxArrive (mboxNo c q) s = t := ht
  rw [mboxArrive, if_neg ha, hfld] at hx
  subst hx
  have hlo : 4 * (c.val % 2) + 2 * q.val + 1 ≤ 32 := by omega
  exact ⟨State.flag_raise_same _ _ hlo rfl, (State.mbox_raise ..).trans (State.mbox_updMbox_same ..), ((Only.refl _ _ s).updMbox _ _).raise _ List.mem_cons_self⟩

theorem mboxEmptied_shows (hm : s.pwr.mainUp = true) (ha : (s.mbox (mboxNo c q)).emptying ≠ 0) :
    Answers (.mboxEmptied c q) s fun t =>
      t.flag ⟨Reg.MBOX_INT_STATUS (c.val / 2), 4 * (c.val % 2) + 2 * q.val + 1, 1⟩ = true ∧
      t.mbox (mboxNo c q) = { s.mbox (mboxNo c q) with emptying := (s.mbox (mboxNo c q)).emptying - 1 } ∧
      Only [.hst] [Reg.MBOX_INT_STATUS (c.val / 2)] s t := by
  refine answers_main (by rw [exec, execMboxEmptied]) hm fun t ht => ?_
  have hfld : mboxEmptied (mboxNo c q) = ⟨Reg.MBOX_INT_STATUS (c.val / 2), 4 * (c.val % 2) + 2 * q.val + 1, 1⟩ := by
    rw [mboxEmptied, mboxNo_page, mboxNo_bit]
  have hx : mboxEmptyShown (mboxNo c q) s = t := ht
  rw [mboxEmptyShown, if_neg ha, hfld] at hx
  subst hx
  have hlo : 4 * (c.val % 2) + 2 * q.val + 1 + 1 ≤ 32 := by omega
  exact ⟨State.flag_raise_same _ _ hlo rfl, (State.mbox_raise ..).trans (State.mbox_updMbox_same ..), ((Only.refl _ _ s).updMbox _ _).raise _ List.mem_cons_self⟩

/-- The causes that a reader's side clears are those of the page. -/
theorem rcBits_mboxIntStatus (n : Fin 4) : rcBits ag (Reg.MBOX_INT_STATUS n) Rd.MBOX_INT_STATUS = mboxSide ag := by
  have hb : blockOfPage (Reg.MBOX_INT_STATUS n / 1024) = some 4 := by fin_cases n <;> rfl
  have h4 : Reg.MBOX_INT_STATUS n % 1024 = 4 := by unfold Reg.MBOX_INT_STATUS; omega
  rw [rcBits, if_pos ⟨h4, hb⟩, mboxSide]
  split <;> decide

theorem mboxIntStatusRead_clears (n : Fin 4) (hm : s.pwr.mainUp = true) : Answers (.mboxIntStatusRead ag n) s fun t =>
      t.hst.completions = [(ag, s.reg (Reg.MBOX_INT_STATUS n))] ∧
      t.reg (Reg.MBOX_INT_STATUS n) = s.reg (Reg.MBOX_INT_STATUS n) &&& ~~~(if (hearthCore ag).isSome then 0xF99 else 0xF66) ∧
      Only [.hst, .tap] [Reg.MBOX_INT_STATUS n] s t := by
  refine answers_main (by rw [exec, execMboxIntStatusRead]) hm fun t ht => ?_
  have hrange : 0x1000 ≤ Reg.MBOX_INT_STATUS n ∧ Reg.MBOX_INT_STATUS n < 0x2000 := by unfold Reg.MBOX_INT_STATUS; omega
  have hc : ctrOf (Reg.MBOX_INT_STATUS n) Rd.MBOX_INT_STATUS = .none := ctrOf_mboxPages hrange.2 (by decide)
  rw [agentRead_of_reg (by decide) (placeOf_mboxPages hrange.1 hrange.2 (regDef_mboxIntStatus n)), latchHi_of_ne (by simp [hc]),
    regValue_stored rfl (by simp [hc]), readEffects_stored rfl (.inl hc), rcBits_mboxIntStatus] at ht
  subst ht
  rw [settleIrq_completions, completed_completions, settleIrq_reg, completed_reg, State.reg_clearBits, and_not_and]
  exact ⟨rfl, rfl, (((Only.refl _ _ s).clearBits _ _ List.mem_cons_self).completed _ _).settleIrq⟩

end

/-- Settles O9. -/
theorem mailboxCommands : Obligations.MailboxCommands :=
  ⟨mboxQWr_queues, mboxQWr_denies, post_shows, abort_drops, discard_frees, mboxQRd_next, mboxQRd_last, mboxArrived_shows, mboxEmptied_shows,
    fun s ag n hm => mboxIntStatusRead_clears s ag n hm⟩

end Sys2Proof.Machine
end

section
/-!
SUPPORT. Writes of registers (R55 to R57, R66 to R74): plain registers and single bits of them, LOCK and INT_FORCE of a page, lockable and
write-once bits, and the writes that reach nothing.
-/
namespace Sys2Proof.Machine
set_option Elab.async false

/-! ### Bits of words -/

theorem word_ext {v w : Word} (h : ∀ i < 32, v.toNat.testBit i = w.toNat.testBit i) : v = w :=
  BitVec.eq_of_getLsbD_eq fun i hi => h i hi

theorem testBit_and (v w : Word) (i : Nat) : (v &&& w).toNat.testBit i = (v.toNat.testBit i && w.toNat.testBit i) := BitVec.getLsbD_and

theorem testBit_or (v w : Word) (i : Nat) : (v ||| w).toNat.testBit i = (v.toNat.testBit i || w.toNat.testBit i) := BitVec.getLsbD_or

theorem testBit_not (v : Word) {i : Nat} (h : i < 32) : (~~~v).toNat.testBit i = !v.toNat.testBit i := by
  have hx : (~~~v).getLsbD i = (decide (i < 32) && !v.getLsbD i) := BitVec.getLsbD_not
  rwa [decide_eq_true h, Bool.true_and] at hx

theorem testBit_bitMask (j : Nat) {i : Nat} (h : i < 32) : (bitMask j).toNat.testBit i = decide (j = i) := by
  rw [bitMask, BitVec.toNat_ofNat, Nat.testBit_mod_two_pow, decide_eq_true h, Bool.true_and, Nat.testBit_two_pow]

/-- One bit of a register's RW bits, written through its mask. -/
theorem merge_bitMask {rw : Word} {j : Nat} (old : Word) (x : Bool) (hj : j < 32) (hrw : rw.getLsbD j = true) :
    (old &&& ~~~rw) ||| (((old &&& ~~~bitMask j) ||| ((if x then bitMask j else 0) &&& bitMask j)) &&& rw) =
      putBits old j 1 (if x then 1 else 0) := by
  refine word_ext fun i hi => ?_
  have hset : (if x then bitMask j else 0).toNat.testBit i = (x && decide (j = i)) := by
    cases x
    · exact Nat.zero_testBit i
    · exact testBit_bitMask j hi
  simp only [testBit_or, testBit_and, testBit_not _ hi, testBit_bitMask j hi, hset, testBit_putBits _ _ _ _ _ (show j + 1 ≤ 32 by omega)]
  by_cases e : j = i
  · subst e
    have hr : rw.toNat.testBit j = true := hrw
    rw [if_pos ⟨by omega, by omega⟩, hr]
    cases x <;> simp
  · rw [if_neg (by omega)]
    cases old.toNat.testBit i <;> cases rw.toNat.testBit i <;> simp [e]

/-- The bits that a write leaves are those that were there. -/
theorem merge_and_kept (old v all lk : Word) : ((old &&& ~~~(all &&& ~~~lk)) ||| (v &&& (all &&& ~~~lk))) &&& lk = old &&& lk := by
  refine word_ext fun i hi => ?_
  simp only [testBit_or, testBit_and, testBit_not _ hi]
  cases lk.toNat.testBit i <;> simp

/-! ### Plain registers -/

theorem registerWrite_stores (s : State) (ag : Agent) (addr : BitVec 26) (d : Word) (hm : s.pwr.mainUp = true) (ha : addr.toNat < 2 ^ 24)
    (hr : (regDef? (addr.toNat / 4)).isSome = true) (hn : isWinReg (addr.toNat / 4) = false) (hact : (regOf (addr.toNat / 4)).act = .none)
    (hnorm : (regOf (addr.toNat / 4)).norm = .none) (hc : (regOf (addr.toNat / 4)).ctr = .none) (hl : (regOf (addr.toNat / 4)).rwl = 0)
    (hw : (regOf (addr.toNat / 4)).wo = 0) (hF : addr.toNat / 4 ≠ Reg.HRTH_FW_STATUS) (hf : pf1Denied ag (addr.toNat / 4) s = false) :
    Answers (.registerWrite ag addr 0xF d) s fun t =>
      t.reg (addr.toNat / 4) = (s.reg (addr.toNat / 4) &&& ~~~(regOf (addr.toNat / 4)).rw) ||| (d &&& (regOf (addr.toNat / 4)).rw) ∧
      Only [.hst] [addr.toNat / 4] s t := by
  refine answers_main (by rw [exec, execRegisterWrite]) hm fun t ht => ?_
  obtain ⟨i, hx⟩ := agentWrite_stores d rfl (by omega) hr hn hc hF hf
  rw [hx, hact, regStored_plain _ _ _ _ _ hnorm hl hw, merge_allBits] at ht
  subst ht
  rw [settleIrq_reg]
  exact ⟨State.reg_setReg_same .., ((Only.refl _ _ s).setReg _ _ List.mem_cons_self).settleIrq⟩

theorem aliasWrite_stores (s : State) (ag : Agent) (page : BitVec 12) (b : BitVec 11) (d : Word) (hm : s.pwr.mainUp = true)
    (hr : (regDef? (page.toNat * 1024 + b.toNat / 32)).isSome = true) (hn : isWinReg (page.toNat * 1024 + b.toNat / 32) = false)
    (hact : (regOf (page.toNat * 1024 + b.toNat / 32)).act = .none) (hnorm : (regOf (page.toNat * 1024 + b.toNat / 32)).norm = .none)
    (hc : (regOf (page.toNat * 1024 + b.toNat / 32)).ctr = .none) (hl : (regOf (page.toNat * 1024 + b.toNat / 32)).rwl = 0)
    (hw : (regOf (page.toNat * 1024 + b.toNat / 32)).wo = 0) (hF : page.toNat * 1024 + b.toNat / 32 ≠ Reg.HRTH_FW_STATUS)
    (hrw : (regOf (page.toNat * 1024 + b.toNat / 32)).rw.getLsbD (b.toNat % 32) = true)
    (hf : pf1Denied ag (page.toNat * 1024 + b.toNat / 32) s = false) :
    Answers (.aliasWrite ag page b d) s fun t =>
      t.reg (page.toNat * 1024 + b.toNat / 32) =
        putBits (s.reg (page.toNat * 1024 + b.toNat / 32)) (b.toNat % 32) 1 (if d.getLsbD 0 then 1 else 0) ∧
      Only [.hst] [page.toNat * 1024 + b.toNat / 32] s t := by
  obtain ⟨had, hj, hlo, hu⟩ := aliasOff_direct page b
  have hj32 : b.toNat % 32 < 32 := Nat.mod_lt _ (by decide)
  refine answers_main (by rw [exec, execAliasWrite]) hm fun t ht => ?_
  generalize page.toNat * 1024 + b.toNat / 32 = a at *
  have hwr : aliasWritable (regOf a) &&& bitMask (b.toNat % 32) ≠ 0 := by
    intro h0
    have hb : (aliasWritable (regOf a) &&& bitMask (b.toNat % 32)).toNat.testBit (b.toNat % 32) = true := by
      have hr' : (regOf a).rw.toNat.testBit (b.toNat % 32) = true := hrw
      rw [testBit_and, testBit_bitMask _ hj32, aliasWritable, if_pos hc]
      simp [hr']
    rw [h0] at hb
    exact absurd hb (by simp)
  obtain ⟨i, hx⟩ := agentWrite_storesBit d hlo hu had hj hr hn hc hF hf hwr
  rw [hx, hact, regStored_plain _ _ _ _ _ hnorm hl hw] at ht
  subst ht
  rw [settleIrq_reg]
  refine ⟨(State.reg_setReg_same ..).trans (merge_bitMask _ (d.getLsbD 0) hj32 hrw), ?_⟩
  exact ((Only.refl _ _ s).setReg _ _ List.mem_cons_self).settleIrq

/-! ### LOCK (R69) -/

theorem and_one_eq_zero (v : Word) : v &&& 1 = 0 ↔ v.toNat.testBit 0 = false := by
  constructor
  · intro h
    have hb := testBit_and v 1 0
    rw [h] at hb
    simpa using hb.symm
  · intro h
    refine word_ext fun i hi => ?_
    rw [testBit_and]
    cases i with
    | zero => rw [h]; rfl
    | succ i => rw [show (1 : Word).toNat.testBit (i + 1) = false by simp [Nat.testBit_succ], Bool.and_false]; simp

theorem givenWord_lock {a : Nat} {d : RegDef} {s : State} (x : Word) (hn : d.norm = .lockBit) :
    (givenWord s a d allBits x).toNat.testBit 0 = if x.toNat.testBit 0 then true else (s.reg a).toNat.testBit 0 := by
  rw [givenWord_allBits, hn, normWord, Nat.testBit_zero (x := x.toNat)]
  by_cases h : x.toNat % 2 = 0
  · rw [if_pos h, if_neg (by simp [h])]
  · rw [if_neg h, if_pos (by simp; omega), Nat.testBit_zero]
    simp; omega

theorem decide_and_one (v : Word) : decide (v &&& 1 ≠ 0) = v.toNat.testBit 0 := by
  rw [Bool.eq_iff_iff, decide_eq_true_iff, ne_eq, and_one_eq_zero, Bool.not_eq_false]

/-- LOCKED keeps a 1 that it has, without LOCK_VIOL, and takes one that is written. -/
theorem regStored_lock {a : Nat} {s : State} (x : Word) (h7 : a % 1024 = 7) :
    ∃ v, regStored a { wo := 1, norm := .lockBit } allBits x s = s.setReg a v ∧
      v.toNat.testBit 0 = ((s.reg a).toNat.testBit 0 || x.toNat.testBit 0) := by
  have hg := givenWord_lock (a := a) (s := s) (d := { wo := 1, norm := .lockBit }) x rfl
  have hdone : woDoneAt s a { wo := 1, norm := .lockBit } = (s.reg a).toNat.testBit 0 := (if_pos (.inl h7)).trans (decide_and_one _)
  have hlk : lockedBits s a { wo := 1, norm := .lockBit } = if (s.reg a).toNat.testBit 0 then 1 else 0 := by
    rw [lockedBits, hdone, ite_self]
    exact BitVec.zero_or
  unfold regStored openBits
  dsimp only
  rw [if_neg fun h => h.2.2.1 rfl, hlk]
  generalize givenWord s a { wo := 1, norm := .lockBit } allBits x = g at *
  cases hb : (s.reg a).toNat.testBit 0 with
  | true =>
    have hx : (g ^^^ s.reg a).toNat.testBit 0 = false := by
      rw [BitVec.toNat_xor, Nat.testBit_xor, hg, hb]
      cases x.toNat.testBit 0 <;> rfl
    rw [if_pos rfl, decide_and_one, hx]
    refine ⟨_, rfl, ?_⟩
    rw [testBit_or, testBit_and, testBit_and, hb, testBit_not _ (by decide)]
    rfl
  | false =>
    rw [if_neg Bool.false_ne_true, decide_eq_false (by simp)]
    refine ⟨_, rfl, ?_⟩
    rw [testBit_or, testBit_and, testBit_and, hb, hg, hb]
    cases x.toNat.testBit 0 <;> rfl

theorem lockWrite_locks (s : State) (ag : Agent) (page : BitVec 12) (d : Word) (hm : s.pwr.mainUp = true)
    (hp : blockOfPage page.toNat ≠ none) (hf : pf1Denied ag (pageLock page.toNat) s = false) :
    Answers (.lockWrite ag page d) s fun t =>
      t.locked page.toNat = (s.locked page.toNat || d.getLsbD 0) ∧ Only [.hst] [pageLock page.toNat] s t := by
  have hpg := page.isLt
  obtain ⟨hr, hd⟩ := regDef_pageLock hp
  refine answers_main (by rw [exec, execLockWrite]) hm fun t ht => ?_
  have ho : (page.toNat * 0x1000 + 0x1C) / 4 = pageLock page.toNat := by unfold pageLock; omega
  have h7 : pageLock page.toNat % 1024 = 7 := by unfold pageLock; omega
  obtain ⟨i, hx⟩ := agentWrite_stores d ho (by unfold pageLock; omega) hr (by simp [isWinReg, pageLock]; omega) (by rw [hd])
    (by intro h; rw [h] at h7; exact absurd h7 (by decide)) hf
  obtain ⟨v, hv, hbit⟩ := regStored_lock (s := s) d h7
  rw [hx, hd, hv] at ht
  subst ht
  refine ⟨?_, ((Only.refl _ _ s).setReg _ _ List.mem_cons_self).settleIrq⟩
  rw [settleIrq_locked, State.locked, State.rbit, State.locked, State.rbit]
  exact (congrArg (fun w : Word => w.toNat.testBit 0) (State.reg_setReg_same ..)).trans hbit

/-! ### INT_FORCE (R68) -/

/-- The causes below the n-th that a write of INT_FORCE sets. -/
theorem forceCauses_reg (a : Nat) (x : Word) (s : State) (n : Nat) (hn : n ≤ 32) (i : Nat) :
    ((forUpto n (fun b s => s.raiseIf (bit x b) ⟨a, b, 1⟩) s).reg a).toNat.testBit i =
      ((s.reg a).toNat.testBit i || (decide (i < n) && x.toNat.testBit i)) := by
  induction n with
  | zero => simp [forUpto, upto]
  | succ n ih =>
    have hstep : forUpto (n + 1) (fun b s => s.raiseIf (bit x b) ⟨a, b, 1⟩) s =
        (forUpto n (fun b s => s.raiseIf (bit x b) ⟨a, b, 1⟩) s).raiseIf (bit x n) ⟨a, n, 1⟩ := by
      simp [forUpto, upto, List.range_succ]
    have ih := ih (by omega)
    rw [hstep, State.reg_raiseIf]
    generalize (forUpto n (fun b s => s.raiseIf (bit x b) ⟨a, b, 1⟩) s).reg a = u at *
    by_cases hb : bit x n = true
    · rw [if_pos ⟨hb, rfl⟩, testBit_putBits _ _ _ _ _ (by omega), ih]
      by_cases e : i = n
      · subst e
        rw [if_pos ⟨Nat.le_refl _, Nat.lt_succ_self _⟩, Nat.sub_self, show x.toNat.testBit i = true from hb]
        simp
      · rw [if_neg (show ¬(n ≤ i ∧ i < n + 1) by omega), decide_eq_decide.2 (show i < n ↔ i < n + 1 by omega)]
    · rw [if_neg fun h => hb h.1, ih]
      by_cases e : i = n
      · subst e
        rw [show x.toNat.testBit i = false from Bool.eq_false_iff.2 hb, Bool.and_false, Bool.and_false]
      · rw [decide_eq_decide.2 (show i < n ↔ i < n + 1 by omega)]

/-- A write of INT_FORCE sets the causes of its page that it names, in the word two before. -/
theorem runAct_intForce (ag : Agent) (i p : Nat) (d : Word) (s : State) :
    (runAct .intForce ag i (p + 6) (s.reg (p + 6)) d (restored (p + 6) s)).reg (p + 4) = s.reg (p + 4) ||| (d &&& forceBits (p + 6)) ∧
      Only [.hst] [p + 4, p + 6] s (runAct .intForce ag i (p + 6) (s.reg (p + 6)) d (restored (p + 6) s)) := by
  have hrun : runAct .intForce ag i (p + 6) (s.reg (p + 6)) d (restored (p + 6) s) =
    forUpto 32 (fun b s => s.raiseIf (bit (d &&& forceBits (p + 6)) b) ⟨p + 4, b, 1⟩) (restored (p + 6) s) := rfl
  rw [hrun]
  constructor
  · refine word_ext fun i hi => ?_
    rw [forceCauses_reg _ _ _ 32 (Nat.le_refl _), decide_eq_true hi, Bool.true_and, restored, State.reg_setReg_ne _ _ (by omega), testBit_or]
  · have h0 : Only [.hst] [p + 4, p + 6] s (restored (p + 6) s) := (restored_only _ s).mono (by simp) (by simp)
    refine List.foldlRecOn (motive := fun u => Only [.hst] [p + 4, p + 6] s u) _ _ h0 ?_
    exact fun u hu b _ => hu.raiseIf _ _ fun _ => List.mem_cons_self

theorem intForce_sets (s : State) (ag : Agent) (page : BitVec 12) (d : Word) (hm : s.pwr.mainUp = true) (hp : blockOfPage page.toNat ≠ none)
    (hf : pf1Denied ag (page.toNat * 1024 + 6) s = false) : Answers (.intForce ag page d) s fun t =>
      t.reg (page.toNat * 1024 + 4) = s.reg (page.toNat * 1024 + 4) ||| (d &&& forceBits (page.toNat * 1024 + 6)) ∧
      Only [.hst] [page.toNat * 1024 + 4, page.toNat * 1024 + 6] s t := by
  have hpg := page.isLt
  obtain ⟨m, hr, hd⟩ := regDef_intForce hp
  refine answers_main (by rw [exec, execIntForce]) hm fun t ht => ?_
  have ho : (page.toNat * 0x1000 + 0x18) / 4 = page.toNat * 1024 + 6 := by omega
  obtain ⟨i, hx⟩ := agentWrite_stores d ho (by omega) hr (by simp [isWinReg]; omega) (by rw [hd])
    (by intro h; exact absurd (congrArg (· % 1024) h) (by rw [Nat.mul_add_mod']; decide)) hf
  obtain ⟨hreg, honly⟩ := runAct_intForce ag i (page.toNat * 1024) d s
  rw [hx, hd, regStored_command d s rfl rfl rfl rfl] at ht
  subst ht
  exact ⟨(settleIrq_reg ..).trans hreg, honly.settleIrq⟩

/-! ### Lockable and write-once bits (R70, R72) -/

theorem runAct_settings {act : Act} (h : act = .none ∨ act = .warnLevel) (ag : Agent) (i a : Nat) (old x : Word) (s : State) :
    runAct act ag i a old x s = s := by
  rcases h with rfl | rfl <;> rfl

theorem settleIrq_woDoneAt (s : State) (a : Nat) (d : RegDef) : woDoneAt (settleIrq s) a d = woDoneAt s a d := by
  rw [woDoneAt, settleIrq_reg, settleIrq_woDone, woDoneAt]

theorem registerWrite_locks (s : State) (ag : Agent) (addr : BitVec 26) (d v lk : Word) (hm : s.pwr.mainUp = true) (ha : addr.toNat < 2 ^ 24)
    (hr : (regDef? (addr.toNat / 4)).isSome = true) (hn : isWinReg (addr.toNat / 4) = false)
    (hact : (regOf (addr.toNat / 4)).act = .none ∨ (regOf (addr.toNat / 4)).act = .warnLevel) (hc : (regOf (addr.toNat / 4)).ctr = .none)
    (hF : addr.toNat / 4 ≠ Reg.HRTH_FW_STATUS) (hf : pf1Denied ag (addr.toNat / 4) s = false)
    (hv : v = normWord (regOf (addr.toNat / 4)).norm (s.reg (addr.toNat / 4)) d)
    (hlk : lk = ((if s.locked (addr.toNat / 4 / 1024) then (regOf (addr.toNat / 4)).rwl else 0) |||
      (if woDoneAt s (addr.toNat / 4) (regOf (addr.toNat / 4)) then (regOf (addr.toNat / 4)).wo else 0))) :
    Answers (.registerWrite ag addr 0xF d) s fun t =>
      t.reg (addr.toNat / 4) = (s.reg (addr.toNat / 4) &&& ~~~(((regOf (addr.toNat / 4)).rw ||| (regOf (addr.toNat / 4)).rwl ||| (regOf (addr.toNat / 4)).wo) &&& ~~~lk)) |||
        (v &&& (((regOf (addr.toNat / 4)).rw ||| (regOf (addr.toNat / 4)).rwl ||| (regOf (addr.toNat / 4)).wo) &&& ~~~lk)) ∧
      t.flag (lockViol (addr.toNat / 4 / 1024)) = (s.flag (lockViol (addr.toNat / 4 / 1024)) || decide ((v ^^^ s.reg (addr.toNat / 4)) &&& lk ≠ 0)) ∧
      ((regOf (addr.toNat / 4)).wo ≠ 0 → (regOf (addr.toNat / 4)).norm = .none → woDoneAt t (addr.toNat / 4) (regOf (addr.toNat / 4)) = true) ∧
      Only [.hst] [addr.toNat / 4, pageStatus (addr.toNat / 4 / 1024)] s t := by
  refine answers_main (by rw [exec, execRegisterWrite]) hm fun t ht => ?_
  obtain ⟨i, hx⟩ := agentWrite_stores d rfl (by omega) hr hn hc hF hf
  rw [hx, runAct_settings hact] at ht
  generalize addr.toNat / 4 = a at *
  have hv' : v = givenWord s a (regOf a) allBits d := hv.trans (givenWord_allBits ..).symm
  have hlk' : lk = lockedBits s a (regOf a) := hlk
  subst hv' hlk' ht
  rw [settleIrq_reg, settleIrq_flag, settleIrq_woDoneAt]
  have hstatus (e : a = pageStatus (a / 1024)) : lockedBits s a (regOf a) = 0 ∧ openBits s a (regOf a) = 0 := by
    obtain ⟨h1, h2, h3⟩ := regOf_pageStatus hr e
    exact ⟨lockedBits_of_plain s a _ h2 h3, by rw [openBits, h1, h2, h3]; exact BitVec.zero_and⟩
  refine ⟨regStored_reg fun e => (hstatus e).1, regStored_lockViol fun e => (hstatus e).2, fun hwo hnorm => ?_, ?_⟩
  · obtain ⟨h7, h2, hdis⟩ := regOf_writeOnce hr hwo hnorm
    exact regStored_woDone hwo hnorm h7 h2 hdis
  · exact (regStored_only List.mem_cons_self fun _ => .tail _ List.mem_cons_self).settleIrq

end Sys2Proof.Machine
end

section
/-!
SUPPORT. Accesses that reach nothing (R56, R57), lockable bits of registers whose write sets more off (R70), reads (R55, R66, R73) and the
snapshots of counters (R86). O5 follows.
-/
namespace Sys2Proof.Machine
set_option Elab.async false

/-! ### What the writes of six registers set off leaves their lockable bits -/

/-- The registers that the writes of TBASE_CTRL, BUF_AUDIT, TWIN_PAIR_CFG, TWIN_STACK_CFG, FLT_CTRL and FLT_WDOG may change beside their own. -/
def settledRegs : List Nat :=
  [Reg.FLT_LIVE, Reg.FLT_INT_STATUS, Reg.TWIN_INT_STATUS, Reg.TWIN_STACK_STATUS, Reg.TWIN_STK_INT_STATUS, Reg.BUF_FREE, Reg.BUF_INT_STATUS,
    Reg.BUF_LEAK_LAST, Reg.BUF_AUDIT_STATUS]

section
variable {s0 s : State} (h : RegsKeep settledRegs s0 s)
include h

theorem RegsKeep.linkCfgCheck : RegsKeep settledRegs s0 (linkCfgCheck s) := h.raiseIf _ _ fun _ => by decide

theorem RegsKeep.takePos (p : Nat) : RegsKeep settledRegs s0 (takePos p s) :=
  ((h.setFld _ _ (by decide)).setFlag _ _ (by decide)).raiseIf _ _ fun _ => by decide

theorem RegsKeep.losePos : RegsKeep settledRegs s0 (losePos s) := (h.setFlag _ _ (by decide)).raiseIf _ _ fun _ => by decide

theorem RegsKeep.freeSlice (n : Nat) : RegsKeep settledRegs s0 (freeSlice n s) :=
  ((h.of_regs rfl rfl : RegsKeep settledRegs s0 (s.updBank (n % 128) _)).setFld _ _ (by decide)).raiseIf _ _ fun _ => by decide

theorem RegsKeep.setLost (n : Nat) (x : Option Nat) : RegsKeep settledRegs s0 (s.setLost n x) := h.updNet _

theorem RegsKeep.reclaim (n : Nat) : RegsKeep settledRegs s0 (reclaim n s) := by
  have h1 : RegsKeep settledRegs s0 (Machine.freeSlice n (s.setLost n none)) := (h.setLost n none).freeSlice n
  exact .ite (h1.setFlag _ _ (by decide)) h1

theorem RegsKeep.auditShow : RegsKeep settledRegs s0 (auditShow s) := (h.setFld _ _ (by decide)).setFlag _ _ (by decide)

theorem RegsKeep.actTbaseCtrl (old x : Word) : RegsKeep settledRegs s0 (actTbaseCtrl old x s) := .ite (h.updTb _) h

theorem RegsKeep.actBufAudit (old x : Word) : RegsKeep settledRegs s0 (actBufAudit old x s) := by
  refine RegsKeep.settleCover ?_ (by decide) (by decide)
  have h1 : RegsKeep settledRegs s0 (if s.flag F.BUF_AUDIT_EN ∧ ¬s.net.auditOn then
      (lostWith s 0).foldl (fun s n => s.setLost n (some 1)) (s.updNet fun t => { t with auditOn := true }) else s) :=
    .ite (.foldl _ _ (fun n _ _ hu => hu.setLost n (some 1)) (h.updNet _)) h
  exact .ite (RegsKeep.foldl _ _ (fun n _ _ hu => hu.reclaim n) h1).auditShow h1

theorem RegsKeep.actStackCfg (old x : Word) : RegsKeep settledRegs s0 (actStackCfg old x s) := by
  have h2 : RegsKeep settledRegs s0 ((Machine.linkCfgCheck s).updTwin fun t =>
      { t with masters := t.masters.filter fun k => linkUsed (Machine.linkCfgCheck s) k && (isMaster (Machine.linkCfgCheck s) || k == 2) }) :=
    h.linkCfgCheck.updTwin _
  exact .ite (h2.takePos 0) (.ite h2 h2.losePos)

end

/-- The six registers, with what their place in the map says of them. -/
theorem sixRegisters {a : Nat} (h : a ∈ [Reg.TBASE_CTRL, Reg.BUF_AUDIT, Reg.TWIN_PAIR_CFG, Reg.TWIN_STACK_CFG, Reg.FLT_CTRL, Reg.FLT_WDOG]) :
    a < 2 ^ 22 ∧ (regDef? a).isSome = true ∧ isWinReg a = false ∧ (regOf a).ctr = .none ∧ a ≠ Reg.HRTH_FW_STATUS ∧
      a ≠ pageStatus (a / 1024) ∧ a ∉ settledRegs ∧ pageStatus (a / 1024) ∉ settledRegs ∧
      (regOf a).act ∈ [Act.tbaseCtrl, .bufAudit, .pairCfg, .stackCfg, .fltCfg] := by
  revert a
  decide +kernel

theorem RegsKeep.runAct_settled {act : Act} (ha : act ∈ [Act.tbaseCtrl, .bufAudit, .pairCfg, .stackCfg, .fltCfg]) (ag : Agent) (i a : Nat)
    (old x : Word) (s : State) : RegsKeep settledRegs s (runAct act ag i a old x s) := by
  have h := RegsKeep.refl settledRegs s
  simp only [List.mem_cons, List.not_mem_nil, or_false] at ha
  rcases ha with rfl | rfl | rfl | rfl | rfl
  · exact h.actTbaseCtrl old x
  · exact h.actBufAudit old x
  · exact h.linkCfgCheck
  · exact h.actStackCfg old x
  · exact h.settleCover (by decide) (by decide)

theorem registerWrite_keepsLocked (s : State) (ag : Agent) (a : Nat) (d v lk : Word) (hm : s.pwr.mainUp = true)
    (ha : a ∈ [Reg.TBASE_CTRL, Reg.BUF_AUDIT, Reg.TWIN_PAIR_CFG, Reg.TWIN_STACK_CFG, Reg.FLT_CTRL, Reg.FLT_WDOG])
    (hf : pf1Denied ag a s = false) (hv : v = normWord (regOf a).norm (s.reg a) d)
    (hlk : lk = ((if s.locked (a / 1024) then (regOf a).rwl else 0) ||| (if woDoneAt s a (regOf a) then (regOf a).wo else 0))) :
    Answers (.registerWrite ag (BitVec.ofNat 26 (4 * a)) 0xF d) s fun t =>
      t.reg a &&& lk = s.reg a &&& lk ∧ ((v ^^^ s.reg a) &&& lk ≠ 0 → t.flag (lockViol (a / 1024)) = true) := by
  obtain ⟨hw, hr, hn, hc, hF, hstatus, hout, hviol, hact⟩ := sixRegisters ha
  refine answers_main (by rw [exec, execRegisterWrite]) hm fun t ht => ?_
  have ho : (BitVec.ofNat 26 (4 * a)).toNat / 4 = a := by rw [BitVec.toNat_ofNat]; omega
  obtain ⟨i, hx⟩ := agentWrite_stores d ho hw hr hn hc hF hf
  have hk := RegsKeep.runAct_settled hact ag i a (s.reg a) d (regStored a (regOf a) allBits d s)
  have hv' : v = givenWord s a (regOf a) allBits d := hv.trans (givenWord_allBits ..).symm
  have hlk' : lk = lockedBits s a (regOf a) := hlk
  rw [hx] at ht
  subst hv' hlk' ht
  rw [settleIrq_reg, settleIrq_flag, (hk a hout).1, hk.flag_eq _ hviol, regStored_reg fun e => absurd e hstatus,
    regStored_lockViol fun e => absurd e hstatus]
  exact ⟨merge_and_kept .., fun h => by rw [decide_eq_true h, Bool.or_true]⟩

/-! ### Writes that reach nothing -/

section
variable {ag : Agent} {off : Nat} {be : BitVec 4} {s : State} (x : Word)

/-- A write that sets its flags alone. -/
theorem agentWrite_flagsAlone (h : be ≠ 0xF ∨ noRegister (off / 4) = true ∨ pf1Denied ag (directAddr (off / 4)) s = true) :
    (agentWrite ag off be x s).hst.win = s.hst.win ∧ (agentWrite ag off be x s).hst.mbox = s.hst.mbox ∧
      (agentWrite ag off be x s).hst.stage = s.hst.stage ∧ (agentWrite ag off be x s).hst.woDone = s.hst.woDone ∧
      (agentWrite ag off be x s).hst.snap = s.hst.snap ∧ Only [.hst] [Reg.HOST_INT_STATUS, Reg.HOST_ERR_ADDR] s (agentWrite ag off be x s) := by
  rw [agentWrite_flagged x h, settleIrq_win, settleIrq_mbox, settleIrq_stage, settleIrq_woDone, settleIrq_snap, flagged_hst]
  exact ⟨rfl, rfl, rfl, rfl, rfl, ((flagged_only ..).mono (by simp) fun _ => id).settleIrq⟩

end

theorem addr_lt (addr : BitVec 26) : addr.toNat / 4 < 2 ^ 24 := by
  have h := addr.isLt
  omega

theorem registerWrite_partial (s : State) (ag : Agent) (addr : BitVec 26) (be : BitVec 4) (d : Word) (hm : s.pwr.mainUp = true)
    (hb : be ≠ 0xF) : Answers (.registerWrite ag addr be d) s fun t =>
      t.flag F.HOST_INT_STATUS_PARTIAL_WRITE = true ∧
      t.flag F.HOST_INT_STATUS_UNMAPPED = (s.flag F.HOST_INT_STATUS_UNMAPPED || noRegister (addr.toNat / 4)) ∧
      t.reg Reg.HOST_ERR_ADDR = (if noRegister (addr.toNat / 4) then BitVec.ofNat 32 (addr.toNat / 4 * 4 + errAgent ag * 2 ^ 26) else s.reg Reg.HOST_ERR_ADDR) ∧
      t.flag F.HOST_INT_STATUS_PF1_DENIED = (s.flag F.HOST_INT_STATUS_PF1_DENIED || pf1Denied ag (directAddr (addr.toNat / 4)) s) ∧
      t.hst.win = s.hst.win ∧ t.hst.mbox = s.hst.mbox ∧ t.hst.stage = s.hst.stage ∧ t.hst.woDone = s.hst.woDone ∧ t.hst.snap = s.hst.snap ∧
      Only [.hst] [Reg.HOST_INT_STATUS, Reg.HOST_ERR_ADDR] s t := by
  refine answers_main (by rw [exec, execRegisterWrite]) hm fun t ht => ?_
  subst ht
  refine ⟨?_, ?_, ?_, ?_, agentWrite_flagsAlone d (.inl hb)⟩
  all_goals rw [agentWrite_flagged d (.inl hb)]
  · rw [settleIrq_flag, decide_eq_false hb, flagged_partial]
  · rw [settleIrq_flag, flagged_unmapped]
  · rw [settleIrq_reg, flagged_errAddr _ _ _ _ (addr_lt addr)]
  · rw [settleIrq_flag, flagged_denied]

theorem registerWrite_unmapped (s : State) (ag : Agent) (addr : BitVec 26) (d : Word) (hm : s.pwr.mainUp = true)
    (hn : noRegister (addr.toNat / 4) = true) : Answers (.registerWrite ag addr 0xF d) s fun t =>
      t.flag F.HOST_INT_STATUS_UNMAPPED = true ∧ t.fld F.HOST_ERR_ADDR_OFFSET = addr.toNat / 4 * 4 ∧ t.fld F.HOST_ERR_ADDR_AGENT = errAgent ag ∧
      t.hst.win = s.hst.win ∧ t.hst.mbox = s.hst.mbox ∧ t.hst.stage = s.hst.stage ∧ t.hst.woDone = s.hst.woDone ∧ t.hst.snap = s.hst.snap ∧
      Only [.hst] [Reg.HOST_INT_STATUS, Reg.HOST_ERR_ADDR] s t := by
  refine answers_main (by rw [exec, execRegisterWrite]) hm fun t ht => ?_
  subst ht
  have hreg : (agentWrite ag addr.toNat 0xF d s).reg Reg.HOST_ERR_ADDR = BitVec.ofNat 32 (addr.toNat / 4 * 4 + errAgent ag * 2 ^ 26) := by
    rw [agentWrite_flagged d (.inr (.inl hn)), settleIrq_reg, flagged_errAddr _ _ _ _ (addr_lt addr), if_pos hn]
  obtain ⟨hoff, hag⟩ := errAddr_fields (addr_lt addr) hreg
  refine ⟨?_, hoff, hag, agentWrite_flagsAlone d (.inr (.inl hn))⟩
  rw [agentWrite_flagged d (.inr (.inl hn)), settleIrq_flag, flagged_unmapped, hn, Bool.or_true]

/-! ### Reads -/

theorem rcRead_noBytes (s : State) (ag : Agent) (addr : BitVec 26) (hm : s.pwr.mainUp = true) : Answers (.rcRead ag addr 0) s fun t =>
    t.hst.completions = [(ag, 0)] ∧ t.hst.win = s.hst.win ∧ t.hst.snap = s.hst.snap ∧ Only [.hst, .tap] [] s t := by
  refine answers_main (by rw [exec, execRcRead]) hm fun t ht => ?_
  rw [agentRead_of_noBytes] at ht
  subst ht
  exact ⟨completed_completions .., completed_win .., completed_snap .., completed_only ..⟩

theorem rcRead_unmapped (s : State) (ag : Agent) (addr : BitVec 26) (be : BitVec 4) (hm : s.pwr.mainUp = true)
    (hn : noRegister (addr.toNat / 4) = true) (hb : be ≠ 0) : Answers (.rcRead ag addr be) s fun t =>
      t.hst.completions = [(ag, 0)] ∧ t.flag F.HOST_INT_STATUS_UNMAPPED = true ∧ t.fld F.HOST_ERR_ADDR_OFFSET = addr.toNat / 4 * 4 ∧ t.fld F.HOST_ERR_ADDR_AGENT = errAgent ag ∧
      t.hst.win = s.hst.win ∧ t.hst.mbox = s.hst.mbox ∧ t.hst.stage = s.hst.stage ∧ t.hst.snap = s.hst.snap ∧
      Only [.hst, .tap] [Reg.HOST_INT_STATUS, Reg.HOST_ERR_ADDR] s t := by
  refine answers_main (by rw [exec, execRcRead]) hm fun t ht => ?_
  have hlt := addr_lt addr
  rw [agentRead_of_none hb hn] at ht
  subst ht
  have hreg : (settleIrq (completed ag 0 (unmapped ag (addr.toNat / 4) s))).reg Reg.HOST_ERR_ADDR =
      BitVec.ofNat 32 (addr.toNat / 4 * 4 + errAgent ag * 2 ^ 26) := by
    rw [settleIrq_reg, completed_reg, unmapped_errAddr, show 4 * (addr.toNat / 4) % 2 ^ 26 = addr.toNat / 4 * 4 by omega]
  obtain ⟨hoff, hag⟩ := errAddr_fields hlt hreg
  have hhst := unmapped_hst ag (addr.toNat / 4) s
  rw [settleIrq_completions, completed_completions, settleIrq_flag, completed_flag, settleIrq_win, completed_win, settleIrq_mbox,
    completed_mbox, settleIrq_stage, completed_stage, settleIrq_snap, completed_snap, hhst]
  refine ⟨rfl, State.flag_raise_same _ _ (by decide) rfl, hoff, hag, rfl, rfl, rfl, rfl, ?_⟩
  exact ((unmapped_only ag _ s (Only.refl _ _ s) List.mem_cons_self (.tail _ List.mem_cons_self)).completed ag 0).settleIrq

theorem rcRead_clears (s : State) (ag : Agent) (addr : BitVec 26) (be : BitVec 4) (hm : s.pwr.mainUp = true) (ha : addr.toNat < 2 ^ 24)
    (hb : be ≠ 0) (hr : (regDef? (addr.toNat / 4)).isSome = true) (hn : isWinReg (addr.toNat / 4) = false)
    (hl : (regOf (addr.toNat / 4)).live = .none) (hc : ctrOf (addr.toNat / 4) (regOf (addr.toNat / 4)) = .none)
    (hblk : blockOfPage (addr.toNat / 4 / 1024) ≠ some 4) : Answers (.rcRead ag addr be) s fun t =>
      t.hst.completions = [(ag, s.reg (addr.toNat / 4))] ∧ t.reg (addr.toNat / 4) = s.reg (addr.toNat / 4) &&& ~~~(regOf (addr.toNat / 4)).rc ∧
      Only [.hst, .tap] [addr.toNat / 4] s t := by
  refine answers_main (by rw [exec, execRcRead]) hm fun t ht => ?_
  rw [agentRead_stored hb (by omega) hr hn hl hc, rcBits_of_block _ hblk] at ht
  subst ht
  rw [settleIrq_completions, completed_completions, settleIrq_reg, completed_reg, State.reg_clearBits, and_not_and]
  exact ⟨rfl, rfl, (((Only.refl _ _ s).clearBits _ _ List.mem_cons_self).completed _ _).settleIrq⟩

/-- Bit 0 of the word that the read of a bit returns. -/
theorem bit_ofNat_bits (v : Word) (j : Nat) : bit (BitVec.ofNat 32 (bits v j 1)) 0 = v.toNat.testBit j := by
  rw [bit, BitVec.toNat_ofNat, Nat.testBit_mod_two_pow, testBit_bits, Nat.add_zero]
  simp

theorem aliasRead_clears (s : State) (ag : Agent) (page : BitVec 12) (b : BitVec 11) (hm : s.pwr.mainUp = true)
    (hr : (regDef? (page.toNat * 1024 + b.toNat / 32)).isSome = true) (hn : isWinReg (page.toNat * 1024 + b.toNat / 32) = false)
    (hl : (regOf (page.toNat * 1024 + b.toNat / 32)).live = .none) (hblk : blockOfPage page.toNat ≠ some 4) :
    Answers (.aliasRead ag page b) s fun t =>
      t.hst.completions = [(ag, BitVec.ofNat 32 (bits (s.reg (page.toNat * 1024 + b.toNat / 32)) (b.toNat % 32) 1))] ∧
      ((regOf (page.toNat * 1024 + b.toNat / 32)).rc.getLsbD (b.toNat % 32) = true → t.rbit (page.toNat * 1024 + b.toNat / 32) (b.toNat % 32) = false) ∧
      (∀ j ∈ List.range 32, j ≠ b.toNat % 32 → t.rbit (page.toNat * 1024 + b.toNat / 32) j = s.rbit (page.toNat * 1024 + b.toNat / 32) j) ∧
      Only [.hst, .tap] [page.toNat * 1024 + b.toNat / 32] s t := by
  obtain ⟨had, hj, hlo, hu⟩ := aliasOff_direct page b
  have hb := b.isLt
  have hj32 : b.toNat % 32 < 32 := Nat.mod_lt _ (by decide)
  have hpage : (page.toNat * 1024 + b.toNat / 32) / 1024 = page.toNat := by omega
  refine answers_main (by rw [exec, execAliasRead]) hm fun t ht => ?_
  generalize page.toNat * 1024 + b.toNat / 32 = a at *
  generalize b.toNat % 32 = j at *
  rw [← hpage] at hblk
  obtain ⟨i, hp⟩ := placeOf_alias hlo hu had hr hn
  rw [hj] at hp
  rw [agentRead_of_bit (by decide) hp, placeValue_bit hl, readEffects_bit hl, bit_ofNat_bits, rcBits_of_block _ hblk] at ht
  subst ht
  rw [settleIrq_completions, completed_completions]
  refine ⟨rfl, fun hrc => ?_, fun k hk hkj => ?_, Only.settleIrq (Only.completed ?_ ag _)⟩
  · have hrc' : (regOf a).rc.toNat.testBit j = true := hrc
    rw [settleIrq_rbit, completed_rbit]
    split
    · rw [State.rbit, bit, State.reg_clearBits, testBit_and, testBit_not _ hj32, testBit_and, hrc', testBit_bitMask j hj32]
      simp
    · next h => exact Bool.eq_false_iff.2 h
  · rw [settleIrq_rbit, completed_rbit]
    split
    · have hk32 := List.mem_range.1 hk
      rw [State.rbit, bit, State.reg_clearBits, testBit_and, testBit_not _ hk32, testBit_and, testBit_bitMask j hk32,
        decide_eq_false (Ne.symm hkj), Bool.and_false, Bool.not_false, Bool.and_true]
      rfl
    · rfl
  · split
    · exact (Only.refl _ _ s).clearBits _ _ List.mem_cons_self
    · exact .refl _ _ s

/-! ### Counters (R86) -/

/-- The words of the loop that are read as counters are, though their rows make them none. -/
theorem loopWords_plain : ∀ a ∈ [Reg.LOOP_FREQ_LO, Reg.LOOP_HO_FREQ_LO, Reg.LOOP_BT_LO, Reg.LOOP_FREQ_HI, Reg.LOOP_HO_FREQ_HI, Reg.LOOP_BT_HI, Reg.LOOP_BT_SUB],
    (regOf a).ctr = .none := by
  decide +kernel

theorem ctrOf_counter {a : Nat} (hl : (regOf a).live = .none) (hc : (regOf a).ctr ≠ .none) : ctrOf a (regOf a) = (regOf a).ctr := by
  have hne : ¬_ := fun h => hc (loopWords_plain a h)
  simp only [List.mem_cons, List.not_mem_nil, or_false, not_or] at hne
  simp [ctrOf, hl, hne]

theorem wordsAfter_counter {a : Nat} (hc : (regOf a).ctr ≠ .none) : wordsAfter a = 1 :=
  if_neg fun h => hc (loopWords_plain a (by rw [h]; decide))

section
variable {ag : Agent} {off a : Nat} {be : BitVec 4} {s : State} (ho : off / 4 = a) (hb : be ≠ 0) (hw : a < 2 ^ 22)
  (hr : (regDef? a).isSome = true) (hn : isWinReg a = false) (hl : (regOf a).live = .none) (hrc : (regOf a).rc = 0)
include ho hb hw hr hn hl hrc

/-- A read of a low word latches what follows it for its agent. -/
theorem agentRead_lo (hc : ctrOf a (regOf a) = .lo) : agentRead ag off be s = settleIrq (completed ag (s.reg a)
    (s.setSnap (agentIx ag) (some (a, (upto (wordsAfter a)).map fun i => s.reg (a + 1 + i))))) := by
  subst ho
  obtain ⟨i, hp⟩ := placeOf_direct hw hr hn
  have hlatch : latchHi (agentIx ag) (off / 4) (regOf (off / 4)) s =
      s.setSnap (agentIx ag) (some (off / 4, (upto (wordsAfter (off / 4))).map fun i => s.reg (off / 4 + 1 + i))) := by
    rw [latchHi, if_pos hc, hl]
    rfl
  have hz (v : Word) : v &&& rcBits ag (off / 4) (regOf (off / 4)) = 0 := by simp [rcBits, hrc]
  rw [agentRead_of_reg hb hp, regValue_stored hl (by simp [hc]), readEffects_stored hl (.inr hc), hz, State.clearBits_zero, hlatch]

/-- A read of a further word returns what the agent's snapshot holds, and ends it with its last word. -/
theorem agentRead_hi (hc : ctrOf a (regOf a) = .hi) : agentRead ag off be s = settleIrq (completed ag (hiWord s (agentIx ag) a (s.reg a))
    (if inSnap s (agentIx ag) a ∧ inSnap s (agentIx ag) (a + 1) then s else s.setSnap (agentIx ag) none)) := by
  subst ho
  obtain ⟨i, hp⟩ := placeOf_direct hw hr hn
  rw [agentRead_of_reg hb hp, latchHi_of_ne (by simp [hc]), regValue_hi hl hc, readEffects_hi hl hc hrc]

end

/-- What a read leaves that changes its agent's snapshot alone. -/
theorem snapshotRead (s : State) (ag : Agent) (v : Word) (x : Option (Nat × List Word)) :
    (settleIrq (completed ag v (s.setSnap (agentIx ag) x))).hst.completions = [(ag, v)] ∧
      smapGet noSnap (settleIrq (completed ag v (s.setSnap (agentIx ag) x))).hst.snap (agentIx ag) = x ∧
      Only [.hst, .tap] [] s (settleIrq (completed ag v (s.setSnap (agentIx ag) x))) := by
  rw [settleIrq_completions, completed_completions, settleIrq_snap, completed_snap]
  exact ⟨rfl, State.snap_setSnap .., (((Only.refl _ _ s).setSnap _ x).completed ag v).settleIrq⟩

theorem counterLoRead_latches (s : State) (ag : Agent) (addr : BitVec 26) (hm : s.pwr.mainUp = true) (ha : addr.toNat < 2 ^ 24)
    (hr : (regDef? (addr.toNat / 4)).isSome = true) (hn : isWinReg (addr.toNat / 4) = false) (hl : (regOf (addr.toNat / 4)).live = .none)
    (hc : (regOf (addr.toNat / 4)).ctr = .lo) (hrc : (regOf (addr.toNat / 4)).rc = 0) : Answers (.counterLoRead ag addr) s fun t =>
      t.hst.completions = [(ag, s.reg (addr.toNat / 4))] ∧
      smapGet noSnap t.hst.snap (agentIx ag) = some (addr.toNat / 4, [s.reg (addr.toNat / 4 + 1)]) ∧ Only [.hst, .tap] [] s t := by
  refine answers_main (by rw [exec, execCounterLoRead]) hm fun t ht => ?_
  rw [agentRead_lo rfl (by decide) (by omega) hr hn hl hrc ((ctrOf_counter hl (by simp [hc])).trans hc), wordsAfter_counter (by simp [hc])] at ht
  exact ht ▸ snapshotRead s ag _ _

theorem counterHiRead_ends (s : State) (ag : Agent) (addr : BitVec 26) (h : Word) (hm : s.pwr.mainUp = true) (ha : addr.toNat < 2 ^ 24)
    (hr : (regDef? (addr.toNat / 4)).isSome = true) (hn : isWinReg (addr.toNat / 4) = false) (hl : (regOf (addr.toNat / 4)).live = .none)
    (hc : (regOf (addr.toNat / 4)).ctr = .hi) (hrc : (regOf (addr.toNat / 4)).rc = 0)
    (hs : smapGet noSnap s.hst.snap (agentIx ag) = some (addr.toNat / 4 - 1, [h])) (h4 : 4 ≤ addr.toNat) :
    Answers (.counterHiRead ag addr) s fun t =>
      t.hst.completions = [(ag, h)] ∧ smapGet noSnap t.hst.snap (agentIx ag) = none ∧ Only [.hst, .tap] [] s t := by
  refine answers_main (by rw [exec, execCounterHiRead]) hm fun t ht => ?_
  have hpos : 0 < addr.toNat / 4 := by omega
  rw [agentRead_hi rfl (by decide) (by omega) hr hn hl hrc ((ctrOf_counter hl (by simp [hc])).trans hc)] at ht
  generalize addr.toNat / 4 = a at *
  have hword : hiWord s (agentIx ag) a (s.reg a) = h := by
    simp only [hiWord, hs]
    rw [if_pos (by omega), show a - (a - 1) - 1 = 0 by omega]
    rfl
  have hend : inSnap s (agentIx ag) (a + 1) = false := by
    simp only [inSnap, hs]
    exact decide_eq_false (by simp; omega)
  rw [hword, hend, if_neg fun h => Bool.false_ne_true h.2] at ht
  exact ht ▸ snapshotRead s ag _ _

/-! ### The three words of LOOP_BT -/

/-- The registers of LOOP_BT, with what their place in the map says of them. -/
theorem loopBtWords {a : Nat} (h : a ∈ [Reg.LOOP_BT_LO, Reg.LOOP_BT_HI, Reg.LOOP_BT_SUB]) :
    (BitVec.ofNat 26 (4 * a)).toNat / 4 = a ∧ a < 2 ^ 22 ∧ (regDef? a).isSome = true ∧ isWinReg a = false ∧ (regOf a).live = .none ∧
      (regOf a).rc = 0 ∧ ctrOf a (regOf a) = if a = Reg.LOOP_BT_LO then .lo else .hi := by
  revert a
  decide +kernel

theorem loopBtLoRead_latches (s : State) (ag : Agent) (hm : s.pwr.mainUp = true) :
    Answers (.counterLoRead ag (BitVec.ofNat 26 (4 * Reg.LOOP_BT_LO))) s fun t =>
      t.hst.completions = [(ag, s.reg Reg.LOOP_BT_LO)] ∧
      smapGet noSnap t.hst.snap (agentIx ag) = some (Reg.LOOP_BT_LO, [s.reg Reg.LOOP_BT_HI, s.reg Reg.LOOP_BT_SUB]) ∧ Only [.hst, .tap] [] s t := by
  refine answers_main (by rw [exec, execCounterLoRead]) hm fun t ht => ?_
  obtain ⟨ho, hw, hr, hn, hl, hrc, hc⟩ := loopBtWords (a := Reg.LOOP_BT_LO) (by decide)
  rw [agentRead_lo ho (by decide) hw hr hn hl hrc hc] at ht
  exact ht ▸ snapshotRead s ag _ _

section
variable (s : State) (ag : Agent) (h f : Word) (hm : s.pwr.mainUp = true)
  (hs : smapGet noSnap s.hst.snap (agentIx ag) = some (Reg.LOOP_BT_LO, [h, f]))
include hm hs

theorem loopBtHiRead_keeps : Answers (.counterHiRead ag (BitVec.ofNat 26 (4 * Reg.LOOP_BT_HI))) s fun t =>
    t.hst.completions = [(ag, h)] ∧ smapGet noSnap t.hst.snap (agentIx ag) = some (Reg.LOOP_BT_LO, [h, f]) ∧ Only [.hst, .tap] [] s t := by
  refine answers_main (by rw [exec, execCounterHiRead]) hm fun t ht => ?_
  obtain ⟨ho, hw, hr, hn, hl, hrc, hc⟩ := loopBtWords (a := Reg.LOOP_BT_HI) (by decide)
  have hword : hiWord s (agentIx ag) Reg.LOOP_BT_HI (s.reg Reg.LOOP_BT_HI) = h := by
    simp only [hiWord, hs]
    rfl
  have hin : inSnap s (agentIx ag) Reg.LOOP_BT_HI = true ∧ inSnap s (agentIx ag) (Reg.LOOP_BT_HI + 1) = true := by
    simp only [inSnap, hs]
    exact ⟨rfl, rfl⟩
  rw [agentRead_hi ho (by decide) hw hr hn hl hrc hc, hword, if_pos hin] at ht
  subst ht
  rw [settleIrq_completions, completed_completions, settleIrq_snap, completed_snap]
  exact ⟨rfl, hs, ((Only.refl _ _ s).completed ag h).settleIrq⟩

theorem loopBtSubRead_ends : Answers (.counterHiRead ag (BitVec.ofNat 26 (4 * Reg.LOOP_BT_SUB))) s fun t =>
    t.hst.completions = [(ag, f)] ∧ smapGet noSnap t.hst.snap (agentIx ag) = none ∧ Only [.hst, .tap] [] s t := by
  refine answers_main (by rw [exec, execCounterHiRead]) hm fun t ht => ?_
  obtain ⟨ho, hw, hr, hn, hl, hrc, hc⟩ := loopBtWords (a := Reg.LOOP_BT_SUB) (by decide)
  have hword : hiWord s (agentIx ag) Reg.LOOP_BT_SUB (s.reg Reg.LOOP_BT_SUB) = f := by
    simp only [hiWord, hs]
    rfl
  have hend : inSnap s (agentIx ag) (Reg.LOOP_BT_SUB + 1) = false := by
    simp only [inSnap, hs]
    rfl
  rw [agentRead_hi ho (by decide) hw hr hn hl hrc hc, hword, hend, if_neg fun h => Bool.false_ne_true h.2] at ht
  exact ht ▸ snapshotRead s ag _ _

end

/-- Settles O5. -/
theorem registerAccesses : Obligations.RegisterAccesses :=
  ⟨registerWrite_stores, rcRead_clears, aliasWrite_stores, aliasRead_clears, lockWrite_locks, intForce_sets, counterLoRead_latches,
    counterHiRead_ends, loopBtLoRead_latches, loopBtHiRead_keeps, loopBtSubRead_ends, registerWrite_locks, registerWrite_keepsLocked,
    registerWrite_partial, rcRead_noBytes, registerWrite_unmapped, rcRead_unmapped⟩

end Sys2Proof.Machine
end

section
/-!
SUPPORT. What a register, a field, a lane's record and an indirect word read after the operations of the lanes, and how the frames `Touches`,
`LanesKeep` and `IndKeep` go through each of them. The statements on data lanes, auxiliary lanes and lane tests rest on it.
-/
namespace Sys2Proof.Machine
set_option Elab.async false

/-! ### Fields that a frame leaves alone -/

section
variable {fs : List Fld} {s0 s t : State}

theorem FldsKeep.bits_eq (h : FldsKeep fs s t) (a lo w : Nat) (ha : ∀ f ∈ fs, a ≠ f.addr ∨ f.lo + f.w ≤ lo ∨ lo + w ≤ f.lo) :
    bits (t.reg a) lo w = bits (s.reg a) lo w := by
  apply Nat.eq_of_testBit_eq
  intro i
  rw [testBit_bits, testBit_bits]
  by_cases hi : i < w
  · by_cases h32 : lo + i < 32
    · have hb := (h a (lo + i) h32 fun f hf hc => by have := ha f hf; omega).1
      exact congrArg _ hb
    · have hz : ∀ v : Word, v.toNat.testBit (lo + i) = false := fun v => BitVec.getLsbD_of_ge v (lo + i) (by omega)
      rw [hz, hz]
  · simp [hi]

theorem FldsKeep.fld_eq (h : FldsKeep fs s t) (g : Fld) (ha : ∀ f ∈ fs, Apart f g) : t.fld g = s.fld g :=
  h.bits_eq _ _ _ fun f hf => (ha f hf).2

theorem FldsKeep.flag_eq (h : FldsKeep fs s t) (g : Fld) (ha : ∀ f ∈ fs, Apart f g) : t.flag g = s.flag g := by
  rw [State.flag_eq, State.flag_eq, h.fld_eq g ha]

theorem FldsKeep.reg_eq (h : FldsKeep fs s t) (a : Nat) (ha : ∀ f ∈ fs, a ≠ f.addr) : t.reg a = s.reg a :=
  word_ext fun i hi => (h a i hi fun f hf hc => ha f hf hc.1.symm).1

/-- Where every register of the list may change as a whole. -/
theorem FldsKeep.of_regsKeep {as : List Nat} (h : RegsKeep as s t) (hs : ∀ a ∈ as, whole a ∈ fs) : FldsKeep fs s t := fun a i hi ha => by
  have hn : a ∉ as := fun hm => ha _ (hs a hm) ⟨rfl, Nat.zero_le _, by simpa [whole] using hi⟩
  have hk := h a hn
  exact ⟨by rw [State.rbit, State.rbit, hk.1], fun k hk4 => by rw [hk.2 k hk4]⟩

theorem FldsKeep.regsKeep {as : List Nat} (h : FldsKeep fs s t) (hs : ∀ f ∈ fs, f.addr ∈ as) : RegsKeep as s t := fun a ha =>
  ⟨h.reg_eq a fun f hf e => ha (e ▸ hs f hf), fun k hk => word_ext fun i hi => (h a i hi fun f hf hc => ha (hc.1 ▸ hs f hf)).2 k hk⟩

end

/-! ### `Touches` through each operation -/

section
variable {ps qs : List Part} {fs gs : List Fld} {s0 s t u : State}

theorem Touches.of_moves (h : Moves (.regs :: ps) s t) (k : FldsKeep fs s t) : Touches ps fs s t := ⟨h.within, k⟩

theorem Touches.refl (ps : List Part) (fs : List Fld) (s : State) : Touches ps fs s s := .of_moves (.refl _ s) (.refl _ s)

theorem Touches.trans (h : Touches ps fs s t) (g : Touches ps fs t u) : Touches ps fs s u :=
  ⟨fun p hp => samePart_trans (h.1 p hp) (g.1 p hp), h.2.trans g.2⟩

theorem Touches.mono (h : Touches ps fs s t) (hp : ∀ p ∈ ps, p ∈ qs) (hf : ∀ f ∈ fs, f ∈ gs) : Touches qs gs s t :=
  ⟨fun p n => h.1 p fun hm => n ((List.mem_cons.1 hm).elim (· ▸ List.mem_cons_self) fun hm => List.mem_cons_of_mem _ (hp p hm)), h.2.mono hf⟩

/-- One operation after another: its parts and fields are among those listed. -/
theorem Touches.andThen {qs : List Part} {gs : List Fld} (h : Touches ps fs s0 s) (g : Touches qs gs s t) (hp : ∀ p ∈ qs, p ∈ ps) (hf : ∀ f ∈ gs, f ∈ fs) :
    Touches ps fs s0 t := h.trans (g.mono hp hf)

/-- An operation that leaves the registers alone. -/
theorem Touches.of_parts {cs : List Part} (h : Touches ps fs s0 s) (m : Moves cs s t) (n : Part.regs ∉ cs) (hs : ∀ p ∈ cs, p ∈ ps) : Touches ps fs s0 t :=
  h.trans (.of_moves (m.mono fun p hp => List.mem_cons_of_mem _ (hs p hp)) ((FldsKeep.refl fs s).of_regs (m.within.regs_eq n) (m.within.again_eq n)))

theorem Touches.setReg (h : Touches ps fs s0 s) (a : Nat) (v : Word) (m : whole a ∈ fs) : Touches ps fs s0 (s.setReg a v) :=
  h.trans (.of_moves (State.setReg_moves (.refl _ s) a v (.head _)) ((FldsKeep.refl fs s).setReg a v m))

/-- A register's new value that differs from the old in bits of listed fields only. -/
theorem Touches.setReg_of (h : Touches ps fs s0 s) (a : Nat) (v : Word)
    (m : ∀ i, i < 32 → (∀ f ∈ fs, ¬(f.addr = a ∧ f.lo ≤ i ∧ i < f.lo + f.w)) → bit v i = s.rbit a i) : Touches ps fs s0 (s.setReg a v) :=
  h.trans (.of_moves (State.setReg_moves (.refl _ s) a v (.head _)) ((FldsKeep.refl fs s).setReg_of a v m))

theorem Touches.setFld (h : Touches ps fs s0 s) (f : Fld) (x : Nat) (m : f ∈ fs) : Touches ps fs s0 (s.setFld f x) :=
  h.trans (.of_moves (State.setFld_moves (.refl _ s) f x (.head _)) ((FldsKeep.refl fs s).setFld f x m))

theorem Touches.setFlag (h : Touches ps fs s0 s) (f : Fld) (b : Bool) (m : f ∈ fs) : Touches ps fs s0 (s.setFlag f b) := h.setFld f _ m

theorem Touches.raise (h : Touches ps fs s0 s) (f : Fld) (m : f ∈ fs) : Touches ps fs s0 (s.raise f) :=
  h.trans (.of_moves (State.raise_moves (.refl _ s) f (.head _)) ((FldsKeep.refl fs s).raise f m))

theorem Touches.raiseIf (h : Touches ps fs s0 s) (c : Bool) (f : Fld) (m : c = true → f ∈ fs) : Touches ps fs s0 (s.raiseIf c f) := by
  cases c
  · exact h
  · exact h.raise f (m rfl)

theorem Touches.bump32 (h : Touches ps fs s0 s) (a n : Nat) (f : Fld) (m : whole a ∈ fs) (k : f ∈ fs) : Touches ps fs s0 (s.bump32 a n (some f)) :=
  h.trans (.of_moves (State.bump32_moves (.refl _ s) a n _ (.head _)) ((FldsKeep.refl fs s).bump32 a n f m k))

theorem Touches.bump64 (h : Touches ps fs s0 s) (a n : Nat) (f : Fld) (m : whole a ∈ fs) (m' : whole (a + 1) ∈ fs) (k : f ∈ fs) :
    Touches ps fs s0 (s.bump64 a n (some f)) :=
  h.trans (.of_moves (State.bump64_moves (.refl _ s) a n _ (.head _)) ((FldsKeep.refl fs s).bump64 a n f m m' k))

theorem Touches.updLane (h : Touches ps fs s0 s) (n : Nat) (f : LaneSt → LaneSt) (m : Part.lanes ∈ ps) : Touches ps fs s0 (s.updLane n f) :=
  h.of_parts (State.updLane_moves (.refl [.lanes] s) n f (.head _)) (by decide) (by simpa using m)

theorem Touches.setIndw (h : Touches ps fs s0 s) (d w : Nat) (v : Word) (m : Part.ind ∈ ps) : Touches ps fs s0 (s.setIndw d w v) :=
  h.of_parts (State.setIndw_moves (.refl [.ind] s) d w v (.head _)) (by decide) (by simpa using m)

theorem Touches.setIfld (h : Touches ps fs s0 s) (d w lo n x : Nat) (m : Part.ind ∈ ps) : Touches ps fs s0 (s.setIfld d w lo n x) :=
  h.setIndw d w _ m

theorem Touches.ite {p : Prop} [Decidable p] (h : p → Touches ps fs s0 s) (g : ¬p → Touches ps fs s0 t) : Touches ps fs s0 (if p then s else t) := by
  split
  · next c => exact h c
  · next c => exact g c

theorem Touches.foldl {α : Type} (l : List α) (f : State → α → State)
    (hf : ∀ x ∈ l, ∀ s, Touches ps fs s0 s → Touches ps fs s0 (f s x)) (h : Touches ps fs s0 s) : Touches ps fs s0 (l.foldl f s) := by
  induction l generalizing s with
  | nil => exact h
  | cons x l ih => exact ih (fun y hy => hf y (.tail _ hy)) (hf x (.head _) s h)

end

/-! ### Lanes -/

section
variable {n : Nat} {s0 s t u : State}

@[simp] theorem State.updLane_reg (s : State) (n : Nat) (f : LaneSt → LaneSt) (a : Nat) : (s.updLane n f).reg a = s.reg a := rfl
@[simp] theorem State.updLane_fld (s : State) (n : Nat) (f : LaneSt → LaneSt) (g : Fld) : (s.updLane n f).fld g = s.fld g := by rw [State.fld, State.fld, State.updLane_reg]
@[simp] theorem State.updLane_flag (s : State) (n : Nat) (f : LaneSt → LaneSt) (g : Fld) : (s.updLane n f).flag g = s.flag g := by rw [State.flag, State.flag, State.updLane_fld]
@[simp] theorem State.updLane_reg64 (s : State) (n : Nat) (f : LaneSt → LaneSt) (a b : Nat) : (s.updLane n f).reg64 a b = s.reg64 a b := by simp only [State.reg64, State.updLane_reg]
@[simp] theorem State.updLane_ind (s : State) (n : Nat) (f : LaneSt → LaneSt) : (s.updLane n f).ind = s.ind := rfl
@[simp] theorem State.updLane_indw (s : State) (n : Nat) (f : LaneSt → LaneSt) (d w : Nat) : (s.updLane n f).indw d w = s.indw d w := by rw [State.indw, State.indw, State.updLane_ind]
@[simp] theorem State.updLane_ifld (s : State) (n : Nat) (f : LaneSt → LaneSt) (d w lo x : Nat) : (s.updLane n f).ifld d w lo x = s.ifld d w lo x := by rw [State.ifld, State.ifld, State.updLane_indw]
@[simp] theorem State.updLane_pwr (s : State) (n : Nat) (f : LaneSt → LaneSt) : (s.updLane n f).pwr = s.pwr := rfl
@[simp] theorem State.updLane_clk (s : State) (n : Nat) (f : LaneSt → LaneSt) : (s.updLane n f).clk = s.clk := rfl
@[simp] theorem State.updLane_pllLocked (s : State) (n : Nat) (f : LaneSt → LaneSt) (k : Nat) : (s.updLane n f).pllLocked k = s.pllLocked k := rfl

@[simp] theorem State.lane_updLane_same (s : State) (n : Nat) (f : LaneSt → LaneSt) : (s.updLane n f).lane n = f (s.lane n) := smapGet_set_same _ _ _ _

theorem State.lane_updLane_ne (s : State) {n m : Nat} (f : LaneSt → LaneSt) (h : m ≠ n) : (s.updLane n f).lane m = s.lane m := smapGet_set_ne _ _ _ _ _ h

theorem State.lane_of_lanes (e : t.lanes = s.lanes) (n : Nat) : t.lane n = s.lane n := by rw [State.lane, State.lane, e]

@[simp] theorem State.lane_setReg (s : State) (a : Nat) (v : Word) (n : Nat) : (s.setReg a v).lane n = s.lane n :=
  State.lane_of_lanes (State.setReg_lanes s a v) n
@[simp] theorem State.lane_setFld (s : State) (f : Fld) (x n : Nat) : (s.setFld f x).lane n = s.lane n :=
  State.lane_of_lanes (State.setFld_lanes s f x) n
@[simp] theorem State.lane_setFlag (s : State) (f : Fld) (b : Bool) (n : Nat) : (s.setFlag f b).lane n = s.lane n :=
  State.lane_of_lanes (State.setFlag_lanes s f b) n
@[simp] theorem State.lane_raise (s : State) (f : Fld) (n : Nat) : (s.raise f).lane n = s.lane n :=
  State.lane_of_lanes (State.raise_lanes s f) n
@[simp] theorem State.lane_raiseIf (s : State) (c : Bool) (f : Fld) (n : Nat) : (s.raiseIf c f).lane n = s.lane n :=
  State.lane_of_lanes (State.raiseIf_lanes s c f) n
@[simp] theorem State.lane_bump32 (s : State) (a k : Nat) (o : Option Fld) (n : Nat) : (s.bump32 a k o).lane n = s.lane n :=
  State.lane_of_lanes (State.bump32_lanes s a k o) n
@[simp] theorem State.lane_bump64 (s : State) (a k : Nat) (o : Option Fld) (n : Nat) : (s.bump64 a k o).lane n = s.lane n :=
  State.lane_of_lanes (State.bump64_lanes s a k o) n
@[simp] theorem State.lane_setIndw (s : State) (d w : Nat) (v : Word) (n : Nat) : (s.setIndw d w v).lane n = s.lane n :=
  State.lane_of_lanes (State.setIndw_lanes s d w v) n
@[simp] theorem State.lane_setIfld (s : State) (d w lo k x n : Nat) : (s.setIfld d w lo k x).lane n = s.lane n :=
  State.lane_of_lanes (State.setIfld_lanes s d w lo k x) n

theorem LanesKeep.refl (n : Nat) (s : State) : LanesKeep n s s := fun _ _ => rfl

theorem LanesKeep.trans (h : LanesKeep n s t) (g : LanesKeep n t u) : LanesKeep n s u := fun m hm => (g m hm).trans (h m hm)

/-- An operation that leaves the lanes' records alone. -/
theorem LanesKeep.of_lanes (h : LanesKeep n s0 s) (e : t.lanes = s.lanes) : LanesKeep n s0 t := h.trans fun m _ => State.lane_of_lanes e m

theorem LanesKeep.updLane (h : LanesKeep n s0 s) (f : LaneSt → LaneSt) : LanesKeep n s0 (s.updLane n f) :=
  h.trans fun _ hm => State.lane_updLane_ne s f hm

theorem LanesKeep.ite {p : Prop} [Decidable p] (h : LanesKeep n s0 s) (g : LanesKeep n s0 t) : LanesKeep n s0 (if p then s else t) := by
  split
  · exact h
  · exact g

end

/-! ### Indirect words -/

section
variable {ws : List (Nat × Nat)} {s0 s t u : State}

@[simp] theorem State.setIndw_reg (s : State) (d w : Nat) (v : Word) (a : Nat) : (s.setIndw d w v).reg a = s.reg a := by
  rw [State.reg, State.reg, State.setIndw_regs]
@[simp] theorem State.setIndw_fld (s : State) (d w : Nat) (v : Word) (g : Fld) : (s.setIndw d w v).fld g = s.fld g := by
  rw [State.fld, State.fld, State.setIndw_reg]
@[simp] theorem State.setIndw_flag (s : State) (d w : Nat) (v : Word) (g : Fld) : (s.setIndw d w v).flag g = s.flag g := by
  rw [State.flag, State.flag, State.setIndw_fld]
@[simp] theorem State.setIfld_fld (s : State) (d w lo k x : Nat) (g : Fld) : (s.setIfld d w lo k x).fld g = s.fld g :=
  State.setIndw_fld ..
@[simp] theorem State.setIfld_flag (s : State) (d w lo k x : Nat) (g : Fld) : (s.setIfld d w lo k x).flag g = s.flag g :=
  State.setIndw_flag ..

theorem State.indw_of_ind (e : t.ind = s.ind) (d w : Nat) : t.indw d w = s.indw d w := by rw [State.indw, State.indw, e]

theorem State.ifld_of_ind (e : t.ind = s.ind) (d w lo k : Nat) : t.ifld d w lo k = s.ifld d w lo k := by
  rw [State.ifld, State.ifld, State.indw_of_ind e]

@[simp] theorem State.indw_setIndw_same (s : State) (d w : Nat) (v : Word) : (s.setIndw d w v).indw d w = v := by
  rw [State.indw_setIndw, if_pos rfl]

/-- A field of an indirect word just stored reads back, within its width. -/
theorem State.ifld_setIfld_same (s : State) (d w lo k x : Nat) (h : lo + k ≤ 32) : (s.setIfld d w lo k x).ifld d w lo k = x % 2 ^ k := by
  rw [State.ifld, State.setIfld, State.indw_setIndw_same, bits_putBits_same _ _ _ _ h]

/-- A field elsewhere in the domain keeps its value. -/
theorem State.ifld_setIfld_ne (s : State) (d : Nat) {w lo k w' lo' k' : Nat} (x : Nat) (h : lo + k ≤ 32) (a : w' ≠ w ∨ lo + k ≤ lo' ∨ lo' + k' ≤ lo) :
    (s.setIfld d w lo k x).ifld d w' lo' k' = s.ifld d w' lo' k' := by
  rw [State.ifld, State.setIfld, State.indw_setIndw]
  split
  · next e =>
    rw [bits_putBits_disjoint _ _ _ _ _ _ h (a.resolve_left fun n => n e), State.ifld, e]
  · rfl

theorem IndKeep.refl (ws : List (Nat × Nat)) (s : State) : IndKeep ws s s := fun _ _ => rfl

theorem IndKeep.trans (h : IndKeep ws s t) (g : IndKeep ws t u) : IndKeep ws s u := fun k hk => (g k hk).trans (h k hk)

/-- An operation that leaves the indirect words alone. -/
theorem IndKeep.of_ind (h : IndKeep ws s0 s) (e : t.ind = s.ind) : IndKeep ws s0 t := h.trans fun _ _ => by rw [e]

theorem IndKeep.setIndw (h : IndKeep ws s0 s) (d w : Nat) (v : Word) (m : (d, w) ∈ ws) : IndKeep ws s0 (s.setIndw d w v) :=
  h.trans fun _ hk => smapGet_set_ne _ _ _ _ _ (hk _ m).symm

theorem IndKeep.setIfld (h : IndKeep ws s0 s) (d w lo k x : Nat) (m : (d, w) ∈ ws) : IndKeep ws s0 (s.setIfld d w lo k x) := h.setIndw d w _ m

/-- An indirect word outside the list reads as before. -/
theorem IndKeep.indw_eq (h : IndKeep ws s t) (d w : Nat) (n : ∀ p ∈ ws, indKey p.1 p.2 ≠ indKey d w) : t.indw d w = s.indw d w := h _ n

end

end Sys2Proof.Machine
end

section
/-!
SUPPORT. Board-table words of the lanes: presets (R121), bound pairs and fixed settings (R122), and the window that PF1 writes them through
(R58). O13 and O14 follow.
-/
namespace Sys2Proof.Machine
set_option Elab.async false

/-! ### The window's agent (R58, R76) -/

theorem winOwner_eq_pf1 (k : Fin 4) (s : State) : winOwner k s = .pf1 ↔ k = 1 := by
  match k with
  | 0 => exact ⟨fun h => (nomatch h), fun h => (nomatch h)⟩
  | 1 => exact ⟨fun _ => rfl, fun _ => rfl⟩
  | 2 => exact ⟨fun h => (nomatch h), fun h => (nomatch h)⟩
  | 3 => exact ⟨fun h => (nomatch h), fun h => (nomatch h)⟩

theorem targetWrite_of_allowed {k : Fin 4} {code : Nat} {s : State} (f : State → State)
    (h : k = 1 → s.rbit Reg.HOST_PF1_WRITE_EN (code - 1) = true) : targetWrite (winOwner k s) code f s = f s := by
  rw [targetWrite, if_neg]
  rintro ⟨hk, hb⟩
  rw [h ((winOwner_eq_pf1 k s).1 hk)] at hb
  exact absurd hb (by decide)

theorem targetWrite_of_denied {code : Nat} {s : State} (f : State → State) (h : s.rbit Reg.HOST_PF1_WRITE_EN (code - 1) = false) :
    targetWrite (winOwner 1 s) code f s = s.raise F.HOST_INT_STATUS_PF1_DENIED := by
  rw [targetWrite, if_pos ⟨rfl, h⟩]

/-! ### Presets (R121) -/

/-- The sum of the magnitudes of a data lane's taps, from its words 0 and 1. -/
def dlnTaps (w0 w1 : Word) : Nat := tapMag (bits w0 0 8) + tapMag (bits w0 8 8) + tapMag (bits w0 16 8) + tapMag (bits w0 24 8) + bits w1 0 8

theorem dlnPresetApply_fits {n : Nat} {d : Word} {s : State} (h : dlnTaps (s.indw 2 (n * 32)) d ≤ 128) :
    dlnPresetApply n d s = (s.setIndw 2 (n * 32 + 1) (d &&& 0xFF)).updLane n fun l => { l with preset0 := s.indw 2 (n * 32), preset1 := d &&& 0xFF } :=
  if_pos h

theorem dlnPresetApply_exceeds {n : Nat} {d : Word} {s : State} (h : 128 < dlnTaps (s.indw 2 (n * 32)) d) :
    dlnPresetApply n d s = (s.setIndw 2 (n * 32 + 1) (d &&& 0xFF)).raise (dlnCause n 20) :=
  if_neg (Nat.not_le.2 h)

/-- The taps of an auxiliary lane's word 0 are in the bits that it keeps. -/
theorem bits_alnPreset (d : Word) (lo : Nat) (h : lo + 8 ≤ 24) : bits (d &&& 0xFFFFFF#32) lo 8 = bits d lo 8 := by
  have hm := bits_merge_covered 0#32 d 0xFFFFFF#32 lo 8 fun i hi => by
    have hk : ∀ k < 24, (0xFFFFFF#32 : Word).getLsbD k = true := by decide
    exact hk _ (by omega)
  rwa [BitVec.zero_and, BitVec.zero_or] at hm

/-- The sum of the magnitudes of an auxiliary lane's taps. -/
def alnTaps (w0 : Word) : Nat := tapMag (bits w0 0 8) + bits w0 8 8 + tapMag (bits w0 16 8)

theorem alnTaps_kept (d : Word) : alnTaps (d &&& 0xFFFFFF#32) = alnTaps d := by
  rw [alnTaps, alnTaps, bits_alnPreset d 0 (by decide), bits_alnPreset d 8 (by decide), bits_alnPreset d 16 (by decide)]

theorem alnPreset_fits {m : Nat} {d : Word} {s : State} (h : alnTaps d ≤ 128) :
    alnPreset m d s = (s.setIndw 3 (m * 16) (d &&& 0xFFFFFF)).updLane (768 + m) fun l => { l with preset0 := d &&& 0xFFFFFF } :=
  if_pos ((alnTaps_kept d).trans_le h)

theorem alnPreset_exceeds {m : Nat} {d : Word} {s : State} (h : 128 < alnTaps d) :
    alnPreset m d s = (s.setIndw 3 (m * 16) (d &&& 0xFFFFFF)).raise (F.ALN_INT_STATUS_CFG_REJECT m) :=
  if_neg (Nat.not_le.2 (h.trans_eq (alnTaps_kept d).symm))

theorem dlnCause_fits (n : Nat) {b : Nat} (hb : b ≤ 28) : (dlnCause n b).lo + (dlnCause n b).w ≤ 32 := by
  have := Nat.mod_lt n (by decide : 0 < 4)
  simp only [dlnCause]
  omega

theorem flag_raise_dlnCause (s : State) (n : Nat) {b : Nat} (hb : b ≤ 28) : (s.raise (dlnCause n b)).flag (dlnCause n b) = true :=
  State.flag_raise_same s _ (dlnCause_fits n hb) rfl

/-- A stored word alone changes the indirect words alone. -/
theorem setIndw_within (s : State) (d w : Nat) (v : Word) : Within [.ind] s (s.setIndw d w v) := (State.setIndw_moves (.refl _ s) d w v (.head _)).within

/-- Settles O13: a preset's words are stored as written, and its application is the sum of its taps' magnitudes tested against 128. -/
theorem presetsApplyWhole : Obligations.PresetsApplyWhole := by
  refine ⟨fun s k n d hm hk => ?_, fun s k n d hm hk ht => ?_, fun s k n d hm hk ht => ?_, fun s k m d hm hk ht => ?_, fun s k m d hm hk ht => ?_,
    fun s n d hm hk => ?_⟩
  · refine answers_main rfl hm fun t ht => ?_
    rw [targetWrite_of_allowed _ hk] at ht
    subst ht
    exact ⟨State.indw_setIndw_same .., State.setIndw_lanes .., (IndKeep.refl _ s).setIndw _ _ _ (by simp), setIndw_within _ _ _ _⟩
  · refine answers_main rfl hm fun t e => ?_
    rw [targetWrite_of_allowed _ hk, dlnWordWrite, dlnPresetApply_fits ht] at e
    subst e
    exact ⟨by simp, by simp, ((LanesKeep.refl _ s).of_lanes (State.setIndw_lanes ..)).updLane _,
      ((IndKeep.refl _ s).setIndw _ _ _ (by simp)).of_ind (State.updLane_ind ..),
      (State.updLane_moves (State.setIndw_moves (.refl _ s) _ _ _ (by decide)) _ _ (by decide)).within⟩
  · refine answers_main rfl hm fun t e => ?_
    rw [targetWrite_of_allowed _ hk, dlnWordWrite, dlnPresetApply_exceeds ht] at e
    subst e
    exact ⟨by simp, by rw [State.indw_of_ind (State.raise_ind ..), State.indw_setIndw_same], flag_raise_dlnCause _ _ (by decide),
      ((IndKeep.refl _ s).setIndw _ _ _ (by simp)).of_ind (State.raise_ind ..), ((Touches.refl _ _ s).setIndw _ _ _ (.head _)).raise _ (.head _)⟩
  · refine answers_main rfl hm fun t e => ?_
    rw [targetWrite_of_allowed _ hk, alnWordWrite, alnPreset_fits ht] at e
    subst e
    exact ⟨by simp, by simp, ((LanesKeep.refl _ s).of_lanes (State.setIndw_lanes ..)).updLane _,
      ((IndKeep.refl _ s).setIndw _ _ _ (by simp)).of_ind (State.updLane_ind ..),
      (State.updLane_moves (State.setIndw_moves (.refl _ s) _ _ _ (by decide)) _ _ (by decide)).within⟩
  · refine answers_main rfl hm fun t e => ?_
    rw [targetWrite_of_allowed _ hk, alnWordWrite, alnPreset_exceeds ht] at e
    subst e
    exact ⟨by simp, by rw [State.indw_of_ind (State.raise_ind ..), State.indw_setIndw_same], State.flag_raise_same _ _ (of_decide_eq_true rfl) rfl,
      ((IndKeep.refl _ s).setIndw _ _ _ (by simp)).of_ind (State.raise_ind ..), ((Touches.refl _ _ s).setIndw _ _ _ (.head _)).raise _ (.head _)⟩
  · refine answers_main rfl hm fun t e => ?_
    rw [targetWrite_of_denied _ hk] at e
    subst e
    exact ⟨State.flag_raise_same _ _ (by decide) rfl, (Touches.refl _ _ s).raise _ (.head _)⟩

/-! ### Bound pairs (R122) -/

theorem pairFits_iff {i : Nat} (hi : i < 6) (lo up : Nat) : pairFits i lo up = true ↔
    paramVal i lo ≤ paramVal i up ∧ (paramRange i).1 ≤ paramVal i lo ∧ paramVal i up ≤ (paramRange i).2 := by
  match i, hi with
  | 0, _ | 1, _ => simp [pairFits, paramVal, paramRange, nth]
  | 2, _ | 3, _ | 4, _ | 5, _ => simp [pairFits, paramVal, paramRange, nth]

/-- The bound pair in half `h` of word `2 + w` is that of parameter `2 w + h`. -/
theorem boundAt_half (w : Fin 3) (h : Fin 2) : boundAt (2 * w + h) = (2 + w.val, 16 * h.val) := by
  revert w h
  decide

theorem boundPair_fits {n : Nat} {w : Fin 3} {h : Fin 2} {d : Word}
    (hp : pairFits (2 * w + h) (bits d (16 * h) 8) (bits d (16 * h + 8) 8) = true) (s : State) :
    boundPair n (2 * w + h) d s = s.setIfld 2 (n * 32 + 2 + w) (16 * h) 16 (bits d (16 * h) 16) := by
  rw [pairFits_iff (by omega)] at hp
  rw [boundPair, boundAt_half]
  exact (if_pos hp).trans (by rw [Nat.add_assoc])

theorem boundPair_fails {n : Nat} {w : Fin 3} {h : Fin 2} {d : Word}
    (hp : pairFits (2 * w + h) (bits d (16 * h) 8) (bits d (16 * h + 8) 8) = false) (s : State) :
    boundPair n (2 * w + h) d s = s.raise (dlnCause n 20) := by
  have hn := mt (pairFits_iff (by omega) _ _).2 (ne_true_of_eq_false hp)
  rw [boundPair, boundAt_half]
  exact if_neg hn

/-- What one bound pair of a written word does: stored where it fits, or CFG_REJECT; the word's other half stays. -/
theorem boundPair_shows (n : Nat) (w : Fin 3) (h : Fin 2) (d : Word) (s : State) {fits : Bool} {t : State}
    (hf : fits = pairFits (2 * w + h) (bits d (16 * h) 8) (bits d (16 * h + 8) 8)) (ht : t = boundPair n (2 * w + h) d s) :
    t.ifld 2 (n * 32 + 2 + w) (16 * h) 16 = (if fits then bits d (16 * h) 16 else s.ifld 2 (n * 32 + 2 + w) (16 * h) 16) ∧
    (∀ g : Fin 2, g ≠ h → t.ifld 2 (n * 32 + 2 + w) (16 * g) 16 = s.ifld 2 (n * 32 + 2 + w) (16 * g) 16) ∧
    t.flag (dlnCause n 20) = (s.flag (dlnCause n 20) || !fits) ∧
    IndKeep [(2, n * 32 + 2 + w)] s t ∧ Touches [.ind] [dlnCause n 20] s t := by
  cases fits
  · rw [boundPair_fails hf.symm] at ht
    subst ht
    exact ⟨State.ifld_of_ind (State.raise_ind ..) .., fun g _ => State.ifld_of_ind (State.raise_ind ..) ..,
      by rw [flag_raise_dlnCause _ _ (by decide), Bool.not_false, Bool.or_true],
      (IndKeep.refl _ s).of_ind (State.raise_ind ..), (Touches.refl _ _ s).raise _ (.head _)⟩
  · rw [boundPair_fits hf.symm] at ht
    subst ht
    refine ⟨?_, fun g hg => State.ifld_setIfld_ne _ _ _ (by omega) (Or.inr (by omega)), ?_, (IndKeep.refl _ s).setIfld _ _ _ _ _ (.head _),
      (Touches.refl _ _ s).setIfld _ _ _ _ _ (.head _)⟩
    · exact (State.ifld_setIfld_same _ _ _ _ _ _ (by omega)).trans (Nat.mod_eq_of_lt (bits_lt ..))
    · rw [State.setIfld_flag, Bool.not_true, Bool.or_false]

theorem dlnWordWrite_pairs (n : Nat) (w : Fin 3) (d : Word) (s : State) :
    dlnWordWrite n (2 + w) d s = boundPair n (2 * w + (1 : Fin 2)) d (boundPair n (2 * w + (0 : Fin 2)) d s) := by
  match w with
  | 0 | 1 | 2 => rfl

/-! ### Fixed settings of an auxiliary lane (R122) -/

theorem alnSetting_shows (m lo up : Nat) (d : Word) (s : State) (hl : lo + 8 ≤ 32) {t : State} (ht : t = alnSetting m lo up d s) :
    t.ifld 3 (m * 16 + 1) lo 8 = (if bits d lo 8 ≤ up then bits d lo 8 else s.ifld 3 (m * 16 + 1) lo 8) ∧
    (∀ lo', lo + 8 ≤ lo' ∨ lo' + 8 ≤ lo → t.ifld 3 (m * 16 + 1) lo' 8 = s.ifld 3 (m * 16 + 1) lo' 8) ∧
    t.flag (F.ALN_INT_STATUS_CFG_REJECT m) = (s.flag (F.ALN_INT_STATUS_CFG_REJECT m) || decide (up < bits d lo 8)) ∧
    IndKeep [(3, m * 16 + 1)] s t ∧ Touches [.ind] [F.ALN_INT_STATUS_CFG_REJECT m] s t := by
  by_cases hb : bits d lo 8 ≤ up
  · rw [alnSetting, if_pos hb] at ht
    subst ht
    refine ⟨?_, fun lo' h => State.ifld_setIfld_ne _ _ _ hl (Or.inr h), ?_, (IndKeep.refl _ s).setIfld _ _ _ _ _ (.head _),
      (Touches.refl _ _ s).setIfld _ _ _ _ _ (.head _)⟩
    · rw [if_pos hb, State.ifld_setIfld_same _ _ _ _ _ _ hl, Nat.mod_eq_of_lt (bits_lt ..)]
    · rw [State.setIfld_flag, decide_eq_false (Nat.not_lt.2 hb), Bool.or_false]
  · rw [alnSetting, if_neg hb] at ht
    subst ht
    refine ⟨?_, fun lo' _ => State.ifld_of_ind (State.raise_ind ..) .., ?_, (IndKeep.refl _ s).of_ind (State.raise_ind ..),
      (Touches.refl _ _ s).raise _ (.head _)⟩
    · rw [if_neg hb, State.ifld_of_ind (State.raise_ind ..)]
    · rw [State.flag_raise_same _ _ (of_decide_eq_true rfl) rfl, decide_eq_true (Nat.not_le.1 hb), Bool.or_true]

/-- Settles O14: the two pairs of the word, and the two fixed settings, are each stored or rejected by themselves. -/
theorem boundPairsAreChecked : Obligations.BoundPairsAreChecked := by
  refine ⟨fun s k n w d hm hk => answers_main rfl hm fun t e => ?_, fun s k m w d hm hk => answers_main rfl hm fun t e => ?_⟩
  · rw [targetWrite_of_allowed _ hk, dlnWordWrite_pairs] at e
    obtain ⟨low, high0, flag0, ind0, touch0⟩ := boundPair_shows n w 0 d s rfl rfl
    obtain ⟨high, low1, flag1, ind1, touch1⟩ := boundPair_shows n w 1 d _ rfl e.symm
    have hlow := (low1 0 (by decide)).trans low
    rw [high0 1 (by decide)] at high
    refine ⟨fun h hh hp => ?_, fun h hh hp => ?_, by rw [flag1, flag0]; rfl, ind0.trans ind1, touch0.trans touch1⟩
    · rcases List.mem_cons.1 hh with rfl | hh
      · exact hlow.trans (if_pos hp)
      · obtain rfl := List.mem_singleton.1 hh
        exact high.trans (if_pos hp)
    · rcases List.mem_cons.1 hh with rfl | hh
      · exact hlow.trans (if_neg (ne_true_of_eq_false hp))
      · obtain rfl := List.mem_singleton.1 hh
        exact high.trans (if_neg (ne_true_of_eq_false hp))
  · rw [targetWrite_of_allowed _ hk, alnWordWrite] at e
    obtain ⟨low, high0, flag0, ind0, touch0⟩ := alnSetting_shows m 0 15 d s (by decide) rfl
    obtain ⟨high, low1, flag1, ind1, touch1⟩ := alnSetting_shows m 8 63 d _ (by decide) e.symm
    refine ⟨(low1 0 (by decide)).trans low, ?_, by rw [flag1, flag0], ind0.trans ind1, touch0.trans touch1⟩
    rw [high, high0 8 (by decide)]

end Sys2Proof.Machine
end

section
/-!
SUPPORT. Data lanes: which of their fields lie apart, what their shown state and their adapted values are after each operation (R125 to R132).
O12 follows.
-/
namespace Sys2Proof.Machine
set_option Elab.async false

/-! ### Fields of a data lane

The registers of lane `n` are at `k` above DLN_LANE_CTRL, those of its page at `k` from the page's start. -/

theorem lane_apart {n k k' lo w lo' w' : Nat} (h : (Nat.ble (lo + w) 32 && (k != k' || Nat.ble (lo + w) lo' || Nat.ble (lo' + w') lo)) = true) :
    Apart ⟨k + 0x40040 + 1024 * (n / 4) + 32 * (n % 4), lo, w⟩ ⟨k' + 0x40040 + 1024 * (n / 4) + 32 * (n % 4), lo', w'⟩ := by
  simp only [Bool.and_eq_true, Bool.or_eq_true, bne_iff_ne, Nat.ble_eq] at h
  simp only [Apart]
  omega

theorem lane_apart_page {n k j lo w lo' w' : Nat} (h : (Nat.ble (lo + w) 32 && Nat.blt j 64) = true) :
    Apart ⟨k + 0x40040 + 1024 * (n / 4) + 32 * (n % 4), lo, w⟩ ⟨j + 0x40000 + 1024 * (n / 4), lo', w'⟩ := by
  simp only [Bool.and_eq_true, Nat.ble_eq, Nat.blt_eq] at h
  simp only [Apart]
  omega

theorem dlnCause_apart_lane {n k b lo w : Nat} (hb : Nat.ble b 28 = true) :
    Apart (dlnCause n b) ⟨k + 0x40040 + 1024 * (n / 4) + 32 * (n % 4), lo, w⟩ := by
  have := Nat.le_of_ble_eq_true hb
  simp only [Apart, dlnCause, Reg.DLN_INT_STATUS]
  omega

theorem dlnCause_apart {n b c : Nat} (h : (Nat.ble b 28 && (Nat.ble (b + 4) c || Nat.ble (c + 4) b)) = true) : Apart (dlnCause n b) (dlnCause n c) := by
  simp only [Bool.and_eq_true, Bool.or_eq_true, Nat.ble_eq] at h
  simp only [Apart, dlnCause, Reg.DLN_INT_STATUS]
  omega

/-! ### The shown state (R130, R132) -/

/-- ADAPT_STATE as `showAdapt` shows it. -/
theorem fld_showAdapt (n : Nat) (s : State) : (showAdapt n s).fld (F.DLN_LANE_STATUS_ADAPT_STATE n) =
    if s.flag (F.DLN_LANE_CTRL_ADAPT_HOLD n) then 4 else if (s.lane n).frozen then 3 else (s.lane n).phase % 8 := by
  rw [showAdapt, State.fld_setFld_same _ _ _ (of_decide_eq_true rfl)]
  split
  · rfl
  · split <;> rfl

theorem fld_showAdapt_ne (n : Nat) (s : State) (g : Fld) (h : Apart (F.DLN_LANE_STATUS_ADAPT_STATE n) g) : (showAdapt n s).fld g = s.fld g :=
  State.fld_setFld _ _ _ _ h

theorem flag_showAdapt_ne (n : Nat) (s : State) (g : Fld) (h : Apart (F.DLN_LANE_STATUS_ADAPT_STATE n) g) : (showAdapt n s).flag g = s.flag g :=
  State.flag_setFld _ _ _ _ h

@[simp] theorem showAdapt_lanes (n : Nat) (s : State) : (showAdapt n s).lanes = s.lanes := by rw [showAdapt, State.setFld_lanes]
@[simp] theorem showAdapt_ind (n : Nat) (s : State) : (showAdapt n s).ind = s.ind := by rw [showAdapt, State.setFld_ind]
@[simp] theorem showAdapt_lane (n : Nat) (s : State) (m : Nat) : (showAdapt n s).lane m = s.lane m := State.lane_of_lanes (showAdapt_lanes n s) m

theorem Touches.showAdapt {ps : List Part} {fs : List Fld} {s0 s : State} (h : Touches ps fs s0 s) (n : Nat)
    (m : F.DLN_LANE_STATUS_ADAPT_STATE n ∈ fs) : Touches ps fs s0 (showAdapt n s) := h.setFld _ _ m

/-! ### Live values (R119, R128) -/

/-- The byte that holds the live value of parameter `i`. -/
def liveByte (s : State) (n i : Nat) : Nat := s.ifld 2 (n * 32 + 16 + i / 4) (8 * (i % 4)) 8

/-- What taking a value of lane `n` may change beside the live values: the record of bounds arrived at, and ADAPT_CLAMP, which is only set. -/
structure AdaptFrame (n : Nat) (s t : State) : Prop where
  ind : IndKeep [(2, n * 32 + 16), (2, n * 32 + 17)] s t
  touch : Touches [.ind, .lanes] [dlnCause n 8] s t
  lanes : LanesKeep n s t
  bound : ∃ b, t.lane n = { s.lane n with atBound := b }
  clamp : s.flag (dlnCause n 8) = true → t.flag (dlnCause n 8) = true

section
variable {n : Nat} {s t u : State}

theorem AdaptFrame.refl (n : Nat) (s : State) : AdaptFrame n s s := ⟨.refl _ s, .refl _ _ s, .refl n s, ⟨_, rfl⟩, id⟩

theorem AdaptFrame.trans (h : AdaptFrame n s t) (g : AdaptFrame n t u) : AdaptFrame n s u := by
  obtain ⟨b, hb⟩ := h.bound
  obtain ⟨c, hc⟩ := g.bound
  exact ⟨h.ind.trans g.ind, h.touch.trans g.touch, h.lanes.trans g.lanes, ⟨c, by rw [hc, hb]⟩, g.clamp ∘ h.clamp⟩

theorem boundAt_word_lt (i : Nat) : (boundAt i).1 < 16 := by
  match i with
  | 0 | 1 | 2 | 3 | 4 | 5 => decide
  | _ + 6 => exact (by decide : 2 < 16)

/-- The bounds lie in other words than the live values. -/
theorem AdaptFrame.boundWord (h : AdaptFrame n s t) (i lo : Nat) : t.ifld 2 (n * 32 + (boundAt i).1) lo 8 = s.ifld 2 (n * 32 + (boundAt i).1) lo 8 := by
  have hi := boundAt_word_lt i
  rw [State.ifld, State.ifld, h.ind.indw_eq _ _ (by simp only [List.forall_mem_cons, indKey]; exact ⟨by omega, by omega, fun _ h => (nomatch h)⟩)]

theorem AdaptFrame.boundMin (h : AdaptFrame n s t) (i : Nat) : boundMin t n i = boundMin s n i := congrArg _ (h.boundWord i _)
theorem AdaptFrame.boundMax (h : AdaptFrame n s t) (i : Nat) : boundMax t n i = boundMax s n i := congrArg _ (h.boundWord i _)

/-- Storing a live value changes that byte alone. -/
theorem setLive_frame (i : Nat) (hi : i < 6) (x : Int) (s : State) : AdaptFrame n s (setLive n i x s) where
  ind := (IndKeep.refl _ s).setIfld _ _ _ _ _ (by
    match i, hi with
    | 0, _ | 1, _ | 2, _ | 3, _ | 4, _ | 5, _ => simp)
  touch := (Touches.refl _ _ s).setIfld _ _ _ _ _ (.head _)
  lanes := (LanesKeep.refl n s).of_lanes (State.setIfld_lanes ..)
  bound := ⟨_, rfl⟩
  clamp := fun h => (State.setIfld_flag ..).trans h

theorem liveByte_setLive_same (i : Nat) (x : Int) (s : State) : liveByte (setLive n i x s) n i = toBits 8 x := by
  have hx : toBits 8 x < 2 ^ 8 := by
    unfold toBits
    omega
  rw [liveByte, setLive, State.ifld_setIfld_same _ _ _ _ _ _ (by omega), Nat.mod_eq_of_lt hx]

theorem liveByte_setLive_ne {i j : Nat} (h : j ≠ i) (x : Int) (s : State) : liveByte (setLive n i x s) n j = liveByte s n j :=
  State.ifld_setIfld_ne _ _ _ (by omega) (by omega)

end

/-! ### A value for each parameter in turn -/

/-- From `s` to `t` no live value but that of parameter `i` changed. -/
structure TakesLive (n i : Nat) (s t : State) : Prop extends AdaptFrame n s t where
  others : ∀ j, j ≠ i → liveByte t n j = liveByte s n j

/-- The first `k` parameters each taken once: parameter `i` at a state `u` that holds its live value and the bounds as `s` does. -/
theorem forUpto_takesLive {n : Nat} {f : Nat → State → State} (hf : ∀ i < 6, ∀ u, TakesLive n i u (f i u)) (s : State) (k : Nat) (hk : k ≤ 6) :
    AdaptFrame n s (forUpto k f s) ∧ (∀ j, k ≤ j → liveByte (forUpto k f s) n j = liveByte s n j) ∧
      ∀ i < k, ∃ u, AdaptFrame n s u ∧ liveByte u n i = liveByte s n i ∧ AdaptFrame n (f i u) (forUpto k f s) ∧
        liveByte (forUpto k f s) n i = liveByte (f i u) n i := by
  induction k with
  | zero => exact ⟨.refl n s, fun _ _ => rfl, fun i hi => absurd hi (Nat.not_lt_zero i)⟩
  | succ k ih =>
    obtain ⟨frame, rest, done⟩ := ih (by omega)
    have hstep : forUpto (k + 1) f s = f k (forUpto k f s) := by
      rw [forUpto, upto, List.range_succ, List.foldl_append]
      rfl
    have hk := hf k (by omega) (forUpto k f s)
    rw [hstep]
    refine ⟨frame.trans hk.toAdaptFrame, fun j hj => (hk.others j (by omega)).trans (rest j (by omega)), fun i hi => ?_⟩
    by_cases e : i = k
    · subst e
      exact ⟨forUpto i f s, frame, rest i (Nat.le_refl i), .refl n _, rfl⟩
    · obtain ⟨u, hu, hl, hg, hb⟩ := done i (by omega)
      exact ⟨u, hu, hl, hg.trans hk.toAdaptFrame, (hk.others i e).trans hb⟩

theorem adaptAll_eq_forUpto (one : Nat → Int → State → State) (v : Adapt) (s : State) :
    adaptAll one v s = forUpto 6 (fun i => one i (nth 0 [v.ctle, v.vga, v.dfe1, v.fpre1, v.fpost1, v.fpost2] i)) s := rfl

/-- A value taken within its bounds is its live value; one outside them that moves the live value sets ADAPT_CLAMP. -/
theorem adaptTo_eq (n i : Nat) (x : Int) (s : State) : ∃ c a,
    adaptTo n i x s = ((setLive n i (clampInt (boundMin s n i) (boundMax s n i) x) s).raiseIf c (dlnCause n 8)).updLane n
      (fun l => { l with atBound := setNth l.atBound i a }) ∧
    ((x < boundMin s n i ∨ boundMax s n i < x) → liveVal s n i ≠ clampInt (boundMin s n i) (boundMax s n i) x → c = true) := by
  refine ⟨_, _, rfl, fun hx hl => ?_⟩
  rw [decide_eq_false hl, Bool.false_and, Bool.not_false, Bool.and_true, decide_eq_true_eq]
  split
  · decide
  · next hlo => rw [if_pos (hx.resolve_left hlo)]; decide

section
variable {n i : Nat} {s : State}

theorem adaptTo_takesLive (hi : i < 6) (x : Int) (s : State) : TakesLive n i s (adaptTo n i x s) := by
  obtain ⟨c, a, e, -⟩ := adaptTo_eq n i x s
  have hl := setLive_frame (n := n) i hi (clampInt (boundMin s n i) (boundMax s n i) x) s
  rw [e]
  refine ⟨hl.trans ⟨((IndKeep.refl _ _).of_ind (State.raiseIf_ind ..)).of_ind (State.updLane_ind ..),
    ((Touches.refl _ _ _).raiseIf _ _ fun _ => .head _).updLane _ _ (.tail _ (.head _)),
    ((LanesKeep.refl n _).of_lanes (State.raiseIf_lanes ..)).updLane _, ⟨setNth (s.lane n).atBound i a, ?_⟩, fun h => ?_⟩, fun j hj => ?_⟩
  · rw [State.lane_updLane_same, State.lane_raiseIf]
    rfl
  · rw [State.updLane_flag, State.flag_raiseIf_same _ _ _ (dlnCause_fits n (by decide)) rfl, h, Bool.or_true]
  · refine Eq.trans ?_ (liveByte_setLive_ne hj (clampInt (boundMin s n i) (boundMax s n i) x) s)
    rw [liveByte, State.updLane_ifld]
    exact State.ifld_of_ind (State.raiseIf_ind ..) ..

theorem liveByte_adaptTo (x : Int) (s : State) : liveByte (adaptTo n i x s) n i = toBits 8 (clampInt (boundMin s n i) (boundMax s n i) x) := by
  obtain ⟨c, a, e, -⟩ := adaptTo_eq n i x s
  rw [e, ← liveByte_setLive_same (n := n) i _ s, liveByte, State.updLane_ifld]
  exact State.ifld_of_ind (State.raiseIf_ind ..) ..

/-- A live value that new bounds move sets ADAPT_CLAMP. -/
theorem adaptTo_live_clamps (hl : liveVal s n i < boundMin s n i ∨ boundMax s n i < liveVal s n i) :
    (adaptTo n i (liveVal s n i) s).flag (dlnCause n 8) = true := by
  obtain ⟨c, a, e, hc⟩ := adaptTo_eq n i (liveVal s n i) s
  have hne : liveVal s n i ≠ clampInt (boundMin s n i) (boundMax s n i) (liveVal s n i) := by
    unfold clampInt
    split
    · omega
    · split <;> omega
  rw [e, State.updLane_flag, hc hl hne, State.flag_raiseIf_same _ _ _ (dlnCause_fits n (by decide)) rfl, Bool.true_or]

end

/-- The end of the coarse state: each value within its bounds (R126). -/
theorem adaptAll_adaptTo_shows (n : Nat) (v : Adapt) (s : State) :
    AdaptFrame n s (adaptAll (adaptTo n) v s) ∧ ∀ i < 6, liveByte (adaptAll (adaptTo n) v s) n i =
      toBits 8 (clampInt (boundMin s n i) (boundMax s n i) (nth 0 [v.ctle, v.vga, v.dfe1, v.fpre1, v.fpost1, v.fpost2] i)) := by
  rw [adaptAll_eq_forUpto]
  obtain ⟨frame, -, each⟩ := forUpto_takesLive (f := fun i => adaptTo n i (nth 0 [v.ctle, v.vga, v.dfe1, v.fpre1, v.fpost1, v.fpost2] i))
    (fun i hi u => adaptTo_takesLive hi _ u) s 6 le_rfl
  refine ⟨frame, fun i hi => ?_⟩
  obtain ⟨u, hu, -, -, hb⟩ := each i hi
  rw [hb, liveByte_adaptTo, hu.boundMin, hu.boundMax]

/-- One update of the tracking state: each value within its bounds, or the live value moved to the nearer of new bounds with ADAPT_CLAMP (R128). -/
theorem adaptUpdate_shows (n : Nat) (v : Adapt) (s : State) :
    AdaptFrame n s (adaptUpdate n v s) ∧
    (∀ i < 6, liveByte (adaptUpdate n v s) n i = toBits 8 (clampInt (boundMin s n i) (boundMax s n i)
      (if boundMin s n i ≤ liveVal s n i ∧ liveVal s n i ≤ boundMax s n i then nth 0 [v.ctle, v.vga, v.dfe1, v.fpre1, v.fpost1, v.fpost2] i else liveVal s n i))) ∧
    ∀ i < 6, (liveVal s n i < boundMin s n i ∨ boundMax s n i < liveVal s n i) →
      (adaptUpdate n v s).flag (dlnCause n 8) = true := by
  rw [adaptUpdate, adaptAll_eq_forUpto]
  obtain ⟨frame, -, each⟩ := forUpto_takesLive (f := fun i => adaptOne n i (nth 0 [v.ctle, v.vga, v.dfe1, v.fpre1, v.fpost1, v.fpost2] i))
    (fun i hi u => adaptTo_takesLive hi _ u) s 6 le_rfl
  refine ⟨frame, fun i hi => ?_, fun i hi hl => ?_⟩
  · obtain ⟨u, hu, hl, -, hb⟩ := each i hi
    have hv : liveVal u n i = liveVal s n i := congrArg _ hl
    rw [hb, adaptOne, liveByte_adaptTo, hu.boundMin, hu.boundMax, hv]
  · obtain ⟨u, hu, hlive, hg, -⟩ := each i hi
    have hv : liveVal u n i = liveVal s n i := congrArg _ hlive
    rw [← hu.boundMin, ← hu.boundMax, ← hv] at hl
    refine hg.clamp ?_
    rw [adaptOne, if_neg (by omega)]
    exact adaptTo_live_clamps hl

/-! ### Writes of DLN_LANE_CTRL (R114, R126, R132, R135) -/

/-- The state with a write of `DLN_LANE_CTRL` stored, before what it sets off. -/
def dlnCtrlStored (n : Nat) (d : Word) (s : State) : State :=
  s.setReg (Reg.DLN_LANE_CTRL n) ((s.reg (Reg.DLN_LANE_CTRL n) &&& ~~~0x17F#32) ||| (d &&& 0x17F#32))

theorem dlnCtrlWrite_answers {c : Instr} {s : State} {ag : Agent} {n : Nat} {d : Word} {P : State → Prop}
    (hx : exec c s = whenMain s (regWrite ag (Reg.DLN_LANE_CTRL n) Rd.DLN_LANE_CTRL (actDlnLaneCtrl n) allBits d)) (hm : s.pwr.mainUp = true)
    (hw : pf1Denied ag (Reg.DLN_LANE_CTRL n) s = false)
    (h : ∀ t, actDlnLaneCtrl n (s.reg (Reg.DLN_LANE_CTRL n)) d (dlnCtrlStored n d s) = t → P t) : Answers c s P :=
  answers_main hx hm fun t e => h t (by
    rw [regWrite_of_allowed hw, regStore_eq, regStored_plain _ _ _ _ _ rfl rfl rfl, merge_allBits] at e
    exact e)

theorem bits_or_clear {d m : Word} {lo w : Nat} (h : ∀ i < w, m.getLsbD (lo + i) = false) : bits (d ||| m) lo w = bits d lo w := by
  apply Nat.eq_of_testBit_eq
  intro i
  rw [testBit_bits, testBit_bits, testBit_or]
  by_cases hi : i < w
  · have hz : m.toNat.testBit (lo + i) = false := h i hi
    rw [hz, Bool.or_false]
  · simp [hi]

theorem bits_and_full {d m : Word} {lo w : Nat} (h : ∀ i < w, m.getLsbD (lo + i) = true) : bits (d &&& m) lo w = bits d lo w := by
  apply Nat.eq_of_testBit_eq
  intro i
  rw [testBit_bits, testBit_bits, testBit_and]
  by_cases hi : i < w
  · have hz : m.toNat.testBit (lo + i) = true := h i hi
    rw [hz, Bool.and_true]
  · simp [hi]

theorem bit_eq_getLsbD (v : Word) (i : Nat) : bit v i = v.getLsbD i := rfl

section
variable (n : Nat) (d : Word) (s : State)

/-- A field of the control register that the mask covers is as written. -/
theorem fld_dlnCtrlStored {lo w : Nat} (h : ∀ i < w, (0x17F#32).getLsbD (lo + i) = true) :
    (dlnCtrlStored n d s).fld ⟨Reg.DLN_LANE_CTRL n, lo, w⟩ = bits d lo w :=
  (State.fld_setReg_same s _ ⟨Reg.DLN_LANE_CTRL n, lo, w⟩).trans (bits_merge_covered _ _ _ _ _ h)

theorem flag_dlnCtrlStored {lo : Nat} (h : (0x17F#32).getLsbD lo = true) : (dlnCtrlStored n d s).flag ⟨Reg.DLN_LANE_CTRL n, lo, 1⟩ = d.getLsbD lo := by
  rw [State.flag_eq, fld_dlnCtrlStored, decide_bits_one]
  intro i hi
  obtain rfl := Nat.lt_one_iff.1 hi
  exact h

theorem dlnCtrlStored_touches : Touches [] [whole (Reg.DLN_LANE_CTRL n)] s (dlnCtrlStored n d s) := (Touches.refl _ _ s).setReg _ _ (.head _)

@[simp] theorem dlnCtrlStored_lanes : (dlnCtrlStored n d s).lanes = s.lanes := State.setReg_lanes ..
@[simp] theorem dlnCtrlStored_lane (m : Nat) : (dlnCtrlStored n d s).lane m = s.lane m := State.lane_setReg ..
@[simp] theorem dlnCtrlStored_ind : (dlnCtrlStored n d s).ind = s.ind := State.setReg_ind ..
@[simp] theorem dlnCtrlStored_pllLocked (k : Nat) : (dlnCtrlStored n d s).pllLocked k = s.pllLocked k := rfl

end

section
variable {n : Nat} {s : State} {old raw : Word}

theorem dlnLoopback_same (o : Nat) (s : State) : dlnLoopback n o o s = s := by
  simp [dlnLoopback]

/-- A write with EN before and after it and ADAPT_RESTART 0. -/
theorem actDlnLaneCtrl_on (h0 : bit old 0 = true) (h1 : bit raw 0 = true) (h7 : bit raw 7 = false) :
    actDlnLaneCtrl n old raw s = showAdapt n (dlnLoopback n (bits old 4 2) (bits raw 4 2) s) := by
  simp [actDlnLaneCtrl, h0, h1, h7]

theorem actDlnLaneCtrl_restart (h0 : bit old 0 = true) (h1 : bit raw 0 = true) (h7 : bit raw 7 = true) (hl : bits old 4 2 = bits raw 4 2) :
    actDlnLaneCtrl n old raw s = showAdapt n (startCoarse n s) := by
  simp [actDlnLaneCtrl, h0, h1, h7, hl, dlnLoopback_same]

theorem actDlnLaneCtrl_rise (h0 : bit old 0 = false) (h1 : bit raw 0 = true) (hl : bits old 4 2 = bits raw 4 2) :
    actDlnLaneCtrl n old raw s = showAdapt n (dlnRise n s) := by
  simp [actDlnLaneCtrl, h0, h1, hl, dlnLoopback_same]

theorem actDlnLaneCtrl_fall (h0 : bit old 0 = true) (h1 : bit raw 0 = false) :
    actDlnLaneCtrl n old raw s = showAdapt n (dlnLoopback n (bits old 4 2) (bits raw 4 2) (dlnFall n s)) := by
  simp [actDlnLaneCtrl, h0, h1]

/-- EN of the control register, as the old word of a write has it. -/
theorem bit_dlnCtrl_en (s : State) (n : Nat) : bit (s.reg (Reg.DLN_LANE_CTRL n)) 0 = s.flag (F.DLN_LANE_CTRL_EN n) := (decide_bits_one _ 0).symm

end

/-! ### Density windows (R129 to R132) -/

section
variable {s t : State} {n : Fin 768} {c : Nat} {v : Adapt}

/-- A density window of a lane that receives. -/
theorem densityWindowEnd_answers {P : State → Prop} (hm : s.pwr.mainUp = true) (hon : (s.lane n).on = true) (hc : s.flag (F.DLN_LANE_STATUS_CDR_LOCK n) = true)
    (h : ∀ t, densityWindow n c v s = t → P t) : Answers (.densityWindowEnd n c v) s P :=
  answers_main rfl hm fun t e => h t ((if_pos ⟨hon, hc⟩).symm.trans e)

theorem fld_densityLast (s : State) (n c : Nat) :
    (s.setFld (F.DLN_DENSITY_LAST n) (min (c / 64) 255)).fld (F.DLN_DENSITY_LAST n) = min (c / 64) 255 := by
  rw [State.fld_setFld_same _ _ _ (of_decide_eq_true rfl)]
  exact Nat.mod_eq_of_lt (Nat.lt_succ_of_le (Nat.min_le_right ..))

/-- RESUME_COUNT as stored: nine bits. -/
theorem fld_resumeCount (s : State) (n : Nat) {x : Nat} (hx : x ≤ 256) :
    (s.setFld (F.DLN_DENSITY_RESUME_COUNT n) x).fld (F.DLN_DENSITY_RESUME_COUNT n) = x := by
  rw [State.fld_setFld_same _ _ _ (of_decide_eq_true rfl)]
  exact Nat.mod_eq_of_lt (Nat.lt_of_le_of_lt hx (by decide : 256 < 2 ^ 9))

theorem frozen_window_below (hf : (s.lane n).frozen = true) (hd : min (c / 64) 255 < s.fld (F.DLN_ADAPT_ENTROPY_MIN_MIN (n / 4)))
    (e : densityWindow n c v s = t) :
    t = (s.setFld (F.DLN_DENSITY_LAST n) (min (c / 64) 255)).setFld (F.DLN_DENSITY_RESUME_COUNT n) 0 := by
  exact e.symm.trans ((if_pos hd).trans (if_pos hf))

theorem frozen_window_above (hf : (s.lane n).frozen = true) (hd : s.fld (F.DLN_ADAPT_ENTROPY_MIN_MIN (n / 4)) ≤ min (c / 64) 255)
    {k : Nat} (hk : k = s.fld (F.DLN_DENSITY_RESUME_COUNT n) + 1) {u : State}
    (hu : u = (s.setFld (F.DLN_DENSITY_LAST n) (min (c / 64) 255)).setFld (F.DLN_DENSITY_RESUME_COUNT n) k) (e : densityWindow n c v s = t) :
    t = if 256 ≤ k then showAdapt n (u.updLane n fun l => { l with frozen := false }) else u := by
  subst hk hu
  exact e.symm.trans ((if_neg (Nat.not_lt.2 hd)).trans (if_pos hf))

theorem thawed_window_above (hf : (s.lane n).frozen = false) (hd : s.fld (F.DLN_ADAPT_ENTROPY_MIN_MIN (n / 4)) ≤ min (c / 64) 255)
    (e : densityWindow n c v s = t) :
    t = if (s.lane n).phase = 2 ∧ ¬(s.lane n).lost ∧ s.flag (F.DLN_LANE_CTRL_ADAPT_HOLD n) = false then
        adaptUpdate n v (s.setFld (F.DLN_DENSITY_LAST n) (min (c / 64) 255)) else s.setFld (F.DLN_DENSITY_LAST n) (min (c / 64) 255) :=
  e.symm.trans ((if_neg (Nat.not_lt.2 hd)).trans (if_neg (ne_true_of_eq_false hf)))

theorem thawed_window_below (hf : (s.lane n).frozen = false) (hd : min (c / 64) 255 < s.fld (F.DLN_ADAPT_ENTROPY_MIN_MIN (n / 4)))
    (e : densityWindow n c v s = t) :
    t = showAdapt n ((((s.setFld (F.DLN_DENSITY_LAST n) (min (c / 64) 255)).setFld (F.DLN_DENSITY_RESUME_COUNT n) 0).raise (dlnCause n 12)).updLane n
      fun l => { l with frozen := true }) :=
  e.symm.trans ((if_pos hd).trans (if_neg (ne_true_of_eq_false hf)))

end

/-- Settles O12: the branches of a density window, and what ADAPT_STATE shows after each. -/
theorem lowDensityFreezesALane : Obligations.LowDensityFreezesALane := by
  refine ⟨fun s n c v hm hon hc hf hd => densityWindowEnd_answers hm hon hc fun t e => ?_,
    fun s n c v hm hon hc hf hd hr => densityWindowEnd_answers hm hon hc fun t e => ?_,
    fun s n c v hm hon hc hf hd hr => densityWindowEnd_answers hm hon hc fun t e => ?_,
    fun s n c v hm hon hc hf hp hl hh hd => densityWindowEnd_answers hm hon hc fun t e => ?_,
    fun s n c v hm hon hc hf hl hd => densityWindowEnd_answers hm hon hc fun t e => ?_,
    fun s n c v hm hon hc hf hd => densityWindowEnd_answers hm hon hc fun t e => ?_, fun s ag n d hm hw he h0 h7 hlb => ?_⟩
  · obtain rfl := frozen_window_below hf hd e
    exact ⟨fld_resumeCount _ _ (by decide), (State.fld_setFld _ _ (F.DLN_DENSITY_LAST n) _ (lane_apart rfl)).trans (fld_densityLast ..), by simp,
      ((Touches.refl _ _ s).setFld _ _ (by simp)).setFld _ _ (by simp)⟩
  · obtain rfl := (frozen_window_above hf hd rfl rfl e).trans (if_neg (by omega))
    exact ⟨fld_resumeCount _ _ (by omega), by simpa using hf, ((Touches.refl _ _ s).setFld _ _ (by simp)).setFld _ _ (by simp)⟩
  · obtain rfl := (frozen_window_above hf hd hr.symm rfl e).trans (if_pos le_rfl)
    refine ⟨?_, by simp, by simp, ?_, fun m hk => by simp [State.lane_updLane_ne, hk],
      ((((Touches.refl _ _ s).setFld _ _ (by simp)).setFld _ _ (by simp)).updLane _ _ (by simp)).showAdapt _ (by simp)⟩
    · rw [fld_showAdapt_ne _ _ (F.DLN_DENSITY_RESUME_COUNT n) (lane_apart rfl), State.updLane_fld, fld_resumeCount _ _ le_rfl]
    · rw [fld_showAdapt, State.updLane_flag]
      rw [State.flag_setFld _ (F.DLN_DENSITY_RESUME_COUNT n) (F.DLN_LANE_CTRL_ADAPT_HOLD n) _ (lane_apart rfl),
        State.flag_setFld _ (F.DLN_DENSITY_LAST n) (F.DLN_LANE_CTRL_ADAPT_HOLD n) _ (lane_apart rfl)]
      simp
  · obtain rfl := (thawed_window_above hf hd e).trans (if_pos ⟨hp, ne_true_of_eq_false hl, hh⟩)
    obtain ⟨frame, live, clamp⟩ := adaptUpdate_shows n v (s.setFld (F.DLN_DENSITY_LAST n) (min (c / 64) 255))
    exact ⟨fun i hi => live i (List.mem_range.1 hi), fun i hi _ hb => clamp i (List.mem_range.1 hi) hb, frame.lanes, frame.ind,
      ((Touches.refl _ _ s).setFld _ _ (by simp)).andThen frame.touch (by simp) (by simp)⟩
  · obtain rfl := (thawed_window_above hf hd e).trans (if_neg fun h => h.2.1 hl)
    exact ⟨State.setFld_ind .., State.setFld_lanes .., (Touches.refl _ _ s).setFld _ _ (by simp)⟩
  · obtain rfl := thawed_window_below hf hd e
    refine ⟨by simp, ?_, ?_, ?_, fun m hk => by simp [State.lane_updLane_ne, hk],
      (((((Touches.refl _ _ s).setFld _ _ (by simp)).setFld _ _ (by simp)).raise _ (by simp)).updLane _ _ (by simp)).showAdapt _ (by simp)⟩
    · rw [flag_showAdapt_ne _ _ (dlnCause n 12) (lane_apart_page rfl), State.updLane_flag, flag_raise_dlnCause _ _ (by decide)]
    · rw [fld_showAdapt_ne _ _ (F.DLN_DENSITY_RESUME_COUNT n) (lane_apart rfl), State.updLane_fld,
        State.fld_raise _ _ (F.DLN_DENSITY_RESUME_COUNT n) (dlnCause_apart_lane rfl), fld_resumeCount _ _ (by decide)]
    · rw [fld_showAdapt, State.updLane_flag, State.flag_raise _ _ (F.DLN_LANE_CTRL_ADAPT_HOLD n) (dlnCause_apart_lane rfl)]
      rw [State.flag_setFld _ (F.DLN_DENSITY_RESUME_COUNT n) (F.DLN_LANE_CTRL_ADAPT_HOLD n) _ (lane_apart rfl),
        State.flag_setFld _ (F.DLN_DENSITY_LAST n) (F.DLN_LANE_CTRL_ADAPT_HOLD n) _ (lane_apart rfl)]
      simp
  · refine dlnCtrlWrite_answers rfl hm hw fun t e => ?_
    rw [actDlnLaneCtrl_on ((bit_dlnCtrl_en s n).trans he) h0 h7] at e
    have hl : bits (s.reg (Reg.DLN_LANE_CTRL n)) 4 2 = bits d 4 2 := hlb
    rw [hl, dlnLoopback_same] at e
    subst e
    refine ⟨?_, by simp, ((dlnCtrlStored_touches n d s).mono (by simp) (by simp)).showAdapt _ (by simp)⟩
    have hold : (dlnCtrlStored n d s).flag (F.DLN_LANE_CTRL_ADAPT_HOLD n) = d.getLsbD 6 := flag_dlnCtrlStored n d s (by decide)
    rw [fld_showAdapt, hold, dlnCtrlStored_lane]

end Sys2Proof.Machine
end

section
/-!
SUPPORT. The life of a data lane (R114, R125 to R128, R134, R135): its rise, its coarse state, the loss and the recovery of signal and CDR lock,
and its fall. O11 follows.
-/
namespace Sys2Proof.Machine
set_option Elab.async false

/-! ### Flags cleared in a row -/

theorem State.fld_of_regs {s t : State} (e : t.regs = s.regs) (f : Fld) : t.fld f = s.fld f := by
  rw [State.fld, State.fld, State.reg, State.reg, e]

theorem State.flag_of_regs {s t : State} (e : t.regs = s.regs) (f : Fld) : t.flag f = s.flag f := by
  rw [State.flag_eq, State.flag_eq, State.fld_of_regs e]

/-- Clearing a flag sets none. -/
theorem flag_setFlag_false (s : State) (f g : Fld) (h : f.lo + f.w ≤ 32) (hg : s.flag g = false) : (s.setFlag f false).flag g = false := by
  have hz : s.fld g = 0 := not_not.1 (of_decide_eq_false hg)
  have hb : ∀ i < g.w, (s.reg g.addr).toNat.testBit (g.lo + i) = false := fun i hi => by
    have hi' : (s.fld g).testBit i = false := by rw [hz, Nat.zero_testBit]
    rwa [State.fld, testBit_bits, decide_eq_true hi, Bool.true_and] at hi'
  refine decide_eq_false (not_not.2 (Nat.eq_of_testBit_eq fun i => ?_))
  rw [Nat.zero_testBit, State.fld, testBit_bits, State.reg_setFlag]
  by_cases hi : i < g.w
  · rw [decide_eq_true hi, Bool.true_and]
    split
    · next e =>
      rw [testBit_putBits _ _ _ _ _ h, ← e, hb i hi]
      simp
    · exact hb i hi
  · rw [decide_eq_false hi, Bool.false_and]

/-- The one-bit fields of a list cleared, one after another. -/
def clearFlags (fs : List Fld) (s : State) : State := fs.foldl (fun s f => s.setFlag f false) s

theorem flag_clearFlags (fs : List Fld) (hw : ∀ f ∈ fs, f.lo + f.w ≤ 32 ∧ f.w = 1) (s : State) (g : Fld) (h : g ∈ fs ∨ s.flag g = false) :
    (clearFlags fs s).flag g = false := by
  induction fs generalizing s with
  | nil => exact h.resolve_left List.not_mem_nil
  | cons f fs ih =>
    have hf := hw f (.head _)
    refine ih (fun x hx => hw x (.tail _ hx)) _ ?_
    rcases h with h | h
    · rcases List.mem_cons.1 h with rfl | h
      · exact Or.inr (State.flag_setFlag_same _ _ _ hf.1 hf.2)
      · exact Or.inl h
    · exact Or.inr (flag_setFlag_false s f g hf.1 h)

theorem clearFlags_touches (fs : List Fld) (s : State) : Touches [] fs s (clearFlags fs s) :=
  Touches.foldl fs _ (fun f hf _ h => h.setFlag f false hf) (.refl _ _ s)

@[simp] theorem clearFlags_lanes (fs : List Fld) (s : State) : (clearFlags fs s).lanes = s.lanes := (clearFlags_touches fs s).1.lanes_eq
@[simp] theorem clearFlags_lane (fs : List Fld) (s : State) (m : Nat) : (clearFlags fs s).lane m = s.lane m :=
  State.lane_of_lanes (clearFlags_lanes fs s) m

/-! ### The coarse state (R125, R126) -/

theorem liveByte_of_ind {s t : State} (e : t.ind = s.ind) (n i : Nat) : liveByte t n i = liveByte s n i := State.ifld_of_ind e ..
theorem boundMin_of_ind {s t : State} (e : t.ind = s.ind) (n i : Nat) : boundMin t n i = boundMin s n i := congrArg _ (State.ifld_of_ind e ..)
theorem boundMax_of_ind {s t : State} (e : t.ind = s.ind) (n i : Nat) : boundMax t n i = boundMax s n i := congrArg _ (State.ifld_of_ind e ..)

/-- The midpoint of the bounds of parameter `i`, rounded towards zero. -/
def midpoint (s : State) (n i : Nat) : Int := (boundMin s n i + boundMax s n i).tdiv 2

theorem midpoint_of_ind {s t : State} (e : t.ind = s.ind) (n i : Nat) : midpoint t n i = midpoint s n i := by
  rw [midpoint, midpoint, boundMin_of_ind e, boundMax_of_ind e]

/-- Every live value of lane `n` is at the midpoint of its bounds. -/
def AtMidpoints (s t : State) (n : Nat) : Prop := ∀ i < 6, liveByte t n i = toBits 8 (midpoint s n i)

/-- Every live value stored at the midpoint of its bounds. -/
def centre (n : Nat) (s : State) : State := forUpto 6 (fun i u => setLive n i (midpoint u n i) u) s

theorem startCoarse_eq (n : Nat) (s : State) : startCoarse n s =
    showAdapt n ((centre n s).updLane n fun l => { l with phase := 1, frozen := false, restarted := true, atBound := [0, 0, 0, 0, 0, 0] }) := by
  simp only [startCoarse, centre, midpoint]

theorem centre_moves (n : Nat) (s : State) : Moves [.ind] s (centre n s) :=
  forUpto_moves 6 _ (fun _ _ h => State.setIfld_moves h _ _ _ _ _ (.head _)) s (.refl _ s)

theorem centre_shows (n : Nat) (s : State) : AdaptFrame n s (centre n s) ∧ AtMidpoints s (centre n s) n := by
  have hmid : ∀ i < 6, ∀ u, TakesLive n i u (setLive n i (midpoint u n i) u) := fun i hi u =>
    ⟨setLive_frame i hi _ u, fun _ hj => liveByte_setLive_ne hj _ u⟩
  obtain ⟨frame, -, each⟩ := forUpto_takesLive hmid s 6 le_rfl
  refine ⟨frame, fun i hi => ?_⟩
  obtain ⟨u, hu, -, -, hb⟩ := each i hi
  refine hb.trans ((liveByte_setLive_same ..).trans ?_)
  rw [midpoint, hu.boundMin, hu.boundMax, midpoint]

/-- What starting the coarse state does. -/
theorem startCoarse_shows (n : Nat) (s : State) {t : State} (ht : t = startCoarse n s) :
    t.lane n = { s.lane n with phase := 1, frozen := false, restarted := true, atBound := [0, 0, 0, 0, 0, 0] } ∧ AtMidpoints s t n ∧
    t.fld (F.DLN_LANE_STATUS_ADAPT_STATE n) = (if s.flag (F.DLN_LANE_CTRL_ADAPT_HOLD n) then 4 else 1) ∧ LanesKeep n s t ∧
    IndKeep [(2, n * 32 + 16), (2, n * 32 + 17)] s t ∧ Touches [.ind, .lanes] [F.DLN_LANE_STATUS_ADAPT_STATE n] s t := by
  have moves := centre_moves n s
  obtain ⟨frame, live⟩ := centre_shows n s
  have hl := moves.within.lanes_eq
  rw [startCoarse_eq] at ht
  have hi' : t.ind = (centre n s).ind := ht ▸ (showAdapt_ind ..).trans (State.updLane_ind ..)
  generalize centre n s = u at ht moves frame live hl hi'
  subst ht
  refine ⟨?_, fun i hi => (liveByte_of_ind hi' n i).trans (live i hi), ?_, fun m hk => ?_, frame.ind.of_ind hi',
    (((Touches.refl _ _ s).of_parts moves (by decide) (by simp)).updLane _ _ (by simp)).showAdapt _ (.head _)⟩
  · rw [showAdapt_lane, State.lane_updLane_same, State.lane_of_lanes hl]
  · rw [fld_showAdapt, State.updLane_flag, State.lane_updLane_same, State.flag_of_regs moves.within.regs_eq]
    simp
  · rw [showAdapt_lane, State.lane_updLane_ne _ _ hk, State.lane_of_lanes hl]

/-! ### Rise and fall of EN (R114, R125) -/

theorem laneAt_data (n : Fin 768) : laneAt n = .data n := dif_pos n.isLt

theorem dlnRise_shows (n : Fin 768) (s : State) {t : State} (ht : t = dlnRise n s) :
    (t.lane n).on = true ∧ (t.lane n).rate = s.fld (F.DLN_LANE_CTRL_RATE n) ∧ (t.lane n).phase = 1 ∧ (t.lane n).frozen = false ∧
    (t.lane n).lost = false ∧ (t.lane n).wait = !s.pllLocked (n / 128) ∧ AtMidpoints s t n ∧ LanesKeep n s t ∧
    IndKeep [(2, n * 32 + 16), (2, n * 32 + 17)] s t ∧ Touches [.ind, .lanes] [F.DLN_LANE_STATUS_ADAPT_STATE n] s t := by
  obtain ⟨rec, live, -, lanes, ind, touch⟩ := startCoarse_shows n _ ht
  have hu : ∀ f g, LanesKeep n s ((s.updLane n f).updLane n g) := fun f g => ((LanesKeep.refl _ s).updLane f).updLane g
  have hpll : pllOf (laneAt n) = n / 128 := by rw [laneAt_data, pllOf]
  refine ⟨?_, ?_, ?_, ?_, ?_, ?_, fun i hi => (live i hi).trans ?_, (hu _ _).trans lanes, ind, ?_⟩
  · rw [rec, laneStarts, State.lane_updLane_same, State.lane_updLane_same]
  · rw [rec, laneStarts, State.lane_updLane_same, State.lane_updLane_same]
  · rw [rec]
  · rw [rec]
  · rw [rec, laneStarts, State.lane_updLane_same, State.lane_updLane_same]
  · rw [rec, laneStarts, State.lane_updLane_same, hpll, State.updLane_pllLocked]
  · rw [midpoint_of_ind]
    rw [laneStarts, State.updLane_ind, State.updLane_ind]
  · exact (((Touches.refl _ _ s).updLane _ _ (by simp)).updLane _ _ (by simp)).trans touch

/-- The status bits that a fall of EN clears (log 14). -/
def dlnFallClears (n : Nat) : List Fld :=
  [F.DLN_LANE_STATUS_SIGNAL n, F.DLN_LANE_STATUS_CDR_LOCK n, F.DLN_LANE_STATUS_ALIGNED n, F.DLN_LANE_STATUS_TX_READY n, F.DLN_LANE_STATUS_PRBS_LOCKED n]

theorem dlnFall_eq (n : Nat) (s : State) :
    dlnFall n s = showAdapt n ((clearFlags (dlnFallClears n) s).updLane n fun l => { l with on := false, phase := 0, frozen := false }) := rfl

theorem dlnFallClears_bits (n : Nat) : ∀ f ∈ dlnFallClears n, f.lo + f.w ≤ 32 ∧ f.w = 1 := by
  simp only [dlnFallClears, List.forall_mem_cons]
  exact ⟨⟨of_decide_eq_true rfl, rfl⟩, ⟨of_decide_eq_true rfl, rfl⟩, ⟨of_decide_eq_true rfl, rfl⟩, ⟨of_decide_eq_true rfl, rfl⟩,
    ⟨of_decide_eq_true rfl, rfl⟩, fun _ h => (nomatch h)⟩

theorem dlnFallClears_apart (n lo w : Nat) :
    ∀ f ∈ dlnFallClears n, Apart (F.DLN_LANE_STATUS_ADAPT_STATE n) f ∧ Apart f ⟨Reg.DLN_LANE_CTRL n, lo, w⟩ := by
  simp only [dlnFallClears, List.forall_mem_cons]
  exact ⟨⟨lane_apart rfl, lane_apart rfl⟩, ⟨lane_apart rfl, lane_apart rfl⟩, ⟨lane_apart rfl, lane_apart rfl⟩, ⟨lane_apart rfl, lane_apart rfl⟩,
    ⟨lane_apart rfl, lane_apart rfl⟩, fun _ h => (nomatch h)⟩

theorem dlnFallClears_addr (n : Nat) : ∀ f ∈ dlnFallClears n, f.addr = Reg.DLN_LANE_STATUS n := by
  simp only [dlnFallClears, List.forall_mem_cons]
  exact ⟨rfl, rfl, rfl, rfl, rfl, fun _ h => (nomatch h)⟩

theorem dlnFall_shows (n : Nat) (s : State) {t : State} (ht : t = dlnFall n s) :
    t.lane n = { s.lane n with on := false, phase := 0, frozen := false } ∧ (∀ f ∈ dlnFallClears n, t.flag f = false) ∧
    (∀ lo w, t.flag ⟨Reg.DLN_LANE_CTRL n, lo, w⟩ = s.flag ⟨Reg.DLN_LANE_CTRL n, lo, w⟩) ∧ LanesKeep n s t ∧
    Touches [.lanes] (F.DLN_LANE_STATUS_ADAPT_STATE n :: dlnFallClears n) s t := by
  rw [dlnFall_eq] at ht
  subst ht
  refine ⟨by simp, fun f hf => ?_, fun lo w => ?_, fun m hk => by simp [State.lane_updLane_ne, hk],
    (((clearFlags_touches _ s).mono (by simp) fun f hf => .tail _ hf).updLane _ _ (.head _)).showAdapt _ (.head _)⟩
  · rw [flag_showAdapt_ne _ _ f (dlnFallClears_apart n 0 0 f hf).1, State.updLane_flag, flag_clearFlags _ (dlnFallClears_bits n) s f (Or.inl hf)]
  · rw [flag_showAdapt_ne _ _ ⟨Reg.DLN_LANE_CTRL n, lo, w⟩ (lane_apart rfl), State.updLane_flag]
    exact (clearFlags_touches _ s).2.flag_eq _ fun f hf => (dlnFallClears_apart n lo w f hf).2

/-! ### Alignment and LOOPBACK (R127, R135, R149) -/

theorem loseAlign_shows (n : Nat) (s : State) {t : State} (ht : t = loseAlign n s) :
    t.flag (F.DLN_LANE_STATUS_ALIGNED n) = false ∧ t.flag (dlnCause n 4) = true ∧ t.lanes = s.lanes ∧
    Touches [] [F.DLN_LANE_STATUS_ALIGNED n, dlnCause n 4] s t := by
  subst ht
  refine ⟨?_, flag_raise_dlnCause _ n (by decide), by rw [loseAlign, State.raise_lanes, State.setFlag_lanes],
    ((Touches.refl _ _ s).setFlag _ _ (.head _)).raise _ (.tail _ (.head _))⟩
  rw [loseAlign, State.flag_raise _ _ (F.DLN_LANE_STATUS_ALIGNED n) (dlnCause_apart_lane rfl),
    State.flag_setFlag_same _ _ _ (of_decide_eq_true rfl) rfl]

/-- A lane that enters far-end loopback has its FIFO half full. -/
def loopFill (n o v : Nat) (s : State) : State := if v = 3 ∧ o ≠ 3 then s.updLane n fun l => { l with fill := 16 } else s

theorem loopFill_shows (n o v : Nat) (s : State) {t : State} (ht : t = loopFill n o v s) :
    (∃ x, t.lane n = { s.lane n with fill := x }) ∧ t.regs = s.regs ∧ LanesKeep n s t ∧ Moves [.lanes] s t := by
  rw [loopFill] at ht
  split at ht
  · subst ht
    exact ⟨⟨16, State.lane_updLane_same ..⟩, rfl, (LanesKeep.refl n s).updLane _, State.updLane_moves (.refl _ s) _ _ (.head _)⟩
  · subst ht
    exact ⟨⟨_, rfl⟩, rfl, .refl n t, .refl _ t⟩

/-- A change of LOOPBACK keeps the alignment of a lane that is off, and one between modes 0 and 3. -/
def keepsAlign (n o v : Nat) (s : State) : Prop := o = v ∨ ((o = 0 ∨ o = 3) ∧ (v = 0 ∨ v = 3)) ∨ (s.lane n).on = false

theorem dlnLoopback_keeps {n o v : Nat} {s : State} (h : keepsAlign n o v s) : dlnLoopback n o v s = loopFill n o v s := if_pos h

theorem dlnLoopback_drops {n o v : Nat} {s : State} (h : ¬keepsAlign n o v s) : dlnLoopback n o v s = loseAlign n (loopFill n o v s) := if_neg h

theorem keepsAlign_of_on {n o v : Nat} {s : State} (hon : (s.lane n).on = true) (hov : o ≠ v) (ho : o < 4) (hv : v < 4) :
    keepsAlign n o v s ↔ o % 3 = 0 ∧ v % 3 = 0 := by
  simp only [keepsAlign, hon, hov, false_or, Bool.true_eq_false, or_false]
  omega

/-- A write that changes LOOPBACK of a lane that is on: alignment is lost but between modes 0 and 3. -/
theorem loopbackChange_shows {n o v : Nat} {s : State} (hon : (s.lane n).on = true) (hov : o ≠ v) (ho : o < 4) (hv : v < 4) {t : State}
    (ht : t = showAdapt n (dlnLoopback n o v s)) :
    (∃ x, t.lane n = { s.lane n with fill := x }) ∧
    t.flag (dlnCause n 4) = (s.flag (dlnCause n 4) || !(decide (o % 3 = 0) && decide (v % 3 = 0))) ∧ LanesKeep n s t ∧
    Touches [.lanes] [F.DLN_LANE_STATUS_ALIGNED n, F.DLN_LANE_STATUS_ADAPT_STATE n, dlnCause n 4] s t := by
  obtain ⟨⟨x, rec⟩, regs, lanes, moves⟩ := loopFill_shows n o v s rfl
  have fill : Touches [.lanes] [F.DLN_LANE_STATUS_ALIGNED n, F.DLN_LANE_STATUS_ADAPT_STATE n, dlnCause n 4] s (loopFill n o v s) :=
    (Touches.refl _ _ s).of_parts moves (by decide) (by simp)
  by_cases hk : keepsAlign n o v s
  · obtain ⟨ho3, hv3⟩ := (keepsAlign_of_on hon hov ho hv).1 hk
    rw [dlnLoopback_keeps hk] at ht
    generalize loopFill n o v s = r at ht rec regs lanes fill
    subst ht
    refine ⟨⟨x, by rw [showAdapt_lane, rec]⟩, ?_, lanes.of_lanes (showAdapt_lanes ..), fill.showAdapt _ (by simp)⟩
    rw [flag_showAdapt_ne _ _ (dlnCause n 4) (lane_apart_page rfl), State.flag_of_regs regs, ho3, hv3]
    simp
  · have h3 : (decide (o % 3 = 0) && decide (v % 3 = 0)) = false := by
      rw [← Bool.decide_and]
      exact decide_eq_false fun h => hk ((keepsAlign_of_on hon hov ho hv).2 h)
    rw [dlnLoopback_drops hk] at ht
    generalize loopFill n o v s = r at ht rec regs lanes fill
    obtain ⟨-, cause, same, touch⟩ := loseAlign_shows n r rfl
    subst ht
    refine ⟨⟨x, by rw [showAdapt_lane, State.lane_of_lanes same, rec]⟩, ?_, (lanes.of_lanes same).of_lanes (showAdapt_lanes ..),
      (fill.andThen touch (by simp) (by simp)).showAdapt _ (by simp)⟩
    rw [flag_showAdapt_ne _ _ (dlnCause n 4) (lane_apart_page rfl), cause, h3]
    simp

/-! ### SIGNAL and CDR_LOCK (R126, R127) -/

theorem sigFld_bit (l : LaneId) : (sigFld l).lo + (sigFld l).w ≤ 32 ∧ (sigFld l).w = 1 := by
  cases l <;> exact ⟨of_decide_eq_true rfl, rfl⟩

theorem cdrFld_bit (l : LaneId) : (cdrFld l).lo + (cdrFld l).w ≤ 32 ∧ (cdrFld l).w = 1 := by
  cases l <;> exact ⟨of_decide_eq_true rfl, rfl⟩

/-- The status bit that a loss clears. -/
def lossFld (cdr : Bool) (l : LaneId) : Fld := if cdr then cdrFld l else sigFld l

theorem lossFld_bit (cdr : Bool) (l : LaneId) : (lossFld cdr l).lo + (lossFld cdr l).w ≤ 32 ∧ (lossFld cdr l).w = 1 := by
  cases cdr
  · exact sigFld_bit l
  · exact cdrFld_bit l

/-- A loss of signal or CDR lock, as far as it is the same for lanes of either kind. -/
def lossNoted (l : LaneId) (cdr : Bool) (s : State) : State :=
  ((s.setFlag (lossFld cdr l) false).raise (losFld l)).updLane (laneIdx l) fun r => { r with lost := true, restarted := false, acq := 0 }

theorem lossNoted_shows (l : LaneId) (cdr : Bool) (s : State) {t : State} (ht : t = lossNoted l cdr s) :
    t.lane (laneIdx l) = { s.lane (laneIdx l) with lost := true, restarted := false, acq := 0 } ∧ LanesKeep (laneIdx l) s t ∧
    Touches [.lanes] [lossFld cdr l, losFld l] s t := by
  subst ht
  exact ⟨by rw [lossNoted, State.lane_updLane_same, State.lane_raise, State.lane_setFlag],
    fun m hk => by rw [lossNoted, State.lane_updLane_ne _ _ hk, State.lane_raise, State.lane_setFlag],
    (((Touches.refl _ _ s).setFlag _ _ (.head _)).raise _ (.tail _ (.head _))).updLane _ _ (.head _)⟩

theorem laneLos_data {n : Fin 768} {cdr : Bool} {s : State} (h : s.flag (lossFld cdr (.data n)) = true) :
    laneLos (.data n) cdr s = loseAlign n (lossNoted (.data n) cdr s) := if_pos h

theorem laneLos_aux {m : Fin 32} {cdr : Bool} {s : State} (h : s.flag (lossFld cdr (.aux m)) = true) :
    laneLos (.aux m) cdr s = syncLost m (lossNoted (.aux m) cdr s) := if_pos h

/-! ### The control register after a write -/

section
variable {s t : State} {n : Fin 768} {d : Word}

/-- The word written to DLN_LANE_CTRL as the old word's LOOPBACK has it. -/
theorem loopback_same {m : Word} (hl : s.fld (F.DLN_LANE_CTRL_LOOPBACK n) = bits d 4 2) (h : ∀ i < 2, m.getLsbD (4 + i) = false) :
    bits (s.reg (Reg.DLN_LANE_CTRL n)) 4 2 = bits (d ||| m) 4 2 := hl.trans (bits_or_clear h).symm

theorem hold_dlnCtrlStored : (dlnCtrlStored n d s).flag (F.DLN_LANE_CTRL_ADAPT_HOLD n) = d.getLsbD 6 := flag_dlnCtrlStored n d s (by decide)

theorem dlnCtrl_apart_adaptState : ∀ f ∈ [F.DLN_LANE_STATUS_ADAPT_STATE n], Apart f (F.DLN_LANE_CTRL_ADAPT_HOLD n) :=
  List.forall_mem_singleton.2 (lane_apart rfl)

end

/-- Settles O11: each step of the life of a data lane, from the lemmas on its operations. -/
theorem dataLaneBringUp : Obligations.DataLaneBringUp := by
  refine ⟨fun s ag n d hm hw he hl => ?_, fun s ag n d hm hw he => ?_, fun s n hm hon => answers_main rfl hm fun t e => ?_,
    fun s l hm hon hwait hb => answers_main rfl hm fun t e => ?_, fun s l hm hb hh => answers_main rfl hm fun t e => ?_,
    fun s l hm hwait => answers_main rfl hm fun t e => ?_, fun s l hm hon hs hl => answers_main rfl hm fun t e => ?_,
    fun s n hm hon hs hl => answers_main rfl hm fun t e => ?_, fun s n v hm hon hp hf hl hc hh => answers_main rfl hm fun t e => ?_,
    fun s n slip hm hon hp hl hc => answers_main rfl hm fun t e => ?_, fun s n cdr hm hf => answers_main rfl hm fun t e => ?_,
    fun s n hm hon => answers_main rfl hm fun t e => ?_, fun s ag n d hm hw he h0 hl => ?_, fun s ag n d hm hw he hon h0 h7 hl => ?_⟩
  · refine dlnCtrlWrite_answers rfl hm hw fun t e => ?_
    have hl' : bits (s.reg (Reg.DLN_LANE_CTRL n)) 4 2 = bits (d ||| 1) 4 2 := hl.trans (bits_or_clear (by decide)).symm
    rw [actDlnLaneCtrl_rise ((bit_dlnCtrl_en s n).trans he) (by rw [bit_or_ofNat]; simp [bit]) hl'] at e
    obtain ⟨on, rate, phase, frozen, lost, wait, live, lanes, ind, touch⟩ := dlnRise_shows n _ rfl
    generalize hr : dlnRise n (dlnCtrlStored n (d ||| 1) s) = r at e on rate phase frozen lost wait live lanes ind touch
    subst e
    have hold : r.flag (F.DLN_LANE_CTRL_ADAPT_HOLD n) = d.getLsbD 6 := by
      rw [touch.2.flag_eq (F.DLN_LANE_CTRL_ADAPT_HOLD n) (List.forall_mem_singleton.2 (lane_apart rfl))]
      refine (flag_dlnCtrlStored n (d ||| 1) s (by decide)).trans ?_
      simp
    have hrate : (dlnCtrlStored n (d ||| 1) s).fld (F.DLN_LANE_CTRL_RATE n) = bits d 1 1 :=
      (fld_dlnCtrlStored n (d ||| 1) s (by decide)).trans (bits_or_clear (by decide))
    simp only [showAdapt_lane]
    refine ⟨?_, on, rate.trans hrate, phase, frozen, lost, wait, fun i hi => ?_, ?_, ?_, ?_, ?_⟩
    · rw [showAdapt, State.reg_setFld_ne _ _ _ (by simp [F.DLN_LANE_STATUS_ADAPT_STATE, Reg.DLN_LANE_STATUS, Reg.DLN_LANE_CTRL]),
        touch.2.reg_eq _ (List.forall_mem_singleton.2 (by simp [F.DLN_LANE_STATUS_ADAPT_STATE, Reg.DLN_LANE_STATUS, Reg.DLN_LANE_CTRL])),
        dlnCtrlStored, State.reg_setReg_same]
    · exact (liveByte_of_ind (showAdapt_ind ..) n i).trans ((live i (List.mem_range.1 hi)).trans (congrArg _ (midpoint_of_ind (dlnCtrlStored_ind ..) n i)))
    · rw [fld_showAdapt, hold, frozen, phase]
      simp
    · exact ((LanesKeep.refl _ s).of_lanes (dlnCtrlStored_lanes ..)).trans (lanes.of_lanes (showAdapt_lanes ..))
    · exact ((IndKeep.refl _ s).of_ind (dlnCtrlStored_ind ..)).trans (ind.of_ind (showAdapt_ind ..))
    · exact (((dlnCtrlStored_touches n _ s).mono (by simp) (by simp)).andThen touch (by simp) (by simp)).showAdapt _ (by simp)
  · refine dlnCtrlWrite_answers rfl hm hw fun t e => ?_
    rw [actDlnLaneCtrl_fall ((bit_dlnCtrl_en s n).trans he) (by rw [bit_eq_getLsbD]; simp)] at e
    obtain ⟨rec, clear, hctrl, lanes, touch⟩ := dlnFall_shows n (dlnCtrlStored n (d &&& ~~~1) s) rfl
    generalize dlnFall n (dlnCtrlStored n (d &&& ~~~1) s) = r at e rec clear hctrl lanes touch
    have hoff : (r.lane n).on = false := by rw [rec]
    rw [dlnLoopback_keeps (Or.inr (Or.inr hoff))] at e
    obtain ⟨⟨x, rec'⟩, regs, lanes', moves⟩ := loopFill_shows n _ _ r rfl
    generalize loopFill n _ _ r = q at e rec' regs lanes' moves
    subst e
    have hclear : ∀ f ∈ dlnFallClears n, (showAdapt n q).flag f = false := fun f hf => by
      rw [flag_showAdapt_ne _ _ f (dlnFallClears_apart n 0 0 f hf).1, State.flag_of_regs regs, clear f hf]
    have hbit : (d &&& ~~~1).getLsbD 6 = d.getLsbD 6 := by simp
    have hall : Touches [.lanes] (whole (Reg.DLN_LANE_CTRL n) :: F.DLN_LANE_STATUS_ADAPT_STATE n :: dlnFallClears n) s (showAdapt n q) :=
      ((((dlnCtrlStored_touches n _ s).mono (by simp) (by simp)).andThen touch (by simp) (fun f hf => .tail _ hf)).of_parts moves (by decide)
        (by simp)).showAdapt _ (by simp)
    refine ⟨by rw [showAdapt_lane, rec', rec], by rw [showAdapt_lane, rec', rec], by rw [showAdapt_lane, rec', rec],
      ?_, hclear _ (by simp [dlnFallClears]), hclear _ (by simp [dlnFallClears]), hclear _ (by simp [dlnFallClears]),
      hclear _ (by simp [dlnFallClears]), hclear _ (by simp [dlnFallClears]), ?_, ?_, hall.1, hall.2.regsKeep ?_⟩
    · rw [flag_showAdapt_ne _ _ (F.DLN_LANE_CTRL_EN n) (lane_apart rfl), State.flag_of_regs regs]
      refine (hctrl 0 1).trans ((flag_dlnCtrlStored n _ s (by decide)).trans ?_)
      simp
    · rw [fld_showAdapt, State.flag_of_regs regs, F.DLN_LANE_CTRL_ADAPT_HOLD, hctrl, flag_dlnCtrlStored _ _ _ (by decide), hbit, rec', rec]
      simp
    · exact (((LanesKeep.refl n.val s).of_lanes (dlnCtrlStored_lanes ..)).trans (lanes.trans lanes')).of_lanes (showAdapt_lanes ..)
    · simp only [List.forall_mem_cons]
      exact ⟨.head _, .tail _ (.head _), fun f hf => dlnFallClears_addr n f hf ▸ .tail _ (.head _)⟩
  · by_cases hp : s.pllLocked (n / 128) = true
    · obtain rfl := e.symm.trans (if_pos ⟨hon, hp⟩)
      exact ⟨by rw [State.flag_setFlag_same _ _ _ (of_decide_eq_true rfl) rfl, hp, Bool.or_true], (Touches.refl _ _ s).setFlag _ _ (.head _)⟩
    · obtain rfl := e.symm.trans (if_neg fun h => hp h.2)
      exact ⟨by rw [eq_false_of_ne_true hp, Bool.or_false], .refl _ _ _⟩
  · have ht : rxTaken s l = false := by
      rcases hb with hb | hb <;> simp [rxTaken, hb]
    obtain rfl := e.symm.trans (if_pos ⟨hon, ne_true_of_eq_false hwait, ne_true_of_eq_false ht⟩)
    exact ⟨State.flag_setFlag_same _ _ _ (sigFld_bit l).1 (sigFld_bit l).2, (Touches.refl _ _ s).setFlag _ _ (.head _)⟩
  · exact e.symm.trans (if_neg fun h => h.2.2 (by simp [rxTaken, hb, hh]))
  · exact e.symm.trans (if_neg fun h => h.2.1 hwait)
  · have ht : t = s.setFlag (cdrFld l) true := by
      rw [← e, laneCdrLock, if_pos ⟨hon, hs⟩]
      cases l with
      | data n => exact if_neg (ne_true_of_eq_false hl)
      | aux m => rfl
    subst ht
    exact ⟨State.flag_setFlag_same _ _ _ (cdrFld_bit l).1 (cdrFld_bit l).2, (Touches.refl _ _ s).setFlag _ _ (.head _)⟩
  · obtain rfl := e.symm.trans ((if_pos ⟨hon, hs⟩).trans (if_pos hl))
    refine ⟨?_, by simp, fun m hk => by simp [State.lane_updLane_ne, hk],
      (((Touches.refl _ _ s).setFlag _ _ (.head _)).updLane _ _ (.head _)).showAdapt _ (by simp)⟩
    rw [flag_showAdapt_ne _ _ (F.DLN_LANE_STATUS_CDR_LOCK n) (lane_apart rfl), State.updLane_flag]
    exact State.flag_setFlag_same _ _ _ (cdrFld_bit (.data n)).1 (cdrFld_bit (.data n)).2
  · obtain rfl := e.symm.trans (if_pos ⟨hon, hp, ne_true_of_eq_false hf, ne_true_of_eq_false hl, hc, hh⟩)
    obtain ⟨frame, live⟩ := adaptAll_adaptTo_shows n v s
    generalize adaptAll (adaptTo n) v s = r at frame live
    obtain ⟨b, rec⟩ := frame.bound
    refine ⟨by simp, ?_, fun i hi => ?_, ?_, ?_, ?_⟩
    · rw [fld_showAdapt, State.updLane_flag, frame.touch.2.flag_eq (F.DLN_LANE_CTRL_ADAPT_HOLD n) (List.forall_mem_singleton.2 (dlnCause_apart_lane rfl)),
        hh, State.lane_updLane_same, rec]
      simp [hf]
    · exact (liveByte_of_ind ((showAdapt_ind ..).trans (State.updLane_ind ..)) n i).trans (live i (List.mem_range.1 hi))
    · exact (frame.lanes.updLane _).of_lanes (showAdapt_lanes ..)
    · exact frame.ind.of_ind ((showAdapt_ind ..).trans (State.updLane_ind ..))
    · exact ((frame.touch.mono (by simp) (by simp)).updLane _ _ (by simp)).showAdapt _ (by simp)
  · obtain rfl := e.symm.trans (if_pos ⟨hon, hp, ne_true_of_eq_false hl, hc⟩)
    refine ⟨State.flag_setFlag_same _ _ _ (of_decide_eq_true rfl) rfl, ?_, ((Touches.refl _ _ s).setFld _ _ (by simp)).setFlag _ _ (by simp)⟩
    rw [State.fld_setFlag _ (F.DLN_LANE_STATUS_ALIGNED n) (F.DLN_LANE_STATUS_SLIP n) _ (lane_apart rfl),
      State.fld_setFld_same _ _ _ (of_decide_eq_true rfl)]
    exact Nat.mod_eq_of_lt slip.isLt
  · have hf' : s.flag (lossFld cdr (.data n)) = true := hf
    obtain rfl := e.symm.trans (laneLos_data hf')
    obtain ⟨rec, lanes, touch⟩ := lossNoted_shows (.data n) cdr s rfl
    have hlos : (lossNoted (.data n) cdr s).flag (dlnCause n 0) = true := flag_raise_dlnCause _ n (by decide)
    have hbit : (lossNoted (.data n) cdr s).flag (lossFld cdr (.data n)) = false := by
      rw [lossNoted, State.updLane_flag, State.flag_raise, State.flag_setFlag_same _ _ _ (lossFld_bit ..).1 (lossFld_bit ..).2]
      cases cdr <;> exact dlnCause_apart_lane rfl
    generalize lossNoted (.data n) cdr s = r at rec lanes touch hlos hbit
    obtain ⟨aligned, cause, same, touch'⟩ := loseAlign_shows n r rfl
    refine ⟨(touch'.2.flag_eq _ ?_).trans hbit, aligned, (touch'.2.flag_eq _ ?_).trans hlos, cause, (State.lane_of_lanes same n).trans rec,
      lanes.of_lanes same, (touch.mono (by simp) (by simp [lossFld, cdrFld, sigFld, losFld])).andThen touch' (by simp) (by simp)⟩
    · cases cdr <;> exact List.forall_mem_cons.2 ⟨lane_apart rfl, List.forall_mem_singleton.2 (dlnCause_apart_lane rfl)⟩
    · exact List.forall_mem_cons.2 ⟨lane_apart_page rfl, List.forall_mem_singleton.2 (dlnCause_apart rfl)⟩
  · obtain rfl := e.symm.trans (if_pos hon)
    obtain ⟨aligned, cause, -, touch⟩ := loseAlign_shows n s rfl
    exact ⟨aligned, cause, touch⟩
  · refine dlnCtrlWrite_answers rfl hm hw fun t e => ?_
    rw [actDlnLaneCtrl_restart ((bit_dlnCtrl_en s n).trans he) (by rw [bit_or_ofNat, bit_eq_getLsbD, h0, Bool.true_or])
      (by rw [bit_or_ofNat, show bit 0x80#32 7 = true by decide, Bool.or_true]) (loopback_same hl (by decide))] at e
    obtain ⟨rec, live, -, lanes, ind, touch⟩ := startCoarse_shows n (dlnCtrlStored n (d ||| 0x80#32) s) rfl
    generalize startCoarse n (dlnCtrlStored n (d ||| 0x80#32) s) = r at e rec live lanes ind touch
    subst e
    simp only [showAdapt_lane, rec, dlnCtrlStored_lane, true_and]
    refine ⟨fun i hi => ?_, ?_, ?_⟩
    · exact (liveByte_of_ind (showAdapt_ind ..) n i).trans ((live i (List.mem_range.1 hi)).trans (congrArg _ (midpoint_of_ind (dlnCtrlStored_ind ..) n i)))
    · exact ((LanesKeep.refl n.val s).of_lanes (dlnCtrlStored_lanes ..)).trans (lanes.of_lanes (showAdapt_lanes ..))
    · exact (((dlnCtrlStored_touches n _ s).mono (by simp) (by simp)).andThen touch (by simp) (by simp)).showAdapt _ (by simp)
  · refine dlnCtrlWrite_answers rfl hm hw fun t e => ?_
    rw [actDlnLaneCtrl_on ((bit_dlnCtrl_en s n).trans he) h0 h7] at e
    obtain ⟨⟨x, rec⟩, cause, lanes, touch⟩ :=
      loopbackChange_shows (s := dlnCtrlStored n d s) ((congrArg _ (dlnCtrlStored_lane ..)).trans hon) hl (bits_lt _ _ _) (bits_lt _ _ _) e.symm
    have hctrl : ∀ lo w, t.fld ⟨Reg.DLN_LANE_CTRL n, lo, w⟩ = (dlnCtrlStored n d s).fld ⟨Reg.DLN_LANE_CTRL n, lo, w⟩ := fun lo w =>
      touch.2.fld_eq _ (List.forall_mem_cons.2 ⟨lane_apart rfl, List.forall_mem_cons.2 ⟨lane_apart rfl,
        List.forall_mem_singleton.2 (dlnCause_apart_lane rfl)⟩⟩)
    refine ⟨(hctrl 4 2).trans (fld_dlnCtrlStored n d s (by decide)), (hctrl 1 1).trans (fld_dlnCtrlStored n d s (by decide)),
      by rw [rec, dlnCtrlStored_lane], ?_, ((LanesKeep.refl n.val s).of_lanes (dlnCtrlStored_lanes ..)).trans lanes,
      ((dlnCtrlStored_touches n d s).mono (by simp) (by simp)).andThen touch (by simp) (by simp)⟩
    rw [cause, (dlnCtrlStored_touches n d s).2.flag_eq (dlnCause n 4) (List.forall_mem_singleton.2 (lane_apart_page rfl))]

end Sys2Proof.Machine
end

section
/-!
SUPPORT. Auxiliary lanes: their fields, the counters they advance, and writes of ALN_CTRL (R114, R138, R142, R156).
-/
namespace Sys2Proof.Machine
set_option Elab.async false

/-! ### 64-bit counters (R88) -/

theorem State.reg64_setReg64 (s : State) (a x : Nat) : (s.setReg64 a (a + 1) x).reg64 a (a + 1) = x % 2 ^ 64 := by
  rw [State.reg64, State.reg_setReg64, State.reg_setReg64, if_neg (by omega), if_pos rfl, if_pos rfl, BitVec.toNat_ofNat, BitVec.toNat_ofNat]
  omega

theorem State.reg64_raise_ne (s : State) (f : Fld) {a b : Nat} (ha : a ≠ f.addr) (hb : b ≠ f.addr) : (s.raise f).reg64 a b = s.reg64 a b := by
  rw [State.reg64, State.reg_raise_ne _ _ ha, State.reg_raise_ne _ _ hb, State.reg64]

/-- A counter after an advance, whose overflow bit lies in neither of its words. -/
theorem State.reg64_bump64 (s : State) (a n : Nat) (f : Fld) (ha : a ≠ f.addr) (hb : a + 1 ≠ f.addr) :
    (s.bump64 a n (some f)).reg64 a (a + 1) = (s.reg64 a (a + 1) + n) % 2 ^ 64 := by
  rw [State.bump64]
  split
  · exact State.reg64_setReg64 ..
  · exact (State.reg64_raise_ne _ f ha hb).trans (State.reg64_setReg64 ..)

theorem State.reg64_of_flds {fs : List Fld} {s t : State} (h : FldsKeep fs s t) (a b : Nat) (ha : ∀ f ∈ fs, a ≠ f.addr ∧ b ≠ f.addr) :
    t.reg64 a b = s.reg64 a b := by
  rw [State.reg64, h.reg_eq a fun f hf => (ha f hf).1, h.reg_eq b fun f hf => (ha f hf).2, State.reg64]

/-- A 32-bit counter after an advance by one. -/
theorem State.reg_bump32_one (s : State) (a : Nat) (f : Fld) (ha : a ≠ f.addr) : (s.bump32 a 1 (some f)).reg a = s.reg a + 1 := by
  have hx : BitVec.ofNat 32 ((s.reg a).toNat + 1) = s.reg a + 1 := by
    apply BitVec.eq_of_toNat_eq
    rw [BitVec.toNat_ofNat, BitVec.toNat_add]
    rfl
  rw [State.bump32]
  split
  · rw [State.reg_setReg_same, hx]
  · exact (State.reg_raise_ne _ f ha).trans ((State.reg_setReg_same ..).trans hx)

/-! ### Fields of an auxiliary lane

The registers of lane `m` are in a page of their own, at `k` from its start. -/

theorem aln_apart {m k k' lo w lo' w' : Nat} (h : (Nat.ble (lo + w) 32 && (k != k' || Nat.ble (lo + w) lo' || Nat.ble (lo' + w') lo)) = true) :
    Apart ⟨k + 0x70000 + 1024 * m, lo, w⟩ ⟨k' + 0x70000 + 1024 * m, lo', w'⟩ := by
  simp only [Bool.and_eq_true, Bool.or_eq_true, bne_iff_ne, Nat.ble_eq] at h
  simp only [Apart]
  omega

theorem aln_apart_above {m : Fin 32} {k b lo w lo' w' : Nat} (h : (Nat.ble (lo + w) 32 && Nat.ble k 1023 && Nat.ble 0x78000 b) = true) :
    Apart ⟨k + 0x70000 + 1024 * m, lo, w⟩ ⟨b, lo', w'⟩ := by
  simp only [Bool.and_eq_true, Nat.ble_eq] at h
  have := m.isLt
  simp only [Apart]
  omega

theorem aln_apart_below {m : Fin 32} {k b lo w lo' w' : Nat} (hb : 0x78000 ≤ b) (h : (Nat.ble (lo + w) 32 && Nat.ble k 1023) = true) :
    Apart ⟨b, lo, w⟩ ⟨k + 0x70000 + 1024 * m, lo', w'⟩ := by
  simp only [Bool.and_eq_true, Nat.ble_eq] at h
  have := m.isLt
  simp only [Apart]
  omega

/-- RXFIX and TXFIX of timing port `m`. -/
def fixFlds (m : Nat) : List Fld := [whole (Reg.TBASE_PORT_RXFIX (384 + m)), whole (Reg.TBASE_PORT_TXFIX (384 + m))]

theorem fixFlds_apart_aln {m : Fin 32} {k lo w : Nat} (h : Nat.ble k 1023 = true) : ∀ f ∈ fixFlds m, Apart f ⟨k + 0x70000 + 1024 * m, lo, w⟩ := by
  refine List.forall_mem_cons.2 ⟨aln_apart_below ?_ (by rw [h]; rfl), List.forall_mem_singleton.2 (aln_apart_below ?_ (by rw [h]; rfl))⟩ <;>
  · simp only [Reg.TBASE_PORT_RXFIX, Reg.TBASE_PORT_TXFIX]
    omega

theorem fixFlds_addr (m : Nat) (hm : m < 32) : ∀ f ∈ fixFlds m, 0x181400 ≤ f.addr ∧ f.addr < 0x181500 := by
  simp only [fixFlds, List.forall_mem_cons, whole, Reg.TBASE_PORT_RXFIX, Reg.TBASE_PORT_TXFIX]
  exact ⟨by omega, by omega, fun _ h => (nomatch h)⟩

/-! ### The fixed parts of a timing port (R197, R352) -/

theorem timingFix_touches (m : Fin 32) (s : State) : Touches [] (fixFlds m) s (timingFix m s) :=
  .ite (fun _ => ((Touches.refl _ _ s).setReg _ _ (.head _)).setReg _ _ (.tail _ (.head _))) fun _ => .refl _ _ s

@[simp] theorem timingFix_lanes (m : Fin 32) (s : State) : (timingFix m s).lanes = s.lanes := (timingFix_touches m s).1.lanes_eq

@[simp] theorem timingFix_lane (m : Fin 32) (s : State) (k : Nat) : (timingFix m s).lane k = s.lane k := State.lane_of_lanes (timingFix_lanes m s) k

theorem fld_timingFix {m : Fin 32} {k lo w : Nat} (s : State) (h : Nat.ble k 1023 = true) :
    (timingFix m s).fld ⟨k + 0x70000 + 1024 * m, lo, w⟩ = s.fld ⟨k + 0x70000 + 1024 * m, lo, w⟩ :=
  (timingFix_touches m s).2.fld_eq _ (fixFlds_apart_aln h)

theorem flag_timingFix {m : Fin 32} {k lo w : Nat} (s : State) (h : Nat.ble k 1023 = true) :
    (timingFix m s).flag ⟨k + 0x70000 + 1024 * m, lo, w⟩ = s.flag ⟨k + 0x70000 + 1024 * m, lo, w⟩ :=
  (timingFix_touches m s).2.flag_eq _ (fixFlds_apart_aln h)

/-- A timing port that is not up keeps its fixed parts. -/
theorem timingFix_down {m : Fin 32} {s : State} (h : (s.lane (768 + m)).on = false ∨ s.flag (F.ALN_LANE_STATUS_SYNC m) = false) : timingFix m s = s := by
  refine if_neg ?_
  rcases h with h | h <;> simp [timingUp, h]

/-! ### The lanes of links (R486) -/

/-- Whether a link in use fits no lane. -/
def linkBad (s : State) : Bool := (upto 3).any fun k => linkUsed s k && !linkFits s k

theorem linkCfgCheck_eq (s : State) : linkCfgCheck s = s.raiseIf (linkBad s) F.TWIN_INT_STATUS_LINK_CFG_REJECT := rfl

/-- The links' fit is a matter of three registers and of the lanes' records. -/
theorem linkBad_congr {s t : State} (hl : t.lanes = s.lanes)
    (hr : ∀ a ∈ [Reg.TWIN_CTRL, Reg.TWIN_PAIR_CFG, Reg.TWIN_STACK_CFG], t.reg a = s.reg a) : linkBad t = linkBad s := by
  obtain ⟨hc, hp, hs⟩ : t.reg Reg.TWIN_CTRL = s.reg Reg.TWIN_CTRL ∧ t.reg Reg.TWIN_PAIR_CFG = s.reg Reg.TWIN_PAIR_CFG ∧
      t.reg Reg.TWIN_STACK_CFG = s.reg Reg.TWIN_STACK_CFG := ⟨hr _ (.head _), hr _ (.tail _ (.head _)), hr _ (.tail _ (.tail _ (.head _)))⟩
  have hf : ∀ f : Fld, f.addr ∈ [Reg.TWIN_CTRL, Reg.TWIN_PAIR_CFG, Reg.TWIN_STACK_CFG] → t.fld f = s.fld f := fun f hf => by
    rw [State.fld, hr _ hf, State.fld]
  have hlane : linkLane t = linkLane s := by
    funext k
    match k with
    | 0 => exact hf F.TWIN_PAIR_CFG_LANE (by decide)
    | 1 => exact hf F.TWIN_STACK_CFG_LANE_UP (by decide)
    | _ + 2 => exact hf F.TWIN_STACK_CFG_LANE_DOWN (by decide)
  have hused : linkUsed t = linkUsed s := by
    have hg : ∀ f : Fld, f.addr ∈ [Reg.TWIN_CTRL, Reg.TWIN_PAIR_CFG, Reg.TWIN_STACK_CFG] → t.flag f = s.flag f := fun f h => by
      rw [State.flag_eq, hf f h, State.flag_eq]
    funext k
    match k with
    | 0 => exact hg F.TWIN_CTRL_EN (by decide)
    | 1 => exact congrArg₂ and (hg F.TWIN_STACK_CFG_EN (by decide)) (hg F.TWIN_STACK_CFG_UP_EN (by decide))
    | _ + 2 => exact congrArg₂ and (hg F.TWIN_STACK_CFG_EN (by decide)) (hg F.TWIN_STACK_CFG_DOWN_EN (by decide))
  have hfits : linkFits t = linkFits s := by
    funext k
    simp only [linkFits, hlane, hused, State.lane_of_lanes hl]
  rw [linkBad, linkBad, hused, hfits]

/-! ### Writes of ALN_CTRL (R114, R138, R142, R156) -/

/-- A register whose bits are all RW, under its own rule for the value stored. -/
theorem regStored_normed (s : State) (a : Nat) (d : RegDef) (x : Word) (hl : d.rwl = 0) (hw : d.wo = 0) :
    regStored a d allBits x s = s.setReg a ((s.reg a &&& ~~~d.rw) ||| (normWord d.norm (s.reg a) x &&& d.rw)) := by
  have hlk := lockedBits_of_plain s a d hl hw
  have ho : openBits s a d = d.rw := by
    rw [openBits, hlk, hl, hw]
    change (d.rw ||| 0#32 ||| 0#32) &&& ~~~0#32 = d.rw
    rw [BitVec.or_zero, BitVec.or_zero, BitVec.not_zero, BitVec.and_allOnes]
  simp [regStored, ho, givenWord_allBits, hlk, hw, State.raiseIf]

/-- The word that ALN_CTRL takes: MODE 3 as 2 (R156). -/
def alnCtrlWord (d : Word) : Word := if bits d 4 2 = 3 then d &&& ~~~0x10#32 else d

theorem bits_alnCtrlWord (d : Word) {lo w : Nat} (h : ∀ i < w, (~~~0x10#32).getLsbD (lo + i) = true) : bits (alnCtrlWord d) lo w = bits d lo w := by
  rw [alnCtrlWord]
  split
  · exact bits_and_full h
  · rfl

theorem bits_alnCtrlWord_mode (d : Word) : bits (alnCtrlWord d) 4 2 = min (bits d 4 2) 2 := by
  have h4 : bits d 4 2 < 2 ^ 2 := bits_lt _ _ _
  rw [alnCtrlWord]
  split
  · next h3 =>
    have hb : bits (d &&& ~~~0x10#32) 4 2 = 2 := by
      apply Nat.eq_of_testBit_eq
      intro i
      rw [testBit_bits, testBit_and]
      have hd : ∀ i < 2, d.toNat.testBit (4 + i) = true := fun i hi => by
        have hi' : (bits d 4 2).testBit i = (3).testBit i := by rw [h3]
        rw [testBit_bits, decide_eq_true hi, Bool.true_and] at hi'
        rw [hi']
        match i, hi with
        | 0, _ | 1, _ => rfl
      match i with
      | 0 => rw [show (~~~16#32).toNat.testBit (4 + 0) = false by decide, Bool.and_false, Bool.and_false]; rfl
      | 1 => rw [hd 1 (by decide)]; rfl
      | i + 2 => rw [show (2 : Nat) = 2 ^ 1 from rfl, Nat.testBit_two_pow]; simp
    rw [hb, h3]
    rfl
  · omega

/-- The state with a write of `ALN_CTRL` stored, before what it sets off. -/
def alnCtrlStored (m : Nat) (d : Word) (s : State) : State :=
  s.setReg (Reg.ALN_CTRL m) ((s.reg (Reg.ALN_CTRL m) &&& ~~~0xFF7#32) ||| (alnCtrlWord d &&& 0xFF7#32))

theorem alnCtrlWrite_answers {c : Instr} {s : State} {ag : Agent} {m : Nat} {d : Word} {P : State → Prop}
    (hx : exec c s = whenMain s (regWrite ag (Reg.ALN_CTRL m) Rd.ALN_CTRL (actAlnPort m) allBits d)) (hm : s.pwr.mainUp = true)
    (hw : pf1Denied ag (Reg.ALN_CTRL m) s = false)
    (h : ∀ t, actAlnPort m (s.reg (Reg.ALN_CTRL m)) d (alnCtrlStored m d s) = t → P t) : Answers c s P :=
  answers_main hx hm fun t e => h t (by
    rw [regWrite_of_allowed hw, regStore_eq, regStored_normed _ _ _ _ rfl rfl, merge_allBits] at e
    have hn : normWord Rd.ALN_CTRL.norm (s.reg (Reg.ALN_CTRL m)) d = alnCtrlWord d := by
      rw [alnCtrlWord, bits, Nat.shiftRight_eq_div_pow]
      rfl
    rw [hn] at e
    exact e)

section
variable (m : Nat) (d : Word) (s : State)

theorem fld_alnCtrlStored {lo w : Nat} (h : ∀ i < w, (0xFF7#32).getLsbD (lo + i) = true) :
    (alnCtrlStored m d s).fld ⟨Reg.ALN_CTRL m, lo, w⟩ = bits (alnCtrlWord d) lo w :=
  (State.fld_setReg_same s _ ⟨Reg.ALN_CTRL m, lo, w⟩).trans (bits_merge_covered _ _ _ _ _ h)

theorem alnCtrlStored_touches : Touches [] [whole (Reg.ALN_CTRL m)] s (alnCtrlStored m d s) := (Touches.refl _ _ s).setReg _ _ (.head _)

@[simp] theorem alnCtrlStored_lanes : (alnCtrlStored m d s).lanes = s.lanes := State.setReg_lanes ..
@[simp] theorem alnCtrlStored_lane (k : Nat) : (alnCtrlStored m d s).lane k = s.lane k := State.lane_of_lanes (alnCtrlStored_lanes m d s) k
@[simp] theorem alnCtrlStored_pllLocked (k : Nat) : (alnCtrlStored m d s).pllLocked k = s.pllLocked k := rfl

/-- EN and LOOPBACK of the control register, as the old word of a write has them. -/
theorem bit_alnCtrl_en : bit (s.reg (Reg.ALN_CTRL m)) 0 = s.flag (F.ALN_CTRL_EN m) := (decide_bits_one _ 0).symm

/-- A status bit is not in the control register. -/
theorem flag_alnCtrlStored {k lo w : Nat} (h : (k != 0x10) = true) :
    (alnCtrlStored m d s).flag ⟨k + 0x70000 + 1024 * m, lo, w⟩ = s.flag ⟨k + 0x70000 + 1024 * m, lo, w⟩ :=
  (alnCtrlStored_touches m d s).2.flag_eq _ (List.forall_mem_singleton.2 ⟨(by decide : 0 + 32 ≤ 32), Or.inl (by
    simp only [bne_iff_ne] at h
    simp only [whole, Reg.ALN_CTRL]
    omega)⟩)

end

section
variable {m : Nat} {s : State} {old raw : Word}

/-- The rest of a write of ALN_CTRL, once a rise or a fall of EN has acted: the far-end FIFO, and RESYNC. -/
def alnCtrlRest (m : Nat) (old raw : Word) (s : State) : State :=
  let s2 := if bits raw 8 2 = 3 ∧ bits old 8 2 ≠ 3 then s.updLane (768 + m) fun l => { l with fill := 16 } else s
  if bit raw 12 then syncLost m s2 else s2

theorem alnCtrlRest_none (hl : bits old 8 2 = bits raw 8 2) (h12 : bit raw 12 = false) : alnCtrlRest m old raw s = s := by
  simp [alnCtrlRest, hl, h12]

theorem alnCtrlRest_resync (hl : bits old 8 2 = bits raw 8 2) (h12 : bit raw 12 = true) : alnCtrlRest m old raw s = syncLost m s := by
  simp [alnCtrlRest, hl, h12]

/-- Without RESYNC only the FIFO's filling may change. -/
theorem alnCtrlRest_shows (h12 : bit raw 12 = false) {t : State} (ht : t = alnCtrlRest m old raw s) :
    (∃ x, t.lane (768 + m) = { s.lane (768 + m) with fill := x }) ∧ t.regs = s.regs ∧ LanesKeep (768 + m) s t ∧ Moves [.lanes] s t := by
  simp only [alnCtrlRest, h12, Bool.false_eq_true, if_false] at ht
  split at ht
  · subst ht
    exact ⟨⟨16, State.lane_updLane_same ..⟩, rfl, (LanesKeep.refl _ s).updLane _, State.updLane_moves (.refl _ s) _ _ (.head _)⟩
  · subst ht
    exact ⟨⟨_, rfl⟩, rfl, .refl _ t, .refl _ t⟩

theorem actAlnCtrl_rise (h0 : bit old 0 = false) (h1 : bit raw 0 = true) : actAlnCtrl m old raw s = alnCtrlRest m old raw (alnRise m s) := by
  simp [actAlnCtrl, alnCtrlRest, h0, h1]

theorem actAlnCtrl_fall (h0 : bit old 0 = true) (h1 : bit raw 0 = false) : actAlnCtrl m old raw s = alnCtrlRest m old raw (alnFall m s) := by
  simp [actAlnCtrl, alnCtrlRest, h0, h1]

theorem actAlnCtrl_same (h : bit old 0 = bit raw 0) : actAlnCtrl m old raw s = alnCtrlRest m old raw s := by
  simp [actAlnCtrl, alnCtrlRest, h]

end

/-- Beside the lane's own part, a write of ALN_CTRL may form the fixed parts of a timing port. -/
theorem actAlnPort_shows {m : Fin 32} {old raw : Word} {s s1 t : State} (h1 : actAlnCtrl m old raw s = s1) (ht : actAlnPort m old raw s = t) :
    t.lanes = s1.lanes ∧ Touches [] (fixFlds m) s1 t ∧ ((s1.lane (768 + m)).on = false ∨ s1.flag (F.ALN_LANE_STATUS_SYNC m) = false → t = s1) := by
  subst ht h1
  rw [actAlnPort]
  split
  · rw [show Fin.ofNat 32 m.val = m from Fin.ext (Nat.mod_eq_of_lt m.isLt)]
    exact ⟨timingFix_lanes .., timingFix_touches .., fun h => timingFix_down h⟩
  · exact ⟨rfl, .refl _ _ _, fun _ => rfl⟩

/-! ### A rise of EN (R138, R140, R142, R486) -/

theorem laneAt_aux (m : Fin 32) : laneAt (768 + m) = .aux m := by
  rw [laneAt, dif_neg (by omega)]
  exact congrArg _ (Fin.ext (by simp))

theorem alnRise_fits {m : Nat} {s : State} (h : ¬(s.fld (F.ALN_CTRL_MODE m) = 0 ∧ s.fld (F.ALN_CTRL_RATE m) ≠ 0)) :
    alnRise m s = linkCfgCheck (laneStarts (768 + m) (s.updLane (768 + m) fun l =>
      { l with on := true, mode := s.fld (F.ALN_CTRL_MODE m), rate := s.fld (F.ALN_CTRL_RATE m), txPlus := false, misplaced := false, lost := false })) :=
  if_neg h

theorem alnRise_rejected {m : Nat} {s : State} (h0 : s.fld (F.ALN_CTRL_MODE m) = 0) (hr : s.fld (F.ALN_CTRL_RATE m) ≠ 0) :
    alnRise m s = linkCfgCheck ((s.raise (F.ALN_INT_STATUS_CFG_REJECT m)).updLane (768 + m) fun l => { l with mode := 0 }) :=
  if_pos ⟨h0, hr⟩

/-- The check of the links after a rise, and the fixed parts formed after it. -/
theorem linkCfgCheck_settles {m : Fin 32} {v t : State} (hl : t.lanes = (linkCfgCheck v).lanes) (ht : Touches [] (fixFlds m) (linkCfgCheck v) t) :
    t.flag F.TWIN_INT_STATUS_LINK_CFG_REJECT = (v.flag F.TWIN_INT_STATUS_LINK_CFG_REJECT || linkBad t) ∧ t.lanes = v.lanes ∧
    Touches [] (F.TWIN_INT_STATUS_LINK_CFG_REJECT :: fixFlds m) v t := by
  have hfar := fixFlds_addr m m.isLt
  rw [linkCfgCheck_eq] at hl ht
  rw [State.raiseIf_lanes] at hl
  have touch : Touches [] (F.TWIN_INT_STATUS_LINK_CFG_REJECT :: fixFlds m) v t :=
    ((Touches.refl _ _ v).raiseIf _ _ fun _ => .head _).andThen ht (by simp) fun f hf => .tail _ hf
  have hbad : linkBad t = linkBad v := linkBad_congr hl fun a ha => touch.2.reg_eq a (by
    have hne : a ≠ F.TWIN_INT_STATUS_LINK_CFG_REJECT.addr ∧ 0x1ac000 ≤ a := by
      have hall : ∀ a ∈ [Reg.TWIN_CTRL, Reg.TWIN_PAIR_CFG, Reg.TWIN_STACK_CFG], a ≠ F.TWIN_INT_STATUS_LINK_CFG_REJECT.addr ∧ 0x1ac000 ≤ a := by decide
      exact hall a ha
    refine List.forall_mem_cons.2 ⟨hne.1, fun f hf => ?_⟩
    have := (hfar f hf).2
    omega)
  refine ⟨?_, hl, touch⟩
  rw [ht.2.flag_eq F.TWIN_INT_STATUS_LINK_CFG_REJECT, State.flag_raiseIf_same _ _ _ (by decide) rfl, hbad, Bool.or_comm]
  intro f hf
  have h1 := (hfar f hf).2
  have h2 : f.lo + f.w ≤ 32 := by
    revert f
    simp only [fixFlds, List.forall_mem_cons, whole]
    exact ⟨fun _ => le_rfl, fun _ => le_rfl, fun _ h => (nomatch h)⟩
  exact ⟨h2, Or.inl (by simp only [F.TWIN_INT_STATUS_LINK_CFG_REJECT, Reg.TWIN_INT_STATUS]; omega)⟩

end Sys2Proof.Machine
end

section
/-!
SUPPORT. Auxiliary lanes: synchronisation won and lost, and the groups that they receive (R137 to R141, R574). O15 follows.
-/
namespace Sys2Proof.Machine
set_option Elab.async false

/-! ### Synchronisation lost, and the fall of EN (R114, R138) -/

/-- The fields that a loss of synchronisation may change. -/
def syncLostFlds (m : Nat) : List Fld := [F.ALN_LANE_STATUS_SYNC m, F.ALN_LANE_STATUS_AN_COMPLETE m, F.ALN_INT_STATUS_SYNC_LOST m]

theorem syncLost_shows (m : Nat) (s : State) {t : State} (ht : t = syncLost m s) :
    t.flag (F.ALN_LANE_STATUS_SYNC m) = false ∧ (s.flag (F.ALN_LANE_STATUS_SYNC m) = true → t.flag (F.ALN_LANE_STATUS_AN_COMPLETE m) = false) ∧
    t.flag (F.ALN_INT_STATUS_SYNC_LOST m) = (s.flag (F.ALN_INT_STATUS_SYNC_LOST m) || s.flag (F.ALN_LANE_STATUS_SYNC m)) ∧ t.lanes = s.lanes ∧
    Touches [] (syncLostFlds m) s t := by
  rw [syncLost] at ht
  split at ht
  · next hs =>
    subst ht
    refine ⟨?_, fun _ => ?_, ?_, by rw [State.raise_lanes, State.setFlag_lanes, State.setFlag_lanes],
      (((Touches.refl _ _ s).setFlag _ _ (by simp [syncLostFlds])).setFlag _ _ (by simp [syncLostFlds])).raise _ (by simp [syncLostFlds])⟩
    · rw [State.flag_raise _ (F.ALN_INT_STATUS_SYNC_LOST m) (F.ALN_LANE_STATUS_SYNC m) (aln_apart rfl),
        State.flag_setFlag _ (F.ALN_LANE_STATUS_AN_COMPLETE m) (F.ALN_LANE_STATUS_SYNC m) _ (aln_apart rfl),
        State.flag_setFlag_same _ _ _ (of_decide_eq_true rfl) rfl]
    · rw [State.flag_raise _ (F.ALN_INT_STATUS_SYNC_LOST m) (F.ALN_LANE_STATUS_AN_COMPLETE m) (aln_apart rfl), State.flag_setFlag_same _ _ _ (of_decide_eq_true rfl) rfl]
    · rw [State.flag_raise_same _ _ (of_decide_eq_true rfl) rfl, hs, Bool.or_true]
  · next hs =>
    subst ht
    exact ⟨eq_false_of_ne_true hs, fun h => absurd h hs, by rw [eq_false_of_ne_true hs, Bool.or_false], rfl, .refl _ _ _⟩

/-- The status bits that a fall of EN clears (log 14). -/
def alnFallClears (m : Nat) : List Fld :=
  [F.ALN_LANE_STATUS_SIGNAL m, F.ALN_LANE_STATUS_CDR_LOCK m, F.ALN_LANE_STATUS_SYNC m, F.ALN_LANE_STATUS_PRBS_LOCKED m, F.ALN_LANE_STATUS_AN_COMPLETE m]

theorem alnFall_eq (m : Nat) (s : State) : alnFall m s = (clearFlags (alnFallClears m) s).updLane (768 + m) fun l => { l with on := false } := rfl

theorem alnFallClears_bits (m : Nat) : ∀ f ∈ alnFallClears m, f.lo + f.w ≤ 32 ∧ f.w = 1 := by
  simp only [alnFallClears, List.forall_mem_cons]
  exact ⟨⟨of_decide_eq_true rfl, rfl⟩, ⟨of_decide_eq_true rfl, rfl⟩, ⟨of_decide_eq_true rfl, rfl⟩, ⟨of_decide_eq_true rfl, rfl⟩,
    ⟨of_decide_eq_true rfl, rfl⟩, fun _ h => (nomatch h)⟩

theorem alnFall_shows (m : Nat) (s : State) {t : State} (ht : t = alnFall m s) :
    t.lane (768 + m) = { s.lane (768 + m) with on := false } ∧ (∀ f ∈ alnFallClears m, t.flag f = false) ∧ LanesKeep (768 + m) s t ∧
    Touches [.lanes] (alnFallClears m) s t := by
  rw [alnFall_eq] at ht
  subst ht
  refine ⟨by rw [State.lane_updLane_same, clearFlags_lane], fun f hf => ?_, fun k hk => by rw [State.lane_updLane_ne _ _ hk, clearFlags_lane],
    ((clearFlags_touches _ s).mono (by simp) fun f hf => hf).updLane _ _ (.head _)⟩
  rw [State.updLane_flag, flag_clearFlags _ (alnFallClears_bits m) s f (Or.inl hf)]

/-! ### The groups of a lane in synchronisation (R138 to R141) -/

/-- What taking a group may change of lane `m` beside the fields listed. -/
structure GroupFrame (m : Nat) (fs : List Fld) (s t : State) : Prop where
  lanes : LanesKeep (768 + m) s t
  touch : Touches [.lanes] fs s t

section
variable {m : Nat} {fs gs : List Fld} {s t u : State}

theorem GroupFrame.refl (m : Nat) (fs : List Fld) (s : State) : GroupFrame m fs s s := ⟨.refl _ s, .refl _ _ s⟩

theorem GroupFrame.andThen (h : GroupFrame m fs s t) (g : GroupFrame m gs t u) (hf : ∀ f ∈ gs, f ∈ fs) : GroupFrame m fs s u :=
  ⟨h.lanes.trans g.lanes, h.touch.andThen g.touch (by simp) hf⟩

theorem GroupFrame.updLane (h : GroupFrame m fs s t) (f : LaneSt → LaneSt) : GroupFrame m fs s (t.updLane (768 + m) f) :=
  ⟨h.lanes.updLane f, h.touch.updLane _ f (.head _)⟩

/-- An operation on registers. -/
theorem GroupFrame.regs (h : GroupFrame m fs s t) (e : u.lanes = t.lanes) (g : Touches [] fs t u) : GroupFrame m fs s u :=
  ⟨h.lanes.of_lanes e, h.touch.andThen g (by simp) fun _ hf => hf⟩

end

theorem GroupFrame.mono {m : Nat} {fs gs : List Fld} {s t : State} (h : GroupFrame m gs s t) (hf : ∀ f ∈ gs, f ∈ fs) : GroupFrame m fs s t :=
  (GroupFrame.refl m fs s).andThen h hf

theorem GroupFrame.setRd {m : Nat} {fs : List Fld} {s t : State} (h : GroupFrame m [] s t) (b : Bool) :
    GroupFrame m (F.ALN_LANE_STATUS_RD m :: fs) s (t.setFlag (F.ALN_LANE_STATUS_RD m) b) :=
  (h.mono (by simp)).regs (State.setFlag_lanes ..) ((Touches.refl _ _ t).setFlag _ _ (.head _))

/-- A group kept for far-end loopback changes that list of words alone. -/
theorem keepGroup_shows (m slot : Nat) (g : BitVec 10) (s : State) {t : State} (ht : t = keepGroup m slot g s) :
    (∃ ws, t.lane (768 + m) = { s.lane (768 + m) with rxWords := ws }) ∧ t.regs = s.regs ∧ GroupFrame m [] s t := by
  subst ht
  refine ⟨?_, rfl, (GroupFrame.refl m [] s).updLane _⟩
  rw [keepGroup, State.lane_updLane_same]
  split
  · exact ⟨_, rfl⟩
  · split <;> exact ⟨_, rfl⟩

theorem keepGroup_first (m : Nat) (g : BitVec 10) (s : State) :
    (keepGroup m 0 g s).lane (768 + m) = { s.lane (768 + m) with rxWords := (g.setWidth 128 :: (s.lane (768 + m)).rxWords).take 32 } := by
  rw [keepGroup, State.lane_updLane_same, if_pos rfl]

/-- A valid group: the count of bad ones goes back by one after four valid ones in a row. -/
theorem syncGroup_valid (m : Nat) (s : State) {t : State} (ht : t = syncGroup m true s) :
    (t.lane (768 + m)).badGroups = (s.lane (768 + m)).badGroups - (if 3 ≤ (s.lane (768 + m)).goodGroups then 1 else 0) ∧ t.regs = s.regs ∧
    GroupFrame m [] s t := by
  rw [syncGroup, if_pos rfl] at ht
  split at ht
  · next hz =>
    subst ht
    exact ⟨by rw [hz, Nat.zero_sub], rfl, .refl m [] t⟩
  · subst ht
    refine ⟨?_, rfl, (GroupFrame.refl m [] s).updLane _⟩
    rw [State.lane_updLane_same]
    split <;> rfl

/-- A group that is not valid: the fourth loses synchronisation. -/
theorem syncGroup_invalid (m : Nat) (s : State) (hs : s.flag (F.ALN_LANE_STATUS_SYNC m) = true) {t : State} (ht : t = syncGroup m false s) :
    ((s.lane (768 + m)).badGroups < 3 → t.flag (F.ALN_LANE_STATUS_SYNC m) = true ∧ (t.lane (768 + m)).badGroups = (s.lane (768 + m)).badGroups + 1) ∧
    (3 ≤ (s.lane (768 + m)).badGroups → t.flag (F.ALN_LANE_STATUS_SYNC m) = false ∧ t.flag (F.ALN_INT_STATUS_SYNC_LOST m) = true) ∧
    (∃ x y, t.lane (768 + m) = { s.lane (768 + m) with badGroups := x, goodGroups := y }) ∧ GroupFrame m (syncLostFlds m) s t := by
  rw [syncGroup, if_neg Bool.false_ne_true] at ht
  split at ht
  · next hb =>
    obtain ⟨sync, -, lost, same, touch⟩ := syncLost_shows m _ ht
    have frame := ((GroupFrame.refl m (syncLostFlds m) s).updLane fun l => { l with badGroups := 0, goodGroups := 0 })
    rw [State.updLane_flag, State.updLane_flag, hs, Bool.or_true] at lost
    exact ⟨fun h => by omega, fun _ => ⟨sync, lost⟩, ⟨0, 0, by rw [State.lane_of_lanes same, State.lane_updLane_same]⟩, frame.regs same touch⟩
  · next hb =>
    subst ht
    exact ⟨fun _ => ⟨hs, by rw [State.lane_updLane_same]⟩, fun h => absurd h hb, ⟨_, _, State.lane_updLane_same ..⟩, (GroupFrame.refl m _ s).updLane _⟩

/-! ### The decoder (R140, R141, R574) -/

/-- The counter words and the cause of a 64-bit counter of lane `m`. -/
def counterFlds (a : Nat) (m : Nat) : List Fld := [whole a, whole (a + 1), F.ALN_INT_STATUS_CNT_OVF m]

/-- A group of a lane that is not in MODE 2: a character at the running disparity, one at the other, or none. -/
theorem codeGroup_char {m slot c : Nat} {s : State} (hm : (s.lane (768 + m)).mode ≠ 2) {ch : Nat}
    (hd : decodeAt (s.flag (F.ALN_LANE_STATUS_RD m)) c = some ch) :
    codeGroup m slot c s = s.setFlag (F.ALN_LANE_STATUS_RD m) (endPlus c (s.flag (F.ALN_LANE_STATUS_RD m))) := by
  simp only [codeGroup, hd, hm, if_false]

theorem codeGroup_raw {m slot c : Nat} {s : State} (hm : (s.lane (768 + m)).mode = 2) {ch : Nat}
    (hd : decodeAt (s.flag (F.ALN_LANE_STATUS_RD m)) c = some ch) :
    codeGroup m slot c s = rawRx m slot ch false (s.setFlag (F.ALN_LANE_STATUS_RD m) (endPlus c (s.flag (F.ALN_LANE_STATUS_RD m)))) := by
  simp only [codeGroup, hd, hm, if_true]

theorem codeGroup_disparity {m slot c : Nat} {s : State} (hm : (s.lane (768 + m)).mode ≠ 2) {ch : Nat}
    (hn : decodeAt (s.flag (F.ALN_LANE_STATUS_RD m)) c = none) (hd : decodeAt (!s.flag (F.ALN_LANE_STATUS_RD m)) c = some ch) :
    codeGroup m slot c s = (s.setFlag (F.ALN_LANE_STATUS_RD m) (endPlus c (!s.flag (F.ALN_LANE_STATUS_RD m)))).bump64 (Reg.ALN_DISP_ERR_LO m) 1
      (some (F.ALN_INT_STATUS_CNT_OVF m)) := by
  simp only [codeGroup, hn, hd, hm, if_false]

theorem codeGroup_none {m slot c : Nat} {s : State} (hm : (s.lane (768 + m)).mode ≠ 2)
    (hn : decodeAt (s.flag (F.ALN_LANE_STATUS_RD m)) c = none) (hd : decodeAt (!s.flag (F.ALN_LANE_STATUS_RD m)) c = none) :
    codeGroup m slot c s = s.bump64 (Reg.ALN_CODE_ERR_LO m) 1 (some (F.ALN_INT_STATUS_CNT_OVF m)) := by
  simp only [codeGroup, hn, hd, hm, if_false]

/-- The first slot of TST_RAW_RX. -/
theorem rawRx_first (m ch : Nat) (hc : ch < 512) (s : State) {t : State} (ht : t = rawRx m 0 ch false s) :
    t.fld ⟨Reg.TST_RAW_RX m, 0, 9⟩ = ch ∧ t.fld ⟨Reg.TST_RAW_RX m, 9, 1⟩ = 0 ∧
    t.fld ⟨Reg.TST_RAW_RX m, 31, 1⟩ = (if s.flag (F.ALN_LANE_STATUS_SYNC m) then 1 else 0) ∧ t.lanes = s.lanes ∧
    Touches [] [whole (Reg.TST_RAW_RX m)] s t := by
  have hf : ∀ lo w, t.fld ⟨Reg.TST_RAW_RX m, lo, w⟩ =
      bits (putBits (putBits (putBits (s.reg (Reg.TST_RAW_RX m)) 0 9 ch) 9 1 0) 31 1 (if s.flag (F.ALN_LANE_STATUS_SYNC m) then 1 else 0)) lo w :=
    fun lo w => by
      rw [ht]
      exact State.fld_setReg_same _ _ ⟨Reg.TST_RAW_RX m, lo, w⟩
  refine ⟨?_, ?_, ?_, by rw [ht, rawRx, State.setReg_lanes], ht ▸ (Touches.refl _ _ s).setReg _ _ (.head _)⟩
  · rw [hf, bits_putBits_disjoint _ _ _ _ _ _ (by decide) (by decide), bits_putBits_disjoint _ _ _ _ _ _ (by decide) (by decide),
      bits_putBits_same _ _ _ _ (by decide)]
    exact Nat.mod_eq_of_lt hc
  · rw [hf, bits_putBits_disjoint _ _ _ _ _ _ (by decide) (by decide), bits_putBits_same _ _ _ _ (by decide), Nat.zero_mod]
  · rw [hf, bits_putBits_same _ _ _ _ (by decide)]
    split <;> rfl

theorem aln_reg_ne {m k k' lo w : Nat} (h : (k != k') = true) : k + 0x70000 + 1024 * m ≠ (⟨k' + 0x70000 + 1024 * m, lo, w⟩ : Fld).addr := by
  simp only [bne_iff_ne] at h
  dsimp only
  omega

/-- The registers of a counter lie apart from those of a loss of synchronisation. -/
theorem syncLostFlds_reg_ne {m k : Nat} (h : (k != 0x11 && k != 4) = true) : ∀ f ∈ syncLostFlds m, k + 0x70000 + 1024 * m ≠ f.addr := by
  simp only [Bool.and_eq_true] at h
  exact List.forall_mem_cons.2 ⟨aln_reg_ne h.1, List.forall_mem_cons.2 ⟨aln_reg_ne h.1, List.forall_mem_singleton.2 (aln_reg_ne h.2)⟩⟩

/-- The first K28.5 misplaced since synchronisation (R139). -/
theorem commaMisplaced_first {m : Nat} {s : State} (h : (s.lane (768 + m)).misplaced = false) {t : State} (ht : t = commaMisplaced m s) :
    t.reg (Reg.ALN_COMMA_MISPLACED m) = s.reg (Reg.ALN_COMMA_MISPLACED m) + 1 ∧ t.flag (F.ALN_INT_STATUS_COMMA_MISPLACED m) = true ∧
    t.flag (F.ALN_LANE_STATUS_SYNC m) = s.flag (F.ALN_LANE_STATUS_SYNC m) ∧ t.lane (768 + m) = { s.lane (768 + m) with misplaced := true } ∧
    GroupFrame m [whole (Reg.ALN_COMMA_MISPLACED m), F.ALN_INT_STATUS_COMMA_MISPLACED m, F.ALN_INT_STATUS_CNT_OVF m] s t := by
  have he : t = ((s.bump32 (Reg.ALN_COMMA_MISPLACED m) 1 (some (F.ALN_INT_STATUS_CNT_OVF m))).raise (F.ALN_INT_STATUS_COMMA_MISPLACED m)).updLane
      (768 + m) fun l => { l with misplaced := true } := ht.trans (if_neg (ne_true_of_eq_false h))
  subst he
  refine ⟨?_, ?_, ?_, by simp, ⟨fun k hk => by simp [State.lane_updLane_ne, hk],
    (((Touches.refl _ _ s).bump32 _ _ _ (by simp) (by simp)).raise _ (by simp)).updLane _ _ (by simp)⟩⟩
  · exact (State.updLane_reg ..).trans ((State.reg_raise_ne _ (F.ALN_INT_STATUS_COMMA_MISPLACED m) (aln_reg_ne (k := 0x1c) rfl)).trans
      (State.reg_bump32_one _ _ (F.ALN_INT_STATUS_CNT_OVF m) (aln_reg_ne (k := 0x1c) rfl)))
  · rw [State.updLane_flag, State.flag_raise_same _ _ (of_decide_eq_true rfl) rfl]
  · exact (State.updLane_flag ..).trans ((State.flag_raise _ (F.ALN_INT_STATUS_COMMA_MISPLACED m) (F.ALN_LANE_STATUS_SYNC m) (aln_apart rfl)).trans
      (State.flag_bump32 _ _ _ (F.ALN_INT_STATUS_CNT_OVF m) (F.ALN_LANE_STATUS_SYNC m)
        (aln_reg_ne (k := 0x1c) (k' := 0x11) (lo := 10) (w := 1) rfl).symm (aln_apart rfl)))

/-- The disparity that a K28.5 gives the decoder is the one that it ends on. -/
theorem endPlus_comma {c : Nat} (h : isK285 c = true) : endPlus c (c == 0b1100000101) = decide (c = 0b0011111010) := by
  have hc : c = 0b0011111010 ∨ c = 0b1100000101 := by simpa [isK285] using h
  rcases hc with rfl | rfl <;> decide

/-- The K28.5 that starts the search, on a lane that is not in MODE 2. -/
theorem alignComma_eq {m c : Nat} {s : State} (hm : (s.lane (768 + m)).mode ≠ 2) :
    alignComma m c s = (s.setFlag (F.ALN_LANE_STATUS_RD m) (endPlus c (c == 0b1100000101))).updLane (768 + m) fun l => { l with acq := 1 } :=
  if_neg hm

/-- An advance of a 64-bit counter of lane `m`. -/
theorem bump64_shows {m k : Nat} (n : Nat) (s : State) (hk : 0x12 ≤ k) {t : State}
    (ht : t = s.bump64 (k + 0x70000 + 1024 * m) n (some (F.ALN_INT_STATUS_CNT_OVF m))) :
    t.reg64 (k + 0x70000 + 1024 * m) (k + 0x70000 + 1024 * m + 1) =
      (s.reg64 (k + 0x70000 + 1024 * m) (k + 0x70000 + 1024 * m + 1) + n) % 2 ^ 64 ∧
    GroupFrame m (counterFlds (k + 0x70000 + 1024 * m) m) s t := by
  have ho : (F.ALN_INT_STATUS_CNT_OVF m).addr = 0x70004 + 1024 * m := rfl
  subst ht
  exact ⟨State.reg64_bump64 _ _ _ _ (by rw [ho]; omega) (by rw [ho]; omega),
    (GroupFrame.refl m _ s).regs (State.bump64_lanes ..) ((Touches.refl _ _ s).bump64 _ _ _ (by simp [counterFlds]) (by simp [counterFlds])
      (by simp [counterFlds]))⟩

/-- The counters lie above the status of the lane, and above its causes. -/
theorem counterFlds_apart_status {m k lo : Nat} (hk : 0x12 ≤ k) : ∀ f ∈ counterFlds (k + 0x70000 + 1024 * m) m, Apart f ⟨0x70011 + 1024 * m, lo, 1⟩ := by
  have h1 : k + 0x70000 + 1024 * m ≠ 0x70011 + 1024 * m := by omega
  have h2 : k + 0x70000 + 1024 * m + 1 ≠ 0x70011 + 1024 * m := by omega
  have h3 : 0x70004 + 1024 * m ≠ 0x70011 + 1024 * m := by omega
  exact List.forall_mem_cons.2 ⟨⟨of_decide_eq_true rfl, Or.inl h1.symm⟩, List.forall_mem_cons.2 ⟨⟨of_decide_eq_true rfl, Or.inl h2.symm⟩,
    List.forall_mem_singleton.2 ⟨of_decide_eq_true rfl, Or.inl h3.symm⟩⟩⟩

theorem syncLostFlds_addr {m k : Nat} (hk : 0x12 ≤ k) :
    ∀ f ∈ syncLostFlds m, k + 0x70000 + 1024 * m ≠ f.addr ∧ k + 0x70000 + 1024 * m + 1 ≠ f.addr := by
  have h1 : k + 0x70000 + 1024 * m ≠ 0x70011 + 1024 * m ∧ k + 0x70000 + 1024 * m + 1 ≠ 0x70011 + 1024 * m := by omega
  have h2 : k + 0x70000 + 1024 * m ≠ 0x70004 + 1024 * m ∧ k + 0x70000 + 1024 * m + 1 ≠ 0x70004 + 1024 * m := by omega
  exact List.forall_mem_cons.2 ⟨h1, List.forall_mem_cons.2 ⟨h1, List.forall_mem_singleton.2 h2⟩⟩

/-- A group that is not valid, counted in the counter at `k` of lane `m`. -/
theorem badGroup_shows {m k : Nat} (s : State) (hk : 0x12 ≤ k) (hs : s.flag (F.ALN_LANE_STATUS_SYNC m) = true) {t : State}
    (ht : t = syncGroup m false (s.bump64 (k + 0x70000 + 1024 * m) 1 (some (F.ALN_INT_STATUS_CNT_OVF m)))) :
    t.reg64 (k + 0x70000 + 1024 * m) (k + 0x70000 + 1024 * m + 1) =
      (s.reg64 (k + 0x70000 + 1024 * m) (k + 0x70000 + 1024 * m + 1) + 1) % 2 ^ 64 ∧
    ((s.lane (768 + m)).badGroups < 3 → t.flag (F.ALN_LANE_STATUS_SYNC m) = true ∧ (t.lane (768 + m)).badGroups = (s.lane (768 + m)).badGroups + 1) ∧
    (3 ≤ (s.lane (768 + m)).badGroups → t.flag (F.ALN_LANE_STATUS_SYNC m) = false ∧ t.flag (F.ALN_INT_STATUS_SYNC_LOST m) = true) ∧
    GroupFrame m (counterFlds (k + 0x70000 + 1024 * m) m ++ syncLostFlds m) s t := by
  obtain ⟨count, frame⟩ := bump64_shows (m := m) 1 s hk rfl
  have hrec := State.lane_of_lanes (State.bump64_lanes s (k + 0x70000 + 1024 * m) 1 (some (F.ALN_INT_STATUS_CNT_OVF m))) (768 + m)
  have sync := frame.touch.2.flag_eq (F.ALN_LANE_STATUS_SYNC m) (counterFlds_apart_status hk)
  generalize s.bump64 (k + 0x70000 + 1024 * m) 1 (some (F.ALN_INT_STATUS_CNT_OVF m)) = r at ht count frame hrec sync
  obtain ⟨few, many, -, frame'⟩ := syncGroup_invalid m r (sync.trans hs) ht
  rw [hrec] at few many
  refine ⟨(State.reg64_of_flds frame'.touch.2 _ _ (syncLostFlds_addr hk)).trans count, few, many, (frame.mono fun f hf => List.mem_append_left _ hf).andThen frame' fun f hf => List.mem_append_right _ hf⟩

/-! ### A group taken -/

section
variable {m slot c : Nat} {atB : Bool} {s : State}

/-- A group at the boundary of a synchronised lane that is no K28.5 out of its place. -/
theorem takeGroup_placed (hs : s.flag (F.ALN_LANE_STATUS_SYNC m) = true) (hp : isK285 c = false ∨ slot = 0) :
    takeGroup m slot true c s = syncGroup m (decodeAt (s.flag (F.ALN_LANE_STATUS_RD m)) c).isSome (codeGroup m slot c s) := by
  have hmis : (isK285 c && (!true || decide (slot = 1))) = false := by
    rcases hp with h | h <;> simp [h]
  simp only [takeGroup, hs, not_true_eq_false, if_false, hmis, Bool.false_eq_true, Bool.not_false, Bool.and_true, if_true]

/-- A K28.5 off the boundary of a synchronised lane. -/
theorem takeGroup_misplaced (hs : s.flag (F.ALN_LANE_STATUS_SYNC m) = true) (hk : isK285 c = true) :
    takeGroup m slot false c s = syncGroup m false (commaMisplaced m s) := by
  simp [takeGroup, hs, hk]

/-- A lane that seeks synchronisation starts with a K28.5. -/
theorem takeGroup_starts (hs : s.flag (F.ALN_LANE_STATUS_SYNC m) = false) (hk : isK285 c = true) (ha : (s.lane (768 + m)).acq = 0) :
    takeGroup m slot atB c s = alignComma m c s := by
  simp [takeGroup, seekGroup, hs, hk, ha]

/-- Its next groups are decoded at the boundary that the K28.5 has set. -/
theorem takeGroup_seeks (hs : s.flag (F.ALN_LANE_STATUS_SYNC m) = false) (hk : isK285 c = false ∨ (s.lane (768 + m)).acq ≠ 0) :
    takeGroup m 0 true c s = (codeGroup m 0 c s).updLane (768 + m) fun l =>
      { l with acq := acqNext (s.lane (768 + m)).acq (isK285 c) (decodeAt (s.flag (F.ALN_LANE_STATUS_RD m)) c) } := by
  have hn : ¬(isK285 c = true ∧ ((s.lane (768 + m)).acq = 0 ∨ ¬true = true ∨ (0 : Nat) = 1)) := by
    rintro ⟨h1, h2 | h2 | h2⟩
    · rcases hk with h | h
      · exact absurd h1 (ne_true_of_eq_false h)
      · exact h h2
    · exact h2 rfl
    · exact absurd h2 (by decide)
  rw [takeGroup, if_pos (ne_true_of_eq_false hs), seekGroup, if_neg hn, if_pos rfl]

end

/-! ### The steps to synchronisation (log 9) -/

section
variable {a : Nat} {comma : Bool} {ch : Nat}

/-- After a K28.5 a data character is due. -/
theorem acqNext_data (h : a ∈ ([1, 3, 5] : List Nat)) : acqNext a comma (some ch) = if ch < 256 then a + 1 else 0 := by
  simp only [List.mem_cons, List.not_mem_nil, or_false] at h
  rw [acqNext, if_pos h, Option.any_some]
  simp only [decide_eq_true_eq]

/-- After a pair the next K28.5 is due, at any later group. -/
theorem acqNext_gap (h : a ∈ ([2, 4] : List Nat)) : acqNext a comma (some ch) = if comma then a + 1 else a := by
  simp only [List.mem_cons, List.not_mem_nil, or_false] at h
  rw [acqNext, if_neg (by omega), if_pos h, Option.isSome_some, if_pos rfl]

theorem acqNext_idle {o : Option Nat} (h : a ∈ ([0, 6] : List Nat)) : acqNext a comma o = a := by
  simp only [List.mem_cons, List.not_mem_nil, or_false] at h
  rw [acqNext, if_neg (by omega), if_neg (by omega)]

/-- An invalid group starts the search over. -/
theorem acqNext_none (h : a < 6) : acqNext a false none = 0 := by
  rw [acqNext]
  split
  · rfl
  · split
    · rfl
    · omega

end

/-! ### The clauses of O15 -/

section
variable {s : State} {m : Fin 32}

/-- Status fields read as before a write of ALN_CTRL and a lane's record. -/
theorem alnCtrlStored_all (d : Word) {ps : List Part} {fs : List Fld} (h : whole (Reg.ALN_CTRL m) ∈ fs) : Touches ps fs s (alnCtrlStored m d s) :=
  (alnCtrlStored_touches m d s).mono (by simp) (by simpa using h)

/-- The word written to ALN_CTRL keeps LOOPBACK. -/
theorem alnLoopback_same {d x : Word} (hl : bits d 8 2 = s.fld (F.ALN_CTRL_LOOPBACK m)) (h : ∀ i < 2, x.getLsbD (8 + i) = false) :
    bits (s.reg (Reg.ALN_CTRL m)) 8 2 = bits (d ||| x) 8 2 := hl.symm.trans (bits_or_clear h).symm

/-- A received group, of an enabled lane. -/
theorem codeGroupReceive_answers {slot : Fin 2} {atB : Bool} {g : BitVec 10} {P : State → Prop} (hm : s.pwr.mainUp = true)
    (hon : (s.lane (768 + m)).on = true)
    (h : ∀ t, takeGroup m slot atB (rev10 (heardGroup m slot g s).toNat) (if atB then keepGroup m slot (heardGroup m slot g s) s else s) = t → P t) :
    Answers (.alnCodeGroupReceive m slot atB g) s P := by
  have hx : exec (.alnCodeGroupReceive m slot atB g) s = execAlnCodeGroupReceive m slot atB g s := rfl
  exact answers_main hx hm fun t e => h t ((if_neg (not_not.2 hon)).symm.trans e)

/-- What the check of the links and the fixed parts change lies outside a lane's page. -/
theorem settled_apart_aln {k lo w : Nat} (h : Nat.ble k 1023 = true) :
    ∀ f ∈ F.TWIN_INT_STATUS_LINK_CFG_REJECT :: fixFlds m, Apart f ⟨k + 0x70000 + 1024 * m, lo, w⟩ :=
  List.forall_mem_cons.2 ⟨aln_apart_below (by decide) (by rw [h]; rfl), fixFlds_apart_aln h⟩

end

/-- A polarity inverted word at the RX balls is an inverted group (R156). -/
theorem group_of_word (g : BitVec 10) (slot : Fin 2) (inv : Bool) :
    BitVec.ofNat 10 ((if inv then (g.setWidth 128 <<< (10 * slot.val)) ^^^ 0xFFFFF#128 else g.setWidth 128 <<< (10 * slot.val)).toNat / 2 ^ (10 * slot.val)) =
      if inv then ~~~g else g := by
  have hslot := slot.isLt
  have hmask : ∀ j < 20, (0xFFFFF#128).getLsbD j = true := by decide
  have hshift : ∀ i < 10, (g.setWidth 128 <<< (10 * slot.val)).getLsbD (10 * slot.val + i) = g.getLsbD i := fun i hi => by
    have h1 : 10 * slot.val + i < 128 := by omega
    simp [h1]
  apply BitVec.eq_of_getLsbD_eq
  intro i hi
  rw [BitVec.getLsbD_ofNat, decide_eq_true hi, Bool.true_and, Nat.testBit_div_two_pow, Nat.add_comm]
  cases inv
  · exact hshift i hi
  · have hx := BitVec.getLsbD_xor (x := g.setWidth 128 <<< (10 * slot.val)) (y := 0xFFFFF#128) (i := 10 * slot.val + i)
    rw [hshift i hi, hmask _ (by omega), Bool.xor_true] at hx
    refine hx.trans ?_
    simp [hi]

/-- Settles O15: each step of the life of an auxiliary lane, from the lemmas on its operations. -/
theorem auxiliaryLanes : Obligations.AuxiliaryLanes := by
  refine ⟨fun s ag m d hm hw he hl h12 hmode => ?_, fun s ag m d hm hw he hl h12 hmode hrate => ?_, fun s ag m d hm hw he h12 => ?_,
    fun s m b hm hon hc hs ha => answers_main rfl hm fun t e => ?_, fun s m b hm h => answers_main rfl hm fun t e => ?_,
    fun s m hm hon hmode hs ha => answers_main rfl hm fun t e => ?_, fun s m hm hs => answers_main rfl hm fun t e => ?_,
    fun s ag m d hm hw he hl hs => ?_, fun s m cdr hm hf => answers_main rfl hm fun t e => ?_,
    fun s m slot ch g hm hon hmode hs hk hd => codeGroupReceive_answers hm hon fun t e => ?_,
    fun s m slot ch g hm hon hmode hs hk hn hd => codeGroupReceive_answers hm hon fun t e => ?_,
    fun s m slot g hm hon hmode hs hn hn' hk => codeGroupReceive_answers hm hon fun t e => ?_,
    fun s m slot g hm hon hs hk hmis => codeGroupReceive_answers hm hon fun t e => ?_,
    fun s m ch g hm hon hmode hs hd hch => codeGroupReceive_answers hm hon fun t e => ?_,
    fun s m g c hm hon hs hc hk ha hmode => codeGroupReceive_answers hm hon fun t e => ?_,
    fun s m g c ch hm hon hs hc hk hmode hd => codeGroupReceive_answers hm hon fun t e => ?_,
    fun s m g c hm hon hs hc hk hmode hn hn' => codeGroupReceive_answers hm hon fun t e => ?_,
    fun s m ch g hm hon hmode hs hk hd hch => codeGroupReceive_answers hm hon fun t e => ?_, fun s m slot g hl => ?_⟩
  · refine alnCtrlWrite_answers rfl hm hw fun t e => ?_
    have hwrite : actAlnCtrl m (s.reg (Reg.ALN_CTRL m)) (d ||| 1) (alnCtrlStored m (d ||| 1) s) = alnRise m (alnCtrlStored m (d ||| 1) s) := by
      rw [actAlnCtrl_rise ((bit_alnCtrl_en m s).trans he) (by rw [bit_or_ofNat]; simp [bit]),
        alnCtrlRest_none (alnLoopback_same hl (by decide)) (by rw [bit_eq_getLsbD]; simpa using h12)]
    have hmode' : (alnCtrlStored m (d ||| 1) s).fld (F.ALN_CTRL_MODE m) = min (bits d 4 2) 2 := by
      refine (fld_alnCtrlStored m _ s (by decide)).trans ?_
      rw [bits_alnCtrlWord_mode, bits_or_clear (by decide)]
    have hrate' : (alnCtrlStored m (d ||| 1) s).fld (F.ALN_CTRL_RATE m) = bits d 1 2 := by
      refine (fld_alnCtrlStored m _ s (by decide)).trans ?_
      rw [bits_alnCtrlWord _ (by decide), bits_or_clear (by decide)]
    rw [alnRise_fits (by rw [hmode', hrate']; omega), hmode', hrate'] at hwrite
    obtain ⟨same, touch, -⟩ := actAlnPort_shows hwrite e
    obtain ⟨flag, lanes, touch'⟩ := linkCfgCheck_settles same touch
    have hrec := State.lane_of_lanes lanes (768 + m)
    rw [laneStarts, State.lane_updLane_same, State.lane_updLane_same] at hrec
    have hall : Touches [.lanes] [whole (Reg.ALN_CTRL m), F.TWIN_INT_STATUS_LINK_CFG_REJECT, whole (Reg.TBASE_PORT_RXFIX (384 + m)),
        whole (Reg.TBASE_PORT_TXFIX (384 + m))] s t :=
      (((alnCtrlStored_all _ (by simp)).updLane _ _ (by simp)).updLane _ _ (by simp)).andThen touch' (by simp) (by simp [fixFlds])
    refine ⟨by rw [hrec], by rw [hrec], by rw [hrec], by rw [hrec], fun h3 => ?_, ?_, fun k hk => ?_, ?_, hall⟩
    · refine (touch'.2.reg_eq (Reg.ALN_CTRL m) ?_).trans ((State.reg_setReg_same ..).trans ?_)
      · have hfar := fixFlds_addr m m.isLt
        refine List.forall_mem_cons.2 ⟨?_, fun f hf => ?_⟩
        · simp only [Reg.ALN_CTRL, F.TWIN_INT_STATUS_LINK_CFG_REJECT, Reg.TWIN_INT_STATUS]
          omega
        · have := (hfar f hf).1
          simp only [Reg.ALN_CTRL]
          omega
      · rw [alnCtrlWord, if_neg (by rw [bits_or_clear (by decide)]; omega)]
    · rw [hrec, laneAt_aux, State.updLane_pllLocked, alnCtrlStored_pllLocked, pllOf]
    · rw [State.lane_of_lanes lanes, laneStarts, State.lane_updLane_ne _ _ hk, State.lane_updLane_ne _ _ hk, alnCtrlStored_lane]
    · refine flag.trans (congrArg (· || _) ?_)
      exact (alnCtrlStored_touches m _ s).2.flag_eq _ (List.forall_mem_singleton.2 (aln_apart_above (k := 0x10) rfl))
  · refine alnCtrlWrite_answers rfl hm hw fun t e => ?_
    have hwrite : actAlnCtrl m (s.reg (Reg.ALN_CTRL m)) (d ||| 1) (alnCtrlStored m (d ||| 1) s) = alnRise m (alnCtrlStored m (d ||| 1) s) := by
      rw [actAlnCtrl_rise ((bit_alnCtrl_en m s).trans he) (by rw [bit_or_ofNat]; simp [bit]),
        alnCtrlRest_none (alnLoopback_same hl (by decide)) (by rw [bit_eq_getLsbD]; simpa using h12)]
    have hmode' : (alnCtrlStored m (d ||| 1) s).fld (F.ALN_CTRL_MODE m) = 0 := by
      refine (fld_alnCtrlStored m _ s (by decide)).trans ?_
      rw [bits_alnCtrlWord_mode, bits_or_clear (by decide), hmode, Nat.zero_min]
    have hrate' : (alnCtrlStored m (d ||| 1) s).fld (F.ALN_CTRL_RATE m) = bits d 1 2 := by
      refine (fld_alnCtrlStored m _ s (by decide)).trans ?_
      rw [bits_alnCtrlWord _ (by decide), bits_or_clear (by decide)]
    rw [alnRise_rejected hmode' (by rwa [hrate'])] at hwrite
    obtain ⟨same, touch, -⟩ := actAlnPort_shows hwrite e
    obtain ⟨flag, lanes, touch'⟩ := linkCfgCheck_settles same touch
    refine ⟨?_, ?_, fun k hk => ?_, flag.trans (congrArg (· || _) ?_), ?_⟩
    · exact (touch'.2.flag_eq _ (settled_apart_aln (k := 4) rfl)).trans ((State.updLane_flag ..).trans
        (State.flag_raise_same _ _ (of_decide_eq_true rfl) rfl))
    · rw [State.lane_of_lanes lanes, State.lane_updLane_same, State.lane_raise, alnCtrlStored_lane]
    · rw [State.lane_of_lanes lanes, State.lane_updLane_ne _ _ hk, State.lane_raise, alnCtrlStored_lane]
    · rw [State.updLane_flag, State.flag_raise _ (F.ALN_INT_STATUS_CFG_REJECT m) F.TWIN_INT_STATUS_LINK_CFG_REJECT (aln_apart_above (k := 4) rfl)]
      exact (alnCtrlStored_touches m _ s).2.flag_eq _ (List.forall_mem_singleton.2 (aln_apart_above (k := 0x10) rfl))
    · exact (((alnCtrlStored_all _ (by simp)).raise _ (by simp)).updLane _ _ (by simp)).andThen touch' (by simp) (by simp [fixFlds])
  · refine alnCtrlWrite_answers rfl hm hw fun t e => ?_
    have hwrite := actAlnCtrl_fall (m := m) (s := alnCtrlStored m (d &&& ~~~1) s) ((bit_alnCtrl_en m s).trans he)
      (show bit (d &&& ~~~1) 0 = false by rw [bit_eq_getLsbD]; simp)
    obtain ⟨rec, clear, lanes, touch⟩ := alnFall_shows m (alnCtrlStored m (d &&& ~~~1) s) rfl
    generalize alnFall m (alnCtrlStored m (d &&& ~~~1) s) = r at hwrite rec clear lanes touch
    have h12' : bit (d &&& ~~~1) 12 = false := by
      rw [bit_eq_getLsbD, BitVec.getLsbD_and, h12, Bool.false_and]
    obtain ⟨⟨x, rec'⟩, regs, lanes', moves⟩ := alnCtrlRest_shows (m := m) (old := s.reg (Reg.ALN_CTRL m)) h12' (s := r) rfl
    have ht := (actAlnPort_shows hwrite e).2.2 (Or.inl (by rw [rec', rec]))
    generalize alnCtrlRest m _ _ r = q at rec' regs lanes' moves ht
    subst ht
    have hclear : ∀ f ∈ alnFallClears m, t.flag f = false := fun f hf => (State.flag_of_regs regs f).trans (clear f hf)
    exact ⟨by rw [rec', rec], hclear _ (by simp [alnFallClears]), hclear _ (by simp [alnFallClears]), hclear _ (by simp [alnFallClears]),
      hclear _ (by simp [alnFallClears]), hclear _ (by simp [alnFallClears]),
      ((LanesKeep.refl _ s).of_lanes (alnCtrlStored_lanes ..)).trans (lanes.trans lanes'),
      ((alnCtrlStored_all _ (by simp)).andThen touch (by simp) (fun f hf => .tail _ hf)).of_parts moves (by decide) (by simp)⟩
  · obtain rfl := e.symm.trans (if_pos ⟨hon, hc, ha, ne_true_of_eq_false hs⟩)
    refine ⟨(flag_timingFix _ (k := 0x11) rfl).trans ((State.updLane_flag ..).trans ?_),
      (fld_timingFix _ (k := 0x11) rfl).trans ((State.updLane_fld ..).trans ?_), (flag_timingFix _ (k := 4) rfl).trans ((State.updLane_flag ..).trans ?_), ?_, fun k hk => ?_, ?_⟩
    · exact (State.flag_raise _ _ (F.ALN_LANE_STATUS_SYNC m) (aln_apart rfl)).trans ((State.flag_setFld _ _ _ _ (aln_apart rfl)).trans
        (State.flag_setFlag_same _ _ _ (of_decide_eq_true rfl) rfl))
    · refine (State.fld_raise _ _ (F.ALN_LANE_STATUS_BIT_SLIP m) (aln_apart rfl)).trans ((State.fld_setFld_same _ _ _ (of_decide_eq_true rfl)).trans ?_)
      exact Nat.mod_eq_of_lt (b.isLt.trans (by decide : 20 < 2 ^ 5))
    · exact State.flag_raise_same _ _ (of_decide_eq_true rfl) rfl
    · simp
    · simp [State.lane_updLane_ne, hk]
    · exact ((((Touches.refl _ _ s).setFlag _ _ (by simp)).setFld _ _ (by simp)).raise _ (by simp)).updLane _ _ (by simp) |>.andThen
        (timingFix_touches m _) (by simp) (by simp [fixFlds])
  · refine e.symm.trans (if_neg ?_)
    rintro ⟨-, -, ha, hs⟩
    exact h.elim hs fun h => h ha
  · obtain rfl := e.symm.trans (if_pos ⟨hon, hmode, hs, ha⟩)
    refine ⟨(flag_timingFix _ (k := 0x11) rfl).trans ?_, (flag_timingFix _ (k := 4) rfl).trans (State.flag_raise_same _ _ (of_decide_eq_true rfl) rfl), ?_⟩
    · exact (State.flag_raise _ _ (F.ALN_LANE_STATUS_AN_COMPLETE m) (aln_apart rfl)).trans (State.flag_setFlag_same _ _ _ (of_decide_eq_true rfl) rfl)
    · exact (((Touches.refl _ _ s).setFlag _ _ (by simp)).raise _ (by simp)).andThen (timingFix_touches m _) (by simp) (by simp [fixFlds])
  · obtain ⟨sync, an, lost, -, touch⟩ := syncLost_shows m s e.symm
    exact ⟨sync, an hs, by rw [lost, hs, Bool.or_true], touch⟩
  · refine alnCtrlWrite_answers rfl hm hw fun t e => ?_
    have hen : bit (s.reg (Reg.ALN_CTRL m)) 0 = bit (d ||| 0x1000#32) 0 := by
      rw [bit_alnCtrl_en, he, bit_or_ofNat, bit_eq_getLsbD]
      simp [bit]
    have hwrite := (actAlnCtrl_same (m := m) (s := alnCtrlStored m (d ||| 0x1000#32) s) hen).trans
      (alnCtrlRest_resync (alnLoopback_same hl (by decide)) (by rw [bit_or_ofNat, show bit 0x1000#32 12 = true by decide, Bool.or_true]))
    obtain ⟨sync, -, lost, lanes, touch⟩ := syncLost_shows m (alnCtrlStored m (d ||| 0x1000#32) s) rfl
    obtain rfl := (actAlnPort_shows hwrite e).2.2 (Or.inr sync)
    have hs' : (alnCtrlStored m (d ||| 0x1000#32) s).flag (F.ALN_LANE_STATUS_SYNC m) = true := (flag_alnCtrlStored m _ s (k := 0x11) rfl).trans hs
    exact ⟨sync, by rw [lost, hs', Bool.or_true], lanes.trans (alnCtrlStored_lanes ..),
      (alnCtrlStored_all _ (by simp)).andThen touch (by simp) (fun f hf => .tail _ hf)⟩
  · obtain rfl := e.symm.trans (laneLos_aux hf)
    obtain ⟨rec, lanes, touch⟩ := lossNoted_shows (.aux m) cdr s rfl
    have hlos : (lossNoted (.aux m) cdr s).flag (F.ALN_INT_STATUS_LOS m) = true :=
      (State.updLane_flag ..).trans (State.flag_raise_same _ _ (of_decide_eq_true rfl) rfl)
    have hbit : (lossNoted (.aux m) cdr s).flag (lossFld cdr (.aux m)) = false := by
      rw [lossNoted, State.updLane_flag, State.flag_raise, State.flag_setFlag_same _ _ _ (lossFld_bit ..).1 (lossFld_bit ..).2]
      cases cdr <;> exact aln_apart rfl
    have hsync : (lossNoted (.aux m) cdr s).flag (F.ALN_LANE_STATUS_SYNC m) = s.flag (F.ALN_LANE_STATUS_SYNC m) ∧
        (lossNoted (.aux m) cdr s).flag (F.ALN_INT_STATUS_SYNC_LOST m) = s.flag (F.ALN_INT_STATUS_SYNC_LOST m) := by
      cases cdr <;> exact ⟨touch.2.flag_eq _ (List.forall_mem_cons.2 ⟨aln_apart rfl, List.forall_mem_singleton.2 (aln_apart rfl)⟩),
        touch.2.flag_eq _ (List.forall_mem_cons.2 ⟨aln_apart rfl, List.forall_mem_singleton.2 (aln_apart rfl)⟩)⟩
    generalize lossNoted (.aux m) cdr s = r at rec lanes touch hlos hbit hsync
    obtain ⟨sync, -, lost, same, touch'⟩ := syncLost_shows m r rfl
    refine ⟨(touch'.2.flag_eq _ ?_).trans hbit, (touch'.2.flag_eq _ ?_).trans hlos, sync, by rw [lost, hsync.1, hsync.2],
      (State.lane_of_lanes same _).trans rec, lanes.of_lanes same,
      (touch.mono (by simp) (by simp [lossFld, cdrFld, sigFld, losFld])).andThen touch' (by simp) (by simp [syncLostFlds])⟩
    · cases cdr <;> exact List.forall_mem_cons.2 ⟨aln_apart rfl, List.forall_mem_cons.2 ⟨aln_apart rfl, List.forall_mem_singleton.2 (aln_apart rfl)⟩⟩
    · exact List.forall_mem_cons.2 ⟨aln_apart rfl, List.forall_mem_cons.2 ⟨aln_apart rfl, List.forall_mem_singleton.2 (aln_apart rfl)⟩⟩
  · rw [if_pos rfl] at e
    obtain ⟨⟨ws, rec⟩, regs, frame⟩ := keepGroup_shows m slot (heardGroup m slot g s) s rfl
    generalize keepGroup m slot (heardGroup m slot g s) s = k at e rec regs frame
    have hf := State.flag_of_regs regs
    rw [takeGroup_placed ((hf _).trans hs) (hk.imp id fun h => by rw [h]; rfl), codeGroup_char (by rwa [rec]) ((congrArg (decodeAt · _) (hf _)).trans hd),
      hf, hd] at e
    obtain ⟨bad, regs', frame'⟩ := syncGroup_valid m _ e.symm
    have all : GroupFrame m [F.ALN_LANE_STATUS_RD m] s t := (frame.setRd _).andThen frame' (by simp)
    refine ⟨(State.flag_of_regs regs' _).trans (State.flag_setFlag_same _ _ _ (of_decide_eq_true rfl) rfl), ?_, all.lanes, all.touch⟩
    rw [bad, State.lane_setFlag, rec]
  · rw [if_pos rfl] at e
    obtain ⟨⟨ws, hrec⟩, regs, frame⟩ := keepGroup_shows m slot (heardGroup m slot g s) s rfl
    generalize keepGroup m slot (heardGroup m slot g s) s = k at e hrec regs frame
    have hf := State.flag_of_regs regs
    rw [takeGroup_placed ((hf _).trans hs) (hk.imp id fun h => by rw [h]; rfl), hf, hn, codeGroup_disparity (by rwa [hrec])
      ((congrArg (decodeAt · _) (hf _)).trans hn) ((congrArg (fun b => decodeAt (!b) _) (hf _)).trans hd), hf] at e
    have hsync : ∀ b, (k.setFlag (F.ALN_LANE_STATUS_RD m) b).flag (F.ALN_LANE_STATUS_SYNC m) = true := fun b =>
      (State.flag_setFlag _ (F.ALN_LANE_STATUS_RD m) (F.ALN_LANE_STATUS_SYNC m) _ (aln_apart rfl)).trans ((hf _).trans hs)
    obtain ⟨count, few, many, frame'⟩ := badGroup_shows (k := 0x16) _ (by decide) (hsync _) e.symm
    rw [State.lane_setFlag, hrec] at few many
    have all := (frame.setRd _).andThen frame'
      (fs := F.ALN_LANE_STATUS_RD m :: (counterFlds (Reg.ALN_DISP_ERR_LO m) m ++ syncLostFlds m)) fun f hf => .tail _ hf
    refine ⟨(frame'.touch.2.flag_eq _ ?_).trans (State.flag_setFlag_same _ _ _ (of_decide_eq_true rfl) rfl), count.trans ?_, few, many, all.lanes, all.touch⟩
    · exact List.forall_mem_append.2 ⟨counterFlds_apart_status (by decide), List.forall_mem_cons.2 ⟨aln_apart rfl, List.forall_mem_cons.2 ⟨aln_apart rfl,
        List.forall_mem_singleton.2 (aln_apart rfl)⟩⟩⟩
    · have hrd := State.reg64_of_flds (frame.setRd (fs := []) (endPlus (rev10 (heardGroup m slot g s).toNat) (!s.flag (F.ALN_LANE_STATUS_RD m)))).touch.2
        (Reg.ALN_DISP_ERR_LO m) (Reg.ALN_DISP_ERR_LO m + 1) (List.forall_mem_singleton.2 (by
          simp only [F.ALN_LANE_STATUS_RD, Reg.ALN_LANE_STATUS, Reg.ALN_DISP_ERR_LO]
          omega))
      exact congrArg (fun x => (x + 1) % 2 ^ 64) hrd
  · rw [if_pos rfl] at e
    obtain ⟨⟨ws, hrec⟩, regs, frame⟩ := keepGroup_shows m slot (heardGroup m slot g s) s rfl
    generalize keepGroup m slot (heardGroup m slot g s) s = k at e hrec regs frame
    have hf := State.flag_of_regs regs
    rw [takeGroup_placed ((hf _).trans hs) (Or.inl hk), hf, hn, codeGroup_none (by rwa [hrec])
      ((congrArg (decodeAt · _) (hf _)).trans hn) ((congrArg (fun b => decodeAt (!b) _) (hf _)).trans hn')] at e
    obtain ⟨count, few, many, frame'⟩ := badGroup_shows (k := 0x14) _ (by decide) ((hf _).trans hs) e.symm
    rw [hrec] at few many
    have all := (frame.mono (by simp)).andThen frame' fun f hf => hf
    exact ⟨count.trans (by rw [State.reg64, State.reg64, State.reg, State.reg, regs]; rfl), few, many, all.lanes, all.touch⟩
  · rw [if_neg Bool.false_ne_true, takeGroup_misplaced hs hk] at e
    obtain ⟨count, cause, sync, rec, frame⟩ := commaMisplaced_first hmis rfl
    generalize commaMisplaced m s = r at e count cause sync rec frame
    obtain ⟨few, many, ⟨x, y, rec'⟩, frame'⟩ := syncGroup_invalid m r (sync.trans hs) e.symm
    have all := (frame.mono (by simp)).andThen frame' (by simp [syncLostFlds]) (fs := [whole (Reg.ALN_COMMA_MISPLACED m), F.ALN_INT_STATUS_COMMA_MISPLACED m,
      F.ALN_INT_STATUS_CNT_OVF m, F.ALN_LANE_STATUS_SYNC m, F.ALN_LANE_STATUS_AN_COMPLETE m, F.ALN_INT_STATUS_SYNC_LOST m])
    rw [rec] at few many
    refine ⟨(frame'.touch.2.reg_eq _ (syncLostFlds_reg_ne (k := 0x1c) rfl)).trans count, (frame'.touch.2.flag_eq _ ?_).trans cause, by rw [rec', rec], few, many,
      all.lanes, all.touch⟩
    exact List.forall_mem_cons.2 ⟨aln_apart rfl, List.forall_mem_cons.2 ⟨aln_apart rfl, List.forall_mem_singleton.2 (aln_apart rfl)⟩⟩
  · rw [if_pos rfl] at e
    obtain ⟨⟨ws, hrec⟩, regs, frame⟩ := keepGroup_shows m 0 (heardGroup m 0 g s) s rfl
    have e' : takeGroup m 0 true (rev10 (heardGroup m 0 g s).toNat) (keepGroup m 0 (heardGroup m 0 g s) s) = t := e
    generalize keepGroup m 0 (heardGroup m 0 g s) s = k at e' hrec regs frame
    have hf := State.flag_of_regs regs
    rw [takeGroup_placed ((hf _).trans hs) (Or.inr rfl), codeGroup_raw (by rwa [hrec]) ((congrArg (decodeAt · _) (hf _)).trans hd), hf, hd] at e'
    obtain ⟨char, err, valid, same, touch⟩ := rawRx_first m ch hch _ rfl
    obtain ⟨-, regs', frame'⟩ := syncGroup_valid m _ e'.symm
    have all := ((frame.setRd _).regs same
      (touch.mono (by simp) (by simp))).andThen frame' (fs := [F.ALN_LANE_STATUS_RD m, whole (Reg.TST_RAW_RX m)]) (by simp)
    refine ⟨(State.fld_of_regs regs' _).trans char, (State.fld_of_regs regs' _).trans err, (State.fld_of_regs regs' _).trans (valid.trans (if_pos ?_)),
      all.lanes, all.touch⟩
    exact (State.flag_setFlag _ (F.ALN_LANE_STATUS_RD m) (F.ALN_LANE_STATUS_SYNC m) _ (aln_apart rfl)).trans ((hf _).trans hs)
  · have hfirst := keepGroup_first m (heardGroup m 0 g s) s
    obtain ⟨-, regs, frame⟩ := keepGroup_shows m 0 (heardGroup m 0 g s) s rfl
    have e' : takeGroup m 0 true c (keepGroup m 0 (heardGroup m 0 g s) s) = t := by
      rw [hc]
      exact e
    generalize keepGroup m 0 (heardGroup m 0 g s) s = k at e' hfirst regs frame
    rw [takeGroup_starts ((State.flag_of_regs regs _).trans hs) hk (by rw [hfirst]; exact ha), alignComma_eq (by rwa [hfirst])] at e'
    subst e'
    have all := (frame.setRd (fs := []) (endPlus c (c == 0b1100000101))).updLane fun l => { l with acq := 1 }
    refine ⟨by rw [State.lane_updLane_same, State.lane_setFlag, hfirst], (State.updLane_flag ..).trans
      ((State.flag_setFlag_same _ _ _ (of_decide_eq_true rfl) rfl).trans (endPlus_comma hk)), all.lanes, all.touch⟩
  · obtain ⟨⟨ws, hrec⟩, regs, frame⟩ := keepGroup_shows m 0 (heardGroup m 0 g s) s rfl
    have e' : takeGroup m 0 true c (keepGroup m 0 (heardGroup m 0 g s) s) = t := by
      rw [hc]
      exact e
    generalize keepGroup m 0 (heardGroup m 0 g s) s = k at e' hrec regs frame
    have hf := State.flag_of_regs regs
    rw [takeGroup_seeks ((hf _).trans hs) (by rwa [hrec]), codeGroup_char (by rwa [hrec]) ((congrArg (decodeAt · _) (hf _)).trans hd), hf, hd] at e'
    subst e'
    have all := (frame.setRd (fs := []) (endPlus c (s.flag (F.ALN_LANE_STATUS_RD m)))).updLane
      fun l => { l with acq := acqNext (k.lane (768 + m)).acq (isK285 c) (some ch) }
    have hacq : ∀ u : State, ((u.updLane (768 + m) fun l => { l with acq := acqNext (k.lane (768 + m)).acq (isK285 c) (some ch) }).lane (768 + m)).acq =
        acqNext (s.lane (768 + m)).acq (isK285 c) (some ch) := fun u => by
      rw [State.lane_updLane_same, hrec]
    refine ⟨(State.updLane_flag ..).trans (State.flag_setFlag_same _ _ _ (of_decide_eq_true rfl) rfl), fun h => ?_, fun h => ?_, fun h => ?_, all.lanes,
      all.touch⟩
    · rw [hacq, acqNext_data h]
    · rw [hacq, acqNext_gap h]
    · rw [hacq, acqNext_idle h]
  · obtain ⟨⟨ws, hrec⟩, regs, frame⟩ := keepGroup_shows m 0 (heardGroup m 0 g s) s rfl
    have e' : takeGroup m 0 true c (keepGroup m 0 (heardGroup m 0 g s) s) = t := by
      rw [hc]
      exact e
    generalize keepGroup m 0 (heardGroup m 0 g s) s = k at e' hrec regs frame
    have hf := State.flag_of_regs regs
    have hnone : ∀ b, decodeAt b c = none := fun b => by
      cases b
      · exact hn
      · exact hn'
    rw [takeGroup_seeks ((hf _).trans hs) (Or.inl hk), codeGroup_none (by rwa [hrec]) (hnone _) (hnone _), hk, hnone] at e'
    subst e'
    obtain ⟨count, frame'⟩ := bump64_shows (m := m) (k := 0x14) 1 k (by decide) rfl
    have all := (((frame.mono (by simp)).andThen frame' fun f hf => hf).updLane
      fun l => { l with acq := acqNext (k.lane (768 + m)).acq false none })
    refine ⟨fun h => ?_, ?_, all.lanes, all.touch⟩
    · rw [State.lane_updLane_same, hrec]
      exact acqNext_none h
    · exact count.trans (by rw [State.reg64, State.reg64, State.reg, State.reg, regs]; rfl)
  · rw [if_pos rfl] at e
    obtain ⟨⟨ws, hrec⟩, regs, frame⟩ := keepGroup_shows m 0 (heardGroup m 0 g s) s rfl
    have e' : takeGroup m 0 true (rev10 (heardGroup m 0 g s).toNat) (keepGroup m 0 (heardGroup m 0 g s) s) = t := e
    generalize keepGroup m 0 (heardGroup m 0 g s) s = k at e' hrec regs frame
    have hf := State.flag_of_regs regs
    rw [takeGroup_seeks ((hf _).trans hs) (Or.inl hk), codeGroup_raw (by rwa [hrec]) ((congrArg (decodeAt · _) (hf _)).trans hd), hf, hd] at e'
    obtain ⟨char, err, valid, same, touch⟩ := rawRx_first m ch hch (k.setFlag (F.ALN_LANE_STATUS_RD m) _) rfl
    subst e'
    have all := ((frame.setRd _).regs same (touch.mono (by simp) (by simp)) (fs := [F.ALN_LANE_STATUS_RD m, whole (Reg.TST_RAW_RX m)])).updLane
      fun l => { l with acq := acqNext (k.lane (768 + m)).acq (isK285 (rev10 (heardGroup m 0 g s).toNat)) (some ch) }
    refine ⟨(State.updLane_fld ..).trans char, (State.updLane_fld ..).trans err, (State.updLane_fld ..).trans (valid.trans (if_neg ?_)), all.lanes, all.touch⟩
    exact ne_true_of_eq_false ((State.flag_setFlag _ (F.ALN_LANE_STATUS_RD m) (F.ALN_LANE_STATUS_SYNC m) _ (aln_apart rfl)).trans ((hf _).trans hs))
  · have hloop : heardWord s (.aux m) (wordIndex s (.aux m)) (g.setWidth 128 <<< (10 * slot.val)) =
        if s.flag (F.ALN_CTRL_RX_INV m) then (g.setWidth 128 <<< (10 * slot.val)) ^^^ 0xFFFFF#128 else g.setWidth 128 <<< (10 * slot.val) := by
      have h0 : s.fld (loopFld (.aux m)) = 0 := hl
      simp only [heardWord, h0, rxInvFld, invMask]
      rfl
    rw [heardGroup, hloop]
    exact group_of_word g slot _

end Sys2Proof.Machine
end

section
/-!
SUPPORT. Pattern checkers: a word compared, and runs of words (R147, R149).
-/
namespace Sys2Proof.Machine
set_option Elab.async false

/-! ### Fields of a checker -/

/-- What a locked checker counts in. -/
def checkerFlds (l : LaneId) : List Fld := [whole (prbsBitsAt l), whole (prbsBitsAt l + 1), whole (prbsErrAt l), whole (prbsErrAt l + 1), laneOvf l]

theorem checkerFlds_apart (l : LaneId) : ∀ f ∈ checkerFlds l, Apart f (chkPatFld l) ∧ Apart f (prbsLockedFld l) ∧ Apart f (prbsLostFld l) := by
  simp only [checkerFlds, List.forall_mem_cons]
  cases l <;>
  · simp only [prbsBitsAt, prbsErrAt, laneOvf, chkPatFld, prbsLockedFld, prbsLostFld, dlnCause, whole, Apart, Reg.DLN_PRBS_BITS_LO, Reg.DLN_PRBS_ERR_LO,
      F.DLN_INT_STATUS_CNT_OVF, Reg.DLN_INT_STATUS, F.DLN_PRBS_CTRL_CHK_PAT, Reg.DLN_PRBS_CTRL, F.DLN_LANE_STATUS_PRBS_LOCKED, Reg.DLN_LANE_STATUS,
      Reg.ALN_PRBS_BITS_LO, Reg.ALN_PRBS_ERR_LO, F.ALN_INT_STATUS_CNT_OVF, Reg.ALN_INT_STATUS, F.ALN_PRBS_CTRL_CHK_PAT, Reg.ALN_PRBS_CTRL,
      F.ALN_LANE_STATUS_PRBS_LOCKED, Reg.ALN_LANE_STATUS, F.ALN_INT_STATUS_PRBS_LOST]
    refine ⟨by omega, by omega, by omega, by omega, by omega, fun _ h => (nomatch h)⟩

theorem prbsLocked_apart (l : LaneId) : Apart (prbsLockedFld l) (chkPatFld l) := by
  cases l
  · exact lane_apart rfl
  · exact aln_apart rfl

theorem prbsLost_apart (l : LaneId) : Apart (prbsLostFld l) (chkPatFld l) ∧ Apart (prbsLostFld l) (prbsLockedFld l) := by
  cases l
  · exact ⟨dlnCause_apart_lane rfl, dlnCause_apart_lane rfl⟩
  · exact ⟨aln_apart rfl, aln_apart rfl⟩

theorem prbsLocked_bit (l : LaneId) : (prbsLockedFld l).lo + (prbsLockedFld l).w ≤ 32 ∧ (prbsLockedFld l).w = 1 := by
  cases l <;> exact ⟨of_decide_eq_true rfl, rfl⟩

theorem prbsLost_bit (l : LaneId) : (prbsLostFld l).lo + (prbsLostFld l).w ≤ 32 ∧ (prbsLostFld l).w = 1 := by
  cases l with
  | data n => exact ⟨dlnCause_fits n (by decide), rfl⟩
  | aux m => exact ⟨of_decide_eq_true rfl, rfl⟩

/-- The words of one counter of a checker, and the registers that its other fields are in. -/
theorem checker_addr (l : LaneId) :
    (∀ a ∈ [prbsBitsAt l, prbsBitsAt l + 1, prbsErrAt l, prbsErrAt l + 1], a ≠ (laneOvf l).addr ∧ a ≠ (prbsLockedFld l).addr ∧ a ≠ (prbsLostFld l).addr) ∧
    prbsErrAt l + 1 < prbsBitsAt l := by
  simp only [List.forall_mem_cons]
  cases l <;>
  · simp only [prbsBitsAt, prbsErrAt, laneOvf, prbsLockedFld, prbsLostFld, dlnCause, Reg.DLN_PRBS_BITS_LO, Reg.DLN_PRBS_ERR_LO, F.DLN_INT_STATUS_CNT_OVF,
      Reg.DLN_INT_STATUS, F.DLN_LANE_STATUS_PRBS_LOCKED, Reg.DLN_LANE_STATUS, Reg.ALN_PRBS_BITS_LO, Reg.ALN_PRBS_ERR_LO, F.ALN_INT_STATUS_CNT_OVF,
      Reg.ALN_INT_STATUS, F.ALN_LANE_STATUS_PRBS_LOCKED, Reg.ALN_LANE_STATUS, F.ALN_INT_STATUS_PRBS_LOST]
    refine ⟨⟨by omega, by omega, by omega, by omega, fun _ h => (nomatch h)⟩, by omega⟩

/-! ### Patterns (R145) -/

theorem patternAfter_succ (l : LaneId) (code n : Nat) (x : BitVec 128) : patternAfter l code (n + 1) x = nextPattern l code (patternAfter l code n x) := by
  induction n generalizing x with
  | zero => rfl
  | succ n ih => exact ih (nextPattern l code x)

/-- A word that the checker's own generator forms next has no error. -/
theorem wordErrors_own (l : LaneId) (code : Nat) (hist : BitVec 128) : wordErrors l code hist (histWord (wordBits l) (nextPattern l code hist)) = 0 := by
  rw [wordErrors, BitVec.xor_self]
  simp

/-! ### One word -/

/-- A word that comes to an enabled lane. -/
def takeWord (l : LaneId) (s : State) (w : BitVec 128) : State :=
  if (keepWord l w s).fld (chkPatFld l) = 0 then keepWord l w s else checkWord l w (keepWord l w s)

theorem takeWords_eq {l : LaneId} {ws : List (BitVec 128)} {s : State} (h : (s.lane (laneIdx l)).on = true) :
    takeWords l ws s = (heardWords l ws s).foldl (takeWord l) s := if_pos h

theorem takeWords_off {l : LaneId} {ws : List (BitVec 128)} {s : State} (h : (s.lane (laneIdx l)).on = false) : takeWords l ws s = s :=
  if_neg (ne_true_of_eq_false h)

section
variable {l : LaneId} {w : BitVec 128} {s t : State}

/-- The errors of a word against the checker's generator. -/
def errorsOf (l : LaneId) (w : BitVec 128) (s : State) : Nat := wordErrors l (s.fld (chkPatFld l)) (s.lane (laneIdx l)).chkRef w

/-- The record of a lane once a word has joined those received and its checker's generator has gone on. -/
def heardRec (l : LaneId) (w : BitVec 128) (s : State) : LaneSt :=
  { s.lane (laneIdx l) with rxWords := (w :: (s.lane (laneIdx l)).rxWords).take 32,
                            chkRef := nextPattern l (s.fld (chkPatFld l)) (s.lane (laneIdx l)).chkRef }

/-- The state in which a word's errors are counted. -/
def heard (l : LaneId) (w : BitVec 128) (s : State) : State :=
  (keepWord l w s).updLane (laneIdx l) fun r => { r with chkRef := nextPattern l (s.fld (chkPatFld l)) r.chkRef }

theorem heard_lane (l : LaneId) (w : BitVec 128) (s : State) : (heard l w s).lane (laneIdx l) = heardRec l w s := by
  rw [heard, State.lane_updLane_same, keepWord, State.lane_updLane_same, heardRec]

theorem heard_lanes (l : LaneId) (w : BitVec 128) (s : State) : LanesKeep (laneIdx l) s (heard l w s) := ((LanesKeep.refl _ s).updLane _).updLane _

theorem heard_moves (l : LaneId) (w : BitVec 128) (s : State) : Moves [.lanes] s (heard l w s) :=
  State.updLane_moves (State.updLane_moves (.refl _ s) _ _ (.head _)) _ _ (.head _)

theorem heard_regs (l : LaneId) (w : BitVec 128) (s : State) : (heard l w s).regs = s.regs := rfl

theorem takeWord_eq (hc : s.fld (chkPatFld l) ≠ 0) : takeWord l s w =
    if s.flag (prbsLockedFld l) then
      let s2 := ((heard l w s).bump64 (prbsBitsAt l) (wordBits l) (some (laneOvf l))).bump64 (prbsErrAt l) (errorsOf l w s) (some (laneOvf l))
      if errorsOf l w s = 0 then s2.updLane (laneIdx l) fun r => { r with chkBad := 0 }
      else if 63 ≤ (s.lane (laneIdx l)).chkBad then (checkerSearch l s2).raise (prbsLostFld l)
      else s2.updLane (laneIdx l) fun r => { r with chkBad := r.chkBad + 1 }
    else if errorsOf l w s ≠ 0 then (heard l w s).updLane (laneIdx l) fun r => { r with chkGood := 0 }
    else if 255 ≤ (s.lane (laneIdx l)).chkGood then
      ((heard l w s).setFlag (prbsLockedFld l) true).updLane (laneIdx l) fun r => { r with chkGood := 0, chkBad := 0 }
    else (heard l w s).updLane (laneIdx l) fun r => { r with chkGood := r.chkGood + 1 } := by
  have hr : (keepWord l w s).lane (laneIdx l) = { s.lane (laneIdx l) with rxWords := (w :: (s.lane (laneIdx l)).rxWords).take 32 } :=
    State.lane_updLane_same ..
  have hf : (keepWord l w s).fld (chkPatFld l) = s.fld (chkPatFld l) := State.updLane_fld ..
  have hk : (keepWord l w s).flag (prbsLockedFld l) = s.flag (prbsLockedFld l) := State.updLane_flag ..
  rw [takeWord, hf, if_neg hc, checkWord, hr, hf, hk]
  rfl

/-- A word on the search for lock, short of the 256th good one in a row. -/
theorem takeWord_searching (hc : s.fld (chkPatFld l) ≠ 0) (hk : s.flag (prbsLockedFld l) = false)
    (h : errorsOf l w s ≠ 0 ∨ (s.lane (laneIdx l)).chkGood < 255) (ht : t = takeWord l s w) :
    t.lane (laneIdx l) = { heardRec l w s with chkGood := if errorsOf l w s = 0 then (s.lane (laneIdx l)).chkGood + 1 else 0 } ∧ t.regs = s.regs ∧
    LanesKeep (laneIdx l) s t ∧ Moves [.lanes] s t := by
  rw [takeWord_eq hc, if_neg (ne_true_of_eq_false hk)] at ht
  by_cases he : errorsOf l w s = 0
  · rw [if_neg (not_not.2 he), if_neg (by omega)] at ht
    subst ht
    exact ⟨by rw [State.lane_updLane_same, heard_lane, if_pos he]; rfl, heard_regs l w s, (heard_lanes l w s).updLane _, State.updLane_moves (heard_moves ..) _ _ (.head _)⟩
  · rw [if_pos he] at ht
    subst ht
    exact ⟨by rw [State.lane_updLane_same, heard_lane, if_neg he], heard_regs l w s, (heard_lanes l w s).updLane _, State.updLane_moves (heard_moves ..) _ _ (.head _)⟩

/-- The 256th. -/
theorem takeWord_locks (hc : s.fld (chkPatFld l) ≠ 0) (hk : s.flag (prbsLockedFld l) = false)
    (he : errorsOf l w s = 0) (hg : 255 ≤ (s.lane (laneIdx l)).chkGood) (ht : t = takeWord l s w) :
    t.flag (prbsLockedFld l) = true ∧ t.lane (laneIdx l) = { heardRec l w s with chkGood := 0, chkBad := 0 } ∧
    LanesKeep (laneIdx l) s t ∧ Touches [.lanes] [prbsLockedFld l] s t := by
  rw [takeWord_eq hc, if_neg (ne_true_of_eq_false hk), if_neg (not_not.2 he), if_pos hg] at ht
  subst ht
  refine ⟨?_, ?_, ((heard_lanes l w s).of_lanes (State.setFlag_lanes ..)).updLane _, ?_⟩
  · rw [State.updLane_flag, State.flag_setFlag_same _ _ _ (prbsLocked_bit l).1 (prbsLocked_bit l).2]
  · rw [State.lane_updLane_same, State.lane_setFlag, heard_lane]
  · exact (((Touches.refl _ _ s).of_parts (heard_moves l w s) (by decide) (fun _ h => h)).setFlag _ _ (.head _)).updLane _ _ (.head _)

/-- The state in which a locked checker has counted a word. -/
theorem counted_shows (l : LaneId) (w : BitVec 128) (s : State) {u : State}
    (hu : u = ((heard l w s).bump64 (prbsBitsAt l) (wordBits l) (some (laneOvf l))).bump64 (prbsErrAt l) (errorsOf l w s) (some (laneOvf l))) :
    u.reg64 (prbsBitsAt l) (prbsBitsAt l + 1) = (s.reg64 (prbsBitsAt l) (prbsBitsAt l + 1) + wordBits l) % 2 ^ 64 ∧
    u.reg64 (prbsErrAt l) (prbsErrAt l + 1) = (s.reg64 (prbsErrAt l) (prbsErrAt l + 1) + errorsOf l w s) % 2 ^ 64 ∧
    u.lane (laneIdx l) = heardRec l w s ∧ LanesKeep (laneIdx l) s u ∧ Touches [.lanes] (checkerFlds l) s u := by
  obtain ⟨haddr, hbelow⟩ := checker_addr l
  simp only [List.forall_mem_cons] at haddr
  obtain ⟨⟨hb, -⟩, ⟨hb', -⟩, ⟨he, -⟩, ⟨he', -⟩, -⟩ := haddr
  have hs : ∀ a b, (heard l w s).reg64 a b = s.reg64 a b := fun a b => rfl
  have htouch : Touches [.lanes] (checkerFlds l) s (heard l w s) := (Touches.refl _ _ s).of_parts (heard_moves l w s) (by decide) fun _ h => h
  subst hu
  refine ⟨?_, ?_, ?_, ((heard_lanes l w s).of_lanes (State.bump64_lanes ..)).of_lanes (State.bump64_lanes ..), ?_⟩
  · refine (State.reg64_of_flds (fs := [whole (prbsErrAt l), whole (prbsErrAt l + 1), laneOvf l]) ((Touches.refl [] _ _).bump64 _ _ _ (by simp) (by simp) (by simp)).2
      _ _ ?_).trans ((State.reg64_bump64 _ _ _ _ hb hb').trans (by rw [hs]))
    exact List.forall_mem_cons.2 ⟨by dsimp only [whole]; omega, List.forall_mem_cons.2 ⟨by dsimp only [whole]; omega, List.forall_mem_singleton.2 ⟨hb, hb'⟩⟩⟩
  · refine (State.reg64_bump64 _ _ _ _ he he').trans (congrArg (fun x => (x + _) % 2 ^ 64) ?_)
    refine (State.reg64_of_flds (fs := [whole (prbsBitsAt l), whole (prbsBitsAt l + 1), laneOvf l]) ((Touches.refl [] _ _).bump64 _ _ _ (by simp) (by simp) (by simp)).2
      _ _ ?_).trans (hs _ _)
    exact List.forall_mem_cons.2 ⟨by dsimp only [whole]; omega, List.forall_mem_cons.2 ⟨by dsimp only [whole]; omega, List.forall_mem_singleton.2 ⟨he, he'⟩⟩⟩
  · rw [State.lane_bump64, State.lane_bump64, heard_lane]
  · exact (htouch.bump64 _ _ _ (by simp [checkerFlds]) (by simp [checkerFlds]) (by simp [checkerFlds])).bump64 _ _ _ (by simp [checkerFlds])
      (by simp [checkerFlds]) (by simp [checkerFlds])

/-- A word to a locked checker, unless it is the 64th errored one in a row. -/
theorem takeWord_counts (hc : s.fld (chkPatFld l) ≠ 0) (hk : s.flag (prbsLockedFld l) = true)
    (h : errorsOf l w s = 0 ∨ (s.lane (laneIdx l)).chkBad < 63) (ht : t = takeWord l s w) :
    t.flag (prbsLockedFld l) = true ∧ t.fld (chkPatFld l) = s.fld (chkPatFld l) ∧
    t.reg64 (prbsBitsAt l) (prbsBitsAt l + 1) = (s.reg64 (prbsBitsAt l) (prbsBitsAt l + 1) + wordBits l) % 2 ^ 64 ∧
    t.reg64 (prbsErrAt l) (prbsErrAt l + 1) = (s.reg64 (prbsErrAt l) (prbsErrAt l + 1) + errorsOf l w s) % 2 ^ 64 ∧
    t.lane (laneIdx l) = { heardRec l w s with chkBad := if errorsOf l w s = 0 then 0 else (s.lane (laneIdx l)).chkBad + 1 } ∧
    LanesKeep (laneIdx l) s t ∧ Touches [.lanes] (checkerFlds l) s t := by
  rw [takeWord_eq hc, if_pos hk] at ht
  obtain ⟨bits, errs, hrec, lanes, touch⟩ := counted_shows l w s rfl
  generalize State.bump64 (State.bump64 (heard l w s) _ _ _) _ _ _ = u at ht bits errs hrec lanes touch
  obtain rfl : t = u.updLane (laneIdx l) fun r => { r with chkBad := if errorsOf l w s = 0 then 0 else r.chkBad + 1 } := by
    by_cases he : errorsOf l w s = 0
    · simp only [he, if_true]
      exact ht.trans (if_pos he)
    · simp only [he, if_false]
      exact ht.trans ((if_neg he).trans (if_neg (by omega)))
  exact ⟨(State.updLane_flag ..).trans ((touch.2.flag_eq _ fun g hg => (checkerFlds_apart l g hg).2.1).trans hk),
    (State.updLane_fld ..).trans (touch.2.fld_eq _ fun g hg => (checkerFlds_apart l g hg).1), bits, errs,
    by rw [State.lane_updLane_same, hrec]; rfl, lanes.updLane _, touch.updLane _ _ (.head _)⟩

/-- The 64th errored word in a row. -/
theorem takeWord_loses (hc : s.fld (chkPatFld l) ≠ 0) (hk : s.flag (prbsLockedFld l) = true) (he : errorsOf l w s ≠ 0)
    (hb : 63 ≤ (s.lane (laneIdx l)).chkBad) (ht : t = takeWord l s w) :
    t.flag (prbsLockedFld l) = false ∧ t.flag (prbsLostFld l) = true ∧
    t.reg64 (prbsBitsAt l) (prbsBitsAt l + 1) = (s.reg64 (prbsBitsAt l) (prbsBitsAt l + 1) + wordBits l) % 2 ^ 64 ∧
    LanesKeep (laneIdx l) s t ∧ Touches [.lanes] (prbsLockedFld l :: prbsLostFld l :: checkerFlds l) s t := by
  obtain ⟨haddr, -⟩ := checker_addr l
  simp only [List.forall_mem_cons] at haddr
  obtain ⟨⟨-, hl, hp⟩, ⟨-, hl', hp'⟩, -⟩ := haddr
  rw [takeWord_eq hc, if_pos hk] at ht
  obtain ⟨bits, -, hrec, lanes, touch⟩ := counted_shows l w s rfl
  generalize State.bump64 (State.bump64 (heard l w s) _ _ _) _ _ _ = u at ht bits hrec lanes touch
  obtain rfl := ht.trans ((if_neg he).trans (if_pos hb))
  have htail : Touches [.lanes] [prbsLockedFld l, prbsLostFld l] u ((checkerSearch l u).raise (prbsLostFld l)) :=
    (((Touches.refl _ _ u).setFlag _ _ (by simp)).updLane _ _ (by simp)).raise _ (by simp)
  refine ⟨?_, ?_, (State.reg64_of_flds htail.2 _ _ ?_).trans bits, ?_, ?_⟩
  · rw [State.flag_raise _ _ _ (prbsLost_apart l).2, checkerSearch, State.updLane_flag, State.flag_setFlag_same _ _ _ (prbsLocked_bit l).1 (prbsLocked_bit l).2]
  · exact State.flag_raise_same _ _ (prbsLost_bit l).1 (prbsLost_bit l).2
  · exact List.forall_mem_cons.2 ⟨⟨hl, hl'⟩, List.forall_mem_singleton.2 ⟨hp, hp'⟩⟩
  · exact ((lanes.of_lanes (State.setFlag_lanes ..)).updLane _).of_lanes (State.raise_lanes ..)
  · exact (touch.mono (fun _ h => h) (fun f hf => .tail _ (.tail _ hf))).andThen htail (fun _ h => h) (by simp)

end

/-! ### Runs of words -/

theorem State.reg64_lt (s : State) (a b : Nat) : s.reg64 a b < 2 ^ 64 := by
  have ha := (s.reg a).isLt
  have hb := (s.reg b).isLt
  rw [State.reg64]
  omega

theorem take_succ_nth {α : Type} (d : α) : ∀ {xs : List α} {n : Nat}, n + 1 ≤ xs.length → xs.take (n + 1) = xs.take n ++ [nth d xs n]
  | _ :: _, 0, _ => rfl
  | x :: _, _ + 1, h => congrArg (x :: ·) (take_succ_nth d (Nat.le_of_succ_le_succ h))

/-- Of what a lane's words are formed from, `s` and `t` hold the same. -/
structure FormsAlike (l : LaneId) (s t : State) : Prop where
  regs : t.regs = s.regs
  clk : t.clk = s.clk
  rate : (t.lane (laneIdx l)).rate = (s.lane (laneIdx l)).rate
  mode : (t.lane (laneIdx l)).mode = (s.lane (laneIdx l)).mode
  genFrom : (t.lane (laneIdx l)).genFrom = (s.lane (laneIdx l)).genFrom
  encoder : (t.lane (laneIdx l)).txPlus = (s.lane (laneIdx l)).txPlus ∧ (t.lane (laneIdx l)).plusAt = (s.lane (laneIdx l)).plusAt
  line : (t.lane (laneIdx l)).line = (s.lane (laneIdx l)).line

section
variable {l : LaneId} {s t : State}

theorem FormsAlike.wordIndex_eq (h : FormsAlike l s t) : wordIndex t l = wordIndex s l := by
  rw [wordIndex, wordIndex, h.clk, h.rate]

theorem FormsAlike.formedWord_eq (h : FormsAlike l s t) (n : Nat) : formedWord t l n = formedWord s l n := by
  have hf := State.fld_of_regs h.regs
  have hreg : ∀ a, t.reg a = s.reg a := fun a => by rw [State.reg, State.reg, h.regs]
  obtain ⟨hplus, hat⟩ := h.encoder
  cases l with
  | data d => simp only [formedWord, hf, h.genFrom]
  | aux m =>
    have hrep : repeated t m = repeated s m := by
      simp only [repeated, hf, hreg]
      rw [show (t.lane (768 + m)).mode = (s.lane (768 + m)).mode from h.mode]
    have htraffic : trafficChars t m = trafficChars s m := by
      funext k
      simp only [trafficChars]
      rw [show (t.lane (768 + m)).mode = (s.lane (768 + m)).mode from h.mode, show (t.lane (768 + m)).line = (s.lane (768 + m)).line from h.line]
    have hencoder : encoderPlus t m = encoderPlus s m := by
      funext k
      simp only [encoderPlus, hrep, htraffic, hf]
      rw [show (t.lane (768 + m)).txPlus = (s.lane (768 + m)).txPlus from hplus, show (t.lane (768 + m)).plusAt = (s.lane (768 + m)).plusAt from hat]
    simp only [formedWord, hrep, htraffic, hencoder, hf, h.genFrom]

/-- A record that differs in what the checker keeps alone. -/
theorem heardWords_of_record (h : FormsAlike l s t) (hi : (t.lane (laneIdx l)).injAt = (s.lane (laneIdx l)).injAt ∧ (t.lane (laneIdx l)).injFrom = (s.lane (laneIdx l)).injFrom)
    (hx : (t.lane (laneIdx l)).rxWords = (s.lane (laneIdx l)).rxWords ∧ (t.lane (laneIdx l)).fill = (s.lane (laneIdx l)).fill) (ws : List (BitVec 128)) :
    heardWords l ws t = heardWords l ws s := by
  have hf := State.fld_of_regs h.regs
  have hg := State.flag_of_regs h.regs
  obtain ⟨hat, hfrom⟩ := hi
  obtain ⟨hrx, hfill⟩ := hx
  have htx : txWord t l = txWord s l := by
    funext n
    have hresent : resentWord t l n = resentWord s l n := by simp only [resentWord, hrx, hfill]
    have hhit : injHit t l n = injHit s l n := by simp only [injHit, hf, hat, hfrom]
    simp only [txWord, hresent, hhit, hf, h.formedWord_eq]
  have hheard : heardWord t l = heardWord s l := by
    funext n w
    simp only [heardWord, hf, hg, htx]
  simp only [heardWords, hheard, h.wordIndex_eq]

end

/-- What a checker hears does not depend on its own record. -/
theorem heardWords_updLane_chk (l : LaneId) (ws : List (BitVec 128)) (s : State) (x : BitVec 128) :
    heardWords l ws (s.updLane (laneIdx l) fun r => { r with chkRef := x, chkGood := 0 }) = heardWords l ws s  := by
  have h := State.lane_updLane_same s (laneIdx l) fun r => { r with chkRef := x, chkGood := 0 }
  have hregs : (s.updLane (laneIdx l) fun r => { r with chkRef := x, chkGood := 0 }).regs = s.regs := rfl
  have hclk := State.updLane_clk s (laneIdx l) fun r => { r with chkRef := x, chkGood := 0 }
  generalize (s.updLane (laneIdx l) fun r => { r with chkRef := x, chkGood := 0 }) = t at h hregs hclk ⊢
  exact heardWords_of_record ⟨hregs, hclk, by rw [h], by rw [h], by rw [h], by rw [h]; exact ⟨rfl, rfl⟩, by rw [h]⟩ (by rw [h]; exact ⟨rfl, rfl⟩)
    (by rw [h]; exact ⟨rfl, rfl⟩) ws

section
variable {l : LaneId}

/-- Fewer words than a lock takes. -/
theorem short_run : ∀ (ws : List (BitVec 128)) {s : State}, s.fld (chkPatFld l) ≠ 0 → s.flag (prbsLockedFld l) = false →
    (s.lane (laneIdx l)).chkGood + ws.length ≤ 255 →
    (ws.foldl (takeWord l) s).regs = s.regs ∧ LanesKeep (laneIdx l) s (ws.foldl (takeWord l) s) ∧ Moves [.lanes] s (ws.foldl (takeWord l) s)
  | [], s, _, _, _ => ⟨rfl, .refl _ s, .refl _ s⟩
  | w :: ws, s, hc, hk, hg => by
    rw [List.length_cons] at hg
    obtain ⟨hrec, regs, lanes, moves⟩ := takeWord_searching (w := w) hc hk (Or.inr (by omega)) rfl
    obtain ⟨regs', lanes', moves'⟩ := short_run ws (s := takeWord l s w) (by rwa [State.fld_of_regs regs]) (by rwa [State.flag_of_regs regs]) (by
      rw [hrec]
      dsimp only
      split <;> omega)
    exact ⟨regs'.trans regs, lanes.trans lanes', moves.trans moves'⟩

/-- The first `n` words of a checker's own pattern, from a history on. -/
def ownWords (l : LaneId) (code n : Nat) (hist : BitVec 128) : List (BitVec 128) :=
  (upto n).map fun i => histWord (wordBits l) (patternAfter l code (i + 1) hist)

theorem ownWords_succ (l : LaneId) (code n : Nat) (hist : BitVec 128) :
    ownWords l code (n + 1) hist = ownWords l code n hist ++ [histWord (wordBits l) (nextPattern l code (patternAfter l code n hist))] := by
  rw [ownWords, upto, List.range_succ, List.map_append, List.map_singleton, patternAfter_succ]
  rfl

/-- Good words short of the 256th are counted. -/
theorem good_run {s : State} (hc : s.fld (chkPatFld l) ≠ 0) (hk : s.flag (prbsLockedFld l) = false) (hg : (s.lane (laneIdx l)).chkGood = 0) (n : Nat)
    (hn : n ≤ 255) {t : State} (ht : t = (ownWords l (s.fld (chkPatFld l)) n (s.lane (laneIdx l)).chkRef).foldl (takeWord l) s) :
    t.regs = s.regs ∧ (t.lane (laneIdx l)).chkGood = n ∧
    (t.lane (laneIdx l)).chkRef = patternAfter l (s.fld (chkPatFld l)) n (s.lane (laneIdx l)).chkRef ∧ LanesKeep (laneIdx l) s t ∧ Moves [.lanes] s t := by
  induction n generalizing t with
  | zero =>
    subst ht
    exact ⟨rfl, hg, rfl, .refl _ _, .refl _ _⟩
  | succ n ih =>
    rw [ownWords_succ, List.foldl_append, List.foldl_cons, List.foldl_nil] at ht
    obtain ⟨regs, good, ref, lanes, moves⟩ := ih (by omega) rfl
    generalize (ownWords l _ n _).foldl (takeWord l) s = u at ht regs good ref lanes moves
    have hf := State.fld_of_regs regs (chkPatFld l)
    obtain ⟨hrec, regs', lanes', moves'⟩ := takeWord_searching (by rwa [hf]) (by rwa [State.flag_of_regs regs]) (Or.inr (by omega)) ht
    have he : errorsOf l (histWord (wordBits l) (nextPattern l (s.fld (chkPatFld l)) (patternAfter l (s.fld (chkPatFld l)) n (s.lane (laneIdx l)).chkRef))) u = 0 := by
      rw [errorsOf, hf, ref, wordErrors_own]
    rw [he, if_pos rfl] at hrec
    exact ⟨regs'.trans regs, by rw [hrec, good], by rw [hrec, patternAfter_succ, ← ref, ← hf]; rfl, lanes.trans lanes', moves.trans moves'⟩

/-- The 256th good word locks the checker. -/
theorem locking_run {s : State} (hc : s.fld (chkPatFld l) ≠ 0) (hk : s.flag (prbsLockedFld l) = false) (hg : (s.lane (laneIdx l)).chkGood = 0)
    {t : State} (ht : t = (ownWords l (s.fld (chkPatFld l)) 256 (s.lane (laneIdx l)).chkRef).foldl (takeWord l) s) :
    t.flag (prbsLockedFld l) = true ∧ (t.lane (laneIdx l)).chkBad = 0 ∧
    (t.lane (laneIdx l)).chkRef = patternAfter l (s.fld (chkPatFld l)) 256 (s.lane (laneIdx l)).chkRef ∧ LanesKeep (laneIdx l) s t ∧
    Touches [.lanes] [prbsLockedFld l] s t := by
  rw [ownWords_succ, List.foldl_append, List.foldl_cons, List.foldl_nil] at ht
  obtain ⟨regs, good, ref, lanes, moves⟩ := good_run hc hk hg 255 (by decide) rfl
  generalize (ownWords l _ 255 _).foldl (takeWord l) s = u at ht regs good ref lanes moves
  have hf := State.fld_of_regs regs (chkPatFld l)
  obtain ⟨locked, hrec, lanes', touch⟩ := takeWord_locks (by rwa [hf]) (by rwa [State.flag_of_regs regs]) (by rw [errorsOf, hf, ref, wordErrors_own])
      (by omega) ht
  exact ⟨locked, by rw [hrec], by rw [hrec, patternAfter_succ l _ 255, ← ref, ← hf]; rfl, lanes.trans lanes',
    ((Touches.refl _ _ s).of_parts moves (by decide) fun _ h => h).trans touch⟩

/-- Errored words short of the 64th in a row. -/
theorem errored_run {s : State} {ws : List (BitVec 128)} (hc : s.fld (chkPatFld l) ≠ 0) (hk : s.flag (prbsLockedFld l) = true)
    (hb : (s.lane (laneIdx l)).chkBad = 0) (n : Nat) (hn : n ≤ 63) (hl : n ≤ ws.length)
    (he : ∀ i < n, wordErrors l (s.fld (chkPatFld l)) (patternAfter l (s.fld (chkPatFld l)) i (s.lane (laneIdx l)).chkRef) (nth 0 ws i) ≠ 0)
    {t : State} (ht : t = (ws.take n).foldl (takeWord l) s) :
    t.flag (prbsLockedFld l) = true ∧ t.fld (chkPatFld l) = s.fld (chkPatFld l) ∧
    t.reg64 (prbsBitsAt l) (prbsBitsAt l + 1) = (s.reg64 (prbsBitsAt l) (prbsBitsAt l + 1) + n * wordBits l) % 2 ^ 64 ∧
    (t.lane (laneIdx l)).chkBad = n ∧
    (t.lane (laneIdx l)).chkRef = patternAfter l (s.fld (chkPatFld l)) n (s.lane (laneIdx l)).chkRef ∧ LanesKeep (laneIdx l) s t ∧
    Touches [.lanes] (checkerFlds l) s t := by
  induction n generalizing t with
  | zero =>
    subst ht
    exact ⟨hk, rfl, by rw [Nat.zero_mul]; exact (Nat.mod_eq_of_lt (State.reg64_lt ..)).symm, hb, rfl, .refl _ _, .refl _ _ _⟩
  | succ n ih =>
    rw [take_succ_nth 0 hl, List.foldl_append, List.foldl_cons, List.foldl_nil] at ht
    obtain ⟨locked, pat, bits, bad, ref, lanes, touch⟩ := ih (by omega) (by omega) (fun i hi => he i (by omega)) rfl
    generalize (ws.take n).foldl (takeWord l) s = u at ht locked pat bits bad ref lanes touch
    obtain ⟨locked', pat', bits', -, hrec, lanes', touch'⟩ := takeWord_counts (by rwa [pat]) locked (Or.inr (by omega)) ht
    have hne : errorsOf l (nth 0 ws n) u ≠ 0 := by
      rw [errorsOf, pat, ref]
      exact he n (by omega)
    rw [if_neg hne] at hrec
    refine ⟨locked', pat'.trans pat, ?_, by rw [hrec, bad], by rw [hrec, patternAfter_succ, ← ref, ← pat]; rfl, lanes.trans lanes', touch.trans touch'⟩
    rw [bits', bits, Nat.mod_add_mod, Nat.succ_mul, Nat.add_assoc]

/-- The 64th errored word in a row ends the lock. -/
theorem losing_run {s : State} {ws : List (BitVec 128)} (hc : s.fld (chkPatFld l) ≠ 0) (hk : s.flag (prbsLockedFld l) = true)
    (hb : (s.lane (laneIdx l)).chkBad = 0) (hl : ws.length = 64)
    (he : ∀ i < 64, wordErrors l (s.fld (chkPatFld l)) (patternAfter l (s.fld (chkPatFld l)) i (s.lane (laneIdx l)).chkRef) (nth 0 ws i) ≠ 0)
    {t : State} (ht : t = ws.foldl (takeWord l) s) :
    t.flag (prbsLockedFld l) = false ∧ t.flag (prbsLostFld l) = true ∧
    t.reg64 (prbsBitsAt l) (prbsBitsAt l + 1) = (s.reg64 (prbsBitsAt l) (prbsBitsAt l + 1) + 64 * wordBits l) % 2 ^ 64 ∧
    LanesKeep (laneIdx l) s t ∧ Touches [.lanes] (prbsLockedFld l :: prbsLostFld l :: checkerFlds l) s t := by
  have hw : ws = ws.take 63 ++ [nth 0 ws 63] := by
    rw [← take_succ_nth 0 (by omega), List.take_of_length_le (by omega)]
  rw [hw, List.foldl_append, List.foldl_cons, List.foldl_nil] at ht
  obtain ⟨locked, pat, bits, bad, ref, lanes, touch⟩ := errored_run hc hk hb 63 (by decide) (by omega) (fun i hi => he i (by omega)) rfl
  generalize (ws.take 63).foldl (takeWord l) s = u at ht locked pat bits bad ref lanes touch
  have hne : errorsOf l (nth 0 ws 63) u ≠ 0 := by
    rw [errorsOf, pat, ref]
    exact he 63 (by decide)
  obtain ⟨locked', lost, bits', lanes', touch'⟩ := takeWord_loses (by rwa [pat]) locked hne (by omega) ht
  refine ⟨locked', lost, ?_, lanes.trans lanes', (touch.mono (fun _ h => h) fun f hf => .tail _ (.tail _ hf)).trans touch'⟩
  rw [bits', bits, Nat.mod_add_mod]
  omega

end

end Sys2Proof.Machine
end

section
/-!
SUPPORT. Writes of the pattern and injection controls, far-end slips and transmit PLLs (R145 to R150, R586). O16 follows.
-/
namespace Sys2Proof.Machine
set_option Elab.async false

/-! ### Transmit PLLs (R586) -/

theorem pllLocked_or (x : BitVec 7) (k j : Nat) (hj : j < 7) :
    (x ||| BitVec.ofNat 7 (2 ^ k)).toNat.testBit j = (x.toNat.testBit j || decide (j = k)) := by
  have h := BitVec.getLsbD_or (x := x) (y := BitVec.ofNat 7 (2 ^ k)) (i := j)
  refine h.trans (congrArg _ ?_)
  rw [BitVec.getLsbD_ofNat, decide_eq_true hj, Bool.true_and, Nat.testBit_two_pow]
  exact decide_eq_decide.2 eq_comm

theorem pllLocked_and_not (x : BitVec 7) (k j : Nat) (hj : j < 7) :
    (x &&& ~~~BitVec.ofNat 7 (2 ^ k)).toNat.testBit j = (x.toNat.testBit j && !decide (j = k)) := by
  have h := BitVec.getLsbD_and (x := x) (y := ~~~BitVec.ofNat 7 (2 ^ k)) (i := j)
  refine h.trans (congrArg _ ?_)
  rw [BitVec.getLsbD_not, decide_eq_true hj, Bool.true_and, BitVec.getLsbD_ofNat, decide_eq_true hj, Bool.true_and, Nat.testBit_two_pow]
  exact congrArg _ (decide_eq_decide.2 eq_comm)

/-- A lane that waited for PLL `k` starts. -/
def startWaiting (k : Nat) (s : State) (e : Nat × LaneSt) : State :=
  if e.2.wait ∧ pllOf (laneAt e.1) = k then s.updLane e.1 fun l => { l with wait := false } else s

theorem txpllLock_eq (k : Nat) (s : State) :
    txpllLock k s = s.lanes.foldl (startWaiting k) { s with lanePll := s.lanePll ||| BitVec.ofNat 7 (2 ^ k) } := rfl

/-- Whether a list of lane records has lane `j` waiting for PLL `k`. -/
def listWaits (k j : Nat) (es : List (Nat × LaneSt)) : Bool := es.any fun e => decide (e.1 = j ∧ e.2.wait ∧ pllOf (laneAt e.1) = k)

theorem startWaiting_lane (k : Nat) (s : State) (e : Nat × LaneSt) (j : Nat) :
    (startWaiting k s e).lane j = { s.lane j with wait := (s.lane j).wait && !decide (e.1 = j ∧ e.2.wait ∧ pllOf (laneAt e.1) = k) } := by
  rw [startWaiting]
  by_cases hj : e.1 = j
  · subst hj
    split
    · next h => rw [State.lane_updLane_same, decide_eq_true ⟨rfl, h⟩, Bool.not_true, Bool.and_false]
    · next h => rw [decide_eq_false fun hc => h hc.2, Bool.not_false, Bool.and_true]
  · rw [decide_eq_false fun hc => hj hc.1, Bool.not_false, Bool.and_true]
    split
    · rw [State.lane_updLane_ne _ _ (Ne.symm hj)]
    · rfl

theorem startWaiting_run (k j : Nat) : ∀ (es : List (Nat × LaneSt)) (s : State),
    (es.foldl (startWaiting k) s).lane j = { s.lane j with wait := (s.lane j).wait && !listWaits k j es } ∧
    (es.foldl (startWaiting k) s).lanePll = s.lanePll
  | [], s => ⟨by rw [listWaits, List.any_nil, Bool.not_false, Bool.and_true, List.foldl_nil], rfl⟩
  | e :: es, s => by
    obtain ⟨hrec, pll⟩ := startWaiting_run k j es (startWaiting k s e)
    refine ⟨?_, pll.trans ?_⟩
    · rw [List.foldl_cons, hrec, startWaiting_lane, listWaits, listWaits, List.any_cons, Bool.not_or, Bool.and_assoc]
    · rw [startWaiting]
      split <;> rfl

/-- A waiting lane has a record in the list. -/
theorem wait_listed {k : Nat} {s : State} (l : LaneId) (h : (s.lane (laneIdx l)).wait = true) :
    listWaits k (laneIdx l) s.lanes = decide (pllOf l = k) := by
  have hat : laneAt (laneIdx l) = l := by
    cases l with
    | data n => exact laneAt_data n
    | aux m => exact laneAt_aux m
  rw [listWaits]
  by_cases hk : pllOf l = k
  · rw [decide_eq_true hk, List.any_eq_true]
    rcases Tests.smapGet_mem laneReset s.lanes (laneIdx l) with hr | hm
    · have hw : (s.lane (laneIdx l)).wait = false := (congrArg LaneSt.wait hr).trans (by
        rw [laneReset]
        split <;> rfl)
      rw [hw] at h
      cases h
    · exact ⟨_, hm, decide_eq_true ⟨rfl, h, by rw [hat, hk]⟩⟩
  · rw [decide_eq_false hk, List.any_eq_false]
    intro e _ hc
    obtain ⟨hj, -, hp⟩ := of_decide_eq_true hc
    rw [hj, hat] at hp
    exact hk hp

theorem txpllLock_lane (k : Nat) (s : State) (l : LaneId) :
    (txpllLock k s).lane (laneIdx l) = { s.lane (laneIdx l) with wait := (s.lane (laneIdx l)).wait && decide (pllOf l ≠ k) } := by
  rw [txpllLock_eq, (startWaiting_run k (laneIdx l) s.lanes _).1]
  show ({ s.lane (laneIdx l) with wait := (s.lane (laneIdx l)).wait && !listWaits k (laneIdx l) s.lanes } : LaneSt) = _
  cases hw : (s.lane (laneIdx l)).wait
  · rfl
  · rw [wait_listed l hw, Bool.true_and, Bool.true_and, ← decide_not]

theorem forUpto_succ {σ : Type} (n : Nat) (f : Nat → σ → σ) (s : σ) : forUpto (n + 1) f s = f n (forUpto n f s) := by
  rw [forUpto, upto, List.range_succ, List.foldl_append]
  rfl

/-- TXPLL_UNLOCK in quad pages from `b` on. -/
theorem flag_unlocks (b n q : Nat) (s : State) :
    (forUpto n (fun i s => s.raise (F.DLN_INT_STATUS_TXPLL_UNLOCK (b + i))) s).flag (F.DLN_INT_STATUS_TXPLL_UNLOCK q) =
      (s.flag (F.DLN_INT_STATUS_TXPLL_UNLOCK q) || decide (b ≤ q ∧ q < b + n)) := by
  induction n with
  | zero => rw [decide_eq_false (by omega), Bool.or_false]; rfl
  | succ n ih =>
    rw [forUpto_succ]
    by_cases hq : q = b + n
    · rw [hq, State.flag_raise_same _ _ (of_decide_eq_true rfl) rfl, decide_eq_true (by omega), Bool.or_true]
    · have hapart : Apart (F.DLN_INT_STATUS_TXPLL_UNLOCK (b + n)) (F.DLN_INT_STATUS_TXPLL_UNLOCK q) := by
        simp only [Apart, F.DLN_INT_STATUS_TXPLL_UNLOCK, Reg.DLN_INT_STATUS]
        omega
      rw [State.flag_raise _ _ _ hapart, ih]
      exact congrArg _ (decide_eq_decide.2 (by omega))

/-! ### Pattern controls (R145 to R147) -/

theorem bits_and_none {d m : Word} {lo w : Nat} (h : ∀ i < w, m.getLsbD (lo + i) = false) : bits (d &&& m) lo w = 0 := by
  apply Nat.eq_of_testBit_eq
  intro i
  rw [testBit_bits, testBit_and, Nat.zero_testBit]
  by_cases hi : i < w
  · have hz : m.toNat.testBit (lo + i) = false := h i hi
    rw [hz, Bool.and_false, Bool.and_false]
  · rw [decide_eq_false hi, Bool.false_and]

/-- The pattern codes that a pattern register stores. -/
theorem bits_prbsCodes (g c : Nat) (v : Word) :
    bits (prbsCodes g c v) 0 4 = (if bits v 0 4 ≤ g then bits v 0 4 else 0) ∧ bits (prbsCodes g c v) 8 4 = (if bits v 8 4 ≤ c then bits v 8 4 else 0) := by
  have hg : v.toNat % 16 = bits v 0 4 := by rw [bits, Nat.shiftRight_zero]; rfl
  have hc : v.toNat / 256 % 16 = bits v 8 4 := by rw [bits, Nat.shiftRight_eq_div_pow]; rfl
  have hgen : ∀ x : Word, bits (x &&& ~~~0xF#32) 0 4 = 0 ∧ bits (x &&& ~~~0xF#32) 8 4 = bits x 8 4 := fun x =>
    ⟨bits_and_none (by decide), bits_and_full (by decide)⟩
  have hchk : ∀ x : Word, bits (x &&& ~~~0xF00#32) 0 4 = bits x 0 4 ∧ bits (x &&& ~~~0xF00#32) 8 4 = 0 := fun x =>
    ⟨bits_and_full (by decide), bits_and_none (by decide)⟩
  simp only [prbsCodes, hg, hc]
  by_cases h1 : g < bits v 0 4
  · rw [if_pos h1, if_neg (Nat.not_le.2 h1)]
    by_cases h2 : c < bits v 8 4
    · rw [if_pos h2, if_neg (Nat.not_le.2 h2)]
      exact ⟨(hchk _).1.trans (hgen v).1, (hchk _).2⟩
    · rw [if_neg h2, if_pos (Nat.not_lt.1 h2)]
      exact hgen v
  · rw [if_neg h1, if_pos (Nat.not_lt.1 h1)]
    by_cases h2 : c < bits v 8 4
    · rw [if_pos h2, if_neg (Nat.not_le.2 h2)]
      exact hchk v
    · rw [if_neg h2, if_pos (Nat.not_lt.1 h2)]
      exact ⟨rfl, rfl⟩

/-- The register of a lane's pattern controls, and the codes that it takes. -/
def prbsReg : LaneId → Nat
  | .data n => Reg.DLN_PRBS_CTRL n
  | .aux m => Reg.ALN_PRBS_CTRL m
def prbsWord (l : LaneId) (d : Word) : Word :=
  match l with
  | .data _ => prbsCodes 7 7 d
  | .aux _ => prbsCodes 6 4 d

/-- The state with a write of a lane's pattern controls stored, before what it sets off. -/
def prbsStored (l : LaneId) (d : Word) (s : State) : State := s.setReg (prbsReg l) ((s.reg (prbsReg l) &&& ~~~0xF0F#32) ||| (prbsWord l d &&& 0xF0F#32))

theorem prbsWrite_answers {c : Instr} {s : State} {ag : Agent} {l : LaneId} {d : Word} {P : State → Prop} (hx : exec c s = prbsWrite ag l d s)
    (hm : s.pwr.mainUp = true) (hw : pf1Denied ag (prbsReg l) s = false)
    (h : ∀ t, actPrbs l (s.reg (prbsReg l)) d (prbsStored l d s) = t → P t) : Answers c s P := by
  have hstore : ∀ r : RegDef, r.rw = 0xF0F#32 → r.rwl = 0 → r.wo = 0 → normWord r.norm (s.reg (prbsReg l)) d = prbsWord l d → ∀ t,
      regWrite ag (prbsReg l) r (actPrbs l) allBits d s = t → P t := fun r hrw hl ho hn t e => h t (by
    rw [regWrite_of_allowed hw, regStore_eq, regStored_normed _ _ _ _ hl ho, merge_allBits, hn, hrw] at e
    exact e)
  cases l with
  | data n => exact answers_main hx hm (hstore Rd.DLN_PRBS_CTRL rfl rfl rfl rfl)
  | aux m => exact answers_main hx hm (hstore Rd.ALN_PRBS_CTRL rfl rfl rfl rfl)

section
variable (l : LaneId) (d : Word) (s : State)

theorem prbsStored_touches {ps : List Part} : Touches ps [whole (prbsReg l)] s (prbsStored l d s) := (Touches.refl _ _ s).setReg _ _ (.head _)

theorem prbsStored_lanes : (prbsStored l d s).lanes = s.lanes := State.setReg_lanes ..

theorem prbsStored_reg_bits {lo : Nat} (h : ∀ i < 4, (0xF0F#32).getLsbD (lo + i) = true) :
    bits ((prbsStored l d s).reg (prbsReg l)) lo 4 = bits (prbsWord l d) lo 4 := by
  rw [prbsStored, State.reg_setReg_same, bits_merge_covered _ _ _ _ _ h]

theorem wordIndex_prbsStored : wordIndex (prbsStored l d s) l = wordIndex s l := by
  rw [wordIndex, wordIndex, State.lane_of_lanes (prbsStored_lanes l d s)]
  exact congrArg (fun k : ClkSt => k.tclk * 544 / _) (State.setReg_clk ..)

end

/-- A checker that searches again. -/
theorem checkerSearch_shows (l : LaneId) (s : State) {t : State} (ht : t = checkerSearch l s) :
    t.flag (prbsLockedFld l) = false ∧ t.lane (laneIdx l) = { s.lane (laneIdx l) with chkGood := 0, chkBad := 0 } ∧ LanesKeep (laneIdx l) s t ∧
    Touches [.lanes] [prbsLockedFld l] s t := by
  subst ht
  refine ⟨?_, ?_, ((LanesKeep.refl _ s).of_lanes (State.setFlag_lanes ..)).updLane _, ((Touches.refl _ _ s).setFlag _ _ (.head _)).updLane _ _ (.head _)⟩
  · rw [checkerSearch, State.updLane_flag, State.flag_setFlag_same _ _ _ (prbsLocked_bit l).1 (prbsLocked_bit l).2]
  · rw [checkerSearch, State.lane_updLane_same, State.lane_setFlag]

/-- What the checker's part of a write may change. -/
theorem actChecker_shows (l : LaneId) (old raw : Word) (s : State) {t : State} (ht : t = actChecker l old raw s) :
    (t.lane (laneIdx l)).rate = (s.lane (laneIdx l)).rate ∧ LanesKeep (laneIdx l) s t ∧ Touches [.lanes] [prbsLockedFld l] s t := by
  rw [actChecker] at ht
  split at ht
  · obtain ⟨-, hrec, lanes, touch⟩ := checkerSearch_shows l s ht
    exact ⟨by rw [hrec], lanes, touch⟩
  · subst ht
    exact ⟨rfl, .refl _ _, .refl _ _ _⟩

/-- Keeping the encoder's disparity leaves the register as it stands. -/
theorem keepPlusOf_shows (m : Fin 32) (a : Nat) (old : Word) (s : State) {t : State} (ht : t = keepPlusOf m a old s) :
    (∃ x y, t.lane (768 + m) = { s.lane (768 + m) with txPlus := x, plusAt := y }) ∧ t.reg a = s.reg a ∧ LanesKeep (768 + m) s t ∧
    Touches [.lanes] [whole a] s t := by
  have hrec : t.lane (768 + m) = { s.lane (768 + m) with txPlus := encoderPlus (s.setReg a old) m (wordIndex (s.setReg a old) (.aux m)),
                                                         plusAt := wordIndex (s.setReg a old) (.aux m) } := by
    rw [ht, keepPlusOf, State.lane_setReg, keepPlus, State.lane_updLane_same, State.lane_setReg]
  subst ht
  exact ⟨⟨_, _, hrec⟩, State.reg_setReg_same .., (((LanesKeep.refl _ s).of_lanes (State.setReg_lanes ..)).updLane _).of_lanes (State.setReg_lanes ..),
    (((Touches.refl _ _ s).setReg _ _ (.head _)).updLane _ _ (.head _)).setReg _ _ (.head _)⟩

/-- A write that leaves a data lane's generator off. -/
theorem actPrbs_silent {n : Fin 768} {old raw : Word} {s u t : State} (hu : actChecker (.data n) old raw s = u)
    (hg : u.fld (F.DLN_PRBS_CTRL_GEN_PAT n) = 0) (ht : actPrbs (.data n) old raw s = t) :
    t.regs = u.regs ∧ (bits old 0 4 = 0 → t = u) ∧ LanesKeep n u t ∧ Moves [.lanes] u t := by
  have hs3 : (if u.fld (genPatFld (.data n)) ≠ bits old 0 4 then
      u.updLane (laneIdx (.data n)) fun r => { r with genFrom := wordIndex s (.data n) + 1 } else u) = t := by
    subst hu
    have ht' : (if (if (actChecker (.data n) old raw s).fld (genPatFld (.data n)) ≠ bits old 0 4 then
        (actChecker (.data n) old raw s).updLane (laneIdx (.data n)) fun r => { r with genFrom := wordIndex s (.data n) + 1 }
        else actChecker (.data n) old raw s).fld (F.DLN_PRBS_CTRL_GEN_PAT n) ≠ 0 then generatorOn n _ else _) = t := ht
    refine (if_neg (not_not.2 ?_)).symm.trans ht'
    split
    · exact (State.updLane_fld ..).trans hg
    · exact hg
  have hgen : u.fld (genPatFld (.data n)) = 0 := hg
  rw [hgen] at hs3
  split at hs3
  · next h =>
    subst hs3
    exact ⟨rfl, fun h0 => absurd h0.symm h, (LanesKeep.refl _ u).updLane _, State.updLane_moves (.refl _ u) _ _ (.head _)⟩
  · subst hs3
    exact ⟨rfl, fun _ => rfl, .refl _ _, .refl _ _⟩

/-- A write of an auxiliary lane's pattern controls. -/
theorem actPrbs_aux_shows {m : Fin 32} {old raw : Word} {s t : State} (ht : actPrbs (.aux m) old raw s = t) :
    t.reg (Reg.ALN_PRBS_CTRL m) = s.reg (Reg.ALN_PRBS_CTRL m) ∧
    (s.fld (F.ALN_PRBS_CTRL_GEN_PAT m) ≠ bits old 0 4 → (t.lane (768 + m)).genFrom = wordIndex s (.aux m) + 1) ∧ LanesKeep (768 + m) s t ∧
    Touches [.lanes] [whole (Reg.ALN_PRBS_CTRL m), F.ALN_LANE_STATUS_PRBS_LOCKED m] s t := by
  obtain ⟨-, lanes, touch⟩ := actChecker_shows (.aux m) old raw s rfl
  have hreg := touch.2.reg_eq (Reg.ALN_PRBS_CTRL m) (List.forall_mem_singleton.2 (by
    simp only [prbsLockedFld, F.ALN_LANE_STATUS_PRBS_LOCKED, Reg.ALN_LANE_STATUS, Reg.ALN_PRBS_CTRL]
    omega))
  obtain ⟨-, hreg', lanes', touch'⟩ := keepPlusOf_shows m (Reg.ALN_PRBS_CTRL m) old (actChecker (.aux m) old raw s) rfl
  have hs3 : (if (keepPlusOf m (Reg.ALN_PRBS_CTRL m) old (actChecker (.aux m) old raw s)).fld (genPatFld (.aux m)) ≠ bits old 0 4 then
      (keepPlusOf m (Reg.ALN_PRBS_CTRL m) old (actChecker (.aux m) old raw s)).updLane (laneIdx (.aux m)) fun r =>
        { r with genFrom := wordIndex s (.aux m) + 1 } else keepPlusOf m (Reg.ALN_PRBS_CTRL m) old (actChecker (.aux m) old raw s)) = t := ht
  generalize keepPlusOf m (Reg.ALN_PRBS_CTRL m) old (actChecker (.aux m) old raw s) = u at hs3 hreg' lanes' touch'
  have hgen : u.fld (genPatFld (.aux m)) = s.fld (F.ALN_PRBS_CTRL_GEN_PAT m) := congrArg (bits · 0 4) (hreg'.trans hreg)
  have all : Touches [.lanes] [whole (Reg.ALN_PRBS_CTRL m), F.ALN_LANE_STATUS_PRBS_LOCKED m] s u :=
    (touch.mono (fun _ h => h) (by simp [prbsLockedFld])).andThen touch' (fun _ h => h) (by simp)
  rw [hgen] at hs3
  split at hs3
  · subst hs3
    exact ⟨(State.updLane_reg ..).trans (hreg'.trans hreg), fun _ => by rw [laneIdx, State.lane_updLane_same], (lanes.trans lanes').updLane _,
      all.updLane _ _ (.head _)⟩
  · next h =>
    subst hs3
    exact ⟨hreg'.trans hreg, fun hc => absurd hc h, lanes.trans lanes', all⟩

/-! ### Injection and far-end slips (R148 to R150) -/

/-- A write of a data lane's ERR_INJ with INJ_ONE. -/
theorem injOne_answers {s : State} {ag : Agent} {n : Fin 768} {d : Word} {P : State → Prop} (hm : s.pwr.mainUp = true)
    (hw : pf1Denied ag (Reg.DLN_ERR_INJ n) s = false)
    (h : ∀ t, actErrInj (.data n) (s.reg (Reg.DLN_ERR_INJ n)) (d ||| 0x80000000#32)
      (s.setReg (Reg.DLN_ERR_INJ n) ((s.reg (Reg.DLN_ERR_INJ n) &&& ~~~0xFFFF#32) ||| ((d ||| 0x80000000#32) &&& 0xFFFF#32))) = t → P t) :
    Answers (.injOne ag (.data n) d) s P := by
  have hx : exec (.injOne ag (.data n) d) s =
      whenMain s (regWrite ag (Reg.DLN_ERR_INJ n) Rd.DLN_ERR_INJ (actErrInj (.data n)) allBits (d ||| 0x80000000#32)) := rfl
  exact answers_main hx hm fun t e => h t (by
    rw [regWrite_of_allowed hw, regStore_eq, regStored_plain _ _ _ _ _ rfl rfl rfl, merge_allBits] at e
    exact e)

/-- An error injected into the next word, and into no other. -/
theorem injHit_next {l : LaneId} {s t : State} (h : (t.lane (laneIdx l)).injFrom = wordIndex s l)
    (hat : (wordIndex s l + 1) ∈ (t.lane (laneIdx l)).injAt) : injHit t l (wordIndex s l + 1) = true := by
  have hp : ¬(t.fld (injPeriodFld l) * 1024 ≠ 0 ∧ (t.lane (laneIdx l)).injFrom < wordIndex s l + 1 ∧
      (wordIndex s l + 1 - (t.lane (laneIdx l)).injFrom) % (t.fld (injPeriodFld l) * 1024) = 0) := by
    rintro ⟨h0, -, h1⟩
    rw [h, Nat.add_sub_cancel_left, Nat.mod_eq_of_lt (by omega)] at h1
    cases h1
  rw [injHit, decide_eq_false hp, Bool.xor_false]
  exact List.contains_iff_mem.2 hat

theorem nth_default {α : Type} (d d' : α) : ∀ {xs : List α} {i : Nat}, i < xs.length → nth d xs i = nth d' xs i
  | _ :: _, 0, _ => rfl
  | _ :: xs, _ + 1, h => nth_default d d' (xs := xs) (Nat.lt_of_succ_lt_succ h)

/-! ### O16 -/

/-- The state in which an unlocked checker has taken the bits given to it. -/
theorem seeded_shows (l : LaneId) (hist : BitVec 128) (s : State) {u : State}
    (hu : u = s.updLane (laneIdx l) fun r => { r with chkRef := hist, chkGood := 0 }) :
    u.lane (laneIdx l) = { s.lane (laneIdx l) with chkRef := hist, chkGood := 0 } ∧ u.regs = s.regs ∧ LanesKeep (laneIdx l) s u ∧ Moves [.lanes] s u := by
  subst hu
  exact ⟨State.lane_updLane_same .., rfl, (LanesKeep.refl _ s).updLane _, State.updLane_moves (.refl _ s) _ _ (.head _)⟩

/-- Words that come to an unlocked checker, from the bits given to it. -/
theorem prbsCheckerLock_answers {s : State} {l : LaneId} {hist : BitVec 128} {ws : List (BitVec 128)} {P : State → Prop} (hm : s.pwr.mainUp = true)
    (hon : (s.lane (laneIdx l)).on = true) (hk : s.flag (prbsLockedFld l) = false)
    (h : ∀ u t, u = s.updLane (laneIdx l) (fun r => { r with chkRef := hist, chkGood := 0 }) → t = (heardWords l ws s).foldl (takeWord l) u → P t) :
    Answers (.prbsCheckerLock l hist ws) s P := by
  have hx : exec (.prbsCheckerLock l hist ws) s = execPrbsCheckerLock l hist ws s := rfl
  refine answers_main hx hm fun t e => h _ t rfl ?_
  rw [if_neg (ne_true_of_eq_false hk), takeWords_eq (by rw [State.lane_updLane_same]; exact hon), heardWords_updLane_chk] at e
  exact e.symm

/-- A far-end FIFO that has run near empty or near full comes back to the middle, on an enabled lane in far-end loopback. -/
theorem feSlip_answers {s : State} {l : LaneId} {fill : Nat} {P : State → Prop} (hm : s.pwr.mainUp = true) (hon : (s.lane (laneIdx l)).on = true)
    (hl : s.fld (loopFld l) = 3) (hf : fill ≤ 2 ∨ 30 ≤ fill)
    (h : ∀ u, u = s.updLane (laneIdx l) (fun r => { r with fill := 16 }) →
      P (match l with | .data n => u.bump32 (Reg.DLN_FE_SLIP n) 1 (some (laneOvf l)) | .aux _ => u)) : Answers (.feSlip l fill) s P := by
  have hx : exec (.feSlip l fill) s = execFeSlip l fill s := rfl
  refine answers_main hx hm fun t e => ?_
  have hmode : (if (s.lane (laneIdx l)).on then s.fld (loopFld l) else 0) = 3 := (if_pos hon).trans hl
  obtain rfl := e.symm.trans (if_pos ⟨hmode, hf⟩)
  cases l with
  | data n => exact h _ rfl
  | aux m => exact h _ rfl

theorem feSlip_off {s : State} {l : LaneId} {fill : Nat} (hm : s.pwr.mainUp = true) (hon : (s.lane (laneIdx l)).on = false) :
    Answers (.feSlip l fill) s fun t => t = s := by
  have hx : exec (.feSlip l fill) s = execFeSlip l fill s := rfl
  refine answers_main hx hm fun t e => e.symm.trans ?_
  have hmode : (if (s.lane (laneIdx l)).on then s.fld (loopFld l) else 0) ≠ 3 := by
    rw [if_neg (ne_true_of_eq_false hon)]
    decide
  exact (if_neg fun h => hmode h.1).trans (if_neg hmode)

/-- The record of a lane whose far-end FIFO has come back to the middle. -/
theorem refilled_shows (n : Nat) (s : State) {u : State} (hu : u = s.updLane n fun r => { r with fill := 16 }) :
    u.lane n = { s.lane n with fill := 16 } ∧ LanesKeep n s u ∧ Moves [.lanes] s u ∧ u.regs = s.regs := by
  subst hu
  exact ⟨State.lane_updLane_same .., (LanesKeep.refl _ s).updLane _, State.updLane_moves (.refl _ s) _ _ (.head _), rfl⟩

/-- Settles O16: each test function and PLL event, from the lemmas on its operations. -/
theorem laneTestAndClock : Obligations.LaneTestAndClock := by
  refine ⟨fun s l hist ws hm hon hc hk hw => prbsCheckerLock_answers hm hon hk fun u t hu ht => ?_,
    fun s l hist ws hm hon hc hk hw => prbsCheckerLock_answers hm hon hk fun u t hu ht => ?_,
    fun s l w hm hon hc hk hb => answers_main rfl hm fun t e => ?_,
    fun s l ws hm hon hc hk hb hl he => answers_main rfl hm fun t e => ?_,
    fun s l ws hm hon => answers_main rfl hm fun t e => e.symm.trans (takeWords_off hon),
    fun s ag n d hm hw hd => prbsWrite_answers (l := .data n) rfl hm hw fun t e => ?_,
    fun s ag m d hm hw => prbsWrite_answers (l := .aux m) rfl hm hw fun t e => ?_,
    fun s ag n d hm hw => injOne_answers hm hw fun t e => ?_,
    fun s n hm hp hon => answers_main rfl hm fun t e => ?_,
    fun s n fill hm hon hl hf => feSlip_answers hm hon hl hf fun u hu => ?_,
    fun s m fill hm hon hl hf => feSlip_answers hm hon hl hf fun u hu => ?_,
    fun s l fill hm hon => feSlip_off hm hon,
    fun s k hm => answers_main rfl hm fun t e => ?_,
    fun s k hm hk => answers_main rfl hm fun t e => ?_⟩
  · obtain ⟨hrec, regs, lanes, moves⟩ := seeded_shows l hist s hu
    have hf := State.fld_of_regs regs (chkPatFld l)
    obtain ⟨locked, bad, ref, lanes', touch⟩ := locking_run (s := u) (by rwa [hf]) (by rwa [State.flag_of_regs regs]) (by rw [hrec])
      (t := t) (by rw [ht, hw, hf, hrec]; rfl)
    rw [hrec, hf] at ref
    exact ⟨locked, ref, bad, lanes.trans lanes', ((Touches.refl _ _ s).of_parts moves (by decide) fun _ h => h).trans touch⟩
  · obtain ⟨hrec, regs, lanes, moves⟩ := seeded_shows l hist s hu
    obtain ⟨regs', lanes', moves'⟩ := short_run (heardWords l ws s) (s := u) (by rwa [State.fld_of_regs regs]) (by rwa [State.flag_of_regs regs]) (by
      rw [hrec, heardWords, List.length_map, List.length_zipIdx]
      dsimp only
      omega)
    rw [← ht] at regs' lanes' moves'
    exact ⟨by rw [State.flag_of_regs regs', State.flag_of_regs regs, hk], lanes.trans lanes', (moves.trans moves').within⟩
  · rw [takeWords_eq hon] at e
    obtain ⟨locked, -, bits, errs, hrec, lanes, touch⟩ := takeWord_counts hc hk hb e.symm
    exact ⟨locked, bits, errs, by rw [hrec]; rfl, by rw [hrec]; rfl, by rw [hrec]; rfl, lanes, touch⟩
  · rw [takeWords_eq hon] at e
    exact losing_run hc hk hb (by rw [heardWords, List.length_map, List.length_zipIdx, hl]) (fun i hi => he i (List.mem_range.2 hi)) e.symm
  · have hgen : (prbsStored (.data n) (d ||| 0x10000#32) s).fld (F.DLN_PRBS_CTRL_GEN_PAT n) = 0 := by
      refine (prbsStored_reg_bits (.data n) _ s (lo := 0) (by decide)).trans ((bits_prbsCodes ..).1.trans ?_)
      rw [bits_or_clear (by decide), hd, if_pos (Nat.zero_le _)]
    have hsearch : actChecker (.data n) (s.reg (prbsReg (.data n))) (d ||| 0x10000#32) (prbsStored (.data n) (d ||| 0x10000#32) s) =
        checkerSearch (.data n) (prbsStored (.data n) (d ||| 0x10000#32) s) :=
      if_pos (Or.inl (by rw [bit_or_ofNat, show bit 0x10000#32 16 = true by decide, Bool.or_true]))
    obtain ⟨locked, hrec, lanes, touch⟩ := checkerSearch_shows (.data n) (prbsStored (.data n) (d ||| 0x10000#32) s) rfl
    have hstored := prbsStored_touches (.data n) (d ||| 0x10000#32) s (ps := [.lanes])
    have hlanes := (LanesKeep.refl (laneIdx (.data n)) s).of_lanes (prbsStored_lanes (.data n) (d ||| 0x10000#32) s)
    generalize checkerSearch (.data n) _ = u at hsearch locked hrec lanes touch
    have hgen' : u.fld (F.DLN_PRBS_CTRL_GEN_PAT n) = 0 := (touch.2.fld_eq _ (List.forall_mem_singleton.2 (lane_apart rfl))).trans hgen
    obtain ⟨regs, same, lanes', moves⟩ := actPrbs_silent hsearch hgen' e
    refine ⟨(State.flag_of_regs regs _).trans locked, fun h0 => ?_, hlanes.trans (lanes.trans lanes'),
      ((hstored.mono (fun _ h => h) (by simp [prbsReg])).andThen touch (fun _ h => h) (by simp [prbsLockedFld])).of_parts moves (by decide) fun _ h => h⟩
    obtain rfl := same h0
    exact hrec.trans (by rw [State.lane_of_lanes (prbsStored_lanes ..)]; rfl)
  · obtain ⟨hreg, gen, lanes, touch⟩ := actPrbs_aux_shows e
    obtain ⟨hgen, hchk⟩ := bits_prbsCodes 6 4 d
    have hgen' : (prbsStored (.aux m) d s).fld (F.ALN_PRBS_CTRL_GEN_PAT m) = if bits d 0 4 ≤ 6 then bits d 0 4 else 0 :=
      (prbsStored_reg_bits (.aux m) d s (lo := 0) (by decide)).trans hgen
    refine ⟨(congrArg (bits · 0 4) hreg).trans hgen', (congrArg (bits · 8 4) hreg).trans ((prbsStored_reg_bits (.aux m) d s (lo := 8) (by decide)).trans hchk),
      fun hne h6 => ?_, ((LanesKeep.refl _ s).of_lanes (prbsStored_lanes (.aux m) d s)).trans lanes,
      ((prbsStored_touches (.aux m) d s).mono (fun _ h => h) (by simp [prbsReg])).trans touch⟩
    exact (gen (by rw [hgen', if_pos h6]; exact hne)).trans (by rw [wordIndex_prbsStored])
  · generalize hv : State.setReg s (Reg.DLN_ERR_INJ n) _ = v at e
    have hlanes : v.lanes = s.lanes := by rw [← hv, State.setReg_lanes]
    have hclk : v.clk = s.clk := by rw [← hv, State.setReg_clk]
    have hk : wordIndex v (.data n) = wordIndex s (.data n) := by rw [wordIndex, wordIndex, hclk, State.lane_of_lanes hlanes]
    have hone : (bit (d ||| 0x80000000#32) 31 && (v.lane n).on) = (s.lane n).on := by
      rw [bit_or_ofNat, show bit 0x80000000#32 31 = true by decide, Bool.or_true, Bool.true_and, State.lane_of_lanes hlanes]
    have hperiod : Touches [.lanes] [F.DLN_ERR_INJ_PERIOD n] s v := by
      rw [← hv]
      refine (Touches.refl _ _ s).setReg_of _ _ fun i hi hout => ?_
      have h16 : ∀ j < 32, ¬(0 ≤ j ∧ j < 0 + 16) → (0xFFFF#32).getLsbD j = false := by decide
      have hlow := h16 i hi fun h => hout _ (.head _) ⟨rfl, h⟩
      rw [bit_eq_getLsbD, State.rbit, bit_eq_getLsbD, BitVec.getLsbD_or, BitVec.getLsbD_and, BitVec.getLsbD_and, BitVec.getLsbD_not, hlow,
        decide_eq_true hi, Bool.not_false, Bool.and_true, Bool.and_true, Bool.and_false, Bool.or_false]
    have hpat : v.fld (F.DLN_ERR_INJ_PERIOD n) = bits d 0 16 := by
      rw [← hv]
      exact (State.fld_setReg_same s _ (F.DLN_ERR_INJ_PERIOD n)).trans ((bits_merge_covered _ _ _ 0 16 (by decide)).trans (bits_or_clear (by decide)))
    have hact : (v.updLane (laneIdx (.data n)) fun r =>
        { r with injected := r.injected + (if (s.lane n).on then 1 else 0), injFrom := wordIndex s (.data n),
                 injAt := (r.injAt.filter fun i => decide (wordIndex s (.data n) < i)) ++ (if (s.lane n).on then [wordIndex s (.data n) + 1] else []) }) = t := by
      rw [← e, actErrInj, hk]
      simp only [show laneIdx (.data n) = n.val from rfl, hone]
    have hrec : t.lane n = { s.lane n with injected := (s.lane n).injected + (if (s.lane n).on then 1 else 0), injFrom := wordIndex s (.data n),
                                           injAt := ((s.lane n).injAt.filter fun i => decide (wordIndex s (.data n) < i)) ++
                                             (if (s.lane n).on then [wordIndex s (.data n) + 1] else []) } := by
      have hupd := State.lane_updLane_same v (laneIdx (.data n)) fun r =>
        { r with injected := r.injected + (if (s.lane n).on then 1 else 0), injFrom := wordIndex s (.data n),
                 injAt := (r.injAt.filter fun i => decide (wordIndex s (.data n) < i)) ++ (if (s.lane n).on then [wordIndex s (.data n) + 1] else []) }
      rw [State.lane_of_lanes hlanes] at hupd
      rw [← hact]
      exact hupd
    have hregs : t.regs = v.regs := by rw [← e]; rfl
    have hf : ∀ f, Apart (F.DLN_ERR_INJ_PERIOD n) f → t.fld f = s.fld f := fun f hf =>
      (State.fld_of_regs hregs f).trans (hperiod.2.fld_eq f (List.forall_mem_singleton.2 hf))
    refine ⟨by rw [hrec], (State.fld_of_regs hregs _).trans hpat, by rw [hrec], fun hon => ?_, ?_, ?_, ?_⟩
    · have hresent : resentWord t (.data n) (wordIndex s (.data n) + 1) = resentWord s (.data n) (wordIndex s (.data n) + 1) := by
        rw [resentWord, resentWord, show laneIdx (.data n) = n.val from rfl, hrec]
      have hformed : formedWord t (.data n) (wordIndex s (.data n) + 1) = formedWord s (.data n) (wordIndex s (.data n) + 1) := by
        rw [formedWord, formedWord, show laneIdx (.data n) = n.val from rfl, hrec, hf (genPatFld (.data n)) (lane_apart rfl)]
      rw [txWord, injHit_next (by rw [show laneIdx (.data n) = n.val from rfl, hrec]) (by
        rw [show laneIdx (.data n) = n.val from rfl, hrec]
        dsimp only
        rw [if_pos hon]
        exact List.mem_append_right _ (List.mem_singleton_self _)), if_pos rfl, hresent, hformed, hf (loopFld (.data n)) (lane_apart rfl)]
      rfl
    · rw [State.flag_eq, State.flag_eq, hf (F.DLN_ERR_INJ_INJ_ONE n) (lane_apart rfl)]
    · rw [← hact]
      exact ((LanesKeep.refl _ s).of_lanes hlanes).updLane _
    · rw [← hact]
      exact hperiod.updLane _ _ (.head _)
  · obtain rfl := e.symm.trans (if_pos ⟨hp, hon⟩)
    exact ⟨congrArg LaneSt.injected (State.lane_updLane_same s n _), (LanesKeep.refl _ s).updLane _, (State.updLane_moves (.refl _ s) _ _ (.head _)).within⟩
  · obtain ⟨hrec, lanes, moves, regs⟩ := refilled_shows n s hu
    have hovf : Reg.DLN_FE_SLIP n ≠ (F.DLN_INT_STATUS_CNT_OVF (n / 4)).addr := by
      simp only [Reg.DLN_FE_SLIP, F.DLN_INT_STATUS_CNT_OVF, Reg.DLN_INT_STATUS]
      omega
    have hlane : (u.bump32 (Reg.DLN_FE_SLIP n) 1 (some (laneOvf (.data n)))).lane n = { s.lane n with fill := 16 } :=
      (State.lane_bump32 ..).trans hrec
    refine ⟨(State.reg_bump32_one _ _ _ hovf).trans (by rw [State.reg, State.reg, regs]), hlane, lanes.of_lanes (State.bump32_lanes ..), fun hx => ?_, ?_⟩
    · rw [resentWord, show laneIdx (.data n) = n.val from rfl, hlane]
      exact nth_default _ _ (by dsimp only; omega)
    · exact ((Touches.refl _ _ s).of_parts moves (by decide) fun _ h => h).bump32 _ _ _ (by simp) (by simp [laneOvf])
  · obtain ⟨hrec, lanes, moves, -⟩ := refilled_shows (768 + m) s hu
    exact ⟨hrec, lanes, moves.within⟩
  · subst e
    have hpll := (startWaiting_run k 0 s.lanes { s with lanePll := s.lanePll ||| BitVec.ofNat 7 (2 ^ k.val) }).2
    rw [← txpllLock_eq] at hpll
    refine ⟨?_, fun j hj => ?_, fun l => txpllLock_lane k s l, (txpllLock_moves (.refl _ s) k (by simp) (by simp)).within⟩
    · rw [State.pllLocked, hpll]
      exact (pllLocked_or _ _ _ k.isLt).trans (by rw [decide_eq_true rfl, Bool.or_true])
    · rw [State.pllLocked, hpll]
      exact (pllLocked_or _ _ _ j.isLt).trans (by rw [decide_eq_false fun h => hj (Fin.ext h), Bool.or_false, State.pllLocked])
  · have hk6 := k.isLt
    obtain rfl := e.symm.trans ((if_pos hk).trans (if_pos k.isLt))
    have touch : Touches [] ((List.range 32).map fun q => F.DLN_INT_STATUS_TXPLL_UNLOCK (32 * k + q))
        { s with lanePll := s.lanePll &&& ~~~BitVec.ofNat 7 (2 ^ k.val) }
        (forUpto 32 (fun q s => s.raise (F.DLN_INT_STATUS_TXPLL_UNLOCK (32 * k.val + q))) { s with lanePll := s.lanePll &&& ~~~BitVec.ofNat 7 (2 ^ k.val) }) :=
      Touches.foldl _ _ (fun q hq s h => h.raise _ (List.mem_map.2 ⟨q, hq, rfl⟩)) (.refl _ _ _)
    have hpll := touch.1.lanePll_eq (by decide)
    refine ⟨?_, fun j hj => ?_, fun q hq => ?_, ?_⟩
    · rw [State.pllLocked]
      refine (congrArg (fun x : BitVec 7 => x.toNat.testBit k) hpll).trans ((pllLocked_and_not _ _ _ (by omega)).trans ?_)
      rw [decide_eq_true rfl, Bool.not_true, Bool.and_false]
    · rw [State.pllLocked]
      refine (congrArg (fun x : BitVec 7 => x.toNat.testBit j) hpll).trans ((pllLocked_and_not _ _ _ j.isLt).trans ?_)
      rw [decide_eq_false hj, Bool.not_false, Bool.and_true, State.pllLocked]
    · refine (flag_unlocks (32 * k) 32 q _).trans (congrArg₂ or rfl (decide_eq_decide.2 ?_))
      omega
    · exact Touches.trans ((Touches.refl _ _ s).of_parts (lanePll_moves (.refl [.lanePll] s) _ (.head _)) (by decide) fun _ h => h) (touch.mono (by simp) fun _ h => h)

end Sys2Proof.Machine
end

section
/-!
SUPPORT. What a proofing run that starts or is abandoned leaves alone of the registers of the loop, and what a fault and the change-over of TCLK
do (R219, R246, R309 to R321, R553).
-/
namespace Sys2Proof.Machine
set_option Elab.async false

/-! ### Proofing runs -/

/-- The registers of the cells and of their sources: the pages of link phase metrology from its first register behind the causes to the loop's. -/
def slotRegs : List Nat := List.range' 0x184010 0x13FF0

/-- Those and the page of proofing. -/
def runPages : List Nat := slotRegs ++ List.range' 0x1A8000 0x400

theorem mem_slotRegs {a : Nat} : a ∈ slotRegs ↔ 0x184010 ≤ a ∧ a < 0x198000 := List.mem_range'_1

theorem mem_runPages {a : Nat} : a ∈ runPages ↔ (0x184010 ≤ a ∧ a < 0x198000) ∨ (0x1A8000 ≤ a ∧ a < 0x1A8400) := by
  rw [runPages, List.mem_append, mem_slotRegs, List.mem_range'_1]

section
variable {s0 s : State}

theorem setProof_slotRegs {c : Nat} (hc : c < 32) (b : Bool) (h : RegsKeep slotRegs s0 s) : RegsKeep slotRegs s0 (setProof c b s) :=
  (h.setRbit Reg.MET_CELL_PROOF _ _ (mem_slotRegs.2 (by decide))).setFld (F.MET_CELL_STATUS_STATE c) _ (mem_slotRegs.2 (by
    simp only [F.MET_CELL_STATUS_STATE, Reg.MET_CELL_STATUS]
    omega))

theorem setStale_slotRegs {i : Nat} (hi : i < 1024) (b : Bool) (h : RegsKeep slotRegs s0 s) : RegsKeep slotRegs s0 (setStale i b s) :=
  (h.updMet _).setFlag (F.MET_SRC_LAST_STALE i) _ (mem_slotRegs.2 (by
    simp only [F.MET_SRC_LAST_STALE, Reg.MET_SRC_LAST]
    omega))

theorem withHolds_slotRegs {f : State → State} (h : RegsKeep slotRegs s0 (f s)) : RegsKeep slotRegs s0 (withHolds f s) := by
  refine RegsKeep.foldl _ _ (fun i hi _ hs => ?_) h
  have hi : i < 1024 := (List.mem_append.1 (List.mem_eraseDups.1 hi)).elim namedSources_lt namedSources_lt
  exact .ite (setStale_slotRegs hi true hs) (.ite (.ite (setStale_slotRegs hi false hs) hs) (.ite (hs.updMet _) hs))

theorem cdStart_slotRegs (c : Nat) (h : RegsKeep slotRegs s0 s) : RegsKeep slotRegs s0 (cdStart c s) := by
  have hh : RegsKeep slotRegs s0 (clearHist c s) := h.of_regs rfl rfl
  exact .ite h ((hh.updMet _).setRbit Reg.MET_CD_BUSY _ _ (mem_slotRegs.2 (by decide)))

theorem cdAbandon_slotRegs {c : Nat} (hc : c < 32) (h : RegsKeep slotRegs s0 s) : RegsKeep slotRegs s0 (cdAbandon c s) := by
  have hcd : (F.MET_CELL_CD_CD_RESULT c).addr ∈ slotRegs := mem_slotRegs.2 (by
    simp only [F.MET_CELL_CD_CD_RESULT, Reg.MET_CELL_CD]
    omega)
  have hst : (F.MET_CELL_STATUS_CD_ACCEPT c).addr ∈ slotRegs := mem_slotRegs.2 (by
    simp only [F.MET_CELL_STATUS_CD_ACCEPT, Reg.MET_CELL_STATUS]
    omega)
  exact .ite (((h.setRbit Reg.MET_CD_BUSY _ _ (mem_slotRegs.2 (by decide))).setFld _ _ hcd).setFlag _ _ hst) h

end

theorem RegsKeep.run_of_slot {s t : State} (h : RegsKeep slotRegs s t) : RegsKeep runPages s t := h.mono fun _ => List.mem_append_left _

theorem mem_runPages_of_page {a : Nat} (h : (Nat.ble 0x1A8000 a && Nat.ble a 0x1A83FF) = true) : a ∈ runPages := by
  simp only [Bool.and_eq_true, Nat.ble_eq] at h
  exact mem_runPages.2 (Or.inr ⟨h.1, by omega⟩)

theorem showPrf_runPages (s : State) : RegsKeep runPages s (showPrf s) :=
  (showPrf_regsKeep s).mono fun _ ha => List.mem_singleton.1 ha ▸ mem_runPages_of_page rfl

theorem prfAbandon_keeps (s : State) : (prfAbandon s).prf.mode = 0 ∧ RegsKeep runPages s (prfAbandon s) := by
  by_cases h : s.prf.mode = 0
  · rw [prfAbandon, if_pos h]
    exact ⟨h, .refl _ s⟩
  · rw [prfAbandon, if_neg h]
    extract_lets s1 s2 s3
    have h1 : RegsKeep slotRegs s s1 := RegsKeep.forUpto _ _ (fun c hc _ g => .ite (cdAbandon_slotRegs hc g) g) (.refl _ s)
    clear_value s1
    have h2 : RegsKeep slotRegs s s2 := withHolds_slotRegs (RegsKeep.forUpto _ _ (fun c hc _ g => .ite (setProof_slotRegs hc false g) g) h1)
    clear_value s2
    have h3 : RegsKeep runPages s s3 :=
      (h2.run_of_slot.bump32 _ _ _ (mem_runPages_of_page rfl) (mem_runPages_of_page rfl)).raise _ (mem_runPages_of_page rfl)
    clear_value s3
    exact ⟨by rw [showPrf_prf]; rfl, (h3.updPrf _).trans (showPrf_runPages _)⟩

theorem prfReachPair_keeps (hold : Bool) {p : Nat} (hp : p < 16) (s : State) : RegsKeep runPages s (prfReachPair hold p s).1 := by
  have hcell : ∀ c u, RegsKeep runPages u (prfStartCell c u) := fun c u => ((cdStart_slotRegs c (.refl _ u)).updPrf _).run_of_slot
  unfold prfReachPair
  split
  · exact (((RegsKeep.refl _ s).setRbit _ _ _ (mem_runPages_of_page rfl)).setRbit _ _ _ (mem_runPages_of_page rfl)).setFld F.PRF_LIVE_PAIRS_DONE _
      (mem_runPages_of_page rfl)
  · unfold prfStartPair
    extract_lets s1
    have hq : RegsKeep slotRegs s (s.updPrf fun q => { q with proofs := q.proofs ||| cellBit p ||| cellBit (p + 16) }) := (RegsKeep.refl _ s).updPrf _
    have h1 : RegsKeep slotRegs s s1 :=
      .ite (withHolds_slotRegs (setProof_slotRegs (by omega) true (setProof_slotRegs (by omega) true hq))) (.refl _ s)
    exact (h1.run_of_slot.trans (hcell p s1)).trans (hcell (p + 16) _)

theorem prfHoldNext_keeps (ps : List Nat) (hps : ∀ p ∈ ps, p < 16) (s : State) : RegsKeep runPages s (prfHoldNext ps s) := by
  induction ps generalizing s with
  | nil => exact (RegsKeep.refl _ s).updPrf _
  | cons p ps ih =>
    have hr := prfReachPair_keeps true (hps p (List.mem_cons_self ..)) s
    rw [prfHoldNext]
    split
    · generalize prfReachPair true p s = r at hr ⊢
      obtain ⟨s1, on⟩ := r
      exact RegsKeep.trans (.ite (hr.updPrf _) hr) (ih (fun q hq => hps q (List.mem_cons_of_mem _ hq)) _)
    · exact (RegsKeep.refl _ s).updPrf _

theorem prfComplete_keeps (s : State) : RegsKeep runPages s (prfComplete s) := by
  unfold prfComplete
  extract_lets ms s1 s2
  have hlen := recordNow_length s
  have h1 : RegsKeep runPages s s1 := ((RegsKeep.refl _ s).setReg _ _ (mem_runPages_of_page rfl)).setRegs _ _ fun i hi => mem_runPages.2 (Or.inr (by
    simp only [Reg.PRF_LAST_DONE]
    omega))
  clear_value s1
  have h2 : RegsKeep runPages s s2 := (h1.bump32 _ _ _ (mem_runPages_of_page rfl) (mem_runPages_of_page rfl)).raise _ (mem_runPages_of_page rfl)
  clear_value s2
  exact ((h2.setFlag F.PRF_LIVE_LAST_OK _ (mem_runPages_of_page rfl)).updPrf _).trans (showPrf_runPages _)

theorem prfAdvance_keeps {s : State} (ht : TodoOk s) : RegsKeep runPages s (prfAdvance s) := by
  unfold prfAdvance
  extract_lets s1 s2
  have h1 : RegsKeep runPages s s1 ∧ TodoOk s1 := by
    simp only [s1]
    split
    · exact ⟨(RegsKeep.refl _ s).updPrf _, ht⟩
    · exact ⟨.refl _ s, ht⟩
  clear_value s1
  have h2 : RegsKeep runPages s s2 := .ite h1.1 (h1.1.trans (prfHoldNext_keeps _ h1.2 s1))
  exact .ite (.refl _ s) (.ite (h2.trans (prfComplete_keeps s2)) h2)

theorem prfStart_keeps (s : State) : RegsKeep runPages s (prfStart s) := by
  unfold prfStart
  extract_lets trace mode now first rest s1 s2 s3 s4
  have h1 : RegsKeep runPages s s1 :=
    (((RegsKeep.refl _ s).setReg _ _ (mem_runPages_of_page rfl)).setReg _ _ (mem_runPages_of_page rfl)).setReg _ _ (mem_runPages_of_page rfl)
  clear_value s1
  have h2 : RegsKeep runPages s s2 :=
    ((h1.setFld F.PRF_TEMP_REF _ (mem_runPages_of_page rfl)).setFlag F.PRF_TEMP_REF_VALID _ (mem_runPages_of_page rfl)).setFld F.PRF_LIVE_PAIRS_DONE _
      (mem_runPages_of_page rfl)
  clear_value s2
  have h3 : RegsKeep runPages s s3 := (h2.raise F.PRF_INT_STATUS_RUN_START (mem_runPages_of_page rfl)).updPrf _
  have htodo : TodoOk s3 := fun p hp => mem_upto16_lt (show p ∈ rest from hp)
  clear_value s3
  have h4 : RegsKeep runPages s s4 :=
    h3.trans (RegsKeep.foldl _ _ (fun p hp t g => g.trans (prfReachPair_keeps _ (mem_upto16_lt hp) t)) (.refl _ s3))
  have hgoes : RunGoes s3 s4 := .foldl _ _ (fun p hp t => prfReachPair_runGoes _ (mem_upto16_lt hp) t) (.refl s3)
  clear_value s4
  exact (h4.trans (prfAdvance_keeps (hgoes.todoOk htodo))).trans (showPrf_runPages _)

theorem prfTrigger_keeps (cause : Nat) (s : State) : RegsKeep runPages s (prfTrigger cause s) := by
  have h1 : RegsKeep runPages s (s.updPrf fun p => { p with pend := true, causePend := p.causePend ||| 2 ^ cause }) := (RegsKeep.refl _ s).updPrf _
  exact .ite (h1.trans (showPrf_runPages _)) (h1.trans (prfStart_keeps _))

/-- A trigger that EN holds off pends. -/
theorem prfTrigger_pends (cause : Nat) (s : State) (h : s.flag F.PRF_CTRL_EN = false) :
    (prfTrigger cause s).prf = { s.prf with pend := true, causePend := s.prf.causePend ||| 2 ^ cause } := by
  have hb : prfBlocked s = true := by
    rw [prfBlocked, h]
    simp
  rw [prfTrigger, if_pos hb, showPrf_prf]
  rfl

/-! ### Faults (R553 to R555) -/

/-- The registers in which a fault shows beside the pending bit of its class. -/
def faultRegs : List Nat := roleRegs ++ List.range' 0x1B0021 0x7DF

theorem mem_faultRegs_of_page {a : Nat} (h : 0x1B0021 ≤ a ∧ a < 0x1B0800) : a ∈ faultRegs := List.mem_append_right _ (List.mem_range'_1.2 h)

theorem mem_faultRegs_of_role {a : Nat} (h : a ∈ roleRegs) : a ∈ faultRegs := List.mem_append_left _ h

theorem not_mem_faultRegs {a : Nat} (h : a ∉ roleRegs) (n : a < 0x1B0021 ∨ 0x1B0800 ≤ a) : a ∉ faultRegs := fun hm =>
  (List.mem_append.1 hm).elim h fun hr => by
    have := List.mem_range'_1.1 hr
    omega

theorem logEntry_keeps (cls block sub addr : Nat) (s : State) : RegsKeep faultRegs s (logEntry cls block sub addr s) := by
  unfold logEntry
  extract_lets i seq used t s1
  have hi : i < 2 ^ 6 := bits_lt _ _ _
  have h1 : RegsKeep faultRegs s s1 := (RegsKeep.refl _ s).setRegs _ _ fun j hj => mem_faultRegs_of_page (by
    simp only [List.length_cons, List.length_nil] at hj
    simp only [Reg.FLT_LOG]
    omega)
  clear_value s1
  exact ((h1.setFld F.FLT_LOG_HEAD_NEXT _ (mem_faultRegs_of_page (by decide))).setFld F.FLT_LOG_HEAD_SEQ_NEXT _
    (mem_faultRegs_of_page (by decide))).raiseIf _ F.FLT_INT_STATUS_LOG_OVERWRITE fun _ => mem_faultRegs_of_role (by decide)

/-- From `s` to `t` no output starts or stops, and the losses of lock on record stay. -/
structure OutsRun (s t : State) : Prop where
  running : ∀ k, (t.clkout k).running = (s.clkout k).running
  lols : t.loop.lols = s.loop.lols

section
variable {s t u : State}

theorem OutsRun.refl (s : State) : OutsRun s s := ⟨fun _ => rfl, rfl⟩

theorem OutsRun.trans (h : OutsRun s t) (g : OutsRun t u) : OutsRun s u := ⟨fun k => (g.running k).trans (h.running k), g.lols.trans h.lols⟩

theorem OutsRun.of_loop (h : OutsRun s t) (e : u.loop = t.loop) : OutsRun s u := h.trans ⟨fun k => by rw [State.clkout, State.clkout, e], by rw [e]⟩

/-- A change of the loop's record that keeps the outputs and the losses of lock. -/
theorem OutsRun.updLoop (h : OutsRun s t) (f : LoopSt → LoopSt) (ho : (f t.loop).outs = t.loop.outs) (hl : (f t.loop).lols = t.loop.lols) :
    OutsRun s (t.updLoop f) :=
  h.trans ⟨fun k => congrArg (fun m => (smapGet clkoutReset m k).running) ho, hl⟩

theorem OutsRun.ite {p : Prop} [Decidable p] (h : OutsRun s t) (g : OutsRun s u) : OutsRun s (if p then t else u) := by
  split
  · exact h
  · exact g

end

theorem clkout_updClkout (s : State) (j k : Nat) (f : ClkoutSt → ClkoutSt) :
    (s.updClkout j f).clkout k = if k = j then f (s.clkout k) else s.clkout k := by
  split
  · next h =>
    subst h
    exact smapGet_set_same ..
  · next h => exact smapGet_set_ne _ _ _ _ _ h

theorem clkGate_running (x : Nat) (up : Bool) (o : ClkoutSt) : (clkGate x up o).running = o.running := by
  rw [clkGate]
  split
  · rfl
  · split <;> rfl

theorem updClkout_lols (s : State) (j : Nat) (f : ClkoutSt → ClkoutSt) : (s.updClkout j f).loop.lols = s.loop.lols := rfl

theorem OutsRun.forUpto (n : Nat) (f : Nat → State → State) (hf : ∀ i t, OutsRun t (f i t)) (s : State) : OutsRun s (forUpto n f s) := by
  induction n with
  | zero => exact .refl s
  | succ n ih =>
    rw [forUpto_succ]
    exact ih.trans (hf n _)

/-- A gate that opens or shuts leaves its output running. -/
theorem settleGates_run (s : State) : OutsRun s (settleGates s) := by
  refine OutsRun.forUpto 4 _ (fun k t => ⟨fun j => ?_, updClkout_lols ..⟩) s
  rw [clkout_updClkout]
  split
  · next h =>
    rw [h]
    exact clkGate_running ..
  · rfl

theorem setRole_run (r : Nat) (s : State) : OutsRun s (setRole r s) := by
  unfold setRole
  split
  · exact .refl s
  · extract_lets s1
    have h1 : OutsRun s s1 := by
      refine OutsRun.trans ?_ (settleGates_run _)
      exact (OutsRun.refl s).of_loop (by rw [xchkBreak, State.updTwin_loop, State.raise_loop, State.setFld_loop, State.setFld_loop])
    clear_value s1
    have h2 : OutsRun s (settleCover (s1.raiseIf (decide (r = 4 ∨ r = 5)) F.TWIN_INT_STATUS_SPLIT)) :=
      h1.of_loop (by simp only [settleCover, State.raiseIf_loop, State.setFlag_loop])
    exact .ite (h2.of_loop rfl) h2

theorem yieldPart_run (s : State) : OutsRun s (yieldPart s) := by
  have h1 : OutsRun s (s.setFlag F.TWIN_LIVE_YIELDING true) := (OutsRun.refl s).of_loop (State.setFlag_loop ..)
  exact .ite (h1.trans (setRole_run 1 _)) h1

theorem rbit_eq_flag (s : State) (a i : Nat) : s.rbit a i = s.flag ⟨a, i, 1⟩ := (decide_bits_one (s.reg a) i).symm

/-- The state in which a fault is counted and pends. -/
def faultCounted (cls : Nat) (s : State) : State :=
  (s.bump32 (Reg.FLT_CLASS_COUNT (cls - 1)) 1 (some F.FLT_INT_STATUS_CNT_OVF)).raise ⟨Reg.FLT_CLASS_PEND, cls, 1⟩

theorem faultLog_eq (cls block sub addr : Nat) (s : State) : faultLog cls block sub addr s =
    (let s3 := (if s.flag (F.FLT_CLASS_CFG_LOG_EN (cls - 1)) then logEntry cls block sub addr (faultCounted cls s) else faultCounted cls s).raiseIf
        (s.flag (F.FLT_CLASS_CFG_INT_EN (cls - 1))) F.FLT_INT_STATUS_FAULT
    if s.flag (F.FLT_CLASS_CFG_YIELD (cls - 1)) ∧ (roleOf s = 2 ∨ roleOf s = 5) then yieldPart s3 else s3) := rfl

theorem faultCounted_shows (cls : Nat) (hc : 1 ≤ cls ∧ cls < 32) (s : State) {t : State} (ht : t = faultCounted cls s) :
    t.rbit Reg.FLT_CLASS_PEND cls = true ∧ RegsKeep (Reg.FLT_CLASS_PEND :: faultRegs) s t ∧ t.loop = s.loop := by
  have hcount : Reg.FLT_CLASS_COUNT (cls - 1) ∈ faultRegs := mem_faultRegs_of_page (by
    simp only [Reg.FLT_CLASS_COUNT]
    omega)
  subst ht
  refine ⟨?_, ?_, by rw [faultCounted, State.raise_loop, State.bump32_loop]⟩
  · rw [faultCounted, rbit_eq_flag, State.flag_raise_same _ _ (by dsimp only; omega) rfl]
  · exact ((RegsKeep.refl _ s).bump32 _ _ F.FLT_INT_STATUS_CNT_OVF (.tail _ hcount) (.tail _ (mem_faultRegs_of_role (by decide)))).raise _ (.head _)

theorem logEntry_loop (cls block sub addr : Nat) (s : State) : (logEntry cls block sub addr s).loop = s.loop := by
  rw [logEntry, State.raiseIf_loop, State.setFld_loop, State.setFld_loop, State.setRegs_loop]

/-- A fault of a class sets its pending bit and changes, of the rest, the registers of faults and roles alone. -/
theorem faultLog_shows (cls block sub addr : Nat) (hc : 1 ≤ cls ∧ cls < 32) (s : State) {t : State} (ht : t = faultLog cls block sub addr s) :
    t.rbit Reg.FLT_CLASS_PEND cls = true ∧ RegsKeep (Reg.FLT_CLASS_PEND :: faultRegs) s t ∧ OutsRun s t ∧ Moves [.regs, .loop, .twin] s t := by
  have moves : Moves [.regs, .loop, .twin] s t := ht ▸ faultLog_moves (.refl _ s) _ _ _ _ (by simp) (by simp) (by simp)
  obtain ⟨pend, keep1, loop1⟩ := faultCounted_shows cls hc s rfl
  rw [faultLog_eq] at ht
  generalize faultCounted cls s = s1 at ht pend keep1 loop1
  have h2 : RegsKeep faultRegs s1 (if s.flag (F.FLT_CLASS_CFG_LOG_EN (cls - 1)) then logEntry cls block sub addr s1 else s1) :=
    .ite (logEntry_keeps cls block sub addr s1) (.refl _ s1)
  have loop2 : (if s.flag (F.FLT_CLASS_CFG_LOG_EN (cls - 1)) then logEntry cls block sub addr s1 else s1).loop = s1.loop := by
    split
    · exact logEntry_loop ..
    · rfl
  generalize (if s.flag (F.FLT_CLASS_CFG_LOG_EN (cls - 1)) then logEntry cls block sub addr s1 else s1) = s2 at ht h2 loop2
  have h3 : RegsKeep faultRegs s1 (s2.raiseIf (s.flag (F.FLT_CLASS_CFG_INT_EN (cls - 1))) F.FLT_INT_STATUS_FAULT) :=
    h2.raiseIf _ F.FLT_INT_STATUS_FAULT fun _ => mem_faultRegs_of_role (by decide)
  have run3 : OutsRun s (s2.raiseIf (s.flag (F.FLT_CLASS_CFG_INT_EN (cls - 1))) F.FLT_INT_STATUS_FAULT) :=
    (OutsRun.refl s).of_loop (by rw [State.raiseIf_loop, loop2, loop1])
  generalize s2.raiseIf (s.flag (F.FLT_CLASS_CFG_INT_EN (cls - 1))) F.FLT_INT_STATUS_FAULT = s3 at ht h3 run3
  subst ht
  have h4 : RegsKeep faultRegs s1 (if s.flag (F.FLT_CLASS_CFG_YIELD (cls - 1)) ∧ (roleOf s = 2 ∨ roleOf s = 5) then yieldPart s3 else s3) :=
    .ite (h3.trans ((yieldPart_regsKeep s3).mono fun _ => mem_faultRegs_of_role)) h3
  refine ⟨?_, keep1.trans (h4.mono fun _ h => .tail _ h), .ite (run3.trans (yieldPart_run s3)) run3, moves⟩
  rw [State.rbit, (h4 Reg.FLT_CLASS_PEND (not_mem_faultRegs (by decide) (by decide))).1]
  exact pend

end Sys2Proof.Machine
end

section
/-!
SUPPORT. The change-over of TCLK and of the lane reference (R118, R219, R246), and the loop as it coasts (R262, R265, R266): what each sets, and which
fields of the loop's page it leaves alone.
-/
namespace Sys2Proof.Machine
set_option Elab.async false

/-! ### Fields of the loop's pages -/

/-- Of the fields in the loop's pages, only those of `fs` may change. -/
def PageKeep (fs : List Fld) (s t : State) : Prop :=
  ∀ g : Fld, 0x198000 ≤ g.addr → g.addr < 0x199000 → (∀ f ∈ fs, Apart f g) → t.fld g = s.fld g

section
variable {fs gs : List Fld} {s t u : State}

theorem PageKeep.refl (fs : List Fld) (s : State) : PageKeep fs s s := fun _ _ _ _ => rfl

theorem PageKeep.trans (h : PageKeep fs s t) (g : PageKeep gs t u) (hs : ∀ f ∈ gs, f ∈ fs) : PageKeep fs s u := fun f hl hu ha =>
  (g f hl hu fun e he => ha e (hs e he)).trans (h f hl hu ha)

theorem PageKeep.mono (h : PageKeep gs s t) (hs : ∀ f ∈ gs, f ∈ fs) : PageKeep fs s t := (PageKeep.refl fs s).trans h hs

theorem PageKeep.of_flds (h : FldsKeep fs s t) : PageKeep fs s t := fun g _ _ ha => h.fld_eq g ha

/-- Where only registers of other pages change. -/
theorem PageKeep.of_regs {as : List Nat} (h : RegsKeep as s t) (ha : ∀ a ∈ as, a < 0x198000 ∨ 0x199000 ≤ a) : PageKeep fs s t := fun g hl hu _ =>
  h.fld_eq g fun hm => by
    have := ha _ hm
    omega

/-- Where no register changes. -/
theorem PageKeep.of_parts {cs : List Part} (h : Moves cs s t) (n : Part.regs ∉ cs := by decide) : PageKeep fs s t :=
  .of_regs (as := []) (.of_moves h n) fun _ h => (nomatch h)

theorem PageKeep.flag_eq (h : PageKeep fs s t) (g : Fld) (hl : 0x198000 ≤ g.addr) (hu : g.addr < 0x199000) (ha : ∀ f ∈ fs, Apart f g) :
    t.flag g = s.flag g := by
  rw [State.flag_eq, State.flag_eq, h g hl hu ha]

end

theorem runPages_far : ∀ a ∈ runPages, a < 0x198000 ∨ 0x199000 ≤ a := fun a ha => by
  have := mem_runPages.1 ha
  omega

theorem faultRegs_far : ∀ a ∈ Reg.FLT_CLASS_PEND :: faultRegs, a < 0x198000 ∨ 0x199000 ≤ a := by
  refine List.forall_mem_cons.2 ⟨by decide, List.forall_mem_append.2 ⟨by decide, fun a ha => ?_⟩⟩
  have := List.mem_range'_1.1 ha
  omega

/-! ### The change-over of TCLK (R219, R246) -/

/-- Causes raised one after the other are all set. -/
theorem flag_raises {G : Nat → Fld} (hb : ∀ q, (G q).lo + (G q).w ≤ 32 ∧ (G q).w = 1) (ha : ∀ q r, q ≠ r → Apart (G q) (G r)) (n : Nat) (s : State) :
    ∀ q < n, (forUpto n (fun i s => s.raise (G i)) s).flag (G q) = true := by
  induction n with
  | zero => exact fun q h => absurd h (Nat.not_lt_zero q)
  | succ n ih =>
    intro q hq
    rw [forUpto_succ]
    by_cases h : q = n
    · rw [h, State.flag_raise_same _ _ (hb n).1 (hb n).2]
    · rw [State.flag_raise _ _ _ (ha n q (Ne.symm h)), ih q (by omega)]

/-- The registers that the change-over may change in the pages of lanes and of link phase metrology. -/
def lanePages : List Nat := List.range' 0x40000 0x40000
def cyclePages : List Nat := List.range' 0x184004 0x13FFC

theorem metInvalidate_shows (s : State) {t : State} (ht : t = metInvalidate s) : t.flag F.MET_INT_STATUS_INVALIDATED = true ∧ RegsKeep cyclePages s t := by
  have hint : Reg.MET_INT_STATUS ∈ cyclePages := List.mem_range'_1.2 (by decide)
  have hcell : ∀ c < 32, Reg.MET_CELL_INVALID c ∈ cyclePages := fun c hc => List.mem_range'_1.2 (by
    simp only [Reg.MET_CELL_INVALID]
    omega)
  subst ht
  refine ⟨State.flag_raise_same _ _ (by decide) rfl, RegsKeep.raise (RegsKeep.updMet ?_ _) _ hint⟩
  exact RegsKeep.forUpto _ _ (fun c hc _ h => (h.bump32 _ _ _ (hcell c hc) hint).updMet _) (.refl _ s)

/-- TX_REF_CHANGE is set in every quad page and in every auxiliary page. -/
def RefChanged (t : State) : Prop :=
  (∀ q < 192, t.flag (F.DLN_INT_STATUS_TX_REF_CHANGE q) = true) ∧ ∀ a < 32, t.flag (F.ALN_INT_STATUS_TX_REF_CHANGE a) = true

theorem RefChanged.of_regs {as : List Nat} {s t : State} (h : RefChanged s) (g : RegsKeep as s t) (ha : ∀ a ∈ as, 0x80000 ≤ a) : RefChanged t := by
  have hkeep : ∀ f : Fld, f.addr < 0x80000 → t.flag f = s.flag f := fun f hf => g.flag_eq f fun hm => by
    have := ha _ hm
    omega
  refine ⟨fun q hq => (hkeep _ ?_).trans (h.1 q hq), fun a ha => (hkeep _ ?_).trans (h.2 a ha)⟩
  · simp only [F.DLN_INT_STATUS_TX_REF_CHANGE, Reg.DLN_INT_STATUS]
    omega
  · simp only [F.ALN_INT_STATUS_TX_REF_CHANGE, Reg.ALN_INT_STATUS]
    omega

theorem laneRef_shows (backup : Bool) (s : State) {t : State} (ht : t = laneRef backup s) :
    t.flag F.LOOP_STATUS_LANE_BACKUP = backup ∧ (s.flag F.LOOP_STATUS_LANE_BACKUP ≠ backup → RefChanged t) ∧
    PageKeep [F.LOOP_STATUS_LANE_BACKUP] s t ∧ RegsKeep (Reg.LOOP_STATUS :: lanePages) s t := by
  rw [laneRef] at ht
  split at ht
  · next h =>
    subst ht
    exact ⟨h, fun hn => absurd h hn, .refl _ _, .refl _ _⟩
  · have h1 := State.flag_setFlag_same s F.LOOP_STATUS_LANE_BACKUP backup (by decide) rfl
    have hk1 : PageKeep [F.LOOP_STATUS_LANE_BACKUP] s (s.setFlag F.LOOP_STATUS_LANE_BACKUP backup) := .of_flds ((FldsKeep.refl _ s).setFlag _ _ (.head _))
    have hr1 : RegsKeep (Reg.LOOP_STATUS :: lanePages) s (s.setFlag F.LOOP_STATUS_LANE_BACKUP backup) := (RegsKeep.refl _ s).setFlag _ _ (.head _)
    generalize s.setFlag F.LOOP_STATUS_LANE_BACKUP backup = s1 at ht h1 hk1 hr1
    have hd : ∀ q < 192, (F.DLN_INT_STATUS_TX_REF_CHANGE q).addr ∈ lanePages := fun q hq => List.mem_range'_1.2 (by
      simp only [F.DLN_INT_STATUS_TX_REF_CHANGE, Reg.DLN_INT_STATUS]
      omega)
    have ha : ∀ a < 32, (F.ALN_INT_STATUS_TX_REF_CHANGE a).addr ∈ lanePages := fun a ha => List.mem_range'_1.2 (by
      simp only [F.ALN_INT_STATUS_TX_REF_CHANGE, Reg.ALN_INT_STATUS]
      omega)
    have hdata := flag_raises (G := F.DLN_INT_STATUS_TX_REF_CHANGE) (fun q => ⟨of_decide_eq_true rfl, rfl⟩) (fun q r h => ⟨of_decide_eq_true rfl, Or.inl (by
      simp only [F.DLN_INT_STATUS_TX_REF_CHANGE, Reg.DLN_INT_STATUS]
      omega)⟩) 192 s1
    have hr2 : RegsKeep lanePages s1 (forUpto 192 (fun q t => t.raise (F.DLN_INT_STATUS_TX_REF_CHANGE q)) s1) :=
      RegsKeep.forUpto _ _ (fun q hq _ h => h.raise _ (hd q hq)) (.refl _ s1)
    generalize forUpto 192 (fun q t => t.raise (F.DLN_INT_STATUS_TX_REF_CHANGE q)) s1 = s2 at ht hdata hr2
    have haux := flag_raises (G := F.ALN_INT_STATUS_TX_REF_CHANGE) (fun q => ⟨of_decide_eq_true rfl, rfl⟩) (fun q r h => ⟨of_decide_eq_true rfl, Or.inl (by
      simp only [F.ALN_INT_STATUS_TX_REF_CHANGE, Reg.ALN_INT_STATUS]
      omega)⟩) 32 s2
    have hr3 : RegsKeep ((List.range 32).map Reg.ALN_INT_STATUS) s2 (forUpto 32 (fun a t => t.raise (F.ALN_INT_STATUS_TX_REF_CHANGE a)) s2) :=
      RegsKeep.forUpto _ _ (fun a ha _ h => h.raise (F.ALN_INT_STATUS_TX_REF_CHANGE a) (List.mem_map.2 ⟨a, List.mem_range.2 ha, rfl⟩)) (.refl _ s2)
    rw [← ht] at haux hr3
    have hr3' : RegsKeep lanePages s2 t := hr3.mono fun b hb => by
      obtain ⟨a, ha', rfl⟩ := List.mem_map.1 hb
      exact ha a (List.mem_range.1 ha')
    have hfar : ∀ a ∈ lanePages, a < 0x198000 ∨ 0x199000 ≤ a := fun a ha => by
      have := List.mem_range'_1.1 ha
      omega
    have hpage : PageKeep [F.LOOP_STATUS_LANE_BACKUP] s1 t := .of_regs (hr2.trans hr3') hfar
    refine ⟨?_, fun _ => ⟨fun q hq => (hr3.flag_eq _ fun hm => ?_).trans (hdata q hq), haux⟩, hk1.trans hpage (fun _ h => h),
      hr1.trans ((hr2.trans hr3').mono fun _ h => .tail _ h)⟩
    · exact ((hr2.trans hr3').flag_eq F.LOOP_STATUS_LANE_BACKUP fun hm => by
        have := hfar _ hm
        revert this
        decide).trans h1
    · obtain ⟨a, -, he⟩ := List.mem_map.1 hm
      simp only [F.DLN_INT_STATUS_TX_REF_CHANGE, Reg.DLN_INT_STATUS, Reg.ALN_INT_STATUS] at he
      omega

theorem tclkTo_shows (keeper : Bool) (s : State) {t : State} (ht : t = tclkTo keeper s) :
    t.flag F.LOOP_STATUS_TCLK_KEEPER = keeper ∧ t.flag F.LOOP_STATUS_LANE_BACKUP = keeper ∧
    (s.flag F.LOOP_STATUS_TCLK_KEEPER ≠ keeper → t.flag F.MET_INT_STATUS_INVALIDATED = true) ∧
    (s.flag F.LOOP_STATUS_LANE_BACKUP ≠ keeper → RefChanged t) ∧ PageKeep [F.LOOP_STATUS_TCLK_KEEPER, F.LOOP_STATUS_LANE_BACKUP] s t ∧
    RegsKeep (Reg.LOOP_STATUS :: (cyclePages ++ lanePages)) s t := by
  rw [tclkTo] at ht
  have hcycle : ∀ a ∈ cyclePages, a < 0x198000 ∨ 0x199000 ≤ a := fun a ha => by
    have := List.mem_range'_1.1 ha
    omega
  have h1 : ∃ u, u = (if s.flag F.LOOP_STATUS_TCLK_KEEPER = keeper then s else metInvalidate (s.setFlag F.LOOP_STATUS_TCLK_KEEPER keeper)) ∧
      u.flag F.LOOP_STATUS_TCLK_KEEPER = keeper ∧ (s.flag F.LOOP_STATUS_TCLK_KEEPER ≠ keeper → u.flag F.MET_INT_STATUS_INVALIDATED = true) ∧
      PageKeep [F.LOOP_STATUS_TCLK_KEEPER] s u ∧ RegsKeep (Reg.LOOP_STATUS :: (cyclePages ++ lanePages)) s u := by
    refine ⟨_, rfl, ?_⟩
    split
    · next h => exact ⟨h, fun hn => absurd h hn, .refl _ s, .refl _ s⟩
    · have hset := State.flag_setFlag_same s F.LOOP_STATUS_TCLK_KEEPER keeper (by decide) rfl
      have hk : FldsKeep [F.LOOP_STATUS_TCLK_KEEPER] s (s.setFlag F.LOOP_STATUS_TCLK_KEEPER keeper) :=
        (FldsKeep.refl _ s).setFlag _ _ (.head _)
      have hr : RegsKeep (Reg.LOOP_STATUS :: (cyclePages ++ lanePages)) s (s.setFlag F.LOOP_STATUS_TCLK_KEEPER keeper) :=
        (RegsKeep.refl _ s).setFlag _ _ (.head _)
      generalize s.setFlag F.LOOP_STATUS_TCLK_KEEPER keeper = v at hset hk hr
      obtain ⟨inv, hinv⟩ := metInvalidate_shows v rfl
      have hpage : PageKeep [F.LOOP_STATUS_TCLK_KEEPER] v (metInvalidate v) := .of_regs hinv hcycle
      refine ⟨(hinv.flag_eq F.LOOP_STATUS_TCLK_KEEPER fun hm => ?_).trans hset, fun _ => inv, (PageKeep.of_flds hk).trans hpage (fun _ h => h),
        hr.trans (hinv.mono fun _ h => .tail _ (List.mem_append_left _ h))⟩
      have := hcycle _ hm
      revert this
      decide
  obtain ⟨u, hu, keep, inv, page, regs⟩ := h1
  rw [← hu] at ht
  obtain ⟨backup, changed, page', regs'⟩ := laneRef_shows keeper u ht
  have hlane : u.flag F.LOOP_STATUS_LANE_BACKUP = s.flag F.LOOP_STATUS_LANE_BACKUP :=
    page.flag_eq F.LOOP_STATUS_LANE_BACKUP (by decide) (by decide) (by decide)
  refine ⟨(page'.flag_eq F.LOOP_STATUS_TCLK_KEEPER (by decide) (by decide) (by decide)).trans keep, backup, fun h => ?_, fun h => changed (hlane ▸ h),
    (page.mono (by simp)).trans page' (by simp), regs.trans (regs'.mono fun a ha => ?_)⟩
  · refine (regs'.flag_eq F.MET_INT_STATUS_INVALIDATED fun hm => ?_).trans (inv h)
    rcases List.mem_cons.1 hm with hm | hm
    · exact absurd hm (by decide)
    · have := List.mem_range'_1.1 hm
      revert this
      decide
  · exact (List.mem_cons.1 ha).elim (fun h => h ▸ .head _) fun h => .tail _ (List.mem_append_right _ h)

end Sys2Proof.Machine
end

section
/-!
SUPPORT. The loop as it coasts (R246, R262, R265, R266): what each step sets, and which fields of the loop's page it leaves alone.
-/
namespace Sys2Proof.Machine
set_option Elab.async false

/-! ### y (R242) -/

theorem bits_whole (v : Word) : bits v 0 32 = v.toNat := by
  rw [bits, Nat.shiftRight_zero, Nat.mod_eq_of_lt v.isLt]

theorem PageKeep.reg_eq {fs : List Fld} {s t : State} (h : PageKeep fs s t) (a : Nat) (hl : 0x198000 ≤ a) (hu : a < 0x199000)
    (ha : ∀ f ∈ fs, Apart f (whole a)) : t.reg a = s.reg a := by
  have hf : bits (t.reg a) 0 32 = bits (s.reg a) 0 32 := h (whole a) hl hu ha
  rw [bits_whole, bits_whole] at hf
  exact BitVec.eq_of_toNat_eq hf

theorem PageKeep.loopY_eq {fs : List Fld} {s t : State} (h : PageKeep fs s t)
    (ha : ∀ f ∈ fs, Apart f (whole Reg.LOOP_FREQ_LO) ∧ Apart f (whole Reg.LOOP_FREQ_HI)) : loopY t = loopY s := by
  rw [loopY, loopY, State.reg64, h.reg_eq _ (by decide) (by decide) fun f hf => (ha f hf).1, h.reg_eq _ (by decide) (by decide) fun f hf => (ha f hf).2,
    State.reg64]

/-- A frequency within 40 bits reads back. -/
theorem signed_toBits (v : Int) (hl : -(2 ^ 39) ≤ v) (hu : v < 2 ^ 39) : signed 40 (toBits 40 v % 2 ^ 64) = v := by
  rw [toBits, signed]
  simp only [Nat.reducePow, Nat.reduceSub]
  split <;> omega

theorem freqLimit_lt (s : State) : 0 ≤ freqLimit s ∧ freqLimit s < 2 ^ 39 := by
  have h : s.fld F.LOOP_FREQ_LIMIT_LIMIT < 2 ^ 18 := bits_lt _ _ _
  rw [freqLimit]
  omega

theorem clampInt_within {l y : Int} (h : 0 ≤ l) : -l ≤ clampInt (-l) l y ∧ clampInt (-l) l y ≤ l := by
  rw [clampInt]
  split
  · omega
  · split <;> omega

/-- The fields in which a change of y shows. -/
def freqFlds : List Fld := [whole Reg.LOOP_FREQ_LO, whole Reg.LOOP_FREQ_HI, F.LOOP_STATUS_FREQ_CLAMP, F.LOOP_INT_STATUS_FREQ_CLAMP]

theorem setY_shows (y : Int) (s : State) {t : State} (ht : t = setY y s) :
    loopY t = clampInt (-(freqLimit s)) (freqLimit s) y ∧ t.loop = s.loop ∧ PageKeep freqFlds s t := by
  obtain ⟨h0, h39⟩ := freqLimit_lt s
  obtain ⟨hl, hu⟩ := clampInt_within (y := y) h0
  rw [setY] at ht
  generalize clampInt (-(freqLimit s)) (freqLimit s) y = v at *
  have hread : loopY (s.setReg64 Reg.LOOP_FREQ_LO Reg.LOOP_FREQ_HI (toBits 40 v)) = v := by
    rw [loopY]
    refine (congrArg (signed 40) (State.reg64_setReg64 s Reg.LOOP_FREQ_LO _)).trans (signed_toBits v (by omega) (by omega))
  have hpage : FldsKeep freqFlds s (s.setReg64 Reg.LOOP_FREQ_LO Reg.LOOP_FREQ_HI (toBits 40 v)) :=
    (FldsKeep.refl _ s).setReg64 _ _ _ (by simp [freqFlds]) (by simp [freqFlds])
  have hloop : (s.setReg64 Reg.LOOP_FREQ_LO Reg.LOOP_FREQ_HI (toBits 40 v)).loop = s.loop := State.setReg64_loop ..
  generalize s.setReg64 Reg.LOOP_FREQ_LO Reg.LOOP_FREQ_HI (toBits 40 v) = u at ht hread hpage hloop
  have htail : FldsKeep [F.LOOP_STATUS_FREQ_CLAMP, F.LOOP_INT_STATUS_FREQ_CLAMP] u t := by
    rw [ht]
    exact ((FldsKeep.refl _ u).setFlag _ _ (.head _)).raiseIf _ _ fun _ => .tail _ (.head _)
  exact ⟨((PageKeep.of_flds htail).loopY_eq (by decide)).trans hread, by rw [ht, State.raiseIf_loop, State.setFlag_loop, hloop],
    (PageKeep.of_flds hpage).trans (.of_flds htail) (by simp [freqFlds])⟩

/-! ### Entry into holdover (R265, R266) -/

/-- The registers that show the holdover's frequency and the entry phases. -/
def holdRegs : List Nat :=
  [Reg.LOOP_HO_FREQ_LO, Reg.LOOP_HO_FREQ_HI, Reg.LOOP_HO_DRIFT, Reg.LOOP_HO_TIME] ++ (List.range 23).map Reg.LOOP_REF_ENTRY_PHASE

theorem formHold_run (s : State) : OutsRun s (formHold s) := by
  simp only [formHold, State.draw]
  split
  · exact (OutsRun.refl s).updLoop _ rfl rfl
  · split
    · exact (OutsRun.refl s).updLoop _ rfl rfl
    · split
      · exact ((OutsRun.refl s).of_loop (u := { s with free := s.free + 1 }) rfl).updLoop _ rfl rfl
      · exact (OutsRun.refl s).updLoop _ rfl rfl

theorem enterHoldover_shows (s : State) {t : State} (ht : t = enterHoldover s) : RegsKeep holdRegs s t ∧ OutsRun s t := by
  have h1 : RegsKeep holdRegs s (latchEntry s) :=
    RegsKeep.forUpto _ _ (fun i hi _ h => h.setReg _ _ (List.mem_append_right _ (List.mem_map.2 ⟨i, List.mem_range.2 hi, rfl⟩))) (.refl _ s)
  have hr1 : OutsRun s (latchEntry s) := (OutsRun.refl s).of_loop (latchEntry_moves (.refl [.regs] s) (listed rfl)).within.loop_eq
  rw [enterHoldover] at ht
  generalize latchEntry s = u at ht h1 hr1
  have h2 := formHold_regsKeep holdRegs u
  have hr2 := formHold_run u
  generalize formHold u = v at ht h2 hr2
  subst ht
  refine ⟨(h1.trans h2).trans ?_, (hr1.trans hr2).of_loop (showHold_moves (.refl [.regs] v) (listed rfl)).within.loop_eq⟩
  refine RegsKeep.setReg (RegsKeep.setReg (RegsKeep.setReg64 (.refl _ v) _ _ _ ?_ ?_) _ _ ?_) _ _ ?_
  all_goals decide

/-! ### States and selections (R262) -/

/-- The fields in which a change of the state or of the selection shows. -/
def stateFlds : List Fld := [F.LOOP_STATUS_STATE, F.LOOP_STATUS_ADV_QUALITY, F.LOOP_INT_STATUS_QUALITY_CHANGE, whole Reg.LOOP_HO_TIME]
def choiceFlds : List Fld := [F.LOOP_STATUS_SELECTED, F.LOOP_STATUS_TARGET, F.LOOP_INT_STATUS_REF_SWITCH, F.LOOP_STATUS_DISPUTE_REF]

theorem setLoopState_shows (st : Nat) (s : State) {t : State} (ht : t = setLoopState st s) :
    t.fld F.LOOP_STATUS_STATE = st % 8 ∧ t.fld F.LOOP_STATUS_ADV_QUALITY = qualityOf st % 8 ∧ PageKeep stateFlds s t ∧ OutsRun s t ∧
    t.loop.hadSel = s.loop.hadSel := by
  unfold setLoopState at ht
  extract_lets s1 s2 s3 at ht
  have hst : s1.fld F.LOOP_STATUS_STATE = st % 8 := (State.fld_setFld _ _ _ _ (by decide)).trans (State.fld_setFld_same _ _ _ (by decide))
  have hq : s1.fld F.LOOP_STATUS_ADV_QUALITY = qualityOf st % 8 := State.fld_setFld_same _ _ _ (by decide)
  have hk : FldsKeep stateFlds s s1 := ((FldsKeep.refl _ s).setFld _ _ (by simp [stateFlds])).setFld _ _ (by simp [stateFlds])
  have hl : s1.loop = s.loop := by rw [State.setFld_loop, State.setFld_loop]
  clear_value s1
  have h2 : FldsKeep [F.LOOP_INT_STATUS_QUALITY_CHANGE, whole Reg.LOOP_HO_TIME] s1 s2 := (FldsKeep.refl _ s1).raiseIf _ _ fun _ => .head _
  have hl2 : s2.loop = s.loop := (State.raiseIf_loop ..).trans hl
  clear_value s2
  have h3 : FldsKeep [F.LOOP_INT_STATUS_QUALITY_CHANGE, whole Reg.LOOP_HO_TIME] s1 s3 := (h2.of_regs rfl rfl).setReg _ _ (.tail _ (.head _))
  have hr3 : OutsRun s s3 := (((OutsRun.refl s).of_loop hl2).updLoop _ rfl rfl).of_loop (State.setReg_loop ..)
  have hs3 : s3.loop.hadSel = s.loop.hadSel := by
    rw [State.setReg_loop, State.updLoop_loop, hl2]
  clear_value s3
  have htail : FldsKeep [F.LOOP_INT_STATUS_QUALITY_CHANGE, whole Reg.LOOP_HO_TIME] s1 t ∧ OutsRun s t ∧ t.loop.hadSel = s.loop.hadSel := by
    split at ht
    · subst ht
      exact ⟨h3, hr3, hs3⟩
    · subst ht
      exact ⟨h3.of_regs rfl rfl, hr3.of_loop rfl, hs3⟩
  obtain ⟨htail, hloop⟩ := htail
  exact ⟨(htail.fld_eq _ (by decide)).trans hst, (htail.fld_eq _ (by decide)).trans hq, (PageKeep.of_flds hk).trans (.of_flds htail) (by simp [stateFlds]),
    hloop⟩

theorem setSelected_shows (sel target : Nat) (s : State) {t : State} (ht : t = setSelected sel target s) : PageKeep choiceFlds s t ∧ OutsRun s t := by
  unfold setSelected at ht
  extract_lets s1 s2 s3 at ht
  have h2 : FldsKeep choiceFlds s s2 := (((FldsKeep.refl _ s).setFld _ _ (by simp [choiceFlds])).setFld _ _ (by simp [choiceFlds])).raiseIf _ _
    fun _ => by simp [choiceFlds]
  have hr2 : OutsRun s s2 := (OutsRun.refl s).of_loop (by rw [State.raiseIf_loop, State.setFld_loop, State.setFld_loop])
  clear_value s2
  have h3 : FldsKeep choiceFlds s s3 ∧ OutsRun s s3 := by
    simp only [s3]
    split
    · exact ⟨h2, hr2⟩
    · exact ⟨h2.of_regs rfl rfl, hr2.of_loop rfl⟩
  clear_value s3
  obtain ⟨h3, hr3⟩ := h3
  split at ht
  · subst ht
    exact ⟨.of_flds h3, hr3⟩
  · subst ht
    refine ⟨.of_flds (h3.of_regs rfl rfl), hr3.updLoop _ ?_ ?_⟩ <;> split <;> rfl

theorem noteSel_shows (sel : Option Nat) (s : State) {t : State} (ht : t = noteSel sel s) : PageKeep choiceFlds s t ∧ OutsRun s t := by
  rw [noteSel] at ht
  have hk : FldsKeep choiceFlds s (s.updLoop fun l => { l with sel := sel }) := (FldsKeep.refl _ s).of_regs rfl rfl
  have hr : OutsRun s (s.updLoop fun l => { l with sel := sel }) := (OutsRun.refl s).updLoop _ rfl rfl
  generalize s.updLoop _ = u at ht hk hr
  subst ht
  exact ⟨.of_flds (hk.raiseIf _ _ fun _ => by simp [choiceFlds]), hr.of_loop (State.raiseIf_loop ..)⟩

/-! ### Coasting (R246, R247) -/

/-- The loop with nothing selected and holdover entered, before its state changes. -/
def coastReady (s : State) : State :=
  let s1 := if loopState s ≤ 3 then enterHoldover s else s
  if loopState s ≤ 5 then
    (noteSel none (setSelected 31 31 s1)).setFld F.LOOP_STATUS_DISPUTE_REF 31 |>.updLoop fun l =>
      { l with r := 0, hadSel := decide (1 ≤ loopState s) }
  else s1

theorem loopCoast_eq (st : Nat) (s : State) : loopCoast st s =
    let s3 := setLoopState st (coastReady s)
    if st = 6 ∧ loopState s ≤ 3 ∧ s.flag F.LOOP_STATUS_HO_READY then setY (holdY 0 s3) s3 else s3 := rfl

/-- The fields that coasting may change, but for y. -/
def holdFlds : List Fld := holdRegs.map whole
def coastFlds : List Fld := stateFlds ++ (choiceFlds ++ holdFlds)

theorem coastReady_shows (s : State) {t : State} (ht : t = coastReady s) : PageKeep (choiceFlds ++ holdFlds) s t ∧ OutsRun s t := by
  unfold coastReady at ht
  extract_lets s1 at ht
  have h1 : PageKeep (choiceFlds ++ holdFlds) s s1 ∧ OutsRun s s1 := by
    simp only [s1]
    split
    · obtain ⟨hk, hr⟩ := enterHoldover_shows s rfl
      exact ⟨.of_flds (.of_regsKeep hk fun a ha => List.mem_append_right _ (List.mem_map.2 ⟨a, ha, rfl⟩)), hr⟩
    · exact ⟨.refl _ s, .refl s⟩
  clear_value s1
  obtain ⟨h1, hr1⟩ := h1
  split at ht
  · obtain ⟨h2, hr2⟩ := setSelected_shows 31 31 s1 rfl
    obtain ⟨h3, hr3⟩ := noteSel_shows none (setSelected 31 31 s1) rfl
    generalize noteSel none (setSelected 31 31 s1) = u at ht h3 hr3
    subst ht
    have h4 : FldsKeep choiceFlds u ((u.setFld F.LOOP_STATUS_DISPUTE_REF 31).updLoop fun l => { l with r := 0, hadSel := decide (1 ≤ loopState s) }) :=
      ((FldsKeep.refl _ u).setFld F.LOOP_STATUS_DISPUTE_REF 31 (by simp [choiceFlds])).of_regs rfl rfl
    exact ⟨h1.trans ((h2.trans h3 fun _ h => h).trans (.of_flds h4) fun _ h => h) fun _ h => List.mem_append_left _ h,
      (((hr1.trans hr2).trans hr3).of_loop (State.setFld_loop ..)).updLoop _ rfl rfl⟩
  · subst ht
    exact ⟨h1, hr1⟩

theorem loopCoast_shows (st : Nat) (s : State) {t : State} (ht : t = loopCoast st s) :
    t.fld F.LOOP_STATUS_STATE = st % 8 ∧ t.fld F.LOOP_STATUS_ADV_QUALITY = qualityOf st % 8 ∧ PageKeep (coastFlds ++ freqFlds) s t ∧
    (st ≠ 6 → PageKeep coastFlds s t) ∧ OutsRun s t := by
  rw [loopCoast_eq] at ht
  obtain ⟨h1, hr1⟩ := coastReady_shows s rfl
  obtain ⟨state, quality, h2, hr2, -⟩ := setLoopState_shows st (coastReady s) rfl
  generalize setLoopState st (coastReady s) = u at ht state quality h2 hr2
  have hu : PageKeep coastFlds s u := (h1.mono fun _ h => List.mem_append_right _ h).trans h2 fun _ h => List.mem_append_left _ h
  dsimp only at ht
  split at ht
  · next h6 =>
    obtain ⟨-, loop, h3⟩ := setY_shows (holdY 0 u) u ht
    exact ⟨(h3 _ (by decide) (by decide) (by decide)).trans state, (h3 _ (by decide) (by decide) (by decide)).trans quality,
      (hu.mono fun _ h => List.mem_append_left _ h).trans h3 fun _ h => List.mem_append_right _ h, fun hn => absurd h6.1 hn, (hr1.trans hr2).of_loop loop⟩
  · subst ht
    exact ⟨state, quality, hu.mono fun _ h => List.mem_append_left _ h, fun _ => hu, hr1.trans hr2⟩

end Sys2Proof.Machine
end

section
/-!
SUPPORT. The steps of the fallback to the keeper and of the hand-back (R118, R219, R243 to R247, R274, R585). O31 follows.
-/
namespace Sys2Proof.Machine
set_option Elab.async false

/-! ### Outputs squelched (R274) -/

/-- Whether an output runs on through a declared loss of lock. -/
def runsOn (s : State) (k : Nat) : Bool :=
  (s.clkout k).running && s.flag (F.LOOP_CLKOUT_CTRL_ON_UNLOCK k) && decide ((s.clkout k).div % 16 = 0)

/-- The squelch of one output. -/
def squelchOut (k : Nat) (s : State) : State :=
  let x := 16 * s.clk.tclk
  if s.flag (F.LOOP_CLKOUT_CTRL_ON_UNLOCK k) ∧ (s.clkout k).div % 16 = 0 then s
  else s.updClkout k fun o => { clkStop (if clkLevel o x then x else x + 1 - o.div) o with waiting := false }

theorem clkoutsSquelch_eq (s : State) : clkoutsSquelch s = forUpto 4 squelchOut s := rfl

theorem squelchOut_shows (k : Nat) (s : State) {t : State} (ht : t = squelchOut k s) :
    (t.clkout k).running = runsOn s k ∧ (∀ j, j ≠ k → t.clkout j = s.clkout j) ∧ t.regs = s.regs ∧ t.loop.lols = s.loop.lols := by
  unfold squelchOut at ht
  extract_lets x at ht
  split at ht
  · next h =>
    subst ht
    exact ⟨by rw [runsOn, h.1, decide_eq_true h.2, Bool.and_true, Bool.and_true], fun _ _ => rfl, rfl, rfl⟩
  · next h =>
    subst ht
    refine ⟨?_, fun j hj => by rw [clkout_updClkout, if_neg hj], rfl, updClkout_lols ..⟩
    rw [clkout_updClkout, if_pos rfl, runsOn, Bool.and_assoc]
    have hf : (s.flag (F.LOOP_CLKOUT_CTRL_ON_UNLOCK k) && decide ((s.clkout k).div % 16 = 0)) = false := by
      rw [Bool.eq_false_iff]
      intro hc
      rw [Bool.and_eq_true, decide_eq_true_eq] at hc
      exact h hc
    rw [hf, Bool.and_false, clkStop]

theorem squelch_run (n : Nat) (s : State) :
    (∀ k, ((forUpto n squelchOut s).clkout k).running = if k < n then runsOn s k else (s.clkout k).running) ∧
    (∀ k, n ≤ k → (forUpto n squelchOut s).clkout k = s.clkout k) ∧ (forUpto n squelchOut s).regs = s.regs ∧
    (forUpto n squelchOut s).loop.lols = s.loop.lols := by
  induction n with
  | zero => exact ⟨fun k => by rw [if_neg (Nat.not_lt_zero k)]; rfl, fun _ _ => rfl, rfl, rfl⟩
  | succ n ih =>
    rw [forUpto_succ]
    obtain ⟨run, later, regs, lols⟩ := ih
    generalize forUpto n squelchOut s = u at run later regs lols
    obtain ⟨run', others, regs', lols'⟩ := squelchOut_shows n u rfl
    refine ⟨fun k => ?_, fun k hk => (others k (by omega)).trans (later k (by omega)), regs'.trans regs, lols'.trans lols⟩
    by_cases hk : k = n
    · rw [hk, run', if_pos (Nat.lt_succ_self n), runsOn, runsOn, later n (Nat.le_refl n), State.flag_of_regs regs]
    · rw [others k hk, run k]
      simp only [Nat.lt_succ_iff_lt_or_eq, hk, or_false]

theorem clkoutsSquelch_shows (s : State) {t : State} (ht : t = clkoutsSquelch s) :
    (∀ k < 4, (t.clkout k).running = runsOn s k) ∧ t.regs = s.regs ∧ t.loop.lols = s.loop.lols := by
  obtain ⟨run, -, regs, lols⟩ := squelch_run 4 s
  rw [clkoutsSquelch_eq] at ht
  subst ht
  exact ⟨fun k hk => by rw [run, if_pos hk], regs, lols⟩

/-! ### The multiplying PLL (R243, R244) -/

theorem mpllSearch_shows (s : State) {t : State} (ht : t = mpllSearch s) :
    t.flag F.LOOP_MPLL_STATUS_LOCKED = false ∧ t.flag F.LOOP_MPLL_STATUS_SEARCHING = true ∧ t.loop = s.loop ∧
    FldsKeep [F.LOOP_MPLL_STATUS_LOCKED, F.LOOP_MPLL_STATUS_SEARCHING] s t := by
  subst ht
  refine ⟨?_, State.flag_setFlag_same _ _ _ (by decide) rfl, by rw [mpllSearch, State.setFlag_loop, State.setFlag_loop],
    ((FldsKeep.refl _ s).setFlag _ _ (.head _)).setFlag _ _ (.tail _ (.head _))⟩
  rw [mpllSearch, State.flag_setFlag _ _ _ _ (by decide), State.flag_setFlag_same _ _ _ (by decide) rfl]

theorem mpllStop_shows (s : State) {t : State} (ht : t = mpllStop s) :
    t.flag F.LOOP_MPLL_STATUS_SEARCHING = false ∧ t.flag F.LOOP_MPLL_STATUS_FAILED = true ∧ t.flag F.LOOP_INT_STATUS_MPLL_FAIL = true ∧
    t.rbit Reg.FLT_CLASS_PEND 10 = true ∧ Moves [.regs, .loop, .twin] s t := by
  have moves : Moves [.regs, .loop, .twin] s t := ht ▸ mpllStop_moves (.refl _ s) (by simp) (by simp) (by simp)
  rw [mpllStop] at ht
  have hsearch : (((s.setFlag F.LOOP_MPLL_STATUS_SEARCHING false).setFlag F.LOOP_MPLL_STATUS_FAILED true).raise F.LOOP_INT_STATUS_MPLL_FAIL).flag
      F.LOOP_MPLL_STATUS_SEARCHING = false := by
    rw [State.flag_raise _ _ _ (by decide), State.flag_setFlag _ _ _ _ (by decide), State.flag_setFlag_same _ _ _ (by decide) rfl]
  have hfailed : (((s.setFlag F.LOOP_MPLL_STATUS_SEARCHING false).setFlag F.LOOP_MPLL_STATUS_FAILED true).raise F.LOOP_INT_STATUS_MPLL_FAIL).flag
      F.LOOP_MPLL_STATUS_FAILED = true := by
    rw [State.flag_raise _ _ _ (by decide), State.flag_setFlag_same _ _ _ (by decide) rfl]
  have hcause : (((s.setFlag F.LOOP_MPLL_STATUS_SEARCHING false).setFlag F.LOOP_MPLL_STATUS_FAILED true).raise F.LOOP_INT_STATUS_MPLL_FAIL).flag
      F.LOOP_INT_STATUS_MPLL_FAIL = true := State.flag_raise_same _ _ (by decide) rfl
  generalize ((s.setFlag F.LOOP_MPLL_STATUS_SEARCHING false).setFlag F.LOOP_MPLL_STATUS_FAILED true).raise F.LOOP_INT_STATUS_MPLL_FAIL = u at *
  obtain ⟨pend, regs, -, -⟩ := faultLog_shows 10 0x11 0 0 (by decide) u ht
  have page : PageKeep [] u t := .of_regs regs faultRegs_far
  exact ⟨(page.flag_eq _ (by decide) (by decide) (by decide)).trans hsearch, (page.flag_eq _ (by decide) (by decide) (by decide)).trans hfailed,
    (page.flag_eq _ (by decide) (by decide) (by decide)).trans hcause, pend, moves⟩

/-! ### The keeper takes over (R246, R320) -/

/-- The registers that the take-over may change. -/
def keeperRegs : List Nat := Reg.LOOP_STATUS :: (cyclePages ++ lanePages) ++ runPages

theorem keeperTaken_shows (s : State) {t : State} (ht : t = tclkTo true (prfAbandon s)) :
    t.flag F.LOOP_STATUS_TCLK_KEEPER = true ∧ t.flag F.LOOP_STATUS_LANE_BACKUP = true ∧ t.prf.mode = 0 ∧ t.loop = s.loop ∧
    (s.flag F.LOOP_STATUS_TCLK_KEEPER = false → t.flag F.MET_INT_STATUS_INVALIDATED = true) ∧
    (s.flag F.LOOP_STATUS_LANE_BACKUP = false → RefChanged t) ∧ PageKeep [F.LOOP_STATUS_TCLK_KEEPER, F.LOOP_STATUS_LANE_BACKUP] s t ∧
    RegsKeep keeperRegs s t := by
  obtain ⟨mode, hk⟩ := prfAbandon_keeps s
  have hpage : PageKeep [F.LOOP_STATUS_TCLK_KEEPER, F.LOOP_STATUS_LANE_BACKUP] s (prfAbandon s) := .of_regs hk runPages_far
  have hloop : (prfAbandon s).loop = s.loop :=
    (prfAbandon_moves (.refl [.regs, .met, .prf] s) (listed rfl) (listed rfl) (listed rfl)).within.loop_eq
  have hst : (prfAbandon s).reg Reg.LOOP_STATUS = s.reg Reg.LOOP_STATUS := (hk _ (by rw [mem_runPages]; decide)).1
  generalize prfAbandon s = u at ht mode hk hpage hloop hst
  obtain ⟨keeper, backup, inv, changed, page, regs⟩ := tclkTo_shows true u ht
  have hm : Moves [.regs, .met] u t := ht ▸ tclkTo_moves (.refl _ u) true (by simp) (by simp)
  have hflag : ∀ g : Fld, g.addr = Reg.LOOP_STATUS → u.flag g = s.flag g := fun g hg => by
    rw [State.flag, State.fld, hg, hst, ← hg, ← State.fld, ← State.flag]
  refine ⟨keeper, backup, by rw [hm.within.prf_eq]; exact mode, hm.within.loop_eq.trans hloop, fun h => inv ?_, fun h => changed ?_,
    hpage.trans page fun _ h => h, (hk.mono fun a ha => List.mem_append_right _ ha).trans (regs.mono fun a ha => List.mem_append_left _ ha)⟩
  · rw [hflag _ rfl, h]
    decide
  · rw [hflag _ rfl, h]
    decide

end Sys2Proof.Machine
end

section
/-!
SUPPORT. The commands of the fallback to the keeper and of the hand-back. O31 follows.
-/
namespace Sys2Proof.Machine
set_option Elab.async false

/-! ### A lock (R243) -/

/-- The status of the multiplying PLL after a search has ended with a lock. -/
def lockShown (band vtune : Nat) (s : State) : State :=
  (((s.setFlag F.LOOP_MPLL_STATUS_SEARCHING false).setFlag F.LOOP_MPLL_STATUS_LOCKED true).setFld F.LOOP_MPLL_STATUS_BAND band).setFld
    F.LOOP_MPLL_STATUS_VTUNE vtune

theorem lockShown_shows (band vtune : Nat) (s : State) {t : State} (ht : t = lockShown band vtune s) :
    t.flag F.LOOP_MPLL_STATUS_LOCKED = true ∧ t.flag F.LOOP_MPLL_STATUS_SEARCHING = false ∧ t.fld F.LOOP_MPLL_STATUS_BAND = band % 64 ∧
    t.fld F.LOOP_MPLL_STATUS_VTUNE = vtune % 256 ∧ Moves [.regs] s t ∧ RegsKeep [Reg.LOOP_MPLL_STATUS] s t := by
  have moves : Moves [.regs] s (lockShown band vtune s) :=
    State.setFld_moves (State.setFld_moves (State.setFlag_moves (State.setFlag_moves (.refl _ s) _ _ (.head _)) _ _ (.head _)) _ _ (.head _)) _ _ (.head _)
  have keep : RegsKeep [Reg.LOOP_MPLL_STATUS] s (lockShown band vtune s) :=
    ((((RegsKeep.refl _ s).setFlag F.LOOP_MPLL_STATUS_SEARCHING _ (.head _)).setFlag F.LOOP_MPLL_STATUS_LOCKED _ (.head _)).setFld
      F.LOOP_MPLL_STATUS_BAND _ (.head _)).setFld F.LOOP_MPLL_STATUS_VTUNE _ (.head _)
  subst ht
  refine ⟨?_, ?_, ?_, State.fld_setFld_same _ _ _ (by decide), moves, keep⟩
  · rw [lockShown, State.flag_setFld _ _ _ _ (by decide), State.flag_setFld _ _ _ _ (by decide), State.flag_setFlag_same _ _ _ (by decide) rfl]
  · rw [lockShown, State.flag_setFld _ _ _ _ (by decide), State.flag_setFld _ _ _ _ (by decide), State.flag_setFlag _ _ _ _ (by decide),
      State.flag_setFlag_same _ _ _ (by decide) rfl]
  · rw [lockShown, State.fld_setFld _ _ _ _ (by decide)]
    exact State.fld_setFld_same _ _ _ (by decide)

theorem mpllLock_shows (s : State) (counts : List Nat) (v : BitVec 8) {t : State}
    (ht : t = (((lockShown (bandKept s counts) v.toNat s).updLoop fun l => { l with fails := 0, guard := s.fld F.LOOP_MPLL_CTRL_GUARD_US }).raise
      F.LOOP_INT_STATUS_MPLL_LOCK).raiseIf (decide (v.toNat < 26 ∨ 229 < v.toNat)) F.LOOP_INT_STATUS_BAND_MARGIN) :
    t.flag F.LOOP_MPLL_STATUS_LOCKED = true ∧ t.flag F.LOOP_MPLL_STATUS_SEARCHING = false ∧ t.fld F.LOOP_MPLL_STATUS_BAND = bandKept s counts % 64 ∧
    t.fld F.LOOP_MPLL_STATUS_VTUNE = v.toNat ∧ t.flag F.LOOP_INT_STATUS_MPLL_LOCK = true ∧
    t.flag F.LOOP_INT_STATUS_BAND_MARGIN = (s.flag F.LOOP_INT_STATUS_BAND_MARGIN || decide (v.toNat < 26 ∨ 229 < v.toNat)) ∧
    t.loop = { s.loop with fails := 0, guard := s.fld F.LOOP_MPLL_CTRL_GUARD_US } ∧
    Touches [.loop] [whole Reg.LOOP_MPLL_STATUS, F.LOOP_INT_STATUS_MPLL_LOCK, F.LOOP_INT_STATUS_BAND_MARGIN] s t := by
  have hv : v.toNat % 256 = v.toNat := Nat.mod_eq_of_lt v.isLt
  obtain ⟨locked, searching, band, vtune, moves, keep⟩ := lockShown_shows (bandKept s counts) v.toNat s rfl
  generalize lockShown (bandKept s counts) v.toNat s = u at ht locked searching band vtune moves keep
  have hu : Touches [.loop] [whole Reg.LOOP_MPLL_STATUS, F.LOOP_INT_STATUS_MPLL_LOCK, F.LOOP_INT_STATUS_BAND_MARGIN] s u :=
    .of_moves (moves.mono (by simp)) (.of_regsKeep keep (by simp))
  have hw := hu.of_parts (State.updLoop_moves (.refl [.loop] u) (fun l => { l with fails := 0, guard := s.fld F.LOOP_MPLL_CTRL_GUARD_US }) (.head _)) (by decide)
    fun _ h => h
  have hloop : (u.updLoop fun l => { l with fails := 0, guard := s.fld F.LOOP_MPLL_CTRL_GUARD_US }).loop =
      { s.loop with fails := 0, guard := s.fld F.LOOP_MPLL_CTRL_GUARD_US } := by rw [State.updLoop_loop, moves.within.loop_eq]
  have hregs : (u.updLoop fun l => { l with fails := 0, guard := s.fld F.LOOP_MPLL_CTRL_GUARD_US }).regs = u.regs := rfl
  generalize (u.updLoop _) = w at ht hw hloop hregs
  have tail : FldsKeep [F.LOOP_INT_STATUS_MPLL_LOCK, F.LOOP_INT_STATUS_BAND_MARGIN] w t := by
    rw [ht]
    exact ((FldsKeep.refl _ w).raise _ (.head _)).raiseIf _ _ fun _ => .tail _ (.head _)
  refine ⟨?_, ?_, ?_, ?_, ?_, ?_, ?_, ?_⟩
  · rw [tail.flag_eq _ (by decide), State.flag_of_regs hregs, locked]
  · rw [tail.flag_eq _ (by decide), State.flag_of_regs hregs, searching]
  · rw [tail.fld_eq _ (by decide), State.fld_of_regs hregs, band]
  · rw [tail.fld_eq _ (by decide), State.fld_of_regs hregs, vtune, hv]
  · rw [ht, State.flag_raiseIf _ _ _ _ (by decide), State.flag_raise_same _ _ (by decide) rfl]
  · rw [ht, State.flag_raiseIf_same _ _ _ (by decide) rfl, State.flag_raise _ _ _ (by decide), State.flag_of_regs hregs, keep.flag_eq _ (by decide),
      Bool.or_comm]
  · rw [ht, State.raiseIf_loop, State.raise_loop, hloop]
  · rw [ht]
    exact (hw.raise _ (by simp)).raiseIf _ _ fun _ => by simp

/-! ### A declared loss of lock (R245, R246, R274, R320) -/

/-- The losses of lock on record, with the one declared now. -/
def lolTimes (s : State) : List Nat := (s.clk.tclk :: s.loop.lols).take 8

/-- A loss of lock is counted and shown. -/
def lolCounted (s : State) : State := (s.bump32 Reg.LOOP_LOL_COUNT 1 (some F.LOOP_INT_STATUS_CNT_OVF)).raise F.LOOP_INT_STATUS_MPLL_LOL

theorem lolCounted_shows (s : State) {t : State} (ht : t = lolCounted s) :
    t.flag F.LOOP_INT_STATUS_MPLL_LOL = true ∧ t.reg Reg.LOOP_LOL_COUNT = s.reg Reg.LOOP_LOL_COUNT + 1 ∧ t.loop = s.loop ∧
    FldsKeep [whole Reg.LOOP_LOL_COUNT, F.LOOP_INT_STATUS_CNT_OVF, F.LOOP_INT_STATUS_MPLL_LOL] s t := by
  subst ht
  refine ⟨State.flag_raise_same _ _ (by decide) rfl, ?_, by rw [lolCounted, State.raise_loop, State.bump32_loop],
    ((FldsKeep.refl _ s).bump32 _ _ _ (by simp) (by simp)).raise _ (by simp)⟩
  rw [lolCounted, State.reg_raise_ne _ _ (by decide), State.reg_bump32_one _ _ _ (by decide)]

theorem runsOn_of_loop {s t : State} (hl : t.loop = s.loop) {k : Nat} (hf : t.flag (F.LOOP_CLKOUT_CTRL_ON_UNLOCK k) = s.flag (F.LOOP_CLKOUT_CTRL_ON_UNLOCK k)) :
    runsOn t k = runsOn s k := by rw [runsOn, runsOn, State.clkout, State.clkout, hl, hf]

/-- The fields of the loop's pages in which a loss of lock shows before the loop coasts. -/
def lolFlds : List Fld :=
  [whole Reg.LOOP_LOL_COUNT, F.LOOP_INT_STATUS_CNT_OVF, F.LOOP_INT_STATUS_MPLL_LOL, F.LOOP_STATUS_TCLK_KEEPER, F.LOOP_STATUS_LANE_BACKUP]

theorem lolFlds_onUnlock {k : Nat} : ∀ f ∈ lolFlds, Apart f (F.LOOP_CLKOUT_CTRL_ON_UNLOCK k) := by
  have h : ∀ f ∈ lolFlds, f.lo + f.w ≤ 32 ∧ f.addr ≤ Reg.LOOP_LOL_COUNT := by decide
  intro f hf
  obtain ⟨hfits, hlow⟩ := h f hf
  refine ⟨hfits, Or.inl ?_⟩
  simp only [F.LOOP_CLKOUT_CTRL_ON_UNLOCK, Reg.LOOP_CLKOUT_CTRL, Reg.LOOP_LOL_COUNT] at hlow ⊢
  omega

/-- The registers that the loop's coasting and a search may change, and those with a fault's. -/
def coastSearchRegs : List Nat := Reg.LOOP_MPLL_STATUS :: coastRegs
def lateRegs : List Nat := coastSearchRegs ++ Reg.FLT_CLASS_PEND :: faultRegs

/-- They lie behind those of the lanes and of link phase metrology. -/
theorem lateRegs_high : ∀ a ∈ lateRegs, 0x198000 ≤ a := by
  have hrole : ∀ a ∈ roleRegs, 0x198000 ≤ a := by decide
  refine List.forall_mem_append.2 ⟨by decide, List.forall_mem_cons.2 ⟨by decide, List.forall_mem_append.2 ⟨hrole, fun a ha => ?_⟩⟩⟩
  have := List.mem_range'_1.1 ha
  omega

/-- The loop coasts where it has to, and the multiplying PLL searches. -/
def coastSearch (p : Prop) [Decidable p] (s : State) : State := mpllSearch (if p then loopCoast 6 s else s)

/-- The fields of the loop's pages that this may change. -/
def coastSearchFlds : List Fld := coastFlds ++ freqFlds ++ [F.LOOP_MPLL_STATUS_LOCKED, F.LOOP_MPLL_STATUS_SEARCHING]

theorem coastSearch_shows (p : Prop) [Decidable p] (s : State) {t : State} (ht : t = coastSearch p s) :
    t.fld F.LOOP_STATUS_STATE = (if p then 6 else s.fld F.LOOP_STATUS_STATE) ∧ (p → t.fld F.LOOP_STATUS_ADV_QUALITY = 3) ∧
    t.flag F.LOOP_MPLL_STATUS_LOCKED = false ∧ t.flag F.LOOP_MPLL_STATUS_SEARCHING = true ∧ PageKeep coastSearchFlds s t ∧ RegsKeep coastSearchRegs s t ∧
    OutsRun s t ∧ Moves [.regs, .loop, .twin, .free] s t := by
  rw [coastSearch] at ht
  have hcoast : ∃ u, u = (if p then loopCoast 6 s else s) ∧ u.fld F.LOOP_STATUS_STATE = (if p then 6 else s.fld F.LOOP_STATUS_STATE) ∧
      (p → u.fld F.LOOP_STATUS_ADV_QUALITY = 3) ∧ PageKeep (coastFlds ++ freqFlds) s u ∧ RegsKeep coastRegs s u ∧ OutsRun s u ∧
      Moves [.regs, .loop, .twin, .free] s u := by
    refine ⟨_, rfl, ?_⟩
    by_cases hp : p
    · rw [if_pos hp, if_pos hp]
      obtain ⟨state, quality, page, -, run⟩ := loopCoast_shows 6 s rfl
      exact ⟨state, fun _ => quality, page, loopCoast_regsKeep 6 s, run, loopCoast_moves (.refl _ s) 6 (by simp) (by simp) (by simp) (by simp)⟩
    · rw [if_neg hp, if_neg hp]
      exact ⟨rfl, fun h => absurd h hp, .refl _ s, .refl _ s, .refl s, .refl _ s⟩
  obtain ⟨u, hu, state, quality, page, regs, run, moves⟩ := hcoast
  rw [← hu] at ht
  obtain ⟨locked, searching, loop, keep⟩ := mpllSearch_shows u ht
  have hm : Moves [.regs, .loop, .twin, .free] u t := ht ▸ mpllSearch_moves (.refl _ u) (by simp)
  exact ⟨(keep.fld_eq _ (by decide)).trans state, fun h => (keep.fld_eq _ (by decide)).trans (quality h), locked, searching,
    (page.mono fun _ h => List.mem_append_left _ h).trans (.of_flds keep) fun _ h => List.mem_append_right _ h,
    (regs.mono fun _ h => .tail _ h).trans (keep.regsKeep (by decide)), run.of_loop loop, moves.trans hm⟩

/-- A loss of lock is declared, before the losses on record are judged. -/
def lolDeclared (s : State) : State :=
  faultLog 9 0x11 0 0 ((coastSearch (loopState s ≤ 5) (clkoutsSquelch (tclkTo true (prfAbandon (lolCounted s))))).updLoop
    fun l => { l with lols := lolTimes s })

theorem mpllLol_eq (s : State) : mpllLol s =
    if (lolTimes s).length = 8 ∧ s.clk.tclk < ((lolTimes s).getLast?).getD s.clk.tclk + 781250000 then mpllStop (lolDeclared s)
    else lolDeclared s := rfl

theorem lolDeclared_shows (s : State) (hs : loopState s ≤ 5) (hk : s.flag F.LOOP_STATUS_TCLK_KEEPER = false)
    (hb : s.flag F.LOOP_STATUS_LANE_BACKUP = false) {t : State} (ht : t = lolDeclared s) :
    t.flag F.LOOP_INT_STATUS_MPLL_LOL = true ∧ t.reg Reg.LOOP_LOL_COUNT = s.reg Reg.LOOP_LOL_COUNT + 1 ∧ t.fld F.LOOP_STATUS_STATE = 6 ∧
    t.fld F.LOOP_STATUS_ADV_QUALITY = 3 ∧ t.flag F.LOOP_STATUS_TCLK_KEEPER = true ∧ t.flag F.LOOP_STATUS_LANE_BACKUP = true ∧
    t.flag F.LOOP_MPLL_STATUS_LOCKED = false ∧ t.flag F.LOOP_MPLL_STATUS_SEARCHING = true ∧ RefChanged t ∧
    t.flag F.MET_INT_STATUS_INVALIDATED = true ∧ t.prf.mode = 0 ∧ t.rbit Reg.FLT_CLASS_PEND 9 = true ∧
    ∀ k < 4, (t.clkout k).running = runsOn s k := by
  rw [lolDeclared] at ht
  obtain ⟨lol, count, loop1, keep1⟩ := lolCounted_shows s rfl
  generalize lolCounted s = s1 at ht lol count loop1 keep1
  have hk1 : s1.flag F.LOOP_STATUS_TCLK_KEEPER = false := (keep1.flag_eq _ (by decide)).trans hk
  have hb1 : s1.flag F.LOOP_STATUS_LANE_BACKUP = false := (keep1.flag_eq _ (by decide)).trans hb
  obtain ⟨keeper, backup, mode, loop2, inv, changed, page2, -⟩ := keeperTaken_shows s1 rfl
  generalize tclkTo true (prfAbandon s1) = s2 at ht keeper backup mode loop2 inv changed page2
  obtain ⟨run3, regs3, -⟩ := clkoutsSquelch_shows s2 rfl
  have moves3 : Moves [.loop] s2 (clkoutsSquelch s2) := clkoutsSquelch_moves (.refl _ s2) (.head _)
  generalize clkoutsSquelch s2 = s3 at ht run3 regs3 moves3
  obtain ⟨state, quality, locked, searching, page4, late4, run4, moves4⟩ := coastSearch_shows (loopState s ≤ 5) s3 rfl
  generalize coastSearch (loopState s ≤ 5) s3 = s4 at ht state quality locked searching page4 late4 run4 moves4
  have moves5 : Moves [.loop] s4 (s4.updLoop fun l => { l with lols := lolTimes s }) := State.updLoop_moves (.refl _ s4) _ (.head _)
  have outs5 : (s4.updLoop fun l => { l with lols := lolTimes s }).loop.outs = s4.loop.outs := rfl
  generalize s4.updLoop _ = s5 at ht moves5 outs5
  obtain ⟨pend, regs6, run6, moves6⟩ := faultLog_shows 9 0x11 0 0 (by decide) s5 ht
  have late : RegsKeep lateRegs s2 t := ((RegsKeep.of_moves moves3).trans (late4.mono fun _ h => List.mem_append_left _ h)).trans ((RegsKeep.of_moves moves5).trans
    (regs6.mono fun _ h => List.mem_append_right _ h))
  have lead : PageKeep lolFlds s s2 := ((PageKeep.of_flds keep1).mono (by decide)).trans page2 (by decide)
  have tail : PageKeep [] s4 t := (PageKeep.of_parts moves5).trans (.of_regs regs6 faultRegs_far) fun _ h => h
  have page : PageKeep coastSearchFlds s2 t := ((PageKeep.of_parts moves3).trans page4 fun _ h => h).trans tail fun _ h => nomatch h
  refine ⟨?_, ?_, ?_, ?_, ?_, ?_, ?_, ?_, (changed hb1).of_regs late fun a ha => ?_, ?_, ?_, pend, fun k hk => ?_⟩
  · rw [page.flag_eq _ (by decide) (by decide) (by decide), page2.flag_eq _ (by decide) (by decide) (by decide), lol]
  · rw [page.reg_eq _ (by decide) (by decide) (by decide), page2.reg_eq _ (by decide) (by decide) (by decide), count]
  · rw [tail _ (by decide) (by decide) (by decide), state, if_pos hs]
  · rw [tail _ (by decide) (by decide) (by decide), quality hs]
  · rw [page.flag_eq _ (by decide) (by decide) (by decide), keeper]
  · rw [page.flag_eq _ (by decide) (by decide) (by decide), backup]
  · rw [tail.flag_eq _ (by decide) (by decide) (by decide), locked]
  · rw [tail.flag_eq _ (by decide) (by decide) (by decide), searching]
  · have := lateRegs_high a ha
    omega
  · rw [late.flag_eq _ fun hm => absurd (lateRegs_high _ hm) (by decide), inv hk1]
  · rw [moves6.within.prf_eq, moves5.within.prf_eq, moves4.within.prf_eq, moves3.within.prf_eq, mode]
  · have hlow : 0x198000 ≤ (F.LOOP_CLKOUT_CTRL_ON_UNLOCK k).addr ∧ (F.LOOP_CLKOUT_CTRL_ON_UNLOCK k).addr < 0x199000 := by
      simp only [F.LOOP_CLKOUT_CTRL_ON_UNLOCK, Reg.LOOP_CLKOUT_CTRL]
      omega
    rw [run6.running, State.clkout, outs5, ← State.clkout, run4.running, run3 k hk]
    exact runsOn_of_loop (loop2.trans loop1) (lead.flag_eq _ hlow.1 hlow.2 lolFlds_onUnlock)

end Sys2Proof.Machine
end

section
/-!
SUPPORT. MPLL_RELOCK, the hand-back, and XO_IN lost and found again (R246, R247, R585). O31 follows.
-/
namespace Sys2Proof.Machine
set_option Elab.async false

/-! ### The eighth loss on record (R244) -/

theorem nth_eq_getD {α : Type} (d : α) (l : List α) (i : Nat) : nth d l i = (l[i]?).getD d := by
  induction l generalizing i with
  | nil => rfl
  | cons x l ih =>
    cases i with
    | zero => rfl
    | succ i => rw [nth, ih, List.getElem?_cons_succ]

theorem lolTimes_eighth {s : State} (h : s.loop.lols.length = 8) (d : Nat) :
    (lolTimes s).length = 8 ∧ ((lolTimes s).getLast?).getD d = nth 0 s.loop.lols 6 := by
  have hlen : (lolTimes s).length = 8 := by
    rw [lolTimes, List.length_take, List.length_cons, h]
    rfl
  have hsix : s.loop.lols[6]? = some s.loop.lols[6] := List.getElem?_eq_getElem (by omega)
  refine ⟨hlen, ?_⟩
  rw [List.getLast?_eq_getElem?, hlen, lolTimes, List.getElem?_take, if_pos (by decide), List.getElem?_cons_succ, nth_eq_getD, hsix]
  rfl

/-! ### MPLL_RELOCK (R585) -/

/-- The change-over keeps the registers behind the loop's page. -/
theorem tclkRegs_low : ∀ a ∈ Reg.LOOP_STATUS :: (cyclePages ++ lanePages), a < 0x199000 := by
  refine List.forall_mem_cons.2 ⟨by decide, List.forall_mem_append.2 ⟨fun a ha => ?_, fun a ha => ?_⟩⟩
  all_goals
    have := List.mem_range'_1.1 ha
    omega

theorem pend_not_mem_keeperRegs : Reg.FLT_CLASS_PEND ∉ keeperRegs := fun hm =>
  (List.mem_append.1 hm).elim (fun h => absurd (tclkRegs_low _ h) (by decide)) fun h => absurd (mem_runPages.1 h) (by decide)

theorem actLoopCmd_relock (old d : Word) (h : bits d 0 6 = 0) (s : State) : actLoopCmd old (d ||| 16#32) s = mpllRelock s := by
  have hd : ∀ i < 6, bit d i = false := fun i hi => by
    have ht : (bits d 0 6).testBit i = bit d i := by
      rw [testBit_bits, decide_eq_true hi, Bool.true_and, Nat.zero_add]
      rfl
    rw [← ht, h, Nat.zero_testBit]
  have hb : ∀ i < 6, bit (d ||| 16#32) i = bit 16#32 i := fun i hi => by rw [bit_or_ofNat, hd i hi, Bool.false_or]
  have h0 : bit (d ||| 16#32) 0 = false := hb 0 (by decide)
  have h1 : bit (d ||| 16#32) 1 = false := hb 1 (by decide)
  have h2 : bit (d ||| 16#32) 2 = false := hb 2 (by decide)
  have h3 : bit (d ||| 16#32) 3 = false := hb 3 (by decide)
  have h4 : bit (d ||| 16#32) 4 = true := hb 4 (by decide)
  have h5 : bit (d ||| 16#32) 5 = false := hb 5 (by decide)
  simp only [actLoopCmd, h0, h1, h2, h3, h4, h5, Bool.false_eq_true, if_false, if_true]

theorem loopCmd_relock {ag : Agent} {s : State} (hf : pf1Denied ag Reg.LOOP_CMD s = false) {d : Word} (h : bits d 0 6 = 0) :
    regWrite ag Reg.LOOP_CMD Rd.LOOP_CMD actLoopCmd allBits (d ||| 16) s = mpllRelock (restored Reg.LOOP_CMD s) := by
  rw [regWrite_of_allowed hf, regStore_eq, merge_allBits, regStored_command _ _ rfl rfl rfl rfl]
  exact actLoopCmd_relock _ d h _

theorem mpllRelock_eq {s : State} (hx : s.pwr.xoIn = true) : mpllRelock s =
    ((coastSearch (loopState s ≠ 7) (tclkTo true (prfAbandon s))).setFlag F.LOOP_MPLL_STATUS_FAILED false).updLoop fun l => { l with fails := 0 } :=
  if_neg (not_not_intro hx)

theorem mpllRelock_shows (s : State) (hx : s.pwr.xoIn = true) {t : State} (ht : t = mpllRelock s) :
    t.fld F.LOOP_STATUS_STATE = (if s.fld F.LOOP_STATUS_STATE = 7 then 7 else 6) ∧ (s.fld F.LOOP_STATUS_STATE ≠ 7 → t.fld F.LOOP_STATUS_ADV_QUALITY = 3) ∧
    t.flag F.LOOP_STATUS_TCLK_KEEPER = true ∧ t.flag F.LOOP_STATUS_LANE_BACKUP = true ∧ t.flag F.LOOP_MPLL_STATUS_SEARCHING = true ∧
    t.flag F.LOOP_MPLL_STATUS_FAILED = false ∧ t.loop.fails = 0 ∧ t.loop.lols = s.loop.lols ∧
    t.flag F.LOOP_INT_STATUS_MPLL_LOL = s.flag F.LOOP_INT_STATUS_MPLL_LOL ∧ t.reg Reg.LOOP_LOL_COUNT = s.reg Reg.LOOP_LOL_COUNT ∧
    t.rbit Reg.FLT_CLASS_PEND 9 = s.rbit Reg.FLT_CLASS_PEND 9 ∧ t.prf.mode = 0 := by
  rw [mpllRelock_eq hx] at ht
  obtain ⟨keeper, backup, mode, loop1, -, -, page1, regs1⟩ := keeperTaken_shows s rfl
  generalize tclkTo true (prfAbandon s) = s1 at ht keeper backup mode loop1 page1 regs1
  obtain ⟨state, quality, -, searching, page2, regs2, run2, moves2⟩ := coastSearch_shows (loopState s ≠ 7) s1 rfl
  generalize coastSearch (loopState s ≠ 7) s1 = s2 at ht state quality searching page2 regs2 run2 moves2
  have failed : (s2.setFlag F.LOOP_MPLL_STATUS_FAILED false).flag F.LOOP_MPLL_STATUS_FAILED = false := State.flag_setFlag_same _ _ _ (by decide) rfl
  have keep3 : FldsKeep [F.LOOP_MPLL_STATUS_FAILED] s2 (s2.setFlag F.LOOP_MPLL_STATUS_FAILED false) := (FldsKeep.refl _ s2).setFlag _ _ (.head _)
  have loop3 : (s2.setFlag F.LOOP_MPLL_STATUS_FAILED false).loop = s2.loop := State.setFlag_loop ..
  have moves3 : Moves [.regs] s2 (s2.setFlag F.LOOP_MPLL_STATUS_FAILED false) := State.setFlag_moves (.refl _ s2) _ _ (.head _)
  generalize s2.setFlag F.LOOP_MPLL_STATUS_FAILED false = s3 at ht failed keep3 loop3 moves3
  have moves4 : Moves [.loop] s3 t := ht ▸ State.updLoop_moves (.refl _ s3) _ (.head _)
  have regs4 : t.regs = s3.regs := moves4.within.regs_eq
  have tail : FldsKeep [F.LOOP_MPLL_STATUS_FAILED] s2 t := keep3.of_regs regs4 moves4.within.again_eq
  have page : PageKeep (F.LOOP_MPLL_STATUS_FAILED :: coastSearchFlds) s1 t := (page2.mono fun _ h => .tail _ h).trans (.of_flds tail) (by simp)
  refine ⟨?_, fun h => ?_, ?_, ?_, ?_, ?_, ?_, ?_, ?_, ?_, ?_, ?_⟩
  · rw [tail.fld_eq _ (by decide), state, page1 F.LOOP_STATUS_STATE (by decide) (by decide) (by decide), loopState]
    by_cases h : s.fld F.LOOP_STATUS_STATE = 7
    · rw [if_neg (not_not_intro h), if_pos h, h]
    · rw [if_pos h, if_neg h]
  · rw [tail.fld_eq _ (by decide), quality h]
  · rw [page.flag_eq _ (by decide) (by decide) (by decide), keeper]
  · rw [page.flag_eq _ (by decide) (by decide) (by decide), backup]
  · rw [tail.flag_eq _ (by decide), searching]
  · rw [State.flag_of_regs regs4, failed]
  · rw [ht]; rfl
  · rw [ht, State.updLoop_loop]
    exact (congrArg LoopSt.lols loop3).trans (run2.lols.trans (congrArg LoopSt.lols loop1))
  · rw [page.flag_eq _ (by decide) (by decide) (by decide), page1.flag_eq _ (by decide) (by decide) (by decide)]
  · rw [page.reg_eq _ (by decide) (by decide) (by decide), page1.reg_eq _ (by decide) (by decide) (by decide)]
  · rw [State.rbit, tail.reg_eq _ (by decide), (regs2 _ (by decide)).1, (regs1 _ pend_not_mem_keeperRegs).1, State.rbit]
  · rw [moves4.within.prf_eq, moves3.within.prf_eq, moves2.within.prf_eq, mode]

/-! ### The hand-back (R246, R262, R309) -/

/-- The fields of the loop's pages that the return changes. -/
def returnFlds : List Fld := stateFlds ++ choiceFlds ++ freqFlds

theorem toFreeRun_shows (s : State) {t : State} (ht : t = toFreeRun s) : t.fld F.LOOP_STATUS_STATE = 0 ∧ PageKeep returnFlds s t ∧ RegsKeep coastRegs s t := by
  rw [toFreeRun] at ht
  have moves1 : Moves [.loop] s (s.updLoop fun l => { l with r := 0 }) := State.updLoop_moves (.refl _ s) _ (.head _)
  generalize (s.updLoop _) = s1 at ht moves1
  obtain ⟨state, -, page2, -, -⟩ := setLoopState_shows 0 s1 rfl
  have regs2 := setLoopState_regsKeep 0 s1
  generalize setLoopState 0 s1 = s2 at ht state page2 regs2
  obtain ⟨page3, -⟩ := setSelected_shows 31 31 s2 rfl
  have regs3 := setSelected_regsKeep 31 31 s2
  generalize setSelected 31 31 s2 = s3 at ht page3 regs3
  obtain ⟨-, -, page4⟩ := setY_shows 0 s3 ht
  refine ⟨?_, ?_, ((RegsKeep.of_moves moves1).trans regs2).trans (regs3.trans (ht ▸ setY_regsKeep 0 s3))⟩
  · rw [page4 _ (by decide) (by decide) (by decide), page3 _ (by decide) (by decide) (by decide), state]
  · exact (((PageKeep.of_parts moves1).trans page2 (fs := returnFlds) (by decide)).trans page3 (by decide)).trans page4 (by decide)

/-- The loop's return from states 6 and 7. -/
def returned (p : Prop) [Decidable p] (s : State) : State := if p then setLoopState 4 s else toFreeRun s

theorem returned_shows (p : Prop) [Decidable p] (s : State) {t : State} (ht : t = returned p s) :
    t.fld F.LOOP_STATUS_STATE = (if p then 4 else 0) ∧ PageKeep returnFlds s t ∧ RegsKeep coastRegs s t ∧ Moves [.regs, .loop, .twin] s t := by
  rw [returned] at ht
  by_cases hp : p
  · rw [if_pos hp] at ht ⊢
    obtain ⟨state, -, page, -, -⟩ := setLoopState_shows 4 s ht
    exact ⟨state, page.mono (by decide), ht ▸ setLoopState_regsKeep 4 s, ht ▸ setLoopState_moves (.refl _ s) 4 (by simp) (by simp) (by simp)⟩
  · rw [if_neg hp] at ht ⊢
    obtain ⟨state, page, regs⟩ := toFreeRun_shows s ht
    exact ⟨state, page, regs, ht ▸ toFreeRun_moves (.refl _ s) (by simp) (by simp) (by simp)⟩

/-- The hand-back from states 6 and 7. -/
def handedBack (s : State) : State :=
  prfTrigger 2 ((returned (s.loop.hadSel ∨ s.flag F.LOOP_STATUS_HO_READY) ((tclkTo false s).raise F.LOOP_INT_STATUS_HANDBACK)).updLoop
    fun l => { l with hadSel := false })

theorem handedBack_shows (s : State) (hk : s.flag F.LOOP_STATUS_TCLK_KEEPER = true) {t : State} (ht : t = handedBack s) :
    t.flag F.LOOP_INT_STATUS_HANDBACK = true ∧ t.flag F.LOOP_STATUS_TCLK_KEEPER = false ∧ t.flag F.LOOP_STATUS_LANE_BACKUP = false ∧
    t.fld F.LOOP_STATUS_STATE = (if s.loop.hadSel || s.flag F.LOOP_STATUS_HO_READY then 4 else 0) ∧ t.flag F.MET_INT_STATUS_INVALIDATED = true ∧
    t.loop.hadSel = false ∧ (s.flag F.PRF_CTRL_EN = false → t.prf.pend = true ∧ t.prf.causePend = s.prf.causePend ||| 4) := by
  rw [handedBack] at ht
  obtain ⟨keeper, backup, inv, -, page1, regs1⟩ := tclkTo_shows false s rfl
  have moves1 : Moves [.regs, .met] s (tclkTo false s) := tclkTo_moves (.refl _ s) false (by simp) (by simp)
  generalize tclkTo false s = s1 at ht keeper backup inv page1 regs1 moves1
  have handback : (s1.raise F.LOOP_INT_STATUS_HANDBACK).flag F.LOOP_INT_STATUS_HANDBACK = true := State.flag_raise_same _ _ (by decide) rfl
  have keep2 : FldsKeep [F.LOOP_INT_STATUS_HANDBACK] s1 (s1.raise F.LOOP_INT_STATUS_HANDBACK) := (FldsKeep.refl _ s1).raise _ (.head _)
  have moves2 : Moves [.regs] s1 (s1.raise F.LOOP_INT_STATUS_HANDBACK) := State.raise_moves (.refl _ s1) _ (.head _)
  generalize s1.raise F.LOOP_INT_STATUS_HANDBACK = s2 at ht handback keep2 moves2
  obtain ⟨state, page3, regs3, moves3⟩ := returned_shows (s.loop.hadSel ∨ s.flag F.LOOP_STATUS_HO_READY) s2 rfl
  generalize returned (s.loop.hadSel ∨ s.flag F.LOOP_STATUS_HO_READY) s2 = s3 at ht state page3 regs3 moves3
  have moves4 : Moves [.loop] s3 (s3.updLoop fun l => { l with hadSel := false }) := State.updLoop_moves (.refl _ s3) _ (.head _)
  have sel4 : (s3.updLoop fun l => { l with hadSel := false }).loop.hadSel = false := rfl
  generalize (s3.updLoop _) = s4 at ht moves4 sel4
  have regs5 : RegsKeep runPages s4 t := ht ▸ prfTrigger_keeps 2 s4
  have moves5 : Moves [.regs, .ind, .met, .prf] s4 t := ht ▸ prfTrigger_moves (.refl _ s4) 2 (by simp) (by simp) (by simp) (by simp)
  have tail : PageKeep [] s3 t := (PageKeep.of_parts moves4).trans (.of_regs regs5 runPages_far) fun _ h => h
  have page : PageKeep returnFlds s2 t := page3.trans tail fun _ h => nomatch h
  have late : RegsKeep coastRegs s2 s4 := regs3.trans (.of_moves moves4)
  refine ⟨?_, ?_, ?_, ?_, ?_, ?_, fun hen => ?_⟩
  · rw [page.flag_eq _ (by decide) (by decide) (by decide), handback]
  · rw [page.flag_eq _ (by decide) (by decide) (by decide), keep2.flag_eq _ (by decide), keeper]
  · rw [page.flag_eq _ (by decide) (by decide) (by decide), keep2.flag_eq _ (by decide), backup]
  · rw [tail _ (by decide) (by decide) (by decide), state]
    simp only [Bool.or_eq_true]
  · rw [regs5.flag_eq _ (by rw [mem_runPages]; decide), late.flag_eq _ (by decide), keep2.flag_eq _ (by decide),
      inv (by rw [hk]; decide)]
  · rw [moves5.within.loop_eq, sel4]
  · have hen4 : s4.flag F.PRF_CTRL_EN = false := by
      rw [late.flag_eq _ (by decide), keep2.flag_eq _ (by decide), regs1.flag_eq _ fun hm => absurd (tclkRegs_low _ hm) (by decide), hen]
    have hprf : s4.prf = s.prf := by
      rw [moves4.within.prf_eq, moves3.within.prf_eq, moves2.within.prf_eq, moves1.within.prf_eq]
    rw [ht, prfTrigger_pends 2 s4 hen4, hprf]
    exact ⟨rfl, rfl⟩

/-! ### XO_IN lost (R247, R320) -/

/-- What a loss of XO_IN does while the main domain is up. -/
def xoCoast (s : State) : State :=
  faultLog 11 0x11 0 0 ((loopCoast 7 ((prfAbandon s).raise F.LOOP_INT_STATUS_XO_LOSS)).updLoop fun l => { l with aligning := false })

theorem xoCoast_shows (s : State) {t : State} (ht : t = xoCoast s) :
    t.flag F.LOOP_INT_STATUS_XO_LOSS = true ∧ t.fld F.LOOP_STATUS_STATE = 7 ∧ t.fld F.LOOP_STATUS_ADV_QUALITY = 3 ∧
    t.rbit Reg.FLT_CLASS_PEND 11 = true ∧ t.prf.mode = 0 ∧ t.pwr = s.pwr ∧ PageKeep (F.LOOP_INT_STATUS_XO_LOSS :: coastFlds) s t := by
  rw [xoCoast] at ht
  obtain ⟨mode, regs1⟩ := prfAbandon_keeps s
  have moves1 : Moves [.regs, .met, .prf] s (prfAbandon s) := prfAbandon_moves (.refl _ s) (by simp) (by simp) (by simp)
  generalize prfAbandon s = s1 at ht mode regs1 moves1
  have lost : (s1.raise F.LOOP_INT_STATUS_XO_LOSS).flag F.LOOP_INT_STATUS_XO_LOSS = true := State.flag_raise_same _ _ (by decide) rfl
  have keep2 : FldsKeep [F.LOOP_INT_STATUS_XO_LOSS] s1 (s1.raise F.LOOP_INT_STATUS_XO_LOSS) := (FldsKeep.refl _ s1).raise _ (.head _)
  have moves2 : Moves [.regs] s1 (s1.raise F.LOOP_INT_STATUS_XO_LOSS) := State.raise_moves (.refl _ s1) _ (.head _)
  generalize s1.raise F.LOOP_INT_STATUS_XO_LOSS = s2 at ht lost keep2 moves2
  obtain ⟨state, quality, -, page3, -⟩ := loopCoast_shows 7 s2 rfl
  replace page3 := page3 (by decide)
  have moves3 : Moves [.regs, .loop, .twin, .free] s2 (loopCoast 7 s2) := loopCoast_moves (.refl _ s2) 7 (by simp) (by simp) (by simp) (by simp)
  generalize loopCoast 7 s2 = s3 at ht state quality page3 moves3
  have moves4 : Moves [.loop] s3 (s3.updLoop fun l => { l with aligning := false }) := State.updLoop_moves (.refl _ s3) _ (.head _)
  generalize (s3.updLoop _) = s4 at ht moves4
  obtain ⟨pend, regs5, -, moves5⟩ := faultLog_shows 11 0x11 0 0 (by decide) s4 ht
  have tail : PageKeep [] s3 t := (PageKeep.of_parts moves4).trans (.of_regs regs5 faultRegs_far) fun _ h => h
  have page : PageKeep coastFlds s2 t := page3.trans tail fun _ h => nomatch h
  have lead : PageKeep [F.LOOP_INT_STATUS_XO_LOSS] s s2 := (PageKeep.of_regs regs1 runPages_far).trans (.of_flds keep2) fun _ h => h
  refine ⟨?_, ?_, ?_, pend, ?_, ?_, (lead.mono (by decide)).trans page fun _ h => .tail _ h⟩
  · rw [page.flag_eq _ (by decide) (by decide) (by decide), lost]
  · rw [tail _ (by decide) (by decide) (by decide), state]
  · rw [tail _ (by decide) (by decide) (by decide), quality]
    rfl
  · rw [moves5.within.prf_eq, moves4.within.prf_eq, moves3.within.prf_eq, moves2.within.prf_eq, mode]
  · rw [moves5.within.pwr_eq, moves4.within.pwr_eq, moves3.within.pwr_eq, moves2.within.pwr_eq, moves1.within.pwr_eq]

/-! ### Edge L (R246, R247) -/

/-- The relock sequence at edge L, with the holdover frequency `y` where there is one. -/
def edgeL (ready : Bool) (y : Int) (s : State) : State := mpllSearch (tclkTo true (if ready then setY y s else s))

theorem edgeL_shows (ready : Bool) (y : Int) (s : State) {t : State} (ht : t = edgeL ready y s) :
    t.loop = s.loop ∧ t.flag F.LOOP_STATUS_TCLK_KEEPER = true ∧ t.flag F.LOOP_STATUS_LANE_BACKUP = true ∧ t.flag F.LOOP_MPLL_STATUS_SEARCHING = true ∧
    t.fld F.LOOP_STATUS_STATE = s.fld F.LOOP_STATUS_STATE ∧
    loopY t = (if ready then clampInt (-(freqLimit s)) (freqLimit s) y else loopY s) ∧ Moves [.regs, .met] s t := by
  rw [edgeL] at ht
  have hset : ∃ u, u = (if ready then setY y s else s) ∧
      loopY u = (if ready then clampInt (-(freqLimit s)) (freqLimit s) y else loopY s) ∧ PageKeep freqFlds s u ∧ Moves [.regs, .met] s u := by
    refine ⟨_, rfl, ?_⟩
    by_cases h : ready = true
    · rw [if_pos h, if_pos h]
      obtain ⟨hy, -, page⟩ := setY_shows y s rfl
      exact ⟨hy, page, setY_moves (.refl _ s) _ (by simp)⟩
    · rw [if_neg h, if_neg h]
      exact ⟨rfl, .refl _ s, .refl _ s⟩
  obtain ⟨u, hu, hy, page1, moves1⟩ := hset
  rw [← hu] at ht
  obtain ⟨keeper, backup, -, -, page2, -⟩ := tclkTo_shows true u rfl
  have moves2 : Moves [.regs, .met] u (tclkTo true u) := tclkTo_moves (.refl _ u) true (by simp) (by simp)
  generalize tclkTo true u = v at ht keeper backup page2 moves2
  obtain ⟨-, searching, -, keep3⟩ := mpllSearch_shows v ht
  have moves3 : Moves [.regs, .met] v t := ht ▸ mpllSearch_moves (.refl _ v) (by simp)
  have page3 : PageKeep [F.LOOP_MPLL_STATUS_LOCKED, F.LOOP_MPLL_STATUS_SEARCHING] v t := .of_flds keep3
  have moves := (moves1.trans moves2).trans moves3
  refine ⟨moves.within.loop_eq, ?_, ?_, searching, ?_, ?_, moves⟩
  · rw [keep3.flag_eq _ (by decide), keeper]
  · rw [keep3.flag_eq _ (by decide), backup]
  · rw [keep3.fld_eq _ (by decide), page2 _ (by decide) (by decide) (by decide), page1 _ (by decide) (by decide) (by decide)]
  · rw [page3.loopY_eq (by decide), page2.loopY_eq (by decide), hy]

end Sys2Proof.Machine
end

section
/-!
SETTLES O31: a loss of lock or of XO_IN falls back to the keeper, and the hand-back returns.
-/
namespace Sys2Proof.Machine
set_option Elab.async false

theorem searching_with {s : State} (hs : s.flag F.LOOP_MPLL_STATUS_SEARCHING = true) (hx : s.pwr.xoIn = true) :
    ¬(¬s.flag F.LOOP_MPLL_STATUS_SEARCHING = true ∨ ¬s.pwr.xoIn = true) := fun h => h.elim (· hs) (· hx)

theorem lolTimes_short {s : State} (h : s.loop.lols.length < 7) : (lolTimes s).length ≠ 8 := by
  rw [lolTimes, List.length_take, List.length_cons]
  omega

/-- Settles O31, command by command: each falls into the steps whose effects the lemmas above state. -/
theorem fallbackToTheKeeper : Obligations.FallbackToTheKeeper := by
  unfold Obligations.FallbackToTheKeeper
  refine ⟨fun s counts v hm hs hx hl => answers_main (by rw [exec, execMpllLock]) hm fun t e => ?lock,
    fun s hm hs hx hf => answers_main (by rw [exec, execMpllSearchTimeout]) hm fun t e => ?timeout,
    fun s hm hs hx hf => answers_main (by rw [exec, execMpllSearchTimeout]) hm fun t e => ?stop,
    fun s hm hl hx hk hb hst hlen => answers_main (by rw [exec, execMpllLol]) hm fun t e => ?lol,
    fun s hm hl hx hlen hnear => answers_main (by rw [exec, execMpllLol]) hm fun t e => ?eighth,
    fun s ag d hm hf hd hx => answers_main (by rw [exec, execMpllRelock, loopCmdWrite]) hm fun t e => ?relock,
    fun s ag d hm hf hd hx => answers_main (by rw [exec, execMpllRelock, loopCmdWrite]) hm fun t e => ?refused,
    fun s hm hl hk hx ha hst => answers_main (by rw [exec, execHandback]) hm fun t e => ?handback,
    fun s hm hx => ⟨_, rfl, ?lost⟩, fun s hm => ⟨_, rfl, ?noted⟩, fun s hm => ⟨_, rfl, ?notedBack⟩, fun s hm hx => ⟨_, rfl, ?back⟩,
    fun s hm ha hf => answers_main (by rw [exec, execKeeperAlignDone]) hm fun t e => ?edge,
    fun s hm ha hf => answers_main (by rw [exec, execKeeperAlignDone]) hm fun t e => ?held⟩
  case lock =>
    refine mpllLock_shows s counts v (e.symm.trans (if_neg ?_))
    rw [hs, hx, hl]
    decide
  case timeout =>
    obtain rfl := e.symm.trans ((if_neg (searching_with hs hx)).trans (if_neg (by omega)))
    exact ⟨rfl, (State.updLoop_moves (.refl _ s) _ (.head _)).within⟩
  case stop =>
    have ht := e.symm.trans ((if_neg (searching_with hs hx)).trans (if_pos (by omega)))
    obtain ⟨searching, failed, cause, pend, moves⟩ := mpllStop_shows _ ht
    exact ⟨searching, failed, cause, pend, ((State.updLoop_moves (.refl _ s) _ (by simp)).trans moves).within⟩
  case lol =>
    have ht := e.symm.trans (if_pos ⟨hl, hx⟩)
    have moves : Moves [.regs, .met, .loop, .prf, .twin, .free] s t :=
      ht ▸ mpllLol_moves (.refl _ s) (by simp) (by simp) (by simp) (by simp) (by simp) (by simp)
    rw [mpllLol_eq, if_neg fun h => absurd h.1 (lolTimes_short hlen)] at ht
    obtain ⟨lol, count, state, quality, keeper, backup, locked, searching, changed, inv, mode, pend, run⟩ := lolDeclared_shows s hst hk hb ht
    exact ⟨lol, count, state, quality, keeper, backup, locked, searching, fun q hq => changed.1 q (List.mem_range.1 hq),
      fun a ha => changed.2 a (List.mem_range.1 ha), inv, mode, pend, fun k hk => run k (List.mem_range.1 hk), moves.within⟩
  case eighth =>
    have ht := e.symm.trans (if_pos ⟨hl, hx⟩)
    obtain ⟨height, hlast⟩ := lolTimes_eighth hlen s.clk.tclk
    rw [mpllLol_eq, if_pos ⟨height, by rwa [hlast]⟩] at ht
    obtain ⟨searching, failed, cause, -, -⟩ := mpllStop_shows _ ht
    exact ⟨searching, failed, cause⟩
  case relock =>
    rw [loopCmd_relock hf hd] at e
    have only := restored_only Reg.LOOP_CMD s
    generalize restored Reg.LOOP_CMD s = u at e only
    obtain ⟨hu, keep⟩ := only
    have shows := mpllRelock_shows u ((congrArg PwrSt.xoIn hu.pwr_eq).trans hx) e.symm
    rw [keep.fld_eq _ (by decide), keep.flag_eq _ (by decide), (keep _ (by decide)).1, hu.loop_eq, rbit_eq_flag u, keep.flag_eq _ (by decide),
      ← rbit_eq_flag s] at shows
    exact shows
  case refused =>
    rw [loopCmd_relock hf hd] at e
    have only := restored_only Reg.LOOP_CMD s
    generalize restored Reg.LOOP_CMD s = u at e only
    obtain ⟨hu, keep⟩ := only
    have hxu : ¬u.pwr.xoIn = true := by
      rw [hu.pwr_eq, hx]
      decide
    obtain rfl := e.symm.trans (if_pos hxu)
    have touch : Touches [] [F.LOOP_INT_STATUS_CMD_REFUSED] s u := ⟨hu, .of_regsKeep keep fun _ h => nomatch h⟩
    exact ⟨State.flag_raise_same _ _ (by decide) rfl, touch.raise _ (.head _)⟩
  case handback =>
    have hsix : ¬loopState s < 6 := by
      rw [loopState]
      omega
    have ht := e.symm.trans (if_pos ⟨hl, hk, hx, by rw [ha]; decide⟩)
    simp only [if_neg hsix] at ht
    exact handedBack_shows s hk ht
  case lost =>
    have hu : Moves [.pwr] s (s.updPwr fun p => { p with xoIn := false }) := State.updPwr_moves (.refl _ s) _ (.head _)
    have hpwr : (s.updPwr fun p => { p with xoIn := false }).pwr = { s.pwr with xoIn := false } := rfl
    have moves : Moves [.regs, .met, .loop, .prf, .pwr, .twin, .free] s (xoLoss s) :=
      xoLoss_moves (.refl _ s) (by simp) (by simp) (by simp) (by simp) (by simp) (by simp) (by simp)
    have ht : xoLoss s = xoCoast (s.updPwr fun p => { p with xoIn := false }) := if_pos ⟨hx, hm⟩
    generalize xoLoss s = t at ht moves
    generalize (s.updPwr _) = u at ht hu hpwr
    obtain ⟨lost, state, quality, pend, mode, pwr, page⟩ := xoCoast_shows u ht
    have hpage : PageKeep (F.LOOP_INT_STATUS_XO_LOSS :: coastFlds) s t := (PageKeep.of_parts hu).trans page fun _ h => h
    exact ⟨lost, state, quality, pwr.trans hpwr, hpage.flag_eq _ (by decide) (by decide) (by decide), hpage.flag_eq _ (by decide) (by decide) (by decide),
      hpage.reg_eq _ (by decide) (by decide) (by decide), pend, mode, hpage.loopY_eq (by decide), moves.within⟩
  case noted =>
    have ht : xoLoss s = s.updPwr fun p => { p with xoIn := false } := if_neg fun h => absurd (h.2.symm.trans hm) (by decide)
    rw [ht]
    exact ⟨rfl, (State.updPwr_moves (.refl _ s) _ (.head _)).within⟩
  case notedBack =>
    have ht : xoReturn s = s.updPwr fun p => { p with xoIn := true } := if_neg fun h => absurd (h.2.symm.trans hm) (by decide)
    rw [ht]
    exact ⟨rfl, (State.updPwr_moves (.refl _ s) _ (.head _)).within⟩
  case back =>
    have ht : xoReturn s = ((s.updPwr fun p => { p with xoIn := true }).updLoop fun l => { l with aligning := true }).raise F.LOOP_INT_STATUS_XO_RETURN :=
      if_pos ⟨by rw [hx]; decide, hm⟩
    have moves : Moves [.loop, .pwr] s ((s.updPwr fun p => { p with xoIn := true }).updLoop fun l => { l with aligning := true }) :=
      State.updLoop_moves (State.updPwr_moves (.refl _ s) _ (by simp)) _ (by simp)
    rw [ht]
    refine ⟨State.flag_raise_same _ _ (by decide) rfl, by rw [State.raise_loop]; rfl, by rw [State.raise_pwr]; rfl, ?_⟩
    exact ((Touches.refl _ _ s).of_parts moves (by decide) fun _ h => h).raise _ (.head _)
  case edge =>
    have ht : t = edgeL (s.flag F.LOOP_STATUS_HO_READY) (holdY s.loop.hoT (s.updLoop fun l => { l with aligning := false }))
      (s.updLoop fun l => { l with aligning := false }) := e.symm.trans ((if_pos ha).trans (if_neg (by rw [hf]; decide)))
    have moves : Moves [.loop] s (s.updLoop fun l => { l with aligning := false }) := State.updLoop_moves (.refl _ s) _ (.head _)
    have hloop : (s.updLoop fun l => { l with aligning := false }).loop = { s.loop with aligning := false } := rfl
    generalize (s.updLoop _) = u at ht moves hloop
    have hold : holdY s.loop.hoT u = holdY s.loop.hoT s := by
      rw [holdY, hloop]
      rfl
    have limit : freqLimit u = freqLimit s := by rw [freqLimit, State.fld_of_regs moves.within.regs_eq, freqLimit]
    have hy : loopY u = loopY s := (PageKeep.of_parts (fs := []) moves).loopY_eq (by decide)
    obtain ⟨loop, keeper, backup, searching, state, y, moves'⟩ := edgeL_shows _ _ u ht
    rw [hold, limit, hy] at y
    exact ⟨loop.trans hloop, keeper, backup, searching, state.trans (State.fld_of_regs moves.within.regs_eq _), y,
      ((moves.mono (by simp)).trans (moves'.mono (by simp))).within⟩
  case held =>
    obtain rfl := e.symm.trans ((if_pos ha).trans (if_pos hf))
    exact ⟨rfl, (State.updLoop_moves (.refl _ s) _ (.head _)).within⟩

end Sys2Proof.Machine
end
